-- ==== Sys2Proof/Word.lean ====
section
/-! DEFINITION. The machine words of the manual (R13, R30): bytes, 32-bit registers, 64-bit Table Time values. -/
namespace Sys2Proof

/-- One byte. -/
abbrev Byte := BitVec 8
/-- A register or a doorbell word (R13). -/
abbrev Word := BitVec 32
/-- A 64-bit value: Table Time, a device address, an I/O virtual address. -/
abbrev DWord := BitVec 64

end Sys2Proof
end

