-- ==== Sys2Proof/Syntax.lean ====
section
/-! DEFINITION. The commands the block takes: one constructor of Instr for each row of spec/opcode_table.json, with the row's
operands, and the types those operands use. A command is what arrives from outside (a register access, a bus or protocol
message, an edge of a pin) or an event of one of the block's own engines; the rule each row rests on is named beside it. -/
namespace Sys2Proof

/-- Who makes an access or sends a request: the physical function, the virtual function of a tenant, the management cores,
the root of trust (R73, R83). -/
inductive Func where
  | pf
  | vf (tenant : Nat)
  | mgmt
  | rot
deriving DecidableEq, Repr

/-- The block classes of R75, and absent pages apart. -/
inductive PageClass where
  | identity | tableTime | power | mailbox | faultCollector | handHistory | pcie | fabric | csi | isp | pdmIn | beamformer
  | ring | voiceOut | callEngine | mgmtCores | lowSpeed | matrix | vector | stateUnit | streamPort | mesh | stem | dieLink
  | hbm | kitty | meld | queueEngine | memEnc | context
deriving DecidableEq, Repr

/-- What a message between islands carries (R35): a register write, by its writer, address and value (R73), or something that the
model tells apart by a number only. -/
inductive Payload where
  | tag (n : Nat)
  | write (w : Func) (a : Nat) (v : Word)
deriving DecidableEq, Repr

/-- A register page: its class and its number within the class (the INSTANCE of R592; for a die link 4 × die + edge, the edges
being north 0, east 1, south 2, west 3). -/
structure Page where
  cls : PageClass
  idx : Nat
deriving DecidableEq, Repr

/-- A power-good input of R579: MAIN_PG or MEM_PG. -/
inductive Rail where
  | main | mem
deriving DecidableEq, Repr

/-- A verdict of the Call engine's model (R257, R264): kind 1–6, confidence, beam, ring block index where its speech starts. -/
structure Verdict where
  kind : Nat
  score : Nat
  beam : Nat
  start : Nat
deriving DecidableEq, Repr

/-- The ECC result of a CSI-2 packet header (R185): no error, a corrected bit, or uncorrectable, with the virtual channel where
its bits could be corrected. -/
inductive Ecc where
  | clean
  | corrected
  | bad (vc : Option Nat)
deriving DecidableEq, Repr

/-- Element formats of R265. -/
inductive Elem where
  | pip4 | int4 | mxint8 | int8 | e4m3 | e5m2 | e2m1 | bf16 | fp32
deriving DecidableEq, Repr

/-- Who asks for device memory (R374): a context, a tile writing back a pool line of a tenant's tag (R392), the table logic serving a
peer for a tenant (R519), the management cores, the root of trust. -/
inductive Requester where
  | ctx (c : Nat)
  | tag (tenant : Nat)
  | table (tenant : Nat)
  | mgmt
  | rot
deriving DecidableEq, Repr

/-- A home slot (R369): in T3 at a device address, or in T4 at an I/O virtual address of a context. -/
structure Home where
  t4 : Option Nat
  addr : Nat
deriving DecidableEq, Repr

/-- A matrix instruction, decoded (R230–R234; its encoding is not part of the programming interface, R246): operand pair, the first
weight block's element and scale planes in tile SRAM and how many input blocks of 64 follow (R270), stream b's activation vector at
aBase + b·aPitch with scale bytes at aScale + b·sPitch, streams, the channel records of its 64 outputs, and the vector register at
which the finished group drains. -/
structure MatrixOp where
  wFmt : Elem
  aFmt : Elem
  wBase : Nat
  wScale : Nat
  blocks : Nat
  aBase : Nat
  aPitch : Nat
  aScale : Nat
  sPitch : Nat
  batch : Nat
  records : Nat
  drain : Option Nat
deriving DecidableEq, Repr

/-- The lane operations of R238. -/
inductive LaneFn where
  | add | sub | mul | min | max | wrapAdd | shiftLeft | shiftRight | shiftRightLogical | less | equal | select
  | toFloat | toInt | fromBf16 | toBf16
  /-- a function table: basic curves 0–3, the loadable images 4–6 -/
  | table (k : Nat)
  | reciprocal | recipSqrt
  | sumLanes | maxLanes
  /-- lane i takes lane `from_[i]` -/
  | permute (from_ : List Nat)
  /-- a 32 × 32 block held in four registers is transposed -/
  | transpose
  /-- codes of a format in the low bits of each lane, with the scale byte in lane ⌊i/32⌋ of register c, to FP32 -/
  | toReal (f : Elem)
  /-- one 32-bit draw of the device random source in every lane -/
  | random
deriving DecidableEq, Repr

/-- A generator's walk (R240): base, up to four dimensions as (count, byte stride) from the innermost, element size in nibbles. -/
structure GenWalk where
  base : Nat
  dims : List (Nat × Int)
  nibbles : Nat
deriving DecidableEq, Repr

/-- Where a generator of a tile points (R240, R357, R393, R397): the tile's own SRAM, a home slot through the tile stream port, or,
for the write generator, the service's token queue or another stream queue. -/
inductive GenTarget where
  | own
  | home (h : Home)
  | tokens (queue : Nat)
  | stream (queue : Nat)
deriving DecidableEq, Repr

/-- Where the vector engine's results go (R238): vector registers from one on, or the write generator, which walks a target of its own
tile or the SRAM of another tile. -/
inductive LaneDest where
  | reg (r : Nat)
  | gen (target : GenTarget) (walk : GenWalk)
  | remote (tile : Nat) (walk : GenWalk)
deriving DecidableEq, Repr

/-- A vector-engine operation over 256 lanes (R238, R239): FP32 or 32-bit integer, source registers, and where the results go. -/
structure VectorOp where
  fn : LaneFn
  float : Bool
  a : Nat
  b : Nat
  c : Nat
  dst : LaneDest
deriving DecidableEq, Repr

/-- A Requantise operation (R280): `count` lanes from register src, whose lane i belongs to channel ⌊i/run⌋ mod chans of the records,
at width 4, 8, 16 or 32, and where the results go. -/
structure RequantOp where
  src : Nat
  count : Nat
  run : Nat
  chans : Nat
  records : Nat
  width : Nat
  dst : LaneDest
deriving DecidableEq, Repr

/-- Where a Quantise puts its codes and its scale bytes (R238, R269): planes in the SRAM of the tile or of another one, vector registers
from two on, one code or scale byte to a lane, or the write generator, which walks a target for each. -/
inductive QuantDest where
  | planes (tile : Option Nat) (elems scales : Nat)
  | regs (codes scales : Nat)
  | gen (target : GenTarget) (walk : GenWalk) (scaleTarget : GenTarget) (scaleWalk : GenWalk)
deriving DecidableEq, Repr

/-- A Quantise operation (R272–R277): `count` lanes from register src, FP32 or integer, as rows of `cols` elements (R269), in groups of 32
or, in a format with one scale per channel, a row to a group, through a quantisation point, to codes and scale bytes. -/
structure QuantOp where
  point : Nat
  fmt : Elem
  float : Bool
  src : Nat
  count : Nat
  cols : Nat
  dst : QuantDest
deriving DecidableEq, Repr

/-- Where a state instruction takes an operand of its tokens from (R295): vector registers from one on, a lane to a value, or tile SRAM, which
read generator 0 walks, an element to a value. -/
inductive StepSrc where
  | regs (r : Nat)
  | own (walk : GenWalk)
deriving DecidableEq, Repr

/-- A segment that a state instruction names: its reset mask, where its per-token operands come from and where its read-outs go
(R295, R308). -/
structure SegStep where
  seg : Nat
  mask : Nat
  x : StepSrc
  z : StepSrc
  b : StepSrc
  c : StepSrc
  y : LaneDest
deriving DecidableEq, Repr

/-- A state instruction (R306). -/
structure StateOp where
  segs : List SegStep
  tokens : Nat
deriving DecidableEq, Repr

/-- What the kernel's Requantise and Quantise instructions make of a window operator's results (R331): left in vector registers from
one on, INT8 codes, or a quantised tensor. -/
inductive WindowPost where
  | regs (dst : Nat)
  | requant8
  | quantise (point : Nat) (fmt : Elem)
deriving DecidableEq, Repr

/-- A window instruction (R323, R336): descriptor, weight plane (INT4 or INT8 on the window path, blocks of a format on the array)
with its scale plane, channel records, the halo biases, what becomes of the results, and the posts of POST_ROWS as (tile, counter). -/
structure WindowOp where
  desc : Nat
  wFmt : Elem
  weights : Nat
  wScale : Nat
  records : Nat
  biasUp : Nat
  biasDown : Nat
  post : WindowPost
  posts : List (Nat × Nat)
deriving DecidableEq, Repr

/-- A generator instruction: read (generators 0 and 1) or write, its walk, and the first vector register of its elements. -/
structure GenOp where
  write : Bool
  walk : GenWalk
  reg : Nat
deriving DecidableEq, Repr

/-- How an instruction of a microprogram issues (R246): its offset in 16-byte units, the tokens it waits on, those it signals, and, for a
read generator's, whether it is read generator 1 rather than 0. -/
structure Issue where
  pc : Nat
  waits : List Nat
  signals : List Nat
  second : Bool
deriving DecidableEq, Repr

/-- What a host read answers: completion data, a poisoned completion, or Unsupported Request or Completer Abort (R430, R529). -/
inductive HostData where
  | bytes (data : List (BitVec 8))
  | poisoned
  | unsupported
deriving DecidableEq, Repr

/-- Who delivers to a PUT queue (R409, R410): a line or a descriptor of a receiver's slot, a line or a descriptor of a pipeline's output, a
statistics record of a pipeline's input, a record of a tile (0 completion, 1 exponent change, 2 token) or of a stem engine, what a tile's write
generator sends toward the stream port (R240), data of the management cores. -/
inductive PutSource where
  | csiLine (receiver slot : Nat)
  | csiDesc (receiver slot : Nat)
  | ispLine (pipeline output : Nat)
  | ispDesc (pipeline output : Nat)
  | ispStat (pipeline input : Nat)
  | tileRecord (tile kind : Nat)
  | stemRecord (engine : Nat)
  | tileOutput (tile : Nat)
  | mgmt (queue : Nat) (data : List (BitVec 8))
deriving DecidableEq, Repr

/-- A frame that a fabric port receives (R497–R502): port, source address, whether it is a PAUSE or PFC frame, whether its FCS and its ICV
check pass, the key slot of the association it came under, its 32-byte table header, and its payload. -/
structure Frame where
  port : Nat
  mac : Nat
  pause : Bool
  fcsOk : Bool
  icvOk : Bool
  slot : Nat
  header : List (BitVec 8)
  payload : List (BitVec 8)
deriving DecidableEq, Repr

/-- Where a memory finds an error (R529): a byte of tile SRAM, an entry of a state file, a tile's accumulators, vector registers or launch
FIFO, a kitty line, a granule of device memory, a ring block, the Call engine's SRAM, a FIFO of a receiver's slot, a line buffer of a
pipeline's input or output, management-core L2, root-of-trust SRAM, the keeper (R554), the endpoint's posted-write buffer, the fault
collector's buffer. -/
inductive EccSite where
  | tileSram (tile addr : Nat)
  | stateFile (tile entry : Nat)
  | accumulators (tile : Nat)
  | vectorRegs (tile : Nat)
  | tileFifo (tile : Nat)
  | kitty (md line : Nat)
  | hbm (addr : Nat)
  | alwaysOn (block : Nat)
  | callEngine (addr : Nat)
  | receiverFifo (receiver slot : Nat)
  | pipelineInput (pipeline input : Nat)
  | pipelineOutput (pipeline output : Nat)
  | mgmtL2
  | rotSram
  | keeper
  | endpointBuffer
  | collectorBuffer
deriving DecidableEq, Repr

/-- A gPTP message (R509). -/
inductive Gptp where
  | sync | followUp | pdelayReq | pdelayResp | pdelayFollowUp | announce
deriving DecidableEq, Repr

/-- A host configuration write (R93, R441, R444, R445, R448, R449): VF Enable and NumVFs of the PF, MSI-X Enable and Function Mask and
Memory Space Enable of a function, ASPM L1.2 enable, PME_En, the clearing of PME_Status, and a selective IDE stream's TEE-Limited bit and
RID association, as first and last function (R476). -/
inductive CfgWrite where
  | vfEnable (on : Bool)
  | numVfs (n : Nat)
  | msix (fn : Nat) (enable mask : Bool)
  | memorySpace (fn : Nat) (on : Bool)
  | aspmL12 (on : Bool)
  | pmeEnable (on : Bool)
  | clearPmeStatus
  | ideStream (stream : Nat) (tee : Bool) (lo hi : Nat)
deriving DecidableEq, Repr

/-- The commands: one constructor for each row of spec/opcode_table.json, in its order. -/
inductive Instr where
  -- power-up, decks and the mailbox
  | wholeDeviceReset (powerOn : Bool)
  -- supplies and temperature
  | powerGoodRise (r : Rail)
  -- power-up, decks and the mailbox
  | linkTrained (width speed : Nat) (laneFail : Bool)
  -- supplies and temperature
  | powerGoodFailure (r : Rail)
  -- power-up, decks and the mailbox
  | deckBegin (w : Func)
  | stagingWrite (off : Nat) (data : List Byte)
  | deckChunk (w : Func) (h : Nat)
  | deckDma (w : Func) (h : Nat) (list : List Byte)
  | deckDmaCompletion (h : Nat) (ans : Option HostData)
  | deckFinish (w : Func) (h : Nat)
  | deckAbort (w : Func) (h : Nat)
  | svnCommit (w : Func)
  | modelUnload (w : Func)
  -- Table Time
  | crossingCommit (src dst stamp : Nat) (payload : Payload)
  | lateCommit (src dst stamp : Nat) (payload : Payload)
  | rtcMeasurement (ticks : Nat)
  | load (w : Func) (disciplined : Bool)
  | step (w : Func) (disciplined : Bool)
  | rateAdjustment (w : Func) (v : Word)
  | ttNowRead (w : Func)
  | relaxMaskWrite (w : Func) (k : Nat) (v : Word)
  | dealArm (w : Func) (p : Page) (latePolicy : Bool) (action period : Nat)
  | cancel (w : Func) (p : Page)
  | dealLaunch (p : Page)
  | counterSnapshot (p : Page)
  -- the common page head and register accesses
  | enable (w : Func) (p : Page) (on : Bool)
  | softReset (w : Func) (p : Page)
  | expert (w : Func) (p : Page)
  | expertClear (w : Func) (p : Page)
  | cntClear (w : Func) (p : Page)
  | evtRawWrite (w : Func) (p : Page) (v : Word)
  | evtForce (w : Func) (p : Page) (v : Word)
  | evtEnWrite (w : Func) (p : Page) (v : Word)
  | evtRouteWrite (w : Func) (p : Page) (v : Word)
  | fence (w : Func) (p : Page) (drain : Nat)
  -- errors, fences and recovery
  | release (w : Func) (p : Page) (drain : Nat)
  -- the common page head and register accesses
  | cmdTimeout (p : Page) (id : Nat)
  | registerWrite (w : Func) (a : Nat) (vs : List Word) (list : List Byte)
  -- accesses
  | misalignedAccess (w : Func) (write : Bool) (a : Nat)
  -- power states and wake events
  | pwrCmdGo (w : Func) (target : Nat)
  | hostReq (w : Func) (target : Nat)
  -- microphones, ring, Call engine and voice out
  | audioBlockEnd (g formed : Nat) (pcm : List (List Int))
  | resync (g : Nat)
  | resyncDone (g : Nat)
  | bankSwitch (g : Nat)
  | switch (w : Func) (g : Nat)
  -- compute tiles
  | callEngineBlock (vs : List Verdict)
  -- compute tiles
  | ceRestart (w : Func)
  -- microphones, ring, Call engine and voice out
  | ringEnable (w : Func) (on : Bool)
  | relock (w : Func) (enable : Bool)
  | releasePortRead (tenant : Option Nat) (addr : Nat)
  | voStart (port : Nat)
  | voStop (port : Nat)
  | voFrame (p t : Nat)
  -- CSI-2 receivers
  | hsBurst (r : Nat) (ok : Bool)
  | deskew (r : Nat)
  | frameStart (r vc : Nat) (ecc : Ecc) (no sofTt : Nat)
  | frameEnd (r vc : Nat) (ecc : Ecc) (eofTt : Nat)
  | lineStart (r vc : Nat) (ecc : Ecc) (line : Nat)
  | lineEnd (r vc : Nat) (ecc : Ecc)
  | longPacket (r vc dt : Nat) (ecc : Ecc) (crcOk : Bool) (payload : List Byte)
  | genericShortPacket (r vc : Nat) (ecc : Ecc)
  | frameTimeout (r k : Nat)
  | frameDescriptor (r k : Nat)
  | fsync (r : Nat)
  | captureStart (r : Nat)
  | captureStop (r : Nat)
  | vcErrRead (w : Func) (r vc : Nat)
  -- image pipelines
  | sliceStart (n : Nat)
  | sliceEnd (n : Nat)
  | ispTblDataAccess (w : Func) (n : Nat) (v : Option Word)
  | ispXtblDataAccess (w : Func) (n : Nat) (v : Option Word)
  -- compute tiles
  | launchPush (w : Func) (t : Nat) (v : Word)
  | launch (t : Nat)
  | kernelStart (t : Nat)
  | kernelEnd (t pc : Nat) (undefined : Bool)
  | matrixInstruction (t : Nat) (i : Issue) (o : MatrixOp)
  | vectorOperation (t : Nat) (i : Issue) (o : VectorOp)
  -- number formats and quantisation
  | requantise (t : Nat) (i : Issue) (o : RequantOp)
  | quantise (t : Nat) (i : Issue) (o : QuantOp)
  -- state units
  | stateInstruction (t : Nat) (i : Issue) (o : StateOp)
  -- window operators and stem engines
  | windowInstruction (t : Nat) (i : Issue) (o : WindowOp)
  -- compute tiles
  | set (t : Nat) (i : Issue) (n v : Nat)
  | post (t : Nat) (i : Issue) (u n v : Nat)
  | wait (t : Nat) (i : Issue) (n v : Nat)
  | haloPostCommit (t : Nat)
  | remoteRead (t u : Nat) (i : Issue) (walk : GenWalk) (reg : Nat)
  | remoteWrite (t u : Nat) (i : Issue) (walk : GenWalk) (reg : Nat)
  | clockRequest (w : Func) (noc : Bool) (k : Nat) (v : Word)
  | clockChange (noc : Bool) (k : Nat)
  | flitCrcFailure (die edge m nth : Nat)
  | flitDiscard (die edge : Nat)
  -- errors, fences and recovery
  | eccError (site : EccSite) (corrected : Bool) (bits : Nat)
  -- window operators and stem engines
  | stemJobPush (w : Func) (d : Nat) (v : Word)
  | job (d : Nat)
  | stemJobStart (d : Nat)
  | stemLineCommit (n o : Nat)
  | stemJobEnd (d : Nat)
  -- state units
  | segmentAllocate (w : Func) (t : Nat) (v : Word)
  | segmentRelease (w : Func) (t : Nat) (v : Word)
  | zeroDone (t n : Nat)
  | suTblWrite (w : Func) (t m i : Nat) (v : Word)
  | commit (w : Func) (t : Nat) (v : Word)
  -- number formats and quantisation
  | veQpAdjWrite (w : Func) (t n : Nat) (v : Word)
  -- memory
  | kittyLookup (who : Requester) (dom : Nat) (h : Home)
  | kittyFillComplete (n k : Nat) (host : List Byte)
  | writeBack (t : Nat)
  | flushAll (w : Func) (n : Nat)
  | flushTenant (w : Func) (n tenant : Nat)
  | discardTenant (w : Func) (n tenant : Nat)
  | patrolScrub (n bad : Nat)
  | regionWrite (w : Func) (k : Nat) (v : Word)
  | poolFill (q id : Nat) (ans : HostData)
  | holdExpiry (t : Nat)
  | writeBackAck (t : Nat)
  | poolFlushDone (t : Nat)
  | unpinContext (w : Func) (t ctx : Nat)
  | unpinAll (w : Func) (t : Nat)
  | flush (w : Func) (t : Nat)
  | invalidateTenant (w : Func) (t tenant : Nat)
  -- stream queues
  | arm (w : Func) (q listSpace : Nat)
  | append (w : Func) (q : Nat)
  | rearm (w : Func) (q : Nat) (group : Bool)
  | resume (w : Func) (q : Nat)
  | stop (w : Func) (q : Nat)
  | transferIssue (q : Nat) (list : List Byte)
  | transferComplete (q id : Nat) (ans : HostData)
  | queueLaunchSend (q : Nat)
  | endNotification (q : Nat)
  | atsTranslation (q : Nat) (granted : Bool)
  | pageRequestResponse (q code : Nat)
  | priTimeout (q : Nat)
  | putDelivery (src : PutSource) (list : List Byte)
  | multicastPut (q : Nat) (data list : List Byte)
  | multicastAck (q t : Nat)
  | fold (q : Nat)
  -- the host link, contexts and service rings
  | vfFlr (t : Nat)
  | flrTimeout (c : Nat)
  | d3hotEntry (fn : Nat)
  | msixUnmask (fn : Nat) (vector : Option Nat) (mask : Bool)
  | invalidateRequest (fn : Nat) (pasid : Option Nat) (a n : Nat)
  | create (w : Func) (c : Nat)
  | bind (w : Func) (c slot : Nat)
  | bindComplete (slot : Nat)
  | unbind (w : Func) (c : Nat)
  | destroy (w : Func) (c : Nat)
  | destroyComplete (c : Nat)
  | svcRingEnable (w : Func) (c : Nat) (v : Word)
  | h2dTailWrite (w : Func) (c : Nat) (v : Word)
  | applianceEvent (c : Nat) (cell : List Byte)
  | confirm (c : Nat) (cell : List Byte)
  | say (c : Nat) (cell : List Byte)
  | query (c : Nat) (cell : List Byte)
  | d2hHeadWrite (w : Func) (c : Nat) (v : Word)
  | intent (t : Nat) (urgent reply : Bool) (corr id verb target confidence seat : Nat) (params : List (Nat × Nat × Nat))
  | status (t code a0 a1 : Nat) (urgent : Bool)
  | event (code a0 a1 : Nat) (urgent : Bool)
  -- security
  | doeDiscovery (fn : Nat)
  | getVersion (fn : Nat)
  | getCapabilities (fn : Nat)
  | negotiateAlgorithms (fn : Nat) (offers : Bool)
  | getDigests (fn : Nat)
  | getCertificate (fn slot off len : Nat)
  | challenge (fn slot : Nat) (all : Bool)
  | getMeasurements (fn index : Nat) (signed : Bool)
  | keyExchange (fn slot id : Nat)
  | finish (fn id : Nat)
  | heartbeat (fn id : Nat)
  | keyUpdate (fn id : Nat)
  | endSession (fn id : Nat)
  | sessionTimeout (fn id : Nat)
  | ideKmQuery (id : Nat)
  | keyProg (id stream set dir : Nat)
  | kSetGo (id stream set dir : Nat)
  | kSetStop (id stream set dir : Nat)
  | integrityFailure (stream : Nat)
  | getTdispVersion (t id : Nat)
  | getTdispCapabilities (t id : Nat)
  | lockInterfaceRequest (t id : Nat)
  | getDeviceInterfaceReport (t id : Nat)
  | getDeviceInterfaceState (t id : Nat)
  | startInterfaceRequest (t id : Nat)
  | stopInterfaceRequest (t id : Nat)
  | keyDeliver (t id k kind : Nat) (reserved : Bool) (key : List Byte)
  | keyErase (t id k : Nat) (reserved : Bool)
  | slotQuery (t id : Nat)
  | assign (w : Func) (k t kind : Nat)
  | retire (w : Func) (k : Nat)
  | erasureConfirmed (k : Nat)
  | expertGrantWrite (w : Func) (k : Nat) (v : Word)
  | deny (w : Func) (v : Word)
  | fixedDealEnable (w : Func) (v : Word)
  -- the table
  | hello (f : Frame)
  | leave (f : Frame)
  | bid (f : Frame)
  | award (f : Frame)
  | fetchReq (f : Frame)
  | fetchData (f : Frame)
  | fetchErr (f : Frame)
  | lendReq (f : Frame)
  | lendOffer (f : Frame)
  | lendAccept (f : Frame)
  | lendData (f : Frame)
  | lendEnd (f : Frame)
  | service (f : Frame)
  | helloTimer (free : Nat)
  | membershipTimeout (d : Nat)
  | fetchTimeout (corr : Nat)
  | join (w : Func) (v : Word)
  | svcTxTailWrite (w : Func) (v : Word) (entries : List (List Byte))
  | sync (port : Nat)
  | linkChange (port : Nat) (up fec : Bool)
  -- errors, fences and recovery
  | drainEnd (d : Nat)
  | revokeEnd (d : Nat)
  | resetEnd (d : Nat)
  | reinstalled (t : Nat)
  | ringEn (w : Func) (v : Word)
  | fcRingHeadWrite (w : Func) (v : Word)
  | watchdogKick (w : Func) (v : Word)
  -- hand history
  | record (w : Func)
  | replay (w : Func)
  | off (w : Func)
  | checkpoint (w : Func)
  | hhMark (w : Func) (v : Word)
  | replayInject (host : List Byte)
  | replayDone (host : List Byte)
  -- supplies and temperature
  | throttleDecision (p : Nat)
  | tempSensorUpdate (k value : Nat)
  | avsRetry (die : Nat)
  -- the host link, contexts and service rings
  | configurationRequest (x : CfgWrite)
  | returnToD0 (fn : Nat)
  -- errors, fences and recovery
  | completionTimeout (q id : Nat)
  -- CSI-2 receivers
  | fsyncPulseEnd (r : Nat)
  -- the table
  | peerDelayMeasurement (port : Nat) (m : Gptp) (sent : Bool)
  -- the host link, contexts and service rings
  | retrain (width speed : Nat) (laneFail : Bool)
  -- memory
  | kittyCmdDone (n : Nat)
  -- compute tiles
  | addressGeneratorAccess (t : Nat) (i : Issue) (target : GenTarget) (host : Option (List Byte)) (o : GenOp)
  -- CSI-2 receivers
  | linkUp (r : Nat) (up : Bool)
  -- commands without operands, of every group above (they stand last because compiled Lean numbers only the first 245
  -- constructors that carry data)
  | perstDeassert
  | diesReady
  | serviceReady
  | restoreDone
  | beat
  | rtcEdge
  | anteRealign
  | holdEnd
  | holdExpired
  | quiesceEnd
  | quiesceTimeout
  | descendStepEnd
  | wakeIn
  | host
  | wake
  | climbStepEnd
  | dutyWindowStart
  | dutyWindowEnd
  | brownOutReset
  | regulatorModeSwitched
  | signOff
  | modelRestarted
  | unlockLimitExpiry
  | regionEffect
  | pfFlr
  | roundDecision
  | awardTimeout
  | recordDelivery
  | watchdogFire
  | checkpointComplete
  | tripShutdown
  | syncInterval
  | powerLoss
deriving DecidableEq, Repr

end Sys2Proof
end

