-- ==== Sys2Proof/Config.lean ====
section
/-! DEFINITION. What the spec leaves to an implementation, or gives as a value without saying which: opaque constants without a
body, so that no proof can rest on a value of one. Each is named in notes/assumptions. -/
namespace Sys2Proof

/-- A fresh unstated value, by the counter `freeIdx` of the state. -/
opaque Config.freeValue : Nat → BitVec 64

/-- SHA-384 of a byte string, as a number (R101, R104). -/
opaque Config.sha384 : List Byte → Nat

/-- Does the ECDSA P-384 signature of R100 verify: public key, signature, message. -/
opaque Config.ecdsaOk : List Byte → List Byte → List Byte → Bool

/-- Does the ML-DSA-65 signature of R100 verify: public key, signature, message. -/
opaque Config.mldsaOk : List Byte → List Byte → List Byte → Bool

/-- SHA-384 of the boot ROM (R473). -/
opaque Config.bootRom : Nat

/-- HKDF-SHA-384 of an input key and an info string, and HMAC-SHA-384 of a key and data, as numbers (R469). -/
opaque Config.hkdf384 : List Byte → List Byte → Nat
opaque Config.hmac384 : List Byte → List Byte → Nat

/-- The ECDSA P-384 public key of a private key derived as a number, and a signature with it (R469). -/
opaque Config.ecdsaPublic : Nat → List Byte
opaque Config.ecdsaSign : Nat → List Byte → List Byte

/-- The Alias certificate without its signature, for an Alias public key, a boot deck header digest, its SVN and anti-rollback counter 0
(R470). -/
opaque Config.aliasCert : List Byte → Nat → Nat → Nat → List Byte

/-- The certificate chain of slot 0, for a serial, a DeviceID public key, the fused endorsement, and the signed Alias certificate (R470). -/
opaque Config.certChain : Nat → List Byte → Nat → List Byte → List Byte

/-- The DC-blocking first-order high-pass of R153: whether the rate is 48 kHz, the sample in, the sample in before it and the sample out
before it; answers the sample out. -/
opaque Config.highPass : Bool → Int → Int → Int → Int

/-- The destination address of a frame to a seat of which no port has heard a HELLO (R498, R506). -/
opaque Config.unlearnedMac : Nat → Nat

/-- The fixed table of channel gains (R153), for a code of −48 to 48 other than 0, in units of 2^-24. -/
opaque Config.gainTable : Int → Int

/-- The fixed table of voice-out attenuations (R175), for a code of 1 to 127, in units of 2^-30. -/
opaque Config.attenTable : Nat → Nat

/-- The fixed 8-tap interpolator of R157: phases per sample, phase, the 8 samples around the instant. -/
opaque Config.interpolate : Nat → Nat → List Int → Int

/-- The fixed block_power procedure of R160, in 1/16 dB. -/
opaque Config.blockPower : List Int → Int

/-- A sample of an echo-cancelled beam (R179), by free-value counter and sample number. -/
opaque Config.cancelled : Nat → Nat → BitVec 24

/-- The fixed edge-directed interpolation of R213 stage 3: the CFA position of the pixel's cell and the 25 window taps; answers the
three colours, of which the captured one is not used. -/
opaque Config.demosaic : Nat → List Nat → Nat × Nat × Nat

/-- The fixed scaler table of R216: phase and tap. -/
opaque Config.scalerCoef : Nat → Nat → Int

/-- How the training of a die link ends on this device (R254), by the number of its lower page: bits 0–3 its modules that fail or lose more
lanes than they can repair, bits 4–11 the lanes that redundant lanes replace. -/
opaque Config.linkTraining : Nat → BitVec 12

/-- Which basic curve the vector engine's loadable image k holds at reset (R261): the four curves have three images (R298). -/
opaque Config.vectorCurve : Nat → BitVec 2

/-- The voltage in millivolts that a compute die needs at a clock in 25 MHz of which R228 prints none. -/
opaque Config.railMillivolts : Nat → BitVec 12

/-- Which of the words within 1 ulp the reciprocal and the reciprocal square root of an FP32 word give (R239): 1 the one below the
exact one in magnitude, 2 the one above, else the exact one. -/
opaque Config.recipUlp : BitVec 32 → BitVec 2
opaque Config.recipSqrtUlp : BitVec 32 → BitVec 2

/-- The payload that the fixed encoder of R384 builds for a codec (1–3) from a decoded tile. -/
opaque Config.meldPayload : Nat → List (BitVec 8) → List (BitVec 8)

end Sys2Proof
end

