-- ==== Sys2Proof/Machine/Bits.lean ====
section
/-! DEFINITION. Bit fields, byte order, signed values, rounding and the sparse sorted lists that hold registers and memory. -/
namespace Sys2Proof.Machine

/-- Bits [lo+w-1:lo] of a number. -/
def bitsAt (v lo w : Nat) : Nat := v / 2 ^ lo % 2 ^ w

/-- A number with bits [lo+w-1:lo] replaced by the low bits of x. -/
def putAt (v lo w x : Nat) : Nat := v - bitsAt v lo w * 2 ^ lo + (x % 2 ^ w) * 2 ^ lo

/-- Bit b of a number. -/
def bitAt (v b : Nat) : Bool := bitsAt v b 1 == 1

/-- A field of a register as a number. -/
def fieldOf (v : Word) (lo w : Nat) : Nat := bitsAt v.toNat lo w

/-- A register with one field replaced. -/
def putField (v : Word) (lo w x : Nat) : Word := BitVec.ofNat 32 (putAt v.toNat lo w x)

/-- Bit b of a register. -/
def bitOf (v : Word) (b : Nat) : Bool := bitAt v.toNat b

/-- A one-bit number. -/
def ofBool (b : Bool) : Nat := if b then 1 else 0

/-- The w-bit two's-complement value of a number. -/
def signed (w n : Nat) : Int := if 2 ^ (w - 1) ≤ n % 2 ^ w then (n % 2 ^ w : Nat) - (2 ^ w : Nat) else (n % 2 ^ w : Nat)

/-- An integer as a w-bit two's-complement number. -/
def wrap (w : Nat) (x : Int) : Nat := (x % (2 ^ w : Nat)).toNat

/-- An integer clamped to [lo, hi]. -/
def clampInt (lo hi x : Int) : Int := if x < lo then lo else if hi < x then hi else x

/-- A natural number clamped to at most hi. -/
def satNat (hi n : Nat) : Nat := if hi < n then hi else n

/-- Division rounded up. -/
def ceilDiv (a b : Nat) : Nat := (a + (b - 1)) / b

/-- Division of an integer by 2^k, rounded to nearest, ties to even. -/
def rneShift (x : Int) (k : Nat) : Int :=
  let d : Int := (2 ^ k : Nat)
  let q := x / d
  let r := x - q * d
  if 2 * r < d then q else if d < 2 * r then q + 1 else if q % 2 = 0 then q else q + 1

/-- Division of an integer by a positive number, rounded to nearest, ties to even. -/
def rneDiv (x : Int) (d : Nat) : Int :=
  let q := x / (d : Int)
  let r := x - q * (d : Int)
  if 2 * r < d then q else if (d : Int) < 2 * r then q + 1 else if q % 2 = 0 then q else q + 1

/-- ⌊log2 n⌋ for n > 0, 0 for 0. -/
def log2 (n : Nat) : Nat := Nat.log2 n

/-- The n little-endian bytes of a number. -/
def leBytes : Nat → Nat → List Byte
  | 0, _ => []
  | n + 1, v => BitVec.ofNat 8 v :: leBytes n (v / 256)

/-- The number that little-endian bytes spell. -/
def ofLeBytes : List Byte → Nat
  | [] => 0
  | b :: bs => b.toNat + 256 * ofLeBytes bs

/-- The numbers lo, lo+1, …, lo+n-1. -/
def rangeFrom (lo n : Nat) : List Nat := (List.range n).map (lo + ·)

/-- The value a sorted association list gives a key, or the default. -/
def sget {α : Type} (d : α) : List (Nat × α) → Nat → α
  | [], _ => d
  | (k, v) :: r, a => if a = k then v else sget d r a

/-- A sorted association list with one key set. -/
def sput {α : Type} : List (Nat × α) → Nat → α → List (Nat × α)
  | [], a, x => [(a, x)]
  | (k, v) :: r, a, x => if a = k then (a, x) :: r else if a < k then (a, x) :: (k, v) :: r else (k, v) :: sput r a x

/-- A sorted association list with one key removed. -/
def sdel {α : Type} (l : List (Nat × α)) (a : Nat) : List (Nat × α) := l.filter fun e => e.1 != a

/-- Set a key, keeping the list free of the value that an unlisted key reads as. -/
def sset {α : Type} [DecidableEq α] (d : α) (l : List (Nat × α)) (a : Nat) (x : α) : List (Nat × α) :=
  if x = d then sdel l a else sput l a x

/-- Keys strictly rising. -/
def sortedKeys {α : Type} : List (Nat × α) → Bool
  | [] => true
  | [_] => true
  | (a, _) :: (b, y) :: r => decide (a < b) && sortedKeys ((b, y) :: r)

/-- The first element satisfying p replaced by f of it. -/
def updFirst {α : Type} (p : α → Bool) (f : α → α) : List α → List α
  | [] => []
  | x :: r => if p x then f x :: r else x :: updFirst p f r

/-- Element k of a list replaced. -/
def updNth {α : Type} (f : α → α) : List α → Nat → List α
  | [], _ => []
  | x :: r, 0 => f x :: r
  | x :: r, k + 1 => x :: updNth f r k

/-- Insert into a list kept in rising order of a key, after equals. -/
def insertBy {α : Type} (key : α → Nat) (x : α) : List α → List α
  | [] => [x]
  | y :: r => if key x < key y then x :: y :: r else y :: insertBy key x r

/-- The button's choice among the requesters of the oldest commit beat: search upward from the button position plus 1 (R55). -/
def buttonPick (n button : Nat) (ready : Nat → Bool) : Option Nat :=
  ((List.range n).map fun k => (button + 1 + k) % n).find? ready

/-- One grant of R55 among requesters (number, commit beat): the oldest wins, a same-beat tie goes by the button, and the
button moves only when it decides a tie (R56). Answers the winner and the button after. -/
def arbiterGrant (n button : Nat) (reqs : List (Nat × Nat)) : Option (Nat × Nat) :=
  match (reqs.filter fun r => r.1 < n).map (·.2) with
  | [] => none
  | b :: bs =>
    let oldest := bs.foldl Nat.min b
    let tied := (reqs.filter fun r => r.1 < n && r.2 == oldest).map (·.1)
    match tied with
    | [i] => some (i, button)
    | _ => (buttonPick n button fun i => tied.contains i).map fun i => (i, i)

end Sys2Proof.Machine
end

