-- ==== Sys2Proof/Machine/RegTable.lean ====
section
/-! DEFINITION. The register map of R594 with the fields, access types and reset values of the chapters it names: one row per
register (a stepped row for a numbered family), written from the spec's own tables. A row says what a plain write may change
(the RW bits) and which bits a written 1 clears; behaviour beyond that is in the family files. -/
namespace Sys2Proof.Machine

/-- A register or a stepped family of registers of a page: first offset, how many, the step between them, the reset value,
the bits a plain write replaces (RW), the bits a written 1 clears (W1C). -/
structure RegRow where
  off : Nat
  cnt : Nat
  step : Nat
  reset : Nat
  rw : Nat
  w1c : Nat
deriving DecidableEq, Repr

namespace Off
/-! Offsets of the common head (R74). -/
abbrev PAGE_ID : Nat := 0x000
abbrev PAGE_CAP : Nat := 0x004
abbrev CTRL : Nat := 0x008
abbrev STATUS : Nat := 0x00C
abbrev EVT_RAW : Nat := 0x010
abbrev EVT_EN : Nat := 0x014
abbrev EVT_FORCE : Nat := 0x018
abbrev EVT_ROUTE : Nat := 0x01C
abbrev DEAL_AT_LO : Nat := 0x020
abbrev DEAL_AT_HI : Nat := 0x024
abbrev DEAL_CTRL : Nat := 0x028
abbrev DEAL_SKIPPED : Nat := 0x02C
abbrev FENCE_CTRL : Nat := 0x030
abbrev FENCE_STATUS : Nat := 0x034
abbrev CMD_TIMEOUT : Nat := 0x040
/-! Offsets of the registers and counters of each page class (R594). -/
abbrev ID_DEVICE : Nat := 0x100
abbrev ID_PART : Nat := 0x104
abbrev ID_DIE_MAP : Nat := 0x108
abbrev ID_CAPACITY : Nat := 0x10C
abbrev ID_SERIAL : Nat := 0x110
abbrev TT_CNT_LATE_COMMIT : Nat := 0x080
abbrev TT_CNT_STEPS : Nat := 0x084
abbrev TT_CNT_CLAMPS : Nat := 0x088
abbrev TT_NOW_LO : Nat := 0x100
abbrev TT_NOW_HI : Nat := 0x104
abbrev TT_LOAD_LO : Nat := 0x108
abbrev TT_LOAD_HI : Nat := 0x10C
abbrev TT_CTRL : Nat := 0x110
abbrev TT_RATE_ADJ : Nat := 0x114
abbrev TT_STATUS : Nat := 0x118
abbrev TT_RTC_TRIM : Nat := 0x11C
abbrev TT_RTC_MEAS : Nat := 0x120
abbrev TT_BEAT_LAT : Nat := 0x124
abbrev TT_RELAX : Nat := 0x800
abbrev PWR_CNT_WAKES : Nat := 0x080
abbrev PWR_CNT_HOLDS : Nat := 0x084
abbrev PWR_CNT_HOLD_EXPIRED : Nat := 0x088
abbrev PWR_CNT_CMD_REFUSED : Nat := 0x08C
abbrev PWR_CNT_CFG_REFUSED : Nat := 0x090
abbrev PWR_CNT_BROWN_OUT : Nat := 0x094
abbrev PWR_CNT_DUTY_WINDOWS : Nat := 0x098
abbrev PWR_CNT_DUTY_HITS : Nat := 0x09C
abbrev PWR_CNT_THROTTLE_DOWN : Nat := 0x0A0
abbrev PWR_CNT_THROTTLE_UP : Nat := 0x0A4
abbrev PWR_CNT_AVS_RETRY : Nat := 0x0A8
abbrev PWR_STATE : Nat := 0x100
abbrev PWR_CMD : Nat := 0x104
abbrev PWR_RESULT : Nat := 0x108
abbrev PWR_WAKE_REQ : Nat := 0x10C
abbrev PWR_WAKE_MAP : Nat := 0x110
abbrev PWR_WAKE_CAUSE : Nat := 0x114
abbrev PWR_WAKE_TT_LO : Nat := 0x118
abbrev PWR_WAKE_TT_HI : Nat := 0x11C
abbrev PWR_GRANT : Nat := 0x120
abbrev PWR_HOLD : Nat := 0x124
abbrev PWR_QUIESCE : Nat := 0x128
abbrev PWR_RAISE_SEL : Nat := 0x12C
abbrev PWR_ANTE_CFG : Nat := 0x130
abbrev PWR_DUTY : Nat := 0x134
abbrev PWR_TILE_RET : Nat := 0x138
abbrev PWR_DOMAINS : Nat := 0x140
abbrev AON_REG_STATUS : Nat := 0x150
abbrev PWR_THERM_CFG : Nat := 0x180
abbrev PWR_LIMIT : Nat := 0x184
abbrev PWR_THROTTLE : Nat := 0x188
abbrev PWR_PACKAGE : Nat := 0x18C
abbrev PWR_THERM_STATUS : Nat := 0x190
abbrev THERM_TEMP : Nat := 0x1A0
abbrev AON_REG_MANUAL : Nat := 0x800
abbrev MB_CNT_ACCEPTED : Nat := 0x080
abbrev MB_CNT_REFUSED : Nat := 0x084
abbrev MB_CNT_CMD_REFUSED : Nat := 0x088
abbrev MB_CNT_STAGING_BUSY : Nat := 0x08C
abbrev MB_CNT_SIGNOFF_REFUSED : Nat := 0x090
abbrev MB_CNT_KEY_DELIVERED : Nat := 0x094
abbrev MB_CNT_EXPERT_WITHDRAWN : Nat := 0x098
abbrev MB_CNT_SPDM_ERRORS : Nat := 0x09C
abbrev MB_CNT_FD_REFUSED : Nat := 0x0A0
abbrev MB_CNT_TDI_REFUSED : Nat := 0x0A4
abbrev MB_READY : Nat := 0x100
abbrev MB_CMD : Nat := 0x104
abbrev MB_ARG : Nat := 0x108
abbrev MB_RESULT : Nat := 0x118
abbrev MB_DETAIL : Nat := 0x11C
abbrev MB_ARB : Nat := 0x120
abbrev MB_KEYS : Nat := 0x130
abbrev MB_KEY_CMD : Nat := 0x140
abbrev MB_KEY_RESULT : Nat := 0x144
abbrev MB_KEY_SEL : Nat := 0x148
abbrev MB_KEY_INFO : Nat := 0x14C
abbrev MB_EXPERT_VF : Nat := 0x150
abbrev MB_EXPERT_PF : Nat := 0x160
abbrev MB_RING_POLICY : Nat := 0x170
abbrev MB_FD_CTRL : Nat := 0x174
abbrev MB_FD_SLICE_MAP : Nat := 0x178
abbrev MB_FD_TILES : Nat := 0x180
abbrev MB_TDI_STATE : Nat := 0x1A0
abbrev MB_FD_STEM : Nat := 0x1A4
abbrev MB_IDE_STREAMS : Nat := 0x1A8
abbrev MB_IDE_COVER : Nat := 0x1AC
abbrev FC_CNT_RECORDS : Nat := 0x080
abbrev FC_CNT_LOST : Nat := 0x084
abbrev FC_CNT_CORR_SUPPRESSED : Nat := 0x088
abbrev FC_CNT_ACCESS : Nat := 0x08C
abbrev FC_CNT_FENCES : Nat := 0x090
abbrev FC_CNT_REPLAYS : Nat := 0x094
abbrev FC_CNT_GUILTY : Nat := 0x098
abbrev FC_CNT_UNREPRODUCED : Nat := 0x09C
abbrev FC_CNT_UNATTRIBUTED : Nat := 0x0A0
abbrev FC_CNT_WDOG : Nat := 0x0A4
abbrev FC_CNT_CFG_REFUSED : Nat := 0x0A8
abbrev FC_CFG : Nat := 0x100
abbrev FC_RING_BASE_LO : Nat := 0x104
abbrev FC_RING_BASE_HI : Nat := 0x108
abbrev FC_RING_TAIL : Nat := 0x10C
abbrev FC_RING_HEAD : Nat := 0x110
abbrev FC_STATUS : Nat := 0x114
abbrev FC_REC_SEL : Nat := 0x118
abbrev FC_REC : Nat := 0x120
abbrev FC_FENCED : Nat := 0x140
abbrev FC_HELD : Nat := 0x150
abbrev FC_WDOG : Nat := 0x160
abbrev FC_WDOG_KICK : Nat := 0x164
abbrev FC_FATAL : Nat := 0x168
abbrev FC_REPLAY : Nat := 0x16C
abbrev HH_CNT_RECORDS : Nat := 0x080
abbrev HH_CNT_KIB : Nat := 0x084
abbrev HH_CNT_LOST : Nat := 0x088
abbrev HH_CNT_GAPS : Nat := 0x08C
abbrev HH_CNT_CHECKPOINTS : Nat := 0x090
abbrev HH_CNT_DIVERGE : Nat := 0x094
abbrev HH_CNT_SUPPRESSED : Nat := 0x098
abbrev HH_CNT_CFG_REFUSED : Nat := 0x09C
abbrev HH_CTRL : Nat := 0x100
abbrev HH_CFG : Nat := 0x104
abbrev HH_BASE_LO : Nat := 0x108
abbrev HH_BASE_HI : Nat := 0x10C
abbrev HH_TAIL_LO : Nat := 0x110
abbrev HH_TAIL_HI : Nat := 0x114
abbrev HH_HEAD_LO : Nat := 0x118
abbrev HH_HEAD_HI : Nat := 0x11C
abbrev HH_STATUS : Nat := 0x120
abbrev HH_LAST_CKPT_LO : Nat := 0x124
abbrev HH_LAST_CKPT_HI : Nat := 0x128
abbrev HH_DIVERGE_TT_LO : Nat := 0x12C
abbrev HH_DIVERGE_TT_HI : Nat := 0x130
abbrev HH_CAM : Nat := 0x140
abbrev HH_OUT : Nat := 0x1C0
abbrev HH_MARK : Nat := 0x200
abbrev HH_MARK_TAG : Nat := 0x204
abbrev HH_CTX_EN : Nat := 0x300
abbrev PCIE_CNT_RETRAIN : Nat := 0x080
abbrev PCIE_CNT_PRI : Nat := 0x084
abbrev PCIE_CNT_ATS_INV : Nat := 0x088
abbrev PCIE_CNT_UR : Nat := 0x08C
abbrev PCIE_LINK : Nat := 0x100
abbrev FAB_CNT_TX_FRAMES : Nat := 0x080
abbrev FAB_CNT_RX_FRAMES : Nat := 0x084
abbrev FAB_CNT_FCS : Nat := 0x088
abbrev FAB_CNT_ICV : Nat := 0x08C
abbrev FAB_CNT_PAUSE_RX : Nat := 0x090
abbrev FAB_CNT_DUP : Nat := 0x094
abbrev FAB_CNT_C1_DROP : Nat := 0x098
abbrev FAB_CNT_FOREIGN : Nat := 0x09C
abbrev TBL_CNT_JOINS : Nat := 0x0C0
abbrev TBL_CNT_DEPARTS : Nat := 0x0C4
abbrev TBL_CNT_ROUNDS : Nat := 0x0C8
abbrev TBL_CNT_LATE_BIDS : Nat := 0x0CC
abbrev TBL_CNT_AWARD_TIMEOUT : Nat := 0x0D0
abbrev TBL_CNT_FETCH_SERVED : Nat := 0x0D4
abbrev TBL_CNT_FETCH_REFUSED : Nat := 0x0D8
abbrev TBL_CNT_FETCH_TIMEOUT : Nat := 0x0DC
abbrev TBL_CNT_LENDS : Nat := 0x0E0
abbrev TBL_CNT_CFG_REFUSED : Nat := 0x0E4
abbrev FAB_CFG : Nat := 0x100
abbrev FAB_STATUS : Nat := 0x104
abbrev FAB_MAC_LO : Nat := 0x108
abbrev FAB_MAC_HI : Nat := 0x10C
abbrev TBL_ID : Nat := 0x200
abbrev TBL_SEAT : Nat := 0x204
abbrev TBL_FRAME : Nat := 0x208
abbrev TBL_GROUP_LO : Nat := 0x20C
abbrev TBL_GROUP_HI : Nat := 0x210
abbrev TBL_TIMING : Nat := 0x214
abbrev TBL_BID : Nat := 0x218
abbrev TBL_KEY : Nat := 0x21C
abbrev TBL_TENANT_KEY : Nat := 0x224
abbrev TBL_EXPORT_UNITS : Nat := 0x260
abbrev TBL_EXPORT_CFG : Nat := 0x264
abbrev TBL_GPTP : Nat := 0x2A0
abbrev TBL_SYNC : Nat := 0x2A4
abbrev TBL_FETCH : Nat := 0x2A8
abbrev TBL_CREDIT : Nat := 0x2AC
abbrev TBL_STATUS : Nat := 0x2B0
abbrev TBL_MEMBERS : Nat := 0x2C0
abbrev TBL_SVC_BASE_LO : Nat := 0x300
abbrev TBL_SVC_BASE_HI : Nat := 0x304
abbrev TBL_SVC_CFG : Nat := 0x308
abbrev TBL_SVC_TX_TAIL : Nat := 0x30C
abbrev TBL_SVC_TX_HEAD : Nat := 0x310
abbrev TBL_SVC_RX_TAIL : Nat := 0x314
abbrev TBL_SVC_RX_HEAD : Nat := 0x318
abbrev CSI_CNT_FRAMES : Nat := 0x080
abbrev CSI_CNT_ECC_CORR : Nat := 0x084
abbrev CSI_CNT_ECC_UNCORR : Nat := 0x088
abbrev CSI_CNT_CRC : Nat := 0x08C
abbrev CSI_CNT_SHORT_LINE : Nat := 0x090
abbrev CSI_CNT_LONG_LINE : Nat := 0x094
abbrev CSI_CNT_SHORT_FRAME : Nat := 0x098
abbrev CSI_CNT_LONG_FRAME : Nat := 0x09C
abbrev CSI_CNT_NO_FE : Nat := 0x0A0
abbrev CSI_CNT_TIMEOUT : Nat := 0x0A4
abbrev CSI_CNT_OVERFLOW_CUT : Nat := 0x0A8
abbrev CSI_CNT_QUEUE_DROP : Nat := 0x0AC
abbrev CSI_CNT_UNMATCHED : Nat := 0x0B0
abbrev CSI_CNT_ORPHAN : Nat := 0x0B4
abbrev CSI_CNT_GENERIC : Nat := 0x0B8
abbrev CSI_CNT_PHY_ERR : Nat := 0x0BC
abbrev CSI_CNT_GATED : Nat := 0x0C0
abbrev CSI_CNT_FSYNC : Nat := 0x0C4
abbrev CSI_CNT_DESC_LOST : Nat := 0x0C8
abbrev CSI_CNT_CFG_REFUSED : Nat := 0x0CC
abbrev CSI_CFG : Nat := 0x100
abbrev CSI_LANE_MAP : Nat := 0x104
abbrev CSI_STREAM_CFG : Nat := 0x110
abbrev CSI_STREAM_GEOM : Nat := 0x114
abbrev CSI_STREAM_QUEUE : Nat := 0x118
abbrev CSI_STREAM_DESCQ : Nat := 0x11C
abbrev CSI_FRAME_TIMEOUT : Nat := 0x150
abbrev CSI_FSYNC : Nat := 0x154
abbrev CSI_GATE : Nat := 0x158
abbrev CSI_LAST : Nat := 0x160
abbrev CSI_VC_ERR : Nat := 0x180
abbrev CSI_SNAP : Nat := 0x300
abbrev CSI_PHY_TIMING : Nat := 0x800
abbrev ISP_CNT_FRAMES : Nat := 0x080
abbrev ISP_CNT_LINES : Nat := 0x084
abbrev ISP_CNT_CUT : Nat := 0x088
abbrev ISP_CNT_OUT_DROP : Nat := 0x08C
abbrev ISP_CNT_FILL_LINES : Nat := 0x090
abbrev ISP_CNT_STAT_LOST : Nat := 0x094
abbrev ISP_CNT_DESC_LOST : Nat := 0x098
abbrev ISP_CNT_CFG_REFUSED : Nat := 0x09C
abbrev ISP_CNT_BUSY_BEATS : Nat := 0x0A0
abbrev ISP_CNT_DPC : Nat := 0x0A4
abbrev ISP_CNT_SAT : Nat := 0x0A8
abbrev ISP_IN_CFG : Nat := 0x100
abbrev ISP_IN_TIMING : Nat := 0x104
abbrev ISP_IN_STATQ : Nat := 0x108
abbrev ISP_IN_GRID : Nat := 0x10C
abbrev ISP_SET_BL01 : Nat := 0x200
abbrev ISP_SET_BL23 : Nat := 0x204
abbrev ISP_SET_GAIN_RG : Nat := 0x208
abbrev ISP_SET_GAIN_B : Nat := 0x20C
abbrev ISP_SET_C00_C01 : Nat := 0x210
abbrev ISP_SET_C02_C10 : Nat := 0x214
abbrev ISP_SET_C11_C12 : Nat := 0x218
abbrev ISP_SET_C20_C21 : Nat := 0x21C
abbrev ISP_SET_C22 : Nat := 0x220
abbrev ISP_SET_OFS_RG : Nat := 0x224
abbrev ISP_SET_OFS_B : Nat := 0x228
abbrev ISP_SET_DPC : Nat := 0x22C
abbrev ISP_OUT_CFG : Nat := 0x300
abbrev ISP_OUT_ORIGIN : Nat := 0x304
abbrev ISP_OUT_CROP : Nat := 0x308
abbrev ISP_OUT_SIZE : Nat := 0x30C
abbrev ISP_OUT_QUEUE : Nat := 0x310
abbrev ISP_OUT_DESCQ : Nat := 0x314
abbrev ISP_OUT_MEAN_RG : Nat := 0x318
abbrev ISP_OUT_MEAN_B : Nat := 0x31C
abbrev ISP_OUT_SCALE_RG : Nat := 0x320
abbrev ISP_OUT_SCALE_B : Nat := 0x324
abbrev ISP_OUT_FILL : Nat := 0x328
abbrev ISP_TBL_ADDR : Nat := 0x500
abbrev ISP_TBL_DATA : Nat := 0x504
abbrev ISP_SNAP : Nat := 0x600
abbrev ISP_X_SCALER : Nat := 0x800
abbrev ISP_XTBL_ADDR : Nat := 0x804
abbrev ISP_XTBL_DATA : Nat := 0x808
abbrev AIN_CNT_CLIP : Nat := 0x080
abbrev AIN_CNT_CFG_REFUSED : Nat := 0x084
abbrev AIN_CNT_RESYNC : Nat := 0x088
abbrev AIN_CFG : Nat := 0x100
abbrev AIN_PDM_EN : Nat := 0x104
abbrev AIN_TDM_CFG : Nat := 0x108
abbrev AIN_GAIN : Nat := 0x10C
abbrev WD_CNT_HITS : Nat := 0x080
abbrev WD_CNT_BLOCKS : Nat := 0x084
abbrev BF_CNT_CFG_REFUSED : Nat := 0x088
abbrev BF_CNT_BANK_SWITCHES : Nat := 0x08C
abbrev BF_ARRAY_CFG : Nat := 0x100
abbrev BF_MAP_LO : Nat := 0x108
abbrev BF_MAP_HI : Nat := 0x10C
abbrev BF_BANK : Nat := 0x118
abbrev BF_LIVE : Nat := 0x11C
abbrev WD_CFG : Nat := 0x120
abbrev WD_FLOOR : Nat := 0x128
abbrev WD_HOT : Nat := 0x130
abbrev WD_STATE : Nat := 0x140
abbrev BF_COEF : Nat := 0x400
abbrev RING_CNT_BLOCKS : Nat := 0x080
abbrev RING_CNT_ZEROISED : Nat := 0x084
abbrev RING_CNT_SKIPPED : Nat := 0x088
abbrev RING_CNT_LOCKED_READS : Nat := 0x08C
abbrev RING_CNT_UNLOCKS : Nat := 0x090
abbrev RING_CNT_CFG_REFUSED : Nat := 0x094
abbrev RING_CTRL : Nat := 0x100
abbrev RING_CFG : Nat := 0x104
abbrev RING_RAW_SEL : Nat := 0x108
abbrev RING_TIMING : Nat := 0x10C
abbrev RING_RELEASE : Nat := 0x110
abbrev RING_STATUS : Nat := 0x114
abbrev RING_WRITE_IDX : Nat := 0x118
abbrev RING_OLDEST_IDX : Nat := 0x11C
abbrev RING_CONSUME_IDX : Nat := 0x120
abbrev RING_RELEASE_IDX : Nat := 0x124
abbrev VO_CNT_FRAMES : Nat := 0x080
abbrev VO_CNT_UNDERRUN : Nat := 0x084
abbrev VO_CNT_CFG_REFUSED : Nat := 0x088
abbrev AEC_CNT_RESET : Nat := 0x08C
abbrev VO_CFG : Nat := 0x100
abbrev VO_GAIN : Nat := 0x104
abbrev VO_FIFO : Nat := 0x108
abbrev VO_START_TT_LO : Nat := 0x10C
abbrev VO_START_TT_HI : Nat := 0x110
abbrev VO_STATE : Nat := 0x114
abbrev AEC_CFG : Nat := 0x120
abbrev AEC_BULK : Nat := 0x124
abbrev AEC_ERLE : Nat := 0x130
abbrev AEC_ADAPT : Nat := 0x800
abbrev CE_CNT_BLOCKS : Nat := 0x080
abbrev CE_CNT_VERDICTS : Nat := 0x084
abbrev CE_CNT_LATE_BLOCKS : Nat := 0x088
abbrev CE_CNT_CFG_REFUSED : Nat := 0x08C
abbrev CE_STATUS : Nat := 0x100
abbrev CE_VERDICT : Nat := 0x104
abbrev CE_VERDICT_SPAN : Nat := 0x108
abbrev CE_RESTART : Nat := 0x10C
abbrev TILE_CNT_KERNELS : Nat := 0x080
abbrev TILE_CNT_FAULTS : Nat := 0x084
abbrev TILE_CNT_LAUNCH_REFUSED : Nat := 0x088
abbrev TILE_CNT_ARRAY_BEATS : Nat := 0x08C
abbrev TILE_CNT_BANK_STALL : Nat := 0x090
abbrev TILE_CNT_HALO_STALL_BEATS : Nat := 0x094
abbrev MX_CNT_ACC_SAT : Nat := 0x098
abbrev TILE_CNT_CLK_CHANGES : Nat := 0x09C
abbrev TILE_CNT_CFG_REFUSED : Nat := 0x0A0
abbrev TILE_CNT_TAP_SKIP : Nat := 0x0A4
abbrev TILE_CNT_PAD_TAPS : Nat := 0x0A8
abbrev TILE_CLK : Nat := 0x100
abbrev TILE_SEQ_STATUS : Nat := 0x104
abbrev TILE_SEQ_PC : Nat := 0x108
abbrev TILE_LAUNCH : Nat := 0x110
abbrev TILE_DEAL_ENTRY : Nat := 0x140
abbrev MX_ACC_STATUS : Nat := 0x160
abbrev TILE_SNAP : Nat := 0x300
abbrev VE_CNT_BEATS : Nat := 0x080
abbrev VE_CNT_SAT : Nat := 0x084
abbrev VE_CNT_NAN : Nat := 0x088
abbrev VE_CNT_RQ_CLAMP : Nat := 0x08C
abbrev VE_CNT_CLIP_HIGH : Nat := 0x090
abbrev VE_CNT_FLAT : Nat := 0x094
abbrev VE_CNT_ADAPT : Nat := 0x098
abbrev VE_CNT_QP_FOREIGN : Nat := 0x09C
abbrev VE_CNT_XLOG_LOST : Nat := 0x0A0
abbrev VE_CNT_CFG_REFUSED : Nat := 0x0A4
abbrev VE_CNT_WIN_TAP_SKIP : Nat := 0x0A8
abbrev VE_FLAT : Nat := 0x100
abbrev VE_QP_CFG : Nat := 0x110
abbrev VE_QP_OWNER : Nat := 0x114
abbrev VE_QP_THRESH : Nat := 0x118
abbrev VE_QP_STAT : Nat := 0x300
abbrev VE_PWL : Nat := 0x800
abbrev VE_QP_ADAPT : Nat := 0xE00
abbrev VE_QP_ADJ : Nat := 0xE04
abbrev VE_XLOG : Nat := 0xE80
abbrev SU_CNT_STEPS : Nat := 0x080
abbrev SU_CNT_ELEM_SAT : Nat := 0x084
abbrev SU_CNT_DECAY_CLAMP : Nat := 0x088
abbrev SU_CNT_RESETS : Nat := 0x08C
abbrev SU_CNT_BUSY_BEATS : Nat := 0x090
abbrev SU_CNT_ZERO_WAIT_BEATS : Nat := 0x094
abbrev SU_CNT_BROKEN : Nat := 0x098
abbrev SU_CNT_CFG_REFUSED : Nat := 0x09C
abbrev SU_SEG_INDEX : Nat := 0x100
abbrev SU_SEG_CFG : Nat := 0x104
abbrev SU_SEG_RANGE : Nat := 0x108
abbrev SU_SEG_OWNER : Nat := 0x10C
abbrev SU_SEG_PLANES : Nat := 0x110
abbrev SU_SEG_POS : Nat := 0x114
abbrev SU_SEG_STATE : Nat := 0x118
abbrev SU_VALID : Nat := 0x140
abbrev SU_SAT : Nat := 0x160
abbrev SU_FREE : Nat := 0x180
abbrev SU_TBL_STATUS : Nat := 0x184
abbrev SU_TBL_CTRL : Nat := 0x188
abbrev SU_TBL : Nat := 0x800
abbrev TSP_CNT_REGION_FAULT : Nat := 0x080
abbrev TSP_CNT_HALO_DROP : Nat := 0x084
abbrev TSP_CNT_REMOTE_RD : Nat := 0x088
abbrev TSP_CNT_REMOTE_WR : Nat := 0x08C
abbrev TSP_CNT_ECC_CORR : Nat := 0x090
abbrev TSP_CNT_CFG_REFUSED : Nat := 0x094
abbrev TSP_CNT_XPOSE_BLOCKS : Nat := 0x098
abbrev TSP_CNT_XPOSE_REFUSED : Nat := 0x09C
abbrev TSP_CNT_POOL_HIT : Nat := 0x0A0
abbrev TSP_CNT_POOL_MISS : Nat := 0x0A4
abbrev TSP_CNT_POOL_EVICT : Nat := 0x0A8
abbrev TSP_CNT_POOL_WRITEBACK : Nat := 0x0AC
abbrev TSP_CNT_POOL_SPILL : Nat := 0x0B0
abbrev TSP_CNT_PIN_REFUSED : Nat := 0x0B4
abbrev TSP_CNT_POOL_LOST : Nat := 0x0B8
abbrev TSP_CNT_HOLD_EXPIRED : Nat := 0x0BC
abbrev TSP_CNT_RECORD_LOST : Nat := 0x0C0
abbrev TSP_REGION_BASE : Nat := 0x100
abbrev TSP_REGION_CFG : Nat := 0x104
abbrev TSP_HALO : Nat := 0x200
abbrev TSP_HALO_OWNER : Nat := 0x300
abbrev TSP_XPOSE_CFG : Nat := 0x400
abbrev TSP_XPOSE_GEOM : Nat := 0x404
abbrev TSP_XPOSE_ROWS : Nat := 0x408
abbrev TSP_XPOSE_BASE : Nat := 0x40C
abbrev TSP_POOL_CFG : Nat := 0x500
abbrev TSP_POOL_STATUS : Nat := 0x504
abbrev TSP_POOL_CMD : Nat := 0x50C
abbrev NOC_CNT_FLITS : Nat := 0x080
abbrev NOC_CNT_STALL_C0 : Nat := 0x084
abbrev NOC_CNT_STALL_C1 : Nat := 0x088
abbrev NOC_CNT_STALL_C2 : Nat := 0x08C
abbrev NOC_CNT_STALL_C3 : Nat := 0x090
abbrev NOC_CLK : Nat := 0x100
abbrev STEM_CNT_JOBS : Nat := 0x080
abbrev STEM_CNT_FAULTS : Nat := 0x084
abbrev STEM_CNT_JOB_REFUSED : Nat := 0x088
abbrev STEM_CNT_DROPPED : Nat := 0x08C
abbrev STEM_CNT_BUSY_BEATS : Nat := 0x090
abbrev STEM_CNT_LINE_WAIT_BEATS : Nat := 0x094
abbrev STEM_CNT_SAT : Nat := 0x098
abbrev STEM_CNT_UNBOUND_LINES : Nat := 0x09C
abbrev STEM_CNT_TAP_SKIP : Nat := 0x0A0
abbrev STEM_STATUS : Nat := 0x100
abbrev STEM_JOB : Nat := 0x110
abbrev STEM_DEAL_ENTRY : Nat := 0x140
abbrev STEM_ROW : Nat := 0x160
abbrev DL_CNT_FLITS : Nat := 0x080
abbrev DL_CNT_CRC : Nat := 0x084
abbrev DL_CNT_REPLAY2 : Nat := 0x088
abbrev DL_STATUS : Nat := 0x100
abbrev MC_CNT_RD_GRANULES : Nat := 0x080
abbrev MC_CNT_WR_GRANULES : Nat := 0x084
abbrev MC_CNT_CORR : Nat := 0x088
abbrev MC_CNT_UNCORR : Nat := 0x08C
abbrev MC_CNT_SCRUBBED : Nat := 0x090
abbrev MC_STATUS : Nat := 0x100
abbrev MC_SCRUB : Nat := 0x104
abbrev MC_ECC_LOG : Nat := 0x108
abbrev MC_ECC_ADDR_LO : Nat := 0x10C
abbrev MC_ECC_ADDR_HI : Nat := 0x110
abbrev KITTY_CNT_HIT : Nat := 0x080
abbrev KITTY_CNT_MISS : Nat := 0x084
abbrev KITTY_CNT_EVICT : Nat := 0x088
abbrev KITTY_CNT_WRITEBACK : Nat := 0x08C
abbrev KITTY_CNT_BYPASS : Nat := 0x090
abbrev KITTY_CNT_QUOTA_EVICT : Nat := 0x094
abbrev KITTY_CNT_ECC_CORR : Nat := 0x098
abbrev KITTY_CNT_POISON : Nat := 0x09C
abbrev KITTY_CNT_LOCK_REVOKED : Nat := 0x0A0
abbrev KITTY_QUOTA : Nat := 0x100
abbrev KITTY_USE : Nat := 0x140
abbrev KITTY_STATUS : Nat := 0x180
abbrev KITTY_CMD : Nat := 0x184
abbrev KITTY_SHARE : Nat := 0x800
abbrev MELD_CNT_DECODED : Nat := 0x080
abbrev MELD_CNT_ENCODED : Nat := 0x084
abbrev MELD_CNT_IN_GRANULES : Nat := 0x088
abbrev MELD_CNT_OUT_GRANULES : Nat := 0x08C
abbrev MELD_CNT_ERR : Nat := 0x090
abbrev MELD_CNT_RAW : Nat := 0x094
abbrev MELD_ERR_LOG : Nat := 0x100
abbrev MELD_ERR_ADDR_LO : Nat := 0x104
abbrev MELD_ERR_ADDR_HI : Nat := 0x108
abbrev QE_CNT_TRANSFERS : Nat := 0x080
abbrev QE_CNT_LAUNCHES : Nat := 0x084
abbrev QE_CNT_STALL_TICKS : Nat := 0x088
abbrev QE_CNT_SCALE_LATE : Nat := 0x08C
abbrev QE_CNT_PRI : Nat := 0x090
abbrev QE_CNT_HALTS : Nat := 0x094
abbrev QE_CNT_FAULTS : Nat := 0x098
abbrev QE_CNT_FOLDS : Nat := 0x09C
abbrev QE_CNT_MARK_DROP : Nat := 0x0A0
abbrev QE_CNT_STARVED : Nat := 0x0A4
abbrev QE_CNT_PUT_REFUSED : Nat := 0x0A8
abbrev QE_CNT_SLOT_REVOKED : Nat := 0x0AC
abbrev QE_CNT_DB_REFUSED : Nat := 0x0B0
abbrev QE_CNT_CFG_REFUSED : Nat := 0x0B4
abbrev QE_CNT_C3_BEATS : Nat := 0x0B8
abbrev QE_STATUS : Nat := 0x100
abbrev QE_PRI_TIMEOUT : Nat := 0x104
abbrev QE_FAULT_LOG : Nat := 0x108
abbrev QE_TENANT_SLOTS : Nat := 0x140
abbrev QE_C3_MAX : Nat := 0x800
abbrev MEMENC_CNT_DENIED : Nat := 0x080
abbrev MEMENC_CNT_CFG_REFUSED : Nat := 0x084
abbrev MEMENC_CNT_SLOT_MISMATCH : Nat := 0x088
abbrev MEMENC_STATUS : Nat := 0x100
abbrev MEMENC_SLOT_STATE : Nat := 0x110
abbrev MEMENC_REGION_BASE : Nat := 0x200
abbrev MEMENC_REGION_SIZE : Nat := 0x204
abbrev MEMENC_REGION_ATTR : Nat := 0x208
abbrev CTX_CNT_DOORBELLS : Nat := 0x080
abbrev CTX_CNT_DB_REFUSED : Nat := 0x084
abbrev CTX_CNT_H2D_CELLS : Nat := 0x088
abbrev CTX_CNT_D2H_CELLS : Nat := 0x08C
abbrev CTX_CNT_CELLS_DROPPED : Nat := 0x090
abbrev CTX_CNT_REFUSED : Nat := 0x094
abbrev CTX_CFG : Nat := 0x100
abbrev CTX_PASID : Nat := 0x104
abbrev CTX_CMD : Nat := 0x108
abbrev CTX_STATUS : Nat := 0x10C
abbrev CTX_QEVT : Nat := 0x120
abbrev CTX_QFAULT : Nat := 0x140
abbrev SVC_RING_CFG : Nat := 0x180
abbrev SVC_H2D_BASE_LO : Nat := 0x184
abbrev SVC_H2D_BASE_HI : Nat := 0x188
abbrev SVC_D2H_BASE_LO : Nat := 0x18C
abbrev SVC_D2H_BASE_HI : Nat := 0x190
abbrev SVC_H2D_TAIL : Nat := 0x194
abbrev SVC_H2D_HEAD : Nat := 0x198
abbrev SVC_D2H_HEAD : Nat := 0x19C
abbrev SVC_D2H_TAIL : Nat := 0x1A0
abbrev QREC_SEL : Nat := 0x1000
abbrev QREC : Nat := 0x1040
end Off

namespace Evt
/-! EVT_RAW bit numbers: the common ones (R86), then each page class (the EVT_RAW table of its chapter). -/
abbrev DEAL_FIRED : Nat := 0
abbrev DEAL_LATE : Nat := 1
abbrev DEAL_MISSED : Nat := 2
abbrev CMD_TIMEOUT : Nat := 3
abbrev TT_LATE_COMMIT : Nat := 4
abbrev TT_STEP_APPLIED : Nat := 5
abbrev TT_RATE_CLAMPED : Nat := 6
abbrev TT_ANTE_REALIGN : Nat := 7
abbrev PWR_WAKE : Nat := 4
abbrev PWR_STATE_CHANGED : Nat := 5
abbrev PWR_CMD_DONE : Nat := 6
abbrev PWR_HOLD_STARTED : Nat := 7
abbrev PWR_HOLD_EXPIRED : Nat := 8
abbrev PWR_RESTORE_DONE : Nat := 9
abbrev PWR_BROWN_OUT : Nat := 10
abbrev PWR_THROTTLE : Nat := 11
abbrev PWR_HBM_HOT : Nat := 12
abbrev MB_CMD_DONE : Nat := 4
abbrev MB_READY_CHANGED : Nat := 5
abbrev MB_DECK_REFUSED : Nat := 6
abbrev MB_KEY_CHANGED : Nat := 7
abbrev MB_TDI_CHANGED : Nat := 8
abbrev MB_IDE_CHANGED : Nat := 9
abbrev MB_SIGNOFF_REFUSED : Nat := 10
abbrev FC_RECORD : Nat := 4
abbrev FC_LOST : Nat := 5
abbrev FC_FENCE : Nat := 6
abbrev FC_HELD : Nat := 7
abbrev FC_WDOG : Nat := 8
abbrev FC_DEVICE_FATAL : Nat := 9
abbrev HH_GAP : Nat := 4
abbrev HH_CKPT_DONE : Nat := 5
abbrev HH_DIVERGED : Nat := 6
abbrev HH_REPLAY_DONE : Nat := 7
abbrev PCIE_LINK_CHANGE : Nat := 4
abbrev FAB_LINK_CHANGE : Nat := 4
abbrev FAB_ICV_FAIL : Nat := 5
abbrev FAB_MEMBER_CHANGE : Nat := 8
abbrev FAB_DUP_SEAT : Nat := 9
abbrev FAB_DEALER_CHANGE : Nat := 10
abbrev FAB_AWARD : Nat := 11
abbrev FAB_AWARD_TIMEOUT : Nat := 12
abbrev CSI_FRAME_DONE : Nat := 4
abbrev CSI_FRAME_FLAGGED : Nat := 5
abbrev CSI_ECC_UNCORR : Nat := 6
abbrev CSI_CRC : Nat := 7
abbrev CSI_TIMEOUT : Nat := 8
abbrev CSI_OVERFLOW_CUT : Nat := 9
abbrev CSI_PHY_ERR : Nat := 10
abbrev CSI_UNMATCHED : Nat := 11
abbrev ISP_OUT_DONE : Nat := 4
abbrev ISP_STAT_DONE : Nat := 5
abbrev ISP_CUT : Nat := 6
abbrev ISP_OUT_DROP : Nat := 7
abbrev ISP_DESC_LOST : Nat := 8
abbrev AIN_CLIP : Nat := 4
abbrev AIN_RESYNC_DONE : Nat := 5
abbrev BF_HIT : Nat := 4
abbrev BF_HOT_RISE : Nat := 5
abbrev BF_HOT_FALL : Nat := 6
abbrev BF_BANK_SWITCHED : Nat := 7
abbrev RING_UNLOCKED : Nat := 4
abbrev RING_RELOCKED : Nat := 5
abbrev RING_SKIPPED : Nat := 6
abbrev VO_STARTED : Nat := 4
abbrev VO_UNDERRUN : Nat := 5
abbrev VO_DRAINED : Nat := 6
abbrev VO_AEC_RESET : Nat := 7
abbrev CE_VERDICT : Nat := 4
abbrev CE_LATE : Nat := 5
abbrev TILE_KERNEL_DONE : Nat := 4
abbrev TILE_KERNEL_FAULT : Nat := 5
abbrev TILE_LAUNCH_REFUSED : Nat := 6
abbrev TILE_ACC_SAT : Nat := 7
abbrev VE_SAT : Nat := 4
abbrev VE_CLIP_HIGH : Nat := 5
abbrev VE_ADAPTED : Nat := 6
abbrev VE_XLOG_LOST : Nat := 7
abbrev SU_SAT : Nat := 4
abbrev SU_BROKEN : Nat := 5
abbrev SU_ZERO_DONE : Nat := 6
abbrev TSP_REGION_FAULT : Nat := 4
abbrev TSP_HALO_DROP : Nat := 5
abbrev TSP_XPOSE_REFUSED : Nat := 6
abbrev TSP_POOL_SPILL : Nat := 7
abbrev TSP_POOL_LOST : Nat := 8
abbrev STEM_JOB_DONE : Nat := 4
abbrev STEM_JOB_FAULT : Nat := 5
abbrev STEM_JOB_REFUSED : Nat := 6
abbrev STEM_DROPPED : Nat := 7
abbrev DL_DEGRADED : Nat := 4
abbrev MC_CORR : Nat := 4
abbrev MC_UNCORR : Nat := 5
abbrev KITTY_POISON : Nat := 4
abbrev KITTY_BYPASS : Nat := 5
abbrev KITTY_LOCK_REVOKED : Nat := 6
abbrev MELD_DECODE_ERROR : Nat := 4
abbrev QE_QUEUE_FAULT : Nat := 4
abbrev QE_FOLD : Nat := 5
abbrev QE_DB_REFUSED : Nat := 6
abbrev QE_STARVED : Nat := 7
abbrev CTX_QUEUE_EVENT : Nat := 4
abbrev CTX_QUEUE_FAULT : Nat := 5
abbrev CTX_D2H_CELL : Nat := 6
abbrev CTX_H2D_DONE : Nat := 7
abbrev CTX_CMD_DONE : Nat := 8
end Evt

/-- Basic and expert registers of class 0x01 (R594; fields as its chapter gives them). -/
def rows_identity : List RegRow :=
  [⟨0x100, 1, 0x4, 0x25E1C, 0x0, 0x0⟩,
   ⟨0x104, 1, 0x4, 0x4, 0x0, 0x0⟩,
   ⟨0x108, 1, 0x4, 0xF, 0x0, 0x0⟩,
   ⟨0x10C, 1, 0x4, 0x0, 0x0, 0x0⟩,
   ⟨0x110, 4, 0x4, 0x0, 0x0, 0x0⟩]

/-- Basic and expert registers of class 0x02 (R594; fields as its chapter gives them). -/
def rows_tableTime : List RegRow :=
  [⟨0x100, 1, 0x4, 0x0, 0x0, 0x0⟩,
   ⟨0x104, 1, 0x4, 0x0, 0x0, 0x0⟩,
   ⟨0x108, 1, 0x4, 0x0, 0xFFFFFFFF, 0x0⟩,
   ⟨0x10C, 1, 0x4, 0x0, 0xFFFFFFFF, 0x0⟩,
   ⟨0x110, 1, 0x4, 0x0, 0x4, 0x0⟩,
   ⟨0x114, 1, 0x4, 0x0, 0xFFFFFFFF, 0x0⟩,
   ⟨0x118, 1, 0x4, 0x5, 0x0, 0x0⟩,
   ⟨0x11C, 1, 0x4, 0x0, 0xFF, 0x0⟩,
   ⟨0x120, 1, 0x4, 0x0, 0x0, 0x0⟩,
   ⟨0x124, 1, 0x4, 0x42, 0x0, 0x0⟩,
   ⟨0x800, 2, 0x4, 0x0, 0xFFFFFFFF, 0x0⟩,
   ⟨0x808, 1, 0x4, 0x0, 0x37FF3F, 0x0⟩,
   ⟨0x80C, 1, 0x4, 0x0, 0x0, 0x0⟩]

/-- Basic and expert registers of class 0x03 (R594; fields as its chapter gives them). -/
def rows_power : List RegRow :=
  [⟨0x100, 1, 0x4, 0x24, 0x0, 0x0⟩,
   ⟨0x104, 1, 0x4, 0x0, 0x7, 0x0⟩,
   ⟨0x108, 1, 0x4, 0x0, 0x0, 0x0⟩,
   ⟨0x10C, 1, 0x4, 0x0, 0x7, 0x0⟩,
   ⟨0x110, 1, 0x4, 0x1124E2, 0x1FFFFF, 0x0⟩,
   ⟨0x114, 1, 0x4, 0x0, 0x0, 0x1FF⟩,
   ⟨0x118, 1, 0x4, 0x0, 0x0, 0x0⟩,
   ⟨0x11C, 1, 0x4, 0x0, 0x0, 0x0⟩,
   ⟨0x120, 1, 0x4, 0x0, 0x7, 0x0⟩,
   ⟨0x124, 1, 0x4, 0x5DC, 0xFFFF, 0x0⟩,
   ⟨0x128, 1, 0x4, 0x2625A, 0xFFFFFF, 0x0⟩,
   ⟨0x12C, 1, 0x4, 0x0, 0x7, 0x0⟩,
   ⟨0x130, 1, 0x4, 0x0, 0x7, 0x0⟩,
   ⟨0x134, 1, 0x4, 0x806064, 0x1FFFFFF, 0x0⟩,
   ⟨0x138, 2, 0x4, 0xFFFFFFFF, 0xFFFFFFFF, 0x0⟩,
   ⟨0x140, 1, 0x4, 0x0, 0x0, 0x0⟩,
   ⟨0x150, 1, 0x4, 0x1, 0x0, 0x4⟩,
   ⟨0x180, 1, 0x4, 0x5F035A, 0xFF0FFF, 0x0⟩,
   ⟨0x184, 1, 0x4, 0x1C2, 0x3FF, 0x0⟩,
   ⟨0x188, 1, 0x4, 0x2C, 0x0, 0x0⟩,
   ⟨0x18C, 1, 0x4, 0x0, 0x0, 0x0⟩,
   ⟨0x190, 1, 0x4, 0x0, 0x0, 0x0⟩,
   ⟨0x1A0, 22, 0x4, 0x8000, 0x0, 0x0⟩,
   ⟨0x800, 1, 0x4, 0x2, 0x3, 0x0⟩]

/-- Basic and expert registers of class 0x04 (R594; fields as its chapter gives them). -/
def rows_mailbox : List RegRow :=
  [⟨0x100, 1, 0x4, 0x0, 0x0, 0x0⟩,
   ⟨0x104, 1, 0x4, 0x0, 0x3FF, 0x0⟩,
   ⟨0x108, 4, 0x4, 0x0, 0xFFFFFFFF, 0x0⟩,
   ⟨0x118, 1, 0x4, 0xFF000000, 0x0, 0x0⟩,
   ⟨0x11C, 1, 0x4, 0x0, 0x0, 0x0⟩,
   ⟨0x120, 4, 0x4, 0x0, 0x0, 0x0⟩,
   ⟨0x130, 1, 0x4, 0x0, 0x0, 0x0⟩,
   ⟨0x140, 1, 0x4, 0x0, 0x1FFFF, 0x0⟩,
   ⟨0x144, 1, 0x4, 0x0, 0x0, 0x0⟩,
   ⟨0x148, 1, 0x4, 0x0, 0xFF, 0x0⟩,
   ⟨0x14C, 1, 0x4, 0x0, 0x0, 0x0⟩,
   ⟨0x150, 1, 0x4, 0x0, 0xFFFE, 0x0⟩,
   ⟨0x160, 4, 0x4, 0xFFFFFFFF, 0xFFFFFFFF, 0x0⟩,
   ⟨0x170, 1, 0x4, 0x10000, 0xFFFFFF01, 0x0⟩,
   ⟨0x174, 1, 0x4, 0x201000, 0xFFFFFF1, 0x0⟩,
   ⟨0x178, 2, 0x4, 0x0, 0xFFFFFFFF, 0x0⟩,
   ⟨0x180, 8, 0x4, 0x0, 0xFFFFFFFF, 0x0⟩,
   ⟨0x1A0, 1, 0x4, 0x0, 0x0, 0x0⟩,
   ⟨0x1A4, 1, 0x4, 0x0, 0xFFFF, 0x0⟩,
   ⟨0x1A8, 1, 0x4, 0x0, 0x0, 0x0⟩,
   ⟨0x1AC, 1, 0x4, 0x0, 0x0, 0x0⟩]

/-- Basic and expert registers of class 0x05 (R594; fields as its chapter gives them). -/
def rows_faultCollector : List RegRow :=
  [⟨0x100, 1, 0x4, 0x802, 0xF03, 0x0⟩,
   ⟨0x104, 1, 0x4, 0x0, 0xFFFFFFFF, 0x0⟩,
   ⟨0x108, 1, 0x4, 0x0, 0xFFFFFFFF, 0x0⟩,
   ⟨0x10C, 1, 0x4, 0x0, 0x0, 0x0⟩,
   ⟨0x110, 1, 0x4, 0x0, 0xFFFFFFFF, 0x0⟩,
   ⟨0x114, 1, 0x4, 0x0, 0x0, 0x0⟩,
   ⟨0x118, 1, 0x4, 0x0, 0x3F, 0x0⟩,
   ⟨0x120, 8, 0x4, 0x0, 0x0, 0x0⟩,
   ⟨0x140, 4, 0x4, 0x0, 0x0, 0x0⟩,
   ⟨0x150, 4, 0x4, 0x0, 0x0, 0x0⟩,
   ⟨0x160, 1, 0x4, 0x64, 0x8000FFFF, 0x0⟩,
   ⟨0x164, 1, 0x4, 0x0, 0x0, 0x0⟩,
   ⟨0x168, 1, 0x4, 0x0, 0x0, 0x0⟩,
   ⟨0x16C, 1, 0x4, 0x0, 0x80FF03FF, 0x0⟩]

/-- Basic and expert registers of class 0x06 (R594; fields as its chapter gives them). -/
def rows_handHistory : List RegRow :=
  [⟨0x100, 1, 0x4, 0x0, 0x3, 0x0⟩,
   ⟨0x104, 1, 0x4, 0x1E0A, 0x3F0F, 0x0⟩,
   ⟨0x108, 1, 0x4, 0x0, 0xFFFFFFFF, 0x0⟩,
   ⟨0x10C, 1, 0x4, 0x0, 0xFFFFFFFF, 0x0⟩,
   ⟨0x110, 1, 0x4, 0x0, 0xFFFFFFFF, 0x0⟩,
   ⟨0x114, 1, 0x4, 0x0, 0xFFFFFFFF, 0x0⟩,
   ⟨0x118, 1, 0x4, 0x0, 0xFFFFFFFF, 0x0⟩,
   ⟨0x11C, 1, 0x4, 0x0, 0xFFFFFFFF, 0x0⟩,
   ⟨0x120, 1, 0x4, 0x0, 0x0, 0x0⟩,
   ⟨0x124, 1, 0x4, 0x0, 0x0, 0x0⟩,
   ⟨0x128, 1, 0x4, 0x0, 0x0, 0x0⟩,
   ⟨0x12C, 1, 0x4, 0x0, 0x0, 0x0⟩,
   ⟨0x130, 1, 0x4, 0x0, 0x0, 0x0⟩,
   ⟨0x140, 32, 0x4, 0x4, 0xF, 0x0⟩,
   ⟨0x1C0, 16, 0x4, 0x0, 0x1, 0x0⟩,
   ⟨0x200, 1, 0x4, 0x0, 0x0, 0x0⟩,
   ⟨0x204, 1, 0x4, 0x0, 0xFFFFFFFF, 0x0⟩,
   ⟨0x300, 32, 0x4, 0x0, 0xFFFFFFFF, 0x0⟩]

/-- Basic and expert registers of class 0x10 (R594; fields as its chapter gives them). -/
def rows_pcie : List RegRow :=
  [⟨0x100, 1, 0x4, 0x0, 0x0, 0x0⟩]

/-- Basic and expert registers of class 0x11 (R594; fields as its chapter gives them). -/
def rows_fabric : List RegRow :=
  [⟨0x100, 1, 0x4, 0x9, 0x1F, 0x0⟩,
   ⟨0x104, 1, 0x4, 0x0, 0x0, 0x0⟩,
   ⟨0x108, 1, 0x4, 0x0, 0xFFFFFFFF, 0x0⟩,
   ⟨0x10C, 1, 0x4, 0x0, 0xFFFFFFFF, 0x0⟩,
   ⟨0x200, 1, 0x4, 0x0, 0xFFFFFFFF, 0x0⟩,
   ⟨0x204, 1, 0x4, 0x20000, 0x701FF, 0x0⟩,
   ⟨0x208, 1, 0x4, 0x100088B5, 0x1FFFFFFF, 0x0⟩,
   ⟨0x20C, 1, 0x4, 0x3, 0xFFFFFFFF, 0x0⟩,
   ⟨0x210, 1, 0x4, 0xB588, 0xFFFFFFFF, 0x0⟩,
   ⟨0x214, 1, 0x4, 0x57864, 0x3FFFFF, 0x0⟩,
   ⟨0x218, 1, 0x4, 0xFA1E0F, 0xFFFFFFF, 0x0⟩,
   ⟨0x21C, 1, 0x4, 0x0, 0xFF, 0x0⟩,
   ⟨0x224, 15, 0x4, 0x0, 0xFF, 0x0⟩,
   ⟨0x260, 8, 0x8, 0x0, 0x7FFF3FFF, 0x0⟩,
   ⟨0x264, 8, 0x8, 0x0, 0x1FFF, 0x0⟩,
   ⟨0x2A0, 1, 0x4, 0x1DF8F8, 0x1FFFFF, 0x0⟩,
   ⟨0x2A4, 1, 0x4, 0x0, 0xFFFF0003, 0x0⟩,
   ⟨0x2A8, 1, 0x4, 0x30D40, 0xFFFFFFFF, 0x0⟩,
   ⟨0x2AC, 1, 0x4, 0x24, 0xFF, 0x0⟩,
   ⟨0x2B0, 1, 0x4, 0x1FF000, 0x0, 0x0⟩,
   ⟨0x2C0, 16, 0x4, 0x0, 0x0, 0x0⟩,
   ⟨0x300, 1, 0x4, 0x0, 0xFFFFFFFF, 0x0⟩,
   ⟨0x304, 1, 0x4, 0x0, 0xFFFFFFFF, 0x0⟩,
   ⟨0x308, 1, 0x4, 0x440, 0xFF1, 0x0⟩,
   ⟨0x30C, 1, 0x4, 0x0, 0xFFFFFFFF, 0x0⟩,
   ⟨0x310, 1, 0x4, 0x0, 0x0, 0x0⟩,
   ⟨0x314, 1, 0x4, 0x0, 0x0, 0x0⟩,
   ⟨0x318, 1, 0x4, 0x0, 0xFFFFFFFF, 0x0⟩]

/-- Basic and expert registers of class 0x12 (R594; fields as its chapter gives them). -/
def rows_csi : List RegRow :=
  [⟨0x100, 1, 0x4, 0xFA2, 0x3FFFF, 0x0⟩,
   ⟨0x104, 1, 0x4, 0xE4, 0x1FFF, 0x0⟩,
   ⟨0x110, 4, 0x10, 0x2C0, 0xFFFF3FFF, 0x0⟩,
   ⟨0x114, 4, 0x10, 0x4380780, 0xFFFFFFFF, 0x0⟩,
   ⟨0x118, 4, 0x10, 0x0, 0x3FFFF, 0x0⟩,
   ⟨0x11C, 4, 0x10, 0x0, 0x8003FFFF, 0x0⟩,
   ⟨0x150, 1, 0x4, 0x2FAF080, 0xFFFFFFFF, 0x0⟩,
   ⟨0x154, 1, 0x4, 0xA, 0x1FFF, 0x0⟩,
   ⟨0x158, 1, 0x4, 0x1, 0x1, 0x0⟩,
   ⟨0x160, 4, 0x4, 0x0, 0x0, 0x0⟩,
   ⟨0x180, 16, 0x4, 0x0, 0x0, 0x0⟩,
   ⟨0x300, 32, 0x4, 0x0, 0x0, 0x0⟩,
   ⟨0x800, 1, 0x4, 0x0, 0xFFFFF, 0x0⟩]

/-- Basic and expert registers of class 0x13 (R594; fields as its chapter gives them). -/
def rows_isp : List RegRow :=
  [⟨0x100, 1, 0x4, 0x1000, 0x7F3F, 0x0⟩,
   ⟨0x104, 16, 0x10, 0x1CF, 0xFFFF, 0x0⟩,
   ⟨0x108, 16, 0x10, 0x0, 0x8007FFFF, 0x0⟩,
   ⟨0x10C, 16, 0x10, 0x1820, 0x1F3F, 0x0⟩,
   ⟨0x110, 1, 0x4, 0x0, 0x7F3F, 0x0⟩,
   ⟨0x120, 1, 0x4, 0x0, 0x7F3F, 0x0⟩,
   ⟨0x130, 1, 0x4, 0x0, 0x7F3F, 0x0⟩,
   ⟨0x140, 1, 0x4, 0x1000, 0x7F3F, 0x0⟩,
   ⟨0x150, 1, 0x4, 0x0, 0x7F3F, 0x0⟩,
   ⟨0x160, 1, 0x4, 0x0, 0x7F3F, 0x0⟩,
   ⟨0x170, 1, 0x4, 0x0, 0x7F3F, 0x0⟩,
   ⟨0x180, 1, 0x4, 0x1000, 0x7F3F, 0x0⟩,
   ⟨0x190, 1, 0x4, 0x0, 0x7F3F, 0x0⟩,
   ⟨0x1A0, 1, 0x4, 0x0, 0x7F3F, 0x0⟩,
   ⟨0x1B0, 1, 0x4, 0x0, 0x7F3F, 0x0⟩,
   ⟨0x1C0, 1, 0x4, 0x1000, 0x7F3F, 0x0⟩,
   ⟨0x1D0, 1, 0x4, 0x0, 0x7F3F, 0x0⟩,
   ⟨0x1E0, 1, 0x4, 0x0, 0x7F3F, 0x0⟩,
   ⟨0x1F0, 1, 0x4, 0x0, 0x7F3F, 0x0⟩,
   ⟨0x200, 4, 0x40, 0x0, 0xFFFFFFFF, 0x0⟩,
   ⟨0x204, 4, 0x40, 0x0, 0xFFFFFFFF, 0x0⟩,
   ⟨0x208, 4, 0x40, 0x10001000, 0xFFFFFFFF, 0x0⟩,
   ⟨0x20C, 4, 0x40, 0x1000, 0xFFFF, 0x0⟩,
   ⟨0x210, 4, 0x40, 0x1000, 0xFFFFFFFF, 0x0⟩,
   ⟨0x214, 4, 0x40, 0x0, 0xFFFFFFFF, 0x0⟩,
   ⟨0x218, 4, 0x40, 0x1000, 0xFFFFFFFF, 0x0⟩,
   ⟨0x21C, 4, 0x40, 0x0, 0xFFFFFFFF, 0x0⟩,
   ⟨0x220, 4, 0x40, 0x1000, 0xFFFF, 0x0⟩,
   ⟨0x224, 4, 0x40, 0x0, 0xFFFFFFFF, 0x0⟩,
   ⟨0x228, 4, 0x40, 0x0, 0xFFFF, 0x0⟩,
   ⟨0x22C, 4, 0x40, 0x8000001, 0xFFFF0003, 0x0⟩,
   ⟨0x300, 8, 0x40, 0x0, 0xFFF, 0x0⟩,
   ⟨0x304, 8, 0x40, 0x0, 0xFFFFFFFF, 0x0⟩,
   ⟨0x308, 8, 0x40, 0x4380780, 0xFFFFFFFF, 0x0⟩,
   ⟨0x30C, 8, 0x40, 0x4380780, 0x1FFF1FFF, 0x0⟩,
   ⟨0x310, 8, 0x40, 0x0, 0x3FFFF, 0x0⟩,
   ⟨0x314, 8, 0x40, 0x0, 0x8003FFFF, 0x0⟩,
   ⟨0x318, 8, 0x40, 0x0, 0xFFFFFFFF, 0x0⟩,
   ⟨0x31C, 8, 0x40, 0x0, 0xFFFF, 0x0⟩,
   ⟨0x320, 8, 0x40, 0x1000100, 0xFFFFFFFF, 0x0⟩] ++
  [⟨0x324, 8, 0x40, 0x100, 0xFFFF, 0x0⟩,
   ⟨0x328, 8, 0x40, 0x7F8000, 0xFFFFFF, 0x0⟩,
   ⟨0x500, 1, 0x4, 0x0, 0x7FFF, 0x0⟩,
   ⟨0x504, 1, 0x4, 0x0, 0xFFFFFFFF, 0x0⟩,
   ⟨0x600, 32, 0x4, 0x0, 0x0, 0x0⟩,
   ⟨0x800, 1, 0x4, 0x0, 0xFF, 0x0⟩,
   ⟨0x804, 1, 0x4, 0x0, 0x1FF, 0x0⟩,
   ⟨0x808, 1, 0x4, 0x0, 0xFFF, 0x0⟩]

/-- Basic and expert registers of class 0x14 (R594; fields as its chapter gives them). -/
def rows_pdmIn : List RegRow :=
  [⟨0x100, 1, 0x4, 0xB, 0x3F, 0x0⟩,
   ⟨0x104, 1, 0x4, 0x0, 0xFFFF, 0x0⟩,
   ⟨0x108, 1, 0x4, 0x202, 0x3F3F, 0x0⟩,
   ⟨0x10C, 8, 0x4, 0x0, 0xFFFFFFFF, 0x0⟩]

/-- Basic and expert registers of class 0x15 (R594; fields as its chapter gives them). -/
def rows_beamformer : List RegRow :=
  [⟨0x100, 2, 0x4, 0x6, 0xFF, 0x0⟩,
   ⟨0x108, 2, 0x8, 0x0, 0xFFFFFFFF, 0x0⟩,
   ⟨0x10C, 2, 0x8, 0x0, 0xFFFFFFFF, 0x0⟩,
   ⟨0x118, 1, 0x4, 0x0, 0x0, 0x0⟩,
   ⟨0x11C, 1, 0x4, 0x0, 0xFFFF, 0x0⟩,
   ⟨0x120, 2, 0x4, 0x10801624, 0xFFFFFFFF, 0x0⟩,
   ⟨0x128, 2, 0x4, 0x40460, 0xFF0FFF, 0x0⟩,
   ⟨0x130, 1, 0x4, 0x0, 0x0, 0x0⟩,
   ⟨0x140, 16, 0x4, 0x0, 0x0, 0x0⟩,
   ⟨0x400, 256, 0x4, 0x0, 0xFFFF3FFF, 0x0⟩]

/-- Basic and expert registers of class 0x16 (R594; fields as its chapter gives them). -/
def rows_ring : List RegRow :=
  [⟨0x100, 1, 0x4, 0x0, 0x1, 0x0⟩,
   ⟨0x104, 1, 0x4, 0xF10, 0x3FFFF3F, 0x0⟩,
   ⟨0x108, 1, 0x4, 0x0, 0x1F1F, 0x0⟩,
   ⟨0x10C, 1, 0x4, 0x7D0, 0xFFFFFFF, 0x0⟩,
   ⟨0x110, 1, 0x4, 0x1E00C8, 0xFFFF0FFF, 0x0⟩,
   ⟨0x114, 1, 0x4, 0x1, 0x0, 0x0⟩,
   ⟨0x118, 1, 0x4, 0x0, 0x0, 0x0⟩,
   ⟨0x11C, 1, 0x4, 0x0, 0x0, 0x0⟩,
   ⟨0x120, 1, 0x4, 0x0, 0x0, 0x0⟩,
   ⟨0x124, 1, 0x4, 0x0, 0x0, 0x0⟩]

/-- Basic and expert registers of class 0x17 (R594; fields as its chapter gives them). -/
def rows_voiceOut : List RegRow :=
  [⟨0x100, 1, 0x4, 0x2, 0x7F, 0x0⟩,
   ⟨0x104, 1, 0x4, 0x0, 0x1FFFF, 0x0⟩,
   ⟨0x108, 1, 0x4, 0x0, 0x0, 0x0⟩,
   ⟨0x10C, 1, 0x4, 0x0, 0x0, 0x0⟩,
   ⟨0x110, 1, 0x4, 0x0, 0x0, 0x0⟩,
   ⟨0x114, 1, 0x4, 0x0, 0x0, 0x0⟩,
   ⟨0x120, 1, 0x4, 0x80000BE, 0x3FFFFFFF, 0x0⟩,
   ⟨0x124, 1, 0x4, 0x0, 0xFFFF, 0x0⟩,
   ⟨0x130, 8, 0x4, 0x0, 0x0, 0x0⟩,
   ⟨0x800, 1, 0x4, 0x620620, 0x3FFFFFF, 0x0⟩]

/-- Basic and expert registers of class 0x18 (R594; fields as its chapter gives them). -/
def rows_callEngine : List RegRow :=
  [⟨0x100, 1, 0x4, 0x0, 0x0, 0x0⟩,
   ⟨0x104, 1, 0x4, 0x0, 0x0, 0x0⟩,
   ⟨0x108, 1, 0x4, 0x0, 0x0, 0x0⟩,
   ⟨0x10C, 1, 0x4, 0x0, 0x0, 0x0⟩]

/-- Basic and expert registers of class 0x19 (R594; fields as its chapter gives them). -/
def rows_mgmtCores : List RegRow :=
  []

/-- Basic and expert registers of class 0x1A (R594; fields as its chapter gives them). -/
def rows_lowSpeed : List RegRow :=
  []

/-- Basic and expert registers of class 0x20 (R594; fields as its chapter gives them). -/
def rows_matrix : List RegRow :=
  [⟨0x100, 1, 0x4, 0x2828, 0x3F, 0x0⟩,
   ⟨0x104, 1, 0x4, 0x0, 0x0, 0x0⟩,
   ⟨0x108, 1, 0x4, 0x0, 0x0, 0x0⟩,
   ⟨0x110, 8, 0x4, 0x0, 0xFFFFFFFF, 0x0⟩,
   ⟨0x140, 8, 0x4, 0x0, 0xFFFFFFFF, 0x0⟩,
   ⟨0x160, 1, 0x4, 0x0, 0x0, 0x1⟩,
   ⟨0x300, 32, 0x4, 0x0, 0x0, 0x0⟩]

/-- Basic and expert registers of class 0x21 (R594; fields as its chapter gives them). -/
def rows_vector : List RegRow :=
  [⟨0x100, 1, 0x4, 0x7F, 0xFF, 0x0⟩,
   ⟨0x110, 16, 0x10, 0x7F00, 0x3FFFF03, 0x0⟩,
   ⟨0x114, 16, 0x10, 0x0, 0x800003FF, 0x0⟩,
   ⟨0x118, 16, 0x10, 0x148, 0xFFFF, 0x0⟩,
   ⟨0x300, 64, 0x4, 0x0, 0x0, 0x0⟩,
   ⟨0x800, 384, 0x4, 0x0, 0xFFFFFFFF, 0x0⟩,
   ⟨0xE00, 16, 0x8, 0x220800, 0xFFFF01, 0x0⟩,
   ⟨0xE04, 16, 0x8, 0x0, 0x1F, 0x0⟩,
   ⟨0xE80, 1, 0x4, 0x0, 0x8003FFFF, 0x0⟩]

/-- Basic and expert registers of class 0x22 (R594; fields as its chapter gives them). -/
def rows_stateUnit : List RegRow :=
  [⟨0x100, 1, 0x4, 0x0, 0xFF, 0x0⟩,
   ⟨0x104, 1, 0x4, 0x610, 0x7FFFFF, 0x0⟩,
   ⟨0x108, 1, 0x4, 0x0, 0x1FFFFF, 0x0⟩,
   ⟨0x10C, 1, 0x4, 0x0, 0x3FF, 0x0⟩,
   ⟨0x110, 1, 0x4, 0x0, 0xFFF0FFF, 0x0⟩,
   ⟨0x114, 1, 0x4, 0x0, 0x0, 0x0⟩,
   ⟨0x118, 1, 0x4, 0x0, 0x0, 0x1⟩,
   ⟨0x140, 8, 0x4, 0x0, 0x0, 0x0⟩,
   ⟨0x160, 8, 0x4, 0x0, 0x0, 0x0⟩,
   ⟨0x180, 1, 0x4, 0x4000400, 0x0, 0x0⟩,
   ⟨0x184, 1, 0x4, 0xF, 0x0, 0x0⟩,
   ⟨0x188, 1, 0x4, 0x0, 0x0, 0x0⟩,
   ⟨0x800, 512, 0x4, 0x0, 0xFFFFFFFF, 0x0⟩]

/-- Basic and expert registers of class 0x23 (R594; fields as its chapter gives them). -/
def rows_streamPort : List RegRow :=
  [⟨0x100, 16, 0x8, 0x0, 0xFFFFFF, 0x0⟩,
   ⟨0x104, 16, 0x8, 0x0, 0x3FFF, 0x0⟩,
   ⟨0x200, 64, 0x4, 0x0, 0x0, 0x0⟩,
   ⟨0x300, 64, 0x4, 0x0, 0x800003FF, 0x0⟩,
   ⟨0x400, 4, 0x10, 0x0, 0x8003FFFF, 0x0⟩,
   ⟨0x404, 4, 0x10, 0x10001, 0xFFFF7FFF, 0x0⟩,
   ⟨0x408, 4, 0x10, 0x1, 0xFFFF, 0x0⟩,
   ⟨0x40C, 4, 0x10, 0x0, 0xFFFFFF, 0x0⟩,
   ⟨0x500, 1, 0x4, 0x1000600, 0xFFFF0FFF, 0x0⟩,
   ⟨0x504, 2, 0x4, 0x0, 0x0, 0x0⟩,
   ⟨0x50C, 1, 0x4, 0x0, 0x1FFFF, 0x0⟩]

/-- Basic and expert registers of class 0x24 (R594; fields as its chapter gives them). -/
def rows_mesh : List RegRow :=
  [⟨0x100, 1, 0x4, 0x2828, 0x3F, 0x0⟩]

/-- Basic and expert registers of class 0x25 (R594; fields as its chapter gives them). -/
def rows_stem : List RegRow :=
  [⟨0x100, 1, 0x4, 0x0, 0x0, 0x0⟩,
   ⟨0x110, 8, 0x4, 0x0, 0xFFFFFFFF, 0x0⟩,
   ⟨0x140, 8, 0x4, 0x0, 0xFFFFFFFF, 0x0⟩,
   ⟨0x160, 1, 0x4, 0x0, 0x0, 0x0⟩]

/-- Basic and expert registers of class 0x26 (R594; fields as its chapter gives them). -/
def rows_dieLink : List RegRow :=
  [⟨0x100, 1, 0x4, 0x0, 0x0, 0x0⟩]

/-- Basic and expert registers of class 0x30 (R594; fields as its chapter gives them). -/
def rows_hbm : List RegRow :=
  [⟨0x100, 1, 0x4, 0x0, 0x0, 0x0⟩,
   ⟨0x104, 1, 0x4, 0x10018, 0x1FFFF, 0x0⟩,
   ⟨0x108, 1, 0x4, 0x0, 0x0, 0x1⟩,
   ⟨0x10C, 1, 0x4, 0x0, 0x0, 0x0⟩,
   ⟨0x110, 1, 0x4, 0x0, 0x0, 0x0⟩]

/-- Basic and expert registers of class 0x31 (R594; fields as its chapter gives them). -/
def rows_kitty : List RegRow :=
  [⟨0x100, 16, 0x4, 0x4000, 0x7FFF, 0x0⟩,
   ⟨0x140, 16, 0x4, 0x0, 0x0, 0x0⟩,
   ⟨0x180, 1, 0x4, 0x4000, 0x0, 0x0⟩,
   ⟨0x184, 1, 0x4, 0x0, 0x3F, 0x0⟩,
   ⟨0x800, 1, 0x4, 0x0, 0x1, 0x0⟩]

/-- Basic and expert registers of class 0x32 (R594; fields as its chapter gives them). -/
def rows_meld : List RegRow :=
  [⟨0x100, 1, 0x4, 0x0, 0x0, 0x0⟩,
   ⟨0x104, 1, 0x4, 0x0, 0x0, 0x0⟩,
   ⟨0x108, 1, 0x4, 0x0, 0x0, 0x0⟩]

/-- Basic and expert registers of class 0x33 (R594; fields as its chapter gives them). -/
def rows_queueEngine : List RegRow :=
  [⟨0x100, 1, 0x4, 0x1000, 0x0, 0x0⟩,
   ⟨0x104, 1, 0x4, 0x3B9ACA00, 0xFFFFFFFF, 0x0⟩,
   ⟨0x108, 1, 0x4, 0x0, 0x0, 0x80000000⟩,
   ⟨0x140, 16, 0x4, 0x1000, 0x1FFF, 0x0⟩,
   ⟨0x800, 1, 0x4, 0x800, 0x1FFF, 0x0⟩]

/-- Basic and expert registers of class 0x34 (R594; fields as its chapter gives them). -/
def rows_memEnc : List RegRow :=
  [⟨0x100, 1, 0x4, 0x0, 0x0, 0x0⟩,
   ⟨0x110, 16, 0x4, 0x0, 0x0, 0x0⟩,
   ⟨0x200, 64, 0x10, 0x0, 0x3FFF, 0x0⟩,
   ⟨0x204, 64, 0x10, 0x0, 0x7FFF, 0x0⟩,
   ⟨0x208, 64, 0x10, 0x7000, 0xFF7FFF, 0x0⟩]

/-- Basic and expert registers of class 0x40 (R594; fields as its chapter gives them). -/
def rows_context : List RegRow :=
  [⟨0x100, 1, 0x4, 0x0, 0xFF1FFF, 0x0⟩,
   ⟨0x104, 1, 0x4, 0x0, 0x800FFFFF, 0x0⟩,
   ⟨0x108, 1, 0x4, 0x0, 0xF7, 0x0⟩,
   ⟨0x10C, 1, 0x4, 0x0, 0x0, 0x0⟩,
   ⟨0x120, 8, 0x4, 0x0, 0x0, 0xFFFFFFFF⟩,
   ⟨0x140, 8, 0x4, 0x0, 0x0, 0xFFFFFFFF⟩,
   ⟨0x180, 1, 0x4, 0x860, 0xFF1, 0x0⟩,
   ⟨0x184, 1, 0x4, 0x0, 0xFFFFFFFF, 0x0⟩,
   ⟨0x188, 1, 0x4, 0x0, 0xFFFFFFFF, 0x0⟩,
   ⟨0x18C, 1, 0x4, 0x0, 0xFFFFFFFF, 0x0⟩,
   ⟨0x190, 1, 0x4, 0x0, 0xFFFFFFFF, 0x0⟩,
   ⟨0x194, 1, 0x4, 0x0, 0xFFFFFFFF, 0x0⟩,
   ⟨0x198, 1, 0x4, 0x0, 0x0, 0x0⟩,
   ⟨0x19C, 1, 0x4, 0x0, 0xFFFFFFFF, 0x0⟩,
   ⟨0x1A0, 1, 0x4, 0x0, 0x0, 0x0⟩,
   ⟨0x1000, 1, 0x4, 0x0, 0xFF, 0x0⟩,
   ⟨0x1040, 16, 0x4, 0x0, 0x0, 0x0⟩]

/-- The registers of a page class beyond the common head and the counters. -/
def classRows : PageClass → List RegRow
  | .identity => rows_identity
  | .tableTime => rows_tableTime
  | .power => rows_power
  | .mailbox => rows_mailbox
  | .faultCollector => rows_faultCollector
  | .handHistory => rows_handHistory
  | .pcie => rows_pcie
  | .fabric => rows_fabric
  | .csi => rows_csi
  | .isp => rows_isp
  | .pdmIn => rows_pdmIn
  | .beamformer => rows_beamformer
  | .ring => rows_ring
  | .voiceOut => rows_voiceOut
  | .callEngine => rows_callEngine
  | .mgmtCores => rows_mgmtCores
  | .lowSpeed => rows_lowSpeed
  | .matrix => rows_matrix
  | .vector => rows_vector
  | .stateUnit => rows_stateUnit
  | .streamPort => rows_streamPort
  | .mesh => rows_mesh
  | .stem => rows_stem
  | .dieLink => rows_dieLink
  | .hbm => rows_hbm
  | .kitty => rows_kitty
  | .meld => rows_meld
  | .queueEngine => rows_queueEngine
  | .memEnc => rows_memEnc
  | .context => rows_context

/-- PAGE_CAP.COUNTERS: how far the implemented counters reach from offset 0x080 (R75; the fabric page is the table-wide one). -/
def classCounters : PageClass → Nat
  | .identity => 0
  | .tableTime => 3
  | .power => 11
  | .mailbox => 10
  | .faultCollector => 11
  | .handHistory => 8
  | .pcie => 4
  | .fabric => 26
  | .csi => 20
  | .isp => 11
  | .pdmIn => 3
  | .beamformer => 4
  | .ring => 6
  | .voiceOut => 4
  | .callEngine => 4
  | .mgmtCores => 0
  | .lowSpeed => 0
  | .matrix => 11
  | .vector => 11
  | .stateUnit => 8
  | .streamPort => 17
  | .mesh => 5
  | .stem => 9
  | .dieLink => 3
  | .hbm => 5
  | .kitty => 9
  | .meld => 6
  | .queueEngine => 15
  | .memEnc => 3
  | .context => 6

/-- PAGE_CAP.EVT_TOP: the highest EVT_RAW bit the chapter of the class defines (R75, R86). -/
def classEvtTop : PageClass → Nat
  | .identity => 3
  | .tableTime => 7
  | .power => 12
  | .mailbox => 10
  | .faultCollector => 9
  | .handHistory => 7
  | .pcie => 4
  | .fabric => 12
  | .csi => 11
  | .isp => 8
  | .pdmIn => 5
  | .beamformer => 7
  | .ring => 6
  | .voiceOut => 7
  | .callEngine => 5
  | .mgmtCores => 3
  | .lowSpeed => 3
  | .matrix => 7
  | .vector => 7
  | .stateUnit => 6
  | .streamPort => 8
  | .mesh => 3
  | .stem => 7
  | .dieLink => 4
  | .hbm => 5
  | .kitty => 6
  | .meld => 4
  | .queueEngine => 7
  | .memEnc => 3
  | .context => 8

/-- PAGE_CAP.EXPERT: the expert range holds registers (R594; the Call engine implements an expert range without a named register, R258). -/
def classExpert : PageClass → Bool
  | .identity => false
  | .tableTime => true
  | .power => true
  | .mailbox => false
  | .faultCollector => false
  | .handHistory => false
  | .pcie => false
  | .fabric => false
  | .csi => true
  | .isp => true
  | .pdmIn => false
  | .beamformer => false
  | .ring => false
  | .voiceOut => true
  | .callEngine => true
  | .mgmtCores => false
  | .lowSpeed => false
  | .matrix => false
  | .vector => true
  | .stateUnit => true
  | .streamPort => false
  | .mesh => false
  | .stem => false
  | .dieLink => false
  | .hbm => false
  | .kitty => true
  | .meld => false
  | .queueEngine => true
  | .memEnc => false
  | .context => false

/-- The block class code of R75. -/
def classCode : PageClass → Nat
  | .identity => 0x01
  | .tableTime => 0x02
  | .power => 0x03
  | .mailbox => 0x04
  | .faultCollector => 0x05
  | .handHistory => 0x06
  | .pcie => 0x10
  | .fabric => 0x11
  | .csi => 0x12
  | .isp => 0x13
  | .pdmIn => 0x14
  | .beamformer => 0x15
  | .ring => 0x16
  | .voiceOut => 0x17
  | .callEngine => 0x18
  | .mgmtCores => 0x19
  | .lowSpeed => 0x1A
  | .matrix => 0x20
  | .vector => 0x21
  | .stateUnit => 0x22
  | .streamPort => 0x23
  | .mesh => 0x24
  | .stem => 0x25
  | .dieLink => 0x26
  | .hbm => 0x30
  | .kitty => 0x31
  | .meld => 0x32
  | .queueEngine => 0x33
  | .memEnc => 0x34
  | .context => 0x40

end Sys2Proof.Machine
end

