-- ==== Sys2Proof/Machine/State.lean ====
section
/-! DEFINITION. The state of the block: plain data. Every memory-mapped register of every page lives in ONE register file, a
sorted list of (PF BAR0 address, value) pairs that lists only the registers whose value differs from their reset value
(RegTable.lean gives the reset values); what the spec gives the block beside its registers is in the structures below, one per
chapter. `pending` is the queue of commands that wait, first in first out. -/
namespace Sys2Proof.Machine

/-- What the fuse bank fixes (R1, R5, R6, R100, R108, R110, R468, R588), and whether it holds an uncorrectable error (R95). The anti-rollback
counters are fuses that SVN_COMMIT burns: for each counter the number whose bit i says that fuse i is burnt (R109). -/
structure Part where
  stackCount : Nat
  iods : Nat
  gradeE : Bool
  stepping : Nat
  serial : Nat
  keyValid : Nat
  keyRevoked : Nat
  keyHash : List Nat
  expertOff : Bool
  arb : List Nat
  thTrip : Nat
  fuseBad : Bool
  uds : Nat
  endorsement : Nat
deriving DecidableEq, Repr

/-- A message of a crossing that has committed in the current beat: sender island, receiver island, its place in the order of
R37 and R63, what it carries, and whether it came late (R35–R38). -/
structure Commit where
  src : Nat
  dst : Nat
  order : Nat
  payload : Payload
  late : Bool
deriving DecidableEq, Repr

/-- Table Time (R30–R64). `now` is the main counter, `kept` and `frac` the always-on island's count with its 6-bit fraction,
`beats` the beat pulses issued since reset (R598), `firstDue` the lowest beat number whose commits fall due in this beat (R63),
`pend` the loads (true) and steps that the next beat boundary applies, `latched` the late-commit latch of R38, `relax` the
relax mask in force, `locking` whether a climb has relocked the SYS_XTAL PLL (R60), `edge` the time at which deals were evaluated before
the present RTC step (R52), `jump` the beat pulses at the first beat after the latest load or step that broke the row of beat numbers, and
the beat number before it (R598), `joined` for each power domain the beat pulses issued when it came On and its islands took the beat number
(R32), and `commits` what has committed in this beat, in the order of R37, to be applied at its end. -/
structure TimeSt where
  now : Nat
  beats : Nat
  run : Bool
  realigned : Bool
  locking : Bool
  keeping : Bool
  kept : Nat
  frac : Nat
  firstDue : Nat
  pend : List (Bool × Nat)
  latched : Bool
  relax : Nat
  edge : Nat
  jump : Option (Nat × Nat)
  joined : List (Nat × Nat)
  commits : List Commit
deriving DecidableEq, Repr

/-- What the device holds of an armed deal beyond its registers (R43): the index of its next target, and the first beat in which it is
able to launch (R48, R50). -/
structure DealSt where
  k : Nat
  able : Nat
deriving DecidableEq, Repr

/-- A command a page has accepted and not completed (R80): its tag, the beat pulses issued when it was accepted, and the
timeout ticks in force then. -/
structure CmdSt where
  id : Nat
  accept : Nat
  ticks : Nat
deriving DecidableEq, Repr

/-- A request to set CTRL.EXPERT of a page, by its base, that found the page unlocked for the writer or unlocked it (R486). -/
structure ExpertAsk where
  page : Nat
  by_ : Func
  granted : Bool
deriving DecidableEq, Repr

/-- The common head's state beyond its registers: pages whose masked events were non-zero at the end of the last beat, pages whose EVT_RAW
or EVT_EN was written in this beat (R89), registers that the management cores wrote in this beat (R73), pages with an accepted soft reset
under way (R78), armed deals, button positions (R55), running commands; and what hardware has set in this beat in each EVT_RAW and counted
in each counter, by the register's address, which a clear of the same beat leaves (R81, R87), and the beat's requests to set CTRL.EXPERT that
found a grant (R486). -/
structure HeadSt where
  mPrev : List Nat
  written : List Nat
  mgmt : List Nat
  resetting : List Nat
  deals : List (Nat × DealSt)
  buttons : List (Nat × Nat)
  cmds : List (Nat × List CmdSt)
  sets : List (Nat × Nat)
  counts : List (Nat × Nat)
  asks : List ExpertAsk
deriving DecidableEq, Repr

/-- Where bring-up stands (R92–R97, R579, R580): no supply, PERST# asserted, waiting for the power-good inputs, fuses read and the
link training, configuration answered, stopped by a fuse error, or waiting for PERST# after a failure of main power or a trip. -/
inductive BootPhase where
  | unpowered | perst | waitPg | training | up | fuseStop | waitPerst
deriving DecidableEq, Repr

/-- The 2 MiB units that the root of trust chose for a deck (R103): its MODEL or SERVICE region and its RESTORE region. -/
structure DeckUnits where
  main : List Nat
  restore : List Nat
deriving DecidableEq, Repr

/-- An open deck handle (R111–R114): the container bytes received so far, for the DMA path whether the scatter list runs and its
entries, and the units chosen once the section table has arrived. -/
structure DeckHandle where
  dma : Bool
  total : Nat
  bytes : List Byte
  dmaRun : Bool
  list : List (Nat × Nat)
  pri : Bool
  units : DeckUnits
deriving DecidableEq, Repr

/-- An installed deck (R97, R103, R119): kind (1 boot, 2 service, 3 model), slot of a model deck, the container as it was received, of
which only the header, the section digests and the retained sections are read after its installation, its units. -/
structure Deck where
  kind : Nat
  slot : Nat
  bytes : List Byte
  units : DeckUnits
deriving DecidableEq, Repr

/-- A mailbox command that has been accepted and whose result is not yet posted (R110, R113, R376): operation, handle, result code,
section, detail. -/
structure MbCmd where
  op : Nat
  handle : Nat
  code : Nat
  sect : Nat
  detail : Nat
deriving DecidableEq, Repr

/-- Power-up, decks and the supply and sideband pins (R92–R119, R577–R580). `reload` names the installed decks, as kind and slot, whose
restore failed (R119); `regInit` is what remains of the register-initialisation list (R102); `burn` is the counter whose fuses a SVN_COMMIT
is burning, and the value it is to reach (R109); `linksDue` are the links that no module of has trained (R254); `regionsDue` says that the
region table lost its power and the root of trust has its entries to write again (R91, R374). -/
structure BootSt where
  phase : BootPhase
  mainPg : Bool
  memPg : Bool
  vrMain : Bool
  vrMem : Bool
  thermtrip : Bool
  handles : List (Nat × DeckHandle)
  staging : List Host.Cell
  decks : List Deck
  cmd : Option MbCmd
  reload : List (Nat × Nat)
  regInit : List (Nat × Nat × Nat)
  burn : Option (Nat × Nat)
  linksDue : List (Nat × Nat)
  regionsDue : Bool
deriving DecidableEq, Repr

/-- The latest PWR_CMD write with GO (R134): its beat, who gave it, its target, whether it was accepted, whether EVT_RAW.HOLD_STARTED was set
before it, and whether a wake event of the same beat has it checked again. -/
structure PwrCmdSt where
  beat : Nat
  mgmt : Bool
  target : Nat
  ran : Bool
  held : Bool
  again : Bool
deriving DecidableEq, Repr

/-- The wake registers as they stood before the first wake event of a beat (R580): the beat, PWR_WAKE_CAUSE, PWR_WAKE_TT, PWR_CNT_WAKES, what
it had counted in the beat, and EVT_RAW.WAKE. -/
structure WakeSnap where
  beat : Nat
  cause : Word
  tt : Nat
  count : Word
  counted : Nat
  raised : Bool
deriving DecidableEq, Repr

/-- The power controller beyond the power page (R120–R149): the state of each of the fifteen domains (0 Off, 1 Retention, 2 On, 3 changing),
where the command began and who gave it, the beat pulses at which the hold or the quiesce began, the highest wake target latched in the
descend phase and whether any event was latched (R134), whether a climb stands stopped at Call for RESTORE_NEEDED (R128), whether tile SRAM
has been empty since Ante and the restore is owed, the duty cycle (in its sub-mode, in a window, turned continuous by a hit: R139, R140), a
regulator switch under way (the mode it leads to) and whether a load increase is held back (R147), the time at which the microphone clock of
the duty cycle last started, or Ante was entered (R139), the pair of PWR_RAISE_SEL in force since the latest Call → Raise step began (R135),
the latest command; the consecutive readings at TH_TRIP of each sensor, the highest die and stack readings of the present millisecond in
1/16 °C, the beat pulses at a trip, the sensors of the stacks at doubled refresh, the beat of the latest decision of the clock cap (R585,
R587, R588), the pending clock changes, as tile or 64 + die of a network, with the beat pulses at the request or the change of the cap
(R228), whether domains still go back to the levels of the state after a restore (R128, R144), and the wake registers before the latest
beat with a wake event (R580). -/
structure PowerSt where
  dom : List Nat
  cmdFrom : Nat
  byMgmt : Bool
  start : Nat
  latched : Option Nat
  anyLatched : Bool
  stalled : Bool
  owed : Bool
  dutyOn : Bool
  dutyWindow : Bool
  dutyHit : Bool
  regSwitch : Option Bool
  heldLoad : Bool
  dutyAt : Nat
  raise : Nat
  cmd : Option PwrCmdSt
  tripRun : List (Nat × Nat)
  tMax : Option Int
  hMax : Option Int
  tripAt : Option Nat
  refresh : List Nat
  decided : Option Nat
  clkPend : List (Nat × Nat)
  settling : Bool
  woke : Option WakeSnap
deriving DecidableEq, Repr

/-- What the wake detector holds of a beam (R160): env and floor in 1/4096 dB, the hot flag, the run, whether it has started;
and the blocks in a row in which a cancelled beam's output exceeded its input by 6 dB (R179). -/
structure DetSt where
  env : Int
  floor : Int
  hot : Bool
  run : Nat
  started : Bool
  overs : Nat
deriving DecidableEq, Repr

/-- A held ring block, or a group 1 live block: index, time of its first sample, FLAGS, TRACKS, RATE, planes (R163, R168). -/
structure RingBlk where
  idx : Nat
  time : Nat
  flags : Nat
  tracks : Nat
  rate : Nat
  data : List Byte
deriving DecidableEq, Repr

/-- A voice-out port beyond its registers (R174–R178): the two FIFOs as frames of slot samples, the bytes of a frame that has arrived in
part, whether A's stream has delivered its last block, each START (true) and STOP that was launched and waits for its first frame with its
launch beat, whether the frame before found A empty, and the slot values last played, which are the echo reference of port 0. -/
structure VoSt where
  fifoA : List (List Int)
  fifoB : List (List Int)
  partA : List Byte
  partB : List Byte
  lastA : Bool
  launches : List (Nat × Bool)
  sounding : Bool
  dry : Bool
  played : List Int
deriving DecidableEq, Repr

/-- The latest verdict signed off in a beat (R173): the beat pulses, the start block, whether it found the ring locked, whether it was a
follow-up verdict. -/
structure SignSt where
  beat : Nat
  start : Nat
  locked : Bool
  follow : Bool
deriving DecidableEq, Repr

/-- The acoustic blocks beyond their registers (R150–R179): the recent samples of each channel (32 × group + channel, oldest
first); what the input of a channel holds, which is the latest sample into and out of a PDM channel's high-pass, or a TDM channel's samples
under delay (R153, R154); the detector of each beam (16 × group + beam); groups refilling after a RESYNC with its time, and groups whose
interrupted block (2) or first new block (1) is still to come (R156); groups with a bank switch requested (R159); what registers that act
at the next output sample held before their latest writes, by address with the time of the write (R159); the held ring blocks oldest first,
the block being written, the consume pointer, the time of the latest block end and of the latest unlock or renewal, the time of the first
released block, the latest sign-off, the hour window and its unlocks (R487); the tracks that the canceller serves in the block under way,
and the planes of the latest block that it has still to write, as block, plane number and samples (R179); the group 1 live blocks and their
next index; the reads of the release port that are served when the beat ends, as tenant and address (R173); the ports. -/
structure AudioSt where
  hist : List (Nat × List Int)
  line : List (Nat × List Int)
  det : List (Nat × DetSt)
  refill : List (Nat × Nat)
  interrupted : List (Nat × Nat)
  bankPend : List Nat
  older : List (Nat × Nat × Word)
  ring : List RingBlk
  writeIdx : Nat
  consume : Nat
  endTt : Nat
  unlockTt : Nat
  relTime : Option Nat
  signed : Option SignSt
  hourWin : Nat
  hourCnt : Nat
  aec : List Nat
  late : List (Nat × Nat × List Int)
  live : List RingBlk
  liveIdx : Nat
  asked : List (Option Nat × Nat)
  vo0 : VoSt
  vo1 : VoSt
deriving DecidableEq, Repr

/-- A transfer issued and not completed (R414, R420, R426): its number, the block and byte offset it starts at, its length, the
memory address, where it goes, the descriptor it serves, whether it is class C3, whether it has been delivered to its pool, for
a PUT its bytes, and its segment (R421). -/
structure Xfer where
  id : Nat
  block : Nat
  off : Nat
  len : Nat
  addr : Nat
  dest : Nat
  desc : List Byte
  c3 : Bool
  sent : Bool
  data : List Byte
  seg : Nat
deriving DecidableEq, Repr

/-- A tile that a multicast queue holds undelivered (R433, R434): home slot, block, the tiles still to be sent a copy, those whose
acknowledgement is outstanding, the beat pulses at which its wait for a credit began, its bytes. -/
structure McTile where
  home : Home
  block : Nat
  last : Bool
  ctr : Nat
  unsent : List Nat
  unacked : List Nat
  waitFrom : Option Nat
  data : List Byte
deriving DecidableEq, Repr

/-- A stream queue (R408–R434): the fields of its record (R419), the latched doorbell words (R416), and what its engine holds of a
run: the list address of the block at HEAD and the descriptor read there, the transfers in flight and the next transfer number,
blocks fully issued and not complete with their FLAGS, the segment at HEAD, of a paired element queue the segments that its scale queue has
completed in this step (R424), how many launches were sent and how many ended, the beat in which the latest one ended, the launch that waits (entry, FLAGS, P0), whether it
waited on a scale segment, the reset marks of the segment (R421), the pending REARM, a STOP under way, the state before PARKED,
a translation obtained for the next transfer, the deadline of the outstanding page request, whether the queue halted because its
function may not reach the host (R448, R475), whether HEAD waits for AVAIL (counted), whether the last block has been issued, the
bytes of the PUT transfer that is being filled, whether it is complete and whether its block is left behind it, the multicast tiles,
the transpose parameters that blocks under conversion keep, none for one that is not converted (R322), the beat in which the queue became
eligible for the transfer slot that it asks for (R420), the beat pulses at which a page-request response made it ACTIVE (R428), and the frame of
the bytes in the PUT transfer that is being filled (R414). -/
structure Queue where
  ctrl : Word
  endpoint : Nat
  cause : Nat
  listBase : Nat
  stepBase : Nat
  stepPos : Nat
  head : Nat
  avail : Nat
  offset : Nat
  skew : Nat
  seq : Nat
  stall : Nat
  subs : Nat
  fold : Nat
  db : List Nat
  cursor : Nat
  desc : Option (List Byte)
  flight : List Xfer
  nextId : Nat
  openBlocks : List (Nat × Nat)
  segment : Nat
  pairDone : Nat
  sent : Nat
  ended : Nat
  lastEnd : Option Nat
  launch : Option (List Byte × Nat × Nat)
  scaleLate : Bool
  marks : List Nat
  rearm : Option (Nat × Nat)
  stopping : Bool
  before : Nat
  xlat : Bool
  pri : Option Nat
  closed : Bool
  starved : Bool
  finished : Bool
  acc : List Byte
  accDone : Bool
  leave : Bool
  mc : List McTile
  xpose : List (Nat × List Nat)
  since : Option Nat
  resumed : Option Nat
  accFrame : Option Nat
deriving DecidableEq, Repr

/-- A line of an output image, waiting in an output's buffer (R219): the output frame it belongs to, by its identity, FRAME_NO, output line,
whether it marks the drop of the rest of the frame (R220), its bytes at their offsets in the image (R217), whether it has committed at its
stem engine, which still needs it (R343), the queue that takes it, for an output whose image goes to a queue, and the stem engine that takes
it otherwise. -/
structure OutLine where
  frame : Nat
  frameNo : Nat
  line : Nat
  lost : Bool
  segs : List (Nat × List Byte)
  taken : Bool
  queue : Option Nat
  stem : Nat
deriving DecidableEq, Repr

/-- An output frame in progress (R215–R222): its identity among the output's frames since the power-up, output, OUT_SEQ, the next output
line, the developed rows averaged and scaled horizontally so far are in the input frame; fill lines, the first dropped line, flat blocks,
saturated elements, the chroma rows kept for the 2 × 2 mean, whether it makes no lines because its crop does not lie inside the input. -/
structure OutFrame where
  id : Nat
  out : Nat
  seq : Nat
  next : Nat
  fill : Nat
  drop : Option Nat
  flat : Nat
  clipped : Nat
  prev : List (Nat × Nat × Nat)
  outside : Bool
deriving DecidableEq, Repr

/-- A frame in a pipeline (R204–R211, R221): its identity among the pipeline's frames, its input and receiver data, the page's registers and
tables latched at its opening, the lines held with their arrival beats, the next line to process, the cut, the beat of its cut or closure,
whether the receiver has closed it and with what FLAGS, the lines after stage 3 and after stage 6, and its output frames. -/
structure IspFrame where
  id : Nat
  opened : Nat
  input : Nat
  port : Nat
  dt : Nat
  frameNo : Nat
  sofTt : Nat
  seq : Nat
  width : Nat
  height : Nat
  regs : List (Nat × Word)
  tone : List (Nat × Word)
  coef : List (Nat × Nat)
  lines : List (List (Nat × Nat × Nat))
  arrived : List Nat
  next : Nat
  cut : Option Nat
  endBeat : Nat
  closed : Bool
  flags : Nat
  tap0 : List (List (Nat × Nat × Nat))
  tap1 : List (List (Nat × Nat × Nat))
  outs : List OutFrame
deriving DecidableEq, Repr

/-- An image pipeline beyond its registers: whether a slice may be granted in this beat (R210), open frames oldest first, frames processed to their end of which output lines wait (R222), the
running slice (input, beat pulses at its start, its length in beats), the lines that a slice's end has freed (input, beat pulses, how many:
R210), frames opened so far, those of each output, and those of each output since enable, output buffers, what of an output's oldest frame
its queue has taken (frame, offset in the image: R219), descriptors and statistics records not yet accepted
with their queues, tone and defect entries and custom scaler coefficients that differ from reset (R223). -/
structure IspSt where
  asked : Bool
  frames : List IspFrame
  ending : List IspFrame
  slice : Option (Nat × Nat × Nat)
  freed : Option (Nat × Nat × Nat)
  count : Nat
  outIds : List (Nat × Nat)
  outSeq : List (Nat × Nat)
  outBuf : List (Nat × List OutLine)
  sent : List (Nat × Nat × Nat)
  descs : List (Nat × List (Nat × List Byte))
  stats : List (Nat × List (Nat × List Byte))
  tone : List (Nat × Word)
  coef : List (Nat × Nat)
deriving DecidableEq, Repr

/-- A frame of a receiver slot (R186–R198): its identity among the slot's frames, the slot's registers it opened with, its number and times,
the beat pulses at its SOF_TT and the timeout in force, what has been counted, the next index, the index a Line Start announced, whether
lines are discarded after a cut, whether its timeout is reached in this beat (R192), whether it has closed. -/
structure CsiFrame where
  id : Nat
  cfg : Word
  geom : Word
  queue : Word
  descq : Word
  frameNo : Nat
  sofTt : Nat
  eofTt : Nat
  fsyncTt : Nat
  opened : Nat
  limit : Nat
  seq : Nat
  linesRx : Nat
  padded : Nat
  short : Nat
  long : Nat
  eccCorr : Nat
  eccAll : Nat
  crc : Nat
  flags : Nat
  cutLine : Nat
  extra : Nat
  next : Nat
  announced : Option Nat
  due : Bool
  closed : Bool
deriving DecidableEq, Repr

/-- A stream slot of a receiver: the CSI_STREAM_CFG in force, taken at the slot's latest Frame Start (R186), its open frame, closed frames whose descriptor is not yet written, frames opened so far and since enable,
whether a frame was turned away at the gate and its lines are discarded (R197), lines in the 64 KiB FIFO of a queue stream with
the frame each belongs to (R194), how many bytes of the oldest of them, padded to its pitch, the queue has taken, descriptors not yet
accepted with their queues. -/
structure CsiSlot where
  cfg : Word
  frame : Option CsiFrame
  closing : List CsiFrame
  count : Nat
  seq : Nat
  gated : Bool
  fifo : List (Nat × List Byte)
  taken : Nat
  descs : List (Nat × List Byte)
deriving DecidableEq, Repr

/-- A receiver beyond its registers: whether packets of the present HS burst are accepted, the launch boundaries of the latest
FSYNC deals since the page was enabled (newest first), the beat pulses at the latest, whether CAM_FSYNC is at its active level,
its four slots. -/
structure CsiSt where
  burst : Bool
  fsyncs : List Nat
  fsyncAt : Nat
  fsyncHigh : Bool
  slots : List CsiSlot
deriving DecidableEq, Repr

/-- The Call engine beyond its page (R255–R258): its SRAM as stream queues write it, whether CALL_MODEL has been copied into its SRAM, whether
the SRAM has been written since (R166), whether the model runs, whether CTRL.EXPERT has read 0 at every beat since the model started, whether a copy is in progress, and verdicts emitted and
not yet judged by the root of trust, oldest first, as CE_VERDICT and CE_VERDICT_SPAN. -/
structure CallSt where
  sram : List Host.Cell
  loaded : Bool
  changed : Bool
  running : Bool
  clean : Bool
  copying : Bool
  verdicts : List (Nat × Nat)
deriving DecidableEq, Repr

/-- A launch or job entry held in a FIFO (R241, R340): its eight words, the queue that sent it, the beat of its commit. -/
structure Launch where
  words : List Nat
  queue : Option Nat
  beat : Nat
deriving DecidableEq, Repr

/-- A quantisation point as a kernel uses it (R282–R284): what it latched, and the step's statistics so far. -/
structure QpRun where
  point : Nat
  static : Bool
  base : Nat
  adj : Int
  inExp : Int
  statEn : Bool
  high : Nat
  count : Nat
  clipped : Nat
  flat : Nat
  maxPre : Nat × Int
  half : Nat × Int
deriving DecidableEq, Repr

/-- The running kernel of a tile (R243): its launch, when it started, the region entries in force for it (R237), the points it
latched, whether an accumulator saturated, the segments its state instructions named, channel records already counted as clamped,
the HELD pool lines it has read, each with the beat pulses at its fill (R394), the tokens that are signalled (R246), the entries of other tiles
that have been written since it started, as they were then, and the token records it has written, with their queues (R357). -/
structure Kernel where
  launch : Launch
  startTt : Nat
  started : Nat
  regions : List (Nat × Nat)
  qps : List QpRun
  accSat : Bool
  segs : List Nat
  clamped : List Nat
  held : List (Nat × Nat)
  toks : List Nat
  far : List (Nat × List (Nat × Nat))
  tokens : List (Nat × List Byte)
deriving DecidableEq, Repr

/-- What a unit of a tile waits for, with the instruction that waits: a halo counter, a window operator at an output row, a state
instruction at a zeroing segment; and an instruction whose writes have left the tile and are not all acknowledged (R249), with the segments
it named. -/
inductive TileWait where
  | counter (ctr v : Nat) (i : Issue)
  | window (op : WindowOp) (desc : List Byte) (unit row : Nat) (i : Issue)
  | state (op : StateOp) (i : Issue)
  | acks (i : Issue) (segs : List Nat)
deriving DecidableEq, Repr

/-- An instruction that has been dispatched to a unit and has not left it (R246): the unit (1 matrix, 2 vector, 3 state, 4 and 5 read
generators, 6 write generator, 7 sync), its offset, whether it writes, whether it is a POST (R249), the segments it names (R310). -/
structure Queued where
  unit : Nat
  pc : Nat
  writes : Bool
  posts : Bool
  segs : List Nat
deriving DecidableEq, Repr

/-- A POST sent and not committed (R248): target tile, counter, value, context, and the beat s + L in which it is due (R35). -/
structure HaloPost where
  target : Nat
  ctr : Nat
  v : Nat
  ctx : Nat
  due : Nat
deriving DecidableEq, Repr

/-- What takes a T1 pool line: home slot, tenant, context, whether it is to be pinned, the state it gets, its bytes. -/
structure PoolFill where
  home : Home
  tenant : Nat
  ctx : Nat
  pin : Bool
  st : Nat
  data : List Byte
deriving DecidableEq, Repr

/-- A T1 pool line (R392, R394): its unit, state (0 FREE, 1 FILLING, 2 HELD, 3 CLEAN, 4 DIRTY, 5 EVICTING), tag, context of the fill,
age, pinning context, beat of the fill, and the fill that takes it once its write-back is acknowledged. A FREE line is not listed. -/
structure PoolLine where
  line : Nat
  st : Nat
  home : Home
  tenant : Nat
  owner : Nat
  age : Nat
  pin : Option Nat
  filled : Nat
  next : Option PoolFill
deriving DecidableEq, Repr

/-- A write-back or partial write that has left a tile (R390, R397): home, who asks, byte offset, data, the line that waits for its
acknowledgement, whether it has been merged, whether it was answered with an error, and the beat in which it commits at the MD (R35, R390). -/
structure WriteBack where
  home : Home
  who : Requester
  off : Nat
  data : List Byte
  line : Option Nat
  merged : Bool
  failed : Bool
  due : Nat
deriving DecidableEq, Repr

/-- A segment of a state file (R292, R293, R307). -/
structure Segment where
  cfg : Word
  range : Word
  owner : Word
  planes : Word
  pos : Nat
  sat : Bool
  broken : Bool
  zeroing : Bool
  releasing : Bool
  first : Bool
deriving DecidableEq, Repr

/-- A tile beyond its registers (R225, R234, R242–R250, R291, R392): launch FIFO, kernel, tile SRAM, accumulators (64 × channel +
stream, 32-bit words) and those with the sticky flag, vector-register lanes (256 × register + lane), waiting units, posts in
flight, completion, exponent-change and token records not yet accepted (queue, context, bytes), units active in this beat (0 array,
1 vector engine, 2 state unit, 3 waiting for zeroisation), pool lines, outgoing writes, POOL region changes that wait for their
flush, segments and state entries, the written words of the vector engine's tables, ended launches to notify; the instructions that
its units hold, in the order of their dispatch (R246); the accesses of this beat to tile SRAM as port (0 weight, 1 write, 2 read), address
and length (R236); the count of beat pulses at which the last kernel ended; and the points of a kernel that ended in this beat, with its
context, whose steps close when the beat's register writes are in (R287); the units of tile SRAM with an uncorrectable error (R399); and what the write generator has sent toward stream queues and none has taken yet
(R240). -/
structure TileSt where
  fifo : List Launch
  kernel : Option Kernel
  sram : List Host.Cell
  acc : List (Nat × Nat)
  sticky : List Nat
  vreg : List (Nat × Nat)
  waits : List TileWait
  posts : List HaloPost
  comps : List (Nat × Nat × List Byte)
  xlogs : List (Nat × Nat × List Byte)
  tokens : List (Nat × Nat × List Byte)
  active : List Nat
  pool : List PoolLine
  writes : List WriteBack
  poolChange : List (Nat × Word)
  segs : List (Nat × Segment)
  entries : List (Nat × Nat)
  tables : List (Nat × Word)
  ends : List Nat
  queued : List Queued
  ports : List (Nat × Nat × Nat)
  ended : Option Nat
  closing : List (Nat × QpRun)
  bad : List Nat
  outs : List (Nat × Nat × List Byte)
deriving DecidableEq, Repr

/-- The running job of a stem engine (R343): its entry, start time, the descriptor and the weights with their channel records as the start
read them, whether it has been accepted, the bound frame (the output's frame count) with FRAME_NO, how many of its lines have committed, the
next output row. -/
structure StemJob where
  launch : Launch
  startTt : Nat
  desc : List Byte
  params : List Byte
  accepted : Bool
  frame : Option (Nat × Nat)
  lines : Nat
  row : Nat
deriving DecidableEq, Repr

/-- A stem engine beyond its page: job FIFO, running job, completion records not yet accepted, ended jobs to notify, and the
beat pulse in which a job ended last; and the bytes that stream queues have delivered into the engine's own memory (R415). -/
structure StemSt where
  fifo : List Launch
  job : Option StemJob
  comps : List (Nat × Nat × List Byte)
  ends : List Nat
  ended : Option Nat
  sram : List Host.Cell
deriving DecidableEq, Repr

/-- A kitty line (R385–R388): its number, home slot, tenant of its tag, whether the tag is shared (R386), age, DIRTY, a fill under
way, the reset domain of the write that started it, the requests that await it and their reset domains, its bytes. A free line is not
listed. -/
structure KLine where
  line : Nat
  home : Home
  tenant : Nat
  shared : Bool
  age : Nat
  dirty : Bool
  locked : Bool
  owner : Option Nat
  waiters : List (Requester × Nat)
  data : List Byte
deriving DecidableEq, Repr

/-- A request for a slot in host memory that an MD serves without a line (R389), until the host's bytes come: the MD, the slot, who asks and
its reset domain, and for a write the byte offset and the bytes. -/
structure Bypass where
  md : Nat
  home : Home
  who : Requester
  dom : Nat
  write : Option (Nat × List Byte)
deriving DecidableEq, Repr

/-- A region entry on its way into the table (R376): the beat it takes effect, its number and its three words. -/
structure RegionPend where
  due : Nat
  entry : Nat
  base : Word
  size : Word
  attr : Word
deriving DecidableEq, Repr

/-- A key slot (R477, R478): state 0 unassigned, 1 assigned and empty, 2 loaded, 3 retiring; tenant, kind 0 XTS or 1 MACSEC, key. -/
structure KeySlot where
  st : Nat
  tenant : Nat
  kind : Nat
  key : List Byte
deriving DecidableEq, Repr

/-- The memory side beyond its registers: kitties by MD, region words held until their +0x8 write (by address), entries not yet in
effect, granules with an uncorrectable error, the next granule of each patrol, the key slots, the requests served without a line. -/
structure MemSt where
  kitties : List (Nat × List KLine)
  held : List (Nat × Word)
  pend : List RegionPend
  poison : List Nat
  patrol : List (Nat × Nat)
  keys : List (Nat × KeySlot)
  bypass : List Bypass
deriving DecidableEq, Repr

/-- A fault record (R531). -/
structure FaultRec where
  tt : Nat
  seq : Nat
  source : Nat
  code : Nat
  severity : Nat
  domain : Nat
  tenant : Nat
  island : Nat
  context : Nat
  addr : Nat
  detail : Nat
deriving DecidableEq, Repr

/-- A fence under way on a reset domain (R537–R551): the beat pulses at which its phase began, the network domain whose cascade
caused it, of its suspect replay the suspects, those replayed, and the one whose replay has hung; and where it has run again from phase 5
the causes of the beat in which it did (R544). -/
structure FenceSt where
  start : Nat
  cascade : Option Nat
  suspects : List Nat
  replayed : List Nat
  guilty : Option Nat
  rerun : List Nat
deriving DecidableEq, Repr

/-- The fault collector and the fences (R531–R556, R600): the windows in which a source's corrected error has been recorded, the beat
pulses at the start of the watchdog period and at its latest firing, firings since reset, the times of a domain's unreproduced hangs, and
the tile region entries, as (tile, entry), whose section is marked for reinstall, where 16 + slot stands for the sections of a model slot
without an entry. -/
structure FaultSt where
  buffer : List FaultRec
  history : List FaultRec
  seq : Nat
  fences : List (Nat × FenceSt)
  corrWindow : List (Nat × Nat)
  wdogStart : Nat
  wdogLast : Option Nat
  wdogCount : Nat
  unreproduced : List (Nat × List Nat)
  marked : List (Nat × Nat)
deriving DecidableEq, Repr

/-- Why an SPDM request is answered with ERROR (R471–R474). The codes of other refusals are those of SPDM 1.2 (PRESUMED, log 50). -/
inductive SpdmError where
  | busy | unsupportedRequest | invalidRequest | unexpectedRequest | sessionLimitExceeded
deriving DecidableEq, Repr

/-- What a function's DOE mailbox answers (R471–R484). -/
inductive DoeReply where
  /-- the data object types of DOE Discovery: Discovery 0, CMA/SPDM 1, Secured CMA/SPDM 2 -/
  | discovery (types : List Nat)
  | error (e : SpdmError)
  /-- SPDM version, as major and minor -/
  | version (major minor : Nat)
  | capabilities | algorithms
  | digests (digest : Nat)
  | certificate (part : List Byte) (remaining : Nat)
  /-- measurement summary, if asked for, and the signature by the Alias key, an unstated value -/
  | challenge (summary : Option Nat) (signature : Nat)
  /-- the number of measurements, or the blocks asked for, with the signature if asked for -/
  | measurements (count : Nat) (blocks : List (Nat × List Byte)) (signature : Option Nat)
  /-- session opened, HeartbeatPeriod in seconds -/
  | keyExchange (session heartbeat : Nat)
  | finish | heartbeat | keyUpdate | endSession
  | ideQuery | keyProg (ok : Bool) | setGo | setStop
  | tdispVersion (major minor : Nat)
  | tdispCapabilities | tdispError | tdiLocked | tdiStarted | tdiStopped
  | tdiState (state : Nat)
  /-- the VF slots whose context areas the report lists, with the device-specific information -/
  | tdiReport (ranges : List (Nat × Nat × Nat)) (info : List Byte)
  /-- status of KEY_DELIVER and KEY_ERASE (R480) -/
  | keyStatus (status : Nat)
  /-- the tenant's slots as (slot, kind, state) -/
  | slots (list : List (Nat × Nat × Nat))
deriving DecidableEq, Repr

/-- What encloses a table frame on the wire (R498, R503): destination and source address, byte 0 lowest; PCP and VID of the 802.1Q tag, when
TAG is 1; the key slot of the MACsec association, whose SCI is the source address and port identifier 1 + port; the inner EtherType. -/
structure Wire where
  dst : Nat
  src : Nat
  tag : Option (Nat × Nat)
  slot : Nat
  etherType : Nat
deriving DecidableEq, Repr

/-- What the block sends out or answers, in order. -/
inductive Out where
  /-- an object of a function's DOE mailbox (R471) -/
  | doe (fn : Nat) (reply : DoeReply)
  /-- an MSI-X message of a function's vector (R445) -/
  | msix (fn vector : Nat)
  /-- a management-core interrupt line (R88) -/
  | mgmtIrq (line : Nat)
  /-- data returned to a read -/
  | readData (by_ : Func) (addr : Nat) (value : Nat)
  /-- a write to host memory by a function -/
  | hostWrite (fn addr : Nat) (data : List Byte)
  /-- a read of host memory requested by a function -/
  | hostRead (fn addr len : Nat)
  /-- a configuration request answered with Configuration Request Retry Status (R93) -/
  | configRetry
  /-- a request that completed with Unsupported Request (R93, R444) -/
  | unsupported (by_ : Func)
  /-- PM_PME, CLKREQ# asserted by the device, an AER ERR_FATAL message -/
  | pmPme
  /-- a page request of a function -/
  | pageRequest (fn addr : Nat)
  /-- a gPTP message on a fabric port (R509) -/
  | gptp (port : Nat) (msg : Gptp)
  /-- a table frame on a fabric port: what encloses it, header and payload (R498, R499) -/
  | tableFrame (port : Nat) (wire : Wire) (bytes : List Byte)
  | clkreq
  /-- the latency that the endpoint reports by LTR, in microseconds (R448) -/
  | ltr (micros : Nat)
  | errFatal
  /-- an AVSBus voltage write of a rail (R228, R578) -/
  | avsWrite (rail millivolts : Nat)
  /-- a frame of a voice-out port (R174) -/
  | voFrame (port : Nat) (slots : List Int)
  /-- an edge of a frame-sync pin (R145, R196, R201): the pin's level -/
  | fsyncPin (receiver : Nat) (high : Bool)
  /-- the engine-ready tile that a request for a home slot gets, none for an error answer (R375, R386) -/
  | tileData (to_ : Requester) (home : Home) (data : Option (List Byte))
  /-- the slot a release-port read answers, none for an error (R168) -/
  | released (tile : Option (List Byte))
deriving DecidableEq, Repr

/-- Faults: commands on which the machine stops. None of the commands of this block stops it: every constructor of Instr has
an effect in every state, so this type has a single constructor that no meaning raises (safe). -/
inductive Fault where
  /-- raised by no meaning (safe) -/
  | none
deriving DecidableEq, Repr

/-- Refusals: commands without a meaning. -/
inductive Refusal where
  /-- an arm of Dispatch.lean whose meaning is not written; carries the row's mnemonic (safe) -/
  | notModelled (mnemonic : String)
deriving DecidableEq, Repr

/-- A context beyond its page (R450, R452, R447): CTX_CFG and CTX_PASID as CREATE latched them, the beat pulses at which a Function
Level Reset destroyed it, and those at which its latest bind committed (R118). -/
structure CtxSt where
  cfg : Word
  pasid : Word
  flr : Option Nat
  bound : Nat
deriving DecidableEq, Repr

/-- A service cell before it is sent (R460): TYPE, FLAGS without PHASE, CODE, CORR, TT, payload. -/
structure Cell where
  kind : Nat
  flags : Nat
  code : Nat
  corr : Nat
  tt : Nat
  payload : List Byte
deriving DecidableEq, Repr

/-- The D2H cells of a tenant that wait (R461), and the EVENT and FAULT cells dropped since the latest RING_OVERFLOW. -/
structure HoldSt where
  cells : List Cell
  dropped : Nat
deriving DecidableEq, Repr

/-- A host request that waits for the link to leave L1.2 (R137): a write of a page's register, with what host memory holds at the scatter list
of a mailbox command; a read; a write of a doorbell word; an access that names no page, or none that BAR0 takes; a write to BAR2; a write of
an MSI-X mask; a configuration write. -/
inductive HostReq where
  | page (w : Func) (p : Page) (off : Nat) (v : Word) (list : List Byte)
  | read (w : Func) (p : Page) (off : Nat)
  | doorbell (w : Func) (q k : Nat) (v : Word)
  | stray (w : Func) (a : Nat)
  | misaligned (w : Func) (write : Bool) (a : Nat)
  | staging (off : Nat) (data : List Byte)
  | mask (fn : Nat) (vector : Option Nat) (mask : Bool)
  | config (x : CfgWrite)
deriving DecidableEq, Repr

/-- The PCIe functions as configuration space holds them (R93, R441–R449): function 0 is the PF, function n the VF of tenant n.
Lists name the functions, or function × 4,096 + vector for the MSI-X table and pending bits. With them the contexts, the cells that
wait, the model slots whose PLACEMENT has been checked since their deck was installed (R453), the requests that wait for the link, and the
device's own accesses of host memory that wait for their function to be covered (R21, R475). -/
structure HostSt where
  linkUp : Bool
  mse : List Nat
  vfEnable : Bool
  numVfs : Nat
  msixEn : List Nat
  fnMask : List Nat
  unmasked : List Nat
  pba : List Nat
  d3 : List Nat
  aspmL12 : Bool
  pmeEn : Bool
  pmeStatus : Bool
  wakeDriven : Bool
  ctxs : List (Nat × CtxSt)
  holds : List (Nat × HoldSt)
  placed : List Nat
  waiting : List HostReq
  sends : List (Nat × Out)
deriving DecidableEq, Repr

/-- A hand-history record before it is written (R559): time, KIND, FLAGS, consuming island, unit, payload. -/
structure HistRec where
  tt : Nat
  kind : Nat
  flags : Nat
  island : Nat
  unit : Nat
  payload : List Byte
deriving DecidableEq, Repr

/-- An OUTPUT_DIGEST (R557, R570): TYPE, queue or context, length, CRC, and the time of its record. -/
structure Digest where
  kind : Nat
  unit : Nat
  len : Nat
  crc : Nat
  tt : Nat
deriving DecidableEq, Repr

/-- The hand-history recorder (R557–R571): the current beat's captures in island order, the record number since START, inputs lost since the
last GAP and the time of the first, the byte extents between HEAD and TAIL, bytes below the next KiB, the beat pulses at which a device
checkpoint was accepted, the MEM_IN map of slots written since, and in replay the random draws that wait as (island, value), recorded
digests that await their output and outputs that await their recorded digest (R570), and whether a record is being injected (R569). -/
structure HistSt where
  beatBuf : List HistRec
  seq : Nat
  lost : Nat
  lostTt : Nat
  sizes : List Nat
  kibRem : Nat
  ckptAt : Option Nat
  writtenSlots : List Nat
  draws : List (Nat × Nat)
  expect : List Digest
  made : List Digest
  injecting : Bool
deriving DecidableEq, Repr

/-- A peer fetch, or without a queue a LEND_DATA, that awaits its response (R504, R518, R520): correlation value, peer seat, queue and
transfer, the port it went out on, the beat pulses at which it was sent, the timeout in force then, whether it has been sent again, its
class. -/
structure Fetch where
  corr : Nat
  seat : Nat
  queue : Option Nat
  xfer : Nat
  port : Nat
  start : Nat
  ticks : Nat
  again : Bool
  c3 : Bool
deriving DecidableEq, Repr

/-- A bidding round at the dealer (R514, R515): SPEECH_TT, the commit time of its first BID, the end of its window, the bids as (seat,
score), the seats whose bids came late, the payload of its AWARD once decided. -/
structure Round where
  speech : Nat
  start : Nat
  stop : Nat
  bids : List (Nat × Nat)
  late : List Nat
  award : Option (List Byte)
deriving DecidableEq, Repr

/-- A lending session (R522): the other seat, SESSION, whether this seat lends, whether it has been accepted, the deck digest of its
request. As a borrower: the request's time, and the offers as (seat, FREE_STREAMS) until one is accepted. -/
structure Lend where
  seat : Nat
  session : Nat
  lender : Bool
  live : Bool
  deck : Nat
  sent : Nat
  offers : List (Nat × Nat)
deriving DecidableEq, Repr

/-- The table logic beyond its registers (R495–R527): for each 2 × seat + port the source address and the beat pulses at the commit of the
latest HELLO; FLAGS and FREE_STREAMS of a seat's latest HELLO; the beat of the latest own HELLO; frames sent in each class since JOIN; the
last SEQs of each 4 × seat + class; the next correlation value; fetches outstanding; rounds; own bids as (SPEECH_TT, beat pulses when sent,
dialogue); awards committed as (SPEECH_TT, dealer); BIDs to itself that commit in the next beat (R513); the lending button; sessions; the
latest gPTP timestamps as (8 × port + message, time); own bids that an AWARD has ended; the beat pulses at the latest Sync sent; and the key
slots that TBL_KEY (tenant 0) and the tenants' registers held before a change, as (tenant, beat pulses at the change, slot) (R502). -/
structure TblSt where
  heard : List (Nat × Nat × Nat)
  info : List (Nat × Nat × Nat)
  helloAt : Option Nat
  seqs : List (Nat × Nat)
  recent : List (Nat × List Nat)
  corr : Nat
  fetches : List Fetch
  rounds : List Round
  bids : List (Nat × Nat × Nat)
  awards : List (Nat × Nat)
  ownBids : List (List Byte)
  lendButton : Nat
  lends : List Lend
  syncs : List (Nat × Nat)
  ended : List (Nat × Nat × Nat)
  syncAt : Option Nat
  oldKeys : List (Nat × Nat × Nat)
deriving DecidableEq, Repr

/-- An SPDM session (R474): function, session number, whether FINISH has completed it, the time of its latest message. -/
structure Session where
  fn : Nat
  id : Nat
  open_ : Bool
  last : Nat
deriving DecidableEq, Repr

/-- An IDE stream (R475, R476): the key sets programmed, as 2 × set + direction, those in use, at most one a direction, whether it is
Secure, whether TEE-Limited is set, and the functions its RID association covers, first and last. -/
structure IdeStream where
  keys : List Nat
  active : List Nat
  secure : Bool
  tee : Bool
  lo : Nat
  hi : Nat
deriving DecidableEq, Repr

/-- The root of trust beyond the mailbox page (R467–R494): how far each function's SPDM negotiation has gone (1 version, 2 capabilities,
3 algorithms), sessions, IDE streams (0 link, 1 + s selective), the beat in which fixed-deal mode was enabled, the device-specific
information of each TDI's report, the stream each TDI locked to, the tenants whose STOP_INTERFACE_REQUEST waits for their contexts; the UDS
and the DeviceID private key while the boot ROM holds them, CDI₀ and the Alias private key that the boot deck's code holds, and the
certificate chain of slot 0 (R469, R470). -/
structure SecSt where
  spdm : List (Nat × Nat)
  sessions : List Session
  ide : List (Nat × IdeStream)
  fdBeat : Nat
  tdiInfo : List (Nat × List Byte)
  tdiStream : List (Nat × Nat)
  stopping : List Nat
  rom : Option (Nat × Nat)
  dice : Option (Nat × Nat)
  chain : List Byte
deriving DecidableEq, Repr

/-- The state of the block: its fuses, its register file, what each part holds beside it, the output so far, how many free values have
been taken (log 3), and the queue of commands that wait (log 1). -/
structure State where
  part : Part
  regs : List (Nat × Word)
  tt : TimeSt
  head : HeadSt
  boot : BootSt
  pwr : PowerSt
  fc : FaultSt
  host : HostSt
  hh : HistSt
  sec : SecSt
  tbl : TblSt
  au : AudioSt
  ce : CallSt
  csi : List (Nat × CsiSt)
  isp : List (Nat × IspSt)
  tiles : List (Nat × TileSt)
  stems : List (Nat × StemSt)
  mem : MemSt
  queues : List (Nat × Queue)
  hbm : List Host.Cell
  out : List Out
  freeIdx : Nat
  pending : List Instr
deriving DecidableEq, Repr

/-- A voice-out port at reset. -/
def VoSt.empty : VoSt :=
  { fifoA := [], fifoB := [], partA := [], partB := [], lastA := false, launches := [], sounding := false, dry := false, played := [] }

/-- The hand-history recorder at reset. -/
def HistSt.empty : HistSt :=
  { beatBuf := [], seq := 0, lost := 0, lostTt := 0, sizes := [], kibRem := 0, ckptAt := none, writtenSlots := [], draws := []
    expect := [], made := [], injecting := false }

/-- The table logic at reset. The buttons start at their last requester (R56). -/
def TblSt.empty : TblSt :=
  { heard := [], info := [], helloAt := none, seqs := [], recent := [], corr := 0, fetches := [], rounds := [], bids := [], awards := []
    ownBids := [], lendButton := 511, lends := [], syncs := [], ended := [], syncAt := none, oldKeys := [] }

/-- The part the model describes (R1–R5): an SVK-4M2X1-C of stepping 0 with one valid public-key slot. A fuse value is the model's
choice (log 2). -/
def Part.reference : Part :=
  { stackCount := 2, iods := 1, gradeE := false, stepping := 0, serial := 0, keyValid := 1, keyRevoked := 0, keyHash := [0, 0, 0, 0]
    expertOff := false, arb := List.replicate 16 0, thTrip := 110, fuseBad := false, uds := 0, endorsement := 0 }

/-- A part after a whole-device reset, PERST# asserted (R92): Table Time 0 and running, every fitted domain On as PWR_STATE's reset
value Showdown says, both regulator enables high and no power good yet (R579), nothing installed, no context, every register at its
reset value. -/
def State.ofPart (q : Part) : State :=
  { part := q
    regs := []
    tt := { now := 0, beats := 0, run := true, realigned := false, locking := false, keeping := false, kept := 0, frac := 0
            firstDue := 0, pend := [], latched := false, relax := 0, edge := 0, jump := none, joined := (List.range 15).map fun d => (d, 0), commits := [] }
    head := { mPrev := [], written := [], mgmt := [], resetting := [], deals := [], buttons := [], cmds := [], sets := [], counts := [], asks := [] }
    boot := { phase := .perst, mainPg := false, memPg := false, vrMain := true, vrMem := true, thermtrip := false, handles := []
              staging := [], decks := [], cmd := none, reload := [], regInit := [], burn := none, linksDue := [], regionsDue := false }
    pwr := { dom := (List.range 15).map fun d => if (d = 4 ∧ q.iods < 2) ∨ (d = 6 ∧ q.stackCount < 2) then 0 else 2
             cmdFrom := 0, byMgmt := false, start := 0, latched := none, anyLatched := false, stalled := false, owed := false
             dutyOn := false, dutyWindow := false, dutyHit := false, regSwitch := none, heldLoad := false, dutyAt := 0, raise := 0, cmd := none
             tripRun := [], tMax := none, hMax := none, tripAt := none, refresh := [], decided := none, clkPend := [], settling := false, woke := none }
    fc := { buffer := [], history := [], seq := 1, fences := [], corrWindow := [], wdogStart := 0, wdogLast := none, wdogCount := 0
            unreproduced := [], marked := [] }
    host := { linkUp := false, mse := [], vfEnable := false, numVfs := 0, msixEn := [], fnMask := [], unmasked := [], pba := [], d3 := []
              aspmL12 := false, pmeEn := false, pmeStatus := false, wakeDriven := false, ctxs := [], holds := [], placed := []
              waiting := [], sends := [] }
    hh := HistSt.empty
    sec := { spdm := [], sessions := [], ide := [], fdBeat := 0, tdiInfo := [], tdiStream := [], stopping := [], rom := none
             dice := none, chain := [] }
    tbl := TblSt.empty
    au := { hist := [], line := [], det := [], refill := [], interrupted := [], bankPend := [], older := [], ring := [], writeIdx := 0
            consume := 0, endTt := 0, unlockTt := 0, relTime := none, signed := none, aec := [], late := []
            hourWin := 0, hourCnt := 0, live := [], liveIdx := 0, asked := [], vo0 := VoSt.empty, vo1 := VoSt.empty }
    ce := { sram := [], loaded := false, changed := false, running := false, clean := false, copying := false, verdicts := [] }
    csi := [], isp := [], tiles := [], stems := []
    mem := { kitties := [], held := [], pend := [], poison := [], patrol := [], keys := [], bypass := [] }
    queues := [], hbm := [], out := [], freeIdx := 0, pending := [] }

/-- The block right after its power-on. -/
def State.reset : State := State.ofPart Part.reference

end Sys2Proof.Machine
end

