-- ==== Sys2Proof/Machine/Pages.lean ====
section
/-! DEFINITION. The register pages: where each lies (R592, R596), which are fitted (R8, R592), and the island, power domain and
reset domain of each (R34, R120, R536, R599). -/
namespace Sys2Proof.Machine

/-- First address of a compute die's pages (R592). -/
def cdBase (n : Nat) : Nat := 0x00400000 + 0x00100000 * n
/-- First address of a memory-side die's pages (R592). -/
def mdBase (n : Nat) : Nat := 0x00800000 + 0x00100000 * n
/-- First address of a tile's four pages (R68). -/
def tileBase (t : Nat) : Nat := cdBase (t / 16) + 0x4000 * (t % 16)

/-- The PF BAR0 address of a page (R592). -/
def pageBase (p : Page) : Nat :=
  match p.cls with
  | .identity => 0x00000000
  | .tableTime => 0x00001000
  | .power => 0x00002000
  | .mailbox => 0x00003000
  | .faultCollector => 0x00004000
  | .handHistory => 0x00005000
  | .pcie => 0x00100000
  | .mgmtCores => 0x00101000
  | .isp => 0x00102000 + 0x00100000 * p.idx
  | .lowSpeed => 0x00103000
  | .csi => if p.idx < 4 then 0x00104000 + 0x1000 * p.idx else 0x00204000 + 0x1000 * (p.idx - 4)
  | .pdmIn => 0x00108000 + 0x00100000 * p.idx
  | .beamformer => 0x00109000 + 0x00100000 * p.idx
  | .ring => 0x0010A000
  | .voiceOut => 0x0010B000 + 0x1000 * p.idx
  | .callEngine => 0x0010D000
  | .fabric => 0x0010E000 + 0x1000 * p.idx
  | .matrix => tileBase p.idx
  | .vector => tileBase p.idx + 0x1000
  | .stateUnit => tileBase p.idx + 0x2000
  | .streamPort => tileBase p.idx + 0x3000
  | .mesh => cdBase p.idx + 0x40000
  | .stem => cdBase p.idx + 0x41000
  | .dieLink => cdBase (p.idx / 4) + 0x42000 + 0x1000 * (p.idx % 4)
  | .hbm => mdBase p.idx
  | .kitty => mdBase p.idx + 0x1000
  | .meld => mdBase p.idx + 0x2000
  | .queueEngine => mdBase p.idx + 0x3000
  | .memEnc => mdBase p.idx + 0x4000
  | .context => 0x01000000 + 0x4000 * p.idx

/-- The page an IOD range offset names (R592). -/
def iodPage (die k : Nat) : Option Page :=
  if die = 0 then
    match k with
    | 0 => some ⟨.pcie, 0⟩ | 1 => some ⟨.mgmtCores, 0⟩ | 2 => some ⟨.isp, 0⟩ | 3 => some ⟨.lowSpeed, 0⟩
    | 4 => some ⟨.csi, 0⟩ | 5 => some ⟨.csi, 1⟩ | 6 => some ⟨.csi, 2⟩ | 7 => some ⟨.csi, 3⟩
    | 8 => some ⟨.pdmIn, 0⟩ | 9 => some ⟨.beamformer, 0⟩ | 10 => some ⟨.ring, 0⟩ | 11 => some ⟨.voiceOut, 0⟩
    | 12 => some ⟨.voiceOut, 1⟩ | 13 => some ⟨.callEngine, 0⟩ | 14 => some ⟨.fabric, 0⟩ | 15 => some ⟨.fabric, 1⟩
    | _ => none
  else
    match k with
    | 2 => some ⟨.isp, 1⟩ | 4 => some ⟨.csi, 4⟩ | 5 => some ⟨.csi, 5⟩ | 6 => some ⟨.csi, 6⟩ | 7 => some ⟨.csi, 7⟩
    | 8 => some ⟨.pdmIn, 1⟩ | 9 => some ⟨.beamformer, 1⟩ | _ => none

/-- The page that a PF BAR0 offset decodes to, and the register offset in it (R596); none for doorbells and reserved ranges. -/
def pageOf (a : Nat) : Option (Page × Nat) :=
  let off := a % 0x1000
  if a < 0x00006000 then
    match a / 0x1000 with
    | 0 => some (⟨.identity, 0⟩, off) | 1 => some (⟨.tableTime, 0⟩, off) | 2 => some (⟨.power, 0⟩, off)
    | 3 => some (⟨.mailbox, 0⟩, off) | 4 => some (⟨.faultCollector, 0⟩, off) | _ => some (⟨.handHistory, 0⟩, off)
  else if 0x00100000 ≤ a ∧ a < 0x00300000 then
    (iodPage (a / 0x100000 - 1) (a / 0x1000 % 0x100)).map fun p => (p, off)
  else if 0x00400000 ≤ a ∧ a < 0x00800000 then
    let die := a / 0x100000 - 4
    let o := a % 0x100000
    if o < 0x40000 then
      let t := 16 * die + o / 0x4000
      match o / 0x1000 % 4 with
      | 0 => some (⟨.matrix, t⟩, off) | 1 => some (⟨.vector, t⟩, off)
      | 2 => some (⟨.stateUnit, t⟩, off) | _ => some (⟨.streamPort, t⟩, off)
    else
      match o / 0x1000 - 0x40 with
      | 0 => some (⟨.mesh, die⟩, off) | 1 => some (⟨.stem, die⟩, off)
      | 2 => some (⟨.dieLink, 4 * die⟩, off) | 3 => some (⟨.dieLink, 4 * die + 1⟩, off)
      | 4 => some (⟨.dieLink, 4 * die + 2⟩, off) | 5 => some (⟨.dieLink, 4 * die + 3⟩, off) | _ => none
  else if 0x00800000 ≤ a ∧ a < 0x00A00000 then
    let n := a / 0x100000 - 8
    match a / 0x1000 % 0x100 with
    | 0 => some (⟨.hbm, n⟩, off) | 1 => some (⟨.kitty, n⟩, off) | 2 => some (⟨.meld, n⟩, off)
    | 3 => some (⟨.queueEngine, n⟩, off) | 4 => some (⟨.memEnc, n⟩, off) | _ => none
  else if 0x01000000 ≤ a ∧ a < 0x02000000 then some (⟨.context, (a - 0x01000000) / 0x4000⟩, a % 0x4000)
  else none

/-- The die-link pages present on a part (R592). -/
def linkPresent (q : Part) (die edge : Nat) : Bool :=
  match die, edge with
  | 0, _ => decide (edge < 4)
  | 1, 0 => false
  | 1, 1 => q.stackCount == 2
  | 1, _ => decide (edge < 4)
  | 2, 2 => false
  | 2, _ => decide (edge < 4)
  | 3, 1 => q.stackCount == 2
  | 3, 2 => q.iods == 2
  | 3, _ => decide (edge < 4)
  | _, _ => false

/-- Is the page fitted on the part (R8, R592)? -/
def pagePresent (q : Part) (p : Page) : Bool :=
  match p.cls with
  | .csi => decide (p.idx < 4 * q.iods)
  | .isp => decide (p.idx < q.iods)
  | .pdmIn => decide (p.idx < q.iods)
  | .beamformer => decide (p.idx < q.iods)
  | .voiceOut => decide (p.idx < 2)
  | .fabric => decide (p.idx < 2)
  | .matrix => decide (p.idx < 64)
  | .vector => decide (p.idx < 64)
  | .stateUnit => decide (p.idx < 64)
  | .streamPort => decide (p.idx < 64)
  | .mesh => decide (p.idx < 4)
  | .stem => decide (p.idx < 4)
  | .dieLink => linkPresent q (p.idx / 4) (p.idx % 4)
  | .hbm => decide (p.idx < q.stackCount)
  | .kitty => decide (p.idx < q.stackCount)
  | .meld => decide (p.idx < q.stackCount)
  | .queueEngine => decide (p.idx < q.stackCount)
  | .memEnc => decide (p.idx < q.stackCount)
  | .context => decide (p.idx < 1024)
  | _ => decide (p.idx = 0)

/-- The six device-global pages of R67. -/
def isGlobal (p : Page) : Bool :=
  match p.cls with
  | .identity => true | .tableTime => true | .power => true | .mailbox => true
  | .faultCollector => true | .handHistory => true | _ => false

/-- PAGE_ID.INSTANCE (R591): the die number on a die-link page. -/
def pageInstance (p : Page) : Nat := if p.cls = .dieLink then p.idx / 4 else p.idx

/-- The island that serves a page (R34, R599). -/
def pageIsland (p : Page) : Nat :=
  match p.cls with
  | .identity => 85 | .tableTime => 84 | .power => 84 | .mailbox => 85
  | .faultCollector => 72 | .handHistory => 72 | .pcie => 72 | .mgmtCores => 78 | .lowSpeed => 79
  | .context => 72 | .fabric => 73
  | .csi => if p.idx < 4 then 74 else 80
  | .isp => if p.idx = 0 then 75 else 81
  | .pdmIn => if p.idx = 0 then 84 else 82
  | .beamformer => if p.idx = 0 then 84 else 82
  | .ring => 84
  | .voiceOut => 76
  | .callEngine => 77
  | .matrix => p.idx | .vector => p.idx | .stateUnit => p.idx | .streamPort => p.idx
  | .mesh => 64 + p.idx | .stem => 64 + p.idx | .dieLink => 64 + p.idx / 4
  | .hbm => 68 + p.idx | .kitty => 68 + p.idx | .meld => 68 + p.idx | .queueEngine => 68 + p.idx | .memEnc => 68 + p.idx

/-- The power domain of a page (R120, R599). The power page's keeper part is told apart in `keeperReg`. -/
def pagePower (p : Page) : Nat :=
  match p.cls with
  | .identity => 2 | .tableTime => 0 | .power => 1 | .mailbox => 2
  | .faultCollector => 3 | .handHistory => 3 | .pcie => 3 | .mgmtCores => 3 | .lowSpeed => 3 | .context => 3 | .fabric => 3
  | .csi => if p.idx < 4 then 3 else 4
  | .isp => if p.idx = 0 then 3 else 4
  | .pdmIn => if p.idx = 0 then 1 else 4
  | .beamformer => if p.idx = 0 then 1 else 4
  | .ring => 1
  | .voiceOut => 3
  | .callEngine => 3
  | .matrix => 7 + p.idx / 16 | .vector => 7 + p.idx / 16 | .stateUnit => 7 + p.idx / 16 | .streamPort => 7 + p.idx / 16
  | .mesh => 7 + p.idx | .stem => 7 + p.idx | .dieLink => 7 + p.idx / 4
  | .hbm => 5 + p.idx | .kitty => 5 + p.idx | .meld => 5 + p.idx | .queueEngine => 5 + p.idx | .memEnc => 5 + p.idx

/-- The registers of the power page that the keeper holds: the deal slot, PWR_WAKE_CAUSE and PWR_WAKE_TT (R135, R599). -/
def keeperReg (p : Page) (off : Nat) : Bool :=
  match p.cls with
  | .tableTime => true
  | .power => (decide (0x20 ≤ off) && decide (off < 0x30)) || (decide (0x114 ≤ off) && decide (off < 0x120))
  | _ => false

/-- The reset domain of a page, 0xFF for none (R536). -/
def pageDomain (p : Page) : Nat :=
  match p.cls with
  | .matrix => p.idx | .vector => p.idx | .stateUnit => p.idx | .streamPort => p.idx
  | .mesh => 64 + p.idx | .dieLink => 64 + p.idx / 4
  | .stem => 68 + p.idx
  | .hbm => 72 + p.idx | .kitty => 72 + p.idx | .meld => 72 + p.idx | .queueEngine => 72 + p.idx | .memEnc => 72 + p.idx
  | .csi => if p.idx < 4 then 80 + p.idx else 81 + p.idx
  | .isp => if p.idx = 0 then 84 else 89
  | .voiceOut => 90
  | .callEngine => 91
  | .fabric => 92
  | _ => 0xFF

/-- The root page of a reset domain (R536). -/
def domainRoot (d : Nat) : Option Page :=
  if d < 64 then some ⟨.matrix, d⟩
  else if d < 68 then some ⟨.mesh, d - 64⟩
  else if d < 72 then some ⟨.stem, d - 68⟩
  else if d < 74 then some ⟨.hbm, d - 72⟩
  else if 80 ≤ d ∧ d < 84 then some ⟨.csi, d - 80⟩
  else if d = 84 then some ⟨.isp, 0⟩
  else if 85 ≤ d ∧ d < 89 then some ⟨.csi, d - 81⟩
  else if d = 89 then some ⟨.isp, 1⟩
  else if d = 90 then some ⟨.voiceOut, 0⟩
  else if d = 91 then some ⟨.callEngine, 0⟩
  else if d = 92 then some ⟨.fabric, 0⟩
  else none

/-- Every page of a reset domain, the root first (R536). -/
def domainPages (d : Nat) : List Page :=
  if d < 64 then [⟨.matrix, d⟩, ⟨.vector, d⟩, ⟨.stateUnit, d⟩, ⟨.streamPort, d⟩]
  else if d < 68 then
    [⟨.mesh, d - 64⟩, ⟨.dieLink, 4 * (d - 64)⟩, ⟨.dieLink, 4 * (d - 64) + 1⟩, ⟨.dieLink, 4 * (d - 64) + 2⟩,
     ⟨.dieLink, 4 * (d - 64) + 3⟩]
  else if d < 72 then [⟨.stem, d - 68⟩]
  else if d < 74 then [⟨.hbm, d - 72⟩, ⟨.kitty, d - 72⟩, ⟨.meld, d - 72⟩, ⟨.queueEngine, d - 72⟩, ⟨.memEnc, d - 72⟩]
  else if d = 90 then [⟨.voiceOut, 0⟩, ⟨.voiceOut, 1⟩]
  else if d = 92 then [⟨.fabric, 0⟩, ⟨.fabric, 1⟩]
  else (domainRoot d).toList

/-- Every reset domain number of R536. -/
def allDomains : List Nat := List.range 74 ++ rangeFrom 80 13

/-- PAGE_CAP.FENCE: the page is the root of its reset domain. -/
def isRoot (p : Page) : Bool := domainRoot (pageDomain p) == some p

/-- PAGE_CAP.TIMEOUT: 0 on the pages outside every reset domain but the context pages (R536), and set on the pages whose chapter
says what a command is (R200, R223, R247, R256, R345, R404, R439, R465). -/
def hasTimeout (p : Page) : Bool :=
  match p.cls with
  | .csi => true | .isp => true | .matrix => true | .callEngine => true | .stem => true | .kitty => true
  | .queueEngine => true | .context => true | _ => false

/-- PAGE_CAP.SNAPSHOT and where the block's 32 snapshot registers start (R201, R223, R260). -/
def snapshotAt (p : Page) : Option Nat :=
  match p.cls with
  | .csi => some Off.CSI_SNAP
  | .isp => some Off.ISP_SNAP
  | .matrix => some Off.TILE_SNAP
  | _ => none

/-- PAGE_CAP.EVT_TOP of a page; the table-wide events are on fabric port 0 only (R527). -/
def evtTop (p : Page) : Nat := if p.cls = .fabric ∧ p.idx ≠ 0 then 5 else classEvtTop p.cls

/-- Registers that only instance 0 of a class implements (R179, R526), and BF_LIVE of instance 1 (R159). -/
def regImplemented (p : Page) (off : Nat) : Bool :=
  match p.cls with
  | .fabric => p.idx == 0 || decide (off < 0x200)
  | .voiceOut => p.idx == 0 || decide (off < 0x120)
  | .beamformer => p.idx == 1 || off != Off.BF_LIVE
  | _ => true

/-- The row of a page's register at an offset. -/
def regRow (p : Page) (off : Nat) : Option RegRow :=
  if regImplemented p off then
    (classRows p.cls).find? fun r => decide (r.off ≤ off) && (off - r.off) % r.step == 0 && decide ((off - r.off) / r.step < r.cnt)
  else none

/-- Is a page offset in the expert range (R74)? -/
def isExpertOff (off : Nat) : Bool := decide (0x800 ≤ off) && decide (off < 0x1000)

/-- The reset value of a page's register (R74, R594), with the throttle temperature of the grade and the fused trip
temperature (R588, R589). -/
def pageReset (q : Part) (p : Page) (off : Nat) : Nat :=
  if off < 0x80 then
    if off = Off.CTRL then ofBool (isGlobal p)
    else if off = Off.FENCE_CTRL then (if isRoot p then 0x00040000 else 0)
    else if off = Off.CMD_TIMEOUT then (if hasTimeout p then 0x05F5E100 else 0)
    else 0
  else match regRow p off with
    | some r =>
      if p.cls = .power ∧ off = Off.PWR_THERM_CFG then (if q.gradeE then r.reset - 0x5A + 0x64 else r.reset) + q.thTrip % 256 * 2 ^ 24
      else r.reset
    | none => 0

/-- The value an address that the register file does not list reads as. -/
def resetVal (q : Part) (a : Nat) : Word :=
  match pageOf a with
  | some (p, off) => BitVec.ofNat 32 (pageReset q p off)
  | none => 0

end Sys2Proof.Machine
end

