-- ==== Sys2Proof/Machine/Ops.lean ====
section
/-! DEFINITION. The named operations over the register file, the events, the access path, the fault collector's records and the
time base, shared by every family. -/
namespace Sys2Proof.Machine

/-! ## The register file -/

/-- The value a register holds. -/
def reg (s : State) (a : Nat) : Word := sget (resetVal s.part a) s.regs a

/-- Set a register. -/
def setReg (a : Nat) (v : Word) (s : State) : State := { s with regs := sset (resetVal s.part a) s.regs a v }

/-- A page's register. -/
def rd (s : State) (p : Page) (off : Nat) : Word := reg s (pageBase p + off)

/-- Set a page's register. -/
def wr (p : Page) (off : Nat) (v : Word) (s : State) : State := setReg (pageBase p + off) v s

/-- Bits [lo+w-1:lo] of a page's register. -/
def fld (s : State) (p : Page) (off lo w : Nat) : Nat := fieldOf (rd s p off) lo w

/-- Replace bits [lo+w-1:lo] of a page's register. -/
def setFld (p : Page) (off lo w x : Nat) (s : State) : State := wr p off (putField (rd s p off) lo w x) s

/-- Bit b of a page's register. -/
def flag (s : State) (p : Page) (off b : Nat) : Bool := fld s p off b 1 == 1

/-- Set one bit of a page's register. -/
def setFlag (p : Page) (off b : Nat) (v : Bool) (s : State) : State := setFld p off b 1 (ofBool v) s

/-- A counter has counted in this beat (R81). -/
def noteCount (a k : Nat) (s : State) : State :=
  { s with head := { s.head with counts := sset 0 s.head.counts a (sget 0 s.head.counts a + k) } }

/-- Add to a counter, saturating at 0xFFFF_FFFF (R81). -/
def bump (p : Page) (off k : Nat) (s : State) : State :=
  noteCount (pageBase p + off) k (wr p off (BitVec.ofNat 32 (satNat 0xFFFFFFFF ((rd s p off).toNat + k))) s)

/-- Every register of a page back to its reset value, but for the offsets in `keep`. -/
def resetPage (p : Page) (keep : List Nat) (s : State) : State :=
  { s with regs := s.regs.filter fun e =>
      !(decide (pageBase p ≤ e.1) && decide (e.1 < pageBase p + 0x1000)) || keep.contains (e.1 - pageBase p) }

/-- Every counter of a page and DEAL_SKIPPED clear; what has been counted in this beat survives (R43, R81). -/
def clearCounters (p : Page) (s : State) : State :=
  (Off.DEAL_SKIPPED :: (List.range 32).map fun k => 0x80 + 4 * k).foldl (fun s off =>
    wr p off (BitVec.ofNat 32 (satNat 0xFFFFFFFF (sget 0 s.head.counts (pageBase p + off)))) s) s

/-- Does an offset lie in a run of n registers? -/
def inRun (off base n : Nat) : Bool := decide (base ≤ off) && decide (off < base + 4 * n)

/-- Hardware has set an EVT_RAW bit of a page in this beat (R87). -/
def noteSet (a b : Nat) (s : State) : State :=
  { s with head := { s.head with sets := sset 0 s.head.sets a (putAt (sget 0 s.head.sets a) b 1 1) } }

/-- Hardware sets an EVT_RAW bit (R87); bits above EVT_TOP are reserved (R76). -/
def raise (p : Page) (b : Nat) (s : State) : State :=
  if b ≤ evtTop p then noteSet (pageBase p) b (setFlag p Off.EVT_RAW b true s) else s

/-- A refused configuration write: counted in the page's counter. -/
def refuse (p : Page) (counter : Nat) (s : State) : State := bump p counter 1 s

/-! ## Pages by name -/

def pgIdentity : Page := ⟨.identity, 0⟩
def pgTT : Page := ⟨.tableTime, 0⟩
def pgPower : Page := ⟨.power, 0⟩
def pgMb : Page := ⟨.mailbox, 0⟩
def pgFc : Page := ⟨.faultCollector, 0⟩
def pgHh : Page := ⟨.handHistory, 0⟩
def pgPcie : Page := ⟨.pcie, 0⟩
def pgRing : Page := ⟨.ring, 0⟩
def pgCe : Page := ⟨.callEngine, 0⟩
def pgCtx (c : Nat) : Page := ⟨.context, c⟩
def pgMc (n : Nat) : Page := ⟨.hbm, n⟩
def pgQe (n : Nat) : Page := ⟨.queueEngine, n⟩

/-! ## Outputs and free values -/

/-- Something leaves the block. -/
def emit (o : Out) (s : State) : State := { s with out := s.out ++ [o] }

/-- The next unstated value, and the state that has consumed it. -/
def fresh (s : State) : Nat × State := ((Config.freeValue s.freeIdx).toNat, { s with freeIdx := s.freeIdx + 1 })

/-! ## Time -/

/-- Table Time: the main counter, or the always-on island's count while it keeps time (R58). -/
def tnow (s : State) : Nat := if s.tt.keeping then s.tt.kept else s.tt.now

/-- The beat number ⌊T / 64⌋ (R15, R54). -/
def beatNo (s : State) : Nat := tnow s / 64

/-- The beat pulses issued when beat number b was, told from the latest break of the row of numbers (R598): a number above the present one, or
below the first one after the break, is from before it. -/
def pulsesAt (s : State) (b : Nat) : Nat :=
  match s.tt.jump with
  | some (p, old) =>
    if beatNo s < b ∨ b + (s.tt.beats - p) < beatNo s then p - 1 - (old - b) else s.tt.beats - (beatNo s - b)
  | none => s.tt.beats - (beatNo s - b)

/-- Have ⌈ticks ÷ 64⌉ beat pulses been issued since a start (R598)? -/
def elapsed (s : State) (start ticks : Nat) : Bool := decide (start + ceilDiv ticks 64 ≤ s.tt.beats)

/-! ## Power -/

/-- Is a power domain On (R121)? -/
def domOn (s : State) (d : Nat) : Bool := s.pwr.dom.getD d 0 == 2

/-- Is the power domain of a page On? -/
def pageOn (s : State) (p : Page) : Bool := domOn s (pagePower p)

/-- The power state: 0 Fold, 1 Ante, 2 Call, 3 Raise, 4 Showdown (R135). -/
def pwrState (s : State) : Nat := fld s pgPower Off.PWR_STATE 0 3

/-! ## Functions and tenants -/

/-- The number a function has in EXPERT_BY (R83), and the requesting function in the DETAIL of an access record (R532): there the codes of
EXPERT_BY, and 0x11 for the root of trust, are the model's (DESIGN CHOICE, log 63). -/
def funcCode : Func → Nat
  | .pf => 0
  | .vf n => n
  | .mgmt => 0x10
  | .rot => 0x11

/-- The tenant a record about a function concerns (R533). -/
def funcTenant : Func → Nat
  | .pf => 0
  | .vf n => n
  | .mgmt => 0xFF
  | .rot => 0xFF

/-- Is the writer a PCIe function? -/
def isHost : Func → Bool
  | .pf => true
  | .vf _ => true
  | _ => false

/-- Does tenant n exist (R444)? -/
def tenantExists (s : State) (n : Nat) : Bool := n == 0 || (s.host.vfEnable && decide (n ≤ s.host.numVfs))

/-- Does a context exist: its STATE is not FREE (R452)? -/
def ctxExists (s : State) (c : Nat) : Bool := decide (c < 1024) && fld s (pgCtx c) Off.CTX_STATUS 0 3 != 0

/-- A context's attributes as CREATE latched them (R450). -/
def ctxOf (s : State) (c : Nat) : CtxSt := sget ⟨0, 0, none, 0⟩ s.host.ctxs c

/-- The tenant and the key slot of a context (R450). -/
def ctxTenant (s : State) (c : Nat) : Nat := fieldOf (ctxOf s c).cfg 0 4
def ctxKey (s : State) (c : Nat) : Nat := fieldOf (ctxOf s c).cfg 16 8

/-- The TDI state of a tenant (R482, R493): 0 CONFIG_UNLOCKED, 1 CONFIG_LOCKED, 2 RUN, 3 ERROR. -/
def tdiState (s : State) (t : Nat) : Nat := if t = 0 then 0 else fld s pgMb Off.MB_TDI_STATE (2 * t) 2
def tdiHeld (s : State) (t : Nat) : Bool := tdiState s t == 1 || tdiState s t == 2

/-- A PF write or command refused because a TDI is locked (R483). -/
def tdiRefuse (s : State) : State := bump pgMb Off.MB_CNT_TDI_REFUSED 1 s

/-- Is a function covered by IDE (R475)? -/
def covered (s : State) (fn : Nat) : Bool := flag s pgMb Off.MB_IDE_COVER fn

/-- May a function's host accesses be sent now (R448, R475, R484)? -/
def hostOpen (s : State) (fn : Nat) : Bool :=
  s.boot.phase == .up && s.host.linkUp && decide (2 ≤ pwrState s) && tenantExists s fn && !s.host.d3.contains fn &&
    covered s fn && tdiState s fn != 3

/-- An access of host memory for a function leaves in an IDE stream, or waits behind the function's earlier ones until they may be sent
(R21, R475). -/
def hostSend (fn : Nat) (o : Out) (s : State) : State :=
  if hostOpen s fn && !(s.host.sends.any fun e => e.1 == fn) then emit o s
  else { s with host := { s.host with sends := s.host.sends ++ [(fn, o)] } }

/-! ## Fixed-deal mode (R491, R492) -/

def fdOn (s : State) : Bool := flag s pgMb Off.MB_FD_CTRL 0

/-- Is a C2 or C3 request of a tenant granted in this beat (R491)? -/
def fdGrants (s : State) (t : Nat) : Bool :=
  let n := fld s pgMb Off.MB_FD_CTRL 4 12
  let b := beatNo s
  let frame := ceilDiv (s.sec.fdBeat + 1) (16 * n) * (16 * n)
  let k := b / n % 16
  !fdOn s || (decide (frame ≤ b) && decide (b % n + fld s pgMb Off.MB_FD_CTRL 16 12 < n) &&
    fld s pgMb (Off.MB_FD_SLICE_MAP + 4 * (k / 8)) (4 * (k % 8)) 4 == t)

/-- The waiting accesses of functions that may send now leave; those of functions that are gone are dropped. -/
def hostSends (s : State) : State :=
  let go (e : Nat × Out) : Bool := hostOpen s e.1 && fdGrants s e.1
  let rest := s.host.sends.filter fun e => tenantExists s e.1 && !go e
  (s.host.sends.filter go).foldl (fun s e => emit e.2 s)
    { s with host := { s.host with sends := rest } }

/-! ## Requests in fixed-deal mode (R57, R491, R492) -/

/-- Does a request of a context or of a tenant's tag wait for a slice of the tenant (R57, R491)? -/
def sliced (s : State) (who : Requester) : Bool :=
  match who with
  | .ctx c => !fdGrants s (ctxTenant s c)
  | .tag t => !fdGrants s t
  | _ => false

/-- Does the context's tenant own a tile, or a stem engine, in fixed-deal mode (R492)? -/
def fdOwnsTile (s : State) (t c : Nat) : Bool :=
  !fdOn s || fld s pgMb (Off.MB_FD_TILES + 4 * (t / 8)) (4 * (t % 8)) 4 == ctxTenant s c
def fdOwnsStem (s : State) (d c : Nat) : Bool := !fdOn s || fld s pgMb Off.MB_FD_STEM (4 * d) 4 == ctxTenant s c

/-- A host request waits for the link (R137). -/
def hold (r : HostReq) (s : State) : State := { s with host := { s.host with waiting := s.host.waiting ++ [r] } }

/-- What an anti-rollback counter reads: its consecutive burnt fuses from fuse 0 (R109). -/
def arbOf (q : Part) (k : Nat) : Nat := ((List.range 64).find? fun i => !bitAt (q.arb.getD k 0) i).getD 64

/-- Does any context exist (R452)? -/
def anyContext (s : State) : Bool := !s.host.ctxs.isEmpty

/-! ## The fault collector's records -/

/-- The fault collector takes one record (R531, R534): it gets the next SEQ, enters the history of 64, and enters the buffer of
64; a full buffer loses the oldest CORRECTED or CONTAINED record to one of SEVERITY FENCED or above, else the new record. -/
def formRec (r : FaultRec) (s : State) : State :=
  let r := { r with tt := tnow s, seq := s.fc.seq }
  let nextSeq := if s.fc.seq + 1 < 2 ^ 32 then s.fc.seq + 1 else 1
  let hist := (r :: s.fc.history).take 64
  let full := decide (64 ≤ s.fc.buffer.length)
  let weak := s.fc.buffer.find? fun x => decide (x.severity ≤ 1)
  let buf :=
    if !full then s.fc.buffer ++ [r]
    else if decide (2 ≤ r.severity) && weak.isSome then
      (s.fc.buffer.eraseP fun x => decide (x.severity ≤ 1)) ++ [r]
    else s.fc.buffer
  let s := { s with fc := { s.fc with seq := nextSeq, history := hist, buffer := buf } }
  let s := s |> bump pgFc Off.FC_CNT_RECORDS 1 |> raise pgFc Evt.FC_RECORD
  if full then s |> bump pgFc Off.FC_CNT_LOST 1 |> raise pgFc Evt.FC_LOST else s

/-- A record with the fields most sources share. -/
def mkRec (source code severity domain tenant island context addr detail : Nat) : FaultRec :=
  { tt := 0, seq := 0, source, code, severity, domain, tenant, island, context, addr, detail }

/-- An ignored or discarded access (R90): counted and recorded with its kind, function and full address. -/
def accessError (kind : Nat) (w : Func) (a : Nat) (s : State) : State :=
  let dom := match pageOf a with
    | some (p, _) => pageDomain p
    | none => 0xFF
  let isl := match pageOf a with
    | some (p, _) => pageIsland p
    | none => 72
  s |> bump pgFc Off.FC_CNT_ACCESS 1
    |> formRec (mkRec 1 kind 1 dom (funcTenant w) isl 0xFFFF a (funcCode w))

/-- A corrected error's record: only with CORR_RECORDS, one for each source in each 10^6-tick window; the rest are counted (R530). -/
def formCorrected (r : FaultRec) (s : State) : State :=
  let win := tnow s / 1000000
  let seen := s.fc.corrWindow.find? (fun e => e.1 == r.source)
  if flag s pgFc Off.FC_CFG 1 && (seen.map (·.2)) != some win then
    { s with fc := { s.fc with corrWindow := (s.fc.corrWindow.filter fun e => e.1 != r.source) ++ [(r.source, win)] } }
      |> formRec { r with severity := 0 }
  else bump pgFc Off.FC_CNT_CORR_SUPPRESSED 1 s

/-- The device is in the fatal state of R554. -/
def deviceFatal (s : State) : Bool := flag s pgFc Off.FC_STATUS 0

/-! ## Fences, seen from the pages -/

/-- The fence phase of a reset domain (R538). -/
def phaseOf (s : State) (d : Nat) : Nat :=
  match domainRoot d with
  | some r => fld s r Off.FENCE_STATUS 0 3
  | none => 0

/-- Is the page's reset domain in a fence phase other than 0? -/
def fenced (s : State) (p : Page) : Bool := phaseOf s (pageDomain p) != 0

/-- The network domain of the cascade that a domain's fence belongs to, or the domain itself (R537). -/
def fenceHead (s : State) (d : Nat) : Nat := ((s.fc.fences.find? fun e => e.1 == d).bind (·.2.cascade)).getD d

/-- Does the domain admit work of a context: open, or held with FC_REPLAY naming it, or one fenced with it, and the context (R543)? -/
def admits (s : State) (d ctx : Nat) : Bool :=
  phaseOf s d == 0 ||
    (phaseOf s d == 5 && flag s pgFc Off.FC_REPLAY 31 && fld s pgFc Off.FC_REPLAY 0 10 == ctx &&
      fenceHead s (fld s pgFc Off.FC_REPLAY 16 8) == fenceHead s d)

/-! ## Commands of a page (R80) -/

/-- A page's running commands. -/
def cmdsOf (s : State) (p : Page) : List CmdSt := sget [] s.head.cmds (pageBase p)

/-- STATUS.BUSY: the page holds a command accepted and not completed (R78). -/
def busy (s : State) (p : Page) : Bool := !(cmdsOf s p).isEmpty

/-- A page accepts a command, with the timeout in force now (R80). -/
def startCmd (p : Page) (id : Nat) (s : State) : State :=
  let c : CmdSt := { id, accept := s.tt.beats, ticks := (rd s p Off.CMD_TIMEOUT).toNat }
  { s with head := { s.head with cmds := sset [] s.head.cmds (pageBase p) (cmdsOf s p ++ [c]) } }

/-- A page completes or drops a command. -/
def endCmd (p : Page) (id : Nat) (s : State) : State :=
  { s with head := { s.head with cmds := sset [] s.head.cmds (pageBase p) ((cmdsOf s p).filter fun c => c.id != id) } }

/-- A page drops every command. -/
def endAllCmds (p : Page) (s : State) : State :=
  { s with head := { s.head with cmds := sset [] s.head.cmds (pageBase p) [] } }

/-! ## Signals (R87–R89, R445) -/

/-- The number of MSI-X vectors of a function (R88). -/
def vectorsOf (fn : Nat) : Nat := if fn = 0 then 2048 else 64

/-- Raise a vector of a function (R445): lost while MSI-X Enable is 0, pending while masked, else sent. -/
def raiseVector (fn v : Nat) (s : State) : State :=
  if !s.host.msixEn.contains fn then s
  else if s.host.fnMask.contains fn || !s.host.unmasked.contains (fn * 4096 + v) then
    if s.host.pba.contains (fn * 4096 + v) then s
    else { s with host := { s.host with pba := s.host.pba ++ [fn * 4096 + v] } }
  else emit (.msix fn v) s

/-- The signal a page sends (R88, R89): to every destination EVT_ROUTE selects. Both need the IOD0 core. -/
def signalPage (base : Nat) (s : State) : State :=
  let route := (reg s (base + Off.EVT_ROUTE)).toNat
  if !domOn s 3 then s
  else
    let s := if bitAt route 20 then raiseVector (bitsAt route 16 4) (bitsAt route 0 11) s else s
    if bitAt route 21 then emit (.mgmtIrq (bitsAt route 0 8)) s else s

/-- EVT_RAW AND EVT_EN of the page at a base address. -/
def maskAt (s : State) (base : Nat) : Word := reg s (base + Off.EVT_RAW) &&& reg s (base + Off.EVT_EN)

/-- The bases of the pages that hold an event: the EVT_RAW registers the register file lists. -/
def eventPages (s : State) : List Nat :=
  (s.regs.filter fun e => (pageOf e.1).any fun p => p.2 == Off.EVT_RAW).map fun e => e.1 - Off.EVT_RAW

/-- The end of a beat: each page with a non-zero mask signals when the mask was zero or EVT_RAW or EVT_EN was written (R89). -/
def endOfBeatSignals (s : State) : State :=
  let live := (eventPages s).filter fun b => maskAt s b != 0
  let due := live.filter fun b => !s.head.mPrev.contains b || s.head.written.contains b
  let s := due.foldl (fun s b => signalPage b s) s
  { s with head := { s.head with mPrev := live, written := [], mgmt := [] } }

/-- Note a write to EVT_RAW or EVT_EN of a page in this beat (R89). -/
def noteWritten (p : Page) (s : State) : State :=
  if s.head.written.contains (pageBase p) then s
  else { s with head := { s.head with written := s.head.written ++ [pageBase p] } }

end Sys2Proof.Machine
end

