-- ==== Sys2Proof/Machine/Regions.lean ====
section
/-! DEFINITION. The region table as its entries stand (R372, R374, R406), which the recorder's ring and the memory side read. -/
namespace Sys2Proof.Machine

def pgMemenc (n : Nat) : Page := ⟨.memEnc, n⟩

/-! ## Addresses (R372) -/

/-- The end of device memory, and of the part open to regions. -/
def memEnd (s : State) : Nat := 0x400000000 * s.part.stackCount
def regionEnd (s : State) : Nat := memEnd s - 0x1000000 * s.part.stackCount

/-! ## Entries (R374, R406) -/

/-- A region entry. -/
structure Region where
  base : Nat
  size : Nat
  kind : Nat
  tenant : Nat
  slot : Nat
  writable : Bool
  codecs : List Nat
  key : Nat
  locked : Bool
deriving DecidableEq, Repr

def regionOfWords (b z a : Word) : Region :=
  { base := fieldOf b 0 14, size := fieldOf z 0 15, kind := fieldOf a 0 3, tenant := fieldOf a 3 4, slot := fieldOf a 7 4
    writable := bitOf a 11, codecs := ([1, 2, 3] : List Nat).filter fun n => bitOf a (11 + n), key := fieldOf a 16 8
    locked := bitOf a 31 }

def regionAt (s : State) (k : Nat) : Region :=
  regionOfWords (rd s (pgMemenc 0) (Off.MEMENC_REGION_BASE + 16 * k)) (rd s (pgMemenc 0) (Off.MEMENC_REGION_SIZE + 16 * k))
    (rd s (pgMemenc 0) (Off.MEMENC_REGION_ATTR + 16 * k))

def Region.valid (r : Region) : Bool := decide (1 ≤ r.size) && decide (1 ≤ r.kind) && decide (r.kind ≤ 4)
def Region.covers (r : Region) (a : Nat) : Bool :=
  r.valid && decide (r.base * 0x200000 ≤ a) && decide (a < (r.base + r.size) * 0x200000)

/-- The region that holds a device address. -/
def regionOf (s : State) (a : Nat) : Option Region := ((List.range 64).map (regionAt s)).find? fun r => r.covers a

end Sys2Proof.Machine
end

