-- ==== Sys2Proof/Machine/Record.lean ====
section
/-! DEFINITION. The hand-history recorder's ring (R557–R562), over device memory or PF host memory. -/
namespace Sys2Proof.Machine

/-! ## Device memory, one byte at a time -/

/-- A byte of device memory. A byte nothing has written reads as zero (DESIGN CHOICE, log 4). -/
def memByte (s : State) (a : Nat) : Byte := sget 0 s.hbm a

/-- n bytes of device memory. -/
def memRead (s : State) (a n : Nat) : List Byte := (List.range n).map fun i => memByte s (a + i)

/-- Bytes into a memory image. -/
def cellsWrite : List Byte → Nat → List Host.Cell → List Host.Cell
  | [], _, m => m
  | b :: bs, a, m => cellsWrite bs (a + 1) (sset 0 m a b)

/-- Write bytes to device memory. -/
def memWrite (a : Nat) (bs : List Byte) (s : State) : State := { s with hbm := cellsWrite bs a s.hbm }

/-! ## Capture -/

/-- HH_CTRL.MODE: 0 off, 1 record, 2 replay. -/
def hhMode (s : State) : Nat := fld s pgHh Off.HH_CTRL 0 2

/-- Bytes a record takes in the ring (R559). -/
def histSize (r : HistRec) : Nat := 16 + ceilDiv r.payload.length 16 * 16

/-- Bytes in an island's capture buffer (R562). -/
def captured (s : State) (island : Nat) : Nat :=
  (s.hh.beatBuf.filter fun r => r.island == island).foldl (fun n r => n + histSize r) 0

/-- An input is lost (R562). -/
def hhLose (s : State) : State :=
  { s with hh := { s.hh with lost := s.hh.lost + 1, lostTt := if s.hh.lost = 0 then 64 * beatNo s else s.hh.lostTt } }
    |> bump pgHh Off.HH_CNT_LOST 1

/-- The place of a record: by its beat, then START first (R565), then by island (R560). -/
def histPlace (r : HistRec) : Nat := r.tt * 512 + (if r.kind = 1 then 0 else r.island + 1)

/-- Capture one record into its island's buffer of 16 KiB; records of a beat stand in island order, then commit order (R560). -/
def hhCapture1 (r : HistRec) (s : State) : State :=
  if 16384 < captured s r.island + histSize r then hhLose s
  else { s with hh := { s.hh with beatBuf := insertBy histPlace r s.hh.beatBuf } }

/-- Split a long item into records of at most 4,112 payload bytes: CONT on all but the first, LAST on the final one (R559). -/
def hhSplit (tt kind flags island unit : Nat) : Nat → Bool → List Byte → List HistRec
  | 0, _, _ => []
  | n + 1, cont, bs =>
    if bs.length ≤ 4112 then [⟨tt, kind, flags + ofBool cont + (if cont then 4 else 0), island, unit, bs⟩]
    else ⟨tt, kind, flags + ofBool cont, island, unit, bs.take 4112⟩ :: hhSplit tt kind flags island unit n true (bs.drop 4112)

/-- Capture an input with FLAGS and UNIT, while MODE is RECORD and the IOD0 core is on (R557). -/
def hhInput (kind flags island unit : Nat) (payload : List Byte) (s : State) : State :=
  if hhMode s == 1 && domOn s 3 then
    (hhSplit (64 * beatNo s) kind flags island unit (payload.length + 1) false payload).foldl (fun s r => hhCapture1 r s) s
  else s

/-- Capture an input (R557). -/
def hhCapture (kind island unit : Nat) (payload : List Byte) (s : State) : State := hhInput kind 0 island unit payload s

/-! ## The ring -/

/-- A 64-bit value in a LO/HI register pair. -/
def rd64 (s : State) (p : Page) (lo hi : Nat) : Nat := (rd s p lo).toNat + 2 ^ 32 * (rd s p hi).toNat

/-- Set a LO/HI register pair. -/
def wr64 (p : Page) (lo hi v : Nat) (s : State) : State :=
  s |> wr p lo (BitVec.ofNat 32 v) |> wr p hi (BitVec.ofNat 32 (v / 2 ^ 32))

/-- Size of the hand-history ring in bytes. -/
def hhRing (s : State) : Nat := 2 ^ fld s pgHh Off.HH_CFG 8 6
def hhTail (s : State) : Nat := rd64 s pgHh Off.HH_TAIL_LO Off.HH_TAIL_HI
def hhHead (s : State) : Nat := rd64 s pgHh Off.HH_HEAD_LO Off.HH_HEAD_HI

/-- The bytes of a record (R559). -/
def histBytes (r : HistRec) (seq : Nat) : List Byte :=
  leBytes 8 r.tt ++ leBytes 1 r.kind ++ leBytes 1 r.flags ++ leBytes 2 r.payload.length ++ leBytes 1 r.island ++
    leBytes 1 r.unit ++ leBytes 2 seq ++ r.payload ++ List.replicate (histSize r - 16 - r.payload.length) 0

/-- May the recorder reach bytes of a ring in device memory: they lie in a TENANT region of tenant 0 with WRITABLE at 1 (R372, R375, R561)? -/
def ringOpen (s : State) (a n : Nat) : Bool :=
  [a, a + n - 1].all fun x => (regionOf s x).any fun r => r.kind == 4 && r.tenant == 0 && r.writable

/-- A request of the recorder that the region table refuses is counted where it is refused (R375; log 55). -/
def ringDenied (s : State) : State := bump (pgMemenc 0) Off.MEMENC_CNT_DENIED 1 s

/-- Write bytes to the ring at TAIL: device memory or PF host memory (R561), counting whole KiB. -/
def ringBytes (bs : List Byte) (s : State) : State :=
  let at_ := rd64 s pgHh Off.HH_BASE_LO Off.HH_BASE_HI + hhTail s % hhRing s
  let s := if flag s pgHh Off.HH_CFG 0 then emit (.hostWrite 0 at_ bs) s
    else if ringOpen s at_ bs.length then memWrite at_ bs s else ringDenied s
  let total := s.hh.kibRem + bs.length
  let s := wr64 pgHh Off.HH_TAIL_LO Off.HH_TAIL_HI (hhTail s + bs.length) s
  { s with hh := { s.hh with kibRem := total % 1024, sizes := s.hh.sizes ++ [bs.length] } }
    |> bump pgHh Off.HH_CNT_KIB (total / 1024)

/-- The flight recorder advances HEAD past whole records until `need` bytes are free (R561). -/
def hhMakeRoom (need : Nat) : List Nat → Nat → Nat → List Nat × Nat
  | [], _, head => ([], head)
  | z :: zs, free, head => if need ≤ free then (z :: zs, head) else hhMakeRoom need zs (free + z) (head + z)

/-- Write one record, or lose it (R561, R562). -/
def hhPut (r : HistRec) (s : State) : State :=
  let size := histSize r
  let rest := hhRing s - hhTail s % hhRing s
  let stretch := if rest < size then rest else 0
  let free := hhRing s - (hhTail s - hhHead s)
  let fits := decide (size + stretch ≤ free)
  if !fits && !flag s pgHh Off.HH_CFG 1 then hhLose s
  else
    let s :=
      if fits then s
      else
        let m := hhMakeRoom (size + stretch) s.hh.sizes free (hhHead s)
        { s with hh := { s.hh with sizes := m.1 } } |> wr64 pgHh Off.HH_HEAD_LO Off.HH_HEAD_HI m.2
    let s := if stretch = 0 then s else ringBytes (List.replicate stretch 0) s
    let s :=
      if r.kind = 1 then
        wr64 pgHh Off.HH_LAST_CKPT_LO Off.HH_LAST_CKPT_HI (hhTail s) { s with hh := { s.hh with seq := 0 } }
      else s
    let s := ringBytes (histBytes r s.hh.seq) s
    { s with hh := { s.hh with seq := s.hh.seq + 1 } } |> bump pgHh Off.HH_CNT_RECORDS 1

/-- A GAP record: lost inputs, and the time of the first (R559, R562); COMPLETE falls. -/
def hhGap (lost tt : Nat) (s : State) : State :=
  hhPut ⟨64 * beatNo s, 4, 0, 72, 0, leBytes 4 lost ++ leBytes 4 0 ++ leBytes 8 tt⟩ s
    |> raise pgHh Evt.HH_GAP |> setFlag pgHh Off.HH_STATUS 0 false |> bump pgHh Off.HH_CNT_GAPS 1

/-- Bytes that records of given sizes take from a byte count on, stretches included (R561). -/
def hhTaken (ring : Nat) : List Nat → Nat → Nat
  | [], _ => 0
  | z :: zs, pos =>
    let rest := ring - pos % ring
    let n := if rest < z then rest + z else z
    n + hhTaken ring zs (pos + n)

/-- Write one record, preceded by a GAP when inputs were lost before it; under stop neither is written where they do not both fit (R562). -/
def hhWrite (r : HistRec) (s : State) : State :=
  if s.hh.lost = 0 then hhPut r s
  else if !flag s pgHh Off.HH_CFG 1 && decide (hhRing s - (hhTail s - hhHead s) < hhTaken (hhRing s) [32, histSize r] (hhTail s)) then hhLose s
  else
    let t := hhGap s.hh.lost s.hh.lostTt s
    hhPut r { t with hh := { t.hh with lost := 0 } }

/-- The captures go to the ring in island order (R560). Into host memory they go while the PF may send (R475); until then they stay in the
capture buffers. -/
def hhFlush (s : State) : State :=
  if flag s pgHh Off.HH_CFG 0 && !hostOpen s 0 then s
  else s.hh.beatBuf.foldl (fun s r => hhWrite r s) { s with hh := { s.hh with beatBuf := [] } }

end Sys2Proof.Machine
end

