-- ==== Sys2Proof/Machine/Access.lean ====
section
/-! DEFINITION. The access path: what becomes of a register write, by who writes, what page it names and how that page stands. -/
namespace Sys2Proof.Machine

/-! ## The access path -/

/-- What becomes of a write: it is applied, discarded and recorded with a kind of R90, completed with Unsupported Request, it waits (on a
link in L1.2, or for an island that has just taken the beat number), its sender has no power to send it, or the page is read-only to
its writer and ignores it. -/
inductive Reach where
  | ok
  | error (kind : Nat)
  | unsupported
  | waits
  | unsent
  | ignored
deriving DecidableEq, Repr

/-- Does a VF's context page write reach a page: the context page of one of its tenant's contexts (R70, R71)? -/
def vfReaches (s : State) (n : Nat) (p : Page) : Bool := p.cls == .context && ctxExists s p.idx && ctxTenant s p.idx == n

/-- Is a page invisible to a function: a VF sees the identity page and its tenant's context pages (R70, R71), and only the PF and the
management cores reach the other pages (R65, R71, R135, R150, R180, R203, R226, R318, R402, R439, R524, R555, R571). The root of trust
writes the region table (R374). -/
def hiddenFrom (s : State) (w : Func) (p : Page) : Bool :=
  match w with
  | .vf n => p.cls != .identity && !vfReaches s n p
  | .rot => p.cls != .memEnc
  | _ => false

/-- MB_READY.BOOT_RUNNING. -/
def bootRunning (s : State) : Bool := flag s pgMb Off.MB_READY 2

/-- The writes that a fenced domain's pages still take (R539): EVT_RAW, EVT_EN, EVT_ROUTE, FENCE_CTRL and CMD_TIMEOUT. CTRL
with SOFT_RESET in phase 5 is told apart by the CTRL write itself. -/
def fenceAdmits (off : Nat) : Bool :=
  [Off.EVT_RAW, Off.EVT_EN, Off.EVT_ROUTE, Off.FENCE_CTRL, Off.CMD_TIMEOUT].contains off

/-- The function number of a PCIe function. -/
def funcNo : Func → Nat
  | .vf n => n
  | _ => 0

/-- May a PCIe function make a memory request now (R93, R137, R444, R448, R484)? -/
def hostLink (s : State) (w : Func) : Reach :=
  if s.boot.phase ≠ .up then .unsupported
  else if pwrState s ≤ 1 then .waits
  else if !s.host.linkUp then .unsupported
  else if !tenantExists s (funcNo w) || !s.host.mse.contains (funcNo w) || s.host.d3.contains (funcNo w) ||
      tdiState s (funcNo w) == 3 then .unsupported
  else .ok

/-- May a writer send an access now: a function by its link, the management cores and the root of trust while their domain is On (R122)? -/
def senderLink (s : State) (w : Func) : Reach :=
  match w with
  | .mgmt => if domOn s 3 then .ok else .unsent
  | .rot => if domOn s 2 then .ok else .unsent
  | _ => hostLink s w

/-- Have the islands of a power domain held the full beat number for one whole beat, `ago` beat pulses before now (R32)? -/
def heldWhole (s : State) (d ago : Nat) : Bool :=
  (s.tt.joined.find? fun e => e.1 == d).all fun e => decide (e.2 + 2 + ago ≤ s.tt.beats)

/-- Does a page hold a write back to its expert range: the range is locked, and the offset one that R594 names (R12, R82)? -/
def expertBars (s : State) (p : Page) (off : Nat) : Bool :=
  isExpertOff off && classExpert p.cls && (regRow p off).isSome && !flag s p Off.CTRL 2

/-- Is a page read-only to a function: the identity page to a VF (R4, R70)? -/
def readOnlyTo (w : Func) (p : Page) : Bool :=
  match w with
  | .vf _ => p.cls == .identity
  | _ => false

/-- What becomes of a write of a function to a page's register (R4, R8, R32, R67, R71, R82, R91, R94, R539). -/
def reach (s : State) (w : Func) (p : Page) (off : Nat) : Reach :=
  let link := senderLink s w
  if link ≠ .ok then link
  else if !pagePresent s.part p || (!bootRunning s && !isGlobal p) then .error 0x2
  else if hiddenFrom s w p then .error 0x2
  else if readOnlyTo w p then .ignored
  else if !(if keeperReg p off then domOn s 0 else pageOn s p) then .error 0x7
  else if !heldWhole s (pagePower p) 0 then .waits
  else if fenced s p && !fenceAdmits off && off ≠ Off.CTRL then .error 0xD
  else if expertBars s p off then .error 0x3
  else .ok

/-- Does a page see the write, whether it takes it or not: only then is it an input that hand history records (R557)? -/
def seen (r : Reach) : Bool := r == .ok || r == .error 0xD || r == .error 0x3

/-- The island a writer sends from (R73): the endpoint's, or the management cores'. -/
def writerIsland : Func → Nat
  | .mgmt => 78
  | .rot => 85
  | _ => 72

/-- A REG_WRITE record (R557, R559), of every write but those to the hand-history page and to FC_RING_HEAD. -/
def recordWrite (w : Func) (p : Page) (off : Nat) (v : Word) (s : State) : State :=
  if p.cls = .handHistory ∨ (p.cls = .faultCollector ∧ off = Off.FC_RING_HEAD) then s
  else hhCapture 0x10 (pageIsland p) 0
    (leBytes 4 (pageBase p + off) ++ leBytes 4 v.toNat ++ leBytes 1 (funcCode w) ++ leBytes 7 0) s

/-- In replay, is a message of islands 72 and 78 to another island discarded (R569)? -/
def suppressed (s : State) (w : Func) (p : Page) : Bool :=
  hhMode s == 2 && w != .rot && pageIsland p != writerIsland w &&
    !(p.cls == .handHistory || p.cls == .mailbox || p.cls == .faultCollector)

/-- The bits of a register that a plain write replaces; none where a write of it is a request. -/
def standBits (p : Page) (off : Nat) : Word :=
  if off < 0x80 then
    (if [Off.EVT_EN, Off.EVT_ROUTE, Off.CMD_TIMEOUT, Off.DEAL_AT_LO, Off.DEAL_AT_HI].contains off then 0xFFFFFFFF else 0)
  else BitVec.ofNat 32 ((regRow p off).map (·.rw) |>.getD 0)

/-- An admitted write takes effect. A write of the management cores is applied after the endpoint's writes of the same beat to the same
register, so its value stands over one that comes later in the beat (R73). -/
def applied (w : Func) (p : Page) (off : Nat) (k : State → State) (s : State) : State :=
  let a := pageBase p + off
  if w = .mgmt then
    let t := k s
    if t.head.mgmt.contains a then t else { t with head := { t.head with mgmt := t.head.mgmt ++ [a] } }
  else if isHost w && s.head.mgmt.contains a then
    let m := standBits p off
    let t := k s
    wr p off ((rd t p off &&& ~~~ m) ||| (rd s p off &&& m)) t
  else k s

/-- Does an endpoint's write come after one of the management cores to the same register in the same beat, where the order of R73 cannot be
made good by the value that stands: the register's writes are requests? It then commits in the next beat (log 9). -/
def outOfTurn (s : State) (w : Func) (p : Page) (off : Nat) : Bool :=
  isHost w && s.head.mgmt.contains (pageBase p + off) && standBits p off == 0

/-- A write of v to a page's register: k is applied when the write is admitted; otherwise it is discarded as `reach` says, or waits for the
link (R137) or the next beat, with what host memory holds at a scatter list. -/
def accessWith (list : List Byte) (w : Func) (p : Page) (off : Nat) (v : Word) (k : State → State) (s : State) : State :=
  let r := if reach s w p off = .ok ∧ outOfTurn s w p off then .waits else reach s w p off
  if seen r && suppressed s w p then bump pgHh Off.HH_CNT_SUPPRESSED 1 s
  else
    let s := if seen r then recordWrite w p off v s else s
    match r with
    | .ok => applied w p off k s
    | .error kind => accessError kind w (pageBase p + off) s
    | .unsupported => emit (.unsupported w) s
    | .waits => hold (.page w p off v list) s
    | .unsent => s
    | .ignored => s

/-- A write of v to a page's register, as `accessWith`. -/
def access (w : Func) (p : Page) (off : Nat) (v : Word) (k : State → State) (s : State) : State := accessWith [] w p off v k s

/-- The value a read answers, and the state after: 0 from an absent or powered-off page (R67, R91), nothing while the function
may make no request; else what k gives. -/
def readAccess (w : Func) (p : Page) (off : Nat) (k : State → Nat × State) (s : State) : State :=
  match senderLink s w with
  | .unsupported => emit (.unsupported w) s
  | .waits => hold (.read w p off) s
  | .unsent => s
  | _ =>
    if !pagePresent s.part p || hiddenFrom s w p || (!bootRunning s && !isGlobal p) ||
        !(if keeperReg p off then domOn s 0 else pageOn s p) then emit (.readData w (pageBase p + off) 0) s
    else if !heldWhole s (pagePower p) 0 then hold (.read w p off) s
    else
      let r := k s
      emit (.readData w (pageBase p + off) r.1) r.2

/-- Apply k unless a VF writes: the VF of a context page writes CTRL, EVT_RAW, EVT_EN and EVT_ROUTE of the head only (R455). -/
def unlessVf (w : Func) (k : State → State) (s : State) : State :=
  match w with
  | .vf _ => s
  | _ => k s

/-- A write that replaces the RW bits of a register and clears its W1C bits (R11). -/
def plainWrite (p : Page) (off : Nat) (v : Word) (s : State) : State :=
  match regRow p off with
  | none => s
  | some r =>
    let old := rd s p off
    let rw : Word := BitVec.ofNat 32 r.rw
    let w1c : Word := BitVec.ofNat 32 r.w1c
    wr p off (((old &&& ~~~ rw) ||| (v &&& rw)) &&& ~~~ (v &&& w1c)) s

end Sys2Proof.Machine
end

