-- ==== Sys2Proof/Machine/TableTime.lean ====
section
/-! DEFINITION. Table Time: crossings between islands, the RTC count of Ante and Fold, loads, steps and rate adjustment
(R30–R66, R598). The beat itself is in Beat.lean. -/
namespace Sys2Proof.Machine

/-! ## Crossings (R35–R42) -/

/-- Is n an island number of R34? -/
def islandUsed (n : Nat) : Bool :=
  decide (n < 70) || (decide (72 ≤ n) && decide (n < 80)) || (decide (80 ≤ n) && decide (n < 83)) || n == 84 || n == 85

/-- The die of an island: CD0–CD3 are 0–3, MD0 and MD1 4 and 5, IOD0 and IOD1 6 and 7 (R34). -/
def islandDie (n : Nat) : Nat :=
  if n < 64 then n / 16 else if n < 68 then n - 64 else if n < 70 then n - 64
  else if n = 80 ∨ n = 81 ∨ n = 82 then 7 else 6

/-- Where a die of the route grid stands: the compute die that traffic from or to it passes, as column (0 west, 1 east) and row (0 north,
1 south); a memory-side die adjoins both rows of its column (R18). -/
def dieCol (d : Nat) : Nat := if d < 4 then d % 2 else if d < 6 then d - 4 else d - 6
def dieRow (d : Nat) : Option Nat := if d < 4 then some (d / 2) else if d < 6 then none else some (d - 6)

/-- The dies that a transfer from die a enters on its way to die b, b the last (R19): east–west first, then north–south, then onto the
memory-side or I/O die. Traffic from a memory-side die starts in the row of its target, the northern one where the target adjoins both
(DEDUCED, log 58). -/
def dieRoute (a b : Nat) : List Nat :=
  if a = b then []
  else
    let row := (dieRow a).getD ((dieRow b).getD 0)
    let start := 2 * row + dieCol a
    let across := 2 * row + dieCol b
    let down := 2 * (dieRow b).getD row + dieCol b
    ((([start, across, down].foldl (fun l d => if l.getLast? = some d then l else l ++ [d]) ([] : List Nat)).dropWhile (· == a)) ++
      (if b < 4 then [] else [b]))

/-- The links of a route, as pairs of dies (R18, R19). -/
def dieLinks (a b : Nat) : List (Nat × Nat) := (a :: dieRoute a b).zip (dieRoute a b)

/-- The beats from the send beat of a message to its commit (R20, R35, R251): 2 into its die's network from a tile and 2 out of it into a
tile, 4 for each die link of the route, and 2 between other islands of a die; each router island stamps the copy it forwards with the
beat in which it committed the message. -/
def crossingBeats (src dst : Nat) : Nat :=
  let tile (n : Nat) : Nat := if n < 64 then 2 else 0
  Nat.max 2 (tile src + 4 * (dieRoute (islandDie src) (islandDie dst)).length + tile dst)

/-- The full send beat of an 8-bit stamp: the latest beat at or before the present one with those low bits (R39). In the first beat after
a forward step every message that commits was sent before the step, so it is read against the beats before it (R63). -/
def sendBeat (s : State) (stamp : Nat) : Nat :=
  let b := if s.tt.firstDue < beatNo s then s.tt.firstDue - 1 else beatNo s
  let d := (b % 256 + 256 - stamp % 256) % 256
  b - d

/-- Does the relax mask in force relax an island (R40)? -/
def relaxed (s : State) (island : Nat) : Bool := bitAt s.tt.relax island

/-- Apply a message at its receiver, in its place (R37, R63). -/
def commitMsg (c : Commit) (s : State) : State := { s with tt := { s.tt with commits := insertBy Commit.order c s.tt.commits } }

/-- The place of messages applied on arrival or after everything due in the beat (R38, R40). -/
def afterAllDue : Nat := 2 ^ 80

/-- The place of a late message: after everything due, in the order of the senders and of their send beats (R37, R38). -/
def lateOrder (src sent : Nat) : Nat := afterAllDue + src * 2 ^ 64 + sent

/-- The power domain of an island (R34, R120). -/
def islandPower (n : Nat) : Nat :=
  if n < 64 then 7 + n / 16 else if n < 68 then n - 57 else if n < 70 then n - 63
  else if n = 80 ∨ n = 81 ∨ n = 82 then 4 else if n = 84 then 1 else if n = 85 then 2 else 3

/-- Is an island powered, and did it hold the full beat number for one whole beat when `ago` beats fewer had been issued (R32)? -/
def holdsNumber (s : State) (n ago : Nat) : Bool := domOn s (islandPower n) && heldWhole s (islandPower n) ago

/-- The beat pulses issued since beat number b began (R63, R598). -/
def pulsesSince (s : State) (b : Nat) : Nat := s.tt.beats - pulsesAt s b

/-- The edge of a compute die at which a neighbour lies: 0 north, 1 east, 2 south, 3 west (R18, R592). -/
def dieEdge (a b : Nat) : Option Nat :=
  match a, b with
  | 0, 6 => some 0 | 0, 1 => some 1 | 0, 2 => some 2 | 0, 4 => some 3
  | 1, 5 => some 1 | 1, 3 => some 2 | 1, 0 => some 3
  | 2, 0 => some 0 | 2, 3 => some 1 | 2, 4 => some 3
  | 3, 1 => some 0 | 3, 5 => some 1 | 3, 7 => some 2 | 3, 2 => some 3
  | _, _ => none

/-- The die-link pages at the ends of a link between two dies. -/
def linkPages (l : Nat × Nat) : List Page :=
  ((dieEdge l.1 l.2).map fun e => (⟨.dieLink, 4 * l.1 + e⟩ : Page)).toList ++
    ((dieEdge l.2 l.1).map fun e => (⟨.dieLink, 4 * l.2 + e⟩ : Page)).toList

/-- n flits go from die a to die b: both pages of every link of the route count them, and the mesh of every compute die on it (R263, log
58). -/
def flitsPass (a b n : Nat) (s : State) : State :=
  let s := ((dieLinks a b).flatMap linkPages).foldl (fun s p => bump p Off.DL_CNT_FLITS n s) s
  ((a :: dieRoute a b).filter fun d => decide (d < 4)).foldl (fun s d => bump ⟨.mesh, d⟩ Off.NOC_CNT_FLITS n s) s

/-- A message that commits between islands counts as one flit (log 58). -/
def countFlits (src dst : Nat) (s : State) : State := flitsPass (islandDie src) (islandDie dst) 1 s

/-- The flits of a message with n bytes of data: its header and 64 bytes in each (R252). -/
def dataFlits (n : Nat) : Nat := 1 + ceilDiv n 64

/-- Has a message that is still on its way not been discarded: between dies a flit lives 192 beats, and a crossing on a die completes in the
beat after its send beat (R36, R39, R254)? -/
def inTime (s : State) (src dst sent : Nat) : Bool :=
  decide (beatNo s ≤ sent + (if islandDie src = islandDie dst then crossingBeats src dst else 192))

/-- CROSSING_COMMIT: a message commits in beat s + L, in the order of its commit beat and its sender (R35, R37, R63). A message that
arrives at a relaxed island commits on arrival, unless it has been discarded; one that is due arrived before, under the rule of then
(R36, R39, R40, R41). A message that is not due has no effect yet. -/
def execCrossingCommit (src dst stamp : Nat) (payload : Payload) (s : State) : State :=
  let sent := sendBeat s stamp
  let due := sent + crossingBeats src dst
  if !(islandUsed src && islandUsed dst && s.tt.run && holdsNumber s dst 0 && holdsNumber s src (pulsesSince s sent)) then s
  else if s.tt.firstDue ≤ due ∧ due ≤ beatNo s then
    countFlits src dst (commitMsg ⟨src, dst, due * 128 + src, payload, false⟩ s)
  else if relaxed s dst && inTime s src dst sent then countFlits src dst (commitMsg ⟨src, dst, afterAllDue, payload, false⟩ s)
  else s

/-- A late commit's event, its count, the latch of REPLAYABLE and its hand-history record (R38). -/
def lateMark (src dst sent : Nat) (s : State) : State :=
  { s with tt := { s.tt with latched := true } }
    |> raise pgTT Evt.TT_LATE_COMMIT |> bump pgTT Off.TT_CNT_LATE_COMMIT 1
    |> hhCapture 0x33 dst 0 (leBytes 1 src ++ leBytes 7 0 ++ leBytes 8 sent)

/-- LATE_COMMIT: a message that missed its commit beat commits in this beat after all that are due; the event, the counter, the
latch of REPLAYABLE and a hand-history record follow (R38). Only a crossing between dies can be late, and one that is not delivered 192
beats after its send beat has been discarded (R39, R254). -/
def execLateCommit (src dst stamp : Nat) (payload : Payload) (s : State) : State :=
  let sent := sendBeat s stamp
  if islandUsed src && islandUsed dst && s.tt.run && holdsNumber s dst 0 && holdsNumber s src (pulsesSince s sent) &&
      islandDie src != islandDie dst && !relaxed s dst && decide (sent + crossingBeats src dst < beatNo s) &&
      inTime s src dst sent then
    lateMark src dst sent (countFlits src dst (commitMsg ⟨src, dst, lateOrder src sent, payload, true⟩ s))
  else s

/-- TT_STATUS.REPLAYABLE: no late commit since whole-device reset and no relax bit set (R38, R41). -/
def replayable (s : State) : Bool := !s.tt.latched && decide (s.tt.relax = 0)

/-- RELAX_MASK_WRITE: an expert write of TT_RELAX_k; the mask in force changes at the next beat (R40, R41). -/
def execRelaxMaskWrite (w : Func) (k : Nat) (v : Word) (s : State) : State :=
  let off := Off.TT_RELAX + 4 * (k % 4)
  access w pgTT off v (plainWrite pgTT off v) s

/-- The relax mask that the registers hold. -/
def relaxRegs (s : State) : Nat :=
  (List.range 4).foldl (fun n k => n + (rd s pgTT (Off.TT_RELAX + 4 * k)).toNat * 2 ^ (32 * k)) 0

/-- The relax mask takes effect, and hand history records it after a change (R41, R557). -/
def applyRelax (s : State) : State :=
  let m := relaxRegs s
  if m = s.tt.relax then s
  else { s with tt := { s.tt with relax := m } } |> hhCapture 0x34 72 0 (leBytes 16 m)

/-! ## Loading, stepping and rate (R62–R64) -/

/-- A TT_CTRL write judged against the DISCIPLINED value held before it (R62). -/
def ttCtrl (w : Func) (load step disciplined : Bool) (s : State) : State :=
  let v := rd64 s pgTT Off.TT_LOAD_LO Off.TT_LOAD_HI / 64 * 64
  let want (isLoad : Bool) (s : State) : State := { s with tt := { s.tt with pend := s.tt.pend ++ [(isLoad, v)] } }
  let refused := accessError 6 w (pageBase pgTT + Off.TT_CTRL)
  let t :=
    if load && step then refused s
    else if load then
      if !flag s pgTT Off.TT_CTRL 2 && !anyContext s then want true s else refused s
    else if step then want false s
    else s
  setFlag pgTT Off.TT_CTRL 2 disciplined t

/-- A write of TT_CTRL. -/
def ttCtrlWrite (w : Func) (load step disciplined : Bool) (s : State) : State :=
  access w pgTT Off.TT_CTRL (BitVec.ofNat 32 (ofBool load + 2 * ofBool step + 4 * ofBool disciplined))
    (ttCtrl w load step disciplined) s

/-- LOAD: a TT_CTRL write with LOAD set. -/
def execLoad (w : Func) (disciplined : Bool) (s : State) : State := ttCtrlWrite w true false disciplined s

/-- STEP: a TT_CTRL write with STEP set. -/
def execStep (w : Func) (disciplined : Bool) (s : State) : State := ttCtrlWrite w false true disciplined s

/-- ±274,877,907: the bound of TT_RATE_ADJ (R64). -/
def rateLimit : Int := 274877907

/-- TT_RATE_ADJ takes its value, clamped (R64). -/
def ttRate (v : Word) (s : State) : State :=
  let c := clampInt (-rateLimit) rateLimit v.toInt
  let t := wr pgTT Off.TT_RATE_ADJ (BitVec.ofInt 32 c) s
  let t := if c = v.toInt then t else t |> raise pgTT Evt.TT_RATE_CLAMPED |> bump pgTT Off.TT_CNT_CLAMPS 1
  hhCapture 0x32 72 0 (leBytes 1 3 ++ leBytes 7 0 ++ leBytes 8 (wrap 64 c)) t

/-- RATE_ADJUSTMENT: a write of TT_RATE_ADJ. -/
def execRateAdjustment (w : Func) (v : Word) (s : State) : State := access w pgTT Off.TT_RATE_ADJ v (ttRate v) s

/-- TT_NOW_READ: the timestamp 64·b + s of this beat, its sub-beat part unstated (R33), with the high bits latched (R65). -/
def execTtNowRead (w : Func) (s : State) : State :=
  readAccess w pgTT Off.TT_NOW_LO (fun s =>
    let f := fresh s
    let t := 64 * beatNo s + f.1 % 64
    (t % 2 ^ 32, f.2 |> wr pgTT Off.TT_NOW_LO (BitVec.ofNat 32 t) |> wr pgTT Off.TT_NOW_HI (BitVec.ofNat 32 (t / 2 ^ 32)))) s

/-! ## The RTC count (R58–R60) -/

/-- The last value of the 64-bit count. Time never decreases but through a load, so the count stops there (R30; log 59). -/
def lastTick : Nat := 2 ^ 64 - 1

/-- The step of the kept count at an RTC edge, in 1/64 of a tick (R58). -/
def rtcIncrement (s : State) : Int := 30517 * 64 + 37 + signed 8 (fld s pgTT Off.TT_RTC_TRIM 0 8)

/-- An RTC edge: at the first edge after the beat stopped the always-on island takes the main counter's value, which has counted an
unstated part of an RTC period beyond the last beat; at each later edge it adds 30,517 + 37/64 ticks and the trim (R58). -/
def rtcStep (s : State) : State :=
  if s.tt.run || !domOn s 0 then s
  else if s.tt.keeping then
    let s := { s with head := { s.head with sets := [], counts := [] } }
    let step : Int := rtcIncrement s + (s.tt.frac : Int)
    { s with tt := { s.tt with
        kept := Nat.min (s.tt.kept + (step / 64).toNat) lastTick, frac := (step % 64).toNat, edge := s.tt.kept } }
  else
    let f := fresh s
    { f.2 with tt := { s.tt with keeping := true, kept := Nat.min (s.tt.now + f.1 % 30518) lastTick, frac := 0, edge := s.tt.now } }
      |> setFlag pgTT Off.TT_STATUS 1 true

/-- RTC_MEASUREMENT: the ticks that 32,768 RTC steps took, while the beat runs (R59). -/
def execRtcMeasurement (ticks : Nat) (s : State) : State :=
  if s.tt.run then wr pgTT Off.TT_RTC_MEAS (BitVec.ofNat 32 ticks) s else s

/-- ANTE_REALIGN: on the way out of Ante or Fold, the integer part of the kept count goes into the main counter and the beat is
to start at the next multiple of 64 (R60). -/
def execAnteRealign (s : State) : State :=
  if s.tt.keeping && !s.tt.run && s.tt.locking then
    { s with tt := { s.tt with now := s.tt.kept, frac := 0, keeping := false, run := true, realigned := true, locking := false } }
      |> setFlag pgTT Off.TT_STATUS 0 true |> setFlag pgTT Off.TT_STATUS 1 false |> raise pgTT Evt.TT_ANTE_REALIGN
  else s

end Sys2Proof.Machine
end

