-- ==== Sys2Proof/Machine/Wake.lean ====
section
/-! DEFINITION. Wake events and what they do to a steady device, a climb and a descent (R124, R125, R134). The steps of climbs and
descents are in Power.lean, the Fold exit in BringUp.lean. -/
namespace Sys2Proof.Machine

def pwrTarget (s : State) : Nat := fld s pgPower Off.PWR_STATE 3 3
/-- 0 steady, 1 climbing, 2 hold, 3 quiesce, 4 descend, 5 restore (R135). -/
def pwrPhase (s : State) : Nat := fld s pgPower Off.PWR_STATE 6 3

def setPwrState (n : Nat) (s : State) : State := setFld pgPower Off.PWR_STATE 0 3 n s
def setPwrTarget (n : Nat) (s : State) : State := setFld pgPower Off.PWR_STATE 3 3 n s
def setPwrPhase (n : Nat) (s : State) : State := setFld pgPower Off.PWR_STATE 6 3 n s

/-- The compute die and the memory-side die that Raise powers: the pair that PWR_RAISE_SEL held when the latest Call → Raise step began
(R122, R135). -/
def raiseCd (s : State) : Nat := s.pwr.raise % 4
def raiseMd (s : State) : Nat := s.pwr.raise / 4 % 2

/-- Is a power domain fitted on the part (R6, R8)? -/
def domFitted (s : State) (d : Nat) : Bool :=
  if d = 4 then s.part.iods == 2 else if d = 6 then s.part.stackCount == 2 else decide (d < 15)

/-- How a power state holds a domain: 0 Off, 1 Retention, 2 On (R122). -/
def domLevel (s : State) (st d : Nat) : Nat :=
  if !domFitted s d then 0
  else if d = 0 then 2
  else if d = 1 then (if st = 0 then 0 else 2)
  else if d = 2 then (if st = 0 then 0 else if st = 1 then 1 else 2)
  else if d = 3 ∨ d = 4 then (if st ≤ 1 then 0 else 2)
  else if d = 5 ∨ d = 6 then
    (if st = 0 then 0 else if st = 1 then (if flag s pgPower Off.PWR_ANTE_CFG 0 then 1 else 0)
     else if st = 2 then 1 else if st = 3 then (if d - 5 = raiseMd s then 2 else 1) else 2)
  else if d < 11 then (if st ≤ 2 then 0 else if st = 3 then (if d - 7 = raiseCd s then 2 else 0) else 2)
  else (if st ≤ 1 then 0 else if st = 2 then 1 else if st = 3 then (if d - 11 = raiseCd s then 2 else 1) else 2)

/-- Does the quiesce or the descend phase make the page behave as if CTRL.ENABLE were 0 (R132)? -/
def quiesced (s : State) (p : Page) : Bool :=
  (pwrPhase s == 3 || pwrPhase s == 4) && domLevel s (pwrTarget s) (pagePower p) != 2

/-- Does the page start commands: on, enabled, not quiescing, its domain not fenced (R77, R132, R539)? -/
def enabled (s : State) (p : Page) : Bool :=
  pagePresent s.part p && pageOn s p && flag s p Off.CTRL 0 && !quiesced s p && !fenced s p

/-- Does the page start work of a context: it is enabled, or its held domain admits the context for suspect replay (R543)? -/
def enabledFor (s : State) (p : Page) (ctx : Nat) : Bool :=
  enabled s p || (pageOn s p && phaseOf s (pageDomain p) == 5 && admits s (pageDomain p) ctx)

/-- Has the device power and does it stand outside reset and failure, so that wake events commit (R92, R580)? -/
def awake (s : State) : Bool :=
  match s.boot.phase with
  | .up => true | .training => true | .fuseStop => true | _ => false

/-- The states in which an event of R124 counts. -/
def wakeCounts (idx state : Nat) : Bool :=
  match idx with
  | 0 => state == 1
  | 3 => true
  | 4 => decide (state ≤ 1)
  | 5 => true
  | 8 => decide (1 ≤ state)
  | _ => decide (2 ≤ state)

/-- The target state of an event (R124). -/
def wakeTarget (s : State) (idx : Nat) : Nat :=
  if idx = 8 then 2
  else if idx = 7 then fld s pgPower Off.PWR_WAKE_REQ 0 3
  else fld s pgPower Off.PWR_WAKE_MAP (3 * idx) 3

/-- A field of PWR_DUTY in ticks (R139). -/
def dutyTicks (s : State) (lo w : Nat) : Nat := fld s pgPower Off.PWR_DUTY lo w * 1000000

/-- The time at which an event commits: the beat's, or the RTC step's while the beat is stopped (R54, R125). -/
def commitTime (s : State) : Nat := if s.tt.keeping then s.tt.kept else 64 * beatNo s

/-- The wake registers as they stand. -/
def wakeSnap (s : State) : WakeSnap :=
  { beat := s.tt.beats, cause := rd s pgPower Off.PWR_WAKE_CAUSE, tt := rd64 s pgPower Off.PWR_WAKE_TT_LO Off.PWR_WAKE_TT_HI
    count := rd s pgPower Off.PWR_CNT_WAKES, counted := sget 0 s.head.counts (pageBase pgPower + Off.PWR_CNT_WAKES)
    raised := flag s pgPower Off.EVT_RAW Evt.PWR_WAKE }

/-- The wake registers are kept as they stood before the first wake event of the beat. -/
def wakeKeep (s : State) : State :=
  if s.pwr.woke.any fun k => k.beat == s.tt.beats then s else { s with pwr := { s.pwr with woke := some (wakeSnap s) } }

/-- A failure of main power leaves no record of the wake events of its beat (R580). -/
def unwake (s : State) : State :=
  match s.pwr.woke with
  | some k =>
    if k.beat = s.tt.beats ∧ s.tt.run then
      { s with head := { s.head with counts := sset 0 s.head.counts (pageBase pgPower + Off.PWR_CNT_WAKES) k.counted } }
        |> wr pgPower Off.PWR_WAKE_CAUSE k.cause |> wr64 pgPower Off.PWR_WAKE_TT_LO Off.PWR_WAKE_TT_HI k.tt
        |> wr pgPower Off.PWR_CNT_WAKES k.count |> setFlag pgPower Off.EVT_RAW Evt.PWR_WAKE k.raised
    else s
  | none => s

/-- An event that counts is recorded (R125); in Fold only the keeper's registers are powered (R135). -/
def wakeRecord (idx : Nat) (s : State) : State :=
  let s := wakeKeep s
  let cause := putAt (putAt (rd s pgPower Off.PWR_WAKE_CAUSE).toNat 9 3 (pwrState s)) 12 4 idx
  let s := wr pgPower Off.PWR_WAKE_CAUSE (BitVec.ofNat 32 (putAt cause idx 1 1)) s
    |> wr64 pgPower Off.PWR_WAKE_TT_LO Off.PWR_WAKE_TT_HI (commitTime s)
  if domOn s 1 then s |> bump pgPower Off.PWR_CNT_WAKES 1 |> raise pgPower Evt.PWR_WAKE else s

/-- MB_READY.RESTORE_NEEDED (R119). -/
def restoreNeeded (s : State) : Bool := flag s pgMb Off.MB_READY 7

/-- A regulator mode change begins: 1 is HP (R146). -/
def regSwitchTo (hp : Bool) (s : State) : State :=
  { s with pwr := { s.pwr with regSwitch := some hp, heldLoad := s.pwr.heldLoad || hp } } |> setFlag pgPower Off.AON_REG_STATUS 1 true

/-- A domain takes a state; the islands of one that comes On take the beat number (R32). -/
def setDom (d x : Nat) (s : State) : State :=
  { s with pwr := { s.pwr with dom := updNth (fun _ => x) s.pwr.dom d }
           tt := { s.tt with joined := if x = 2 then sput s.tt.joined d s.tt.beats else s.tt.joined } }

/-- The bits of MC_STATUS, and of DL_STATUS on a fitted link, after the boot deck's training (R96). -/
def trainStack (n : Nat) (s : State) : State := s |> setFld (pgMc n) Off.MC_STATUS 0 3 3
/-- The modules of a link, as MODULES shows them: one to an I/O die, else four (R18). -/
def linkModules (die edge : Nat) : Nat := if (die = 0 ∧ edge = 0) ∨ (die = 3 ∧ edge = 2) then 1 else 0xF

/-- The other end of a die link (R18, R592): another compute die, or none where a memory-side or an I/O die lies there. -/
def linkPeer (die edge : Nat) : Option (Nat × Nat) :=
  match die, edge with
  | 0, 1 => some (1, 3) | 1, 3 => some (0, 1)
  | 0, 2 => some (2, 0) | 2, 0 => some (0, 2)
  | 1, 2 => some (3, 0) | 3, 0 => some (1, 2)
  | 2, 1 => some (3, 3) | 3, 3 => some (2, 1)
  | _, _ => none

/-- A link's number: that of its lower page. -/
def linkNo (die edge : Nat) : Nat := Nat.min (4 * die + edge) (((linkPeer die edge).map fun e => 4 * e.1 + e.2).getD (4 * die + edge))

/-- The training of a link shows at one of its ends: the modules in service and the lanes replaced; a module that failed sets DEGRADED, and a
link with none in service is lost (R254). -/
def trainLink (die edge : Nat) (s : State) : State :=
  let p : Page := ⟨.dieLink, 4 * die + edge⟩
  let x := (Config.linkTraining (linkNo die edge)).toNat
  let good := ((List.range 4).filter fun m => bitAt (linkModules die edge) m && !bitAt x m).foldl (fun n m => n + 2 ^ m) 0
  let s := s |> setFld p Off.DL_STATUS 4 4 good |> setFld p Off.DL_STATUS 8 8 (bitsAt x 4 8)
  let s := if good = linkModules die edge then s else raise p Evt.DL_DEGRADED s
  if good = 0 then { s with boot := { s.boot with linksDue := s.boot.linksDue ++ [(die, edge)] } } else s
def trainLinks (die : Nat) (s : State) : State :=
  ((List.range 4).filter fun e => linkPresent s.part die e).foldl (fun s e => trainLink die e s) s

/-- A domain comes On: its pages stand at their reset values (R91); stacks and links are trained, an engine enabled (R96). -/
def domainOn (d : Nat) (s : State) : State :=
  let s := setDom d 2 s
  if !flag s pgMb Off.MB_READY 3 then s
  else if d = 5 ∨ d = 6 then trainStack (d - 5) s |> setFlag (pgQe (d - 5)) Off.CTRL 0 true
  else if 7 ≤ d ∧ d < 11 then trainLinks (d - 7) s
  else s

/-- PWR_STATE.RESTORING. -/
def restoring (s : State) : Bool := flag s pgPower Off.PWR_STATE 9

/-- The restore of R128 begins: RESTORING reads 1, and from now on the fitted memory and compute dies switch on, one at a time (R144). -/
def restoreBegin (s : State) : State := setFld pgPower Off.PWR_STATE 9 1 1 s

/-- Does the always-on regulator stand in HP, with no switch to LP under way, or under manual control (R147, R149)? -/
def regReady (s : State) : Bool :=
  flag s pgPower Off.AON_REG_MANUAL 0 || (flag s pgPower Off.AON_REG_STATUS 0 && s.pwr.regSwitch != some false)

/-- Both enables of the main regulators rise (R577). -/
def railsOn (s : State) : State := { s with boot := { s.boot with vrMain := true, vrMem := true } }

/-- A climb to T begins (R125, R126). The step from Ante brings up the SYS_XTAL PLL and raises both enables, the regulator being in HP before
any rail ramps (R147, R577); from Call it first restores the decks while tile SRAM is empty, or stays stopped for the driver (R128), and the step to
Raise takes the pair that PWR_RAISE_SEL holds (R135). -/
def startClimb (T : Nat) (s : State) : State :=
  let s := s |> setPwrTarget (if s.pwr.stalled then Nat.max T (pwrTarget s) else T) |> setPwrPhase 1
  let s := { s with pwr := { s.pwr with start := s.tt.beats, stalled := false } }
  if pwrState s = 1 then
    let s := { s with tt := { s.tt with locking := true } }
    if regReady s then railsOn s else regSwitchTo true s
  else if pwrState s = 2 ∧ s.pwr.owed then
    if restoreNeeded s then { s with pwr := { s.pwr with stalled := true } } |> setPwrPhase 0
    else setPwrPhase 5 (restoreBegin s)
  else if pwrState s = 2 then { s with pwr := { s.pwr with raise := fld s pgPower Off.PWR_RAISE_SEL 0 3 } }
  else s

/-- The result of a power command is posted (R130, R135). -/
def postPwrResult (code : Nat) (s : State) : State :=
  let v := code + 16 * s.pwr.cmdFrom + 128 * pwrState s + 1024 * ofBool s.pwr.byMgmt
  s |> wr pgPower Off.PWR_RESULT (BitVec.ofNat 32 v) |> setFlag pgPower Off.PWR_CMD 31 false
    |> raise pgPower Evt.PWR_CMD_DONE

/-- The running power command ends with a code of R130. -/
def endPwrCmd (code : Nat) (s : State) : State := s |> postPwrResult code |> setPwrPhase 0 |> setPwrTarget (pwrState s)

/-- What a counted event with target T does beyond its record (R125, R134). A target of 5 to 7, which only PWR_WAKE_REQ can hold,
names no state and is recorded only. -/
def wakeActs (T : Nat) (s : State) : State :=
  let up (s : State) : State := if pwrState s < T && decide (T ≤ 4) then startClimb T s else s
  match pwrPhase s with
  | 0 => up s
  | 2 => if pwrTarget s < T then up (endPwrCmd 8 s) else s
  | 3 => if pwrTarget s < T then up (endPwrCmd 8 s) else s
  | 4 =>
    { s with pwr := { s.pwr with
        latched := if 4 < T then s.pwr.latched else some (Nat.max T (s.pwr.latched.getD 0)), anyLatched := true } }
  | _ => if pwrTarget s < T && decide (T ≤ 4) then setPwrTarget T s else s

/-- A command accepted in this beat is taken back, for a wake event of the same beat comes before it (R134): the device stands as before it,
and the end of the beat checks it again. -/
def takeBack (c : PwrCmdSt) (s : State) : State :=
  let a := pageBase pgPower + Off.PWR_CNT_HOLDS
  let s :=
    if pwrPhase s = 2 then
      { wr pgPower Off.PWR_CNT_HOLDS (rd s pgPower Off.PWR_CNT_HOLDS - 1) s with
        head := { s.head with counts := sset 0 s.head.counts a (sget 0 s.head.counts a - 1) } }
        |> setFlag pgPower Off.EVT_RAW Evt.PWR_HOLD_STARTED c.held
    else s
  { s with pwr := { s.pwr with cmd := some { c with again := true } } } |> setPwrPhase 0 |> setPwrTarget (pwrState s)

/-- What a counted event does when a power command has committed before it in the same beat (R134): the event is applied first. A command
refused before it is refused as BUSY where the event starts a climb. -/
def wakeFirst (T : Nat) (c : PwrCmdSt) (s : State) : State :=
  if c.ran then (if pwrPhase s = 2 ∨ pwrPhase s = 3 then wakeActs T (takeBack c s) else wakeActs T s)
  else
    let t := wakeActs T s
    if pwrPhase s = 0 ∧ pwrPhase t ≠ 0 then setFld pgPower Off.PWR_RESULT 0 4 1 t else t

/-- A wake event of R124 commits outside Fold. -/
def wakeEvent (idx : Nat) (s : State) : State :=
  if awake s && wakeCounts idx (pwrState s) then
    let T := wakeTarget s idx
    match s.pwr.cmd with
    | some c => if c.beat = s.tt.beats ∧ s.tt.run then wakeFirst T c (wakeRecord idx s) else wakeActs T (wakeRecord idx s)
    | none => wakeActs T (wakeRecord idx s)
  else s

/-! ## The boundaries of the power domains (R145) -/

/-- The classes of signals that leave a power domain. -/
inductive Boundary where
  | valid | credit | data | event | good | errorN | resetN | pushPull | openDrain
deriving DecidableEq, Repr

/-- The level at which the clamps hold a class while its domain is not On; an open-drain line is released and reads 1. -/
def clampLevel : Boundary → Bool
  | .errorN => true | .resetN => true | .openDrain => true
  | .valid => false | .credit => false | .data => false | .event => false | .good => false | .pushPull => false

/-- The level of a signal that leaves domain d and that the domain drives to `driven` while it is On. -/
def boundary (s : State) (d : Nat) (c : Boundary) (driven : Bool) : Bool := if domOn s d then driven else clampLevel c

/-- The level of WAKE#, an output of the IOD0 core driven low to wake the host (R145, R449). -/
def wakePin (s : State) : Bool := boundary s 3 .openDrain (!s.host.wakeDriven)

end Sys2Proof.Machine
end

