-- ==== Sys2Proof/Machine/CallEngine.lean ====
section
/-! DEFINITION. The Call engine, its verdicts, their sign-off and the ring's lock (R165–R173, R255–R258, R264, R487, R488). -/
namespace Sys2Proof.Machine

/-! ## The ring's indices, modulo 2^32 (R164) -/

/-- How many blocks index i lies behind the block being written. -/
def ringAge (s : State) (i : Nat) : Nat := (s.au.writeIdx + (2 ^ 32 - i % 2 ^ 32)) % 2 ^ 32

/-- The oldest held block, or the block being written when none is held (R173). -/
def ringOldest (s : State) : Nat := (s.au.ring.head?.map (·.idx)).getD s.au.writeIdx

/-- Does the ring hold block i? -/
def ringHolds (s : State) (i : Nat) : Bool := s.au.ring.any fun b => b.idx == i

def ringLocked (s : State) : Bool := flag s pgRing Off.RING_STATUS 0

/-- Zeroise the held blocks that meet a test, and count them. -/
def ringZeroise (p : RingBlk → Bool) (s : State) : State :=
  { s with au := { s.au with ring := s.au.ring.filter fun b => !p b } }
    |> bump pgRing Off.RING_CNT_ZEROISED (s.au.ring.filter p).length

/-- The hour window of R487 that the present beat lies in. -/
def hourNow (s : State) : Nat := 64 * beatNo s / 3600000000000

/-- The unlock limit starts again (R167). -/
def ringRenew (s : State) : State := { s with au := { s.au with unlockTt := tnow s } }

/-- A locked ring unlocks: blocks older than the release start are zeroised, that block and later ones released (R167). -/
def ringUnlock (start : Nat) (s : State) : State :=
  let lead := fld s pgRing Off.RING_RELEASE 0 12 / 4
  let age := Nat.min (ringAge s (ringOldest s)) (ringAge s start + lead)
  let first := (s.au.writeIdx + (2 ^ 32 - age)) % 2 ^ 32
  let count := if s.au.hourWin = hourNow s then s.au.hourCnt + 1 else 1
  let s := ringRenew (ringZeroise (fun b => decide (age < ringAge s b.idx)) s)
  { s with au := { s.au with hourWin := hourNow s, hourCnt := count
                             relTime := (s.au.ring.find? fun b => b.idx == first).map (·.time) } }
    |> wr pgRing Off.RING_RELEASE_IDX (BitVec.ofNat 32 first) |> setFlag pgRing Off.RING_STATUS 0 false
    |> raise pgRing Evt.RING_UNLOCKED |> bump pgRing Off.RING_CNT_UNLOCKS 1

/-- What a relock in the beat of a sign-off leaves, since the relock comes first (R173): a keyword verdict unlocks the ring again, and a
follow-up verdict is not signed off (R167). -/
def ringSigned (g : SignSt) (s : State) : State :=
  if g.follow then bump pgMb Off.MB_CNT_SIGNOFF_REFUSED 1 s else ringUnlock g.start s

/-- The ring relocks (R169). A relock of a ring that was locked until a sign-off of the same beat changes nothing. -/
def ringRelock (s : State) : State :=
  if ringLocked s then s
  else
    let t := s |> setFlag pgRing Off.RING_STATUS 0 true |> raise pgRing Evt.RING_RELOCKED
    match s.au.signed with
    | some g => if g.beat ≠ s.tt.beats ∨ s.tt.run = false then t else if g.locked then s else ringSigned g t
    | none => t

/-- The ring stops: every block zeroised and the ring locked (R169). -/
def ringStop (s : State) : State := s |> ringZeroise (fun _ => true) |> ringRelock

/-- A write of RING_CTRL: ENABLE starts recording or zeroises and locks, RELOCK relocks (R169). -/
def ringCtrl (enable relock : Bool) (s : State) : State :=
  let t := setFlag pgRing Off.RING_CTRL 0 enable s
  let t := if enable then t else ringStop t
  if relock then ringRelock t else t

/-- RING_ENABLE: a write of RING_CTRL.ENABLE. -/
def execRingEnable (w : Func) (on : Bool) (s : State) : State :=
  access w pgRing Off.RING_CTRL (BitVec.ofNat 32 (ofBool on)) (ringCtrl on false) s

/-- RELOCK: a write of RING_CTRL with RELOCK set. -/
def execRelock (w : Func) (enable : Bool) (s : State) : State :=
  access w pgRing Off.RING_CTRL (BitVec.ofNat 32 (2 + ofBool enable)) (ringCtrl enable true) s

/-- UNLOCK_LIMIT_EXPIRY: at the first block end at or after the latest unlock or renewal plus UNLOCK_LIMIT_S the ring relocks (R169). -/
def execUnlockLimitExpiry (s : State) : State :=
  let limit := fld s pgRing Off.RING_RELEASE 16 16 * 1000000000
  if !ringLocked s && decide (s.au.unlockTt + limit ≤ s.au.endTt) then ringRelock s else s

/-! ## The engine's commands -/

def deckOf (s : State) (kind : Nat) : Option Deck := s.boot.decks.find? fun d => d.kind == kind

/-- A verdict leaves the engine's verdict port (R257). In replay the records bring the verdicts (R569). -/
def ceVerdict (v : Verdict) (s : State) : State :=
  if hhMode s == 2 && !s.hh.injecting then s
  else
  let word := v.kind % 16 + 16 * (v.score % 256) + 4096 * (v.beam % 16)
  let s := s |> wr pgCe Off.CE_VERDICT (BitVec.ofNat 32 word) |> wr pgCe Off.CE_VERDICT_SPAN (BitVec.ofNat 32 v.start)
    |> raise pgCe Evt.CE_VERDICT |> bump pgCe Off.CE_CNT_VERDICTS 1
    |> hhCapture 0x24 85 0 (leBytes 4 word ++ leBytes 4 v.start)
  if v.kind = 3 ∨ v.kind = 4 then { s with ce := { s.ce with verdicts := s.ce.verdicts ++ [(word, v.start % 2 ^ 32)] } }
  else if v.kind = 5 then wakeEvent 2 s
  else s

/-- The block the engine reads next: the consume pointer, or the oldest held block with the missing ones counted (R172). -/
def ceSkip (s : State) : State :=
  let o := ringOldest s
  let missing := (o + (2 ^ 32 - s.au.consume)) % 2 ^ 32
  if ringHolds s s.au.consume || decide (2 ^ 31 ≤ missing) || missing == 0 then s
  else
    { s with au := { s.au with consume := o } }
      |> raise pgRing Evt.RING_SKIPPED |> bump pgRing Off.RING_CNT_SKIPPED missing

/-- Does the block at the consume pointer start more than one block period after it was written (R264)? A block that is no longer the
newest does (log 25). The newest was written at the latest block end, a block period of 4 ms. -/
def blockLate (s : State) : Bool :=
  decide (1 < ringAge s s.au.consume) || decide (s.au.endTt + 4000000 < tnow s)

/-- The engine starts on the next written block, which it accepts as a command (R172, R256, R264). -/
def ceAccept (s : State) : State :=
  if s.ce.running && !s.ce.copying && enabled s pgCe && !busy s pgCe && s.au.consume != s.au.writeIdx then
    let s := ceSkip s
    if s.au.consume = s.au.writeIdx then s
    else
      let late := blockLate s
      let s := startCmd pgCe s.au.consume s
      if late then s |> raise pgCe Evt.CE_LATE |> bump pgCe Off.CE_CNT_LATE_BLOCKS 1 else s
  else s

/-- Has CTRL.EXPERT read 0 at every beat since the model was started, and the model not changed since its digest check (R166)? -/
def modelSound (s : State) : Bool := s.ce.clean && !s.ce.changed

/-- The engine's SRAM is zeroised and the copy of CALL_MODEL begins (R258). Of a model that is not sound no verdict is ever signed off: the
root of trust refuses and counts those it still holds (R166). -/
def ceWipe (s : State) : State :=
  let s := if modelSound s then s
    else bump pgMb Off.MB_CNT_SIGNOFF_REFUSED s.ce.verdicts.length { s with ce := { s.ce with verdicts := [] } }
  { s with ce := { s.ce with sram := [], loaded := false, running := false, copying := true } } |> setFlag pgCe Off.CE_STATUS 0 false

/-- CALL_ENGINE_BLOCK: the engine finishes the ring block it has started, with the verdicts its model forms on it, and advances the pointer
(R256, R257, R171). A restart that waited for it goes on (R258). -/
def execCallEngineBlock (vs : List Verdict) (s : State) : State :=
  if s.ce.running && busy s pgCe then
    let s := endAllCmds pgCe s
    let s := { s with au := { s.au with consume := (s.au.consume + 1) % 2 ^ 32 } } |> bump pgCe Off.CE_CNT_BLOCKS 1
    let s := vs.foldl (fun s v => ceVerdict v s) s
    if s.ce.copying then ceWipe s else ceAccept s
  else s

/-! ## Restarts (R258) -/

/-- A restart: the block in progress finishes, the engine's SRAM is zeroised and CALL_MODEL is copied again. -/
def ceRestart (s : State) : State :=
  if s.ce.running && busy s pgCe then { s with ce := { s.ce with copying := true } } else ceWipe (endAllCmds pgCe s)

/-- CE_RESTART: a write of CE_RESTART.GO. -/
def execCeRestart (w : Func) (s : State) : State :=
  access w pgCe Off.CE_RESTART 1 (fun s =>
    if flag s pgCe Off.CTRL 2 then refuse pgCe Off.CE_CNT_CFG_REFUSED s
    else s |> setFlag pgCe Off.CE_RESTART 0 true |> ceRestart) s

/-! ## Sign-off -/

/-- CE_STATUS.SIGN_OFF_OK: every condition of R166 on this engine holds. -/
def signOffOk (s : State) : Bool := s.ce.running && s.ce.loaded && modelSound s && (deckOf s 2).isSome

/-- The policy check of R487. -/
def policyOk (s : State) : Bool :=
  let most := fld s pgMb Off.MB_RING_POLICY 8 8
  flag s pgMb Off.MB_RING_POLICY 0 && !flag s pgMb Off.MB_RING_POLICY 1 &&
    (most == 0 || decide ((if s.au.hourWin = hourNow s then s.au.hourCnt else 0) < most))

/-- A sign-off is remembered for the rest of its beat, a keyword's before a follow-up's. -/
def signNote (start : Nat) (follow : Bool) (s : State) : State :=
  match s.au.signed with
  | some g =>
    if g.beat = s.tt.beats ∧ (follow ∨ g.follow = false) then s
    else { s with au := { s.au with signed := some ⟨s.tt.beats, start, ringLocked s, follow⟩ } }
  | none => { s with au := { s.au with signed := some ⟨s.tt.beats, start, ringLocked s, follow⟩ } }

/-- SIGN_OFF: the root of trust judges the oldest verdict sent to it (R166, R167, R487). -/
def execSignOff (s : State) : State :=
  match s.ce.verdicts with
  | [] => s
  | (word, start) :: rest =>
    let s := { s with ce := { s.ce with verdicts := rest } }
    if word % 16 = 3 then
      if !signOffOk s then bump pgMb Off.MB_CNT_SIGNOFF_REFUSED 1 s
      else if !policyOk s then
        s |> bump pgMb Off.MB_CNT_SIGNOFF_REFUSED 1 |> raise pgMb Evt.MB_SIGNOFF_REFUSED
      else
        let s := signNote start false s
        wakeEvent 1 (if ringLocked s then ringUnlock start s else ringRenew s)
    else if signOffOk s && !ringLocked s then ringRenew (signNote start true s)
    else bump pgMb Off.MB_CNT_SIGNOFF_REFUSED 1 s

/-- A write of MB_RING_POLICY: DENY is W1S, and while it is 1 UNLOCK_EN reads 0 and ignores writes (R488). -/
def ringPolicyWrite (v : Word) (s : State) : State :=
  let denied := flag s pgMb Off.MB_RING_POLICY 1 || bitOf v 1
  let s := plainWrite pgMb Off.MB_RING_POLICY v s
  if denied then s |> setFlag pgMb Off.MB_RING_POLICY 1 true |> setFlag pgMb Off.MB_RING_POLICY 0 false else s

/-- DENY: a write of MB_RING_POLICY with DENY set, by the PF alone (R493). -/
def execDeny (w : Func) (v : Word) (s : State) : State :=
  let v := v ||| 2
  access w pgMb Off.MB_RING_POLICY v (fun s => if w = .pf then ringPolicyWrite v s else s) s

/-- A write of CE page registers beyond the head: CE_RESTART only. -/
def ceRegWrite (off : Nat) (v : Word) (s : State) : State :=
  if off = Off.CE_RESTART && bitOf v 0 then
    if flag s pgCe Off.CTRL 2 then refuse pgCe Off.CE_CNT_CFG_REFUSED s
    else s |> setFlag pgCe Off.CE_RESTART 0 true |> ceRestart
  else s

end Sys2Proof.Machine
end

