-- ==== Sys2Proof/Machine/Acoustic.lean ====
section
/-! DEFINITION. Microphones, beams, the wake detector, the pre-roll ring's blocks, the release port and voice out (R150–R179,
R597). -/
namespace Sys2Proof.Machine

def pgAin (g : Nat) : Page := ⟨.pdmIn, g⟩
def pgBf (g : Nat) : Page := ⟨.beamformer, g⟩
def pgVo (p : Nat) : Page := ⟨.voiceOut, p⟩

/-- Saturation to n bits of two's complement (R597). -/
def satBits (n : Nat) (x : Int) : Int := clampInt (-(2 ^ (n - 1) : Nat)) ((2 ^ (n - 1) : Nat) - 1) x

/-- How many bits of the low n of v are 1. -/
def popcount (n v : Nat) : Nat := ((List.range n).filter fun i => bitAt v i).length

/-! ## Capture (R151–R155) -/

/-- Samples of a 4 ms block: 64 at 16 kHz, 192 at 48 kHz (R160). -/
def blockLen (s : State) (g : Nat) : Nat := if flag s (pgAin g) Off.AIN_CFG 2 then 192 else 64

/-- Ticks from one output sample to the nth after it. -/
def sampleTicks (s : State) (g n : Nat) : Nat := if blockLen s g = 192 then n * 62500 / 3 else n * 62500

/-- The group delay of R153 in samples. -/
def groupSamples (s : State) (g : Nat) : Nat := if blockLen s g = 192 then 22 else 18

/-- What a register that acts at the next output sample (R153, R159) held for the sample formed at time t. -/
def regAt (s : State) (p : Page) (off t : Nat) : Word :=
  match s.au.older.find? fun e => e.1 == pageBase p + off && decide (t ≤ e.2.1) with
  | some e => e.2.2
  | none => rd s p off

/-- A write of such a register. What it held stays known until the block under way has ended. -/
def sampleWrite (p : Page) (off : Nat) (v : Word) (s : State) : State :=
  if flag s (pgAin p.idx) Off.CTRL 0 then
    plainWrite p off v { s with au := { s.au with older := s.au.older ++ [(pageBase p + off, commitTime s, rd s p off)] } }
  else plainWrite p off v s

/-- The gain code of a channel at the sample of time t, taken as at most ±48 (R153). -/
def gainCode (s : State) (g c t : Nat) : Int :=
  clampInt (-48) 48 (signed 8 (fieldOf (regAt s (pgAin g) (Off.AIN_GAIN + 4 * (c / 4)) t) (8 * (c % 4)) 8))

/-- The product of a sample and a table gain, rounded to nearest even, before saturation (R153). -/
def gained (code x : Int) : Int := if code = 0 then x else rneShift (x * Config.gainTable code) 24

/-- Does a channel deliver samples (R151, AIN_TDM_CFG), with AIN_PDM_EN as given? -/
def channelOn (s : State) (g c : Nat) (pdm : Word) : Bool :=
  if c < 16 then bitOf pdm c && flag s (pgAin g) Off.AIN_CFG (if c < 8 then 4 else 5)
  else
    let base := if c < 24 then 0 else 8
    flag s (pgAin g) Off.AIN_TDM_CFG base && decide (c % 8 ≤ fld s (pgAin g) Off.AIN_TDM_CFG (base + 1) 3)

/-- The high-pass over samples, from the latest sample in and out; answers the samples, and the latest in and out. -/
def highPass (fast : Bool) (xs : List Int) (x y : Int) : List Int × List Int :=
  let r := xs.foldl (fun (r : List Int × Int × Int) v =>
    let o := Config.highPass fast v r.2.1 r.2.2
    (o :: r.1, v, o)) ([], x, y)
  (r.1.reverse, [r.2.1, r.2.2])

/-- What the input of a channel makes of the samples that arrive, and what it then holds: a PDM channel's high-pass (R153); a TDM
channel's valid bits, MSB first, delayed by the PDM group delay (R154). -/
def channelPath (s : State) (g c : Nat) (xs : List Int) : List Int × List Int :=
  let held := sget [] s.au.line (32 * g + c)
  if c < 16 then
    if flag s (pgAin g) Off.AIN_CFG 3 then highPass (blockLen s g == 192) xs (held.getD 0 0) (held.getD 1 0) else (xs, [])
  else
    let wide := flag s (pgAin g) Off.AIN_TDM_CFG (if c < 24 then 5 else 13)
    let all := List.replicate (groupSamples s g - held.length) 0 ++ held ++ xs.map fun x => if wide then x else x / 256 * 256
    (all.take xs.length, all.drop xs.length)

/-- The inputs of a group start anew: nothing is under delay or in a filter (R154; log 23). -/
def lineClear (g : Nat) (s : State) : State :=
  { s with au := { s.au with line := s.au.line.filter fun e => e.1 / 32 != g } }

/-- How many samples of the block under way come before a RESYNC interrupts it; the rest are zeros (R156). -/
def cutAt (s : State) (g : Nat) (pcm : List (List Int)) : Nat :=
  if sget 0 s.au.interrupted g = 2 then pcm.foldl (fun n xs => Nat.max n xs.length) 0 else blockLen s g

/-- The samples that arrive for a channel, a short list completed with zeros. -/
def channelIn (s : State) (g c : Nat) (pcm : List (List Int)) : List Int :=
  (List.range (blockLen s g)).map fun n => (pcm.getD c []).getD n 0

/-- How many samples of the block are zero because the filters refill: those of twice the group delay in the first new block (R156). -/
def muted (s : State) (g : Nat) : Nat := if sget 0 s.au.interrupted g = 1 then 2 * groupSamples s g else 0

/-- The block's samples of a channel after gain, before saturation, the first of them formed at time `formed`. -/
def channelRaw (s : State) (g c formed : Nat) (pcm : List (List Int)) : List Int :=
  let xs := (channelPath s g c (channelIn s g c pcm)).1
  (List.range (blockLen s g)).map fun n =>
    let t := formed + sampleTicks s g n
    if channelOn s g c (regAt s (pgAin g) Off.AIN_PDM_EN t) && decide (muted s g ≤ n) && decide (n < cutAt s g pcm) then gained (gainCode s g c t) (xs.getD n 0) else 0

/-- Samples of history kept before a block: the largest delay, the fixed latency and the interpolator's reach (R157). -/
def histLen : Nat := 280

/-- The history of a channel. -/
def chanHist (s : State) (g c : Nat) : List Int := sget (List.replicate histLen 0) s.au.hist (32 * g + c)

/-- The group takes a block of samples: gain, saturation, AIN_CNT_CLIP and the CLIP event (R153). Answers the samples of all 32
channels, history first. -/
def captureBlock (g formed : Nat) (pcm : List (List Int)) (s : State) : List (List Int) × State :=
  let raw := (List.range 32).map fun c => channelRaw s g c formed pcm
  let clips := raw.foldl (fun n xs => n + (xs.filter fun x => satBits 24 x != x).length) 0
  let full := (List.range 32).map fun c => chanHist s g c ++ ((raw.getD c []).map (satBits 24))
  let hist := (List.range 32).foldl
    (fun h c => sput h (32 * g + c) ((full.getD c []).drop (blockLen s g))) s.au.hist
  let line := (List.range 32).foldl (fun h c => sset [] h (32 * g + c) (channelPath s g c (channelIn s g c pcm)).2) s.au.line
  let s := { s with au := { s.au with hist := hist, line := line } } |> bump (pgAin g) Off.AIN_CNT_CLIP clips
  (full, if clips = 0 then s else raise (pgAin g) Evt.AIN_CLIP s)

/-! ## Beams (R157–R159) -/

/-- The channel of microphone m of array a. -/
def micChannel (s : State) (g a m : Nat) : Nat :=
  fld s (pgBf g) ((if m < 4 then Off.BF_MAP_LO else Off.BF_MAP_HI) + 8 * a) (8 * (m % 4)) 5

/-- x_m(n − 5 − D): the sample at an instant D/64 of a 48 kHz sample earlier, interpolated where it is not a whole number of
samples (R157). n counts from the block's first sample. -/
def delayed (xs : List Int) (fast : Bool) (n d : Nat) : Int :=
  let phases := if fast then 64 else 192
  let j := histLen + n - 5 - d / phases
  if d % phases = 0 then xs.getD j 0
  else Config.interpolate phases (phases - d % phases) ((List.range 8).map fun k => xs.getD (j + k - 4) 0)

/-- Is beam b of array a formed (BF_ARRAY_CFG)? -/
def beamOn (s : State) (g k : Nat) : Bool :=
  let off := Off.BF_ARRAY_CFG + 4 * (k / 8)
  flag s (pgBf g) off 0 && decide (k % 8 < fld s (pgBf g) off 4 4)

/-- Sample n of beam k = 8·a + b (R157), with the coefficients in force when it is formed (R159). -/
def beamSample (s : State) (g k formed : Nat) (chans : List (List Int)) (n : Nat) : Int :=
  let a := k / 8
  let mics := fld s (pgBf g) (Off.BF_ARRAY_CFG + 4 * a) 1 3 + 1
  let bank := fld s (pgBf g) Off.BF_BANK 0 1
  let term (m : Nat) : Int :=
    let c := regAt s (pgBf g) (Off.BF_COEF + 0x200 * bank + 0x100 * a + 0x20 * (k % 8) + 4 * m) (formed + sampleTicks s g n)
    signed 16 (fieldOf c 16 16) *
      delayed (chans.getD (micChannel s g a m) []) (blockLen s g == 192) n (fieldOf c 0 14)
  satBits 24 (rneShift (((List.range mics).map term).foldl (· + ·) 0) 14)

/-- The block of beam k. -/
def beamBlock (s : State) (g k formed : Nat) (chans : List (List Int)) : List Int :=
  if beamOn s g k then (List.range (blockLen s g)).map (beamSample s g k formed chans) else List.replicate (blockLen s g) 0

/-- Does the canceller serve beam k of group 0 (R179)? -/
def aecOn (s : State) (k : Nat) : Bool :=
  domOn s 3 && flag s (pgVo 0) Off.AEC_CFG 0 && flag s (pgVo 0) Off.AEC_CFG (8 + k) && beamOn s 0 k && decide (k < 16)

/-- Is beam k of group 0 a track of the pre-roll ring (R162, R163)? -/
def isTrack (s : State) (k : Nat) : Bool := flag s pgRing Off.RING_CFG (8 + k) && decide (k < 16)

/-- The echo-cancelled block of a beam, which the spec leaves to the adaptive filter: free values. -/
def cancelledBlock (idx len : Nat) : List Int :=
  (List.range len).map fun n => (Config.cancelled idx n).toInt

/-! ## The always-on regulator's mode (R146, R147) -/

/-- Which mode the regulator is to be in: true for HP (R147). A ring above 256 KiB takes HP also in the duty-cycled sub-mode, of which R147 says
that it runs in LP (log 66). -/
def regWant (s : State) : Bool :=
  if flag s pgPower Off.AON_REG_MANUAL 0 then flag s pgPower Off.AON_REG_MANUAL 1
  else
    decide (2 ≤ pwrState s) || pwrPhase s == 1 ||
      (!(s.pwr.dutyOn && !s.pwr.dutyHit) &&
        (decide (8 < ((List.range 16).filter fun c => channelOn s 0 c (rd s (pgAin 0) Off.AIN_PDM_EN)).length) ||
          decide (4 < ((List.range 16).filter fun k => beamOn s 0 k).length))) ||
      decide (16 < fld s pgRing Off.RING_CFG 0 6)

/-- The regulator starts to switch when it is not in the mode it is to be in. -/
def regUpdate (s : State) : State :=
  if !domOn s 1 || s.pwr.regSwitch.isSome || regWant s = flag s pgPower Off.AON_REG_STATUS 0 then s else regSwitchTo (regWant s) s

/-! ## The wake detector (R160–R162) -/

def detOf (s : State) (k : Nat) : DetSt := sget ⟨0, 0, false, 0, false, 0⟩ s.au.det k
def setDet (k : Nat) (d : DetSt) (s : State) : State := { s with au := { s.au with det := sput s.au.det k d } }

/-- One block of the detector of beam k with power p (R160). -/
def detStep (s : State) (g k : Nat) (power : Int) (d : DetSt) : DetSt :=
  let cfg := rd s (pgBf g) (Off.WD_CFG + 4 * (k / 8))
  let lim := rd s (pgBf g) (Off.WD_FLOOR + 4 * (k / 8))
  let p := power * 256
  let env0 := if d.started then d.env else p
  let floor0 := if d.started then d.floor else p
  let a : Int := if p > env0 then fieldOf cfg 16 8 else fieldOf cfg 24 8
  let env := env0 + rneShift ((p - env0) * a) 8
  let floor1 := if env < floor0 then env else if d.hot then floor0 else min (floor0 + (fieldOf lim 16 8 : Int) * 16) env
  let floor := max floor1 (-(fieldOf lim 0 12 : Int) * 256)
  let on := floor + (fieldOf cfg 0 8 : Int) * 1024
  let off := on - (fieldOf cfg 8 4 : Int) * 2048
  let hot := if !d.hot then decide (on ≤ env) else !decide (env < off)
  ⟨env, floor, hot, if hot then d.run + 1 else 0, true, d.overs⟩

/-- Does the run reach HIT_BLOCKS + 1 at this block (R160)? -/
def detHits (s : State) (g k : Nat) (d : DetSt) : Bool :=
  d.run == fld s (pgBf g) (Off.WD_CFG + 4 * (k / 8)) 12 4 + 1

/-- WD_STATE and WD_HOT show the detector of beam k. -/
def detShow (g k : Nat) (d : DetSt) (s : State) : State :=
  s |> wr (pgBf g) (Off.WD_STATE + 4 * k)
        (BitVec.ofNat 32 (wrap 16 (rneShift d.env 8) + 65536 * wrap 16 (rneShift d.floor 8)))
    |> setFld (pgBf g) Off.WD_HOT k 1 (ofBool d.hot)

/-- Is any enabled beam of the group hot (R161)? -/
def groupHot (s : State) (g : Nat) : Bool :=
  flag s (pgBf g) Off.CTRL 0 && (List.range 16).any fun k => beamOn s g k && flag s (pgBf g) Off.WD_HOT k

/-- Is any enabled beam of any powered group above its floor (R131, R161)? -/
def anyBeamHot (s : State) : Bool := (pageOn s (pgBf 0) && groupHot s 0) || (pageOn s (pgBf 1) && groupHot s 1)

/-- A hit: the event, the counter, and ENERGY for group 0 in Ante, where it also turns a duty window continuous, once the regulator's mode
allows the load (R140, R147, R161). -/
def detHit (g : Nat) (s : State) : State :=
  let s := s |> raise (pgBf g) Evt.BF_HIT |> bump (pgBf g) Off.WD_CNT_HITS 1
  if g = 0 ∧ pwrState s = 1 then
    let s := if s.pwr.dutyOn && s.pwr.dutyWindow && !s.pwr.dutyHit then
        { s with pwr := { s.pwr with dutyHit := true } } |> bump pgPower Off.PWR_CNT_DUTY_HITS 1 |> regUpdate
      else s
    wakeEvent 0 s
  else s

/-- The detector of every enabled beam of the group at a block end; `signal` gives the block a beam's detector takes (R162). -/
def detUpdate (g : Nat) (signal : Nat → List Int) (s : State) : State :=
  let was := groupHot s g
  let beams := (List.range 16).filter (beamOn s g)
  let rise := beams.any fun k =>
    !(detOf s (16 * g + k)).hot && (detStep s g k (clampInt (-2048) 0 (Config.blockPower (signal k))) (detOf s (16 * g + k))).hot
  let s := beams.foldl (fun s k =>
    let d := detStep s g k (clampInt (-2048) 0 (Config.blockPower (signal k))) (detOf s (16 * g + k))
    let s := s |> setDet (16 * g + k) d |> detShow g k d
    if detHits s g k d then detHit g s else s) s
  let s := bump (pgBf g) Off.WD_CNT_BLOCKS 1 s
  let s := if rise then raise (pgBf g) Evt.BF_HOT_RISE s else s
  if was && !groupHot s g then raise (pgBf g) Evt.BF_HOT_FALL s else s

/-- The detectors of a group start again from their next block (R160). -/
def detRestart (g : Nat) (s : State) : State :=
  { s with au := { s.au with det := s.au.det.filter fun e => e.1 / 16 != g } }
    |> wr (pgBf g) Off.WD_HOT 0

/-- On reaching Ante the run of every beam of group 0 restarts, and env, floor and hot are kept (R160). -/
def detAnte (s : State) : State :=
  { s with au := { s.au with det := s.au.det.map fun e => if e.1 / 16 = 0 then (e.1, { e.2 with run := 0 }) else e } }

/-! ## The pre-roll ring (R163, R164, R170, R171) -/

/-- The tracks of the ring: beams ascending, then raw 0, then raw 1 (R163), as beam numbers and 32 + channel. -/
def ringTracks (s : State) : List Nat :=
  let cfg := rd s pgRing Off.RING_CFG
  ((List.range 16).filter fun k => bitOf cfg (8 + k)) ++
    (if bitOf cfg 24 then [32 + fld s pgRing Off.RING_RAW_SEL 0 5] else []) ++
    (if bitOf cfg 25 then [32 + fld s pgRing Off.RING_RAW_SEL 8 5] else [])

/-- Bytes of a ring block. -/
def ringBlockSize (s : State) : Nat := (ringTracks s).length * (2 * blockLen s 0)

/-- CAP_BLOCKS (R163). -/
def ringCap (s : State) : Nat :=
  if ringBlockSize s = 0 then 0 else Nat.min 4096 (fld s pgRing Off.RING_CFG 0 6 * 16384 / ringBlockSize s)

/-- A 24-bit sample as a ring sample (R163). -/
def ringSample (x : Int) : List Byte := leBytes 2 (wrap 16 (satBits 16 (rneShift x 8)))

/-- The ring stores a block; at capacity the oldest is overwritten (R163, R164). -/
def ringStore (flags time : Nat) (planes : List (List Int)) (s : State) : State :=
  let b : RingBlk :=
    { idx := s.au.writeIdx, time, flags, tracks := planes.length, rate := ofBool (blockLen s 0 == 192)
      data := planes.flatMap fun xs => xs.flatMap ringSample }
  let held := s.au.ring ++ [b]
  let first := !ringLocked s && (rd s pgRing Off.RING_RELEASE_IDX).toNat == b.idx && s.au.relTime.isNone
  { s with au := { s.au with ring := held.drop (held.length - ringCap s), writeIdx := (s.au.writeIdx + 1) % 2 ^ 32
                             relTime := if first then some time else s.au.relTime } }
    |> bump pgRing Off.RING_CNT_BLOCKS 1

/-- A plane of a held block is written (R179). -/
def planeWrite (e : Nat × Nat × List Int) (b : RingBlk) : RingBlk :=
  let bs := e.2.2.flatMap ringSample
  if b.idx = e.1 then { b with data := b.data.take (e.2.1 * bs.length) ++ bs ++ b.data.drop (e.2.1 * bs.length + bs.length) } else b

/-- The cancelled tracks of the block before are written, one block late (R179). -/
def lateWrite (s : State) : State :=
  { s with au := { s.au with ring := s.au.late.foldl (fun r e => r.map (planeWrite e)) s.au.ring, late := [] } }

/-- Has a verdict of this beat unlocked the ring? A block that ends in the beat comes before it (R173). -/
def unlockedNow (s : State) : Bool :=
  match s.au.signed with
  | some g => g.beat == s.tt.beats && s.tt.run && g.locked && !ringLocked s
  | none => false

/-- The release starts at the oldest held block at the earliest (R167). -/
def releaseHeld (s : State) : State :=
  let i := (rd s pgRing Off.RING_RELEASE_IDX).toNat
  if ringAge s i ≤ ringAge s (ringOldest s) then s
  else wr pgRing Off.RING_RELEASE_IDX (BitVec.ofNat 32 (ringOldest s)) { s with au := { s.au with relTime := s.au.ring.head?.map (·.time) } }

/-- Horizon zeroisation at the end of block k while locked (R170). In the beat of an unlock it comes first, so a block it zeroises is not
released (R173). -/
def ringHorizon (s : State) : State :=
  let h := Nat.min (Nat.max 1 (fld s pgRing Off.RING_TIMING 0 16 / 4)) (ringCap s)
  let gone (b : RingBlk) : Bool := decide (h < ringAge s b.idx)
  if ringLocked s then ringZeroise gone s
  else if unlockedNow s then releaseHeld (ringZeroise gone s)
  else s

/-- The consume pointer while the Call engine does not run and no beam of group 0 is hot (R171). -/
def ringAdvance (s : State) : State :=
  if s.ce.running || groupHot s 0 then s
  else
    let goal := (s.au.writeIdx + (2 ^ 32 - fld s pgRing Off.RING_TIMING 16 12 / 4)) % 2 ^ 32
    let ahead := (goal + (2 ^ 32 - s.au.consume)) % 2 ^ 32
    if 0 < ahead ∧ ahead < 2 ^ 31 then { s with au := { s.au with consume := goal } } else s

/-! ## The end of a block -/

/-- The group delay of R153 in ticks: 18 samples at 16 kHz, 22 at 48 kHz. -/
def groupDelay (s : State) (g : Nat) : Nat := if blockLen s g = 192 then 458333 else 1125000

/-- The latest RTC step at or before time t (R58, R155). -/
def rtcAt (s : State) (t : Nat) : Nat :=
  let step := (rtcIncrement s).toNat
  let c := 64 * s.tt.kept + s.tt.frac
  (c - (c - (64 * t + 63) + (step - 1)) / step * step) / 64

/-- The time of a sample formed at time t: less the group delay, and in Ante an RTC step's (R155). -/
def sampleTime (s : State) (g t : Nat) : Nat := (if s.tt.keeping then rtcAt s t else t) - groupDelay s g

/-- Does the group deliver samples: enabled, and in the duty cycle inside a window or after a hit, once the regulator's mode allows
continuous listening (R139, R140, R147)? -/
def groupListens (s : State) (g : Nat) : Bool :=
  pagePresent s.part (pgAin g) && pageOn s (pgAin g) && flag s (pgAin g) Off.CTRL 0 && !quiesced s (pgAin g) &&
    (g != 0 || !s.pwr.dutyOn || s.pwr.dutyWindow || (s.pwr.dutyHit && !s.pwr.heldLoad))

/-- Are the samples formed at time t those that a window of the duty cycle discards while its microphones settle (R139)? -/
def settling (s : State) (g t : Nat) : Bool :=
  g == 0 && s.pwr.dutyOn && s.pwr.dutyWindow && !s.pwr.dutyHit && decide (t < s.pwr.dutyAt + dutyTicks s 21 4)

/-- A pending bank switch takes effect at the block boundary (R159). -/
def bankBoundary (g : Nat) (s : State) : State :=
  if s.au.bankPend.contains g then
    { s with au := { s.au with bankPend := s.au.bankPend.filter (· != g) } }
      |> setFld (pgBf g) Off.BF_BANK 0 1 (1 - fld s (pgBf g) Off.BF_BANK 0 1) |> setFlag (pgBf g) Off.BF_BANK 1 false
      |> raise (pgBf g) Evt.BF_BANK_SWITCHED |> bump (pgBf g) Off.BF_CNT_BANK_SWITCHES 1
  else s

/-- The canceller of the kth cancelled beam after a block: ERLE shows an unstated average, and a filter whose output has exceeded
its input by 6 dB for 16 blocks is reset (R179). -/
def aecTrack (k slot : Nat) (input output : List Int) (s : State) : State :=
  let f := fresh s
  let s := wr (pgVo 0) (Off.AEC_ERLE + 4 * slot) (BitVec.ofNat 32 (f.1 % 65536)) f.2
  let d := detOf s k
  let overs := if Config.blockPower input + 96 < Config.blockPower output then d.overs + 1 else 0
  if 16 ≤ overs then
    setDet k { d with overs := 0 } s |> bump (pgVo 0) Off.AEC_CNT_RESET 1 |> raise (pgVo 0) Evt.VO_AEC_RESET
  else setDet k { d with overs := overs } s

/-- The group 1 live block of the beams in BF_LIVE goes into the 64-block buffer (R168). -/
def liveStore (flags time : Nat) (planes : List (List Int)) (s : State) : State :=
  let b : RingBlk :=
    { idx := s.au.liveIdx, time, flags := flags + 128, tracks := planes.length, rate := ofBool (blockLen s 1 == 192)
      data := planes.flatMap fun xs => xs.flatMap ringSample }
  let held := s.au.live ++ [b]
  { s with au := { s.au with live := held.drop (held.length - 64), liveIdx := (s.au.liveIdx + 1) % 2 ^ 32 } }

/-- The record of a group's latest block takes HOT, as the beams stand at the block's end (R168). -/
def markHot (g : Nat) (s : State) : State :=
  let mark (i : Nat) (l : List RingBlk) : List RingBlk :=
    l.map fun b => if b.idx = i ∧ bitAt b.flags 4 = false then { b with flags := b.flags + 16 } else b
  if !groupHot s g then s
  else if g = 0 then { s with au := { s.au with ring := mark ((s.au.writeIdx + (2 ^ 32 - 1)) % 2 ^ 32) s.au.ring } }
  else { s with au := { s.au with live := mark ((s.au.liveIdx + (2 ^ 32 - 1)) % 2 ^ 32) s.au.live } }

/-- What a block's end leaves of the group's passing state: an interrupted block is written, and the first new block comes next, its
decimators empty; writes that acted in the block are no longer told apart; the canceller serves what it now is set to (R156, R159, R179). -/
def blockOver (g : Nat) (s : State) : State :=
  let mine (a : Nat) : Bool := a / 4096 == pageBase (pgAin g) / 4096 || a / 4096 == pageBase (pgBf g) / 4096
  { s with au := { s.au with
      interrupted := sset 0 s.au.interrupted g (sget 0 s.au.interrupted g - 1)
      line := if sget 0 s.au.interrupted g = 2 then (lineClear g s).au.line else s.au.line
      older := s.au.older.filter fun e => !mine e.1
      aec := if g = 0 then (List.range 16).filter (aecOn s) else s.au.aec
      endTt := if g = 0 then tnow s else s.au.endTt } }

/-- Which entry of AEC_ERLE belongs to beam k: its place in BEAM_MASK (R179). -/
def erleSlot (s : State) (k : Nat) : Nat := popcount k (fld s (pgVo 0) Off.AEC_CFG 8 16)

/-- AUDIO_BLOCK_END: a 4 ms block of group g ends. `pcm` holds each channel's samples as its decimator's filter or its TDM slot delivers
them (fewer than a block for one cut short), `formed` the Table Time at which its first sample was formed. In the order of R173: the
block write with its record, the detector, horizon zeroisation, the pointer, the Call engine's read; then a pending bank switch. -/
def execAudioBlockEnd (g formed : Nat) (pcm : List (List Int)) (s : State) : State :=
  if !groupListens s g || decide (1 < g) || settling s g formed then s
  else
    let cut := sget 0 s.au.interrupted g == 2
    let short := pcm.any fun xs => decide (xs.length < blockLen s g)
    let cap := captureBlock g formed pcm s
    let chans := cap.1
    let s := cap.2
    let bfRuns := flag s (pgBf g) Off.CTRL 0
    let aec := if g = 0 ∧ bfRuns then s.au.aec.filter (beamOn s 0) else []
    let base := s.freeIdx
    let s := { s with freeIdx := s.freeIdx + 32 }
    let whole (xs : List Int) : List Int := xs.take (cutAt s g pcm) ++ List.replicate (blockLen s g - cutAt s g pcm) 0
    let raw (k : Nat) : List Int := whole (if bfRuns then beamBlock s g k formed chans else [])
    let clean (k : Nat) : List Int := whole (cancelledBlock (base + k) (blockLen s g))
    let heard (k : Nat) : List Int := if aec.contains k && isTrack s k then clean k else raw k
    let ante := pwrState s == 1
    let flags := ofBool (aec.any (isTrack s)) + 2 * ofBool (ante && s.pwr.dutyOn && !s.pwr.dutyHit) + 4 * ofBool short +
      8 * ofBool ante + 32 * ofBool cut
    let time := sampleTime s g formed
    let records := g == 0 && flag s pgRing Off.RING_CTRL 0
    let mask := fld s (pgBf 1) Off.BF_LIVE 0 16
    let s :=
      if records then
        -- what the plane of a cancelled track holds until the canceller's write is not stated
        let planes := (ringTracks s).map fun t =>
          if 32 ≤ t then (chans.getD (t - 32) []).drop histLen
          else if aec.contains t then cancelledBlock (base + 16 + t) (blockLen s g) else raw t
        let owed := (ringTracks s).zipIdx.filter fun e => aec.contains e.1
        let idx := s.au.writeIdx
        let s := ringStore flags time planes (lateWrite s)
        { s with au := { s.au with late := owed.map fun e => (idx, e.2, clean e.1) } }
      else if g = 1 ∧ bfRuns ∧ mask ≠ 0 then liveStore flags time (((List.range 16).filter (bitAt mask)).map heard) s
      else s
    let s := if bfRuns && !short && !cut then detUpdate g heard s else s
    let s := if domOn s 3 then aec.foldl (fun s k => aecTrack k (erleSlot s k) (raw k) (clean k) s) s else s
    let s := markHot g s
    let s := if records then s |> ringHorizon |> ringAdvance else s
    let s := blockOver g s
    bankBoundary g (if records then ceAccept s else s)

/-! ## RESYNC and bank switches -/

/-- RESYNC of an input group (R156): the decimators are reset, and the block under way is to be completed with zeros. -/
def resyncGroup (g : Nat) (s : State) : State :=
  let s := { s with au := { s.au with refill := sput s.au.refill g (tnow s), interrupted := sset 0 s.au.interrupted g 2 } }
  s |> detRestart g |> bump (pgAin g) Off.AIN_CNT_RESYNC 1

/-- RESYNC_DONE: the filters have refilled, twice the group delay after the RESYNC (R156). -/
def execResyncDone (g : Nat) (s : State) : State :=
  match s.au.refill.find? fun e => e.1 == g with
  | some e =>
    if e.2 ≤ tnow s ∧ tnow s < e.2 + 2 * groupDelay s g then s
    else { s with au := { s.au with refill := s.au.refill.filter fun e => e.1 != g } } |> raise (pgAin g) Evt.AIN_RESYNC_DONE
  | none => s

/-- A bank switch is requested; a second request merges with a pending one (R159). -/
def bankRequest (g : Nat) (s : State) : State :=
  { s with au := { s.au with bankPend := g :: s.au.bankPend.filter (· != g) } } |> setFlag (pgBf g) Off.BF_BANK 1 true

/-- SWITCH: a write of BF_BANK.SWITCH. -/
def execSwitch (w : Func) (g : Nat) (s : State) : State :=
  access w (pgBf g) Off.BF_BANK 2 (bankRequest g) s

/-! ## The release port (R168, R489) -/

/-- The bytes of a slot that holds a block. -/
def slotBytes (b : RingBlk) : List Byte :=
  let head := leBytes 4 b.idx ++ leBytes 2 b.flags ++ leBytes 1 b.tracks ++ leBytes 1 b.rate ++ leBytes 8 b.time
  head ++ b.data ++ List.replicate (4096 - head.length - b.data.length) 0

/-- Is a ring block released: held, and at or after RING_RELEASE_IDX (R167)? -/
def ringReleased (s : State) (i : Nat) : Bool :=
  ringHolds s i && decide (ringAge s i ≤ ringAge s (rd s pgRing Off.RING_RELEASE_IDX).toNat)

/-- The block a release-port address names, if it may be served (R168). -/
def releasedBlock (s : State) (addr : Nat) : Option RingBlk :=
  if addr < 0x100000000000 then
    let i := addr / 4096 % 2 ^ 32
    if ringReleased s i then s.au.ring.find? fun b => b.idx == i else none
  else
    let j := (addr - 0x100000000000) / 4096 % 2 ^ 32
    match s.au.live.find? (fun b => b.idx == j), s.au.relTime with
    | some b, some t => if t ≤ b.time then some b else none
    | _, _ => none

/-- May a reader use the port: the management cores (none), or a context of a tenant in READERS (R489)? -/
def mayHear (s : State) (tenant : Option Nat) : Bool :=
  match tenant with
  | none => true
  | some t => flag s pgMb Off.MB_RING_POLICY (16 + t % 16)

/-- A read of a slot: an error while the ring is locked, the slot, or its header with NOT_HELD set, whose other fields the spec
does not give (R168). Hand history records the slots that a queue reads, and none that the management cores read (R24, R558). -/
def releaseRead (tenant : Option Nat) (island addr : Nat) (s : State) : Option (List Byte) × State :=
  if !mayHear s tenant then (none, s)
  else if ringLocked s then (none, bump pgRing Off.RING_CNT_LOCKED_READS 1 s)
  else match releasedBlock s addr with
    | some b =>
      (some (slotBytes b), if tenant.isNone then s else hhCapture 0x23 island 0 ((slotBytes b).take (16 + b.data.length)) s)
    | none =>
      let f := fresh s
      let idx := if addr < 0x100000000000 then addr / 4096 % 2 ^ 32 else (addr - 0x100000000000) / 4096 % 2 ^ 32
      let head := leBytes 4 idx ++ leBytes 2 0x40 ++ leBytes 2 f.1 ++ leBytes 8 (f.1 / 65536)
      (some (head ++ List.replicate 4080 0), f.2)

/-- A read of the release port by the management cores (none) or by a context of a tenant is answered. -/
def releaseAnswer (tenant : Option Nat) (addr : Nat) (s : State) : State :=
  let r := releaseRead tenant (if tenant.isNone then 78 else 68) addr s
  emit (.released r.1) r.2

/-- The reads of a beat come after its blocks, relocks and sign-offs (R173). -/
def readsEnd (s : State) : State :=
  s.au.asked.foldl (fun s e => releaseAnswer e.1 e.2 s) { s with au := { s.au with asked := [] } }

/-- RELEASE_PORT_READ: a request of the management cores (none) or of a context of a tenant reads a slot, at the end of the beat while the
beat runs. -/
def execReleasePortRead (tenant : Option Nat) (addr : Nat) (s : State) : State :=
  if s.tt.run then { s with au := { s.au with asked := s.au.asked ++ [(tenant, addr)] } } else releaseAnswer tenant addr s

/-! ## Voice out (R174–R178) -/

def voOf (s : State) (p : Nat) : VoSt := if p = 0 then s.au.vo0 else s.au.vo1
def setVo (p : Nat) (v : VoSt) (s : State) : State :=
  if p = 0 then { s with au := { s.au with vo0 := v } } else { s with au := { s.au with vo1 := v } }

/-- START: PLAYING is set, and source A begins in the first frame at or after the launch boundary plus 0.5 µs (R176). -/
def voStart (p : Nat) (s : State) : State :=
  setVo p { voOf s p with launches := (voOf s p).launches ++ [(beatNo s, true)] } s |> setFlag (pgVo p) Off.VO_STATE 0 true

/-- STOP: takes effect from the first such frame after its launch (R176). -/
def voStop (p : Nat) (s : State) : State :=
  setVo p { voOf s p with launches := (voOf s p).launches ++ [(beatNo s, false)] } s

/-- One source's sample at an attenuation code, rounded to nearest even at the slot's valid bits (R175). -/
def attenuated (code bits : Nat) (x : Int) : Int :=
  if 128 ≤ code then 0
  else
    let g : Int := if code = 0 then (2 ^ 30 : Nat) else Config.attenTable code
    rneShift (x * g) (62 - bits)

/-- A frame's slot values: both sources attenuated, added and saturated to the valid bits (R175). -/
def mixFrame (s : State) (p : Nat) (a b : List Int) : List Int :=
  let slots := if flag s (pgVo p) Off.VO_CFG 0 then fld s (pgVo p) Off.VO_CFG 1 3 + 1 else 2
  let bits := if flag s (pgVo p) Off.VO_CFG 4 then 24 else 16
  let g := rd s (pgVo p) Off.VO_GAIN
  (List.range slots).map fun i =>
    if bitOf g 16 then 0
    else satBits bits (attenuated (fieldOf g 0 8) bits (a.getD i 0) + attenuated (fieldOf g 8 8) bits (b.getD i 0))

/-- Is a frame whose FS edge leaves the pin at time t at or after a launch beat boundary plus 0.5 µs (R176)? -/
def frameDue (launch t : Nat) : Bool := decide (64 * launch + 500 ≤ t)

/-- Source A begins in the frame at time t (R176). -/
def voBegin (p t : Nat) (s : State) : State :=
  setVo p { voOf s p with sounding := true, dry := false } s |> setFlag (pgVo p) Off.VO_STATE 0 true
    |> wr64 (pgVo p) Off.VO_START_TT_LO Off.VO_START_TT_HI t |> raise (pgVo p) Evt.VO_STARTED

/-- A STOP takes effect: FIFO A is flushed and PLAYING clears, unless a START launched after it still waits for its frame (R176). -/
def voEnd (p : Nat) (s : State) : State :=
  let v := voOf s p
  setVo p { v with sounding := false, fifoA := [], partA := [], lastA := false } s
    |> setFlag (pgVo p) Off.VO_STATE 0 (v.launches.any (·.2))

/-- The launched STARTs and STOPs that are due take effect in the frame at time t, in the order of their launches (R176). -/
def voEdges (p t : Nat) (s : State) : State :=
  let v := voOf s p
  let due := v.launches.filter fun e => frameDue e.1 t
  due.foldl (fun s e => if e.2 then voBegin p t s else voEnd p s) (setVo p { v with launches := v.launches.filter fun e => !frameDue e.1 t } s)

/-- Source A's frame: the next one held, or zero with an underrun counted; after the stream's last block play ends (R177). -/
def voSourceA (p : Nat) (s : State) : List Int × State :=
  let v := voOf s p
  if !v.sounding then ([], s)
  else match v.fifoA with
    | [] =>
      if v.lastA then
        ([], setVo p { v with sounding := false, lastA := false } s
          |> setFlag (pgVo p) Off.VO_STATE 0 false |> raise (pgVo p) Evt.VO_DRAINED)
      else
        let s := setVo p { v with dry := true } s |> bump (pgVo p) Off.VO_CNT_UNDERRUN 1
        ([], if v.dry then s else raise (pgVo p) Evt.VO_UNDERRUN s)
    | a :: rest =>
      if rest.isEmpty && v.lastA then
        (a, setVo p { v with fifoA := [], sounding := false, lastA := false, dry := false } s
          |> setFlag (pgVo p) Off.VO_STATE 0 false |> raise (pgVo p) Evt.VO_DRAINED)
      else (a, setVo p { v with fifoA := rest, dry := false } s)

/-- VO_FRAME: a frame of port p is formed, its FS edge at Table Time t (R174–R178). -/
def execVoFrame (p t : Nat) (s : State) : State :=
  if decide (1 < p) || !enabled s (pgVo p) then s
  else
    let s := voEdges p t s
    let r := voSourceA p s
    let a := r.1
    let s := r.2
    let v := voOf s p
    let b := v.fifoB.headD []
    let out := mixFrame s p a b
    setVo p { v with fifoB := v.fifoB.drop 1, played := out } s
      |> bump (pgVo p) Off.VO_CNT_FRAMES 1 |> emit (.voFrame p out)

/-- Bytes that FIFO A or B of a port holds, at one 32-bit sample per slot (R175). -/
def voLevel (s : State) (p : Nat) (srcA : Bool) : Nat :=
  let v := voOf s p
  let n := 4 * (mixFrame s p [] []).length
  if srcA then n * v.fifoA.length + v.partA.length else n * v.fifoB.length + v.partB.length

/-- Does a 32 KiB FIFO have room for as many more bytes (R175)? -/
def voRoom (s : State) (p : Nat) (srcA : Bool) (bytes : Nat) : Bool := decide (voLevel s p srcA + bytes ≤ 32768)

/-- Bytes of a stream block into FIFO A or B, frame by frame, a frame's part waiting for the rest; `last` marks the stream's last block
(R175, R177). -/
def voPush (p : Nat) (srcA last : Bool) (bs : List Byte) (s : State) : State :=
  let n := (mixFrame s p [] []).length
  let v := voOf s p
  let all := (if srcA then v.partA else v.partB) ++ bs
  let frames := (List.range (all.length / (4 * n))).map fun f =>
    (List.range n).map fun i => signed 32 (ofLeBytes ((all.drop (4 * (f * n + i))).take 4))
  let part := all.drop (all.length / (4 * n) * (4 * n))
  if srcA then setVo p { v with fifoA := v.fifoA ++ frames, partA := part, lastA := last } s
  else setVo p { v with fifoB := v.fifoB ++ frames, partB := part } s

/-! ## Register writes with conditions -/

/-- A TDM input's field is accepted: 2 to 8 slots, and 2 with I2S (AIN_TDM_CFG). -/
def tdmOk (f : Nat) : Bool := bitsAt f 1 3 != 0 && (!bitAt f 4 || bitsAt f 1 3 == 1)

/-- A write to an input-group page register. -/
def ainRegWrite (g off : Nat) (v : Word) (s : State) : State :=
  let p := pgAin g
  let no := refuse p Off.AIN_CNT_CFG_REFUSED s
  if off = Off.AIN_CFG then
    if flag s p Off.CTRL 0 || (bitOf v 2 && fieldOf v 0 1 == 0) then no
    else plainWrite p off v (if bitOf v 2 = flag s p off 2 then s else lineClear g s)
  else if off = Off.AIN_TDM_CFG then
    if flag s p Off.CTRL 0 || !tdmOk (fieldOf v 0 8) || !tdmOk (fieldOf v 8 8) then no else plainWrite p off v s
  else if off = Off.AIN_PDM_EN ∨ (Off.AIN_GAIN ≤ off ∧ off < Off.AIN_GAIN + 32) then sampleWrite p off v s
  else plainWrite p off v s

/-- A write to a beamformer page register. A BF_LIVE with more than 8 bits set, for which R168 gives no action, is refused and counted (log 66). -/
def bfRegWrite (g off : Nat) (v : Word) (s : State) : State :=
  let p := pgBf g
  let no := refuse p Off.BF_CNT_CFG_REFUSED s
  if off = Off.BF_ARRAY_CFG ∨ off = Off.BF_ARRAY_CFG + 4 then
    if flag s p Off.CTRL 0 || decide (fieldOf v 1 3 < 3) || decide (8 < fieldOf v 4 4) || (bitOf v 0 && fieldOf v 4 4 == 0) then no
    else plainWrite p off v s
  else if Off.BF_MAP_LO ≤ off ∧ off < Off.BF_BANK then (if flag s p Off.CTRL 0 then no else plainWrite p off v s)
  else if off = Off.BF_BANK then (if bitOf v 1 then bankRequest g s else s)
  else if off = Off.BF_LIVE ∧ 8 < popcount 16 v.toNat then no
  else if off = Off.WD_CFG ∨ off = Off.WD_CFG + 4 then
    if fieldOf v 16 8 == 0 || fieldOf v 24 8 == 0 then no else plainWrite p off v s
  else if Off.BF_COEF ≤ off ∧ off < Off.BF_COEF + 0x400 then sampleWrite p off v s
  else plainWrite p off v s

/-- A write to a ring page register. -/
def ringRegWrite (off : Nat) (v : Word) (s : State) : State :=
  let no := refuse pgRing Off.RING_CNT_CFG_REFUSED s
  if off = Off.RING_CTRL then ringCtrl (bitOf v 0) (bitOf v 1) s
  else if off = Off.RING_CFG then
    if flag s pgRing Off.RING_CTRL 0 || decide (8 < popcount 16 (fieldOf v 8 16)) || fieldOf v 8 18 == 0 ||
        fieldOf v 0 6 == 0 || decide (32 < fieldOf v 0 6) then no
    else plainWrite pgRing off v s
  else if off = Off.RING_RELEASE ∧ fieldOf v 16 16 = 0 then no
  else plainWrite pgRing off v s

/-- A write to a voice-out page register. A VO_CFG with TDM 1 and SLOTS 0b000, and an AEC_CFG that names more than 8 beams, for which R174 and
R179 give no action, are refused and counted (log 66). -/
def voRegWrite (p off : Nat) (v : Word) (s : State) : State :=
  let no := refuse (pgVo p) Off.VO_CNT_CFG_REFUSED s
  if off = Off.VO_CFG then
    if flag s (pgVo p) Off.CTRL 0 || fieldOf v 1 3 == 0 || (!bitOf v 0 && fieldOf v 1 3 != 1) || fieldOf v 5 2 == 3 then no
    else plainWrite (pgVo p) off v s
  else if off = Off.AEC_CFG ∧ 8 < popcount 16 (fieldOf v 8 16) then no
  else plainWrite (pgVo p) off v s

end Sys2Proof.Machine
end

