-- ==== Sys2Proof/Machine/QueueState.lean ====
section
/-! DEFINITION. A stream queue's record and fields (R408–R410, R419), which every producer of a PUT queue reads. -/
namespace Sys2Proof.Machine

/-- A queue record at its reset values (R419), idle. -/
def Queue.idle : Queue :=
  { ctrl := 0x7800, endpoint := 0, cause := 0, listBase := 0, stepBase := 0, stepPos := 0, head := 0, avail := 0, offset := 0
    skew := 0x40, seq := 0, stall := 0, subs := 0, fold := 0, db := [0, 0, 0], cursor := 0, desc := none, flight := [], nextId := 0
    openBlocks := [], segment := 0, pairDone := 0, sent := 0, ended := 0, lastEnd := none, launch := none, scaleLate := false
    marks := [], rearm := none, stopping := false, before := 0, xlat := false, pri := none, closed := false, starved := false
    finished := false, acc := [], accDone := false, leave := false, mc := [], xpose := [], since := none, resumed := none, accFrame := none }

def queueOf (s : State) (q : Nat) : Queue := sget Queue.idle s.queues q
def setQueue (q : Nat) (r : Queue) (s : State) : State := { s with queues := sset Queue.idle s.queues q r }
def updQueue (q : Nat) (f : Queue → Queue) (s : State) : State := setQueue q (f (queueOf s q)) s

/-- The context of a queue, and the MD whose engine runs it (R408). -/
def queueCtx (q : Nat) : Nat := q / 256
def queueMd (s : State) (q : Nat) : Nat := queueCtx q % Nat.max 1 s.part.stackCount

/-- STATE of a record: 0 IDLE, 1 ACTIVE, 2 WAIT_REARM, 3 HALTED, 4 FAULTED, 5 PARKED. -/
def Queue.state (r : Queue) : Nat := fieldOf r.ctrl 0 4
def Queue.withState (r : Queue) (n : Nat) : Queue := { r with ctrl := putField r.ctrl 0 4 n }
def Queue.trump (r : Queue) : Bool := bitOf r.ctrl 4
def Queue.isPut (r : Queue) : Bool := bitOf r.ctrl 5
def Queue.mcast (r : Queue) : Bool := bitOf r.ctrl 6
def Queue.outstanding (r : Queue) : Nat := fieldOf r.ctrl 12 6 + 1
def Queue.epType (r : Queue) : Nat := r.endpoint / 256
def Queue.epIndex (r : Queue) : Nat := r.endpoint % 256

/-- May the engine act on block i (R413)? -/
def Queue.available (r : Queue) (i : Nat) : Bool :=
  let d := (r.avail + (2 ^ 32 - i % 2 ^ 32)) % 2 ^ 32
  r.avail == 0 || (decide (1 ≤ d) && decide (d ≤ 2 ^ 31))

/-- The record that a doorbell or a response acts on: that of a parked queue as if in its state before (R432). -/
def Queue.awake (r : Queue) : Queue := if r.state = 5 then r.withState r.before else r

/-- Does a PUT queue take data now (R410)? -/
def putOpen (s : State) (q : Nat) : Bool :=
  let r := queueOf s q
  r.state == 1 && r.isPut && !r.finished && r.available r.head && decide (r.flight.length < r.outstanding) && ctxExists s (queueCtx q)

/-- Is a queue's endpoint the producer (R409)? -/
def namesSource (r : Queue) (src : PutSource) : Bool :=
  match src with
  | .csiLine p k => r.endpoint == 0x300 + 4 * p + k
  | .csiDesc p k => r.endpoint == 0x300 + 4 * p + k
  | .ispLine n o => r.endpoint == 0x400 + 8 * n + o
  | .ispDesc n o => r.endpoint == 0x400 + 8 * n + o
  | .ispStat n i => r.endpoint == 0x500 + 16 * n + i
  | .tileRecord t _ => r.endpoint == 0x100 + t || r.endpoint == 0x1FF
  | .stemRecord d => r.endpoint == 0x200 + d
  | .tileOutput t => r.endpoint == 0x100 + t
  | .mgmt _ _ => r.endpoint == 0x800

/-- Does a PUT queue admit an item of a producer (R410)? -/
def putAdmits (s : State) (src : PutSource) (q : Nat) (owner : Option Nat) : Bool :=
  let r := queueOf s q
  r.isPut && !r.mcast && namesSource r src && ctxExists s (queueCtx q) && (owner.isNone || owner == some (queueCtx q))

/-- Is a PUT queue halted for a producer: it takes no data now, or does not admit the producer's (R410)? -/
def queueHalted (s : State) (src : PutSource) (q : Nat) : Bool := !(putOpen s q && putAdmits s src q none)

end Sys2Proof.Machine
end

