-- ==== Sys2Proof/Machine/Pixels.lean ====
section
/-! DEFINITION. Pixels of the CSI-2 data types: how a line's bytes hold them, and pad pixels (R183, R187, R188). A pixel is the list
of its components as sent: one code for RAW and byte streams, B G R for RGB888, chroma then Y for YUV422 (the packing of the
MIPI CSI-2 standard that R181 names). -/
namespace Sys2Proof.Machine

/-- Bit depth of a RAW type, 8 for the others. -/
def dtDepth (dt : Nat) : Nat :=
  match dt with
  | 0x2B => 10 | 0x2C => 12 | 0x2D => 14 | 0x2E => 16 | _ => 8

/-- Bytes and pixels of a pixel group (R183). -/
def dtGroup (dt : Nat) : Nat × Nat :=
  match dt with
  | 0x1E => (4, 2) | 0x24 => (3, 1) | 0x2B => (5, 4) | 0x2C => (3, 2) | 0x2D => (7, 4) | 0x2E => (2, 1) | _ => (1, 1)

/-- Is a code one of the accepted data types (R183)? -/
def dtOk (dt : Nat) : Bool :=
  [0x12, 0x1E, 0x24, 0x2A, 0x2B, 0x2C, 0x2D, 0x2E].contains dt || (decide (0x30 ≤ dt) && decide (dt ≤ 0x37))

/-- May the type go to the pipeline (R183)? -/
def dtImage (dt : Nat) : Bool := dtOk dt && dt != 0x12 && decide (dt < 0x30)

/-- Has the type a CFA (R212): the RAW types. -/
def dtRaw (dt : Nat) : Bool := decide (0x2A ≤ dt) && decide (dt ≤ 0x2E)

/-- The pixels of one group. -/
def unpackGroup (dt : Nat) (g : List Byte) : List (List Nat) :=
  let b (i : Nat) : Nat := (g.getD i 0).toNat
  match dt with
  | 0x1E => [[b 0, b 1], [b 2, b 3]]
  | 0x24 => [[b 0, b 1, b 2]]
  | 0x2B => (List.range 4).map fun i => [b i * 4 + bitsAt (b 4) (2 * i) 2]
  | 0x2C => [[b 0 * 16 + b 2 % 16], [b 1 * 16 + b 2 / 16]]
  | 0x2D => (List.range 4).map fun i => [b i * 64 + bitsAt (b 4 + 256 * b 5 + 65536 * b 6) (6 * i) 6]
  | 0x2E => [[b 0 * 256 + b 1]]
  | _ => [[b 0]]

/-- The bytes of one group of pixels. -/
def packGroup (dt : Nat) (ps : List (List Nat)) : List Byte :=
  let c (i k : Nat) : Nat := (ps.getD i []).getD k 0
  let bs : List Nat :=
    match dt with
    | 0x1E => [c 0 0, c 0 1, c 1 0, c 1 1]
    | 0x24 => [c 0 0, c 0 1, c 0 2]
    | 0x2B => (List.range 4).map (fun i => c i 0 / 4) ++
        [((List.range 4).map fun i => c i 0 % 4 * 4 ^ i).foldl (· + ·) 0]
    | 0x2C => [c 0 0 / 16, c 1 0 / 16, c 0 0 % 16 + 16 * (c 1 0 % 16)]
    | 0x2D =>
      let low := ((List.range 4).map fun i => c i 0 % 64 * 64 ^ i).foldl (· + ·) 0
      (List.range 4).map (fun i => c i 0 / 64) ++ [low % 256, low / 256 % 256, low / 65536]
    | 0x2E => [c 0 0 / 256, c 0 0 % 256]
    | _ => [c 0 0]
  bs.map (BitVec.ofNat 8)

/-- The whole pixel groups of a packet's payload (R187). -/
def unpackLine (dt : Nat) (bs : List Byte) : List (List Nat) :=
  let g := (dtGroup dt).1
  (List.range (bs.length / g)).flatMap fun i => unpackGroup dt ((bs.drop (i * g)).take g)

/-- The bytes of a line of pixels, the last group completed with zero codes. -/
def packLine (dt : Nat) (ps : List (List Nat)) : List Byte :=
  let n := (dtGroup dt).2
  (List.range (ceilDiv ps.length n)).flatMap fun i => packGroup dt ((ps.drop (i * n)).take n)

/-- The pad pixel (R188). -/
def padPixel (dt pad : Nat) : List Nat :=
  if dtRaw dt then [pad % 2 ^ dtDepth dt]
  else if dt = 0x1E then [pad / 256 % 256, pad % 256]
  else if dt = 0x24 then [pad % 256, pad % 256, pad % 256]
  else [pad % 256]

/-- A line made exactly `width` pixels long (R187). -/
def fitLine (dt pad width : Nat) (ps : List (List Nat)) : List (List Nat) :=
  (List.range width).map fun x => if x < ps.length then ps.getD x [] else padPixel dt pad

/-- A whole pad line. -/
def padLine (dt pad width : Nat) : List (List Nat) := fitLine dt pad width []

end Sys2Proof.Machine
end

