-- ==== Sys2Proof/Machine/Image.lean ====
section
/-! DEFINITION. The shared image pipelines: line buffers, the line scheduler, the processing stages, outputs, statistics
(R203–R224). -/
namespace Sys2Proof.Machine

def pgIsp (n : Nat) : Page := ⟨.isp, n⟩

/-- A pipeline at reset. -/
def IspSt.empty : IspSt :=
  { asked := false, frames := [], ending := [], slice := none, freed := none, count := 0, outIds := [], outSeq := [], outBuf := [], sent := []
    descs := [], stats := [], tone := [], coef := [] }

def ispOf (s : State) (n : Nat) : IspSt := sget IspSt.empty s.isp n
def setIsp (n : Nat) (p : IspSt) (s : State) : State := { s with isp := sset IspSt.empty s.isp n p }

abbrev Rgb : Type := Nat × Nat × Nat
def Rgb.at (c : Nat) (p : Rgb) : Nat := if c = 0 then p.1 else if c = 1 then p.2.1 else p.2.2
def sat16 (x : Int) : Nat := (clampInt 0 65535 x).toNat

/-! ## The latched configuration (R211) -/

/-- A field of a register that a frame latched. -/
def IspFrame.fld (s : State) (n : Nat) (f : IspFrame) (off lo w : Nat) : Nat :=
  let a := pageBase (pgIsp n) + off
  fieldOf (sget (resetVal s.part a) f.regs a) lo w

/-- The page's registers that differ from reset. -/
def ispLatch (s : State) (n : Nat) : List (Nat × Word) :=
  s.regs.filter fun e => decide (pageBase (pgIsp n) ≤ e.1) && decide (e.1 < pageBase (pgIsp n) + 0x1000)

/-- BUF_LINES of a frame's input, by the SEGMENTS that the frame latched (R205, R211). -/
def IspFrame.bufLines (s : State) (n : Nat) (f : IspFrame) : Nat :=
  f.fld s n (Off.ISP_IN_CFG + 0x10 * f.input) 8 7 / Nat.max 1 (ceilDiv f.width 4096)

/-! ## The stages (R212, R213) -/

/-- The index that a window tap takes at an edge of an axis that holds at least `step` pixels: the nearest of the same CFA colour inside
the frame (R212). -/
def edgeTap (step hi : Nat) (i : Int) : Nat :=
  if i < 0 then (if step = 1 then 0 else (i % 2).toNat)
  else if (hi : Int) ≤ i then (if step = 1 then hi - 1 else if ((hi : Int) - 1 - i) % 2 = 0 then hi - 1 else hi - 2)
  else i.toNat

/-- What the stages need of a frame: its parameter set, CFA, geometry with the bottom edge at a cut (R221). -/
structure StageCtx where
  set : Nat
  mono : Bool
  cfa : Nat
  width : Nat
  bottom : Nat
deriving DecidableEq, Repr

/-- The colour a CFA captures at a position: 0 R, 1 G, 2 B (RGGB, GRBG, GBRG, BGGR). -/
def cfaColour (cfa p : Nat) : Nat :=
  match cfa with
  | 0 => if p = 0 then 0 else if p = 3 then 2 else 1
  | 1 => if p = 1 then 0 else if p = 2 then 2 else 1
  | 2 => if p = 2 then 0 else if p = 1 then 2 else 1
  | _ => if p = 3 then 0 else if p = 0 then 2 else 1

/-- The pixel that a window tap takes: itself, or the nearest of the same CFA colour inside the frame. In a frame of one row or one column
that may be a green pixel of the other kind of row, or there may be none (R212, log 31). -/
def StageCtx.tap (c : StageCtx) (x y : Int) : Option (Nat × Nat) :=
  if c.mono then some (edgeTap 1 c.width x, edgeTap 1 c.bottom y)
  else
    let px := (x % 2).toNat
    let py := (y % 2).toNat
    let fits (p q : Nat) : Bool := decide (p < c.width) && decide (q < c.bottom)
    if fits px py then some (edgeTap 2 c.width x, edgeTap 2 c.bottom y)
    else if fits (1 - px) (1 - py) && cfaColour c.cfa (px + 2 * py) == 1 && cfaColour c.cfa (1 - px + 2 * (1 - py)) == 1 then
      some (edgeTap 2 c.width (x - 1), edgeTap 2 c.bottom (y - 1))
    else none

/-- The value of a tap; where the frame holds no pixel of its colour the spec states none, and it is a free value. -/
def tapValue (s : State) (t : Option (Nat × Nat)) (get : Nat → Nat → Nat) : Nat :=
  match t with
  | some p => get p.1 p.2
  | none => (Config.freeValue s.freeIdx).toNat % 65536

def stageCtx (s : State) (n : Nat) (f : IspFrame) : StageCtx :=
  let cfg := Off.ISP_IN_CFG + 0x10 * f.input
  { set := f.fld s n cfg 1 2, mono := f.fld s n cfg 3 3 == 4, cfa := f.fld s n cfg 3 3, width := f.width
    bottom := f.cut.getD f.height }

/-- A field of the frame's parameter set. -/
def IspFrame.par (s : State) (n : Nat) (f : IspFrame) (off lo : Nat) : Nat :=
  f.fld s n (off + 0x40 * (stageCtx s n f).set) lo 16

/-- Component of a held line. -/
def rawAt (f : IspFrame) (x y : Nat) : Rgb := (f.lines.getD y []).getD x (0, 0, 0)

/-- Stage 1: black level (R213). -/
def stage1 (s : State) (n : Nat) (f : IspFrame) (x y : Nat) : Nat :=
  let p := if (stageCtx s n f).mono then 0 else x % 2 + 2 * (y % 2)
  (rawAt f x y).1 - f.par s n (if p < 2 then Off.ISP_SET_BL01 else Off.ISP_SET_BL23) (16 * (p % 2))

/-- Is a pixel on the set's static defect list, with the list in use? -/
def listedDefect (s : State) (n : Nat) (f : IspFrame) (x y : Nat) : Bool :=
  let set := (stageCtx s n f).set
  f.fld s n (Off.ISP_SET_DPC + 0x40 * set) 1 1 == 1 &&
    f.tone.any fun e => decide (0x4000 + 256 * set ≤ e.1) && decide (e.1 < 0x4000 + 256 * set + 256) &&
      e.2 != 0xFFFFFFFF && e.2.toNat == x + 65536 * y

/-- Stage 2, static part: a listed pixel is the mean of its two same-colour horizontal neighbours (R213). -/
def stage2s (s : State) (n : Nat) (f : IspFrame) (x y : Nat) : Nat :=
  let c := stageCtx s n f
  let step := if c.mono then 1 else 2
  if listedDefect s n f x y then
    (rneDiv (stage1 s n f (edgeTap step c.width ((x : Int) - step)) y + stage1 s n f (edgeTap step c.width (x + step)) y) 2).toNat
  else stage1 s n f x y

/-- Stage 2: the dynamic part on pixels not listed (R213). Of a neighbour whose line has not arrived, which the windows of stage 3 reach below
the two lines that R207 waits for, the spec states no value (log 31). -/
def stage2 (s : State) (n : Nat) (f : IspFrame) (x y : Nat) : Nat :=
  let c := stageCtx s n f
  let step := if c.mono then 1 else 2
  let v := stage2s s n f x y
  if f.fld s n (Off.ISP_SET_DPC + 0x40 * c.set) 0 1 = 0 || listedDefect s n f x y then v
  else
    let th := f.par s n Off.ISP_SET_DPC 16
    let ds : List (Int × Int) := [(-1, -1), (0, -1), (1, -1), (-1, 0), (1, 0), (-1, 1), (0, 1), (1, 1)]
    let nb := ds.map fun d =>
      tapValue s ((c.tap (x + d.1 * step) (y + d.2 * step)).filter fun p => decide (p.2 < f.lines.length)) (stage2s s n f)
    let mx := nb.foldl Nat.max 0
    let mn := nb.foldl Nat.min 65535
    if mx + th < v then mx else if v + th < mn then mn else v

/-- Full-range BT.601 from Y, U and V of 16 bits, with coefficients of 14 fraction bits (R213, stage 3). -/
def yuvToRgb (y u v : Nat) : Rgb :=
  let y : Int := y
  let u : Int := (u : Int) - 32768
  let v : Int := (v : Int) - 32768
  (sat16 (y + rneShift (22970 * v) 14), sat16 (y + rneShift (-5638 * u - 11700 * v) 14), sat16 (y + rneShift (29032 * u) 14))

/-- Stage 3 (R213): demosaic with the captured colour unchanged, copy for mono, conversion for YUV. -/
def stage3 (s : State) (n : Nat) (f : IspFrame) (x y : Nat) : Rgb :=
  let c := stageCtx s n f
  if !dtRaw f.dt then
    let p := rawAt f x y
    if f.dt = 0x1E then yuvToRgb p.1 p.2.1 p.2.2 else p
  else if c.mono then
    let v := stage2 s n f x y
    (v, v, v)
  else
    let taps := (List.range 25).map fun k =>
      tapValue s (c.tap ((x : Int) + (k % 5 : Nat) - 2) ((y : Int) + (k / 5 : Nat) - 2)) (stage2 s n f)
    let d := Config.demosaic (4 * c.cfa + x % 2 + 2 * (y % 2)) taps
    let own := stage2 s n f x y
    let col := cfaColour c.cfa (x % 2 + 2 * (y % 2))
    (if col = 0 then own else Nat.min 65535 d.1, if col = 1 then own else Nat.min 65535 d.2.1,
      if col = 2 then own else Nat.min 65535 d.2.2)

/-- A tone point of a channel: its written value or the identity (R223). -/
def tonePoint (f : IspFrame) (set ch p : Nat) : Nat :=
  fieldOf (sget (BitVec.ofNat 32 (Nat.min (256 * p) 65535)) f.tone (set * 4096 + ch * 512 + p)) 0 16

/-- Stage 6: a tone curve (R213). -/
def stage6 (f : IspFrame) (set ch o : Nat) : Nat :=
  let k := o / 256
  let fr := o % 256
  (rneDiv (tonePoint f set ch k * (256 - fr) + tonePoint f set ch (k + 1) * fr : Nat) 256).toNat

/-- Stages 4 to 6 (R213). -/
def stage456 (s : State) (n : Nat) (f : IspFrame) (p : Rgb) : Rgb :=
  let c := stageCtx s n f
  if dtRaw f.dt && c.mono then
    let v := stage6 f c.set 1 p.2.1
    (v, v, v)
  else
    let g (k : Nat) : Int := f.par s n (if k < 2 then Off.ISP_SET_GAIN_RG else Off.ISP_SET_GAIN_B) (16 * (k % 2))
    let w (k : Nat) : Int := sat16 (rneShift ((Rgb.at k p : Int) * g k) 12)
    let m (i j : Nat) : Int := signed 16 (f.par s n (Off.ISP_SET_C00_C01 + 4 * ((3 * i + j) / 2)) (16 * ((3 * i + j) % 2)))
    let o (i : Nat) : Int := signed 16 (f.par s n (if i < 2 then Off.ISP_SET_OFS_RG else Off.ISP_SET_OFS_B) (16 * (i % 2)))
    let v (i : Nat) : Nat := sat16 (rneShift (m i 0 * w 0 + m i 1 * w 1 + m i 2 * w 2) 12 + o i)
    (stage6 f c.set 0 (v 0), stage6 f c.set 1 (v 1), stage6 f c.set 2 (v 2))

/-- Line y after stage 3 and after stage 6, and its defect replacements. -/
def develop (s : State) (n : Nat) (f : IspFrame) (y : Nat) : List Rgb × List Rgb × Nat :=
  let t := (List.range f.width).map fun x => stage3 s n f x y
  let dpc := if dtRaw f.dt then
      ((List.range f.width).filter fun x => listedDefect s n f x y || stage2 s n f x y != stage2s s n f x y).length else 0
  (t, t.map (stage456 s n f), dpc)

/-! ## The scaler (R216) -/

/-- The exponent of the averaging boxes: the least k with ratio × 2^k ≥ 1/2. -/
def boxExp (src dst : Nat) : Nat :=
  if src ≤ 2 * dst then 0 else if src ≤ 4 * dst then 1 else if src ≤ 8 * dst then 2 else 3

/-- Position of output j in units of 2^-16 of a boxed source pixel. -/
def scalePos (src dst j : Nat) : Int :=
  let n := ceilDiv src (2 ^ boxExp src dst)
  ((2 * j + 1 : Nat) * rneDiv (n * 65536 : Nat) dst - 65536 : Int) / 2

/-- One boxed source value. -/
def boxed (src dst : Nat) (get : Nat → Nat) (i : Nat) : Int :=
  let k := boxExp src dst
  rneDiv (((List.range (2 ^ k)).map fun d => get (Nat.min (i * 2 ^ k + d) (src - 1))).foldl (· + ·) 0 : Nat) (2 ^ k)

/-- One output value of the polyphase filter. -/
def scaleAt (coef : Nat → Nat → Int) (src dst : Nat) (get : Nat → Nat) (j : Nat) : Nat :=
  let n := ceilDiv src (2 ^ boxExp src dst)
  let pos := scalePos src dst j
  let phase := (pos % 65536).toNat / 1024
  sat16 (rneShift (((List.range 8).map fun t =>
    coef phase t * boxed src dst get (clampInt 0 (n - 1 : Nat) (pos / 65536 - 3 + (t : Int))).toNat).foldl (· + ·) 0) 10)

/-- The highest source index that output j takes. -/
def scaleReach (src dst j : Nat) : Nat :=
  let n := ceilDiv src (2 ^ boxExp src dst)
  let b := (clampInt 0 (n - 1 : Nat) (scalePos src dst j / 65536 + 4)).toNat
  Nat.min ((b + 1) * 2 ^ boxExp src dst) src - 1

/-! ## Output formats (R217, R218) -/

/-- Geometry of output o as a frame latched it. -/
structure OutGeom where
  x0 : Nat
  y0 : Nat
  cw : Nat
  ch : Nat
  ow : Nat
  oh : Nat
  format : Nat
deriving DecidableEq, Repr

def outGeom (s : State) (n : Nat) (f : IspFrame) (o : Nat) : OutGeom :=
  let r (off lo w : Nat) := f.fld s n (off + 0x40 * o) lo w
  { x0 := r Off.ISP_OUT_ORIGIN 0 16, y0 := r Off.ISP_OUT_ORIGIN 16 16, cw := r Off.ISP_OUT_CROP 0 16, ch := r Off.ISP_OUT_CROP 16 16
    ow := r Off.ISP_OUT_SIZE 0 13, oh := r Off.ISP_OUT_SIZE 16 13, format := r Off.ISP_OUT_CFG 5 2 }

def padTo (n : Nat) (bs : List Byte) : List Byte := bs ++ List.replicate (n - bs.length) 0
def pitchOf (w : Nat) : Nat := 64 * ceilDiv w 64
def bytesOf (xs : List Nat) : List Byte := xs.map (BitVec.ofNat 8)

/-- Scaler coefficients of an output: the fixed table, or the expert custom table (R216, R223). -/
def scaler (s : State) (n : Nat) (f : IspFrame) (o : Nat) (phase tap : Nat) : Int :=
  if f.fld s n Off.ISP_X_SCALER o 1 = 1 then
    match f.coef.find? (fun e => e.1 == 8 * phase + tap) with
    | some e => signed 12 e.2
    | none => Config.scalerCoef phase tap
  else Config.scalerCoef phase tap

/-- Output line j of output o: horizontal pass, then vertical (R216). -/
def outPixels (s : State) (n : Nat) (f : IspFrame) (o j : Nat) : List Rgb :=
  let g := outGeom s n f o
  let coef := scaler s n f o
  let hpix (c x i : Nat) : Nat :=
    scaleAt coef g.cw g.ow (fun k => Rgb.at c ((f.tap1.getD (g.y0 + i) []).getD (g.x0 + k) (0, 0, 0))) x
  let px (c x : Nat) : Nat := scaleAt coef g.ch g.oh (hpix c x) j
  (List.range g.ow).map fun x => (px 0 x, px 1 x, px 2 x)

/-- Y, U and V of a 16-bit colour, at 8 bits, saturated to the range (R217). -/
def rgbToYuv (bt709 limited : Bool) (p : Rgb) : Nat × Nat × Nat :=
  let m : List Int :=
    match bt709, limited with
    | false, false => [4899, 9617, 1868, -2765, -5427, 8192, 8192, -6860, -1332]
    | true, false => [3483, 11718, 1183, -1877, -6315, 8192, 8192, -7441, -751]
    | false, true => [4207, 8260, 1604, -2428, -4768, 7196, 7196, -6026, -1170]
    | true, true => [2991, 10064, 1016, -1649, -5547, 7196, 7196, -6536, -660]
  let dot (i : Nat) : Int := m.getD (3 * i) 0 * p.1 + m.getD (3 * i + 1) 0 * p.2.1 + m.getD (3 * i + 2) 0 * p.2.2
  let sat (lo hi x : Int) : Nat := (if limited then clampInt lo hi x else clampInt 0 255 x).toNat
  (sat 16 235 (rneShift (dot 0) 22 + if limited then 16 else 0), sat 16 240 (rneShift (dot 1) 22 + 128), sat 16 240 (rneShift (dot 2) 22 + 128))

/-- One MXINT8 row (R218): elements, scale bytes, flat blocks, saturated elements. -/
def mxRow (mean scale flat : Nat) (vs : List Nat) : List Nat × List Nat × Nat × Nat :=
  let ds : List Int := vs.map fun (v : Nat) => ((v : Int) - (mean : Int)) * (scale : Int)
  let blocks := (List.range (ceilDiv ds.length 32)).map fun b => (ds.drop (32 * b)).take 32
  let enc (b : List Int) : List Nat × Nat × Nat × Nat :=
    let mx := (b.map Int.natAbs).foldl Nat.max 0
    if mx = 0 then (b.map fun _ => 0, flat, 1, 0)
    else
      let lg := log2 mx
      let q (d : Int) : Int := if 6 ≤ lg then rneShift d (lg - 6) else d * (2 ^ (6 - lg) : Nat)
      (b.map fun d => wrap 8 (clampInt (-127) 127 (q d)), lg + 103, 0, (b.filter fun d => 127 < (q d).natAbs).length)
  let es := blocks.map enc
  (es.flatMap (·.1), es.map (·.2.1), (es.map (·.2.2.1)).foldl (· + ·) 0, (es.map (·.2.2.2)).foldl (· + ·) 0)

/-- The bytes of output line j at their offsets in the image, flat blocks and saturated elements (R217, R218). `prev` is the line
above, for the chroma of format 1. -/
def encodeLine (s : State) (n : Nat) (f : IspFrame) (o j : Nat) (px prev : List Rgb) :
    List (Nat × List Byte) × Nat × Nat :=
  let g := outGeom s n f o
  let pitch := pitchOf g.ow
  if g.format = 0 then
    ((List.range 3).map fun c =>
      (c * pitch * g.oh + j * pitch,
        padTo pitch (bytesOf (px.map fun p => Nat.min 255 (rneDiv (Rgb.at c p) 256).toNat))), 0, 0)
  else if g.format = 1 then
    let conv := rgbToYuv (f.fld s n (Off.ISP_OUT_CFG + 0x40 * o) 10 1 == 1) (f.fld s n (Off.ISP_OUT_CFG + 0x40 * o) 11 1 == 1)
    let yl := (j * pitch, padTo pitch (bytesOf (px.map fun p => (conv p).1)))
    if j % 2 = 0 then ([yl], 0, 0)
    else
      let cell (sel : Nat × Nat × Nat → Nat) (k : Nat) : Nat :=
        (rneDiv (([prev.getD (2 * k) (0, 0, 0), prev.getD (2 * k + 1) (0, 0, 0), px.getD (2 * k) (0, 0, 0),
          px.getD (2 * k + 1) (0, 0, 0)].map fun p => sel (conv p)).foldl (· + ·) 0 : Nat) 4).toNat
      let uv := (List.range (g.ow / 2)).flatMap fun k => [cell (·.2.1) k, cell (·.2.2) k]
      ([yl, (pitch * g.oh + j / 2 * pitch, padTo pitch (bytesOf uv))], 0, 0)
  else
    let spitch := pitchOf (ceilDiv g.ow 32)
    let rows := (List.range 3).map fun c =>
      mxRow (f.fld s n ((if c < 2 then Off.ISP_OUT_MEAN_RG else Off.ISP_OUT_MEAN_B) + 0x40 * o) (16 * (c % 2)) 16)
        (f.fld s n ((if c < 2 then Off.ISP_OUT_SCALE_RG else Off.ISP_OUT_SCALE_B) + 0x40 * o) (16 * (c % 2)) 16)
        (f.fld s n (Off.ISP_OUT_FILL + 0x40 * o) 16 8) (px.map (Rgb.at c))
    ((rows.zipIdx.map fun e => (e.2 * pitch * g.oh + j * pitch, padTo pitch (bytesOf e.1.1))) ++
      (rows.zipIdx.map fun e => (3 * pitch * g.oh + e.2 * spitch * g.oh + j * spitch, padTo spitch (bytesOf e.1.2.1))),
      (rows.map (·.2.2.1)).foldl (· + ·) 0, (rows.map (·.2.2.2)).foldl (· + ·) 0)

/-- The bytes of a fill line (R221), and its flat blocks. -/
def fillLine (s : State) (n : Nat) (f : IspFrame) (o j : Nat) : List (Nat × List Byte) × Nat :=
  let g := outGeom s n f o
  let pitch := pitchOf g.ow
  let fill := f.fld s n (Off.ISP_OUT_FILL + 0x40 * o) 0 8
  let row (w v : Nat) := padTo (pitchOf w) (bytesOf (List.replicate w v))
  if g.format = 0 then ((List.range 3).map fun c => (c * pitch * g.oh + j * pitch, row g.ow fill), 0)
  else if g.format = 1 then
    ((j * pitch, row g.ow fill) ::
      (if j % 2 = 0 then [] else [(pitch * g.oh + j / 2 * pitch, row g.ow (f.fld s n (Off.ISP_OUT_FILL + 0x40 * o) 8 8))]), 0)
  else
    let nb := ceilDiv g.ow 32
    let spitch := pitchOf nb
    (((List.range 3).map fun c => (c * pitch * g.oh + j * pitch, row g.ow 0)) ++
      ((List.range 3).map fun c =>
        (3 * pitch * g.oh + c * spitch * g.oh + j * spitch, row nb (f.fld s n (Off.ISP_OUT_FILL + 0x40 * o) 16 8))), 3 * nb)

/-! ## Output frames (R215, R219–R222) -/

/-- Bytes of lines that wait in an output's buffer for its stem engine. -/
def bufBytes (ls : List OutLine) : Nat :=
  (ls.filter (·.queue.isNone)).foldl (fun k l => k + (l.segs.map (·.2.length)).foldl (· + ·) 0) 0

/-- Replace the oldest frame of an input that meets a test. -/
def updFrame (n : Nat) (p : IspFrame → Bool) (g : IspFrame → IspFrame) (s : State) : State :=
  setIsp n { ispOf s n with frames := updFirst p g (ispOf s n).frames } s

/-- The queue of an output whose DEST is 0 (R219). -/
def outQueue (s : State) (n : Nat) (f : IspFrame) (o : Nat) : Option Nat :=
  if f.fld s n (Off.ISP_OUT_CFG + 0x40 * o) 7 1 = 1 then none else some (f.fld s n (Off.ISP_OUT_QUEUE + 0x40 * o) 0 18)

/-- The compute die whose stem engine takes an output with DEST 1 (R219). -/
def outStem (s : State) (n : Nat) (f : IspFrame) (o : Nat) : Nat := f.fld s n (Off.ISP_OUT_CFG + 0x40 * o) 8 2

/-- An output frame drops the rest of its lines (R220). -/
def outDrop (n : Nat) (f : IspFrame) (q : OutFrame) (s : State) : OutFrame × State :=
  let st := ispOf s n
  let mark : OutLine :=
    { frame := q.id, frameNo := f.frameNo, line := q.next, lost := true, segs := [], taken := false, queue := outQueue s n f q.out
      stem := outStem s n f q.out }
  ({ q with drop := some q.next },
    setIsp n { st with outBuf := sset [] st.outBuf q.out (sget [] st.outBuf q.out ++ [mark]) } s
      |> bump (pgIsp n) Off.ISP_CNT_OUT_DROP 1 |> raise (pgIsp n) Evt.ISP_OUT_DROP)

/-- How far the queue of an output has taken the image of a frame, in layout order (R219). -/
def sentOf (s : State) (n o id : Nat) : Nat :=
  let e := sget (0, 0) (ispOf s n).sent o
  if e.1 = id then e.2 else 0

/-- Has an output room for a line: of a stem engine's image 64 KiB wait at most; of a queue's, 64 KiB of the plane that the line comes
first in (R219, R220; log 31). -/
def outRoom (s : State) (n : Nat) (held : List OutLine) (o : Nat) (line : OutLine) : Bool :=
  match line.queue with
  | none => decide (bufBytes held + bufBytes [line] ≤ 65536)
  | some _ => match line.segs with
    | [] => true
    | e :: _ => decide (e.1 + e.2.length - sentOf s n o line.frame ≤ 65536)

/-- What a queue takes next of an output: its queue, the line's frame, the offset in the image, the bytes, whether the image ends with them. -/
structure LayoutItem where
  queue : Nat
  frame : Nat
  off : Nat
  bytes : List Byte
  final : Bool

/-- The next bytes in layout order of the oldest frame that waits for a queue, once they are there; after a dropped frame's last line what
is held of it follows in that order. An item without bytes is the mark of a dropped frame (R219, R220). -/
def layoutNext (s : State) (n o : Nat) : Option LayoutItem :=
  let st := ispOf s n
  let ls := (sget [] st.outBuf o).filter (·.queue.isSome)
  match ls with
  | [] => none
  | h :: _ =>
    let q := h.queue.getD 0
    let segs := (ls.filter fun l => l.frame == h.frame).flatMap (·.segs)
    match segs with
    | [] => some ⟨q, h.frame, 0, [], true⟩
    | e :: r =>
      let least := r.foldl (fun a b => if b.1 < a.1 then b else a) e
      let grows := st.frames.any fun f => f.outs.any fun x => x.out == o && x.id == h.frame && x.drop.isNone
      if least.1 ≤ sentOf s n o h.frame ∨ grows = false then some ⟨q, h.frame, least.1, least.2, !grows && r.isEmpty⟩ else none

/-- The queue takes the first k bytes of the next item of an output. -/
def layoutTake (n o k : Nat) (s : State) : State :=
  match layoutNext s n o with
  | none => s
  | some it =>
    let st := ispOf s n
    let cut (e : Nat × List Byte) : List (Nat × List Byte) :=
      if e.1 ≠ it.off then [e] else if k < e.2.length then [(e.1 + k, e.2.drop k)] else []
    let ls := (sget [] st.outBuf o).filterMap fun l =>
      if l.queue.isNone ∨ l.frame ≠ it.frame then some l
      else
        let segs := l.segs.flatMap cut
        if segs.isEmpty && (!l.lost || it.bytes.isEmpty) then none else some { l with segs }
    setIsp n { st with outBuf := sset [] st.outBuf o ls, sent := sput st.sent o (it.frame, it.off + k) } s

/-- A produced line enters the output's 64 KiB buffer, or the rest of the frame is dropped (R219, R220), and hand history records
it when the output is enabled there (R563). In replay the recorded lines of such an output take the place of those it produces (R569). -/
def outEmit (n : Nat) (f : IspFrame) (q : OutFrame) (segs : List (Nat × List Byte)) (s : State) : OutFrame × State :=
  let st := ispOf s n
  let held := sget [] st.outBuf q.out
  let line : OutLine :=
    { frame := q.id, frameNo := f.frameNo, line := q.next, lost := false, segs, taken := false, queue := outQueue s n f q.out
      stem := outStem s n f q.out }
  if hhMode s == 2 && flag s pgHh (Off.HH_OUT + 4 * (8 * n + q.out)) 0 then (q, s)
  else if !outRoom s n held q.out line then outDrop n f q s
  else
    let s := setIsp n { st with outBuf := sset [] st.outBuf q.out (held ++ [line]) } s
    let s :=
      if flag s pgHh (Off.HH_OUT + 4 * (8 * n + q.out)) 0 then
        hhCapture 0x22 (pageIsland (pgIsp n)) (8 * n + q.out)
          (leBytes 2 f.frameNo ++ leBytes 2 q.next ++ leBytes 4 0 ++ segs.flatMap (·.2)) s
      else s
    (q, s)

/-- Produce the next line of an output frame, if it can be: an image line when its source rows are developed, a fill line when
they lie at or below the cut (R221). -/
def outStep (n : Nat) (f : IspFrame) (q : OutFrame) (s : State) : Option (OutFrame × State) :=
  let g := outGeom s n f q.out
  if q.outside || q.drop.isSome || decide (g.oh ≤ q.next) then none
  else
    let reach := g.y0 + scaleReach g.ch g.oh q.next
    if (f.cut.map fun c => decide (c ≤ reach)).getD false then
      let r := fillLine s n f q.out q.next
      let e := outEmit n f q r.1 s
      some (if e.1.drop.isSome then e
        else ({ e.1 with next := q.next + 1, fill := q.fill + 1, flat := q.flat + r.2 }, bump (pgIsp n) Off.ISP_CNT_FILL_LINES 1 e.2))
    else if reach < f.tap1.length then
      let px := outPixels s n f q.out q.next
      let r := encodeLine s n f q.out q.next px q.prev
      let e := outEmit n f q r.1 (bump (pgIsp n) Off.ISP_CNT_SAT r.2.2 s)
      some (if e.1.drop.isSome then e
        else ({ e.1 with next := q.next + 1, flat := q.flat + r.2.1, clipped := q.clipped + r.2.2, prev := px }, e.2))
    else none

/-- Produce every line that can be. -/
def outRun (n : Nat) (f : IspFrame) : Nat → OutFrame → State → OutFrame × State
  | 0, q, s => (q, s)
  | k + 1, q, s =>
    match outStep n f q s with
    | none => (q, s)
    | some (q, s) => outRun n f k q s

/-- Every output of a frame produces what it can. -/
def outsRun (n : Nat) (f : IspFrame) (s : State) : List OutFrame × State :=
  f.outs.foldl (fun acc q =>
    let r := outRun n f 4097 q acc.2
    (acc.1 ++ [r.1], r.2)) ([], s)

/-- The descriptor of a finished output frame (R222). -/
def outDesc (s : State) (n : Nat) (f : IspFrame) (q : OutFrame) : List Byte :=
  let g := outGeom s n f q.out
  let dropLine := if q.outside then some 0 else q.drop
  leBytes 2 f.frameNo ++ leBytes 1 f.port ++ leBytes 1 q.out ++ leBytes 1 g.format ++ leBytes 1 f.input ++ leBytes 2 0 ++
    leBytes 8 f.sofTt ++ leBytes 8 (64 * beatNo s) ++ leBytes 4 f.seq ++ leBytes 4 q.seq ++ leBytes 2 g.ow ++ leBytes 2 g.oh ++
    leBytes 2 q.fill ++ leBytes 2 (dropLine.getD 0xFFFF) ++ leBytes 4 f.flags ++
    leBytes 4 (ofBool f.cut.isSome + 2 * ofBool dropLine.isSome + 4 * ofBool (q.clipped != 0)) ++
    leBytes 4 q.flat ++ leBytes 4 q.clipped ++ leBytes 8 0

/-- An output frame finishes: its descriptor joins the 16 its queue has not accepted, or is lost (R222). -/
def outFinish (n : Nat) (f : IspFrame) (s : State) (q : OutFrame) : State :=
  let st := ispOf s n
  let held := sget [] st.descs q.out
  let s :=
    if f.fld s n (Off.ISP_OUT_DESCQ + 0x40 * q.out) 31 1 = 1 then
      if 16 ≤ held.length then s |> bump (pgIsp n) Off.ISP_CNT_DESC_LOST 1 |> raise (pgIsp n) Evt.ISP_DESC_LOST
      else
        setIsp n { st with descs := sset [] st.descs q.out (held ++ [(f.fld s n (Off.ISP_OUT_DESCQ + 0x40 * q.out) 0 18, outDesc s n f q)]) } s
          |> raise (pgIsp n) Evt.ISP_OUT_DONE
    else s
  s

/-- Does a line of an output frame still wait to be written or taken (R222)? -/
def outWaits (s : State) (n : Nat) (q : OutFrame) : Bool :=
  (sget [] (ispOf s n).outBuf q.out).any fun l => l.frame == q.id && !l.taken && !l.lost

/-- A processed frame whose output lines have gone: their descriptors are completed, and with the last of them the command (R222, R223). -/
def frameSettle (n : Nat) (f : IspFrame) (s : State) : State :=
  let left := f.outs.filter (outWaits s n)
  let t := (f.outs.filter fun q => !outWaits s n q).foldl (outFinish n f) s
  let st := ispOf t n
  if left.isEmpty then setIsp n { st with ending := st.ending.filter fun g => g.id != f.id } t |> endCmd (pgIsp n) f.id
  else setIsp n { st with ending := st.ending.map fun g => if g.id = f.id then { g with outs := left } else g } t

/-- Every processed frame of a pipeline, oldest first. -/
def ispSettle (n : Nat) (s : State) : State := (ispOf s n).ending.foldl (fun s f => frameSettle n f s) s

/-- The queue of an output does not admit its image (R410): the frame whose bytes come first drops the rest of its lines (R220). -/
def outRefused (n o : Nat) (s : State) : State :=
  let st := ispOf s n
  match (sget [] st.outBuf o).find? (·.queue.isSome) with
  | none => s
  | some h =>
    let mine (q : OutFrame) : Bool := q.out == o && q.id == h.frame
    let fresh := (st.frames ++ st.ending).any fun f => f.outs.any fun q => mine q && q.drop.isNone
    let cut (f : IspFrame) : IspFrame := { f with outs := f.outs.map fun q => if mine q && q.drop.isNone then { q with drop := some h.line } else q }
    let ls := (sget [] st.outBuf o).filter fun l => l.queue.isNone || l.frame != h.frame
    let s := setIsp n { st with outBuf := sset [] st.outBuf o ls, frames := st.frames.map cut, ending := st.ending.map cut } s
    let s := if fresh then s |> bump (pgIsp n) Off.ISP_CNT_OUT_DROP 1 |> raise (pgIsp n) Evt.ISP_OUT_DROP else s
    ispSettle n s

/-! ## Statistics (R214) -/

/-- The statistics record of a frame: three engine-ready tiles. -/
def statRecord (s : State) (n : Nat) (f : IspFrame) : List Byte :=
  let q := Off.ISP_IN_STATQ + 0x10 * f.input
  let grid := Off.ISP_IN_GRID + 0x10 * f.input
  let tap := f.fld s n q 18 1
  let zx := f.fld s n grid 0 6
  let zy := f.fld s n grid 8 5
  let zw := f.width / Nat.max 1 zx
  let zh := f.height / Nat.max 1 zy
  let rows := if tap = 0 then f.tap0 else f.tap1
  let all := rows.flatten
  let count (p : Rgb → Bool) : Nat := (all.filter p).length
  let hist := (List.range 3).flatMap fun c => (List.range 256).flatMap fun v =>
    leBytes 4 (satNat 0xFFFFFFFF (count fun p => Rgb.at c p / 256 == v))
  let zone (x y : Nat) : List Rgb := ((rows.drop (y * zh)).take zh).flatMap fun r => (r.drop (x * zw)).take zw
  let mean (c : Nat) (ps : List Rgb) : Nat :=
    if ps.isEmpty then 0 else (rneDiv ((ps.map (Rgb.at c)).foldl (· + ·) 0 : Nat) ps.length).toNat
  let zones := (List.range zy).flatMap fun y => (List.range zx).map fun x => zone x y
  let empty := f.cut.isSome && zones.any (·.isEmpty)
  let head := leBytes 2 f.frameNo ++ leBytes 1 f.input ++ leBytes 1 tap ++ leBytes 2 rows.length ++ leBytes 1 zx ++ leBytes 1 zy ++
    leBytes 8 f.sofTt ++ leBytes 4 f.seq ++ leBytes 2 zw ++ leBytes 2 zh ++
    ((List.range 3).flatMap fun c => leBytes 4 (count fun p => Rgb.at c p == 65535)) ++
    leBytes 4 f.flags ++ leBytes 4 (ofBool f.cut.isSome + 2 * ofBool empty) ++ leBytes 20 0
  padTo 4096 (head ++ hist) ++
    padTo 8192 (zones.flatMap fun z => leBytes 2 (mean 0 z) ++ leBytes 2 (mean 1 z) ++ leBytes 2 (mean 2 z) ++ leBytes 2 0)

/-- A frame's statistics record, unless 16 wait already (R214). -/
def statWrite (n : Nat) (f : IspFrame) (s : State) : State :=
  let st := ispOf s n
  let held := sget [] st.stats f.input
  if f.fld s n (Off.ISP_IN_STATQ + 0x10 * f.input) 31 1 = 0 then s
  else if 16 ≤ held.length then bump (pgIsp n) Off.ISP_CNT_STAT_LOST 1 s
  else
    let recs := held ++ [(f.fld s n (Off.ISP_IN_STATQ + 0x10 * f.input) 0 18, statRecord s n f)]
    setIsp n { st with stats := sset [] st.stats f.input recs } s |> raise (pgIsp n) Evt.ISP_STAT_DONE

/-! ## Frames and lines from the receivers (R204–R207) -/

/-- The oldest and the newest frame of an input. -/
def isInput (i : Nat) (f : IspFrame) : Bool := f.input == i
def newestFrame (s : State) (n i : Nat) : Option IspFrame := (ispOf s n).frames.reverse.find? (isInput i)
def oldestFrame (s : State) (n i : Nat) : Option IspFrame := (ispOf s n).frames.find? (isInput i)

/-- Change the newest frame of an input. -/
def updNewest (n i : Nat) (g : IspFrame → IspFrame) (s : State) : State :=
  setIsp n { ispOf s n with frames := (updFirst (isInput i) g (ispOf s n).frames.reverse).reverse } s

/-- Lines of a frame that still need processing lie below this index. -/
def IspFrame.limit (f : IspFrame) : Nat := f.cut.getD f.height

/-- A frame that the receiver has closed and that is processed in full or up to its cut ends: the statistics record is written, and its
output frames finish as their lines are taken (R214, R222, R223). -/
def ispFinish (n i : Nat) (s : State) : State :=
  match oldestFrame s n i with
  | none => s
  | some f =>
    if f.closed && decide (f.limit ≤ f.next) then
      let r := outsRun n f s
      let s := statWrite n { f with outs := r.1 } r.2
      let f := { f with outs := r.1, lines := [], tap0 := [], tap1 := [] }
      setIsp n { ispOf s n with frames := (ispOf s n).frames.eraseP (isInput i), ending := (ispOf s n).ending ++ [f] } s
        |> bump (pgIsp n) Off.ISP_CNT_FRAMES 1 |> ispSettle n
    else s

/-- A cut at line c: outputs may now deliver the fill lines it brings (R193, R206, R221). -/
def ispCutAt (n i c : Nat) (s : State) : State :=
  updNewest n i (fun f => if f.cut.isSome then f else { f with cut := some c, endBeat := beatNo s }) s

/-- The outputs bound to a frame's input. -/
def boundOuts (s : State) (n : Nat) (f : IspFrame) : List Nat :=
  (List.range 8).filter fun o =>
    f.fld s n (Off.ISP_OUT_CFG + 0x40 * o) 0 1 == 1 && f.fld s n (Off.ISP_OUT_CFG + 0x40 * o) 1 4 == f.input

/-- Does the crop of output o reach beyond the frame? -/
def cropOutside (s : State) (n : Nat) (f : IspFrame) (o : Nat) : Bool :=
  let g := outGeom s n f o
  decide (f.width < g.x0 + g.cw) || decide (f.height < g.y0 + g.ch)

/-- The frame of output o that opens with an input frame. -/
def outOpen (s : State) (n : Nat) (f : IspFrame) (o : Nat) : OutFrame :=
  { id := sget 0 (ispOf s n).outIds o, out := o, seq := sget 0 (ispOf s n).outSeq o, next := 0, fill := 0, drop := none, flat := 0
    clipped := 0, prev := [], outside := cropOutside s n f o }

/-- A frame has opened on each of the outputs given. -/
def outsOpened (n : Nat) (outs : List Nat) (s : State) : State :=
  let st := ispOf s n
  setIsp n { st with
    outSeq := outs.foldl (fun m o => sset 0 m o ((sget 0 m o + 1) % 2 ^ 32)) st.outSeq
    outIds := outs.foldl (fun m o => sset 0 m o (sget 0 m o + 1)) st.outIds } s

/-- A frame that has opened in the beat that ends takes the registers, tables and bindings that the beat's writes leave (R211); an output that
is no longer bound to it has had no frame. -/
def relatch (n : Nat) (f : IspFrame) (s : State) : State :=
  let st := ispOf s n
  let g := { f with regs := ispLatch s n, tone := st.tone, coef := st.coef }
  let bound := boundOuts s n g
  let outs := bound.map fun o =>
    match f.outs.find? fun q => q.out == o with
    | some q => { q with outside := cropOutside s n g o }
    | none => outOpen s n g o
  let gone := f.outs.filter fun q => !bound.contains q.out
  let news := bound.filter fun o => !(f.outs.any fun q => q.out == o)
  setIsp n { st with
    frames := st.frames.map fun h => if h.id = f.id then { g with outs := outs } else h
    outSeq := gone.foldl (fun m q => sset 0 m q.out q.seq) st.outSeq } s |> outsOpened n news

/-- The frames that opened in the beat that ends (R210, R211). -/
def latchesEnd (s : State) : State :=
  (s.isp.map (·.1)).foldl (fun s n =>
    ((ispOf s n).frames.filter fun f => f.opened == s.tt.beats).foldl (fun s f => relatch n f s) s) s

/-- A frame opens on a slot bound for input i. Answers whether the pipeline takes its lines (R204, R205); the frame is registered
either way, so that its outputs and record follow. -/
def ispOpen (n i port dt frameNo sofTt seq width height : Nat) (s : State) : Bool × State :=
  let on := flag s (pgIsp n) (Off.ISP_IN_CFG + 0x10 * i) 0 && enabled s (pgIsp n)
  let st := ispOf s n
  let f0 : IspFrame :=
    { id := st.count, opened := s.tt.beats, input := i, port, dt, frameNo, sofTt, seq, width, height, regs := ispLatch s n, tone := st.tone, coef := st.coef, lines := []
      arrived := [], next := 0, cut := none, endBeat := 0, closed := false, flags := 0, tap0 := [], tap1 := [], outs := [] }
  let deep := decide (8 ≤ f0.bufLines s n)
  if !on then (false, s)
  else
    let bound := boundOuts s n f0
    let f := { f0 with outs := bound.map (outOpen s n f0), cut := if deep then none else some 0, endBeat := beatNo s }
    let s := outsOpened n bound (setIsp n { st with frames := st.frames ++ [f], count := st.count + 1 } s) |> startCmd (pgIsp n) f.id
    let s := f.outs.foldl (fun s q =>
      let dead := f.fld s n (Off.ISP_OUT_CFG + 0x40 * q.out) 7 1 == 0 &&
        queueHalted s (.ispLine n q.out) (f.fld s n (Off.ISP_OUT_QUEUE + 0x40 * q.out) 0 18)
      if dead && !q.outside then
        let r := outDrop n f q s
        updNewest n i (fun f => { f with outs := updFirst (fun x => x.out == q.out) (fun _ => r.1) f.outs }) r.2
      else s) s
    (deep, if deep then s else refuse (pgIsp n) Off.ISP_CNT_CFG_REFUSED s)

/-- Lines held in an input's buffer: of its frames, from r − 2 to the newest received (R206). -/
def heldLines (s : State) (n i : Nat) : Nat :=
  ((ispOf s n).frames.filter (isInput i)).foldl (fun k f => k + (f.lines.length - (f.next - 2))) 0

/-- Lines of an input that a slice's end has freed in this very beat: they are freed after the beat's lines have arrived (R210). -/
def freedNow (s : State) (n i : Nat) : Nat :=
  match (ispOf s n).freed with
  | some (j, b, k) => if j = i ∧ b = s.tt.beats then k else 0
  | none => 0

/-- The 16-bit components of a line of pixels (R212). -/
def pixels16 (dt : Nat) (ps : List (List Nat)) : List Rgb :=
  let c (x k : Nat) : Nat := (ps.getD x []).getD k 0
  (List.range ps.length).map fun x =>
    if dtRaw dt then (c x 0 * 2 ^ (16 - dtDepth dt), 0, 0)
    else if dt = 0x1E then (c x 1 * 256, c (x / 2 * 2) 0 * 256, c (x / 2 * 2 + 1) 0 * 256)
    else (c x 2 * 256, c x 1 * 256, c x 0 * 256)

/-- A line arrives at input i; answers whether the buffer overflowed at it (R206). -/
def ispLine (n i : Nat) (ps : List (List Nat)) (s : State) : Bool × State :=
  match newestFrame s n i with
  | none => (false, s)
  | some f =>
    if f.cut.isSome then (false, s)
    else if f.bufLines s n ≤ heldLines s n i + freedNow s n i then
      (true, ispCutAt n i f.lines.length s |> raise (pgIsp n) Evt.ISP_CUT |> bump (pgIsp n) Off.ISP_CNT_CUT 1)
    else
      (false, updNewest n i (fun f => { f with lines := f.lines ++ [pixels16 f.dt ps], arrived := f.arrived ++ [beatNo s] }) s)

/-- The receiver closes the frame of input i, with its FLAGS (R190, R221). -/
def ispClose (n i flags : Nat) (s : State) : State :=
  updNewest n i (fun f => if f.closed then f
    else { f with closed := true, flags, endBeat := if f.cut.isSome then f.endBeat else beatNo s }) s
    |> ispFinish n i

/-! ## The scheduler (R207–R210) -/

/-- The line of an input to process next and the beat that made it ready (R207, R209). -/
def readyLine (s : State) (n i : Nat) : Option (Nat × Nat × IspFrame) :=
  match oldestFrame s n i with
  | none => none
  | some f =>
    let need := Nat.min (f.next + 2) (f.height - 1)
    if f.limit ≤ f.next then none
    else if need < f.lines.length then some (f.next, f.arrived.getD need 0, f)
    else if f.closed || f.cut.isSome then some (f.next, f.endBeat, f)
    else none

/-- The length of a slice in beats (R208). -/
def sliceBeats (width : Nat) : Nat := ceilDiv ((ceilDiv width 2 + 16) * 5) 256

/-- May the scheduler of a pipeline grant slices? -/
def slicesGo (s : State) (n : Nat) : Bool := pagePresent s.part (pgIsp n) && pageOn s (pgIsp n) && !fenced s (pgIsp n)

/-- SLICE_START: the pipeline may grant its next slice in this beat, whose lines and frames and whose slice's end come first (R210). -/
def execSliceStart (n : Nat) (s : State) : State :=
  if slicesGo s n then setIsp n { ispOf s n with asked := true } s else s

/-- The grant, with no slice running: the ready line with the earliest deadline; the button breaks ties (R209). -/
def sliceGrant (n : Nat) (s : State) : State :=
  let s := setIsp n { ispOf s n with asked := false } s
  if (ispOf s n).slice.isSome || !slicesGo s n then s
  else
    let reqs := (List.range 16).filterMap fun i =>
      (readyLine s n i).map fun r =>
        (i, r.2.1 + r.2.2.fld s n (Off.ISP_IN_TIMING + 0x10 * i) 0 16 * (r.2.2.bufLines s n - 5))
    match arbiterGrant 16 (sget 15 s.head.buttons (pageBase (pgIsp n))) reqs with
    | none => s
    | some (i, button) =>
      let w := ((oldestFrame s n i).map (·.width)).getD 0
      let s := setIsp n { ispOf s n with slice := some (i, s.tt.beats, sliceBeats w) } s
      { s with head := { s.head with buttons := sput s.head.buttons (pageBase (pgIsp n)) button } }

/-- The grants of a beat, the last of what a pipeline does in it (R210). -/
def grantsEnd (s : State) : State :=
  ((s.isp.filter (·.2.asked)).map (·.1)).foldl (fun s n => sliceGrant n s) s

/-- SLICE_END: the running slice completes; line r − 2 is freed and output lines are produced (R210). -/
def execSliceEnd (n : Nat) (s : State) : State :=
  match (ispOf s n).slice with
  | none => s
  | some (i, start, len) =>
    if s.tt.beats < start + len then s
    else
      let s := setIsp n { ispOf s n with slice := none } s
      match oldestFrame s n i with
      | none => s
      | some f =>
        let d := develop s n f f.next
        let held := heldLines s n i
        let s := { s with freeIdx := s.freeIdx + 1 }
        let f := { f with next := f.next + 1, tap0 := f.tap0 ++ [d.1], tap1 := f.tap1 ++ [d.2.1] }
        let s := s |> bump (pgIsp n) Off.ISP_CNT_LINES 1 |> bump (pgIsp n) Off.ISP_CNT_DPC d.2.2
        let r := outsRun n f s
        let t := updFrame n (isInput i) (fun _ => { f with outs := r.1 }) r.2 |> ispFinish n i
        setIsp n { ispOf t n with freed := some (i, s.tt.beats, held - heldLines t n i) } t

/-! ## Tables and registers (R223) -/

/-- ISP_TBL_ADDR after an access to ISP_TBL_DATA. -/
def tblAdvance (n off w : Nat) (s : State) : State := setFld (pgIsp n) off 0 w (fld s (pgIsp n) off 0 w + 1) s

/-- The value of a tone or defect entry. -/
def tblValue (s : State) (n a : Nat) : Word :=
  let d : Word := if bitAt a 14 then 0xFFFFFFFF else BitVec.ofNat 32 (Nat.min (256 * (a % 512)) 65535)
  sget d (ispOf s n).tone a

/-- A write to ISP_TBL_DATA. -/
def tblWrite (n : Nat) (v : Word) (s : State) : State :=
  let a := fld s (pgIsp n) Off.ISP_TBL_ADDR 0 15
  let v : Word := if bitAt a 14 then v else BitVec.ofNat 32 (fieldOf v 0 16)
  setIsp n { ispOf s n with tone := sput (ispOf s n).tone a v } s |> tblAdvance n Off.ISP_TBL_ADDR 15

/-- ISP_TBL_DATA_ACCESS: a write (some value) or a read of the entry at ADDR, which then advances. -/
def execIspTblDataAccess (w : Func) (n : Nat) (v : Option Word) (s : State) : State :=
  match v with
  | some v => access w (pgIsp n) Off.ISP_TBL_DATA v (tblWrite n v) s
  | none =>
    readAccess w (pgIsp n) Off.ISP_TBL_DATA
      (fun s => ((tblValue s n (fld s (pgIsp n) Off.ISP_TBL_ADDR 0 15)).toNat, tblAdvance n Off.ISP_TBL_ADDR 15 s)) s

/-- A write to ISP_XTBL_DATA. -/
def xtblWrite (n : Nat) (v : Word) (s : State) : State :=
  setIsp n { ispOf s n with coef := sput (ispOf s n).coef (fld s (pgIsp n) Off.ISP_XTBL_ADDR 0 9) (fieldOf v 0 12) } s
    |> tblAdvance n Off.ISP_XTBL_ADDR 9

/-- ISP_XTBL_DATA_ACCESS: a write (some value) or a read of the coefficient at ADDR, which then advances. -/
def execIspXtblDataAccess (w : Func) (n : Nat) (v : Option Word) (s : State) : State :=
  match v with
  | some v => access w (pgIsp n) Off.ISP_XTBL_DATA v (xtblWrite n v) s
  | none =>
    readAccess w (pgIsp n) Off.ISP_XTBL_DATA
      (fun s =>
        let a := fld s (pgIsp n) Off.ISP_XTBL_ADDR 0 9
        let v := match (ispOf s n).coef.find? (fun e => e.1 == a) with
          | some e => e.2
          | none => wrap 12 (Config.scalerCoef (a / 8) (a % 8))
        (v, tblAdvance n Off.ISP_XTBL_ADDR 9 s)) s

/-- Is a ratio between 1/16 and 2 (R215)? -/
def ratioOk (src dst : Nat) : Bool := decide (src ≤ 16 * dst) && decide (dst ≤ 2 * src)

/-- A write to a pipeline page register. Enabling an output starts its OUT_SEQ again (R222). -/
def ispRegWrite (n off : Nat) (v : Word) (s : State) : State :=
  let p := pgIsp n
  let no := refuse p Off.ISP_CNT_CFG_REFUSED s
  if off = Off.ISP_TBL_DATA then tblWrite n v s
  else if off = Off.ISP_XTBL_DATA then xtblWrite n v s
  else if 0x100 ≤ off ∧ off < 0x200 then
    let i := (off - 0x100) / 0x10
    if off % 0x10 = 0 then
      let others := ((List.range 16).filter (· != i)).foldl (fun k j => k + fld s p (Off.ISP_IN_CFG + 0x10 * j) 8 7) 0
      if 5 ≤ fieldOf v 3 3 || decide (64 < others + fieldOf v 8 7) then no else plainWrite p off v s
    else if off % 0x10 = 0xC then
      if fieldOf v 0 6 == 0 || decide (32 < fieldOf v 0 6) || fieldOf v 8 5 == 0 || decide (24 < fieldOf v 8 5) then no
      else plainWrite p off v s
    else plainWrite p off v s
  else if 0x300 ≤ off ∧ off < 0x500 then
    let o := (off - 0x300) / 0x40
    let at_ (r : Nat) : Word := if (off - 0x300) % 0x40 = r then v else rd s p (0x300 + 0x40 * o + r)
    let r := (off - 0x300) % 0x40
    let size := at_ 0x0C
    let crop := at_ 0x08
    let ow := fieldOf size 0 13
    let oh := fieldOf size 16 13
    let sizeOk := decide (1 ≤ ow) && decide (ow ≤ 4096) && decide (1 ≤ oh) && decide (oh ≤ 4096) &&
      ratioOk (fieldOf crop 0 16) ow && ratioOk (fieldOf crop 16 16) oh
    let evenOk := fieldOf (at_ 0) 5 2 != 1 || (ow % 2 == 0 && oh % 2 == 0)
    if r = 0 then
      if fieldOf v 5 2 == 3 || !evenOk then no
      else
        let starts := bitOf v 0 && !bitOf (rd s p off) 0
        let st := ispOf s n
        plainWrite p off v (if starts then setIsp n { st with outSeq := sset 0 st.outSeq o 0 } s else s)
    else if r = 8 ∨ r = 0xC then (if sizeOk && evenOk then plainWrite p off v s else no)
    else plainWrite p off v s
  else plainWrite p off v s

end Sys2Proof.Machine
end

