-- ==== Sys2Proof/Machine/Csi.lean ====
section
/-! DEFINITION. The CSI-2 receivers: packets, the geometry of lines and frames, frame sync, the gate, frame descriptors
(R180–R202). -/
namespace Sys2Proof.Machine

def pgCsi (r : Nat) : Page := ⟨.csi, r⟩

/-! ## State of a receiver -/

def CsiSlot.empty : CsiSlot := { cfg := 0, frame := none, closing := [], count := 0, seq := 0, gated := false, fifo := [], taken := 0, descs := [] }
def CsiSt.empty : CsiSt :=
  { burst := false, fsyncs := [], fsyncAt := 0, fsyncHigh := false, slots := List.replicate 4 CsiSlot.empty }

def csiOf (s : State) (r : Nat) : CsiSt := sget CsiSt.empty s.csi r
def setCsi (r : Nat) (c : CsiSt) (s : State) : State := { s with csi := sset CsiSt.empty s.csi r c }
def csiSlot (s : State) (r k : Nat) : CsiSlot := (csiOf s r).slots.getD k CsiSlot.empty
def updSlot (r k : Nat) (f : CsiSlot → CsiSlot) (s : State) : State :=
  setCsi r { csiOf s r with slots := (List.range 4).map fun j => if j = k then f (csiSlot s r j) else csiSlot s r j } s
def updFrameOf (r k : Nat) (f : CsiFrame → CsiFrame) (s : State) : State :=
  updSlot r k (fun t => { t with frame := t.frame.map f }) s

/-- The CSI_STREAM_CFG of a slot in force: that of its latest Frame Start, which an open frame keeps (R186). -/
def slotCfg (s : State) (r k : Nat) : Word :=
  match (csiSlot s r k).frame with
  | some f => f.cfg
  | none => (csiSlot s r k).cfg

def cfgVc (c : Word) : Nat := fieldOf c 0 4
def cfgDt (c : Word) : Nat := fieldOf c 4 6
def cfgEn (c : Word) : Bool := bitOf c 10
def cfgQueue (c : Word) : Bool := fieldOf c 11 2 == 1
def cfgLineNo (c : Word) : Bool := bitOf c 13
def cfgPad (c : Word) : Nat := fieldOf c 16 16

def CsiFrame.width (f : CsiFrame) : Nat := fieldOf f.geom 0 16
def CsiFrame.height (f : CsiFrame) : Nat := fieldOf f.geom 16 16
def CsiFrame.flag (b : Nat) (f : CsiFrame) : CsiFrame := { f with flags := putAt f.flags b 1 1 }

/-- The slots that a packet of a virtual channel concerns (R184). -/
def vcSlots (s : State) (r vc : Nat) : List Nat :=
  (List.range 4).filter fun k => cfgEn (slotCfg s r k) && cfgVc (slotCfg s r k) == vc

/-- The pipeline and input of a slot (R204). -/
def slotPipe (r : Nat) : Nat := r / 4
def slotInput (r k : Nat) : Nat := 4 * (r % 4) + k

/-- FLAGS bits (R198). -/
abbrev flShortLine : Nat := 0
abbrev flLongLine : Nat := 1
abbrev flShortFrame : Nat := 2
abbrev flLongFrame : Nat := 3
abbrev flNoFe : Nat := 4
abbrev flTimeout : Nat := 5
abbrev flEccCorr : Nat := 6
abbrev flEccUncorr : Nat := 7
abbrev flCrc : Nat := 8
abbrev flOverflow : Nat := 9
abbrev flPhyErr : Nat := 10
abbrev flPartial : Nat := 11
abbrev flQueueDrop : Nat := 12

/-! ## Descriptors (R195, R198) -/

def sat2 (n : Nat) : List Byte := leBytes 2 (satNat 0xFFFF n)

/-- The 64-byte descriptor of a frame. -/
def frameDesc (r k : Nat) (avk1 : Bool) (f : CsiFrame) : List Byte :=
  let mark := if avk1 then ofBool (f.eccAll != 0) + 2 * ofBool (f.crc != 0) + 65536 * satNat 0xFFFF (f.eccAll + f.crc) else 0
  leBytes 2 f.frameNo ++ leBytes 1 r ++ leBytes 1 (cfgVc f.cfg) ++ leBytes 1 (cfgDt f.cfg) ++ leBytes 1 k ++ leBytes 2 0 ++
    leBytes 8 f.sofTt ++ leBytes 8 f.eofTt ++ leBytes 8 f.fsyncTt ++ leBytes 4 f.seq ++ sat2 f.linesRx ++ sat2 f.padded ++
    sat2 f.short ++ sat2 f.long ++ sat2 f.eccCorr ++ sat2 f.crc ++ leBytes 4 f.flags ++ leBytes 2 f.cutLine ++ sat2 f.extra ++
    leBytes 4 mark ++ leBytes 4 0

/-! ## Hand history (R563) -/

def hhCamMode (s : State) (r k : Nat) : Nat := fld s pgHh (Off.HH_CAM + 4 * (4 * r + k)) 0 2

/-- Record a line as delivered, in full or reduced. -/
def csiRecordLine (r k : Nat) (f : CsiFrame) (line : Nat) (ps : List (List Nat)) (s : State) : State :=
  let dt := cfgDt f.cfg
  let n := 2 ^ fld s pgHh (Off.HH_CAM + 4 * (4 * r + k)) 2 2
  let cell := if dtRaw dt then 2 else 1
  let head := leBytes 2 f.frameNo ++ leBytes 2 line ++ leBytes 4 0
  match hhCamMode s r k with
  | 1 => hhInput 0x20 0 (pageIsland (pgCsi r)) (4 * r + k) (head ++ packLine dt ps) s
  | 2 =>
    if line / cell % n = 0 then
      let kept := ((List.range ps.length).filter fun x => x / cell % n == 0).map fun x => ps.getD x []
      hhInput 0x20 2 (pageIsland (pgCsi r)) (4 * r + k) (head ++ packLine dt kept) s
    else s
  | _ => s

/-- Record a frame's opening or closure. -/
def csiRecordFrame (r k : Nat) (f : CsiFrame) (s : State) : State :=
  if hhCamMode s r k = 0 then s
  else hhCapture 0x21 (pageIsland (pgCsi r)) (4 * r + k) (frameDesc r k (flag s (pgCsi r) Off.CSI_CFG 17) f) s

/-! ## Lines (R187–R194) -/

/-- Bytes in a slot's line FIFO, at its 64-byte pitch (R194). -/
def fifoBytes (ls : List (Nat × List Byte)) : Nat := ls.foldl (fun n l => n + 64 * ceilDiv l.2.length 64) 0

/-- Deliver line `line` of the slot's open frame downstream; a full line buffer or FIFO cuts the frame there (R193, R194). -/
def csiDeliver (r k line : Nat) (ps : List (List Nat)) (s : State) : State :=
  match (csiSlot s r k).frame with
  | none => s
  | some f =>
    if f.cutLine != 0xFFFF then s
    else if cfgQueue f.cfg then
      let bs := packLine (cfgDt f.cfg) ps
      let held := (csiSlot s r k).fifo
      if 65536 < fifoBytes (held ++ [(f.id, bs)]) then
        updFrameOf r k (fun f => { CsiFrame.flag flQueueDrop f with cutLine := line }) s |> bump (pgCsi r) Off.CSI_CNT_QUEUE_DROP 1
      else updSlot r k (fun t => { t with fifo := t.fifo ++ [(f.id, bs)] }) s |> csiRecordLine r k f line ps
    else
      let e := ispLine (slotPipe r) (slotInput r k) ps s
      if e.1 then
        updFrameOf r k (fun f => { CsiFrame.flag flOverflow f with cutLine := line }) e.2
          |> bump (pgCsi r) Off.CSI_CNT_OVERFLOW_CUT 1 |> raise (pgCsi r) Evt.CSI_OVERFLOW_CUT
      else csiRecordLine r k f line ps e.2

/-- Deliver whole pad lines from the next index up to `stop`; a cut ends them (R189, R190, R193). Answers how many were delivered. -/
def csiPad (r k stop : Nat) : Nat → State → Nat × State
  | 0, s => (0, s)
  | n + 1, s =>
    match (csiSlot s r k).frame with
    | none => (0, s)
    | some f =>
      if f.cutLine != 0xFFFF || decide (stop ≤ f.next) then (0, s)
      else
        let s := csiDeliver r k f.next (padLine (cfgDt f.cfg) (cfgPad f.cfg) f.width) s
        let cut := (((csiSlot s r k).frame).map fun f => f.cutLine != 0xFFFF).getD true
        if cut then (0, s)
        else
          let e := csiPad r k stop n (updFrameOf r k (fun f => { f with next := f.next + 1, padded := f.padded + 1 }) s)
          (e.1 + 1, e.2)

/-- A line of the slot's open frame: its index, the gap before it, its repair, its delivery (R187, R189). -/
def csiLine (r k : Nat) (crcOk : Bool) (payload : List Byte) (s : State) : State :=
  match (csiSlot s r k).frame with
  | none => s
  | some f =>
    let dt := cfgDt f.cfg
    let idx1 := f.announced.getD (f.next + 1)
    let s := updFrameOf r k (fun f => { f with announced := none }) s
    let s := if crcOk then s else updFrameOf r k (fun f => { CsiFrame.flag flCrc f with crc := f.crc + 1 }) s
    if f.cutLine != 0xFFFF then s
    else if idx1 ≤ f.next then updFrameOf r k (fun f => { f with extra := f.extra + 1 }) s
    else if f.height ≤ idx1 - 1 then
      let s := if bitAt f.flags flLongFrame then s else bump (pgCsi r) Off.CSI_CNT_LONG_FRAME 1 s
      updFrameOf r k (fun f => { CsiFrame.flag flLongFrame f with extra := f.extra + 1 }) s
    else
      let s := (csiPad r k (idx1 - 1) f.height s).2
      let cut := (((csiSlot s r k).frame).map fun f => f.cutLine != 0xFFFF).getD true
      let s := updFrameOf r k (fun f => { f with linesRx := f.linesRx + 1 }) s
      if cut then s
      else
        let ps := unpackLine dt payload
        let s := if payload.length % (dtGroup dt).1 = 0 then s else updFrameOf r k (CsiFrame.flag flPartial) s
        let s :=
          if ps.length < f.width then
            updFrameOf r k (fun f => { CsiFrame.flag flShortLine f with short := f.short + 1 }) s
              |> bump (pgCsi r) Off.CSI_CNT_SHORT_LINE 1
          else if f.width < ps.length then
            updFrameOf r k (fun f => { CsiFrame.flag flLongLine f with long := f.long + 1 }) s
              |> bump (pgCsi r) Off.CSI_CNT_LONG_LINE 1
          else s
        let s := csiDeliver r k (idx1 - 1) (fitLine dt (cfgPad f.cfg) f.width ps) s
        updFrameOf r k (fun f => { f with next := idx1 }) s

/-! ## Frames (R190, R191, R197) -/

/-- Does a slot's frame still have lines that its queue has not taken? -/
def linesWait (t : CsiSlot) (f : CsiFrame) : Bool := t.fifo.any fun l => l.1 == f.id

/-- The open frame of a slot closes at a time: missing lines are padded, the pipeline is told, CSI_LAST takes its number and flags
(R190, R198). -/
def csiClose (r k eofTt : Nat) (s : State) : State :=
  match (csiSlot s r k).frame with
  | none => s
  | some f =>
    let e := csiPad r k f.height f.height s
    let s := if e.1 = 0 then e.2
      else updFrameOf r k (CsiFrame.flag flShortFrame) e.2 |> bump (pgCsi r) Off.CSI_CNT_SHORT_FRAME 1
    let s := updFrameOf r k (fun f => { f with eofTt, closed := true }) s
    match (csiSlot s r k).frame with
    | none => s
    | some f =>
      let s := updSlot r k (fun t => { t with frame := none, closing := t.closing ++ [f] }) s
        |> bump (pgCsi r) Off.CSI_CNT_FRAMES 1
        |> wr (pgCsi r) (Off.CSI_LAST + 4 * k) (BitVec.ofNat 32 (f.frameNo + 65536 * (f.flags % 65536)))
        |> setFld (pgCsi r) Off.STATUS (8 + k) 1 0
        |> csiRecordFrame r k f
      if cfgQueue f.cfg then s else ispClose (slotPipe r) (slotInput r k) f.flags s

/-- The descriptor of a slot's oldest closed frame is completed once its last line has been accepted downstream (R190, R198). -/
def execFrameDescriptor (r k : Nat) (s : State) : State :=
  if !(pagePresent s.part (pgCsi r) && pageOn s (pgCsi r)) then s
  else match (csiSlot s r k).closing with
  | [] => s
  | f :: rest =>
    if linesWait (csiSlot s r k) f then s
    else
      let s := updSlot r k (fun t => { t with closing := rest }) s |> endCmd (pgCsi r) (4 * f.id + k)
        |> raise (pgCsi r) Evt.CSI_FRAME_DONE
      let s := if f.flags = 0 then s else raise (pgCsi r) Evt.CSI_FRAME_FLAGGED s
      if !bitOf f.descq 31 then s
      else if 16 ≤ (csiSlot s r k).descs.length then bump (pgCsi r) Off.CSI_CNT_DESC_LOST 1 s
      else
        let d := frameDesc r k (flag s (pgCsi r) Off.CSI_CFG 17) f
        updSlot r k (fun t => { t with descs := t.descs ++ [(fieldOf f.descq 0 18, d)] }) s

/-- A frame opens on a slot whose registers name the packet's channel (R186, R190, R194, R197, R204). -/
def csiOpen (r k no sofTt : Nat) (s : State) : State :=
  let reg1 (off : Nat) : Word := rd s (pgCsi r) (off + 0x10 * k)
  let fsync := ((csiOf s r).fsyncs.find? fun b => decide (b ≤ sofTt)).getD 0
  let seq := (csiSlot s r k).seq
  let id := (csiSlot s r k).count
  let f : CsiFrame :=
    { id, cfg := reg1 Off.CSI_STREAM_CFG, geom := reg1 Off.CSI_STREAM_GEOM, queue := reg1 Off.CSI_STREAM_QUEUE
      descq := reg1 Off.CSI_STREAM_DESCQ, frameNo := no % 65536, sofTt, eofTt := 0, fsyncTt := fsync, opened := pulsesAt s (sofTt / 64)
      limit := (rd s (pgCsi r) Off.CSI_FRAME_TIMEOUT).toNat, seq, linesRx := 0, padded := 0, short := 0, long := 0, eccCorr := 0
      eccAll := 0, crc := 0, flags := 0, cutLine := 0xFFFF, extra := 0, next := 0, announced := none, due := false, closed := false }
  let s := updSlot r k (fun t => { t with cfg := f.cfg, frame := some f, count := id + 1, seq := (seq + 1) % 2 ^ 32, gated := false }) s
    |> startCmd (pgCsi r) (4 * id + k) |> setFld (pgCsi r) Off.STATUS (8 + k) 1 1 |> csiRecordFrame r k f
  if cfgQueue f.cfg then
    if queueHalted s (.csiLine r k) (fieldOf f.queue 0 18) then
      updFrameOf r k (fun f => { CsiFrame.flag flQueueDrop f with cutLine := 0 }) s |> bump (pgCsi r) Off.CSI_CNT_QUEUE_DROP 1
    else s
  else
    let e := ispOpen (slotPipe r) (slotInput r k) r (cfgDt f.cfg) f.frameNo sofTt seq f.width f.height s
    if e.1 then e.2
    else
      updFrameOf r k (fun f => { CsiFrame.flag flOverflow f with cutLine := 0 }) e.2
        |> bump (pgCsi r) Off.CSI_CNT_OVERFLOW_CUT 1 |> raise (pgCsi r) Evt.CSI_OVERFLOW_CUT

/-! ## Packet headers (R182, R184, R185) -/

/-- Every open frame of the receiver changes. -/
def updOpen (r : Nat) (f : CsiFrame → CsiFrame) (s : State) : State :=
  (List.range 4).foldl (fun s k => updFrameOf r k f s) s

/-- AVK1: a header or CRC error is counted for a virtual channel, saturating (R195). -/
def avkCount (r vc lo : Nat) (s : State) : State :=
  let off := Off.CSI_VC_ERR + 4 * (vc % 16)
  if flag s (pgCsi r) Off.CSI_CFG 17 then
    setFld (pgCsi r) off lo 16 (satNat 0xFFFF (fld s (pgCsi r) off lo 16 + 1)) s
  else s

/-- Is the receiver able to take packets: present, powered, its domain open, and not in replay (R77, R539, R569)? -/
def csiLive (s : State) (r : Nat) : Bool :=
  pagePresent s.part (pgCsi r) && pageOn s (pgCsi r) && !fenced s (pgCsi r) && hhMode s != 2

/-- A packet's header check: an uncorrectable one discards the rest of the burst; else the packet's effect follows, and a corrected
header is counted in the frames of `slots` after it (R185). -/
def csiPacket (r vc : Nat) (ecc : Ecc) (slots : State → List Nat) (k : State → State) (s : State) : State :=
  if !csiLive s r || !(csiOf s r).burst then s
  else match ecc with
  | .bad v =>
    setCsi r { csiOf s r with burst := false } s
      |> updOpen r (fun f => { CsiFrame.flag flEccUncorr f with eccAll := f.eccAll + 1 })
      |> bump (pgCsi r) Off.CSI_CNT_ECC_UNCORR 1 |> raise (pgCsi r) Evt.CSI_ECC_UNCORR |> avkCount r (v.getD 0) 0
  | .clean => k s
  | .corrected =>
    let mark (f : CsiFrame) : CsiFrame := { CsiFrame.flag flEccCorr f with eccCorr := f.eccCorr + 1, eccAll := f.eccAll + 1 }
    let s := s |> bump (pgCsi r) Off.CSI_CNT_ECC_CORR 1 |> avkCount r vc 0
    (slots s).foldl (fun s j => updFrameOf r j mark s) s |> k

/-- HS_BURST: a burst begins; one that starts faulty is discarded, and one before a required deskew is not accepted (R182). -/
def execHsBurst (r : Nat) (ok : Bool) (s : State) : State :=
  if !csiLive s r then s
  else if flag s (pgCsi r) Off.CSI_CFG 16 && !flag s (pgCsi r) Off.STATUS 13 then setCsi r { csiOf s r with burst := false } s
  else if ok then setCsi r { csiOf s r with burst := true } s
  else
    setCsi r { csiOf s r with burst := false } s |> updOpen r (CsiFrame.flag flPhyErr)
      |> bump (pgCsi r) Off.CSI_CNT_PHY_ERR 1 |> raise (pgCsi r) Evt.CSI_PHY_ERR

/-- DESKEW: an initial deskew sequence has completed (R182). -/
def execDeskew (r : Nat) (s : State) : State := if csiLive s r then setFlag (pgCsi r) Off.STATUS 13 true s else s

/-- LINK_UP: the clock lane enters HS or LP-11 without error, or leaves it (R201). -/
def execLinkUp (r : Nat) (up : Bool) (s : State) : State := if csiLive s r then setFlag (pgCsi r) Off.STATUS 12 up s else s

/-- The slots that a Frame Start concerns: those whose registers, or whose open frame, have its channel (R184, R186). -/
def fsSlots (s : State) (r vc : Nat) : List Nat :=
  (List.range 4).filter fun k =>
    let c := rd s (pgCsi r) (Off.CSI_STREAM_CFG + 0x10 * k)
    (cfgEn c && cfgVc c == vc) || (cfgEn (slotCfg s r k) && cfgVc (slotCfg s r k) == vc)

/-- A Frame Start at one slot: an open frame closes with NO_FE and the slot's registers take effect; at an open gate and on an enabled page a
frame opens (R186, R190, R197). -/
def csiFrameStart (r k vc no sofTt : Nat) (corr : Bool) (s : State) : State :=
  let s :=
    if (csiSlot s r k).frame.isSome then
      updFrameOf r k (CsiFrame.flag flNoFe) s |> bump (pgCsi r) Off.CSI_CNT_NO_FE 1 |> csiClose r k (64 * beatNo s)
    else s
  let c := rd s (pgCsi r) (Off.CSI_STREAM_CFG + 0x10 * k)
  let s := updSlot r k (fun t => { t with cfg := c }) s
  if !(cfgEn c && cfgVc c == vc) || !enabled s (pgCsi r) then s
  else if !flag s (pgCsi r) Off.CSI_GATE 0 then
    updSlot r k (fun t => { t with gated := true }) s |> bump (pgCsi r) Off.CSI_CNT_GATED 1
  else
    let s := csiOpen r k no sofTt s
    if corr then updFrameOf r k (fun f => { CsiFrame.flag flEccCorr f with eccCorr := f.eccCorr + 1, eccAll := f.eccAll + 1 }) s
    else s

/-- FRAME_START: a Frame Start packet with its frame number and the Table Time of its header (R190, R199). -/
def execFrameStart (r vc : Nat) (ecc : Ecc) (no sofTt : Nat) (s : State) : State :=
  csiPacket r vc ecc (fun _ => [])
    (fun s => (fsSlots s r vc).foldl (fun s k => csiFrameStart r k vc no sofTt (ecc == .corrected) s) s) s

/-- FRAME_END: closes the open frame of every enabled slot of the channel; an orphan is counted (R190, R191). -/
def execFrameEnd (r vc : Nat) (ecc : Ecc) (eofTt : Nat) (s : State) : State :=
  csiPacket r vc ecc (fun s => vcSlots s r vc)
    (fun s => (vcSlots s r vc).foldl (fun s k =>
      if (csiSlot s r k).frame.isSome then csiClose r k eofTt s
      else if (csiSlot s r k).gated then updSlot r k (fun t => { t with gated := false }) s
      else bump (pgCsi r) Off.CSI_CNT_ORPHAN 1 s) s) s

/-- LINE_START: the number of the slot's next line, on slots with LINE_NO (R184, R189). -/
def execLineStart (r vc : Nat) (ecc : Ecc) (line : Nat) (s : State) : State :=
  let slots (s : State) : List Nat := (vcSlots s r vc).filter fun k => cfgLineNo (slotCfg s r k)
  csiPacket r vc ecc slots
    (fun s => (slots s).foldl (fun s k =>
      if (csiSlot s r k).frame.isSome then updFrameOf r k (fun f => { f with announced := some (line % 65536) }) s
      else if (csiSlot s r k).gated then s
      else bump (pgCsi r) Off.CSI_CNT_ORPHAN 1 s) s) s

/-- LINE_END: checked for ECC and discarded (R184). -/
def execLineEnd (r vc : Nat) (ecc : Ecc) (s : State) : State := csiPacket r vc ecc (fun s => vcSlots s r vc) (fun s => s) s

/-- GENERIC_SHORT_PACKET: counted and discarded (R184). -/
def execGenericShortPacket (r vc : Nat) (ecc : Ecc) (s : State) : State :=
  csiPacket r vc ecc (fun s => vcSlots s r vc) (bump (pgCsi r) Off.CSI_CNT_GENERIC 1) s

/-- LONG_PACKET: matched to a slot by channel and data type and made into a line (R184, R185, R187, R191). -/
def execLongPacket (r vc dt : Nat) (ecc : Ecc) (crcOk : Bool) (payload : List Byte) (s : State) : State :=
  let slots (s : State) : List Nat := (vcSlots s r vc).filter fun k => cfgDt (slotCfg s r k) == dt
  csiPacket r vc ecc slots
    (fun s =>
      let s := if crcOk then s
        else s |> bump (pgCsi r) Off.CSI_CNT_CRC 1 |> raise (pgCsi r) Evt.CSI_CRC |> avkCount r vc 16
      match slots s with
      | [] => s |> bump (pgCsi r) Off.CSI_CNT_UNMATCHED 1 |> raise (pgCsi r) Evt.CSI_UNMATCHED
      | k :: _ =>
        if (csiSlot s r k).frame.isSome then csiLine r k crcOk payload s
        else if (csiSlot s r k).gated then s
        else bump (pgCsi r) Off.CSI_CNT_ORPHAN 1 s) s

/-- FRAME_TIMEOUT, on a receiver that is live: the first beat at or after SOF_TT plus the timeout that the frame opened with, counted
in beat pulses (R190, R598). The frame closes at the end of the beat, after the packets of the beat (R192). -/
def execFrameTimeout (r k : Nat) (s : State) : State :=
  match (csiSlot s r k).frame with
  | none => s
  | some f =>
    if csiLive s r && f.limit != 0 && elapsed s f.opened (f.sofTt % 64 + f.limit) then updFrameOf r k (fun f => { f with due := true }) s
    else s

/-- The timeout check of a slot, the last of its affairs in a beat (R192): a due frame that no packet has closed closes with TIMEOUT. -/
def csiTimeout (r k : Nat) (s : State) : State :=
  if ((csiSlot s r k).frame.map (·.due)).getD false then
    updFrameOf r k (CsiFrame.flag flTimeout) s |> bump (pgCsi r) Off.CSI_CNT_TIMEOUT 1 |> raise (pgCsi r) Evt.CSI_TIMEOUT
      |> csiClose r k (64 * beatNo s)
  else s

/-- The timeout checks of every receiver. -/
def csiTimeouts (s : State) : State :=
  (s.csi.map (·.1)).foldl (fun s r => (List.range 4).foldl (fun s k => csiTimeout r k s) s) s

/-- CSI_LAST shows the flags of the slot's latest closed frame, if that is the frame given (R198). -/
def csiLast (r k id : Nat) (s : State) : State :=
  match (csiSlot s r k).closing.getLast? with
  | some f =>
    if f.id = id then wr (pgCsi r) (Off.CSI_LAST + 4 * k) (BitVec.ofNat 32 (f.frameNo + 65536 * (f.flags % 65536))) s else s
  | none => s

/-- The queue of a slot does not admit its lines (R410): the frame whose line comes first is cut there (R194). -/
def csiRefused (r k : Nat) (s : State) : State :=
  let t := csiSlot s r k
  match t.fifo with
  | [] => s
  | l :: _ =>
    let first := (t.fifo.filter fun x => x.1 == l.1).length
    let cut (f : CsiFrame) : CsiFrame :=
      if f.id = l.1 then { CsiFrame.flag flQueueDrop f with cutLine := Nat.min f.cutLine f.next - first } else f
    let whole := (t.closing ++ t.frame.toList).any fun f => f.id == l.1 && f.cutLine == 0xFFFF
    updSlot r k (fun t => { t with fifo := t.fifo.filter (fun x => x.1 != l.1), taken := 0, frame := t.frame.map cut
                                   closing := t.closing.map cut }) s
      |> bump (pgCsi r) Off.CSI_CNT_QUEUE_DROP (ofBool whole) |> csiLast r k l.1

/-! ## Frame sync (R196) -/

/-- The level of CAM_FSYNC: active or idle by CSI_FSYNC.ACTIVE_LOW, clamped to 0 while the receiver is not powered (R145, R180, R201). -/
def fsyncLevel (s : State) (r : Nat) : Bool :=
  boundary s (pagePower (pgCsi r)) .pushPull ((csiOf s r).fsyncHigh != flag s (pgCsi r) Off.CSI_FSYNC 12)

/-- An edge of the pin, if what has changed moves it from its level before. -/
def fsyncEdge (r : Nat) (was : Bool) (s : State) : State :=
  if fsyncLevel s r = was then s else emit (.fsyncPin r (fsyncLevel s r)) s

/-- FSYNC launches: the pin goes to its active level, or the running pulse starts again. -/
def csiFsync (r : Nat) (s : State) : State :=
  let c := csiOf s r
  setCsi r { c with fsyncs := (64 * beatNo s :: c.fsyncs).take 64, fsyncAt := s.tt.beats, fsyncHigh := true } s
    |> bump (pgCsi r) Off.CSI_CNT_FSYNC 1 |> fsyncEdge r (fsyncLevel s r)

/-- FSYNC_PULSE_END: WIDTH_US after the latest launch the pin returns to its idle level. -/
def execFsyncPulseEnd (r : Nat) (s : State) : State :=
  let c := csiOf s r
  if c.fsyncHigh && elapsed s c.fsyncAt (fld s (pgCsi r) Off.CSI_FSYNC 0 12 * 1000) then
    setCsi r { c with fsyncHigh := false } s |> fsyncEdge r (fsyncLevel s r)
  else s

/-- CAPTURE_START and CAPTURE_STOP: the gate. -/
def csiGate (r : Nat) (isOpen : Bool) (s : State) : State := setFlag (pgCsi r) Off.CSI_GATE 0 isOpen s

/-- What CSI_VC_ERR reads as: 0 with AVK1_COMPAT at 0 (R195). -/
def vcErr (s : State) (r off : Nat) : Nat := if flag s (pgCsi r) Off.CSI_CFG 17 then (rd s (pgCsi r) off).toNat else 0

/-- VC_ERR_READ: a read of CSI_VC_ERR_v returns the counts and clears them (R195, R201). -/
def execVcErrRead (w : Func) (r vc : Nat) (s : State) : State :=
  let off := Off.CSI_VC_ERR + 4 * (vc % 16)
  readAccess w (pgCsi r) off (fun s => (vcErr s r off, wr (pgCsi r) off 0 s)) s

/-! ## Register writes (R186, R201) -/

/-- Would two enabled slots share a channel and data type? -/
def csiClash (s : State) (r k : Nat) (v : Word) : Bool :=
  cfgEn v && ((List.range 4).any fun j =>
    let c := rd s (pgCsi r) (Off.CSI_STREAM_CFG + 0x10 * j)
    j != k && cfgEn c && cfgVc c == cfgVc v && cfgDt c == cfgDt v)

/-- Physical lanes distinct over the lanes in use (CSI_LANE_MAP). -/
def laneMapOk (lanes map : Nat) : Bool :=
  let n := 2 ^ lanes
  let ls := (List.range n).map fun k => bitsAt map (2 * k) 2
  (List.range n).all fun i => (List.range n).all fun j => i == j || ls.getD i 0 != ls.getD j 0

/-- A write to a receiver page register. -/
def csiRegWrite (r off : Nat) (v : Word) (s : State) : State :=
  let p := pgCsi r
  let no := refuse p Off.CSI_CNT_CFG_REFUSED s
  if off = Off.CSI_CFG then
    let rate := fieldOf v 3 13
    if flag s p Off.CTRL 0 || fieldOf v 0 2 == 3 || (decide (1500 < rate) && !bitOf v 16) || decide (rate < 80) ||
        decide (4500 < rate) || !laneMapOk (fieldOf v 0 2) (fld s p Off.CSI_LANE_MAP 0 8) then no
    else plainWrite p off v s
  else if off = Off.CSI_LANE_MAP then
    if flag s p Off.CTRL 0 || !laneMapOk (fld s p Off.CSI_CFG 0 2) (fieldOf v 0 8) then no else plainWrite p off v s
  else if 0x110 ≤ off ∧ off < 0x150 then
    let k := (off - 0x110) / 0x10
    if off % 0x10 = 0 then
      if csiClash s r k v || !dtOk (cfgDt v) || decide (2 ≤ fieldOf v 11 2) || (fieldOf v 11 2 == 0 && !dtImage (cfgDt v)) then no
      else
        let was := cfgEn (rd s p off)
        let s := plainWrite p off v s
        if cfgEn v && !was then updSlot r k (fun t => { t with seq := 0 }) s else s
    else if off % 0x10 = 4 then
      if fieldOf v 0 16 == 0 || decide (16384 < fieldOf v 0 16) || fieldOf v 16 16 == 0 then no else plainWrite p off v s
    else plainWrite p off v s
  else if off = Off.CSI_FSYNC then
    if fieldOf v 0 12 == 0 then no else plainWrite p off v s |> fsyncEdge r (fsyncLevel s r)
  else plainWrite p off v s

end Sys2Proof.Machine
end

