-- ==== Sys2Proof/Machine/Meld.lean ====
section
/-! DEFINITION. Meld tiles: header, codecs, checks, encoding (R371, R378–R384). -/
namespace Sys2Proof.Machine

/-! ## CRC-32C -/

/-- One bit of the reflected CRC-32C (Castagnoli). -/
def crcBit (c : Nat) : Nat := if c % 2 = 1 then (c / 2) ^^^ 0x82F63B78 else c / 2
/-- One byte. -/
def crcByte (c : Nat) (b : Byte) : Nat := (List.range 8).foldl (fun c _ => crcBit c) (c ^^^ b.toNat)
/-- CRC-32C of a byte string. -/
def crc32c (bs : List Byte) : Nat := bs.foldl crcByte 0xFFFFFFFF ^^^ 0xFFFFFFFF

/-! ## Length tables and canonical codes (R381) -/

/-- The n code lengths of a table. -/
def lenTable (n : Nat) (bs : List Byte) : List Nat :=
  (List.range n).map fun k => bitsAt (bs.getD (k / 2) 0).toNat (4 * (k % 2)) 4

/-- Is a table complete (R381)? -/
def lensOk (lens : List Nat) : Bool :=
  match lens.filter (· != 0) with
  | [] => false
  | [l] => l == 1
  | ls => (ls.map fun l => 2 ^ (15 - l)).foldl (· + ·) 0 == 2 ^ 15

/-- Canonical codes: (symbol, length, code) by length, then symbol. -/
def canonCodes (lens : List Nat) : List (Nat × Nat × Nat) :=
  let order := (rangeFrom 1 15).flatMap fun l => ((List.range lens.length).filter fun k => lens.getD k 0 == l).map fun k => (k, l)
  (order.foldl (fun (acc : List (Nat × Nat × Nat) × Nat × Nat) e =>
    let code := if acc.1.isEmpty then 0 else (acc.2.2 + 1) * 2 ^ (e.2 - acc.2.1)
    (acc.1 ++ [(e.1, e.2, code)], e.2, code)) ([], 0, 0)).1

/-! ## Bitstreams (R381, R382) -/

/-- The bits of a byte string, bit 7 of each byte first. -/
def bitsOfBytes (bs : List Byte) : List Bool := bs.flatMap fun b => (List.range 8).map fun i => bitAt b.toNat (7 - i)

/-- The number that bits spell, most significant first. -/
def ofBits (bs : List Bool) : Nat := bs.foldl (fun n b => 2 * n + ofBool b) 0

/-- The next symbol of a stream. -/
def nextSym (codes : List (Nat × Nat × Nat)) (bits : List Bool) : Option (Nat × List Bool) :=
  (codes.find? fun c => decide (c.2.1 ≤ bits.length) && ofBits (bits.take c.2.1) == c.2.2).map fun c =>
    (c.1, bits.drop c.2.1)

/-- Decode nibbles until `need` exist; run symbols stand for zero nibbles (NIBBLE, ZERO_RUN). -/
def decNibbles (codes : List (Nat × Nat × Nat)) : Nat → Nat → List Bool → Option (List Nat × List Bool)
  | 0, need, bits => if need = 0 then some ([], bits) else none
  | f + 1, need, bits =>
    if need = 0 then some ([], bits)
    else match nextSym codes bits with
      | none => none
      | some (sym, rest) =>
        let run := if sym < 16 then [sym] else List.replicate (2 ^ (sym - 16 + 1)) 0
        if need < run.length then none
        else (decNibbles codes f (need - run.length) rest).map fun r => (run ++ r.1, r.2)

/-- Decode the bytes after the first of a DELTA stream. -/
def decDelta (codes : List (Nat × Nat × Nat)) : Nat → Nat → List Bool → Option (List Nat × List Bool)
  | 0, _, bits => some ([], bits)
  | n + 1, prev, bits =>
    match nextSym codes bits with
    | none => none
    | some (sym, rest) =>
      let zr : Option (Nat × List Bool) :=
        if sym < 15 then some (sym, rest) else if rest.length < 8 then none else some (ofBits (rest.take 8), rest.drop 8)
      match zr with
      | none => none
      | some (z, rest) =>
        let d : Int := if z % 2 = 0 then (z / 2 : Nat) else -((z / 2 : Nat) + 1 : Int)
        let b := wrap 8 ((prev : Int) + d)
        (decDelta codes n b rest).map fun r => (b :: r.1, r.2)

/-- The bytes of nibbles, low nibble first. -/
def nibbleBytes : List Nat → List Byte
  | a :: b :: r => BitVec.ofNat 8 (a + 16 * b) :: nibbleBytes r
  | _ => []

/-- The decoded bytes of a payload: an error code of R383, or the bytes. -/
def meldPayloadDecode (codec ulen : Nat) (p : List Byte) : Except Nat (List Byte) :=
  if codec = 0 then .ok p
  else
    let n := if codec = 2 then 24 else 16
    let lens := lenTable n (p.take (n / 2))
    if p.length < n / 2 ∨ lensOk lens = false then .error 7
    else
      let codes := canonCodes lens
      let bits := bitsOfBytes (p.drop (n / 2))
      let out : Option (List Byte × List Bool) :=
        if codec = 3 then
          if bits.length < 8 then none
          else
            (decDelta codes (ulen - 1) (ofBits (bits.take 8)) (bits.drop 8)).map fun r =>
              ((ofBits (bits.take 8) :: r.1).map (BitVec.ofNat 8), r.2)
        else (decNibbles codes (2 * ulen) (2 * ulen) bits).map fun r => (nibbleBytes r.1, r.2)
      match out with
      | none => .error 8
      | some (bs, rest) => if rest.any (·) then .error 8 else .ok bs

/-! ## Tiles -/

/-- Decode the bytes of a slot with the checks of R383 in order, for the key slot that decrypts it and the slot's tag. An empty slot
gives zeros (R371). -/
def meldDecode (key tag : Nat) (slot : List Byte) : Except Nat (List Byte) :=
  if (slot.take 64).all (· == 0) then .ok (List.replicate 4096 0)
  else
    let f (a n : Nat) : Nat := ofLeBytes ((slot.drop a).take n)
    let ulen := f 2 2
    let clen := f 4 2
    if f 0 1 / 16 ≠ 1 then .error 1
    else if 4 ≤ f 0 1 % 16 then .error 2
    else if f 12 4 ≠ 0 then .error 3
    else if ulen = 0 ∨ 4096 < ulen ∨ clen = 0 ∨ 4096 < clen ∨ (f 0 1 % 16 = 0 ∧ clen ≠ ulen) ∨ 4096 < 16 + clen then .error 4
    else if f 1 1 ≠ key then .error 5
    else if f 6 2 ≠ tag % 65536 then .error 6
    else match meldPayloadDecode (f 0 1 % 16) ulen ((slot.drop 16).take clen) with
      | .error e => .error e
      | .ok bs => if crc32c bs = f 8 4 then .ok (bs ++ List.replicate (4096 - bs.length) 0) else .error 9

/-- Granules that a stored tile occupies (R378). -/
def meldGranules (slot : List Byte) : Nat := Nat.min 64 (ceilDiv (16 + ofLeBytes ((slot.drop 4).take 2)) 64)

/-- The bytes of a tile of a codec and payload, its last granule completed with zeros (R378, R379). -/
def meldTile (codec key tag : Nat) (data payload : List Byte) : List Byte :=
  let t := leBytes 1 (codec + 16) ++ leBytes 1 key ++ leBytes 2 data.length ++ leBytes 2 payload.length ++ leBytes 2 tag ++
    leBytes 4 (crc32c data) ++ leBytes 4 0 ++ payload
  t ++ List.replicate (64 * ceilDiv t.length 64 - t.length) 0

/-- A tile encoded with one codec only (R411): RAW for codec 0 and where the codec's payload does not fit. -/
def meldForce (codec key tag : Nat) (data : List Byte) : List Byte × Bool :=
  let p := Config.meldPayload codec data
  let ok := codec != 0 && decide (p.length ≤ 4096) && (match meldPayloadDecode codec data.length p with
    | .ok bs => bs == data
    | .error _ => false)
  if ok then (meldTile codec key tag data p, false) else (meldTile 0 key tag data data, true)

/-- Encode 4,096 bytes (R384): RAW and each codec of `codecs` whose payload decodes to the data; the smallest payload stands, and of
equal ones the lowest codec. Answers the bytes to store and whether RAW was chosen. -/
def meldEncode (codecs : List Nat) (key tag : Nat) (data : List Byte) : List Byte × Bool :=
  let cands := (codecs.filter fun c => decide (1 ≤ c) && decide (c ≤ 3)).filterMap fun c =>
    let p := Config.meldPayload c data
    match meldPayloadDecode c data.length p with
    | .ok bs => if bs = data ∧ p.length < data.length then some (c, p) else none
    | .error _ => none
  let best := cands.foldl (fun (b : Nat × List Byte) c => if c.2.length < b.2.length then c else b) (0, data)
  (meldTile best.1 key tag data best.2, best.1 == 0)

end Sys2Proof.Machine
end

