-- ==== Sys2Proof/Machine/Memory.lean ====
section
/-! DEFINITION. Device memory, the region table, home slots in HBM and host memory, and the kitties (R369–R377, R383–R391,
R400–R406). -/
namespace Sys2Proof.Machine

def pgKitty (n : Nat) : Page := ⟨.kitty, n⟩
def pgMeld (n : Nat) : Page := ⟨.meld, n⟩

/-! ## Addresses (R370) -/

/-- The MD whose stack holds a device address. -/
def homeMd (s : State) (a : Nat) : Nat := if s.part.stackCount = 2 ∧ bitAt a 12 != bitAt a 22 then 1 else 0

/-- The MD that caches a home slot; a T4 slot is cached by the MD of its context's queue engine. -/
def mdOf (s : State) (h : Home) : Nat :=
  match h.t4 with
  | none => homeMd s h.addr
  | some c => c % Nat.max 1 s.part.stackCount

/-! ## Contexts and key slots, as memory sees them -/

/-- The model slot a context is bound to (R452). -/
def ctxSlot (s : State) (c : Nat) : Option Nat :=
  if decide (c < 1024) && fld s (pgCtx c) Off.CTX_STATUS 0 3 == 3 then some (fld s (pgCtx c) Off.CTX_STATUS 4 4) else none

def keyOf (s : State) (k : Nat) : KeySlot := sget ⟨0, 0, 0, []⟩ s.mem.keys k
def setKey (k : Nat) (e : KeySlot) (s : State) : State :=
  { s with mem := { s.mem with keys := sset ⟨0, 0, 0, []⟩ s.mem.keys k e } }

/-- Is a key slot assigned to a tenant (R478)? -/
def keyAssigned (s : State) (k t : Nat) : Bool :=
  k != 0 && decide (k < 256) && ((keyOf s k).st == 1 || (keyOf s k).st == 2) && (keyOf s k).tenant == t

def reqTenant (s : State) (r : Requester) : Nat :=
  match r with
  | .ctx c => ctxTenant s c
  | .tag n => n
  | .table n => n
  | _ => 0

/-! ## The region table (R374–R376, R406) -/

/-- May the requester read or write in a region (R374)? -/
def Region.allows (s : State) (r : Region) (who : Requester) (write : Bool) : Bool :=
  match who, r.kind with
  | .rot, 1 => !write
  | .rot, 2 => true
  | .rot, 3 => true
  | .mgmt, 1 => true
  | .mgmt, 2 => !write
  | .ctx c, 2 => !write && ctxSlot s c == some r.slot
  | .ctx c, 4 => ctxTenant s c == r.tenant && (!write || r.writable)
  | .tag n, 4 => n == r.tenant && (!write || r.writable)
  | .table _, 2 => !write
  | .table n, 4 => n == r.tenant && !write
  | _, _ => false

/-- Does the home MD answer: it is on, and its memory domain is open, or held for suspect replay of the context, or held and the
requester is the management cores or the root of trust (R400, R539, R543)? -/
def memAdmits (s : State) (who : Requester) (h : Home) : Bool :=
  let d := 72 + mdOf s h
  domOn s (5 + mdOf s h) && (phaseOf s d == 0 || match who with
    | .ctx c => admits s d c
    | .tag _ => false
    | .table _ => false
    | _ => phaseOf s d == 5)

/-- Is a request for a home slot allowed: the region table for T3, the owning context for T4 (R375)? -/
def memAllows (s : State) (who : Requester) (h : Home) (write : Bool) : Bool :=
  memAdmits s who h &&
    match h.t4 with
    | some c => who == .ctx c || who == .tag (ctxTenant s c)
    | none =>
      match regionOf s h.addr with
      | some r => r.allows s who write
      | none => false

/-- A request that the region check refused is counted (R375). -/
def memDenied (who : Requester) (h : Home) (s : State) : State :=
  if memAdmits s who h then bump (pgMemenc (mdOf s h)) Off.MEMENC_CNT_DENIED 1 s else s

/-! ## Home slots (R371, R373, R377, R383, R384) -/

/-- The key slot that encrypts a slot, and its tag. -/
def homeKey (s : State) (h : Home) : Nat :=
  match h.t4 with
  | some c => ctxKey s c
  | none => ((regionOf s h.addr).map (·.key)).getD 0

/-- The tenant a record about a device address concerns (R533). -/
def addrTenant (s : State) (a : Nat) : Nat :=
  match regionOf s a with
  | some r => if r.kind = 4 then r.tenant else 0xFF
  | none => 0xFF

/-- A Meld failure: the log, the counters, the event and the record (R383, R405, R532). -/
def meldFail (code : Nat) (h : Home) (s : State) : State :=
  let n := mdOf s h
  let s := s |> wr (pgMeld n) Off.MELD_ERR_LOG (BitVec.ofNat 32 (code + 16 * ofBool h.t4.isSome))
    |> wr64 (pgMeld n) Off.MELD_ERR_ADDR_LO Off.MELD_ERR_ADDR_HI h.addr
    |> bump (pgMeld n) Off.MELD_CNT_ERR 1 |> raise (pgMeld n) Evt.MELD_DECODE_ERROR
  let s := if code = 5 then bump (pgMemenc n) Off.MEMENC_CNT_SLOT_MISMATCH 1 s else s
  let ten := match h.t4 with
    | some c => ctxTenant s c
    | none => addrTenant s h.addr
  formRec (mkRec 4 code 1 (72 + n) ten (68 + n) ((h.t4).getD 0xFFFF) h.addr 0) s

/-- Decode stored bytes of a slot (R383), with the slot's key or one that a queue's block names (R414). -/
def slotDecode (key : Option Nat) (h : Home) (bytes : List Byte) (s : State) : Option (List Byte) × State :=
  let n := mdOf s h
  match meldDecode (key.getD (homeKey s h)) (h.addr / 4096) bytes with
  | .error e => (none, meldFail e h s)
  | .ok bs =>
    let g := if (bytes.take 64).all (· == 0) then 1 else meldGranules bytes
    (some bs, s |> bump (pgMeld n) Off.MELD_CNT_DECODED 1 |> bump (pgMeld n) Off.MELD_CNT_IN_GRANULES g)

/-- MC_ECC_LOG is filled while nothing is held in it, or by an uncorrectable event over a corrected one (R403). -/
def eccLog (n a bytes : Nat) (un : Bool) (s : State) : State :=
  let p := pgMc n
  if flag s p Off.MC_ECC_LOG 0 && (!un || flag s p Off.MC_ECC_LOG 1) then s
  else s |> wr p Off.MC_ECC_LOG (BitVec.ofNat 32 (1 + 2 * ofBool un + 4 * (if un then 0 else bytes)))
    |> wr64 p Off.MC_ECC_ADDR_LO Off.MC_ECC_ADDR_HI a

/-- Read a T3 slot: an uncorrectable granule among those the tile occupies poisons it (R373). -/
def slotRead (h : Home) (s : State) : Option (List Byte) × State :=
  let n := mdOf s h
  let a := h.addr / 4096 * 4096
  let bytes := memRead s a 4096
  let g := if (bytes.take 64).all (· == 0) then 1 else meldGranules bytes
  let s := bump (pgMc n) Off.MC_CNT_RD_GRANULES g s
  match (List.range g).find? fun i => s.mem.poison.contains (a + 64 * i) with
  | some i =>
    (none, s |> eccLog n (a + 64 * i) 0 true |> bump (pgMc n) Off.MC_CNT_UNCORR 1 |> raise (pgMc n) Evt.MC_UNCORR
      |> formRec (mkRec 3 1 1 (72 + n) (addrTenant s (a + 64 * i)) (68 + n) 0xFFFF (a + 64 * i) 0))
  | none => slotDecode none h bytes s

/-- An encoded tile is counted and written to its home slot; what does not fit in the 4 KiB slot is not stored. A T4 slot is written
to host memory (R378). -/
def slotStore (h : Home) (e : List Byte × Bool) (s : State) : State :=
  let n := mdOf s h
  let bytes := e.1.take 4096
  let s := s |> bump (pgMeld n) Off.MELD_CNT_ENCODED 1 |> bump (pgMeld n) Off.MELD_CNT_OUT_GRANULES (e.1.length / 64)
  let s := if e.2 then bump (pgMeld n) Off.MELD_CNT_RAW 1 s else s
  match h.t4 with
  | some c => hostSend (ctxTenant s c) (.hostWrite (ctxTenant s c) (h.addr / 4096 * 4096) bytes) s
  | none =>
    let a := h.addr / 4096 * 4096
    let s := memWrite a bytes s |> bump (pgMc n) Off.MC_CNT_WR_GRANULES (bytes.length / 64)
    { s with mem := { s.mem with poison := s.mem.poison.filter fun g => !(decide (a ≤ g) && decide (g < a + bytes.length)) } }

/-- The codecs of a home slot (R384). -/
def homeCodecs (s : State) (h : Home) : List Nat :=
  match h.t4 with
  | some _ => [1, 2, 3]
  | none => ((regionOf s h.addr).map (·.codecs)).getD []

/-- Encode a tile and write it to its home slot (R384). -/
def slotWrite (h : Home) (data : List Byte) (s : State) : State :=
  slotStore h (meldEncode (homeCodecs s h) (homeKey s h) (h.addr / 4096) data) s

/-! ## Kitty lines (R385–R389) -/

def kittyOf (s : State) (n : Nat) : List KLine := sget [] s.mem.kitties n
def setKitty (n : Nat) (ls : List KLine) (s : State) : State :=
  { s with mem := { s.mem with kitties := sset [] s.mem.kitties n ls } }

/-- Change the line of a number. -/
def updLine (n k : Nat) (f : KLine → KLine) (s : State) : State :=
  setKitty n (updFirst (fun l => l.line == k) f (kittyOf s n)) s

/-- Insert a line in number order. -/
def addLine (n : Nat) (l : KLine) (s : State) : State := setKitty n (insertBy KLine.line l (kittyOf s n)) s

/-- Free lines that meet a test. -/
def dropLines (n : Nat) (p : KLine → Bool) (s : State) : State := setKitty n ((kittyOf s n).filter fun l => !p l) s

/-- Does a line serve the request's home slot and tenant (R386)? -/
def lineServes (h : Home) (tenant : Nat) (l : KLine) : Bool := l.home == h && (l.shared || l.tenant == tenant)

/-- The lowest number of n that no line of a sorted list has. -/
def freeNumber : Nat → List KLine → Nat
  | k, [] => k
  | k, l :: r => if l.line = k then freeNumber (k + 1) r else k

/-- The oldest line that meets a test, of equal ages the lowest number (R387). -/
def oldestLine (p : KLine → Bool) (ls : List KLine) : Option KLine :=
  (ls.filter p).foldl (fun b l =>
    match b with
    | none => some l
    | some x => if l.age < x.age then some l else some x) none

/-- A victim leaves its line; a DIRTY one is encoded and written home first (R387). -/
def evictLine (n : Nat) (l : KLine) (s : State) : State :=
  let s := if l.dirty then slotWrite l.home l.data s |> bump (pgKitty n) Off.KITTY_CNT_WRITEBACK 1 else s
  dropLines n (fun x => x.line == l.line) s |> bump (pgKitty n) Off.KITTY_CNT_EVICT 1

/-- Take a line for a fill of a tenant (R387): its number, or none when no line can be chosen. -/
def takeLine (n tenant : Nat) (s : State) : Option Nat × State :=
  let ls := kittyOf s n
  let used := (ls.filter fun l => l.tenant == tenant).length
  let evict (o : Option KLine) (s : State) : Option Nat × State :=
    match o with
    | none => (none, s)
    | some l => (some l.line, evictLine n l s)
  if used < fld s (pgKitty n) (Off.KITTY_QUOTA + 4 * tenant) 0 15 then
    if ls.length < 16384 then (some (freeNumber 0 ls), s) else evict (oldestLine (fun l => !l.locked) ls) s
  else
    match oldestLine (fun l => !l.locked && l.tenant == tenant) ls with
    | none => (none, s)
    | some l => evict (some l) (bump (pgKitty n) Off.KITTY_CNT_QUOTA_EVICT 1 s)

/-- The tag of a fill: the request's tenant, or the shared tag of a MODEL region under KITTY_SHARE, which counts as tenant 0's. -/
def fillTag (s : State) (n : Nat) (h : Home) (tenant : Nat) : Nat × Bool :=
  let model := match h.t4 with
    | some _ => false
    | none => ((regionOf s h.addr).map fun r => r.kind == 2).getD false
  if model && flag s (pgKitty n) Off.KITTY_SHARE 0 then (0, true) else (tenant, false)

/-- The poison of a tile: counted, with its event. -/
def kittyPoison (n : Nat) (s : State) : State := s |> bump (pgKitty n) Off.KITTY_CNT_POISON 1 |> raise (pgKitty n) Evt.KITTY_POISON

/-- Serve without installing (R389). -/
def kittyBypass (n : Nat) (s : State) : State := s |> bump (pgKitty n) Off.KITTY_CNT_BYPASS 1 |> raise (pgKitty n) Evt.KITTY_BYPASS

/-- What a lookup finds. -/
inductive KFind where
  | denied
  | hit (data : List Byte)
  | filling (line : Nat)
  | bypass
deriving DecidableEq, Repr

/-- A request's lookup: region check, hit, or a miss that starts a fill in a line it locks (R375, R386–R388). -/
def kittyLookup (who : Requester) (dom : Nat) (h : Home) (s : State) : KFind × State :=
  let n := mdOf s h
  let t := reqTenant s who
  if !memAllows s who h false then (.denied, memDenied who h s)
  else match (kittyOf s n).find? (lineServes h t) with
    | some l =>
      if l.locked then
        (.filling l.line, updLine n l.line (fun l => { l with waiters := l.waiters ++ [(who, dom)] }) s
          |> bump (pgKitty n) Off.KITTY_CNT_MISS 1)
      else
        (.hit l.data, updLine n l.line (fun l => { l with age := beatNo s }) s |> bump (pgKitty n) Off.KITTY_CNT_HIT 1)
    | none =>
      let s := bump (pgKitty n) Off.KITTY_CNT_MISS 1 s
      let tag := fillTag s n h t
      let r := takeLine n tag.1 s
      match r.1 with
      | none => (.bypass, kittyBypass n r.2)
      | some k =>
        (.filling k, addLine n { line := k, home := h, tenant := tag.1, shared := tag.2, age := beatNo s, dirty := false
                                 locked := true, owner := none, waiters := [(who, dom)], data := [] } r.2)

/-- The bytes of a home slot, from HBM or as the host or a peer seat answered. -/
def homeRead (key : Option Nat) (h : Home) (host : List Byte) (s : State) : Option (List Byte) × State :=
  match h.t4 with
  | none => slotRead h s
  | some _ => slotDecode key h (host ++ List.replicate (4096 - host.length) 0) s

/-- A fill completes: the tile is decoded and checked and the line unlocked, or the line is freed and its requesters get errors
(R383, R391). Answers the tile and who awaited it. -/
def kittyFill (key : Option Nat) (n k : Nat) (host : List Byte) (s : State) : Option (List Byte) × List (Requester × Nat) × State :=
  match (kittyOf s n).find? fun l => l.line == k && l.locked with
  | none => (none, [], s)
  | some l =>
    let r := homeRead key l.home host s
    match r.1 with
    | none => (none, l.waiters, dropLines n (fun x => x.line == k) r.2 |> kittyPoison n)
    | some bs =>
      (some bs, l.waiters, updLine n k (fun l => { l with locked := false, owner := none, waiters := [], age := beatNo s, data := bs }) r.2)

/-- A fill completes, and the tile goes to those who await it (R386). -/
def fillServe (key : Option Nat) (n k : Nat) (host : List Byte) (s : State) : Option (List Byte) × State :=
  match (kittyOf s n).find? fun l => l.line == k && l.locked with
  | none => (none, s)
  | some l =>
    let f := kittyFill key n k host s
    (f.1, f.2.1.foldl (fun s w => emit (.tileData w.1 l.home f.1) s) f.2.2)

/-- What a whole read answers: the tile, a refusal, a poisoned tile, or that host data must come first. -/
inductive MemAns where
  | tile (data : List Byte)
  | denied
  | poison
  | waitHost
deriving DecidableEq, Repr

/-- Is a context recorded (R557, R558)? -/
def hhContext (s : State) (c : Nat) : Bool := flag s pgHh (Off.HH_CTX_EN + 4 * (c / 32)) (c % 32)

/-- A decoded tile of a TENANT slot that nothing has written since the latest device checkpoint is an input of the context (R557). -/
def hhMemIn (who : Requester) (h : Home) (bs : List Byte) (s : State) : State :=
  match who with
  | .ctx c =>
    let slot := h.addr / 4096
    if h.t4.isNone && flag s pgHh Off.HH_CFG 2 && hhContext s c && !s.hh.writtenSlots.contains slot &&
        ((regionOf s h.addr).map fun r => r.kind == 4).getD false then
      hhCapture 0x13 (68 + mdOf s h) (mdOf s h) (leBytes 8 (slot * 4096) ++ leBytes 8 0 ++ bs) s
    else s
  | _ => s

/-- A TENANT slot has been written (R565). -/
def noteSlot (h : Home) (s : State) : State :=
  if h.t4.isNone && !s.hh.writtenSlots.contains (h.addr / 4096) then
    { s with hh := { s.hh with writtenSlots := insertBy (fun x => x) (h.addr / 4096) s.hh.writtenSlots } }
  else s

/-- A whole read of a home slot through its kitty: lookup and, on a miss, the fill, with the host's answer for a T4 slot. -/
def memFetchKey (key : Option Nat) (who : Requester) (dom : Nat) (h : Home) (host : Option (List Byte)) (s : State) : MemAns × State :=
  let n := mdOf s h
  let need := h.t4.isSome && host.isNone
  match (kittyOf s n).find? (lineServes h (reqTenant s who)), need with
  | none, true => if memAllows s who h false then (.waitHost, s) else (.denied, memDenied who h s)
  | _, _ =>
    let r := kittyLookup who dom h s
    match r.1 with
    | .denied => (.denied, r.2)
    | .hit bs => (.tile bs, hhMemIn who h bs r.2)
    | .filling k =>
      if need then (.waitHost, r.2)
      else
        -- the requester has its answer here; what others await goes to them
        let f := fillServe key n k (host.getD []) (updLine n k (fun l => { l with waiters := l.waiters.dropLast }) r.2)
        match f.1 with
        | some bs => (.tile bs, hhMemIn who h bs f.2)
        | none => (.poison, f.2)
    | .bypass =>
      let f := homeRead key h (host.getD []) r.2
      match f.1 with
      | some bs => (.tile bs, hhMemIn who h bs f.2)
      | none => (.poison, kittyPoison n f.2)

def memFetch (who : Requester) (dom : Nat) (h : Home) (host : Option (List Byte)) (s : State) : MemAns × State :=
  memFetchKey none who dom h host s

/-! ## Writes (R389, R390) -/

/-- Bytes placed at an offset of a tile. -/
def splice (old : List Byte) (off : Nat) (new : List Byte) : List Byte :=
  old.take off ++ new ++ old.drop (off + new.length)

/-- A write that finds no line of its slot: a line is taken for the tile it makes, or the tile in memory is replaced (R389, R390). -/
def storeFresh (h : Home) (t off : Nat) (whole : Bool) (data : List Byte) (s : State) : MemAns × State :=
  let n := mdOf s h
  let old : Option (List Byte) × State := if whole then (some data, s) else homeRead none h [] s
  match old.1 with
  | none => (.poison, kittyPoison n old.2)
  | some bs =>
    let new := splice bs off data
    let tag := fillTag s n h t
    let r := takeLine n tag.1 old.2
    match r.1 with
    | none => (.tile [], kittyBypass n r.2 |> slotWrite h new)
    | some k =>
      (.tile [], addLine n { line := k, home := h, tenant := tag.1, shared := tag.2, age := beatNo s, dirty := true
                             locked := false, owner := none, waiters := [], data := new } r.2)

/-- A request that an MD serves without a line waits for the host's bytes (R389). -/
def holdBypass (b : Bypass) (s : State) : State := { s with mem := { s.mem with bypass := s.mem.bypass ++ [b] } }

/-- A write of less than a whole tile to a slot in host memory that has no line: a line is filled first, which the write's domain holds locked,
and the read leaves (R388, R390). Where no line can be chosen the read leaves too, and the tile is merged and written back when it comes
(R389; log 37). -/
def storeAsk (c dom : Nat) (h : Home) (t off : Nat) (data : List Byte) (s : State) : MemAns × State :=
  let n := mdOf s h
  let r := takeLine n t s
  match r.1 with
  | none =>
    (.tile [], kittyBypass n (holdBypass ⟨n, h, .ctx c, dom, some (off, data)⟩ r.2)
      |> hostSend (ctxTenant s c) (.hostRead (ctxTenant s c) (h.addr / 4096 * 4096) 4096))
  | some k =>
    (.waitHost, addLine n { line := k, home := h, tenant := t, shared := false, age := beatNo s, dirty := false, locked := true
                            owner := some dom, waiters := [], data := [] } r.2
      |> hostSend (ctxTenant s c) (.hostRead (ctxTenant s c) (h.addr / 4096 * 4096) 4096))

/-- A write-back or write of a requester is applied to the kitty line, which is filled first if it is absent; without a line the tile in
memory is merged (R389, R390). A fill that is under way ends first. Answers whether it was applied; for a slot in host memory it may have to
wait for the host's answer. -/
def memStore (who : Requester) (dom : Nat) (h : Home) (off : Nat) (data : List Byte) (s : State) : MemAns × State :=
  let n := mdOf s h
  let t := reqTenant s who
  let whole := off = 0 && decide (4096 ≤ data.length)
  if !memAllows s who h true then (.denied, memDenied who h s)
  else match (kittyOf s n).find? (lineServes h t), h.t4 with
  | some l, none =>
    let s := noteSlot h (if l.locked then (fillServe none n l.line [] s).2 else s)
    if (kittyOf s n).any fun x => x.line == l.line && lineServes h t x then
      (.tile [], updLine n l.line (fun l => { l with data := splice l.data off data, dirty := true, age := beatNo s }) s)
    else storeFresh h t off whole data s
  | some l, some _ =>
    if l.locked then (.waitHost, s)
    else (.tile [], updLine n l.line (fun l => { l with data := splice l.data off data, dirty := true, age := beatNo s }) s)
  | none, none => storeFresh h t off whole data (noteSlot h s)
  | none, some c => if whole then storeFresh h t off whole data s else storeAsk c dom h t off data s

/-! ## The commands of the kitty -/

/-- Does a write of a tile to a home slot stand at the slot's MD, or has it been due there? It is applied before the slot is looked up
(R391). -/
def writesDue (s : State) (h : Home) : Bool :=
  s.tiles.any fun e => e.2.writes.any fun w => !w.merged && w.home == h && decide (w.due ≤ beatNo s)

/-- Is an MD's kitty there to act? -/
def kittyLive (s : State) (n : Nat) : Bool := pagePresent s.part (pgKitty n) && pageOn s (pgKitty n)

/-- KITTY_LOOKUP: a request for a slot is region-checked and hits, starts or joins a fill, or is served without installing (R386). -/
def execKittyLookup (who : Requester) (dom : Nat) (h : Home) (s : State) : State :=
  let n := mdOf s h
  -- a home MD that is not on holds nothing (R400); a lookup waits for a slice of its tenant, and for the writes that are due (R391, R491)
  if !kittyLive s n then emit (.tileData who h none) s
  else if sliced s who || writesDue s h then s
  else
    let r := kittyLookup who dom h s
    match r.1 with
    | .denied => emit (.tileData who h none) r.2
    | .hit bs => emit (.tileData who h (some bs)) r.2
    | .filling _ =>
      -- the read of a slot in host memory leaves with the request that starts the fill
      match (if (kittyOf s n).any (lineServes h (reqTenant s who)) then none else h.t4) with
      | some c => hostSend (ctxTenant s c) (.hostRead (ctxTenant s c) (h.addr / 4096 * 4096) 4096) r.2
      | none => r.2
    | .bypass =>
      match h.t4 with
      | some c =>
        holdBypass ⟨n, h, who, dom, none⟩ r.2
          |> hostSend (ctxTenant s c) (.hostRead (ctxTenant s c) (h.addr / 4096 * 4096) 4096)
      | none =>
        let f := homeRead none h [] r.2
        emit (.tileData who h f.1) (if f.1.isSome then f.2 else kittyPoison n f.2)

/-- What an MD serves without a line is dropped with its kitty. -/
def dropBypass (n : Nat) (s : State) : State := { s with mem := { s.mem with bypass := s.mem.bypass.filter fun b => b.md != n } }

/-- The host's bytes come for a request that is served without a line (R389): a read is delivered, a write is merged and written back. -/
def bypassDone (b : Bypass) (host : List Byte) (s : State) : State :=
  let f := homeRead none b.home host { s with mem := { s.mem with bypass := s.mem.bypass.eraseP fun x => x == b } }
  match f.1, b.write with
  | some bs, some (off, data) => slotWrite b.home (splice bs off data) f.2
  | some bs, none => emit (.tileData b.who b.home (some bs)) f.2
  | none, some _ => kittyPoison b.md f.2
  | none, none => emit (.tileData b.who b.home none) (kittyPoison b.md f.2)

/-- KITTY_FILL_COMPLETE: the fill of a line completes, for a T4 home with the host's bytes, and serves the requests that await it. From
16,384 on k counts the requests that the MD serves from host memory without a line (R389; log 37). -/
def execKittyFillComplete (n k : Nat) (host : List Byte) (s : State) : State :=
  if !kittyLive s n then s
  else if 16384 ≤ k then
    match (s.mem.bypass.filter fun b => b.md == n)[k - 16384]? with
    | some b => bypassDone b host s
    | none => s
  else match (kittyOf s n).find? fun l => l.line == k && l.locked with
    | none => s
    | some l =>
      if !l.shared && sliced s (.tag l.tenant) then s
      else (fillServe none n k host s).2

/-- Write back every DIRTY line that meets a test (R404). -/
def kittyFlush (n : Nat) (p : KLine → Bool) (s : State) : State :=
  let due (l : KLine) : Bool := l.dirty && !l.locked && p l
  let s := ((kittyOf s n).filter due).foldl (fun s l => slotWrite l.home l.data s |> bump (pgKitty n) Off.KITTY_CNT_WRITEBACK 1) s
  setKitty n ((kittyOf s n).map fun l => if due l then { l with dirty := false } else l) s

/-- The operation of a KITTY_CMD (R404). -/
def kittyOp (n op tenant : Nat) (s : State) : State :=
  match op with
  | 1 => kittyFlush n (fun _ => true) s
  | 2 => kittyFlush n (fun l => l.tenant == tenant) s
  | 3 => dropLines n (fun l => l.tenant == tenant && !l.locked) s
  | _ => s

/-- A KITTY_CMD write: with GO set and no command running, the operation starts (R80, R404). The PF's command on a tenant whose TDI is
locked is refused (R483). -/
def kittyCmd (w : Func) (n : Nat) (v : Word) (s : State) : State :=
  let p := pgKitty n
  if w == .pf && decide (2 ≤ fieldOf v 0 2) && tdiHeld s (fieldOf v 2 4) then tdiRefuse s
  else if flag s p Off.KITTY_CMD 31 then s
  else
    let go := bitOf v 31 && enabled s p && fieldOf v 0 2 != 0
    let s := wr p Off.KITTY_CMD (BitVec.ofNat 32 (fieldOf v 0 6 + 2 ^ 31 * ofBool go)) s
    if go then startCmd p 0 s |> kittyOp n (fieldOf v 0 2) (fieldOf v 2 4) else s

/-- The word of a KITTY_CMD. -/
def kittyWord (op tenant : Nat) : Word := BitVec.ofNat 32 (op + 4 * (tenant % 16) + 2 ^ 31)

/-- FLUSH_ALL, FLUSH_TENANT, DISCARD_TENANT: KITTY_CMD writes. -/
def execFlushAll (w : Func) (n : Nat) (s : State) : State :=
  access w (pgKitty n) Off.KITTY_CMD (kittyWord 1 0) (kittyCmd w n (kittyWord 1 0)) s
def execFlushTenant (w : Func) (n tenant : Nat) (s : State) : State :=
  access w (pgKitty n) Off.KITTY_CMD (kittyWord 2 tenant) (kittyCmd w n (kittyWord 2 tenant)) s
def execDiscardTenant (w : Func) (n tenant : Nat) (s : State) : State :=
  access w (pgKitty n) Off.KITTY_CMD (kittyWord 3 tenant) (kittyCmd w n (kittyWord 3 tenant)) s

/-- KITTY_CMD_DONE: the write-backs have finished at the stack and GO clears. -/
def execKittyCmdDone (n : Nat) (s : State) : State :=
  if flag s (pgKitty n) Off.KITTY_CMD 31 then setFlag (pgKitty n) Off.KITTY_CMD 31 false s |> endCmd (pgKitty n) 0 else s

/-- A read of a granule finds `bad` wrong bytes, or one known to be uncorrectable (R373). -/
def granuleError (n a bad : Nat) (s : State) : State :=
  let p := pgMc n
  if s.mem.poison.contains a || decide (3 < bad) then
    let s := if s.mem.poison.contains a then s else { s with mem := { s.mem with poison := s.mem.poison ++ [a] } }
    s |> eccLog n a 0 true |> bump p Off.MC_CNT_UNCORR 1 |> raise p Evt.MC_UNCORR
      |> formRec (mkRec 3 1 1 (72 + n) (addrTenant s a) (68 + n) 0xFFFF a 0)
  else if bad = 0 then s
  else s |> eccLog n a bad false |> bump p Off.MC_CNT_CORR 1 |> bump p Off.MC_CNT_WR_GRANULES (ofBool (flag s p Off.MC_SCRUB 16)) |> raise p Evt.MC_CORR
    |> formCorrected (mkRec 3 0 0 (72 + n) (addrTenant s a) (68 + n) 0xFFFF a bad)

/-- PATROL_SCRUB: the next granule of the pass is read and corrected; `bad` is how many of its bytes were wrong (R373). -/
def execPatrolScrub (n bad : Nat) (s : State) : State :=
  let p := pgMc n
  if !(pagePresent s.part p && pageOn s p) || fld s p Off.MC_SCRUB 0 16 == 0 then s
  else
    let local_ := sget 0 s.mem.patrol n
    let a := if s.part.stackCount = 2 then
        -- the device address of a stack-local granule: bit 12 is put back so that it names this MD
        let hi := local_ / 4096 * 8192 + local_ % 4096
        if homeMd s hi = n then hi else hi + 4096
      else local_
    { s with mem := { s.mem with patrol := sset 0 s.mem.patrol n ((local_ + 64) % 0x400000000) } }
      |> bump p Off.MC_CNT_SCRUBBED 1 |> granuleError n a bad

/-! ## Region writes (R374, R376, R406) -/

/-- Do two ranges of units overlap? -/
def Region.overlaps (a b : Region) : Bool :=
  a.valid && b.valid && decide (a.base < b.base + b.size) && decide (b.base < a.base + a.size)

/-- Would entry k as given overlap another entry, in the table or on its way into it? -/
def regionClash (s : State) (k : Nat) (r : Region) : Bool :=
  ((List.range 64).any fun j => j != k && (regionAt s j).overlaps r) ||
    s.mem.pend.any fun e => e.entry != k && (regionOfWords e.base e.size e.attr).overlaps r

/-- Does an entry end before the reserved range (R372)? -/
def Region.inside (s : State) (r : Region) : Bool := decide ((r.base + r.size) * 0x200000 ≤ regionEnd s)

/-- May a writer put r into entry k (R374)? Regions never overlap nor reach the reserved range, whoever writes them (R372). -/
def regionOk (s : State) (w : Func) (k : Nat) (r : Region) : Bool :=
  match w with
  | .rot => decide (r.kind ≤ 3) && (r.size == 0 || r.kind == 0 || (!regionClash s k r && r.inside s))
  | .pf =>
    !(regionAt s k).locked && r.kind == 4 && keyAssigned s r.key r.tenant && (r.size == 0 || (!regionClash s k r && r.inside s))
  | _ => false

/-- An entry is on its way: PENDING, and the words that take effect 16 beats later (R376). -/
def regionApply (k : Nat) (b z a : Word) (s : State) : State :=
  { s with mem := { s.mem with pend := s.mem.pend ++ [⟨s.tt.beats + 16, k, b, z, a⟩] } }
    |> setFlag (pgMemenc 0) Off.MEMENC_STATUS 0 true |> setFlag (pgMemenc 1) Off.MEMENC_STATUS 0 true

/-- A write to a register of the region table on MD0's page; MD1's is read-only. -/
def memencRegWrite (w : Func) (n off : Nat) (v : Word) (s : State) : State :=
  let p := pgMemenc 0
  if off < 0x200 ∨ 0x600 ≤ off then plainWrite (pgMemenc n) off v s
  else if n ≠ 0 ∨ off % 16 = 12 then s
  else
    let k := (off - 0x200) / 16
    let a := pageBase p + off
    if (regionAt s k).locked && w != .rot then bump p Off.MEMENC_CNT_CFG_REFUSED 1 s
    else if off % 16 = 8 then
      let held (o : Nat) : Word :=
        let x := pageBase p + 0x200 + 16 * k + o
        match s.mem.held.find? fun e => e.1 == x with
        | some e => e.2
        | none => reg s x
      let b := held 0
      let z := held 4
      -- the root of trust sets LOCKED in the entries it writes
      let at_ : Word := putField (v &&& 0x00FF7FFF) 31 1 (ofBool (w == .rot && fieldOf v 0 3 != 0))
      let r := regionOfWords b z at_
      let s := { s with mem := { s.mem with held := s.mem.held.filter fun e => e.1 != a - 8 && e.1 != a - 4 } }
      -- a locked tenant's regions, and new regions with one of its key slots (R483)
      let old := regionAt s k
      let held := w == .pf && ((old.valid && old.kind == 4 && tdiHeld s old.tenant) || (r.valid && r.kind == 4 &&
        (tdiHeld s r.tenant || ((keyOf s r.key).st != 0 && r.key != 0 && tdiHeld s (keyOf s r.key).tenant))))
      if held then bump p Off.MEMENC_CNT_CFG_REFUSED 1 s |> tdiRefuse
      else if regionOk s w k r then regionApply k b z at_ s else bump p Off.MEMENC_CNT_CFG_REFUSED 1 s
    else { s with mem := { s.mem with held := sput s.mem.held a (v &&& (if off % 16 = 0 then 0x3FFF else 0x7FFF)) } }

/-- REGION_WRITE: a write of entry k's +0x8 register. -/
def execRegionWrite (w : Func) (k : Nat) (v : Word) (s : State) : State :=
  let off := Off.MEMENC_REGION_ATTR + 16 * (k % 64)
  access w (pgMemenc 0) off v (memencRegWrite w 0 off v) s

/-- Lines homed in what the new entry removes of the old are written back and discarded (R376). -/
def regionPurge (k : Nat) (new : Region) (s : State) : State :=
  let old := regionAt s k
  let gone (l : KLine) : Bool := l.home.t4.isNone && old.covers l.home.addr && !new.covers l.home.addr
  (List.range s.part.stackCount).foldl (fun s n => kittyFlush n gone s |> dropLines n gone) s

/-- One entry takes effect at both MDs. -/
def regionTake (e : RegionPend) (s : State) : State :=
  let at_ (o : Nat) (v : Word) (s : State) : State := wr (pgMemenc 0) (0x200 + 16 * e.entry + o) v s
  s |> regionPurge e.entry (regionOfWords e.base e.size e.attr) |> at_ 0 e.base |> at_ 4 e.size |> at_ 8 e.attr

/-- May an entry on its way take effect: its sixteen beats have passed, and no fill of a line that it removes is under way? -/
def regionDue (s : State) (e : RegionPend) : Bool :=
  let old := regionAt s e.entry
  let new := regionOfWords e.base e.size e.attr
  decide (e.due ≤ s.tt.beats) && (List.range s.part.stackCount).all fun n => (kittyOf s n).all fun l =>
    !(l.locked && l.home.t4.isNone && old.covers l.home.addr && !new.covers l.home.addr)

/-- REGION_EFFECT: the entries whose sixteen beats have passed take effect, in order (R376). -/
def execRegionEffect (s : State) : State :=
  let due := s.mem.pend.takeWhile (regionDue s)
  if due.isEmpty then s
  else
    let rest := s.mem.pend.drop due.length
    let s := due.foldl (fun s e => regionTake e s) s
    let s := { s with mem := { s.mem with pend := rest } }
    let on := !rest.isEmpty
    s |> setFlag (pgMemenc 0) Off.MEMENC_STATUS 0 on |> setFlag (pgMemenc 1) Off.MEMENC_STATUS 0 on

/-- A write to a kitty page register. -/
def kittyRegWrite (w : Func) (n off : Nat) (v : Word) (s : State) : State :=
  let p := pgKitty n
  if off = Off.KITTY_CMD then kittyCmd w n v s
  else if Off.KITTY_QUOTA ≤ off ∧ off < Off.KITTY_USE then
    -- the page has no refusal counter
    if w == .pf && tdiHeld s ((off - Off.KITTY_QUOTA) / 4) then tdiRefuse s
    else if fieldOf v 0 15 == 0 || decide (16384 < fieldOf v 0 15) then s else plainWrite p off v s
  else if off = Off.KITTY_SHARE ∧ w ≠ .pf then s
  else plainWrite p off v s

end Sys2Proof.Machine
end

