-- ==== Sys2Proof/Machine/Numbers.lean ====
section
/-! DEFINITION. Element formats, scales, FP32 arithmetic with one rounding, quantisers, requantisation and the gate and function
tables (R233, R265–R281, R296–R298). -/
namespace Sys2Proof.Machine

/-! ## Values of the float formats -/

/-- A float value: not a number with its sign, an infinity, or ±m × 2^e. -/
inductive Fv where
  | nan (neg : Bool)
  | inf (neg : Bool)
  | fin (neg : Bool) (m : Nat) (e : Int)
deriving DecidableEq, Repr

/-- The canonical NaN of R233. -/
abbrev canonNan : Nat := 0x7FC00000

/-- 2^k times a number of units, for k ≥ 0. -/
def shl (m : Nat) (k : Int) : Nat := m * 2 ^ k.toNat

/-- m × 2^e on the grid 2^q, rounded to nearest, ties to even. -/
def onGrid (m : Nat) (e q : Int) : Nat := if q ≤ e then shl m (e - q) else (rneShift m (q - e).toNat).toNat

/-- The grid exponent of a float format with f fraction bits and smallest grid emin, for a value with leading one L. -/
def gridOf (f : Nat) (emin L : Int) : Int := if L - f < emin then emin else L - f

/-- The exponent of the leading one of m × 2^e, for m > 0. -/
def leading (m : Nat) (e : Int) : Int := (log2 m : Int) + e

/-- m × 2^e rounded to a float format, unbounded above: the mantissa and its grid. -/
def roundMag (f : Nat) (emin : Int) (m : Nat) (e : Int) : Nat × Int :=
  if m = 0 then (0, emin)
  else
    let q := gridOf f emin (leading m e)
    let r := onGrid m e q
    if 2 ^ (f + 1) ≤ r then (r / 2, q + 1) else (r, q)

/-- The binary32 word of a value, rounded once (R233). -/
def f32 (v : Fv) : Nat :=
  match v with
  | .nan _ => canonNan
  | .inf n => ofBool n * 2 ^ 31 + 0x7F800000
  | .fin n m e =>
    let r := roundMag 23 (-149) m e
    let mag : Nat :=
      if r.1 < 2 ^ 23 then r.1
      else if 254 < r.2 + 150 then 0x7F800000
      else ((r.2 + 150).toNat) * 2 ^ 23 + (r.1 - 2 ^ 23)
    ofBool n * 2 ^ 31 + mag

/-- The value of a binary32 word. -/
def ofF32 (w : Nat) : Fv :=
  let n := bitAt w 31
  let ex := bitsAt w 23 8
  let fr := bitsAt w 0 23
  if ex = 255 then (if fr = 0 then .inf n else .nan n)
  else if ex = 0 then .fin n fr (-149) else .fin n (2 ^ 23 + fr) ((ex : Int) - 150)

/-- A signed multiple of 2^e. -/
def fvOf (x : Int) (e : Int) : Fv := .fin (decide (x < 0)) x.natAbs e

def Fv.int (n : Bool) (m : Nat) : Int := if n then -(m : Int) else m

/-- Exact sum. -/
def Fv.add (a b : Fv) : Fv :=
  match a, b with
  | .nan n, _ => .nan n
  | _, .nan n => .nan n
  | .inf n, .inf k => if n = k then .inf n else .nan false
  | .inf n, _ => .inf n
  | _, .inf n => .inf n
  | .fin n m e, .fin k r f =>
    let q := min e f
    let x := Fv.int n (shl m (e - q)) + Fv.int k (shl r (f - q))
    if x = 0 then .fin (n && k) 0 q else fvOf x q

def Fv.neg (a : Fv) : Fv :=
  match a with
  | .nan n => .nan n
  | .inf n => .inf (!n)
  | .fin n m e => .fin (!n) m e

/-- Exact product. -/
def Fv.mul (a b : Fv) : Fv :=
  match a, b with
  | .nan n, _ => .nan n
  | _, .nan n => .nan n
  | .inf n, .inf k => .inf (n != k)
  | .inf n, .fin k r _ => if r = 0 then .nan false else .inf (n != k)
  | .fin n m _, .inf k => if m = 0 then .nan false else .inf (n != k)
  | .fin n m e, .fin k r f => .fin (n != k) (m * r) (e + f)

/-- Exact scaling by a power of two. -/
def Fv.scale (k : Int) (a : Fv) : Fv :=
  match a with
  | .fin n m e => .fin n m (e + k)
  | x => x

def Fv.isNan (a : Fv) : Bool :=
  match a with
  | .nan _ => true
  | _ => false

/-- a < b, false when either is not a number. -/
def Fv.lt (a b : Fv) : Bool :=
  match a, b with
  | .nan _, _ => false
  | _, .nan _ => false
  | .inf n, .inf k => n && !k
  | .inf n, _ => n
  | _, .inf k => !k
  | .fin n m e, .fin k r f =>
    let q := min e f
    decide (Fv.int n (shl m (e - q)) < Fv.int k (shl r (f - q)))

/-- Rounded to nearest integer, saturated to 32 bits; NaN gives 0 (R281). -/
def Fv.toInt32 (a : Fv) : Int :=
  match a with
  | .nan _ => 0
  | .inf n => if n then -2147483648 else 2147483647
  | .fin n m e => clampInt (-2147483648) 2147483647 (Fv.int n (onGrid m e 0))

/-- Does the conversion to a 32-bit integer saturate? -/
def Fv.overInt32 (a : Fv) : Bool :=
  match a with
  | .nan _ => false
  | .inf _ => true
  | .fin n m e => decide (Fv.int n (onGrid m e 0) < -2147483648) || decide (2147483647 < Fv.int n (onGrid m e 0))

/-- m × 2^e compared with r × 2^f: is the first smaller? -/
def magLt (a b : Nat × Int) : Bool :=
  let q := min a.2 b.2
  decide (shl a.1 (a.2 - q) < shl b.1 (b.2 - q))

/-- An infinite magnitude: above every finite pre-clip value. -/
def magInf : Nat × Int := (1, 1024)

/-- A magnitude as BF16, rounded toward zero (R284). -/
def bf16Down (a : Nat × Int) : Nat :=
  if a.1 = 0 then 0
  else if a = magInf then 0x7F80
  else
    let L := leading a.1 a.2
    let q := gridOf 7 (-133) L
    let r := if q ≤ a.2 then shl a.1 (a.2 - q) else a.1 / 2 ^ (q - a.2).toNat
    if r < 2 ^ 7 then r
    else if 254 < q + 134 then 0x7F7F
    else (q + 134).toNat * 2 ^ 7 + (r - 2 ^ 7)

end Sys2Proof.Machine

namespace Sys2Proof
open Sys2Proof.Machine

/-! ## Element formats (R265–R267) -/

/-- Bits of an element. -/
def Elem.bits (f : Elem) : Nat :=
  match f with
  | .pip4 => 4 | .int4 => 4 | .e2m1 => 4 | .mxint8 => 8 | .int8 => 8 | .e4m3 => 8 | .e5m2 => 8 | .bf16 => 16 | .fp32 => 32

def Elem.isInt (f : Elem) : Bool :=
  match f with
  | .pip4 => true | .int4 => true | .mxint8 => true | .int8 => true | _ => false

/-- Has the format one scale byte per 32 elements (R265)? -/
def Elem.blocked (f : Elem) : Bool :=
  match f with
  | .pip4 => true | .mxint8 => true | .e4m3 => true | .e5m2 => true | .e2m1 => true | _ => false

/-- The exponent of the implicit unit u. -/
def Elem.unit (f : Elem) : Int :=
  match f with
  | .mxint8 => -6
  | _ => 0

/-- A float code of s sign, w exponent bits of a bias and f fraction bits, without specials. -/
def floatCode (w f bias c : Nat) : Fv :=
  let n := bitAt c (w + f)
  let ex := bitsAt c f w
  let fr := bitsAt c 0 f
  if ex = 0 then .fin n fr (1 - (bias : Int) - f) else .fin n (2 ^ f + fr) ((ex : Int) - bias - f)

/-- The value of a code, in units of u. -/
def Elem.value (f : Elem) (c : Nat) : Fv :=
  match f with
  | .pip4 => fvOf (signed 4 c) 0
  | .int4 => fvOf (signed 4 c) 0
  | .mxint8 => fvOf (signed 8 c) 0
  | .int8 => fvOf (signed 8 c) 0
  | .e4m3 => if c % 128 = 127 then .nan (bitAt c 7) else floatCode 4 3 7 c
  | .e5m2 =>
    if bitsAt c 2 5 = 31 then (if c % 4 = 0 then .inf (bitAt c 7) else .nan (bitAt c 7)) else floatCode 5 2 15 c
  | .e2m1 => floatCode 2 1 1 c
  | .bf16 => ofF32 (c % 65536 * 65536)
  | .fp32 => ofF32 c

/-- The integer value of a code of an integer format. -/
def Elem.code (f : Elem) (c : Nat) : Int := signed f.bits c

/-- Element i of a contiguous plane of bytes (R267). -/
def Elem.get (f : Elem) (bs : List Byte) (i : Nat) : Nat :=
  match f.bits with
  | 4 => bitsAt (bs.getD (i / 2) 0).toNat (4 * (i % 2)) 4
  | 8 => (bs.getD i 0).toNat
  | 16 => ofLeBytes ((bs.drop (2 * i)).take 2)
  | _ => ofLeBytes ((bs.drop (4 * i)).take 4)

/-- The bytes of a run of codes (R267). -/
def Elem.pack (f : Elem) (cs : List Nat) : List Byte :=
  match f.bits with
  | 4 => (List.range (ceilDiv cs.length 2)).map fun k => BitVec.ofNat 8 (cs.getD (2 * k) 0 % 16 + 16 * (cs.getD (2 * k + 1) 0 % 16))
  | b => cs.flatMap fun c => leBytes (b / 8) c

/-- Bytes of n contiguous elements. -/
def Elem.bytes (f : Elem) (n : Nat) : Nat := ceilDiv (n * f.bits) 8

/-! ## Quantisers (R272–R277) -/

/-- T, the largest code magnitude Q (as mantissa and exponent) and the half range H of R272. -/
def Elem.qT (f : Elem) : Int :=
  match f with
  | .mxint8 => 0 | .int8 => 6 | .pip4 => 2 | .int4 => 2 | .e4m3 => 8 | .e5m2 => 15 | .e2m1 => 2 | _ => 0
def Elem.qMax (f : Elem) : Nat × Int :=
  match f with
  | .mxint8 => (127, 0) | .int8 => (127, 0) | .pip4 => (7, 0) | .int4 => (7, 0) | .e4m3 => (448, 0) | .e5m2 => (57344, 0)
  | .e2m1 => (6, 0) | _ => (0, 0)
def Elem.qHalf (f : Elem) : Nat × Int := ((f.qMax).1, (f.qMax).2 - 1)

/-- Exponent width, fraction bits and bias of an MXFP format. -/
def Elem.shape (f : Elem) : Nat × Nat × Nat :=
  match f with
  | .e4m3 => (4, 3, 7) | .e5m2 => (5, 2, 15) | _ => (2, 1, 1)

end Sys2Proof

namespace Sys2Proof.Machine

/-- The code of a rounded magnitude of an MXFP format. -/
def encodeMag (f : Elem) (neg : Bool) (r : Nat × Int) : Nat :=
  let sh := f.shape
  let fb := sh.2.1
  let mag := if r.1 < 2 ^ fb then r.1 else (r.2 + sh.2.2 + fb).toNat * 2 ^ fb + (r.1 - 2 ^ fb)
  ofBool neg * 2 ^ (sh.1 + fb) + mag

/-- One element quantised at scale byte s: its code, whether it was clipped, its pre-clip magnitude. -/
def quantElem (f : Elem) (s : Nat) (v : Fv) : Nat × Bool × (Nat × Int) :=
  let qm := f.qMax
  let top (n : Bool) : Nat :=
    if f.isInt then wrap f.bits (if n then -(qm.1 : Int) else qm.1)
    else encodeMag f n (roundMag f.shape.2.1 (1 - (f.shape.2.2 : Int) - f.shape.2.1) qm.1 qm.2)
  match v with
  | .nan n => ((match f with
      | .e4m3 => 0x7F + 128 * ofBool n
      | .e5m2 => 0x7E + 128 * ofBool n
      | _ => 0), false, (0, 0))
  | .inf n => (top n, true, magInf)
  | .fin n m e =>
    let z : Nat × Int := (m, e - f.unit - ((s : Int) - 127))
    if f.isInt then
      let r := onGrid z.1 z.2 0
      if qm.1 < r then (top n, true, z) else (wrap f.bits (Fv.int n r), false, z)
    else
      let r := roundMag f.shape.2.1 (1 - (f.shape.2.2 : Int) - f.shape.2.1) z.1 z.2
      if magLt qm r then (top n, true, z) else (encodeMag f n r, false, z)

/-- What quantising a group gives: scale byte, codes, clipped elements, flat groups, largest pre-clip magnitude, non-finite inputs. -/
structure QuantOut where
  scale : Nat
  codes : List Nat
  clipped : Nat
  flat : Nat
  maxPre : Nat × Int
  bad : Nat
deriving DecidableEq, Repr

def Fv.finite (a : Fv) : Bool :=
  match a with
  | .fin _ _ _ => true
  | _ => false

/-- The largest leading exponent among the non-zero finite values. -/
def topExp (vs : List Fv) : Option Int :=
  vs.foldl (fun k v =>
    match v with
    | .fin _ m e => if m = 0 then k else some (max (leading m e) (k.getD (leading m e)))
    | _ => k) none

def Fv.isZero (a : Fv) : Bool :=
  match a with
  | .fin _ m _ => m == 0
  | _ => false

/-- Quantise a group, dynamically or at a static scale (R272–R276). Every code of a flat group is 0 (R273). -/
def quantGroup (f : Elem) (fixed : Option Int) (flatExp : Nat) (vs : List Fv) : QuantOut :=
  let top := topExp vs
  let zero := vs.all Fv.isZero
  let s : Nat :=
    match top, fixed with
    | none, _ => flatExp
    | some _, some k => (clampInt 0 254 k).toNat
    | some L, none => (clampInt 0 254 (L - f.qT + 127)).toNat
  let es := vs.map (quantElem f s)
  { scale := s
    codes := if zero then es.map fun _ => 0 else es.map (·.1)
    clipped := (es.filter (·.2.1)).length
    flat := ofBool zero
    maxPre := es.foldl (fun k x => if magLt k x.2.2 then x.2.2 else k) (0, 0)
    bad := (vs.filter fun v => !v.finite).length }

/-! ## Conversions and requantisation (R268, R279–R281) -/

/-- An element with its scale byte as a real value; scale 0xFF gives NaN in a float block and 0 in an integer block (R268, R281). -/
def elemReal (f : Elem) (c s : Nat) : Fv :=
  match f with
  | .bf16 => f.value c
  | .fp32 => f.value c
  | _ => if s = 0xFF then (if f.isInt then .fin false 0 0 else .nan false) else (f.value c).scale (f.unit + ((s : Int) - 127))

/-- A channel record (R279): M, S, E, and whether a field was clamped. -/
structure ChanRec where
  mul : Nat
  sh : Nat
  exp : Int
  clamped : Bool
deriving DecidableEq, Repr

def chanRec (bs : List Byte) : ChanRec :=
  let s := bitsAt (bs.getD 2 0).toNat 0 6
  let e := signed 16 (ofLeBytes ((bs.drop 4).take 2))
  { mul := ofLeBytes (bs.take 2), sh := Nat.min 47 s, exp := clampInt (-512) 511 e
    clamped := decide (47 < s) || decide (e < -512) || decide (511 < e) }

/-- out = sat_W(rne(acc × M, S)) (R280), and whether it saturated. -/
def requant (r : ChanRec) (w : Nat) (acc : Int) : Int × Bool :=
  let x := rneShift (acc * r.mul) r.sh
  let m : Int := (2 ^ (w - 1) : Nat) - 1
  (clampInt (-m) m x, decide (x < -m) || decide (m < x))

/-- x × 2^k added to an accumulator: exact for k ≥ 0, else rounded to nearest even (R232). -/
def shiftRne (x k : Int) : Int := if 0 ≤ k then x * (2 ^ k.toNat : Nat) else rneShift x (-k).toNat

/-- The accumulator limits of R232. -/
def sat32 (x : Int) : Int := clampInt (-2147483648) 2147483647 x
def over32 (x : Int) : Bool := sat32 x != x

/-! ## Tables (R296–R298) -/

/-- A table ready for evaluation: OF, IN_SHIFT and its segments as breakpoint, slope, intercept, IS, RS. -/
structure Pwl where
  outFrac : Nat
  inShift : Nat
  segs : List (Int × Int × Int × Nat × Nat)
deriving DecidableEq, Repr

/-- R297: the value at an input of 12 fraction bits before saturation, in units of 2^-OF. -/
def Pwl.evalRaw (t : Pwl) (z : Int) : Int :=
  let u := clampInt (-32768) 32767 (rneShift z t.inShift)
  match (t.segs.filter fun g => decide (g.1 ≤ u)).getLast? with
  | none => 0
  | some (bp, slope, icpt, is, rs) => icpt * (2 ^ is : Nat) + rneShift (slope * (u - bp)) rs

/-- R297: evaluation, saturated to 32 bits. -/
def Pwl.eval (t : Pwl) (z : Int) : Int := sat32 (t.evalRaw z)

/-- A table image of 512 bytes (R298). -/
def pwlImage (bs : List Byte) : Pwl :=
  let u16 (a : Nat) : Nat := ofLeBytes ((bs.drop a).take 2)
  let hd := u16 0
  { outFrac := bitsAt hd 6 5, inShift := bitsAt hd 11 3
    segs := (List.range (bitsAt hd 0 6 + 1)).map fun i =>
      (if i = 0 then -32768 else signed 16 (u16 (8 * i)), signed 16 (u16 (8 * i + 2)), signed 16 (u16 (8 * i + 4)),
        bitsAt (u16 (8 * i + 6)) 0 4, bitsAt (u16 (8 * i + 6)) 4 5) }

/-- Is an image valid (R298)? -/
def pwlValid (bs : List Byte) : Bool :=
  let u16 (a : Nat) : Nat := ofLeBytes ((bs.drop a).take 2)
  let n := bitsAt (u16 0) 0 6 + 1
  let bp (i : Nat) : Int := if i = 0 then -32768 else signed 16 (u16 (8 * i))
  ((List.range (n - 1)).all fun i => decide (bp i < bp (i + 1))) &&
    ((List.range n).all fun i => bitsAt (u16 (8 * i + 6)) 9 7 == 0) && bitsAt (u16 0) 14 2 == 0 &&
    ((bs.drop (8 * n)).take (512 - 8 * n)).all (· == 0)

/-! ## The basic curves (R296, R297, R299) -/

/-- The functions of R296 at −8, −7, …, 8, in units of 2^-48. -/
def curvePoints (slot : Nat) : List Int :=
  match slot with
  | 0 => -- sigmoid
    [94392670163, 256438113726, 695981545428, 1883870058041, 5062668030193, 13349196548138, 33552639700018, 75700280316650,
     140737488355328, 205774696394006, 247922337010638, 268125780162518, 276412308680463, 279591106652615, 280778995165228,
     281218538596930, 281380584040493]
  | 1 => -- tanh
    [-281474913358992, -281474508601992, -281471517847850, -281449419982585, -281286191370330, -280083013619800, -271349640650271,
     -214369697310621, 0, 214369697310621, 271349640650271, 280083013619800, 281286191370330, 281449419982585, 281471517847850,
     281474508601992, 281474913358992]
  | 2 => -- SiLU
    [-755141361304, -1795066796083, -4175889272568, -9419350290205, -20250672120771, -40047589644414, -67105279400035, -75700280316650,
     0, 205774696394006, 495844674021277, 804377340487554, 1105649234721853, 1397955533263075, 1684673970991368, 1968529770178509,
     2251044672323944]
  | _ => -- exp
    [94424335376, 256671955017, 697706711199, 1896563474645, 5155394029647, 14013813909336, 38093495697156, 103548857136061,
     281474976710656, 765128314358509, 2079834393360235, 5653576037675270, 15368013009024177, 41774590501952633, 113555110252775667,
     308674792728783516, 839065079978014456]

/-- Does a number fit the signed 16-bit fields of R298? -/
def fits16 (x : Int) : Bool := decide (-32768 ≤ x) && decide (x ≤ 32767)

/-- v × 2^-48 at of fraction bits as ICPT and IS of R298, at the smallest IS that holds it. -/
def icptOf (of : Nat) (v : Int) : Int × Nat :=
  let at_ (k : Nat) : Int := rneShift v (48 - of + k)
  let is := ((List.range 16).find? fun k => fits16 (at_ k)).getD 15
  (at_ is, is)

/-- A rise of v × 2^-48 over 4,096 steps of the input as SLOPE and RS of R298, at the largest RS that holds it. -/
def slopeOf (of : Nat) (v : Int) : Int × Nat :=
  let at_ (k : Nat) : Int := shiftRne v ((of : Int) + k - 60)
  let rs := (((List.range 32).reverse).find? fun k => fits16 (at_ k)).getD 0
  (at_ rs, rs)

/-- A basic curve of R296: 16 segments at the breakpoints −8 … 7 that join the curve's values, with the parameters rounded to the
format (R297). DEDUCED: each is rounded to nearest at the shift that keeps the most bits (log 33). -/
def basicCurve (slot : Nat) : Pwl :=
  let of := if slot = 3 then 16 else 24
  let ps := curvePoints slot
  { outFrac := of, inShift := 0
    segs := (List.range 16).map fun i =>
      let a := icptOf of (ps.getD i 0)
      let b := slopeOf of (ps.getD (i + 1) 0 - ps.getD i 0)
      (-32768 + 4096 * (i : Int), b.1, a.1, a.2, b.2) }

/-- The words of a table as an image of R298. -/
def pwlWords (t : Pwl) : List Nat :=
  (List.range 64).flatMap fun i =>
    match t.segs[i]? with
    | none => [0, 0]
    | some (bp, slope, icpt, is, rs) =>
      let head : Nat := if i = 0 then t.segs.length - 1 + 64 * t.outFrac + 2048 * t.inShift else wrap 16 bp
      [head + 65536 * wrap 16 slope, wrap 16 icpt + 65536 * (is + 16 * rs)]

/-! ## Reciprocals (R239) -/

/-- num / den × 2^e, with enough bits that one rounding of it is exact. -/
def quotFv (neg : Bool) (num den : Nat) (e : Int) : Fv :=
  let q := num * 2 ^ 64 / den
  .fin neg (2 * q + (if q * den = num * 2 ^ 64 then 0 else 1)) (e - 65)

/-- The integer square root of a number below 2^130. -/
def isqrt (n : Nat) : Nat := (List.range 65).foldr (fun k r => if (r + 2 ^ k) * (r + 2 ^ k) ≤ n then r + 2 ^ k else r) 0

/-- The exact FP32 reciprocal. -/
def recipExact (w : Nat) : Nat :=
  match ofF32 w with
  | .nan _ => canonNan
  | .inf n => ofBool n * 2 ^ 31
  | .fin n m e => if m = 0 then f32 (.inf n) else f32 (quotFv n 1 m (-e))

/-- The exact FP32 reciprocal square root; of a negative number it is not a number. -/
def rsqrtExact (w : Nat) : Nat :=
  match ofF32 w with
  | .nan _ => canonNan
  | .inf n => if n then canonNan else 0
  | .fin n m e =>
    if m = 0 then f32 (.inf n)
    else if n then canonNan
    else
      let m2 := if e % 2 = 0 then m else 2 * m
      let q := isqrt (2 ^ 128 / m2)
      f32 (.fin false (2 * q + (if q * q * m2 = 2 ^ 128 then 0 else 1)) (-((if e % 2 = 0 then e else e - 1) / 2) - 65))

/-- A result within 1 ulp of an exact FP32 word: which one, the device fixes (R239). A zero, an infinity and a NaN stand. -/
def ulpNear (c : BitVec 2) (w : Nat) : Nat :=
  let mag := w % 2 ^ 31
  if mag = 0 ∨ 0x7F800000 ≤ mag then w
  else if c = 1 then w - 1
  else if c = 2 ∧ mag + 1 < 0x7F800000 then w + 1
  else w

end Sys2Proof.Machine
end

