-- ==== Sys2Proof/Machine/Tiles.lean ====
section
/-! DEFINITION. Compute tiles: launches, kernels, tile SRAM and its regions, quantisation points, clocks (R225–R250, R282–R289,
R410). -/
namespace Sys2Proof.Machine

def pgMx (t : Nat) : Page := ⟨.matrix, t⟩
def pgVe (t : Nat) : Page := ⟨.vector, t⟩
def pgSu (t : Nat) : Page := ⟨.stateUnit, t⟩
def pgTsp (t : Nat) : Page := ⟨.streamPort, t⟩
def pgMesh (d : Nat) : Page := ⟨.mesh, d⟩
def pgStem (d : Nat) : Page := ⟨.stem, d⟩

def TileSt.empty : TileSt :=
  { fifo := [], kernel := none, sram := [], acc := [], sticky := [], vreg := [], waits := [], posts := [], comps := [], xlogs := []
    tokens := [], active := [], pool := [], writes := [], poolChange := [], segs := [], entries := [], tables := [], ends := []
    queued := [], ports := [], ended := none, closing := [], bad := [], outs := [] }

def tileOf (s : State) (t : Nat) : TileSt := sget TileSt.empty s.tiles t
def setTile (t : Nat) (x : TileSt) (s : State) : State := { s with tiles := sset TileSt.empty s.tiles t x }
def updTile (t : Nat) (f : TileSt → TileSt) (s : State) : State := setTile t (f (tileOf s t)) s

/-- Is a tile there and powered? -/
def tileLive (s : State) (t : Nat) : Bool := decide (t < 64) && pageOn s (pgMx t)

/-- A unit has been active in this beat: 0 array, 1 vector engine, 2 state unit, 3 a step waiting for zeroisation. -/
def markActive (t u : Nat) (s : State) : State :=
  updTile t (fun x => if x.active.contains u then x else { x with active := x.active ++ [u] }) s

/-! ## Tile SRAM and its regions (R235–R237, R262) -/

/-- Bytes of tile SRAM. -/
abbrev sramBytes : Nat := 3072 * 4096

/-- The 16 region entries of a tile as (first word, second word). -/
def tileRegions (s : State) (t : Nat) : List (Nat × Nat) :=
  (List.range 16).map fun k =>
    ((rd s (pgTsp t) (Off.TSP_REGION_BASE + 8 * k)).toNat, (rd s (pgTsp t) (Off.TSP_REGION_CFG + 8 * k)).toNat)

/-- Those of a tile's entries `es` that admit accesses: one whose section is being reinstalled refuses every access (R543). -/
def openOf (s : State) (t : Nat) (es : List (Nat × Nat)) : List (Nat × Nat) :=
  ((List.range 16).zip es).map fun e => if s.fc.marked.contains (t, e.1) then (0, 0) else e.2

def openRegions (s : State) (t : Nat) : List (Nat × Nat) := openOf s t (tileRegions s t)

/-- A tile's entries as a kernel of another tile sees them: a write takes effect for kernels that start after it (R237). -/
def farRegions (s : State) (k : Kernel) (u : Nat) : List (Nat × Nat) :=
  openOf s u (((k.far.find? fun e => e.1 == u).map (·.2)).getD (tileRegions s u))

/-- Before an entry of a tile is written, the kernels that run on the other tiles keep its entries as they are. -/
def farKeep (t : Nat) (s : State) : State :=
  let es := tileRegions s t
  { s with tiles := s.tiles.map fun e =>
      (e.1, { e.2 with kernel := e.2.kernel.map fun k =>
        if e.1 == t || k.far.any fun f => f.1 == t then k else { k with far := k.far ++ [(t, es)] } }) }

/-- After a reset of a tile its entries are what every kernel sees. -/
def farDrop (t : Nat) (s : State) : State :=
  { s with tiles := s.tiles.map fun e =>
      (e.1, { e.2 with kernel := e.2.kernel.map fun k => { k with far := k.far.filter fun f => f.1 != t } }) }

/-- First unit and number of units of an entry. -/
def entryBase (e : Nat × Nat) : Nat := bitsAt e.1 0 12
def entrySize (e : Nat × Nat) : Nat := bitsAt e.1 12 12
def entryHas (e : Nat × Nat) (unit : Nat) : Bool := decide (entryBase e ≤ unit) && decide (unit < entryBase e + entrySize e)
def entryOwner (e : Nat × Nat) : Nat := bitsAt e.2 0 10
def entryIsSlot (e : Nat × Nat) : Bool := bitAt e.2 10
def entryReadOnly (e : Nat × Nat) : Bool := bitAt e.2 11
def entryProgram (e : Nat × Nat) : Bool := bitAt e.2 12
def entryPool (e : Nat × Nat) : Bool := bitAt e.2 13
def entryLocked (e : Nat × Nat) : Bool := bitAt e.2 14

/-- May context c read or write in a region (R237)? -/
def entryAllows (s : State) (c : Nat) (write : Bool) (e : Nat × Nat) : Bool :=
  if entryIsSlot e then !write && ctxSlot s c == some (entryOwner e % 16)
  else entryOwner e == c && (!write || !entryReadOnly e)

/-- May context c access n bytes at a, of tile SRAM with these region entries? -/
def sramOk (s : State) (regions : List (Nat × Nat)) (c : Nat) (write : Bool) (a n : Nat) : Bool :=
  n == 0 || (decide (a + n ≤ sramBytes) &&
    (rangeFrom (a / 4096) ((a + n - 1) / 4096 + 1 - a / 4096)).all fun u =>
      regions.any fun e => entryHas e u && entryAllows s c write e)

/-- May context c fetch the instruction at a 16-byte offset of its slot's program? -/
def fetchOk (s : State) (regions : List (Nat × Nat)) (c pc : Nat) : Bool :=
  match ctxSlot s c with
  | none => false
  | some k => regions.any fun e =>
      entryIsSlot e && entryProgram e && entryOwner e % 16 == k && decide (16 * pc + 16 ≤ 4096 * entrySize e)

/-! ### Ports and banks (R235, R236) -/

/-- The first of the consecutive 64-byte lines of an access and their number; line l lies in bank l mod 192. -/
def bankLines (a n : Nat) : Nat × Nat := (a / 64, if n = 0 then 0 else (a + n - 1) / 64 - a / 64 + 1)

/-- Do two accesses address a common bank? -/
def banksMeet (x y : Nat × Nat) : Bool :=
  decide (0 < x.2) && decide (0 < y.2) &&
    (decide ((y.1 + 192 - x.1 % 192) % 192 < x.2) || decide ((x.1 + 192 - y.1 % 192) % 192 < y.2))

/-- Can two accesses of one beat meet at a bank in one clock? A port makes one access at a time, but the read port serves two
generators. -/
def portsMeet (x y : Nat × Nat × Nat) : Bool :=
  (x.1 != y.1 || x.1 == 2) && banksMeet (bankLines x.2.1 x.2.2) (bankLines y.2.1 y.2.2)

/-- An access through a port: 0 weight, 1 write, 2 read. One that goes on where the port's last one ended is part of it. -/
def usePort (port a n : Nat) (s : List (Nat × Nat × Nat)) : List (Nat × Nat × Nat) :=
  match s.getLast? with
  | some (p, b, m) => if p = port ∧ b + m = a then s.dropLast ++ [(p, b, m + n)] else s ++ [(port, a, n)]
  | none => [(port, a, n)]

/-- May two accesses of the beat have met at a bank? -/
def portClash : List (Nat × Nat × Nat) → Bool
  | [] => false
  | x :: xs => xs.any (portsMeet x) || portClash xs

/-- Bytes of tile SRAM; one that nothing has written reads as zero. -/
def sramRead (s : State) (t a n : Nat) : List Byte := (List.range n).map fun i => sget 0 (tileOf s t).sram (a + i)
def sramWrite (t a : Nat) (bs : List Byte) (s : State) : State :=
  updTile t (fun x => { x with sram := cellsWrite bs a x.sram, ports := usePort 1 a bs.length x.ports }) s

/-- A read of tile SRAM through a port is noted. -/
def portRead (t port a n : Nat) (s : State) : State := updTile t (fun x => { x with ports := usePort port a n x.ports }) s

/-! ## Vector registers (R225) -/

/-- A lane of the register file: 256 × register + lane. -/
def laneOf (s : State) (t k : Nat) : Nat := sget 0 (tileOf s t).vreg k
def setLanes (t base : Nat) (vs : List Nat) (s : State) : State :=
  updTile t (fun x => { x with vreg :=
    ((List.range vs.length).zip vs).foldl (fun r v => sset 0 r (base + v.1) (v.2 % 2 ^ 32)) x.vreg }) s
def lanesFrom (s : State) (t base n : Nat) : List Nat := (List.range n).map fun i => laneOf s t (base + i)

/-! ## Launches (R241, R242) -/

def Launch.word (l : Launch) (k : Nat) : Nat := l.words.getD k 0 % 2 ^ 32
def Launch.ctx (l : Launch) : Nat := bitsAt (l.word 1) 0 16
def Launch.record (l : Launch) : Bool := bitAt (l.word 1) 16
def Launch.event (l : Launch) : Bool := bitAt (l.word 1) 17
def Launch.tag (l : Launch) : Nat := l.word 6
def Launch.compq (l : Launch) : Nat := bitsAt (l.word 7) 0 18

/-- Does a launch entry meet R242, but for room in the FIFO? -/
def launchOk (s : State) (l : Launch) : Bool :=
  bitsAt (l.word 1) 18 14 == 0 && bitsAt (l.word 7) 18 14 == 0 && ctxExists s l.ctx && (ctxSlot s l.ctx).isSome

/-- A launch reaches a tile's FIFO (R242): whether it was pushed. -/
def launchPush (t : Nat) (words : List Nat) (queue : Option Nat) (s : State) : Bool × State :=
  let l : Launch := { words, queue, beat := beatNo s }
  if launchOk s l && !fdOwnsTile s t l.ctx then
    (false, s |> bump (pgMx t) Off.TILE_CNT_LAUNCH_REFUSED 1 |> raise (pgMx t) Evt.TILE_LAUNCH_REFUSED
      |> bump pgMb Off.MB_CNT_FD_REFUSED 1)
  else if (tileOf s t).fifo.length < 16 && launchOk s l then (true, updTile t (fun x => { x with fifo := x.fifo ++ [l] }) s)
  else (false, s |> bump (pgMx t) Off.TILE_CNT_LAUNCH_REFUSED 1 |> raise (pgMx t) Evt.TILE_LAUNCH_REFUSED)

/-- Eight words of a page from an offset. -/
def eightWords (s : State) (p : Page) (off : Nat) : List Nat := (List.range 8).map fun k => (rd s p (off + 4 * k)).toNat

/-- A write of TILE_LAUNCH_7. -/
def tileLaunchWrite (t : Nat) (v : Word) (s : State) : State :=
  let s := wr (pgMx t) (Off.TILE_LAUNCH + 28) v s
  (launchPush t (eightWords s (pgMx t) Off.TILE_LAUNCH) none s).2

/-- LAUNCH_PUSH: a write of TILE_LAUNCH_7. -/
def execLaunchPush (w : Func) (t : Nat) (v : Word) (s : State) : State :=
  access w (pgMx t) (Off.TILE_LAUNCH + 28) v (tileLaunchWrite t v) s

/-- What deal ACTION LAUNCH does: whether the entry was pushed, and whether the FIFO was full (R44, R242). -/
def dealLaunch (t : Nat) (s : State) : Bool × State :=
  let full := decide (16 ≤ (tileOf s t).fifo.length)
  (full, (launchPush t (eightWords s (pgMx t) Off.TILE_DEAL_ENTRY) none s).2)

/-! ## Records that a tile holds (R410) -/

/-- Hold a completion (0), exponent-change (1) or token (2) record until its queue accepts it. -/
def holdRecord (t kind queue ctx : Nat) (bs : List Byte) (s : State) : State :=
  let x := tileOf s t
  let held := match kind with
    | 0 => x.comps | 1 => x.xlogs | _ => x.tokens
  if 16 ≤ held.length then
    let s := bump (pgTsp t) Off.TSP_CNT_RECORD_LOST 1 s
    if kind = 1 then s |> bump (pgVe t) Off.VE_CNT_XLOG_LOST 1 |> raise (pgVe t) Evt.VE_XLOG_LOST else s
  else
    let l := held ++ [(queue, ctx, bs)]
    updTile t (fun x => match kind with
      | 0 => { x with comps := l } | 1 => { x with xlogs := l } | _ => { x with tokens := l }) s

/-- A completion record (R244, R344). -/
def completionBytes (l : Launch) (tag tile status startTt endTt pc flags : Nat) : List Byte :=
  leBytes 4 tag ++ leBytes 2 l.ctx ++ leBytes 1 tile ++ leBytes 1 status ++ leBytes 8 startTt ++ leBytes 8 endTt ++
    leBytes 4 pc ++ leBytes 4 flags

/-! ## Quantisation points (R282–R288) -/

def qpOff (off n : Nat) : Nat := off + 0x10 * n
def qpAdj (s : State) (t n : Nat) : Int := signed 5 (fld s (pgVe t) (Off.VE_QP_ADJ + 8 * n) 0 5)

/-- What a kernel of a context latches of the points it owns (R282, R287). -/
def latchPoints (s : State) (t c : Nat) : List QpRun :=
  (List.range 16).filterMap fun n =>
    let p := pgVe t
    if flag s p (qpOff Off.VE_QP_OWNER n) 31 && fld s p (qpOff Off.VE_QP_OWNER n) 0 10 == c then
      some { point := n, static := flag s p (qpOff Off.VE_QP_CFG n) 0, base := fld s p (qpOff Off.VE_QP_CFG n) 8 8
             adj := qpAdj s t n, inExp := signed 10 (fld s p (qpOff Off.VE_QP_CFG n) 16 10)
             statEn := flag s p (qpOff Off.VE_QP_CFG n) 1, high := fld s p (qpOff Off.VE_QP_THRESH n) 0 16, count := 0, clipped := 0, flat := 0, maxPre := (0, 0), half := (0, 0) }
    else none

/-- The static scale byte of a point (R276). -/
def QpRun.scale (q : QpRun) : Nat := (clampInt 0 254 ((q.base : Int) + q.adj)).toNat

/-- A change of ADJ, with its record (R286, R288). -/
def changeAdj (t n c : Nat) (old new : Int) (reason : Nat) (s : State) : State :=
  let p := pgVe t
  let s := s |> setFld p (Off.VE_QP_ADJ + 8 * n) 0 5 (wrap 5 new) |> raise p Evt.VE_ADAPTED |> bump p Off.VE_CNT_ADAPT 1
  if flag s p Off.VE_XLOG 31 then
    holdRecord t 1 (fld s p Off.VE_XLOG 0 18) c
      (leBytes 8 (64 * beatNo s) ++ leBytes 1 t ++ leBytes 1 n ++ leBytes 1 (wrap 8 old) ++ leBytes 1 (wrap 8 new) ++
        leBytes 2 c ++ leBytes 1 reason ++ leBytes 1 0) s
  else s

/-- The adaptation of R286 at a step's close. EN is written under CTRL.EXPERT, and stays in force when its writer clears EXPERT (R287). -/
def adaptPoint (t c : Nat) (q : QpRun) (high : Bool) (s : State) : State :=
  let p := pgVe t
  let n := q.point
  let off := Off.VE_QP_ADAPT + 8 * n
  if !(flag s p off 0 && q.static) then s
  else
    let adj := qpAdj s t n
    let setRun (v : Nat) (s : State) : State := setFld p (Off.VE_QP_ADJ + 8 * n) 8 8 v s
    if high then
      let s := setRun 0 s
      if adj < (fld s p off 16 4 : Int) then changeAdj t n c adj (adj + 1) 1 s else s
    else if magLt q.maxPre q.half then
      let run := fld s p (Off.VE_QP_ADJ + 8 * n) 8 8 + 1
      if run = fld s p off 8 8 then
        let s := setRun 0 s
        if -(fld s p off 20 4 : Int) < adj then changeAdj t n c adj (adj - 1) 2 s else s
      else setRun run s
    else setRun 0 s

/-- One point closes its step (R284). -/
def closeStep (t c : Nat) (q : QpRun) (s : State) : State :=
  if !q.statEn || q.count == 0 then s
  else
    let p := pgVe t
    let at_ := qpOff Off.VE_QP_STAT q.point
    let high := decide (q.high * q.count < q.clipped * 65536)
    let word := bf16Down q.maxPre + 65536 * (if q.static then q.scale else 0) + 2 ^ 24 * ofBool high
    let s := s |> wr p at_ (BitVec.ofNat 32 q.count) |> wr p (at_ + 4) (BitVec.ofNat 32 q.clipped)
      |> wr p (at_ + 8) (BitVec.ofNat 32 q.flat) |> wr p (at_ + 12) (BitVec.ofNat 32 word)
    let s := if high then s |> bump p Off.VE_CNT_CLIP_HIGH 1 |> raise p Evt.VE_CLIP_HIGH else s
    s |> bump p Off.VE_CNT_FLAT q.flat |> adaptPoint t c q high

/-! ## Segments, as a kernel's end sees them (R293, R310) -/

def Segment.count (g : Segment) : Nat := (8 * 2 ^ fieldOf g.cfg 4 2) * fieldOf g.cfg 10 13
def Segment.base (g : Segment) : Nat := 256 * fieldOf g.range 0 10
def Segment.units (g : Segment) : Nat := fieldOf g.range 10 11

/-- A segment at its reset values. -/
def Segment.empty : Segment :=
  { cfg := 0x610, range := 0, owner := 0, planes := 0, pos := 0, sat := false, broken := false, zeroing := false, releasing := false
    first := false }

/-- A segment's entries are zeroised and it becomes invalid. SAT stays until 1 is written to it (R303). -/
def dropSegment (t n : Nat) (s : State) : State :=
  updTile t (fun x =>
    match x.segs.find? fun e => e.1 == n with
    | none => x
    | some (_, g) =>
      { x with segs := sset Segment.empty x.segs n
                 { Segment.empty with cfg := putField g.cfg 0 1 0, range := g.range, owner := g.owner, planes := g.planes, sat := g.sat }
               entries := x.entries.filter fun e => !(decide (g.base ≤ e.1) && decide (e.1 < g.base + 256 * g.units)) }) s

/-- A segment is left BROKEN (R310). -/
def breakSegment (t n : Nat) (s : State) : State :=
  if ((tileOf s t).segs.any fun e => e.1 == n && !e.2.broken) then
    updTile t (fun x => { x with segs := updFirst (fun e => e.1 == n) (fun e => (e.1, { e.2 with broken := true })) x.segs }) s
      |> bump (pgSu t) Off.SU_CNT_BROKEN 1 |> raise (pgSu t) Evt.SU_BROKEN
  else s

/-- The segments named by state instructions that have not completed (R310). -/
def namedSegs (x : TileSt) : List Nat :=
  x.queued.flatMap (·.segs) ++ x.waits.flatMap fun w =>
    match w with
    | .acks _ segs => segs
    | _ => []

/-- The segments of the state instructions that wait for zeroisation. -/
def waitingSegs (x : TileSt) : List Nat :=
  x.waits.flatMap fun w =>
    match w with
    | .state op _ => op.segs.map (·.seg)
    | _ => []

/-! ## Kernels (R243–R247) -/

/-- The kernel leaves the tile: waits, holds, pending releases and its command end. -/
def clearKernel (t : Nat) (k : Kernel) (s : State) : State :=
  let s := (namedSegs (tileOf s t)).foldl (fun s n => breakSegment t n s) s
  let due := ((tileOf s t).segs.filter fun e => e.2.releasing && k.segs.contains e.1).map (·.1)
  let s := updTile t (fun x =>
    { x with kernel := none, waits := [], queued := [], ended := some s.tt.beats
             pool := x.pool.map fun l => if l.st == 2 && k.held.contains (l.line, l.filled) then { l with st := 3 } else l
             ends := x.ends ++ k.launch.queue.toList }) s
  due.foldl (fun s n => dropSegment t n s) s |> endCmd (pgMx t) 0 |> setFlag (pgMx t) Off.STATUS 8 false

/-- The steps of an ended kernel's points close: when the beat ends, after its register writes (R287). -/
def closeSteps (t c : Nat) (qs : List QpRun) (s : State) : State :=
  if s.tt.run then updTile t (fun x => { x with closing := x.closing ++ qs.map fun q => (c, q) }) s
  else qs.foldl (fun s q => closeStep t c q s) s

/-- The step closes of the beat that ends; then a kernel that started in it latches its points as the writes leave them, but for those it has
used (R287). -/
def pointsEnd (s : State) : State :=
  (s.tiles.map (·.1)).foldl (fun s t =>
    let due := (tileOf s t).closing
    let s := if due.isEmpty then s else due.foldl (fun s e => closeStep t e.1 e.2 s) (updTile t (fun x => { x with closing := [] }) s)
    match (tileOf s t).kernel with
    | some k =>
      if k.started = s.tt.beats then
        let used := k.qps.filter fun q => q.count != 0
        let new := (latchPoints s t k.launch.ctx).filter fun q => !(used.any fun u => u.point == q.point)
        updTile t (fun x => { x with kernel := some { k with qps := used ++ new } }) s
      else s
    | none => s) s

/-- A token record as the kernel wrote it, with the Table Time of the beat in which the head ended; STATE_SAT is 0 where no segment of the
context has SAT, and otherwise a free bit, because which of them are the stream's is the deck's knowledge (R357; log 67). -/
def tokenBytes (s : State) (sat : Bool) (bs : List Byte) : List Byte :=
  let f := ofLeBytes ((bs.drop 7).take 1)
  bs.take 7 ++ leBytes 1 (putAt f 1 1 (ofBool (sat && bitAt (fresh s).1 0))) ++ leBytes 8 (64 * beatNo s)

/-- The token records of an ended kernel go to the stream port. -/
def tokensOut (t : Nat) (k : Kernel) (s : State) : State :=
  let sat := s.tiles.any fun e => e.2.segs.any fun g => bitOf g.2.cfg 0 && g.2.sat && fieldOf g.2.owner 0 10 == k.launch.ctx
  k.tokens.foldl (fun s x => { holdRecord t 2 x.1 k.launch.ctx (tokenBytes s sat x.2) s with freeIdx := s.freeIdx + ofBool sat }) s

/-- The running kernel ends with a status of R245 at an offset: steps close when it is OK, the record is sent, the events and
counters follow; a fault status adds a fault record (R532). -/
def finishKernel (t status pc : Nat) (s : State) : State :=
  match (tileOf s t).kernel with
  | none => s
  | some k =>
    let l := k.launch
    let s := if status = 0 then closeSteps t l.ctx k.qps s else s
    let s := clearKernel t k s |> tokensOut t k |> bump (pgMx t) Off.TILE_CNT_KERNELS 1
    let s := if l.record then
        holdRecord t 0 l.compq l.ctx (completionBytes l l.tag t status k.startTt (64 * beatNo s) pc (ofBool k.accSat)) s
      else s
    let s := if l.event then raise (pgMx t) Evt.TILE_KERNEL_DONE s else s
    if status = 1 ∨ status = 2 then
      s |> raise (pgMx t) Evt.TILE_KERNEL_FAULT |> bump (pgMx t) Off.TILE_CNT_FAULTS 1
        |> formRec (mkRec 0xA status 1 t (ctxTenant s l.ctx) t l.ctx pc l.tag)
    else if status = 3 then formRec (mkRec 0xA 3 2 t (ctxTenant s l.ctx) t l.ctx pc l.tag) s
    else s

/-- The kernel ends with REGION: an access was refused (R237, R245). -/
def regionFault (t pc : Nat) (s : State) : State :=
  s |> bump (pgTsp t) Off.TSP_CNT_REGION_FAULT 1 |> raise (pgTsp t) Evt.TSP_REGION_FAULT |> finishKernel t 1 pc

/-- KERNEL_START: the oldest launch starts, its first instruction is fetched (R243). After a kernel's end the next one starts at the next
beat boundary at the earliest. -/
def execKernelStart (t : Nat) (s : State) : State :=
  match (tileOf s t).kernel, (tileOf s t).fifo with
  | none, l :: rest =>
    if !(tileLive s t && enabledFor s (pgMx t) l.ctx) || (tileOf s t).ended == some s.tt.beats then s
    else
      let k : Kernel :=
        { launch := l, startTt := 64 * beatNo s, started := s.tt.beats, regions := openRegions s t, qps := latchPoints s t l.ctx
          accSat := false, segs := [], clamped := [], held := [], toks := [], far := [], tokens := [] }
      let s := updTile t (fun x => { x with fifo := rest, kernel := some k, acc := [], sticky := [], vreg := [], waits := [], queued := [] }) s
        |> startCmd (pgMx t) 0 |> setFlag (pgMx t) Off.STATUS 8 true
        |> wr (pgMx t) Off.TILE_SEQ_PC (BitVec.ofNat 32 (l.word 0))
      if fetchOk s k.regions l.ctx (l.word 0) then s else regionFault t (l.word 0) s
  | _, _ => s

/-- KERNEL_END: END issues at an offset once every unit has finished; an undefined instruction ends the kernel with ILLEGAL. -/
def execKernelEnd (t pc : Nat) (undefined : Bool) (s : State) : State :=
  match (tileOf s t).kernel with
  | none => s
  | some k =>
    if !tileLive s t then s
    else
      let s := wr (pgMx t) Off.TILE_SEQ_PC (BitVec.ofNat 32 pc) s
      if !fetchOk s k.regions k.launch.ctx pc then regionFault t pc s
      else if undefined then finishKernel t 2 pc s
      else if (tileOf s t).waits.isEmpty && (tileOf s t).queued.isEmpty then finishKernel t 0 pc s
      else s

/-- What an instruction of the running kernel does. Status 0: it is done; 1 REGION by the tile's own check, 4 REGION by an error answer
from elsewhere, 2 ILLEGAL: it ends the kernel; 7: its writes have been sent and are to be acknowledged; 8: it holds its unit in a wait; 9: it
is not done and asks again. In both cases it stays at the front of its unit. -/
structure Ran where
  status : Nat
  state : State

/-- The unit that executes an instruction of a read generator, and those of R246 by number. -/
def readUnit (i : Issue) : Nat := if i.second then 5 else 4
abbrev unitMatrix : Nat := 1
abbrev unitVector : Nat := 2
abbrev unitState : Nat := 3
abbrev unitWrite : Nat := 6
abbrev unitSync : Nat := 7

/-- What a unit holds of an instruction that neither writes nor posts. -/
def unitEntry (u : Nat) (i : Issue) : Queued := ⟨u, i.pc, false, false, []⟩

/-- Is an entry that of the instruction at a unit and offset? -/
def isEntry (u pc : Nat) (e : Queued) : Bool := e.unit == u && e.pc == pc

/-- An instruction has been dispatched and has not left its unit. -/
def isQueued (x : TileSt) (u : Nat) (i : Issue) : Bool := x.queued.any (isEntry u i.pc)

/-- Does an instruction stand at the front of its unit? -/
def atFront (x : TileSt) (u : Nat) (i : Issue) : Bool := (x.queued.find? fun e => e.unit == u).all fun e => e.pc == i.pc

/-- May the sequencer dispatch one more instruction to a unit, which holds up to 8, also those in a wait (R246)? -/
def unitRoom (x : TileSt) (u : Nat) : Bool := decide ((x.queued.filter fun e => e.unit == u).length < 8)

/-- Is an instruction a POST that an earlier write of the kernel, not yet sent, holds back (R249)? -/
def postHeld (x : TileSt) (q : Queued) : Bool :=
  q.posts && (x.queued.takeWhile fun e => !isEntry q.unit q.pc e).any (·.writes)

/-- An instruction goes to its unit's queue. -/
def enqueue (t : Nat) (q : Queued) (s : State) : State :=
  updTile t (fun x => if x.queued.any (isEntry q.unit q.pc) then x else { x with queued := x.queued ++ [q] }) s

/-- An instruction leaves its unit. -/
def dequeue (t u : Nat) (i : Issue) (s : State) : State :=
  updTile t (fun x => { x with queued := x.queued.eraseP (isEntry u i.pc) }) s

/-- An instruction signals its tokens. -/
def signalTokens (t : Nat) (i : Issue) (s : State) : State :=
  updTile t (fun x => { x with kernel := x.kernel.map fun k =>
    { k with toks := k.toks ++ (i.signals.filter fun n => decide (n < 16) && !k.toks.contains n) } }) s

/-- Of two statuses the one that stands: what ends the kernel, then what holds the instruction, then what it waits for. -/
def worse (a b : Nat) : Nat := if a = 0 ∨ (a = 7 ∧ b ≠ 0) then b else a

/-- An instruction completes, leaves its unit and signals its tokens; or leaves it and signals them when its writes are acknowledged; or stays
there; or its fault ends the kernel and cancels the instructions dispatched before it (R245, R310). -/
def ranEnd (t u : Nat) (i : Issue) (r : Ran) : State :=
  if r.status = 0 then signalTokens t i (dequeue t u i r.state)
  else if r.status = 7 then
    let segs := (((tileOf r.state t).queued.find? (isEntry u i.pc)).map (·.segs)).getD []
    updTile t (fun x => { x with waits := x.waits ++ [.acks i segs] }) (dequeue t u i r.state)
  else if 8 ≤ r.status then r.state
  else
    let s := updTile t (fun x => { x with queued := x.queued.takeWhile fun e => !isEntry u i.pc e }) r.state
    if r.status = 1 then regionFault t i.pc s else finishKernel t (if r.status = 4 then 1 else r.status) i.pc s

/-- An instruction of a kernel (R246). Unless it has been dispatched before, the sequencer dispatches it now: it is fetched under the region
check and TILE_SEQ_PC shows it; dispatch stops while its unit holds 8 instructions. It executes when it stands at the front of its unit, its
tokens are signalled and its unit is in no wait; afterwards it leaves the unit and signals its tokens, or its fault ends the kernel. -/
def issue (t : Nat) (q : Queued) (i : Issue) (free : TileWait → Bool) (f : Kernel → State → Ran) (s : State) : State :=
  match (tileOf s t).kernel with
  | none => s
  | some k =>
    let old := isQueued (tileOf s t) q.unit i
    if !tileLive s t || !(old || unitRoom (tileOf s t) q.unit) then s
    else
      let s := if old then s else wr (pgMx t) Off.TILE_SEQ_PC (BitVec.ofNat 32 i.pc) s
      if !old && !fetchOk s k.regions k.launch.ctx i.pc then regionFault t i.pc s
      else
        let s := enqueue t q s
        if !atFront (tileOf s t) q.unit i || !(i.waits.all fun n => k.toks.contains n) || !((tileOf s t).waits.all free) ||
          postHeld (tileOf s t) q then s
        else ranEnd t q.unit i (f k s)

/-- A write of the kernel that the home MD answered with an error ends it with REGION (R245, R400). -/
def writeFailed (t : Nat) (who : Requester) (s : State) : State :=
  let held := (tileOf s t).waits.findSome? fun w =>
    match w with
    | .acks i _ => some i.pc
    | _ => none
  match (tileOf s t).kernel, held with
  | some k, some pc => if who == .ctx k.launch.ctx then finishKernel t 1 pc s else s
  | _, _ => s

/-- The writes of the kernel's context that have left the tile are all acknowledged: the instructions that waited for it are done (R249). -/
def acksDone (t : Nat) (s : State) : State :=
  match (tileOf s t).kernel with
  | none => s
  | some k =>
    if (tileOf s t).writes.any fun w => w.who == .ctx k.launch.ctx then s
    else
      let is := (tileOf s t).waits.filterMap fun w =>
        match w with
        | .acks i _ => some i
        | _ => none
      is.foldl (fun s i => signalTokens t i s) (updTile t (fun x => { x with waits := x.waits.filter fun w =>
        match w with
        | .acks _ _ => false
        | _ => true }) s)

/-- Change the running kernel of a tile. -/
def updKernel (t : Nat) (f : Kernel → Kernel) (s : State) : State := updTile t (fun x => { x with kernel := x.kernel.map f }) s

/-- May the kernel access its own tile's SRAM? -/
def ownOk (s : State) (k : Kernel) (write : Bool) (a n : Nat) : Bool := sramOk s k.regions k.launch.ctx write a n

/-- The channel record at an offset, with VE_CNT_RQ_CLAMP counted once per record and kernel (R279). -/
def readRecord (t a : Nat) (s : State) : ChanRec × State :=
  let r := chanRec (sramRead s t a 8)
  match (tileOf s t).kernel with
  | some k =>
    if r.clamped && !k.clamped.contains a then
      (r, updKernel t (fun k => { k with clamped := k.clamped ++ [a] }) s |> bump (pgVe t) Off.VE_CNT_RQ_CLAMP 1)
    else (r, s)
  | none => (r, s)

/-! ## Clocks (R227–R229) -/

/-- The clock register of a tile's page or of a die's network page. -/
def clkPage (noc : Bool) (k : Nat) : Page := if noc then pgMesh k else pgMx k
def clkReg (noc : Bool) : Nat := if noc then Off.NOC_CLK else Off.TILE_CLK

/-- The cap that throttling sets (R585). -/
def clkCap (s : State) : Nat := fld s pgPower Off.PWR_THROTTLE 0 6

/-- What a clock's request and the cap ask for. -/
def clkWant (s : State) (noc : Bool) (k : Nat) : Nat := Nat.min (fld s (clkPage noc k) (clkReg noc) 0 6) (clkCap s)

/-- The clocks by number: tiles, and 64 + die for a network. -/
def clkKey (noc : Bool) (k : Nat) : Nat := if noc then 64 + k else k

/-- The highest clock that the rail of a compute die must carry: those in force on the die and those that are pending (R228). -/
def railClock (s : State) (die : Nat) : Nat :=
  let one (noc : Bool) (k : Nat) : Nat :=
    let p := clkPage noc k
    if !(pagePresent s.part p && pageOn s p) then 0
    else
      let eff := fld s p (clkReg noc) 8 6
      if s.pwr.clkPend.any fun e => e.1 == clkKey noc k then Nat.max eff (clkWant s noc k) else eff
  (rangeFrom (16 * die) 16).foldl (fun m t => Nat.max m (one false t)) (one true die)

/-- The voltage of a clock: the four that R228 prints, and between them what the device needs. -/
def railVolts (clock : Nat) : Nat :=
  match clock with
  | 8 => 550 | 24 => 620 | 40 => 750 | 44 => 800
  | n => (Config.railMillivolts n).toNat

/-- The rail of a clock's die is set anew where what it must carry has changed from the clock given (R228, R578). -/
def railSet (noc : Bool) (k was : Nat) (s : State) : State :=
  let die := if noc then k else k / 16
  if railClock s die = was then s else emit (.avsWrite die (railVolts (railClock s die))) s

/-- A clock takes a value: recorded in hand history (R228, R559). -/
def clockSet (noc : Bool) (k eff : Nat) (throttled : Bool) (s : State) : State :=
  let p := clkPage noc k
  let changed := fld s p (clkReg noc) 8 6 != eff
  let was := railClock s (if noc then k else k / 16)
  let s := { s with pwr := { s.pwr with clkPend := s.pwr.clkPend.filter fun e => e.1 != clkKey noc k } }
  let s := setFld p (clkReg noc) 8 6 eff s
  let s := (if noc then s else s |> setFlag p Off.TILE_CLK 14 false |> setFlag p Off.TILE_CLK 15 throttled) |> railSet noc k was
  if !changed then s
  else
    let s := hhCapture 0x31 (pageIsland p) 0
      (leBytes 4 (pageBase p) ++ leBytes 1 eff ++ leBytes 1 (ofBool throttled) ++ leBytes 2 0) s
    if noc then s else bump p Off.TILE_CNT_CLK_CHANGES 1 s

/-- A clock shows what its request and the cap ask for (R228, R585): a change is pending from now on, an increase sets the rail, and a tile's clock is THROTTLED while
EFF is below REQ and the cap is. -/
def clkShow (noc : Bool) (k : Nat) (s : State) : State :=
  let p := clkPage noc k
  let eff := fld s p (clkReg noc) 8 6
  let req := fld s p (clkReg noc) 0 6
  let change := clkWant s noc k != eff
  let was := railClock s (if noc then k else k / 16)
  let rest := s.pwr.clkPend.filter fun e => e.1 != clkKey noc k
  let s := { s with pwr := { s.pwr with clkPend := if change then rest ++ [(clkKey noc k, s.tt.beats)] else rest } } |> railSet noc k was
  if noc then s
  else setFlag p Off.TILE_CLK 14 change s |> setFlag p Off.TILE_CLK 15 (decide (clkCap s < req) && decide (eff < req))

/-- A write of REQ (R228, R260, R263). -/
def clkWrite (noc : Bool) (k : Nat) (v : Word) (s : State) : State :=
  let p := clkPage noc k
  let req := fieldOf v 0 6
  if req < 8 ∨ 44 < req then (if noc then s else bump p Off.TILE_CNT_CFG_REFUSED 1 s)
  else clkShow noc k (setFld p (clkReg noc) 0 6 req s)

/-- CLOCK_REQUEST: a write of TILE_CLK or NOC_CLK. -/
def execClockRequest (w : Func) (noc : Bool) (k : Nat) (v : Word) (s : State) : State :=
  access w (clkPage noc k) (clkReg noc) v (clkWrite noc k v) s

/-- A pending change takes effect; in replay CLOCK records set the clocks instead (R569). -/
def clockTake (noc : Bool) (k : Nat) (s : State) : State :=
  let p := clkPage noc k
  if !(pagePresent s.part p && pageOn s p) || hhMode s == 2 then s
  else clockSet noc k (clkWant s noc k) (decide (clkWant s noc k < fld s p (clkReg noc) 0 6)) s

/-- Has a beat boundary passed since a change became pending? -/
def clockDue (s : State) (noc : Bool) (k : Nat) : Bool :=
  s.pwr.clkPend.any fun e => e.1 == clkKey noc k && decide (e.2 < s.tt.beats)

/-- CLOCK_CHANGE: the rail has reached the voltage of a pending increase, at a beat boundary after the request (R228). -/
def execClockChange (noc : Bool) (k : Nat) (s : State) : State := if clockDue s noc k then clockTake noc k s else s

/-- Pending decreases take effect as a beat begins (R228). -/
def clockFalls (s : State) : State :=
  s.pwr.clkPend.foldl (fun s e =>
    let noc := decide (64 ≤ e.1)
    let k := if noc then e.1 - 64 else e.1
    if clockDue s noc k && decide (clkWant s noc k < fld s (clkPage noc k) (clkReg noc) 8 6) then clockTake noc k s else s) s

/-- A powered clock shows what the clock cap makes of its request (R228, R585). -/
def capShow (noc : Bool) (s : State) (k : Nat) : State :=
  if !(pagePresent s.part (clkPage noc k) && pageOn s (clkPage noc k)) then s else clkShow noc k s

/-- The package clock cap takes a value; a change sets THROTTLE and is counted (R585, R588). -/
def setCap (cap : Nat) (s : State) : State :=
  let old := clkCap s
  if cap = old then s
  else
    let s := s |> setFld pgPower Off.PWR_THROTTLE 0 6 cap |> setFlag pgPower Off.PWR_THROTTLE 6 (decide (cap < 44))
      |> raise pgPower Evt.PWR_THROTTLE
      |> bump pgPower (if cap < old then Off.PWR_CNT_THROTTLE_DOWN else Off.PWR_CNT_THROTTLE_UP) 1
    (List.range 4).foldl (capShow true) ((List.range 64).foldl (capShow false) s)

end Sys2Proof.Machine
end

