-- ==== Sys2Proof/Machine/Pool.lean ====
section
/-! DEFINITION. The T1 pool of a tile (R392–R399, R407). -/
namespace Sys2Proof.Machine

/-! ## Lines. States: 2 HELD, 3 CLEAN, 4 DIRTY, 5 EVICTING; a line not listed is FREE. -/

/-- Does a region entry wait for its flush to change (R399)? -/
def entryChanges (s : State) (t k : Nat) : Bool := (tileOf s t).poolChange.any fun c => (c.1 - 0x100) / 8 == k

/-- The units of a tile's POOL regions, in order, but of those that are being flushed. -/
def poolUnits (s : State) (t : Nat) : List Nat :=
  let es := (((List.range 16).zip (tileRegions s t)).filter fun e => entryPool e.2 && !entryChanges s t e.1).map (·.2)
  if es.isEmpty then [] else (List.range 3072).filter fun u => es.any fun e => entryHas e u

def poolLines (s : State) (t : Nat) : List PoolLine := (tileOf s t).pool
def updPool (t : Nat) (f : List PoolLine → List PoolLine) (s : State) : State := updTile t (fun x => { x with pool := f x.pool }) s
def updPoolLine (t n : Nat) (f : PoolLine → PoolLine) (s : State) : State := updPool t (updFirst (fun l => l.line == n) f) s
def freePoolLine (t n : Nat) (s : State) : State := updPool t (List.filter fun l => l.line != n) s

/-- The line that has a home slot for a tenant. -/
def poolFind (s : State) (t : Nat) (h : Home) (tenant : Nat) : Option PoolLine :=
  (poolLines s t).find? fun l => l.home == h && l.tenant == tenant && (l.st == 2 || l.st == 3 || l.st == 4)

/-- The line whose next content, once its victim is acknowledged, is a home slot of a tenant (R395). -/
def poolNext (s : State) (t : Nat) (h : Home) (tenant : Nat) : Option PoolLine :=
  (poolLines s t).find? fun l => l.st == 5 && l.next.any fun x => x.home == h && x.tenant == tenant

/-- The bytes of a line. -/
def lineData (s : State) (t n : Nat) : List Byte := sramRead s t (4096 * n) 4096

def pinCount (s : State) (t : Nat) : Nat := ((poolLines s t).filter fun l => l.pin.isSome).length

/-- A write to a home slot as it leaves a tile: it commits at the home MD after its crossing (R35). -/
def writeOut (s : State) (t : Nat) (h : Home) (who : Requester) (off : Nat) (data : List Byte) (line : Option Nat) : WriteBack :=
  { home := h, who, off, data, line, merged := false, failed := false, due := beatNo s + crossingBeats t (68 + mdOf s h) }

/-- A line leaves the tile as a write-back of its tag's tenant. -/
def sendWriteBack (t : Nat) (l : PoolLine) (line : Option Nat) (s : State) : State :=
  updTile t (fun x => { x with writes := x.writes ++ [writeOut s t l.home (.tag l.tenant) 0 (lineData s t l.line) line] }) s
    |> bump (pgTsp t) Off.TSP_CNT_POOL_WRITEBACK 1

/-- May a fill pin (R394)? -/
def pinOk (s : State) (t c : Nat) (old : Option Nat) : Bool :=
  match old with
  | some o => o == c
  | none => decide (pinCount s t < fld s (pgTsp t) Off.TSP_POOL_CFG 0 12)

/-- Put content into a line, pinned when that is allowed. -/
def installLine (t n : Nat) (x : PoolFill) (s : State) : State :=
  let old := (poolLines s t).find? fun l => l.line == n && l.home == x.home && l.tenant == x.tenant && l.st != 5
  let oldPin := old.bind (·.pin)
  let ok := x.pin && pinOk s t x.ctx oldPin
  let s := if x.pin && !ok then bump (pgTsp t) Off.TSP_CNT_PIN_REFUSED 1 s else s
  let l : PoolLine :=
    { line := n, st := x.st, home := x.home, tenant := x.tenant, owner := x.ctx, age := beatNo s
      pin := if ok then some x.ctx else oldPin, filled := s.tt.beats, next := none }
  freePoolLine t n s |> updPool t (insertBy PoolLine.line l) |> sramWrite t (4096 * n) x.data

/-- The line that a fill may take (R395): the lowest FREE one, else the oldest CLEAN or DIRTY one that is not pinned. -/
def chooseLine (s : State) (t : Nat) : Option (Nat × Option PoolLine) :=
  let ls := poolLines s t
  let units := poolUnits s t
  match units.find? fun u => !(ls.any fun l => l.line == u) with
  | some u => some (u, none)
  | none =>
    let can := ls.filter fun l => (l.st == 3 || l.st == 4) && l.pin.isNone && units.contains l.line
    (can.foldl (fun (b : Option PoolLine) l =>
      match b with
      | none => some l
      | some x => if l.age < x.age then some l else some x) none).map fun l => (l.line, some l)

/-- Content enters the pool (R393–R397): into the line that has it, or into a line taken for it; a DIRTY line is written back first
and taken when the acknowledgement commits. Answers whether a line was found. -/
def poolPut (t : Nat) (x : PoolFill) (s : State) : Bool × State :=
  match poolFind s t x.home x.tenant, poolNext s t x.home x.tenant with
  | some l, _ => (true, installLine t l.line x s)
  | none, some l => (true, updPoolLine t l.line (fun l => { l with next := some x }) s)
  | none, none =>
    match chooseLine s t with
    | none => (false, s)
    | some (n, none) => (true, installLine t n x s)
    | some (n, some l) =>
      let s := bump (pgTsp t) Off.TSP_CNT_POOL_EVICT 1 s
      if l.st = 4 then
        (true, sendWriteBack t l (some n) s |> updPoolLine t n (fun l => { l with st := 5, next := some x }))
      else (true, freePoolLine t n s |> installLine t n x)

/-- A fill found no line, or a write went through (R396, R397). -/
def poolSpill (t : Nat) (s : State) : State := s |> bump (pgTsp t) Off.TSP_CNT_POOL_SPILL 1 |> raise (pgTsp t) Evt.TSP_POOL_SPILL

/-! ## Holds, write-backs and their acknowledgements -/

/-- HOLD_EXPIRY: HELD lines whose hold limit has passed become CLEAN (R394). -/
def execHoldExpiry (t : Nat) (s : State) : State :=
  let limit := fld s (pgTsp t) Off.TSP_POOL_CFG 16 16 * 64
  let due (l : PoolLine) : Bool := l.st == 2 && limit != 0 && decide (l.filled + limit ≤ s.tt.beats)
  let n := ((poolLines s t).filter due).length
  if !tileLive s t || n == 0 then s
  else updPool t (List.map fun l => if due l then { l with st := 3 } else l) s |> bump (pgTsp t) Off.TSP_CNT_HOLD_EXPIRED n

/-- Is a tile's write the next at its MD: none of another tile that can be applied comes before it in the order of R37 (R390)? -/
def writeTurn (s : State) (t : Nat) (w : WriteBack) : Bool :=
  !(s.tiles.any fun e => e.1 != t && match e.2.writes.find? fun v => !v.merged with
    | none => false
    | some v => v.home.t4.isNone && mdOf s v.home == mdOf s w.home && !sliced s v.who &&
      (decide (v.due < w.due) || (v.due == w.due && decide (e.1 < t))))

/-- The oldest write on its way from a tile has been answered. -/
def writeMerged (t : Nat) (failed : Bool) (s : State) : State :=
  updTile t (fun x => { x with writes := updFirst (fun w => !w.merged) (fun w => { w with merged := true, failed }) x.writes }) s

/-- WRITE_BACK: the oldest write on its way from a tile arrives at the home MD and is merged (R390); it waits there while the slot is read
from host memory. A refused one, and one whose MD is not on, are answered with an error (R375, R400). -/
def execWriteBack (t : Nat) (s : State) : State :=
  match (tileOf s t).writes.find? fun w => !w.merged with
  | none => s
  | some w =>
    if !kittyLive s (mdOf s w.home) then writeMerged t true s
    else if sliced s w.who || !writeTurn s t w then s
    else
      let r := memStore w.who t w.home w.off w.data s
      match r.1 with
      | .waitHost => r.2
      | .tile _ => writeMerged t false r.2 |> flitsPass (t / 16) (4 + mdOf s w.home) (dataFlits w.data.length)
      | _ => writeMerged t true r.2 |> flitsPass (t / 16) (4 + mdOf s w.home) (dataFlits w.data.length)

/-- WRITE_BACK_ACK: the oldest acknowledgement commits; the EVICTING line is reused or freed (R395). A TSP_POOL_CMD is done when no
write is on its way. -/
def execWriteBackAck (t : Nat) (s : State) : State :=
  match (tileOf s t).writes.find? fun w => w.merged with
  | none => s
  | some w =>
    let s := updTile t (fun x => { x with writes := x.writes.eraseP fun w => w.merged }) s
    let s := match w.line with
      | none => s
      | some n =>
        match (poolLines s t).find? fun l => l.line == n && l.st == 5 with
        | none => s
        | some l =>
          let s := freePoolLine t n s
          match l.next with
          | some x => installLine t (((poolFind s t x.home x.tenant).map (·.line)).getD n) x s
          | none => s
    let s := if w.failed then writeFailed t w.who s else s
    let s := acksDone t s
    if (tileOf s t).writes.isEmpty then setFlag (pgTsp t) Off.TSP_POOL_CMD 31 false s else s

/-- Content that was to enter a line as DIRTY leaves the tile as a write-back instead. -/
def sendFill (t : Nat) (x : PoolFill) (s : State) : State :=
  updTile t (fun y => { y with writes := y.writes ++ [writeOut s t x.home (.tag x.tenant) 0 x.data none] }) s
    |> bump (pgTsp t) Off.TSP_CNT_POOL_WRITEBACK 1

/-- Lines that meet a test are freed, the DIRTY ones once they are written back, and so is what would enter such a line next (R399, R407). -/
def poolInvalidate (t : Nat) (p : PoolLine → Bool) (s : State) : State :=
  let s := ((poolLines s t).filter fun l => l.st == 4 && p l).foldl (fun s l => sendWriteBack t l (some l.line) s) s
  let gone (l : PoolLine) : Option PoolFill := l.next.filter fun x => p { l with home := x.home, tenant := x.tenant, st := x.st }
  let s := ((poolLines s t).filterMap gone).foldl (fun s x => if x.st = 4 then sendFill t x s else s) s
  updPool t (List.filterMap fun l =>
    if l.st == 5 then some (if (gone l).isSome then { l with next := none } else l)
    else if !p l then some l
    else if l.st == 4 then some { l with st := 5, pin := none, next := none } else none) s

/-! ## TSP_POOL_CMD and POOL regions (R399, R407) -/

/-- A TSP_POOL_CMD write. The PF's INVALIDATE_TENANT for a tenant whose TDI is locked is refused (R483). -/
def poolCmd (w : Func) (t : Nat) (v : Word) (s : State) : State :=
  let p := pgTsp t
  let op := fieldOf v 0 3
  if w == .pf && op == 4 && tdiHeld s (fieldOf v 13 4) then bump p Off.TSP_CNT_CFG_REFUSED 1 s |> tdiRefuse
  else if flag s p Off.TSP_POOL_CMD 31 then s
  else if op = 0 ∨ 5 ≤ op then bump p Off.TSP_CNT_CFG_REFUSED 1 s
  else
    let s := wr p Off.TSP_POOL_CMD (BitVec.ofNat 32 (bitsAt v.toNat 0 17)) s
    if !bitOf v 31 then s
    else
      let s :=
        match op with
        | 1 => updPool t (List.map fun l => if l.pin == some (fieldOf v 3 10) then { l with pin := none } else l) s
        | 2 => updPool t (List.map fun l => { l with pin := none }) s
        | 3 => ((poolLines s t).filter fun l => l.st == 4).foldl (fun s l => sendWriteBack t l none s) s
            |> updPool t (List.map fun l => if l.st == 4 then { l with st := 3 } else l)
        | _ => poolInvalidate t (fun l => l.tenant == fieldOf v 13 4) s
      if 3 ≤ op ∧ !(tileOf s t).writes.isEmpty then setFlag p Off.TSP_POOL_CMD 31 true s else s

/-- The word of a TSP_POOL_CMD. -/
def poolWord (op ctx tenant : Nat) : Word := BitVec.ofNat 32 (op + 8 * (ctx % 1024) + 2 ^ 13 * (tenant % 16) + 2 ^ 31)

/-- UNPIN_CONTEXT, UNPIN_ALL, FLUSH, INVALIDATE_TENANT: TSP_POOL_CMD writes. -/
def execUnpinContext (w : Func) (t ctx : Nat) (s : State) : State :=
  access w (pgTsp t) Off.TSP_POOL_CMD (poolWord 1 ctx 0) (poolCmd w t (poolWord 1 ctx 0)) s
def execUnpinAll (w : Func) (t : Nat) (s : State) : State :=
  access w (pgTsp t) Off.TSP_POOL_CMD (poolWord 2 0 0) (poolCmd w t (poolWord 2 0 0)) s
def execFlush (w : Func) (t : Nat) (s : State) : State :=
  access w (pgTsp t) Off.TSP_POOL_CMD (poolWord 3 0 0) (poolCmd w t (poolWord 3 0 0)) s
def execInvalidateTenant (w : Func) (t tenant : Nat) (s : State) : State :=
  access w (pgTsp t) Off.TSP_POOL_CMD (poolWord 4 0 tenant) (poolCmd w t (poolWord 4 0 tenant)) s

/-- Do two entries name a common unit? -/
def entriesMeet (e f : Nat × Nat) : Bool :=
  entrySize f != 0 && decide (entryBase e < entryBase f + entrySize f) && decide (entryBase f < entryBase e + entrySize e)

/-- Would an entry with these words clash with another valid entry of the tile, or with one that is to change (R262, R399), or pass its end? -/
def entryClash (s : State) (t k : Nat) (w0 : Nat) : Bool :=
  let e : Nat × Nat := (w0, 0)
  let later := (tileOf s t).poolChange.filterMap fun c =>
    if c.1 % 8 = 0 ∧ (c.1 - 0x100) / 8 ≠ k then some (bitsAt c.2.toNat 0 24, 0) else none
  entrySize e != 0 && (decide (3072 < entryBase e + entrySize e) || later.any (entriesMeet e) ||
    (List.range 16).any fun j => j != k && entriesMeet e ((tileRegions s t).getD j (0, 0)))

/-- A write to a region entry: refused when locked or clashing; a change of a POOL entry waits for its flush (R237, R262, R399). -/
def tileRegionWrite (t off : Nat) (v : Word) (s : State) : State :=
  let p := pgTsp t
  let k := (off - 0x100) / 8
  let e := (tileRegions s t).getD k (0, 0)
  if entryLocked e then s
  else if off % 8 = 0 ∧ entryClash s t k (bitsAt v.toNat 0 24) then bump p Off.TSP_CNT_CFG_REFUSED 1 s
  else if entryPool e ∧ entrySize e ≠ 0 then
    updTile t (fun x => { x with poolChange := x.poolChange ++ [(off, v)] }) s |> poolInvalidate t (fun l => entryHas e l.line)
  else farKeep t s |> plainWrite p off v

/-- POOL_FLUSH_DONE: the flush that a POOL region change forced has ended and the entry changes (R399). -/
def execPoolFlushDone (t : Nat) (s : State) : State :=
  match (tileOf s t).poolChange with
  | [] => s
  | (off, v) :: rest =>
    let e := (tileRegions s t).getD ((off - 0x100) / 8) (0, 0)
    if !tileLive s t || (poolLines s t).any fun l => l.st == 5 && entryHas e l.line then s
    else
      let s := updTile t (fun x => { x with poolChange := rest }) s
      if off % 8 = 0 ∧ entryClash s t ((off - 0x100) / 8) (bitsAt v.toNat 0 24) then bump (pgTsp t) Off.TSP_CNT_CFG_REFUSED 1 s
      else farKeep t s |> plainWrite (pgTsp t) off v

/-- A context's pins are removed (R399). -/
def unpinContext (c : Nat) (s : State) : State :=
  { s with tiles := s.tiles.map fun e =>
      (e.1, { e.2 with pool := e.2.pool.map fun l => if l.pin == some c then { l with pin := none } else l }) }

end Sys2Proof.Machine
end

