-- ==== Sys2Proof/Machine/Generators.lean ====
section
/-! DEFINITION. The address generators of a tile: its own SRAM, other tiles, home slots through the T1 pool, token records (R240,
R249, R357, R393, R397). -/
namespace Sys2Proof.Machine

/-! ## Walks -/

/-- Is a walk within R240? -/
def walkOk (w : GenWalk) : Bool :=
  decide (w.dims.length ≤ 4) && (w.dims.all fun d => decide (1 ≤ d.1) && decide (d.1 ≤ 65535)) && [1, 2, 4, 8].contains w.nibbles

/-- The innermost dimension: (byte offset, high nibble); 4-bit elements are packed two to a byte (R267). -/
def walkInner (nibbles : Nat) (d : Nat × Int) : List (Int × Bool) :=
  (List.range d.1).map fun (i : Nat) => if nibbles = 1 then ((i / 2 : Nat) * d.2, i % 2 == 1) else ((i : Int) * d.2, false)

/-- Every position of a walk, the innermost dimension fastest. -/
def walkSpots (w : GenWalk) : List (Int × Bool) :=
  match w.dims with
  | [] => [((w.base : Int), false)]
  | d :: ds =>
    ds.foldl (fun acc e => (List.range e.1).flatMap fun (i : Nat) => acc.map fun p => (p.1 + (i : Int) * e.2, p.2))
      ((walkInner w.nibbles d).map fun p => (p.1 + (w.base : Int), p.2))

/-- Bytes of an element in memory. -/
def walkBytes (w : GenWalk) : Nat := Nat.max 1 (w.nibbles / 2)

/-- The number that an element's bytes spell at a position. -/
def spotValue (w : GenWalk) (high : Bool) (bs : List Byte) : Nat :=
  if w.nibbles = 1 then bitsAt (ofLeBytes bs) (if high then 4 else 0) 4 else ofLeBytes bs

/-- The bytes of an element after a write. -/
def spotBytes (w : GenWalk) (high : Bool) (old : List Byte) (v : Nat) : List Byte :=
  if w.nibbles = 1 then leBytes 1 (putAt (ofLeBytes old) (if high then 4 else 0) 4 v) else leBytes (walkBytes w) v

/-- Every position of a walk lies in SRAM that the context may access. -/
def spotsOk (s : State) (regions : List (Nat × Nat)) (c : Nat) (write : Bool) (w : GenWalk) : Bool :=
  (walkSpots w).all fun p => decide (0 ≤ p.1) && sramOk s regions c write p.1.toNat (walkBytes w)

/-- Read the elements of a walk from a tile's SRAM. -/
def walkRead (s : State) (t : Nat) (w : GenWalk) : List Nat :=
  (walkSpots w).map fun p => spotValue w p.2 (sramRead s t p.1.toNat (walkBytes w))

/-- Write values to the elements of a walk in a tile's SRAM. -/
def walkWrite (t : Nat) (w : GenWalk) (vs : List Nat) (s : State) : State :=
  ((walkSpots w).zip vs).foldl (fun s e =>
    let a := e.1.1.toNat
    sramWrite t a (spotBytes w e.1.2 (sramRead s t a (walkBytes w)) e.2) s) s

/-- n unstated 32-bit values. -/
def freshList : Nat → State → List Nat × State
  | 0, s => ([], s)
  | n + 1, s =>
    let f := fresh s
    let r := freshList n f.2
    (f.1 % 2 ^ 32 :: r.1, r.2)

/-- The values that a write takes from the registers, from one on. Where the walk goes on past the last lane of the last register the spec
states no value (log 33). -/
def walkLanes (t reg : Nat) (w : GenWalk) (s : State) : List Nat × State :=
  let n := (walkSpots w).length
  let have_ := Nat.min n (8192 - 256 * reg)
  let f := freshList (n - have_) s
  (lanesFrom s t (256 * reg) have_ ++ f.1, f.2)

/-- The values of a read go to the registers from one on; those past the last lane of the last register have no place (log 33). -/
def putLanes (t reg : Nat) (vs : List Nat) (s : State) : State := setLanes t (256 * reg) (vs.take (8192 - 256 * reg)) s

/-! ## Own SRAM and other tiles -/

/-- The reads of a walk go through the read port (R235). -/
def walkPort (t : Nat) (w : GenWalk) (s : State) : State :=
  (walkSpots w).foldl (fun s p => portRead t 2 p.1.toNat (walkBytes w) s) s

def loadOwn (t reg : Nat) (w : GenWalk) (k : Kernel) (s : State) : Ran :=
  if !spotsOk s k.regions k.launch.ctx false w then ⟨1, s⟩ else ⟨0, putLanes t reg (walkRead s t w) (walkPort t w s)⟩

def storeOwn (t : Nat) (w : GenWalk) (vs : List Nat) (k : Kernel) (s : State) : Ran :=
  if !spotsOk s k.regions k.launch.ctx true w then ⟨1, s⟩ else ⟨0, walkWrite t w vs s⟩

/-- May a kernel access a walk of another tile? It is checked there, against the entries in force for the kernel (R237); a fenced or unpowered
tile answers with an error. The answer is what the access does. -/
def farAccess (u : Nat) (write : Bool) (w : GenWalk) (k : Kernel) (s : State) (f : State → State) : Ran :=
  if !tileLive s u || !admits s u k.launch.ctx then ⟨4, s⟩
  else if !spotsOk s (farRegions s k u) k.launch.ctx write w then
    ⟨4, s |> bump (pgTsp u) Off.TSP_CNT_REGION_FAULT 1 |> raise (pgTsp u) Evt.TSP_REGION_FAULT⟩
  else ⟨0, f s⟩

/-- Bytes of a walk. -/
def walkSize (w : GenWalk) : Nat := ceilDiv ((walkSpots w).length * w.nibbles) 2

def loadRemote (t u reg : Nat) (w : GenWalk) (k : Kernel) (s : State) : Ran :=
  farAccess u false w k s fun s =>
    putLanes t reg (walkRead s u w) (walkPort u w s) |> bump (pgTsp t) Off.TSP_CNT_REMOTE_RD 1
      |> flitsPass (u / 16) (t / 16) (dataFlits (walkSize w))

def storeRemote (t u : Nat) (w : GenWalk) (vs : List Nat) (k : Kernel) (s : State) : Ran :=
  farAccess u true w k s fun s =>
    walkWrite u w vs s |> bump (pgTsp t) Off.TSP_CNT_REMOTE_WR 1 |> flitsPass (t / 16) (u / 16) (dataFlits (walkSize w))

/-! ## Home slots (R393, R397) -/

/-- Are all positions inside the slot? -/
def inSlot (w : GenWalk) : Bool := (walkSpots w).all fun p => decide (0 ≤ p.1) && decide (p.1.toNat + walkBytes w ≤ 4096)

/-- Elements of a walk in the bytes of a tile. -/
def bytesWalk (bs : List Byte) (w : GenWalk) : List Nat :=
  (walkSpots w).map fun p => spotValue w p.2 ((bs.drop p.1.toNat).take (walkBytes w))

/-- The bytes of a tile after a write of a walk. -/
def bytesPut (bs : List Byte) (w : GenWalk) (vs : List Nat) : List Byte :=
  ((walkSpots w).zip vs).foldl (fun bs e =>
    let a := e.1.1.toNat
    splice bs a (spotBytes w e.1.2 ((bs.drop a).take (walkBytes w)) e.2)) bs

/-- The read of a slot in host memory leaves once the context's tenant is covered (R21, R475); until then the instruction asks in vain. -/
def homeAsk (c : Nat) (h : Home) (s : State) : State :=
  if hostOpen s (ctxTenant s c) then emit (.hostRead (ctxTenant s c) (h.addr / 4096 * 4096) 4096) s else s

/-- A read of the slot through the kitty (R393): status and bytes. -/
def homeFetch (t : Nat) (h : Home) (host : Option (List Byte)) (k : Kernel) (s : State) : Nat × List Byte × State :=
  if !kittyLive s (mdOf s h) then (4, [], s)
  else if sliced s (.ctx k.launch.ctx) || writesDue s h then (9, [], s)
  else
    let r := memFetch (.ctx k.launch.ctx) t h host s
    match r.1 with
    | .tile bs => (0, bs, flitsPass (4 + mdOf s h) (t / 16) (dataFlits 4096) r.2)
    | .waitHost => (9, [], homeAsk k.launch.ctx h r.2)
    | _ => (4, [], r.2)

def loadHome (t : Nat) (h : Home) (host : Option (List Byte)) (reg : Nat) (w : GenWalk) (k : Kernel) (s : State) : Ran :=
  let c := k.launch.ctx
  match poolFind s t h (ctxTenant s c), (poolNext s t h (ctxTenant s c)).bind (·.next) with
  | some l, _ =>
    let s := updPoolLine t l.line (fun l => { l with age := beatNo s }) s |> bump (pgTsp t) Off.TSP_CNT_POOL_HIT 1
    let s := if l.st = 2 then updKernel t (fun k => { k with held := k.held ++ [(l.line, l.filled)] }) s else s
    ⟨0, putLanes t reg (bytesWalk (lineData s t l.line) w) s⟩
  -- the content stands at the port until the line that it takes is free (log 39)
  | none, some x => ⟨0, putLanes t reg (bytesWalk x.data w) (bump (pgTsp t) Off.TSP_CNT_POOL_HIT 1 s)⟩
  | none, none =>
    let r := homeFetch t h host k (bump (pgTsp t) Off.TSP_CNT_POOL_MISS 1 s)
    if r.1 = 0 then
      ⟨0, (poolPut t ⟨h, ctxTenant s c, c, false, 3, r.2.1⟩ r.2.2).2 |> putLanes t reg (bytesWalk r.2.1 w)⟩
    else ⟨r.1, if r.1 = 9 then (if h.t4.isSome && !sliced s (.ctx c) then homeAsk c h s else s) else r.2.2⟩

/-- Runs of consecutive positions of a write that goes through to the kitty. -/
def writeRuns (w : GenWalk) (vs : List Nat) : List (Nat × List Byte) :=
  ((walkSpots w).zip vs).foldl (fun (acc : List (Nat × List Byte)) e =>
    let a := e.1.1.toNat
    let bs := spotBytes w e.1.2 [] e.2
    match acc.getLast? with
    | some (a0, b0) => if a0 + b0.length = a then acc.dropLast ++ [(a0, b0 ++ bs)] else acc ++ [(a, bs)]
    | none => [(a, bs)]) []

/-- A write of a home slot (R397). One that hits, or that takes a line whole, asks no home MD; one that finds no line leaves the tile for the
home MD, and is done when it is acknowledged (R249). -/
def storeHome (t : Nat) (h : Home) (host : Option (List Byte)) (w : GenWalk) (vs : List Nat) (k : Kernel) (s : State) : Ran :=
  let c := k.launch.ctx
  match poolFind s t h (ctxTenant s c), poolNext s t h (ctxTenant s c) with
  | some l, _ =>
    ⟨0, sramWrite t (4096 * l.line) (bytesPut (lineData s t l.line) w vs) s
      |> updPoolLine t l.line (fun l => { l with st := 4, age := beatNo s })⟩
  | none, some l =>
    ⟨0, updPoolLine t l.line (fun l => { l with next := l.next.map fun x => { x with st := 4, data := bytesPut x.data w vs } }) s⟩
  | none, none =>
    if (chooseLine s t).isNone && !memAllows s (.ctx c) h true then ⟨4, memDenied (.ctx c) h s⟩
    else if (chooseLine s t).isNone && w.nibbles == 1 then
      -- half a byte cannot be written alone: the tile is read and written whole
      let r := homeFetch t h host k s
      if r.1 = 0 then
        ⟨7, updTile t (fun x => { x with writes := x.writes ++ [writeOut s t h (.ctx c) 0 (bytesPut r.2.1 w vs) none] }) r.2.2
          |> bump (pgTsp t) Off.TSP_CNT_POOL_SPILL 1⟩
      else ⟨r.1, r.2.2⟩
    else if (chooseLine s t).isNone then
      let ws := (writeRuns w vs).map fun r => writeOut s t h (.ctx c) r.1 r.2 none
      ⟨7, updTile t (fun x => { x with writes := x.writes ++ ws }) s |> bump (pgTsp t) Off.TSP_CNT_POOL_SPILL 1⟩
    else
      let whole := decide ((walkSpots w).length * walkBytes w = 4096) && w.nibbles != 1 && (writeRuns w vs).length == 1
      let r := if whole then (0, List.replicate 4096 0, s) else homeFetch t h host k s
      if r.1 = 0 then ⟨0, (poolPut t ⟨h, ctxTenant s c, c, false, 4, bytesPut r.2.1 w vs⟩ r.2.2).2⟩
      else ⟨r.1, r.2.2⟩

/-! ## The instructions -/

/-- The bytes that values make on their way to a stream queue: elements one after another, of 4 bits the low one first (R240). -/
def streamBytes (w : GenWalk) (vs : List Nat) : List Byte :=
  let n := ceilDiv (vs.length * w.nibbles) 2
  let packed := vs.foldr (fun v acc => bitsAt v 0 (4 * w.nibbles) + 2 ^ (4 * w.nibbles) * acc) 0
  leBytes n packed

/-- The write generator writes values to a target of its tile (R240). A token record of 16 bytes is held until the kernel ends (R357). -/
def genStore (t : Nat) (target : GenTarget) (host : Option (List Byte)) (w : GenWalk) (vs : List Nat) (k : Kernel) (s : State) : Ran :=
  if !walkOk w then ⟨2, s⟩
  else match target with
  | .own => storeOwn t w vs k s
  | .home h => if !inSlot w then ⟨2, s⟩ else storeHome t h host w vs k s
  | .tokens q =>
    let bs := vs.flatMap fun v => leBytes (walkBytes w) v
    if w.nibbles == 1 || bs.length != 16 then ⟨2, s⟩
    else ⟨0, updKernel t (fun k => { k with tokens := k.tokens ++ [(q, bs)] }) s⟩
  | .stream q => ⟨0, updTile t (fun x => { x with outs := x.outs ++ [(q, k.launch.ctx, streamBytes w vs)] }) s⟩

/-- A read generator reads a target of its tile (R240). -/
def genLoad (t : Nat) (target : GenTarget) (host : Option (List Byte)) (reg : Nat) (w : GenWalk) (k : Kernel) (s : State) : Ran :=
  if !walkOk w then ⟨2, s⟩
  else match target with
  | .own => loadOwn t reg w k s
  | .home h => if !inSlot w then ⟨2, s⟩ else loadHome t h host reg w k s
  | .tokens _ => ⟨2, s⟩
  | .stream _ => ⟨2, s⟩

/-- A generator instruction (R240). -/
def genRun (t : Nat) (target : GenTarget) (host : Option (List Byte)) (o : GenOp) (k : Kernel) (s : State) : Ran :=
  if o.write then
    let l := walkLanes t o.reg o.walk s
    genStore t target host o.walk l.1 k l.2
  else genLoad t target host o.reg o.walk k s

/-- The vector engine's results go to registers, where they must have room, or through the write generator (R238). Results that a walk has no
place for are dropped, and places that have no result stay (log 33). -/
def laneStore (t : Nat) (dst : LaneDest) (vs : List Nat) (k : Kernel) (s : State) : Ran :=
  match dst with
  | .reg r => if 8192 < 256 * r + vs.length then ⟨2, s⟩ else ⟨0, setLanes t (256 * r) vs s⟩
  | .gen target w => genStore t target none w vs k s
  | .remote u w => if walkOk w && decide (u < 64) then storeRemote t u w vs k s else ⟨2, s⟩

/-- Do the vector engine's results leave the registers? -/
def destWrites (d : LaneDest) : Bool :=
  match d with
  | .reg _ => false
  | _ => true

/-- Generators never stand in a wait of their own. -/
def anyWait (_ : TileWait) : Bool := true

/-- The unit of a generator instruction. -/
def genUnit (i : Issue) (write : Bool) : Nat := if write then unitWrite else readUnit i

/-- ADDRESS_GENERATOR_ACCESS: a generator reads or writes the tile's own SRAM, a home slot, or the token queue; for a home slot in
host memory with the host's answer once it is there. -/
def execAddressGeneratorAccess (t : Nat) (i : Issue) (target : GenTarget) (host : Option (List Byte)) (o : GenOp) (s : State) : State :=
  issue t { unitEntry (genUnit i o.write) i with writes := o.write } i anyWait (genRun t target host o) s

/-- REMOTE_READ: a read generator reads another tile's SRAM (R240). -/
def execRemoteRead (t u : Nat) (i : Issue) (walk : GenWalk) (reg : Nat) (s : State) : State :=
  issue t (unitEntry (readUnit i) i) i anyWait (fun k s => if walkOk walk && decide (u < 64) then loadRemote t u reg walk k s else ⟨2, s⟩) s

/-- REMOTE_WRITE: the write generator writes another tile's SRAM (R240). -/
def execRemoteWrite (t u : Nat) (i : Issue) (walk : GenWalk) (reg : Nat) (s : State) : State :=
  issue t { unitEntry unitWrite i with writes := true } i anyWait (fun k s =>
    if walkOk walk && decide (u < 64) then
      let l := walkLanes t reg walk s
      storeRemote t u walk l.1 k l.2
    else ⟨2, s⟩) s

/-! ## Halo counters (R248–R250) -/

/-- The sync unit executes in order: it is not free while it waits on a counter. -/
def syncFree (w : TileWait) : Bool :=
  match w with
  | .counter _ _ _ => false
  | _ => true

def haloValue (s : State) (t n : Nat) : Nat := (rd s (pgTsp t) (Off.TSP_HALO + 4 * n)).toNat

/-- Does counter n of a tile take SET and POST from a context? -/
def haloOwner (s : State) (t n c : Nat) : Bool :=
  flag s (pgTsp t) (Off.TSP_HALO_OWNER + 4 * n) 31 && fld s (pgTsp t) (Off.TSP_HALO_OWNER + 4 * n) 0 10 == c

def haloDrop (t : Nat) (s : State) : State := s |> bump (pgTsp t) Off.TSP_CNT_HALO_DROP 1 |> raise (pgTsp t) Evt.TSP_HALO_DROP

/-- A counter wait whose value has been reached resumes. -/
def haloResume (t : Nat) (s : State) : State :=
  let met (w : TileWait) : Bool :=
    match w with
    | .counter n v _ => decide (v ≤ haloValue s t n)
    | _ => false
  ((tileOf s t).waits.filter met).foldl (fun s w =>
    match w with
    | .counter _ _ i => ranEnd t unitSync i ⟨0, s⟩
    | _ => s) (updTile t (fun x => { x with waits := x.waits.filter fun w => !met w }) s)

/-- SET on a counter of the tile. -/
def haloSet (t n v c : Nat) (s : State) : State :=
  if haloOwner s t n c then wr (pgTsp t) (Off.TSP_HALO + 4 * n) (BitVec.ofNat 32 v) s |> haloResume t else haloDrop t s

/-- A POST that commits at its counter. -/
def haloAdd (p : HaloPost) (s : State) : State :=
  if haloOwner s p.target p.ctr p.ctx then
    wr (pgTsp p.target) (Off.TSP_HALO + 4 * p.ctr) (BitVec.ofNat 32 (satNat 0xFFFFFFFF (haloValue s p.target p.ctr + p.v))) s
      |> haloResume p.target
  else haloDrop p.target s

/-- A POST is sent. -/
def haloSend (t : Nat) (p : HaloPost) (s : State) : State := updTile t (fun x => { x with posts := x.posts ++ [p] }) s

/-- The beats that a POST takes from tile t to tile u: two into the network, four for each die link and two out of it (R35, R251); to its own
tile it crosses no island. -/
def postBeats (t u : Nat) : Nat := if t = u then 0 else 4 + 4 * (dieRoute (islandDie t) (islandDie u)).length

/-- A POST is sent in this beat: it is due that many beats later (R35). -/
def haloPostTo (t u n v c : Nat) (s : State) : State := haloSend t ⟨u, n, v, c, beatNo s + postBeats t u⟩ s

/-- POST: the sync unit posts to a counter of any tile once every earlier write of its kernel has been sent; the post is on its way until it
commits (R249). -/
def execPost (t : Nat) (i : Issue) (u n v : Nat) (s : State) : State :=
  issue t { unitEntry unitSync i with posts := true } i syncFree (fun k s =>
    if 64 ≤ n ∨ 64 ≤ u ∨ v = 0 ∨ 65535 < v then ⟨2, s⟩ else ⟨0, haloPostTo t u n v k.launch.ctx s⟩) s

/-- WAIT: the sync unit stalls until a counter of its tile is at least v. -/
def execWait (t : Nat) (i : Issue) (n v : Nat) (s : State) : State :=
  issue t (unitEntry unitSync i) i syncFree (fun _ s =>
    if 64 ≤ n then ⟨2, s⟩
    else if v ≤ haloValue s t n then ⟨0, s⟩
    else ⟨8, updTile t (fun x => { x with waits := x.waits ++ [.counter n v i] }) s⟩) s

end Sys2Proof.Machine
end

