-- ==== Sys2Proof/Machine/Engines.lean ====
section
/-! DEFINITION. The matrix array and the vector engine: matrix instructions, lane operations, Requantise, Quantise (R230–R234,
R238, R239, R268–R283). -/
namespace Sys2Proof.Machine

/-! ## The matrix array -/

/-- Is an operand pair in R230? -/
def pairOk (w a : Elem) : Bool :=
  match w, a with
  | .pip4, .mxint8 => true | .pip4, .int8 => true | .pip4, .pip4 => true | .pip4, .int4 => true
  | .int4, .mxint8 => true | .int4, .int8 => true | .int4, .pip4 => true | .int4, .int4 => true
  | .mxint8, .mxint8 => true | .mxint8, .int8 => true | .int8, .mxint8 => true | .int8, .int8 => true
  | .e2m1, .e2m1 => true | .e2m1, .e4m3 => true | .e2m1, .e5m2 => true
  | .e4m3, .e4m3 => true | .e4m3, .e5m2 => true | .e5m2, .e4m3 => true | .e5m2, .e5m2 => true
  | .bf16, .bf16 => true
  | _, _ => false

/-- A half-block as the array takes it: 32 weight codes and 32 activation codes with their scale bytes, 127 where a format has no
block scale. -/
structure Half where
  w : List Nat
  sW : Nat
  a : List Nat
  sA : Nat

/-- A half-block added to an integer accumulator (R232, R268): the sum and whether it saturated. -/
def halfInt (fw fa : Elem) (E : Int) (acc : Int) (h : Half) : Int × Bool :=
  if h.sW = 0xFF ∨ h.sA = 0xFF then (-2147483648, true)
  else
    let p := (h.w.zip h.a).foldl (fun (n : Int) e => n + fw.code e.1 * fa.code e.2) 0
    let x := acc + shiftRne p ((h.sW : Int) + h.sA - 254 - E)
    (sat32 x, over32 x)

/-- A half-block added to an FP32 accumulator (R233). -/
def halfFloat (fw fa : Elem) (acc : Nat) (h : Half) : Nat :=
  let p :=
    if h.sW = 0xFF ∨ h.sA = 0xFF then Fv.nan false
    else ((h.w.zip h.a).foldl (fun n e => n.add ((fw.value e.1).mul (fa.value e.2))) (Fv.fin false 0 0)).scale
      ((h.sW : Int) + h.sA - 254)
  f32 ((ofF32 acc).add (ofF32 (f32 p)))

/-- Half-blocks added to an accumulator word, with the number of saturations. -/
def accHalves (fw fa : Elem) (E : Int) (acc : Nat) (hs : List Half) : Nat × Nat :=
  if fw.isInt then
    let r := hs.foldl (fun (r : Int × Nat) h => let x := halfInt fw fa E r.1 h; (x.1, r.2 + ofBool x.2)) (signed 32 acc, 0)
    (wrap 32 r.1, r.2)
  else (hs.foldl (fun a h => halfFloat fw fa a h) acc, 0)

/-- The scale byte of a plane, or 127 for a format without one (R232, R278). -/
def planeScale (f : Elem) (plane : List Byte) (i : Nat) : Nat := if f.blocked then (plane.getD i 0).toNat else 127

/-- Bytes of a 64 × 64 weight block (R270). -/
def blockBytes (f : Elem) : Nat := 512 * f.bits

/-- Half h of column j of a block against half h of an activation block. -/
def mkHalf (fw fa : Elem) (wp ws ap as_ : List Byte) (j h aOff : Nat) : Half :=
  { w := (List.range 32).map fun i => fw.get wp (64 * j + 32 * h + i)
    sW := planeScale fw ws (2 * j + h)
    a := (List.range 32).map fun i => fa.get ap (aOff + 32 * h + i)
    sA := planeScale fa as_ (aOff / 32 + h) }

/-- Accumulators change; saturations set the sticky flags, the status bit, the event and the counter (R232). -/
def putAcc (t : Nat) (rs : List (Nat × Nat × Nat)) (s : State) : State :=
  let sats := rs.foldl (fun n r => n + r.2.2) 0
  let s := updTile t (fun x =>
    { x with acc := rs.foldl (fun a r => sset 0 a r.1 r.2.1) x.acc
             sticky := rs.foldl (fun l r => if r.2.2 = 0 ∨ l.contains r.1 then l else l ++ [r.1]) x.sticky }) s
    |> markActive t 0
  if sats = 0 then s
  else
    updKernel t (fun k => { k with accSat := true }) s |> setFlag (pgMx t) Off.MX_ACC_STATUS 0 true
      |> raise (pgMx t) Evt.TILE_ACC_SAT |> bump (pgMx t) Off.MX_CNT_ACC_SAT sats

/-- The accumulator exponents of the 64 channels of an integer group. -/
def groupExps (t records : Nat) (isInt : Bool) (s : State) : List Int × State :=
  if !isInt then ([], s)
  else (List.range 64).foldl (fun (r : List Int × State) j =>
    let c := readRecord t (records + 8 * j) r.2
    (r.1 ++ [c.1.exp], c.2)) ([], s)

/-- A finished group drains: channel j of stream v goes to lane 64·v + j from a register on, and its accumulators are free for the
next group. -/
def drainGroup (t batch r : Nat) (s : State) : State :=
  let vs := (List.range batch).flatMap fun v => (List.range 64).map fun j => sget 0 (tileOf s t).acc (64 * j + v)
  setLanes t (256 * r) vs s
    |> updTile t (fun x => { x with acc := x.acc.filter fun e => decide (batch ≤ e.1 % 64)
                                    sticky := x.sticky.filter fun e => decide (batch ≤ e % 64) })

def matrixRun (t : Nat) (o : MatrixOp) (k : Kernel) (s : State) : Ran :=
  let bb := blockBytes o.wFmt
  let room := match o.drain with
    | none => true
    | some r => decide (256 * r + 64 * o.batch ≤ 8192)
  if !pairOk o.wFmt o.aFmt || o.batch == 0 || decide (64 < o.batch) || o.blocks == 0 || !room then ⟨2, s⟩
  else if !(ownOk s k false o.wBase (bb * o.blocks) && (!o.wFmt.blocked || ownOk s k false o.wScale (128 * o.blocks)) &&
      (!o.wFmt.isInt || ownOk s k false o.records 512) &&
      (List.range o.batch).all fun v =>
        ownOk s k false (o.aBase + v * o.aPitch) (o.aFmt.bytes (64 * o.blocks)) &&
          (!o.aFmt.blocked || ownOk s k false (o.aScale + v * o.sPitch) (2 * o.blocks))) then ⟨1, s⟩
  else
    let e := groupExps t o.records o.wFmt.isInt s
    let s := (List.range o.batch).foldl (fun s v => portRead t 2 (o.aBase + v * o.aPitch) (o.aFmt.bytes (64 * o.blocks)) s
        |> portRead t 2 (o.aScale + v * o.sPitch) (if o.aFmt.blocked then 2 * o.blocks else 0))
      (e.2 |> portRead t 0 o.wBase (bb * o.blocks) |> portRead t 0 o.wScale (if o.wFmt.blocked then 128 * o.blocks else 0))
    let halves (wp ws ap as_ : List (List Byte)) (j v : Nat) : List Half :=
      (List.range o.blocks).flatMap fun b =>
        [mkHalf o.wFmt o.aFmt (wp.getD b []) (ws.getD b []) (ap.getD v []) (as_.getD v []) j 0 (64 * b),
         mkHalf o.wFmt o.aFmt (wp.getD b []) (ws.getD b []) (ap.getD v []) (as_.getD v []) j 1 (64 * b)]
    let wp := (List.range o.blocks).map fun b => sramRead s t (o.wBase + bb * b) bb
    let ws := (List.range o.blocks).map fun b => sramRead s t (o.wScale + 128 * b) 128
    let ap := (List.range o.batch).map fun v => sramRead s t (o.aBase + v * o.aPitch) (o.aFmt.bytes (64 * o.blocks))
    let as_ := (List.range o.batch).map fun v => sramRead s t (o.aScale + v * o.sPitch) (2 * o.blocks)
    let rs := (List.range 64).flatMap fun j => (List.range o.batch).map fun v =>
      (64 * j + v, accHalves o.wFmt o.aFmt (e.1.getD j 0) (sget 0 (tileOf s t).acc (64 * j + v)) (halves wp ws ap as_ j v))
    let s := putAcc t rs s
    match o.drain with
    | none => ⟨0, s⟩
    | some r => ⟨0, drainGroup t o.batch r s⟩

/-- A unit is free of a wait that is not its own: a window operator that waits for a halo row holds the matrix array or the vector engine,
whichever runs it (R246, R325). -/
def unitFree (u : Nat) (w : TileWait) : Bool :=
  match w with
  | .window _ _ v _ _ => v != u
  | _ => true

/-- MATRIX_INSTRUCTION: weight blocks are applied to the streams' activation vectors, and a finished group drains (R230–R234). -/
def execMatrixInstruction (t : Nat) (i : Issue) (o : MatrixOp) (s : State) : State :=
  issue t (unitEntry unitMatrix i) i (unitFree unitMatrix) (matrixRun t o) s

/-! ## The vector engine -/

/-- What the vector engine holds of an instruction. -/
def vectorEntry (i : Issue) (writes : Bool) : Queued := { unitEntry unitVector i with writes }

/-- Do the results of a Quantise leave the registers? -/
def quantWrites (d : QuantDest) : Bool :=
  match d with
  | .regs _ _ => false
  | _ => true

/-- A lane's result: its word, or none where the spec states no result; saturated; not a number. -/
structure Lane where
  val : Option Nat
  sat : Bool := false
  nan : Bool := false

def laneInt (x : Int) : Lane := { val := some (wrap 32 (sat32 x)), sat := over32 x }
def laneFloat (v : Fv) : Lane := { val := some (f32 v), nan := v.isNan }
def laneWord (n : Nat) : Lane := { val := some n }

/-- One lane of an elementwise operation (R238, R239, R281). -/
def laneFn (fn : LaneFn) (float : Bool) (table : Nat → Pwl) (a b c : Nat) : Lane :=
  let x := signed 32 a
  let y := signed 32 b
  let fa := ofF32 a
  let fb := ofF32 b
  match fn with
  | .add => if float then laneFloat (fa.add fb) else laneInt (x + y)
  | .sub => if float then laneFloat (fa.add fb.neg) else laneInt (x - y)
  | .mul => if float then laneFloat (fa.mul fb) else laneInt (x * y)
  | .min =>
    if float then (if fa.isNan || fb.isNan then laneFloat (.nan false) else laneWord (if fb.lt fa then b else a))
    else laneInt (min x y)
  | .max =>
    if float then (if fa.isNan || fb.isNan then laneFloat (.nan false) else laneWord (if fa.lt fb then b else a))
    else laneInt (max x y)
  | .wrapAdd => laneWord (wrap 32 (x + y))
  | .shiftLeft => if 32 ≤ b then { val := none } else laneWord (a * 2 ^ b % 2 ^ 32)
  | .shiftRight => if 32 ≤ b then { val := none } else laneWord (wrap 32 (x / (2 ^ b : Nat)))
  | .shiftRightLogical => if 32 ≤ b then { val := none } else laneWord (a / 2 ^ b)
  | .less => laneWord (ofBool (if float then fa.lt fb else decide (x < y)))
  | .equal => laneWord (ofBool (if float then !fa.isNan && !fb.isNan && !fa.lt fb && !fb.lt fa else x == y))
  | .select => laneWord (if c = 0 then b else a)
  | .toFloat => laneFloat (fvOf x 0)
  | .toInt => { val := some (wrap 32 fa.toInt32), sat := fa.overInt32, nan := fa.isNan }
  | .fromBf16 => laneFloat (Elem.bf16.value (a % 65536))
  | .toBf16 =>
    if fa.isNan then { val := some 0x7FC0, nan := true } else laneWord ((rneShift (a : Int) 16).toNat % 65536)
  | .table k =>
    let p := table k
    if float then
      let z := (fa.scale 12).toInt32
      { laneFloat (fvOf (p.eval z) (-(p.outFrac : Int))) with sat := over32 (p.evalRaw z) }
    else laneInt (p.evalRaw x)
  | .reciprocal => laneFloat (ofF32 (ulpNear (Config.recipUlp (BitVec.ofNat 32 a)) (recipExact a)))
  | .recipSqrt => laneFloat (ofF32 (ulpNear (Config.recipSqrtUlp (BitVec.ofNat 32 a)) (rsqrtExact a)))
  | _ => laneWord a

/-- The fixed tree of a lane reduction: lane 2k with lane 2k + 1, level by level (R239). -/
def reduceTree (f : Nat → Nat → Lane) : Nat → List Nat → Nat × Nat × Nat → Nat × Nat × Nat
  | 0, vs, n => (vs.headD 0, n.2.1, n.2.2)
  | d + 1, vs, n =>
    let ls := (List.range (vs.length / 2)).map fun k => f (vs.getD (2 * k) 0) (vs.getD (2 * k + 1) 0)
    reduceTree f d (ls.map fun l => l.val.getD 0)
      (0, n.2.1 + (ls.filter (·.sat)).length, n.2.2 + (ls.filter (·.nan)).length)

/-- An unstated lane result takes a free value. -/
def fillLanes (ls : List Lane) (s : State) : List Nat × State :=
  ls.foldl (fun (r : List Nat × State) l =>
    match l.val with
    | some v => (r.1 ++ [v], r.2)
    | none => let f := fresh r.2; (r.1 ++ [f.1 % 2 ^ 32], f.2)) ([], s)

/-- Saturated and not-a-number lane results are counted (R261). -/
def countLanes (t sats nans : Nat) (s : State) : State :=
  let s := bump (pgVe t) Off.VE_CNT_NAN nans (markActive t 1 s)
  if sats = 0 then s else s |> bump (pgVe t) Off.VE_CNT_SAT sats |> raise (pgVe t) Evt.VE_SAT

/-- A loadable table of the vector engine (R261, R298): its words at 0x800 + 0x200 × image, which hold a basic curve until they are
written. -/
def veImage (s : State) (t k : Nat) : List Byte :=
  let basic := pwlWords (basicCurve (Config.vectorCurve k).toNat)
  (List.range 128).flatMap fun i =>
    leBytes 4 ((((tileOf s t).tables.find? fun e => e.1 == 128 * k + i).map fun e => e.2.toNat).getD (basic.getD i 0))

/-- The table a function operation names: basic curves 0–3, images 4–6. -/
def veTable (s : State) (t k : Nat) : Pwl := if k < 4 then basicCurve k else pwlImage (veImage s t (k - 4))

/-- A draw of the device random source (R356, R557, R569): recorded, or in replay taken from the records. -/
def draw (island : Nat) (s : State) : Nat × State :=
  match hhMode s == 2, s.hh.draws.find? fun d => d.1 == island with
  | true, some d => (d.2, { s with hh := { s.hh with draws := s.hh.draws.eraseP fun d => d.1 == island } })
  | _, _ =>
    let f := fresh s
    let v := f.1 % 2 ^ 32
    (v, hhCapture 0x30 island 0 (leBytes 4 v ++ leBytes 4 0) f.2)

/-- The results of a vector operation as lanes, saturations, NaNs. -/
def vectorLanes (t : Nat) (o : VectorOp) (s : State) : List Nat × Nat × Nat × State :=
  let as_ := lanesFrom s t (256 * o.a) 256
  let bs := lanesFrom s t (256 * o.b) 256
  let cs := lanesFrom s t (256 * o.c) 256
  let count (ls : List Lane) : List Nat × Nat × Nat × State :=
    let f := fillLanes ls s
    (f.1, (ls.filter (·.sat)).length, (ls.filter (·.nan)).length, f.2)
  let reduce (g : Nat → Nat → Lane) : List Nat × Nat × Nat × State :=
    let r := reduceTree g 8 as_ (0, 0, 0)
    ([r.1], r.2.1, r.2.2, s)
  match o.fn with
  | .sumLanes => reduce fun a b => laneFn .add o.float basicCurve a b 0
  | .maxLanes => reduce fun a b => laneFn .max o.float basicCurve a b 0
  | .permute from_ => ((List.range 256).map fun i => as_.getD (from_.getD i i % 256) 0, 0, 0, s)
  | .transpose =>
    let x := lanesFrom s t (256 * o.a) 1024
    ((List.range 1024).map fun i => x.getD (32 * (i % 32) + i / 32) 0, 0, 0, s)
  | .toReal f =>
    count ((List.range 256).map fun i =>
      let sc := cs.getD (i / 32) 0 % 256
      let v := elemReal f (as_.getD i 0) sc
      if sc = 0xFF ∧ f.isInt then { val := some 0, nan := i % 32 == 0 } else laneFloat v)
  | .random =>
    let d := draw t s
    (List.replicate 256 d.1, 0, 0, d.2)
  | fn => count ((List.range 256).map fun i => laneFn fn o.float (veTable s t) (as_.getD i 0) (bs.getD i 0) (cs.getD i 0))

def vectorRun (t : Nat) (o : VectorOp) (k : Kernel) (s : State) : Ran :=
  let wide := match o.fn with
    | .transpose => 4
    | _ => 1
  let tableOk := match o.fn with
    | .table n => decide (n < 7)
    | _ => true
  if !(decide (o.a + wide ≤ 32) && decide (o.b < 32) && decide (o.c < 32) && tableOk) then ⟨2, s⟩
  else
    let r := vectorLanes t o s
    laneStore t o.dst r.1 k (countLanes t r.2.1 r.2.2.1 r.2.2.2)

/-- VECTOR_OPERATION: an operation over the 256 lanes. -/
def execVectorOperation (t : Nat) (i : Issue) (o : VectorOp) (s : State) : State :=
  issue t (vectorEntry i (destWrites o.dst)) i (unitFree unitVector) (vectorRun t o) s

/-! ## Requantise (R279, R280) -/

def requantRun (t : Nat) (o : RequantOp) (k : Kernel) (s : State) : Ran :=
  if !([4, 8, 16, 32].contains o.width) || o.run == 0 || o.chans == 0 || decide (8192 < 256 * o.src + o.count) then ⟨2, s⟩
  else if !ownOk s k false o.records (8 * Nat.min o.chans (ceilDiv o.count o.run)) then ⟨1, s⟩
  else
    let r := (List.range (Nat.min o.chans (ceilDiv o.count o.run))).foldl (fun (r : List ChanRec × State) j =>
      let c := readRecord t (o.records + 8 * j) r.2
      (r.1 ++ [c.1], c.2)) ([], s)
    let s := r.2
    let outs := (List.range o.count).map fun i =>
      requant (r.1.getD (i / o.run % o.chans) ⟨0, 0, 0, false⟩) o.width (signed 32 (laneOf s t (256 * o.src + i)))
    laneStore t o.dst (outs.map fun x => wrap 32 x.1) k (countLanes t (outs.filter (·.2)).length 0 s)

/-- REQUANTISE: accumulators are scaled by channel records with one rounding. -/
def execRequantise (t : Nat) (i : Issue) (o : RequantOp) (s : State) : State :=
  issue t (vectorEntry i (destWrites o.dst)) i (unitFree unitVector) (requantRun t o) s

/-! ## Quantise (R272–R277, R282, R283) -/

/-- Cut a list into groups. -/
def chunks {α : Type} (g : Nat) : Nat → List α → List (List α)
  | 0, _ => []
  | n + 1, l => if l.isEmpty then [] else l.take g :: chunks g n (l.drop g)

/-- What a Quantise of a list of values in groups gives, with the flat-group byte of the tile's VE_FLAT. -/
def quantAll (fmt : Elem) (g : Nat) (fixed : Option Int) (flatExp : Nat) (vs : List Fv) : List QuantOut :=
  (chunks g vs.length vs).map fun c =>
    quantGroup fmt fixed flatExp (if fmt.blocked then c ++ List.replicate (g - c.length) (.fin false 0 0) else c)

/-- The statistics of a Quantise are added to its point (R283). -/
def addStats (fmt : Elem) (point n : Nat) (outs : List QuantOut) (k : Kernel) : Kernel :=
  { k with qps := updFirst (fun q => q.point == point) (fun q =>
      if !q.statEn then q
      else
        { q with count := q.count + n
                 clipped := outs.foldl (fun n o => n + o.clipped) q.clipped
                 flat := outs.foldl (fun n o => n + o.flat) q.flat
                 maxPre := outs.foldl (fun m o => if magLt m o.maxPre then o.maxPre else m) q.maxPre
                 half := fmt.qHalf }) k.qps }

/-- A Quantise names a point: one under the exception of R282 is counted, once for the instruction (R289). -/
def quantNames (t point : Nat) (k : Kernel) (s : State) : State :=
  if k.qps.any fun q => q.point == point then s else bump (pgVe t) Off.VE_CNT_QP_FOREIGN 1 s

/-- Quantise values through a point (R282): the groups, with the counters and statistics. -/
def quantThrough (t point : Nat) (fmt : Elem) (g : Nat) (float : Bool) (words : List Nat) (k : Kernel) (s : State) :
    List QuantOut × State :=
  let q := k.qps.find? fun q => q.point == point
  let X := (q.map (·.inExp)).getD 0
  let vs := words.map fun w => if float then ofF32 w else fvOf (signed 32 w) X
  let fixed := q.bind fun q => if q.static then some ((q.base : Int) + q.adj) else none
  let outs := quantAll fmt g fixed (fld s (pgVe t) Off.VE_FLAT 0 8) vs
  let s := countLanes t 0 (outs.foldl (fun n o => n + o.bad) 0) s
  (outs, updKernel t (addStats fmt point words.length outs) s)

/-- May the device quantise to a format? -/
def quantFmt (f : Elem) : Bool :=
  match f with
  | .bf16 => false | .fp32 => false | _ => true

/-- Row pitches of element and scale planes for a width (R269). -/
def elemPitch (f : Elem) (w : Nat) : Nat := 64 * ceilDiv (f.bytes w) 64
def scalePitch (w : Nat) : Nat := 64 * ceilDiv (ceilDiv w 32) 64

/-- Bytes completed with zeros to a row pitch (R269). -/
def padRow (n : Nat) (bs : List Byte) : List Byte := bs ++ List.replicate (n - bs.length) 0

/-- Quantise rows of values: the codes and scale bytes of each row. -/
def quantRows (t : Nat) (o : QuantOp) (k : Kernel) : List (List Nat) → State → List (List Nat × List Nat) × State
  | [], s => ([], s)
  | row :: rest, s =>
    let r := quantThrough t o.point o.fmt (if o.fmt.blocked then 32 else o.cols) o.float row k s
    let more := quantRows t o k rest r.2
    (((r.1.flatMap (·.codes)).take row.length, r.1.map (·.scale)) :: more.1, more.2)

/-- The element plane of rows of codes: each row completed with zeros to its pitch (R269). -/
def elemPlane (f : Elem) (cols : Nat) (rows : List (List Nat × List Nat)) : List Byte :=
  rows.flatMap fun r => padRow (elemPitch f cols) (f.pack r.1)

/-- The scale plane: block scales in rows of their own pitch, or a byte for each row of a format with one scale per channel (R269). -/
def scalePlane (f : Elem) (cols : Nat) (rows : List (List Nat × List Nat)) : List Byte :=
  rows.flatMap fun r =>
    let bs := r.2.flatMap (leBytes 1)
    if f.blocked then padRow (scalePitch cols) bs else bs

/-- May the kernel write n bytes at a of its own tile, or of another one? 0 yes, 1 refused here, 4 refused there. -/
def planeOk (s : State) (k : Kernel) (u : Option Nat) (a n : Nat) : Nat :=
  match u with
  | none => if ownOk s k true a n then 0 else 1
  | some u => if tileLive s u && admits s u k.launch.ctx && sramOk s (farRegions s k u) k.launch.ctx true a n then 0 else 4

def quantRun (t : Nat) (o : QuantOp) (k : Kernel) (s : State) : Ran :=
  if !quantFmt o.fmt || decide (16 ≤ o.point) || o.cols == 0 || (!o.fmt.blocked && decide (4096 < o.cols)) ||
      decide (8192 < 256 * o.src + o.count) then ⟨2, s⟩
  else
    let rows := chunks o.cols o.count (lanesFrom s t (256 * o.src) o.count)
    match o.dst with
    | .regs c g =>
      if 8192 < 256 * c + o.count ∨ 8192 < 256 * g + rows.length * (if o.fmt.blocked then ceilDiv o.cols 32 else 1) then ⟨2, s⟩
      else
        let r := quantRows t o k rows (quantNames t o.point k s)
        ⟨0, setLanes t (256 * c) (r.1.flatMap (·.1)) r.2 |> setLanes t (256 * g) (r.1.flatMap (·.2))⟩
    | .planes u e g =>
      let en := rows.length * elemPitch o.fmt o.cols
      let sn := rows.length * (if o.fmt.blocked then scalePitch o.cols else 1)
      let ok := Nat.max (planeOk s k u e en) (planeOk s k u g sn)
      if ok ≠ 0 then
        ⟨ok, match u with
          | some u => if tileLive s u && admits s u k.launch.ctx then
              s |> bump (pgTsp u) Off.TSP_CNT_REGION_FAULT 1 |> raise (pgTsp u) Evt.TSP_REGION_FAULT else s
          | none => s⟩
      else
        let r := quantRows t o k rows (quantNames t o.point k s)
        let s := sramWrite (u.getD t) e (elemPlane o.fmt o.cols r.1) r.2 |> sramWrite (u.getD t) g (scalePlane o.fmt o.cols r.1)
        ⟨0, match u with
          | some u => s |> bump (pgTsp t) Off.TSP_CNT_REMOTE_WR 1 |> flitsPass (t / 16) (u / 16) (dataFlits (en + sn))
          | none => s⟩
    | .gen te we tg wg =>
      let r := quantRows t o k rows (quantNames t o.point k s)
      let put (s : State) : Ran :=
        let a := genStore t te none we (r.1.flatMap (·.1)) k s
        let b := genStore t tg none wg (r.1.flatMap (·.2)) k a.state
        ⟨worse a.status b.status, b.state⟩
      -- what cannot be written yet is quantised again, so nothing of it counts
      let out := put s
      if out.status = 0 ∨ out.status = 7 then put r.2 else out

/-- QUANTISE: values are mapped to codes and scale bytes through a quantisation point. -/
def execQuantise (t : Nat) (i : Issue) (o : QuantOp) (s : State) : State :=
  issue t (vectorEntry i (quantWrites o.dst)) i (unitFree unitVector) (quantRun t o) s

end Sys2Proof.Machine
end

