-- ==== Sys2Proof/Machine/StateUnit.lean ====
section
/-! DEFINITION. The recurrent step engine: segments, gate tables, steps (R291–R319), and the vector engine's registers (R287, R289). -/
namespace Sys2Proof.Machine

/-! ## Segments (R292, R293) -/

def segOf (s : State) (t n : Nat) : Segment := sget Segment.empty (tileOf s t).segs n
def setSeg (t n : Nat) (g : Segment) (s : State) : State := updTile t (fun x => { x with segs := sset Segment.empty x.segs n g }) s

def Segment.valid (g : Segment) : Bool := bitOf g.cfg 0
def Segment.init (g : Segment) : Bool := bitOf g.cfg 1
def Segment.perElement (g : Segment) : Bool := bitOf g.cfg 2
def Segment.xnorm (g : Segment) : Bool := bitOf g.cfg 3
/-- N, the state expansion. -/
def Segment.n (g : Segment) : Nat := 8 * 2 ^ fieldOf g.cfg 4 2
def Segment.table (g : Segment) : Nat := fieldOf g.cfg 6 3
def Segment.decNeg (g : Segment) : Bool := bitOf g.cfg 9
def Segment.channels (g : Segment) : Nat := fieldOf g.cfg 10 13

/-- Are the fields those of an acceptable configuration word? -/
def segCfgOk (v : Word) : Bool := fieldOf v 4 2 != 3 && decide (1 ≤ fieldOf v 10 13) && decide (fieldOf v 10 13 ≤ 4096)

/-- Is a segment accepted as valid (R292)? -/
def segAccept (s : State) (t n : Nat) (g : Segment) : Bool :=
  segCfgOk g.cfg && decide (1 ≤ g.units) && decide (g.n * g.channels ≤ 256 * g.units) && decide (g.base + 256 * g.units ≤ 262144) &&
    !((tileOf s t).segs.any fun e => e.1 != n && e.2.valid && decide (g.base < e.2.base + 256 * e.2.units) &&
      decide (e.2.base < g.base + 256 * g.units))

/-- Did a kernel run on the tile as the beat began? A beat's register writes come before the end and the start of a kernel in it (R317). -/
def ranBefore (s : State) (t : Nat) : Bool :=
  if s.tt.run then
    (((tileOf s t).kernel.map fun k => k.started != s.tt.beats).getD false) || (tileOf s t).ended == some s.tt.beats
  else (tileOf s t).kernel.isSome

def suRefused (t : Nat) (s : State) : State := bump (pgSu t) Off.SU_CNT_CFG_REFUSED 1 s

/-- The segment that SU_SEG_INDEX selects. -/
def segSel (s : State) (t : Nat) : Nat := fld s (pgSu t) Off.SU_SEG_INDEX 0 8

/-- A write of SU_SEG_CFG (R293): allocation, release, or fields of an invalid segment. A release in the beat in which a kernel starts comes
before the start, so a kernel that has named the segment finds it invalid and ends with REGION (R317). SAT stays until 1 is written to it
(R303). -/
def segCfgWrite (t : Nat) (v : Word) (s : State) : State :=
  let n := segSel s t
  let g := segOf s t n
  let new : Segment := { g with cfg := BitVec.ofNat 32 (bitsAt v.toNat 0 23) }
  if g.valid then
    if bitOf v 0 then suRefused t s
    else
      match (tileOf s t).kernel with
      | some k =>
        if !k.segs.contains n then dropSegment t n s
        else if ranBefore s t then setSeg t n { g with releasing := true } s
        else regionFault t (fld s (pgMx t) Off.TILE_SEQ_PC 0 32) (dropSegment t n s)
      | none => dropSegment t n s
  else if bitOf v 0 then
    if segAccept s t n new then
      setSeg t n { new with zeroing := true, pos := 0, first := true, broken := false, releasing := false } s
    else suRefused t s
  else if segCfgOk v then setSeg t n new s
  else suRefused t s

/-- A write of the other fields of the selected segment: only while it is invalid. -/
def segFieldWrite (t off : Nat) (v : Word) (s : State) : State :=
  let n := segSel s t
  let g := segOf s t n
  if off = Off.SU_SEG_STATE then
    (if bitOf v 0 && !bitAt (sget 0 s.head.sets (pageBase (pgSu t) + Off.SU_SAT + 4 * (n / 32))) (n % 32) then
      setSeg t n { g with sat := false } s else s)
  else if g.valid then suRefused t s
  else if off = Off.SU_SEG_RANGE then setSeg t n { g with range := BitVec.ofNat 32 (bitsAt v.toNat 0 21) } s
  else if off = Off.SU_SEG_OWNER then setSeg t n { g with owner := BitVec.ofNat 32 (bitsAt v.toNat 0 10) } s
  else if off = Off.SU_SEG_PLANES then setSeg t n { g with planes := v &&& 0x0FFF0FFF } s
  else s

/-- The configuration word with VALID as given. -/
def segWord (v : Word) (valid : Bool) : Word := putField v 0 1 (ofBool valid)

/-- SEGMENT_ALLOCATE: a write of SU_SEG_CFG with VALID 1. -/
def execSegmentAllocate (w : Func) (t : Nat) (v : Word) (s : State) : State :=
  access w (pgSu t) Off.SU_SEG_CFG (segWord v true) (segCfgWrite t (segWord v true)) s

/-- SEGMENT_RELEASE: a write of SU_SEG_CFG with VALID 0. -/
def execSegmentRelease (w : Func) (t : Nat) (v : Word) (s : State) : State :=
  access w (pgSu t) Off.SU_SEG_CFG (segWord v false) (segCfgWrite t (segWord v false)) s

/-! ## Gate tables (R296–R300) -/

/-- The image of slot 4–7 as the registers hold it. -/
def suImage (s : State) (t slot : Nat) : List Byte :=
  (List.range 128).flatMap fun i => leBytes 4 (rd s (pgSu t) (Off.SU_TBL + 0x200 * (slot - 4) + 4 * i)).toNat

def slotValid (s : State) (t slot : Nat) : Bool := flag s (pgSu t) Off.SU_TBL_STATUS slot
def slotLocked (s : State) (t slot : Nat) : Bool := flag s (pgSu t) Off.SU_TBL_STATUS (8 + slot)
def gateTable (s : State) (t slot : Nat) : Pwl := if slot < 4 then basicCurve slot else pwlImage (suImage s t slot)

/-- A write to an image word: ignored on a locked slot, refused while a kernel runs, else it clears VALID. -/
def suTblWrite (t off : Nat) (v : Word) (s : State) : State :=
  let slot := 4 + (off - Off.SU_TBL) / 0x200
  if slotLocked s t slot then s
  else if ranBefore s t then suRefused t s
  else wr (pgSu t) off v s |> setFlag (pgSu t) Off.SU_TBL_STATUS slot false

/-- SU_TBL_WRITE: an expert write of word i of slot 4 + m's image. -/
def execSuTblWrite (w : Func) (t m i : Nat) (v : Word) (s : State) : State :=
  let off := Off.SU_TBL + 0x200 * (m % 4) + 4 * (i % 128)
  access w (pgSu t) off v (suTblWrite t off v) s

/-- A write of SU_TBL_CTRL. -/
def suCommit (t : Nat) (v : Word) (s : State) : State :=
  if fieldOf v 4 4 = 0 then s
  else if ranBefore s t then suRefused t s
  else (List.range 4).foldl (fun s m =>
    if !bitOf v (4 + m) || slotLocked s t (4 + m) then s
    else if pwlValid (suImage s t (4 + m)) then setFlag (pgSu t) Off.SU_TBL_STATUS (4 + m) true s
    else suRefused t s) s

/-- COMMIT: a write of SU_TBL_CTRL with COMMIT bits. -/
def execCommit (w : Func) (t : Nat) (v : Word) (s : State) : State := access w (pgSu t) Off.SU_TBL_CTRL v (suCommit t v) s

/-- A write to a state-unit page register. -/
def suRegWrite (t off : Nat) (v : Word) (s : State) : State :=
  if off = Off.SU_SEG_CFG then segCfgWrite t v s
  else if Off.SU_SEG_CFG < off ∧ off ≤ Off.SU_SEG_STATE then segFieldWrite t off v s
  else if off = Off.SU_TBL_CTRL then suCommit t v s
  else if Off.SU_TBL ≤ off then suTblWrite t off v s
  else plainWrite (pgSu t) off v s

/-! ## The step (R301–R304) -/

/-- δ of R301 for a gate input, and whether the clamp raised it to 16. -/
def decayDelta (tab : Pwl) (g : Int) : Int × Bool :=
  let y := tab.eval g
  let d : Int := if 24 ≤ tab.outFrac then rneShift y (tab.outFrac - 24) else y * (2 ^ (24 - tab.outFrac) : Nat)
  (clampInt 16 16777216 d, decide (d < 16))

/-- One token step of one entry (R302, R303): the new value and whether it saturated. -/
def stepEntry (xnorm : Bool) (delta hp b x : Int) : Int × Bool :=
  let bx : Int := if xnorm then b * delta * x * 1024 else b * x * 17179869184
  let v := rneShift ((16777216 - delta) * hp + bx) 24
  (clampInt (-140737488355327) 140737488355327 v, decide (140737488355328 ≤ v) || decide (v ≤ -140737488355328))

/-- The read-out of a channel: the exact sum of C × h in units of 2^-54, rounded once (R304). -/
def readOut (cs hs : List Int) : Nat := f32 (fvOf ((cs.zip hs).foldl (fun (n : Int) e => n + e.1 * e.2) 0) (-54))

/-- A segment's entries with what its steps have counted: saturations, clamps, resets, and the read-outs in order. -/
structure SegRun where
  h : List Int
  ys : List Nat
  sats : Nat
  clamps : Nat
  resets : Nat

/-- The operands of a segment for one token, by channel and state index. -/
structure SegTok where
  x : List Int
  z : List Int
  b : List Int
  c : List Int

/-- One token applied to every entry of a segment (R301–R304, R308). -/
def segToken (g : Segment) (tab : Pwl) (ofs init : List Int) (mark : Bool) (o : SegTok) (r : SegRun) : SegRun :=
  let N := g.n
  let one (c k : Nat) : Int × Bool × Bool :=
    let e := N * c + k
    let gi : Int := o.z.getD c 0 + (if g.perElement then ofs.getD e 0 else 0)
    let d := decayDelta tab (if g.decNeg then -gi else gi)
    let hp := if mark then init.getD e 0 else r.h.getD e 0
    let v := stepEntry g.xnorm d.1 hp (o.b.getD k 0) (o.x.getD c 0)
    (v.1, v.2, d.2)
  let all := (List.range g.channels).flatMap fun c => (List.range N).map (one c)
  let h := all.map (·.1)
  { h, ys := r.ys ++ (List.range g.channels).map fun c => readOut o.c ((h.drop (N * c)).take N)
    sats := r.sats + (all.filter (·.2.1)).length, clamps := r.clamps + (all.filter (·.2.2)).length
    resets := r.resets + ofBool mark }

/-- Signed little-endian numbers of w bytes in tile SRAM. -/
def sramInts (s : State) (t a n w bits : Nat) : List Int :=
  (List.range n).map fun i => signed bits (ofLeBytes (sramRead s t (a + w * i) w))

/-- May a kernel take n values from a source? 0 yes, 1 refused by the region check (R294), 2 not an instruction: the registers end, or the
walk does not hold n elements (log 33). -/
def srcOk (s : State) (k : Kernel) (src : StepSrc) (n : Nat) : Nat :=
  match src with
  | .regs r => if 256 * r + n ≤ 8192 then 0 else 2
  | .own w =>
    if !walkOk w || (walkSpots w).length != n then 2
    else if spotsOk s k.regions k.launch.ctx false w then 0 else 1

/-- The n values of a source, as signed numbers of their low bits. -/
def srcInts (s : State) (t : Nat) (src : StepSrc) (n bits : Nat) : List Int :=
  match src with
  | .regs r => (lanesFrom s t (256 * r) n).map (signed bits)
  | .own w => (walkRead s t w).map (signed bits)

/-- The reads of a source go through the read port (R235). -/
def srcPort (t : Nat) (src : StepSrc) (s : State) : State :=
  match src with
  | .regs _ => s
  | .own w => walkPort t w s

/-- The operands of T tokens for a segment, token by token, channel or state index by index (R295). -/
def segOperands (s : State) (t : Nat) (g : Segment) (q : SegStep) (T : Nat) : Nat → SegTok :=
  let xs := srcInts s t q.x (g.channels * T) 24
  let zs := srcInts s t q.z (g.channels * T) 32
  let bs := srcInts s t q.b (g.n * T) 16
  let cs := srcInts s t q.c (g.n * T) 16
  let cut (n j : Nat) (l : List Int) : List Int := (l.drop (n * j)).take n
  fun j => { x := cut g.channels j xs, z := cut g.channels j zs, b := cut g.n j bs, c := cut g.n j cs }

/-- Are the reads of a segment's steps allowed (R294, R295)? -/
def segAccess (s : State) (k : Kernel) (g : Segment) (q : SegStep) (T : Nat) : Nat :=
  let plane (on : Bool) (u w : Nat) : Nat := if !on || ownOk s k false (4096 * fieldOf g.planes u 12) (w * g.n * g.channels) then 0 else 1
  [srcOk s k q.x (g.channels * T), srcOk s k q.z (g.channels * T), srcOk s k q.b (g.n * T), srcOk s k q.c (g.n * T),
    plane g.perElement 0 2, plane g.init 16 8].foldl worse 0

/-- What T steps make of a segment (R306–R308). -/
def runSegment (s : State) (t T : Nat) (q : SegStep) : SegRun :=
  let g := segOf s t q.seg
  let cnt := g.n * g.channels
  let ofs := sramInts s t (4096 * fieldOf g.planes 0 12) (if g.perElement then cnt else 0) 2 16
  let init := sramInts s t (4096 * fieldOf g.planes 16 12) (if g.init then cnt else 0) 8 48
  let tab := gateTable s t g.table
  let toks := segOperands s t g q T
  (List.range T).foldl (fun r j => segToken g tab ofs init (bitAt q.mask j || (j == 0 && g.first)) (toks j) r)
    ⟨(List.range cnt).map fun e => signed 48 (sget 0 (tileOf s t).entries (g.base + e)), [], 0, 0, 0⟩

/-- A segment takes the result of T steps; a saturation of this beat outlives a clear of SAT in it (R303, R317). -/
def stepSegment (t T n : Nat) (r : SegRun) (s : State) : State :=
  let g := segOf s t n
  let cnt := g.n * g.channels
  let s := updTile t (fun x =>
    { x with entries := ((List.range cnt).zip r.h).foldl (fun m e => sset 0 m (g.base + e.1) (wrap 48 e.2)) x.entries }) s
    |> setSeg t n { g with pos := (g.pos + T) % 2 ^ 32, first := false, sat := g.sat || r.sats != 0 }
    |> bump (pgSu t) Off.SU_CNT_STEPS T |> bump (pgSu t) Off.SU_CNT_ELEM_SAT r.sats
    |> bump (pgSu t) Off.SU_CNT_DECAY_CLAMP r.clamps |> bump (pgSu t) Off.SU_CNT_RESETS r.resets
  if r.sats = 0 then s else s |> noteSet (pageBase (pgSu t) + Off.SU_SAT + 4 * (n / 32)) (n % 32) |> raise (pgSu t) Evt.SU_SAT

/-- May the kernel step a segment (R294)? -/
def segSteps (s : State) (t c n : Nat) : Bool :=
  let g := segOf s t n
  g.valid && !g.broken && fieldOf g.owner 0 10 == c

/-- The instruction's segments are stepped and their read-outs leave, or it waits for zeroisation (R293, R306). Where a read-out cannot be
written no step is applied (R294). -/
def stateGo (t : Nat) (i : Issue) (o : StateOp) (k : Kernel) (s : State) : Ran :=
  if o.segs.any fun q => (segOf s t q.seg).zeroing then
    ⟨8, updTile t (fun x => { x with waits := x.waits ++ [.state o i] }) s⟩
  else
    let runs := o.segs.map fun q => (q, runSegment s t o.tokens q)
    let out := runs.foldl (fun (a : Nat × State) e =>
      let w := laneStore t e.1.y e.2.ys k a.2
      (worse a.1 w.status, w.state)) (0, markActive t 2 s)
    if out.1 ≠ 0 ∧ out.1 ≠ 7 then ⟨out.1, out.2⟩
    else
      ⟨out.1, runs.foldl (fun s e =>
        s |> srcPort t e.1.x |> srcPort t e.1.z |> srcPort t e.1.b |> srcPort t e.1.c |> stepSegment t o.tokens e.1.seg e.2) out.2⟩

/-- A state instruction (R294, R300, R306); it names a segment once (log 33). -/
def stateRun (t : Nat) (i : Issue) (o : StateOp) (k : Kernel) (s : State) : Ran :=
  if o.tokens == 0 || decide (64 < o.tokens) || o.segs.isEmpty || !decide (o.segs.map (·.seg)).Nodup then ⟨2, s⟩
  else if !(o.segs.all fun q => segSteps s t k.launch.ctx q.seg) then ⟨1, s⟩
  else if !(o.segs.all fun q => slotValid s t (segOf s t q.seg).table) then ⟨2, s⟩
  else
    let may := o.segs.foldl (fun a q => worse a (segAccess s k (segOf s t q.seg) q o.tokens)) 0
    if may ≠ 0 then ⟨may, s⟩
    else
      stateGo t i o k (updKernel t (fun k =>
        { k with segs := k.segs ++ ((o.segs.map (·.seg)).filter fun n => !k.segs.contains n) }) s)

/-- The state unit executes in order: it is not free while an instruction waits for zeroisation. -/
def stateFree (w : TileWait) : Bool :=
  match w with
  | .state _ _ => false
  | _ => true

/-- What the state unit holds of an instruction. -/
def stateEntry (i : Issue) (o : StateOp) : Queued :=
  { unitEntry unitState i with writes := o.segs.any (fun q => destWrites q.y), segs := o.segs.map (·.seg) }

/-- STATE_INSTRUCTION: segments are stepped through T tokens (R306). -/
def execStateInstruction (t : Nat) (i : Issue) (o : StateOp) (s : State) : State :=
  issue t (stateEntry i o) i stateFree (stateRun t i o) s

/-- ZERO_DONE: zeroisation of a segment ends, and a step that waited for it goes on (R293). -/
def execZeroDone (t n : Nat) (s : State) : State :=
  if !tileLive s t || !(segOf s t n).zeroing then s
  else
    let s := setSeg t n { segOf s t n with zeroing := false } s |> raise (pgSu t) Evt.SU_ZERO_DONE
    match (tileOf s t).kernel with
    | none => s
    | some k =>
      let waits := (tileOf s t).waits.filter fun w => !stateFree w
      waits.foldl (fun s w =>
        match w with
        | .state o i => ranEnd t unitState i (stateGo t i o k s)
        | _ => s) (updTile t (fun x => { x with waits := x.waits.filter stateFree }) s)

/-- The unlocked slots 4 to 7 hold no image (R300). -/
def suUnload (t : Nat) (s : State) : State :=
  (List.range 4).foldl (fun s m =>
    if slotLocked s t (4 + m) then s
    else
      (List.range 128).foldl (fun s i => wr (pgSu t) (Off.SU_TBL + 0x200 * m + 4 * i) 0 s)
        (setFlag (pgSu t) Off.SU_TBL_STATUS (4 + m) false s)) s

/-- The whole file is zeroised, every segment invalid, unlocked slots empty (R316). -/
def suClear (t : Nat) (s : State) : State :=
  updTile t (fun x => { x with segs := [], entries := [], waits := x.waits.filter stateFree }) s |> suUnload t

/-! ## The vector engine's registers (R287, R289) -/

def veRefused (t : Nat) (s : State) : State := bump (pgVe t) Off.VE_CNT_CFG_REFUSED 1 s

/-- A write of VE_QP_ADJ_n. -/
def qpAdjWrite (t n : Nat) (v : Word) (s : State) : State :=
  let p := pgVe t
  let a := signed 5 (fieldOf v 0 5)
  let off := Off.VE_QP_ADAPT + 8 * n
  if a < -(fld s p off 20 4 : Int) ∨ (fld s p off 16 4 : Int) < a then veRefused t s
  else wr p (Off.VE_QP_ADJ + 8 * n) (BitVec.ofNat 32 (fieldOf v 0 5)) s

/-- VE_QP_ADJ_WRITE: an expert write of VE_QP_ADJ_n sets ADJ and clears RUN. -/
def execVeQpAdjWrite (w : Func) (t n : Nat) (v : Word) (s : State) : State :=
  access w (pgVe t) (Off.VE_QP_ADJ + 8 * (n % 16)) v (qpAdjWrite t (n % 16) v) s

/-- A write to a vector-engine page register. -/
def veRegWrite (t off : Nat) (v : Word) (s : State) : State :=
  let p := pgVe t
  if off = Off.VE_FLAT then (if fieldOf v 0 8 = 0xFF then veRefused t s else plainWrite p off v s)
  else if 0x110 ≤ off ∧ off < 0x210 then
    let n := (off - 0x110) / 0x10
    match off % 0x10 with
    | 0 => if fieldOf v 8 8 = 0xFF then veRefused t s else plainWrite p off v s
    | 4 =>
      let changed := (v &&& 0x800003FF) != rd s p off
      let s := plainWrite p off v s
      if changed then wr p (Off.VE_QP_ADJ + 8 * n) 0 s else s
    | _ => plainWrite p off v s
  else if Off.VE_PWL ≤ off ∧ off < Off.VE_QP_ADAPT then
    updTile t (fun x => { x with tables := sput x.tables ((off - Off.VE_PWL) / 4) v }) s
  else if Off.VE_QP_ADAPT ≤ off ∧ off < Off.VE_XLOG then
    if off % 8 = 4 then qpAdjWrite t ((off - Off.VE_QP_ADAPT) / 8) v s
    else if fieldOf v 8 8 = 0 ∨ 8 < fieldOf v 16 4 ∨ 8 < fieldOf v 20 4 then veRefused t s
    else plainWrite p off v s
  else plainWrite p off v s

end Sys2Proof.Machine
end

