-- ==== Sys2Proof/Machine/DeckFormat.lean ====
section
/-! DEFINITION. The deck container, its verification, where its sections go, and the PLACEMENT section (R98–R108, R298, R350, R351). -/
namespace Sys2Proof.Machine

/-! ## The container (R98–R101) -/

def sliceOf (bs : List Byte) (off n : Nat) : List Byte := (bs.drop off).take n
def numAt (bs : List Byte) (off n : Nat) : Nat := ofLeBytes (sliceOf bs off n)
def allZero (bs : List Byte) : Bool := bs.all (· == 0)

structure Sect where
  idx : Nat
  type : Nat
  flags : Nat
  target : Nat
  off : Nat
  len : Nat
  dest : Nat
  destLen : Nat
  digest : Nat
  reserved : Nat

def Sect.meld (x : Sect) : Bool := bitAt x.flags 0
def Sect.pin (x : Sect) : Bool := bitAt x.flags 1
def Sect.stored (x : Sect) (deck : List Byte) : List Byte := sliceOf deck x.off x.len

def sectAt (deck : List Byte) (i : Nat) : Sect :=
  let o := 0x1800 + 80 * i
  let f (a n : Nat) : Nat := numAt deck (o + a) n
  { idx := i, type := f 0 2, flags := f 2 2, target := f 4 2, off := f 8 4, len := f 0xC 4, dest := f 0x10 8, destLen := f 0x18 4
    digest := f 0x20 48, reserved := f 6 2 + f 0x1C 4 }

def deckKind (deck : List Byte) : Nat := numAt deck 6 1
def deckArb (deck : List Byte) : Nat := numAt deck 0xE 1
def deckSvn (deck : List Byte) : Nat := numAt deck 0x10 4
def deckVersion (deck : List Byte) : Nat := numAt deck 0x14 4
def deckSects (deck : List Byte) : List Sect := (List.range (numAt deck 0xC 2)).map (sectAt deck)
def tableEnd (deck : List Byte) : Nat := 0x1800 + 80 * numAt deck 0xC 2
/-- The digest of a deck's header, which installed decks are told apart by (R119, R473). -/
def deckDigest (deck : List Byte) : Nat := Config.sha384 (deck.take 256)

/-! ## DICE (R469, R470) -/

/-- The UDS as key bytes. -/
def udsBytes (s : State) : List Byte := leBytes 32 s.part.uds

/-- The DeviceID private key: HKDF-SHA-384 with the UDS as input key and "SVK DeviceID" as info. -/
def deviceKey (s : State) : Nat :=
  Config.hkdf384 (udsBytes s) ([0x53, 0x56, 0x4B, 0x20, 0x44, 0x65, 0x76, 0x69, 0x63, 0x65, 0x49, 0x44].map (BitVec.ofNat 8))

/-- CDI₀: HMAC-SHA-384 with the UDS as key of the digest of a boot deck's header. -/
def bootCdi (s : State) (deck : List Byte) : Nat := Config.hmac384 (udsBytes s) (leBytes 48 (deckDigest deck))

/-- The Alias private key: HKDF-SHA-384 of CDI₀ with "SVK Alias" as info. -/
def aliasKey (cdi : Nat) : Nat :=
  Config.hkdf384 (leBytes 48 cdi) ([0x53, 0x56, 0x4B, 0x20, 0x41, 0x6C, 0x69, 0x61, 0x73].map (BitVec.ofNat 8))

/-- The boot ROM computes the DeviceID key before it takes the boot deck. -/
def romStart (s : State) : State := { s with sec := { s.sec with rom := some (s.part.uds, deviceKey s), dice := none, chain := [] } }

/-- Step 5 of R95: the boot ROM derives the first DICE layer from a boot deck, signs the Alias certificate with the DeviceID key, and erases
the UDS and the DeviceID private key; the boot deck's code holds CDI₀ and the Alias private key. -/
def diceLayer (deck : List Byte) (s : State) : State :=
  let cdi := bootCdi s deck
  let cert := Config.aliasCert (Config.ecdsaPublic (aliasKey cdi)) (deckDigest deck) (deckSvn deck) (arbOf s.part 0)
  let chain := Config.certChain s.part.serial (Config.ecdsaPublic (deviceKey s)) s.part.endorsement
    (cert ++ Config.ecdsaSign (deviceKey s) cert)
  { s with sec := { s.sec with rom := none, dice := some (cdi, aliasKey cdi), chain } }

/-- The expert mask of the installed service deck (R83, R107). -/
def expertMask (s : State) : Nat := ((deckOf s 2).map fun d => numAt d.bytes 0x30 16).getD 0

def modelDeck (s : State) (slot : Nat) : Option Deck := s.boot.decks.find? fun d => d.kind == 3 && d.slot == slot
def modelDecks (s : State) : List Deck := s.boot.decks.filter fun d => d.kind == 3

/-! ## Decoding stored section bytes (R101) -/

/-- The Meld tiles of a section, one after the other (DESIGN CHOICE), decoded; none where one does not decode. Answers for each tile
its stored bytes and its decoded ones. -/
def meldTiles (fuel : Nat) (bs : List Byte) : Option (List (List Byte × List Byte)) :=
  match fuel with
  | 0 => if bs.isEmpty then some [] else none
  | n + 1 =>
    if bs.isEmpty then some []
    else
      let size := 16 + numAt bs 4 2
      let ulen := numAt bs 2 2
      match meldDecode (numAt bs 1 1) (numAt bs 6 2) (bs.take size), decide (size ≤ bs.length) with
      | .ok d, true => (meldTiles n (bs.drop size)).map fun r => (bs.take size, d.take ulen) :: r
      | _, _ => none

/-- The Meld tiles of stored bytes as far as they have arrived and decode. -/
def meldPrefix (fuel : Nat) (bs : List Byte) : List (List Byte × List Byte) :=
  match fuel with
  | 0 => []
  | n + 1 =>
    let size := 16 + numAt bs 4 2
    match meldDecode (numAt bs 1 1) (numAt bs 6 2) (bs.take size), decide (16 ≤ bs.length) && decide (size ≤ bs.length) with
    | .ok d, true => (bs.take size, d.take (numAt bs 2 2)) :: meldPrefix n (bs.drop size)
    | _, _ => []

/-- What a section holds after decompression. A Meld section whose tiles hold more than DEST_LENGTH is cut there, and one whose tiles hold
less is accepted (DESIGN CHOICE, log 64: the spec names no check of it). -/
def Sect.content (x : Sect) (deck : List Byte) : Option (List Byte) :=
  if x.meld then (meldTiles (x.len + 1) (x.stored deck)).map fun ts => (ts.flatMap (·.2)).take x.destLen
  else some (x.stored deck)

/-- What has arrived of a section, decompressed: a Meld section by whole tiles (R106). -/
def Sect.written (x : Sect) (deck : List Byte) : List Byte :=
  if x.meld then ((meldPrefix (x.len + 1) (x.stored deck)).flatMap (·.2)).take x.destLen else x.stored deck

/-! ## Placement in device memory (R103, R370) -/

/-- Units of 2 MiB that no valid region entry, now or on its way, and no open handle's choice covers, below the queue tables. The rule names
the region entries and the queue tables only; that another open handle's units count as taken is the model's choice (DESIGN CHOICE, log 64):
two open decks could not both be written to the same units. -/
def freeUnits (s : State) : List Nat :=
  let taken := s.boot.handles.flatMap fun h => h.2.units.main ++ h.2.units.restore
  let rs := (List.range 64).map (regionAt s) ++ s.mem.pend.map fun e => regionOfWords e.base e.size e.attr
  (List.range (regionEnd s / 0x200000)).filter fun u => !taken.contains u && !(rs.any fun r => r.covers (u * 0x200000))

/-- Slots of a section: one for each Meld tile of 4 KiB (R103). -/
def sectSlots (n : Nat) : Nat := ceilDiv n 4096

/-- Is a section's destination device memory, or the root of trust's retained memory (R102, R119)? -/
def inMemory (type : Nat) : Bool := type == 0x10 || type == 0x24
def isRetained (type : Nat) : Bool := type == 0x12 || type == 0x14

/-- Slots that the restore copies of a deck take. -/
def restoreSlots (deck : List Byte) : Nat :=
  if deckKind deck = 1 then 0
  else (deckSects deck).foldl (fun n x => if inMemory x.type || isRetained x.type then n else n + sectSlots x.len) 0

/-- Slots of a unit that are homed on one MD. -/
def unitHomed (s : State) : Nat := 512 / Nat.max 1 s.part.stackCount

/-- Home slots that a deck's STREAMED sections need on an MD (R103). -/
def streamNeed (deck : List Byte) (m : Nat) : Nat :=
  (deckSects deck).foldl (fun n x => if x.type == 0x24 && x.target == m then n + sectSlots x.destLen else n) 0

/-- Units a deck needs: so many that they hold the slots each MD needs, and one SERVICE region. -/
def mainUnits (s : State) (deck : List Byte) : Nat :=
  let image := (deckSects deck).foldl (fun n x => if x.type == 0x10 then Nat.max n (x.dest + x.destLen) else n) 0
  if deckKind deck = 2 then Nat.max 1 (ceilDiv image 0x200000)
  else Nat.max (ceilDiv (streamNeed deck 0) (unitHomed s)) (ceilDiv (streamNeed deck 1) (unitHomed s))

/-- The units chosen for a deck, none where it does not fit. -/
def chooseUnits (s : State) (deck : List Byte) : Option DeckUnits :=
  let free := freeUnits s
  let m := mainUnits s deck
  let r := ceilDiv (restoreSlots deck) 512
  if deckKind deck = 1 then some ⟨[], []⟩
  else if free.length < m + r then none else some ⟨free.take m, (free.drop m).take r⟩

/-- The slots of units, ascending. -/
def unitSlots (us : List Nat) : List Nat := us.flatMap fun u => (List.range 512).map fun i => u * 0x200000 + 4096 * i

/-! ## Verification (R104–R108) -/

/-- The outcome of a failed check: code, section, detail. -/
abbrev Bad := Nat × Nat × Nat

def hdrReserved (d : List Byte) : Bool :=
  numAt d 0xF 1 / 2 == 0 && allZero (sliceOf d 0x22 2) && allZero (sliceOf d 0x28 8) && allZero (sliceOf d 0x70 144)

/-- The checks on 256 header bytes. -/
def checkHeader (s : State) (total : Nat) (d : List Byte) : Option Bad :=
  let bad (c : Nat) : Option Bad := some (c, 0xFF, 0)
  let kind := deckKind d
  let n := numAt d 0xC 2
  let len := numAt d 8 4
  let arb := deckArb d
  let mask := numAt d 0x30 16
  if numAt d 0 4 ≠ 0x4B445653 ∨ numAt d 4 2 ≠ 1 ∨ kind = 0 ∨ 3 < kind ∨ 3 < numAt d 7 1 ∨ n = 0 ∨ 64 < n ∨ !hdrReserved d then bad 6
  else if len < 0x3000 ∨ 0xFFFFF000 < len ∨ len ≠ total then bad 6
  else if numAt d 0x20 1 = 0 ∨ 2 < numAt d 0x20 1 ∨ numAt d 0x21 1 = 0 ∨ 2 < numAt d 0x21 1 then bad 6
  else if numAt d 0x1C 2 ≠ 0x5E1C ∨ s.part.stepping < numAt d 0x1E 1 ∨ numAt d 0x1F 1 < s.part.stepping then bad 7
  else if s.part.stackCount < numAt d 0x20 1 ∨ s.part.iods < numAt d 0x21 1 then bad 8
  else if (kind = 1 ∧ arb ≠ 0) ∨ (kind = 2 ∧ arb ≠ 1) ∨ (kind = 3 ∧ (arb < 2 ∨ 15 < arb)) then bad 6
  else if mask ≠ 0 ∧ (kind ≠ 2 ∨ numAt d 0xF 1 % 2 = 0 ∨ s.part.expertOff) then bad 0x14
  else none

/-- The checks on the signature block. -/
def checkSignature (s : State) (d : List Byte) : Option Bad :=
  let b := d.drop 0x100
  let key := numAt d 7 1
  let ec := Config.ecdsaOk (b.take 96) (sliceOf b 0x800 96) (d.take 256)
  let ml := Config.mldsaOk (sliceOf b 0x60 1952) (sliceOf b 0x860 3309) (d.take 256)
  if !bitAt s.part.keyValid key || bitAt s.part.keyRevoked key || s.part.keyHash.getD key 0 != Config.sha384 (b.take 2048) then
    some (9, 0xFF, 0)
  else if !(ec && ml) then some (0xA, 0xFF, ofBool (!ec) + 2 * ofBool (!ml))
  else if deckSvn d < arbOf s.part (deckArb d) then some (0xB, 0xFF, 0)
  else none

/-- The first entry that fails a test. -/
def firstBad (code : Nat) (xs : List Sect) (p : Sect → Bool) : Option Bad := (xs.find? p).map fun x => (code, x.idx, 0)

/-- Is the layout of an entry wrong, after the end of the entry before it? -/
def badLayout (total : Nat) (xs : List Sect) (x : Sect) : Bool :=
  let prev := (xs.find? fun y => y.idx + 1 == x.idx).map fun y => y.off + y.len
  x.off % 0x1000 != 0 || decide (x.off < 0x3000) || x.len == 0 || decide (total < x.off + x.len) ||
    decide (x.off < prev.getD 0) || x.reserved != 0 || decide (4 ≤ x.flags) || (!x.meld && x.destLen != x.len) ||
    (x.idx + 1 == xs.length && x.off + x.len != total)

/-- The deck kind in which a type may appear (R102). -/
def typeKind (t : Nat) : Nat :=
  if 1 ≤ t ∧ t ≤ 4 then 1 else if 0x10 ≤ t ∧ t ≤ 0x14 then 2 else if 0x20 ≤ t ∧ t ≤ 0x25 then 3 else 0

def targetOk (s : State) (x : Sect) : Bool :=
  if x.type = 3 ∨ x.type = 0x24 then decide (x.target < s.part.stackCount)
  else if 0x20 ≤ x.type ∧ x.type ≤ 0x23 then decide (x.target < 64)
  else x.target == 0

def onTile (t : Nat) (x : Sect) : Bool := (x.type == 0x20 || x.type == 0x21 || x.type == 0x22) && x.target == t

/-- Bytes that a deck's sections take on a tile (R103). -/
def tileBytes (deck : List Byte) (t : Nat) : Nat :=
  (deckSects deck).foldl (fun n x => if onTile t x then n + x.destLen else n) 0

/-- The capacity check of R103: a tile's sections, a STREAMED section whose MD has no room, the retained sections, a service image, and a
section whose copy finds no room beside the deck's own region. A CALL_MODEL above the 2 MiB of R102 is refused with CAPACITY too (DESIGN
CHOICE, log 64: the spec gives the maximum and no code), and the 3.5 MiB of the two retained sections are measured by DEST_LENGTH (DESIGN
CHOICE, log 66: the spec does not say whether that or the stored LENGTH counts). -/
def badCapacity (s : State) (d : List Byte) (x : Sect) : Bool :=
  let kept := (deckSects d).foldl (fun n y => if isRetained y.type then n + y.destLen else n) 0
  let free := (freeUnits s).length
  let copies := deckKind d != 1 && !(inMemory x.type || isRetained x.type) && decide (mainUnits s d ≤ free) && (chooseUnits s d).isNone
  if onTile x.target x &&
      decide (12 * 2 ^ 20 < tileBytes d x.target + (modelDecks s).foldl (fun n k => n + tileBytes k.bytes x.target) 0) then true
  else if copies then true
  else if x.type = 0x12 ∧ 2 * 2 ^ 20 < x.destLen then true
  else if isRetained x.type then decide (3670016 < kept)
  else if x.type = 0x24 then decide (free * unitHomed s < streamNeed d x.target)
  else x.type == 0x10 && decide (free < mainUnits s d)

/-- The checks at the end of the section table. -/
def checkTable (s : State) (total : Nat) (d : List Byte) : Option Bad :=
  let xs := deckSects d
  if Config.sha384 (sliceOf d 0x1800 (80 * xs.length)) ≠ numAt d 0x40 48 then some (0xC, 0xFF, 0)
  else
    firstBad 6 xs (badLayout total xs)
      <|> firstBad 0xE xs (fun x => typeKind x.type != deckKind d || ((x.type == 0x21 || x.type == 0x22) && !x.pin))
      <|> firstBad 8 xs (fun x => !targetOk s x)
      <|> firstBad 0xF xs (badCapacity s d)
      <|> (if (chooseUnits s d).isNone then some (0xF, 0xFF, 0) else none)

/-- The images of a PWL_TABLE section: whole, up to slot 7, each valid (R298, R300). -/
def pwlOk (x : Sect) (bs : List Byte) : Bool :=
  x.dest % 512 == 0 && bs.length % 512 == 0 && bs.length == x.destLen && decide (x.dest + bs.length ≤ 2048) &&
    (List.range (bs.length / 512)).all fun i => pwlValid (sliceOf bs (512 * i) 512)

/-- The checks at the end of a section. -/
def checkSect (d : List Byte) (x : Sect) (free : Nat) : Option Bad :=
  if Config.sha384 (x.stored d) ≠ x.digest then some (0xD, x.idx, 0)
  else match x.content d with
  | none => some (free, x.idx, 0)
  | some bs => if x.type = 0x23 ∧ !pwlOk x bs then some (0xE, x.idx, 0) else none

/-- Is a stretch zero as far as it has arrived? With the failed check, the bytes read up to it. -/
def checkPad (d : List Byte) (a b : Nat) : Option (Bad × Nat) :=
  ((sliceOf d a (b - a)).findIdx? fun x => x != 0).map fun i => ((0x10, 0xFF, 0), a + i + 1)

/-- The checks whose data arrives between byte counts n0 and n1, in container order; with the check that fails, how many bytes had been
read. `free` is the unstated code for a section whose
Meld tiles do not decode. -/
def deckCheck (s : State) (total free n0 n1 : Nat) (d : List Byte) : Option (Bad × Nat) :=
  let due (at_ : Nat) (c : Unit → Option Bad) : Option (Bad × Nat) :=
    if n0 < at_ ∧ at_ ≤ n1 then (c ()).map fun b => (b, at_) else none
  let pad (a b : Nat) : Option (Bad × Nat) := if n0 < b ∧ a < n1 then checkPad d a b else none
  let start := due 256 (fun _ => checkHeader s total d) <|> pad 0x164D 0x1650 <|> due 0x1650 (fun _ => checkSignature s d)
    <|> pad 0x1650 0x1800
  if n1 < 0x1800 then start
  else
    let te := due (tableEnd d) (fun _ => checkTable s total d)
    if (start <|> te).isSome || n1 < tableEnd d then start <|> te
    else
      (deckSects d).foldl (fun (r : Option (Bad × Nat) × Nat) x =>
        (r.1 <|> pad r.2 x.off <|> due (x.off + x.len) (fun _ => checkSect d x free), x.off + x.len))
        (pad (tableEnd d) 0x3000, 0x3000) |>.1

/-! ## The PLACEMENT section (R350, R351) -/

/-- The PLACEMENT section of a deck. -/
def placementOf (deck : List Byte) : List Byte :=
  (((deckSects deck).find? fun x => x.type == 0x25).bind fun x => x.content deck).getD []

/-- May a pair stand in PWR_RAISE_SEL (R18, R135)? -/
def raisePairOk (s : State) (cd md : Nat) : Bool := decide (md < s.part.stackCount) && cd % 2 == md

def raiseDeck (p : List Byte) : Bool := numAt p 0x12 1 != 0xFF || numAt p 0x13 1 != 0xFF

/-- Does a Raise-stage deck's pair differ from PWR_RAISE_SEL (R351, the check of every bind)? -/
def raiseDiffers (s : State) (deck : List Byte) : Bool :=
  let p := placementOf deck
  raiseDeck p && !(numAt p 0x12 1 == fld s pgPower Off.PWR_RAISE_SEL 0 2 && numAt p 0x13 1 == fld s pgPower Off.PWR_RAISE_SEL 2 1)

/-- Free units of a tile's state file. -/
def freeStateUnits (s : State) (t : Nat) : Nat :=
  1024 - (tileOf s t).segs.foldl (fun n e => if e.2.valid then n + e.2.units else n) 0

/-- The service's check of a deck's PLACEMENT: 0, or the reason of R464. -/
def placementCheck (s : State) (deck : List Byte) : Nat :=
  let p := placementOf deck
  let n := numAt p 6 2
  let entry (i a k : Nat) : Nat := numAt p (32 + 32 * i + a) k
  let model := numAt p 8 2
  let streams := numAt p 0x10 1
  let cd := numAt p 0x12 1
  let md := numAt p 0x13 1
  let vocab := numAt p 0xC 4
  if p.length < 32 ∨ p.length < 32 + 32 * n ∨ numAt p 0 4 ≠ 0x544D4C50 ∨ numAt p 4 2 ≠ 1 ∨ n = 0 ∨ 512 < n ∨ model % 64 ≠ 0 ∨
      model < 64 ∨ 4096 < model ∨ 1024 < numAt p 0xA 2 ∨ vocab = 0 ∨ 65536 < vocab ∨ streams = 0 ∨ 64 < streams ∨
      numAt p 0x11 1 = 0 ∨ streams < numAt p 0x11 1 ∨
      ((List.range n).any fun i => entry i 0 1 == 2) != (numAt p 0xA 2 != 0) ∨ !((cd == 0xFF && md == 0xFF) || (decide (cd < 4) && decide (md < 2))) then 1
  else if (List.range n).any fun i => 2 ≤ entry i 1 1 && s.part.stackCount < 2 then 2
  else if (List.range n).any fun i => (List.range 64).any fun t =>
      entry i 0 1 == 1 && bitAt (entry i 0x10 8) t && decide (freeStateUnits s t < entry i 4 2 * streams) then 3
  else if raiseDeck p && (!raisePairOk s cd md || raiseDiffers s deck) then 4
  else 0

/-- In fixed-deal mode: does a deck hold a section on a tile of another tenant (R492)? -/
def fdForeign (s : State) (deck : List Byte) (c : Nat) : Bool :=
  (deckSects deck).any fun x => 0x20 ≤ x.type && x.type ≤ 0x23 && !fdOwnsTile s x.target c

end Sys2Proof.Machine
end

