-- ==== Sys2Proof/Machine/Seats.lean ====
section
/-! DEFINITION. The table as the sender of frames sees it: seats, membership, ports, keys, credits and frames (R496–R508). The handling
of received frames is in Table.lean. -/
namespace Sys2Proof.Machine

def pgFab (n : Nat) : Page := ⟨.fabric, n⟩

/-- Milliseconds in ticks. -/
def msTicks (n : Nat) : Nat := n * 1000000

def mySeat (s : State) : Nat := fld s (pgFab 0) Off.TBL_SEAT 0 9
def tblDup (s : State) : Bool := flag s (pgFab 0) Off.TBL_STATUS 1

/-- Does the seat take part: JOIN, no duplicate found, the ports powered (R505, R508)? -/
def tblJoined (s : State) : Bool := pageOn s (pgFab 0) && flag s (pgFab 0) Off.TBL_SEAT 16 && !tblDup s

/-- Is a seat a member (R507)? -/
def tblMember (s : State) (d : Nat) : Bool := flag s (pgFab 0) (Off.TBL_MEMBERS + 4 * (d / 32)) (d % 32)
def tblMembers (s : State) : List Nat := (List.range 512).filter (tblMember s)

/-- Has a port heard a HELLO of a seat within DEAD_MS (R496, R506)? -/
def portHeard (s : State) (p d : Nat) : Bool :=
  match s.tbl.heard.find? fun e => e.1 == 2 * d + p with
  | some e => !elapsed s e.2.2 (msTicks (fld s (pgFab 0) Off.TBL_TIMING 10 12))
  | none => false

/-- The port for frames to a seat (R496). -/
def portFor (s : State) (d : Nat) : Nat :=
  let p := (mySeat s ^^^ d) % 2
  if portHeard s p d then p else 1 - p

/-- Is a key slot loaded with a MACsec key? -/
def macKey (s : State) (k : Nat) : Bool := (keyOf s k).st == 2 && (keyOf s k).kind == 1

/-- The slot that the key register of a tenant names; tenant 0 stands for the table (R526). -/
def keyReg (s : State) (tenant : Nat) : Nat :=
  if tenant = 0 then fld s (pgFab 0) Off.TBL_KEY 0 8 else fld s (pgFab 0) (Off.TBL_TENANT_KEY + 4 * (tenant - 1)) 0 8

/-- The slot that protects a frame: the tenant's for fetch frames of tenant 1 on, else the table slot; a change counts from the next beat
(R502). -/
def frameSlot (s : State) (tenant : Nat) : Nat :=
  match s.tbl.oldKeys.find? fun e => e.1 == tenant && e.2.1 == s.tt.beats with
  | some e => e.2.2
  | none => keyReg s tenant

/-- Has a tenant's register named a slot, now or before a change: its association is accepted while the slot stays loaded (R502)? -/
def keyHeld (s : State) (tenant k : Nat) : Bool := keyReg s tenant == k || s.tbl.oldKeys.any fun e => e.1 == tenant && e.2.2 == k

/-- A tenant's key register changes from the slot that it has named. -/
def keySwitch (tenant old : Nat) (s : State) : State :=
  let e := (tenant, s.tt.beats, old)
  if keyReg s tenant = old ∨ s.tbl.oldKeys.contains e then s else { s with tbl := { s.tbl with oldKeys := s.tbl.oldKeys ++ [e] } }

/-- Does a port send and accept table frames: enabled, its link up, the table slot loaded, and the frame's own slot (R502)? -/
def portLive (s : State) (p tenant : Nat) : Bool :=
  enabled s (pgFab p) && flag s (pgFab p) Off.FAB_STATUS 0 && macKey s (frameSlot s 0) && macKey s (frameSlot s tenant)

/-- The table header of a frame of this seat (R499). -/
def frameHeader (s : State) (type dst : Nat) (group : Bool) (cls corr len : Nat) : List Byte :=
  leBytes 1 1 ++ leBytes 1 type ++ leBytes 2 (mySeat s) ++ leBytes 2 (dst + 2 ^ 15 * ofBool group) ++ leBytes 1 cls ++ leBytes 1 0 ++
    leBytes 4 (rd s (pgFab 0) Off.TBL_ID).toNat ++ leBytes 4 (sget 0 s.tbl.seqs cls) ++ leBytes 8 (64 * beatNo s) ++
    leBytes 2 len ++ leBytes 2 0 ++ leBytes 4 corr

/-- The address of a seat: the source of the latest HELLO that the port heard of it, else of the one the other port heard (R506). -/
def seatMac (s : State) (p d : Nat) : Nat :=
  match (s.tbl.heard.find? fun e => e.1 == 2 * d + p).orElse fun _ => s.tbl.heard.find? fun e => e.1 == 2 * d + (1 - p) with
  | some e => e.2.1
  | none => Config.unlearnedMac d

def macOf (s : State) (p : Page) (lo hi : Nat) : Nat := (rd s p lo).toNat + 2 ^ 32 * fld s p hi 0 16

/-- What encloses a frame of a class and tenant to a seat, or to the group, on a port (R498, R502, R503). -/
def wireOf (s : State) (p : Nat) (dst : Option Nat) (cls tenant : Nat) : Wire :=
  { dst := match dst with
      | some d => seatMac s p d
      | none => macOf s (pgFab 0) Off.TBL_GROUP_LO Off.TBL_GROUP_HI
    src := macOf s (pgFab p) Off.FAB_MAC_LO Off.FAB_MAC_HI
    tag := if flag s (pgFab 0) Off.TBL_FRAME 28 then some (6 - cls, fld s (pgFab 0) Off.TBL_FRAME 16 12) else none
    slot := frameSlot s tenant, etherType := fld s (pgFab 0) Off.TBL_FRAME 0 16 }

/-- A frame leaves on a port, if that port is live; in replay the fabric ports are silent (R569). -/
def portSend (p tenant : Nat) (dst : Option Nat) (cls : Nat) (bytes : List Byte) (s : State) : State :=
  if portLive s p tenant && hhMode s != 2 then
    emit (.tableFrame p (wireOf s p dst cls tenant) bytes) s |> bump (pgFab p) Off.FAB_CNT_TX_FRAMES 1
  else s

/-- Send a frame: a group frame on both ports, any other on the port for its seat; it takes the next SEQ of its class. -/
def sendFrame (type dst : Nat) (group : Bool) (cls corr tenant : Nat) (payload : List Byte) (s : State) : State :=
  if !tblJoined s then s
  else
    let bytes := frameHeader s type dst group cls corr payload.length ++ payload
    let s := { s with tbl := { s.tbl with seqs := sset 0 s.tbl.seqs cls ((sget 0 s.tbl.seqs cls + 1) % 2 ^ 32) } }
    if group then s |> portSend 0 tenant none cls bytes |> portSend 1 tenant none cls bytes
    else portSend (portFor s dst) tenant (some dst) cls bytes s

/-- Request credits of a class free for a seat (R504). -/
def fetchCredit (s : State) (seat : Nat) (c3 : Bool) : Bool :=
  let used := (s.tbl.fetches.filter fun f => f.seat == seat && f.c3 == c3).length
  decide (used < fld s (pgFab 0) Off.TBL_CREDIT (if c3 then 4 else 0) 4)

/-- The payload of a FETCH_REQ (R518). -/
def fetchPayload (addr tenant key : Nat) : List Byte := leBytes 8 (addr % 2 ^ 48) ++ leBytes 1 tenant ++ leBytes 1 key ++ leBytes 6 0

/-- A transfer of a SPACE 3 block sends its FETCH_REQ. -/
def sendFetch (q xfer addr tenant key : Nat) (c3 : Bool) (s : State) : State :=
  let seat := addr / 2 ^ 48 % 512
  let f : Fetch := { corr := s.tbl.corr, seat, queue := some q, xfer, port := portFor s seat, start := s.tt.beats
                     ticks := (rd s (pgFab 0) Off.TBL_FETCH).toNat, again := false, c3 }
  { s with tbl := { s.tbl with corr := (s.tbl.corr + 1) % 2 ^ 32, fetches := s.tbl.fetches ++ [f] } }
    |> sendFrame 0x20 seat false (if c3 then 3 else 2) f.corr tenant (fetchPayload addr tenant key)

end Sys2Proof.Machine
end

