-- ==== Sys2Proof/Machine/Window.lean ====
section
/-! DEFINITION. Window operators: descriptor, taps, padding, the matrix route, the vector-engine window path, pooling, stripes and
halo rows, the stream transpose (R320–R337, R347). -/
namespace Sys2Proof.Machine

/-! ## The descriptor (R323–R325) -/

/-- A window descriptor. -/
structure Win where
  inW : Nat
  inH : Nat
  inC : Nat
  outC : Nat
  kw : Nat
  kh : Nat
  op : Nat
  fmt : Nat
  sx : Nat
  sy : Nat
  dx : Nat
  dy : Nat
  padL : Nat
  padR : Nat
  padT : Nat
  padB : Nat
  padCode : Nat
  groups : Nat
  inBase : Nat
  inScale : Nat
  outBase : Nat
  outScale : Nat
  row0 : Nat
  rows : Nat
  inRow0 : Nat
  inRows : Nat
  nbUp : Nat
  nbDown : Nat
  ctrUp : Nat
  ctrDown : Nat
  padScale : Nat
  flags : Nat
  stripeH : Nat
deriving DecidableEq, Repr

def winOf (bs : List Byte) : Win :=
  let u (a n : Nat) : Nat := ofLeBytes ((bs.drop a).take n)
  { inW := u 0 2, inH := u 2 2, inC := u 4 2, outC := u 6 2, kw := u 8 1, kh := u 9 1, op := u 10 1, fmt := u 11 1, sx := u 12 2
    sy := u 14 2, dx := u 16 2, dy := u 18 2, padL := u 20 2, padR := u 22 2, padT := u 24 2, padB := u 26 2, padCode := u 28 2
    groups := u 30 2, inBase := u 32 4, inScale := u 36 4, outBase := u 40 4, outScale := u 44 4, row0 := u 48 2, rows := u 50 2
    inRow0 := u 52 2, inRows := u 54 2, nbUp := u 56 1, nbDown := u 57 1, ctrUp := u 58 1, ctrDown := u 59 1, padScale := u 60 1
    flags := u 61 1, stripeH := u 62 2 }

def Win.global (d : Win) : Bool := d.op == 5 || d.op == 6
def Win.avgPad (d : Win) : Bool := bitAt d.flags 0
def Win.postRows (d : Win) : Bool := bitAt d.flags 1
def Win.outInt8 (d : Win) : Bool := bitAt d.flags 2
/-- POOL_EXP. -/
def Win.poolExp (d : Win) : Int := signed 16 d.groups

/-- The numerators of R325. -/
def Win.numW (d : Win) : Int := (d.inW + d.padL + d.padR : Nat) - (d.dx * (d.kw - 1) + 1 : Nat)
def Win.numH (d : Win) : Int := (d.inH + d.padT + d.padB : Nat) - (d.dy * (d.kh - 1) + 1 : Nat)
def Win.outW (d : Win) : Nat := if d.global then 1 else d.numW.toNat / d.sx + 1
def Win.outH (d : Win) : Nat := if d.global then 1 else d.numH.toNat / d.sy + 1

/-- The input row and column of a tap, before the padding test (R326). -/
def Win.tapRow (d : Win) (oy ky : Nat) : Int := (oy * d.sy + ky * d.dy : Nat) - (d.padT : Int)
def Win.tapCol (d : Win) (ox kx : Nat) : Int := (ox * d.sx + kx * d.dx : Nat) - (d.padL : Int)
def Win.rowIn (d : Win) (iy : Int) : Bool := decide (0 ≤ iy) && decide (iy < d.inH)
def Win.colIn (d : Win) (ix : Int) : Bool := decide (0 ≤ ix) && decide (ix < d.inW)

/-- Where a row lies (R335): the tile (none for this one) and the local row; none when it is out of reach. -/
def Win.rowAt (d : Win) (iy : Nat) : Option (Option Nat × Nat) :=
  if d.inRow0 ≤ iy ∧ iy < d.inRow0 + d.inRows then some (none, iy - d.inRow0)
  else if d.nbUp ≠ 0xFF ∧ d.inRow0 ≤ iy + d.stripeH ∧ iy < d.inRow0 then some (some d.nbUp, iy + d.stripeH - d.inRow0)
  else if d.nbDown ≠ 0xFF ∧ d.inRow0 + d.stripeH ≤ iy ∧ iy < d.inRow0 + 2 * d.stripeH then
    some (some d.nbDown, iy - d.inRow0 - d.stripeH)
  else none

/-- The input rows inside the tensor that an output row needs. -/
def Win.needs (d : Win) (oy : Nat) : List Nat :=
  if d.global then List.range d.inH
  else ((List.range d.kh).filterMap fun ky =>
    let iy := d.tapRow oy ky
    if d.rowIn iy then some iy.toNat else none)

/-- Is the pad element zero (R326)? -/
def Win.padZero (d : Win) : Bool := d.padCode == 0 || (d.fmt == 2 && d.padCode == 0x8000)

/-- The checks of R325 that every engine shares. -/
def Win.ok (d : Win) : Bool :=
  let inR (lo hi n : Nat) : Bool := decide (lo ≤ n) && decide (n ≤ hi)
  decide (1 ≤ d.inW) && decide (1 ≤ d.inH) && inR 1 4096 d.inC && inR 1 4096 d.outC && decide (d.fmt ≤ 2) &&
    (d.global || (inR 1 31 d.kw && inR 1 31 d.kh && decide (1 ≤ d.sx) && decide (1 ≤ d.sy) && decide (1 ≤ d.dx) && decide (1 ≤ d.dy) &&
      decide (0 ≤ d.numW) && decide (0 ≤ d.numH))) &&
    (d.fmt == 2 || decide (d.padCode < 256)) && decide (d.padScale ≤ 254) && decide (d.flags < 8) && decide (1 ≤ d.stripeH) &&
    decide (1 ≤ d.rows) && d.inRow0 % d.stripeH == 0 && decide (d.row0 + d.rows ≤ d.outH) && decide (d.ctrUp < 64) &&
    decide (d.ctrDown < 64) && (d.nbUp == 0xFF || decide (d.nbUp < 64)) && (d.nbDown == 0xFF || decide (d.nbDown < 64)) &&
    (d.nbDown == 0xFF || d.inRows == d.stripeH) &&
    (rangeFrom d.row0 d.rows).all fun oy => (d.needs oy).all fun iy => (d.rowAt iy).isSome

/-- The conditions of R324 and R334 for the operators of a tile. -/
def Win.tileOk (d : Win) : Bool :=
  d.ok && match d.op with
  | 0 => d.groups == 1
  | 1 => d.groups == d.inC && d.groups == d.outC
  | 2 => decide (2 ≤ d.groups) && d.inC % d.groups == 0 && d.outC % d.groups == 0
  | 3 => d.outC == d.inC
  | 4 => d.outC == d.inC
  | 5 => d.outC == d.inC && d.inRow0 == 0 && d.inRows == d.inH && decide (d.inW * d.inH ≤ 16777216)
  | 6 => d.outC == d.inC && d.inRow0 == 0 && d.inRows == d.inH
  | _ => false

/-! ## Planar tensors (R320) -/

def Win.elem (d : Win) : Elem :=
  match d.fmt with
  | 0 => .mxint8 | 1 => .int8 | _ => .bf16

/-- An element with its scale byte: where inputs come from. -/
abbrev Source := Nat → Nat → Nat → Nat × Nat

/-- Element (channel, local row, column) of a planar tensor in a tile's SRAM. -/
def planarAt (s : State) (t : Nat) (f : Elem) (base sbase ph w c y x : Nat) : Nat × Nat :=
  let code := f.get (sramRead s t (base + (c * ph + y) * elemPitch f w + x * (f.bits / 8)) (f.bits / 8)) 0
  let sc := if f.blocked then ofLeBytes (sramRead s t (sbase + (c * ph + y) * scalePitch w + x / 32) 1) else 127
  (code, sc)

/-- The input of a tile's window operator: its own stripe and its neighbours'. -/
def Win.source (d : Win) (s : State) (t : Nat) : Source := fun c iy ix =>
  match d.rowAt iy with
  | some (u, j) => planarAt s (u.getD t) d.elem d.inBase d.inScale d.stripeH d.inW c j ix
  | none => (0, 127)

/-- The element that a tap takes: an input element, or the pad element (R326). -/
def Win.tap (d : Win) (src : Source) (c oy ox ky kx : Nat) : Bool × Nat × Nat :=
  let iy := d.tapRow oy ky
  let ix := d.tapCol ox kx
  if d.rowIn iy && d.colIn ix then (true, src c iy.toNat ix.toNat)
  else (false, d.padCode, if d.fmt = 0 then d.padScale else 127)

/-- Does a tap lie in the padding for every pixel of a run? -/
def Win.allPad (d : Win) (oy ox0 n ky kx : Nat) : Bool :=
  !d.rowIn (d.tapRow oy ky) || (rangeFrom ox0 n).all fun ox => !d.colIn (d.tapCol ox kx)

def Win.taps (d : Win) : List (Nat × Nat) := (List.range d.kh).flatMap fun ky => (List.range d.kw).map fun kx => (ky, kx)

/-! ## The vector-engine path and the stem engine (R330, R331, R339) -/

/-- A product at its scale added to an accumulator: the sum and whether it saturated. -/
def addScaled (acc p e E : Int) : Int × Bool :=
  let x := acc + shiftRne p (e - E)
  (sat32 x, over32 x)

/-- One output of OP 1, 2 or 7: products over input channels from c0, ky, kx; the word and the saturations. An element of a block whose
scale byte is 0xFF is 0 (R268). -/
def Win.convPixel (d : Win) (src : Source) (codes : List Int) (c0 cg : Nat) (E : Int) (oy ox : Nat) : Nat × Nat :=
  let taps := (List.range cg).flatMap fun c => d.taps.map fun k => (c, k)
  if d.fmt = 2 then
    (((codes.zip taps).foldl (fun a e =>
      let v := d.tap src (c0 + e.2.1) oy ox e.2.2.1 e.2.2.2
      f32 ((ofF32 a).add (ofF32 (f32 ((fvOf e.1 0).mul (Elem.bf16.value v.2.1)))))) 0), 0)
  else
    let r := (codes.zip taps).foldl (fun (r : Int × Nat) e =>
      let v := d.tap src (c0 + e.2.1) oy ox e.2.2.1 e.2.2.2
      let q := if v.2.2 = 0xFF then 0 else d.elem.code v.2.1
      let x := addScaled r.1 (e.1 * q) ((v.2.2 : Int) - 127) E
      (x.1, r.2 + ofBool x.2)) (0, 0)
    (wrap 32 r.1, r.2)

/-- Taps skipped for runs of n pixels of an output row, over cg products a tap (R327, R330). -/
def Win.skips (d : Win) (n cg oy : Nat) : Nat :=
  if !d.padZero then 0
  else cg * ((List.range (ceilDiv d.outW n)).foldl (fun m r =>
    m + (d.taps.filter fun k => d.allPad oy (n * r) (Nat.min n (d.outW - n * r)) k.1 k.2).length) 0)

/-! ## Pooling (R333, R334) -/

/-- a < b for elements of an 8-bit format with scales; a block whose scale byte is 0xFF holds zeros (R268). -/
def codeLt (f : Elem) (a b : Nat × Nat) : Bool :=
  let v (x : Nat × Nat) : Fv := if x.2 = 0xFF then .fin false 0 0 else (f.value x.1).scale x.2
  (v a).lt (v b)

/-- An element as a 32-bit integer at an exponent. -/
def poolInt (f : Elem) (E : Int) (v : Nat × Nat) : Int × Bool :=
  addScaled 0 (if v.2 = 0xFF then 0 else f.code v.1) ((v.2 : Int) - 127) E

/-- An FP32 value divided by a positive number, rounded once. -/
def f32Div (a n : Nat) : Nat :=
  match ofF32 a with
  | .fin neg m e =>
    let q := m * 2 ^ 64 / n
    f32 (.fin neg (2 * q + (if q * n = m * 2 ^ 64 then 0 else 1)) (e - 65))
  | v => f32 v

/-- The elements that an output of a pooling operator takes: those inside the input, and all with pads. -/
def Win.poolTaps (d : Win) (src : Source) (c oy ox : Nat) : List (Bool × Nat × Nat) :=
  if d.global then
    (List.range d.inH).flatMap fun y => (List.range d.inW).map fun x => (true, src c y x)
  else d.taps.map fun k => d.tap src c oy ox k.1 k.2

/-- One output of a pooling operator. -/
def Win.poolPixel (d : Win) (src : Source) (c oy ox : Nat) : Nat × Nat :=
  let all := d.poolTaps src c oy ox
  let ins := (all.filter (·.1)).map (·.2)
  let pad : Nat × Nat := (d.padCode, if d.fmt = 0 then d.padScale else 127)
  if d.op = 3 ∨ d.op = 6 then
    if d.fmt = 2 then
      match ins with
      | [] => (f32 (Elem.bf16.value pad.1), 0)
      | v :: vs =>
        (vs.foldl (fun a e =>
          let b := f32 (Elem.bf16.value e.1)
          if (ofF32 a).isNan || (ofF32 b).isNan then canonNan else if (ofF32 a).lt (ofF32 b) then b else a)
          (f32 (Elem.bf16.value v.1)), 0)
    else
      let best := match ins with
        | [] => pad
        | v :: vs => vs.foldl (fun a b => if codeLt d.elem a b then b else a) v
      let r := poolInt d.elem d.poolExp best
      (wrap 32 r.1, ofBool r.2)
  else
    let vs := if d.op = 4 ∧ d.avgPad then all.map (·.2) else ins
    let n := if d.op = 5 then d.inW * d.inH else if d.avgPad then d.kh * d.kw else ins.length
    if n = 0 then (0, 0)
    else if d.fmt = 2 then
      (f32Div (vs.foldl (fun a e => f32 ((ofF32 a).add (Elem.bf16.value e.1))) 0) n, 0)
    else
      let w : Nat := if d.op = 5 then 48 else 32
      let m : Int := (2 ^ (w - 1) : Nat)
      let r := vs.foldl (fun (r : Int × Nat) e =>
        let x := r.1 + shiftRne (if e.2 = 0xFF then 0 else d.elem.code e.1) ((e.2 : Int) - 127 - d.poolExp)
        (clampInt (-m) (m - 1) x, r.2 + ofBool (decide (x < -m) || decide (m - 1 < x)))) (0, 0)
      let q := rneDiv r.1 n
      (wrap 32 (sat32 q), r.2 + ofBool (over32 q))

/-! ## The matrix route (R327–R329, R332) -/

/-- A group of 32 input channels aligned to its largest scale (R328): codes and the scale byte. -/
def alignHalf (f : Elem) (vs : List (Nat × Nat)) : List Nat × Nat :=
  if f.blocked then
    let smax := vs.foldl (fun m v => Nat.max m v.2) 0
    (vs.map fun v => wrap 8 (rneShift (f.code v.1) (smax - v.2)), smax)
  else (vs.map (·.1), 127)

/-- One output of OP 0, or of a group of OP 2 on the array: channel j of output group og of channel group g, over taps, input blocks,
halves; a tap that its run of 64 pixels skips adds nothing (R327). -/
def Win.arrayPixel (d : Win) (src : Source) (fw : Elem) (code : Nat → Nat → Nat → Nat) (scale : Nat → Nat → Nat → Nat)
    (cg blk0 g j oy : Nat) (E : Int) (ox : Nat) : Nat × Nat :=
  let nb := ceilDiv cg 64
  let r := ox / 64
  let hs := (((List.range d.taps.length).zip d.taps).filter fun e =>
      !(d.padZero && d.allPad oy (64 * r) (Nat.min 64 (d.outW - 64 * r)) e.2.1 e.2.2)).flatMap fun e =>
    (List.range (2 * nb)).map fun h =>
      let vs := (List.range (Nat.min 32 (cg - 32 * h))).map fun i => (d.tap src (g * cg + 32 * h + i) oy ox e.2.1 e.2.2).2
      let al := alignHalf d.elem vs
      let blk := blk0 + e.1 * nb + h / 2
      ({ w := (List.range 32).map fun i => code blk j (32 * (h % 2) + i), sW := if fw.blocked then scale blk j (h % 2) else 127
         a := al.1 ++ List.replicate (32 - al.1.length) 0, sA := if vs.isEmpty then 127 else al.2 } : Half)
  accHalves fw (if d.fmt = 2 then .bf16 else d.elem) E 0 hs

/-- Vectors of pad elements fed to the array for an output row, per output group (R327). -/
def Win.padVectors (d : Win) (nb oy : Nat) : Nat :=
  nb * ((List.range (ceilDiv d.outW 64)).foldl (fun m r =>
    let n := Nat.min 64 (d.outW - 64 * r)
    m + (d.taps.filter fun k => !(d.padZero && d.allPad oy (64 * r) n k.1 k.2)).foldl (fun m k =>
      m + ((rangeFrom (64 * r) n).filter fun ox => !(d.rowIn (d.tapRow oy k.1) && d.colIn (d.tapCol ox k.2))).length) 0) 0)

/-! ## A row of a tile's window operator -/

/-- Does the operator run on the matrix array (R324, R332)? -/
def Win.onArray (d : Win) : Bool := d.op == 0 || (d.op == 2 && decide (16 < d.inC / d.groups))

def Win.cg (d : Win) : Nat := if d.op = 2 then d.inC / d.groups else if d.op = 0 then d.inC else 1

/-- Does R341 lay out weights of a format as a plane of codes? -/
def planeFormat (f : Elem) : Bool := f == .int8 || f == .int4

/-- Weight pitch of a plane (R341). -/
def weightPitch (f : Elem) (taps : Nat) : Nat := 4 * ceilDiv taps (if f.bits = 4 then 8 else 4)

/-- The weight codes of an output channel on the window path. -/
def weightCodes (s : State) (t base : Nat) (f : Elem) (taps c : Nat) : List Int :=
  let bs := sramRead s t (base + weightPitch f taps * c) (weightPitch f taps)
  (List.range taps).map fun i => f.code (f.get bs i)

/-- Output channels of a channel group, and groups of 64 in it. -/
def Win.og (d : Win) : Nat := if d.op = 2 then d.outC / d.groups else d.outC

/-- The accumulator exponents of every output channel. -/
def winExps (t : Nat) (o : WindowOp) (d : Win) (s : State) : List Int × State :=
  if 3 ≤ d.op ∨ d.fmt = 2 then ([], s)
  else (List.range d.outC).foldl (fun (r : List Int × State) c =>
    let x := readRecord t (o.records + 8 * c) r.2
    (r.1 ++ [x.1.exp], x.2)) ([], s)

/-- Code n of output channel c in a weight plane (R341). -/
def planeCode (s : State) (t base : Nat) (f : Elem) (taps c n : Nat) : Nat :=
  let a := base + weightPitch f taps * c + n * f.bits / 8
  f.get (sramRead s t a 1) (if f.bits = 4 then n % 2 else 0)

/-- Bytes of the weights of a window operator: the plane of R341 for INT8 and INT4 codes, which are what that rule lays out, and the blocks of
R270 for the array's other formats (log 33). -/
def winWeights (o : WindowOp) (d : Win) : Nat :=
  if planeFormat o.wFmt || !d.onArray then weightPitch o.wFmt (d.cg * d.kh * d.kw) * d.outC
  else blockBytes o.wFmt * ((if d.op = 2 then d.groups else 1) * ceilDiv d.og 64 * (d.kh * d.kw) * ceilDiv d.cg 64)

/-- Bytes of the scale plane beside the blocks of R270. -/
def winScales (o : WindowOp) (d : Win) : Nat :=
  if d.onArray && o.wFmt.blocked then 128 * ((if d.op = 2 then d.groups else 1) * ceilDiv d.og 64 * (d.kh * d.kw) * ceilDiv d.cg 64) else 0

/-- The results of an output row, channel by channel: words and saturations. -/
def winRow (s : State) (t : Nat) (o : WindowOp) (d : Win) (es : List Int) (oy : Nat) : List (Nat × Nat) :=
  let src := d.source s t
  let bb := blockBytes o.wFmt
  let nb := ceilDiv d.cg 64
  let og64 := ceilDiv d.og 64
  let code (blk j i : Nat) : Nat :=
    if planeFormat o.wFmt then
      let q := blk / nb / d.taps.length
      let c := q / og64 * d.og + q % og64 * 64 + j
      let ic := blk % nb * 64 + i
      if ic < d.cg ∧ q % og64 * 64 + j < d.og then planeCode s t o.weights o.wFmt (d.cg * d.taps.length) c (ic * d.taps.length + blk / nb % d.taps.length)
      else 0
    else o.wFmt.get (sramRead s t (o.weights + bb * blk) bb) (64 * j + i)
  let scale (blk j h : Nat) : Nat := ofLeBytes (sramRead s t (o.wScale + 128 * blk + 2 * j + h) 1)
  (List.range d.outC).flatMap fun c =>
    let E := es.getD c 0
    if 3 ≤ d.op then (List.range d.outW).map fun ox => d.poolPixel src c oy ox
    else if d.onArray then
      let g := c / d.og
      let l := c % d.og
      let blk0 := (g * og64 + l / 64) * (d.taps.length * nb)
      (List.range d.outW).map fun ox => d.arrayPixel src o.wFmt code scale d.cg blk0 g (l % 64) oy E ox
    else
      let codes := weightCodes s t o.weights o.wFmt (d.cg * d.kh * d.kw) c
      let c0 := c / (d.outC / d.groups) * d.cg
      (List.range d.outW).map fun ox => d.convPixel src codes c0 d.cg E oy ox

/-- The blocks of 32 elements with a scale byte of 0xFF in the input rows that an output row takes on the vector engine: each counts once
in VE_CNT_NAN (R268). -/
def winNans (s : State) (t : Nat) (d : Win) (oy : Nat) : Nat :=
  if d.fmt ≠ 0 ∨ d.onArray then 0
  else ((d.needs oy).flatMap fun iy => (List.range d.inC).flatMap fun c => (List.range (ceilDiv d.inW 32)).filter fun b =>
    (d.source s t c iy (32 * b)).2 == 0xFF).length

/-- The reads of an output row: an array operator's weights through the weight port (R235); its input rows, with their scales, through the read
port of the tile that has them, and over the mesh from a neighbour. -/
def winPorts (t : Nat) (o : WindowOp) (d : Win) (oy : Nat) (s : State) : State :=
  let s := if d.onArray then s |> portRead t 0 o.weights (winWeights o d) |> portRead t 0 o.wScale (winScales o d) else s
  (d.needs oy).foldl (fun s iy =>
    match d.rowAt iy with
    | none => s
    | some (u, j) =>
      let s := (List.range d.inC).foldl (fun s c =>
        portRead (u.getD t) 2 (d.inBase + (c * d.stripeH + j) * elemPitch d.elem d.inW) (d.elem.bytes d.inW) s
          |> portRead (u.getD t) 2 (d.inScale + (c * d.stripeH + j) * scalePitch d.inW) (if d.fmt = 0 then ceilDiv d.inW 32 else 0)) s
      match u with
      | some u => bump (pgTsp t) Off.TSP_CNT_REMOTE_RD 1 s |> flitsPass (u / 16) (t / 16) (dataFlits (d.inC * d.elem.bytes d.inW))
      | none => s) s

/-- The counters and flags of a computed row. -/
def winCount (t : Nat) (d : Win) (sats nans oy : Nat) (s : State) : State :=
  if d.onArray then
    let groups := (if d.op = 2 then d.groups else 1) * ceilDiv d.og 64
    let s := bump (pgMx t) Off.TILE_CNT_TAP_SKIP (groups * d.skips 64 1 oy) s
      |> bump (pgMx t) Off.TILE_CNT_PAD_TAPS (groups * d.padVectors (ceilDiv d.cg 64) oy) |> markActive t 0
    if sats = 0 then s
    else
      updKernel t (fun k => { k with accSat := true }) s |> setFlag (pgMx t) Off.MX_ACC_STATUS 0 true
        |> raise (pgMx t) Evt.TILE_ACC_SAT |> bump (pgMx t) Off.MX_CNT_ACC_SAT sats
  else
    bump (pgVe t) Off.VE_CNT_WIN_TAP_SKIP (if d.global then 0 else d.outC * d.skips 32 d.cg oy) s |> countLanes t sats nans

/-- The channel records of a window operator, with the clamped ones counted (R279). -/
def winRecords (t : Nat) (o : WindowOp) (d : Win) (s : State) : List ChanRec × State :=
  (List.range d.outC).foldl (fun (r : List ChanRec × State) c =>
    let x := readRecord t (o.records + 8 * c) r.2
    (r.1 ++ [x.1], x.2)) ([], s)

/-- A row of results, channel by channel, requantised to a width (R280). -/
def winRequant (rs : List ChanRec) (d : Win) (w : Nat) (vs : List Nat) : List (Int × Bool) :=
  ((List.range vs.length).zip vs).map fun e => requant (rs.getD (e.1 / d.outW) ⟨0, 0, 0, false⟩) w (signed 32 e.2)

/-- Results are left in registers, or written as INT8 codes or as a quantised tensor under R320 with PH = OUT_ROWS (R331). -/
def winPut (t : Nat) (o : WindowOp) (d : Win) (k : Kernel) (oy : Nat) (vs : List Nat) (s : State) : State :=
  let y := oy - d.row0
  match o.post with
  | .regs dst => setLanes t (256 * dst + y * d.outC * d.outW) vs s
  | .requant8 =>
    let r := winRecords t o d s
    let outs := winRequant r.1 d 8 vs
    let s := countLanes t (outs.filter (·.2)).length 0 r.2
    (List.range d.outC).foldl (fun s c =>
      sramWrite t (d.outBase + (c * d.rows + y) * elemPitch .int8 d.outW)
        (padRow (elemPitch .int8 d.outW) (((outs.drop (c * d.outW)).take d.outW).map fun x => BitVec.ofNat 8 (wrap 8 x.1))) s) s
  | .quantise point fmt =>
    let r := if d.fmt = 2 then ([], s) else winRecords t o d s
    let outs := winRequant r.1 d 32 vs
    let words := if d.fmt = 2 then vs else outs.map fun x => wrap 32 x.1
    let s := if d.fmt = 2 then s else countLanes t (outs.filter (·.2)).length 0 r.2
    (List.range d.outC).foldl (fun s c =>
      let r := quantThrough t point fmt 32 (d.fmt == 2) ((words.drop (c * d.outW)).take d.outW) k s
      let ep := elemPitch fmt d.outW
      let bytes := fmt.pack ((r.1.flatMap (·.codes)).take d.outW)
      let scs := r.1.flatMap fun x => leBytes 1 x.scale
      r.2 |> sramWrite t (d.outBase + (c * d.rows + y) * ep) (padRow ep bytes)
        |> sramWrite t (d.outScale + (c * d.rows + y) * scalePitch d.outW)
          (padRow (scalePitch d.outW) scs)) s

/-- Are the halo rows that an output row needs posted (R336)? -/
def winReady (s : State) (t : Nat) (o : WindowOp) (d : Win) (oy : Nat) : Bool :=
  (d.needs oy).all fun iy =>
    match d.rowAt iy with
    | some (some _, j) =>
      if iy < d.inRow0 then decide (o.biasUp + j + 1 ≤ haloValue s t d.ctrUp) else decide (o.biasDown + j + 1 ≤ haloValue s t d.ctrDown)
    | _ => true

/-- May the kernel read the rows that an output row needs? 0 yes, 1 refused here, 4 refused elsewhere; the tile that refused. -/
def winReads (s : State) (t : Nat) (d : Win) (k : Kernel) (oy : Nat) : Nat × Nat :=
  (d.needs oy).foldl (fun r iy =>
    if r.1 ≠ 0 then r
    else match d.rowAt iy with
    | some (u, j) =>
      let ok (a n : Nat) : Bool :=
        match u with
        | none => ownOk s k false a n
        | some u => tileLive s u && admits s u k.launch.ctx && sramOk s (farRegions s k u) k.launch.ctx false a n
      let all := (List.range d.inC).all fun c =>
        ok (d.inBase + (c * d.stripeH + j) * elemPitch d.elem d.inW) (d.elem.bytes d.inW) &&
          (d.fmt != 0 || ok (d.inScale + (c * d.stripeH + j) * scalePitch d.inW) (ceilDiv d.inW 32))
      if all then r else (if u.isNone then 1 else 4, u.getD t)
    | none => (1, t)) (0, t)

/-- May the kernel write an output row? -/
def winWrites (s : State) (k : Kernel) (o : WindowOp) (d : Win) (oy : Nat) : Bool :=
  let y := oy - d.row0
  match o.post with
  | .regs _ => true
  | .requant8 => (List.range d.outC).all fun c =>
      ownOk s k true (d.outBase + (c * d.rows + y) * elemPitch .int8 d.outW) (elemPitch .int8 d.outW)
  | .quantise _ fmt => (List.range d.outC).all fun c =>
      ownOk s k true (d.outBase + (c * d.rows + y) * elemPitch fmt d.outW) (elemPitch fmt d.outW) &&
        ownOk s k true (d.outScale + (c * d.rows + y) * scalePitch d.outW) (scalePitch d.outW)

/-- The unit that a window operator goes to: the matrix array, or the vector engine (R324, R332). -/
def winUnit (d : Win) : Nat := if d.onArray then unitMatrix else unitVector

/-- Do the results of a window operator leave the registers? -/
def postWrites (p : WindowPost) : Bool :=
  match p with
  | .regs _ => false
  | _ => true

/-- Output rows from oy on, until one waits for a halo row (R335, R336). A row is posted once it is written, so one that stays in registers is
not (R336). -/
def winRows (t : Nat) (i : Issue) (o : WindowOp) (bs : List Byte) (es : List Int) (k : Kernel) : Nat → Nat → State → Ran
  | 0, _, s => ⟨0, s⟩
  | n + 1, oy, s =>
    let d := winOf bs
    if !winReady s t o d oy then ⟨8, updTile t (fun x => { x with waits := x.waits ++ [.window o bs (winUnit d) oy i] }) s⟩
    else
      let rd_ := winReads s t d k oy
      if rd_.1 = 1 then ⟨1, s⟩
      else if rd_.1 = 4 then
        ⟨4, s |> bump (pgTsp rd_.2) Off.TSP_CNT_REGION_FAULT 1 |> raise (pgTsp rd_.2) Evt.TSP_REGION_FAULT⟩
      else if !winWrites s k o d oy then ⟨1, s⟩
      else
        let rs := winRow s t o d es oy
        let s := winCount t d (rs.foldl (fun n r => n + r.2) 0) (winNans s t d oy) oy s |> winPorts t o d oy |> winPut t o d k oy (rs.map (·.1))
        let s := if d.postRows && postWrites o.post then
            o.posts.foldl (fun s p => if p.1 < 64 ∧ p.2 < 64 then haloPostTo t p.1 p.2 1 k.launch.ctx s else s) s
          else s
        winRows t i o bs es k n (oy + 1) s

/-- Do the weights and records of a window operator suit it, and may the kernel read them? 0 yes, 1 REGION, 2 ILLEGAL. -/
def winOperands (s : State) (k : Kernel) (o : WindowOp) (d : Win) : Nat :=
  let postOk := match o.post with
    | .regs dst => decide (256 * dst + d.rows * d.outC * d.outW ≤ 8192)
    | .requant8 => d.fmt != 2
    | .quantise p f => decide (p < 16) && quantFmt f && f.blocked
  let fmtOk := if 3 ≤ d.op then true
    else if d.onArray then pairOk o.wFmt (if d.fmt = 2 then .bf16 else d.elem) else o.wFmt == .int8 || o.wFmt == .int4
  let usesRecords := match o.post with
    | .regs _ => decide (d.op < 3) && d.fmt != 2
    | _ => d.fmt != 2
  if !postOk || !fmtOk then 2
  else if 3 ≤ d.op then (if !usesRecords || ownOk s k false o.records (8 * d.outC) then 0 else 1)
  else if ownOk s k false o.weights (winWeights o d) && ownOk s k false o.wScale (winScales o d) &&
      (!usesRecords || ownOk s k false o.records (8 * d.outC)) then 0
  else 1

/-- A window instruction, from its descriptor. -/
def windowRun (t : Nat) (i : Issue) (o : WindowOp) (k : Kernel) (s : State) : Ran :=
  if !ownOk s k false o.desc 64 then ⟨1, s⟩
  else
    let bs := sramRead s t o.desc 64
    let d := winOf bs
    if !d.tileOk then ⟨2, s⟩
    else
      let c := winOperands s k o d
      if c ≠ 0 then ⟨c, s⟩
      else
        let e := winExps t o d s
        let s := match o.post with
          | .quantise p _ => quantNames t p k e.2
          | _ => e.2
        winRows t i o bs e.1 k d.rows d.row0 s

/-- WINDOW_INSTRUCTION: the descriptor is checked and the operator runs (R325). -/
def execWindowInstruction (t : Nat) (i : Issue) (o : WindowOp) (s : State) : State :=
  let u := winUnit (winOf (sramRead s t o.desc 64))
  issue t { unitEntry u i with writes := postWrites o.post } i (unitFree u) (windowRun t i o) s

/-- Does a window operator wait, and for rows that are there now? -/
def windowMet (s : State) (t : Nat) (w : TileWait) : Bool :=
  match w with
  | .window o bs _ oy _ => winReady s t o (winOf bs) oy
  | _ => false

/-- Window operators that waited for a halo row go on, from the descriptor as it stood when they issued (R325, R336). -/
def windowResume (t : Nat) (s : State) : State :=
  ((tileOf s t).waits.filter (windowMet s t)).foldl (fun s w =>
    match w, (tileOf s t).kernel with
    | .window o bs u oy i, some k =>
      let d := winOf bs
      let s := updTile t (fun x => { x with waits := x.waits.erase w }) s
      let e := winExps t o d s
      ranEnd t u i (winRows t i o bs e.1 k (d.row0 + d.rows - oy) oy e.2)
    | _, _ => s) s

/-! ## SET and the commit of a POST (R248) -/

/-- SET: the sync unit sets a counter of its tile (R248, R250). -/
def execSet (t : Nat) (i : Issue) (n v : Nat) (s : State) : State :=
  issue t (unitEntry unitSync i) i syncFree (fun k s => if 64 ≤ n then ⟨2, s⟩ else ⟨0, haloSet t n (v % 2 ^ 32) k.launch.ctx s |> windowResume t⟩) s

/-- A POST at its target: a fenced or unpowered tile discards it. -/
def haloCommit (p : HaloPost) (s : State) : State :=
  if tileLive s p.target && admits s p.target p.ctx then haloAdd p s |> windowResume p.target else s

/-- Does a tile with a lower number have a post that is due at the same counter's tile and has not been applied (R37)? -/
def postBefore (s : State) (t : Nat) (p : HaloPost) : Bool :=
  (List.range t).any fun u => (tileOf s u).posts.any fun x => x.target == p.target && decide (x.due ≤ beatNo s)

/-- The beat in which tile t sent a post. -/
def postSent (t : Nat) (p : HaloPost) : Nat := p.due - postBeats t p.target

/-- May a post of tile t commit now: in beat s + L, or later while it has not been discarded (R35, R38, R39), after those of senders before
it (R37); at a relaxed island on arrival (R40)? Its target has held the beat number for a whole beat (R32). -/
def postDue (s : State) (t : Nat) (p : HaloPost) : Bool :=
  (relaxed s p.target || (decide (p.due ≤ beatNo s) && !postBefore s t p)) && decide (beatNo s ≤ postSent t p + 192) &&
    heldWhole s (pagePower (pgTsp p.target)) 0

/-- A post commits at its counter, and waiting units resume. One that comes from another die after its beat is a late commit (R38). -/
def postCommit (t : Nat) (p : HaloPost) (s : State) : State :=
  let late := decide (p.due < beatNo s) && t / 16 != p.target / 16 && !relaxed s p.target
  let s := updTile t (fun x => { x with posts := x.posts.erase p }) s |> flitsPass (t / 16) (p.target / 16) 1 |> haloCommit p
  if late then lateMark t p.target (postSent t p) s else s

/-- HALO_POST_COMMIT: the oldest post of a tile that may commit does so. -/
def execHaloPostCommit (t : Nat) (s : State) : State :=
  match (tileOf s t).posts.find? (postDue s t) with
  | none => s
  | some p => postCommit t p s

/-- A beat ends: no post on a die is late, so those that are due have committed by now, and a post that has not been delivered 192 beats
after its send beat is discarded (R36, R38, R39, R254). -/
def postsEnd (s : State) : State :=
  (s.tiles.map (·.1)).foldl (fun s t =>
    let near (p : HaloPost) : Bool := t / 16 == p.target / 16 && decide (p.due ≤ beatNo s)
    let s := ((tileOf s t).posts.filter near).foldl (fun s p => postCommit t p s) s
    updTile t (fun x => { x with posts := x.posts.filter fun p => decide (beatNo s < postSent t p + 192) }) s) s

/-! ## The stream transpose (R322) -/

/-- The slot that converts a queue's blocks. -/
def xposeSlot (s : State) (t q : Nat) : Option Nat :=
  (List.range 4).find? fun n =>
    flag s (pgTsp t) (Off.TSP_XPOSE_CFG + 0x10 * n) 31 && fld s (pgTsp t) (Off.TSP_XPOSE_CFG + 0x10 * n) 0 18 == q

/-- A slot's BASE, GEOM and ROWS, which a block that begins to arrive keeps. -/
def xposeLatch (s : State) (t n : Nat) : List Nat :=
  [Off.TSP_XPOSE_BASE, Off.TSP_XPOSE_GEOM, Off.TSP_XPOSE_ROWS].map fun o => (rd s (pgTsp t) (o + 0x10 * n)).toNat

/-- Bytes of a block delivered at `off` of its destination `a` are converted to planar layout under the region check; a block whose
length or place is no multiple of a pixel is discarded whole. Answers false where the region check refuses. -/
def xposeBytes (t c : Nat) (cfg : List Nat) (a total off : Nat) (bs : List Byte) (s : State) : Bool × State :=
  let p := pgTsp t
  let base := bitsAt (cfg.getD 0 0) 0 24
  let b := 2 ^ bitsAt (cfg.getD 1 0) 13 2
  let cb := bitsAt (cfg.getD 1 0) 0 13 * b
  let w := bitsAt (cfg.getD 1 0) 16 16
  let ph := bitsAt (cfg.getD 2 0) 0 16
  let ep := 64 * ceilDiv (w * b) 64
  if a < base ∨ total % cb ≠ 0 ∨ (a - base) % cb ≠ 0 then
    (true, if off = 0 then s |> bump p Off.TSP_CNT_XPOSE_REFUSED 1 |> raise p Evt.TSP_XPOSE_REFUSED else s)
  else
    let at_ (k : Nat) : Nat :=
      let o := a - base + off + k
      base + (o % cb / b * ph + o / cb / w) * ep + o / cb % w * b + o % b
    if !((List.range bs.length).all fun k => sramOk s (openRegions s t) c true (at_ k) 1) then (false, s)
    else
      let s := ((List.range bs.length).zip bs).foldl (fun s e => sramWrite t (at_ e.1) [e.2] s) s
      (true, if off + bs.length = total then bump p Off.TSP_CNT_XPOSE_BLOCKS 1 s else s)

/-- A write to a tile stream port page register. -/
def tspRegWrite (w : Func) (t off : Nat) (v : Word) (s : State) : State :=
  let p := pgTsp t
  let no := bump p Off.TSP_CNT_CFG_REFUSED 1 s
  if 0x100 ≤ off ∧ off < 0x180 then tileRegionWrite t off v s
  else if 0x400 ≤ off ∧ off < 0x440 then
    match off % 0x10 with
    | 4 =>
      if fieldOf v 0 13 = 0 ∨ 4096 < fieldOf v 0 13 ∨ fieldOf v 13 2 = 3 ∨ fieldOf v 16 16 = 0 then no else plainWrite p off v s
    | 8 => if fieldOf v 0 16 = 0 then no else plainWrite p off v s
    | _ => plainWrite p off v s
  else if off = Off.TSP_POOL_CFG then (if 3072 < fieldOf v 0 12 then no else plainWrite p off v s)
  else if off = Off.TSP_POOL_CMD then poolCmd w t v s
  else plainWrite p off v s

/-- A write to a matrix array page register; a write of the deal entry while the deal is armed is ignored and counts as an access error
(R47). -/
def mxRegWrite (w : Func) (t off : Nat) (v : Word) (s : State) : State :=
  let p := pgMx t
  if off = Off.TILE_CLK then clkWrite false t v s
  else if off = Off.TILE_LAUNCH + 28 then tileLaunchWrite t v s
  else if Off.TILE_DEAL_ENTRY ≤ off ∧ off < Off.TILE_DEAL_ENTRY + 32 then
    if flag s p Off.DEAL_CTRL 0 then accessError 5 w (pageBase p + off) s else plainWrite p off v s
  else plainWrite p off v s

/-- A write to a mesh network page register. -/
def meshRegWrite (d off : Nat) (v : Word) (s : State) : State :=
  if off = Off.NOC_CLK then clkWrite true d v s else plainWrite (pgMesh d) off v s

end Sys2Proof.Machine
end

