-- ==== Sys2Proof/Machine/Stem.lean ====
section
/-! DEFINITION. The stem engines: job entries, the job's checks, rows from tile SRAM and from pipeline lines, its end (R338–R346). -/
namespace Sys2Proof.Machine

def StemSt.empty : StemSt := { fifo := [], job := none, comps := [], ends := [], ended := none, sram := [] }
def stemOf (s : State) (d : Nat) : StemSt := sget StemSt.empty s.stems d
def updStem (d : Nat) (f : StemSt → StemSt) (s : State) : State :=
  { s with stems := sset StemSt.empty s.stems d (f (stemOf s d)) }
def stemLive (s : State) (d : Nat) : Bool := decide (d < 4) && pageOn s (pgStem d)

/-! ## Job entries (R340, R342) -/

def Launch.src (l : Launch) : Nat := bitsAt (l.word 0) 0 8
def Launch.srcId (l : Launch) : Nat := bitsAt (l.word 0) 8 8
def Launch.destTile (l : Launch) : Nat := bitsAt (l.word 0) 16 8
def Launch.paramTile (l : Launch) : Nat := bitsAt (l.word 0) 24 8
def Launch.post (l : Launch) : Bool := bitAt (l.word 1) 18
def Launch.ctr (l : Launch) : Nat := bitsAt (l.word 1) 24 8
def Launch.stemTag (l : Launch) : Nat := l.word 4
def Launch.stemQueue (l : Launch) : Nat := bitsAt (l.word 5) 0 18

/-- Does a job entry meet R342, but for room in the FIFO? -/
def jobOk (s : State) (l : Launch) : Bool :=
  bitsAt (l.word 1) 19 5 == 0 && bitsAt (l.word 5) 18 14 == 0 && l.word 6 == 0 && l.word 7 == 0 && ctxExists s l.ctx &&
    (ctxSlot s l.ctx).isSome

/-- A job reaches a stem engine's FIFO: whether it was pushed. -/
def jobPush (d : Nat) (words : List Nat) (queue : Option Nat) (s : State) : Bool × State :=
  let l : Launch := { words, queue, beat := beatNo s }
  if jobOk s l && !fdOwnsStem s d l.ctx then
    (false, s |> bump (pgStem d) Off.STEM_CNT_JOB_REFUSED 1 |> raise (pgStem d) Evt.STEM_JOB_REFUSED
      |> bump pgMb Off.MB_CNT_FD_REFUSED 1)
  else if (stemOf s d).fifo.length < 8 && jobOk s l then (true, updStem d (fun x => { x with fifo := x.fifo ++ [l] }) s)
  else (false, s |> bump (pgStem d) Off.STEM_CNT_JOB_REFUSED 1 |> raise (pgStem d) Evt.STEM_JOB_REFUSED)

/-- The entry in the STEM_JOB registers reaches the FIFO. -/
def stemJobRegs (d : Nat) (s : State) : State := (jobPush d (eightWords s (pgStem d) Off.STEM_JOB) none s).2

/-- A write of STEM_JOB_7. -/
def stemJobWrite (d : Nat) (v : Word) (s : State) : State := stemJobRegs d (wr (pgStem d) (Off.STEM_JOB + 28) v s)

/-- STEM_JOB_PUSH: a write of STEM_JOB_7. -/
def execStemJobPush (w : Func) (d : Nat) (v : Word) (s : State) : State :=
  access w (pgStem d) (Off.STEM_JOB + 28) v (stemJobWrite d v) s

/-- What deal ACTION JOB does: whether the job was refused, which also sets DEAL_MISSED (R342), and the state after. -/
def dealJob (d : Nat) (s : State) : Bool × State :=
  let r := jobPush d (eightWords s (pgStem d) Off.STEM_DEAL_ENTRY) none s
  (!r.1, r.2)

/-- A write to a stem page register; a write of the deal entry while the deal is armed is ignored and counts as an access error (R47). -/
def stemRegWrite (w : Func) (d off : Nat) (v : Word) (s : State) : State :=
  if off = Off.STEM_JOB + 28 then stemJobWrite d v s
  else if Off.STEM_DEAL_ENTRY ≤ off ∧ off < Off.STEM_DEAL_ENTRY + 32 then
    if flag s (pgStem d) Off.DEAL_CTRL 0 then accessError 5 w (pageBase (pgStem d) + off) s else plainWrite (pgStem d) off v s
  else plainWrite (pgStem d) off v s

/-! ## The job (R338, R343) -/

/-- Global number of a tile on the engine's die. -/
def dieTile (d k : Nat) : Nat := 16 * d + k

/-- The descriptor of a job that starts, as it stands in its parameter tile, and that of a running job (R343). -/
def stemDesc (s : State) (d : Nat) (l : Launch) : List Byte := sramRead s (dieTile d l.paramTile) (l.word 2) 64
def stemWin (s : State) (d : Nat) (l : Launch) : Win := winOf (stemDesc s d l)
def StemJob.win (j : StemJob) : Win := winOf j.desc

def stemTaps (w : Win) : Nat := w.inC * w.kh * w.kw
/-- Bytes of the weight plane, and where the channel records follow (R341). -/
def stemPlane (w : Win) : Nat := weightPitch .int8 (stemTaps w) * w.outC
def stemRecords (l : Launch) (w : Win) : Nat := 64 * ceilDiv (l.word 3 + stemPlane w) 64

/-- The weight plane and the channel records of a job that starts. -/
def stemParams (s : State) (d : Nat) (l : Launch) : List Byte :=
  let w := stemWin s d l
  sramRead s (dieTile d l.paramTile) (l.word 3) (stemRecords l w + 8 * w.outC - l.word 3)

/-- The weight codes and the record of an output channel of a running job. -/
def StemJob.codes (j : StemJob) (c : Nat) : List Int :=
  let n := weightPitch .int8 (stemTaps j.win)
  let bs := (j.params.drop (n * c)).take n
  (List.range (stemTaps j.win)).map fun i => Elem.int8.code (Elem.int8.get bs i)
def StemJob.record (j : StemJob) (c : Nat) : ChanRec :=
  chanRec ((j.params.drop (stemRecords j.launch j.win - j.launch.word 3 + 8 * c)).take 8)

/-- May the job's context access SRAM of a tile of the die? -/
def stemMay (s : State) (d k c : Nat) (write : Bool) (a n : Nat) : Bool :=
  let t := dieTile d k
  decide (k < 16) && tileLive s t && admits s t c && sramOk s (openRegions s t) c write a n

/-- The checks of R325, R338, R340 and R343 on a job: 0, REGION or ILLEGAL. -/
def stemCheck (s : State) (d : Nat) (l : Launch) : Nat :=
  if 2 < l.src ∨ 16 ≤ l.destTile ∨ 16 ≤ l.paramTile ∨ 64 ≤ l.ctr ∨ l.word 2 % 64 ≠ 0 ∨ l.word 3 % 64 ≠ 0 ∨
      (if l.src = 0 then 16 ≤ l.srcId else 8 ≤ l.srcId) then 2
  else if !stemMay s d l.paramTile l.ctx false (l.word 2) 64 then 1
  else
    let w := stemWin s d l
    let p := pgIsp (l.src - 1)
    let o := 0x40 * l.srcId
    let srcOk :=
      if l.src = 0 then w.nbUp == 0xFF && w.nbDown == 0xFF
      else
        pagePresent s.part p && pageOn s p && flag s p (Off.ISP_OUT_CFG + o) 7 && fld s p (Off.ISP_OUT_CFG + o) 8 2 == d &&
          fld s p (Off.ISP_OUT_CFG + o) 5 2 == 2 && w.inW == fld s p (Off.ISP_OUT_SIZE + o) 0 13 &&
          w.inH == fld s p (Off.ISP_OUT_SIZE + o) 16 13 && w.inC == 3
    if !w.ok || w.op != 7 || decide (1 < w.fmt) || (decide (4 < w.inC) && decide (8 < w.outC)) || decide (4096 < stemTaps w) ||
        decide (65536 < stemPlane w) || !srcOk then 2
    else if !stemMay s d l.paramTile l.ctx false (l.word 3) (stemPlane w) ||
        !stemMay s d l.paramTile l.ctx false (stemRecords l w) (8 * w.outC) then 1
    else 0

/-- The job leaves the engine with a status (R344): record, events, counters, fault record. -/
def finishJob (d status : Nat) (s : State) : State :=
  match (stemOf s d).job with
  | none => s
  | some j =>
    let l := j.launch
    let p := pgStem d
    let s := updStem d (fun x => { x with job := none, ends := x.ends ++ l.queue.toList, ended := some s.tt.beats }) s
      |> endCmd p 0 |> setFlag p Off.STATUS 8 false |> bump p Off.STEM_CNT_JOBS 1
    let s := if l.record then
        updStem d (fun x => { x with comps := x.comps ++
          [(l.stemQueue, l.ctx, completionBytes l l.stemTag (0x40 + d) status j.startTt (64 * beatNo s) 0 0)] }) s
      else s
    let s := if l.event then raise p Evt.STEM_JOB_DONE s else s
    let rec_ (sev : Nat) (s : State) : State :=
      formRec (mkRec 0xA status sev (68 + d) (ctxTenant s l.ctx) (64 + d) l.ctx 0 l.stemTag) s
    match status with
    | 0 => s
    | 3 => rec_ 2 s
    | 4 => s |> bump p Off.STEM_CNT_DROPPED 1 |> raise p Evt.STEM_DROPPED |> rec_ 1
    | _ => s |> bump p Off.STEM_CNT_FAULTS 1 |> raise p Evt.STEM_JOB_FAULT |> rec_ 1

/-- STEM_JOB_START: the oldest job starts, reads its descriptor and weights and checks them; a job on tile SRAM is accepted at once (R343).
After a job's end the next one starts at the next beat boundary at the earliest. -/
def execStemJobStart (d : Nat) (s : State) : State :=
  match (stemOf s d).job, (stemOf s d).fifo with
  | none, l :: rest =>
    if !(stemLive s d && enabledFor s (pgStem d) l.ctx) || (stemOf s d).ended == some s.tt.beats then s
    else
      let c := stemCheck s d l
      let j : StemJob := { launch := l, startTt := 64 * beatNo s, desc := stemDesc s d l, params := if c = 0 then stemParams s d l else []
                           accepted := l.src == 0, frame := none, lines := 0, row := (stemWin s d l).row0 }
      let s := updStem d (fun x => { x with fifo := rest, job := some j }) s |> setFlag (pgStem d) Off.STATUS 8 true
      if c ≠ 0 then finishJob d c s else if l.src = 0 then startCmd (pgStem d) 0 s else s
  | _, _ => s

/-! ## Rows (R338, R339) -/

/-- The held lines of the bound frame. -/
def stemHeld (s : State) (d : Nat) : List OutLine :=
  match (stemOf s d).job with
  | some j =>
    match j.frame with
    | some (f, _) => (sget [] (ispOf s (j.launch.src - 1)).outBuf j.launch.srcId).filter fun x => x.taken && x.frame == f
    | none => []
  | none => []

/-- Element (channel, row, column) of the held lines: rows of the planes in order, then scale rows (R217), which INT8 input does not have
(R331, R339). -/
def lineSource (scaled : Bool) (ls : List OutLine) : Source := fun c y x =>
  match ls.find? fun l => l.line == y with
  | none => (0, 127)
  | some l =>
    let byte (k i : Nat) : Nat := (((l.segs.getD k (0, [])).2).getD i 0).toNat
    (byte c x, if scaled then byte (3 + c) (x / 32) else 127)

/-- The pixels that a pass takes at a time. -/
def passWidth (n : Nat) : Nat := 16 * 2 ^ log2 (16 / n)

/-- May a job on tile SRAM read the input rows that an output row needs (R335, R340)? -/
def stemReads (s : State) (d : Nat) (j : StemJob) (oy : Nat) : Bool :=
  let w := j.win
  let l := j.launch
  l.src != 0 || (w.needs oy).all fun iy => (List.range w.inC).all fun c =>
    let y := c * w.stripeH + (iy - w.inRow0)
    stemMay s d l.srcId l.ctx false (w.inBase + y * elemPitch w.elem w.inW) (w.elem.bytes w.inW) &&
      (w.fmt != 0 || stemMay s d l.srcId l.ctx false (w.inScale + y * scalePitch w.inW) (ceilDiv w.inW 32))

/-- One output row of the running job: computed, requantised and written to its tile with a post, or a REGION fault. -/
def stemRow (d : Nat) (j : StemJob) (src : Source) (oy : Nat) (s : State) : Bool × State :=
  let l := j.launch
  let w := j.win
  let dt := dieTile d l.destTile
  let y := oy - w.row0
  let fo : Elem := if w.outInt8 then .int8 else .mxint8
  let ep := elemPitch fo w.outW
  let sp := scalePitch w.outW
  let may := (List.range w.outC).all fun c =>
    stemMay s d l.destTile l.ctx true (w.outBase + (c * w.rows + y) * ep) ep &&
      (w.outInt8 || stemMay s d l.destTile l.ctx true (w.outScale + (c * w.rows + y) * sp) sp)
  if !may || !stemReads s d j oy then (false, s)
  else
    let flat := fld s (pgVe dt) Off.VE_FLAT 0 8
    let one (c : Nat) : List (Int × Nat) :=
      let rec1 := j.record c
      let codes := j.codes c
      (List.range w.outW).map fun ox =>
        let v := w.convPixel src codes 0 w.inC rec1.exp oy ox
        let r := requant rec1 (if w.outInt8 then 8 else 32) (signed 32 v.1)
        (r.1, v.2 + ofBool r.2)
    let rows := (List.range w.outC).map one
    let sats := rows.foldl (fun n r => n + r.foldl (fun n x => n + x.2) 0) 0
    let skips := (List.range (ceilDiv w.outC 16)).foldl (fun n p =>
      n + w.skips (passWidth (Nat.min 16 (w.outC - 16 * p))) w.inC oy) 0
    let s := s |> bump (pgStem d) Off.STEM_CNT_SAT sats |> bump (pgStem d) Off.STEM_CNT_TAP_SKIP skips
    let s := ((List.range w.outC).zip rows).foldl (fun s e =>
      let at_ := w.outBase + (e.1 * w.rows + y) * ep
      if w.outInt8 then
        let bs := e.2.map fun x => BitVec.ofNat 8 (wrap 8 x.1)
        sramWrite dt at_ (bs ++ List.replicate (ep - bs.length) 0) s
      else
        let q := quantAll .mxint8 32 none flat (e.2.map fun x => fvOf x.1 0)
        let bs := Elem.mxint8.pack ((q.flatMap (·.codes)).take w.outW)
        let ss := q.flatMap fun x => leBytes 1 x.scale
        s |> sramWrite dt at_ (bs ++ List.replicate (ep - bs.length) 0)
          |> sramWrite dt (w.outScale + (e.1 * w.rows + y) * sp) (ss ++ List.replicate (sp - ss.length) 0)) s
    let s := updStem d (fun x => { x with job := x.job.map fun j => { j with row := oy + 1 } }) s
      |> flitsPass d d (dataFlits (w.outC * (ep + if w.outInt8 then 0 else sp)))
    (true, if l.post then haloSend dt ⟨dt, l.ctr, 1, l.ctx, beatNo s + 2⟩ s else s)

/-- Rows of the running job as far as the source reaches; false after a REGION fault. -/
def stemRows (d : Nat) (j : StemJob) (src : Source) (ready : Nat → Bool) : Nat → Nat → State → Bool × State
  | 0, _, s => (true, s)
  | n + 1, oy, s =>
    if !ready oy then (true, s)
    else
      let r := stemRow d j src oy s
      if r.1 then stemRows d j src ready n (oy + 1) r.2 else r

/-- The rows that still follow a job's next one. -/
def rowsLeft (w : Win) (j : StemJob) : Nat := w.row0 + w.rows - j.row

/-- Lines that no later output row needs are freed in the output buffer (R343). -/
def stemFree (d : Nat) (s : State) : State :=
  match (stemOf s d).job with
  | none => s
  | some j =>
    let w := j.win
    let needed (y : Nat) : Bool := (rangeFrom j.row (rowsLeft w j)).any fun oy => (w.needs oy).contains y
    let n := j.launch.src - 1
    let st := ispOf s n
    let keep (x : OutLine) : Bool := !x.taken || (j.frame.map (·.1) == some x.frame && needed x.line)
    setIsp n { st with outBuf := sset [] st.outBuf j.launch.srcId ((sget [] st.outBuf j.launch.srcId).filter keep) } s

/-- Lines held for the engine are freed when its job ends. -/
def stemRelease (l : Launch) (s : State) : State :=
  if l.src = 0 ∨ 2 < l.src then s
  else
    let n := l.src - 1
    let st := ispOf s n
    setIsp n { st with outBuf := sset [] st.outBuf l.srcId ((sget [] st.outBuf l.srcId).filter fun x => !x.taken) } s

/-- The oldest line of an output that has not committed at the engine. -/
def nextLine (s : State) (n o : Nat) : Option OutLine := (sget [] (ispOf s n).outBuf o).find? fun x => !x.taken && x.queue.isNone

/-- The oldest waiting line of an output is taken or freed. -/
def lineTake (n o : Nat) (keep : Bool) (s : State) : State :=
  let st := ispOf s n
  let ls := sget [] st.outBuf o
  let ls :=
    if keep then updFirst (fun x => !x.taken && x.queue.isNone) (fun x => { x with taken := true }) ls
    else ls.eraseP fun x => !x.taken && x.queue.isNone
  setIsp n { st with outBuf := sset [] st.outBuf o ls } s |> ispSettle n

/-- A line that no job takes is freed and counted. -/
def lineUnbound (d n o : Nat) (s : State) : State := lineTake n o false s |> bump (pgStem d) Off.STEM_CNT_UNBOUND_LINES 1

/-- Rows that the committed lines allow, and the lines they free. -/
def stemGo (d : Nat) (s : State) : State :=
  match (stemOf s d).job with
  | none => s
  | some j =>
    let w := j.win
    let r := stemRows d j (lineSource (w.fmt == 0) (stemHeld s d)) (fun oy => (w.needs oy).all fun y => decide (y < j.lines))
      (rowsLeft w j) j.row s
    if r.1 then stemFree d r.2 else stemRelease j.launch (finishJob d 1 r.2)

/-- STEM_LINE_COMMIT: the oldest waiting line of a pipeline output commits at its stem engine: it is bound, used or freed (R343), and
the mark of a dropped frame ends the job with DROPPED (R344). -/
def execStemLineCommit (n o : Nat) (s : State) : State :=
  match nextLine s n o with
  | none => s
  | some x =>
    let d := x.stem
    if !stemLive s d then s
    else match (stemOf s d).job with
    | none => lineUnbound d n o s
    | some j =>
      if j.launch.src ≠ n + 1 ∨ j.launch.srcId ≠ o then lineUnbound d n o s
      else match j.frame with
      | none =>
        if x.line ≠ 0 ∨ x.lost then lineUnbound d n o s
        else
          updStem d (fun y => { y with job := some { j with frame := some (x.frame, x.frameNo), lines := 1, accepted := true } }) s
            |> startCmd (pgStem d) 0 |> lineTake n o true |> stemGo d
      | some (f, _) =>
        if x.frame ≠ f then lineUnbound d n o s
        else if x.lost then lineTake n o false s |> finishJob d 4 |> stemRelease j.launch
        else
          updStem d (fun y => { y with job := some { j with lines := x.line + 1 } }) s |> lineTake n o true |> stemGo d

/-- STEM_JOB_END: a job on tile SRAM runs its rows; a job whose rows are all written ends with OK (R344). -/
def execStemJobEnd (d : Nat) (s : State) : State :=
  match (stemOf s d).job with
  | none => s
  | some j =>
    if !stemLive s d then s
    else
      let l := j.launch
      let w := j.win
      if l.src = 0 then
        let r := stemRows d j (w.source s (dieTile d l.srcId)) (fun _ => true) (rowsLeft w j) j.row s
        finishJob d (if r.1 then 0 else 1) r.2
      else if rowsLeft w j = 0 then stemRelease l (finishJob d 0 s)
      else s

end Sys2Proof.Machine
end

