-- ==== Sys2Proof/Machine/Queues.lean ====
section
/-! DEFINITION. Stream queues: block lists, doorbells, FETCH transfers, launches, halts and faults (R408–R432). PUT deliveries and
multicast are in Puts.lean. -/
namespace Sys2Proof.Machine

/-! ## Block descriptors (R411–R415) -/

structure Desc where
  addr : Nat
  dest : Nat
  len : Nat
  key : Nat
  pitch : Int
  rows : Nat
  flags : Nat
  pos : Nat

def descOf (bs : List Byte) : Desc :=
  let f (a n : Nat) : Nat := ofLeBytes ((bs.drop a).take n)
  { addr := f 0 8, dest := f 8 8, len := f 16 3, key := f 19 1, pitch := signed 32 (f 20 4), rows := f 24 2, flags := f 26 2
    pos := f 28 4 }

def Desc.last (d : Desc) : Bool := bitAt d.flags 0
def Desc.reset (d : Desc) : Bool := bitAt d.flags 1
def Desc.fence (d : Desc) : Bool := bitAt d.flags 2
def Desc.rel (d : Desc) : Bool := bitAt d.flags 4
def Desc.tier (d : Desc) : Nat := bitsAt d.flags 5 3
def Desc.codec (d : Desc) : Nat := bitsAt d.flags 8 3
def Desc.space (d : Desc) : Nat := bitsAt d.flags 11 2
def Desc.kind (d : Desc) : Nat := bitsAt d.flags 13 2
def Desc.total (d : Desc) : Nat := d.len * d.rows
/-- Is a transfer of the block one Meld tile? -/
def Desc.meld (d : Desc) : Bool := d.codec != 0 && d.space != 2

/-- The block's first address, under REL (R411). -/
def Desc.base (d : Desc) (r : Queue) : Nat := (d.addr + if d.rel then r.stepBase else 0) % 2 ^ 64
/-- RESET_POS or P0, under REL. -/
def Desc.position (d : Desc) (r : Queue) : Nat := (d.pos + if d.rel then r.stepPos else 0) % 2 ^ 32

/-- The address of byte `off` of the block (R412). -/
def Desc.at (d : Desc) (r : Queue) (off : Nat) : Nat :=
  (((d.base r : Int) + (off / d.len : Nat) * d.pitch + (off % d.len : Nat)) % (2 ^ 64 : Nat)).toNat

/-- The length of the transfer at byte `off` (R414). -/
def Desc.piece (d : Desc) (r : Queue) (off : Nat) : Nat :=
  if d.meld then 4096
  else if d.space = 2 then Nat.min 4096 (d.len - off % d.len)
  else Nat.min (d.len - off % d.len) (4096 - d.at r off % 4096)

/-! ## Endpoints (R409) -/

/-- The page of a queue's endpoint; a copy queue, and one for any tile, stands with its engine. -/
def queuePage (s : State) (q : Nat) (r : Queue) : Page :=
  match r.epType with
  | 1 => if r.epIndex = 0xFF then pgQe (queueMd s q) else pgMx r.epIndex
  | 2 => pgStem r.epIndex
  | 3 => ⟨.csi, r.epIndex / 4⟩
  | 4 => pgIsp (r.epIndex / 8)
  | 5 => pgIsp (r.epIndex / 16)
  | 6 => ⟨.voiceOut, r.epIndex / 2⟩
  | 7 => pgCe
  | 8 => ⟨.mgmtCores, 0⟩
  | _ => pgQe (queueMd s q)

/-- The cause that an endpoint gives a queue's blocks: none, BAD_DESC for a type, index or direction that R409 does not list, ENDPOINT
where the variant has no such endpoint. -/
def endpointCause (s : State) (q : Nat) (r : Queue) : Nat :=
  let put := r.isPut
  let listed := match r.epType with
    | 0 => !put && r.epIndex == 0
    | 1 => decide (r.epIndex < 64) || (put && !r.mcast && r.epIndex == 0xFF)
    | 2 => decide (r.epIndex < 4)
    | 3 => put && decide (r.epIndex < 32)
    | 4 => put && decide (r.epIndex < 16)
    | 5 => put && decide (r.epIndex < 32)
    | 6 => !put && decide (r.epIndex < 4)
    | 7 => !put && r.epIndex == 0
    | 8 => r.epIndex == 0
    | _ => false
  if !listed then 8 else if pagePresent s.part (queuePage s q r) then 0 else 0xC

/-- Does the endpoint take part: on, not quiescing, its domain admitting the queue's context, or draining what it has made (R432, R539,
R540)? -/
def endpointOpen (s : State) (q : Nat) (r : Queue) : Bool :=
  let p := queuePage s q r
  pageOn s p && !quiesced s p &&
    (admits s (pageDomain p) (queueCtx q) || (r.isPut && (phaseOf s (pageDomain p) == 1 || phaseOf s (pageDomain p) == 2)))

/-- Is a queue the scale queue of a pair, or its element queue (R424)? -/
def Queue.isScale (r : Queue) : Bool := bitOf r.ctrl 7 && bitOf r.ctrl 8
def Queue.isElement (r : Queue) : Bool := bitOf r.ctrl 7 && !bitOf r.ctrl 8
def partner (s : State) (q : Nat) (r : Queue) : Queue := queueOf s (queueCtx q * 256 + fieldOf r.ctrl 24 8)

/-- Is a queue not paired, or paired with one that names it in the opposite role (R424)? -/
def partnerOk (s : State) (q : Nat) (r : Queue) : Bool :=
  let p := partner s q r
  !bitOf r.ctrl 7 || (bitOf p.ctrl 7 && fieldOf p.ctrl 24 8 == q % 256 && bitOf p.ctrl 8 != bitOf r.ctrl 8)

/-- Is a key slot one that the root of trust has assigned to the context's tenant for XTS (R414)? -/
def blockKeyOk (s : State) (c k : Nat) : Bool := keyAssigned s k (ctxTenant s c) && (keyOf s k).kind == 0

/-- The cause that a DATA descriptor gives its queue, 0 for none (R411, R414, R415, R518). -/
def dataCause (s : State) (q : Nat) (r : Queue) (d : Desc) : Nat :=
  let put := r.isPut
  let ep := r.epType
  let tiers : List Nat :=
    if put then (if r.mcast && ep == 1 then [1] else [4, 5])
    else if ep = 0 then [3, 4, 5] else if ep = 1 then [0, 1, 2, 3] else [0]
  let homed := (!put || r.mcast) && decide (1 ≤ d.tier) && decide (d.tier ≤ 3)
  let destUsed := !put && ((ep == 1 && d.tier == 0) || ep == 7 || ep == 8 || (ep == 0 && decide (4 ≤ d.tier)))
  let aligned := d.base r % 4096 == 0
  if d.len = 0 ∨ d.rows = 0 ∨ 0xFFFFFFFF < d.total ∨ !tiers.contains d.tier ∨ 5 < d.codec then 8
  else if d.codec = 0 ∧ !(d.space == 1 || (d.space == 2 && !put)) then 8
  else if put && decide (2 ≤ d.space) then 8
  else if d.meld && !(aligned && d.pitch % 4096 == 0 && d.len % 4096 == 0) then 8
  else if d.space = 2 ∧ !aligned then 8
  else if d.space = 3 ∧ d.base r / 2 ^ 57 ≠ 0 then 8
  -- a fill, or a prefetch, has the source slot as its home
  else if homed && !d.meld then 8
  else if d.space = 0 ∧ d.key ≠ 0 then 8
  else if destUsed then (if ep = 0 ∧ d.dest % 4096 ≠ 0 then 8 else if d.meld && d.space != 0 && !blockKeyOk s (queueCtx q) d.key then 0xB else 0)
  else if d.dest ≠ 0 then 8
  else if d.meld && d.space != 0 && !blockKeyOk s (queueCtx q) d.key then 0xB
  else 0

/-- The cause that a descriptor gives its queue when it is read. -/
def descCause (s : State) (q : Nat) (r : Queue) (d : Desc) : Nat :=
  let bare := d.addr == 0 && d.dest == 0 && d.len == 0 && d.key == 0 && d.pitch == 0 && d.rows == 0
  if bitAt d.flags 15 || (d.kind != 0 && (decide (6 ≤ d.tier) || decide (6 ≤ d.codec))) then 8
  else if d.kind = 2 then (if d.base r % 32 = 0 ∧ d.dest = 0 then 0 else 8)
  else if endpointCause s q r ≠ 0 then endpointCause s q r
  else if !partnerOk s q r then 8
  else if d.kind = 3 then (if !bare || d.pos != 0 then 8 else 0)
  else if d.kind = 1 then
    if r.isPut || !(r.epType == 1 || r.epType == 2) || r.isScale || !bare || bitsAt d.flags 5 8 != 0 || d.fence ||
        (d.reset && r.epType == 2) then 8
    else 0
  else dataCause s q r d

/-! ## Positions, faults and events (R426, R430, R456) -/

/-- Does a transfer lie before the queue's position? -/
def Queue.precedes (r : Queue) (x : Xfer) : Bool :=
  let d := (r.head + (2 ^ 32 - x.block)) % 2 ^ 32
  if d = 0 then decide (x.off < r.offset) else decide (d < 2 ^ 31)

/-- HEAD and OFFSET as they read: the next byte to issue, or in a halted or faulted queue the first transfer not complete. -/
def Queue.position (r : Queue) : Nat × Nat :=
  match r.flight with
  | x :: _ => if (r.state == 3 || r.state == 4) && r.precedes x then (x.block, x.off) else (r.head, r.offset)
  | [] => (r.head, r.offset)

/-- The log, the events and the maps of a fault or a halt. -/
def queueReport (q cause : Nat) (s : State) : State :=
  let p := pgQe (queueMd s q)
  let c := queueCtx q
  let l := q % 256
  let s := if flag s p Off.QE_FAULT_LOG 31 then s
    else wr p Off.QE_FAULT_LOG (BitVec.ofNat 32 (q + cause * 2 ^ 18 + 2 ^ 31)) s
  s |> raise p Evt.QE_QUEUE_FAULT |> setFlag (pgCtx c) (Off.CTX_QFAULT + 4 * (l / 32)) (l % 32) true
    |> raise (pgCtx c) Evt.CTX_QUEUE_FAULT

/-- A queue faults with a cause, at the position given or its own (R430). -/
def queueFault (q cause : Nat) (at_ : Option (Nat × Nat)) (s : State) : State :=
  let r := queueOf s q
  let move (r : Queue) : Queue :=
    match at_ with
    | none => r
    | some (b, o) => if r.precedes ⟨0, b, o, 0, 0, 0, [], false, false, [], 0⟩ then { r with head := b, offset := o } else r
  if r.state = 4 then setQueue q (move r) s
  else
    let r := { (move r).withState 4 with cause, desc := none, xlat := false, pri := none, closed := false }
    let pos := r.position
    let md := queueMd s q
    setQueue q r s |> bump (pgQe md) Off.QE_CNT_FAULTS 1 |> queueReport q cause
      |> formRec (mkRec 9 cause 1 (72 + md) (ctxTenant s (queueCtx q)) (68 + md) (queueCtx q) (pos.1 * 2 ^ 32 + pos.2) q)

/-- A queue halts with a cause. -/
def queueHalt (q cause : Nat) (closed : Bool) (s : State) : State :=
  updQueue q (fun r => { r.withState 3 with cause, xlat := false, closed }) s
    |> bump (pgQe (queueMd s q)) Off.QE_CNT_HALTS 1 |> queueReport q cause

/-- The block event of a queue (R414, R434). -/
def queueEvent (q : Nat) (s : State) : State :=
  let c := queueCtx q
  let l := q % 256
  setFlag (pgCtx c) (Off.CTX_QEVT + 4 * (l / 32)) (l % 32) true s |> raise (pgCtx c) Evt.CTX_QUEUE_EVENT

/-! ## What follows from a change (R414, R417, R422, R427, R432) -/

/-- Does a block still wait for a transfer or a multicast copy? -/
def Queue.blockBusy (r : Queue) (b : Nat) : Bool := r.flight.any (fun x => x.block == b) || r.mc.any fun m => m.block == b

/-- A segment of a scale queue is complete: its element queue notes it in the step that both run (R421, R424). -/
def scaleSegment (q : Nat) (r : Queue) (s : State) : State :=
  let e := partner s q r
  if r.isScale && e.isElement && e.seq == r.seq && (e.awake.state == 1 || e.awake.state == 3) then
    updQueue (queueCtx q * 256 + fieldOf r.ctrl 24 8) (fun e => { e with pairDone := e.pairDone + 1 }) s
  else s

/-- Blocks complete in order. -/
def completeBlocks (q : Nat) : List (Nat × Nat) → State → State
  | [], s => updQueue q (fun r => { r with openBlocks := [] }) s
  | (b, f) :: rest, s =>
    let r := queueOf s q
    if r.blockBusy b then updQueue q (fun r => { r with openBlocks := (b, f) :: rest }) s
    else
      let ends := bitsAt f 13 2 != 0 || bitAt f 0
      let s := setQueue q { r with xpose := r.xpose.filter fun e => e.1 != b } s
      let s := if ends then scaleSegment q r s else s
      let s := if bitAt f 3 then queueEvent q s else s
      completeBlocks q rest s

/-- A Trump queue starts its next step (R422). -/
def Queue.startStep (r : Queue) (base pos : Nat) : Queue :=
  { r.withState 1 with stepBase := base, stepPos := pos, head := 0, offset := 0, cursor := r.listBase, desc := none, segment := 0
                       pairDone := 0, finished := false, marks := [], fold := 0, starved := false, rearm := none, xlat := false
                       openBlocks := [], acc := [], accDone := false, leave := false }

/-- Page requests outstanding, of a tenant or of all. -/
def priCount (s : State) (t : Option Nat) : Nat :=
  (s.queues.filter fun e => e.2.pri.isSome && (t.isNone || t == some (ctxTenant s (queueCtx e.1)))).length

/-- The page request of a halted queue leaves once nothing is in flight, within the limits of R446, while its function may ask (R427,
R448). -/
def sendPri (q : Nat) (s : State) : State :=
  let r := queueOf s q
  let t := ctxTenant s (queueCtx q)
  let may := s.host.linkUp && s.boot.phase == .up && decide (2 ≤ pwrState s) && !s.host.d3.contains t && tenantExists s t
  if r.state == 3 && r.cause == 1 && r.pri.isNone && !r.closed && r.flight.isEmpty && may && decide (priCount s none < 512) &&
      (t == 0 || decide (priCount s (some t) < 32)) then
    let p := pgQe (queueMd s q)
    setQueue q { r with pri := some (s.tt.beats + ceilDiv (rd s p Off.QE_PRI_TIMEOUT).toNat 64) } s
      |> bump p Off.QE_CNT_PRI 1 |> bump pgPcie Off.PCIE_CNT_PRI 1
      |> emit (.pageRequest t (match r.desc with
        | some bs => (descOf bs).at r r.offset / 4096 * 4096
        | none => 0))
  else s

/-- The queue becomes idle, dropping what it had not issued; nothing of a time when it was parked stays (R432). -/
def Queue.toIdle (r : Queue) : Queue :=
  { r.withState 0 with ctrl := putField (r.withState 0).ctrl 10 1 0, stopping := false, launch := none, desc := none, rearm := none, xlat := false, pri := none, closed := false
                       openBlocks := [], acc := [], accDone := false, accFrame := none, leave := false, mc := [], finished := false
                       starved := false, resumed := none }

/-- STOP ends, a list ends, a queue parks or leaves PARKED, and a page request leaves. -/
def settleQueue (q : Nat) (s : State) : State :=
  let s := completeBlocks q (queueOf s q).openBlocks s
  let r := queueOf s q
  let still := r.flight.isEmpty && r.mc.isEmpty
  if r.stopping then (if r.flight.isEmpty then setQueue q r.toIdle s else s)
  else
    let s :=
      if r.state == 1 && r.finished && r.openBlocks.isEmpty && r.launch.isNone then
        if r.trump then
          let r := { r with seq := (r.seq + 1) % 65536 }
          match r.rearm with
          | some (b, p) => setQueue q (r.startStep b p) s
          | none => setQueue q (r.withState 2) s
        else if r.sent = r.ended then setQueue q { r.toIdle with seq := (r.seq + 1) % 65536 } s
        else s
      else s
    let s := sendPri q s
    let r := queueOf s q
    let p := queuePage s q r
    if (r.state == 1 || r.state == 2 || r.state == 3) && still && quiesced s p then
      setQueue q { r.withState 5 with before := r.state } s
    else if r.state == 5 && pageOn s p && !quiesced s p then
      setQueue q { r.withState r.before with ctrl := putField (r.withState r.before).ctrl 10 1 0 } s
    else s

/-- Every queue that meets a test settles. -/
def settleQueues (p : Nat → Bool) (s : State) : State :=
  (s.queues.filter fun e => p e.1).foldl (fun s e => settleQueue e.1 s) s

/-! ## Slots (R420, R436, R444) -/

def tenantInFlight (s : State) (md t : Nat) : Nat :=
  (s.queues.filter fun e => queueMd s e.1 == md && ctxTenant s (queueCtx e.1) == t).foldl (fun n e => n + e.2.flight.length) 0
def slotsUsed (s : State) (md : Nat) : Nat :=
  (s.queues.filter fun e => queueMd s e.1 == md).foldl (fun n e => n + e.2.flight.length) 0
def c3Used (s : State) (md : Nat) : Nat :=
  (s.queues.filter fun e => queueMd s e.1 == md).foldl (fun n e => n + (e.2.flight.filter (·.c3)).length) 0

/-- Is the next transfer of a queue prefetch (R420)? -/
def Queue.isC3 (r : Queue) : Bool := decide (r.ended < r.sent)

/-- Is a transfer slot free for the queue's tenant and class in this beat? -/
def slotFree (s : State) (q : Nat) (c3 : Bool) : Bool :=
  let md := queueMd s q
  let t := ctxTenant s (queueCtx q)
  decide (slotsUsed s md < 4096) && decide (tenantInFlight s md t < fld s (pgQe md) (Off.QE_TENANT_SLOTS + 4 * t) 0 13) &&
    (!c3 || decide (c3Used s md < fld s (pgQe md) Off.QE_C3_MAX 0 13)) && fdGrants s t

/-- Is a queue's present segment eligible under the table of R420? -/
def Queue.segmentDue (r : Queue) : Bool := r.trump || r.segment == 0 || r.sent == r.ended

/-- Is the segment at HEAD eligible, in a scale queue when the element queue's is (R420, R424)? -/
def segmentOpen (s : State) (q : Nat) (r : Queue) : Bool :=
  if r.isScale then
    let e := partner s q r
    (e.awake.state == 1 || e.awake.state == 3) && e.seq == r.seq &&
      (decide (r.segment < e.segment) || (r.segment == e.segment && e.segmentDue))
  else r.launch.isNone && r.segmentDue

def xferId (q : Nat) (x : Nat) : Nat := q * 65536 + x % 65536

/-! ## Reading the list (R411–R413) -/

/-- An OUTPUT_DIGEST of a host-bound item (R557); in replay it is compared with the recorded one (R570). -/
def diverge (tt : Nat) (s : State) : State :=
  let s := bump pgHh Off.HH_CNT_DIVERGE 1 s
  if flag s pgHh Off.HH_STATUS 3 then s
  else s |> setFlag pgHh Off.HH_STATUS 3 true |> raise pgHh Evt.HH_DIVERGED
    |> wr64 pgHh Off.HH_DIVERGE_TT_LO Off.HH_DIVERGE_TT_HI tt

def outputDigest (kind unit : Nat) (bs : List Byte) (s : State) : State :=
  let crc := crc32c bs
  if hhMode s = 2 then
    match s.hh.expect.find? fun d => d.kind == kind && d.unit == unit with
    | some d =>
      let s := { s with hh := { s.hh with expect := s.hh.expect.eraseP fun d => d.kind == kind && d.unit == unit } }
      if d.len = bs.length ∧ d.crc = crc then s else diverge d.tt s
    | none => { s with hh := { s.hh with made := s.hh.made ++ [⟨kind, unit, bs.length, crc, 0⟩] } }
  else if flag s pgHh Off.HH_CFG 3 then
    hhCapture 0x50 72 0 (leBytes 4 kind ++ leBytes 4 unit ++ leBytes 4 bs.length ++ leBytes 4 crc) s
  else s

/-- Host read data of an enabled context (R557). -/
def hhHostRead (q a : Nat) (bs : List Byte) (s : State) : State :=
  if hhContext s (queueCtx q) then
    hhCapture 0x12 (68 + queueMd s q) (queueMd s q) (leBytes 8 a ++ leBytes 4 q ++ leBytes 4 0 ++ bs) s
  else s

/-- A host completion that is no data: counted and recorded (R529, R532). -/
def hostError (q a code : Nat) (s : State) : State :=
  let s := if code = 3 then bump pgPcie Off.PCIE_CNT_UR 1 s else s
  let c := queueCtx q
  formRec (mkRec 0xD code 1 0xFF (ctxTenant s c) 72 c a q) s

/-- Bytes of the list at an address: device memory through the kitty, or as the host answered. A host answer of fewer bytes stands for
Unsupported Request, which faults the queue with TRANSLATION (R430; log 48). Answers a fault cause, or the bytes. -/
def listRead (q a n : Nat) (host : List Byte) (s : State) : Except Nat (List Byte) × State :=
  let r := queueOf s q
  if fieldOf r.ctrl 22 2 = 0 then
    let f := memFetch (.ctx (queueCtx q)) (72 + queueMd s q) ⟨none, a / 4096 * 4096⟩ none s
    match f.1 with
    | .tile bs => (.ok ((bs.drop (a % 4096)).take n), f.2)
    | .poison => (.error 7, f.2)
    | _ => (.error 6, f.2)
  else if host.length < n then (.error 5, hostError q a 3 s)
  else (.ok (host.take n), hhHostRead q a (host.take n) s)

/-- The queue moves to its next block; a block that is left joins those that wait to complete. -/
def advance (q size : Nat) (d : Desc) (s : State) : State :=
  updQueue q (fun r =>
    { r with openBlocks := r.openBlocks ++ [(r.head, d.flags)], head := (r.head + 1) % 2 ^ 32, offset := 0
             cursor := (r.cursor + size) % 2 ^ 64, desc := none, starved := false, finished := d.last, leave := false
             marks := if d.kind = 0 ∧ d.reset then r.marks ++ [d.position r] else r.marks }) s

/-- The descriptor at HEAD is read and acted on as far as it needs no transfer: answers whether a DATA block now stands at HEAD. -/
def readBlock (q : Nat) (list : List Byte) (s : State) : Bool × State :=
  let r := queueOf s q
  let p := pgQe (queueMd s q)
  if r.desc.isSome then (true, s)
  else if !r.available r.head then
    (false, if r.starved then s
      else setQueue q { r with starved := true } s |> bump p Off.QE_CNT_STARVED 1 |> raise p Evt.QE_STARVED)
  else if fieldOf r.ctrl 22 2 = 1 ∧ !hostOpen s (ctxTenant s (queueCtx q)) then (false, s)
  else
    let f := listRead q r.cursor 32 list s
    match f.1 with
    | .error e => (false, queueFault q e none f.2)
    | .ok bs =>
      let s := f.2
      let d := descOf bs
      let e := descCause s q r d
      if e ≠ 0 then (false, queueFault q e none s)
      else match d.kind with
      | 2 => (false, updQueue q (fun r => { r with cursor := d.base r }) s)
      | 3 => (false, advance q 32 d s |> updQueue q (fun r => { r with segment := r.segment + 1, marks := [] }) |> settleQueue q)
      | 1 =>
        let g := listRead q (r.cursor + 32) 32 (list.drop 32) s
        match g.1 with
        | .error e => (false, queueFault q e none g.2)
        | .ok entry =>
          (false, updQueue q (fun r =>
            { r with launch := some (entry, d.flags, d.position r), head := (r.head + 1) % 2 ^ 32, offset := 0
                     cursor := (r.cursor + 64) % 2 ^ 64, starved := false, finished := d.last }) g.2)
      | _ =>
        -- after RESUME the position may lie beyond a block that software has shortened (R429)
        if r.offset ≠ 0 ∧ d.total ≤ r.offset then (false, advance q 32 d s |> settleQueue q)
        else (true, updQueue q (fun r => { r with desc := some bs }) s)

/-! ## Issuing (R420, R427) -/

/-- May the engine act for a queue: it runs, and not since a page-request response of this very beat (R428), its context exists, the engine
starts commands and the endpoint takes part? -/
def queueRuns (s : State) (q : Nat) : Bool :=
  let r := queueOf s q
  let c := queueCtx q
  ctxExists s c && enabledFor s (pgQe (queueMd s q)) c && r.state == 1 && !r.stopping && r.resumed != some s.tt.beats && endpointOpen s q r

/-- The next transfer of a queue is issued with its data (none for a FETCH). -/
def issueXfer (q len : Nat) (d : Desc) (data : List Byte) (s : State) : State :=
  let r := queueOf s q
  let md := queueMd s q
  let x : Xfer := { id := r.nextId, block := r.head, off := r.offset, len, addr := d.at r r.offset, dest := d.dest + r.offset
                    desc := r.desc.getD [], c3 := r.isC3, sent := false, data, seg := r.segment }
  let s := setQueue q { r with flight := r.flight ++ [x], nextId := (r.nextId + 1) % 65536, offset := r.offset + len, xlat := false, since := none } s
    |> bump (pgQe md) Off.QE_CNT_TRANSFERS 1 |> startCmd (pgQe md) (xferId q x.id)
  let s := if data.isEmpty && d.space == 1 then emit (.hostRead (ctxTenant s (queueCtx q)) x.addr len) s
    else if d.space = 3 then sendFetch q x.id x.addr (ctxTenant s (queueCtx q)) d.key x.c3 s
    else s
  if d.total ≤ r.offset + len || r.leave then advance q 32 d s |> settleQueue q else s

/-- What holds a transfer back beyond the slot: OUTSTANDING, FENCE, the segment, room in a voice-out FIFO (R175). -/
def mayIssue (s : State) (q : Nat) (d : Desc) : Bool :=
  let r := queueOf s q
  decide (r.flight.length < r.outstanding) && !(d.fence && r.offset == 0 && !(r.flight.isEmpty && r.mc.isEmpty)) &&
    segmentOpen s q r && slotFree s q r.isC3 && (r.epType != 6 || r.isPut ||
      voRoom s (r.epIndex / 2) (r.epIndex % 2 == 0)
        ((r.flight.map (·.len)).foldl (· + ·) 0 + (if d.space = 3 then 4096 else d.piece r r.offset)))

/-! ### The slot arbiter (R55, R56, R420) -/

/-- Does a queue ask for a transfer slot: a descriptor stands at HEAD and nothing but the arbiter holds its transfer back? -/
def slotAsks (s : State) (q : Nat) (r : Queue) : Bool :=
  queueRuns s q && !r.finished && r.launch.isNone && match r.desc with
    | none => false
    | some bs =>
      let d := descOf bs
      mayIssue s q d && (!r.isPut || (r.accDone && !r.mcast)) && (d.space != 1 || (r.xlat && hostOpen s (ctxTenant s (queueCtx q)))) &&
        (r.isPut || d.space != 3 ||
          (tblMember s (d.at r r.offset / 2 ^ 48 % 512) && fetchCredit s (d.at r r.offset / 2 ^ 48 % 512) r.isC3))

/-- The queues of an engine that ask from now on are noted with the present beat. -/
def slotNote (md : Nat) (s : State) : State :=
  { s with queues := s.queues.map fun e =>
      if queueMd s e.1 == md then
        (e.1, { e.2 with since := if slotAsks s e.1 e.2 then e.2.since.orElse fun _ => some (beatNo s) else none })
      else e }

/-- The next grant of an engine's slot arbiter: C2 before C3, then the queue that has been eligible longest, then the button over local queue
numbers; of two contexts' queues of one local number the lower context's goes first (log 48). Answers the queue and the button after. -/
def slotGrant (s : State) (md : Nat) : Option (Nat × Nat) :=
  let asks := s.queues.filterMap fun e => if queueMd s e.1 == md then e.2.since.map fun b => (e.1, e.2.isC3, b) else none
  let first := if asks.any fun a => !a.2.1 then asks.filter fun a => !a.2.1 else asks
  match arbiterGrant 256 (sget 255 s.head.buttons (pageBase (pgQe md))) (first.map fun a => (a.1 % 256, a.2.2)) with
  | none => none
  | some (l, button) =>
    let mine := first.filter fun a => a.1 % 256 == l
    let oldest := mine.foldl (fun n a => Nat.min n a.2.2) (((mine.map (·.2.2)).head?).getD 0)
    ((mine.filter fun a => a.2.2 == oldest).map (·.1)).head?.map fun q => (q, button)

/-- A queue takes its slot if the arbiter grants it; the button moves only when it has decided. -/
def withSlot (q : Nat) (k : State → State) (s : State) : State :=
  let md := queueMd s q
  let s := slotNote md s
  match slotGrant s md with
  | some (w, button) =>
    if w = q then k { s with head := { s.head with buttons := sset 255 s.head.buttons (pageBase (pgQe md)) button } } else s
  | none => s

/-- TRANSFER_ISSUE: the queue reads its list as far as it must and issues its next transfer when every condition of R420 holds. `list` is
what host memory holds at the list address, for a list there. -/
def execTransferIssue (q : Nat) (list : List Byte) (s : State) : State :=
  if !queueRuns s q || !fdGrants s (ctxTenant s (queueCtx q)) then s
  else
    let r := queueOf s q
    if r.finished || r.launch.isSome || !segmentOpen s q r then s
    else
      let b := readBlock q list s
      let s := b.2
      let r := queueOf s q
      match b.1, r.desc with
      | true, some bs =>
        let d := descOf bs
        let t := ctxTenant s (queueCtx q)
        if !mayIssue s q d || (r.isPut && (!r.accDone || r.mcast)) then s
        else if d.space = 1 ∧ !hostOpen s t then queueHalt q 1 true s
        else if d.space = 1 ∧ !r.xlat then s
        else if !r.isPut && d.space == 3 && !tblMember s (d.at r r.offset / 2 ^ 48 % 512) then queueFault q 0xD none s
        else withSlot q (fun s =>
          let r := queueOf s q
          if r.isPut then
            let data := if d.meld then r.acc ++ List.replicate (4096 - r.acc.length) 0 else r.acc
            issueXfer q data.length d data (setQueue q { r with acc := [], accDone := false, accFrame := none } s)
          else issueXfer q (if d.space = 3 then 4096 else d.piece r r.offset) d [] s) s
      | _, _ => s

/-- ATS_TRANSLATION: the translation of a queue's next transfer returns; one without access halts the queue (R427). -/
def execAtsTranslation (q : Nat) (granted : Bool) (s : State) : State :=
  let r := queueOf s q
  match r.desc with
  | some bs =>
    if r.state == 1 && (descOf bs).space == 1 && !r.xlat && !r.stopping && hostOpen s (ctxTenant s (queueCtx q)) then
      if granted then setQueue q { r with xlat := true } s else queueHalt q 1 false s |> settleQueue q
    else s
  | none => s

/-! ## Completion (R414, R415) -/

/-- What came of fetching or delivering: 0, or the cause of a fault. -/
structure Got where
  cause : Nat
  data : List Byte
  state : State

def gotMem (r : MemAns × State) : Got :=
  match r.1 with
  | .tile bs => ⟨0, bs, r.2⟩
  | .poison => ⟨7, [], r.2⟩
  | _ => ⟨6, [], r.2⟩

/-- The bytes that a FETCH transfer brings. -/
def xferFetch (q : Nat) (x : Xfer) (ans : HostData) (s : State) : Got :=
  let d := descOf x.desc
  let c := queueCtx q
  let dom := pageDomain (queuePage s q (queueOf s q))
  match d.space with
  | 0 => gotMem (memFetch (.ctx c) dom ⟨none, x.addr⟩ none s)
  | 1 =>
    match ans with
    | .poisoned => ⟨7, [], hostError q x.addr 1 s⟩
    | .unsupported => ⟨5, [], hostError q x.addr 3 s⟩
    | .bytes bs =>
      let bs := (bs ++ List.replicate (x.len - bs.length) 0).take x.len
      let s := hhHostRead q x.addr bs s
      if d.meld then gotMem (memFetchKey (some d.key) (.ctx c) dom ⟨some c, x.addr⟩ (some bs) s) else ⟨0, bs, s⟩
  | 2 =>
    match s.hh.injecting, ans with
    | true, .bytes bs => ⟨0, (bs ++ List.replicate (x.len - bs.length) 0).take x.len, s⟩
    | _, _ =>
    let t := ctxTenant s c
    let r := releaseRead (some t) (68 + queueMd s q) x.addr s
    match r.1 with
    | some bs => ⟨0, bs.take x.len, r.2⟩
    | none => ⟨6, [], r.2⟩
  | _ =>
    match ans with
    | .bytes bs => gotMem (memFetchKey (some d.key) (.ctx c) dom ⟨some c, x.addr⟩ (some bs) s)
    | _ => ⟨7, [], s⟩

/-- The SERVICE region's first address (R374). -/
def serviceBase (s : State) : Option Nat :=
  (((List.range 64).map (regionAt s)).find? fun r => r.valid && r.kind == 1).map fun r => r.base * 0x200000

/-- Bytes stored into a home slot, in pieces that do not cross a slot. -/
def storeBytes (who : Requester) (dom : Nat) (t4 : Option Nat) : Nat → Nat → List Byte → State → Got
  | 0, _, _, s => ⟨0, [], s⟩
  | n + 1, a, bs, s =>
    if bs.isEmpty then ⟨0, [], s⟩
    else
      let k := 4096 - a % 4096
      let g := gotMem (memStore who dom ⟨t4, a / 4096 * 4096⟩ (a % 4096) (bs.take k) s)
      if g.cause ≠ 0 then g else storeBytes who dom t4 n (a + k) (bs.drop k) g.state

/-- A tile written with one codec only (2–5), or as R384 chooses (1): into the kitty, or encoded at once to its home slot. -/
def storeTile (c codec : Nat) (key : Option Nat) (h : Home) (data : List Byte) (s : State) : Got :=
  if !memAllows s (.ctx c) h true then ⟨6, [], memDenied (.ctx c) h s⟩
  else if codec ≤ 1 ∧ h.t4.isNone then gotMem (memStore (.ctx c) (72 + mdOf s h) h 0 data s)
  else
    let n := mdOf s h
    let k := key.getD (homeKey s h)
    let s := noteSlot h s |> dropLines n (fun l => lineServes h (ctxTenant s c) l && !l.locked)
    let e := if codec ≤ 1 then meldEncode (homeCodecs s h) k (h.addr / 4096) data
      else meldForce (codec - 2) k (h.addr / 4096) data
    ⟨0, [], slotStore h e s⟩

/-- Bytes for tile SRAM: converted by a transpose slot of the queue, or written under the region check (R322, R368). The slot, or that there is
none, is latched when the block's first bytes arrive. -/
def sramDeliver (q t : Nat) (x : Xfer) (bs : List Byte) (s : State) : Got :=
  let c := queueCtx q
  let d := descOf x.desc
  if !tileLive s t || !admits s t c then ⟨0xA, [], s⟩
  else
    let refused (s : State) : Got := ⟨6, [], s |> bump (pgTsp t) Off.TSP_CNT_REGION_FAULT 1 |> raise (pgTsp t) Evt.TSP_REGION_FAULT⟩
    let latched := ((queueOf s q).xpose.find? fun e => e.1 == x.block).map (·.2)
    let k := latched.getD (((xposeSlot s t q).map (xposeLatch s t)).getD [])
    let s := updQueue q (fun r => { r with xpose := if latched.isSome then r.xpose else r.xpose ++ [(x.block, k)] }) s
    if k.isEmpty then (if sramOk s (openRegions s t) c true x.dest bs.length then ⟨0, [], sramWrite t x.dest bs s⟩ else refused s)
    else
      let w := xposeBytes t c k d.dest d.total x.off bs s
      if w.1 then ⟨0, [], w.2⟩ else refused w.2

/-- A delivery of n bytes to a queue's endpoint crosses the die links and the mesh (R252, R263; log 58). -/
def endpointFlits (q : Nat) (r : Queue) (n : Nat) (s : State) : State :=
  flitsPass (4 + queueMd s q) (islandDie (pageIsland (queuePage s q r))) (dataFlits n) s

/-- Deliver what a FETCH transfer brought (R415). -/
def xferDeliver (q : Nat) (x : Xfer) (bs : List Byte) (s : State) : Got :=
  let r := queueOf s q
  let d := descOf x.desc
  let c := queueCtx q
  let s := if r.epType = 0 ∨ d.tier ≠ 0 then s else endpointFlits q r bs.length s
  match r.epType with
  | 0 =>
    if d.tier = 3 then ⟨0, [], s⟩
    else if d.tier = 5 then
      if d.codec = 0 then ⟨0, [], hostSend (ctxTenant s c) (.hostWrite (ctxTenant s c) x.dest bs) s |> outputDigest 0 q bs⟩
      else storeTile c d.codec none ⟨some c, x.dest⟩ bs s
    else if bs.length = 4096 ∧ x.dest % 4096 = 0 then storeTile c d.codec none ⟨none, x.dest⟩ bs s
    else storeBytes (.ctx c) (72 + queueMd s q) none 3 x.dest bs s
  | 1 => if d.tier = 0 then sramDeliver q r.epIndex x bs s else ⟨0, [], s⟩
  | 2 => ⟨0, [], updStem r.epIndex (fun y => { y with sram := cellsWrite bs x.dest y.sram }) s⟩
  | 6 => ⟨0, [], voPush (r.epIndex / 2) (r.epIndex % 2 == 0) (d.last && decide (d.total ≤ x.off + x.len)) bs s⟩
  | 7 => ⟨0, [], { s with ce := { s.ce with sram := cellsWrite bs x.dest s.ce.sram, changed := true } }⟩
  | 8 =>
    match serviceBase s with
    | some b => storeBytes .mgmt (pageDomain ⟨.mgmtCores, 0⟩) none 3 (b + x.dest) bs s
    | none => ⟨6, [], s⟩
  | _ => ⟨0, [], s⟩

/-- Write what a PUT transfer carries into its block's memory (R414). -/
def xferPut (q : Nat) (x : Xfer) (s : State) : Got :=
  let d := descOf x.desc
  let c := queueCtx q
  if d.space = 0 then storeTile c d.codec none ⟨none, x.addr⟩ x.data s
  else if d.codec = 0 then ⟨0, [], hostSend (ctxTenant s c) (.hostWrite (ctxTenant s c) x.addr x.data) s |> outputDigest 0 q x.data⟩
  else
    let g := storeTile c d.codec (some d.key) ⟨some c, x.addr⟩ x.data s
    ⟨g.cause, [], if g.cause = 0 then outputDigest 0 q x.data g.state else g.state⟩

/-- A transfer ends: its slot returns, or its queue faults at it. -/
def endXfer (q : Nat) (x : Xfer) (g : Got) : State :=
  let s := updQueue q (fun r => { r with flight := r.flight.filter fun y => y.id != x.id }) g.state
    |> endCmd (pgQe (queueMd g.state q)) (xferId q x.id)
  let s := if g.cause = 0 then s else queueFault q g.cause (some (x.block, x.off)) s
  settleQueue q s

def xferOf (s : State) (q id : Nat) : Option Xfer := (queueOf s q).flight.find? fun x => x.id == id

/-- Does a transfer fill a T1 pool (R394)? -/
def poolXfer (s : State) (q : Nat) (x : Xfer) : Bool :=
  (queueOf s q).epType == 1 && !(queueOf s q).isPut && ((descOf x.desc).tier == 1 || (descOf x.desc).tier == 2)

/-- In replay what the host or the release port answers of its own is discarded; the records bring the data (R569). -/
def sourceSilent (s : State) (q : Nat) (x : Xfer) : Bool :=
  hhMode s == 2 && !s.hh.injecting && !(queueOf s q).isPut && ((descOf x.desc).space == 1 || (descOf x.desc).space == 2)

/-- Does a transfer write host memory? -/
def hostBound (s : State) (q : Nat) (x : Xfer) : Bool :=
  let r := queueOf s q
  let d := descOf x.desc
  if r.isPut then d.space != 0 else r.epType == 0 && d.tier == 5

/-- TRANSFER_COMPLETE: a transfer's delivery acknowledgement commits, with the host's answer for a read of host memory. A pool fill has been
delivered by POOL_FILL before it; a peer fetch is answered by FETCH_DATA. What writes host memory completes only once its writes can leave
(R21, R437). -/
def execTransferComplete (q id : Nat) (ans : HostData) (s : State) : State :=
  match xferOf s q id with
  | none => s
  | some x =>
    if x.sent then endXfer q x ⟨0, [], s⟩
    else if sourceSilent s q x then bump pgHh Off.HH_CNT_SUPPRESSED 1 s
    else if !(queueOf s q).isPut && (poolXfer s q x || (descOf x.desc).space == 3) then s
    else if !fdGrants s (ctxTenant s (queueCtx q)) || (hostBound s q x && !hostOpen s (ctxTenant s (queueCtx q))) then s
    else if (queueOf s q).isPut then endXfer q x (xferPut q x s)
    else
      let g := xferFetch q x ans s
      if g.cause ≠ 0 then endXfer q x g else endXfer q x (xferDeliver q x g.data g.state)

/-- A fetched tile enters the T1 pool of the queue's tile, or is left in the kitty (R394, R396). -/
def poolDeliver (q : Nat) (x : Xfer) (bs : List Byte) (s : State) : Got :=
  let t := (queueOf s q).epIndex
  let c := queueCtx q
  let d := descOf x.desc
  if !tileLive s t || !admits s t c then ⟨0xA, [], s⟩
  else
    let h : Home := if d.space = 0 then ⟨none, x.addr⟩ else ⟨some c, x.addr⟩
    let r := poolPut t ⟨h, ctxTenant s c, c, d.tier == 2, 2, bs⟩ s
    ⟨0, [], endpointFlits q (queueOf s q) bs.length (if r.1 then r.2 else poolSpill t r.2)⟩

/-- A tile arrives for a pool: it is delivered and the transfer waits for its acknowledgement, or the queue faults. -/
def poolArrive (q : Nat) (x : Xfer) (g : Got) : State :=
  let g := if g.cause = 0 then poolDeliver q x g.data g.state else g
  if g.cause ≠ 0 then endXfer q x g
  else updQueue q (fun r => { r with flight := r.flight.map fun y => if y.id == x.id then { y with sent := true } else y }) g.state

/-- POOL_FILL: the tile of a T1_POOL or T1_PIN transfer arrives and takes a pool line (R394–R396). -/
def execPoolFill (q id : Nat) (ans : HostData) (s : State) : State :=
  match xferOf s q id with
  | none => s
  | some x =>
    if sourceSilent s q x then bump pgHh Off.HH_CNT_SUPPRESSED 1 s
    else if x.sent || !poolXfer s q x || (descOf x.desc).space == 3 || !fdGrants s (ctxTenant s (queueCtx q)) then s else poolArrive q x (xferFetch q x ans s)

/-- COMPLETION_TIMEOUT: a host read gets no completion within 50 ms and its queue faults (R529). -/
def execCompletionTimeout (q id : Nat) (s : State) : State :=
  match xferOf s q id with
  | none => s
  | some x =>
    let late := match (cmdsOf s (pgQe (queueMd s q))).find? fun c => c.id == xferId q id with
      | some c => elapsed s c.accept 50000000
      | none => false
    if (descOf x.desc).space == 1 && !(queueOf s q).isPut && !x.sent && late then
      endXfer q x ⟨5, [], hostError q x.addr 2 s⟩
    else s

/-! ## Launches (R421, R423) -/

/-- FIFO credits of an endpoint that an engine's queues hold. -/
def creditsUsed (s : State) (md : Nat) (fifo : List Launch) : Nat :=
  (fifo.filter fun l => match l.queue with
    | some q => queueMd s q == md
    | none => false).length

/-- The reset mask of a segment: bit j for each mark P0 + j, j below 64; and the marks dropped (R421). -/
def resetMask (marks : List Nat) (p0 : Nat) : Nat × Nat :=
  marks.foldl (fun m k =>
    let j := (k + (2 ^ 32 - p0)) % 2 ^ 32
    if j < 64 then (m.1 ||| 2 ^ j, m.2) else (m.1, m.2 + 1)) (0, 0)

/-- Has the scale queue's matching segment been acknowledged (R421, R424)? -/
def Queue.scaleReady (r : Queue) : Bool := !r.isElement || decide (r.segment < r.pairDone)

/-- The queue's launch has been sent: its block completes, the stall is counted (R422, R423). -/
def launchSent (q : Nat) (flags drop : Nat) (s : State) : State :=
  let r := queueOf s q
  let p := pgQe (queueMd s q)
  let stall := match r.lastEnd with
    | some e => if r.sent = r.ended then 64 * (beatNo s - e) else 0
    | none => 0
  let s := setQueue q { r with launch := none, sent := r.sent + 1, segment := r.segment + 1, marks := [], scaleLate := false
                               stall := satNat 0xFFFFFFFF (r.stall + stall)
                               openBlocks := r.openBlocks ++ [((r.head + (2 ^ 32 - 1)) % 2 ^ 32, flags)] } s
  let s := if r.scaleLate then bump p Off.QE_CNT_SCALE_LATE 1 s else s
  s |> bump p Off.QE_CNT_STALL_TICKS stall |> bump p Off.QE_CNT_MARK_DROP drop |> bump p Off.QE_CNT_LAUNCHES 1 |> settleQueue q

/-- QUEUE_LAUNCH_SEND: a segment's launch leaves once its data is acknowledged and a FIFO credit is held. -/
def execQueueLaunchSend (q : Nat) (s : State) : State :=
  let r := queueOf s q
  match r.launch with
  | none => s
  | some (entry, flags, p0) =>
    let md := queueMd s q
    let stem := r.epType == 2
    let k := r.epIndex
    let fifo := if stem then (stemOf s k).fifo else (tileOf s k).fifo
    let share := (if stem then 4 else 8) / Nat.max 1 s.part.stackCount
    let up := ctxExists s (queueCtx q) && enabledFor s (pgQe md) (queueCtx q) && r.state == 1 && !r.stopping &&
      pageOn s (queuePage s q r) && !quiesced s (queuePage s q r)
    if !up || r.flight.any (fun x => x.seg == r.segment) then s
    else if !r.scaleReady then setQueue q { r with scaleLate := true } s
    else if share ≤ creditsUsed s md fifo ∨ (if stem then 8 else 16) ≤ fifo.length then s
    else if !admits s (pageDomain (queuePage s q r)) (queueCtx q) then queueFault q 0xA none s
    else
      let m := resetMask r.marks p0
      let e := if bitAt flags 1 then entry.take 8 ++ leBytes 8 m.1 ++ entry.drop 16 else entry
      let words := (List.range 8).map fun i => ofLeBytes ((e.drop (4 * i)).take 4)
      if bitsAt (words.getD 1 0) 0 16 ≠ queueCtx q then queueFault q 9 none s
      else
        let w := if stem then jobPush k words (some q) s else launchPush k words (some q) s
        if w.1 then launchSent q flags (if bitAt flags 1 then m.2 else 0) w.2 else queueFault q 9 none w.2

/-- END_NOTIFICATION: the oldest end notification for a queue commits at its engine. -/
def execEndNotification (q : Nat) (s : State) : State :=
  let take (l : List Nat) : List Nat := l.eraseP fun x => x == q
  let tile := s.tiles.find? fun e => e.2.ends.contains q
  let stem := s.stems.find? fun e => e.2.ends.contains q
  let noted (s : State) : State :=
    updQueue q (fun r => if r.ended < r.sent then { r with ended := r.ended + 1, lastEnd := some (beatNo s) } else r) s |> settleQueue q
  match tile, stem with
  | some (t, _), _ => updTile t (fun x => { x with ends := take x.ends }) s |> noted
  | none, some (d, _) => updStem d (fun x => { x with ends := take x.ends }) s |> noted
  | none, none => s

/-! ## Page requests (R428) -/

/-- Other queues whose page request was held back by the limits send it. -/
def priNext (s : State) : State := (s.queues.filter fun e => e.2.cause == 1).foldl (fun s e => sendPri e.1 s) s

/-- Put a record back, parked as before when it was parked (R432). -/
def putBackAs (q : Nat) (parked : Bool) (r : Queue) (s : State) : State :=
  setQueue q (if parked then { r.withState 5 with before := r.state } else r) s

/-- The wait for a response ends without one, or its late response is ignored (R428). -/
def priLate (q : Nat) (s : State) : State :=
  let p := queueOf s q
  putBackAs q (p.state == 5) { p.awake with pri := none, cause := 4 } s |> queueReport q 4 |> priNext

/-- A response to a queue's page request: 0 Success, else Invalid Request or Response Failure. The record of a queue that has been parked takes
it as if in its state before (R428, R432). -/
def priResponse (q code : Nat) (s : State) : State :=
  let p := queueOf s q
  match p.pri with
  | none => s
  | some due =>
    if p.awake.state ≠ 3 then s
    else if due < s.tt.beats then priLate q s
    else
      let r := { p.awake with pri := none }
      let parked := p.state == 5
      let s :=
        if code ≠ 0 then putBackAs q parked { r with cause := 3 } s |> queueReport q 3
        else if bitOf r.ctrl 11 then putBackAs q parked { r.withState 1 with cause := 0, resumed := some s.tt.beats } s
        else putBackAs q parked { r with cause := 2 } s |> queueReport q 2
      settleQueue q s |> priNext

/-- PRI_TIMEOUT: no response within QE_PRI_TIMEOUT. -/
def execPriTimeout (q : Nat) (s : State) : State :=
  let r := queueOf s q
  match r.pri with
  | some due => if r.awake.state = 3 ∧ due ≤ s.tt.beats then priLate q s else s
  | none => s

/-- Queues that halted because their function could not reach the host go on (R448, R475). -/
def reopenQueues (s : State) : State :=
  let s := (s.queues.filter fun e => e.2.closed).foldl (fun s e =>
    if hostOpen s (ctxTenant s (queueCtx e.1)) && e.2.state == 3 then
      setQueue e.1 { e.2.withState 1 with cause := 0, closed := false } s
    else s) s
  priNext s

/-! ## Doorbells (R416–R418, R422, R425, R432) -/

/-- A doorbell that is not accepted (R417, R455). -/
def dbRefused (q : Nat) (s : State) : State :=
  let p := pgQe (queueMd s q)
  s |> bump p Off.QE_CNT_DB_REFUSED 1 |> raise p Evt.QE_DB_REFUSED |> bump (pgCtx (queueCtx q)) Off.CTX_CNT_DB_REFUSED 1

/-- Put the record back after a doorbell, parked again with PARKED_DB when it was parked (R432). -/
def putBack (q : Nat) (parked : Bool) (r : Queue) (s : State) : State :=
  putBackAs q parked (if parked then { r with ctrl := putField r.ctrl 10 1 1 } else r) s

/-- A REARM judged for one queue. -/
def rearm1 (q base pos : Nat) (s : State) : State :=
  let p := queueOf s q
  let r := p.awake
  if r.trump && r.state == 2 then putBack q (p.state == 5) (r.startStep base pos) s
  else if r.trump && r.state == 1 && r.rearm.isNone then putBack q (p.state == 5) { r with rearm := some (base, pos) } s
  else dbRefused q s

/-- Queues of a context with a GROUP. -/
def groupQueues (s : State) (c g : Nat) : List Nat :=
  (s.queues.filter fun e => queueCtx e.1 == c && fieldOf e.2.ctrl 18 4 == g).map (·.1)

/-- The operation of a doorbell's word 3. -/
def doorbellOp (q : Nat) (v : Word) (s : State) : State :=
  let p := queueOf s q
  let parked := p.state == 5
  let r := p.awake
  let base := p.db.getD 0 0 + 2 ^ 32 * p.db.getD 1 0
  let value := p.db.getD 2 0
  match fieldOf v 0 4 with
  | 1 =>
    if r.state = 0 ∧ base % 32 = 0 ∧ fieldOf v 4 2 < 2 then
      let r := { r with listBase := base, avail := value, stall := 0, seq := 0, stepBase := 0, stepPos := 0, cause := 0, lastEnd := none
                        ctrl := putField r.ctrl 22 2 (fieldOf v 4 2) }
      let r := r.startStep 0 0
      putBack q parked (if r.trump then r.withState 2 else r) s
    else dbRefused q s
  | 2 =>
    if r.state = 0 ∨ r.state = 4 then dbRefused q s
    else putBack q parked { r with avail := (r.avail + value) % 2 ^ 32 } s
  | 3 =>
    let g := fieldOf r.ctrl 18 4
    if bitOf v 8 && g != 0 then (groupQueues s (queueCtx q) g).foldl (fun s k => settleQueue k (rearm1 k base value s)) s
    else rearm1 q base value s
  | 4 =>
    if r.state = 3 ∧ r.pri.isNone then
      putBack q parked { r.withState 1 with cause := 0, desc := none, closed := false, xlat := false } s
    else dbRefused q s
  | 5 =>
    -- a parked queue has nothing in flight: its record is IDLE when it leaves PARKED
    if parked then putBack q true r.toIdle s
    else setQueue q { r with stopping := true, launch := none, pri := none, closed := false, rearm := none } s
  | _ => dbRefused q s

/-- A doorbell word: words 0 to 2 are latched, word 3 applies the operation (R416, R455). -/
def doorbellWord (w : Func) (q k : Nat) (v : Word) (s : State) : State :=
  let c := queueCtx q
  if k < 3 then updQueue q (fun r => { r with db := updNth (fun _ => v.toNat) r.db k }) s
  else
    let r := queueOf s q
    let s := if ctxExists s c && hhContext s c then
        hhCapture 0x11 (68 + queueMd s q) (queueMd s q) (leBytes 4 q ++ leBytes 4 (funcCode w) ++
          leBytes 4 (r.db.getD 0 0) ++ leBytes 4 (r.db.getD 1 0) ++ leBytes 4 (r.db.getD 2 0) ++ leBytes 4 v.toNat) s
      else s
    let s := bump (pgCtx c) Off.CTX_CNT_DOORBELLS 1 s
    if !ctxExists s c || !flag s (pgCtx c) Off.CTRL 0 then dbRefused q s else settleQueue q (doorbellOp q v s)

/-- A doorbell access of a function (R70, R91, R94, R444, R554, R569). -/
def doorbellWrite (w : Func) (q k : Nat) (v : Word) (s : State) : State :=
  let a := 0x02000000 + 0x10 * q + 4 * k
  let link := senderLink s w
  let mine := match w with
    | .vf n => ctxExists s (queueCtx q) && ctxTenant s (queueCtx q) == n
    | _ => true
  if link = .unsupported then emit (.unsupported w) s
  else if link = .waits then hold (.doorbell w q k v) s
  else if link ≠ .ok || deviceFatal s then s
  else if !bootRunning s || !mine then accessError 2 w a s
  else if !pageOn s (pgQe (queueMd s q)) && !((queueOf s q).state == 5 && [1, 3].contains (s.pwr.dom.getD (5 + queueMd s q) 0)) then accessError 7 w a s
  else if hhMode s = 2 then bump pgHh Off.HH_CNT_SUPPRESSED 1 s
  else doorbellWord w q k v s

/-- ARM, APPEND, REARM, RESUME, STOP: writes of word 3 of a queue's doorbell. -/
def execArm (w : Func) (q listSpace : Nat) (s : State) : State :=
  doorbellWrite w (q % 2 ^ 18) 3 (BitVec.ofNat 32 (1 + 16 * (listSpace % 4))) s
def execAppend (w : Func) (q : Nat) (s : State) : State := doorbellWrite w (q % 2 ^ 18) 3 2 s
def execRearm (w : Func) (q : Nat) (group : Bool) (s : State) : State :=
  doorbellWrite w (q % 2 ^ 18) 3 (BitVec.ofNat 32 (3 + 256 * ofBool group)) s
def execResume (w : Func) (q : Nat) (s : State) : State := doorbellWrite w (q % 2 ^ 18) 3 4 s
def execStop (w : Func) (q : Nat) (s : State) : State := doorbellWrite w (q % 2 ^ 18) 3 5 s

/-- What a doorbell word reads (R418): a slot without a context, another tenant's queue and an engine without power read 0 (R71, R91). -/
def doorbellRead (s : State) (w : Func) (q k : Nat) : Nat :=
  let r := queueOf s q
  let pos := r.position
  let mine := match w with
    | .vf n => ctxTenant s (queueCtx q) == n
    | _ => true
  if !ctxExists s (queueCtx q) || !mine || !pageOn s (pgQe (queueMd s q)) then 0
  else match k with
  | 0 => pos.1
  | 1 => pos.2
  | 2 => r.state + 16 * r.cause + 4096 * r.flight.length + 2 ^ 19 * ofBool r.rearm.isSome
  | _ => r.seq

/-! ## The queue record's window and the engine page (R419, R439) -/

/-- Word k of a queue record. -/
def queueWord (s : State) (q k : Nat) : Nat :=
  let r := queueOf s q
  let pos := r.position
  match k with
  | 0 => (putField r.ctrl 9 1 (ofBool r.rearm.isSome)).toNat
  | 1 => r.endpoint + 65536 * r.cause + 2 ^ 24 * r.flight.length
  | 2 => r.listBase % 2 ^ 32
  | 3 => r.listBase / 2 ^ 32
  | 4 => r.stepBase % 2 ^ 32
  | 5 => r.stepBase / 2 ^ 32
  | 6 => r.stepPos
  | 7 => pos.1
  | 8 => r.avail
  | 9 => pos.2
  | 10 => r.skew + 65536 * r.seq
  | 11 => r.stall
  | 12 => r.subs % 2 ^ 32
  | 13 => r.subs / 2 ^ 32
  | 14 => r.fold % 2 ^ 32
  | _ => r.fold / 2 ^ 32

/-- A write to a word of the selected record: the RW fields, while the queue is IDLE or FAULTED. -/
def queueWordWrite (c k : Nat) (v : Word) (s : State) : State :=
  let q := c * 256 + fld s (pgCtx c) Off.QREC_SEL 0 8
  let r := queueOf s q
  let no := bump (pgQe (queueMd s q)) Off.QE_CNT_CFG_REFUSED 1 s
  let ok := r.state == 0 || r.state == 4
  let rw : Word := 0xFF3FF9F0
  if !ctxExists s c then s
  else match k with
  | 0 => if ok then setQueue q { r with ctrl := (r.ctrl &&& ~~~ rw) ||| (v &&& rw) } s else no
  | 1 => if ok then setQueue q { r with endpoint := fieldOf v 0 16 } s else no
  | 10 => if ok && fieldOf v 0 16 != 0 then setQueue q { r with skew := fieldOf v 0 16 } s else no
  | 12 => if ok then setQueue q { r with subs := putAt r.subs 0 32 v.toNat } s else no
  | 13 => if ok then setQueue q { r with subs := putAt r.subs 32 32 v.toNat } s else no
  | _ => s

/-- A write to an engine page register. -/
def qeRegWrite (w : Func) (n off : Nat) (v : Word) (s : State) : State :=
  let p := pgQe n
  let no := bump p Off.QE_CNT_CFG_REFUSED 1 s
  if Off.QE_TENANT_SLOTS ≤ off ∧ off < Off.QE_TENANT_SLOTS + 0x40 then
    if w == .pf && tdiHeld s ((off - Off.QE_TENANT_SLOTS) / 4) then tdiRefuse no
    else if fieldOf v 0 13 = 0 ∨ 4096 < fieldOf v 0 13 then no else plainWrite p off v s
  else if (off = Off.QE_PRI_TIMEOUT ∧ v = 0) ∨ (off = Off.QE_C3_MAX ∧ fieldOf v 0 13 = 0) then no
  else plainWrite p off v s

/-! ## Fences (R431, R541) -/

/-- A queue loses what it holds and faults with FENCED, whatever its state. -/
def fenceQueue (q : Nat) (s : State) : State :=
  let r := queueOf s q
  let pos := (r.withState 4).position
  let s := r.flight.foldl (fun s x => endCmd (pgQe (queueMd s q)) (xferId q x.id) s) s
  let s := { s with tbl := { s.tbl with fetches := s.tbl.fetches.filter fun f => f.queue != some q } }
  setQueue q { r with flight := [], mc := [], launch := none, rearm := none, acc := [], accDone := false, accFrame := none, openBlocks := []
                      stopping := false, head := pos.1, offset := pos.2 } s
    |> bump (pgQe (queueMd s q)) Off.QE_CNT_SLOT_REVOKED r.flight.length |> queueFault q 0xA none

/-- Every queue whose record is not at its reset values and whose endpoint lies in a domain, and for a memory domain every queue of its engine. -/
def fenceQueues (d : Nat) (s : State) : State :=
  (s.queues.filter fun e => pageDomain (queuePage s e.1 e.2) == d || 72 + queueMd s e.1 == d).foldl (fun s e => fenceQueue e.1 s) s

/-- The records of a context return to their reset values (R408). -/
def clearQueues (c : Nat) (s : State) : State := { s with queues := s.queues.filter fun e => queueCtx e.1 != c }

end Sys2Proof.Machine
end

