-- ==== Sys2Proof/Machine/Puts.lean ====
section
/-! DEFINITION. PUT queues: what a producer delivers and where it is placed (R409, R410, R425), and multicast (R433, R434). -/
namespace Sys2Proof.Machine

/-! ## Producers (R409, R410) -/

/-- What a producer offers: the queue, the context of the kernel or job it comes from, whether it is a record, its bytes, the frame that a
line or an image is part of, and whether the producer's data ends with it (R414; log 48). -/
structure PutItem where
  queue : Nat
  owner : Option Nat
  whole : Bool
  bytes : List Byte
  frame : Option Nat
  final : Bool

/-- The first record whose queue takes it, or does not admit it. -/
def nextRecord (s : State) (src : PutSource) (l : List (Nat × Nat × List Byte)) : Option (Nat × Nat × List Byte) :=
  l.find? fun x => putOpen s x.1 || !putAdmits s src x.1 (some x.2.1)

def pitchLine (bs : List Byte) : List Byte := bs ++ List.replicate (64 * ceilDiv bs.length 64 - bs.length) 0

def kindRecords (x : TileSt) (kind : Nat) : List (Nat × Nat × List Byte) :=
  match kind with
  | 0 => x.comps | 1 => x.xlogs | _ => x.tokens

/-- The oldest item a producer holds. -/
def putItem (s : State) (src : PutSource) : Option PutItem :=
  let record (x : Nat × List Byte) : PutItem := ⟨x.1, none, true, x.2, none, false⟩
  let owned (x : Nat × Nat × List Byte) : PutItem := ⟨x.1, some x.2.1, true, x.2.2, none, false⟩
  match src with
  | .csiLine p k =>
    let t := csiSlot s p k
    t.fifo.head?.bind fun l =>
      ((t.closing ++ t.frame.toList).find? fun f => f.id == l.1).map fun f =>
        ⟨fieldOf f.queue 0 18, none, false, (pitchLine l.2).drop t.taken, some f.id,
          t.closing.any (fun g => g.id == f.id) && (t.fifo.filter fun m => m.1 == f.id).length == 1⟩
  | .csiDesc p k => (csiSlot s p k).descs.head?.map record
  | .ispLine n o =>
    (layoutNext s n o).map fun e => ⟨e.queue, none, false, e.bytes, some e.frame, e.final⟩
  | .ispDesc n o => (sget [] (ispOf s n).descs o).head?.map record
  | .ispStat n i => (sget [] (ispOf s n).stats i).head?.map record
  | .tileRecord t kind => (nextRecord s src (kindRecords (tileOf s t) kind)).map owned
  | .stemRecord d => (nextRecord s src (stemOf s d).comps).map owned
  | .tileOutput t => (nextRecord s src (tileOf s t).outs).map fun x => ⟨x.1, some x.2.1, false, x.2.2, none, false⟩
  | .mgmt q bs => if bs.isEmpty then none else some ⟨q, none, false, bs, none, true⟩

/-- A record that is taken, or what is left of it. -/
def takeRecord (queue n : Nat) (l : List (Nat × Nat × List Byte)) : List (Nat × Nat × List Byte) :=
  match l with
  | [] => []
  | x :: r =>
    if x.1 == queue then (if n < x.2.2.length then (x.1, x.2.1, x.2.2.drop n) :: r else r) else x :: takeRecord queue n r

def takePlain (n : Nat) (l : List (Nat × List Byte)) : List (Nat × List Byte) :=
  match l with
  | [] => []
  | x :: r => if n < x.2.length then (x.1, x.2.drop n) :: r else r

/-- The producer's oldest item loses its first n bytes, and is gone when none are left. -/
def putTaken (src : PutSource) (queue n : Nat) (s : State) : State :=
  match src with
  | .csiLine p k => updSlot p k (fun t =>
      match t.fifo with
      | [] => t
      | l :: r =>
        if t.taken + n < (pitchLine l.2).length then { t with taken := t.taken + n } else { t with fifo := r, taken := 0 }) s
  | .csiDesc p k => updSlot p k (fun t => { t with descs := takePlain n t.descs }) s
  | .ispLine m o => layoutTake m o n s |> ispSettle m
  | .ispDesc m o => setIsp m { ispOf s m with descs := sset [] (ispOf s m).descs o (takePlain n (sget [] (ispOf s m).descs o)) } s
  | .ispStat m i => setIsp m { ispOf s m with stats := sset [] (ispOf s m).stats i (takePlain n (sget [] (ispOf s m).stats i)) } s
  | .tileRecord t kind =>
    updTile t (fun x =>
      match kind with
      | 0 => { x with comps := takeRecord queue n x.comps }
      | 1 => { x with xlogs := takeRecord queue n x.xlogs }
      | _ => { x with tokens := takeRecord queue n x.tokens }) s
  | .stemRecord d => updStem d (fun x => { x with comps := takeRecord queue n x.comps }) s
  | .tileOutput t => updTile t (fun x => { x with outs := takeRecord queue n x.outs }) s
  | .mgmt _ _ => s

/-- Data that a queue does not admit is discarded, and its producer treats the queue as halted: a receiver or an output drops the rest of
the frame (R194, R220, R410). -/
def putRefused (src : PutSource) (queue n : Nat) (s : State) : State :=
  match src with
  | .csiLine p k => csiRefused p k s
  | .ispLine m o => outRefused m o s
  | _ => putTaken src queue n s

/-! ## Placement (R410, R425) -/

/-- Bytes of a frame join the transfer that is being filled; a transfer is complete when it is full, when the producer's data ends, and
outside a Meld tile when the item ends. -/
def putFill (q : Nat) (d : Desc) (bs : List Byte) (frame : Option Nat) (ends final : Bool) (s : State) : State :=
  updQueue q (fun r =>
    let acc := r.acc ++ bs
    { r with acc, accFrame := frame, accDone := decide (d.piece r r.offset ≤ acc.length) || (ends && (final || !d.meld)) }) s

/-- Does an item belong to another frame than the bytes in the Meld tile that is being filled, which then is completed with zeros (R414)? -/
def otherFrame (r : Queue) (d : Desc) (it : PutItem) : Bool := d.meld && !r.acc.isEmpty && it.frame.isSome && r.accFrame != it.frame

/-- PUT_DELIVERY: a producer's oldest item is placed in the current block of its queue, as far as the present transfer has room; a record
that the rest of the block cannot take starts the next block. An item of a queue that does not admit it is discarded and counted. -/
def execPutDelivery (src : PutSource) (list : List Byte) (s : State) : State :=
  match putItem s src with
  | none => s
  | some it =>
    let q := it.queue
    if it.bytes.isEmpty then putTaken src q 0 s
    else if !putAdmits s src q it.owner then
      bump (pgQe (queueMd s q)) Off.QE_CNT_PUT_REFUSED 1 s |> putRefused src q it.bytes.length
    else if !(putOpen s q && queueRuns s q) || (queueOf s q).accDone then s
    else
      let b := readBlock q list s
      let s := b.2
      let r := queueOf s q
      match b.1, r.desc with
      | true, some bs =>
        let d := descOf bs
        let room := d.total - (r.offset + r.acc.length)
        let cap := d.piece r r.offset - r.acc.length
        if otherFrame r d it then setQueue q { r with accDone := true } s
        else if it.whole && decide (room < it.bytes.length) then
          if r.acc.isEmpty then advance q 32 d s |> settleQueue q else setQueue q { r with accDone := true, leave := true } s
        else
          let n := Nat.min cap it.bytes.length
          putFill q d (it.bytes.take n) it.frame (n == it.bytes.length) it.final s |> putTaken src q n
      | _, _ => s

/-! ## Multicast (R433, R434) -/

/-- Copies sent and not acknowledged by a tile, of the queues of an engine. -/
def mcCredits (s : State) (md t : Nat) : Nat :=
  (s.queues.filter fun e => queueMd s e.1 == md).foldl (fun n e => n + (e.2.mc.filter fun m => m.unacked.contains t).length) 0

/-- Send the copies of one held tile that have a credit. -/
def mcSendTile (q md : Nat) (m : McTile) (s : State) : State :=
  let free := m.unsent.filter fun t => mcCredits s md t < 8
  updQueue q (fun r =>
    { r with mc := updFirst (fun x => x == m) (fun x =>
        { x with unsent := x.unsent.filter fun t => !free.contains t, unacked := x.unacked ++ free
                 waitFrom := if free.length = x.unsent.length then none else some (x.waitFrom.getD s.tt.beats) }) r.mc }) s

/-- Every queue of an engine sends what it can, the oldest tile of each first. -/
def mcSend (md : Nat) (s : State) : State :=
  (s.queues.filter fun e => queueMd s e.1 == md).foldl (fun s e =>
    (queueOf s e.1).mc.foldl (fun s m => mcSendTile e.1 md m s) s) s

/-- A block's counter is posted at a subscriber. -/
def mcPost (q ctr t : Nat) (s : State) : State := haloCommit ⟨t, ctr, 1, queueCtx q, beatNo s⟩ s

/-- Held tiles that every subscriber has are dropped. -/
def mcDone (q : Nat) (s : State) : State :=
  updQueue q (fun r => { r with mc := r.mc.filter fun m => !(m.unsent.isEmpty && m.unacked.isEmpty) }) s

/-- The tiles of a bit map, ascending. -/
def tilesOf (map : Nat) : List Nat := (List.range 64).filter (bitAt map)

/-- An installed tile is encoded at once with one codec only, and its line is CLEAN (R411, R433; log 48). -/
def storeForced (codec : Nat) (h : Home) (tenant : Nat) (data : List Byte) (s : State) : State :=
  let n := mdOf s h
  let s := slotStore h (meldForce codec (homeKey s h) (h.addr / 4096) data) s
  setKitty n ((kittyOf s n).map fun l => if lineServes h tenant l then { l with dirty := false } else l) s

/-- MULTICAST_PUT: the producer tile hands over an engine-ready tile; it is installed in the kitty, and copies leave. A subscriber that
does not give the block's counter to the queue's context denies the block (R433, DESIGN CHOICE of the cause). -/
def execMulticastPut (q : Nat) (data list : List Byte) (s : State) : State :=
  let r := queueOf s q
  let c := queueCtx q
  if !(queueRuns s q && fdGrants s (ctxTenant s c) && r.isPut && r.mcast && r.epType == 1) || r.finished || !decide (r.mc.length < r.outstanding) ||
      data.length ≠ 4096 then s
  else
    let b := readBlock q list s
    let s := b.2
    let r := queueOf s q
    match b.1, r.desc with
    | true, some bs =>
      let d := descOf bs
      let ctr := d.position r % 64
      let subs := tilesOf r.subs
      if d.fence && r.offset == 0 && !r.mc.isEmpty then s
      else if !(subs.all fun t => haloOwner s t ctr c) then queueFault q 6 none s
      else
        let h : Home := if d.space = 0 then ⟨none, d.at r r.offset⟩ else ⟨some c, d.at r r.offset⟩
        let w := memStore (.ctx c) (pageDomain (queuePage s q r)) h 0 data s
        let g := gotMem w
        if w.1 = .waitHost then s
        else if g.cause ≠ 0 then queueFault q g.cause none g.state
        else
          let s := if 2 ≤ d.codec then storeForced (d.codec - 2) h (ctxTenant s c) data g.state else g.state
          let last := decide (d.total ≤ r.offset + 4096)
          let to_ := subs.filter fun t => !bitAt r.fold t
          let m : McTile := { home := h, block := r.head, last, ctr, unsent := to_, unacked := [], waitFrom := none, data }
          let s := setQueue q { r with mc := r.mc ++ [m], offset := r.offset + 4096 } s |> mcSend (queueMd s q) |> mcDone q
          let s := if last then (subs.filter fun t => bitAt r.fold t).foldl (fun s t => mcPost q ctr t s) s else s
          if last then advance q 32 d s |> settleQueue q else s
    | _, _ => s

/-- MULTICAST_ACK: a subscriber writes the oldest copy it has been sent; its credit returns, and with the last copy of a block its
counter is posted. -/
def execMulticastAck (q t : Nat) (s : State) : State :=
  let c := queueCtx q
  match (queueOf s q).mc.find? fun m => m.unacked.contains t with
  | none => s
  | some m =>
    let s :=
      if tileLive s t && admits s t c then
        let p := poolPut t ⟨m.home, ctxTenant s c, c, false, 2, m.data⟩ s
        if p.1 then p.2 else poolSpill t p.2
      else s
    let s := updQueue q (fun r => { r with mc := updFirst (fun x => x == m) (fun x => { x with unacked := x.unacked.erase t }) r.mc }) s
    let s := if m.last then mcPost q m.ctr t s else s
    s |> mcDone q |> mcSend (queueMd s q) |> mcDone q |> settleQueue q

/-- A subscriber is folded out of a queue (R434, R541): its undelivered copies are dropped, and the counters of the blocks installed in
full are posted. -/
def foldOut (q t : Nat) (s : State) : State :=
  let r := queueOf s q
  let p := pgQe (queueMd s q)
  let has (m : McTile) : Bool := m.unsent.contains t || m.unacked.contains t
  let owed := r.mc.filter fun m => m.last && has m
  let s := setQueue q { r with
      fold := putAt r.fold t 1 1
      mc := r.mc.map fun m =>
        let unsent := m.unsent.filter (· != t)
        { m with unsent, unacked := m.unacked.filter (· != t), waitFrom := if unsent.isEmpty then none else m.waitFrom } } s
    |> bump p Off.QE_CNT_FOLDS 1 |> raise p Evt.QE_FOLD |> queueEvent q
  owed.foldl (fun s m => mcPost q m.ctr t s) s |> mcDone q

/-- FOLD: the oldest undelivered tile has waited SKEW_BEATS beats, and the subscribers without a credit are folded out. -/
def execFold (q : Nat) (s : State) : State :=
  let r := queueOf s q
  match r.mc with
  | [] => s
  | m :: _ =>
    match m.waitFrom with
    | some b =>
      if b + r.skew ≤ s.tt.beats && !m.unsent.isEmpty then
        m.unsent.foldl (fun s t => foldOut q t s) s |> mcSend (queueMd s q) |> mcDone q |> settleQueue q
      else s
    | none => s

/-- A fenced tile is folded out of the queues that hold copies for it (R541). -/
def foldTile (t : Nat) (s : State) : State :=
  (s.queues.filter fun e => e.2.mc.any fun m => m.unsent.contains t || m.unacked.contains t).foldl
    (fun s e => foldOut e.1 t s |> settleQueue e.1) s

end Sys2Proof.Machine
end

