-- ==== Sys2Proof/Machine/Resets.lean ====
section
/-! DEFINITION. What a soft reset, the reset of a reset domain and a power cycle clear, page by page (R78, R84, R91, R200, R223, R247,
R258, R316, R345, R542), and the withdrawal of an expert unlock. -/
namespace Sys2Proof.Machine

/-- Bytes a page spans: four pages for a context (R68). -/
def pageSpan (p : Page) : Nat := if p.cls = .context then 0x4000 else 0x1000

/-- A page's registers back to their reset values, but for the offsets in `keep`. -/
def clearPage (p : Page) (keep : Nat → Bool) (s : State) : State :=
  { s with regs := s.regs.filter fun e =>
      !(decide (pageBase p ≤ e.1) && decide (e.1 < pageBase p + pageSpan p)) || keep (e.1 - pageBase p) }

/-- The deal slot, the commands and the arbiter buttons of a page are lost (R51, R56, R78). -/
def dropHead (p : Page) (s : State) : State :=
  let b := pageBase p
  let ends := p.cls == .callEngine && s.ce.copying && s.ce.running
  { s with head := { s.head with
      deals := s.head.deals.filter fun e => e.1 != b
      cmds := s.head.cmds.filter fun e => ends || e.1 != b
      buttons := s.head.buttons.filter fun e => e.1 != b } }

/-! ## What stays (R542, R121, R399) -/

/-- Is the register at an offset one that only hardware changes? -/
def readOnlyAt (p : Page) (off : Nat) : Bool :=
  decide (0x100 ≤ off) && ((regRow p off).map fun r => r.rw == 0 && r.w1c == 0).getD false

/-- The registers outside every reset domain that show how the device stands, not what the page holds (log 44): the beat, the power state,
the sensors and the regulator, the boot flags, the TDIs and the IDE streams, the fatal state, the trained link, a context's state. -/
def showsState (p : Page) (off : Nat) : Bool :=
  match p.cls with
  | .tableTime => off == Off.TT_STATUS
  | .power =>
    [Off.PWR_STATE, Off.AON_REG_STATUS, Off.PWR_THROTTLE, Off.PWR_PACKAGE, Off.PWR_THERM_STATUS].contains off || inRun off Off.THERM_TEMP 22
  | .mailbox => [Off.MB_READY, Off.MB_TDI_STATE, Off.MB_IDE_STREAMS, Off.MB_IDE_COVER].contains off
  | .faultCollector => [Off.FC_STATUS, Off.FC_FATAL].contains off
  | .pcie => off == Off.PCIE_LINK
  | .context => off == Off.CTX_STATUS
  | _ => false

/-- The registers of a page that hold what neither a soft reset nor a domain reset changes: locked region entries and table images, the die
link's modules, which have no reset value, what shows how the device stands, and a power or mailbox command under way. A locked or unlocked
image is told apart by `suClear`. -/
def resetKeeps (s : State) (p : Page) (off : Nat) : Bool :=
  off == Off.FENCE_STATUS ||
  match p.cls with
  | .streamPort =>
    decide (0x100 ≤ off) && decide (off < 0x180) && entryLocked ((tileRegions s p.idx).getD ((off - 0x100) / 8) (0, 0))
  | .stateUnit => off == Off.SU_TBL_STATUS || decide (Off.SU_TBL ≤ off)
  | .dieLink => off == Off.DL_STATUS
  | .power => showsState p off || (off == Off.PWR_CMD && flag s pgPower Off.PWR_CMD 31)
  | .mailbox => showsState p off || (off == Off.MB_CMD && s.boot.cmd.isSome)
  | _ => showsState p off

/-- The registers of the region table, which the reset of a memory domain keeps (R542). -/
def regionReg (p : Page) (off : Nat) : Bool :=
  p.cls == .memEnc && decide (Off.MEMENC_REGION_BASE ≤ off) && decide (off < Off.MEMENC_REGION_BASE + 0x400)

/-- A reset die link shows no repaired lanes. -/
def linkReset (p : Page) (s : State) : State := if p.cls = .dieLink then setFld p Off.DL_STATUS 8 8 0 s else s

/-- The region table returns to reset with its page: writes that have not taken effect are dropped, and the root of trust is to write its
entries again (R78, R91, R374; DEDUCED, log 68). -/
def regionsLost (p : Page) (s : State) : State :=
  if p.cls = .memEnc ∧ p.idx = 0 then { s with mem := { s.mem with pend := [] }, boot := { s.boot with regionsDue := true } } else s

/-! ## The blocks' internal state -/

/-- The launch FIFO empties and a kernel ends without a record; entries return their credits (R247). -/
def clearArray (t : Nat) (s : State) : State :=
  let s := match (tileOf s t).kernel with
    | some k => clearKernel t k s
    | none => s
  updTile t (fun x => { x with fifo := [], ends := x.ends ++ x.fifo.flatMap fun l => l.queue.toList }) s

/-- What a soft reset clears inside the block (R78): of the domain reset it is the block's part. -/
def blockClear (p : Page) (s : State) : State :=
  match p.cls with
  | .csi =>
    -- ACTIVE_LOW goes back to 0 with the registers, so the pin is low whether the page is reset or its domain is switched off
    let s := if fsyncLevel s p.idx then emit (.fsyncPin p.idx false) s else s
    setCsi p.idx CsiSt.empty s
  | .isp => setIsp p.idx { IspSt.empty with count := (ispOf s p.idx).count, outIds := (ispOf s p.idx).outIds } s
  | .pdmIn =>
    { s with au := { s.au with
        hist := s.au.hist.filter fun e => e.1 / 32 != p.idx
        line := s.au.line.filter fun e => e.1 / 32 != p.idx
        refill := s.au.refill.filter fun e => e.1 != p.idx
        interrupted := s.au.interrupted.filter fun e => e.1 != p.idx
        older := s.au.older.filter fun e => e.1 / 4096 != pageBase p / 4096
        live := if p.idx = 1 then [] else s.au.live } }
  | .beamformer =>
    { s with au := { s.au with
        det := s.au.det.filter fun e => e.1 / 16 != p.idx
        bankPend := s.au.bankPend.filter fun g => g != p.idx
        older := s.au.older.filter fun e => e.1 / 4096 != pageBase p / 4096 } }
  | .ring => ringStop s
  | .voiceOut => setVo p.idx VoSt.empty s
  | .callEngine => ceRestart s
  | .matrix => clearArray p.idx s
  | .vector => updTile p.idx (fun x => { x with tables := [] }) s
  | .stateUnit => suClear p.idx s
  | .streamPort =>
    let units := (tileRegions s p.idx).filter fun e => entryPool e && !entryLocked e
    updTile p.idx (fun x => { x with pool := x.pool.filter fun l => !(units.any fun e => entryHas e l.line), poolChange := [] }) s
  | .stem =>
    let ran := (stemOf s p.idx).job.map (·.launch)
    let s := updStem p.idx (fun x =>
      { x with fifo := [], job := none, ends := x.ends ++ (x.fifo ++ ran.toList).flatMap fun l => l.queue.toList }) s
    match ran with
    | some l => stemRelease l s
    | none => s
  | .fabric => if p.idx = 0 then { s with tbl := TblSt.empty } else s
  | .handHistory => { s with hh := HistSt.empty }
  | _ => s

/-- After a reset a tile's or a network's clock returns to the requested 1,000 MHz, or to the cap (R228). -/
def clockReset (p : Page) (eff : Nat) (s : State) : State :=
  match p.cls with
  | .matrix => clockSet false p.idx (Nat.min 40 (clkCap s)) (decide (clkCap s < 40)) (setFld p Off.TILE_CLK 8 6 eff s)
  | .mesh => clockSet true p.idx (Nat.min 40 (clkCap s)) (decide (clkCap s < 40)) (setFld p Off.NOC_CLK 8 6 eff s)
  | _ => s

/-- The clock in force on a page that has one. -/
def clockOf (s : State) (p : Page) : Nat :=
  match p.cls with
  | .matrix => fld s p Off.TILE_CLK 8 6
  | .mesh => fld s p Off.NOC_CLK 8 6
  | _ => 0

/-- A soft reset of a page completes (R78). What the page has counted in this beat survives (R81). -/
def softReset (p : Page) (s : State) : State :=
  let eff := clockOf s p
  let keep := resetKeeps s p
  let deny := p.cls == .mailbox && flag s pgMb Off.MB_RING_POLICY 1
  let s := blockClear p s |> clearPage p keep |> clearCounters p |> dropHead p |> clockReset p eff |> linkReset p |> regionsLost p
  if deny then setFlag pgMb Off.MB_RING_POLICY 1 true s else s

/-! ## The withdrawal of an expert unlock (R84) -/

/-- A kitty line under the shared tag becomes tenant 0's (R486). -/
def ownShared (l : KLine) : KLine := if l.shared then { l with shared := false, tenant := 0 } else l

/-- Hardware ends a page's expert unlock: the expert range returns to its reset values, in the beat of the cause (R84; the spec allows 8
beats, log 44). Kitty lines under the shared tag become tenant 0's (R486). -/
def expertClear (p : Page) (s : State) : State :=
  if !flag s p Off.CTRL 2 then s
  else
    let s := match p.cls with
      | .stateUnit => suUnload p.idx s
      | .vector => updTile p.idx (fun x => { x with tables := [] }) s
      | .isp => setIsp p.idx { ispOf s p.idx with coef := [] } s
      | .kitty => setKitty p.idx ((kittyOf s p.idx).map ownShared) s
      | _ => s
    let b := pageBase p
    let out (a : Nat) : Bool :=
      decide (b + 0x800 ≤ a) && decide (a < b + 0x1000) && !(p.cls == .stateUnit && decide (b + Off.SU_TBL ≤ a))
    { s with regs := s.regs.filter fun e => !out e.1 } |> setFlag p Off.CTRL 2 false |> setFld p Off.CTRL 4 5 0

/-! ## Domain resets (R542) -/

/-- A tile's units outside LOCKED entries, and those of sections marked for reinstall, are zeroised, every pool line freed, nothing of a
context stays in flight. -/
def clearTile (t : Nat) (s : State) : State :=
  let locked := (openRegions s t).filter entryLocked
  updTile t (fun x =>
    { x with
      sram := x.sram.filter fun c => locked.any fun e => entryHas e (c.1 / 4096)
      acc := [], sticky := [], vreg := [], waits := [], posts := [], comps := [], xlogs := [], tokens := [], pool := [], writes := []
      poolChange := [], queued := [], ports := [], bad := [], outs := [] }) s |> farDrop t

/-- Phase 4 of a fence resets a page: FENCE_STATUS, DRAIN_BEATS, CMD_TIMEOUT and EVT_ROUTE stay, and what the page has counted in this
beat (R81). -/
def domainPageReset (p : Page) (s : State) : State :=
  let eff := clockOf s p
  let keep := resetKeeps s p
  blockClear p s |> clearPage p (fun off => keep off || regionReg p off || [Off.FENCE_CTRL, Off.CMD_TIMEOUT, Off.EVT_ROUTE].contains off)
    |> clearCounters p |> dropHead p |> clockReset p eff |> linkReset p

/-- The model slots with a section on a tile that no LOCKED entry of theirs covers: the zeroing of the tile takes it, and it is marked for
reinstall as entry 16 + slot (R117). -/
def unentered (s : State) (t : Nat) : List Nat :=
  ((modelDecks s).filter fun k => (deckSects k.bytes).any fun x => onTile t x &&
    !((tileRegions s t).any fun e => entryLocked e && entryIsSlot e && entryOwner e % 16 == k.slot && entryHas e (x.dest / 4096))).map (·.slot)

/-- Sections without an entry are marked for reinstall. -/
def markUnentered (t : Nat) (s : State) : State :=
  let new := ((unentered s t).map fun k => (t, 16 + k)).filter fun m => !s.fc.marked.contains m
  { s with fc := { s.fc with marked := s.fc.marked ++ new } }

/-- Phase 4 of a fence (R542). The queue-record cache holds nothing that the queue table does not. -/
def domainReset (d : Nat) (s : State) : State :=
  let pages := (domainPages d).filter (pagePresent s.part)
  let s := pages.foldl (fun s p => domainPageReset p s) s
  if d < 64 then clearTile d (markUnentered d s)
  else if 68 ≤ d ∧ d < 72 then updStem (d - 68) (fun x => { x with comps := [] }) s
  else if 72 ≤ d ∧ d < 74 then dropBypass (d - 72) (setKitty (d - 72) [] s)
  else s

/-! ## Power (R91, R121) -/

/-- The registers that a power cycle of a page's domain leaves: the keeper's, the region entries of tiles, which stand with the retained
SRAM (R121, R399), and the root of trust's, which its key store keeps in Retention (R467). -/
def powerKeeps (p : Page) (off : Nat) : Bool :=
  keeperReg p off ||
  match p.cls with
  | .streamPort => decide (0x100 ≤ off) && decide (off < 0x180)
  | .stateUnit => off == Off.SU_TBL_STATUS || decide (Off.SU_TBL ≤ off)
  | .power => readOnlyAt p off || off == Off.PWR_CMD
  | .mailbox => decide (off < 0x20) || decide (0x30 ≤ off)
  | _ => false

/-- Every page there is on the part, but the context pages. -/
def allPages (q : Part) : List Page :=
  let named (cs : List PageClass) (i : Nat) : List Page := cs.map fun c => Page.mk c i
  (named [.identity, .tableTime, .power, .mailbox, .faultCollector, .handHistory, .pcie, .ring, .callEngine, .mgmtCores, .lowSpeed] 0 ++
   (List.range 2).flatMap (named [.fabric, .isp, .pdmIn, .beamformer, .voiceOut, .hbm, .kitty, .meld, .queueEngine, .memEnc]) ++
   (List.range 8).flatMap (named [.csi]) ++ (List.range 64).flatMap (named [.matrix, .vector, .stateUnit, .streamPort]) ++
   (List.range 4).flatMap (named [.mesh, .stem]) ++ (List.range 16).flatMap (named [.dieLink])).filter (pagePresent q)

/-- The context pages that hold anything but reset values. -/
def usedContexts (s : State) : List Nat :=
  ((s.regs.filter fun e => decide (0x01000000 ≤ e.1)).map fun e => (e.1 - 0x01000000) / 0x4000).eraseDups

/-- The fitted pages of a power domain. -/
def powerPages (s : State) (d : Nat) : List Page :=
  ((allPages s.part).filter fun p => pagePower p == d) ++ (if d = 3 then (usedContexts s).map pgCtx else [])

/-- A page loses its power: its registers, its deal slot and the state of its block are gone (R51, R91). -/
def pagePowerOff (p : Page) (s : State) : State :=
  let keep := powerKeeps p
  let s := match p.cls with
    | .stateUnit => s
    | .streamPort => s
    | .callEngine => { s with ce := { s.ce with sram := [], loaded := false, running := false, copying := false } }
    | _ => blockClear p s
  let s := { s with fc := { s.fc with fences := s.fc.fences.filter fun e => domainRoot e.1 != some p } }
  clearPage p keep s |> (if p.cls = .power then fun s => s else dropHead p) |> regionsLost p

/-- A tile loses what its SRAM die's power holds: tile SRAM, state file, region entries (R121). -/
def tileLost (t : Nat) (s : State) : State :=
  setTile t TileSt.empty s |> clearPage (pgTsp t) (fun _ => false) |> clearPage (pgSu t) (fun _ => false)

/-! ## Sensors (R584) -/

/-- The power domain of a temperature sensor's die. -/
def sensorDomain (k : Nat) : Nat := if k < 16 then 7 + k / 4 else if k < 18 then k - 11 else if k < 20 then k - 13 else k - 17

/-- Is a sensor one of the die sensors? -/
def dieSensor (k : Nat) : Bool := decide (k < 18) || k == 20 || k == 21

/-- A sensor's latest reading in 1/16 °C, if it is valid. -/
def sensorTemp (s : State) (k : Nat) : Option Int :=
  let v := fld s pgPower (Off.THERM_TEMP + 4 * k) 0 16
  if v = 0x8000 then none else some (signed 16 v)

/-- The trip temperature in 1/16 °C. -/
def tripTemp (s : State) : Int := 16 * (s.part.thTrip : Int)

/-- PWR_THERM_STATUS shows the doubled refresh of some stack, and whether some die sensor reads TH_TRIP or more (R589). -/
def thermShow (s : State) : State :=
  let hot (k : Nat) : Bool := dieSensor k && ((sensorTemp s k).map fun x => decide (tripTemp s ≤ x)).getD false
  s |> setFlag pgPower Off.PWR_THERM_STATUS 16 (!s.pwr.refresh.isEmpty)
    |> setFlag pgPower Off.PWR_THERM_STATUS 17 ((List.range 22).any hot)

/-- The sensors of a domain that leaves On read 0x8000 and take no part. -/
def sensorsOff (d : Nat) (s : State) : State :=
  let ks := (List.range 22).filter fun k => sensorDomain k == d
  let s := ks.foldl (fun s k => wr pgPower (Off.THERM_TEMP + 4 * k) 0x8000 s) s
  thermShow { s with pwr := { s.pwr with
    tripRun := s.pwr.tripRun.filter fun e => !ks.contains e.1, refresh := s.pwr.refresh.filter fun k => !ks.contains k } }

/-- A domain goes Off, or into Retention where it is a memory side, whose kitty has been written back (R121). -/
def domainOff (d : Nat) (s : State) : State :=
  let s := (powerPages s d).foldl (fun s p => pagePowerOff p s) s
  let s := sensorsOff d s
  if d = 5 ∨ d = 6 then dropBypass (d - 5) (setKitty (d - 5) [] s) else s

end Sys2Proof.Machine
end

