-- ==== Sys2Proof/Machine/Power.lean ====
section
/-! DEFINITION. Power states: commands, climbs and descents, the duty cycle of Ante, the always-on regulator, Fold and its exit, the
power-good inputs and resets of the whole device (R92–R95, R120–R149, R577–R579). -/
namespace Sys2Proof.Machine

/-! ## Domains (R120–R122, R144) -/

/-- What Off loses beyond the pages, and what Retention does not keep: a stack's contents and its part of the queue table; tile SRAM and
state file (R121). With a stack go the copies that the restore needs (R138). -/
def contentsLost (d level : Nat) (s : State) : State :=
  if d = 5 ∨ d = 6 then
    if level = 1 then s
    else
      { s with hbm := s.hbm.filter fun c => homeMd s c.1 != d - 5
               queues := s.queues.filter fun e => queueMd s e.1 != d - 5
               boot := { s.boot with reload := (s.boot.decks.filter fun k => k.kind != 1).map fun k => (k.kind, k.slot) }
               mem := { s.mem with poison := s.mem.poison.filter fun a => homeMd s a != d - 5 } }
  else if 11 ≤ d then
    ((List.range 16).map fun k => 16 * (d - 11) + k).foldl (fun s t =>
      if level = 1 && flag s pgPower (Off.PWR_TILE_RET + 4 * (t / 32)) (t % 32) then s else tileLost t s) s
  else s

/-- A domain is brought to a level: 0 Off, 1 Retention, 2 On. One that reads changing has left its old level. -/
def domainTo (d level : Nat) (s : State) : State :=
  let now := s.pwr.dom.getD d 0
  if now = level then s
  else if level = 2 then domainOn d s
  else
    let s := if now = 2 then domainOff d s else s
    contentsLost d level s |> setDom d level

/-- Does every domain stand at its level (R122)? -/
def domainsAt (s : State) (level : Nat → Nat) : Bool := (List.range 15).all fun d => s.pwr.dom.getD d 0 == level d

/-- The levels of a restore: every fitted memory and compute die is On (R128). -/
def restoreLevel (s : State) (d : Nat) : Nat := if 5 ≤ d ∧ domFitted s d then 2 else domLevel s (pwrState s) d

/-! ## Readiness (R97) -/

/-- A bit of MB_READY changes. -/
def setReady (b : Nat) (v : Bool) (s : State) : State :=
  if flag s pgMb Off.MB_READY b = v then s else s |> setFlag pgMb Off.MB_READY b v |> raise pgMb Evt.MB_READY_CHANGED

/-! ## The always-on regulator (R146–R149) -/

/-- REGULATOR_MODE_SWITCHED: a switch ends, and loads that waited for it go on: in HP the rails of the step from Ante ramp (R146, R147). -/
def execRegulatorModeSwitched (s : State) : State :=
  match s.pwr.regSwitch with
  | none => s
  | some hp =>
    let s := if hp && pwrState s == 1 && pwrPhase s == 1 then railsOn s else s
    { s with pwr := { s.pwr with regSwitch := none, heldLoad := false } }
      |> setFlag pgPower Off.AON_REG_STATUS 0 hp |> setFlag pgPower Off.AON_REG_STATUS 1 false |> regUpdate

/-- BROWN_OUT_RESET: the always-on domain's ring and registers reset, the power page's head, counters and PWR_CMD among them, so that no
command of the beat is left to be taken back; the keeper's registers and what shows the present state stay (R148). The ring relocks and its
write index and pointer go on, but EVT_RAW.RELOCKED goes with its page's registers (DESIGN CHOICE, log 15: R169 sets the bit at a relock, and R148 resets the registers). -/
def execBrownOutReset (s : State) : State :=
  if !(awake s && domOn s 1) then s
  else
    let s := [pgRing, pgAin 0, pgBf 0].foldl (fun s p => pagePowerOff p s) { s with pwr := { s.pwr with cmd := none } }
    clearPage pgPower (fun off => keeperReg pgPower off || showsState pgPower off) s
      |> wr pgPower Off.AON_REG_STATUS 1 |> setFlag pgPower Off.AON_REG_STATUS 2 true
      |> raise pgPower Evt.PWR_BROWN_OUT |> bump pgPower Off.PWR_CNT_BROWN_OUT 1 |> wakeEvent 8

/-! ## Fold (R141–R143) -/

/-- The device with nothing left but the keeper: Table Time and its page, the power page's deal slot and wake registers, DENY, the
PF's configuration and the link (R120, R135, R142). -/
def keeperOnly (s : State) : State :=
  let r := State.ofPart s.part
  let mine (a : Nat) : Bool := (pageOf a).any fun x => keeperReg x.1 x.2
  let pf (l : List Nat) : List Nat := l.filter (· == 0)
  let t : State :=
    { r with
      regs := s.regs.filter fun e => mine e.1
      tt := s.tt
      head := { r.head with deals := s.head.deals.filter fun e => e.1 == pageBase pgTT || e.1 == pageBase pgPower }
      host := { r.host with linkUp := s.host.linkUp, numVfs := s.host.numVfs, waiting := s.host.waiting
                            mse := pf s.host.mse, msixEn := pf s.host.msixEn, fnMask := pf s.host.fnMask
                            d3 := pf s.host.d3, aspmL12 := s.host.aspmL12, pmeEn := s.host.pmeEn, pmeStatus := s.host.pmeStatus
                            wakeDriven := s.host.wakeDriven }
      out := s.out, freeIdx := s.freeIdx, pending := s.pending }
  if flag s pgMb Off.MB_RING_POLICY 1 then setFlag pgMb Off.MB_RING_POLICY 1 true t else t

/-- Fold is entered: every other domain is Off and both enables are low (R141, R577). -/
def foldEnter (s : State) : State :=
  let t := keeperOnly s
  { t with pwr := { t.pwr with dom := 2 :: List.replicate 14 0 }
           boot := { t.boot with phase := .up, vrMain := false, vrMem := false } }
    |> wr pgPower Off.PWR_STATE 0

/-- PM_PME leaves and WAKE# is driven until the host clears PME_Status (R449). -/
def sendPme (s : State) : State :=
  { s with host := { s.host with pmeStatus := true, wakeDriven := true } } |> emit .pmPme

/-- A Fold exit: every domain but the keeper at its reset state, both enables rise, the boot ROM starts once power is good, and the
SYS_XTAL PLL locks (R142). The latest wake event tells whether the host caused it. -/
def foldExit (s : State) : State :=
  let byHost := fld s pgPower Off.PWR_WAKE_CAUSE 12 4 == 4
  let t := keeperOnly s
  let t := { t with tt := { t.tt with locking := true, joined := (rangeFrom 1 14).map fun d => (d, s.tt.beats) }
                    boot := { t.boot with phase := .waitPg } }
  if byHost then t else sendPme t

/-- A wake event in any state (R124, R142). -/
def anyWake (idx : Nat) (s : State) : State :=
  if pwrState s = 0 ∧ domOn s 1 = false then
    if awake s && wakeCounts idx 0 then foldExit (wakeRecord idx s) else s
  else wakeEvent idx s

/-- WAKE_IN: a rising edge on the pin. -/
def execWakeIn (s : State) : State := anyWake 3 s

/-- HOST: the host asserts CLKREQ# to leave L1.2 (R137). -/
def execHost (s : State) : State := anyWake 4 s

/-- PWR_WAKE_REQ takes its target, and GO raises HOST_REQ (R135). -/
def wakeReq (v : Word) (s : State) : State :=
  let s := setFld pgPower Off.PWR_WAKE_REQ 0 3 (fieldOf v 0 3) s
  if bitOf v 31 then wakeEvent 7 s else s

/-- HOST_REQ: a write of PWR_WAKE_REQ with GO. -/
def execHostReq (w : Func) (target : Nat) (s : State) : State :=
  let v : Word := BitVec.ofNat 32 (target % 8 + 2 ^ 31)
  access w pgPower Off.PWR_WAKE_REQ v (wakeReq v) s

/-! ## Power commands (R129–R134) -/

/-- PWR_DUTY meets R139. -/
def dutyOk (s : State) : Bool :=
  let f := fld s pgPower Off.PWR_DUTY
  decide (10 ≤ f 0 11) && decide (f 0 11 ≤ 2000) && decide (2 ≤ f 11 10) && decide (f 11 10 ≤ 1000) && decide (f 21 4 + f 11 10 < f 0 11)

/-- The first check of R130 that fails, or 0. The restore of EARLY_RESTORE in a steady Call makes no command BUSY, for R130 names a climb or a
descent only (DESIGN CHOICE, log 14). -/
def pwrCheck (s : State) (mgmt : Bool) (T : Nat) : Nat :=
  if pwrPhase s ≠ 0 then 1
  else if pwrState s ≤ T ∨ 4 < T then 2
  else if mgmt && (T == 0 || !flag s pgPower Off.PWR_GRANT (3 - T)) then 3
  else if T ≤ 1 && anyContext s then 4
  else if T ≤ 1 && !s.host.aspmL12 then 5
  else if T = 0 && s.host.vfEnable then 6
  else if T = 1 && flag s pgPower Off.PWR_ANTE_CFG 1 && !dutyOk s then 7
  else 0

/-- The Call → Ante step begins: the ring relocks (R169), hand history records its start and writes what it holds (R557), and the seat leaves
the table (R505). -/
def stepBegin (s : State) : State :=
  if pwrPhase s = 4 ∧ pwrState s = 2 then
    let s := sendFrame 0x02 0 true 1 0 0 [] s |> ringRelock
    if hhMode s = 1 then hhCapture 5 72 0 [] s |> hhFlush |> setFlag pgHh Off.HH_STATUS 2 true else s
  else s

/-- Quiesce begins (R132): queues on quiescing endpoints park as they run dry. -/
def quiesceBegin (s : State) : State :=
  { s with pwr := { s.pwr with start := s.tt.beats } } |> setPwrPhase 3 |> settleQueues fun _ => true

/-- A PWR_CMD write with GO (R129–R131). -/
def pwrCmd (mgmt : Bool) (T : Nat) (s : State) : State :=
  if flag s pgPower Off.PWR_CMD 31 then bump pgPower Off.PWR_CNT_CMD_REFUSED 1 s
  else
    let code := pwrCheck s mgmt T
    let cmd : PwrCmdSt := { beat := s.tt.beats, mgmt, target := T, ran := code == 0, held := flag s pgPower Off.EVT_RAW Evt.PWR_HOLD_STARTED
                            again := false }
    let s := { s with pwr := { s.pwr with cmdFrom := pwrState s, byMgmt := mgmt, cmd := some cmd } } |> setFld pgPower Off.PWR_CMD 0 3 T
    if code ≠ 0 then s |> bump pgPower Off.PWR_CNT_CMD_REFUSED 1 |> postPwrResult code
    else
      let s := { s with pwr := { s.pwr with start := s.tt.beats, latched := none, anyLatched := false, stalled := false } }
        |> setFlag pgPower Off.PWR_CMD 31 true |> setPwrTarget T |> setPwrPhase 2
      if !anyBeamHot s || fld s pgPower Off.PWR_HOLD 0 16 == 0 then quiesceBegin s
      else s |> raise pgPower Evt.PWR_HOLD_STARTED |> bump pgPower Off.PWR_CNT_HOLDS 1

/-- The end of a beat checks a command again whose beat brought a wake event after it (R134). -/
def pwrAgain (s : State) : State :=
  match s.pwr.cmd with
  | some c => if c.again then pwrCmd c.mgmt c.target (setFlag pgPower Off.PWR_CMD 31 false s) else s
  | none => s

/-- A write of PWR_CMD: without GO, or while the page's ENABLE is 0 and starts no command (R77), it sets the field TARGET. -/
def pwrCmdWrite (w : Func) (v : Word) (s : State) : State :=
  if bitOf v 31 && flag s pgPower Off.CTRL 0 then pwrCmd (w == .mgmt) (fieldOf v 0 3) s
  else if flag s pgPower Off.PWR_CMD 31 then bump pgPower Off.PWR_CNT_CMD_REFUSED 1 s
  else setFld pgPower Off.PWR_CMD 0 3 (fieldOf v 0 3) s

/-- PWR_CMD_GO: a write of PWR_CMD with GO. -/
def execPwrCmdGo (w : Func) (target : Nat) (s : State) : State :=
  let v : Word := BitVec.ofNat 32 (target % 8 + 2 ^ 31)
  access w pgPower Off.PWR_CMD v (pwrCmdWrite w v) s

/-- HOLD_END: the first beat with no beam hot (R131). -/
def execHoldEnd (s : State) : State := if pwrPhase s = 2 && !anyBeamHot s then quiesceBegin s else s

/-- HOLD_EXPIRED: the hold limit is reached. -/
def execHoldExpired (s : State) : State :=
  if pwrPhase s = 2 && anyBeamHot s && elapsed s s.pwr.start (fld s pgPower Off.PWR_HOLD 0 16 * 1000000) then
    s |> raise pgPower Evt.PWR_HOLD_EXPIRED |> bump pgPower Off.PWR_CNT_HOLD_EXPIRED 1 |> quiesceBegin
  else s

/-- Are the domains that the target turns down idle, with no fence under way (R132, R545)? -/
def quiet (s : State) : Bool :=
  (allPages s.part).all fun p =>
    !(pageOn s p && quiesced s p) ||
      (!busy s p && (phaseOf s (pageDomain p) == 0 || phaseOf s (pageDomain p) == 5))

/-- Does the beat in which the running power command committed still last: a wake event of that beat comes before the command (R134)? -/
def cmdBeat (s : State) : Bool := s.tt.run && s.pwr.cmd.any fun c => c.beat == s.tt.beats

/-- QUIESCE_END: every page of the quiescing domains reads BUSY 0 (R132). Quiesce ends no earlier than in the beat after the command's. -/
def execQuiesceEnd (s : State) : State := if pwrPhase s = 3 && quiet s && !cmdBeat s then stepBegin (setPwrPhase 4 s) else s

/-- QUIESCE_TIMEOUT: the limit passes; the command ends, blocks and streams go on (R132). -/
def execQuiesceTimeout (s : State) : State :=
  if pwrPhase s = 3 && !quiet s && decide (s.pwr.start + fld s pgPower Off.PWR_QUIESCE 0 24 ≤ s.tt.beats) then
    endPwrCmd 9 s |> settleQueues fun _ => true
  else s

/-- Dirty kitty lines of a memory side go to its stack before it leaves On (R121). -/
def kittySave (n : Nat) (s : State) : State :=
  ((kittyOf s n).filter fun l => l.dirty).foldl (fun s l => slotWrite l.home l.data s) s

/-- Ante is reached: the beat stops, Table Time passes to the RTC, main supplies fall, a restore that was under way ends without a result and
the restore of tile SRAM is owed, the cap and the hit counts start again (R58, R122, R128, R139, R160, R577, R585). -/
def anteEnter (s : State) : State :=
  let keep := flag s pgPower Off.PWR_ANTE_CFG 0
  let duty := flag s pgPower Off.PWR_ANTE_CFG 1
  let s := { s with
    tt := { s.tt with run := false, realigned := false, locking := false, commits := [] }
    boot := { s.boot with vrMain := false, mainPg := false, vrMem := keep, memPg := keep && s.boot.memPg }
    pwr := { s.pwr with owed := true, dutyOn := duty, dutyWindow := false, dutyHit := false, dutyAt := tnow s } }
  s |> setFlag pgTT Off.TT_STATUS 0 false |> setFld pgPower Off.PWR_STATE 9 1 0 |> setCap 44 |> detAnte |> regUpdate

/-- The command ends with OK; a climb for the latched wake target follows (R133, R134). -/
def descendEnd (s : State) : State :=
  let latched := s.pwr.latched
  let s := endPwrCmd 0 s
  match latched with
  | some T => if pwrState s < T then startClimb T s else s
  | none => s

/-- Are messages in flight that must commit before the tiles that hold them power down (R61, R133)? -/
def inFlight (s : State) (level : Nat → Nat) : Bool :=
  s.tiles.any fun e => level (7 + e.1 / 16) != 2 && !(e.2.posts.isEmpty && e.2.writes.isEmpty)

/-- DESCEND_STEP_END: one step of a descent completes, its domains having switched (R133, R144). A load or step of Table Time that has
committed is applied before the beat stops (R62), and messages stamped before commit before the domains that hold them power down (R61). -/
def execDescendStepEnd (s : State) : State :=
  if pwrPhase s ≠ 4 then s
  else
    let next := pwrState s - 1
    let target := pwrTarget s
    if (next = 1 ∧ !(s.tt.pend.isEmpty && s.tt.commits.isEmpty)) ∨ domainsAt s (domLevel s next) = false then s
    else if next = 0 then
      let any := s.pwr.anyLatched
      let s := foldEnter s
      if any then foldExit s else s
    else
      let s := s |> setPwrState next |> raise pgPower Evt.PWR_STATE_CHANGED
      let s := if next = 1 then anteEnter s |> emit (.ltr 2100) else s
      if next = target then descendEnd s else stepBegin s

/-! ## Climbs (R126–R128) -/

/-- Call is reached from Ante: management cores and Call engine run, the link is in L0, events of the power page signal once
(R126, R127, R137). The device asserts CLKREQ# unless the host did. -/
def callReached (s : State) : State :=
  let byHost := fld s pgPower Off.PWR_WAKE_CAUSE 12 4 == 4
  let s := { s with head := { s.head with mPrev := s.head.mPrev.filter fun b => b != pageBase pgPower }
                    pwr := { s.pwr with dutyOn := false, dutyWindow := false, dutyHit := false } }
  let s := if (deckOf s 2).isSome then ceRestart (setFlag pgCe Off.CTRL 0 true s) else s
  let s := (if byHost then s else emit .clkreq s) |> emit (.ltr 50)
  if !flag s pgPower Off.PWR_ANTE_CFG 2 || restoreNeeded s then s else restoreBegin s

/-- A climb that stands at a state goes on to its target, or first restores the decks, or stops for the driver (R128). A climb that ends at Call
reads PHASE 0 from then on, though an early restore may be under way with RESTORING 1: phase 5 is a climb's (DESIGN CHOICE, log 14). -/
def climbOn (s : State) : State :=
  if pwrState s = pwrTarget s then setPwrPhase 0 s else startClimb (pwrTarget s) s

/-- May the step from the present state end now: both power goods, the realigned beat and the regulator's mode for the step from Ante. -/
def climbReady (s : State) : Bool :=
  pwrState s != 1 || (s.tt.run && s.boot.mainPg && s.boot.memPg &&
    (!s.pwr.heldLoad || flag s pgPower Off.AON_REG_MANUAL 0))

/-- The state that the running step leads to. -/
def stepTo (s : State) : Option Nat :=
  if !awake s then none
  else if pwrPhase s = 4 then (if 1 ≤ pwrState s then some (pwrState s - 1) else none)
  else if pwrPhase s = 1 ∧ pwrState s < 4 ∧ climbReady s then some (pwrState s + 1)
  else none

/-- The levels to which the domains switch now: those of the state that the running step leads to, or of a restore, or, when a restore has
ended, of the present state (R122, R128). -/
def levelsDue (s : State) : Option (Nat → Nat) :=
  match stepTo s with
  | some next => some (domLevel s next)
  | none =>
    if !awake s || decide (pwrState s < 2) then none
    else if restoring s then some (restoreLevel s)
    else if s.pwr.settling then some (domLevel s (pwrState s))
    else none

/-- A domain begins to switch: its clamps engage, so it reads changing, and what it does not keep is gone; a memory side has written its kitty
back (R121, R144, R145). -/
def switchBegin (d level : Nat) (s : State) : State :=
  if level = 2 ∨ s.pwr.dom.getD d 0 ≠ 2 then setDom d 3 s
  else (if d = 5 ∨ d = 6 then kittySave (d - 5) s else s) |> domainOff d |> setDom d 3

/-- While a step or a restore runs, and after a restore, domains switch one at a time, down in descending and up in ascending order, each
reading changing from one beat boundary, or RTC edge once the beat has stopped, to the next (R135, R144). -/
def switchTick (s : State) : State :=
  match levelsDue s with
  | none => s
  | some level =>
    match (List.range 15).find? fun d => s.pwr.dom.getD d 0 == 3 with
    | some d => domainTo d (level d) s
    | none =>
      match (List.range 15).reverse.find? fun d => decide (level d < s.pwr.dom.getD d 0) with
      | some d => if inFlight s level then s else switchBegin d (level d) s
      | none =>
        match (List.range 15).find? fun d => decide (s.pwr.dom.getD d 0 < level d) with
        | some d => switchBegin d 2 s
        | none => { s with pwr := { s.pwr with settling := false } }

/-- CLIMB_STEP_END: one step of a climb completes, its domains having switched (R126, R144). -/
def execClimbStepEnd (s : State) : State :=
  if pwrPhase s ≠ 1 ∨ 4 ≤ pwrState s ∨ climbReady s = false ∨ domainsAt s (domLevel s (pwrState s + 1)) = false then s
  else
    let next := pwrState s + 1
    let s := s |> setPwrState next |> raise pgPower Evt.PWR_STATE_CHANGED
    let s := if next = 2 then callReached s else s
    settleQueues (fun _ => true) (climbOn s)

/-! ## The duty cycle of Ante (R139, R140) -/

/-- Has a target k × PERIOD_MS of Table Time passed since the microphone clock last started, or Ante was entered (R139, log 65)? -/
def dutyDue (s : State) : Bool := decide (s.pwr.dutyAt / dutyTicks s 0 11 < tnow s / dutyTicks s 0 11)

/-- DUTY_WINDOW_START: the microphone clock starts on the first RTC edge at or after the next target (R139). -/
def execDutyWindowStart (s : State) : State :=
  if pwrState s = 1 && s.pwr.dutyOn && !s.pwr.dutyWindow && !s.pwr.dutyHit && dutyDue s then
    { s with pwr := { s.pwr with dutyWindow := true, dutyAt := tnow s } } |> bump pgPower Off.PWR_CNT_DUTY_WINDOWS 1
  else s

/-- DUTY_WINDOW_END: SETTLE_MS and WINDOW_MS after its start the window ends and the clock stops, unless a hit has turned listening
continuous (R139, R140). -/
def execDutyWindowEnd (s : State) : State :=
  if s.pwr.dutyWindow && decide (s.pwr.dutyAt + dutyTicks s 21 4 + dutyTicks s 11 10 ≤ tnow s) then
    { s with pwr := { s.pwr with dutyWindow := false } } |> regUpdate
  else s

/-! ## Power-on, PERST# and supplies (R92–R95, R577–R580) -/

/-- The fuses below a count. -/
def fusesTo (n : Nat) : Nat := 2 ^ n - 1

/-- A burn that the loss of power interrupts leaves each fuse either burnt or not: unstated fuses below the target (R109). A failure of main
power and a reset of the whole device interrupt it in the same way (DESIGN CHOICE, log 66: R109 names the loss of power). -/
def burnCut (s : State) : State :=
  match s.boot.burn with
  | some (k, n) =>
    let f := fresh s
    { f.2 with part := { s.part with arb := updNth (fun o => o ||| (fusesTo n &&& f.1)) s.part.arb k } }
  | none => s

/-- What a reset of the whole device leaves: the fuses, and what the model keeps of the outside. -/
def wholeReset (s : State) : State :=
  { State.ofPart s.part with out := s.out, freeIdx := s.freeIdx, pending := s.pending }

/-- WHOLE_DEVICE_RESET: power-on, or an assertion of PERST#, which a device without supply does not see (R92). -/
def execWholeDeviceReset (powerOn : Bool) (s : State) : State :=
  let t := wholeReset (burnCut s)
  if powerOn then t
  else if s.boot.phase = .unpowered then s
  else { t with boot := { t.boot with mainPg := s.boot.mainPg, memPg := s.boot.memPg } }

/-- The boot ROM reads the fuse bank and fills the identity registers, or stops (R93, R95). -/
def bootStart (s : State) : State :=
  if !(s.boot.mainPg && s.boot.memPg) then { s with boot := { s.boot with phase := .waitPg } }
  else if s.part.fuseBad then { s with boot := { s.boot with phase := .fuseStop } }
  else romStart { s with boot := { s.boot with phase := .training } } |> setReady 0 true

/-- POWER_GOOD_RISE: MAIN_PG or MEM_PG rises, its regulators being enabled (R579). -/
def execPowerGoodRise (r : Rail) (s : State) : State :=
  let on := match r with
    | .main => s.boot.vrMain
    | .mem => s.boot.vrMem
  if !on then s
  else
    let s := match r with
      | .main => { s with boot := { s.boot with mainPg := true } }
      | .mem => { s with boot := { s.boot with memPg := true } }
    if s.boot.phase = .waitPg then bootStart s else s

/-- PERST_DEASSERT: PERST# rises; with a power-good input low the device waits for both (R93, R579). -/
def execPerstDeassert (s : State) : State := if s.boot.phase = .perst then bootStart s else s

/-- LINK_TRAINED: the PF answers configuration requests and the boot ROM waits for its deck (R93, R443). -/
def execLinkTrained (width speed : Nat) (laneFail : Bool) (s : State) : State :=
  if s.boot.phase ≠ .training then s
  else
    { s with boot := { s.boot with phase := .up }, host := { s.host with linkUp := true } }
      |> wr pgPcie Off.PCIE_LINK (BitVec.ofNat 32 (width % 8 + 8 * (speed % 16) + 128 * ofBool laneFail))
      |> setReady 1 true |> emit (.ltr 50)

end Sys2Proof.Machine
end

