-- ==== Sys2Proof/Machine/Deals.lean ====
section
/-! DEFINITION. Deals: arming, cancelling, launching, skipped and late targets, and what each block does at a launch (R43–R52, R77). -/
namespace Sys2Proof.Machine

/-- An armed deal of a page. -/
def dealOf (s : State) (p : Page) : Option DealSt := (s.head.deals.find? fun e => e.1 == pageBase p).map (·.2)

/-- A deal is no longer armed. -/
def dealEnd (p : Page) (s : State) : State :=
  { s with head := { s.head with deals := s.head.deals.filter fun e => e.1 != pageBase p } } |> setFlag p Off.DEAL_CTRL 0 false

/-- T₀ of a page's deal. -/
def dealAt (s : State) (p : Page) : Nat := rd64 s p Off.DEAL_AT_LO Off.DEAL_AT_HI

/-- Targets skipped without a launch (R50, R77). With a period below 64 ticks several targets share a launch beat; the one launch of the beat
serves the latest, and the others count as skipped too (DESIGN CHOICE, log 61: by the rule's words they have not passed, and the rule does
not say what becomes of them). -/
def dealSkip (p : Page) (n : Nat) (s : State) : State :=
  if n = 0 then s else s |> bump p Off.DEAL_SKIPPED n |> raise p 2

/-- A write of DEAL_CTRL (R43, R47–R49). With ARM and CANCEL both 1 and no deal pending it arms the deal: there is nothing to cancel (DESIGN
CHOICE, log 62: the spec does not say). -/
def dealCtrl (w : Func) (p : Page) (v : Word) (s : State) : State :=
  if flag s p Off.DEAL_CTRL 0 then
    if bitOf v 1 then dealEnd p s else accessError 5 w (pageBase p + Off.DEAL_CTRL) s
  else
    let s := wr p Off.DEAL_CTRL (v &&& 0xFFFFFFF4) s
    let late := decide (ceilDiv (dealAt s p) 64 ≤ beatNo s)
    if !bitOf v 0 then s
    else if late && fieldOf v 8 24 == 0 && bitOf v 2 then raise p 2 s
    else
      { s with head := { s.head with deals := insertBy Prod.fst (pageBase p, ⟨0, beatNo s + ofBool late⟩) s.head.deals } }
        |> setFlag p Off.DEAL_CTRL 0 true

/-- The word of DEAL_CTRL. -/
def dealWord (arm cancel late : Bool) (action period : Nat) : Word :=
  BitVec.ofNat 32 (ofBool arm + 2 * ofBool cancel + 4 * ofBool late + 16 * (action % 16) + 256 * (period % 2 ^ 24))

/-- DEAL_ARM: a write of DEAL_CTRL with ARM. -/
def execDealArm (w : Func) (p : Page) (latePolicy : Bool) (action period : Nat) (s : State) : State :=
  let v := dealWord true false latePolicy action period
  access w p Off.DEAL_CTRL v (unlessVf w (dealCtrl w p v)) s

/-- CANCEL: a write of DEAL_CTRL with CANCEL. -/
def execCancel (w : Func) (p : Page) (s : State) : State :=
  access w p Off.DEAL_CTRL 2 (unlessVf w (dealCtrl w p 2)) s

/-- ACTION 0x1: the counter range goes to the snapshot registers (R46). A launch is evaluated when its beat begins, so the snapshot holds
no count of the launch beat itself (DESIGN CHOICE, log 60: the spec says only that the copy is atomic with respect to them). -/
def counterSnapshot (p : Page) (s : State) : State :=
  match snapshotAt p with
  | none => s
  | some base => (List.range 32).foldl (fun s k => wr p (base + 4 * k) (rd s p (0x80 + 4 * k)) s) s

/-- What the block does at a launch with an ACTION; whether the launch was refused for want of room (R44, R242, R342). -/
def dealAction (p : Page) (action : Nat) (s : State) : Bool × State :=
  match action, p.cls with
  | 0, _ => (false, s)
  | 1, _ => (false, counterSnapshot p s)
  | 2, .power => (false, anyWake 5 s)
  | 2, .pdmIn => (false, resyncGroup p.idx s)
  | 2, .beamformer => (false, bankRequest p.idx s)
  | 2, .voiceOut => (false, voStart p.idx s)
  | 3, .voiceOut => (false, voStop p.idx s)
  | 2, .csi => (false, csiFsync p.idx s)
  | 3, .csi => (false, csiGate p.idx true s)
  | 4, .csi => (false, csiGate p.idx false s)
  | 2, .matrix => dealLaunch p.idx s
  | 2, .stem => dealJob p.idx s
  | _, _ => (false, s)

/-- A launch: the events of R44 and the block's action. -/
def dealFire (p : Page) (action : Nat) (late : Bool) (s : State) : State :=
  let s := raise p 0 s
  let s := if late then raise p 1 s else s
  let r := dealAction p action s
  if r.1 then raise p 2 r.2 else r.2

/-- May a page launch anything now (R51, R52): it is powered; in Fold the power page's wake deal alone; not while the beat is stopped and
the RTC does not keep time yet. -/
def dealPower (s : State) (p : Page) (action : Nat) : Bool :=
  pagePresent s.part p && (if keeperReg p Off.DEAL_CTRL then domOn s 0 else pageOn s p) && (s.tt.run || s.tt.keeping) &&
    (domOn s 1 || (p.cls == .power && action == 2))

/-- Does a page start commands, so that a deal with an action of its own launches (R77, R132, R539)? A deal slot that the keeper holds is in
no domain that a descent quiesces (R124, R135). -/
def dealEnabled (s : State) (p : Page) : Bool :=
  flag s p Off.CTRL 0 && !(quiesced s p && !keeperReg p Off.DEAL_CTRL) && !fenced s p

/-- Is a target late (R48, R50, R52): its launch beat lies before the present beat, or the RTC step before this one had reached it? -/
def dealLate (s : State) (t : Nat) : Bool :=
  if s.tt.keeping then decide (t ≤ s.tt.edge) else decide (t + 64 ≤ commitTime s)

/-- A page's deal is evaluated in the present beat, or RTC step in Ante and Fold (R45, R48, R50, R52, R77). -/
def dealEval (p : Page) (s : State) : State :=
  match dealOf s p with
  | none => s
  | some d =>
    let action := fld s p Off.DEAL_CTRL 4 4
    let discard := flag s p Off.DEAL_CTRL 2
    let period := 4 * fld s p Off.DEAL_CTRL 8 24
    let now := commitTime s
    let t0 := dealAt s p
    if !dealPower s p action || decide (beatNo s < d.able) then s
    else if period = 0 then
      if now < t0 then s
      else
        let s := dealEnd p s
        if !dealEnabled s p && action != 1 then raise p 2 s
        else if dealLate s t0 && discard then raise p 2 s
        else dealFire p action (dealLate s t0) s
    else if now < t0 + d.k * period then s
    else
      let j := (now - t0) / period
      let moved := s.head.deals.map fun e => if e.1 = pageBase p then (e.1, { d with k := j + 1 }) else e
      let s := { s with head := { s.head with deals := moved } }
      let t := t0 + j * period
      if (!dealEnabled s p && action != 1) || (dealLate s t && discard) then dealSkip p (j + 1 - d.k) s
      else dealSkip p (j - d.k) s |> dealFire p action (dealLate s t)

/-- A page's deal is evaluated when it has this ACTION. -/
def dealOn (p : Page) (action : Nat) (s : State) : State := if fld s p Off.DEAL_CTRL 4 4 = action then dealEval p s else s

/-- Every armed deal is evaluated: at the start of each beat, before any write that commits in it (R45, R49), and at each RTC edge while
the RTC keeps time (R52). -/
def dealsDue (s : State) : State :=
  (s.head.deals.filterMap fun e => (pageOf e.1).map (·.1)).foldl (fun s p => dealEval p s) s

/-- RTC_EDGE: an RTC step, the domain that it lets switch, and the deals that it reaches. -/
def execRtcEdge (s : State) : State :=
  if s.tt.run || !domOn s 0 then s else dealsDue (switchTick (rtcStep s))

/-- DEAL_LAUNCH: a deal's launch beat arrives. -/
def execDealLaunch (p : Page) (s : State) : State := dealEval p s

/-- COUNTER_SNAPSHOT: the launch of a deal with ACTION 0x1. -/
def execCounterSnapshot (p : Page) (s : State) : State := dealOn p 1 s

/-- WAKE: the launch of the power page's deal with ACTION 0x2. -/
def execWake (s : State) : State := dealOn pgPower 2 s

/-- RESYNC: the launch of an input group's deal with ACTION 0x2 (R156). -/
def execResync (g : Nat) (s : State) : State := dealOn (pgAin g) 2 s

/-- BANK_SWITCH: the launch of a beamformer's deal with ACTION 0x2 (R159). -/
def execBankSwitch (g : Nat) (s : State) : State := dealOn (pgBf g) 2 s

/-- VO_START and VO_STOP: launches of a voice-out port's deal with ACTION 0x2 and 0x3 (R176). -/
def execVoStart (port : Nat) (s : State) : State := dealOn (pgVo port) 2 s
def execVoStop (port : Nat) (s : State) : State := dealOn (pgVo port) 3 s

/-- FSYNC, CAPTURE_START, CAPTURE_STOP: launches of a receiver's deal with ACTION 0x2 to 0x4 (R196). -/
def execFsync (r : Nat) (s : State) : State := dealOn (pgCsi r) 2 s
def execCaptureStart (r : Nat) (s : State) : State := dealOn (pgCsi r) 3 s
def execCaptureStop (r : Nat) (s : State) : State := dealOn (pgCsi r) 4 s

/-- LAUNCH: the launch of a tile's deal with ACTION 0x2 (R242). -/
def execLaunch (t : Nat) (s : State) : State := dealOn (pgMx t) 2 s

/-- JOB: the launch of a stem engine's deal with ACTION 0x2 (R342). -/
def execJob (d : Nat) (s : State) : State := dealOn (pgStem d) 2 s

end Sys2Proof.Machine
end

