-- ==== Sys2Proof/Machine/Cells.lean ====
section
/-! DEFINITION. Service message rings: cells in both directions, the hold, and the rings' registers (R449, R457–R464). -/
namespace Sys2Proof.Machine

/-! ## The service contexts -/

/-- The service context of a tenant (R450). -/
def serviceCtx (s : State) (t : Nat) : Option Nat :=
  (s.host.ctxs.find? fun e => fieldOf e.2.cfg 12 1 == 1 && fieldOf e.2.cfg 0 4 == t).map (·.1)

/-- Is a context a service context? -/
def isService (s : State) (c : Nat) : Bool := ctxExists s c && fieldOf (ctxOf s c).cfg 12 1 == 1

/-- Does the service run, so that it reads and forms cells (R97)? -/
def serviceRuns (s : State) : Bool := flag s pgMb Off.MB_READY 5 && pageOn s ⟨.mgmtCores, 0⟩

def holdOf (s : State) (t : Nat) : HoldSt := sget ⟨[], 0⟩ s.host.holds t
def setHold (t : Nat) (h : HoldSt) (s : State) : State := { s with host := { s.host with holds := sset ⟨[], 0⟩ s.host.holds t h } }

/-! ## Sending (R459–R461) -/

/-- Cells that a ring holds, and its size. -/
def ringUsed (tail head : Nat) : Nat := (tail + (2 ^ 32 - head)) % 2 ^ 32
def d2hSize (s : State) (c : Nat) : Nat := 2 ^ fld s (pgCtx c) Off.SVC_RING_CFG 8 4
def h2dSize (s : State) (c : Nat) : Nat := 2 ^ fld s (pgCtx c) Off.SVC_RING_CFG 4 4

/-- May a held cell leave now? -/
def cellMay (s : State) (c : Nat) : Bool :=
  let p := pgCtx c
  flag s p Off.SVC_RING_CFG 0 && hostOpen s (ctxTenant s c) &&
    decide (ringUsed (rd s p Off.SVC_D2H_TAIL).toNat (rd s p Off.SVC_D2H_HEAD).toNat < d2hSize s c)

/-- The 64 bytes of a cell, at a count of the ring (R459, R460). -/
def cellBytes (x : Cell) (tail size : Nat) : List Byte :=
  leBytes 2 x.kind ++ leBytes 1 (x.flags + (if tail / size % 2 = 0 then 1 else 0)) ++ leBytes 1 x.payload.length ++
    leBytes 4 tail ++ leBytes 4 x.corr ++ leBytes 2 x.code ++ leBytes 2 0 ++ leBytes 8 x.tt ++ x.payload ++
    List.replicate (40 - x.payload.length) 0

/-- One cell is written to the ring of a context. -/
def sendCell (c : Nat) (x : Cell) (s : State) : State :=
  let p := pgCtx c
  let tail := (rd s p Off.SVC_D2H_TAIL).toNat
  let size := d2hSize s c
  let bs := cellBytes x tail size
  s |> emit (.hostWrite (ctxTenant s c) (rd64 s p Off.SVC_D2H_BASE_LO Off.SVC_D2H_BASE_HI + 64 * (tail % size)) bs)
    |> outputDigest 1 c bs |> wr p Off.SVC_D2H_TAIL (BitVec.ofNat 32 (tail + 1)) |> raise p Evt.CTX_D2H_CELL
    |> bump p Off.CTX_CNT_D2H_CELLS 1

/-- A STATUS cell. -/
def statusCell (s : State) (code a0 a1 corr : Nat) : Cell :=
  { kind := 0x202, flags := 0, code, corr, tt := 64 * beatNo s, payload := leBytes 4 a0 ++ leBytes 4 a1 }

/-- Held cells leave in order while they may; after drops RING_OVERFLOW follows once there is room (R461). -/
def flushCells (t c : Nat) : Nat → State → State
  | 0, s => s
  | n + 1, s =>
    let h := holdOf s t
    let h := if h.dropped ≠ 0 ∧ h.cells.length < 64 then ⟨h.cells ++ [statusCell s 6 h.dropped 0 0], 0⟩ else h
    let s := setHold t h s
    match h.cells with
    | [] => s
    | x :: rest => if cellMay s c then setHold t ⟨rest, h.dropped⟩ s |> sendCell c x |> flushCells t c n else s

def flushHold (t : Nat) (s : State) : State :=
  match serviceCtx s t with
  | none => s
  | some c => flushCells t c ((holdOf s t).cells.length + 2) s

/-- Every tenant's held cells leave as far as they may. -/
def flushHolds (s : State) : State := s.host.holds.foldl (fun s e => flushHold e.1 s) s

/-- An URGENT cell wakes the host (R449). -/
def urgentWake (s : State) : State :=
  if s.host.d3.contains 0 then (if s.host.pmeEn then sendPme s else s)
  else if s.host.aspmL12 then emit .clkreq s else s

/-- The service posts a cell to a tenant's ring: a full hold drops EVENT and FAULT cells and makes the others wait (R461). A tenant
without a service context has no ring, and its cell is lost (DEDUCED, log 40). -/
def postCell (t : Nat) (x : Cell) (s : State) : State :=
  match serviceCtx s t with
  | none => s
  | some c =>
    let h := holdOf s t
    if 64 ≤ h.cells.length ∧ (x.kind = 0x203 ∨ x.kind = 0x205) then
      setHold t { h with dropped := h.dropped + 1 } s |> bump (pgCtx c) Off.CTX_CNT_CELLS_DROPPED 1
    else
      let s := setHold t { h with cells := h.cells ++ [x] } s
      (if bitAt x.flags 1 then urgentWake s else s) |> flushHold t

/-- A STATUS cell to a tenant (R464). -/
def postStatus (t code a0 a1 : Nat) (s : State) : State := postCell t (statusCell s code a0 a1 0) s

/-- STATUS codes that any tenant receives (R462, R464). -/
def statusOpen (t code : Nat) : Bool := t == 0 || code == 1 || code == 3 || code == 4 || code == 6

/-- A parameter of an INTENT (R463): KEY, UNIT, VALUE. -/
def paramBytes (p : Nat × Nat × Nat) : List Byte := leBytes 2 p.1 ++ leBytes 1 p.2.1 ++ leBytes 1 0 ++ leBytes 4 p.2.2

/-- The payload of an INTENT (R463), of at most three parameters. -/
def intentPayload (id verb target confidence seat : Nat) (params : List (Nat × Nat × Nat)) : List Byte :=
  let ps := (params.take 3).flatMap paramBytes
  leBytes 4 id ++ leBytes 2 verb ++ leBytes 2 target ++ leBytes 1 confidence ++ leBytes 1 (Nat.min 3 params.length) ++
    leBytes 2 seat ++ ps ++ List.replicate (28 - ps.length) 0

/-- INTENT: the service posts an INTENT cell to a tenant's D2H ring (R463). -/
def execIntent (t : Nat) (urgent reply : Bool) (corr id verb target confidence seat : Nat) (params : List (Nat × Nat × Nat)) (s : State) :
    State :=
  if serviceRuns s then
    postCell t { kind := 0x201, flags := 2 * ofBool urgent + 4 * ofBool reply, code := 0, corr := corr % 2 ^ 32, tt := 64 * beatNo s
                 payload := intentPayload id verb target confidence seat params } s
  else s

/-- STATUS: the service posts a STATUS cell of a code open to the tenant (R464). -/
def execStatus (t code a0 a1 : Nat) (urgent : Bool) (s : State) : State :=
  if serviceRuns s && decide (1 ≤ code) && decide (code ≤ 7) && statusOpen t code then
    postCell t { statusCell s code a0 a1 0 with flags := 2 * ofBool urgent } s
  else s

/-- EVENT: the service posts an EVENT cell to tenant 0 (R464). -/
def execEvent (code a0 a1 : Nat) (urgent : Bool) (s : State) : State :=
  if serviceRuns s && decide (1 ≤ code) && decide (code ≤ 6) then
    postCell 0 { statusCell s code a0 a1 0 with kind := 0x203, flags := 2 * ofBool urgent } s
  else s

/-! ## Receiving (R458, R460, R462) -/

/-- The payload length of an H2D type. -/
def h2dLen (kind : Nat) : Option Nat :=
  match kind with
  | 0x101 => some 12 | 0x102 => some 8 | 0x103 => some 8 | 0x104 => some 0 | _ => none

/-- The ACK code of a cell: UNKNOWN_TYPE, BAD_LEN, RESERVED_NZ, NOT_PERMITTED or OK (R464). The order of the checks, and that a tenant from
1 on may send CONFIRM and QUERY only, is the model's choice (log 41). -/
def h2dCheck (t : Nat) (x : List Byte) : Nat :=
  let f (a n : Nat) : Nat := ofLeBytes ((x.drop a).take n)
  let kind := f 0 2
  match h2dLen kind with
  | none => 1
  | some n =>
    if f 3 1 ≠ n then 2
    else if f 2 1 / 8 ≠ 0 ∨ f 14 2 ≠ 0 ∨ f (24 + n) (40 - n) ≠ 0 ∨ (kind = 0x101 ∧ f 33 1 ≠ 0) ∨ (kind = 0x103 ∧ f 27 1 ≠ 0) then 3
    else if t ≠ 0 ∧ kind ≠ 0x102 ∧ kind ≠ 0x104 then 4
    else 0

/-- Does the device read a cell of a context's H2D ring now? In replay the ring is silent (R569). -/
def h2dMay (s : State) (c : Nat) : Bool :=
  let p := pgCtx c
  isService s c && serviceRuns s && flag s p Off.SVC_RING_CFG 0 && hostOpen s (ctxTenant s c) && hhMode s != 2 &&
    rd s p Off.SVC_H2D_HEAD != rd s p Off.SVC_H2D_TAIL

/-- What the service does with a cell: a QUERY is answered; the others are matters of the deck's vocabulary. -/
def h2dAct (t : Nat) (x : List Byte) (s : State) : State :=
  let corr := ofLeBytes ((x.drop 8).take 4)
  if ofLeBytes (x.take 2) = 0x104 then
    let v := ((deckOf s 2).map fun d => deckVersion d.bytes).getD 0
    let s := postCell t (statusCell s 1 v 0 corr) s
    if t = 0 then postCell 0 (statusCell s 2 (pwrState s) (rd s pgPower Off.PWR_WAKE_CAUSE).toNat corr) s else s
  else s

/-- The cell at HEAD is read, acted on and acknowledged. -/
def h2dCell (c : Nat) (x : List Byte) (s : State) : State :=
  let p := pgCtx c
  let t := ctxTenant s c
  let head := (rd s p Off.SVC_H2D_HEAD).toNat
  let at_ := rd64 s p Off.SVC_H2D_BASE_LO Off.SVC_H2D_BASE_HI + 64 * (head % h2dSize s c)
  let s := emit (.hostRead t at_ 64) s
  let s := if hhContext s c then hhCapture 0x12 78 0 (leBytes 8 at_ ++ leBytes 4 0 ++ leBytes 4 0 ++ x) s else s
  let code := h2dCheck t x
  let s := if code = 0 then h2dAct t x s else s
  let s := if code ≠ 0 ∨ bitAt (ofLeBytes ((x.drop 2).take 1)) 2 then
      postCell t { kind := 0x204, flags := 0, code, corr := ofLeBytes ((x.drop 8).take 4), tt := 64 * beatNo s
                   payload := x.take 2 ++ (x.drop 4).take 4 } s
    else s
  let s := s |> wr p Off.SVC_H2D_HEAD (BitVec.ofNat 32 (head + 1)) |> bump p Off.CTX_CNT_H2D_CELLS 1
  if rd s p Off.SVC_H2D_HEAD = rd s p Off.SVC_H2D_TAIL then raise p Evt.CTX_H2D_DONE s else s

/-- A cell of one type, or of none that R462 lists, is taken from a context's H2D ring. -/
def h2dTake (kind c : Nat) (cell : List Byte) (s : State) : State :=
  let x := (cell ++ List.replicate 64 0).take 64
  let k := ofLeBytes (x.take 2)
  if h2dMay s c && (k == kind || (h2dLen k).isNone) then h2dCell c x s else s

/-- APPLIANCE_EVENT, CONFIRM, SAY, QUERY: a cell of the type is read and acted on. -/
def execApplianceEvent (c : Nat) (cell : List Byte) (s : State) : State := h2dTake 0x101 c cell s
def execConfirm (c : Nat) (cell : List Byte) (s : State) : State := h2dTake 0x102 c cell s
def execSay (c : Nat) (cell : List Byte) (s : State) : State := h2dTake 0x103 c cell s
def execQuery (c : Nat) (cell : List Byte) (s : State) : State := h2dTake 0x104 c cell s

/-! ## The rings' registers (R457–R459, R465) -/

def ctxRefused (c : Nat) (s : State) : State := bump (pgCtx c) Off.CTX_CNT_REFUSED 1 s

/-- The rings' counts and base registers return to reset, and what was held is discarded (R461). -/
def stopRings (c : Nat) (s : State) : State :=
  setFlag (pgCtx c) Off.SVC_RING_CFG 0 false s |> setHold (ctxTenant s c) ⟨[], 0⟩

/-- A write of SVC_RING_CFG: the sizes only while EN is 0; EN set starts the counts at 0, EN cleared discards the hold. -/
def ringCfgWrite (c : Nat) (v : Word) (s : State) : State :=
  let p := pgCtx c
  let sizeOk (k : Nat) : Bool := decide (4 ≤ k) && decide (k ≤ 12)
  if flag s p Off.SVC_RING_CFG 0 then
    if bitOf v 0 then ctxRefused c s else stopRings c s
  else if !(sizeOk (fieldOf v 4 4) && sizeOk (fieldOf v 8 4)) then ctxRefused c s
  else
    let s := plainWrite p Off.SVC_RING_CFG v s
    if bitOf v 0 then
      [Off.SVC_H2D_TAIL, Off.SVC_H2D_HEAD, Off.SVC_D2H_HEAD, Off.SVC_D2H_TAIL].foldl (fun s o => wr p o 0 s) s
        |> flushHold (ctxTenant s c)
    else s

/-- A count that the host writes: it moves forward, and stays within `most` of `from_` (R458, R459). -/
def countMoves (old new from_ most : Nat) : Bool :=
  decide (ringUsed new old < 2 ^ 31) && decide (ringUsed new from_ ≤ most)

/-- A write of SVC_H2D_TAIL (R458). -/
def h2dTailWrite (c : Nat) (v : Word) (s : State) : State :=
  let p := pgCtx c
  if countMoves (rd s p Off.SVC_H2D_TAIL).toNat v.toNat (rd s p Off.SVC_H2D_HEAD).toNat (h2dSize s c) then wr p Off.SVC_H2D_TAIL v s
  else ctxRefused c s

/-- A write of SVC_D2H_HEAD (R459): it may not pass TAIL. -/
def d2hHeadWrite (c : Nat) (v : Word) (s : State) : State :=
  let p := pgCtx c
  let old := (rd s p Off.SVC_D2H_HEAD).toNat
  if ringUsed v.toNat old ≤ ringUsed (rd s p Off.SVC_D2H_TAIL).toNat old then wr p Off.SVC_D2H_HEAD v s |> flushHold (ctxTenant s c)
  else ctxRefused c s

/-- A write of a service-ring register; without SERVICE they ignore writes (R465). -/
def svcRegWrite (c off : Nat) (v : Word) (s : State) : State :=
  let p := pgCtx c
  if !isService s c then s
  else if off = Off.SVC_RING_CFG then ringCfgWrite c v s
  else if off = Off.SVC_H2D_TAIL then h2dTailWrite c v s
  else if off = Off.SVC_D2H_HEAD then d2hHeadWrite c v s
  else if off = Off.SVC_H2D_HEAD ∨ off = Off.SVC_D2H_TAIL then s
  else if flag s p Off.SVC_RING_CFG 0 then ctxRefused c s
  else if (off = Off.SVC_H2D_BASE_LO ∨ off = Off.SVC_D2H_BASE_LO) ∧ v.toNat % 4096 ≠ 0 then ctxRefused c s
  else wr p off v s

/-- SVC_RING_ENABLE: a write of SVC_RING_CFG. -/
def execSvcRingEnable (w : Func) (c : Nat) (v : Word) (s : State) : State :=
  access w (pgCtx c) Off.SVC_RING_CFG v (svcRegWrite c Off.SVC_RING_CFG v) s

/-- H2D_TAIL_WRITE and D2H_HEAD_WRITE. -/
def execH2dTailWrite (w : Func) (c : Nat) (v : Word) (s : State) : State :=
  access w (pgCtx c) Off.SVC_H2D_TAIL v (svcRegWrite c Off.SVC_H2D_TAIL v) s
def execD2hHeadWrite (w : Func) (c : Nat) (v : Word) (s : State) : State :=
  access w (pgCtx c) Off.SVC_D2H_HEAD v (svcRegWrite c Off.SVC_D2H_HEAD v) s

end Sys2Proof.Machine
end

