-- ==== Sys2Proof/Machine/Decks.lean ====
section
/-! DEFINITION. Decks: handles, staging and DMA, where sections go, installation and unloading, anti-rollback, readiness, and the
restore after Ante (R95–R97, R103–R119, R128). -/
namespace Sys2Proof.Machine

/-! ## Where sections go (R102, R103, R106) -/

/-- Pieces of 4 KiB. -/
def pieces : Nat → List Byte → List (List Byte)
  | 0, _ => []
  | n + 1, bs => if bs.isEmpty then [] else bs.take 4096 :: pieces n (bs.drop 4096)

/-- Write pieces to slots of device memory, each slot whole. -/
def writeSlots (slots : List Nat) (ps : List (List Byte)) (s : State) : State :=
  (slots.zip ps).foldl (fun s e =>
    let t := memWrite e.1 (e.2 ++ List.replicate (4096 - e.2.length) 0) s
    { t with mem := { t.mem with poison := t.mem.poison.filter fun g => g / 4096 != e.1 / 4096 } }) s

/-- A stored Meld tile with the tag of the slot it goes to (R378). -/
def retag (slot : Nat) (bs : List Byte) : List Byte := bs.take 6 ++ leBytes 2 (slot / 4096) ++ bs.drop 8

/-- The home slots of a STREAMED section: DEST_OFFSET counts from the first of the region's slots that its MD homes, and what would lie beyond
the last of them is dropped without a check (DESIGN CHOICE, log 66: the spec gives no unit for the offset and no check). -/
def streamSlots (s : State) (u : DeckUnits) (x : Sect) : List Nat :=
  ((unitSlots u.main).filter fun a => homeMd s a == x.target).drop (x.dest / 4096)

/-- The slots of a section's restore copy: one for each 4 KiB of stored bytes, section after section. -/
def copySlots (u : DeckUnits) (deck : List Byte) (x : Sect) : List Nat :=
  let before := (deckSects deck).foldl (fun n y =>
    if y.idx < x.idx ∧ !(inMemory y.type || isRetained y.type) then n + sectSlots y.len else n) 0
  ((unitSlots u.restore).drop before).take (sectSlots x.len)

def hasCopy (deck : List Byte) (x : Sect) : Bool := deckKind deck != 1 && !(inMemory x.type || isRetained x.type)

/-- Gate-table images go to a tile's slots; a locked slot ignores them (R300). -/
def pwlStore (t first : Nat) (bs : List Byte) (s : State) : State :=
  (List.range (bs.length / 512)).foldl (fun s i =>
    let m := first + i
    if slotLocked s t (4 + m) then s
    else
      (List.range 128).foldl (fun s j =>
        wr (pgSu t) (Off.SU_TBL + 0x200 * m + 4 * j) (BitVec.ofNat 32 (numAt bs (512 * i + 4 * j) 4)) s)
        (setFlag (pgSu t) Off.SU_TBL_STATUS (4 + m) false s)) s

/-- The Call engine's SRAM takes bytes of CALL_MODEL, up to its 2 MiB, while its domain is On (R102, R256). -/
def callWrite (at_ : Nat) (bs : List Byte) (s : State) : State :=
  if domOn s 3 then { s with ce := { s.ce with sram := cellsWrite (bs.take (2 * 2 ^ 20 - at_)) at_ s.ce.sram } } else s

/-- What a section holds, as far as it has arrived, goes to its destination (R106), with nothing where there is no visible one. -/
def placeContent (u : DeckUnits) (deck : List Byte) (x : Sect) (bs : List Byte) (s : State) : State :=
  match x.type with
  | 0x12 => callWrite x.dest bs s
  | 0x20 => sramWrite x.target x.dest (bs.take (12 * 2 ^ 20 - x.dest)) s
  | 0x21 => sramWrite x.target x.dest (bs.take (12 * 2 ^ 20 - x.dest)) s
  | 0x22 => sramWrite x.target x.dest (bs.take (12 * 2 ^ 20 - x.dest)) s
  | 0x23 => pwlStore x.target (x.dest / 512) bs s
  | 0x24 =>
    let slots := streamSlots s u x
    let tiles :=
      if x.meld then ((meldPrefix (x.len + 1) (x.stored deck)).zip slots).map fun e => retag e.2 e.1.1
      else ((pieces (bs.length + 1) bs).zip slots).map fun e => (meldEncode [1, 2, 3] 0 (e.2 / 4096) (pad4k e.1)).1.take 4096
    writeSlots slots tiles s
  | 0x10 =>
    let slots := (unitSlots u.main).drop (x.dest / 4096)
    let data := List.replicate (x.dest % 4096) 0 ++ bs
    writeSlots slots (((pieces (data.length + 1) data).zip slots).map fun e =>
      (meldEncode [1, 2, 3] 0 (e.2 / 4096) (pad4k e.1)).1.take 4096) s
  | _ => s
where
  /-- A tile of 4,096 bytes, completed with zeros. -/
  pad4k (bs : List Byte) : List Byte := bs ++ List.replicate (4096 - bs.length) 0

/-- What has arrived of a section is written to its destination, and its stored bytes to its restore copy (R106). -/
def placeSect (u : DeckUnits) (deck : List Byte) (x : Sect) (s : State) : State :=
  let s := placeContent u deck x (x.written deck) s
  if hasCopy deck x then writeSlots (copySlots u deck x) (pieces (x.len + 1) (x.stored deck)) s else s

/-- Every byte that a section wrote as far as it had arrived is zeroed (R116). -/
def wipeSect (u : DeckUnits) (deck : List Byte) (x : Sect) (s : State) : State :=
  let n := (x.written deck).length
  let zero : List Byte := List.replicate n 0
  let s := match x.type with
    | 0x12 => callWrite x.dest zero s
    | 0x20 => sramWrite x.target x.dest zero s
    | 0x21 => sramWrite x.target x.dest zero s
    | 0x22 => sramWrite x.target x.dest zero s
    | 0x23 => pwlStore x.target (x.dest / 512) zero s
    | 0x24 =>
      let n := if x.meld then (meldPrefix (x.len + 1) (x.stored deck)).length else sectSlots n
      writeSlots ((streamSlots s u x).take n) (List.replicate n []) s
    | 0x10 =>
      let n := sectSlots (x.dest % 4096 + n)
      writeSlots (((unitSlots u.main).drop (x.dest / 4096)).take n) (List.replicate n []) s
    | _ => s
  if hasCopy deck x then writeSlots (copySlots u deck x) (List.replicate (sectSlots (x.stored deck).length) []) s else s

/-! ## Handles and results (R110–R116) -/

def handleOf (s : State) (h : Nat) : Option DeckHandle := (s.boot.handles.find? fun e => e.1 == h).map (·.2)

def setHandle (h : Nat) (x : DeckHandle) (s : State) : State :=
  { s with boot := { s.boot with handles := s.boot.handles.map fun e => if e.1 = h then (h, x) else e } }

def dropHandle (h : Nat) (s : State) : State :=
  { s with boot := { s.boot with handles := s.boot.handles.filter fun e => e.1 != h } }

/-- An argument of the mailbox command (R110). -/
def mbArg (s : State) (k : Nat) : Nat := (rd s pgMb (Off.MB_ARG + 4 * k)).toNat

/-- Does a mailbox command run? -/
def mbBusy (s : State) : Bool := flag s pgMb Off.MB_CMD 31

/-- A result waits to be posted. -/
def mbEnd (op handle code sect detail : Nat) (s : State) : State :=
  { s with boot := { s.boot with cmd := some ⟨op, handle, code, sect, detail⟩ } }

/-- A result is shown in MB_RESULT and MB_DETAIL. -/
def mbShow (c : MbCmd) (s : State) : State :=
  s |> wr pgMb Off.MB_RESULT (BitVec.ofNat 32 (c.code + 256 * c.op + 65536 * (c.handle % 4) + 2 ^ 24 * c.sect))
    |> wr pgMb Off.MB_DETAIL (BitVec.ofNat 32 c.detail)

/-- The burn of SVN_COMMIT is complete when its result is posted (R108, R109). -/
def burnEnd (op : Nat) (s : State) : State :=
  match s.boot.burn with
  | some (k, n) =>
    if op = 6 then
      { s with part := { s.part with arb := updNth (fun o => o ||| fusesTo n) s.part.arb k }, boot := { s.boot with burn := none } }
    else s
  | none => s

/-- The result of the running command is posted at a beat boundary, that of DECK_FINISH once the region entries have taken effect
(R376). The time a command takes is not given (DESIGN CHOICE, log 45). -/
def mbPost (s : State) : State :=
  match s.boot.cmd with
  | none => s
  | some c =>
    if c.op = 4 ∧ !s.mem.pend.isEmpty then s
    else { s with boot := { s.boot with cmd := none } } |> burnEnd c.op |> mbShow c |> setFlag pgMb Off.MB_CMD 31 false |> raise pgMb Evt.MB_CMD_DONE

/-- A handle's deck is ended by the command that runs for it, whose result this is, or by data of an earlier one: the result is then shown at
once, unless the mailbox runs a command of another handle (R114, R116). -/
def mbAnswer (c : MbCmd) (s : State) : State :=
  if s.boot.cmd.isNone && mbBusy s && fld s pgMb Off.MB_CMD 8 2 == c.handle then { s with boot := { s.boot with cmd := some c } }
  else match s.boot.cmd with
    | some d => if d.handle = c.handle then { s with boot := { s.boot with cmd := some { c with op := d.op } } } else s
    | none => if mbBusy s then s else mbShow c s

/-- MB_DETAIL of a refusal (R110): the failure bits for SIGNATURE, else the bytes received for DECK_CHUNK and DECK_DMA, and the slot for
DECK_FINISH of a model deck. -/
def refuseDetail (s : State) (op : Nat) (x : DeckHandle) (b : Bad) : Nat :=
  if b.1 = 0xA then b.2.2
  else if op = 2 ∨ op = 3 then x.bytes.length
  else if op = 4 ∧ deckKind x.bytes = 3 then mbArg s 0
  else b.2.2

/-- A deck is refused (R116): the handle closes, what it wrote is zeroed, the result is posted, and the refusal recorded. R532 gives such a
record no source: the model forms it as SOURCE 0x01, severity CONTAINED, tenant 0, with the result code as CODE, though the codes of that
source are the kinds of R90, and the handle in DETAIL (DESIGN CHOICE, log 66). -/
def deckRefuse (op h : Nat) (b : Bad) (s : State) : State :=
  match handleOf s h with
  | none => s
  | some x =>
    let boot := flag s pgMb Off.MB_READY 1
    let done := if x.bytes.length < 0x1800 ∨ x.bytes.length < tableEnd x.bytes then []
      else (deckSects x.bytes).filter fun y => decide (y.off < x.bytes.length)
    let s := done.foldl (fun s y => wipeSect x.units x.bytes y s) s |> dropHandle h
      |> raise pgMb Evt.MB_DECK_REFUSED |> bump pgMb Off.MB_CNT_REFUSED 1
      |> formRec (mkRec 1 b.1 1 0xFF 0 85 0xFFFF 0 h)
    let s := if boot then setReady 6 true s else s
    mbAnswer ⟨op, h, b.1, b.2.1, refuseDetail s op x b⟩ s

/-- Every open handle that meets a test is aborted (R117). -/
def abortHandles (p : Nat → DeckHandle → Bool) (s : State) : State :=
  (s.boot.handles.filter fun e => p e.1 e.2).foldl (fun s e => deckRefuse (fld s pgMb Off.MB_CMD 0 8) e.1 (0x15, 0xFF, 0) s) s

/-! ## Arrival of container bytes (R104, R106) -/

/-- The installed deck that a deck reloads: its restore failed and the headers agree (R119). -/
def reloadOf (s : State) (d : List Byte) : Option Deck :=
  s.boot.decks.find? fun k => s.boot.reload.contains (k.kind, k.slot) && deckDigest k.bytes == deckDigest d

/-- The state without an installed deck and its regions, against which the deck that reloads it is checked. -/
def withoutDeck (k : Deck) (s : State) : State :=
  let mine (r : Region) : Bool := (k.units.main ++ k.units.restore).any fun u => r.covers (u * 0x200000)
  let s := { s with boot := { s.boot with decks := s.boot.decks.filter fun e => !(e.kind == k.kind && e.slot == k.slot) } }
  ((List.range 64).filter fun i => mine (regionAt s i)).foldl (fun s i => wr (pgMemenc 0) (Off.MEMENC_REGION_SIZE + 16 * i) 0 s) s

/-- Is a deck of the header's kind, on handle h, out of order: only the boot deck before DIES_READY, none after; one service deck, installed
or offered on another handle (R95, R112)? -/
def kindClosed (s : State) (h : Nat) (d : List Byte) : Bool :=
  if flag s pgMb Off.MB_READY 1 then deckKind d != 1
  else deckKind d == 1 || (deckKind d == 2 && (((deckOf s 2).isSome && (reloadOf s d).isNone) ||
    s.boot.handles.any fun e => e.1 != h && decide (256 ≤ e.2.bytes.length) && deckKind e.2.bytes == 2))

/-- Container bytes arrive at a handle: they are checked, and sections that end in them go to their destinations. Answers the failed check,
with code BAD_OP (2) for a deck out of order. -/
def deckArrive (h : Nat) (data : List Byte) (s : State) : Option Bad × State :=
  match handleOf s h with
  | none => (none, s)
  | some x =>
    let n0 := x.bytes.length
    let d := x.bytes ++ data
    let n1 := d.length
    let f := fresh s
    let old := reloadOf s d
    let seen := match old with
      | some k => withoutDeck k f.2
      | none => f.2
    let bad := deckCheck seen x.total (f.1 % 13 + 6) n0 n1 d
    if n0 < 256 ∧ 256 ≤ n1 ∧ kindClosed s h d ∧ (bad.all fun b => 256 < b.2) then (some (2, 0xFF, 0), f.2)
    else
      -- what has been read before the check that fails has been written
      let n1 := (bad.map (·.2)).getD n1
      let d := d.take n1
      let table := decide (0x1800 ≤ n1) && decide (tableEnd d ≤ n1)
      let units := if table && (n0 < 0x1800 || n0 < tableEnd d) then
          (match old with
          | some k => k.units
          | none => (chooseUnits seen d).getD ⟨[], []⟩)
        else x.units
      let due := if table then (deckSects d).filter fun y => decide (n0 < y.off + y.len) && decide (y.off < n1) else []
      (bad.map (·.1), due.foldl (fun s y => placeSect units d y s) (setHandle h { x with bytes := d, units } f.2))

/-- Bytes that a command brought are consumed: the deck is refused, closed as out of order, or goes on. -/
def deckTake (op h : Nat) (data : List Byte) (last : Bool) (s : State) : State :=
  let n := ((handleOf s h).map fun x => x.bytes.length).getD 0 + data.length
  let r := deckArrive h data s
  match r.1 with
  | some (2, _, _) => dropHandle h r.2 |> mbAnswer ⟨op, h, 2, 0xFF, 0⟩
  | some b => deckRefuse op h b r.2
  | none => if last then mbEnd op h 0 0xFF n r.2 else r.2

/-! ## Commands (R111–R114) -/

/-- DECK_BEGIN (R111, R112). -/
def deckBegin (s : State) : State :=
  let dma := mbArg s 1 % 2 == 1
  let total := mbArg s 0
  let open_ (code detail h : Nat) (s : State) : State := mbEnd 1 h code 0xFF detail s
  if !((flag s pgMb Off.MB_READY 1 && !dma) || flag s pgMb Off.MB_READY 3) then open_ 2 0 0 s
  else if 4 ≤ s.boot.handles.length ∨ (!dma && s.boot.handles.any fun e => !e.2.dma) then open_ 1 0 0 s
  else if total < 0x3000 ∨ 0xFFFFF000 < total then open_ 5 0 0 s
  else
    let h := ((List.range 4).find? fun i => (handleOf s i).isNone).getD 0
    let x : DeckHandle := { dma, total, bytes := [], dmaRun := false, list := [], pri := false, units := ⟨[], []⟩ }
    { s with boot := { s.boot with handles := insertBy Prod.fst (h, x) s.boot.handles } } |> open_ 0 h h

/-- DECK_CHUNK (R113). -/
def deckChunk (h : Nat) (s : State) : State :=
  match handleOf s h with
  | none => mbEnd 2 h 3 0xFF 0 s
  | some x =>
    let n := x.bytes.length
    let len := mbArg s 1
    if x.dma then mbEnd 2 h 3 0xFF 0 s
    else if mbArg s 0 ≠ n then mbEnd 2 h 4 0xFF n s
    else if !((len % 4096 == 0 && decide (4096 ≤ len) && decide (len ≤ 0x2000000) && decide (n + len ≤ x.total)) ||
        (decide (1 ≤ len) && decide (len ≤ 0x2000000) && n + len == x.total)) then mbEnd 2 h 5 0xFF n s
    else deckTake 2 h ((List.range len).map fun i => sget 0 s.boot.staging i) true s

/-- The entries of a scatter list: address and length (R114). -/
def scatter (list : List Byte) (n : Nat) : List (Nat × Nat) := (List.range n).map fun i => (numAt list (16 * i) 8, numAt list (16 * i + 8) 4)

/-- DECK_DMA: `list` is what host memory answers at the scatter list's address; fewer bytes than were asked for mean an error completion, which
refuses the deck (R114). The result is posted when the list has been read, with the bytes received so far, and the mailbox is free while the
container is read (DEDUCED, log 64: in the worked example the service deck's DECK_FINISH returns while the model deck is read). An entry
before the last that is no multiple of 4 KiB answers LENGTH, and the 4 reserved bytes of an entry are not looked at (DESIGN CHOICE, log 64:
the spec names no check of them). -/
def deckDma (h : Nat) (list : List Byte) (s : State) : State :=
  match handleOf s h with
  | none => mbEnd 3 h 3 0xFF 0 s
  | some x =>
    let n := mbArg s 2
    let es := scatter list n
    if !x.dma then mbEnd 3 h 3 0xFF 0 s
    else if x.dmaRun || !x.bytes.isEmpty || n == 0 || decide (4096 < n) then mbEnd 3 h 5 0xFF x.bytes.length s
    else
      let s := emit (.hostRead 0 (mbArg s 0 + 2 ^ 32 * mbArg s 1) (16 * n)) s
      if list.length < 16 * n then deckRefuse 3 h (0x11, 0xFF, 0) s
      else if (es.dropLast.any fun e => e.2 % 4096 != 0) || es.foldl (fun k e => k + e.2) 0 != x.total then mbEnd 3 h 5 0xFF 0 s
      else es.foldl (fun s e => emit (.hostRead 0 e.1 e.2) s) (setHandle h { x with dmaRun := true, list := es } s) |> mbEnd 3 h 0 0xFF 0

/-- Where the byte at an offset of a scatter list lies in host memory, and how many bytes of its entry are left (R114). -/
def scatterAt : List (Nat × Nat) → Nat → Nat × Nat
  | [], _ => (0, 0)
  | (a, n) :: es, k => if k < n then (a + k, n - k) else scatterAt es (k - n)

/-- DECK_DMA_COMPLETION: a read completion of deck data arrives in the order of the list, or an error completion; none is an ATS translation
miss, which asks for the page and waits for the answer (R114). -/
def execDeckDmaCompletion (h : Nat) (ans : Option HostData) (s : State) : State :=
  match handleOf s h with
  | none => s
  | some x =>
    if !x.dmaRun || x.pri then s
    else match ans with
      | none =>
        setHandle h { x with pri := true } s |> bump pgPcie Off.PCIE_CNT_PRI 1 |> emit (.pageRequest 0 (scatterAt x.list x.bytes.length).1)
      | some (.bytes bs) =>
        let bs := bs.take (x.total - x.bytes.length)
        let last := decide (x.total ≤ x.bytes.length + bs.length)
        let s := if last then setHandle h { x with dmaRun := false } s else s
        deckTake 3 h bs false s
      | some _ => deckRefuse 3 h (0x11, 0xFF, 0) s

/-- The answer to the page request of a handle's read: Success (0) lets the read go on from the same byte, any other refuses the deck with
DMA_FAULT (R114; log 64). -/
def deckPri (h code : Nat) (s : State) : State :=
  match handleOf s h with
  | none => s
  | some x =>
    if !x.pri then s
    else if code = 0 then
      let at_ := scatterAt x.list x.bytes.length
      setHandle h { x with pri := false } s |> emit (.hostRead 0 at_.1 at_.2)
    else deckRefuse 3 h (0x11, 0xFF, 0) s

/-! ## Installation (R97, R102, R103, R118, R237, R300, R376) -/

/-- Runs of neighbouring units, as first and count. -/
def unitRuns : List Nat → List (Nat × Nat)
  | [] => []
  | a :: r =>
    match unitRuns r with
    | (b, n) :: t => if b = a + 1 then (a, n + 1) :: t else (a, 1) :: (b, n) :: t
    | [] => [(a, 1)]

/-- The region entries of a deck: first unit, count, kind, model slot. -/
def deckRegions (k : Deck) : List (Nat × Nat × Nat × Nat) :=
  ((unitRuns k.units.main).map fun e => (e.1, e.2, if k.kind = 2 then 1 else 2, if k.kind = 3 then k.slot else 0)) ++
    (unitRuns k.units.restore).map fun e => (e.1, e.2, 3, 0)

/-- Region entries that are free. -/
def freeEntries (s : State) : List Nat :=
  (List.range 64).filter fun i => !(regionAt s i).valid && !(s.mem.pend.any fun e => e.entry == i)

/-- A deck's regions enter the table, locked, with every codec (R374). -/
def addRegions (k : Deck) (s : State) : State :=
  ((freeEntries s).zip (deckRegions k)).foldl (fun s e =>
    regionApply e.1 (BitVec.ofNat 32 e.2.1) (BitVec.ofNat 32 e.2.2.1)
      (BitVec.ofNat 32 (e.2.2.2.1 + 128 * e.2.2.2.2 + 0x7000 + 2 ^ 31)) s) s

/-- The root of trust writes the entries of the installed decks again, once the page that lost them has power (R91, R374). -/
def regionsAgain (s : State) : State :=
  if s.boot.regionsDue && pageOn s (pgMemenc 0) then
    (s.boot.decks.filter fun k => k.kind != 1).foldl (fun s k => addRegions k s) { s with boot := { s.boot with regionsDue := false } }
  else s

/-- The entries of a deck's regions leave the table. -/
def dropRegions (k : Deck) (s : State) : State :=
  let mine (r : Region) : Bool := (k.units.main ++ k.units.restore).any fun u => r.covers (u * 0x200000)
  ((List.range 64).filter fun i => mine (regionAt s i)).foldl (fun s i => regionApply i 0 0 0x7000 s) s

/-- A section's entry on its tile: owned by the model slot, locked, not writable, fetchable for a program (R237). A tile without a free
entry gives none (DEDUCED, log 46). -/
def addEntry (slot : Nat) (x : Sect) (s : State) : State :=
  let base := x.dest / 4096
  let size := ceilDiv (x.dest + x.destLen) 4096 - base
  match (List.range 16).find? fun k => entrySize ((tileRegions s x.target).getD k (0, 0)) == 0 with
  | none => s
  | some k =>
    s |> wr (pgTsp x.target) (0x100 + 8 * k) (BitVec.ofNat 32 (base + 4096 * size))
      |> wr (pgTsp x.target) (0x104 + 8 * k) (BitVec.ofNat 32 (slot + 0x400 + 0x800 + (if x.type = 0x20 then 0x1000 else 0) + 0x4000))

/-- The tile entries of a model slot leave their tiles. -/
def dropEntries (slot : Nat) (s : State) : State :=
  let s := { s with fc := { s.fc with marked := s.fc.marked.filter fun m => m.2 != 16 + slot } }
  (List.range 64).foldl (fun s t =>
    (List.range 16).foldl (fun s k =>
      let e := (tileRegions s t).getD k (0, 0)
      if entryLocked e && entryIsSlot e && entryOwner e % 16 == slot then
        { s with fc := { s.fc with marked := s.fc.marked.filter fun m => m != (t, k) } }
          |> wr (pgTsp t) (0x100 + 8 * k) 0 |> wr (pgTsp t) (0x104 + 8 * k) 0
      else s) s) s

/-- A deck's gate-table slots become VALID and LOCKED, or empty again (R300). -/
def lockTables (deck : List Byte) (on : Bool) (s : State) : State :=
  ((deckSects deck).filter fun x => x.type == 0x23).foldl (fun s x =>
    (List.range (x.destLen / 512)).foldl (fun s i =>
      let k := 4 + x.dest / 512 + i
      s |> setFlag (pgSu x.target) Off.SU_TBL_STATUS k on |> setFlag (pgSu x.target) Off.SU_TBL_STATUS (8 + k) on) s) s

/-- An installation or unload while hand history records leaves a GAP (R565). -/
def deckChanged (s : State) : State :=
  if hhMode s = 1 && domOn s 3 then
    hhCapture 4 72 0 (leBytes 4 0 ++ leBytes 4 0 ++ leBytes 8 (64 * beatNo s)) s
      |> raise pgHh Evt.HH_GAP |> setFlag pgHh Off.HH_STATUS 0 false |> bump pgHh Off.HH_CNT_GAPS 1
  else s

/-- The entries of a REG_INIT section: address, value, mask (R102). -/
def regInitOf (deck : List Byte) : List (Nat × Nat × Nat) :=
  let bs := (((deckSects deck).find? fun x => x.type == 0x13).bind fun x => x.content deck).getD []
  (List.range (bs.length / 16)).map fun i => (numAt bs (16 * i) 4, numAt bs (16 * i + 4) 4, numAt bs (16 * i + 8) 4)

/-- A wake map: seven targets of 0 to 4, read off a number. -/
def wakeMap (n : Nat) : Nat := (List.range 7).foldl (fun x i => x + n / 5 ^ i % 5 * 8 ^ i) 0

/-- The service starts: register initialisation, the wake map and the ring policy of the POLICY section, whose content is not given, and
the Call engine's model (R97, R102, R135, R493). -/
def serviceStart (deck : List Byte) (s : State) : State :=
  let f := fresh s
  let on := f.1 % 2 == 1 && !flag s pgMb Off.MB_RING_POLICY 1
  { f.2 with boot := { f.2.boot with regInit := regInitOf deck } } |> setFlag pgMb Off.MB_RING_POLICY 0 on
    |> wr pgPower Off.PWR_WAKE_MAP (BitVec.ofNat 32 (wakeMap (f.1 / 2))) |> setReady 4 true |> ceRestart

/-- Every deck that had to be reloaded is there again (R119, R128). -/
def reloadEnd (s : State) : State :=
  if !s.boot.reload.isEmpty || !restoreNeeded s then s
  else
    let s := setReady 7 false { s with pwr := { s.pwr with owed := false } }
    if s.pwr.stalled then startClimb (pwrTarget s) s else s

/-- A deck is installed. -/
def deckInstall (h slot : Nat) (x : DeckHandle) (s : State) : State :=
  let kind := deckKind x.bytes
  let again := (reloadOf s x.bytes).isSome
  let k : Deck := { kind, slot := if kind = 3 then slot else 0, bytes := x.bytes, units := x.units }
  let others := s.boot.decks.filter fun e => !(e.kind == kind && e.slot == k.slot)
  let s := dropHandle h { s with boot := { s.boot with decks := others ++ [k], reload := s.boot.reload.filter fun e => e != (kind, k.slot) } }
    |> bump pgMb Off.MB_CNT_ACCEPTED 1
  let s :=
    match kind with
    | 1 => s |> diceLayer x.bytes |> setReady 6 false |> setReady 1 false |> setReady 2 true
    | 2 => if again then s else addRegions k s |> serviceStart x.bytes
    | _ =>
      let s := if again then s else addRegions k s
      -- the bits of MB_READY are set in their order (R97)
      let s := if flag s pgMb Off.MB_READY 5 then setReady (16 + slot) true s else s
      let s := dropEntries slot s
      ((deckSects x.bytes).filter fun y => onTile y.target y).foldl (fun s y => addEntry slot y s) s |> lockTables x.bytes true
  reloadEnd (deckChanged s)

/-- DECK_FINISH (R111, R115). INCOMPLETE lies in R116's range of refusing codes and R115 leaves the handle open: the model follows R115, which
speaks of this case (DESIGN CHOICE, log 64). -/
def deckFinish (h : Nat) (s : State) : State :=
  match handleOf s h with
  | none => mbEnd 4 h 3 0xFF 0 s
  | some x =>
    let slot := mbArg s 0
    let kind := deckKind x.bytes
    let want := s.boot.reload.contains (kind, if kind = 3 then slot else 0)
    let same := (reloadOf s x.bytes).any fun k => kind != 3 || k.slot == slot
    let runs := (unitRuns x.units.main).length + (unitRuns x.units.restore).length
    let detail := if kind = 3 then slot else 0
    if x.bytes.length < x.total then mbEnd 4 h 0x12 0xFF detail s
    else if kind = 3 ∧ 16 ≤ slot then mbEnd 4 h 2 0xFF detail s
    else if kind = 3 ∧ (modelDeck s slot).isSome ∧ !want then mbEnd 4 h 0x13 0xFF detail s
    -- a deck other than the one to be reloaded, which the spec gives no code
    else if want && !same then
      let f := fresh s
      deckRefuse 4 h (f.1 % 13 + 6, 0xFF, 0) f.2
    else if (reloadOf s x.bytes).isNone ∧ (freeEntries s).length < runs then deckRefuse 4 h (0xF, 0xFF, 0) s
    else deckInstall h slot x s |> mbEnd 4 h 0 0xFF detail

/-- SVN_COMMIT (R108, R109): the burn is under way until the result is posted. -/
def svnCommit (s : State) : State :=
  let k := mbArg s 0
  let svns := (s.boot.decks.filter fun d => deckArb d.bytes == k).map fun d => deckSvn d.bytes
  if !flag s pgMb Off.MB_READY 2 || decide (16 ≤ k) then mbEnd 6 0 2 0xFF 0 s
  else match svns with
    | [] => mbEnd 6 0 0x16 0xFF 0 s
    | v :: vs =>
      let n := Nat.min 64 (vs.foldl Nat.min v)
      { s with boot := { s.boot with burn := some (k, n) } } |> mbEnd 6 0 0 0xFF 0

/-- Does a bind in the present beat hold a context to a slot: an unload of the beat takes effect before it (R118)? -/
def boundNow (s : State) (c : Nat) : Bool := (ctxOf s c).bound == s.tt.beats

/-- Contexts bound, or being bound, to a model slot (R118, R453). -/
def boundTo (s : State) (slot : Nat) : List Nat :=
  (s.host.ctxs.map (·.1)).filter fun c =>
    let st := fld s (pgCtx c) Off.CTX_STATUS 0 3
    (st == 2 || st == 3) && fld s (pgCtx c) Off.CTX_STATUS 4 4 == slot

/-- A bind that committed in the beat of an unload finds the slot empty: it ends with SLOT_EMPTY (R118, R452). -/
def unbindNow (c : Nat) (s : State) : State :=
  s |> setFld (pgCtx c) Off.CTX_STATUS 0 3 1 |> setFld (pgCtx c) Off.CTX_STATUS 8 8 7 |> setFlag (pgCtx c) Off.CTX_CMD 31 false
    |> raise (pgCtx c) Evt.CTX_CMD_DONE

/-- MODEL_UNLOAD (R118). Of a slot that is empty it answers NOT_INSTALLED (DESIGN CHOICE, log 64: the spec states no code). -/
def modelUnload (s : State) : State :=
  let slot := mbArg s 0
  if !flag s pgMb Off.MB_READY 2 || decide (16 ≤ slot) then mbEnd 7 0 2 0xFF 0 s
  else match modelDeck s slot with
    | none => mbEnd 7 0 0x16 0xFF 0 s
    | some k =>
      if (boundTo s slot).any fun c => !boundNow s c then mbEnd 7 0 0x13 0xFF 0 s
      else
        let s := (boundTo s slot).foldl (fun s c => unbindNow c s) s
        { s with
          boot := { s.boot with decks := s.boot.decks.filter fun e => !(e.kind == 3 && e.slot == slot)
                                reload := s.boot.reload.filter fun e => e != (3, slot) }
          host := { s.host with placed := s.host.placed.filter fun e => e % 16 != slot } }
          |> dropRegions k |> dropEntries slot |> lockTables k.bytes false |> setReady (16 + slot) false
          |> deckChanged |> reloadEnd |> mbEnd 7 0 0 0xFF 0

/-- The operation of a command. -/
def mbRun (op h : Nat) (list : List Byte) (s : State) : State :=
  match op with
  | 1 => deckBegin s
  | 2 => deckChunk h s
  | 3 => deckDma h list s
  | 4 => deckFinish h s
  | 5 => if (handleOf s h).isSome then deckRefuse 5 h (0x15, 0xFF, 0) s else mbEnd 5 h 3 0xFF 0 s
  | 6 => svnCommit s
  | 7 => modelUnload s
  | _ => mbEnd op h 2 0xFF 0 s

/-- A write of MB_CMD (R110). A device in the fatal state takes no command (R554), and the page starts none while its ENABLE is 0 (R77). -/
def mbCmdWrite (v : Word) (list : List Byte) (s : State) : State :=
  if deviceFatal s then s
  else if mbBusy s then bump pgMb Off.MB_CNT_CMD_REFUSED 1 s
  else
    let go := bitOf v 31 && flag s pgMb Off.CTRL 0
    let s := wr pgMb Off.MB_CMD (v &&& (if go then 0x800003FF else 0x3FF)) s
    if go then mbRun (fieldOf v 0 8) (fieldOf v 8 2) list s else s

/-- A write of MB_CMD with an operation, a handle and GO. -/
def mbCommand (w : Func) (op h : Nat) (list : List Byte) (s : State) : State :=
  let v : Word := BitVec.ofNat 32 (op + 256 * (h % 4) + 2 ^ 31)
  accessWith list w pgMb Off.MB_CMD v (mbCmdWrite v list) s

/-- DECK_BEGIN, DECK_CHUNK, DECK_DMA, DECK_FINISH, DECK_ABORT, SVN_COMMIT, MODEL_UNLOAD: writes of MB_CMD. -/
def execDeckBegin (w : Func) (s : State) : State := mbCommand w 1 0 [] s
def execDeckChunk (w : Func) (h : Nat) (s : State) : State := mbCommand w 2 h [] s
def execDeckDma (w : Func) (h : Nat) (list : List Byte) (s : State) : State := mbCommand w 3 h list s
def execDeckFinish (w : Func) (h : Nat) (s : State) : State := mbCommand w 4 h [] s
def execDeckAbort (w : Func) (h : Nat) (s : State) : State := mbCommand w 5 h [] s
def execSvnCommit (w : Func) (s : State) : State := mbCommand w 6 0 [] s
def execModelUnload (w : Func) (s : State) : State := mbCommand w 7 0 [] s

/-- STAGING_WRITE: a memory write of the PF to BAR2; while DECK_CHUNK runs it is discarded (R113). The record's ADDR is the offset in BAR2 and
its island the root of trust's, 85 (DESIGN CHOICE, log 66: the spec names no encoding for an address in BAR2). -/
def execStagingWrite (off : Nat) (data : List Byte) (s : State) : State :=
  match hostLink s .pf with
  | .unsupported => emit (.unsupported .pf) s
  | .waits => hold (.staging off data) s
  | .ok =>
    if mbBusy s && fld s pgMb Off.MB_CMD 0 8 == 2 then
      s |> bump pgFc Off.FC_CNT_ACCESS 1 |> bump pgMb Off.MB_CNT_STAGING_BUSY 1
        |> formRec (mkRec 1 0xC 1 0xFF 0 85 0xFFFF off 0)
    else
      { s with boot := { s.boot with staging := (cellsWrite data off s.boot.staging).filter fun c => decide (c.1 < 0x2000000) } }
  | _ => s

/-! ## Readiness (R96, R97) -/

/-- DIES_READY: the boot deck has trained links and stacks, written every stack full, loaded key slot 0 and released the management
cores; an engine starts commands (DEDUCED, log 47). -/
def execDiesReady (s : State) : State :=
  if !flag s pgMb Off.MB_READY 2 || flag s pgMb Off.MB_READY 3 then s
  else
    let s := setReady 3 true { s with hbm := [], mem := { s.mem with poison := [], keys := sset ⟨0, 0, 0, []⟩ s.mem.keys 0 ⟨2, 0, 0, []⟩ } }
    let s := (List.range s.part.stackCount).foldl (fun s n =>
      if domOn s (5 + n) then s |> trainStack n |> setFlag (pgQe n) Off.CTRL 0 true else s) s
    (List.range 4).foldl (fun s d => if domOn s (7 + d) then trainLinks d s else s) s

/-- SERVICE_READY: the service has armed the wake path and its rings (R97); the Call engine is enabled (DEDUCED, log 47), and the service
contexts that exist are told, by a service that the watchdog has restarted once more (R553). -/
def execServiceReady (s : State) : State :=
  if !flag s pgMb Off.MB_READY 4 || !s.boot.regInit.isEmpty then s
  else
    let v := ((deckOf s 2).map fun d => deckVersion d.bytes).getD 0
    let s := if flag s pgMb Off.MB_READY 5 then s else
      (modelDecks s).foldl (fun s k => setReady (16 + k.slot) true s) (s |> setReady 5 true |> setFlag pgCe Off.CTRL 0 true)
    if serviceRuns s then (List.range 16).foldl (fun s t => postStatus t 1 v 0 s) s else s

/-- MODEL_RESTARTED: the copy of CALL_MODEL is complete and the model runs from the consume pointer; sign-off is no longer
withheld from its first beat on, while CTRL.EXPERT reads 0 (R166, R256, R258). -/
def execModelRestarted (s : State) : State :=
  match deckOf s 2 with
  | some k =>
    if s.ce.copying && domOn s 3 && !busy s pgCe then
      let s := ((deckSects k.bytes).filter fun x => x.type == 0x12).foldl (fun s x =>
        callWrite x.dest ((x.content k.bytes).getD []) s) s
      { s with ce := { s.ce with copying := false, loaded := true, changed := false, running := true, clean := !flag s pgCe Off.CTRL 2 } }
        |> setFlag pgCe Off.CE_RESTART 0 false |> setFlag pgCe Off.CE_STATUS 0 true |> ceAccept
    else s
  | none => s

/-! ## The restore (R119, R128) -/

/-- The stored bytes of a section as its copy holds them. -/
def copyBytes (s : State) (k : Deck) (x : Sect) : List Byte :=
  (((copySlots k.units k.bytes x).flatMap fun a => memRead s a 4096).take x.len)

/-- The 4 KiB slots that a section whose destination is device memory holds there, as it was installed. -/
def heldSlots (s : State) (k : Deck) (x : Sect) : List (Nat × List Byte) :=
  let t := placeContent k.units k.bytes x (x.written k.bytes) { s with hbm := [] }
  let slots := if x.type = 0x24 then streamSlots s k.units x else (unitSlots k.units.main).drop (x.dest / 4096)
  (slots.take (sectSlots (x.dest % 4096 + x.destLen))).map fun a => (a, memRead t a 4096)

/-- Does a section in device memory still hold what was installed, so that it agrees with its retained digest (R119)? -/
def heldOk (s : State) (k : Deck) (x : Sect) : Bool :=
  (heldSlots s k x).all fun e => memRead s e.1 4096 == e.2 && !(s.mem.poison.any fun g => g / 4096 == e.1 / 4096)

/-- Is the copy of a section there, with no granule that its reader would be answered an error for (R119, R373)? -/
def copyClean (s : State) (k : Deck) (x : Sect) : Bool :=
  (copySlots k.units k.bytes x).all fun a => !(s.mem.poison.any fun g => g / 4096 == a / 4096)

/-- Do the copies of a deck, and its sections in device memory, agree with its section digests (R119)? -/
def copiesOk (s : State) (k : Deck) : Bool :=
  (deckSects k.bytes).all fun x =>
    if hasCopy k.bytes x then copyClean s k x && Config.sha384 (copyBytes s k x) == x.digest
    else !inMemory x.type || heldOk s k x

/-- One deck is restored, or has to be reloaded. -/
def restoreDeck (k : Deck) (s : State) : State :=
  if s.boot.reload.contains (k.kind, k.slot) then s
  else if !copiesOk s k then { s with boot := { s.boot with reload := s.boot.reload ++ [(k.kind, k.slot)] } }
  else
    let s := ((deckSects k.bytes).filter fun x => x.type == 0x20 || x.type == 0x21 || x.type == 0x22 || x.type == 0x23).foldl (fun s x =>
      match x.content k.bytes with
      | some bs => placeContent k.units k.bytes x bs s
      | none => s) s
    if k.kind = 3 then
      let s := dropEntries k.slot s
      ((deckSects k.bytes).filter fun y => onTile y.target y).foldl (fun s y => addEntry k.slot y s) s |> lockTables k.bytes true
    else s

/-- RESTORE_DONE: the root of trust has restored the decks, or asks for a reload; the climb goes on or stops at Call (R119, R128). A restore
ends only while the dies it needs are On; those that the state does not keep On go back to their levels, one at a time (R144). -/
def execRestoreDone (s : State) : State :=
  if !(restoring s && decide (2 ≤ pwrState s) && domainsAt s (restoreLevel s)) then s
  else
    let s := (s.boot.decks.filter fun k => k.kind != 1).foldl (fun s k => restoreDeck k s) s
    let s := s |> setFld pgPower Off.PWR_STATE 9 1 0 |> raise pgPower Evt.PWR_RESTORE_DONE
    let s := if s.boot.reload.isEmpty then { s with pwr := { s.pwr with owed := false } } else setReady 7 true s
    let s := { s with pwr := { s.pwr with settling := true } }
    if pwrPhase s = 5 then climbOn s |> settleQueues fun _ => true else s

end Sys2Proof.Machine
end

