-- ==== Sys2Proof/Machine/Supply.lean ====
section
/-! DEFINITION. Failures of the supplies: a lost power-good, a trip, the loss of VDD_AON (R109, R117, R580, R588). -/
namespace Sys2Proof.Machine

/-- Both enables low without quiesce: every domain but the keeper, the always-on domain and the root of trust is lost, with every
context, installed deck and the contents of HBM; open handles are aborted (R117); the link is down, and the device waits for PERST# (R580).
A burn under way is cut, since the root of trust's command ends with them (R109); wake events of the beat are not recorded (R580). -/
def mainPowerLost (s : State) : State :=
  let s := burnCut (abortHandles (fun _ _ => true) (unwake s))
  let s := (rangeFrom 3 12).foldl (fun s d => domainTo d 0 s) s
  { s with
    pwr := { s.pwr with settling := false }
    tt := { s.tt with run := false, locking := false, commits := [] }
    boot := { s.boot with phase := .waitPerst, vrMain := false, vrMem := false, mainPg := false, memPg := false, handles := []
                          staging := [], decks := [], cmd := none, reload := [], regInit := [], burn := none, linksDue := [], regionsDue := false }
    host := { s.host with linkUp := false, ctxs := [], holds := [], waiting := [], sends := [] }
    queues := [], hbm := [] } |> setFlag pgTT Off.TT_STATUS 0 false

/-- POWER_GOOD_FAILURE: a power-good input falls for more than 10 µs while its enable is high, or does not rise within 1 ms (R580). -/
def execPowerGoodFailure (r : Rail) (s : State) : State :=
  let on := match r with
    | .main => s.boot.vrMain
    | .mem => s.boot.vrMem
  if on && s.boot.phase != .waitPerst && s.boot.phase != .unpowered then mainPowerLost s else s

/-- POWER_LOSS: VDD_AON falls, and everything but the fuses is lost until power returns (R109, R580). -/
def execPowerLoss (s : State) : State :=
  let t := wholeReset (burnCut s)
  { t with tt := { t.tt with run := false }
           pwr := { t.pwr with dom := List.replicate 15 0 }
           boot := { t.boot with phase := .unpowered, vrMain := false, vrMem := false } }

/-- TRIP_SHUTDOWN: 1 ms after a trip both enables are driven low (R588). -/
def execTripShutdown (s : State) : State :=
  match s.pwr.tripAt with
  | some b =>
    if elapsed s b 1000000 && s.boot.phase != .waitPerst && s.boot.phase != .unpowered then
      { mainPowerLost s with pwr := { (mainPowerLost s).pwr with tripAt := none } }
    else s
  | none => s

end Sys2Proof.Machine
end

