-- ==== Sys2Proof/Machine/Contexts.lean ====
section
/-! DEFINITION. Contexts, the PCIe functions' resets and power states, configuration writes, interrupt masks and page requests
(R443–R456, R465, R483, R484, R486, R492). -/
namespace Sys2Proof.Machine

/-! ## Work of a context -/

/-- Does a tile, or a stem engine, hold a launch or run a kernel of a context? -/
def tileWorks (x : TileSt) (c : Nat) : Bool :=
  x.fifo.any (fun l => l.ctx == c) || (x.kernel.any fun k => k.launch.ctx == c)
def stemWorks (x : StemSt) (c : Nat) : Bool := x.fifo.any (fun l => l.ctx == c) || (x.job.any fun j => j.launch.ctx == c)

/-- Is every queue of a context IDLE and nothing of it held or running (R452, R454)? -/
def ctxQuiet (s : State) (c : Nat) : Bool :=
  !(s.queues.any fun e => queueCtx e.1 == c && e.2.state != 0) && !(s.tiles.any fun e => tileWorks e.2 c) &&
    !(s.stems.any fun e => stemWorks e.2 c)

/-- The reset domains that hold work of a context: tiles, stem engines, and the engine of its queues. -/
def workDomains (s : State) (c : Nat) : List Nat :=
  (s.tiles.filter fun e => tileWorks e.2 c).map (·.1) ++ (s.stems.filter fun e => stemWorks e.2 c).map (fun e => 68 + e.1) ++
    (if s.queues.any fun e => queueCtx e.1 == c && e.2.state != 0 then [72 + c % Nat.max 1 s.part.stackCount] else [])

/-! ## Expert unlocks that end (R84, R486) -/

/-- The pages on which CTRL.EXPERT is set. -/
def expertPages (s : State) : List Page :=
  (s.regs.filter fun e => e.1 % 0x1000 == Off.CTRL && bitOf e.2 2).filterMap fun e => (pageOf e.1).map (·.1)

/-- A grant is withdrawn from a page. The withdrawal goes before the beat's requests to set CTRL.EXPERT, which are refused under R83; a page
that one of them unlocked was not unlocked when the grant ended. -/
def withdrawAt (g : Page) (s : State) : State :=
  let mine := s.head.asks.filter fun a => a.page == pageBase g
  let s := expertClear g { s with head := { s.head with asks := s.head.asks.filter fun a => a.page != pageBase g } }
  let s := if mine.any (·.granted) then s else bump pgMb Off.MB_CNT_EXPERT_WITHDRAWN 1 s
  mine.foldl (fun s a => accessError 4 a.by_ (pageBase g + Off.CTRL) s) s

/-- Grants are withdrawn from the pages that meet a test of page and holder. -/
def withdraw (p : Page → Nat → Bool) (s : State) : State :=
  ((expertPages s).filter fun g => p g (fld s g Off.CTRL 4 5)).foldl (fun s g => withdrawAt g s) s

/-! ## CTX_CMD (R452–R454) -/

def ctxState (s : State) (c : Nat) : Nat := fld s (pgCtx c) Off.CTX_STATUS 0 3
def setCtxState (c n : Nat) (s : State) : State := setFld (pgCtx c) Off.CTX_STATUS 0 3 n s

/-- The result of a context command is posted. -/
def ctxResult (c code : Nat) (s : State) : State :=
  s |> setFld (pgCtx c) Off.CTX_STATUS 8 8 code |> setFlag (pgCtx c) Off.CTX_CMD 31 false |> raise (pgCtx c) Evt.CTX_CMD_DONE

/-- The context whose attributes meet a test, other than c. -/
def otherCtx (s : State) (c : Nat) (p : CtxSt → Bool) : Bool := s.host.ctxs.any fun e => e.1 != c && p e.2

/-- The first check of CREATE that fails, or 0. -/
def createCheck (s : State) (w : Func) (c : Nat) : Nat :=
  let p := pgCtx c
  let t := fld s p Off.CTX_CFG 0 4
  let same (x : CtxSt) : Bool := fieldOf x.cfg 0 4 == t
  if ctxState s c ≠ 0 ∨ flag s pgHh Off.HH_STATUS 1 ∨ (w = .pf ∧ tdiHeld s t) then 1
  else if !tenantExists s t then 2
  else if t ≠ 0 ∧ otherCtx s c (fun x => same x && fieldOf x.cfg 4 8 == fld s p Off.CTX_CFG 4 8) then 3
  else if fld s p Off.CTX_CFG 16 8 ≠ 0 ∧ !keyAssigned s (fld s p Off.CTX_CFG 16 8) t then 4
  else if flag s p Off.CTX_PASID 31 && otherCtx s c (fun x => same x && bitOf x.pasid 31 && fieldOf x.pasid 0 20 == fld s p Off.CTX_PASID 0 20)
    then 5
  else if flag s p Off.CTX_CFG 12 && otherCtx s c (fun x => same x && bitOf x.cfg 12) then 6
  else 0

/-- CREATE (R452): the attributes are latched; a page that becomes a VF's names its owner and starts locked (R84, R87). -/
def ctxCreate (w : Func) (c : Nat) (s : State) : State :=
  let p := pgCtx c
  let t := fld s p Off.CTX_CFG 0 4
  let code := createCheck s w c
  if code ≠ 0 then
    (if w = .pf ∧ ctxState s c = 0 ∧ tdiHeld s t then s |> tdiRefuse |> ctxRefused c else s) |> ctxResult c code
  else
    let x : CtxSt := { cfg := rd s p Off.CTX_CFG, pasid := rd s p Off.CTX_PASID, flr := none, bound := 0 }
    let s := clearQueues c { s with host := { s.host with ctxs := sput s.host.ctxs c x } }
      |> setFlag p Off.CTX_STATUS 16 (w == .mgmt) |> setFld p Off.CTX_STATUS 4 4 0 |> setCtxState c 1 |> setFlag p Off.CTRL 0 true
    (if t = 0 then s else setFld p Off.EVT_ROUTE 16 4 t s |> expertClear p) |> ctxResult c 0

/-- What the service finds of a bind of a context to a slot whose deck has been checked: 0, or the reason of R464. Fixed-deal mode's
refusal has no reason of its own, so its reason is a free value (R492). -/
def bindReason (s : State) (c slot : Nat) : Nat :=
  match modelDeck s slot with
  | none => 1
  | some k =>
    let first := ((s.host.placed.find? fun e => e % 16 == slot).map (· / 16)).getD 0
    let p := placementOf k.bytes
    if first ≠ 0 then first
    else if raiseDeck p && (!raisePairOk s (numAt p 0x12 1) (numAt p 0x13 1) || raiseDiffers s k.bytes) then 4
    else if fdOn s && (fdForeign s k.bytes c ||
        (boundTo s slot).any fun o => ctxState s o == 3 && ctxTenant s o != ctxTenant s c) then (fresh s).1 % 2 ^ 32
    else 0

/-- Is a bind refused? -/
def bindBad (s : State) (c slot : Nat) : Bool :=
  bindReason s c slot != 0 || (fdOn s && ((modelDeck s slot).any fun k => fdForeign s k.bytes c ||
    (boundTo s slot).any fun o => ctxState s o == 3 && ctxTenant s o != ctxTenant s c))

/-- A bind completes (R453). -/
def bindDone (c slot : Nat) (s : State) : State :=
  let bad := bindBad s c slot
  let reason := bindReason s c slot
  let s := { s with freeIdx := s.freeIdx + 1 } |> setCtxState c (if bad then 1 else 3) |> ctxResult c (if bad then 8 else 0)
  let tell (t : Nat) (s : State) : State := postStatus t (if bad then 4 else 3) c (if bad then reason else slot) s
  let s := tell 0 s
  if ctxTenant s c = 0 then s else tell (ctxTenant s c) s

/-- BIND (R452, R453). -/
def ctxBind (c slot : Nat) (s : State) : State :=
  if ctxState s c ≠ 1 then ctxResult c 1 s
  else if (modelDeck s slot).isNone then ctxResult c 7 s
  else
    let s := { s with host := { s.host with ctxs := sput s.host.ctxs c { ctxOf s c with bound := s.tt.beats } } }
      |> setFld (pgCtx c) Off.CTX_STATUS 4 4 slot |> setCtxState c 2
    if s.host.placed.any fun e => e % 16 == slot then bindDone c slot s else s

/-- BIND_COMPLETE: the service has checked a slot's PLACEMENT and completes the binds that wait for it (R351, R453). -/
def execBindComplete (slot : Nat) (s : State) : State :=
  let waiting := (boundTo s slot).filter fun c => ctxState s c == 2
  match modelDeck s slot with
  | none => s
  | some k =>
    if !serviceRuns s || waiting.isEmpty || (s.host.placed.any fun e => e % 16 == slot) then s
    else
      let r := placementCheck s k.bytes
      let s := { s with host := { s.host with placed := s.host.placed ++ [slot + 16 * (if r = 4 then 0 else r)] } }
      waiting.foldl (fun s c => bindDone c slot s) s

/-- Every queue of a context is stopped (R454). -/
def stopQueues (c : Nat) (s : State) : State :=
  (s.queues.filter fun e => queueCtx e.1 == c && e.2.state != 0).foldl (fun s e => doorbellOp e.1 5 s |> settleQueue e.1) s

/-- A context begins to be destroyed (R454 steps 1 and 2). -/
def destroyBegin (c : Nat) (s : State) : State := s |> setCtxState c 4 |> stopQueues c |> startCmd (pgCtx c) 0

/-- What a register of a tile's pages holds for a context is given up (R454 step 3). -/
def dropOwner (c a : Nat) (s : State) : State :=
  match pageOf a with
  | none => s
  | some (p, off) =>
    match p.cls with
    | .vector =>
      if Off.VE_QP_OWNER ≤ off ∧ off < Off.VE_QP_OWNER + 0x100 ∧ (off - Off.VE_QP_OWNER) % 16 = 0 ∧ fieldOf (reg s a) 0 10 = c then
        setReg a (putField (reg s a) 31 1 0) s
      else s
    | .streamPort =>
      if Off.TSP_HALO_OWNER ≤ off ∧ off < Off.TSP_HALO_OWNER + 0x100 ∧ fieldOf (reg s a) 0 10 = c then
        setReg a (putField (reg s a) 31 1 0) s
      else if 0x100 ≤ off ∧ off < 0x180 ∧ off % 8 = 0 then
        let e := ((reg s a).toNat, (reg s (a + 4)).toNat)
        if entrySize e ≠ 0 ∧ entryOwner e = c ∧ !entryIsSlot e ∧ !entryLocked e then tileRegionWrite p.idx off 0 s else s
      else s
    | _ => s

/-- What a context owns is released: segments, halo counters, quantisation points, pins, region entries (R454 step 3). -/
def releaseOwned (c : Nat) (s : State) : State :=
  let s := (s.tiles.flatMap fun e =>
    (e.2.segs.filter fun g => g.2.valid && fieldOf g.2.owner 0 10 == c).map fun g => (e.1, g.1)).foldl (fun s e => dropSegment e.1 e.2 s) s
  ((s.regs.map (·.1)).foldl (fun s a => dropOwner c a s) s) |> unpinContext c

/-- Kitty lines and T1 pool lines of a tenant are freed, written back first or not. -/
def freeTenant (t : Nat) (keep : Bool) (s : State) : State :=
  let s := ((List.range s.part.stackCount).filter (kittyLive s)).foldl (fun s n =>
    let mine (l : KLine) : Bool := l.tenant == t && !l.locked
    (if keep then kittyFlush n mine s else s) |> dropLines n mine) s
  s.tiles.foldl (fun s e =>
    if keep then poolInvalidate e.1 (fun l => l.tenant == t) s else updPool e.1 (List.filter fun l => l.tenant != t) s) s

/-- The state of a TDI changes (R482, R494). -/
def setTdi (t x : Nat) (s : State) : State :=
  if tdiState s t = x then s else setFld pgMb Off.MB_TDI_STATE (2 * t) 2 x s |> raise pgMb Evt.MB_TDI_CHANGED

/-- STOP_INTERFACE_REQUEST goes on once the tenant has no context left: its lines are freed and its TDI is unlocked (R484). -/
def tdiStopEnd (t : Nat) (s : State) : State :=
  if !s.sec.stopping.contains t || (s.host.ctxs.any fun e => fieldOf e.2.cfg 0 4 == t) then s
  else
    freeTenant t false { s with sec := { s.sec with stopping := s.sec.stopping.filter fun x => x != t } } |> setTdi t 0
      |> emit (.doe t .tdiStopped)

/-- DESTROY_COMPLETE: the context's work has ended; what it owns is released and it becomes FREE (R454 steps 3 and 4). -/
def execDestroyComplete (c : Nat) (s : State) : State :=
  if ctxExists s c && ctxState s c == 4 && ctxQuiet s c then
    let p := pgCtx c
    let t := ctxTenant s c
    let svc := isService s c
    let s := releaseOwned c s |> clearQueues c |> endCmd p 0
    let s := if svc then setHold t ⟨[], 0⟩ s else s
    let b := pageBase p
    let gone (a : Nat) : Bool := decide (b + Off.CTX_QEVT ≤ a) && decide (a ≤ b + Off.SVC_D2H_TAIL)
    let s := { s with regs := s.regs.filter fun e => !gone e.1 }
    let s := if t = 0 then s else expertClear p s |> setFld p Off.EVT_ROUTE 16 4 0
    let s := { s with host := { s.host with ctxs := s.host.ctxs.filter fun e => e.1 != c } }
    s |> setFlag p Off.CTRL 0 false |> setFld p Off.CTX_STATUS 4 4 0 |> setFlag p Off.CTX_STATUS 16 false |> setCtxState c 0 |> ctxResult c 0
      |> tdiStopEnd t
  else s

/-- The operation of a CTX_CMD. -/
def ctxRun (w : Func) (c op slot : Nat) (s : State) : State :=
  match op with
  | 1 => ctxCreate w c s
  | 2 => ctxBind c slot s
  | 3 => if ctxState s c ≠ 3 then ctxResult c 1 s else if ctxQuiet s c then setCtxState c 1 s |> ctxResult c 0 else ctxResult c 9 s
  | 4 => if ctxState s c = 1 ∨ ctxState s c = 2 ∨ ctxState s c = 3 then destroyBegin c s else ctxResult c 1 s
  | _ => ctxResult c 1 s

/-- A write of CTX_CMD (R452, R465): a VF's is refused, and so is the PF's on a context whose tenant's TDI is locked (R483). -/
def ctxCmd (w : Func) (c : Nat) (v : Word) (s : State) : State :=
  let p := pgCtx c
  if (match w with
    | .vf _ => true
    | _ => false) then ctxRefused c s
  else if flag s p Off.CTX_CMD 31 then s
  else if w == .pf && ctxExists s c && tdiHeld s (ctxTenant s c) then ctxRefused c s |> tdiRefuse
  else
    let s := wr p Off.CTX_CMD (v &&& 0x800000F7) s
    if bitOf v 31 then ctxRun w c (fieldOf v 0 3) (fieldOf v 4 4) s else s

/-- A write of CTX_CMD with an operation, a model slot and GO. -/
def ctxCommand (w : Func) (c op slot : Nat) (s : State) : State :=
  let v : Word := BitVec.ofNat 32 (op + 16 * (slot % 16) + 2 ^ 31)
  access w (pgCtx c) Off.CTX_CMD v (ctxCmd w c v) s

/-- CREATE, BIND, UNBIND, DESTROY: writes of CTX_CMD. -/
def execCreate (w : Func) (c : Nat) (s : State) : State := ctxCommand w c 1 0 s
def execBind (w : Func) (c slot : Nat) (s : State) : State := ctxCommand w c 2 slot s
def execUnbind (w : Func) (c : Nat) (s : State) : State := ctxCommand w c 3 0 s
def execDestroy (w : Func) (c : Nat) (s : State) : State := ctxCommand w c 4 0 s

/-- A write to a context page beyond the head. -/
def ctxRegWrite (w : Func) (c off : Nat) (v : Word) (s : State) : State :=
  let p := pgCtx c
  let vf := match w with
    | .vf _ => true
    | _ => false
  if off = Off.CTX_CFG ∨ off = Off.CTX_PASID then (if vf then ctxRefused c s else plainWrite p off v s)
  else if off = Off.CTX_CMD then ctxCmd w c v s
  else if Off.SVC_RING_CFG ≤ off ∧ off ≤ Off.SVC_D2H_TAIL then svcRegWrite c off v s
  else if Off.QREC ≤ off ∧ off < Off.QREC + 0x40 then queueWordWrite c ((off - Off.QREC) / 4) v s
  else plainWrite p off v s

/-! ## Function Level Reset (R447, R474, R484) -/

/-- A context is destroyed by a reset of its function. -/
def flrDestroy (c : Nat) (s : State) : State :=
  let s := { s with host := { s.host with ctxs := s.host.ctxs.map fun e => if e.1 = c then (c, { e.2 with flr := some s.tt.beats }) else e } }
  if ctxState s c = 4 then s else setFlag (pgCtx c) Off.CTX_CMD 31 false s |> destroyBegin c

/-- Sessions of a function end, and its negotiation starts again (R474). -/
def endSessions (p : Nat → Bool) (s : State) : State :=
  { s with sec := { s.sec with sessions := s.sec.sessions.filter fun x => !p x.fn, spdm := s.sec.spdm.filter fun e => !p e.1 } }

/-- What a reset leaves of a function's configuration: memory space, MSI-X and D0 as after a conventional reset (PRESUMED, log 43). -/
def functionReset (fn : Nat) (s : State) : State :=
  let other (x : Nat) : Bool := x != fn
  let vec (x : Nat) : Bool := x / 4096 != fn
  { s with host := { s.host with
      mse := s.host.mse.filter other, msixEn := s.host.msixEn.filter other, fnMask := s.host.fnMask.filter other
      d3 := s.host.d3.filter other, unmasked := s.host.unmasked.filter vec, pba := s.host.pba.filter vec } }

/-- A tenant's service rings are disabled. -/
def ringsOff (t : Nat) (s : State) : State :=
  match serviceCtx s t with
  | some c => stopRings c s
  | none => s

/-- The effects of a VF FLR on tenant t. A locked TDI's lines are freed without write-back (R484), any other's with it (R447). -/
def vfReset (t : Nat) (s : State) : State :=
  let keep := tdiState s t == 0
  let s := ((s.host.ctxs.filter fun e => fieldOf e.2.cfg 0 4 == t).map (·.1)).foldl (fun s c => flrDestroy c s) s
  s |> freeTenant t keep |> ringsOff t |> endSessions (· == t) |> functionReset t

/-- VF_FLR. -/
def execVfFlr (t : Nat) (s : State) : State :=
  if 1 ≤ t ∧ t ≤ 15 ∧ tenantExists s t = true ∧ s.boot.phase = .up then vfReset t s else s

/-- Tenants that cease to exist are treated as under VF FLR, and lose their expert grants (R444, R447, R486). -/
def tenantsEnd (ts : List Nat) (s : State) : State :=
  ts.foldl (fun s t => vfReset t s |> withdraw fun p by_ => p.cls == .context && by_ == t) s

/-- PF_FLR (R447, R484). -/
def execPfFlr (s : State) : State :=
  if s.boot.phase ≠ .up then s
  else
    let ts := (rangeFrom 1 15).filter (tenantExists s)
    let s := tenantsEnd ts s
    let s := { s with host := { s.host with vfEnable := false } }
    let mine := (s.host.ctxs.map (·.1)).filter fun c => !flag s (pgCtx c) Off.CTX_STATUS 16
    let s := mine.foldl (fun s c => flrDestroy c s) s
    let s := (rangeFrom 1 15).foldl (fun s t => if tdiHeld s t then setTdi t 3 s else s) s
    s |> abortHandles (fun _ _ => true) |> ringsOff 0 |> endSessions (fun _ => true) |> functionReset 0

/-! ## Function power states, interrupts, translations, configuration (R443–R449) -/

/-- D3HOT_ENTRY: a function enters D3hot (R448). -/
def execD3hotEntry (fn : Nat) (s : State) : State :=
  if s.boot.phase = .up ∧ tenantExists s fn = true ∧ !s.host.d3.contains fn then
    { s with host := { s.host with d3 := insertBy (fun x => x) fn s.host.d3 } }
  else s

/-- RETURN_TO_D0: halted transfers, page requests and held cells go on (R448). -/
def execReturnToD0 (fn : Nat) (s : State) : State :=
  if s.host.d3.contains fn then { s with host := { s.host with d3 := s.host.d3.filter fun x => x != fn } } |> reopenQueues |> flushHolds
  else s

/-- Pending vectors of a function that nothing masks any longer are sent (R445). -/
def sendPending (fn : Nat) (s : State) : State :=
  if !s.host.msixEn.contains fn || s.host.fnMask.contains fn then s
  else
    let due := s.host.pba.filter fun x => x / 4096 == fn && s.host.unmasked.contains x
    due.foldl (fun s x => emit (.msix fn (x % 4096)) s) { s with host := { s.host with pba := s.host.pba.filter fun x => !due.contains x } }

/-- The PCIe function of a number. -/
def fnOf (fn : Nat) : Func := if fn = 0 then .pf else .vf fn

/-- A configuration write of the host: until the PF is ready it is answered with Retry Status, in L1.2 it waits (R93, R137). -/
def configured (r : HostReq) (k : State → State) (s : State) : State :=
  if s.boot.phase = .training ∨ (s.boot.phase = .waitPg ∧ s.host.linkUp) then emit .configRetry s
  else if s.boot.phase ≠ .up ∨ !s.host.linkUp then s
  else if pwrState s ≤ 1 then hold r s
  else k s

/-- MSIX_UNMASK: the Mask bit of a vector, a write to BAR4, or without one the Function Mask, a configuration write, takes its value; clearing
it sends what is pending (R93, R445). -/
def execMsixUnmask (fn : Nat) (vector : Option Nat) (mask : Bool) (s : State) : State :=
  match vector with
  | some v =>
    match hostLink s (fnOf fn) with
    | .waits => hold (.mask fn vector mask) s
    | .ok =>
      if vectorsOf fn ≤ v then s
      else
        let rest := s.host.unmasked.filter fun x => x != fn * 4096 + v
        sendPending fn { s with host := { s.host with unmasked := if mask then rest else insertBy (fun x => x) (fn * 4096 + v) rest } }
    | _ => emit (.unsupported (fnOf fn)) s
  | none =>
    configured (.mask fn none mask) (fun s =>
      if !tenantExists s fn then emit (.unsupported (fnOf fn)) s
      else
        let rest := s.host.fnMask.filter fun x => x != fn
        sendPending fn { s with host := { s.host with fnMask := if mask then insertBy (fun x => x) fn rest else rest } }) s

/-- Does a SPACE 1 transfer of a function's contexts with a PASID touch a range? -/
def usesRange (s : State) (fn : Nat) (pasid : Option Nat) (a n q : Nat) (d : Desc) (at_ len : Nat) : Bool :=
  let c := queueCtx q
  let own := if bitOf (ctxOf s c).pasid 31 then some (fieldOf (ctxOf s c).pasid 0 20) else none
  d.space == 1 && ctxTenant s c == fn && own == pasid && decide (at_ < a + n) && decide (a < at_ + len)

/-- INVALIDATE_REQUEST: an ATS Invalidate Request is completed once no transfer that used the range is in flight; a translation held for
the next transfer is dropped (R446). -/
def execInvalidateRequest (fn : Nat) (pasid : Option Nat) (a n : Nat) (s : State) : State :=
  if hostLink s (fnOf fn) = .unsupported then s
  else if s.queues.any fun e => e.2.flight.any fun x => usesRange s fn pasid a n e.1 (descOf x.desc) x.addr x.len then s
  else
    let held := s.queues.filter fun e => e.2.xlat && match e.2.desc with
      | some bs => usesRange s fn pasid a n e.1 (descOf bs) ((descOf bs).at e.2 e.2.offset) ((descOf bs).piece e.2 e.2.offset)
      | none => false
    held.foldl (fun s e => updQueue e.1 (fun r => { r with xlat := false }) s) s |> bump pgPcie Off.PCIE_CNT_ATS_INV 1

/-- CONFIGURATION_REQUEST: a host configuration write (R93, R444, R445, R449). One to a function that does not exist is unsupported. NumVFs holds
while VF Enable is 1. -/
def execConfigurationRequest (x : CfgWrite) (s : State) : State :=
  let set (l : List Nat) (fn : Nat) (on : Bool) : List Nat :=
    let rest := l.filter fun y => y != fn
    if on then insertBy (fun y => y) fn rest else rest
  let absent (fn : Nat) : State := emit (.unsupported (fnOf fn)) s
  configured (.config x) (fun s => match x with
    | .vfEnable on =>
      if on then (if flag s pgMb Off.MB_READY 4 then { s with host := { s.host with vfEnable := true } } else s)
      else
        let ts := (rangeFrom 1 15).filter (tenantExists s)
        let t := tenantsEnd ts s
        { t with host := { t.host with vfEnable := false } }
    | .numVfs n => if s.host.vfEnable || decide (15 < n) then s else { s with host := { s.host with numVfs := n } }
    | .msix fn enable mask =>
      if !tenantExists s fn then absent fn
      else sendPending fn { s with host := { s.host with msixEn := set s.host.msixEn fn enable, fnMask := set s.host.fnMask fn mask } }
    | .memorySpace fn on => if !tenantExists s fn then absent fn else { s with host := { s.host with mse := set s.host.mse fn on } }
    | .aspmL12 on => { s with host := { s.host with aspmL12 := on } }
    | .pmeEnable on => { s with host := { s.host with pmeEn := on } }
    | .ideStream n tee lo hi =>
      let x := sget ⟨[], [], false, false, 0, 0⟩ s.sec.ide n
      if x.secure || n == 0 || decide (16 < n) then s
      else { s with sec := { s.sec with ide := sput s.sec.ide n { x with tee, lo, hi } } }
    | .clearPmeStatus => { s with host := { s.host with pmeStatus := false, wakeDriven := false } }) s

/-- RETRAIN: the PCIe link retrains, possibly narrower (R443). -/
def execRetrain (width speed : Nat) (laneFail : Bool) (s : State) : State :=
  if !s.host.linkUp || !pageOn s pgPcie then s
  else
    s |> wr pgPcie Off.PCIE_LINK (BitVec.ofNat 32 (width % 8 + 8 * (speed % 16) + 128 * ofBool laneFail))
      |> bump pgPcie Off.PCIE_CNT_RETRAIN 1 |> raise pgPcie Evt.PCIE_LINK_CHANGE

/-- PAGE_REQUEST_RESPONSE: a response to a queue's page request commits (R428). -/
def execPageRequestResponse (q code : Nat) (s : State) : State :=
  if 2 ^ 18 ≤ q then deckPri (q - 2 ^ 18) code s else priResponse q code s

end Sys2Proof.Machine
end

