-- ==== Sys2Proof/Machine/Read.lean ====
section
/-! DEFINITION. What a register reads as: the value it holds, or for a register that shows other state of the device, that state
(R5, R65, R74–R78, R84, R245, R260, R314, R346, R404, R407, R419, R439, R493, R555). -/
namespace Sys2Proof.Machine

/-! ## Expert grants (R83, R485, R107) -/

/-- Is the class removed from the PF's grant while a TDI is locked (R485)? -/
def excludedClass (c : Nat) : Bool :=
  (decide (0x20 ≤ c) && decide (c ≤ 0x25)) || (decide (0x30 ≤ c) && decide (c ≤ 0x34)) || c == 0x40

/-- Is any TDI CONFIG_LOCKED or RUN? -/
def anyTdiHeld (s : State) : Bool := (rangeFrom 1 15).any (tdiHeld s)

/-- Is a page owned by a VF: a context page of a tenant other than 0 (R83)? -/
def vfOwned (s : State) (p : Page) : Bool := p.cls == .context && ctxExists s p.idx && ctxTenant s p.idx != 0

/-- Is a class in the PF's grant as it stands? -/
def pfGrant (s : State) (c : Nat) : Bool :=
  flag s pgMb (Off.MB_EXPERT_PF + 4 * (c / 32)) (c % 32) && !(excludedClass c && anyTdiHeld s)

/-- May the writer unlock the expert range of a page now? -/
def expertGrant (s : State) (w : Func) (p : Page) : Bool :=
  !s.part.expertOff &&
  match w with
  | .pf => pfGrant s (classCode p.cls) && !vfOwned s p
  | .vf n => vfReaches s n p && flag s pgMb Off.MB_EXPERT_VF n
  | .mgmt => bitAt (expertMask s) (classCode p.cls)
  | .rot => false

/-- Would a write of 1 to CTRL.EXPERT by the reader be granted now? A second unlock by the holder grants nothing anew, and on a fenced
page the write is discarded (R539). -/
def expertGrantable (s : State) (w : Func) (p : Page) : Bool :=
  pagePresent s.part p && !fenced s p && !flag s p Off.CTRL 2 && expertGrant s w p

/-! ## Maps -/

/-- The number whose bit i is p i. -/
def bitMap (n : Nat) (p : Nat → Bool) : Nat := ((List.range n).filter p).foldl (fun x i => x + 2 ^ i) 0

/-- Longest run of consecutive numbers. -/
def runOf (l : List Nat) : Nat :=
  let starts := l.filter fun a => !l.contains (a - 1) || a == 0
  starts.foldl (fun best a => Nat.max best (((List.range (l.length + 1)).find? fun k => !l.contains (a + k)).getD 0)) 0

/-! ## The head (R74–R78) -/

/-- Does a packet gate, slot or pipeline hold an open frame? -/
def statusBlock (s : State) (p : Page) : Nat :=
  match p.cls with
  | .csi =>
    256 * bitMap 4 (fun k => (csiSlot s p.idx k).frame.isSome) + bitsAt (rd s p Off.STATUS).toNat 12 2 * 4096
  | .isp => 256 * bitMap 16 fun i => (newestFrame s p.idx i).any fun f => !f.closed
  | .matrix => 256 * ofBool (tileOf s p.idx).kernel.isSome
  | .stateUnit =>
    256 * ofBool ((tileOf s p.idx).active.contains 2 || !(waitingSegs (tileOf s p.idx)).isEmpty) +
      512 * ofBool ((tileOf s p.idx).segs.any fun e => e.2.zeroing)
  | .stem => 256 * ofBool (stemOf s p.idx).job.isSome
  | _ => 0

def readStatus (s : State) (w : Func) (p : Page) : Nat :=
  ofBool (flag s p Off.DEAL_CTRL 0) + 2 * ofBool (busy s p) + 4 * ofBool (fenced s p) + 8 * ofBool (expertGrantable s w p) +
    statusBlock s p

/-- PAGE_ID and PAGE_CAP (R75). -/
def pageId (p : Page) : Nat := classCode p.cls + 256 * pageInstance p + 2 ^ 24 * 2
def pageCap (p : Page) : Nat :=
  ofBool (hasTimeout p) + 2 * ofBool (isRoot p) + 4 * ofBool (classExpert p.cls) + 8 * ofBool (snapshotAt p).isSome +
    16 * ofBool (p.cls == .context) + 256 * (if p.cls = .fabric ∧ p.idx ≠ 0 then 8 else classCounters p.cls) + 65536 * evtTop p +
    2 ^ 24 * pageDomain p

/-- A register of the head, or none where the register file holds what it reads as. -/
def readHead (s : State) (w : Func) (p : Page) (off : Nat) : Option Nat :=
  if off = Off.PAGE_ID then some (pageId p)
  else if off = Off.PAGE_CAP then some (pageCap p)
  else if off = Off.CTRL then
    some (putAt (rd s p off).toNat 1 1 (ofBool (s.head.resetting.contains (pageBase p))))
  else if off = Off.STATUS then some (readStatus s w p)
  else if off = Off.EVT_FORCE then some 0
  else if (off = Off.FENCE_CTRL ∨ off = Off.FENCE_STATUS) ∧ !isRoot p then some 0
  else if off = Off.CMD_TIMEOUT ∧ !hasTimeout p then some 0
  else none

/-! ## Pages that show other state -/

/-- The identity page (R5). -/
def readIdentity (s : State) (off : Nat) : Option Nat :=
  let q := s.part
  if off = Off.ID_DEVICE then some (0x25E1C + 2 ^ 20 * q.stepping)
  else if off = Off.ID_PART then some (4 + 16 * q.stackCount + 256 * q.iods + 4096 * ofBool q.gradeE)
  else if off = Off.ID_DIE_MAP then some (0xF + 0x10 * (2 ^ q.stackCount - 1) + 0x40 * (2 ^ q.iods - 1))
  else if off = Off.ID_CAPACITY then some (16 * q.stackCount + 256 * (4 * q.iods) + 65536 * (16 * q.iods) + 2 ^ 24 * (2 * q.iods))
  else if Off.ID_SERIAL ≤ off ∧ off < Off.ID_SERIAL + 16 then some (bitsAt q.serial (8 * (off - Off.ID_SERIAL)) 32)
  else none

/-- Is a key slot named: by a valid region entry, an existing context, a SPACE 1 or 3 block in flight, or a MACsec association of the
table (R478)? -/
def keyNamed (s : State) (k : Nat) : Bool :=
  k != 0 && (((List.range 64).any fun i => (regionAt s i).valid && (regionAt s i).kind == 4 && (regionAt s i).key == k) ||
  (s.mem.pend.any fun e => (regionOfWords e.base e.size e.attr).valid && (regionOfWords e.base e.size e.attr).kind == 4 && (regionOfWords e.base e.size e.attr).key == k) ||
  (s.host.ctxs.any fun e => fieldOf e.2.cfg 16 8 == k) ||
  (s.queues.any fun e => e.2.flight.any fun x =>
    let d := descOf x.desc
    (d.space == 1 || d.space == 3) && d.key == k) ||
  (rangeFrom 0 16).any fun t => fld s (pgFab 0) (if t = 0 then Off.TBL_KEY else Off.TBL_TENANT_KEY + 4 * (t - 1)) 0 8 == k)

/-- The mailbox page (R110, R493). -/
def readMailbox (s : State) (off : Nat) : Option Nat :=
  if Off.MB_ARB ≤ off ∧ off < Off.MB_ARB + 16 then
    some (ofLeBytes ((List.range 4).map fun k => BitVec.ofNat 8 (arbOf s.part (off - Off.MB_ARB + k))))
  else if off = Off.MB_KEYS then some (s.part.keyValid % 16 + 16 * (s.part.keyRevoked % 16) + 256 * ofBool s.part.expertOff)
  else if off = Off.MB_KEY_INFO then
    let k := fld s pgMb Off.MB_KEY_SEL 0 8
    let e := keyOf s k
    some (if e.st = 0 then 4096 * ofBool (k != 0 && keyNamed s k) else e.st + 4 * e.kind + 256 * e.tenant + 4096 * ofBool (k != 0 && keyNamed s k))
  else none

/-- The little-endian words of a fault record (R531). -/
def recWord (r : FaultRec) (k : Nat) : Nat :=
  match k with
  | 0 => r.tt % 2 ^ 32
  | 1 => r.tt / 2 ^ 32 % 2 ^ 32
  | 2 => r.seq
  | 3 => r.source + 256 * r.code + 65536 * r.severity + 2 ^ 24 * r.domain
  | 4 => r.tenant + 256 * r.island + 65536 * r.context
  | 5 => r.addr % 2 ^ 32
  | 6 => r.addr / 2 ^ 32 % 2 ^ 32
  | _ => r.detail

/-- The fault collector page (R555). -/
def readCollector (s : State) (off : Nat) : Option Nat :=
  if off = Off.FC_STATUS then
    some (ofBool (flag s pgFc off 0) + 2 * ofBool (decide (64 ≤ s.fc.buffer.length)) + 256 * s.fc.buffer.length)
  else if Off.FC_REC ≤ off ∧ off < Off.FC_REC + 32 then
    some (((s.fc.history[fld s pgFc Off.FC_REC_SEL 0 6]?).map fun r => recWord r ((off - Off.FC_REC) / 4)).getD 0)
  else if Off.FC_FENCED ≤ off ∧ off < Off.FC_FENCED + 16 then
    some (bitMap 32 fun i => phaseOf s (8 * (off - Off.FC_FENCED) + i) != 0)
  else if Off.FC_HELD ≤ off ∧ off < Off.FC_HELD + 16 then
    some (bitMap 32 fun i => phaseOf s (8 * (off - Off.FC_HELD) + i) == 5)
  else if off = Off.FC_WDOG_KICK then some 0
  else none

/-- A matrix page: the sequencer's status (R245). -/
def readMatrix (s : State) (p : Page) (off : Nat) : Option Nat :=
  if off = Off.TILE_SEQ_STATUS then
    let x := tileOf s p.idx
    some (ofBool x.kernel.isSome + 2 * (x.fifo.length % 16) + 32 * ofBool (x.fifo.length == 16) +
      64 * ((x.kernel.map fun k => k.launch.ctx % 1024).getD 0))
  else none

/-- A stem engine page (R346). -/
def readStem (s : State) (p : Page) (off : Nat) : Option Nat :=
  let x := stemOf s p.idx
  if off = Off.STEM_STATUS then
    some (ofBool x.job.isSome + 2 * (x.fifo.length % 8) + 16 * ofBool (x.fifo.length == 8) +
      32 * ofBool (x.job.any fun j => j.launch.src != 0 && rowsLeft j.win j != 0) + 64 * ((x.job.map fun j => j.launch.ctx % 1024).getD 0))
  else if off = Off.STEM_ROW then
    some ((x.job.map fun j => j.row % 65536 + 65536 * ((j.frame.map (·.2)).getD 0 % 65536)).getD 0)
  else none

/-- The state unit page: the selected segment, and the maps of segments (R314). -/
def readStateUnit (s : State) (p : Page) (off : Nat) : Option Nat :=
  let g := segOf s p.idx (segSel s p.idx)
  let segs := (tileOf s p.idx).segs
  let taken (u : Nat) : Bool := segs.any fun e =>
    e.2.valid && decide (fieldOf e.2.range 0 10 ≤ u) && decide (u < fieldOf e.2.range 0 10 + e.2.units)
  if off = Off.SU_SEG_CFG then some g.cfg.toNat
  else if off = Off.SU_SEG_RANGE then some g.range.toNat
  else if off = Off.SU_SEG_OWNER then some g.owner.toNat
  else if off = Off.SU_SEG_PLANES then some g.planes.toNat
  else if off = Off.SU_SEG_POS then some g.pos
  else if off = Off.SU_SEG_STATE then
    some (ofBool g.sat + 2 * ofBool g.broken + 4 * ofBool g.zeroing + 8 * ofBool g.releasing + 16 * ofBool g.first)
  else if Off.SU_VALID ≤ off ∧ off < Off.SU_VALID + 32 then
    some (bitMap 32 fun i => (segOf s p.idx (8 * (off - Off.SU_VALID) + i)).valid)
  else if Off.SU_SAT ≤ off ∧ off < Off.SU_SAT + 32 then some (bitMap 32 fun i => (segOf s p.idx (8 * (off - Off.SU_SAT) + i)).sat)
  else if off = Off.SU_FREE then
    let free := (List.range 1024).filter fun u => !taken u
    some (free.length + 65536 * runOf free)
  else none

/-- A tile stream port page: the pool (R407). -/
def readPort (s : State) (p : Page) (off : Nat) : Option Nat :=
  let ls := poolLines s p.idx
  if off = Off.TSP_POOL_STATUS then
    let n := (poolUnits s p.idx).length
    some (n + 65536 * (n - ls.length))
  else if off = Off.TSP_POOL_STATUS + 4 then
    some (pinCount s p.idx + 65536 * (ls.filter fun l => l.st == 4).length + 2 ^ 28 * ofBool (!(tileOf s p.idx).poolChange.isEmpty))
  else none

/-- A kitty page (R404). -/
def readKitty (s : State) (p : Page) (off : Nat) : Option Nat :=
  let ls := kittyOf s p.idx
  if Off.KITTY_USE ≤ off ∧ off < Off.KITTY_USE + 64 then
    some (ls.filter fun l => l.tenant == (off - Off.KITTY_USE) / 4).length
  else if off = Off.KITTY_STATUS then some (16384 - ls.length + 65536 * (ls.filter (·.dirty)).length)
  else none

/-- A queue engine page (R439). The size of the record cache's content is not stated: it is a free value. -/
def readEngine (s : State) (p : Page) (off : Nat) : Option Nat :=
  if off = Off.QE_STATUS then some (4096 - slotsUsed s p.idx + 65536 * ((fresh s).1 % 8192))
  else if Off.QE_TENANT_SLOTS ≤ off ∧ off < Off.QE_TENANT_SLOTS + 64 then
    some (putAt (rd s p off).toNat 16 13 (tenantInFlight s p.idx ((off - Off.QE_TENANT_SLOTS) / 4)))
  else none

/-- A memory-encryption page: the XTS slots (R406), and the region table, which MD1's page mirrors (R376). -/
def readMemenc (s : State) (off : Nat) : Option Nat :=
  if Off.MEMENC_SLOT_STATE ≤ off ∧ off < Off.MEMENC_SLOT_STATE + 64 then
    some ((List.range 16).foldl (fun n j =>
      let e := keyOf s (4 * (off - Off.MEMENC_SLOT_STATE) + j)
      n + (if e.kind = 0 ∧ 2 ≤ e.st then e.st - 1 else 0) * 4 ^ j) 0)
  else if Off.MEMENC_REGION_BASE ≤ off ∧ off < Off.MEMENC_REGION_BASE + 0x400 then some (rd s (pgMemenc 0) off).toNat
  else none

/-- A vector engine page: its table images (R261). -/
def readVector (s : State) (p : Page) (off : Nat) : Option Nat :=
  if Off.VE_PWL ≤ off ∧ off < Off.VE_PWL + 0x600 then
    some (numAt (veImage s p.idx ((off - Off.VE_PWL) / 512)) ((off - Off.VE_PWL) % 512) 4)
  else none

/-- A context page: the queue record window (R419) and the rings, which read 0 without SERVICE (R465). -/
def readContext (s : State) (p : Page) (off : Nat) : Option Nat :=
  if Off.QREC ≤ off ∧ off < Off.QREC + 0x40 then
    some (queueWord s (256 * p.idx + fld s p Off.QREC_SEL 0 8) ((off - Off.QREC) / 4) % 2 ^ 32)
  else if Off.SVC_RING_CFG ≤ off ∧ off ≤ Off.SVC_D2H_TAIL ∧ !isService s p.idx then some 0
  else none

/-- The power page: the domains (R135), and the regulator's present load, which is a free value (R148). -/
def readPower (s : State) (off : Nat) : Option Nat :=
  if off = Off.PWR_DOMAINS then some (((List.range 15).foldl (fun n d => n + (s.pwr.dom.getD d 0 % 4) * 4 ^ d) 0))
  else if off = Off.AON_REG_STATUS then some (putAt (rd s pgPower off).toNat 8 8 ((fresh s).1 % 256))
  else none

/-- A register that shows state of the block, or none where the register file holds what it reads as. -/
def shownReg (s : State) (p : Page) (off : Nat) : Option Nat :=
  match p.cls with
  | .identity => readIdentity s off
  | .tableTime => if off = Off.TT_STATUS then some (putAt (rd s p off).toNat 2 1 (ofBool (replayable s))) else none
  | .power => readPower s off
  | .mailbox => readMailbox s off
  | .faultCollector => readCollector s off
  | .matrix => readMatrix s p off
  | .vector => readVector s p off
  | .stateUnit => readStateUnit s p off
  | .streamPort => readPort s p off
  | .stem => readStem s p off
  | .kitty => readKitty s p off
  | .queueEngine => readEngine s p off
  | .memEnc => readMemenc s off
  | .context => readContext s p off
  | .ring =>
    if off = Off.RING_WRITE_IDX then some s.au.writeIdx
    else if off = Off.RING_OLDEST_IDX then some (ringOldest s)
    else if off = Off.RING_CONSUME_IDX then some s.au.consume
    else if off = Off.RING_STATUS then
      let on := flag s pgRing Off.RING_CTRL 0
      some (putAt (putAt (rd s pgRing off).toNat 1 1 (ofBool (on && groupListens s 0))) 16 13 (if on then ringCap s else 0))
    else none
  | .csi => if Off.CSI_VC_ERR ≤ off ∧ off < Off.CSI_VC_ERR + 64 then some (vcErr s p.idx off) else none
  | .voiceOut => if off = Off.VO_FIFO then some ((voOf s p.idx).fifoA.length + 65536 * (voOf s p.idx).fifoB.length) else none
  | .callEngine => if off = Off.CE_STATUS then some (ofBool s.ce.running + 2 * ofBool (signOffOk s)) else none
  | _ => none

/-- Does MC_STATUS show a stack that is in self-refresh: its MD is in Retention (R121, R403; log 67)? -/
def selfRefresh (s : State) (p : Page) (off : Nat) : Bool :=
  p.cls == .hbm && off == Off.MC_STATUS && s.pwr.dom.getD (pagePower p) 0 == 1

/-- What a function reads from a page's register: 0 where the page is absent or hidden from it (R67, R71) or its domain is off, but for
PAGE_ID and PAGE_CAP (R91), and SELF_REFRESH in Retention (R403). -/
def readReg (s : State) (w : Func) (p : Page) (off : Nat) : Nat :=
  if !pagePresent s.part p || hiddenFrom s w p then 0
  else if off = Off.PAGE_ID ∨ off = Off.PAGE_CAP then (readHead s w p off).getD 0
  else if !(if keeperReg p off then domOn s 0 else pageOn s p) then 4 * ofBool (selfRefresh s p off)
  else match readHead s w p off with
    | some n => n
    | none => (shownReg s p off).getD (rd s p off).toNat

end Sys2Proof.Machine
end

