-- ==== Sys2Proof/Machine/Security.lean ====
section
/-! DEFINITION. Root of trust: SPDM over DOE, measurements and sessions, IDE, TDISP, key slots, expert grants and fixed-deal mode
(R467–R494). -/
namespace Sys2Proof.Machine

/-! ## DOE and SPDM (R471, R472) -/

/-- Does a function's DOE mailbox answer: configuration space does, outside Ante and Fold and the fatal state? -/
def doeReady (s : State) (fn : Nat) : Bool :=
  !deviceFatal s && s.boot.phase == .up && s.host.linkUp && decide (2 ≤ pwrState s) && tenantExists s fn

/-- A reply leaves; an ERROR is counted (R494). -/
def doeReply (fn : Nat) (r : DoeReply) (s : State) : State :=
  let s := match r with
    | .error _ => bump pgMb Off.MB_CNT_SPDM_ERRORS 1 s
    | _ => s
  emit (.doe fn r) s

/-- An SPDM object is answered with Busy before BOOT_RUNNING, then as k says. -/
def doe (fn : Nat) (k : State → DoeReply × State) (s : State) : State :=
  if !doeReady s fn then s
  else if !bootRunning s then doeReply fn (.error .busy) s
  else doeReply fn (k s).1 (k s).2

/-- DOE_DISCOVERY. -/
def execDoeDiscovery (fn : Nat) (s : State) : State := if doeReady s fn then doeReply fn (.discovery [0, 1, 2]) s else s

/-- How far a function's negotiation has gone. -/
def spdmStage (s : State) (fn : Nat) : Nat := sget 0 s.sec.spdm fn
def setStage (fn n : Nat) (s : State) : State := { s with sec := { s.sec with spdm := sset 0 s.sec.spdm fn n } }

/-- A request that needs the negotiation to have reached a stage: the order of SPDM 1.2 (PRESUMED, log 50). -/
def doeAfter (fn stage : Nat) (k : State → DoeReply × State) (s : State) : State :=
  doe fn (fun s => if spdmStage s fn < stage then (.error .unexpectedRequest, s) else k s) s

/-- GET_VERSION, GET_CAPABILITIES, NEGOTIATE_ALGORITHMS; `offers` says whether every field offers an algorithm of R472. -/
def execGetVersion (fn : Nat) (s : State) : State := doe fn (fun s => (.version 1 2, setStage fn 1 s)) s
def execGetCapabilities (fn : Nat) (s : State) : State := doeAfter fn 1 (fun s => (.capabilities, setStage fn 2 s)) s
def execNegotiateAlgorithms (fn : Nat) (offers : Bool) (s : State) : State :=
  doeAfter fn 2 (fun s => if offers then (.algorithms, setStage fn 3 s) else (.error .invalidRequest, s)) s

/-- The chain of certificate slot 0 (R470). -/
def certChain (s : State) : List Byte := s.sec.chain

/-- GET_DIGESTS, and GET_CERTIFICATE of a part of a slot's chain; slots 1 to 7 are empty. -/
def execGetDigests (fn : Nat) (s : State) : State := doeAfter fn 3 (fun s => (.digests (Config.sha384 (certChain s)), s)) s
def execGetCertificate (fn slot off len : Nat) (s : State) : State :=
  doeAfter fn 3 (fun s =>
    let c := certChain s
    if slot ≠ 0 ∨ c.length < off then (.error .invalidRequest, s)
    else (.certificate ((c.drop off).take len) (c.length - Nat.min c.length (off + len)), s)) s

/-! ## Measurements (R473) -/

/-- The 48 bytes of a digest, and the header digest of an installed deck, 48 zero bytes where there is none. -/
def digestBytes (n : Nat) : List Byte := leBytes 48 n
def headerBytes (d : Option Deck) : List Byte := digestBytes ((d.map fun k => deckDigest k.bytes).getD 0)

/-- Registers of a page as raw bytes, in rising order. -/
def rawRegs (s : State) (p : Page) (off n : Nat) : List Byte :=
  (List.range n).flatMap fun i => leBytes 4 (readReg s .rot p (off + 4 * i))

/-- Measurement 22. -/
def deviceMode (s : State) : List Byte :=
  rawRegs s pgMb Off.MB_EXPERT_PF 4 ++ rawRegs s pgMb Off.MB_EXPERT_VF 1 ++ rawRegs s pgMb Off.MB_RING_POLICY 1 ++
    rawRegs s pgMb Off.MB_FD_CTRL 1 ++ rawRegs s pgMb Off.MB_FD_SLICE_MAP 2 ++ rawRegs s pgMb Off.MB_FD_TILES 8 ++
    rawRegs s pgMb Off.MB_FD_STEM 1 ++ (List.range s.part.stackCount).flatMap fun n => rawRegs s (pgKitty n) Off.KITTY_SHARE 1

/-- Measurement 23. -/
def timeMode (s : State) : List Byte := rawRegs s pgTT Off.TT_STATUS 1 ++ rawRegs s pgTT Off.TT_RELAX 4

/-- Digest of the service deck's EXPERT_MASK and its POLICY section digest; unstated before the service deck runs. -/
def serviceConfig (s : State) : List Byte :=
  match deckOf s 2 with
  | some d =>
    let policy := (((deckSects d.bytes).find? fun x => x.type == 0x11).map (·.digest)).getD 0
    digestBytes (Config.sha384 (leBytes 16 (expertMask s) ++ digestBytes policy))
  | none => digestBytes (fresh s).1

/-- The value of measurement block i, 1 to 24. -/
def measurement (s : State) (i : Nat) : List Byte :=
  if i = 1 then digestBytes Config.bootRom
  else if i = 2 then rawRegs s pgMb Off.MB_ARB 4 ++ rawRegs s pgMb Off.MB_KEYS 1
  else if i = 3 then headerBytes (deckOf s 1)
  else if i = 4 then headerBytes (deckOf s 2)
  else if i = 5 then serviceConfig s
  else if i ≤ 21 then headerBytes (modelDeck s (i - 6))
  else if i = 22 then deviceMode s
  else if i = 23 then timeMode s
  else rawRegs s pgIdentity Off.ID_DEVICE 3 ++ rawRegs s pgIdentity Off.ID_SERIAL 4

/-- The blocks that an index asks for, or none for an index without a block. -/
def measured (s : State) (index : Nat) : Option (List (Nat × List Byte)) :=
  if index = 0 then some []
  else if index = 0xFF then some ((rangeFrom 1 24).map fun i => (i, measurement s i))
  else if index ≤ 24 then some [(index, measurement s index)]
  else none

/-- GET_MEASUREMENTS (R473). -/
def execGetMeasurements (fn index : Nat) (signed : Bool) (s : State) : State :=
  doeAfter fn 3 (fun s =>
    match measured s index with
    | none => (.error .invalidRequest, s)
    | some blocks =>
      let f := fresh s
      (.measurements 24 blocks (if signed then some f.1 else none), { s with freeIdx := s.freeIdx + 2 })) s

/-- CHALLENGE: slot 0, with the measurement summary hash of all measurements or of none (R472). -/
def execChallenge (fn slot : Nat) (all : Bool) (s : State) : State :=
  doeAfter fn 3 (fun s =>
    if slot ≠ 0 then (.error .invalidRequest, s)
    else
      let f := fresh s
      let sum := if all then some (Config.sha384 ((rangeFrom 1 24).flatMap (measurement s))) else none
      (.challenge sum f.1, { s with freeIdx := s.freeIdx + 2 })) s

/-! ## Sessions (R474) -/

def sessionsOf (s : State) (fn : Nat) : List Session := s.sec.sessions.filter fun x => x.fn == fn

/-- Is a session of a function established? -/
def inSession (s : State) (fn id : Nat) : Bool := s.sec.sessions.any fun x => x.fn == fn && x.id == id && x.open_

/-- A session of a function changes. -/
def updSession (fn id : Nat) (f : Session → Session) (s : State) : State :=
  let all := s.sec.sessions.map fun x => if x.fn = fn ∧ x.id = id then f x else x
  { s with sec := { s.sec with sessions := all } }

/-- A session heard a message. -/
def touch (fn id : Nat) (s : State) : State := updSession fn id (fun x => { x with last := tnow s }) s

def dropSession (fn id : Nat) (s : State) : State :=
  { s with sec := { s.sec with sessions := s.sec.sessions.filter fun x => !(x.fn == fn && x.id == id) } }

/-- HeartbeatPeriod in seconds. -/
def heartbeatPeriod : Nat := 60

/-- KEY_EXCHANGE opens a session, named by the identifier that both sides form. -/
def execKeyExchange (fn slot id : Nat) (s : State) : State :=
  doeAfter fn 3 (fun s =>
    if slot ≠ 0 ∨ (sessionsOf s fn).any (fun x => x.id == id) then (.error .invalidRequest, s)
    else if 2 ≤ (sessionsOf s fn).length then (.error .sessionLimitExceeded, s)
    else (.keyExchange id heartbeatPeriod, { s with sec := { s.sec with sessions := s.sec.sessions ++ [⟨fn, id, false, tnow s⟩] } })) s

/-- FINISH completes an opened session. -/
def execFinish (fn id : Nat) (s : State) : State :=
  doe fn (fun s =>
    if (sessionsOf s fn).any fun x => x.id == id && !x.open_ then
      (.finish, updSession fn id (fun x => { x with open_ := true, last := tnow s }) s)
    else (.error .unexpectedRequest, s)) s

/-- A message in a session. -/
def secured (fn id : Nat) (k : State → DoeReply × State) (s : State) : State :=
  doe fn (fun s => if inSession s fn id then k (touch fn id s) else (.error .unexpectedRequest, s)) s

/-- HEARTBEAT, KEY_UPDATE, END_SESSION. -/
def execHeartbeat (fn id : Nat) (s : State) : State := secured fn id (fun s => (.heartbeat, s)) s
def execKeyUpdate (fn id : Nat) (s : State) : State := secured fn id (fun s => (.keyUpdate, s)) s
def execEndSession (fn id : Nat) (s : State) : State := secured fn id (fun s => (.endSession, dropSession fn id s)) s

/-- SESSION_TIMEOUT: no message for twice the HeartbeatPeriod. -/
def execSessionTimeout (fn id : Nat) (s : State) : State :=
  if (sessionsOf s fn).any fun x => x.id == id && decide (x.last + 2 * heartbeatPeriod * 1000000000 ≤ tnow s) then dropSession fn id s else s

/-! ## IDE (R475, R476) -/

def ideOf (s : State) (n : Nat) : IdeStream := sget ⟨[], [], false, false, 0, 0⟩ s.sec.ide n

/-- The functions that streams cover: all by the link stream, those of a selective stream's association. -/
def coverOf (ide : List (Nat × IdeStream)) : Nat :=
  bitMap 16 fun f => ide.any fun e => e.2.secure && (e.1 == 0 || (decide (e.2.lo ≤ f) && decide (f ≤ e.2.hi)))

/-- A stream changes: what MB_IDE_STREAMS and MB_IDE_COVER show, the TDIs that lose their stream, and what waited for coverage. -/
def setIde (n : Nat) (x : IdeStream) (s : State) : State :=
  let s := { s with sec := { s.sec with ide := sset ⟨[], [], false, false, 0, 0⟩ s.sec.ide n x } }
  let streams := bitMap 17 fun i => (ideOf s i).secure
  let cover := coverOf s.sec.ide
  let changed := streams != (rd s pgMb Off.MB_IDE_STREAMS).toNat || cover != (rd s pgMb Off.MB_IDE_COVER).toNat
  let s := s |> wr pgMb Off.MB_IDE_STREAMS (BitVec.ofNat 32 streams) |> wr pgMb Off.MB_IDE_COVER (BitVec.ofNat 32 cover)
  let s := if changed then raise pgMb Evt.MB_IDE_CHANGED s else s
  let lost := s.sec.tdiStream.filter fun e => e.2 == n && !x.secure && tdiHeld s e.1
  let s := lost.foldl (fun s e => setTdi e.1 3 s) s
  s |> reopenQueues |> flushHolds

/-- Both directions use a programmed key set. -/
def ideSecure (x : IdeStream) : Bool := (x.active.any fun k => k % 2 == 0) && (x.active.any fun k => k % 2 == 1)

/-- IDE_KM_QUERY, over the PF's session. -/
def execIdeKmQuery (id : Nat) (s : State) : State := secured 0 id (fun s => (.ideQuery, s)) s

/-- KEY_PROG programs a key set of a stream and direction that is not in use. -/
def execKeyProg (id stream set dir : Nat) (s : State) : State :=
  secured 0 id (fun s =>
    let x := ideOf s stream
    let k := 2 * (set % 2) + dir % 2
    if 16 < stream ∨ x.active.contains k then (.keyProg false, s)
    else (.keyProg true, setIde stream { x with keys := if x.keys.contains k then x.keys else insertBy (fun a => a) k x.keys } s)) s

/-- K_SET_GO switches a direction of a stream to a programmed key set; with both directions switched the stream is Secure. -/
def execKSetGo (id stream set dir : Nat) (s : State) : State :=
  secured 0 id (fun s =>
    let x := ideOf s stream
    let k := 2 * (set % 2) + dir % 2
    if 16 < stream ∨ !x.keys.contains k then (.setGo, s)
    else
      let y := { x with active := insertBy (fun a => a) k (x.active.filter fun a => a % 2 != dir % 2) }
      (.setGo, setIde stream { y with secure := ideSecure y } s)) s

/-- K_SET_STOP stops a key set; a stream without one in each direction leaves Secure. -/
def execKSetStop (id stream set dir : Nat) (s : State) : State :=
  secured 0 id (fun s =>
    let x := ideOf s stream
    let k := 2 * (set % 2) + dir % 2
    let y := { x with active := x.active.filter fun a => a != k, keys := x.keys.filter fun a => a != k }
    (.setStop, setIde stream { y with secure := ideSecure y } s)) s

/-- INTEGRITY_FAILURE: a Secure stream leaves Secure and its keys are erased. -/
def execIntegrityFailure (stream : Nat) (s : State) : State :=
  if (ideOf s stream).secure && s.boot.phase == .up then
    setIde stream { ideOf s stream with secure := false, keys := [], active := [] } s
  else s

/-! ## TDISP (R482–R484) -/

/-- A TDISP message in a session of a VF; the PF accepts none. -/
def tdisp (t id : Nat) (k : State → DoeReply × State) (s : State) : State :=
  if t = 0 ∨ 15 < t then doe t (fun s => (.error .unsupportedRequest, s)) s else secured t id k s

def execGetTdispVersion (t id : Nat) (s : State) : State := tdisp t id (fun s => (.tdispVersion 1 0, s)) s
def execGetTdispCapabilities (t id : Nat) (s : State) : State := tdisp t id (fun s => (.tdispCapabilities, s)) s
def execGetDeviceInterfaceState (t id : Nat) (s : State) : State := tdisp t id (fun s => (.tdiState (tdiState s t), s)) s

/-- The contexts of a tenant. -/
def tenantCtxs (s : State) (t : Nat) : List Nat := (s.host.ctxs.filter fun e => fieldOf e.2.cfg 0 4 == t).map (·.1)

/-- The MMIO ranges of a VF's interface report, as (BAR, offset, length): the context areas bound to its slots, its doorbell range, its MSI-X
table and PBA (R70, R445, R482). -/
def tdiRanges (s : State) (t : Nat) : List (Nat × Nat × Nat) :=
  ((tenantCtxs s t).map fun c => (0, 0x400000 + 0x4000 * fieldOf (ctxOf s c).cfg 4 8, 0x4000)) ++
    [(0, 0x200000, 0x100000), (4, 0, 1024), (4, 0x800, 8)]

/-- The interface report, while the TDI is locked or runs: the MMIO ranges and the device-specific information. -/
def execGetDeviceInterfaceReport (t id : Nat) (s : State) : State :=
  tdisp t id (fun s =>
    if tdiHeld s t then
      (.tdiReport (tdiRanges s t) (sget [] s.sec.tdiInfo t), s)
    else (.tdispError, s)) s

/-- The TEE-Limited selective stream that covers a VF. -/
def teeStream (s : State) (t : Nat) : Option Nat :=
  (s.sec.ide.find? fun e => e.1 != 0 && e.2.secure && e.2.tee && decide (e.2.lo ≤ t) && decide (t ≤ e.2.hi)).map (·.1)

/-- The contexts of a tenant leave HH_CTX_EN (R558). -/
def unrecord (t : Nat) (s : State) : State :=
  (tenantCtxs s t).foldl (fun s c => setFlag pgHh (Off.HH_CTX_EN + 4 * (c / 32)) (c % 32) false s) s

/-- LOCK_INTERFACE_REQUEST (R483): the excluded classes leave the PF's grant (R486), hand history leaves the tenant's contexts (R558), and
the report's information is taken. -/
def execLockInterfaceRequest (t id : Nat) (s : State) : State :=
  tdisp t id (fun s =>
    let busy := (tenantCtxs s t).any fun c => ctxState s c == 2 || ctxState s c == 4
    match teeStream s t with
    | none => (.tdispError, s)
    | some n =>
      if tdiState s t ≠ 0 ∨ busy = true then (.tdispError, s)
      else
        let info := digestBytes (Config.sha384 (deviceMode s ++ timeMode s))
        let s := { s with sec := { s.sec with tdiInfo := sput s.sec.tdiInfo t info, tdiStream := sput s.sec.tdiStream t n } }
        (.tdiLocked, setTdi t 1 s |> unrecord t |> withdraw fun p by_ => by_ == 0 && excludedClass (classCode p.cls))) s

/-- START_INTERFACE_REQUEST: a locked TDI runs. -/
def execStartInterfaceRequest (t id : Nat) (s : State) : State :=
  tdisp t id (fun s => if tdiState s t = 1 then (.tdiStarted, setTdi t 2 s) else (.tdispError, s)) s

/-- STOP_INTERFACE_REQUEST (R484): the tenant's contexts are destroyed, and once they are gone the rest follows and is answered. -/
def execStopInterfaceRequest (t id : Nat) (s : State) : State :=
  if tdiState s t = 0 ∨ !doeReady s t ∨ !bootRunning s ∨ !inSession s t id then tdisp t id (fun s => (.tdispError, s)) s
  else
    let s := touch t id { s with sec := { s.sec with stopping := if s.sec.stopping.contains t then s.sec.stopping else s.sec.stopping ++ [t] } }
    ((tenantCtxs s t).filter fun c => ctxState s c != 4).foldl (fun s c =>
      setFlag (pgCtx c) Off.CTX_CMD 31 false s |> destroyBegin c) s |> tdiStopEnd t

/-! ## Key slots (R477–R481) -/

def keyChanged (k : Nat) (e : KeySlot) (s : State) : State := setKey k e s |> raise pgMb Evt.MB_KEY_CHANGED

/-- The status of a KEY_DELIVER (R480). -/
def deliverStatus (s : State) (t k kind : Nat) (key : List Byte) (reserved : Bool) : Nat :=
  let e := keyOf s k
  if reserved || (kind == 1 && !allZero (key.drop 32)) then 5
  else if !keyAssigned s k t then 1
  else if e.kind ≠ kind then 2
  else if kind = 0 ∧ key.take 32 = key.drop 32 then 4
  else if e.st = 2 ∧ keyNamed s k = true then 3
  else 0

/-- KEY_DELIVER, over a session of the tenant's function; `reserved` says whether a reserved byte is not 0. -/
def execKeyDeliver (t id k kind : Nat) (reserved : Bool) (key : List Byte) (s : State) : State :=
  secured t id (fun s =>
    let key := (key ++ List.replicate 64 0).take 64
    let code := deliverStatus s t k kind key reserved
    (.keyStatus code,
      if code = 0 then
        keyChanged k { keyOf s k with st := 2, key := if kind = 0 then key else key.take 32 } s |> bump pgMb Off.MB_CNT_KEY_DELIVERED 1
      else s)) s

/-- A slot starts to retire; its key is gone, and with it the association that a table key register had before a change (R502). -/
def keyRetire (k : Nat) (s : State) : State :=
  keyChanged k { keyOf s k with st := 3, key := [] } { s with tbl := { s.tbl with oldKeys := s.tbl.oldKeys.filter fun e => e.2.2 != k } }

/-- KEY_ERASE. -/
def execKeyErase (t id k : Nat) (reserved : Bool) (s : State) : State :=
  secured t id (fun s =>
    let code := if reserved then 5 else if !keyAssigned s k t then 1 else if keyNamed s k then 3 else 0
    (.keyStatus code, if code = 0 then keyRetire k s else s)) s

/-- SLOT_QUERY: the tenant's slots; slot 0 is assigned to none. -/
def execSlotQuery (t id : Nat) (s : State) : State :=
  secured t id (fun s =>
    (.slots ((s.mem.keys.filter fun e => e.1 != 0 && e.2.st != 0 && e.2.tenant == t).map fun e => (e.1, e.2.kind, e.2.st - 1)), s)) s

/-- A result is posted in MB_KEY_RESULT, and GO clears. -/
def keyResult (code k : Nat) (s : State) : State :=
  s |> wr pgMb Off.MB_KEY_RESULT (BitVec.ofNat 32 (code + 256 * k)) |> setFlag pgMb Off.MB_KEY_CMD 31 false

/-- The first failure of an ASSIGN (1) or RETIRE (2), or 0 (R478). -/
def keyCheck (s : State) (op k t : Nat) : Nat :=
  let e := keyOf s k
  if k = 0 then 4
  else if (op = 1 ∧ e.st ≠ 0) ∨ (op = 2 ∧ (e.st = 0 ∨ e.st = 3)) then 1
  else if op = 1 ∧ !tenantExists s t then 2
  else if tdiHeld s (if op = 1 then t else e.tenant) then 5
  else if op = 2 ∧ keyNamed s k then 3
  else 0

/-- A write of MB_KEY_CMD, by the PF alone. An accepted RETIRE posts its result when the slot is unassigned. The page starts no command while
its ENABLE is 0 (R77). -/
def keyCmdWrite (w : Func) (v : Word) (s : State) : State :=
  let op := fieldOf v 0 4
  let k := fieldOf v 4 8
  let t := fieldOf v 12 4
  if w ≠ .pf ∨ deviceFatal s then s
  else if flag s pgMb Off.MB_KEY_CMD 31 || (bitOf v 31 && op != 1 && op != 2) then bump pgMb Off.MB_CNT_CMD_REFUSED 1 s
  else if !(bitOf v 31 && flag s pgMb Off.CTRL 0) then plainWrite pgMb Off.MB_KEY_CMD (v &&& 0x7FFFFFFF) s
  else
    let code := keyCheck s op k t
    let s := wr pgMb Off.MB_KEY_CMD (v &&& 0x8001FFFF) s
    if code = 5 then bump pgMb Off.MB_CNT_CMD_REFUSED 1 s |> tdiRefuse |> keyResult 5 k
    else if code ≠ 0 then keyResult code k s
    else if op = 1 then keyChanged k ⟨1, t, fieldOf v 16 1, []⟩ s |> keyResult 0 k
    else keyRetire k s

def keyWord (op k t kind : Nat) : Word := BitVec.ofNat 32 (op + 16 * (k % 256) + 4096 * (t % 16) + 65536 * (kind % 2) + 2 ^ 31)

/-- ASSIGN and RETIRE: writes of MB_KEY_CMD. -/
def execAssign (w : Func) (k t kind : Nat) (s : State) : State :=
  access w pgMb Off.MB_KEY_CMD (keyWord 1 k t kind) (keyCmdWrite w (keyWord 1 k t kind)) s
def execRetire (w : Func) (k : Nat) (s : State) : State :=
  access w pgMb Off.MB_KEY_CMD (keyWord 2 k 0 0) (keyCmdWrite w (keyWord 2 k 0 0)) s

/-- ERASURE_CONFIRMED: the engines have erased a retiring slot, which is unassigned again. -/
def execErasureConfirmed (k : Nat) (s : State) : State :=
  if (keyOf s k).st ≠ 3 then s
  else
    let s := keyChanged k ⟨0, 0, 0, []⟩ s
    if flag s pgMb Off.MB_KEY_CMD 31 && fld s pgMb Off.MB_KEY_CMD 0 4 == 2 && fld s pgMb Off.MB_KEY_CMD 4 8 == k then keyResult 0 k s else s

/-! ## Expert grants (R485, R486) -/

/-- A write of MB_EXPERT_PF_k (k = 0–3) or MB_EXPERT_VF (k = 4), by the PF alone: cleared grants are withdrawn. The bit of a locked
tenant stays (R483). -/
def grantWrite (w : Func) (k : Nat) (v : Word) (s : State) : State :=
  if w ≠ .pf then s
  else if k < 4 then
    plainWrite pgMb (Off.MB_EXPERT_PF + 4 * k) v s |> withdraw fun p by_ =>
      by_ == 0 && classCode p.cls / 32 == k && !bitOf v (classCode p.cls % 32)
  else
    let old := rd s pgMb Off.MB_EXPERT_VF
    let fixed := (rangeFrom 1 15).filter fun t => tdiHeld s t && bitOf v t != bitOf old t
    let v := fixed.foldl (fun v t => putField v t 1 (ofBool (bitOf old t))) v
    let s := if fixed.isEmpty then s else bump pgMb Off.MB_CNT_CMD_REFUSED 1 s |> tdiRefuse
    plainWrite pgMb Off.MB_EXPERT_VF v s |> withdraw fun p by_ => p.cls == .context && decide (1 ≤ by_) && decide (by_ ≤ 15) && !bitOf v by_

/-- EXPERT_GRANT_WRITE. -/
def execExpertGrantWrite (w : Func) (k : Nat) (v : Word) (s : State) : State :=
  let off := if k < 4 then Off.MB_EXPERT_PF + 4 * k else Off.MB_EXPERT_VF
  access w pgMb off v (grantWrite w k v) s

/-! ## Fixed-deal mode (R491–R493) -/

/-- A write of MB_FD_CTRL, by the PF alone. -/
def fdCtrlWrite (w : Func) (v : Word) (s : State) : State :=
  let slice := fieldOf v 4 12
  let was := fdOn s
  if w ≠ .pf then s
  else if slice < 64 ∨ slice ≤ fieldOf v 16 12 ∨ (bitOf v 0 ∧ !was ∧ anyContext s) then bump pgMb Off.MB_CNT_CMD_REFUSED 1 s
  else
    let s := plainWrite pgMb Off.MB_FD_CTRL v s
    if bitOf v 0 && !was then { s with sec := { s.sec with fdBeat := beatNo s } } else s

/-- FIXED_DEAL_ENABLE: a write of MB_FD_CTRL. -/
def execFixedDealEnable (w : Func) (v : Word) (s : State) : State := access w pgMb Off.MB_FD_CTRL v (fdCtrlWrite w v) s

/-! ## The mailbox page's other registers (R110, R493) -/

/-- A write that the mailbox page refuses is counted. -/
def mbRefused (s : State) : State := bump pgMb Off.MB_CNT_CMD_REFUSED 1 s

/-- A write to the mailbox page beyond the head. `list` is what host memory holds at a scatter list's address (R114). -/
def mbRegWrite (w : Func) (off : Nat) (v : Word) (list : List Byte) (s : State) : State :=
  if off = Off.MB_CMD then mbCmdWrite v list s
  else if inRun off Off.MB_ARG 4 then (if mbBusy s then mbRefused s else plainWrite pgMb off v s)
  else if w ≠ .pf then s
  else if off = Off.MB_KEY_CMD then keyCmdWrite w v s
  else if inRun off Off.MB_EXPERT_PF 4 then grantWrite w ((off - Off.MB_EXPERT_PF) / 4) v s
  else if off = Off.MB_EXPERT_VF then grantWrite w 4 v s
  else if off = Off.MB_RING_POLICY then ringPolicyWrite v s
  else if off = Off.MB_FD_CTRL then fdCtrlWrite w v s
  else if inRun off Off.MB_FD_SLICE_MAP 2 || inRun off Off.MB_FD_TILES 8 || off == Off.MB_FD_STEM then
    (if fdOn s then mbRefused s else plainWrite pgMb off v s)
  else plainWrite pgMb off v s

end Sys2Proof.Machine
end

