-- ==== Sys2Proof/Machine/Table.lean ====
section
/-! DEFINITION. Joining seats into a table: frames received, membership, bidding, peer fetches, lending, the service rings, gPTP
messages and the fabric pages' registers (R495–R527). -/
namespace Sys2Proof.Machine

/-! ## Membership (R505–R508, R512, R523) -/

/-- TBL_STATUS fields. -/
def tblButton (s : State) : Nat := fld s (pgFab 0) Off.TBL_STATUS 12 9

/-- FLAGS and FREE_STREAMS of a seat's latest HELLO. -/
def seatInfo (s : State) (d : Nat) : Nat × Nat := ((s.tbl.info.find? fun e => e.1 == d).map (·.2)).getD (0, 0)

/-- May a seat be dealer? -/
def dealerEn (s : State) (d : Nat) : Bool :=
  if d = mySeat s then flag s (pgFab 0) Off.TBL_SEAT 17 else bitAt (seatInfo s d).1 0

/-- The dealer of the table (R512). -/
def dealer (s : State) : Option Nat := (tblMembers s).find? (dealerEn s)

/-- TBL_STATUS shows the membership and the dealer; a change of dealer is an event. -/
def tblShow (before : Option Nat) (s : State) : State :=
  let now := dealer s
  let s := if now = before then s else raise (pgFab 0) Evt.FAB_DEALER_CHANGE s
  s |> setFlag (pgFab 0) Off.TBL_STATUS 0 (tblJoined s && tblMember s (mySeat s))
    |> setFlag (pgFab 0) Off.TBL_STATUS 2 (now == some (mySeat s) && tblJoined s)
    |> setFld (pgFab 0) Off.TBL_STATUS 3 9 (now.getD 0) |> setFld (pgFab 0) Off.TBL_STATUS 21 10 (tblMembers s).length

/-- A bit of the membership changes (R507). -/
def setMember (d : Nat) (on : Bool) (s : State) : State :=
  if tblMember s d = on then s
  else
    let before := dealer s
    setFlag (pgFab 0) (Off.TBL_MEMBERS + 4 * (d / 32)) (d % 32) on s |> raise (pgFab 0) Evt.FAB_MEMBER_CHANGE
      |> bump (pgFab 0) (if on then Off.TBL_CNT_JOINS else Off.TBL_CNT_DEPARTS) 1 |> tblShow before

/-- An outstanding request ends and its credit returns; a fetch's queue faults with a cause (R520, R530). -/
def fetchFail (f : Fetch) (cause : Nat) (s : State) : State :=
  let s := { s with tbl := { s.tbl with fetches := s.tbl.fetches.filter fun g => g.corr != f.corr || g.seat != f.seat } }
  match f.queue with
  | none => s
  | some q =>
    match xferOf s q f.xfer with
    | none => s
    | some x => endXfer q x ⟨cause, [], s⟩

/-- A seat leaves the membership (R523): requests to it end, lending sessions with it end. -/
def seatLeaves (d : Nat) (s : State) : State :=
  let s := setMember d false s
  let s := (s.tbl.fetches.filter fun f => f.seat == d).foldl (fun s f => fetchFail f 0xD s) s
  { s with tbl := { s.tbl with lends := s.tbl.lends.filter fun l => l.seat != d } }

/-- MEMBERSHIP_TIMEOUT: DEAD_MS has passed since a seat's latest HELLO on either port (R507). -/
def execMembershipTimeout (d : Nat) (s : State) : State :=
  if pageOn s (pgFab 0) && tblMember s d && d != mySeat s && !portHeard s 0 d && !portHeard s 1 d then seatLeaves d s else s

/-! ## The service's receive ring (R526) -/

def svcOn (s : State) : Bool := flag s (pgFab 0) Off.TBL_SVC_CFG 0
def svcEntry : Nat := 4160
def svcTx (s : State) : Nat := 2 ^ fld s (pgFab 0) Off.TBL_SVC_CFG 4 4
def svcRx (s : State) : Nat := 2 ^ fld s (pgFab 0) Off.TBL_SVC_CFG 8 4
def svcBase (s : State) : Nat := rd64 s (pgFab 0) Off.TBL_SVC_BASE_LO Off.TBL_SVC_BASE_HI

/-- A frame is delivered into the receive ring, or discarded with the ring full. -/
def svcDeliver (port : Nat) (header payload : List Byte) (s : State) : State :=
  let p := pgFab 0
  let tail := (rd s p Off.TBL_SVC_RX_TAIL).toNat
  if !svcOn s then s
  else if svcRx s ≤ ringUsed tail (rd s p Off.TBL_SVC_RX_HEAD).toNat then bump (pgFab port) Off.FAB_CNT_C1_DROP 1 s
  else
    let bs := header ++ payload
    let bs := bs ++ List.replicate (svcEntry - bs.length) 0
    let a := svcBase s + svcEntry * svcTx s + svcEntry * (tail % svcRx s)
    (storeBytes .mgmt (pageDomain ⟨.mgmtCores, 0⟩) none 4 a bs s).state |> wr p Off.TBL_SVC_RX_TAIL (BitVec.ofNat 32 (tail + 1))

/-! ## Bidding (R512–R517) -/

/-- The time of the present beat. -/
def beatTime (s : State) : Nat := 64 * beatNo s

def natDist (a b : Nat) : Nat := if a < b then b - a else a - b
def matchTicks (s : State) : Nat := msTicks (fld s (pgFab 0) Off.TBL_BID 16 12)

/-- A bid's score (R513). -/
def bidScore (payload : List Byte) : Nat :=
  if bitAt (numAt payload 0xA 1) 0 then 0 else numAt payload 8 1 * 256 + (255 - numAt payload 9 1)

/-- The round that a BID matches: of those open or closed for less than MATCH_MS, the nearest, of equals the older. -/
def roundFor (s : State) (speech : Nat) : Option Round :=
  (s.tbl.rounds.filter fun r => decide (natDist r.speech speech < matchTicks s) && decide (beatTime s < r.stop + matchTicks s)).foldl
    (fun b r =>
      match b with
      | none => some r
      | some x => if natDist r.speech speech < natDist x.speech speech then some r else some x) none

def updRound (r : Round) (f : Round → Round) (s : State) : State :=
  { s with tbl := { s.tbl with rounds := updFirst (fun x => x.speech == r.speech && x.start == r.start) f s.tbl.rounds } }

/-- The service's EVENT cell to tenant 0. -/
def serviceEvent (code a0 a1 : Nat) (s : State) : State :=
  if serviceRuns s then postCell 0 { statusCell s code a0 a1 0 with kind := 0x203 } s else s

/-- Do two SPEECH_TT belong to one round: they are equal, or differ by less than MATCH_MS (R514; log 52)? -/
def sameRound (s : State) (a b : Nat) : Bool := a == b || decide (natDist a b < matchTicks s)

/-- An AWARD commits at a seat (R516). Of two for one round, that of the lower dealer stands. -/
def awardCommit (port src : Nat) (header payload : List Byte) (s : State) : State :=
  let speech := numAt payload 0 8
  let winner := numAt payload 8 2
  let near (x : Nat) : Bool := sameRound s x speech
  let beaten := s.tbl.awards.any fun a => near a.1 && decide (a.2 < src)
  if beaten then s
  else
    let mine := (s.tbl.bids ++ s.tbl.ended).find? fun b => near b.1
    let s := { s with tbl := { s.tbl with
      awards := ((s.tbl.awards.filter fun a => !near a.1) ++ [(speech, src)]).reverse.take 64 |>.reverse
      bids := s.tbl.bids.filter fun b => !near b.1
      ended := ((s.tbl.ended.filter fun b => !near b.1) ++ mine.toList).reverse.take 64 |>.reverse } }
    let s := setFld (pgFab 0) Off.TBL_STATUS 12 9 (numAt payload 0xA 2) s |> svcDeliver port header payload
      |> raise (pgFab 0) Evt.FAB_AWARD
    if winner = mySeat s then wakeEvent 6 s
    else match mine with
      | none => s
      | some b => if winner = 0xFFFF then serviceEvent 6 b.2.2 (numAt payload 0xC 2) s else serviceEvent 4 b.2.2 winner s

/-- An AWARD goes to a seat of the round; at the dealer's own seat it commits locally. -/
def sendAward (payload : List Byte) (d : Nat) (s : State) : State :=
  if d = mySeat s then awardCommit 0 d (frameHeader s 0x11 d false 1 0 20) payload s
  else sendFrame 0x11 d false 1 0 0 payload s

/-- A BID commits at the dealer (R514). -/
def bidCommit (src : Nat) (payload : List Byte) (s : State) : State :=
  let speech := numAt payload 0 8
  let old := fun (r : Round) => decide (beatTime s < r.stop + matchTicks s)
  let s := { s with tbl := { s.tbl with rounds := s.tbl.rounds.filter fun r => old r || r.award.isNone } }
  let bid := (src, bidScore payload)
  match roundFor s speech with
  | none =>
    let r : Round := { speech, start := beatTime s, stop := beatTime s + msTicks (fld s (pgFab 0) Off.TBL_BID 0 8), bids := [bid], late := []
                       award := none }
    { s with tbl := { s.tbl with rounds := s.tbl.rounds ++ [r] } }
  | some r =>
    if beatTime s < r.stop then updRound r (fun x => { x with bids := (x.bids.filter fun b => b.1 != src) ++ [bid] }) s
    else
      let s := bump (pgFab 0) Off.TBL_CNT_LATE_BIDS 1 s
      match r.award with
      | some a => sendAward a src s
      | none => updRound r (fun x => { x with late := x.late ++ [src] }) s

/-- The dealer's own BIDs commit, in the beat after the service sent them (R513). -/
def bidsCommit (s : State) : State :=
  s.tbl.ownBids.foldl (fun s x => bidCommit (mySeat s) x s) { s with tbl := { s.tbl with ownBids := [] } }

/-- The winner of a round and the button after it (R515). -/
def roundWinner (button : Nat) (bids : List (Nat × Nat)) : Nat × Nat × Nat :=
  let best := bids.foldl (fun n b => Nat.max n b.2) 0
  if best = 0 then (0xFFFF, button, 0)
  else
    match arbiterGrant 512 button ((bids.filter fun b => b.2 == best).map fun b => (b.1, 0)) with
    | some (w, b) => (w, b, best)
    | none => (0xFFFF, button, 0)

/-- ROUND_DECISION: in the first beat at or after the window's end the dealer decides the oldest round that is due (R515). -/
def execRoundDecision (s : State) : State :=
  if !(tblJoined s && dealer s == some (mySeat s)) then s
  else match s.tbl.rounds.find? fun r => r.award.isNone && decide (r.stop ≤ beatTime s) with
  | none => s
  | some r =>
    let w := roundWinner (tblButton s) r.bids
    let payload := leBytes 8 r.speech ++ leBytes 2 w.1 ++ leBytes 2 w.2.1 ++ leBytes 2 r.bids.length ++ leBytes 2 0 ++ leBytes 4 w.2.2
    let s := updRound r (fun x => { x with award := some payload }) s |> bump (pgFab 0) Off.TBL_CNT_ROUNDS 1
      |> setFld (pgFab 0) Off.TBL_STATUS 12 9 w.2.1
    ((r.bids.map (·.1)) ++ r.late).foldl (fun s d => sendAward payload d s) s

/-- AWARD_TIMEOUT: a bidder without an AWARD AWARD_WAIT_MS after its BID answers as if it had won (R517). -/
def execAwardTimeout (s : State) : State :=
  match s.tbl.bids.find? fun b => elapsed s b.2.1 (msTicks (fld s (pgFab 0) Off.TBL_BID 8 8)) with
  | none => s
  | some b =>
    if !pageOn s (pgFab 0) then s
    else
      { s with tbl := { s.tbl with bids := s.tbl.bids.filter fun x => x != b } } |> bump (pgFab 0) Off.TBL_CNT_AWARD_TIMEOUT 1
        |> raise (pgFab 0) Evt.FAB_AWARD_TIMEOUT |> wakeEvent 6

/-! ## Lending and the transmit ring (R521, R522, R526) -/

def lendOf (s : State) (lender : Bool) (d session : Nat) : Option Lend :=
  s.tbl.lends.find? fun l => l.lender == lender && l.seat == d && l.session == session
def dropLends (p : Lend → Bool) (s : State) : State := { s with tbl := { s.tbl with lends := s.tbl.lends.filter fun l => !p l } }

/-- May the seat offer capacity for a request: LEND_EN, Showdown, LOCKED, the request's deck installed (R522)? The free
stream is the one that the offer names. -/
def mayOffer (s : State) (d session : Nat) : Bool :=
  match lendOf s true d session with
  | none => false
  | some l =>
    flag s (pgFab 0) Off.TBL_SEAT 18 && pwrState s == 4 && flag s (pgFab 0) Off.TBL_SYNC 0 && !l.live &&
      (modelDecks s).any fun k => deckDigest k.bytes == l.deck

/-- The offer that the borrower accepts: the most free streams, ties by its lending button; and the button after. -/
def bestOffer (s : State) (l : Lend) : Option (Nat × Nat) :=
  let best := l.offers.foldl (fun n o => Nat.max n o.2) 0
  arbiterGrant 512 s.tbl.lendButton ((l.offers.filter fun o => o.2 == best).map fun o => (o.1, 0))

/-- The borrower's request of a session that it may still accept an offer for, within WINDOW_MS of the request (R522). -/
def openLend (s : State) (session : Nat) : Option Lend :=
  s.tbl.lends.find? fun l => !l.lender && !l.live && l.session == session && !elapsed s l.sent (msTicks (fld s (pgFab 0) Off.TBL_BID 0 8))

/-- An entry of the transmit ring becomes a frame, or none where its type is not the service's to send or its rule forbids it; none
as the answer where it must wait for a credit (R504, R513, R522). -/
def svcFrame (bs : List Byte) (s : State) : Option State :=
  let type := numAt bs 1 1
  let dst := numAt bs 4 2 % 512
  let group := bitAt (numAt bs 4 2) 15
  let corr := numAt bs 0x1C 4
  let payload := (bs.drop 32).take (Nat.min 4112 (numAt bs 0x18 2))
  let session := numAt payload 0 4
  match type with
  | 0x10 =>
    let s := { s with tbl := { s.tbl with bids := s.tbl.bids ++ [(numAt payload 0 8, s.tt.beats, numAt payload 0xC 4)] } }
    match dealer s with
    | none => some s
    | some d =>
      some (if d = mySeat s then { s with tbl := { s.tbl with ownBids := s.tbl.ownBids ++ [payload] } }
        else sendFrame 0x10 d false 1 corr 0 payload s)
  | 0x30 =>
    let l : Lend := { seat := mySeat s, session, lender := false, live := false, deck := numAt payload 8 48, sent := s.tt.beats, offers := [] }
    some ({ dropLends (fun l => !l.lender && l.session == session) s with
      tbl := { (dropLends (fun l => !l.lender && l.session == session) s).tbl with
        lends := (dropLends (fun l => !l.lender && l.session == session) s).tbl.lends ++ [l] } } |> sendFrame 0x30 0 true 1 corr 0 payload)
  | 0x31 => some (if mayOffer s dst session && numAt payload 4 1 != 0 then sendFrame 0x31 dst false 1 corr 0 payload s else s)
  | 0x32 =>
    match openLend s session with
    | none => some s
    | some l =>
      match bestOffer s l with
      | none => some s
      | some (d, b) =>
        let live : Lend := { l with seat := d, live := true, offers := [] }
        let t := dropLends (fun x => !x.lender && x.session == session) s
        some ({ t with tbl := { t.tbl with lends := t.tbl.lends ++ [live], lendButton := b } } |> sendFrame 0x32 d false 1 corr 0 payload)
  | 0x33 =>
    if fetchCredit s dst false then
      let f : Fetch := { corr, seat := dst, queue := none, xfer := 0, port := portFor s dst, start := s.tt.beats
                         ticks := (rd s (pgFab 0) Off.TBL_FETCH).toNat, again := true, c3 := false }
      some ({ s with tbl := { s.tbl with fetches := s.tbl.fetches ++ [f] } } |> sendFrame 0x33 dst false 2 corr 0 payload)
    else none
  | 0x34 => some (dropLends (fun l => l.seat == dst && l.session == session) s |> sendFrame 0x34 dst false 1 corr 0 payload)
  | 0x40 => some (sendFrame 0x40 dst group 1 corr 0 payload s)
  | _ => some s

/-- Bytes of device memory as the management cores read them. -/
def svcRead : Nat → Nat → Nat → State → List Byte × State
  | 0, _, _, s => ([], s)
  | n + 1, a, len, s =>
    let k := Nat.min len (4096 - a % 4096)
    let g := gotMem (memFetch .mgmt 0xFF ⟨none, a / 4096 * 4096⟩ none s)
    let rest := if len ≤ k then ([], g.state) else svcRead n (a + k) (len - k) g.state
    (((g.data ++ List.replicate (4096 - g.data.length) 0).drop (a % 4096)).take k ++ rest.1, rest.2)

/-- Entries between HEAD and TAIL are sent in order while nothing holds them. -/
def svcPump : Nat → State → State
  | 0, s => s
  | n + 1, s =>
    let p := pgFab 0
    let head := (rd s p Off.TBL_SVC_TX_HEAD).toNat
    if !svcOn s || !tblJoined s || head == (rd s p Off.TBL_SVC_TX_TAIL).toNat then s
    else
      let r := svcRead 3 (svcBase s + svcEntry * (head % svcTx s)) svcEntry s
      match svcFrame r.1 r.2 with
      | none => r.2
      | some s => wr p Off.TBL_SVC_TX_HEAD (BitVec.ofNat 32 (head + 1)) s |> svcPump n

/-- Send what the transmit ring holds. -/
def svcSend (s : State) : State := svcPump 1024 s

/-- The service's entries go to the transmit ring, at the counts from TX_TAIL on. -/
def svcStore : List (List Byte) → Nat → State → State
  | [], _, s => s
  | e :: r, k, s =>
    let bs := (e ++ List.replicate svcEntry 0).take svcEntry
    svcStore r (k + 1) (storeBytes .mgmt (pageDomain ⟨.mgmtCores, 0⟩) none 4 (svcBase s + svcEntry * (k % svcTx s)) bs s).state

/-- A write of TBL_SVC_TX_TAIL, with the entries that the service has written before it. -/
def svcTailWrite (v : Word) (entries : List (List Byte)) (s : State) : State :=
  let p := pgFab 0
  if !svcOn s then wr p Off.TBL_SVC_TX_TAIL v s
  else svcStore entries (rd s p Off.TBL_SVC_TX_TAIL).toNat s |> wr p Off.TBL_SVC_TX_TAIL v |> svcSend

/-- SVC_TX_TAIL_WRITE. -/
def execSvcTxTailWrite (w : Func) (v : Word) (entries : List (List Byte)) (s : State) : State :=
  access w (pgFab 0) Off.TBL_SVC_TX_TAIL v (svcTailWrite v entries) s

/-! ## Frames received (R498–R502) -/

def frameType (f : Frame) : Nat := numAt f.header 1 1
def frameSrc (f : Frame) : Nat := numAt f.header 2 2 % 512
def frameCls (f : Frame) : Nat := numAt f.header 6 1 % 4
def frameCorr (f : Frame) : Nat := numAt f.header 0x1C 4

/-- Is a TYPE listed in R500? -/
def frameKnown (t : Nat) : Bool := [0x01, 0x02, 0x10, 0x11, 0x20, 0x21, 0x22, 0x30, 0x31, 0x32, 0x33, 0x34, 0x40].contains t

/-- Is the header of another version, another table or an unknown type, or does it set a reserved bit (R499)? -/
def frameForeign (s : State) (f : Frame) : Bool :=
  numAt f.header 0 1 != 1 || !frameKnown (frameType f) || numAt f.header 2 2 / 512 != 0 || bitsAt (numAt f.header 4 2) 9 6 != 0 ||
    numAt f.header 6 1 / 4 != 0 || numAt f.header 7 1 != 0 || numAt f.header 0x1A 2 != 0 || numAt f.header 0x18 2 != f.payload.length ||
    numAt f.header 8 4 != (rd s (pgFab 0) Off.TBL_ID).toNat

/-- Frames whose payload is for the tenant that they name (R502). -/
def isFetch (t : Nat) : Bool := t == 0x20 || t == 0x21 || t == 0x22

/-- Does the frame's association protect frames of its type: of a loaded MACsec slot that the table's key register names or has named, or for a
fetch frame a tenant's (R502)? -/
def frameSecure (s : State) (f : Frame) : Bool :=
  f.icvOk && macKey s f.slot &&
    (keyHeld s 0 f.slot || (isFetch (frameType f) && (rangeFrom 1 15).any fun t => keyHeld s t f.slot))

/-- A frame that passes its checks commits in island 73: k handles it (R501). In replay received frames are ignored, and recorded ones
take their place (R569). -/
def recvFrame (type : Nat) (f : Frame) (k : State → State) (s : State) : State :=
  let p := pgFab (f.port % 2)
  let key := 4 * (frameSrc f) + (frameCls f)
  let seq := numAt f.header 0xC 4
  let seen := sget [] s.tbl.recent key
  let dst := numAt f.header 4 2
  let commit (s : State) : State :=
    let s := { s with tbl := { s.tbl with recent := sput s.tbl.recent key ((seq :: seen).take 64) } }
      |> hhCapture 0x40 73 0 (f.header ++ f.payload)
    if (bitAt dst 15 || dst % 512 == mySeat s) && (frameType f) == type then k s else s
  if s.hh.injecting then commit s
  else if !(pageOn s p && enabled s p && flag s p Off.FAB_STATUS 0) || hhMode s == 2 then s
  else if f.pause then bump p Off.FAB_CNT_PAUSE_RX 1 s
  else if !f.fcsOk then bump p Off.FAB_CNT_FCS 1 s
  else if !macKey s (frameSlot s 0) || !flag s (pgFab 0) Off.TBL_SEAT 16 then s
  else
    let s := bump p Off.FAB_CNT_RX_FRAMES 1 s
    if !frameSecure s f then
      s |> bump p Off.FAB_CNT_ICV 1 |> raise p Evt.FAB_ICV_FAIL |> formRec (mkRec 0xE 1 1 92 0 73 0xFFFF 0 (frameSrc f))
    else if frameForeign s f then bump p Off.FAB_CNT_FOREIGN 1 s
    else if seen.contains seq then bump p Off.FAB_CNT_DUP 1 s
    else commit s

/-! ## The frames of each type -/

/-- The seat finds that another has its number (R508). -/
def dupSeat (s : State) : State :=
  let before := dealer s
  s |> setMember (mySeat s) false |> setFlag (pgFab 0) Off.TBL_STATUS 1 true |> raise (pgFab 0) Evt.FAB_DUP_SEAT
    |> formRec (mkRec 0xE 3 1 92 0 73 0xFFFF 0 (mySeat s)) |> tblShow before

/-- HELLO (R506–R508). -/
def execHello (f : Frame) (s : State) : State :=
  recvFrame 1 f (fun s =>
    let d := (frameSrc f)
    if d = mySeat s then
      let serial := numAt f.payload 0 16
      if serial < s.part.serial then dupSeat s else s
    else
      let before := dealer s
      let s := { s with tbl := { s.tbl with
        heard := sput s.tbl.heard (2 * d + f.port % 2) (f.mac, s.tt.beats)
        info := sput s.tbl.info d (numAt f.payload 0x11 1, numAt f.payload 0x14 1) } }
      tblShow before s |> setMember d true) s

/-- LEAVE (R507). -/
def execLeave (f : Frame) (s : State) : State := recvFrame 2 f (fun s => if (frameSrc f) = mySeat s then s else seatLeaves (frameSrc f) s) s

/-- BID: commits at the dealer (R514). -/
def execBid (f : Frame) (s : State) : State :=
  recvFrame 0x10 f (fun s => if tblJoined s && dealer s == some (mySeat s) then bidCommit (frameSrc f) f.payload s else s) s

/-- AWARD (R516). -/
def execAward (f : Frame) (s : State) : State :=
  recvFrame 0x11 f (fun s => awardCommit (f.port % 2) (frameSrc f) f.header f.payload s) s

/-- Is an address exported to a tenant (R519)? -/
def exported (s : State) (a t : Nat) : Bool :=
  (List.range 8).any fun k =>
    let w0 := rd s (pgFab 0) (Off.TBL_EXPORT_UNITS + 8 * k)
    let w1 := rd s (pgFab 0) (Off.TBL_EXPORT_CFG + 8 * k)
    bitOf w1 0 && fieldOf w1 1 4 == t && decide (fieldOf w0 0 14 ≤ a / 0x200000) && decide (a / 0x200000 < fieldOf w0 0 14 + fieldOf w0 16 15)

/-- A request is refused, with its answer (R520). -/
def fetchRefused (f : Frame) (code : Nat) (s : State) : State :=
  bump (pgFab 0) Off.TBL_CNT_FETCH_REFUSED 1 s
    |> sendFrame 0x22 (frameSrc f) false 0 (frameCorr f) (numAt f.payload 8 1) (f.payload.take 8 ++ leBytes 1 code ++ leBytes 3 0)

/-- FETCH_REQ: served from the kitty under the request's tenant, or refused (R519, R520). The XTS encryption is not modelled: the tile
names the request's key slot. -/
def execFetchReq (f : Frame) (s : State) : State :=
  recvFrame 0x20 f (fun s =>
    let a := numAt f.payload 0 8 % 2 ^ 48
    let t := numAt f.payload 8 1
    let key := numAt f.payload 9 1
    if !tblMember s (frameSrc f) || (keyOf s f.slot).tenant != t then bump (pgFab 0) Off.TBL_CNT_FETCH_REFUSED 1 s
    else if !exported s a t then fetchRefused f 1 s
    else
      let h : Home := ⟨none, a / 4096 * 4096⟩
      match memFetch (.table t) 92 h none s with
      | (.tile bs, s) =>
        let e := meldEncode (homeCodecs s h) key (a / 4096) bs
        bump (pgFab 0) Off.TBL_CNT_FETCH_SERVED 1 s |> sendFrame 0x21 (frameSrc f) false 0 (frameCorr f) t e.1
      | (.poison, s) => fetchRefused f 2 s
      | (_, s) => fetchRefused f 1 s) s

/-- The fetch that a response answers, under the association of its tenant (R502). -/
def fetchFor (s : State) (f : Frame) : Option Fetch :=
  s.tbl.fetches.find? fun g => g.corr == (frameCorr f) && g.seat == (frameSrc f) &&
    (g.queue.any fun q => ctxTenant s (queueCtx q) == (keyOf s f.slot).tenant)

/-- FETCH_DATA: a Meld tile from a peer is decoded and delivered, through the kitty (R518). -/
def execFetchData (f : Frame) (s : State) : State :=
  recvFrame 0x21 f (fun s =>
    match fetchFor s f with
    | none => s
    | some g =>
      let q := g.queue.getD 0
      let s := { s with tbl := { s.tbl with fetches := s.tbl.fetches.filter fun x => x != g } }
      (match xferOf s q g.xfer with
      | none => s
      | some x =>
        if poolXfer s q x then poolArrive q x (xferFetch q x (.bytes f.payload) s)
        else
          let r := xferFetch q x (.bytes f.payload) s
          if r.cause ≠ 0 then endXfer q x r else endXfer q x (xferDeliver q x r.data r.state)) |> svcSend) s

/-- FETCH_ERR: the requester's queue faults (R520). -/
def execFetchErr (f : Frame) (s : State) : State :=
  recvFrame 0x22 f (fun s =>
    match fetchFor s f with
    | none => s
    | some g => fetchFail g (if numAt f.payload 8 1 = 2 then 7 else 6) s |> svcSend) s

/-- FETCH_TIMEOUT: no response within TIMEOUT; the request is sent once more on the other port, then its queue faults (R520). -/
def execFetchTimeout (corr : Nat) (s : State) : State :=
  match s.tbl.fetches.find? fun g => g.corr == corr && elapsed s g.start g.ticks with
  | none => s
  | some g =>
    let s := bump (pgFab 0) Off.TBL_CNT_FETCH_TIMEOUT 1 s
    if g.again then
      (if g.queue.isSome then formRec (mkRec 0xE 2 1 92 0 73 0xFFFF 0 g.seat) s else s) |> fetchFail g 0xD |> svcSend
    else
      let q := g.queue.getD 0
      match xferOf s q g.xfer with
      | none => fetchFail g 0xD s
      | some x =>
        let t := ctxTenant s (queueCtx q)
        let cls := if g.c3 then 3 else 2
        let payload := fetchPayload x.addr t (descOf x.desc).key
        let bytes := frameHeader s 0x20 g.seat false cls g.corr payload.length ++ payload
        let s := { s with tbl := { s.tbl with
          seqs := sset 0 s.tbl.seqs cls ((sget 0 s.tbl.seqs cls + 1) % 2 ^ 32)
          fetches := s.tbl.fetches.map fun x => if x = g then { x with again := true, start := s.tt.beats, port := 1 - g.port } else x } }
        if tblJoined s then portSend (1 - g.port) t (some g.seat) cls bytes s else s

/-- The reverse CORR of a LEND_DATA returns its credit (R504). -/
def lendAck (f : Frame) (s : State) : State :=
  { s with tbl := { s.tbl with fetches := s.tbl.fetches.filter fun g => !(g.queue.isNone && g.seat == (frameSrc f) && g.corr == (frameCorr f)) } }

/-- A service frame goes to the receive ring, after what it does to the sessions (R521, R522). -/
def lendFrame (type : Nat) (f : Frame) (k : State → State) (s : State) : State :=
  recvFrame type f (fun s => lendAck f s |> k |> svcDeliver (f.port % 2) f.header f.payload |> svcSend) s

def addLend (l : Lend) (s : State) : State := { s with tbl := { s.tbl with lends := s.tbl.lends ++ [l] } }

/-- LEND_REQ: the request is noted, so that an offer may answer it. -/
def execLendReq (f : Frame) (s : State) : State :=
  lendFrame 0x30 f (fun s =>
    let session := numAt f.payload 0 4
    dropLends (fun l => l.lender && l.seat == (frameSrc f) && l.session == session) s
      |> addLend { seat := (frameSrc f), session, lender := true, live := false, deck := numAt f.payload 8 48, sent := s.tt.beats, offers := [] }) s

/-- LEND_OFFER: an offer within WINDOW_MS of the request counts. -/
def execLendOffer (f : Frame) (s : State) : State :=
  lendFrame 0x31 f (fun s =>
    let session := numAt f.payload 0 4
    let win := msTicks (fld s (pgFab 0) Off.TBL_BID 0 8)
    let mine (l : Lend) : Bool := !l.lender && !l.live && l.session == session && !elapsed s l.sent win
    let add (l : Lend) : Lend := { l with offers := l.offers ++ [((frameSrc f), numAt f.payload 4 1)] }
    { s with tbl := { s.tbl with lends := updFirst mine add s.tbl.lends } }) s

/-- LEND_ACCEPT: a session starts at the lender, which wakes (R522). -/
def execLendAccept (f : Frame) (s : State) : State :=
  lendFrame 0x32 f (fun s =>
    let session := numAt f.payload 0 4
    match lendOf s true (frameSrc f) session with
    | none => s
    | some _ =>
      let mine (l : Lend) : Bool := l.lender && l.seat == (frameSrc f) && l.session == session
      { s with tbl := { s.tbl with lends := updFirst mine (fun l => { l with live := true }) s.tbl.lends } }
        |> bump (pgFab 0) Off.TBL_CNT_LENDS 1 |> wakeEvent 6) s

/-- LEND_DATA, LEND_END, SERVICE. -/
def execLendData (f : Frame) (s : State) : State := lendFrame 0x33 f (fun s => s) s
def execLendEnd (f : Frame) (s : State) : State :=
  lendFrame 0x34 f (fun s => dropLends (fun l => l.seat == (frameSrc f) && l.session == numAt f.payload 0 4) s) s
def execService (f : Frame) (s : State) : State := lendFrame 0x40 f (fun s => s) s

/-! ## HELLO timer, gPTP, links, registers (R505, R506, R509, R524–R527) -/

/-- HELLO_TIMER: in the beat of each multiple of HELLO_MS a joined seat sends HELLO on both ports; `free` is what the service can lend. -/
def execHelloTimer (free : Nat) (s : State) : State :=
  let period := msTicks (fld s (pgFab 0) Off.TBL_TIMING 0 10)
  let due := (beatTime s + period - 1) / period * period < beatTime s + 64
  if tblJoined s && decide due && s.tbl.helloAt != some (beatNo s) then
    let flags := ofBool (flag s (pgFab 0) Off.TBL_SEAT 17) + 2 * ofBool (flag s (pgFab 0) Off.TBL_SEAT 18) +
      4 * ofBool (flag s (pgFab 0) Off.TBL_SYNC 0)
    let payload := leBytes 16 s.part.serial ++ leBytes 1 (pwrState s) ++ leBytes 1 flags ++ leBytes 2 (tblButton s) ++
      leBytes 1 (Nat.min 64 free) ++ leBytes 3 0
    sendFrame 1 0 true 1 0 0 payload { s with tbl := { s.tbl with helloAt := some (beatNo s) } }
  else s

def gptpKind : Gptp → Nat
  | .sync => 0 | .followUp => 1 | .pdelayReq => 2 | .pdelayResp => 3 | .pdelayFollowUp => 4 | .announce => 5

/-- A gPTP message is timestamped at a port, with the sub-beat part of R33, which is unstated. -/
def gptpStamp (port : Nat) (m : Gptp) (s : State) : State :=
  let f := fresh s
  { f.2 with tbl := { f.2.tbl with syncs := sput f.2.tbl.syncs (8 * port + gptpKind m) (beatTime s + f.1 % 64) } }

/-- Does a port take part in gPTP? -/
def gptpLive (s : State) (port : Nat) : Bool :=
  decide (port < 2) && enabled s (pgFab port) && flag s (pgFab port) Off.FAB_STATUS 0 && hhMode s != 2

def gptpSend (port : Nat) (m : Gptp) (s : State) : State := if gptpLive s port then emit (.gptp port m) s |> gptpStamp port m else s

/-- SYNC: a Sync message is received and timestamped (R509). -/
def execSync (port : Nat) (s : State) : State := if gptpLive s port then gptpStamp port .sync s else s

/-- The Sync interval in ticks: SYNC_LOG2 is the signed log2 of seconds (R509, R526). -/
def syncTicks (s : State) : Nat :=
  let n := fld s (pgFab 0) Off.TBL_GPTP 16 4
  if n = 0 then 1000000000 else 1000000000 / 2 ^ (16 - n)

/-- Is the next Sync due: none has been sent, or a Sync interval has passed since the latest? -/
def syncDue (s : State) : Bool :=
  match s.tbl.syncAt with
  | some b => elapsed s b (syncTicks s)
  | none => true

/-- SYNC_INTERVAL: a grandmaster seat sends Sync and Follow_Up on its ports, once in each Sync interval. -/
def execSyncInterval (s : State) : State :=
  if flag s (pgFab 0) Off.TBL_SYNC 1 && syncDue s then
    [0, 1].foldl (fun s p => s |> gptpSend p .sync |> gptpSend p .followUp) { s with tbl := { s.tbl with syncAt := some s.tt.beats } }
  else s

/-- PEER_DELAY_MEASUREMENT: a gPTP message is sent, or received and timestamped; a request is answered. -/
def execPeerDelayMeasurement (port : Nat) (m : Gptp) (sent : Bool) (s : State) : State :=
  if sent then gptpSend port m s
  else if !gptpLive s port then s
  else
    let s := gptpStamp port m s
    if m = .pdelayReq then s |> gptpSend port .pdelayResp |> gptpSend port .pdelayFollowUp else s

/-- LINK_CHANGE: a port's link goes up or down. -/
def execLinkChange (port : Nat) (up fec : Bool) (s : State) : State :=
  let p := pgFab port
  if !(decide (port < 2) && pageOn s p && (!up || enabled s p)) then s
  else s |> setFlag p Off.FAB_STATUS 0 up |> setFlag p Off.FAB_STATUS 1 fec |> raise p Evt.FAB_LINK_CHANGE

/-- A write of TBL_SEAT (R505): SEAT holds while joined; JOIN set starts the seat's frame counts, JOIN cleared leaves the table. -/
def seatWrite (v : Word) (s : State) : State :=
  let p := pgFab 0
  let was := flag s p Off.TBL_SEAT 16
  let before := dealer s
  let s := if was && bitOf v 16 && fieldOf v 0 9 != mySeat s then bump p Off.TBL_CNT_CFG_REFUSED 1 s else s
  let v := if was then putField v 0 9 (mySeat s) else v
  if was && !bitOf v 16 then
    sendFrame 0x02 0 true 1 0 0 [] s |> setMember (mySeat s) false |> plainWrite p Off.TBL_SEAT v
      |> setFlag p Off.TBL_STATUS 1 false |> tblShow before
  else
    let s := plainWrite p Off.TBL_SEAT v s
    if !was && bitOf v 16 then
      setMember (mySeat s) true { s with tbl := { s.tbl with seqs := [], helloAt := none } } |> tblShow before |> svcSend
    else tblShow before s

/-- JOIN: a write of TBL_SEAT. -/
def execJoin (w : Func) (v : Word) (s : State) : State := access w (pgFab 0) Off.TBL_SEAT v (seatWrite v) s

/-- A value of FAB_CFG that R525 admits: a FEC the mode has, AN with KR modes only. -/
def fabCfgOk (v : Word) : Bool :=
  let mode := fieldOf v 0 2
  fieldOf v 2 2 != 3 && !(fieldOf v 2 2 == 2 && (mode == 0 || mode == 2)) && !(bitOf v 4 && decide (mode < 2))

/-- A slot that a table key register may name. -/
def tblKeyOk (s : State) (t k : Nat) : Bool := (k == 0 && t != 0) || (keyAssigned s k t && (keyOf s k).kind == 1)

/-- A write of the key register of a tenant, tenant 0 standing for the table (R502, R526). -/
def keyRegWrite (t off : Nat) (v : Word) (s : State) : State :=
  if tblKeyOk s t (fieldOf v 0 8) then keySwitch t (keyReg s t) (plainWrite (pgFab 0) off v s) else bump (pgFab 0) Off.TBL_CNT_CFG_REFUSED 1 s

/-- A write to a fabric page beyond the head (R505, R525, R526). -/
def fabRegWrite (w : Func) (n off : Nat) (v : Word) (s : State) : State :=
  let p := pgFab n
  let no := bump (pgFab 0) Off.TBL_CNT_CFG_REFUSED 1 s
  let joined := flag s (pgFab 0) Off.TBL_SEAT 16
  let plain := plainWrite p off v s
  if off = Off.FAB_CFG then (if flag s p Off.CTRL 0 || !fabCfgOk v then no else plain)
  else if off = Off.FAB_MAC_LO then (if bitOf v 0 then no else plain)
  else if n ≠ 0 then plain
  else if off = Off.TBL_SEAT then seatWrite v s
  else if off = Off.TBL_ID ∨ off = Off.TBL_FRAME ∨ off = Off.TBL_GROUP_HI then (if joined then no else plain)
  else if off = Off.TBL_GROUP_LO then (if joined || !bitOf v 0 then no else plain)
  else if off = Off.TBL_TIMING then
    (if fieldOf v 0 10 < 10 ∨ 1000 < fieldOf v 0 10 ∨ fieldOf v 10 12 < 2 * fieldOf v 0 10 then no else plain)
  else if off = Off.TBL_BID then (if fieldOf v 0 8 = 0 ∨ fieldOf v 8 8 ≤ fieldOf v 0 8 then no else plain)
  else if off = Off.TBL_KEY then keyRegWrite 0 off v s
  else if Off.TBL_TENANT_KEY ≤ off ∧ off < Off.TBL_TENANT_KEY + 60 then
    keyRegWrite ((off - Off.TBL_TENANT_KEY) / 4 + 1) off v s
  else if Off.TBL_EXPORT_UNITS ≤ off ∧ off < Off.TBL_EXPORT_UNITS + 64 then
    (if (off - Off.TBL_EXPORT_UNITS) % 8 = 0 then (if fieldOf v 16 15 < 1 ∨ 16384 < fieldOf v 16 15 then no else plain)
     else if bitOf v 0 && !keyAssigned s (fieldOf v 5 8) (fieldOf v 1 4) then no else plain)
  else if off = Off.TBL_GPTP then (if 0 < fieldOf v 16 4 ∧ fieldOf v 16 4 < 11 then no else plain)
  else if off = Off.TBL_SYNC then (if w = .mgmt then plain else s)
  else if off = Off.TBL_FETCH then (if v = 0 then no else plain)
  else if off = Off.TBL_CREDIT then (if joined || fieldOf v 0 4 == 0 then no else plain)
  else if off = Off.TBL_SVC_TX_TAIL then svcTailWrite v [] s
  else if off = Off.TBL_SVC_BASE_LO ∨ off = Off.TBL_SVC_BASE_HI then
    (if svcOn s || (off == Off.TBL_SVC_BASE_LO && v.toNat % 4096 != 0) then no else plain)
  else if off = Off.TBL_SVC_CFG then
    (if svcOn s then (if bitOf v 0 then no else setFlag p off 0 false s)
     else if fieldOf v 4 4 < 2 ∨ 10 < fieldOf v 4 4 ∨ fieldOf v 8 4 < 2 ∨ 10 < fieldOf v 8 4 then no else svcSend plain)
  else plain

end Sys2Proof.Machine
end

