-- ==== Sys2Proof/Machine/Fences.lean ====
section
/-! DEFINITION. Errors of memories and links, fences and their phases, suspect replay, the delivery of fault records, the watchdog, the
device-fatal state and the fault collector's registers (R254, R528–R556, R600). -/
namespace Sys2Proof.Machine

/-! ## What a fence finds (R537, R547) -/

def noFence : FenceSt := { start := 0, cascade := none, suspects := [], replayed := [], guilty := none, rerun := [] }
def fenceOf (s : State) (d : Nat) : FenceSt := sget noFence s.fc.fences d
def updFence (d : Nat) (f : FenceSt → FenceSt) (s : State) : State :=
  { s with fc := { s.fc with fences := sput s.fc.fences d (f (fenceOf s d)) } }

/-- Is a domain fitted and powered, so that it can be fenced? -/
def domainLive (s : State) (d : Nat) : Bool :=
  match domainRoot d with
  | some r => pagePresent s.part r && pageOn s r
  | none => false

def islandOf (d : Nat) : Nat := ((domainRoot d).map pageIsland).getD 0
def rootAddr (d : Nat) : Nat := ((domainRoot d).map pageBase).getD 0
def setPhase (d n : Nat) (s : State) : State :=
  match domainRoot d with
  | some r => setFld r Off.FENCE_STATUS 0 3 n s
  | none => s
def fenceReg (s : State) (d off : Nat) : Nat := ((domainRoot d).map fun r => (rd s r off).toNat).getD 0

/-- The domains that a cascade of a network domain fences: its die's tiles and stem engine (R537). -/
def cascadeOf (d : Nat) : List Nat := if 64 ≤ d ∧ d < 68 then rangeFrom (16 * (d - 64)) 16 ++ [68 + (d - 64)] else []

/-- Has a receiver or a pipeline an open frame? -/
def framesOpen (s : State) (p : Page) : Bool :=
  match p.cls with
  | .csi => (csiOf s p.idx).slots.any fun k => k.frame.isSome || !k.closing.isEmpty
  | .isp => !(ispOf s p.idx).frames.isEmpty
  | _ => false

/-- Has a queue work in a domain: its endpoint lies there, or for a memory domain its engine, with a transfer in flight or a frame open? -/
def queueWorks (s : State) (d : Nat) (e : Nat × Queue) : Bool :=
  let p := queuePage s e.1 e.2
  e.2.state != 0 &&
    ((72 + queueMd s e.1 == d && !e.2.flight.isEmpty) || (pageDomain p == d && (!e.2.flight.isEmpty || framesOpen s p)))

/-- The contexts with work in a domain in the cause beat, in ascending order (R547). -/
def suspectsOf (s : State) (d : Nat) : List Nat :=
  let tile (t : Nat) : List Nat := (tileOf s t).fifo.map (·.ctx) ++ ((tileOf s t).kernel.map fun k => k.launch.ctx).toList
  let stem (k : Nat) : List Nat := (stemOf s k).fifo.map (·.ctx) ++ ((stemOf s k).job.map fun j => j.launch.ctx).toList
  let found := (if d < 64 then tile d else if 68 ≤ d ∧ d < 72 then stem (d - 68) else []) ++
    (s.queues.filter (queueWorks s d)).map fun e => queueCtx e.1
  (List.range 1024).filter found.contains

/-- The suspects of a fence of a domain: of a network domain, with those of the domains fenced with it (R547). -/
def suspectsAll (s : State) (d : Nat) : List Nat :=
  let found := (d :: cascadeOf d).flatMap (suspectsOf s)
  (List.range 1024).filter found.contains

/-! ## Phase 1 (R538–R540) -/

/-- The FENCE record of a domain (R532, R533). -/
def fenceRecord (d code severity : Nat) (s : State) : State :=
  formRec (mkRec 8 code severity d 0xFF (islandOf d) 0xFFFF (rootAddr d) (fenceReg s d Off.FENCE_STATUS)) s

/-- An entry of a launch or job FIFO is answered ABORTED when its RECORD is 1; the START time of its record is unstated. A context that
the fence has not yet reported gets a KERNEL record. -/
def abortEntry (d tag queue : Nat) (l : Launch) (named : Bool) (s : State) : State :=
  let s :=
    if !l.record then s
    else
      let f := fresh s
      let bs := completionBytes l tag (if d < 64 then d else 0x40 + (d - 68)) 3 f.1 (64 * beatNo s) 0 0
      if d < 64 then holdRecord d 0 queue l.ctx bs f.2
      else updStem (d - 68) (fun x => { x with comps := x.comps ++ [(queue, l.ctx, bs)] }) f.2
  if named then s else formRec (mkRec 0xA 3 2 d (ctxTenant s l.ctx) (islandOf d) l.ctx 0 tag) s

/-- Entries of a FIFO, with the contexts reported so far. -/
def abortEntries (d : Nat) (tag queue : Launch → Nat) : List Launch → List Nat → State → State
  | [], _, s => s
  | l :: r, seen, s => abortEntry d (tag l) (queue l) l (seen.contains l.ctx) s |> abortEntries d tag queue r (l.ctx :: seen)

/-- The domain's engines end what they run: a kernel and a job ABORTED, open frames without a descriptor; the FIFOs are answered and their
credits go back (R539–R541). -/
def endWork (d : Nat) (s : State) : State :=
  if d < 64 then
    let seen := ((tileOf s d).kernel.map fun k => k.launch.ctx).toList
    let s := finishKernel d 3 (fld s (pgMx d) Off.TILE_SEQ_PC 0 32) s
    let fifo := (tileOf s d).fifo
    updTile d (fun x => { x with fifo := [], ends := x.ends ++ fifo.flatMap fun l => l.queue.toList }) s
      |> abortEntries d Launch.tag Launch.compq fifo seen
  else if 68 ≤ d ∧ d < 72 then
    let seen := ((stemOf s (d - 68)).job.map fun j => j.launch.ctx).toList
    let held := (stemOf s (d - 68)).job.map (·.launch)
    let s := finishJob (d - 68) 3 s
    let s := match held with
      | some l => stemRelease l s
      | none => s
    let fifo := (stemOf s (d - 68)).fifo
    updStem (d - 68) (fun x => { x with fifo := [], ends := x.ends ++ fifo.flatMap fun l => l.queue.toList }) s
      |> abortEntries d Launch.stemTag Launch.stemQueue fifo seen
  else match domainRoot d with
    | some ⟨.csi, r⟩ =>
      let shut (k : CsiSlot) : CsiSlot := { k with frame := none, closing := [], fifo := [], taken := 0 }
      setCsi r { csiOf s r with slots := (csiOf s r).slots.map shut } s |> endAllCmds (pgCsi r)
    | some ⟨.isp, n⟩ => setIsp n { ispOf s n with frames := [], ending := [], slice := none, freed := none } s |> endAllCmds (pgIsp n)
    | some ⟨.callEngine, _⟩ => endAllCmds pgCe s
    | _ => s

/-- The fence of a domain begins, or runs again from phase 5 (R538, R551). -/
def fenceStart (d cause : Nat) (cascade : Option Nat) (s : State) : State :=
  let again := phaseOf s d == 5
  let suspects := if cause == 3 && (fenceOf s d).suspects.isEmpty then suspectsAll s (cascade.getD d) else (fenceOf s d).suspects
  let s := if again then s else bump pgFc Off.FC_CNT_FENCES 1 s
  updFence d (fun f => { f with start := s.tt.beats, suspects, cascade := if again then f.cascade else cascade
                                rerun := if again then [cause] else [] }) s
    |> setPhase d 1 |> fenceRecord d 1 2 |> raise pgFc Evt.FC_FENCE |> endWork d

/-- The replayed context hangs: its command times out in the held domain (R549, R551). -/
def replayHang (d : Nat) (s : State) : State :=
  if flag s pgFc Off.FC_REPLAY 31 && fenceHead s (fld s pgFc Off.FC_REPLAY 16 8) == fenceHead s d then
    let at_ := fld s pgFc Off.FC_REPLAY 16 8
    updFence at_ (fun f => { f with guilty := some (f.guilty.getD (fld s pgFc Off.FC_REPLAY 0 10)) }) s
  else s

/-- Did the domain's fence begin in this beat, so that a further cause of the beat joins it (R544)? -/
def joins (s : State) (d : Nat) : Bool := phaseOf s d == 1 && (fenceOf s d).start == s.tt.beats && (fenceOf s d).rerun.isEmpty

/-- Has the domain's fence run again from phase 5 in this beat, before a RELEASE of the beat, which is to be applied first (R544)? -/
def reran (s : State) (d : Nat) : Bool := phaseOf s d == 1 && (fenceOf s d).start == s.tt.beats && !(fenceOf s d).rerun.isEmpty

/-- A cause commits at one domain (R544): bit 3 CMD_TIMEOUT, 4 FENCE_CTRL.FENCE, 5 an uncorrectable error. Answers whether phases run. -/
def causeHere (d cause : Nat) (cascade : Option Nat) (s : State) : Bool × State :=
  match domainRoot d with
  | none => (false, s)
  | some r =>
    if !domainLive s d then (false, s)
    else if phaseOf s d != 0 && cause == 4 && cascade.isNone && !joins s d then (false, s)
    else
      let s := if phaseOf s d = 5 ∧ cause = 3 then replayHang d s else s
      let s := setFlag r Off.FENCE_STATUS cause true s
      if phaseOf s d = 0 ∨ phaseOf s d = 5 then (true, fenceStart d cause cascade s)
      else if reran s d then (false, updFence d (fun f => { f with rerun := f.rerun ++ [cause] }) s)
      else (false, s)

/-- A cause commits at a domain, and with a network domain at the domains of its die, which take the same cause bits (R537). -/
def causeAt (d cause : Nat) (s : State) : State :=
  let r := causeHere d cause none s
  if r.1 || joins s d then (cascadeOf d).foldl (fun s e => (causeHere e cause (some d) s).2) r.2 else r.2

/-! ## Phase 2 (R399, R540) -/

/-- DRAIN_BEATS of a domain. -/
def drainBeats (s : State) (d : Nat) : Nat := bitsAt (fenceReg s d Off.FENCE_CTRL) 8 16

/-- The drain begins, in the beat after the cause: a tile's DIRTY pool lines whose ECC is clean leave for their home slots (R399). -/
def drainStart (d : Nat) (s : State) : State :=
  let s := updFence d (fun f => { f with start := s.tt.beats }) s |> setPhase d 2
  if d < 64 then
    ((poolLines s d).filter fun l => l.st == 4 && !(tileOf s d).bad.contains l.line).foldl (fun s l =>
      sendWriteBack d l (some l.line) s |> updPoolLine d l.line (fun l => { l with st := 5, next := none })) s
  else s

/-- Fills of a memory side that requests await. -/
def servedFills (s : State) (n : Nat) : Nat :=
  ((kittyOf s n).map fun l => if l.locked then l.waiters.length else 0).foldl (· + ·) 0 + (s.mem.bypass.filter fun b => b.md == n).length

/-- Is anything outstanding in a domain (R540)? -/
def outstanding (s : State) (d : Nat) : Bool :=
  if d < 64 then !((tileOf s d).writes.isEmpty && (tileOf s d).posts.isEmpty && (tileOf s d).comps.isEmpty)
  else if 68 ≤ d ∧ d < 72 then !(stemOf s (d - 68)).comps.isEmpty
  else if 72 ≤ d ∧ d < 74 then servedFills s (d - 72) != 0 || s.queues.any fun e => 72 + queueMd s e.1 == d && !e.2.flight.isEmpty
  else if d = 92 then s.tbl.fetches.any fun f => f.queue.isSome
  else false

/-- A DIRTY pool line whose write-back has not arrived by the end of the drain is lost (R399). -/
def poolLost (t : Nat) (s : State) : State :=
  let lost (l : PoolLine) : Bool := l.st == 4 || (l.st == 5 && (tileOf s t).writes.any fun w => w.line == some l.line && !w.merged)
  ((poolLines s t).filter lost).foldl (fun s l =>
    bump (pgTsp t) Off.TSP_CNT_POOL_LOST 1 s |> raise (pgTsp t) Evt.TSP_POOL_LOST
      |> formRec (mkRec 0xB 0 2 t l.tenant t 0xFFFF l.home.addr t)) s

/-! ## Phases 3 to 5 (R388, R431, R541–R543) -/

/-- The kitty locks of a domain are released: a fill that no other request awaits is abandoned (R388). -/
def revokeLocks (d n : Nat) (s : State) : State :=
  let s := { s with mem := { s.mem with bypass := s.mem.bypass.filter fun b => b.md != n || b.dom != d } }
  ((kittyOf s n).filter fun l => l.locked && (l.owner == some d || l.waiters.any fun w => w.2 == d)).foldl (fun s l =>
    let rest := l.waiters.filter fun w => w.2 != d
    let taker := l.owner.orElse fun _ => l.waiters.head?.map (·.2)
    let s := if taker == some d then bump (pgKitty n) Off.KITTY_CNT_LOCK_REVOKED 1 s |> raise (pgKitty n) Evt.KITTY_LOCK_REVOKED else s
    let owner := l.owner.filter (· != d)
    if rest.isEmpty && owner.isNone then dropLines n (fun x => x.line == l.line) s
    else updLine n l.line (fun l => { l with waiters := rest, owner }) s) s

/-- Does a section of a handle write into a domain? -/
def handleWrites (d : Nat) (x : DeckHandle) : Bool :=
  decide (tableEnd x.bytes ≤ x.bytes.length) && (deckSects x.bytes).any fun k =>
    match k.type with
    | 0x20 => k.target == d | 0x21 => k.target == d | 0x22 => k.target == d | 0x23 => k.target == d
    | 0x03 => 72 + k.target == d | 0x24 => 72 + k.target == d
    | 0x10 => decide (72 ≤ d) && decide (d < 74)
    | 0x12 => d == 91
    | 0x04 => decide (64 ≤ d) && decide (d < 68)
    | _ => false

/-- What is held for the domain is taken back. -/
def revoke (d : Nat) (s : State) : State :=
  let s := [0, 1].foldl (fun s n => revokeLocks d n s) s
  let s := fenceQueues d s
  let s := if d < 64 then foldTile d s else s
  let s := if d = 92 then (s.tbl.fetches.filter fun f => f.queue.isSome).foldl (fun s f => fetchFail f 0xD s) s else s
  abortHandles (fun _ x => handleWrites d x) s

/-- The next phase begins in a later beat than the one before (R538): has the present phase begun before this beat? -/
def phaseRan (s : State) (d : Nat) : Bool := decide ((fenceOf s d).start < s.tt.beats)

/-- A phase begins. -/
def toPhase (d n : Nat) (s : State) : State := updFence d (fun f => { f with start := s.tt.beats }) s |> setPhase d n

/-- DRAIN_END: nothing is outstanding, or DRAIN_BEATS has passed; each request still served gets an error answer and is counted, and
revoking begins (R540, R541). -/
def execDrainEnd (d : Nat) (s : State) : State :=
  match domainRoot d with
  | none => s
  | some r =>
    if phaseOf s d ≠ 2 ∨ !phaseRan s d ∨ (outstanding s d = true ∧ s.tt.beats < (fenceOf s d).start + drainBeats s d) then s
    else
      let s :=
        if 72 ≤ d ∧ d < 74 then
          let n := d - 72
          let left := servedFills s n
          let s := (kittyOf s n).foldl (fun s l => if l.locked then
            l.waiters.foldl (fun s w => emit (.tileData w.1 l.home none) s) s else s) s
          let s := (s.mem.bypass.filter fun b => b.md == n && b.write.isNone).foldl (fun s b => emit (.tileData b.who b.home none) s) s
          let s := { s with mem := { s.mem with bypass := s.mem.bypass.filter fun b => b.md != n } }
          let s := dropLines n (fun l => l.locked) s |> kittyFlush n (fun _ => true)
          setFld r Off.FENCE_STATUS 16 16 (satNat 0xFFFF (fld s r Off.FENCE_STATUS 16 16 + left)) s
        else if d < 64 then poolLost d s
        else s
      revoke d s |> toPhase d 3

/-- REVOKE_END: the domain resets itself (R542). -/
def execRevokeEnd (d : Nat) (s : State) : State :=
  if phaseOf s d = 3 ∧ phaseRan s d = true ∧ (domainRoot d).isSome = true then domainReset d s |> toPhase d 4 else s

/-- RESET_END: the domain is held, the Call engine's once CALL_MODEL has been copied. -/
def execResetEnd (d : Nat) (s : State) : State :=
  if phaseOf s d ≠ 4 ∨ !phaseRan s d ∨ (d = 91 ∧ s.ce.copying = true ∧ (deckOf s 2).isSome = true) then s
  else toPhase d 5 s |> fenceRecord d 5 2 |> raise pgFc Evt.FC_HELD

/-- RELEASE of a held domain (R543): the fence is over, queues go on. A domain fenced by cascade waits for its network domain. It is applied
before the causes of its beat: where one has already made the fence run again, it begins a fence anew (R544). -/
def release (w : Func) (d : Nat) (s : State) : State :=
  match domainRoot d with
  | none => s
  | some r =>
    let no := accessError 0xB w (pageBase r + Off.FENCE_CTRL) s
    let again := if reran s d then (fenceOf s d).rerun else []
    if phaseOf s d ≠ 5 ∧ again.isEmpty then no
    else if (match (fenceOf s d).cascade with
      | some n => phaseOf s n != 0
      | none => false) then no
    else
      let s := wr r Off.FENCE_STATUS 0 s
      let s := { s with fc := { s.fc with fences := s.fc.fences.filter fun e => e.1 != d } }
      let s := if fld s pgFc Off.FC_REPLAY 16 8 = d then setFlag pgFc Off.FC_REPLAY 31 false s else s
      again.foldl (fun s c => causeAt d c s) (fenceRecord d 0 3 s |> settleQueues fun _ => true)

/-- A write of FENCE_CTRL, by the PF or the management cores on a root page (R79): each bit is judged by the phase held before it. -/
def fenceCtrlWrite (w : Func) (p : Page) (v : Word) (s : State) : State :=
  let d := pageDomain p
  if !isRoot p || !(w == .pf || w == .mgmt) then s
  else
    let open_ := phaseOf s d == 0 || joins s d
    let s := setFld p Off.FENCE_CTRL 8 16 (fieldOf v 8 16) s
    let s := if bitOf v 1 then release w d s else s
    if bitOf v 0 && open_ then causeAt d 4 s else s

/-- FENCE and RELEASE: writes of FENCE_CTRL with a DRAIN_BEATS. -/
def execFence (w : Func) (p : Page) (drain : Nat) (s : State) : State :=
  let v : Word := BitVec.ofNat 32 (1 + 256 * (drain % 65536))
  access w p Off.FENCE_CTRL v (fenceCtrlWrite w p v) s
def execRelease (w : Func) (p : Page) (drain : Nat) (s : State) : State :=
  let v : Word := BitVec.ofNat 32 (2 + 256 * (drain % 65536))
  access w p Off.FENCE_CTRL v (fenceCtrlWrite w p v) s

/-- The model slot of a mark: its entry's owner, or for a section without an entry the slot itself. -/
def markedSlot (s : State) (m : Nat × Nat) : Nat :=
  if 16 ≤ m.2 then m.2 - 16 else entryOwner ((tileRegions s m.1).getD m.2 (0, 0)) % 16

/-- The decks whose sections lie in marked entries of a tile. -/
def markedDecks (s : State) (t : Nat) : List Deck :=
  (modelDecks s).filter fun k => s.fc.marked.any fun m => m.1 == t && markedSlot s m == k.slot

/-- REINSTALLED: after the release the marked sections of a tile stand again, from their copies in HBM; a deck whose copy fails has to be
reloaded (R119, R543). -/
def execReinstalled (t : Nat) (s : State) : State :=
  if phaseOf s t ≠ 0 ∨ 64 ≤ t ∨ !(s.fc.marked.any fun m => m.1 == t) ∨ !tileLive s t then s
  else
    let ks := markedDecks s t
    let bad := ks.filter fun k => !copiesOk s k
    let s := bad.foldl (fun s k =>
      { s with boot := { s.boot with reload := s.boot.reload ++ [(k.kind, k.slot)] } } |> setReady 7 true) s
    let good := ks.filter fun k => copiesOk s k
    let s := good.foldl (fun s k => ((deckSects k.bytes).filter (onTile t)).foldl (fun s x =>
      match x.content k.bytes with
      | some bs => placeContent k.units k.bytes x bs s
      | none => s) s) s
    let s := { s with fc := { s.fc with marked := s.fc.marked.filter fun m => m.1 != t || bad.any fun k => k.slot == markedSlot s m } }
    if bad.isEmpty then formRec (mkRec 0xC 5 3 t 0xFF t 0xFFFF 0 0) s else s

/-! ## Timeouts (R80, R447, R454) -/

/-- What a TIMEOUT record names: tenant, context, detail. -/
def timeoutNames (s : State) (p : Page) (id : Nat) : Nat × Nat × Nat :=
  match p.cls with
  | .matrix => ((tileOf s p.idx).kernel.map fun k => (ctxTenant s k.launch.ctx, k.launch.ctx, k.launch.tag)).getD (0xFF, 0xFFFF, 0)
  | .stem => ((stemOf s p.idx).job.map fun j => (ctxTenant s j.launch.ctx, j.launch.ctx, j.launch.stemTag)).getD (0xFF, 0xFFFF, 0)
  | .queueEngine => (ctxTenant s (queueCtx (id / 65536)), queueCtx (id / 65536), id / 65536)
  | .context => (ctxTenant s p.idx, p.idx, 0)
  | _ => (0xFF, 0xFFFF, 0)

/-- CMD_TIMEOUT: ⌈TICKS ÷ 64⌉ beats have been issued since a command's accept beat, and its domain is fenced; a context page's timeout
fences the domains that hold the context's work (R80, R454). -/
def execCmdTimeout (p : Page) (id : Nat) (s : State) : State :=
  let due (c : CmdSt) : Bool := c.id == id && c.ticks != 0 && elapsed s c.accept c.ticks
  if !(pagePresent s.part p && pageOn s p && hasTimeout p && (cmdsOf s p).any due) then s
  else
    let spent := (cmdsOf s p).map fun c => if due c then { c with ticks := 0 } else c
    let n := timeoutNames s p id
    let s := { s with head := { s.head with cmds := sset [] s.head.cmds (pageBase p) spent } } |> raise p 3
      |> formRec (mkRec 7 (classCode p.cls) 2 (pageDomain p) n.1 (pageIsland p) n.2.1 (pageBase p) n.2.2)
    if p.cls = .context then (workDomains s p.idx).foldl (fun s d => causeAt d 3 s) s else causeAt (pageDomain p) 3 s

/-- FLR_TIMEOUT: a kernel or a job of a context that an FLR destroyed still runs 50 ms later, and its domain is fenced (R447). -/
def execFlrTimeout (c : Nat) (s : State) : State :=
  match (ctxOf s c).flr with
  | some b =>
    if elapsed s b (msTicks 50) then
      ((workDomains s c).filter fun d => decide (d < 72)).foldl (fun s d => (causeHere d 4 none s).2) s
    else s
  | none => s

/-! ## Errors of memories and links (R254, R529) -/

/-- The fatal state (R554). -/
def goFatal (cause : Nat) (s : State) : State :=
  if deviceFatal s then s
  else
    let s := setFlag pgFc Off.FC_STATUS 0 true s |> wr pgFc Off.FC_FATAL (BitVec.ofNat 32 cause)
      |> formRec (mkRec 0x10 cause 4 0xFF 0xFF 85 0xFFFF 0 0) |> raise pgFc Evt.FC_DEVICE_FATAL |> emit .errFatal
    allDomains.foldl (fun s d => (causeHere d 5 none s).2) s

/-- The watchdog fires: the management cores restart from MGMT_RESUME; a second firing within 10 s is fatal (R553). -/
def wdogFire (s : State) : State :=
  let again := match s.fc.wdogLast with
    | some b => !elapsed s b 10000000000
    | none => false
  let n := s.fc.wdogCount + 1
  let s := { s with fc := { s.fc with wdogLast := some s.tt.beats, wdogCount := n } }
    |> formRec (mkRec 0xF 0 3 0xFF 0xFF 78 0xFFFF 0 n) |> raise pgFc Evt.FC_WDOG |> bump pgFc Off.FC_CNT_WDOG 1
    |> setFlag pgFc Off.FC_WDOG 31 false
  if again then goFatal 3 s else s

/-- The region entry that marks a unit's section for reinstall: a LOCKED one (R529). -/
def markUnit (t unit : Nat) (s : State) : State :=
  let hit := (List.range 16).filter fun k =>
    entryLocked ((tileRegions s t).getD k (0, 0)) && entryHas ((tileRegions s t).getD k (0, 0)) unit && !s.fc.marked.contains (t, k)
  { s with fc := { s.fc with marked := s.fc.marked ++ hit.map fun k => (t, k) } }

/-- A tile's uncorrectable error: its domain is fenced. -/
def tileBad (t : Nat) (r : FaultRec) (s : State) : State := formRec r s |> causeAt t 5

/-- A kitty line with an uncorrectable error: who awaits it gets errors, and its data is lost; of a DIRTY line the record names the home
slot. -/
def kittyBad (n k bits : Nat) (s : State) : State :=
  match (kittyOf s n).find? fun l => l.line == k with
  | none => s
  | some l =>
    let s := l.waiters.foldl (fun s w => emit (.tileData w.1 l.home none) s) s
    dropLines n (fun x => x.line == k) s |> kittyPoison n
      |> formRec (mkRec 2 0x83 1 (72 + n) (if l.shared then 0 else l.tenant) (68 + n) 0xFFFF (if l.dirty then l.home.addr else k) bits)

/-- An open frame of a receiver is cut at its next line (R193, R529). -/
def receiverCut (r k : Nat) (s : State) : State :=
  match (csiSlot s r k).frame with
  | none => s
  | some f =>
    if f.cutLine ≠ 0xFFFF then s
    else
      updFrameOf r k (fun f => { CsiFrame.flag flOverflow f with cutLine := f.next }) s
        |> bump (pgCsi r) Off.CSI_CNT_OVERFLOW_CUT 1 |> raise (pgCsi r) Evt.CSI_OVERFLOW_CUT
        |> fun s => if cfgQueue f.cfg then s else ispCutAt (slotPipe r) (slotInput r k) f.next s

/-- A frame whose lines lie in a pipeline's input buffer is cut, at the receiver and at the pipeline. -/
def inputCut (n i : Nat) (s : State) : State := receiverCut (4 * n + i / 4) (i % 4) s

/-- The output frames in progress of an output drop the rest of their lines (R220). -/
def outputDrop (n o : Nat) (s : State) : State :=
  (ispOf s n).frames.foldl (fun s f =>
    match f.outs.find? fun q => q.out == o && q.drop.isNone with
    | none => s
    | some q =>
      let r := outDrop n f q s
      let swap (g : IspFrame) : IspFrame := { g with outs := g.outs.map fun x => if x.out == o then r.1 else x }
      updFrame n (fun g => g.id == f.id) swap r.2) s

/-- The part of an error's record that its site gives: SOURCE, CODE, domain, island, address (R532). -/
def siteRec (site : EccSite) : Nat × Nat × Nat × Nat × Nat :=
  match site with
  | .tileSram t a => (2, 1, t, t, a)
  | .stateFile t e => (2, 2, t, t, e)
  | .accumulators t => (5, 1, t, t, 0)
  | .vectorRegs t => (5, 2, t, t, 0)
  | .tileFifo t => (5, 3, t, t, 0)
  | .kitty n k => (2, 3, 72 + n, 68 + n, k)
  | .hbm a => (3, 0, 72, 68, a)
  | .alwaysOn b => (2, 4, 0xFF, pageIsland pgRing, b)
  | .callEngine a => (2, 5, 91, pageIsland pgCe, a)
  | .receiverFifo r _ => (5, 4, pageDomain (pgCsi r), pageIsland (pgCsi r), 0)
  | .pipelineInput n _ => (5, 4, pageDomain (pgIsp n), pageIsland (pgIsp n), 0)
  | .pipelineOutput n _ => (5, 4, pageDomain (pgIsp n), pageIsland (pgIsp n), 0)
  | .mgmtL2 => (2, 6, 0xFF, 78, 0)
  | .rotSram => (2, 7, 0xFF, 85, 0)
  | .keeper => (2, 4, 0xFF, pageIsland pgPower, 0)
  | .endpointBuffer => (5, 3, 0xFF, 72, 0)
  | .collectorBuffer => (5, 3, 0xFF, 72, 0)

/-- Is the memory of a site fitted and powered? -/
def sitePage (site : EccSite) : Page :=
  match site with
  | .tileSram t _ => pgMx t | .stateFile t _ => pgSu t | .accumulators t => pgMx t | .vectorRegs t => pgVe t | .tileFifo t => pgMx t
  | .kitty n _ => pgKitty n | .hbm _ => pgMc 0 | .alwaysOn _ => pgRing | .callEngine _ => pgCe
  | .receiverFifo r _ => pgCsi r | .pipelineInput n _ => pgIsp n | .pipelineOutput n _ => pgIsp n
  | .mgmtL2 => ⟨.mgmtCores, 0⟩ | .rotSram => pgMb | .keeper => pgPower | .endpointBuffer => pgPcie | .collectorBuffer => pgFc

/-- Does a site's code correct errors at all (R528)? -/
def siteCorrects (site : EccSite) : Bool :=
  match site with
  | .tileSram _ _ => true | .stateFile _ _ => true | .kitty _ _ => true | .alwaysOn _ => true | .callEngine _ => true
  | .mgmtL2 => true | .rotSram => true | _ => false

/-- A corrected error: the counter of the block, and a record as R530 says. -/
def eccCorrected (site : EccSite) (bits : Nat) (s : State) : State :=
  let r := siteRec site
  let s := match site with
    | .tileSram t _ => bump (pgTsp t) Off.TSP_CNT_ECC_CORR 1 s
    | .kitty n _ => bump (pgKitty n) Off.KITTY_CNT_ECC_CORR 1 s
    | _ => s
  formCorrected (mkRec r.1 r.2.1 0 r.2.2.1 0xFF r.2.2.2.1 0xFFFF r.2.2.2.2 bits) s

/-- An uncorrectable error (R529, R554). -/
def eccBad (site : EccSite) (bits : Nat) (s : State) : State :=
  let r := siteRec site
  let code := if r.1 = 2 then r.2.1 + 0x80 else r.2.1
  let rec_ := mkRec r.1 code 1 r.2.2.1 0xFF r.2.2.2.1 0xFFFF r.2.2.2.2 (if r.1 = 2 then bits else 0)
  match site with
  | .tileSram t a => updTile t (fun x => { x with bad := x.bad ++ [a / 4096] }) s |> markUnit t (a / 4096) |> tileBad t { rec_ with severity := 2 }
  | .stateFile t _ => tileBad t { rec_ with severity := 2 } s
  | .accumulators t => tileBad t { rec_ with severity := 2 } s
  | .vectorRegs t => tileBad t { rec_ with severity := 2 } s
  | .tileFifo t => tileBad t { rec_ with severity := 2 } s
  | .kitty n k => kittyBad n k bits s
  | .hbm _ => s
  | .alwaysOn b => formRec rec_ s |> ringZeroise fun x => x.idx == b
  | .callEngine _ => formRec { rec_ with severity := 2 } s |> causeAt 91 5
  | .receiverFifo q k => formRec rec_ s |> receiverCut q k
  | .pipelineInput n i => formRec rec_ s |> inputCut n i
  | .pipelineOutput n o => formRec rec_ s |> outputDrop n o
  | .mgmtL2 => formRec rec_ s |> wdogFire
  | .rotSram => goFatal 1 s
  | .keeper => goFatal 2 s
  | .endpointBuffer => goFatal 4 s
  | .collectorBuffer => goFatal 5 s

/-- ECC_ERROR: a memory finds `bits` wrong bits, of a granule wrong bytes, which its code corrects or not. -/
def execEccError (site : EccSite) (corrected : Bool) (bits : Nat) (s : State) : State :=
  match site with
  | .hbm a =>
    let n := homeMd s (a / 64 * 64)
    if pagePresent s.part (pgMc n) && pageOn s (pgMc n) && decide (a < memEnd s) && bits != 0 then
      granuleError n (a / 64 * 64) (if corrected then Nat.min 3 bits else Nat.max 4 bits) s
    else s
  | _ =>
    if !(pagePresent s.part (sitePage site) && pageOn s (sitePage site)) then s
    else if !corrected then eccBad site bits s
    else if siteCorrects site then eccCorrected site bits s
    else s

def linkEnds (die edge : Nat) : List (Nat × Nat) := (die, edge) :: (linkPeer die edge).toList
def pgLink (e : Nat × Nat) : Page := ⟨.dieLink, 4 * e.1 + e.2⟩
def linkLive (s : State) (die edge : Nat) : Bool :=
  decide (die < 4) && decide (edge < 4) && pagePresent s.part (pgLink (die, edge)) && pageOn s (pgLink (die, edge))

/-- A link without a module in service fences the network domains at its ends (R254, R537). -/
def linkLost (die edge : Nat) (s : State) : State :=
  let s := (linkEnds die edge).foldl (fun s e => setFld (pgLink e) Off.DL_STATUS 4 4 0 s) s
    |> formRec (mkRec 6 2 2 (64 + die) 0xFF (pageIsland (pgLink (die, edge))) 0xFFFF 0 (pageBase (pgLink (die, edge))))
  (linkEnds die edge).foldl (fun s e => causeAt (64 + e.1) 5 s) s

/-- The links that no module of has trained are lost when the beat begins (R254). -/
def linksLost (s : State) : State :=
  s.boot.linksDue.foldl (fun s e => if linkLive s e.1 e.2 then linkLost e.1 e.2 s else s)
    { s with boot := { s.boot with linksDue := [] } }

/-- A module leaves service (R254). -/
def moduleOut (die edge m : Nat) (s : State) : State :=
  let s := (linkEnds die edge).foldl (fun s e => setFld (pgLink e) Off.DL_STATUS (4 + m) 1 0 s |> raise (pgLink e) Evt.DL_DEGRADED) s
    |> formRec (mkRec 6 1 1 (64 + die) 0xFF (pageIsland (pgLink (die, edge))) 0xFFFF 0 (pageBase (pgLink (die, edge))))
  if fld s (pgLink (die, edge)) Off.DL_STATUS 4 4 = 0 then linkLost die edge s else s

/-- FLIT_CRC_FAILURE: a flit on a module fails its CRC for the `nth` time in succession (R254). -/
def execFlitCrcFailure (die edge m nth : Nat) (s : State) : State :=
  if !linkLive s die edge || !(decide (m < 4) && flag s (pgLink (die, edge)) Off.DL_STATUS (4 + m)) then s
  else
    let p := pgLink (die, edge)
    let s := bump p Off.DL_CNT_CRC 1 s
    let s := if nth = 2 then bump p Off.DL_CNT_REPLAY2 1 s else s
    if nth = 8 then moduleOut die edge m s else s

/-- Does a route between two dies pass a link? -/
def passesLink (a b die edge : Nat) : Bool :=
  (dieLinks a b).any fun l => (l.1 == die && dieEdge l.1 l.2 == some edge) || (l.2 == die && dieEdge l.2 l.1 == some edge)

/-- FLIT_DISCARD: a flit is still undelivered 192 beats after its send beat: it is discarded, and the link is lost (R254). -/
def execFlitDiscard (die edge : Nat) (s : State) : State :=
  if linkLive s die edge then
    let old (t : Nat) (p : HaloPost) : Bool := passesLink (t / 16) (p.target / 16) die edge && decide (postSent t p + 192 ≤ beatNo s)
    linkLost die edge ((s.tiles.map (·.1)).foldl (fun s t => updTile t (fun x => { x with posts := x.posts.filter fun p => !old t p }) s) s)
  else s

/-! ## Delivery (R533–R535) -/

/-- Does a tenant's copy keep ADDR: it lies in the tenant's regions, in its I/O virtual space, in its BAR0, or is a queue position? -/
def addrShown (s : State) (r : FaultRec) : Bool :=
  match r.source with
  | 9 => true
  | 0xD => true
  | 3 => addrTenant s r.addr == r.tenant
  | 4 => addrTenant s r.addr == r.tenant
  | 0xB => addrTenant s r.addr == r.tenant
  | _ =>
    match pageOf r.addr with
    | some (p, _) => (r.source == 1 || r.source == 7) && p.cls == .context && ctxExists s p.idx && ctxTenant s p.idx == r.tenant
    | none => false

/-- The bytes of a record. -/
def recBytes (r : FaultRec) : List Byte := (List.range 8).flatMap fun k => leBytes 4 (recWord r k)

/-- The FAULT cell of a tenant. -/
def faultCell (s : State) (r : FaultRec) : Cell :=
  let c := { r with island := 0, addr := if addrShown s r then r.addr else 0 }
  { kind := 0x205, flags := 0, code := 0, corr := 0, tt := r.tt, payload := (recBytes c).drop 8 }

/-- May a tenant other than 0 see the record? -/
def recForTenant (s : State) (r : FaultRec) : Bool :=
  decide (1 ≤ r.tenant) && decide (r.tenant ≤ 15) && r.severity != 0 && (r.context == 0xFFFF || ctxTenant s r.context == r.tenant)

def fcSize (s : State) : Nat := 2 ^ fld s pgFc Off.FC_CFG 8 4
def fcFree (s : State) : Bool :=
  decide (ringUsed (rd s pgFc Off.FC_RING_TAIL).toNat (rd s pgFc Off.FC_RING_HEAD).toNat < fcSize s)

/-- RECORD_DELIVERY: the oldest undelivered record goes to the PF's ring and as a cell to its tenant. -/
def execRecordDelivery (s : State) : State :=
  match s.fc.buffer with
  | [] => s
  | r :: rest =>
    if !(pageOn s pgFc && flag s pgFc Off.FC_CFG 0 && fcFree s && hostOpen s 0) then s
    else
      let tail := (rd s pgFc Off.FC_RING_TAIL).toNat
      let at_ := rd64 s pgFc Off.FC_RING_BASE_LO Off.FC_RING_BASE_HI + 32 * (tail % fcSize s)
      let s := { s with fc := { s.fc with buffer := rest } } |> emit (.hostWrite 0 at_ (recBytes r))
        |> wr pgFc Off.FC_RING_TAIL (BitVec.ofNat 32 (tail + 1))
      if recForTenant s r then postCell r.tenant (faultCell s r) s else s

/-! ## Suspect replay (R548–R550) -/

/-- A REPLAY record about a suspect. -/
def replayRec (d c code n : Nat) (s : State) : State := formRec (mkRec 0xC code 3 d (ctxTenant s c) (islandOf d) c 0 n) s

/-- A suspect is destroyed (R454). -/
def destroySuspect (c : Nat) (s : State) : State := if ctxExists s c && ctxState s c != 4 then destroyBegin c s else s

/-- Every suspect is destroyed. -/
def unattributed (d : Nat) (cs : List Nat) (s : State) : State :=
  let s := cs.foldl (fun s c => replayRec d c 4 cs.length s) s |> bump pgFc Off.FC_CNT_UNATTRIBUTED 1
  cs.foldl (fun s c => destroySuspect c s) s

/-- The end of a round of suspect replay: FC_REPLAY is written with VALID 0 while the domain is held (R549). -/
def replayOutcome (d : Nat) (s : State) : State :=
  let f := fenceOf s d
  if phaseOf s d ≠ 5 ∨ f.suspects.isEmpty then s
  else
    let n := f.suspects.length
    let s := updFence d (fun f => { f with suspects := [], replayed := [], guilty := none }) s
    match f.guilty with
    | some g =>
      let s := f.suspects.foldl (fun s c => replayRec d c (if c = g then 1 else 2) n s) s |> bump pgFc Off.FC_CNT_GUILTY 1
      destroySuspect g s
    | none =>
      if !(f.suspects.all f.replayed.contains) then unattributed d f.suspects s
      else
        let recent := (sget [] s.fc.unreproduced d).filter fun t => decide (tnow s < t + 3600000000000)
        let s := { s with fc := { s.fc with unreproduced := sput s.fc.unreproduced d (recent ++ [tnow s]) } }
        if 2 ≤ recent.length then unattributed d f.suspects s
        else f.suspects.foldl (fun s c => replayRec d c 3 n s) s |> bump pgFc Off.FC_CNT_UNREPRODUCED 1

/-- A write of FC_REPLAY (R543, R555). -/
def replayWrite (v : Word) (s : State) : State :=
  let d := fieldOf v 16 8
  let c := fieldOf v 0 10
  if !bitOf v 31 then plainWrite pgFc Off.FC_REPLAY v s |> replayOutcome d
  else if phaseOf s d ≠ 5 ∨ !ctxExists s c then bump pgFc Off.FC_CNT_CFG_REFUSED 1 s
  else
    let s := plainWrite pgFc Off.FC_REPLAY v s
    let f := fenceOf s d
    if f.suspects.contains c && !f.replayed.contains c then
      updFence d (fun f => { f with replayed := f.replayed ++ [c] }) s |> bump pgFc Off.FC_CNT_REPLAYS 1
    else s

/-! ## The fault collector's registers (R534, R553, R555) -/

/-- A write of FC_CFG. -/
def fcCfgWrite (v : Word) (s : State) : State :=
  let on := flag s pgFc Off.FC_CFG 0
  let log2 := fieldOf v 8 4
  if log2 < 4 ∨ 12 < log2 ∨ (on = true ∧ log2 ≠ fld s pgFc Off.FC_CFG 8 4) then bump pgFc Off.FC_CNT_CFG_REFUSED 1 s
  else
    let s := plainWrite pgFc Off.FC_CFG v s
    if !on && bitOf v 0 then s |> wr pgFc Off.FC_RING_TAIL 0 |> wr pgFc Off.FC_RING_HEAD 0 else s

/-- RING_EN: a write of FC_CFG. -/
def execRingEn (w : Func) (v : Word) (s : State) : State := access w pgFc Off.FC_CFG v (fcCfgWrite v) s

/-- A write of FC_RING_HEAD: backward or past TAIL it is refused. -/
def fcHeadWrite (v : Word) (s : State) : State :=
  if countMoves (rd s pgFc Off.FC_RING_HEAD).toNat v.toNat (rd s pgFc Off.FC_RING_HEAD).toNat
      (ringUsed (rd s pgFc Off.FC_RING_TAIL).toNat (rd s pgFc Off.FC_RING_HEAD).toNat) then
    wr pgFc Off.FC_RING_HEAD v s
  else bump pgFc Off.FC_CNT_CFG_REFUSED 1 s

/-- FC_RING_HEAD_WRITE. -/
def execFcRingHeadWrite (w : Func) (v : Word) (s : State) : State := access w pgFc Off.FC_RING_HEAD v (fcHeadWrite v) s

def wdogKick (s : State) : State := { s with fc := { s.fc with wdogStart := s.tt.beats } }

/-- WATCHDOG_KICK: a write of FC_WDOG_KICK, by the management cores alone. -/
def execWatchdogKick (w : Func) (v : Word) (s : State) : State :=
  access w pgFc Off.FC_WDOG_KICK v (fun s => if w = .mgmt then wdogKick s else s) s

/-- WATCHDOG_FIRE: a period has passed without a kick. -/
def execWatchdogFire (s : State) : State :=
  if pageOn s pgFc && flag s pgFc Off.FC_WDOG 31 && elapsed s s.fc.wdogStart (msTicks (fld s pgFc Off.FC_WDOG 0 16)) then wdogFire s else s

/-- A write to the fault collector page beyond the head. -/
def fcRegWrite (w : Func) (off : Nat) (v : Word) (s : State) : State :=
  let no := bump pgFc Off.FC_CNT_CFG_REFUSED 1 s
  if off = Off.FC_CFG then fcCfgWrite v s
  else if off = Off.FC_RING_BASE_LO ∨ off = Off.FC_RING_BASE_HI then
    (if flag s pgFc Off.FC_CFG 0 || (off == Off.FC_RING_BASE_LO && v.toNat % 4096 != 0) then no else plainWrite pgFc off v s)
  else if off = Off.FC_RING_HEAD then fcHeadWrite v s
  else if off = Off.FC_WDOG then
    (if w ≠ .mgmt then s else if fieldOf v 0 16 < 10 then no else plainWrite pgFc off v s |> wdogKick)
  else if off = Off.FC_WDOG_KICK then (if w = .mgmt then wdogKick s else s)
  else if off = Off.FC_REPLAY then replayWrite v s
  else plainWrite pgFc off v s

end Sys2Proof.Machine
end

