-- ==== Sys2Proof/Machine/Thermal.lean ====
section
/-! DEFINITION. Temperature sensors, the package clock cap, doubled refresh, the trip, and the retries of voltage writes (R578, R584–R590). -/
namespace Sys2Proof.Machine

/-- The higher of a reading and the highest so far. -/
def hotter (a : Option Int) (x : Int) : Option Int := some (max (a.getD x) x)

/-- A die sensor's reading counts towards a trip: at the third in a row at TH_TRIP or more THERMTRIP# goes low and CAP to 8 (R588). -/
def tripCount (k : Nat) (x : Int) (s : State) : State :=
  let n := if tripTemp s ≤ x then sget 0 s.pwr.tripRun k + 1 else 0
  let s := { s with pwr := { s.pwr with tripRun := sset 0 s.pwr.tripRun k (Nat.min n 3) } }
  if n < 3 ∨ s.boot.thermtrip then s
  else setCap 8 { s with boot := { s.boot with thermtrip := true }, pwr := { s.pwr with tripAt := some s.tt.beats } }

/-- A stack's reading doubles its refresh from 85 °C, until one below 82 °C (R587). -/
def stackRefresh (k : Nat) (x : Int) (s : State) : State :=
  let on := s.pwr.refresh.contains k
  if !on && decide (85 * 16 ≤ x) then { s with pwr := { s.pwr with refresh := s.pwr.refresh ++ [k] } } |> raise pgPower Evt.PWR_HBM_HOT
  else if on && decide (x < 82 * 16) then { s with pwr := { s.pwr with refresh := s.pwr.refresh.filter fun j => j != k } }
  else s

/-- TEMP_SENSOR_UPDATE: a sensor of a die that is On has a new reading, in 1/16 °C (R584, R587, R588). -/
def execTempSensorUpdate (k value : Nat) (s : State) : State :=
  let v := value % 2 ^ 16
  if 22 ≤ k ∨ !(domOn s (sensorDomain k) && domOn s 1) then s
  else
    let s := wr pgPower (Off.THERM_TEMP + 4 * k) (BitVec.ofNat 32 v) s
    if v = 0x8000 then thermShow s
    else
      let x := signed 16 v
      let s :=
        if dieSensor k then tripCount k x { s with pwr := { s.pwr with tMax := hotter s.pwr.tMax x } }
        else stackRefresh k x { s with pwr := { s.pwr with hMax := hotter s.pwr.hMax x } }
      thermShow s

/-- The highest valid reading of the sensors that p names. -/
def highest (s : State) (p : Nat → Bool) : Option Int :=
  (((List.range 22).filter p).filterMap (sensorTemp s)).foldl hotter none

/-- The cap that R585 decides from T and H in 1/16 °C, where there is a reading, and P in 0.1 W. -/
def nextCap (s : State) (t h : Option Int) (p : Nat) : Nat :=
  let th : Int := 16 * signed 8 (fld s pgPower Off.PWR_THERM_CFG 0 8)
  let hy : Int := 16 * (fld s pgPower Off.PWR_THERM_CFG 8 4 : Int)
  let hb : Int := 16 * (fld s pgPower Off.PWR_THERM_CFG 16 8 : Int)
  let limit := fld s pgPower Off.PWR_LIMIT 0 10
  let cap := clkCap s
  let reaches (x : Option Int) (y : Int) : Bool := (x.map fun a => decide (y ≤ a)).getD false
  if reaches t th || reaches h hb || decide (limit < p) then Nat.max 8 (cap - 2)
  else if !reaches t (th - hy) && !reaches h (hb - hy) && decide (p * 20 ≤ limit * 19) then Nat.min 44 (cap + 1)
  else cap

/-- Does a millisecond end at the present beat, from Call upward, with its decision still to be taken (R585)? -/
def decisionDue (s : State) : Bool :=
  s.tt.run && decide (2 ≤ pwrState s) && decide (64 * beatNo s % 1000000 = 0) && s.pwr.decided != some (beatNo s)

/-- THROTTLE_DECISION: at a 1 ms boundary the loop takes T and H of the window, and the average package power P in 0.1 W (R585). -/
def execThrottleDecision (p : Nat) (s : State) : State :=
  if !decisionDue s then s
  else
    let t := s.pwr.tMax.orElse fun _ => highest s dieSensor
    let h := s.pwr.hMax.orElse fun _ => highest s fun k => !dieSensor k
    let cap := nextCap s t h p
    let status (lo : Nat) (x : Option Int) (s : State) : State :=
      match x with
      | some a => setFld pgPower Off.PWR_THERM_STATUS lo 8 (wrap 8 (a / 16)) s
      | none => s
    { s with pwr := { s.pwr with tMax := none, hMax := none, decided := some (beatNo s) } }
      |> wr pgPower Off.PWR_PACKAGE (BitVec.ofNat 32 (Nat.min p 4095))
      |> status 0 t |> status 8 h |> setCap cap

/-- AVS_RETRY: a voltage write of a die's rail that was not acknowledged is sent again while a clock of the die waits for it (R578). -/
def execAvsRetry (die : Nat) (s : State) : State :=
  let waits (t : Nat) : Bool := pageOn s (pgMx t) && flag s (pgMx t) Off.TILE_CLK 14
  if die < 4 && (rangeFrom (16 * die) 16).any waits then s |> bump pgPower Off.PWR_CNT_AVS_RETRY 1 |> emit (.avsWrite die (railVolts (railClock s die))) else s

/-- A write of PWR_THERM_CFG; R2 gives the grade's upper limit (R589). -/
def thermCfgWrite (v : Word) (s : State) : State :=
  let top : Int := if s.part.gradeE then 105 else 95
  if top < signed 8 (fieldOf v 0 8) ∨ fieldOf v 8 4 = 0 ∨ fieldOf v 16 8 < 85 ∨ 105 < fieldOf v 16 8 then
    refuse pgPower Off.PWR_CNT_CFG_REFUSED s
  else plainWrite pgPower Off.PWR_THERM_CFG v s

/-- A write of PWR_LIMIT (R589). -/
def powerLimitWrite (v : Word) (s : State) : State :=
  if fieldOf v 0 10 < 100 ∨ 450 < fieldOf v 0 10 then refuse pgPower Off.PWR_CNT_CFG_REFUSED s
  else plainWrite pgPower Off.PWR_LIMIT v s

end Sys2Proof.Machine
end

