-- ==== Sys2Proof/Machine/Head.lean ====
section
/-! DEFINITION. Writes of the common page head: CTRL, the events, EVT_ROUTE, CMD_TIMEOUT and the deal slot (R74–R90, R455,
R539). -/
namespace Sys2Proof.Machine

/-! ## CTRL (R76–R84) -/

/-- A request to set CTRL.EXPERT that is not refused is noted for its beat (R486). -/
def expertAsk (p : Page) (w : Func) (granted : Bool) (s : State) : State :=
  { s with head := { s.head with asks := s.head.asks ++ [⟨pageBase p, w, granted⟩] } }

/-- The bit EXPERT of a CTRL write (R83, R84). -/
def expertWrite (w : Func) (p : Page) (on : Bool) (s : State) : State :=
  let held := flag s p Off.CTRL 2
  let holder := held && fld s p Off.CTRL 4 5 == funcCode w
  let refused := accessError 4 w (pageBase p + Off.CTRL) s
  if on then
    if holder then expertAsk p w false s
    else if held || !expertGrant s w p then refused
    else
      let s := s |> setFlag p Off.CTRL 2 true |> setFld p Off.CTRL 4 5 (funcCode w) |> expertAsk p w true
      -- sign-off needs a Call engine whose EXPERT has read 0 since its model started (R166)
      if p.cls = .callEngine then { s with ce := { s.ce with clean := false } } else s
  else if holder then
    let s := setFlag p Off.CTRL 2 false s
    -- automatic control of the always-on regulator resumes (R149)
    if p.cls = .power then regUpdate (wr pgPower Off.AON_REG_MANUAL 2 s) else s
  else s

/-- The bit ENABLE of a CTRL write. A receiver forgets the FSYNC launches of the time before it was enabled (R196); the detectors
of a capture group start again when it is enabled (R160); queues whose engine or context starts or stops look at their state anew. -/
def enableWrite (p : Page) (on : Bool) (s : State) : State :=
  let was := flag s p Off.CTRL 0
  let s := setFlag p Off.CTRL 0 on s
  let s := if p.cls = .csi && on && !was then setCsi p.idx { csiOf s p.idx with fsyncs := [] } s else s
  let s := if p.cls = .callEngine && on then ceAccept s else s
  let s := if p.cls = .pdmIn && on != was then lineClear p.idx s else s
  let s := if (p.cls = .pdmIn ∨ p.cls = .beamformer) ∧ on ∧ was = false then detRestart p.idx s else s
  if on = was then s else settleQueues (fun _ => true) s

/-- A soft reset is accepted: it takes effect at the next beat boundary (R78). -/
def resetRequest (p : Page) (s : State) : State :=
  if s.head.resetting.contains (pageBase p) then s
  else setFlag p Off.CTRL 1 true { s with head := { s.head with resetting := s.head.resetting ++ [pageBase p] } }

/-- A write of CTRL. In phases 1 to 4 of a fence it is discarded whole; in phase 5 only SOFT_RESET of the PF or the management cores
counts (R78, R539). A VF's write reaches EXPERT only (R455). -/
def ctrlWrite (w : Func) (p : Page) (v : Word) (s : State) : State :=
  let a := pageBase p + Off.CTRL
  let ph := phaseOf s (pageDomain p)
  if ph ≠ 0 then
    if ph == 5 && bitOf v 1 && (w == .pf || w == .mgmt) then resetRequest p s else accessError 0xD w a s
  else
    match w with
    | .vf _ => expertWrite w p (bitOf v 2) s
    | _ =>
      let s := s |> enableWrite p (bitOf v 0) |> expertWrite w p (bitOf v 2)
      let s := if bitOf v 3 then clearCounters p s else s
      if !bitOf v 1 then s else if busy s p then accessError 0xA w a s else resetRequest p s

/-- The word of CTRL with the bits ENABLE and EXPERT as they stand. -/
def ctrlWord (s : State) (p : Page) (enable expert : Bool) (other : Nat) : Word :=
  BitVec.ofNat 32 (ofBool (if enable then flag s p Off.CTRL 0 else false) +
    4 * ofBool (if expert then flag s p Off.CTRL 2 else false) + other)

/-- A write of CTRL through the access path. -/
def ctrlAccess (w : Func) (p : Page) (v : Word) (s : State) : State := access w p Off.CTRL v (ctrlWrite w p v) s

/-- ENABLE: a write of CTRL that sets ENABLE and leaves EXPERT. -/
def execEnable (w : Func) (p : Page) (on : Bool) (s : State) : State := ctrlAccess w p (ctrlWord s p false true (ofBool on)) s

/-- SOFT_RESET: a write of CTRL with SOFT_RESET that leaves ENABLE and EXPERT. -/
def execSoftReset (w : Func) (p : Page) (s : State) : State := ctrlAccess w p (ctrlWord s p true true 2) s

/-- EXPERT: a write of CTRL with EXPERT that leaves ENABLE. -/
def execExpert (w : Func) (p : Page) (s : State) : State := ctrlAccess w p (ctrlWord s p true false 4) s

/-- EXPERT_CLEAR: a write of CTRL with EXPERT 0 that leaves ENABLE. -/
def execExpertClear (w : Func) (p : Page) (s : State) : State := ctrlAccess w p (ctrlWord s p true false 0) s

/-- CNT_CLEAR: a write of CTRL with CNT_CLEAR that leaves ENABLE and EXPERT. -/
def execCntClear (w : Func) (p : Page) (s : State) : State := ctrlAccess w p (ctrlWord s p true true 8) s

/-! ## Events (R86–R89) -/

/-- The bits of EVT_RAW that are implemented (R76). -/
def evtMask (p : Page) : Word := BitVec.ofNat 32 (2 ^ (evtTop p + 1) - 1)

/-- A W1C write of EVT_RAW: bits set in this beat stay (R87). -/
def evtRawWrite (p : Page) (v : Word) (s : State) : State :=
  let fresh : Word := BitVec.ofNat 32 (sget 0 s.head.sets (pageBase p))
  noteWritten p (wr p Off.EVT_RAW (rd s p Off.EVT_RAW &&& ~~~ (v &&& ~~~ fresh)) s)

/-- EVT_FORCE sets bits as hardware does. -/
def evtForceWrite (p : Page) (v : Word) (s : State) : State :=
  (List.range 32).foldl (fun s b => if bitOf v b then raise p b s else s) s

/-- A write of EVT_EN. -/
def evtEnWrite (p : Page) (v : Word) (s : State) : State := noteWritten p (wr p Off.EVT_EN (v &&& evtMask p) s)

/-- A write of EVT_ROUTE (R87, R88): on a context page that a VF owns TENANT holds the owner. -/
def evtRouteWrite (w : Func) (p : Page) (v : Word) (s : State) : State :=
  let owned := vfOwned s p
  let tenant := if owned then ctxTenant s p.idx else fieldOf v 16 4
  if (tenant ≠ 0 ∧ p.cls ≠ .context) ∨ vectorsOf tenant ≤ fieldOf v 0 11 then accessError 8 w (pageBase p + Off.EVT_ROUTE) s
  else
    wr p Off.EVT_ROUTE (BitVec.ofNat 32 (fieldOf v 0 11 + 2 ^ 16 * tenant + 2 ^ 20 * fieldOf v 20 2)) s

def execEvtRawWrite (w : Func) (p : Page) (v : Word) (s : State) : State := access w p Off.EVT_RAW v (evtRawWrite p v) s
def execEvtForce (w : Func) (p : Page) (v : Word) (s : State) : State :=
  access w p Off.EVT_FORCE v (unlessVf w (evtForceWrite p v)) s
def execEvtEnWrite (w : Func) (p : Page) (v : Word) (s : State) : State := access w p Off.EVT_EN v (evtEnWrite p v) s
def execEvtRouteWrite (w : Func) (p : Page) (v : Word) (s : State) : State :=
  access w p Off.EVT_ROUTE v (evtRouteWrite w p v) s

/-! ## The rest of the head -/

/-- A write of CMD_TIMEOUT: 0 only while EXPERT is 1 (R80). -/
def timeoutWrite (w : Func) (p : Page) (v : Word) (s : State) : State :=
  if !hasTimeout p then s
  else if v = 0 && !flag s p Off.CTRL 2 then accessError 9 w (pageBase p + Off.CMD_TIMEOUT) s
  else wr p Off.CMD_TIMEOUT v s

/-- A write of a head register, from the PF, the management cores or the root of trust. -/
def headWrite (w : Func) (p : Page) (off : Nat) (v : Word) (s : State) : State :=
  if off = Off.CTRL then ctrlWrite w p v s
  else if off = Off.EVT_RAW then evtRawWrite p v s
  else if off = Off.EVT_EN then evtEnWrite p v s
  else if off = Off.EVT_FORCE then evtForceWrite p v s
  else if off = Off.EVT_ROUTE then evtRouteWrite w p v s
  else if off = Off.DEAL_AT_LO ∨ off = Off.DEAL_AT_HI then
    (if flag s p Off.DEAL_CTRL 0 then accessError 5 w (pageBase p + off) s else wr p off v s)
  else if off = Off.DEAL_CTRL then dealCtrl w p v s
  else if off = Off.FENCE_CTRL then fenceCtrlWrite w p v s
  else if off = Off.CMD_TIMEOUT then timeoutWrite w p v s
  else s

/-- The head registers that the VF of a context page writes (R455). -/
def vfHead (off : Nat) : Bool := [Off.CTRL, Off.EVT_RAW, Off.EVT_EN, Off.EVT_ROUTE].contains off

end Sys2Proof.Machine
end

