-- ==== Sys2Proof/Machine/History.lean ====
section
/-! DEFINITION. The hand-history page: modes, configuration, device checkpoints and context checkpoints (R557–R572). Capture and the
ring are in Record.lean, replay in Replay.lean. -/
namespace Sys2Proof.Machine

/-- A write that the page refuses (R571). -/
def hhRefused (s : State) : State := refuse pgHh Off.HH_CNT_CFG_REFUSED s

/-! ## Device checkpoints (R565) -/

/-- The islands of R34. -/
def islands : List Nat := (List.range 86).filter islandUsed

/-- The positions of an island's arbiters, of those the model holds (R55). -/
def islandButtons (s : State) (n : Nat) : List Nat :=
  if n = 75 then [sget 15 s.head.buttons (pageBase ⟨.isp, 0⟩)]
  else if n = 81 then [sget 15 s.head.buttons (pageBase ⟨.isp, 1⟩)]
  else if n = 73 then [tblButton s, s.tbl.lendButton]
  else if n = 68 ∨ n = 69 then [sget 255 s.head.buttons (pageBase (pgQe (n - 68)))]
  else []

/-- The payload of START (R559). -/
def startPayload (s : State) : List Byte :=
  let id (off : Nat) : List Byte := leBytes 4 ((readIdentity s off).getD 0)
  id Off.ID_PART ++ id Off.ID_DIE_MAP ++ leBytes 1 s.part.stepping ++ leBytes 3 0 ++ leBytes 4 (rd s pgMb Off.MB_READY).toNat ++
    headerBytes (deckOf s 1) ++ headerBytes (deckOf s 2) ++ (List.range 16).flatMap fun k => headerBytes (modelDeck s k)

/-- Every kitty and every T1 pool writes back its dirty lines and invalidates every line. -/
def flushAll (s : State) : State :=
  let s := (List.range 64).foldl (fun s t => if tileLive s t then poolInvalidate t (fun _ => true) s else s) s
  (List.range 2).foldl (fun s n => if kittyLive s n then kittyFlush n (fun _ => true) s |> dropLines n (fun l => !l.locked) else s) s

/-- A device checkpoint begins: the flush, an empty map of written slots, CKPT_BUSY. -/
def checkpointBegin (s : State) : State :=
  let s := flushAll s
  { s with hh := { s.hh with writtenSlots := [], ckptAt := some s.tt.beats } } |> setFlag pgHh Off.HH_STATUS 1 true

/-- A request of a device checkpoint. -/
def checkpoint (s : State) : State :=
  if anyContext s || (s.fc.fences.any fun e => phaseOf s e.1 != 0) || hhMode s != 1 then hhRefused s
  else
    let buttons (s : State) (n : Nat) : State := hhCapture 2 n 0 ((islandButtons s n).flatMap fun b => leBytes 2 b) s
    (islands.filter fun n => domOn s (islandPower n)).foldl buttons (hhCapture 1 72 0 (startPayload s) s) |> checkpointBegin

/-- CHECKPOINT_COMPLETE: 4,096 beats after its acceptance the checkpoint completes. Lines that write-backs have made meanwhile go too. -/
def execCheckpointComplete (s : State) : State :=
  match s.hh.ckptAt with
  | some b =>
    if b + 4096 ≤ s.tt.beats ∧ domOn s 3 then
      { flushAll s with hh := { (flushAll s).hh with ckptAt := none } }
        |> setFlag pgHh Off.HH_STATUS 1 false |> setFlag pgHh Off.HH_STATUS 0 true
        |> raise pgHh Evt.HH_CKPT_DONE |> bump pgHh Off.HH_CNT_CHECKPOINTS 1
    else s
  | none => s

/-! ## HH_CTRL (R565, R569, R571) -/

/-- Bytes between HEAD and TAIL. -/
def hhHeld (s : State) : Nat := hhTail s - hhHead s

/-- MODE takes a value: DIVERGED clears; recording begins with what lies between HEAD and TAIL, replay with nothing injected. -/
def modeWrite (m : Nat) (s : State) : State :=
  let was := hhMode s
  let s := s |> setFlag pgHh Off.HH_STATUS 3 false |> setFld pgHh Off.HH_CTRL 0 2 m
  if m = was ∨ m = 0 then s
  else if m = 1 then
    let sum := s.hh.sizes.foldl (· + ·) 0
    { s with hh := { s.hh with sizes := if sum = hhHeld s then s.hh.sizes else if hhHeld s = 0 then [] else [hhHeld s] } }
  else { s with hh := { s.hh with draws := [], expect := [], made := [], injecting := false } }

/-- A write of HH_CTRL. -/
def hhCtrlWrite (v : Word) (s : State) : State :=
  if fieldOf v 0 2 = 3 then hhRefused s
  else
    let s := modeWrite (fieldOf v 0 2) s
    if bitOf v 2 then checkpoint s else s

/-- A write of HH_CTRL through the access path. -/
def hhCtrlAccess (w : Func) (v : Word) (s : State) : State := access w pgHh Off.HH_CTRL v (hhCtrlWrite v) s

/-- OFF, RECORD and REPLAY: writes of HH_CTRL.MODE. -/
def execOff (w : Func) (s : State) : State := hhCtrlAccess w 0 s
def execRecord (w : Func) (s : State) : State := hhCtrlAccess w 1 s
def execReplay (w : Func) (s : State) : State := hhCtrlAccess w 2 s

/-- CHECKPOINT: a write of HH_CTRL with CHECKPOINT that leaves MODE. -/
def execCheckpoint (w : Func) (s : State) : State := hhCtrlAccess w (BitVec.ofNat 32 (hhMode s + 4)) s

/-! ## HH_MARK (R566) -/

/-- A write of HH_MARK, by the management cores, naming a context that exists. -/
def hhMark (w : Func) (c : Nat) (s : State) : State :=
  if w ≠ .mgmt ∨ !ctxExists s c then hhRefused s
  else hhCapture 3 72 0 (leBytes 2 c ++ leBytes 2 0 ++ leBytes 4 (rd s pgHh Off.HH_MARK_TAG).toNat) s

/-- HH_MARK: the write. -/
def execHhMark (w : Func) (v : Word) (s : State) : State := access w pgHh Off.HH_MARK v (hhMark w (fieldOf v 0 10)) s

/-! ## Configuration (R558, R561, R571) -/

/-- Does a byte count lie on a record boundary between HEAD and TAIL? Where the recorder knows no records, every multiple of 16 counts. -/
def hhBoundary (s : State) (n : Nat) : Bool :=
  let ends := s.hh.sizes.foldl (fun l z => l ++ [l.getLastD (hhHead s) + z]) [hhHead s]
  if hhMode s == 1 || s.hh.sizes.foldl (· + ·) 0 == hhHeld s && !s.hh.sizes.isEmpty then ends.contains n
  else decide (n % 16 = 0)

/-- Sizes left once HEAD has moved forward by n bytes. -/
def dropSizes : Nat → List Nat → List Nat
  | _, [] => []
  | n, z :: zs => if z ≤ n then dropSizes (n - z) zs else z :: zs

/-- A write of a half of HEAD (R561, R571). -/
def hhHeadWrite (high : Bool) (v : Word) (s : State) : State :=
  let old := hhHead s
  let new := if high then old % 2 ^ 32 + v.toNat * 2 ^ 32 else old / 2 ^ 32 * 2 ^ 32 + v.toNat
  if hhTail s < new || !hhBoundary s new then hhRefused s
  else
    wr64 pgHh Off.HH_HEAD_LO Off.HH_HEAD_HI new
      { s with hh := { s.hh with sizes := if old ≤ new then dropSizes (new - old) s.hh.sizes else s.hh.sizes } }

/-- The bits of HH_CTX_EN_k that belong to contexts of tenants whose TDI is locked (R558). -/
def heldContexts (s : State) (k : Nat) : Word :=
  BitVec.ofNat 32 (bitMap 32 fun i => ctxExists s (32 * k + i) && tdiHeld s (ctxTenant s (32 * k + i)))

/-- A write to a register that is set while the mode is OFF, and takes only values that are allowed. -/
def hhConfig (ok : Bool) (off : Nat) (v : Word) (s : State) : State :=
  if hhMode s == 0 && ok then plainWrite pgHh off v s else hhRefused s

/-- A write to the page beyond the head. -/
def hhRegWrite (w : Func) (off : Nat) (v : Word) (s : State) : State :=
  if off = Off.HH_CTRL then hhCtrlWrite v s
  else if off = Off.HH_CFG then hhConfig (decide (20 ≤ fieldOf v 8 6) && decide (fieldOf v 8 6 ≤ 34)) off v s
  else if off = Off.HH_BASE_LO then hhConfig (v.toNat % 4096 == 0) off v s
  else if off = Off.HH_BASE_HI then hhConfig true off v s
  else if off = Off.HH_TAIL_LO ∨ off = Off.HH_TAIL_HI then (if hhMode s = 1 then s else plainWrite pgHh off v s)
  else if off = Off.HH_HEAD_LO then hhHeadWrite false v s
  else if off = Off.HH_HEAD_HI then hhHeadWrite true v s
  else if inRun off Off.HH_CAM 32 then hhConfig (fieldOf v 0 2 != 3 && fieldOf v 2 2 != 0) off v s
  else if inRun off Off.HH_OUT 16 then hhConfig true off v s
  else if off = Off.HH_MARK then hhMark w (fieldOf v 0 10) s
  else if inRun off Off.HH_CTX_EN 32 then
    plainWrite pgHh off (v &&& ~~~ heldContexts s ((off - Off.HH_CTX_EN) / 4)) s
  else plainWrite pgHh off v s

end Sys2Proof.Machine
end

