-- ==== Sys2Proof/Machine/RegisterWrite.lean ====
section
/-! DEFINITION. A write of any register, by the address it goes to (R11–R13, R67–R72): each page's registers beyond the head as their
chapter says, the head as Head.lean says, doorbells. -/
namespace Sys2Proof.Machine

/-! ## The power page (R123, R135, R148, R589) -/

/-- May PWR_RAISE_SEL name a pair (R18, R135)? -/
def raiseSelOk (s : State) (cd md : Nat) : Bool :=
  let bound := (modelDecks s).filter fun k => (boundTo s k.slot).any fun c => ctxState s c == 3
  raisePairOk s cd md && bound.all fun k =>
    let p := placementOf k.bytes
    !raiseDeck p || (numAt p 0x12 1 == cd && numAt p 0x13 1 == md)

/-- Does a tile hold a section of an installed model deck (R123)? -/
def tileUsed (s : State) (t : Nat) : Bool :=
  (modelDecks s).any fun k => (deckSects k.bytes).any fun x => decide (0x20 ≤ x.type) && decide (x.type ≤ 0x23) && x.target == t

/-- A write that the power page refuses is counted. -/
def pwrRefused (s : State) : State := refuse pgPower Off.PWR_CNT_CFG_REFUSED s

/-- A write to the power page beyond the head. -/
def pwrRegWrite (w : Func) (off : Nat) (v : Word) (s : State) : State :=
  if off = Off.PWR_CMD then pwrCmdWrite w v s
  else if off = Off.PWR_WAKE_REQ then wakeReq v s
  else if off = Off.PWR_WAKE_MAP then (if (List.range 7).any fun i => decide (5 ≤ fieldOf v (3 * i) 3) then pwrRefused s else plainWrite pgPower off v s)
  else if off = Off.PWR_GRANT then (if w = .mgmt then pwrRefused s else plainWrite pgPower off v s)
  else if off = Off.PWR_RAISE_SEL then (if raiseSelOk s (fieldOf v 0 2) (fieldOf v 2 1) then plainWrite pgPower off v s else pwrRefused s)
  else if inRun off Off.PWR_TILE_RET 2 then
    let k := (off - Off.PWR_TILE_RET) / 4
    if (List.range 32).any fun n => flag s pgPower off n && !bitOf v n && tileUsed s (32 * k + n) then pwrRefused s else plainWrite pgPower off v s
  else if off = Off.PWR_THERM_CFG then thermCfgWrite v s
  else if off = Off.PWR_LIMIT then powerLimitWrite v s
  else if off = Off.AON_REG_MANUAL then regUpdate (plainWrite pgPower off v s)
  else plainWrite pgPower off v s

/-! ## Every page -/

/-- A write to a page's register, admitted by the access path. `list` is what PF host memory holds at the scatter list that a DECK_DMA
names (R114). -/
def regWrite (w : Func) (p : Page) (off : Nat) (v : Word) (list : List Byte) (s : State) : State :=
  let vf := match w with
    | .vf _ => true
    | _ => false
  if off < 0x80 then (if vf && !vfHead off then s else headWrite w p off v s)
  else if off < 0x100 then s
  else match p.cls with
    | .tableTime =>
      if off = Off.TT_CTRL then ttCtrl w (bitOf v 0) (bitOf v 1) (bitOf v 2) s
      else if off = Off.TT_RATE_ADJ then ttRate v s
      else plainWrite p off v s
    | .power => pwrRegWrite w off v s
    | .mailbox => mbRegWrite w off v list s
    | .faultCollector => fcRegWrite w off v s
    | .handHistory => hhRegWrite w off v s
    | .fabric => fabRegWrite w p.idx off v s
    | .csi => csiRegWrite p.idx off v s
    | .isp => ispRegWrite p.idx off v s
    | .pdmIn => ainRegWrite p.idx off v s
    | .beamformer => bfRegWrite p.idx off v s
    | .ring => ringRegWrite off v s
    | .voiceOut => voRegWrite p.idx off v s
    | .callEngine => ceRegWrite off v s
    | .matrix => mxRegWrite w p.idx off v s
    | .vector => veRegWrite p.idx off v s
    | .stateUnit => suRegWrite p.idx off v s
    | .streamPort => tspRegWrite w p.idx off v s
    | .mesh => meshRegWrite p.idx off v s
    | .stem => stemRegWrite w p.idx off v s
    | .kitty => kittyRegWrite w p.idx off v s
    | .queueEngine => qeRegWrite w p.idx off v s
    | .memEnc => memencRegWrite w p.idx off v s
    | .context => ctxRegWrite w p.idx off v s
    | .identity => s
    | .pcie => plainWrite p off v s
    | .mgmtCores => plainWrite p off v s
    | .lowSpeed => plainWrite p off v s
    | .dieLink => plainWrite p off v s
    | .hbm => plainWrite p off v s
    | .meld => plainWrite p off v s

/-- The context of a VF's slot (R71, R450). -/
def slotCtx (s : State) (n k : Nat) : Option Nat :=
  (s.host.ctxs.find? fun e => fieldOf e.2.cfg 0 4 == n && fieldOf e.2.cfg 4 8 == k).map (·.1)

/-- The PF BAR0 address that an address of a function's BAR0 stands for (R70); none for a reserved range or a slot without a context. -/
def pfAddr (s : State) (w : Func) (a : Nat) : Option Nat :=
  match w with
  | .vf n =>
    if a < 0x1000 then some a
    else if 0x00200000 ≤ a ∧ a < 0x00300000 then (slotCtx s n ((a - 0x00200000) / 0x1000)).map fun c => 0x02000000 + 0x1000 * c + a % 0x1000
    else if 0x00400000 ≤ a ∧ a < 0x00800000 then (slotCtx s n ((a - 0x00400000) / 0x4000)).map fun c => 0x01000000 + 0x4000 * c + a % 0x4000
    else none
  | _ => some a

/-- An access error at an address of a function that names no page: as `accessError`, but of no block (R90). The address of a VF's
reserved range is its own BAR0 offset, since it stands for no address of the PF's (DESIGN CHOICE, log 63). -/
def strayError (kind : Nat) (w : Func) (a : Nat) (s : State) : State :=
  s |> bump pgFc Off.FC_CNT_ACCESS 1
    |> formRec (mkRec 1 kind 1 0xFF (funcTenant w) (if w = .mgmt then 78 else 72) 0xFFFF a (funcCode w))

/-- Apply k to an access that the endpoint takes; r is what waits for the link (R137). -/
def linked (w : Func) (r : HostReq) (k : State → State) (s : State) : State :=
  match senderLink s w with
  | .unsupported => emit (.unsupported w) s
  | .waits => hold r s
  | .unsent => s
  | _ => k s

/-- An access of BAR0 that is not one aligned word (R13). -/
def misaligned (w : Func) (write : Bool) (a : Nat) (s : State) : State :=
  let s := match pfAddr s w a with
    | some b => accessError 1 w b s
    | none => strayError 1 w a s
  if write then s else emit (.readData w a 0) s

/-- MISALIGNED_ACCESS: an access of BAR0 that is no aligned word, pair of words or doorbell. A write is discarded and a read answers zeros;
both are recorded, where the function may make the access. -/
def execMisalignedAccess (w : Func) (write : Bool) (a : Nat) (s : State) : State :=
  linked w (.misaligned w write a) (misaligned w write a) s

/-- A write of an aligned word at an address of the writer's BAR0. -/
def wordWrite (w : Func) (a : Nat) (v : Word) (list : List Byte) (s : State) : State :=
  match pfAddr s w a with
  | none => linked w (.stray w a) (strayError 2 w a) s
  | some b =>
    if 0x02000000 ≤ b ∧ b < 0x02400000 then doorbellWrite w ((b - 0x02000000) / 16) (b / 4 % 4) v s
    else match pageOf b with
      | none => linked w (.stray w b) (strayError 2 w b) s
      | some (p, off) =>
        accessWith (if p.cls = .mailbox ∧ off = Off.MB_CMD then list else []) w p off v (regWrite w p off v list) s

/-- Does an address of a function's BAR0 lie among the doorbells? -/
def inDoorbells (s : State) (w : Func) (a : Nat) : Bool :=
  (pfAddr s w a).any fun b => decide (0x02000000 ≤ b) && decide (b < 0x02400000)

/-- Is a write of n aligned words one that BAR0 takes: one word, two at a multiple of 8, or the four of a doorbell (R13, R416)? -/
def widthOk (s : State) (w : Func) (a n : Nat) : Bool :=
  (n == 1 && a % 4 == 0) || (n == 2 && a % 8 == 0) || (n == 4 && a % 16 == 0 && inDoorbells s w a)

/-- Words written from an address upward, the lowest first. -/
def wordsWrite (w : Func) (list : List Byte) : List Word → Nat → State → State
  | [], _, s => s
  | v :: vs, a, s => wordsWrite w list vs (a + 4) (wordWrite w a v list s)

/-- REGISTER_WRITE: a write of one word, or of the words that a wider access brings, lower address first, in the order sent (R13, R72,
R416). -/
def execRegisterWrite (w : Func) (a : Nat) (vs : List Word) (list : List Byte) (s : State) : State :=
  if widthOk s w a vs.length then wordsWrite w list vs a s else execMisalignedAccess w true a s

/-- A request that waited for the link goes on (R137). -/
def resumeReq (s : State) (r : HostReq) : State :=
  match r with
  | .page w p off v list =>
    accessWith list w p off v (regWrite w p off v list) s
  | .read w p off =>
    if p.cls = .tableTime ∧ off = Off.TT_NOW_LO then execTtNowRead w s
    else if p.cls = .csi then execVcErrRead w p.idx ((off - Off.CSI_VC_ERR) / 4) s
    else if p.cls = .isp ∧ off = Off.ISP_TBL_DATA then execIspTblDataAccess w p.idx none s
    else if p.cls = .isp ∧ off = Off.ISP_XTBL_DATA then execIspXtblDataAccess w p.idx none s
    else readAccess w p off (fun s => (readReg s w p off, s)) s
  | .doorbell w q k v => doorbellWrite w q k v s
  | .stray w a => linked w r (strayError 2 w a) s
  | .misaligned w write a => execMisalignedAccess w write a s
  | .staging off data => execStagingWrite off data s
  | .mask fn vector on => execMsixUnmask fn vector on s
  | .config x => execConfigurationRequest x s

/-- Requests that waited in L1.2 complete once Call is reached, in their order (R137). -/
def resumeReqs (s : State) : State :=
  if hostLink s .pf = .waits then s
  else s.host.waiting.foldl resumeReq { s with host := { s.host with waiting := [] } }

/-- What a function reads from an aligned word of its BAR0 (R67, R71, R91, R418). -/
def readWord (s : State) (w : Func) (a : Nat) : Nat :=
  match pfAddr s w a with
  | none => 0
  | some b =>
    if 0x02000000 ≤ b ∧ b < 0x02400000 then doorbellRead s w ((b - 0x02000000) / 16) (b / 4 % 4)
    else ((pageOf b).map fun p => readReg s w p.1 p.2).getD 0

end Sys2Proof.Machine
end

