-- ==== Sys2Proof/Machine/Replay.lean ====
section
/-! DEFINITION. Replay: the recorder reads records from HEAD and injects each input into its island in the beat of its TT (R569, R570). -/
namespace Sys2Proof.Machine

/-! ## Reading the ring (R559, R561) -/

/-- n bytes of the ring at a byte count. `host` is what PF host memory holds from HEAD on, for a ring there. -/
def ringRead (s : State) (host : List Byte) (pos n : Nat) : List Byte :=
  if flag s pgHh Off.HH_CFG 0 then ((host.drop (pos - hhHead s)) ++ List.replicate n 0).take n
  else
    let a := rd64 s pgHh Off.HH_BASE_LO Off.HH_BASE_HI + pos % hhRing s
    if ringOpen s a n then memRead s a n else List.replicate n 0

/-- A position past the zero-filled stretch that may stand there. -/
def skipStretch (s : State) (host : List Byte) (pos : Nat) : Nat :=
  if pos < hhTail s ∧ numAt (ringRead s host pos 16) 8 1 = 0 then (pos / hhRing s + 1) * hhRing s else pos

/-- The record at a position: its header fields, its payload, and the position after it. -/
def recordAt (s : State) (host : List Byte) (pos : Nat) : HistRec × Nat :=
  let h := ringRead s host pos 16
  let r : HistRec :=
    { tt := numAt h 0 8, kind := numAt h 8 1, flags := numAt h 9 1, island := numAt h 0xC 1, unit := numAt h 0xD 1
      payload := (ringRead s host pos (16 + numAt h 0xA 2)).drop 16 }
  (r, pos + histSize r)

/-- The records that continue an item (R559): its whole payload, and the position after it. -/
def itemRest (s : State) (host : List Byte) (r : HistRec) : Nat → Nat → List Byte × Nat
  | 0, pos => (r.payload, pos)
  | n + 1, pos =>
    let at_ := skipStretch s host pos
    if hhTail s ≤ at_ then (r.payload, pos)
    else
      let e := recordAt s host at_
      if e.1.kind = r.kind ∧ e.1.unit = r.unit ∧ bitAt e.1.flags 0 then
        if bitAt e.1.flags 2 then (r.payload ++ e.1.payload, e.2)
        else itemRest s host { r with payload := r.payload ++ e.1.payload } n e.2
      else (r.payload, pos)

/-! ## Injection by kind -/

/-- The function that a recorded FUNC names. -/
def funcOf (n : Nat) : Func := if n = 0 then .pf else if n < 16 then .vf n else if n = 0x10 then .mgmt else .rot

/-- REG_WRITE: the write as it reached its page. -/
def injectWrite (b : List Byte) (s : State) : State :=
  let w := funcOf (numAt b 8 1)
  match pageOf (numAt b 0 4) with
  | none => s
  | some (p, off) =>
    let v : Word := BitVec.ofNat 32 (numAt b 4 4)
    if !pagePresent s.part p || !(if keeperReg p off then domOn s 0 else pageOn s p) then s
    else if fenced s p && !fenceAdmits off && off ≠ Off.CTRL then accessError 0xD w (pageBase p + off) s
    else if expertBars s p off then accessError 3 w (pageBase p + off) s
    else regWrite w p off v [] s

/-- DOORBELL: the latched words, then word 3. -/
def injectDoorbell (b : List Byte) (s : State) : State :=
  let q := numAt b 0 4 % 2 ^ 18
  updQueue q (fun r => { r with db := [numAt b 8 4, numAt b 12 4, numAt b 16 4] }) s
    |> doorbellWord (funcOf (numAt b 4 1)) q 3 (BitVec.ofNat 32 (numAt b 20 4))

/-- A transfer that waits for its data gets it. -/
def feed (q : Nat) (x : Xfer) (bs : List Byte) (s : State) : State :=
  if poolXfer s q x then execPoolFill q x.id (.bytes bs) s else execTransferComplete q x.id (.bytes bs) s

/-- HOST_READ: the oldest transfer of the queue that waits for host memory at the address. -/
def injectHostRead (b : List Byte) (s : State) : State :=
  let q := numAt b 8 4 % 2 ^ 18
  match (queueOf s q).flight.find? fun x => (descOf x.desc).space == 1 && !x.sent && x.addr == numAt b 0 8 with
  | some x => feed q x (b.drop 16) s
  | none => s

/-- AUDIO: the oldest transfer of the engine's queues that waits for the release port. -/
def injectAudio (island : Nat) (b : List Byte) (s : State) : State :=
  let waits (e : Nat × Queue) : Option (Nat × Xfer) :=
    if 68 + queueMd s e.1 = island then
      (e.2.flight.find? fun x => (descOf x.desc).space == 2 && !x.sent).map fun x => (e.1, x)
    else none
  match s.queues.findSome? waits with
  | some e => feed e.1 e.2 b s
  | none => s

/-- MEM_IN: the decoded tile of a slot. -/
def injectMem (b : List Byte) (s : State) : State :=
  let h : Home := ⟨none, numAt b 0 8⟩
  slotWrite h (b.drop 16) s |> dropLines (mdOf s h) (fun l => l.home == h && !l.locked)

/-- CSI_LINE: a line of a slot's frame; where lines are missing before it, as in a reduced recording, pad lines stand. -/
def injectLine (unit : Nat) (b : List Byte) (s : State) : State :=
  let r := unit / 4
  let k := unit % 4
  let line := numAt b 2 2
  match (csiSlot s r k).frame with
  | none => s
  | some f =>
    let dt := cfgDt f.cfg
    (csiPad r k line f.height s).2
      |> csiDeliver r k line (fitLine dt (cfgPad f.cfg) f.width (unpackLine dt (b.drop 8)))
      |> updFrameOf r k (fun f => { f with next := line + 1 })

/-- CSI_FRAME: the slot's open frame closes with the descriptor's counts, or a frame opens. -/
def injectFrame (unit : Nat) (b : List Byte) (s : State) : State :=
  let r := unit / 4
  let k := unit % 4
  if (csiSlot s r k).frame.isSome then
    updFrameOf r k (fun f =>
      { f with linesRx := numAt b 36 2, padded := numAt b 38 2, short := numAt b 40 2, long := numAt b 42 2, eccCorr := numAt b 44 2
               crc := numAt b 46 2, flags := numAt b 48 4, cutLine := numAt b 52 2, extra := numAt b 54 2 }) s
      |> csiClose r k (numAt b 16 8)
  else
    updSlot r k (fun t => { t with seq := numAt b 32 4 }) s |> csiOpen r k (numAt b 0 2) (numAt b 8 8)
      |> updFrameOf r k (fun f => { f with fsyncTt := numAt b 24 8 })

/-- Bytes split at the lengths of the parts of a line. -/
def splitAs : List (Nat × List Byte) → List Byte → List (Nat × List Byte)
  | [], _ => []
  | e :: r, bs => (e.1, bs.take e.2.length) :: splitAs r (bs.drop e.2.length)

/-- A frame as a pipeline would latch it now, for a line that comes without one. -/
def lineFrame (s : State) (n no : Nat) : IspFrame :=
  { id := 0, opened := s.tt.beats, input := 0, port := 0, dt := 0, frameNo := no, sofTt := 0, seq := 0, width := 0, height := 0
    regs := ispLatch s n, tone := [], coef := []
    lines := [], arrived := [], next := 0, cut := none, endBeat := 0, closed := false, flags := 0, tap0 := [], tap1 := [], outs := [] }

/-- ISP_OUT_LINE: the line enters the output's buffer, of the frame that its pipeline holds, or of one that begins with line 0. -/
def injectOutLine (unit : Nat) (b : List Byte) (s : State) : State :=
  let n := unit / 8
  let o := unit % 8
  let no := numAt b 0 2
  let line := numAt b 2 2
  let st := ispOf s n
  let hit := st.frames.findSome? fun f => if f.frameNo = no then (f.outs.find? fun q => q.out == o).map fun q => (f, q.id) else none
  let f := (hit.map (·.1)).getD (lineFrame s n no)
  let count := sget 0 st.outIds o
  let opens := hit.isNone && line == 0
  let id := (hit.map (·.2)).getD (if opens then count else count - 1)
  let l : OutLine :=
    { frame := id, frameNo := no, line, lost := false, segs := splitAs (fillLine s n f o line).1 (b.drop 8), taken := false
      queue := outQueue s n f o, stem := outStem s n f o }
  setIsp n { st with outBuf := sset [] st.outBuf o (sget [] st.outBuf o ++ [l])
                     outIds := if opens then sset 0 st.outIds o (count + 1) else st.outIds } s

/-- VERDICT. -/
def injectVerdict (b : List Byte) (s : State) : State :=
  let w := numAt b 0 4
  ceVerdict ⟨bitsAt w 0 4, bitsAt w 4 8, bitsAt w 12 4, numAt b 4 4⟩ s

/-- CLOCK: the effective clock of a tile or a network. -/
def injectClock (b : List Byte) (s : State) : State :=
  match pageOf (numAt b 0 4) with
  | some (⟨.matrix, t⟩, _) => clockSet false t (numAt b 4 1) (numAt b 5 1 == 1) s
  | some (⟨.mesh, d⟩, _) => clockSet true d (numAt b 4 1) (numAt b 5 1 == 1) s
  | _ => s

/-- TT_CHANGE: a load or step that its recorded register write has not brought already, or a rate. -/
def injectTime (b : List Byte) (s : State) : State :=
  let v := numAt b 8 8
  let want (isLoad : Bool) : State :=
    if s.tt.pend.contains (isLoad, v) then s else { s with tt := { s.tt with pend := s.tt.pend ++ [(isLoad, v)] } }
  match numAt b 0 1 with
  | 1 => want true
  | 2 => want false
  | _ => ttRate (BitVec.ofNat 32 v) s

/-- LATE_COMMIT: a message of the sender commits late at the island, after all that is due (R38, R567). -/
def injectLate (island : Nat) (b : List Byte) (s : State) : State :=
  let f := fresh s
  let t := commitMsg ⟨numAt b 0 1, island, afterAllDue, .tag f.1, true⟩ f.2
  { t with tt := { t.tt with latched := true } } |> raise pgTT Evt.TT_LATE_COMMIT |> bump pgTT Off.TT_CNT_LATE_COMMIT 1

/-- RELAX: the mask. -/
def injectRelax (b : List Byte) (s : State) : State :=
  (List.range 4).foldl (fun s k => wr pgTT (Off.TT_RELAX + 4 * k) (BitVec.ofNat 32 (numAt b (4 * k) 4)) s) s |> applyRelax

/-- TABLE_FRAME: the frame that committed, by its TYPE. -/
def injectTable (b : List Byte) (s : State) : State :=
  let header := b.take 32
  let payload := b.drop 32
  let f : Frame :=
    { port := 0, mac := 0, pause := false, fcsOk := true, icvOk := true
      slot := frameSlot s (if isFetch (numAt header 1 1) then numAt payload 8 1 else 0), header, payload }
  match frameType f with
  | 0x01 => execHello f s
  | 0x02 => execLeave f s
  | 0x10 => execBid f s
  | 0x11 => execAward f s
  | 0x20 => execFetchReq f s
  | 0x21 => execFetchData f s
  | 0x22 => execFetchErr f s
  | 0x30 => execLendReq f s
  | 0x31 => execLendOffer f s
  | 0x32 => execLendAccept f s
  | 0x33 => execLendData f s
  | 0x34 => execLendEnd f s
  | 0x40 => execService f s
  | _ => s

/-- OUTPUT_DIGEST: compared with the output it covers, or kept until that is made (R570). -/
def injectDigest (tt : Nat) (b : List Byte) (s : State) : State :=
  let d : Digest := { kind := numAt b 0 1, unit := numAt b 4 4, len := numAt b 8 4, crc := numAt b 12 4, tt }
  let same (m : Digest) : Bool := m.kind == d.kind && m.unit == d.unit
  match s.hh.made.find? same with
  | some m =>
    let s := { s with hh := { s.hh with made := s.hh.made.eraseP same } }
    if m.len = d.len ∧ m.crc = d.crc then s else diverge tt s
  | none => { s with hh := { s.hh with expect := s.hh.expect ++ [d] } }

/-- BUTTONS: the positions of an island's arbiters. -/
def injectButtons (island : Nat) (b : List Byte) (s : State) : State :=
  let set (p : Page) : State := { s with head := { s.head with buttons := sput s.head.buttons (pageBase p) (numAt b 0 2) } }
  if b.isEmpty then s
  else if island = 75 then set ⟨.isp, 0⟩
  else if island = 81 then set ⟨.isp, 1⟩
  else if island = 68 ∨ island = 69 then set ⟨.queueEngine, island - 68⟩
  else if island = 73 then setFld (pgFab 0) Off.TBL_STATUS 12 9 (numAt b 0 2) { s with tbl := { s.tbl with lendButton := numAt b 2 2 } }
  else s

/-- An input is injected. Marks (CTX_CHECKPOINT, PAUSE, RESUME) are no input. -/
def inject (r : HistRec) (s : State) : State :=
  let b := r.payload
  match r.kind with
  | 0x01 => checkpointBegin s
  | 0x02 => injectButtons r.island b s
  | 0x10 => injectWrite b s
  | 0x11 => injectDoorbell b s
  | 0x12 => injectHostRead b s
  | 0x13 => injectMem b s
  | 0x20 => injectLine r.unit b s
  | 0x21 => injectFrame r.unit b s
  | 0x22 => injectOutLine r.unit b s
  | 0x23 => injectAudio r.island b s
  | 0x24 => injectVerdict b s
  | 0x30 => { s with hh := { s.hh with draws := s.hh.draws ++ [(r.island, numAt b 0 4)] } }
  | 0x31 => injectClock b s
  | 0x32 => injectTime b s
  | 0x33 => injectLate r.island b s
  | 0x34 => injectRelax b s
  | 0x40 => injectTable b s
  | 0x50 => injectDigest r.tt b s
  | _ => s

/-! ## The commands -/

/-- Does replay stop at a position: at TAIL, or at a GAP? -/
def replayStops (s : State) (host : List Byte) (pos : Nat) : Bool :=
  decide (hhTail s ≤ pos) || numAt (ringRead s host pos 16) 8 1 == 4

/-- REPLAY_INJECT: the record at HEAD, with those that continue its item, is injected when its beat has come. -/
def execReplayInject (host : List Byte) (s : State) : State :=
  let pos := skipStretch s host (hhHead s)
  let e := recordAt s host pos
  if hhMode s ≠ 2 ∨ !domOn s 3 ∨ replayStops s host pos ∨ 64 * beatNo s < e.1.tt then s
  else
    let item := itemRest s host e.1 4096 e.2
    let a := rd64 s pgHh Off.HH_BASE_LO Off.HH_BASE_HI + pos % hhRing s
    let s := if flag s pgHh Off.HH_CFG 0 || ringOpen s a 16 then s else ringDenied s
    let t := inject { e.1 with payload := item.1 } { s with hh := { s.hh with injecting := true } }
    { t with hh := { t.hh with injecting := false } } |> wr64 pgHh Off.HH_HEAD_LO Off.HH_HEAD_HI item.2

/-- REPLAY_DONE: replay has reached a GAP or TAIL. -/
def execReplayDone (host : List Byte) (s : State) : State :=
  if hhMode s ≠ 2 ∨ !domOn s 3 ∨ !replayStops s host (skipStretch s host (hhHead s)) then s
  else s |> raise pgHh Evt.HH_REPLAY_DONE |> setFld pgHh Off.HH_CTRL 0 2 0

end Sys2Proof.Machine
end

