-- ==== Sys2Proof/Machine/Beat.lean ====
section
/-! DEFINITION. The beat: what the end of a beat signals, records and counts, the boundary where Table Time moves on, and what the next beat
begins with (R31, R60, R62, R63, R78, R89, R102, R538, R560, R598). -/
namespace Sys2Proof.Machine

/-! ## The end of a beat -/

/-- TILE_CNT_BANK_STALL (R236). Which accesses of a beat meet at a bank in one clock the spec gives no rule for: where two ports may have met,
the count of the clocks lost is a free value (log 32). -/
def bankStalls (t : Nat) (s : State) : State :=
  if portClash (tileOf s t).ports then
    let f := fresh s
    bump (pgMx t) Off.TILE_CNT_BANK_STALL (f.1 % 2 ^ 32) f.2
  else s

/-- NOC_CNT_STALL_C0 to C3 (R263). Where more than one flit was on a die's mesh in the beat, the clocks in which flits of a class waited for
buffer space are free values (log 32). -/
def meshStalls (d : Nat) (s : State) : State :=
  if sget 0 s.head.counts (pageBase (pgMesh d) + Off.NOC_CNT_FLITS) < 2 then s
  else (List.range 4).foldl (fun s c =>
    let f := fresh s
    bump (pgMesh d) (Off.NOC_CNT_STALL_C0 + 4 * c) (f.1 % 2 ^ 32) f.2) s

/-- The units of a tile that were active, or waited, in the beat are counted (R248, R260, R261, R293, R314). -/
def tileBeat (t : Nat) (s : State) : State :=
  let x := tileOf s t
  let halo := x.waits.any fun w => match w with
    | .counter .. => true
    | .window .. => true
    | _ => false
  let zero := (waitingSegs x).any fun n => x.segs.any fun e => e.1 == n && e.2.zeroing
  let count (b : Bool) (p : Page) (off : Nat) (s : State) : State := if b then bump p off 1 s else s
  s |> count (x.active.contains 0) (pgMx t) Off.TILE_CNT_ARRAY_BEATS
    |> count halo (pgMx t) Off.TILE_CNT_HALO_STALL_BEATS
    |> count (x.active.contains 1) (pgVe t) Off.VE_CNT_BEATS
    |> count (x.active.contains 2 || !(waitingSegs x).isEmpty) (pgSu t) Off.SU_CNT_BUSY_BEATS
    |> count zero (pgSu t) Off.SU_CNT_ZERO_WAIT_BEATS
    |> bankStalls t |> updTile t (fun x => { x with active := [], ports := [] })

/-- A running job is counted; an output row of a pipeline job that is not written waits for a line, since its rows run as soon as they can (R343). -/
def stemBeat (d : Nat) (s : State) : State :=
  match (stemOf s d).job with
  | none => s
  | some j =>
    let s := bump (pgStem d) Off.STEM_CNT_BUSY_BEATS 1 s
    if j.launch.src = 0 ∨ rowsLeft j.win j = 0 then s else bump (pgStem d) Off.STEM_CNT_LINE_WAIT_BEATS 1 s

/-- An engine whose C3 transfers hold QE_C3_MAX slots is counted (R439). -/
def engineBeat (n : Nat) (s : State) : State :=
  if pageOn s (pgQe n) && decide (fld s (pgQe n) Off.QE_C3_MAX 0 13 ≤ c3Used s n) then bump (pgQe n) Off.QE_CNT_C3_BEATS 1 s else s

/-- A beat in which a pipeline's slice runs is counted (R208, R224). -/
def sliceBeat (n : Nat) (s : State) : State :=
  match (ispOf s n).slice with
  | some (_, start, len) => if s.tt.beats < start + len then bump (pgIsp n) Off.ISP_CNT_BUSY_BEATS 1 s else s
  | none => s

/-- Every busy counter. -/
def countBeat (s : State) : State :=
  let s := (List.range 2).foldl (fun s n => sliceBeat n s) s
  let s := (s.tiles.map (·.1)).foldl (fun s t => tileBeat t s) s
  let s := (List.range 4).foldl (fun s d => meshStalls d (stemBeat d s)) s
  (List.range s.part.stackCount).foldl (fun s n => engineBeat n s) s

/-- Loads and steps that the boundary applies are inputs of the beat that ends (R557). -/
def recordTime (s : State) : State :=
  s.tt.pend.foldl (fun s e => hhCapture 0x32 72 0 (leBytes 1 (if e.1 then 1 else 2) ++ leBytes 7 0 ++ leBytes 8 e.2) s) s

/-- What a message does at its receiver. -/
def applyMsg (s : State) (c : Commit) : State :=
  match c.payload with
  | .tag _ => s
  | .write w a v => wordWrite w a v [] s

/-- The messages that committed in the beat are applied, in the order of R37, R38 and R63. -/
def applyCommits (s : State) : State := s.tt.commits.foldl applyMsg { s with tt := { s.tt with commits := [] } }

/-- The queues that ask for a slot of a running engine are noted (R55). -/
def slotNotes (s : State) : State := (List.range s.part.stackCount).foldl (fun s n => slotNote n s) s

/-- The end of a beat: the posts and the messages that committed in it, the receivers' timeouts, counters, hand history, signals. -/
def endBeat (s : State) : State :=
  let s := s |> postsEnd |> applyCommits |> pointsEnd |> latchesEnd |> csiTimeouts |> grantsEnd |> readsEnd |> pwrAgain |> slotNotes |> countBeat |> recordTime
  let s := if domOn s 3 then hhFlush s else s
  endOfBeatSignals s

/-! ## The boundary -/

/-- The last beat of the 64-bit count begins here. -/
def lastBeat : Nat := 2 ^ 64 - 64

/-- A load or a step of Table Time at the boundary (R62, R63). Time never moves backward by a step (R30): where the sum would pass the end of
the count the spec states no result, and Table Time becomes an unstated beat from the present one on (log 59). -/
def applyChange (s : State) (e : Bool × Nat) : State :=
  if e.1 then { s with tt := { s.tt with now := e.2 % 2 ^ 64, firstDue := e.2 % 2 ^ 64 / 64 } }
  else
    let f := fresh s
    let past := decide (lastBeat < s.tt.now + e.2)
    let s := if past then f.2 else s
    let t := if past then s.tt.now + 64 * (f.1 % ((lastBeat - s.tt.now) / 64 + 1)) else s.tt.now + e.2
    { s with tt := { s.tt with now := t } }
      |> raise pgTT Evt.TT_STEP_APPLIED |> bump pgTT Off.TT_CNT_STEPS 1

/-- Table Time reaches the next multiple of 64, or after a re-alignment the first one at or above the time loaded (R60). At the end of the
64-bit count it stays in the last beat (R30; log 59). -/
def advanceTime (s : State) : State :=
  let t := Nat.min (if s.tt.realigned then ceilDiv s.tt.now 64 * 64 else (s.tt.now / 64 + 1) * 64) lastBeat
  let old := beatNo s
  let s := { s with
    tt := { s.tt with now := t, beats := s.tt.beats + 1, realigned := false, firstDue := t / 64, commits := [] }
    head := { s.head with sets := [], counts := [], asks := [] } }
  let s := s.tt.pend.foldl applyChange { s with tt := { s.tt with pend := [] } }
  if beatNo s = old + 1 then s else { s with tt := { s.tt with jump := some (s.tt.beats, old) } }

/-! ## The start of a beat -/

/-- Accepted soft resets take effect (R78); where a fence has begun, its reset takes their place. -/
def softResets (s : State) : State :=
  let bases := s.head.resetting
  bases.foldl (fun s b =>
    match pageOf b with
    | some (p, _) => if phaseOf s (pageDomain p) == 0 || phaseOf s (pageDomain p) == 5 then softReset p s else s
    | none => s) { s with head := { s.head with resetting := [] } }

/-- Fences that began in the beat before drain from now on (R538). -/
def fencesDrain (s : State) : State :=
  ((s.fc.fences.map (·.1)).filter fun d => phaseOf s d == 1).foldl (fun s d => drainStart d s) s

/-- The management cores apply the register-initialisation list, in its order (R102). -/
def applyRegInit (s : State) : State :=
  if !pageOn s ⟨.mgmtCores, 0⟩ then s
  else
    let one (s : State) (e : Nat × Nat × Nat) : State :=
      let old := ((pageOf e.1).map fun p => readReg s .mgmt p.1 p.2).getD 0
      let m : Word := BitVec.ofNat 32 e.2.2
      wordWrite .mgmt e.1 ((BitVec.ofNat 32 old &&& ~~~ m) ||| (BitVec.ofNat 32 e.2.1 &&& m)) [] s
    s.boot.regInit.foldl one { s with boot := { s.boot with regInit := [] } }

/-- The first beat after re-alignment is recorded where the recorder records (R557); where Ante took its power its registers have started
from reset (R91, log 55). -/
def resumeRecord (s : State) : State :=
  if flag s pgHh Off.HH_STATUS 2 && domOn s 3 then hhCapture 6 72 0 [] s |> setFlag pgHh Off.HH_STATUS 2 false else s

/-- The start of a beat. -/
def startBeat (s : State) : State :=
  s |> applyRelax |> switchTick |> softResets |> fencesDrain |> dealsDue |> mbPost |> bidsCommit |> applyRegInit |> resumeRecord |> regUpdate
    |> clockFalls |> linksLost |> hostSends
    |> regionsAgain |> settleQueues (fun _ => true) |> flushHolds |> resumeReqs

/-- BEAT: a beat pulse, while the beat runs. -/
def execBeat (s : State) : State := if s.tt.run then s |> endBeat |> advanceTime |> startBeat else s

end Sys2Proof.Machine
end

