-- ==== Sys2Proof/Machine/Meanings.lean ====
section
/-! DEFINITION. The meaning of each command as an outcome. No command of the block faults or is refused: each has an effect in every state,
and one whose condition does not hold leaves the state as it is (log 1). What the effect is stands in the family files. -/
namespace Sys2Proof.Machine

def doWholeDeviceReset (powerOn : Bool) (s : State) : Host.Outcome State Fault Refusal := .next (execWholeDeviceReset powerOn s)
def doPowerGoodRise (r : Rail) (s : State) : Host.Outcome State Fault Refusal := .next (execPowerGoodRise r s)
def doPerstDeassert (s : State) : Host.Outcome State Fault Refusal := .next (execPerstDeassert s)
def doLinkTrained (width speed : Nat) (laneFail : Bool) (s : State) : Host.Outcome State Fault Refusal :=
  .next (execLinkTrained width speed laneFail s)
def doPowerGoodFailure (r : Rail) (s : State) : Host.Outcome State Fault Refusal := .next (execPowerGoodFailure r s)
def doDiesReady (s : State) : Host.Outcome State Fault Refusal := .next (execDiesReady s)
def doServiceReady (s : State) : Host.Outcome State Fault Refusal := .next (execServiceReady s)
def doDeckBegin (w : Func) (s : State) : Host.Outcome State Fault Refusal := .next (execDeckBegin w s)
def doStagingWrite (off : Nat) (data : List Byte) (s : State) : Host.Outcome State Fault Refusal := .next (execStagingWrite off data s)
def doDeckChunk (w : Func) (h : Nat) (s : State) : Host.Outcome State Fault Refusal := .next (execDeckChunk w h s)
def doDeckDma (w : Func) (h : Nat) (list : List Byte) (s : State) : Host.Outcome State Fault Refusal := .next (execDeckDma w h list s)
def doDeckDmaCompletion (h : Nat) (ans : Option HostData) (s : State) : Host.Outcome State Fault Refusal := .next (execDeckDmaCompletion h ans s)
def doDeckFinish (w : Func) (h : Nat) (s : State) : Host.Outcome State Fault Refusal := .next (execDeckFinish w h s)
def doDeckAbort (w : Func) (h : Nat) (s : State) : Host.Outcome State Fault Refusal := .next (execDeckAbort w h s)
def doSvnCommit (w : Func) (s : State) : Host.Outcome State Fault Refusal := .next (execSvnCommit w s)
def doModelUnload (w : Func) (s : State) : Host.Outcome State Fault Refusal := .next (execModelUnload w s)
def doRestoreDone (s : State) : Host.Outcome State Fault Refusal := .next (execRestoreDone s)
def doBeat (s : State) : Host.Outcome State Fault Refusal := .next (execBeat s)
def doCrossingCommit (src dst stamp : Nat) (payload : Payload) (s : State) : Host.Outcome State Fault Refusal :=
  .next (execCrossingCommit src dst stamp payload s)
def doLateCommit (src dst stamp : Nat) (payload : Payload) (s : State) : Host.Outcome State Fault Refusal :=
  .next (execLateCommit src dst stamp payload s)
def doRtcEdge (s : State) : Host.Outcome State Fault Refusal := .next (execRtcEdge s)
def doRtcMeasurement (ticks : Nat) (s : State) : Host.Outcome State Fault Refusal := .next (execRtcMeasurement ticks s)
def doAnteRealign (s : State) : Host.Outcome State Fault Refusal := .next (execAnteRealign s)
def doLoad (w : Func) (disciplined : Bool) (s : State) : Host.Outcome State Fault Refusal := .next (execLoad w disciplined s)
def doStep (w : Func) (disciplined : Bool) (s : State) : Host.Outcome State Fault Refusal := .next (execStep w disciplined s)
def doRateAdjustment (w : Func) (v : Word) (s : State) : Host.Outcome State Fault Refusal := .next (execRateAdjustment w v s)
def doTtNowRead (w : Func) (s : State) : Host.Outcome State Fault Refusal := .next (execTtNowRead w s)
def doRelaxMaskWrite (w : Func) (k : Nat) (v : Word) (s : State) : Host.Outcome State Fault Refusal := .next (execRelaxMaskWrite w k v s)
def doDealArm (w : Func) (p : Page) (latePolicy : Bool) (action period : Nat) (s : State) : Host.Outcome State Fault Refusal :=
  .next (execDealArm w p latePolicy action period s)
def doCancel (w : Func) (p : Page) (s : State) : Host.Outcome State Fault Refusal := .next (execCancel w p s)
def doDealLaunch (p : Page) (s : State) : Host.Outcome State Fault Refusal := .next (execDealLaunch p s)
def doCounterSnapshot (p : Page) (s : State) : Host.Outcome State Fault Refusal := .next (execCounterSnapshot p s)
def doEnable (w : Func) (p : Page) (on : Bool) (s : State) : Host.Outcome State Fault Refusal := .next (execEnable w p on s)
def doSoftReset (w : Func) (p : Page) (s : State) : Host.Outcome State Fault Refusal := .next (execSoftReset w p s)
def doExpert (w : Func) (p : Page) (s : State) : Host.Outcome State Fault Refusal := .next (execExpert w p s)
def doExpertClear (w : Func) (p : Page) (s : State) : Host.Outcome State Fault Refusal := .next (execExpertClear w p s)
def doCntClear (w : Func) (p : Page) (s : State) : Host.Outcome State Fault Refusal := .next (execCntClear w p s)
def doEvtRawWrite (w : Func) (p : Page) (v : Word) (s : State) : Host.Outcome State Fault Refusal := .next (execEvtRawWrite w p v s)
def doEvtForce (w : Func) (p : Page) (v : Word) (s : State) : Host.Outcome State Fault Refusal := .next (execEvtForce w p v s)
def doEvtEnWrite (w : Func) (p : Page) (v : Word) (s : State) : Host.Outcome State Fault Refusal := .next (execEvtEnWrite w p v s)
def doEvtRouteWrite (w : Func) (p : Page) (v : Word) (s : State) : Host.Outcome State Fault Refusal := .next (execEvtRouteWrite w p v s)
def doFence (w : Func) (p : Page) (drain : Nat) (s : State) : Host.Outcome State Fault Refusal := .next (execFence w p drain s)
def doRelease (w : Func) (p : Page) (drain : Nat) (s : State) : Host.Outcome State Fault Refusal := .next (execRelease w p drain s)
def doCmdTimeout (p : Page) (id : Nat) (s : State) : Host.Outcome State Fault Refusal := .next (execCmdTimeout p id s)
def doRegisterWrite (w : Func) (a : Nat) (vs : List Word) (list : List Byte) (s : State) : Host.Outcome State Fault Refusal :=
  .next (execRegisterWrite w a vs list s)
def doMisalignedAccess (w : Func) (write : Bool) (a : Nat) (s : State) : Host.Outcome State Fault Refusal := .next (execMisalignedAccess w write a s)
def doPwrCmdGo (w : Func) (target : Nat) (s : State) : Host.Outcome State Fault Refusal := .next (execPwrCmdGo w target s)
def doHoldEnd (s : State) : Host.Outcome State Fault Refusal := .next (execHoldEnd s)
def doHoldExpired (s : State) : Host.Outcome State Fault Refusal := .next (execHoldExpired s)
def doQuiesceEnd (s : State) : Host.Outcome State Fault Refusal := .next (execQuiesceEnd s)
def doQuiesceTimeout (s : State) : Host.Outcome State Fault Refusal := .next (execQuiesceTimeout s)
def doDescendStepEnd (s : State) : Host.Outcome State Fault Refusal := .next (execDescendStepEnd s)
def doWakeIn (s : State) : Host.Outcome State Fault Refusal := .next (execWakeIn s)
def doHost (s : State) : Host.Outcome State Fault Refusal := .next (execHost s)
def doHostReq (w : Func) (target : Nat) (s : State) : Host.Outcome State Fault Refusal := .next (execHostReq w target s)
def doWake (s : State) : Host.Outcome State Fault Refusal := .next (execWake s)
def doClimbStepEnd (s : State) : Host.Outcome State Fault Refusal := .next (execClimbStepEnd s)
def doDutyWindowStart (s : State) : Host.Outcome State Fault Refusal := .next (execDutyWindowStart s)
def doDutyWindowEnd (s : State) : Host.Outcome State Fault Refusal := .next (execDutyWindowEnd s)
def doBrownOutReset (s : State) : Host.Outcome State Fault Refusal := .next (execBrownOutReset s)
def doRegulatorModeSwitched (s : State) : Host.Outcome State Fault Refusal := .next (execRegulatorModeSwitched s)
def doAudioBlockEnd (g formed : Nat) (pcm : List (List Int)) (s : State) : Host.Outcome State Fault Refusal :=
  .next (execAudioBlockEnd g formed pcm s)
def doResync (g : Nat) (s : State) : Host.Outcome State Fault Refusal := .next (execResync g s)
def doResyncDone (g : Nat) (s : State) : Host.Outcome State Fault Refusal := .next (execResyncDone g s)
def doBankSwitch (g : Nat) (s : State) : Host.Outcome State Fault Refusal := .next (execBankSwitch g s)
def doSwitch (w : Func) (g : Nat) (s : State) : Host.Outcome State Fault Refusal := .next (execSwitch w g s)
def doCallEngineBlock (vs : List Verdict) (s : State) : Host.Outcome State Fault Refusal := .next (execCallEngineBlock vs s)
def doSignOff (s : State) : Host.Outcome State Fault Refusal := .next (execSignOff s)
def doCeRestart (w : Func) (s : State) : Host.Outcome State Fault Refusal := .next (execCeRestart w s)
def doModelRestarted (s : State) : Host.Outcome State Fault Refusal := .next (execModelRestarted s)
def doRingEnable (w : Func) (on : Bool) (s : State) : Host.Outcome State Fault Refusal := .next (execRingEnable w on s)
def doRelock (w : Func) (enable : Bool) (s : State) : Host.Outcome State Fault Refusal := .next (execRelock w enable s)
def doUnlockLimitExpiry (s : State) : Host.Outcome State Fault Refusal := .next (execUnlockLimitExpiry s)
def doReleasePortRead (tenant : Option Nat) (addr : Nat) (s : State) : Host.Outcome State Fault Refusal := .next (execReleasePortRead tenant addr s)
def doVoStart (port : Nat) (s : State) : Host.Outcome State Fault Refusal := .next (execVoStart port s)
def doVoStop (port : Nat) (s : State) : Host.Outcome State Fault Refusal := .next (execVoStop port s)
def doVoFrame (p t : Nat) (s : State) : Host.Outcome State Fault Refusal := .next (execVoFrame p t s)
def doHsBurst (r : Nat) (ok : Bool) (s : State) : Host.Outcome State Fault Refusal := .next (execHsBurst r ok s)
def doDeskew (r : Nat) (s : State) : Host.Outcome State Fault Refusal := .next (execDeskew r s)
def doFrameStart (r vc : Nat) (ecc : Ecc) (no sofTt : Nat) (s : State) : Host.Outcome State Fault Refusal :=
  .next (execFrameStart r vc ecc no sofTt s)
def doFrameEnd (r vc : Nat) (ecc : Ecc) (eofTt : Nat) (s : State) : Host.Outcome State Fault Refusal := .next (execFrameEnd r vc ecc eofTt s)
def doLineStart (r vc : Nat) (ecc : Ecc) (line : Nat) (s : State) : Host.Outcome State Fault Refusal := .next (execLineStart r vc ecc line s)
def doLineEnd (r vc : Nat) (ecc : Ecc) (s : State) : Host.Outcome State Fault Refusal := .next (execLineEnd r vc ecc s)
def doLongPacket (r vc dt : Nat) (ecc : Ecc) (crcOk : Bool) (payload : List Byte) (s : State) : Host.Outcome State Fault Refusal :=
  .next (execLongPacket r vc dt ecc crcOk payload s)
def doGenericShortPacket (r vc : Nat) (ecc : Ecc) (s : State) : Host.Outcome State Fault Refusal := .next (execGenericShortPacket r vc ecc s)
def doFrameTimeout (r k : Nat) (s : State) : Host.Outcome State Fault Refusal := .next (execFrameTimeout r k s)
def doFrameDescriptor (r k : Nat) (s : State) : Host.Outcome State Fault Refusal := .next (execFrameDescriptor r k s)
def doFsync (r : Nat) (s : State) : Host.Outcome State Fault Refusal := .next (execFsync r s)
def doCaptureStart (r : Nat) (s : State) : Host.Outcome State Fault Refusal := .next (execCaptureStart r s)
def doCaptureStop (r : Nat) (s : State) : Host.Outcome State Fault Refusal := .next (execCaptureStop r s)
def doVcErrRead (w : Func) (r vc : Nat) (s : State) : Host.Outcome State Fault Refusal := .next (execVcErrRead w r vc s)
def doSliceStart (n : Nat) (s : State) : Host.Outcome State Fault Refusal := .next (execSliceStart n s)
def doSliceEnd (n : Nat) (s : State) : Host.Outcome State Fault Refusal := .next (execSliceEnd n s)
def doIspTblDataAccess (w : Func) (n : Nat) (v : Option Word) (s : State) : Host.Outcome State Fault Refusal := .next (execIspTblDataAccess w n v s)
def doIspXtblDataAccess (w : Func) (n : Nat) (v : Option Word) (s : State) : Host.Outcome State Fault Refusal := .next (execIspXtblDataAccess w n v s)
def doLaunchPush (w : Func) (t : Nat) (v : Word) (s : State) : Host.Outcome State Fault Refusal := .next (execLaunchPush w t v s)
def doLaunch (t : Nat) (s : State) : Host.Outcome State Fault Refusal := .next (execLaunch t s)
def doKernelStart (t : Nat) (s : State) : Host.Outcome State Fault Refusal := .next (execKernelStart t s)
def doKernelEnd (t pc : Nat) (undefined : Bool) (s : State) : Host.Outcome State Fault Refusal := .next (execKernelEnd t pc undefined s)
def doMatrixInstruction (t : Nat) (i : Issue) (o : MatrixOp) (s : State) : Host.Outcome State Fault Refusal := .next (execMatrixInstruction t i o s)
def doVectorOperation (t : Nat) (i : Issue) (o : VectorOp) (s : State) : Host.Outcome State Fault Refusal := .next (execVectorOperation t i o s)
def doRequantise (t : Nat) (i : Issue) (o : RequantOp) (s : State) : Host.Outcome State Fault Refusal := .next (execRequantise t i o s)
def doQuantise (t : Nat) (i : Issue) (o : QuantOp) (s : State) : Host.Outcome State Fault Refusal := .next (execQuantise t i o s)
def doStateInstruction (t : Nat) (i : Issue) (o : StateOp) (s : State) : Host.Outcome State Fault Refusal := .next (execStateInstruction t i o s)
def doWindowInstruction (t : Nat) (i : Issue) (o : WindowOp) (s : State) : Host.Outcome State Fault Refusal := .next (execWindowInstruction t i o s)
def doSet (t : Nat) (i : Issue) (n v : Nat) (s : State) : Host.Outcome State Fault Refusal := .next (execSet t i n v s)
def doPost (t : Nat) (i : Issue) (u n v : Nat) (s : State) : Host.Outcome State Fault Refusal := .next (execPost t i u n v s)
def doWait (t : Nat) (i : Issue) (n v : Nat) (s : State) : Host.Outcome State Fault Refusal := .next (execWait t i n v s)
def doHaloPostCommit (t : Nat) (s : State) : Host.Outcome State Fault Refusal := .next (execHaloPostCommit t s)
def doRemoteRead (t u : Nat) (i : Issue) (walk : GenWalk) (reg : Nat) (s : State) : Host.Outcome State Fault Refusal :=
  .next (execRemoteRead t u i walk reg s)
def doRemoteWrite (t u : Nat) (i : Issue) (walk : GenWalk) (reg : Nat) (s : State) : Host.Outcome State Fault Refusal :=
  .next (execRemoteWrite t u i walk reg s)
def doClockRequest (w : Func) (noc : Bool) (k : Nat) (v : Word) (s : State) : Host.Outcome State Fault Refusal := .next (execClockRequest w noc k v s)
def doClockChange (noc : Bool) (k : Nat) (s : State) : Host.Outcome State Fault Refusal := .next (execClockChange noc k s)
def doFlitCrcFailure (die edge m nth : Nat) (s : State) : Host.Outcome State Fault Refusal := .next (execFlitCrcFailure die edge m nth s)
def doFlitDiscard (die edge : Nat) (s : State) : Host.Outcome State Fault Refusal := .next (execFlitDiscard die edge s)
def doEccError (site : EccSite) (corrected : Bool) (bits : Nat) (s : State) : Host.Outcome State Fault Refusal :=
  .next (execEccError site corrected bits s)
def doStemJobPush (w : Func) (d : Nat) (v : Word) (s : State) : Host.Outcome State Fault Refusal := .next (execStemJobPush w d v s)
def doJob (d : Nat) (s : State) : Host.Outcome State Fault Refusal := .next (execJob d s)
def doStemJobStart (d : Nat) (s : State) : Host.Outcome State Fault Refusal := .next (execStemJobStart d s)
def doStemLineCommit (n o : Nat) (s : State) : Host.Outcome State Fault Refusal := .next (execStemLineCommit n o s)
def doStemJobEnd (d : Nat) (s : State) : Host.Outcome State Fault Refusal := .next (execStemJobEnd d s)
def doSegmentAllocate (w : Func) (t : Nat) (v : Word) (s : State) : Host.Outcome State Fault Refusal := .next (execSegmentAllocate w t v s)
def doSegmentRelease (w : Func) (t : Nat) (v : Word) (s : State) : Host.Outcome State Fault Refusal := .next (execSegmentRelease w t v s)
def doZeroDone (t n : Nat) (s : State) : Host.Outcome State Fault Refusal := .next (execZeroDone t n s)
def doSuTblWrite (w : Func) (t m i : Nat) (v : Word) (s : State) : Host.Outcome State Fault Refusal := .next (execSuTblWrite w t m i v s)
def doCommit (w : Func) (t : Nat) (v : Word) (s : State) : Host.Outcome State Fault Refusal := .next (execCommit w t v s)
def doVeQpAdjWrite (w : Func) (t n : Nat) (v : Word) (s : State) : Host.Outcome State Fault Refusal := .next (execVeQpAdjWrite w t n v s)
def doKittyLookup (who : Requester) (dom : Nat) (h : Home) (s : State) : Host.Outcome State Fault Refusal := .next (execKittyLookup who dom h s)
def doKittyFillComplete (n k : Nat) (host : List Byte) (s : State) : Host.Outcome State Fault Refusal := .next (execKittyFillComplete n k host s)
def doWriteBack (t : Nat) (s : State) : Host.Outcome State Fault Refusal := .next (execWriteBack t s)
def doFlushAll (w : Func) (n : Nat) (s : State) : Host.Outcome State Fault Refusal := .next (execFlushAll w n s)
def doFlushTenant (w : Func) (n tenant : Nat) (s : State) : Host.Outcome State Fault Refusal := .next (execFlushTenant w n tenant s)
def doDiscardTenant (w : Func) (n tenant : Nat) (s : State) : Host.Outcome State Fault Refusal := .next (execDiscardTenant w n tenant s)
def doPatrolScrub (n bad : Nat) (s : State) : Host.Outcome State Fault Refusal := .next (execPatrolScrub n bad s)
def doRegionWrite (w : Func) (k : Nat) (v : Word) (s : State) : Host.Outcome State Fault Refusal := .next (execRegionWrite w k v s)
def doRegionEffect (s : State) : Host.Outcome State Fault Refusal := .next (execRegionEffect s)
def doPoolFill (q id : Nat) (ans : HostData) (s : State) : Host.Outcome State Fault Refusal := .next (execPoolFill q id ans s)
def doHoldExpiry (t : Nat) (s : State) : Host.Outcome State Fault Refusal := .next (execHoldExpiry t s)
def doWriteBackAck (t : Nat) (s : State) : Host.Outcome State Fault Refusal := .next (execWriteBackAck t s)
def doPoolFlushDone (t : Nat) (s : State) : Host.Outcome State Fault Refusal := .next (execPoolFlushDone t s)
def doUnpinContext (w : Func) (t ctx : Nat) (s : State) : Host.Outcome State Fault Refusal := .next (execUnpinContext w t ctx s)
def doUnpinAll (w : Func) (t : Nat) (s : State) : Host.Outcome State Fault Refusal := .next (execUnpinAll w t s)
def doFlush (w : Func) (t : Nat) (s : State) : Host.Outcome State Fault Refusal := .next (execFlush w t s)
def doInvalidateTenant (w : Func) (t tenant : Nat) (s : State) : Host.Outcome State Fault Refusal := .next (execInvalidateTenant w t tenant s)
def doArm (w : Func) (q listSpace : Nat) (s : State) : Host.Outcome State Fault Refusal := .next (execArm w q listSpace s)
def doAppend (w : Func) (q : Nat) (s : State) : Host.Outcome State Fault Refusal := .next (execAppend w q s)
def doRearm (w : Func) (q : Nat) (group : Bool) (s : State) : Host.Outcome State Fault Refusal := .next (execRearm w q group s)
def doResume (w : Func) (q : Nat) (s : State) : Host.Outcome State Fault Refusal := .next (execResume w q s)
def doStop (w : Func) (q : Nat) (s : State) : Host.Outcome State Fault Refusal := .next (execStop w q s)
def doTransferIssue (q : Nat) (list : List Byte) (s : State) : Host.Outcome State Fault Refusal := .next (execTransferIssue q list s)
def doTransferComplete (q id : Nat) (ans : HostData) (s : State) : Host.Outcome State Fault Refusal := .next (execTransferComplete q id ans s)
def doQueueLaunchSend (q : Nat) (s : State) : Host.Outcome State Fault Refusal := .next (execQueueLaunchSend q s)
def doEndNotification (q : Nat) (s : State) : Host.Outcome State Fault Refusal := .next (execEndNotification q s)
def doAtsTranslation (q : Nat) (granted : Bool) (s : State) : Host.Outcome State Fault Refusal := .next (execAtsTranslation q granted s)
def doPageRequestResponse (q code : Nat) (s : State) : Host.Outcome State Fault Refusal := .next (execPageRequestResponse q code s)
def doPriTimeout (q : Nat) (s : State) : Host.Outcome State Fault Refusal := .next (execPriTimeout q s)
def doPutDelivery (src : PutSource) (list : List Byte) (s : State) : Host.Outcome State Fault Refusal := .next (execPutDelivery src list s)
def doMulticastPut (q : Nat) (data list : List Byte) (s : State) : Host.Outcome State Fault Refusal := .next (execMulticastPut q data list s)
def doMulticastAck (q t : Nat) (s : State) : Host.Outcome State Fault Refusal := .next (execMulticastAck q t s)
def doFold (q : Nat) (s : State) : Host.Outcome State Fault Refusal := .next (execFold q s)
def doPfFlr (s : State) : Host.Outcome State Fault Refusal := .next (execPfFlr s)
def doVfFlr (t : Nat) (s : State) : Host.Outcome State Fault Refusal := .next (execVfFlr t s)
def doFlrTimeout (c : Nat) (s : State) : Host.Outcome State Fault Refusal := .next (execFlrTimeout c s)
def doD3hotEntry (fn : Nat) (s : State) : Host.Outcome State Fault Refusal := .next (execD3hotEntry fn s)
def doMsixUnmask (fn : Nat) (vector : Option Nat) (mask : Bool) (s : State) : Host.Outcome State Fault Refusal :=
  .next (execMsixUnmask fn vector mask s)
def doInvalidateRequest (fn : Nat) (pasid : Option Nat) (a n : Nat) (s : State) : Host.Outcome State Fault Refusal :=
  .next (execInvalidateRequest fn pasid a n s)
def doCreate (w : Func) (c : Nat) (s : State) : Host.Outcome State Fault Refusal := .next (execCreate w c s)
def doBind (w : Func) (c slot : Nat) (s : State) : Host.Outcome State Fault Refusal := .next (execBind w c slot s)
def doBindComplete (slot : Nat) (s : State) : Host.Outcome State Fault Refusal := .next (execBindComplete slot s)
def doUnbind (w : Func) (c : Nat) (s : State) : Host.Outcome State Fault Refusal := .next (execUnbind w c s)
def doDestroy (w : Func) (c : Nat) (s : State) : Host.Outcome State Fault Refusal := .next (execDestroy w c s)
def doDestroyComplete (c : Nat) (s : State) : Host.Outcome State Fault Refusal := .next (execDestroyComplete c s)
def doSvcRingEnable (w : Func) (c : Nat) (v : Word) (s : State) : Host.Outcome State Fault Refusal := .next (execSvcRingEnable w c v s)
def doH2dTailWrite (w : Func) (c : Nat) (v : Word) (s : State) : Host.Outcome State Fault Refusal := .next (execH2dTailWrite w c v s)
def doApplianceEvent (c : Nat) (cell : List Byte) (s : State) : Host.Outcome State Fault Refusal := .next (execApplianceEvent c cell s)
def doConfirm (c : Nat) (cell : List Byte) (s : State) : Host.Outcome State Fault Refusal := .next (execConfirm c cell s)
def doSay (c : Nat) (cell : List Byte) (s : State) : Host.Outcome State Fault Refusal := .next (execSay c cell s)
def doQuery (c : Nat) (cell : List Byte) (s : State) : Host.Outcome State Fault Refusal := .next (execQuery c cell s)
def doD2hHeadWrite (w : Func) (c : Nat) (v : Word) (s : State) : Host.Outcome State Fault Refusal := .next (execD2hHeadWrite w c v s)
def doIntent (t : Nat) (urgent reply : Bool) (corr id verb target confidence seat : Nat) (params : List (Nat × Nat × Nat)) (s : State) :
    Host.Outcome State Fault Refusal :=
  .next (execIntent t urgent reply corr id verb target confidence seat params s)
def doStatus (t code a0 a1 : Nat) (urgent : Bool) (s : State) : Host.Outcome State Fault Refusal := .next (execStatus t code a0 a1 urgent s)
def doEvent (code a0 a1 : Nat) (urgent : Bool) (s : State) : Host.Outcome State Fault Refusal := .next (execEvent code a0 a1 urgent s)
def doDoeDiscovery (fn : Nat) (s : State) : Host.Outcome State Fault Refusal := .next (execDoeDiscovery fn s)
def doGetVersion (fn : Nat) (s : State) : Host.Outcome State Fault Refusal := .next (execGetVersion fn s)
def doGetCapabilities (fn : Nat) (s : State) : Host.Outcome State Fault Refusal := .next (execGetCapabilities fn s)
def doNegotiateAlgorithms (fn : Nat) (offers : Bool) (s : State) : Host.Outcome State Fault Refusal := .next (execNegotiateAlgorithms fn offers s)
def doGetDigests (fn : Nat) (s : State) : Host.Outcome State Fault Refusal := .next (execGetDigests fn s)
def doGetCertificate (fn slot off len : Nat) (s : State) : Host.Outcome State Fault Refusal := .next (execGetCertificate fn slot off len s)
def doChallenge (fn slot : Nat) (all : Bool) (s : State) : Host.Outcome State Fault Refusal := .next (execChallenge fn slot all s)
def doGetMeasurements (fn index : Nat) (signed : Bool) (s : State) : Host.Outcome State Fault Refusal := .next (execGetMeasurements fn index signed s)
def doKeyExchange (fn slot id : Nat) (s : State) : Host.Outcome State Fault Refusal := .next (execKeyExchange fn slot id s)
def doFinish (fn id : Nat) (s : State) : Host.Outcome State Fault Refusal := .next (execFinish fn id s)
def doHeartbeat (fn id : Nat) (s : State) : Host.Outcome State Fault Refusal := .next (execHeartbeat fn id s)
def doKeyUpdate (fn id : Nat) (s : State) : Host.Outcome State Fault Refusal := .next (execKeyUpdate fn id s)
def doEndSession (fn id : Nat) (s : State) : Host.Outcome State Fault Refusal := .next (execEndSession fn id s)
def doSessionTimeout (fn id : Nat) (s : State) : Host.Outcome State Fault Refusal := .next (execSessionTimeout fn id s)
def doIdeKmQuery (id : Nat) (s : State) : Host.Outcome State Fault Refusal := .next (execIdeKmQuery id s)
def doKeyProg (id stream set dir : Nat) (s : State) : Host.Outcome State Fault Refusal := .next (execKeyProg id stream set dir s)
def doKSetGo (id stream set dir : Nat) (s : State) : Host.Outcome State Fault Refusal := .next (execKSetGo id stream set dir s)
def doKSetStop (id stream set dir : Nat) (s : State) : Host.Outcome State Fault Refusal := .next (execKSetStop id stream set dir s)
def doIntegrityFailure (stream : Nat) (s : State) : Host.Outcome State Fault Refusal := .next (execIntegrityFailure stream s)
def doGetTdispVersion (t id : Nat) (s : State) : Host.Outcome State Fault Refusal := .next (execGetTdispVersion t id s)
def doGetTdispCapabilities (t id : Nat) (s : State) : Host.Outcome State Fault Refusal := .next (execGetTdispCapabilities t id s)
def doLockInterfaceRequest (t id : Nat) (s : State) : Host.Outcome State Fault Refusal := .next (execLockInterfaceRequest t id s)
def doGetDeviceInterfaceReport (t id : Nat) (s : State) : Host.Outcome State Fault Refusal := .next (execGetDeviceInterfaceReport t id s)
def doGetDeviceInterfaceState (t id : Nat) (s : State) : Host.Outcome State Fault Refusal := .next (execGetDeviceInterfaceState t id s)
def doStartInterfaceRequest (t id : Nat) (s : State) : Host.Outcome State Fault Refusal := .next (execStartInterfaceRequest t id s)
def doStopInterfaceRequest (t id : Nat) (s : State) : Host.Outcome State Fault Refusal := .next (execStopInterfaceRequest t id s)
def doKeyDeliver (t id k kind : Nat) (reserved : Bool) (key : List Byte) (s : State) : Host.Outcome State Fault Refusal :=
  .next (execKeyDeliver t id k kind reserved key s)
def doKeyErase (t id k : Nat) (reserved : Bool) (s : State) : Host.Outcome State Fault Refusal := .next (execKeyErase t id k reserved s)
def doSlotQuery (t id : Nat) (s : State) : Host.Outcome State Fault Refusal := .next (execSlotQuery t id s)
def doAssign (w : Func) (k t kind : Nat) (s : State) : Host.Outcome State Fault Refusal := .next (execAssign w k t kind s)
def doRetire (w : Func) (k : Nat) (s : State) : Host.Outcome State Fault Refusal := .next (execRetire w k s)
def doErasureConfirmed (k : Nat) (s : State) : Host.Outcome State Fault Refusal := .next (execErasureConfirmed k s)
def doExpertGrantWrite (w : Func) (k : Nat) (v : Word) (s : State) : Host.Outcome State Fault Refusal := .next (execExpertGrantWrite w k v s)
def doDeny (w : Func) (v : Word) (s : State) : Host.Outcome State Fault Refusal := .next (execDeny w v s)
def doFixedDealEnable (w : Func) (v : Word) (s : State) : Host.Outcome State Fault Refusal := .next (execFixedDealEnable w v s)
def doHello (f : Frame) (s : State) : Host.Outcome State Fault Refusal := .next (execHello f s)
def doLeave (f : Frame) (s : State) : Host.Outcome State Fault Refusal := .next (execLeave f s)
def doBid (f : Frame) (s : State) : Host.Outcome State Fault Refusal := .next (execBid f s)
def doAward (f : Frame) (s : State) : Host.Outcome State Fault Refusal := .next (execAward f s)
def doFetchReq (f : Frame) (s : State) : Host.Outcome State Fault Refusal := .next (execFetchReq f s)
def doFetchData (f : Frame) (s : State) : Host.Outcome State Fault Refusal := .next (execFetchData f s)
def doFetchErr (f : Frame) (s : State) : Host.Outcome State Fault Refusal := .next (execFetchErr f s)
def doLendReq (f : Frame) (s : State) : Host.Outcome State Fault Refusal := .next (execLendReq f s)
def doLendOffer (f : Frame) (s : State) : Host.Outcome State Fault Refusal := .next (execLendOffer f s)
def doLendAccept (f : Frame) (s : State) : Host.Outcome State Fault Refusal := .next (execLendAccept f s)
def doLendData (f : Frame) (s : State) : Host.Outcome State Fault Refusal := .next (execLendData f s)
def doLendEnd (f : Frame) (s : State) : Host.Outcome State Fault Refusal := .next (execLendEnd f s)
def doService (f : Frame) (s : State) : Host.Outcome State Fault Refusal := .next (execService f s)
def doHelloTimer (free : Nat) (s : State) : Host.Outcome State Fault Refusal := .next (execHelloTimer free s)
def doMembershipTimeout (d : Nat) (s : State) : Host.Outcome State Fault Refusal := .next (execMembershipTimeout d s)
def doRoundDecision (s : State) : Host.Outcome State Fault Refusal := .next (execRoundDecision s)
def doAwardTimeout (s : State) : Host.Outcome State Fault Refusal := .next (execAwardTimeout s)
def doFetchTimeout (corr : Nat) (s : State) : Host.Outcome State Fault Refusal := .next (execFetchTimeout corr s)
def doJoin (w : Func) (v : Word) (s : State) : Host.Outcome State Fault Refusal := .next (execJoin w v s)
def doSvcTxTailWrite (w : Func) (v : Word) (entries : List (List Byte)) (s : State) : Host.Outcome State Fault Refusal :=
  .next (execSvcTxTailWrite w v entries s)
def doSync (port : Nat) (s : State) : Host.Outcome State Fault Refusal := .next (execSync port s)
def doLinkChange (port : Nat) (up fec : Bool) (s : State) : Host.Outcome State Fault Refusal := .next (execLinkChange port up fec s)
def doDrainEnd (d : Nat) (s : State) : Host.Outcome State Fault Refusal := .next (execDrainEnd d s)
def doRevokeEnd (d : Nat) (s : State) : Host.Outcome State Fault Refusal := .next (execRevokeEnd d s)
def doResetEnd (d : Nat) (s : State) : Host.Outcome State Fault Refusal := .next (execResetEnd d s)
def doReinstalled (t : Nat) (s : State) : Host.Outcome State Fault Refusal := .next (execReinstalled t s)
def doRecordDelivery (s : State) : Host.Outcome State Fault Refusal := .next (execRecordDelivery s)
def doRingEn (w : Func) (v : Word) (s : State) : Host.Outcome State Fault Refusal := .next (execRingEn w v s)
def doFcRingHeadWrite (w : Func) (v : Word) (s : State) : Host.Outcome State Fault Refusal := .next (execFcRingHeadWrite w v s)
def doWatchdogKick (w : Func) (v : Word) (s : State) : Host.Outcome State Fault Refusal := .next (execWatchdogKick w v s)
def doWatchdogFire (s : State) : Host.Outcome State Fault Refusal := .next (execWatchdogFire s)
def doRecord (w : Func) (s : State) : Host.Outcome State Fault Refusal := .next (execRecord w s)
def doReplay (w : Func) (s : State) : Host.Outcome State Fault Refusal := .next (execReplay w s)
def doOff (w : Func) (s : State) : Host.Outcome State Fault Refusal := .next (execOff w s)
def doCheckpoint (w : Func) (s : State) : Host.Outcome State Fault Refusal := .next (execCheckpoint w s)
def doCheckpointComplete (s : State) : Host.Outcome State Fault Refusal := .next (execCheckpointComplete s)
def doHhMark (w : Func) (v : Word) (s : State) : Host.Outcome State Fault Refusal := .next (execHhMark w v s)
def doReplayInject (host : List Byte) (s : State) : Host.Outcome State Fault Refusal := .next (execReplayInject host s)
def doReplayDone (host : List Byte) (s : State) : Host.Outcome State Fault Refusal := .next (execReplayDone host s)
def doThrottleDecision (p : Nat) (s : State) : Host.Outcome State Fault Refusal := .next (execThrottleDecision p s)
def doTempSensorUpdate (k value : Nat) (s : State) : Host.Outcome State Fault Refusal := .next (execTempSensorUpdate k value s)
def doTripShutdown (s : State) : Host.Outcome State Fault Refusal := .next (execTripShutdown s)
def doAvsRetry (die : Nat) (s : State) : Host.Outcome State Fault Refusal := .next (execAvsRetry die s)
def doConfigurationRequest (x : CfgWrite) (s : State) : Host.Outcome State Fault Refusal := .next (execConfigurationRequest x s)
def doReturnToD0 (fn : Nat) (s : State) : Host.Outcome State Fault Refusal := .next (execReturnToD0 fn s)
def doCompletionTimeout (q id : Nat) (s : State) : Host.Outcome State Fault Refusal := .next (execCompletionTimeout q id s)
def doFsyncPulseEnd (r : Nat) (s : State) : Host.Outcome State Fault Refusal := .next (execFsyncPulseEnd r s)
def doSyncInterval (s : State) : Host.Outcome State Fault Refusal := .next (execSyncInterval s)
def doPeerDelayMeasurement (port : Nat) (m : Gptp) (sent : Bool) (s : State) : Host.Outcome State Fault Refusal :=
  .next (execPeerDelayMeasurement port m sent s)
def doRetrain (width speed : Nat) (laneFail : Bool) (s : State) : Host.Outcome State Fault Refusal := .next (execRetrain width speed laneFail s)
def doPowerLoss (s : State) : Host.Outcome State Fault Refusal := .next (execPowerLoss s)
def doKittyCmdDone (n : Nat) (s : State) : Host.Outcome State Fault Refusal := .next (execKittyCmdDone n s)
def doAddressGeneratorAccess (t : Nat) (i : Issue) (target : GenTarget) (host : Option (List Byte)) (o : GenOp) (s : State) :
    Host.Outcome State Fault Refusal :=
  .next (execAddressGeneratorAccess t i target host o s)
def doLinkUp (r : Nat) (up : Bool) (s : State) : Host.Outcome State Fault Refusal := .next (execLinkUp r up s)

end Sys2Proof.Machine
end

