-- ==== Sys2Proof/Machine/Dispatch.lean ====
section
/-! DEFINITION. The commands and their meanings: one direct call each. -/
namespace Sys2Proof.Machine

/-- The effect of a command on everything but the queue. -/
def exec (i : Instr) (s : State) : Host.Outcome State Fault Refusal :=
  match i with
  | .wholeDeviceReset powerOn => Sys2Proof.Machine.doWholeDeviceReset powerOn s
  | .powerGoodRise r => Sys2Proof.Machine.doPowerGoodRise r s
  | .perstDeassert => Sys2Proof.Machine.doPerstDeassert s
  | .linkTrained width speed laneFail => Sys2Proof.Machine.doLinkTrained width speed laneFail s
  | .powerGoodFailure r => Sys2Proof.Machine.doPowerGoodFailure r s
  | .diesReady => Sys2Proof.Machine.doDiesReady s
  | .serviceReady => Sys2Proof.Machine.doServiceReady s
  | .deckBegin w => Sys2Proof.Machine.doDeckBegin w s
  | .stagingWrite off data => Sys2Proof.Machine.doStagingWrite off data s
  | .deckChunk w h => Sys2Proof.Machine.doDeckChunk w h s
  | .deckDma w h list => Sys2Proof.Machine.doDeckDma w h list s
  | .deckDmaCompletion h ans => Sys2Proof.Machine.doDeckDmaCompletion h ans s
  | .deckFinish w h => Sys2Proof.Machine.doDeckFinish w h s
  | .deckAbort w h => Sys2Proof.Machine.doDeckAbort w h s
  | .svnCommit w => Sys2Proof.Machine.doSvnCommit w s
  | .modelUnload w => Sys2Proof.Machine.doModelUnload w s
  | .restoreDone => Sys2Proof.Machine.doRestoreDone s
  | .beat => Sys2Proof.Machine.doBeat s
  | .crossingCommit src dst stamp payload => Sys2Proof.Machine.doCrossingCommit src dst stamp payload s
  | .lateCommit src dst stamp payload => Sys2Proof.Machine.doLateCommit src dst stamp payload s
  | .rtcEdge => Sys2Proof.Machine.doRtcEdge s
  | .rtcMeasurement ticks => Sys2Proof.Machine.doRtcMeasurement ticks s
  | .anteRealign => Sys2Proof.Machine.doAnteRealign s
  | .load w disciplined => Sys2Proof.Machine.doLoad w disciplined s
  | .step w disciplined => Sys2Proof.Machine.doStep w disciplined s
  | .rateAdjustment w v => Sys2Proof.Machine.doRateAdjustment w v s
  | .ttNowRead w => Sys2Proof.Machine.doTtNowRead w s
  | .relaxMaskWrite w k v => Sys2Proof.Machine.doRelaxMaskWrite w k v s
  | .dealArm w p latePolicy action period => Sys2Proof.Machine.doDealArm w p latePolicy action period s
  | .cancel w p => Sys2Proof.Machine.doCancel w p s
  | .dealLaunch p => Sys2Proof.Machine.doDealLaunch p s
  | .counterSnapshot p => Sys2Proof.Machine.doCounterSnapshot p s
  | .enable w p on => Sys2Proof.Machine.doEnable w p on s
  | .softReset w p => Sys2Proof.Machine.doSoftReset w p s
  | .expert w p => Sys2Proof.Machine.doExpert w p s
  | .expertClear w p => Sys2Proof.Machine.doExpertClear w p s
  | .cntClear w p => Sys2Proof.Machine.doCntClear w p s
  | .evtRawWrite w p v => Sys2Proof.Machine.doEvtRawWrite w p v s
  | .evtForce w p v => Sys2Proof.Machine.doEvtForce w p v s
  | .evtEnWrite w p v => Sys2Proof.Machine.doEvtEnWrite w p v s
  | .evtRouteWrite w p v => Sys2Proof.Machine.doEvtRouteWrite w p v s
  | .fence w p drain => Sys2Proof.Machine.doFence w p drain s
  | .release w p drain => Sys2Proof.Machine.doRelease w p drain s
  | .cmdTimeout p id => Sys2Proof.Machine.doCmdTimeout p id s
  | .registerWrite w a vs list => Sys2Proof.Machine.doRegisterWrite w a vs list s
  | .misalignedAccess w write a => Sys2Proof.Machine.doMisalignedAccess w write a s
  | .pwrCmdGo w target => Sys2Proof.Machine.doPwrCmdGo w target s
  | .holdEnd => Sys2Proof.Machine.doHoldEnd s
  | .holdExpired => Sys2Proof.Machine.doHoldExpired s
  | .quiesceEnd => Sys2Proof.Machine.doQuiesceEnd s
  | .quiesceTimeout => Sys2Proof.Machine.doQuiesceTimeout s
  | .descendStepEnd => Sys2Proof.Machine.doDescendStepEnd s
  | .wakeIn => Sys2Proof.Machine.doWakeIn s
  | .host => Sys2Proof.Machine.doHost s
  | .hostReq w target => Sys2Proof.Machine.doHostReq w target s
  | .wake => Sys2Proof.Machine.doWake s
  | .climbStepEnd => Sys2Proof.Machine.doClimbStepEnd s
  | .dutyWindowStart => Sys2Proof.Machine.doDutyWindowStart s
  | .dutyWindowEnd => Sys2Proof.Machine.doDutyWindowEnd s
  | .brownOutReset => Sys2Proof.Machine.doBrownOutReset s
  | .regulatorModeSwitched => Sys2Proof.Machine.doRegulatorModeSwitched s
  | .audioBlockEnd g formed pcm => Sys2Proof.Machine.doAudioBlockEnd g formed pcm s
  | .resync g => Sys2Proof.Machine.doResync g s
  | .resyncDone g => Sys2Proof.Machine.doResyncDone g s
  | .bankSwitch g => Sys2Proof.Machine.doBankSwitch g s
  | .switch w g => Sys2Proof.Machine.doSwitch w g s
  | .callEngineBlock vs => Sys2Proof.Machine.doCallEngineBlock vs s
  | .signOff => Sys2Proof.Machine.doSignOff s
  | .ceRestart w => Sys2Proof.Machine.doCeRestart w s
  | .modelRestarted => Sys2Proof.Machine.doModelRestarted s
  | .ringEnable w on => Sys2Proof.Machine.doRingEnable w on s
  | .relock w enable => Sys2Proof.Machine.doRelock w enable s
  | .unlockLimitExpiry => Sys2Proof.Machine.doUnlockLimitExpiry s
  | .releasePortRead tenant addr => Sys2Proof.Machine.doReleasePortRead tenant addr s
  | .voStart port => Sys2Proof.Machine.doVoStart port s
  | .voStop port => Sys2Proof.Machine.doVoStop port s
  | .voFrame p t => Sys2Proof.Machine.doVoFrame p t s
  | .hsBurst r ok => Sys2Proof.Machine.doHsBurst r ok s
  | .deskew r => Sys2Proof.Machine.doDeskew r s
  | .frameStart r vc ecc no sofTt => Sys2Proof.Machine.doFrameStart r vc ecc no sofTt s
  | .frameEnd r vc ecc eofTt => Sys2Proof.Machine.doFrameEnd r vc ecc eofTt s
  | .lineStart r vc ecc line => Sys2Proof.Machine.doLineStart r vc ecc line s
  | .lineEnd r vc ecc => Sys2Proof.Machine.doLineEnd r vc ecc s
  | .longPacket r vc dt ecc crcOk payload => Sys2Proof.Machine.doLongPacket r vc dt ecc crcOk payload s
  | .genericShortPacket r vc ecc => Sys2Proof.Machine.doGenericShortPacket r vc ecc s
  | .frameTimeout r k => Sys2Proof.Machine.doFrameTimeout r k s
  | .frameDescriptor r k => Sys2Proof.Machine.doFrameDescriptor r k s
  | .fsync r => Sys2Proof.Machine.doFsync r s
  | .captureStart r => Sys2Proof.Machine.doCaptureStart r s
  | .captureStop r => Sys2Proof.Machine.doCaptureStop r s
  | .vcErrRead w r vc => Sys2Proof.Machine.doVcErrRead w r vc s
  | .sliceStart n => Sys2Proof.Machine.doSliceStart n s
  | .sliceEnd n => Sys2Proof.Machine.doSliceEnd n s
  | .ispTblDataAccess w n v => Sys2Proof.Machine.doIspTblDataAccess w n v s
  | .ispXtblDataAccess w n v => Sys2Proof.Machine.doIspXtblDataAccess w n v s
  | .launchPush w t v => Sys2Proof.Machine.doLaunchPush w t v s
  | .launch t => Sys2Proof.Machine.doLaunch t s
  | .kernelStart t => Sys2Proof.Machine.doKernelStart t s
  | .kernelEnd t pc undefined => Sys2Proof.Machine.doKernelEnd t pc undefined s
  | .matrixInstruction t iss o => Sys2Proof.Machine.doMatrixInstruction t iss o s
  | .vectorOperation t iss o => Sys2Proof.Machine.doVectorOperation t iss o s
  | .requantise t iss o => Sys2Proof.Machine.doRequantise t iss o s
  | .quantise t iss o => Sys2Proof.Machine.doQuantise t iss o s
  | .stateInstruction t iss o => Sys2Proof.Machine.doStateInstruction t iss o s
  | .windowInstruction t iss o => Sys2Proof.Machine.doWindowInstruction t iss o s
  | .set t iss n v => Sys2Proof.Machine.doSet t iss n v s
  | .post t iss u n v => Sys2Proof.Machine.doPost t iss u n v s
  | .wait t iss n v => Sys2Proof.Machine.doWait t iss n v s
  | .haloPostCommit t => Sys2Proof.Machine.doHaloPostCommit t s
  | .remoteRead t u iss walk reg => Sys2Proof.Machine.doRemoteRead t u iss walk reg s
  | .remoteWrite t u iss walk reg => Sys2Proof.Machine.doRemoteWrite t u iss walk reg s
  | .clockRequest w noc k v => Sys2Proof.Machine.doClockRequest w noc k v s
  | .clockChange noc k => Sys2Proof.Machine.doClockChange noc k s
  | .flitCrcFailure die edge m nth => Sys2Proof.Machine.doFlitCrcFailure die edge m nth s
  | .flitDiscard die edge => Sys2Proof.Machine.doFlitDiscard die edge s
  | .eccError site corrected bits => Sys2Proof.Machine.doEccError site corrected bits s
  | .stemJobPush w d v => Sys2Proof.Machine.doStemJobPush w d v s
  | .job d => Sys2Proof.Machine.doJob d s
  | .stemJobStart d => Sys2Proof.Machine.doStemJobStart d s
  | .stemLineCommit n o => Sys2Proof.Machine.doStemLineCommit n o s
  | .stemJobEnd d => Sys2Proof.Machine.doStemJobEnd d s
  | .segmentAllocate w t v => Sys2Proof.Machine.doSegmentAllocate w t v s
  | .segmentRelease w t v => Sys2Proof.Machine.doSegmentRelease w t v s
  | .zeroDone t n => Sys2Proof.Machine.doZeroDone t n s
  | .suTblWrite w t m iss v => Sys2Proof.Machine.doSuTblWrite w t m iss v s
  | .commit w t v => Sys2Proof.Machine.doCommit w t v s
  | .veQpAdjWrite w t n v => Sys2Proof.Machine.doVeQpAdjWrite w t n v s
  | .kittyLookup who dom h => Sys2Proof.Machine.doKittyLookup who dom h s
  | .kittyFillComplete n k host => Sys2Proof.Machine.doKittyFillComplete n k host s
  | .writeBack t => Sys2Proof.Machine.doWriteBack t s
  | .flushAll w n => Sys2Proof.Machine.doFlushAll w n s
  | .flushTenant w n tenant => Sys2Proof.Machine.doFlushTenant w n tenant s
  | .discardTenant w n tenant => Sys2Proof.Machine.doDiscardTenant w n tenant s
  | .patrolScrub n bad => Sys2Proof.Machine.doPatrolScrub n bad s
  | .regionWrite w k v => Sys2Proof.Machine.doRegionWrite w k v s
  | .regionEffect => Sys2Proof.Machine.doRegionEffect s
  | .poolFill q id ans => Sys2Proof.Machine.doPoolFill q id ans s
  | .holdExpiry t => Sys2Proof.Machine.doHoldExpiry t s
  | .writeBackAck t => Sys2Proof.Machine.doWriteBackAck t s
  | .poolFlushDone t => Sys2Proof.Machine.doPoolFlushDone t s
  | .unpinContext w t ctx => Sys2Proof.Machine.doUnpinContext w t ctx s
  | .unpinAll w t => Sys2Proof.Machine.doUnpinAll w t s
  | .flush w t => Sys2Proof.Machine.doFlush w t s
  | .invalidateTenant w t tenant => Sys2Proof.Machine.doInvalidateTenant w t tenant s
  | .arm w q listSpace => Sys2Proof.Machine.doArm w q listSpace s
  | .append w q => Sys2Proof.Machine.doAppend w q s
  | .rearm w q group => Sys2Proof.Machine.doRearm w q group s
  | .resume w q => Sys2Proof.Machine.doResume w q s
  | .stop w q => Sys2Proof.Machine.doStop w q s
  | .transferIssue q list => Sys2Proof.Machine.doTransferIssue q list s
  | .transferComplete q id ans => Sys2Proof.Machine.doTransferComplete q id ans s
  | .queueLaunchSend q => Sys2Proof.Machine.doQueueLaunchSend q s
  | .endNotification q => Sys2Proof.Machine.doEndNotification q s
  | .atsTranslation q granted => Sys2Proof.Machine.doAtsTranslation q granted s
  | .pageRequestResponse q code => Sys2Proof.Machine.doPageRequestResponse q code s
  | .priTimeout q => Sys2Proof.Machine.doPriTimeout q s
  | .putDelivery src list => Sys2Proof.Machine.doPutDelivery src list s
  | .multicastPut q data list => Sys2Proof.Machine.doMulticastPut q data list s
  | .multicastAck q t => Sys2Proof.Machine.doMulticastAck q t s
  | .fold q => Sys2Proof.Machine.doFold q s
  | .pfFlr => Sys2Proof.Machine.doPfFlr s
  | .vfFlr t => Sys2Proof.Machine.doVfFlr t s
  | .flrTimeout c => Sys2Proof.Machine.doFlrTimeout c s
  | .d3hotEntry fn => Sys2Proof.Machine.doD3hotEntry fn s
  | .msixUnmask fn vector mask => Sys2Proof.Machine.doMsixUnmask fn vector mask s
  | .invalidateRequest fn pasid a n => Sys2Proof.Machine.doInvalidateRequest fn pasid a n s
  | .create w c => Sys2Proof.Machine.doCreate w c s
  | .bind w c slot => Sys2Proof.Machine.doBind w c slot s
  | .bindComplete slot => Sys2Proof.Machine.doBindComplete slot s
  | .unbind w c => Sys2Proof.Machine.doUnbind w c s
  | .destroy w c => Sys2Proof.Machine.doDestroy w c s
  | .destroyComplete c => Sys2Proof.Machine.doDestroyComplete c s
  | .svcRingEnable w c v => Sys2Proof.Machine.doSvcRingEnable w c v s
  | .h2dTailWrite w c v => Sys2Proof.Machine.doH2dTailWrite w c v s
  | .applianceEvent c cell => Sys2Proof.Machine.doApplianceEvent c cell s
  | .confirm c cell => Sys2Proof.Machine.doConfirm c cell s
  | .say c cell => Sys2Proof.Machine.doSay c cell s
  | .query c cell => Sys2Proof.Machine.doQuery c cell s
  | .d2hHeadWrite w c v => Sys2Proof.Machine.doD2hHeadWrite w c v s
  | .intent t urgent reply corr id verb target confidence seat params => Sys2Proof.Machine.doIntent t urgent reply corr id verb target confidence seat params s
  | .status t code a0 a1 urgent => Sys2Proof.Machine.doStatus t code a0 a1 urgent s
  | .event code a0 a1 urgent => Sys2Proof.Machine.doEvent code a0 a1 urgent s
  | .doeDiscovery fn => Sys2Proof.Machine.doDoeDiscovery fn s
  | .getVersion fn => Sys2Proof.Machine.doGetVersion fn s
  | .getCapabilities fn => Sys2Proof.Machine.doGetCapabilities fn s
  | .negotiateAlgorithms fn offers => Sys2Proof.Machine.doNegotiateAlgorithms fn offers s
  | .getDigests fn => Sys2Proof.Machine.doGetDigests fn s
  | .getCertificate fn slot off len => Sys2Proof.Machine.doGetCertificate fn slot off len s
  | .challenge fn slot all => Sys2Proof.Machine.doChallenge fn slot all s
  | .getMeasurements fn index signed => Sys2Proof.Machine.doGetMeasurements fn index signed s
  | .keyExchange fn slot id => Sys2Proof.Machine.doKeyExchange fn slot id s
  | .finish fn id => Sys2Proof.Machine.doFinish fn id s
  | .heartbeat fn id => Sys2Proof.Machine.doHeartbeat fn id s
  | .keyUpdate fn id => Sys2Proof.Machine.doKeyUpdate fn id s
  | .endSession fn id => Sys2Proof.Machine.doEndSession fn id s
  | .sessionTimeout fn id => Sys2Proof.Machine.doSessionTimeout fn id s
  | .ideKmQuery id => Sys2Proof.Machine.doIdeKmQuery id s
  | .keyProg id stream set dir => Sys2Proof.Machine.doKeyProg id stream set dir s
  | .kSetGo id stream set dir => Sys2Proof.Machine.doKSetGo id stream set dir s
  | .kSetStop id stream set dir => Sys2Proof.Machine.doKSetStop id stream set dir s
  | .integrityFailure stream => Sys2Proof.Machine.doIntegrityFailure stream s
  | .getTdispVersion t id => Sys2Proof.Machine.doGetTdispVersion t id s
  | .getTdispCapabilities t id => Sys2Proof.Machine.doGetTdispCapabilities t id s
  | .lockInterfaceRequest t id => Sys2Proof.Machine.doLockInterfaceRequest t id s
  | .getDeviceInterfaceReport t id => Sys2Proof.Machine.doGetDeviceInterfaceReport t id s
  | .getDeviceInterfaceState t id => Sys2Proof.Machine.doGetDeviceInterfaceState t id s
  | .startInterfaceRequest t id => Sys2Proof.Machine.doStartInterfaceRequest t id s
  | .stopInterfaceRequest t id => Sys2Proof.Machine.doStopInterfaceRequest t id s
  | .keyDeliver t id k kind reserved key => Sys2Proof.Machine.doKeyDeliver t id k kind reserved key s
  | .keyErase t id k reserved => Sys2Proof.Machine.doKeyErase t id k reserved s
  | .slotQuery t id => Sys2Proof.Machine.doSlotQuery t id s
  | .assign w k t kind => Sys2Proof.Machine.doAssign w k t kind s
  | .retire w k => Sys2Proof.Machine.doRetire w k s
  | .erasureConfirmed k => Sys2Proof.Machine.doErasureConfirmed k s
  | .expertGrantWrite w k v => Sys2Proof.Machine.doExpertGrantWrite w k v s
  | .deny w v => Sys2Proof.Machine.doDeny w v s
  | .fixedDealEnable w v => Sys2Proof.Machine.doFixedDealEnable w v s
  | .hello f => Sys2Proof.Machine.doHello f s
  | .leave f => Sys2Proof.Machine.doLeave f s
  | .bid f => Sys2Proof.Machine.doBid f s
  | .award f => Sys2Proof.Machine.doAward f s
  | .fetchReq f => Sys2Proof.Machine.doFetchReq f s
  | .fetchData f => Sys2Proof.Machine.doFetchData f s
  | .fetchErr f => Sys2Proof.Machine.doFetchErr f s
  | .lendReq f => Sys2Proof.Machine.doLendReq f s
  | .lendOffer f => Sys2Proof.Machine.doLendOffer f s
  | .lendAccept f => Sys2Proof.Machine.doLendAccept f s
  | .lendData f => Sys2Proof.Machine.doLendData f s
  | .lendEnd f => Sys2Proof.Machine.doLendEnd f s
  | .service f => Sys2Proof.Machine.doService f s
  | .helloTimer free => Sys2Proof.Machine.doHelloTimer free s
  | .membershipTimeout d => Sys2Proof.Machine.doMembershipTimeout d s
  | .roundDecision => Sys2Proof.Machine.doRoundDecision s
  | .awardTimeout => Sys2Proof.Machine.doAwardTimeout s
  | .fetchTimeout corr => Sys2Proof.Machine.doFetchTimeout corr s
  | .join w v => Sys2Proof.Machine.doJoin w v s
  | .svcTxTailWrite w v entries => Sys2Proof.Machine.doSvcTxTailWrite w v entries s
  | .sync port => Sys2Proof.Machine.doSync port s
  | .linkChange port up fec => Sys2Proof.Machine.doLinkChange port up fec s
  | .drainEnd d => Sys2Proof.Machine.doDrainEnd d s
  | .revokeEnd d => Sys2Proof.Machine.doRevokeEnd d s
  | .resetEnd d => Sys2Proof.Machine.doResetEnd d s
  | .reinstalled t => Sys2Proof.Machine.doReinstalled t s
  | .recordDelivery => Sys2Proof.Machine.doRecordDelivery s
  | .ringEn w v => Sys2Proof.Machine.doRingEn w v s
  | .fcRingHeadWrite w v => Sys2Proof.Machine.doFcRingHeadWrite w v s
  | .watchdogKick w v => Sys2Proof.Machine.doWatchdogKick w v s
  | .watchdogFire => Sys2Proof.Machine.doWatchdogFire s
  | .record w => Sys2Proof.Machine.doRecord w s
  | .replay w => Sys2Proof.Machine.doReplay w s
  | .off w => Sys2Proof.Machine.doOff w s
  | .checkpoint w => Sys2Proof.Machine.doCheckpoint w s
  | .checkpointComplete => Sys2Proof.Machine.doCheckpointComplete s
  | .hhMark w v => Sys2Proof.Machine.doHhMark w v s
  | .replayInject host => Sys2Proof.Machine.doReplayInject host s
  | .replayDone host => Sys2Proof.Machine.doReplayDone host s
  | .throttleDecision p => Sys2Proof.Machine.doThrottleDecision p s
  | .tempSensorUpdate k value => Sys2Proof.Machine.doTempSensorUpdate k value s
  | .tripShutdown => Sys2Proof.Machine.doTripShutdown s
  | .avsRetry die => Sys2Proof.Machine.doAvsRetry die s
  | .configurationRequest x => Sys2Proof.Machine.doConfigurationRequest x s
  | .returnToD0 fn => Sys2Proof.Machine.doReturnToD0 fn s
  | .completionTimeout q id => Sys2Proof.Machine.doCompletionTimeout q id s
  | .fsyncPulseEnd r => Sys2Proof.Machine.doFsyncPulseEnd r s
  | .syncInterval => Sys2Proof.Machine.doSyncInterval s
  | .peerDelayMeasurement port m sent => Sys2Proof.Machine.doPeerDelayMeasurement port m sent s
  | .retrain width speed laneFail => Sys2Proof.Machine.doRetrain width speed laneFail s
  | .powerLoss => Sys2Proof.Machine.doPowerLoss s
  | .kittyCmdDone n => Sys2Proof.Machine.doKittyCmdDone n s
  | .addressGeneratorAccess t iss target host o => Sys2Proof.Machine.doAddressGeneratorAccess t iss target host o s
  | .linkUp r up => Sys2Proof.Machine.doLinkUp r up s

end Sys2Proof.Machine
end

