-- ==== Sys2Proof/Safety.lean ====
section
/-! DEFINITION. The terms in which claims about the block are stated: the canonical form of its register file and memories, what may become
of the fuses, and when a write is admitted. -/
namespace Sys2Proof.Machine

/-! ## Canonical form -/

/-- A memory image in its one form: addresses strictly rising, and no byte listed that equals what an unlisted address reads as (log 4). -/
def Memory.wf (m : List Host.Cell) : Bool := sortedKeys m && m.all fun c => c.2 != 0

/-- The register file in its one form on a part: addresses strictly rising, no register listed at its reset value. -/
def Regs.wf (q : Part) (l : List (Nat × Word)) : Bool := sortedKeys l && l.all fun e => e.2 != resetVal q e.1

/-- The lists that hold a block's instances, or what belongs to a page or a tenant, by its number are in rising order of it: tiles, stem
engines, receivers, pipelines, queues, kitties, key slots, the running commands, counts and events of the pages, the cells held; and the
stem engines' SRAM is in its one form. -/
structure State.Keyed (s : State) : Prop where
  tiles : sortedKeys s.tiles = true
  stems : sortedKeys s.stems = true
  csi : sortedKeys s.csi = true
  isp : sortedKeys s.isp = true
  queues : sortedKeys s.queues = true
  kitties : sortedKeys s.mem.kitties = true
  keys : sortedKeys s.mem.keys = true
  cmds : sortedKeys s.head.cmds = true
  counts : sortedKeys s.head.counts = true
  sets : sortedKeys s.head.sets = true
  holds : sortedKeys s.host.holds = true
  stemSram : ∀ e ∈ s.stems, Memory.wf e.2.sram = true

/-- The register file and every byte memory of the block are in their one form: HBM, the deck staging buffer, the Call engine's SRAM and the
SRAM of each tile and stem engine; the lists by number are in order. -/
def State.Canonical (s : State) : Prop :=
  Regs.wf s.part s.regs = true ∧ Memory.wf s.hbm = true ∧ Memory.wf s.boot.staging = true ∧ Memory.wf s.ce.sram = true ∧
    (∀ e ∈ s.tiles, Memory.wf e.2.sram = true) ∧ s.Keyed

/-! ## Fuses -/

/-- From fuses p to fuses q only anti-rollback fuses have changed, and every burnt one is still burnt (R108, R109). -/
def Part.burnt (p q : Part) : Prop :=
  q = { p with arb := q.arb } ∧ q.arb.length = p.arb.length ∧
    ∀ k i, (p.arb.getD k 0).testBit i = true → (q.arb.getD k 0).testBit i = true

/-- What an interrupted burn leaves (R109): no fuse is unburnt, and only fuses of the counter and below the count of the burn under way may
have changed; with none under way, no fuse. -/
def FusesCut (s t : State) : Prop :=
  Part.burnt s.part t.part ∧ (s.boot.burn = none → t.part = s.part ∧ t.freeIdx = s.freeIdx) ∧
    ∀ k n, s.boot.burn = some (k, n) →
      t.part.arb.getD k 0 ||| fusesTo n = s.part.arb.getD k 0 ||| fusesTo n ∧ ∀ j, j ≠ k → t.part.arb.getD j 0 = s.part.arb.getD j 0

/-! ## Parts of the state -/

/-- The parts of the state, under the names that State has for them; the queue of waiting commands is not among them. -/
inductive Comp where
  | part
  | regs
  | tt
  | head
  | boot
  | pwr
  | fc
  | host
  | hh
  | sec
  | tbl
  | au
  | ce
  | csi
  | isp
  | tiles
  | stems
  | mem
  | queues
  | hbm
  | out
  | freeIdx
deriving DecidableEq, Repr

/-- Two states agree in a part. -/
def Comp.agrees : Comp → State → State → Prop
  | .part, s, t => t.part = s.part
  | .regs, s, t => t.regs = s.regs
  | .tt, s, t => t.tt = s.tt
  | .head, s, t => t.head = s.head
  | .boot, s, t => t.boot = s.boot
  | .pwr, s, t => t.pwr = s.pwr
  | .fc, s, t => t.fc = s.fc
  | .host, s, t => t.host = s.host
  | .hh, s, t => t.hh = s.hh
  | .sec, s, t => t.sec = s.sec
  | .tbl, s, t => t.tbl = s.tbl
  | .au, s, t => t.au = s.au
  | .ce, s, t => t.ce = s.ce
  | .csi, s, t => t.csi = s.csi
  | .isp, s, t => t.isp = s.isp
  | .tiles, s, t => t.tiles = s.tiles
  | .stems, s, t => t.stems = s.stems
  | .mem, s, t => t.mem = s.mem
  | .queues, s, t => t.queues = s.queues
  | .hbm, s, t => t.hbm = s.hbm
  | .out, s, t => t.out = s.out
  | .freeIdx, s, t => t.freeIdx = s.freeIdx

/-- Two states agree in every part outside a list. -/
def AgreeBut (l : List Comp) (s t : State) : Prop := ∀ c, c ∉ l → c.agrees s t

/-- Two states hold the same value in every register outside a list of addresses. -/
def RegsBut (l : List Nat) (s t : State) : Prop := ∀ a, a ∉ l → reg t a = reg s a

/-- The address of HH_CNT_LOST: the one register that recording an input for replay may change (R562). -/
def hhLost : Nat := pageBase pgHh + Off.HH_CNT_LOST

/-- The parts of the hand-history recorder and of the page heads that an admitted write which hand history records leaves (R557, R562): beyond
the notes of what has been counted and of what the management cores have written in the beat. -/
def RecorderKept (s t : State) : Prop :=
  t.head = { s.head with counts := t.head.counts, mgmt := t.head.mgmt } ∧
    t.hh = { s.hh with beatBuf := t.hh.beatBuf, lost := t.hh.lost, lostTt := t.hh.lostTt }

/-! ## Counters, events, records, deals -/

/-- A counter of a page has gone up by k, saturating (R81). -/
def Counted (p : Page) (off k : Nat) (s t : State) : Prop := (rd t p off).toNat = satNat 0xFFFFFFFF ((rd s p off).toNat + k)

/-- The address of a page's EVT_RAW. -/
def evtOf (p : Page) : Nat := pageBase p + Off.EVT_RAW

/-- An event of a page is set. -/
def Raised (p : Page) (b : Nat) (t : State) : Prop := flag t p Off.EVT_RAW b = true

/-- The newest fault record has this source, code, severity and reset domain (R532). -/
def Recorded (source code severity domain : Nat) (t : State) : Prop :=
  (t.fc.history.head?.map fun r => (r.source, r.code, r.severity, r.domain)) = some (source, code, severity, domain)

/-- The registers that the taking of a fault record changes (R531, R534). -/
def recordRegs : List Nat := [pageBase pgFc + Off.FC_CNT_RECORDS, pageBase pgFc + Off.FC_CNT_LOST, evtOf pgFc]

/-- A one-shot deal of a page is armed with an action, and the present beat, or RTC step, is its launch beat, on time, with the page
enabled (R43–R45, R77). -/
def DealDue (s : State) (p : Page) (d : DealSt) (action : Nat) : Prop :=
  dealOf s p = some d ∧ fld s p Off.DEAL_CTRL 4 4 = action ∧ fld s p Off.DEAL_CTRL 8 24 = 0 ∧ dealPower s p action = true ∧
    dealEnabled s p = true ∧ d.able ≤ beatNo s ∧ dealAt s p ≤ commitTime s ∧ dealLate s (dealAt s p) = false

/-- The registers that the launch of a one-shot deal changes beside those of its action. -/
def dealRegs (p : Page) : List Nat := [pageBase p + Off.DEAL_CTRL, evtOf p]

/-- The reset domain of the record of a misaligned access: that of the page that its address lies in, or none (R90, R532). -/
def misalignedAt (s : State) (w : Func) (a : Nat) : Nat :=
  (((pfAddr s w a).bind pageOf).map fun p => pageDomain p.1).getD 0xFF

/-! ## Kernels -/

/-- The sequencer of a powered tile dispatches an instruction of the running kernel to its unit, which has room for it, and fetches it under
the region check; or it has done so before (R246). -/
def Dispatches (s : State) (t unit : Nat) (i : Issue) (k : Kernel) : Prop :=
  (tileOf s t).kernel = some k ∧ tileLive s t = true ∧
    (isQueued (tileOf s t) unit i = true ∨
      unitRoom (tileOf s t) unit = true ∧ fetchOk s k.regions k.launch.ctx i.pc = true)

/-- An instruction of a microprogram as its unit holds it, its tile, how it issues, and the waits under which its unit may execute (R246,
R249, R310). -/
def unitOf (s : State) : Instr → Option (Nat × Queued × Issue × (TileWait → Bool))
  | .matrixInstruction t i _ => some (t, unitEntry unitMatrix i, i, unitFree unitMatrix)
  | .vectorOperation t i o => some (t, vectorEntry i (destWrites o.dst), i, unitFree unitVector)
  | .requantise t i o => some (t, vectorEntry i (destWrites o.dst), i, unitFree unitVector)
  | .quantise t i o => some (t, vectorEntry i (quantWrites o.dst), i, unitFree unitVector)
  | .stateInstruction t i o => some (t, stateEntry i o, i, stateFree)
  | .windowInstruction t i o =>
    let u := winUnit (winOf (sramRead s t o.desc 64))
    some (t, { unitEntry u i with writes := postWrites o.post }, i, unitFree u)
  | .addressGeneratorAccess t i _ _ o => some (t, { unitEntry (genUnit i o.write) i with writes := o.write }, i, anyWait)
  | .remoteRead t _ i _ _ => some (t, unitEntry (readUnit i) i, i, anyWait)
  | .remoteWrite t _ i _ _ => some (t, { unitEntry unitWrite i with writes := true }, i, anyWait)
  | .set t i _ _ => some (t, unitEntry unitSync i, i, syncFree)
  | .post t i _ _ _ => some (t, { unitEntry unitSync i with posts := true }, i, syncFree)
  | .wait t i _ _ => some (t, unitEntry unitSync i, i, syncFree)
  | _ => none

/-- May an instruction that has been dispatched execute (R246, R249)? It stands at the front of its unit, its tokens are signalled, its unit is
in no wait, and a POST has no write of its kernel before it that is not sent. -/
def mayStart (s : State) (t : Nat) (q : Queued) (i : Issue) (free : TileWait → Bool) (k : Kernel) : Bool :=
  atFront (tileOf s t) q.unit i && (i.waits.all fun n => k.toks.contains n) && (tileOf s t).waits.all free &&
    !postHeld (tileOf (enqueue t q s) t) q

/-- An instruction of the kernel that runs on a powered tile is dispatched, or has been, and executes (R246). -/
def Issues (s : State) (t : Nat) (q : Queued) (i : Issue) (free : TileWait → Bool) (k : Kernel) : Prop :=
  Dispatches s t q.unit i k ∧ mayStart s t q i free k = true

/-- The state in which an instruction executes: TILE_SEQ_PC shows it once it is dispatched, and its unit holds it (R246). -/
def atUnit (s : State) (t : Nat) (q : Queued) (i : Issue) : State :=
  enqueue t q (if isQueued (tileOf s t) q.unit i then s else wr (pgMx t) Off.TILE_SEQ_PC (BitVec.ofNat 32 i.pc) s)

/-- An instruction has been dispatched: TILE_SEQ_PC shows it unless it was dispatched before (R246, R260). -/
def Shown (s : State) (t unit : Nat) (i : Issue) (v : State) : Prop :=
  isQueued (tileOf s t) unit i = false → rd v (pgMx t) Off.TILE_SEQ_PC = BitVec.ofNat 32 i.pc

/-- The instruction is done: it has left its unit, and the kernel goes on with its tokens signalled (R243, R246). -/
def Completed (s : State) (t unit : Nat) (i : Issue) (k : Kernel) (v : State) : Prop :=
  Shown s t unit i v ∧ (tileOf v t).queued = (tileOf s t).queued.eraseP (isEntry unit i.pc) ∧
    ∃ k', (tileOf v t).kernel = some k' ∧ k'.launch = k.launch ∧ ∀ n, n ∈ k'.toks ↔ n ∈ k.toks ∨ (n ∈ i.signals ∧ n < 16)

/-- The bytes of a tile's SRAM outside n bytes at lo are unchanged. -/
def SramBut (t lo n : Nat) (s u : State) : Prop :=
  ∀ a, a < lo ∨ lo + n ≤ a → sget 0 (tileOf u t).sram a = sget 0 (tileOf s t).sram a

/-- The lanes of a tile's vector registers outside n lanes from lo on are unchanged. -/
def LanesBut (t lo n : Nat) (s u : State) : Prop := ∀ a, a < lo ∨ lo + n ≤ a → laneOf u t a = laneOf s t a

/-- The address of TILE_SEQ_PC. -/
def seqPc (t : Nat) : Nat := pageBase (pgMx t) + Off.TILE_SEQ_PC

/-- The flit counters on the way from one die to another (R251, R263). -/
def flitRegs (a b : Nat) : List Nat :=
  (((dieLinks a b).flatMap linkPages).map fun p => pageBase p + Off.DL_CNT_FLITS) ++
    ((a :: dieRoute a b).filter fun d => decide (d < 4)).map fun d => pageBase ⟨.mesh, d⟩ + Off.NOC_CNT_FLITS

/-- A tile's SRAM after a write of values over a walk; the bytes outside the walk are unchanged (R240). -/
def Walked (t : Nat) (w : GenWalk) (vs : List Nat) (s u : State) : Prop :=
  (tileOf u t).sram = (tileOf (walkWrite t w vs s) t).sram ∧
    ∀ a, (∀ p ∈ walkSpots w, a < p.1.toNat ∨ p.1.toNat + walkBytes w ≤ a) →
      sget 0 (tileOf u t).sram a = sget 0 (tileOf s t).sram a

/-- n results of the vector engine may go to a destination (R237, R238, R240): registers have room for them; the write generator may write its
own SRAM, a home slot that the pool has, a token record, a stream queue, or another tile. -/
def MayPut (s : State) (t : Nat) (k : Kernel) (n : Nat) : LaneDest → Prop
  | .reg r => 256 * r + n ≤ 8192
  | .gen .own w => walkOk w = true ∧ spotsOk s k.regions k.launch.ctx true w = true
  | .gen (.home h) w => walkOk w = true ∧ inSlot w = true ∧ (poolFind s t h (ctxTenant s k.launch.ctx)).isSome = true
  | .gen (.tokens _) w => walkOk w = true ∧ w.nibbles ≠ 1 ∧ n * walkBytes w = 16
  | .gen (.stream _) w => walkOk w = true
  | .remote g w =>
    walkOk w = true ∧ g < 64 ∧ tileLive s g = true ∧ admits s g k.launch.ctx = true ∧
      spotsOk s (farRegions s k g) k.launch.ctx true w = true

/-- The results vs of the vector engine are at their destination (R238, R240). -/
def PutAt (s : State) (t : Nat) (k : Kernel) (vs : List Nat) (v : State) : LaneDest → Prop
  | .reg r =>
    lanesFrom v t (256 * r) vs.length = vs.map (· % 2 ^ 32) ∧ SramBut t 0 0 s v ∧ LanesBut t (256 * r) vs.length s v
  | .gen .own w => Walked t w vs s v ∧ LanesBut t 0 0 s v
  | .gen (.home h) w => ∀ l, poolFind s t h (ctxTenant s k.launch.ctx) = some l →
      lineData v t l.line = bytesPut (lineData s t l.line) w vs ∧ SramBut t (4096 * l.line) 4096 s v ∧ LanesBut t 0 0 s v ∧
        ∃ m ∈ poolLines v t, m.line = l.line ∧ m.st = 4
  | .gen (.tokens q) w =>
    ((tileOf v t).kernel.map (·.tokens)) = some (k.tokens ++ [(q, vs.flatMap fun x => leBytes (walkBytes w) x)]) ∧
      SramBut t 0 0 s v ∧ LanesBut t 0 0 s v
  | .gen (.stream q) w =>
    (tileOf v t).outs = (tileOf s t).outs ++ [(q, k.launch.ctx, streamBytes w vs)] ∧ SramBut t 0 0 s v ∧ LanesBut t 0 0 s v
  | .remote g w => Walked g w vs s v ∧ Counted (pgTsp t) Off.TSP_CNT_REMOTE_WR 1 s v ∧ LanesBut t 0 0 s v

/-- The registers that results on their way to a destination change. -/
def putRegs (t : Nat) : LaneDest → List Nat
  | .remote g _ => (pageBase (pgTsp t) + Off.TSP_CNT_REMOTE_WR) :: flitRegs (t / 16) (g / 16)
  | _ => []

/-! ## Commands -/

/-- A command answers a next state, of which P holds. -/
def Runs (i : Instr) (s : State) (P : State → Prop) : Prop := ∃ t, exec i s = .next t ∧ P t

/-- Every part of the state. -/
def Comp.all : List Comp :=
  [.part, .regs, .tt, .head, .boot, .pwr, .fc, .host, .hh, .sec, .tbl, .au, .ce, .csi, .isp, .tiles, .stems, .mem, .queues, .hbm,
   .out, .freeIdx]

/-- The parts of the state that a command may change. A deal's launch may do what any deal does, waking the device among it. -/
def touches (i : Instr) : List Comp :=
  match i with
  | .wholeDeviceReset _ | .beat | .rtcEdge | .dealLaunch _ | .counterSnapshot _ | .descendStepEnd | .wakeIn | .host | .wake
  | .resync _ | .bankSwitch _ | .voStart _ | .voStop _ | .fsync _ | .captureStart _ | .captureStop _ | .launch _ | .job _
  | .powerLoss => Comp.all
  | .powerGoodRise _ | .perstDeassert => [.regs, .head, .boot, .sec]
  | .linkTrained _ _ _ => [.regs, .head, .boot, .host, .out]
  | .powerGoodFailure _ | .tripShutdown =>
    [.part, .regs, .tt, .head, .boot, .pwr, .fc, .host, .hh, .tbl, .au, .ce, .csi, .isp, .tiles, .stems, .mem, .queues, .hbm, .out,
     .freeIdx]
  | .diesReady => [.regs, .head, .boot, .mem, .hbm]
  | .serviceReady | .applianceEvent _ _ | .confirm _ _ | .say _ _ | .query _ _ | .intent _ _ _ _ _ _ _ _ _ _ | .status _ _ _ _ _
  | .event _ _ _ _ => [.regs, .head, .host, .hh, .out]
  | .deckBegin _ | .deckChunk _ _ | .deckDma _ _ _ | .deckFinish _ _ | .deckAbort _ _ | .svnCommit _ | .modelUnload _ =>
    [.regs, .tt, .head, .boot, .pwr, .fc, .host, .hh, .sec, .ce, .tiles, .mem, .hbm, .out, .freeIdx]
  | .stagingWrite _ _ => [.regs, .head, .boot, .fc, .host, .out]
  | .deckDmaCompletion _ _ => [.regs, .head, .boot, .fc, .ce, .tiles, .mem, .hbm, .out, .freeIdx]
  | .restoreDone => [.regs, .tt, .head, .boot, .pwr, .fc, .ce, .tiles, .mem, .queues, .hbm, .out]
  | .crossingCommit _ _ _ _ | .anteRealign => [.regs, .tt, .head]
  | .lateCommit _ _ _ _ => [.regs, .tt, .head, .hh]
  | .rtcMeasurement _ | .deskew _ | .linkUp _ _ => [.regs]
  | .load _ _ | .step _ _ => [.regs, .tt, .head, .fc, .host, .hh, .out]
  | .rateAdjustment _ _ | .relaxMaskWrite _ _ _ | .dealArm _ _ _ _ _ | .cancel _ _ | .evtRawWrite _ _ _ | .evtForce _ _ _
  | .evtEnWrite _ _ _ | .evtRouteWrite _ _ _ | .suTblWrite _ _ _ _ _ | .commit _ _ _ | .veQpAdjWrite _ _ _ _ | .svcRingEnable _ _ _
  | .h2dTailWrite _ _ _ | .d2hHeadWrite _ _ _ | .deny _ _ | .recordDelivery | .ringEn _ _ | .fcRingHeadWrite _ _ | .watchdogKick _ _
  | .hhMark _ _ => [.regs, .head, .fc, .host, .hh, .out]
  | .ttNowRead _ => [.regs, .host, .out, .freeIdx]
  | .enable _ _ _ | .softReset _ _ | .expert _ _ | .expertClear _ _ | .cntClear _ _ =>
    [.regs, .head, .pwr, .fc, .host, .hh, .au, .ce, .csi, .queues, .out]
  | .fence _ _ _ | .release _ _ _ => [.regs, .head, .fc, .host, .hh, .csi, .isp, .tiles, .stems, .queues, .out, .freeIdx]
  | .cmdTimeout _ _ | .flitCrcFailure _ _ _ _ | .flitDiscard _ _ | .flrTimeout _ =>
    [.regs, .head, .fc, .csi, .isp, .tiles, .stems, .freeIdx]
  | .registerWrite _ _ _ _ | .replayInject _ =>
    [.regs, .tt, .head, .boot, .pwr, .fc, .host, .hh, .sec, .tbl, .au, .ce, .csi, .isp, .tiles, .stems, .mem, .queues, .hbm, .out,
     .freeIdx]
  | .misalignedAccess _ _ _ => [.regs, .head, .fc, .host, .out]
  | .pwrCmdGo _ _ => [.regs, .head, .pwr, .fc, .host, .hh, .queues, .out]
  | .holdEnd | .holdExpired => [.regs, .head, .pwr, .queues, .out]
  | .quiesceEnd => [.regs, .head, .hh, .tbl, .au, .hbm, .out]
  | .quiesceTimeout | .atsTranslation _ _ | .priTimeout _ => [.regs, .head, .queues, .out]
  | .hostReq _ _ => [.regs, .tt, .head, .boot, .pwr, .fc, .host, .hh, .out]
  | .climbStepEnd => [.regs, .tt, .head, .boot, .pwr, .ce, .queues, .out]
  | .dutyWindowStart => [.regs, .head, .pwr]
  | .dutyWindowEnd => [.regs, .pwr]
  | .brownOutReset => [.regs, .tt, .head, .boot, .pwr, .fc, .hh, .tbl, .au, .ce, .csi, .isp, .tiles, .stems, .mem, .out]
  | .regulatorModeSwitched => [.regs, .boot, .pwr]
  | .audioBlockEnd _ _ _ => [.regs, .tt, .head, .boot, .pwr, .au, .freeIdx]
  | .resyncDone _ | .unlockLimitExpiry => [.regs, .head, .au]
  | .switch _ _ | .ringEnable _ _ | .relock _ _ => [.regs, .head, .fc, .host, .hh, .au, .out]
  | .callEngineBlock _ => [.regs, .tt, .head, .boot, .pwr, .hh, .au, .ce]
  | .signOff => [.regs, .tt, .head, .boot, .pwr, .au, .ce]
  | .ceRestart _ => [.regs, .head, .fc, .host, .hh, .ce, .out]
  | .modelRestarted => [.regs, .head, .au, .ce]
  | .releasePortRead _ _ => [.regs, .head, .hh, .au, .out, .freeIdx]
  | .voFrame _ _ => [.regs, .head, .au, .out]
  | .hsBurst _ _ | .lineStart _ _ _ _ | .lineEnd _ _ _ | .genericShortPacket _ _ _ | .frameDescriptor _ _ => [.regs, .head, .csi]
  | .frameStart _ _ _ _ _ | .frameEnd _ _ _ _ | .longPacket _ _ _ _ _ _ => [.regs, .head, .hh, .csi, .isp]
  | .frameTimeout _ _ => [.csi]
  | .vcErrRead _ _ _ => [.regs, .host, .out]
  | .sliceStart _ => [.isp]
  | .sliceEnd _ => [.regs, .head, .hh, .isp, .freeIdx]
  | .ispTblDataAccess _ _ _ | .ispXtblDataAccess _ _ _ => [.regs, .head, .fc, .host, .hh, .isp, .out]
  | .launchPush _ _ _ | .unpinContext _ _ _ | .unpinAll _ _ | .flush _ _ | .invalidateTenant _ _ _ =>
    [.regs, .head, .fc, .host, .hh, .tiles, .out]
  | .kernelStart _ | .kernelEnd _ _ _ | .matrixInstruction _ _ _ | .windowInstruction _ _ _ | .set _ _ _ _ | .post _ _ _ _ _
  | .wait _ _ _ _ | .remoteRead _ _ _ _ _ | .remoteWrite _ _ _ _ _ | .writeBackAck _ => [.regs, .head, .fc, .tiles, .freeIdx]
  | .vectorOperation _ _ _ | .requantise _ _ _ | .quantise _ _ _ | .stateInstruction _ _ _ | .zeroDone _ _
  | .addressGeneratorAccess _ _ _ _ _ => [.regs, .head, .fc, .host, .hh, .tiles, .mem, .hbm, .out, .freeIdx]
  | .haloPostCommit _ => [.regs, .tt, .head, .fc, .hh, .tiles, .freeIdx]
  | .clockRequest _ _ _ _ => [.regs, .head, .pwr, .fc, .host, .hh, .out]
  | .clockChange _ _ => [.regs, .head, .pwr, .hh, .out]
  | .eccError _ _ _ => [.regs, .head, .fc, .au, .csi, .isp, .tiles, .stems, .mem, .out, .freeIdx]
  | .stemJobPush _ _ _ => [.regs, .head, .fc, .host, .hh, .stems, .out]
  | .stemJobStart _ => [.regs, .head, .fc, .stems]
  | .stemLineCommit _ _ | .stemJobEnd _ => [.regs, .head, .fc, .isp, .tiles, .stems]
  | .segmentAllocate _ _ _ | .segmentRelease _ _ _ => [.regs, .head, .fc, .host, .hh, .tiles, .out, .freeIdx]
  | .kittyLookup _ _ _ | .kittyFillComplete _ _ _ => [.regs, .head, .fc, .host, .mem, .hbm, .out]
  | .writeBack _ | .record _ | .replay _ | .off _ | .checkpoint _ => [.regs, .head, .fc, .host, .hh, .tiles, .mem, .hbm, .out]
  | .flushAll _ _ | .flushTenant _ _ _ | .discardTenant _ _ _ => [.regs, .head, .fc, .host, .hh, .mem, .hbm, .out]
  | .patrolScrub _ _ => [.regs, .head, .fc, .mem]
  | .regionWrite _ _ _ => [.regs, .head, .fc, .host, .hh, .mem, .out]
  | .regionEffect => [.regs, .head, .host, .mem, .hbm, .out]
  | .poolFill _ _ _ | .multicastPut _ _ _ => [.regs, .head, .fc, .host, .hh, .tiles, .mem, .queues, .hbm, .out, .freeIdx]
  | .holdExpiry _ | .poolFlushDone _ => [.regs, .head, .tiles]
  | .arm _ _ _ | .append _ _ | .rearm _ _ _ | .resume _ _ | .stop _ _ => [.regs, .head, .fc, .host, .hh, .queues, .out]
  | .transferIssue _ _ | .fetchErr _ | .fetchTimeout _ => [.regs, .head, .fc, .host, .hh, .tbl, .mem, .queues, .hbm, .out]
  | .transferComplete _ _ _ => [.regs, .head, .fc, .host, .hh, .au, .ce, .tiles, .stems, .mem, .queues, .hbm, .out, .freeIdx]
  | .queueLaunchSend _ => [.regs, .head, .fc, .tiles, .stems, .queues, .out]
  | .endNotification _ => [.regs, .head, .tiles, .stems, .queues, .out]
  | .pageRequestResponse _ _ => [.regs, .head, .boot, .fc, .ce, .tiles, .mem, .queues, .hbm, .out]
  | .putDelivery _ _ => [.regs, .head, .fc, .host, .hh, .csi, .isp, .tiles, .stems, .mem, .queues, .hbm, .out]
  | .multicastAck _ _ | .fold _ => [.regs, .head, .fc, .tiles, .queues, .out, .freeIdx]
  | .pfFlr => [.regs, .head, .boot, .fc, .host, .sec, .ce, .isp, .tiles, .mem, .queues, .hbm, .out]
  | .vfFlr _ | .stopInterfaceRequest _ _ => [.regs, .head, .host, .sec, .tiles, .mem, .queues, .hbm, .out]
  | .d3hotEntry _ => [.host]
  | .msixUnmask _ _ _ => [.host, .out]
  | .invalidateRequest _ _ _ _ => [.regs, .head, .queues]
  | .create _ _ | .bind _ _ _ | .unbind _ _ | .destroy _ _ =>
    [.regs, .head, .fc, .host, .hh, .isp, .tiles, .mem, .queues, .out, .freeIdx]
  | .bindComplete _ => [.regs, .head, .host, .hh, .out, .freeIdx]
  | .destroyComplete _ => [.regs, .head, .host, .sec, .isp, .tiles, .mem, .queues, .hbm, .out]
  | .doeDiscovery _ | .getDigests _ | .getCertificate _ _ _ _ | .avsRetry _ => [.regs, .head, .out]
  | .getVersion _ | .getCapabilities _ | .negotiateAlgorithms _ _ | .keyExchange _ _ _ | .finish _ _ | .heartbeat _ _
  | .keyUpdate _ _ | .endSession _ _ | .ideKmQuery _ | .getTdispVersion _ _ | .getTdispCapabilities _ _
  | .getDeviceInterfaceReport _ _ | .getDeviceInterfaceState _ _ | .startInterfaceRequest _ _ | .slotQuery _ _ =>
    [.regs, .head, .sec, .out]
  | .challenge _ _ _ | .getMeasurements _ _ _ => [.regs, .head, .out, .freeIdx]
  | .sessionTimeout _ _ => [.sec]
  | .keyProg _ _ _ _ | .kSetGo _ _ _ _ | .kSetStop _ _ _ _ | .integrityFailure _ => [.regs, .head, .host, .hh, .sec, .queues, .out]
  | .lockInterfaceRequest _ _ => [.regs, .head, .fc, .sec, .isp, .tiles, .mem, .out]
  | .keyDeliver _ _ _ _ _ _ => [.regs, .head, .sec, .mem, .out]
  | .keyErase _ _ _ _ => [.regs, .head, .sec, .tbl, .mem, .out]
  | .assign _ _ _ _ | .retire _ _ => [.regs, .head, .fc, .host, .hh, .tbl, .mem, .out]
  | .erasureConfirmed _ => [.regs, .head, .mem]
  | .expertGrantWrite _ _ _ => [.regs, .head, .fc, .host, .hh, .isp, .tiles, .mem, .out]
  | .fixedDealEnable _ _ => [.regs, .head, .fc, .host, .hh, .sec, .out]
  | .hello _ => [.regs, .head, .fc, .hh, .tbl]
  | .leave _ => [.regs, .head, .fc, .hh, .tbl, .queues, .out]
  | .bid _ | .award _ | .lendAccept _ | .roundDecision => [.regs, .tt, .head, .boot, .pwr, .fc, .host, .hh, .tbl, .mem, .hbm, .out]
  | .fetchReq _ | .lendReq _ | .lendOffer _ | .lendData _ | .lendEnd _ | .service _ | .join _ _ | .svcTxTailWrite _ _ _ =>
    [.regs, .head, .fc, .host, .hh, .tbl, .mem, .hbm, .out]
  | .fetchData _ => [.regs, .head, .fc, .host, .hh, .tbl, .au, .ce, .tiles, .stems, .mem, .queues, .hbm, .out, .freeIdx]
  | .helloTimer _ => [.regs, .head, .tbl, .out]
  | .membershipTimeout _ => [.regs, .head, .fc, .tbl, .queues, .out]
  | .awardTimeout => [.regs, .tt, .head, .boot, .pwr, .tbl]
  | .sync _ => [.tbl, .freeIdx]
  | .linkChange _ _ _ | .replayDone _ | .retrain _ _ _ | .kittyCmdDone _ => [.regs, .head]
  | .drainEnd _ => [.regs, .head, .boot, .fc, .host, .tbl, .ce, .tiles, .mem, .queues, .hbm, .out, .freeIdx]
  | .revokeEnd _ => [.regs, .head, .pwr, .fc, .hh, .tbl, .au, .ce, .csi, .isp, .tiles, .stems, .mem, .out]
  | .resetEnd _ => [.regs, .head, .fc]
  | .reinstalled _ => [.regs, .head, .boot, .fc, .ce, .tiles, .mem, .hbm]
  | .watchdogFire => [.regs, .head, .fc, .csi, .isp, .tiles, .stems, .out, .freeIdx]
  | .checkpointComplete => [.regs, .head, .host, .hh, .tiles, .mem, .hbm, .out]
  | .throttleDecision _ => [.regs, .head, .pwr, .out]
  | .tempSensorUpdate _ _ => [.regs, .head, .boot, .pwr, .out]
  | .configurationRequest _ => [.regs, .head, .fc, .host, .sec, .isp, .tiles, .mem, .queues, .hbm, .out]
  | .returnToD0 _ => [.regs, .head, .host, .hh, .queues, .out]
  | .completionTimeout _ _ => [.regs, .head, .fc, .queues, .out]
  | .fsyncPulseEnd _ => [.csi, .out]
  | .syncInterval | .peerDelayMeasurement _ _ _ => [.tbl, .out, .freeIdx]

/-! ## Writes -/

/-- A write of a function to a page's register is admitted: it reaches the page, hand history does not replay it, and no write of the
management cores in the same beat stands over it (R8, R67, R71, R73, R82, R91, R539, R569). -/
def Admitted (s : State) (w : Func) (p : Page) (off : Nat) : Prop :=
  reach s w p off = .ok ∧ suppressed s w p = false ∧ (isHost w = true → s.head.mgmt.contains (pageBase p + off) = false)

/-- A read of a function reaches a page's register (R8, R32, R67, R71, R91). -/
def Readable (s : State) (w : Func) (p : Page) (off : Nat) : Prop :=
  senderLink s w = .ok ∧ hiddenFrom s w p = false ∧ pagePresent s.part p = true ∧
    (bootRunning s = true ∨ isGlobal p = true) ∧ (if keeperReg p off then domOn s 0 else pageOn s p) = true ∧
    heldWhole s (pagePower p) 0 = true

end Sys2Proof.Machine
end

