-- ==== Sys2Proof/Certificates/Slice0/Obligations.lean ====
section
/-! DEFINITION. The statements about the block, for the provers. -/

open Sys2Proof Sys2Proof.Machine

/-! ## The machine as a whole -/

/-- A step runs the command at the front of the queue on the state with the queue's rest, and idles on an empty queue. Choices of the model
that it rests on: log 1. -/
def Obligations.StepRunsFront : Prop :=
  (∀ c l s, s.pending = c :: l → step s = exec c { s with pending := l }) ∧ ∀ s, s.pending = [] → step s = .next s

/-- The state after reset: Table Time 0, every register at its reset value, no context, no deck, no transfer, no output, nothing waiting, and
every memory canonical. Choices of the model that it rests on: log 2, 4 and 5. -/
def Obligations.ResetLeaves : Prop :=
  State.reset.Canonical ∧ (∀ a, reg State.reset a = resetVal State.reset.part a) ∧ State.reset.tt.now = 0 ∧
    State.reset.boot.phase = .perst ∧ State.reset.boot.decks = [] ∧ State.reset.host.ctxs = [] ∧ State.reset.queues = [] ∧
    State.reset.out = [] ∧ State.reset.pending = [] ∧ ∀ a, memByte State.reset a = 0

/-- Every step keeps the register file and the memories canonical. Choices of the model that it rests on: log 4. -/
def Obligations.CanonicalKept : Prop := ∀ s t, s.Canonical → step s = .next t → t.Canonical

/-- No step changes a fuse but those of the anti-rollback counters, and none that is burnt becomes unburnt. -/
def Obligations.FusesOnlyBurn : Prop := ∀ s t, step s = .next t → Part.burnt s.part t.part

/-- Every command answers a next state in every state, and leaves the queue of waiting commands and every part of the state outside the ones
listed for it. Choices of the model that it rests on: log 1. -/
def Obligations.CommandsTouch : Prop := ∀ i s, Runs i s fun t => t.pending = s.pending ∧ AgreeBut (touches i) s t

/-! ## Resets, supplies and bring-up -/

/-- Power-on and PERST# leave nothing but the fuses; a loss of supply leaves nothing but the fuses, and no power; a burn that is under way
leaves each of its fuses burnt or not. Choices of the model that it rests on: log 4, 5 and 66. -/
def Obligations.DeviceResets : Prop :=
  (∀ s, Runs (.wholeDeviceReset true) s fun t =>
    t = { State.ofPart t.part with out := s.out, freeIdx := t.freeIdx, pending := s.pending } ∧ FusesCut s t) ∧
  (∀ s, s.boot.phase ≠ .unpowered → Runs (.wholeDeviceReset false) s fun t =>
    t = { State.ofPart t.part with boot := t.boot, out := s.out, freeIdx := t.freeIdx, pending := s.pending } ∧ FusesCut s t ∧
      t.boot = { (State.ofPart t.part).boot with mainPg := s.boot.mainPg, memPg := s.boot.memPg }) ∧
  (∀ s, Runs .powerLoss s fun t =>
    FusesCut s t ∧ (∀ a, reg t a = resetVal t.part a) ∧ t.boot.phase = .unpowered ∧ t.tt.run = false ∧ (∀ d, domOn t d = false) ∧
      t.hbm = [] ∧ t.tiles = [] ∧ t.boot.decks = [] ∧ t.host.ctxs = [] ∧ t.queues = [] ∧ t.sec.rom = none ∧ t.pending = s.pending)

/-- A failure of main power, and the shutdown 1 ms after a trip, drive both enables low; every domain but the keeper, the always-on domain and
the root of trust is off, every context, installed deck, open deck handle and the contents of HBM are lost, and the device waits for
PERST#. Choices of the model that it rests on: log 14 and 66. -/
def Obligations.MainPowerFails : Prop :=
  let lost (s t : State) : Prop :=
    t.boot.phase = .waitPerst ∧ t.boot.vrMain = false ∧ t.boot.vrMem = false ∧ t.boot.decks = [] ∧ t.boot.handles = [] ∧ t.hbm = [] ∧
      t.queues = [] ∧ t.host.ctxs = [] ∧ t.host.linkUp = false ∧ t.tt.run = false ∧ flag t pgTT Off.TT_STATUS 0 = false ∧
      (∀ d, 3 ≤ d → d < 15 → domOn t d = false) ∧ (∀ d, d < 3 → domOn t d = domOn s d) ∧ FusesCut s t ∧ t.sec = s.sec ∧
      (domOn s 3 = true → t.hh = HistSt.empty) ∧ t.pending = s.pending
  (∀ s, s.boot.vrMain = true → s.boot.phase ≠ .waitPerst → s.boot.phase ≠ .unpowered → Runs (.powerGoodFailure .main) s (lost s)) ∧
  (∀ s, s.boot.vrMem = true → s.boot.phase ≠ .waitPerst → s.boot.phase ≠ .unpowered → Runs (.powerGoodFailure .mem) s (lost s)) ∧
  (∀ s b, s.pwr.tripAt = some b → elapsed s b 1000000 = true → s.boot.phase ≠ .waitPerst → s.boot.phase ≠ .unpowered →
    Runs .tripShutdown s fun t => lost s t ∧ t.pwr.tripAt = none)

/-- Bring-up: power good and PERST# start the boot ROM, which fills the identity registers and computes the DeviceID key; link training opens
the PF and leaves the ROM waiting for its deck; the boot deck makes the dies ready, and the service reports itself ready. Choices of the
model that it rests on: log 2, 4 and 47. -/
def Obligations.BringUp : Prop :=
  let ready : Nat := pageBase pgMb + Off.MB_READY
  let events : Nat := pageBase pgMb + Off.EVT_RAW
  let starts (s t : State) : Prop :=
    t.boot.phase = .training ∧ flag t pgMb Off.MB_READY 0 = true ∧ RegsBut [ready, events] s t ∧ t.sec.rom = some (s.part.uds, deviceKey s) ∧
      t.boot = { s.boot with phase := .training, mainPg := true, memPg := true }
  (∀ s r, (match r with
      | .main => s.boot.vrMain
      | .mem => s.boot.vrMem) = true → s.boot.phase ≠ .waitPg → Runs (.powerGoodRise r) s fun t =>
    t = { s with boot := match r with
      | .main => { s.boot with mainPg := true }
      | .mem => { s.boot with memPg := true } }) ∧
  (∀ s r, s.boot.vrMain = true → s.boot.vrMem = true → s.boot.phase = .waitPg → s.part.fuseBad = false →
    (match r with
      | .main => s.boot.memPg
      | .mem => s.boot.mainPg) = true → Runs (.powerGoodRise r) s (starts s)) ∧
  (∀ s, s.boot.phase = .perst → s.boot.mainPg = true → s.boot.memPg = true → s.part.fuseBad = false →
    Runs .perstDeassert s (starts s)) ∧
  (∀ s, s.boot.phase = .perst → s.boot.mainPg = true → s.boot.memPg = true → s.part.fuseBad = true →
    Runs .perstDeassert s fun t => t = { s with boot := { s.boot with phase := .fuseStop } }) ∧
  (∀ s width speed fail, width < 8 → speed < 16 → s.boot.phase = .training → Runs (.linkTrained width speed fail) s fun t =>
    t.boot = { s.boot with phase := .up } ∧ t.host = { s.host with linkUp := true } ∧ flag t pgMb Off.MB_READY 1 = true ∧
      t.out = s.out ++ [.ltr 50] ∧ fld t pgPcie Off.PCIE_LINK 0 3 = width ∧ fld t pgPcie Off.PCIE_LINK 3 4 = speed ∧ flag t pgPcie Off.PCIE_LINK 7 = fail ∧
      RegsBut [ready, events, pageBase pgPcie + Off.PCIE_LINK] s t) ∧
  (∀ s, s.part.stackCount ≤ 2 → flag s pgMb Off.MB_READY 2 = true → flag s pgMb Off.MB_READY 3 = false → Runs .diesReady s fun t =>
    flag t pgMb Off.MB_READY 3 = true ∧ t.hbm = [] ∧ t.mem.poison = [] ∧ sget ⟨0, 0, 0, []⟩ t.mem.keys 0 = ⟨2, 0, 0, []⟩ ∧
      ∀ n, n < s.part.stackCount → domOn s (5 + n) = true → fld t (pgMc n) Off.MC_STATUS 0 3 = 3 ∧ flag t (pgQe n) Off.CTRL 0 = true) ∧
  ∀ s, flag s pgMb Off.MB_READY 4 = true → s.boot.regInit = [] → flag s pgMb Off.MB_READY 5 = false → s.host.ctxs = [] →
    Runs .serviceReady s fun t =>
      flag t pgMb Off.MB_READY 5 = true ∧ flag t pgCe Off.CTRL 0 = true ∧ t.out = s.out ∧
        (∀ d ∈ s.boot.decks, d.kind = 3 → d.slot < 16 → flag t pgMb Off.MB_READY (16 + d.slot) = true) ∧
        RegsBut [ready, events, pageBase pgCe + Off.CTRL] s t

/-! ## Decks -/

/-- Deck streams: DECK_BEGIN opens the lowest free handle, STAGING_WRITE fills the staging buffer, and a chunk, or a completion of the scatter
list that DECK_DMA reads, either extends its handle's bytes or closes the handle refused; a chunk that passes every check it makes due
completes with the bytes received; DECK_DMA answers once its list is read, and refuses the deck where the list cannot be read; a
translation miss asks for the page, and a response of Success reads on from the same byte; other handles stay. Choices of the model that
it rests on: log 19, 45, 64 and 66. -/
def Obligations.DeckStreams : Prop :=
  let free (s : State) (w : Func) : Prop :=
    Admitted s w pgMb Off.MB_CMD ∧ deviceFatal s = false ∧ mbBusy s = false ∧ flag s pgMb Off.CTRL 0 = true
  let mine : List Nat := [pageBase pgMb + Off.MB_CMD, hhLost]
  let chunk (s : State) : List Byte := (List.range (mbArg s 1)).map fun i => sget 0 s.boot.staging i
  let others (h : Nat) (s t : State) : Prop := ∀ k, k ≠ h → handleOf t k = handleOf s k
  (∀ s w, free s w → ((flag s pgMb Off.MB_READY 1 = true ∧ mbArg s 1 % 2 = 0) ∨ flag s pgMb Off.MB_READY 3 = true) →
    s.boot.handles.length < 4 → (mbArg s 1 % 2 = 0 → ∀ e ∈ s.boot.handles, e.2.dma = true) → 0x3000 ≤ mbArg s 0 →
    mbArg s 0 ≤ 0xFFFFF000 → Runs (.deckBegin w) s fun t => ∃ h < 4, handleOf s h = none ∧ (∀ k < h, handleOf s k ≠ none) ∧
      handleOf t h = some ⟨mbArg s 1 % 2 == 1, mbArg s 0, [], false, [], false, ⟨[], []⟩⟩ ∧ others h s t ∧ t.boot.cmd = some ⟨1, h, 0, 0xFF, h⟩ ∧
      mbBusy t = true ∧ RegsBut mine s t) ∧
  (∀ s off data, hostLink s .pf = .ok → (mbBusy s = true → fld s pgMb Off.MB_CMD 0 8 ≠ 2) →
    off + data.length ≤ 0x2000000 → Runs (.stagingWrite off data) s fun t =>
      t = { s with boot := { s.boot with staging := t.boot.staging } } ∧
        (∀ i (h : i < data.length), sget 0 t.boot.staging (off + i) = data[i]) ∧
        ∀ a, a < 0x2000000 → (a < off ∨ off + data.length ≤ a) → sget 0 t.boot.staging a = sget 0 s.boot.staging a) ∧
  (∀ s w h x, free s w → h < 4 → handleOf s h = some x → x.dma = false → mbArg s 0 = x.bytes.length → 1 ≤ mbArg s 1 →
    mbArg s 1 ≤ 0x2000000 →
    ((mbArg s 1 % 4096 = 0 ∧ x.bytes.length + mbArg s 1 ≤ x.total) ∨ x.bytes.length + mbArg s 1 = x.total) →
    Runs (.deckChunk w h) s fun t => others h s t ∧ (handleOf t h = none ∨ ∃ units, handleOf t h = some { x with
      bytes := x.bytes ++ chunk s
      units := units })) ∧
  (∀ s w h x, free s w → h < 4 → handleOf s h = some x → x.dma = false → mbArg s 0 = x.bytes.length → 1 ≤ mbArg s 1 →
    mbArg s 1 ≤ 0x2000000 →
    ((mbArg s 1 % 4096 = 0 ∧ x.bytes.length + mbArg s 1 ≤ x.total) ∨ x.bytes.length + mbArg s 1 = x.total) →
    let v : Word := BitVec.ofNat 32 (2 + 256 * h + 2 ^ 31)
    (deckArrive h (chunk s) (wr pgMb Off.MB_CMD v (recordWrite w pgMb Off.MB_CMD v s))).1 = none →
    Runs (.deckChunk w h) s fun t => others h s t ∧ t.boot.cmd = some ⟨2, h, 0, 0xFF, x.bytes.length + mbArg s 1⟩ ∧
      ∃ units, handleOf t h = some { x with bytes := x.bytes ++ chunk s, units := units }) ∧
  (∀ s w h x list, free s w → h < 4 → handleOf s h = some x → x.dma = true → x.dmaRun = false → x.bytes = [] → 1 ≤ mbArg s 2 →
    mbArg s 2 ≤ 4096 → list.length < 16 * mbArg s 2 → Runs (.deckDma w h list) s fun t =>
      handleOf t h = none ∧ others h s t ∧ (t.boot.cmd.map fun c => (c.op, c.handle, c.code)) = some (3, h, 0x11)) ∧
  (∀ s w h x list, free s w → h < 4 → handleOf s h = some x → x.dma = true → x.dmaRun = false → x.bytes = [] → 1 ≤ mbArg s 2 →
    mbArg s 2 ≤ 4096 → 16 * mbArg s 2 ≤ list.length → (∀ e ∈ (scatter list (mbArg s 2)).dropLast, e.2 % 4096 = 0) →
    (scatter list (mbArg s 2)).foldl (fun k e => k + e.2) 0 = x.total → Runs (.deckDma w h list) s fun t =>
      handleOf t h = some { x with dmaRun := true, list := scatter list (mbArg s 2) } ∧ others h s t ∧
        t.boot.cmd = some ⟨3, h, 0, 0xFF, 0⟩ ∧ RegsBut mine s t ∧
        t.out = s.out ++ .hostRead 0 (mbArg s 0 + 2 ^ 32 * mbArg s 1) (16 * mbArg s 2) ::
          (scatter list (mbArg s 2)).map fun e => .hostRead 0 e.1 e.2) ∧
  (∀ s h x bs, handleOf s h = some x → x.dmaRun = true → x.pri = false → Runs (.deckDmaCompletion h (some (.bytes bs))) s fun t =>
    others h s t ∧ (handleOf t h = none ∨ ∃ units, handleOf t h = some { x with
      bytes := x.bytes ++ bs.take (x.total - x.bytes.length)
      units := units
      dmaRun := !decide (x.total ≤ x.bytes.length + (bs.take (x.total - x.bytes.length)).length) })) ∧
  (∀ s h x ans, handleOf s h = some x → x.dmaRun = true → x.pri = false → (∀ bs, ans ≠ .bytes bs) →
    Runs (.deckDmaCompletion h (some ans)) s fun t => others h s t ∧ handleOf t h = none) ∧
  (∀ s h x, handleOf s h = some x → x.dmaRun = true → x.pri = false → Runs (.deckDmaCompletion h none) s fun t =>
    handleOf t h = some { x with pri := true } ∧ others h s t ∧ Counted pgPcie Off.PCIE_CNT_PRI 1 s t ∧ RegsBut [pageBase pgPcie + Off.PCIE_CNT_PRI] s t ∧
      t.out = s.out ++ [.pageRequest 0 (scatterAt x.list x.bytes.length).1]) ∧
  (∀ s h x, h < 4 → handleOf s h = some x → x.pri = true → Runs (.pageRequestResponse (2 ^ 18 + h) 0) s fun t =>
    handleOf t h = some { x with pri := false } ∧ others h s t ∧ RegsBut [] s t ∧
      t.out = s.out ++ [.hostRead 0 (scatterAt x.list x.bytes.length).1 (scatterAt x.list x.bytes.length).2]) ∧
  ∀ s h x code, h < 4 → handleOf s h = some x → x.pri = true → code ≠ 0 → Runs (.pageRequestResponse (2 ^ 18 + h) code) s fun t =>
    handleOf t h = none ∧ others h s t

/-- Decks end: DECK_FINISH installs a complete deck and closes its handle, DECK_ABORT closes one, MODEL_UNLOAD frees a model slot, SVN_COMMIT
burns a counter up to the lowest SVN installed under it, at most 64, a burn that is complete when its result is posted, and RESTORE_DONE
ends the restore; a page that is not enabled starts no command. Choices of the model that it rests on: log 19, 45, 46 and 64. -/
def Obligations.DecksEnd : Prop :=
  let free (s : State) (w : Func) : Prop :=
    Admitted s w pgMb Off.MB_CMD ∧ deviceFatal s = false ∧ mbBusy s = false ∧ flag s pgMb Off.CTRL 0 = true
  let others (h : Nat) (s t : State) : Prop := ∀ k, k ≠ h → handleOf t k = handleOf s k
  (∀ s w h x, free s w → h < 4 → handleOf s h = some x → x.total ≤ x.bytes.length → s.boot.reload = [] →
    (deckKind x.bytes = 3 → mbArg s 0 < 16 ∧ modelDeck s (mbArg s 0) = none) →
    (unitRuns x.units.main).length + (unitRuns x.units.restore).length ≤ (freeEntries s).length → Runs (.deckFinish w h) s fun t =>
      (⟨deckKind x.bytes, if deckKind x.bytes = 3 then mbArg s 0 else 0, x.bytes, x.units⟩ : Deck) ∈ t.boot.decks ∧
        handleOf t h = none ∧ others h s t ∧ (t.boot.cmd.map fun r => (r.op, r.handle, r.code)) = some (4, h, 0)) ∧
  (∀ s w h x, free s w → h < 4 → handleOf s h = some x → Runs (.deckAbort w h) s fun t => handleOf t h = none ∧ others h s t) ∧
  (∀ s w d ds, free s w → flag s pgMb Off.MB_READY 2 = true → mbArg s 0 < 16 →
    (s.boot.decks.filter fun d => deckArb d.bytes == mbArg s 0) = d :: ds → Runs (.svnCommit w) s fun t =>
      t.boot.burn = some (mbArg s 0, Nat.min 64 ((ds.map fun d => deckSvn d.bytes).foldl Nat.min (deckSvn d.bytes))) ∧
        t.part = s.part ∧ t.boot.cmd = some ⟨6, 0, 0, 0xFF, 0⟩ ∧ RegsBut [pageBase pgMb + Off.MB_CMD, hhLost] s t) ∧
  (∀ s k n d, s.tt.run = true → s.boot.cmd = some ⟨6, 0, 0, 0xFF, d⟩ → s.boot.burn = some (k, n) → s.boot.regInit = [] →
    s.tt.commits = [] → s.head.deals = [] → s.host.waiting = [] → k < s.part.arb.length → Runs .beat s fun t =>
      t.part = { s.part with arb := t.part.arb } ∧ t.part.arb.getD k 0 = (s.part.arb.getD k 0 ||| fusesTo n) ∧
        (∀ j, j ≠ k → t.part.arb.getD j 0 = s.part.arb.getD j 0) ∧ t.boot.cmd = none ∧ t.boot.burn = none) ∧
  (∀ s w k, free s w → flag s pgMb Off.MB_READY 2 = true → mbArg s 0 < 16 → modelDeck s (mbArg s 0) = some k →
    boundTo s (mbArg s 0) = [] → Runs (.modelUnload w) s fun t =>
      modelDeck t (mbArg s 0) = none ∧ (∀ d ∈ s.boot.decks, (d.kind = 3 ∧ d.slot = mbArg s 0) ∨ d ∈ t.boot.decks) ∧
        t.boot.cmd = some ⟨7, 0, 0, 0xFF, 0⟩) ∧
  (∀ s w h list, Admitted s w pgMb Off.MB_CMD → deviceFatal s = false → mbBusy s = false → flag s pgMb Off.CTRL 0 = false →
    ∀ i ∈ [Instr.deckBegin w, .deckChunk w h, .deckDma w h list, .deckFinish w h, .deckAbort w h, .svnCommit w, .modelUnload w],
      Runs i s fun t => t.boot = s.boot ∧ mbBusy t = false ∧ RegsBut [pageBase pgMb + Off.MB_CMD, hhLost] s t) ∧
  ∀ s, flag s pgPower Off.PWR_STATE 9 = true → 2 ≤ pwrState s → pwrState s ≤ 4 → pwrPhase s = 0 →
    domainsAt s (restoreLevel s) = true → Runs .restoreDone s fun t =>
    t.pwr.settling = true ∧ flag t pgPower Off.PWR_STATE 9 = false ∧ flag t pgPower Off.EVT_RAW Evt.PWR_RESTORE_DONE = true ∧ pwrState t = pwrState s

/-! ## Table Time -/

/-- The beat, the crossings and the RTC: a beat pulse moves Table Time to the next multiple of 64, or to the first one at or above the time
loaded on the way out of Ante, applies the load or step that waits, and no step moves it backward; a message that is due commits in the
order of its commit beat and its sender, one that reaches a relaxed island on arrival, a late one after all, by its sender and send beat,
with its event, its counter and the loss of REPLAYABLE; one that has been discarded never commits; the RTC keeps time in 1/64 ticks, and
its count comes back into the main counter at the realignment. Choices of the model that it rests on: log 8, 9, 11, 58 and 59. -/
def Obligations.TimeKept : Prop :=
  let boundary (s : State) : Nat := Nat.min (if s.tt.realigned then ceilDiv s.tt.now 64 * 64 else (s.tt.now / 64 + 1) * 64) lastBeat
  let flits := flitRegs
  let crosses (s : State) (src dst stamp : Nat) : Prop :=
    islandUsed src = true ∧ islandUsed dst = true ∧ s.tt.run = true ∧ holdsNumber s dst 0 = true ∧
      holdsNumber s src (pulsesSince s (sendBeat s stamp)) = true
  let onTime (s : State) (src dst stamp : Nat) : Prop :=
    s.tt.firstDue ≤ sendBeat s stamp + crossingBeats src dst ∧ sendBeat s stamp + crossingBeats src dst ≤ beatNo s
  let taken (src dst order : Nat) (payload : Payload) (s t : State) : Prop :=
    t = { s with regs := t.regs, head := { s.head with counts := t.head.counts }, tt := { s.tt with commits := t.tt.commits } } ∧
      RegsBut (flits (islandDie src) (islandDie dst)) s t ∧
      (islandDie src = islandDie dst → islandDie src < 4 → Counted ⟨.mesh, islandDie src⟩ Off.NOC_CNT_FLITS 1 s t) ∧
      (∀ c, c ∈ t.tt.commits ↔ c = ⟨src, dst, order, payload, false⟩ ∨ c ∈ s.tt.commits) ∧
      (s.tt.commits.Pairwise (fun a b => a.order ≤ b.order) → t.tt.commits.Pairwise fun a b => a.order ≤ b.order)
  (∀ s, s.tt.run = true → s.boot.regInit = [] → s.host.waiting = [] → (∀ c ∈ s.tt.commits, ∃ n, c.payload = .tag n) →
    Runs .beat s fun t =>
      t.tt.beats = s.tt.beats + 1 ∧ t.tt.run = true ∧ t.tt.pend = [] ∧ t.tt.commits = [] ∧ t.tt.realigned = false ∧
        (s.tt.pend = [] → t.tt.now = boundary s) ∧ (∀ v, s.tt.pend = [(true, v)] → t.tt.now = v % 2 ^ 64) ∧
        (∀ v, s.tt.pend = [(false, v)] → boundary s + v ≤ lastBeat → t.tt.now = boundary s + v) ∧
        ∀ v, s.tt.pend = [(false, v)] → lastBeat < boundary s + v → boundary s ≤ t.tt.now ∧ t.tt.now ≤ lastBeat) ∧
  (∀ s, s.tt.run = false → exec .beat s = .next s) ∧
  (∀ s src dst stamp payload, crosses s src dst stamp → onTime s src dst stamp → Runs (.crossingCommit src dst stamp payload) s fun t =>
    taken src dst ((sendBeat s stamp + crossingBeats src dst) * 128 + src) payload s t) ∧
  (∀ s src dst stamp payload, crosses s src dst stamp → ¬ onTime s src dst stamp → relaxed s dst = true →
    inTime s src dst (sendBeat s stamp) = true →
    Runs (.crossingCommit src dst stamp payload) s fun t => taken src dst (2 ^ 80) payload s t) ∧
  (∀ s src dst stamp payload, crosses s src dst stamp → ¬ onTime s src dst stamp → inTime s src dst (sendBeat s stamp) = false →
    exec (.crossingCommit src dst stamp payload) s = .next s) ∧
  (∀ s src dst stamp payload, crosses s src dst stamp → islandDie src ≠ islandDie dst → relaxed s dst = false →
    sendBeat s stamp + crossingBeats src dst < beatNo s → beatNo s ≤ sendBeat s stamp + 192 →
    Runs (.lateCommit src dst stamp payload) s fun t =>
      (⟨src, dst, 2 ^ 80 + src * 2 ^ 64 + sendBeat s stamp, payload, true⟩ : Commit) ∈ t.tt.commits ∧ replayable t = false ∧
        flag t pgTT Off.EVT_RAW Evt.TT_LATE_COMMIT = true ∧
        (rd t pgTT Off.TT_CNT_LATE_COMMIT).toNat = satNat 0xFFFFFFFF ((rd s pgTT Off.TT_CNT_LATE_COMMIT).toNat + 1) ∧
        RegsBut ((pageBase pgTT + Off.EVT_RAW) :: (pageBase pgTT + Off.TT_CNT_LATE_COMMIT) :: hhLost ::
          flits (islandDie src) (islandDie dst)) s t) ∧
  (∀ s, s.tt.run = false → domOn s 0 = true → s.tt.keeping = true → s.tt.frac < 64 → s.tt.kept + 40000 < 2 ^ 64 → s.head.deals = [] →
    levelsDue s = none → Runs .rtcEdge s fun t =>
      t.tt.frac < 64 ∧
        (64 * t.tt.kept + t.tt.frac : Int) = 64 * s.tt.kept + s.tt.frac + 30517 * 64 + 37 + signed 8 (fld s pgTT Off.TT_RTC_TRIM 0 8) ∧
        RegsBut [] s t) ∧
  (∀ s, s.tt.run = false → domOn s 0 = true → s.tt.keeping = false → s.tt.now + 30518 < 2 ^ 64 → s.head.deals = [] → levelsDue s = none →
    Runs .rtcEdge s fun t =>
      t.tt.keeping = true ∧ t.tt.frac = 0 ∧ (∃ d < 30518, t.tt.kept = s.tt.now + d) ∧ flag t pgTT Off.TT_STATUS 1 = true ∧
        RegsBut [pageBase pgTT + Off.TT_STATUS] s t) ∧
  (∀ s ticks, s.tt.run = true → Runs (.rtcMeasurement ticks) s fun t =>
    rd t pgTT Off.TT_RTC_MEAS = BitVec.ofNat 32 ticks ∧ t = { s with regs := t.regs } ∧ RegsBut [pageBase pgTT + Off.TT_RTC_MEAS] s t) ∧
  ∀ s, s.tt.keeping = true → s.tt.run = false → s.tt.locking = true → Runs .anteRealign s fun t =>
    t.tt = { s.tt with now := s.tt.kept, frac := 0, keeping := false, run := true, realigned := true, locking := false } ∧
      flag t pgTT Off.TT_STATUS 0 = true ∧ flag t pgTT Off.TT_STATUS 1 = false ∧ flag t pgTT Off.EVT_RAW Evt.TT_ANTE_REALIGN = true ∧
      RegsBut [pageBase pgTT + Off.TT_STATUS, pageBase pgTT + Off.EVT_RAW] s t

/-- Table Time is read and changed: a load while nothing disciplines it and no context exists, or a forward step, waits for the next boundary
with its low six bits 0; a read of TT_NOW_LO answers a timestamp of the present beat and latches its high half; a write of the relax mask
leaves the mask in force as it is until the next beat. Choices of the model that it rests on: log 8 and 10. -/
def Obligations.TimeChanged : Prop :=
  let offset (s : State) : Nat := rd64 s pgTT Off.TT_LOAD_LO Off.TT_LOAD_HI / 64 * 64
  (∀ s w disc, Admitted s w pgTT Off.TT_CTRL → flag s pgTT Off.TT_CTRL 2 = false → anyContext s = false →
    Runs (.load w disc) s fun t =>
      t.tt = { s.tt with pend := s.tt.pend ++ [(true, offset s)] } ∧ flag t pgTT Off.TT_CTRL 2 = disc ∧
        RegsBut [pageBase pgTT + Off.TT_CTRL, hhLost] s t) ∧
  (∀ s w disc, Admitted s w pgTT Off.TT_CTRL → Runs (.step w disc) s fun t =>
    t.tt = { s.tt with pend := s.tt.pend ++ [(false, offset s)] } ∧ flag t pgTT Off.TT_CTRL 2 = disc ∧
      RegsBut [pageBase pgTT + Off.TT_CTRL, hhLost] s t) ∧
  (∀ s w, w = .pf ∨ w = .mgmt → senderLink s w = .ok → domOn s 0 = true → heldWhole s (pagePower pgTT) 0 = true → Runs (.ttNowRead w) s fun t =>
    ∃ x, x < 64 ∧ t.out = s.out ++ [.readData w (pageBase pgTT + Off.TT_NOW_LO) ((64 * beatNo s + x) % 2 ^ 32)] ∧
      rd t pgTT Off.TT_NOW_HI = BitVec.ofNat 32 ((64 * beatNo s + x) / 2 ^ 32) ∧
      RegsBut [pageBase pgTT + Off.TT_NOW_LO, pageBase pgTT + Off.TT_NOW_HI] s t) ∧
  ∀ s w k v, k < 4 → Admitted s w pgTT (Off.TT_RELAX + 4 * k) → Runs (.relaxMaskWrite w k v) s fun t =>
    (∀ b, b < 32 → islandUsed (32 * k + b) = true → bitOf (rd t pgTT (Off.TT_RELAX + 4 * k)) b = bitOf v b) ∧ t.tt.relax = s.tt.relax ∧
      RegsBut [pageBase pgTT + (Off.TT_RELAX + 4 * k), hhLost] s t

/-- TT_RATE_ADJ takes the value written, clamped to ±274,877,907, and a write outside that range sets RATE_CLAMPED. -/
def Obligations.RateClamped : Prop :=
  ∀ s w (v : Word), Admitted s w pgTT Off.TT_RATE_ADJ → Runs (.rateAdjustment w v) s fun t =>
    (rd t pgTT Off.TT_RATE_ADJ).toInt = max (-274877907) (min 274877907 v.toInt) ∧
      (v.toInt < -274877907 ∨ 274877907 < v.toInt → flag t pgTT Off.EVT_RAW Evt.TT_RATE_CLAMPED = true) ∧
      (-274877907 ≤ v.toInt → v.toInt ≤ 274877907 → RegsBut [pageBase pgTT + Off.TT_RATE_ADJ, hhLost] s t) ∧
      RegsBut [pageBase pgTT + Off.TT_RATE_ADJ, pageBase pgTT + Off.EVT_RAW, pageBase pgTT + Off.TT_CNT_CLAMPS, hhLost] s t

/-! ## The common page head -/

/-- A write of DEAL_CTRL arms or cancels a deal; a deal's launch sets DEAL_FIRED, and DEAL_LATE where it is late, serves the latest target
that is due and counts the ones it skips; a VF neither arms nor cancels; a counter snapshot copies the page's counters. A late one-shot
deal that is to be discarded is missed, as it is armed or as it is launched. Choices of the model that it rests on: log 13, 60, 61 and 62. -/
def Obligations.Deals : Prop :=
  let late (s : State) (p : Page) : Bool := decide (ceilDiv (dealAt s p) 64 ≤ beatNo s)
  let ctl (p : Page) : Nat := pageBase p + Off.DEAL_CTRL
  let evt (p : Page) : Nat := pageBase p + Off.EVT_RAW
  let due (s : State) (p : Page) (d : DealSt) (action : Nat) : Prop :=
    dealOf s p = some d ∧ fld s p Off.DEAL_CTRL 4 4 = action ∧ dealPower s p action = true ∧ d.able ≤ beatNo s ∧
      (dealEnabled s p = true ∨ action = 1)
  (∀ s w p disc action period, (∀ n, w ≠ .vf n) → Admitted s w p Off.DEAL_CTRL → flag s p Off.DEAL_CTRL 0 = false → action < 16 →
    period < 2 ^ 24 → ¬ (late s p = true ∧ period = 0 ∧ disc = true) → Runs (.dealArm w p disc action period) s fun t =>
      flag t p Off.DEAL_CTRL 0 = true ∧ flag t p Off.DEAL_CTRL 2 = disc ∧ fld t p Off.DEAL_CTRL 4 4 = action ∧
        fld t p Off.DEAL_CTRL 8 24 = period ∧ (pageBase p, ⟨0, beatNo s + ofBool (late s p)⟩) ∈ t.head.deals ∧ RegsBut [ctl p, hhLost] s t) ∧
  (∀ s w p action, (∀ n, w ≠ .vf n) → Admitted s w p Off.DEAL_CTRL → flag s p Off.DEAL_CTRL 0 = false → late s p = true →
    Runs (.dealArm w p true action 0) s fun t =>
      flag t p Off.DEAL_CTRL 0 = false ∧ flag t p Off.EVT_RAW 2 = true ∧ t.head.deals = s.head.deals ∧ RegsBut [ctl p, evt p, hhLost] s t) ∧
  (∀ s w p, (∀ n, w ≠ .vf n) → Admitted s w p Off.DEAL_CTRL → flag s p Off.DEAL_CTRL 0 = true → Runs (.cancel w p) s fun t =>
    flag t p Off.DEAL_CTRL 0 = false ∧ dealOf t p = none ∧ RegsBut [ctl p, hhLost] s t) ∧
  (∀ s n p disc action period, Admitted s (.vf n) p Off.DEAL_CTRL →
    ∀ i ∈ [Instr.dealArm (.vf n) p disc action period, .cancel (.vf n) p], Runs i s fun t =>
      t.head.deals = s.head.deals ∧ RegsBut [hhLost] s t) ∧
  (∀ s p d, due s p d 0 → fld s p Off.DEAL_CTRL 8 24 = 0 → dealAt s p ≤ commitTime s →
    (flag s p Off.DEAL_CTRL 2 = true → dealLate s (dealAt s p) = false) → Runs (.dealLaunch p) s fun t =>
      flag t p Off.EVT_RAW 0 = true ∧ flag t p Off.EVT_RAW 1 = (flag s p Off.EVT_RAW 1 || dealLate s (dealAt s p)) ∧
        flag t p Off.DEAL_CTRL 0 = false ∧ dealOf t p = none ∧ RegsBut [ctl p, evt p] s t) ∧
  (∀ s p d, due s p d 0 → fld s p Off.DEAL_CTRL 8 24 = 0 → dealAt s p ≤ commitTime s → flag s p Off.DEAL_CTRL 2 = true →
    dealLate s (dealAt s p) = true → Runs (.dealLaunch p) s fun t =>
      flag t p Off.EVT_RAW 2 = true ∧ flag t p Off.EVT_RAW 0 = flag s p Off.EVT_RAW 0 ∧ flag t p Off.DEAL_CTRL 0 = false ∧
        dealOf t p = none ∧ RegsBut [ctl p, evt p] s t) ∧
  (∀ s p d, let period := 4 * fld s p Off.DEAL_CTRL 8 24
    let j := (commitTime s - dealAt s p) / period
    due s p d 0 → 0 < period → flag s p Off.DEAL_CTRL 2 = false → dealAt s p + d.k * period ≤ commitTime s → Runs (.dealLaunch p) s fun t =>
      flag t p Off.EVT_RAW 0 = true ∧ (pageBase p, { d with k := j + 1 }) ∈ t.head.deals ∧
        (rd t p Off.DEAL_SKIPPED).toNat = satNat 0xFFFFFFFF ((rd s p Off.DEAL_SKIPPED).toNat + (j - d.k)) ∧
        RegsBut [pageBase p + Off.DEAL_SKIPPED, evt p] s t) ∧
  ∀ s p d base, due s p d 1 → snapshotAt p = some base → fld s p Off.DEAL_CTRL 8 24 = 0 → dealAt s p ≤ commitTime s →
    (flag s p Off.DEAL_CTRL 2 = true → dealLate s (dealAt s p) = false) → Runs (.counterSnapshot p) s fun t =>
      flag t p Off.DEAL_CTRL 0 = false ∧ dealOf t p = none ∧ (∀ k, k < 32 → rd t p (base + 4 * k) = rd s p (0x80 + 4 * k)) ∧ flag t p Off.EVT_RAW 0 = true ∧
        RegsBut (ctl p :: evt p :: (List.range 32).map fun k => pageBase p + (base + 4 * k)) s t

/-- R47: while a deal is armed, a write of DEAL_AT_LO or DEAL_AT_HI, and a write of DEAL_CTRL without CANCEL, is ignored and counted as an
access error; a write of DEAL_CTRL with CANCEL is not ignored. -/
def Obligations.ArmedDealLocked : Prop :=
  let ignored (w : Func) (p : Page) (off : Nat) (s t : State) : Prop :=
    Counted pgFc Off.FC_CNT_ACCESS 1 s t ∧ Recorded 1 5 1 (pageDomain p) t ∧
      (t.fc.history.head?.map fun r => (r.addr, r.detail)) = some (pageBase p + off, funcCode w) ∧ t.head.deals = s.head.deals ∧
      RegsBut (hhLost :: (pageBase pgFc + Off.FC_CNT_ACCESS) :: recordRegs) s t
  (∀ s w a v list p off, (∀ n, w ≠ .vf n) → a % 4 = 0 → pageOf a = some (p, off) →
    off = Off.DEAL_AT_LO ∨ off = Off.DEAL_AT_HI ∨ (off = Off.DEAL_CTRL ∧ bitOf v 1 = false) → Admitted s w p off →
    flag s p Off.DEAL_CTRL 0 = true → Runs (.registerWrite w a [v] list) s (ignored w p off s)) ∧
  (∀ s w p disc action period, (∀ n, w ≠ .vf n) → Admitted s w p Off.DEAL_CTRL → flag s p Off.DEAL_CTRL 0 = true →
    Runs (.dealArm w p disc action period) s (ignored w p Off.DEAL_CTRL s)) ∧
  ∀ s w a v list p, (∀ n, w ≠ .vf n) → a % 4 = 0 → pageOf a = some (p, Off.DEAL_CTRL) → bitOf v 1 = true → Admitted s w p Off.DEAL_CTRL →
    flag s p Off.DEAL_CTRL 0 = true → Runs (.registerWrite w a [v] list) s fun t =>
      flag t p Off.DEAL_CTRL 0 = false ∧ dealOf t p = none ∧ RegsBut [pageBase p + Off.DEAL_CTRL, hhLost] s t

/-- Writes of CTRL, outside a fence: ENABLE, the request of a soft reset, the grant and the release of an expert unlock, and CNT_CLEAR, which
leaves in each counter what has been counted in the present beat. Enabling a capture group's page restarts its detectors, and the power
page's EXPERT gives the always-on regulator back to automatic control. Of the Call engine's page, where a write that leaves ENABLE at 1
also lets the engine start on its next block, the clauses speak while it has none to start on. Choices of the model that it rests on: log
44. -/
def Obligations.ControlWrites : Prop :=
  let base (s : State) (w : Func) (p : Page) : Prop :=
    Admitted s w p Off.CTRL ∧ phaseOf s (pageDomain p) = 0
  let still (s : State) (p : Page) (on : Bool) : Prop :=
    p.cls = .callEngine → on = true → s.ce.running = false ∨ busy s pgCe = true ∨ s.au.consume = s.au.writeIdx
  let own (s : State) (w : Func) (p : Page) : Prop :=
    base s w p ∧ (∀ n, w ≠ .vf n) ∧ (flag s p Off.CTRL 2 = true → fld s p Off.CTRL 4 5 = funcCode w)
  let ctl (p : Page) : List Nat := [pageBase p + Off.CTRL, hhLost]
  let skip (p : Page) (off : Nat) (s t : State) : Prop :=
    rd t p off = BitVec.ofNat 32 (satNat 0xFFFFFFFF (sget 0 s.head.counts (pageBase p + off)))
  (∀ s w p on, own s w p → still s p on → (on = flag s p Off.CTRL 0 ∨ s.queues = []) → Runs (.enable w p on) s fun t =>
    flag t p Off.CTRL 0 = on ∧ (∀ b, 0 < b → b < 32 → flag t p Off.CTRL b = flag s p Off.CTRL b) ∧
      RegsBut (if p.cls = .pdmIn ∨ p.cls = .beamformer then (pageBase (pgBf p.idx) + Off.WD_HOT) :: ctl p else ctl p) s t) ∧
  (∀ s w p, own s w p → still s p (flag s p Off.CTRL 0) → busy s p = false → Runs (.softReset w p) s fun t =>
    flag t p Off.CTRL 1 = (flag s p Off.CTRL 1 || !s.head.resetting.contains (pageBase p)) ∧ pageBase p ∈ t.head.resetting ∧
      RegsBut (ctl p) s t) ∧
  (∀ s w p, base s w p → still s p (flag s p Off.CTRL 0) → flag s p Off.CTRL 2 = false → expertGrant s w p = true → Runs (.expert w p) s fun t =>
    flag t p Off.CTRL 2 = true ∧ fld t p Off.CTRL 4 5 = funcCode w % 32 ∧ RegsBut (ctl p) s t) ∧
  (∀ s w p, base s w p → still s p (flag s p Off.CTRL 0) → flag s p Off.CTRL 2 = true → fld s p Off.CTRL 4 5 = funcCode w →
    Runs (.expertClear w p) s fun t =>
      flag t p Off.CTRL 2 = false ∧ (p.cls = .power → p.idx = 0 → rd t p Off.AON_REG_MANUAL = 2) ∧
        RegsBut (if p.cls = .power then (pageBase pgPower + Off.AON_REG_MANUAL) :: (pageBase pgPower + Off.AON_REG_STATUS) :: ctl p
          else ctl p) s t) ∧
  ∀ s w p, own s w p → still s p (flag s p Off.CTRL 0) → Runs (.cntClear w p) s fun t =>
    (∀ k, k < 32 → skip p (0x80 + 4 * k) s t) ∧ skip p Off.DEAL_SKIPPED s t ∧
      RegsBut ((pageBase p + Off.DEAL_SKIPPED) :: (((List.range 32).map fun k => pageBase p + (0x80 + 4 * k)) ++ ctl p)) s t

/-- Writes of the event registers: EVT_RAW clears the bits written 1 that hardware has not set in this beat, EVT_FORCE sets implemented bits,
but not for a VF, EVT_EN keeps implemented bits, EVT_ROUTE takes a vector that the tenant has. Choices of the model that it rests on: log
56. -/
def Obligations.EventWrites : Prop :=
  (∀ s w p v, Admitted s w p Off.EVT_RAW → Runs (.evtRawWrite w p v) s fun t =>
    (∀ b, b < 32 → flag t p Off.EVT_RAW b =
      (flag s p Off.EVT_RAW b && !(bitOf v b && !bitAt (sget 0 s.head.sets (pageBase p) % 2 ^ 32) b))) ∧
      pageBase p ∈ t.head.written ∧ RegsBut [pageBase p + Off.EVT_RAW, hhLost] s t) ∧
  (∀ s n p v, Admitted s (.vf n) p Off.EVT_FORCE → Runs (.evtForce (.vf n) p v) s fun t => RegsBut [hhLost] s t) ∧
  (∀ s w p v, (∀ n, w ≠ .vf n) → Admitted s w p Off.EVT_FORCE → Runs (.evtForce w p v) s fun t =>
    (∀ b, b < 32 → flag t p Off.EVT_RAW b = (flag s p Off.EVT_RAW b || (bitOf v b && decide (b ≤ evtTop p)))) ∧
      RegsBut [pageBase p + Off.EVT_RAW, hhLost] s t) ∧
  (∀ s w p v, Admitted s w p Off.EVT_EN → Runs (.evtEnWrite w p v) s fun t =>
    rd t p Off.EVT_EN = v &&& evtMask p ∧ pageBase p ∈ t.head.written ∧ RegsBut [pageBase p + Off.EVT_EN, hhLost] s t) ∧
  ∀ s w p v, Admitted s w p Off.EVT_ROUTE → vfOwned s p = false → (p.cls ≠ .context → fieldOf v 16 4 = 0) →
    fieldOf v 0 11 < vectorsOf (fieldOf v 16 4) → Runs (.evtRouteWrite w p v) s fun t =>
      fld t p Off.EVT_ROUTE 0 11 = fieldOf v 0 11 ∧ fld t p Off.EVT_ROUTE 16 4 = fieldOf v 16 4 ∧
        fld t p Off.EVT_ROUTE 20 2 = fieldOf v 20 2 ∧ RegsBut [pageBase p + Off.EVT_ROUTE, hhLost] s t

/-- Writes of registers by their addresses. A write of an aligned word replaces the RW bits and clears the W1C bits written 1 on the pages
whose registers have no condition of their own, but for the RW bits that the management cores have written in the same beat, and a write
whose order cannot be made good so waits for the next beat; at the address of EVT_EN it is that command. An aligned pair of words is two
writes, the lower address first, and an access of another width is a misaligned one. MISALIGNED_ACCESS completes with the effect that R13
gives it: a write is dropped whole and a read answers zeros, and the fault collector counts and records it. FENCE begins phase 1 of an
open domain and RELEASE ends phase 5; a command that has run longer than its timeout fences the domain of its page, or of its context's
work. Choices of the model that it rests on: log 9 and 54. -/
def Obligations.FencesAndWrites : Prop :=
  let status (d : Nat) (b : Nat) (t : State) : Prop := ∀ r, domainRoot d = some r → flag t r Off.FENCE_STATUS b = true
  (∀ s w a v list p off r, (∀ n, w ≠ .vf n) → a % 4 = 0 → pageOf a = some (p, off) → 0x100 ≤ off →
    p.cls ∈ [.pcie, .mgmtCores, .lowSpeed, .dieLink, .hbm, .meld] → regRow p off = some r → Admitted s w p off →
    Runs (.registerWrite w a [v] list) s fun t =>
      reg t a = ((reg s a &&& ~~~ BitVec.ofNat 32 r.rw) ||| (v &&& BitVec.ofNat 32 r.rw)) &&& ~~~ (v &&& BitVec.ofNat 32 r.w1c) ∧
        RegsBut [a, hhLost] s t ∧ (w = .mgmt → a ∈ t.head.mgmt)) ∧
  (∀ s a v list p off r, a % 4 = 0 → pageOf a = some (p, off) → 0x100 ≤ off →
    p.cls ∈ [.pcie, .mgmtCores, .lowSpeed, .dieLink, .hbm, .meld] → regRow p off = some r → reach s .pf p off = .ok →
    suppressed s .pf p = false → a ∈ s.head.mgmt → BitVec.ofNat 32 r.rw ≠ 0#32 → Runs (.registerWrite .pf a [v] list) s fun t =>
      reg t a &&& BitVec.ofNat 32 r.rw = reg s a &&& BitVec.ofNat 32 r.rw ∧ RegsBut [a, hhLost] s t) ∧
  (∀ s a v list p off, a % 4 = 0 → pageOf a = some (p, off) → 0x100 ≤ off → reach s .pf p off = .ok → a ∈ s.head.mgmt →
    standBits p off = 0#32 → (p.cls = .mailbox → off ≠ Off.MB_CMD) → Runs (.registerWrite .pf a [v] list) s fun t =>
      t = { s with host := { s.host with waiting := s.host.waiting ++ [.page .pf p off v []] } }) ∧
  (∀ s w a v list p, (∀ n, w ≠ .vf n) → pageOf a = some (p, Off.EVT_EN) →
    exec (.registerWrite w a [v] list) s = exec (.evtEnWrite w p v) s) ∧
  (∀ s w a v v' list, a % 8 = 0 → Runs (.registerWrite w a [v] list) s fun t =>
    exec (.registerWrite w a [v, v'] list) s = exec (.registerWrite w (a + 4) [v'] list) t) ∧
  (∀ s w a vs list, widthOk s w a vs.length = false →
    exec (.registerWrite w a vs list) s = exec (.misalignedAccess w true a) s) ∧
  (∀ s w a, senderLink s w = .ok → Runs (.misalignedAccess w true a) s fun t =>
    t.out = s.out ∧ Counted pgFc Off.FC_CNT_ACCESS 1 s t ∧ Recorded 1 1 1 (misalignedAt s w a) t ∧
      AgreeBut [.regs, .head, .fc] s t ∧ RegsBut ((pageBase pgFc + Off.FC_CNT_ACCESS) :: recordRegs) s t) ∧
  (∀ s w a, senderLink s w = .ok → Runs (.misalignedAccess w false a) s fun t =>
    t.out = s.out ++ [.readData w a 0] ∧ Counted pgFc Off.FC_CNT_ACCESS 1 s t ∧ Recorded 1 1 1 (misalignedAt s w a) t ∧
      AgreeBut [.regs, .head, .fc, .out] s t ∧ RegsBut ((pageBase pgFc + Off.FC_CNT_ACCESS) :: recordRegs) s t) ∧
  (∀ s w p drain, w = .pf ∨ w = .mgmt → Admitted s w p Off.FENCE_CTRL → domainRoot (pageDomain p) = some p →
    phaseOf s (pageDomain p) = 0 → Runs (.fence w p drain) s fun t =>
      phaseOf t (pageDomain p) = 1 ∧ flag t p Off.FENCE_STATUS 4 = true ∧ fld t p Off.FENCE_CTRL 8 16 = drain % 65536 ∧
        Raised pgFc Evt.FC_FENCE t ∧
        ∀ e, e ≠ pageDomain p → e ∉ cascadeOf (pageDomain p) → phaseOf t e = phaseOf s e) ∧
  (∀ s w p drain, w = .pf ∨ w = .mgmt → Admitted s w p Off.FENCE_CTRL → domainRoot (pageDomain p) = some p →
    phaseOf s (pageDomain p) = 5 → (∀ n, (fenceOf s (pageDomain p)).cascade = some n → phaseOf s n = 0) →
    Runs (.release w p drain) s fun t =>
      phaseOf t (pageDomain p) = 0 ∧ (∀ e ∈ t.fc.fences, e.1 ≠ pageDomain p) ∧ (s.queues = [] → Recorded 8 0 3 (pageDomain p) t) ∧
        ∀ e, e ≠ pageDomain p → phaseOf t e = phaseOf s e) ∧
  ∀ s p id c, pagePresent s.part p = true → pageOn s p = true → hasTimeout p = true → c ∈ cmdsOf s p → c.id = id →
    c.ticks ≠ 0 → elapsed s c.accept c.ticks = true → Runs (.cmdTimeout p id) s fun t =>
      Raised p 3 t ∧ ∀ d ∈ (if p.cls = .context then workDomains s p.idx else [pageDomain p]), domainLive s d = true → phaseOf s d = 0 →
        phaseOf t d = 1 ∧ status d 3 t

/-- Accesses that are discarded: a write to a page that is absent, powered off, fenced or whose expert range is locked changes no register
beyond its record and its counter; one that the link does not take completes with Unsupported Request, or waits for the link or for an
island that has just been powered, and one to a page that is read-only to its writer does nothing; a misaligned access is discarded or
reads zeros, and is recorded, at the PF's address that it stands for. Choices of the model that it rests on: log 63. -/
def Obligations.DiscardedAccesses : Prop :=
  let counted (s t : State) : Prop := Counted pgFc Off.FC_CNT_ACCESS 1 s t
  let record (kind a : Nat) (w : Func) (t : State) : Prop :=
    (t.fc.history.head?.map fun r => (r.source, r.code, r.severity, r.addr, r.detail, r.tenant)) =
      some (1, kind, 1, a, funcCode w, funcTenant w)
  let regs : List Nat := (pageBase pgFc + Off.FC_CNT_ACCESS) :: recordRegs
  (∀ s w p v kind, reach s w p Off.EVT_EN = .error kind → suppressed s w p = false → Runs (.evtEnWrite w p v) s fun t =>
    counted s t ∧ record kind (pageBase p + Off.EVT_EN) w t ∧ t.out = s.out ∧ RegsBut (hhLost :: regs) s t) ∧
  (∀ s w p v, reach s w p Off.EVT_EN = .unsupported → Runs (.evtEnWrite w p v) s fun t => t = { s with out := s.out ++ [.unsupported w] }) ∧
  (∀ s w p v, reach s w p Off.EVT_EN = .ignored → Runs (.evtEnWrite w p v) s fun t => t = s) ∧
  (∀ s w p v, reach s w p Off.EVT_EN = .waits → Runs (.evtEnWrite w p v) s fun t =>
    t = { s with host := { s.host with waiting := s.host.waiting ++ [.page w p Off.EVT_EN v []] } }) ∧
  (∀ s w write a, senderLink s w = .ok → Runs (.misalignedAccess w write a) s fun t =>
    counted s t ∧ record 1 ((pfAddr s w a).getD a) w t ∧ t.out = s.out ++ (if write then [] else [.readData w a 0]) ∧
      t.host = s.host ∧ RegsBut regs s t) ∧
  ∀ s w write a, senderLink s w = .unsupported → Runs (.misalignedAccess w write a) s fun t => t = { s with out := s.out ++ [.unsupported w] }

/-- The phases of a fence, each of which begins in a later beat than the one before: the drain ends when nothing is outstanding or its beats
are over, revoking ends with the reset of the domain, and the domain is held; after its release a tile's marked sections stand again; a
kernel or job that outlives an FLR by 50 ms fences its domain. Choices of the model that it rests on: log 8 and 54. -/
def Obligations.FencePhases : Prop :=
  let others (d : Nat) (s t : State) : Prop := ∀ e, e ≠ d → phaseOf t e = phaseOf s e
  let begun (s : State) (d : Nat) : Prop := (fenceOf s d).start < s.tt.beats
  (∀ s d, ∀ i ∈ [Instr.drainEnd d, .revokeEnd d, .resetEnd d], s.tt.beats ≤ (fenceOf s d).start → Runs i s fun t => t = s) ∧
  (∀ s d r, domainRoot d = some r → phaseOf s d = 2 → begun s d →
    outstanding s d = false ∨ (fenceOf s d).start + drainBeats s d ≤ s.tt.beats → Runs (.drainEnd d) s fun t =>
      phaseOf t d = 3 ∧ others d s t ∧ (72 ≤ d → d < 74 →
        fld t r Off.FENCE_STATUS 16 16 = satNat 0xFFFF (fld s r Off.FENCE_STATUS 16 16 + servedFills s (d - 72)))) ∧
  (∀ s d, phaseOf s d = 3 → begun s d → Runs (.revokeEnd d) s fun t =>
    phaseOf t d = 4 ∧ others d s t ∧ (d < 64 →
      (tileOf t d).fifo = [] ∧ (tileOf t d).kernel = none ∧ (tileOf t d).acc = [] ∧ (tileOf t d).vreg = [] ∧ (tileOf t d).pool = [] ∧
        (tileOf t d).writes = [] ∧ ∀ p ∈ domainPages d, rd t p Off.CTRL = 0)) ∧
  (∀ s d r, domainRoot d = some r → phaseOf s d = 4 → begun s d → (d = 91 → s.ce.copying = false ∨ deckOf s 2 = none) →
    Runs (.resetEnd d) s fun t =>
      phaseOf t d = 5 ∧ Raised pgFc Evt.FC_HELD t ∧ Recorded 8 5 2 d t ∧ RegsBut ((pageBase r + Off.FENCE_STATUS) :: recordRegs) s t) ∧
  (∀ s n, n < 64 → phaseOf s n = 0 → tileLive s n = true → (∃ m ∈ s.fc.marked, m.1 = n) →
    (∀ k ∈ markedDecks s n, copiesOk s k = true) → Runs (.reinstalled n) s fun t =>
      (∀ m ∈ t.fc.marked, m.1 ≠ n) ∧ (∀ m ∈ s.fc.marked, m.1 ≠ n → m ∈ t.fc.marked) ∧ t.boot.reload = s.boot.reload ∧
        Recorded 0xC 5 3 n t) ∧
  ∀ s c b, (ctxOf s c).flr = some b → elapsed s b (msTicks 50) = true → Runs (.flrTimeout c) s fun t =>
    ∀ d ∈ workDomains s c, d < 72 → domainLive s d = true → phaseOf s d = 0 → phaseOf t d = 1

/-! ## Power states, wake events, the always-on domain, heat -/

/-- Power commands: PWR_CMD with GO is checked and refused, or holds while a beam is hot, else quiesces; the hold ends when no beam is hot or
at its limit, the quiesce when the domains are idle or at its limit, where the command ends; a page that is not enabled takes the target
alone; each step of a descent ends with every domain at its level in the state below, stops the beat and reports the latency of Ante
before it, and leaves the keeper alone in Fold. The ring relocks where the descent to Ante begins. Choices of the model that it rests on:
log 8 and 14. -/
def Obligations.PowerCommands : Prop :=
  let reg_ (off : Nat) : Nat := pageBase pgPower + off
  let result (code : Nat) (t : State) : Prop :=
    fld t pgPower Off.PWR_RESULT 0 4 = code ∧ flag t pgPower Off.PWR_CMD 31 = false ∧ Raised pgPower Evt.PWR_CMD_DONE t
  let asked (s : State) (w : Func) : Prop :=
    Admitted s w pgPower Off.PWR_CMD ∧ flag s pgPower Off.PWR_CMD 31 = false ∧ flag s pgPower Off.CTRL 0 = true
  let accepted (T : Nat) (t : State) : Prop :=
    pwrTarget t = T ∧ flag t pgPower Off.PWR_CMD 31 = true ∧ fld t pgPower Off.PWR_CMD 0 3 = T
  (∀ s w T, asked s w → T < 8 → pwrCheck s (w == .mgmt) T = 0 → (anyBeamHot s = false ∨ fld s pgPower Off.PWR_HOLD 0 16 = 0) →
    Runs (.pwrCmdGo w T) s fun t => accepted T t ∧ pwrPhase t = 3 ∧ pwrState t = pwrState s ∧ t.pwr.start = s.tt.beats) ∧
  (∀ s w T, asked s w → T < 8 → pwrCheck s (w == .mgmt) T = 0 → anyBeamHot s = true → fld s pgPower Off.PWR_HOLD 0 16 ≠ 0 →
    Runs (.pwrCmdGo w T) s fun t => accepted T t ∧ pwrPhase t = 2 ∧ t.pwr.start = s.tt.beats ∧ Raised pgPower Evt.PWR_HOLD_STARTED t ∧
      Counted pgPower Off.PWR_CNT_HOLDS 1 s t ∧
      RegsBut [reg_ Off.PWR_CMD, reg_ Off.PWR_STATE, reg_ Off.PWR_CNT_HOLDS, evtOf pgPower, hhLost] s t) ∧
  (∀ s w T, asked s w → T < 8 → pwrCheck s (w == .mgmt) T ≠ 0 → Runs (.pwrCmdGo w T) s fun t =>
    result (pwrCheck s (w == .mgmt) T) t ∧ Counted pgPower Off.PWR_CNT_CMD_REFUSED 1 s t ∧
      RegsBut [reg_ Off.PWR_CMD, reg_ Off.PWR_RESULT, reg_ Off.PWR_CNT_CMD_REFUSED, evtOf pgPower, hhLost] s t) ∧
  (∀ s w T, Admitted s w pgPower Off.PWR_CMD → flag s pgPower Off.PWR_CMD 31 = false → flag s pgPower Off.CTRL 0 = false → T < 8 →
    Runs (.pwrCmdGo w T) s fun t => fld t pgPower Off.PWR_CMD 0 3 = T ∧ t.pwr = s.pwr ∧ RegsBut [reg_ Off.PWR_CMD, hhLost] s t) ∧
  (∀ s, pwrPhase s = 2 → anyBeamHot s = false → Runs .holdEnd s fun t =>
    pwrPhase t = 3 ∧ pwrTarget t = pwrTarget s ∧ t.pwr = { s.pwr with start := s.tt.beats }) ∧
  (∀ s, pwrPhase s = 2 → anyBeamHot s = true →
    elapsed s s.pwr.start (fld s pgPower Off.PWR_HOLD 0 16 * 1000000) = true → Runs .holdExpired s fun t =>
      pwrPhase t = 3 ∧ pwrTarget t = pwrTarget s ∧ Raised pgPower Evt.PWR_HOLD_EXPIRED t ∧
        Counted pgPower Off.PWR_CNT_HOLD_EXPIRED 1 s t) ∧
  (∀ s, pwrPhase s = 3 → quiet s = true → cmdBeat s = false → Runs .quiesceEnd s fun t =>
    pwrPhase t = 4 ∧ pwrTarget t = pwrTarget s ∧ pwrState t = pwrState s ∧ (pwrState s ≠ 2 → RegsBut [reg_ Off.PWR_STATE] s t) ∧
      (pwrState s = 2 → s.au.signed = none → ringLocked t = true) ∧
      (pwrState s = 2 → hhMode s = 1 → flag t pgHh Off.HH_STATUS 2 = true)) ∧
  (∀ s, pwrPhase s = 3 → quiet s = false → s.pwr.start + fld s pgPower Off.PWR_QUIESCE 0 24 ≤ s.tt.beats →
    Runs .quiesceTimeout s fun t => result 9 t ∧ pwrPhase t = 0 ∧ pwrTarget t = pwrState s ∧ pwrState t = pwrState s) ∧
  (∀ s, pwrPhase s = 4 → 2 ≤ pwrState s → pwrState s ≤ 4 → (pwrState s = 2 → s.tt.pend = [] ∧ s.tt.commits = []) →
    domainsAt s (domLevel s (pwrState s - 1)) = true → Runs .descendStepEnd s fun t =>
      pwrState t = pwrState s - 1 ∧ Raised pgPower Evt.PWR_STATE_CHANGED t ∧
        (s.pwr.latched = none → ∀ d, d < 15 → t.pwr.dom.getD d 0 = domLevel s (pwrState s - 1) d) ∧
        (pwrState s = 2 → t.tt.run = false ∧ restoring t = false ∧ Out.ltr 2100 ∈ t.out) ∧ (pwrTarget s = pwrState s - 1 → s.pwr.latched = none → result 0 t ∧ pwrPhase t = 0) ∧
        (pwrTarget s ≠ pwrState s - 1 → pwrPhase t = 4)) ∧
  ∀ s, pwrPhase s = 4 → pwrState s = 1 → s.pwr.anyLatched = false → domainsAt s (domLevel s 0) = true → Runs .descendStepEnd s fun t =>
    pwrState t = 0 ∧ t.pwr.dom = 2 :: List.replicate 14 0 ∧ t.boot.vrMain = false ∧ t.boot.vrMem = false ∧ t.tt = s.tt ∧ t.part = s.part ∧
      t.hbm = [] ∧ t.queues = [] ∧ t.host.ctxs = [] ∧ t.boot.decks = []

/-- Wake events: each is recorded with its time; in a steady device with a higher target a climb to it begins, from Fold the device leaves
Fold; a step of a climb ends with every domain at its level in the state above. Choices of the model that it rests on: log 14 and 17. -/
def Obligations.Wakes : Prop :=
  let woken (idx : Nat) (s t : State) : Prop :=
    flag t pgPower Off.PWR_WAKE_CAUSE idx = true ∧ fld t pgPower Off.PWR_WAKE_CAUSE 9 3 = pwrState s ∧
      fld t pgPower Off.PWR_WAKE_CAUSE 12 4 = idx ∧
      rd64 t pgPower Off.PWR_WAKE_TT_LO Off.PWR_WAKE_TT_HI = commitTime s % 2 ^ 64 ∧
      Counted pgPower Off.PWR_CNT_WAKES 1 s t ∧ Raised pgPower Evt.PWR_WAKE t
  let able (s : State) : Prop := awake s = true ∧ domOn s 1 = true
  let climbs (T : Nat) (s t : State) : Prop :=
    pwrState t = pwrState s ∧ (pwrPhase s = 0 → T ≤ pwrState s → pwrPhase t = 0) ∧
      (pwrPhase s = 0 → pwrState s < T → T ≤ 4 → s.pwr.stalled = false → pwrTarget t = T ∧
        (¬ (pwrState s = 2 ∧ s.pwr.owed = true) → pwrPhase t = 1) ∧ (pwrState s = 1 → t.tt.locking = true ∧ (regReady s = true → t.boot.vrMain = true ∧ t.boot.vrMem = true) ∧
          (regReady s = false → t.pwr.regSwitch = some true ∧ t.boot.vrMain = s.boot.vrMain)))
  let mapped (s : State) (idx : Nat) : Nat := fld s pgPower Off.PWR_WAKE_MAP (3 * idx) 3
  let leavesFold (s t : State) : Prop :=
    t.boot = { (State.ofPart s.part).boot with phase := .waitPg } ∧ t.tt = { s.tt with locking := true, joined := (rangeFrom 1 14).map fun d => (d, s.tt.beats) } ∧
      t.pwr = (State.ofPart s.part).pwr ∧ t.host.ctxs = [] ∧ t.queues = []
  (∀ s, able s → Runs .wakeIn s fun t => woken 3 s t ∧ climbs (mapped s 3) s t) ∧
  (∀ s, awake s = true → pwrState s = 0 → domOn s 1 = false → Runs .wakeIn s fun t =>
    leavesFold s t ∧ t.out = s.out ++ [.pmPme] ∧ t.host.pmeStatus = true) ∧
  (∀ s, able s → pwrState s ≤ 1 → Runs .host s fun t => woken 4 s t ∧ climbs (mapped s 4) s t) ∧
  (∀ s, awake s = true → pwrState s = 0 → domOn s 1 = false → Runs .host s fun t => leavesFold s t ∧ t.out = s.out) ∧
  (∀ s w T, able s → Admitted s w pgPower Off.PWR_WAKE_REQ → T < 8 → 2 ≤ pwrState s → Runs (.hostReq w T) s fun t =>
    woken 7 s t ∧ climbs T s t ∧ fld t pgPower Off.PWR_WAKE_REQ 0 3 = T) ∧
  (∀ s d, DealDue s pgPower d 2 → able s → Runs .wake s fun t =>
    woken 5 s t ∧ climbs (mapped s 5) s t ∧ Raised pgPower 0 t ∧ flag t pgPower Off.DEAL_CTRL 0 = false) ∧
  ∀ s, pwrPhase s = 1 → 1 ≤ pwrState s → pwrState s < 4 → climbReady s = true →
    domainsAt s (domLevel s (pwrState s + 1)) = true →
    Runs .climbStepEnd s fun t =>
      pwrState t = pwrState s + 1 ∧ Raised pgPower Evt.PWR_STATE_CHANGED t ∧ (pwrTarget s = pwrState s + 1 → pwrPhase t = 0) ∧
        ∀ d, d < 15 → t.pwr.dom.getD d 0 = domLevel s (pwrState s + 1) d

/-- The always-on domain: duty windows start at their times and end after SETTLE_MS and WINDOW_MS, the regulator's switch ends in the mode
asked for, and a brown-out empties and locks the ring, sets the regulator to HP and is recorded as a wake event. Choices of the model that
it rests on: log 15, 18 and 65. -/
def Obligations.AlwaysOn : Prop :=
  let status : Nat := pageBase pgPower + Off.AON_REG_STATUS
  (∀ s, pwrState s = 1 → s.pwr.dutyOn = true → s.pwr.dutyWindow = false → s.pwr.dutyHit = false → dutyDue s = true →
    Runs .dutyWindowStart s fun t =>
      t.pwr = { s.pwr with dutyWindow := true, dutyAt := tnow s } ∧ Counted pgPower Off.PWR_CNT_DUTY_WINDOWS 1 s t ∧
        RegsBut [pageBase pgPower + Off.PWR_CNT_DUTY_WINDOWS] s t) ∧
  (∀ s, s.pwr.dutyWindow = true → s.pwr.dutyAt + dutyTicks s 21 4 + dutyTicks s 11 10 ≤ tnow s → Runs .dutyWindowEnd s fun t =>
    t.pwr.dutyWindow = false ∧ RegsBut [status] s t) ∧
  (∀ s, tnow s < s.pwr.dutyAt + dutyTicks s 21 4 + dutyTicks s 11 10 → exec .dutyWindowEnd s = .next s) ∧
  (∀ s hp, domOn s 1 = true → s.pwr.regSwitch = some hp → Runs .regulatorModeSwitched s fun t =>
    flag t pgPower Off.AON_REG_STATUS 0 = hp ∧ RegsBut [status] s t ∧
      (hp = true → pwrState s = 1 → pwrPhase s = 1 → t.boot.vrMain = true ∧ t.boot.vrMem = true) ∧
      (regWant s = hp → t.pwr = { s.pwr with regSwitch := none, heldLoad := false } ∧ flag t pgPower Off.AON_REG_STATUS 1 = false) ∧
      (regWant s ≠ hp → t.pwr.regSwitch = some (regWant s) ∧ flag t pgPower Off.AON_REG_STATUS 1 = true)) ∧
  ∀ s, awake s = true → domOn s 1 = true → Runs .brownOutReset s fun t =>
    t.au.ring = [] ∧ ringLocked t = true ∧ flag t pgPower Off.AON_REG_STATUS 0 = true ∧ flag t pgPower Off.AON_REG_STATUS 2 = true ∧
      Raised pgPower Evt.PWR_BROWN_OUT t ∧ rd t pgPower Off.PWR_CNT_BROWN_OUT = 1 ∧
      (1 ≤ pwrState s → flag t pgPower Off.PWR_WAKE_CAUSE 8 = true)

/-- Heat: a reading is shown; the third in a row of a die at TH_TRIP or more drives THERMTRIP# low; the millisecond's decision shows the
package power and sets the clock cap that R585 decides; a voltage write that was not acknowledged is sent again. Choices of the model that
it rests on: log 29 and 66. -/
def Obligations.Heat : Prop :=
  let temp (k : Nat) : Nat := Off.THERM_TEMP + 4 * k
  let measures (s : State) (k : Nat) : Prop := k < 22 ∧ domOn s (sensorDomain k) = true ∧ domOn s 1 = true
  (∀ s k v, measures s k → v < 2 ^ 16 → Runs (.tempSensorUpdate k v) s fun t =>
    rd t pgPower (temp k) = BitVec.ofNat 32 v ∧ (v = 0x8000 → t.pwr = s.pwr) ∧
      (v ≠ 0x8000 → dieSensor k = true → t.pwr.tMax = some (max (s.pwr.tMax.getD (signed 16 v)) (signed 16 v)))) ∧
  (∀ s k v, measures s k → v < 2 ^ 16 → v ≠ 0x8000 → dieSensor k = true → tripTemp s ≤ signed 16 v → 2 ≤ sget 0 s.pwr.tripRun k →
    s.boot.thermtrip = false → Runs (.tempSensorUpdate k v) s fun t =>
      t.boot.thermtrip = true ∧ t.pwr.tripAt = some s.tt.beats ∧ clkCap t = 8) ∧
  (∀ s k v, measures s k → v < 2 ^ 16 → v ≠ 0x8000 → dieSensor k = false → 85 * 16 ≤ signed 16 v → k ∉ s.pwr.refresh →
    Runs (.tempSensorUpdate k v) s fun t =>
      k ∈ t.pwr.refresh ∧ Raised pgPower Evt.PWR_HBM_HOT t ∧ flag t pgPower Off.PWR_THERM_STATUS 16 = true) ∧
  (∀ s p, decisionDue s = true → Runs (.throttleDecision p) s fun t =>
    clkCap t = nextCap s (s.pwr.tMax.orElse fun _ => highest s dieSensor) (s.pwr.hMax.orElse fun _ => highest s fun k => !dieSensor k) p ∧
      rd t pgPower Off.PWR_PACKAGE = BitVec.ofNat 32 (Nat.min p 4095) ∧
      t.pwr = { s.pwr with tMax := none, hMax := none, decided := some (beatNo s), clkPend := t.pwr.clkPend }) ∧
  ∀ s die n, die < 4 → n < 16 → pageOn s (pgMx (16 * die + n)) = true →
    flag s (pgMx (16 * die + n)) Off.TILE_CLK 14 = true → Runs (.avsRetry die) s fun t =>
      Counted pgPower Off.PWR_CNT_AVS_RETRY 1 s t ∧ t.out = s.out ++ [.avsWrite die (railVolts (railClock s die))] ∧
        RegsBut [pageBase pgPower + Off.PWR_CNT_AVS_RETRY] s t

/-! ## The acoustic front end, the Call engine, the ring, voice out -/

/-- Input groups and beamformers: a block's clipped samples are counted, a pending bank switch happens at its end, and with recording on group
0 the ring takes a block and its write index moves on; RESYNC restarts a group's decimators and detectors, and is over after twice the
group delay; a bank switch is requested by deal or by register. Choices of the model that it rests on: log 23 and 24. -/
def Obligations.Acoustic : Prop :=
  let clips (s : State) (g formed : Nat) (pcm : List (List Int)) : Nat :=
    (((List.range 32).flatMap fun c => channelRaw s g c formed pcm).filter fun x => satBits 24 x != x).length
  let heard (s : State) (g formed : Nat) : Prop := groupListens s g = true ∧ settling s g formed = false
  (∀ s g formed pcm, g < 2 → heard s g formed → Runs (.audioBlockEnd g formed pcm) s fun t =>
    Counted (pgAin g) Off.AIN_CNT_CLIP (clips s g formed pcm) s t ∧ (clips s g formed pcm ≠ 0 → Raised (pgAin g) Evt.AIN_CLIP t) ∧
      g ∉ t.au.bankPend ∧ sget 0 t.au.interrupted g = sget 0 s.au.interrupted g - 1 ∧
      (g ∈ s.au.bankPend → fld t (pgBf g) Off.BF_BANK 0 1 = 1 - fld s (pgBf g) Off.BF_BANK 0 1 ∧
        flag t (pgBf g) Off.BF_BANK 1 = false ∧ Raised (pgBf g) Evt.BF_BANK_SWITCHED t ∧
        Counted (pgBf g) Off.BF_CNT_BANK_SWITCHES 1 s t)) ∧
  (∀ s formed pcm, heard s 0 formed → flag s pgRing Off.RING_CTRL 0 = true → s.au.writeIdx < 2 ^ 32 →
    1 ≤ ringCap s → Runs (.audioBlockEnd 0 formed pcm) s fun t =>
      t.au.writeIdx = (s.au.writeIdx + 1) % 2 ^ 32 ∧ Counted pgRing Off.RING_CNT_BLOCKS 1 s t ∧ t.au.ring.length ≤ ringCap s ∧
        ∃ b, t.au.ring.getLast? = some b ∧ b.idx = s.au.writeIdx ∧ b.tracks = (ringTracks s).length ∧
          b.time = sampleTime s 0 formed) ∧
  (∀ s formed pcm, heard s 1 formed → flag s (pgBf 1) Off.CTRL 0 = true → fld s (pgBf 1) Off.BF_LIVE 0 16 ≠ 0 →
    Runs (.audioBlockEnd 1 formed pcm) s fun t =>
      t.au.liveIdx = (s.au.liveIdx + 1) % 2 ^ 32 ∧ t.au.live.length ≤ 64 ∧ t.au.ring = s.au.ring ∧
        ∃ b, t.au.live.getLast? = some b ∧ b.idx = s.au.liveIdx ∧ b.time = sampleTime s 1 formed) ∧
  (∀ s formed pcm, groupListens s 0 = true → settling s 0 formed = true → exec (.audioBlockEnd 0 formed pcm) s = .next s) ∧
  (∀ s g d, g < 2 → DealDue s (pgAin g) d 2 → Runs (.resync g) s fun t =>
    (g, tnow s) ∈ t.au.refill ∧ sget 0 t.au.interrupted g = 2 ∧ t.au.hist = s.au.hist ∧ (∀ e ∈ t.au.det, e.1 / 16 ≠ g) ∧
      rd t (pgBf g) Off.WD_HOT = 0 ∧ Counted (pgAin g) Off.AIN_CNT_RESYNC 1 s t ∧ Raised (pgAin g) 0 t ∧
      RegsBut ((pageBase (pgAin g) + Off.AIN_CNT_RESYNC) :: (pageBase (pgBf g) + Off.WD_HOT) :: dealRegs (pgAin g)) s t) ∧
  (∀ s g e, g < 2 → (s.au.refill.find? fun e => e.1 == g) = some e → tnow s < e.2 ∨ e.2 + 2 * groupDelay s g ≤ tnow s →
    Runs (.resyncDone g) s fun t =>
    (∀ x ∈ t.au.refill, x.1 ≠ g) ∧ Raised (pgAin g) Evt.AIN_RESYNC_DONE t ∧ RegsBut [evtOf (pgAin g)] s t) ∧
  (∀ s g d, g < 2 → DealDue s (pgBf g) d 2 → Runs (.bankSwitch g) s fun t =>
    g ∈ t.au.bankPend ∧ flag t (pgBf g) Off.BF_BANK 1 = true ∧ Raised (pgBf g) 0 t ∧
      RegsBut ((pageBase (pgBf g) + Off.BF_BANK) :: dealRegs (pgBf g)) s t) ∧
  ∀ s w g, g < 2 → Admitted s w (pgBf g) Off.BF_BANK → Runs (.switch w g) s fun t =>
    g ∈ t.au.bankPend ∧ flag t (pgBf g) Off.BF_BANK 1 = true ∧
      fld t (pgBf g) Off.BF_BANK 0 1 = fld s (pgBf g) Off.BF_BANK 0 1 ∧ RegsBut [pageBase (pgBf g) + Off.BF_BANK, hhLost] s t

/-- The Call engine: a finished block moves the consume pointer on, its verdicts are counted and sent, and the engine starts on the next
block, past those that the ring no longer holds; a sign-off verdict unlocks the ring from its span on, if the engine and the policy allow
it, else it is counted refused; CE_RESTART lets the block under way finish and empties the engine, with the verdicts of a model that was
run under EXPERT or has changed since its digest check, and the restarted model, copied from its deck, runs. Choices of the model that it
rests on: log 25. -/
def Obligations.CallEngine : Prop :=
  let word (v : Verdict) : Nat := v.kind % 16 + 16 * (v.score % 256) + 4096 * (v.beam % 16)
  let next (s : State) : Nat := (s.au.consume + 1) % 2 ^ 32
  let goesOn (s : State) (vs : List Verdict) : Prop :=
    s.ce.copying = false ∧ enabled s pgCe = true ∧ next s ≠ s.au.writeIdx ∧ ∀ v ∈ vs, v.kind ≠ 5
  let missing (s : State) : Nat := (ringOldest s + (2 ^ 32 - next s)) % 2 ^ 32
  let first (s : State) (start : Nat) : Nat :=
    Nat.min (ringAge s (ringOldest s)) (ringAge s start + fld s pgRing Off.RING_RELEASE 0 12 / 4)
  let refused : Nat := pageBase pgMb + Off.MB_CNT_SIGNOFF_REFUSED
  (∀ s vs, s.ce.running = true → busy s pgCe = true → hhMode s ≠ 2 → s.ce.copying = true ∨ next s = s.au.writeIdx ∨
    ringHolds s (next s) = true → Runs (.callEngineBlock vs) s fun t =>
    t.au.consume = next s ∧ Counted pgCe Off.CE_CNT_BLOCKS 1 s t ∧ Counted pgCe Off.CE_CNT_VERDICTS vs.length s t ∧
      t.ce.verdicts = (if s.ce.copying && !modelSound s then []
        else s.ce.verdicts ++ (vs.filter fun v => v.kind == 3 || v.kind == 4).map fun v => (word v, v.start % 2 ^ 32)) ∧
      (∀ v, vs.getLast? = some v → Raised pgCe Evt.CE_VERDICT t ∧ rd t pgCe Off.CE_VERDICT = BitVec.ofNat 32 (word v) ∧
        rd t pgCe Off.CE_VERDICT_SPAN = BitVec.ofNat 32 v.start) ∧
      (s.ce.copying = true → t.ce.sram = [] ∧ t.ce.running = false ∧ busy t pgCe = false) ∧
      (goesOn s vs → busy t pgCe = true ∧ (1 < ringAge s (next s) ∨ s.au.endTt + 4000000 < tnow s → Raised pgCe Evt.CE_LATE t))) ∧
  (∀ s vs, s.ce.running = true → busy s pgCe = true → goesOn s vs → ringHolds s (next s) = false → 0 < missing s → missing s < 2 ^ 31 →
    Runs (.callEngineBlock vs) s fun t =>
    t.au.consume = ringOldest s ∧ Counted pgRing Off.RING_CNT_SKIPPED (missing s) s t ∧ Raised pgRing Evt.RING_SKIPPED t) ∧
  (∀ s x start rest, s.ce.verdicts = (x, start) :: rest → x % 16 = 3 → signOffOk s = true → policyOk s = true →
    ringLocked s = true → Runs .signOff s fun t =>
      t.ce = { s.ce with verdicts := rest } ∧ ringLocked t = false ∧ Counted pgRing Off.RING_CNT_UNLOCKS 1 s t ∧
        Raised pgRing Evt.RING_UNLOCKED t ∧ t.au.unlockTt = tnow s ∧
        t.au.ring = (s.au.ring.filter fun b => decide (ringAge s b.idx ≤ first s start)) ∧
        rd t pgRing Off.RING_RELEASE_IDX = BitVec.ofNat 32 ((s.au.writeIdx + (2 ^ 32 - first s start)) % 2 ^ 32)) ∧
  (∀ s x start rest, s.ce.verdicts = (x, start) :: rest → x % 16 ≠ 3 → signOffOk s = true → ringLocked s = false →
    Runs .signOff s fun t =>
      t = { s with ce := { s.ce with verdicts := rest }, au := { s.au with unlockTt := tnow s, signed := t.au.signed } }) ∧
  (∀ s x start rest, s.ce.verdicts = (x, start) :: rest → signOffOk s = false → Runs .signOff s fun t =>
    t.ce = { s.ce with verdicts := rest } ∧ t.au = s.au ∧ Counted pgMb Off.MB_CNT_SIGNOFF_REFUSED 1 s t ∧ RegsBut [refused] s t) ∧
  (∀ s x start rest, s.ce.verdicts = (x, start) :: rest → x % 16 = 3 → signOffOk s = true → policyOk s = false →
    Runs .signOff s fun t => t.au = s.au ∧ Counted pgMb Off.MB_CNT_SIGNOFF_REFUSED 1 s t ∧ Raised pgMb Evt.MB_SIGNOFF_REFUSED t ∧
      RegsBut [refused, evtOf pgMb] s t) ∧
  (∀ s w, Admitted s w pgCe Off.CE_RESTART → flag s pgCe Off.CTRL 2 = false → s.ce.running = true → busy s pgCe = true →
    Runs (.ceRestart w) s fun t =>
      t.ce = { s.ce with copying := true } ∧ cmdsOf t pgCe = cmdsOf s pgCe ∧ flag t pgCe Off.CE_RESTART 0 = true ∧
        RegsBut [pageBase pgCe + Off.CE_RESTART, hhLost] s t) ∧
  (∀ s w, Admitted s w pgCe Off.CE_RESTART → flag s pgCe Off.CTRL 2 = false → s.ce.running = false ∨ busy s pgCe = false →
    Runs (.ceRestart w) s fun t =>
    let verdicts := if modelSound s then s.ce.verdicts else []
    t.ce = { s.ce with sram := [], loaded := false, running := false, copying := true, verdicts := verdicts } ∧ cmdsOf t pgCe = [] ∧
      flag t pgCe Off.CE_RESTART 0 = true ∧ flag t pgCe Off.CE_STATUS 0 = false ∧
      (modelSound s = false → Counted pgMb Off.MB_CNT_SIGNOFF_REFUSED s.ce.verdicts.length s t) ∧
      RegsBut ((if modelSound s then [] else [refused]) ++ [pageBase pgCe + Off.CE_RESTART, pageBase pgCe + Off.CE_STATUS, hhLost]) s t) ∧
  (∀ s w, Admitted s w pgCe Off.CE_RESTART → flag s pgCe Off.CTRL 2 = true → Runs (.ceRestart w) s fun t =>
    t.ce = s.ce ∧ Counted pgCe Off.CE_CNT_CFG_REFUSED 1 s t ∧ RegsBut [pageBase pgCe + Off.CE_CNT_CFG_REFUSED, hhLost] s t) ∧
  ∀ s k, s.ce.copying = true → domOn s 3 = true → busy s pgCe = false → deckOf s 2 = some k → Runs .modelRestarted s fun t =>
    t.ce = { s.ce with copying := false, loaded := true, changed := false, running := true, clean := !flag s pgCe Off.CTRL 2, sram := t.ce.sram } ∧
      flag t pgCe Off.CE_RESTART 0 = false ∧ flag t pgCe Off.CE_STATUS 0 = true ∧
      ∀ x bs, ((deckSects k.bytes).filter fun x => x.type == 0x12) = [x] → x.content k.bytes = some bs →
        ∀ i (h : i < bs.length), x.dest + i < 2 * 2 ^ 20 → sget 0 t.ce.sram (x.dest + i) = bs[i]

/-- The pre-roll ring: switched off it holds nothing and is locked; RELOCK and the unlock limit lock it and keep its blocks, but a RELOCK
after a sign-off of the same beat, which it comes before, leaves the ring as the sign-off does; the reads of a beat are answered at its
end, in their order, and with the beat stopped at once: a locked ring answers no read, an unlocked one the slot of a released block, and
for any other slot a header with NOT_HELD. Choices of the model that it rests on: log 8 and 24. -/
def Obligations.Ring : Prop :=
  let ctrl : Nat := pageBase pgRing + Off.RING_CTRL
  let alone (s : State) : Prop := ∀ g, s.au.signed = some g → g.beat ≠ s.tt.beats ∨ s.tt.run = false
  let lock : List Nat := [pageBase pgRing + Off.RING_STATUS, evtOf pgRing]
  let answers (s : State) (tenant : Option Nat) (addr : Nat) (P : State → Prop) : Prop :=
    P (releaseAnswer tenant addr s) ∧ (s.tt.run = false → Runs (.releasePortRead tenant addr) s P)
  (∀ s w, Admitted s w pgRing Off.RING_CTRL → Runs (.ringEnable w true) s fun t =>
    flag t pgRing Off.RING_CTRL 0 = true ∧ t.au = s.au ∧ RegsBut [ctrl, hhLost] s t) ∧
  (∀ s w, Admitted s w pgRing Off.RING_CTRL → alone s → Runs (.ringEnable w false) s fun t =>
    flag t pgRing Off.RING_CTRL 0 = false ∧ t.au = { s.au with ring := [] } ∧ ringLocked t = true ∧
      Counted pgRing Off.RING_CNT_ZEROISED s.au.ring.length s t ∧
      (ringLocked s = false → Raised pgRing Evt.RING_RELOCKED t) ∧
      RegsBut (ctrl :: hhLost :: (pageBase pgRing + Off.RING_CNT_ZEROISED) :: lock) s t) ∧
  (∀ s w g, Admitted s w pgRing Off.RING_CTRL → ringLocked s = false → s.tt.run = true → s.au.signed = some g → g.beat = s.tt.beats →
    g.locked = true → Runs (.relock w true) s fun t => ringLocked t = false ∧ t.au = s.au ∧ RegsBut [ctrl, hhLost] s t) ∧
  (∀ s w, Admitted s w pgRing Off.RING_CTRL → alone s → Runs (.relock w true) s fun t =>
    flag t pgRing Off.RING_CTRL 0 = true ∧ t.au = s.au ∧ ringLocked t = true ∧ (ringLocked s = false → Raised pgRing Evt.RING_RELOCKED t) ∧
      RegsBut (ctrl :: hhLost :: lock) s t) ∧
  (∀ s w, Admitted s w pgRing Off.RING_CTRL → alone s → Runs (.relock w false) s fun t =>
    flag t pgRing Off.RING_CTRL 0 = false ∧ t.au.ring = [] ∧ ringLocked t = true) ∧
  (∀ s, ringLocked s = false → alone s → s.au.unlockTt + fld s pgRing Off.RING_RELEASE 16 16 * 1000000000 ≤ s.au.endTt →
    Runs .unlockLimitExpiry s fun t => ringLocked t = true ∧ t.au = s.au ∧ Raised pgRing Evt.RING_RELOCKED t ∧ RegsBut lock s t) ∧
  (∀ s tenant addr b, mayHear s tenant = true → ringLocked s = false → releasedBlock s addr = some b →
    answers s tenant addr fun t =>
      t.out = s.out ++ [.released (some (slotBytes b))] ∧ t.au = s.au ∧ RegsBut [hhLost] s t) ∧
  (∀ s tenant addr, mayHear s tenant = true → ringLocked s = false → releasedBlock s addr = none →
    answers s tenant addr fun t =>
      (∃ bs, t.out = s.out ++ [.released (some bs)] ∧ bs.length = 4096 ∧ (bs.drop 4).take 2 = leBytes 2 0x40) ∧ RegsBut [] s t) ∧
  (∀ s tenant addr, s.tt.run = true → Runs (.releasePortRead tenant addr) s fun t =>
    t = { s with au := { s.au with asked := s.au.asked ++ [(tenant, addr)] } }) ∧
  (∀ s tenant addr rest, s.au.asked = (tenant, addr) :: rest → readsEnd s =
    rest.foldl (fun s e => releaseAnswer e.1 e.2 s) (releaseAnswer tenant addr { s with au := { s.au with asked := [] } })) ∧
  ∀ s tenant addr, mayHear s tenant = true → ringLocked s = true → answers s tenant addr fun t =>
    t.out = s.out ++ [.released none] ∧ Counted pgRing Off.RING_CNT_LOCKED_READS 1 s t ∧
      RegsBut [pageBase pgRing + Off.RING_CNT_LOCKED_READS] s t

/-- Voice out: a START deal marks the port playing, from the first frame 0.5 µs after its launch on, a STOP deal ends play in such a frame;
each frame leaves the sum of both sources at their attenuations; an empty source A counts an underrun, and the end of its stream ends
play. Choices of the model that it rests on: log 26. -/
def Obligations.VoiceOut : Prop :=
  let cnt (p : Nat) : Nat := pageBase (pgVo p) + Off.VO_CNT_FRAMES
  let runs (s : State) (p now : Nat) : Prop :=
    p < 2 ∧ enabled s (pgVo p) = true ∧ ∀ e ∈ (voOf s p).launches, frameDue e.1 now = false
  let sent (p : Nat) (a : List Int) (s t : State) : Prop :=
    t.out = s.out ++ [.voFrame p (mixFrame s p a ((voOf s p).fifoB.headD []))] ∧ Counted (pgVo p) Off.VO_CNT_FRAMES 1 s t ∧
      (voOf t p).fifoB = (voOf s p).fifoB.drop 1
  (∀ s p d, p < 2 → DealDue s (pgVo p) d 2 → Runs (.voStart p) s fun t =>
    flag t (pgVo p) Off.VO_STATE 0 = true ∧ voOf t p = { voOf s p with launches := (voOf s p).launches ++ [(beatNo s, true)] } ∧ Raised (pgVo p) 0 t ∧
      RegsBut ((pageBase (pgVo p) + Off.VO_STATE) :: dealRegs (pgVo p)) s t) ∧
  (∀ s p d, p < 2 → DealDue s (pgVo p) d 3 → Runs (.voStop p) s fun t =>
    voOf t p = { voOf s p with launches := (voOf s p).launches ++ [(beatNo s, false)] } ∧ Raised (pgVo p) 0 t ∧ RegsBut (dealRegs (pgVo p)) s t) ∧
  (∀ s p now, runs s p now → (voOf s p).sounding = false → Runs (.voFrame p now) s fun t => sent p [] s t ∧ RegsBut [cnt p] s t) ∧
  (∀ s p now a rest, runs s p now → (voOf s p).sounding = true → (voOf s p).fifoA = a :: rest → rest ≠ [] ∨ (voOf s p).lastA = false →
    Runs (.voFrame p now) s fun t => sent p a s t ∧ (voOf t p).fifoA = rest ∧ RegsBut [cnt p] s t) ∧
  (∀ s p now a, runs s p now → (voOf s p).sounding = true → (voOf s p).fifoA = [a] → (voOf s p).lastA = true →
    Runs (.voFrame p now) s fun t => sent p a s t ∧ (voOf t p).sounding = false ∧ flag t (pgVo p) Off.VO_STATE 0 = false ∧
      Raised (pgVo p) Evt.VO_DRAINED t) ∧
  (∀ s p now, runs s p now → (voOf s p).sounding = true → (voOf s p).fifoA = [] → (voOf s p).lastA = false →
    Runs (.voFrame p now) s fun t => sent p [] s t ∧ Counted (pgVo p) Off.VO_CNT_UNDERRUN 1 s t ∧
      ((voOf s p).dry = false → Raised (pgVo p) Evt.VO_UNDERRUN t)) ∧
  (∀ s p now b, p < 2 → enabled s (pgVo p) = true → (b, true) ∈ (voOf s p).launches → 64 * b + 500 ≤ now → now < 2 ^ 64 →
    Runs (.voFrame p now) s fun t =>
      Raised (pgVo p) Evt.VO_STARTED t ∧ rd64 t (pgVo p) Off.VO_START_TT_LO Off.VO_START_TT_HI = now) ∧
  ∀ s p now b, p < 2 → enabled s (pgVo p) = true → (voOf s p).launches = [(b, false)] → 64 * b + 500 ≤ now →
    Runs (.voFrame p now) s fun t => sent p [] s t ∧ (voOf t p).fifoA = [] ∧ (voOf t p).sounding = false ∧
      (voOf t p).launches = [] ∧ flag t (pgVo p) Off.VO_STATE 0 = false

/-- R178: the echo reference, the slot values that port 0 has played, is each frame exactly as it leaves the pin, in underruns and mutes too. -/
def Obligations.EchoReference : Prop :=
  (∀ s now, enabled s (pgVo 0) = true → Runs (.voFrame 0 now) s fun t =>
    t.out = s.out ++ [.voFrame 0 (voOf t 0).played] ∧ Counted (pgVo 0) Off.VO_CNT_FRAMES 1 s t) ∧
  (∀ s now, enabled s (pgVo 0) = true → bitOf (rd s (pgVo 0) Off.VO_GAIN) 16 = true → Runs (.voFrame 0 now) s fun t =>
    ∀ x ∈ (voOf t 0).played, x = 0) ∧
  ∀ s now, enabled s (pgVo 0) = false → exec (.voFrame 0 now) s = .next s

/-! ## Cameras and pipelines -/

/-- Receivers: a burst begins, after a required deskew only; a packet with an uncorrectable header ends the burst and is marked in every open
frame; a Frame Start closes a frame left open and opens one on every slot of its channel; a Frame End closes the channel's frames. Choices
of the model that it rests on: log 27 and 28. -/
def Obligations.Frames : Prop :=
  let live (s : State) (r : Nat) : Prop := csiLive s r = true
  let takes (s : State) (r : Nat) : Prop := live s r ∧ (csiOf s r).burst = true
  let cfg (s : State) (r k : Nat) : Word := rd s (pgCsi r) (Off.CSI_STREAM_CFG + 0x10 * k)
  let waits (s : State) (r : Nat) : Bool := flag s (pgCsi r) Off.CSI_CFG 16 && !flag s (pgCsi r) Off.STATUS 13
  let counter (r off : Nat) : Nat := pageBase (pgCsi r) + off
  (∀ s r ok, live s r → waits s r = true → Runs (.hsBurst r ok) s fun t => csiOf t r = { csiOf s r with burst := false } ∧ RegsBut [] s t) ∧
  (∀ s r, live s r → waits s r = false → Runs (.hsBurst r true) s fun t =>
    csiOf t r = { csiOf s r with burst := true } ∧ RegsBut [] s t) ∧
  (∀ s r, live s r → waits s r = false → Runs (.hsBurst r false) s fun t =>
    (csiOf t r).burst = false ∧ (∀ k, k < 4 → (csiSlot t r k).frame = (csiSlot s r k).frame.map (CsiFrame.flag flPhyErr)) ∧
      Counted (pgCsi r) Off.CSI_CNT_PHY_ERR 1 s t ∧ Raised (pgCsi r) Evt.CSI_PHY_ERR t ∧
      RegsBut [counter r Off.CSI_CNT_PHY_ERR, evtOf (pgCsi r)] s t) ∧
  (∀ s r, live s r → Runs (.deskew r) s fun t => flag t (pgCsi r) Off.STATUS 13 = true ∧ RegsBut [counter r Off.STATUS] s t) ∧
  (∀ s r up, live s r → Runs (.linkUp r up) s fun t => flag t (pgCsi r) Off.STATUS 12 = up ∧ RegsBut [counter r Off.STATUS] s t) ∧
  (∀ s r vc no now line dt crcOk bs v, takes s r →
    ∀ i ∈ [Instr.frameStart r vc (.bad v) no now, .frameEnd r vc (.bad v) now, .lineStart r vc (.bad v) line, .lineEnd r vc (.bad v),
        .genericShortPacket r vc (.bad v), .longPacket r vc dt (.bad v) crcOk bs], Runs i s fun t =>
      (csiOf t r).burst = false ∧ Counted (pgCsi r) Off.CSI_CNT_ECC_UNCORR 1 s t ∧ Raised (pgCsi r) Evt.CSI_ECC_UNCORR t ∧
        (∀ k, k < 4 → ((csiSlot t r k).frame.map fun f => (f.frameNo, f.eccAll, f.next)) =
          (csiSlot s r k).frame.map fun f => (f.frameNo, f.eccAll + 1, f.next)) ∧
        RegsBut [counter r Off.CSI_CNT_ECC_UNCORR, evtOf (pgCsi r), counter r (Off.CSI_VC_ERR + 4 * (v.getD 0 % 16))] s t) ∧
  (∀ s r vc ecc no now k, takes s r → (∀ v, ecc ≠ .bad v) → k < 4 → cfgEn (cfg s r k) = true → cfgVc (cfg s r k) = vc →
    enabled s (pgCsi r) = true → flag s (pgCsi r) Off.CSI_GATE 0 = true → Runs (.frameStart r vc ecc no now) s fun t =>
      (csiSlot t r k).seq = ((csiSlot s r k).seq + 1) % 2 ^ 32 ∧ flag t (pgCsi r) Off.STATUS (8 + k) = true ∧
        ∃ f, (csiSlot t r k).frame = some f ∧ f.frameNo = no % 65536 ∧ f.sofTt = now ∧ f.cfg = cfg s r k ∧ f.next = 0 ∧
          f.geom = rd s (pgCsi r) (Off.CSI_STREAM_GEOM + 0x10 * k)) ∧
  (∀ s r vc ecc no now k f, takes s r → (∀ v, ecc ≠ .bad v) → k < 4 → (csiSlot s r k).frame = some f → cfgEn f.cfg = true →
    cfgVc f.cfg = vc → Runs (.frameStart r vc ecc no now) s fun t => ∃ g ∈ (csiSlot t r k).closing,
      g.frameNo = f.frameNo ∧ g.seq = f.seq ∧ g.closed = true ∧ g.eofTt = 64 * beatNo s ∧ bitAt g.flags flNoFe = true) ∧
  ∀ s r vc ecc now k f, takes s r → (∀ v, ecc ≠ .bad v) → k < 4 → (csiSlot s r k).frame = some f → cfgEn f.cfg = true →
    cfgVc f.cfg = vc → Runs (.frameEnd r vc ecc now) s fun t =>
      (csiSlot t r k).frame = none ∧ flag t (pgCsi r) Off.STATUS (8 + k) = false ∧
        fld t (pgCsi r) (Off.CSI_LAST + 4 * k) 0 16 = f.frameNo % 65536 ∧
        ∃ g, (csiSlot t r k).closing = (csiSlot s r k).closing ++ [g] ∧ g.frameNo = f.frameNo ∧ g.closed = true ∧ g.eofTt = now

/-- Lines: a Line Start announces the number of the next line on slots that take it; Line Ends and generic short packets have no effect but
their counts; a long packet that matches no slot is counted, and one that brings the next line of an open frame moves the frame on and
goes, made exactly as long as the frame is wide, to the slot's queue, if it has one. Choices of the model that it rests on: log 27 and 28. -/
def Obligations.Lines : Prop :=
  let takes (s : State) (r : Nat) (ecc : Ecc) : Prop :=
    csiLive s r = true ∧ (csiOf s r).burst = true ∧ ∀ v, ecc ≠ .bad v
  let opens (s : State) (r k vc : Nat) (f : CsiFrame) : Prop :=
    k < 4 ∧ (csiSlot s r k).frame = some f ∧ cfgEn f.cfg = true ∧ cfgVc f.cfg = vc
  let inLine (f : CsiFrame) (line : List Byte) : List (List Nat) :=
    fitLine (cfgDt f.cfg) (cfgPad f.cfg) f.width (unpackLine (cfgDt f.cfg) line)
  let first (s : State) (r vc dt k : Nat) : Prop := ((vcSlots s r vc).filter fun j => cfgDt (slotCfg s r j) == dt).head? = some k
  (∀ s r vc ecc line k f, takes s r ecc → opens s r k vc f → cfgLineNo f.cfg = true → Runs (.lineStart r vc ecc line) s fun t =>
    (csiSlot t r k).frame.map (·.announced) = some (some (line % 65536))) ∧
  (∀ s r vc, takes s r .clean → Runs (.lineEnd r vc .clean) s fun t => t = s) ∧
  (∀ s r vc, takes s r .corrected → Runs (.lineEnd r vc .corrected) s fun t =>
    Counted (pgCsi r) Off.CSI_CNT_ECC_CORR 1 s t ∧ (csiOf t r).burst = true ∧
      RegsBut [pageBase (pgCsi r) + Off.CSI_CNT_ECC_CORR, pageBase (pgCsi r) + (Off.CSI_VC_ERR + 4 * (vc % 16))] s t) ∧
  (∀ s r vc ecc, takes s r ecc → Runs (.genericShortPacket r vc ecc) s fun t =>
    Counted (pgCsi r) Off.CSI_CNT_GENERIC 1 s t ∧ (csiOf t r).burst = true) ∧
  (∀ s r vc dt ecc crcOk bs, takes s r ecc → (∀ k, ¬ first s r vc dt k) → Runs (.longPacket r vc dt ecc crcOk bs) s fun t =>
    Counted (pgCsi r) Off.CSI_CNT_UNMATCHED 1 s t ∧ Raised (pgCsi r) Evt.CSI_UNMATCHED t ∧
      (crcOk = false → Counted (pgCsi r) Off.CSI_CNT_CRC 1 s t ∧ Raised (pgCsi r) Evt.CSI_CRC t)) ∧
  (∀ s r vc dt ecc crcOk bs k f, takes s r ecc → opens s r k vc f → first s r vc dt k → f.cutLine = 0xFFFF → f.next < f.height →
    f.announced = none ∨ f.announced = some (f.next + 1) → Runs (.longPacket r vc dt ecc crcOk bs) s fun t =>
      (crcOk = false → Counted (pgCsi r) Off.CSI_CNT_CRC 1 s t) ∧
        ∃ g, (csiSlot t r k).frame = some g ∧ g.next = f.next + 1 ∧ g.linesRx = f.linesRx + 1 ∧ g.announced = none ∧
          g.frameNo = f.frameNo) ∧
  ∀ s r vc dt ecc crcOk bs k f, takes s r ecc → opens s r k vc f → first s r vc dt k → f.cutLine = 0xFFFF → f.next < f.height →
    f.announced = none ∨ f.announced = some (f.next + 1) → cfgQueue f.cfg = true →
    fifoBytes ((csiSlot s r k).fifo ++ [(f.id, packLine (cfgDt f.cfg) (inLine f bs))]) ≤ 65536 →
    Runs (.longPacket r vc dt ecc crcOk bs) s fun t =>
      (csiSlot t r k).fifo = (csiSlot s r k).fifo ++ [(f.id, packLine (cfgDt f.cfg) (inLine f bs))]

/-- Receivers over time: a frame that lasts too long is due, and the check at the end of the beat closes and marks it; the descriptor of a
closed frame is formed once its lines are taken; FSYNC deals drive the pin to its active level for the pulse's width; the gate opens and
closes by deal; a read of an error count, which reads 0 at AVK1_COMPAT 0, clears it. Choices of the model that it rests on: log 28. -/
def Obligations.Capture : Prop :=
  let reads (s : State) (w : Func) (r vc : Nat) : Prop := Readable s w (pgCsi r) (Off.CSI_VC_ERR + 4 * (vc % 16))
  let pulse (s : State) (r : Nat) : Nat := fld s (pgCsi r) Off.CSI_FSYNC 0 12 * 1000
  (∀ s r k f, k < 4 → (csiSlot s r k).frame = some f → csiLive s r = true → f.limit ≠ 0 →
    elapsed s f.opened (f.sofTt % 64 + f.limit) = true → Runs (.frameTimeout r k) s fun t =>
      csiSlot t r k = { csiSlot s r k with frame := some { f with due := true } } ∧
        (∀ j, j < 4 → j ≠ k → csiSlot t r j = csiSlot s r j) ∧ RegsBut [] s t) ∧
  (∀ s r k f, k < 4 → (csiSlot s r k).frame = some f → f.due = true →
    let t := csiTimeout r k s
    Counted (pgCsi r) Off.CSI_CNT_TIMEOUT 1 s t ∧ Raised (pgCsi r) Evt.CSI_TIMEOUT t ∧ (csiSlot t r k).frame = none ∧
      ∃ g, (csiSlot t r k).closing = (csiSlot s r k).closing ++ [g] ∧ g.frameNo = f.frameNo ∧ bitAt g.flags flTimeout = true ∧
        g.eofTt = 64 * beatNo s) ∧
  (∀ s r k f rest, k < 4 → pagePresent s.part (pgCsi r) = true → pageOn s (pgCsi r) = true →
    (csiSlot s r k).closing = f :: rest → linesWait (csiSlot s r k) f = false → Runs (.frameDescriptor r k) s fun t =>
      (csiSlot t r k).closing = rest ∧ Raised (pgCsi r) Evt.CSI_FRAME_DONE t ∧
        (f.flags ≠ 0 → Raised (pgCsi r) Evt.CSI_FRAME_FLAGGED t) ∧
        (bitOf f.descq 31 = true → (csiSlot s r k).descs.length < 16 → (csiSlot t r k).descs =
          (csiSlot s r k).descs ++ [(fieldOf f.descq 0 18, frameDesc r k (flag s (pgCsi r) Off.CSI_CFG 17) f)])) ∧
  (∀ s r d, DealDue s (pgCsi r) d 2 → Runs (.fsync r) s fun t =>
    csiOf t r = { csiOf s r with
        fsyncs := (64 * beatNo s :: (csiOf s r).fsyncs).take 64, fsyncAt := s.tt.beats, fsyncHigh := true } ∧
      Counted (pgCsi r) Off.CSI_CNT_FSYNC 1 s t ∧ Raised (pgCsi r) 0 t ∧
      t.out = s.out ++ (if (csiOf s r).fsyncHigh then [] else [.fsyncPin r (!flag s (pgCsi r) Off.CSI_FSYNC 12)]) ∧
      RegsBut ((pageBase (pgCsi r) + Off.CSI_CNT_FSYNC) :: dealRegs (pgCsi r)) s t) ∧
  (∀ s r, pageOn s (pgCsi r) = true → (csiOf s r).fsyncHigh = true → elapsed s (csiOf s r).fsyncAt (pulse s r) = true →
    Runs (.fsyncPulseEnd r) s fun t =>
      csiOf t r = { csiOf s r with fsyncHigh := false } ∧ t.out = s.out ++ [.fsyncPin r (flag s (pgCsi r) Off.CSI_FSYNC 12)] ∧
        RegsBut [] s t) ∧
  (∀ s r d, DealDue s (pgCsi r) d 3 → Runs (.captureStart r) s fun t =>
    flag t (pgCsi r) Off.CSI_GATE 0 = true ∧ Raised (pgCsi r) 0 t ∧
      RegsBut ((pageBase (pgCsi r) + Off.CSI_GATE) :: dealRegs (pgCsi r)) s t) ∧
  (∀ s r d, DealDue s (pgCsi r) d 4 → Runs (.captureStop r) s fun t =>
    flag t (pgCsi r) Off.CSI_GATE 0 = false ∧ Raised (pgCsi r) 0 t ∧
      RegsBut ((pageBase (pgCsi r) + Off.CSI_GATE) :: dealRegs (pgCsi r)) s t) ∧
  ∀ s w r vc, reads s w r vc → Runs (.vcErrRead w r vc) s fun t =>
    let a : Nat := pageBase (pgCsi r) + (Off.CSI_VC_ERR + 4 * (vc % 16))
    t.out = s.out ++ [.readData w a (if flag s (pgCsi r) Off.CSI_CFG 17 then (reg s a).toNat else 0)] ∧ reg t a = 0 ∧ RegsBut [a] s t

/-- Pipelines: a slice that is asked for goes, at the end of the beat, to the ready line of the earliest deadline; at its end its line is
counted and the frame moves on, or ends; the table ports read and write the entry at their address, which then advances. Choices of the
model that it rests on: log 8 and 31. -/
def Obligations.Pipelines : Prop :=
  let deadline (s : State) (n i : Nat) (r : Nat × Nat × IspFrame) : Nat :=
    r.2.1 + r.2.2.fld s n (Off.ISP_IN_TIMING + 0x10 * i) 0 16 * (r.2.2.bufLines s n - 5)
  let idle (s : State) (n : Nat) : Prop :=
    pagePresent s.part (pgIsp n) = true ∧ pageOn s (pgIsp n) = true ∧ (ispOf s n).slice = none ∧ fenced s (pgIsp n) = false
  let at_ (s : State) (n : Nat) : Nat := fld s (pgIsp n) Off.ISP_TBL_ADDR 0 15
  let xat (s : State) (n : Nat) : Nat := fld s (pgIsp n) Off.ISP_XTBL_ADDR 0 9
  let coef (s : State) (n a : Nat) : Nat :=
    (((ispOf s n).coef.find? fun e => e.1 == a).map (·.2)).getD (wrap 12 (Config.scalerCoef (a / 8) (a % 8)))
  (∀ s n, slicesGo s n = true → Runs (.sliceStart n) s fun t => ispOf t n = { ispOf s n with asked := true } ∧ RegsBut [] s t) ∧
  (∀ s n, idle s n → (∃ i < 16, (readyLine s n i).isSome = true) → let t := sliceGrant n s
    RegsBut [] s t ∧ ∃ i r f, i < 16 ∧ readyLine s n i = some r ∧ oldestFrame s n i = some f ∧
      ispOf t n = { ispOf s n with asked := false, slice := some (i, s.tt.beats, sliceBeats f.width) } ∧
      ∀ j x, j < 16 → readyLine s n j = some x → deadline s n i r ≤ deadline s n j x) ∧
  (∀ s n i start len f, (ispOf s n).slice = some (i, start, len) → start + len ≤ s.tt.beats → oldestFrame s n i = some f →
    Runs (.sliceEnd n) s fun t =>
      (ispOf t n).slice = none ∧ Counted (pgIsp n) Off.ISP_CNT_LINES 1 s t ∧
        Counted (pgIsp n) Off.ISP_CNT_DPC (develop s n f f.next).2.2 s t ∧
        (f.closed = false → (oldestFrame t n i).map (·.next) = some (f.next + 1)) ∧
        (f.closed = true → f.limit ≤ f.next + 1 → Counted (pgIsp n) Off.ISP_CNT_FRAMES 1 s t)) ∧
  (∀ s w n v, Admitted s w (pgIsp n) Off.ISP_TBL_DATA → Runs (.ispTblDataAccess w n (some v)) s fun t =>
    tblValue t n (at_ s n) = (if bitAt (at_ s n) 14 then v else BitVec.ofNat 32 (fieldOf v 0 16)) ∧
      (∀ a, a ≠ at_ s n → tblValue t n a = tblValue s n a) ∧ at_ t n = (at_ s n + 1) % 2 ^ 15 ∧
      RegsBut [pageBase (pgIsp n) + Off.ISP_TBL_ADDR, hhLost] s t) ∧
  (∀ s w n, Readable s w (pgIsp n) Off.ISP_TBL_DATA → Runs (.ispTblDataAccess w n none) s fun t =>
    t.out = s.out ++ [.readData w (pageBase (pgIsp n) + Off.ISP_TBL_DATA) (tblValue s n (at_ s n)).toNat] ∧
      at_ t n = (at_ s n + 1) % 2 ^ 15 ∧ RegsBut [pageBase (pgIsp n) + Off.ISP_TBL_ADDR] s t) ∧
  (∀ s w n v, Admitted s w (pgIsp n) Off.ISP_XTBL_DATA → Runs (.ispXtblDataAccess w n (some v)) s fun t =>
    coef t n (xat s n) = fieldOf v 0 12 ∧ (∀ a, a ≠ xat s n → coef t n a = coef s n a) ∧ xat t n = (xat s n + 1) % 2 ^ 9 ∧
      RegsBut [pageBase (pgIsp n) + Off.ISP_XTBL_ADDR, hhLost] s t) ∧
  ∀ s w n, Readable s w (pgIsp n) Off.ISP_XTBL_DATA → Runs (.ispXtblDataAccess w n none) s fun t =>
    t.out = s.out ++ [.readData w (pageBase (pgIsp n) + Off.ISP_XTBL_DATA) (coef s n (xat s n))] ∧
      xat t n = (xat s n + 1) % 2 ^ 9 ∧ RegsBut [pageBase (pgIsp n) + Off.ISP_XTBL_ADDR] s t


/-! ## Tiles -/

/-- Kernels: a launch entry that meets the rules joins the tile's FIFO, by register or by deal, and is refused when the FIFO is full; the
oldest entry starts on an idle enabled tile, in a later beat than the last kernel ended; an instruction that is dispatched waits at its
unit until it may execute, and one that finds its unit full is not dispatched; END completes the kernel once every unit is idle, with its
record and event and its token records, which take the Table Time of its end, and an undefined instruction ends it in a fault. Choices of
the model that it rests on: log 32 and 67. -/
def Obligations.Kernels : Prop :=
  let entry (s : State) (t off : Nat) : Launch := { words := eightWords s (pgMx t) off, queue := none, beat := beatNo s }
  let written (s : State) (t : Nat) (v : Word) : Launch :=
    { words := (eightWords s (pgMx t) Off.TILE_LAUNCH).take 7 ++ [v.toNat], queue := none, beat := beatNo s }
  let takes (s : State) (t : Nat) (l : Launch) : Prop :=
    launchOk s l = true ∧ fdOwnsTile s t l.ctx = true ∧ (tileOf s t).fifo.length < 16
  let a (t off : Nat) : Nat := pageBase (pgMx t) + off
  let ends (s : State) (t pc : Nat) (k : Kernel) : Prop :=
    (tileOf s t).kernel = some k ∧ tileLive s t = true ∧ fetchOk s k.regions k.launch.ctx pc = true
  (∀ s w t v, Admitted s w (pgMx t) (Off.TILE_LAUNCH + 28) → takes s t (written s t v) → Runs (.launchPush w t v) s fun u =>
    tileOf u t = { tileOf s t with fifo := (tileOf s t).fifo ++ [written s t v] } ∧ RegsBut [a t (Off.TILE_LAUNCH + 28), hhLost] s u) ∧
  (∀ s w t v, Admitted s w (pgMx t) (Off.TILE_LAUNCH + 28) → 16 ≤ (tileOf s t).fifo.length → Runs (.launchPush w t v) s fun u =>
    tileOf u t = tileOf s t ∧ Counted (pgMx t) Off.TILE_CNT_LAUNCH_REFUSED 1 s u ∧ Raised (pgMx t) Evt.TILE_LAUNCH_REFUSED u) ∧
  (∀ s t d, DealDue s (pgMx t) d 2 → takes s t (entry s t Off.TILE_DEAL_ENTRY) → Runs (.launch t) s fun u =>
    tileOf u t = { tileOf s t with fifo := (tileOf s t).fifo ++ [entry s t Off.TILE_DEAL_ENTRY] } ∧ Raised (pgMx t) 0 u ∧
      RegsBut (dealRegs (pgMx t)) s u) ∧
  (∀ s t l rest, (tileOf s t).kernel = none → (tileOf s t).fifo = l :: rest → tileLive s t = true → enabledFor s (pgMx t) l.ctx = true →
    (tileOf s t).ended ≠ some s.tt.beats → fetchOk s (openRegions s t) l.ctx (l.word 0) = true → Runs (.kernelStart t) s fun u =>
      (∃ k, (tileOf u t).kernel = some k ∧ k.launch = l ∧ k.startTt = 64 * beatNo s ∧ k.regions = openRegions s t ∧ k.toks = [] ∧ k.tokens = []) ∧
        (tileOf u t).fifo = rest ∧ (tileOf u t).acc = [] ∧ (tileOf u t).vreg = [] ∧ (tileOf u t).queued = [] ∧ flag u (pgMx t) Off.STATUS 8 = true ∧
        rd u (pgMx t) Off.TILE_SEQ_PC = BitVec.ofNat 32 (l.word 0) ∧ RegsBut [seqPc t, a t Off.STATUS] s u) ∧
  (∀ s c t q i free k, unitOf s c = some (t, q, i, free) → Dispatches s t q.unit i k → mayStart s t q i free k = false → Runs c s fun u =>
    Shown s t q.unit i u ∧ RegsBut [seqPc t] s u ∧ tileOf u t =
      { tileOf s t with
        queued := if isQueued (tileOf s t) q.unit i then (tileOf s t).queued else (tileOf s t).queued ++ [q] }) ∧
  (∀ s c t q i free, unitOf s c = some (t, q, i, free) → isQueued (tileOf s t) q.unit i = false → unitRoom (tileOf s t) q.unit = false →
    exec c s = .next s) ∧
  (∀ s c t q i free k, unitOf s c = some (t, q, i, free) → (tileOf s t).kernel = some k → tileLive s t = true →
    isQueued (tileOf s t) q.unit i = false → unitRoom (tileOf s t) q.unit = true → fetchOk s k.regions k.launch.ctx i.pc = false → Runs c s fun u =>
      (tileOf u t).kernel = none ∧ Counted (pgTsp t) Off.TSP_CNT_REGION_FAULT 1 s u ∧ Raised (pgTsp t) Evt.TSP_REGION_FAULT u ∧
        Recorded 0xA 1 1 t u) ∧
  (∀ s t k pc, ends s t pc k → (tileOf s t).waits ≠ [] ∨ (tileOf s t).queued ≠ [] → Runs (.kernelEnd t pc false) s fun u =>
    u.tiles = s.tiles ∧ rd u (pgMx t) Off.TILE_SEQ_PC = BitVec.ofNat 32 pc ∧ RegsBut [seqPc t] s u) ∧
  (∀ s t k pc, ends s t pc k → (tileOf s t).waits = [] → (tileOf s t).queued = [] → Runs (.kernelEnd t pc false) s fun u =>
    (tileOf u t).kernel = none ∧ flag u (pgMx t) Off.STATUS 8 = false ∧ Counted (pgMx t) Off.TILE_CNT_KERNELS 1 s u ∧
      (k.launch.event = true → Raised (pgMx t) Evt.TILE_KERNEL_DONE u) ∧
      (k.launch.record = true → (tileOf s t).comps.length < 16 → (tileOf u t).comps = (tileOf s t).comps ++
        [(k.launch.compq, k.launch.ctx,
          completionBytes k.launch k.launch.tag t 0 k.startTt (64 * beatNo s) pc (ofBool k.accSat))]) ∧
      ((tileOf s t).tokens.length + k.tokens.length ≤ 16 → (∀ e ∈ k.tokens, e.2.length = 16) →
        ((tileOf u t).tokens.map fun e => (e.1, e.2.1, e.2.2.take 7, e.2.2.drop 8)) =
          ((tileOf s t).tokens.map fun e => (e.1, e.2.1, e.2.2.take 7, e.2.2.drop 8)) ++
            k.tokens.map fun e => (e.1, k.launch.ctx, e.2.take 7, leBytes 8 (64 * beatNo s))) ∧
      SramBut t 0 0 s u) ∧
  ∀ s t k pc, ends s t pc k → Runs (.kernelEnd t pc true) s fun u =>
    (tileOf u t).kernel = none ∧ Counted (pgMx t) Off.TILE_CNT_KERNELS 1 s u ∧ Counted (pgMx t) Off.TILE_CNT_FAULTS 1 s u ∧
      Raised (pgMx t) Evt.TILE_KERNEL_FAULT u ∧ Recorded 0xA 2 1 t u

/-- Arithmetic instructions: the matrix array adds every half-block of a group's activations to its accumulators, and a finished group drains
to the vector registers; a vector operation's lanes go to registers or through the write generator, and so do those of Requantise, which
applies channel records; Quantise puts codes and scale bytes, row by row, in registers, in planes of a tile or along two walks, and adds
to the statistics of its point. Choices of the model that it rests on: log 32 and 33. -/
def Obligations.Arithmetic : Prop :=
  let half (s : State) (t : Nat) (o : MatrixOp) (v j b h : Nat) : Half :=
    mkHalf o.wFmt o.aFmt (sramRead s t (o.wBase + blockBytes o.wFmt * b) (blockBytes o.wFmt)) (sramRead s t (o.wScale + 128 * b) 128)
      (sramRead s t (o.aBase + v * o.aPitch) (o.aFmt.bytes (64 * o.blocks))) (sramRead s t (o.aScale + v * o.sPitch) (2 * o.blocks))
      j h (64 * b)
  let exp (s : State) (t at_ : Nat) : Int := (chanRec (sramRead s t at_ 8)).exp
  let sum (s : State) (t : Nat) (o : MatrixOp) (v j : Nat) : Nat × Nat :=
    accHalves o.wFmt o.aFmt (exp s t (o.records + 8 * j)) (sget 0 (tileOf s t).acc (64 * j + v))
      ((List.range o.blocks).flatMap fun b => [half s t o v j b 0, half s t o v j b 1])
  let planes (s : State) (k : Kernel) (o : MatrixOp) : Prop :=
    pairOk o.wFmt o.aFmt = true ∧ 1 ≤ o.batch ∧ o.batch ≤ 64 ∧ 1 ≤ o.blocks ∧ ownOk s k false o.wBase (blockBytes o.wFmt * o.blocks) = true ∧
      (o.wFmt.blocked = true → ownOk s k false o.wScale (128 * o.blocks) = true) ∧
      (o.wFmt.isInt = true → ownOk s k false o.records 512 = true) ∧
      ∀ v < o.batch, ownOk s k false (o.aBase + v * o.aPitch) (o.aFmt.bytes (64 * o.blocks)) = true ∧
        (o.aFmt.blocked = true → ownOk s k false (o.aScale + v * o.sPitch) (2 * o.blocks) = true)
  let wide (o : VectorOp) : Nat := match o.fn with | .transpose => 4 | _ => 1
  let sources (o : VectorOp) : Prop := o.a + wide o ≤ 32 ∧ o.b < 32 ∧ o.c < 32 ∧ ∀ n, o.fn = .table n → n < 7
  let mx (t off : Nat) : Nat := pageBase (pgMx t) + off
  let ve (t off : Nat) : Nat := pageBase (pgVe t) + off
  let mxRegs (t : Nat) : List Nat :=
    [seqPc t, mx t Off.MX_ACC_STATUS, mx t Off.MX_CNT_ACC_SAT, evtOf (pgMx t), ve t Off.VE_CNT_RQ_CLAMP]
  let veRegs (t : Nat) : List Nat :=
    [seqPc t, ve t Off.VE_CNT_NAN, ve t Off.VE_CNT_SAT, ve t Off.VE_CNT_RQ_CLAMP, ve t Off.VE_CNT_QP_FOREIGN, evtOf (pgVe t), hhLost]
  let wideRows (o : QuantOp) : Nat := if o.fmt.blocked then ceilDiv o.cols 32 else 1
  let coded (s : State) (t : Nat) (k : Kernel) (o : QuantOp) : List (List Nat × List Nat) :=
    let q := k.qps.find? fun q => q.point == o.point
    let fixed := q.bind fun q => if q.static then some ((q.base : Int) + q.adj) else none
    (chunks o.cols o.count (lanesFrom s t (256 * o.src) o.count)).map fun row =>
      let r := quantAll o.fmt (if o.fmt.blocked then 32 else o.cols) fixed (fld s (pgVe t) Off.VE_FLAT 0 8)
        (row.map fun w => if o.float then ofF32 w else fvOf (signed 32 w) ((q.map (·.inExp)).getD 0))
      ((r.flatMap (·.codes)).take row.length, r.map (·.scale))
  let elems (s : State) (t : Nat) (k : Kernel) (o : QuantOp) : List Byte := elemPlane o.fmt o.cols (coded s t k o)
  let scales (s : State) (t : Nat) (k : Kernel) (o : QuantOp) : List Byte := scalePlane o.fmt o.cols (coded s t k o)
  let rows (o : QuantOp) : Nat := ceilDiv o.count o.cols
  let planeBytes (o : QuantOp) : Nat × Nat :=
    (rows o * elemPitch o.fmt o.cols, rows o * (if o.fmt.blocked then scalePitch o.cols else 1))
  let quantises (o : QuantOp) : Prop :=
    quantFmt o.fmt = true ∧ o.point < 16 ∧ 1 ≤ o.cols ∧ (o.fmt.blocked = false → o.cols ≤ 4096) ∧ 256 * o.src + o.count ≤ 8192
  let counts (s : State) (t : Nat) (k : Kernel) (o : QuantOp) (u : State) : Prop :=
    (k.qps.find? (fun q => q.point == o.point) = none → Counted (pgVe t) Off.VE_CNT_QP_FOREIGN 1 s u) ∧
      ∀ q, k.qps.find? (fun q => q.point == o.point) = some q → ∃ k', (tileOf u t).kernel = some k' ∧
        (k'.qps.find? fun q => q.point == o.point).map (·.count) = some (q.count + if q.statEn then o.count else 0)
  (∀ s t i o k, Issues s t (unitEntry unitMatrix i) i (unitFree unitMatrix) k → planes s k o → o.drain = none → Runs (.matrixInstruction t i o) s fun u =>
    Completed s t unitMatrix i k u ∧ (∀ j v, j < 64 → v < o.batch → sget 0 (tileOf u t).acc (64 * j + v) = (sum s t o v j).1) ∧
      ((∃ j v, j < 64 ∧ v < o.batch ∧ (sum s t o v j).2 ≠ 0) → Raised (pgMx t) Evt.TILE_ACC_SAT u ∧
        flag u (pgMx t) Off.MX_ACC_STATUS 0 = true) ∧
      SramBut t 0 0 s u ∧ LanesBut t 0 0 s u ∧ RegsBut (mxRegs t) s u) ∧
  (∀ s t i o k r, Issues s t (unitEntry unitMatrix i) i (unitFree unitMatrix) k → planes s k o → o.drain = some r → 256 * r + 64 * o.batch ≤ 8192 →
    Runs (.matrixInstruction t i o) s fun u =>
      Completed s t unitMatrix i k u ∧ (∀ j v, j < 64 → v < o.batch →
        laneOf u t (256 * r + 64 * v + j) = (sum s t o v j).1 % 2 ^ 32 ∧ sget 0 (tileOf u t).acc (64 * j + v) = 0) ∧
        SramBut t 0 0 s u ∧ LanesBut t (256 * r) (64 * o.batch) s u ∧ RegsBut (mxRegs t) s u) ∧
  (∀ s t i o k, Issues s t (vectorEntry i (destWrites o.dst)) i (unitFree unitVector) k → sources o → MayPut s t k (vectorLanes t o s).1.length o.dst →
    Runs (.vectorOperation t i o) s fun u =>
      Completed s t unitVector i k u ∧ PutAt s t k (vectorLanes t o s).1 u o.dst ∧ RegsBut (veRegs t ++ putRegs t o.dst) s u ∧
        (o.fn = .add → o.float = false → ∀ r, o.dst = .reg r → ∀ j < 256, laneOf u t (256 * r + j) =
          wrap 32 (sat32 (signed 32 (laneOf s t (256 * o.a + j)) + signed 32 (laneOf s t (256 * o.b + j)))))) ∧
  (∀ s t i o k, Issues s t (vectorEntry i (destWrites o.dst)) i (unitFree unitVector) k → o.width ∈ [4, 8, 16, 32] → 1 ≤ o.run → 1 ≤ o.chans →
    256 * o.src + o.count ≤ 8192 → ownOk s k false o.records (8 * Nat.min o.chans (ceilDiv o.count o.run)) = true →
    MayPut s t k o.count o.dst → Runs (.requantise t i o) s fun u =>
      Completed s t unitVector i k u ∧ RegsBut (veRegs t ++ putRegs t o.dst) s u ∧
        PutAt s t k ((List.range o.count).map fun j =>
          wrap 32 (requant (chanRec (sramRead s t (o.records + 8 * (j / o.run % o.chans)) 8)) o.width
            (signed 32 (laneOf s t (256 * o.src + j)))).1) u o.dst) ∧
  (∀ s t i o k c g, Issues s t (vectorEntry i (quantWrites o.dst)) i (unitFree unitVector) k → quantises o → o.dst = .regs c g → 256 * c + o.count ≤ 8192 →
    256 * g + rows o * wideRows o ≤ 8192 → Runs (.quantise t i o) s fun u =>
      Completed s t unitVector i k u ∧ counts s t k o u ∧
        lanesFrom u t (256 * g) ((coded s t k o).flatMap (·.2)).length = ((coded s t k o).flatMap (·.2)).map (· % 2 ^ 32) ∧
        (256 * c + o.count ≤ 256 * g ∨ 256 * g + rows o * wideRows o ≤ 256 * c →
          lanesFrom u t (256 * c) o.count = ((coded s t k o).flatMap (·.1)).map (· % 2 ^ 32)) ∧
        SramBut t 0 0 s u ∧ RegsBut (veRegs t) s u) ∧
  (∀ s t i o k e g, Issues s t (vectorEntry i (quantWrites o.dst)) i (unitFree unitVector) k → quantises o → o.dst = .planes none e g →
    ownOk s k true e (planeBytes o).1 = true → ownOk s k true g (planeBytes o).2 = true → Runs (.quantise t i o) s fun u =>
      Completed s t unitVector i k u ∧ counts s t k o u ∧ sramRead u t g (planeBytes o).2 = scales s t k o ∧
        (e + (planeBytes o).1 ≤ g ∨ g + (planeBytes o).2 ≤ e → sramRead u t e (planeBytes o).1 = elems s t k o) ∧
        (∀ a, (a < e ∨ e + (planeBytes o).1 ≤ a) → (a < g ∨ g + (planeBytes o).2 ≤ a) →
          sget 0 (tileOf u t).sram a = sget 0 (tileOf s t).sram a) ∧
        LanesBut t 0 0 s u ∧ RegsBut (veRegs t) s u) ∧
  (∀ s t i o k we wg, Issues s t (vectorEntry i (quantWrites o.dst)) i (unitFree unitVector) k → quantises o → o.dst = .gen .own we .own wg →
    walkOk we = true → walkOk wg = true → spotsOk s k.regions k.launch.ctx true we = true →
    spotsOk s k.regions k.launch.ctx true wg = true → Runs (.quantise t i o) s fun u =>
      Completed s t unitVector i k u ∧ counts s t k o u ∧ (tileOf u t).sram = (tileOf (walkWrite t wg ((coded s t k o).flatMap (·.2))
        (walkWrite t we ((coded s t k o).flatMap (·.1)) s)) t).sram ∧ LanesBut t 0 0 s u ∧ RegsBut (veRegs t) s u) ∧
  ∀ s t i o k f e g, Issues s t (vectorEntry i (quantWrites o.dst)) i (unitFree unitVector) k → quantises o → o.dst = .planes (some f) e g → tileLive s f = true →
    admits s f k.launch.ctx = true → sramOk s (farRegions s k f) k.launch.ctx true e (planeBytes o).1 = true →
    sramOk s (farRegions s k f) k.launch.ctx true g (planeBytes o).2 = true → Runs (.quantise t i o) s fun u =>
      Completed s t unitVector i k u ∧ counts s t k o u ∧ sramRead u f g (planeBytes o).2 = scales s t k o ∧
        (e + (planeBytes o).1 ≤ g ∨ g + (planeBytes o).2 ≤ e → sramRead u f e (planeBytes o).1 = elems s t k o) ∧
        Counted (pgTsp t) Off.TSP_CNT_REMOTE_WR 1 s u ∧ LanesBut t 0 0 s u ∧
        RegsBut ((pageBase (pgTsp t) + Off.TSP_CNT_REMOTE_WR) :: veRegs t ++ flitRegs (t / 16) (f / 16)) s u

/-- A state instruction steps its segments through its tokens, entry by entry under the decay of its gate table, puts the read-outs at their
destination, and waits while a segment zeroes; a window instruction computes its output rows, and waits for halo rows; a generator walks
the tile's own SRAM, a home slot that the pool has, the kitty's, the token records of its kernel, or a stream queue, and what the kitty
cannot serve yet stays at its unit. Choices of the model that it rests on: log 32, 33 and 34. -/
def Obligations.StateWindowWalk : Prop :=
  let may (s : State) (t : Nat) (o : StateOp) (k : Kernel) : Prop :=
    1 ≤ o.tokens ∧ o.tokens ≤ 64 ∧ o.segs ≠ [] ∧ (o.segs.map (·.seg)).Nodup ∧ ∀ q ∈ o.segs, segSteps s t k.launch.ctx q.seg = true ∧
      slotValid s t (segOf s t q.seg).table = true ∧ segAccess s k (segOf s t q.seg) q o.tokens = 0
  let puts (s : State) (t : Nat) (o : StateOp) (k : Kernel) : Prop :=
    ∀ q ∈ o.segs, (segOf s t q.seg).zeroing = false ∧ MayPut s t k ((segOf s t q.seg).channels * o.tokens) q.y
  let entry (s : State) (t n e : Nat) : Int := signed 48 (sget 0 (tileOf s t).entries ((segOf s t n).base + e))
  let win (s : State) (t : Nat) (o : WindowOp) : Win := winOf (sramRead s t o.desc 64)
  let mayWin (s : State) (t : Nat) (o : WindowOp) (k : Kernel) : Prop :=
    ownOk s k false o.desc 64 = true ∧ (win s t o).tileOk = true ∧ winOperands s k o (win s t o) = 0 ∧
      ∀ y < (win s t o).rows, (winReads s t (win s t o) k ((win s t o).row0 + y)).1 = 0 ∧
        winWrites s k o (win s t o) ((win s t o).row0 + y) = true
  let winIssues (s : State) (t : Nat) (i : Issue) (o : WindowOp) (k : Kernel) : Prop :=
    Issues s t { unitEntry (winUnit (win s t o)) i with writes := postWrites o.post } i (unitFree (winUnit (win s t o))) k ∧ mayWin s t o k
  let n (o : GenOp) : Nat := Nat.min (walkSpots o.walk).length (8192 - 256 * o.reg)
  let got (t : Nat) (o : GenOp) (vs : List Nat) (u : State) : Prop :=
    lanesFrom u t (256 * o.reg) (n o) = (vs.take (n o)).map (· % 2 ^ 32)
  let gives (s : State) (t : Nat) (o : GenOp) : List Nat := (walkLanes t o.reg o.walk s).1
  let walks (s : State) (t : Nat) (i : Issue) (o : GenOp) (k : Kernel) : Prop :=
    Issues s t { unitEntry (genUnit i o.write) i with writes := o.write } i anyWait k ∧ walkOk o.walk = true
  let done (s : State) (t : Nat) (i : Issue) (o : GenOp) (k : Kernel) (u : State) : Prop := Completed s t (genUnit i o.write) i k u
  let tenant (s : State) (k : Kernel) : Nat := ctxTenant s k.launch.ctx
  let asks (s : State) (t : Nat) (i : Issue) (h : Home) (host : Option (List Byte)) (k : Kernel) : Nat × List Byte × State :=
    homeFetch t h host k (bump (pgTsp t) Off.TSP_CNT_POOL_MISS 1 (atUnit s t (unitEntry (readUnit i) i) i))
  (∀ s t i o k, Issues s t (stateEntry i o) i stateFree k → may s t o k → puts s t o k → Runs (.stateInstruction t i o) s fun u =>
      Completed s t unitState i k u ∧ (∀ q ∈ o.segs, (segOf u t q.seg).pos = ((segOf s t q.seg).pos + o.tokens) % 2 ^ 32 ∧
        (segOf u t q.seg).first = false) ∧
        Counted (pgSu t) Off.SU_CNT_STEPS (o.tokens * o.segs.length) s u) ∧
  (∀ s t i o k q, Issues s t (stateEntry i o) i stateFree k → may s t o k → puts s t o k → o.segs = [q] → o.tokens = 1 →
    Runs (.stateInstruction t i o) s fun u =>
      let g := segOf s t q.seg
      let ops := segOperands s t g q 1 0
      let ofs := sramInts s t (4096 * fieldOf g.planes 0 12) (if g.perElement then g.n * g.channels else 0) 2 16
      let init := sramInts s t (4096 * fieldOf g.planes 16 12) (if g.init then g.n * g.channels else 0) 8 48
      (∀ c j, c < g.channels → j < g.n →
        let gate : Int := ops.z.getD c 0 + (if g.perElement then ofs.getD (g.n * c + j) 0 else 0)
        let delta : Int := (decayDelta (gateTable s t g.table) (if g.decNeg then -gate else gate)).1
        let old : Int := if bitAt q.mask 0 || g.first then init.getD (g.n * c + j) 0 else entry s t q.seg (g.n * c + j)
        entry u t q.seg (g.n * c + j) = (stepEntry g.xnorm delta old (ops.b.getD j 0) (ops.x.getD c 0)).1) ∧
        PutAt s t k ((List.range g.channels).map fun c =>
          readOut ops.c ((List.range g.n).map fun j => entry u t q.seg (g.n * c + j))) u q.y) ∧
  (∀ s t i o k, Issues s t (stateEntry i o) i stateFree k → may s t o k → (∃ q ∈ o.segs, (segOf s t q.seg).zeroing = true) →
    Runs (.stateInstruction t i o) s fun u =>
      (tileOf u t).waits = (tileOf s t).waits ++ [.state o i] ∧ isQueued (tileOf u t) unitState i = true ∧ (tileOf u t).segs = (tileOf s t).segs ∧ RegsBut [seqPc t] s u) ∧
  (∀ s t i o k, winIssues s t i o k → (∀ y < (win s t o).rows, winReady s t o (win s t o) ((win s t o).row0 + y) = true) →
    Runs (.windowInstruction t i o) s fun u =>
      Completed s t (winUnit (win s t o)) i k u ∧ ∀ dst, o.post = .regs dst → SramBut t 0 0 s u ∧ ∀ y < (win s t o).rows,
        lanesFrom u t (256 * dst + y * (win s t o).outC * (win s t o).outW) ((win s t o).outC * (win s t o).outW) =
          (winRow s t o (win s t o) (winExps t o (win s t o) s).1 ((win s t o).row0 + y)).map fun v => v.1 % 2 ^ 32) ∧
  (∀ s t i o k, winIssues s t i o k → winReady s t o (win s t o) (win s t o).row0 = false → Runs (.windowInstruction t i o) s fun u =>
      (tileOf u t).waits = (tileOf s t).waits ++ [.window o (sramRead s t o.desc 64) (winUnit (win s t o)) (win s t o).row0 i] ∧
        SramBut t 0 0 s u ∧ LanesBut t 0 0 s u) ∧
  (∀ s t i host o k, walks s t i o k → spotsOk s k.regions k.launch.ctx o.write o.walk = true →
    Runs (.addressGeneratorAccess t i .own host o) s fun u =>
      done s t i o k u ∧ RegsBut [seqPc t] s u ∧
        (o.write = false → got t o (walkRead s t o.walk) u ∧ SramBut t 0 0 s u ∧ LanesBut t (256 * o.reg) (n o) s u) ∧
        (o.write = true → Walked t o.walk (gives s t o) s u ∧ LanesBut t 0 0 s u)) ∧
  (∀ s t i h host o k l, walks s t i o k → inSlot o.walk = true → o.write = false → poolFind s t h (tenant s k) = some l →
    Runs (.addressGeneratorAccess t i (.home h) host o) s fun u =>
      done s t i o k u ∧ got t o (bytesWalk (lineData s t l.line) o.walk) u ∧ Counted (pgTsp t) Off.TSP_CNT_POOL_HIT 1 s u ∧
        SramBut t 0 0 s u ∧ RegsBut [seqPc t, pageBase (pgTsp t) + Off.TSP_CNT_POOL_HIT] s u) ∧
  (∀ s t i h host o k l x, walks s t i o k → inSlot o.walk = true → o.write = false → poolFind s t h (tenant s k) = none →
    poolNext s t h (tenant s k) = some l → l.next = some x → Runs (.addressGeneratorAccess t i (.home h) host o) s fun u =>
      done s t i o k u ∧ got t o (bytesWalk x.data o.walk) u ∧ Counted (pgTsp t) Off.TSP_CNT_POOL_HIT 1 s u ∧ SramBut t 0 0 s u ∧
        RegsBut [seqPc t, pageBase (pgTsp t) + Off.TSP_CNT_POOL_HIT] s u) ∧
  (∀ s t i h host o k bs, walks s t i o k → inSlot o.walk = true → o.write = false → poolFind s t h (tenant s k) = none →
    poolNext s t h (tenant s k) = none → (∃ r, asks s t i h host k = (0, bs, r)) → Runs (.addressGeneratorAccess t i (.home h) host o) s fun u =>
      done s t i o k u ∧ got t o (bytesWalk bs o.walk) u ∧ Counted (pgTsp t) Off.TSP_CNT_POOL_MISS 1 s u) ∧
  (∀ s t i h host o k, walks s t i o k → inSlot o.walk = true → o.write = false → poolFind s t h (tenant s k) = none →
    poolNext s t h (tenant s k) = none → (asks s t i h host k).1 = 9 → Runs (.addressGeneratorAccess t i (.home h) host o) s fun u =>
      isQueued (tileOf u t) (readUnit i) i = true ∧ (tileOf u t).kernel = some k ∧ SramBut t 0 0 s u ∧ LanesBut t 0 0 s u) ∧
  (∀ s t i h host o k l, walks s t i o k → inSlot o.walk = true → o.write = true →
    poolFind s t h (tenant s k) = some l → Runs (.addressGeneratorAccess t i (.home h) host o) s fun u =>
      done s t i o k u ∧ lineData u t l.line = bytesPut (lineData s t l.line) o.walk (gives s t o) ∧
        SramBut t (4096 * l.line) 4096 s u ∧ RegsBut [seqPc t] s u ∧
        ∃ m ∈ poolLines u t, m.line = l.line ∧ m.st = 4) ∧
  (∀ s t i h host o k, walks s t i o k → inSlot o.walk = true → o.write = true → memAllows s (.ctx k.launch.ctx) h true = true →
    poolFind s t h (tenant s k) = none → poolNext s t h (tenant s k) = none → chooseLine s t = none → o.walk.nibbles ≠ 1 →
    Runs (.addressGeneratorAccess t i (.home h) host o) s fun u =>
      (∃ segs, (tileOf u t).waits = (tileOf s t).waits ++ [.acks i segs]) ∧ (tileOf u t).kernel = some k ∧
        (tileOf u t).writes = (tileOf s t).writes ++
          (writeRuns o.walk (gives s t o)).map (fun r => writeOut s t h (.ctx k.launch.ctx) r.1 r.2 none) ∧
        Counted (pgTsp t) Off.TSP_CNT_POOL_SPILL 1 s u ∧ SramBut t 0 0 s u) ∧
  (∀ s t i q host o k, walks s t i o k → o.write = true → o.walk.nibbles ≠ 1 →
    (walkSpots o.walk).length * walkBytes o.walk = 16 →
    Runs (.addressGeneratorAccess t i (.tokens q) host o) s fun u =>
      done s t i o k u ∧ RegsBut [seqPc t] s u ∧ ((tileOf u t).kernel.map (·.tokens)) =
        some (k.tokens ++ [(q, (gives s t o).flatMap fun v => leBytes (walkBytes o.walk) v)])) ∧
  ∀ s t i q host o k, walks s t i o k → o.write = true → Runs (.addressGeneratorAccess t i (.stream q) host o) s fun u =>
    done s t i o k u ∧ RegsBut [seqPc t] s u ∧
      (tileOf u t).outs = (tileOf s t).outs ++ [(q, k.launch.ctx, streamBytes o.walk (gives s t o))]

/-- Other tiles: halo counters are set, posted to and waited for, only by their owning context, and a post commits once it is due, of one
target's posts those of the lower tile first, one that is late with the marks of a late commit, and is discarded 192 beats after it was
sent; a read generator reads another tile's SRAM and the write generator writes it, under that tile's own region entries. Choices of the
model that it rests on: log 9 and 32. -/
def Obligations.HaloAndRemote : Prop :=
  let halo (t c : Nat) : Nat := pageBase (pgTsp t) + (Off.TSP_HALO + 4 * c)
  let drops (t : Nat) : List Nat := [pageBase (pgTsp t) + Off.TSP_CNT_HALO_DROP, evtOf (pgTsp t)]
  let n (w : GenWalk) (reg : Nat) : Nat := Nat.min (walkSpots w).length (8192 - 256 * reg)
  let admitted (s : State) (u : Nat) (k : Kernel) (write : Bool) (w : GenWalk) : Prop :=
    walkOk w = true ∧ u < 64 ∧ tileLive s u = true ∧ admits s u k.launch.ctx = true ∧
      spotsOk s (farRegions s k u) k.launch.ctx write w = true
  let syncs (s : State) (t : Nat) (i : Issue) (k : Kernel) : Prop := Issues s t (unitEntry unitSync i) i syncFree k
  let done (s : State) (t : Nat) (i : Issue) (k : Kernel) (u : State) : Prop := Completed s t unitSync i k u
  let posts (s : State) (t : Nat) (i : Issue) (k : Kernel) : Prop := Issues s t { unitEntry unitSync i with posts := true } i syncFree k
  let late (s : State) (t : Nat) (p : HaloPost) : Prop := p.due < beatNo s ∧ t / 16 ≠ p.target / 16 ∧ relaxed s p.target = false
  let lateRegs : List Nat := [evtOf pgTT, pageBase pgTT + Off.TT_CNT_LATE_COMMIT, hhLost]
  let commits (s : State) (t : Nat) (p : HaloPost) : Prop :=
    (tileOf s t).posts.find? (postDue s t) = some p ∧ p.ctr < 64 ∧ tileLive s p.target = true ∧ admits s p.target p.ctx = true
  (∀ s t i c v k, syncs s t i k → c < 64 → haloOwner s t c k.launch.ctx = true → Runs (.set t i c v) s fun u =>
    haloValue u t c = v % 2 ^ 32 ∧ (∀ d < 64, d ≠ c → haloValue u t d = haloValue s t d) ∧
      ((tileOf s t).waits = [] → done s t i k u ∧ RegsBut [seqPc t, halo t c] s u)) ∧
  (∀ s t i c v k, syncs s t i k → (tileOf s t).waits = [] → c < 64 → haloOwner s t c k.launch.ctx = false → Runs (.set t i c v) s fun u =>
    Counted (pgTsp t) Off.TSP_CNT_HALO_DROP 1 s u ∧ Raised (pgTsp t) Evt.TSP_HALO_DROP u ∧ RegsBut (seqPc t :: drops t) s u) ∧
  (∀ s t i g c v k, posts s t i k → c < 64 → g < 64 → 1 ≤ v → v ≤ 65535 → Runs (.post t i g c v) s fun u =>
    done s t i k u ∧ (tileOf u t).posts = (tileOf s t).posts ++ [⟨g, c, v, k.launch.ctx, beatNo s + postBeats t g⟩] ∧
      RegsBut [seqPc t] s u) ∧
  (∀ s t i c v k, syncs s t i k → c < 64 → v ≤ haloValue s t c → Runs (.wait t i c v) s fun u =>
    done s t i k u ∧ (tileOf u t).waits = (tileOf s t).waits ∧ RegsBut [seqPc t] s u) ∧
  (∀ s t i c v k, syncs s t i k → c < 64 → haloValue s t c < v → Runs (.wait t i c v) s fun u =>
    (tileOf u t).waits = (tileOf s t).waits ++ [.counter c v i] ∧ (tileOf u t).kernel = some k ∧ RegsBut [seqPc t] s u) ∧
  (∀ s t p, commits s t p → haloOwner s p.target p.ctr p.ctx = true → Runs (.haloPostCommit t) s fun u =>
    haloValue u p.target p.ctr = satNat 0xFFFFFFFF (haloValue s p.target p.ctr + p.v) ∧
      ((tileOf s p.target).waits = [] → (tileOf u t).posts = (tileOf s t).posts.erase p ∧
        (¬ late s t p → RegsBut (halo p.target p.ctr :: flitRegs (t / 16) (p.target / 16)) s u) ∧
        (late s t p → Raised pgTT Evt.TT_LATE_COMMIT u ∧ Counted pgTT Off.TT_CNT_LATE_COMMIT 1 s u ∧ replayable u = false ∧
          RegsBut (halo p.target p.ctr :: (lateRegs ++ flitRegs (t / 16) (p.target / 16))) s u))) ∧
  (∀ s t p, commits s t p → haloOwner s p.target p.ctr p.ctx = false → (tileOf s p.target).waits = [] →
    Runs (.haloPostCommit t) s fun u =>
      Counted (pgTsp p.target) Off.TSP_CNT_HALO_DROP 1 s u ∧ Raised (pgTsp p.target) Evt.TSP_HALO_DROP u ∧
        RegsBut (drops p.target ++ lateRegs ++ flitRegs (t / 16) (p.target / 16)) s u) ∧
  (∀ s t, ∀ p ∈ (tileOf (postsEnd s) t).posts, beatNo s < postSent t p + 192) ∧
  (∀ s t, (tileOf s t).posts.find? (postDue s t) = none → exec (.haloPostCommit t) s = .next s) ∧
  (∀ s t g i walk reg k, Issues s t (unitEntry (readUnit i) i) i anyWait k → admitted s g k false walk → Runs (.remoteRead t g i walk reg) s fun u =>
    Completed s t (readUnit i) i k u ∧
      lanesFrom u t (256 * reg) (n walk reg) = ((walkRead s g walk).take (n walk reg)).map (· % 2 ^ 32) ∧
      Counted (pgTsp t) Off.TSP_CNT_REMOTE_RD 1 s u ∧ LanesBut t (256 * reg) (n walk reg) s u ∧ SramBut g 0 0 s u ∧ SramBut t 0 0 s u ∧
      RegsBut (seqPc t :: (pageBase (pgTsp t) + Off.TSP_CNT_REMOTE_RD) :: flitRegs (g / 16) (t / 16)) s u) ∧
  (∀ s t g i walk reg k, Issues s t { unitEntry unitWrite i with writes := true } i anyWait k → admitted s g k true walk → Runs (.remoteWrite t g i walk reg) s fun u =>
    Completed s t unitWrite i k u ∧ Walked g walk (walkLanes t reg walk s).1 s u ∧
      Counted (pgTsp t) Off.TSP_CNT_REMOTE_WR 1 s u ∧
      RegsBut (seqPc t :: (pageBase (pgTsp t) + Off.TSP_CNT_REMOTE_WR) :: flitRegs (t / 16) (g / 16)) s u) ∧
  ∀ s t g i walk reg k, Issues s t (unitEntry (readUnit i) i) i anyWait k → walkOk walk = true → g < 64 → tileLive s g = true →
    admits s g k.launch.ctx = true → spotsOk s (farRegions s k g) k.launch.ctx false walk = false →
    Runs (.remoteRead t g i walk reg) s fun u =>
      (tileOf u t).kernel = none ∧ Counted (pgTsp g) Off.TSP_CNT_REGION_FAULT 1 s u ∧ Raised (pgTsp g) Evt.TSP_REGION_FAULT u ∧
        Recorded 0xA 1 1 t u


/-- Clocks, die links and memory errors: a clock request is held and shown as pending, and its change, at a beat boundary after it at the
earliest, brings the clock to it, under the cap, THROTTLED where the cap holds it below its request; a flit's failures are counted, the
eighth takes its module out, and an undelivered flit fences the link's ends; memories correct and count errors, or record them, poison the
granule or fence the domain. Choices of the model that it rests on: log 32 and 66. -/
def Obligations.ClocksLinksErrors : Prop :=
  let req (v : Word) : Nat := fieldOf v 0 6
  let at_ (noc : Bool) (k : Nat) : Nat := pageBase (clkPage noc k) + clkReg noc
  let want (s : State) (noc : Bool) (k : Nat) : Nat := fld s (clkPage noc k) (clkReg noc) 0 6
  let eff (s : State) (noc : Bool) (k : Nat) : Nat := fld s (clkPage noc k) (clkReg noc) 8 6
  let link (e : Nat × Nat) (off : Nat) : Nat := pageBase (pgLink e) + off
  let granule (a : Nat) : Nat := a / 64 * 64
  let readable (s : State) (a : Nat) : Prop :=
    a < memEnd s ∧ pagePresent s.part (pgMc (homeMd s (granule a))) = true ∧ pageOn s (pgMc (homeMd s (granule a))) = true
  (∀ s w noc k v, Admitted s w (clkPage noc k) (clkReg noc) → 8 ≤ req v → req v ≤ 44 → Runs (.clockRequest w noc k v) s fun u =>
    want u noc k = req v ∧ eff u noc k = eff s noc k ∧
      (noc = false → flag u (pgMx k) Off.TILE_CLK 14 = (Nat.min (req v) (clkCap s) != eff s false k)) ∧
      RegsBut [at_ noc k, hhLost] s u) ∧
  (∀ s w k v, Admitted s w (pgMx k) Off.TILE_CLK → req v < 8 ∨ 44 < req v → Runs (.clockRequest w false k v) s fun u =>
    Counted (pgMx k) Off.TILE_CNT_CFG_REFUSED 1 s u ∧ RegsBut [pageBase (pgMx k) + Off.TILE_CNT_CFG_REFUSED, hhLost] s u) ∧
  (∀ s noc k, clockDue s noc k = false → exec (.clockChange noc k) s = .next s) ∧
  (∀ s noc k, pagePresent s.part (clkPage noc k) = true → pageOn s (clkPage noc k) = true → hhMode s ≠ 2 → clockDue s noc k = true →
    Runs (.clockChange noc k) s fun u =>
      eff u noc k = Nat.min (want s noc k) (clkCap s) ∧ want u noc k = want s noc k ∧
        (noc = false → flag u (pgMx k) Off.TILE_CLK 14 = false ∧
          flag u (pgMx k) Off.TILE_CLK 15 = decide (Nat.min (want s false k) (clkCap s) < want s false k) ∧
          (eff u noc k ≠ eff s noc k → Counted (pgMx k) Off.TILE_CNT_CLK_CHANGES 1 s u)) ∧
        RegsBut [at_ noc k, pageBase (pgMx k) + Off.TILE_CNT_CLK_CHANGES, hhLost] s u) ∧
  (∀ s die edge m nth, linkLive s die edge = true → m < 4 → flag s (pgLink (die, edge)) Off.DL_STATUS (4 + m) = true →
    Runs (.flitCrcFailure die edge m nth) s fun u =>
      Counted (pgLink (die, edge)) Off.DL_CNT_CRC 1 s u ∧
        (nth = 2 → Counted (pgLink (die, edge)) Off.DL_CNT_REPLAY2 1 s u) ∧
        (nth ≠ 8 → RegsBut [link (die, edge) Off.DL_CNT_CRC, link (die, edge) Off.DL_CNT_REPLAY2] s u) ∧
        (nth = 8 → ∀ e ∈ linkEnds die edge, flag u (pgLink e) Off.DL_STATUS (4 + m) = false ∧ Raised (pgLink e) Evt.DL_DEGRADED u)) ∧
  (∀ s die edge, linkLive s die edge = true → Runs (.flitDiscard die edge) s fun u =>
    ∀ e ∈ linkEnds die edge, fld u (pgLink e) Off.DL_STATUS 4 4 = 0 ∧
      (domainLive s (64 + e.1) = true → phaseOf s (64 + e.1) = 0 → phaseOf u (64 + e.1) = 1)) ∧
  (∀ s a bits, readable s a → 1 ≤ bits → granule a ∉ s.mem.poison → Runs (.eccError (.hbm a) true bits) s fun u =>
    Counted (pgMc (homeMd s (granule a))) Off.MC_CNT_CORR 1 s u ∧ Raised (pgMc (homeMd s (granule a))) Evt.MC_CORR u ∧
      u.mem.poison = s.mem.poison ∧ u.hbm = s.hbm) ∧
  (∀ s a bits, readable s a → 1 ≤ bits → Runs (.eccError (.hbm a) false bits) s fun u =>
    Counted (pgMc (homeMd s (granule a))) Off.MC_CNT_UNCORR 1 s u ∧ Raised (pgMc (homeMd s (granule a))) Evt.MC_UNCORR u ∧
      granule a ∈ u.mem.poison ∧ Recorded 3 1 1 (72 + homeMd s (granule a)) u) ∧
  (∀ s t a bits, pagePresent s.part (pgMx t) = true → pageOn s (pgMx t) = true → flag s pgFc Off.FC_CFG 1 = false →
    Runs (.eccError (.tileSram t a) true bits) s fun u =>
      Counted (pgTsp t) Off.TSP_CNT_ECC_CORR 1 s u ∧ u.tiles = s.tiles ∧ u.fc = s.fc ∧
        RegsBut [pageBase (pgTsp t) + Off.TSP_CNT_ECC_CORR, pageBase pgFc + Off.FC_CNT_CORR_SUPPRESSED] s u) ∧
  ∀ s t a bits, t < 64 → pagePresent s.part (pgMx t) = true → pageOn s (pgMx t) = true → domainLive s t = true → phaseOf s t = 0 →
    Runs (.eccError (.tileSram t a) false bits) s fun u => phaseOf u t = 1 ∧ (tileOf u t).kernel = none ∧
      ∀ r, domainRoot t = some r → flag u r Off.FENCE_STATUS 5 = true

/-- Stem engines: an entry that meets the rules joins the FIFO, by register or by deal; the oldest job starts on an idle enabled engine, its
descriptor and parameters read and checked, in a later beat than the last job ended; lines of its pipeline output are bound to it, lines
that no job takes are counted, and the mark of a dropped frame ends it; a job on tile SRAM writes its rows and ends, and the end is
recorded, or a refused access ends it. Choices of the model that it rests on: log 33. -/
def Obligations.StemJobs : Prop :=
  let entry (s : State) (d off : Nat) : Launch := { words := eightWords s (pgStem d) off, queue := none, beat := beatNo s }
  let written (s : State) (d : Nat) (v : Word) : Launch :=
    { words := (eightWords s (pgStem d) Off.STEM_JOB).take 7 ++ [v.toNat], queue := none, beat := beatNo s }
  let takes (s : State) (d : Nat) (l : Launch) : Prop :=
    jobOk s l = true ∧ fdOwnsStem s d l.ctx = true ∧ (stemOf s d).fifo.length < 8
  let a (d off : Nat) : Nat := pageBase (pgStem d) + off
  let waiting (s : State) (d n o : Nat) (x : OutLine) : Prop :=
    nextLine s n o = some x ∧ x.stem = d ∧ stemLive s d = true
  let bound (n o : Nat) (x : OutLine) (j : StemJob) : Prop :=
    j.launch.src = n + 1 ∧ j.launch.srcId = o ∧
      ((j.frame = none ∧ x.line = 0 ∧ x.lost = false) ∨ ∃ k, j.frame = some (x.frame, k))
  let ends (s u : State) (d : Nat) (j : StemJob) : Prop :=
    (stemOf u d).job = none ∧ (stemOf u d).fifo = (stemOf s d).fifo ∧ flag u (pgStem d) Off.STATUS 8 = false ∧
      Counted (pgStem d) Off.STEM_CNT_JOBS 1 s u ∧ (j.launch.event = true → Raised (pgStem d) Evt.STEM_JOB_DONE u) ∧
      (j.launch.record = true → (stemOf u d).comps = (stemOf s d).comps ++ [(j.launch.stemQueue, j.launch.ctx,
        completionBytes j.launch j.launch.stemTag (0x40 + d) 0 j.startTt (64 * beatNo s) 0 0)])
  let starts (s : State) (d : Nat) (l : Launch) (rest : List Launch) : Prop :=
    (stemOf s d).job = none ∧ (stemOf s d).fifo = l :: rest ∧ stemLive s d = true ∧ enabledFor s (pgStem d) l.ctx = true ∧
      (stemOf s d).ended ≠ some s.tt.beats
  let ofTile (s : State) (d : Nat) (j : StemJob) : Prop := (stemOf s d).job = some j ∧ stemLive s d = true ∧ j.launch.src = 0
  let rowsDo (s : State) (d : Nat) (j : StemJob) : Bool :=
    (stemRows d j (j.win.source s (dieTile d j.launch.srcId)) (fun _ => true) (rowsLeft j.win j) j.row s).1
  let pitch (w : Win) : Nat := elemPitch .int8 w.outW
  (∀ s w d v, Admitted s w (pgStem d) (Off.STEM_JOB + 28) → takes s d (written s d v) → Runs (.stemJobPush w d v) s fun u =>
    stemOf u d = { stemOf s d with fifo := (stemOf s d).fifo ++ [written s d v] } ∧ RegsBut [a d (Off.STEM_JOB + 28), hhLost] s u) ∧
  (∀ s w d v, Admitted s w (pgStem d) (Off.STEM_JOB + 28) → 8 ≤ (stemOf s d).fifo.length → Runs (.stemJobPush w d v) s fun u =>
    stemOf u d = stemOf s d ∧ Counted (pgStem d) Off.STEM_CNT_JOB_REFUSED 1 s u ∧ Raised (pgStem d) Evt.STEM_JOB_REFUSED u) ∧
  (∀ s d k, DealDue s (pgStem d) k 2 → takes s d (entry s d Off.STEM_DEAL_ENTRY) → Runs (.job d) s fun u =>
    stemOf u d = { stemOf s d with fifo := (stemOf s d).fifo ++ [entry s d Off.STEM_DEAL_ENTRY] } ∧ Raised (pgStem d) 0 u ∧
      RegsBut (dealRegs (pgStem d)) s u) ∧
  (∀ s d l rest, starts s d l rest → stemCheck s d l = 0 → Runs (.stemJobStart d) s fun u =>
    (stemOf u d).fifo = rest ∧ (stemOf u d).job = some
      { launch := l, startTt := 64 * beatNo s, desc := stemDesc s d l, params := stemParams s d l, accepted := l.src == 0
        frame := none, lines := 0, row := (stemWin s d l).row0 } ∧
      flag u (pgStem d) Off.STATUS 8 = true ∧ RegsBut [a d Off.STATUS] s u) ∧
  (∀ s d l rest, starts s d l rest → stemCheck s d l ≠ 0 → Runs (.stemJobStart d) s fun u =>
    (stemOf u d).job = none ∧ (stemOf u d).fifo = rest ∧ Counted (pgStem d) Off.STEM_CNT_FAULTS 1 s u ∧
      Raised (pgStem d) Evt.STEM_JOB_FAULT u ∧ Recorded 0xA (stemCheck s d l) 1 (68 + d) u) ∧
  (∀ s n o d x, waiting s d n o x → (∀ j, (stemOf s d).job = some j → ¬ bound n o x j) → Runs (.stemLineCommit n o) s fun u =>
    Counted (pgStem d) Off.STEM_CNT_UNBOUND_LINES 1 s u ∧ stemOf u d = stemOf s d ∧
      ((ispOf s n).ending = [] → RegsBut [a d Off.STEM_CNT_UNBOUND_LINES] s u) ∧
      sget [] (ispOf u n).outBuf o = (sget [] (ispOf s n).outBuf o).eraseP fun x => !x.taken && x.queue.isNone) ∧
  (∀ s n o d x j, waiting s d n o x → (stemOf s d).job = some j → bound n o x j → j.frame = none →
    (∃ y ∈ j.win.needs j.row, 1 ≤ y) → Runs (.stemLineCommit n o) s fun u =>
      (stemOf u d).job = some { j with frame := some (x.frame, x.frameNo), lines := 1, accepted := true } ∧
        ((ispOf s n).ending = [] → RegsBut [] s u)) ∧
  (∀ s n o d x j, waiting s d n o x → (stemOf s d).job = some j → bound n o x j → x.lost = true → Runs (.stemLineCommit n o) s fun u =>
    (stemOf u d).job = none ∧ Counted (pgStem d) Off.STEM_CNT_DROPPED 1 s u ∧ Raised (pgStem d) Evt.STEM_DROPPED u ∧
      Recorded 0xA 4 1 (68 + d) u) ∧
  (∀ s d j, ofTile s d j → rowsDo s d j = true → Runs (.stemJobEnd d) s fun u => ends s u d j) ∧
  (∀ s d j, ofTile s d j → rowsDo s d j = false → Runs (.stemJobEnd d) s fun u =>
    (stemOf u d).job = none ∧ Counted (pgStem d) Off.STEM_CNT_FAULTS 1 s u ∧ Recorded 0xA 1 1 (68 + d) u) ∧
  (∀ s d j, ofTile s d j → rowsLeft j.win j = 1 → 1 ≤ j.win.rows → j.win.outInt8 = true → stemReads s d j j.row = true →
    (∀ c < j.win.outC, stemMay s d j.launch.destTile j.launch.ctx true
      (j.win.outBase + (c * j.win.rows + (j.row - j.win.row0)) * pitch j.win) (pitch j.win) = true) → Runs (.stemJobEnd d) s fun u =>
      ends s u d j ∧ ∀ c x, c < j.win.outC → x < j.win.outW →
        let acc := (j.win.convPixel (j.win.source s (dieTile d j.launch.srcId)) (j.codes c) 0 j.win.inC (j.record c).exp j.row x).1
        sget 0 (tileOf u (dieTile d j.launch.destTile)).sram
            (j.win.outBase + (c * j.win.rows + (j.row - j.win.row0)) * pitch j.win + x) =
          BitVec.ofNat 8 (wrap 8 (requant (j.record c) 8 (signed 32 acc)).1)) ∧
  ∀ s d j, (stemOf s d).job = some j → stemLive s d = true → 1 ≤ j.launch.src → rowsLeft j.win j = 0 →
    Runs (.stemJobEnd d) s fun u => ends s u d j


/-- The state unit and the vector engine's registers: a segment is allocated where its range fits and zeroises, and is released at once, with
the kernel that steps it, or ahead of a kernel that started in its beat and then ends with REGION; zeroisation ends and a step that waited
goes on; gate-table images are written and committed when valid; ADJ is set inside its limits. -/
def Obligations.StateUnitWrites : Prop :=
  let su (t off : Nat) : Nat := pageBase (pgSu t) + off
  let asked (s : State) (t : Nat) (v : Word) : Segment :=
    { segOf s t (segSel s t) with cfg := BitVec.ofNat 32 (bitsAt (segWord v true).toNat 0 23) }
  let image (m i : Nat) : Nat := Off.SU_TBL + 0x200 * m + 4 * i
  let adj (n : Nat) : Nat := Off.VE_QP_ADJ + 8 * n
  let inLimits (s : State) (t n : Nat) (v : Word) : Prop :=
    -(fld s (pgVe t) (Off.VE_QP_ADAPT + 8 * n) 20 4 : Int) ≤ signed 5 (fieldOf v 0 5) ∧
      signed 5 (fieldOf v 0 5) ≤ fld s (pgVe t) (Off.VE_QP_ADAPT + 8 * n) 16 4
  (∀ s w t v, Admitted s w (pgSu t) Off.SU_SEG_CFG → (segOf s t (segSel s t)).valid = false →
    segAccept s t (segSel s t) (asked s t v) = true → Runs (.segmentAllocate w t v) s fun u =>
      segOf u t (segSel s t) =
        { asked s t v with zeroing := true, pos := 0, first := true, broken := false, releasing := false } ∧
        (∀ n, n ≠ segSel s t → segOf u t n = segOf s t n) ∧ RegsBut [hhLost] s u) ∧
  (∀ s w t v, Admitted s w (pgSu t) Off.SU_SEG_CFG →
    (segOf s t (segSel s t)).valid = true ∨ segAccept s t (segSel s t) (asked s t v) = false → Runs (.segmentAllocate w t v) s fun u =>
      (tileOf u t).segs = (tileOf s t).segs ∧ Counted (pgSu t) Off.SU_CNT_CFG_REFUSED 1 s u ∧
        RegsBut [su t Off.SU_CNT_CFG_REFUSED, hhLost] s u) ∧
  (∀ s w t v, Admitted s w (pgSu t) Off.SU_SEG_CFG → (segOf s t (segSel s t)).valid = true →
    (∀ k, (tileOf s t).kernel = some k → segSel s t ∉ k.segs) → Runs (.segmentRelease w t v) s fun u =>
      let g := segOf s t (segSel s t)
      (segOf u t (segSel s t)).valid = false ∧ (segOf u t (segSel s t)).pos = 0 ∧
        (∀ e, sget 0 (tileOf u t).entries e =
          if g.base ≤ e ∧ e < g.base + 256 * g.units then 0 else sget 0 (tileOf s t).entries e) ∧
        (∀ n, n ≠ segSel s t → segOf u t n = segOf s t n) ∧ RegsBut [hhLost] s u) ∧
  (∀ s w t v k, Admitted s w (pgSu t) Off.SU_SEG_CFG → (segOf s t (segSel s t)).valid = true → (tileOf s t).kernel = some k →
    segSel s t ∈ k.segs → ranBefore s t = true → Runs (.segmentRelease w t v) s fun u =>
      segOf u t (segSel s t) = { segOf s t (segSel s t) with releasing := true } ∧ (tileOf u t).entries = (tileOf s t).entries ∧
        RegsBut [hhLost] s u) ∧
  (∀ s w t v k, Admitted s w (pgSu t) Off.SU_SEG_CFG → (segOf s t (segSel s t)).valid = true → (tileOf s t).kernel = some k →
    segSel s t ∈ k.segs → ranBefore s t = false → Runs (.segmentRelease w t v) s fun u =>
      (segOf u t (segSel s t)).valid = false ∧ (tileOf u t).kernel = none ∧ Counted (pgTsp t) Off.TSP_CNT_REGION_FAULT 1 s u ∧
        Raised (pgTsp t) Evt.TSP_REGION_FAULT u) ∧
  (∀ s t n, tileLive s t = true → (segOf s t n).zeroing = true → (∀ w ∈ (tileOf s t).waits, stateFree w = true) →
    Runs (.zeroDone t n) s fun u =>
      segOf u t n = { segOf s t n with zeroing := false } ∧ Raised (pgSu t) Evt.SU_ZERO_DONE u ∧ RegsBut [evtOf (pgSu t)] s u) ∧
  (∀ s t n o i k, tileLive s t = true → (segOf s t n).zeroing = true → (tileOf s t).waits = [.state o i] →
    (tileOf s t).kernel = some k → (∀ q ∈ o.segs, (segOf s t q.seg).zeroing = true → q.seg = n) →
    (∀ q ∈ o.segs, MayPut s t k ((segOf s t q.seg).channels * o.tokens) q.y) → Runs (.zeroDone t n) s fun u =>
      (tileOf u t).waits = [] ∧ Raised (pgSu t) Evt.SU_ZERO_DONE u ∧ Counted (pgSu t) Off.SU_CNT_STEPS (o.tokens * o.segs.length) s u ∧
        ∃ k', (tileOf u t).kernel = some k' ∧ ∀ m ∈ i.signals, m < 16 → m ∈ k'.toks) ∧
  (∀ s w t m i v, m < 4 → i < 128 → Admitted s w (pgSu t) (image m i) → slotLocked s t (4 + m) = false → ranBefore s t = false →
    Runs (.suTblWrite w t m i v) s fun u =>
      rd u (pgSu t) (image m i) = v ∧ slotValid u t (4 + m) = false ∧
        (∀ x, x < 8 → x ≠ 4 + m → slotValid u t x = slotValid s t x) ∧
        RegsBut [su t (image m i), su t Off.SU_TBL_STATUS, hhLost] s u) ∧
  (∀ s w t m i v, m < 4 → i < 128 → Admitted s w (pgSu t) (image m i) → slotLocked s t (4 + m) = true →
    Runs (.suTblWrite w t m i v) s fun u => RegsBut [hhLost] s u) ∧
  (∀ s w t v, Admitted s w (pgSu t) Off.SU_TBL_CTRL → ranBefore s t = false → Runs (.commit w t v) s fun u =>
    (∀ m, m < 4 → slotValid u t (4 + m) =
      (slotValid s t (4 + m) || (bitOf v (4 + m) && !slotLocked s t (4 + m) && pwlValid (suImage s t (4 + m))))) ∧
      RegsBut [su t Off.SU_TBL_STATUS, su t Off.SU_CNT_CFG_REFUSED, hhLost] s u) ∧
  (∀ s w t n v, n < 16 → Admitted s w (pgVe t) (adj n) → inLimits s t n v → Runs (.veQpAdjWrite w t n v) s fun u =>
    fld u (pgVe t) (adj n) 0 5 = fieldOf v 0 5 ∧ fld u (pgVe t) (adj n) 8 8 = 0 ∧
      RegsBut [pageBase (pgVe t) + adj n, hhLost] s u) ∧
  ∀ s w t n v, n < 16 → Admitted s w (pgVe t) (adj n) → ¬ inLimits s t n v → Runs (.veQpAdjWrite w t n v) s fun u =>
    Counted (pgVe t) Off.VE_CNT_CFG_REFUSED 1 s u ∧ RegsBut [pageBase (pgVe t) + Off.VE_CNT_CFG_REFUSED, hhLost] s u

/-- Kitties: a lookup in a slice of its tenant that is allowed hits, or locks a line for a fill, whose read of host memory leaves once the
function is covered, or is served without a line where none can be chosen; it waits for the writes due to its slot, and an MD that is not
on answers with an error. A fill serves those who wait, or frees the line and answers with errors; a write-back is merged into its line in
its turn, or answered with an error; the patrol reads granule after granule. Choices of the model that it rests on: log 8 and 37. -/
def Obligations.Kitties : Prop :=
  let asks (s : State) (who : Requester) (h : Home) : Prop := kittyLive s (mdOf s h) = true ∧ sliced s who = false ∧ writesDue s h = false
  let sends (s : State) (fn : Nat) : Bool := hostOpen s fn && !(s.host.sends.any fun e => e.1 == fn)
  let fills (s : State) (n k : Nat) (l : KLine) : Prop :=
    kittyLive s n = true ∧ k < 16384 ∧ (kittyOf s n).find? (fun l => l.line == k && l.locked) = some l ∧
      (l.shared = false → sliced s (.tag l.tenant) = false)
  let writes (s : State) (t : Nat) (w : WriteBack) : Prop :=
    (tileOf s t).writes.find? (fun w => !w.merged) = some w ∧ kittyLive s (mdOf s w.home) = true ∧ sliced s w.who = false ∧
      writeTurn s t w = true
  let kitty (n off : Nat) : Nat := pageBase (pgKitty n) + off
  let tag (s : State) (who : Requester) (h : Home) : Nat × Bool := fillTag s (mdOf s h) h (reqTenant s who)
  let room (s : State) (who : Requester) (h : Home) : Prop :=
    (kittyOf s (mdOf s h)).length < 16384 ∧ ((kittyOf s (mdOf s h)).filter fun l => l.tenant == (tag s who h).1).length <
      fld s (pgKitty (mdOf s h)) (Off.KITTY_QUOTA + 4 * (tag s who h).1) 0 15
  let full (s : State) (who : Requester) (h : Home) : Prop :=
    fld s (pgKitty (mdOf s h)) (Off.KITTY_QUOTA + 4 * (tag s who h).1) 0 15 ≤
        ((kittyOf s (mdOf s h)).filter fun l => l.tenant == (tag s who h).1).length ∧
      ∀ l ∈ kittyOf s (mdOf s h), l.tenant = (tag s who h).1 → l.locked = true
  let answered (s : State) (t : Nat) (failed : Bool) : List WriteBack :=
    updFirst (fun w => !w.merged) (fun w => { w with merged := true, failed }) (tileOf s t).writes
  let served (s : State) (b : Bypass) : State := { s with mem := { s.mem with bypass := s.mem.bypass.eraseP fun x => x == b } }
  let next (s : State) (n : Nat) : Nat := sget 0 s.mem.patrol n
  let spot (s : State) (n : Nat) : Nat :=
    if s.part.stackCount = 2 then
      (if homeMd s (next s n / 4096 * 8192 + next s n % 4096) = n then next s n / 4096 * 8192 + next s n % 4096
        else next s n / 4096 * 8192 + next s n % 4096 + 4096)
    else next s n
  let patrols (s : State) (n : Nat) : Prop :=
    pagePresent s.part (pgMc n) = true ∧ pageOn s (pgMc n) = true ∧ fld s (pgMc n) Off.MC_SCRUB 0 16 ≠ 0
  (∀ s who dom h l, asks s who h → memAllows s who h false = true → (kittyOf s (mdOf s h)).find? (lineServes h (reqTenant s who)) = some l →
    l.locked = false → Runs (.kittyLookup who dom h) s fun u =>
      u.out = s.out ++ [.tileData who h (some l.data)] ∧ Counted (pgKitty (mdOf s h)) Off.KITTY_CNT_HIT 1 s u ∧ u.hbm = s.hbm ∧
        kittyOf u (mdOf s h) = updFirst (fun x => x.line == l.line) (fun x => { x with age := beatNo s }) (kittyOf s (mdOf s h)) ∧
        RegsBut [kitty (mdOf s h) Off.KITTY_CNT_HIT] s u) ∧
  (∀ s who dom h, asks s who h → memAllows s who h false = true →
    (kittyOf s (mdOf s h)).find? (lineServes h (reqTenant s who)) = none → room s who h → Runs (.kittyLookup who dom h) s fun u =>
      Counted (pgKitty (mdOf s h)) Off.KITTY_CNT_MISS 1 s u ∧ (h.t4 = none → u.out = s.out) ∧
        (∀ c, h.t4 = some c →
          let read : Out := .hostRead (ctxTenant s c) (h.addr / 4096 * 4096) 4096
          (sends s (ctxTenant s c) = true → u.out = s.out ++ [read]) ∧
            (sends s (ctxTenant s c) = false → u.out = s.out ∧ u.host.sends = s.host.sends ++ [(ctxTenant s c, read)])) ∧
        (∃ l ∈ kittyOf u (mdOf s h), l.line = freeNumber 0 (kittyOf s (mdOf s h)) ∧ l.home = h ∧ l.tenant = (tag s who h).1 ∧
          l.locked = true ∧ l.dirty = false ∧ l.waiters = [(who, dom)]) ∧
        (∀ l ∈ kittyOf s (mdOf s h), l ∈ kittyOf u (mdOf s h)) ∧ RegsBut [kitty (mdOf s h) Off.KITTY_CNT_MISS] s u) ∧
  (∀ s who dom h, asks s who h → memAdmits s who h = true → memAllows s who h false = false → Runs (.kittyLookup who dom h) s fun u =>
    u.out = s.out ++ [.tileData who h none] ∧ Counted (pgMemenc (mdOf s h)) Off.MEMENC_CNT_DENIED 1 s u ∧
      u.mem = s.mem ∧ u.hbm = s.hbm ∧ RegsBut [pageBase (pgMemenc (mdOf s h)) + Off.MEMENC_CNT_DENIED] s u) ∧
  (∀ s who dom h, kittyLive s (mdOf s h) = true → (sliced s who = true ∨ writesDue s h = true) →
    exec (.kittyLookup who dom h) s = .next s) ∧
  (∀ s who dom h, kittyLive s (mdOf s h) = false → Runs (.kittyLookup who dom h) s fun u =>
    u = { s with out := s.out ++ [.tileData who h none] }) ∧
  (∀ s who dom h c, asks s who h → memAllows s who h false = true →
    (kittyOf s (mdOf s h)).find? (lineServes h (reqTenant s who)) = none → full s who h → h.t4 = some c →
    Runs (.kittyLookup who dom h) s fun u =>
      Counted (pgKitty (mdOf s h)) Off.KITTY_CNT_MISS 1 s u ∧ Counted (pgKitty (mdOf s h)) Off.KITTY_CNT_BYPASS 1 s u ∧
        Raised (pgKitty (mdOf s h)) Evt.KITTY_BYPASS u ∧ kittyOf u (mdOf s h) = kittyOf s (mdOf s h) ∧
        u.mem.bypass = s.mem.bypass ++ [⟨mdOf s h, h, who, dom, none⟩]) ∧
  (∀ s n k host b bs, kittyLive s n = true → 16384 ≤ k → (s.mem.bypass.filter fun b => b.md == n)[k - 16384]? = some b → b.write = none →
    (homeRead none b.home host (served s b)).1 = some bs → Runs (.kittyFillComplete n k host) s fun u =>
      u.out = s.out ++ [.tileData b.who b.home (some bs)] ∧ u.mem.bypass = (served s b).mem.bypass ∧ kittyOf u n = kittyOf s n) ∧
  (∀ s n k host l bs, fills s n k l →
    (homeRead none l.home host s).1 = some bs → Runs (.kittyFillComplete n k host) s fun u =>
      u.out = s.out ++ l.waiters.map (fun w => .tileData w.1 l.home (some bs)) ∧
        kittyOf u n = updFirst (fun x => x.line == k)
          (fun x => { x with locked := false, owner := none, waiters := [], age := beatNo s, data := bs }) (kittyOf s n)) ∧
  (∀ s n k host l, fills s n k l →
    (homeRead none l.home host s).1 = none → Runs (.kittyFillComplete n k host) s fun u =>
      u.out = s.out ++ l.waiters.map (fun w => .tileData w.1 l.home none) ∧ (∀ x ∈ kittyOf u n, x.line ≠ k) ∧
        Counted (pgKitty n) Off.KITTY_CNT_POISON 1 s u ∧ Raised (pgKitty n) Evt.KITTY_POISON u) ∧
  (∀ s t w l, writes s t w → memAllows s w.who w.home true = true →
    (kittyOf s (mdOf s w.home)).find? (lineServes w.home (reqTenant s w.who)) = some l → l.locked = false →
    Runs (.writeBack t) s fun u =>
      kittyOf u (mdOf s w.home) = updFirst (fun x => x.line == l.line)
          (fun x => { x with data := splice x.data w.off w.data, dirty := true, age := beatNo s }) (kittyOf s (mdOf s w.home)) ∧
        (tileOf u t).writes = answered s t false ∧
        u.hbm = s.hbm ∧ RegsBut (flitRegs (t / 16) (4 + mdOf s w.home)) s u) ∧
  (∀ s t w, writes s t w → memAdmits s w.who w.home = true → memAllows s w.who w.home true = false → Runs (.writeBack t) s fun u =>
      Counted (pgMemenc (mdOf s w.home)) Off.MEMENC_CNT_DENIED 1 s u ∧ (tileOf u t).writes = answered s t true ∧ u.mem = s.mem ∧
        u.hbm = s.hbm) ∧
  (∀ s t w, (tileOf s t).writes.find? (fun w => !w.merged) = some w → kittyLive s (mdOf s w.home) = false → Runs (.writeBack t) s fun u =>
    (tileOf u t).writes = answered s t true ∧ u.mem = s.mem ∧ u.hbm = s.hbm ∧ RegsBut [] s u) ∧
  (∀ s n bad, patrols s n → Runs (.patrolScrub n bad) s fun u =>
    next u n = (next s n + 64) % 0x400000000 ∧ Counted (pgMc n) Off.MC_CNT_SCRUBBED 1 s u ∧ u.hbm = s.hbm ∧
      (bad = 0 → spot s n ∉ s.mem.poison → RegsBut [pageBase (pgMc n) + Off.MC_CNT_SCRUBBED] s u) ∧
      (1 ≤ bad → bad ≤ 3 → spot s n ∉ s.mem.poison →
        Counted (pgMc n) Off.MC_CNT_CORR 1 s u ∧ Raised (pgMc n) Evt.MC_CORR u ∧ u.mem.poison = s.mem.poison) ∧
      (4 ≤ bad → Counted (pgMc n) Off.MC_CNT_UNCORR 1 s u ∧ Raised (pgMc n) Evt.MC_UNCORR u ∧ spot s n ∈ u.mem.poison)) ∧
  ∀ s n, flag s (pgKitty n) Off.KITTY_CMD 31 = true → Runs (.kittyCmdDone n) s fun u =>
    flag u (pgKitty n) Off.KITTY_CMD 31 = false ∧ (∀ c ∈ cmdsOf u (pgKitty n), c.id ≠ 0) ∧ RegsBut [kitty n Off.KITTY_CMD] s u

/-- Kitty commands and the region table: a flush writes DIRTY lines home and leaves them clean, a discard drops a tenant's lines; a region
entry that its writer may make is on its way for sixteen beats, and takes effect with the lines that leave its range gone. Choices of the
model that it rests on: log 37 and 38. -/
def Obligations.KittyCommandsAndRegions : Prop :=
  let ready (s : State) (w : Func) (n : Nat) : Prop :=
    Admitted s w (pgKitty n) Off.KITTY_CMD ∧ flag s (pgKitty n) Off.KITTY_CMD 31 = false ∧ enabled s (pgKitty n) = true
  let open_ (s : State) (w : Func) (tenant : Nat) : Prop := w = .pf → tdiHeld s (tenant % 16) = false
  let dirty (s : State) (n : Nat) (p : KLine → Bool) : List KLine := (kittyOf s n).filter fun l => l.dirty && !l.locked && p l
  let cleaned (s : State) (n : Nat) (p : KLine → Bool) : List KLine :=
    (kittyOf s n).map fun l => if l.dirty && !l.locked && p l then { l with dirty := false } else l
  let runs (u : State) (n : Nat) : Prop := flag u (pgKitty n) Off.KITTY_CMD 31 = true ∧ busy u (pgKitty n) = true
  let attr (k : Nat) : Nat := Off.MEMENC_REGION_ATTR + 16 * k
  let word (s : State) (k o : Nat) : Word :=
    match s.mem.held.find? fun e => e.1 == pageBase (pgMemenc 0) + 0x200 + 16 * k + o with
    | some e => e.2
    | none => rd s (pgMemenc 0) (0x200 + 16 * k + o)
  let attrOf (w : Func) (v : Word) : Word :=
    putField (v &&& 0x00FF7FFF) 31 1 (ofBool (w == .rot && fieldOf v 0 3 != 0))
  let region (s : State) (w : Func) (k : Nat) (v : Word) : Region := regionOfWords (word s k 0) (word s k 4) (attrOf w v)
  let reg_ (k o : Nat) : Nat := 0x200 + 16 * k + o
  (∀ s w n, ready s w n → Runs (.flushAll w n) s fun u =>
    kittyOf u n = cleaned s n (fun _ => true) ∧ runs u n ∧
      Counted (pgKitty n) Off.KITTY_CNT_WRITEBACK (dirty s n fun _ => true).length s u ∧
      (dirty s n (fun _ => true) = [] → u.hbm = s.hbm)) ∧
  (∀ s w n tenant, ready s w n → open_ s w tenant → Runs (.flushTenant w n tenant) s fun u =>
    kittyOf u n = cleaned s n (fun l => l.tenant == tenant % 16) ∧ runs u n ∧
      Counted (pgKitty n) Off.KITTY_CNT_WRITEBACK (dirty s n fun l => l.tenant == tenant % 16).length s u ∧
      ∀ l, dirty s n (fun l => l.tenant == tenant % 16) = [l] → u.hbm = (slotWrite l.home l.data s).hbm) ∧
  (∀ s w n tenant, ready s w n → open_ s w tenant → Runs (.discardTenant w n tenant) s fun u =>
    kittyOf u n = (kittyOf s n).filter (fun l => !(l.tenant == tenant % 16 && !l.locked)) ∧ runs u n ∧ u.hbm = s.hbm ∧
      RegsBut [pageBase (pgKitty n) + Off.KITTY_CMD, hhLost] s u) ∧
  (∀ s n tenant, Admitted s .pf (pgKitty n) Off.KITTY_CMD → tdiHeld s (tenant % 16) = true → Runs (.flushTenant .pf n tenant) s fun u =>
    Counted pgMb Off.MB_CNT_TDI_REFUSED 1 s u ∧ u.mem = s.mem ∧ RegsBut [pageBase pgMb + Off.MB_CNT_TDI_REFUSED, hhLost] s u) ∧
  (∀ s k v, k < 64 → Admitted s .rot (pgMemenc 0) (attr k) → 3 < fieldOf v 0 3 ∨ regionOk s .rot k (region s .rot k v) = false → Runs (.regionWrite .rot k v) s fun u =>
    Counted (pgMemenc 0) Off.MEMENC_CNT_CFG_REFUSED 1 s u ∧ u.mem.pend = s.mem.pend) ∧
  (∀ s k v, k < 64 → Admitted s .rot (pgMemenc 0) (attr k) → regionOk s .rot k (region s .rot k v) = true →
    Runs (.regionWrite .rot k v) s fun u =>
    u.mem.pend = s.mem.pend ++ [⟨s.tt.beats + 16, k, word s k 0, word s k 4, attrOf .rot v⟩] ∧
      flag u (pgMemenc 0) Off.MEMENC_STATUS 0 = true ∧ flag u (pgMemenc 1) Off.MEMENC_STATUS 0 = true ∧ regionAt u k = regionAt s k) ∧
  (∀ s k v, k < 64 → Admitted s .pf (pgMemenc 0) (attr k) → regionOk s .pf k (region s .pf k v) = true → (∀ t, tdiHeld s t = false) →
    Runs (.regionWrite .pf k v) s fun u =>
      u.mem.pend = s.mem.pend ++ [⟨s.tt.beats + 16, k, word s k 0, word s k 4, attrOf .pf v⟩] ∧
        flag u (pgMemenc 0) Off.MEMENC_STATUS 0 = true ∧ regionAt u k = regionAt s k) ∧
  (∀ s k v, k < 64 → Admitted s .pf (pgMemenc 0) (attr k) → regionOk s .pf k (region s .pf k v) = false → (∀ t, tdiHeld s t = false) →
    Runs (.regionWrite .pf k v) s fun u =>
      Counted (pgMemenc 0) Off.MEMENC_CNT_CFG_REFUSED 1 s u ∧ u.mem.pend = s.mem.pend ∧
        RegsBut [pageBase (pgMemenc 0) + Off.MEMENC_CNT_CFG_REFUSED, hhLost] s u) ∧
  (∀ s, s.mem.pend.takeWhile (regionDue s) = [] → exec .regionEffect s = .next s) ∧
  ∀ s e, s.mem.pend.takeWhile (regionDue s) = [e] → e.entry < 64 → Runs .regionEffect s fun u =>
    rd u (pgMemenc 0) (reg_ e.entry 0) = e.base ∧ rd u (pgMemenc 0) (reg_ e.entry 4) = e.size ∧
      rd u (pgMemenc 0) (reg_ e.entry 8) = e.attr ∧ u.mem.pend = s.mem.pend.drop 1 ∧
      (∀ k, k < 64 → k ≠ e.entry → regionAt u k = regionAt s k) ∧
      ∀ n l, n < s.part.stackCount → l ∈ kittyOf u n → l.home.t4 = none → (regionAt s e.entry).covers l.home.addr = true →
        (regionOfWords e.base e.size e.attr).covers l.home.addr = true


/-- The T1 pool: a tile that a prefetch brings takes a free line, or is left in the kitty; holds run out; an acknowledged write-back frees its
line or fills it, and with the last acknowledgement the writes of a kernel are done; TSP_POOL_CMD unpins, flushes and invalidates; a
changed POOL region waits for its flush, and a clash then refuses the change. Choices of the model that it rests on: log 8 and 39. -/
def Obligations.Pool : Prop :=
  let arrives (s : State) (q id : Nat) (ans : HostData) (x : Xfer) (t : Nat) (bs : List Byte) : Prop :=
    xferOf s q id = some x ∧ x.sent = false ∧ poolXfer s q x = true ∧ (descOf x.desc).space ≠ 3 ∧ hhMode s ≠ 2 ∧
      fdGrants s (ctxTenant s (queueCtx q)) = true ∧ (xferFetch q x ans s).cause = 0 ∧ (xferFetch q x ans s).data = bs ∧
      t = (queueOf s q).epIndex ∧ tileLive s t = true ∧ admits s t (queueCtx q) = true
  let home (q : Nat) (x : Xfer) : Home := if (descOf x.desc).space = 0 then ⟨none, x.addr⟩ else ⟨some (queueCtx q), x.addr⟩
  let tenant (s : State) (q : Nat) : Nat := ctxTenant s (queueCtx q)
  let marked (s u : State) (q : Nat) (x : Xfer) : Prop :=
    (queueOf u q).flight = (queueOf s q).flight.map fun y => if y.id == x.id then { y with sent := true } else y
  let limit (s : State) (t : Nat) : Nat := fld s (pgTsp t) Off.TSP_POOL_CFG 16 16 * 64
  let over_ (s : State) (t : Nat) (l : PoolLine) : Bool := l.st == 2 && decide (l.filled + limit s t ≤ s.tt.beats)
  let tsp (t off : Nat) : Nat := pageBase (pgTsp t) + off
  let ready (s : State) (w : Func) (t : Nat) : Prop :=
    Admitted s w (pgTsp t) Off.TSP_POOL_CMD ∧ flag s (pgTsp t) Off.TSP_POOL_CMD 31 = false
  let sent (s : State) (t : Nat) (line : PoolLine → Option Nat) (l : PoolLine) : WriteBack :=
    writeOut s t l.home (.tag l.tenant) 0 (lineData s t l.line) (line l)
  let gone (l : PoolLine) (tenant : Nat) : Option PoolFill := l.next.filter fun x => x.tenant == tenant
  let lost (s : State) (t tenant : Nat) : List WriteBack :=
    (((poolLines s t).filterMap fun l => gone l tenant).filter fun x => x.st == 4).map fun x =>
      writeOut s t x.home (.tag x.tenant) 0 x.data none
  let clash (s : State) (t off : Nat) (v : Word) (rest : List (Nat × Word)) : Bool :=
    off % 8 == 0 && entryClash (updTile t (fun x => { x with poolChange := rest }) s) t ((off - 0x100) / 8) (bitsAt v.toNat 0 24)
  (∀ s q id ans x t bs n, arrives s q id ans x t bs → poolFind s t (home q x) (tenant s q) = none →
    poolNext s t (home q x) (tenant s q) = none → chooseLine s t = some (n, none) →
    Runs (.poolFill q id ans) s fun u => marked s u q x ∧
      (∃ l ∈ poolLines u t, l.line = n ∧ l.home = home q x ∧ l.tenant = tenant s q ∧ l.owner = queueCtx q ∧ l.st = 2 ∧
        l.filled = s.tt.beats) ∧ (bs.length = 4096 → lineData u t n = bs)) ∧
  (∀ s q id ans x t bs, arrives s q id ans x t bs → poolFind s t (home q x) (tenant s q) = none →
    poolNext s t (home q x) (tenant s q) = none → chooseLine s t = none →
    Runs (.poolFill q id ans) s fun u => marked s u q x ∧ poolLines u t = poolLines s t ∧
      Counted (pgTsp t) Off.TSP_CNT_POOL_SPILL 1 s u ∧ Raised (pgTsp t) Evt.TSP_POOL_SPILL u) ∧
  (∀ s q id ans x t bs l, arrives s q id ans x t bs → poolFind s t (home q x) (tenant s q) = none →
    poolNext s t (home q x) (tenant s q) = some l → Runs (.poolFill q id ans) s fun u =>
      let fill : PoolFill := ⟨home q x, tenant s q, queueCtx q, (descOf x.desc).tier == 2, 2, bs⟩
      poolLines u t = updFirst (fun y => y.line == l.line) (fun y => { y with next := some fill }) (poolLines s t) ∧ marked s u q x ∧ SramBut t 0 0 s u) ∧
  (∀ s t, tileLive s t = true → limit s t ≠ 0 → (∃ l ∈ poolLines s t, over_ s t l = true) → Runs (.holdExpiry t) s fun u =>
    poolLines u t = (poolLines s t).map (fun l => if over_ s t l then { l with st := 3 } else l) ∧
      Counted (pgTsp t) Off.TSP_CNT_HOLD_EXPIRED ((poolLines s t).filter (over_ s t)).length s u ∧
      RegsBut [tsp t Off.TSP_CNT_HOLD_EXPIRED] s u) ∧
  (∀ s t w n l, (tileOf s t).writes.find? (fun w => w.merged) = some w → w.line = some n →
    (poolLines s t).find? (fun l => l.line == n && l.st == 5) = some l → l.next = none →
    w.failed = false → Runs (.writeBackAck t) s fun u =>
      (∀ m ∈ poolLines u t, m.line ≠ n) ∧ (tileOf u t).writes = (tileOf s t).writes.eraseP (fun w => w.merged) ∧
        ((tileOf u t).writes = [] → flag u (pgTsp t) Off.TSP_POOL_CMD 31 = false) ∧ SramBut t 0 0 s u) ∧
  (∀ s t w n l x, (tileOf s t).writes.find? (fun w => w.merged) = some w → w.line = some n →
    (poolLines s t).find? (fun l => l.line == n && l.st == 5) = some l → l.next = some x →
    w.failed = false → Runs (.writeBackAck t) s fun u =>
      let dest := ((poolFind (freePoolLine t n s) t x.home x.tenant).map (·.line)).getD n
      (∃ m ∈ poolLines u t, m.line = dest ∧ m.home = x.home ∧ m.tenant = x.tenant ∧ m.st = x.st) ∧
        sramRead u t (4096 * dest) x.data.length = x.data ∧ SramBut t (4096 * dest) x.data.length s u) ∧
  (∀ s t w i segs k, (tileOf s t).writes.find? (fun w => w.merged) = some w → w.line = none → w.failed = true →
    (tileOf s t).kernel = some k → w.who = .ctx k.launch.ctx → .acks i segs ∈ (tileOf s t).waits → Runs (.writeBackAck t) s fun u =>
      (tileOf u t).writes = (tileOf s t).writes.eraseP (fun w => w.merged) ∧ (tileOf u t).kernel = none ∧
        Counted (pgMx t) Off.TILE_CNT_FAULTS 1 s u ∧ Raised (pgMx t) Evt.TILE_KERNEL_FAULT u) ∧
  (∀ s t w i segs k, (tileOf s t).writes = [w] → w.merged = true → w.line = none → w.failed = false → (tileOf s t).kernel = some k →
    (tileOf s t).waits = [.acks i segs] → Runs (.writeBackAck t) s fun u =>
      (tileOf u t).writes = [] ∧ (tileOf u t).waits = [] ∧
        ∃ k', (tileOf u t).kernel = some k' ∧ ∀ m ∈ i.signals, m < 16 → m ∈ k'.toks) ∧
  (∀ s t off v rest, (tileOf s t).poolChange = (off, v) :: rest → 0x100 ≤ off → off < 0x180 → tileLive s t = true →
    (∀ l ∈ poolLines s t, l.st = 5 → entryHas ((tileRegions s t).getD ((off - 0x100) / 8) (0, 0)) l.line = false) →
    Runs (.poolFlushDone t) s fun u =>
      (tileOf u t).poolChange = rest ∧
        (clash s t off v rest = false →
          rd u (pgTsp t) off = rd (plainWrite (pgTsp t) off v s) (pgTsp t) off ∧ RegsBut [tsp t off] s u) ∧
        (clash s t off v rest = true →
          Counted (pgTsp t) Off.TSP_CNT_CFG_REFUSED 1 s u ∧ RegsBut [tsp t Off.TSP_CNT_CFG_REFUSED] s u)) ∧
  (∀ s w t c, ready s w t → Runs (.unpinContext w t c) s fun u =>
    poolLines u t = (poolLines s t).map (fun l => if l.pin == some (c % 1024) then { l with pin := none } else l) ∧
      SramBut t 0 0 s u ∧ RegsBut [tsp t Off.TSP_POOL_CMD, hhLost] s u) ∧
  (∀ s w t, ready s w t → Runs (.unpinAll w t) s fun u =>
    poolLines u t = (poolLines s t).map (fun l => { l with pin := none }) ∧ SramBut t 0 0 s u ∧
      RegsBut [tsp t Off.TSP_POOL_CMD, hhLost] s u) ∧
  (∀ s w t, ready s w t → Runs (.flush w t) s fun u =>
    poolLines u t = (poolLines s t).map (fun l => if l.st == 4 then { l with st := 3 } else l) ∧
      (tileOf u t).writes = (tileOf s t).writes ++ ((poolLines s t).filter fun l => l.st == 4).map (sent s t fun _ => none) ∧
      Counted (pgTsp t) Off.TSP_CNT_POOL_WRITEBACK ((poolLines s t).filter fun l => l.st == 4).length s u ∧
      flag u (pgTsp t) Off.TSP_POOL_CMD 31 = !(tileOf u t).writes.isEmpty ∧ SramBut t 0 0 s u) ∧
  ∀ s w t tenant, ready s w t → (w = .pf → tdiHeld s (tenant % 16) = false) → Runs (.invalidateTenant w t tenant) s fun u =>
    (∀ l ∈ poolLines u t, l.tenant = tenant % 16 → l.st = 5) ∧
      (∀ l ∈ poolLines s t, l.tenant ≠ tenant % 16 → (l.st = 5 → gone l (tenant % 16) = none) → l ∈ poolLines u t) ∧
      (∀ l ∈ poolLines u t, l.st = 5 → gone l (tenant % 16) = none) ∧
      (tileOf u t).writes = (tileOf s t).writes ++
        ((poolLines s t).filter fun l => l.st == 4 && l.tenant == tenant % 16).map (sent s t fun l => some l.line) ++
          lost s t (tenant % 16) ∧
      flag u (pgTsp t) Off.TSP_POOL_CMD 31 = !(tileOf u t).writes.isEmpty

/-- Doorbells: ARM starts an idle queue at its list, a Trump queue waiting for REARM; APPEND adds blocks; REARM starts a step or is kept for
the next, for a queue or its group; RESUME lets a halted queue go on; STOP empties it, a parked one for the time it leaves PARKED; what is
not accepted is counted. Choices of the model that it rests on: log 48. -/
def Obligations.Doorbells : Prop :=
  let mine (s : State) (w : Func) (q : Nat) : Prop := ∀ n, w = .vf n → ctxTenant s (queueCtx q) = n
  let rings (s : State) (w : Func) (q : Nat) : Prop :=
    q < 2 ^ 18 ∧ senderLink s w = .ok ∧ deviceFatal s = false ∧ bootRunning s = true ∧ mine s w q ∧
      (pageOn s (pgQe (queueMd s q)) = true ∨ (queueOf s q).state = 5 ∧ s.pwr.dom.getD (5 + queueMd s q) 0 ∈ [1, 3]) ∧ hhMode s ≠ 2 ∧
      ctxExists s (queueCtx q) = true ∧ flag s (pgCtx (queueCtx q)) Off.CTRL 0 = true
  let calm (s : State) (q : Nat) : Prop := (queueOf s q).stopping = false ∧ quiesced s (queuePage s q (queueOf s q)) = false
  let base (s : State) (q : Nat) : Nat := (queueOf s q).db.getD 0 0 + 2 ^ 32 * (queueOf s q).db.getD 1 0
  let value (s : State) (q : Nat) : Nat := (queueOf s q).db.getD 2 0
  let ctx (q off : Nat) : Nat := pageBase (pgCtx (queueCtx q)) + off
  let rung (s u : State) (q : Nat) : Prop := Counted (pgCtx (queueCtx q)) Off.CTX_CNT_DOORBELLS 1 s u
  let others (s u : State) (q : Nat) : Prop :=
    ((queueOf s q).openBlocks = [] → ∀ k, k ≠ q → queueOf u k = queueOf s k) ∧
      ∀ k, k ≠ q → { queueOf u k with pairDone := 0 } = { queueOf s k with pairDone := 0 }
  let stepsAt (u : State) (q b p : Nat) : Prop :=
    (queueOf u q).state = 1 ∧ (queueOf u q).stepBase = b ∧ (queueOf u q).stepPos = p ∧ (queueOf u q).head = 0 ∧ (queueOf u q).offset = 0 ∧
      (queueOf u q).cursor = (queueOf u q).listBase ∧ (queueOf u q).fold = 0
  let refused (s u : State) (q : Nat) : Prop :=
    Counted (pgQe (queueMd s q)) Off.QE_CNT_DB_REFUSED 1 s u ∧ Counted (pgCtx (queueCtx q)) Off.CTX_CNT_DB_REFUSED 1 s u ∧
      Raised (pgQe (queueMd s q)) Evt.QE_DB_REFUSED u
  (∀ s w q space, rings s w q → calm s q → (queueOf s q).state = 0 → base s q % 32 = 0 → space < 2 → Runs (.arm w q space) s fun u =>
    (queueOf u q).state = (if (queueOf s q).trump then 2 else 1) ∧ (queueOf u q).listBase = base s q ∧ (queueOf u q).cursor = base s q ∧
      (queueOf u q).avail = value s q ∧ (queueOf u q).head = 0 ∧ (queueOf u q).offset = 0 ∧ (queueOf u q).seq = 0 ∧
      (queueOf u q).stepBase = 0 ∧ (queueOf u q).stepPos = 0 ∧ (queueOf u q).cause = 0 ∧ rung s u q ∧
      (∀ k, k ≠ q → queueOf u k = queueOf s k) ∧ RegsBut [ctx q Off.CTX_CNT_DOORBELLS, hhLost] s u) ∧
  (∀ s w q space, rings s w q → (queueOf s q).state ≠ 0 → (queueOf s q).state ≠ 5 → Runs (.arm w q space) s fun u => refused s u q) ∧
  (∀ s w q, rings s w q → (queueOf s q).awake.state ≠ 0 → (queueOf s q).awake.state ≠ 4 → Runs (.append w q) s fun u =>
    (queueOf u q).avail = ((queueOf s q).avail + value s q) % 2 ^ 32 ∧ rung s u q ∧ others s u q) ∧
  (∀ s w q, rings s w q → (queueOf s q).state = 0 ∨ (queueOf s q).state = 4 → Runs (.append w q) s fun u => refused s u q) ∧
  (∀ s w q, rings s w q → calm s q → (queueOf s q).trump = true → (queueOf s q).state = 2 → Runs (.rearm w q false) s fun u =>
    stepsAt u q (base s q) (value s q) ∧ (queueOf u q).listBase = (queueOf s q).listBase ∧ rung s u q ∧
      ∀ k, k ≠ q → queueOf u k = queueOf s k) ∧
  (∀ s w q, rings s w q → calm s q → (queueOf s q).trump = true → (queueOf s q).state = 1 → (queueOf s q).rearm = none →
    (queueOf s q).finished = false → Runs (.rearm w q false) s fun u =>
      (queueOf u q).rearm = some (base s q, value s q) ∧ (queueOf u q).head = (queueOf s q).head ∧ rung s u q) ∧
  (∀ s w q k, rings s w q → fieldOf (queueOf s q).ctrl 18 4 ≠ 0 → k ∈ groupQueues s (queueCtx q) (fieldOf (queueOf s q).ctrl 18 4) →
    (∀ j ∈ groupQueues s (queueCtx q) (fieldOf (queueOf s q).ctrl 18 4), calm s j ∧ (queueOf s j).trump = true ∧
      (queueOf s j).state = 2) → Runs (.rearm w q true) s fun u => stepsAt u k (base s q) (value s q)) ∧
  (∀ s w q, rings s w q → (queueOf s q).trump = false → (queueOf s q).state ≠ 5 → Runs (.rearm w q false) s fun u => refused s u q) ∧
  (∀ s w q, rings s w q → calm s q → (queueOf s q).state = 3 → (queueOf s q).pri = none → (queueOf s q).finished = false → Runs (.resume w q) s fun u =>
      (queueOf u q).state = 1 ∧ (queueOf u q).cause = 0 ∧ (queueOf u q).head = (queueOf s q).head ∧
        (queueOf u q).offset = (queueOf s q).offset ∧ (queueOf u q).desc = none ∧ rung s u q) ∧
  (∀ s w q, rings s w q → (queueOf s q).state ≠ 5 → (queueOf s q).flight = [] → Runs (.stop w q) s fun u =>
    (queueOf u q).state = 0 ∧ (queueOf u q).stopping = false ∧ bitOf (queueOf u q).ctrl 10 = false ∧ rung s u q ∧ others s u q) ∧
  (∀ s w q, rings s w q → (queueOf s q).state = 5 → Runs (.stop w q) s fun u =>
    (queueOf u q).awake.state = 0 ∧ (queueOf u q).launch = none ∧ rung s u q ∧ (∀ k, k ≠ q → queueOf u k = queueOf s k) ∧
      (quiesced s (queuePage s q (queueOf s q)) = true → (queueOf u q).state = 5 ∧ bitOf (queueOf u q).ctrl 10 = true) ∧
      (pageOn s (queuePage s q (queueOf s q)) = true → quiesced s (queuePage s q (queueOf s q)) = false →
        (queueOf u q).state = 0 ∧ bitOf (queueOf u q).ctrl 10 = false)) ∧
  ∀ s w q, rings s w q → (queueOf s q).state ≠ 5 → (queueOf s q).flight ≠ [] → Runs (.stop w q) s fun u =>
    (queueOf u q).state = (queueOf s q).state ∧ (queueOf u q).stopping = true ∧ (queueOf u q).flight = (queueOf s q).flight ∧
      (queueOf u q).launch = none ∧ rung s u q

/-- Transfers: a queue reads its list and issues its next transfer when nothing holds it back and its engine's arbiter grants it the slot; a
completed one puts its bytes where its endpoint says, in tile SRAM, or in host memory once the function is covered, and leaves the slot;
an error, of a list in host memory too, or a host that does not answer faults the queue; a launch leaves when its segment has arrived, in
a pair with its scales, and its end is noted. Choices of the model that it rests on: log 48. -/
def Obligations.Transfers : Prop :=
  let stands (s : State) (q : Nat) (d : Desc) : Prop := ∃ bs, (queueOf s q).desc = some bs ∧ d = descOf bs
  let mayGo (s : State) (q : Nat) : Prop :=
    queueRuns s q = true ∧ fdGrants s (ctxTenant s (queueCtx q)) = true ∧ (queueOf s q).finished = false ∧ (queueOf s q).launch = none ∧ segmentOpen s q (queueOf s q) = true
  let granted (s : State) (q : Nat) : Bool :=
    ((slotGrant (slotNote (queueMd s q) s) (queueMd s q)).map (·.1)) == some q
  let issued (s u : State) (q : Nat) (d : Desc) (len : Nat) : Prop :=
    Counted (pgQe (queueMd s q)) Off.QE_CNT_TRANSFERS 1 s u ∧ ∃ x, (queueOf u q).flight = (queueOf s q).flight ++ [x] ∧
      x.id = (queueOf s q).nextId ∧ x.block = (queueOf s q).head ∧ x.off = (queueOf s q).offset ∧ x.len = len ∧ x.data = [] ∧
      x.addr = d.at (queueOf s q) (queueOf s q).offset ∧ x.dest = d.dest + (queueOf s q).offset
  let gone (s u : State) (q : Nat) (x : Xfer) : Prop := (queueOf u q).flight = (queueOf s q).flight.filter fun y => y.id != x.id
  let flies (s : State) (q id : Nat) (x : Xfer) : Prop :=
    xferOf s q id = some x ∧ x.sent = false ∧ hhMode s ≠ 2 ∧ fdGrants s (ctxTenant s (queueCtx q)) = true
  let faults (s u : State) (q cause : Nat) : Prop :=
    (queueOf u q).state = 4 ∧ (queueOf u q).cause = cause ∧ Counted (pgQe (queueMd s q)) Off.QE_CNT_FAULTS 1 s u ∧
      Raised (pgQe (queueMd s q)) Evt.QE_QUEUE_FAULT u ∧
      flag u (pgCtx (queueCtx q)) (Off.CTX_QFAULT + 4 * (q % 256 / 32)) (q % 256 % 32) = true
  let words (r : Queue) (entry : List Byte) (flags p0 : Nat) : List Nat :=
    let e := if bitAt flags 1 then entry.take 8 ++ leBytes 8 (resetMask r.marks p0).1 ++ entry.drop 16 else entry
    (List.range 8).map fun i => ofLeBytes ((e.drop (4 * i)).take 4)
  let bound (s : State) (q md : Nat) (fifo : List Launch) (share : Nat) : Prop :=
    md = queueMd s q ∧ creditsUsed s md fifo < share / Nat.max 1 s.part.stackCount
  (∀ s q list d, mayGo s q → stands s q d → d.space = 0 → (queueOf s q).isPut = false → mayIssue s q d = true → granted s q = true →
    Runs (.transferIssue q list) s fun u => issued s u q d (d.piece (queueOf s q) (queueOf s q).offset)) ∧
  (∀ s q list d, mayGo s q → stands s q d → d.space = 0 → (queueOf s q).isPut = false → mayIssue s q d = true → granted s q = false →
    Runs (.transferIssue q list) s fun u =>
      (queueOf u q).flight = (queueOf s q).flight ∧ (queueOf u q).since = (queueOf s q).since.orElse (fun _ => some (beatNo s)) ∧
        RegsBut [] s u) ∧
  (∀ s q list d, mayGo s q → stands s q d → d.space = 1 → (queueOf s q).isPut = false → mayIssue s q d = true → granted s q = true →
    hostOpen s (ctxTenant s (queueCtx q)) = true → (queueOf s q).xlat = true → Runs (.transferIssue q list) s fun u =>
      issued s u q d (d.piece (queueOf s q) (queueOf s q).offset) ∧ u.out = s.out ++ [.hostRead (ctxTenant s (queueCtx q))
        (d.at (queueOf s q) (queueOf s q).offset) (d.piece (queueOf s q) (queueOf s q).offset)]) ∧
  (∀ s q list d, mayGo s q → stands s q d → d.space = 1 → mayIssue s q d = true → (queueOf s q).isPut = false →
    hostOpen s (ctxTenant s (queueCtx q)) = false → Runs (.transferIssue q list) s fun u =>
      (queueOf u q).state = 3 ∧ (queueOf u q).cause = 1 ∧ Counted (pgQe (queueMd s q)) Off.QE_CNT_HALTS 1 s u) ∧
  (∀ s q list bs, mayGo s q → (queueOf s q).desc = none → (queueOf s q).available (queueOf s q).head = true →
    fieldOf (queueOf s q).ctrl 22 2 = 0 → (listRead q (queueOf s q).cursor 32 list s).1 = .ok bs → (descOf bs).kind = 2 →
    descCause (listRead q (queueOf s q).cursor 32 list s).2 q (queueOf s q) (descOf bs) = 0 → Runs (.transferIssue q list) s fun u =>
      (queueOf u q).cursor = (descOf bs).base (queueOf s q) ∧ (queueOf u q).head = (queueOf s q).head ∧
        (queueOf u q).flight = (queueOf s q).flight) ∧
  (∀ s q list, mayGo s q → (queueOf s q).desc = none → (queueOf s q).available (queueOf s q).head = true →
    fieldOf (queueOf s q).ctrl 22 2 = 1 → hostOpen s (ctxTenant s (queueCtx q)) = true → list.length < 32 →
    Runs (.transferIssue q list) s fun u => faults s u q 5 ∧ Counted pgPcie Off.PCIE_CNT_UR 1 s u) ∧
  (∀ s q id ans x bs t, flies s q id x → (queueOf s q).isPut = false → (queueOf s q).epType = 1 → (queueOf s q).epIndex = t →
    (descOf x.desc).space = 0 → (descOf x.desc).tier = 0 →
    (memFetch (.ctx (queueCtx q)) (pageDomain (queuePage s q (queueOf s q))) ⟨none, x.addr⟩ none s).1 = .tile bs →
    tileLive s t = true → admits s t (queueCtx q) = true → xposeSlot s t q = none → (queueOf s q).xpose = [] →
    sramOk s (openRegions s t) (queueCtx q) true x.dest bs.length = true → Runs (.transferComplete q id ans) s fun u =>
      sramRead u t x.dest bs.length = bs ∧ SramBut t x.dest bs.length s u ∧ gone s u q x) ∧
  (∀ s q id ans x, flies s q id x → (queueOf s q).isPut = true → (queueOf s q).state = 1 → (descOf x.desc).space = 1 →
    (descOf x.desc).codec = 0 → hostOpen s (ctxTenant s (queueCtx q)) = true →
    (∀ e ∈ s.host.sends, e.1 ≠ ctxTenant s (queueCtx q)) → Runs (.transferComplete q id ans) s fun u =>
      u.out = s.out ++ [.hostWrite (ctxTenant s (queueCtx q)) x.addr x.data] ∧ gone s u q x) ∧
  (∀ s q id ans x, flies s q id x → hostBound s q x = true → hostOpen s (ctxTenant s (queueCtx q)) = false →
    exec (.transferComplete q id ans) s = .next s) ∧
  (∀ s q id x, flies s q id x → (queueOf s q).isPut = false → poolXfer s q x = false → (descOf x.desc).space = 1 →
    (queueOf s q).state ≠ 4 → (queueOf s q).stopping = false → Runs (.transferComplete q id .unsupported) s fun u =>
      faults s u q 5 ∧ Counted pgPcie Off.PCIE_CNT_UR 1 s u) ∧
  (∀ s q id x c, xferOf s q id = some x → x.sent = false → (queueOf s q).isPut = false → (descOf x.desc).space = 1 →
    (queueOf s q).state ≠ 4 → (queueOf s q).stopping = false →
    (cmdsOf s (pgQe (queueMd s q))).find? (fun c => c.id == xferId q id) = some c → elapsed s c.accept 50000000 = true →
    Runs (.completionTimeout q id) s fun u => faults s u q 5) ∧
  (∀ s q entry flags p0 k, (queueOf s q).launch = some (entry, flags, p0) → (queueOf s q).epType = 1 → (queueOf s q).epIndex = k →
    queueRuns s q = true → (∀ x ∈ (queueOf s q).flight, x.seg ≠ (queueOf s q).segment) → (queueOf s q).scaleReady = true →
    bound s q (queueMd s q) (tileOf s k).fifo 8 → (tileOf s k).fifo.length < 16 → admits s (pageDomain (pgMx k)) (queueCtx q) = true →
    let l : Launch := ⟨words (queueOf s q) entry flags p0, some q, beatNo s⟩
    l.ctx = queueCtx q → launchOk s l = true → fdOwnsTile s k l.ctx = true → k ≠ 0xFF → Runs (.queueLaunchSend q) s fun u =>
      (tileOf u k).fifo = (tileOf s k).fifo ++ [l] ∧ (queueOf u q).sent = (queueOf s q).sent + 1 ∧ (queueOf u q).launch = none ∧
        Counted (pgQe (queueMd s q)) Off.QE_CNT_LAUNCHES 1 s u) ∧
  ∀ s q t x, s.tiles.find? (fun e => e.2.ends.contains q) = some (t, x) → (queueOf s q).ended < (queueOf s q).sent →
    Runs (.endNotification q) s fun u =>
      (tileOf u t).ends = (tileOf s t).ends.eraseP (fun x => x == q) ∧ (queueOf u q).ended = (queueOf s q).ended + 1 ∧
        (queueOf u q).lastEnd = some (beatNo s)

/-- Translations and page requests: a granted translation lets the next transfer go, a refused one halts the queue and asks the host; the
answer, also of a queue that has been parked, or its absence, sets the cause; an invalidation drops the translations of its range. Choices
of the model that it rests on: log 48. -/
def Obligations.Translations : Prop :=
  let calm (s : State) (q : Nat) : Prop := (queueOf s q).stopping = false ∧ quiesced s (queuePage s q (queueOf s q)) = false
  let tenant (s : State) (q : Nat) : Nat := ctxTenant s (queueCtx q)
  let asks (s : State) (q : Nat) (bs : List Byte) : Prop :=
    (queueOf s q).desc = some bs ∧ (queueOf s q).state = 1 ∧ (descOf bs).space = 1 ∧ (queueOf s q).xlat = false ∧ calm s q ∧
      hostOpen s (tenant s q) = true
  let waits (s : State) (q : Nat) : Prop := (queueOf s q).state = 3 ∧ (∃ due, (queueOf s q).pri = some due ∧ s.tt.beats ≤ due) ∧ calm s q ∧ (queueOf s q).finished = false
  let hit (s : State) (fn : Nat) (pasid : Option Nat) (a n q : Nat) : Prop :=
    (queueOf s q).xlat = true ∧ ∃ bs, (queueOf s q).desc = some bs ∧ usesRange s fn pasid a n q (descOf bs)
      ((descOf bs).at (queueOf s q) (queueOf s q).offset) ((descOf bs).piece (queueOf s q) (queueOf s q).offset) = true
  (∀ s q bs, asks s q bs → Runs (.atsTranslation q true) s fun u =>
    queueOf u q = { queueOf s q with xlat := true } ∧ RegsBut [] s u ∧ u.out = s.out) ∧
  (∀ s q bs, asks s q bs → Runs (.atsTranslation q false) s fun u =>
    (queueOf u q).state = 3 ∧ (queueOf u q).cause = 1 ∧ Counted (pgQe (queueMd s q)) Off.QE_CNT_HALTS 1 s u ∧
      Raised (pgQe (queueMd s q)) Evt.QE_QUEUE_FAULT u ∧
      ((queueOf s q).flight = [] → (queueOf s q).pri = none → priCount s none < 512 →
        (tenant s q = 0 ∨ priCount s (some (tenant s q)) < 32) → (queueOf u q).pri.isSome = true ∧
          Counted pgPcie Off.PCIE_CNT_PRI 1 s u ∧ u.out = s.out ++ [.pageRequest (tenant s q)
            ((descOf bs).at (queueOf s q) (queueOf s q).offset / 4096 * 4096)])) ∧
  (∀ s q, waits s q → bitOf (queueOf s q).ctrl 11 = true → Runs (.pageRequestResponse q 0) s fun u =>
    (queueOf u q).state = 1 ∧ (queueOf u q).cause = 0 ∧ (queueOf u q).pri = none) ∧
  (∀ s q, waits s q → bitOf (queueOf s q).ctrl 11 = false → Runs (.pageRequestResponse q 0) s fun u =>
    (queueOf u q).state = 3 ∧ (queueOf u q).cause = 2 ∧ (queueOf u q).pri = none) ∧
  (∀ s q code, waits s q → code ≠ 0 → Runs (.pageRequestResponse q code) s fun u =>
    (queueOf u q).state = 3 ∧ (queueOf u q).cause = 3 ∧ (queueOf u q).pri = none) ∧
  (∀ s q due code, (queueOf s q).state = 3 → (queueOf s q).pri = some due → due < s.tt.beats → Runs (.pageRequestResponse q code) s fun u =>
    (queueOf u q).state = 3 ∧ (queueOf u q).cause = 4 ∧ (queueOf u q).pri = none ∧ Raised (pgQe (queueMd s q)) Evt.QE_QUEUE_FAULT u) ∧
  (∀ s q due, (queueOf s q).state = 5 → (queueOf s q).before = 3 → (queueOf s q).pri = some due → s.tt.beats ≤ due →
    (queueOf s q).stopping = false → quiesced s (queuePage s q (queueOf s q)) = true → bitOf (queueOf s q).ctrl 11 = true →
    Runs (.pageRequestResponse q 0) s fun u =>
      (queueOf u q).state = 5 ∧ (queueOf u q).awake.state = 1 ∧ (queueOf u q).cause = 0 ∧ (queueOf u q).pri = none) ∧
  (∀ s q due, (queueOf s q).state = 3 → (queueOf s q).pri = some due → due ≤ s.tt.beats → Runs (.priTimeout q) s fun u =>
    (queueOf u q).state = 3 ∧ (queueOf u q).cause = 4 ∧ (queueOf u q).pri = none ∧ Raised (pgQe (queueMd s q)) Evt.QE_QUEUE_FAULT u) ∧
  ∀ s fn pasid a n, hostLink s (if fn = 0 then .pf else .vf fn) ≠ .unsupported →
    (∀ e ∈ s.queues, ∀ x ∈ e.2.flight, usesRange s fn pasid a n e.1 (descOf x.desc) x.addr x.len = false) →
    Runs (.invalidateRequest fn pasid a n) s fun u =>
      Counted pgPcie Off.PCIE_CNT_ATS_INV 1 s u ∧ RegsBut [pageBase pgPcie + Off.PCIE_CNT_ATS_INV] s u ∧
        ∀ q, hit s fn pasid a n q → (queueOf u q).xlat = false

/-- PUT queues: a producer's item is placed as far as the transfer that is being filled has room, and taken from the producer; a Meld tile
that holds bytes of another frame is completed first; an item its queue does not admit is discarded and counted; a multicast tile is
stored and its copies leave; an acknowledged copy is installed and posts its block's counter; subscribers that hold a tile back too long
are folded out. Choices of the model that it rests on: log 48 and 49. -/
def Obligations.Puts : Prop :=
  let calm (s : State) (q : Nat) : Prop := (queueOf s q).stopping = false ∧ quiesced s (queuePage s q (queueOf s q)) = false
  let room (s : State) (q : Nat) (d : Desc) : Nat := d.total - ((queueOf s q).offset + (queueOf s q).acc.length)
  let part_ (s : State) (q : Nat) (d : Desc) (it : PutItem) : Nat :=
    Nat.min (d.piece (queueOf s q) (queueOf s q).offset - (queueOf s q).acc.length) it.bytes.length
  let takes (s : State) (src : PutSource) (it : PutItem) (d : Desc) : Prop :=
    putItem s src = some it ∧ it.bytes ≠ [] ∧ putAdmits s src it.queue it.owner = true ∧ putOpen s it.queue = true ∧
      queueRuns s it.queue = true ∧ (queueOf s it.queue).accDone = false ∧ (∃ bs, (queueOf s it.queue).desc = some bs ∧ d = descOf bs) ∧
      (it.whole = true → it.bytes.length ≤ room s it.queue d) ∧ otherFrame (queueOf s it.queue) d it = false
  let lineOf (src : PutSource) : Bool :=
    match src with
    | .csiLine _ _ => true
    | .ispLine _ _ => true
    | _ => false
  let mayCast (s : State) (q : Nat) (d : Desc) : Prop :=
    queueRuns s q = true ∧ fdGrants s (ctxTenant s (queueCtx q)) = true ∧ (queueOf s q).isPut = true ∧ (queueOf s q).mcast = true ∧ (queueOf s q).epType = 1 ∧
      (queueOf s q).finished = false ∧ (∃ bs, (queueOf s q).desc = some bs ∧ d = descOf bs) ∧ ∀ e ∈ s.queues, e.2.mc = []
  let ctr (s : State) (q : Nat) (d : Desc) : Nat := d.position (queueOf s q) % 64
  let cells (s : State) (q : Nat) (d : Desc) : Home :=
    if d.space = 0 then ⟨none, d.at (queueOf s q) (queueOf s q).offset⟩
    else ⟨some (queueCtx q), d.at (queueOf s q) (queueOf s q).offset⟩
  let stored (s : State) (q : Nat) (d : Desc) (data : List Byte) : MemAns × State :=
    memStore (.ctx (queueCtx q)) (pageDomain (queuePage s q (queueOf s q))) (cells s q d) 0 data s
  let to_ (s : State) (q : Nat) : List Nat := (tilesOf (queueOf s q).subs).filter fun t => !bitAt (queueOf s q).fold t
  (∀ s src list it, putItem s src = some it → it.bytes ≠ [] → putAdmits s src it.queue it.owner = false → Runs (.putDelivery src list) s fun u =>
    Counted (pgQe (queueMd s it.queue)) Off.QE_CNT_PUT_REFUSED 1 s u ∧ u.queues = s.queues ∧
      (lineOf src = false → RegsBut [pageBase (pgQe (queueMd s it.queue)) + Off.QE_CNT_PUT_REFUSED] s u)) ∧
  (∀ s src list it d, takes s src it d → Runs (.putDelivery src list) s fun u =>
    (queueOf u it.queue).acc = (queueOf s it.queue).acc ++ it.bytes.take (part_ s it.queue d it) ∧
      ((queueOf u it.queue).accDone = true ↔ d.piece (queueOf s it.queue) (queueOf s it.queue).offset ≤ (queueOf u it.queue).acc.length ∨
        (part_ s it.queue d it = it.bytes.length ∧ (it.final = true ∨ d.meld = false))) ∧ (lineOf src = false → RegsBut [] s u)) ∧
  (∀ s src list it d bs, putItem s src = some it → it.bytes ≠ [] → putAdmits s src it.queue it.owner = true → putOpen s it.queue = true →
    queueRuns s it.queue = true → (queueOf s it.queue).accDone = false → (queueOf s it.queue).desc = some bs → d = descOf bs →
    otherFrame (queueOf s it.queue) d it = true → Runs (.putDelivery src list) s fun u =>
      queueOf u it.queue = { queueOf s it.queue with accDone := true } ∧ putItem u src = some it ∧ RegsBut [] s u) ∧
  (∀ s t list it d x rest, takes s (.tileRecord t 0) it d → (tileOf s t).comps = x :: rest → it.bytes = x.2.2 → it.queue = x.1 →
    part_ s it.queue d it = it.bytes.length → Runs (.putDelivery (.tileRecord t 0) list) s fun u => (tileOf u t).comps = rest) ∧
  (∀ s q data list d, mayCast s q d → data.length = 4096 → (∀ t ∈ tilesOf (queueOf s q).subs, haloOwner s t (ctr s q d) (queueCtx q) = true) →
    (gotMem (stored s q d data)).cause = 0 → to_ s q ≠ [] → Runs (.multicastPut q data list) s fun u =>
      u.mem = (if 2 ≤ d.codec then storeForced (d.codec - 2) (cells s q d) (ctxTenant s (queueCtx q)) data (stored s q d data).2
          else (stored s q d data).2).mem ∧
        ∃ m ∈ (queueOf u q).mc, m.data = data ∧ m.home = cells s q d ∧ m.ctr = ctr s q d ∧ m.unsent = [] ∧ m.unacked = to_ s q) ∧
  (∀ s q data list d, mayCast s q d → data.length = 4096 → (∃ t ∈ tilesOf (queueOf s q).subs, haloOwner s t (ctr s q d) (queueCtx q) = false) →
    Runs (.multicastPut q data list) s fun u => (queueOf u q).state = 4 ∧ (queueOf u q).cause = 6 ∧ u.mem = s.mem) ∧
  (∀ s q t m n, (queueOf s q).mc = [m] → (tileOf s t).waits = [] → m.unsent = [] → m.unacked = [t] → tileLive s t = true → admits s t (queueCtx q) = true →
    poolFind s t m.home (ctxTenant s (queueCtx q)) = none → poolNext s t m.home (ctxTenant s (queueCtx q)) = none →
    chooseLine s t = some (n, none) → Runs (.multicastAck q t) s fun u =>
      (queueOf u q).mc = [] ∧ (∃ l ∈ poolLines u t, l.line = n ∧ l.home = m.home ∧ l.tenant = ctxTenant s (queueCtx q) ∧ l.st = 2) ∧
        (m.last = true → m.ctr < 64 → haloOwner s t m.ctr (queueCtx q) = true →
          haloValue u t m.ctr = satNat 0xFFFFFFFF (haloValue s t m.ctr + 1))) ∧
  ∀ s q m rest b, (queueOf s q).mc = m :: rest → m.waitFrom = some b → b + (queueOf s q).skew ≤ s.tt.beats → m.unsent ≠ [] →
    calm s q → (queueOf s q).finished = false → Runs (.fold q) s fun u =>
      (∀ t ∈ m.unsent, bitAt (queueOf u q).fold t = true ∧ ∀ x ∈ (queueOf u q).mc, t ∉ x.unsent ∧ t ∉ x.unacked) ∧
        Counted (pgQe (queueMd s q)) Off.QE_CNT_FOLDS m.unsent.length s u ∧ Raised (pgQe (queueMd s q)) Evt.QE_FOLD u

/-! ## The host link, contexts and service rings -/

/-- Functions and the link: Function Level Resets, D3hot, configuration writes, answered with Retry Status before the function is ready and
kept for the way out of L1.2, interrupt masks, which the host writes by memory or configuration requests, retraining. Choices of the model
that it rests on: log 43. -/
def Obligations.FunctionsAndLink : Prop :=
  let destroyed (u : State) (c : Nat) : Prop := ctxState u c = 4
  let up (s : State) : Prop := s.boot.phase = .up ∧ s.host.linkUp = true ∧ 2 ≤ pwrState s
  let sent (s t : State) (fn : Nat) (open_ : Nat → Bool) : Prop :=
    t.out = s.out ++ ((s.host.pba.filter fun x => x / 4096 == fn && open_ x).map fun x => .msix fn (x % 4096)) ∧
      t.host.pba = s.host.pba.filter fun x => !(x / 4096 == fn && open_ x)
  let linkOff : Nat := pageBase pgPcie + Off.PCIE_LINK
  (∀ s t, 1 ≤ t → t ≤ 15 → tenantExists s t = true → s.boot.phase = .up → Runs (.vfFlr t) s fun u =>
    (∀ c x, (c, x) ∈ s.host.ctxs → fieldOf x.cfg 0 4 = t → destroyed u c) ∧
      u.sec.sessions = (s.sec.sessions.filter fun x => x.fn != t) ∧
      (t ∉ u.host.mse ∧ t ∉ u.host.msixEn ∧ t ∉ u.host.fnMask ∧ t ∉ u.host.d3) ∧
      (∀ n, n ≠ t → (n ∈ u.host.mse ↔ n ∈ s.host.mse) ∧ (n ∈ u.host.msixEn ↔ n ∈ s.host.msixEn)) ∧
      (∀ c, serviceCtx s t = some c → flag u (pgCtx c) Off.SVC_RING_CFG 0 = false ∧ holdOf u (ctxTenant s c) = ⟨[], 0⟩) ∧
      (∀ n, n < s.part.stackCount → kittyLive s n = true → ∀ l ∈ kittyOf u n, l.tenant = t → l.locked = true)) ∧
  (∀ s, s.boot.phase = .up → Runs .pfFlr s fun u =>
    (∀ c x, (c, x) ∈ s.host.ctxs → (1 ≤ fieldOf x.cfg 0 4 ∧ tenantExists s (fieldOf x.cfg 0 4) = true) ∨
      flag s (pgCtx c) Off.CTX_STATUS 16 = false → destroyed u c) ∧
      (∀ c, (∀ x, (c, x) ∈ s.host.ctxs → fieldOf x.cfg 0 4 = 0) → flag s (pgCtx c) Off.CTX_STATUS 16 = true →
        ctxState u c = ctxState s c) ∧
      (∀ t, 1 ≤ t → t ≤ 15 → tdiHeld s t = true → tdiState u t = 3) ∧ u.host.vfEnable = false ∧ u.sec.sessions = [] ∧
      u.boot.handles = [] ∧ u.boot.decks = s.boot.decks ∧ 0 ∉ u.host.mse ∧ 0 ∉ u.host.msixEn ∧ pwrState u = pwrState s) ∧
  (∀ s fn, s.boot.phase = .up → tenantExists s fn = true → fn ∉ s.host.d3 → Runs (.d3hotEntry fn) s fun t =>
    t = { s with host := { s.host with d3 := t.host.d3 } } ∧ ∀ n, n ∈ t.host.d3 ↔ n = fn ∨ n ∈ s.host.d3) ∧
  (∀ s fn, fn ∈ s.host.d3 → Runs (.returnToD0 fn) s fun t =>
    (∀ n, n ∈ t.host.d3 ↔ n ≠ fn ∧ n ∈ s.host.d3) ∧
      ∀ q, (queueOf s q).closed = true → (queueOf s q).state = 3 → hostOpen t (ctxTenant s (queueCtx q)) = true →
        (queueOf t q).state = 1 ∧ (queueOf t q).closed = false) ∧
  (∀ s x fn mask, s.boot.phase = .training ∨ s.boot.phase = .waitPg ∧ s.host.linkUp = true →
    ∀ i ∈ [Instr.configurationRequest x, .msixUnmask fn none mask], Runs i s fun t => t = { s with out := s.out ++ [.configRetry] }) ∧
  (∀ s fn on, up s → tenantExists s fn = false → Runs (.configurationRequest (.memorySpace fn on)) s fun t =>
    t = { s with out := s.out ++ [.unsupported (fnOf fn)] }) ∧
  (∀ s x, s.boot.phase = .up → s.host.linkUp = true → pwrState s ≤ 1 → Runs (.configurationRequest x) s fun t =>
    t = { s with host := { s.host with waiting := s.host.waiting ++ [.config x] } }) ∧
  (∀ s n, up s → s.host.vfEnable = false → n ≤ 15 → Runs (.configurationRequest (.numVfs n)) s fun t =>
    t = { s with host := { s.host with numVfs := n } }) ∧
  (∀ s, up s → flag s pgMb Off.MB_READY 4 = true → Runs (.configurationRequest (.vfEnable true)) s fun t =>
    t = { s with host := { s.host with vfEnable := true } }) ∧
  (∀ s, up s → Runs (.configurationRequest (.vfEnable false)) s fun t =>
    t.host.vfEnable = false ∧ ∀ c x, (c, x) ∈ s.host.ctxs → 1 ≤ fieldOf x.cfg 0 4 → tenantExists s (fieldOf x.cfg 0 4) = true →
      destroyed t c) ∧
  (∀ s fn on, up s → tenantExists s fn = true → Runs (.configurationRequest (.memorySpace fn on)) s fun t =>
    t = { s with host := { s.host with mse := t.host.mse } } ∧ (fn ∈ t.host.mse ↔ on = true) ∧
      ∀ n, n ≠ fn → (n ∈ t.host.mse ↔ n ∈ s.host.mse)) ∧
  (∀ s fn on mask, up s → tenantExists s fn = true → Runs (.configurationRequest (.msix fn on mask)) s fun t =>
    (fn ∈ t.host.msixEn ↔ on = true) ∧ (fn ∈ t.host.fnMask ↔ mask = true) ∧
      sent s t fn (fun x => on && !mask && s.host.unmasked.contains x) ∧ RegsBut [] s t) ∧
  (∀ s on, up s → Runs (.configurationRequest (.aspmL12 on)) s fun t => t = { s with host := { s.host with aspmL12 := on } }) ∧
  (∀ s on, up s → Runs (.configurationRequest (.pmeEnable on)) s fun t => t = { s with host := { s.host with pmeEn := on } }) ∧
  (∀ s, up s → Runs (.configurationRequest .clearPmeStatus) s fun t =>
    t = { s with host := { s.host with pmeStatus := false, wakeDriven := false } }) ∧
  (∀ s n tee lo hi, up s → 1 ≤ n → n ≤ 16 → (ideOf s n).secure = false → Runs (.configurationRequest (.ideStream n tee lo hi)) s fun t =>
    ideOf t n = { ideOf s n with tee := tee, lo := lo, hi := hi } ∧ RegsBut [] s t) ∧
  (∀ s fn v, hostLink s (fnOf fn) = .ok → v < vectorsOf fn → fn ∈ s.host.msixEn → fn ∉ s.host.fnMask →
    Runs (.msixUnmask fn (some v) false) s fun t =>
      (∀ x, x ∈ t.host.unmasked ↔ x = fn * 4096 + v ∨ x ∈ s.host.unmasked) ∧
        sent s t fn (fun x => x == fn * 4096 + v || s.host.unmasked.contains x) ∧ RegsBut [] s t) ∧
  (∀ s fn v, hostLink s (fnOf fn) = .ok → v < vectorsOf fn → Runs (.msixUnmask fn (some v) true) s fun t =>
    (∀ x, x ∈ t.host.unmasked ↔ x ≠ fn * 4096 + v ∧ x ∈ s.host.unmasked) ∧ RegsBut [] s t) ∧
  (∀ s fn v mask, hostLink s (fnOf fn) = .unsupported → Runs (.msixUnmask fn (some v) mask) s fun t =>
    t = { s with out := s.out ++ [.unsupported (fnOf fn)] }) ∧
  (∀ s fn v mask, hostLink s (fnOf fn) = .waits → Runs (.msixUnmask fn (some v) mask) s fun t =>
    t = { s with host := { s.host with waiting := s.host.waiting ++ [.mask fn (some v) mask] } }) ∧
  (∀ s fn, up s → tenantExists s fn = true → fn ∈ s.host.msixEn → Runs (.msixUnmask fn none false) s fun t =>
    fn ∉ t.host.fnMask ∧ sent s t fn (fun x => s.host.unmasked.contains x) ∧ RegsBut [] s t) ∧
  (∀ s fn, up s → tenantExists s fn = true → Runs (.msixUnmask fn none true) s fun t => fn ∈ t.host.fnMask ∧ t.out = s.out ∧ RegsBut [] s t) ∧
  ∀ s width speed laneFail, s.host.linkUp = true → pageOn s pgPcie = true → Runs (.retrain width speed laneFail) s fun t =>
    fld t pgPcie Off.PCIE_LINK 0 3 = width % 8 ∧ fld t pgPcie Off.PCIE_LINK 3 4 = speed % 16 ∧ flag t pgPcie Off.PCIE_LINK 7 = laneFail ∧
      Counted pgPcie Off.PCIE_CNT_RETRAIN 1 s t ∧ Raised pgPcie Evt.PCIE_LINK_CHANGE t ∧
      RegsBut [linkOff, pageBase pgPcie + Off.PCIE_CNT_RETRAIN, evtOf pgPcie] s t

/-- Contexts: CREATE latches the attributes of a free context, BIND binds it to a model slot once the slot's deck has been checked, UNBIND
frees the slot of a quiet context, DESTROY stops its queues, and when its work has ended what it owns is released. Choices of the model
that it rests on: log 42. -/
def Obligations.Contexts : Prop :=
  let asked (s : State) (w : Func) (c : Nat) : Prop :=
    c < 1024 ∧ Admitted s w (pgCtx c) Off.CTX_CMD ∧ (∀ n, w ≠ .vf n) ∧ flag s (pgCtx c) Off.CTX_CMD 31 = false ∧
      (w = .pf → ctxExists s c = true → tdiHeld s (ctxTenant s c) = false)
  let posted (c code : Nat) (t : State) : Prop :=
    fld t (pgCtx c) Off.CTX_STATUS 8 8 = code ∧ flag t (pgCtx c) Off.CTX_CMD 31 = false ∧ Raised (pgCtx c) Evt.CTX_CMD_DONE t
  let own (c : Nat) : List Nat := [pageBase (pgCtx c) + Off.CTX_CMD, pageBase (pgCtx c) + Off.CTX_STATUS, evtOf (pgCtx c), hhLost]
  let refused (c code : Nat) (s t : State) : Prop := posted c code t ∧ ctxState t c = ctxState s c ∧ t.host = s.host ∧ RegsBut (own c) s t
  (∀ s w c, asked s w c → createCheck s w c = 0 → Runs (.create w c) s fun t =>
    ctxState t c = 1 ∧ posted c 0 t ∧ ctxOf t c = ⟨rd s (pgCtx c) Off.CTX_CFG, rd s (pgCtx c) Off.CTX_PASID, none, 0⟩ ∧
      (∀ d, d ≠ c → ctxOf t d = ctxOf s d) ∧ flag t (pgCtx c) Off.CTRL 0 = true ∧ (∀ q, queueCtx q = c → queueOf t q = Queue.idle) ∧
      (ctxTenant t c ≠ 0 → fld t (pgCtx c) Off.EVT_ROUTE 16 4 = ctxTenant t c ∧ flag t (pgCtx c) Off.CTRL 2 = false)) ∧
  (∀ s w c, asked s w c → createCheck s w c ≠ 0 → (w = .pf → tdiHeld s (fld s (pgCtx c) Off.CTX_CFG 0 4) = false) →
    Runs (.create w c) s (refused c (createCheck s w c) s)) ∧
  (∀ s w c slot k, asked s w c → slot < 16 → ctxState s c = 1 → modelDeck s slot = some k → (∀ e ∈ s.host.placed, e % 16 ≠ slot) →
    Runs (.bind w c slot) s fun t =>
      ctxState t c = 2 ∧ fld t (pgCtx c) Off.CTX_STATUS 4 4 = slot ∧ flag t (pgCtx c) Off.CTX_CMD 31 = true ∧
        t.host = { s.host with ctxs := t.host.ctxs } ∧ ctxOf t c = { ctxOf s c with bound := s.tt.beats } ∧
        (∀ d, d ≠ c → ctxOf t d = ctxOf s d) ∧ RegsBut (own c) s t) ∧
  (∀ s w c slot k, asked s w c → slot < 16 → ctxState s c = 1 → modelDeck s slot = some k →
    s.host.placed.find? (fun e => e % 16 == slot) = some slot → raiseDeck (placementOf k.bytes) = false → fdOn s = false →
    Runs (.bind w c slot) s fun t => ctxState t c = 3 ∧ fld t (pgCtx c) Off.CTX_STATUS 4 4 = slot ∧ posted c 0 t) ∧
  (∀ s w c slot k r, asked s w c → slot < 16 → ctxState s c = 1 → modelDeck s slot = some k →
    s.host.placed.find? (fun e => e % 16 == slot) = some (slot + 16 * r) → r ≠ 0 →
    Runs (.bind w c slot) s fun t => ctxState t c = 1 ∧ posted c 8 t) ∧
  (∀ s w c slot, asked s w c → slot < 16 → ctxState s c ≠ 1 → Runs (.bind w c slot) s (refused c 1 s)) ∧
  (∀ s w c slot, asked s w c → slot < 16 → ctxState s c = 1 → modelDeck s slot = none → Runs (.bind w c slot) s (refused c 7 s)) ∧
  (∀ s slot k c, slot < 16 → serviceRuns s = true → modelDeck s slot = some k → (∀ e ∈ s.host.placed, e % 16 ≠ slot) →
    c ∈ boundTo s slot → ctxState s c = 2 → raiseDeck (placementOf k.bytes) = false → fdOn s = false → placementCheck s k.bytes ≠ 4 →
    Runs (.bindComplete slot) s fun t =>
      t.host.placed = s.host.placed ++ [slot + 16 * placementCheck s k.bytes] ∧
        (placementCheck s k.bytes = 0 → ctxState t c = 3 ∧ posted c 0 t) ∧
        (placementCheck s k.bytes ≠ 0 → ctxState t c = 1 ∧ posted c 8 t)) ∧
  (∀ s w c, asked s w c → ctxState s c = 3 → ctxQuiet s c = true → Runs (.unbind w c) s fun t =>
    ctxState t c = 1 ∧ posted c 0 t ∧ t.host = s.host ∧ RegsBut (own c) s t) ∧
  (∀ s w c, asked s w c → ctxState s c = 3 → ctxQuiet s c = false → Runs (.unbind w c) s (refused c 9 s)) ∧
  (∀ s w c, asked s w c → ctxState s c ≠ 3 → Runs (.unbind w c) s (refused c 1 s)) ∧
  (∀ s w c, asked s w c → ctxState s c = 1 ∨ ctxState s c = 2 ∨ ctxState s c = 3 → Runs (.destroy w c) s fun t =>
    ctxState t c = 4 ∧ flag t (pgCtx c) Off.CTX_CMD 31 = true ∧ (∃ x ∈ cmdsOf t (pgCtx c), x.id = 0) ∧
      (∀ q, queueCtx q = c → (queueOf s q).flight = [] → (queueOf t q).state = 0) ∧
      (∀ q, queueCtx q = c → (queueOf s q).state ≠ 0 → (queueOf s q).flight ≠ [] → (queueOf t q).stopping = true)) ∧
  (∀ s w c, asked s w c → ctxState s c = 0 ∨ 4 ≤ ctxState s c → Runs (.destroy w c) s (refused c 1 s)) ∧
  (∀ s w c slot, ∀ i ∈ [Instr.create (.vf w) c, .bind (.vf w) c slot, .unbind (.vf w) c, .destroy (.vf w) c], c < 1024 →
    Admitted s (.vf w) (pgCtx c) Off.CTX_CMD → Runs i s fun t =>
      Counted (pgCtx c) Off.CTX_CNT_REFUSED 1 s t ∧ RegsBut [pageBase (pgCtx c) + Off.CTX_CNT_REFUSED, hhLost] s t) ∧
  ∀ s c, ctxExists s c = true → ctxState s c = 4 → ctxQuiet s c = true → Runs (.destroyComplete c) s fun t =>
    ctxState t c = 0 ∧ posted c 0 t ∧ (∀ e ∈ t.host.ctxs, e.1 ≠ c) ∧ (∀ d, d ≠ c → ctxOf t d = ctxOf s d) ∧
      (∀ q, queueCtx q = c → queueOf t q = Queue.idle) ∧ flag t (pgCtx c) Off.CTRL 0 = false ∧
      (∀ u n, (segOf s u n).valid = true → fieldOf (segOf s u n).owner 0 10 = c → (segOf t u n).valid = false) ∧
      (∀ u n, u < 64 → n < 16 → fld s (pgVe u) (Off.VE_QP_OWNER + 16 * n) 0 10 = c →
        flag t (pgVe u) (Off.VE_QP_OWNER + 16 * n) 31 = false) ∧
      (∀ u n, u < 64 → n < 64 → fld s (pgTsp u) (Off.TSP_HALO_OWNER + 4 * n) 0 10 = c →
        flag t (pgTsp u) (Off.TSP_HALO_OWNER + 4 * n) 31 = false) ∧
      (ctxTenant s c ≠ 0 → fld t (pgCtx c) Off.EVT_ROUTE 16 4 = 0)

/-- Service rings: the registers of both rings, the cells that the host sends with their answers, and the cells that the service posts.
Choices of the model that it rests on: log 40 and 41. -/
def Obligations.ServiceCells : Prop :=
  let cx (c off : Nat) : Nat := pageBase (pgCtx c) + off
  let refused (c : Nat) (s t : State) : Prop :=
    Counted (pgCtx c) Off.CTX_CNT_REFUSED 1 s t ∧ RegsBut [cx c Off.CTX_CNT_REFUSED, hhLost] s t
  let size (k : Nat) : Prop := 4 ≤ k ∧ k ≤ 12
  let tail (s : State) (c : Nat) : Nat := (rd s (pgCtx c) Off.SVC_D2H_TAIL).toNat
  let used (s : State) (c : Nat) : Nat := ringUsed (tail s c) (rd s (pgCtx c) Off.SVC_D2H_HEAD).toNat
  let base (s : State) (c : Nat) : Nat := rd64 s (pgCtx c) Off.SVC_D2H_BASE_LO Off.SVC_D2H_BASE_HI
  -- cell number i of those sent
  let cell (s : State) (c i : Nat) (x : Cell) : Out :=
    let k := (tail s c + i) % 2 ^ 32
    .hostWrite (ctxTenant s c) (base s c + 64 * (k % d2hSize s c)) (cellBytes x k (d2hSize s c))
  let cells (s : State) (c : Nat) (xs : List Cell) : List Out := xs.mapIdx (cell s c)
  let ready (s : State) (c : Nat) (xs : List Cell) : Prop :=
    serviceCtx s (ctxTenant s c) = some c ∧ holdOf s (ctxTenant s c) = ⟨[], 0⟩ ∧ hostOpen s (ctxTenant s c) = true ∧
      flag s (pgCtx c) Off.SVC_RING_CFG 0 = true ∧ used s c + xs.length ≤ d2hSize s c
  let field (x : List Byte) (a n : Nat) : Nat := ofLeBytes ((x.drop a).take n)
  let ack (s : State) (t : Nat) (x : List Byte) : Cell :=
    { kind := 0x204, flags := 0, code := h2dCheck t x, corr := field x 8 4, tt := 64 * beatNo s, payload := x.take 2 ++ (x.drop 4).take 4 }
  let answers (s : State) (t : Nat) (x : List Byte) : List Cell :=
    let version := statusCell s 1 (((deckOf s 2).map fun d => deckVersion d.bytes).getD 0) 0 (field x 8 4)
    let power := statusCell s 2 (pwrState s) (rd s pgPower Off.PWR_WAKE_CAUSE).toNat (field x 8 4)
    (if h2dCheck t x = 0 ∧ field x 0 2 = 0x104 then version :: (if t = 0 then [power] else []) else []) ++
      (if h2dCheck t x ≠ 0 ∨ bitAt (field x 2 1) 2 = true then [ack s t x] else [])
  let posts (s u : State) (t : Nat) (x : Cell) : Prop :=
    (∀ c, ready s c [x] → ctxTenant s c = t → 0 ∉ s.host.d3 →
      u.out = s.out ++ (if bitAt x.flags 1 && s.host.aspmL12 then [.clkreq] else []) ++ [cell s c 0 x] ∧
        tail u c = (tail s c + 1) % 2 ^ 32 ∧ Raised (pgCtx c) Evt.CTX_D2H_CELL u ∧ Counted (pgCtx c) Off.CTX_CNT_D2H_CELLS 1 s u) ∧
      (∀ c, serviceCtx s t = some c → cellMay s c = false → (holdOf s t).dropped = 0 →
        ((holdOf s t).cells.length < 64 ∨ (x.kind ≠ 0x203 ∧ x.kind ≠ 0x205)) → holdOf u t = ⟨(holdOf s t).cells ++ [x], 0⟩)
  (∀ s w c v, Admitted s w (pgCtx c) Off.SVC_RING_CFG → isService s c = true → flag s (pgCtx c) Off.SVC_RING_CFG 0 = false →
    size (fieldOf v 4 4) → size (fieldOf v 8 4) → bitOf v 0 = true → Runs (.svcRingEnable w c v) s fun t =>
      flag t (pgCtx c) Off.SVC_RING_CFG 0 = true ∧ h2dSize t c = 2 ^ fieldOf v 4 4 ∧ d2hSize t c = 2 ^ fieldOf v 8 4 ∧
        rd t (pgCtx c) Off.SVC_H2D_TAIL = 0 ∧ rd t (pgCtx c) Off.SVC_H2D_HEAD = 0 ∧ rd t (pgCtx c) Off.SVC_D2H_HEAD = 0 ∧
        (holdOf s (ctxTenant s c) = ⟨[], 0⟩ → rd t (pgCtx c) Off.SVC_D2H_TAIL = 0)) ∧
  (∀ s w c v, Admitted s w (pgCtx c) Off.SVC_RING_CFG → isService s c = true → flag s (pgCtx c) Off.SVC_RING_CFG 0 = true →
    bitOf v 0 = false → Runs (.svcRingEnable w c v) s fun t =>
      flag t (pgCtx c) Off.SVC_RING_CFG 0 = false ∧ holdOf t (ctxTenant s c) = ⟨[], 0⟩ ∧ RegsBut [cx c Off.SVC_RING_CFG, hhLost] s t) ∧
  (∀ s w c v, Admitted s w (pgCtx c) Off.SVC_RING_CFG → isService s c = true →
    (flag s (pgCtx c) Off.SVC_RING_CFG 0 = true ∧ bitOf v 0 = true) ∨
      (flag s (pgCtx c) Off.SVC_RING_CFG 0 = false ∧ ¬ (size (fieldOf v 4 4) ∧ size (fieldOf v 8 4))) →
    Runs (.svcRingEnable w c v) s (refused c s)) ∧
  (∀ s w c v off i, (off, i) ∈ [(Off.SVC_RING_CFG, Instr.svcRingEnable w c v), (Off.SVC_H2D_TAIL, .h2dTailWrite w c v),
    (Off.SVC_D2H_HEAD, .d2hHeadWrite w c v)] → Admitted s w (pgCtx c) off → isService s c = false →
    Runs i s fun t => RegsBut [hhLost] s t) ∧
  (∀ s w c v, Admitted s w (pgCtx c) Off.SVC_H2D_TAIL → isService s c = true →
    let moves := countMoves (rd s (pgCtx c) Off.SVC_H2D_TAIL).toNat v.toNat (rd s (pgCtx c) Off.SVC_H2D_HEAD).toNat (h2dSize s c)
    Runs (.h2dTailWrite w c v) s fun t =>
      (moves = true → rd t (pgCtx c) Off.SVC_H2D_TAIL = v ∧ RegsBut [cx c Off.SVC_H2D_TAIL, hhLost] s t) ∧
        (moves = false → refused c s t)) ∧
  (∀ s w c v, Admitted s w (pgCtx c) Off.SVC_D2H_HEAD → isService s c = true →
    let old := (rd s (pgCtx c) Off.SVC_D2H_HEAD).toNat
    Runs (.d2hHeadWrite w c v) s fun t =>
      (ringUsed v.toNat old ≤ ringUsed (tail s c) old → rd t (pgCtx c) Off.SVC_D2H_HEAD = v) ∧
        (ringUsed (tail s c) old < ringUsed v.toNat old → refused c s t)) ∧
  (∀ s c bs kind i, (kind, i) ∈ [(0x101, Instr.applianceEvent c bs), (0x102, .confirm c bs), (0x103, .say c bs), (0x104, .query c bs)] →
    let x := (bs ++ List.replicate 64 0).take 64
    let t := ctxTenant s c
    let head := rd s (pgCtx c) Off.SVC_H2D_HEAD
    h2dMay s c = true → field x 0 2 = kind ∨ h2dLen (field x 0 2) = none → ready s c (answers s t x) → Runs i s fun u =>
      u.out = s.out ++
        .hostRead t (rd64 s (pgCtx c) Off.SVC_H2D_BASE_LO Off.SVC_H2D_BASE_HI + 64 * (head.toNat % h2dSize s c)) 64 ::
          cells s c (answers s t x) ∧
        rd u (pgCtx c) Off.SVC_H2D_HEAD = head + 1 ∧ tail u c = (tail s c + (answers s t x).length) % 2 ^ 32 ∧
        Counted (pgCtx c) Off.CTX_CNT_H2D_CELLS 1 s u ∧ Counted (pgCtx c) Off.CTX_CNT_D2H_CELLS (answers s t x).length s u ∧
        (head + 1 = rd s (pgCtx c) Off.SVC_H2D_TAIL → Raised (pgCtx c) Evt.CTX_H2D_DONE u)) ∧
  (∀ s t urgent reply corr id verb target confidence seat params, serviceRuns s = true →
    Runs (.intent t urgent reply corr id verb target confidence seat params) s fun u =>
      posts s u t { kind := 0x201, flags := 2 * ofBool urgent + 4 * ofBool reply, code := 0, corr := corr % 2 ^ 32, tt := 64 * beatNo s
                    payload := intentPayload id verb target confidence seat params }) ∧
  (∀ s t code a0 a1 urgent, serviceRuns s = true → 1 ≤ code → code ≤ 7 → statusOpen t code = true →
    Runs (.status t code a0 a1 urgent) s fun u => posts s u t { statusCell s code a0 a1 0 with flags := 2 * ofBool urgent }) ∧
  (∀ s code a0 a1 urgent, serviceRuns s = true → 1 ≤ code → code ≤ 6 → Runs (.event code a0 a1 urgent) s fun u =>
    posts s u 0 { statusCell s code a0 a1 0 with kind := 0x203, flags := 2 * ofBool urgent }) ∧
  ∀ s code a0 a1 urgent c, serviceRuns s = true → 1 ≤ code → code ≤ 6 → serviceCtx s 0 = some c → 64 ≤ (holdOf s 0).cells.length →
    Runs (.event code a0 a1 urgent) s fun u =>
      holdOf u 0 = ⟨(holdOf s 0).cells, (holdOf s 0).dropped + 1⟩ ∧ Counted (pgCtx c) Off.CTX_CNT_CELLS_DROPPED 1 s u ∧ u.out = s.out

/-! ## Security -/

/-- SPDM: discovery, negotiation in its order, certificates, measurements and challenges; what is answered with an error. Choices of the model
that it rests on: log 3 and 50. -/
def Obligations.Attestation : Prop :=
  let ready (s : State) (fn stage : Nat) : Prop := doeReady s fn = true ∧ bootRunning s = true ∧ stage ≤ spdmStage s fn
  let reply (fn : Nat) (r : DoeReply) (s t : State) : Prop := t.out = s.out ++ [.doe fn r] ∧ RegsBut [] s t
  let error (fn : Nat) (e : SpdmError) (s t : State) : Prop :=
    t.out = s.out ++ [.doe fn (.error e)] ∧ Counted pgMb Off.MB_CNT_SPDM_ERRORS 1 s t ∧ t.sec = s.sec ∧
      RegsBut [pageBase pgMb + Off.MB_CNT_SPDM_ERRORS] s t
  let stages (fn n : Nat) (s t : State) : Prop := spdmStage t fn = n ∧ ∀ m, m ≠ fn → spdmStage t m = spdmStage s m
  let chain (s : State) : List Byte := certChain s
  (∀ s fn, doeReady s fn = true → Runs (.doeDiscovery fn) s (reply fn (.discovery [0, 1, 2]) s)) ∧
  (∀ s fn id slot off len index all signed offers, doeReady s fn = true → bootRunning s = false →
    ∀ i ∈ [Instr.getVersion fn, .getCapabilities fn, .negotiateAlgorithms fn offers, .getDigests fn, .getCertificate fn slot off len,
      .challenge fn slot all, .getMeasurements fn index signed, .keyExchange fn slot id, .finish fn id, .heartbeat fn id,
      .keyUpdate fn id, .endSession fn id, .slotQuery fn id], Runs i s (error fn .busy s)) ∧
  (∀ s fn, ready s fn 0 → Runs (.getVersion fn) s fun t => reply fn (.version 1 2) s t ∧ stages fn 1 s t) ∧
  (∀ s fn, ready s fn 1 → Runs (.getCapabilities fn) s fun t => reply fn .capabilities s t ∧ stages fn 2 s t) ∧
  (∀ s fn, ready s fn 2 → Runs (.negotiateAlgorithms fn true) s fun t => reply fn .algorithms s t ∧ stages fn 3 s t) ∧
  (∀ s fn, ready s fn 2 → Runs (.negotiateAlgorithms fn false) s (error fn .invalidRequest s)) ∧
  (∀ s fn, ready s fn 3 → Runs (.getDigests fn) s (reply fn (.digests (Config.sha384 (chain s))) s)) ∧
  (∀ s fn off len, ready s fn 3 → off ≤ (chain s).length → Runs (.getCertificate fn 0 off len) s
    (reply fn (.certificate (((chain s).drop off).take len) ((chain s).length - off - len)) s)) ∧
  (∀ s fn slot off len, ready s fn 3 → slot ≠ 0 ∨ (chain s).length < off → Runs (.getCertificate fn slot off len) s
    (error fn .invalidRequest s)) ∧
  (∀ s fn all, ready s fn 3 → Runs (.challenge fn 0 all) s fun t => ∃ signature,
    reply fn (.challenge (if all then some (Config.sha384 ((rangeFrom 1 24).flatMap (measurement s))) else none) signature) s t) ∧
  (∀ s fn slot all, ready s fn 3 → slot ≠ 0 → Runs (.challenge fn slot all) s (error fn .invalidRequest s)) ∧
  (∀ s fn index signed blocks, ready s fn 3 → measured s index = some blocks → Runs (.getMeasurements fn index signed) s fun t =>
    ∃ signature : Option Nat, signature.isSome = signed ∧ reply fn (.measurements 24 blocks signature) s t) ∧
  (∀ s fn index signed, ready s fn 3 → 24 < index → index ≠ 0xFF → Runs (.getMeasurements fn index signed) s
    (error fn .invalidRequest s)) ∧
  ∀ s fn need i slot off len index id all signed offers, (need, i) ∈ [(1, Instr.getCapabilities fn), (2, .negotiateAlgorithms fn offers),
    (3, .getDigests fn), (3, .getCertificate fn slot off len), (3, .challenge fn slot all), (3, .getMeasurements fn index signed),
    (3, .keyExchange fn slot id)] → ready s fn 0 → spdmStage s fn < need → Runs i s (error fn .unexpectedRequest s)

/-- SPDM sessions: at most two for a function, established by FINISH, kept by messages, ended by END_SESSION or by silence. Choices of the
model that it rests on: log 50 and 51. -/
def Obligations.Sessions : Prop :=
  let ready (s : State) (fn : Nat) : Prop := doeReady s fn = true ∧ bootRunning s = true
  let reply (fn : Nat) (r : DoeReply) (s t : State) : Prop := t.out = s.out ++ [.doe fn r] ∧ RegsBut [] s t
  let error (fn : Nat) (e : SpdmError) (s t : State) : Prop :=
    t.out = s.out ++ [.doe fn (.error e)] ∧ Counted pgMb Off.MB_CNT_SPDM_ERRORS 1 s t ∧ t.sec = s.sec ∧
      RegsBut [pageBase pgMb + Off.MB_CNT_SPDM_ERRORS] s t
  let used (s : State) (fn id : Nat) : Prop := ∃ x ∈ s.sec.sessions, x.fn = fn ∧ x.id = id
  let changed (fn id : Nat) (f : Session → Session) (s t : State) : Prop :=
    t.sec.sessions = s.sec.sessions.map fun x => if x.fn = fn ∧ x.id = id then f x else x
  let heard (s : State) (x : Session) : Session := { x with last := tnow s }
  (∀ s fn id, ready s fn → 3 ≤ spdmStage s fn → ¬ used s fn id → (sessionsOf s fn).length < 2 → Runs (.keyExchange fn 0 id) s fun t =>
    reply fn (.keyExchange id 60) s t ∧ t.sec.sessions = s.sec.sessions ++ [⟨fn, id, false, tnow s⟩]) ∧
  (∀ s fn id, ready s fn → 3 ≤ spdmStage s fn → ¬ used s fn id → 2 ≤ (sessionsOf s fn).length →
    Runs (.keyExchange fn 0 id) s (error fn .sessionLimitExceeded s)) ∧
  (∀ s fn slot id, ready s fn → 3 ≤ spdmStage s fn → slot ≠ 0 ∨ used s fn id →
    Runs (.keyExchange fn slot id) s (error fn .invalidRequest s)) ∧
  (∀ s fn id x, ready s fn → x ∈ s.sec.sessions → x.fn = fn → x.id = id → x.open_ = false → Runs (.finish fn id) s fun t =>
    reply fn .finish s t ∧ changed fn id (fun x => { heard s x with open_ := true }) s t) ∧
  (∀ s fn id, ready s fn → (∀ x ∈ s.sec.sessions, x.fn = fn → x.id = id → x.open_ = true) →
    Runs (.finish fn id) s (error fn .unexpectedRequest s)) ∧
  (∀ s fn id, ready s fn → inSession s fn id = true → Runs (.heartbeat fn id) s fun t =>
    reply fn .heartbeat s t ∧ changed fn id (heard s) s t) ∧
  (∀ s fn id, ready s fn → inSession s fn id = true → Runs (.keyUpdate fn id) s fun t =>
    reply fn .keyUpdate s t ∧ changed fn id (heard s) s t) ∧
  (∀ s fn id, ready s fn → inSession s fn id = true → Runs (.endSession fn id) s fun t =>
    reply fn .endSession s t ∧ t.mem = s.mem ∧ t.sec.ide = s.sec.ide ∧
      t.sec.sessions = s.sec.sessions.filter fun x => !(x.fn == fn && x.id == id)) ∧
  (∀ s fn id, ready s fn → inSession s fn id = false →
    ∀ i ∈ [Instr.heartbeat fn id, .keyUpdate fn id, .endSession fn id, .slotQuery fn id], Runs i s (error fn .unexpectedRequest s)) ∧
  ∀ s fn id x, x ∈ s.sec.sessions → x.fn = fn → x.id = id → x.last + 120000000000 ≤ tnow s → Runs (.sessionTimeout fn id) s fun t =>
    t = { s with sec := { s.sec with sessions := s.sec.sessions.filter fun x => !(x.fn == fn && x.id == id) } }

/-- IDE: key sets are programmed, used and stopped for a stream and direction; a stream with a set in use in each direction is Secure, and the
mailbox page shows the streams and what they cover; a TDI whose stream leaves Secure enters ERROR. Choices of the model that it rests on:
log 51. -/
def Obligations.IdeStreams : Prop :=
  let asked (s : State) (id stream set dir : Nat) : Prop :=
    doeReady s 0 = true ∧ bootRunning s = true ∧ inSession s 0 id = true ∧ stream ≤ 16 ∧ set < 2 ∧ dir < 2
  let answers (r : DoeReply) (t : State) : Prop := t.out.getLast? = some (.doe 0 r)
  let others (stream : Nat) (s t : State) : Prop := ∀ n, n ≠ stream → ideOf t n = ideOf s n
  let shown (t : State) : Prop :=
    rd t pgMb Off.MB_IDE_STREAMS = BitVec.ofNat 32 (bitMap 17 fun n => (ideOf t n).secure) ∧
      rd t pgMb Off.MB_IDE_COVER = BitVec.ofNat 32 (coverOf t.sec.ide)
  let secure (t : State) (stream : Nat) : Prop :=
    (ideOf t stream).secure = true ↔ (∃ a ∈ (ideOf t stream).active, a % 2 = 0) ∧ ∃ a ∈ (ideOf t stream).active, a % 2 = 1
  let lost (stream : Nat) (s t : State) : Prop :=
    (ideOf t stream).secure = false → ∀ n, (n, stream) ∈ s.sec.tdiStream → tdiHeld s n = true → tdiState t n = 3
  let noted (s t : State) : Prop :=
    rd t pgMb Off.MB_IDE_STREAMS ≠ rd s pgMb Off.MB_IDE_STREAMS ∨ rd t pgMb Off.MB_IDE_COVER ≠ rd s pgMb Off.MB_IDE_COVER →
      Raised pgMb Evt.MB_IDE_CHANGED t
  (∀ s id, asked s id 0 0 0 → Runs (.ideKmQuery id) s fun t => t.out = s.out ++ [.doe 0 .ideQuery] ∧ RegsBut [] s t) ∧
  (∀ s id stream set dir, asked s id stream set dir → 2 * set + dir ∉ (ideOf s stream).active →
    Runs (.keyProg id stream set dir) s fun t =>
      answers (.keyProg true) t ∧ others stream s t ∧ (ideOf t stream).active = (ideOf s stream).active ∧
        (∀ k, k ∈ (ideOf t stream).keys ↔ k = 2 * set + dir ∨ k ∈ (ideOf s stream).keys) ∧ shown t) ∧
  (∀ s id stream set dir, asked s id stream set dir → 2 * set + dir ∈ (ideOf s stream).active →
    Runs (.keyProg id stream set dir) s fun t => t.out = s.out ++ [.doe 0 (.keyProg false)] ∧ t.sec.ide = s.sec.ide ∧ RegsBut [] s t) ∧
  (∀ s id stream set dir, asked s id stream set dir → 2 * set + dir ∈ (ideOf s stream).keys → Runs (.kSetGo id stream set dir) s fun t =>
    answers .setGo t ∧ others stream s t ∧ (ideOf t stream).keys = (ideOf s stream).keys ∧ secure t stream ∧ shown t ∧ noted s t ∧
      ∀ k, k ∈ (ideOf t stream).active ↔ k = 2 * set + dir ∨ (k ∈ (ideOf s stream).active ∧ k % 2 ≠ dir)) ∧
  (∀ s id stream set dir, asked s id stream set dir → Runs (.kSetStop id stream set dir) s fun t =>
    answers .setStop t ∧ others stream s t ∧ secure t stream ∧ shown t ∧ noted s t ∧ lost stream s t ∧
      (∀ k, k ∈ (ideOf t stream).active ↔ k ≠ 2 * set + dir ∧ k ∈ (ideOf s stream).active) ∧
      ∀ k, k ∈ (ideOf t stream).keys ↔ k ≠ 2 * set + dir ∧ k ∈ (ideOf s stream).keys) ∧
  ∀ s stream, (ideOf s stream).secure = true → s.boot.phase = .up → Runs (.integrityFailure stream) s fun t =>
    ideOf t stream = { ideOf s stream with secure := false, keys := [], active := [] } ∧ others stream s t ∧ shown t ∧ noted s t ∧
      lost stream s t

/-- TDISP: an interface under a secure TEE-Limited stream locks, runs, and stops; each request out of its state is answered with an error; the
PF accepts none. Choices of the model that it rests on: log 51. -/
def Obligations.Interfaces : Prop :=
  let asked (s : State) (t id : Nat) : Prop :=
    1 ≤ t ∧ t ≤ 15 ∧ doeReady s t = true ∧ bootRunning s = true ∧ inSession s t id = true
  let reply (t : Nat) (r : DoeReply) (s u : State) : Prop := u.out = s.out ++ [.doe t r] ∧ RegsBut [] s u
  let quietCtxs (s : State) (t : Nat) : Prop := ∀ c ∈ tenantCtxs s t, ctxState s c ≠ 2 ∧ ctxState s c ≠ 4
  let gone (s u : State) (t : Nat) : Prop :=
    tdiState u t = 0 ∧ t ∉ u.sec.stopping ∧ Raised pgMb Evt.MB_TDI_CHANGED u ∧ u.out = s.out ++ [.doe t .tdiStopped] ∧ u.hbm = s.hbm ∧
      ∀ n, n < s.part.stackCount → kittyLive s n = true → ∀ l ∈ kittyOf u n, l.tenant = t → l.locked = true
  let areas (s : State) (t : Nat) : List (Nat × Nat × Nat) :=
    (tenantCtxs s t).map fun c => (0, 0x400000 + 0x4000 * fieldOf (ctxOf s c).cfg 4 8, 0x4000)
  (∀ s t id, asked s t id → Runs (.getTdispVersion t id) s (reply t (.tdispVersion 1 0) s)) ∧
  (∀ s t id, asked s t id → Runs (.getTdispCapabilities t id) s (reply t .tdispCapabilities s)) ∧
  (∀ s t id, asked s t id → Runs (.getDeviceInterfaceState t id) s (reply t (.tdiState (tdiState s t)) s)) ∧
  (∀ s t id, asked s t id → tdiHeld s t = true → Runs (.getDeviceInterfaceReport t id) s
    (reply t (.tdiReport (areas s t ++ [(0, 0x200000, 0x100000), (4, 0, 1024), (4, 0x800, 8)]) (sget [] s.sec.tdiInfo t)) s)) ∧
  (∀ s t id, asked s t id → tdiHeld s t = false → Runs (.getDeviceInterfaceReport t id) s (reply t .tdispError s)) ∧
  (∀ s t id n, asked s t id → teeStream s t = some n → tdiState s t = 0 → quietCtxs s t → Runs (.lockInterfaceRequest t id) s fun u =>
    tdiState u t = 1 ∧ u.out = s.out ++ [.doe t .tdiLocked] ∧ Raised pgMb Evt.MB_TDI_CHANGED u ∧
      sget 0 u.sec.tdiStream t = n ∧ sget [] u.sec.tdiInfo t = digestBytes (Config.sha384 (deviceMode s ++ timeMode s)) ∧
      (∀ c ∈ tenantCtxs s t, c < 1024 → hhContext u c = false) ∧
      (∀ p, pageOf (pageBase p + Off.CTRL) = some (p, Off.CTRL) → flag s p Off.CTRL 2 = true → fld s p Off.CTRL 4 5 = 0 →
        excludedClass (classCode p.cls) = true → flag u p Off.CTRL 2 = false)) ∧
  (∀ s t id, asked s t id → teeStream s t = none ∨ tdiState s t ≠ 0 ∨ ¬ quietCtxs s t → Runs (.lockInterfaceRequest t id) s
    (reply t .tdispError s)) ∧
  (∀ s t id, asked s t id → tdiState s t = 1 → Runs (.startInterfaceRequest t id) s fun u =>
    tdiState u t = 2 ∧ u.out = s.out ++ [.doe t .tdiStarted] ∧ Raised pgMb Evt.MB_TDI_CHANGED u ∧
      RegsBut [pageBase pgMb + Off.MB_TDI_STATE, evtOf pgMb] s u) ∧
  (∀ s t id, asked s t id → tdiState s t ≠ 1 → Runs (.startInterfaceRequest t id) s (reply t .tdispError s)) ∧
  (∀ s t id, asked s t id → tdiState s t ≠ 0 → tenantCtxs s t = [] → Runs (.stopInterfaceRequest t id) s fun u => gone s u t) ∧
  (∀ s t id, asked s t id → tdiState s t ≠ 0 → tenantCtxs s t ≠ [] → Runs (.stopInterfaceRequest t id) s fun u =>
    tdiState u t = tdiState s t ∧ t ∈ u.sec.stopping ∧ ∀ c ∈ tenantCtxs s t, ctxState u c = 4) ∧
  (∀ s t id, asked s t id → tdiState s t = 0 → Runs (.stopInterfaceRequest t id) s (reply t .tdispError s)) ∧
  ∀ s id, doeReady s 0 = true → bootRunning s = true →
    ∀ i ∈ [Instr.getTdispVersion 0 id, .getTdispCapabilities 0 id, .getDeviceInterfaceState 0 id, .getDeviceInterfaceReport 0 id,
      .lockInterfaceRequest 0 id, .startInterfaceRequest 0 id, .stopInterfaceRequest 0 id], Runs i s fun u =>
        u.out = s.out ++ [.doe 0 (.error .unsupportedRequest)] ∧ Counted pgMb Off.MB_CNT_SPDM_ERRORS 1 s u ∧ u.sec = s.sec

/-- Key slots, whose commands start while the mailbox page's ENABLE is 1, expert grants, the ring's policy, fixed-deal mode. Choices of the
model that it rests on: log 44 and 51. -/
def Obligations.KeysAndGrants : Prop :=
  let mb (off : Nat) : Nat := pageBase pgMb + off
  let asked (s : State) (t id : Nat) : Prop := doeReady s t = true ∧ bootRunning s = true ∧ inSession s t id = true
  let others (k : Nat) (s u : State) : Prop := ∀ n, n ≠ k → keyOf u n = keyOf s n
  let padded (key : List Byte) : List Byte := (key ++ List.replicate 64 0).take 64
  let cmd (s : State) : Prop :=
    Admitted s .pf pgMb Off.MB_KEY_CMD ∧ deviceFatal s = false ∧ flag s pgMb Off.MB_KEY_CMD 31 = false ∧ flag s pgMb Off.CTRL 0 = true
  let result (code k : Nat) (u : State) : Prop :=
    rd u pgMb Off.MB_KEY_RESULT = BitVec.ofNat 32 (code + 256 * k) ∧ flag u pgMb Off.MB_KEY_CMD 31 = false
  let grant (k : Nat) : Nat := Off.MB_EXPERT_PF + 4 * k
  let real (p : Page) : Prop := pageOf (pageBase p + Off.CTRL) = some (p, Off.CTRL)
  (∀ s t id k kind reserved key, asked s t id → deliverStatus s t k kind (padded key) reserved = 0 →
    Runs (.keyDeliver t id k kind reserved key) s fun u =>
      u.out = s.out ++ [.doe t (.keyStatus 0)] ∧ others k s u ∧ Raised pgMb Evt.MB_KEY_CHANGED u ∧
        keyOf u k = { keyOf s k with st := 2, key := if kind = 0 then padded key else (padded key).take 32 } ∧
        Counted pgMb Off.MB_CNT_KEY_DELIVERED 1 s u ∧ RegsBut [mb Off.MB_CNT_KEY_DELIVERED, evtOf pgMb] s u) ∧
  (∀ s t id k kind reserved key, asked s t id → deliverStatus s t k kind (padded key) reserved ≠ 0 →
    Runs (.keyDeliver t id k kind reserved key) s fun u =>
      u.out = s.out ++ [.doe t (.keyStatus (deliverStatus s t k kind (padded key) reserved))] ∧ u.mem = s.mem ∧ RegsBut [] s u) ∧
  (∀ s t id k, asked s t id → keyAssigned s k t = true → keyNamed s k = false → Runs (.keyErase t id k false) s fun u =>
    u.out = s.out ++ [.doe t (.keyStatus 0)] ∧ keyOf u k = { keyOf s k with st := 3, key := [] } ∧ others k s u ∧
      Raised pgMb Evt.MB_KEY_CHANGED u ∧ RegsBut [evtOf pgMb] s u) ∧
  (∀ s t id k reserved, asked s t id → reserved = true ∨ keyAssigned s k t = false ∨ keyNamed s k = true →
    Runs (.keyErase t id k reserved) s fun u => u.mem = s.mem ∧ RegsBut [] s u ∧
      u.out = s.out ++ [.doe t (.keyStatus (if reserved then 5 else if keyAssigned s k t = false then 1 else 3))]) ∧
  (∀ s t id, asked s t id → Runs (.slotQuery t id) s fun u => ∃ l, u.out = s.out ++ [.doe t (.slots l)] ∧ u.mem = s.mem ∧
    ∀ k kind st, (k, kind, st) ∈ l ↔ ∃ e, (k, e) ∈ s.mem.keys ∧ k ≠ 0 ∧ e.st = st + 1 ∧ e.kind = kind ∧ e.tenant = t) ∧
  (∀ s k t kind, cmd s → k < 256 → t < 16 → kind < 2 → keyCheck s 1 k t = 0 → Runs (.assign .pf k t kind) s fun u =>
    keyOf u k = ⟨1, t, kind, []⟩ ∧ others k s u ∧ result 0 k u ∧ Raised pgMb Evt.MB_KEY_CHANGED u ∧
      RegsBut [mb Off.MB_KEY_CMD, mb Off.MB_KEY_RESULT, evtOf pgMb, hhLost] s u) ∧
  (∀ s k, cmd s → k < 256 → keyCheck s 2 k 0 = 0 → Runs (.retire .pf k) s fun u =>
    keyOf u k = { keyOf s k with st := 3, key := [] } ∧ others k s u ∧ flag u pgMb Off.MB_KEY_CMD 31 = true ∧
      Raised pgMb Evt.MB_KEY_CHANGED u ∧ RegsBut [mb Off.MB_KEY_CMD, evtOf pgMb, hhLost] s u) ∧
  (∀ s k t kind op i, k < 256 → t < 16 → kind < 2 → (op, i) ∈ [(1, Instr.assign .pf k t kind), (2, .retire .pf k)] → cmd s →
    let code := keyCheck s op k (if op = 1 then t else 0)
    code ≠ 0 → Runs i s fun u =>
      result code k u ∧ u.mem = s.mem ∧ (code = 5 → Counted pgMb Off.MB_CNT_TDI_REFUSED 1 s u ∧ Counted pgMb Off.MB_CNT_CMD_REFUSED 1 s u)) ∧
  (∀ s k t kind, Admitted s .pf pgMb Off.MB_KEY_CMD → deviceFatal s = false → flag s pgMb Off.MB_KEY_CMD 31 = true →
    ∀ i ∈ [Instr.assign .pf k t kind, .retire .pf k], Runs i s fun u =>
      u.mem = s.mem ∧ Counted pgMb Off.MB_CNT_CMD_REFUSED 1 s u ∧ RegsBut [mb Off.MB_CNT_CMD_REFUSED, hhLost] s u) ∧
  (∀ s k t kind, Admitted s .pf pgMb Off.MB_KEY_CMD → deviceFatal s = false → flag s pgMb Off.MB_KEY_CMD 31 = false →
    flag s pgMb Off.CTRL 0 = false → ∀ i ∈ [Instr.assign .pf k t kind, .retire .pf k], Runs i s fun u =>
      u.mem = s.mem ∧ flag u pgMb Off.MB_KEY_CMD 31 = false ∧ RegsBut [mb Off.MB_KEY_CMD, hhLost] s u) ∧
  (∀ s k, (keyOf s k).st = 3 → Runs (.erasureConfirmed k) s fun u =>
    keyOf u k = ⟨0, 0, 0, []⟩ ∧ others k s u ∧ Raised pgMb Evt.MB_KEY_CHANGED u ∧
      (flag s pgMb Off.MB_KEY_CMD 31 = true → fld s pgMb Off.MB_KEY_CMD 0 4 = 2 → fld s pgMb Off.MB_KEY_CMD 4 8 = k → result 0 k u)) ∧
  (∀ s k v, k < 4 → Admitted s .pf pgMb (grant k) → Runs (.expertGrantWrite .pf k v) s fun u =>
    rd u pgMb (grant k) = v ∧
      ∀ p, real p → flag s p Off.CTRL 2 = true → fld s p Off.CTRL 4 5 = 0 → classCode p.cls / 32 = k →
        flag u p Off.CTRL 2 = bitOf v (classCode p.cls % 32)) ∧
  (∀ s v, Admitted s .pf pgMb Off.MB_EXPERT_VF → Runs (.expertGrantWrite .pf 4 v) s fun u =>
    (∀ t, 1 ≤ t → t ≤ 15 →
      flag u pgMb Off.MB_EXPERT_VF t = if tdiHeld s t then flag s pgMb Off.MB_EXPERT_VF t else bitOf v t) ∧
      ((∃ t, 1 ≤ t ∧ t ≤ 15 ∧ tdiHeld s t = true ∧ bitOf v t ≠ flag s pgMb Off.MB_EXPERT_VF t) →
        Counted pgMb Off.MB_CNT_TDI_REFUSED 1 s u ∧ Counted pgMb Off.MB_CNT_CMD_REFUSED 1 s u) ∧
      ∀ c t, c < 1024 → 1 ≤ t → t ≤ 15 → flag s (pgCtx c) Off.CTRL 2 = true → fld s (pgCtx c) Off.CTRL 4 5 = t →
        flag u (pgCtx c) Off.CTRL 2 = flag u pgMb Off.MB_EXPERT_VF t) ∧
  (∀ s v, Admitted s .pf pgMb Off.MB_RING_POLICY → Runs (.deny .pf v) s fun u =>
    flag u pgMb Off.MB_RING_POLICY 1 = true ∧ flag u pgMb Off.MB_RING_POLICY 0 = false ∧
      fld u pgMb Off.MB_RING_POLICY 8 8 = fieldOf v 8 8 ∧ fld u pgMb Off.MB_RING_POLICY 16 16 = fieldOf v 16 16 ∧
      RegsBut [mb Off.MB_RING_POLICY, hhLost] s u) ∧
  (∀ s v, Admitted s .pf pgMb Off.MB_FD_CTRL → 64 ≤ fieldOf v 4 12 → fieldOf v 16 12 < fieldOf v 4 12 →
    (bitOf v 0 = true → fdOn s = true ∨ anyContext s = false) → Runs (.fixedDealEnable .pf v) s fun u =>
      fdOn u = bitOf v 0 ∧ fld u pgMb Off.MB_FD_CTRL 4 12 = fieldOf v 4 12 ∧ fld u pgMb Off.MB_FD_CTRL 16 12 = fieldOf v 16 12 ∧
        (bitOf v 0 = true → fdOn s = false → u.sec.fdBeat = beatNo s) ∧ RegsBut [mb Off.MB_FD_CTRL, hhLost] s u) ∧
  (∀ s v, Admitted s .pf pgMb Off.MB_FD_CTRL → fieldOf v 4 12 < 64 ∨ fieldOf v 4 12 ≤ fieldOf v 16 12 ∨
    (bitOf v 0 = true ∧ fdOn s = false ∧ anyContext s = true) → Runs (.fixedDealEnable .pf v) s fun u =>
      Counted pgMb Off.MB_CNT_CMD_REFUSED 1 s u ∧ RegsBut [mb Off.MB_CNT_CMD_REFUSED, hhLost] s u) ∧
  ∀ s k t kind v off i, (off, i) ∈ [(Off.MB_KEY_CMD, Instr.assign .mgmt k t kind), (Off.MB_KEY_CMD, .retire .mgmt k),
    (Off.MB_EXPERT_VF, .expertGrantWrite .mgmt 4 v), (Off.MB_RING_POLICY, .deny .mgmt v), (Off.MB_FD_CTRL, .fixedDealEnable .mgmt v)] →
    Admitted s .mgmt pgMb off → Runs i s fun u => u.mem = s.mem ∧ u.sec = s.sec ∧ RegsBut [hhLost] s u

/-! ## The table -/

/-- Frames received: what is turned away and how it is counted; membership from HELLO and LEAVE, a duplicate seat, bids at the dealer, awards.
Choices of the model that it rests on: log 52. -/
def Obligations.TableFrames : Prop :=
  let port (f : Frame) : Page := pgFab (f.port % 2)
  let key (f : Frame) : Nat := 4 * frameSrc f + frameCls f
  let seq (f : Frame) : Nat := numAt f.header 0xC 4
  let arrives (s : State) (f : Frame) : Prop :=
    pageOn s (port f) = true ∧ enabled s (port f) = true ∧ flag s (port f) Off.FAB_STATUS 0 = true ∧ hhMode s ≠ 2 ∧
      s.hh.injecting = false ∧ f.pause = false
  let whole (s : State) (f : Frame) : Prop :=
    arrives s f ∧ f.fcsOk = true ∧ macKey s (frameSlot s 0) = true ∧ flag s (pgFab 0) Off.TBL_SEAT 16 = true
  let good (s : State) (f : Frame) : Prop :=
    whole s f ∧ frameSecure s f = true ∧ frameForeign s f = false ∧ seq f ∉ sget [] s.tbl.recent (key f)
  let taken (s : State) (f : Frame) (type : Nat) : Prop :=
    good s f ∧ frameType f = type ∧ (bitAt (numAt f.header 4 2) 15 = true ∨ numAt f.header 4 2 % 512 = mySeat s)
  let came (s : State) (f : Frame) (u : State) : Prop :=
    Counted (port f) Off.FAB_CNT_RX_FRAMES 1 s u ∧ sget [] u.tbl.recent (key f) = (seq f :: sget [] s.tbl.recent (key f)).take 64
  let commands (f : Frame) : List Instr :=
    [.hello f, .leave f, .bid f, .award f, .fetchReq f, .fetchData f, .fetchErr f, .lendReq f, .lendOffer f, .lendAccept f, .lendData f,
      .lendEnd f, .service f]
  let rx (f : Frame) : Nat := pageBase (port f) + Off.FAB_CNT_RX_FRAMES
  let counted (f : Frame) (off : Nat) (regs : List Nat) (s u : State) : Prop :=
    Counted (port f) off 1 s u ∧ u.tbl = s.tbl ∧ u.out = s.out ∧ RegsBut ((pageBase (port f) + off) :: regs) s u
  let matching (s : State) (a b : Nat) : Bool := a == b || decide (natDist a b < matchTicks s)
  let kept (s : State) : List Round := s.tbl.rounds.filter fun r => decide (beatTime s < r.stop + matchTicks s) || r.award.isNone
  let mine (r x : Round) : Bool := x.speech == r.speech && x.start == r.start
  let speech (f : Frame) : Nat := numAt f.payload 0 8
  let dealing (s : State) : Prop := tblJoined s = true ∧ dealer s = some (mySeat s)
  (∀ s f, ∀ i ∈ commands f, pageOn s (port f) = true → enabled s (port f) = true → flag s (port f) Off.FAB_STATUS 0 = true →
    hhMode s ≠ 2 → s.hh.injecting = false → f.pause = true → Runs i s (counted f Off.FAB_CNT_PAUSE_RX [] s)) ∧
  (∀ s f, ∀ i ∈ commands f, arrives s f → f.fcsOk = false → Runs i s (counted f Off.FAB_CNT_FCS [] s)) ∧
  (∀ s f, ∀ i ∈ commands f, whole s f → frameSecure s f = false → Runs i s fun u =>
    counted f Off.FAB_CNT_ICV (rx f :: evtOf (port f) :: recordRegs) s u ∧ Raised (port f) Evt.FAB_ICV_FAIL u ∧ Recorded 0xE 1 1 92 u) ∧
  (∀ s f, ∀ i ∈ commands f, whole s f → frameSecure s f = true → frameForeign s f = true →
    Runs i s (counted f Off.FAB_CNT_FOREIGN [rx f] s)) ∧
  (∀ s f, ∀ i ∈ commands f, whole s f → frameSecure s f = true → frameForeign s f = false → seq f ∈ sget [] s.tbl.recent (key f) →
    Runs i s (counted f Off.FAB_CNT_DUP [rx f] s)) ∧
  (∀ s f, taken s f 1 → frameSrc f ≠ mySeat s → Runs (.hello f) s fun u =>
    came s f u ∧ tblMember u (frameSrc f) = true ∧ (∀ d, d < 512 → d ≠ frameSrc f → tblMember u d = tblMember s d) ∧
      sget (0, 0) u.tbl.heard (2 * frameSrc f + f.port % 2) = (f.mac, s.tt.beats) ∧
      sget (0, 0) u.tbl.info (frameSrc f) = (numAt f.payload 0x11 1, numAt f.payload 0x14 1) ∧
      (tblMember s (frameSrc f) = false →
        Counted (pgFab 0) Off.TBL_CNT_JOINS 1 s u ∧ Raised (pgFab 0) Evt.FAB_MEMBER_CHANGE u)) ∧
  (∀ s f, taken s f 1 → frameSrc f = mySeat s → numAt f.payload 0 16 < s.part.serial → Runs (.hello f) s fun u =>
    came s f u ∧ tblDup u = true ∧ tblMember u (mySeat s) = false ∧ Raised (pgFab 0) Evt.FAB_DUP_SEAT u ∧ Recorded 0xE 3 1 92 u) ∧
  (∀ s f, taken s f 1 → frameSrc f = mySeat s → s.part.serial ≤ numAt f.payload 0 16 → Runs (.hello f) s fun u =>
    came s f u ∧ RegsBut [rx f, hhLost] s u) ∧
  (∀ s f, taken s f 2 → frameSrc f ≠ mySeat s → Runs (.leave f) s fun u =>
    came s f u ∧ tblMember u (frameSrc f) = false ∧ (∀ d, d < 512 → d ≠ frameSrc f → tblMember u d = tblMember s d) ∧
      (∀ l ∈ u.tbl.lends, l.seat ≠ frameSrc f) ∧ (∀ g ∈ u.tbl.fetches, g.seat ≠ frameSrc f) ∧
      (∀ g ∈ s.tbl.fetches, ∀ q x, g.seat = frameSrc f → g.queue = some q → xferOf s q g.xfer = some x → (queueOf s q).state ≠ 4 →
        (queueOf s q).stopping = false → (queueOf u q).state = 4 ∧ (queueOf u q).cause = 0xD) ∧
      (tblMember s (frameSrc f) = true →
        Counted (pgFab 0) Off.TBL_CNT_DEPARTS 1 s u ∧ Raised (pgFab 0) Evt.FAB_MEMBER_CHANGE u)) ∧
  (∀ s f, taken s f 0x10 → dealing s → roundFor s (speech f) = none → Runs (.bid f) s fun u =>
    came s f u ∧ u.tbl.rounds = kept s ++ [⟨speech f, beatTime s, beatTime s + msTicks (fld s (pgFab 0) Off.TBL_BID 0 8),
      [(frameSrc f, bidScore f.payload)], [], none⟩] ∧ RegsBut [rx f, hhLost] s u) ∧
  (∀ s f r, taken s f 0x10 → dealing s → roundFor s (speech f) = some r → beatTime s < r.stop → Runs (.bid f) s fun u =>
    came s f u ∧ u.tbl.rounds = updFirst (mine r) (fun x =>
      { x with bids := (x.bids.filter fun b => b.1 != frameSrc f) ++ [(frameSrc f, bidScore f.payload)] }) (kept s) ∧
      RegsBut [rx f, hhLost] s u) ∧
  (∀ s f r, taken s f 0x10 → dealing s → roundFor s (speech f) = some r → r.stop ≤ beatTime s → Runs (.bid f) s fun u =>
    came s f u ∧ Counted (pgFab 0) Off.TBL_CNT_LATE_BIDS 1 s u ∧
      (r.award = none → u.tbl.rounds = updFirst (mine r) (fun x => { x with late := x.late ++ [frameSrc f] }) (kept s) ∧ u.out = s.out) ∧
      (∀ a, r.award = some a → frameSrc f ≠ mySeat s → portLive s (portFor s (frameSrc f)) 0 = true → u.tbl.rounds = kept s ∧
        u.out = s.out ++ [.tableFrame (portFor s (frameSrc f)) (wireOf s (portFor s (frameSrc f)) (some (frameSrc f)) 1 0)
          (frameHeader s 0x11 (frameSrc f) false 1 0 a.length ++ a)])) ∧
  (∀ s f, taken s f 0x11 → (∀ a ∈ s.tbl.awards, matching s a.1 (speech f) = true → frameSrc f ≤ a.2) → Runs (.award f) s fun u =>
    came s f u ∧ tblButton u = numAt f.payload 0xA 2 % 512 ∧ Raised (pgFab 0) Evt.FAB_AWARD u ∧ (speech f, frameSrc f) ∈ u.tbl.awards ∧
      u.tbl.bids = (s.tbl.bids.filter fun b => !matching s b.1 (speech f)) ∧ u.tbl.rounds = s.tbl.rounds ∧
      (numAt f.payload 8 2 = mySeat s → awake s = true → 2 ≤ pwrState s → flag u pgPower Off.PWR_WAKE_CAUSE 6 = true) ∧
      (svcOn s = true → ringUsed (rd s (pgFab 0) Off.TBL_SVC_RX_TAIL).toNat (rd s (pgFab 0) Off.TBL_SVC_RX_HEAD).toNat < svcRx s →
        rd u (pgFab 0) Off.TBL_SVC_RX_TAIL = rd s (pgFab 0) Off.TBL_SVC_RX_TAIL + 1)) ∧
  ∀ s f, taken s f 0x11 → (∃ a ∈ s.tbl.awards, matching s a.1 (speech f) = true ∧ a.2 < frameSrc f) → Runs (.award f) s fun u =>
    came s f u ∧ u.tbl.awards = s.tbl.awards ∧ u.tbl.bids = s.tbl.bids ∧ RegsBut [rx f, hhLost] s u

/-- Peer fetches and lending: a request is served from the kitty or refused, a response ends the fetch, silence repeats it once; the lending
frames make, answer, start and end sessions and go to the service's ring. Choices of the model that it rests on: log 53. -/
def Obligations.FetchesAndLending : Prop :=
  let port (f : Frame) : Page := pgFab (f.port % 2)
  let seq (f : Frame) : Nat := numAt f.header 0xC 4
  let taken (s : State) (f : Frame) (type : Nat) : Prop :=
    pageOn s (port f) = true ∧ enabled s (port f) = true ∧ flag s (port f) Off.FAB_STATUS 0 = true ∧ hhMode s ≠ 2 ∧
      s.hh.injecting = false ∧ f.pause = false ∧ f.fcsOk = true ∧ macKey s (frameSlot s 0) = true ∧
      flag s (pgFab 0) Off.TBL_SEAT 16 = true ∧ frameSecure s f = true ∧ frameForeign s f = false ∧
      seq f ∉ sget [] s.tbl.recent (4 * frameSrc f + frameCls f) ∧ frameType f = type ∧
      (bitAt (numAt f.header 4 2) 15 = true ∨ numAt f.header 4 2 % 512 = mySeat s)
  let rx (f : Frame) : Nat := pageBase (port f) + Off.FAB_CNT_RX_FRAMES
  let addr (f : Frame) : Nat := numAt f.payload 0 8 % 2 ^ 48
  let tenant (f : Frame) : Nat := numAt f.payload 8 1
  let home (f : Frame) : Home := ⟨none, addr f / 4096 * 4096⟩
  let out (s u : State) (f : Frame) (type : Nat) (payload : List Byte) : Prop :=
    tblJoined s = true → portLive s (portFor s (frameSrc f)) (tenant f) = true → u.out = s.out ++ [.tableFrame (portFor s (frameSrc f))
      (wireOf s (portFor s (frameSrc f)) (some (frameSrc f)) 0 (tenant f)) (frameHeader s type (frameSrc f) false 0 (frameCorr f) payload.length ++ payload)]
  let idle (s : State) : Prop :=
    svcOn s = false ∨ rd s (pgFab 0) Off.TBL_SVC_TX_HEAD = rd s (pgFab 0) Off.TBL_SVC_TX_TAIL
  let room (s : State) : Prop :=
    ringUsed (rd s (pgFab 0) Off.TBL_SVC_RX_TAIL).toNat (rd s (pgFab 0) Off.TBL_SVC_RX_HEAD).toNat < svcRx s
  let faults (s u : State) (q cause : Nat) : Prop :=
    (queueOf s q).state ≠ 4 → (queueOf s q).stopping = false → (queueOf u q).state = 4 ∧ (queueOf u q).cause = cause
  let session (f : Frame) : Nat := numAt f.payload 0 4
  let lender (f : Frame) (l : Lend) : Bool := l.lender && l.seat == frameSrc f && l.session == session f
  let credits (s u : State) (f : Frame) : Prop :=
    u.tbl.fetches = s.tbl.fetches.filter fun g => !(g.queue.isNone && g.seat == frameSrc f && g.corr == frameCorr f)
  (∀ s f, taken s f 0x20 → tblMember s (frameSrc f) = false ∨ (keyOf s f.slot).tenant ≠ tenant f → Runs (.fetchReq f) s fun u =>
    Counted (pgFab 0) Off.TBL_CNT_FETCH_REFUSED 1 s u ∧ u.out = s.out ∧
      RegsBut [rx f, pageBase (pgFab 0) + Off.TBL_CNT_FETCH_REFUSED, hhLost] s u) ∧
  (∀ s f, taken s f 0x20 → tblMember s (frameSrc f) = true → (keyOf s f.slot).tenant = tenant f → exported s (addr f) (tenant f) = false →
    Runs (.fetchReq f) s fun u => Counted (pgFab 0) Off.TBL_CNT_FETCH_REFUSED 1 s u ∧ u.mem = s.mem ∧
      out s u f 0x22 (f.payload.take 8 ++ leBytes 1 1 ++ leBytes 3 0)) ∧
  (∀ s f l, taken s f 0x20 → tblMember s (frameSrc f) = true → (keyOf s f.slot).tenant = tenant f → exported s (addr f) (tenant f) = true →
    kittyLive s (mdOf s (home f)) = true → fdGrants s (tenant f) = true → memAllows s (.table (tenant f)) (home f) false = true →
    (kittyOf s (mdOf s (home f))).find? (lineServes (home f) (tenant f)) = some l → l.locked = false → Runs (.fetchReq f) s fun u =>
      Counted (pgFab 0) Off.TBL_CNT_FETCH_SERVED 1 s u ∧
        out s u f 0x21 (meldEncode (homeCodecs s (home f)) (numAt f.payload 9 1) (addr f / 4096) l.data).1) ∧
  (∀ s f g q x, taken s f 0x21 → fetchFor s f = some g → g.queue = some q → xferOf s q g.xfer = some x → Runs (.fetchData f) s fun u =>
    g ∉ u.tbl.fetches ∧ ∀ y ∈ (queueOf u q).flight, y.id = g.xfer → y.sent = true) ∧
  (∀ s f g q x, taken s f 0x22 → idle s → fetchFor s f = some g → g.queue = some q → xferOf s q g.xfer = some x →
    Runs (.fetchErr f) s fun u =>
      faults s u q (if numAt f.payload 8 1 = 2 then 7 else 6) ∧ (queueOf u q).flight = ((queueOf s q).flight.filter fun y => y.id != x.id) ∧
        ∀ h ∈ u.tbl.fetches, h.corr ≠ g.corr ∨ h.seat ≠ g.seat) ∧
  (∀ s corr g q x, s.tbl.fetches.find? (fun g => g.corr == corr && elapsed s g.start g.ticks) = some g → g.again = false →
    g.queue = some q → xferOf s q g.xfer = some x → Runs (.fetchTimeout corr) s fun u =>
      Counted (pgFab 0) Off.TBL_CNT_FETCH_TIMEOUT 1 s u ∧ u.queues = s.queues ∧
        u.tbl.fetches = s.tbl.fetches.map (fun y =>
          if y = g then { y with again := true, start := s.tt.beats, port := 1 - g.port } else y) ∧
        (tblJoined s = false → u.out = s.out) ∧
        (tblJoined s = true → portLive s (1 - g.port) (ctxTenant s (queueCtx q)) = true → hhMode s ≠ 2 → u.out = s.out ++ [.tableFrame (1 - g.port)
          (wireOf s (1 - g.port) (some g.seat) (if g.c3 then 3 else 2) (ctxTenant s (queueCtx q)))
          (frameHeader s 0x20 g.seat false (if g.c3 then 3 else 2) g.corr 16 ++
            fetchPayload x.addr (ctxTenant s (queueCtx q)) (descOf x.desc).key)])) ∧
  (∀ s corr g q x, s.tbl.fetches.find? (fun g => g.corr == corr && elapsed s g.start g.ticks) = some g → g.again = true → idle s →
    g.queue = some q → xferOf s q g.xfer = some x → Runs (.fetchTimeout corr) s fun u =>
      Counted (pgFab 0) Off.TBL_CNT_FETCH_TIMEOUT 1 s u ∧ faults s u q 0xD ∧ ∀ h ∈ u.tbl.fetches, h.corr ≠ g.corr ∨ h.seat ≠ g.seat) ∧
  (∀ s f type i, (type, i) ∈ [(0x30, Instr.lendReq f), (0x31, .lendOffer f), (0x32, .lendAccept f), (0x33, .lendData f), (0x34, .lendEnd f),
    (0x40, .service f)] → taken s f type → idle s → Runs i s fun u =>
      credits s u f ∧ (svcOn s = true → room s → rd u (pgFab 0) Off.TBL_SVC_RX_TAIL = rd s (pgFab 0) Off.TBL_SVC_RX_TAIL + 1) ∧
        (svcOn s = true → ¬ room s → Counted (port f) Off.FAB_CNT_C1_DROP 1 s u ∧
          rd u (pgFab 0) Off.TBL_SVC_RX_TAIL = rd s (pgFab 0) Off.TBL_SVC_RX_TAIL)) ∧
  (∀ s f, taken s f 0x30 → idle s → Runs (.lendReq f) s fun u =>
    u.tbl.lends = (s.tbl.lends.filter fun l => !lender f l) ++
      [⟨frameSrc f, session f, true, false, numAt f.payload 8 48, s.tt.beats, []⟩]) ∧
  (∀ s f, taken s f 0x31 → idle s → Runs (.lendOffer f) s fun u =>
    u.tbl.lends = updFirst (fun l => !l.lender && !l.live && l.session == session f &&
        !elapsed s l.sent (msTicks (fld s (pgFab 0) Off.TBL_BID 0 8)))
      (fun l => { l with offers := l.offers ++ [(frameSrc f, numAt f.payload 4 1)] }) s.tbl.lends) ∧
  (∀ s f l, taken s f 0x32 → idle s → lendOf s true (frameSrc f) (session f) = some l → Runs (.lendAccept f) s fun u =>
    u.tbl.lends = updFirst (lender f) (fun l => { l with live := true }) s.tbl.lends ∧ Counted (pgFab 0) Off.TBL_CNT_LENDS 1 s u ∧
      (awake s = true → 2 ≤ pwrState s → flag u pgPower Off.PWR_WAKE_CAUSE 6 = true)) ∧
  (∀ s f, taken s f 0x32 → idle s → lendOf s true (frameSrc f) (session f) = none → Runs (.lendAccept f) s fun u =>
    u.tbl.lends = s.tbl.lends) ∧
  (∀ s f, taken s f 0x34 → idle s → Runs (.lendEnd f) s fun u =>
    u.tbl.lends = s.tbl.lends.filter fun l => !(l.seat == frameSrc f && l.session == session f)) ∧
  ∀ s f type i, (type, i) ∈ [(0x33, Instr.lendData f), (0x40, .service f)] → taken s f type → idle s → Runs i s fun u =>
    u.tbl.lends = s.tbl.lends

/-- The table's own events: HELLOs, membership that times out, the dealer's decision, an award that does not come, joining and leaving, the
service's transmit ring, gPTP messages, a link that changes. Choices of the model that it rests on: log 52. -/
def Obligations.TableEvents : Prop :=
  let fab (off : Nat) : Nat := pageBase (pgFab 0) + off
  let helloDue (s : State) : Prop :=
    let period := msTicks (fld s (pgFab 0) Off.TBL_TIMING 0 10)
    (beatTime s + period - 1) / period * period < beatTime s + 64 ∧ s.tbl.helloAt ≠ some (beatNo s)
  let hello (s : State) (free : Nat) : List Byte :=
    let flags := ofBool (flag s (pgFab 0) Off.TBL_SEAT 17) + 2 * ofBool (flag s (pgFab 0) Off.TBL_SEAT 18) +
      4 * ofBool (flag s (pgFab 0) Off.TBL_SYNC 0)
    leBytes 16 s.part.serial ++ leBytes 1 (pwrState s) ++ leBytes 1 flags ++ leBytes 2 (tblButton s) ++ leBytes 1 (Nat.min 64 free) ++
      leBytes 3 0
  let live (s : State) : Prop := portLive s 0 0 = true ∧ portLive s 1 0 = true ∧ hhMode s ≠ 2
  let group (s : State) (type : Nat) (payload : List Byte) : List Out :=
    let bytes := frameHeader s type 0 true 1 0 payload.length ++ payload
    [.tableFrame 0 (wireOf s 0 none 1 0) bytes, .tableFrame 1 (wireOf s 1 none 1 0) bytes]
  let awardOf (s : State) (r : Round) : List Byte :=
    let w := roundWinner (tblButton s) r.bids
    leBytes 8 r.speech ++ leBytes 2 w.1 ++ leBytes 2 w.2.1 ++ leBytes 2 r.bids.length ++ leBytes 2 0 ++ leBytes 4 w.2.2
  let stamped (port : Nat) (m : Gptp) (s t : State) : Prop :=
    ∃ x, beatTime s ≤ x ∧ x < beatTime s + 64 ∧ sget 0 t.tbl.syncs (8 * port + gptpKind m) = x
  (∀ s free, tblJoined s = true → helloDue s → live s → Runs (.helloTimer free) s fun t =>
    t.out = s.out ++ group s 1 (hello s free) ∧ t.tbl.helloAt = some (beatNo s) ∧
      sget 0 t.tbl.seqs 1 = (sget 0 s.tbl.seqs 1 + 1) % 2 ^ 32 ∧ Counted (pgFab 0) Off.FAB_CNT_TX_FRAMES 1 s t ∧
      Counted (pgFab 1) Off.FAB_CNT_TX_FRAMES 1 s t) ∧
  (∀ s d, d < 512 → pageOn s (pgFab 0) = true → tblMember s d = true → d ≠ mySeat s → portHeard s 0 d = false → portHeard s 1 d = false →
    Runs (.membershipTimeout d) s fun t =>
      tblMember t d = false ∧ (∀ e, e < 512 → e ≠ d → tblMember t e = tblMember s e) ∧ Counted (pgFab 0) Off.TBL_CNT_DEPARTS 1 s t ∧
        Raised (pgFab 0) Evt.FAB_MEMBER_CHANGE t ∧ (∀ l ∈ t.tbl.lends, l.seat ≠ d) ∧ ∀ g ∈ t.tbl.fetches, g.seat ≠ d) ∧
  (∀ s r, tblJoined s = true → dealer s = some (mySeat s) →
    s.tbl.rounds.find? (fun r => r.award.isNone && decide (r.stop ≤ beatTime s)) = some r → Runs .roundDecision s fun t =>
      t.tbl.rounds = updFirst (fun x => x.speech == r.speech && x.start == r.start) (fun x => { x with award := some (awardOf s r) })
        s.tbl.rounds ∧ Counted (pgFab 0) Off.TBL_CNT_ROUNDS 1 s t ∧ tblButton t = (roundWinner (tblButton s) r.bids).2.1 % 512 ∧
        (∀ d, d ≠ mySeat s → (r.bids.map (·.1)) ++ r.late = [d] → portLive s (portFor s d) 0 = true → hhMode s ≠ 2 →
          t.out = s.out ++ [.tableFrame (portFor s d) (wireOf s (portFor s d) (some d) 1 0) (frameHeader s 0x11 d false 1 0 20 ++ awardOf s r)])) ∧
  (∀ s b, s.tbl.bids.find? (fun b => elapsed s b.2.1 (msTicks (fld s (pgFab 0) Off.TBL_BID 8 8))) = some b →
    pageOn s (pgFab 0) = true → Runs .awardTimeout s fun t =>
      t.tbl.bids = s.tbl.bids.filter (fun x => x != b) ∧ Counted (pgFab 0) Off.TBL_CNT_AWARD_TIMEOUT 1 s t ∧
        Raised (pgFab 0) Evt.FAB_AWARD_TIMEOUT t ∧ (awake s = true → 2 ≤ pwrState s → flag t pgPower Off.PWR_WAKE_CAUSE 6 = true)) ∧
  (∀ s w v, Admitted s w (pgFab 0) Off.TBL_SEAT → flag s (pgFab 0) Off.TBL_SEAT 16 = false → bitOf v 16 = true → svcOn s = false →
    Runs (.join w v) s fun t =>
      flag t (pgFab 0) Off.TBL_SEAT 16 = true ∧ mySeat t = fieldOf v 0 9 ∧ tblMember t (fieldOf v 0 9) = true ∧ t.tbl.seqs = [] ∧
        (tblMember s (fieldOf v 0 9) = false → Counted (pgFab 0) Off.TBL_CNT_JOINS 1 s t)) ∧
  (∀ s w v, Admitted s w (pgFab 0) Off.TBL_SEAT → flag s (pgFab 0) Off.TBL_SEAT 16 = true → bitOf v 16 = false → live s →
    tblDup s = false → Runs (.join w v) s fun t =>
      flag t (pgFab 0) Off.TBL_SEAT 16 = false ∧ mySeat t = mySeat s ∧ tblMember t (mySeat s) = false ∧ t.out = s.out ++ group s 2 []) ∧
  (∀ s w v, Admitted s w (pgFab 0) Off.TBL_SEAT → flag s (pgFab 0) Off.TBL_SEAT 16 = true → bitOf v 16 = true →
    fieldOf v 0 9 ≠ mySeat s → Runs (.join w v) s fun t => mySeat t = mySeat s ∧ Counted (pgFab 0) Off.TBL_CNT_CFG_REFUSED 1 s t) ∧
  (∀ s w v entries, Admitted s w (pgFab 0) Off.TBL_SVC_TX_TAIL → Runs (.svcTxTailWrite w v entries) s fun t =>
    rd t (pgFab 0) Off.TBL_SVC_TX_TAIL = v ∧
      (svcOn s = false ∨ tblJoined s = false → rd t (pgFab 0) Off.TBL_SVC_TX_HEAD = rd s (pgFab 0) Off.TBL_SVC_TX_HEAD) ∧
      (svcOn s = false → RegsBut [fab Off.TBL_SVC_TX_TAIL, hhLost] s t)) ∧
  (∀ s port, gptpLive s port = true → Runs (.sync port) s fun t => stamped port .sync s t ∧ t.out = s.out ∧ RegsBut [] s t) ∧
  (∀ s, flag s (pgFab 0) Off.TBL_SYNC 1 = false ∨ syncDue s = false → Runs .syncInterval s fun t => t = s) ∧
  (∀ s, flag s (pgFab 0) Off.TBL_SYNC 1 = true → syncDue s = true → gptpLive s 0 = true → gptpLive s 1 = true → Runs .syncInterval s fun t =>
    t.tbl.syncAt = some s.tt.beats ∧ t.out = s.out ++ [.gptp 0 .sync, .gptp 0 .followUp, .gptp 1 .sync, .gptp 1 .followUp] ∧ stamped 0 .sync s t ∧ stamped 1 .sync s t ∧
      RegsBut [] s t) ∧
  (∀ s port m, gptpLive s port = true → Runs (.peerDelayMeasurement port m true) s fun t =>
    t.out = s.out ++ [.gptp port m] ∧ stamped port m s t ∧ RegsBut [] s t) ∧
  (∀ s port m, gptpLive s port = true → Runs (.peerDelayMeasurement port m false) s fun t =>
    t.out = s.out ++ (if m = .pdelayReq then [.gptp port .pdelayResp, .gptp port .pdelayFollowUp] else []) ∧ stamped port m s t ∧
      RegsBut [] s t) ∧
  ∀ s port up fec, port < 2 → pageOn s (pgFab port) = true → (up = true → enabled s (pgFab port) = true) → Runs (.linkChange port up fec) s fun t =>
    flag t (pgFab port) Off.FAB_STATUS 0 = up ∧ flag t (pgFab port) Off.FAB_STATUS 1 = fec ∧
      Raised (pgFab port) Evt.FAB_LINK_CHANGE t ∧ RegsBut [pageBase (pgFab port) + Off.FAB_STATUS, evtOf (pgFab port)] s t

/-! ## The fault collector and the hand history -/

/-- The fault collector: records go to the PF's ring and to the tenant they concern, the ring's registers move as counts, and the watchdog
fires once a period has passed without a kick. -/
def Obligations.Collector : Prop :=
  let fc (off : Nat) : Nat := pageBase pgFc + off
  let refused (s t : State) : Prop :=
    Counted pgFc Off.FC_CNT_CFG_REFUSED 1 s t ∧ RegsBut [fc Off.FC_CNT_CFG_REFUSED, hhLost] s t
  let tail (s : State) : Nat := (rd s pgFc Off.FC_RING_TAIL).toNat
  let head (s : State) : Nat := (rd s pgFc Off.FC_RING_HEAD).toNat
  let base (s : State) : Nat := rd64 s pgFc Off.FC_RING_BASE_LO Off.FC_RING_BASE_HI
  let size (v : Word) : Prop := 4 ≤ fieldOf v 8 4 ∧ fieldOf v 8 4 ≤ 12
  let due (s : State) : Prop :=
    pageOn s pgFc = true ∧ flag s pgFc Off.FC_WDOG 31 = true ∧ elapsed s s.fc.wdogStart (msTicks (fld s pgFc Off.FC_WDOG 0 16)) = true
  let fired (s t : State) : Prop :=
    Counted pgFc Off.FC_CNT_WDOG 1 s t ∧ Raised pgFc Evt.FC_WDOG t ∧ flag t pgFc Off.FC_WDOG 31 = false ∧ t.fc.wdogLast = some s.tt.beats
  let delivers (s : State) (r : FaultRec) (rest : List FaultRec) : Prop :=
    s.fc.buffer = r :: rest ∧ pageOn s pgFc = true ∧ flag s pgFc Off.FC_CFG 0 = true ∧
      ringUsed (tail s) (head s) < 2 ^ fld s pgFc Off.FC_CFG 8 4 ∧ hostOpen s 0 = true
  let write (s : State) (r : FaultRec) : Out := .hostWrite 0 (base s + 32 * (tail s % 2 ^ fld s pgFc Off.FC_CFG 8 4)) (recBytes r)
  let theirs (s : State) (r : FaultRec) : Prop :=
    1 ≤ r.tenant ∧ r.tenant ≤ 15 ∧ r.severity ≠ 0 ∧ (r.context = 0xFFFF ∨ ctxTenant s r.context = r.tenant)
  (∀ s r rest, delivers s r rest → Runs .recordDelivery s fun t =>
    t.fc.buffer = rest ∧ rd t pgFc Off.FC_RING_TAIL = rd s pgFc Off.FC_RING_TAIL + 1 ∧ (∃ l, t.out = s.out ++ write s r :: l) ∧
      (¬ theirs s r → t.out = s.out ++ [write s r] ∧ t.host = s.host ∧ RegsBut [fc Off.FC_RING_TAIL] s t) ∧
      (∀ c, theirs s r → serviceCtx s r.tenant = some c → cellMay s c = false → (holdOf s r.tenant).dropped = 0 →
        (holdOf s r.tenant).cells.length < 64 → holdOf t r.tenant = ⟨(holdOf s r.tenant).cells ++ [faultCell s r], 0⟩) ∧
      ∀ c, theirs s r → serviceCtx s r.tenant = some c → 64 ≤ (holdOf s r.tenant).cells.length → cellMay s c = false →
        Counted (pgCtx c) Off.CTX_CNT_CELLS_DROPPED 1 s t ∧ (holdOf t r.tenant).cells = (holdOf s r.tenant).cells) ∧
  (∀ s w v, Admitted s w pgFc Off.FC_CFG → size v →
    (flag s pgFc Off.FC_CFG 0 = true → fieldOf v 8 4 = fld s pgFc Off.FC_CFG 8 4) → Runs (.ringEn w v) s fun t =>
      flag t pgFc Off.FC_CFG 0 = bitOf v 0 ∧ flag t pgFc Off.FC_CFG 1 = bitOf v 1 ∧ fld t pgFc Off.FC_CFG 8 4 = fieldOf v 8 4 ∧
        (flag s pgFc Off.FC_CFG 0 = false → bitOf v 0 = true → tail t = 0 ∧ head t = 0) ∧
        RegsBut [fc Off.FC_CFG, fc Off.FC_RING_TAIL, fc Off.FC_RING_HEAD, hhLost] s t) ∧
  (∀ s w v, Admitted s w pgFc Off.FC_CFG →
    ¬ size v ∨ (flag s pgFc Off.FC_CFG 0 = true ∧ fieldOf v 8 4 ≠ fld s pgFc Off.FC_CFG 8 4) →
    Runs (.ringEn w v) s (refused s)) ∧
  (∀ s w v, Admitted s w pgFc Off.FC_RING_HEAD → head s ≤ v.toNat → v.toNat ≤ tail s → v.toNat < head s + 2 ^ 31 →
    Runs (.fcRingHeadWrite w v) s fun t => rd t pgFc Off.FC_RING_HEAD = v ∧ RegsBut [fc Off.FC_RING_HEAD] s t) ∧
  (∀ s w v, Admitted s w pgFc Off.FC_RING_HEAD → head s ≤ tail s → v.toNat < head s ∨ tail s < v.toNat →
    Runs (.fcRingHeadWrite w v) s (refused s)) ∧
  (∀ s v, Admitted s .mgmt pgFc Off.FC_WDOG_KICK → Runs (.watchdogKick .mgmt v) s fun t =>
    t.fc = { s.fc with wdogStart := s.tt.beats } ∧ RegsBut [hhLost] s t) ∧
  (∀ s w v, Admitted s w pgFc Off.FC_WDOG_KICK → w ≠ .mgmt → Runs (.watchdogKick w v) s fun t => t.fc = s.fc ∧ RegsBut [hhLost] s t) ∧
  (∀ s, due s → (∀ b, s.fc.wdogLast = some b → elapsed s b 10000000000 = true) → Runs .watchdogFire s fun t =>
    fired s t ∧ Recorded 0xF 0 3 0xFF t ∧ deviceFatal t = deviceFatal s ∧
      RegsBut (fc Off.FC_CNT_WDOG :: fc Off.FC_WDOG :: recordRegs) s t) ∧
  ∀ s b, due s → s.fc.wdogLast = some b → elapsed s b 10000000000 = false → deviceFatal s = false → Runs .watchdogFire s fun t =>
    fired s t ∧ deviceFatal t = true ∧ rd t pgFc Off.FC_FATAL = 3 ∧ .errFatal ∈ t.out

/-- The hand history: its modes, checkpoints of the device and of a context, and the injection of records. Choices of the model that it rests
on: log 55. -/
def Obligations.HandHistory : Prop :=
  let hh (off : Nat) : Nat := pageBase pgHh + off
  let refused (s t : State) : Prop :=
    Counted pgHh Off.HH_CNT_CFG_REFUSED 1 s t ∧ t.hh = s.hh ∧ t.hbm = s.hbm
  let modes (w : Func) : List (Nat × Instr) := [(0, .off w), (1, .record w), (2, .replay w)]
  let may (s : State) : Prop := s.host.ctxs = [] ∧ (∀ e ∈ s.fc.fences, phaseOf s e.1 = 0) ∧ hhMode s = 1
  let start (s : State) (host : List Byte) : Nat := skipStretch s host (hhHead s)
  let first (s : State) (host : List Byte) : HistRec × Nat := recordAt s host (start s host)
  let item (s : State) (host : List Byte) : List Byte × Nat := itemRest s host (first s host).1 4096 (first s host).2
  let injects (s : State) (host : List Byte) : Prop :=
    hhMode s = 2 ∧ domOn s 3 = true ∧ replayStops s host (start s host) = false ∧ (first s host).1.tt ≤ 64 * beatNo s
  let open_ (s : State) (host : List Byte) : Bool :=
    flag s pgHh Off.HH_CFG 0 || ringOpen s (rd64 s pgHh Off.HH_BASE_LO Off.HH_BASE_HI + start s host % hhRing s) 16
  let moved (s : State) (host : List Byte) : List Nat :=
    [hh Off.HH_HEAD_LO, hh Off.HH_HEAD_HI] ++ if open_ s host then [] else [pageBase (pgMemenc 0) + Off.MEMENC_CNT_DENIED]
  (∀ s w m i, (m, i) ∈ modes w → Admitted s w pgHh Off.HH_CTRL → Runs i s fun t =>
    hhMode t = m ∧ flag t pgHh Off.HH_STATUS 3 = false ∧ RegsBut [hh Off.HH_CTRL, hh Off.HH_STATUS] s t ∧ t.hh.beatBuf = s.hh.beatBuf ∧
      (m = 2 → hhMode s ≠ 2 → t.hh.draws = [] ∧ t.hh.expect = [] ∧ t.hh.made = [])) ∧
  (∀ s w, Admitted s w pgHh Off.HH_CTRL → may s → domOn s 3 = true → Runs (.checkpoint w) s fun t =>
    flag t pgHh Off.HH_STATUS 1 = true ∧ t.hh.ckptAt = some s.tt.beats ∧ t.hh.writtenSlots = [] ∧ hhMode t = 1 ∧
      (captured s 72 = 0 → ∃ r ∈ t.hh.beatBuf, r.kind = 1 ∧ r.island = 72 ∧ r.tt = 64 * beatNo s ∧
        r.payload = (startPayload s).take 4112) ∧
      ∀ n, n < 2 → kittyLive s n = true → ∀ l ∈ kittyOf t n, l.locked = true) ∧
  (∀ s w, Admitted s w pgHh Off.HH_CTRL → ¬ may s → Runs (.checkpoint w) s fun t => refused s t ∧ hhMode t = hhMode s) ∧
  (∀ s b, s.hh.ckptAt = some b → b + 4096 ≤ s.tt.beats → domOn s 3 = true → Runs .checkpointComplete s fun t =>
    flag t pgHh Off.HH_STATUS 0 = true ∧ flag t pgHh Off.HH_STATUS 1 = false ∧ t.hh.ckptAt = none ∧ Raised pgHh Evt.HH_CKPT_DONE t ∧
      Counted pgHh Off.HH_CNT_CHECKPOINTS 1 s t) ∧
  (∀ s v, Admitted s .mgmt pgHh Off.HH_MARK → ctxExists s (fieldOf v 0 10) = true → hhMode s = 1 → domOn s 3 = true →
    captured s 72 + 32 ≤ 16384 → Runs (.hhMark .mgmt v) s fun t => t = { s with head := t.head, hh := { s.hh with
      beatBuf := insertBy histPlace ⟨64 * beatNo s, 3, 0, 72, 0,
        leBytes 2 (fieldOf v 0 10) ++ leBytes 2 0 ++ leBytes 4 (rd s pgHh Off.HH_MARK_TAG).toNat⟩ s.hh.beatBuf } }) ∧
  (∀ s w v, Admitted s w pgHh Off.HH_MARK → w ≠ .mgmt ∨ ctxExists s (fieldOf v 0 10) = false → Runs (.hhMark w v) s (refused s)) ∧
  (∀ s host, injects s host → Runs (.replayInject host) s fun t =>
    hhHead t = (item s host).2 % 2 ^ 64 ∧ t.hh.injecting = false ∧
      ((first s host).1.kind = 0x30 → t.hh.draws = s.hh.draws ++ [((first s host).1.island, numAt (item s host).1 0 4)] ∧
        RegsBut (moved s host) s t) ∧
      ((first s host).1.kind = 0x32 → numAt (item s host).1 0 1 = 1 → (true, numAt (item s host).1 8 8) ∉ s.tt.pend →
        t.tt.pend = s.tt.pend ++ [(true, numAt (item s host).1 8 8)] ∧ RegsBut (moved s host) s t) ∧
      ((first s host).1.kind ∈ [3, 5, 6] → RegsBut (moved s host) s t ∧ t.hh = { s.hh with injecting := false })) ∧
  ∀ s host, hhMode s = 2 → domOn s 3 = true → replayStops s host (start s host) = true → Runs (.replayDone host) s fun t =>
    hhMode t = 0 ∧ Raised pgHh Evt.HH_REPLAY_DONE t ∧ RegsBut [hh Off.HH_CTRL, evtOf pgHh] s t ∧ t.hh = s.hh
end

