-- ==== Sys2Proof/Laws/Lists.lean ====
section
/-! SUPPORT. Laws of the sorted association lists that hold registers and memories, and of the bit fields. -/
namespace Sys2Proof.Machine
set_option Elab.async false

variable {α : Type}

/-! ## Sorted keys -/

theorem sortedKeys_tail {e : Nat × α} {l : List (Nat × α)} (h : sortedKeys (e :: l) = true) : sortedKeys l = true := by
  cases l with
  | nil => rfl
  | cons f r => simp only [sortedKeys, Bool.and_eq_true] at h; exact h.2

/-- Every key after the head of a sorted list is above the head's. -/
theorem sortedKeys_head {e : Nat × α} {l : List (Nat × α)} (h : sortedKeys (e :: l) = true) : ∀ f ∈ l, e.1 < f.1 := by
  induction l generalizing e with
  | nil => simp
  | cons g r ih =>
    simp only [sortedKeys, Bool.and_eq_true, decide_eq_true_eq] at h
    intro f hf
    rcases List.mem_cons.mp hf with rfl | hf
    · exact h.1
    · exact Nat.lt_trans h.1 (ih h.2 f hf)

theorem sortedKeys_cons {e : Nat × α} {l : List (Nat × α)} (h : sortedKeys l = true) (hlt : ∀ f ∈ l, e.1 < f.1) :
    sortedKeys (e :: l) = true := by
  cases l with
  | nil => rfl
  | cons f r => simp [sortedKeys, h, hlt f (List.mem_cons_self ..)]

theorem sortedKeys_map {f : Nat × α → Nat × α} {l : List (Nat × α)} (hf : ∀ e, (f e).1 = e.1) (h : sortedKeys l = true) :
    sortedKeys (l.map f) = true := by
  induction l with
  | nil => rfl
  | cons e r ih =>
    refine sortedKeys_cons (ih (sortedKeys_tail h)) fun g hg => ?_
    obtain ⟨x, hx, rfl⟩ := List.mem_map.mp hg
    rw [hf, hf]; exact sortedKeys_head h x hx

theorem sortedKeys_filter {p : Nat × α → Bool} {l : List (Nat × α)} (h : sortedKeys l = true) : sortedKeys (l.filter p) = true := by
  induction l with
  | nil => rfl
  | cons e r ih =>
    rw [List.filter_cons]
    split
    · exact sortedKeys_cons (ih (sortedKeys_tail h)) fun f hf => sortedKeys_head h f (List.mem_filter.mp hf).1
    · exact ih (sortedKeys_tail h)

theorem mem_sput {l : List (Nat × α)} {a : Nat} {x : α} {e : Nat × α} (h : e ∈ sput l a x) : e = (a, x) ∨ e ∈ l := by
  induction l with
  | nil => simpa [sput] using h
  | cons f r ih =>
    simp only [sput] at h
    split at h
    · simp at h ⊢; tauto
    · split at h
      · simpa using h
      · simp at h ⊢
        rcases h with h | h
        · tauto
        · have := ih h; tauto

theorem mem_sdel {l : List (Nat × α)} {a : Nat} {e : Nat × α} (h : e ∈ sdel l a) : e ∈ l := (List.mem_filter.mp h).1

theorem sortedKeys_sput {l : List (Nat × α)} {a : Nat} {x : α} (h : sortedKeys l = true) : sortedKeys (sput l a x) = true := by
  induction l with
  | nil => rfl
  | cons f r ih =>
    simp only [sput]
    split
    · rename_i ha
      exact sortedKeys_cons (sortedKeys_tail h) fun g hg => by have := sortedKeys_head h g hg; simp only; omega
    · split
      · rename_i ha
        exact sortedKeys_cons h fun g hg => by
          rcases List.mem_cons.mp hg with rfl | hg
          · exact ha
          · exact Nat.lt_trans ha (sortedKeys_head h g hg)
      · exact sortedKeys_cons (ih (sortedKeys_tail h)) fun g hg => by
          rcases mem_sput hg with rfl | hg
          · simp only; omega
          · exact sortedKeys_head h g hg

theorem sortedKeys_sdel {l : List (Nat × α)} {a : Nat} (h : sortedKeys l = true) : sortedKeys (sdel l a) = true :=
  sortedKeys_filter h

theorem sortedKeys_sset [DecidableEq α] {d : α} {l : List (Nat × α)} {a : Nat} {x : α} (h : sortedKeys l = true) :
    sortedKeys (sset d l a x) = true := by
  unfold sset
  split
  · exact sortedKeys_sdel h
  · exact sortedKeys_sput h

theorem mem_sset [DecidableEq α] {d : α} {l : List (Nat × α)} {a : Nat} {x : α} {e : Nat × α} (h : e ∈ sset d l a x) :
    (e = (a, x) ∧ x ≠ d) ∨ e ∈ l := by
  unfold sset at h
  split at h
  · exact Or.inr (mem_sdel h)
  · rcases mem_sput h with h | h
    · exact Or.inl ⟨h, ‹_›⟩
    · exact Or.inr h

/-! ## Reading what was set -/

theorem sget_sput (d : α) (l : List (Nat × α)) (a b : Nat) (x : α) : sget d (sput l a x) b = if b = a then x else sget d l b := by
  induction l with
  | nil => simp [sput, sget]
  | cons f r ih =>
    simp only [sput]
    split
    · subst a; simp only [sget]; split <;> rfl
    · split
      · simp only [sget]
      · simp only [sget, ih]
        split
        · rename_i h1; rw [if_neg (by omega)]
        · rfl

theorem sget_sdel (d : α) (l : List (Nat × α)) (a b : Nat) : sget d (sdel l a) b = if b = a then d else sget d l b := by
  induction l with
  | nil => simp [sdel, sget]
  | cons f r ih =>
    unfold sdel at ih ⊢
    by_cases h : f.1 = a
    · rw [List.filter_cons_of_neg (by simp [h]), ih]
      simp only [sget]
      split
      · rfl
      · rw [if_neg (by omega)]
    · rw [List.filter_cons_of_pos (by simp [h])]
      simp only [sget, ih]
      split
      · rw [if_neg (by omega)]
      · rfl

/-- A set key reads as its value and every other key as before. -/
theorem sget_sset [DecidableEq α] (d : α) (l : List (Nat × α)) (a b : Nat) (x : α) :
    sget d (sset d l a x) b = if b = a then x else sget d l b := by
  unfold sset
  split
  · rename_i hx; rw [sget_sdel, hx]
  · rw [sget_sput]

/-! ## Canonical form -/

theorem Memory.wf_nil : Memory.wf [] = true := rfl

theorem Memory.wf_filter {p : Host.Cell → Bool} {m : List Host.Cell} (h : Memory.wf m = true) : Memory.wf (m.filter p) = true := by
  simp only [Memory.wf, Bool.and_eq_true, List.all_eq_true] at h ⊢
  exact ⟨sortedKeys_filter h.1, fun c hc => h.2 c (List.mem_filter.mp hc).1⟩

theorem Memory.wf_sset {m : List Host.Cell} {a : Nat} {b : Byte} (h : Memory.wf m = true) : Memory.wf (sset 0 m a b) = true := by
  simp only [Memory.wf, Bool.and_eq_true, List.all_eq_true] at h ⊢
  refine ⟨sortedKeys_sset h.1, fun c hc => ?_⟩
  rcases mem_sset hc with ⟨rfl, hb⟩ | hc
  · simpa using hb
  · exact h.2 c hc

/-- Writing bytes keeps a memory in its one form. -/
theorem Memory.wf_cellsWrite {bs : List Byte} {a : Nat} {m : List Host.Cell} (h : Memory.wf m = true) :
    Memory.wf (cellsWrite bs a m) = true := by
  induction bs generalizing a m with
  | nil => exact h
  | cons b r ih => exact ih (Memory.wf_sset h)

/-- A byte after a write: the byte written, or what the address held. -/
theorem sget_cellsWrite (bs : List Byte) (a : Nat) (m : List Host.Cell) (x : Nat) :
    sget 0 (cellsWrite bs a m) x = if a ≤ x ∧ x < a + bs.length then bs.getD (x - a) 0 else sget 0 m x := by
  induction bs generalizing a m with
  | nil => rw [if_neg (by simp)]; rfl
  | cons b r ih =>
    rw [cellsWrite, ih, sget_sset]
    by_cases hx : x = a
    · subst hx; simp
    · by_cases h1 : a + 1 ≤ x ∧ x < a + 1 + r.length
      · rw [if_pos h1, if_pos (by simp; omega)]
        obtain ⟨k, rfl⟩ := Nat.exists_eq_add_of_le h1.1
        have : a + 1 + k - a = k + 1 := by omega
        simp [this]
      · rw [if_neg h1, if_neg hx, if_neg (by simp; omega)]

theorem Regs.wf_filter {q : Part} {p : Nat × Word → Bool} {l : List (Nat × Word)} (h : Regs.wf q l = true) :
    Regs.wf q (l.filter p) = true := by
  simp only [Regs.wf, Bool.and_eq_true, List.all_eq_true] at h ⊢
  exact ⟨sortedKeys_filter h.1, fun c hc => h.2 c (List.mem_filter.mp hc).1⟩

theorem Regs.wf_sset {q : Part} {l : List (Nat × Word)} {a : Nat} {v : Word} (h : Regs.wf q l = true) :
    Regs.wf q (sset (resetVal q a) l a v) = true := by
  simp only [Regs.wf, Bool.and_eq_true, List.all_eq_true] at h ⊢
  refine ⟨sortedKeys_sset h.1, fun e he => ?_⟩
  rcases mem_sset he with ⟨rfl, hb⟩ | he
  · simpa using hb
  · exact h.2 e he

/-! ## Bit fields -/

theorem bitsAt_lt (v lo w : Nat) : bitsAt v lo w < 2 ^ w := Nat.mod_lt _ (Nat.two_pow_pos w)

/-- Where a number lies below and above one of its fields. -/
theorem bitsAt_split (v lo w : Nat) : v = v % 2 ^ lo + 2 ^ lo * (bitsAt v lo w + 2 ^ w * (v / 2 ^ lo / 2 ^ w)) := by
  unfold bitsAt
  rw [Nat.mod_add_div, Nat.mod_add_div]

theorem putAt_eq (v lo w x : Nat) : putAt v lo w x = v % 2 ^ lo + 2 ^ lo * (x % 2 ^ w + 2 ^ w * (v / 2 ^ lo / 2 ^ w)) := by
  have h := bitsAt_split v lo w
  unfold putAt
  generalize bitsAt v lo w = f at *
  generalize v / 2 ^ lo / 2 ^ w = g at *
  generalize v % 2 ^ lo = r at *
  subst h
  have : r + 2 ^ lo * (f + 2 ^ w * g) - f * 2 ^ lo = r + 2 ^ lo * (2 ^ w * g) := by
    rw [Nat.mul_add, Nat.mul_comm f]; omega
  rw [this]; ring

/-- A field that was put reads as the value put. -/
theorem bitsAt_putAt_same (v lo w x : Nat) : bitsAt (putAt v lo w x) lo w = x % 2 ^ w := by
  rw [putAt_eq]
  unfold bitsAt
  rw [Nat.add_mul_div_left _ _ (Nat.two_pow_pos lo), Nat.div_eq_of_lt (Nat.mod_lt _ (Nat.two_pow_pos lo)), Nat.zero_add,
    Nat.add_mul_mod_self_left, Nat.mod_mod]

/-- A field above the one that was put is unchanged. -/
theorem bitsAt_putAt_above {v lo w x lo' w' : Nat} (h : lo + w ≤ lo') : bitsAt (putAt v lo w x) lo' w' = bitsAt v lo' w' := by
  rw [putAt_eq]
  unfold bitsAt
  obtain ⟨k, rfl⟩ := Nat.exists_eq_add_of_le h
  have e (n : Nat) : n / 2 ^ (lo + w + k) = n / 2 ^ lo / 2 ^ w / 2 ^ k := by
    rw [Nat.div_div_eq_div_mul, Nat.div_div_eq_div_mul, ← pow_add, ← pow_add, ← Nat.add_assoc]
  rw [e, e, Nat.add_mul_div_left _ _ (Nat.two_pow_pos lo), Nat.div_eq_of_lt (Nat.mod_lt _ (Nat.two_pow_pos lo)), Nat.zero_add,
    Nat.add_mul_div_left _ _ (Nat.two_pow_pos w), Nat.div_eq_of_lt (Nat.mod_lt _ (Nat.two_pow_pos w)), Nat.zero_add]

/-- A field below the one that was put is unchanged. -/
theorem bitsAt_putAt_below {v lo w x lo' w' : Nat} (h : lo' + w' ≤ lo) : bitsAt (putAt v lo w x) lo' w' = bitsAt v lo' w' := by
  rw [putAt_eq]
  obtain ⟨k, rfl⟩ := Nat.exists_eq_add_of_le h
  have e (n : Nat) : bitsAt n lo' w' = n % 2 ^ (lo' + w') / 2 ^ lo' := by
    unfold bitsAt
    rw [pow_add, Nat.mod_mul_right_div_self]
  rw [e, e]
  congr 1
  conv_lhs => rw [pow_add 2 (lo' + w') k, Nat.mul_assoc, Nat.add_mul_mod_self_left]
  exact Nat.mod_mod_of_dvd _ (Dvd.intro _ rfl)

theorem putAt_lt {v lo w x n : Nat} (hv : v < 2 ^ n) (h : lo + w ≤ n) : putAt v lo w x < 2 ^ n := by
  obtain ⟨k, rfl⟩ := Nat.exists_eq_add_of_le h
  rw [putAt_eq]
  have h1 : v % 2 ^ lo < 2 ^ lo := Nat.mod_lt _ (Nat.two_pow_pos lo)
  have h2 : x % 2 ^ w < 2 ^ w := Nat.mod_lt _ (Nat.two_pow_pos w)
  have h3 : v / 2 ^ lo / 2 ^ w < 2 ^ k := by
    rw [Nat.div_div_eq_div_mul, ← pow_add]
    exact Nat.div_lt_of_lt_mul (by rw [← pow_add]; exact hv)
  have h4 : x % 2 ^ w + 2 ^ w * (v / 2 ^ lo / 2 ^ w) < 2 ^ w * 2 ^ k := by
    calc _ < 2 ^ w + 2 ^ w * (v / 2 ^ lo / 2 ^ w) := by omega
      _ = 2 ^ w * (v / 2 ^ lo / 2 ^ w + 1) := by ring
      _ ≤ _ := Nat.mul_le_mul_left _ h3
  calc _ < 2 ^ lo + 2 ^ lo * (x % 2 ^ w + 2 ^ w * (v / 2 ^ lo / 2 ^ w)) := by omega
    _ = 2 ^ lo * (x % 2 ^ w + 2 ^ w * (v / 2 ^ lo / 2 ^ w) + 1) := by ring
    _ ≤ 2 ^ lo * (2 ^ w * 2 ^ k) := Nat.mul_le_mul_left _ h4
    _ = _ := by rw [pow_add, pow_add]; ring

theorem putField_toNat {v : Word} {lo w x : Nat} (h : lo + w ≤ 32) : (putField v lo w x).toNat = putAt v.toNat lo w x := by
  unfold putField
  rw [BitVec.toNat_ofNat, Nat.mod_eq_of_lt (putAt_lt v.isLt h)]

theorem fieldOf_putField_same {v : Word} {lo w x : Nat} (h : lo + w ≤ 32) : fieldOf (putField v lo w x) lo w = x % 2 ^ w := by
  unfold fieldOf; rw [putField_toNat h, bitsAt_putAt_same]

theorem fieldOf_putField_above {v : Word} {lo w x lo' w' : Nat} (h : lo + w ≤ 32) (h' : lo + w ≤ lo') :
    fieldOf (putField v lo w x) lo' w' = fieldOf v lo' w' := by
  unfold fieldOf; rw [putField_toNat h, bitsAt_putAt_above h']

theorem fieldOf_putField_below {v : Word} {lo w x lo' w' : Nat} (h : lo + w ≤ 32) (h' : lo' + w' ≤ lo) :
    fieldOf (putField v lo w x) lo' w' = fieldOf v lo' w' := by
  unfold fieldOf; rw [putField_toNat h, bitsAt_putAt_below h']

end Sys2Proof.Machine
end

