-- ==== Sys2Proof/Laws/Keeps.lean ====
section
/-! SUPPORT. What operations keep. `Keeps N s₀ s` says that state s has from s₀ on kept the canonical form of the register file and the
memories, the fuses but for anti-rollback counters that rise, the queue of waiting commands, and every part of the state that the mask N
does not name; one lemma for each operation carries it on, `keeps_<operation>`, in this file and those named Keeps. -/
namespace Sys2Proof.Machine
set_option Elab.async false

/-! ## Masks -/

/-- The bit of a part in a mask. -/
def Comp.bit : Comp → Nat
  | .part => 0
  | .regs => 1
  | .tt => 2
  | .head => 3
  | .boot => 4
  | .pwr => 5
  | .fc => 6
  | .host => 7
  | .hh => 8
  | .sec => 9
  | .tbl => 10
  | .au => 11
  | .ce => 12
  | .csi => 13
  | .isp => 14
  | .tiles => 15
  | .stems => 16
  | .mem => 17
  | .queues => 18
  | .hbm => 19
  | .out => 20
  | .freeIdx => 21

/-- Mask M names no part that N does not. -/
def Within (M N : Nat) : Prop := M ||| N = N

theorem Within.via {m M N : Nat} (h : Within M N) (e : m ||| M = M) : Within m N := by
  unfold Within at *; rw [← h, ← Nat.or_assoc, e]

theorem Within.testBit {M N : Nat} (h : Within M N) (k : Nat) (e : N.testBit k = false) : M.testBit k = false := by
  unfold Within at h
  have : (M ||| N).testBit k = false := by rw [h]; exact e
  rw [Nat.testBit_or] at this
  cases hm : M.testBit k with
  | false => rfl
  | true => rw [hm] at this; cases this

/-- State s with the parts that a mask names taken from t. -/
def mix (M : Nat) (s t : State) : State :=
  let f {α : Type} (k : Nat) (x y : α) : α := bif M.testBit k then y else x
  { part := f 0 s.part t.part
    regs := f 1 s.regs t.regs
    tt := f 2 s.tt t.tt
    head := f 3 s.head t.head
    boot := f 4 s.boot t.boot
    pwr := f 5 s.pwr t.pwr
    fc := f 6 s.fc t.fc
    host := f 7 s.host t.host
    hh := f 8 s.hh t.hh
    sec := f 9 s.sec t.sec
    tbl := f 10 s.tbl t.tbl
    au := f 11 s.au t.au
    ce := f 12 s.ce t.ce
    csi := f 13 s.csi t.csi
    isp := f 14 s.isp t.isp
    tiles := f 15 s.tiles t.tiles
    stems := f 16 s.stems t.stems
    mem := f 17 s.mem t.mem
    queues := f 18 s.queues t.queues
    hbm := f 19 s.hbm t.hbm
    out := f 20 s.out t.out
    freeIdx := f 21 s.freeIdx t.freeIdx
    pending := s.pending }

theorem mix_agrees {M : Nat} {s t : State} (h : t = mix M s t) (c : Comp) (e : M.testBit c.bit = false) : c.agrees s t := by
  have g {α : Type} (f : State → α) : f t = f (mix M s t) := congrArg f h
  cases c <;> simp only [Comp.bit] at e
  · exact (g State.part).trans (by simp only [mix, e]; rfl)
  · exact (g State.regs).trans (by simp only [mix, e]; rfl)
  · exact (g State.tt).trans (by simp only [mix, e]; rfl)
  · exact (g State.head).trans (by simp only [mix, e]; rfl)
  · exact (g State.boot).trans (by simp only [mix, e]; rfl)
  · exact (g State.pwr).trans (by simp only [mix, e]; rfl)
  · exact (g State.fc).trans (by simp only [mix, e]; rfl)
  · exact (g State.host).trans (by simp only [mix, e]; rfl)
  · exact (g State.hh).trans (by simp only [mix, e]; rfl)
  · exact (g State.sec).trans (by simp only [mix, e]; rfl)
  · exact (g State.tbl).trans (by simp only [mix, e]; rfl)
  · exact (g State.au).trans (by simp only [mix, e]; rfl)
  · exact (g State.ce).trans (by simp only [mix, e]; rfl)
  · exact (g State.csi).trans (by simp only [mix, e]; rfl)
  · exact (g State.isp).trans (by simp only [mix, e]; rfl)
  · exact (g State.tiles).trans (by simp only [mix, e]; rfl)
  · exact (g State.stems).trans (by simp only [mix, e]; rfl)
  · exact (g State.mem).trans (by simp only [mix, e]; rfl)
  · exact (g State.queues).trans (by simp only [mix, e]; rfl)
  · exact (g State.hbm).trans (by simp only [mix, e]; rfl)
  · exact (g State.out).trans (by simp only [mix, e]; rfl)
  · exact (g State.freeIdx).trans (by simp only [mix, e]; rfl)

/-! ## Keeping -/

/-- `Keeps` on the parts of a state that stay canonical. -/
structure KeepsOf (s₀ : State) (part : Part) (regs : List (Nat × Word)) (hbm staging sram : List Host.Cell) (tiles : List (Nat × TileSt))
    (keyed : Prop) (pending : List Instr) : Prop where
  fuses : Part.burnt s₀.part part
  canon : s₀.Canonical → Regs.wf part regs = true ∧ Memory.wf hbm = true ∧ Memory.wf staging = true ∧ Memory.wf sram = true ∧
    (∀ e ∈ tiles, Memory.wf e.2.sram = true) ∧ keyed
  queue : pending = s₀.pending

/-- State s keeps from state s₀ on what every step keeps, and every part outside a mask. -/
structure Keeps (N : Nat) (s₀ s : State) : Prop where
  base : KeepsOf s₀ s.part s.regs s.hbm s.boot.staging s.ce.sram s.tiles s.Keyed s.pending
  rest : ∀ c : Comp, N.testBit c.bit = false → c.agrees s₀ s

theorem Part.burnt_refl (p : Part) : Part.burnt p p := ⟨rfl, rfl, fun _ _ h => h⟩

theorem Comp.agrees_refl (c : Comp) (s : State) : c.agrees s s := by cases c <;> rfl

theorem Comp.agrees_trans {c : Comp} {s t u : State} (h : c.agrees s t) (h' : c.agrees t u) : c.agrees s u := by
  cases c <;> exact Eq.trans h' h

theorem Keeps.refl (N : Nat) (s : State) : Keeps N s s := ⟨⟨Part.burnt_refl _, id, rfl⟩, fun c _ => c.agrees_refl s⟩

section
variable {N : Nat} {s₀ s : State}
  {tt : TimeSt} {head : HeadSt} {boot : BootSt} {pwr : PowerSt} {fc : FaultSt} {host : HostSt} {hh : HistSt} {sec : SecSt}
  {tbl : TblSt} {au : AudioSt} {ce : CallSt} {csi : List (Nat × CsiSt)} {isp : List (Nat × IspSt)}
  {stems : List (Nat × StemSt)} {mem : MemSt} {queues : List (Nat × Queue)} {out : List Out} {freeIdx : Nat}

/-- What a change within a mask leaves. -/
theorem Keeps.change {M : Nat} {t : State} (hN : Within M N) (h : Keeps N s₀ s) (e : t = mix M s t) (c : Comp)
    (hc : N.testBit c.bit = false) : c.agrees s₀ t :=
  Comp.agrees_trans (h.rest c hc) (mix_agrees e c (hN.testBit _ hc))

/-- A change of other parts of the state. -/
theorem Keeps.update (M : Nat) (hN : Within M N) (h : Keeps N s₀ s) (h1 : boot.staging = s.boot.staging) (h2 : ce.sram = s.ce.sram)
    (e : State.mk s.part s.regs tt head boot pwr fc host hh sec tbl au ce csi isp s.tiles stems mem queues s.hbm out freeIdx s.pending =
      mix M s ⟨s.part, s.regs, tt, head, boot, pwr, fc, host, hh, sec, tbl, au, ce, csi, isp, s.tiles, stems, mem, queues, s.hbm, out,
        freeIdx, s.pending⟩)
    (h0 : s.Keyed → State.Keyed
      ⟨s.part, s.regs, tt, head, boot, pwr, fc, host, hh, sec, tbl, au, ce, csi, isp, s.tiles, stems, mem, queues, s.hbm, out, freeIdx,
        s.pending⟩ := by
      first
        | exact id
        | (intro k; obtain ⟨k1, k2, k3, k4, k5, k6, k7, k8, k9, k10, k11, k12⟩ := k
           constructor <;> first | assumption | exact rfl | (apply sortedKeys_sset; assumption) | (apply sortedKeys_filter; assumption) |
             (apply sortedKeys_sdel; assumption) | (apply sortedKeys_sput; assumption))) :
    Keeps N s₀
      ⟨s.part, s.regs, tt, head, boot, pwr, fc, host, hh, sec, tbl, au, ce, csi, isp, s.tiles, stems, mem, queues, s.hbm, out,
      freeIdx, s.pending⟩ := by
  refine ⟨?_, h.change hN e⟩
  dsimp only; rw [h1, h2]
  exact ⟨h.base.fuses, fun c => ⟨(h.base.canon c).1, (h.base.canon c).2.1, (h.base.canon c).2.2.1, (h.base.canon c).2.2.2.1,
    (h.base.canon c).2.2.2.2.1, h0 (h.base.canon c).2.2.2.2.2⟩, h.base.queue⟩

/-- A part of the register file is removed. -/
theorem Keeps.updateRegs (M : Nat) {p : Nat × Word → Bool} (hN : Within M N) (h : Keeps N s₀ s) (h1 : boot.staging = s.boot.staging)
    (h2 : ce.sram = s.ce.sram)
    (e : State.mk s.part (s.regs.filter p) tt head boot pwr fc host hh sec tbl au ce csi isp s.tiles stems mem queues s.hbm out freeIdx
        s.pending =
      mix M s ⟨s.part, s.regs.filter p, tt, head, boot, pwr, fc, host, hh, sec, tbl, au, ce, csi, isp, s.tiles, stems, mem, queues,
        s.hbm, out, freeIdx, s.pending⟩)
    (h0 : s.Keyed → State.Keyed
      ⟨s.part, s.regs.filter p, tt, head, boot, pwr, fc, host, hh, sec, tbl, au, ce, csi, isp, s.tiles, stems, mem, queues, s.hbm, out, freeIdx,
        s.pending⟩ := by
      first
        | exact id
        | (intro k; obtain ⟨k1, k2, k3, k4, k5, k6, k7, k8, k9, k10, k11, k12⟩ := k
           constructor <;> first | assumption | exact rfl | (apply sortedKeys_sset; assumption) | (apply sortedKeys_filter; assumption) |
             (apply sortedKeys_sdel; assumption) | (apply sortedKeys_sput; assumption))) :
    Keeps N s₀
      ⟨s.part, s.regs.filter p, tt, head, boot, pwr, fc, host, hh, sec, tbl, au, ce, csi, isp, s.tiles, stems, mem, queues,
      s.hbm, out, freeIdx, s.pending⟩ := by
  refine ⟨?_, h.change hN e⟩
  dsimp only; rw [h1, h2]
  exact ⟨h.base.fuses, fun c => ⟨Regs.wf_filter (h.base.canon c).1, (h.base.canon c).2.1, (h.base.canon c).2.2.1,
    (h.base.canon c).2.2.2.1, (h.base.canon c).2.2.2.2.1, h0 (h.base.canon c).2.2.2.2.2⟩, h.base.queue⟩

/-- A change of the memories that leaves each canonical. -/
theorem Keeps.updateMem (M : Nat) {hbm : List Host.Cell} (hN : Within M N) (h : Keeps N s₀ s)
    (h1 : Memory.wf s.hbm = true → Memory.wf hbm = true) (h2 : Memory.wf s.boot.staging = true → Memory.wf boot.staging = true)
    (h3 : Memory.wf s.ce.sram = true → Memory.wf ce.sram = true)
    (e : State.mk s.part s.regs tt head boot pwr fc host hh sec tbl au ce csi isp s.tiles stems mem queues hbm out freeIdx s.pending =
      mix M s ⟨s.part, s.regs, tt, head, boot, pwr, fc, host, hh, sec, tbl, au, ce, csi, isp, s.tiles, stems, mem, queues, hbm, out,
        freeIdx, s.pending⟩)
    (h0 : s.Keyed → State.Keyed
      ⟨s.part, s.regs, tt, head, boot, pwr, fc, host, hh, sec, tbl, au, ce, csi, isp, s.tiles, stems, mem, queues, hbm, out, freeIdx,
        s.pending⟩ := by
      first
        | exact id
        | (intro k; obtain ⟨k1, k2, k3, k4, k5, k6, k7, k8, k9, k10, k11, k12⟩ := k
           constructor <;> first | assumption | exact rfl | (apply sortedKeys_sset; assumption) | (apply sortedKeys_filter; assumption) |
             (apply sortedKeys_sdel; assumption) | (apply sortedKeys_sput; assumption))) :
    Keeps N s₀
      ⟨s.part, s.regs, tt, head, boot, pwr, fc, host, hh, sec, tbl, au, ce, csi, isp, s.tiles, stems, mem, queues, hbm, out,
      freeIdx, s.pending⟩ := by
  refine ⟨⟨h.base.fuses, fun c => ?_, h.base.queue⟩, h.change hN e⟩
  obtain ⟨a, b, d, e, f, k⟩ := h.base.canon c
  exact ⟨a, h1 b, h2 d, h3 e, f, h0 k⟩

end

theorem Keeps.ite {N : Nat} {s₀ s t : State} {c : Prop} [Decidable c] (h1 : Keeps N s₀ s) (h2 : Keeps N s₀ t) :
    Keeps N s₀ (if c then s else t) := by
  split <;> assumption

/-- Anti-rollback counters play no part in reset values. -/
theorem Regs.wf_arb (q : Part) (x : List Nat) (l : List (Nat × Word)) : Regs.wf { q with arb := x } l = Regs.wf q l := rfl

/-- A fold of steps that each keep. -/
theorem Keeps.foldl {β : Type} {N : Nat} {s₀ s : State} {f : State → β → State} {l : List β}
    (hf : ∀ t b, Keeps N s₀ t → Keeps N s₀ (f t b)) (h : Keeps N s₀ s) : Keeps N s₀ (l.foldl f s) := by
  induction l generalizing s with
  | nil => exact h
  | cons b r ih => exact ih (hf _ _ h)

/-- A fold that carries a state beside another value. -/
theorem Keeps.foldl_snd {β γ : Type} {N : Nat} {s₀ : State} {s : γ × State} {f : γ × State → β → γ × State} {l : List β}
    (hf : ∀ t b, Keeps N s₀ t.2 → Keeps N s₀ (f t b).2) (h : Keeps N s₀ s.2) : Keeps N s₀ (l.foldl f s).2 := by
  induction l generalizing s with
  | nil => exact h
  | cons b r ih => exact ih (hf _ _ h)

variable {N : Nat} {s₀ s : State}

/-- Both branches keep what is kept. -/
theorem keeps_ite {c : Prop} [Decidable c] {t u : State} (ht : Keeps N s₀ t) (hu : Keeps N s₀ u) : Keeps N s₀ (if c then t else u) := by
  split
  · exact ht
  · exact hu

theorem keeps_setReg (hN : Within 0x2 N) (a : Nat) (v : Word) (h : Keeps N s₀ s) : Keeps N s₀ (setReg a v s) :=
  ⟨⟨h.base.fuses, fun c => ⟨Regs.wf_sset (h.base.canon c).1, (h.base.canon c).2.1, (h.base.canon c).2.2.1,
    (h.base.canon c).2.2.2.1, (h.base.canon c).2.2.2.2.1, { (h.base.canon c).2.2.2.2.2 with }⟩, h.base.queue⟩, h.change hN rfl⟩

theorem keeps_memWrite (hN : Within 0x80000 N) (a : Nat) (bs : List Byte) (h : Keeps N s₀ s) : Keeps N s₀ (memWrite a bs s) :=
  Keeps.updateMem 0x80000 hN h Memory.wf_cellsWrite id id rfl

theorem keeps_setTile (hN : Within 0x8000 N) (t : Nat) (x : TileSt) (h : Keeps N s₀ s)
    (hx : s₀.Canonical → Memory.wf x.sram = true) : Keeps N s₀ (setTile t x s) := by
  refine ⟨⟨h.base.fuses, fun c => ?_, h.base.queue⟩, h.change hN rfl⟩
  obtain ⟨a, b, d, e, f, k⟩ := h.base.canon c
  refine ⟨a, b, d, e, fun y hy => ?_, { k with tiles := sortedKeys_sset k.tiles }⟩
  rcases mem_sset hy with ⟨rfl, _⟩ | hy
  · exact hx c
  · exact f y hy

theorem mem_of_sget {α : Type} {d : α} {l : List (Nat × α)} {a : Nat} : sget d l a = d ∨ ∃ e ∈ l, e.2 = sget d l a := by
  induction l with
  | nil => exact Or.inl rfl
  | cons f r ih =>
    simp only [sget]
    split
    · exact Or.inr ⟨f, List.mem_cons_self .., rfl⟩
    · rcases ih with h | ⟨e, he, h⟩
      · exact Or.inl h
      · exact Or.inr ⟨e, List.mem_cons_of_mem _ he, h⟩

/-- A tile's SRAM is canonical where the state is. -/
theorem tileOf_sram_wf (t : Nat) (h : Keeps N s₀ s) (c : s₀.Canonical) : Memory.wf (tileOf s t).sram = true := by
  unfold tileOf
  rcases mem_of_sget (d := TileSt.empty) (l := s.tiles) (a := t) with e | ⟨e, he, e'⟩
  · rw [e]; rfl
  · rw [← e']; exact (h.base.canon c).2.2.2.2.1 e he

theorem keeps_updTile (hN : Within 0x8000 N) (t : Nat) (f : TileSt → TileSt) (h : Keeps N s₀ s)
    (hf : ∀ x, Memory.wf x.sram = true → Memory.wf (f x).sram = true) :
    Keeps N s₀ (updTile t f s) := keeps_setTile hN t _ h fun c => hf _ (tileOf_sram_wf t h c)

/-- A stem engine's SRAM is canonical where the state is. -/
theorem stemOf_sram_wf (d : Nat) (h : Keeps N s₀ s) (c : s₀.Canonical) : Memory.wf (stemOf s d).sram = true := by
  unfold stemOf
  rcases mem_of_sget (d := StemSt.empty) (l := s.stems) (a := d) with e | ⟨e, he, e'⟩
  · rw [e]; rfl
  · rw [← e']; exact (h.base.canon c).2.2.2.2.2.stemSram e he

theorem keeps_updStem (hN : Within 0x10000 N) (d : Nat) (f : StemSt → StemSt) (h : Keeps N s₀ s)
    (hf : ∀ x, Memory.wf x.sram = true → Memory.wf (f x).sram = true) : Keeps N s₀ (updStem d f s) := by
  refine ⟨⟨h.base.fuses, fun c => ?_, h.base.queue⟩, h.change hN rfl⟩
  obtain ⟨a, b, e, g, i, k⟩ := h.base.canon c
  refine ⟨a, b, e, g, i, { k with stems := sortedKeys_sset k.stems, stemSram := fun y hy => ?_ }⟩
  rcases mem_sset hy with ⟨rfl, _⟩ | hy
  · exact hf _ (stemOf_sram_wf d h c)
  · exact k.stemSram y hy

/-! ## Fuses that burn -/

theorem testBit_updNth (n k j : Nat) (l : List Nat) (i : Nat) (h : (l.getD k 0).testBit j = true) :
    ((updNth (fun o => o ||| n) l i).getD k 0).testBit j = true := by
  induction l generalizing i k with
  | nil => exact h
  | cons x r ih =>
    cases i with
    | zero =>
      cases k with
      | zero => exact (Nat.testBit_or x n j).trans (by rw [show x.testBit j = true from h]; rfl)
      | succ k => exact h
    | succ i =>
      cases k with
      | zero => exact h
      | succ k => exact ih k i h

theorem length_updNth {α : Type} (f : α → α) (l : List α) (i : Nat) : (updNth f l i).length = l.length := by
  induction l generalizing i with
  | nil => rfl
  | cons x r ih => cases i <;> simp [updNth, ih]

theorem Part.burnt_updNth {p q : Part} (n i : Nat) (h : Part.burnt p q) :
    Part.burnt p { q with arb := updNth (fun o => o ||| n) q.arb i } :=
  ⟨by have := h.1; rw [this], by rw [length_updNth]; exact h.2.1, fun k j b => testBit_updNth n k j q.arb i (h.2.2 k j b)⟩

end Sys2Proof.Machine
end

