-- ==== Sys2Proof/Laws/KeepsA.lean ====
section
/-! SUPPORT. What every operation keeps (Keeps.lean), for the operations of Ops.lean, Record.lean, Access.lean, TableTime.lean, Wake.lean,
CallEngine.lean, Acoustic.lean, QueueState.lean. -/
namespace Sys2Proof.Machine
set_option Elab.async false

variable {s₀ : State} {N : Nat}

theorem keeps_wr (hN : Within 0x2 N) (p : Page) (off : ℕ) (v : Word) (s : State) (hs : Keeps N s₀ s) : Keeps N s₀ (wr p off v s) := by
  unfold wr; apply keeps_setReg (hN.via rfl); exact hs

theorem keeps_setFld (hN : Within 0x2 N) (p : Page) (off lo w x : ℕ) (s : State) (hs : Keeps N s₀ s)
    : Keeps N s₀ (setFld p off lo w x s) := by
  unfold setFld; apply keeps_wr (hN.via rfl); exact hs

theorem keeps_setFlag (hN : Within 0x2 N) (p : Page) (off b : ℕ) (v : Bool) (s : State) (hs : Keeps N s₀ s)
    : Keeps N s₀ (setFlag p off b v s) := by
  unfold setFlag; apply keeps_setFld (hN.via rfl); exact hs

theorem keeps_noteCount (hN : Within 0x8 N) (a k : ℕ) (s : State) (hs : Keeps N s₀ s) : Keeps N s₀ (noteCount a k s) := by
  unfold noteCount; refine Keeps.update 0x8 (hN.via rfl) ?_ rfl rfl rfl; exact hs

theorem keeps_bump (hN : Within 0xa N) (p : Page) (off k : ℕ) (s : State) (hs : Keeps N s₀ s) : Keeps N s₀ (bump p off k s) := by
  unfold bump; apply keeps_noteCount (hN.via rfl); apply keeps_wr (hN.via rfl); exact hs

theorem keeps_resetPage (hN : Within 0x2 N) (p : Page) (keep : List ℕ) (s : State) (hs : Keeps N s₀ s)
    : Keeps N s₀ (resetPage p keep s) := by
  unfold resetPage; refine Keeps.updateRegs 0x2 (hN.via rfl) ?_ rfl rfl rfl; exact hs

theorem keeps_clearCounters (hN : Within 0x2 N) (p : Page) (s : State) (hs : Keeps N s₀ s) : Keeps N s₀ (clearCounters p s) := by
  unfold clearCounters; apply Keeps.foldl
  · intro z1 z2 h3; apply keeps_wr (hN.via rfl); exact h3
  · exact hs

theorem keeps_noteSet (hN : Within 0x8 N) (a b : ℕ) (s : State) (hs : Keeps N s₀ s) : Keeps N s₀ (noteSet a b s) := by
  unfold noteSet; refine Keeps.update 0x8 (hN.via rfl) ?_ rfl rfl rfl; exact hs

theorem keeps_raise (hN : Within 0xa N) (p : Page) (b : ℕ) (s : State) (hs : Keeps N s₀ s) : Keeps N s₀ (raise p b s) := by
  unfold raise; apply keeps_ite
  · apply keeps_noteSet (hN.via rfl); apply keeps_setFlag (hN.via rfl); exact hs
  · exact hs

theorem keeps_refuse (hN : Within 0xa N) (p : Page) (counter : ℕ) (s : State) (hs : Keeps N s₀ s)
    : Keeps N s₀ (refuse p counter s) := by
  unfold refuse; apply keeps_bump (hN.via rfl); exact hs

theorem keeps_emit (hN : Within 0x100000 N) (o : Out) (s : State) (hs : Keeps N s₀ s) : Keeps N s₀ (emit o s) := by
  unfold emit; refine Keeps.update 0x100000 (hN.via rfl) ?_ rfl rfl rfl; exact hs

theorem keeps_fresh (hN : Within 0x200000 N) (s : State) (hs : Keeps N s₀ s) : Keeps N s₀ (fresh s).2 := by
  unfold fresh; dsimp -zeta only; refine Keeps.update 0x200000 (hN.via rfl) ?_ rfl rfl rfl; exact hs

theorem keeps_tdiRefuse (hN : Within 0xa N) (s : State) (hs : Keeps N s₀ s) : Keeps N s₀ (tdiRefuse s) := by
  unfold tdiRefuse; apply keeps_bump (hN.via rfl); exact hs

theorem keeps_hostSend (hN : Within 0x100080 N) (fn : ℕ) (o : Out) (s : State) (hs : Keeps N s₀ s) : Keeps N s₀ (hostSend fn o s) := by
  unfold hostSend; apply keeps_ite
  · apply keeps_emit (hN.via rfl); exact hs
  · refine Keeps.update 0x80 (hN.via rfl) ?_ rfl rfl rfl; exact hs

theorem keeps_hostSends (hN : Within 0x100080 N) (s : State) (hs : Keeps N s₀ s) : Keeps N s₀ (hostSends s) := by
  unfold hostSends; extract_lets +onlyGivenNames y1; clear_value y1; extract_lets +onlyGivenNames y2; clear_value y2
  apply Keeps.foldl
  · intro z3 z4 h5; apply keeps_emit (hN.via rfl); exact h5
  · refine Keeps.update 0x80 (hN.via rfl) ?_ rfl rfl rfl; exact hs

theorem keeps_hold (hN : Within 0x80 N) (r : HostReq) (s : State) (hs : Keeps N s₀ s) : Keeps N s₀ (hold r s) := by
  unfold hold; refine Keeps.update 0x80 (hN.via rfl) ?_ rfl rfl rfl; exact hs

theorem keeps_formRec (hN : Within 0x4a N) (r : FaultRec) (s : State) (hs : Keeps N s₀ s) : Keeps N s₀ (formRec r s) := by
  unfold formRec; extract_lets +onlyGivenNames y1; clear_value y1; extract_lets +onlyGivenNames y2; clear_value y2
  extract_lets +onlyGivenNames y3; clear_value y3; extract_lets +onlyGivenNames y4; clear_value y4
  extract_lets +onlyGivenNames y5; clear_value y5; extract_lets +onlyGivenNames y6; clear_value y6
  extract_lets +onlyGivenNames y7; extract_lets +onlyGivenNames y8
  have h9 : Keeps N s₀ y8 := by
    unfold y8; refine Keeps.update 0x40 (hN.via rfl) ?_ rfl rfl rfl; exact hs
  clear_value y8; extract_lets +onlyGivenNames y10
  have h11 : Keeps N s₀ y10 := by
    unfold y10; apply keeps_raise (hN.via rfl); apply keeps_bump (hN.via rfl); exact h9
  clear_value y10; apply keeps_ite
  · apply keeps_raise (hN.via rfl); apply keeps_bump (hN.via rfl); exact h11
  · exact h11

theorem keeps_accessError (hN : Within 0x4a N) (kind : ℕ) (w : Func) (a : ℕ) (s : State) (hs : Keeps N s₀ s)
    : Keeps N s₀ (accessError kind w a s) := by
  unfold accessError; extract_lets +onlyGivenNames y1; clear_value y1; extract_lets +onlyGivenNames y2
  clear_value y2; apply keeps_formRec (hN.via rfl); apply keeps_bump (hN.via rfl); exact hs

theorem keeps_formCorrected (hN : Within 0x4a N) (r : FaultRec) (s : State) (hs : Keeps N s₀ s) : Keeps N s₀ (formCorrected r s) := by
  unfold formCorrected; extract_lets +onlyGivenNames y1; clear_value y1; extract_lets +onlyGivenNames y2
  clear_value y2; apply keeps_ite
  · apply keeps_formRec (hN.via rfl); refine Keeps.update 0x40 (hN.via rfl) ?_ rfl rfl rfl; exact hs
  · apply keeps_bump (hN.via rfl); exact hs

theorem keeps_startCmd (hN : Within 0x8 N) (p : Page) (id : ℕ) (s : State) (hs : Keeps N s₀ s) : Keeps N s₀ (startCmd p id s) := by
  unfold startCmd; extract_lets +onlyGivenNames y1; refine Keeps.update 0x8 (hN.via rfl) ?_ rfl rfl rfl; exact hs

theorem keeps_endCmd (hN : Within 0x8 N) (p : Page) (id : ℕ) (s : State) (hs : Keeps N s₀ s) : Keeps N s₀ (endCmd p id s) := by
  unfold endCmd; refine Keeps.update 0x8 (hN.via rfl) ?_ rfl rfl rfl; exact hs

theorem keeps_endAllCmds (hN : Within 0x8 N) (p : Page) (s : State) (hs : Keeps N s₀ s) : Keeps N s₀ (endAllCmds p s) := by
  unfold endAllCmds; refine Keeps.update 0x8 (hN.via rfl) ?_ rfl rfl rfl; exact hs

theorem keeps_raiseVector (hN : Within 0x100080 N) (fn v : ℕ) (s : State) (hs : Keeps N s₀ s) : Keeps N s₀ (raiseVector fn v s) := by
  unfold raiseVector; apply keeps_ite
  · exact hs
  · apply keeps_ite
    · apply keeps_ite
      · exact hs
      · refine Keeps.update 0x80 (hN.via rfl) ?_ rfl rfl rfl; exact hs
    · apply keeps_emit (hN.via rfl); exact hs

theorem keeps_signalPage (hN : Within 0x100080 N) (base : ℕ) (s : State) (hs : Keeps N s₀ s) : Keeps N s₀ (signalPage base s) := by
  unfold signalPage; extract_lets +onlyGivenNames y1; clear_value y1; apply keeps_ite
  · exact hs
  · extract_lets +onlyGivenNames y2
    have h3 : Keeps N s₀ y2 := by
      unfold y2; apply keeps_ite
      · apply keeps_raiseVector (hN.via rfl); exact hs
      · exact hs
    clear_value y2; apply keeps_ite
    · apply keeps_emit (hN.via rfl); exact h3
    · exact h3

theorem keeps_endOfBeatSignals (hN : Within 0x100088 N) (s : State) (hs : Keeps N s₀ s) : Keeps N s₀ (endOfBeatSignals s) := by
  unfold endOfBeatSignals; extract_lets +onlyGivenNames y1; clear_value y1; extract_lets +onlyGivenNames y2
  clear_value y2; extract_lets +onlyGivenNames y3
  have h4 : Keeps N s₀ y3 := by
    unfold y3; apply Keeps.foldl
    · intro z5 z6 h7; apply keeps_signalPage (hN.via rfl); exact h7
    · exact hs
  clear_value y3; refine Keeps.update 0x8 (hN.via rfl) ?_ rfl rfl rfl; exact h4

theorem keeps_noteWritten (hN : Within 0x8 N) (p : Page) (s : State) (hs : Keeps N s₀ s) : Keeps N s₀ (noteWritten p s) := by
  unfold noteWritten; apply keeps_ite
  · exact hs
  · refine Keeps.update 0x8 (hN.via rfl) ?_ rfl rfl rfl; exact hs

theorem keeps_hhLose (hN : Within 0x10a N) (s : State) (hs : Keeps N s₀ s) : Keeps N s₀ (hhLose s) := by
  unfold hhLose; apply keeps_bump (hN.via rfl); refine Keeps.update 0x100 (hN.via rfl) ?_ rfl rfl rfl; exact hs

theorem keeps_hhCapture1 (hN : Within 0x10a N) (r : HistRec) (s : State) (hs : Keeps N s₀ s) : Keeps N s₀ (hhCapture1 r s) := by
  unfold hhCapture1; apply keeps_ite
  · apply keeps_hhLose (hN.via rfl); exact hs
  · refine Keeps.update 0x100 (hN.via rfl) ?_ rfl rfl rfl; exact hs

theorem keeps_hhInput (hN : Within 0x10a N) (kind flags island unit : ℕ) (payload : List Byte) (s : State) (hs : Keeps N s₀ s)
    : Keeps N s₀ (hhInput kind flags island unit payload s) := by
  unfold hhInput; apply keeps_ite
  · apply Keeps.foldl
    · intro z1 z2 h3; apply keeps_hhCapture1 (hN.via rfl); exact h3
    · exact hs
  · exact hs

theorem keeps_hhCapture (hN : Within 0x10a N) (kind island unit : ℕ) (payload : List Byte) (s : State) (hs : Keeps N s₀ s)
    : Keeps N s₀ (hhCapture kind island unit payload s) := by
  unfold hhCapture; apply keeps_hhInput (hN.via rfl); exact hs

theorem keeps_wr64 (hN : Within 0x2 N) (p : Page) (lo hi v : ℕ) (s : State) (hs : Keeps N s₀ s) : Keeps N s₀ (wr64 p lo hi v s) := by
  unfold wr64; apply keeps_wr (hN.via rfl); apply keeps_wr (hN.via rfl); exact hs

theorem keeps_ringDenied (hN : Within 0xa N) (s : State) (hs : Keeps N s₀ s) : Keeps N s₀ (ringDenied s) := by
  unfold ringDenied; apply keeps_bump (hN.via rfl); exact hs

theorem keeps_ringBytes (hN : Within 0x18010a N) (bs : List Byte) (s : State) (hs : Keeps N s₀ s) : Keeps N s₀ (ringBytes bs s) := by
  unfold ringBytes; extract_lets +onlyGivenNames y1; clear_value y1; extract_lets +onlyGivenNames y2
  have h3 : Keeps N s₀ y2 := by
    unfold y2; apply keeps_ite
    · apply keeps_emit (hN.via rfl); exact hs
    · apply keeps_ite
      · apply keeps_memWrite (hN.via rfl); exact hs
      · apply keeps_ringDenied (hN.via rfl); exact hs
  clear_value y2; extract_lets +onlyGivenNames y4; clear_value y4; extract_lets +onlyGivenNames y5
  have h6 : Keeps N s₀ y5 := by
    unfold y5; apply keeps_wr64 (hN.via rfl); exact h3
  clear_value y5; apply keeps_bump (hN.via rfl); refine Keeps.update 0x100 (hN.via rfl) ?_ rfl rfl rfl; exact h6

theorem keeps_hhPut (hN : Within 0x18010a N) (r : HistRec) (s : State) (hs : Keeps N s₀ s) : Keeps N s₀ (hhPut r s) := by
  unfold hhPut; extract_lets +onlyGivenNames y1; clear_value y1; extract_lets +onlyGivenNames y2; clear_value y2
  extract_lets +onlyGivenNames y3; clear_value y3; extract_lets +onlyGivenNames y4; clear_value y4
  extract_lets +onlyGivenNames y5; clear_value y5; apply keeps_ite
  · apply keeps_hhLose (hN.via rfl); exact hs
  · extract_lets +onlyGivenNames y6; clear_value y6; extract_lets +onlyGivenNames y7
    extract_lets +onlyGivenNames y8
    have h9 : Keeps N s₀ y8 := by
      unfold y8; apply keeps_ite
      · exact hs
      · apply keeps_wr64 (hN.via rfl); refine Keeps.update 0x100 (hN.via rfl) ?_ rfl rfl rfl; exact hs
    clear_value y8; extract_lets +onlyGivenNames y10
    have h11 : Keeps N s₀ y10 := by
      unfold y10; apply keeps_ite
      · exact h9
      · apply keeps_ringBytes (hN.via rfl); exact h9
    clear_value y10; extract_lets +onlyGivenNames y12; extract_lets +onlyGivenNames y13
    have h14 : Keeps N s₀ y13 := by
      unfold y13; apply keeps_ite
      · apply keeps_wr64 (hN.via rfl); refine Keeps.update 0x100 (hN.via rfl) ?_ rfl rfl rfl; exact h11
      · exact h11
    clear_value y13; extract_lets +onlyGivenNames y15
    have h16 : Keeps N s₀ y15 := by
      unfold y15; apply keeps_ringBytes (hN.via rfl); exact h14
    clear_value y15; apply keeps_bump (hN.via rfl); refine Keeps.update 0x100 (hN.via rfl) ?_ rfl rfl rfl; exact h16

theorem keeps_hhGap (hN : Within 0x18010a N) (lost tt : ℕ) (s : State) (hs : Keeps N s₀ s) : Keeps N s₀ (hhGap lost tt s) := by
  unfold hhGap; apply keeps_bump (hN.via rfl); apply keeps_setFlag (hN.via rfl); apply keeps_raise (hN.via rfl)
  apply keeps_hhPut (hN.via rfl); exact hs

theorem keeps_hhWrite (hN : Within 0x18010a N) (r : HistRec) (s : State) (hs : Keeps N s₀ s) : Keeps N s₀ (hhWrite r s) := by
  unfold hhWrite; apply keeps_ite
  · apply keeps_hhPut (hN.via rfl); exact hs
  · apply keeps_ite
    · apply keeps_hhLose (hN.via rfl); exact hs
    · extract_lets +onlyGivenNames y1
      have h2 : Keeps N s₀ y1 := by
        unfold y1; apply keeps_hhGap (hN.via rfl); exact hs
      clear_value y1; apply keeps_hhPut (hN.via rfl); refine Keeps.update 0x100 (hN.via rfl) ?_ rfl rfl rfl
      exact h2

theorem keeps_hhFlush (hN : Within 0x18010a N) (s : State) (hs : Keeps N s₀ s) : Keeps N s₀ (hhFlush s) := by
  unfold hhFlush; apply keeps_ite
  · exact hs
  · apply Keeps.foldl
    · intro z1 z2 h3; apply keeps_hhWrite (hN.via rfl); exact h3
    · refine Keeps.update 0x100 (hN.via rfl) ?_ rfl rfl rfl; exact hs

theorem keeps_recordWrite (hN : Within 0x10a N) (w : Func) (p : Page) (off : ℕ) (v : Word) (s : State) (hs : Keeps N s₀ s)
    : Keeps N s₀ (recordWrite w p off v s) := by
  unfold recordWrite; apply keeps_ite
  · exact hs
  · apply keeps_hhCapture (hN.via rfl); exact hs

theorem keeps_applied (hN : Within 0xa N) (w : Func) (p : Page) (off : ℕ) (k : State → State) (s : State)
    (hs : ∀ z0, Keeps N s₀ z0 → Keeps N s₀ (k z0)) (hs1 : Keeps N s₀ s) : Keeps N s₀ (applied w p off k s) := by
  unfold applied; extract_lets +onlyGivenNames y1; clear_value y1; apply keeps_ite
  · extract_lets +onlyGivenNames y2
    have h3 : Keeps N s₀ y2 := by
      unfold y2; apply hs; exact hs1
    clear_value y2; apply keeps_ite
    · exact h3
    · refine Keeps.update 0x8 (hN.via rfl) ?_ rfl rfl rfl; exact h3
  · apply keeps_ite
    · extract_lets +onlyGivenNames y4; clear_value y4; extract_lets +onlyGivenNames y5
      have h6 : Keeps N s₀ y5 := by
        unfold y5; apply hs; exact hs1
      clear_value y5; apply keeps_wr (hN.via rfl); exact h6
    · apply hs; exact hs1

theorem keeps_accessWith (hN : Within 0x1001ca N) (list : List Byte) (w : Func) (p : Page) (off : ℕ) (v : Word) (k : State → State)
    (s : State) (hs : ∀ z0, Keeps N s₀ z0 → Keeps N s₀ (k z0)) (hs1 : Keeps N s₀ s) : Keeps N s₀ (accessWith list w p off v k s) := by
  unfold accessWith; extract_lets +onlyGivenNames y1; clear_value y1; apply keeps_ite
  · apply keeps_bump (hN.via rfl); exact hs1
  · extract_lets +onlyGivenNames y2
    have h3 : Keeps N s₀ y2 := by
      unfold y2; apply keeps_ite
      · apply keeps_recordWrite (hN.via rfl); exact hs1
      · exact hs1
    clear_value y2
    split
    · apply keeps_applied (hN.via rfl)
      · intro z4 h5; apply hs; exact h5
      · exact h3
    · apply keeps_accessError (hN.via rfl); exact h3
    · apply keeps_emit (hN.via rfl); exact h3
    · apply keeps_hold (hN.via rfl); exact h3
    · exact h3
    · exact h3

theorem keeps_access (hN : Within 0x1001ca N) (w : Func) (p : Page) (off : ℕ) (v : Word) (k : State → State) (s : State)
    (hs : ∀ z0, Keeps N s₀ z0 → Keeps N s₀ (k z0)) (hs1 : Keeps N s₀ s) : Keeps N s₀ (access w p off v k s) := by
  unfold access; apply keeps_accessWith (hN.via rfl)
  · intro z1 h2; apply hs; exact h2
  · exact hs1

theorem keeps_readAccess (hN : Within 0x100080 N) (w : Func) (p : Page) (off : ℕ) (k : State → ℕ × State) (s : State)
    (hs : ∀ z0, Keeps N s₀ z0 → Keeps N s₀ (k z0).2) (hs1 : Keeps N s₀ s) : Keeps N s₀ (readAccess w p off k s) := by
  unfold readAccess
  split
  · apply keeps_emit (hN.via rfl); exact hs1
  · apply keeps_hold (hN.via rfl); exact hs1
  · exact hs1
  · apply keeps_ite
    · apply keeps_emit (hN.via rfl); exact hs1
    · apply keeps_ite
      · apply keeps_hold (hN.via rfl); exact hs1
      · extract_lets +onlyGivenNames y1
        have h2 : Keeps N s₀ y1.2 := by
          unfold y1; apply hs; exact hs1
        clear_value y1; apply keeps_emit (hN.via rfl); exact h2

theorem keeps_unlessVf (hN : Within 0x0 N) (w : Func) (k : State → State) (s : State) (hs : ∀ z0, Keeps N s₀ z0 → Keeps N s₀ (k z0))
    (hs1 : Keeps N s₀ s) : Keeps N s₀ (unlessVf w k s) := by
  unfold unlessVf
  split
  · exact hs1
  · apply hs; exact hs1

theorem keeps_plainWrite (hN : Within 0x2 N) (p : Page) (off : ℕ) (v : Word) (s : State) (hs : Keeps N s₀ s)
    : Keeps N s₀ (plainWrite p off v s) := by
  unfold plainWrite
  split
  · exact hs
  · extract_lets +onlyGivenNames y1; clear_value y1; extract_lets +onlyGivenNames y2; clear_value y2
    extract_lets +onlyGivenNames y3; clear_value y3; apply keeps_wr (hN.via rfl); exact hs

theorem keeps_commitMsg (hN : Within 0x4 N) (c : Commit) (s : State) (hs : Keeps N s₀ s) : Keeps N s₀ (commitMsg c s) := by
  unfold commitMsg; refine Keeps.update 0x4 (hN.via rfl) ?_ rfl rfl rfl; exact hs

theorem keeps_flitsPass (hN : Within 0xa N) (a b n : ℕ) (s : State) (hs : Keeps N s₀ s) : Keeps N s₀ (flitsPass a b n s) := by
  unfold flitsPass; extract_lets +onlyGivenNames y1
  have h2 : Keeps N s₀ y1 := by
    unfold y1; apply Keeps.foldl
    · intro z3 z4 h5; apply keeps_bump (hN.via rfl); exact h5
    · exact hs
  clear_value y1; apply Keeps.foldl
  · intro z6 z7 h8; apply keeps_bump (hN.via rfl); exact h8
  · exact h2

theorem keeps_countFlits (hN : Within 0xa N) (src dst : ℕ) (s : State) (hs : Keeps N s₀ s) : Keeps N s₀ (countFlits src dst s) := by
  unfold countFlits; apply keeps_flitsPass (hN.via rfl); exact hs

theorem keeps_execCrossingCommit (hN : Within 0xe N) (src dst stamp : ℕ) (payload : Payload) (s : State) (hs : Keeps N s₀ s)
    : Keeps N s₀ (execCrossingCommit src dst stamp payload s) := by
  unfold execCrossingCommit; extract_lets +onlyGivenNames y1; clear_value y1; extract_lets +onlyGivenNames y2
  clear_value y2; apply keeps_ite
  · exact hs
  · apply keeps_ite
    · apply keeps_countFlits (hN.via rfl); apply keeps_commitMsg (hN.via rfl); exact hs
    · apply keeps_ite
      · apply keeps_countFlits (hN.via rfl); apply keeps_commitMsg (hN.via rfl); exact hs
      · exact hs

theorem keeps_lateMark (hN : Within 0x10e N) (src dst sent : ℕ) (s : State) (hs : Keeps N s₀ s)
    : Keeps N s₀ (lateMark src dst sent s) := by
  unfold lateMark; apply keeps_hhCapture (hN.via rfl); apply keeps_bump (hN.via rfl); apply keeps_raise (hN.via rfl)
  refine Keeps.update 0x4 (hN.via rfl) ?_ rfl rfl rfl; exact hs

theorem keeps_execLateCommit (hN : Within 0x10e N) (src dst stamp : ℕ) (payload : Payload) (s : State) (hs : Keeps N s₀ s)
    : Keeps N s₀ (execLateCommit src dst stamp payload s) := by
  unfold execLateCommit; extract_lets +onlyGivenNames y1; clear_value y1; apply keeps_ite
  · apply keeps_lateMark (hN.via rfl); apply keeps_countFlits (hN.via rfl); apply keeps_commitMsg (hN.via rfl)
    exact hs
  · exact hs

theorem keeps_execRelaxMaskWrite (hN : Within 0x1001ca N) (w : Func) (k : ℕ) (v : Word) (s : State) (hs : Keeps N s₀ s)
    : Keeps N s₀ (execRelaxMaskWrite w k v s) := by
  unfold execRelaxMaskWrite; extract_lets +onlyGivenNames y1; clear_value y1; apply keeps_access (hN.via rfl)
  · intro z2 h3; apply keeps_plainWrite (hN.via rfl); exact h3
  · exact hs

theorem keeps_applyRelax (hN : Within 0x10e N) (s : State) (hs : Keeps N s₀ s) : Keeps N s₀ (applyRelax s) := by
  unfold applyRelax; extract_lets +onlyGivenNames y1; clear_value y1; apply keeps_ite
  · exact hs
  · apply keeps_hhCapture (hN.via rfl); refine Keeps.update 0x4 (hN.via rfl) ?_ rfl rfl rfl; exact hs

theorem keeps_ttCtrl (hN : Within 0x4e N) (w : Func) (load step disciplined : Bool) (s : State) (hs : Keeps N s₀ s)
    : Keeps N s₀ (ttCtrl w load step disciplined s) := by
  unfold ttCtrl; extract_lets +onlyGivenNames y1; clear_value y1; extract_lets +onlyGivenNames y2
  have h3 : ∀ z0 z1, Keeps N s₀ z1 → Keeps N s₀ (y2 z0 z1) := by
    intro z4 z5 h6; unfold y2; refine Keeps.update 0x4 (hN.via rfl) ?_ rfl rfl rfl; exact h6
  clear_value y2; extract_lets +onlyGivenNames y7
  have h8 : ∀ z0, Keeps N s₀ z0 → Keeps N s₀ (y7 z0) := by
    intro z9 h10; unfold y7; apply keeps_accessError (hN.via rfl); exact h10
  clear_value y7; extract_lets +onlyGivenNames y11
  have h12 : Keeps N s₀ y11 := by
    unfold y11; apply keeps_ite
    · apply h8; exact hs
    · apply keeps_ite
      · apply keeps_ite
        · apply h3; exact hs
        · apply h8; exact hs
      · apply keeps_ite
        · apply h3; exact hs
        · exact hs
  clear_value y11; apply keeps_setFlag (hN.via rfl); exact h12

theorem keeps_ttCtrlWrite (hN : Within 0x1001ce N) (w : Func) (load step disciplined : Bool) (s : State) (hs : Keeps N s₀ s)
    : Keeps N s₀ (ttCtrlWrite w load step disciplined s) := by
  unfold ttCtrlWrite; apply keeps_access (hN.via rfl)
  · intro z1 h2; apply keeps_ttCtrl (hN.via rfl); exact h2
  · exact hs

theorem keeps_execLoad (hN : Within 0x1001ce N) (w : Func) (disciplined : Bool) (s : State) (hs : Keeps N s₀ s)
    : Keeps N s₀ (execLoad w disciplined s) := by
  unfold execLoad; apply keeps_ttCtrlWrite (hN.via rfl); exact hs

theorem keeps_execStep (hN : Within 0x1001ce N) (w : Func) (disciplined : Bool) (s : State) (hs : Keeps N s₀ s)
    : Keeps N s₀ (execStep w disciplined s) := by
  unfold execStep; apply keeps_ttCtrlWrite (hN.via rfl); exact hs

theorem keeps_ttRate (hN : Within 0x10a N) (v : Word) (s : State) (hs : Keeps N s₀ s) : Keeps N s₀ (ttRate v s) := by
  unfold ttRate; extract_lets +onlyGivenNames y1; clear_value y1; extract_lets +onlyGivenNames y2
  have h3 : Keeps N s₀ y2 := by
    unfold y2; apply keeps_wr (hN.via rfl); exact hs
  clear_value y2; extract_lets +onlyGivenNames y4
  have h5 : Keeps N s₀ y4 := by
    unfold y4; apply keeps_ite
    · exact h3
    · apply keeps_bump (hN.via rfl); apply keeps_raise (hN.via rfl); exact h3
  clear_value y4; apply keeps_hhCapture (hN.via rfl); exact h5

theorem keeps_execRateAdjustment (hN : Within 0x1001ca N) (w : Func) (v : Word) (s : State) (hs : Keeps N s₀ s)
    : Keeps N s₀ (execRateAdjustment w v s) := by
  unfold execRateAdjustment; apply keeps_access (hN.via rfl)
  · intro z1 h2; apply keeps_ttRate (hN.via rfl); exact h2
  · exact hs

theorem keeps_execTtNowRead (hN : Within 0x300082 N) (w : Func) (s : State) (hs : Keeps N s₀ s) : Keeps N s₀ (execTtNowRead w s) := by
  unfold execTtNowRead; apply keeps_readAccess (hN.via rfl)
  · intro z1 h2; extract_lets +onlyGivenNames y3
    have h4 : Keeps N s₀ y3.2 := by
      unfold y3; apply keeps_fresh (hN.via rfl); exact h2
    clear_value y3; extract_lets +onlyGivenNames y5; clear_value y5; dsimp -zeta only; apply keeps_wr (hN.via rfl)
    apply keeps_wr (hN.via rfl); exact h4
  · exact hs

theorem keeps_rtcStep (hN : Within 0x20000e N) (s : State) (hs : Keeps N s₀ s) : Keeps N s₀ (rtcStep s) := by
  unfold rtcStep; apply keeps_ite
  · exact hs
  · apply keeps_ite
    · extract_lets +onlyGivenNames y1; extract_lets +onlyGivenNames y2
      have h3 : Keeps N s₀ y2 := by
        unfold y2; refine Keeps.update 0x8 (hN.via rfl) ?_ rfl rfl rfl; exact hs
      clear_value y2; extract_lets +onlyGivenNames y4; clear_value y4
      refine Keeps.update 0x4 (hN.via rfl) ?_ rfl rfl rfl; exact h3
    · extract_lets +onlyGivenNames y5
      have h6 : Keeps N s₀ y5.2 := by
        unfold y5; apply keeps_fresh (hN.via rfl); exact hs
      clear_value y5; apply keeps_setFlag (hN.via rfl); extract_lets +onlyGivenNames y7
      have h8 : Keeps N s₀ y7 := by
        unfold y7; exact h6
      clear_value y7; refine Keeps.update 0x4 (hN.via rfl) ?_ rfl rfl rfl; exact h8

theorem keeps_execRtcMeasurement (hN : Within 0x2 N) (ticks : ℕ) (s : State) (hs : Keeps N s₀ s)
    : Keeps N s₀ (execRtcMeasurement ticks s) := by
  unfold execRtcMeasurement; apply keeps_ite
  · apply keeps_wr (hN.via rfl); exact hs
  · exact hs

theorem keeps_execAnteRealign (hN : Within 0xe N) (s : State) (hs : Keeps N s₀ s) : Keeps N s₀ (execAnteRealign s) := by
  unfold execAnteRealign; apply keeps_ite
  · apply keeps_raise (hN.via rfl); apply keeps_setFlag (hN.via rfl); apply keeps_setFlag (hN.via rfl)
    refine Keeps.update 0x4 (hN.via rfl) ?_ rfl rfl rfl; exact hs
  · exact hs

theorem keeps_setPwrState (hN : Within 0x2 N) (n : ℕ) (s : State) (hs : Keeps N s₀ s) : Keeps N s₀ (setPwrState n s) := by
  unfold setPwrState; apply keeps_setFld (hN.via rfl); exact hs

theorem keeps_setPwrTarget (hN : Within 0x2 N) (n : ℕ) (s : State) (hs : Keeps N s₀ s) : Keeps N s₀ (setPwrTarget n s) := by
  unfold setPwrTarget; apply keeps_setFld (hN.via rfl); exact hs

theorem keeps_setPwrPhase (hN : Within 0x2 N) (n : ℕ) (s : State) (hs : Keeps N s₀ s) : Keeps N s₀ (setPwrPhase n s) := by
  unfold setPwrPhase; apply keeps_setFld (hN.via rfl); exact hs

theorem keeps_wakeKeep (hN : Within 0x20 N) (s : State) (hs : Keeps N s₀ s) : Keeps N s₀ (wakeKeep s) := by
  unfold wakeKeep; apply keeps_ite
  · exact hs
  · refine Keeps.update 0x20 (hN.via rfl) ?_ rfl rfl rfl; exact hs

theorem keeps_unwake (hN : Within 0xa N) (s : State) (hs : Keeps N s₀ s) : Keeps N s₀ (unwake s) := by
  unfold unwake
  split
  · apply keeps_ite
    · apply keeps_setFlag (hN.via rfl); apply keeps_wr (hN.via rfl); apply keeps_wr64 (hN.via rfl)
      apply keeps_wr (hN.via rfl); refine Keeps.update 0x8 (hN.via rfl) ?_ rfl rfl rfl; exact hs
    · exact hs
  · exact hs

theorem keeps_wakeRecord (hN : Within 0x2a N) (idx : ℕ) (s : State) (hs : Keeps N s₀ s) : Keeps N s₀ (wakeRecord idx s) := by
  unfold wakeRecord; extract_lets +onlyGivenNames y1
  have h2 : Keeps N s₀ y1 := by
    unfold y1; apply keeps_wakeKeep (hN.via rfl); exact hs
  clear_value y1; extract_lets +onlyGivenNames y3; clear_value y3; extract_lets +onlyGivenNames y4
  have h5 : Keeps N s₀ y4 := by
    unfold y4; apply keeps_wr64 (hN.via rfl); apply keeps_wr (hN.via rfl); exact h2
  clear_value y4; apply keeps_ite
  · apply keeps_raise (hN.via rfl); apply keeps_bump (hN.via rfl); exact h5
  · exact h5

theorem keeps_regSwitchTo (hN : Within 0x22 N) (hp : Bool) (s : State) (hs : Keeps N s₀ s) : Keeps N s₀ (regSwitchTo hp s) := by
  unfold regSwitchTo; apply keeps_setFlag (hN.via rfl); refine Keeps.update 0x20 (hN.via rfl) ?_ rfl rfl rfl
  exact hs

theorem keeps_setDom (hN : Within 0x24 N) (d x : ℕ) (s : State) (hs : Keeps N s₀ s) : Keeps N s₀ (setDom d x s) := by
  unfold setDom; refine Keeps.update 0x24 (hN.via rfl) ?_ rfl rfl rfl; exact hs

theorem keeps_trainStack (hN : Within 0x2 N) (n : ℕ) (s : State) (hs : Keeps N s₀ s) : Keeps N s₀ (trainStack n s) := by
  unfold trainStack; apply keeps_setFld (hN.via rfl); exact hs

theorem keeps_trainLink (hN : Within 0x1a N) (die edge : ℕ) (s : State) (hs : Keeps N s₀ s) : Keeps N s₀ (trainLink die edge s) := by
  unfold trainLink; extract_lets +onlyGivenNames y1; clear_value y1; extract_lets +onlyGivenNames y2; clear_value y2
  extract_lets +onlyGivenNames y3; clear_value y3; extract_lets +onlyGivenNames y4
  have h5 : Keeps N s₀ y4 := by
    unfold y4; apply keeps_setFld (hN.via rfl); apply keeps_setFld (hN.via rfl); exact hs
  clear_value y4; extract_lets +onlyGivenNames y6
  have h7 : Keeps N s₀ y6 := by
    unfold y6; apply keeps_ite
    · exact h5
    · apply keeps_raise (hN.via rfl); exact h5
  clear_value y6; apply keeps_ite
  · refine Keeps.update 0x10 (hN.via rfl) ?_ rfl rfl rfl; exact h7
  · exact h7

theorem keeps_trainLinks (hN : Within 0x1a N) (die : ℕ) (s : State) (hs : Keeps N s₀ s) : Keeps N s₀ (trainLinks die s) := by
  unfold trainLinks; apply Keeps.foldl
  · intro z1 z2 h3; apply keeps_trainLink (hN.via rfl); exact h3
  · exact hs

theorem keeps_domainOn (hN : Within 0x3e N) (d : ℕ) (s : State) (hs : Keeps N s₀ s) : Keeps N s₀ (domainOn d s) := by
  unfold domainOn; extract_lets +onlyGivenNames y1
  have h2 : Keeps N s₀ y1 := by
    unfold y1; apply keeps_setDom (hN.via rfl); exact hs
  clear_value y1; apply keeps_ite
  · exact h2
  · apply keeps_ite
    · apply keeps_setFlag (hN.via rfl); apply keeps_trainStack (hN.via rfl); exact h2
    · apply keeps_ite
      · apply keeps_trainLinks (hN.via rfl); exact h2
      · exact h2

theorem keeps_restoreBegin (hN : Within 0x2 N) (s : State) (hs : Keeps N s₀ s) : Keeps N s₀ (restoreBegin s) := by
  unfold restoreBegin; apply keeps_setFld (hN.via rfl); exact hs

theorem keeps_railsOn (hN : Within 0x10 N) (s : State) (hs : Keeps N s₀ s) : Keeps N s₀ (railsOn s) := by
  unfold railsOn; refine Keeps.update 0x10 (hN.via rfl) ?_ rfl rfl rfl; exact hs

theorem keeps_startClimb (hN : Within 0x36 N) (T : ℕ) (s : State) (hs : Keeps N s₀ s) : Keeps N s₀ (startClimb T s) := by
  unfold startClimb; extract_lets +onlyGivenNames y1
  have h2 : Keeps N s₀ y1 := by
    unfold y1; apply keeps_setPwrPhase (hN.via rfl); apply keeps_setPwrTarget (hN.via rfl); exact hs
  clear_value y1; extract_lets +onlyGivenNames y3; extract_lets +onlyGivenNames y4
  have h5 : Keeps N s₀ y4 := by
    unfold y4; refine Keeps.update 0x20 (hN.via rfl) ?_ rfl rfl rfl; exact h2
  clear_value y4; apply keeps_ite
  · extract_lets +onlyGivenNames y6; extract_lets +onlyGivenNames y7
    have h8 : Keeps N s₀ y7 := by
      unfold y7; refine Keeps.update 0x4 (hN.via rfl) ?_ rfl rfl rfl; exact h5
    clear_value y7; apply keeps_ite
    · apply keeps_railsOn (hN.via rfl); exact h8
    · apply keeps_regSwitchTo (hN.via rfl); exact h8
  · apply keeps_ite
    · apply keeps_ite
      · apply keeps_setPwrPhase (hN.via rfl); refine Keeps.update 0x20 (hN.via rfl) ?_ rfl rfl rfl; exact h5
      · apply keeps_setPwrPhase (hN.via rfl); apply keeps_restoreBegin (hN.via rfl); exact h5
    · apply keeps_ite
      · refine Keeps.update 0x20 (hN.via rfl) ?_ rfl rfl rfl; exact h5
      · exact h5

theorem keeps_postPwrResult (hN : Within 0xa N) (code : ℕ) (s : State) (hs : Keeps N s₀ s) : Keeps N s₀ (postPwrResult code s) := by
  unfold postPwrResult; extract_lets +onlyGivenNames y1; clear_value y1; apply keeps_raise (hN.via rfl)
  apply keeps_setFlag (hN.via rfl); apply keeps_wr (hN.via rfl); exact hs

theorem keeps_endPwrCmd (hN : Within 0xa N) (code : ℕ) (s : State) (hs : Keeps N s₀ s) : Keeps N s₀ (endPwrCmd code s) := by
  unfold endPwrCmd; apply keeps_setPwrTarget (hN.via rfl); apply keeps_setPwrPhase (hN.via rfl)
  apply keeps_postPwrResult (hN.via rfl); exact hs

theorem keeps_wakeActs (hN : Within 0x3e N) (T : ℕ) (s : State) (hs : Keeps N s₀ s) : Keeps N s₀ (wakeActs T s) := by
  unfold wakeActs; extract_lets +onlyGivenNames y1
  have h2 : ∀ z0, Keeps N s₀ z0 → Keeps N s₀ (y1 z0) := by
    intro z3 h4; unfold y1; apply keeps_ite
    · apply keeps_startClimb (hN.via rfl); exact h4
    · exact h4
  clear_value y1
  split
  · apply h2; exact hs
  · apply keeps_ite
    · apply h2; apply keeps_endPwrCmd (hN.via rfl); exact hs
    · exact hs
  · apply keeps_ite
    · apply h2; apply keeps_endPwrCmd (hN.via rfl); exact hs
    · exact hs
  · refine Keeps.update 0x20 (hN.via rfl) ?_ rfl rfl rfl; exact hs
  · apply keeps_ite
    · apply keeps_setPwrTarget (hN.via rfl); exact hs
    · exact hs

theorem keeps_takeBack (hN : Within 0x2a N) (c : PwrCmdSt) (s : State) (hs : Keeps N s₀ s) : Keeps N s₀ (takeBack c s) := by
  unfold takeBack
  extract_lets +onlyGivenNames a w g u
  have hw : Keeps N s₀ w := keeps_setReg (hN.via rfl) _ _ hs
  have hu : Keeps N s₀ u := by
    unfold u
    split
    · apply keeps_setFlag (hN.via rfl)
      exact Keeps.update 0x8 (hN.via rfl) hw rfl rfl rfl fun k => { k with counts := sortedKeys_sset k.counts }
    · exact hs
  clear_value u
  apply keeps_setPwrTarget (hN.via rfl); apply keeps_setPwrPhase (hN.via rfl)
  exact Keeps.update 0x20 (hN.via rfl) hu rfl rfl rfl

theorem keeps_wakeFirst (hN : Within 0x3e N) (T : ℕ) (c : PwrCmdSt) (s : State) (hs : Keeps N s₀ s) : Keeps N s₀ (wakeFirst T c s) := by
  unfold wakeFirst; apply keeps_ite
  · apply keeps_ite
    · apply keeps_wakeActs (hN.via rfl); apply keeps_takeBack (hN.via rfl); exact hs
    · apply keeps_wakeActs (hN.via rfl); exact hs
  · extract_lets +onlyGivenNames y1
    have h2 : Keeps N s₀ y1 := by
      unfold y1; apply keeps_wakeActs (hN.via rfl); exact hs
    clear_value y1; apply keeps_ite
    · apply keeps_setFld (hN.via rfl); exact h2
    · exact h2

theorem keeps_wakeEvent (hN : Within 0x3e N) (idx : ℕ) (s : State) (hs : Keeps N s₀ s) : Keeps N s₀ (wakeEvent idx s) := by
  unfold wakeEvent; apply keeps_ite
  · extract_lets +onlyGivenNames y1; clear_value y1
    split
    · apply keeps_ite
      · apply keeps_wakeFirst (hN.via rfl); apply keeps_wakeRecord (hN.via rfl); exact hs
      · apply keeps_wakeActs (hN.via rfl); apply keeps_wakeRecord (hN.via rfl); exact hs
    · apply keeps_wakeActs (hN.via rfl); apply keeps_wakeRecord (hN.via rfl); exact hs
  · exact hs

theorem keeps_ringZeroise (hN : Within 0x80a N) (p : RingBlk → Bool) (s : State) (hs : Keeps N s₀ s)
    : Keeps N s₀ (ringZeroise p s) := by
  unfold ringZeroise; apply keeps_bump (hN.via rfl); refine Keeps.update 0x800 (hN.via rfl) ?_ rfl rfl rfl; exact hs

theorem keeps_ringRenew (hN : Within 0x800 N) (s : State) (hs : Keeps N s₀ s) : Keeps N s₀ (ringRenew s) := by
  unfold ringRenew; refine Keeps.update 0x800 (hN.via rfl) ?_ rfl rfl rfl; exact hs

theorem keeps_ringUnlock (hN : Within 0x80a N) (start : ℕ) (s : State) (hs : Keeps N s₀ s) : Keeps N s₀ (ringUnlock start s) := by
  unfold ringUnlock; extract_lets +onlyGivenNames y1; clear_value y1; extract_lets +onlyGivenNames y2
  clear_value y2; extract_lets +onlyGivenNames y3; clear_value y3; extract_lets +onlyGivenNames y4; clear_value y4
  extract_lets +onlyGivenNames y5
  have h6 : Keeps N s₀ y5 := by
    unfold y5; apply keeps_ringRenew (hN.via rfl); apply keeps_ringZeroise (hN.via rfl); exact hs
  clear_value y5; apply keeps_bump (hN.via rfl); apply keeps_raise (hN.via rfl); apply keeps_setFlag (hN.via rfl)
  apply keeps_wr (hN.via rfl); refine Keeps.update 0x800 (hN.via rfl) ?_ rfl rfl rfl; exact h6

theorem keeps_ringSigned (hN : Within 0x80a N) (g : SignSt) (s : State) (hs : Keeps N s₀ s) : Keeps N s₀ (ringSigned g s) := by
  unfold ringSigned; apply keeps_ite
  · apply keeps_bump (hN.via rfl); exact hs
  · apply keeps_ringUnlock (hN.via rfl); exact hs

theorem keeps_ringRelock (hN : Within 0x80a N) (s : State) (hs : Keeps N s₀ s) : Keeps N s₀ (ringRelock s) := by
  unfold ringRelock; apply keeps_ite
  · exact hs
  · extract_lets +onlyGivenNames y1
    have h2 : Keeps N s₀ y1 := by
      unfold y1; apply keeps_raise (hN.via rfl); apply keeps_setFlag (hN.via rfl); exact hs
    clear_value y1
    split
    · apply keeps_ite
      · exact h2
      · apply keeps_ite
        · exact hs
        · apply keeps_ringSigned (hN.via rfl); exact h2
    · exact h2

theorem keeps_ringStop (hN : Within 0x80a N) (s : State) (hs : Keeps N s₀ s) : Keeps N s₀ (ringStop s) := by
  unfold ringStop; apply keeps_ringRelock (hN.via rfl); apply keeps_ringZeroise (hN.via rfl); exact hs

theorem keeps_ringCtrl (hN : Within 0x80a N) (enable relock : Bool) (s : State) (hs : Keeps N s₀ s)
    : Keeps N s₀ (ringCtrl enable relock s) := by
  unfold ringCtrl; extract_lets +onlyGivenNames y1
  have h2 : Keeps N s₀ y1 := by
    unfold y1; apply keeps_setFlag (hN.via rfl); exact hs
  clear_value y1; extract_lets +onlyGivenNames y3
  have h4 : Keeps N s₀ y3 := by
    unfold y3; apply keeps_ite
    · exact h2
    · apply keeps_ringStop (hN.via rfl); exact h2
  clear_value y3; apply keeps_ite
  · apply keeps_ringRelock (hN.via rfl); exact h4
  · exact h4

theorem keeps_execRingEnable (hN : Within 0x1009ca N) (w : Func) (on : Bool) (s : State) (hs : Keeps N s₀ s)
    : Keeps N s₀ (execRingEnable w on s) := by
  unfold execRingEnable; apply keeps_access (hN.via rfl)
  · intro z1 h2; apply keeps_ringCtrl (hN.via rfl); exact h2
  · exact hs

theorem keeps_execRelock (hN : Within 0x1009ca N) (w : Func) (enable : Bool) (s : State) (hs : Keeps N s₀ s)
    : Keeps N s₀ (execRelock w enable s) := by
  unfold execRelock; apply keeps_access (hN.via rfl)
  · intro z1 h2; apply keeps_ringCtrl (hN.via rfl); exact h2
  · exact hs

theorem keeps_execUnlockLimitExpiry (hN : Within 0x80a N) (s : State) (hs : Keeps N s₀ s) : Keeps N s₀ (execUnlockLimitExpiry s) := by
  unfold execUnlockLimitExpiry; extract_lets +onlyGivenNames y1; clear_value y1; apply keeps_ite
  · apply keeps_ringRelock (hN.via rfl); exact hs
  · exact hs

theorem keeps_ceVerdict (hN : Within 0x113e N) (v : Verdict) (s : State) (hs : Keeps N s₀ s) : Keeps N s₀ (ceVerdict v s) := by
  unfold ceVerdict; apply keeps_ite
  · exact hs
  · extract_lets +onlyGivenNames y1; clear_value y1; extract_lets +onlyGivenNames y2
    have h3 : Keeps N s₀ y2 := by
      unfold y2; apply keeps_hhCapture (hN.via rfl); apply keeps_bump (hN.via rfl); apply keeps_raise (hN.via rfl)
      apply keeps_wr (hN.via rfl); apply keeps_wr (hN.via rfl); exact hs
    clear_value y2; apply keeps_ite
    · refine Keeps.update 0x1000 (hN.via rfl) ?_ rfl rfl rfl; exact h3
    · apply keeps_ite
      · apply keeps_wakeEvent (hN.via rfl); exact h3
      · exact h3

theorem keeps_ceSkip (hN : Within 0x80a N) (s : State) (hs : Keeps N s₀ s) : Keeps N s₀ (ceSkip s) := by
  unfold ceSkip; extract_lets +onlyGivenNames y1; extract_lets +onlyGivenNames y2; apply keeps_ite
  · exact hs
  · apply keeps_bump (hN.via rfl); apply keeps_raise (hN.via rfl)
    refine Keeps.update 0x800 (hN.via rfl) ?_ rfl rfl rfl; exact hs

theorem keeps_ceAccept (hN : Within 0x80a N) (s : State) (hs : Keeps N s₀ s) : Keeps N s₀ (ceAccept s) := by
  unfold ceAccept; apply keeps_ite
  · extract_lets +onlyGivenNames y1
    have h2 : Keeps N s₀ y1 := by
      unfold y1; apply keeps_ceSkip (hN.via rfl); exact hs
    clear_value y1; apply keeps_ite
    · exact h2
    · extract_lets +onlyGivenNames y3; clear_value y3; extract_lets +onlyGivenNames y4
      have h5 : Keeps N s₀ y4 := by
        unfold y4; apply keeps_startCmd (hN.via rfl); exact h2
      clear_value y4; apply keeps_ite
      · apply keeps_bump (hN.via rfl); apply keeps_raise (hN.via rfl); exact h5
      · exact h5
  · exact hs

theorem keeps_ceWipe (hN : Within 0x100a N) (s : State) (hs : Keeps N s₀ s) : Keeps N s₀ (ceWipe s) := by
  unfold ceWipe; extract_lets +onlyGivenNames y1; extract_lets +onlyGivenNames y2
  have h3 : Keeps N s₀ y2 := by
    unfold y2; apply keeps_ite
    · exact hs
    · apply keeps_bump (hN.via rfl); refine Keeps.update 0x1000 (hN.via rfl) ?_ rfl rfl rfl; exact hs
  clear_value y2; apply keeps_setFlag (hN.via rfl); refine Keeps.updateMem 0x1000 (hN.via rfl) ?_ ?_ ?_ ?_ rfl
  · exact h3
  · exact id
  · exact id
  · exact fun _ => rfl

theorem keeps_execCallEngineBlock (hN : Within 0x193e N) (vs : List Verdict) (s : State) (hs : Keeps N s₀ s)
    : Keeps N s₀ (execCallEngineBlock vs s) := by
  unfold execCallEngineBlock; apply keeps_ite
  · extract_lets +onlyGivenNames y1
    have h2 : Keeps N s₀ y1 := by
      unfold y1; apply keeps_endAllCmds (hN.via rfl); exact hs
    clear_value y1; extract_lets +onlyGivenNames y3; extract_lets +onlyGivenNames y4
    have h5 : Keeps N s₀ y4 := by
      unfold y4; apply keeps_bump (hN.via rfl); refine Keeps.update 0x800 (hN.via rfl) ?_ rfl rfl rfl; exact h2
    clear_value y4; extract_lets +onlyGivenNames y6
    have h7 : Keeps N s₀ y6 := by
      unfold y6; apply Keeps.foldl
      · intro z8 z9 h10; apply keeps_ceVerdict (hN.via rfl); exact h10
      · exact h5
    clear_value y6; apply keeps_ite
    · apply keeps_ceWipe (hN.via rfl); exact h7
    · apply keeps_ceAccept (hN.via rfl); exact h7
  · exact hs

theorem keeps_ceRestart (hN : Within 0x100a N) (s : State) (hs : Keeps N s₀ s) : Keeps N s₀ (ceRestart s) := by
  unfold ceRestart; apply keeps_ite
  · refine Keeps.update 0x1000 (hN.via rfl) ?_ rfl rfl rfl; exact hs
  · apply keeps_ceWipe (hN.via rfl); apply keeps_endAllCmds (hN.via rfl); exact hs

theorem keeps_execCeRestart (hN : Within 0x1011ca N) (w : Func) (s : State) (hs : Keeps N s₀ s) : Keeps N s₀ (execCeRestart w s) := by
  unfold execCeRestart; apply keeps_access (hN.via rfl)
  · intro z1 h2; apply keeps_ite
    · apply keeps_refuse (hN.via rfl); exact h2
    · apply keeps_ceRestart (hN.via rfl); apply keeps_setFlag (hN.via rfl); exact h2
  · exact hs

theorem keeps_signNote (hN : Within 0x800 N) (start : ℕ) (follow : Bool) (s : State) (hs : Keeps N s₀ s)
    : Keeps N s₀ (signNote start follow s) := by
  unfold signNote
  split
  · apply keeps_ite
    · exact hs
    · refine Keeps.update 0x800 (hN.via rfl) ?_ rfl rfl rfl; exact hs
  · refine Keeps.update 0x800 (hN.via rfl) ?_ rfl rfl rfl; exact hs

theorem keeps_execSignOff (hN : Within 0x183e N) (s : State) (hs : Keeps N s₀ s) : Keeps N s₀ (execSignOff s) := by
  unfold execSignOff
  split
  · exact hs
  · extract_lets +onlyGivenNames y1; extract_lets +onlyGivenNames y2
    have h3 : Keeps N s₀ y2 := by
      unfold y2; refine Keeps.update 0x1000 (hN.via rfl) ?_ rfl rfl rfl; exact hs
    clear_value y2; apply keeps_ite
    · apply keeps_ite
      · apply keeps_bump (hN.via rfl); exact h3
      · apply keeps_ite
        · apply keeps_raise (hN.via rfl); apply keeps_bump (hN.via rfl); exact h3
        · extract_lets +onlyGivenNames y4
          have h5 : Keeps N s₀ y4 := by
            unfold y4; apply keeps_signNote (hN.via rfl); exact h3
          clear_value y4; apply keeps_wakeEvent (hN.via rfl); apply keeps_ite
          · apply keeps_ringUnlock (hN.via rfl); exact h5
          · apply keeps_ringRenew (hN.via rfl); exact h5
    · apply keeps_ite
      · apply keeps_ringRenew (hN.via rfl); apply keeps_signNote (hN.via rfl); exact h3
      · apply keeps_bump (hN.via rfl); exact h3

theorem keeps_ringPolicyWrite (hN : Within 0x2 N) (v : Word) (s : State) (hs : Keeps N s₀ s) : Keeps N s₀ (ringPolicyWrite v s) := by
  unfold ringPolicyWrite; extract_lets +onlyGivenNames y1; clear_value y1; extract_lets +onlyGivenNames y2
  have h3 : Keeps N s₀ y2 := by
    unfold y2; apply keeps_plainWrite (hN.via rfl); exact hs
  clear_value y2; apply keeps_ite
  · apply keeps_setFlag (hN.via rfl); apply keeps_setFlag (hN.via rfl); exact h3
  · exact h3

theorem keeps_execDeny (hN : Within 0x1001ca N) (w : Func) (v : Word) (s : State) (hs : Keeps N s₀ s)
    : Keeps N s₀ (execDeny w v s) := by
  unfold execDeny; extract_lets +onlyGivenNames y1; clear_value y1; apply keeps_access (hN.via rfl)
  · intro z2 h3; apply keeps_ite
    · apply keeps_ringPolicyWrite (hN.via rfl); exact h3
    · exact h3
  · exact hs

theorem keeps_ceRegWrite (hN : Within 0x100a N) (off : ℕ) (v : Word) (s : State) (hs : Keeps N s₀ s)
    : Keeps N s₀ (ceRegWrite off v s) := by
  unfold ceRegWrite; apply keeps_ite
  · apply keeps_ite
    · apply keeps_refuse (hN.via rfl); exact hs
    · apply keeps_ceRestart (hN.via rfl); apply keeps_setFlag (hN.via rfl); exact hs
  · exact hs

theorem keeps_sampleWrite (hN : Within 0x802 N) (p : Page) (off : ℕ) (v : Word) (s : State) (hs : Keeps N s₀ s)
    : Keeps N s₀ (sampleWrite p off v s) := by
  unfold sampleWrite; apply keeps_ite
  · apply keeps_plainWrite (hN.via rfl); refine Keeps.update 0x800 (hN.via rfl) ?_ rfl rfl rfl; exact hs
  · apply keeps_plainWrite (hN.via rfl); exact hs

theorem keeps_lineClear (hN : Within 0x800 N) (g : ℕ) (s : State) (hs : Keeps N s₀ s) : Keeps N s₀ (lineClear g s) := by
  unfold lineClear; refine Keeps.update 0x800 (hN.via rfl) ?_ rfl rfl rfl; exact hs

theorem keeps_captureBlock (hN : Within 0x80a N) (g formed : ℕ) (pcm : List (List ℤ)) (s : State) (hs : Keeps N s₀ s)
    : Keeps N s₀ (captureBlock g formed pcm s).2 := by
  unfold captureBlock; extract_lets +onlyGivenNames y1; clear_value y1; extract_lets +onlyGivenNames y2
  clear_value y2; extract_lets +onlyGivenNames y3; clear_value y3; extract_lets +onlyGivenNames y4; clear_value y4
  extract_lets +onlyGivenNames y5; clear_value y5; extract_lets +onlyGivenNames y6; extract_lets +onlyGivenNames y7
  have h8 : Keeps N s₀ y7 := by
    unfold y7; apply keeps_bump (hN.via rfl); refine Keeps.update 0x800 (hN.via rfl) ?_ rfl rfl rfl; exact hs
  clear_value y7; dsimp -zeta only; apply keeps_ite
  · exact h8
  · apply keeps_raise (hN.via rfl); exact h8

theorem keeps_regUpdate (hN : Within 0x22 N) (s : State) (hs : Keeps N s₀ s) : Keeps N s₀ (regUpdate s) := by
  unfold regUpdate; apply keeps_ite
  · exact hs
  · apply keeps_regSwitchTo (hN.via rfl); exact hs

theorem keeps_setDet (hN : Within 0x800 N) (k : ℕ) (d : DetSt) (s : State) (hs : Keeps N s₀ s) : Keeps N s₀ (setDet k d s) := by
  unfold setDet; refine Keeps.update 0x800 (hN.via rfl) ?_ rfl rfl rfl; exact hs

theorem keeps_detShow (hN : Within 0x2 N) (g k : ℕ) (d : DetSt) (s : State) (hs : Keeps N s₀ s) : Keeps N s₀ (detShow g k d s) := by
  unfold detShow; apply keeps_setFld (hN.via rfl); apply keeps_wr (hN.via rfl); exact hs

theorem keeps_detHit (hN : Within 0x3e N) (g : ℕ) (s : State) (hs : Keeps N s₀ s) : Keeps N s₀ (detHit g s) := by
  unfold detHit; extract_lets +onlyGivenNames y1
  have h2 : Keeps N s₀ y1 := by
    unfold y1; apply keeps_bump (hN.via rfl); apply keeps_raise (hN.via rfl); exact hs
  clear_value y1; apply keeps_ite
  · extract_lets +onlyGivenNames y3; extract_lets +onlyGivenNames y4
    have h5 : Keeps N s₀ y4 := by
      unfold y4; apply keeps_ite
      · apply keeps_regUpdate (hN.via rfl); apply keeps_bump (hN.via rfl)
        refine Keeps.update 0x20 (hN.via rfl) ?_ rfl rfl rfl; exact h2
      · exact h2
    clear_value y4; apply keeps_wakeEvent (hN.via rfl); exact h5
  · exact h2

theorem keeps_detUpdate (hN : Within 0x83e N) (g : ℕ) (signal : ℕ → List ℤ) (s : State) (hs : Keeps N s₀ s)
    : Keeps N s₀ (detUpdate g signal s) := by
  unfold detUpdate; extract_lets +onlyGivenNames y1; clear_value y1; extract_lets +onlyGivenNames y2; clear_value y2
  extract_lets +onlyGivenNames y3; clear_value y3; extract_lets +onlyGivenNames y4
  have h5 : Keeps N s₀ y4 := by
    unfold y4; apply Keeps.foldl
    · intro z6 z7 h8; extract_lets +onlyGivenNames y9; extract_lets +onlyGivenNames y10
      have h11 : Keeps N s₀ y10 := by
        unfold y10; apply keeps_detShow (hN.via rfl); apply keeps_setDet (hN.via rfl); exact h8
      clear_value y10; apply keeps_ite
      · apply keeps_detHit (hN.via rfl); exact h11
      · exact h11
    · exact hs
  clear_value y4; extract_lets +onlyGivenNames y12
  have h13 : Keeps N s₀ y12 := by
    unfold y12; apply keeps_bump (hN.via rfl); exact h5
  clear_value y12; extract_lets +onlyGivenNames y14
  have h15 : Keeps N s₀ y14 := by
    unfold y14; apply keeps_ite
    · apply keeps_raise (hN.via rfl); exact h13
    · exact h13
  clear_value y14; apply keeps_ite
  · apply keeps_raise (hN.via rfl); exact h15
  · exact h15

theorem keeps_detRestart (hN : Within 0x802 N) (g : ℕ) (s : State) (hs : Keeps N s₀ s) : Keeps N s₀ (detRestart g s) := by
  unfold detRestart; apply keeps_wr (hN.via rfl); refine Keeps.update 0x800 (hN.via rfl) ?_ rfl rfl rfl; exact hs

theorem keeps_detAnte (hN : Within 0x800 N) (s : State) (hs : Keeps N s₀ s) : Keeps N s₀ (detAnte s) := by
  unfold detAnte; refine Keeps.update 0x800 (hN.via rfl) ?_ rfl rfl rfl; exact hs

theorem keeps_ringStore (hN : Within 0x80a N) (flags time : ℕ) (planes : List (List ℤ)) (s : State) (hs : Keeps N s₀ s)
    : Keeps N s₀ (ringStore flags time planes s) := by
  unfold ringStore; extract_lets +onlyGivenNames y1; clear_value y1; extract_lets +onlyGivenNames y2; clear_value y2
  extract_lets +onlyGivenNames y3; clear_value y3; apply keeps_bump (hN.via rfl)
  refine Keeps.update 0x800 (hN.via rfl) ?_ rfl rfl rfl; exact hs

theorem keeps_lateWrite (hN : Within 0x800 N) (s : State) (hs : Keeps N s₀ s) : Keeps N s₀ (lateWrite s) := by
  unfold lateWrite; refine Keeps.update 0x800 (hN.via rfl) ?_ rfl rfl rfl; exact hs

theorem keeps_releaseHeld (hN : Within 0x802 N) (s : State) (hs : Keeps N s₀ s) : Keeps N s₀ (releaseHeld s) := by
  unfold releaseHeld; extract_lets +onlyGivenNames y1; clear_value y1; apply keeps_ite
  · exact hs
  · apply keeps_wr (hN.via rfl); refine Keeps.update 0x800 (hN.via rfl) ?_ rfl rfl rfl; exact hs

theorem keeps_ringHorizon (hN : Within 0x80a N) (s : State) (hs : Keeps N s₀ s) : Keeps N s₀ (ringHorizon s) := by
  unfold ringHorizon; extract_lets +onlyGivenNames y1; clear_value y1; extract_lets +onlyGivenNames y2
  clear_value y2; apply keeps_ite
  · apply keeps_ringZeroise (hN.via rfl); exact hs
  · apply keeps_ite
    · apply keeps_releaseHeld (hN.via rfl); apply keeps_ringZeroise (hN.via rfl); exact hs
    · exact hs

theorem keeps_ringAdvance (hN : Within 0x800 N) (s : State) (hs : Keeps N s₀ s) : Keeps N s₀ (ringAdvance s) := by
  unfold ringAdvance; apply keeps_ite
  · exact hs
  · extract_lets +onlyGivenNames y1; extract_lets +onlyGivenNames y2; apply keeps_ite
    · refine Keeps.update 0x800 (hN.via rfl) ?_ rfl rfl rfl; exact hs
    · exact hs

theorem keeps_bankBoundary (hN : Within 0x80a N) (g : ℕ) (s : State) (hs : Keeps N s₀ s) : Keeps N s₀ (bankBoundary g s) := by
  unfold bankBoundary; apply keeps_ite
  · apply keeps_bump (hN.via rfl); apply keeps_raise (hN.via rfl); apply keeps_setFlag (hN.via rfl)
    apply keeps_setFld (hN.via rfl); refine Keeps.update 0x800 (hN.via rfl) ?_ rfl rfl rfl; exact hs
  · exact hs

theorem keeps_aecTrack (hN : Within 0x20080a N) (k slot : ℕ) (input output : List ℤ) (s : State) (hs : Keeps N s₀ s)
    : Keeps N s₀ (aecTrack k slot input output s) := by
  unfold aecTrack; extract_lets +onlyGivenNames y1
  have h2 : Keeps N s₀ y1.2 := by
    unfold y1; apply keeps_fresh (hN.via rfl); exact hs
  clear_value y1; extract_lets +onlyGivenNames y3
  have h4 : Keeps N s₀ y3 := by
    unfold y3; apply keeps_wr (hN.via rfl); exact h2
  clear_value y3; extract_lets +onlyGivenNames y5; extract_lets +onlyGivenNames y6; clear_value y6; apply keeps_ite
  · apply keeps_raise (hN.via rfl); apply keeps_bump (hN.via rfl); apply keeps_setDet (hN.via rfl); exact h4
  · apply keeps_setDet (hN.via rfl); exact h4

theorem keeps_liveStore (hN : Within 0x800 N) (flags time : ℕ) (planes : List (List ℤ)) (s : State) (hs : Keeps N s₀ s)
    : Keeps N s₀ (liveStore flags time planes s) := by
  unfold liveStore; extract_lets +onlyGivenNames y1; clear_value y1; extract_lets +onlyGivenNames y2; clear_value y2
  refine Keeps.update 0x800 (hN.via rfl) ?_ rfl rfl rfl; exact hs

theorem keeps_markHot (hN : Within 0x800 N) (g : ℕ) (s : State) (hs : Keeps N s₀ s) : Keeps N s₀ (markHot g s) := by
  unfold markHot; extract_lets +onlyGivenNames y1; clear_value y1; apply keeps_ite
  · exact hs
  · apply keeps_ite
    · refine Keeps.update 0x800 (hN.via rfl) ?_ rfl rfl rfl; exact hs
    · refine Keeps.update 0x800 (hN.via rfl) ?_ rfl rfl rfl; exact hs

theorem keeps_blockOver (hN : Within 0x800 N) (g : ℕ) (s : State) (hs : Keeps N s₀ s) : Keeps N s₀ (blockOver g s) := by
  unfold blockOver; extract_lets +onlyGivenNames y1; clear_value y1
  refine Keeps.update 0x800 (hN.via rfl) ?_ rfl rfl rfl; exact hs

theorem keeps_execAudioBlockEnd (hN : Within 0x20083e N) (g formed : ℕ) (pcm : List (List ℤ)) (s : State) (hs : Keeps N s₀ s)
    : Keeps N s₀ (execAudioBlockEnd g formed pcm s) := by
  unfold execAudioBlockEnd; apply keeps_ite
  · exact hs
  · extract_lets +onlyGivenNames y1; clear_value y1; extract_lets +onlyGivenNames y2; clear_value y2
    extract_lets +onlyGivenNames y3
    have h4 : Keeps N s₀ y3.2 := by
      unfold y3; apply keeps_captureBlock (hN.via rfl); exact hs
    clear_value y3; extract_lets +onlyGivenNames y5; clear_value y5; extract_lets +onlyGivenNames y6
    have h7 : Keeps N s₀ y6 := by
      unfold y6; exact h4
    clear_value y6; extract_lets +onlyGivenNames y8; clear_value y8; extract_lets +onlyGivenNames y9; clear_value y9
    extract_lets +onlyGivenNames y10; clear_value y10; extract_lets +onlyGivenNames y11
    have h12 : Keeps N s₀ y11 := by
      unfold y11; refine Keeps.update 0x200000 (hN.via rfl) ?_ rfl rfl rfl; exact h7
    clear_value y11; extract_lets +onlyGivenNames y13; clear_value y13; extract_lets +onlyGivenNames y14
    clear_value y14; extract_lets +onlyGivenNames y15; clear_value y15; extract_lets +onlyGivenNames y16
    clear_value y16; extract_lets +onlyGivenNames y17; clear_value y17; extract_lets +onlyGivenNames y18
    clear_value y18; extract_lets +onlyGivenNames y19; clear_value y19; extract_lets +onlyGivenNames y20
    clear_value y20; extract_lets +onlyGivenNames y21; clear_value y21; extract_lets +onlyGivenNames y22
    clear_value y22; extract_lets +onlyGivenNames y23; clear_value y23; extract_lets +onlyGivenNames y24
    clear_value y24; extract_lets +onlyGivenNames y25
    have h26 : Keeps N s₀ y25 := by
      unfold y25; apply keeps_ringStore (hN.via rfl); apply keeps_lateWrite (hN.via rfl); exact h12
    clear_value y25; extract_lets +onlyGivenNames y27; extract_lets +onlyGivenNames y28
    have h29 : Keeps N s₀ y28 := by
      unfold y28; apply keeps_ite
      · refine Keeps.update 0x800 (hN.via rfl) ?_ rfl rfl rfl; exact h26
      · apply keeps_ite
        · apply keeps_liveStore (hN.via rfl); exact h12
        · exact h12
    clear_value y28; extract_lets +onlyGivenNames y30
    have h31 : Keeps N s₀ y30 := by
      unfold y30; apply keeps_ite
      · apply keeps_detUpdate (hN.via rfl); exact h29
      · exact h29
    clear_value y30; extract_lets +onlyGivenNames y32
    have h33 : Keeps N s₀ y32 := by
      unfold y32; apply keeps_ite
      · apply Keeps.foldl
        · intro z34 z35 h36; apply keeps_aecTrack (hN.via rfl); exact h36
        · exact h31
      · exact h31
    clear_value y32; extract_lets +onlyGivenNames y37
    have h38 : Keeps N s₀ y37 := by
      unfold y37; apply keeps_markHot (hN.via rfl); exact h33
    clear_value y37; extract_lets +onlyGivenNames y39
    have h40 : Keeps N s₀ y39 := by
      unfold y39; apply keeps_ite
      · apply keeps_ringAdvance (hN.via rfl); apply keeps_ringHorizon (hN.via rfl); exact h38
      · exact h38
    clear_value y39; extract_lets +onlyGivenNames y41
    have h42 : Keeps N s₀ y41 := by
      unfold y41; apply keeps_blockOver (hN.via rfl); exact h40
    clear_value y41; apply keeps_bankBoundary (hN.via rfl); apply keeps_ite
    · apply keeps_ceAccept (hN.via rfl); exact h42
    · exact h42

theorem keeps_resyncGroup (hN : Within 0x80a N) (g : ℕ) (s : State) (hs : Keeps N s₀ s) : Keeps N s₀ (resyncGroup g s) := by
  unfold resyncGroup; extract_lets +onlyGivenNames y1; extract_lets +onlyGivenNames y2
  have h3 : Keeps N s₀ y2 := by
    unfold y2; refine Keeps.update 0x800 (hN.via rfl) ?_ rfl rfl rfl; exact hs
  clear_value y2; apply keeps_bump (hN.via rfl); apply keeps_detRestart (hN.via rfl); exact h3

theorem keeps_execResyncDone (hN : Within 0x80a N) (g : ℕ) (s : State) (hs : Keeps N s₀ s) : Keeps N s₀ (execResyncDone g s) := by
  unfold execResyncDone
  split
  · apply keeps_ite
    · exact hs
    · apply keeps_raise (hN.via rfl); refine Keeps.update 0x800 (hN.via rfl) ?_ rfl rfl rfl; exact hs
  · exact hs

theorem keeps_bankRequest (hN : Within 0x802 N) (g : ℕ) (s : State) (hs : Keeps N s₀ s) : Keeps N s₀ (bankRequest g s) := by
  unfold bankRequest; apply keeps_setFlag (hN.via rfl); refine Keeps.update 0x800 (hN.via rfl) ?_ rfl rfl rfl
  exact hs

theorem keeps_execSwitch (hN : Within 0x1009ca N) (w : Func) (g : ℕ) (s : State) (hs : Keeps N s₀ s)
    : Keeps N s₀ (execSwitch w g s) := by
  unfold execSwitch; apply keeps_access (hN.via rfl)
  · intro z1 h2; apply keeps_bankRequest (hN.via rfl); exact h2
  · exact hs

theorem keeps_releaseRead (hN : Within 0x20010a N) (tenant : Option ℕ) (island addr : ℕ) (s : State) (hs : Keeps N s₀ s)
    : Keeps N s₀ (releaseRead tenant island addr s).2 := by
  unfold releaseRead
  split
  · exact hs
  · split
    · dsimp -zeta only; apply keeps_bump (hN.via rfl); exact hs
    · split
      · dsimp -zeta only; apply keeps_ite
        · exact hs
        · apply keeps_hhCapture (hN.via rfl); exact hs
      · extract_lets +onlyGivenNames y1
        have h2 : Keeps N s₀ y1.2 := by
          unfold y1; apply keeps_fresh (hN.via rfl); exact hs
        clear_value y1; exact h2

theorem keeps_releaseAnswer (hN : Within 0x30010a N) (tenant : Option ℕ) (addr : ℕ) (s : State) (hs : Keeps N s₀ s)
    : Keeps N s₀ (releaseAnswer tenant addr s) := by
  unfold releaseAnswer; extract_lets +onlyGivenNames y1
  have h2 : Keeps N s₀ y1.2 := by
    unfold y1; apply keeps_releaseRead (hN.via rfl); exact hs
  clear_value y1; apply keeps_emit (hN.via rfl); exact h2

theorem keeps_readsEnd (hN : Within 0x30090a N) (s : State) (hs : Keeps N s₀ s) : Keeps N s₀ (readsEnd s) := by
  unfold readsEnd; apply Keeps.foldl
  · intro z1 z2 h3; apply keeps_releaseAnswer (hN.via rfl); exact h3
  · refine Keeps.update 0x800 (hN.via rfl) ?_ rfl rfl rfl; exact hs

theorem keeps_execReleasePortRead (hN : Within 0x30090a N) (tenant : Option ℕ) (addr : ℕ) (s : State) (hs : Keeps N s₀ s)
    : Keeps N s₀ (execReleasePortRead tenant addr s) := by
  unfold execReleasePortRead; apply keeps_ite
  · refine Keeps.update 0x800 (hN.via rfl) ?_ rfl rfl rfl; exact hs
  · apply keeps_releaseAnswer (hN.via rfl); exact hs

theorem keeps_setVo (hN : Within 0x800 N) (p : ℕ) (v : VoSt) (s : State) (hs : Keeps N s₀ s) : Keeps N s₀ (setVo p v s) := by
  unfold setVo; apply keeps_ite
  · refine Keeps.update 0x800 (hN.via rfl) ?_ rfl rfl rfl; exact hs
  · refine Keeps.update 0x800 (hN.via rfl) ?_ rfl rfl rfl; exact hs

theorem keeps_voStart (hN : Within 0x802 N) (p : ℕ) (s : State) (hs : Keeps N s₀ s) : Keeps N s₀ (voStart p s) := by
  unfold voStart; apply keeps_setFlag (hN.via rfl); apply keeps_setVo (hN.via rfl); exact hs

theorem keeps_voStop (hN : Within 0x800 N) (p : ℕ) (s : State) (hs : Keeps N s₀ s) : Keeps N s₀ (voStop p s) := by
  unfold voStop; apply keeps_setVo (hN.via rfl); exact hs

theorem keeps_voBegin (hN : Within 0x80a N) (p t : ℕ) (s : State) (hs : Keeps N s₀ s) : Keeps N s₀ (voBegin p t s) := by
  unfold voBegin; apply keeps_raise (hN.via rfl); apply keeps_wr64 (hN.via rfl); apply keeps_setFlag (hN.via rfl)
  apply keeps_setVo (hN.via rfl); exact hs

theorem keeps_voEnd (hN : Within 0x802 N) (p : ℕ) (s : State) (hs : Keeps N s₀ s) : Keeps N s₀ (voEnd p s) := by
  unfold voEnd; extract_lets +onlyGivenNames y1; apply keeps_setFlag (hN.via rfl); apply keeps_setVo (hN.via rfl)
  exact hs

theorem keeps_voEdges (hN : Within 0x80a N) (p t : ℕ) (s : State) (hs : Keeps N s₀ s) : Keeps N s₀ (voEdges p t s) := by
  unfold voEdges; extract_lets +onlyGivenNames y1; extract_lets +onlyGivenNames y2; clear_value y2
  apply Keeps.foldl
  · intro z3 z4 h5; apply keeps_ite
    · apply keeps_voBegin (hN.via rfl); exact h5
    · apply keeps_voEnd (hN.via rfl); exact h5
  · apply keeps_setVo (hN.via rfl); exact hs

theorem keeps_voSourceA (hN : Within 0x80a N) (p : ℕ) (s : State) (hs : Keeps N s₀ s) : Keeps N s₀ (voSourceA p s).2 := by
  unfold voSourceA; extract_lets +onlyGivenNames y1
  split
  · exact hs
  · split
    · split
      · dsimp -zeta only; apply keeps_raise (hN.via rfl); apply keeps_setFlag (hN.via rfl)
        apply keeps_setVo (hN.via rfl); exact hs
      · extract_lets +onlyGivenNames y2
        have h3 : Keeps N s₀ y2 := by
          unfold y2; apply keeps_bump (hN.via rfl); apply keeps_setVo (hN.via rfl); exact hs
        clear_value y2; dsimp -zeta only; apply keeps_ite
        · exact h3
        · apply keeps_raise (hN.via rfl); exact h3
    · split
      · dsimp -zeta only; apply keeps_raise (hN.via rfl); apply keeps_setFlag (hN.via rfl)
        apply keeps_setVo (hN.via rfl); exact hs
      · dsimp -zeta only; apply keeps_setVo (hN.via rfl); exact hs

theorem keeps_execVoFrame (hN : Within 0x10080a N) (p t : ℕ) (s : State) (hs : Keeps N s₀ s) : Keeps N s₀ (execVoFrame p t s) := by
  unfold execVoFrame; apply keeps_ite
  · exact hs
  · extract_lets +onlyGivenNames y1
    have h2 : Keeps N s₀ y1 := by
      unfold y1; apply keeps_voEdges (hN.via rfl); exact hs
    clear_value y1; extract_lets +onlyGivenNames y3
    have h4 : Keeps N s₀ y3.2 := by
      unfold y3; apply keeps_voSourceA (hN.via rfl); exact h2
    clear_value y3; extract_lets +onlyGivenNames y5; clear_value y5; extract_lets +onlyGivenNames y6
    have h7 : Keeps N s₀ y6 := by
      unfold y6; exact h4
    clear_value y6; extract_lets +onlyGivenNames y8; extract_lets +onlyGivenNames y9; clear_value y9
    extract_lets +onlyGivenNames y10; clear_value y10; apply keeps_emit (hN.via rfl); apply keeps_bump (hN.via rfl)
    apply keeps_setVo (hN.via rfl); exact h7

theorem keeps_voPush (hN : Within 0x800 N) (p : ℕ) (srcA last : Bool) (bs : List Byte) (s : State) (hs : Keeps N s₀ s)
    : Keeps N s₀ (voPush p srcA last bs s) := by
  unfold voPush; extract_lets +onlyGivenNames y1; clear_value y1; extract_lets +onlyGivenNames y2
  extract_lets +onlyGivenNames y3; clear_value y3; extract_lets +onlyGivenNames y4; clear_value y4
  extract_lets +onlyGivenNames y5; clear_value y5; apply keeps_ite
  · apply keeps_setVo (hN.via rfl); exact hs
  · apply keeps_setVo (hN.via rfl); exact hs

theorem keeps_ainRegWrite (hN : Within 0x80a N) (g off : ℕ) (v : Word) (s : State) (hs : Keeps N s₀ s)
    : Keeps N s₀ (ainRegWrite g off v s) := by
  unfold ainRegWrite; extract_lets +onlyGivenNames y1; clear_value y1; extract_lets +onlyGivenNames y2
  have h3 : Keeps N s₀ y2 := by
    unfold y2; apply keeps_refuse (hN.via rfl); exact hs
  clear_value y2; apply keeps_ite
  · apply keeps_ite
    · exact h3
    · apply keeps_plainWrite (hN.via rfl); apply keeps_ite
      · exact hs
      · apply keeps_lineClear (hN.via rfl); exact hs
  · apply keeps_ite
    · apply keeps_ite
      · exact h3
      · apply keeps_plainWrite (hN.via rfl); exact hs
    · apply keeps_ite
      · apply keeps_sampleWrite (hN.via rfl); exact hs
      · apply keeps_plainWrite (hN.via rfl); exact hs

theorem keeps_bfRegWrite (hN : Within 0x80a N) (g off : ℕ) (v : Word) (s : State) (hs : Keeps N s₀ s)
    : Keeps N s₀ (bfRegWrite g off v s) := by
  unfold bfRegWrite; extract_lets +onlyGivenNames y1; clear_value y1; extract_lets +onlyGivenNames y2
  have h3 : Keeps N s₀ y2 := by
    unfold y2; apply keeps_refuse (hN.via rfl); exact hs
  clear_value y2; apply keeps_ite
  · apply keeps_ite
    · exact h3
    · apply keeps_plainWrite (hN.via rfl); exact hs
  · apply keeps_ite
    · apply keeps_ite
      · exact h3
      · apply keeps_plainWrite (hN.via rfl); exact hs
    · apply keeps_ite
      · apply keeps_ite
        · apply keeps_bankRequest (hN.via rfl); exact hs
        · exact hs
      · apply keeps_ite
        · exact h3
        · apply keeps_ite
          · apply keeps_ite
            · exact h3
            · apply keeps_plainWrite (hN.via rfl); exact hs
          · apply keeps_ite
            · apply keeps_sampleWrite (hN.via rfl); exact hs
            · apply keeps_plainWrite (hN.via rfl); exact hs

theorem keeps_ringRegWrite (hN : Within 0x80a N) (off : ℕ) (v : Word) (s : State) (hs : Keeps N s₀ s)
    : Keeps N s₀ (ringRegWrite off v s) := by
  unfold ringRegWrite; extract_lets +onlyGivenNames y1
  have h2 : Keeps N s₀ y1 := by
    unfold y1; apply keeps_refuse (hN.via rfl); exact hs
  clear_value y1; apply keeps_ite
  · apply keeps_ringCtrl (hN.via rfl); exact hs
  · apply keeps_ite
    · apply keeps_ite
      · exact h2
      · apply keeps_plainWrite (hN.via rfl); exact hs
    · apply keeps_ite
      · exact h2
      · apply keeps_plainWrite (hN.via rfl); exact hs

theorem keeps_voRegWrite (hN : Within 0xa N) (p off : ℕ) (v : Word) (s : State) (hs : Keeps N s₀ s)
    : Keeps N s₀ (voRegWrite p off v s) := by
  unfold voRegWrite; extract_lets +onlyGivenNames y1
  have h2 : Keeps N s₀ y1 := by
    unfold y1; apply keeps_refuse (hN.via rfl); exact hs
  clear_value y1; apply keeps_ite
  · apply keeps_ite
    · exact h2
    · apply keeps_plainWrite (hN.via rfl); exact hs
  · apply keeps_ite
    · exact h2
    · apply keeps_plainWrite (hN.via rfl); exact hs

theorem keeps_setQueue (hN : Within 0x40000 N) (q : ℕ) (r : Queue) (s : State) (hs : Keeps N s₀ s) : Keeps N s₀ (setQueue q r s) := by
  unfold setQueue; refine Keeps.update 0x40000 (hN.via rfl) ?_ rfl rfl rfl; exact hs

theorem keeps_updQueue (hN : Within 0x40000 N) (q : ℕ) (f : Queue → Queue) (s : State) (hs : Keeps N s₀ s)
    : Keeps N s₀ (updQueue q f s) := by
  unfold updQueue; apply keeps_setQueue (hN.via rfl); exact hs

end Sys2Proof.Machine
end

