-- ==== Sys2Proof/Laws/KeepsB.lean ====
section
/-! SUPPORT. What every operation keeps (Keeps.lean), for the operations of Image.lean, Csi.lean, Memory.lean. -/
namespace Sys2Proof.Machine
set_option Elab.async false

variable {s₀ : State} {N : Nat}

theorem keeps_setIsp (hN : Within 0x4000 N) (n : ℕ) (p : IspSt) (s : State) (hs : Keeps N s₀ s) : Keeps N s₀ (setIsp n p s) := by
  unfold setIsp; refine Keeps.update 0x4000 (hN.via rfl) ?_ rfl rfl rfl; exact hs

theorem keeps_updFrame (hN : Within 0x4000 N) (n : ℕ) (p : IspFrame → Bool) (g : IspFrame → IspFrame) (s : State) (hs : Keeps N s₀ s)
    : Keeps N s₀ (updFrame n p g s) := by
  unfold updFrame; apply keeps_setIsp (hN.via rfl); exact hs

theorem keeps_outDrop (hN : Within 0x400a N) (n : ℕ) (f : IspFrame) (q : OutFrame) (s : State) (hs : Keeps N s₀ s)
    : Keeps N s₀ (outDrop n f q s).2 := by
  unfold outDrop; extract_lets +onlyGivenNames y1; extract_lets +onlyGivenNames y2; clear_value y2; dsimp -zeta only
  apply keeps_raise (hN.via rfl); apply keeps_bump (hN.via rfl); apply keeps_setIsp (hN.via rfl); exact hs

theorem keeps_layoutTake (hN : Within 0x4000 N) (n o k : ℕ) (s : State) (hs : Keeps N s₀ s) : Keeps N s₀ (layoutTake n o k s) := by
  unfold layoutTake
  split
  · exact hs
  · extract_lets +onlyGivenNames y1; extract_lets +onlyGivenNames y2; clear_value y2
    extract_lets +onlyGivenNames y3; clear_value y3; apply keeps_setIsp (hN.via rfl); exact hs

theorem keeps_outEmit (hN : Within 0x410a N) (n : ℕ) (f : IspFrame) (q : OutFrame) (segs : List (ℕ × List Byte)) (s : State)
    (hs : Keeps N s₀ s) : Keeps N s₀ (outEmit n f q segs s).2 := by
  unfold outEmit; extract_lets +onlyGivenNames y1; extract_lets +onlyGivenNames y2; clear_value y2
  extract_lets +onlyGivenNames y3; clear_value y3
  split
  · exact hs
  · split
    · apply keeps_outDrop (hN.via rfl); exact hs
    · extract_lets +onlyGivenNames y4
      have h5 : Keeps N s₀ y4 := by
        unfold y4; apply keeps_setIsp (hN.via rfl); exact hs
      clear_value y4; extract_lets +onlyGivenNames y6
      have h7 : Keeps N s₀ y6 := by
        unfold y6; apply keeps_ite
        · apply keeps_hhCapture (hN.via rfl); exact h5
        · exact h5
      clear_value y6; exact h7

theorem keeps_outStep (hN : Within 0x410a N) (n : Nat) (f : IspFrame) (q : OutFrame) (s : State) (r : OutFrame × State) (hs : Keeps N s₀ s)
    (hr : outStep n f q s = some r) : Keeps N s₀ r.2 := by
  unfold outStep at hr
  extract_lets g reach r1 e1 u1 px r2 e2 u2 at hr
  have h1 : Keeps N s₀ e1.2 := keeps_outEmit (hN.via rfl) _ _ _ _ _ hs
  have h2 : Keeps N s₀ e2.2 := keeps_outEmit (hN.via rfl) _ _ _ _ _ (keeps_bump (hN.via rfl) _ _ _ _ hs)
  clear_value u1 u2 e1 e2
  split at hr
  · cases hr
  · split at hr
    · injection hr with hr; subst hr
      split
      · exact h1
      · exact keeps_bump (hN.via rfl) _ _ _ _ h1
    · split at hr
      · injection hr with hr; subst hr
        split <;> exact h2
      · cases hr

theorem keeps_outRun (hN : Within 0x410a N) (n : Nat) (f : IspFrame) (k : Nat) (q : OutFrame) (s : State) (hs : Keeps N s₀ s) :
    Keeps N s₀ (outRun n f k q s).2 := by
  induction k generalizing q s with
  | zero => exact hs
  | succ k ih =>
    unfold outRun
    split
    · exact hs
    · rename_i q' s' e; exact ih _ _ (keeps_outStep (hN.via rfl) _ _ _ _ _ hs e)

theorem keeps_outsRun (hN : Within 0x410a N) (n : ℕ) (f : IspFrame) (s : State) (hs : Keeps N s₀ s) : Keeps N s₀ (outsRun n f s).2 := by
  unfold outsRun; apply Keeps.foldl_snd
  · intro z1 z2 h3; extract_lets +onlyGivenNames y4
    have h5 : Keeps N s₀ y4.2 := by
      unfold y4; apply keeps_outRun (hN.via rfl); exact h3
    clear_value y4; exact h5
  · exact hs

theorem keeps_outFinish (hN : Within 0x400a N) (n : ℕ) (f : IspFrame) (s : State) (q : OutFrame) (hs : Keeps N s₀ s)
    : Keeps N s₀ (outFinish n f s q) := by
  unfold outFinish; extract_lets +onlyGivenNames y1; extract_lets +onlyGivenNames y2; clear_value y2
  extract_lets +onlyGivenNames y3
  have h4 : Keeps N s₀ y3 := by
    unfold y3; apply keeps_ite
    · apply keeps_ite
      · apply keeps_raise (hN.via rfl); apply keeps_bump (hN.via rfl); exact hs
      · apply keeps_raise (hN.via rfl); apply keeps_setIsp (hN.via rfl); exact hs
    · exact hs
  clear_value y3; exact h4

theorem keeps_frameSettle (hN : Within 0x400a N) (n : ℕ) (f : IspFrame) (s : State) (hs : Keeps N s₀ s)
    : Keeps N s₀ (frameSettle n f s) := by
  unfold frameSettle; extract_lets +onlyGivenNames y1; clear_value y1; extract_lets +onlyGivenNames y2
  have h3 : Keeps N s₀ y2 := by
    unfold y2; apply Keeps.foldl
    · intro z4 z5 h6; apply keeps_outFinish (hN.via rfl); exact h6
    · exact hs
  clear_value y2; extract_lets +onlyGivenNames y7; apply keeps_ite
  · apply keeps_endCmd (hN.via rfl); apply keeps_setIsp (hN.via rfl); exact h3
  · apply keeps_setIsp (hN.via rfl); exact h3

theorem keeps_ispSettle (hN : Within 0x400a N) (n : ℕ) (s : State) (hs : Keeps N s₀ s) : Keeps N s₀ (ispSettle n s) := by
  unfold ispSettle; apply Keeps.foldl
  · intro z1 z2 h3; apply keeps_frameSettle (hN.via rfl); exact h3
  · exact hs

theorem keeps_outRefused (hN : Within 0x400a N) (n o : ℕ) (s : State) (hs : Keeps N s₀ s) : Keeps N s₀ (outRefused n o s) := by
  unfold outRefused; extract_lets +onlyGivenNames y1
  split
  · exact hs
  · extract_lets +onlyGivenNames y2; clear_value y2; extract_lets +onlyGivenNames y3; clear_value y3
    extract_lets +onlyGivenNames y4; clear_value y4; extract_lets +onlyGivenNames y5; clear_value y5
    extract_lets +onlyGivenNames y6
    have h7 : Keeps N s₀ y6 := by
      unfold y6; apply keeps_setIsp (hN.via rfl); exact hs
    clear_value y6; extract_lets +onlyGivenNames y8
    have h9 : Keeps N s₀ y8 := by
      unfold y8; apply keeps_ite
      · apply keeps_raise (hN.via rfl); apply keeps_bump (hN.via rfl); exact h7
      · exact h7
    clear_value y8; apply keeps_ispSettle (hN.via rfl); exact h9

theorem keeps_statWrite (hN : Within 0x400a N) (n : ℕ) (f : IspFrame) (s : State) (hs : Keeps N s₀ s)
    : Keeps N s₀ (statWrite n f s) := by
  unfold statWrite; extract_lets +onlyGivenNames y1; extract_lets +onlyGivenNames y2; clear_value y2
  apply keeps_ite
  · exact hs
  · apply keeps_ite
    · apply keeps_bump (hN.via rfl); exact hs
    · extract_lets +onlyGivenNames y3; clear_value y3; apply keeps_raise (hN.via rfl)
      apply keeps_setIsp (hN.via rfl); exact hs

theorem keeps_updNewest (hN : Within 0x4000 N) (n i : ℕ) (g : IspFrame → IspFrame) (s : State) (hs : Keeps N s₀ s)
    : Keeps N s₀ (updNewest n i g s) := by
  unfold updNewest; apply keeps_setIsp (hN.via rfl); exact hs

theorem keeps_ispFinish (hN : Within 0x410a N) (n i : ℕ) (s : State) (hs : Keeps N s₀ s) : Keeps N s₀ (ispFinish n i s) := by
  unfold ispFinish
  split
  · exact hs
  · apply keeps_ite
    · extract_lets +onlyGivenNames y1
      have h2 : Keeps N s₀ y1.2 := by
        unfold y1; apply keeps_outsRun (hN.via rfl); exact hs
      clear_value y1; extract_lets +onlyGivenNames y3
      have h4 : Keeps N s₀ y3 := by
        unfold y3; apply keeps_statWrite (hN.via rfl); exact h2
      clear_value y3; extract_lets +onlyGivenNames y5; clear_value y5; apply keeps_ispSettle (hN.via rfl)
      apply keeps_bump (hN.via rfl); apply keeps_setIsp (hN.via rfl); exact h4
    · exact hs

theorem keeps_ispCutAt (hN : Within 0x4000 N) (n i c : ℕ) (s : State) (hs : Keeps N s₀ s) : Keeps N s₀ (ispCutAt n i c s) := by
  unfold ispCutAt; apply keeps_updNewest (hN.via rfl); exact hs

theorem keeps_outsOpened (hN : Within 0x4000 N) (n : ℕ) (outs : List ℕ) (s : State) (hs : Keeps N s₀ s)
    : Keeps N s₀ (outsOpened n outs s) := by
  unfold outsOpened; extract_lets +onlyGivenNames y1; apply keeps_setIsp (hN.via rfl); exact hs

theorem keeps_relatch (hN : Within 0x4000 N) (n : ℕ) (f : IspFrame) (s : State) (hs : Keeps N s₀ s) : Keeps N s₀ (relatch n f s) := by
  unfold relatch; extract_lets +onlyGivenNames y1; extract_lets +onlyGivenNames y2; clear_value y2
  extract_lets +onlyGivenNames y3; clear_value y3; extract_lets +onlyGivenNames y4; clear_value y4
  extract_lets +onlyGivenNames y5; clear_value y5; extract_lets +onlyGivenNames y6; clear_value y6
  apply keeps_outsOpened (hN.via rfl); apply keeps_setIsp (hN.via rfl); exact hs

theorem keeps_latchesEnd (hN : Within 0x4000 N) (s : State) (hs : Keeps N s₀ s) : Keeps N s₀ (latchesEnd s) := by
  unfold latchesEnd; apply Keeps.foldl
  · intro z1 z2 h3; apply Keeps.foldl
    · intro z4 z5 h6; apply keeps_relatch (hN.via rfl); exact h6
    · exact h3
  · exact hs

theorem keeps_ispOpen (hN : Within 0x400a N) (n i port dt frameNo sofTt seq width height : ℕ) (s : State) (hs : Keeps N s₀ s)
    : Keeps N s₀ (ispOpen n i port dt frameNo sofTt seq width height s).2 := by
  unfold ispOpen; extract_lets +onlyGivenNames y1; clear_value y1; extract_lets +onlyGivenNames y2
  extract_lets +onlyGivenNames y3; clear_value y3; extract_lets +onlyGivenNames y4; clear_value y4
  split
  · exact hs
  · extract_lets +onlyGivenNames y5; clear_value y5; extract_lets +onlyGivenNames y6; clear_value y6
    extract_lets +onlyGivenNames y7
    have h8 : Keeps N s₀ y7 := by
      unfold y7; apply keeps_startCmd (hN.via rfl); apply keeps_outsOpened (hN.via rfl)
      apply keeps_setIsp (hN.via rfl); exact hs
    clear_value y7; extract_lets +onlyGivenNames y9
    have h10 : Keeps N s₀ y9 := by
      unfold y9; apply Keeps.foldl
      · intro z11 z12 h13; extract_lets +onlyGivenNames y14; clear_value y14; apply keeps_ite
        · extract_lets +onlyGivenNames y15
          have h16 : Keeps N s₀ y15.2 := by
            unfold y15; apply keeps_outDrop (hN.via rfl); exact h13
          clear_value y15; apply keeps_updNewest (hN.via rfl); exact h16
        · exact h13
      · exact h8
    clear_value y9; dsimp -zeta only; apply keeps_ite
    · exact h10
    · apply keeps_refuse (hN.via rfl); exact h10

theorem keeps_ispLine (hN : Within 0x400a N) (n i : ℕ) (ps : List (List ℕ)) (s : State) (hs : Keeps N s₀ s)
    : Keeps N s₀ (ispLine n i ps s).2 := by
  unfold ispLine
  split
  · exact hs
  · split
    · exact hs
    · split
      · dsimp -zeta only; apply keeps_bump (hN.via rfl); apply keeps_raise (hN.via rfl)
        apply keeps_ispCutAt (hN.via rfl); exact hs
      · dsimp -zeta only; apply keeps_updNewest (hN.via rfl); exact hs

theorem keeps_ispClose (hN : Within 0x410a N) (n i flags : ℕ) (s : State) (hs : Keeps N s₀ s) : Keeps N s₀ (ispClose n i flags s) := by
  unfold ispClose; apply keeps_ispFinish (hN.via rfl); apply keeps_updNewest (hN.via rfl); exact hs

theorem keeps_execSliceStart (hN : Within 0x4000 N) (n : ℕ) (s : State) (hs : Keeps N s₀ s) : Keeps N s₀ (execSliceStart n s) := by
  unfold execSliceStart; apply keeps_ite
  · apply keeps_setIsp (hN.via rfl); exact hs
  · exact hs

theorem keeps_sliceGrant (hN : Within 0x4008 N) (n : ℕ) (s : State) (hs : Keeps N s₀ s) : Keeps N s₀ (sliceGrant n s) := by
  unfold sliceGrant; extract_lets +onlyGivenNames y1; extract_lets +onlyGivenNames y2
  have h3 : Keeps N s₀ y2 := by
    unfold y2; apply keeps_setIsp (hN.via rfl); exact hs
  clear_value y2; apply keeps_ite
  · exact h3
  · extract_lets +onlyGivenNames y4; clear_value y4
    split
    · exact h3
    · extract_lets +onlyGivenNames y5; clear_value y5; extract_lets +onlyGivenNames y6
      extract_lets +onlyGivenNames y7
      have h8 : Keeps N s₀ y7 := by
        unfold y7; apply keeps_setIsp (hN.via rfl); exact h3
      clear_value y7; refine Keeps.update 0x8 (hN.via rfl) ?_ rfl rfl rfl; exact h8

theorem keeps_grantsEnd (hN : Within 0x4008 N) (s : State) (hs : Keeps N s₀ s) : Keeps N s₀ (grantsEnd s) := by
  unfold grantsEnd; apply Keeps.foldl
  · intro z1 z2 h3; apply keeps_sliceGrant (hN.via rfl); exact h3
  · exact hs

theorem keeps_execSliceEnd (hN : Within 0x20410a N) (n : ℕ) (s : State) (hs : Keeps N s₀ s) : Keeps N s₀ (execSliceEnd n s) := by
  unfold execSliceEnd
  split
  · exact hs
  · apply keeps_ite
    · exact hs
    · extract_lets +onlyGivenNames y1; extract_lets +onlyGivenNames y2
      have h3 : Keeps N s₀ y2 := by
        unfold y2; apply keeps_setIsp (hN.via rfl); exact hs
      clear_value y2
      split
      · exact h3
      · extract_lets +onlyGivenNames y4; clear_value y4; extract_lets +onlyGivenNames y5; clear_value y5
        extract_lets +onlyGivenNames y6
        have h7 : Keeps N s₀ y6 := by
          unfold y6; refine Keeps.update 0x200000 (hN.via rfl) ?_ rfl rfl rfl; exact h3
        clear_value y6; extract_lets +onlyGivenNames y8; clear_value y8; extract_lets +onlyGivenNames y9
        have h10 : Keeps N s₀ y9 := by
          unfold y9; apply keeps_bump (hN.via rfl); apply keeps_bump (hN.via rfl); exact h7
        clear_value y9; extract_lets +onlyGivenNames y11
        have h12 : Keeps N s₀ y11.2 := by
          unfold y11; apply keeps_outsRun (hN.via rfl); exact h10
        clear_value y11; extract_lets +onlyGivenNames y13
        have h14 : Keeps N s₀ y13 := by
          unfold y13; apply keeps_ispFinish (hN.via rfl); apply keeps_updFrame (hN.via rfl); exact h12
        clear_value y13; apply keeps_setIsp (hN.via rfl); exact h14

theorem keeps_tblAdvance (hN : Within 0x2 N) (n off w : ℕ) (s : State) (hs : Keeps N s₀ s) : Keeps N s₀ (tblAdvance n off w s) := by
  unfold tblAdvance; apply keeps_setFld (hN.via rfl); exact hs

theorem keeps_tblWrite (hN : Within 0x4002 N) (n : ℕ) (v : Word) (s : State) (hs : Keeps N s₀ s) : Keeps N s₀ (tblWrite n v s) := by
  unfold tblWrite; extract_lets +onlyGivenNames y1; clear_value y1; extract_lets +onlyGivenNames y2; clear_value y2
  apply keeps_tblAdvance (hN.via rfl); apply keeps_setIsp (hN.via rfl); exact hs

theorem keeps_execIspTblDataAccess (hN : Within 0x1041ca N) (w : Func) (n : ℕ) (v : Option Word) (s : State) (hs : Keeps N s₀ s)
    : Keeps N s₀ (execIspTblDataAccess w n v s) := by
  unfold execIspTblDataAccess
  split
  · apply keeps_access (hN.via rfl)
    · intro z1 h2; apply keeps_tblWrite (hN.via rfl); exact h2
    · exact hs
  · apply keeps_readAccess (hN.via rfl)
    · intro z3 h4; dsimp -zeta only; apply keeps_tblAdvance (hN.via rfl); exact h4
    · exact hs

theorem keeps_xtblWrite (hN : Within 0x4002 N) (n : ℕ) (v : Word) (s : State) (hs : Keeps N s₀ s) : Keeps N s₀ (xtblWrite n v s) := by
  unfold xtblWrite; apply keeps_tblAdvance (hN.via rfl); apply keeps_setIsp (hN.via rfl); exact hs

theorem keeps_execIspXtblDataAccess (hN : Within 0x1041ca N) (w : Func) (n : ℕ) (v : Option Word) (s : State) (hs : Keeps N s₀ s)
    : Keeps N s₀ (execIspXtblDataAccess w n v s) := by
  unfold execIspXtblDataAccess
  split
  · apply keeps_access (hN.via rfl)
    · intro z1 h2; apply keeps_xtblWrite (hN.via rfl); exact h2
    · exact hs
  · apply keeps_readAccess (hN.via rfl)
    · intro z3 h4; extract_lets +onlyGivenNames y5; clear_value y5; extract_lets +onlyGivenNames y6; clear_value y6
      dsimp -zeta only; apply keeps_tblAdvance (hN.via rfl); exact h4
    · exact hs

theorem keeps_ispRegWrite (hN : Within 0x400a N) (n off : ℕ) (v : Word) (s : State) (hs : Keeps N s₀ s)
    : Keeps N s₀ (ispRegWrite n off v s) := by
  unfold ispRegWrite; extract_lets +onlyGivenNames y1; clear_value y1; extract_lets +onlyGivenNames y2
  have h3 : Keeps N s₀ y2 := by
    unfold y2; apply keeps_refuse (hN.via rfl); exact hs
  clear_value y2; apply keeps_ite
  · apply keeps_tblWrite (hN.via rfl); exact hs
  · apply keeps_ite
    · apply keeps_xtblWrite (hN.via rfl); exact hs
    · apply keeps_ite
      · extract_lets +onlyGivenNames y4; clear_value y4; apply keeps_ite
        · extract_lets +onlyGivenNames y5; clear_value y5; apply keeps_ite
          · exact h3
          · apply keeps_plainWrite (hN.via rfl); exact hs
        · apply keeps_ite
          · apply keeps_ite
            · exact h3
            · apply keeps_plainWrite (hN.via rfl); exact hs
          · apply keeps_plainWrite (hN.via rfl); exact hs
      · apply keeps_ite
        · extract_lets +onlyGivenNames y6; clear_value y6; extract_lets +onlyGivenNames y7; clear_value y7
          extract_lets +onlyGivenNames y8; clear_value y8; extract_lets +onlyGivenNames y9; clear_value y9
          extract_lets +onlyGivenNames y10; clear_value y10; extract_lets +onlyGivenNames y11; clear_value y11
          extract_lets +onlyGivenNames y12; clear_value y12; extract_lets +onlyGivenNames y13; clear_value y13
          extract_lets +onlyGivenNames y14; clear_value y14; apply keeps_ite
          · apply keeps_ite
            · exact h3
            · extract_lets +onlyGivenNames y15; clear_value y15; extract_lets +onlyGivenNames y16
              apply keeps_plainWrite (hN.via rfl); apply keeps_ite
              · apply keeps_setIsp (hN.via rfl); exact hs
              · exact hs
          · apply keeps_ite
            · apply keeps_ite
              · apply keeps_plainWrite (hN.via rfl); exact hs
              · exact h3
            · apply keeps_plainWrite (hN.via rfl); exact hs
        · apply keeps_plainWrite (hN.via rfl); exact hs

theorem keeps_setCsi (hN : Within 0x2000 N) (r : ℕ) (c : CsiSt) (s : State) (hs : Keeps N s₀ s) : Keeps N s₀ (setCsi r c s) := by
  unfold setCsi; refine Keeps.update 0x2000 (hN.via rfl) ?_ rfl rfl rfl; exact hs

theorem keeps_updSlot (hN : Within 0x2000 N) (r k : ℕ) (f : CsiSlot → CsiSlot) (s : State) (hs : Keeps N s₀ s)
    : Keeps N s₀ (updSlot r k f s) := by
  unfold updSlot; apply keeps_setCsi (hN.via rfl); exact hs

theorem keeps_updFrameOf (hN : Within 0x2000 N) (r k : ℕ) (f : CsiFrame → CsiFrame) (s : State) (hs : Keeps N s₀ s)
    : Keeps N s₀ (updFrameOf r k f s) := by
  unfold updFrameOf; apply keeps_updSlot (hN.via rfl); exact hs

theorem keeps_csiRecordLine (hN : Within 0x10a N) (r k : ℕ) (f : CsiFrame) (line : ℕ) (ps : List (List ℕ)) (s : State)
    (hs : Keeps N s₀ s) : Keeps N s₀ (csiRecordLine r k f line ps s) := by
  unfold csiRecordLine; extract_lets +onlyGivenNames y1; clear_value y1; extract_lets +onlyGivenNames y2
  clear_value y2; extract_lets +onlyGivenNames y3; clear_value y3; extract_lets +onlyGivenNames y4; clear_value y4
  split
  · apply keeps_hhInput (hN.via rfl); exact hs
  · apply keeps_ite
    · extract_lets +onlyGivenNames y5; clear_value y5; apply keeps_hhInput (hN.via rfl); exact hs
    · exact hs
  · exact hs

theorem keeps_csiRecordFrame (hN : Within 0x10a N) (r k : ℕ) (f : CsiFrame) (s : State) (hs : Keeps N s₀ s)
    : Keeps N s₀ (csiRecordFrame r k f s) := by
  unfold csiRecordFrame; apply keeps_ite
  · exact hs
  · apply keeps_hhCapture (hN.via rfl); exact hs

theorem keeps_csiDeliver (hN : Within 0x610a N) (r k line : ℕ) (ps : List (List ℕ)) (s : State) (hs : Keeps N s₀ s)
    : Keeps N s₀ (csiDeliver r k line ps s) := by
  unfold csiDeliver
  split
  · exact hs
  · apply keeps_ite
    · exact hs
    · apply keeps_ite
      · extract_lets +onlyGivenNames y1; clear_value y1; extract_lets +onlyGivenNames y2; clear_value y2
        apply keeps_ite
        · apply keeps_bump (hN.via rfl); apply keeps_updFrameOf (hN.via rfl); exact hs
        · apply keeps_csiRecordLine (hN.via rfl); apply keeps_updSlot (hN.via rfl); exact hs
      · extract_lets +onlyGivenNames y3
        have h4 : Keeps N s₀ y3.2 := by
          unfold y3; apply keeps_ispLine (hN.via rfl); exact hs
        clear_value y3; apply keeps_ite
        · apply keeps_raise (hN.via rfl); apply keeps_bump (hN.via rfl); apply keeps_updFrameOf (hN.via rfl)
          exact h4
        · apply keeps_csiRecordLine (hN.via rfl); exact h4

theorem keeps_csiPad (hN : Within 0x610a N) (r k stop n : Nat) (s : State) (hs : Keeps N s₀ s) : Keeps N s₀ (csiPad r k stop n s).2 := by
  induction n generalizing s with
  | zero => exact hs
  | succ n ih =>
    unfold csiPad
    split
    · exact hs
    · split
      · exact hs
      · extract_lets y cut e
        have hy : Keeps N s₀ y := keeps_csiDeliver (hN.via rfl) _ _ _ _ _ hs
        split
        · exact hy
        · exact ih _ (keeps_updFrameOf (hN.via rfl) _ _ _ _ hy)

theorem keeps_csiLine (hN : Within 0x610a N) (r k : ℕ) (crcOk : Bool) (payload : List Byte) (s : State) (hs : Keeps N s₀ s)
    : Keeps N s₀ (csiLine r k crcOk payload s) := by
  unfold csiLine
  split
  · exact hs
  · extract_lets +onlyGivenNames y1; clear_value y1; extract_lets +onlyGivenNames y2; clear_value y2
    extract_lets +onlyGivenNames y3
    have h4 : Keeps N s₀ y3 := by
      unfold y3; apply keeps_updFrameOf (hN.via rfl); exact hs
    clear_value y3; extract_lets +onlyGivenNames y5
    have h6 : Keeps N s₀ y5 := by
      unfold y5; apply keeps_ite
      · exact h4
      · apply keeps_updFrameOf (hN.via rfl); exact h4
    clear_value y5; apply keeps_ite
    · exact h6
    · apply keeps_ite
      · apply keeps_updFrameOf (hN.via rfl); exact h6
      · apply keeps_ite
        · extract_lets +onlyGivenNames y7
          have h8 : Keeps N s₀ y7 := by
            unfold y7; apply keeps_ite
            · exact h6
            · apply keeps_bump (hN.via rfl); exact h6
          clear_value y7; apply keeps_updFrameOf (hN.via rfl); exact h8
        · extract_lets +onlyGivenNames y9
          have h10 : Keeps N s₀ y9 := by
            unfold y9; apply keeps_csiPad (hN.via rfl); exact h6
          clear_value y9; extract_lets +onlyGivenNames y11; clear_value y11; extract_lets +onlyGivenNames y12
          have h13 : Keeps N s₀ y12 := by
            unfold y12; apply keeps_updFrameOf (hN.via rfl); exact h10
          clear_value y12; apply keeps_ite
          · exact h13
          · extract_lets +onlyGivenNames y14; clear_value y14; extract_lets +onlyGivenNames y15
            have h16 : Keeps N s₀ y15 := by
              unfold y15; apply keeps_ite
              · exact h13
              · apply keeps_updFrameOf (hN.via rfl); exact h13
            clear_value y15; extract_lets +onlyGivenNames y17
            have h18 : Keeps N s₀ y17 := by
              unfold y17; apply keeps_ite
              · apply keeps_bump (hN.via rfl); apply keeps_updFrameOf (hN.via rfl); exact h16
              · apply keeps_ite
                · apply keeps_bump (hN.via rfl); apply keeps_updFrameOf (hN.via rfl); exact h16
                · exact h16
            clear_value y17; extract_lets +onlyGivenNames y19
            have h20 : Keeps N s₀ y19 := by
              unfold y19; apply keeps_csiDeliver (hN.via rfl); exact h18
            clear_value y19; apply keeps_updFrameOf (hN.via rfl); exact h20

theorem keeps_csiClose (hN : Within 0x610a N) (r k eofTt : ℕ) (s : State) (hs : Keeps N s₀ s) : Keeps N s₀ (csiClose r k eofTt s) := by
  unfold csiClose
  split
  · exact hs
  · extract_lets +onlyGivenNames y1
    have h2 : Keeps N s₀ y1.2 := by
      unfold y1; apply keeps_csiPad (hN.via rfl); exact hs
    clear_value y1; extract_lets +onlyGivenNames y3
    have h4 : Keeps N s₀ y3 := by
      unfold y3; apply keeps_ite
      · exact h2
      · apply keeps_bump (hN.via rfl); apply keeps_updFrameOf (hN.via rfl); exact h2
    clear_value y3; extract_lets +onlyGivenNames y5
    have h6 : Keeps N s₀ y5 := by
      unfold y5; apply keeps_updFrameOf (hN.via rfl); exact h4
    clear_value y5
    split
    · exact h6
    · extract_lets +onlyGivenNames y7
      have h8 : Keeps N s₀ y7 := by
        unfold y7; apply keeps_csiRecordFrame (hN.via rfl); apply keeps_setFld (hN.via rfl)
        apply keeps_wr (hN.via rfl); apply keeps_bump (hN.via rfl); apply keeps_updSlot (hN.via rfl); exact h6
      clear_value y7; apply keeps_ite
      · exact h8
      · apply keeps_ispClose (hN.via rfl); exact h8

theorem keeps_execFrameDescriptor (hN : Within 0x200a N) (r k : ℕ) (s : State) (hs : Keeps N s₀ s)
    : Keeps N s₀ (execFrameDescriptor r k s) := by
  unfold execFrameDescriptor; apply keeps_ite
  · exact hs
  · split
    · exact hs
    · apply keeps_ite
      · exact hs
      · extract_lets +onlyGivenNames y1
        have h2 : Keeps N s₀ y1 := by
          unfold y1; apply keeps_raise (hN.via rfl); apply keeps_endCmd (hN.via rfl)
          apply keeps_updSlot (hN.via rfl); exact hs
        clear_value y1; extract_lets +onlyGivenNames y3
        have h4 : Keeps N s₀ y3 := by
          unfold y3; apply keeps_ite
          · exact h2
          · apply keeps_raise (hN.via rfl); exact h2
        clear_value y3; apply keeps_ite
        · exact h4
        · apply keeps_ite
          · apply keeps_bump (hN.via rfl); exact h4
          · extract_lets +onlyGivenNames y5; clear_value y5; apply keeps_updSlot (hN.via rfl); exact h4

theorem keeps_csiOpen (hN : Within 0x610a N) (r k no sofTt : ℕ) (s : State) (hs : Keeps N s₀ s)
    : Keeps N s₀ (csiOpen r k no sofTt s) := by
  unfold csiOpen; extract_lets +onlyGivenNames y1; clear_value y1; extract_lets +onlyGivenNames y2; clear_value y2
  extract_lets +onlyGivenNames y3; clear_value y3; extract_lets +onlyGivenNames y4; clear_value y4
  extract_lets +onlyGivenNames y5; clear_value y5; extract_lets +onlyGivenNames y6
  have h7 : Keeps N s₀ y6 := by
    unfold y6; apply keeps_csiRecordFrame (hN.via rfl); apply keeps_setFld (hN.via rfl)
    apply keeps_startCmd (hN.via rfl); apply keeps_updSlot (hN.via rfl); exact hs
  clear_value y6; apply keeps_ite
  · apply keeps_ite
    · apply keeps_bump (hN.via rfl); apply keeps_updFrameOf (hN.via rfl); exact h7
    · exact h7
  · extract_lets +onlyGivenNames y8
    have h9 : Keeps N s₀ y8.2 := by
      unfold y8; apply keeps_ispOpen (hN.via rfl); exact h7
    clear_value y8; apply keeps_ite
    · exact h9
    · apply keeps_raise (hN.via rfl); apply keeps_bump (hN.via rfl); apply keeps_updFrameOf (hN.via rfl); exact h9

theorem keeps_updOpen (hN : Within 0x2000 N) (r : ℕ) (f : CsiFrame → CsiFrame) (s : State) (hs : Keeps N s₀ s)
    : Keeps N s₀ (updOpen r f s) := by
  unfold updOpen; apply Keeps.foldl
  · intro z1 z2 h3; apply keeps_updFrameOf (hN.via rfl); exact h3
  · exact hs

theorem keeps_avkCount (hN : Within 0x2 N) (r vc lo : ℕ) (s : State) (hs : Keeps N s₀ s) : Keeps N s₀ (avkCount r vc lo s) := by
  unfold avkCount; extract_lets +onlyGivenNames y1; clear_value y1; apply keeps_ite
  · apply keeps_setFld (hN.via rfl); exact hs
  · exact hs

theorem keeps_csiPacket (hN : Within 0x200a N) (r vc : ℕ) (ecc : Ecc) (slots : State → List ℕ) (k : State → State) (s : State)
    (hs : ∀ z0, Keeps N s₀ z0 → Keeps N s₀ (k z0)) (hs1 : Keeps N s₀ s) : Keeps N s₀ (csiPacket r vc ecc slots k s) := by
  unfold csiPacket; apply keeps_ite
  · exact hs1
  · split
    · apply keeps_avkCount (hN.via rfl); apply keeps_raise (hN.via rfl); apply keeps_bump (hN.via rfl)
      apply keeps_updOpen (hN.via rfl); apply keeps_setCsi (hN.via rfl); exact hs1
    · apply hs; exact hs1
    · extract_lets +onlyGivenNames y1; clear_value y1; extract_lets +onlyGivenNames y2
      have h3 : Keeps N s₀ y2 := by
        unfold y2; apply keeps_avkCount (hN.via rfl); apply keeps_bump (hN.via rfl); exact hs1
      clear_value y2; apply hs; apply Keeps.foldl
      · intro z4 z5 h6; apply keeps_updFrameOf (hN.via rfl); exact h6
      · exact h3

theorem keeps_execHsBurst (hN : Within 0x200a N) (r : ℕ) (ok : Bool) (s : State) (hs : Keeps N s₀ s)
    : Keeps N s₀ (execHsBurst r ok s) := by
  unfold execHsBurst; apply keeps_ite
  · exact hs
  · apply keeps_ite
    · apply keeps_setCsi (hN.via rfl); exact hs
    · apply keeps_ite
      · apply keeps_setCsi (hN.via rfl); exact hs
      · apply keeps_raise (hN.via rfl); apply keeps_bump (hN.via rfl); apply keeps_updOpen (hN.via rfl)
        apply keeps_setCsi (hN.via rfl); exact hs

theorem keeps_execDeskew (hN : Within 0x2 N) (r : ℕ) (s : State) (hs : Keeps N s₀ s) : Keeps N s₀ (execDeskew r s) := by
  unfold execDeskew; apply keeps_ite
  · apply keeps_setFlag (hN.via rfl); exact hs
  · exact hs

theorem keeps_execLinkUp (hN : Within 0x2 N) (r : ℕ) (up : Bool) (s : State) (hs : Keeps N s₀ s) : Keeps N s₀ (execLinkUp r up s) := by
  unfold execLinkUp; apply keeps_ite
  · apply keeps_setFlag (hN.via rfl); exact hs
  · exact hs

theorem keeps_csiFrameStart (hN : Within 0x610a N) (r k vc no sofTt : ℕ) (corr : Bool) (s : State) (hs : Keeps N s₀ s)
    : Keeps N s₀ (csiFrameStart r k vc no sofTt corr s) := by
  unfold csiFrameStart; extract_lets +onlyGivenNames y1
  have h2 : Keeps N s₀ y1 := by
    unfold y1; apply keeps_ite
    · apply keeps_csiClose (hN.via rfl); apply keeps_bump (hN.via rfl); apply keeps_updFrameOf (hN.via rfl)
      exact hs
    · exact hs
  clear_value y1; extract_lets +onlyGivenNames y3; clear_value y3; extract_lets +onlyGivenNames y4
  have h5 : Keeps N s₀ y4 := by
    unfold y4; apply keeps_updSlot (hN.via rfl); exact h2
  clear_value y4; apply keeps_ite
  · exact h5
  · apply keeps_ite
    · apply keeps_bump (hN.via rfl); apply keeps_updSlot (hN.via rfl); exact h5
    · extract_lets +onlyGivenNames y6
      have h7 : Keeps N s₀ y6 := by
        unfold y6; apply keeps_csiOpen (hN.via rfl); exact h5
      clear_value y6; apply keeps_ite
      · apply keeps_updFrameOf (hN.via rfl); exact h7
      · exact h7

theorem keeps_execFrameStart (hN : Within 0x610a N) (r vc : ℕ) (ecc : Ecc) (no sofTt : ℕ) (s : State) (hs : Keeps N s₀ s)
    : Keeps N s₀ (execFrameStart r vc ecc no sofTt s) := by
  unfold execFrameStart; apply keeps_csiPacket (hN.via rfl)
  · intro z1 h2; apply Keeps.foldl
    · intro z3 z4 h5; apply keeps_csiFrameStart (hN.via rfl); exact h5
    · exact h2
  · exact hs

theorem keeps_execFrameEnd (hN : Within 0x610a N) (r vc : ℕ) (ecc : Ecc) (eofTt : ℕ) (s : State) (hs : Keeps N s₀ s)
    : Keeps N s₀ (execFrameEnd r vc ecc eofTt s) := by
  unfold execFrameEnd; apply keeps_csiPacket (hN.via rfl)
  · intro z1 h2; apply Keeps.foldl
    · intro z3 z4 h5; apply keeps_ite
      · apply keeps_csiClose (hN.via rfl); exact h5
      · apply keeps_ite
        · apply keeps_updSlot (hN.via rfl); exact h5
        · apply keeps_bump (hN.via rfl); exact h5
    · exact h2
  · exact hs

theorem keeps_execLineStart (hN : Within 0x200a N) (r vc : ℕ) (ecc : Ecc) (line : ℕ) (s : State) (hs : Keeps N s₀ s)
    : Keeps N s₀ (execLineStart r vc ecc line s) := by
  unfold execLineStart; extract_lets +onlyGivenNames y1; clear_value y1; apply keeps_csiPacket (hN.via rfl)
  · intro z2 h3; apply Keeps.foldl
    · intro z4 z5 h6; apply keeps_ite
      · apply keeps_updFrameOf (hN.via rfl); exact h6
      · apply keeps_ite
        · exact h6
        · apply keeps_bump (hN.via rfl); exact h6
    · exact h3
  · exact hs

theorem keeps_execLineEnd (hN : Within 0x200a N) (r vc : ℕ) (ecc : Ecc) (s : State) (hs : Keeps N s₀ s)
    : Keeps N s₀ (execLineEnd r vc ecc s) := by
  unfold execLineEnd; apply keeps_csiPacket (hN.via rfl)
  · intro z1 h2; exact h2
  · exact hs

theorem keeps_execGenericShortPacket (hN : Within 0x200a N) (r vc : ℕ) (ecc : Ecc) (s : State) (hs : Keeps N s₀ s)
    : Keeps N s₀ (execGenericShortPacket r vc ecc s) := by
  unfold execGenericShortPacket; apply keeps_csiPacket (hN.via rfl)
  · intro z1 h2; apply keeps_bump (hN.via rfl); exact h2
  · exact hs

theorem keeps_execLongPacket (hN : Within 0x610a N) (r vc dt : ℕ) (ecc : Ecc) (crcOk : Bool) (payload : List Byte) (s : State)
    (hs : Keeps N s₀ s) : Keeps N s₀ (execLongPacket r vc dt ecc crcOk payload s) := by
  unfold execLongPacket; extract_lets +onlyGivenNames y1; clear_value y1; apply keeps_csiPacket (hN.via rfl)
  · intro z2 h3; extract_lets +onlyGivenNames y4
    have h5 : Keeps N s₀ y4 := by
      unfold y4; apply keeps_ite
      · exact h3
      · apply keeps_avkCount (hN.via rfl); apply keeps_raise (hN.via rfl); apply keeps_bump (hN.via rfl); exact h3
    clear_value y4
    split
    · apply keeps_raise (hN.via rfl); apply keeps_bump (hN.via rfl); exact h5
    · apply keeps_ite
      · apply keeps_csiLine (hN.via rfl); exact h5
      · apply keeps_ite
        · exact h5
        · apply keeps_bump (hN.via rfl); exact h5
  · exact hs

theorem keeps_execFrameTimeout (hN : Within 0x2000 N) (r k : ℕ) (s : State) (hs : Keeps N s₀ s)
    : Keeps N s₀ (execFrameTimeout r k s) := by
  unfold execFrameTimeout
  split
  · exact hs
  · apply keeps_ite
    · apply keeps_updFrameOf (hN.via rfl); exact hs
    · exact hs

theorem keeps_csiTimeout (hN : Within 0x610a N) (r k : ℕ) (s : State) (hs : Keeps N s₀ s) : Keeps N s₀ (csiTimeout r k s) := by
  unfold csiTimeout; apply keeps_ite
  · apply keeps_csiClose (hN.via rfl); apply keeps_raise (hN.via rfl); apply keeps_bump (hN.via rfl)
    apply keeps_updFrameOf (hN.via rfl); exact hs
  · exact hs

theorem keeps_csiTimeouts (hN : Within 0x610a N) (s : State) (hs : Keeps N s₀ s) : Keeps N s₀ (csiTimeouts s) := by
  unfold csiTimeouts; apply Keeps.foldl
  · intro z1 z2 h3; apply Keeps.foldl
    · intro z4 z5 h6; apply keeps_csiTimeout (hN.via rfl); exact h6
    · exact h3
  · exact hs

theorem keeps_csiLast (hN : Within 0x2 N) (r k id : ℕ) (s : State) (hs : Keeps N s₀ s) : Keeps N s₀ (csiLast r k id s) := by
  unfold csiLast
  split
  · apply keeps_ite
    · apply keeps_wr (hN.via rfl); exact hs
    · exact hs
  · exact hs

theorem keeps_csiRefused (hN : Within 0x200a N) (r k : ℕ) (s : State) (hs : Keeps N s₀ s) : Keeps N s₀ (csiRefused r k s) := by
  unfold csiRefused; extract_lets +onlyGivenNames y1; clear_value y1
  split
  · exact hs
  · extract_lets +onlyGivenNames y2; clear_value y2; extract_lets +onlyGivenNames y3; clear_value y3
    extract_lets +onlyGivenNames y4; clear_value y4; apply keeps_csiLast (hN.via rfl); apply keeps_bump (hN.via rfl)
    apply keeps_updSlot (hN.via rfl); exact hs

theorem keeps_fsyncEdge (hN : Within 0x100000 N) (r : ℕ) (was : Bool) (s : State) (hs : Keeps N s₀ s)
    : Keeps N s₀ (fsyncEdge r was s) := by
  unfold fsyncEdge; apply keeps_ite
  · exact hs
  · apply keeps_emit (hN.via rfl); exact hs

theorem keeps_csiFsync (hN : Within 0x10200a N) (r : ℕ) (s : State) (hs : Keeps N s₀ s) : Keeps N s₀ (csiFsync r s) := by
  unfold csiFsync; extract_lets +onlyGivenNames y1; apply keeps_fsyncEdge (hN.via rfl)
  apply keeps_bump (hN.via rfl); apply keeps_setCsi (hN.via rfl); exact hs

theorem keeps_execFsyncPulseEnd (hN : Within 0x102000 N) (r : ℕ) (s : State) (hs : Keeps N s₀ s)
    : Keeps N s₀ (execFsyncPulseEnd r s) := by
  unfold execFsyncPulseEnd; extract_lets +onlyGivenNames y1; apply keeps_ite
  · apply keeps_fsyncEdge (hN.via rfl); apply keeps_setCsi (hN.via rfl); exact hs
  · exact hs

theorem keeps_csiGate (hN : Within 0x2 N) (r : ℕ) (isOpen : Bool) (s : State) (hs : Keeps N s₀ s)
    : Keeps N s₀ (csiGate r isOpen s) := by
  unfold csiGate; apply keeps_setFlag (hN.via rfl); exact hs

theorem keeps_execVcErrRead (hN : Within 0x100082 N) (w : Func) (r vc : ℕ) (s : State) (hs : Keeps N s₀ s)
    : Keeps N s₀ (execVcErrRead w r vc s) := by
  unfold execVcErrRead; extract_lets +onlyGivenNames y1; clear_value y1; apply keeps_readAccess (hN.via rfl)
  · intro z2 h3; dsimp -zeta only; apply keeps_wr (hN.via rfl); exact h3
  · exact hs

theorem keeps_csiRegWrite (hN : Within 0x10200a N) (r off : ℕ) (v : Word) (s : State) (hs : Keeps N s₀ s)
    : Keeps N s₀ (csiRegWrite r off v s) := by
  unfold csiRegWrite; extract_lets +onlyGivenNames y1; clear_value y1; extract_lets +onlyGivenNames y2
  have h3 : Keeps N s₀ y2 := by
    unfold y2; apply keeps_refuse (hN.via rfl); exact hs
  clear_value y2; apply keeps_ite
  · extract_lets +onlyGivenNames y4; clear_value y4; apply keeps_ite
    · exact h3
    · apply keeps_plainWrite (hN.via rfl); exact hs
  · apply keeps_ite
    · apply keeps_ite
      · exact h3
      · apply keeps_plainWrite (hN.via rfl); exact hs
    · apply keeps_ite
      · extract_lets +onlyGivenNames y5; clear_value y5; apply keeps_ite
        · apply keeps_ite
          · exact h3
          · extract_lets +onlyGivenNames y6; clear_value y6; extract_lets +onlyGivenNames y7
            have h8 : Keeps N s₀ y7 := by
              unfold y7; apply keeps_plainWrite (hN.via rfl); exact hs
            clear_value y7; apply keeps_ite
            · apply keeps_updSlot (hN.via rfl); exact h8
            · exact h8
        · apply keeps_ite
          · apply keeps_ite
            · exact h3
            · apply keeps_plainWrite (hN.via rfl); exact hs
          · apply keeps_plainWrite (hN.via rfl); exact hs
      · apply keeps_ite
        · apply keeps_ite
          · exact h3
          · apply keeps_fsyncEdge (hN.via rfl); apply keeps_plainWrite (hN.via rfl); exact hs
        · apply keeps_plainWrite (hN.via rfl); exact hs

theorem keeps_setKey (hN : Within 0x20000 N) (k : ℕ) (e : KeySlot) (s : State) (hs : Keeps N s₀ s) : Keeps N s₀ (setKey k e s) := by
  unfold setKey; refine Keeps.update 0x20000 (hN.via rfl) ?_ rfl rfl rfl; exact hs

theorem keeps_memDenied (hN : Within 0xa N) (who : Requester) (h : Home) (s : State) (hs : Keeps N s₀ s)
    : Keeps N s₀ (memDenied who h s) := by
  unfold memDenied; apply keeps_ite
  · apply keeps_bump (hN.via rfl); exact hs
  · exact hs

theorem keeps_meldFail (hN : Within 0x4a N) (code : ℕ) (h : Home) (s : State) (hs : Keeps N s₀ s) : Keeps N s₀ (meldFail code h s) := by
  unfold meldFail; extract_lets +onlyGivenNames y1; clear_value y1; extract_lets +onlyGivenNames y2
  have h3 : Keeps N s₀ y2 := by
    unfold y2; apply keeps_raise (hN.via rfl); apply keeps_bump (hN.via rfl); apply keeps_wr64 (hN.via rfl)
    apply keeps_wr (hN.via rfl); exact hs
  clear_value y2; extract_lets +onlyGivenNames y4
  have h5 : Keeps N s₀ y4 := by
    unfold y4; apply keeps_ite
    · apply keeps_bump (hN.via rfl); exact h3
    · exact h3
  clear_value y4; extract_lets +onlyGivenNames y6; clear_value y6; apply keeps_formRec (hN.via rfl); exact h5

theorem keeps_slotDecode (hN : Within 0x4a N) (key : Option ℕ) (h : Home) (bytes : List Byte) (s : State) (hs : Keeps N s₀ s)
    : Keeps N s₀ (slotDecode key h bytes s).2 := by
  unfold slotDecode; extract_lets +onlyGivenNames y1; clear_value y1
  split
  · dsimp -zeta only; apply keeps_meldFail (hN.via rfl); exact hs
  · extract_lets +onlyGivenNames y2; clear_value y2; dsimp -zeta only; apply keeps_bump (hN.via rfl)
    apply keeps_bump (hN.via rfl); exact hs

theorem keeps_eccLog (hN : Within 0x2 N) (n a bytes : ℕ) (un : Bool) (s : State) (hs : Keeps N s₀ s)
    : Keeps N s₀ (eccLog n a bytes un s) := by
  unfold eccLog; extract_lets +onlyGivenNames y1; clear_value y1; apply keeps_ite
  · exact hs
  · apply keeps_wr64 (hN.via rfl); apply keeps_wr (hN.via rfl); exact hs

theorem keeps_slotRead (hN : Within 0x4a N) (h : Home) (s : State) (hs : Keeps N s₀ s) : Keeps N s₀ (slotRead h s).2 := by
  unfold slotRead; extract_lets +onlyGivenNames y1; clear_value y1; extract_lets +onlyGivenNames y2; clear_value y2
  extract_lets +onlyGivenNames y3; clear_value y3; extract_lets +onlyGivenNames y4; clear_value y4
  extract_lets +onlyGivenNames y5
  have h6 : Keeps N s₀ y5 := by
    unfold y5; apply keeps_bump (hN.via rfl); exact hs
  clear_value y5
  split
  · dsimp -zeta only; apply keeps_formRec (hN.via rfl); apply keeps_raise (hN.via rfl)
    apply keeps_bump (hN.via rfl); apply keeps_eccLog (hN.via rfl); exact h6
  · apply keeps_slotDecode (hN.via rfl); exact h6

theorem keeps_slotStore (hN : Within 0x1a008a N) (h : Home) (e : List Byte × Bool) (s : State) (hs : Keeps N s₀ s)
    : Keeps N s₀ (slotStore h e s) := by
  unfold slotStore; extract_lets +onlyGivenNames y1; clear_value y1; extract_lets +onlyGivenNames y2; clear_value y2
  extract_lets +onlyGivenNames y3
  have h4 : Keeps N s₀ y3 := by
    unfold y3; apply keeps_bump (hN.via rfl); apply keeps_bump (hN.via rfl); exact hs
  clear_value y3; extract_lets +onlyGivenNames y5
  have h6 : Keeps N s₀ y5 := by
    unfold y5; apply keeps_ite
    · apply keeps_bump (hN.via rfl); exact h4
    · exact h4
  clear_value y5
  split
  · apply keeps_hostSend (hN.via rfl); exact h6
  · extract_lets +onlyGivenNames y7; clear_value y7; extract_lets +onlyGivenNames y8
    have h9 : Keeps N s₀ y8 := by
      unfold y8; apply keeps_bump (hN.via rfl); apply keeps_memWrite (hN.via rfl); exact h6
    clear_value y8; refine Keeps.update 0x20000 (hN.via rfl) ?_ rfl rfl rfl; exact h9

theorem keeps_slotWrite (hN : Within 0x1a008a N) (h : Home) (data : List Byte) (s : State) (hs : Keeps N s₀ s)
    : Keeps N s₀ (slotWrite h data s) := by
  unfold slotWrite; apply keeps_slotStore (hN.via rfl); exact hs

theorem keeps_setKitty (hN : Within 0x20000 N) (n : ℕ) (ls : List KLine) (s : State) (hs : Keeps N s₀ s)
    : Keeps N s₀ (setKitty n ls s) := by
  unfold setKitty; refine Keeps.update 0x20000 (hN.via rfl) ?_ rfl rfl rfl; exact hs

theorem keeps_updLine (hN : Within 0x20000 N) (n k : ℕ) (f : KLine → KLine) (s : State) (hs : Keeps N s₀ s)
    : Keeps N s₀ (updLine n k f s) := by
  unfold updLine; apply keeps_setKitty (hN.via rfl); exact hs

theorem keeps_addLine (hN : Within 0x20000 N) (n : ℕ) (l : KLine) (s : State) (hs : Keeps N s₀ s) : Keeps N s₀ (addLine n l s) := by
  unfold addLine; apply keeps_setKitty (hN.via rfl); exact hs

theorem keeps_dropLines (hN : Within 0x20000 N) (n : ℕ) (p : KLine → Bool) (s : State) (hs : Keeps N s₀ s)
    : Keeps N s₀ (dropLines n p s) := by
  unfold dropLines; apply keeps_setKitty (hN.via rfl); exact hs

theorem keeps_evictLine (hN : Within 0x1a008a N) (n : ℕ) (l : KLine) (s : State) (hs : Keeps N s₀ s)
    : Keeps N s₀ (evictLine n l s) := by
  unfold evictLine; extract_lets +onlyGivenNames y1
  have h2 : Keeps N s₀ y1 := by
    unfold y1; apply keeps_ite
    · apply keeps_bump (hN.via rfl); apply keeps_slotWrite (hN.via rfl); exact hs
    · exact hs
  clear_value y1; apply keeps_bump (hN.via rfl); apply keeps_dropLines (hN.via rfl); exact h2

theorem keeps_takeLine (hN : Within 0x1a008a N) (n tenant : ℕ) (s : State) (hs : Keeps N s₀ s)
    : Keeps N s₀ (takeLine n tenant s).2 := by
  unfold takeLine; extract_lets +onlyGivenNames y1; clear_value y1; extract_lets +onlyGivenNames y2; clear_value y2
  extract_lets +onlyGivenNames y3
  have h4 : ∀ z0 z1, Keeps N s₀ z1 → Keeps N s₀ (y3 z0 z1).2 := by
    intro z5 z6 h7; unfold y3
    split
    · exact h7
    · dsimp -zeta only; apply keeps_evictLine (hN.via rfl); exact h7
  clear_value y3
  split
  · split
    · exact hs
    · apply h4; exact hs
  · split
    · exact hs
    · apply h4; apply keeps_bump (hN.via rfl); exact hs

theorem keeps_kittyPoison (hN : Within 0xa N) (n : ℕ) (s : State) (hs : Keeps N s₀ s) : Keeps N s₀ (kittyPoison n s) := by
  unfold kittyPoison; apply keeps_raise (hN.via rfl); apply keeps_bump (hN.via rfl); exact hs

theorem keeps_kittyBypass (hN : Within 0xa N) (n : ℕ) (s : State) (hs : Keeps N s₀ s) : Keeps N s₀ (kittyBypass n s) := by
  unfold kittyBypass; apply keeps_raise (hN.via rfl); apply keeps_bump (hN.via rfl); exact hs

theorem keeps_kittyLookup (hN : Within 0x1a008a N) (who : Requester) (dom : ℕ) (h : Home) (s : State) (hs : Keeps N s₀ s)
    : Keeps N s₀ (kittyLookup who dom h s).2 := by
  unfold kittyLookup; extract_lets +onlyGivenNames y1; clear_value y1; extract_lets +onlyGivenNames y2
  clear_value y2
  split
  · dsimp -zeta only; apply keeps_memDenied (hN.via rfl); exact hs
  · split
    · split
      · dsimp -zeta only; apply keeps_bump (hN.via rfl); apply keeps_updLine (hN.via rfl); exact hs
      · dsimp -zeta only; apply keeps_bump (hN.via rfl); apply keeps_updLine (hN.via rfl); exact hs
    · extract_lets +onlyGivenNames y3
      have h4 : Keeps N s₀ y3 := by
        unfold y3; apply keeps_bump (hN.via rfl); exact hs
      clear_value y3; extract_lets +onlyGivenNames y5; clear_value y5; extract_lets +onlyGivenNames y6
      have h7 : Keeps N s₀ y6.2 := by
        unfold y6; apply keeps_takeLine (hN.via rfl); exact h4
      clear_value y6
      split
      · dsimp -zeta only; apply keeps_kittyBypass (hN.via rfl); exact h7
      · dsimp -zeta only; apply keeps_addLine (hN.via rfl); exact h7

theorem keeps_homeRead (hN : Within 0x4a N) (key : Option ℕ) (h : Home) (host : List Byte) (s : State) (hs : Keeps N s₀ s)
    : Keeps N s₀ (homeRead key h host s).2 := by
  unfold homeRead
  split
  · apply keeps_slotRead (hN.via rfl); exact hs
  · apply keeps_slotDecode (hN.via rfl); exact hs

theorem keeps_kittyFill (hN : Within 0x2004a N) (key : Option ℕ) (n k : ℕ) (host : List Byte) (s : State) (hs : Keeps N s₀ s)
    : Keeps N s₀ (kittyFill key n k host s).2.2 := by
  unfold kittyFill
  split
  · exact hs
  · extract_lets +onlyGivenNames y1
    have h2 : Keeps N s₀ y1.2 := by
      unfold y1; apply keeps_homeRead (hN.via rfl); exact hs
    clear_value y1
    split
    · dsimp -zeta only; apply keeps_kittyPoison (hN.via rfl); apply keeps_dropLines (hN.via rfl); exact h2
    · dsimp -zeta only; apply keeps_updLine (hN.via rfl); exact h2

theorem keeps_fillServe (hN : Within 0x12004a N) (key : Option ℕ) (n k : ℕ) (host : List Byte) (s : State) (hs : Keeps N s₀ s)
    : Keeps N s₀ (fillServe key n k host s).2 := by
  unfold fillServe
  split
  · exact hs
  · extract_lets +onlyGivenNames y1
    have h2 : Keeps N s₀ y1.2.2 := by
      unfold y1; apply keeps_kittyFill (hN.via rfl); exact hs
    clear_value y1; dsimp -zeta only; apply Keeps.foldl
    · intro z3 z4 h5; apply keeps_emit (hN.via rfl); exact h5
    · exact h2

theorem keeps_hhMemIn (hN : Within 0x10a N) (who : Requester) (h : Home) (bs : List Byte) (s : State) (hs : Keeps N s₀ s)
    : Keeps N s₀ (hhMemIn who h bs s) := by
  unfold hhMemIn
  split
  · extract_lets +onlyGivenNames y1; clear_value y1; apply keeps_ite
    · apply keeps_hhCapture (hN.via rfl); exact hs
    · exact hs
  · exact hs

theorem keeps_noteSlot (hN : Within 0x100 N) (h : Home) (s : State) (hs : Keeps N s₀ s) : Keeps N s₀ (noteSlot h s) := by
  unfold noteSlot; apply keeps_ite
  · refine Keeps.update 0x100 (hN.via rfl) ?_ rfl rfl rfl; exact hs
  · exact hs

theorem keeps_memFetchKey (hN : Within 0x1a01ca N) (key : Option ℕ) (who : Requester) (dom : ℕ) (h : Home) (host : Option (List Byte))
    (s : State) (hs : Keeps N s₀ s) : Keeps N s₀ (memFetchKey key who dom h host s).2 := by
  unfold memFetchKey; extract_lets +onlyGivenNames y1; clear_value y1; extract_lets +onlyGivenNames y2
  clear_value y2
  split
  · split
    · exact hs
    · dsimp -zeta only; apply keeps_memDenied (hN.via rfl); exact hs
  · extract_lets +onlyGivenNames y3
    have h4 : Keeps N s₀ y3.2 := by
      unfold y3; apply keeps_kittyLookup (hN.via rfl); exact hs
    clear_value y3
    split
    · exact h4
    · dsimp -zeta only; apply keeps_hhMemIn (hN.via rfl); exact h4
    · split
      · exact h4
      · extract_lets +onlyGivenNames y5
        have h6 : Keeps N s₀ y5.2 := by
          unfold y5; apply keeps_fillServe (hN.via rfl); apply keeps_updLine (hN.via rfl); exact h4
        clear_value y5
        split
        · dsimp -zeta only; apply keeps_hhMemIn (hN.via rfl); exact h6
        · exact h6
    · extract_lets +onlyGivenNames y7
      have h8 : Keeps N s₀ y7.2 := by
        unfold y7; apply keeps_homeRead (hN.via rfl); exact h4
      clear_value y7
      split
      · dsimp -zeta only; apply keeps_hhMemIn (hN.via rfl); exact h8
      · dsimp -zeta only; apply keeps_kittyPoison (hN.via rfl); exact h8

theorem keeps_memFetch (hN : Within 0x1a01ca N) (who : Requester) (dom : ℕ) (h : Home) (host : Option (List Byte)) (s : State)
    (hs : Keeps N s₀ s) : Keeps N s₀ (memFetch who dom h host s).2 := by
  unfold memFetch; apply keeps_memFetchKey (hN.via rfl); exact hs

theorem keeps_storeFresh (hN : Within 0x1a00ca N) (h : Home) (t off : ℕ) (whole : Bool) (data : List Byte) (s : State)
    (hs : Keeps N s₀ s) : Keeps N s₀ (storeFresh h t off whole data s).2 := by
  unfold storeFresh; extract_lets +onlyGivenNames y1; clear_value y1; extract_lets +onlyGivenNames y2
  have h3 : Keeps N s₀ y2.2 := by
    unfold y2
    split
    · exact hs
    · apply keeps_homeRead (hN.via rfl); exact hs
  clear_value y2
  split
  · dsimp -zeta only; apply keeps_kittyPoison (hN.via rfl); exact h3
  · extract_lets +onlyGivenNames y4; clear_value y4; extract_lets +onlyGivenNames y5; clear_value y5
    extract_lets +onlyGivenNames y6
    have h7 : Keeps N s₀ y6.2 := by
      unfold y6; apply keeps_takeLine (hN.via rfl); exact h3
    clear_value y6
    split
    · dsimp -zeta only; apply keeps_slotWrite (hN.via rfl); apply keeps_kittyBypass (hN.via rfl); exact h7
    · dsimp -zeta only; apply keeps_addLine (hN.via rfl); exact h7

theorem keeps_holdBypass (hN : Within 0x20000 N) (b : Bypass) (s : State) (hs : Keeps N s₀ s) : Keeps N s₀ (holdBypass b s) := by
  unfold holdBypass; refine Keeps.update 0x20000 (hN.via rfl) ?_ rfl rfl rfl; exact hs

theorem keeps_storeAsk (hN : Within 0x1a008a N) (c dom : ℕ) (h : Home) (t off : ℕ) (data : List Byte) (s : State) (hs : Keeps N s₀ s)
    : Keeps N s₀ (storeAsk c dom h t off data s).2 := by
  unfold storeAsk; extract_lets +onlyGivenNames y1; clear_value y1; extract_lets +onlyGivenNames y2
  have h3 : Keeps N s₀ y2.2 := by
    unfold y2; apply keeps_takeLine (hN.via rfl); exact hs
  clear_value y2
  split
  · dsimp -zeta only; apply keeps_hostSend (hN.via rfl); apply keeps_kittyBypass (hN.via rfl)
    apply keeps_holdBypass (hN.via rfl); exact h3
  · dsimp -zeta only; apply keeps_hostSend (hN.via rfl); apply keeps_addLine (hN.via rfl); exact h3

theorem keeps_memStore (hN : Within 0x1a01ca N) (who : Requester) (dom : ℕ) (h : Home) (off : ℕ) (data : List Byte) (s : State)
    (hs : Keeps N s₀ s) : Keeps N s₀ (memStore who dom h off data s).2 := by
  unfold memStore; extract_lets +onlyGivenNames y1; clear_value y1; extract_lets +onlyGivenNames y2; clear_value y2
  extract_lets +onlyGivenNames y3; clear_value y3
  split
  · dsimp -zeta only; apply keeps_memDenied (hN.via rfl); exact hs
  · split
    · extract_lets +onlyGivenNames y4
      have h5 : Keeps N s₀ y4 := by
        unfold y4; apply keeps_noteSlot (hN.via rfl); apply keeps_ite
        · apply keeps_fillServe (hN.via rfl); exact hs
        · exact hs
      clear_value y4
      split
      · dsimp -zeta only; apply keeps_updLine (hN.via rfl); exact h5
      · apply keeps_storeFresh (hN.via rfl); exact h5
    · split
      · exact hs
      · dsimp -zeta only; apply keeps_updLine (hN.via rfl); exact hs
    · apply keeps_storeFresh (hN.via rfl); apply keeps_noteSlot (hN.via rfl); exact hs
    · split
      · apply keeps_storeFresh (hN.via rfl); exact hs
      · apply keeps_storeAsk (hN.via rfl); exact hs

theorem keeps_execKittyLookup (hN : Within 0x1a00ca N) (who : Requester) (dom : ℕ) (h : Home) (s : State) (hs : Keeps N s₀ s)
    : Keeps N s₀ (execKittyLookup who dom h s) := by
  unfold execKittyLookup; extract_lets +onlyGivenNames y1; clear_value y1; apply keeps_ite
  · apply keeps_emit (hN.via rfl); exact hs
  · apply keeps_ite
    · exact hs
    · extract_lets +onlyGivenNames y2
      have h3 : Keeps N s₀ y2.2 := by
        unfold y2; apply keeps_kittyLookup (hN.via rfl); exact hs
      clear_value y2
      split
      · apply keeps_emit (hN.via rfl); exact h3
      · apply keeps_emit (hN.via rfl); exact h3
      · split
        · apply keeps_hostSend (hN.via rfl); exact h3
        · exact h3
      · split
        · apply keeps_hostSend (hN.via rfl); apply keeps_holdBypass (hN.via rfl); exact h3
        · extract_lets +onlyGivenNames y4
          have h5 : Keeps N s₀ y4.2 := by
            unfold y4; apply keeps_homeRead (hN.via rfl); exact h3
          clear_value y4; apply keeps_emit (hN.via rfl); apply keeps_ite
          · exact h5
          · apply keeps_kittyPoison (hN.via rfl); exact h5

theorem keeps_dropBypass (hN : Within 0x20000 N) (n : ℕ) (s : State) (hs : Keeps N s₀ s) : Keeps N s₀ (dropBypass n s) := by
  unfold dropBypass; refine Keeps.update 0x20000 (hN.via rfl) ?_ rfl rfl rfl; exact hs

theorem keeps_bypassDone (hN : Within 0x1a00ca N) (b : Bypass) (host : List Byte) (s : State) (hs : Keeps N s₀ s)
    : Keeps N s₀ (bypassDone b host s) := by
  unfold bypassDone; extract_lets +onlyGivenNames y1; extract_lets +onlyGivenNames y2
  have h3 : Keeps N s₀ y2.2 := by
    unfold y2; apply keeps_homeRead (hN.via rfl); refine Keeps.update 0x20000 (hN.via rfl) ?_ rfl rfl rfl; exact hs
  clear_value y2
  split
  · apply keeps_slotWrite (hN.via rfl); exact h3
  · apply keeps_emit (hN.via rfl); exact h3
  · apply keeps_kittyPoison (hN.via rfl); exact h3
  · apply keeps_emit (hN.via rfl); apply keeps_kittyPoison (hN.via rfl); exact h3

theorem keeps_execKittyFillComplete (hN : Within 0x1a00ca N) (n k : ℕ) (host : List Byte) (s : State) (hs : Keeps N s₀ s)
    : Keeps N s₀ (execKittyFillComplete n k host s) := by
  unfold execKittyFillComplete; apply keeps_ite
  · exact hs
  · apply keeps_ite
    · split
      · apply keeps_bypassDone (hN.via rfl); exact hs
      · exact hs
    · split
      · exact hs
      · apply keeps_ite
        · exact hs
        · apply keeps_fillServe (hN.via rfl); exact hs

theorem keeps_kittyFlush (hN : Within 0x1a008a N) (n : ℕ) (p : KLine → Bool) (s : State) (hs : Keeps N s₀ s)
    : Keeps N s₀ (kittyFlush n p s) := by
  unfold kittyFlush; extract_lets +onlyGivenNames y1; clear_value y1; extract_lets +onlyGivenNames y2
  have h3 : Keeps N s₀ y2 := by
    unfold y2; apply Keeps.foldl
    · intro z4 z5 h6; apply keeps_bump (hN.via rfl); apply keeps_slotWrite (hN.via rfl); exact h6
    · exact hs
  clear_value y2; apply keeps_setKitty (hN.via rfl); exact h3

theorem keeps_kittyOp (hN : Within 0x1a008a N) (n op tenant : ℕ) (s : State) (hs : Keeps N s₀ s)
    : Keeps N s₀ (kittyOp n op tenant s) := by
  unfold kittyOp
  split
  · apply keeps_kittyFlush (hN.via rfl); exact hs
  · apply keeps_kittyFlush (hN.via rfl); exact hs
  · apply keeps_dropLines (hN.via rfl); exact hs
  · exact hs

theorem keeps_kittyCmd (hN : Within 0x1a008a N) (w : Func) (n : ℕ) (v : Word) (s : State) (hs : Keeps N s₀ s)
    : Keeps N s₀ (kittyCmd w n v s) := by
  unfold kittyCmd; extract_lets +onlyGivenNames y1; clear_value y1; apply keeps_ite
  · apply keeps_tdiRefuse (hN.via rfl); exact hs
  · apply keeps_ite
    · exact hs
    · extract_lets +onlyGivenNames y2; clear_value y2; extract_lets +onlyGivenNames y3
      have h4 : Keeps N s₀ y3 := by
        unfold y3; apply keeps_wr (hN.via rfl); exact hs
      clear_value y3; apply keeps_ite
      · apply keeps_kittyOp (hN.via rfl); apply keeps_startCmd (hN.via rfl); exact h4
      · exact h4

theorem keeps_execFlushAll (hN : Within 0x1a01ca N) (w : Func) (n : ℕ) (s : State) (hs : Keeps N s₀ s)
    : Keeps N s₀ (execFlushAll w n s) := by
  unfold execFlushAll; apply keeps_access (hN.via rfl)
  · intro z1 h2; apply keeps_kittyCmd (hN.via rfl); exact h2
  · exact hs

theorem keeps_execFlushTenant (hN : Within 0x1a01ca N) (w : Func) (n tenant : ℕ) (s : State) (hs : Keeps N s₀ s)
    : Keeps N s₀ (execFlushTenant w n tenant s) := by
  unfold execFlushTenant; apply keeps_access (hN.via rfl)
  · intro z1 h2; apply keeps_kittyCmd (hN.via rfl); exact h2
  · exact hs

theorem keeps_execDiscardTenant (hN : Within 0x1a01ca N) (w : Func) (n tenant : ℕ) (s : State) (hs : Keeps N s₀ s)
    : Keeps N s₀ (execDiscardTenant w n tenant s) := by
  unfold execDiscardTenant; apply keeps_access (hN.via rfl)
  · intro z1 h2; apply keeps_kittyCmd (hN.via rfl); exact h2
  · exact hs

theorem keeps_execKittyCmdDone (hN : Within 0xa N) (n : ℕ) (s : State) (hs : Keeps N s₀ s) : Keeps N s₀ (execKittyCmdDone n s) := by
  unfold execKittyCmdDone; apply keeps_ite
  · apply keeps_endCmd (hN.via rfl); apply keeps_setFlag (hN.via rfl); exact hs
  · exact hs

theorem keeps_granuleError (hN : Within 0x2004a N) (n a bad : ℕ) (s : State) (hs : Keeps N s₀ s)
    : Keeps N s₀ (granuleError n a bad s) := by
  unfold granuleError; extract_lets +onlyGivenNames y1; clear_value y1; apply keeps_ite
  · extract_lets +onlyGivenNames y2; extract_lets +onlyGivenNames y3
    have h4 : Keeps N s₀ y3 := by
      unfold y3; apply keeps_ite
      · exact hs
      · refine Keeps.update 0x20000 (hN.via rfl) ?_ rfl rfl rfl; exact hs
    clear_value y3; apply keeps_formRec (hN.via rfl); apply keeps_raise (hN.via rfl); apply keeps_bump (hN.via rfl)
    apply keeps_eccLog (hN.via rfl); exact h4
  · apply keeps_ite
    · exact hs
    · apply keeps_formCorrected (hN.via rfl); apply keeps_raise (hN.via rfl); apply keeps_bump (hN.via rfl)
      apply keeps_bump (hN.via rfl); apply keeps_eccLog (hN.via rfl); exact hs

theorem keeps_execPatrolScrub (hN : Within 0x2004a N) (n bad : ℕ) (s : State) (hs : Keeps N s₀ s)
    : Keeps N s₀ (execPatrolScrub n bad s) := by
  unfold execPatrolScrub; extract_lets +onlyGivenNames y1; clear_value y1; apply keeps_ite
  · exact hs
  · extract_lets +onlyGivenNames y2; clear_value y2; extract_lets +onlyGivenNames y3; clear_value y3
    extract_lets +onlyGivenNames y4; clear_value y4; apply keeps_granuleError (hN.via rfl)
    apply keeps_bump (hN.via rfl); refine Keeps.update 0x20000 (hN.via rfl) ?_ rfl rfl rfl; exact hs

theorem keeps_regionApply (hN : Within 0x20002 N) (k : ℕ) (b z a : Word) (s : State) (hs : Keeps N s₀ s)
    : Keeps N s₀ (regionApply k b z a s) := by
  unfold regionApply; apply keeps_setFlag (hN.via rfl); apply keeps_setFlag (hN.via rfl)
  refine Keeps.update 0x20000 (hN.via rfl) ?_ rfl rfl rfl; exact hs

theorem keeps_memencRegWrite (hN : Within 0x2000a N) (w : Func) (n off : ℕ) (v : Word) (s : State) (hs : Keeps N s₀ s)
    : Keeps N s₀ (memencRegWrite w n off v s) := by
  unfold memencRegWrite; extract_lets +onlyGivenNames y1; clear_value y1; apply keeps_ite
  · apply keeps_plainWrite (hN.via rfl); exact hs
  · apply keeps_ite
    · exact hs
    · extract_lets +onlyGivenNames y2; clear_value y2; extract_lets +onlyGivenNames y3; clear_value y3
      apply keeps_ite
      · apply keeps_bump (hN.via rfl); exact hs
      · apply keeps_ite
        · extract_lets +onlyGivenNames y4; clear_value y4; extract_lets +onlyGivenNames y5; clear_value y5
          extract_lets +onlyGivenNames y6; clear_value y6; extract_lets +onlyGivenNames y7; clear_value y7
          extract_lets +onlyGivenNames y8; clear_value y8; extract_lets +onlyGivenNames y9
          extract_lets +onlyGivenNames y10
          have h11 : Keeps N s₀ y10 := by
            unfold y10; refine Keeps.update 0x20000 (hN.via rfl) ?_ rfl rfl rfl; exact hs
          clear_value y10; extract_lets +onlyGivenNames y12; clear_value y12; extract_lets +onlyGivenNames y13
          clear_value y13; apply keeps_ite
          · apply keeps_tdiRefuse (hN.via rfl); apply keeps_bump (hN.via rfl); exact h11
          · apply keeps_ite
            · apply keeps_regionApply (hN.via rfl); exact h11
            · apply keeps_bump (hN.via rfl); exact h11
        · refine Keeps.update 0x20000 (hN.via rfl) ?_ rfl rfl rfl; exact hs

theorem keeps_execRegionWrite (hN : Within 0x1201ca N) (w : Func) (k : ℕ) (v : Word) (s : State) (hs : Keeps N s₀ s)
    : Keeps N s₀ (execRegionWrite w k v s) := by
  unfold execRegionWrite; extract_lets +onlyGivenNames y1; clear_value y1; apply keeps_access (hN.via rfl)
  · intro z2 h3; apply keeps_memencRegWrite (hN.via rfl); exact h3
  · exact hs

theorem keeps_regionPurge (hN : Within 0x1a008a N) (k : ℕ) (new : Region) (s : State) (hs : Keeps N s₀ s)
    : Keeps N s₀ (regionPurge k new s) := by
  unfold regionPurge; extract_lets +onlyGivenNames y1; clear_value y1; extract_lets +onlyGivenNames y2
  clear_value y2; apply Keeps.foldl
  · intro z3 z4 h5; apply keeps_dropLines (hN.via rfl); apply keeps_kittyFlush (hN.via rfl); exact h5
  · exact hs

theorem keeps_regionTake (hN : Within 0x1a008a N) (e : RegionPend) (s : State) (hs : Keeps N s₀ s) : Keeps N s₀ (regionTake e s) := by
  unfold regionTake; extract_lets +onlyGivenNames y1
  have h2 : ∀ z0 z1 z2, Keeps N s₀ z2 → Keeps N s₀ (y1 z0 z1 z2) := by
    intro z3 z4 z5 h6; unfold y1; apply keeps_wr (hN.via rfl); exact h6
  clear_value y1; apply h2; apply h2; apply h2; apply keeps_regionPurge (hN.via rfl); exact hs

theorem keeps_execRegionEffect (hN : Within 0x1a008a N) (s : State) (hs : Keeps N s₀ s) : Keeps N s₀ (execRegionEffect s) := by
  unfold execRegionEffect; extract_lets +onlyGivenNames y1; clear_value y1; apply keeps_ite
  · exact hs
  · extract_lets +onlyGivenNames y2; clear_value y2; extract_lets +onlyGivenNames y3
    have h4 : Keeps N s₀ y3 := by
      unfold y3; apply Keeps.foldl
      · intro z5 z6 h7; apply keeps_regionTake (hN.via rfl); exact h7
      · exact hs
    clear_value y3; extract_lets +onlyGivenNames y8; extract_lets +onlyGivenNames y9
    have h10 : Keeps N s₀ y9 := by
      unfold y9; refine Keeps.update 0x20000 (hN.via rfl) ?_ rfl rfl rfl; exact h4
    clear_value y9; extract_lets +onlyGivenNames y11; clear_value y11; apply keeps_setFlag (hN.via rfl)
    apply keeps_setFlag (hN.via rfl); exact h10

theorem keeps_kittyRegWrite (hN : Within 0x1a008a N) (w : Func) (n off : ℕ) (v : Word) (s : State) (hs : Keeps N s₀ s)
    : Keeps N s₀ (kittyRegWrite w n off v s) := by
  unfold kittyRegWrite; extract_lets +onlyGivenNames y1; clear_value y1; apply keeps_ite
  · apply keeps_kittyCmd (hN.via rfl); exact hs
  · apply keeps_ite
    · apply keeps_ite
      · apply keeps_tdiRefuse (hN.via rfl); exact hs
      · apply keeps_ite
        · exact hs
        · apply keeps_plainWrite (hN.via rfl); exact hs
    · apply keeps_ite
      · exact hs
      · apply keeps_plainWrite (hN.via rfl); exact hs

end Sys2Proof.Machine
end

