-- ==== Sys2Proof/Laws/KeepsC.lean ====
section
/-! SUPPORT. What every operation keeps (Keeps.lean), for the operations of Tiles.lean, Pool.lean, Generators.lean, Engines.lean. -/
namespace Sys2Proof.Machine
set_option Elab.async false

variable {s₀ : State} {N : Nat}

theorem keeps_markActive (hN : Within 0x8000 N) (t u : ℕ) (s : State) (hs : Keeps N s₀ s) : Keeps N s₀ (markActive t u s) := by
  unfold markActive; apply keeps_updTile (hN.via rfl)
  · exact hs
  · (intro x c; split <;> exact c)

theorem keeps_farKeep (hN : Within 0x8000 N) (t : Nat) (s : State) (hs : Keeps N s₀ s) : Keeps N s₀ (farKeep t s) := by
  refine ⟨⟨hs.base.fuses, fun d => ?_, hs.base.queue⟩, hs.change hN rfl⟩
  obtain ⟨a, b, e, f, g, k⟩ := hs.base.canon d
  refine ⟨a, b, e, f, fun x hx => ?_, { k with tiles := sortedKeys_map (fun _ => rfl) k.tiles }⟩
  obtain ⟨y, hy, rfl⟩ := List.mem_map.mp hx
  exact g y hy

theorem keeps_farDrop (hN : Within 0x8000 N) (t : Nat) (s : State) (hs : Keeps N s₀ s) : Keeps N s₀ (farDrop t s) := by
  refine ⟨⟨hs.base.fuses, fun d => ?_, hs.base.queue⟩, hs.change hN rfl⟩
  obtain ⟨a, b, e, f, g, k⟩ := hs.base.canon d
  refine ⟨a, b, e, f, fun x hx => ?_, { k with tiles := sortedKeys_map (fun _ => rfl) k.tiles }⟩
  obtain ⟨y, hy, rfl⟩ := List.mem_map.mp hx
  exact g y hy

theorem keeps_sramWrite (hN : Within 0x8000 N) (t a : ℕ) (bs : List Byte) (s : State) (hs : Keeps N s₀ s)
    : Keeps N s₀ (sramWrite t a bs s) := by
  unfold sramWrite; apply keeps_updTile (hN.via rfl)
  · exact hs
  · exact fun _ c => Memory.wf_cellsWrite c

theorem keeps_portRead (hN : Within 0x8000 N) (t port a n : ℕ) (s : State) (hs : Keeps N s₀ s)
    : Keeps N s₀ (portRead t port a n s) := by
  unfold portRead; apply keeps_updTile (hN.via rfl)
  · exact hs
  · exact fun _ c => c

theorem keeps_setLanes (hN : Within 0x8000 N) (t base : ℕ) (vs : List ℕ) (s : State) (hs : Keeps N s₀ s)
    : Keeps N s₀ (setLanes t base vs s) := by
  unfold setLanes; apply keeps_updTile (hN.via rfl)
  · exact hs
  · exact fun _ c => c

theorem keeps_launchPush (hN : Within 0x800a N) (t : ℕ) (words : List ℕ) (queue : Option ℕ) (s : State) (hs : Keeps N s₀ s)
    : Keeps N s₀ (launchPush t words queue s).2 := by
  unfold launchPush; extract_lets +onlyGivenNames y1; clear_value y1
  split
  · dsimp -zeta only; apply keeps_bump (hN.via rfl); apply keeps_raise (hN.via rfl); apply keeps_bump (hN.via rfl)
    exact hs
  · split
    · dsimp -zeta only; apply keeps_updTile (hN.via rfl)
      · exact hs
      · exact fun _ c => c
    · dsimp -zeta only; apply keeps_raise (hN.via rfl); apply keeps_bump (hN.via rfl); exact hs

theorem keeps_tileLaunchWrite (hN : Within 0x800a N) (t : ℕ) (v : Word) (s : State) (hs : Keeps N s₀ s)
    : Keeps N s₀ (tileLaunchWrite t v s) := by
  unfold tileLaunchWrite; extract_lets +onlyGivenNames y1
  have h2 : Keeps N s₀ y1 := by
    unfold y1; apply keeps_wr (hN.via rfl); exact hs
  clear_value y1; apply keeps_launchPush (hN.via rfl); exact h2

theorem keeps_execLaunchPush (hN : Within 0x1081ca N) (w : Func) (t : ℕ) (v : Word) (s : State) (hs : Keeps N s₀ s)
    : Keeps N s₀ (execLaunchPush w t v s) := by
  unfold execLaunchPush; apply keeps_access (hN.via rfl)
  · intro z1 h2; apply keeps_tileLaunchWrite (hN.via rfl); exact h2
  · exact hs

theorem keeps_dealLaunch (hN : Within 0x800a N) (t : ℕ) (s : State) (hs : Keeps N s₀ s) : Keeps N s₀ (dealLaunch t s).2 := by
  unfold dealLaunch; extract_lets +onlyGivenNames y1; clear_value y1; dsimp -zeta only
  apply keeps_launchPush (hN.via rfl); exact hs

theorem keeps_holdRecord (hN : Within 0x800a N) (t kind queue ctx : ℕ) (bs : List Byte) (s : State) (hs : Keeps N s₀ s)
    : Keeps N s₀ (holdRecord t kind queue ctx bs s) := by
  unfold holdRecord; extract_lets +onlyGivenNames y1; extract_lets +onlyGivenNames y2; clear_value y2
  apply keeps_ite
  · extract_lets +onlyGivenNames y3
    have h4 : Keeps N s₀ y3 := by
      unfold y3; apply keeps_bump (hN.via rfl); exact hs
    clear_value y3; apply keeps_ite
    · apply keeps_raise (hN.via rfl); apply keeps_bump (hN.via rfl); exact h4
    · exact h4
  · extract_lets +onlyGivenNames y5; clear_value y5; apply keeps_updTile (hN.via rfl)
    · exact hs
    · (intro x c; split <;> exact c)

theorem keeps_changeAdj (hN : Within 0x800a N) (t n c : ℕ) (old new : ℤ) (reason : ℕ) (s : State) (hs : Keeps N s₀ s)
    : Keeps N s₀ (changeAdj t n c old new reason s) := by
  unfold changeAdj; extract_lets +onlyGivenNames y1; clear_value y1; extract_lets +onlyGivenNames y2
  have h3 : Keeps N s₀ y2 := by
    unfold y2; apply keeps_bump (hN.via rfl); apply keeps_raise (hN.via rfl); apply keeps_setFld (hN.via rfl)
    exact hs
  clear_value y2; apply keeps_ite
  · apply keeps_holdRecord (hN.via rfl); exact h3
  · exact h3

theorem keeps_adaptPoint (hN : Within 0x800a N) (t c : ℕ) (q : QpRun) (high : Bool) (s : State) (hs : Keeps N s₀ s)
    : Keeps N s₀ (adaptPoint t c q high s) := by
  unfold adaptPoint; extract_lets +onlyGivenNames y1; clear_value y1; extract_lets +onlyGivenNames y2
  clear_value y2; extract_lets +onlyGivenNames y3; clear_value y3; apply keeps_ite
  · exact hs
  · extract_lets +onlyGivenNames y4; clear_value y4; extract_lets +onlyGivenNames y5
    have h6 : ∀ z0 z1, Keeps N s₀ z1 → Keeps N s₀ (y5 z0 z1) := by
      intro z7 z8 h9; unfold y5; apply keeps_setFld (hN.via rfl); exact h9
    clear_value y5; apply keeps_ite
    · extract_lets +onlyGivenNames y10
      have h11 : Keeps N s₀ y10 := by
        unfold y10; apply h6; exact hs
      clear_value y10; apply keeps_ite
      · apply keeps_changeAdj (hN.via rfl); exact h11
      · exact h11
    · apply keeps_ite
      · extract_lets +onlyGivenNames y12; clear_value y12; apply keeps_ite
        · extract_lets +onlyGivenNames y13
          have h14 : Keeps N s₀ y13 := by
            unfold y13; apply h6; exact hs
          clear_value y13; apply keeps_ite
          · apply keeps_changeAdj (hN.via rfl); exact h14
          · exact h14
        · apply h6; exact hs
      · apply h6; exact hs

theorem keeps_closeStep (hN : Within 0x800a N) (t c : ℕ) (q : QpRun) (s : State) (hs : Keeps N s₀ s)
    : Keeps N s₀ (closeStep t c q s) := by
  unfold closeStep; apply keeps_ite
  · exact hs
  · extract_lets +onlyGivenNames y1; clear_value y1; extract_lets +onlyGivenNames y2; clear_value y2
    extract_lets +onlyGivenNames y3; clear_value y3; extract_lets +onlyGivenNames y4; clear_value y4
    extract_lets +onlyGivenNames y5
    have h6 : Keeps N s₀ y5 := by
      unfold y5; apply keeps_wr (hN.via rfl); apply keeps_wr (hN.via rfl); apply keeps_wr (hN.via rfl)
      apply keeps_wr (hN.via rfl); exact hs
    clear_value y5; extract_lets +onlyGivenNames y7
    have h8 : Keeps N s₀ y7 := by
      unfold y7; apply keeps_ite
      · apply keeps_raise (hN.via rfl); apply keeps_bump (hN.via rfl); exact h6
      · exact h6
    clear_value y7; apply keeps_adaptPoint (hN.via rfl); apply keeps_bump (hN.via rfl); exact h8

theorem keeps_dropSegment (hN : Within 0x8000 N) (t n : ℕ) (s : State) (hs : Keeps N s₀ s) : Keeps N s₀ (dropSegment t n s) := by
  unfold dropSegment; apply keeps_updTile (hN.via rfl)
  · exact hs
  · (intro x c; split <;> exact c)

theorem keeps_breakSegment (hN : Within 0x800a N) (t n : ℕ) (s : State) (hs : Keeps N s₀ s) : Keeps N s₀ (breakSegment t n s) := by
  unfold breakSegment; apply keeps_ite
  · apply keeps_raise (hN.via rfl); apply keeps_bump (hN.via rfl); apply keeps_updTile (hN.via rfl)
    · exact hs
    · exact fun _ c => c
  · exact hs

theorem keeps_clearKernel (hN : Within 0x800a N) (t : ℕ) (k : Kernel) (s : State) (hs : Keeps N s₀ s)
    : Keeps N s₀ (clearKernel t k s) := by
  unfold clearKernel; extract_lets +onlyGivenNames y1
  have h2 : Keeps N s₀ y1 := by
    unfold y1; apply Keeps.foldl
    · intro z3 z4 h5; apply keeps_breakSegment (hN.via rfl); exact h5
    · exact hs
  clear_value y1; extract_lets +onlyGivenNames y6; clear_value y6; extract_lets +onlyGivenNames y7
  have h8 : Keeps N s₀ y7 := by
    unfold y7; apply keeps_updTile (hN.via rfl)
    · exact h2
    · exact fun _ c => c
  clear_value y7; apply keeps_setFlag (hN.via rfl); apply keeps_endCmd (hN.via rfl); apply Keeps.foldl
  · intro z9 z10 h11; apply keeps_dropSegment (hN.via rfl); exact h11
  · exact h8

theorem keeps_closeSteps (hN : Within 0x800a N) (t c : ℕ) (qs : List QpRun) (s : State) (hs : Keeps N s₀ s)
    : Keeps N s₀ (closeSteps t c qs s) := by
  unfold closeSteps; apply keeps_ite
  · apply keeps_updTile (hN.via rfl)
    · exact hs
    · exact fun _ c => c
  · apply Keeps.foldl
    · intro z1 z2 h3; apply keeps_closeStep (hN.via rfl); exact h3
    · exact hs

theorem keeps_pointsEnd (hN : Within 0x800a N) (s : State) (hs : Keeps N s₀ s) : Keeps N s₀ (pointsEnd s) := by
  unfold pointsEnd; apply Keeps.foldl
  · intro z1 z2 h3; extract_lets +onlyGivenNames y4; clear_value y4; extract_lets +onlyGivenNames y5
    have h6 : Keeps N s₀ y5 := by
      unfold y5; apply keeps_ite
      · exact h3
      · apply Keeps.foldl
        · intro z7 z8 h9; apply keeps_closeStep (hN.via rfl); exact h9
        · apply keeps_updTile (hN.via rfl)
          · exact h3
          · exact fun _ c => c
    clear_value y5
    split
    · apply keeps_ite
      · extract_lets +onlyGivenNames y10; clear_value y10; extract_lets +onlyGivenNames y11; clear_value y11
        apply keeps_updTile (hN.via rfl)
        · exact h6
        · exact fun _ c => c
      · exact h6
    · exact h6
  · exact hs

theorem keeps_tokensOut (hN : Within 0x20800a N) (t : ℕ) (k : Kernel) (s : State) (hs : Keeps N s₀ s)
    : Keeps N s₀ (tokensOut t k s) := by
  unfold tokensOut; extract_lets +onlyGivenNames y1; clear_value y1; apply Keeps.foldl
  · intro z2 z3 h4; extract_lets +onlyGivenNames y5
    have h6 : Keeps N s₀ y5 := by
      unfold y5; apply keeps_holdRecord (hN.via rfl); exact h4
    clear_value y5; refine Keeps.update 0x200000 (hN.via rfl) ?_ rfl rfl rfl; exact h6
  · exact hs

theorem keeps_finishKernel (hN : Within 0x20804a N) (t status pc : ℕ) (s : State) (hs : Keeps N s₀ s)
    : Keeps N s₀ (finishKernel t status pc s) := by
  unfold finishKernel
  split
  · exact hs
  · extract_lets +onlyGivenNames y1; clear_value y1; extract_lets +onlyGivenNames y2
    have h3 : Keeps N s₀ y2 := by
      unfold y2; apply keeps_ite
      · apply keeps_closeSteps (hN.via rfl); exact hs
      · exact hs
    clear_value y2; extract_lets +onlyGivenNames y4
    have h5 : Keeps N s₀ y4 := by
      unfold y4; apply keeps_bump (hN.via rfl); apply keeps_tokensOut (hN.via rfl)
      apply keeps_clearKernel (hN.via rfl); exact h3
    clear_value y4; extract_lets +onlyGivenNames y6
    have h7 : Keeps N s₀ y6 := by
      unfold y6; apply keeps_ite
      · apply keeps_holdRecord (hN.via rfl); exact h5
      · exact h5
    clear_value y6; extract_lets +onlyGivenNames y8
    have h9 : Keeps N s₀ y8 := by
      unfold y8; apply keeps_ite
      · apply keeps_raise (hN.via rfl); exact h7
      · exact h7
    clear_value y8; apply keeps_ite
    · apply keeps_formRec (hN.via rfl); apply keeps_bump (hN.via rfl); apply keeps_raise (hN.via rfl); exact h9
    · apply keeps_ite
      · apply keeps_formRec (hN.via rfl); exact h9
      · exact h9

theorem keeps_regionFault (hN : Within 0x20804a N) (t pc : ℕ) (s : State) (hs : Keeps N s₀ s) : Keeps N s₀ (regionFault t pc s) := by
  unfold regionFault; apply keeps_finishKernel (hN.via rfl); apply keeps_raise (hN.via rfl)
  apply keeps_bump (hN.via rfl); exact hs

theorem keeps_execKernelStart (hN : Within 0x20804a N) (t : ℕ) (s : State) (hs : Keeps N s₀ s) : Keeps N s₀ (execKernelStart t s) := by
  unfold execKernelStart
  split
  · apply keeps_ite
    · exact hs
    · extract_lets +onlyGivenNames y1; clear_value y1; extract_lets +onlyGivenNames y2
      have h3 : Keeps N s₀ y2 := by
        unfold y2; apply keeps_wr (hN.via rfl); apply keeps_setFlag (hN.via rfl); apply keeps_startCmd (hN.via rfl)
        apply keeps_updTile (hN.via rfl)
        · exact hs
        · exact fun _ c => c
      clear_value y2; apply keeps_ite
      · exact h3
      · apply keeps_regionFault (hN.via rfl); exact h3
  · exact hs

theorem keeps_execKernelEnd (hN : Within 0x20804a N) (t pc : ℕ) (undefined : Bool) (s : State) (hs : Keeps N s₀ s)
    : Keeps N s₀ (execKernelEnd t pc undefined s) := by
  unfold execKernelEnd
  split
  · exact hs
  · apply keeps_ite
    · exact hs
    · extract_lets +onlyGivenNames y1
      have h2 : Keeps N s₀ y1 := by
        unfold y1; apply keeps_wr (hN.via rfl); exact hs
      clear_value y1; apply keeps_ite
      · apply keeps_regionFault (hN.via rfl); exact h2
      · apply keeps_ite
        · apply keeps_finishKernel (hN.via rfl); exact h2
        · apply keeps_ite
          · apply keeps_finishKernel (hN.via rfl); exact h2
          · exact h2

theorem keeps_enqueue (hN : Within 0x8000 N) (t : ℕ) (q : Queued) (s : State) (hs : Keeps N s₀ s) : Keeps N s₀ (enqueue t q s) := by
  unfold enqueue; apply keeps_updTile (hN.via rfl)
  · exact hs
  · (intro x c; split <;> exact c)

theorem keeps_dequeue (hN : Within 0x8000 N) (t u : ℕ) (i : Issue) (s : State) (hs : Keeps N s₀ s) : Keeps N s₀ (dequeue t u i s) := by
  unfold dequeue; apply keeps_updTile (hN.via rfl)
  · exact hs
  · exact fun _ c => c

theorem keeps_signalTokens (hN : Within 0x8000 N) (t : ℕ) (i : Issue) (s : State) (hs : Keeps N s₀ s)
    : Keeps N s₀ (signalTokens t i s) := by
  unfold signalTokens; apply keeps_updTile (hN.via rfl)
  · exact hs
  · exact fun _ c => c

theorem keeps_ranEnd (hN : Within 0x20804a N) (t u : ℕ) (i : Issue) (r : Ran) (hs : Keeps N s₀ r.state)
    : Keeps N s₀ (ranEnd t u i r) := by
  unfold ranEnd; apply keeps_ite
  · apply keeps_signalTokens (hN.via rfl); apply keeps_dequeue (hN.via rfl); exact hs
  · apply keeps_ite
    · extract_lets +onlyGivenNames y1; clear_value y1; apply keeps_updTile (hN.via rfl)
      · apply keeps_dequeue (hN.via rfl); exact hs
      · exact fun _ c => c
    · apply keeps_ite
      · exact hs
      · extract_lets +onlyGivenNames y2
        have h3 : Keeps N s₀ y2 := by
          unfold y2; apply keeps_updTile (hN.via rfl)
          · exact hs
          · exact fun _ c => c
        clear_value y2; apply keeps_ite
        · apply keeps_regionFault (hN.via rfl); exact h3
        · apply keeps_finishKernel (hN.via rfl); exact h3

theorem keeps_issue (hN : Within 0x20804a N) (t : ℕ) (q : Queued) (i : Issue) (free : TileWait → Bool) (f : Kernel → State → Ran)
    (s : State) (hs : ∀ z0 z1, Keeps N s₀ z1 → Keeps N s₀ (f z0 z1).state) (hs1 : Keeps N s₀ s)
    : Keeps N s₀ (issue t q i free f s) := by
  unfold issue
  split
  · exact hs1
  · extract_lets +onlyGivenNames y1; clear_value y1; apply keeps_ite
    · exact hs1
    · extract_lets +onlyGivenNames y2
      have h3 : Keeps N s₀ y2 := by
        unfold y2; apply keeps_ite
        · exact hs1
        · apply keeps_wr (hN.via rfl); exact hs1
      clear_value y2; apply keeps_ite
      · apply keeps_regionFault (hN.via rfl); exact h3
      · extract_lets +onlyGivenNames y4
        have h5 : Keeps N s₀ y4 := by
          unfold y4; apply keeps_enqueue (hN.via rfl); exact h3
        clear_value y4; apply keeps_ite
        · exact h5
        · apply keeps_ranEnd (hN.via rfl); apply hs; exact h5

theorem keeps_writeFailed (hN : Within 0x20804a N) (t : ℕ) (who : Requester) (s : State) (hs : Keeps N s₀ s)
    : Keeps N s₀ (writeFailed t who s) := by
  unfold writeFailed; extract_lets +onlyGivenNames y1; clear_value y1
  split
  · apply keeps_ite
    · apply keeps_finishKernel (hN.via rfl); exact hs
    · exact hs
  · exact hs

theorem keeps_acksDone (hN : Within 0x8000 N) (t : ℕ) (s : State) (hs : Keeps N s₀ s) : Keeps N s₀ (acksDone t s) := by
  unfold acksDone
  split
  · exact hs
  · apply keeps_ite
    · exact hs
    · extract_lets +onlyGivenNames y1; clear_value y1; apply Keeps.foldl
      · intro z2 z3 h4; apply keeps_signalTokens (hN.via rfl); exact h4
      · apply keeps_updTile (hN.via rfl)
        · exact hs
        · exact fun _ c => c

theorem keeps_updKernel (hN : Within 0x8000 N) (t : ℕ) (f : Kernel → Kernel) (s : State) (hs : Keeps N s₀ s)
    : Keeps N s₀ (updKernel t f s) := by
  unfold updKernel; apply keeps_updTile (hN.via rfl)
  · exact hs
  · exact fun _ c => c

theorem keeps_readRecord (hN : Within 0x800a N) (t a : ℕ) (s : State) (hs : Keeps N s₀ s) : Keeps N s₀ (readRecord t a s).2 := by
  unfold readRecord; extract_lets +onlyGivenNames y1; clear_value y1
  split
  · split
    · dsimp -zeta only; apply keeps_bump (hN.via rfl); apply keeps_updKernel (hN.via rfl); exact hs
    · exact hs
  · exact hs

theorem keeps_railSet (hN : Within 0x100000 N) (noc : Bool) (k was : ℕ) (s : State) (hs : Keeps N s₀ s)
    : Keeps N s₀ (railSet noc k was s) := by
  unfold railSet; extract_lets +onlyGivenNames y1; clear_value y1; apply keeps_ite
  · exact hs
  · apply keeps_emit (hN.via rfl); exact hs

theorem keeps_clockSet (hN : Within 0x10012a N) (noc : Bool) (k eff : ℕ) (throttled : Bool) (s : State) (hs : Keeps N s₀ s)
    : Keeps N s₀ (clockSet noc k eff throttled s) := by
  unfold clockSet; extract_lets +onlyGivenNames y1; clear_value y1; extract_lets +onlyGivenNames y2; clear_value y2
  extract_lets +onlyGivenNames y3; clear_value y3; extract_lets +onlyGivenNames y4; extract_lets +onlyGivenNames y5
  have h6 : Keeps N s₀ y5 := by
    unfold y5; refine Keeps.update 0x20 (hN.via rfl) ?_ rfl rfl rfl; exact hs
  clear_value y5; extract_lets +onlyGivenNames y7
  have h8 : Keeps N s₀ y7 := by
    unfold y7; apply keeps_setFld (hN.via rfl); exact h6
  clear_value y7; extract_lets +onlyGivenNames y9
  have h10 : Keeps N s₀ y9 := by
    unfold y9; apply keeps_railSet (hN.via rfl); apply keeps_ite
    · exact h8
    · apply keeps_setFlag (hN.via rfl); apply keeps_setFlag (hN.via rfl); exact h8
  clear_value y9; apply keeps_ite
  · exact h10
  · extract_lets +onlyGivenNames y11
    have h12 : Keeps N s₀ y11 := by
      unfold y11; apply keeps_hhCapture (hN.via rfl); exact h10
    clear_value y11; apply keeps_ite
    · exact h12
    · apply keeps_bump (hN.via rfl); exact h12

theorem keeps_clkShow (hN : Within 0x100022 N) (noc : Bool) (k : ℕ) (s : State) (hs : Keeps N s₀ s) : Keeps N s₀ (clkShow noc k s) := by
  unfold clkShow; extract_lets +onlyGivenNames y1; clear_value y1; extract_lets +onlyGivenNames y2; clear_value y2
  extract_lets +onlyGivenNames y3; clear_value y3; extract_lets +onlyGivenNames y4; clear_value y4
  extract_lets +onlyGivenNames y5; clear_value y5; extract_lets +onlyGivenNames y6; clear_value y6
  extract_lets +onlyGivenNames y7; extract_lets +onlyGivenNames y8
  have h9 : Keeps N s₀ y8 := by
    unfold y8; apply keeps_railSet (hN.via rfl); refine Keeps.update 0x20 (hN.via rfl) ?_ rfl rfl rfl; exact hs
  clear_value y8; apply keeps_ite
  · exact h9
  · apply keeps_setFlag (hN.via rfl); apply keeps_setFlag (hN.via rfl); exact h9

theorem keeps_clkWrite (hN : Within 0x10002a N) (noc : Bool) (k : ℕ) (v : Word) (s : State) (hs : Keeps N s₀ s)
    : Keeps N s₀ (clkWrite noc k v s) := by
  unfold clkWrite; extract_lets +onlyGivenNames y1; clear_value y1; extract_lets +onlyGivenNames y2; clear_value y2
  apply keeps_ite
  · apply keeps_ite
    · exact hs
    · apply keeps_bump (hN.via rfl); exact hs
  · apply keeps_clkShow (hN.via rfl); apply keeps_setFld (hN.via rfl); exact hs

theorem keeps_execClockRequest (hN : Within 0x1001ea N) (w : Func) (noc : Bool) (k : ℕ) (v : Word) (s : State) (hs : Keeps N s₀ s)
    : Keeps N s₀ (execClockRequest w noc k v s) := by
  unfold execClockRequest; apply keeps_access (hN.via rfl)
  · intro z1 h2; apply keeps_clkWrite (hN.via rfl); exact h2
  · exact hs

theorem keeps_clockTake (hN : Within 0x10012a N) (noc : Bool) (k : ℕ) (s : State) (hs : Keeps N s₀ s)
    : Keeps N s₀ (clockTake noc k s) := by
  unfold clockTake; extract_lets +onlyGivenNames y1; clear_value y1; apply keeps_ite
  · exact hs
  · apply keeps_clockSet (hN.via rfl); exact hs

theorem keeps_execClockChange (hN : Within 0x10012a N) (noc : Bool) (k : ℕ) (s : State) (hs : Keeps N s₀ s)
    : Keeps N s₀ (execClockChange noc k s) := by
  unfold execClockChange; apply keeps_ite
  · apply keeps_clockTake (hN.via rfl); exact hs
  · exact hs

theorem keeps_clockFalls (hN : Within 0x10012a N) (s : State) (hs : Keeps N s₀ s) : Keeps N s₀ (clockFalls s) := by
  unfold clockFalls; apply Keeps.foldl
  · intro z1 z2 h3; extract_lets +onlyGivenNames y4; clear_value y4; extract_lets +onlyGivenNames y5; clear_value y5
    apply keeps_ite
    · apply keeps_clockTake (hN.via rfl); exact h3
    · exact h3
  · exact hs

theorem keeps_capShow (hN : Within 0x100022 N) (noc : Bool) (s : State) (k : ℕ) (hs : Keeps N s₀ s) : Keeps N s₀ (capShow noc s k) := by
  unfold capShow; apply keeps_ite
  · exact hs
  · apply keeps_clkShow (hN.via rfl); exact hs

theorem keeps_setCap (hN : Within 0x10002a N) (cap : ℕ) (s : State) (hs : Keeps N s₀ s) : Keeps N s₀ (setCap cap s) := by
  unfold setCap; extract_lets +onlyGivenNames y1; clear_value y1; apply keeps_ite
  · exact hs
  · extract_lets +onlyGivenNames y2
    have h3 : Keeps N s₀ y2 := by
      unfold y2; apply keeps_bump (hN.via rfl); apply keeps_raise (hN.via rfl); apply keeps_setFlag (hN.via rfl)
      apply keeps_setFld (hN.via rfl); exact hs
    clear_value y2; apply Keeps.foldl
    · intro z4 z5 h6; apply keeps_capShow (hN.via rfl); exact h6
    · apply Keeps.foldl
      · intro z7 z8 h9; apply keeps_capShow (hN.via rfl); exact h9
      · exact h3

theorem keeps_updPool (hN : Within 0x8000 N) (t : ℕ) (f : List PoolLine → List PoolLine) (s : State) (hs : Keeps N s₀ s)
    : Keeps N s₀ (updPool t f s) := by
  unfold updPool; apply keeps_updTile (hN.via rfl)
  · exact hs
  · exact fun _ c => c

theorem keeps_updPoolLine (hN : Within 0x8000 N) (t n : ℕ) (f : PoolLine → PoolLine) (s : State) (hs : Keeps N s₀ s)
    : Keeps N s₀ (updPoolLine t n f s) := by
  unfold updPoolLine; apply keeps_updPool (hN.via rfl); exact hs

theorem keeps_freePoolLine (hN : Within 0x8000 N) (t n : ℕ) (s : State) (hs : Keeps N s₀ s) : Keeps N s₀ (freePoolLine t n s) := by
  unfold freePoolLine; apply keeps_updPool (hN.via rfl); exact hs

theorem keeps_sendWriteBack (hN : Within 0x800a N) (t : ℕ) (l : PoolLine) (line : Option ℕ) (s : State) (hs : Keeps N s₀ s)
    : Keeps N s₀ (sendWriteBack t l line s) := by
  unfold sendWriteBack; apply keeps_bump (hN.via rfl); apply keeps_updTile (hN.via rfl)
  · exact hs
  · exact fun _ c => c

theorem keeps_installLine (hN : Within 0x800a N) (t n : ℕ) (x : PoolFill) (s : State) (hs : Keeps N s₀ s)
    : Keeps N s₀ (installLine t n x s) := by
  unfold installLine; extract_lets +onlyGivenNames y1; clear_value y1; extract_lets +onlyGivenNames y2
  clear_value y2; extract_lets +onlyGivenNames y3; clear_value y3; extract_lets +onlyGivenNames y4
  have h5 : Keeps N s₀ y4 := by
    unfold y4; apply keeps_ite
    · apply keeps_bump (hN.via rfl); exact hs
    · exact hs
  clear_value y4; extract_lets +onlyGivenNames y6; clear_value y6; apply keeps_sramWrite (hN.via rfl)
  apply keeps_updPool (hN.via rfl); apply keeps_freePoolLine (hN.via rfl); exact h5

theorem keeps_poolPut (hN : Within 0x800a N) (t : ℕ) (x : PoolFill) (s : State) (hs : Keeps N s₀ s) : Keeps N s₀ (poolPut t x s).2 := by
  unfold poolPut
  split
  · dsimp -zeta only; apply keeps_installLine (hN.via rfl); exact hs
  · dsimp -zeta only; apply keeps_updPoolLine (hN.via rfl); exact hs
  · split
    · exact hs
    · dsimp -zeta only; apply keeps_installLine (hN.via rfl); exact hs
    · extract_lets +onlyGivenNames y1
      have h2 : Keeps N s₀ y1 := by
        unfold y1; apply keeps_bump (hN.via rfl); exact hs
      clear_value y1
      split
      · dsimp -zeta only; apply keeps_updPoolLine (hN.via rfl); apply keeps_sendWriteBack (hN.via rfl); exact h2
      · dsimp -zeta only; apply keeps_installLine (hN.via rfl); apply keeps_freePoolLine (hN.via rfl); exact h2

theorem keeps_poolSpill (hN : Within 0xa N) (t : ℕ) (s : State) (hs : Keeps N s₀ s) : Keeps N s₀ (poolSpill t s) := by
  unfold poolSpill; apply keeps_raise (hN.via rfl); apply keeps_bump (hN.via rfl); exact hs

theorem keeps_execHoldExpiry (hN : Within 0x800a N) (t : ℕ) (s : State) (hs : Keeps N s₀ s) : Keeps N s₀ (execHoldExpiry t s) := by
  unfold execHoldExpiry; extract_lets +onlyGivenNames y1; clear_value y1; extract_lets +onlyGivenNames y2
  clear_value y2; extract_lets +onlyGivenNames y3; clear_value y3; apply keeps_ite
  · exact hs
  · apply keeps_bump (hN.via rfl); apply keeps_updPool (hN.via rfl); exact hs

theorem keeps_writeMerged (hN : Within 0x8000 N) (t : ℕ) (failed : Bool) (s : State) (hs : Keeps N s₀ s)
    : Keeps N s₀ (writeMerged t failed s) := by
  unfold writeMerged; apply keeps_updTile (hN.via rfl)
  · exact hs
  · exact fun _ c => c

theorem keeps_execWriteBack (hN : Within 0x1a81ca N) (t : ℕ) (s : State) (hs : Keeps N s₀ s) : Keeps N s₀ (execWriteBack t s) := by
  unfold execWriteBack
  split
  · exact hs
  · apply keeps_ite
    · apply keeps_writeMerged (hN.via rfl); exact hs
    · apply keeps_ite
      · exact hs
      · extract_lets +onlyGivenNames y1
        have h2 : Keeps N s₀ y1.2 := by
          unfold y1; apply keeps_memStore (hN.via rfl); exact hs
        clear_value y1
        split
        · exact h2
        · apply keeps_flitsPass (hN.via rfl); apply keeps_writeMerged (hN.via rfl); exact h2
        · apply keeps_flitsPass (hN.via rfl); apply keeps_writeMerged (hN.via rfl); exact h2

theorem keeps_execWriteBackAck (hN : Within 0x20804a N) (t : ℕ) (s : State) (hs : Keeps N s₀ s)
    : Keeps N s₀ (execWriteBackAck t s) := by
  unfold execWriteBackAck
  split
  · exact hs
  · extract_lets +onlyGivenNames y1
    have h2 : Keeps N s₀ y1 := by
      unfold y1; apply keeps_updTile (hN.via rfl)
      · exact hs
      · exact fun _ c => c
    clear_value y1; extract_lets +onlyGivenNames y3
    have h4 : Keeps N s₀ y3 := by
      unfold y3
      split
      · exact h2
      · split
        · exact h2
        · extract_lets +onlyGivenNames y5
          have h6 : Keeps N s₀ y5 := by
            unfold y5; apply keeps_freePoolLine (hN.via rfl); exact h2
          clear_value y5
          split
          · apply keeps_installLine (hN.via rfl); exact h6
          · exact h6
    clear_value y3; extract_lets +onlyGivenNames y7
    have h8 : Keeps N s₀ y7 := by
      unfold y7; apply keeps_ite
      · apply keeps_writeFailed (hN.via rfl); exact h4
      · exact h4
    clear_value y7; extract_lets +onlyGivenNames y9
    have h10 : Keeps N s₀ y9 := by
      unfold y9; apply keeps_acksDone (hN.via rfl); exact h8
    clear_value y9; apply keeps_ite
    · apply keeps_setFlag (hN.via rfl); exact h10
    · exact h10

theorem keeps_sendFill (hN : Within 0x800a N) (t : ℕ) (x : PoolFill) (s : State) (hs : Keeps N s₀ s) : Keeps N s₀ (sendFill t x s) := by
  unfold sendFill; apply keeps_bump (hN.via rfl); apply keeps_updTile (hN.via rfl)
  · exact hs
  · exact fun _ c => c

theorem keeps_poolInvalidate (hN : Within 0x800a N) (t : ℕ) (p : PoolLine → Bool) (s : State) (hs : Keeps N s₀ s)
    : Keeps N s₀ (poolInvalidate t p s) := by
  unfold poolInvalidate; extract_lets +onlyGivenNames y1
  have h2 : Keeps N s₀ y1 := by
    unfold y1; apply Keeps.foldl
    · intro z3 z4 h5; apply keeps_sendWriteBack (hN.via rfl); exact h5
    · exact hs
  clear_value y1; extract_lets +onlyGivenNames y6; clear_value y6; extract_lets +onlyGivenNames y7
  have h8 : Keeps N s₀ y7 := by
    unfold y7; apply Keeps.foldl
    · intro z9 z10 h11; apply keeps_ite
      · apply keeps_sendFill (hN.via rfl); exact h11
      · exact h11
    · exact h2
  clear_value y7; apply keeps_updPool (hN.via rfl); exact h8

theorem keeps_poolCmd (hN : Within 0x800a N) (w : Func) (t : ℕ) (v : Word) (s : State) (hs : Keeps N s₀ s)
    : Keeps N s₀ (poolCmd w t v s) := by
  unfold poolCmd; extract_lets +onlyGivenNames y1; clear_value y1; extract_lets +onlyGivenNames y2; clear_value y2
  apply keeps_ite
  · apply keeps_tdiRefuse (hN.via rfl); apply keeps_bump (hN.via rfl); exact hs
  · apply keeps_ite
    · exact hs
    · apply keeps_ite
      · apply keeps_bump (hN.via rfl); exact hs
      · extract_lets +onlyGivenNames y3
        have h4 : Keeps N s₀ y3 := by
          unfold y3; apply keeps_wr (hN.via rfl); exact hs
        clear_value y3; apply keeps_ite
        · exact h4
        · extract_lets +onlyGivenNames y5
          have h6 : Keeps N s₀ y5 := by
            unfold y5
            split
            · apply keeps_updPool (hN.via rfl); exact h4
            · apply keeps_updPool (hN.via rfl); exact h4
            · apply keeps_updPool (hN.via rfl); apply Keeps.foldl
              · intro z7 z8 h9; apply keeps_sendWriteBack (hN.via rfl); exact h9
              · exact h4
            · apply keeps_poolInvalidate (hN.via rfl); exact h4
          clear_value y5; apply keeps_ite
          · apply keeps_setFlag (hN.via rfl); exact h6
          · exact h6

theorem keeps_execUnpinContext (hN : Within 0x1081ca N) (w : Func) (t ctx : ℕ) (s : State) (hs : Keeps N s₀ s)
    : Keeps N s₀ (execUnpinContext w t ctx s) := by
  unfold execUnpinContext; apply keeps_access (hN.via rfl)
  · intro z1 h2; apply keeps_poolCmd (hN.via rfl); exact h2
  · exact hs

theorem keeps_execUnpinAll (hN : Within 0x1081ca N) (w : Func) (t : ℕ) (s : State) (hs : Keeps N s₀ s)
    : Keeps N s₀ (execUnpinAll w t s) := by
  unfold execUnpinAll; apply keeps_access (hN.via rfl)
  · intro z1 h2; apply keeps_poolCmd (hN.via rfl); exact h2
  · exact hs

theorem keeps_execFlush (hN : Within 0x1081ca N) (w : Func) (t : ℕ) (s : State) (hs : Keeps N s₀ s) : Keeps N s₀ (execFlush w t s) := by
  unfold execFlush; apply keeps_access (hN.via rfl)
  · intro z1 h2; apply keeps_poolCmd (hN.via rfl); exact h2
  · exact hs

theorem keeps_execInvalidateTenant (hN : Within 0x1081ca N) (w : Func) (t tenant : ℕ) (s : State) (hs : Keeps N s₀ s)
    : Keeps N s₀ (execInvalidateTenant w t tenant s) := by
  unfold execInvalidateTenant; apply keeps_access (hN.via rfl)
  · intro z1 h2; apply keeps_poolCmd (hN.via rfl); exact h2
  · exact hs

theorem keeps_tileRegionWrite (hN : Within 0x800a N) (t off : ℕ) (v : Word) (s : State) (hs : Keeps N s₀ s)
    : Keeps N s₀ (tileRegionWrite t off v s) := by
  unfold tileRegionWrite; extract_lets +onlyGivenNames y1; clear_value y1; extract_lets +onlyGivenNames y2
  clear_value y2; extract_lets +onlyGivenNames y3; clear_value y3; apply keeps_ite
  · exact hs
  · apply keeps_ite
    · apply keeps_bump (hN.via rfl); exact hs
    · apply keeps_ite
      · apply keeps_poolInvalidate (hN.via rfl); apply keeps_updTile (hN.via rfl)
        · exact hs
        · exact fun _ c => c
      · apply keeps_plainWrite (hN.via rfl); apply keeps_farKeep (hN.via rfl); exact hs

theorem keeps_execPoolFlushDone (hN : Within 0x800a N) (t : ℕ) (s : State) (hs : Keeps N s₀ s)
    : Keeps N s₀ (execPoolFlushDone t s) := by
  unfold execPoolFlushDone
  split
  · exact hs
  · extract_lets +onlyGivenNames y1; clear_value y1; apply keeps_ite
    · exact hs
    · extract_lets +onlyGivenNames y2
      have h3 : Keeps N s₀ y2 := by
        unfold y2; apply keeps_updTile (hN.via rfl)
        · exact hs
        · exact fun _ c => c
      clear_value y2; apply keeps_ite
      · apply keeps_bump (hN.via rfl); exact h3
      · apply keeps_plainWrite (hN.via rfl); apply keeps_farKeep (hN.via rfl); exact h3

theorem keeps_unpinContext (hN : Within 0x8000 N) (c : Nat) (s : State) (hs : Keeps N s₀ s) : Keeps N s₀ (unpinContext c s) := by
  refine ⟨⟨hs.base.fuses, fun d => ?_, hs.base.queue⟩, hs.change hN rfl⟩
  obtain ⟨a, b, e, f, g, k⟩ := hs.base.canon d
  refine ⟨a, b, e, f, fun x hx => ?_, { k with tiles := sortedKeys_map (fun _ => rfl) k.tiles }⟩
  obtain ⟨y, hy, rfl⟩ := List.mem_map.mp hx
  exact g y hy

theorem keeps_walkWrite (hN : Within 0x8000 N) (t : ℕ) (w : GenWalk) (vs : List ℕ) (s : State) (hs : Keeps N s₀ s)
    : Keeps N s₀ (walkWrite t w vs s) := by
  unfold walkWrite; apply Keeps.foldl
  · intro z1 z2 h3; extract_lets +onlyGivenNames y4; clear_value y4; apply keeps_sramWrite (hN.via rfl); exact h3
  · exact hs

theorem keeps_freshList (hN : Within 0x200000 N) (n : Nat) (s : State) (hs : Keeps N s₀ s) : Keeps N s₀ (freshList n s).2 := by
  induction n generalizing s with
  | zero => exact hs
  | succ n ih => exact ih _ (keeps_fresh (hN.via rfl) _ hs)

theorem keeps_walkLanes (hN : Within 0x200000 N) (t reg : ℕ) (w : GenWalk) (s : State) (hs : Keeps N s₀ s)
    : Keeps N s₀ (walkLanes t reg w s).2 := by
  unfold walkLanes; extract_lets +onlyGivenNames y1; clear_value y1; extract_lets +onlyGivenNames y2; clear_value y2
  extract_lets +onlyGivenNames y3
  have h4 : Keeps N s₀ y3.2 := by
    unfold y3; apply keeps_freshList (hN.via rfl); exact hs
  clear_value y3; exact h4

theorem keeps_putLanes (hN : Within 0x8000 N) (t reg : ℕ) (vs : List ℕ) (s : State) (hs : Keeps N s₀ s)
    : Keeps N s₀ (putLanes t reg vs s) := by
  unfold putLanes; apply keeps_setLanes (hN.via rfl); exact hs

theorem keeps_walkPort (hN : Within 0x8000 N) (t : ℕ) (w : GenWalk) (s : State) (hs : Keeps N s₀ s) : Keeps N s₀ (walkPort t w s) := by
  unfold walkPort; apply Keeps.foldl
  · intro z1 z2 h3; apply keeps_portRead (hN.via rfl); exact h3
  · exact hs

theorem keeps_loadOwn (hN : Within 0x8000 N) (t reg : ℕ) (w : GenWalk) (k : Kernel) (s : State) (hs : Keeps N s₀ s)
    : Keeps N s₀ (loadOwn t reg w k s).state := by
  unfold loadOwn
  split
  · exact hs
  · dsimp -zeta only; apply keeps_putLanes (hN.via rfl); apply keeps_walkPort (hN.via rfl); exact hs

theorem keeps_storeOwn (hN : Within 0x8000 N) (t : ℕ) (w : GenWalk) (vs : List ℕ) (k : Kernel) (s : State) (hs : Keeps N s₀ s)
    : Keeps N s₀ (storeOwn t w vs k s).state := by
  unfold storeOwn
  split
  · exact hs
  · dsimp -zeta only; apply keeps_walkWrite (hN.via rfl); exact hs

theorem keeps_farAccess (hN : Within 0xa N) (u : ℕ) (write : Bool) (w : GenWalk) (k : Kernel) (s : State) (f : State → State)
    (hs : Keeps N s₀ s) (hs1 : ∀ z0, Keeps N s₀ z0 → Keeps N s₀ (f z0)) : Keeps N s₀ (farAccess u write w k s f).state := by
  unfold farAccess
  split
  · exact hs
  · split
    · dsimp -zeta only; apply keeps_raise (hN.via rfl); apply keeps_bump (hN.via rfl); exact hs
    · dsimp -zeta only; apply hs1; exact hs

theorem keeps_loadRemote (hN : Within 0x800a N) (t u reg : ℕ) (w : GenWalk) (k : Kernel) (s : State) (hs : Keeps N s₀ s)
    : Keeps N s₀ (loadRemote t u reg w k s).state := by
  unfold loadRemote; apply keeps_farAccess (hN.via rfl)
  · exact hs
  · intro z1 h2; apply keeps_flitsPass (hN.via rfl); apply keeps_bump (hN.via rfl)
    apply keeps_putLanes (hN.via rfl); apply keeps_walkPort (hN.via rfl); exact h2

theorem keeps_storeRemote (hN : Within 0x800a N) (t u : ℕ) (w : GenWalk) (vs : List ℕ) (k : Kernel) (s : State) (hs : Keeps N s₀ s)
    : Keeps N s₀ (storeRemote t u w vs k s).state := by
  unfold storeRemote; apply keeps_farAccess (hN.via rfl)
  · exact hs
  · intro z1 h2; apply keeps_flitsPass (hN.via rfl); apply keeps_bump (hN.via rfl)
    apply keeps_walkWrite (hN.via rfl); exact h2

theorem keeps_homeAsk (hN : Within 0x100000 N) (c : ℕ) (h : Home) (s : State) (hs : Keeps N s₀ s) : Keeps N s₀ (homeAsk c h s) := by
  unfold homeAsk; apply keeps_ite
  · apply keeps_emit (hN.via rfl); exact hs
  · exact hs

theorem keeps_homeFetch (hN : Within 0x1a01ca N) (t : ℕ) (h : Home) (host : Option (List Byte)) (k : Kernel) (s : State)
    (hs : Keeps N s₀ s) : Keeps N s₀ (homeFetch t h host k s).2.2 := by
  unfold homeFetch
  split
  · exact hs
  · split
    · exact hs
    · extract_lets +onlyGivenNames y1
      have h2 : Keeps N s₀ y1.2 := by
        unfold y1; apply keeps_memFetch (hN.via rfl); exact hs
      clear_value y1
      split
      · dsimp -zeta only; apply keeps_flitsPass (hN.via rfl); exact h2
      · dsimp -zeta only; apply keeps_homeAsk (hN.via rfl); exact h2
      · exact h2

theorem keeps_loadHome (hN : Within 0x1a81ca N) (t : ℕ) (h : Home) (host : Option (List Byte)) (reg : ℕ) (w : GenWalk) (k : Kernel)
    (s : State) (hs : Keeps N s₀ s) : Keeps N s₀ (loadHome t h host reg w k s).state := by
  unfold loadHome; extract_lets +onlyGivenNames y1; clear_value y1
  split
  · extract_lets +onlyGivenNames y2
    have h3 : Keeps N s₀ y2 := by
      unfold y2; apply keeps_bump (hN.via rfl); apply keeps_updPoolLine (hN.via rfl); exact hs
    clear_value y2; extract_lets +onlyGivenNames y4
    have h5 : Keeps N s₀ y4 := by
      unfold y4; apply keeps_ite
      · apply keeps_updKernel (hN.via rfl); exact h3
      · exact h3
    clear_value y4; dsimp -zeta only; apply keeps_putLanes (hN.via rfl); exact h5
  · dsimp -zeta only; apply keeps_putLanes (hN.via rfl); apply keeps_bump (hN.via rfl); exact hs
  · extract_lets +onlyGivenNames y6
    have h7 : Keeps N s₀ y6.2.2 := by
      unfold y6; apply keeps_homeFetch (hN.via rfl); apply keeps_bump (hN.via rfl); exact hs
    clear_value y6
    split
    · dsimp -zeta only; apply keeps_putLanes (hN.via rfl); apply keeps_poolPut (hN.via rfl); exact h7
    · dsimp -zeta only; apply keeps_ite
      · apply keeps_ite
        · apply keeps_homeAsk (hN.via rfl); exact hs
        · exact hs
      · exact h7

theorem keeps_storeHome (hN : Within 0x1a81ca N) (t : ℕ) (h : Home) (host : Option (List Byte)) (w : GenWalk) (vs : List ℕ) (k : Kernel)
    (s : State) (hs : Keeps N s₀ s) : Keeps N s₀ (storeHome t h host w vs k s).state := by
  unfold storeHome; extract_lets +onlyGivenNames y1; clear_value y1
  split
  · dsimp -zeta only; apply keeps_updPoolLine (hN.via rfl); apply keeps_sramWrite (hN.via rfl); exact hs
  · dsimp -zeta only; apply keeps_updPoolLine (hN.via rfl); exact hs
  · split
    · dsimp -zeta only; apply keeps_memDenied (hN.via rfl); exact hs
    · split
      · extract_lets +onlyGivenNames y2
        have h3 : Keeps N s₀ y2.2.2 := by
          unfold y2; apply keeps_homeFetch (hN.via rfl); exact hs
        clear_value y2
        split
        · dsimp -zeta only; apply keeps_bump (hN.via rfl); apply keeps_updTile (hN.via rfl)
          · exact h3
          · exact fun _ c => c
        · exact h3
      · split
        · extract_lets +onlyGivenNames y4; clear_value y4; dsimp -zeta only; apply keeps_bump (hN.via rfl)
          apply keeps_updTile (hN.via rfl)
          · exact hs
          · exact fun _ c => c
        · extract_lets +onlyGivenNames y5; clear_value y5; extract_lets +onlyGivenNames y6
          have h7 : Keeps N s₀ y6.2.2 := by
            unfold y6
            split
            · exact hs
            · apply keeps_homeFetch (hN.via rfl); exact hs
          clear_value y6
          split
          · dsimp -zeta only; apply keeps_poolPut (hN.via rfl); exact h7
          · exact h7

theorem keeps_genStore (hN : Within 0x1a81ca N) (t : ℕ) (target : GenTarget) (host : Option (List Byte)) (w : GenWalk) (vs : List ℕ)
    (k : Kernel) (s : State) (hs : Keeps N s₀ s) : Keeps N s₀ (genStore t target host w vs k s).state := by
  unfold genStore
  split
  · exact hs
  · split
    · apply keeps_storeOwn (hN.via rfl); exact hs
    · split
      · exact hs
      · apply keeps_storeHome (hN.via rfl); exact hs
    · extract_lets +onlyGivenNames y1; clear_value y1
      split
      · exact hs
      · dsimp -zeta only; apply keeps_updKernel (hN.via rfl); exact hs
    · dsimp -zeta only; apply keeps_updTile (hN.via rfl)
      · exact hs
      · exact fun _ c => c

theorem keeps_genLoad (hN : Within 0x1a81ca N) (t : ℕ) (target : GenTarget) (host : Option (List Byte)) (reg : ℕ) (w : GenWalk)
    (k : Kernel) (s : State) (hs : Keeps N s₀ s) : Keeps N s₀ (genLoad t target host reg w k s).state := by
  unfold genLoad
  split
  · exact hs
  · split
    · apply keeps_loadOwn (hN.via rfl); exact hs
    · split
      · exact hs
      · apply keeps_loadHome (hN.via rfl); exact hs
    · exact hs
    · exact hs

theorem keeps_genRun (hN : Within 0x3a81ca N) (t : ℕ) (target : GenTarget) (host : Option (List Byte)) (o : GenOp) (k : Kernel)
    (s : State) (hs : Keeps N s₀ s) : Keeps N s₀ (genRun t target host o k s).state := by
  unfold genRun
  split
  · extract_lets +onlyGivenNames y1
    have h2 : Keeps N s₀ y1.2 := by
      unfold y1; apply keeps_walkLanes (hN.via rfl); exact hs
    clear_value y1; apply keeps_genStore (hN.via rfl); exact h2
  · apply keeps_genLoad (hN.via rfl); exact hs

theorem keeps_laneStore (hN : Within 0x1a81ca N) (t : ℕ) (dst : LaneDest) (vs : List ℕ) (k : Kernel) (s : State) (hs : Keeps N s₀ s)
    : Keeps N s₀ (laneStore t dst vs k s).state := by
  unfold laneStore
  split
  · split
    · exact hs
    · dsimp -zeta only; apply keeps_setLanes (hN.via rfl); exact hs
  · apply keeps_genStore (hN.via rfl); exact hs
  · split
    · apply keeps_storeRemote (hN.via rfl); exact hs
    · exact hs

theorem keeps_execAddressGeneratorAccess (hN : Within 0x3a81ca N) (t : ℕ) (i : Issue) (target : GenTarget) (host : Option (List Byte))
    (o : GenOp) (s : State) (hs : Keeps N s₀ s) : Keeps N s₀ (execAddressGeneratorAccess t i target host o s) := by
  unfold execAddressGeneratorAccess; apply keeps_issue (hN.via rfl)
  · intro z1 z2 h3; apply keeps_genRun (hN.via rfl); exact h3
  · exact hs

theorem keeps_execRemoteRead (hN : Within 0x20804a N) (t u : ℕ) (i : Issue) (walk : GenWalk) (reg : ℕ) (s : State) (hs : Keeps N s₀ s)
    : Keeps N s₀ (execRemoteRead t u i walk reg s) := by
  unfold execRemoteRead; apply keeps_issue (hN.via rfl)
  · intro z1 z2 h3
    split
    · apply keeps_loadRemote (hN.via rfl); exact h3
    · exact h3
  · exact hs

theorem keeps_execRemoteWrite (hN : Within 0x20804a N) (t u : ℕ) (i : Issue) (walk : GenWalk) (reg : ℕ) (s : State) (hs : Keeps N s₀ s)
    : Keeps N s₀ (execRemoteWrite t u i walk reg s) := by
  unfold execRemoteWrite; apply keeps_issue (hN.via rfl)
  · intro z1 z2 h3
    split
    · extract_lets +onlyGivenNames y4
      have h5 : Keeps N s₀ y4.2 := by
        unfold y4; apply keeps_walkLanes (hN.via rfl); exact h3
      clear_value y4; apply keeps_storeRemote (hN.via rfl); exact h5
    · exact h3
  · exact hs

theorem keeps_haloDrop (hN : Within 0xa N) (t : ℕ) (s : State) (hs : Keeps N s₀ s) : Keeps N s₀ (haloDrop t s) := by
  unfold haloDrop; apply keeps_raise (hN.via rfl); apply keeps_bump (hN.via rfl); exact hs

theorem keeps_haloResume (hN : Within 0x20804a N) (t : ℕ) (s : State) (hs : Keeps N s₀ s) : Keeps N s₀ (haloResume t s) := by
  unfold haloResume; extract_lets +onlyGivenNames y1; clear_value y1; apply Keeps.foldl
  · intro z2 z3 h4
    split
    · apply keeps_ranEnd (hN.via rfl); exact h4
    · exact h4
  · apply keeps_updTile (hN.via rfl)
    · exact hs
    · exact fun _ c => c

theorem keeps_haloSet (hN : Within 0x20804a N) (t n v c : ℕ) (s : State) (hs : Keeps N s₀ s) : Keeps N s₀ (haloSet t n v c s) := by
  unfold haloSet; apply keeps_ite
  · apply keeps_haloResume (hN.via rfl); apply keeps_wr (hN.via rfl); exact hs
  · apply keeps_haloDrop (hN.via rfl); exact hs

theorem keeps_haloAdd (hN : Within 0x20804a N) (p : HaloPost) (s : State) (hs : Keeps N s₀ s) : Keeps N s₀ (haloAdd p s) := by
  unfold haloAdd; apply keeps_ite
  · apply keeps_haloResume (hN.via rfl); apply keeps_wr (hN.via rfl); exact hs
  · apply keeps_haloDrop (hN.via rfl); exact hs

theorem keeps_haloSend (hN : Within 0x8000 N) (t : ℕ) (p : HaloPost) (s : State) (hs : Keeps N s₀ s) : Keeps N s₀ (haloSend t p s) := by
  unfold haloSend; apply keeps_updTile (hN.via rfl)
  · exact hs
  · exact fun _ c => c

theorem keeps_haloPostTo (hN : Within 0x8000 N) (t u n v c : ℕ) (s : State) (hs : Keeps N s₀ s)
    : Keeps N s₀ (haloPostTo t u n v c s) := by
  unfold haloPostTo; apply keeps_haloSend (hN.via rfl); exact hs

theorem keeps_execPost (hN : Within 0x20804a N) (t : ℕ) (i : Issue) (u n v : ℕ) (s : State) (hs : Keeps N s₀ s)
    : Keeps N s₀ (execPost t i u n v s) := by
  unfold execPost; apply keeps_issue (hN.via rfl)
  · intro z1 z2 h3
    split
    · exact h3
    · dsimp -zeta only; apply keeps_haloPostTo (hN.via rfl); exact h3
  · exact hs

theorem keeps_execWait (hN : Within 0x20804a N) (t : ℕ) (i : Issue) (n v : ℕ) (s : State) (hs : Keeps N s₀ s)
    : Keeps N s₀ (execWait t i n v s) := by
  unfold execWait; apply keeps_issue (hN.via rfl)
  · intro z1 z2 h3
    split
    · exact h3
    · split
      · exact h3
      · dsimp -zeta only; apply keeps_updTile (hN.via rfl)
        · exact h3
        · exact fun _ c => c
  · exact hs

theorem keeps_putAcc (hN : Within 0x800a N) (t : ℕ) (rs : List (ℕ × ℕ × ℕ)) (s : State) (hs : Keeps N s₀ s)
    : Keeps N s₀ (putAcc t rs s) := by
  unfold putAcc; extract_lets +onlyGivenNames y1; clear_value y1; extract_lets +onlyGivenNames y2
  have h3 : Keeps N s₀ y2 := by
    unfold y2; apply keeps_markActive (hN.via rfl); apply keeps_updTile (hN.via rfl)
    · exact hs
    · exact fun _ c => c
  clear_value y2; apply keeps_ite
  · exact h3
  · apply keeps_bump (hN.via rfl); apply keeps_raise (hN.via rfl); apply keeps_setFlag (hN.via rfl)
    apply keeps_updKernel (hN.via rfl); exact h3

theorem keeps_groupExps (hN : Within 0x800a N) (t records : ℕ) (isInt : Bool) (s : State) (hs : Keeps N s₀ s)
    : Keeps N s₀ (groupExps t records isInt s).2 := by
  unfold groupExps
  split
  · exact hs
  · apply Keeps.foldl_snd
    · intro z1 z2 h3; extract_lets +onlyGivenNames y4
      have h5 : Keeps N s₀ y4.2 := by
        unfold y4; apply keeps_readRecord (hN.via rfl); exact h3
      clear_value y4; exact h5
    · exact hs

theorem keeps_drainGroup (hN : Within 0x8000 N) (t batch r : ℕ) (s : State) (hs : Keeps N s₀ s)
    : Keeps N s₀ (drainGroup t batch r s) := by
  unfold drainGroup; extract_lets +onlyGivenNames y1; clear_value y1; apply keeps_updTile (hN.via rfl)
  · apply keeps_setLanes (hN.via rfl); exact hs
  · exact fun _ c => c

theorem keeps_matrixRun (hN : Within 0x800a N) (t : ℕ) (o : MatrixOp) (k : Kernel) (s : State) (hs : Keeps N s₀ s)
    : Keeps N s₀ (matrixRun t o k s).state := by
  unfold matrixRun; extract_lets +onlyGivenNames y1; clear_value y1; extract_lets +onlyGivenNames y2; clear_value y2
  split
  · exact hs
  · split
    · exact hs
    · extract_lets +onlyGivenNames y3
      have h4 : Keeps N s₀ y3.2 := by
        unfold y3; apply keeps_groupExps (hN.via rfl); exact hs
      clear_value y3; extract_lets +onlyGivenNames y5
      have h6 : Keeps N s₀ y5 := by
        unfold y5; apply Keeps.foldl
        · intro z7 z8 h9; apply keeps_portRead (hN.via rfl); apply keeps_portRead (hN.via rfl); exact h9
        · apply keeps_portRead (hN.via rfl); apply keeps_portRead (hN.via rfl); exact h4
      clear_value y5; extract_lets +onlyGivenNames y10; clear_value y10; extract_lets +onlyGivenNames y11
      clear_value y11; extract_lets +onlyGivenNames y12; clear_value y12; extract_lets +onlyGivenNames y13
      clear_value y13; extract_lets +onlyGivenNames y14; clear_value y14; extract_lets +onlyGivenNames y15
      clear_value y15; extract_lets +onlyGivenNames y16
      have h17 : Keeps N s₀ y16 := by
        unfold y16; apply keeps_putAcc (hN.via rfl); exact h6
      clear_value y16
      split
      · exact h17
      · dsimp -zeta only; apply keeps_drainGroup (hN.via rfl); exact h17

theorem keeps_execMatrixInstruction (hN : Within 0x20804a N) (t : ℕ) (i : Issue) (o : MatrixOp) (s : State) (hs : Keeps N s₀ s)
    : Keeps N s₀ (execMatrixInstruction t i o s) := by
  unfold execMatrixInstruction; apply keeps_issue (hN.via rfl)
  · intro z1 z2 h3; apply keeps_matrixRun (hN.via rfl); exact h3
  · exact hs

theorem keeps_fillLanes (hN : Within 0x200000 N) (ls : List Lane) (s : State) (hs : Keeps N s₀ s) : Keeps N s₀ (fillLanes ls s).2 := by
  unfold fillLanes; apply Keeps.foldl_snd
  · intro z1 z2 h3
    split
    · exact h3
    · extract_lets +onlyGivenNames y4
      have h5 : Keeps N s₀ y4.2 := by
        unfold y4; apply keeps_fresh (hN.via rfl); exact h3
      clear_value y4; exact h5
  · exact hs

theorem keeps_countLanes (hN : Within 0x800a N) (t sats nans : ℕ) (s : State) (hs : Keeps N s₀ s)
    : Keeps N s₀ (countLanes t sats nans s) := by
  unfold countLanes; extract_lets +onlyGivenNames y1
  have h2 : Keeps N s₀ y1 := by
    unfold y1; apply keeps_bump (hN.via rfl); apply keeps_markActive (hN.via rfl); exact hs
  clear_value y1; apply keeps_ite
  · exact h2
  · apply keeps_raise (hN.via rfl); apply keeps_bump (hN.via rfl); exact h2

theorem keeps_draw (hN : Within 0x20010a N) (island : ℕ) (s : State) (hs : Keeps N s₀ s) : Keeps N s₀ (draw island s).2 := by
  unfold draw
  split
  · dsimp -zeta only; refine Keeps.update 0x100 (hN.via rfl) ?_ rfl rfl rfl; exact hs
  · extract_lets +onlyGivenNames y1
    have h2 : Keeps N s₀ y1.2 := by
      unfold y1; apply keeps_fresh (hN.via rfl); exact hs
    clear_value y1; extract_lets +onlyGivenNames y3; clear_value y3; dsimp -zeta only
    apply keeps_hhCapture (hN.via rfl); exact h2

theorem keeps_vectorLanes (hN : Within 0x20010a N) (t : ℕ) (o : VectorOp) (s : State) (hs : Keeps N s₀ s)
    : Keeps N s₀ (vectorLanes t o s).2.2.2 := by
  unfold vectorLanes; extract_lets +onlyGivenNames y1; clear_value y1; extract_lets +onlyGivenNames y2
  clear_value y2; extract_lets +onlyGivenNames y3; clear_value y3; extract_lets +onlyGivenNames y4
  have h5 : ∀ z0, Keeps N s₀ (y4 z0).2.2.2 := by
    intro z6; unfold y4; extract_lets +onlyGivenNames y7
    have h8 : Keeps N s₀ y7.2 := by
      unfold y7; apply keeps_fillLanes (hN.via rfl); exact hs
    clear_value y7; exact h8
  clear_value y4; extract_lets +onlyGivenNames y9
  have h10 : ∀ z0, Keeps N s₀ (y9 z0).2.2.2 := by
    intro z11; unfold y9; exact hs
  clear_value y9
  split
  · apply h10
  · apply h10
  · exact hs
  · exact hs
  · apply h5
  · extract_lets +onlyGivenNames y12
    have h13 : Keeps N s₀ y12.2 := by
      unfold y12; apply keeps_draw (hN.via rfl); exact hs
    clear_value y12; exact h13
  · apply h5

theorem keeps_vectorRun (hN : Within 0x3a81ca N) (t : ℕ) (o : VectorOp) (k : Kernel) (s : State) (hs : Keeps N s₀ s)
    : Keeps N s₀ (vectorRun t o k s).state := by
  unfold vectorRun; extract_lets +onlyGivenNames y1; clear_value y1; extract_lets +onlyGivenNames y2; clear_value y2
  split
  · exact hs
  · extract_lets +onlyGivenNames y3
    have h4 : Keeps N s₀ y3.2.2.2 := by
      unfold y3; apply keeps_vectorLanes (hN.via rfl); exact hs
    clear_value y3; apply keeps_laneStore (hN.via rfl); apply keeps_countLanes (hN.via rfl); exact h4

theorem keeps_execVectorOperation (hN : Within 0x3a81ca N) (t : ℕ) (i : Issue) (o : VectorOp) (s : State) (hs : Keeps N s₀ s)
    : Keeps N s₀ (execVectorOperation t i o s) := by
  unfold execVectorOperation; apply keeps_issue (hN.via rfl)
  · intro z1 z2 h3; apply keeps_vectorRun (hN.via rfl); exact h3
  · exact hs

theorem keeps_requantRun (hN : Within 0x1a81ca N) (t : ℕ) (o : RequantOp) (k : Kernel) (s : State) (hs : Keeps N s₀ s)
    : Keeps N s₀ (requantRun t o k s).state := by
  unfold requantRun
  split
  · exact hs
  · split
    · exact hs
    · extract_lets +onlyGivenNames y1
      have h2 : Keeps N s₀ y1.2 := by
        unfold y1; apply Keeps.foldl_snd
        · intro z3 z4 h5; extract_lets +onlyGivenNames y6
          have h7 : Keeps N s₀ y6.2 := by
            unfold y6; apply keeps_readRecord (hN.via rfl); exact h5
          clear_value y6; exact h7
        · exact hs
      clear_value y1; extract_lets +onlyGivenNames y8
      have h9 : Keeps N s₀ y8 := by
        unfold y8; exact h2
      clear_value y8; extract_lets +onlyGivenNames y10; clear_value y10; apply keeps_laneStore (hN.via rfl)
      apply keeps_countLanes (hN.via rfl); exact h9

theorem keeps_execRequantise (hN : Within 0x3a81ca N) (t : ℕ) (i : Issue) (o : RequantOp) (s : State) (hs : Keeps N s₀ s)
    : Keeps N s₀ (execRequantise t i o s) := by
  unfold execRequantise; apply keeps_issue (hN.via rfl)
  · intro z1 z2 h3; apply keeps_requantRun (hN.via rfl); exact h3
  · exact hs

theorem keeps_quantNames (hN : Within 0xa N) (t point : ℕ) (k : Kernel) (s : State) (hs : Keeps N s₀ s)
    : Keeps N s₀ (quantNames t point k s) := by
  unfold quantNames; apply keeps_ite
  · exact hs
  · apply keeps_bump (hN.via rfl); exact hs

theorem keeps_quantThrough (hN : Within 0x800a N) (t point : ℕ) (fmt : Elem) (g : ℕ) (float : Bool) (words : List ℕ) (k : Kernel)
    (s : State) (hs : Keeps N s₀ s) : Keeps N s₀ (quantThrough t point fmt g float words k s).2 := by
  unfold quantThrough; extract_lets +onlyGivenNames y1; clear_value y1; extract_lets +onlyGivenNames y2
  clear_value y2; extract_lets +onlyGivenNames y3; clear_value y3; extract_lets +onlyGivenNames y4; clear_value y4
  extract_lets +onlyGivenNames y5; clear_value y5; extract_lets +onlyGivenNames y6
  have h7 : Keeps N s₀ y6 := by
    unfold y6; apply keeps_countLanes (hN.via rfl); exact hs
  clear_value y6; dsimp -zeta only; apply keeps_updKernel (hN.via rfl); exact h7

theorem keeps_quantRows (hN : Within 0x800a N) (t : Nat) (o : QuantOp) (k : Kernel) (l : List (List Nat)) (s : State) (hs : Keeps N s₀ s) :
    Keeps N s₀ (quantRows t o k l s).2 := by
  induction l generalizing s with
  | nil => exact hs
  | cons x r ih => exact ih _ (keeps_quantThrough (hN.via rfl) _ _ _ _ _ _ _ _ hs)

theorem keeps_quantRun (hN : Within 0x1a81ca N) (t : ℕ) (o : QuantOp) (k : Kernel) (s : State) (hs : Keeps N s₀ s)
    : Keeps N s₀ (quantRun t o k s).state := by
  unfold quantRun
  split
  · exact hs
  · extract_lets +onlyGivenNames y1; clear_value y1
    split
    · split
      · split
        · exact hs
        · extract_lets +onlyGivenNames y2
          have h3 : Keeps N s₀ y2.2 := by
            unfold y2; apply keeps_quantRows (hN.via rfl); apply keeps_quantNames (hN.via rfl); exact hs
          clear_value y2; dsimp -zeta only; apply keeps_setLanes (hN.via rfl); apply keeps_setLanes (hN.via rfl)
          exact h3
      · split
        · exact hs
        · extract_lets +onlyGivenNames y4
          have h5 : Keeps N s₀ y4.2 := by
            unfold y4; apply keeps_quantRows (hN.via rfl); apply keeps_quantNames (hN.via rfl); exact hs
          clear_value y4; dsimp -zeta only; apply keeps_setLanes (hN.via rfl); apply keeps_setLanes (hN.via rfl)
          exact h5
    · extract_lets +onlyGivenNames y6; clear_value y6; extract_lets +onlyGivenNames y7; clear_value y7
      extract_lets +onlyGivenNames y8; clear_value y8
      split
      · dsimp -zeta only
        split
        · apply keeps_ite
          · apply keeps_raise (hN.via rfl); apply keeps_bump (hN.via rfl); exact hs
          · exact hs
        · exact hs
      · extract_lets +onlyGivenNames y9
        have h10 : Keeps N s₀ y9.2 := by
          unfold y9; apply keeps_quantRows (hN.via rfl); apply keeps_quantNames (hN.via rfl); exact hs
        clear_value y9; extract_lets +onlyGivenNames y11
        have h12 : Keeps N s₀ y11 := by
          unfold y11; apply keeps_sramWrite (hN.via rfl); apply keeps_sramWrite (hN.via rfl); exact h10
        clear_value y11; dsimp -zeta only
        split
        · apply keeps_flitsPass (hN.via rfl); apply keeps_bump (hN.via rfl); exact h12
        · exact h12
    · extract_lets +onlyGivenNames y13
      have h14 : Keeps N s₀ y13.2 := by
        unfold y13; apply keeps_quantRows (hN.via rfl); apply keeps_quantNames (hN.via rfl); exact hs
      clear_value y13; extract_lets +onlyGivenNames y15
      have h16 : ∀ z0, Keeps N s₀ z0 → Keeps N s₀ (y15 z0).state := by
        intro z17 h18; unfold y15; extract_lets +onlyGivenNames y19
        have h20 : Keeps N s₀ y19.state := by
          unfold y19; apply keeps_genStore (hN.via rfl); exact h18
        clear_value y19; extract_lets +onlyGivenNames y21
        have h22 : Keeps N s₀ y21.state := by
          unfold y21; apply keeps_genStore (hN.via rfl); exact h20
        clear_value y21; exact h22
      clear_value y15; extract_lets +onlyGivenNames y23
      have h24 : Keeps N s₀ y23.state := by
        unfold y23; apply h16; exact hs
      clear_value y23
      split
      · apply h16; exact h14
      · exact h24

theorem keeps_execQuantise (hN : Within 0x3a81ca N) (t : ℕ) (i : Issue) (o : QuantOp) (s : State) (hs : Keeps N s₀ s)
    : Keeps N s₀ (execQuantise t i o s) := by
  unfold execQuantise; apply keeps_issue (hN.via rfl)
  · intro z1 z2 h3; apply keeps_quantRun (hN.via rfl); exact h3
  · exact hs

end Sys2Proof.Machine
end

