-- ==== Sys2Proof/Laws/KeepsD.lean ====
section
/-! SUPPORT. What every operation keeps (Keeps.lean), for the operations of StateUnit.lean, DeckFormat.lean, Seats.lean, Window.lean,
Stem.lean. -/
namespace Sys2Proof.Machine
set_option Elab.async false

variable {s₀ : State} {N : Nat}

theorem keeps_setSeg (hN : Within 0x8000 N) (t n : ℕ) (g : Segment) (s : State) (hs : Keeps N s₀ s) : Keeps N s₀ (setSeg t n g s) := by
  unfold setSeg; apply keeps_updTile (hN.via rfl)
  · exact hs
  · exact fun _ c => c

theorem keeps_suRefused (hN : Within 0xa N) (t : ℕ) (s : State) (hs : Keeps N s₀ s) : Keeps N s₀ (suRefused t s) := by
  unfold suRefused; apply keeps_bump (hN.via rfl); exact hs

theorem keeps_segCfgWrite (hN : Within 0x20804a N) (t : ℕ) (v : Word) (s : State) (hs : Keeps N s₀ s)
    : Keeps N s₀ (segCfgWrite t v s) := by
  unfold segCfgWrite; extract_lets +onlyGivenNames y1; clear_value y1; extract_lets +onlyGivenNames y2
  clear_value y2; extract_lets +onlyGivenNames y3; clear_value y3; apply keeps_ite
  · apply keeps_ite
    · apply keeps_suRefused (hN.via rfl); exact hs
    · split
      · apply keeps_ite
        · apply keeps_dropSegment (hN.via rfl); exact hs
        · apply keeps_ite
          · apply keeps_setSeg (hN.via rfl); exact hs
          · apply keeps_regionFault (hN.via rfl); apply keeps_dropSegment (hN.via rfl); exact hs
      · apply keeps_dropSegment (hN.via rfl); exact hs
  · apply keeps_ite
    · apply keeps_ite
      · apply keeps_setSeg (hN.via rfl); exact hs
      · apply keeps_suRefused (hN.via rfl); exact hs
    · apply keeps_ite
      · apply keeps_setSeg (hN.via rfl); exact hs
      · apply keeps_suRefused (hN.via rfl); exact hs

theorem keeps_segFieldWrite (hN : Within 0x800a N) (t off : ℕ) (v : Word) (s : State) (hs : Keeps N s₀ s)
    : Keeps N s₀ (segFieldWrite t off v s) := by
  unfold segFieldWrite; extract_lets +onlyGivenNames y1; clear_value y1; extract_lets +onlyGivenNames y2
  clear_value y2; apply keeps_ite
  · apply keeps_ite
    · apply keeps_setSeg (hN.via rfl); exact hs
    · exact hs
  · apply keeps_ite
    · apply keeps_suRefused (hN.via rfl); exact hs
    · apply keeps_ite
      · apply keeps_setSeg (hN.via rfl); exact hs
      · apply keeps_ite
        · apply keeps_setSeg (hN.via rfl); exact hs
        · apply keeps_ite
          · apply keeps_setSeg (hN.via rfl); exact hs
          · exact hs

theorem keeps_execSegmentAllocate (hN : Within 0x3081ca N) (w : Func) (t : ℕ) (v : Word) (s : State) (hs : Keeps N s₀ s)
    : Keeps N s₀ (execSegmentAllocate w t v s) := by
  unfold execSegmentAllocate; apply keeps_access (hN.via rfl)
  · intro z1 h2; apply keeps_segCfgWrite (hN.via rfl); exact h2
  · exact hs

theorem keeps_execSegmentRelease (hN : Within 0x3081ca N) (w : Func) (t : ℕ) (v : Word) (s : State) (hs : Keeps N s₀ s)
    : Keeps N s₀ (execSegmentRelease w t v s) := by
  unfold execSegmentRelease; apply keeps_access (hN.via rfl)
  · intro z1 h2; apply keeps_segCfgWrite (hN.via rfl); exact h2
  · exact hs

theorem keeps_suTblWrite (hN : Within 0xa N) (t off : ℕ) (v : Word) (s : State) (hs : Keeps N s₀ s)
    : Keeps N s₀ (suTblWrite t off v s) := by
  unfold suTblWrite; extract_lets +onlyGivenNames y1; clear_value y1; apply keeps_ite
  · exact hs
  · apply keeps_ite
    · apply keeps_suRefused (hN.via rfl); exact hs
    · apply keeps_setFlag (hN.via rfl); apply keeps_wr (hN.via rfl); exact hs

theorem keeps_execSuTblWrite (hN : Within 0x1001ca N) (w : Func) (t m i : ℕ) (v : Word) (s : State) (hs : Keeps N s₀ s)
    : Keeps N s₀ (execSuTblWrite w t m i v s) := by
  unfold execSuTblWrite; extract_lets +onlyGivenNames y1; clear_value y1; apply keeps_access (hN.via rfl)
  · intro z2 h3; apply keeps_suTblWrite (hN.via rfl); exact h3
  · exact hs

theorem keeps_suCommit (hN : Within 0xa N) (t : ℕ) (v : Word) (s : State) (hs : Keeps N s₀ s) : Keeps N s₀ (suCommit t v s) := by
  unfold suCommit; apply keeps_ite
  · exact hs
  · apply keeps_ite
    · apply keeps_suRefused (hN.via rfl); exact hs
    · apply Keeps.foldl
      · intro z1 z2 h3; apply keeps_ite
        · exact h3
        · apply keeps_ite
          · apply keeps_setFlag (hN.via rfl); exact h3
          · apply keeps_suRefused (hN.via rfl); exact h3
      · exact hs

theorem keeps_execCommit (hN : Within 0x1001ca N) (w : Func) (t : ℕ) (v : Word) (s : State) (hs : Keeps N s₀ s)
    : Keeps N s₀ (execCommit w t v s) := by
  unfold execCommit; apply keeps_access (hN.via rfl)
  · intro z1 h2; apply keeps_suCommit (hN.via rfl); exact h2
  · exact hs

theorem keeps_suRegWrite (hN : Within 0x20804a N) (t off : ℕ) (v : Word) (s : State) (hs : Keeps N s₀ s)
    : Keeps N s₀ (suRegWrite t off v s) := by
  unfold suRegWrite; apply keeps_ite
  · apply keeps_segCfgWrite (hN.via rfl); exact hs
  · apply keeps_ite
    · apply keeps_segFieldWrite (hN.via rfl); exact hs
    · apply keeps_ite
      · apply keeps_suCommit (hN.via rfl); exact hs
      · apply keeps_ite
        · apply keeps_suTblWrite (hN.via rfl); exact hs
        · apply keeps_plainWrite (hN.via rfl); exact hs

theorem keeps_srcPort (hN : Within 0x8000 N) (t : ℕ) (src : StepSrc) (s : State) (hs : Keeps N s₀ s)
    : Keeps N s₀ (srcPort t src s) := by
  unfold srcPort
  split
  · exact hs
  · apply keeps_walkPort (hN.via rfl); exact hs

theorem keeps_stepSegment (hN : Within 0x800a N) (t T n : ℕ) (r : SegRun) (s : State) (hs : Keeps N s₀ s)
    : Keeps N s₀ (stepSegment t T n r s) := by
  unfold stepSegment; extract_lets +onlyGivenNames y1; clear_value y1; extract_lets +onlyGivenNames y2
  clear_value y2; extract_lets +onlyGivenNames y3
  have h4 : Keeps N s₀ y3 := by
    unfold y3; apply keeps_bump (hN.via rfl); apply keeps_bump (hN.via rfl); apply keeps_bump (hN.via rfl)
    apply keeps_bump (hN.via rfl); apply keeps_setSeg (hN.via rfl); apply keeps_updTile (hN.via rfl)
    · exact hs
    · exact fun _ c => c
  clear_value y3; apply keeps_ite
  · exact h4
  · apply keeps_raise (hN.via rfl); apply keeps_noteSet (hN.via rfl); exact h4

theorem keeps_stateGo (hN : Within 0x1a81ca N) (t : ℕ) (i : Issue) (o : StateOp) (k : Kernel) (s : State) (hs : Keeps N s₀ s)
    : Keeps N s₀ (stateGo t i o k s).state := by
  unfold stateGo
  split
  · dsimp -zeta only; apply keeps_updTile (hN.via rfl)
    · exact hs
    · exact fun _ c => c
  · extract_lets +onlyGivenNames y1; clear_value y1; extract_lets +onlyGivenNames y2
    have h3 : Keeps N s₀ y2.2 := by
      unfold y2; apply Keeps.foldl_snd
      · intro z4 z5 h6; extract_lets +onlyGivenNames y7
        have h8 : Keeps N s₀ y7.state := by
          unfold y7; apply keeps_laneStore (hN.via rfl); exact h6
        clear_value y7; exact h8
      · dsimp -zeta only; apply keeps_markActive (hN.via rfl); exact hs
    clear_value y2
    split
    · exact h3
    · dsimp -zeta only; apply Keeps.foldl
      · intro z9 z10 h11; apply keeps_stepSegment (hN.via rfl); apply keeps_srcPort (hN.via rfl)
        apply keeps_srcPort (hN.via rfl); apply keeps_srcPort (hN.via rfl); apply keeps_srcPort (hN.via rfl)
        exact h11
      · exact h3

theorem keeps_stateRun (hN : Within 0x1a81ca N) (t : ℕ) (i : Issue) (o : StateOp) (k : Kernel) (s : State) (hs : Keeps N s₀ s)
    : Keeps N s₀ (stateRun t i o k s).state := by
  unfold stateRun
  split
  · exact hs
  · split
    · exact hs
    · split
      · exact hs
      · extract_lets +onlyGivenNames y1; clear_value y1
        split
        · exact hs
        · apply keeps_stateGo (hN.via rfl); apply keeps_updKernel (hN.via rfl); exact hs

theorem keeps_execStateInstruction (hN : Within 0x3a81ca N) (t : ℕ) (i : Issue) (o : StateOp) (s : State) (hs : Keeps N s₀ s)
    : Keeps N s₀ (execStateInstruction t i o s) := by
  unfold execStateInstruction; apply keeps_issue (hN.via rfl)
  · intro z1 z2 h3; apply keeps_stateRun (hN.via rfl); exact h3
  · exact hs

theorem keeps_execZeroDone (hN : Within 0x3a81ca N) (t n : ℕ) (s : State) (hs : Keeps N s₀ s) : Keeps N s₀ (execZeroDone t n s) := by
  unfold execZeroDone; apply keeps_ite
  · exact hs
  · extract_lets +onlyGivenNames y1; clear_value y1; extract_lets +onlyGivenNames y2
    have h3 : Keeps N s₀ y2 := by
      unfold y2; apply keeps_raise (hN.via rfl); apply keeps_setSeg (hN.via rfl); exact hs
    clear_value y2
    split
    · exact h3
    · extract_lets +onlyGivenNames y4; clear_value y4; apply Keeps.foldl
      · intro z5 z6 h7
        split
        · apply keeps_ranEnd (hN.via rfl); apply keeps_stateGo (hN.via rfl); exact h7
        · exact h7
      · apply keeps_updTile (hN.via rfl)
        · exact h3
        · exact fun _ c => c

theorem keeps_suUnload (hN : Within 0x2 N) (t : ℕ) (s : State) (hs : Keeps N s₀ s) : Keeps N s₀ (suUnload t s) := by
  unfold suUnload; apply Keeps.foldl
  · intro z1 z2 h3; apply keeps_ite
    · exact h3
    · apply Keeps.foldl
      · intro z4 z5 h6; apply keeps_wr (hN.via rfl); exact h6
      · apply keeps_setFlag (hN.via rfl); exact h3
  · exact hs

theorem keeps_suClear (hN : Within 0x8002 N) (t : ℕ) (s : State) (hs : Keeps N s₀ s) : Keeps N s₀ (suClear t s) := by
  unfold suClear; apply keeps_suUnload (hN.via rfl); apply keeps_updTile (hN.via rfl)
  · exact hs
  · exact fun _ c => c

theorem keeps_veRefused (hN : Within 0xa N) (t : ℕ) (s : State) (hs : Keeps N s₀ s) : Keeps N s₀ (veRefused t s) := by
  unfold veRefused; apply keeps_bump (hN.via rfl); exact hs

theorem keeps_qpAdjWrite (hN : Within 0xa N) (t n : ℕ) (v : Word) (s : State) (hs : Keeps N s₀ s)
    : Keeps N s₀ (qpAdjWrite t n v s) := by
  unfold qpAdjWrite; extract_lets +onlyGivenNames y1; clear_value y1; extract_lets +onlyGivenNames y2
  clear_value y2; extract_lets +onlyGivenNames y3; clear_value y3; apply keeps_ite
  · apply keeps_veRefused (hN.via rfl); exact hs
  · apply keeps_wr (hN.via rfl); exact hs

theorem keeps_execVeQpAdjWrite (hN : Within 0x1001ca N) (w : Func) (t n : ℕ) (v : Word) (s : State) (hs : Keeps N s₀ s)
    : Keeps N s₀ (execVeQpAdjWrite w t n v s) := by
  unfold execVeQpAdjWrite; apply keeps_access (hN.via rfl)
  · intro z1 h2; apply keeps_qpAdjWrite (hN.via rfl); exact h2
  · exact hs

theorem keeps_veRegWrite (hN : Within 0x800a N) (t off : ℕ) (v : Word) (s : State) (hs : Keeps N s₀ s)
    : Keeps N s₀ (veRegWrite t off v s) := by
  unfold veRegWrite; extract_lets +onlyGivenNames y1; clear_value y1; apply keeps_ite
  · apply keeps_ite
    · apply keeps_veRefused (hN.via rfl); exact hs
    · apply keeps_plainWrite (hN.via rfl); exact hs
  · apply keeps_ite
    · extract_lets +onlyGivenNames y2; clear_value y2
      split
      · apply keeps_ite
        · apply keeps_veRefused (hN.via rfl); exact hs
        · apply keeps_plainWrite (hN.via rfl); exact hs
      · extract_lets +onlyGivenNames y3; clear_value y3; extract_lets +onlyGivenNames y4
        have h5 : Keeps N s₀ y4 := by
          unfold y4; apply keeps_plainWrite (hN.via rfl); exact hs
        clear_value y4; apply keeps_ite
        · apply keeps_wr (hN.via rfl); exact h5
        · exact h5
      · apply keeps_plainWrite (hN.via rfl); exact hs
    · apply keeps_ite
      · apply keeps_updTile (hN.via rfl)
        · exact hs
        · exact fun _ c => c
      · apply keeps_ite
        · apply keeps_ite
          · apply keeps_qpAdjWrite (hN.via rfl); exact hs
          · apply keeps_ite
            · apply keeps_veRefused (hN.via rfl); exact hs
            · apply keeps_plainWrite (hN.via rfl); exact hs
        · apply keeps_plainWrite (hN.via rfl); exact hs

theorem keeps_romStart (hN : Within 0x200 N) (s : State) (hs : Keeps N s₀ s) : Keeps N s₀ (romStart s) := by
  unfold romStart; refine Keeps.update 0x200 (hN.via rfl) ?_ rfl rfl rfl; exact hs

theorem keeps_diceLayer (hN : Within 0x200 N) (deck : List Byte) (s : State) (hs : Keeps N s₀ s) : Keeps N s₀ (diceLayer deck s) := by
  unfold diceLayer; extract_lets +onlyGivenNames y1; clear_value y1; extract_lets +onlyGivenNames y2; clear_value y2
  extract_lets +onlyGivenNames y3; clear_value y3; refine Keeps.update 0x200 (hN.via rfl) ?_ rfl rfl rfl; exact hs

theorem keeps_keySwitch (hN : Within 0x400 N) (tenant old : ℕ) (s : State) (hs : Keeps N s₀ s)
    : Keeps N s₀ (keySwitch tenant old s) := by
  unfold keySwitch; extract_lets +onlyGivenNames y1; clear_value y1; apply keeps_ite
  · exact hs
  · refine Keeps.update 0x400 (hN.via rfl) ?_ rfl rfl rfl; exact hs

theorem keeps_portSend (hN : Within 0x10000a N) (p tenant : ℕ) (dst : Option ℕ) (cls : ℕ) (bytes : List Byte) (s : State)
    (hs : Keeps N s₀ s) : Keeps N s₀ (portSend p tenant dst cls bytes s) := by
  unfold portSend; apply keeps_ite
  · apply keeps_bump (hN.via rfl); apply keeps_emit (hN.via rfl); exact hs
  · exact hs

theorem keeps_sendFrame (hN : Within 0x10040a N) (type dst : ℕ) (group : Bool) (cls corr tenant : ℕ) (payload : List Byte) (s : State)
    (hs : Keeps N s₀ s) : Keeps N s₀ (sendFrame type dst group cls corr tenant payload s) := by
  unfold sendFrame; apply keeps_ite
  · exact hs
  · extract_lets +onlyGivenNames y1; clear_value y1; extract_lets +onlyGivenNames y2
    extract_lets +onlyGivenNames y3
    have h4 : Keeps N s₀ y3 := by
      unfold y3; refine Keeps.update 0x400 (hN.via rfl) ?_ rfl rfl rfl; exact hs
    clear_value y3; apply keeps_ite
    · apply keeps_portSend (hN.via rfl); apply keeps_portSend (hN.via rfl); exact h4
    · apply keeps_portSend (hN.via rfl); exact h4

theorem keeps_sendFetch (hN : Within 0x10040a N) (q xfer addr tenant key : ℕ) (c3 : Bool) (s : State) (hs : Keeps N s₀ s)
    : Keeps N s₀ (sendFetch q xfer addr tenant key c3 s) := by
  unfold sendFetch; extract_lets +onlyGivenNames y1; clear_value y1; extract_lets +onlyGivenNames y2; clear_value y2
  apply keeps_sendFrame (hN.via rfl); refine Keeps.update 0x400 (hN.via rfl) ?_ rfl rfl rfl; exact hs

theorem keeps_winExps (hN : Within 0x800a N) (t : ℕ) (o : WindowOp) (d : Win) (s : State) (hs : Keeps N s₀ s)
    : Keeps N s₀ (winExps t o d s).2 := by
  unfold winExps
  split
  · exact hs
  · apply Keeps.foldl_snd
    · intro z1 z2 h3; extract_lets +onlyGivenNames y4
      have h5 : Keeps N s₀ y4.2 := by
        unfold y4; apply keeps_readRecord (hN.via rfl); exact h3
      clear_value y4; exact h5
    · exact hs

theorem keeps_winPorts (hN : Within 0x800a N) (t : ℕ) (o : WindowOp) (d : Win) (oy : ℕ) (s : State) (hs : Keeps N s₀ s)
    : Keeps N s₀ (winPorts t o d oy s) := by
  unfold winPorts; extract_lets +onlyGivenNames y1
  have h2 : Keeps N s₀ y1 := by
    unfold y1; apply keeps_ite
    · apply keeps_portRead (hN.via rfl); apply keeps_portRead (hN.via rfl); exact hs
    · exact hs
  clear_value y1; apply Keeps.foldl
  · intro z3 z4 h5
    split
    · exact h5
    · extract_lets +onlyGivenNames y6
      have h7 : Keeps N s₀ y6 := by
        unfold y6; apply Keeps.foldl
        · intro z8 z9 h10; apply keeps_portRead (hN.via rfl); apply keeps_portRead (hN.via rfl); exact h10
        · exact h5
      clear_value y6
      split
      · apply keeps_flitsPass (hN.via rfl); apply keeps_bump (hN.via rfl); exact h7
      · exact h7
  · exact h2

theorem keeps_winCount (hN : Within 0x800a N) (t : ℕ) (d : Win) (sats nans oy : ℕ) (s : State) (hs : Keeps N s₀ s)
    : Keeps N s₀ (winCount t d sats nans oy s) := by
  unfold winCount; apply keeps_ite
  · extract_lets +onlyGivenNames y1; clear_value y1; extract_lets +onlyGivenNames y2
    have h3 : Keeps N s₀ y2 := by
      unfold y2; apply keeps_markActive (hN.via rfl); apply keeps_bump (hN.via rfl); apply keeps_bump (hN.via rfl)
      exact hs
    clear_value y2; apply keeps_ite
    · exact h3
    · apply keeps_bump (hN.via rfl); apply keeps_raise (hN.via rfl); apply keeps_setFlag (hN.via rfl)
      apply keeps_updKernel (hN.via rfl); exact h3
  · apply keeps_countLanes (hN.via rfl); apply keeps_bump (hN.via rfl); exact hs

theorem keeps_winRecords (hN : Within 0x800a N) (t : ℕ) (o : WindowOp) (d : Win) (s : State) (hs : Keeps N s₀ s)
    : Keeps N s₀ (winRecords t o d s).2 := by
  unfold winRecords; apply Keeps.foldl_snd
  · intro z1 z2 h3; extract_lets +onlyGivenNames y4
    have h5 : Keeps N s₀ y4.2 := by
      unfold y4; apply keeps_readRecord (hN.via rfl); exact h3
    clear_value y4; exact h5
  · exact hs

theorem keeps_winPut (hN : Within 0x800a N) (t : ℕ) (o : WindowOp) (d : Win) (k : Kernel) (oy : ℕ) (vs : List ℕ) (s : State)
    (hs : Keeps N s₀ s) : Keeps N s₀ (winPut t o d k oy vs s) := by
  unfold winPut; extract_lets +onlyGivenNames y1; clear_value y1
  split
  · apply keeps_setLanes (hN.via rfl); exact hs
  · extract_lets +onlyGivenNames y2
    have h3 : Keeps N s₀ y2.2 := by
      unfold y2; apply keeps_winRecords (hN.via rfl); exact hs
    clear_value y2; extract_lets +onlyGivenNames y4; clear_value y4; extract_lets +onlyGivenNames y5
    have h6 : Keeps N s₀ y5 := by
      unfold y5; apply keeps_countLanes (hN.via rfl); exact h3
    clear_value y5; apply Keeps.foldl
    · intro z7 z8 h9; apply keeps_sramWrite (hN.via rfl); exact h9
    · exact h6
  · extract_lets +onlyGivenNames y10
    have h11 : Keeps N s₀ y10.2 := by
      unfold y10
      split
      · exact hs
      · apply keeps_winRecords (hN.via rfl); exact hs
    clear_value y10; extract_lets +onlyGivenNames y12; clear_value y12; extract_lets +onlyGivenNames y13
    clear_value y13; extract_lets +onlyGivenNames y14
    have h15 : Keeps N s₀ y14 := by
      unfold y14; apply keeps_ite
      · exact hs
      · apply keeps_countLanes (hN.via rfl); exact h11
    clear_value y14; apply Keeps.foldl
    · intro z16 z17 h18; extract_lets +onlyGivenNames y19
      have h20 : Keeps N s₀ y19.2 := by
        unfold y19; apply keeps_quantThrough (hN.via rfl); exact h18
      clear_value y19; extract_lets +onlyGivenNames y21; clear_value y21; extract_lets +onlyGivenNames y22
      clear_value y22; extract_lets +onlyGivenNames y23; clear_value y23; apply keeps_sramWrite (hN.via rfl)
      apply keeps_sramWrite (hN.via rfl); exact h20
    · exact h15

theorem keeps_winRows (hN : Within 0x800a N) (t : Nat) (i : Issue) (o : WindowOp) (bs : List Byte) (es : List Int) (k : Kernel) (n oy : Nat)
    (s : State) (hs : Keeps N s₀ s) : Keeps N s₀ (winRows t i o bs es k n oy s).state := by
  induction n generalizing oy s with
  | zero => exact hs
  | succ n ih =>
    unfold winRows
    extract_lets +onlyGivenNames d
    split
    · dsimp -zeta only; exact keeps_updTile (hN.via rfl) _ _ hs fun _ c => c
    · extract_lets r m y z
      split
      · exact hs
      · split
        · dsimp -zeta only; apply keeps_raise (hN.via rfl); apply keeps_bump (hN.via rfl); exact hs
        · split
          · exact hs
          · have hy : Keeps N s₀ y := by
              unfold y; apply keeps_winPut (hN.via rfl); apply keeps_winPorts (hN.via rfl); apply keeps_winCount (hN.via rfl); exact hs
            have hz : Keeps N s₀ z := by
              unfold z
              split
              · apply Keeps.foldl _ hy
                intro u v hu
                split
                · apply keeps_haloPostTo (hN.via rfl); exact hu
                · exact hu
              · exact hy
            exact ih _ _ hz

theorem keeps_windowRun (hN : Within 0x800a N) (t : ℕ) (i : Issue) (o : WindowOp) (k : Kernel) (s : State) (hs : Keeps N s₀ s)
    : Keeps N s₀ (windowRun t i o k s).state := by
  unfold windowRun
  split
  · exact hs
  · extract_lets +onlyGivenNames y1; clear_value y1; extract_lets +onlyGivenNames y2; clear_value y2
    split
    · exact hs
    · extract_lets +onlyGivenNames y3; clear_value y3
      split
      · exact hs
      · extract_lets +onlyGivenNames y4
        have h5 : Keeps N s₀ y4.2 := by
          unfold y4; apply keeps_winExps (hN.via rfl); exact hs
        clear_value y4; extract_lets +onlyGivenNames y6
        have h7 : Keeps N s₀ y6 := by
          unfold y6
          split
          · apply keeps_quantNames (hN.via rfl); exact h5
          · exact h5
        clear_value y6; apply keeps_winRows (hN.via rfl); exact h7

theorem keeps_execWindowInstruction (hN : Within 0x20804a N) (t : ℕ) (i : Issue) (o : WindowOp) (s : State) (hs : Keeps N s₀ s)
    : Keeps N s₀ (execWindowInstruction t i o s) := by
  unfold execWindowInstruction; extract_lets +onlyGivenNames y1; clear_value y1; apply keeps_issue (hN.via rfl)
  · intro z2 z3 h4; apply keeps_windowRun (hN.via rfl); exact h4
  · exact hs

theorem keeps_windowResume (hN : Within 0x20804a N) (t : ℕ) (s : State) (hs : Keeps N s₀ s) : Keeps N s₀ (windowResume t s) := by
  unfold windowResume; apply Keeps.foldl
  · intro z1 z2 h3
    split
    · extract_lets +onlyGivenNames y4; clear_value y4; extract_lets +onlyGivenNames y5
      have h6 : Keeps N s₀ y5 := by
        unfold y5; apply keeps_updTile (hN.via rfl)
        · exact h3
        · exact fun _ c => c
      clear_value y5; extract_lets +onlyGivenNames y7
      have h8 : Keeps N s₀ y7.2 := by
        unfold y7; apply keeps_winExps (hN.via rfl); exact h6
      clear_value y7; apply keeps_ranEnd (hN.via rfl); apply keeps_winRows (hN.via rfl); exact h8
    · exact h3
  · exact hs

theorem keeps_execSet (hN : Within 0x20804a N) (t : ℕ) (i : Issue) (n v : ℕ) (s : State) (hs : Keeps N s₀ s)
    : Keeps N s₀ (execSet t i n v s) := by
  unfold execSet; apply keeps_issue (hN.via rfl)
  · intro z1 z2 h3
    split
    · exact h3
    · dsimp -zeta only; apply keeps_windowResume (hN.via rfl); apply keeps_haloSet (hN.via rfl); exact h3
  · exact hs

theorem keeps_haloCommit (hN : Within 0x20804a N) (p : HaloPost) (s : State) (hs : Keeps N s₀ s) : Keeps N s₀ (haloCommit p s) := by
  unfold haloCommit; apply keeps_ite
  · apply keeps_windowResume (hN.via rfl); apply keeps_haloAdd (hN.via rfl); exact hs
  · exact hs

theorem keeps_postCommit (hN : Within 0x20814e N) (t : ℕ) (p : HaloPost) (s : State) (hs : Keeps N s₀ s)
    : Keeps N s₀ (postCommit t p s) := by
  unfold postCommit; extract_lets +onlyGivenNames y1; clear_value y1; extract_lets +onlyGivenNames y2
  have h3 : Keeps N s₀ y2 := by
    unfold y2; apply keeps_haloCommit (hN.via rfl); apply keeps_flitsPass (hN.via rfl)
    apply keeps_updTile (hN.via rfl)
    · exact hs
    · exact fun _ c => c
  clear_value y2; apply keeps_ite
  · apply keeps_lateMark (hN.via rfl); exact h3
  · exact h3

theorem keeps_execHaloPostCommit (hN : Within 0x20814e N) (t : ℕ) (s : State) (hs : Keeps N s₀ s)
    : Keeps N s₀ (execHaloPostCommit t s) := by
  unfold execHaloPostCommit
  split
  · exact hs
  · apply keeps_postCommit (hN.via rfl); exact hs

theorem keeps_postsEnd (hN : Within 0x20814e N) (s : State) (hs : Keeps N s₀ s) : Keeps N s₀ (postsEnd s) := by
  unfold postsEnd; apply Keeps.foldl
  · intro z1 z2 h3; extract_lets +onlyGivenNames y4; clear_value y4; extract_lets +onlyGivenNames y5
    have h6 : Keeps N s₀ y5 := by
      unfold y5; apply Keeps.foldl
      · intro z7 z8 h9; apply keeps_postCommit (hN.via rfl); exact h9
      · exact h3
    clear_value y5; apply keeps_updTile (hN.via rfl)
    · exact h6
    · exact fun _ c => c
  · exact hs

theorem keeps_xposeBytes (hN : Within 0x800a N) (t c : ℕ) (cfg : List ℕ) (a total off : ℕ) (bs : List Byte) (s : State)
    (hs : Keeps N s₀ s) : Keeps N s₀ (xposeBytes t c cfg a total off bs s).2 := by
  unfold xposeBytes; extract_lets +onlyGivenNames y1; clear_value y1; extract_lets +onlyGivenNames y2
  clear_value y2; extract_lets +onlyGivenNames y3; clear_value y3; extract_lets +onlyGivenNames y4; clear_value y4
  extract_lets +onlyGivenNames y5; clear_value y5; extract_lets +onlyGivenNames y6; clear_value y6
  extract_lets +onlyGivenNames y7; clear_value y7
  split
  · dsimp -zeta only; apply keeps_ite
    · apply keeps_raise (hN.via rfl); apply keeps_bump (hN.via rfl); exact hs
    · exact hs
  · extract_lets +onlyGivenNames y8; clear_value y8
    split
    · exact hs
    · extract_lets +onlyGivenNames y9
      have h10 : Keeps N s₀ y9 := by
        unfold y9; apply Keeps.foldl
        · intro z11 z12 h13; apply keeps_sramWrite (hN.via rfl); exact h13
        · exact hs
      clear_value y9; dsimp -zeta only; apply keeps_ite
      · apply keeps_bump (hN.via rfl); exact h10
      · exact h10

theorem keeps_tspRegWrite (hN : Within 0x800a N) (w : Func) (t off : ℕ) (v : Word) (s : State) (hs : Keeps N s₀ s)
    : Keeps N s₀ (tspRegWrite w t off v s) := by
  unfold tspRegWrite; extract_lets +onlyGivenNames y1; clear_value y1; extract_lets +onlyGivenNames y2
  have h3 : Keeps N s₀ y2 := by
    unfold y2; apply keeps_bump (hN.via rfl); exact hs
  clear_value y2; apply keeps_ite
  · apply keeps_tileRegionWrite (hN.via rfl); exact hs
  · apply keeps_ite
    · split
      · apply keeps_ite
        · exact h3
        · apply keeps_plainWrite (hN.via rfl); exact hs
      · apply keeps_ite
        · exact h3
        · apply keeps_plainWrite (hN.via rfl); exact hs
      · apply keeps_plainWrite (hN.via rfl); exact hs
    · apply keeps_ite
      · apply keeps_ite
        · exact h3
        · apply keeps_plainWrite (hN.via rfl); exact hs
      · apply keeps_ite
        · apply keeps_poolCmd (hN.via rfl); exact hs
        · apply keeps_plainWrite (hN.via rfl); exact hs

theorem keeps_mxRegWrite (hN : Within 0x10806a N) (w : Func) (t off : ℕ) (v : Word) (s : State) (hs : Keeps N s₀ s)
    : Keeps N s₀ (mxRegWrite w t off v s) := by
  unfold mxRegWrite; extract_lets +onlyGivenNames y1; clear_value y1; apply keeps_ite
  · apply keeps_clkWrite (hN.via rfl); exact hs
  · apply keeps_ite
    · apply keeps_tileLaunchWrite (hN.via rfl); exact hs
    · apply keeps_ite
      · apply keeps_ite
        · apply keeps_accessError (hN.via rfl); exact hs
        · apply keeps_plainWrite (hN.via rfl); exact hs
      · apply keeps_plainWrite (hN.via rfl); exact hs

theorem keeps_meshRegWrite (hN : Within 0x10002a N) (d off : ℕ) (v : Word) (s : State) (hs : Keeps N s₀ s)
    : Keeps N s₀ (meshRegWrite d off v s) := by
  unfold meshRegWrite; apply keeps_ite
  · apply keeps_clkWrite (hN.via rfl); exact hs
  · apply keeps_plainWrite (hN.via rfl); exact hs

theorem keeps_jobPush (hN : Within 0x1000a N) (d : ℕ) (words : List ℕ) (queue : Option ℕ) (s : State) (hs : Keeps N s₀ s)
    : Keeps N s₀ (jobPush d words queue s).2 := by
  unfold jobPush; extract_lets +onlyGivenNames y1; clear_value y1
  split
  · dsimp -zeta only; apply keeps_bump (hN.via rfl); apply keeps_raise (hN.via rfl); apply keeps_bump (hN.via rfl)
    exact hs
  · split
    · dsimp -zeta only; apply keeps_updStem (hN.via rfl)
      · exact hs
      · exact fun _ c => c
    · dsimp -zeta only; apply keeps_raise (hN.via rfl); apply keeps_bump (hN.via rfl); exact hs

theorem keeps_stemJobRegs (hN : Within 0x1000a N) (d : ℕ) (s : State) (hs : Keeps N s₀ s) : Keeps N s₀ (stemJobRegs d s) := by
  unfold stemJobRegs; apply keeps_jobPush (hN.via rfl); exact hs

theorem keeps_stemJobWrite (hN : Within 0x1000a N) (d : ℕ) (v : Word) (s : State) (hs : Keeps N s₀ s)
    : Keeps N s₀ (stemJobWrite d v s) := by
  unfold stemJobWrite; apply keeps_stemJobRegs (hN.via rfl); apply keeps_wr (hN.via rfl); exact hs

theorem keeps_execStemJobPush (hN : Within 0x1101ca N) (w : Func) (d : ℕ) (v : Word) (s : State) (hs : Keeps N s₀ s)
    : Keeps N s₀ (execStemJobPush w d v s) := by
  unfold execStemJobPush; apply keeps_access (hN.via rfl)
  · intro z1 h2; apply keeps_stemJobWrite (hN.via rfl); exact h2
  · exact hs

theorem keeps_dealJob (hN : Within 0x1000a N) (d : ℕ) (s : State) (hs : Keeps N s₀ s) : Keeps N s₀ (dealJob d s).2 := by
  unfold dealJob; extract_lets +onlyGivenNames y1
  have h2 : Keeps N s₀ y1.2 := by
    unfold y1; apply keeps_jobPush (hN.via rfl); exact hs
  clear_value y1; exact h2

theorem keeps_stemRegWrite (hN : Within 0x1004a N) (w : Func) (d off : ℕ) (v : Word) (s : State) (hs : Keeps N s₀ s)
    : Keeps N s₀ (stemRegWrite w d off v s) := by
  unfold stemRegWrite; apply keeps_ite
  · apply keeps_stemJobWrite (hN.via rfl); exact hs
  · apply keeps_ite
    · apply keeps_ite
      · apply keeps_accessError (hN.via rfl); exact hs
      · apply keeps_plainWrite (hN.via rfl); exact hs
    · apply keeps_plainWrite (hN.via rfl); exact hs

theorem keeps_finishJob (hN : Within 0x1004a N) (d status : ℕ) (s : State) (hs : Keeps N s₀ s) : Keeps N s₀ (finishJob d status s) := by
  unfold finishJob
  split
  · exact hs
  · extract_lets +onlyGivenNames y1; clear_value y1; extract_lets +onlyGivenNames y2; clear_value y2
    extract_lets +onlyGivenNames y3
    have h4 : Keeps N s₀ y3 := by
      unfold y3; apply keeps_bump (hN.via rfl); apply keeps_setFlag (hN.via rfl); apply keeps_endCmd (hN.via rfl)
      apply keeps_updStem (hN.via rfl)
      · exact hs
      · exact fun _ c => c
    clear_value y3; extract_lets +onlyGivenNames y5
    have h6 : Keeps N s₀ y5 := by
      unfold y5; apply keeps_ite
      · apply keeps_updStem (hN.via rfl)
        · exact h4
        · exact fun _ c => c
      · exact h4
    clear_value y5; extract_lets +onlyGivenNames y7
    have h8 : Keeps N s₀ y7 := by
      unfold y7; apply keeps_ite
      · apply keeps_raise (hN.via rfl); exact h6
      · exact h6
    clear_value y7; extract_lets +onlyGivenNames y9
    have h10 : ∀ z0 z1, Keeps N s₀ z1 → Keeps N s₀ (y9 z0 z1) := by
      intro z11 z12 h13; unfold y9; apply keeps_formRec (hN.via rfl); exact h13
    clear_value y9
    split
    · exact h8
    · apply h10; exact h8
    · apply h10; apply keeps_raise (hN.via rfl); apply keeps_bump (hN.via rfl); exact h8
    · apply h10; apply keeps_raise (hN.via rfl); apply keeps_bump (hN.via rfl); exact h8

theorem keeps_execStemJobStart (hN : Within 0x1004a N) (d : ℕ) (s : State) (hs : Keeps N s₀ s) : Keeps N s₀ (execStemJobStart d s) := by
  unfold execStemJobStart
  split
  · apply keeps_ite
    · exact hs
    · extract_lets +onlyGivenNames y1; clear_value y1; extract_lets +onlyGivenNames y2; clear_value y2
      extract_lets +onlyGivenNames y3
      have h4 : Keeps N s₀ y3 := by
        unfold y3; apply keeps_setFlag (hN.via rfl); apply keeps_updStem (hN.via rfl)
        · exact hs
        · exact fun _ c => c
      clear_value y3; apply keeps_ite
      · apply keeps_finishJob (hN.via rfl); exact h4
      · apply keeps_ite
        · apply keeps_startCmd (hN.via rfl); exact h4
        · exact h4
  · exact hs

theorem keeps_stemRow (hN : Within 0x1800a N) (d : ℕ) (j : StemJob) (src : Source) (oy : ℕ) (s : State) (hs : Keeps N s₀ s)
    : Keeps N s₀ (stemRow d j src oy s).2 := by
  unfold stemRow; extract_lets +onlyGivenNames y1; clear_value y1; extract_lets +onlyGivenNames y2; clear_value y2
  extract_lets +onlyGivenNames y3; clear_value y3; extract_lets +onlyGivenNames y4; clear_value y4
  extract_lets +onlyGivenNames y5; clear_value y5; extract_lets +onlyGivenNames y6; clear_value y6
  extract_lets +onlyGivenNames y7; clear_value y7; extract_lets +onlyGivenNames y8; clear_value y8
  split
  · exact hs
  · extract_lets +onlyGivenNames y9; clear_value y9; extract_lets +onlyGivenNames y10; clear_value y10
    extract_lets +onlyGivenNames y11; clear_value y11; extract_lets +onlyGivenNames y12; clear_value y12
    extract_lets +onlyGivenNames y13; clear_value y13; extract_lets +onlyGivenNames y14
    have h15 : Keeps N s₀ y14 := by
      unfold y14; apply keeps_bump (hN.via rfl); apply keeps_bump (hN.via rfl); exact hs
    clear_value y14; extract_lets +onlyGivenNames y16
    have h17 : Keeps N s₀ y16 := by
      unfold y16; apply Keeps.foldl
      · intro z18 z19 h20; extract_lets +onlyGivenNames y21; clear_value y21; apply keeps_ite
        · extract_lets +onlyGivenNames y22; clear_value y22; apply keeps_sramWrite (hN.via rfl); exact h20
        · extract_lets +onlyGivenNames y23; clear_value y23; extract_lets +onlyGivenNames y24; clear_value y24
          extract_lets +onlyGivenNames y25; clear_value y25; apply keeps_sramWrite (hN.via rfl)
          apply keeps_sramWrite (hN.via rfl); exact h20
      · exact h15
    clear_value y16; extract_lets +onlyGivenNames y26
    have h27 : Keeps N s₀ y26 := by
      unfold y26; apply keeps_flitsPass (hN.via rfl); apply keeps_updStem (hN.via rfl)
      · exact h17
      · exact fun _ c => c
    clear_value y26; dsimp -zeta only; apply keeps_ite
    · apply keeps_haloSend (hN.via rfl); exact h27
    · exact h27

theorem keeps_stemRows (hN : Within 0x1800a N) (d : Nat) (j : StemJob) (src : Source) (ready : Nat → Bool) (n oy : Nat) (s : State)
    (hs : Keeps N s₀ s) : Keeps N s₀ (stemRows d j src ready n oy s).2 := by
  induction n generalizing oy s with
  | zero => exact hs
  | succ n ih =>
    unfold stemRows
    split
    · exact hs
    · extract_lets r
      have hr : Keeps N s₀ r.2 := keeps_stemRow (hN.via rfl) _ _ _ _ _ hs
      split
      · exact ih _ _ hr
      · exact hr

theorem keeps_stemFree (hN : Within 0x4000 N) (d : ℕ) (s : State) (hs : Keeps N s₀ s) : Keeps N s₀ (stemFree d s) := by
  unfold stemFree
  split
  · exact hs
  · extract_lets +onlyGivenNames y1; clear_value y1; extract_lets +onlyGivenNames y2; clear_value y2
    extract_lets +onlyGivenNames y3; clear_value y3; extract_lets +onlyGivenNames y4
    extract_lets +onlyGivenNames y5; clear_value y5; apply keeps_setIsp (hN.via rfl); exact hs

theorem keeps_stemRelease (hN : Within 0x4000 N) (l : Launch) (s : State) (hs : Keeps N s₀ s) : Keeps N s₀ (stemRelease l s) := by
  unfold stemRelease; apply keeps_ite
  · exact hs
  · extract_lets +onlyGivenNames y1; clear_value y1; extract_lets +onlyGivenNames y2
    apply keeps_setIsp (hN.via rfl); exact hs

theorem keeps_lineTake (hN : Within 0x400a N) (n o : ℕ) (keep : Bool) (s : State) (hs : Keeps N s₀ s)
    : Keeps N s₀ (lineTake n o keep s) := by
  unfold lineTake; extract_lets +onlyGivenNames y1; extract_lets +onlyGivenNames y2; clear_value y2
  extract_lets +onlyGivenNames y3; clear_value y3; apply keeps_ispSettle (hN.via rfl)
  apply keeps_setIsp (hN.via rfl); exact hs

theorem keeps_lineUnbound (hN : Within 0x400a N) (d n o : ℕ) (s : State) (hs : Keeps N s₀ s) : Keeps N s₀ (lineUnbound d n o s) := by
  unfold lineUnbound; apply keeps_bump (hN.via rfl); apply keeps_lineTake (hN.via rfl); exact hs

theorem keeps_stemGo (hN : Within 0x1c04a N) (d : ℕ) (s : State) (hs : Keeps N s₀ s) : Keeps N s₀ (stemGo d s) := by
  unfold stemGo
  split
  · exact hs
  · extract_lets +onlyGivenNames y1; clear_value y1; extract_lets +onlyGivenNames y2
    have h3 : Keeps N s₀ y2.2 := by
      unfold y2; apply keeps_stemRows (hN.via rfl); exact hs
    clear_value y2; apply keeps_ite
    · apply keeps_stemFree (hN.via rfl); exact h3
    · apply keeps_stemRelease (hN.via rfl); apply keeps_finishJob (hN.via rfl); exact h3

theorem keeps_execStemLineCommit (hN : Within 0x1c04a N) (n o : ℕ) (s : State) (hs : Keeps N s₀ s)
    : Keeps N s₀ (execStemLineCommit n o s) := by
  unfold execStemLineCommit
  split
  · exact hs
  · extract_lets +onlyGivenNames y1; clear_value y1; apply keeps_ite
    · exact hs
    · split
      · apply keeps_lineUnbound (hN.via rfl); exact hs
      · apply keeps_ite
        · apply keeps_lineUnbound (hN.via rfl); exact hs
        · split
          · apply keeps_ite
            · apply keeps_lineUnbound (hN.via rfl); exact hs
            · apply keeps_stemGo (hN.via rfl); apply keeps_lineTake (hN.via rfl); apply keeps_startCmd (hN.via rfl)
              apply keeps_updStem (hN.via rfl)
              · exact hs
              · exact fun _ c => c
          · apply keeps_ite
            · apply keeps_lineUnbound (hN.via rfl); exact hs
            · apply keeps_ite
              · apply keeps_stemRelease (hN.via rfl); apply keeps_finishJob (hN.via rfl)
                apply keeps_lineTake (hN.via rfl); exact hs
              · apply keeps_stemGo (hN.via rfl); apply keeps_lineTake (hN.via rfl); apply keeps_updStem (hN.via rfl)
                · exact hs
                · exact fun _ c => c

theorem keeps_execStemJobEnd (hN : Within 0x1c04a N) (d : ℕ) (s : State) (hs : Keeps N s₀ s) : Keeps N s₀ (execStemJobEnd d s) := by
  unfold execStemJobEnd
  split
  · exact hs
  · apply keeps_ite
    · exact hs
    · extract_lets +onlyGivenNames y1; clear_value y1; extract_lets +onlyGivenNames y2; clear_value y2
      apply keeps_ite
      · extract_lets +onlyGivenNames y3
        have h4 : Keeps N s₀ y3.2 := by
          unfold y3; apply keeps_stemRows (hN.via rfl); exact hs
        clear_value y3; apply keeps_finishJob (hN.via rfl); exact h4
      · apply keeps_ite
        · apply keeps_stemRelease (hN.via rfl); apply keeps_finishJob (hN.via rfl); exact hs
        · exact hs

end Sys2Proof.Machine
end

