-- ==== Sys2Proof/Laws/KeepsE.lean ====
section
/-! SUPPORT. What every operation keeps (Keeps.lean), for the operations of Queues.lean, Puts.lean, Resets.lean. -/
namespace Sys2Proof.Machine
set_option Elab.async false

variable {s₀ : State} {N : Nat}

theorem keeps_queueReport (hN : Within 0xa N) (q cause : ℕ) (s : State) (hs : Keeps N s₀ s) : Keeps N s₀ (queueReport q cause s) := by
  unfold queueReport; extract_lets +onlyGivenNames y1; clear_value y1; extract_lets +onlyGivenNames y2
  clear_value y2; extract_lets +onlyGivenNames y3; clear_value y3; extract_lets +onlyGivenNames y4
  have h5 : Keeps N s₀ y4 := by
    unfold y4; apply keeps_ite
    · exact hs
    · apply keeps_wr (hN.via rfl); exact hs
  clear_value y4; apply keeps_raise (hN.via rfl); apply keeps_setFlag (hN.via rfl); apply keeps_raise (hN.via rfl)
  exact h5

theorem keeps_queueFault (hN : Within 0x4004a N) (q cause : ℕ) (at_ : Option (ℕ × ℕ)) (s : State) (hs : Keeps N s₀ s)
    : Keeps N s₀ (queueFault q cause at_ s) := by
  unfold queueFault; extract_lets +onlyGivenNames y1; clear_value y1; extract_lets +onlyGivenNames y2
  clear_value y2; apply keeps_ite
  · apply keeps_setQueue (hN.via rfl); exact hs
  · extract_lets +onlyGivenNames y3; clear_value y3; extract_lets +onlyGivenNames y4; clear_value y4
    extract_lets +onlyGivenNames y5; clear_value y5; extract_lets +onlyGivenNames y6; clear_value y6
    apply keeps_formRec (hN.via rfl); apply keeps_queueReport (hN.via rfl); apply keeps_bump (hN.via rfl)
    apply keeps_setQueue (hN.via rfl); exact hs

theorem keeps_queueHalt (hN : Within 0x4000a N) (q cause : ℕ) (closed : Bool) (s : State) (hs : Keeps N s₀ s)
    : Keeps N s₀ (queueHalt q cause closed s) := by
  unfold queueHalt; apply keeps_queueReport (hN.via rfl); apply keeps_bump (hN.via rfl)
  apply keeps_updQueue (hN.via rfl); exact hs

theorem keeps_queueEvent (hN : Within 0xa N) (q : ℕ) (s : State) (hs : Keeps N s₀ s) : Keeps N s₀ (queueEvent q s) := by
  unfold queueEvent; extract_lets +onlyGivenNames y1; clear_value y1; extract_lets +onlyGivenNames y2
  clear_value y2; apply keeps_raise (hN.via rfl); apply keeps_setFlag (hN.via rfl); exact hs

theorem keeps_scaleSegment (hN : Within 0x40000 N) (q : ℕ) (r : Queue) (s : State) (hs : Keeps N s₀ s)
    : Keeps N s₀ (scaleSegment q r s) := by
  unfold scaleSegment; extract_lets +onlyGivenNames y1; clear_value y1; apply keeps_ite
  · apply keeps_updQueue (hN.via rfl); exact hs
  · exact hs

theorem keeps_completeBlocks (hN : Within 0x4000a N) (q : Nat) (l : List (Nat × Nat)) (s : State) (hs : Keeps N s₀ s) :
    Keeps N s₀ (completeBlocks q l s) := by
  induction l generalizing s with
  | nil => exact keeps_updQueue (hN.via rfl) _ _ _ hs
  | cons e l ih =>
    unfold completeBlocks
    extract_lets r ends x y z
    split
    · exact keeps_updQueue (hN.via rfl) _ _ _ hs
    · have hx : Keeps N s₀ x := keeps_setQueue (hN.via rfl) _ _ _ hs
      have hy : Keeps N s₀ y := by
        unfold y
        split
        · exact keeps_scaleSegment (hN.via rfl) _ _ _ hx
        · exact hx
      have hz : Keeps N s₀ z := by
        unfold z
        split
        · exact keeps_queueEvent (hN.via rfl) _ _ hy
        · exact hy
      exact ih _ hz

theorem keeps_sendPri (hN : Within 0x14000a N) (q : ℕ) (s : State) (hs : Keeps N s₀ s) : Keeps N s₀ (sendPri q s) := by
  unfold sendPri; extract_lets +onlyGivenNames y1; clear_value y1; extract_lets +onlyGivenNames y2; clear_value y2
  extract_lets +onlyGivenNames y3; clear_value y3; apply keeps_ite
  · extract_lets +onlyGivenNames y4; clear_value y4; apply keeps_emit (hN.via rfl); apply keeps_bump (hN.via rfl)
    apply keeps_bump (hN.via rfl); apply keeps_setQueue (hN.via rfl); exact hs
  · exact hs

theorem keeps_settleQueue (hN : Within 0x14000a N) (q : ℕ) (s : State) (hs : Keeps N s₀ s) : Keeps N s₀ (settleQueue q s) := by
  unfold settleQueue; extract_lets +onlyGivenNames y1
  have h2 : Keeps N s₀ y1 := by
    unfold y1; apply keeps_completeBlocks (hN.via rfl); exact hs
  clear_value y1; extract_lets +onlyGivenNames y3; clear_value y3; extract_lets +onlyGivenNames y4; clear_value y4
  apply keeps_ite
  · apply keeps_ite
    · apply keeps_setQueue (hN.via rfl); exact h2
    · exact h2
  · extract_lets +onlyGivenNames y5; clear_value y5; extract_lets +onlyGivenNames y6; clear_value y6
    extract_lets +onlyGivenNames y7
    have h8 : Keeps N s₀ y7 := by
      unfold y7; apply keeps_ite
      · apply keeps_ite
        · split
          · apply keeps_setQueue (hN.via rfl); exact h2
          · apply keeps_setQueue (hN.via rfl); exact h2
        · apply keeps_ite
          · apply keeps_setQueue (hN.via rfl); exact h2
          · exact h2
      · exact h2
    clear_value y7; extract_lets +onlyGivenNames y9
    have h10 : Keeps N s₀ y9 := by
      unfold y9; apply keeps_sendPri (hN.via rfl); exact h8
    clear_value y9; extract_lets +onlyGivenNames y11; clear_value y11; extract_lets +onlyGivenNames y12
    clear_value y12; apply keeps_ite
    · apply keeps_setQueue (hN.via rfl); exact h10
    · apply keeps_ite
      · apply keeps_setQueue (hN.via rfl); exact h10
      · exact h10

theorem keeps_settleQueues (hN : Within 0x14000a N) (p : ℕ → Bool) (s : State) (hs : Keeps N s₀ s) : Keeps N s₀ (settleQueues p s) := by
  unfold settleQueues; apply Keeps.foldl
  · intro z1 z2 h3; apply keeps_settleQueue (hN.via rfl); exact h3
  · exact hs

theorem keeps_diverge (hN : Within 0xa N) (tt : ℕ) (s : State) (hs : Keeps N s₀ s) : Keeps N s₀ (diverge tt s) := by
  unfold diverge; extract_lets +onlyGivenNames y1
  have h2 : Keeps N s₀ y1 := by
    unfold y1; apply keeps_bump (hN.via rfl); exact hs
  clear_value y1; apply keeps_ite
  · exact h2
  · apply keeps_wr64 (hN.via rfl); apply keeps_raise (hN.via rfl); apply keeps_setFlag (hN.via rfl); exact h2

theorem keeps_outputDigest (hN : Within 0x10a N) (kind unit : ℕ) (bs : List Byte) (s : State) (hs : Keeps N s₀ s)
    : Keeps N s₀ (outputDigest kind unit bs s) := by
  unfold outputDigest; extract_lets +onlyGivenNames y1; clear_value y1; apply keeps_ite
  · split
    · extract_lets +onlyGivenNames y2; extract_lets +onlyGivenNames y3
      have h4 : Keeps N s₀ y3 := by
        unfold y3; refine Keeps.update 0x100 (hN.via rfl) ?_ rfl rfl rfl; exact hs
      clear_value y3; apply keeps_ite
      · exact h4
      · apply keeps_diverge (hN.via rfl); exact h4
    · refine Keeps.update 0x100 (hN.via rfl) ?_ rfl rfl rfl; exact hs
  · apply keeps_ite
    · apply keeps_hhCapture (hN.via rfl); exact hs
    · exact hs

theorem keeps_hhHostRead (hN : Within 0x10a N) (q a : ℕ) (bs : List Byte) (s : State) (hs : Keeps N s₀ s)
    : Keeps N s₀ (hhHostRead q a bs s) := by
  unfold hhHostRead; apply keeps_ite
  · apply keeps_hhCapture (hN.via rfl); exact hs
  · exact hs

theorem keeps_hostError (hN : Within 0x4a N) (q a code : ℕ) (s : State) (hs : Keeps N s₀ s) : Keeps N s₀ (hostError q a code s) := by
  unfold hostError; extract_lets +onlyGivenNames y1
  have h2 : Keeps N s₀ y1 := by
    unfold y1; apply keeps_ite
    · apply keeps_bump (hN.via rfl); exact hs
    · exact hs
  clear_value y1; extract_lets +onlyGivenNames y3; clear_value y3; apply keeps_formRec (hN.via rfl); exact h2

theorem keeps_listRead (hN : Within 0x1a01ca N) (q a n : ℕ) (host : List Byte) (s : State) (hs : Keeps N s₀ s)
    : Keeps N s₀ (listRead q a n host s).2 := by
  unfold listRead; extract_lets +onlyGivenNames y1; clear_value y1
  split
  · extract_lets +onlyGivenNames y2
    have h3 : Keeps N s₀ y2.2 := by
      unfold y2; apply keeps_memFetch (hN.via rfl); exact hs
    clear_value y2
    split
    · exact h3
    · exact h3
    · exact h3
  · split
    · dsimp -zeta only; apply keeps_hostError (hN.via rfl); exact hs
    · dsimp -zeta only; apply keeps_hhHostRead (hN.via rfl); exact hs

theorem keeps_advance (hN : Within 0x40000 N) (q size : ℕ) (d : Desc) (s : State) (hs : Keeps N s₀ s)
    : Keeps N s₀ (advance q size d s) := by
  unfold advance; apply keeps_updQueue (hN.via rfl); exact hs

theorem keeps_readBlock (hN : Within 0x1e01ca N) (q : ℕ) (list : List Byte) (s : State) (hs : Keeps N s₀ s)
    : Keeps N s₀ (readBlock q list s).2 := by
  unfold readBlock; extract_lets +onlyGivenNames y1; clear_value y1; extract_lets +onlyGivenNames y2; clear_value y2
  split
  · exact hs
  · split
    · dsimp -zeta only; apply keeps_ite
      · exact hs
      · apply keeps_raise (hN.via rfl); apply keeps_bump (hN.via rfl); apply keeps_setQueue (hN.via rfl); exact hs
    · split
      · exact hs
      · extract_lets +onlyGivenNames y3
        have h4 : Keeps N s₀ y3.2 := by
          unfold y3; apply keeps_listRead (hN.via rfl); exact hs
        clear_value y3
        split
        · dsimp -zeta only; apply keeps_queueFault (hN.via rfl); exact h4
        · extract_lets +onlyGivenNames y5
          have h6 : Keeps N s₀ y5 := by
            unfold y5; exact h4
          clear_value y5; extract_lets +onlyGivenNames y7; clear_value y7; extract_lets +onlyGivenNames y8
          clear_value y8
          split
          · dsimp -zeta only; apply keeps_queueFault (hN.via rfl); exact h6
          · split
            · dsimp -zeta only; apply keeps_updQueue (hN.via rfl); exact h6
            · dsimp -zeta only; apply keeps_settleQueue (hN.via rfl); apply keeps_updQueue (hN.via rfl)
              apply keeps_advance (hN.via rfl); exact h6
            · extract_lets +onlyGivenNames y9
              have h10 : Keeps N s₀ y9.2 := by
                unfold y9; apply keeps_listRead (hN.via rfl); exact h6
              clear_value y9
              split
              · dsimp -zeta only; apply keeps_queueFault (hN.via rfl); exact h10
              · dsimp -zeta only; apply keeps_updQueue (hN.via rfl); exact h10
            · split
              · dsimp -zeta only; apply keeps_settleQueue (hN.via rfl); apply keeps_advance (hN.via rfl); exact h6
              · dsimp -zeta only; apply keeps_updQueue (hN.via rfl); exact h6

theorem keeps_issueXfer (hN : Within 0x14040a N) (q len : ℕ) (d : Desc) (data : List Byte) (s : State) (hs : Keeps N s₀ s)
    : Keeps N s₀ (issueXfer q len d data s) := by
  unfold issueXfer; extract_lets +onlyGivenNames y1; clear_value y1; extract_lets +onlyGivenNames y2; clear_value y2
  extract_lets +onlyGivenNames y3; clear_value y3; extract_lets +onlyGivenNames y4
  have h5 : Keeps N s₀ y4 := by
    unfold y4; apply keeps_startCmd (hN.via rfl); apply keeps_bump (hN.via rfl); apply keeps_setQueue (hN.via rfl)
    exact hs
  clear_value y4; extract_lets +onlyGivenNames y6
  have h7 : Keeps N s₀ y6 := by
    unfold y6; apply keeps_ite
    · apply keeps_emit (hN.via rfl); exact h5
    · apply keeps_ite
      · apply keeps_sendFetch (hN.via rfl); exact h5
      · exact h5
  clear_value y6; apply keeps_ite
  · apply keeps_settleQueue (hN.via rfl); apply keeps_advance (hN.via rfl); exact h7
  · exact h7

theorem keeps_slotNote (hN : Within 0x40000 N) (md : Nat) (s : State) (hs : Keeps N s₀ s) : Keeps N s₀ (slotNote md s) := by
  refine ⟨⟨hs.base.fuses, fun d => ?_, hs.base.queue⟩, hs.change hN rfl⟩
  obtain ⟨a, b, e, f, g, k⟩ := hs.base.canon d
  refine ⟨a, b, e, f, g, { k with queues := sortedKeys_map (fun e => ?_) k.queues }⟩
  split <;> rfl

theorem keeps_withSlot (hN : Within 0x40008 N) (q : ℕ) (k : State → State) (s : State) (hs : ∀ z0, Keeps N s₀ z0 → Keeps N s₀ (k z0))
    (hs1 : Keeps N s₀ s) : Keeps N s₀ (withSlot q k s) := by
  unfold withSlot; extract_lets +onlyGivenNames y1; clear_value y1; extract_lets +onlyGivenNames y2
  have h3 : Keeps N s₀ y2 := by
    unfold y2; apply keeps_slotNote (hN.via rfl); exact hs1
  clear_value y2
  split
  · apply keeps_ite
    · apply hs; refine Keeps.update 0x8 (hN.via rfl) ?_ rfl rfl rfl; exact h3
    · exact h3
  · exact h3

theorem keeps_execTransferIssue (hN : Within 0x1e05ca N) (q : ℕ) (list : List Byte) (s : State) (hs : Keeps N s₀ s)
    : Keeps N s₀ (execTransferIssue q list s) := by
  unfold execTransferIssue; apply keeps_ite
  · exact hs
  · extract_lets +onlyGivenNames y1; clear_value y1; apply keeps_ite
    · exact hs
    · extract_lets +onlyGivenNames y2
      have h3 : Keeps N s₀ y2.2 := by
        unfold y2; apply keeps_readBlock (hN.via rfl); exact hs
      clear_value y2; extract_lets +onlyGivenNames y4
      have h5 : Keeps N s₀ y4 := by
        unfold y4; exact h3
      clear_value y4; extract_lets +onlyGivenNames y6; clear_value y6
      split
      · extract_lets +onlyGivenNames y7; clear_value y7; extract_lets +onlyGivenNames y8; clear_value y8
        apply keeps_ite
        · exact h5
        · apply keeps_ite
          · apply keeps_queueHalt (hN.via rfl); exact h5
          · apply keeps_ite
            · exact h5
            · apply keeps_ite
              · apply keeps_queueFault (hN.via rfl); exact h5
              · apply keeps_withSlot (hN.via rfl)
                · intro z9 h10; extract_lets +onlyGivenNames y11; clear_value y11; apply keeps_ite
                  · extract_lets +onlyGivenNames y12; clear_value y12; apply keeps_issueXfer (hN.via rfl)
                    apply keeps_setQueue (hN.via rfl); exact h10
                  · apply keeps_issueXfer (hN.via rfl); exact h10
                · exact h5
      · exact h5

theorem keeps_execAtsTranslation (hN : Within 0x14000a N) (q : ℕ) (granted : Bool) (s : State) (hs : Keeps N s₀ s)
    : Keeps N s₀ (execAtsTranslation q granted s) := by
  unfold execAtsTranslation; extract_lets +onlyGivenNames y1; clear_value y1
  split
  · apply keeps_ite
    · apply keeps_ite
      · apply keeps_setQueue (hN.via rfl); exact hs
      · apply keeps_settleQueue (hN.via rfl); apply keeps_queueHalt (hN.via rfl); exact hs
    · exact hs
  · exact hs

theorem keeps_gotMem (hN : Within 0x0 N) (r : MemAns × State) (hs : Keeps N s₀ r.2) : Keeps N s₀ (gotMem r).state := by
  unfold gotMem
  split
  · exact hs
  · exact hs
  · exact hs

theorem keeps_xferFetch (hN : Within 0x3a01ca N) (q : ℕ) (x : Xfer) (ans : HostData) (s : State) (hs : Keeps N s₀ s)
    : Keeps N s₀ (xferFetch q x ans s).state := by
  unfold xferFetch; extract_lets +onlyGivenNames y1; clear_value y1; extract_lets +onlyGivenNames y2; clear_value y2
  extract_lets +onlyGivenNames y3; clear_value y3
  split
  · apply keeps_gotMem (hN.via rfl); apply keeps_memFetch (hN.via rfl); exact hs
  · split
    · dsimp -zeta only; apply keeps_hostError (hN.via rfl); exact hs
    · dsimp -zeta only; apply keeps_hostError (hN.via rfl); exact hs
    · extract_lets +onlyGivenNames y4; clear_value y4; extract_lets +onlyGivenNames y5
      have h6 : Keeps N s₀ y5 := by
        unfold y5; apply keeps_hhHostRead (hN.via rfl); exact hs
      clear_value y5
      split
      · apply keeps_gotMem (hN.via rfl); apply keeps_memFetchKey (hN.via rfl); exact h6
      · exact h6
  · split
    · exact hs
    · extract_lets +onlyGivenNames y7; clear_value y7; extract_lets +onlyGivenNames y8
      have h9 : Keeps N s₀ y8.2 := by
        unfold y8; apply keeps_releaseRead (hN.via rfl); exact hs
      clear_value y8
      split
      · exact h9
      · exact h9
  · split
    · apply keeps_gotMem (hN.via rfl); apply keeps_memFetchKey (hN.via rfl); exact hs
    · exact hs

theorem keeps_storeBytes (hN : Within 0x1a01ca N) (who : Requester) (dom : Nat) (t4 : Option Nat) (n a : Nat) (bs : List Byte) (s : State) (hs :
    Keeps N s₀ s) :
    Keeps N s₀ (storeBytes who dom t4 n a bs s).state := by
  induction n generalizing a bs s with
  | zero => exact hs
  | succ n ih =>
    unfold storeBytes
    split
    · exact hs
    · extract_lets k g
      have hg : Keeps N s₀ g.state := by unfold g; apply keeps_gotMem (hN.via rfl); apply keeps_memStore (hN.via rfl); exact hs
      split
      · exact hg
      · exact ih _ _ _ hg

theorem keeps_storeTile (hN : Within 0x1a01ca N) (c codec : ℕ) (key : Option ℕ) (h : Home) (data : List Byte) (s : State)
    (hs : Keeps N s₀ s) : Keeps N s₀ (storeTile c codec key h data s).state := by
  unfold storeTile
  split
  · dsimp -zeta only; apply keeps_memDenied (hN.via rfl); exact hs
  · split
    · apply keeps_gotMem (hN.via rfl); apply keeps_memStore (hN.via rfl); exact hs
    · extract_lets +onlyGivenNames y1; clear_value y1; extract_lets +onlyGivenNames y2; clear_value y2
      extract_lets +onlyGivenNames y3
      have h4 : Keeps N s₀ y3 := by
        unfold y3; apply keeps_dropLines (hN.via rfl); apply keeps_noteSlot (hN.via rfl); exact hs
      clear_value y3; extract_lets +onlyGivenNames y5; clear_value y5; dsimp -zeta only
      apply keeps_slotStore (hN.via rfl); exact h4

theorem keeps_sramDeliver (hN : Within 0x4800a N) (q t : ℕ) (x : Xfer) (bs : List Byte) (s : State) (hs : Keeps N s₀ s)
    : Keeps N s₀ (sramDeliver q t x bs s).state := by
  unfold sramDeliver; extract_lets +onlyGivenNames y1; clear_value y1; extract_lets +onlyGivenNames y2
  clear_value y2
  split
  · exact hs
  · extract_lets +onlyGivenNames y3
    have h4 : ∀ z0, Keeps N s₀ z0 → Keeps N s₀ (y3 z0).state := by
      intro z5 h6; unfold y3; dsimp -zeta only; apply keeps_raise (hN.via rfl); apply keeps_bump (hN.via rfl)
      exact h6
    clear_value y3; extract_lets +onlyGivenNames y7; clear_value y7; extract_lets +onlyGivenNames y8; clear_value y8
    extract_lets +onlyGivenNames y9
    have h10 : Keeps N s₀ y9 := by
      unfold y9; apply keeps_updQueue (hN.via rfl); exact hs
    clear_value y9
    split
    · split
      · dsimp -zeta only; apply keeps_sramWrite (hN.via rfl); exact h10
      · apply h4; exact h10
    · extract_lets +onlyGivenNames y11
      have h12 : Keeps N s₀ y11.2 := by
        unfold y11; apply keeps_xposeBytes (hN.via rfl); exact h10
      clear_value y11
      split
      · exact h12
      · apply h4; exact h12

theorem keeps_endpointFlits (hN : Within 0xa N) (q : ℕ) (r : Queue) (n : ℕ) (s : State) (hs : Keeps N s₀ s)
    : Keeps N s₀ (endpointFlits q r n s) := by
  unfold endpointFlits; apply keeps_flitsPass (hN.via rfl); exact hs

theorem keeps_xferDeliver (hN : Within 0x1f99ca N) (q : ℕ) (x : Xfer) (bs : List Byte) (s : State) (hs : Keeps N s₀ s)
    : Keeps N s₀ (xferDeliver q x bs s).state := by
  unfold xferDeliver; extract_lets +onlyGivenNames y1; clear_value y1; extract_lets +onlyGivenNames y2
  clear_value y2; extract_lets +onlyGivenNames y3; clear_value y3; extract_lets +onlyGivenNames y4
  have h5 : Keeps N s₀ y4 := by
    unfold y4; apply keeps_ite
    · exact hs
    · apply keeps_endpointFlits (hN.via rfl); exact hs
  clear_value y4
  split
  · split
    · exact h5
    · split
      · split
        · dsimp -zeta only; apply keeps_outputDigest (hN.via rfl); apply keeps_hostSend (hN.via rfl); exact h5
        · apply keeps_storeTile (hN.via rfl); exact h5
      · split
        · apply keeps_storeTile (hN.via rfl); exact h5
        · apply keeps_storeBytes (hN.via rfl); exact h5
  · split
    · apply keeps_sramDeliver (hN.via rfl); exact h5
    · exact h5
  · dsimp -zeta only; apply keeps_updStem (hN.via rfl)
    · exact h5
    · exact fun _ c => Memory.wf_cellsWrite c
  · dsimp -zeta only; apply keeps_voPush (hN.via rfl); exact h5
  · dsimp -zeta only; refine Keeps.updateMem 0x1000 (hN.via rfl) ?_ ?_ ?_ ?_ rfl
    · exact h5
    · exact id
    · exact id
    · exact Memory.wf_cellsWrite
  · split
    · apply keeps_storeBytes (hN.via rfl); exact h5
    · exact h5
  · exact h5

theorem keeps_xferPut (hN : Within 0x1a01ca N) (q : ℕ) (x : Xfer) (s : State) (hs : Keeps N s₀ s)
    : Keeps N s₀ (xferPut q x s).state := by
  unfold xferPut; extract_lets +onlyGivenNames y1; clear_value y1; extract_lets +onlyGivenNames y2; clear_value y2
  split
  · apply keeps_storeTile (hN.via rfl); exact hs
  · split
    · dsimp -zeta only; apply keeps_outputDigest (hN.via rfl); apply keeps_hostSend (hN.via rfl); exact hs
    · extract_lets +onlyGivenNames y3
      have h4 : Keeps N s₀ y3.state := by
        unfold y3; apply keeps_storeTile (hN.via rfl); exact hs
      clear_value y3; dsimp -zeta only; apply keeps_ite
      · apply keeps_outputDigest (hN.via rfl); exact h4
      · exact h4

theorem keeps_endXfer (hN : Within 0x14004a N) (q : ℕ) (x : Xfer) (g : Got) (hs : Keeps N s₀ g.state) : Keeps N s₀ (endXfer q x g) := by
  unfold endXfer; extract_lets +onlyGivenNames y1
  have h2 : Keeps N s₀ y1 := by
    unfold y1; apply keeps_endCmd (hN.via rfl); apply keeps_updQueue (hN.via rfl); exact hs
  clear_value y1; extract_lets +onlyGivenNames y3
  have h4 : Keeps N s₀ y3 := by
    unfold y3; apply keeps_ite
    · exact h2
    · apply keeps_queueFault (hN.via rfl); exact h2
  clear_value y3; apply keeps_settleQueue (hN.via rfl); exact h4

theorem keeps_execTransferComplete (hN : Within 0x3f99ca N) (q id : ℕ) (ans : HostData) (s : State) (hs : Keeps N s₀ s)
    : Keeps N s₀ (execTransferComplete q id ans s) := by
  unfold execTransferComplete
  split
  · exact hs
  · apply keeps_ite
    · apply keeps_endXfer (hN.via rfl); exact hs
    · apply keeps_ite
      · apply keeps_bump (hN.via rfl); exact hs
      · apply keeps_ite
        · exact hs
        · apply keeps_ite
          · exact hs
          · apply keeps_ite
            · apply keeps_endXfer (hN.via rfl); apply keeps_xferPut (hN.via rfl); exact hs
            · extract_lets +onlyGivenNames y1
              have h2 : Keeps N s₀ y1.state := by
                unfold y1; apply keeps_xferFetch (hN.via rfl); exact hs
              clear_value y1; apply keeps_ite
              · apply keeps_endXfer (hN.via rfl); exact h2
              · apply keeps_endXfer (hN.via rfl); apply keeps_xferDeliver (hN.via rfl); exact h2

theorem keeps_poolDeliver (hN : Within 0x800a N) (q : ℕ) (x : Xfer) (bs : List Byte) (s : State) (hs : Keeps N s₀ s)
    : Keeps N s₀ (poolDeliver q x bs s).state := by
  unfold poolDeliver; extract_lets +onlyGivenNames y1; clear_value y1; extract_lets +onlyGivenNames y2
  clear_value y2; extract_lets +onlyGivenNames y3; clear_value y3
  split
  · exact hs
  · extract_lets +onlyGivenNames y4; clear_value y4; extract_lets +onlyGivenNames y5
    have h6 : Keeps N s₀ y5.2 := by
      unfold y5; apply keeps_poolPut (hN.via rfl); exact hs
    clear_value y5; dsimp -zeta only; apply keeps_endpointFlits (hN.via rfl); apply keeps_ite
    · exact h6
    · apply keeps_poolSpill (hN.via rfl); exact h6

theorem keeps_poolArrive (hN : Within 0x14804a N) (q : ℕ) (x : Xfer) (g : Got) (hs : Keeps N s₀ g.state)
    : Keeps N s₀ (poolArrive q x g) := by
  unfold poolArrive; extract_lets +onlyGivenNames y1
  have h2 : Keeps N s₀ y1.state := by
    unfold y1
    split
    · apply keeps_poolDeliver (hN.via rfl); exact hs
    · exact hs
  clear_value y1; apply keeps_ite
  · apply keeps_endXfer (hN.via rfl); exact h2
  · apply keeps_updQueue (hN.via rfl); exact h2

theorem keeps_execPoolFill (hN : Within 0x3e81ca N) (q id : ℕ) (ans : HostData) (s : State) (hs : Keeps N s₀ s)
    : Keeps N s₀ (execPoolFill q id ans s) := by
  unfold execPoolFill
  split
  · exact hs
  · apply keeps_ite
    · apply keeps_bump (hN.via rfl); exact hs
    · apply keeps_ite
      · exact hs
      · apply keeps_poolArrive (hN.via rfl); apply keeps_xferFetch (hN.via rfl); exact hs

theorem keeps_execCompletionTimeout (hN : Within 0x14004a N) (q id : ℕ) (s : State) (hs : Keeps N s₀ s)
    : Keeps N s₀ (execCompletionTimeout q id s) := by
  unfold execCompletionTimeout
  split
  · exact hs
  · extract_lets +onlyGivenNames y1; clear_value y1; apply keeps_ite
    · apply keeps_endXfer (hN.via rfl); dsimp -zeta only; apply keeps_hostError (hN.via rfl); exact hs
    · exact hs

theorem keeps_launchSent (hN : Within 0x14000a N) (q flags drop : ℕ) (s : State) (hs : Keeps N s₀ s)
    : Keeps N s₀ (launchSent q flags drop s) := by
  unfold launchSent; extract_lets +onlyGivenNames y1; clear_value y1; extract_lets +onlyGivenNames y2
  clear_value y2; extract_lets +onlyGivenNames y3; clear_value y3; extract_lets +onlyGivenNames y4
  have h5 : Keeps N s₀ y4 := by
    unfold y4; apply keeps_setQueue (hN.via rfl); exact hs
  clear_value y4; extract_lets +onlyGivenNames y6
  have h7 : Keeps N s₀ y6 := by
    unfold y6; apply keeps_ite
    · apply keeps_bump (hN.via rfl); exact h5
    · exact h5
  clear_value y6; apply keeps_settleQueue (hN.via rfl); apply keeps_bump (hN.via rfl); apply keeps_bump (hN.via rfl)
  apply keeps_bump (hN.via rfl); exact h7

theorem keeps_execQueueLaunchSend (hN : Within 0x15804a N) (q : ℕ) (s : State) (hs : Keeps N s₀ s)
    : Keeps N s₀ (execQueueLaunchSend q s) := by
  unfold execQueueLaunchSend; extract_lets +onlyGivenNames y1; clear_value y1
  split
  · exact hs
  · extract_lets +onlyGivenNames y2; clear_value y2; extract_lets +onlyGivenNames y3; clear_value y3
    extract_lets +onlyGivenNames y4; clear_value y4; extract_lets +onlyGivenNames y5; clear_value y5
    extract_lets +onlyGivenNames y6; clear_value y6; extract_lets +onlyGivenNames y7; clear_value y7
    apply keeps_ite
    · exact hs
    · apply keeps_ite
      · apply keeps_setQueue (hN.via rfl); exact hs
      · apply keeps_ite
        · exact hs
        · apply keeps_ite
          · apply keeps_queueFault (hN.via rfl); exact hs
          · extract_lets +onlyGivenNames y8; clear_value y8; extract_lets +onlyGivenNames y9; clear_value y9
            extract_lets +onlyGivenNames y10; clear_value y10; apply keeps_ite
            · apply keeps_queueFault (hN.via rfl); exact hs
            · extract_lets +onlyGivenNames y11
              have h12 : Keeps N s₀ y11.2 := by
                unfold y11
                split
                · apply keeps_jobPush (hN.via rfl); exact hs
                · apply keeps_launchPush (hN.via rfl); exact hs
              clear_value y11; apply keeps_ite
              · apply keeps_launchSent (hN.via rfl); exact h12
              · apply keeps_queueFault (hN.via rfl); exact h12

theorem keeps_execEndNotification (hN : Within 0x15800a N) (q : ℕ) (s : State) (hs : Keeps N s₀ s)
    : Keeps N s₀ (execEndNotification q s) := by
  unfold execEndNotification; extract_lets +onlyGivenNames y1; clear_value y1; extract_lets +onlyGivenNames y2
  clear_value y2; extract_lets +onlyGivenNames y3; clear_value y3; extract_lets +onlyGivenNames y4
  have h5 : ∀ z0, Keeps N s₀ z0 → Keeps N s₀ (y4 z0) := by
    intro z6 h7; unfold y4; apply keeps_settleQueue (hN.via rfl); apply keeps_updQueue (hN.via rfl); exact h7
  clear_value y4
  split
  · apply h5; apply keeps_updTile (hN.via rfl)
    · exact hs
    · exact fun _ c => c
  · apply h5; apply keeps_updStem (hN.via rfl)
    · exact hs
    · exact fun _ c => c
  · exact hs

theorem keeps_priNext (hN : Within 0x14000a N) (s : State) (hs : Keeps N s₀ s) : Keeps N s₀ (priNext s) := by
  unfold priNext; apply Keeps.foldl
  · intro z1 z2 h3; apply keeps_sendPri (hN.via rfl); exact h3
  · exact hs

theorem keeps_putBackAs (hN : Within 0x40000 N) (q : ℕ) (parked : Bool) (r : Queue) (s : State) (hs : Keeps N s₀ s)
    : Keeps N s₀ (putBackAs q parked r s) := by
  unfold putBackAs; apply keeps_setQueue (hN.via rfl); exact hs

theorem keeps_priLate (hN : Within 0x14000a N) (q : ℕ) (s : State) (hs : Keeps N s₀ s) : Keeps N s₀ (priLate q s) := by
  unfold priLate; extract_lets +onlyGivenNames y1; clear_value y1; apply keeps_priNext (hN.via rfl)
  apply keeps_queueReport (hN.via rfl); apply keeps_putBackAs (hN.via rfl); exact hs

theorem keeps_priResponse (hN : Within 0x14000a N) (q code : ℕ) (s : State) (hs : Keeps N s₀ s)
    : Keeps N s₀ (priResponse q code s) := by
  unfold priResponse; extract_lets +onlyGivenNames y1; clear_value y1
  split
  · exact hs
  · apply keeps_ite
    · exact hs
    · apply keeps_ite
      · apply keeps_priLate (hN.via rfl); exact hs
      · extract_lets +onlyGivenNames y2; clear_value y2; extract_lets +onlyGivenNames y3; clear_value y3
        extract_lets +onlyGivenNames y4; clear_value y4; extract_lets +onlyGivenNames y5; clear_value y5
        extract_lets +onlyGivenNames y6
        have h7 : Keeps N s₀ y6 := by
          unfold y6; apply keeps_ite
          · apply keeps_queueReport (hN.via rfl); apply keeps_putBackAs (hN.via rfl); exact hs
          · apply keeps_ite
            · apply keeps_putBackAs (hN.via rfl); exact hs
            · apply keeps_queueReport (hN.via rfl); apply keeps_putBackAs (hN.via rfl); exact hs
        clear_value y6; apply keeps_priNext (hN.via rfl); apply keeps_settleQueue (hN.via rfl); exact h7

theorem keeps_execPriTimeout (hN : Within 0x14000a N) (q : ℕ) (s : State) (hs : Keeps N s₀ s) : Keeps N s₀ (execPriTimeout q s) := by
  unfold execPriTimeout; extract_lets +onlyGivenNames y1; clear_value y1
  split
  · apply keeps_ite
    · apply keeps_priLate (hN.via rfl); exact hs
    · exact hs
  · exact hs

theorem keeps_reopenQueues (hN : Within 0x14000a N) (s : State) (hs : Keeps N s₀ s) : Keeps N s₀ (reopenQueues s) := by
  unfold reopenQueues; extract_lets +onlyGivenNames y1
  have h2 : Keeps N s₀ y1 := by
    unfold y1; apply Keeps.foldl
    · intro z3 z4 h5; apply keeps_ite
      · apply keeps_setQueue (hN.via rfl); exact h5
      · exact h5
    · exact hs
  clear_value y1; apply keeps_priNext (hN.via rfl); exact h2

theorem keeps_dbRefused (hN : Within 0xa N) (q : ℕ) (s : State) (hs : Keeps N s₀ s) : Keeps N s₀ (dbRefused q s) := by
  unfold dbRefused; extract_lets +onlyGivenNames y1; clear_value y1; apply keeps_bump (hN.via rfl)
  apply keeps_raise (hN.via rfl); apply keeps_bump (hN.via rfl); exact hs

theorem keeps_putBack (hN : Within 0x40000 N) (q : ℕ) (parked : Bool) (r : Queue) (s : State) (hs : Keeps N s₀ s)
    : Keeps N s₀ (putBack q parked r s) := by
  unfold putBack; apply keeps_putBackAs (hN.via rfl); exact hs

theorem keeps_rearm1 (hN : Within 0x4000a N) (q base pos : ℕ) (s : State) (hs : Keeps N s₀ s) : Keeps N s₀ (rearm1 q base pos s) := by
  unfold rearm1; extract_lets +onlyGivenNames y1; clear_value y1; extract_lets +onlyGivenNames y2; clear_value y2
  apply keeps_ite
  · apply keeps_putBack (hN.via rfl); exact hs
  · apply keeps_ite
    · apply keeps_putBack (hN.via rfl); exact hs
    · apply keeps_dbRefused (hN.via rfl); exact hs

theorem keeps_doorbellOp (hN : Within 0x14000a N) (q : ℕ) (v : Word) (s : State) (hs : Keeps N s₀ s)
    : Keeps N s₀ (doorbellOp q v s) := by
  unfold doorbellOp; extract_lets +onlyGivenNames y1; clear_value y1; extract_lets +onlyGivenNames y2
  clear_value y2; extract_lets +onlyGivenNames y3; clear_value y3; extract_lets +onlyGivenNames y4; clear_value y4
  extract_lets +onlyGivenNames y5; clear_value y5
  split
  · apply keeps_ite
    · extract_lets +onlyGivenNames y6; clear_value y6; extract_lets +onlyGivenNames y7; clear_value y7
      apply keeps_putBack (hN.via rfl); exact hs
    · apply keeps_dbRefused (hN.via rfl); exact hs
  · apply keeps_ite
    · apply keeps_dbRefused (hN.via rfl); exact hs
    · apply keeps_putBack (hN.via rfl); exact hs
  · extract_lets +onlyGivenNames y8; clear_value y8; apply keeps_ite
    · apply Keeps.foldl
      · intro z9 z10 h11; apply keeps_settleQueue (hN.via rfl); apply keeps_rearm1 (hN.via rfl); exact h11
      · exact hs
    · apply keeps_rearm1 (hN.via rfl); exact hs
  · apply keeps_ite
    · apply keeps_putBack (hN.via rfl); exact hs
    · apply keeps_dbRefused (hN.via rfl); exact hs
  · apply keeps_ite
    · apply keeps_putBack (hN.via rfl); exact hs
    · apply keeps_setQueue (hN.via rfl); exact hs
  · apply keeps_dbRefused (hN.via rfl); exact hs

theorem keeps_doorbellWord (hN : Within 0x14010a N) (w : Func) (q k : ℕ) (v : Word) (s : State) (hs : Keeps N s₀ s)
    : Keeps N s₀ (doorbellWord w q k v s) := by
  unfold doorbellWord; extract_lets +onlyGivenNames y1; clear_value y1; apply keeps_ite
  · apply keeps_updQueue (hN.via rfl); exact hs
  · extract_lets +onlyGivenNames y2; clear_value y2; extract_lets +onlyGivenNames y3
    have h4 : Keeps N s₀ y3 := by
      unfold y3; apply keeps_ite
      · apply keeps_hhCapture (hN.via rfl); exact hs
      · exact hs
    clear_value y3; extract_lets +onlyGivenNames y5
    have h6 : Keeps N s₀ y5 := by
      unfold y5; apply keeps_bump (hN.via rfl); exact h4
    clear_value y5; apply keeps_ite
    · apply keeps_dbRefused (hN.via rfl); exact h6
    · apply keeps_settleQueue (hN.via rfl); apply keeps_doorbellOp (hN.via rfl); exact h6

theorem keeps_doorbellWrite (hN : Within 0x1401ca N) (w : Func) (q k : ℕ) (v : Word) (s : State) (hs : Keeps N s₀ s)
    : Keeps N s₀ (doorbellWrite w q k v s) := by
  unfold doorbellWrite; extract_lets +onlyGivenNames y1; clear_value y1; extract_lets +onlyGivenNames y2
  clear_value y2; extract_lets +onlyGivenNames y3; clear_value y3; apply keeps_ite
  · apply keeps_emit (hN.via rfl); exact hs
  · apply keeps_ite
    · apply keeps_hold (hN.via rfl); exact hs
    · apply keeps_ite
      · exact hs
      · apply keeps_ite
        · apply keeps_accessError (hN.via rfl); exact hs
        · apply keeps_ite
          · apply keeps_accessError (hN.via rfl); exact hs
          · apply keeps_ite
            · apply keeps_bump (hN.via rfl); exact hs
            · apply keeps_doorbellWord (hN.via rfl); exact hs

theorem keeps_execArm (hN : Within 0x1401ca N) (w : Func) (q listSpace : ℕ) (s : State) (hs : Keeps N s₀ s)
    : Keeps N s₀ (execArm w q listSpace s) := by
  unfold execArm; apply keeps_doorbellWrite (hN.via rfl); exact hs

theorem keeps_execAppend (hN : Within 0x1401ca N) (w : Func) (q : ℕ) (s : State) (hs : Keeps N s₀ s)
    : Keeps N s₀ (execAppend w q s) := by
  unfold execAppend; apply keeps_doorbellWrite (hN.via rfl); exact hs

theorem keeps_execRearm (hN : Within 0x1401ca N) (w : Func) (q : ℕ) (group : Bool) (s : State) (hs : Keeps N s₀ s)
    : Keeps N s₀ (execRearm w q group s) := by
  unfold execRearm; apply keeps_doorbellWrite (hN.via rfl); exact hs

theorem keeps_execResume (hN : Within 0x1401ca N) (w : Func) (q : ℕ) (s : State) (hs : Keeps N s₀ s)
    : Keeps N s₀ (execResume w q s) := by
  unfold execResume; apply keeps_doorbellWrite (hN.via rfl); exact hs

theorem keeps_execStop (hN : Within 0x1401ca N) (w : Func) (q : ℕ) (s : State) (hs : Keeps N s₀ s) : Keeps N s₀ (execStop w q s) := by
  unfold execStop; apply keeps_doorbellWrite (hN.via rfl); exact hs

theorem keeps_queueWordWrite (hN : Within 0x4000a N) (c k : ℕ) (v : Word) (s : State) (hs : Keeps N s₀ s)
    : Keeps N s₀ (queueWordWrite c k v s) := by
  unfold queueWordWrite; extract_lets +onlyGivenNames y1; clear_value y1; extract_lets +onlyGivenNames y2
  clear_value y2; extract_lets +onlyGivenNames y3
  have h4 : Keeps N s₀ y3 := by
    unfold y3; apply keeps_bump (hN.via rfl); exact hs
  clear_value y3; extract_lets +onlyGivenNames y5; clear_value y5; extract_lets +onlyGivenNames y6; clear_value y6
  apply keeps_ite
  · exact hs
  · split
    · apply keeps_ite
      · apply keeps_setQueue (hN.via rfl); exact hs
      · exact h4
    · apply keeps_ite
      · apply keeps_setQueue (hN.via rfl); exact hs
      · exact h4
    · apply keeps_ite
      · apply keeps_setQueue (hN.via rfl); exact hs
      · exact h4
    · apply keeps_ite
      · apply keeps_setQueue (hN.via rfl); exact hs
      · exact h4
    · apply keeps_ite
      · apply keeps_setQueue (hN.via rfl); exact hs
      · exact h4
    · exact hs

theorem keeps_qeRegWrite (hN : Within 0xa N) (w : Func) (n off : ℕ) (v : Word) (s : State) (hs : Keeps N s₀ s)
    : Keeps N s₀ (qeRegWrite w n off v s) := by
  unfold qeRegWrite; extract_lets +onlyGivenNames y1; clear_value y1; extract_lets +onlyGivenNames y2
  have h3 : Keeps N s₀ y2 := by
    unfold y2; apply keeps_bump (hN.via rfl); exact hs
  clear_value y2; apply keeps_ite
  · apply keeps_ite
    · apply keeps_tdiRefuse (hN.via rfl); exact h3
    · apply keeps_ite
      · exact h3
      · apply keeps_plainWrite (hN.via rfl); exact hs
  · apply keeps_ite
    · exact h3
    · apply keeps_plainWrite (hN.via rfl); exact hs

theorem keeps_fenceQueue (hN : Within 0x4044a N) (q : ℕ) (s : State) (hs : Keeps N s₀ s) : Keeps N s₀ (fenceQueue q s) := by
  unfold fenceQueue; extract_lets +onlyGivenNames y1; clear_value y1; extract_lets +onlyGivenNames y2
  clear_value y2; extract_lets +onlyGivenNames y3
  have h4 : Keeps N s₀ y3 := by
    unfold y3; apply Keeps.foldl
    · intro z5 z6 h7; apply keeps_endCmd (hN.via rfl); exact h7
    · exact hs
  clear_value y3; extract_lets +onlyGivenNames y8; extract_lets +onlyGivenNames y9
  have h10 : Keeps N s₀ y9 := by
    unfold y9; refine Keeps.update 0x400 (hN.via rfl) ?_ rfl rfl rfl; exact h4
  clear_value y9; apply keeps_queueFault (hN.via rfl); apply keeps_bump (hN.via rfl)
  apply keeps_setQueue (hN.via rfl); exact h10

theorem keeps_fenceQueues (hN : Within 0x4044a N) (d : ℕ) (s : State) (hs : Keeps N s₀ s) : Keeps N s₀ (fenceQueues d s) := by
  unfold fenceQueues; apply Keeps.foldl
  · intro z1 z2 h3; apply keeps_fenceQueue (hN.via rfl); exact h3
  · exact hs

theorem keeps_clearQueues (hN : Within 0x40000 N) (c : ℕ) (s : State) (hs : Keeps N s₀ s) : Keeps N s₀ (clearQueues c s) := by
  unfold clearQueues; refine Keeps.update 0x40000 (hN.via rfl) ?_ rfl rfl rfl; exact hs

theorem keeps_putTaken (hN : Within 0x1e00a N) (src : PutSource) (queue n : ℕ) (s : State) (hs : Keeps N s₀ s)
    : Keeps N s₀ (putTaken src queue n s) := by
  unfold putTaken
  split
  · apply keeps_updSlot (hN.via rfl); exact hs
  · apply keeps_updSlot (hN.via rfl); exact hs
  · apply keeps_ispSettle (hN.via rfl); apply keeps_layoutTake (hN.via rfl); exact hs
  · apply keeps_setIsp (hN.via rfl); exact hs
  · apply keeps_setIsp (hN.via rfl); exact hs
  · apply keeps_updTile (hN.via rfl)
    · exact hs
    · (intro x c; split <;> exact c)
  · apply keeps_updStem (hN.via rfl)
    · exact hs
    · exact fun _ c => c
  · apply keeps_updTile (hN.via rfl)
    · exact hs
    · exact fun _ c => c
  · exact hs

theorem keeps_putRefused (hN : Within 0x1e00a N) (src : PutSource) (queue n : ℕ) (s : State) (hs : Keeps N s₀ s)
    : Keeps N s₀ (putRefused src queue n s) := by
  unfold putRefused
  split
  · apply keeps_csiRefused (hN.via rfl); exact hs
  · apply keeps_outRefused (hN.via rfl); exact hs
  · apply keeps_putTaken (hN.via rfl); exact hs

theorem keeps_putFill (hN : Within 0x40000 N) (q : ℕ) (d : Desc) (bs : List Byte) (frame : Option ℕ) (ends final : Bool) (s : State)
    (hs : Keeps N s₀ s) : Keeps N s₀ (putFill q d bs frame ends final s) := by
  unfold putFill; apply keeps_updQueue (hN.via rfl); exact hs

theorem keeps_execPutDelivery (hN : Within 0x1fe1ca N) (src : PutSource) (list : List Byte) (s : State) (hs : Keeps N s₀ s)
    : Keeps N s₀ (execPutDelivery src list s) := by
  unfold execPutDelivery
  split
  · exact hs
  · extract_lets +onlyGivenNames y1; clear_value y1; apply keeps_ite
    · apply keeps_putTaken (hN.via rfl); exact hs
    · apply keeps_ite
      · apply keeps_putRefused (hN.via rfl); apply keeps_bump (hN.via rfl); exact hs
      · apply keeps_ite
        · exact hs
        · extract_lets +onlyGivenNames y2
          have h3 : Keeps N s₀ y2.2 := by
            unfold y2; apply keeps_readBlock (hN.via rfl); exact hs
          clear_value y2; extract_lets +onlyGivenNames y4
          have h5 : Keeps N s₀ y4 := by
            unfold y4; exact h3
          clear_value y4; extract_lets +onlyGivenNames y6; clear_value y6
          split
          · extract_lets +onlyGivenNames y7; clear_value y7; extract_lets +onlyGivenNames y8; clear_value y8
            extract_lets +onlyGivenNames y9; clear_value y9; apply keeps_ite
            · apply keeps_setQueue (hN.via rfl); exact h5
            · apply keeps_ite
              · apply keeps_ite
                · apply keeps_settleQueue (hN.via rfl); apply keeps_advance (hN.via rfl); exact h5
                · apply keeps_setQueue (hN.via rfl); exact h5
              · extract_lets +onlyGivenNames y10; clear_value y10; apply keeps_putTaken (hN.via rfl)
                apply keeps_putFill (hN.via rfl); exact h5
          · exact h5

theorem keeps_mcSendTile (hN : Within 0x40000 N) (q md : ℕ) (m : McTile) (s : State) (hs : Keeps N s₀ s)
    : Keeps N s₀ (mcSendTile q md m s) := by
  unfold mcSendTile; extract_lets +onlyGivenNames y1; clear_value y1; apply keeps_updQueue (hN.via rfl); exact hs

theorem keeps_mcSend (hN : Within 0x40000 N) (md : ℕ) (s : State) (hs : Keeps N s₀ s) : Keeps N s₀ (mcSend md s) := by
  unfold mcSend; apply Keeps.foldl
  · intro z1 z2 h3; apply Keeps.foldl
    · intro z4 z5 h6; apply keeps_mcSendTile (hN.via rfl); exact h6
    · exact h3
  · exact hs

theorem keeps_mcPost (hN : Within 0x20804a N) (q ctr t : ℕ) (s : State) (hs : Keeps N s₀ s) : Keeps N s₀ (mcPost q ctr t s) := by
  unfold mcPost; apply keeps_haloCommit (hN.via rfl); exact hs

theorem keeps_mcDone (hN : Within 0x40000 N) (q : ℕ) (s : State) (hs : Keeps N s₀ s) : Keeps N s₀ (mcDone q s) := by
  unfold mcDone; apply keeps_updQueue (hN.via rfl); exact hs

theorem keeps_storeForced (hN : Within 0x1a008a N) (codec : ℕ) (h : Home) (tenant : ℕ) (data : List Byte) (s : State)
    (hs : Keeps N s₀ s) : Keeps N s₀ (storeForced codec h tenant data s) := by
  unfold storeForced; extract_lets +onlyGivenNames y1; clear_value y1; extract_lets +onlyGivenNames y2
  have h3 : Keeps N s₀ y2 := by
    unfold y2; apply keeps_slotStore (hN.via rfl); exact hs
  clear_value y2; apply keeps_setKitty (hN.via rfl); exact h3

theorem keeps_execMulticastPut (hN : Within 0x3e81ca N) (q : ℕ) (data list : List Byte) (s : State) (hs : Keeps N s₀ s)
    : Keeps N s₀ (execMulticastPut q data list s) := by
  unfold execMulticastPut; extract_lets +onlyGivenNames y1; clear_value y1; extract_lets +onlyGivenNames y2
  clear_value y2; apply keeps_ite
  · exact hs
  · extract_lets +onlyGivenNames y3
    have h4 : Keeps N s₀ y3.2 := by
      unfold y3; apply keeps_readBlock (hN.via rfl); exact hs
    clear_value y3; extract_lets +onlyGivenNames y5
    have h6 : Keeps N s₀ y5 := by
      unfold y5; exact h4
    clear_value y5; extract_lets +onlyGivenNames y7; clear_value y7
    split
    · extract_lets +onlyGivenNames y8; clear_value y8; extract_lets +onlyGivenNames y9; clear_value y9
      extract_lets +onlyGivenNames y10; clear_value y10; apply keeps_ite
      · exact h6
      · apply keeps_ite
        · apply keeps_queueFault (hN.via rfl); exact h6
        · extract_lets +onlyGivenNames y11; clear_value y11; extract_lets +onlyGivenNames y12
          have h13 : Keeps N s₀ y12.2 := by
            unfold y12; apply keeps_memStore (hN.via rfl); exact h6
          clear_value y12; extract_lets +onlyGivenNames y14
          have h15 : Keeps N s₀ y14.state := by
            unfold y14; apply keeps_gotMem (hN.via rfl); exact h13
          clear_value y14; apply keeps_ite
          · exact h6
          · apply keeps_ite
            · apply keeps_queueFault (hN.via rfl); exact h15
            · extract_lets +onlyGivenNames y16
              have h17 : Keeps N s₀ y16 := by
                unfold y16; apply keeps_ite
                · apply keeps_storeForced (hN.via rfl); exact h15
                · exact h15
              clear_value y16; extract_lets +onlyGivenNames y18; clear_value y18; extract_lets +onlyGivenNames y19
              clear_value y19; extract_lets +onlyGivenNames y20; clear_value y20; extract_lets +onlyGivenNames y21
              have h22 : Keeps N s₀ y21 := by
                unfold y21; apply keeps_mcDone (hN.via rfl); apply keeps_mcSend (hN.via rfl)
                apply keeps_setQueue (hN.via rfl); exact h17
              clear_value y21; extract_lets +onlyGivenNames y23
              have h24 : Keeps N s₀ y23 := by
                unfold y23; apply keeps_ite
                · apply Keeps.foldl
                  · intro z25 z26 h27; apply keeps_mcPost (hN.via rfl); exact h27
                  · exact h22
                · exact h22
              clear_value y23; apply keeps_ite
              · apply keeps_settleQueue (hN.via rfl); apply keeps_advance (hN.via rfl); exact h24
              · exact h24
    · exact h6

theorem keeps_execMulticastAck (hN : Within 0x34804a N) (q t : ℕ) (s : State) (hs : Keeps N s₀ s)
    : Keeps N s₀ (execMulticastAck q t s) := by
  unfold execMulticastAck; extract_lets +onlyGivenNames y1; clear_value y1
  split
  · exact hs
  · extract_lets +onlyGivenNames y2
    have h3 : Keeps N s₀ y2.2 := by
      unfold y2; apply keeps_poolPut (hN.via rfl); exact hs
    clear_value y2; extract_lets +onlyGivenNames y4
    have h5 : Keeps N s₀ y4 := by
      unfold y4; apply keeps_ite
      · apply keeps_ite
        · exact h3
        · apply keeps_poolSpill (hN.via rfl); exact h3
      · exact hs
    clear_value y4; extract_lets +onlyGivenNames y6
    have h7 : Keeps N s₀ y6 := by
      unfold y6; apply keeps_updQueue (hN.via rfl); exact h5
    clear_value y6; extract_lets +onlyGivenNames y8
    have h9 : Keeps N s₀ y8 := by
      unfold y8; apply keeps_ite
      · apply keeps_mcPost (hN.via rfl); exact h7
      · exact h7
    clear_value y8; apply keeps_settleQueue (hN.via rfl); apply keeps_mcDone (hN.via rfl)
    apply keeps_mcSend (hN.via rfl); apply keeps_mcDone (hN.via rfl); exact h9

theorem keeps_foldOut (hN : Within 0x24804a N) (q t : ℕ) (s : State) (hs : Keeps N s₀ s) : Keeps N s₀ (foldOut q t s) := by
  unfold foldOut; extract_lets +onlyGivenNames y1; clear_value y1; extract_lets +onlyGivenNames y2; clear_value y2
  extract_lets +onlyGivenNames y3; clear_value y3; extract_lets +onlyGivenNames y4; clear_value y4
  extract_lets +onlyGivenNames y5
  have h6 : Keeps N s₀ y5 := by
    unfold y5; apply keeps_queueEvent (hN.via rfl); apply keeps_raise (hN.via rfl); apply keeps_bump (hN.via rfl)
    apply keeps_setQueue (hN.via rfl); exact hs
  clear_value y5; apply keeps_mcDone (hN.via rfl); apply Keeps.foldl
  · intro z7 z8 h9; apply keeps_mcPost (hN.via rfl); exact h9
  · exact h6

theorem keeps_execFold (hN : Within 0x34804a N) (q : ℕ) (s : State) (hs : Keeps N s₀ s) : Keeps N s₀ (execFold q s) := by
  unfold execFold; extract_lets +onlyGivenNames y1; clear_value y1
  split
  · exact hs
  · split
    · apply keeps_ite
      · apply keeps_settleQueue (hN.via rfl); apply keeps_mcDone (hN.via rfl); apply keeps_mcSend (hN.via rfl)
        apply Keeps.foldl
        · intro z2 z3 h4; apply keeps_foldOut (hN.via rfl); exact h4
        · exact hs
      · exact hs
    · exact hs

theorem keeps_foldTile (hN : Within 0x34804a N) (t : ℕ) (s : State) (hs : Keeps N s₀ s) : Keeps N s₀ (foldTile t s) := by
  unfold foldTile; apply Keeps.foldl
  · intro z1 z2 h3; apply keeps_settleQueue (hN.via rfl); apply keeps_foldOut (hN.via rfl); exact h3
  · exact hs

theorem keeps_clearPage (hN : Within 0x2 N) (p : Page) (keep : ℕ → Bool) (s : State) (hs : Keeps N s₀ s)
    : Keeps N s₀ (clearPage p keep s) := by
  unfold clearPage; refine Keeps.updateRegs 0x2 (hN.via rfl) ?_ rfl rfl rfl; exact hs

theorem keeps_dropHead (hN : Within 0x8 N) (p : Page) (s : State) (hs : Keeps N s₀ s) : Keeps N s₀ (dropHead p s) := by
  unfold dropHead; extract_lets +onlyGivenNames y1; clear_value y1; extract_lets +onlyGivenNames y2; clear_value y2
  refine Keeps.update 0x8 (hN.via rfl) ?_ rfl rfl rfl; exact hs

theorem keeps_linkReset (hN : Within 0x2 N) (p : Page) (s : State) (hs : Keeps N s₀ s) : Keeps N s₀ (linkReset p s) := by
  unfold linkReset; apply keeps_ite
  · apply keeps_setFld (hN.via rfl); exact hs
  · exact hs

theorem keeps_regionsLost (hN : Within 0x20010 N) (p : Page) (s : State) (hs : Keeps N s₀ s) : Keeps N s₀ (regionsLost p s) := by
  unfold regionsLost; apply keeps_ite
  · refine Keeps.update 0x20010 (hN.via rfl) ?_ rfl rfl rfl; exact hs
  · exact hs

theorem keeps_clearArray (hN : Within 0x800a N) (t : ℕ) (s : State) (hs : Keeps N s₀ s) : Keeps N s₀ (clearArray t s) := by
  unfold clearArray; extract_lets +onlyGivenNames y1
  have h2 : Keeps N s₀ y1 := by
    unfold y1
    split
    · apply keeps_clearKernel (hN.via rfl); exact hs
    · exact hs
  clear_value y1; apply keeps_updTile (hN.via rfl)
  · exact h2
  · exact fun _ c => c

theorem keeps_blockClear (hN : Within 0x11fd0a N) (p : Page) (s : State) (hs : Keeps N s₀ s) : Keeps N s₀ (blockClear p s) := by
  unfold blockClear
  split
  · extract_lets +onlyGivenNames y1
    have h2 : Keeps N s₀ y1 := by
      unfold y1; apply keeps_ite
      · apply keeps_emit (hN.via rfl); exact hs
      · exact hs
    clear_value y1; apply keeps_setCsi (hN.via rfl); exact h2
  · apply keeps_setIsp (hN.via rfl); exact hs
  · refine Keeps.update 0x800 (hN.via rfl) ?_ rfl rfl rfl; exact hs
  · refine Keeps.update 0x800 (hN.via rfl) ?_ rfl rfl rfl; exact hs
  · apply keeps_ringStop (hN.via rfl); exact hs
  · apply keeps_setVo (hN.via rfl); exact hs
  · apply keeps_ceRestart (hN.via rfl); exact hs
  · apply keeps_clearArray (hN.via rfl); exact hs
  · apply keeps_updTile (hN.via rfl)
    · exact hs
    · exact fun _ c => c
  · apply keeps_suClear (hN.via rfl); exact hs
  · extract_lets +onlyGivenNames y3; clear_value y3; apply keeps_updTile (hN.via rfl)
    · exact hs
    · exact fun _ c => c
  · extract_lets +onlyGivenNames y4; clear_value y4; extract_lets +onlyGivenNames y5
    have h6 : Keeps N s₀ y5 := by
      unfold y5; apply keeps_updStem (hN.via rfl)
      · exact hs
      · exact fun _ c => c
    clear_value y5
    split
    · apply keeps_stemRelease (hN.via rfl); exact h6
    · exact h6
  · apply keeps_ite
    · refine Keeps.update 0x400 (hN.via rfl) ?_ rfl rfl rfl; exact hs
    · exact hs
  · refine Keeps.update 0x100 (hN.via rfl) ?_ rfl rfl rfl; exact hs
  · exact hs

theorem keeps_clockReset (hN : Within 0x10012a N) (p : Page) (eff : ℕ) (s : State) (hs : Keeps N s₀ s)
    : Keeps N s₀ (clockReset p eff s) := by
  unfold clockReset
  split
  · apply keeps_clockSet (hN.via rfl); apply keeps_setFld (hN.via rfl); exact hs
  · apply keeps_clockSet (hN.via rfl); apply keeps_setFld (hN.via rfl); exact hs
  · exact hs

theorem keeps_softReset (hN : Within 0x13fd3a N) (p : Page) (s : State) (hs : Keeps N s₀ s) : Keeps N s₀ (softReset p s) := by
  unfold softReset; extract_lets +onlyGivenNames y1; clear_value y1; extract_lets +onlyGivenNames y2; clear_value y2
  extract_lets +onlyGivenNames y3; clear_value y3; extract_lets +onlyGivenNames y4
  have h5 : Keeps N s₀ y4 := by
    unfold y4; apply keeps_regionsLost (hN.via rfl); apply keeps_linkReset (hN.via rfl)
    apply keeps_clockReset (hN.via rfl); apply keeps_dropHead (hN.via rfl); apply keeps_clearCounters (hN.via rfl)
    apply keeps_clearPage (hN.via rfl); apply keeps_blockClear (hN.via rfl); exact hs
  clear_value y4; apply keeps_ite
  · apply keeps_setFlag (hN.via rfl); exact h5
  · exact h5

theorem keeps_expertClear (hN : Within 0x2c002 N) (p : Page) (s : State) (hs : Keeps N s₀ s) : Keeps N s₀ (expertClear p s) := by
  unfold expertClear; apply keeps_ite
  · exact hs
  · extract_lets +onlyGivenNames y1; extract_lets +onlyGivenNames y2
    have h3 : Keeps N s₀ y2 := by
      unfold y2
      split
      · apply keeps_suUnload (hN.via rfl); exact hs
      · apply keeps_updTile (hN.via rfl)
        · exact hs
        · exact fun _ c => c
      · apply keeps_setIsp (hN.via rfl); exact hs
      · apply keeps_setKitty (hN.via rfl); exact hs
      · exact hs
    clear_value y2; extract_lets +onlyGivenNames y4; clear_value y4; extract_lets +onlyGivenNames y5; clear_value y5
    apply keeps_setFld (hN.via rfl); apply keeps_setFlag (hN.via rfl)
    refine Keeps.updateRegs 0x2 (hN.via rfl) ?_ rfl rfl rfl; exact h3

theorem keeps_clearTile (hN : Within 0x8000 N) (t : ℕ) (s : State) (hs : Keeps N s₀ s) : Keeps N s₀ (clearTile t s) := by
  unfold clearTile; extract_lets +onlyGivenNames y1; clear_value y1; apply keeps_farDrop (hN.via rfl)
  apply keeps_updTile (hN.via rfl)
  · exact hs
  · exact fun _ c => Memory.wf_filter c

theorem keeps_domainPageReset (hN : Within 0x11fd2a N) (p : Page) (s : State) (hs : Keeps N s₀ s)
    : Keeps N s₀ (domainPageReset p s) := by
  unfold domainPageReset; extract_lets +onlyGivenNames y1; clear_value y1; extract_lets +onlyGivenNames y2
  clear_value y2; apply keeps_linkReset (hN.via rfl); apply keeps_clockReset (hN.via rfl)
  apply keeps_dropHead (hN.via rfl); apply keeps_clearCounters (hN.via rfl); apply keeps_clearPage (hN.via rfl)
  apply keeps_blockClear (hN.via rfl); exact hs

theorem keeps_markUnentered (hN : Within 0x40 N) (t : ℕ) (s : State) (hs : Keeps N s₀ s) : Keeps N s₀ (markUnentered t s) := by
  unfold markUnentered; extract_lets +onlyGivenNames y1; clear_value y1
  refine Keeps.update 0x40 (hN.via rfl) ?_ rfl rfl rfl; exact hs

theorem keeps_domainReset (hN : Within 0x13fd6a N) (d : ℕ) (s : State) (hs : Keeps N s₀ s) : Keeps N s₀ (domainReset d s) := by
  unfold domainReset; extract_lets +onlyGivenNames y1; clear_value y1; extract_lets +onlyGivenNames y2
  have h3 : Keeps N s₀ y2 := by
    unfold y2; apply Keeps.foldl
    · intro z4 z5 h6; apply keeps_domainPageReset (hN.via rfl); exact h6
    · exact hs
  clear_value y2; apply keeps_ite
  · apply keeps_clearTile (hN.via rfl); apply keeps_markUnentered (hN.via rfl); exact h3
  · apply keeps_ite
    · apply keeps_updStem (hN.via rfl)
      · exact h3
      · exact fun _ c => c
    · apply keeps_ite
      · apply keeps_dropBypass (hN.via rfl); apply keeps_setKitty (hN.via rfl); exact h3
      · exact h3

theorem keeps_pagePowerOff (hN : Within 0x13fd5a N) (p : Page) (s : State) (hs : Keeps N s₀ s) : Keeps N s₀ (pagePowerOff p s) := by
  unfold pagePowerOff; extract_lets +onlyGivenNames y1; clear_value y1; extract_lets +onlyGivenNames y2
  extract_lets +onlyGivenNames y3
  have h4 : Keeps N s₀ y3 := by
    unfold y3
    split
    · exact hs
    · exact hs
    · refine Keeps.updateMem 0x1000 (hN.via rfl) ?_ ?_ ?_ ?_ rfl
      · exact hs
      · exact id
      · exact id
      · exact fun _ => rfl
    · apply keeps_blockClear (hN.via rfl); exact hs
  clear_value y3; extract_lets +onlyGivenNames y5; extract_lets +onlyGivenNames y6
  have h7 : Keeps N s₀ y6 := by
    unfold y6; refine Keeps.update 0x40 (hN.via rfl) ?_ rfl rfl rfl; exact h4
  clear_value y6; apply keeps_regionsLost (hN.via rfl)
  split
  · beta_reduce; apply keeps_clearPage (hN.via rfl); exact h7
  · apply keeps_dropHead (hN.via rfl); apply keeps_clearPage (hN.via rfl); exact h7

theorem keeps_tileLost (hN : Within 0x8002 N) (t : ℕ) (s : State) (hs : Keeps N s₀ s) : Keeps N s₀ (tileLost t s) := by
  unfold tileLost; apply keeps_clearPage (hN.via rfl); apply keeps_clearPage (hN.via rfl)
  apply keeps_setTile (hN.via rfl)
  · exact hs
  · exact fun _ => rfl

theorem keeps_thermShow (hN : Within 0x2 N) (s : State) (hs : Keeps N s₀ s) : Keeps N s₀ (thermShow s) := by
  unfold thermShow; extract_lets +onlyGivenNames y1; clear_value y1; apply keeps_setFlag (hN.via rfl)
  apply keeps_setFlag (hN.via rfl); exact hs

theorem keeps_sensorsOff (hN : Within 0x22 N) (d : ℕ) (s : State) (hs : Keeps N s₀ s) : Keeps N s₀ (sensorsOff d s) := by
  unfold sensorsOff; extract_lets +onlyGivenNames y1; clear_value y1; extract_lets +onlyGivenNames y2
  have h3 : Keeps N s₀ y2 := by
    unfold y2; apply Keeps.foldl
    · intro z4 z5 h6; apply keeps_wr (hN.via rfl); exact h6
    · exact hs
  clear_value y2; apply keeps_thermShow (hN.via rfl); refine Keeps.update 0x20 (hN.via rfl) ?_ rfl rfl rfl; exact h3

theorem keeps_domainOff (hN : Within 0x13fd7a N) (d : ℕ) (s : State) (hs : Keeps N s₀ s) : Keeps N s₀ (domainOff d s) := by
  unfold domainOff; extract_lets +onlyGivenNames y1
  have h2 : Keeps N s₀ y1 := by
    unfold y1; apply Keeps.foldl
    · intro z3 z4 h5; apply keeps_pagePowerOff (hN.via rfl); exact h5
    · exact hs
  clear_value y1; extract_lets +onlyGivenNames y6
  have h7 : Keeps N s₀ y6 := by
    unfold y6; apply keeps_sensorsOff (hN.via rfl); exact h2
  clear_value y6; apply keeps_ite
  · apply keeps_dropBypass (hN.via rfl); apply keeps_setKitty (hN.via rfl); exact h7
  · exact h7

end Sys2Proof.Machine
end

