-- ==== Sys2Proof/Laws/KeepsF.lean ====
section
/-! SUPPORT. What every operation keeps (Keeps.lean), for the operations of Power.lean, Deals.lean, Cells.lean. -/
namespace Sys2Proof.Machine
set_option Elab.async false

variable {s₀ : State} {N : Nat}

theorem keeps_contentsLost (hN : Within 0xe8012 N) (d level : ℕ) (s : State) (hs : Keeps N s₀ s)
    : Keeps N s₀ (contentsLost d level s) := by
  unfold contentsLost; apply keeps_ite
  · apply keeps_ite
    · exact hs
    · refine Keeps.updateMem 0xe0010 (hN.via rfl) ?_ ?_ ?_ ?_ rfl
      · exact hs
      · exact Memory.wf_filter
      · exact id
      · exact id
  · apply keeps_ite
    · apply Keeps.foldl
      · intro z1 z2 h3; apply keeps_ite
        · exact h3
        · apply keeps_tileLost (hN.via rfl); exact h3
      · exact hs
    · exact hs

theorem keeps_domainTo (hN : Within 0x1ffd7e N) (d level : ℕ) (s : State) (hs : Keeps N s₀ s) : Keeps N s₀ (domainTo d level s) := by
  unfold domainTo; extract_lets +onlyGivenNames y1; clear_value y1; apply keeps_ite
  · exact hs
  · apply keeps_ite
    · apply keeps_domainOn (hN.via rfl); exact hs
    · extract_lets +onlyGivenNames y2
      have h3 : Keeps N s₀ y2 := by
        unfold y2; apply keeps_ite
        · apply keeps_domainOff (hN.via rfl); exact hs
        · exact hs
      clear_value y2; apply keeps_setDom (hN.via rfl); apply keeps_contentsLost (hN.via rfl); exact h3

theorem keeps_setReady (hN : Within 0xa N) (b : ℕ) (v : Bool) (s : State) (hs : Keeps N s₀ s) : Keeps N s₀ (setReady b v s) := by
  unfold setReady; apply keeps_ite
  · exact hs
  · apply keeps_raise (hN.via rfl); apply keeps_setFlag (hN.via rfl); exact hs

theorem keeps_execRegulatorModeSwitched (hN : Within 0x32 N) (s : State) (hs : Keeps N s₀ s)
    : Keeps N s₀ (execRegulatorModeSwitched s) := by
  unfold execRegulatorModeSwitched
  split
  · exact hs
  · extract_lets +onlyGivenNames y1
    have h2 : Keeps N s₀ y1 := by
      unfold y1; apply keeps_ite
      · apply keeps_railsOn (hN.via rfl); exact hs
      · exact hs
    clear_value y1; apply keeps_regUpdate (hN.via rfl); apply keeps_setFlag (hN.via rfl)
    apply keeps_setFlag (hN.via rfl); refine Keeps.update 0x20 (hN.via rfl) ?_ rfl rfl rfl; exact h2

theorem keeps_execBrownOutReset (hN : Within 0x13fd7e N) (s : State) (hs : Keeps N s₀ s) : Keeps N s₀ (execBrownOutReset s) := by
  unfold execBrownOutReset; apply keeps_ite
  · exact hs
  · extract_lets +onlyGivenNames y1; extract_lets +onlyGivenNames y2
    have h3 : Keeps N s₀ y2 := by
      unfold y2; apply Keeps.foldl
      · intro z4 z5 h6; apply keeps_pagePowerOff (hN.via rfl); exact h6
      · refine Keeps.update 0x20 (hN.via rfl) ?_ rfl rfl rfl; exact hs
    clear_value y2; apply keeps_wakeEvent (hN.via rfl); apply keeps_bump (hN.via rfl)
    apply keeps_raise (hN.via rfl); apply keeps_setFlag (hN.via rfl); apply keeps_wr (hN.via rfl)
    apply keeps_clearPage (hN.via rfl); exact h3

theorem keeps_keeperOnly (hN : Within 0x3fffff N) (s : State) (hs : Keeps N s₀ s) : Keeps N s₀ (keeperOnly s) := by
  have h (p : Nat × Word → Bool) (t : State) (h1 : t.part = s.part) (h2 : t.regs = s.regs.filter p)
      (h3 : t.hbm = []) (h4 : t.boot.staging = []) (h5 : t.ce.sram = []) (h6 : t.tiles = []) (h7 : t.pending = s.pending) (h9 : t.Keyed)
      (h8 : t = mix 0x3fffff s t) : Keeps N s₀ t := by
    refine ⟨?_, hs.change hN h8⟩; rw [h1, h2, h3, h4, h5, h6, h7]
    exact ⟨hs.base.fuses, fun c => ⟨Regs.wf_filter (hs.base.canon c).1, rfl, rfl, rfl, (fun _ h => nomatch h), h9⟩, hs.base.queue⟩
  unfold keeperOnly
  extract_lets
  split
  · apply keeps_setFlag (hN.via rfl); exact h _ _ rfl rfl rfl rfl rfl rfl rfl ⟨rfl, rfl, rfl, rfl, rfl, rfl, rfl, rfl, rfl, rfl, rfl, fun _ h => nomatch h⟩ rfl
  · exact h _ _ rfl rfl rfl rfl rfl rfl rfl ⟨rfl, rfl, rfl, rfl, rfl, rfl, rfl, rfl, rfl, rfl, rfl, fun _ h => nomatch h⟩ rfl

theorem keeps_foldEnter (hN : Within 0x3fffff N) (s : State) (hs : Keeps N s₀ s) : Keeps N s₀ (foldEnter s) := by
  unfold foldEnter; extract_lets +onlyGivenNames y1
  have h2 : Keeps N s₀ y1 := by
    unfold y1; apply keeps_keeperOnly (hN.via rfl); exact hs
  clear_value y1; apply keeps_wr (hN.via rfl); refine Keeps.update 0x30 (hN.via rfl) ?_ rfl rfl rfl; exact h2

theorem keeps_sendPme (hN : Within 0x100080 N) (s : State) (hs : Keeps N s₀ s) : Keeps N s₀ (sendPme s) := by
  unfold sendPme; apply keeps_emit (hN.via rfl); refine Keeps.update 0x80 (hN.via rfl) ?_ rfl rfl rfl; exact hs

theorem keeps_foldExit (hN : Within 0x3fffff N) (s : State) (hs : Keeps N s₀ s) : Keeps N s₀ (foldExit s) := by
  unfold foldExit; extract_lets +onlyGivenNames y1; clear_value y1; extract_lets +onlyGivenNames y2
  have h3 : Keeps N s₀ y2 := by
    unfold y2; apply keeps_keeperOnly (hN.via rfl); exact hs
  clear_value y2; extract_lets +onlyGivenNames y4; extract_lets +onlyGivenNames y5; extract_lets +onlyGivenNames y6
  have h7 : Keeps N s₀ y6 := by
    unfold y6; refine Keeps.update 0x14 (hN.via rfl) ?_ rfl rfl rfl; exact h3
  clear_value y6; apply keeps_ite
  · exact h7
  · apply keeps_sendPme (hN.via rfl); exact h7

theorem keeps_anyWake (hN : Within 0x3fffff N) (idx : ℕ) (s : State) (hs : Keeps N s₀ s) : Keeps N s₀ (anyWake idx s) := by
  unfold anyWake; apply keeps_ite
  · apply keeps_ite
    · apply keeps_foldExit (hN.via rfl); apply keeps_wakeRecord (hN.via rfl); exact hs
    · exact hs
  · apply keeps_wakeEvent (hN.via rfl); exact hs

theorem keeps_execWakeIn (hN : Within 0x3fffff N) (s : State) (hs : Keeps N s₀ s) : Keeps N s₀ (execWakeIn s) := by
  unfold execWakeIn; apply keeps_anyWake (hN.via rfl); exact hs

theorem keeps_execHost (hN : Within 0x3fffff N) (s : State) (hs : Keeps N s₀ s) : Keeps N s₀ (execHost s) := by
  unfold execHost; apply keeps_anyWake (hN.via rfl); exact hs

theorem keeps_wakeReq (hN : Within 0x3e N) (v : Word) (s : State) (hs : Keeps N s₀ s) : Keeps N s₀ (wakeReq v s) := by
  unfold wakeReq; extract_lets +onlyGivenNames y1
  have h2 : Keeps N s₀ y1 := by
    unfold y1; apply keeps_setFld (hN.via rfl); exact hs
  clear_value y1; apply keeps_ite
  · apply keeps_wakeEvent (hN.via rfl); exact h2
  · exact h2

theorem keeps_execHostReq (hN : Within 0x1001fe N) (w : Func) (target : ℕ) (s : State) (hs : Keeps N s₀ s)
    : Keeps N s₀ (execHostReq w target s) := by
  unfold execHostReq; extract_lets +onlyGivenNames y1; clear_value y1; apply keeps_access (hN.via rfl)
  · intro z2 h3; apply keeps_wakeReq (hN.via rfl); exact h3
  · exact hs

theorem keeps_stepBegin (hN : Within 0x180d0a N) (s : State) (hs : Keeps N s₀ s) : Keeps N s₀ (stepBegin s) := by
  unfold stepBegin; apply keeps_ite
  · extract_lets +onlyGivenNames y1
    have h2 : Keeps N s₀ y1 := by
      unfold y1; apply keeps_ringRelock (hN.via rfl); apply keeps_sendFrame (hN.via rfl); exact hs
    clear_value y1; apply keeps_ite
    · apply keeps_setFlag (hN.via rfl); apply keeps_hhFlush (hN.via rfl); apply keeps_hhCapture (hN.via rfl)
      exact h2
    · exact h2
  · exact hs

theorem keeps_quiesceBegin (hN : Within 0x14002a N) (s : State) (hs : Keeps N s₀ s) : Keeps N s₀ (quiesceBegin s) := by
  unfold quiesceBegin; apply keeps_settleQueues (hN.via rfl); apply keeps_setPwrPhase (hN.via rfl)
  refine Keeps.update 0x20 (hN.via rfl) ?_ rfl rfl rfl; exact hs

theorem keeps_pwrCmd (hN : Within 0x14002a N) (mgmt : Bool) (T : ℕ) (s : State) (hs : Keeps N s₀ s) : Keeps N s₀ (pwrCmd mgmt T s) := by
  unfold pwrCmd; apply keeps_ite
  · apply keeps_bump (hN.via rfl); exact hs
  · extract_lets +onlyGivenNames y1; clear_value y1; extract_lets +onlyGivenNames y2
    extract_lets +onlyGivenNames y3; extract_lets +onlyGivenNames y4
    have h5 : Keeps N s₀ y4 := by
      unfold y4; apply keeps_setFld (hN.via rfl); refine Keeps.update 0x20 (hN.via rfl) ?_ rfl rfl rfl; exact hs
    clear_value y4; apply keeps_ite
    · apply keeps_postPwrResult (hN.via rfl); apply keeps_bump (hN.via rfl); exact h5
    · extract_lets +onlyGivenNames y6; extract_lets +onlyGivenNames y7
      have h8 : Keeps N s₀ y7 := by
        unfold y7; apply keeps_setPwrPhase (hN.via rfl); apply keeps_setPwrTarget (hN.via rfl)
        apply keeps_setFlag (hN.via rfl); refine Keeps.update 0x20 (hN.via rfl) ?_ rfl rfl rfl; exact h5
      clear_value y7; apply keeps_ite
      · apply keeps_quiesceBegin (hN.via rfl); exact h8
      · apply keeps_bump (hN.via rfl); apply keeps_raise (hN.via rfl); exact h8

theorem keeps_pwrAgain (hN : Within 0x14002a N) (s : State) (hs : Keeps N s₀ s) : Keeps N s₀ (pwrAgain s) := by
  unfold pwrAgain
  split
  · apply keeps_ite
    · apply keeps_pwrCmd (hN.via rfl); apply keeps_setFlag (hN.via rfl); exact hs
    · exact hs
  · exact hs

theorem keeps_pwrCmdWrite (hN : Within 0x14002a N) (w : Func) (v : Word) (s : State) (hs : Keeps N s₀ s)
    : Keeps N s₀ (pwrCmdWrite w v s) := by
  unfold pwrCmdWrite; apply keeps_ite
  · apply keeps_pwrCmd (hN.via rfl); exact hs
  · apply keeps_ite
    · apply keeps_bump (hN.via rfl); exact hs
    · apply keeps_setFld (hN.via rfl); exact hs

theorem keeps_execPwrCmdGo (hN : Within 0x1401ea N) (w : Func) (target : ℕ) (s : State) (hs : Keeps N s₀ s)
    : Keeps N s₀ (execPwrCmdGo w target s) := by
  unfold execPwrCmdGo; extract_lets +onlyGivenNames y1; clear_value y1; apply keeps_access (hN.via rfl)
  · intro z2 h3; apply keeps_pwrCmdWrite (hN.via rfl); exact h3
  · exact hs

theorem keeps_execHoldEnd (hN : Within 0x14002a N) (s : State) (hs : Keeps N s₀ s) : Keeps N s₀ (execHoldEnd s) := by
  unfold execHoldEnd; apply keeps_ite
  · apply keeps_quiesceBegin (hN.via rfl); exact hs
  · exact hs

theorem keeps_execHoldExpired (hN : Within 0x14002a N) (s : State) (hs : Keeps N s₀ s) : Keeps N s₀ (execHoldExpired s) := by
  unfold execHoldExpired; apply keeps_ite
  · apply keeps_quiesceBegin (hN.via rfl); apply keeps_bump (hN.via rfl); apply keeps_raise (hN.via rfl); exact hs
  · exact hs

theorem keeps_execQuiesceEnd (hN : Within 0x180d0a N) (s : State) (hs : Keeps N s₀ s) : Keeps N s₀ (execQuiesceEnd s) := by
  unfold execQuiesceEnd; apply keeps_ite
  · apply keeps_stepBegin (hN.via rfl); apply keeps_setPwrPhase (hN.via rfl); exact hs
  · exact hs

theorem keeps_execQuiesceTimeout (hN : Within 0x14000a N) (s : State) (hs : Keeps N s₀ s) : Keeps N s₀ (execQuiesceTimeout s) := by
  unfold execQuiesceTimeout; apply keeps_ite
  · apply keeps_settleQueues (hN.via rfl); apply keeps_endPwrCmd (hN.via rfl); exact hs
  · exact hs

theorem keeps_kittySave (hN : Within 0x1a008a N) (n : ℕ) (s : State) (hs : Keeps N s₀ s) : Keeps N s₀ (kittySave n s) := by
  unfold kittySave; apply Keeps.foldl
  · intro z1 z2 h3; apply keeps_slotWrite (hN.via rfl); exact h3
  · exact hs

theorem keeps_anteEnter (hN : Within 0x10083e N) (s : State) (hs : Keeps N s₀ s) : Keeps N s₀ (anteEnter s) := by
  unfold anteEnter; extract_lets +onlyGivenNames y1; clear_value y1; extract_lets +onlyGivenNames y2; clear_value y2
  extract_lets +onlyGivenNames y3; extract_lets +onlyGivenNames y4; extract_lets +onlyGivenNames y5
  extract_lets +onlyGivenNames y6
  have h7 : Keeps N s₀ y6 := by
    unfold y6; refine Keeps.update 0x34 (hN.via rfl) ?_ rfl rfl rfl; exact hs
  clear_value y6; apply keeps_regUpdate (hN.via rfl); apply keeps_detAnte (hN.via rfl)
  apply keeps_setCap (hN.via rfl); apply keeps_setFld (hN.via rfl); apply keeps_setFlag (hN.via rfl); exact h7

theorem keeps_descendEnd (hN : Within 0x3e N) (s : State) (hs : Keeps N s₀ s) : Keeps N s₀ (descendEnd s) := by
  unfold descendEnd; extract_lets +onlyGivenNames y1; clear_value y1; extract_lets +onlyGivenNames y2
  have h3 : Keeps N s₀ y2 := by
    unfold y2; apply keeps_endPwrCmd (hN.via rfl); exact hs
  clear_value y2
  split
  · apply keeps_ite
    · apply keeps_startClimb (hN.via rfl); exact h3
    · exact h3
  · exact h3

theorem keeps_execDescendStepEnd (hN : Within 0x3fffff N) (s : State) (hs : Keeps N s₀ s) : Keeps N s₀ (execDescendStepEnd s) := by
  unfold execDescendStepEnd; apply keeps_ite
  · exact hs
  · extract_lets +onlyGivenNames y1; clear_value y1; extract_lets +onlyGivenNames y2; clear_value y2
    apply keeps_ite
    · exact hs
    · apply keeps_ite
      · extract_lets +onlyGivenNames y3; clear_value y3; extract_lets +onlyGivenNames y4
        have h5 : Keeps N s₀ y4 := by
          unfold y4; apply keeps_foldEnter (hN.via rfl); exact hs
        clear_value y4; apply keeps_ite
        · apply keeps_foldExit (hN.via rfl); exact h5
        · exact h5
      · extract_lets +onlyGivenNames y6
        have h7 : Keeps N s₀ y6 := by
          unfold y6; apply keeps_raise (hN.via rfl); apply keeps_setPwrState (hN.via rfl); exact hs
        clear_value y6; extract_lets +onlyGivenNames y8
        have h9 : Keeps N s₀ y8 := by
          unfold y8; apply keeps_ite
          · apply keeps_emit (hN.via rfl); apply keeps_anteEnter (hN.via rfl); exact h7
          · exact h7
        clear_value y8; apply keeps_ite
        · apply keeps_descendEnd (hN.via rfl); exact h9
        · apply keeps_stepBegin (hN.via rfl); exact h9

theorem keeps_callReached (hN : Within 0x10102a N) (s : State) (hs : Keeps N s₀ s) : Keeps N s₀ (callReached s) := by
  unfold callReached; extract_lets +onlyGivenNames y1; clear_value y1; extract_lets +onlyGivenNames y2
  extract_lets +onlyGivenNames y3; extract_lets +onlyGivenNames y4
  have h5 : Keeps N s₀ y4 := by
    unfold y4; refine Keeps.update 0x28 (hN.via rfl) ?_ rfl rfl rfl; exact hs
  clear_value y4; extract_lets +onlyGivenNames y6
  have h7 : Keeps N s₀ y6 := by
    unfold y6; apply keeps_ite
    · apply keeps_ceRestart (hN.via rfl); apply keeps_setFlag (hN.via rfl); exact h5
    · exact h5
  clear_value y6; extract_lets +onlyGivenNames y8
  have h9 : Keeps N s₀ y8 := by
    unfold y8; apply keeps_emit (hN.via rfl); apply keeps_ite
    · exact h7
    · apply keeps_emit (hN.via rfl); exact h7
  clear_value y8; apply keeps_ite
  · exact h9
  · apply keeps_restoreBegin (hN.via rfl); exact h9

theorem keeps_climbOn (hN : Within 0x36 N) (s : State) (hs : Keeps N s₀ s) : Keeps N s₀ (climbOn s) := by
  unfold climbOn; apply keeps_ite
  · apply keeps_setPwrPhase (hN.via rfl); exact hs
  · apply keeps_startClimb (hN.via rfl); exact hs

theorem keeps_switchBegin (hN : Within 0x1bfdfe N) (d level : ℕ) (s : State) (hs : Keeps N s₀ s)
    : Keeps N s₀ (switchBegin d level s) := by
  unfold switchBegin; apply keeps_ite
  · apply keeps_setDom (hN.via rfl); exact hs
  · apply keeps_setDom (hN.via rfl); apply keeps_domainOff (hN.via rfl); apply keeps_ite
    · apply keeps_kittySave (hN.via rfl); exact hs
    · exact hs

theorem keeps_switchTick (hN : Within 0x1ffdfe N) (s : State) (hs : Keeps N s₀ s) : Keeps N s₀ (switchTick s) := by
  unfold switchTick
  split
  · exact hs
  · split
    · apply keeps_domainTo (hN.via rfl); exact hs
    · split
      · apply keeps_ite
        · exact hs
        · apply keeps_switchBegin (hN.via rfl); exact hs
      · split
        · apply keeps_switchBegin (hN.via rfl); exact hs
        · refine Keeps.update 0x20 (hN.via rfl) ?_ rfl rfl rfl; exact hs

theorem keeps_execClimbStepEnd (hN : Within 0x14103e N) (s : State) (hs : Keeps N s₀ s) : Keeps N s₀ (execClimbStepEnd s) := by
  unfold execClimbStepEnd; apply keeps_ite
  · exact hs
  · extract_lets +onlyGivenNames y1; clear_value y1; extract_lets +onlyGivenNames y2
    have h3 : Keeps N s₀ y2 := by
      unfold y2; apply keeps_raise (hN.via rfl); apply keeps_setPwrState (hN.via rfl); exact hs
    clear_value y2; extract_lets +onlyGivenNames y4
    have h5 : Keeps N s₀ y4 := by
      unfold y4; apply keeps_ite
      · apply keeps_callReached (hN.via rfl); exact h3
      · exact h3
    clear_value y4; apply keeps_settleQueues (hN.via rfl); apply keeps_climbOn (hN.via rfl); exact h5

theorem keeps_execDutyWindowStart (hN : Within 0x2a N) (s : State) (hs : Keeps N s₀ s) : Keeps N s₀ (execDutyWindowStart s) := by
  unfold execDutyWindowStart; apply keeps_ite
  · apply keeps_bump (hN.via rfl); refine Keeps.update 0x20 (hN.via rfl) ?_ rfl rfl rfl; exact hs
  · exact hs

theorem keeps_execDutyWindowEnd (hN : Within 0x22 N) (s : State) (hs : Keeps N s₀ s) : Keeps N s₀ (execDutyWindowEnd s) := by
  unfold execDutyWindowEnd; apply keeps_ite
  · apply keeps_regUpdate (hN.via rfl); refine Keeps.update 0x20 (hN.via rfl) ?_ rfl rfl rfl; exact hs
  · exact hs

theorem keeps_burnCut (hN : Within 0x200001 N) (s : State) (hs : Keeps N s₀ s) : Keeps N s₀ (burnCut s) := by
  unfold burnCut
  split
  · refine ⟨⟨Part.burnt_updNth _ _ hs.base.fuses, fun c => ?_, hs.base.queue⟩, hs.change hN rfl⟩
    obtain ⟨a, b, d, e, f, k⟩ := hs.base.canon c
    exact ⟨by rw [Regs.wf_arb]; exact a, b, d, e, f, { k with }⟩
  · exact hs

theorem keeps_wholeReset (hN : Within 0x3fffff N) (s : State) (hs : Keeps N s₀ s) : Keeps N s₀ (wholeReset s) :=
  ⟨⟨hs.base.fuses, fun _ => ⟨rfl, rfl, rfl, rfl, (fun _ h => nomatch h), ⟨rfl, rfl, rfl, rfl, rfl, rfl, rfl, rfl, rfl, rfl, rfl, fun _ h => nomatch h⟩⟩, hs.base.queue⟩, hs.change hN rfl⟩

theorem keeps_execWholeDeviceReset (hN : Within 0x3fffff N) (powerOn : Bool) (s : State) (hs : Keeps N s₀ s)
    : Keeps N s₀ (execWholeDeviceReset powerOn s) := by
  unfold execWholeDeviceReset; extract_lets +onlyGivenNames y1
  have h2 : Keeps N s₀ y1 := by
    unfold y1; apply keeps_wholeReset (hN.via rfl); apply keeps_burnCut (hN.via rfl); exact hs
  clear_value y1; apply keeps_ite
  · exact h2
  · apply keeps_ite
    · exact hs
    · refine Keeps.update 0x10 (hN.via rfl) ?_ rfl rfl rfl; exact h2

theorem keeps_bootStart (hN : Within 0x21a N) (s : State) (hs : Keeps N s₀ s) : Keeps N s₀ (bootStart s) := by
  unfold bootStart; apply keeps_ite
  · refine Keeps.update 0x10 (hN.via rfl) ?_ rfl rfl rfl; exact hs
  · apply keeps_ite
    · refine Keeps.update 0x10 (hN.via rfl) ?_ rfl rfl rfl; exact hs
    · apply keeps_setReady (hN.via rfl); apply keeps_romStart (hN.via rfl)
      refine Keeps.update 0x10 (hN.via rfl) ?_ rfl rfl rfl; exact hs

theorem keeps_execPowerGoodRise (hN : Within 0x21a N) (r : Rail) (s : State) (hs : Keeps N s₀ s)
    : Keeps N s₀ (execPowerGoodRise r s) := by
  unfold execPowerGoodRise; extract_lets +onlyGivenNames y1; clear_value y1; apply keeps_ite
  · exact hs
  · extract_lets +onlyGivenNames y2; extract_lets +onlyGivenNames y3
    have h4 : Keeps N s₀ y3 := by
      unfold y3
      split
      · refine Keeps.update 0x10 (hN.via rfl) ?_ rfl rfl rfl; exact hs
      · refine Keeps.update 0x10 (hN.via rfl) ?_ rfl rfl rfl; exact hs
    apply keeps_ite
    · apply keeps_bootStart (hN.via rfl); exact h4
    · exact h4

theorem keeps_execPerstDeassert (hN : Within 0x21a N) (s : State) (hs : Keeps N s₀ s) : Keeps N s₀ (execPerstDeassert s) := by
  unfold execPerstDeassert; apply keeps_ite
  · apply keeps_bootStart (hN.via rfl); exact hs
  · exact hs

theorem keeps_execLinkTrained (hN : Within 0x10009a N) (width speed : ℕ) (laneFail : Bool) (s : State) (hs : Keeps N s₀ s)
    : Keeps N s₀ (execLinkTrained width speed laneFail s) := by
  unfold execLinkTrained; apply keeps_ite
  · exact hs
  · apply keeps_emit (hN.via rfl); apply keeps_setReady (hN.via rfl); apply keeps_wr (hN.via rfl)
    refine Keeps.update 0x90 (hN.via rfl) ?_ rfl rfl rfl; exact hs

theorem keeps_dealEnd (hN : Within 0xa N) (p : Page) (s : State) (hs : Keeps N s₀ s) : Keeps N s₀ (dealEnd p s) := by
  unfold dealEnd; apply keeps_setFlag (hN.via rfl); refine Keeps.update 0x8 (hN.via rfl) ?_ rfl rfl rfl; exact hs

theorem keeps_dealSkip (hN : Within 0xa N) (p : Page) (n : ℕ) (s : State) (hs : Keeps N s₀ s) : Keeps N s₀ (dealSkip p n s) := by
  unfold dealSkip; apply keeps_ite
  · exact hs
  · apply keeps_raise (hN.via rfl); apply keeps_bump (hN.via rfl); exact hs

theorem keeps_dealCtrl (hN : Within 0x4a N) (w : Func) (p : Page) (v : Word) (s : State) (hs : Keeps N s₀ s)
    : Keeps N s₀ (dealCtrl w p v s) := by
  unfold dealCtrl; apply keeps_ite
  · apply keeps_ite
    · apply keeps_dealEnd (hN.via rfl); exact hs
    · apply keeps_accessError (hN.via rfl); exact hs
  · extract_lets +onlyGivenNames y1
    have h2 : Keeps N s₀ y1 := by
      unfold y1; apply keeps_wr (hN.via rfl); exact hs
    clear_value y1; extract_lets +onlyGivenNames y3; clear_value y3; apply keeps_ite
    · exact h2
    · apply keeps_ite
      · apply keeps_raise (hN.via rfl); exact h2
      · apply keeps_setFlag (hN.via rfl); refine Keeps.update 0x8 (hN.via rfl) ?_ rfl rfl rfl; exact h2

theorem keeps_execDealArm (hN : Within 0x1001ca N) (w : Func) (p : Page) (latePolicy : Bool) (action period : ℕ) (s : State)
    (hs : Keeps N s₀ s) : Keeps N s₀ (execDealArm w p latePolicy action period s) := by
  unfold execDealArm; extract_lets +onlyGivenNames y1; clear_value y1; apply keeps_access (hN.via rfl)
  · intro z2 h3; apply keeps_unlessVf (hN.via rfl)
    · intro z4 h5; apply keeps_dealCtrl (hN.via rfl); exact h5
    · exact h3
  · exact hs

theorem keeps_execCancel (hN : Within 0x1001ca N) (w : Func) (p : Page) (s : State) (hs : Keeps N s₀ s)
    : Keeps N s₀ (execCancel w p s) := by
  unfold execCancel; apply keeps_access (hN.via rfl)
  · intro z1 h2; apply keeps_unlessVf (hN.via rfl)
    · intro z3 h4; apply keeps_dealCtrl (hN.via rfl); exact h4
    · exact h2
  · exact hs

theorem keeps_counterSnapshot (hN : Within 0x2 N) (p : Page) (s : State) (hs : Keeps N s₀ s) : Keeps N s₀ (counterSnapshot p s) := by
  unfold counterSnapshot
  split
  · exact hs
  · apply Keeps.foldl
    · intro z1 z2 h3; apply keeps_wr (hN.via rfl); exact h3
    · exact hs

theorem keeps_dealAction (hN : Within 0x3fffff N) (p : Page) (action : ℕ) (s : State) (hs : Keeps N s₀ s)
    : Keeps N s₀ (dealAction p action s).2 := by
  unfold dealAction
  split
  · exact hs
  · dsimp -zeta only; apply keeps_counterSnapshot (hN.via rfl); exact hs
  · dsimp -zeta only; apply keeps_anyWake (hN.via rfl); exact hs
  · dsimp -zeta only; apply keeps_resyncGroup (hN.via rfl); exact hs
  · dsimp -zeta only; apply keeps_bankRequest (hN.via rfl); exact hs
  · dsimp -zeta only; apply keeps_voStart (hN.via rfl); exact hs
  · dsimp -zeta only; apply keeps_voStop (hN.via rfl); exact hs
  · dsimp -zeta only; apply keeps_csiFsync (hN.via rfl); exact hs
  · dsimp -zeta only; apply keeps_csiGate (hN.via rfl); exact hs
  · dsimp -zeta only; apply keeps_csiGate (hN.via rfl); exact hs
  · apply keeps_dealLaunch (hN.via rfl); exact hs
  · apply keeps_dealJob (hN.via rfl); exact hs
  · exact hs

theorem keeps_dealFire (hN : Within 0x3fffff N) (p : Page) (action : ℕ) (late : Bool) (s : State) (hs : Keeps N s₀ s)
    : Keeps N s₀ (dealFire p action late s) := by
  unfold dealFire; extract_lets +onlyGivenNames y1
  have h2 : Keeps N s₀ y1 := by
    unfold y1; apply keeps_raise (hN.via rfl); exact hs
  clear_value y1; extract_lets +onlyGivenNames y3
  have h4 : Keeps N s₀ y3 := by
    unfold y3; apply keeps_ite
    · apply keeps_raise (hN.via rfl); exact h2
    · exact h2
  clear_value y3; extract_lets +onlyGivenNames y5
  have h6 : Keeps N s₀ y5.2 := by
    unfold y5; apply keeps_dealAction (hN.via rfl); exact h4
  clear_value y5; apply keeps_ite
  · apply keeps_raise (hN.via rfl); exact h6
  · exact h6

theorem keeps_dealEval (hN : Within 0x3fffff N) (p : Page) (s : State) (hs : Keeps N s₀ s) : Keeps N s₀ (dealEval p s) := by
  unfold dealEval
  split
  · exact hs
  · extract_lets +onlyGivenNames y1; clear_value y1; extract_lets +onlyGivenNames y2; clear_value y2
    extract_lets +onlyGivenNames y3; clear_value y3; extract_lets +onlyGivenNames y4; clear_value y4
    extract_lets +onlyGivenNames y5; clear_value y5; apply keeps_ite
    · exact hs
    · apply keeps_ite
      · apply keeps_ite
        · exact hs
        · extract_lets +onlyGivenNames y6
          have h7 : Keeps N s₀ y6 := by
            unfold y6; apply keeps_dealEnd (hN.via rfl); exact hs
          clear_value y6; apply keeps_ite
          · apply keeps_raise (hN.via rfl); exact h7
          · apply keeps_ite
            · apply keeps_raise (hN.via rfl); exact h7
            · apply keeps_dealFire (hN.via rfl); exact h7
      · apply keeps_ite
        · exact hs
        · extract_lets +onlyGivenNames y8; clear_value y8; extract_lets +onlyGivenNames y9; clear_value y9
          extract_lets +onlyGivenNames y10; extract_lets +onlyGivenNames y11
          have h12 : Keeps N s₀ y11 := by
            unfold y11; refine Keeps.update 0x8 (hN.via rfl) ?_ rfl rfl rfl; exact hs
          clear_value y11; extract_lets +onlyGivenNames y13; clear_value y13; apply keeps_ite
          · apply keeps_dealSkip (hN.via rfl); exact h12
          · apply keeps_dealFire (hN.via rfl); apply keeps_dealSkip (hN.via rfl); exact h12

theorem keeps_dealOn (hN : Within 0x3fffff N) (p : Page) (action : ℕ) (s : State) (hs : Keeps N s₀ s)
    : Keeps N s₀ (dealOn p action s) := by
  unfold dealOn; apply keeps_ite
  · apply keeps_dealEval (hN.via rfl); exact hs
  · exact hs

theorem keeps_dealsDue (hN : Within 0x3fffff N) (s : State) (hs : Keeps N s₀ s) : Keeps N s₀ (dealsDue s) := by
  unfold dealsDue; apply Keeps.foldl
  · intro z1 z2 h3; apply keeps_dealEval (hN.via rfl); exact h3
  · exact hs

theorem keeps_execRtcEdge (hN : Within 0x3fffff N) (s : State) (hs : Keeps N s₀ s) : Keeps N s₀ (execRtcEdge s) := by
  unfold execRtcEdge; apply keeps_ite
  · exact hs
  · apply keeps_dealsDue (hN.via rfl); apply keeps_switchTick (hN.via rfl); apply keeps_rtcStep (hN.via rfl)
    exact hs

theorem keeps_execDealLaunch (hN : Within 0x3fffff N) (p : Page) (s : State) (hs : Keeps N s₀ s) : Keeps N s₀ (execDealLaunch p s) := by
  unfold execDealLaunch; apply keeps_dealEval (hN.via rfl); exact hs

theorem keeps_execCounterSnapshot (hN : Within 0x3fffff N) (p : Page) (s : State) (hs : Keeps N s₀ s)
    : Keeps N s₀ (execCounterSnapshot p s) := by
  unfold execCounterSnapshot; apply keeps_dealOn (hN.via rfl); exact hs

theorem keeps_execWake (hN : Within 0x3fffff N) (s : State) (hs : Keeps N s₀ s) : Keeps N s₀ (execWake s) := by
  unfold execWake; apply keeps_dealOn (hN.via rfl); exact hs

theorem keeps_execResync (hN : Within 0x3fffff N) (g : ℕ) (s : State) (hs : Keeps N s₀ s) : Keeps N s₀ (execResync g s) := by
  unfold execResync; apply keeps_dealOn (hN.via rfl); exact hs

theorem keeps_execBankSwitch (hN : Within 0x3fffff N) (g : ℕ) (s : State) (hs : Keeps N s₀ s) : Keeps N s₀ (execBankSwitch g s) := by
  unfold execBankSwitch; apply keeps_dealOn (hN.via rfl); exact hs

theorem keeps_execVoStart (hN : Within 0x3fffff N) (port : ℕ) (s : State) (hs : Keeps N s₀ s) : Keeps N s₀ (execVoStart port s) := by
  unfold execVoStart; apply keeps_dealOn (hN.via rfl); exact hs

theorem keeps_execVoStop (hN : Within 0x3fffff N) (port : ℕ) (s : State) (hs : Keeps N s₀ s) : Keeps N s₀ (execVoStop port s) := by
  unfold execVoStop; apply keeps_dealOn (hN.via rfl); exact hs

theorem keeps_execFsync (hN : Within 0x3fffff N) (r : ℕ) (s : State) (hs : Keeps N s₀ s) : Keeps N s₀ (execFsync r s) := by
  unfold execFsync; apply keeps_dealOn (hN.via rfl); exact hs

theorem keeps_execCaptureStart (hN : Within 0x3fffff N) (r : ℕ) (s : State) (hs : Keeps N s₀ s)
    : Keeps N s₀ (execCaptureStart r s) := by
  unfold execCaptureStart; apply keeps_dealOn (hN.via rfl); exact hs

theorem keeps_execCaptureStop (hN : Within 0x3fffff N) (r : ℕ) (s : State) (hs : Keeps N s₀ s) : Keeps N s₀ (execCaptureStop r s) := by
  unfold execCaptureStop; apply keeps_dealOn (hN.via rfl); exact hs

theorem keeps_execLaunch (hN : Within 0x3fffff N) (t : ℕ) (s : State) (hs : Keeps N s₀ s) : Keeps N s₀ (execLaunch t s) := by
  unfold execLaunch; apply keeps_dealOn (hN.via rfl); exact hs

theorem keeps_execJob (hN : Within 0x3fffff N) (d : ℕ) (s : State) (hs : Keeps N s₀ s) : Keeps N s₀ (execJob d s) := by
  unfold execJob; apply keeps_dealOn (hN.via rfl); exact hs

theorem keeps_setHold (hN : Within 0x80 N) (t : ℕ) (h : HoldSt) (s : State) (hs : Keeps N s₀ s) : Keeps N s₀ (setHold t h s) := by
  unfold setHold; refine Keeps.update 0x80 (hN.via rfl) ?_ rfl rfl rfl; exact hs

theorem keeps_sendCell (hN : Within 0x10010a N) (c : ℕ) (x : Cell) (s : State) (hs : Keeps N s₀ s) : Keeps N s₀ (sendCell c x s) := by
  unfold sendCell; extract_lets +onlyGivenNames y1; clear_value y1; extract_lets +onlyGivenNames y2; clear_value y2
  extract_lets +onlyGivenNames y3; clear_value y3; extract_lets +onlyGivenNames y4; clear_value y4
  apply keeps_bump (hN.via rfl); apply keeps_raise (hN.via rfl); apply keeps_wr (hN.via rfl)
  apply keeps_outputDigest (hN.via rfl); apply keeps_emit (hN.via rfl); exact hs

theorem keeps_flushCells (hN : Within 0x10018a N) (t c n : Nat) (s : State) (hs : Keeps N s₀ s) : Keeps N s₀ (flushCells t c n s) := by
  induction n generalizing s with
  | zero => exact hs
  | succ n ih =>
    unfold flushCells
    extract_lets h h' y
    have hy : Keeps N s₀ y := keeps_setHold (hN.via rfl) _ _ _ hs
    split
    · exact hy
    · split
      · exact ih _ (keeps_sendCell (hN.via rfl) _ _ _ (keeps_setHold (hN.via rfl) _ _ _ hy))
      · exact hy

theorem keeps_flushHold (hN : Within 0x10018a N) (t : ℕ) (s : State) (hs : Keeps N s₀ s) : Keeps N s₀ (flushHold t s) := by
  unfold flushHold
  split
  · exact hs
  · apply keeps_flushCells (hN.via rfl); exact hs

theorem keeps_flushHolds (hN : Within 0x10018a N) (s : State) (hs : Keeps N s₀ s) : Keeps N s₀ (flushHolds s) := by
  unfold flushHolds; apply Keeps.foldl
  · intro z1 z2 h3; apply keeps_flushHold (hN.via rfl); exact h3
  · exact hs

theorem keeps_urgentWake (hN : Within 0x100080 N) (s : State) (hs : Keeps N s₀ s) : Keeps N s₀ (urgentWake s) := by
  unfold urgentWake; apply keeps_ite
  · apply keeps_ite
    · apply keeps_sendPme (hN.via rfl); exact hs
    · exact hs
  · apply keeps_ite
    · apply keeps_emit (hN.via rfl); exact hs
    · exact hs

theorem keeps_postCell (hN : Within 0x10018a N) (t : ℕ) (x : Cell) (s : State) (hs : Keeps N s₀ s) : Keeps N s₀ (postCell t x s) := by
  unfold postCell
  split
  · exact hs
  · extract_lets +onlyGivenNames y1; apply keeps_ite
    · apply keeps_bump (hN.via rfl); apply keeps_setHold (hN.via rfl); exact hs
    · extract_lets +onlyGivenNames y2
      have h3 : Keeps N s₀ y2 := by
        unfold y2; apply keeps_setHold (hN.via rfl); exact hs
      clear_value y2; apply keeps_flushHold (hN.via rfl); apply keeps_ite
      · apply keeps_urgentWake (hN.via rfl); exact h3
      · exact h3

theorem keeps_postStatus (hN : Within 0x10018a N) (t code a0 a1 : ℕ) (s : State) (hs : Keeps N s₀ s)
    : Keeps N s₀ (postStatus t code a0 a1 s) := by
  unfold postStatus; apply keeps_postCell (hN.via rfl); exact hs

theorem keeps_execIntent (hN : Within 0x10018a N) (t : ℕ) (urgent reply : Bool) (corr id verb target confidence seat : ℕ)
    (params : List (ℕ × ℕ × ℕ)) (s : State) (hs : Keeps N s₀ s)
    : Keeps N s₀ (execIntent t urgent reply corr id verb target confidence seat params s) := by
  unfold execIntent; apply keeps_ite
  · apply keeps_postCell (hN.via rfl); exact hs
  · exact hs

theorem keeps_execStatus (hN : Within 0x10018a N) (t code a0 a1 : ℕ) (urgent : Bool) (s : State) (hs : Keeps N s₀ s)
    : Keeps N s₀ (execStatus t code a0 a1 urgent s) := by
  unfold execStatus; apply keeps_ite
  · apply keeps_postCell (hN.via rfl); exact hs
  · exact hs

theorem keeps_execEvent (hN : Within 0x10018a N) (code a0 a1 : ℕ) (urgent : Bool) (s : State) (hs : Keeps N s₀ s)
    : Keeps N s₀ (execEvent code a0 a1 urgent s) := by
  unfold execEvent; apply keeps_ite
  · apply keeps_postCell (hN.via rfl); exact hs
  · exact hs

theorem keeps_h2dAct (hN : Within 0x10018a N) (t : ℕ) (x : List Byte) (s : State) (hs : Keeps N s₀ s) : Keeps N s₀ (h2dAct t x s) := by
  unfold h2dAct; extract_lets +onlyGivenNames y1; clear_value y1; apply keeps_ite
  · extract_lets +onlyGivenNames y2; clear_value y2; extract_lets +onlyGivenNames y3
    have h4 : Keeps N s₀ y3 := by
      unfold y3; apply keeps_postCell (hN.via rfl); exact hs
    clear_value y3; apply keeps_ite
    · apply keeps_postCell (hN.via rfl); exact h4
    · exact h4
  · exact hs

theorem keeps_h2dCell (hN : Within 0x10018a N) (c : ℕ) (x : List Byte) (s : State) (hs : Keeps N s₀ s)
    : Keeps N s₀ (h2dCell c x s) := by
  unfold h2dCell; extract_lets +onlyGivenNames y1; clear_value y1; extract_lets +onlyGivenNames y2; clear_value y2
  extract_lets +onlyGivenNames y3; clear_value y3; extract_lets +onlyGivenNames y4; clear_value y4
  extract_lets +onlyGivenNames y5
  have h6 : Keeps N s₀ y5 := by
    unfold y5; apply keeps_emit (hN.via rfl); exact hs
  clear_value y5; extract_lets +onlyGivenNames y7
  have h8 : Keeps N s₀ y7 := by
    unfold y7; apply keeps_ite
    · apply keeps_hhCapture (hN.via rfl); exact h6
    · exact h6
  clear_value y7; extract_lets +onlyGivenNames y9; clear_value y9; extract_lets +onlyGivenNames y10
  have h11 : Keeps N s₀ y10 := by
    unfold y10; apply keeps_ite
    · apply keeps_h2dAct (hN.via rfl); exact h8
    · exact h8
  clear_value y10; extract_lets +onlyGivenNames y12
  have h13 : Keeps N s₀ y12 := by
    unfold y12; apply keeps_ite
    · apply keeps_postCell (hN.via rfl); exact h11
    · exact h11
  clear_value y12; extract_lets +onlyGivenNames y14
  have h15 : Keeps N s₀ y14 := by
    unfold y14; apply keeps_bump (hN.via rfl); apply keeps_wr (hN.via rfl); exact h13
  clear_value y14; apply keeps_ite
  · apply keeps_raise (hN.via rfl); exact h15
  · exact h15

theorem keeps_h2dTake (hN : Within 0x10018a N) (kind c : ℕ) (cell : List Byte) (s : State) (hs : Keeps N s₀ s)
    : Keeps N s₀ (h2dTake kind c cell s) := by
  unfold h2dTake; extract_lets +onlyGivenNames y1; clear_value y1; extract_lets +onlyGivenNames y2; clear_value y2
  apply keeps_ite
  · apply keeps_h2dCell (hN.via rfl); exact hs
  · exact hs

theorem keeps_execApplianceEvent (hN : Within 0x10018a N) (c : ℕ) (cell : List Byte) (s : State) (hs : Keeps N s₀ s)
    : Keeps N s₀ (execApplianceEvent c cell s) := by
  unfold execApplianceEvent; apply keeps_h2dTake (hN.via rfl); exact hs

theorem keeps_execConfirm (hN : Within 0x10018a N) (c : ℕ) (cell : List Byte) (s : State) (hs : Keeps N s₀ s)
    : Keeps N s₀ (execConfirm c cell s) := by
  unfold execConfirm; apply keeps_h2dTake (hN.via rfl); exact hs

theorem keeps_execSay (hN : Within 0x10018a N) (c : ℕ) (cell : List Byte) (s : State) (hs : Keeps N s₀ s)
    : Keeps N s₀ (execSay c cell s) := by
  unfold execSay; apply keeps_h2dTake (hN.via rfl); exact hs

theorem keeps_execQuery (hN : Within 0x10018a N) (c : ℕ) (cell : List Byte) (s : State) (hs : Keeps N s₀ s)
    : Keeps N s₀ (execQuery c cell s) := by
  unfold execQuery; apply keeps_h2dTake (hN.via rfl); exact hs

theorem keeps_ctxRefused (hN : Within 0xa N) (c : ℕ) (s : State) (hs : Keeps N s₀ s) : Keeps N s₀ (ctxRefused c s) := by
  unfold ctxRefused; apply keeps_bump (hN.via rfl); exact hs

theorem keeps_stopRings (hN : Within 0x82 N) (c : ℕ) (s : State) (hs : Keeps N s₀ s) : Keeps N s₀ (stopRings c s) := by
  unfold stopRings; apply keeps_setHold (hN.via rfl); apply keeps_setFlag (hN.via rfl); exact hs

theorem keeps_ringCfgWrite (hN : Within 0x10018a N) (c : ℕ) (v : Word) (s : State) (hs : Keeps N s₀ s)
    : Keeps N s₀ (ringCfgWrite c v s) := by
  unfold ringCfgWrite; extract_lets +onlyGivenNames y1; clear_value y1; extract_lets +onlyGivenNames y2
  clear_value y2; apply keeps_ite
  · apply keeps_ite
    · apply keeps_ctxRefused (hN.via rfl); exact hs
    · apply keeps_stopRings (hN.via rfl); exact hs
  · apply keeps_ite
    · apply keeps_ctxRefused (hN.via rfl); exact hs
    · extract_lets +onlyGivenNames y3
      have h4 : Keeps N s₀ y3 := by
        unfold y3; apply keeps_plainWrite (hN.via rfl); exact hs
      clear_value y3; apply keeps_ite
      · apply keeps_flushHold (hN.via rfl); apply Keeps.foldl
        · intro z5 z6 h7; apply keeps_wr (hN.via rfl); exact h7
        · exact h4
      · exact h4

theorem keeps_h2dTailWrite (hN : Within 0xa N) (c : ℕ) (v : Word) (s : State) (hs : Keeps N s₀ s)
    : Keeps N s₀ (h2dTailWrite c v s) := by
  unfold h2dTailWrite; extract_lets +onlyGivenNames y1; clear_value y1; apply keeps_ite
  · apply keeps_wr (hN.via rfl); exact hs
  · apply keeps_ctxRefused (hN.via rfl); exact hs

theorem keeps_d2hHeadWrite (hN : Within 0x10018a N) (c : ℕ) (v : Word) (s : State) (hs : Keeps N s₀ s)
    : Keeps N s₀ (d2hHeadWrite c v s) := by
  unfold d2hHeadWrite; extract_lets +onlyGivenNames y1; clear_value y1; extract_lets +onlyGivenNames y2
  clear_value y2; apply keeps_ite
  · apply keeps_flushHold (hN.via rfl); apply keeps_wr (hN.via rfl); exact hs
  · apply keeps_ctxRefused (hN.via rfl); exact hs

theorem keeps_svcRegWrite (hN : Within 0x10018a N) (c off : ℕ) (v : Word) (s : State) (hs : Keeps N s₀ s)
    : Keeps N s₀ (svcRegWrite c off v s) := by
  unfold svcRegWrite; extract_lets +onlyGivenNames y1; clear_value y1; apply keeps_ite
  · exact hs
  · apply keeps_ite
    · apply keeps_ringCfgWrite (hN.via rfl); exact hs
    · apply keeps_ite
      · apply keeps_h2dTailWrite (hN.via rfl); exact hs
      · apply keeps_ite
        · apply keeps_d2hHeadWrite (hN.via rfl); exact hs
        · apply keeps_ite
          · exact hs
          · apply keeps_ite
            · apply keeps_ctxRefused (hN.via rfl); exact hs
            · apply keeps_ite
              · apply keeps_ctxRefused (hN.via rfl); exact hs
              · apply keeps_wr (hN.via rfl); exact hs

theorem keeps_execSvcRingEnable (hN : Within 0x1001ca N) (w : Func) (c : ℕ) (v : Word) (s : State) (hs : Keeps N s₀ s)
    : Keeps N s₀ (execSvcRingEnable w c v s) := by
  unfold execSvcRingEnable; apply keeps_access (hN.via rfl)
  · intro z1 h2; apply keeps_svcRegWrite (hN.via rfl); exact h2
  · exact hs

theorem keeps_execH2dTailWrite (hN : Within 0x1001ca N) (w : Func) (c : ℕ) (v : Word) (s : State) (hs : Keeps N s₀ s)
    : Keeps N s₀ (execH2dTailWrite w c v s) := by
  unfold execH2dTailWrite; apply keeps_access (hN.via rfl)
  · intro z1 h2; apply keeps_svcRegWrite (hN.via rfl); exact h2
  · exact hs

theorem keeps_execD2hHeadWrite (hN : Within 0x1001ca N) (w : Func) (c : ℕ) (v : Word) (s : State) (hs : Keeps N s₀ s)
    : Keeps N s₀ (execD2hHeadWrite w c v s) := by
  unfold execD2hHeadWrite; apply keeps_access (hN.via rfl)
  · intro z1 h2; apply keeps_svcRegWrite (hN.via rfl); exact h2
  · exact hs

end Sys2Proof.Machine
end

