-- ==== Sys2Proof/Laws/KeepsG.lean ====
section
/-! SUPPORT. What every operation keeps (Keeps.lean), for the operations of Decks.lean, Supply.lean, Contexts.lean. -/
namespace Sys2Proof.Machine
set_option Elab.async false

variable {s₀ : State} {N : Nat}

theorem keeps_writeSlots (hN : Within 0xa0000 N) (slots : List ℕ) (ps : List (List Byte)) (s : State) (hs : Keeps N s₀ s)
    : Keeps N s₀ (writeSlots slots ps s) := by
  unfold writeSlots; apply Keeps.foldl
  · intro z1 z2 h3; extract_lets +onlyGivenNames y4
    have h5 : Keeps N s₀ y4 := by
      unfold y4; apply keeps_memWrite (hN.via rfl); exact h3
    clear_value y4; refine Keeps.update 0x20000 (hN.via rfl) ?_ rfl rfl rfl; exact h5
  · exact hs

theorem keeps_pwlStore (hN : Within 0x2 N) (t first : ℕ) (bs : List Byte) (s : State) (hs : Keeps N s₀ s)
    : Keeps N s₀ (pwlStore t first bs s) := by
  unfold pwlStore; apply Keeps.foldl
  · intro z1 z2 h3; extract_lets +onlyGivenNames y4; clear_value y4; apply keeps_ite
    · exact h3
    · apply Keeps.foldl
      · intro z5 z6 h7; apply keeps_wr (hN.via rfl); exact h7
      · apply keeps_setFlag (hN.via rfl); exact h3
  · exact hs

theorem keeps_callWrite (hN : Within 0x1000 N) (at_ : ℕ) (bs : List Byte) (s : State) (hs : Keeps N s₀ s)
    : Keeps N s₀ (callWrite at_ bs s) := by
  unfold callWrite; apply keeps_ite
  · refine Keeps.updateMem 0x1000 (hN.via rfl) ?_ ?_ ?_ ?_ rfl
    · exact hs
    · exact id
    · exact id
    · exact Memory.wf_cellsWrite
  · exact hs

theorem keeps_placeContent (hN : Within 0xa9002 N) (u : DeckUnits) (deck : List Byte) (x : Sect) (bs : List Byte) (s : State)
    (hs : Keeps N s₀ s) : Keeps N s₀ (placeContent u deck x bs s) := by
  unfold placeContent
  split
  · apply keeps_callWrite (hN.via rfl); exact hs
  · apply keeps_sramWrite (hN.via rfl); exact hs
  · apply keeps_sramWrite (hN.via rfl); exact hs
  · apply keeps_sramWrite (hN.via rfl); exact hs
  · apply keeps_pwlStore (hN.via rfl); exact hs
  · extract_lets +onlyGivenNames y1; clear_value y1; extract_lets +onlyGivenNames y2; clear_value y2
    apply keeps_writeSlots (hN.via rfl); exact hs
  · extract_lets +onlyGivenNames y3; clear_value y3; extract_lets +onlyGivenNames y4; clear_value y4
    apply keeps_writeSlots (hN.via rfl); exact hs
  · exact hs

theorem keeps_placeSect (hN : Within 0xa9002 N) (u : DeckUnits) (deck : List Byte) (x : Sect) (s : State) (hs : Keeps N s₀ s)
    : Keeps N s₀ (placeSect u deck x s) := by
  unfold placeSect; extract_lets +onlyGivenNames y1
  have h2 : Keeps N s₀ y1 := by
    unfold y1; apply keeps_placeContent (hN.via rfl); exact hs
  clear_value y1; apply keeps_ite
  · apply keeps_writeSlots (hN.via rfl); exact h2
  · exact h2

theorem keeps_wipeSect (hN : Within 0xa9002 N) (u : DeckUnits) (deck : List Byte) (x : Sect) (s : State) (hs : Keeps N s₀ s)
    : Keeps N s₀ (wipeSect u deck x s) := by
  unfold wipeSect; extract_lets +onlyGivenNames y1; clear_value y1; extract_lets +onlyGivenNames y2; clear_value y2
  extract_lets +onlyGivenNames y3; clear_value y3; extract_lets +onlyGivenNames y4; clear_value y4
  extract_lets +onlyGivenNames y5
  have h6 : Keeps N s₀ y5 := by
    unfold y5
    split
    · apply keeps_callWrite (hN.via rfl); exact hs
    · apply keeps_sramWrite (hN.via rfl); exact hs
    · apply keeps_sramWrite (hN.via rfl); exact hs
    · apply keeps_sramWrite (hN.via rfl); exact hs
    · apply keeps_pwlStore (hN.via rfl); exact hs
    · apply keeps_writeSlots (hN.via rfl); exact hs
    · apply keeps_writeSlots (hN.via rfl); exact hs
    · exact hs
  clear_value y5; apply keeps_ite
  · apply keeps_writeSlots (hN.via rfl); exact h6
  · exact h6

theorem keeps_setHandle (hN : Within 0x10 N) (h : ℕ) (x : DeckHandle) (s : State) (hs : Keeps N s₀ s)
    : Keeps N s₀ (setHandle h x s) := by
  unfold setHandle; refine Keeps.update 0x10 (hN.via rfl) ?_ rfl rfl rfl; exact hs

theorem keeps_dropHandle (hN : Within 0x10 N) (h : ℕ) (s : State) (hs : Keeps N s₀ s) : Keeps N s₀ (dropHandle h s) := by
  unfold dropHandle; refine Keeps.update 0x10 (hN.via rfl) ?_ rfl rfl rfl; exact hs

theorem keeps_mbEnd (hN : Within 0x10 N) (op handle code sect detail : ℕ) (s : State) (hs : Keeps N s₀ s)
    : Keeps N s₀ (mbEnd op handle code sect detail s) := by
  unfold mbEnd; refine Keeps.update 0x10 (hN.via rfl) ?_ rfl rfl rfl; exact hs

theorem keeps_mbShow (hN : Within 0x2 N) (c : MbCmd) (s : State) (hs : Keeps N s₀ s) : Keeps N s₀ (mbShow c s) := by
  unfold mbShow; apply keeps_wr (hN.via rfl); apply keeps_wr (hN.via rfl); exact hs

theorem keeps_burnEnd (hN : Within 0x11 N) (op : Nat) (s : State) (hs : Keeps N s₀ s) : Keeps N s₀ (burnEnd op s) := by
  unfold burnEnd
  split
  · refine Keeps.ite ⟨⟨Part.burnt_updNth _ _ hs.base.fuses, fun c => ?_, hs.base.queue⟩, hs.change hN rfl⟩ hs
    obtain ⟨a, b, d, e, f, k⟩ := hs.base.canon c
    exact ⟨by rw [Regs.wf_arb]; exact a, b, d, e, f, { k with }⟩
  · exact hs

theorem keeps_mbPost (hN : Within 0x1b N) (s : State) (hs : Keeps N s₀ s) : Keeps N s₀ (mbPost s) := by
  unfold mbPost
  split
  · exact hs
  · apply keeps_ite
    · exact hs
    · apply keeps_raise (hN.via rfl); apply keeps_setFlag (hN.via rfl); apply keeps_mbShow (hN.via rfl)
      apply keeps_burnEnd (hN.via rfl); refine Keeps.update 0x10 (hN.via rfl) ?_ rfl rfl rfl; exact hs

theorem keeps_mbAnswer (hN : Within 0x12 N) (c : MbCmd) (s : State) (hs : Keeps N s₀ s) : Keeps N s₀ (mbAnswer c s) := by
  unfold mbAnswer; apply keeps_ite
  · refine Keeps.update 0x10 (hN.via rfl) ?_ rfl rfl rfl; exact hs
  · split
    · apply keeps_ite
      · refine Keeps.update 0x10 (hN.via rfl) ?_ rfl rfl rfl; exact hs
      · exact hs
    · apply keeps_ite
      · exact hs
      · apply keeps_mbShow (hN.via rfl); exact hs

theorem keeps_deckRefuse (hN : Within 0xa905a N) (op h : ℕ) (b : Bad) (s : State) (hs : Keeps N s₀ s)
    : Keeps N s₀ (deckRefuse op h b s) := by
  unfold deckRefuse
  split
  · exact hs
  · extract_lets +onlyGivenNames y1; clear_value y1; extract_lets +onlyGivenNames y2; clear_value y2
    extract_lets +onlyGivenNames y3
    have h4 : Keeps N s₀ y3 := by
      unfold y3; apply keeps_formRec (hN.via rfl); apply keeps_bump (hN.via rfl); apply keeps_raise (hN.via rfl)
      apply keeps_dropHandle (hN.via rfl); apply Keeps.foldl
      · intro z5 z6 h7; apply keeps_wipeSect (hN.via rfl); exact h7
      · exact hs
    clear_value y3; extract_lets +onlyGivenNames y8
    have h9 : Keeps N s₀ y8 := by
      unfold y8; apply keeps_ite
      · apply keeps_setReady (hN.via rfl); exact h4
      · exact h4
    clear_value y8; apply keeps_mbAnswer (hN.via rfl); exact h9

theorem keeps_abortHandles (hN : Within 0xa905a N) (p : ℕ → DeckHandle → Bool) (s : State) (hs : Keeps N s₀ s)
    : Keeps N s₀ (abortHandles p s) := by
  unfold abortHandles; apply Keeps.foldl
  · intro z1 z2 h3; apply keeps_deckRefuse (hN.via rfl); exact h3
  · exact hs

theorem keeps_withoutDeck (hN : Within 0x12 N) (k : Deck) (s : State) (hs : Keeps N s₀ s) : Keeps N s₀ (withoutDeck k s) := by
  unfold withoutDeck; extract_lets +onlyGivenNames y1; clear_value y1; extract_lets +onlyGivenNames y2
  extract_lets +onlyGivenNames y3
  have h4 : Keeps N s₀ y3 := by
    unfold y3; refine Keeps.update 0x10 (hN.via rfl) ?_ rfl rfl rfl; exact hs
  clear_value y3; apply Keeps.foldl
  · intro z5 z6 h7; apply keeps_wr (hN.via rfl); exact h7
  · exact h4

theorem keeps_deckArrive (hN : Within 0x2a9012 N) (h : ℕ) (data : List Byte) (s : State) (hs : Keeps N s₀ s)
    : Keeps N s₀ (deckArrive h data s).2 := by
  unfold deckArrive
  split
  · exact hs
  · extract_lets +onlyGivenNames y1; clear_value y1; extract_lets +onlyGivenNames y2; clear_value y2
    extract_lets +onlyGivenNames y3; clear_value y3; extract_lets +onlyGivenNames y4
    have h5 : Keeps N s₀ y4.2 := by
      unfold y4; apply keeps_fresh (hN.via rfl); exact hs
    clear_value y4; extract_lets +onlyGivenNames y6; clear_value y6; extract_lets +onlyGivenNames y7
    have h8 : Keeps N s₀ y7 := by
      unfold y7
      split
      · apply keeps_withoutDeck (hN.via rfl); exact h5
      · exact h5
    clear_value y7; extract_lets +onlyGivenNames y9; clear_value y9
    split
    · exact h5
    · extract_lets +onlyGivenNames y10; clear_value y10; extract_lets +onlyGivenNames y11; clear_value y11
      extract_lets +onlyGivenNames y12; clear_value y12; extract_lets +onlyGivenNames y13; clear_value y13
      extract_lets +onlyGivenNames y14; clear_value y14; dsimp -zeta only; apply Keeps.foldl
      · intro z15 z16 h17; apply keeps_placeSect (hN.via rfl); exact h17
      · apply keeps_setHandle (hN.via rfl); exact h5

theorem keeps_deckTake (hN : Within 0x2a905a N) (op h : ℕ) (data : List Byte) (last : Bool) (s : State) (hs : Keeps N s₀ s)
    : Keeps N s₀ (deckTake op h data last s) := by
  unfold deckTake; extract_lets +onlyGivenNames y1; clear_value y1; extract_lets +onlyGivenNames y2
  have h3 : Keeps N s₀ y2.2 := by
    unfold y2; apply keeps_deckArrive (hN.via rfl); exact hs
  clear_value y2
  split
  · apply keeps_mbAnswer (hN.via rfl); apply keeps_dropHandle (hN.via rfl); exact h3
  · apply keeps_deckRefuse (hN.via rfl); exact h3
  · apply keeps_ite
    · apply keeps_mbEnd (hN.via rfl); exact h3
    · exact h3

theorem keeps_deckBegin (hN : Within 0x10 N) (s : State) (hs : Keeps N s₀ s) : Keeps N s₀ (deckBegin s) := by
  unfold deckBegin; extract_lets +onlyGivenNames y1; clear_value y1; extract_lets +onlyGivenNames y2; clear_value y2
  extract_lets +onlyGivenNames y3
  have h4 : ∀ z0 z1 z2 z3, Keeps N s₀ z3 → Keeps N s₀ (y3 z0 z1 z2 z3) := by
    intro z5 z6 z7 z8 h9; unfold y3; apply keeps_mbEnd (hN.via rfl); exact h9
  clear_value y3; apply keeps_ite
  · apply h4; exact hs
  · apply keeps_ite
    · apply h4; exact hs
    · apply keeps_ite
      · apply h4; exact hs
      · extract_lets +onlyGivenNames y10; clear_value y10; extract_lets +onlyGivenNames y11; clear_value y11
        apply h4; refine Keeps.update 0x10 (hN.via rfl) ?_ rfl rfl rfl; exact hs

theorem keeps_deckChunk (hN : Within 0x2a905a N) (h : ℕ) (s : State) (hs : Keeps N s₀ s) : Keeps N s₀ (deckChunk h s) := by
  unfold deckChunk
  split
  · apply keeps_mbEnd (hN.via rfl); exact hs
  · extract_lets +onlyGivenNames y1; clear_value y1; extract_lets +onlyGivenNames y2; clear_value y2
    apply keeps_ite
    · apply keeps_mbEnd (hN.via rfl); exact hs
    · apply keeps_ite
      · apply keeps_mbEnd (hN.via rfl); exact hs
      · apply keeps_ite
        · apply keeps_mbEnd (hN.via rfl); exact hs
        · apply keeps_deckTake (hN.via rfl); exact hs

theorem keeps_deckDma (hN : Within 0x1a905a N) (h : ℕ) (list : List Byte) (s : State) (hs : Keeps N s₀ s)
    : Keeps N s₀ (deckDma h list s) := by
  unfold deckDma
  split
  · apply keeps_mbEnd (hN.via rfl); exact hs
  · extract_lets +onlyGivenNames y1; clear_value y1; extract_lets +onlyGivenNames y2; clear_value y2
    apply keeps_ite
    · apply keeps_mbEnd (hN.via rfl); exact hs
    · apply keeps_ite
      · apply keeps_mbEnd (hN.via rfl); exact hs
      · extract_lets +onlyGivenNames y3
        have h4 : Keeps N s₀ y3 := by
          unfold y3; apply keeps_emit (hN.via rfl); exact hs
        clear_value y3; apply keeps_ite
        · apply keeps_deckRefuse (hN.via rfl); exact h4
        · apply keeps_ite
          · apply keeps_mbEnd (hN.via rfl); exact h4
          · apply keeps_mbEnd (hN.via rfl); apply Keeps.foldl
            · intro z5 z6 h7; apply keeps_emit (hN.via rfl); exact h7
            · apply keeps_setHandle (hN.via rfl); exact h4

theorem keeps_execDeckDmaCompletion (hN : Within 0x3a905a N) (h : ℕ) (ans : Option HostData) (s : State) (hs : Keeps N s₀ s)
    : Keeps N s₀ (execDeckDmaCompletion h ans s) := by
  unfold execDeckDmaCompletion
  split
  · exact hs
  · apply keeps_ite
    · exact hs
    · split
      · apply keeps_emit (hN.via rfl); apply keeps_bump (hN.via rfl); apply keeps_setHandle (hN.via rfl); exact hs
      · extract_lets +onlyGivenNames y1; clear_value y1; extract_lets +onlyGivenNames y2; clear_value y2
        extract_lets +onlyGivenNames y3
        have h4 : Keeps N s₀ y3 := by
          unfold y3; apply keeps_ite
          · apply keeps_setHandle (hN.via rfl); exact hs
          · exact hs
        clear_value y3; apply keeps_deckTake (hN.via rfl); exact h4
      · apply keeps_deckRefuse (hN.via rfl); exact hs

theorem keeps_deckPri (hN : Within 0x1a905a N) (h code : ℕ) (s : State) (hs : Keeps N s₀ s) : Keeps N s₀ (deckPri h code s) := by
  unfold deckPri
  split
  · exact hs
  · apply keeps_ite
    · exact hs
    · apply keeps_ite
      · extract_lets +onlyGivenNames y1; clear_value y1; apply keeps_emit (hN.via rfl)
        apply keeps_setHandle (hN.via rfl); exact hs
      · apply keeps_deckRefuse (hN.via rfl); exact hs

theorem keeps_addRegions (hN : Within 0x20002 N) (k : Deck) (s : State) (hs : Keeps N s₀ s) : Keeps N s₀ (addRegions k s) := by
  unfold addRegions; apply Keeps.foldl
  · intro z1 z2 h3; apply keeps_regionApply (hN.via rfl); exact h3
  · exact hs

theorem keeps_regionsAgain (hN : Within 0x20012 N) (s : State) (hs : Keeps N s₀ s) : Keeps N s₀ (regionsAgain s) := by
  unfold regionsAgain; apply keeps_ite
  · apply Keeps.foldl
    · intro z1 z2 h3; apply keeps_addRegions (hN.via rfl); exact h3
    · refine Keeps.update 0x10 (hN.via rfl) ?_ rfl rfl rfl; exact hs
  · exact hs

theorem keeps_dropRegions (hN : Within 0x20002 N) (k : Deck) (s : State) (hs : Keeps N s₀ s) : Keeps N s₀ (dropRegions k s) := by
  unfold dropRegions; extract_lets +onlyGivenNames y1; clear_value y1; apply Keeps.foldl
  · intro z2 z3 h4; apply keeps_regionApply (hN.via rfl); exact h4
  · exact hs

theorem keeps_addEntry (hN : Within 0x2 N) (slot : ℕ) (x : Sect) (s : State) (hs : Keeps N s₀ s) : Keeps N s₀ (addEntry slot x s) := by
  unfold addEntry; extract_lets +onlyGivenNames y1; clear_value y1; extract_lets +onlyGivenNames y2; clear_value y2
  split
  · exact hs
  · apply keeps_wr (hN.via rfl); apply keeps_wr (hN.via rfl); exact hs

theorem keeps_dropEntries (hN : Within 0x42 N) (slot : ℕ) (s : State) (hs : Keeps N s₀ s) : Keeps N s₀ (dropEntries slot s) := by
  unfold dropEntries; extract_lets +onlyGivenNames y1; extract_lets +onlyGivenNames y2
  have h3 : Keeps N s₀ y2 := by
    unfold y2; refine Keeps.update 0x40 (hN.via rfl) ?_ rfl rfl rfl; exact hs
  clear_value y2; apply Keeps.foldl
  · intro z4 z5 h6; apply Keeps.foldl
    · intro z7 z8 h9; extract_lets +onlyGivenNames y10; clear_value y10; apply keeps_ite
      · apply keeps_wr (hN.via rfl); apply keeps_wr (hN.via rfl)
        refine Keeps.update 0x40 (hN.via rfl) ?_ rfl rfl rfl; exact h9
      · exact h9
    · exact h6
  · exact h3

theorem keeps_lockTables (hN : Within 0x2 N) (deck : List Byte) (on : Bool) (s : State) (hs : Keeps N s₀ s)
    : Keeps N s₀ (lockTables deck on s) := by
  unfold lockTables; apply Keeps.foldl
  · intro z1 z2 h3; apply Keeps.foldl
    · intro z4 z5 h6; extract_lets +onlyGivenNames y7; clear_value y7; apply keeps_setFlag (hN.via rfl)
      apply keeps_setFlag (hN.via rfl); exact h6
    · exact h3
  · exact hs

theorem keeps_deckChanged (hN : Within 0x10a N) (s : State) (hs : Keeps N s₀ s) : Keeps N s₀ (deckChanged s) := by
  unfold deckChanged; apply keeps_ite
  · apply keeps_bump (hN.via rfl); apply keeps_setFlag (hN.via rfl); apply keeps_raise (hN.via rfl)
    apply keeps_hhCapture (hN.via rfl); exact hs
  · exact hs

theorem keeps_serviceStart (hN : Within 0x20101a N) (deck : List Byte) (s : State) (hs : Keeps N s₀ s) :
    Keeps N s₀ (serviceStart deck s) := by
  unfold serviceStart
  extract_lets f on
  have hf : Keeps N s₀ f.2 := keeps_fresh (hN.via rfl) _ hs
  apply keeps_ceRestart (hN.via rfl); apply keeps_setReady (hN.via rfl); apply keeps_wr (hN.via rfl); apply keeps_setFlag (hN.via rfl)
  refine Keeps.update 0x10 (hN.via rfl) hf rfl rfl rfl

theorem keeps_reloadEnd (hN : Within 0x3e N) (s : State) (hs : Keeps N s₀ s) : Keeps N s₀ (reloadEnd s) := by
  unfold reloadEnd; apply keeps_ite
  · exact hs
  · extract_lets +onlyGivenNames y1; extract_lets +onlyGivenNames y2
    have h3 : Keeps N s₀ y2 := by
      unfold y2; apply keeps_setReady (hN.via rfl); refine Keeps.update 0x20 (hN.via rfl) ?_ rfl rfl rfl; exact hs
    clear_value y2; apply keeps_ite
    · apply keeps_startClimb (hN.via rfl); exact h3
    · exact h3

theorem keeps_deckInstall (hN : Within 0x22137e N) (h slot : ℕ) (x : DeckHandle) (s : State) (hs : Keeps N s₀ s)
    : Keeps N s₀ (deckInstall h slot x s) := by
  unfold deckInstall; extract_lets +onlyGivenNames y1; clear_value y1; extract_lets +onlyGivenNames y2
  clear_value y2; extract_lets +onlyGivenNames y3; clear_value y3; extract_lets +onlyGivenNames y4; clear_value y4
  extract_lets +onlyGivenNames y5; extract_lets +onlyGivenNames y6
  have h7 : Keeps N s₀ y6 := by
    unfold y6; apply keeps_bump (hN.via rfl); apply keeps_dropHandle (hN.via rfl)
    refine Keeps.update 0x10 (hN.via rfl) ?_ rfl rfl rfl; exact hs
  clear_value y6; extract_lets +onlyGivenNames y8
  have h9 : Keeps N s₀ y8 := by
    unfold y8; apply keeps_ite
    · exact h7
    · apply keeps_addRegions (hN.via rfl); exact h7
  clear_value y8; extract_lets +onlyGivenNames y10
  have h11 : Keeps N s₀ y10 := by
    unfold y10; apply keeps_ite
    · apply keeps_setReady (hN.via rfl); exact h9
    · exact h9
  clear_value y10; extract_lets +onlyGivenNames y12
  have h13 : Keeps N s₀ y12 := by
    unfold y12; apply keeps_dropEntries (hN.via rfl); exact h11
  clear_value y12; extract_lets +onlyGivenNames y14
  have h15 : Keeps N s₀ y14 := by
    unfold y14
    split
    · apply keeps_setReady (hN.via rfl); apply keeps_setReady (hN.via rfl); apply keeps_setReady (hN.via rfl)
      apply keeps_diceLayer (hN.via rfl); exact h7
    · apply keeps_ite
      · exact h7
      · apply keeps_serviceStart (hN.via rfl); apply keeps_addRegions (hN.via rfl); exact h7
    · apply keeps_lockTables (hN.via rfl); apply Keeps.foldl
      · intro z16 z17 h18; apply keeps_addEntry (hN.via rfl); exact h18
      · exact h13
  clear_value y14; apply keeps_reloadEnd (hN.via rfl); apply keeps_deckChanged (hN.via rfl); exact h15

theorem keeps_deckFinish (hN : Within 0x2a937e N) (h : ℕ) (s : State) (hs : Keeps N s₀ s) : Keeps N s₀ (deckFinish h s) := by
  unfold deckFinish
  split
  · apply keeps_mbEnd (hN.via rfl); exact hs
  · extract_lets +onlyGivenNames y1; clear_value y1; extract_lets +onlyGivenNames y2; clear_value y2
    extract_lets +onlyGivenNames y3; clear_value y3; extract_lets +onlyGivenNames y4; clear_value y4
    extract_lets +onlyGivenNames y5; clear_value y5; extract_lets +onlyGivenNames y6; clear_value y6
    apply keeps_ite
    · apply keeps_mbEnd (hN.via rfl); exact hs
    · apply keeps_ite
      · apply keeps_mbEnd (hN.via rfl); exact hs
      · apply keeps_ite
        · apply keeps_mbEnd (hN.via rfl); exact hs
        · apply keeps_ite
          · extract_lets +onlyGivenNames y7
            have h8 : Keeps N s₀ y7.2 := by
              unfold y7; apply keeps_fresh (hN.via rfl); exact hs
            clear_value y7; apply keeps_deckRefuse (hN.via rfl); exact h8
          · apply keeps_ite
            · apply keeps_deckRefuse (hN.via rfl); exact hs
            · apply keeps_mbEnd (hN.via rfl); apply keeps_deckInstall (hN.via rfl); exact hs

theorem keeps_svnCommit (hN : Within 0x10 N) (s : State) (hs : Keeps N s₀ s) : Keeps N s₀ (svnCommit s) := by
  unfold svnCommit; extract_lets +onlyGivenNames y1; clear_value y1; extract_lets +onlyGivenNames y2; clear_value y2
  apply keeps_ite
  · apply keeps_mbEnd (hN.via rfl); exact hs
  · split
    · apply keeps_mbEnd (hN.via rfl); exact hs
    · extract_lets +onlyGivenNames y3; clear_value y3; apply keeps_mbEnd (hN.via rfl)
      refine Keeps.update 0x10 (hN.via rfl) ?_ rfl rfl rfl; exact hs

theorem keeps_unbindNow (hN : Within 0xa N) (c : ℕ) (s : State) (hs : Keeps N s₀ s) : Keeps N s₀ (unbindNow c s) := by
  unfold unbindNow; apply keeps_raise (hN.via rfl); apply keeps_setFlag (hN.via rfl)
  apply keeps_setFld (hN.via rfl); apply keeps_setFld (hN.via rfl); exact hs

theorem keeps_modelUnload (hN : Within 0x201fe N) (s : State) (hs : Keeps N s₀ s) : Keeps N s₀ (modelUnload s) := by
  unfold modelUnload; extract_lets +onlyGivenNames y1; clear_value y1; apply keeps_ite
  · apply keeps_mbEnd (hN.via rfl); exact hs
  · split
    · apply keeps_mbEnd (hN.via rfl); exact hs
    · apply keeps_ite
      · apply keeps_mbEnd (hN.via rfl); exact hs
      · extract_lets +onlyGivenNames y2
        have h3 : Keeps N s₀ y2 := by
          unfold y2; apply Keeps.foldl
          · intro z4 z5 h6; apply keeps_unbindNow (hN.via rfl); exact h6
          · exact hs
        clear_value y2; apply keeps_mbEnd (hN.via rfl); apply keeps_reloadEnd (hN.via rfl)
        apply keeps_deckChanged (hN.via rfl); apply keeps_setReady (hN.via rfl); apply keeps_lockTables (hN.via rfl)
        apply keeps_dropEntries (hN.via rfl); apply keeps_dropRegions (hN.via rfl)
        refine Keeps.update 0x90 (hN.via rfl) ?_ rfl rfl rfl; exact h3

theorem keeps_mbRun (hN : Within 0x3a93fe N) (op h : ℕ) (list : List Byte) (s : State) (hs : Keeps N s₀ s)
    : Keeps N s₀ (mbRun op h list s) := by
  unfold mbRun
  split
  · apply keeps_deckBegin (hN.via rfl); exact hs
  · apply keeps_deckChunk (hN.via rfl); exact hs
  · apply keeps_deckDma (hN.via rfl); exact hs
  · apply keeps_deckFinish (hN.via rfl); exact hs
  · apply keeps_ite
    · apply keeps_deckRefuse (hN.via rfl); exact hs
    · apply keeps_mbEnd (hN.via rfl); exact hs
  · apply keeps_svnCommit (hN.via rfl); exact hs
  · apply keeps_modelUnload (hN.via rfl); exact hs
  · apply keeps_mbEnd (hN.via rfl); exact hs

theorem keeps_mbCmdWrite (hN : Within 0x3a93fe N) (v : Word) (list : List Byte) (s : State) (hs : Keeps N s₀ s)
    : Keeps N s₀ (mbCmdWrite v list s) := by
  unfold mbCmdWrite; apply keeps_ite
  · exact hs
  · apply keeps_ite
    · apply keeps_bump (hN.via rfl); exact hs
    · extract_lets +onlyGivenNames y1; clear_value y1; extract_lets +onlyGivenNames y2
      have h3 : Keeps N s₀ y2 := by
        unfold y2; apply keeps_wr (hN.via rfl); exact hs
      clear_value y2; apply keeps_ite
      · apply keeps_mbRun (hN.via rfl); exact h3
      · exact h3

theorem keeps_mbCommand (hN : Within 0x3a93fe N) (w : Func) (op h : ℕ) (list : List Byte) (s : State) (hs : Keeps N s₀ s)
    : Keeps N s₀ (mbCommand w op h list s) := by
  unfold mbCommand; extract_lets +onlyGivenNames y1; clear_value y1; apply keeps_accessWith (hN.via rfl)
  · intro z2 h3; apply keeps_mbCmdWrite (hN.via rfl); exact h3
  · exact hs

theorem keeps_execDeckBegin (hN : Within 0x3a93fe N) (w : Func) (s : State) (hs : Keeps N s₀ s) : Keeps N s₀ (execDeckBegin w s) := by
  unfold execDeckBegin; apply keeps_mbCommand (hN.via rfl); exact hs

theorem keeps_execDeckChunk (hN : Within 0x3a93fe N) (w : Func) (h : ℕ) (s : State) (hs : Keeps N s₀ s)
    : Keeps N s₀ (execDeckChunk w h s) := by
  unfold execDeckChunk; apply keeps_mbCommand (hN.via rfl); exact hs

theorem keeps_execDeckDma (hN : Within 0x3a93fe N) (w : Func) (h : ℕ) (list : List Byte) (s : State) (hs : Keeps N s₀ s)
    : Keeps N s₀ (execDeckDma w h list s) := by
  unfold execDeckDma; apply keeps_mbCommand (hN.via rfl); exact hs

theorem keeps_execDeckFinish (hN : Within 0x3a93fe N) (w : Func) (h : ℕ) (s : State) (hs : Keeps N s₀ s)
    : Keeps N s₀ (execDeckFinish w h s) := by
  unfold execDeckFinish; apply keeps_mbCommand (hN.via rfl); exact hs

theorem keeps_execDeckAbort (hN : Within 0x3a93fe N) (w : Func) (h : ℕ) (s : State) (hs : Keeps N s₀ s)
    : Keeps N s₀ (execDeckAbort w h s) := by
  unfold execDeckAbort; apply keeps_mbCommand (hN.via rfl); exact hs

theorem keeps_execSvnCommit (hN : Within 0x3a93fe N) (w : Func) (s : State) (hs : Keeps N s₀ s) : Keeps N s₀ (execSvnCommit w s) := by
  unfold execSvnCommit; apply keeps_mbCommand (hN.via rfl); exact hs

theorem keeps_execModelUnload (hN : Within 0x3a93fe N) (w : Func) (s : State) (hs : Keeps N s₀ s)
    : Keeps N s₀ (execModelUnload w s) := by
  unfold execModelUnload; apply keeps_mbCommand (hN.via rfl); exact hs

theorem keeps_execStagingWrite (hN : Within 0x1000da N) (off : ℕ) (data : List Byte) (s : State) (hs : Keeps N s₀ s)
    : Keeps N s₀ (execStagingWrite off data s) := by
  unfold execStagingWrite
  split
  · apply keeps_emit (hN.via rfl); exact hs
  · apply keeps_hold (hN.via rfl); exact hs
  · apply keeps_ite
    · apply keeps_formRec (hN.via rfl); apply keeps_bump (hN.via rfl); apply keeps_bump (hN.via rfl); exact hs
    · refine Keeps.updateMem 0x10 (hN.via rfl) ?_ ?_ ?_ ?_ rfl
      · exact hs
      · exact id
      · exact fun c => Memory.wf_filter (Memory.wf_cellsWrite c)
      · exact id
  · exact hs

theorem keeps_execDiesReady (hN : Within 0xa001a N) (s : State) (hs : Keeps N s₀ s) : Keeps N s₀ (execDiesReady s) := by
  unfold execDiesReady; apply keeps_ite
  · exact hs
  · extract_lets +onlyGivenNames y1; extract_lets +onlyGivenNames y2
    have h3 : Keeps N s₀ y2 := by
      unfold y2; apply keeps_setReady (hN.via rfl); refine Keeps.updateMem 0xa0000 (hN.via rfl) ?_ ?_ ?_ ?_ rfl
      · exact hs
      · exact fun _ => rfl
      · exact id
      · exact id
    clear_value y2; extract_lets +onlyGivenNames y4
    have h5 : Keeps N s₀ y4 := by
      unfold y4; apply Keeps.foldl
      · intro z6 z7 h8; apply keeps_ite
        · apply keeps_setFlag (hN.via rfl); apply keeps_trainStack (hN.via rfl); exact h8
        · exact h8
      · exact h3
    clear_value y4; apply Keeps.foldl
    · intro z9 z10 h11; apply keeps_ite
      · apply keeps_trainLinks (hN.via rfl); exact h11
      · exact h11
    · exact h5

theorem keeps_execServiceReady (hN : Within 0x10018a N) (s : State) (hs : Keeps N s₀ s) : Keeps N s₀ (execServiceReady s) := by
  unfold execServiceReady; apply keeps_ite
  · exact hs
  · extract_lets +onlyGivenNames y1; clear_value y1; extract_lets +onlyGivenNames y2
    have h3 : Keeps N s₀ y2 := by
      unfold y2; apply keeps_ite
      · exact hs
      · apply Keeps.foldl
        · intro z4 z5 h6; apply keeps_setReady (hN.via rfl); exact h6
        · apply keeps_setFlag (hN.via rfl); apply keeps_setReady (hN.via rfl); exact hs
    clear_value y2; apply keeps_ite
    · apply Keeps.foldl
      · intro z7 z8 h9; apply keeps_postStatus (hN.via rfl); exact h9
      · exact h3
    · exact h3

theorem keeps_execModelRestarted (hN : Within 0x180a N) (s : State) (hs : Keeps N s₀ s) : Keeps N s₀ (execModelRestarted s) := by
  unfold execModelRestarted
  split
  · apply keeps_ite
    · extract_lets +onlyGivenNames y1
      have h2 : Keeps N s₀ y1 := by
        unfold y1; apply Keeps.foldl
        · intro z3 z4 h5; apply keeps_callWrite (hN.via rfl); exact h5
        · exact hs
      clear_value y1; apply keeps_ceAccept (hN.via rfl); apply keeps_setFlag (hN.via rfl)
      apply keeps_setFlag (hN.via rfl); refine Keeps.update 0x1000 (hN.via rfl) ?_ rfl rfl rfl; exact h2
    · exact hs
  · exact hs

theorem keeps_restoreDeck (hN : Within 0xa9052 N) (k : Deck) (s : State) (hs : Keeps N s₀ s) : Keeps N s₀ (restoreDeck k s) := by
  unfold restoreDeck; apply keeps_ite
  · exact hs
  · apply keeps_ite
    · refine Keeps.update 0x10 (hN.via rfl) ?_ rfl rfl rfl; exact hs
    · extract_lets +onlyGivenNames y1
      have h2 : Keeps N s₀ y1 := by
        unfold y1; apply Keeps.foldl
        · intro z3 z4 h5
          split
          · apply keeps_placeContent (hN.via rfl); exact h5
          · exact h5
        · exact hs
      clear_value y1; apply keeps_ite
      · extract_lets +onlyGivenNames y6
        have h7 : Keeps N s₀ y6 := by
          unfold y6; apply keeps_dropEntries (hN.via rfl); exact h2
        clear_value y6; apply keeps_lockTables (hN.via rfl); apply Keeps.foldl
        · intro z8 z9 h10; apply keeps_addEntry (hN.via rfl); exact h10
        · exact h7
      · exact h2

theorem keeps_execRestoreDone (hN : Within 0x1e907e N) (s : State) (hs : Keeps N s₀ s) : Keeps N s₀ (execRestoreDone s) := by
  unfold execRestoreDone; apply keeps_ite
  · exact hs
  · extract_lets +onlyGivenNames y1
    have h2 : Keeps N s₀ y1 := by
      unfold y1; apply Keeps.foldl
      · intro z3 z4 h5; apply keeps_restoreDeck (hN.via rfl); exact h5
      · exact hs
    clear_value y1; extract_lets +onlyGivenNames y6
    have h7 : Keeps N s₀ y6 := by
      unfold y6; apply keeps_raise (hN.via rfl); apply keeps_setFld (hN.via rfl); exact h2
    clear_value y6; extract_lets +onlyGivenNames y8; extract_lets +onlyGivenNames y9
    have h10 : Keeps N s₀ y9 := by
      unfold y9; apply keeps_ite
      · refine Keeps.update 0x20 (hN.via rfl) ?_ rfl rfl rfl; exact h7
      · apply keeps_setReady (hN.via rfl); exact h7
    clear_value y9; extract_lets +onlyGivenNames y11; extract_lets +onlyGivenNames y12
    have h13 : Keeps N s₀ y12 := by
      unfold y12; refine Keeps.update 0x20 (hN.via rfl) ?_ rfl rfl rfl; exact h10
    clear_value y12; apply keeps_ite
    · apply keeps_settleQueues (hN.via rfl); apply keeps_climbOn (hN.via rfl); exact h13
    · exact h13

theorem keeps_mainPowerLost (hN : Within 0x3ffdff N) (s : State) (hs : Keeps N s₀ s) : Keeps N s₀ (mainPowerLost s) := by
  unfold mainPowerLost; extract_lets +onlyGivenNames y1
  have h2 : Keeps N s₀ y1 := by
    unfold y1; apply keeps_burnCut (hN.via rfl); apply keeps_abortHandles (hN.via rfl)
    apply keeps_unwake (hN.via rfl); exact hs
  clear_value y1; extract_lets +onlyGivenNames y3
  have h4 : Keeps N s₀ y3 := by
    unfold y3; apply Keeps.foldl
    · intro z5 z6 h7; apply keeps_domainTo (hN.via rfl); exact h7
    · exact h2
  clear_value y3; apply keeps_setFlag (hN.via rfl); refine Keeps.updateMem 0xc00b4 (hN.via rfl) ?_ ?_ ?_ ?_ rfl
  · exact h4
  · exact fun _ => rfl
  · exact fun _ => rfl
  · exact id

theorem keeps_execPowerGoodFailure (hN : Within 0x3ffdff N) (r : Rail) (s : State) (hs : Keeps N s₀ s)
    : Keeps N s₀ (execPowerGoodFailure r s) := by
  unfold execPowerGoodFailure; extract_lets +onlyGivenNames y1; clear_value y1; apply keeps_ite
  · apply keeps_mainPowerLost (hN.via rfl); exact hs
  · exact hs

theorem keeps_execPowerLoss (hN : Within 0x3fffff N) (s : State) (hs : Keeps N s₀ s) : Keeps N s₀ (execPowerLoss s) := by
  unfold execPowerLoss; extract_lets +onlyGivenNames y1
  have h2 : Keeps N s₀ y1 := by
    unfold y1; apply keeps_wholeReset (hN.via rfl); apply keeps_burnCut (hN.via rfl); exact hs
  clear_value y1; refine Keeps.update 0x34 (hN.via rfl) ?_ rfl rfl rfl; exact h2

theorem keeps_execTripShutdown (hN : Within 0x3ffdff N) (s : State) (hs : Keeps N s₀ s) :
    Keeps N s₀ (execTripShutdown s) := by
  unfold execTripShutdown
  split
  · split
    · have h : Keeps N s₀ (mainPowerLost s) := keeps_mainPowerLost (hN.via rfl) _ hs
      generalize mainPowerLost s = u at h ⊢
      refine Keeps.update 0x20 (hN.via rfl) h rfl rfl rfl
    · exact hs
  · exact hs

theorem keeps_withdrawAt (hN : Within 0x2c04a N) (g : Page) (s : State) (hs : Keeps N s₀ s) : Keeps N s₀ (withdrawAt g s) := by
  unfold withdrawAt; extract_lets +onlyGivenNames y1; clear_value y1; extract_lets +onlyGivenNames y2
  extract_lets +onlyGivenNames y3
  have h4 : Keeps N s₀ y3 := by
    unfold y3; apply keeps_expertClear (hN.via rfl); refine Keeps.update 0x8 (hN.via rfl) ?_ rfl rfl rfl; exact hs
  clear_value y3; extract_lets +onlyGivenNames y5
  have h6 : Keeps N s₀ y5 := by
    unfold y5; apply keeps_ite
    · exact h4
    · apply keeps_bump (hN.via rfl); exact h4
  clear_value y5; apply Keeps.foldl
  · intro z7 z8 h9; apply keeps_accessError (hN.via rfl); exact h9
  · exact h6

theorem keeps_withdraw (hN : Within 0x2c04a N) (p : Page → ℕ → Bool) (s : State) (hs : Keeps N s₀ s) : Keeps N s₀ (withdraw p s) := by
  unfold withdraw; apply Keeps.foldl
  · intro z1 z2 h3; apply keeps_withdrawAt (hN.via rfl); exact h3
  · exact hs

theorem keeps_setCtxState (hN : Within 0x2 N) (c n : ℕ) (s : State) (hs : Keeps N s₀ s) : Keeps N s₀ (setCtxState c n s) := by
  unfold setCtxState; apply keeps_setFld (hN.via rfl); exact hs

theorem keeps_ctxResult (hN : Within 0xa N) (c code : ℕ) (s : State) (hs : Keeps N s₀ s) : Keeps N s₀ (ctxResult c code s) := by
  unfold ctxResult; apply keeps_raise (hN.via rfl); apply keeps_setFlag (hN.via rfl)
  apply keeps_setFld (hN.via rfl); exact hs

theorem keeps_ctxCreate (hN : Within 0x6c08a N) (w : Func) (c : ℕ) (s : State) (hs : Keeps N s₀ s) : Keeps N s₀ (ctxCreate w c s) := by
  unfold ctxCreate; extract_lets +onlyGivenNames y1; clear_value y1; extract_lets +onlyGivenNames y2; clear_value y2
  extract_lets +onlyGivenNames y3; clear_value y3; apply keeps_ite
  · apply keeps_ctxResult (hN.via rfl); apply keeps_ite
    · apply keeps_ctxRefused (hN.via rfl); apply keeps_tdiRefuse (hN.via rfl); exact hs
    · exact hs
  · extract_lets +onlyGivenNames y4; extract_lets +onlyGivenNames y5; extract_lets +onlyGivenNames y6
    have h7 : Keeps N s₀ y6 := by
      unfold y6; apply keeps_setFlag (hN.via rfl); apply keeps_setCtxState (hN.via rfl)
      apply keeps_setFld (hN.via rfl); apply keeps_setFlag (hN.via rfl); apply keeps_clearQueues (hN.via rfl)
      refine Keeps.update 0x80 (hN.via rfl) ?_ rfl rfl rfl; exact hs
    clear_value y6; apply keeps_ctxResult (hN.via rfl); apply keeps_ite
    · exact h7
    · apply keeps_expertClear (hN.via rfl); apply keeps_setFld (hN.via rfl); exact h7

theorem keeps_bindDone (hN : Within 0x30018a N) (c slot : ℕ) (s : State) (hs : Keeps N s₀ s) : Keeps N s₀ (bindDone c slot s) := by
  unfold bindDone; extract_lets +onlyGivenNames y1; clear_value y1; extract_lets +onlyGivenNames y2; clear_value y2
  extract_lets +onlyGivenNames y3
  have h4 : Keeps N s₀ y3 := by
    unfold y3; apply keeps_ctxResult (hN.via rfl); apply keeps_setCtxState (hN.via rfl)
    refine Keeps.update 0x200000 (hN.via rfl) ?_ rfl rfl rfl; exact hs
  clear_value y3; extract_lets +onlyGivenNames y5
  have h6 : ∀ z0 z1, Keeps N s₀ z1 → Keeps N s₀ (y5 z0 z1) := by
    intro z7 z8 h9; unfold y5; apply keeps_postStatus (hN.via rfl); exact h9
  clear_value y5; extract_lets +onlyGivenNames y10
  have h11 : Keeps N s₀ y10 := by
    unfold y10; apply h6; exact h4
  clear_value y10; apply keeps_ite
  · exact h11
  · apply h6; exact h11

theorem keeps_ctxBind (hN : Within 0x30018a N) (c slot : ℕ) (s : State) (hs : Keeps N s₀ s) : Keeps N s₀ (ctxBind c slot s) := by
  unfold ctxBind; apply keeps_ite
  · apply keeps_ctxResult (hN.via rfl); exact hs
  · apply keeps_ite
    · apply keeps_ctxResult (hN.via rfl); exact hs
    · extract_lets +onlyGivenNames y1; extract_lets +onlyGivenNames y2; extract_lets +onlyGivenNames y3
      have h4 : Keeps N s₀ y3 := by
        unfold y3; apply keeps_setCtxState (hN.via rfl); apply keeps_setFld (hN.via rfl)
        refine Keeps.update 0x80 (hN.via rfl) ?_ rfl rfl rfl; exact hs
      clear_value y3; apply keeps_ite
      · apply keeps_bindDone (hN.via rfl); exact h4
      · exact h4

theorem keeps_execBindComplete (hN : Within 0x30018a N) (slot : ℕ) (s : State) (hs : Keeps N s₀ s)
    : Keeps N s₀ (execBindComplete slot s) := by
  unfold execBindComplete; extract_lets +onlyGivenNames y1; clear_value y1
  split
  · exact hs
  · apply keeps_ite
    · exact hs
    · extract_lets +onlyGivenNames y2; clear_value y2; extract_lets +onlyGivenNames y3
      extract_lets +onlyGivenNames y4
      have h5 : Keeps N s₀ y4 := by
        unfold y4; refine Keeps.update 0x80 (hN.via rfl) ?_ rfl rfl rfl; exact hs
      clear_value y4; apply Keeps.foldl
      · intro z6 z7 h8; apply keeps_bindDone (hN.via rfl); exact h8
      · exact h5

theorem keeps_stopQueues (hN : Within 0x14000a N) (c : ℕ) (s : State) (hs : Keeps N s₀ s) : Keeps N s₀ (stopQueues c s) := by
  unfold stopQueues; apply Keeps.foldl
  · intro z1 z2 h3; apply keeps_settleQueue (hN.via rfl); apply keeps_doorbellOp (hN.via rfl); exact h3
  · exact hs

theorem keeps_destroyBegin (hN : Within 0x14000a N) (c : ℕ) (s : State) (hs : Keeps N s₀ s) : Keeps N s₀ (destroyBegin c s) := by
  unfold destroyBegin; apply keeps_startCmd (hN.via rfl); apply keeps_stopQueues (hN.via rfl)
  apply keeps_setCtxState (hN.via rfl); exact hs

theorem keeps_dropOwner (hN : Within 0x800a N) (c a : ℕ) (s : State) (hs : Keeps N s₀ s) : Keeps N s₀ (dropOwner c a s) := by
  unfold dropOwner
  split
  · exact hs
  · split
    · apply keeps_ite
      · apply keeps_setReg (hN.via rfl); exact hs
      · exact hs
    · apply keeps_ite
      · apply keeps_setReg (hN.via rfl); exact hs
      · apply keeps_ite
        · extract_lets +onlyGivenNames y1; clear_value y1; apply keeps_ite
          · apply keeps_tileRegionWrite (hN.via rfl); exact hs
          · exact hs
        · exact hs
    · exact hs

theorem keeps_releaseOwned (hN : Within 0x800a N) (c : ℕ) (s : State) (hs : Keeps N s₀ s) : Keeps N s₀ (releaseOwned c s) := by
  unfold releaseOwned; extract_lets +onlyGivenNames y1
  have h2 : Keeps N s₀ y1 := by
    unfold y1; apply Keeps.foldl
    · intro z3 z4 h5; apply keeps_dropSegment (hN.via rfl); exact h5
    · exact hs
  clear_value y1; apply keeps_unpinContext (hN.via rfl); apply Keeps.foldl
  · intro z6 z7 h8; apply keeps_dropOwner (hN.via rfl); exact h8
  · exact h2

theorem keeps_freeTenant (hN : Within 0x1a808a N) (t : ℕ) (keep : Bool) (s : State) (hs : Keeps N s₀ s)
    : Keeps N s₀ (freeTenant t keep s) := by
  unfold freeTenant; extract_lets +onlyGivenNames y1; clear_value y1; extract_lets +onlyGivenNames y2
  have h3 : Keeps N s₀ y2 := by
    unfold y2; apply Keeps.foldl
    · intro z4 z5 h6; apply keeps_dropLines (hN.via rfl); apply keeps_ite
      · apply keeps_kittyFlush (hN.via rfl); exact h6
      · exact h6
    · exact hs
  clear_value y2; apply Keeps.foldl
  · intro z7 z8 h9; apply keeps_ite
    · apply keeps_poolInvalidate (hN.via rfl); exact h9
    · apply keeps_updPool (hN.via rfl); exact h9
  · exact h3

theorem keeps_setTdi (hN : Within 0xa N) (t x : ℕ) (s : State) (hs : Keeps N s₀ s) : Keeps N s₀ (setTdi t x s) := by
  unfold setTdi; apply keeps_ite
  · exact hs
  · apply keeps_raise (hN.via rfl); apply keeps_setFld (hN.via rfl); exact hs

theorem keeps_tdiStopEnd (hN : Within 0x1a828a N) (t : ℕ) (s : State) (hs : Keeps N s₀ s) : Keeps N s₀ (tdiStopEnd t s) := by
  unfold tdiStopEnd; apply keeps_ite
  · exact hs
  · apply keeps_emit (hN.via rfl); apply keeps_setTdi (hN.via rfl); apply keeps_freeTenant (hN.via rfl)
    refine Keeps.update 0x200 (hN.via rfl) ?_ rfl rfl rfl; exact hs

theorem keeps_execDestroyComplete (hN : Within 0x1ec28a N) (c : ℕ) (s : State) (hs : Keeps N s₀ s)
    : Keeps N s₀ (execDestroyComplete c s) := by
  unfold execDestroyComplete; apply keeps_ite
  · extract_lets +onlyGivenNames y1; clear_value y1; extract_lets +onlyGivenNames y2; clear_value y2
    extract_lets +onlyGivenNames y3; clear_value y3; extract_lets +onlyGivenNames y4
    have h5 : Keeps N s₀ y4 := by
      unfold y4; apply keeps_endCmd (hN.via rfl); apply keeps_clearQueues (hN.via rfl)
      apply keeps_releaseOwned (hN.via rfl); exact hs
    clear_value y4; extract_lets +onlyGivenNames y6
    have h7 : Keeps N s₀ y6 := by
      unfold y6; apply keeps_ite
      · apply keeps_setHold (hN.via rfl); exact h5
      · exact h5
    clear_value y6; extract_lets +onlyGivenNames y8; clear_value y8; extract_lets +onlyGivenNames y9; clear_value y9
    extract_lets +onlyGivenNames y10
    have h11 : Keeps N s₀ y10 := by
      unfold y10; refine Keeps.updateRegs 0x2 (hN.via rfl) ?_ rfl rfl rfl; exact h7
    clear_value y10; extract_lets +onlyGivenNames y12
    have h13 : Keeps N s₀ y12 := by
      unfold y12; apply keeps_ite
      · exact h11
      · apply keeps_setFld (hN.via rfl); apply keeps_expertClear (hN.via rfl); exact h11
    clear_value y12; extract_lets +onlyGivenNames y14; extract_lets +onlyGivenNames y15
    have h16 : Keeps N s₀ y15 := by
      unfold y15; refine Keeps.update 0x80 (hN.via rfl) ?_ rfl rfl rfl; exact h13
    clear_value y15; apply keeps_tdiStopEnd (hN.via rfl); apply keeps_ctxResult (hN.via rfl)
    apply keeps_setCtxState (hN.via rfl); apply keeps_setFlag (hN.via rfl); apply keeps_setFld (hN.via rfl)
    apply keeps_setFlag (hN.via rfl); exact h16
  · exact hs

theorem keeps_ctxRun (hN : Within 0x36c18a N) (w : Func) (c op slot : ℕ) (s : State) (hs : Keeps N s₀ s)
    : Keeps N s₀ (ctxRun w c op slot s) := by
  unfold ctxRun
  split
  · apply keeps_ctxCreate (hN.via rfl); exact hs
  · apply keeps_ctxBind (hN.via rfl); exact hs
  · apply keeps_ite
    · apply keeps_ctxResult (hN.via rfl); exact hs
    · apply keeps_ite
      · apply keeps_ctxResult (hN.via rfl); apply keeps_setCtxState (hN.via rfl); exact hs
      · apply keeps_ctxResult (hN.via rfl); exact hs
  · apply keeps_ite
    · apply keeps_destroyBegin (hN.via rfl); exact hs
    · apply keeps_ctxResult (hN.via rfl); exact hs
  · apply keeps_ctxResult (hN.via rfl); exact hs

theorem keeps_ctxCmd (hN : Within 0x36c18a N) (w : Func) (c : ℕ) (v : Word) (s : State) (hs : Keeps N s₀ s)
    : Keeps N s₀ (ctxCmd w c v s) := by
  unfold ctxCmd; extract_lets +onlyGivenNames y1; clear_value y1; apply keeps_ite
  · apply keeps_ctxRefused (hN.via rfl); exact hs
  · apply keeps_ite
    · exact hs
    · apply keeps_ite
      · apply keeps_tdiRefuse (hN.via rfl); apply keeps_ctxRefused (hN.via rfl); exact hs
      · extract_lets +onlyGivenNames y2
        have h3 : Keeps N s₀ y2 := by
          unfold y2; apply keeps_wr (hN.via rfl); exact hs
        clear_value y2; apply keeps_ite
        · apply keeps_ctxRun (hN.via rfl); exact h3
        · exact h3

theorem keeps_ctxCommand (hN : Within 0x36c1ca N) (w : Func) (c op slot : ℕ) (s : State) (hs : Keeps N s₀ s)
    : Keeps N s₀ (ctxCommand w c op slot s) := by
  unfold ctxCommand; extract_lets +onlyGivenNames y1; clear_value y1; apply keeps_access (hN.via rfl)
  · intro z2 h3; apply keeps_ctxCmd (hN.via rfl); exact h3
  · exact hs

theorem keeps_execCreate (hN : Within 0x36c1ca N) (w : Func) (c : ℕ) (s : State) (hs : Keeps N s₀ s)
    : Keeps N s₀ (execCreate w c s) := by
  unfold execCreate; apply keeps_ctxCommand (hN.via rfl); exact hs

theorem keeps_execBind (hN : Within 0x36c1ca N) (w : Func) (c slot : ℕ) (s : State) (hs : Keeps N s₀ s)
    : Keeps N s₀ (execBind w c slot s) := by
  unfold execBind; apply keeps_ctxCommand (hN.via rfl); exact hs

theorem keeps_execUnbind (hN : Within 0x36c1ca N) (w : Func) (c : ℕ) (s : State) (hs : Keeps N s₀ s)
    : Keeps N s₀ (execUnbind w c s) := by
  unfold execUnbind; apply keeps_ctxCommand (hN.via rfl); exact hs

theorem keeps_execDestroy (hN : Within 0x36c1ca N) (w : Func) (c : ℕ) (s : State) (hs : Keeps N s₀ s)
    : Keeps N s₀ (execDestroy w c s) := by
  unfold execDestroy; apply keeps_ctxCommand (hN.via rfl); exact hs

theorem keeps_ctxRegWrite (hN : Within 0x36c18a N) (w : Func) (c off : ℕ) (v : Word) (s : State) (hs : Keeps N s₀ s)
    : Keeps N s₀ (ctxRegWrite w c off v s) := by
  unfold ctxRegWrite; extract_lets +onlyGivenNames y1; clear_value y1; extract_lets +onlyGivenNames y2
  clear_value y2; apply keeps_ite
  · apply keeps_ite
    · apply keeps_ctxRefused (hN.via rfl); exact hs
    · apply keeps_plainWrite (hN.via rfl); exact hs
  · apply keeps_ite
    · apply keeps_ctxCmd (hN.via rfl); exact hs
    · apply keeps_ite
      · apply keeps_svcRegWrite (hN.via rfl); exact hs
      · apply keeps_ite
        · apply keeps_queueWordWrite (hN.via rfl); exact hs
        · apply keeps_plainWrite (hN.via rfl); exact hs

theorem keeps_flrDestroy (hN : Within 0x14008a N) (c : ℕ) (s : State) (hs : Keeps N s₀ s) : Keeps N s₀ (flrDestroy c s) := by
  unfold flrDestroy; extract_lets +onlyGivenNames y1; extract_lets +onlyGivenNames y2
  have h3 : Keeps N s₀ y2 := by
    unfold y2; refine Keeps.update 0x80 (hN.via rfl) ?_ rfl rfl rfl; exact hs
  clear_value y2; apply keeps_ite
  · exact h3
  · apply keeps_destroyBegin (hN.via rfl); apply keeps_setFlag (hN.via rfl); exact h3

theorem keeps_endSessions (hN : Within 0x200 N) (p : ℕ → Bool) (s : State) (hs : Keeps N s₀ s) : Keeps N s₀ (endSessions p s) := by
  unfold endSessions; refine Keeps.update 0x200 (hN.via rfl) ?_ rfl rfl rfl; exact hs

theorem keeps_functionReset (hN : Within 0x80 N) (fn : ℕ) (s : State) (hs : Keeps N s₀ s) : Keeps N s₀ (functionReset fn s) := by
  unfold functionReset; extract_lets +onlyGivenNames y1; clear_value y1; extract_lets +onlyGivenNames y2
  clear_value y2; refine Keeps.update 0x80 (hN.via rfl) ?_ rfl rfl rfl; exact hs

theorem keeps_ringsOff (hN : Within 0x82 N) (t : ℕ) (s : State) (hs : Keeps N s₀ s) : Keeps N s₀ (ringsOff t s) := by
  unfold ringsOff
  split
  · apply keeps_stopRings (hN.via rfl); exact hs
  · exact hs

theorem keeps_vfReset (hN : Within 0x1e828a N) (t : ℕ) (s : State) (hs : Keeps N s₀ s) : Keeps N s₀ (vfReset t s) := by
  unfold vfReset; extract_lets +onlyGivenNames y1; clear_value y1; extract_lets +onlyGivenNames y2
  have h3 : Keeps N s₀ y2 := by
    unfold y2; apply Keeps.foldl
    · intro z4 z5 h6; apply keeps_flrDestroy (hN.via rfl); exact h6
    · exact hs
  clear_value y2; apply keeps_functionReset (hN.via rfl); apply keeps_endSessions (hN.via rfl)
  apply keeps_ringsOff (hN.via rfl); apply keeps_freeTenant (hN.via rfl); exact h3

theorem keeps_execVfFlr (hN : Within 0x1e828a N) (t : ℕ) (s : State) (hs : Keeps N s₀ s) : Keeps N s₀ (execVfFlr t s) := by
  unfold execVfFlr; apply keeps_ite
  · apply keeps_vfReset (hN.via rfl); exact hs
  · exact hs

theorem keeps_tenantsEnd (hN : Within 0x1ec2ca N) (ts : List ℕ) (s : State) (hs : Keeps N s₀ s) : Keeps N s₀ (tenantsEnd ts s) := by
  unfold tenantsEnd; apply Keeps.foldl
  · intro z1 z2 h3; apply keeps_withdraw (hN.via rfl); apply keeps_vfReset (hN.via rfl); exact h3
  · exact hs

theorem keeps_execPfFlr (hN : Within 0x1ed2da N) (s : State) (hs : Keeps N s₀ s) : Keeps N s₀ (execPfFlr s) := by
  unfold execPfFlr; apply keeps_ite
  · exact hs
  · extract_lets +onlyGivenNames y1; clear_value y1; extract_lets +onlyGivenNames y2
    have h3 : Keeps N s₀ y2 := by
      unfold y2; apply keeps_tenantsEnd (hN.via rfl); exact hs
    clear_value y2; extract_lets +onlyGivenNames y4; extract_lets +onlyGivenNames y5
    have h6 : Keeps N s₀ y5 := by
      unfold y5; refine Keeps.update 0x80 (hN.via rfl) ?_ rfl rfl rfl; exact h3
    clear_value y5; extract_lets +onlyGivenNames y7; clear_value y7; extract_lets +onlyGivenNames y8
    have h9 : Keeps N s₀ y8 := by
      unfold y8; apply Keeps.foldl
      · intro z10 z11 h12; apply keeps_flrDestroy (hN.via rfl); exact h12
      · exact h6
    clear_value y8; extract_lets +onlyGivenNames y13
    have h14 : Keeps N s₀ y13 := by
      unfold y13; apply Keeps.foldl
      · intro z15 z16 h17; apply keeps_ite
        · apply keeps_setTdi (hN.via rfl); exact h17
        · exact h17
      · exact h9
    clear_value y13; apply keeps_functionReset (hN.via rfl); apply keeps_endSessions (hN.via rfl)
    apply keeps_ringsOff (hN.via rfl); apply keeps_abortHandles (hN.via rfl); exact h14

theorem keeps_execD3hotEntry (hN : Within 0x80 N) (fn : ℕ) (s : State) (hs : Keeps N s₀ s) : Keeps N s₀ (execD3hotEntry fn s) := by
  unfold execD3hotEntry; apply keeps_ite
  · refine Keeps.update 0x80 (hN.via rfl) ?_ rfl rfl rfl; exact hs
  · exact hs

theorem keeps_execReturnToD0 (hN : Within 0x14018a N) (fn : ℕ) (s : State) (hs : Keeps N s₀ s) : Keeps N s₀ (execReturnToD0 fn s) := by
  unfold execReturnToD0; apply keeps_ite
  · apply keeps_flushHolds (hN.via rfl); apply keeps_reopenQueues (hN.via rfl)
    refine Keeps.update 0x80 (hN.via rfl) ?_ rfl rfl rfl; exact hs
  · exact hs

theorem keeps_sendPending (hN : Within 0x100080 N) (fn : ℕ) (s : State) (hs : Keeps N s₀ s) : Keeps N s₀ (sendPending fn s) := by
  unfold sendPending; apply keeps_ite
  · exact hs
  · extract_lets +onlyGivenNames y1; clear_value y1; apply Keeps.foldl
    · intro z2 z3 h4; apply keeps_emit (hN.via rfl); exact h4
    · refine Keeps.update 0x80 (hN.via rfl) ?_ rfl rfl rfl; exact hs

theorem keeps_configured (hN : Within 0x100080 N) (r : HostReq) (k : State → State) (s : State)
    (hs : ∀ z0, Keeps N s₀ z0 → Keeps N s₀ (k z0)) (hs1 : Keeps N s₀ s) : Keeps N s₀ (configured r k s) := by
  unfold configured; apply keeps_ite
  · apply keeps_emit (hN.via rfl); exact hs1
  · apply keeps_ite
    · exact hs1
    · apply keeps_ite
      · apply keeps_hold (hN.via rfl); exact hs1
      · apply hs; exact hs1

theorem keeps_execMsixUnmask (hN : Within 0x100080 N) (fn : ℕ) (vector : Option ℕ) (mask : Bool) (s : State) (hs : Keeps N s₀ s)
    : Keeps N s₀ (execMsixUnmask fn vector mask s) := by
  unfold execMsixUnmask
  split
  · split
    · apply keeps_hold (hN.via rfl); exact hs
    · apply keeps_ite
      · exact hs
      · extract_lets +onlyGivenNames y1; clear_value y1; apply keeps_sendPending (hN.via rfl)
        refine Keeps.update 0x80 (hN.via rfl) ?_ rfl rfl rfl; exact hs
    · apply keeps_emit (hN.via rfl); exact hs
  · apply keeps_configured (hN.via rfl)
    · intro z2 h3; apply keeps_ite
      · apply keeps_emit (hN.via rfl); exact h3
      · extract_lets +onlyGivenNames y4; clear_value y4; apply keeps_sendPending (hN.via rfl)
        refine Keeps.update 0x80 (hN.via rfl) ?_ rfl rfl rfl; exact h3
    · exact hs

theorem keeps_execInvalidateRequest (hN : Within 0x4000a N) (fn : ℕ) (pasid : Option ℕ) (a n : ℕ) (s : State) (hs : Keeps N s₀ s)
    : Keeps N s₀ (execInvalidateRequest fn pasid a n s) := by
  unfold execInvalidateRequest; apply keeps_ite
  · exact hs
  · apply keeps_ite
    · exact hs
    · extract_lets +onlyGivenNames y1; clear_value y1; apply keeps_bump (hN.via rfl); apply Keeps.foldl
      · intro z2 z3 h4; apply keeps_updQueue (hN.via rfl); exact h4
      · exact hs

theorem keeps_execConfigurationRequest (hN : Within 0x1ec2ca N) (x : CfgWrite) (s : State) (hs : Keeps N s₀ s)
    : Keeps N s₀ (execConfigurationRequest x s) := by
  unfold execConfigurationRequest; extract_lets +onlyGivenNames y1; clear_value y1; extract_lets +onlyGivenNames y2
  have h3 : ∀ z0, Keeps N s₀ (y2 z0) := by
    intro z4; unfold y2; apply keeps_emit (hN.via rfl); exact hs
  clear_value y2; apply keeps_configured (hN.via rfl)
  · intro z5 h6
    split
    · apply keeps_ite
      · apply keeps_ite
        · refine Keeps.update 0x80 (hN.via rfl) ?_ rfl rfl rfl; exact h6
        · exact h6
      · extract_lets +onlyGivenNames y7; clear_value y7; extract_lets +onlyGivenNames y8
        have h9 : Keeps N s₀ y8 := by
          unfold y8; apply keeps_tenantsEnd (hN.via rfl); exact h6
        clear_value y8; refine Keeps.update 0x80 (hN.via rfl) ?_ rfl rfl rfl; exact h9
    · apply keeps_ite
      · exact h6
      · refine Keeps.update 0x80 (hN.via rfl) ?_ rfl rfl rfl; exact h6
    · apply keeps_ite
      · apply h3
      · apply keeps_sendPending (hN.via rfl); refine Keeps.update 0x80 (hN.via rfl) ?_ rfl rfl rfl; exact h6
    · apply keeps_ite
      · apply h3
      · refine Keeps.update 0x80 (hN.via rfl) ?_ rfl rfl rfl; exact h6
    · refine Keeps.update 0x80 (hN.via rfl) ?_ rfl rfl rfl; exact h6
    · refine Keeps.update 0x80 (hN.via rfl) ?_ rfl rfl rfl; exact h6
    · extract_lets +onlyGivenNames y10; clear_value y10; apply keeps_ite
      · exact h6
      · refine Keeps.update 0x200 (hN.via rfl) ?_ rfl rfl rfl; exact h6
    · refine Keeps.update 0x80 (hN.via rfl) ?_ rfl rfl rfl; exact h6
  · exact hs

theorem keeps_execRetrain (hN : Within 0xa N) (width speed : ℕ) (laneFail : Bool) (s : State) (hs : Keeps N s₀ s)
    : Keeps N s₀ (execRetrain width speed laneFail s) := by
  unfold execRetrain; apply keeps_ite
  · exact hs
  · apply keeps_raise (hN.via rfl); apply keeps_bump (hN.via rfl); apply keeps_wr (hN.via rfl); exact hs

theorem keeps_execPageRequestResponse (hN : Within 0x1e905a N) (q code : ℕ) (s : State) (hs : Keeps N s₀ s)
    : Keeps N s₀ (execPageRequestResponse q code s) := by
  unfold execPageRequestResponse; apply keeps_ite
  · apply keeps_deckPri (hN.via rfl); exact hs
  · apply keeps_priResponse (hN.via rfl); exact hs

end Sys2Proof.Machine
end

