-- ==== Sys2Proof/Laws/KeepsH.lean ====
section
/-! SUPPORT. What every operation keeps (Keeps.lean), for the operations of Security.lean, Table.lean. -/
namespace Sys2Proof.Machine
set_option Elab.async false

variable {s₀ : State} {N : Nat}

theorem keeps_doeReply (hN : Within 0x10000a N) (fn : ℕ) (r : DoeReply) (s : State) (hs : Keeps N s₀ s)
    : Keeps N s₀ (doeReply fn r s) := by
  unfold doeReply; extract_lets +onlyGivenNames y1
  have h2 : Keeps N s₀ y1 := by
    unfold y1
    split
    · apply keeps_bump (hN.via rfl); exact hs
    · exact hs
  clear_value y1; apply keeps_emit (hN.via rfl); exact h2

theorem keeps_doe (hN : Within 0x10000a N) (fn : ℕ) (k : State → DoeReply × State) (s : State)
    (hs : ∀ z0, Keeps N s₀ z0 → Keeps N s₀ (k z0).2) (hs1 : Keeps N s₀ s) : Keeps N s₀ (doe fn k s) := by
  unfold doe; apply keeps_ite
  · exact hs1
  · apply keeps_ite
    · apply keeps_doeReply (hN.via rfl); exact hs1
    · apply keeps_doeReply (hN.via rfl); apply hs; exact hs1

theorem keeps_execDoeDiscovery (hN : Within 0x10000a N) (fn : ℕ) (s : State) (hs : Keeps N s₀ s)
    : Keeps N s₀ (execDoeDiscovery fn s) := by
  unfold execDoeDiscovery; apply keeps_ite
  · apply keeps_doeReply (hN.via rfl); exact hs
  · exact hs

theorem keeps_setStage (hN : Within 0x200 N) (fn n : ℕ) (s : State) (hs : Keeps N s₀ s) : Keeps N s₀ (setStage fn n s) := by
  unfold setStage; refine Keeps.update 0x200 (hN.via rfl) ?_ rfl rfl rfl; exact hs

theorem keeps_doeAfter (hN : Within 0x10000a N) (fn stage : ℕ) (k : State → DoeReply × State) (s : State)
    (hs : ∀ z0, Keeps N s₀ z0 → Keeps N s₀ (k z0).2) (hs1 : Keeps N s₀ s) : Keeps N s₀ (doeAfter fn stage k s) := by
  unfold doeAfter; apply keeps_doe (hN.via rfl)
  · intro z1 h2
    split
    · exact h2
    · apply hs; exact h2
  · exact hs1

theorem keeps_execGetVersion (hN : Within 0x10020a N) (fn : ℕ) (s : State) (hs : Keeps N s₀ s) : Keeps N s₀ (execGetVersion fn s) := by
  unfold execGetVersion; apply keeps_doe (hN.via rfl)
  · intro z1 h2; dsimp -zeta only; apply keeps_setStage (hN.via rfl); exact h2
  · exact hs

theorem keeps_execGetCapabilities (hN : Within 0x10020a N) (fn : ℕ) (s : State) (hs : Keeps N s₀ s)
    : Keeps N s₀ (execGetCapabilities fn s) := by
  unfold execGetCapabilities; apply keeps_doeAfter (hN.via rfl)
  · intro z1 h2; dsimp -zeta only; apply keeps_setStage (hN.via rfl); exact h2
  · exact hs

theorem keeps_execNegotiateAlgorithms (hN : Within 0x10020a N) (fn : ℕ) (offers : Bool) (s : State) (hs : Keeps N s₀ s)
    : Keeps N s₀ (execNegotiateAlgorithms fn offers s) := by
  unfold execNegotiateAlgorithms; apply keeps_doeAfter (hN.via rfl)
  · intro z1 h2
    split
    · dsimp -zeta only; apply keeps_setStage (hN.via rfl); exact h2
    · exact h2
  · exact hs

theorem keeps_execGetDigests (hN : Within 0x10000a N) (fn : ℕ) (s : State) (hs : Keeps N s₀ s) : Keeps N s₀ (execGetDigests fn s) := by
  unfold execGetDigests; apply keeps_doeAfter (hN.via rfl)
  · intro z1 h2; exact h2
  · exact hs

theorem keeps_execGetCertificate (hN : Within 0x10000a N) (fn slot off len : ℕ) (s : State) (hs : Keeps N s₀ s)
    : Keeps N s₀ (execGetCertificate fn slot off len s) := by
  unfold execGetCertificate; apply keeps_doeAfter (hN.via rfl)
  · intro z1 h2; extract_lets +onlyGivenNames y3; clear_value y3
    split
    · exact h2
    · exact h2
  · exact hs

theorem keeps_execGetMeasurements (hN : Within 0x30000a N) (fn index : ℕ) (signed : Bool) (s : State) (hs : Keeps N s₀ s)
    : Keeps N s₀ (execGetMeasurements fn index signed s) := by
  unfold execGetMeasurements; apply keeps_doeAfter (hN.via rfl)
  · intro z1 h2
    split
    · exact h2
    · extract_lets +onlyGivenNames y3
      have h4 : Keeps N s₀ y3.2 := by
        unfold y3; apply keeps_fresh (hN.via rfl); exact h2
      clear_value y3; dsimp -zeta only; refine Keeps.update 0x200000 (hN.via rfl) ?_ rfl rfl rfl; exact h2
  · exact hs

theorem keeps_execChallenge (hN : Within 0x30000a N) (fn slot : ℕ) (all : Bool) (s : State) (hs : Keeps N s₀ s)
    : Keeps N s₀ (execChallenge fn slot all s) := by
  unfold execChallenge; apply keeps_doeAfter (hN.via rfl)
  · intro z1 h2
    split
    · exact h2
    · extract_lets +onlyGivenNames y3
      have h4 : Keeps N s₀ y3.2 := by
        unfold y3; apply keeps_fresh (hN.via rfl); exact h2
      clear_value y3; extract_lets +onlyGivenNames y5; clear_value y5; dsimp -zeta only
      refine Keeps.update 0x200000 (hN.via rfl) ?_ rfl rfl rfl; exact h2
  · exact hs

theorem keeps_updSession (hN : Within 0x200 N) (fn id : ℕ) (f : Session → Session) (s : State) (hs : Keeps N s₀ s)
    : Keeps N s₀ (updSession fn id f s) := by
  unfold updSession; extract_lets +onlyGivenNames y1; clear_value y1
  refine Keeps.update 0x200 (hN.via rfl) ?_ rfl rfl rfl; exact hs

theorem keeps_touch (hN : Within 0x200 N) (fn id : ℕ) (s : State) (hs : Keeps N s₀ s) : Keeps N s₀ (touch fn id s) := by
  unfold touch; apply keeps_updSession (hN.via rfl); exact hs

theorem keeps_dropSession (hN : Within 0x200 N) (fn id : ℕ) (s : State) (hs : Keeps N s₀ s) : Keeps N s₀ (dropSession fn id s) := by
  unfold dropSession; refine Keeps.update 0x200 (hN.via rfl) ?_ rfl rfl rfl; exact hs

theorem keeps_execKeyExchange (hN : Within 0x10020a N) (fn slot id : ℕ) (s : State) (hs : Keeps N s₀ s)
    : Keeps N s₀ (execKeyExchange fn slot id s) := by
  unfold execKeyExchange; apply keeps_doeAfter (hN.via rfl)
  · intro z1 h2
    split
    · exact h2
    · split
      · exact h2
      · dsimp -zeta only; refine Keeps.update 0x200 (hN.via rfl) ?_ rfl rfl rfl; exact h2
  · exact hs

theorem keeps_execFinish (hN : Within 0x10020a N) (fn id : ℕ) (s : State) (hs : Keeps N s₀ s) : Keeps N s₀ (execFinish fn id s) := by
  unfold execFinish; apply keeps_doe (hN.via rfl)
  · intro z1 h2
    split
    · dsimp -zeta only; apply keeps_updSession (hN.via rfl); exact h2
    · exact h2
  · exact hs

theorem keeps_secured (hN : Within 0x10020a N) (fn id : ℕ) (k : State → DoeReply × State) (s : State)
    (hs : ∀ z0, Keeps N s₀ z0 → Keeps N s₀ (k z0).2) (hs1 : Keeps N s₀ s) : Keeps N s₀ (secured fn id k s) := by
  unfold secured; apply keeps_doe (hN.via rfl)
  · intro z1 h2
    split
    · apply hs; apply keeps_touch (hN.via rfl); exact h2
    · exact h2
  · exact hs1

theorem keeps_execHeartbeat (hN : Within 0x10020a N) (fn id : ℕ) (s : State) (hs : Keeps N s₀ s)
    : Keeps N s₀ (execHeartbeat fn id s) := by
  unfold execHeartbeat; apply keeps_secured (hN.via rfl)
  · intro z1 h2; exact h2
  · exact hs

theorem keeps_execKeyUpdate (hN : Within 0x10020a N) (fn id : ℕ) (s : State) (hs : Keeps N s₀ s)
    : Keeps N s₀ (execKeyUpdate fn id s) := by
  unfold execKeyUpdate; apply keeps_secured (hN.via rfl)
  · intro z1 h2; exact h2
  · exact hs

theorem keeps_execEndSession (hN : Within 0x10020a N) (fn id : ℕ) (s : State) (hs : Keeps N s₀ s)
    : Keeps N s₀ (execEndSession fn id s) := by
  unfold execEndSession; apply keeps_secured (hN.via rfl)
  · intro z1 h2; dsimp -zeta only; apply keeps_dropSession (hN.via rfl); exact h2
  · exact hs

theorem keeps_execSessionTimeout (hN : Within 0x200 N) (fn id : ℕ) (s : State) (hs : Keeps N s₀ s)
    : Keeps N s₀ (execSessionTimeout fn id s) := by
  unfold execSessionTimeout; apply keeps_ite
  · apply keeps_dropSession (hN.via rfl); exact hs
  · exact hs

theorem keeps_setIde (hN : Within 0x14038a N) (n : ℕ) (x : IdeStream) (s : State) (hs : Keeps N s₀ s) : Keeps N s₀ (setIde n x s) := by
  unfold setIde; extract_lets +onlyGivenNames y1; extract_lets +onlyGivenNames y2
  have h3 : Keeps N s₀ y2 := by
    unfold y2; refine Keeps.update 0x200 (hN.via rfl) ?_ rfl rfl rfl; exact hs
  clear_value y2; extract_lets +onlyGivenNames y4; clear_value y4; extract_lets +onlyGivenNames y5; clear_value y5
  extract_lets +onlyGivenNames y6; clear_value y6; extract_lets +onlyGivenNames y7
  have h8 : Keeps N s₀ y7 := by
    unfold y7; apply keeps_wr (hN.via rfl); apply keeps_wr (hN.via rfl); exact h3
  clear_value y7; extract_lets +onlyGivenNames y9
  have h10 : Keeps N s₀ y9 := by
    unfold y9; apply keeps_ite
    · apply keeps_raise (hN.via rfl); exact h8
    · exact h8
  clear_value y9; extract_lets +onlyGivenNames y11; clear_value y11; extract_lets +onlyGivenNames y12
  have h13 : Keeps N s₀ y12 := by
    unfold y12; apply Keeps.foldl
    · intro z14 z15 h16; apply keeps_setTdi (hN.via rfl); exact h16
    · exact h10
  clear_value y12; apply keeps_flushHolds (hN.via rfl); apply keeps_reopenQueues (hN.via rfl); exact h13

theorem keeps_execIdeKmQuery (hN : Within 0x10020a N) (id : ℕ) (s : State) (hs : Keeps N s₀ s) : Keeps N s₀ (execIdeKmQuery id s) := by
  unfold execIdeKmQuery; apply keeps_secured (hN.via rfl)
  · intro z1 h2; exact h2
  · exact hs

theorem keeps_execKeyProg (hN : Within 0x14038a N) (id stream set dir : ℕ) (s : State) (hs : Keeps N s₀ s)
    : Keeps N s₀ (execKeyProg id stream set dir s) := by
  unfold execKeyProg; apply keeps_secured (hN.via rfl)
  · intro z1 h2; extract_lets +onlyGivenNames y3; clear_value y3; extract_lets +onlyGivenNames y4; clear_value y4
    split
    · exact h2
    · dsimp -zeta only; apply keeps_setIde (hN.via rfl); exact h2
  · exact hs

theorem keeps_execKSetGo (hN : Within 0x14038a N) (id stream set dir : ℕ) (s : State) (hs : Keeps N s₀ s)
    : Keeps N s₀ (execKSetGo id stream set dir s) := by
  unfold execKSetGo; apply keeps_secured (hN.via rfl)
  · intro z1 h2; extract_lets +onlyGivenNames y3; clear_value y3; extract_lets +onlyGivenNames y4; clear_value y4
    split
    · exact h2
    · extract_lets +onlyGivenNames y5; clear_value y5; dsimp -zeta only; apply keeps_setIde (hN.via rfl); exact h2
  · exact hs

theorem keeps_execKSetStop (hN : Within 0x14038a N) (id stream set dir : ℕ) (s : State) (hs : Keeps N s₀ s)
    : Keeps N s₀ (execKSetStop id stream set dir s) := by
  unfold execKSetStop; apply keeps_secured (hN.via rfl)
  · intro z1 h2; extract_lets +onlyGivenNames y3; clear_value y3; extract_lets +onlyGivenNames y4; clear_value y4
    extract_lets +onlyGivenNames y5; clear_value y5; dsimp -zeta only; apply keeps_setIde (hN.via rfl); exact h2
  · exact hs

theorem keeps_execIntegrityFailure (hN : Within 0x14038a N) (stream : ℕ) (s : State) (hs : Keeps N s₀ s)
    : Keeps N s₀ (execIntegrityFailure stream s) := by
  unfold execIntegrityFailure; apply keeps_ite
  · apply keeps_setIde (hN.via rfl); exact hs
  · exact hs

theorem keeps_tdisp (hN : Within 0x10020a N) (t id : ℕ) (k : State → DoeReply × State) (s : State)
    (hs : ∀ z0, Keeps N s₀ z0 → Keeps N s₀ (k z0).2) (hs1 : Keeps N s₀ s) : Keeps N s₀ (tdisp t id k s) := by
  unfold tdisp; apply keeps_ite
  · apply keeps_doe (hN.via rfl)
    · intro z1 h2; exact h2
    · exact hs1
  · apply keeps_secured (hN.via rfl)
    · intro z3 h4; apply hs; exact h4
    · exact hs1

theorem keeps_execGetTdispVersion (hN : Within 0x10020a N) (t id : ℕ) (s : State) (hs : Keeps N s₀ s)
    : Keeps N s₀ (execGetTdispVersion t id s) := by
  unfold execGetTdispVersion; apply keeps_tdisp (hN.via rfl)
  · intro z1 h2; exact h2
  · exact hs

theorem keeps_execGetTdispCapabilities (hN : Within 0x10020a N) (t id : ℕ) (s : State) (hs : Keeps N s₀ s)
    : Keeps N s₀ (execGetTdispCapabilities t id s) := by
  unfold execGetTdispCapabilities; apply keeps_tdisp (hN.via rfl)
  · intro z1 h2; exact h2
  · exact hs

theorem keeps_execGetDeviceInterfaceState (hN : Within 0x10020a N) (t id : ℕ) (s : State) (hs : Keeps N s₀ s)
    : Keeps N s₀ (execGetDeviceInterfaceState t id s) := by
  unfold execGetDeviceInterfaceState; apply keeps_tdisp (hN.via rfl)
  · intro z1 h2; exact h2
  · exact hs

theorem keeps_execGetDeviceInterfaceReport (hN : Within 0x10020a N) (t id : ℕ) (s : State) (hs : Keeps N s₀ s)
    : Keeps N s₀ (execGetDeviceInterfaceReport t id s) := by
  unfold execGetDeviceInterfaceReport; apply keeps_tdisp (hN.via rfl)
  · intro z1 h2
    split
    · exact h2
    · exact h2
  · exact hs

theorem keeps_unrecord (hN : Within 0x2 N) (t : ℕ) (s : State) (hs : Keeps N s₀ s) : Keeps N s₀ (unrecord t s) := by
  unfold unrecord; apply Keeps.foldl
  · intro z1 z2 h3; apply keeps_setFlag (hN.via rfl); exact h3
  · exact hs

theorem keeps_execLockInterfaceRequest (hN : Within 0x12c24a N) (t id : ℕ) (s : State) (hs : Keeps N s₀ s)
    : Keeps N s₀ (execLockInterfaceRequest t id s) := by
  unfold execLockInterfaceRequest; apply keeps_tdisp (hN.via rfl)
  · intro z1 h2; extract_lets +onlyGivenNames y3; clear_value y3
    split
    · exact h2
    · split
      · exact h2
      · extract_lets +onlyGivenNames y4; clear_value y4; extract_lets +onlyGivenNames y5
        extract_lets +onlyGivenNames y6
        have h7 : Keeps N s₀ y6 := by
          unfold y6; refine Keeps.update 0x200 (hN.via rfl) ?_ rfl rfl rfl; exact h2
        clear_value y6; dsimp -zeta only; apply keeps_withdraw (hN.via rfl); apply keeps_unrecord (hN.via rfl)
        apply keeps_setTdi (hN.via rfl); exact h7
  · exact hs

theorem keeps_execStartInterfaceRequest (hN : Within 0x10020a N) (t id : ℕ) (s : State) (hs : Keeps N s₀ s)
    : Keeps N s₀ (execStartInterfaceRequest t id s) := by
  unfold execStartInterfaceRequest; apply keeps_tdisp (hN.via rfl)
  · intro z1 h2
    split
    · dsimp -zeta only; apply keeps_setTdi (hN.via rfl); exact h2
    · exact h2
  · exact hs

theorem keeps_execStopInterfaceRequest (hN : Within 0x1e828a N) (t id : ℕ) (s : State) (hs : Keeps N s₀ s)
    : Keeps N s₀ (execStopInterfaceRequest t id s) := by
  unfold execStopInterfaceRequest; apply keeps_ite
  · apply keeps_tdisp (hN.via rfl)
    · intro z1 h2; exact h2
    · exact hs
  · extract_lets +onlyGivenNames y3; extract_lets +onlyGivenNames y4
    have h5 : Keeps N s₀ y4 := by
      unfold y4; apply keeps_touch (hN.via rfl); refine Keeps.update 0x200 (hN.via rfl) ?_ rfl rfl rfl; exact hs
    clear_value y4; apply keeps_tdiStopEnd (hN.via rfl); apply Keeps.foldl
    · intro z6 z7 h8; apply keeps_destroyBegin (hN.via rfl); apply keeps_setFlag (hN.via rfl); exact h8
    · exact h5

theorem keeps_keyChanged (hN : Within 0x2000a N) (k : ℕ) (e : KeySlot) (s : State) (hs : Keeps N s₀ s)
    : Keeps N s₀ (keyChanged k e s) := by
  unfold keyChanged; apply keeps_raise (hN.via rfl); apply keeps_setKey (hN.via rfl); exact hs

theorem keeps_execKeyDeliver (hN : Within 0x12020a N) (t id k kind : ℕ) (reserved : Bool) (key : List Byte) (s : State)
    (hs : Keeps N s₀ s) : Keeps N s₀ (execKeyDeliver t id k kind reserved key s) := by
  unfold execKeyDeliver; apply keeps_secured (hN.via rfl)
  · intro z1 h2; extract_lets +onlyGivenNames y3; clear_value y3; extract_lets +onlyGivenNames y4; clear_value y4
    dsimp -zeta only; apply keeps_ite
    · apply keeps_bump (hN.via rfl); apply keeps_keyChanged (hN.via rfl); exact h2
    · exact h2
  · exact hs

theorem keeps_keyRetire (hN : Within 0x2040a N) (k : ℕ) (s : State) (hs : Keeps N s₀ s) : Keeps N s₀ (keyRetire k s) := by
  unfold keyRetire; apply keeps_keyChanged (hN.via rfl); refine Keeps.update 0x400 (hN.via rfl) ?_ rfl rfl rfl
  exact hs

theorem keeps_execKeyErase (hN : Within 0x12060a N) (t id k : ℕ) (reserved : Bool) (s : State) (hs : Keeps N s₀ s)
    : Keeps N s₀ (execKeyErase t id k reserved s) := by
  unfold execKeyErase; apply keeps_secured (hN.via rfl)
  · intro z1 h2; extract_lets +onlyGivenNames y3; clear_value y3; dsimp -zeta only; apply keeps_ite
    · apply keeps_keyRetire (hN.via rfl); exact h2
    · exact h2
  · exact hs

theorem keeps_execSlotQuery (hN : Within 0x10020a N) (t id : ℕ) (s : State) (hs : Keeps N s₀ s)
    : Keeps N s₀ (execSlotQuery t id s) := by
  unfold execSlotQuery; apply keeps_secured (hN.via rfl)
  · intro z1 h2; exact h2
  · exact hs

theorem keeps_keyResult (hN : Within 0x2 N) (code k : ℕ) (s : State) (hs : Keeps N s₀ s) : Keeps N s₀ (keyResult code k s) := by
  unfold keyResult; apply keeps_setFlag (hN.via rfl); apply keeps_wr (hN.via rfl); exact hs

theorem keeps_keyCmdWrite (hN : Within 0x2040a N) (w : Func) (v : Word) (s : State) (hs : Keeps N s₀ s)
    : Keeps N s₀ (keyCmdWrite w v s) := by
  unfold keyCmdWrite; extract_lets +onlyGivenNames y1; clear_value y1; extract_lets +onlyGivenNames y2
  clear_value y2; extract_lets +onlyGivenNames y3; clear_value y3; apply keeps_ite
  · exact hs
  · apply keeps_ite
    · apply keeps_bump (hN.via rfl); exact hs
    · apply keeps_ite
      · apply keeps_plainWrite (hN.via rfl); exact hs
      · extract_lets +onlyGivenNames y4; clear_value y4; extract_lets +onlyGivenNames y5
        have h6 : Keeps N s₀ y5 := by
          unfold y5; apply keeps_wr (hN.via rfl); exact hs
        clear_value y5; apply keeps_ite
        · apply keeps_keyResult (hN.via rfl); apply keeps_tdiRefuse (hN.via rfl); apply keeps_bump (hN.via rfl)
          exact h6
        · apply keeps_ite
          · apply keeps_keyResult (hN.via rfl); exact h6
          · apply keeps_ite
            · apply keeps_keyResult (hN.via rfl); apply keeps_keyChanged (hN.via rfl); exact h6
            · apply keeps_keyRetire (hN.via rfl); exact h6

theorem keeps_execAssign (hN : Within 0x1205ca N) (w : Func) (k t kind : ℕ) (s : State) (hs : Keeps N s₀ s)
    : Keeps N s₀ (execAssign w k t kind s) := by
  unfold execAssign; apply keeps_access (hN.via rfl)
  · intro z1 h2; apply keeps_keyCmdWrite (hN.via rfl); exact h2
  · exact hs

theorem keeps_execRetire (hN : Within 0x1205ca N) (w : Func) (k : ℕ) (s : State) (hs : Keeps N s₀ s)
    : Keeps N s₀ (execRetire w k s) := by
  unfold execRetire; apply keeps_access (hN.via rfl)
  · intro z1 h2; apply keeps_keyCmdWrite (hN.via rfl); exact h2
  · exact hs

theorem keeps_execErasureConfirmed (hN : Within 0x2000a N) (k : ℕ) (s : State) (hs : Keeps N s₀ s)
    : Keeps N s₀ (execErasureConfirmed k s) := by
  unfold execErasureConfirmed; apply keeps_ite
  · exact hs
  · extract_lets +onlyGivenNames y1
    have h2 : Keeps N s₀ y1 := by
      unfold y1; apply keeps_keyChanged (hN.via rfl); exact hs
    clear_value y1; apply keeps_ite
    · apply keeps_keyResult (hN.via rfl); exact h2
    · exact h2

theorem keeps_grantWrite (hN : Within 0x2c04a N) (w : Func) (k : ℕ) (v : Word) (s : State) (hs : Keeps N s₀ s)
    : Keeps N s₀ (grantWrite w k v s) := by
  unfold grantWrite; apply keeps_ite
  · exact hs
  · apply keeps_ite
    · apply keeps_withdraw (hN.via rfl); apply keeps_plainWrite (hN.via rfl); exact hs
    · extract_lets +onlyGivenNames y1; clear_value y1; extract_lets +onlyGivenNames y2; clear_value y2
      extract_lets +onlyGivenNames y3; clear_value y3; extract_lets +onlyGivenNames y4
      have h5 : Keeps N s₀ y4 := by
        unfold y4; apply keeps_ite
        · exact hs
        · apply keeps_tdiRefuse (hN.via rfl); apply keeps_bump (hN.via rfl); exact hs
      clear_value y4; apply keeps_withdraw (hN.via rfl); apply keeps_plainWrite (hN.via rfl); exact h5

theorem keeps_execExpertGrantWrite (hN : Within 0x12c1ca N) (w : Func) (k : ℕ) (v : Word) (s : State) (hs : Keeps N s₀ s)
    : Keeps N s₀ (execExpertGrantWrite w k v s) := by
  unfold execExpertGrantWrite; extract_lets +onlyGivenNames y1; clear_value y1; apply keeps_access (hN.via rfl)
  · intro z2 h3; apply keeps_grantWrite (hN.via rfl); exact h3
  · exact hs

theorem keeps_fdCtrlWrite (hN : Within 0x20a N) (w : Func) (v : Word) (s : State) (hs : Keeps N s₀ s)
    : Keeps N s₀ (fdCtrlWrite w v s) := by
  unfold fdCtrlWrite; extract_lets +onlyGivenNames y1; clear_value y1; extract_lets +onlyGivenNames y2
  clear_value y2; apply keeps_ite
  · exact hs
  · apply keeps_ite
    · apply keeps_bump (hN.via rfl); exact hs
    · extract_lets +onlyGivenNames y3
      have h4 : Keeps N s₀ y3 := by
        unfold y3; apply keeps_plainWrite (hN.via rfl); exact hs
      clear_value y3; apply keeps_ite
      · refine Keeps.update 0x200 (hN.via rfl) ?_ rfl rfl rfl; exact h4
      · exact h4

theorem keeps_execFixedDealEnable (hN : Within 0x1003ca N) (w : Func) (v : Word) (s : State) (hs : Keeps N s₀ s)
    : Keeps N s₀ (execFixedDealEnable w v s) := by
  unfold execFixedDealEnable; apply keeps_access (hN.via rfl)
  · intro z1 h2; apply keeps_fdCtrlWrite (hN.via rfl); exact h2
  · exact hs

theorem keeps_mbRefused (hN : Within 0xa N) (s : State) (hs : Keeps N s₀ s) : Keeps N s₀ (mbRefused s) := by
  unfold mbRefused; apply keeps_bump (hN.via rfl); exact hs

theorem keeps_mbRegWrite (hN : Within 0x3ad7fe N) (w : Func) (off : ℕ) (v : Word) (list : List Byte) (s : State) (hs : Keeps N s₀ s)
    : Keeps N s₀ (mbRegWrite w off v list s) := by
  unfold mbRegWrite; apply keeps_ite
  · apply keeps_mbCmdWrite (hN.via rfl); exact hs
  · apply keeps_ite
    · apply keeps_ite
      · apply keeps_mbRefused (hN.via rfl); exact hs
      · apply keeps_plainWrite (hN.via rfl); exact hs
    · apply keeps_ite
      · exact hs
      · apply keeps_ite
        · apply keeps_keyCmdWrite (hN.via rfl); exact hs
        · apply keeps_ite
          · apply keeps_grantWrite (hN.via rfl); exact hs
          · apply keeps_ite
            · apply keeps_grantWrite (hN.via rfl); exact hs
            · apply keeps_ite
              · apply keeps_ringPolicyWrite (hN.via rfl); exact hs
              · apply keeps_ite
                · apply keeps_fdCtrlWrite (hN.via rfl); exact hs
                · apply keeps_ite
                  · apply keeps_ite
                    · apply keeps_mbRefused (hN.via rfl); exact hs
                    · apply keeps_plainWrite (hN.via rfl); exact hs
                  · apply keeps_plainWrite (hN.via rfl); exact hs

theorem keeps_tblShow (hN : Within 0xa N) (before : Option ℕ) (s : State) (hs : Keeps N s₀ s) : Keeps N s₀ (tblShow before s) := by
  unfold tblShow; extract_lets +onlyGivenNames y1; clear_value y1; extract_lets +onlyGivenNames y2
  have h3 : Keeps N s₀ y2 := by
    unfold y2; apply keeps_ite
    · exact hs
    · apply keeps_raise (hN.via rfl); exact hs
  clear_value y2; apply keeps_setFld (hN.via rfl); apply keeps_setFld (hN.via rfl); apply keeps_setFlag (hN.via rfl)
  apply keeps_setFlag (hN.via rfl); exact h3

theorem keeps_setMember (hN : Within 0xa N) (d : ℕ) (on : Bool) (s : State) (hs : Keeps N s₀ s) : Keeps N s₀ (setMember d on s) := by
  unfold setMember; apply keeps_ite
  · exact hs
  · extract_lets +onlyGivenNames y1; clear_value y1; apply keeps_tblShow (hN.via rfl); apply keeps_bump (hN.via rfl)
    apply keeps_raise (hN.via rfl); apply keeps_setFlag (hN.via rfl); exact hs

theorem keeps_fetchFail (hN : Within 0x14044a N) (f : Fetch) (cause : ℕ) (s : State) (hs : Keeps N s₀ s)
    : Keeps N s₀ (fetchFail f cause s) := by
  unfold fetchFail; extract_lets +onlyGivenNames y1; extract_lets +onlyGivenNames y2
  have h3 : Keeps N s₀ y2 := by
    unfold y2; refine Keeps.update 0x400 (hN.via rfl) ?_ rfl rfl rfl; exact hs
  clear_value y2
  split
  · exact h3
  · split
    · exact h3
    · apply keeps_endXfer (hN.via rfl); exact h3

theorem keeps_seatLeaves (hN : Within 0x14044a N) (d : ℕ) (s : State) (hs : Keeps N s₀ s) : Keeps N s₀ (seatLeaves d s) := by
  unfold seatLeaves; extract_lets +onlyGivenNames y1
  have h2 : Keeps N s₀ y1 := by
    unfold y1; apply keeps_setMember (hN.via rfl); exact hs
  clear_value y1; extract_lets +onlyGivenNames y3
  have h4 : Keeps N s₀ y3 := by
    unfold y3; apply Keeps.foldl
    · intro z5 z6 h7; apply keeps_fetchFail (hN.via rfl); exact h7
    · exact h2
  clear_value y3; refine Keeps.update 0x400 (hN.via rfl) ?_ rfl rfl rfl; exact h4

theorem keeps_execMembershipTimeout (hN : Within 0x14044a N) (d : ℕ) (s : State) (hs : Keeps N s₀ s)
    : Keeps N s₀ (execMembershipTimeout d s) := by
  unfold execMembershipTimeout; apply keeps_ite
  · apply keeps_seatLeaves (hN.via rfl); exact hs
  · exact hs

theorem keeps_svcDeliver (hN : Within 0x1a01ca N) (port : ℕ) (header payload : List Byte) (s : State) (hs : Keeps N s₀ s)
    : Keeps N s₀ (svcDeliver port header payload s) := by
  unfold svcDeliver; extract_lets +onlyGivenNames y1; clear_value y1; extract_lets +onlyGivenNames y2
  clear_value y2; apply keeps_ite
  · exact hs
  · apply keeps_ite
    · apply keeps_bump (hN.via rfl); exact hs
    · extract_lets +onlyGivenNames y3; clear_value y3; extract_lets +onlyGivenNames y4; clear_value y4
      extract_lets +onlyGivenNames y5; clear_value y5; apply keeps_wr (hN.via rfl)
      apply keeps_storeBytes (hN.via rfl); exact hs

theorem keeps_updRound (hN : Within 0x400 N) (r : Round) (f : Round → Round) (s : State) (hs : Keeps N s₀ s)
    : Keeps N s₀ (updRound r f s) := by
  unfold updRound; refine Keeps.update 0x400 (hN.via rfl) ?_ rfl rfl rfl; exact hs

theorem keeps_serviceEvent (hN : Within 0x10018a N) (code a0 a1 : ℕ) (s : State) (hs : Keeps N s₀ s)
    : Keeps N s₀ (serviceEvent code a0 a1 s) := by
  unfold serviceEvent; apply keeps_ite
  · apply keeps_postCell (hN.via rfl); exact hs
  · exact hs

theorem keeps_awardCommit (hN : Within 0x1a05fe N) (port src : ℕ) (header payload : List Byte) (s : State) (hs : Keeps N s₀ s)
    : Keeps N s₀ (awardCommit port src header payload s) := by
  unfold awardCommit; extract_lets +onlyGivenNames y1; clear_value y1; extract_lets +onlyGivenNames y2
  clear_value y2; extract_lets +onlyGivenNames y3; clear_value y3; extract_lets +onlyGivenNames y4; clear_value y4
  apply keeps_ite
  · exact hs
  · extract_lets +onlyGivenNames y5; clear_value y5; extract_lets +onlyGivenNames y6
    extract_lets +onlyGivenNames y7
    have h8 : Keeps N s₀ y7 := by
      unfold y7; refine Keeps.update 0x400 (hN.via rfl) ?_ rfl rfl rfl; exact hs
    clear_value y7; extract_lets +onlyGivenNames y9
    have h10 : Keeps N s₀ y9 := by
      unfold y9; apply keeps_raise (hN.via rfl); apply keeps_svcDeliver (hN.via rfl)
      apply keeps_setFld (hN.via rfl); exact h8
    clear_value y9; apply keeps_ite
    · apply keeps_wakeEvent (hN.via rfl); exact h10
    · split
      · exact h10
      · apply keeps_ite
        · apply keeps_serviceEvent (hN.via rfl); exact h10
        · apply keeps_serviceEvent (hN.via rfl); exact h10

theorem keeps_sendAward (hN : Within 0x1a05fe N) (payload : List Byte) (d : ℕ) (s : State) (hs : Keeps N s₀ s)
    : Keeps N s₀ (sendAward payload d s) := by
  unfold sendAward; apply keeps_ite
  · apply keeps_awardCommit (hN.via rfl); exact hs
  · apply keeps_sendFrame (hN.via rfl); exact hs

theorem keeps_bidCommit (hN : Within 0x1a05fe N) (src : ℕ) (payload : List Byte) (s : State) (hs : Keeps N s₀ s)
    : Keeps N s₀ (bidCommit src payload s) := by
  unfold bidCommit; extract_lets +onlyGivenNames y1; clear_value y1; extract_lets +onlyGivenNames y2; clear_value y2
  extract_lets +onlyGivenNames y3; extract_lets +onlyGivenNames y4
  have h5 : Keeps N s₀ y4 := by
    unfold y4; refine Keeps.update 0x400 (hN.via rfl) ?_ rfl rfl rfl; exact hs
  clear_value y4; extract_lets +onlyGivenNames y6; clear_value y6
  split
  · extract_lets +onlyGivenNames y7; clear_value y7; refine Keeps.update 0x400 (hN.via rfl) ?_ rfl rfl rfl; exact h5
  · apply keeps_ite
    · apply keeps_updRound (hN.via rfl); exact h5
    · extract_lets +onlyGivenNames y8
      have h9 : Keeps N s₀ y8 := by
        unfold y8; apply keeps_bump (hN.via rfl); exact h5
      clear_value y8
      split
      · apply keeps_sendAward (hN.via rfl); exact h9
      · apply keeps_updRound (hN.via rfl); exact h9

theorem keeps_bidsCommit (hN : Within 0x1a05fe N) (s : State) (hs : Keeps N s₀ s) : Keeps N s₀ (bidsCommit s) := by
  unfold bidsCommit; apply Keeps.foldl
  · intro z1 z2 h3; apply keeps_bidCommit (hN.via rfl); exact h3
  · refine Keeps.update 0x400 (hN.via rfl) ?_ rfl rfl rfl; exact hs

theorem keeps_execRoundDecision (hN : Within 0x1a05fe N) (s : State) (hs : Keeps N s₀ s) : Keeps N s₀ (execRoundDecision s) := by
  unfold execRoundDecision; apply keeps_ite
  · exact hs
  · split
    · exact hs
    · extract_lets +onlyGivenNames y1; clear_value y1; extract_lets +onlyGivenNames y2; clear_value y2
      extract_lets +onlyGivenNames y3
      have h4 : Keeps N s₀ y3 := by
        unfold y3; apply keeps_setFld (hN.via rfl); apply keeps_bump (hN.via rfl); apply keeps_updRound (hN.via rfl)
        exact hs
      clear_value y3; apply Keeps.foldl
      · intro z5 z6 h7; apply keeps_sendAward (hN.via rfl); exact h7
      · exact h4

theorem keeps_execAwardTimeout (hN : Within 0x43e N) (s : State) (hs : Keeps N s₀ s) : Keeps N s₀ (execAwardTimeout s) := by
  unfold execAwardTimeout
  split
  · exact hs
  · apply keeps_ite
    · exact hs
    · apply keeps_wakeEvent (hN.via rfl); apply keeps_raise (hN.via rfl); apply keeps_bump (hN.via rfl)
      refine Keeps.update 0x400 (hN.via rfl) ?_ rfl rfl rfl; exact hs

theorem keeps_dropLends (hN : Within 0x400 N) (p : Lend → Bool) (s : State) (hs : Keeps N s₀ s) : Keeps N s₀ (dropLends p s) := by
  unfold dropLends; refine Keeps.update 0x400 (hN.via rfl) ?_ rfl rfl rfl; exact hs

theorem keeps_svcFrame (hN : Within 0x10040a N) (e : List Byte) (s t : State) (hs : Keeps N s₀ s) (ht : svcFrame e s = some t) :
    Keeps N s₀ t := by
  unfold svcFrame at ht
  extract_lets +onlyGivenNames type dst group corr payload session at ht
  clear_value type dst group corr payload session
  split at ht
  · extract_lets u y at ht
    have hy : Keeps N s₀ y := Keeps.update 0x400 (hN.via rfl) hs rfl rfl rfl
    clear_value y u
    split at ht
    · injection ht with ht; exact ht ▸ hy
    · injection ht with ht; subst ht
      exact Keeps.ite (Keeps.update 0x400 (hN.via rfl) hy rfl rfl rfl) (keeps_sendFrame (hN.via rfl) _ _ _ _ _ _ _ _ hy)
  · injection ht with ht; subst ht
    apply keeps_sendFrame (hN.via rfl); refine Keeps.update 0x400 (hN.via rfl) ?_ rfl rfl rfl; exact keeps_dropLends (hN.via rfl) _ _ hs
  · injection ht with ht; subst ht
    exact Keeps.ite (keeps_sendFrame (hN.via rfl) _ _ _ _ _ _ _ _ hs) hs
  · split at ht
    · injection ht with ht; exact ht ▸ hs
    · split at ht
      · injection ht with ht; exact ht ▸ hs
      · injection ht with ht; subst ht
        apply keeps_sendFrame (hN.via rfl); refine Keeps.update 0x400 (hN.via rfl) ?_ rfl rfl rfl; exact keeps_dropLends (hN.via rfl) _ _ hs
  · split at ht
    · injection ht with ht; subst ht
      apply keeps_sendFrame (hN.via rfl); exact Keeps.update 0x400 (hN.via rfl) hs rfl rfl rfl
    · cases ht
  · injection ht with ht; subst ht
    apply keeps_sendFrame (hN.via rfl); exact keeps_dropLends (hN.via rfl) _ _ hs
  · injection ht with ht; subst ht
    exact keeps_sendFrame (hN.via rfl) _ _ _ _ _ _ _ _ hs
  · injection ht with ht; exact ht ▸ hs

theorem keeps_svcRead (hN : Within 0x1a01ca N) (n a len : Nat) (s : State) (hs : Keeps N s₀ s) : Keeps N s₀ (svcRead n a len s).2 := by
  induction n generalizing a len s with
  | zero => exact hs
  | succ n ih =>
    unfold svcRead
    extract_lets k g rest
    have hg : Keeps N s₀ g.state := by unfold g; apply keeps_gotMem (hN.via rfl); apply keeps_memFetch (hN.via rfl); exact hs
    show Keeps N s₀ rest.2
    unfold rest
    split
    · exact hg
    · exact ih _ _ _ hg

theorem keeps_svcPump (hN : Within 0x1a05ca N) (n : Nat) (s : State) (hs : Keeps N s₀ s) : Keeps N s₀ (svcPump n s) := by
  induction n generalizing s with
  | zero => exact hs
  | succ n ih =>
    unfold svcPump
    extract_lets p head r
    have hr : Keeps N s₀ r.2 := keeps_svcRead (hN.via rfl) _ _ _ _ hs
    split
    · exact hs
    · split
      · exact hr
      · rename_i t e; exact ih _ (keeps_wr (hN.via rfl) _ _ _ _ (keeps_svcFrame (hN.via rfl) _ _ _ hr e))

theorem keeps_svcSend (hN : Within 0x1a05ca N) (s : State) (hs : Keeps N s₀ s) : Keeps N s₀ (svcSend s) := by
  unfold svcSend; apply keeps_svcPump (hN.via rfl); exact hs

theorem keeps_svcStore (hN : Within 0x1a01ca N) (l : List (List Byte)) (k : Nat) (s : State) (hs : Keeps N s₀ s) :
    Keeps N s₀ (svcStore l k s) := by
  induction l generalizing k s with
  | nil => exact hs
  | cons e l ih => exact ih _ _ (keeps_storeBytes (hN.via rfl) _ _ _ _ _ _ _ hs)

theorem keeps_svcTailWrite (hN : Within 0x1a05ca N) (v : Word) (entries : List (List Byte)) (s : State) (hs : Keeps N s₀ s)
    : Keeps N s₀ (svcTailWrite v entries s) := by
  unfold svcTailWrite; extract_lets +onlyGivenNames y1; clear_value y1; apply keeps_ite
  · apply keeps_wr (hN.via rfl); exact hs
  · apply keeps_svcSend (hN.via rfl); apply keeps_wr (hN.via rfl); apply keeps_svcStore (hN.via rfl); exact hs

theorem keeps_execSvcTxTailWrite (hN : Within 0x1a05ca N) (w : Func) (v : Word) (entries : List (List Byte)) (s : State)
    (hs : Keeps N s₀ s) : Keeps N s₀ (execSvcTxTailWrite w v entries s) := by
  unfold execSvcTxTailWrite; apply keeps_access (hN.via rfl)
  · intro z1 h2; apply keeps_svcTailWrite (hN.via rfl); exact h2
  · exact hs

theorem keeps_recvFrame (hN : Within 0x54a N) (type : ℕ) (f : Frame) (k : State → State) (s : State)
    (hs : ∀ z0, Keeps N s₀ z0 → Keeps N s₀ (k z0)) (hs1 : Keeps N s₀ s) : Keeps N s₀ (recvFrame type f k s) := by
  unfold recvFrame; extract_lets +onlyGivenNames y1; clear_value y1; extract_lets +onlyGivenNames y2; clear_value y2
  extract_lets +onlyGivenNames y3; clear_value y3; extract_lets +onlyGivenNames y4; clear_value y4
  extract_lets +onlyGivenNames y5; clear_value y5; extract_lets +onlyGivenNames y6
  have h7 : ∀ z0, Keeps N s₀ z0 → Keeps N s₀ (y6 z0) := by
    intro z8 h9; unfold y6; extract_lets +onlyGivenNames y10; extract_lets +onlyGivenNames y11
    have h12 : Keeps N s₀ y11 := by
      unfold y11; apply keeps_hhCapture (hN.via rfl); refine Keeps.update 0x400 (hN.via rfl) ?_ rfl rfl rfl
      exact h9
    clear_value y11; apply keeps_ite
    · apply hs; exact h12
    · exact h12
  clear_value y6; apply keeps_ite
  · apply h7; exact hs1
  · apply keeps_ite
    · exact hs1
    · apply keeps_ite
      · apply keeps_bump (hN.via rfl); exact hs1
      · apply keeps_ite
        · apply keeps_bump (hN.via rfl); exact hs1
        · apply keeps_ite
          · exact hs1
          · extract_lets +onlyGivenNames y13
            have h14 : Keeps N s₀ y13 := by
              unfold y13; apply keeps_bump (hN.via rfl); exact hs1
            clear_value y13; apply keeps_ite
            · apply keeps_formRec (hN.via rfl); apply keeps_raise (hN.via rfl); apply keeps_bump (hN.via rfl)
              exact h14
            · apply keeps_ite
              · apply keeps_bump (hN.via rfl); exact h14
              · apply keeps_ite
                · apply keeps_bump (hN.via rfl); exact h14
                · apply h7; exact h14

theorem keeps_dupSeat (hN : Within 0x4a N) (s : State) (hs : Keeps N s₀ s) : Keeps N s₀ (dupSeat s) := by
  unfold dupSeat; extract_lets +onlyGivenNames y1; clear_value y1; apply keeps_tblShow (hN.via rfl)
  apply keeps_formRec (hN.via rfl); apply keeps_raise (hN.via rfl); apply keeps_setFlag (hN.via rfl)
  apply keeps_setMember (hN.via rfl); exact hs

theorem keeps_execHello (hN : Within 0x54a N) (f : Frame) (s : State) (hs : Keeps N s₀ s) : Keeps N s₀ (execHello f s) := by
  unfold execHello; apply keeps_recvFrame (hN.via rfl)
  · intro z1 h2; extract_lets +onlyGivenNames y3; clear_value y3; apply keeps_ite
    · extract_lets +onlyGivenNames y4; clear_value y4; apply keeps_ite
      · apply keeps_dupSeat (hN.via rfl); exact h2
      · exact h2
    · extract_lets +onlyGivenNames y5; clear_value y5; extract_lets +onlyGivenNames y6
      extract_lets +onlyGivenNames y7
      have h8 : Keeps N s₀ y7 := by
        unfold y7; refine Keeps.update 0x400 (hN.via rfl) ?_ rfl rfl rfl; exact h2
      clear_value y7; apply keeps_setMember (hN.via rfl); apply keeps_tblShow (hN.via rfl); exact h8
  · exact hs

theorem keeps_execLeave (hN : Within 0x14054a N) (f : Frame) (s : State) (hs : Keeps N s₀ s) : Keeps N s₀ (execLeave f s) := by
  unfold execLeave; apply keeps_recvFrame (hN.via rfl)
  · intro z1 h2; apply keeps_ite
    · exact h2
    · apply keeps_seatLeaves (hN.via rfl); exact h2
  · exact hs

theorem keeps_execBid (hN : Within 0x1a05fe N) (f : Frame) (s : State) (hs : Keeps N s₀ s) : Keeps N s₀ (execBid f s) := by
  unfold execBid; apply keeps_recvFrame (hN.via rfl)
  · intro z1 h2; apply keeps_ite
    · apply keeps_bidCommit (hN.via rfl); exact h2
    · exact h2
  · exact hs

theorem keeps_execAward (hN : Within 0x1a05fe N) (f : Frame) (s : State) (hs : Keeps N s₀ s) : Keeps N s₀ (execAward f s) := by
  unfold execAward; apply keeps_recvFrame (hN.via rfl)
  · intro z1 h2; apply keeps_awardCommit (hN.via rfl); exact h2
  · exact hs

theorem keeps_fetchRefused (hN : Within 0x10040a N) (f : Frame) (code : ℕ) (s : State) (hs : Keeps N s₀ s)
    : Keeps N s₀ (fetchRefused f code s) := by
  unfold fetchRefused; apply keeps_sendFrame (hN.via rfl); apply keeps_bump (hN.via rfl); exact hs

theorem keeps_execFetchReq (hN : Within 0x1a05ca N) (f : Frame) (s : State) (hs : Keeps N s₀ s) : Keeps N s₀ (execFetchReq f s) := by
  unfold execFetchReq
  apply keeps_recvFrame (hN.via rfl)
  · intro s hs
    extract_lets a t key h
    split
    · exact keeps_bump (hN.via rfl) _ _ _ _ hs
    · split
      · exact keeps_fetchRefused (hN.via rfl) _ _ _ hs
      · have hm : Keeps N s₀ (memFetch (.table t) 92 h none s).2 := keeps_memFetch (hN.via rfl) _ _ _ _ _ hs
        generalize memFetch (.table t) 92 h none s = m at hm ⊢
        obtain ⟨m, u⟩ := m
        dsimp only at hm
        cases m <;> dsimp only
        all_goals first
          | exact keeps_fetchRefused (hN.via rfl) _ _ _ hm
          | (apply keeps_sendFrame (hN.via rfl); apply keeps_bump (hN.via rfl); exact hm)
  · exact hs

theorem keeps_execFetchData (hN : Within 0x3f9dca N) (f : Frame) (s : State) (hs : Keeps N s₀ s) : Keeps N s₀ (execFetchData f s) := by
  unfold execFetchData; apply keeps_recvFrame (hN.via rfl)
  · intro z1 h2
    split
    · exact h2
    · extract_lets +onlyGivenNames y3; clear_value y3; extract_lets +onlyGivenNames y4
      extract_lets +onlyGivenNames y5
      have h6 : Keeps N s₀ y5 := by
        unfold y5; refine Keeps.update 0x400 (hN.via rfl) ?_ rfl rfl rfl; exact h2
      clear_value y5; apply keeps_svcSend (hN.via rfl)
      split
      · exact h6
      · apply keeps_ite
        · apply keeps_poolArrive (hN.via rfl); apply keeps_xferFetch (hN.via rfl); exact h6
        · extract_lets +onlyGivenNames y7
          have h8 : Keeps N s₀ y7.state := by
            unfold y7; apply keeps_xferFetch (hN.via rfl); exact h6
          clear_value y7; apply keeps_ite
          · apply keeps_endXfer (hN.via rfl); exact h8
          · apply keeps_endXfer (hN.via rfl); apply keeps_xferDeliver (hN.via rfl); exact h8
  · exact hs

theorem keeps_execFetchErr (hN : Within 0x1e05ca N) (f : Frame) (s : State) (hs : Keeps N s₀ s) : Keeps N s₀ (execFetchErr f s) := by
  unfold execFetchErr; apply keeps_recvFrame (hN.via rfl)
  · intro z1 h2
    split
    · exact h2
    · apply keeps_svcSend (hN.via rfl); apply keeps_fetchFail (hN.via rfl); exact h2
  · exact hs

theorem keeps_execFetchTimeout (hN : Within 0x1e05ca N) (corr : ℕ) (s : State) (hs : Keeps N s₀ s)
    : Keeps N s₀ (execFetchTimeout corr s) := by
  unfold execFetchTimeout
  split
  · exact hs
  · extract_lets +onlyGivenNames y1
    have h2 : Keeps N s₀ y1 := by
      unfold y1; apply keeps_bump (hN.via rfl); exact hs
    clear_value y1; apply keeps_ite
    · apply keeps_svcSend (hN.via rfl); apply keeps_fetchFail (hN.via rfl); apply keeps_ite
      · apply keeps_formRec (hN.via rfl); exact h2
      · exact h2
    · extract_lets +onlyGivenNames y3; clear_value y3
      split
      · apply keeps_fetchFail (hN.via rfl); exact h2
      · extract_lets +onlyGivenNames y4; clear_value y4; extract_lets +onlyGivenNames y5; clear_value y5
        extract_lets +onlyGivenNames y6; clear_value y6; extract_lets +onlyGivenNames y7; clear_value y7
        extract_lets +onlyGivenNames y8; extract_lets +onlyGivenNames y9
        have h10 : Keeps N s₀ y9 := by
          unfold y9; refine Keeps.update 0x400 (hN.via rfl) ?_ rfl rfl rfl; exact h2
        clear_value y9; apply keeps_ite
        · apply keeps_portSend (hN.via rfl); exact h10
        · exact h10

theorem keeps_lendAck (hN : Within 0x400 N) (f : Frame) (s : State) (hs : Keeps N s₀ s) : Keeps N s₀ (lendAck f s) := by
  unfold lendAck; refine Keeps.update 0x400 (hN.via rfl) ?_ rfl rfl rfl; exact hs

theorem keeps_lendFrame (hN : Within 0x1a05ca N) (type : ℕ) (f : Frame) (k : State → State) (s : State)
    (hs : ∀ z0, Keeps N s₀ z0 → Keeps N s₀ (k z0)) (hs1 : Keeps N s₀ s) : Keeps N s₀ (lendFrame type f k s) := by
  unfold lendFrame; apply keeps_recvFrame (hN.via rfl)
  · intro z1 h2; apply keeps_svcSend (hN.via rfl); apply keeps_svcDeliver (hN.via rfl); apply hs
    apply keeps_lendAck (hN.via rfl); exact h2
  · exact hs1

theorem keeps_addLend (hN : Within 0x400 N) (l : Lend) (s : State) (hs : Keeps N s₀ s) : Keeps N s₀ (addLend l s) := by
  unfold addLend; refine Keeps.update 0x400 (hN.via rfl) ?_ rfl rfl rfl; exact hs

theorem keeps_execLendReq (hN : Within 0x1a05ca N) (f : Frame) (s : State) (hs : Keeps N s₀ s) : Keeps N s₀ (execLendReq f s) := by
  unfold execLendReq; apply keeps_lendFrame (hN.via rfl)
  · intro z1 h2; extract_lets +onlyGivenNames y3; clear_value y3; apply keeps_addLend (hN.via rfl)
    apply keeps_dropLends (hN.via rfl); exact h2
  · exact hs

theorem keeps_execLendOffer (hN : Within 0x1a05ca N) (f : Frame) (s : State) (hs : Keeps N s₀ s) : Keeps N s₀ (execLendOffer f s) := by
  unfold execLendOffer; apply keeps_lendFrame (hN.via rfl)
  · intro z1 h2; extract_lets +onlyGivenNames y3; clear_value y3; extract_lets +onlyGivenNames y4; clear_value y4
    extract_lets +onlyGivenNames y5; clear_value y5; extract_lets +onlyGivenNames y6; clear_value y6
    refine Keeps.update 0x400 (hN.via rfl) ?_ rfl rfl rfl; exact h2
  · exact hs

theorem keeps_execLendAccept (hN : Within 0x1a05fe N) (f : Frame) (s : State) (hs : Keeps N s₀ s)
    : Keeps N s₀ (execLendAccept f s) := by
  unfold execLendAccept; apply keeps_lendFrame (hN.via rfl)
  · intro z1 h2; extract_lets +onlyGivenNames y3; clear_value y3
    split
    · exact h2
    · extract_lets +onlyGivenNames y4; clear_value y4; apply keeps_wakeEvent (hN.via rfl)
      apply keeps_bump (hN.via rfl); refine Keeps.update 0x400 (hN.via rfl) ?_ rfl rfl rfl; exact h2
  · exact hs

theorem keeps_execLendData (hN : Within 0x1a05ca N) (f : Frame) (s : State) (hs : Keeps N s₀ s) : Keeps N s₀ (execLendData f s) := by
  unfold execLendData; apply keeps_lendFrame (hN.via rfl)
  · intro z1 h2; exact h2
  · exact hs

theorem keeps_execLendEnd (hN : Within 0x1a05ca N) (f : Frame) (s : State) (hs : Keeps N s₀ s) : Keeps N s₀ (execLendEnd f s) := by
  unfold execLendEnd; apply keeps_lendFrame (hN.via rfl)
  · intro z1 h2; apply keeps_dropLends (hN.via rfl); exact h2
  · exact hs

theorem keeps_execService (hN : Within 0x1a05ca N) (f : Frame) (s : State) (hs : Keeps N s₀ s) : Keeps N s₀ (execService f s) := by
  unfold execService; apply keeps_lendFrame (hN.via rfl)
  · intro z1 h2; exact h2
  · exact hs

theorem keeps_execHelloTimer (hN : Within 0x10040a N) (free : ℕ) (s : State) (hs : Keeps N s₀ s)
    : Keeps N s₀ (execHelloTimer free s) := by
  unfold execHelloTimer; extract_lets +onlyGivenNames y1; clear_value y1; extract_lets +onlyGivenNames y2
  apply keeps_ite
  · extract_lets +onlyGivenNames y3; clear_value y3; extract_lets +onlyGivenNames y4; clear_value y4
    apply keeps_sendFrame (hN.via rfl); refine Keeps.update 0x400 (hN.via rfl) ?_ rfl rfl rfl; exact hs
  · exact hs

theorem keeps_gptpStamp (hN : Within 0x200400 N) (port : ℕ) (m : Gptp) (s : State) (hs : Keeps N s₀ s)
    : Keeps N s₀ (gptpStamp port m s) := by
  unfold gptpStamp; extract_lets +onlyGivenNames y1
  have h2 : Keeps N s₀ y1.2 := by
    unfold y1; apply keeps_fresh (hN.via rfl); exact hs
  clear_value y1; extract_lets +onlyGivenNames y3
  have h4 : Keeps N s₀ y3 := by
    unfold y3; exact h2
  clear_value y3; refine Keeps.update 0x400 (hN.via rfl) ?_ rfl rfl rfl; exact h4

theorem keeps_gptpSend (hN : Within 0x300400 N) (port : ℕ) (m : Gptp) (s : State) (hs : Keeps N s₀ s)
    : Keeps N s₀ (gptpSend port m s) := by
  unfold gptpSend; apply keeps_ite
  · apply keeps_gptpStamp (hN.via rfl); apply keeps_emit (hN.via rfl); exact hs
  · exact hs

theorem keeps_execSync (hN : Within 0x200400 N) (port : ℕ) (s : State) (hs : Keeps N s₀ s) : Keeps N s₀ (execSync port s) := by
  unfold execSync; apply keeps_ite
  · apply keeps_gptpStamp (hN.via rfl); exact hs
  · exact hs

theorem keeps_execSyncInterval (hN : Within 0x300400 N) (s : State) (hs : Keeps N s₀ s) : Keeps N s₀ (execSyncInterval s) := by
  unfold execSyncInterval; apply keeps_ite
  · apply Keeps.foldl
    · intro z1 z2 h3; apply keeps_gptpSend (hN.via rfl); apply keeps_gptpSend (hN.via rfl); exact h3
    · refine Keeps.update 0x400 (hN.via rfl) ?_ rfl rfl rfl; exact hs
  · exact hs

theorem keeps_execPeerDelayMeasurement (hN : Within 0x300400 N) (port : ℕ) (m : Gptp) (sent : Bool) (s : State) (hs : Keeps N s₀ s)
    : Keeps N s₀ (execPeerDelayMeasurement port m sent s) := by
  unfold execPeerDelayMeasurement; apply keeps_ite
  · apply keeps_gptpSend (hN.via rfl); exact hs
  · apply keeps_ite
    · exact hs
    · extract_lets +onlyGivenNames y1
      have h2 : Keeps N s₀ y1 := by
        unfold y1; apply keeps_gptpStamp (hN.via rfl); exact hs
      clear_value y1; apply keeps_ite
      · apply keeps_gptpSend (hN.via rfl); apply keeps_gptpSend (hN.via rfl); exact h2
      · exact h2

theorem keeps_execLinkChange (hN : Within 0xa N) (port : ℕ) (up fec : Bool) (s : State) (hs : Keeps N s₀ s)
    : Keeps N s₀ (execLinkChange port up fec s) := by
  unfold execLinkChange; extract_lets +onlyGivenNames y1; clear_value y1; apply keeps_ite
  · exact hs
  · apply keeps_raise (hN.via rfl); apply keeps_setFlag (hN.via rfl); apply keeps_setFlag (hN.via rfl); exact hs

theorem keeps_seatWrite (hN : Within 0x1a05ca N) (v : Word) (s : State) (hs : Keeps N s₀ s) : Keeps N s₀ (seatWrite v s) := by
  unfold seatWrite; extract_lets +onlyGivenNames y1; clear_value y1; extract_lets +onlyGivenNames y2; clear_value y2
  extract_lets +onlyGivenNames y3; clear_value y3; extract_lets +onlyGivenNames y4
  have h5 : Keeps N s₀ y4 := by
    unfold y4; apply keeps_ite
    · apply keeps_bump (hN.via rfl); exact hs
    · exact hs
  clear_value y4; extract_lets +onlyGivenNames y6; clear_value y6; apply keeps_ite
  · apply keeps_tblShow (hN.via rfl); apply keeps_setFlag (hN.via rfl); apply keeps_plainWrite (hN.via rfl)
    apply keeps_setMember (hN.via rfl); apply keeps_sendFrame (hN.via rfl); exact h5
  · extract_lets +onlyGivenNames y7
    have h8 : Keeps N s₀ y7 := by
      unfold y7; apply keeps_plainWrite (hN.via rfl); exact h5
    clear_value y7; apply keeps_ite
    · apply keeps_svcSend (hN.via rfl); apply keeps_tblShow (hN.via rfl); apply keeps_setMember (hN.via rfl)
      refine Keeps.update 0x400 (hN.via rfl) ?_ rfl rfl rfl; exact h8
    · apply keeps_tblShow (hN.via rfl); exact h8

theorem keeps_execJoin (hN : Within 0x1a05ca N) (w : Func) (v : Word) (s : State) (hs : Keeps N s₀ s)
    : Keeps N s₀ (execJoin w v s) := by
  unfold execJoin; apply keeps_access (hN.via rfl)
  · intro z1 h2; apply keeps_seatWrite (hN.via rfl); exact h2
  · exact hs

theorem keeps_keyRegWrite (hN : Within 0x40a N) (t off : ℕ) (v : Word) (s : State) (hs : Keeps N s₀ s)
    : Keeps N s₀ (keyRegWrite t off v s) := by
  unfold keyRegWrite; apply keeps_ite
  · apply keeps_keySwitch (hN.via rfl); apply keeps_plainWrite (hN.via rfl); exact hs
  · apply keeps_bump (hN.via rfl); exact hs

theorem keeps_fabRegWrite (hN : Within 0x1a05ca N) (w : Func) (n off : Nat) (v : Word) (s : State) (hs : Keeps N s₀ s) :
    Keeps N s₀ (fabRegWrite w n off v s) := by
  unfold fabRegWrite
  extract_lets p no joined plain
  have h1 : Keeps N s₀ no := keeps_bump (hN.via rfl) _ _ _ _ hs
  have h2 : Keeps N s₀ plain := keeps_plainWrite (hN.via rfl) _ _ _ _ hs
  clear_value no joined plain
  repeat' first
    | with_reducible assumption
    | with_reducible apply Keeps.ite
    | with_reducible apply keeps_seatWrite (hN.via rfl)
    | with_reducible apply keeps_keyRegWrite (hN.via rfl)
    | with_reducible apply keeps_svcTailWrite (hN.via rfl)
    | with_reducible apply keeps_svcSend (hN.via rfl)
    | with_reducible apply keeps_setFlag (hN.via rfl)

end Sys2Proof.Machine
end

