-- ==== Sys2Proof/Laws/KeepsI.lean ====
section
/-! SUPPORT. What every operation keeps (Keeps.lean), for the operations of Fences.lean, Thermal.lean, Head.lean, History.lean,
RegisterWrite.lean. -/
namespace Sys2Proof.Machine
set_option Elab.async false

variable {s₀ : State} {N : Nat}

theorem keeps_updFence (hN : Within 0x40 N) (d : ℕ) (f : FenceSt → FenceSt) (s : State) (hs : Keeps N s₀ s)
    : Keeps N s₀ (updFence d f s) := by
  unfold updFence; refine Keeps.update 0x40 (hN.via rfl) ?_ rfl rfl rfl; exact hs

theorem keeps_setPhase (hN : Within 0x2 N) (d n : ℕ) (s : State) (hs : Keeps N s₀ s) : Keeps N s₀ (setPhase d n s) := by
  unfold setPhase
  split
  · apply keeps_setFld (hN.via rfl); exact hs
  · exact hs

theorem keeps_fenceRecord (hN : Within 0x4a N) (d code severity : ℕ) (s : State) (hs : Keeps N s₀ s)
    : Keeps N s₀ (fenceRecord d code severity s) := by
  unfold fenceRecord; apply keeps_formRec (hN.via rfl); exact hs

theorem keeps_abortEntry (hN : Within 0x21804a N) (d tag queue : ℕ) (l : Launch) (named : Bool) (s : State) (hs : Keeps N s₀ s)
    : Keeps N s₀ (abortEntry d tag queue l named s) := by
  unfold abortEntry; extract_lets +onlyGivenNames y1
  have h2 : Keeps N s₀ y1.2 := by
    unfold y1; apply keeps_fresh (hN.via rfl); exact hs
  clear_value y1; extract_lets +onlyGivenNames y3; clear_value y3; extract_lets +onlyGivenNames y4
  have h5 : Keeps N s₀ y4 := by
    unfold y4; apply keeps_ite
    · exact hs
    · apply keeps_ite
      · apply keeps_holdRecord (hN.via rfl); exact h2
      · apply keeps_updStem (hN.via rfl)
        · exact h2
        · exact fun _ c => c
  clear_value y4; apply keeps_ite
  · exact h5
  · apply keeps_formRec (hN.via rfl); exact h5

theorem keeps_abortEntries (hN : Within 0x21804a N) (d : Nat) (tag queue : Launch → Nat) (l : List Launch) (seen : List Nat) (s : State)
    (hs : Keeps N s₀ s) : Keeps N s₀ (abortEntries d tag queue l seen s) := by
  induction l generalizing seen s with
  | nil => exact hs
  | cons e l ih => exact ih _ _ (keeps_abortEntry (hN.via rfl) _ _ _ _ _ _ hs)

theorem keeps_endWork (hN : Within 0x21e04a N) (d : ℕ) (s : State) (hs : Keeps N s₀ s) : Keeps N s₀ (endWork d s) := by
  unfold endWork; apply keeps_ite
  · extract_lets +onlyGivenNames y1; clear_value y1; extract_lets +onlyGivenNames y2
    have h3 : Keeps N s₀ y2 := by
      unfold y2; apply keeps_finishKernel (hN.via rfl); exact hs
    clear_value y2; extract_lets +onlyGivenNames y4; clear_value y4; apply keeps_abortEntries (hN.via rfl)
    apply keeps_updTile (hN.via rfl)
    · exact h3
    · exact fun _ c => c
  · apply keeps_ite
    · extract_lets +onlyGivenNames y5; clear_value y5; extract_lets +onlyGivenNames y6; clear_value y6
      extract_lets +onlyGivenNames y7
      have h8 : Keeps N s₀ y7 := by
        unfold y7; apply keeps_finishJob (hN.via rfl); exact hs
      clear_value y7; extract_lets +onlyGivenNames y9
      have h10 : Keeps N s₀ y9 := by
        unfold y9
        split
        · apply keeps_stemRelease (hN.via rfl); exact h8
        · exact h8
      clear_value y9; extract_lets +onlyGivenNames y11; clear_value y11; apply keeps_abortEntries (hN.via rfl)
      apply keeps_updStem (hN.via rfl)
      · exact h10
      · exact fun _ c => c
    · split
      · extract_lets +onlyGivenNames y12; clear_value y12; apply keeps_endAllCmds (hN.via rfl)
        apply keeps_setCsi (hN.via rfl); exact hs
      · apply keeps_endAllCmds (hN.via rfl); apply keeps_setIsp (hN.via rfl); exact hs
      · apply keeps_endAllCmds (hN.via rfl); exact hs
      · exact hs

theorem keeps_fenceStart (hN : Within 0x21e04a N) (d cause : ℕ) (cascade : Option ℕ) (s : State) (hs : Keeps N s₀ s)
    : Keeps N s₀ (fenceStart d cause cascade s) := by
  unfold fenceStart; extract_lets +onlyGivenNames y1; clear_value y1; extract_lets +onlyGivenNames y2
  clear_value y2; extract_lets +onlyGivenNames y3
  have h4 : Keeps N s₀ y3 := by
    unfold y3; apply keeps_ite
    · exact hs
    · apply keeps_bump (hN.via rfl); exact hs
  clear_value y3; apply keeps_endWork (hN.via rfl); apply keeps_raise (hN.via rfl)
  apply keeps_fenceRecord (hN.via rfl); apply keeps_setPhase (hN.via rfl); apply keeps_updFence (hN.via rfl)
  exact h4

theorem keeps_replayHang (hN : Within 0x40 N) (d : ℕ) (s : State) (hs : Keeps N s₀ s) : Keeps N s₀ (replayHang d s) := by
  unfold replayHang; apply keeps_ite
  · extract_lets +onlyGivenNames y1; clear_value y1; apply keeps_updFence (hN.via rfl); exact hs
  · exact hs

theorem keeps_causeHere (hN : Within 0x21e04a N) (d cause : ℕ) (cascade : Option ℕ) (s : State) (hs : Keeps N s₀ s)
    : Keeps N s₀ (causeHere d cause cascade s).2 := by
  unfold causeHere
  split
  · exact hs
  · split
    · exact hs
    · split
      · exact hs
      · extract_lets +onlyGivenNames y1
        have h2 : Keeps N s₀ y1 := by
          unfold y1; apply keeps_ite
          · apply keeps_replayHang (hN.via rfl); exact hs
          · exact hs
        clear_value y1; extract_lets +onlyGivenNames y3
        have h4 : Keeps N s₀ y3 := by
          unfold y3; apply keeps_setFlag (hN.via rfl); exact h2
        clear_value y3
        split
        · dsimp -zeta only; apply keeps_fenceStart (hN.via rfl); exact h4
        · split
          · dsimp -zeta only; apply keeps_updFence (hN.via rfl); exact h4
          · exact h4

theorem keeps_causeAt (hN : Within 0x21e04a N) (d cause : ℕ) (s : State) (hs : Keeps N s₀ s) : Keeps N s₀ (causeAt d cause s) := by
  unfold causeAt; extract_lets +onlyGivenNames y1
  have h2 : Keeps N s₀ y1.2 := by
    unfold y1; apply keeps_causeHere (hN.via rfl); exact hs
  clear_value y1; apply keeps_ite
  · apply Keeps.foldl
    · intro z3 z4 h5; apply keeps_causeHere (hN.via rfl); exact h5
    · exact h2
  · exact h2

theorem keeps_drainStart (hN : Within 0x804a N) (d : ℕ) (s : State) (hs : Keeps N s₀ s) : Keeps N s₀ (drainStart d s) := by
  unfold drainStart; extract_lets +onlyGivenNames y1
  have h2 : Keeps N s₀ y1 := by
    unfold y1; apply keeps_setPhase (hN.via rfl); apply keeps_updFence (hN.via rfl); exact hs
  clear_value y1; apply keeps_ite
  · apply Keeps.foldl
    · intro z3 z4 h5; apply keeps_updPoolLine (hN.via rfl); apply keeps_sendWriteBack (hN.via rfl); exact h5
    · exact h2
  · exact h2

theorem keeps_poolLost (hN : Within 0x4a N) (t : ℕ) (s : State) (hs : Keeps N s₀ s) : Keeps N s₀ (poolLost t s) := by
  unfold poolLost; extract_lets +onlyGivenNames y1; clear_value y1; apply Keeps.foldl
  · intro z2 z3 h4; apply keeps_formRec (hN.via rfl); apply keeps_raise (hN.via rfl); apply keeps_bump (hN.via rfl)
    exact h4
  · exact hs

theorem keeps_revokeLocks (hN : Within 0x2000a N) (d n : ℕ) (s : State) (hs : Keeps N s₀ s) : Keeps N s₀ (revokeLocks d n s) := by
  unfold revokeLocks; extract_lets +onlyGivenNames y1; extract_lets +onlyGivenNames y2
  have h3 : Keeps N s₀ y2 := by
    unfold y2; refine Keeps.update 0x20000 (hN.via rfl) ?_ rfl rfl rfl; exact hs
  clear_value y2; apply Keeps.foldl
  · intro z4 z5 h6; extract_lets +onlyGivenNames y7; clear_value y7; extract_lets +onlyGivenNames y8; clear_value y8
    extract_lets +onlyGivenNames y9
    have h10 : Keeps N s₀ y9 := by
      unfold y9; apply keeps_ite
      · apply keeps_raise (hN.via rfl); apply keeps_bump (hN.via rfl); exact h6
      · exact h6
    clear_value y9; extract_lets +onlyGivenNames y11; clear_value y11; apply keeps_ite
    · apply keeps_dropLines (hN.via rfl); exact h10
    · apply keeps_updLine (hN.via rfl); exact h10
  · exact h3

theorem keeps_revoke (hN : Within 0x3e945a N) (d : ℕ) (s : State) (hs : Keeps N s₀ s) : Keeps N s₀ (revoke d s) := by
  unfold revoke; extract_lets +onlyGivenNames y1
  have h2 : Keeps N s₀ y1 := by
    unfold y1; apply Keeps.foldl
    · intro z3 z4 h5; apply keeps_revokeLocks (hN.via rfl); exact h5
    · exact hs
  clear_value y1; extract_lets +onlyGivenNames y6
  have h7 : Keeps N s₀ y6 := by
    unfold y6; apply keeps_fenceQueues (hN.via rfl); exact h2
  clear_value y6; extract_lets +onlyGivenNames y8
  have h9 : Keeps N s₀ y8 := by
    unfold y8; apply keeps_ite
    · apply keeps_foldTile (hN.via rfl); exact h7
    · exact h7
  clear_value y8; extract_lets +onlyGivenNames y10
  have h11 : Keeps N s₀ y10 := by
    unfold y10; apply keeps_ite
    · apply Keeps.foldl
      · intro z12 z13 h14; apply keeps_fetchFail (hN.via rfl); exact h14
      · exact h9
    · exact h9
  clear_value y10; apply keeps_abortHandles (hN.via rfl); exact h11

theorem keeps_toPhase (hN : Within 0x42 N) (d n : ℕ) (s : State) (hs : Keeps N s₀ s) : Keeps N s₀ (toPhase d n s) := by
  unfold toPhase; apply keeps_setPhase (hN.via rfl); apply keeps_updFence (hN.via rfl); exact hs

theorem keeps_execDrainEnd (hN : Within 0x3e94da N) (d : ℕ) (s : State) (hs : Keeps N s₀ s) : Keeps N s₀ (execDrainEnd d s) := by
  unfold execDrainEnd
  split
  · exact hs
  · apply keeps_ite
    · exact hs
    · extract_lets +onlyGivenNames y1; clear_value y1; extract_lets +onlyGivenNames y2; clear_value y2
      extract_lets +onlyGivenNames y3
      have h4 : Keeps N s₀ y3 := by
        unfold y3; apply Keeps.foldl
        · intro z5 z6 h7; apply keeps_ite
          · apply Keeps.foldl
            · intro z8 z9 h10; apply keeps_emit (hN.via rfl); exact h10
            · exact h7
          · exact h7
        · exact hs
      clear_value y3; extract_lets +onlyGivenNames y11
      have h12 : Keeps N s₀ y11 := by
        unfold y11; apply Keeps.foldl
        · intro z13 z14 h15; apply keeps_emit (hN.via rfl); exact h15
        · exact h4
      clear_value y11; extract_lets +onlyGivenNames y16; extract_lets +onlyGivenNames y17
      have h18 : Keeps N s₀ y17 := by
        unfold y17; refine Keeps.update 0x20000 (hN.via rfl) ?_ rfl rfl rfl; exact h12
      clear_value y17; extract_lets +onlyGivenNames y19
      have h20 : Keeps N s₀ y19 := by
        unfold y19; apply keeps_kittyFlush (hN.via rfl); apply keeps_dropLines (hN.via rfl); exact h18
      clear_value y19; extract_lets +onlyGivenNames y21
      have h22 : Keeps N s₀ y21 := by
        unfold y21; apply keeps_ite
        · apply keeps_setFld (hN.via rfl); exact h20
        · apply keeps_ite
          · apply keeps_poolLost (hN.via rfl); exact hs
          · exact hs
      clear_value y21; apply keeps_toPhase (hN.via rfl); apply keeps_revoke (hN.via rfl); exact h22

theorem keeps_execRevokeEnd (hN : Within 0x13fd6a N) (d : ℕ) (s : State) (hs : Keeps N s₀ s) : Keeps N s₀ (execRevokeEnd d s) := by
  unfold execRevokeEnd; apply keeps_ite
  · apply keeps_toPhase (hN.via rfl); apply keeps_domainReset (hN.via rfl); exact hs
  · exact hs

theorem keeps_execResetEnd (hN : Within 0x4a N) (d : ℕ) (s : State) (hs : Keeps N s₀ s) : Keeps N s₀ (execResetEnd d s) := by
  unfold execResetEnd; apply keeps_ite
  · exact hs
  · apply keeps_raise (hN.via rfl); apply keeps_fenceRecord (hN.via rfl); apply keeps_toPhase (hN.via rfl); exact hs

theorem keeps_release (hN : Within 0x35e04a N) (w : Func) (d : ℕ) (s : State) (hs : Keeps N s₀ s) : Keeps N s₀ (release w d s) := by
  unfold release
  split
  · exact hs
  · extract_lets +onlyGivenNames y1
    have h2 : Keeps N s₀ y1 := by
      unfold y1; apply keeps_accessError (hN.via rfl); exact hs
    clear_value y1; extract_lets +onlyGivenNames y3; clear_value y3; apply keeps_ite
    · exact h2
    · apply keeps_ite
      · exact h2
      · extract_lets +onlyGivenNames y4
        have h5 : Keeps N s₀ y4 := by
          unfold y4; apply keeps_wr (hN.via rfl); exact hs
        clear_value y4; extract_lets +onlyGivenNames y6; extract_lets +onlyGivenNames y7
        have h8 : Keeps N s₀ y7 := by
          unfold y7; refine Keeps.update 0x40 (hN.via rfl) ?_ rfl rfl rfl; exact h5
        clear_value y7; extract_lets +onlyGivenNames y9
        have h10 : Keeps N s₀ y9 := by
          unfold y9; apply keeps_ite
          · apply keeps_setFlag (hN.via rfl); exact h8
          · exact h8
        clear_value y9; apply Keeps.foldl
        · intro z11 z12 h13; apply keeps_causeAt (hN.via rfl); exact h13
        · apply keeps_settleQueues (hN.via rfl); apply keeps_fenceRecord (hN.via rfl); exact h10

theorem keeps_fenceCtrlWrite (hN : Within 0x35e04a N) (w : Func) (p : Page) (v : Word) (s : State) (hs : Keeps N s₀ s)
    : Keeps N s₀ (fenceCtrlWrite w p v s) := by
  unfold fenceCtrlWrite; extract_lets +onlyGivenNames y1; clear_value y1; apply keeps_ite
  · exact hs
  · extract_lets +onlyGivenNames y2; clear_value y2; extract_lets +onlyGivenNames y3
    have h4 : Keeps N s₀ y3 := by
      unfold y3; apply keeps_setFld (hN.via rfl); exact hs
    clear_value y3; extract_lets +onlyGivenNames y5
    have h6 : Keeps N s₀ y5 := by
      unfold y5; apply keeps_ite
      · apply keeps_release (hN.via rfl); exact h4
      · exact h4
    clear_value y5; apply keeps_ite
    · apply keeps_causeAt (hN.via rfl); exact h6
    · exact h6

theorem keeps_execFence (hN : Within 0x35e1ca N) (w : Func) (p : Page) (drain : ℕ) (s : State) (hs : Keeps N s₀ s)
    : Keeps N s₀ (execFence w p drain s) := by
  unfold execFence; extract_lets +onlyGivenNames y1; clear_value y1; apply keeps_access (hN.via rfl)
  · intro z2 h3; apply keeps_fenceCtrlWrite (hN.via rfl); exact h3
  · exact hs

theorem keeps_execRelease (hN : Within 0x35e1ca N) (w : Func) (p : Page) (drain : ℕ) (s : State) (hs : Keeps N s₀ s)
    : Keeps N s₀ (execRelease w p drain s) := by
  unfold execRelease; extract_lets +onlyGivenNames y1; clear_value y1; apply keeps_access (hN.via rfl)
  · intro z2 h3; apply keeps_fenceCtrlWrite (hN.via rfl); exact h3
  · exact hs

theorem keeps_execReinstalled (hN : Within 0xa905a N) (t : ℕ) (s : State) (hs : Keeps N s₀ s) : Keeps N s₀ (execReinstalled t s) := by
  unfold execReinstalled; apply keeps_ite
  · exact hs
  · extract_lets +onlyGivenNames y1; clear_value y1; extract_lets +onlyGivenNames y2; clear_value y2
    extract_lets +onlyGivenNames y3
    have h4 : Keeps N s₀ y3 := by
      unfold y3; apply Keeps.foldl
      · intro z5 z6 h7; apply keeps_setReady (hN.via rfl); refine Keeps.update 0x10 (hN.via rfl) ?_ rfl rfl rfl
        exact h7
      · exact hs
    clear_value y3; extract_lets +onlyGivenNames y8; clear_value y8; extract_lets +onlyGivenNames y9
    have h10 : Keeps N s₀ y9 := by
      unfold y9; apply Keeps.foldl
      · intro z11 z12 h13; apply Keeps.foldl
        · intro z14 z15 h16
          split
          · apply keeps_placeContent (hN.via rfl); exact h16
          · exact h16
        · exact h13
      · exact h4
    clear_value y9; extract_lets +onlyGivenNames y17; extract_lets +onlyGivenNames y18
    have h19 : Keeps N s₀ y18 := by
      unfold y18; refine Keeps.update 0x40 (hN.via rfl) ?_ rfl rfl rfl; exact h10
    clear_value y18; apply keeps_ite
    · apply keeps_formRec (hN.via rfl); exact h19
    · exact h19

theorem keeps_execCmdTimeout (hN : Within 0x21e04a N) (p : Page) (id : ℕ) (s : State) (hs : Keeps N s₀ s)
    : Keeps N s₀ (execCmdTimeout p id s) := by
  unfold execCmdTimeout; extract_lets +onlyGivenNames y1; clear_value y1; apply keeps_ite
  · exact hs
  · extract_lets +onlyGivenNames y2; clear_value y2; extract_lets +onlyGivenNames y3; clear_value y3
    extract_lets +onlyGivenNames y4; extract_lets +onlyGivenNames y5
    have h6 : Keeps N s₀ y5 := by
      unfold y5; apply keeps_formRec (hN.via rfl); apply keeps_raise (hN.via rfl)
      refine Keeps.update 0x8 (hN.via rfl) ?_ rfl rfl rfl; exact hs
    clear_value y5; apply keeps_ite
    · apply Keeps.foldl
      · intro z7 z8 h9; apply keeps_causeAt (hN.via rfl); exact h9
      · exact h6
    · apply keeps_causeAt (hN.via rfl); exact h6

theorem keeps_execFlrTimeout (hN : Within 0x21e04a N) (c : ℕ) (s : State) (hs : Keeps N s₀ s) : Keeps N s₀ (execFlrTimeout c s) := by
  unfold execFlrTimeout
  split
  · apply keeps_ite
    · apply Keeps.foldl
      · intro z1 z2 h3; apply keeps_causeHere (hN.via rfl); exact h3
      · exact hs
    · exact hs
  · exact hs

theorem keeps_goFatal (hN : Within 0x31e04a N) (cause : ℕ) (s : State) (hs : Keeps N s₀ s) : Keeps N s₀ (goFatal cause s) := by
  unfold goFatal; apply keeps_ite
  · exact hs
  · extract_lets +onlyGivenNames y1
    have h2 : Keeps N s₀ y1 := by
      unfold y1; apply keeps_emit (hN.via rfl); apply keeps_raise (hN.via rfl); apply keeps_formRec (hN.via rfl)
      apply keeps_wr (hN.via rfl); apply keeps_setFlag (hN.via rfl); exact hs
    clear_value y1; apply Keeps.foldl
    · intro z3 z4 h5; apply keeps_causeHere (hN.via rfl); exact h5
    · exact h2

theorem keeps_wdogFire (hN : Within 0x31e04a N) (s : State) (hs : Keeps N s₀ s) : Keeps N s₀ (wdogFire s) := by
  unfold wdogFire; extract_lets +onlyGivenNames y1; clear_value y1; extract_lets +onlyGivenNames y2; clear_value y2
  extract_lets +onlyGivenNames y3; extract_lets +onlyGivenNames y4
  have h5 : Keeps N s₀ y4 := by
    unfold y4; apply keeps_setFlag (hN.via rfl); apply keeps_bump (hN.via rfl); apply keeps_raise (hN.via rfl)
    apply keeps_formRec (hN.via rfl); refine Keeps.update 0x40 (hN.via rfl) ?_ rfl rfl rfl; exact hs
  clear_value y4; apply keeps_ite
  · apply keeps_goFatal (hN.via rfl); exact h5
  · exact h5

theorem keeps_markUnit (hN : Within 0x40 N) (t unit : ℕ) (s : State) (hs : Keeps N s₀ s) : Keeps N s₀ (markUnit t unit s) := by
  unfold markUnit; extract_lets +onlyGivenNames y1; clear_value y1
  refine Keeps.update 0x40 (hN.via rfl) ?_ rfl rfl rfl; exact hs

theorem keeps_tileBad (hN : Within 0x21e04a N) (t : ℕ) (r : FaultRec) (s : State) (hs : Keeps N s₀ s) : Keeps N s₀ (tileBad t r s) := by
  unfold tileBad; apply keeps_causeAt (hN.via rfl); apply keeps_formRec (hN.via rfl); exact hs

theorem keeps_kittyBad (hN : Within 0x12004a N) (n k bits : ℕ) (s : State) (hs : Keeps N s₀ s) : Keeps N s₀ (kittyBad n k bits s) := by
  unfold kittyBad
  split
  · exact hs
  · extract_lets +onlyGivenNames y1
    have h2 : Keeps N s₀ y1 := by
      unfold y1; apply Keeps.foldl
      · intro z3 z4 h5; apply keeps_emit (hN.via rfl); exact h5
      · exact hs
    clear_value y1; apply keeps_formRec (hN.via rfl); apply keeps_kittyPoison (hN.via rfl)
    apply keeps_dropLines (hN.via rfl); exact h2

theorem keeps_receiverCut (hN : Within 0x600a N) (r k : ℕ) (s : State) (hs : Keeps N s₀ s) : Keeps N s₀ (receiverCut r k s) := by
  unfold receiverCut
  split
  · exact hs
  · apply keeps_ite
    · exact hs
    · beta_reduce; apply keeps_ite
      · apply keeps_raise (hN.via rfl); apply keeps_bump (hN.via rfl); apply keeps_updFrameOf (hN.via rfl); exact hs
      · apply keeps_ispCutAt (hN.via rfl); apply keeps_raise (hN.via rfl); apply keeps_bump (hN.via rfl)
        apply keeps_updFrameOf (hN.via rfl); exact hs

theorem keeps_inputCut (hN : Within 0x600a N) (n i : ℕ) (s : State) (hs : Keeps N s₀ s) : Keeps N s₀ (inputCut n i s) := by
  unfold inputCut; apply keeps_receiverCut (hN.via rfl); exact hs

theorem keeps_outputDrop (hN : Within 0x400a N) (n o : ℕ) (s : State) (hs : Keeps N s₀ s) : Keeps N s₀ (outputDrop n o s) := by
  unfold outputDrop; apply Keeps.foldl
  · intro z1 z2 h3
    split
    · exact h3
    · extract_lets +onlyGivenNames y4
      have h5 : Keeps N s₀ y4.2 := by
        unfold y4; apply keeps_outDrop (hN.via rfl); exact h3
      clear_value y4; extract_lets +onlyGivenNames y6; clear_value y6; apply keeps_updFrame (hN.via rfl); exact h5
  · exact hs

theorem keeps_eccCorrected (hN : Within 0x4a N) (site : EccSite) (bits : ℕ) (s : State) (hs : Keeps N s₀ s)
    : Keeps N s₀ (eccCorrected site bits s) := by
  unfold eccCorrected; extract_lets +onlyGivenNames y1; clear_value y1; extract_lets +onlyGivenNames y2
  have h3 : Keeps N s₀ y2 := by
    unfold y2
    split
    · apply keeps_bump (hN.via rfl); exact hs
    · apply keeps_bump (hN.via rfl); exact hs
    · exact hs
  clear_value y2; apply keeps_formCorrected (hN.via rfl); exact h3

theorem keeps_eccBad (hN : Within 0x33e84a N) (site : EccSite) (bits : ℕ) (s : State) (hs : Keeps N s₀ s)
    : Keeps N s₀ (eccBad site bits s) := by
  unfold eccBad; extract_lets +onlyGivenNames y1; clear_value y1; extract_lets +onlyGivenNames y2; clear_value y2
  extract_lets +onlyGivenNames y3; clear_value y3
  split
  · apply keeps_tileBad (hN.via rfl); apply keeps_markUnit (hN.via rfl); apply keeps_updTile (hN.via rfl)
    · exact hs
    · exact fun _ c => c
  · apply keeps_tileBad (hN.via rfl); exact hs
  · apply keeps_tileBad (hN.via rfl); exact hs
  · apply keeps_tileBad (hN.via rfl); exact hs
  · apply keeps_tileBad (hN.via rfl); exact hs
  · apply keeps_kittyBad (hN.via rfl); exact hs
  · exact hs
  · apply keeps_ringZeroise (hN.via rfl); apply keeps_formRec (hN.via rfl); exact hs
  · apply keeps_causeAt (hN.via rfl); apply keeps_formRec (hN.via rfl); exact hs
  · apply keeps_receiverCut (hN.via rfl); apply keeps_formRec (hN.via rfl); exact hs
  · apply keeps_inputCut (hN.via rfl); apply keeps_formRec (hN.via rfl); exact hs
  · apply keeps_outputDrop (hN.via rfl); apply keeps_formRec (hN.via rfl); exact hs
  · apply keeps_wdogFire (hN.via rfl); apply keeps_formRec (hN.via rfl); exact hs
  · apply keeps_goFatal (hN.via rfl); exact hs
  · apply keeps_goFatal (hN.via rfl); exact hs
  · apply keeps_goFatal (hN.via rfl); exact hs
  · apply keeps_goFatal (hN.via rfl); exact hs

theorem keeps_execEccError (hN : Within 0x33e84a N) (site : EccSite) (corrected : Bool) (bits : ℕ) (s : State) (hs : Keeps N s₀ s)
    : Keeps N s₀ (execEccError site corrected bits s) := by
  unfold execEccError
  split
  · extract_lets +onlyGivenNames y1; clear_value y1; apply keeps_ite
    · apply keeps_granuleError (hN.via rfl); exact hs
    · exact hs
  · apply keeps_ite
    · exact hs
    · apply keeps_ite
      · apply keeps_eccBad (hN.via rfl); exact hs
      · apply keeps_ite
        · apply keeps_eccCorrected (hN.via rfl); exact hs
        · exact hs

theorem keeps_linkLost (hN : Within 0x21e04a N) (die edge : ℕ) (s : State) (hs : Keeps N s₀ s) : Keeps N s₀ (linkLost die edge s) := by
  unfold linkLost; extract_lets +onlyGivenNames y1
  have h2 : Keeps N s₀ y1 := by
    unfold y1; apply keeps_formRec (hN.via rfl); apply Keeps.foldl
    · intro z3 z4 h5; apply keeps_setFld (hN.via rfl); exact h5
    · exact hs
  clear_value y1; apply Keeps.foldl
  · intro z6 z7 h8; apply keeps_causeAt (hN.via rfl); exact h8
  · exact h2

theorem keeps_linksLost (hN : Within 0x21e05a N) (s : State) (hs : Keeps N s₀ s) : Keeps N s₀ (linksLost s) := by
  unfold linksLost; apply Keeps.foldl
  · intro z1 z2 h3; apply keeps_ite
    · apply keeps_linkLost (hN.via rfl); exact h3
    · exact h3
  · refine Keeps.update 0x10 (hN.via rfl) ?_ rfl rfl rfl; exact hs

theorem keeps_moduleOut (hN : Within 0x21e04a N) (die edge m : ℕ) (s : State) (hs : Keeps N s₀ s)
    : Keeps N s₀ (moduleOut die edge m s) := by
  unfold moduleOut; extract_lets +onlyGivenNames y1
  have h2 : Keeps N s₀ y1 := by
    unfold y1; apply keeps_formRec (hN.via rfl); apply Keeps.foldl
    · intro z3 z4 h5; apply keeps_raise (hN.via rfl); apply keeps_setFld (hN.via rfl); exact h5
    · exact hs
  clear_value y1; apply keeps_ite
  · apply keeps_linkLost (hN.via rfl); exact h2
  · exact h2

theorem keeps_execFlitCrcFailure (hN : Within 0x21e04a N) (die edge m nth : ℕ) (s : State) (hs : Keeps N s₀ s)
    : Keeps N s₀ (execFlitCrcFailure die edge m nth s) := by
  unfold execFlitCrcFailure; apply keeps_ite
  · exact hs
  · extract_lets +onlyGivenNames y1; clear_value y1; extract_lets +onlyGivenNames y2
    have h3 : Keeps N s₀ y2 := by
      unfold y2; apply keeps_bump (hN.via rfl); exact hs
    clear_value y2; extract_lets +onlyGivenNames y4
    have h5 : Keeps N s₀ y4 := by
      unfold y4; apply keeps_ite
      · apply keeps_bump (hN.via rfl); exact h3
      · exact h3
    clear_value y4; apply keeps_ite
    · apply keeps_moduleOut (hN.via rfl); exact h5
    · exact h5

theorem keeps_execFlitDiscard (hN : Within 0x21e04a N) (die edge : ℕ) (s : State) (hs : Keeps N s₀ s)
    : Keeps N s₀ (execFlitDiscard die edge s) := by
  unfold execFlitDiscard; apply keeps_ite
  · extract_lets +onlyGivenNames y1; clear_value y1; apply keeps_linkLost (hN.via rfl); apply Keeps.foldl
    · intro z2 z3 h4; apply keeps_updTile (hN.via rfl)
      · exact h4
      · exact fun _ c => c
    · exact hs
  · exact hs

theorem keeps_execRecordDelivery (hN : Within 0x1001ca N) (s : State) (hs : Keeps N s₀ s) : Keeps N s₀ (execRecordDelivery s) := by
  unfold execRecordDelivery
  split
  · exact hs
  · apply keeps_ite
    · exact hs
    · extract_lets +onlyGivenNames y1; clear_value y1; extract_lets +onlyGivenNames y2; clear_value y2
      extract_lets +onlyGivenNames y3; extract_lets +onlyGivenNames y4
      have h5 : Keeps N s₀ y4 := by
        unfold y4; apply keeps_wr (hN.via rfl); apply keeps_emit (hN.via rfl)
        refine Keeps.update 0x40 (hN.via rfl) ?_ rfl rfl rfl; exact hs
      clear_value y4; apply keeps_ite
      · apply keeps_postCell (hN.via rfl); exact h5
      · exact h5

theorem keeps_replayRec (hN : Within 0x4a N) (d c code n : ℕ) (s : State) (hs : Keeps N s₀ s)
    : Keeps N s₀ (replayRec d c code n s) := by
  unfold replayRec; apply keeps_formRec (hN.via rfl); exact hs

theorem keeps_destroySuspect (hN : Within 0x14000a N) (c : ℕ) (s : State) (hs : Keeps N s₀ s) : Keeps N s₀ (destroySuspect c s) := by
  unfold destroySuspect; apply keeps_ite
  · apply keeps_destroyBegin (hN.via rfl); exact hs
  · exact hs

theorem keeps_unattributed (hN : Within 0x14004a N) (d : ℕ) (cs : List ℕ) (s : State) (hs : Keeps N s₀ s)
    : Keeps N s₀ (unattributed d cs s) := by
  unfold unattributed; extract_lets +onlyGivenNames y1
  have h2 : Keeps N s₀ y1 := by
    unfold y1; apply keeps_bump (hN.via rfl); apply Keeps.foldl
    · intro z3 z4 h5; apply keeps_replayRec (hN.via rfl); exact h5
    · exact hs
  clear_value y1; apply Keeps.foldl
  · intro z6 z7 h8; apply keeps_destroySuspect (hN.via rfl); exact h8
  · exact h2

theorem keeps_replayOutcome (hN : Within 0x14004a N) (d : ℕ) (s : State) (hs : Keeps N s₀ s) : Keeps N s₀ (replayOutcome d s) := by
  unfold replayOutcome; extract_lets +onlyGivenNames y1; apply keeps_ite
  · exact hs
  · extract_lets +onlyGivenNames y2; clear_value y2; extract_lets +onlyGivenNames y3
    have h4 : Keeps N s₀ y3 := by
      unfold y3; apply keeps_updFence (hN.via rfl); exact hs
    clear_value y3
    split
    · extract_lets +onlyGivenNames y5
      have h6 : Keeps N s₀ y5 := by
        unfold y5; apply keeps_bump (hN.via rfl); apply Keeps.foldl
        · intro z7 z8 h9; apply keeps_replayRec (hN.via rfl); exact h9
        · exact h4
      clear_value y5; apply keeps_destroySuspect (hN.via rfl); exact h6
    · apply keeps_ite
      · apply keeps_unattributed (hN.via rfl); exact h4
      · extract_lets +onlyGivenNames y10; clear_value y10; extract_lets +onlyGivenNames y11
        extract_lets +onlyGivenNames y12
        have h13 : Keeps N s₀ y12 := by
          unfold y12; refine Keeps.update 0x40 (hN.via rfl) ?_ rfl rfl rfl; exact h4
        clear_value y12; apply keeps_ite
        · apply keeps_unattributed (hN.via rfl); exact h13
        · apply keeps_bump (hN.via rfl); apply Keeps.foldl
          · intro z14 z15 h16; apply keeps_replayRec (hN.via rfl); exact h16
          · exact h13

theorem keeps_replayWrite (hN : Within 0x14004a N) (v : Word) (s : State) (hs : Keeps N s₀ s) : Keeps N s₀ (replayWrite v s) := by
  unfold replayWrite; extract_lets +onlyGivenNames y1; clear_value y1; extract_lets +onlyGivenNames y2
  clear_value y2; apply keeps_ite
  · apply keeps_replayOutcome (hN.via rfl); apply keeps_plainWrite (hN.via rfl); exact hs
  · apply keeps_ite
    · apply keeps_bump (hN.via rfl); exact hs
    · extract_lets +onlyGivenNames y3
      have h4 : Keeps N s₀ y3 := by
        unfold y3; apply keeps_plainWrite (hN.via rfl); exact hs
      clear_value y3; extract_lets +onlyGivenNames y5; apply keeps_ite
      · apply keeps_bump (hN.via rfl); apply keeps_updFence (hN.via rfl); exact h4
      · exact h4

theorem keeps_fcCfgWrite (hN : Within 0xa N) (v : Word) (s : State) (hs : Keeps N s₀ s) : Keeps N s₀ (fcCfgWrite v s) := by
  unfold fcCfgWrite; extract_lets +onlyGivenNames y1; clear_value y1; extract_lets +onlyGivenNames y2
  clear_value y2; apply keeps_ite
  · apply keeps_bump (hN.via rfl); exact hs
  · extract_lets +onlyGivenNames y3
    have h4 : Keeps N s₀ y3 := by
      unfold y3; apply keeps_plainWrite (hN.via rfl); exact hs
    clear_value y3; apply keeps_ite
    · apply keeps_wr (hN.via rfl); apply keeps_wr (hN.via rfl); exact h4
    · exact h4

theorem keeps_execRingEn (hN : Within 0x1001ca N) (w : Func) (v : Word) (s : State) (hs : Keeps N s₀ s)
    : Keeps N s₀ (execRingEn w v s) := by
  unfold execRingEn; apply keeps_access (hN.via rfl)
  · intro z1 h2; apply keeps_fcCfgWrite (hN.via rfl); exact h2
  · exact hs

theorem keeps_fcHeadWrite (hN : Within 0xa N) (v : Word) (s : State) (hs : Keeps N s₀ s) : Keeps N s₀ (fcHeadWrite v s) := by
  unfold fcHeadWrite; apply keeps_ite
  · apply keeps_wr (hN.via rfl); exact hs
  · apply keeps_bump (hN.via rfl); exact hs

theorem keeps_execFcRingHeadWrite (hN : Within 0x1001ca N) (w : Func) (v : Word) (s : State) (hs : Keeps N s₀ s)
    : Keeps N s₀ (execFcRingHeadWrite w v s) := by
  unfold execFcRingHeadWrite; apply keeps_access (hN.via rfl)
  · intro z1 h2; apply keeps_fcHeadWrite (hN.via rfl); exact h2
  · exact hs

theorem keeps_wdogKick (hN : Within 0x40 N) (s : State) (hs : Keeps N s₀ s) : Keeps N s₀ (wdogKick s) := by
  unfold wdogKick; refine Keeps.update 0x40 (hN.via rfl) ?_ rfl rfl rfl; exact hs

theorem keeps_execWatchdogKick (hN : Within 0x1001ca N) (w : Func) (v : Word) (s : State) (hs : Keeps N s₀ s)
    : Keeps N s₀ (execWatchdogKick w v s) := by
  unfold execWatchdogKick; apply keeps_access (hN.via rfl)
  · intro z1 h2; apply keeps_ite
    · apply keeps_wdogKick (hN.via rfl); exact h2
    · exact h2
  · exact hs

theorem keeps_execWatchdogFire (hN : Within 0x31e04a N) (s : State) (hs : Keeps N s₀ s) : Keeps N s₀ (execWatchdogFire s) := by
  unfold execWatchdogFire; apply keeps_ite
  · apply keeps_wdogFire (hN.via rfl); exact hs
  · exact hs

theorem keeps_fcRegWrite (hN : Within 0x14004a N) (w : Func) (off : ℕ) (v : Word) (s : State) (hs : Keeps N s₀ s)
    : Keeps N s₀ (fcRegWrite w off v s) := by
  unfold fcRegWrite; extract_lets +onlyGivenNames y1
  have h2 : Keeps N s₀ y1 := by
    unfold y1; apply keeps_bump (hN.via rfl); exact hs
  clear_value y1; apply keeps_ite
  · apply keeps_fcCfgWrite (hN.via rfl); exact hs
  · apply keeps_ite
    · apply keeps_ite
      · exact h2
      · apply keeps_plainWrite (hN.via rfl); exact hs
    · apply keeps_ite
      · apply keeps_fcHeadWrite (hN.via rfl); exact hs
      · apply keeps_ite
        · apply keeps_ite
          · exact hs
          · apply keeps_ite
            · exact h2
            · apply keeps_wdogKick (hN.via rfl); apply keeps_plainWrite (hN.via rfl); exact hs
        · apply keeps_ite
          · apply keeps_ite
            · apply keeps_wdogKick (hN.via rfl); exact hs
            · exact hs
          · apply keeps_ite
            · apply keeps_replayWrite (hN.via rfl); exact hs
            · apply keeps_plainWrite (hN.via rfl); exact hs

theorem keeps_tripCount (hN : Within 0x10003a N) (k : ℕ) (x : ℤ) (s : State) (hs : Keeps N s₀ s) : Keeps N s₀ (tripCount k x s) := by
  unfold tripCount; extract_lets +onlyGivenNames y1; extract_lets +onlyGivenNames y2
  extract_lets +onlyGivenNames y3
  have h4 : Keeps N s₀ y3 := by
    unfold y3; refine Keeps.update 0x20 (hN.via rfl) ?_ rfl rfl rfl; exact hs
  apply keeps_ite
  · exact h4
  · apply keeps_setCap (hN.via rfl); refine Keeps.update 0x30 (hN.via rfl) ?_ rfl rfl rfl; exact h4

theorem keeps_stackRefresh (hN : Within 0x2a N) (k : ℕ) (x : ℤ) (s : State) (hs : Keeps N s₀ s) : Keeps N s₀ (stackRefresh k x s) := by
  unfold stackRefresh; extract_lets +onlyGivenNames y1; clear_value y1; apply keeps_ite
  · apply keeps_raise (hN.via rfl); refine Keeps.update 0x20 (hN.via rfl) ?_ rfl rfl rfl; exact hs
  · apply keeps_ite
    · refine Keeps.update 0x20 (hN.via rfl) ?_ rfl rfl rfl; exact hs
    · exact hs

theorem keeps_execTempSensorUpdate (hN : Within 0x10003a N) (k value : ℕ) (s : State) (hs : Keeps N s₀ s)
    : Keeps N s₀ (execTempSensorUpdate k value s) := by
  unfold execTempSensorUpdate; extract_lets +onlyGivenNames y1; clear_value y1; apply keeps_ite
  · exact hs
  · extract_lets +onlyGivenNames y2
    have h3 : Keeps N s₀ y2 := by
      unfold y2; apply keeps_wr (hN.via rfl); exact hs
    clear_value y2; apply keeps_ite
    · apply keeps_thermShow (hN.via rfl); exact h3
    · extract_lets +onlyGivenNames y4; clear_value y4; extract_lets +onlyGivenNames y5
      extract_lets +onlyGivenNames y6
      have h7 : Keeps N s₀ y6 := by
        unfold y6; apply keeps_ite
        · apply keeps_tripCount (hN.via rfl); refine Keeps.update 0x20 (hN.via rfl) ?_ rfl rfl rfl; exact h3
        · apply keeps_stackRefresh (hN.via rfl); refine Keeps.update 0x20 (hN.via rfl) ?_ rfl rfl rfl; exact h3
      clear_value y6; apply keeps_thermShow (hN.via rfl); exact h7

theorem keeps_execThrottleDecision (hN : Within 0x10002a N) (p : ℕ) (s : State) (hs : Keeps N s₀ s)
    : Keeps N s₀ (execThrottleDecision p s) := by
  unfold execThrottleDecision; apply keeps_ite
  · exact hs
  · extract_lets +onlyGivenNames y1; clear_value y1; extract_lets +onlyGivenNames y2; clear_value y2
    extract_lets +onlyGivenNames y3; clear_value y3; extract_lets +onlyGivenNames y4
    have h5 : ∀ z0 z1 z2, Keeps N s₀ z2 → Keeps N s₀ (y4 z0 z1 z2) := by
      intro z6 z7 z8 h9; unfold y4
      split
      · apply keeps_setFld (hN.via rfl); exact h9
      · exact h9
    clear_value y4; apply keeps_setCap (hN.via rfl); apply h5; apply h5; apply keeps_wr (hN.via rfl)
    refine Keeps.update 0x20 (hN.via rfl) ?_ rfl rfl rfl; exact hs

theorem keeps_execAvsRetry (hN : Within 0x10000a N) (die : ℕ) (s : State) (hs : Keeps N s₀ s) : Keeps N s₀ (execAvsRetry die s) := by
  unfold execAvsRetry; extract_lets +onlyGivenNames y1; clear_value y1; apply keeps_ite
  · apply keeps_emit (hN.via rfl); apply keeps_bump (hN.via rfl); exact hs
  · exact hs

theorem keeps_thermCfgWrite (hN : Within 0xa N) (v : Word) (s : State) (hs : Keeps N s₀ s) : Keeps N s₀ (thermCfgWrite v s) := by
  unfold thermCfgWrite; extract_lets +onlyGivenNames y1; clear_value y1; apply keeps_ite
  · apply keeps_refuse (hN.via rfl); exact hs
  · apply keeps_plainWrite (hN.via rfl); exact hs

theorem keeps_powerLimitWrite (hN : Within 0xa N) (v : Word) (s : State) (hs : Keeps N s₀ s) : Keeps N s₀ (powerLimitWrite v s) := by
  unfold powerLimitWrite; apply keeps_ite
  · apply keeps_refuse (hN.via rfl); exact hs
  · apply keeps_plainWrite (hN.via rfl); exact hs

theorem keeps_expertAsk (hN : Within 0x8 N) (p : Page) (w : Func) (granted : Bool) (s : State) (hs : Keeps N s₀ s)
    : Keeps N s₀ (expertAsk p w granted s) := by
  unfold expertAsk; refine Keeps.update 0x8 (hN.via rfl) ?_ rfl rfl rfl; exact hs

theorem keeps_expertWrite (hN : Within 0x106a N) (w : Func) (p : Page) (on : Bool) (s : State) (hs : Keeps N s₀ s)
    : Keeps N s₀ (expertWrite w p on s) := by
  unfold expertWrite; extract_lets +onlyGivenNames y1; clear_value y1; extract_lets +onlyGivenNames y2
  clear_value y2; extract_lets +onlyGivenNames y3
  have h4 : Keeps N s₀ y3 := by
    unfold y3; apply keeps_accessError (hN.via rfl); exact hs
  clear_value y3; apply keeps_ite
  · apply keeps_ite
    · apply keeps_expertAsk (hN.via rfl); exact hs
    · apply keeps_ite
      · exact h4
      · extract_lets +onlyGivenNames y5
        have h6 : Keeps N s₀ y5 := by
          unfold y5; apply keeps_expertAsk (hN.via rfl); apply keeps_setFld (hN.via rfl)
          apply keeps_setFlag (hN.via rfl); exact hs
        clear_value y5; apply keeps_ite
        · refine Keeps.update 0x1000 (hN.via rfl) ?_ rfl rfl rfl; exact h6
        · exact h6
  · apply keeps_ite
    · extract_lets +onlyGivenNames y7
      have h8 : Keeps N s₀ y7 := by
        unfold y7; apply keeps_setFlag (hN.via rfl); exact hs
      clear_value y7; apply keeps_ite
      · apply keeps_regUpdate (hN.via rfl); apply keeps_wr (hN.via rfl); exact h8
      · exact h8
    · exact hs

theorem keeps_enableWrite (hN : Within 0x14280a N) (p : Page) (on : Bool) (s : State) (hs : Keeps N s₀ s)
    : Keeps N s₀ (enableWrite p on s) := by
  unfold enableWrite; extract_lets +onlyGivenNames y1; clear_value y1; extract_lets +onlyGivenNames y2
  have h3 : Keeps N s₀ y2 := by
    unfold y2; apply keeps_setFlag (hN.via rfl); exact hs
  clear_value y2; extract_lets +onlyGivenNames y4; extract_lets +onlyGivenNames y5
  have h6 : Keeps N s₀ y5 := by
    unfold y5; apply keeps_ite
    · apply keeps_setCsi (hN.via rfl); exact h3
    · exact h3
  clear_value y5; extract_lets +onlyGivenNames y7
  have h8 : Keeps N s₀ y7 := by
    unfold y7; apply keeps_ite
    · apply keeps_ceAccept (hN.via rfl); exact h6
    · exact h6
  clear_value y7; extract_lets +onlyGivenNames y9
  have h10 : Keeps N s₀ y9 := by
    unfold y9; apply keeps_ite
    · apply keeps_lineClear (hN.via rfl); exact h8
    · exact h8
  clear_value y9; extract_lets +onlyGivenNames y11
  have h12 : Keeps N s₀ y11 := by
    unfold y11; apply keeps_ite
    · apply keeps_detRestart (hN.via rfl); exact h10
    · exact h10
  clear_value y11; apply keeps_ite
  · exact h12
  · apply keeps_settleQueues (hN.via rfl); exact h12

theorem keeps_resetRequest (hN : Within 0xa N) (p : Page) (s : State) (hs : Keeps N s₀ s) : Keeps N s₀ (resetRequest p s) := by
  unfold resetRequest; apply keeps_ite
  · exact hs
  · apply keeps_setFlag (hN.via rfl); refine Keeps.update 0x8 (hN.via rfl) ?_ rfl rfl rfl; exact hs

theorem keeps_ctrlWrite (hN : Within 0x14386a N) (w : Func) (p : Page) (v : Word) (s : State) (hs : Keeps N s₀ s)
    : Keeps N s₀ (ctrlWrite w p v s) := by
  unfold ctrlWrite; extract_lets +onlyGivenNames y1; clear_value y1; extract_lets +onlyGivenNames y2; clear_value y2
  apply keeps_ite
  · apply keeps_ite
    · apply keeps_resetRequest (hN.via rfl); exact hs
    · apply keeps_accessError (hN.via rfl); exact hs
  · split
    · apply keeps_expertWrite (hN.via rfl); exact hs
    · extract_lets +onlyGivenNames y3
      have h4 : Keeps N s₀ y3 := by
        unfold y3; apply keeps_expertWrite (hN.via rfl); apply keeps_enableWrite (hN.via rfl); exact hs
      clear_value y3; extract_lets +onlyGivenNames y5
      have h6 : Keeps N s₀ y5 := by
        unfold y5; apply keeps_ite
        · apply keeps_clearCounters (hN.via rfl); exact h4
        · exact h4
      clear_value y5; apply keeps_ite
      · exact h6
      · apply keeps_ite
        · apply keeps_accessError (hN.via rfl); exact h6
        · apply keeps_resetRequest (hN.via rfl); exact h6

theorem keeps_ctrlAccess (hN : Within 0x1439ea N) (w : Func) (p : Page) (v : Word) (s : State) (hs : Keeps N s₀ s)
    : Keeps N s₀ (ctrlAccess w p v s) := by
  unfold ctrlAccess; apply keeps_access (hN.via rfl)
  · intro z1 h2; apply keeps_ctrlWrite (hN.via rfl); exact h2
  · exact hs

theorem keeps_execEnable (hN : Within 0x1439ea N) (w : Func) (p : Page) (on : Bool) (s : State) (hs : Keeps N s₀ s)
    : Keeps N s₀ (execEnable w p on s) := by
  unfold execEnable; apply keeps_ctrlAccess (hN.via rfl); exact hs

theorem keeps_execSoftReset (hN : Within 0x1439ea N) (w : Func) (p : Page) (s : State) (hs : Keeps N s₀ s)
    : Keeps N s₀ (execSoftReset w p s) := by
  unfold execSoftReset; apply keeps_ctrlAccess (hN.via rfl); exact hs

theorem keeps_execExpert (hN : Within 0x1439ea N) (w : Func) (p : Page) (s : State) (hs : Keeps N s₀ s)
    : Keeps N s₀ (execExpert w p s) := by
  unfold execExpert; apply keeps_ctrlAccess (hN.via rfl); exact hs

theorem keeps_execExpertClear (hN : Within 0x1439ea N) (w : Func) (p : Page) (s : State) (hs : Keeps N s₀ s)
    : Keeps N s₀ (execExpertClear w p s) := by
  unfold execExpertClear; apply keeps_ctrlAccess (hN.via rfl); exact hs

theorem keeps_execCntClear (hN : Within 0x1439ea N) (w : Func) (p : Page) (s : State) (hs : Keeps N s₀ s)
    : Keeps N s₀ (execCntClear w p s) := by
  unfold execCntClear; apply keeps_ctrlAccess (hN.via rfl); exact hs

theorem keeps_evtRawWrite (hN : Within 0xa N) (p : Page) (v : Word) (s : State) (hs : Keeps N s₀ s)
    : Keeps N s₀ (evtRawWrite p v s) := by
  unfold evtRawWrite; extract_lets +onlyGivenNames y1; clear_value y1; apply keeps_noteWritten (hN.via rfl)
  apply keeps_wr (hN.via rfl); exact hs

theorem keeps_evtForceWrite (hN : Within 0xa N) (p : Page) (v : Word) (s : State) (hs : Keeps N s₀ s)
    : Keeps N s₀ (evtForceWrite p v s) := by
  unfold evtForceWrite; apply Keeps.foldl
  · intro z1 z2 h3; apply keeps_ite
    · apply keeps_raise (hN.via rfl); exact h3
    · exact h3
  · exact hs

theorem keeps_evtEnWrite (hN : Within 0xa N) (p : Page) (v : Word) (s : State) (hs : Keeps N s₀ s) : Keeps N s₀ (evtEnWrite p v s) := by
  unfold evtEnWrite; apply keeps_noteWritten (hN.via rfl); apply keeps_wr (hN.via rfl); exact hs

theorem keeps_evtRouteWrite (hN : Within 0x4a N) (w : Func) (p : Page) (v : Word) (s : State) (hs : Keeps N s₀ s)
    : Keeps N s₀ (evtRouteWrite w p v s) := by
  unfold evtRouteWrite; extract_lets +onlyGivenNames y1; clear_value y1; extract_lets +onlyGivenNames y2
  clear_value y2; apply keeps_ite
  · apply keeps_accessError (hN.via rfl); exact hs
  · apply keeps_wr (hN.via rfl); exact hs

theorem keeps_execEvtRawWrite (hN : Within 0x1001ca N) (w : Func) (p : Page) (v : Word) (s : State) (hs : Keeps N s₀ s)
    : Keeps N s₀ (execEvtRawWrite w p v s) := by
  unfold execEvtRawWrite; apply keeps_access (hN.via rfl)
  · intro z1 h2; apply keeps_evtRawWrite (hN.via rfl); exact h2
  · exact hs

theorem keeps_execEvtForce (hN : Within 0x1001ca N) (w : Func) (p : Page) (v : Word) (s : State) (hs : Keeps N s₀ s)
    : Keeps N s₀ (execEvtForce w p v s) := by
  unfold execEvtForce; apply keeps_access (hN.via rfl)
  · intro z1 h2; apply keeps_unlessVf (hN.via rfl)
    · intro z3 h4; apply keeps_evtForceWrite (hN.via rfl); exact h4
    · exact h2
  · exact hs

theorem keeps_execEvtEnWrite (hN : Within 0x1001ca N) (w : Func) (p : Page) (v : Word) (s : State) (hs : Keeps N s₀ s)
    : Keeps N s₀ (execEvtEnWrite w p v s) := by
  unfold execEvtEnWrite; apply keeps_access (hN.via rfl)
  · intro z1 h2; apply keeps_evtEnWrite (hN.via rfl); exact h2
  · exact hs

theorem keeps_execEvtRouteWrite (hN : Within 0x1001ca N) (w : Func) (p : Page) (v : Word) (s : State) (hs : Keeps N s₀ s)
    : Keeps N s₀ (execEvtRouteWrite w p v s) := by
  unfold execEvtRouteWrite; apply keeps_access (hN.via rfl)
  · intro z1 h2; apply keeps_evtRouteWrite (hN.via rfl); exact h2
  · exact hs

theorem keeps_timeoutWrite (hN : Within 0x4a N) (w : Func) (p : Page) (v : Word) (s : State) (hs : Keeps N s₀ s)
    : Keeps N s₀ (timeoutWrite w p v s) := by
  unfold timeoutWrite; apply keeps_ite
  · exact hs
  · apply keeps_ite
    · apply keeps_accessError (hN.via rfl); exact hs
    · apply keeps_wr (hN.via rfl); exact hs

theorem keeps_headWrite (hN : Within 0x35f86a N) (w : Func) (p : Page) (off : ℕ) (v : Word) (s : State) (hs : Keeps N s₀ s)
    : Keeps N s₀ (headWrite w p off v s) := by
  unfold headWrite; apply keeps_ite
  · apply keeps_ctrlWrite (hN.via rfl); exact hs
  · apply keeps_ite
    · apply keeps_evtRawWrite (hN.via rfl); exact hs
    · apply keeps_ite
      · apply keeps_evtEnWrite (hN.via rfl); exact hs
      · apply keeps_ite
        · apply keeps_evtForceWrite (hN.via rfl); exact hs
        · apply keeps_ite
          · apply keeps_evtRouteWrite (hN.via rfl); exact hs
          · apply keeps_ite
            · apply keeps_ite
              · apply keeps_accessError (hN.via rfl); exact hs
              · apply keeps_wr (hN.via rfl); exact hs
            · apply keeps_ite
              · apply keeps_dealCtrl (hN.via rfl); exact hs
              · apply keeps_ite
                · apply keeps_fenceCtrlWrite (hN.via rfl); exact hs
                · apply keeps_ite
                  · apply keeps_timeoutWrite (hN.via rfl); exact hs
                  · exact hs

theorem keeps_hhRefused (hN : Within 0xa N) (s : State) (hs : Keeps N s₀ s) : Keeps N s₀ (hhRefused s) := by
  unfold hhRefused; apply keeps_refuse (hN.via rfl); exact hs

theorem keeps_flushAll (hN : Within 0x1a808a N) (s : State) (hs : Keeps N s₀ s) : Keeps N s₀ (flushAll s) := by
  unfold flushAll; extract_lets +onlyGivenNames y1
  have h2 : Keeps N s₀ y1 := by
    unfold y1; apply Keeps.foldl
    · intro z3 z4 h5; apply keeps_ite
      · apply keeps_poolInvalidate (hN.via rfl); exact h5
      · exact h5
    · exact hs
  clear_value y1; apply Keeps.foldl
  · intro z6 z7 h8; apply keeps_ite
    · apply keeps_dropLines (hN.via rfl); apply keeps_kittyFlush (hN.via rfl); exact h8
    · exact h8
  · exact h2

theorem keeps_checkpointBegin (hN : Within 0x1a818a N) (s : State) (hs : Keeps N s₀ s) : Keeps N s₀ (checkpointBegin s) := by
  unfold checkpointBegin; extract_lets +onlyGivenNames y1
  have h2 : Keeps N s₀ y1 := by
    unfold y1; apply keeps_flushAll (hN.via rfl); exact hs
  clear_value y1; apply keeps_setFlag (hN.via rfl); refine Keeps.update 0x100 (hN.via rfl) ?_ rfl rfl rfl; exact h2

theorem keeps_checkpoint (hN : Within 0x1a818a N) (s : State) (hs : Keeps N s₀ s) : Keeps N s₀ (checkpoint s) := by
  unfold checkpoint; apply keeps_ite
  · apply keeps_hhRefused (hN.via rfl); exact hs
  · extract_lets +onlyGivenNames y1
    have h2 : ∀ z0 z1, Keeps N s₀ z0 → Keeps N s₀ (y1 z0 z1) := by
      intro z3 z4 h5; unfold y1; apply keeps_hhCapture (hN.via rfl); exact h5
    clear_value y1; apply keeps_checkpointBegin (hN.via rfl); apply Keeps.foldl
    · intro z6 z7 h8; apply h2; exact h8
    · apply keeps_hhCapture (hN.via rfl); exact hs

theorem keeps_execCheckpointComplete (hN : Within 0x1a818a N) (s : State) (hs : Keeps N s₀ s) :
    Keeps N s₀ (execCheckpointComplete s) := by
  unfold execCheckpointComplete
  split
  · split
    · have h : Keeps N s₀ (flushAll s) := keeps_flushAll (hN.via rfl) _ hs
      generalize flushAll s = u at h ⊢
      apply keeps_bump (hN.via rfl); apply keeps_raise (hN.via rfl); apply keeps_setFlag (hN.via rfl)
      apply keeps_setFlag (hN.via rfl); refine Keeps.update 0x100 (hN.via rfl) h rfl rfl rfl
    · exact hs
  · exact hs

theorem keeps_modeWrite (hN : Within 0x102 N) (m : ℕ) (s : State) (hs : Keeps N s₀ s) : Keeps N s₀ (modeWrite m s) := by
  unfold modeWrite; extract_lets +onlyGivenNames y1; clear_value y1; extract_lets +onlyGivenNames y2
  have h3 : Keeps N s₀ y2 := by
    unfold y2; apply keeps_setFld (hN.via rfl); apply keeps_setFlag (hN.via rfl); exact hs
  clear_value y2; apply keeps_ite
  · exact h3
  · apply keeps_ite
    · extract_lets +onlyGivenNames y4; clear_value y4; refine Keeps.update 0x100 (hN.via rfl) ?_ rfl rfl rfl
      exact h3
    · refine Keeps.update 0x100 (hN.via rfl) ?_ rfl rfl rfl; exact h3

theorem keeps_hhCtrlWrite (hN : Within 0x1a818a N) (v : Word) (s : State) (hs : Keeps N s₀ s) : Keeps N s₀ (hhCtrlWrite v s) := by
  unfold hhCtrlWrite; apply keeps_ite
  · apply keeps_hhRefused (hN.via rfl); exact hs
  · extract_lets +onlyGivenNames y1
    have h2 : Keeps N s₀ y1 := by
      unfold y1; apply keeps_modeWrite (hN.via rfl); exact hs
    clear_value y1; apply keeps_ite
    · apply keeps_checkpoint (hN.via rfl); exact h2
    · exact h2

theorem keeps_hhCtrlAccess (hN : Within 0x1a81ca N) (w : Func) (v : Word) (s : State) (hs : Keeps N s₀ s)
    : Keeps N s₀ (hhCtrlAccess w v s) := by
  unfold hhCtrlAccess; apply keeps_access (hN.via rfl)
  · intro z1 h2; apply keeps_hhCtrlWrite (hN.via rfl); exact h2
  · exact hs

theorem keeps_execOff (hN : Within 0x1a81ca N) (w : Func) (s : State) (hs : Keeps N s₀ s) : Keeps N s₀ (execOff w s) := by
  unfold execOff; apply keeps_hhCtrlAccess (hN.via rfl); exact hs

theorem keeps_execRecord (hN : Within 0x1a81ca N) (w : Func) (s : State) (hs : Keeps N s₀ s) : Keeps N s₀ (execRecord w s) := by
  unfold execRecord; apply keeps_hhCtrlAccess (hN.via rfl); exact hs

theorem keeps_execReplay (hN : Within 0x1a81ca N) (w : Func) (s : State) (hs : Keeps N s₀ s) : Keeps N s₀ (execReplay w s) := by
  unfold execReplay; apply keeps_hhCtrlAccess (hN.via rfl); exact hs

theorem keeps_execCheckpoint (hN : Within 0x1a81ca N) (w : Func) (s : State) (hs : Keeps N s₀ s) : Keeps N s₀ (execCheckpoint w s) := by
  unfold execCheckpoint; apply keeps_hhCtrlAccess (hN.via rfl); exact hs

theorem keeps_hhMark (hN : Within 0x10a N) (w : Func) (c : ℕ) (s : State) (hs : Keeps N s₀ s) : Keeps N s₀ (hhMark w c s) := by
  unfold hhMark; apply keeps_ite
  · apply keeps_hhRefused (hN.via rfl); exact hs
  · apply keeps_hhCapture (hN.via rfl); exact hs

theorem keeps_execHhMark (hN : Within 0x1001ca N) (w : Func) (v : Word) (s : State) (hs : Keeps N s₀ s)
    : Keeps N s₀ (execHhMark w v s) := by
  unfold execHhMark; apply keeps_access (hN.via rfl)
  · intro z1 h2; apply keeps_hhMark (hN.via rfl); exact h2
  · exact hs

theorem keeps_hhHeadWrite (hN : Within 0x10a N) (high : Bool) (v : Word) (s : State) (hs : Keeps N s₀ s)
    : Keeps N s₀ (hhHeadWrite high v s) := by
  unfold hhHeadWrite; extract_lets +onlyGivenNames y1; clear_value y1; extract_lets +onlyGivenNames y2
  clear_value y2; apply keeps_ite
  · apply keeps_hhRefused (hN.via rfl); exact hs
  · apply keeps_wr64 (hN.via rfl); refine Keeps.update 0x100 (hN.via rfl) ?_ rfl rfl rfl; exact hs

theorem keeps_hhConfig (hN : Within 0xa N) (ok : Bool) (off : ℕ) (v : Word) (s : State) (hs : Keeps N s₀ s)
    : Keeps N s₀ (hhConfig ok off v s) := by
  unfold hhConfig; apply keeps_ite
  · apply keeps_plainWrite (hN.via rfl); exact hs
  · apply keeps_hhRefused (hN.via rfl); exact hs

theorem keeps_hhRegWrite (hN : Within 0x1a818a N) (w : Func) (off : ℕ) (v : Word) (s : State) (hs : Keeps N s₀ s)
    : Keeps N s₀ (hhRegWrite w off v s) := by
  unfold hhRegWrite; apply keeps_ite
  · apply keeps_hhCtrlWrite (hN.via rfl); exact hs
  · apply keeps_ite
    · apply keeps_hhConfig (hN.via rfl); exact hs
    · apply keeps_ite
      · apply keeps_hhConfig (hN.via rfl); exact hs
      · apply keeps_ite
        · apply keeps_hhConfig (hN.via rfl); exact hs
        · apply keeps_ite
          · apply keeps_ite
            · exact hs
            · apply keeps_plainWrite (hN.via rfl); exact hs
          · apply keeps_ite
            · apply keeps_hhHeadWrite (hN.via rfl); exact hs
            · apply keeps_ite
              · apply keeps_hhHeadWrite (hN.via rfl); exact hs
              · apply keeps_ite
                · apply keeps_hhConfig (hN.via rfl); exact hs
                · apply keeps_ite
                  · apply keeps_hhConfig (hN.via rfl); exact hs
                  · apply keeps_ite
                    · apply keeps_hhMark (hN.via rfl); exact hs
                    · apply keeps_ite
                      · apply keeps_plainWrite (hN.via rfl); exact hs
                      · apply keeps_plainWrite (hN.via rfl); exact hs

theorem keeps_pwrRefused (hN : Within 0xa N) (s : State) (hs : Keeps N s₀ s) : Keeps N s₀ (pwrRefused s) := by
  unfold pwrRefused; apply keeps_refuse (hN.via rfl); exact hs

theorem keeps_pwrRegWrite (hN : Within 0x14003e N) (w : Func) (off : ℕ) (v : Word) (s : State) (hs : Keeps N s₀ s)
    : Keeps N s₀ (pwrRegWrite w off v s) := by
  unfold pwrRegWrite; apply keeps_ite
  · apply keeps_pwrCmdWrite (hN.via rfl); exact hs
  · apply keeps_ite
    · apply keeps_wakeReq (hN.via rfl); exact hs
    · apply keeps_ite
      · apply keeps_ite
        · apply keeps_pwrRefused (hN.via rfl); exact hs
        · apply keeps_plainWrite (hN.via rfl); exact hs
      · apply keeps_ite
        · apply keeps_ite
          · apply keeps_pwrRefused (hN.via rfl); exact hs
          · apply keeps_plainWrite (hN.via rfl); exact hs
        · apply keeps_ite
          · apply keeps_ite
            · apply keeps_plainWrite (hN.via rfl); exact hs
            · apply keeps_pwrRefused (hN.via rfl); exact hs
          · apply keeps_ite
            · extract_lets +onlyGivenNames y1; clear_value y1; apply keeps_ite
              · apply keeps_pwrRefused (hN.via rfl); exact hs
              · apply keeps_plainWrite (hN.via rfl); exact hs
            · apply keeps_ite
              · apply keeps_thermCfgWrite (hN.via rfl); exact hs
              · apply keeps_ite
                · apply keeps_powerLimitWrite (hN.via rfl); exact hs
                · apply keeps_ite
                  · apply keeps_regUpdate (hN.via rfl); apply keeps_plainWrite (hN.via rfl); exact hs
                  · apply keeps_plainWrite (hN.via rfl); exact hs

theorem keeps_regWrite (hN : Within 0x3ffffe N) (w : Func) (p : Page) (off : ℕ) (v : Word) (list : List Byte) (s : State)
    (hs : Keeps N s₀ s) : Keeps N s₀ (regWrite w p off v list s) := by
  unfold regWrite; extract_lets +onlyGivenNames y1; clear_value y1; apply keeps_ite
  · apply keeps_ite
    · exact hs
    · apply keeps_headWrite (hN.via rfl); exact hs
  · apply keeps_ite
    · exact hs
    · split
      · apply keeps_ite
        · apply keeps_ttCtrl (hN.via rfl); exact hs
        · apply keeps_ite
          · apply keeps_ttRate (hN.via rfl); exact hs
          · apply keeps_plainWrite (hN.via rfl); exact hs
      · apply keeps_pwrRegWrite (hN.via rfl); exact hs
      · apply keeps_mbRegWrite (hN.via rfl); exact hs
      · apply keeps_fcRegWrite (hN.via rfl); exact hs
      · apply keeps_hhRegWrite (hN.via rfl); exact hs
      · apply keeps_fabRegWrite (hN.via rfl); exact hs
      · apply keeps_csiRegWrite (hN.via rfl); exact hs
      · apply keeps_ispRegWrite (hN.via rfl); exact hs
      · apply keeps_ainRegWrite (hN.via rfl); exact hs
      · apply keeps_bfRegWrite (hN.via rfl); exact hs
      · apply keeps_ringRegWrite (hN.via rfl); exact hs
      · apply keeps_voRegWrite (hN.via rfl); exact hs
      · apply keeps_ceRegWrite (hN.via rfl); exact hs
      · apply keeps_mxRegWrite (hN.via rfl); exact hs
      · apply keeps_veRegWrite (hN.via rfl); exact hs
      · apply keeps_suRegWrite (hN.via rfl); exact hs
      · apply keeps_tspRegWrite (hN.via rfl); exact hs
      · apply keeps_meshRegWrite (hN.via rfl); exact hs
      · apply keeps_stemRegWrite (hN.via rfl); exact hs
      · apply keeps_kittyRegWrite (hN.via rfl); exact hs
      · apply keeps_qeRegWrite (hN.via rfl); exact hs
      · apply keeps_memencRegWrite (hN.via rfl); exact hs
      · apply keeps_ctxRegWrite (hN.via rfl); exact hs
      · exact hs
      · apply keeps_plainWrite (hN.via rfl); exact hs
      · apply keeps_plainWrite (hN.via rfl); exact hs
      · apply keeps_plainWrite (hN.via rfl); exact hs
      · apply keeps_plainWrite (hN.via rfl); exact hs
      · apply keeps_plainWrite (hN.via rfl); exact hs
      · apply keeps_plainWrite (hN.via rfl); exact hs

theorem keeps_strayError (hN : Within 0x4a N) (kind : ℕ) (w : Func) (a : ℕ) (s : State) (hs : Keeps N s₀ s)
    : Keeps N s₀ (strayError kind w a s) := by
  unfold strayError; apply keeps_formRec (hN.via rfl); apply keeps_bump (hN.via rfl); exact hs

theorem keeps_linked (hN : Within 0x100080 N) (w : Func) (r : HostReq) (k : State → State) (s : State)
    (hs : ∀ z0, Keeps N s₀ z0 → Keeps N s₀ (k z0)) (hs1 : Keeps N s₀ s) : Keeps N s₀ (linked w r k s) := by
  unfold linked
  split
  · apply keeps_emit (hN.via rfl); exact hs1
  · apply keeps_hold (hN.via rfl); exact hs1
  · exact hs1
  · apply hs; exact hs1

theorem keeps_misaligned (hN : Within 0x10004a N) (w : Func) (write : Bool) (a : ℕ) (s : State) (hs : Keeps N s₀ s)
    : Keeps N s₀ (misaligned w write a s) := by
  unfold misaligned; extract_lets +onlyGivenNames y1
  have h2 : Keeps N s₀ y1 := by
    unfold y1
    split
    · apply keeps_accessError (hN.via rfl); exact hs
    · apply keeps_strayError (hN.via rfl); exact hs
  clear_value y1; apply keeps_ite
  · exact h2
  · apply keeps_emit (hN.via rfl); exact h2

theorem keeps_execMisalignedAccess (hN : Within 0x1000ca N) (w : Func) (write : Bool) (a : ℕ) (s : State) (hs : Keeps N s₀ s)
    : Keeps N s₀ (execMisalignedAccess w write a s) := by
  unfold execMisalignedAccess; apply keeps_linked (hN.via rfl)
  · intro z1 h2; apply keeps_misaligned (hN.via rfl); exact h2
  · exact hs

theorem keeps_wordWrite (hN : Within 0x3ffffe N) (w : Func) (a : ℕ) (v : Word) (list : List Byte) (s : State) (hs : Keeps N s₀ s)
    : Keeps N s₀ (wordWrite w a v list s) := by
  unfold wordWrite
  split
  · apply keeps_linked (hN.via rfl)
    · intro z1 h2; apply keeps_strayError (hN.via rfl); exact h2
    · exact hs
  · apply keeps_ite
    · apply keeps_doorbellWrite (hN.via rfl); exact hs
    · split
      · apply keeps_linked (hN.via rfl)
        · intro z3 h4; apply keeps_strayError (hN.via rfl); exact h4
        · exact hs
      · apply keeps_accessWith (hN.via rfl)
        · intro z5 h6; apply keeps_regWrite (hN.via rfl); exact h6
        · exact hs

theorem keeps_wordsWrite (hN : Within 0x3ffffe N) (w : Func) (list : List Byte) (vs : List Word) (a : Nat) (s : State) (hs : Keeps N s₀ s) :
    Keeps N s₀ (wordsWrite w list vs a s) := by
  induction vs generalizing a s with
  | nil => exact hs
  | cons v r ih => exact ih _ _ (keeps_wordWrite (hN.via rfl) _ _ _ _ _ hs)

theorem keeps_execRegisterWrite (hN : Within 0x3ffffe N) (w : Func) (a : ℕ) (vs : List Word) (list : List Byte) (s : State)
    (hs : Keeps N s₀ s) : Keeps N s₀ (execRegisterWrite w a vs list s) := by
  unfold execRegisterWrite; apply keeps_ite
  · apply keeps_wordsWrite (hN.via rfl); exact hs
  · apply keeps_execMisalignedAccess (hN.via rfl); exact hs

theorem keeps_resumeReq (hN : Within 0x3ffffe N) (s : State) (r : HostReq) (hs : Keeps N s₀ s) : Keeps N s₀ (resumeReq s r) := by
  unfold resumeReq
  split
  · apply keeps_accessWith (hN.via rfl)
    · intro z1 h2; apply keeps_regWrite (hN.via rfl); exact h2
    · exact hs
  · apply keeps_ite
    · apply keeps_execTtNowRead (hN.via rfl); exact hs
    · apply keeps_ite
      · apply keeps_execVcErrRead (hN.via rfl); exact hs
      · apply keeps_ite
        · apply keeps_execIspTblDataAccess (hN.via rfl); exact hs
        · apply keeps_ite
          · apply keeps_execIspXtblDataAccess (hN.via rfl); exact hs
          · apply keeps_readAccess (hN.via rfl)
            · intro z3 h4; exact h4
            · exact hs
  · apply keeps_doorbellWrite (hN.via rfl); exact hs
  · apply keeps_linked (hN.via rfl)
    · intro z5 h6; apply keeps_strayError (hN.via rfl); exact h6
    · exact hs
  · apply keeps_execMisalignedAccess (hN.via rfl); exact hs
  · apply keeps_execStagingWrite (hN.via rfl); exact hs
  · apply keeps_execMsixUnmask (hN.via rfl); exact hs
  · apply keeps_execConfigurationRequest (hN.via rfl); exact hs

theorem keeps_resumeReqs (hN : Within 0x3ffffe N) (s : State) (hs : Keeps N s₀ s) : Keeps N s₀ (resumeReqs s) := by
  unfold resumeReqs; apply keeps_ite
  · exact hs
  · apply Keeps.foldl
    · intro z1 z2 h3; apply keeps_resumeReq (hN.via rfl); exact h3
    · refine Keeps.update 0x80 (hN.via rfl) ?_ rfl rfl rfl; exact hs

end Sys2Proof.Machine
end

