-- ==== Sys2Proof/Laws/KeepsJ.lean ====
section
/-! SUPPORT. What every operation keeps (Keeps.lean), for the operations of Replay.lean, Beat.lean. -/
namespace Sys2Proof.Machine
set_option Elab.async false

variable {s₀ : State} {N : Nat}

theorem keeps_injectWrite (hN : Within 0x3ffffe N) (b : List Byte) (s : State) (hs : Keeps N s₀ s) : Keeps N s₀ (injectWrite b s) := by
  unfold injectWrite; extract_lets +onlyGivenNames y1; clear_value y1
  split
  · exact hs
  · extract_lets +onlyGivenNames y2; clear_value y2; apply keeps_ite
    · exact hs
    · apply keeps_ite
      · apply keeps_accessError (hN.via rfl); exact hs
      · apply keeps_ite
        · apply keeps_accessError (hN.via rfl); exact hs
        · apply keeps_regWrite (hN.via rfl); exact hs

theorem keeps_injectDoorbell (hN : Within 0x14010a N) (b : List Byte) (s : State) (hs : Keeps N s₀ s)
    : Keeps N s₀ (injectDoorbell b s) := by
  unfold injectDoorbell; extract_lets +onlyGivenNames y1; clear_value y1; apply keeps_doorbellWord (hN.via rfl)
  apply keeps_updQueue (hN.via rfl); exact hs

theorem keeps_feed (hN : Within 0x3f99ca N) (q : ℕ) (x : Xfer) (bs : List Byte) (s : State) (hs : Keeps N s₀ s)
    : Keeps N s₀ (feed q x bs s) := by
  unfold feed; apply keeps_ite
  · apply keeps_execPoolFill (hN.via rfl); exact hs
  · apply keeps_execTransferComplete (hN.via rfl); exact hs

theorem keeps_injectHostRead (hN : Within 0x3f99ca N) (b : List Byte) (s : State) (hs : Keeps N s₀ s)
    : Keeps N s₀ (injectHostRead b s) := by
  unfold injectHostRead; extract_lets +onlyGivenNames y1; clear_value y1
  split
  · apply keeps_feed (hN.via rfl); exact hs
  · exact hs

theorem keeps_injectAudio (hN : Within 0x3f99ca N) (island : ℕ) (b : List Byte) (s : State) (hs : Keeps N s₀ s)
    : Keeps N s₀ (injectAudio island b s) := by
  unfold injectAudio; extract_lets +onlyGivenNames y1; clear_value y1
  split
  · apply keeps_feed (hN.via rfl); exact hs
  · exact hs

theorem keeps_injectMem (hN : Within 0x1a008a N) (b : List Byte) (s : State) (hs : Keeps N s₀ s) : Keeps N s₀ (injectMem b s) := by
  unfold injectMem; extract_lets +onlyGivenNames y1; clear_value y1; apply keeps_dropLines (hN.via rfl)
  apply keeps_slotWrite (hN.via rfl); exact hs

theorem keeps_injectLine (hN : Within 0x610a N) (unit : ℕ) (b : List Byte) (s : State) (hs : Keeps N s₀ s)
    : Keeps N s₀ (injectLine unit b s) := by
  unfold injectLine; extract_lets +onlyGivenNames y1; clear_value y1; extract_lets +onlyGivenNames y2
  clear_value y2; extract_lets +onlyGivenNames y3; clear_value y3
  split
  · exact hs
  · extract_lets +onlyGivenNames y4; clear_value y4; apply keeps_updFrameOf (hN.via rfl)
    apply keeps_csiDeliver (hN.via rfl); apply keeps_csiPad (hN.via rfl); exact hs

theorem keeps_injectFrame (hN : Within 0x610a N) (unit : ℕ) (b : List Byte) (s : State) (hs : Keeps N s₀ s)
    : Keeps N s₀ (injectFrame unit b s) := by
  unfold injectFrame; extract_lets +onlyGivenNames y1; clear_value y1; extract_lets +onlyGivenNames y2
  clear_value y2; apply keeps_ite
  · apply keeps_csiClose (hN.via rfl); apply keeps_updFrameOf (hN.via rfl); exact hs
  · apply keeps_updFrameOf (hN.via rfl); apply keeps_csiOpen (hN.via rfl); apply keeps_updSlot (hN.via rfl)
    exact hs

theorem keeps_injectOutLine (hN : Within 0x4000 N) (unit : ℕ) (b : List Byte) (s : State) (hs : Keeps N s₀ s)
    : Keeps N s₀ (injectOutLine unit b s) := by
  unfold injectOutLine; extract_lets +onlyGivenNames y1; clear_value y1; extract_lets +onlyGivenNames y2
  clear_value y2; extract_lets +onlyGivenNames y3; clear_value y3; extract_lets +onlyGivenNames y4; clear_value y4
  extract_lets +onlyGivenNames y5; extract_lets +onlyGivenNames y6; clear_value y6; extract_lets +onlyGivenNames y7
  clear_value y7; extract_lets +onlyGivenNames y8; clear_value y8; extract_lets +onlyGivenNames y9; clear_value y9
  extract_lets +onlyGivenNames y10; clear_value y10; extract_lets +onlyGivenNames y11; clear_value y11
  apply keeps_setIsp (hN.via rfl); exact hs

theorem keeps_injectVerdict (hN : Within 0x113e N) (b : List Byte) (s : State) (hs : Keeps N s₀ s)
    : Keeps N s₀ (injectVerdict b s) := by
  unfold injectVerdict; extract_lets +onlyGivenNames y1; clear_value y1; apply keeps_ceVerdict (hN.via rfl)
  exact hs

theorem keeps_injectClock (hN : Within 0x10012a N) (b : List Byte) (s : State) (hs : Keeps N s₀ s) : Keeps N s₀ (injectClock b s) := by
  unfold injectClock
  split
  · apply keeps_clockSet (hN.via rfl); exact hs
  · apply keeps_clockSet (hN.via rfl); exact hs
  · exact hs

theorem keeps_injectTime (hN : Within 0x10e N) (b : List Byte) (s : State) (hs : Keeps N s₀ s) : Keeps N s₀ (injectTime b s) := by
  unfold injectTime; extract_lets +onlyGivenNames y1; clear_value y1; extract_lets +onlyGivenNames y2
  extract_lets +onlyGivenNames y3
  have h4 : ∀ z0, Keeps N s₀ (y3 z0) := by
    intro z5; unfold y3; apply keeps_ite
    · exact hs
    · refine Keeps.update 0x4 (hN.via rfl) ?_ rfl rfl rfl; exact hs
  clear_value y3
  split
  · apply h4
  · apply h4
  · apply keeps_ttRate (hN.via rfl); exact hs

theorem keeps_injectLate (hN : Within 0x20000e N) (island : ℕ) (b : List Byte) (s : State) (hs : Keeps N s₀ s)
    : Keeps N s₀ (injectLate island b s) := by
  unfold injectLate; extract_lets +onlyGivenNames y1
  have h2 : Keeps N s₀ y1.2 := by
    unfold y1; apply keeps_fresh (hN.via rfl); exact hs
  clear_value y1; extract_lets +onlyGivenNames y3
  have h4 : Keeps N s₀ y3 := by
    unfold y3; apply keeps_commitMsg (hN.via rfl); exact h2
  clear_value y3; apply keeps_bump (hN.via rfl); apply keeps_raise (hN.via rfl)
  refine Keeps.update 0x4 (hN.via rfl) ?_ rfl rfl rfl; exact h4

theorem keeps_injectRelax (hN : Within 0x10e N) (b : List Byte) (s : State) (hs : Keeps N s₀ s) : Keeps N s₀ (injectRelax b s) := by
  unfold injectRelax; apply keeps_applyRelax (hN.via rfl); apply Keeps.foldl
  · intro z1 z2 h3; apply keeps_wr (hN.via rfl); exact h3
  · exact hs

theorem keeps_injectTable (hN : Within 0x3f9dfe N) (b : List Byte) (s : State) (hs : Keeps N s₀ s) : Keeps N s₀ (injectTable b s) := by
  unfold injectTable; extract_lets +onlyGivenNames y1; clear_value y1; extract_lets +onlyGivenNames y2
  clear_value y2; extract_lets +onlyGivenNames y3; clear_value y3
  split
  · apply keeps_execHello (hN.via rfl); exact hs
  · apply keeps_execLeave (hN.via rfl); exact hs
  · apply keeps_execBid (hN.via rfl); exact hs
  · apply keeps_execAward (hN.via rfl); exact hs
  · apply keeps_execFetchReq (hN.via rfl); exact hs
  · apply keeps_execFetchData (hN.via rfl); exact hs
  · apply keeps_execFetchErr (hN.via rfl); exact hs
  · apply keeps_execLendReq (hN.via rfl); exact hs
  · apply keeps_execLendOffer (hN.via rfl); exact hs
  · apply keeps_execLendAccept (hN.via rfl); exact hs
  · apply keeps_execLendData (hN.via rfl); exact hs
  · apply keeps_execLendEnd (hN.via rfl); exact hs
  · apply keeps_execService (hN.via rfl); exact hs
  · exact hs

theorem keeps_injectDigest (hN : Within 0x10a N) (tt : ℕ) (b : List Byte) (s : State) (hs : Keeps N s₀ s)
    : Keeps N s₀ (injectDigest tt b s) := by
  unfold injectDigest; extract_lets +onlyGivenNames y1; clear_value y1; extract_lets +onlyGivenNames y2
  clear_value y2
  split
  · extract_lets +onlyGivenNames y3; extract_lets +onlyGivenNames y4
    have h5 : Keeps N s₀ y4 := by
      unfold y4; refine Keeps.update 0x100 (hN.via rfl) ?_ rfl rfl rfl; exact hs
    clear_value y4; apply keeps_ite
    · exact h5
    · apply keeps_diverge (hN.via rfl); exact h5
  · refine Keeps.update 0x100 (hN.via rfl) ?_ rfl rfl rfl; exact hs

theorem keeps_injectButtons (hN : Within 0x40a N) (island : ℕ) (b : List Byte) (s : State) (hs : Keeps N s₀ s)
    : Keeps N s₀ (injectButtons island b s) := by
  unfold injectButtons; extract_lets +onlyGivenNames y1; extract_lets +onlyGivenNames y2
  have h3 : ∀ z0, Keeps N s₀ (y2 z0) := by
    intro z4; unfold y2; refine Keeps.update 0x8 (hN.via rfl) ?_ rfl rfl rfl; exact hs
  clear_value y2; apply keeps_ite
  · exact hs
  · apply keeps_ite
    · apply h3
    · apply keeps_ite
      · apply h3
      · apply keeps_ite
        · apply h3
        · apply keeps_ite
          · apply keeps_setFld (hN.via rfl); refine Keeps.update 0x400 (hN.via rfl) ?_ rfl rfl rfl; exact hs
          · exact hs

theorem keeps_inject (hN : Within 0x3ffffe N) (r : HistRec) (s : State) (hs : Keeps N s₀ s) : Keeps N s₀ (inject r s) := by
  unfold inject; extract_lets +onlyGivenNames y1; clear_value y1
  split
  · apply keeps_checkpointBegin (hN.via rfl); exact hs
  · apply keeps_injectButtons (hN.via rfl); exact hs
  · apply keeps_injectWrite (hN.via rfl); exact hs
  · apply keeps_injectDoorbell (hN.via rfl); exact hs
  · apply keeps_injectHostRead (hN.via rfl); exact hs
  · apply keeps_injectMem (hN.via rfl); exact hs
  · apply keeps_injectLine (hN.via rfl); exact hs
  · apply keeps_injectFrame (hN.via rfl); exact hs
  · apply keeps_injectOutLine (hN.via rfl); exact hs
  · apply keeps_injectAudio (hN.via rfl); exact hs
  · apply keeps_injectVerdict (hN.via rfl); exact hs
  · refine Keeps.update 0x100 (hN.via rfl) ?_ rfl rfl rfl; exact hs
  · apply keeps_injectClock (hN.via rfl); exact hs
  · apply keeps_injectTime (hN.via rfl); exact hs
  · apply keeps_injectLate (hN.via rfl); exact hs
  · apply keeps_injectRelax (hN.via rfl); exact hs
  · apply keeps_injectTable (hN.via rfl); exact hs
  · apply keeps_injectDigest (hN.via rfl); exact hs
  · exact hs

theorem keeps_execReplayInject (hN : Within 0x3ffffe N) (host : List Byte) (s : State) (hs : Keeps N s₀ s)
    : Keeps N s₀ (execReplayInject host s) := by
  unfold execReplayInject; extract_lets +onlyGivenNames y1; clear_value y1; extract_lets +onlyGivenNames y2
  clear_value y2; apply keeps_ite
  · exact hs
  · extract_lets +onlyGivenNames y3; clear_value y3; extract_lets +onlyGivenNames y4; clear_value y4
    extract_lets +onlyGivenNames y5
    have h6 : Keeps N s₀ y5 := by
      unfold y5; apply keeps_ite
      · exact hs
      · apply keeps_ringDenied (hN.via rfl); exact hs
    clear_value y5; extract_lets +onlyGivenNames y7; clear_value y7; extract_lets +onlyGivenNames y8
    extract_lets +onlyGivenNames y9
    have h10 : Keeps N s₀ y9 := by
      unfold y9; apply keeps_inject (hN.via rfl); refine Keeps.update 0x100 (hN.via rfl) ?_ rfl rfl rfl; exact h6
    clear_value y9; apply keeps_wr64 (hN.via rfl); refine Keeps.update 0x100 (hN.via rfl) ?_ rfl rfl rfl; exact h10

theorem keeps_execReplayDone (hN : Within 0xa N) (host : List Byte) (s : State) (hs : Keeps N s₀ s)
    : Keeps N s₀ (execReplayDone host s) := by
  unfold execReplayDone; apply keeps_ite
  · exact hs
  · apply keeps_setFld (hN.via rfl); apply keeps_raise (hN.via rfl); exact hs

theorem keeps_bankStalls (hN : Within 0x20000a N) (t : ℕ) (s : State) (hs : Keeps N s₀ s) : Keeps N s₀ (bankStalls t s) := by
  unfold bankStalls; apply keeps_ite
  · extract_lets +onlyGivenNames y1
    have h2 : Keeps N s₀ y1.2 := by
      unfold y1; apply keeps_fresh (hN.via rfl); exact hs
    clear_value y1; apply keeps_bump (hN.via rfl); exact h2
  · exact hs

theorem keeps_meshStalls (hN : Within 0x20000a N) (d : ℕ) (s : State) (hs : Keeps N s₀ s) : Keeps N s₀ (meshStalls d s) := by
  unfold meshStalls; apply keeps_ite
  · exact hs
  · apply Keeps.foldl
    · intro z1 z2 h3; extract_lets +onlyGivenNames y4
      have h5 : Keeps N s₀ y4.2 := by
        unfold y4; apply keeps_fresh (hN.via rfl); exact h3
      clear_value y4; apply keeps_bump (hN.via rfl); exact h5
    · exact hs

theorem keeps_tileBeat (hN : Within 0x20800a N) (t : ℕ) (s : State) (hs : Keeps N s₀ s) : Keeps N s₀ (tileBeat t s) := by
  unfold tileBeat; extract_lets +onlyGivenNames y1; extract_lets +onlyGivenNames y2; clear_value y2
  extract_lets +onlyGivenNames y3; clear_value y3; extract_lets +onlyGivenNames y4
  have h5 : ∀ z0 z1 z2 z3, Keeps N s₀ z3 → Keeps N s₀ (y4 z0 z1 z2 z3) := by
    intro z6 z7 z8 z9 h10; unfold y4; apply keeps_ite
    · apply keeps_bump (hN.via rfl); exact h10
    · exact h10
  clear_value y4; apply keeps_updTile (hN.via rfl)
  · apply keeps_bankStalls (hN.via rfl); apply h5; apply h5; apply h5; apply h5; apply h5; exact hs
  · exact fun _ c => c

theorem keeps_stemBeat (hN : Within 0xa N) (d : ℕ) (s : State) (hs : Keeps N s₀ s) : Keeps N s₀ (stemBeat d s) := by
  unfold stemBeat
  split
  · exact hs
  · extract_lets +onlyGivenNames y1
    have h2 : Keeps N s₀ y1 := by
      unfold y1; apply keeps_bump (hN.via rfl); exact hs
    clear_value y1; apply keeps_ite
    · exact h2
    · apply keeps_bump (hN.via rfl); exact h2

theorem keeps_engineBeat (hN : Within 0xa N) (n : ℕ) (s : State) (hs : Keeps N s₀ s) : Keeps N s₀ (engineBeat n s) := by
  unfold engineBeat; apply keeps_ite
  · apply keeps_bump (hN.via rfl); exact hs
  · exact hs

theorem keeps_sliceBeat (hN : Within 0xa N) (n : ℕ) (s : State) (hs : Keeps N s₀ s) : Keeps N s₀ (sliceBeat n s) := by
  unfold sliceBeat
  split
  · apply keeps_ite
    · apply keeps_bump (hN.via rfl); exact hs
    · exact hs
  · exact hs

theorem keeps_countBeat (hN : Within 0x20800a N) (s : State) (hs : Keeps N s₀ s) : Keeps N s₀ (countBeat s) := by
  unfold countBeat; extract_lets +onlyGivenNames y1
  have h2 : Keeps N s₀ y1 := by
    unfold y1; apply Keeps.foldl
    · intro z3 z4 h5; apply keeps_sliceBeat (hN.via rfl); exact h5
    · exact hs
  clear_value y1; extract_lets +onlyGivenNames y6
  have h7 : Keeps N s₀ y6 := by
    unfold y6; apply Keeps.foldl
    · intro z8 z9 h10; apply keeps_tileBeat (hN.via rfl); exact h10
    · exact h2
  clear_value y6; extract_lets +onlyGivenNames y11
  have h12 : Keeps N s₀ y11 := by
    unfold y11; apply Keeps.foldl
    · intro z13 z14 h15; apply keeps_meshStalls (hN.via rfl); apply keeps_stemBeat (hN.via rfl); exact h15
    · exact h7
  clear_value y11; apply Keeps.foldl
  · intro z16 z17 h18; apply keeps_engineBeat (hN.via rfl); exact h18
  · exact h12

theorem keeps_recordTime (hN : Within 0x10a N) (s : State) (hs : Keeps N s₀ s) : Keeps N s₀ (recordTime s) := by
  unfold recordTime; apply Keeps.foldl
  · intro z1 z2 h3; apply keeps_hhCapture (hN.via rfl); exact h3
  · exact hs

theorem keeps_applyMsg (hN : Within 0x3ffffe N) (s : State) (c : Commit) (hs : Keeps N s₀ s) : Keeps N s₀ (applyMsg s c) := by
  unfold applyMsg
  split
  · exact hs
  · apply keeps_wordWrite (hN.via rfl); exact hs

theorem keeps_applyCommits (hN : Within 0x3ffffe N) (s : State) (hs : Keeps N s₀ s) : Keeps N s₀ (applyCommits s) := by
  unfold applyCommits; apply Keeps.foldl
  · intro z1 z2 h3; apply keeps_applyMsg (hN.via rfl); exact h3
  · refine Keeps.update 0x4 (hN.via rfl) ?_ rfl rfl rfl; exact hs

theorem keeps_slotNotes (hN : Within 0x40000 N) (s : State) (hs : Keeps N s₀ s) : Keeps N s₀ (slotNotes s) := by
  unfold slotNotes; apply Keeps.foldl
  · intro z1 z2 h3; apply keeps_slotNote (hN.via rfl); exact h3
  · exact hs

theorem keeps_endBeat (hN : Within 0x3ffffe N) (s : State) (hs : Keeps N s₀ s) : Keeps N s₀ (endBeat s) := by
  unfold endBeat; extract_lets +onlyGivenNames y1
  have h2 : Keeps N s₀ y1 := by
    unfold y1; apply keeps_recordTime (hN.via rfl); apply keeps_countBeat (hN.via rfl)
    apply keeps_slotNotes (hN.via rfl); apply keeps_pwrAgain (hN.via rfl); apply keeps_readsEnd (hN.via rfl)
    apply keeps_grantsEnd (hN.via rfl); apply keeps_csiTimeouts (hN.via rfl); apply keeps_latchesEnd (hN.via rfl)
    apply keeps_pointsEnd (hN.via rfl); apply keeps_applyCommits (hN.via rfl); apply keeps_postsEnd (hN.via rfl)
    exact hs
  clear_value y1; extract_lets +onlyGivenNames y3
  have h4 : Keeps N s₀ y3 := by
    unfold y3; apply keeps_ite
    · apply keeps_hhFlush (hN.via rfl); exact h2
    · exact h2
  clear_value y3; apply keeps_endOfBeatSignals (hN.via rfl); exact h4

theorem keeps_applyChange (hN : Within 0x20000e N) (s : State) (e : Bool × ℕ) (hs : Keeps N s₀ s) : Keeps N s₀ (applyChange s e) := by
  unfold applyChange; apply keeps_ite
  · refine Keeps.update 0x4 (hN.via rfl) ?_ rfl rfl rfl; exact hs
  · extract_lets +onlyGivenNames y1
    have h2 : Keeps N s₀ y1.2 := by
      unfold y1; apply keeps_fresh (hN.via rfl); exact hs
    clear_value y1; extract_lets +onlyGivenNames y3; clear_value y3; extract_lets +onlyGivenNames y4
    have h5 : Keeps N s₀ y4 := by
      unfold y4; apply keeps_ite
      · exact h2
      · exact hs
    clear_value y4; extract_lets +onlyGivenNames y6; clear_value y6; apply keeps_bump (hN.via rfl)
    apply keeps_raise (hN.via rfl); refine Keeps.update 0x4 (hN.via rfl) ?_ rfl rfl rfl; exact h5

theorem keeps_advanceTime (hN : Within 0x20000e N) (s : State) (hs : Keeps N s₀ s) : Keeps N s₀ (advanceTime s) := by
  unfold advanceTime; extract_lets +onlyGivenNames y1; clear_value y1; extract_lets +onlyGivenNames y2
  clear_value y2; extract_lets +onlyGivenNames y3; extract_lets +onlyGivenNames y4; extract_lets +onlyGivenNames y5
  have h6 : Keeps N s₀ y5 := by
    unfold y5; refine Keeps.update 0xc (hN.via rfl) ?_ rfl rfl rfl; exact hs
  clear_value y5; extract_lets +onlyGivenNames y7; extract_lets +onlyGivenNames y8
  have h9 : Keeps N s₀ y8 := by
    unfold y8; apply Keeps.foldl
    · intro z10 z11 h12; apply keeps_applyChange (hN.via rfl); exact h12
    · refine Keeps.update 0x4 (hN.via rfl) ?_ rfl rfl rfl; exact h6
  clear_value y8; apply keeps_ite
  · exact h9
  · refine Keeps.update 0x4 (hN.via rfl) ?_ rfl rfl rfl; exact h9

theorem keeps_softResets (hN : Within 0x13fd3a N) (s : State) (hs : Keeps N s₀ s) : Keeps N s₀ (softResets s) := by
  unfold softResets; extract_lets +onlyGivenNames y1; clear_value y1; apply Keeps.foldl
  · intro z2 z3 h4
    split
    · apply keeps_ite
      · apply keeps_softReset (hN.via rfl); exact h4
      · exact h4
    · exact h4
  · refine Keeps.update 0x8 (hN.via rfl) ?_ rfl rfl rfl; exact hs

theorem keeps_fencesDrain (hN : Within 0x804a N) (s : State) (hs : Keeps N s₀ s) : Keeps N s₀ (fencesDrain s) := by
  unfold fencesDrain; apply Keeps.foldl
  · intro z1 z2 h3; apply keeps_drainStart (hN.via rfl); exact h3
  · exact hs

theorem keeps_applyRegInit (hN : Within 0x3ffffe N) (s : State) (hs : Keeps N s₀ s) : Keeps N s₀ (applyRegInit s) := by
  unfold applyRegInit; apply keeps_ite
  · exact hs
  · extract_lets +onlyGivenNames y1
    have h2 : ∀ z0 z1, Keeps N s₀ z0 → Keeps N s₀ (y1 z0 z1) := by
      intro z3 z4 h5; unfold y1; extract_lets +onlyGivenNames y6; clear_value y6; extract_lets +onlyGivenNames y7
      clear_value y7; apply keeps_wordWrite (hN.via rfl); exact h5
    clear_value y1; apply Keeps.foldl
    · intro z8 z9 h10; apply h2; exact h10
    · refine Keeps.update 0x10 (hN.via rfl) ?_ rfl rfl rfl; exact hs

theorem keeps_resumeRecord (hN : Within 0x10a N) (s : State) (hs : Keeps N s₀ s) : Keeps N s₀ (resumeRecord s) := by
  unfold resumeRecord; apply keeps_ite
  · apply keeps_setFlag (hN.via rfl); apply keeps_hhCapture (hN.via rfl); exact hs
  · exact hs

theorem keeps_startBeat (hN : Within 0x3fffff N) (s : State) (hs : Keeps N s₀ s) : Keeps N s₀ (startBeat s) := by
  unfold startBeat; apply keeps_resumeReqs (hN.via rfl); apply keeps_flushHolds (hN.via rfl)
  apply keeps_settleQueues (hN.via rfl); apply keeps_regionsAgain (hN.via rfl); apply keeps_hostSends (hN.via rfl)
  apply keeps_linksLost (hN.via rfl); apply keeps_clockFalls (hN.via rfl); apply keeps_regUpdate (hN.via rfl)
  apply keeps_resumeRecord (hN.via rfl); apply keeps_applyRegInit (hN.via rfl); apply keeps_bidsCommit (hN.via rfl)
  apply keeps_mbPost (hN.via rfl); apply keeps_dealsDue (hN.via rfl); apply keeps_fencesDrain (hN.via rfl)
  apply keeps_softResets (hN.via rfl); apply keeps_switchTick (hN.via rfl); apply keeps_applyRelax (hN.via rfl)
  exact hs

theorem keeps_execBeat (hN : Within 0x3fffff N) (s : State) (hs : Keeps N s₀ s) : Keeps N s₀ (execBeat s) := by
  unfold execBeat; apply keeps_ite
  · apply keeps_startBeat (hN.via rfl); apply keeps_advanceTime (hN.via rfl); apply keeps_endBeat (hN.via rfl)
    exact hs
  · exact hs

end Sys2Proof.Machine
end

