-- ==== Sys2Proof/Laws/State.lean ====
section
/-! SUPPORT. What each named operation leaves: one lemma for each part of the state that an operation does not change, true by definition, so
that no proof unfolds an update of the record. -/
namespace Sys2Proof.Machine
set_option Elab.async false

variable (s : State)

/-! ## setReg -/

@[simp] theorem setReg_part (a : Nat) (v : Word) : (setReg a v s).part = s.part := rfl
@[simp] theorem setReg_tt (a : Nat) (v : Word) : (setReg a v s).tt = s.tt := rfl
@[simp] theorem setReg_head (a : Nat) (v : Word) : (setReg a v s).head = s.head := rfl
@[simp] theorem setReg_boot (a : Nat) (v : Word) : (setReg a v s).boot = s.boot := rfl
@[simp] theorem setReg_pwr (a : Nat) (v : Word) : (setReg a v s).pwr = s.pwr := rfl
@[simp] theorem setReg_fc (a : Nat) (v : Word) : (setReg a v s).fc = s.fc := rfl
@[simp] theorem setReg_host (a : Nat) (v : Word) : (setReg a v s).host = s.host := rfl
@[simp] theorem setReg_hh (a : Nat) (v : Word) : (setReg a v s).hh = s.hh := rfl
@[simp] theorem setReg_sec (a : Nat) (v : Word) : (setReg a v s).sec = s.sec := rfl
@[simp] theorem setReg_tbl (a : Nat) (v : Word) : (setReg a v s).tbl = s.tbl := rfl
@[simp] theorem setReg_au (a : Nat) (v : Word) : (setReg a v s).au = s.au := rfl
@[simp] theorem setReg_ce (a : Nat) (v : Word) : (setReg a v s).ce = s.ce := rfl
@[simp] theorem setReg_csi (a : Nat) (v : Word) : (setReg a v s).csi = s.csi := rfl
@[simp] theorem setReg_isp (a : Nat) (v : Word) : (setReg a v s).isp = s.isp := rfl
@[simp] theorem setReg_tiles (a : Nat) (v : Word) : (setReg a v s).tiles = s.tiles := rfl
@[simp] theorem setReg_stems (a : Nat) (v : Word) : (setReg a v s).stems = s.stems := rfl
@[simp] theorem setReg_mem (a : Nat) (v : Word) : (setReg a v s).mem = s.mem := rfl
@[simp] theorem setReg_queues (a : Nat) (v : Word) : (setReg a v s).queues = s.queues := rfl
@[simp] theorem setReg_hbm (a : Nat) (v : Word) : (setReg a v s).hbm = s.hbm := rfl
@[simp] theorem setReg_out (a : Nat) (v : Word) : (setReg a v s).out = s.out := rfl
@[simp] theorem setReg_freeIdx (a : Nat) (v : Word) : (setReg a v s).freeIdx = s.freeIdx := rfl
@[simp] theorem setReg_pending (a : Nat) (v : Word) : (setReg a v s).pending = s.pending := rfl

/-! ## wr -/

@[simp] theorem wr_part (p : Page) (off : Nat) (v : Word) : (wr p off v s).part = s.part := rfl
@[simp] theorem wr_tt (p : Page) (off : Nat) (v : Word) : (wr p off v s).tt = s.tt := rfl
@[simp] theorem wr_head (p : Page) (off : Nat) (v : Word) : (wr p off v s).head = s.head := rfl
@[simp] theorem wr_boot (p : Page) (off : Nat) (v : Word) : (wr p off v s).boot = s.boot := rfl
@[simp] theorem wr_pwr (p : Page) (off : Nat) (v : Word) : (wr p off v s).pwr = s.pwr := rfl
@[simp] theorem wr_fc (p : Page) (off : Nat) (v : Word) : (wr p off v s).fc = s.fc := rfl
@[simp] theorem wr_host (p : Page) (off : Nat) (v : Word) : (wr p off v s).host = s.host := rfl
@[simp] theorem wr_hh (p : Page) (off : Nat) (v : Word) : (wr p off v s).hh = s.hh := rfl
@[simp] theorem wr_sec (p : Page) (off : Nat) (v : Word) : (wr p off v s).sec = s.sec := rfl
@[simp] theorem wr_tbl (p : Page) (off : Nat) (v : Word) : (wr p off v s).tbl = s.tbl := rfl
@[simp] theorem wr_au (p : Page) (off : Nat) (v : Word) : (wr p off v s).au = s.au := rfl
@[simp] theorem wr_ce (p : Page) (off : Nat) (v : Word) : (wr p off v s).ce = s.ce := rfl
@[simp] theorem wr_csi (p : Page) (off : Nat) (v : Word) : (wr p off v s).csi = s.csi := rfl
@[simp] theorem wr_isp (p : Page) (off : Nat) (v : Word) : (wr p off v s).isp = s.isp := rfl
@[simp] theorem wr_tiles (p : Page) (off : Nat) (v : Word) : (wr p off v s).tiles = s.tiles := rfl
@[simp] theorem wr_stems (p : Page) (off : Nat) (v : Word) : (wr p off v s).stems = s.stems := rfl
@[simp] theorem wr_mem (p : Page) (off : Nat) (v : Word) : (wr p off v s).mem = s.mem := rfl
@[simp] theorem wr_queues (p : Page) (off : Nat) (v : Word) : (wr p off v s).queues = s.queues := rfl
@[simp] theorem wr_hbm (p : Page) (off : Nat) (v : Word) : (wr p off v s).hbm = s.hbm := rfl
@[simp] theorem wr_out (p : Page) (off : Nat) (v : Word) : (wr p off v s).out = s.out := rfl
@[simp] theorem wr_freeIdx (p : Page) (off : Nat) (v : Word) : (wr p off v s).freeIdx = s.freeIdx := rfl
@[simp] theorem wr_pending (p : Page) (off : Nat) (v : Word) : (wr p off v s).pending = s.pending := rfl

/-! ## setFld -/

@[simp] theorem setFld_part (p : Page) (off lo w x : Nat) : (setFld p off lo w x s).part = s.part := rfl
@[simp] theorem setFld_tt (p : Page) (off lo w x : Nat) : (setFld p off lo w x s).tt = s.tt := rfl
@[simp] theorem setFld_head (p : Page) (off lo w x : Nat) : (setFld p off lo w x s).head = s.head := rfl
@[simp] theorem setFld_boot (p : Page) (off lo w x : Nat) : (setFld p off lo w x s).boot = s.boot := rfl
@[simp] theorem setFld_pwr (p : Page) (off lo w x : Nat) : (setFld p off lo w x s).pwr = s.pwr := rfl
@[simp] theorem setFld_fc (p : Page) (off lo w x : Nat) : (setFld p off lo w x s).fc = s.fc := rfl
@[simp] theorem setFld_host (p : Page) (off lo w x : Nat) : (setFld p off lo w x s).host = s.host := rfl
@[simp] theorem setFld_hh (p : Page) (off lo w x : Nat) : (setFld p off lo w x s).hh = s.hh := rfl
@[simp] theorem setFld_sec (p : Page) (off lo w x : Nat) : (setFld p off lo w x s).sec = s.sec := rfl
@[simp] theorem setFld_tbl (p : Page) (off lo w x : Nat) : (setFld p off lo w x s).tbl = s.tbl := rfl
@[simp] theorem setFld_au (p : Page) (off lo w x : Nat) : (setFld p off lo w x s).au = s.au := rfl
@[simp] theorem setFld_ce (p : Page) (off lo w x : Nat) : (setFld p off lo w x s).ce = s.ce := rfl
@[simp] theorem setFld_csi (p : Page) (off lo w x : Nat) : (setFld p off lo w x s).csi = s.csi := rfl
@[simp] theorem setFld_isp (p : Page) (off lo w x : Nat) : (setFld p off lo w x s).isp = s.isp := rfl
@[simp] theorem setFld_tiles (p : Page) (off lo w x : Nat) : (setFld p off lo w x s).tiles = s.tiles := rfl
@[simp] theorem setFld_stems (p : Page) (off lo w x : Nat) : (setFld p off lo w x s).stems = s.stems := rfl
@[simp] theorem setFld_mem (p : Page) (off lo w x : Nat) : (setFld p off lo w x s).mem = s.mem := rfl
@[simp] theorem setFld_queues (p : Page) (off lo w x : Nat) : (setFld p off lo w x s).queues = s.queues := rfl
@[simp] theorem setFld_hbm (p : Page) (off lo w x : Nat) : (setFld p off lo w x s).hbm = s.hbm := rfl
@[simp] theorem setFld_out (p : Page) (off lo w x : Nat) : (setFld p off lo w x s).out = s.out := rfl
@[simp] theorem setFld_freeIdx (p : Page) (off lo w x : Nat) : (setFld p off lo w x s).freeIdx = s.freeIdx := rfl
@[simp] theorem setFld_pending (p : Page) (off lo w x : Nat) : (setFld p off lo w x s).pending = s.pending := rfl

/-! ## setFlag -/

@[simp] theorem setFlag_part (p : Page) (off b : Nat) (v : Bool) : (setFlag p off b v s).part = s.part := rfl
@[simp] theorem setFlag_tt (p : Page) (off b : Nat) (v : Bool) : (setFlag p off b v s).tt = s.tt := rfl
@[simp] theorem setFlag_head (p : Page) (off b : Nat) (v : Bool) : (setFlag p off b v s).head = s.head := rfl
@[simp] theorem setFlag_boot (p : Page) (off b : Nat) (v : Bool) : (setFlag p off b v s).boot = s.boot := rfl
@[simp] theorem setFlag_pwr (p : Page) (off b : Nat) (v : Bool) : (setFlag p off b v s).pwr = s.pwr := rfl
@[simp] theorem setFlag_fc (p : Page) (off b : Nat) (v : Bool) : (setFlag p off b v s).fc = s.fc := rfl
@[simp] theorem setFlag_host (p : Page) (off b : Nat) (v : Bool) : (setFlag p off b v s).host = s.host := rfl
@[simp] theorem setFlag_hh (p : Page) (off b : Nat) (v : Bool) : (setFlag p off b v s).hh = s.hh := rfl
@[simp] theorem setFlag_sec (p : Page) (off b : Nat) (v : Bool) : (setFlag p off b v s).sec = s.sec := rfl
@[simp] theorem setFlag_tbl (p : Page) (off b : Nat) (v : Bool) : (setFlag p off b v s).tbl = s.tbl := rfl
@[simp] theorem setFlag_au (p : Page) (off b : Nat) (v : Bool) : (setFlag p off b v s).au = s.au := rfl
@[simp] theorem setFlag_ce (p : Page) (off b : Nat) (v : Bool) : (setFlag p off b v s).ce = s.ce := rfl
@[simp] theorem setFlag_csi (p : Page) (off b : Nat) (v : Bool) : (setFlag p off b v s).csi = s.csi := rfl
@[simp] theorem setFlag_isp (p : Page) (off b : Nat) (v : Bool) : (setFlag p off b v s).isp = s.isp := rfl
@[simp] theorem setFlag_tiles (p : Page) (off b : Nat) (v : Bool) : (setFlag p off b v s).tiles = s.tiles := rfl
@[simp] theorem setFlag_stems (p : Page) (off b : Nat) (v : Bool) : (setFlag p off b v s).stems = s.stems := rfl
@[simp] theorem setFlag_mem (p : Page) (off b : Nat) (v : Bool) : (setFlag p off b v s).mem = s.mem := rfl
@[simp] theorem setFlag_queues (p : Page) (off b : Nat) (v : Bool) : (setFlag p off b v s).queues = s.queues := rfl
@[simp] theorem setFlag_hbm (p : Page) (off b : Nat) (v : Bool) : (setFlag p off b v s).hbm = s.hbm := rfl
@[simp] theorem setFlag_out (p : Page) (off b : Nat) (v : Bool) : (setFlag p off b v s).out = s.out := rfl
@[simp] theorem setFlag_freeIdx (p : Page) (off b : Nat) (v : Bool) : (setFlag p off b v s).freeIdx = s.freeIdx := rfl
@[simp] theorem setFlag_pending (p : Page) (off b : Nat) (v : Bool) : (setFlag p off b v s).pending = s.pending := rfl

/-! ## noteCount -/

@[simp] theorem noteCount_part (a k : Nat) : (noteCount a k s).part = s.part := rfl
@[simp] theorem noteCount_regs (a k : Nat) : (noteCount a k s).regs = s.regs := rfl
@[simp] theorem noteCount_tt (a k : Nat) : (noteCount a k s).tt = s.tt := rfl
@[simp] theorem noteCount_boot (a k : Nat) : (noteCount a k s).boot = s.boot := rfl
@[simp] theorem noteCount_pwr (a k : Nat) : (noteCount a k s).pwr = s.pwr := rfl
@[simp] theorem noteCount_fc (a k : Nat) : (noteCount a k s).fc = s.fc := rfl
@[simp] theorem noteCount_host (a k : Nat) : (noteCount a k s).host = s.host := rfl
@[simp] theorem noteCount_hh (a k : Nat) : (noteCount a k s).hh = s.hh := rfl
@[simp] theorem noteCount_sec (a k : Nat) : (noteCount a k s).sec = s.sec := rfl
@[simp] theorem noteCount_tbl (a k : Nat) : (noteCount a k s).tbl = s.tbl := rfl
@[simp] theorem noteCount_au (a k : Nat) : (noteCount a k s).au = s.au := rfl
@[simp] theorem noteCount_ce (a k : Nat) : (noteCount a k s).ce = s.ce := rfl
@[simp] theorem noteCount_csi (a k : Nat) : (noteCount a k s).csi = s.csi := rfl
@[simp] theorem noteCount_isp (a k : Nat) : (noteCount a k s).isp = s.isp := rfl
@[simp] theorem noteCount_tiles (a k : Nat) : (noteCount a k s).tiles = s.tiles := rfl
@[simp] theorem noteCount_stems (a k : Nat) : (noteCount a k s).stems = s.stems := rfl
@[simp] theorem noteCount_mem (a k : Nat) : (noteCount a k s).mem = s.mem := rfl
@[simp] theorem noteCount_queues (a k : Nat) : (noteCount a k s).queues = s.queues := rfl
@[simp] theorem noteCount_hbm (a k : Nat) : (noteCount a k s).hbm = s.hbm := rfl
@[simp] theorem noteCount_out (a k : Nat) : (noteCount a k s).out = s.out := rfl
@[simp] theorem noteCount_freeIdx (a k : Nat) : (noteCount a k s).freeIdx = s.freeIdx := rfl
@[simp] theorem noteCount_pending (a k : Nat) : (noteCount a k s).pending = s.pending := rfl
@[simp] theorem reg_noteCount (a k : Nat) (b : Nat) : reg (noteCount a k s) b = reg s b := rfl
@[simp] theorem rd_noteCount (a k : Nat) (p' : Page) (off' : Nat) : rd (noteCount a k s) p' off' = rd s p' off' := rfl
@[simp] theorem fld_noteCount (a k : Nat) (p' : Page) (off' lo' w' : Nat) : fld (noteCount a k s) p' off' lo' w' = fld s p' off' lo' w' := rfl
@[simp] theorem flag_noteCount (a k : Nat) (p' : Page) (off' b' : Nat) : flag (noteCount a k s) p' off' b' = flag s p' off' b' := rfl

/-! ## bump -/

@[simp] theorem bump_part (p : Page) (off k : Nat) : (bump p off k s).part = s.part := rfl
@[simp] theorem bump_tt (p : Page) (off k : Nat) : (bump p off k s).tt = s.tt := rfl
@[simp] theorem bump_boot (p : Page) (off k : Nat) : (bump p off k s).boot = s.boot := rfl
@[simp] theorem bump_pwr (p : Page) (off k : Nat) : (bump p off k s).pwr = s.pwr := rfl
@[simp] theorem bump_fc (p : Page) (off k : Nat) : (bump p off k s).fc = s.fc := rfl
@[simp] theorem bump_host (p : Page) (off k : Nat) : (bump p off k s).host = s.host := rfl
@[simp] theorem bump_hh (p : Page) (off k : Nat) : (bump p off k s).hh = s.hh := rfl
@[simp] theorem bump_sec (p : Page) (off k : Nat) : (bump p off k s).sec = s.sec := rfl
@[simp] theorem bump_tbl (p : Page) (off k : Nat) : (bump p off k s).tbl = s.tbl := rfl
@[simp] theorem bump_au (p : Page) (off k : Nat) : (bump p off k s).au = s.au := rfl
@[simp] theorem bump_ce (p : Page) (off k : Nat) : (bump p off k s).ce = s.ce := rfl
@[simp] theorem bump_csi (p : Page) (off k : Nat) : (bump p off k s).csi = s.csi := rfl
@[simp] theorem bump_isp (p : Page) (off k : Nat) : (bump p off k s).isp = s.isp := rfl
@[simp] theorem bump_tiles (p : Page) (off k : Nat) : (bump p off k s).tiles = s.tiles := rfl
@[simp] theorem bump_stems (p : Page) (off k : Nat) : (bump p off k s).stems = s.stems := rfl
@[simp] theorem bump_mem (p : Page) (off k : Nat) : (bump p off k s).mem = s.mem := rfl
@[simp] theorem bump_queues (p : Page) (off k : Nat) : (bump p off k s).queues = s.queues := rfl
@[simp] theorem bump_hbm (p : Page) (off k : Nat) : (bump p off k s).hbm = s.hbm := rfl
@[simp] theorem bump_out (p : Page) (off k : Nat) : (bump p off k s).out = s.out := rfl
@[simp] theorem bump_freeIdx (p : Page) (off k : Nat) : (bump p off k s).freeIdx = s.freeIdx := rfl
@[simp] theorem bump_pending (p : Page) (off k : Nat) : (bump p off k s).pending = s.pending := rfl

/-! ## noteSet -/

@[simp] theorem noteSet_part (a b : Nat) : (noteSet a b s).part = s.part := rfl
@[simp] theorem noteSet_regs (a b : Nat) : (noteSet a b s).regs = s.regs := rfl
@[simp] theorem noteSet_tt (a b : Nat) : (noteSet a b s).tt = s.tt := rfl
@[simp] theorem noteSet_boot (a b : Nat) : (noteSet a b s).boot = s.boot := rfl
@[simp] theorem noteSet_pwr (a b : Nat) : (noteSet a b s).pwr = s.pwr := rfl
@[simp] theorem noteSet_fc (a b : Nat) : (noteSet a b s).fc = s.fc := rfl
@[simp] theorem noteSet_host (a b : Nat) : (noteSet a b s).host = s.host := rfl
@[simp] theorem noteSet_hh (a b : Nat) : (noteSet a b s).hh = s.hh := rfl
@[simp] theorem noteSet_sec (a b : Nat) : (noteSet a b s).sec = s.sec := rfl
@[simp] theorem noteSet_tbl (a b : Nat) : (noteSet a b s).tbl = s.tbl := rfl
@[simp] theorem noteSet_au (a b : Nat) : (noteSet a b s).au = s.au := rfl
@[simp] theorem noteSet_ce (a b : Nat) : (noteSet a b s).ce = s.ce := rfl
@[simp] theorem noteSet_csi (a b : Nat) : (noteSet a b s).csi = s.csi := rfl
@[simp] theorem noteSet_isp (a b : Nat) : (noteSet a b s).isp = s.isp := rfl
@[simp] theorem noteSet_tiles (a b : Nat) : (noteSet a b s).tiles = s.tiles := rfl
@[simp] theorem noteSet_stems (a b : Nat) : (noteSet a b s).stems = s.stems := rfl
@[simp] theorem noteSet_mem (a b : Nat) : (noteSet a b s).mem = s.mem := rfl
@[simp] theorem noteSet_queues (a b : Nat) : (noteSet a b s).queues = s.queues := rfl
@[simp] theorem noteSet_hbm (a b : Nat) : (noteSet a b s).hbm = s.hbm := rfl
@[simp] theorem noteSet_out (a b : Nat) : (noteSet a b s).out = s.out := rfl
@[simp] theorem noteSet_freeIdx (a b : Nat) : (noteSet a b s).freeIdx = s.freeIdx := rfl
@[simp] theorem noteSet_pending (a b : Nat) : (noteSet a b s).pending = s.pending := rfl
@[simp] theorem reg_noteSet (a b : Nat) (c : Nat) : reg (noteSet a b s) c = reg s c := rfl
@[simp] theorem rd_noteSet (a b : Nat) (p' : Page) (off' : Nat) : rd (noteSet a b s) p' off' = rd s p' off' := rfl
@[simp] theorem fld_noteSet (a b : Nat) (p' : Page) (off' lo' w' : Nat) : fld (noteSet a b s) p' off' lo' w' = fld s p' off' lo' w' := rfl
@[simp] theorem flag_noteSet (a b : Nat) (p' : Page) (off' b' : Nat) : flag (noteSet a b s) p' off' b' = flag s p' off' b' := rfl

/-! ## emit -/

@[simp] theorem emit_part (o : Out) : (emit o s).part = s.part := rfl
@[simp] theorem emit_regs (o : Out) : (emit o s).regs = s.regs := rfl
@[simp] theorem emit_tt (o : Out) : (emit o s).tt = s.tt := rfl
@[simp] theorem emit_head (o : Out) : (emit o s).head = s.head := rfl
@[simp] theorem emit_boot (o : Out) : (emit o s).boot = s.boot := rfl
@[simp] theorem emit_pwr (o : Out) : (emit o s).pwr = s.pwr := rfl
@[simp] theorem emit_fc (o : Out) : (emit o s).fc = s.fc := rfl
@[simp] theorem emit_host (o : Out) : (emit o s).host = s.host := rfl
@[simp] theorem emit_hh (o : Out) : (emit o s).hh = s.hh := rfl
@[simp] theorem emit_sec (o : Out) : (emit o s).sec = s.sec := rfl
@[simp] theorem emit_tbl (o : Out) : (emit o s).tbl = s.tbl := rfl
@[simp] theorem emit_au (o : Out) : (emit o s).au = s.au := rfl
@[simp] theorem emit_ce (o : Out) : (emit o s).ce = s.ce := rfl
@[simp] theorem emit_csi (o : Out) : (emit o s).csi = s.csi := rfl
@[simp] theorem emit_isp (o : Out) : (emit o s).isp = s.isp := rfl
@[simp] theorem emit_tiles (o : Out) : (emit o s).tiles = s.tiles := rfl
@[simp] theorem emit_stems (o : Out) : (emit o s).stems = s.stems := rfl
@[simp] theorem emit_mem (o : Out) : (emit o s).mem = s.mem := rfl
@[simp] theorem emit_queues (o : Out) : (emit o s).queues = s.queues := rfl
@[simp] theorem emit_hbm (o : Out) : (emit o s).hbm = s.hbm := rfl
@[simp] theorem emit_freeIdx (o : Out) : (emit o s).freeIdx = s.freeIdx := rfl
@[simp] theorem emit_pending (o : Out) : (emit o s).pending = s.pending := rfl
@[simp] theorem reg_emit (o : Out) (b : Nat) : reg (emit o s) b = reg s b := rfl
@[simp] theorem rd_emit (o : Out) (p' : Page) (off' : Nat) : rd (emit o s) p' off' = rd s p' off' := rfl
@[simp] theorem fld_emit (o : Out) (p' : Page) (off' lo' w' : Nat) : fld (emit o s) p' off' lo' w' = fld s p' off' lo' w' := rfl
@[simp] theorem flag_emit (o : Out) (p' : Page) (off' b' : Nat) : flag (emit o s) p' off' b' = flag s p' off' b' := rfl

/-! ## startCmd -/

@[simp] theorem startCmd_part (p : Page) (id : Nat) : (startCmd p id s).part = s.part := rfl
@[simp] theorem startCmd_regs (p : Page) (id : Nat) : (startCmd p id s).regs = s.regs := rfl
@[simp] theorem startCmd_tt (p : Page) (id : Nat) : (startCmd p id s).tt = s.tt := rfl
@[simp] theorem startCmd_boot (p : Page) (id : Nat) : (startCmd p id s).boot = s.boot := rfl
@[simp] theorem startCmd_pwr (p : Page) (id : Nat) : (startCmd p id s).pwr = s.pwr := rfl
@[simp] theorem startCmd_fc (p : Page) (id : Nat) : (startCmd p id s).fc = s.fc := rfl
@[simp] theorem startCmd_host (p : Page) (id : Nat) : (startCmd p id s).host = s.host := rfl
@[simp] theorem startCmd_hh (p : Page) (id : Nat) : (startCmd p id s).hh = s.hh := rfl
@[simp] theorem startCmd_sec (p : Page) (id : Nat) : (startCmd p id s).sec = s.sec := rfl
@[simp] theorem startCmd_tbl (p : Page) (id : Nat) : (startCmd p id s).tbl = s.tbl := rfl
@[simp] theorem startCmd_au (p : Page) (id : Nat) : (startCmd p id s).au = s.au := rfl
@[simp] theorem startCmd_ce (p : Page) (id : Nat) : (startCmd p id s).ce = s.ce := rfl
@[simp] theorem startCmd_csi (p : Page) (id : Nat) : (startCmd p id s).csi = s.csi := rfl
@[simp] theorem startCmd_isp (p : Page) (id : Nat) : (startCmd p id s).isp = s.isp := rfl
@[simp] theorem startCmd_tiles (p : Page) (id : Nat) : (startCmd p id s).tiles = s.tiles := rfl
@[simp] theorem startCmd_stems (p : Page) (id : Nat) : (startCmd p id s).stems = s.stems := rfl
@[simp] theorem startCmd_mem (p : Page) (id : Nat) : (startCmd p id s).mem = s.mem := rfl
@[simp] theorem startCmd_queues (p : Page) (id : Nat) : (startCmd p id s).queues = s.queues := rfl
@[simp] theorem startCmd_hbm (p : Page) (id : Nat) : (startCmd p id s).hbm = s.hbm := rfl
@[simp] theorem startCmd_out (p : Page) (id : Nat) : (startCmd p id s).out = s.out := rfl
@[simp] theorem startCmd_freeIdx (p : Page) (id : Nat) : (startCmd p id s).freeIdx = s.freeIdx := rfl
@[simp] theorem startCmd_pending (p : Page) (id : Nat) : (startCmd p id s).pending = s.pending := rfl
@[simp] theorem reg_startCmd (p : Page) (id : Nat) (b : Nat) : reg (startCmd p id s) b = reg s b := rfl
@[simp] theorem rd_startCmd (p : Page) (id : Nat) (p' : Page) (off' : Nat) : rd (startCmd p id s) p' off' = rd s p' off' := rfl
@[simp] theorem fld_startCmd (p : Page) (id : Nat) (p' : Page) (off' lo' w' : Nat) : fld (startCmd p id s) p' off' lo' w' = fld s p' off' lo' w' := rfl
@[simp] theorem flag_startCmd (p : Page) (id : Nat) (p' : Page) (off' b' : Nat) : flag (startCmd p id s) p' off' b' = flag s p' off' b' := rfl

/-! ## endCmd -/

@[simp] theorem endCmd_part (p : Page) (id : Nat) : (endCmd p id s).part = s.part := rfl
@[simp] theorem endCmd_regs (p : Page) (id : Nat) : (endCmd p id s).regs = s.regs := rfl
@[simp] theorem endCmd_tt (p : Page) (id : Nat) : (endCmd p id s).tt = s.tt := rfl
@[simp] theorem endCmd_boot (p : Page) (id : Nat) : (endCmd p id s).boot = s.boot := rfl
@[simp] theorem endCmd_pwr (p : Page) (id : Nat) : (endCmd p id s).pwr = s.pwr := rfl
@[simp] theorem endCmd_fc (p : Page) (id : Nat) : (endCmd p id s).fc = s.fc := rfl
@[simp] theorem endCmd_host (p : Page) (id : Nat) : (endCmd p id s).host = s.host := rfl
@[simp] theorem endCmd_hh (p : Page) (id : Nat) : (endCmd p id s).hh = s.hh := rfl
@[simp] theorem endCmd_sec (p : Page) (id : Nat) : (endCmd p id s).sec = s.sec := rfl
@[simp] theorem endCmd_tbl (p : Page) (id : Nat) : (endCmd p id s).tbl = s.tbl := rfl
@[simp] theorem endCmd_au (p : Page) (id : Nat) : (endCmd p id s).au = s.au := rfl
@[simp] theorem endCmd_ce (p : Page) (id : Nat) : (endCmd p id s).ce = s.ce := rfl
@[simp] theorem endCmd_csi (p : Page) (id : Nat) : (endCmd p id s).csi = s.csi := rfl
@[simp] theorem endCmd_isp (p : Page) (id : Nat) : (endCmd p id s).isp = s.isp := rfl
@[simp] theorem endCmd_tiles (p : Page) (id : Nat) : (endCmd p id s).tiles = s.tiles := rfl
@[simp] theorem endCmd_stems (p : Page) (id : Nat) : (endCmd p id s).stems = s.stems := rfl
@[simp] theorem endCmd_mem (p : Page) (id : Nat) : (endCmd p id s).mem = s.mem := rfl
@[simp] theorem endCmd_queues (p : Page) (id : Nat) : (endCmd p id s).queues = s.queues := rfl
@[simp] theorem endCmd_hbm (p : Page) (id : Nat) : (endCmd p id s).hbm = s.hbm := rfl
@[simp] theorem endCmd_out (p : Page) (id : Nat) : (endCmd p id s).out = s.out := rfl
@[simp] theorem endCmd_freeIdx (p : Page) (id : Nat) : (endCmd p id s).freeIdx = s.freeIdx := rfl
@[simp] theorem endCmd_pending (p : Page) (id : Nat) : (endCmd p id s).pending = s.pending := rfl
@[simp] theorem reg_endCmd (p : Page) (id : Nat) (b : Nat) : reg (endCmd p id s) b = reg s b := rfl
@[simp] theorem rd_endCmd (p : Page) (id : Nat) (p' : Page) (off' : Nat) : rd (endCmd p id s) p' off' = rd s p' off' := rfl
@[simp] theorem fld_endCmd (p : Page) (id : Nat) (p' : Page) (off' lo' w' : Nat) : fld (endCmd p id s) p' off' lo' w' = fld s p' off' lo' w' := rfl
@[simp] theorem flag_endCmd (p : Page) (id : Nat) (p' : Page) (off' b' : Nat) : flag (endCmd p id s) p' off' b' = flag s p' off' b' := rfl

/-! ## memWrite -/

@[simp] theorem memWrite_part (a : Nat) (bs : List Byte) : (memWrite a bs s).part = s.part := rfl
@[simp] theorem memWrite_regs (a : Nat) (bs : List Byte) : (memWrite a bs s).regs = s.regs := rfl
@[simp] theorem memWrite_tt (a : Nat) (bs : List Byte) : (memWrite a bs s).tt = s.tt := rfl
@[simp] theorem memWrite_head (a : Nat) (bs : List Byte) : (memWrite a bs s).head = s.head := rfl
@[simp] theorem memWrite_boot (a : Nat) (bs : List Byte) : (memWrite a bs s).boot = s.boot := rfl
@[simp] theorem memWrite_pwr (a : Nat) (bs : List Byte) : (memWrite a bs s).pwr = s.pwr := rfl
@[simp] theorem memWrite_fc (a : Nat) (bs : List Byte) : (memWrite a bs s).fc = s.fc := rfl
@[simp] theorem memWrite_host (a : Nat) (bs : List Byte) : (memWrite a bs s).host = s.host := rfl
@[simp] theorem memWrite_hh (a : Nat) (bs : List Byte) : (memWrite a bs s).hh = s.hh := rfl
@[simp] theorem memWrite_sec (a : Nat) (bs : List Byte) : (memWrite a bs s).sec = s.sec := rfl
@[simp] theorem memWrite_tbl (a : Nat) (bs : List Byte) : (memWrite a bs s).tbl = s.tbl := rfl
@[simp] theorem memWrite_au (a : Nat) (bs : List Byte) : (memWrite a bs s).au = s.au := rfl
@[simp] theorem memWrite_ce (a : Nat) (bs : List Byte) : (memWrite a bs s).ce = s.ce := rfl
@[simp] theorem memWrite_csi (a : Nat) (bs : List Byte) : (memWrite a bs s).csi = s.csi := rfl
@[simp] theorem memWrite_isp (a : Nat) (bs : List Byte) : (memWrite a bs s).isp = s.isp := rfl
@[simp] theorem memWrite_tiles (a : Nat) (bs : List Byte) : (memWrite a bs s).tiles = s.tiles := rfl
@[simp] theorem memWrite_stems (a : Nat) (bs : List Byte) : (memWrite a bs s).stems = s.stems := rfl
@[simp] theorem memWrite_mem (a : Nat) (bs : List Byte) : (memWrite a bs s).mem = s.mem := rfl
@[simp] theorem memWrite_queues (a : Nat) (bs : List Byte) : (memWrite a bs s).queues = s.queues := rfl
@[simp] theorem memWrite_out (a : Nat) (bs : List Byte) : (memWrite a bs s).out = s.out := rfl
@[simp] theorem memWrite_freeIdx (a : Nat) (bs : List Byte) : (memWrite a bs s).freeIdx = s.freeIdx := rfl
@[simp] theorem memWrite_pending (a : Nat) (bs : List Byte) : (memWrite a bs s).pending = s.pending := rfl
@[simp] theorem reg_memWrite (a : Nat) (bs : List Byte) (b : Nat) : reg (memWrite a bs s) b = reg s b := rfl
@[simp] theorem rd_memWrite (a : Nat) (bs : List Byte) (p' : Page) (off' : Nat) : rd (memWrite a bs s) p' off' = rd s p' off' := rfl
@[simp] theorem fld_memWrite (a : Nat) (bs : List Byte) (p' : Page) (off' lo' w' : Nat) : fld (memWrite a bs s) p' off' lo' w' = fld s p' off' lo' w' := rfl
@[simp] theorem flag_memWrite (a : Nat) (bs : List Byte) (p' : Page) (off' b' : Nat) : flag (memWrite a bs s) p' off' b' = flag s p' off' b' := rfl

/-! ## setDom -/

@[simp] theorem setDom_part (d x : Nat) : (setDom d x s).part = s.part := rfl
@[simp] theorem setDom_regs (d x : Nat) : (setDom d x s).regs = s.regs := rfl
@[simp] theorem setDom_tt_now (d x : Nat) : (setDom d x s).tt.now = s.tt.now := rfl
@[simp] theorem setDom_head (d x : Nat) : (setDom d x s).head = s.head := rfl
@[simp] theorem setDom_boot (d x : Nat) : (setDom d x s).boot = s.boot := rfl
@[simp] theorem setDom_fc (d x : Nat) : (setDom d x s).fc = s.fc := rfl
@[simp] theorem setDom_host (d x : Nat) : (setDom d x s).host = s.host := rfl
@[simp] theorem setDom_hh (d x : Nat) : (setDom d x s).hh = s.hh := rfl
@[simp] theorem setDom_sec (d x : Nat) : (setDom d x s).sec = s.sec := rfl
@[simp] theorem setDom_tbl (d x : Nat) : (setDom d x s).tbl = s.tbl := rfl
@[simp] theorem setDom_au (d x : Nat) : (setDom d x s).au = s.au := rfl
@[simp] theorem setDom_ce (d x : Nat) : (setDom d x s).ce = s.ce := rfl
@[simp] theorem setDom_csi (d x : Nat) : (setDom d x s).csi = s.csi := rfl
@[simp] theorem setDom_isp (d x : Nat) : (setDom d x s).isp = s.isp := rfl
@[simp] theorem setDom_tiles (d x : Nat) : (setDom d x s).tiles = s.tiles := rfl
@[simp] theorem setDom_stems (d x : Nat) : (setDom d x s).stems = s.stems := rfl
@[simp] theorem setDom_mem (d x : Nat) : (setDom d x s).mem = s.mem := rfl
@[simp] theorem setDom_queues (d x : Nat) : (setDom d x s).queues = s.queues := rfl
@[simp] theorem setDom_hbm (d x : Nat) : (setDom d x s).hbm = s.hbm := rfl
@[simp] theorem setDom_out (d x : Nat) : (setDom d x s).out = s.out := rfl
@[simp] theorem setDom_freeIdx (d x : Nat) : (setDom d x s).freeIdx = s.freeIdx := rfl
@[simp] theorem setDom_pending (d x : Nat) : (setDom d x s).pending = s.pending := rfl
@[simp] theorem reg_setDom (d x : Nat) (b : Nat) : reg (setDom d x s) b = reg s b := rfl
@[simp] theorem rd_setDom (d x : Nat) (p' : Page) (off' : Nat) : rd (setDom d x s) p' off' = rd s p' off' := rfl
@[simp] theorem fld_setDom (d x : Nat) (p' : Page) (off' lo' w' : Nat) : fld (setDom d x s) p' off' lo' w' = fld s p' off' lo' w' := rfl
@[simp] theorem flag_setDom (d x : Nat) (p' : Page) (off' b' : Nat) : flag (setDom d x s) p' off' b' = flag s p' off' b' := rfl

/-! ## setCsi -/

@[simp] theorem setCsi_part (r : Nat) (c : CsiSt) : (setCsi r c s).part = s.part := rfl
@[simp] theorem setCsi_regs (r : Nat) (c : CsiSt) : (setCsi r c s).regs = s.regs := rfl
@[simp] theorem setCsi_tt (r : Nat) (c : CsiSt) : (setCsi r c s).tt = s.tt := rfl
@[simp] theorem setCsi_head (r : Nat) (c : CsiSt) : (setCsi r c s).head = s.head := rfl
@[simp] theorem setCsi_boot (r : Nat) (c : CsiSt) : (setCsi r c s).boot = s.boot := rfl
@[simp] theorem setCsi_pwr (r : Nat) (c : CsiSt) : (setCsi r c s).pwr = s.pwr := rfl
@[simp] theorem setCsi_fc (r : Nat) (c : CsiSt) : (setCsi r c s).fc = s.fc := rfl
@[simp] theorem setCsi_host (r : Nat) (c : CsiSt) : (setCsi r c s).host = s.host := rfl
@[simp] theorem setCsi_hh (r : Nat) (c : CsiSt) : (setCsi r c s).hh = s.hh := rfl
@[simp] theorem setCsi_sec (r : Nat) (c : CsiSt) : (setCsi r c s).sec = s.sec := rfl
@[simp] theorem setCsi_tbl (r : Nat) (c : CsiSt) : (setCsi r c s).tbl = s.tbl := rfl
@[simp] theorem setCsi_au (r : Nat) (c : CsiSt) : (setCsi r c s).au = s.au := rfl
@[simp] theorem setCsi_ce (r : Nat) (c : CsiSt) : (setCsi r c s).ce = s.ce := rfl
@[simp] theorem setCsi_isp (r : Nat) (c : CsiSt) : (setCsi r c s).isp = s.isp := rfl
@[simp] theorem setCsi_tiles (r : Nat) (c : CsiSt) : (setCsi r c s).tiles = s.tiles := rfl
@[simp] theorem setCsi_stems (r : Nat) (c : CsiSt) : (setCsi r c s).stems = s.stems := rfl
@[simp] theorem setCsi_mem (r : Nat) (c : CsiSt) : (setCsi r c s).mem = s.mem := rfl
@[simp] theorem setCsi_queues (r : Nat) (c : CsiSt) : (setCsi r c s).queues = s.queues := rfl
@[simp] theorem setCsi_hbm (r : Nat) (c : CsiSt) : (setCsi r c s).hbm = s.hbm := rfl
@[simp] theorem setCsi_out (r : Nat) (c : CsiSt) : (setCsi r c s).out = s.out := rfl
@[simp] theorem setCsi_freeIdx (r : Nat) (c : CsiSt) : (setCsi r c s).freeIdx = s.freeIdx := rfl
@[simp] theorem setCsi_pending (r : Nat) (c : CsiSt) : (setCsi r c s).pending = s.pending := rfl
@[simp] theorem reg_setCsi (r : Nat) (c : CsiSt) (b : Nat) : reg (setCsi r c s) b = reg s b := rfl
@[simp] theorem rd_setCsi (r : Nat) (c : CsiSt) (p' : Page) (off' : Nat) : rd (setCsi r c s) p' off' = rd s p' off' := rfl
@[simp] theorem fld_setCsi (r : Nat) (c : CsiSt) (p' : Page) (off' lo' w' : Nat) : fld (setCsi r c s) p' off' lo' w' = fld s p' off' lo' w' := rfl
@[simp] theorem flag_setCsi (r : Nat) (c : CsiSt) (p' : Page) (off' b' : Nat) : flag (setCsi r c s) p' off' b' = flag s p' off' b' := rfl

/-! ## setIsp -/

@[simp] theorem setIsp_part (n : Nat) (p : IspSt) : (setIsp n p s).part = s.part := rfl
@[simp] theorem setIsp_regs (n : Nat) (p : IspSt) : (setIsp n p s).regs = s.regs := rfl
@[simp] theorem setIsp_tt (n : Nat) (p : IspSt) : (setIsp n p s).tt = s.tt := rfl
@[simp] theorem setIsp_head (n : Nat) (p : IspSt) : (setIsp n p s).head = s.head := rfl
@[simp] theorem setIsp_boot (n : Nat) (p : IspSt) : (setIsp n p s).boot = s.boot := rfl
@[simp] theorem setIsp_pwr (n : Nat) (p : IspSt) : (setIsp n p s).pwr = s.pwr := rfl
@[simp] theorem setIsp_fc (n : Nat) (p : IspSt) : (setIsp n p s).fc = s.fc := rfl
@[simp] theorem setIsp_host (n : Nat) (p : IspSt) : (setIsp n p s).host = s.host := rfl
@[simp] theorem setIsp_hh (n : Nat) (p : IspSt) : (setIsp n p s).hh = s.hh := rfl
@[simp] theorem setIsp_sec (n : Nat) (p : IspSt) : (setIsp n p s).sec = s.sec := rfl
@[simp] theorem setIsp_tbl (n : Nat) (p : IspSt) : (setIsp n p s).tbl = s.tbl := rfl
@[simp] theorem setIsp_au (n : Nat) (p : IspSt) : (setIsp n p s).au = s.au := rfl
@[simp] theorem setIsp_ce (n : Nat) (p : IspSt) : (setIsp n p s).ce = s.ce := rfl
@[simp] theorem setIsp_csi (n : Nat) (p : IspSt) : (setIsp n p s).csi = s.csi := rfl
@[simp] theorem setIsp_tiles (n : Nat) (p : IspSt) : (setIsp n p s).tiles = s.tiles := rfl
@[simp] theorem setIsp_stems (n : Nat) (p : IspSt) : (setIsp n p s).stems = s.stems := rfl
@[simp] theorem setIsp_mem (n : Nat) (p : IspSt) : (setIsp n p s).mem = s.mem := rfl
@[simp] theorem setIsp_queues (n : Nat) (p : IspSt) : (setIsp n p s).queues = s.queues := rfl
@[simp] theorem setIsp_hbm (n : Nat) (p : IspSt) : (setIsp n p s).hbm = s.hbm := rfl
@[simp] theorem setIsp_out (n : Nat) (p : IspSt) : (setIsp n p s).out = s.out := rfl
@[simp] theorem setIsp_freeIdx (n : Nat) (p : IspSt) : (setIsp n p s).freeIdx = s.freeIdx := rfl
@[simp] theorem setIsp_pending (n : Nat) (p : IspSt) : (setIsp n p s).pending = s.pending := rfl
@[simp] theorem reg_setIsp (n : Nat) (p : IspSt) (b : Nat) : reg (setIsp n p s) b = reg s b := rfl
@[simp] theorem rd_setIsp (n : Nat) (p : IspSt) (p' : Page) (off' : Nat) : rd (setIsp n p s) p' off' = rd s p' off' := rfl
@[simp] theorem fld_setIsp (n : Nat) (p : IspSt) (p' : Page) (off' lo' w' : Nat) : fld (setIsp n p s) p' off' lo' w' = fld s p' off' lo' w' := rfl
@[simp] theorem flag_setIsp (n : Nat) (p : IspSt) (p' : Page) (off' b' : Nat) : flag (setIsp n p s) p' off' b' = flag s p' off' b' := rfl

/-! ## setTile -/

@[simp] theorem setTile_part (t : Nat) (x : TileSt) : (setTile t x s).part = s.part := rfl
@[simp] theorem setTile_regs (t : Nat) (x : TileSt) : (setTile t x s).regs = s.regs := rfl
@[simp] theorem setTile_tt (t : Nat) (x : TileSt) : (setTile t x s).tt = s.tt := rfl
@[simp] theorem setTile_head (t : Nat) (x : TileSt) : (setTile t x s).head = s.head := rfl
@[simp] theorem setTile_boot (t : Nat) (x : TileSt) : (setTile t x s).boot = s.boot := rfl
@[simp] theorem setTile_pwr (t : Nat) (x : TileSt) : (setTile t x s).pwr = s.pwr := rfl
@[simp] theorem setTile_fc (t : Nat) (x : TileSt) : (setTile t x s).fc = s.fc := rfl
@[simp] theorem setTile_host (t : Nat) (x : TileSt) : (setTile t x s).host = s.host := rfl
@[simp] theorem setTile_hh (t : Nat) (x : TileSt) : (setTile t x s).hh = s.hh := rfl
@[simp] theorem setTile_sec (t : Nat) (x : TileSt) : (setTile t x s).sec = s.sec := rfl
@[simp] theorem setTile_tbl (t : Nat) (x : TileSt) : (setTile t x s).tbl = s.tbl := rfl
@[simp] theorem setTile_au (t : Nat) (x : TileSt) : (setTile t x s).au = s.au := rfl
@[simp] theorem setTile_ce (t : Nat) (x : TileSt) : (setTile t x s).ce = s.ce := rfl
@[simp] theorem setTile_csi (t : Nat) (x : TileSt) : (setTile t x s).csi = s.csi := rfl
@[simp] theorem setTile_isp (t : Nat) (x : TileSt) : (setTile t x s).isp = s.isp := rfl
@[simp] theorem setTile_stems (t : Nat) (x : TileSt) : (setTile t x s).stems = s.stems := rfl
@[simp] theorem setTile_mem (t : Nat) (x : TileSt) : (setTile t x s).mem = s.mem := rfl
@[simp] theorem setTile_queues (t : Nat) (x : TileSt) : (setTile t x s).queues = s.queues := rfl
@[simp] theorem setTile_hbm (t : Nat) (x : TileSt) : (setTile t x s).hbm = s.hbm := rfl
@[simp] theorem setTile_out (t : Nat) (x : TileSt) : (setTile t x s).out = s.out := rfl
@[simp] theorem setTile_freeIdx (t : Nat) (x : TileSt) : (setTile t x s).freeIdx = s.freeIdx := rfl
@[simp] theorem setTile_pending (t : Nat) (x : TileSt) : (setTile t x s).pending = s.pending := rfl
@[simp] theorem reg_setTile (t : Nat) (x : TileSt) (b : Nat) : reg (setTile t x s) b = reg s b := rfl
@[simp] theorem rd_setTile (t : Nat) (x : TileSt) (p' : Page) (off' : Nat) : rd (setTile t x s) p' off' = rd s p' off' := rfl
@[simp] theorem fld_setTile (t : Nat) (x : TileSt) (p' : Page) (off' lo' w' : Nat) : fld (setTile t x s) p' off' lo' w' = fld s p' off' lo' w' := rfl
@[simp] theorem flag_setTile (t : Nat) (x : TileSt) (p' : Page) (off' b' : Nat) : flag (setTile t x s) p' off' b' = flag s p' off' b' := rfl

/-! ## updTile -/

@[simp] theorem updTile_part (t : Nat) (f : TileSt → TileSt) : (updTile t f s).part = s.part := rfl
@[simp] theorem updTile_regs (t : Nat) (f : TileSt → TileSt) : (updTile t f s).regs = s.regs := rfl
@[simp] theorem updTile_tt (t : Nat) (f : TileSt → TileSt) : (updTile t f s).tt = s.tt := rfl
@[simp] theorem updTile_head (t : Nat) (f : TileSt → TileSt) : (updTile t f s).head = s.head := rfl
@[simp] theorem updTile_boot (t : Nat) (f : TileSt → TileSt) : (updTile t f s).boot = s.boot := rfl
@[simp] theorem updTile_pwr (t : Nat) (f : TileSt → TileSt) : (updTile t f s).pwr = s.pwr := rfl
@[simp] theorem updTile_fc (t : Nat) (f : TileSt → TileSt) : (updTile t f s).fc = s.fc := rfl
@[simp] theorem updTile_host (t : Nat) (f : TileSt → TileSt) : (updTile t f s).host = s.host := rfl
@[simp] theorem updTile_hh (t : Nat) (f : TileSt → TileSt) : (updTile t f s).hh = s.hh := rfl
@[simp] theorem updTile_sec (t : Nat) (f : TileSt → TileSt) : (updTile t f s).sec = s.sec := rfl
@[simp] theorem updTile_tbl (t : Nat) (f : TileSt → TileSt) : (updTile t f s).tbl = s.tbl := rfl
@[simp] theorem updTile_au (t : Nat) (f : TileSt → TileSt) : (updTile t f s).au = s.au := rfl
@[simp] theorem updTile_ce (t : Nat) (f : TileSt → TileSt) : (updTile t f s).ce = s.ce := rfl
@[simp] theorem updTile_csi (t : Nat) (f : TileSt → TileSt) : (updTile t f s).csi = s.csi := rfl
@[simp] theorem updTile_isp (t : Nat) (f : TileSt → TileSt) : (updTile t f s).isp = s.isp := rfl
@[simp] theorem updTile_stems (t : Nat) (f : TileSt → TileSt) : (updTile t f s).stems = s.stems := rfl
@[simp] theorem updTile_mem (t : Nat) (f : TileSt → TileSt) : (updTile t f s).mem = s.mem := rfl
@[simp] theorem updTile_queues (t : Nat) (f : TileSt → TileSt) : (updTile t f s).queues = s.queues := rfl
@[simp] theorem updTile_hbm (t : Nat) (f : TileSt → TileSt) : (updTile t f s).hbm = s.hbm := rfl
@[simp] theorem updTile_out (t : Nat) (f : TileSt → TileSt) : (updTile t f s).out = s.out := rfl
@[simp] theorem updTile_freeIdx (t : Nat) (f : TileSt → TileSt) : (updTile t f s).freeIdx = s.freeIdx := rfl
@[simp] theorem updTile_pending (t : Nat) (f : TileSt → TileSt) : (updTile t f s).pending = s.pending := rfl
@[simp] theorem reg_updTile (t : Nat) (f : TileSt → TileSt) (b : Nat) : reg (updTile t f s) b = reg s b := rfl
@[simp] theorem rd_updTile (t : Nat) (f : TileSt → TileSt) (p' : Page) (off' : Nat) : rd (updTile t f s) p' off' = rd s p' off' := rfl
@[simp] theorem fld_updTile (t : Nat) (f : TileSt → TileSt) (p' : Page) (off' lo' w' : Nat) : fld (updTile t f s) p' off' lo' w' = fld s p' off' lo' w' := rfl
@[simp] theorem flag_updTile (t : Nat) (f : TileSt → TileSt) (p' : Page) (off' b' : Nat) : flag (updTile t f s) p' off' b' = flag s p' off' b' := rfl

/-! ## updStem -/

@[simp] theorem updStem_part (d : Nat) (f : StemSt → StemSt) : (updStem d f s).part = s.part := rfl
@[simp] theorem updStem_regs (d : Nat) (f : StemSt → StemSt) : (updStem d f s).regs = s.regs := rfl
@[simp] theorem updStem_tt (d : Nat) (f : StemSt → StemSt) : (updStem d f s).tt = s.tt := rfl
@[simp] theorem updStem_head (d : Nat) (f : StemSt → StemSt) : (updStem d f s).head = s.head := rfl
@[simp] theorem updStem_boot (d : Nat) (f : StemSt → StemSt) : (updStem d f s).boot = s.boot := rfl
@[simp] theorem updStem_pwr (d : Nat) (f : StemSt → StemSt) : (updStem d f s).pwr = s.pwr := rfl
@[simp] theorem updStem_fc (d : Nat) (f : StemSt → StemSt) : (updStem d f s).fc = s.fc := rfl
@[simp] theorem updStem_host (d : Nat) (f : StemSt → StemSt) : (updStem d f s).host = s.host := rfl
@[simp] theorem updStem_hh (d : Nat) (f : StemSt → StemSt) : (updStem d f s).hh = s.hh := rfl
@[simp] theorem updStem_sec (d : Nat) (f : StemSt → StemSt) : (updStem d f s).sec = s.sec := rfl
@[simp] theorem updStem_tbl (d : Nat) (f : StemSt → StemSt) : (updStem d f s).tbl = s.tbl := rfl
@[simp] theorem updStem_au (d : Nat) (f : StemSt → StemSt) : (updStem d f s).au = s.au := rfl
@[simp] theorem updStem_ce (d : Nat) (f : StemSt → StemSt) : (updStem d f s).ce = s.ce := rfl
@[simp] theorem updStem_csi (d : Nat) (f : StemSt → StemSt) : (updStem d f s).csi = s.csi := rfl
@[simp] theorem updStem_isp (d : Nat) (f : StemSt → StemSt) : (updStem d f s).isp = s.isp := rfl
@[simp] theorem updStem_tiles (d : Nat) (f : StemSt → StemSt) : (updStem d f s).tiles = s.tiles := rfl
@[simp] theorem updStem_mem (d : Nat) (f : StemSt → StemSt) : (updStem d f s).mem = s.mem := rfl
@[simp] theorem updStem_queues (d : Nat) (f : StemSt → StemSt) : (updStem d f s).queues = s.queues := rfl
@[simp] theorem updStem_hbm (d : Nat) (f : StemSt → StemSt) : (updStem d f s).hbm = s.hbm := rfl
@[simp] theorem updStem_out (d : Nat) (f : StemSt → StemSt) : (updStem d f s).out = s.out := rfl
@[simp] theorem updStem_freeIdx (d : Nat) (f : StemSt → StemSt) : (updStem d f s).freeIdx = s.freeIdx := rfl
@[simp] theorem updStem_pending (d : Nat) (f : StemSt → StemSt) : (updStem d f s).pending = s.pending := rfl
@[simp] theorem reg_updStem (d : Nat) (f : StemSt → StemSt) (b : Nat) : reg (updStem d f s) b = reg s b := rfl
@[simp] theorem rd_updStem (d : Nat) (f : StemSt → StemSt) (p' : Page) (off' : Nat) : rd (updStem d f s) p' off' = rd s p' off' := rfl
@[simp] theorem fld_updStem (d : Nat) (f : StemSt → StemSt) (p' : Page) (off' lo' w' : Nat) : fld (updStem d f s) p' off' lo' w' = fld s p' off' lo' w' := rfl
@[simp] theorem flag_updStem (d : Nat) (f : StemSt → StemSt) (p' : Page) (off' b' : Nat) : flag (updStem d f s) p' off' b' = flag s p' off' b' := rfl

/-! ## setQueue -/

@[simp] theorem setQueue_part (q : Nat) (r : Queue) : (setQueue q r s).part = s.part := rfl
@[simp] theorem setQueue_regs (q : Nat) (r : Queue) : (setQueue q r s).regs = s.regs := rfl
@[simp] theorem setQueue_tt (q : Nat) (r : Queue) : (setQueue q r s).tt = s.tt := rfl
@[simp] theorem setQueue_head (q : Nat) (r : Queue) : (setQueue q r s).head = s.head := rfl
@[simp] theorem setQueue_boot (q : Nat) (r : Queue) : (setQueue q r s).boot = s.boot := rfl
@[simp] theorem setQueue_pwr (q : Nat) (r : Queue) : (setQueue q r s).pwr = s.pwr := rfl
@[simp] theorem setQueue_fc (q : Nat) (r : Queue) : (setQueue q r s).fc = s.fc := rfl
@[simp] theorem setQueue_host (q : Nat) (r : Queue) : (setQueue q r s).host = s.host := rfl
@[simp] theorem setQueue_hh (q : Nat) (r : Queue) : (setQueue q r s).hh = s.hh := rfl
@[simp] theorem setQueue_sec (q : Nat) (r : Queue) : (setQueue q r s).sec = s.sec := rfl
@[simp] theorem setQueue_tbl (q : Nat) (r : Queue) : (setQueue q r s).tbl = s.tbl := rfl
@[simp] theorem setQueue_au (q : Nat) (r : Queue) : (setQueue q r s).au = s.au := rfl
@[simp] theorem setQueue_ce (q : Nat) (r : Queue) : (setQueue q r s).ce = s.ce := rfl
@[simp] theorem setQueue_csi (q : Nat) (r : Queue) : (setQueue q r s).csi = s.csi := rfl
@[simp] theorem setQueue_isp (q : Nat) (r : Queue) : (setQueue q r s).isp = s.isp := rfl
@[simp] theorem setQueue_tiles (q : Nat) (r : Queue) : (setQueue q r s).tiles = s.tiles := rfl
@[simp] theorem setQueue_stems (q : Nat) (r : Queue) : (setQueue q r s).stems = s.stems := rfl
@[simp] theorem setQueue_mem (q : Nat) (r : Queue) : (setQueue q r s).mem = s.mem := rfl
@[simp] theorem setQueue_hbm (q : Nat) (r : Queue) : (setQueue q r s).hbm = s.hbm := rfl
@[simp] theorem setQueue_out (q : Nat) (r : Queue) : (setQueue q r s).out = s.out := rfl
@[simp] theorem setQueue_freeIdx (q : Nat) (r : Queue) : (setQueue q r s).freeIdx = s.freeIdx := rfl
@[simp] theorem setQueue_pending (q : Nat) (r : Queue) : (setQueue q r s).pending = s.pending := rfl
@[simp] theorem reg_setQueue (q : Nat) (r : Queue) (b : Nat) : reg (setQueue q r s) b = reg s b := rfl
@[simp] theorem rd_setQueue (q : Nat) (r : Queue) (p' : Page) (off' : Nat) : rd (setQueue q r s) p' off' = rd s p' off' := rfl
@[simp] theorem fld_setQueue (q : Nat) (r : Queue) (p' : Page) (off' lo' w' : Nat) : fld (setQueue q r s) p' off' lo' w' = fld s p' off' lo' w' := rfl
@[simp] theorem flag_setQueue (q : Nat) (r : Queue) (p' : Page) (off' b' : Nat) : flag (setQueue q r s) p' off' b' = flag s p' off' b' := rfl

/-! ## updQueue -/

@[simp] theorem updQueue_part (q : Nat) (f : Queue → Queue) : (updQueue q f s).part = s.part := rfl
@[simp] theorem updQueue_regs (q : Nat) (f : Queue → Queue) : (updQueue q f s).regs = s.regs := rfl
@[simp] theorem updQueue_tt (q : Nat) (f : Queue → Queue) : (updQueue q f s).tt = s.tt := rfl
@[simp] theorem updQueue_head (q : Nat) (f : Queue → Queue) : (updQueue q f s).head = s.head := rfl
@[simp] theorem updQueue_boot (q : Nat) (f : Queue → Queue) : (updQueue q f s).boot = s.boot := rfl
@[simp] theorem updQueue_pwr (q : Nat) (f : Queue → Queue) : (updQueue q f s).pwr = s.pwr := rfl
@[simp] theorem updQueue_fc (q : Nat) (f : Queue → Queue) : (updQueue q f s).fc = s.fc := rfl
@[simp] theorem updQueue_host (q : Nat) (f : Queue → Queue) : (updQueue q f s).host = s.host := rfl
@[simp] theorem updQueue_hh (q : Nat) (f : Queue → Queue) : (updQueue q f s).hh = s.hh := rfl
@[simp] theorem updQueue_sec (q : Nat) (f : Queue → Queue) : (updQueue q f s).sec = s.sec := rfl
@[simp] theorem updQueue_tbl (q : Nat) (f : Queue → Queue) : (updQueue q f s).tbl = s.tbl := rfl
@[simp] theorem updQueue_au (q : Nat) (f : Queue → Queue) : (updQueue q f s).au = s.au := rfl
@[simp] theorem updQueue_ce (q : Nat) (f : Queue → Queue) : (updQueue q f s).ce = s.ce := rfl
@[simp] theorem updQueue_csi (q : Nat) (f : Queue → Queue) : (updQueue q f s).csi = s.csi := rfl
@[simp] theorem updQueue_isp (q : Nat) (f : Queue → Queue) : (updQueue q f s).isp = s.isp := rfl
@[simp] theorem updQueue_tiles (q : Nat) (f : Queue → Queue) : (updQueue q f s).tiles = s.tiles := rfl
@[simp] theorem updQueue_stems (q : Nat) (f : Queue → Queue) : (updQueue q f s).stems = s.stems := rfl
@[simp] theorem updQueue_mem (q : Nat) (f : Queue → Queue) : (updQueue q f s).mem = s.mem := rfl
@[simp] theorem updQueue_hbm (q : Nat) (f : Queue → Queue) : (updQueue q f s).hbm = s.hbm := rfl
@[simp] theorem updQueue_out (q : Nat) (f : Queue → Queue) : (updQueue q f s).out = s.out := rfl
@[simp] theorem updQueue_freeIdx (q : Nat) (f : Queue → Queue) : (updQueue q f s).freeIdx = s.freeIdx := rfl
@[simp] theorem updQueue_pending (q : Nat) (f : Queue → Queue) : (updQueue q f s).pending = s.pending := rfl
@[simp] theorem reg_updQueue (q : Nat) (f : Queue → Queue) (b : Nat) : reg (updQueue q f s) b = reg s b := rfl
@[simp] theorem rd_updQueue (q : Nat) (f : Queue → Queue) (p' : Page) (off' : Nat) : rd (updQueue q f s) p' off' = rd s p' off' := rfl
@[simp] theorem fld_updQueue (q : Nat) (f : Queue → Queue) (p' : Page) (off' lo' w' : Nat) : fld (updQueue q f s) p' off' lo' w' = fld s p' off' lo' w' := rfl
@[simp] theorem flag_updQueue (q : Nat) (f : Queue → Queue) (p' : Page) (off' b' : Nat) : flag (updQueue q f s) p' off' b' = flag s p' off' b' := rfl

/-! ## setKitty -/

@[simp] theorem setKitty_part (n : Nat) (ls : List KLine) : (setKitty n ls s).part = s.part := rfl
@[simp] theorem setKitty_regs (n : Nat) (ls : List KLine) : (setKitty n ls s).regs = s.regs := rfl
@[simp] theorem setKitty_tt (n : Nat) (ls : List KLine) : (setKitty n ls s).tt = s.tt := rfl
@[simp] theorem setKitty_head (n : Nat) (ls : List KLine) : (setKitty n ls s).head = s.head := rfl
@[simp] theorem setKitty_boot (n : Nat) (ls : List KLine) : (setKitty n ls s).boot = s.boot := rfl
@[simp] theorem setKitty_pwr (n : Nat) (ls : List KLine) : (setKitty n ls s).pwr = s.pwr := rfl
@[simp] theorem setKitty_fc (n : Nat) (ls : List KLine) : (setKitty n ls s).fc = s.fc := rfl
@[simp] theorem setKitty_host (n : Nat) (ls : List KLine) : (setKitty n ls s).host = s.host := rfl
@[simp] theorem setKitty_hh (n : Nat) (ls : List KLine) : (setKitty n ls s).hh = s.hh := rfl
@[simp] theorem setKitty_sec (n : Nat) (ls : List KLine) : (setKitty n ls s).sec = s.sec := rfl
@[simp] theorem setKitty_tbl (n : Nat) (ls : List KLine) : (setKitty n ls s).tbl = s.tbl := rfl
@[simp] theorem setKitty_au (n : Nat) (ls : List KLine) : (setKitty n ls s).au = s.au := rfl
@[simp] theorem setKitty_ce (n : Nat) (ls : List KLine) : (setKitty n ls s).ce = s.ce := rfl
@[simp] theorem setKitty_csi (n : Nat) (ls : List KLine) : (setKitty n ls s).csi = s.csi := rfl
@[simp] theorem setKitty_isp (n : Nat) (ls : List KLine) : (setKitty n ls s).isp = s.isp := rfl
@[simp] theorem setKitty_tiles (n : Nat) (ls : List KLine) : (setKitty n ls s).tiles = s.tiles := rfl
@[simp] theorem setKitty_stems (n : Nat) (ls : List KLine) : (setKitty n ls s).stems = s.stems := rfl
@[simp] theorem setKitty_queues (n : Nat) (ls : List KLine) : (setKitty n ls s).queues = s.queues := rfl
@[simp] theorem setKitty_hbm (n : Nat) (ls : List KLine) : (setKitty n ls s).hbm = s.hbm := rfl
@[simp] theorem setKitty_out (n : Nat) (ls : List KLine) : (setKitty n ls s).out = s.out := rfl
@[simp] theorem setKitty_freeIdx (n : Nat) (ls : List KLine) : (setKitty n ls s).freeIdx = s.freeIdx := rfl
@[simp] theorem setKitty_pending (n : Nat) (ls : List KLine) : (setKitty n ls s).pending = s.pending := rfl
@[simp] theorem reg_setKitty (n : Nat) (ls : List KLine) (b : Nat) : reg (setKitty n ls s) b = reg s b := rfl
@[simp] theorem rd_setKitty (n : Nat) (ls : List KLine) (p' : Page) (off' : Nat) : rd (setKitty n ls s) p' off' = rd s p' off' := rfl
@[simp] theorem fld_setKitty (n : Nat) (ls : List KLine) (p' : Page) (off' lo' w' : Nat) : fld (setKitty n ls s) p' off' lo' w' = fld s p' off' lo' w' := rfl
@[simp] theorem flag_setKitty (n : Nat) (ls : List KLine) (p' : Page) (off' b' : Nat) : flag (setKitty n ls s) p' off' b' = flag s p' off' b' := rfl

/-! ## holdBypass -/

@[simp] theorem holdBypass_part (b : Bypass) : (holdBypass b s).part = s.part := rfl
@[simp] theorem holdBypass_regs (b : Bypass) : (holdBypass b s).regs = s.regs := rfl
@[simp] theorem holdBypass_tt (b : Bypass) : (holdBypass b s).tt = s.tt := rfl
@[simp] theorem holdBypass_head (b : Bypass) : (holdBypass b s).head = s.head := rfl
@[simp] theorem holdBypass_boot (b : Bypass) : (holdBypass b s).boot = s.boot := rfl
@[simp] theorem holdBypass_pwr (b : Bypass) : (holdBypass b s).pwr = s.pwr := rfl
@[simp] theorem holdBypass_fc (b : Bypass) : (holdBypass b s).fc = s.fc := rfl
@[simp] theorem holdBypass_host (b : Bypass) : (holdBypass b s).host = s.host := rfl
@[simp] theorem holdBypass_hh (b : Bypass) : (holdBypass b s).hh = s.hh := rfl
@[simp] theorem holdBypass_sec (b : Bypass) : (holdBypass b s).sec = s.sec := rfl
@[simp] theorem holdBypass_tbl (b : Bypass) : (holdBypass b s).tbl = s.tbl := rfl
@[simp] theorem holdBypass_au (b : Bypass) : (holdBypass b s).au = s.au := rfl
@[simp] theorem holdBypass_ce (b : Bypass) : (holdBypass b s).ce = s.ce := rfl
@[simp] theorem holdBypass_csi (b : Bypass) : (holdBypass b s).csi = s.csi := rfl
@[simp] theorem holdBypass_isp (b : Bypass) : (holdBypass b s).isp = s.isp := rfl
@[simp] theorem holdBypass_tiles (b : Bypass) : (holdBypass b s).tiles = s.tiles := rfl
@[simp] theorem holdBypass_stems (b : Bypass) : (holdBypass b s).stems = s.stems := rfl
@[simp] theorem holdBypass_queues (b : Bypass) : (holdBypass b s).queues = s.queues := rfl
@[simp] theorem holdBypass_hbm (b : Bypass) : (holdBypass b s).hbm = s.hbm := rfl
@[simp] theorem holdBypass_out (b : Bypass) : (holdBypass b s).out = s.out := rfl
@[simp] theorem holdBypass_freeIdx (b : Bypass) : (holdBypass b s).freeIdx = s.freeIdx := rfl
@[simp] theorem holdBypass_pending (b : Bypass) : (holdBypass b s).pending = s.pending := rfl
@[simp] theorem reg_holdBypass (b : Bypass) (a : Nat) : reg (holdBypass b s) a = reg s a := rfl
@[simp] theorem rd_holdBypass (b : Bypass) (p' : Page) (off' : Nat) : rd (holdBypass b s) p' off' = rd s p' off' := rfl
@[simp] theorem fld_holdBypass (b : Bypass) (p' : Page) (off' lo' w' : Nat) : fld (holdBypass b s) p' off' lo' w' = fld s p' off' lo' w' := rfl
@[simp] theorem flag_holdBypass (b : Bypass) (p' : Page) (off' b' : Nat) : flag (holdBypass b s) p' off' b' = flag s p' off' b' := rfl

/-! ## setKey -/

@[simp] theorem setKey_part (k : Nat) (e : KeySlot) : (setKey k e s).part = s.part := rfl
@[simp] theorem setKey_regs (k : Nat) (e : KeySlot) : (setKey k e s).regs = s.regs := rfl
@[simp] theorem setKey_tt (k : Nat) (e : KeySlot) : (setKey k e s).tt = s.tt := rfl
@[simp] theorem setKey_head (k : Nat) (e : KeySlot) : (setKey k e s).head = s.head := rfl
@[simp] theorem setKey_boot (k : Nat) (e : KeySlot) : (setKey k e s).boot = s.boot := rfl
@[simp] theorem setKey_pwr (k : Nat) (e : KeySlot) : (setKey k e s).pwr = s.pwr := rfl
@[simp] theorem setKey_fc (k : Nat) (e : KeySlot) : (setKey k e s).fc = s.fc := rfl
@[simp] theorem setKey_host (k : Nat) (e : KeySlot) : (setKey k e s).host = s.host := rfl
@[simp] theorem setKey_hh (k : Nat) (e : KeySlot) : (setKey k e s).hh = s.hh := rfl
@[simp] theorem setKey_sec (k : Nat) (e : KeySlot) : (setKey k e s).sec = s.sec := rfl
@[simp] theorem setKey_tbl (k : Nat) (e : KeySlot) : (setKey k e s).tbl = s.tbl := rfl
@[simp] theorem setKey_au (k : Nat) (e : KeySlot) : (setKey k e s).au = s.au := rfl
@[simp] theorem setKey_ce (k : Nat) (e : KeySlot) : (setKey k e s).ce = s.ce := rfl
@[simp] theorem setKey_csi (k : Nat) (e : KeySlot) : (setKey k e s).csi = s.csi := rfl
@[simp] theorem setKey_isp (k : Nat) (e : KeySlot) : (setKey k e s).isp = s.isp := rfl
@[simp] theorem setKey_tiles (k : Nat) (e : KeySlot) : (setKey k e s).tiles = s.tiles := rfl
@[simp] theorem setKey_stems (k : Nat) (e : KeySlot) : (setKey k e s).stems = s.stems := rfl
@[simp] theorem setKey_queues (k : Nat) (e : KeySlot) : (setKey k e s).queues = s.queues := rfl
@[simp] theorem setKey_hbm (k : Nat) (e : KeySlot) : (setKey k e s).hbm = s.hbm := rfl
@[simp] theorem setKey_out (k : Nat) (e : KeySlot) : (setKey k e s).out = s.out := rfl
@[simp] theorem setKey_freeIdx (k : Nat) (e : KeySlot) : (setKey k e s).freeIdx = s.freeIdx := rfl
@[simp] theorem setKey_pending (k : Nat) (e : KeySlot) : (setKey k e s).pending = s.pending := rfl
@[simp] theorem reg_setKey (k : Nat) (e : KeySlot) (b : Nat) : reg (setKey k e s) b = reg s b := rfl
@[simp] theorem rd_setKey (k : Nat) (e : KeySlot) (p' : Page) (off' : Nat) : rd (setKey k e s) p' off' = rd s p' off' := rfl
@[simp] theorem fld_setKey (k : Nat) (e : KeySlot) (p' : Page) (off' lo' w' : Nat) : fld (setKey k e s) p' off' lo' w' = fld s p' off' lo' w' := rfl
@[simp] theorem flag_setKey (k : Nat) (e : KeySlot) (p' : Page) (off' b' : Nat) : flag (setKey k e s) p' off' b' = flag s p' off' b' := rfl

/-! ## setHold -/

@[simp] theorem setHold_part (t : Nat) (h : HoldSt) : (setHold t h s).part = s.part := rfl
@[simp] theorem setHold_regs (t : Nat) (h : HoldSt) : (setHold t h s).regs = s.regs := rfl
@[simp] theorem setHold_tt (t : Nat) (h : HoldSt) : (setHold t h s).tt = s.tt := rfl
@[simp] theorem setHold_head (t : Nat) (h : HoldSt) : (setHold t h s).head = s.head := rfl
@[simp] theorem setHold_boot (t : Nat) (h : HoldSt) : (setHold t h s).boot = s.boot := rfl
@[simp] theorem setHold_pwr (t : Nat) (h : HoldSt) : (setHold t h s).pwr = s.pwr := rfl
@[simp] theorem setHold_fc (t : Nat) (h : HoldSt) : (setHold t h s).fc = s.fc := rfl
@[simp] theorem setHold_hh (t : Nat) (h : HoldSt) : (setHold t h s).hh = s.hh := rfl
@[simp] theorem setHold_sec (t : Nat) (h : HoldSt) : (setHold t h s).sec = s.sec := rfl
@[simp] theorem setHold_tbl (t : Nat) (h : HoldSt) : (setHold t h s).tbl = s.tbl := rfl
@[simp] theorem setHold_au (t : Nat) (h : HoldSt) : (setHold t h s).au = s.au := rfl
@[simp] theorem setHold_ce (t : Nat) (h : HoldSt) : (setHold t h s).ce = s.ce := rfl
@[simp] theorem setHold_csi (t : Nat) (h : HoldSt) : (setHold t h s).csi = s.csi := rfl
@[simp] theorem setHold_isp (t : Nat) (h : HoldSt) : (setHold t h s).isp = s.isp := rfl
@[simp] theorem setHold_tiles (t : Nat) (h : HoldSt) : (setHold t h s).tiles = s.tiles := rfl
@[simp] theorem setHold_stems (t : Nat) (h : HoldSt) : (setHold t h s).stems = s.stems := rfl
@[simp] theorem setHold_mem (t : Nat) (h : HoldSt) : (setHold t h s).mem = s.mem := rfl
@[simp] theorem setHold_queues (t : Nat) (h : HoldSt) : (setHold t h s).queues = s.queues := rfl
@[simp] theorem setHold_hbm (t : Nat) (h : HoldSt) : (setHold t h s).hbm = s.hbm := rfl
@[simp] theorem setHold_out (t : Nat) (h : HoldSt) : (setHold t h s).out = s.out := rfl
@[simp] theorem setHold_freeIdx (t : Nat) (h : HoldSt) : (setHold t h s).freeIdx = s.freeIdx := rfl
@[simp] theorem setHold_pending (t : Nat) (h : HoldSt) : (setHold t h s).pending = s.pending := rfl
@[simp] theorem reg_setHold (t : Nat) (h : HoldSt) (b : Nat) : reg (setHold t h s) b = reg s b := rfl
@[simp] theorem rd_setHold (t : Nat) (h : HoldSt) (p' : Page) (off' : Nat) : rd (setHold t h s) p' off' = rd s p' off' := rfl
@[simp] theorem fld_setHold (t : Nat) (h : HoldSt) (p' : Page) (off' lo' w' : Nat) : fld (setHold t h s) p' off' lo' w' = fld s p' off' lo' w' := rfl
@[simp] theorem flag_setHold (t : Nat) (h : HoldSt) (p' : Page) (off' b' : Nat) : flag (setHold t h s) p' off' b' = flag s p' off' b' := rfl

/-! ## setDet -/

@[simp] theorem setDet_part (k : Nat) (d : DetSt) : (setDet k d s).part = s.part := rfl
@[simp] theorem setDet_regs (k : Nat) (d : DetSt) : (setDet k d s).regs = s.regs := rfl
@[simp] theorem setDet_tt (k : Nat) (d : DetSt) : (setDet k d s).tt = s.tt := rfl
@[simp] theorem setDet_head (k : Nat) (d : DetSt) : (setDet k d s).head = s.head := rfl
@[simp] theorem setDet_boot (k : Nat) (d : DetSt) : (setDet k d s).boot = s.boot := rfl
@[simp] theorem setDet_pwr (k : Nat) (d : DetSt) : (setDet k d s).pwr = s.pwr := rfl
@[simp] theorem setDet_fc (k : Nat) (d : DetSt) : (setDet k d s).fc = s.fc := rfl
@[simp] theorem setDet_host (k : Nat) (d : DetSt) : (setDet k d s).host = s.host := rfl
@[simp] theorem setDet_hh (k : Nat) (d : DetSt) : (setDet k d s).hh = s.hh := rfl
@[simp] theorem setDet_sec (k : Nat) (d : DetSt) : (setDet k d s).sec = s.sec := rfl
@[simp] theorem setDet_tbl (k : Nat) (d : DetSt) : (setDet k d s).tbl = s.tbl := rfl
@[simp] theorem setDet_ce (k : Nat) (d : DetSt) : (setDet k d s).ce = s.ce := rfl
@[simp] theorem setDet_csi (k : Nat) (d : DetSt) : (setDet k d s).csi = s.csi := rfl
@[simp] theorem setDet_isp (k : Nat) (d : DetSt) : (setDet k d s).isp = s.isp := rfl
@[simp] theorem setDet_tiles (k : Nat) (d : DetSt) : (setDet k d s).tiles = s.tiles := rfl
@[simp] theorem setDet_stems (k : Nat) (d : DetSt) : (setDet k d s).stems = s.stems := rfl
@[simp] theorem setDet_mem (k : Nat) (d : DetSt) : (setDet k d s).mem = s.mem := rfl
@[simp] theorem setDet_queues (k : Nat) (d : DetSt) : (setDet k d s).queues = s.queues := rfl
@[simp] theorem setDet_hbm (k : Nat) (d : DetSt) : (setDet k d s).hbm = s.hbm := rfl
@[simp] theorem setDet_out (k : Nat) (d : DetSt) : (setDet k d s).out = s.out := rfl
@[simp] theorem setDet_freeIdx (k : Nat) (d : DetSt) : (setDet k d s).freeIdx = s.freeIdx := rfl
@[simp] theorem setDet_pending (k : Nat) (d : DetSt) : (setDet k d s).pending = s.pending := rfl
@[simp] theorem reg_setDet (k : Nat) (d : DetSt) (b : Nat) : reg (setDet k d s) b = reg s b := rfl
@[simp] theorem rd_setDet (k : Nat) (d : DetSt) (p' : Page) (off' : Nat) : rd (setDet k d s) p' off' = rd s p' off' := rfl
@[simp] theorem fld_setDet (k : Nat) (d : DetSt) (p' : Page) (off' lo' w' : Nat) : fld (setDet k d s) p' off' lo' w' = fld s p' off' lo' w' := rfl
@[simp] theorem flag_setDet (k : Nat) (d : DetSt) (p' : Page) (off' b' : Nat) : flag (setDet k d s) p' off' b' = flag s p' off' b' := rfl

/-! ## setHandle -/

@[simp] theorem setHandle_part (h : Nat) (x : DeckHandle) : (setHandle h x s).part = s.part := rfl
@[simp] theorem setHandle_regs (h : Nat) (x : DeckHandle) : (setHandle h x s).regs = s.regs := rfl
@[simp] theorem setHandle_tt (h : Nat) (x : DeckHandle) : (setHandle h x s).tt = s.tt := rfl
@[simp] theorem setHandle_head (h : Nat) (x : DeckHandle) : (setHandle h x s).head = s.head := rfl
@[simp] theorem setHandle_pwr (h : Nat) (x : DeckHandle) : (setHandle h x s).pwr = s.pwr := rfl
@[simp] theorem setHandle_fc (h : Nat) (x : DeckHandle) : (setHandle h x s).fc = s.fc := rfl
@[simp] theorem setHandle_host (h : Nat) (x : DeckHandle) : (setHandle h x s).host = s.host := rfl
@[simp] theorem setHandle_hh (h : Nat) (x : DeckHandle) : (setHandle h x s).hh = s.hh := rfl
@[simp] theorem setHandle_sec (h : Nat) (x : DeckHandle) : (setHandle h x s).sec = s.sec := rfl
@[simp] theorem setHandle_tbl (h : Nat) (x : DeckHandle) : (setHandle h x s).tbl = s.tbl := rfl
@[simp] theorem setHandle_au (h : Nat) (x : DeckHandle) : (setHandle h x s).au = s.au := rfl
@[simp] theorem setHandle_ce (h : Nat) (x : DeckHandle) : (setHandle h x s).ce = s.ce := rfl
@[simp] theorem setHandle_csi (h : Nat) (x : DeckHandle) : (setHandle h x s).csi = s.csi := rfl
@[simp] theorem setHandle_isp (h : Nat) (x : DeckHandle) : (setHandle h x s).isp = s.isp := rfl
@[simp] theorem setHandle_tiles (h : Nat) (x : DeckHandle) : (setHandle h x s).tiles = s.tiles := rfl
@[simp] theorem setHandle_stems (h : Nat) (x : DeckHandle) : (setHandle h x s).stems = s.stems := rfl
@[simp] theorem setHandle_mem (h : Nat) (x : DeckHandle) : (setHandle h x s).mem = s.mem := rfl
@[simp] theorem setHandle_queues (h : Nat) (x : DeckHandle) : (setHandle h x s).queues = s.queues := rfl
@[simp] theorem setHandle_hbm (h : Nat) (x : DeckHandle) : (setHandle h x s).hbm = s.hbm := rfl
@[simp] theorem setHandle_out (h : Nat) (x : DeckHandle) : (setHandle h x s).out = s.out := rfl
@[simp] theorem setHandle_freeIdx (h : Nat) (x : DeckHandle) : (setHandle h x s).freeIdx = s.freeIdx := rfl
@[simp] theorem setHandle_pending (h : Nat) (x : DeckHandle) : (setHandle h x s).pending = s.pending := rfl
@[simp] theorem reg_setHandle (h : Nat) (x : DeckHandle) (b : Nat) : reg (setHandle h x s) b = reg s b := rfl
@[simp] theorem rd_setHandle (h : Nat) (x : DeckHandle) (p' : Page) (off' : Nat) : rd (setHandle h x s) p' off' = rd s p' off' := rfl
@[simp] theorem fld_setHandle (h : Nat) (x : DeckHandle) (p' : Page) (off' lo' w' : Nat) : fld (setHandle h x s) p' off' lo' w' = fld s p' off' lo' w' := rfl
@[simp] theorem flag_setHandle (h : Nat) (x : DeckHandle) (p' : Page) (off' b' : Nat) : flag (setHandle h x s) p' off' b' = flag s p' off' b' := rfl

/-! ## dropHandle -/

@[simp] theorem dropHandle_part (h : Nat) : (dropHandle h s).part = s.part := rfl
@[simp] theorem dropHandle_regs (h : Nat) : (dropHandle h s).regs = s.regs := rfl
@[simp] theorem dropHandle_tt (h : Nat) : (dropHandle h s).tt = s.tt := rfl
@[simp] theorem dropHandle_head (h : Nat) : (dropHandle h s).head = s.head := rfl
@[simp] theorem dropHandle_pwr (h : Nat) : (dropHandle h s).pwr = s.pwr := rfl
@[simp] theorem dropHandle_fc (h : Nat) : (dropHandle h s).fc = s.fc := rfl
@[simp] theorem dropHandle_host (h : Nat) : (dropHandle h s).host = s.host := rfl
@[simp] theorem dropHandle_hh (h : Nat) : (dropHandle h s).hh = s.hh := rfl
@[simp] theorem dropHandle_sec (h : Nat) : (dropHandle h s).sec = s.sec := rfl
@[simp] theorem dropHandle_tbl (h : Nat) : (dropHandle h s).tbl = s.tbl := rfl
@[simp] theorem dropHandle_au (h : Nat) : (dropHandle h s).au = s.au := rfl
@[simp] theorem dropHandle_ce (h : Nat) : (dropHandle h s).ce = s.ce := rfl
@[simp] theorem dropHandle_csi (h : Nat) : (dropHandle h s).csi = s.csi := rfl
@[simp] theorem dropHandle_isp (h : Nat) : (dropHandle h s).isp = s.isp := rfl
@[simp] theorem dropHandle_tiles (h : Nat) : (dropHandle h s).tiles = s.tiles := rfl
@[simp] theorem dropHandle_stems (h : Nat) : (dropHandle h s).stems = s.stems := rfl
@[simp] theorem dropHandle_mem (h : Nat) : (dropHandle h s).mem = s.mem := rfl
@[simp] theorem dropHandle_queues (h : Nat) : (dropHandle h s).queues = s.queues := rfl
@[simp] theorem dropHandle_hbm (h : Nat) : (dropHandle h s).hbm = s.hbm := rfl
@[simp] theorem dropHandle_out (h : Nat) : (dropHandle h s).out = s.out := rfl
@[simp] theorem dropHandle_freeIdx (h : Nat) : (dropHandle h s).freeIdx = s.freeIdx := rfl
@[simp] theorem dropHandle_pending (h : Nat) : (dropHandle h s).pending = s.pending := rfl
@[simp] theorem reg_dropHandle (h : Nat) (b : Nat) : reg (dropHandle h s) b = reg s b := rfl
@[simp] theorem rd_dropHandle (h : Nat) (p' : Page) (off' : Nat) : rd (dropHandle h s) p' off' = rd s p' off' := rfl
@[simp] theorem fld_dropHandle (h : Nat) (p' : Page) (off' lo' w' : Nat) : fld (dropHandle h s) p' off' lo' w' = fld s p' off' lo' w' := rfl
@[simp] theorem flag_dropHandle (h : Nat) (p' : Page) (off' b' : Nat) : flag (dropHandle h s) p' off' b' = flag s p' off' b' := rfl

/-! ## setStage -/

@[simp] theorem setStage_part (fn n : Nat) : (setStage fn n s).part = s.part := rfl
@[simp] theorem setStage_regs (fn n : Nat) : (setStage fn n s).regs = s.regs := rfl
@[simp] theorem setStage_tt (fn n : Nat) : (setStage fn n s).tt = s.tt := rfl
@[simp] theorem setStage_head (fn n : Nat) : (setStage fn n s).head = s.head := rfl
@[simp] theorem setStage_boot (fn n : Nat) : (setStage fn n s).boot = s.boot := rfl
@[simp] theorem setStage_pwr (fn n : Nat) : (setStage fn n s).pwr = s.pwr := rfl
@[simp] theorem setStage_fc (fn n : Nat) : (setStage fn n s).fc = s.fc := rfl
@[simp] theorem setStage_host (fn n : Nat) : (setStage fn n s).host = s.host := rfl
@[simp] theorem setStage_hh (fn n : Nat) : (setStage fn n s).hh = s.hh := rfl
@[simp] theorem setStage_tbl (fn n : Nat) : (setStage fn n s).tbl = s.tbl := rfl
@[simp] theorem setStage_au (fn n : Nat) : (setStage fn n s).au = s.au := rfl
@[simp] theorem setStage_ce (fn n : Nat) : (setStage fn n s).ce = s.ce := rfl
@[simp] theorem setStage_csi (fn n : Nat) : (setStage fn n s).csi = s.csi := rfl
@[simp] theorem setStage_isp (fn n : Nat) : (setStage fn n s).isp = s.isp := rfl
@[simp] theorem setStage_tiles (fn n : Nat) : (setStage fn n s).tiles = s.tiles := rfl
@[simp] theorem setStage_stems (fn n : Nat) : (setStage fn n s).stems = s.stems := rfl
@[simp] theorem setStage_mem (fn n : Nat) : (setStage fn n s).mem = s.mem := rfl
@[simp] theorem setStage_queues (fn n : Nat) : (setStage fn n s).queues = s.queues := rfl
@[simp] theorem setStage_hbm (fn n : Nat) : (setStage fn n s).hbm = s.hbm := rfl
@[simp] theorem setStage_out (fn n : Nat) : (setStage fn n s).out = s.out := rfl
@[simp] theorem setStage_freeIdx (fn n : Nat) : (setStage fn n s).freeIdx = s.freeIdx := rfl
@[simp] theorem setStage_pending (fn n : Nat) : (setStage fn n s).pending = s.pending := rfl
@[simp] theorem reg_setStage (fn n : Nat) (b : Nat) : reg (setStage fn n s) b = reg s b := rfl
@[simp] theorem rd_setStage (fn n : Nat) (p' : Page) (off' : Nat) : rd (setStage fn n s) p' off' = rd s p' off' := rfl
@[simp] theorem fld_setStage (fn n : Nat) (p' : Page) (off' lo' w' : Nat) : fld (setStage fn n s) p' off' lo' w' = fld s p' off' lo' w' := rfl
@[simp] theorem flag_setStage (fn n : Nat) (p' : Page) (off' b' : Nat) : flag (setStage fn n s) p' off' b' = flag s p' off' b' := rfl

/-! ## hold -/

@[simp] theorem hold_part (r : HostReq) : (hold r s).part = s.part := rfl
@[simp] theorem hold_regs (r : HostReq) : (hold r s).regs = s.regs := rfl
@[simp] theorem hold_tt (r : HostReq) : (hold r s).tt = s.tt := rfl
@[simp] theorem hold_head (r : HostReq) : (hold r s).head = s.head := rfl
@[simp] theorem hold_boot (r : HostReq) : (hold r s).boot = s.boot := rfl
@[simp] theorem hold_pwr (r : HostReq) : (hold r s).pwr = s.pwr := rfl
@[simp] theorem hold_fc (r : HostReq) : (hold r s).fc = s.fc := rfl
@[simp] theorem hold_hh (r : HostReq) : (hold r s).hh = s.hh := rfl
@[simp] theorem hold_sec (r : HostReq) : (hold r s).sec = s.sec := rfl
@[simp] theorem hold_tbl (r : HostReq) : (hold r s).tbl = s.tbl := rfl
@[simp] theorem hold_au (r : HostReq) : (hold r s).au = s.au := rfl
@[simp] theorem hold_ce (r : HostReq) : (hold r s).ce = s.ce := rfl
@[simp] theorem hold_csi (r : HostReq) : (hold r s).csi = s.csi := rfl
@[simp] theorem hold_isp (r : HostReq) : (hold r s).isp = s.isp := rfl
@[simp] theorem hold_tiles (r : HostReq) : (hold r s).tiles = s.tiles := rfl
@[simp] theorem hold_stems (r : HostReq) : (hold r s).stems = s.stems := rfl
@[simp] theorem hold_mem (r : HostReq) : (hold r s).mem = s.mem := rfl
@[simp] theorem hold_queues (r : HostReq) : (hold r s).queues = s.queues := rfl
@[simp] theorem hold_hbm (r : HostReq) : (hold r s).hbm = s.hbm := rfl
@[simp] theorem hold_out (r : HostReq) : (hold r s).out = s.out := rfl
@[simp] theorem hold_freeIdx (r : HostReq) : (hold r s).freeIdx = s.freeIdx := rfl
@[simp] theorem hold_pending (r : HostReq) : (hold r s).pending = s.pending := rfl
@[simp] theorem reg_hold (r : HostReq) (b : Nat) : reg (hold r s) b = reg s b := rfl
@[simp] theorem rd_hold (r : HostReq) (p' : Page) (off' : Nat) : rd (hold r s) p' off' = rd s p' off' := rfl
@[simp] theorem fld_hold (r : HostReq) (p' : Page) (off' lo' w' : Nat) : fld (hold r s) p' off' lo' w' = fld s p' off' lo' w' := rfl
@[simp] theorem flag_hold (r : HostReq) (p' : Page) (off' b' : Nat) : flag (hold r s) p' off' b' = flag s p' off' b' := rfl

/-! ## commitMsg -/

@[simp] theorem commitMsg_part (c : Commit) : (commitMsg c s).part = s.part := rfl
@[simp] theorem commitMsg_regs (c : Commit) : (commitMsg c s).regs = s.regs := rfl
@[simp] theorem commitMsg_head (c : Commit) : (commitMsg c s).head = s.head := rfl
@[simp] theorem commitMsg_boot (c : Commit) : (commitMsg c s).boot = s.boot := rfl
@[simp] theorem commitMsg_pwr (c : Commit) : (commitMsg c s).pwr = s.pwr := rfl
@[simp] theorem commitMsg_fc (c : Commit) : (commitMsg c s).fc = s.fc := rfl
@[simp] theorem commitMsg_host (c : Commit) : (commitMsg c s).host = s.host := rfl
@[simp] theorem commitMsg_hh (c : Commit) : (commitMsg c s).hh = s.hh := rfl
@[simp] theorem commitMsg_sec (c : Commit) : (commitMsg c s).sec = s.sec := rfl
@[simp] theorem commitMsg_tbl (c : Commit) : (commitMsg c s).tbl = s.tbl := rfl
@[simp] theorem commitMsg_au (c : Commit) : (commitMsg c s).au = s.au := rfl
@[simp] theorem commitMsg_ce (c : Commit) : (commitMsg c s).ce = s.ce := rfl
@[simp] theorem commitMsg_csi (c : Commit) : (commitMsg c s).csi = s.csi := rfl
@[simp] theorem commitMsg_isp (c : Commit) : (commitMsg c s).isp = s.isp := rfl
@[simp] theorem commitMsg_tiles (c : Commit) : (commitMsg c s).tiles = s.tiles := rfl
@[simp] theorem commitMsg_stems (c : Commit) : (commitMsg c s).stems = s.stems := rfl
@[simp] theorem commitMsg_mem (c : Commit) : (commitMsg c s).mem = s.mem := rfl
@[simp] theorem commitMsg_queues (c : Commit) : (commitMsg c s).queues = s.queues := rfl
@[simp] theorem commitMsg_hbm (c : Commit) : (commitMsg c s).hbm = s.hbm := rfl
@[simp] theorem commitMsg_out (c : Commit) : (commitMsg c s).out = s.out := rfl
@[simp] theorem commitMsg_freeIdx (c : Commit) : (commitMsg c s).freeIdx = s.freeIdx := rfl
@[simp] theorem commitMsg_pending (c : Commit) : (commitMsg c s).pending = s.pending := rfl
@[simp] theorem reg_commitMsg (c : Commit) (b : Nat) : reg (commitMsg c s) b = reg s b := rfl
@[simp] theorem rd_commitMsg (c : Commit) (p' : Page) (off' : Nat) : rd (commitMsg c s) p' off' = rd s p' off' := rfl
@[simp] theorem fld_commitMsg (c : Commit) (p' : Page) (off' lo' w' : Nat) : fld (commitMsg c s) p' off' lo' w' = fld s p' off' lo' w' := rfl
@[simp] theorem flag_commitMsg (c : Commit) (p' : Page) (off' b' : Nat) : flag (commitMsg c s) p' off' b' = flag s p' off' b' := rfl

/-! ## romStart -/

@[simp] theorem romStart_part : (romStart s).part = s.part := rfl
@[simp] theorem romStart_regs : (romStart s).regs = s.regs := rfl
@[simp] theorem romStart_tt : (romStart s).tt = s.tt := rfl
@[simp] theorem romStart_head : (romStart s).head = s.head := rfl
@[simp] theorem romStart_boot : (romStart s).boot = s.boot := rfl
@[simp] theorem romStart_pwr : (romStart s).pwr = s.pwr := rfl
@[simp] theorem romStart_fc : (romStart s).fc = s.fc := rfl
@[simp] theorem romStart_host : (romStart s).host = s.host := rfl
@[simp] theorem romStart_hh : (romStart s).hh = s.hh := rfl
@[simp] theorem romStart_tbl : (romStart s).tbl = s.tbl := rfl
@[simp] theorem romStart_au : (romStart s).au = s.au := rfl
@[simp] theorem romStart_ce : (romStart s).ce = s.ce := rfl
@[simp] theorem romStart_csi : (romStart s).csi = s.csi := rfl
@[simp] theorem romStart_isp : (romStart s).isp = s.isp := rfl
@[simp] theorem romStart_tiles : (romStart s).tiles = s.tiles := rfl
@[simp] theorem romStart_stems : (romStart s).stems = s.stems := rfl
@[simp] theorem romStart_mem : (romStart s).mem = s.mem := rfl
@[simp] theorem romStart_queues : (romStart s).queues = s.queues := rfl
@[simp] theorem romStart_hbm : (romStart s).hbm = s.hbm := rfl
@[simp] theorem romStart_out : (romStart s).out = s.out := rfl
@[simp] theorem romStart_freeIdx : (romStart s).freeIdx = s.freeIdx := rfl
@[simp] theorem romStart_pending : (romStart s).pending = s.pending := rfl
@[simp] theorem reg_romStart (b : Nat) : reg (romStart s) b = reg s b := rfl
@[simp] theorem rd_romStart (p' : Page) (off' : Nat) : rd (romStart s) p' off' = rd s p' off' := rfl
@[simp] theorem fld_romStart (p' : Page) (off' lo' w' : Nat) : fld (romStart s) p' off' lo' w' = fld s p' off' lo' w' := rfl
@[simp] theorem flag_romStart (p' : Page) (off' b' : Nat) : flag (romStart s) p' off' b' = flag s p' off' b' := rfl

/-! ## diceLayer -/

@[simp] theorem diceLayer_part (deck : List Byte) : (diceLayer deck s).part = s.part := rfl
@[simp] theorem diceLayer_regs (deck : List Byte) : (diceLayer deck s).regs = s.regs := rfl
@[simp] theorem diceLayer_tt (deck : List Byte) : (diceLayer deck s).tt = s.tt := rfl
@[simp] theorem diceLayer_head (deck : List Byte) : (diceLayer deck s).head = s.head := rfl
@[simp] theorem diceLayer_boot (deck : List Byte) : (diceLayer deck s).boot = s.boot := rfl
@[simp] theorem diceLayer_pwr (deck : List Byte) : (diceLayer deck s).pwr = s.pwr := rfl
@[simp] theorem diceLayer_fc (deck : List Byte) : (diceLayer deck s).fc = s.fc := rfl
@[simp] theorem diceLayer_host (deck : List Byte) : (diceLayer deck s).host = s.host := rfl
@[simp] theorem diceLayer_hh (deck : List Byte) : (diceLayer deck s).hh = s.hh := rfl
@[simp] theorem diceLayer_tbl (deck : List Byte) : (diceLayer deck s).tbl = s.tbl := rfl
@[simp] theorem diceLayer_au (deck : List Byte) : (diceLayer deck s).au = s.au := rfl
@[simp] theorem diceLayer_ce (deck : List Byte) : (diceLayer deck s).ce = s.ce := rfl
@[simp] theorem diceLayer_csi (deck : List Byte) : (diceLayer deck s).csi = s.csi := rfl
@[simp] theorem diceLayer_isp (deck : List Byte) : (diceLayer deck s).isp = s.isp := rfl
@[simp] theorem diceLayer_tiles (deck : List Byte) : (diceLayer deck s).tiles = s.tiles := rfl
@[simp] theorem diceLayer_stems (deck : List Byte) : (diceLayer deck s).stems = s.stems := rfl
@[simp] theorem diceLayer_mem (deck : List Byte) : (diceLayer deck s).mem = s.mem := rfl
@[simp] theorem diceLayer_queues (deck : List Byte) : (diceLayer deck s).queues = s.queues := rfl
@[simp] theorem diceLayer_hbm (deck : List Byte) : (diceLayer deck s).hbm = s.hbm := rfl
@[simp] theorem diceLayer_out (deck : List Byte) : (diceLayer deck s).out = s.out := rfl
@[simp] theorem diceLayer_freeIdx (deck : List Byte) : (diceLayer deck s).freeIdx = s.freeIdx := rfl
@[simp] theorem diceLayer_pending (deck : List Byte) : (diceLayer deck s).pending = s.pending := rfl
@[simp] theorem reg_diceLayer (deck : List Byte) (b : Nat) : reg (diceLayer deck s) b = reg s b := rfl
@[simp] theorem rd_diceLayer (deck : List Byte) (p' : Page) (off' : Nat) : rd (diceLayer deck s) p' off' = rd s p' off' := rfl
@[simp] theorem fld_diceLayer (deck : List Byte) (p' : Page) (off' lo' w' : Nat) : fld (diceLayer deck s) p' off' lo' w' = fld s p' off' lo' w' := rfl
@[simp] theorem flag_diceLayer (deck : List Byte) (p' : Page) (off' b' : Nat) : flag (diceLayer deck s) p' off' b' = flag s p' off' b' := rfl

/-! ## updSlot -/

@[simp] theorem updSlot_part (r k : Nat) (f : CsiSlot → CsiSlot) : (updSlot r k f s).part = s.part := rfl
@[simp] theorem updSlot_regs (r k : Nat) (f : CsiSlot → CsiSlot) : (updSlot r k f s).regs = s.regs := rfl
@[simp] theorem updSlot_tt (r k : Nat) (f : CsiSlot → CsiSlot) : (updSlot r k f s).tt = s.tt := rfl
@[simp] theorem updSlot_head (r k : Nat) (f : CsiSlot → CsiSlot) : (updSlot r k f s).head = s.head := rfl
@[simp] theorem updSlot_boot (r k : Nat) (f : CsiSlot → CsiSlot) : (updSlot r k f s).boot = s.boot := rfl
@[simp] theorem updSlot_pwr (r k : Nat) (f : CsiSlot → CsiSlot) : (updSlot r k f s).pwr = s.pwr := rfl
@[simp] theorem updSlot_fc (r k : Nat) (f : CsiSlot → CsiSlot) : (updSlot r k f s).fc = s.fc := rfl
@[simp] theorem updSlot_host (r k : Nat) (f : CsiSlot → CsiSlot) : (updSlot r k f s).host = s.host := rfl
@[simp] theorem updSlot_hh (r k : Nat) (f : CsiSlot → CsiSlot) : (updSlot r k f s).hh = s.hh := rfl
@[simp] theorem updSlot_sec (r k : Nat) (f : CsiSlot → CsiSlot) : (updSlot r k f s).sec = s.sec := rfl
@[simp] theorem updSlot_tbl (r k : Nat) (f : CsiSlot → CsiSlot) : (updSlot r k f s).tbl = s.tbl := rfl
@[simp] theorem updSlot_au (r k : Nat) (f : CsiSlot → CsiSlot) : (updSlot r k f s).au = s.au := rfl
@[simp] theorem updSlot_ce (r k : Nat) (f : CsiSlot → CsiSlot) : (updSlot r k f s).ce = s.ce := rfl
@[simp] theorem updSlot_isp (r k : Nat) (f : CsiSlot → CsiSlot) : (updSlot r k f s).isp = s.isp := rfl
@[simp] theorem updSlot_tiles (r k : Nat) (f : CsiSlot → CsiSlot) : (updSlot r k f s).tiles = s.tiles := rfl
@[simp] theorem updSlot_stems (r k : Nat) (f : CsiSlot → CsiSlot) : (updSlot r k f s).stems = s.stems := rfl
@[simp] theorem updSlot_mem (r k : Nat) (f : CsiSlot → CsiSlot) : (updSlot r k f s).mem = s.mem := rfl
@[simp] theorem updSlot_queues (r k : Nat) (f : CsiSlot → CsiSlot) : (updSlot r k f s).queues = s.queues := rfl
@[simp] theorem updSlot_hbm (r k : Nat) (f : CsiSlot → CsiSlot) : (updSlot r k f s).hbm = s.hbm := rfl
@[simp] theorem updSlot_out (r k : Nat) (f : CsiSlot → CsiSlot) : (updSlot r k f s).out = s.out := rfl
@[simp] theorem updSlot_freeIdx (r k : Nat) (f : CsiSlot → CsiSlot) : (updSlot r k f s).freeIdx = s.freeIdx := rfl
@[simp] theorem updSlot_pending (r k : Nat) (f : CsiSlot → CsiSlot) : (updSlot r k f s).pending = s.pending := rfl
@[simp] theorem reg_updSlot (r k : Nat) (f : CsiSlot → CsiSlot) (b : Nat) : reg (updSlot r k f s) b = reg s b := rfl
@[simp] theorem rd_updSlot (r k : Nat) (f : CsiSlot → CsiSlot) (p' : Page) (off' : Nat) : rd (updSlot r k f s) p' off' = rd s p' off' := rfl
@[simp] theorem fld_updSlot (r k : Nat) (f : CsiSlot → CsiSlot) (p' : Page) (off' lo' w' : Nat) : fld (updSlot r k f s) p' off' lo' w' = fld s p' off' lo' w' := rfl
@[simp] theorem flag_updSlot (r k : Nat) (f : CsiSlot → CsiSlot) (p' : Page) (off' b' : Nat) : flag (updSlot r k f s) p' off' b' = flag s p' off' b' := rfl

/-! ## enqueue -/

@[simp] theorem enqueue_part (t : Nat) (q : Queued) : (enqueue t q s).part = s.part := rfl
@[simp] theorem enqueue_regs (t : Nat) (q : Queued) : (enqueue t q s).regs = s.regs := rfl
@[simp] theorem enqueue_tt (t : Nat) (q : Queued) : (enqueue t q s).tt = s.tt := rfl
@[simp] theorem enqueue_head (t : Nat) (q : Queued) : (enqueue t q s).head = s.head := rfl
@[simp] theorem enqueue_boot (t : Nat) (q : Queued) : (enqueue t q s).boot = s.boot := rfl
@[simp] theorem enqueue_pwr (t : Nat) (q : Queued) : (enqueue t q s).pwr = s.pwr := rfl
@[simp] theorem enqueue_fc (t : Nat) (q : Queued) : (enqueue t q s).fc = s.fc := rfl
@[simp] theorem enqueue_host (t : Nat) (q : Queued) : (enqueue t q s).host = s.host := rfl
@[simp] theorem enqueue_hh (t : Nat) (q : Queued) : (enqueue t q s).hh = s.hh := rfl
@[simp] theorem enqueue_sec (t : Nat) (q : Queued) : (enqueue t q s).sec = s.sec := rfl
@[simp] theorem enqueue_tbl (t : Nat) (q : Queued) : (enqueue t q s).tbl = s.tbl := rfl
@[simp] theorem enqueue_au (t : Nat) (q : Queued) : (enqueue t q s).au = s.au := rfl
@[simp] theorem enqueue_ce (t : Nat) (q : Queued) : (enqueue t q s).ce = s.ce := rfl
@[simp] theorem enqueue_csi (t : Nat) (q : Queued) : (enqueue t q s).csi = s.csi := rfl
@[simp] theorem enqueue_isp (t : Nat) (q : Queued) : (enqueue t q s).isp = s.isp := rfl
@[simp] theorem enqueue_stems (t : Nat) (q : Queued) : (enqueue t q s).stems = s.stems := rfl
@[simp] theorem enqueue_mem (t : Nat) (q : Queued) : (enqueue t q s).mem = s.mem := rfl
@[simp] theorem enqueue_queues (t : Nat) (q : Queued) : (enqueue t q s).queues = s.queues := rfl
@[simp] theorem enqueue_hbm (t : Nat) (q : Queued) : (enqueue t q s).hbm = s.hbm := rfl
@[simp] theorem enqueue_out (t : Nat) (q : Queued) : (enqueue t q s).out = s.out := rfl
@[simp] theorem enqueue_freeIdx (t : Nat) (q : Queued) : (enqueue t q s).freeIdx = s.freeIdx := rfl
@[simp] theorem enqueue_pending (t : Nat) (q : Queued) : (enqueue t q s).pending = s.pending := rfl
@[simp] theorem reg_enqueue (t : Nat) (q : Queued) (b : Nat) : reg (enqueue t q s) b = reg s b := rfl
@[simp] theorem rd_enqueue (t : Nat) (q : Queued) (p' : Page) (off' : Nat) : rd (enqueue t q s) p' off' = rd s p' off' := rfl
@[simp] theorem fld_enqueue (t : Nat) (q : Queued) (p' : Page) (off' lo' w' : Nat) : fld (enqueue t q s) p' off' lo' w' = fld s p' off' lo' w' := rfl
@[simp] theorem flag_enqueue (t : Nat) (q : Queued) (p' : Page) (off' b' : Nat) : flag (enqueue t q s) p' off' b' = flag s p' off' b' := rfl

/-! ## dequeue -/

@[simp] theorem dequeue_part (t u : Nat) (i : Issue) : (dequeue t u i s).part = s.part := rfl
@[simp] theorem dequeue_regs (t u : Nat) (i : Issue) : (dequeue t u i s).regs = s.regs := rfl
@[simp] theorem dequeue_tt (t u : Nat) (i : Issue) : (dequeue t u i s).tt = s.tt := rfl
@[simp] theorem dequeue_head (t u : Nat) (i : Issue) : (dequeue t u i s).head = s.head := rfl
@[simp] theorem dequeue_boot (t u : Nat) (i : Issue) : (dequeue t u i s).boot = s.boot := rfl
@[simp] theorem dequeue_pwr (t u : Nat) (i : Issue) : (dequeue t u i s).pwr = s.pwr := rfl
@[simp] theorem dequeue_fc (t u : Nat) (i : Issue) : (dequeue t u i s).fc = s.fc := rfl
@[simp] theorem dequeue_host (t u : Nat) (i : Issue) : (dequeue t u i s).host = s.host := rfl
@[simp] theorem dequeue_hh (t u : Nat) (i : Issue) : (dequeue t u i s).hh = s.hh := rfl
@[simp] theorem dequeue_sec (t u : Nat) (i : Issue) : (dequeue t u i s).sec = s.sec := rfl
@[simp] theorem dequeue_tbl (t u : Nat) (i : Issue) : (dequeue t u i s).tbl = s.tbl := rfl
@[simp] theorem dequeue_au (t u : Nat) (i : Issue) : (dequeue t u i s).au = s.au := rfl
@[simp] theorem dequeue_ce (t u : Nat) (i : Issue) : (dequeue t u i s).ce = s.ce := rfl
@[simp] theorem dequeue_csi (t u : Nat) (i : Issue) : (dequeue t u i s).csi = s.csi := rfl
@[simp] theorem dequeue_isp (t u : Nat) (i : Issue) : (dequeue t u i s).isp = s.isp := rfl
@[simp] theorem dequeue_stems (t u : Nat) (i : Issue) : (dequeue t u i s).stems = s.stems := rfl
@[simp] theorem dequeue_mem (t u : Nat) (i : Issue) : (dequeue t u i s).mem = s.mem := rfl
@[simp] theorem dequeue_queues (t u : Nat) (i : Issue) : (dequeue t u i s).queues = s.queues := rfl
@[simp] theorem dequeue_hbm (t u : Nat) (i : Issue) : (dequeue t u i s).hbm = s.hbm := rfl
@[simp] theorem dequeue_out (t u : Nat) (i : Issue) : (dequeue t u i s).out = s.out := rfl
@[simp] theorem dequeue_freeIdx (t u : Nat) (i : Issue) : (dequeue t u i s).freeIdx = s.freeIdx := rfl
@[simp] theorem dequeue_pending (t u : Nat) (i : Issue) : (dequeue t u i s).pending = s.pending := rfl
@[simp] theorem reg_dequeue (t u : Nat) (i : Issue) (b : Nat) : reg (dequeue t u i s) b = reg s b := rfl
@[simp] theorem rd_dequeue (t u : Nat) (i : Issue) (p' : Page) (off' : Nat) : rd (dequeue t u i s) p' off' = rd s p' off' := rfl
@[simp] theorem fld_dequeue (t u : Nat) (i : Issue) (p' : Page) (off' lo' w' : Nat) : fld (dequeue t u i s) p' off' lo' w' = fld s p' off' lo' w' := rfl
@[simp] theorem flag_dequeue (t u : Nat) (i : Issue) (p' : Page) (off' b' : Nat) : flag (dequeue t u i s) p' off' b' = flag s p' off' b' := rfl

/-! ## haloSend -/

@[simp] theorem haloSend_part (t : Nat) (p : HaloPost) : (haloSend t p s).part = s.part := rfl
@[simp] theorem haloSend_regs (t : Nat) (p : HaloPost) : (haloSend t p s).regs = s.regs := rfl
@[simp] theorem haloSend_tt (t : Nat) (p : HaloPost) : (haloSend t p s).tt = s.tt := rfl
@[simp] theorem haloSend_head (t : Nat) (p : HaloPost) : (haloSend t p s).head = s.head := rfl
@[simp] theorem haloSend_boot (t : Nat) (p : HaloPost) : (haloSend t p s).boot = s.boot := rfl
@[simp] theorem haloSend_pwr (t : Nat) (p : HaloPost) : (haloSend t p s).pwr = s.pwr := rfl
@[simp] theorem haloSend_fc (t : Nat) (p : HaloPost) : (haloSend t p s).fc = s.fc := rfl
@[simp] theorem haloSend_host (t : Nat) (p : HaloPost) : (haloSend t p s).host = s.host := rfl
@[simp] theorem haloSend_hh (t : Nat) (p : HaloPost) : (haloSend t p s).hh = s.hh := rfl
@[simp] theorem haloSend_sec (t : Nat) (p : HaloPost) : (haloSend t p s).sec = s.sec := rfl
@[simp] theorem haloSend_tbl (t : Nat) (p : HaloPost) : (haloSend t p s).tbl = s.tbl := rfl
@[simp] theorem haloSend_au (t : Nat) (p : HaloPost) : (haloSend t p s).au = s.au := rfl
@[simp] theorem haloSend_ce (t : Nat) (p : HaloPost) : (haloSend t p s).ce = s.ce := rfl
@[simp] theorem haloSend_csi (t : Nat) (p : HaloPost) : (haloSend t p s).csi = s.csi := rfl
@[simp] theorem haloSend_isp (t : Nat) (p : HaloPost) : (haloSend t p s).isp = s.isp := rfl
@[simp] theorem haloSend_stems (t : Nat) (p : HaloPost) : (haloSend t p s).stems = s.stems := rfl
@[simp] theorem haloSend_mem (t : Nat) (p : HaloPost) : (haloSend t p s).mem = s.mem := rfl
@[simp] theorem haloSend_queues (t : Nat) (p : HaloPost) : (haloSend t p s).queues = s.queues := rfl
@[simp] theorem haloSend_hbm (t : Nat) (p : HaloPost) : (haloSend t p s).hbm = s.hbm := rfl
@[simp] theorem haloSend_out (t : Nat) (p : HaloPost) : (haloSend t p s).out = s.out := rfl
@[simp] theorem haloSend_freeIdx (t : Nat) (p : HaloPost) : (haloSend t p s).freeIdx = s.freeIdx := rfl
@[simp] theorem haloSend_pending (t : Nat) (p : HaloPost) : (haloSend t p s).pending = s.pending := rfl
@[simp] theorem reg_haloSend (t : Nat) (p : HaloPost) (b : Nat) : reg (haloSend t p s) b = reg s b := rfl
@[simp] theorem rd_haloSend (t : Nat) (p : HaloPost) (p' : Page) (off' : Nat) : rd (haloSend t p s) p' off' = rd s p' off' := rfl
@[simp] theorem fld_haloSend (t : Nat) (p : HaloPost) (p' : Page) (off' lo' w' : Nat) : fld (haloSend t p s) p' off' lo' w' = fld s p' off' lo' w' := rfl
@[simp] theorem flag_haloSend (t : Nat) (p : HaloPost) (p' : Page) (off' b' : Nat) : flag (haloSend t p s) p' off' b' = flag s p' off' b' := rfl

@[simp] theorem hold_waiting (r : HostReq) : (hold r s).host.waiting = s.host.waiting ++ [r] := rfl
@[simp] theorem commitMsg_commits (c : Commit) : (commitMsg c s).tt.commits = insertBy Commit.order c s.tt.commits := rfl
@[simp] theorem romStart_dice : (romStart s).sec.dice = none := rfl
@[simp] theorem diceLayer_rom (deck : List Byte) : (diceLayer deck s).sec.rom = none := rfl
@[simp] theorem diceLayer_dice (deck : List Byte) : (diceLayer deck s).sec.dice = some (bootCdi s deck, aliasKey (bootCdi s deck)) := rfl

end Sys2Proof.Machine
end

