-- ==== Sys2Proof/Laws/Ops.lean ====
section
/-! SUPPORT. The register file, the counters, the events and the access path: what each shared operation changes, and that it changes nothing
else. -/
namespace Sys2Proof.Machine
set_option Elab.async false

/-! ## Addresses -/

/-- The bases of pages are multiples of 4 KiB. -/
theorem pageBase_mod (p : Page) : pageBase p % 0x1000 = 0 := by
  obtain ⟨c, n⟩ := p
  cases c <;> simp only [pageBase, tileBase, cdBase, mdBase] <;> (try split) <;> omega

/-- Registers at different offsets have different addresses, whatever their pages. -/
theorem addr_ne {p q : Page} {a b : Nat} (ha : a < 0x1000) (hb : b < 0x1000) (h : a ≠ b) : pageBase p + a ≠ pageBase q + b := by
  have := pageBase_mod p
  have := pageBase_mod q
  omega

/-! ## Sorted register files -/

theorem State.Canonical.sorted {s : State} (h : s.Canonical) : sortedKeys s.regs = true := by
  have := h.1
  simp only [Regs.wf, Bool.and_eq_true] at this
  exact this.1

/-- What keeps, keeps the form. -/
theorem Keeps.canonical {N : Nat} {s₀ s : State} (h : Keeps N s₀ s) (c : s₀.Canonical) : s.Canonical := h.base.canon c

theorem Keeps.sorted {N : Nat} {s₀ s : State} (h : Keeps N s₀ s) (c : s₀.Canonical) : sortedKeys s.regs = true := (h.canonical c).sorted

/-! ## Reading a register after a write -/

theorem reg_setReg {s : State} (a b : Nat) (v : Word) : reg (setReg a v s) b = if b = a then v else reg s b := by
  unfold reg setReg
  by_cases e : b = a
  · subst e; simp [sget_sset]
  · rw [if_neg e]
    unfold sset
    split
    · exact (sget_sdel ..).trans (if_neg e)
    · exact (sget_sput ..).trans (if_neg e)

theorem rd_wr_same {s : State} (p : Page) (off : Nat) (v : Word) : rd (wr p off v s) p off = v := by
  unfold rd wr; rw [reg_setReg, if_pos rfl]

theorem reg_wr_ne {s : State} {p : Page} {off a : Nat} (v : Word) (e : a ≠ pageBase p + off) :
    reg (wr p off v s) a = reg s a := by
  unfold wr; rw [reg_setReg, if_neg e]

theorem reg_setFld_ne {s : State} {p : Page} {off a : Nat} (lo w x : Nat) (e : a ≠ pageBase p + off) :
    reg (setFld p off lo w x s) a = reg s a := reg_wr_ne _ e

theorem reg_setFlag_ne {s : State} {p : Page} {off a : Nat} (b : Nat) (v : Bool) (e : a ≠ pageBase p + off) :
    reg (setFlag p off b v s) a = reg s a := reg_wr_ne _ e

theorem fld_setFld_same {s : State} (p : Page) (off lo w x : Nat) (hw : lo + w ≤ 32) :
    fld (setFld p off lo w x s) p off lo w = x % 2 ^ w := by
  unfold fld setFld; rw [rd_wr_same, fieldOf_putField_same hw]

theorem fld_setFld_above {s : State} (p : Page) {off lo w lo' w' : Nat} (x : Nat) (hw : lo + w ≤ 32) (e : lo + w ≤ lo') :
    fld (setFld p off lo w x s) p off lo' w' = fld s p off lo' w' := by
  unfold fld setFld; rw [rd_wr_same, fieldOf_putField_above hw e]

theorem fld_setFld_below {s : State} (p : Page) {off lo w lo' w' : Nat} (x : Nat) (hw : lo + w ≤ 32) (e : lo' + w' ≤ lo) :
    fld (setFld p off lo w x s) p off lo' w' = fld s p off lo' w' := by
  unfold fld setFld; rw [rd_wr_same, fieldOf_putField_below hw e]

theorem flag_setFlag_same {s : State} (p : Page) (off b : Nat) (v : Bool) (hb : b < 32) :
    flag (setFlag p off b v s) p off b = v := by
  unfold flag setFlag; rw [fld_setFld_same _ _ _ _ _ (by omega)]; cases v <;> rfl

theorem flag_setFlag_ne {s : State} (p : Page) {off b b' : Nat} (v : Bool) (hb : b < 32) (e : b' ≠ b) :
    flag (setFlag p off b v s) p off b' = flag s p off b' := by
  unfold flag setFlag
  rcases Nat.lt_or_gt_of_ne e with e | e
  · rw [fld_setFld_below _ _ (by omega) (by omega)]
  · rw [fld_setFld_above _ _ (by omega) (by omega)]

theorem fld_setFlag_above {s : State} (p : Page) {off b lo w : Nat} (v : Bool) (hb : b < 32) (e : b < lo) :
    fld (setFlag p off b v s) p off lo w = fld s p off lo w := fld_setFld_above _ _ (by omega) (by omega)

theorem fld_setFlag_below {s : State} (p : Page) {off b lo w : Nat} (v : Bool) (hb : b < 32) (e : lo + w ≤ b) :
    fld (setFlag p off b v s) p off lo w = fld s p off lo w := fld_setFld_below _ _ (by omega) (by omega)

theorem flag_setFld_above {s : State} (p : Page) {off lo w b : Nat} (x : Nat) (hw : lo + w ≤ 32) (e : lo + w ≤ b) :
    flag (setFld p off lo w x s) p off b = flag s p off b := by unfold flag; rw [fld_setFld_above p x hw e]

theorem flag_setFld_below {s : State} (p : Page) {off lo w b : Nat} (x : Nat) (hw : lo + w ≤ 32) (e : b < lo) :
    flag (setFld p off lo w x s) p off b = flag s p off b := by unfold flag; rw [fld_setFld_below p x hw (by omega)]

/-! ## Fields read through unchanged registers -/

theorem rd_congr {s t : State} {p : Page} {off : Nat} (h : reg t (pageBase p + off) = reg s (pageBase p + off)) : rd t p off = rd s p off := h

theorem fld_congr {s t : State} {p : Page} {off lo w : Nat} (h : reg t (pageBase p + off) = reg s (pageBase p + off)) :
    fld t p off lo w = fld s p off lo w := by unfold fld; rw [rd_congr h]

theorem flag_congr {s t : State} {p : Page} {off b : Nat} (h : reg t (pageBase p + off) = reg s (pageBase p + off)) :
    flag t p off b = flag s p off b := by unfold flag; rw [fld_congr h]

theorem reg_of_regs {s t : State} (hp : t.part = s.part) (hr : t.regs = s.regs) (a : Nat) : reg t a = reg s a := by
  unfold reg; rw [hp, hr]

/-! ## Counters and events -/

/-- A counter counts, saturating (R81). -/
theorem rd_bump_same {s : State} (p : Page) (off k : Nat) :
    rd (bump p off k s) p off = BitVec.ofNat 32 (satNat 0xFFFFFFFF ((rd s p off).toNat + k)) := by
  unfold bump; exact rd_wr_same (s := s) p off _

theorem reg_bump_ne {s : State} {p : Page} {off a : Nat} (k : Nat) (e : a ≠ pageBase p + off) :
    reg (bump p off k s) a = reg s a := by
  unfold bump; rw [reg_noteCount, reg_wr_ne _ e]

/-- An event bit up to EVT_TOP is set (R76, R87). -/
theorem flag_raise_same {s : State} (p : Page) (b : Nat) (hb : b ≤ evtTop p) (h32 : b < 32) :
    flag (raise p b s) p Off.EVT_RAW b = true := by
  unfold raise; rw [if_pos hb]
  exact flag_setFlag_same (s := s) p Off.EVT_RAW b true h32

theorem reg_raise_ne {s : State} {p : Page} {b a : Nat} (e : a ≠ pageBase p + Off.EVT_RAW) :
    reg (raise p b s) a = reg s a := by
  unfold raise
  split
  · rw [reg_noteSet, reg_setFlag_ne _ _ e]
  · rfl

/-- A raised event leaves the page's other events as they were, or set. -/
theorem flag_raise_mono {s : State} (p : Page) (b c : Nat) (hb : b < 32) (hf : flag s p Off.EVT_RAW c = true) :
    flag (raise p b s) p Off.EVT_RAW c = true := by
  unfold raise
  split
  · by_cases e : c = b
    · subst e; exact flag_setFlag_same (s := s) p Off.EVT_RAW c true hb
    · exact (flag_setFlag_ne (s := s) p true hb e).trans hf
  · exact hf

/-! ## Canonical states -/

/-- What keeps agrees in every part outside its mask. -/
theorem Keeps.same {N : Nat} {s t : State} (h : Keeps N s t) (c : Comp) (e : N.testBit c.bit = false) : c.agrees s t := h.rest c e

section
variable {s : State} (h : s.Canonical)
include h

theorem canonical_setReg (a : Nat) (v : Word) : (setReg a v s).Canonical :=
  (keeps_setReg (N := 0x2) rfl a v (Keeps.refl _ s)).canonical h
theorem canonical_wr (p : Page) (off : Nat) (v : Word) : (wr p off v s).Canonical := canonical_setReg h _ _
theorem canonical_setFld (p : Page) (off lo w x : Nat) : (setFld p off lo w x s).Canonical := canonical_setReg h _ _
theorem canonical_setFlag (p : Page) (off b : Nat) (v : Bool) : (setFlag p off b v s).Canonical := canonical_setReg h _ _
theorem canonical_bump (p : Page) (off k : Nat) : (bump p off k s).Canonical :=
  (keeps_bump (N := 0xa) rfl p off k s (Keeps.refl _ s)).canonical h
theorem canonical_raise (p : Page) (b : Nat) : (raise p b s).Canonical := (keeps_raise (N := 0xa) rfl p b s (Keeps.refl _ s)).canonical h
theorem canonical_formRec (r : FaultRec) : (formRec r s).Canonical :=
  (keeps_formRec (N := 0x4a) rfl r s (Keeps.refl _ s)).canonical h
theorem canonical_accessError (k : Nat) (w : Func) (a : Nat) : (accessError k w a s).Canonical :=
  (keeps_accessError (N := 0x4a) rfl k w a s (Keeps.refl _ s)).canonical h

end

/-! ## Parts of the state that an event leaves -/

section
variable (p : Page) (b : Nat) (s : State)

@[simp] theorem raise_part : (raise p b s).part = s.part := by unfold raise; split <;> rfl
@[simp] theorem raise_tt : (raise p b s).tt = s.tt := by unfold raise; split <;> rfl
@[simp] theorem raise_boot : (raise p b s).boot = s.boot := by unfold raise; split <;> rfl
@[simp] theorem raise_pwr : (raise p b s).pwr = s.pwr := by unfold raise; split <;> rfl
@[simp] theorem raise_fc : (raise p b s).fc = s.fc := by unfold raise; split <;> rfl
@[simp] theorem raise_host : (raise p b s).host = s.host := by unfold raise; split <;> rfl
@[simp] theorem raise_hh : (raise p b s).hh = s.hh := by unfold raise; split <;> rfl
@[simp] theorem raise_sec : (raise p b s).sec = s.sec := by unfold raise; split <;> rfl
@[simp] theorem raise_tbl : (raise p b s).tbl = s.tbl := by unfold raise; split <;> rfl
@[simp] theorem raise_au : (raise p b s).au = s.au := by unfold raise; split <;> rfl
@[simp] theorem raise_ce : (raise p b s).ce = s.ce := by unfold raise; split <;> rfl
@[simp] theorem raise_csi : (raise p b s).csi = s.csi := by unfold raise; split <;> rfl
@[simp] theorem raise_isp : (raise p b s).isp = s.isp := by unfold raise; split <;> rfl
@[simp] theorem raise_tiles : (raise p b s).tiles = s.tiles := by unfold raise; split <;> rfl
@[simp] theorem raise_stems : (raise p b s).stems = s.stems := by unfold raise; split <;> rfl
@[simp] theorem raise_mem : (raise p b s).mem = s.mem := by unfold raise; split <;> rfl
@[simp] theorem raise_queues : (raise p b s).queues = s.queues := by unfold raise; split <;> rfl
@[simp] theorem raise_hbm : (raise p b s).hbm = s.hbm := by unfold raise; split <;> rfl
@[simp] theorem raise_out : (raise p b s).out = s.out := by unfold raise; split <;> rfl
@[simp] theorem raise_freeIdx : (raise p b s).freeIdx = s.freeIdx := by unfold raise; split <;> rfl
@[simp] theorem raise_pending : (raise p b s).pending = s.pending := by unfold raise; split <;> rfl

end

/-! ## Hand history -/

/-- State u is s after inputs have been captured: the register file has changed in HH_CNT_LOST at most, and beyond it only the recorder's
buffer and the note of what has been counted. -/
structure Captured (s u : State) : Prop where
  canon : s.Canonical → u.Canonical
  regs : ∀ a, a ≠ hhLost → reg u a = reg s a
  rest : u = { s with regs := u.regs, hh := u.hh, head := { s.head with counts := u.head.counts } }

theorem Captured.refl (s : State) : Captured s s := ⟨id, fun _ _ => rfl, rfl⟩

theorem Captured.trans {s t u : State} (h : Captured s t) (h' : Captured t u) : Captured s u :=
  ⟨fun c => h'.canon (h.canon c), fun a e => (h'.regs a e).trans (h.regs a e), by rw [h'.rest, h.rest]⟩

theorem captured_hhLose (s : State) : Captured s (hhLose s) :=
  ⟨fun c => (keeps_hhLose (N := 0x10a) rfl s (Keeps.refl _ s)).canonical c, fun a e => by
    unfold hhLose
    exact reg_bump_ne (p := pgHh) (off := Off.HH_CNT_LOST) (a := a) 1 e,
    rfl⟩

theorem captured_hhCapture1 (r : HistRec) (s : State) : Captured s (hhCapture1 r s) := by
  unfold hhCapture1
  split
  · exact captured_hhLose s
  · exact ⟨fun c => (Keeps.update 0x100 (N := 0x100) rfl (Keeps.refl _ s) rfl rfl rfl).canonical c, fun _ _ => rfl, rfl⟩

theorem Captured.foldl {β : Type} {f : State → β → State} (hf : ∀ s b, Captured s (f s b)) (l : List β) (s : State) :
    Captured s (l.foldl f s) := by
  induction l generalizing s with
  | nil => exact .refl s
  | cons b r ih => exact (hf s b).trans (ih _)

theorem captured_hhInput (kind flags island unit : Nat) (payload : List Byte) (s : State) :
    Captured s (hhInput kind flags island unit payload s) := by
  unfold hhInput
  split
  · exact Captured.foldl (fun s r => captured_hhCapture1 r s) _ s
  · exact .refl s

theorem captured_hhCapture (kind island unit : Nat) (payload : List Byte) (s : State) : Captured s (hhCapture kind island unit payload s) :=
  captured_hhInput kind 0 island unit payload s

theorem captured_recordWrite (w : Func) (p : Page) (off : Nat) (v : Word) (s : State) : Captured s (recordWrite w p off v s) := by
  unfold recordWrite
  split
  · exact .refl s
  · exact captured_hhCapture _ _ _ _ s

/-! ## The access path -/

/-- An admitted write is recorded and applied. -/
theorem access_admitted {s : State} {w : Func} {p : Page} {off : Nat} (h : Admitted s w p off) (v : Word) (k : State → State) :
    access w p off v k s = applied w p off k (recordWrite w p off v s) := by
  have e : outOfTurn s w p off = false := by
    unfold outOfTurn
    cases hw : isHost w with
    | false => rfl
    | true => rw [h.2.2 hw]; rfl
  unfold access accessWith
  rw [h.1, h.2.1, e]
  rfl

/-- A write of the root of trust, or of a function where no management core has written the register in the beat, is applied as it is. -/
theorem applied_eq {s : State} {w : Func} {p : Page} {off : Nat} (hw : w ≠ .mgmt)
    (h : isHost w = true → s.head.mgmt.contains (pageBase p + off) = false) (k : State → State) : applied w p off k s = k s := by
  unfold applied
  rw [if_neg hw, if_neg]
  intro e
  rw [Bool.and_eq_true] at e
  rw [h e.1] at e
  cases e.2

/-- A write of the management cores is applied, and noted for the beat (R73). -/
theorem applied_mgmt (p : Page) (off : Nat) (k : State → State) (s : State) :
    ∃ l, applied .mgmt p off k s = { k s with head := { (k s).head with mgmt := l } } := by
  unfold applied
  rw [if_pos rfl]
  by_cases e : (k s).head.mgmt.contains (pageBase p + off) = true
  · exact ⟨(k s).head.mgmt, by dsimp only; rw [if_pos e]⟩
  · exact ⟨_, by dsimp only; rw [if_neg e]⟩

end Sys2Proof.Machine
end

