-- ==== Sys2Proof/WellFormed.lean ====
section
/-! DEFINITION. Which commands are well formed: every operand within the range that the spec gives it (numbers of functions, pages, tiles,
queues, contexts, slots, islands, register fields). The meanings answer for ill-formed commands too. -/
namespace Sys2Proof

/-- A function: the PF, a VF of tenants 1 to 15, or a core of the device. -/
def Func.wf : Func → Bool
  | .vf n => decide (1 ≤ n) && decide (n < 16)
  | _ => true

/-- How many pages a class has on the largest part (R592). -/
def classPages : PageClass → Nat
  | .csi => 8 | .isp => 2 | .pdmIn => 2 | .beamformer => 2 | .voiceOut => 2 | .fabric => 2 | .matrix => 64 | .vector => 64
  | .stateUnit => 64 | .streamPort => 64 | .mesh => 4 | .stem => 4 | .dieLink => 16 | .hbm => 2 | .kitty => 2 | .meld => 2
  | .queueEngine => 2 | .memEnc => 2 | .context => 1024
  | .identity => 1 | .tableTime => 1 | .power => 1 | .mailbox => 1 | .faultCollector => 1 | .handHistory => 1 | .pcie => 1
  | .ring => 1 | .callEngine => 1 | .mgmtCores => 1 | .lowSpeed => 1

def Page.wf (p : Page) : Bool := decide (p.idx < classPages p.cls)

/-- A verdict's kind, score and beam (R257). -/
def Verdict.wf (v : Verdict) : Bool := decide (v.kind < 16) && decide (v.score < 256) && decide (v.beam < 16) && decide (v.start < 2 ^ 32)

def Ecc.wf : Ecc → Bool
  | .bad (some vc) => decide (vc < 16)
  | _ => true

def Requester.wf : Requester → Bool
  | .ctx c => decide (c < 1024)
  | .tag t => decide (t < 16)
  | .table t => decide (t < 16)
  | _ => true

/-- A home slot lies at a multiple of a slot's 4,096 bytes in a 64-bit space (R369). -/
def Home.wf (h : Home) : Bool := (h.t4.all fun c => decide (c < 1024)) && decide (h.addr % 4096 = 0) && decide (h.addr < 2 ^ 64)

/-- An instruction lies in a kernel of at most 2^32 units and names the kernel's 16 tokens (R246). -/
def Issue.wf (i : Issue) : Bool := decide (i.pc < 2 ^ 32) && i.waits.all (fun t => decide (t < 16)) && i.signals.all fun t => decide (t < 16)

/-- One to 64 streams (R234). -/
def MatrixOp.wf (o : MatrixOp) : Bool := decide (1 ≤ o.batch) && decide (o.batch ≤ 64) && o.drain.all fun r => decide (r < 32)

/-- A walk has at most four dimensions of 1 to 65,535, and elements of 4 bits to 4 bytes (R240). -/
def GenWalk.wf (w : GenWalk) : Bool := decide (w.dims.length ≤ 4) && decide (w.base < 2 ^ 64) && [1, 2, 4, 8].contains w.nibbles &&
    w.dims.all fun d => decide (1 ≤ d.1) && decide (d.1 < 65536)

def GenTarget.wf : GenTarget → Bool
  | .own => true
  | .home h => h.wf
  | .tokens q => decide (q < 2 ^ 18)
  | .stream q => decide (q < 2 ^ 18)

def LaneDest.wf : LaneDest → Bool
  | .reg r => decide (r < 32)
  | .gen t w => t.wf && w.wf
  | .remote u w => decide (u < 64) && w.wf

def VectorOp.wf (o : VectorOp) : Bool := decide (o.a < 32) && decide (o.b < 32) && decide (o.c < 32) && o.dst.wf

def RequantOp.wf (o : RequantOp) : Bool :=
  decide (o.src < 32) && o.dst.wf && decide (0 < o.run) && decide (0 < o.chans) && [4, 8, 16, 32].contains o.width

def QuantDest.wf : QuantDest → Bool
  | .planes u _ _ => u.all fun u => decide (u < 64)
  | .regs c k => decide (c < 32) && decide (k < 32)
  | .gen t w u v => t.wf && w.wf && u.wf && v.wf

def QuantOp.wf (o : QuantOp) : Bool := decide (o.point < 16) && decide (o.src < 32) && decide (0 < o.cols) && o.dst.wf

def StepSrc.wf : StepSrc → Bool
  | .regs r => decide (r < 32)
  | .own w => w.wf

def SegStep.wf (g : SegStep) : Bool := decide (g.seg < 256) && g.x.wf && g.z.wf && g.b.wf && g.c.wf && g.y.wf

def StateOp.wf (o : StateOp) : Bool := o.segs.all SegStep.wf && decide (1 ≤ o.tokens)

def WindowOp.wf (o : WindowOp) : Bool := o.posts.all fun e => decide (e.1 < 64) && decide (e.2 < 64)

def GenOp.wf (o : GenOp) : Bool := o.walk.wf && decide (o.reg < 32)

def PutSource.wf : PutSource → Bool
  | .csiLine r k => decide (r < 8) && decide (k < 4)
  | .csiDesc r k => decide (r < 8) && decide (k < 4)
  | .ispLine n o => decide (n < 2) && decide (o < 8)
  | .ispDesc n o => decide (n < 2) && decide (o < 8)
  | .ispStat n i => decide (n < 2) && decide (i < 16)
  | .tileRecord t k => decide (t < 64) && decide (k < 3)
  | .stemRecord d => decide (d < 4)
  | .tileOutput t => decide (t < 64)
  | .mgmt q _ => decide (q < 2 ^ 18)

def Frame.wf (f : Frame) : Bool :=
  decide (f.port < 2) && decide (f.mac < 2 ^ 48) && decide (f.slot < 256) && decide (f.header.length = 32)

def EccSite.wf : EccSite → Bool
  | .tileSram t a => decide (t < 64) && decide (a < 12 * 2 ^ 20)
  | .stateFile t _ => decide (t < 64)
  | .accumulators t => decide (t < 64)
  | .vectorRegs t => decide (t < 64)
  | .tileFifo t => decide (t < 64)
  | .kitty n k => decide (n < 2) && decide (k < 16384)
  | .receiverFifo r k => decide (r < 8) && decide (k < 4)
  | .pipelineInput n i => decide (n < 2) && decide (i < 16)
  | .pipelineOutput n o => decide (n < 2) && decide (o < 8)
  | _ => true

def CfgWrite.wf : CfgWrite → Bool
  | .numVfs n => decide (n < 16)
  | .msix fn _ _ => decide (fn < 16)
  | .memorySpace fn _ => decide (fn < 16)
  | .ideStream k _ lo hi => decide (1 ≤ k) && decide (k < 17) && decide (lo < 16) && decide (hi < 16)
  | _ => true

/-- Is every operand of a command within its range? -/
def Instr.wf : Instr → Bool
  | .wholeDeviceReset .. => true
  | .powerGoodRise .. => true
  | .perstDeassert => true
  | .linkTrained width speed _ => decide (width < 8) && decide (speed < 16)
  | .powerGoodFailure .. => true
  | .diesReady => true
  | .serviceReady => true
  | .deckBegin w => w.wf
  | .stagingWrite at_ _ => decide (at_ < 2 ^ 25)
  | .deckChunk w h => w.wf && decide (h < 4)
  | .deckDma w h _ => w.wf && decide (h < 4)
  | .deckDmaCompletion h _ => decide (h < 4)
  | .deckFinish w h => w.wf && decide (h < 4)
  | .deckAbort w h => w.wf && decide (h < 4)
  | .svnCommit w => w.wf
  | .modelUnload w => w.wf
  | .restoreDone => true
  | .beat => true
  | .crossingCommit src dst stamp _ => decide (src < 86) && decide (dst < 86) && decide (stamp < 256)
  | .lateCommit src dst stamp _ => decide (src < 86) && decide (dst < 86) && decide (stamp < 256)
  | .rtcEdge => true
  | .rtcMeasurement ticks => decide (ticks < 2 ^ 32)
  | .anteRealign => true
  | .load w _ => w.wf
  | .step w _ => w.wf
  | .rateAdjustment w _ => w.wf
  | .ttNowRead w => w.wf
  | .relaxMaskWrite w k _ => w.wf && decide (k < 4)
  | .dealArm w p _ action period => w.wf && p.wf && decide (action < 16) && decide (period < 2 ^ 24)
  | .cancel w p => w.wf && p.wf
  | .dealLaunch p => p.wf
  | .counterSnapshot p => p.wf
  | .enable w p _ => w.wf && p.wf
  | .softReset w p => w.wf && p.wf
  | .expert w p => w.wf && p.wf
  | .expertClear w p => w.wf && p.wf
  | .cntClear w p => w.wf && p.wf
  | .evtRawWrite w p _ => w.wf && p.wf
  | .evtForce w p _ => w.wf && p.wf
  | .evtEnWrite w p _ => w.wf && p.wf
  | .evtRouteWrite w p _ => w.wf && p.wf
  | .fence w p drain => w.wf && p.wf && decide (drain < 65536)
  | .release w p drain => w.wf && p.wf && decide (drain < 65536)
  | .cmdTimeout p _ => p.wf
  | .registerWrite w a _ _ => w.wf && decide (a < 2 ^ 26)
  | .misalignedAccess w _ _ => w.wf
  | .pwrCmdGo w target => w.wf && decide (target < 8)
  | .holdEnd => true
  | .holdExpired => true
  | .quiesceEnd => true
  | .quiesceTimeout => true
  | .descendStepEnd => true
  | .wakeIn => true
  | .host => true
  | .hostReq w target => w.wf && decide (target < 8)
  | .wake => true
  | .climbStepEnd => true
  | .dutyWindowStart => true
  | .dutyWindowEnd => true
  | .brownOutReset => true
  | .regulatorModeSwitched => true
  | .audioBlockEnd g _ _ => decide (g < 2)
  | .resync g => decide (g < 2)
  | .resyncDone g => decide (g < 2)
  | .bankSwitch g => decide (g < 2)
  | .switch w g => w.wf && decide (g < 2)
  | .callEngineBlock vs => vs.all (·.wf)
  | .signOff => true
  | .ceRestart w => w.wf
  | .modelRestarted => true
  | .ringEnable w _ => w.wf
  | .relock w _ => w.wf
  | .unlockLimitExpiry => true
  | .releasePortRead tenant _ => (tenant.all fun t => decide (t < 16))
  | .voStart port => decide (port < 2)
  | .voStop port => decide (port < 2)
  | .voFrame p t => decide (p < 2) && decide (t < 2 ^ 64)
  | .hsBurst r _ => decide (r < 8)
  | .deskew r => decide (r < 8)
  | .frameStart r vc ecc no sofTt => decide (r < 8) && decide (vc < 16) && decide (no < 65536) && decide (sofTt < 2 ^ 64) && ecc.wf
  | .frameEnd r vc ecc eofTt => decide (r < 8) && decide (vc < 16) && decide (eofTt < 2 ^ 64) && ecc.wf
  | .lineStart r vc ecc line => decide (r < 8) && decide (vc < 16) && decide (line < 65536) && ecc.wf
  | .lineEnd r vc ecc => decide (r < 8) && decide (vc < 16) && ecc.wf
  | .longPacket r vc dt ecc _ payload => decide (r < 8) && decide (vc < 16) && decide (dt < 64) && ecc.wf && decide (payload.length < 65536)
  | .genericShortPacket r vc ecc => decide (r < 8) && decide (vc < 16) && ecc.wf
  | .frameTimeout r k => decide (r < 8) && decide (k < 4)
  | .frameDescriptor r k => decide (r < 8) && decide (k < 4)
  | .fsync r => decide (r < 8)
  | .captureStart r => decide (r < 8)
  | .captureStop r => decide (r < 8)
  | .vcErrRead w r vc => w.wf && decide (r < 8) && decide (vc < 16)
  | .sliceStart n => decide (n < 2)
  | .sliceEnd n => decide (n < 2)
  | .ispTblDataAccess w n _ => w.wf && decide (n < 2)
  | .ispXtblDataAccess w n _ => w.wf && decide (n < 2)
  | .launchPush w t _ => w.wf && decide (t < 64)
  | .launch t => decide (t < 64)
  | .kernelStart t => decide (t < 64)
  | .kernelEnd t pc _ => decide (t < 64) && decide (pc < 2 ^ 32)
  | .matrixInstruction t i o => decide (t < 64) && i.wf && o.wf
  | .vectorOperation t i o => decide (t < 64) && i.wf && o.wf
  | .requantise t i o => decide (t < 64) && i.wf && o.wf
  | .quantise t i o => decide (t < 64) && i.wf && o.wf
  | .stateInstruction t i o => decide (t < 64) && i.wf && o.wf
  | .windowInstruction t i o => decide (t < 64) && i.wf && o.wf
  | .set t i n v => decide (t < 64) && i.wf && decide (n < 64) && decide (v < 2 ^ 32)
  | .post t i u n v => decide (t < 64) && i.wf && decide (u < 64) && decide (n < 64) && decide (v < 2 ^ 32)
  | .wait t i n v => decide (t < 64) && i.wf && decide (n < 64) && decide (v < 2 ^ 32)
  | .haloPostCommit t => decide (t < 64)
  | .remoteRead t u i walk reg => decide (t < 64) && decide (u < 64) && i.wf && walk.wf && decide (reg < 32)
  | .remoteWrite t u i walk reg => decide (t < 64) && decide (u < 64) && i.wf && walk.wf && decide (reg < 32)
  | .clockRequest w _ k _ => w.wf && decide (k < 64)
  | .clockChange _ k => decide (k < 64)
  | .flitCrcFailure die edge m _ => decide (die < 4) && decide (edge < 4) && decide (m < 4)
  | .flitDiscard die edge => decide (die < 4) && decide (edge < 4)
  | .eccError site _ _ => site.wf
  | .stemJobPush w d _ => w.wf && decide (d < 4)
  | .job d => decide (d < 4)
  | .stemJobStart d => decide (d < 4)
  | .stemLineCommit n o => decide (n < 2) && decide (o < 8)
  | .stemJobEnd d => decide (d < 4)
  | .segmentAllocate w t _ => w.wf && decide (t < 64)
  | .segmentRelease w t _ => w.wf && decide (t < 64)
  | .zeroDone t n => decide (t < 64) && decide (n < 256)
  | .suTblWrite w t m i _ => w.wf && decide (t < 64) && decide (m < 4) && decide (i < 128)
  | .commit w t _ => w.wf && decide (t < 64)
  | .veQpAdjWrite w t n _ => w.wf && decide (t < 64) && decide (n < 16)
  | .kittyLookup who _ h => who.wf && h.wf
  | .kittyFillComplete n k _ => decide (n < 2) && decide (k < 32768)
  | .writeBack t => decide (t < 64)
  | .flushAll w n => w.wf && decide (n < 2)
  | .flushTenant w n tenant => w.wf && decide (n < 2) && decide (tenant < 16)
  | .discardTenant w n tenant => w.wf && decide (n < 2) && decide (tenant < 16)
  | .patrolScrub n _ => decide (n < 2)
  | .regionWrite w k _ => w.wf && decide (k < 64)
  | .regionEffect => true
  | .poolFill q _ _ => decide (q < 2 ^ 18)
  | .holdExpiry t => decide (t < 64)
  | .writeBackAck t => decide (t < 64)
  | .poolFlushDone t => decide (t < 64)
  | .unpinContext w t ctx => w.wf && decide (t < 64) && decide (ctx < 1024)
  | .unpinAll w t => w.wf && decide (t < 64)
  | .flush w t => w.wf && decide (t < 64)
  | .invalidateTenant w t tenant => w.wf && decide (t < 64) && decide (tenant < 16)
  | .arm w q listSpace => w.wf && decide (q < 2 ^ 18) && decide (listSpace < 4)
  | .append w q => w.wf && decide (q < 2 ^ 18)
  | .rearm w q _ => w.wf && decide (q < 2 ^ 18)
  | .resume w q => w.wf && decide (q < 2 ^ 18)
  | .stop w q => w.wf && decide (q < 2 ^ 18)
  | .transferIssue q _ => decide (q < 2 ^ 18)
  | .transferComplete q _ _ => decide (q < 2 ^ 18)
  | .queueLaunchSend q => decide (q < 2 ^ 18)
  | .endNotification q => decide (q < 2 ^ 18)
  | .atsTranslation q _ => decide (q < 2 ^ 18)
  | .pageRequestResponse q code => decide (q < 2 ^ 18 + 4) && decide (code < 16)
  | .priTimeout q => decide (q < 2 ^ 18)
  | .putDelivery src _ => src.wf
  | .multicastPut q _ _ => decide (q < 2 ^ 18)
  | .multicastAck q t => decide (q < 2 ^ 18) && decide (t < 64)
  | .fold q => decide (q < 2 ^ 18)
  | .pfFlr => true
  | .vfFlr t => decide (1 ≤ t) && decide (t < 16)
  | .flrTimeout c => decide (c < 1024)
  | .d3hotEntry fn => decide (fn < 16)
  | .msixUnmask fn vector _ => decide (fn < 16) && (vector.all fun v => decide (v < if fn = 0 then 2048 else 64))
  | .invalidateRequest fn _ _ _ => decide (fn < 16)
  | .create w c => w.wf && decide (c < 1024)
  | .bind w c slot => w.wf && decide (c < 1024) && decide (slot < 16)
  | .bindComplete slot => decide (slot < 16)
  | .unbind w c => w.wf && decide (c < 1024)
  | .destroy w c => w.wf && decide (c < 1024)
  | .destroyComplete c => decide (c < 1024)
  | .svcRingEnable w c _ => w.wf && decide (c < 1024)
  | .h2dTailWrite w c _ => w.wf && decide (c < 1024)
  | .applianceEvent c cell => decide (c < 1024) && decide (cell.length = 64)
  | .confirm c cell => decide (c < 1024) && decide (cell.length = 64)
  | .say c cell => decide (c < 1024) && decide (cell.length = 64)
  | .query c cell => decide (c < 1024) && decide (cell.length = 64)
  | .d2hHeadWrite w c _ => w.wf && decide (c < 1024)
  | .intent t _ _ corr id verb target confidence seat _ =>
    decide (t < 16) && decide (corr < 2 ^ 32) && decide (id < 2 ^ 32) &&
      decide (verb < 65536) && decide (target < 65536) && decide (confidence < 256) && decide (seat < 512)
  | .status t code a0 a1 _ => decide (t < 16) && decide (code < 65536) && decide (a0 < 2 ^ 32) && decide (a1 < 2 ^ 32)
  | .event code a0 a1 _ => decide (code < 65536) && decide (a0 < 2 ^ 32) && decide (a1 < 2 ^ 32)
  | .doeDiscovery fn => decide (fn < 16)
  | .getVersion fn => decide (fn < 16)
  | .getCapabilities fn => decide (fn < 16)
  | .negotiateAlgorithms fn _ => decide (fn < 16)
  | .getDigests fn => decide (fn < 16)
  | .getCertificate fn slot at_ len => decide (fn < 16) && decide (slot < 8) && decide (at_ < 65536) && decide (len < 65536)
  | .challenge fn slot _ => decide (fn < 16) && decide (slot < 8)
  | .getMeasurements fn index _ => decide (fn < 16) && decide (index < 256)
  | .keyExchange fn slot _ => decide (fn < 16) && decide (slot < 8)
  | .finish fn _ => decide (fn < 16)
  | .heartbeat fn _ => decide (fn < 16)
  | .keyUpdate fn _ => decide (fn < 16)
  | .endSession fn _ => decide (fn < 16)
  | .sessionTimeout fn _ => decide (fn < 16)
  | .ideKmQuery .. => true
  | .keyProg _ stream keys dir => decide (stream < 17) && decide (keys < 2) && decide (dir < 2)
  | .kSetGo _ stream keys dir => decide (stream < 17) && decide (keys < 2) && decide (dir < 2)
  | .kSetStop _ stream keys dir => decide (stream < 17) && decide (keys < 2) && decide (dir < 2)
  | .integrityFailure stream => decide (stream < 17)
  | .getTdispVersion t _ => decide (1 ≤ t) && decide (t < 16)
  | .getTdispCapabilities t _ => decide (1 ≤ t) && decide (t < 16)
  | .lockInterfaceRequest t _ => decide (1 ≤ t) && decide (t < 16)
  | .getDeviceInterfaceReport t _ => decide (1 ≤ t) && decide (t < 16)
  | .getDeviceInterfaceState t _ => decide (1 ≤ t) && decide (t < 16)
  | .startInterfaceRequest t _ => decide (1 ≤ t) && decide (t < 16)
  | .stopInterfaceRequest t _ => decide (1 ≤ t) && decide (t < 16)
  | .keyDeliver t _ k kind _ _ => decide (t < 16) && decide (k < 256) && decide (kind < 4)
  | .keyErase t _ k _ => decide (t < 16) && decide (k < 256)
  | .slotQuery t _ => decide (t < 16)
  | .assign w k t kind => w.wf && decide (k < 256) && decide (t < 16) && decide (kind < 2)
  | .retire w k => w.wf && decide (k < 256)
  | .erasureConfirmed k => decide (k < 256)
  | .expertGrantWrite w k _ => w.wf && decide (k < 5)
  | .deny w _ => w.wf
  | .fixedDealEnable w _ => w.wf
  | .hello f => f.wf
  | .leave f => f.wf
  | .bid f => f.wf
  | .award f => f.wf
  | .fetchReq f => f.wf
  | .fetchData f => f.wf
  | .fetchErr f => f.wf
  | .lendReq f => f.wf
  | .lendOffer f => f.wf
  | .lendAccept f => f.wf
  | .lendData f => f.wf
  | .lendEnd f => f.wf
  | .service f => f.wf
  | .helloTimer free => decide (free < 65536)
  | .membershipTimeout d => decide (d < 512)
  | .roundDecision => true
  | .awardTimeout => true
  | .fetchTimeout corr => decide (corr < 2 ^ 32)
  | .join w _ => w.wf
  | .svcTxTailWrite w _ _ => w.wf
  | .sync port => decide (port < 2)
  | .linkChange port _ _ => decide (port < 2)
  | .drainEnd d => decide (d < 256)
  | .revokeEnd d => decide (d < 256)
  | .resetEnd d => decide (d < 256)
  | .reinstalled t => decide (t < 64)
  | .recordDelivery => true
  | .ringEn w _ => w.wf
  | .fcRingHeadWrite w _ => w.wf
  | .watchdogKick w _ => w.wf
  | .watchdogFire => true
  | .record w => w.wf
  | .replay w => w.wf
  | .off w => w.wf
  | .checkpoint w => w.wf
  | .checkpointComplete => true
  | .hhMark w _ => w.wf
  | .replayInject .. => true
  | .replayDone .. => true
  | .throttleDecision p => decide (p < 65536)
  | .tempSensorUpdate k value => decide (k < 22) && decide (value < 65536)
  | .tripShutdown => true
  | .avsRetry die => decide (die < 4)
  | .configurationRequest x => x.wf
  | .returnToD0 fn => decide (fn < 16)
  | .completionTimeout q _ => decide (q < 2 ^ 18)
  | .fsyncPulseEnd r => decide (r < 8)
  | .syncInterval => true
  | .peerDelayMeasurement port _ _ => decide (port < 2)
  | .retrain width speed _ => decide (width < 8) && decide (speed < 16)
  | .powerLoss => true
  | .kittyCmdDone n => decide (n < 2)
  | .addressGeneratorAccess t i target _ o => decide (t < 64) && i.wf && o.wf && target.wf
  | .linkUp r _ => decide (r < 8)

end Sys2Proof
end

