-- ==== Sys2Proof/Tests/Slice0.lean ====
section
/-! SUPPORT. Tests: ill-formed terms that each check of WellFormed refuses, single steps on small states, and, for every statement with
hypotheses, states and operands that meet them together. -/
namespace Sys2Proof.Tests
open Sys2Proof.Machine
set_option linter.all false
set_option Elab.async false

/-! ## WellFormed refuses -/

/-- A kernel instruction within its ranges. -/
def issue : Issue := ⟨0, [15], [0], false⟩

theorem test_wf_func : [Func.vf 0, .vf 16].all (fun f => !f.wf) = true ∧ [Func.pf, .vf 1, .vf 15, .mgmt, .rot].all (·.wf) = true := by
  decide

theorem test_wf_page : [⟨.csi, 8⟩, ⟨.dieLink, 16⟩, ⟨.matrix, 64⟩, ⟨.power, 1⟩, ⟨.context, 1024⟩].all (fun p : Page => !p.wf) = true ∧
    [⟨.csi, 7⟩, ⟨.dieLink, 15⟩, ⟨.matrix, 63⟩, ⟨.power, 0⟩, ⟨.context, 1023⟩].all (fun p : Page => p.wf) = true := by decide

theorem test_wf_verdict :
    [⟨16, 0, 0, 0⟩, ⟨0, 256, 0, 0⟩, ⟨0, 0, 16, 0⟩, ⟨0, 0, 0, 4294967296⟩].all (fun v : Verdict => !v.wf) = true ∧
      (⟨15, 255, 15, 4294967295⟩ : Verdict).wf = true := by decide

theorem test_wf_home : [⟨some 1024, 0⟩, ⟨none, 4095⟩, ⟨none, 2 ^ 64⟩].all (fun h : Home => !h.wf) = true ∧
    (⟨some 1023, 4096⟩ : Home).wf = true := by decide

theorem test_wf_issue : [⟨2 ^ 32, [], [], false⟩, ⟨0, [16], [], false⟩, ⟨0, [], [16], true⟩].all (fun i : Issue => !i.wf) = true ∧ issue.wf = true := by
  decide

theorem test_wf_requester : [Requester.ctx 1024, .tag 16, .table 16].all (fun r => !r.wf) = true ∧
    [Requester.ctx 1023, .tag 15, .table 0, .mgmt, .rot].all (·.wf) = true := by decide

/-- A matrix operation of b streams that drains at d. -/
def matrixOp (b d : Nat) : MatrixOp := ⟨.mxint8, .mxint8, 0, 0, 1, 0, 0, 0, 0, b, 0, some d⟩

theorem test_wf_matrix : [matrixOp 0 0, matrixOp 65 0, matrixOp 1 32].all (fun o => !o.wf) = true ∧
    [matrixOp 1 31, matrixOp 64 0].all (·.wf) = true := by decide

/-- A vector operation into a register, or through the write generator from an address of tile SRAM on. -/
def vectorOp (a b c d : Nat) (m : Bool) : VectorOp := ⟨.add, false, a, b, c, if m then .gen .own ⟨d, [(256, 4)], 8⟩ else .reg d⟩

theorem test_wf_vector :
    [vectorOp 32 0 0 0 false, vectorOp 0 32 0 0 false, vectorOp 0 0 32 0 false, vectorOp 0 0 0 32 false].all (fun o => !o.wf) = true ∧
      [vectorOp 31 31 31 31 false, vectorOp 0 0 0 4096 true].all (·.wf) = true := by decide

theorem test_wf_requant :
    [⟨32, 1, 1, 1, 0, 8, .reg 0⟩, ⟨0, 1, 1, 1, 0, 8, .reg 32⟩, ⟨0, 1, 0, 1, 0, 8, .reg 0⟩, ⟨0, 1, 1, 0, 0, 8, .reg 0⟩,
      ⟨0, 1, 1, 1, 0, 7, .reg 0⟩, ⟨0, 1, 1, 1, 0, 8, .remote 64 ⟨0, [], 2⟩⟩].all (fun o : RequantOp => !o.wf) = true ∧
    (⟨31, 1, 1, 1, 0, 32, .reg 31⟩ : RequantOp).wf = true := by decide

theorem test_wf_quant :
    [⟨16, .int8, true, 0, 32, 32, .planes none 0 0⟩, ⟨0, .int8, true, 32, 32, 32, .planes none 0 0⟩, ⟨0, .int8, true, 0, 32, 0, .planes none 0 0⟩,
      ⟨0, .int8, true, 0, 32, 32, .planes (some 64) 0 0⟩, ⟨0, .int8, true, 0, 32, 32, .regs 0 32⟩].all (fun o : QuantOp => !o.wf) = true ∧
    (⟨15, .int8, true, 31, 32, 32, .regs 31 0⟩ : QuantOp).wf = true := by decide

theorem test_wf_state :
    [⟨[⟨256, 0, .regs 0, .regs 0, .regs 0, .regs 0, .reg 0⟩], 1⟩, ⟨[⟨0, 0, .regs 32, .regs 0, .regs 0, .regs 0, .reg 0⟩], 1⟩, ⟨[], 0⟩].all
        (fun o : StateOp => !o.wf) = true ∧ (⟨[⟨255, 0, .regs 31, .regs 0, .regs 0, .regs 0, .reg 31⟩], 1⟩ : StateOp).wf = true := by decide

/-- A window operation that posts to one counter of one tile. -/
def windowOp (t n : Nat) : WindowOp := ⟨0, .int8, 0, 0, 0, 0, 0, .regs 0, [(t, n)]⟩

theorem test_wf_window : [windowOp 64 0, windowOp 0 64].all (fun o => !o.wf) = true ∧ (windowOp 63 63).wf = true := by decide

theorem test_wf_walk :
    [⟨0, [(1, 0), (1, 0), (1, 0), (1, 0), (1, 0)], 2⟩, ⟨2 ^ 64, [], 2⟩, ⟨0, [], 3⟩, ⟨0, [(0, 1)], 2⟩, ⟨0, [(65536, 1)], 2⟩].all
        (fun w : GenWalk => !w.wf) = true ∧ (⟨0, [(65535, 1), (1, -4)], 8⟩ : GenWalk).wf = true := by decide

theorem test_wf_target : [GenTarget.home ⟨none, 1⟩, .tokens (2 ^ 18)].all (fun g => !g.wf) = true ∧
    [GenTarget.own, .home ⟨none, 0⟩, .tokens 0].all (·.wf) = true := by decide

theorem test_wf_generator : [⟨false, ⟨0, [], 3⟩, 0⟩, ⟨true, ⟨0, [], 2⟩, 32⟩].all (fun o : GenOp => !o.wf) = true ∧
    (⟨true, ⟨0, [], 2⟩, 31⟩ : GenOp).wf = true := by decide

theorem test_wf_put :
    [PutSource.csiLine 8 0, .csiLine 0 4, .csiDesc 8 0, .csiDesc 0 4, .ispLine 2 0, .ispLine 0 8, .ispDesc 2 0, .ispDesc 0 8,
      .ispStat 2 0, .ispStat 0 16, .tileRecord 64 0, .tileRecord 0 3, .stemRecord 4, .mgmt (2 ^ 18) []].all (fun p => !p.wf) = true ∧
    [PutSource.csiLine 7 3, .csiDesc 7 3, .ispLine 1 7, .ispDesc 1 7, .ispStat 1 15, .tileRecord 63 2, .stemRecord 3, .mgmt 0 []].all
      (·.wf) = true := by decide

/-- A frame received on a port. -/
def frame (port mac slot len : Nat) : Frame := ⟨port, mac, false, true, true, slot, List.replicate len 0, []⟩

theorem test_wf_frame : [frame 2 0 0 32, frame 0 (2 ^ 48) 0 32, frame 0 0 256 32, frame 0 0 0 31].all (fun f => !f.wf) = true ∧
    (frame 1 1 255 32).wf = true := by decide

theorem test_wf_site :
    [EccSite.tileSram 64 0, .tileSram 0 12582912, .stateFile 64 0, .accumulators 64, .vectorRegs 64, .tileFifo 64, .kitty 2 0,
      .kitty 0 16384, .receiverFifo 8 0, .receiverFifo 0 4, .pipelineInput 2 0, .pipelineInput 0 16, .pipelineOutput 2 0,
      .pipelineOutput 0 8].all (fun e => !e.wf) = true ∧
    [EccSite.tileSram 63 12582911, .kitty 1 16383, .receiverFifo 7 3, .pipelineInput 1 15, .pipelineOutput 1 7, .hbm 0, .keeper].all
      (·.wf) = true := by decide

theorem test_wf_config :
    [CfgWrite.numVfs 16, .msix 16 true false, .memorySpace 16 true, .ideStream 0 true 0 0, .ideStream 17 true 0 0,
      .ideStream 1 true 16 0, .ideStream 1 true 0 16].all (fun c => !c.wf) = true ∧
    [CfgWrite.numVfs 15, .msix 15 true false, .memorySpace 0 true, .ideStream 16 true 0 15, .vfEnable true].all (·.wf) = true := by decide

/-! ## Commands that are ill formed, by family -/

theorem test_wf_boot_commands :
    [Instr.linkTrained 8 0 false, .linkTrained 0 16 false, .deckBegin (.vf 0), .stagingWrite (2 ^ 25) [], .deckChunk .pf 4,
      .deckDma .pf 4 [], .deckDmaCompletion 4 (some .unsupported), .deckFinish .pf 4, .deckAbort .pf 4, .svnCommit (.vf 16),
      .modelUnload (.vf 0)].all (fun i => !i.wf) = true ∧
    [Instr.linkTrained 7 15 false, .deckBegin .pf, .stagingWrite 0 [], .deckChunk .pf 3, .deckFinish .rot 0].all (·.wf) = true := by
  decide

theorem test_wf_time_commands :
    [Instr.crossingCommit 86 0 0 (.tag 0), .crossingCommit 0 86 0 (.tag 0), .crossingCommit 0 0 256 (.tag 0), .lateCommit 86 0 0 (.tag 0),
      .lateCommit 0 86 0 (.tag 0), .lateCommit 0 0 256 (.tag 0), .rtcMeasurement (2 ^ 32), .load (.vf 0) false, .step (.vf 0) false, .rateAdjustment (.vf 0) 0,
      .ttNowRead (.vf 0), .relaxMaskWrite .pf 4 0, .dealArm .pf pgTT false 16 0, .dealArm .pf pgTT false 0 (2 ^ 24),
      .cancel .pf ⟨.csi, 8⟩, .dealLaunch ⟨.csi, 8⟩, .counterSnapshot ⟨.csi, 8⟩].all (fun i => !i.wf) = true ∧
    [Instr.crossingCommit 85 0 255 (.write .pf 0 0), .dealArm .mgmt pgTT true 15 0, .relaxMaskWrite .pf 3 0, .beat].all (·.wf) = true := by decide

theorem test_wf_page_commands :
    [Instr.enable (.vf 0) pgTT true, .enable .pf ⟨.csi, 8⟩ true, .softReset .pf ⟨.csi, 8⟩, .expert .pf ⟨.csi, 8⟩,
      .expertClear .pf ⟨.csi, 8⟩, .cntClear .pf ⟨.csi, 8⟩, .evtRawWrite .pf ⟨.csi, 8⟩ 0, .evtForce .pf ⟨.csi, 8⟩ 0,
      .evtEnWrite .pf ⟨.csi, 8⟩ 0, .evtRouteWrite .pf ⟨.csi, 8⟩ 0, .fence .pf pgTT 65536, .release .pf pgTT 65536,
      .cmdTimeout ⟨.csi, 8⟩ 0, .registerWrite .pf (2 ^ 26) [0] [], .misalignedAccess (.vf 16) true 1].all (fun i => !i.wf) = true ∧
    [Instr.enable (.vf 15) pgTT true, .fence .pf pgTT 65535, .registerWrite .pf (2 ^ 26 - 4) [0] []].all (·.wf) = true := by decide

theorem test_wf_power_commands :
    [Instr.pwrCmdGo .pf 8, .hostReq .pf 8, .throttleDecision 65536, .tempSensorUpdate 22 0, .tempSensorUpdate 0 65536,
      .avsRetry 4].all (fun i => !i.wf) = true ∧
    [Instr.pwrCmdGo .pf 7, .hostReq .pf 0, .throttleDecision 65535, .tempSensorUpdate 21 65535, .avsRetry 3].all (·.wf) = true := by
  decide

theorem test_wf_audio_commands :
    [Instr.audioBlockEnd 2 0 [], .resync 2, .resyncDone 2, .bankSwitch 2, .switch .pf 2, .callEngineBlock [⟨16, 0, 0, 0⟩],
      .ceRestart (.vf 0), .ringEnable (.vf 0) true, .relock (.vf 0) true, .releasePortRead (some 16) 0, .voStart 2, .voStop 2,
      .voFrame 2 0, .voFrame 0 (2 ^ 64)].all (fun i => !i.wf) = true ∧
    [Instr.audioBlockEnd 1 0 [], .switch .pf 1, .callEngineBlock [⟨1, 0, 0, 0⟩], .releasePortRead (some 15) 0, .voFrame 1 0].all
      (·.wf) = true := by decide

theorem test_wf_receiver_commands :
    [Instr.hsBurst 8 true, .deskew 8, .frameStart 8 0 .clean 0 0, .frameStart 0 16 .clean 0 0, .frameStart 0 0 .clean 65536 0,
      .frameStart 0 0 .clean 0 (2 ^ 64), .frameStart 0 0 (.bad (some 16)) 0 0, .frameEnd 8 0 .clean 0, .frameEnd 0 16 .clean 0,
      .lineStart 8 0 .clean 0, .lineStart 0 0 .clean 65536, .lineEnd 8 0 .clean, .lineEnd 0 16 .clean,
      .longPacket 8 0 0 .clean true [], .longPacket 0 16 0 .clean true [], .longPacket 0 0 64 .clean true [],
      .genericShortPacket 0 16 .clean, .frameTimeout 0 4, .frameDescriptor 8 0, .fsync 8, .fsyncPulseEnd 8, .captureStart 8,
      .captureStop 8, .vcErrRead .pf 0 16, .linkUp 8 true].all (fun i => !i.wf) = true ∧
    [Instr.frameStart 7 15 (.bad (some 15)) 65535 0, .longPacket 7 15 63 .clean true [], .vcErrRead .pf 7 15].all (·.wf) = true := by
  decide

theorem test_wf_image_commands :
    [Instr.sliceStart 2, .sliceEnd 2, .ispTblDataAccess .pf 2 none, .ispXtblDataAccess .pf 2 none, .stemJobPush .pf 4 0, .job 4,
      .stemJobStart 4, .stemLineCommit 2 0, .stemLineCommit 0 8, .stemJobEnd 4].all (fun i => !i.wf) = true ∧
    [Instr.sliceStart 1, .stemJobPush .pf 3 0, .stemLineCommit 1 7].all (·.wf) = true := by decide

theorem test_wf_tile_commands :
    [Instr.launchPush .pf 64 0, .launch 64, .kernelStart 64, .kernelEnd 64 0 false, .kernelEnd 0 (2 ^ 32) false,
      .matrixInstruction 64 issue (matrixOp 1 0), .vectorOperation 64 issue (vectorOp 0 0 0 0 false),
      .requantise 64 issue ⟨0, 1, 1, 1, 0, 8, .reg 0⟩, .quantise 64 issue ⟨0, .int8, true, 0, 32, 32, .regs 0 1⟩, .stateInstruction 64 issue ⟨[], 1⟩,
      .windowInstruction 64 issue (windowOp 0 0), .set 0 issue 64 0, .set 0 issue 0 (2 ^ 32), .post 0 issue 64 0 0, .post 0 issue 0 64 0,
      .wait 0 issue 64 0, .haloPostCommit 64, .remoteRead 0 64 issue ⟨0, [], 2⟩ 0, .remoteWrite 0 0 issue ⟨0, [], 2⟩ 32,
      .addressGeneratorAccess 64 issue .own none ⟨false, ⟨0, [], 2⟩, 0⟩, .clockRequest .pf true 64 0, .clockChange true 64,
      .flitCrcFailure 4 0 0 0, .flitCrcFailure 0 4 0 0, .flitCrcFailure 0 0 4 0, .flitDiscard 4 0, .flitDiscard 0 4,
      .eccError (.accumulators 64) true 1].all (fun i => !i.wf) = true ∧
    [Instr.launch 63, .matrixInstruction 63 issue (matrixOp 64 31), .post 63 issue 63 63 (2 ^ 32 - 1), .clockChange true 63].all
      (·.wf) = true := by decide

theorem test_wf_state_commands :
    [Instr.segmentAllocate .pf 64 0, .segmentRelease .pf 64 0, .zeroDone 64 0, .zeroDone 0 256, .suTblWrite .pf 0 4 0 0,
      .suTblWrite .pf 0 0 128 0, .commit .pf 64 0, .veQpAdjWrite .pf 64 0 0, .veQpAdjWrite .pf 0 16 0].all (fun i => !i.wf) = true ∧
    [Instr.zeroDone 63 255, .suTblWrite .pf 63 3 127 0, .veQpAdjWrite .pf 63 15 0].all (·.wf) = true := by decide

theorem test_wf_memory_commands :
    [Instr.kittyLookup (.ctx 1024) 0 ⟨none, 0⟩, .kittyLookup .rot 0 ⟨none, 1⟩, .kittyFillComplete 2 0 [], .kittyFillComplete 0 32768 [],
      .writeBack 64, .flushAll .pf 2, .flushTenant .pf 0 16, .discardTenant .pf 2 0, .patrolScrub 2 0, .regionWrite .pf 64 0,
      .poolFill (2 ^ 18) 0 .unsupported, .holdExpiry 64, .writeBackAck 64, .poolFlushDone 64, .unpinContext .pf 0 1024, .unpinAll .pf 64,
      .flush .pf 64, .invalidateTenant .pf 0 16, .kittyCmdDone 2].all (fun i => !i.wf) = true ∧
    [Instr.kittyFillComplete 1 32767 [], .flushTenant .pf 1 15, .regionWrite .rot 63 0, .unpinContext .pf 63 1023].all (·.wf) = true := by
  decide

theorem test_wf_queue_commands :
    [Instr.arm .pf (2 ^ 18) 0, .arm .pf 0 4, .append .pf (2 ^ 18), .rearm .pf (2 ^ 18) true, .resume .pf (2 ^ 18), .stop .pf (2 ^ 18),
      .transferIssue (2 ^ 18) [], .transferComplete (2 ^ 18) 0 .unsupported, .queueLaunchSend (2 ^ 18), .endNotification (2 ^ 18),
      .atsTranslation (2 ^ 18) true, .pageRequestResponse (2 ^ 18 + 4) 0, .pageRequestResponse 0 16, .priTimeout (2 ^ 18),
      .putDelivery (.stemRecord 4) [], .multicastPut (2 ^ 18) [] [], .multicastAck 0 64, .fold (2 ^ 18),
      .completionTimeout (2 ^ 18) 0].all (fun i => !i.wf) = true ∧
    [Instr.arm .pf (2 ^ 18 - 1) 3, .pageRequestResponse (2 ^ 18 + 3) 15, .multicastAck 0 63].all (·.wf) = true := by decide

theorem test_wf_host_commands :
    [Instr.vfFlr 0, .vfFlr 16, .flrTimeout 1024, .d3hotEntry 16, .returnToD0 16, .msixUnmask 16 none true, .msixUnmask 0 (some 2048) true,
      .msixUnmask 1 (some 64) true, .invalidateRequest 16 none 0 0, .create .pf 1024, .bind .pf 0 16, .bindComplete 16, .unbind .pf 1024,
      .destroy .pf 1024, .destroyComplete 1024, .svcRingEnable .pf 1024 0, .h2dTailWrite .pf 1024 0, .applianceEvent 0 [],
      .confirm 1024 (List.replicate 64 0), .say 0 [0], .query 0 [], .d2hHeadWrite .pf 1024 0, .intent 16 false false 0 0 0 0 0 0 [],
      .intent 0 false false (2 ^ 32) 0 0 0 0 0 [], .intent 0 false false 0 0 65536 0 0 0 [], .intent 0 false false 0 0 0 0 256 0 [],
      .intent 0 false false 0 0 0 0 0 512 [], .status 16 0 0 0 false, .status 0 65536 0 0 false, .event 65536 0 0 false,
      .configurationRequest (.numVfs 16)].all (fun i => !i.wf) = true ∧
    [Instr.vfFlr 1, .vfFlr 15, .msixUnmask 0 (some 2047) true, .bind .pf 1023 15, .query 1023 (List.replicate 64 0)].all (·.wf) = true := by
  decide

theorem test_wf_security_commands :
    [Instr.doeDiscovery 16, .getVersion 16, .getCapabilities 16, .negotiateAlgorithms 16 true, .getDigests 16, .getCertificate 0 8 0 0,
      .getCertificate 0 0 65536 0, .challenge 0 8 true, .getMeasurements 0 256 true, .keyExchange 0 8 0, .finish 16 0, .heartbeat 16 0,
      .keyUpdate 16 0, .endSession 16 0, .sessionTimeout 16 0, .keyProg 0 17 0 0, .keyProg 0 0 2 0, .kSetGo 0 0 0 2, .kSetStop 0 17 0 0,
      .integrityFailure 17, .getTdispVersion 0 0, .getTdispCapabilities 16 0, .lockInterfaceRequest 0 0, .getDeviceInterfaceReport 16 0,
      .getDeviceInterfaceState 0 0, .startInterfaceRequest 16 0, .stopInterfaceRequest 0 0, .keyDeliver 16 0 0 0 false [],
      .keyDeliver 0 0 256 0 false [], .keyDeliver 0 0 0 4 false [], .keyErase 0 0 256 false, .slotQuery 16 0, .assign .pf 256 0 0,
      .assign .pf 0 16 0, .assign .pf 0 0 2, .retire .pf 256, .erasureConfirmed 256, .expertGrantWrite .pf 5 0, .deny (.vf 0) 0,
      .fixedDealEnable (.vf 0) 0].all (fun i => !i.wf) = true ∧
    [Instr.keyProg 0 16 1 1, .lockInterfaceRequest 15 0, .keyDeliver 15 0 255 3 false [], .assign .pf 255 15 1].all (·.wf) = true := by
  decide

theorem test_wf_table_commands :
    [Instr.hello (frame 2 0 0 32), .leave (frame 2 0 0 32), .bid (frame 2 0 0 32), .award (frame 2 0 0 32), .fetchReq (frame 2 0 0 32),
      .fetchData (frame 2 0 0 32), .fetchErr (frame 2 0 0 32), .lendReq (frame 2 0 0 32), .lendOffer (frame 2 0 0 32),
      .lendAccept (frame 2 0 0 32), .lendData (frame 2 0 0 32), .lendEnd (frame 2 0 0 32), .service (frame 2 0 0 32), .helloTimer 65536,
      .membershipTimeout 512, .fetchTimeout (2 ^ 32), .join (.vf 0) 0, .svcTxTailWrite (.vf 0) 0 [], .sync 2, .linkChange 2 true true,
      .peerDelayMeasurement 2 .announce true].all (fun i => !i.wf) = true ∧
    [Instr.hello (frame 1 0 0 32), .helloTimer 0, .membershipTimeout 511, .sync 1, .roundDecision].all (·.wf) = true := by decide

theorem test_wf_error_commands :
    [Instr.drainEnd 256, .revokeEnd 256, .resetEnd 256, .reinstalled 64, .ringEn (.vf 0) 0, .fcRingHeadWrite (.vf 0) 0,
      .watchdogKick (.vf 0) 0, .record (.vf 0), .replay (.vf 0), .off (.vf 0), .checkpoint (.vf 0), .hhMark (.vf 0) 0,
      .retrain 8 0 false, .retrain 0 16 false].all (fun i => !i.wf) = true ∧
    [Instr.drainEnd 255, .reinstalled 63, .record .pf, .retrain 7 15 true, .recordDelivery, .watchdogFire].all (·.wf) = true := by decide

/-! ## States and operands for the tests -/

/-- A state with registers of pages set. -/
def withRegs (l : List (Page × Nat × Nat)) (s : State) : State :=
  l.foldl (fun s e => wr e.1 e.2.1 (BitVec.ofNat 32 e.2.2) s) s

/-- A part in Showdown with its link up, its decks reported installed and the PF's memory space enabled. -/
def upOn (q : Part) : State :=
  let r := State.ofPart q
  withRegs [(pgMb, Off.MB_READY, 0x3F)]
    { r with
      boot := { r.boot with phase := .up, mainPg := true, memPg := true }
      host := { r.host with linkUp := true, mse := [0] }
      tt := { r.tt with joined := [] } }

/-- The reference part, and one with two I/O dies. -/
def up : State := upOn Part.reference
def up2 : State := upOn { Part.reference with iods := 2 }

/-- A state in a beat. -/
def atBeat (n : Nat) (s : State) : State := { s with tt := { s.tt with now := 64 * n, beats := n, firstDue := n } }

/-- A state of power: PWR_STATE's word, and Ante's and Fold's domains. -/
def powered (v : Nat) : State := withRegs [(pgPower, Off.PWR_STATE, v)] up
def ante : State := { powered 9 with pwr := { up.pwr with dom := 2 :: 2 :: 1 :: List.replicate 12 0 } }
def folded : State := { powered 0 with pwr := { up.pwr with dom := 2 :: List.replicate 14 0 } }

/-- Every domain is at the level of a state of power. -/
def stepped (l : Nat) (s : State) : State := { s with pwr := { s.pwr with dom := (List.range 15).map (domLevel s l) } }

/-- A tenant 1 with its VF, and its context 5 in a state of R452. -/
def tenantUp (st : Nat) : State :=
  withRegs [(pgCtx 5, Off.CTX_STATUS, st)]
    { up with host := { up.host with vfEnable := true, numVfs := 4, mse := [0, 1], ctxs := [(5, ⟨1, 0, none, 0⟩)] } }

/-- A page whose deal is armed with an action and due in beat 10. -/
def armedOn (s : State) (p : Page) (action : Nat) : State :=
  withRegs [(p, Off.CTRL, 1), (p, Off.DEAL_CTRL, 1 + 16 * action), (p, Off.DEAL_AT_LO, 640)]
    { atBeat 10 s with head := { s.head with deals := [(pageBase p, ⟨0, 0⟩)] } }
def armed (p : Page) (action : Nat) : State := armedOn up p action

/-- The service deck and a model deck in slot 3, of which only the kind stands in the header. -/
def serviceDeck : Deck := ⟨2, 0, [0, 0, 0, 0, 0, 0, 2, 0], ⟨[], []⟩⟩
def modelDeck3 : Deck := ⟨3, 3, [0, 0, 0, 0, 0, 0, 3, 0], ⟨[], []⟩⟩

/-- A deck handle. -/
def handle (dma run : Bool) (total : Nat) (bs : List Byte) : DeckHandle := { dma := dma, total := total, bytes := bs, dmaRun := run, list := [], pri := false, units := ⟨[], []⟩ }
def withHandle (x : DeckHandle) : State := { up with boot := { up.boot with handles := [(1, x)] } }

/-- A held ring block. -/
def blk (i : Nat) : RingBlk := ⟨i, 0, 0, 1, 0, []⟩

/-- The Call engine runs its model; consume pointer, block being written, blocks held, verdicts to sign off, ring status. -/
def calling (consume write : Nat) (held : List RingBlk) (vs : List (Nat × Nat)) (locked : Nat) : State :=
  withRegs [(pgCe, Off.CTRL, 1), (pgMb, Off.MB_RING_POLICY, 1), (pgRing, Off.RING_STATUS, locked)]
    { up with
      ce := { up.ce with running := true, loaded := true, clean := true, verdicts := vs }
      au := { up.au with consume := consume, writeIdx := write, ring := held }
      boot := { up.boot with decks := [serviceDeck] }
      head := { up.head with cmds := [(pageBase pgCe, [⟨0, 0, 0⟩])] } }

/-- An enabled voice-out port 0. -/
def voice (v : VoSt) : State := withRegs [(pgVo 0, Off.CTRL, 1)] { up with au := { up.au with vo0 := v } }

/-- Beam 0 of group 0 is hot, and a hot beam holds a descent. -/
def beamHot : State :=
  withRegs [(pgBf 0, Off.CTRL, 1), (pgBf 0, Off.BF_ARRAY_CFG, 0x11), (pgBf 0, Off.WD_HOT, 1), (pgPower, Off.PWR_HOLD, 1)] up

/-- A frame of a receiver slot, of 4 × 4 elements, with its configuration word. -/
def csiFrame (cfg : Nat) : CsiFrame :=
  { id := 0, cfg := BitVec.ofNat 32 cfg, geom := 0x40004, queue := 0, descq := 0, frameNo := 1, sofTt := 0, eofTt := 0, fsyncTt := 0
    opened := 0, limit := 64, seq := 0, linesRx := 0, padded := 0, short := 0, long := 0, eccCorr := 0, eccAll := 0, crc := 0
    flags := 0, cutLine := 0xFFFF, extra := 0, next := 0, announced := none, due := false, closed := false }

/-- Receiver 3 inside an HS burst, with a frame open in slot 3 and a closed one. -/
def camera (f : Option CsiFrame) (closing : List CsiFrame) : State :=
  { up with csi := [(3, { CsiSt.empty with
      burst := true, fsyncHigh := true
      slots := List.replicate 3 CsiSlot.empty ++ [{ CsiSlot.empty with frame := f, closing := closing }] })] }

/-- A pipeline whose input 15 holds three lines of a frame, and the slice that runs. -/
def imaging (slice : Option (Nat × Nat × Nat)) : State :=
  let f : IspFrame :=
    { id := 0, opened := 0, input := 15, port := 3, dt := 0x2A, frameNo := 0, sofTt := 0, seq := 0, width := 4, height := 4, regs := [], tone := [], coef := []
      lines := [[], [], []], arrived := [0, 0, 0], next := 0, cut := none, endBeat := 0, closed := false, flags := 0, tap0 := []
      tap1 := [], outs := [] }
  { up with isp := [(0, { IspSt.empty with frames := [f], slice := slice })] }

/-- A launch of context 5, and a kernel of it, whose program is the first 4 KiB of tile SRAM and whose data lie from 4096 on. -/
def launch5 : Launch := ⟨[0, 5, 0, 0, 0, 0, 0, 0], none, 0⟩
def kernel5 : Kernel :=
  { launch := launch5, startTt := 0, started := 0, regions := [(0x1000, 0x1403), (0x3E8001, 5)], qps := [], accSat := false, segs := []
    clamped := [], held := [], toks := [15], far := [], tokens := [] }

/-- Context 5 is bound to model slot 3, and tile 2 is in a state. -/
def tile2 (x : TileSt) : State := { tenantUp 0x33 with tiles := [(2, x)] }
def running : State := tile2 { TileSt.empty with kernel := some kernel5 }

/-- A segment of one channel with 8 states, of context 5, zeroised or being zeroised, and the tile that has it as segment 255. -/
def segment (zeroing : Bool) : Segment := ⟨0x401, 0x400, 5, 0, 0, false, false, zeroing, false, false⟩
def stepping (zeroing : Bool) : State :=
  withRegs [(pgSu 2, Off.SU_TBL_STATUS, 0xF)]
    (tile2 { TileSt.empty with kernel := some kernel5, segs := [(255, segment zeroing)] })
def segStep : SegStep := ⟨255, 0, .regs 0, .regs 1, .regs 2, .regs 3, .reg 8⟩

/-- The bytes of a window descriptor: MAX over one element of an image of h rows, whose rows lie from inRow0 on in this tile. -/
def winBytes (h inRow0 nbUp : Byte) : List Byte :=
  [1, 0, h, 0, 1, 0, 1, 0, 1, 1, 3, 1, 1, 0, 1, 0, 1, 0, 1, 0] ++ List.replicate 12 0 ++ [0, 0x20, 0, 0, 0, 0, 0, 0, 0, 0x30, 0, 0] ++
    List.replicate 6 0 ++ [1, 0, inRow0, 0, 1, 0, nbUp, 0xFF, 0, 0, 0, 0, 1, 0]

/-- Data regions of context 5 in another tile. -/
def dataOf (t : Nat) (s : State) : State :=
  withRegs [(pgTsp t, Off.TSP_REGION_BASE, 0x3E8001), (pgTsp t, Off.TSP_REGION_CFG, 5)] s

/-- Region entry 0 opens the first 2 MiB of device memory for tenant 1, writable. -/
def region1 (s : State) : State :=
  withRegs [(pgMemenc 0, Off.MEMENC_REGION_SIZE, 1), (pgMemenc 0, Off.MEMENC_REGION_ATTR, 0x780C)] s

/-- A pool line of tenant 1 that holds home slot 0, in a state. -/
def poolLine (st : Nat) : PoolLine := ⟨1, st, ⟨none, 0⟩, 1, 5, 0, none, 0, none⟩
def pooled : State := region1 (tile2 { TileSt.empty with kernel := some kernel5, pool := [poolLine 3] })

/-- A walk of four 32-bit elements. -/
def walk4 (base : Nat) : GenWalk := ⟨base, [(4, 4)], 8⟩

/-- Halo counter 63 of a tile belongs to context 5. -/
def owned63 (t : Nat) (s : State) : State := withRegs [(pgTsp t, Off.TSP_HALO_OWNER + 252, 0x80000005)] s

/-- A job of context 5 on tiles of die 0 whose descriptor lies at 4096 of tile 2, and a running one. -/
def jobOf (w0 : Nat) : Launch := ⟨[w0, 5, 4096, 8192, 0, 0, 0, 0], none, 0⟩
def job5 : Launch := jobOf 0x02020200
def stemDesc : List Byte := ((winBytes 2 0 0xFF).set 10 7).set 61 4
def stemJob (w0 row : Nat) : StemJob := { launch := jobOf w0, startTt := 0, desc := stemDesc, params := List.replicate 64 0, accepted := true, frame := none, lines := 0, row := row }

/-- Stem engine 0 with its FIFO and job; the descriptor is of a one-row convolution of an image of two rows, to INT8. -/
def stemming (fifo : List Launch) (job : Option StemJob) : State :=
  withRegs [(pgStem 0, Off.CTRL, 1)] (dataOf 2 (sramWrite 2 4096 stemDesc
    { tenantUp 0x33 with stems := [(0, { StemSt.empty with fifo := fifo, job := job })] }))

/-- A line that waits in output 0 of pipeline 0, which stem engine 0 reads. -/
def line0 : OutLine := { frame := 0, frameNo := 0, line := 0, lost := false, segs := [], taken := false, queue := none, stem := 0 }
def lineWaits (x : OutLine) (job : Option StemJob) : State :=
  withRegs [(pgIsp 0, Off.ISP_OUT_CFG, 0x80)] { stemming [] job with isp := [(0, { IspSt.empty with outBuf := [(0, [x])] })] }

/-- A line of kitty 0 with home slot 0, and a state that holds some, in which tenant 1 has region 0. -/
def kline (locked : Bool) : KLine :=
  { line := 3, home := ⟨none, 0⟩, tenant := 1, shared := false, age := 0, dirty := false, locked := locked, owner := none, waiters := [], data := [] }
def kitty (ls : List KLine) : State := region1 { tenantUp 0x33 with mem := { up.mem with kitties := [(0, ls)] } }

/-- Tile 2 has a write for tenant 1 on its way. -/
def writing (s : State) (line : Option Nat) (merged : Bool) : State :=
  updTile 2 (fun x => { x with writes := [⟨⟨none, 0⟩, .tag 1, 0, [7], line, merged, false, 0⟩] }) s

/-- No TDI is held where every TDI state is 0. -/
theorem held_none {s : State} (h : rd s pgMb Off.MB_TDI_STATE = 0) (t : Nat) : tdiHeld s t = false := by
  simp [tdiHeld, tdiState, fld, h, fieldOf, bitsAt]

/-- A transfer whose block has flags, the queue of context 5 to tile 2 with it in flight, and what fills a pool line. -/
def xfer (flags : Nat) : Xfer :=
  { id := 0, block := 0, off := 0, len := 4096, addr := 0, dest := 0, desc := List.replicate 26 0 ++ leBytes 2 flags ++ leBytes 4 0
    c3 := false, sent := false, data := [], seg := 0 }
def withQueue (s : State) (r : Queue) : State := { s with queues := [(1280, r)] }
def filling (flags : Nat) : State :=
  withQueue (region1 (tile2 TileSt.empty)) { Queue.idle with ctrl := 0x7801, endpoint := 0x102, flight := [xfer flags] }
def fill0 : PoolFill := ⟨⟨none, 0⟩, 1, 5, false, 2, []⟩

/-- Queue 0 of context 5, whose page is enabled. -/
def ringing (r : Queue) : State := withRegs [(pgCtx 5, Off.CTRL, 1)] (withQueue (tenantUp 0x33) r)

/-- A block descriptor of one 64-byte row at address 0 with flags. -/
def descB (flags : Nat) : List Byte := leBytes 16 0 ++ leBytes 8 64 ++ leBytes 2 1 ++ leBytes 2 flags ++ leBytes 4 0

/-- A FETCH queue to tile 2 that runs with a descriptor at HEAD, and the engine that runs the queue. -/
def queueWith (desc : Option (List Byte)) : Queue := { Queue.idle with ctrl := 0x7801, endpoint := 0x102, desc := desc }
def going (r : Queue) (s : State) : State :=
  withRegs [(pgQe 1, Off.CTRL, 1), (pgQe 1, Off.QE_TENANT_SLOTS + 4, 64)] (withQueue s r)

/-- Tenant 1's function is covered by IDE. -/
def covered1 : State := withRegs [(pgMb, Off.MB_IDE_COVER, 2)] (tenantUp 0x33)

/-- A queue to tile 2 with a transfer in flight, and one whose command is 50 ms old. -/
def flying (ctrl : Word) (flags : Nat) (s : State) : State :=
  withQueue s { Queue.idle with ctrl := ctrl, endpoint := 0x102, flight := [xfer flags] }
def late : State :=
  let s := flying 0x7801 0x800 (tenantUp 0x33)
  atBeat 781250 { s with head := { s.head with cmds := [(pageBase (pgQe 1), [⟨83886080, 0, 0⟩])] } }

/-- A PUT queue of an endpoint, and one of tile 2 with a completion record. -/
def putting (endpoint : Nat) (s : State) : State := going { queueWith (some (descB 0)) with ctrl := 0x7821, endpoint := endpoint } s
def recorded : State := putting 0x102 (tile2 { TileSt.empty with comps := [(1280, 5, [7])] })

/-- A multicast queue whose subscriber is tile 2, with the owner word of the tile's counter 0; a tile it holds. -/
def casting (owner : Nat) : State :=
  withRegs [(pgTsp 2, Off.TSP_HALO_OWNER, owner)]
    (going { queueWith (some (descB 0)) with ctrl := 0x7861, subs := 4 } (kitty [kline false]))
def mcTile (unsent unacked : List Nat) : McTile :=
  { home := ⟨none, 0⟩, block := 0, last := true, ctr := 0, unsent := unsent, unacked := unacked, waitFrom := some 0, data := [] }

/-- Context 5 in a state, with a deck in slot 3 and the slots whose placement has been checked. -/
def decked (st : Nat) (placed : List Nat) : State :=
  let s := tenantUp st
  { s with boot := { s.boot with decks := [modelDeck3] }, host := { s.host with placed := placed } }

/-- Context 5 is tenant 1's service context; tenant 0's, with a full hold. -/
def serving (l : List (Page × Nat × Nat)) : State :=
  withRegs l { covered1 with host := { covered1.host with ctxs := [(5, ⟨0x1001, 0, none, 0⟩)] } }
def held : State :=
  { covered1 with host := { covered1.host with
      ctxs := [(5, ⟨0x1000, 0, none, 0⟩)], holds := [(0, ⟨List.replicate 64 ⟨0x203, 0, 1, 0, 0, []⟩, 0⟩)] } }

/-- The PF's SPDM negotiation has reached a stage; its sessions. -/
def staged (n : Nat) (l : List Session) : State := { up with sec := { up.sec with spdm := [(0, n)], sessions := l } }

/-- A deck in slot 3 with one section, a PLACEMENT that is the header and names no Raise pair. -/
def placedDeck : Deck :=
  ⟨3, 3, leBytes 6 0 ++ [3] ++ List.replicate 5 0 ++ [1, 0, 0, 0, 0, 0, 0xFF, 0xFF] ++ List.replicate 6124 0 ++ leBytes 8 0x25 ++ leBytes 4 0 ++
    leBytes 4 32 ++ List.replicate 64 0, ⟨[], []⟩⟩
def placing (st : Nat) (placed : List Nat) : State :=
  let s := decked st placed
  { s with boot := { s.boot with decks := [placedDeck] } }

/-- An IDE stream, with the PF's session 7. -/
def ided (n : Nat) (x : IdeStream) : State :=
  let s := staged 3 [⟨0, 7, true, 0⟩]
  { s with sec := { s.sec with ide := [(n, x)] } }

/-- Tenant 1's TDI state, the state of its context 5, IDE streams, with its session 7; a Secure TEE-Limited stream of its VF. -/
def tdi (x st : Nat) (ide : List (Nat × IdeStream)) : State :=
  let s := tenantUp (48 + st)
  withRegs [(pgMb, Off.MB_TDI_STATE, 4 * x)] { s with sec := { s.sec with sessions := [⟨1, 7, true, 0⟩], ide := ide } }
def tee1 : IdeStream := ⟨[], [], true, true, 1, 1⟩

/-- Key slot 9 as given, with the PF's session 7. -/
def keyed (e : KeySlot) : State :=
  let s := staged 3 [⟨0, 7, true, 0⟩]
  { s with mem := { s.mem with keys := [(9, e)] } }

/-- A seat 5 that has joined its table as dealer, with seat 6, both ports live under key slot 9. -/
def tabled (s : State) : State :=
  withRegs [(pgFab 0, Off.CTRL, 1), (pgFab 1, Off.CTRL, 1), (pgFab 0, Off.FAB_STATUS, 1), (pgFab 1, Off.FAB_STATUS, 1),
      (pgFab 0, Off.TBL_SEAT, 0x30005), (pgFab 0, Off.TBL_KEY, 9), (pgFab 0, Off.TBL_MEMBERS, 0x60)]
    { s with mem := { s.mem with keys := [(9, ⟨2, 0, 1, []⟩)] } }
def withTbl (s : State) (t : TblSt) : State := { s with tbl := t }

/-- A frame for seat 5: type, source seat, payload; SEQ 7, class 1, CORR 3. -/
def tframe (type src : Nat) (payload : List Byte) : Frame :=
  { port := 0, mac := 0, pause := false, fcsOk := true, icvOk := true, slot := 9
    header := leBytes 1 1 ++ leBytes 1 type ++ leBytes 2 src ++ leBytes 2 5 ++ leBytes 1 1 ++ leBytes 1 0 ++ leBytes 4 0 ++ leBytes 4 7 ++
      leBytes 8 0 ++ leBytes 2 payload.length ++ leBytes 2 0 ++ leBytes 4 3
    payload := payload }

/-- A round for speech at time 0, with the end of its window. -/
def round0 (stop : Nat) : Round := { speech := 0, start := 0, stop := stop, bids := [(6, 1)], late := [], award := none }

/-- Seat 5 exports tenant 0's first unit, whose line the kitty holds. -/
def exporting : State :=
  let s := tabled (withRegs [(pgMemenc 0, Off.MEMENC_REGION_SIZE, 1), (pgMemenc 0, Off.MEMENC_REGION_ATTR, 2),
    (pgFab 0, Off.TBL_EXPORT_UNITS, 0x10000), (pgFab 0, Off.TBL_EXPORT_CFG, 1)] up)
  { s with mem := { s.mem with kitties := [(0, [{ kline false with tenant := 0 }])] } }

/-- A transfer of queue 1280 waits for seat 6. -/
def fetch0 (again : Bool) : Fetch :=
  { corr := 3, seat := 6, queue := some 1280, xfer := 0, port := 0, start := 0, ticks := 0, again := again, c3 := false }
def fetching (again : Bool) : State :=
  let s := tabled (tenantUp 0x33)
  withTbl (withQueue { s with mem := { s.mem with keys := [(9, ⟨2, 1, 1, []⟩)] } } { Queue.idle with ctrl := 0x7801, endpoint := 0x102, flight := [xfer 0] })
    { TblSt.empty with fetches := [fetch0 again] }

/-- A fault record, and a watchdog whose millisecond has passed. -/
def rec0 : FaultRec := mkRec 1 2 1 0 0 0 0 0 0
def dogged (last : Option Nat) : State :=
  withRegs [(pgFc, Off.FC_WDOG, 0x80000001)] (atBeat 15625 { up with fc := { up.fc with wdogLast := last } })

/-- Hand history records, or replays a ring in host memory with so many bytes. -/
def recording (s : State) : State := withRegs [(pgHh, Off.HH_CTRL, 1)] s
def replaying (tail : Nat) : State := withRegs [(pgHh, Off.HH_CTRL, 2), (pgHh, Off.HH_CFG, 0x1401), (pgHh, Off.HH_TAIL_LO, tail)] up

/-- A line of one element in the FIFO of receiver slot 15, whose data queue is queue 0 of context 5. -/
def camLine : State :=
  { tenantUp 0x33 with csi := [(3, { CsiSt.empty with
      slots := List.replicate 3 CsiSlot.empty ++ [{ CsiSlot.empty with frame := some { csiFrame 0 with queue := 1280 }, fifo := [(0, [7])] }] })] }

/-! ## Single steps and operations: the numbers of the spec's worked examples -/

/-- The state after a command. -/
def after (i : Instr) (s : State) : State :=
  match exec i s with
  | .next t => t
  | _ => s

/-- 03_register_pages.md: the state unit of tile 37 and the context page of context 3. -/
theorem test_page_addresses : pageBase (pgSu 37) = 0x616000 ∧ pageBase (pgCtx 3) = 0x100C000 := by decide

/-- 01_architecture.md: a request of tile 52 sent in beat 1,000 commits at CD3's network in beat 1,002, and not before. -/
theorem test_crossing_commit :
    (after (.crossingCommit 52 67 (1000 % 256) (.tag 7)) (atBeat 1002 up)).tt.commits =
        [⟨52, 67, 1002 * 128 + 52, .tag 7, false⟩] ∧
      (after (.crossingCommit 52 67 (1000 % 256) (.tag 7)) (atBeat 1001 up)).tt.commits = [] := by
  decide +kernel

/-- 02_table_time.md: CD3's network to CD2's takes 4 beats, CD2's to MD0 4. -/
theorem test_crossing_beats : crossingBeats 67 66 = 4 ∧ crossingBeats 66 68 = 4 ∧ crossingBeats 67 52 = 2 := by decide

/-- 02_table_time.md: the button's four grants. -/
theorem test_button :
    arbiterGrant 4 2 [(0, 500), (1, 500), (3, 500)] = some (3, 3) ∧ arbiterGrant 4 3 [(0, 500), (1, 500), (2, 501)] = some (0, 0) ∧
      arbiterGrant 4 0 [(1, 500), (2, 501)] = some (1, 0) ∧ arbiterGrant 4 0 [(2, 501)] = some (2, 0) := by
  decide

/-- 02_table_time.md: after the re-alignment at 7,200,000,030,517 the first beat begins 11 ticks later. -/
theorem test_beat_realigned :
    (after .beat { up with tt := { up.tt with now := 7200000030517, realigned := true } }).tt.now = 7200000030528 := by
  decide +kernel

/-- 02_table_time.md: an RTC step is 30,517 + 37/64 ticks and the trim, here +23/64. -/
theorem test_rtc_edge :
    (after .rtcEdge (withRegs [(pgTT, Off.TT_RTC_TRIM, 23)] { up with tt := { up.tt with run := false, keeping := true } })).tt =
      { up.tt with run := false, keeping := true, kept := 30517, frac := 60 } := by
  decide +kernel

/-- 03_register_pages.md: an event of receiver 0 reaches vector 12 of the PF. -/
theorem test_beat_signals :
    (after .beat (withRegs [(pgCsi 0, Off.EVT_RAW, 1), (pgCsi 0, Off.EVT_EN, 9), (pgCsi 0, Off.EVT_ROUTE, 0x10000C)]
      { up with host := { up.host with msixEn := [0], unmasked := [12] } })).out = [.msix 0 12] := by
  decide +kernel

/-- 10_numbers_quant.md: 0.8125, −0.3, 0.0625, −0.5625, 0.1875, 0.75 and 26 zeros to Pip4 and MXINT8. -/
theorem test_quantise :
    let v := [0x3F500000, 0xBE99999A, 0x3D800000, 0xBF100000, 0x3E400000, 0x3F400000].map ofF32 ++ List.replicate 26 (ofF32 0)
    (quantAll .pip4 32 none 0x7F v).map (fun q => (q.scale, (Elem.pip4.pack q.codes).take 3)) = [(0x7C, [0xE6, 0xC0, 0x62])] ∧
      (quantAll .mxint8 32 none 0x7F v).map (fun q => (q.scale, (Elem.mxint8.pack q.codes).take 3)) = [(0x7E, [0x68, 0xDA, 0x08])] := by
  decide +kernel

/-- 10_numbers_quant.md: half-block sums of 1,000 and −301 × 2^-1, requantised by the channel record 5C AF 13 00 F7 FF 00 00. -/
theorem test_requantise :
    (chanRec [0x5C, 0xAF, 0x13, 0, 0xF7, 0xFF, 0, 0]).exp = -9 ∧ shiftRne 1000 0 + shiftRne (-301) (-1) = 850 ∧
      requant (chanRec [0x5C, 0xAF, 0x13, 0, 0xF7, 0xFF, 0, 0]) 8 850 = (73, false) := by
  decide

/-- 11_recurrent_engine.md: at position 150, from 3.0 (3 × 2^40) without a mark, and from 0 with one. -/
theorem test_state_step :
    stepEntry false (2 ^ 23) (3 * 2 ^ 40) 0x4000 0x4000 = (7 * 2 ^ 38, false) ∧
      stepEntry false (2 ^ 23) 0 0x4000 0x4000 = (2 ^ 38, false) := by
  decide

/-- 14_memory_tiers.md: the slot 0x80403000 lies in MD0's stack. -/
theorem test_home_md : homeMd up 0x80403000 = 0 ∧ homeMd up 0x80402000 = 1 ∧ homeMd up 0x80401000 = 0 ∧ homeMd up 0x80001000 = 1 := by
  decide +kernel

/-- A line of the pool of 14_memory_tiers.md's worked example. -/
def exLine (n st age : Nat) (pin : Option Nat) : PoolLine := ⟨n, st, ⟨none, 4096 * n⟩, 0, 5, age, pin, 0, none⟩

/-- 14_memory_tiers.md: of lines 4 and 6 with age 850, line 6 hit in beat 1,001, fill A takes line 4. -/
theorem test_pool_choice :
    (chooseLine (withRegs [(pgTsp 1, Off.TSP_REGION_BASE, 0x8000), (pgTsp 1, Off.TSP_REGION_CFG, 0x2005)]
      { up with tiles := [(1, { TileSt.empty with pool :=
        [exLine 0 3 0 (some 5), exLine 1 3 0 (some 5), exLine 2 2 1000 none, exLine 3 3 900 none, exLine 4 3 850 none,
          exLine 5 4 950 none, exLine 6 3 1001 none, exLine 7 3 990 none] })] }) 1).map (·.1) = some 4 := by
  decide +kernel

/-- 18_table.md: the scores of three bids and the winner with the button at 5; with it at 7, seat 3 would have won. -/
theorem test_bidding :
    bidScore (List.replicate 8 0 ++ [230, 16, 0]) = 59119 ∧ bidScore (List.replicate 8 0 ++ [180, 40, 0]) = 46295 ∧
      roundWinner 5 [(3, 59119), (7, 59119), (1, 46295)] = (7, 7, 59119) ∧ (roundWinner 7 [(3, 59119), (7, 59119), (1, 46295)]).1 = 3 := by
  decide +kernel

/-- 21_electrical.md: REQ 40 under CAP 38 runs at 38 with THROTTLED set, and under CAP 40 at 40 without. -/
theorem test_clock_change :
    let s (cap : Nat) : State :=
      withRegs [(pgMx 3, Off.TILE_CLK, 0x2828), (pgPower, Off.PWR_THROTTLE, cap)]
        (atBeat 1 { up with pwr := { up.pwr with clkPend := [(3, 0)] } })
    fld (after (.clockChange false 3) (s 38)) (pgMx 3) Off.TILE_CLK 8 6 = 38 ∧
      flag (after (.clockChange false 3) (s 38)) (pgMx 3) Off.TILE_CLK 15 = true ∧
      fld (after (.clockChange false 3) (s 40)) (pgMx 3) Off.TILE_CLK 8 6 = 40 ∧
      flag (after (.clockChange false 3) (s 40)) (pgMx 3) Off.TILE_CLK 15 = false := by
  decide +kernel

/-! ## Every statement with hypotheses has states and operands that meet them: one conjunct for each clause -/

theorem test_hyps_StepRunsFront :
    (∃ c, ∃ l, ∃ s : State, s.pending = c :: l) ∧
    (∃ s : State, s.pending = []) := by
  refine ⟨⟨.beat, [], { up with pending := [.beat] }, ?_⟩, ⟨up, ?_⟩⟩ <;>
    first
    | decide +kernel
    | (simp only [Admitted, Readable, DealDue, Issues, Dispatches, MayPut, reduceCtorEq, LaneFn.table.injEq, forall_eq', false_imp_iff, ne_eq,
        not_false_eq_true, implies_true]; done)
    | (simp only [Admitted, Readable, DealDue, Issues, Dispatches, MayPut, reduceCtorEq, LaneFn.table.injEq, forall_eq', false_imp_iff, ne_eq,
        not_false_eq_true, implies_true]; decide +kernel)

theorem test_hyps_CanonicalKept :
    ∃ s : State, ∃ t, s.Canonical ∧ step s = .next t := by
  refine ⟨State.reset, State.reset, ?_⟩ <;>
    exact ⟨⟨by decide +kernel, by decide +kernel, by decide +kernel, by decide +kernel, by decide +kernel,
      by constructor <;> decide +kernel⟩, rfl⟩

theorem test_hyps_FusesOnlyBurn :
    ∃ s : State, ∃ t, step s = .next t := by
  refine ⟨State.reset, State.reset, ?_⟩ <;>
    exact rfl

theorem test_hyps_DeviceResets :
    ∃ s : State, s.boot.phase ≠ .unpowered := by
  refine ⟨up, ?_⟩ <;>
    first
    | decide +kernel
    | (simp only [Admitted, Readable, DealDue, Issues, Dispatches, MayPut, reduceCtorEq, LaneFn.table.injEq, forall_eq', false_imp_iff, ne_eq,
        not_false_eq_true, implies_true]; done)
    | (simp only [Admitted, Readable, DealDue, Issues, Dispatches, MayPut, reduceCtorEq, LaneFn.table.injEq, forall_eq', false_imp_iff, ne_eq,
        not_false_eq_true, implies_true]; decide +kernel)

theorem test_hyps_MainPowerFails :
    (∃ s : State, s.boot.vrMain = true ∧ s.boot.phase ≠ .waitPerst ∧ s.boot.phase ≠ .unpowered) ∧
    (∃ s : State, s.boot.vrMem = true ∧ s.boot.phase ≠ .waitPerst ∧ s.boot.phase ≠ .unpowered) ∧
    (∃ s : State, ∃ b, s.pwr.tripAt = some b ∧ elapsed s b 1000000 = true ∧ s.boot.phase ≠ .waitPerst ∧ s.boot.phase ≠ .unpowered) := by
  refine ⟨⟨up, ?_⟩, ⟨up, ?_⟩, ⟨{ atBeat 15625 up with pwr := { up.pwr with tripAt := some 0 } }, 0, ?_⟩⟩ <;>
    first
    | decide +kernel
    | (simp only [Admitted, Readable, DealDue, Issues, Dispatches, MayPut, reduceCtorEq, LaneFn.table.injEq, forall_eq', false_imp_iff, ne_eq,
        not_false_eq_true, implies_true]; done)
    | (simp only [Admitted, Readable, DealDue, Issues, Dispatches, MayPut, reduceCtorEq, LaneFn.table.injEq, forall_eq', false_imp_iff, ne_eq,
        not_false_eq_true, implies_true]; decide +kernel)

theorem test_hyps_BringUp :
    (∃ s : State, s.boot.vrMain = true ∧ s.boot.phase ≠ .waitPg) ∧
    (∃ s : State, s.boot.vrMem = true ∧ s.boot.phase ≠ .waitPg) ∧
    (∃ s : State, s.boot.vrMain = true ∧ s.boot.vrMem = true ∧ s.boot.phase = .waitPg ∧ s.part.fuseBad = false ∧ s.boot.memPg = true ∧
      s.boot.mainPg = true) ∧
    (∃ s : State, s.boot.phase = .perst ∧ s.boot.mainPg = true ∧ s.boot.memPg = true ∧ s.part.fuseBad = false) ∧
    (∃ s : State, s.boot.phase = .perst ∧ s.boot.mainPg = true ∧ s.boot.memPg = true ∧ s.part.fuseBad = true) ∧
    (∃ s : State, ∃ width, ∃ speed, width < 8 ∧ speed < 16 ∧ s.boot.phase = .training) ∧
    (∃ s : State, s.part.stackCount ≤ 2 ∧ flag s pgMb Off.MB_READY 2 = true ∧ flag s pgMb Off.MB_READY 3 = false) ∧
    (∃ s : State, flag s pgMb Off.MB_READY 4 = true ∧ s.boot.regInit = [] ∧ flag s pgMb Off.MB_READY 5 = false ∧ s.host.ctxs = []) := by
  refine ⟨⟨State.reset, ?_⟩, ⟨State.reset, ?_⟩,
    ⟨{ State.reset with boot := { State.reset.boot with phase := .waitPg, memPg := true, mainPg := true } }, ?_⟩,
    ⟨{ up with boot := { up.boot with phase := .perst } }, ?_⟩,
    ⟨{ up with boot := { up.boot with phase := .perst }, part := { up.part with fuseBad := true } }, ?_⟩,
    ⟨{ up with boot := { up.boot with phase := .training } }, 7, 15, ?_⟩, ⟨withRegs [(pgMb, Off.MB_READY, 7)] up, ?_⟩,
    ⟨withRegs [(pgMb, Off.MB_READY, 0x1F)] up, ?_⟩⟩ <;>
    first
    | decide +kernel
    | (simp only [Admitted, Readable, DealDue, Issues, Dispatches, MayPut, reduceCtorEq, LaneFn.table.injEq, forall_eq', false_imp_iff, ne_eq,
        not_false_eq_true, implies_true]; done)
    | (simp only [Admitted, Readable, DealDue, Issues, Dispatches, MayPut, reduceCtorEq, LaneFn.table.injEq, forall_eq', false_imp_iff, ne_eq,
        not_false_eq_true, implies_true]; decide +kernel)

theorem test_hyps_DeckStreams :
    let free (s : State) (w : Func) : Prop :=
      Admitted s w pgMb Off.MB_CMD ∧ deviceFatal s = false ∧ mbBusy s = false ∧ flag s pgMb Off.CTRL 0 = true
    (∃ s : State, ∃ w : Func, free s w ∧ ((flag s pgMb Off.MB_READY 1 = true ∧ mbArg s 1 % 2 = 0) ∨ flag s pgMb Off.MB_READY 3 = true) ∧
      s.boot.handles.length < 4 ∧ (mbArg s 1 % 2 = 0 → ∀ e ∈ s.boot.handles, e.2.dma = true) ∧ 0x3000 ≤ mbArg s 0 ∧ mbArg s 0 ≤
      0xFFFFF000) ∧
    (∃ s : State, ∃ w : Func, free s w ∧ ((flag s pgMb Off.MB_READY 1 = true ∧ mbArg s 1 % 2 = 0) ∨ flag s pgMb Off.MB_READY 3 = true) ∧
      s.boot.handles.length < 4 ∧ (mbArg s 1 % 2 = 0 → ∀ e ∈ s.boot.handles, e.2.dma = true) ∧ 0x3000 ≤ mbArg s 0 ∧ mbArg s 0 ≤
      0xFFFFF000) ∧
    (∃ s : State, ∃ off, ∃ data : List Byte, hostLink s .pf = .ok ∧ (mbBusy s = true → fld s pgMb Off.MB_CMD 0 8 ≠ 2) ∧ off +
      data.length ≤ 0x2000000) ∧
    (∃ s : State, ∃ w : Func, ∃ h, ∃ x, free s w ∧ h < 4 ∧ handleOf s h = some x ∧ x.dma = false ∧ mbArg s 0 = x.bytes.length ∧ 1 ≤
      mbArg s 1 ∧ mbArg s 1 ≤ 0x2000000 ∧ ((mbArg s 1 % 4096 = 0 ∧ x.bytes.length + mbArg s 1 ≤ x.total) ∨ x.bytes.length + mbArg s 1 =
      x.total)) ∧
    (∃ s : State, ∃ w : Func, ∃ h, ∃ x, free s w ∧ h < 4 ∧ handleOf s h = some x ∧ x.dma = false ∧ mbArg s 0 = x.bytes.length ∧ 1 ≤
      mbArg s 1 ∧ mbArg s 1 ≤ 0x2000000 ∧ ((mbArg s 1 % 4096 = 0 ∧ x.bytes.length + mbArg s 1 ≤ x.total) ∨ x.bytes.length + mbArg s 1 =
      x.total)) ∧
    (∃ s : State, ∃ w : Func, ∃ h, ∃ x, Admitted s w pgMb Off.MB_CMD ∧ deviceFatal s = false ∧ mbBusy s = false ∧ flag s pgMb Off.CTRL 0
      = true ∧ h < 4 ∧ handleOf s h = some x ∧ x.dma = false ∧ mbArg s 0 = x.bytes.length ∧ 1 ≤ mbArg s 1 ∧ mbArg s 1 ≤ 0x2000000 ∧
      ((mbArg s 1 % 4096 = 0 ∧ x.bytes.length + mbArg s 1 ≤ x.total) ∨ x.bytes.length + mbArg s 1 = x.total) ∧ (deckArrive h
      ((List.range (mbArg s 1)).map fun i => sget 0 s.boot.staging i) (wr pgMb Off.MB_CMD (BitVec.ofNat 32 (2 + 256 * h + 2 ^ 31))
      (recordWrite w pgMb Off.MB_CMD (BitVec.ofNat 32 (2 + 256 * h + 2 ^ 31)) s))).1 = none) ∧
    (∃ s : State, ∃ w : Func, ∃ h, ∃ x, ∃ list : List Byte, free s w ∧ h < 4 ∧ handleOf s h = some x ∧ x.dma = true ∧ x.dmaRun = false ∧
      x.bytes = [] ∧ 1 ≤ mbArg s 2 ∧ mbArg s 2 ≤ 4096 ∧ list.length < 16 * mbArg s 2) ∧
    (∃ s : State, ∃ w : Func, ∃ h, ∃ x, ∃ list : List Byte, free s w ∧ h < 4 ∧ handleOf s h = some x ∧ x.dma = true ∧ x.dmaRun = false ∧
      x.bytes = [] ∧ 1 ≤ mbArg s 2 ∧ mbArg s 2 ≤ 4096 ∧ 16 * mbArg s 2 ≤ list.length ∧ (∀ e ∈ (scatter list (mbArg s 2)).dropLast, e.2 %
      4096 = 0) ∧ (scatter list (mbArg s 2)).foldl (fun k e => k + e.2) 0 = x.total) ∧
    (∃ s : State, ∃ h, ∃ x, handleOf s h = some x ∧ x.dmaRun = true ∧ x.pri = false) ∧
    (∃ s : State, ∃ h, ∃ x, ∃ ans : HostData, handleOf s h = some x ∧ x.dmaRun = true ∧ x.pri = false ∧ (∀ bs, ans ≠ .bytes bs)) ∧
    (∃ s : State, ∃ h, ∃ x, handleOf s h = some x ∧ x.dmaRun = true ∧ x.pri = false) ∧
    (∃ s : State, ∃ h, ∃ x, h < 4 ∧ handleOf s h = some x ∧ x.pri = true) ∧
    (∃ s : State, ∃ h, ∃ x, ∃ code, h < 4 ∧ handleOf s h = some x ∧ x.pri = true ∧ code ≠ 0) := by
  refine ⟨⟨withRegs [(pgMb, Off.MB_ARG, 0x3000)] up, .pf, ?_⟩, ⟨withRegs [(pgMb, Off.MB_ARG, 0xFFFFF000), (pgMb, Off.MB_ARG + 4,
    1)] up, .mgmt, ?_⟩, ⟨up, 0x1FFFFFF, [7], ?_⟩, ⟨withRegs [(pgMb, Off.MB_ARG + 4, 4096)] (withHandle (handle false false 8192 [])),
    .pf, 1, handle false false 8192 [], ?_⟩, ⟨withRegs [(pgMb, Off.MB_ARG, 1), (pgMb, Off.MB_ARG + 4,
    1)] (withHandle (handle false false 2 [9])), .pf, 1, handle false false 2 [9], ?_⟩, ⟨withRegs [(pgMb, Off.MB_ARG, 1), (pgMb,
    Off.MB_ARG + 4, 1)] (withHandle (handle false false 2 [9])), .pf, 1, handle false false 2 [9], ?_⟩, ⟨withRegs [(pgMb,
    Off.MB_ARG + 8, 1)] (withHandle (handle true false 5 [])), .pf, 1, handle true false 5 [], [], ?_⟩, ⟨withRegs [(pgMb,
    Off.MB_ARG + 8, 1)] (withHandle (handle true false 5 [])), .pf, 1, handle true false 5 [], List.replicate 8 (0 : Byte) ++ [5, 0,
    0, 0, 0, 0, 0, 0], ?_⟩, ⟨withHandle (handle true true 5 []), 1, handle true true 5 [], ?_⟩, ⟨withHandle (handle true true 5 []),
    1, handle true true 5 [], .poisoned, ?_⟩, ⟨withHandle (handle true true 5 []), 1, handle true true 5 [], ?_⟩,
    ⟨withHandle { handle true true 5 [] with pri := true }, 1, { handle true true 5 [] with pri := true }, ?_⟩,
    ⟨withHandle { handle true true 5 [] with pri := true }, 1, { handle true true 5 [] with pri := true }, 1, ?_⟩⟩ <;>
    first
    | decide +kernel
    | (simp only [Admitted, Readable, DealDue, Issues, Dispatches, MayPut, reduceCtorEq, LaneFn.table.injEq, forall_eq', false_imp_iff, ne_eq,
        not_false_eq_true, implies_true]; done)
    | (simp only [Admitted, Readable, DealDue, Issues, Dispatches, MayPut, reduceCtorEq, LaneFn.table.injEq, forall_eq', false_imp_iff, ne_eq,
        not_false_eq_true, implies_true]; decide +kernel)

theorem test_hyps_DecksEnd :
    let free (s : State) (w : Func) : Prop :=
      Admitted s w pgMb Off.MB_CMD ∧ deviceFatal s = false ∧ mbBusy s = false ∧ flag s pgMb Off.CTRL 0 = true
    (∃ s : State, ∃ w : Func, ∃ h, ∃ x : DeckHandle, free s w ∧ h < 4 ∧ handleOf s h = some x ∧ x.total ≤ x.bytes.length ∧ s.boot.reload
      = [] ∧ (deckKind x.bytes = 3 → mbArg s 0 < 16 ∧ modelDeck s (mbArg s 0) = none) ∧ (unitRuns x.units.main).length + (unitRuns
      x.units.restore).length ≤ (freeEntries s).length) ∧
    (∃ s : State, ∃ w : Func, ∃ h, ∃ x : DeckHandle, free s w ∧ h < 4 ∧ handleOf s h = some x ∧ x.total ≤ x.bytes.length ∧ s.boot.reload
      = [] ∧ (deckKind x.bytes = 3 → mbArg s 0 < 16 ∧ modelDeck s (mbArg s 0) = none) ∧ (unitRuns x.units.main).length + (unitRuns
      x.units.restore).length ≤ (freeEntries s).length) ∧
    (∃ s : State, ∃ w : Func, ∃ h, ∃ x : DeckHandle, free s w ∧ h < 4 ∧ handleOf s h = some x) ∧
    (∃ s : State, ∃ w : Func, ∃ d : Deck, ∃ ds : List Deck, free s w ∧ flag s pgMb Off.MB_READY 2 = true ∧ mbArg s 0 < 16 ∧
      (s.boot.decks.filter fun d => deckArb d.bytes == mbArg s 0) = d :: ds) ∧
    (∃ s : State, ∃ k, ∃ n, ∃ d : Nat, s.tt.run = true ∧ s.boot.cmd = some ⟨6, 0, 0, 0xFF, d⟩ ∧ s.boot.burn = some (k, n) ∧
      s.boot.regInit = [] ∧ s.tt.commits = [] ∧ s.head.deals = [] ∧ s.host.waiting = [] ∧ k < s.part.arb.length) ∧
    (∃ s : State, ∃ w : Func, ∃ k, free s w ∧ flag s pgMb Off.MB_READY 2 = true ∧ mbArg s 0 < 16 ∧ modelDeck s (mbArg s 0) = some k ∧
      boundTo s (mbArg s 0) = []) ∧
    (∃ s : State, ∃ w : Func, Admitted s w pgMb Off.MB_CMD ∧ deviceFatal s = false ∧ mbBusy s = false ∧ flag s pgMb Off.CTRL 0 = false)
      ∧
    (∃ s : State, flag s pgPower Off.PWR_STATE 9 = true ∧ 2 ≤ pwrState s ∧ pwrState s ≤ 4 ∧ pwrPhase s = 0 ∧ domainsAt s (restoreLevel
      s) = true) ∧
    (∃ s : State, flag s pgPower Off.PWR_STATE 9 = true ∧ 2 ≤ pwrState s ∧ pwrState s ≤ 4 ∧ pwrPhase s = 0 ∧ domainsAt s (restoreLevel
      s) = true) := by
  refine ⟨⟨withHandle (handle true false 8 serviceDeck.bytes), .pf, 1, handle true false 8 serviceDeck.bytes, ?_⟩,
    ⟨withHandle (handle true false 8 modelDeck3.bytes), .pf, 1, handle true false 8 modelDeck3.bytes, ?_⟩,
    ⟨withHandle (handle true false 8 []), .pf, 1, handle true false 8 [], ?_⟩,
    ⟨{ up with boot := { up.boot with decks := [serviceDeck] } }, .pf, serviceDeck, [], ?_⟩,
    ⟨{ up with boot := { up.boot with cmd := some ⟨6, 0, 0, 0xFF, 3⟩, burn := some (15, 5) } }, 15, 5, 3, ?_⟩, ⟨withRegs [(pgMb,
    Off.MB_ARG, 3)] { up with boot := { up.boot with decks := [modelDeck3] } }, .pf, modelDeck3, ?_⟩, ⟨withRegs [(pgMb, Off.CTRL,
    0)] up, .pf, ?_⟩, ⟨powered 0x224, ?_⟩, ⟨powered 0x212, ?_⟩⟩ <;>
    first
    | decide +kernel
    | (simp only [Admitted, Readable, DealDue, Issues, Dispatches, MayPut, reduceCtorEq, LaneFn.table.injEq, forall_eq', false_imp_iff, ne_eq,
        not_false_eq_true, implies_true]; done)
    | (simp only [Admitted, Readable, DealDue, Issues, Dispatches, MayPut, reduceCtorEq, LaneFn.table.injEq, forall_eq', false_imp_iff, ne_eq,
        not_false_eq_true, implies_true]; decide +kernel)

theorem test_hyps_TimeKept :
    let crosses (s : State) (src dst stamp : Nat) : Prop :=
      islandUsed src = true ∧ islandUsed dst = true ∧ s.tt.run = true ∧ holdsNumber s dst 0 = true ∧
        holdsNumber s src (pulsesSince s (sendBeat s stamp)) = true
    let onTime (s : State) (src dst stamp : Nat) : Prop :=
      s.tt.firstDue ≤ sendBeat s stamp + crossingBeats src dst ∧ sendBeat s stamp + crossingBeats src dst ≤ beatNo s
    (∃ s : State, s.tt.run = true ∧ s.boot.regInit = [] ∧ s.host.waiting = [] ∧ (∀ c ∈ s.tt.commits, ∃ n, c.payload = .tag n)) ∧
    (∃ s : State, s.tt.run = false) ∧
    (∃ s : State, ∃ src, ∃ dst, ∃ stamp, crosses s src dst stamp ∧ onTime s src dst stamp) ∧
    (∃ s : State, ∃ src, ∃ dst, ∃ stamp, crosses s src dst stamp ∧ onTime s src dst stamp) ∧
    (∃ s : State, ∃ src, ∃ dst, ∃ stamp, crosses s src dst stamp ∧ (¬ onTime s src dst stamp) ∧ relaxed s dst = true ∧ inTime s src dst
      (sendBeat s stamp) = true) ∧
    (∃ s : State, ∃ src, ∃ dst, ∃ stamp, crosses s src dst stamp ∧ (¬ onTime s src dst stamp) ∧ inTime s src dst (sendBeat s stamp) =
      false) ∧
    (∃ s : State, ∃ src, ∃ dst, ∃ stamp, crosses s src dst stamp ∧ islandDie src ≠ islandDie dst ∧ relaxed s dst = false ∧ sendBeat s
      stamp + crossingBeats src dst < beatNo s ∧ beatNo s ≤ sendBeat s stamp + 192) ∧
    (∃ s : State, ∃ src, ∃ dst, ∃ stamp, crosses s src dst stamp ∧ islandDie src ≠ islandDie dst ∧ relaxed s dst = false ∧ sendBeat s
      stamp + crossingBeats src dst < beatNo s ∧ beatNo s ≤ sendBeat s stamp + 192) ∧
    (∃ s : State, s.tt.run = false ∧ domOn s 0 = true ∧ s.tt.keeping = true ∧ s.tt.frac < 64 ∧ s.tt.kept + 40000 < 2 ^ 64 ∧ s.head.deals
      = [] ∧ levelsDue s = none) ∧
    (∃ s : State, s.tt.run = false ∧ domOn s 0 = true ∧ s.tt.keeping = false ∧ s.tt.now + 30518 < 2 ^ 64 ∧ s.head.deals = [] ∧ levelsDue
      s = none) ∧
    (∃ s : State, s.tt.run = true) ∧
    (∃ s : State, s.tt.keeping = true ∧ s.tt.run = false ∧ s.tt.locking = true) := by
  refine ⟨⟨up, by decide +kernel, by decide +kernel, by decide +kernel,
    fun _ h => absurd (show _ ∈ ([] : List Commit) from h) List.not_mem_nil⟩, ⟨{ up with tt := { up.tt with run := false } }, ?_⟩,
    ⟨atBeat 10 up, 0, 1, 6, ?_⟩, ⟨atBeat 10 up, 0, 72, 4, ?_⟩, ⟨{ atBeat 10 up with tt := { (atBeat 10 up).tt with relax := 2 } }, 0,
    1, 9, ?_⟩, ⟨atBeat 200 up, 0, 1, 2, ?_⟩, ⟨atBeat 10 up, 0, 72, 3, ?_⟩, ⟨atBeat 250 up, 0, 72, 58, ?_⟩,
    ⟨{ up with tt := { up.tt with run := false, keeping := true } }, ?_⟩, ⟨{ up with tt := { up.tt with run := false } }, ?_⟩, ⟨up,
    ?_⟩, ⟨{ up with tt := { up.tt with run := false, keeping := true, locking := true } }, ?_⟩⟩ <;>
    first
    | decide +kernel
    | (simp only [Admitted, Readable, DealDue, Issues, Dispatches, MayPut, reduceCtorEq, LaneFn.table.injEq, forall_eq', false_imp_iff, ne_eq,
        not_false_eq_true, implies_true]; done)
    | (simp only [Admitted, Readable, DealDue, Issues, Dispatches, MayPut, reduceCtorEq, LaneFn.table.injEq, forall_eq', false_imp_iff, ne_eq,
        not_false_eq_true, implies_true]; decide +kernel)

theorem test_hyps_TimeChanged :
    (∃ s : State, ∃ w : Func, Admitted s w pgTT Off.TT_CTRL ∧ flag s pgTT Off.TT_CTRL 2 = false ∧ anyContext s = false) ∧
    (∃ s : State, ∃ w : Func, Admitted s w pgTT Off.TT_CTRL) ∧
    (∃ s : State, ∃ w : Func, (w = .pf ∨ w = .mgmt) ∧ senderLink s w = .ok ∧ domOn s 0 = true ∧ heldWhole s (pagePower pgTT) 0 = true) ∧
    (∃ s : State, ∃ w : Func, ∃ k, k < 4 ∧ Admitted s w pgTT (Off.TT_RELAX + 4 * k)) := by
  refine ⟨⟨up, .pf, ?_⟩, ⟨up, .pf, ?_⟩, ⟨up, .pf, ?_⟩, ⟨withRegs [(pgTT, Off.CTRL, 5)] up, .pf, 3, ?_⟩⟩ <;>
    first
    | decide +kernel
    | (simp only [Admitted, Readable, DealDue, Issues, Dispatches, MayPut, reduceCtorEq, LaneFn.table.injEq, forall_eq', false_imp_iff, ne_eq,
        not_false_eq_true, implies_true]; done)
    | (simp only [Admitted, Readable, DealDue, Issues, Dispatches, MayPut, reduceCtorEq, LaneFn.table.injEq, forall_eq', false_imp_iff, ne_eq,
        not_false_eq_true, implies_true]; decide +kernel)

theorem test_hyps_RateClamped :
    ∃ s : State, ∃ w : Func, Admitted s w pgTT Off.TT_RATE_ADJ := by
  refine ⟨up, .pf, ?_⟩ <;>
    first
    | decide +kernel
    | (simp only [Admitted, Readable, DealDue, Issues, Dispatches, MayPut, reduceCtorEq, LaneFn.table.injEq, forall_eq', false_imp_iff, ne_eq,
        not_false_eq_true, implies_true]; done)
    | (simp only [Admitted, Readable, DealDue, Issues, Dispatches, MayPut, reduceCtorEq, LaneFn.table.injEq, forall_eq', false_imp_iff, ne_eq,
        not_false_eq_true, implies_true]; decide +kernel)

theorem test_hyps_Deals :
    let late (s : State) (p : Page) : Bool := decide (ceilDiv (dealAt s p) 64 ≤ beatNo s)
    let due (s : State) (p : Page) (d : DealSt) (action : Nat) : Prop :=
      dealOf s p = some d ∧ fld s p Off.DEAL_CTRL 4 4 = action ∧ dealPower s p action = true ∧ d.able ≤ beatNo s ∧
        (dealEnabled s p = true ∨ action = 1)
    (∃ s : State, ∃ w : Func, ∃ p : Page, ∃ disc, ∃ action, ∃ period, (∀ n, w ≠ .vf n) ∧ Admitted s w p Off.DEAL_CTRL ∧ flag s p
      Off.DEAL_CTRL 0 = false ∧ action < 16 ∧ period < 2 ^ 24 ∧ (¬ (late s p = true ∧ period = 0 ∧ disc = true))) ∧
    (∃ s : State, ∃ w : Func, ∃ p : Page, ∃ disc, ∃ action, ∃ period, (∀ n, w ≠ .vf n) ∧ Admitted s w p Off.DEAL_CTRL ∧ flag s p
      Off.DEAL_CTRL 0 = false ∧ action < 16 ∧ period < 2 ^ 24 ∧ (¬ (late s p = true ∧ period = 0 ∧ disc = true))) ∧
    (∃ s : State, ∃ w : Func, ∃ p : Page, (∀ n, w ≠ .vf n) ∧ Admitted s w p Off.DEAL_CTRL ∧ flag s p Off.DEAL_CTRL 0 = false ∧ late s p
      = true) ∧
    (∃ s : State, ∃ w : Func, ∃ p : Page, (∀ n, w ≠ .vf n) ∧ Admitted s w p Off.DEAL_CTRL ∧ flag s p Off.DEAL_CTRL 0 = true) ∧
    (∃ s : State, ∃ n, ∃ p : Page, Admitted s (.vf n) p Off.DEAL_CTRL) ∧
    (∃ s : State, ∃ p : Page, ∃ d, due s p d 0 ∧ fld s p Off.DEAL_CTRL 8 24 = 0 ∧ dealAt s p ≤ commitTime s ∧ (flag s p Off.DEAL_CTRL 2
      = true → dealLate s (dealAt s p) = false)) ∧
    (∃ s : State, ∃ p : Page, ∃ d, due s p d 0 ∧ fld s p Off.DEAL_CTRL 8 24 = 0 ∧ dealAt s p ≤ commitTime s ∧ flag s p Off.DEAL_CTRL 2 =
      true ∧ dealLate s (dealAt s p) = true) ∧
    (∃ s : State, ∃ p : Page, ∃ d, due s p d 0 ∧ 0 < 4 * fld s p Off.DEAL_CTRL 8 24 ∧ flag s p Off.DEAL_CTRL 2 = false ∧ dealAt s p +
      d.k * (4 * fld s p Off.DEAL_CTRL 8 24) ≤ commitTime s) ∧
    (∃ s : State, ∃ p : Page, ∃ d, ∃ base, due s p d 1 ∧ snapshotAt p = some base ∧ fld s p Off.DEAL_CTRL 8 24 = 0 ∧ dealAt s p ≤
      commitTime s ∧ (flag s p Off.DEAL_CTRL 2 = true → dealLate s (dealAt s p) = false)) := by
  refine ⟨⟨atBeat 10 up, .pf, pgTT, false, 15, 2 ^ 24 - 1, ?_⟩, ⟨atBeat 10 up, .mgmt, pgMx 0, false, 0, 0, ?_⟩, ⟨atBeat 10 up, .pf,
    pgTT, ?_⟩, ⟨armed pgTT 0, .pf, pgTT, ?_⟩, ⟨tenantUp 3, 1, pgCtx 5, ?_⟩, ⟨armed pgTT 0, pgTT, ⟨0, 0⟩, ?_⟩, ⟨withRegs [(pgTT,
    Off.DEAL_CTRL, 5), (pgTT, Off.DEAL_AT_LO, 64)] (armed pgTT 0), pgTT, ⟨0, 0⟩, ?_⟩, ⟨withRegs [(pgTT, Off.DEAL_CTRL,
    0x101)] (armed pgTT 0), pgTT, ⟨0, 0⟩, ?_⟩, ⟨armed (pgMx 0) 1, pgMx 0, ⟨0, 0⟩, Off.TILE_SNAP, ?_⟩⟩ <;>
    first
    | decide +kernel
    | (simp only [Admitted, Readable, DealDue, Issues, Dispatches, MayPut, reduceCtorEq, LaneFn.table.injEq, forall_eq', false_imp_iff, ne_eq,
        not_false_eq_true, implies_true]; done)
    | (simp only [Admitted, Readable, DealDue, Issues, Dispatches, MayPut, reduceCtorEq, LaneFn.table.injEq, forall_eq', false_imp_iff, ne_eq,
        not_false_eq_true, implies_true]; decide +kernel)

theorem test_hyps_ArmedDealLocked :
    (∃ s : State, ∃ w : Func, ∃ a, ∃ v, ∃ p : Page, ∃ off, (∀ n, w ≠ .vf n) ∧ a % 4 = 0 ∧ pageOf a = some (p, off) ∧ (off =
      Off.DEAL_AT_LO ∨ off = Off.DEAL_AT_HI ∨ (off = Off.DEAL_CTRL ∧ bitOf v 1 = false)) ∧ Admitted s w p off ∧ flag s p Off.DEAL_CTRL 0
      = true) ∧
    (∃ s : State, ∃ w : Func, ∃ a, ∃ v, ∃ p : Page, ∃ off, (∀ n, w ≠ .vf n) ∧ a % 4 = 0 ∧ pageOf a = some (p, off) ∧ (off =
      Off.DEAL_AT_LO ∨ off = Off.DEAL_AT_HI ∨ (off = Off.DEAL_CTRL ∧ bitOf v 1 = false)) ∧ Admitted s w p off ∧ flag s p Off.DEAL_CTRL 0
      = true) ∧
    (∃ s : State, ∃ w : Func, ∃ p : Page, (∀ n, w ≠ .vf n) ∧ Admitted s w p Off.DEAL_CTRL ∧ flag s p Off.DEAL_CTRL 0 = true) ∧
    (∃ s : State, ∃ w : Func, ∃ a, ∃ v, ∃ p : Page, (∀ n, w ≠ .vf n) ∧ a % 4 = 0 ∧ pageOf a = some (p, Off.DEAL_CTRL) ∧ bitOf v 1 = true
      ∧ Admitted s w p Off.DEAL_CTRL ∧ flag s p Off.DEAL_CTRL 0 = true) := by
  refine ⟨⟨armed pgTT 0, .pf, pageBase pgTT + Off.DEAL_AT_LO, 0, pgTT, Off.DEAL_AT_LO, ?_⟩, ⟨armed pgTT 0, .pf,
    pageBase pgTT + Off.DEAL_CTRL, 1, pgTT, Off.DEAL_CTRL, ?_⟩, ⟨armed pgTT 0, .pf, pgTT, ?_⟩, ⟨armed pgTT 0, .pf,
    pageBase pgTT + Off.DEAL_CTRL, 2, pgTT, ?_⟩⟩ <;>
    first
    | decide +kernel
    | (simp only [Admitted, Readable, DealDue, Issues, Dispatches, MayPut, reduceCtorEq, LaneFn.table.injEq, forall_eq', false_imp_iff, ne_eq,
        not_false_eq_true, implies_true]; done)
    | (simp only [Admitted, Readable, DealDue, Issues, Dispatches, MayPut, reduceCtorEq, LaneFn.table.injEq, forall_eq', false_imp_iff, ne_eq,
        not_false_eq_true, implies_true]; decide +kernel)

theorem test_hyps_ControlWrites :
    let base (s : State) (w : Func) (p : Page) : Prop :=
      Admitted s w p Off.CTRL ∧ phaseOf s (pageDomain p) = 0
    let still (s : State) (p : Page) (on : Bool) : Prop :=
      p.cls = .callEngine → on = true → s.ce.running = false ∨ busy s pgCe = true ∨ s.au.consume = s.au.writeIdx
    let own (s : State) (w : Func) (p : Page) : Prop :=
      base s w p ∧ (∀ n, w ≠ .vf n) ∧ (flag s p Off.CTRL 2 = true → fld s p Off.CTRL 4 5 = funcCode w)
    (∃ s : State, ∃ w : Func, ∃ p : Page, ∃ on, own s w p ∧ still s p on ∧ (on = flag s p Off.CTRL 0 ∨ s.queues = [])) ∧
    (∃ s : State, ∃ w : Func, ∃ p : Page, ∃ on, own s w p ∧ still s p on ∧ (on = flag s p Off.CTRL 0 ∨ s.queues = [])) ∧
    (∃ s : State, ∃ w : Func, ∃ p : Page, ∃ on, own s w p ∧ still s p on ∧ (on = flag s p Off.CTRL 0 ∨ s.queues = [])) ∧
    (∃ s : State, ∃ w : Func, ∃ p : Page, own s w p ∧ still s p (flag s p Off.CTRL 0) ∧ busy s p = false) ∧
    (∃ s : State, ∃ w : Func, ∃ p : Page, base s w p ∧ still s p (flag s p Off.CTRL 0) ∧ flag s p Off.CTRL 2 = false ∧ expertGrant s w p
      = true) ∧
    (∃ s : State, ∃ w : Func, ∃ p : Page, base s w p ∧ still s p (flag s p Off.CTRL 0) ∧ flag s p Off.CTRL 2 = true ∧ fld s p Off.CTRL 4
      5 = funcCode w) ∧
    (∃ s : State, ∃ w : Func, ∃ p : Page, own s w p ∧ still s p (flag s p Off.CTRL 0)) := by
  refine ⟨⟨up, .pf, pgMx 0, true, ?_⟩, ⟨up, .mgmt, pgCsi 3, true, ?_⟩, ⟨up, .rot, pgMemenc 0, true, ?_⟩, ⟨up, .pf, pgMx 0, ?_⟩,
    ⟨withRegs [(pgMb, Off.MB_EXPERT_PF, 0xFFFFFFFF)] up, .pf, pgCsi 0, ?_⟩, ⟨withRegs [(pgCsi 0, Off.CTRL, 5)] up, .pf, pgCsi 0, ?_⟩,
    ⟨up, .mgmt, pgCsi 3, ?_⟩⟩ <;>
    first
    | decide +kernel
    | (simp only [Admitted, Readable, DealDue, Issues, Dispatches, MayPut, reduceCtorEq, LaneFn.table.injEq, forall_eq', false_imp_iff, ne_eq,
        not_false_eq_true, implies_true]; done)
    | (simp only [Admitted, Readable, DealDue, Issues, Dispatches, MayPut, reduceCtorEq, LaneFn.table.injEq, forall_eq', false_imp_iff, ne_eq,
        not_false_eq_true, implies_true]; decide +kernel)

theorem test_hyps_EventWrites :
    (∃ s : State, ∃ w : Func, ∃ p : Page, Admitted s w p Off.EVT_RAW) ∧
    (∃ s : State, ∃ n, ∃ p : Page, Admitted s (.vf n) p Off.EVT_FORCE) ∧
    (∃ s : State, ∃ w : Func, ∃ p : Page, (∀ n, w ≠ .vf n) ∧ Admitted s w p Off.EVT_FORCE) ∧
    (∃ s : State, ∃ w : Func, ∃ p : Page, Admitted s w p Off.EVT_EN) ∧
    (∃ s : State, ∃ w : Func, ∃ p : Page, ∃ v, Admitted s w p Off.EVT_ROUTE ∧ vfOwned s p = false ∧ (p.cls ≠ .context → fieldOf v 16 4 =
      0) ∧ fieldOf v 0 11 < vectorsOf (fieldOf v 16 4)) := by
  refine ⟨⟨up, .pf, pgTT, ?_⟩, ⟨tenantUp 3, 1, pgCtx 5, ?_⟩, ⟨up, .pf, pgTT, ?_⟩, ⟨tenantUp 3, .vf 1, pgCtx 5, ?_⟩, ⟨up, .pf, pgTT,
    2047, ?_⟩⟩ <;>
    first
    | decide +kernel
    | (simp only [Admitted, Readable, DealDue, Issues, Dispatches, MayPut, reduceCtorEq, LaneFn.table.injEq, forall_eq', false_imp_iff, ne_eq,
        not_false_eq_true, implies_true]; done)
    | (simp only [Admitted, Readable, DealDue, Issues, Dispatches, MayPut, reduceCtorEq, LaneFn.table.injEq, forall_eq', false_imp_iff, ne_eq,
        not_false_eq_true, implies_true]; decide +kernel)

theorem test_hyps_FencesAndWrites :
    (∃ s : State, ∃ w : Func, ∃ a, ∃ p : Page, ∃ off, ∃ r, (∀ n, w ≠ .vf n) ∧ a % 4 = 0 ∧ pageOf a = some (p, off) ∧ 0x100 ≤ off ∧ p.cls
      ∈ [.pcie, .mgmtCores, .lowSpeed, .dieLink, .hbm, .meld] ∧ regRow p off = some r ∧ Admitted s w p off) ∧
    (∃ s : State, ∃ a, ∃ p : Page, ∃ off, ∃ r, a % 4 = 0 ∧ pageOf a = some (p, off) ∧ 0x100 ≤ off ∧ p.cls ∈ [.pcie, .mgmtCores,
      .lowSpeed, .dieLink, .hbm, .meld] ∧ regRow p off = some r ∧ reach s .pf p off = .ok ∧ suppressed s .pf p = false ∧ a ∈ s.head.mgmt
      ∧ BitVec.ofNat 32 r.rw ≠ 0#32) ∧
    (∃ s : State, ∃ a, ∃ p : Page, ∃ off, a % 4 = 0 ∧ pageOf a = some (p, off) ∧ 0x100 ≤ off ∧ reach s .pf p off = .ok ∧ a ∈ s.head.mgmt
      ∧ standBits p off = 0#32 ∧ (p.cls = .mailbox → off ≠ Off.MB_CMD)) ∧
    (∃ w : Func, ∃ a, ∃ p : Page, (∀ n, w ≠ .vf n) ∧ pageOf a = some (p, Off.EVT_EN)) ∧
    (∃ a, a % 8 = 0) ∧
    (∃ s : State, ∃ w : Func, ∃ a, ∃ vs : List Word, widthOk s w a vs.length = false) ∧
    (∃ s : State, ∃ w : Func, ∃ a, ∃ vs : List Word, widthOk s w a vs.length = false) ∧
    (∃ s : State, ∃ w : Func, senderLink s w = .ok) ∧
    (∃ s : State, ∃ w : Func, senderLink s w = .ok) ∧
    (∃ s : State, ∃ w : Func, ∃ p : Page, (w = .pf ∨ w = .mgmt) ∧ Admitted s w p Off.FENCE_CTRL ∧ domainRoot (pageDomain p) = some p ∧
      phaseOf s (pageDomain p) = 0) ∧
    (∃ s : State, ∃ w : Func, ∃ p : Page, (w = .pf ∨ w = .mgmt) ∧ Admitted s w p Off.FENCE_CTRL ∧ domainRoot (pageDomain p) = some p ∧
      phaseOf s (pageDomain p) = 0) ∧
    (∃ s : State, ∃ w : Func, ∃ p : Page, (w = .pf ∨ w = .mgmt) ∧ Admitted s w p Off.FENCE_CTRL ∧ domainRoot (pageDomain p) = some p ∧
      phaseOf s (pageDomain p) = 5 ∧ (∀ n, (fenceOf s (pageDomain p)).cascade = some n → phaseOf s n = 0)) ∧
    (∃ s : State, ∃ p : Page, ∃ id, ∃ c, pagePresent s.part p = true ∧ pageOn s p = true ∧ hasTimeout p = true ∧ c ∈ cmdsOf s p ∧ c.id =
      id ∧ c.ticks ≠ 0 ∧ elapsed s c.accept c.ticks = true) := by
  refine ⟨⟨up, .pf, pageBase pgPcie + Off.PCIE_LINK, pgPcie, Off.PCIE_LINK, ⟨0x100, 1, 4, 0, 0, 0⟩, nofun, by decide +kernel,
    by decide +kernel, by decide +kernel, by decide +kernel, by decide +kernel, ⟨by decide +kernel, by decide +kernel,
    by decide +kernel⟩⟩, ⟨{ up with head := { up.head with mgmt := [pageBase (pgMc 0) + Off.MC_SCRUB] } },
    pageBase (pgMc 0) + Off.MC_SCRUB, pgMc 0, Off.MC_SCRUB, (regRow (pgMc 0) Off.MC_SCRUB).get (by decide +kernel), by decide +kernel,
    by decide +kernel, by decide +kernel, by decide +kernel, (Option.some_get _).symm, by decide +kernel, by decide +kernel,
    by decide +kernel, by decide +kernel⟩, ⟨{ up with head := { up.head with mgmt := [pageBase pgPower + Off.PWR_WAKE_CAUSE] } },
    pageBase pgPower + Off.PWR_WAKE_CAUSE, pgPower, Off.PWR_WAKE_CAUSE, by decide +kernel, by decide +kernel, by decide +kernel,
    by decide +kernel, by decide +kernel, by decide +kernel, nofun⟩, ⟨.pf, pageBase pgTT + Off.EVT_EN, pgTT, ?_⟩, ⟨8, ?_⟩, ⟨up, .pf,
    0, [0, 0, 0], ?_⟩, ⟨up, .pf, 4, [0, 0], ?_⟩, ⟨up, .pf, ?_⟩, ⟨up, .mgmt, ?_⟩, ⟨up, .pf, pgMx 63, ?_⟩, ⟨up, .mgmt, pgVo 0, ?_⟩,
    ⟨withRegs [(pgMx 0, Off.FENCE_STATUS, 5)] up, .pf, pgMx 0, .inl rfl, ⟨by decide +kernel, by decide +kernel, by decide +kernel⟩,
    by decide +kernel, by decide +kernel, fun _ h => nomatch h.symm.trans (show _ = none by decide +kernel)⟩,
    ⟨{ atBeat 1 up with head := { up.head with cmds := [(pageBase (pgCsi 0), [⟨0, 0, 64⟩])] } }, pgCsi 0, 0, ⟨0, 0, 64⟩, ?_⟩⟩ <;>
    first
    | decide +kernel
    | (simp only [Admitted, Readable, DealDue, Issues, Dispatches, MayPut, reduceCtorEq, LaneFn.table.injEq, forall_eq', false_imp_iff, ne_eq,
        not_false_eq_true, implies_true]; done)
    | (simp only [Admitted, Readable, DealDue, Issues, Dispatches, MayPut, reduceCtorEq, LaneFn.table.injEq, forall_eq', false_imp_iff, ne_eq,
        not_false_eq_true, implies_true]; decide +kernel)

theorem test_hyps_DiscardedAccesses :
    (∃ s : State, ∃ w : Func, ∃ p : Page, ∃ kind, reach s w p Off.EVT_EN = .error kind ∧ suppressed s w p = false) ∧
    (∃ s : State, ∃ w : Func, ∃ p : Page, reach s w p Off.EVT_EN = .unsupported) ∧
    (∃ s : State, ∃ w : Func, ∃ p : Page, reach s w p Off.EVT_EN = .ignored) ∧
    (∃ s : State, ∃ w : Func, ∃ p : Page, reach s w p Off.EVT_EN = .waits) ∧
    (∃ s : State, ∃ w : Func, senderLink s w = .ok) ∧
    (∃ s : State, ∃ w : Func, senderLink s w = .unsupported) := by
  refine ⟨⟨up, .mgmt, pgCsi 7, 2, ?_⟩, ⟨State.reset, .pf, pgTT, ?_⟩, ⟨tenantUp 0x33, .vf 1, pgIdentity, ?_⟩, ⟨ante, .pf, pgTT, ?_⟩,
    ⟨up, .pf, ?_⟩, ⟨State.reset, .pf, ?_⟩⟩ <;>
    first
    | decide +kernel
    | (simp only [Admitted, Readable, DealDue, Issues, Dispatches, MayPut, reduceCtorEq, LaneFn.table.injEq, forall_eq', false_imp_iff, ne_eq,
        not_false_eq_true, implies_true]; done)
    | (simp only [Admitted, Readable, DealDue, Issues, Dispatches, MayPut, reduceCtorEq, LaneFn.table.injEq, forall_eq', false_imp_iff, ne_eq,
        not_false_eq_true, implies_true]; decide +kernel)

theorem test_hyps_FencePhases :
    let begun (s : State) (d : Nat) : Prop := (fenceOf s d).start < s.tt.beats
    (∃ s : State, ∃ d, s.tt.beats ≤ (fenceOf s d).start) ∧
    (∃ s : State, ∃ d, ∃ r, domainRoot d = some r ∧ phaseOf s d = 2 ∧ begun s d ∧ (outstanding s d = false ∨ (fenceOf s d).start +
      drainBeats s d ≤ s.tt.beats)) ∧
    (∃ s : State, ∃ d, ∃ r, domainRoot d = some r ∧ phaseOf s d = 2 ∧ begun s d ∧ (outstanding s d = false ∨ (fenceOf s d).start +
      drainBeats s d ≤ s.tt.beats)) ∧
    (∃ s : State, ∃ d, phaseOf s d = 3 ∧ begun s d) ∧
    (∃ s : State, ∃ d, ∃ r, domainRoot d = some r ∧ phaseOf s d = 4 ∧ begun s d ∧ (d = 91 → s.ce.copying = false ∨ deckOf s 2 = none)) ∧
    (∃ s : State, ∃ d, ∃ r, domainRoot d = some r ∧ phaseOf s d = 4 ∧ begun s d ∧ (d = 91 → s.ce.copying = false ∨ deckOf s 2 = none)) ∧
    (∃ s : State, ∃ n, n < 64 ∧ phaseOf s n = 0 ∧ tileLive s n = true ∧ (∃ m ∈ s.fc.marked, m.1 = n) ∧ (∀ k ∈ markedDecks s n, copiesOk
      s k = true)) ∧
    (∃ s : State, ∃ c, ∃ b, (ctxOf s c).flr = some b ∧ elapsed s b (msTicks 50) = true) := by
  refine ⟨⟨atBeat 0 up, 0, ?_⟩, ⟨atBeat 5 (withRegs [(pgMx 0, Off.FENCE_STATUS, 2)] up), 0, pgMx 0, ?_⟩, ⟨atBeat 5 (withRegs [(pgVo 0,
    Off.FENCE_STATUS, 2)] up), 90, pgVo 0, ?_⟩, ⟨atBeat 5 (withRegs [(pgMx 0, Off.FENCE_STATUS, 3)] up), 0, ?_⟩,
    ⟨atBeat 5 (withRegs [(pgMx 0, Off.FENCE_STATUS, 4)] up), 0, pgMx 0, ?_⟩, ⟨atBeat 5 (withRegs [(pgCe, Off.FENCE_STATUS, 4)] up),
    91, pgCe, ?_⟩, ⟨{ up with fc := { up.fc with marked := [(63, 0)] } }, 63, ?_⟩,
    ⟨atBeat 781250 { up with host := { up.host with ctxs := [(5, ⟨0, 0, some 0, 0⟩)] } }, 5, 0, ?_⟩⟩ <;>
    first
    | decide +kernel
    | (simp only [Admitted, Readable, DealDue, Issues, Dispatches, MayPut, reduceCtorEq, LaneFn.table.injEq, forall_eq', false_imp_iff, ne_eq,
        not_false_eq_true, implies_true]; done)
    | (simp only [Admitted, Readable, DealDue, Issues, Dispatches, MayPut, reduceCtorEq, LaneFn.table.injEq, forall_eq', false_imp_iff, ne_eq,
        not_false_eq_true, implies_true]; decide +kernel)

theorem test_hyps_PowerCommands :
    let asked (s : State) (w : Func) : Prop :=
      Admitted s w pgPower Off.PWR_CMD ∧ flag s pgPower Off.PWR_CMD 31 = false ∧ flag s pgPower Off.CTRL 0 = true
    (∃ s : State, ∃ w : Func, ∃ T, asked s w ∧ T < 8 ∧ pwrCheck s (w == .mgmt) T = 0 ∧ (anyBeamHot s = false ∨ fld s pgPower
      Off.PWR_HOLD 0 16 = 0)) ∧
    (∃ s : State, ∃ w : Func, ∃ T, asked s w ∧ T < 8 ∧ pwrCheck s (w == .mgmt) T = 0 ∧ (anyBeamHot s = false ∨ fld s pgPower
      Off.PWR_HOLD 0 16 = 0)) ∧
    (∃ s : State, ∃ w : Func, ∃ T, asked s w ∧ T < 8 ∧ pwrCheck s (w == .mgmt) T = 0 ∧ anyBeamHot s = true ∧ fld s pgPower Off.PWR_HOLD
      0 16 ≠ 0) ∧
    (∃ s : State, ∃ w : Func, ∃ T, asked s w ∧ T < 8 ∧ pwrCheck s (w == .mgmt) T ≠ 0) ∧
    (∃ s : State, ∃ w : Func, ∃ T, asked s w ∧ T < 8 ∧ pwrCheck s (w == .mgmt) T ≠ 0) ∧
    (∃ s : State, ∃ w : Func, ∃ T, Admitted s w pgPower Off.PWR_CMD ∧ flag s pgPower Off.PWR_CMD 31 = false ∧ flag s pgPower Off.CTRL 0
      = false ∧ T < 8) ∧
    (∃ s : State, pwrPhase s = 2 ∧ anyBeamHot s = false) ∧
    (∃ s : State, pwrPhase s = 2 ∧ anyBeamHot s = true ∧ elapsed s s.pwr.start (fld s pgPower Off.PWR_HOLD 0 16 * 1000000) = true) ∧
    (∃ s : State, pwrPhase s = 3 ∧ quiet s = true ∧ cmdBeat s = false) ∧
    (∃ s : State, pwrPhase s = 3 ∧ quiet s = false ∧ s.pwr.start + fld s pgPower Off.PWR_QUIESCE 0 24 ≤ s.tt.beats) ∧
    (∃ s : State, pwrPhase s = 4 ∧ 2 ≤ pwrState s ∧ pwrState s ≤ 4 ∧ (pwrState s = 2 → s.tt.pend = [] ∧ s.tt.commits = []) ∧ domainsAt s
      (domLevel s (pwrState s - 1)) = true) ∧
    (∃ s : State, pwrPhase s = 4 ∧ 2 ≤ pwrState s ∧ pwrState s ≤ 4 ∧ (pwrState s = 2 → s.tt.pend = [] ∧ s.tt.commits = []) ∧ domainsAt s
      (domLevel s (pwrState s - 1)) = true) ∧
    (∃ s : State, pwrPhase s = 4 ∧ pwrState s = 1 ∧ s.pwr.anyLatched = false ∧ domainsAt s (domLevel s 0) = true) := by
  refine ⟨⟨up, .pf, 2, ?_⟩, ⟨withRegs [(pgPower, Off.PWR_HOLD, 0)] beamHot, .pf, 3, ?_⟩, ⟨beamHot, .pf, 2, ?_⟩, ⟨up, .mgmt, 2, ?_⟩,
    ⟨up, .pf, 7, ?_⟩, ⟨withRegs [(pgPower, Off.CTRL, 0)] up, .pf, 2, ?_⟩, ⟨powered 0x94, ?_⟩, ⟨withRegs [(pgPower, Off.PWR_STATE,
    0x94)] (atBeat 15625 beamHot), ?_⟩, ⟨powered 0xD4, ?_⟩, ⟨withRegs [(pgPower, Off.PWR_QUIESCE,
    0)] { powered 0xD4 with head := { up.head with cmds := [(pageBase (pgMx 0), [⟨0, 0, 0⟩])] } }, ?_⟩, ⟨stepped 3 (powered 0x114),
    ?_⟩, ⟨stepped 1 (powered 0x10A), ?_⟩, ⟨stepped 0 (powered 0x101), ?_⟩⟩ <;>
    first
    | decide +kernel
    | (simp only [Admitted, Readable, DealDue, Issues, Dispatches, MayPut, reduceCtorEq, LaneFn.table.injEq, forall_eq', false_imp_iff, ne_eq,
        not_false_eq_true, implies_true]; done)
    | (simp only [Admitted, Readable, DealDue, Issues, Dispatches, MayPut, reduceCtorEq, LaneFn.table.injEq, forall_eq', false_imp_iff, ne_eq,
        not_false_eq_true, implies_true]; decide +kernel)

theorem test_hyps_Wakes :
    let able (s : State) : Prop := awake s = true ∧ domOn s 1 = true
    (∃ s : State, able s) ∧
    (∃ s : State, able s) ∧
    (∃ s : State, awake s = true ∧ pwrState s = 0 ∧ domOn s 1 = false) ∧
    (∃ s : State, able s ∧ pwrState s ≤ 1) ∧
    (∃ s : State, awake s = true ∧ pwrState s = 0 ∧ domOn s 1 = false) ∧
    (∃ s : State, ∃ w : Func, ∃ T, able s ∧ Admitted s w pgPower Off.PWR_WAKE_REQ ∧ T < 8 ∧ 2 ≤ pwrState s) ∧
    (∃ s : State, ∃ d, DealDue s pgPower d 2 ∧ able s) ∧
    (∃ s : State, pwrPhase s = 1 ∧ 1 ≤ pwrState s ∧ pwrState s < 4 ∧ climbReady s = true ∧ domainsAt s (domLevel s (pwrState s + 1)) =
      true) ∧
    (∃ s : State, pwrPhase s = 1 ∧ 1 ≤ pwrState s ∧ pwrState s < 4 ∧ climbReady s = true ∧ domainsAt s (domLevel s (pwrState s + 1)) =
      true) ∧
    (∃ s : State, pwrPhase s = 1 ∧ 1 ≤ pwrState s ∧ pwrState s < 4 ∧ climbReady s = true ∧ domainsAt s (domLevel s (pwrState s + 1)) =
      true) := by
  refine ⟨⟨up, ?_⟩, ⟨ante, ?_⟩, ⟨folded, ?_⟩, ⟨ante, ?_⟩, ⟨folded, ?_⟩, ⟨up, .pf, 7, ?_⟩, ⟨armed pgPower 2, ⟨0, 0⟩, ?_⟩,
    ⟨stepped 3 (powered 98), ?_⟩, ⟨stepped 4 (powered 99), ?_⟩,
    ⟨stepped 2 { withRegs [(pgPower, Off.AON_REG_STATUS, 1), (pgPower, Off.PWR_STATE, 0x51)] ante with boot := up.boot }, ?_⟩⟩ <;>
    first
    | decide +kernel
    | (simp only [Admitted, Readable, DealDue, Issues, Dispatches, MayPut, reduceCtorEq, LaneFn.table.injEq, forall_eq', false_imp_iff, ne_eq,
        not_false_eq_true, implies_true]; done)
    | (simp only [Admitted, Readable, DealDue, Issues, Dispatches, MayPut, reduceCtorEq, LaneFn.table.injEq, forall_eq', false_imp_iff, ne_eq,
        not_false_eq_true, implies_true]; decide +kernel)

theorem test_hyps_AlwaysOn :
    (∃ s : State, pwrState s = 1 ∧ s.pwr.dutyOn = true ∧ s.pwr.dutyWindow = false ∧ s.pwr.dutyHit = false ∧ dutyDue s = true) ∧
    (∃ s : State, s.pwr.dutyWindow = true ∧ s.pwr.dutyAt + dutyTicks s 21 4 + dutyTicks s 11 10 ≤ tnow s) ∧
    (∃ s : State, tnow s < s.pwr.dutyAt + dutyTicks s 21 4 + dutyTicks s 11 10) ∧
    (∃ s : State, ∃ hp, domOn s 1 = true ∧ s.pwr.regSwitch = some hp) ∧
    (∃ s : State, awake s = true ∧ domOn s 1 = true) := by
  refine ⟨⟨{ atBeat 46875000 ante with pwr := { ante.pwr with dutyOn := true } }, ?_⟩,
    ⟨{ atBeat 46875000 ante with pwr := { ante.pwr with dutyWindow := true } }, ?_⟩, ⟨{ up with pwr := { up.pwr with dutyAt := 1 } },
    ?_⟩, ⟨{ up with pwr := { up.pwr with regSwitch := some true } }, true, ?_⟩, ⟨up, ?_⟩⟩ <;>
    first
    | decide +kernel
    | (simp only [Admitted, Readable, DealDue, Issues, Dispatches, MayPut, reduceCtorEq, LaneFn.table.injEq, forall_eq', false_imp_iff, ne_eq,
        not_false_eq_true, implies_true]; done)
    | (simp only [Admitted, Readable, DealDue, Issues, Dispatches, MayPut, reduceCtorEq, LaneFn.table.injEq, forall_eq', false_imp_iff, ne_eq,
        not_false_eq_true, implies_true]; decide +kernel)

theorem test_hyps_Heat :
    let measures (s : State) (k : Nat) : Prop := k < 22 ∧ domOn s (sensorDomain k) = true ∧ domOn s 1 = true
    (∃ s : State, ∃ k, ∃ v, measures s k ∧ v < 2 ^ 16) ∧
    (∃ s : State, ∃ k, ∃ v, measures s k ∧ v < 2 ^ 16) ∧
    (∃ s : State, ∃ k, ∃ v, measures s k ∧ v < 2 ^ 16 ∧ v ≠ 0x8000 ∧ dieSensor k = true ∧ tripTemp s ≤ signed 16 v ∧ 2 ≤ sget 0
      s.pwr.tripRun k ∧ s.boot.thermtrip = false) ∧
    (∃ s : State, ∃ k, ∃ v, measures s k ∧ v < 2 ^ 16 ∧ v ≠ 0x8000 ∧ dieSensor k = false ∧ 85 * 16 ≤ signed 16 v ∧ k ∉ s.pwr.refresh) ∧
    (∃ s : State, decisionDue s = true) ∧
    (∃ s : State, ∃ die, ∃ n, die < 4 ∧ n < 16 ∧ pageOn s (pgMx (16 * die + n)) = true ∧ flag s (pgMx (16 * die + n)) Off.TILE_CLK 14 =
      true) := by
  refine ⟨⟨up, 20, 0, ?_⟩, ⟨up, 0, 2 ^ 16 - 1, ?_⟩, ⟨{ up with pwr := { up.pwr with tripRun := [(0, 2)] } }, 0, 1760, ?_⟩, ⟨up, 18,
    1360, ?_⟩, ⟨up, ?_⟩, ⟨withRegs [(pgMx 63, Off.TILE_CLK, 0x4000)] up, 3, 15, ?_⟩⟩ <;>
    first
    | decide +kernel
    | (simp only [Admitted, Readable, DealDue, Issues, Dispatches, MayPut, reduceCtorEq, LaneFn.table.injEq, forall_eq', false_imp_iff, ne_eq,
        not_false_eq_true, implies_true]; done)
    | (simp only [Admitted, Readable, DealDue, Issues, Dispatches, MayPut, reduceCtorEq, LaneFn.table.injEq, forall_eq', false_imp_iff, ne_eq,
        not_false_eq_true, implies_true]; decide +kernel)

theorem test_hyps_Acoustic :
    let heard (s : State) (g formed : Nat) : Prop := groupListens s g = true ∧ settling s g formed = false
    (∃ s : State, ∃ g, ∃ formed, g < 2 ∧ heard s g formed) ∧
    (∃ s : State, ∃ g, ∃ formed, g < 2 ∧ heard s g formed) ∧
    (∃ s : State, ∃ formed, heard s 0 formed ∧ flag s pgRing Off.RING_CTRL 0 = true ∧ s.au.writeIdx < 2 ^ 32 ∧ 1 ≤ ringCap s) ∧
    (∃ s : State, ∃ formed, heard s 1 formed ∧ flag s (pgBf 1) Off.CTRL 0 = true ∧ fld s (pgBf 1) Off.BF_LIVE 0 16 ≠ 0) ∧
    (∃ s : State, ∃ formed, groupListens s 0 = true ∧ settling s 0 formed = true) ∧
    (∃ s : State, ∃ g, ∃ d, g < 2 ∧ DealDue s (pgAin g) d 2) ∧
    (∃ s : State, ∃ g, ∃ d, g < 2 ∧ DealDue s (pgAin g) d 2) ∧
    (∃ s : State, ∃ g, ∃ e : Nat × Nat, g < 2 ∧ (s.au.refill.find? fun e => e.1 == g) = some e ∧ (tnow s < e.2 ∨ e.2 + 2 * groupDelay s
      g ≤ tnow s)) ∧
    (∃ s : State, ∃ g, ∃ d, g < 2 ∧ DealDue s (pgBf g) d 2) ∧
    (∃ s : State, ∃ w : Func, ∃ g, g < 2 ∧ Admitted s w (pgBf g) Off.BF_BANK) := by
  refine ⟨⟨withRegs [(pgAin 0, Off.CTRL, 1)] up, 0, 0, ?_⟩, ⟨withRegs [(pgAin 1, Off.CTRL, 1)] up2, 1, 0, ?_⟩, ⟨withRegs [(pgAin 0,
    Off.CTRL, 1), (pgRing, Off.RING_CTRL, 1), (pgRing, Off.RING_CFG, 0x101)] up, 0, ?_⟩, ⟨withRegs [(pgAin 1, Off.CTRL, 1), (pgBf 1,
    Off.CTRL, 1), (pgBf 1, Off.BF_LIVE, 1)] up2, 0, ?_⟩, ⟨withRegs [(pgAin 0, Off.CTRL,
    1)] { up with pwr := { up.pwr with dutyOn := true, dutyWindow := true, dutyAt := 1 } }, 0, ?_⟩, ⟨armed (pgAin 0) 2, 0, ⟨0, 0⟩,
    ?_⟩, ⟨armedOn up2 (pgAin 1) 2, 1, ⟨0, 0⟩, ?_⟩, ⟨{ up with au := { up.au with refill := [(1, 1)] } }, 1, (1, 1), ?_⟩,
    ⟨armed (pgBf 0) 2, 0, ⟨0, 0⟩, ?_⟩, ⟨up2, .pf, 1, ?_⟩⟩ <;>
    first
    | decide +kernel
    | (simp only [Admitted, Readable, DealDue, Issues, Dispatches, MayPut, reduceCtorEq, LaneFn.table.injEq, forall_eq', false_imp_iff, ne_eq,
        not_false_eq_true, implies_true]; done)
    | (simp only [Admitted, Readable, DealDue, Issues, Dispatches, MayPut, reduceCtorEq, LaneFn.table.injEq, forall_eq', false_imp_iff, ne_eq,
        not_false_eq_true, implies_true]; decide +kernel)

theorem test_hyps_CallEngine :
    let next (s : State) : Nat := (s.au.consume + 1) % 2 ^ 32
    let goesOn (s : State) (vs : List Verdict) : Prop :=
      s.ce.copying = false ∧ enabled s pgCe = true ∧ next s ≠ s.au.writeIdx ∧ ∀ v ∈ vs, v.kind ≠ 5
    let missing (s : State) : Nat := (ringOldest s + (2 ^ 32 - next s)) % 2 ^ 32
    (∃ s : State, s.ce.running = true ∧ busy s pgCe = true ∧ hhMode s ≠ 2 ∧ (s.ce.copying = true ∨ next s = s.au.writeIdx ∨ ringHolds s
      (next s) = true)) ∧
    (∃ s : State, ∃ vs, s.ce.running = true ∧ busy s pgCe = true ∧ goesOn s vs ∧ ringHolds s (next s) = false ∧ 0 < missing s ∧ missing
      s < 2 ^ 31) ∧
    (∃ s : State, ∃ x, ∃ start, ∃ rest, s.ce.verdicts = (x, start) :: rest ∧ x % 16 = 3 ∧ signOffOk s = true ∧ policyOk s = true ∧
      ringLocked s = true) ∧
    (∃ s : State, ∃ x, ∃ start, ∃ rest, s.ce.verdicts = (x, start) :: rest ∧ x % 16 ≠ 3 ∧ signOffOk s = true ∧ ringLocked s = false) ∧
    (∃ s : State, ∃ x, ∃ start, ∃ rest, s.ce.verdicts = (x, start) :: rest ∧ signOffOk s = false) ∧
    (∃ s : State, ∃ x, ∃ start, ∃ rest, s.ce.verdicts = (x, start) :: rest ∧ x % 16 = 3 ∧ signOffOk s = true ∧ policyOk s = false) ∧
    (∃ s : State, ∃ w : Func, Admitted s w pgCe Off.CE_RESTART ∧ flag s pgCe Off.CTRL 2 = false ∧ s.ce.running = true ∧ busy s pgCe =
      true) ∧
    (∃ s : State, ∃ w : Func, Admitted s w pgCe Off.CE_RESTART ∧ flag s pgCe Off.CTRL 2 = false ∧ (s.ce.running = false ∨ busy s pgCe =
      false)) ∧
    (∃ s : State, ∃ w : Func, Admitted s w pgCe Off.CE_RESTART ∧ flag s pgCe Off.CTRL 2 = true) ∧
    (∃ s : State, ∃ k : Deck, s.ce.copying = true ∧ domOn s 3 = true ∧ busy s pgCe = false ∧ deckOf s 2 = some k) := by
  refine ⟨⟨calling 5 6 [blk 5] [] 1, ?_⟩, ⟨calling 2 6 [blk 5] [] 1, [], ?_⟩, ⟨calling 5 6 [blk 5] [(3, 5)] 1, 3, 5, [], ?_⟩,
    ⟨calling 5 6 [blk 5] [(4, 5)] 0, 4, 5, [], ?_⟩, ⟨{ up with ce := { up.ce with verdicts := [(3, 0)] } }, 3, 0, [], ?_⟩,
    ⟨withRegs [(pgMb, Off.MB_RING_POLICY, 2)] (calling 5 6 [blk 5] [(3, 5)] 1), 3, 5, [], ?_⟩, ⟨calling 5 6 [blk 5] [] 1, .pf, ?_⟩,
    ⟨up, .pf, ?_⟩, ⟨withRegs [(pgCe, Off.CTRL, 5)] up, .pf, ?_⟩,
    ⟨{ up with ce := { up.ce with copying := true }, boot := { up.boot with decks := [serviceDeck] } }, serviceDeck, ?_⟩⟩ <;>
    first
    | decide +kernel
    | (simp only [Admitted, Readable, DealDue, Issues, Dispatches, MayPut, reduceCtorEq, LaneFn.table.injEq, forall_eq', false_imp_iff, ne_eq,
        not_false_eq_true, implies_true]; done)
    | (simp only [Admitted, Readable, DealDue, Issues, Dispatches, MayPut, reduceCtorEq, LaneFn.table.injEq, forall_eq', false_imp_iff, ne_eq,
        not_false_eq_true, implies_true]; decide +kernel)

theorem test_hyps_Ring :
    let alone (s : State) : Prop := ∀ g, s.au.signed = some g → g.beat ≠ s.tt.beats ∨ s.tt.run = false
    (∃ s : State, ∃ w : Func, Admitted s w pgRing Off.RING_CTRL) ∧
    (∃ s : State, ∃ w : Func, Admitted s w pgRing Off.RING_CTRL ∧ alone s) ∧
    (∃ s : State, ∃ w : Func, ∃ g : SignSt, Admitted s w pgRing Off.RING_CTRL ∧ ringLocked s = false ∧ s.tt.run = true ∧ s.au.signed =
      some g ∧ g.beat = s.tt.beats ∧ g.locked = true) ∧
    (∃ s : State, ∃ w : Func, Admitted s w pgRing Off.RING_CTRL ∧ alone s) ∧
    (∃ s : State, ∃ w : Func, Admitted s w pgRing Off.RING_CTRL ∧ alone s) ∧
    (∃ s : State, ringLocked s = false ∧ alone s ∧ s.au.unlockTt + fld s pgRing Off.RING_RELEASE 16 16 * 1000000000 ≤ s.au.endTt) ∧
    (∃ s : State, ∃ tenant, ∃ addr, ∃ b : RingBlk, mayHear s tenant = true ∧ ringLocked s = false ∧ releasedBlock s addr = some b) ∧
    (∃ s : State, ∃ tenant, ∃ addr, mayHear s tenant = true ∧ ringLocked s = false ∧ releasedBlock s addr = none) ∧
    (∃ s : State, s.tt.run = true) ∧
    (∃ s : State, ∃ tenant, ∃ addr, ∃ rest, s.au.asked = (tenant, addr) :: rest) ∧
    (∃ s : State, ∃ tenant, mayHear s tenant = true ∧ ringLocked s = true) := by
  refine ⟨⟨up, .pf, ?_⟩, ⟨up, .pf, ⟨by decide +kernel, by decide +kernel, by decide +kernel⟩,
    (by intro _ h; exact nomatch h.symm.trans (show _ = none by decide +kernel))⟩,
    ⟨{ calling 5 6 [] [] 0 with au := { (calling 5 6 [] [] 0).au with signed := some ⟨0, 0, true, false⟩ } }, .pf, ⟨0, 0, true,
    false⟩, ?_⟩, ⟨up, .pf, ⟨by decide +kernel, by decide +kernel, by decide +kernel⟩,
    (by intro _ h; exact nomatch h.symm.trans (show _ = none by decide +kernel))⟩, ⟨up, .mgmt, ⟨by decide +kernel, by decide +kernel,
    by decide +kernel⟩, (by intro _ h; exact nomatch h.symm.trans (show _ = none by decide +kernel))⟩, ⟨withRegs [(pgRing,
    Off.RING_RELEASE, 0)] (calling 5 6 [blk 5] [] 0), by decide +kernel,
    (by intro _ h; exact nomatch h.symm.trans (show _ = none by decide +kernel)), by decide +kernel⟩, ⟨withRegs [(pgRing,
    Off.RING_RELEASE_IDX, 5)] (calling 5 6 [blk 5] [] 0), none, 5 * 4096, blk 5, ?_⟩, ⟨calling 5 6 [] [] 0, none, 5 * 4096, ?_⟩, ⟨up,
    ?_⟩, ⟨{ up with au := { up.au with asked := [(none, 0)] } }, none, 0, [], ?_⟩, ⟨calling 5 6 [] [] 1, none, ?_⟩⟩ <;>
    first
    | decide +kernel
    | (simp only [Admitted, Readable, DealDue, Issues, Dispatches, MayPut, reduceCtorEq, LaneFn.table.injEq, forall_eq', false_imp_iff, ne_eq,
        not_false_eq_true, implies_true]; done)
    | (simp only [Admitted, Readable, DealDue, Issues, Dispatches, MayPut, reduceCtorEq, LaneFn.table.injEq, forall_eq', false_imp_iff, ne_eq,
        not_false_eq_true, implies_true]; decide +kernel)

theorem test_hyps_VoiceOut :
    let runs (s : State) (p now : Nat) : Prop :=
      p < 2 ∧ enabled s (pgVo p) = true ∧ ∀ e ∈ (voOf s p).launches, frameDue e.1 now = false
    (∃ s : State, ∃ p : Nat, ∃ d, p < 2 ∧ DealDue s (pgVo p) d 2) ∧
    (∃ s : State, ∃ p : Nat, ∃ d, p < 2 ∧ DealDue s (pgVo p) d 2) ∧
    (∃ s : State, ∃ p : Nat, ∃ d, p < 2 ∧ DealDue s (pgVo p) d 3) ∧
    (∃ s : State, ∃ p : Nat, ∃ now, runs s p now ∧ (voOf s p).sounding = false) ∧
    (∃ s : State, ∃ p : Nat, ∃ now, ∃ a, ∃ rest, runs s p now ∧ (voOf s p).sounding = true ∧ (voOf s p).fifoA = a :: rest ∧ (rest ≠ [] ∨
      (voOf s p).lastA = false)) ∧
    (∃ s : State, ∃ p : Nat, ∃ now, ∃ a, ∃ rest, runs s p now ∧ (voOf s p).sounding = true ∧ (voOf s p).fifoA = a :: rest ∧ (rest ≠ [] ∨
      (voOf s p).lastA = false)) ∧
    (∃ s : State, ∃ p : Nat, ∃ now, ∃ a, runs s p now ∧ (voOf s p).sounding = true ∧ (voOf s p).fifoA = [a] ∧ (voOf s p).lastA = true) ∧
    (∃ s : State, ∃ p : Nat, ∃ now, runs s p now ∧ (voOf s p).sounding = true ∧ (voOf s p).fifoA = [] ∧ (voOf s p).lastA = false) ∧
    (∃ s : State, ∃ p : Nat, ∃ now, ∃ b, p < 2 ∧ enabled s (pgVo p) = true ∧ (b, true) ∈ (voOf s p).launches ∧ 64 * b + 500 ≤ now ∧ now
      < 2 ^ 64) ∧
    (∃ s : State, ∃ p : Nat, ∃ now, ∃ b, p < 2 ∧ enabled s (pgVo p) = true ∧ (voOf s p).launches = [(b, false)] ∧ 64 * b + 500 ≤ now) :=
      by
  refine ⟨⟨armed (pgVo 0) 2, 0, ⟨0, 0⟩, ?_⟩, ⟨armed (pgVo 1) 2, 1, ⟨0, 0⟩, ?_⟩, ⟨armed (pgVo 1) 3, 1, ⟨0, 0⟩, ?_⟩, ⟨voice VoSt.empty,
    0, 0, ?_⟩, ⟨voice { VoSt.empty with sounding := true, fifoA := [[1], [2]], lastA := true }, 0, 0, [1], [[2]], ?_⟩,
    ⟨voice { VoSt.empty with sounding := true, fifoA := [[1]] }, 0, 0, [1], [], ?_⟩,
    ⟨voice { VoSt.empty with sounding := true, fifoA := [[1]], lastA := true }, 0, 0, [1], ?_⟩,
    ⟨voice { VoSt.empty with sounding := true }, 0, 0, ?_⟩, ⟨voice { VoSt.empty with launches := [(1, true)] }, 0, 564, 1, ?_⟩,
    ⟨voice { VoSt.empty with launches := [(1, false)] }, 0, 564, 1, ?_⟩⟩ <;>
    first
    | decide +kernel
    | (simp only [Admitted, Readable, DealDue, Issues, Dispatches, MayPut, reduceCtorEq, LaneFn.table.injEq, forall_eq', false_imp_iff, ne_eq,
        not_false_eq_true, implies_true]; done)
    | (simp only [Admitted, Readable, DealDue, Issues, Dispatches, MayPut, reduceCtorEq, LaneFn.table.injEq, forall_eq', false_imp_iff, ne_eq,
        not_false_eq_true, implies_true]; decide +kernel)

theorem test_hyps_EchoReference :
    (∃ s : State, enabled s (pgVo 0) = true) ∧
    (∃ s : State, enabled s (pgVo 0) = true ∧ bitOf (rd s (pgVo 0) Off.VO_GAIN) 16 = true) ∧
    (∃ s : State, enabled s (pgVo 0) = false) := by
  refine ⟨⟨voice VoSt.empty, ?_⟩, ⟨withRegs [(pgVo 0, Off.VO_GAIN, 0x10000)] (voice VoSt.empty), ?_⟩, ⟨up, ?_⟩⟩ <;>
    first
    | decide +kernel
    | (simp only [Admitted, Readable, DealDue, Issues, Dispatches, MayPut, reduceCtorEq, LaneFn.table.injEq, forall_eq', false_imp_iff, ne_eq,
        not_false_eq_true, implies_true]; done)
    | (simp only [Admitted, Readable, DealDue, Issues, Dispatches, MayPut, reduceCtorEq, LaneFn.table.injEq, forall_eq', false_imp_iff, ne_eq,
        not_false_eq_true, implies_true]; decide +kernel)

theorem test_hyps_Frames :
    let live (s : State) (r : Nat) : Prop := csiLive s r = true
    let takes (s : State) (r : Nat) : Prop := live s r ∧ (csiOf s r).burst = true
    let cfg (s : State) (r k : Nat) : Word := rd s (pgCsi r) (Off.CSI_STREAM_CFG + 0x10 * k)
    let waits (s : State) (r : Nat) : Bool := flag s (pgCsi r) Off.CSI_CFG 16 && !flag s (pgCsi r) Off.STATUS 13
    (∃ s : State, ∃ r, live s r ∧ waits s r = true) ∧
    (∃ s : State, ∃ r, live s r ∧ waits s r = false) ∧
    (∃ s : State, ∃ r, live s r ∧ waits s r = false) ∧
    (∃ s : State, ∃ r, live s r) ∧
    (∃ s : State, ∃ r, live s r) ∧
    (∃ s : State, ∃ r, takes s r) ∧
    (∃ s : State, ∃ r, ∃ vc, ∃ ecc : Ecc, ∃ k, takes s r ∧ (∀ v, ecc ≠ .bad v) ∧ k < 4 ∧ cfgEn (cfg s r k) = true ∧ cfgVc (cfg s r k) =
      vc ∧ enabled s (pgCsi r) = true ∧ flag s (pgCsi r) Off.CSI_GATE 0 = true) ∧
    (∃ s : State, ∃ r, ∃ vc, ∃ ecc : Ecc, ∃ k, takes s r ∧ (∀ v, ecc ≠ .bad v) ∧ k < 4 ∧ cfgEn (cfg s r k) = true ∧ cfgVc (cfg s r k) =
      vc ∧ enabled s (pgCsi r) = true ∧ flag s (pgCsi r) Off.CSI_GATE 0 = true) ∧
    (∃ s : State, ∃ r, ∃ vc, ∃ ecc : Ecc, ∃ k, ∃ f, takes s r ∧ (∀ v, ecc ≠ .bad v) ∧ k < 4 ∧ (csiSlot s r k).frame = some f ∧ cfgEn
      f.cfg = true ∧ cfgVc f.cfg = vc) ∧
    (∃ s : State, ∃ r, ∃ vc, ∃ ecc : Ecc, ∃ k, ∃ f, takes s r ∧ (∀ v, ecc ≠ .bad v) ∧ k < 4 ∧ (csiSlot s r k).frame = some f ∧ cfgEn
      f.cfg = true ∧ cfgVc f.cfg = vc) := by
  refine ⟨⟨withRegs [(pgCsi 3, Off.CSI_CFG, 0x10000)] up, 3, ?_⟩, ⟨up, 3, ?_⟩, ⟨withRegs [(pgCsi 3, Off.CSI_CFG, 0x10000), (pgCsi 3,
    Off.STATUS, 0x2000)] up, 3, ?_⟩, ⟨up, 0, ?_⟩, ⟨up, 3, ?_⟩, ⟨camera none [], 3, ?_⟩, ⟨withRegs [(pgCsi 3, Off.CSI_STREAM_CFG + 48,
    0x6A5), (pgCsi 3, Off.CTRL, 1), (pgCsi 3, Off.CSI_GATE, 1)] (camera none []), 3, 5, .clean, 3, ?_⟩, ⟨withRegs [(pgCsi 3,
    Off.CSI_STREAM_CFG + 48, 0x6A5), (pgCsi 3, Off.CTRL, 1), (pgCsi 3, Off.CSI_GATE, 1)] (camera none []), 3, 5, .corrected, 3, ?_⟩,
    ⟨camera (some (csiFrame 0x6A5)) [], 3, 5, .clean, 3, csiFrame 0x6A5, ?_⟩, ⟨camera (some (csiFrame 0x6A5)) [], 3, 5, .corrected, 3,
    csiFrame 0x6A5, ?_⟩⟩ <;>
    first
    | decide +kernel
    | (simp only [Admitted, Readable, DealDue, Issues, Dispatches, MayPut, reduceCtorEq, LaneFn.table.injEq, forall_eq', false_imp_iff, ne_eq,
        not_false_eq_true, implies_true]; done)
    | (simp only [Admitted, Readable, DealDue, Issues, Dispatches, MayPut, reduceCtorEq, LaneFn.table.injEq, forall_eq', false_imp_iff, ne_eq,
        not_false_eq_true, implies_true]; decide +kernel)

theorem test_hyps_Lines :
    let takes (s : State) (r : Nat) (ecc : Ecc) : Prop :=
      csiLive s r = true ∧ (csiOf s r).burst = true ∧ ∀ v, ecc ≠ .bad v
    let opens (s : State) (r k vc : Nat) (f : CsiFrame) : Prop :=
      k < 4 ∧ (csiSlot s r k).frame = some f ∧ cfgEn f.cfg = true ∧ cfgVc f.cfg = vc
    let inLine (f : CsiFrame) (line : List Byte) : List (List Nat) :=
      fitLine (cfgDt f.cfg) (cfgPad f.cfg) f.width (unpackLine (cfgDt f.cfg) line)
    let first (s : State) (r vc dt k : Nat) : Prop := ((vcSlots s r vc).filter fun j => cfgDt (slotCfg s r j) == dt).head? = some k
    (∃ s : State, ∃ r, ∃ vc, ∃ ecc : Ecc, ∃ k, ∃ f, takes s r ecc ∧ opens s r k vc f ∧ cfgLineNo f.cfg = true) ∧
    (∃ s : State, ∃ r, takes s r .clean) ∧
    (∃ s : State, ∃ r, takes s r .corrected) ∧
    (∃ s : State, ∃ r, ∃ ecc : Ecc, takes s r ecc) ∧
    (∃ s : State, ∃ r, ∃ vc, ∃ dt, ∃ ecc : Ecc, takes s r ecc ∧ (∀ k, ¬ first s r vc dt k)) ∧
    (∃ s : State, ∃ r, ∃ vc, ∃ dt, ∃ ecc : Ecc, ∃ k, ∃ f, takes s r ecc ∧ opens s r k vc f ∧ first s r vc dt k ∧ f.cutLine = 0xFFFF ∧
      f.next < f.height ∧ (f.announced = none ∨ f.announced = some (f.next + 1))) ∧
    (∃ s : State, ∃ r, ∃ vc, ∃ dt, ∃ ecc : Ecc, ∃ k, ∃ f, takes s r ecc ∧ opens s r k vc f ∧ first s r vc dt k ∧ f.cutLine = 0xFFFF ∧
      f.next < f.height ∧ (f.announced = none ∨ f.announced = some (f.next + 1))) ∧
    (∃ s : State, ∃ r, ∃ vc, ∃ dt, ∃ ecc : Ecc, ∃ bs : List Byte, ∃ k, ∃ f, takes s r ecc ∧ opens s r k vc f ∧ first s r vc dt k ∧
      f.cutLine = 0xFFFF ∧ f.next < f.height ∧ (f.announced = none ∨ f.announced = some (f.next + 1)) ∧ cfgQueue f.cfg = true ∧
      fifoBytes ((csiSlot s r k).fifo ++ [(f.id, packLine (cfgDt f.cfg) (inLine f bs))]) ≤ 65536) := by
  refine ⟨⟨camera (some (csiFrame 0x26A5)) [], 3, 5, .clean, 3, csiFrame 0x26A5, ?_⟩, ⟨camera none [], 3, ?_⟩, ⟨camera none [], 3,
    ?_⟩, ⟨camera none [], 3, .corrected, ?_⟩, ⟨camera none [], 3, 0, 0, .clean, ⟨by decide +kernel, by decide +kernel, nofun⟩,
    fun _ h => nomatch h.symm.trans (show _ = none by decide +kernel)⟩, ⟨camera (some (csiFrame 0x6A5)) [], 3, 5, 0x2A, .clean, 3,
    csiFrame 0x6A5, ?_⟩, ⟨camera (some { csiFrame 0x6A5 with next := 3, announced := some 4 }) [], 3, 5, 0x2A, .clean, 3,
    { csiFrame 0x6A5 with next := 3, announced := some 4 }, ?_⟩, ⟨camera (some (csiFrame 0xEA5)) [], 3, 5, 0x2A, .clean, [1, 2, 3, 4],
    3, csiFrame 0xEA5, ?_⟩⟩ <;>
    first
    | decide +kernel
    | (simp only [Admitted, Readable, DealDue, Issues, Dispatches, MayPut, reduceCtorEq, LaneFn.table.injEq, forall_eq', false_imp_iff, ne_eq,
        not_false_eq_true, implies_true]; done)
    | (simp only [Admitted, Readable, DealDue, Issues, Dispatches, MayPut, reduceCtorEq, LaneFn.table.injEq, forall_eq', false_imp_iff, ne_eq,
        not_false_eq_true, implies_true]; decide +kernel)

theorem test_hyps_Capture :
    let reads (s : State) (w : Func) (r vc : Nat) : Prop := Readable s w (pgCsi r) (Off.CSI_VC_ERR + 4 * (vc % 16))
    let pulse (s : State) (r : Nat) : Nat := fld s (pgCsi r) Off.CSI_FSYNC 0 12 * 1000
    (∃ s : State, ∃ r, ∃ k, ∃ f : CsiFrame, k < 4 ∧ (csiSlot s r k).frame = some f ∧ csiLive s r = true ∧ f.limit ≠ 0 ∧ elapsed s
      f.opened (f.sofTt % 64 + f.limit) = true) ∧
    (∃ s : State, ∃ r, ∃ k, ∃ f : CsiFrame, k < 4 ∧ (csiSlot s r k).frame = some f ∧ f.due = true) ∧
    (∃ s : State, ∃ r, ∃ k, ∃ f : CsiFrame, ∃ rest, k < 4 ∧ pagePresent s.part (pgCsi r) = true ∧ pageOn s (pgCsi r) = true ∧ (csiSlot s
      r k).closing = f :: rest ∧ linesWait (csiSlot s r k) f = false) ∧
    (∃ s : State, ∃ r, ∃ d, DealDue s (pgCsi r) d 2) ∧
    (∃ s : State, ∃ r, pageOn s (pgCsi r) = true ∧ (csiOf s r).fsyncHigh = true ∧ elapsed s (csiOf s r).fsyncAt (pulse s r) = true) ∧
    (∃ s : State, ∃ r, ∃ d, DealDue s (pgCsi r) d 3) ∧
    (∃ s : State, ∃ r, ∃ d, DealDue s (pgCsi r) d 4) ∧
    (∃ s : State, ∃ w : Func, ∃ r, ∃ vc, reads s w r vc) := by
  refine ⟨⟨atBeat 1 (camera (some (csiFrame 0x6A5)) []), 3, 3, csiFrame 0x6A5, ?_⟩,
    ⟨camera (some { csiFrame 0x6A5 with due := true }) [], 3, 3, { csiFrame 0x6A5 with due := true }, ?_⟩,
    ⟨camera none [csiFrame 0x6A5], 3, 3, csiFrame 0x6A5, [], ?_⟩, ⟨armed (pgCsi 3) 2, 3, ⟨0, 0⟩, ?_⟩, ⟨withRegs [(pgCsi 3,
    Off.CSI_FSYNC, 1)] (atBeat 16 (camera none [])), 3, ?_⟩, ⟨armed (pgCsi 3) 3, 3, ⟨0, 0⟩, ?_⟩, ⟨armed (pgCsi 3) 4, 3, ⟨0, 0⟩, ?_⟩,
    ⟨up, .pf, 3, 15, ?_⟩⟩ <;>
    first
    | decide +kernel
    | (simp only [Admitted, Readable, DealDue, Issues, Dispatches, MayPut, reduceCtorEq, LaneFn.table.injEq, forall_eq', false_imp_iff, ne_eq,
        not_false_eq_true, implies_true]; done)
    | (simp only [Admitted, Readable, DealDue, Issues, Dispatches, MayPut, reduceCtorEq, LaneFn.table.injEq, forall_eq', false_imp_iff, ne_eq,
        not_false_eq_true, implies_true]; decide +kernel)

theorem test_hyps_Pipelines :
    (∃ s : State, ∃ n, slicesGo s n = true) ∧
    (∃ s : State, ∃ n, pagePresent s.part (pgIsp n) = true ∧ pageOn s (pgIsp n) = true ∧ (ispOf s n).slice = none ∧ fenced s (pgIsp n) =
      false ∧ ∃ i < 16, (readyLine s n i).isSome = true) ∧
    (∃ s : State, ∃ n, ∃ i, ∃ start, ∃ len, ∃ f, (ispOf s n).slice = some (i, start, len) ∧ start + len ≤ s.tt.beats ∧ oldestFrame s n i
      = some f) ∧
    (∃ s : State, ∃ w : Func, ∃ n, Admitted s w (pgIsp n) Off.ISP_TBL_DATA) ∧
    (∃ s : State, ∃ w : Func, ∃ n, Readable s w (pgIsp n) Off.ISP_TBL_DATA) ∧
    (∃ s : State, ∃ w : Func, ∃ n, Admitted s w (pgIsp n) Off.ISP_XTBL_DATA) ∧
    (∃ s : State, ∃ w : Func, ∃ n, Readable s w (pgIsp n) Off.ISP_XTBL_DATA) := by
  refine ⟨⟨imaging none, 0, ?_⟩, ⟨imaging none, 0, ?_⟩, ⟨atBeat 7 (imaging (some (15, 0, 7))), 0, 15, 0, 7,
    (oldestFrame (imaging none) 0 15).get (by decide +kernel), ?_⟩, ⟨up, .pf, 0, ?_⟩, ⟨up, .mgmt, 0, ?_⟩, ⟨withRegs [(pgIsp 0,
    Off.CTRL, 5)] up, .pf, 0, ?_⟩, ⟨up, .mgmt, 0, ?_⟩⟩ <;>
    first
    | decide +kernel
    | (simp only [Admitted, Readable, DealDue, Issues, Dispatches, MayPut, reduceCtorEq, LaneFn.table.injEq, forall_eq', false_imp_iff, ne_eq,
        not_false_eq_true, implies_true]; done)
    | (simp only [Admitted, Readable, DealDue, Issues, Dispatches, MayPut, reduceCtorEq, LaneFn.table.injEq, forall_eq', false_imp_iff, ne_eq,
        not_false_eq_true, implies_true]; decide +kernel)

theorem test_hyps_Kernels :
    let entry (s : State) (t off : Nat) : Launch := { words := eightWords s (pgMx t) off, queue := none, beat := beatNo s }
    let written (s : State) (t : Nat) (v : Word) : Launch :=
      { words := (eightWords s (pgMx t) Off.TILE_LAUNCH).take 7 ++ [v.toNat], queue := none, beat := beatNo s }
    let takes (s : State) (t : Nat) (l : Launch) : Prop :=
      launchOk s l = true ∧ fdOwnsTile s t l.ctx = true ∧ (tileOf s t).fifo.length < 16
    let ends (s : State) (t pc : Nat) (k : Kernel) : Prop :=
      (tileOf s t).kernel = some k ∧ tileLive s t = true ∧ fetchOk s k.regions k.launch.ctx pc = true
    (∃ s : State, ∃ w : Func, ∃ t, ∃ v, Admitted s w (pgMx t) (Off.TILE_LAUNCH + 28) ∧ takes s t (written s t v)) ∧
    (∃ s : State, ∃ w : Func, ∃ t, Admitted s w (pgMx t) (Off.TILE_LAUNCH + 28) ∧ 16 ≤ (tileOf s t).fifo.length) ∧
    (∃ s : State, ∃ t, ∃ d : DealSt, DealDue s (pgMx t) d 2 ∧ takes s t (entry s t Off.TILE_DEAL_ENTRY)) ∧
    (∃ s : State, ∃ t, ∃ l : Launch, ∃ rest, (tileOf s t).kernel = none ∧ (tileOf s t).fifo = l :: rest ∧ tileLive s t = true ∧
      enabledFor s (pgMx t) l.ctx = true ∧ (tileOf s t).ended ≠ some s.tt.beats ∧ fetchOk s (openRegions s t) l.ctx (l.word 0) = true) ∧
    (∃ s : State, ∃ c : Instr, ∃ t, ∃ q, ∃ i : Issue, ∃ free : TileWait → Bool, ∃ k : Kernel, unitOf s c = some (t, q, i, free) ∧
      Dispatches s t q.unit i k ∧ mayStart s t q i free k = false) ∧
    (∃ s : State, ∃ c : Instr, ∃ t, ∃ q, ∃ i : Issue, ∃ free : TileWait → Bool, unitOf s c = some (t, q, i, free) ∧ isQueued (tileOf s
      t) q.unit i = false ∧ unitRoom (tileOf s t) q.unit = false) ∧
    (∃ s : State, ∃ c : Instr, ∃ t, ∃ q, ∃ i : Issue, ∃ free : TileWait → Bool, ∃ k : Kernel, unitOf s c = some (t, q, i, free) ∧
      (tileOf s t).kernel = some k ∧ tileLive s t = true ∧ isQueued (tileOf s t) q.unit i = false ∧ unitRoom (tileOf s t) q.unit = true
      ∧ fetchOk s k.regions k.launch.ctx i.pc = false) ∧
    (∃ s : State, ∃ t, ∃ k : Kernel, ∃ pc, ends s t pc k ∧ ((tileOf s t).waits ≠ [] ∨ (tileOf s t).queued ≠ [])) ∧
    (∃ s : State, ∃ t, ∃ k : Kernel, ∃ pc, ends s t pc k ∧ (tileOf s t).waits = [] ∧ (tileOf s t).queued = []) ∧
    (∃ s : State, ∃ t, ∃ k : Kernel, ∃ pc, ends s t pc k) := by
  refine ⟨⟨withRegs [(pgMx 2, Off.TILE_LAUNCH + 4, 5)] (tenantUp 0x33), .pf, 2, 0, ?_⟩,
    ⟨tile2 { TileSt.empty with fifo := List.replicate 16 launch5 }, .pf, 2, ?_⟩, ⟨withRegs [(pgMx 2, Off.TILE_DEAL_ENTRY + 4,
    5)] (armedOn (tenantUp 0x33) (pgMx 2) 2), 2, ⟨0, 0⟩, ?_⟩, ⟨withRegs [(pgMx 2, Off.CTRL, 1), (pgTsp 2, Off.TSP_REGION_BASE,
    0x1000), (pgTsp 2, Off.TSP_REGION_CFG, 0x1403)] (tile2 { TileSt.empty with fifo := [launch5] }), 2, launch5, [], ?_⟩, ⟨running,
    .set 2 ⟨0, [3], [], false⟩ 0 0, 2, unitEntry unitSync ⟨0, [3], [], false⟩, ⟨0, [3], [], false⟩, syncFree, kernel5, rfl,
    ⟨by decide +kernel, by decide +kernel, .inr ⟨by decide +kernel, by decide +kernel⟩⟩, by decide +kernel⟩,
    ⟨tile2 { TileSt.empty with kernel := some kernel5, queued := List.replicate 8 ⟨unitSync, 7, false, false, []⟩ }, .set 2 issue 0 0,
    2, unitEntry unitSync issue, issue, syncFree, rfl, by decide +kernel, by decide +kernel⟩, ⟨running, .set 2 ⟨65536, [], [],
    false⟩ 0 0, 2, unitEntry unitSync ⟨65536, [], [], false⟩, ⟨65536, [], [], false⟩, syncFree, kernel5, rfl, by decide +kernel,
    by decide +kernel, by decide +kernel, by decide +kernel, by decide +kernel⟩,
    ⟨tile2 { TileSt.empty with kernel := some kernel5, waits := [.counter 0 1 issue] }, 2, kernel5, 255, ?_⟩, ⟨running, 2, kernel5,
    255, ?_⟩, ⟨running, 2, kernel5, 255, ?_⟩⟩ <;>
    first
    | decide +kernel
    | (simp only [Admitted, Readable, DealDue, Issues, Dispatches, MayPut, reduceCtorEq, LaneFn.table.injEq, forall_eq', false_imp_iff, ne_eq,
        not_false_eq_true, implies_true]; done)
    | (simp only [Admitted, Readable, DealDue, Issues, Dispatches, MayPut, reduceCtorEq, LaneFn.table.injEq, forall_eq', false_imp_iff, ne_eq,
        not_false_eq_true, implies_true]; decide +kernel)

theorem test_hyps_Arithmetic :
    let planes (s : State) (k : Kernel) (o : MatrixOp) : Prop :=
      pairOk o.wFmt o.aFmt = true ∧ 1 ≤ o.batch ∧ o.batch ≤ 64 ∧ 1 ≤ o.blocks ∧ ownOk s k false o.wBase (blockBytes o.wFmt * o.blocks) = true ∧
        (o.wFmt.blocked = true → ownOk s k false o.wScale (128 * o.blocks) = true) ∧
        (o.wFmt.isInt = true → ownOk s k false o.records 512 = true) ∧
        ∀ v < o.batch, ownOk s k false (o.aBase + v * o.aPitch) (o.aFmt.bytes (64 * o.blocks)) = true ∧
          (o.aFmt.blocked = true → ownOk s k false (o.aScale + v * o.sPitch) (2 * o.blocks) = true)
    let wide (o : VectorOp) : Nat := match o.fn with | .transpose => 4 | _ => 1
    let sources (o : VectorOp) : Prop := o.a + wide o ≤ 32 ∧ o.b < 32 ∧ o.c < 32 ∧ ∀ n, o.fn = .table n → n < 7
    let wideRows (o : QuantOp) : Nat := if o.fmt.blocked then ceilDiv o.cols 32 else 1
    let rows (o : QuantOp) : Nat := ceilDiv o.count o.cols
    let planeBytes (o : QuantOp) : Nat × Nat :=
      (rows o * elemPitch o.fmt o.cols, rows o * (if o.fmt.blocked then scalePitch o.cols else 1))
    let quantises (o : QuantOp) : Prop :=
      quantFmt o.fmt = true ∧ o.point < 16 ∧ 1 ≤ o.cols ∧ (o.fmt.blocked = false → o.cols ≤ 4096) ∧ 256 * o.src + o.count ≤ 8192
    (∃ s : State, ∃ t, ∃ i, ∃ o : MatrixOp, ∃ k : Kernel, Issues s t (unitEntry unitMatrix i) i (unitFree unitMatrix) k ∧ planes s k o ∧
      o.drain = none) ∧
    (∃ s : State, ∃ t, ∃ i, ∃ o : MatrixOp, ∃ k : Kernel, Issues s t (unitEntry unitMatrix i) i (unitFree unitMatrix) k ∧ planes s k o ∧
      o.drain = none) ∧
    (∃ s : State, ∃ t, ∃ i, ∃ o : MatrixOp, ∃ k : Kernel, ∃ r, Issues s t (unitEntry unitMatrix i) i (unitFree unitMatrix) k ∧ planes s
      k o ∧ o.drain = some r ∧ 256 * r + 64 * o.batch ≤ 8192) ∧
    (∃ s : State, ∃ t, ∃ i, ∃ o : VectorOp, ∃ k : Kernel, Issues s t (vectorEntry i (destWrites o.dst)) i (unitFree unitVector) k ∧
      sources o ∧ MayPut s t k (vectorLanes t o s).1.length o.dst) ∧
    (∃ s : State, ∃ t, ∃ i, ∃ o : VectorOp, ∃ k : Kernel, Issues s t (vectorEntry i (destWrites o.dst)) i (unitFree unitVector) k ∧
      sources o ∧ MayPut s t k (vectorLanes t o s).1.length o.dst) ∧
    (∃ s : State, ∃ t, ∃ i, ∃ o : VectorOp, ∃ k : Kernel, Issues s t (vectorEntry i (destWrites o.dst)) i (unitFree unitVector) k ∧
      sources o ∧ MayPut s t k (vectorLanes t o s).1.length o.dst) ∧
    (∃ s : State, ∃ t, ∃ i, ∃ o : VectorOp, ∃ k : Kernel, Issues s t (vectorEntry i (destWrites o.dst)) i (unitFree unitVector) k ∧
      sources o ∧ MayPut s t k (vectorLanes t o s).1.length o.dst) ∧
    (∃ s : State, ∃ t, ∃ i, ∃ o : VectorOp, ∃ k : Kernel, Issues s t (vectorEntry i (destWrites o.dst)) i (unitFree unitVector) k ∧
      sources o ∧ MayPut s t k (vectorLanes t o s).1.length o.dst) ∧
    (∃ s : State, ∃ t, ∃ i, ∃ o : VectorOp, ∃ k : Kernel, Issues s t (vectorEntry i (destWrites o.dst)) i (unitFree unitVector) k ∧
      sources o ∧ MayPut s t k (vectorLanes t o s).1.length o.dst) ∧
    (∃ s : State, ∃ t, ∃ i, ∃ o : RequantOp, ∃ k : Kernel, Issues s t (vectorEntry i (destWrites o.dst)) i (unitFree unitVector) k ∧
      o.width ∈ [4, 8, 16, 32] ∧ 1 ≤ o.run ∧ 1 ≤ o.chans ∧ 256 * o.src + o.count ≤ 8192 ∧ ownOk s k false o.records (8 * Nat.min o.chans
      (ceilDiv o.count o.run)) = true ∧ MayPut s t k o.count o.dst) ∧
    (∃ s : State, ∃ t, ∃ i, ∃ o : RequantOp, ∃ k : Kernel, Issues s t (vectorEntry i (destWrites o.dst)) i (unitFree unitVector) k ∧
      o.width ∈ [4, 8, 16, 32] ∧ 1 ≤ o.run ∧ 1 ≤ o.chans ∧ 256 * o.src + o.count ≤ 8192 ∧ ownOk s k false o.records (8 * Nat.min o.chans
      (ceilDiv o.count o.run)) = true ∧ MayPut s t k o.count o.dst) ∧
    (∃ s : State, ∃ t, ∃ i, ∃ o : QuantOp, ∃ k : Kernel, ∃ c, ∃ g, Issues s t (vectorEntry i (quantWrites o.dst)) i (unitFree
      unitVector) k ∧ quantises o ∧ o.dst = .regs c g ∧ 256 * c + o.count ≤ 8192 ∧ 256 * g + rows o * wideRows o ≤ 8192) ∧
    (∃ s : State, ∃ t, ∃ i, ∃ o : QuantOp, ∃ k : Kernel, ∃ e, ∃ g, Issues s t (vectorEntry i (quantWrites o.dst)) i (unitFree
      unitVector) k ∧ quantises o ∧ o.dst = .planes none e g ∧ ownOk s k true e (planeBytes o).1 = true ∧ ownOk s k true g (planeBytes
      o).2 = true) ∧
    (∃ s : State, ∃ t, ∃ i, ∃ o : QuantOp, ∃ k : Kernel, ∃ e, ∃ g, Issues s t (vectorEntry i (quantWrites o.dst)) i (unitFree
      unitVector) k ∧ quantises o ∧ o.dst = .planes none e g ∧ ownOk s k true e (planeBytes o).1 = true ∧ ownOk s k true g (planeBytes
      o).2 = true) ∧
    (∃ s : State, ∃ t, ∃ i, ∃ o : QuantOp, ∃ k : Kernel, ∃ we : GenWalk, ∃ wg : GenWalk, Issues s t (vectorEntry i (quantWrites o.dst))
      i (unitFree unitVector) k ∧ quantises o ∧ o.dst = .gen .own we .own wg ∧ walkOk we = true ∧ walkOk wg = true ∧ spotsOk s k.regions
      k.launch.ctx true we = true ∧ spotsOk s k.regions k.launch.ctx true wg = true) ∧
    (∃ s : State, ∃ t, ∃ i, ∃ o : QuantOp, ∃ k : Kernel, ∃ f : Nat, ∃ e, ∃ g, Issues s t (vectorEntry i (quantWrites o.dst)) i (unitFree
      unitVector) k ∧ quantises o ∧ o.dst = .planes (some f) e g ∧ tileLive s f = true ∧ admits s f k.launch.ctx = true ∧ sramOk s
      (farRegions s k f) k.launch.ctx true e (planeBytes o).1 = true ∧ sramOk s (farRegions s k f) k.launch.ctx true g (planeBytes o).2
      = true) := by
  refine ⟨⟨running, 2, issue, ⟨.mxint8, .mxint8, 4096, 4096, 1, 4096, 0, 4096, 0, 64, 4096, none⟩, kernel5, ?_⟩, ⟨running, 2, issue,
    ⟨.int4, .int8, 4096, 0, 2, 4096, 64, 4096, 0, 1, 4096, none⟩, kernel5, ?_⟩, ⟨running, 2, issue, ⟨.mxint8, .mxint8, 4096, 4096, 1,
    4096, 0, 4096, 0, 64, 4096, some 16⟩, kernel5, 16, ?_⟩, ⟨running, 2, issue, ⟨.add, false, 31, 31, 31, .reg 31⟩, kernel5, ?_⟩,
    ⟨running, 2, issue, ⟨.transpose, false, 28, 0, 0, .reg 28⟩, kernel5, ?_⟩, ⟨running, 2, issue, ⟨.table 6, true, 0, 0, 0, .reg 0⟩,
    kernel5, ?_⟩, ⟨running, 2, issue, ⟨.add, false, 0, 1, 2, .gen .own ⟨4096, [(256, 4)], 8⟩⟩, kernel5, ?_⟩, ⟨dataOf 63 running, 2,
    issue, ⟨.add, false, 0, 1, 2, .remote 63 ⟨4096, [(256, 4)], 8⟩⟩, kernel5, ?_⟩, ⟨pooled, 2, issue, ⟨.add, false, 0, 1, 2,
    .gen (.home ⟨none, 0⟩) ⟨0, [(256, 4)], 8⟩⟩, kernel5, ?_⟩, ⟨running, 2, issue, ⟨31, 256, 1, 64, 4096, 32, .reg 31⟩, kernel5, ?_⟩,
    ⟨running, 2, issue, ⟨0, 4, 1, 4, 4096, 32, .gen (.tokens 0) ⟨0, [(4, 4)], 8⟩⟩, kernel5, ?_⟩, ⟨running, 2, issue, ⟨15, .int8, true,
    31, 256, 64, .regs 0 1⟩, kernel5, 0, 1, ?_⟩, ⟨running, 2, issue, ⟨15, .int8, true, 31, 256, 64, .planes none 4096 8192⟩, kernel5,
    4096, 8192, ?_⟩, ⟨running, 2, issue, ⟨0, .mxint8, true, 0, 256, 1, .planes none 4096 16384⟩, kernel5, 4096, 16384, ?_⟩, ⟨running,
    2, issue, ⟨0, .int8, true, 0, 4, 4, .gen .own (walk4 4096) .own (walk4 8192)⟩, kernel5, walk4 4096, walk4 8192, ?_⟩,
    ⟨dataOf 63 running, 2, issue, ⟨15, .int8, true, 31, 256, 64, .planes (some 63) 4096 8192⟩, kernel5, 63, 4096, 8192, ?_⟩⟩ <;>
    first
    | decide +kernel
    | (simp only [Admitted, Readable, DealDue, Issues, Dispatches, MayPut, reduceCtorEq, LaneFn.table.injEq, forall_eq', false_imp_iff, ne_eq,
        not_false_eq_true, implies_true]; done)
    | (simp only [Admitted, Readable, DealDue, Issues, Dispatches, MayPut, reduceCtorEq, LaneFn.table.injEq, forall_eq', false_imp_iff, ne_eq,
        not_false_eq_true, implies_true]; decide +kernel)

theorem test_hyps_StateWindowWalk :
    let may (s : State) (t : Nat) (o : StateOp) (k : Kernel) : Prop :=
      1 ≤ o.tokens ∧ o.tokens ≤ 64 ∧ o.segs ≠ [] ∧ (o.segs.map (·.seg)).Nodup ∧ ∀ q ∈ o.segs, segSteps s t k.launch.ctx q.seg = true ∧
        slotValid s t (segOf s t q.seg).table = true ∧ segAccess s k (segOf s t q.seg) q o.tokens = 0
    let puts (s : State) (t : Nat) (o : StateOp) (k : Kernel) : Prop :=
      ∀ q ∈ o.segs, (segOf s t q.seg).zeroing = false ∧ MayPut s t k ((segOf s t q.seg).channels * o.tokens) q.y
    let win (s : State) (t : Nat) (o : WindowOp) : Win := winOf (sramRead s t o.desc 64)
    let mayWin (s : State) (t : Nat) (o : WindowOp) (k : Kernel) : Prop :=
      ownOk s k false o.desc 64 = true ∧ (win s t o).tileOk = true ∧ winOperands s k o (win s t o) = 0 ∧
        ∀ y < (win s t o).rows, (winReads s t (win s t o) k ((win s t o).row0 + y)).1 = 0 ∧
          winWrites s k o (win s t o) ((win s t o).row0 + y) = true
    let winIssues (s : State) (t : Nat) (i : Issue) (o : WindowOp) (k : Kernel) : Prop :=
      Issues s t { unitEntry (winUnit (win s t o)) i with writes := postWrites o.post } i (unitFree (winUnit (win s t o))) k ∧ mayWin s t o k
    let walks (s : State) (t : Nat) (i : Issue) (o : GenOp) (k : Kernel) : Prop :=
      Issues s t { unitEntry (genUnit i o.write) i with writes := o.write } i anyWait k ∧ walkOk o.walk = true
    let tenant (s : State) (k : Kernel) : Nat := ctxTenant s k.launch.ctx
    let asks (s : State) (t : Nat) (i : Issue) (h : Home) (host : Option (List Byte)) (k : Kernel) : Nat × List Byte × State :=
      homeFetch t h host k (bump (pgTsp t) Off.TSP_CNT_POOL_MISS 1 (atUnit s t (unitEntry (readUnit i) i) i))
    (∃ s : State, ∃ t : Nat, ∃ i, ∃ o : StateOp, ∃ k : Kernel, Issues s t (stateEntry i o) i stateFree k ∧ may s t o k ∧ puts s t o k) ∧
    (∃ s : State, ∃ t : Nat, ∃ i, ∃ o : StateOp, ∃ k : Kernel, ∃ q : SegStep, Issues s t (stateEntry i o) i stateFree k ∧ may s t o k ∧
      puts s t o k ∧ o.segs = [q] ∧ o.tokens = 1) ∧
    (∃ s : State, ∃ t : Nat, ∃ i, ∃ o : StateOp, ∃ k : Kernel, Issues s t (stateEntry i o) i stateFree k ∧ may s t o k ∧ (∃ q ∈ o.segs,
      (segOf s t q.seg).zeroing = true)) ∧
    (∃ s : State, ∃ t : Nat, ∃ i, ∃ o : WindowOp, ∃ k : Kernel, winIssues s t i o k ∧ (∀ y < (win s t o).rows, winReady s t o (win s t
      o) ((win s t o).row0 + y) = true)) ∧
    (∃ s : State, ∃ t : Nat, ∃ i, ∃ o : WindowOp, ∃ k : Kernel, winIssues s t i o k ∧ winReady s t o (win s t o) (win s t o).row0 =
      false) ∧
    (∃ s : State, ∃ t : Nat, ∃ i, ∃ o : GenOp, ∃ k : Kernel, walks s t i o k ∧ spotsOk s k.regions k.launch.ctx o.write o.walk = true) ∧
    (∃ s : State, ∃ t : Nat, ∃ i, ∃ o : GenOp, ∃ k : Kernel, walks s t i o k ∧ spotsOk s k.regions k.launch.ctx o.write o.walk = true) ∧
    (∃ s : State, ∃ t : Nat, ∃ i, ∃ h : Home, ∃ o : GenOp, ∃ k : Kernel, ∃ l : PoolLine, walks s t i o k ∧ inSlot o.walk = true ∧
      o.write = false ∧ poolFind s t h (tenant s k) = some l) ∧
    (∃ s : State, ∃ t : Nat, ∃ i, ∃ h : Home, ∃ o : GenOp, ∃ k : Kernel, ∃ l : PoolLine, ∃ x : PoolFill, walks s t i o k ∧ inSlot o.walk
      = true ∧ o.write = false ∧ poolFind s t h (tenant s k) = none ∧ poolNext s t h (tenant s k) = some l ∧ l.next = some x) ∧
    (∃ s : State, ∃ t : Nat, ∃ i, ∃ h : Home, ∃ host : Option (List Byte), ∃ o : GenOp, ∃ k : Kernel, walks s t i o k ∧ inSlot o.walk =
      true ∧ o.write = false ∧ poolFind s t h (tenant s k) = none ∧ (asks s t i h host k).1 = 0) ∧
    (∃ s : State, ∃ t : Nat, ∃ i, ∃ h : Home, ∃ host : Option (List Byte), ∃ o : GenOp, ∃ k : Kernel, walks s t i o k ∧ inSlot o.walk =
      true ∧ o.write = false ∧ poolFind s t h (tenant s k) = none ∧ poolNext s t h (tenant s k) = none ∧ (asks s t i h host k).1 = 9) ∧
    (∃ s : State, ∃ t : Nat, ∃ i, ∃ h : Home, ∃ o : GenOp, ∃ k : Kernel, ∃ l : PoolLine, walks s t i o k ∧ inSlot o.walk = true ∧
      o.write = true ∧ poolFind s t h (tenant s k) = some l) ∧
    (∃ s : State, ∃ t : Nat, ∃ i, ∃ h : Home, ∃ o : GenOp, ∃ k : Kernel, walks s t i o k ∧ inSlot o.walk = true ∧ o.write = true ∧
      memAllows s (.ctx k.launch.ctx) h true = true ∧ poolFind s t h (tenant s k) = none ∧ poolNext s t h (tenant s k) = none ∧
      chooseLine s t = none ∧ o.walk.nibbles ≠ 1) ∧
    (∃ s : State, ∃ t : Nat, ∃ i, ∃ o : GenOp, ∃ k : Kernel, walks s t i o k ∧ o.write = true ∧ o.walk.nibbles ≠ 1 ∧ (walkSpots
      o.walk).length * walkBytes o.walk = 16) ∧
    (∃ s : State, ∃ t : Nat, ∃ i, ∃ o : GenOp, ∃ k : Kernel, walks s t i o k ∧ o.write = true) := by
  refine ⟨⟨stepping false, 2, issue, ⟨[segStep], 64⟩, kernel5, ⟨⟨by decide +kernel, by decide +kernel, .inr ⟨by decide +kernel,
    by decide +kernel⟩⟩, by decide +kernel⟩, ⟨by decide +kernel, by decide +kernel, by decide +kernel, by decide +kernel,
    by decide +kernel⟩, (by intro q h; cases List.mem_singleton.mp h; exact ⟨by decide +kernel,
    show 256 * 8 + _ ≤ 8192 by decide +kernel⟩)⟩, ⟨stepping false, 2, issue, ⟨[segStep], 1⟩, kernel5, segStep, ⟨⟨by decide +kernel,
    by decide +kernel, .inr ⟨by decide +kernel, by decide +kernel⟩⟩, by decide +kernel⟩, ⟨by decide +kernel, by decide +kernel,
    by decide +kernel, by decide +kernel, by decide +kernel⟩, (by intro q h; cases List.mem_singleton.mp h; exact ⟨by decide +kernel,
    show 256 * 8 + _ ≤ 8192 by decide +kernel⟩), rfl, rfl⟩, ⟨stepping true, 2, issue, ⟨[segStep], 1⟩, kernel5, ?_⟩,
    ⟨sramWrite 2 4096 (winBytes 1 0 0xFF) running, 2, issue, ⟨4096, .int8, 0, 0, 0, 0, 0, .regs 0, []⟩, kernel5, ?_⟩,
    ⟨dataOf 63 (sramWrite 2 4096 (winBytes 2 1 63) running), 2, issue, ⟨4096, .int8, 0, 0, 0, 0, 0, .regs 0, []⟩, kernel5, ?_⟩,
    ⟨running, 2, issue, ⟨false, walk4 4096, 31⟩, kernel5, ?_⟩, ⟨running, 2, issue, ⟨true, walk4 4096, 0⟩, kernel5, ?_⟩, ⟨pooled, 2,
    issue, ⟨none, 0⟩, ⟨false, walk4 0, 0⟩, kernel5, poolLine 3, ?_⟩,
    ⟨region1 (tile2 { TileSt.empty with kernel := some kernel5, pool := [{ poolLine 5 with next := some fill0 }] }), 2, issue, ⟨none,
    0⟩, ⟨false, walk4 0, 0⟩, kernel5, { poolLine 5 with next := some fill0 }, fill0, ?_⟩, ⟨region1 running, 2, issue, ⟨none, 0⟩, none,
    ⟨false, walk4 4080, 0⟩, kernel5, ?_⟩, ⟨running, 2, issue, ⟨some 5, 4096⟩, none, ⟨false, walk4 0, 0⟩, kernel5, ?_⟩, ⟨pooled, 2,
    issue, ⟨none, 0⟩, ⟨true, walk4 0, 0⟩, kernel5, poolLine 3, ?_⟩, ⟨region1 running, 2, issue, ⟨none, 0⟩, ⟨true, walk4 0, 0⟩,
    kernel5, ?_⟩, ⟨running, 2, issue, ⟨true, walk4 0, 0⟩, kernel5, ?_⟩, ⟨running, 2, issue, ⟨true, walk4 0, 0⟩, kernel5, ?_⟩⟩ <;>
    first
    | decide +kernel
    | (simp only [Admitted, Readable, DealDue, Issues, Dispatches, MayPut, reduceCtorEq, LaneFn.table.injEq, forall_eq', false_imp_iff, ne_eq,
        not_false_eq_true, implies_true]; done)
    | (simp only [Admitted, Readable, DealDue, Issues, Dispatches, MayPut, reduceCtorEq, LaneFn.table.injEq, forall_eq', false_imp_iff, ne_eq,
        not_false_eq_true, implies_true]; decide +kernel)

theorem test_hyps_HaloAndRemote :
    let admitted (s : State) (u : Nat) (k : Kernel) (write : Bool) (w : GenWalk) : Prop :=
      walkOk w = true ∧ u < 64 ∧ tileLive s u = true ∧ admits s u k.launch.ctx = true ∧
        spotsOk s (farRegions s k u) k.launch.ctx write w = true
    let syncs (s : State) (t : Nat) (i : Issue) (k : Kernel) : Prop := Issues s t (unitEntry unitSync i) i syncFree k
    let posts (s : State) (t : Nat) (i : Issue) (k : Kernel) : Prop := Issues s t { unitEntry unitSync i with posts := true } i syncFree k
    let commits (s : State) (t : Nat) (p : HaloPost) : Prop :=
      (tileOf s t).posts.find? (postDue s t) = some p ∧ p.ctr < 64 ∧ tileLive s p.target = true ∧ admits s p.target p.ctx = true
    (∃ s : State, ∃ t, ∃ i : Issue, ∃ c, ∃ k : Kernel, syncs s t i k ∧ c < 64 ∧ haloOwner s t c k.launch.ctx = true) ∧
    (∃ s : State, ∃ t, ∃ i : Issue, ∃ c, ∃ k : Kernel, syncs s t i k ∧ (tileOf s t).waits = [] ∧ c < 64 ∧ haloOwner s t c k.launch.ctx =
      false) ∧
    (∃ s : State, ∃ t, ∃ i : Issue, ∃ g, ∃ c, ∃ v, ∃ k : Kernel, posts s t i k ∧ c < 64 ∧ g < 64 ∧ 1 ≤ v ∧ v ≤ 65535) ∧
    (∃ s : State, ∃ t, ∃ i : Issue, ∃ c, ∃ v, ∃ k : Kernel, syncs s t i k ∧ c < 64 ∧ v ≤ haloValue s t c) ∧
    (∃ s : State, ∃ t, ∃ i : Issue, ∃ c, ∃ v, ∃ k : Kernel, syncs s t i k ∧ c < 64 ∧ haloValue s t c < v) ∧
    (∃ s : State, ∃ t, ∃ p : HaloPost, commits s t p ∧ haloOwner s p.target p.ctr p.ctx = true) ∧
    (∃ s : State, ∃ t, ∃ p : HaloPost, commits s t p ∧ haloOwner s p.target p.ctr p.ctx = false ∧ (tileOf s p.target).waits = []) ∧
    (∃ s : State, ∃ t, (tileOf s t).posts.find? (postDue s t) = none) ∧
    (∃ s : State, ∃ t, ∃ g, ∃ i : Issue, ∃ walk : GenWalk, ∃ k : Kernel, Issues s t (unitEntry (readUnit i) i) i anyWait k ∧ admitted s
      g k false walk) ∧
    (∃ s : State, ∃ t, ∃ g, ∃ i : Issue, ∃ walk : GenWalk, ∃ k : Kernel, Issues s t { unitEntry unitWrite i with writes := true } i
      anyWait k ∧ admitted s g k true walk) ∧
    (∃ s : State, ∃ t, ∃ g, ∃ i : Issue, ∃ walk : GenWalk, ∃ k : Kernel, Issues s t (unitEntry (readUnit i) i) i anyWait k ∧ walkOk walk
      = true ∧ g < 64 ∧ tileLive s g = true ∧ admits s g k.launch.ctx = true ∧ spotsOk s (farRegions s k g) k.launch.ctx false walk =
      false) := by
  refine ⟨⟨owned63 2 running, 2, issue, 63, kernel5, ?_⟩, ⟨running, 2, issue, 63, kernel5, ?_⟩, ⟨running, 2, issue, 63, 63, 65535,
    kernel5, ?_⟩, ⟨running, 2, issue, 63, 0, kernel5, ?_⟩, ⟨running, 2, issue, 63, 1, kernel5, ?_⟩,
    ⟨owned63 63 (tile2 { TileSt.empty with posts := [⟨63, 63, 1, 5, 0⟩] }), 2, ⟨63, 63, 1, 5, 0⟩, ?_⟩,
    ⟨tile2 { TileSt.empty with posts := [⟨63, 63, 1, 5, 0⟩] }, 2, ⟨63, 63, 1, 5, 0⟩, ?_⟩, ⟨up, 2, ?_⟩, ⟨dataOf 63 running, 2, 63,
    issue, walk4 4096, kernel5, ?_⟩, ⟨dataOf 63 running, 2, 63, issue, walk4 4096, kernel5, ?_⟩, ⟨running, 2, 63, issue, walk4 4096,
    kernel5, ?_⟩⟩ <;>
    first
    | decide +kernel
    | (simp only [Admitted, Readable, DealDue, Issues, Dispatches, MayPut, reduceCtorEq, LaneFn.table.injEq, forall_eq', false_imp_iff, ne_eq,
        not_false_eq_true, implies_true]; done)
    | (simp only [Admitted, Readable, DealDue, Issues, Dispatches, MayPut, reduceCtorEq, LaneFn.table.injEq, forall_eq', false_imp_iff, ne_eq,
        not_false_eq_true, implies_true]; decide +kernel)

theorem test_hyps_ClocksLinksErrors :
    let req (v : Word) : Nat := fieldOf v 0 6
    let granule (a : Nat) : Nat := a / 64 * 64
    let readable (s : State) (a : Nat) : Prop :=
      a < memEnd s ∧ pagePresent s.part (pgMc (homeMd s (granule a))) = true ∧ pageOn s (pgMc (homeMd s (granule a))) = true
    (∃ s : State, ∃ w : Func, ∃ noc, ∃ k, ∃ v, Admitted s w (clkPage noc k) (clkReg noc) ∧ 8 ≤ req v ∧ req v ≤ 44) ∧
    (∃ s : State, ∃ w : Func, ∃ noc, ∃ k, ∃ v, Admitted s w (clkPage noc k) (clkReg noc) ∧ 8 ≤ req v ∧ req v ≤ 44) ∧
    (∃ s : State, ∃ w : Func, ∃ k, ∃ v, Admitted s w (pgMx k) Off.TILE_CLK ∧ (req v < 8 ∨ 44 < req v)) ∧
    (∃ s : State, ∃ w : Func, ∃ k, ∃ v, Admitted s w (pgMx k) Off.TILE_CLK ∧ (req v < 8 ∨ 44 < req v)) ∧
    (∃ s : State, ∃ noc, ∃ k, clockDue s noc k = false) ∧
    (∃ s : State, ∃ noc, ∃ k, pagePresent s.part (clkPage noc k) = true ∧ pageOn s (clkPage noc k) = true ∧ hhMode s ≠ 2 ∧ clockDue s
      noc k = true) ∧
    (∃ s : State, ∃ die, ∃ edge, ∃ m, linkLive s die edge = true ∧ m < 4 ∧ flag s (pgLink (die, edge)) Off.DL_STATUS (4 + m) = true) ∧
    (∃ s : State, ∃ die, ∃ edge, linkLive s die edge = true) ∧
    (∃ s : State, ∃ a, ∃ bits, readable s a ∧ 1 ≤ bits ∧ granule a ∉ s.mem.poison) ∧
    (∃ s : State, ∃ a, ∃ bits, readable s a ∧ 1 ≤ bits) ∧
    (∃ s : State, ∃ t, pagePresent s.part (pgMx t) = true ∧ pageOn s (pgMx t) = true ∧ flag s pgFc Off.FC_CFG 1 = false) ∧
    (∃ s : State, ∃ t, t < 64 ∧ pagePresent s.part (pgMx t) = true ∧ pageOn s (pgMx t) = true ∧ domainLive s t = true ∧ phaseOf s t = 0)
      := by
  refine ⟨⟨up, .pf, false, 63, 8, ?_⟩, ⟨up, .pf, true, 0, 44, ?_⟩, ⟨up, .pf, 0, 7, ?_⟩, ⟨up, .pf, 0, 45, ?_⟩, ⟨up, false, 3, ?_⟩,
    ⟨{ atBeat 1 up with pwr := { up.pwr with clkPend := [(3, 0)] } }, false, 3, ?_⟩, ⟨withRegs [(pgLink (0, 1), Off.DL_STATUS,
    0x10)] up, 0, 1, 0, ?_⟩, ⟨withRegs [(pgLink (0, 1), Off.DL_STATUS, 0x10)] up, 0, 1, ?_⟩, ⟨up, 0, 1, ?_⟩, ⟨up, 0, 1, ?_⟩,
    ⟨withRegs [(pgFc, Off.FC_CFG, 0)] up, 2, ?_⟩, ⟨up, 2, ?_⟩⟩ <;>
    first
    | decide +kernel
    | (simp only [Admitted, Readable, DealDue, Issues, Dispatches, MayPut, reduceCtorEq, LaneFn.table.injEq, forall_eq', false_imp_iff, ne_eq,
        not_false_eq_true, implies_true]; done)
    | (simp only [Admitted, Readable, DealDue, Issues, Dispatches, MayPut, reduceCtorEq, LaneFn.table.injEq, forall_eq', false_imp_iff, ne_eq,
        not_false_eq_true, implies_true]; decide +kernel)

theorem test_hyps_StemJobs :
    let entry (s : State) (d off : Nat) : Launch := { words := eightWords s (pgStem d) off, queue := none, beat := beatNo s }
    let written (s : State) (d : Nat) (v : Word) : Launch :=
      { words := (eightWords s (pgStem d) Off.STEM_JOB).take 7 ++ [v.toNat], queue := none, beat := beatNo s }
    let takes (s : State) (d : Nat) (l : Launch) : Prop :=
      jobOk s l = true ∧ fdOwnsStem s d l.ctx = true ∧ (stemOf s d).fifo.length < 8
    let waiting (s : State) (d n o : Nat) (x : OutLine) : Prop :=
      nextLine s n o = some x ∧ x.stem = d ∧ stemLive s d = true
    let bound (n o : Nat) (x : OutLine) (j : StemJob) : Prop :=
      j.launch.src = n + 1 ∧ j.launch.srcId = o ∧
        ((j.frame = none ∧ x.line = 0 ∧ x.lost = false) ∨ ∃ k, j.frame = some (x.frame, k))
    let starts (s : State) (d : Nat) (l : Launch) (rest : List Launch) : Prop :=
      (stemOf s d).job = none ∧ (stemOf s d).fifo = l :: rest ∧ stemLive s d = true ∧ enabledFor s (pgStem d) l.ctx = true ∧
        (stemOf s d).ended ≠ some s.tt.beats
    let ofTile (s : State) (d : Nat) (j : StemJob) : Prop := (stemOf s d).job = some j ∧ stemLive s d = true ∧ j.launch.src = 0
    let rowsDo (s : State) (d : Nat) (j : StemJob) : Bool :=
      (stemRows d j (j.win.source s (dieTile d j.launch.srcId)) (fun _ => true) (rowsLeft j.win j) j.row s).1
    let pitch (w : Win) : Nat := elemPitch .int8 w.outW
    (∃ s : State, ∃ w : Func, ∃ d, ∃ v, Admitted s w (pgStem d) (Off.STEM_JOB + 28) ∧ takes s d (written s d v)) ∧
    (∃ s : State, ∃ w : Func, ∃ d, Admitted s w (pgStem d) (Off.STEM_JOB + 28) ∧ 8 ≤ (stemOf s d).fifo.length) ∧
    (∃ s : State, ∃ d, ∃ k, DealDue s (pgStem d) k 2 ∧ takes s d (entry s d Off.STEM_DEAL_ENTRY)) ∧
    (∃ s : State, ∃ d, ∃ l : Launch, ∃ rest, starts s d l rest ∧ stemCheck s d l = 0) ∧
    (∃ s : State, ∃ d, ∃ l : Launch, ∃ rest, starts s d l rest ∧ stemCheck s d l ≠ 0) ∧
    (∃ s : State, ∃ n, ∃ o, ∃ d, ∃ x : OutLine, waiting s d n o x ∧ (∀ j, (stemOf s d).job = some j → ¬ bound n o x j)) ∧
    (∃ s : State, ∃ n, ∃ o, ∃ d, ∃ x : OutLine, ∃ j : StemJob, waiting s d n o x ∧ (stemOf s d).job = some j ∧ bound n o x j ∧ j.frame =
      none ∧ (∃ y ∈ j.win.needs j.row, 1 ≤ y)) ∧
    (∃ s : State, ∃ n, ∃ o, ∃ d, ∃ x : OutLine, ∃ j : StemJob, waiting s d n o x ∧ (stemOf s d).job = some j ∧ bound n o x j ∧ x.lost =
      true) ∧
    (∃ s : State, ∃ d, ∃ j : StemJob, ofTile s d j ∧ rowsDo s d j = true) ∧
    (∃ s : State, ∃ d, ∃ j : StemJob, ofTile s d j ∧ rowsDo s d j = false) ∧
    (∃ s : State, ∃ d, ∃ j : StemJob, ofTile s d j ∧ rowsLeft j.win j = 1 ∧ 1 ≤ j.win.rows ∧ j.win.outInt8 = true ∧ stemReads s d j
      j.row = true ∧ (∀ c < j.win.outC, stemMay s d j.launch.destTile j.launch.ctx true (j.win.outBase + (c * j.win.rows + (j.row -
      j.win.row0)) * pitch j.win) (pitch j.win) = true)) ∧
    (∃ s : State, ∃ d, ∃ j : StemJob, (stemOf s d).job = some j ∧ stemLive s d = true ∧ 1 ≤ j.launch.src ∧ rowsLeft j.win j = 0) := by
  refine ⟨⟨withRegs [(pgStem 0, Off.STEM_JOB + 4, 5)] (tenantUp 0x33), .pf, 0, 0, ?_⟩, ⟨stemming (List.replicate 8 job5) none, .pf, 0,
    ?_⟩, ⟨withRegs [(pgStem 0, Off.STEM_DEAL_ENTRY + 4, 5)] (armedOn (tenantUp 0x33) (pgStem 0) 2), 0, ⟨0, 0⟩, ?_⟩,
    ⟨stemming [job5] none, 0, job5, [], ?_⟩, ⟨stemming [launch5] none, 0, launch5, [], ?_⟩, ⟨lineWaits line0 none, 0, 0, 0, line0,
    ⟨by decide +kernel, by decide +kernel, by decide +kernel⟩, fun _ h => nomatch h.symm.trans (show _ = none by decide +kernel)⟩,
    ⟨lineWaits line0 (some (stemJob 0x02020001 1)), 0, 0, 0, line0, stemJob 0x02020001 1, ⟨by decide +kernel, by decide +kernel,
    by decide +kernel⟩, by decide +kernel, ⟨by decide +kernel, by decide +kernel, .inl ⟨by decide +kernel, by decide +kernel,
    by decide +kernel⟩⟩, by decide +kernel, by decide +kernel⟩,
    ⟨lineWaits { line0 with lost := true } (some { stemJob 0x02020001 0 with frame := some (0, 0) }), 0, 0, 0,
    { line0 with lost := true }, { stemJob 0x02020001 0 with frame := some (0, 0) }, ⟨by decide +kernel, by decide +kernel,
    by decide +kernel⟩, by decide +kernel, ⟨by decide +kernel, by decide +kernel, .inr ⟨0, by decide +kernel⟩⟩, by decide +kernel⟩,
    ⟨stemming [] (some (stemJob 0x02020200 0)), 0, stemJob 0x02020200 0, ?_⟩, ⟨withRegs [(pgTsp 2, Off.TSP_REGION_CFG,
    0)] (stemming [] (some (stemJob 0x02020200 0))), 0, stemJob 0x02020200 0, ?_⟩, ⟨stemming [] (some (stemJob 0x02020200 0)), 0,
    stemJob 0x02020200 0, ?_⟩, ⟨stemming [] (some (stemJob 0x02020001 1)), 0, stemJob 0x02020001 1, ?_⟩⟩ <;>
    first
    | decide +kernel
    | (simp only [Admitted, Readable, DealDue, Issues, Dispatches, MayPut, reduceCtorEq, LaneFn.table.injEq, forall_eq', false_imp_iff, ne_eq,
        not_false_eq_true, implies_true]; done)
    | (simp only [Admitted, Readable, DealDue, Issues, Dispatches, MayPut, reduceCtorEq, LaneFn.table.injEq, forall_eq', false_imp_iff, ne_eq,
        not_false_eq_true, implies_true]; decide +kernel)

theorem test_hyps_StateUnitWrites :
    let asked (s : State) (t : Nat) (v : Word) : Segment :=
      { segOf s t (segSel s t) with cfg := BitVec.ofNat 32 (bitsAt (segWord v true).toNat 0 23) }
    let image (m i : Nat) : Nat := Off.SU_TBL + 0x200 * m + 4 * i
    let adj (n : Nat) : Nat := Off.VE_QP_ADJ + 8 * n
    let inLimits (s : State) (t n : Nat) (v : Word) : Prop :=
      -(fld s (pgVe t) (Off.VE_QP_ADAPT + 8 * n) 20 4 : Int) ≤ signed 5 (fieldOf v 0 5) ∧
        signed 5 (fieldOf v 0 5) ≤ fld s (pgVe t) (Off.VE_QP_ADAPT + 8 * n) 16 4
    (∃ s : State, ∃ w : Func, ∃ t, ∃ v, Admitted s w (pgSu t) Off.SU_SEG_CFG ∧ (segOf s t (segSel s t)).valid = false ∧ segAccept s t
      (segSel s t) (asked s t v) = true) ∧
    (∃ s : State, ∃ w : Func, ∃ t, ∃ v, Admitted s w (pgSu t) Off.SU_SEG_CFG ∧ ((segOf s t (segSel s t)).valid = true ∨ segAccept s t
      (segSel s t) (asked s t v) = false)) ∧
    (∃ s : State, ∃ w : Func, ∃ t, ∃ v, Admitted s w (pgSu t) Off.SU_SEG_CFG ∧ ((segOf s t (segSel s t)).valid = true ∨ segAccept s t
      (segSel s t) (asked s t v) = false)) ∧
    (∃ s : State, ∃ w : Func, ∃ t, Admitted s w (pgSu t) Off.SU_SEG_CFG ∧ (segOf s t (segSel s t)).valid = true ∧ (∀ k, (tileOf s
      t).kernel = some k → segSel s t ∉ k.segs)) ∧
    (∃ s : State, ∃ w : Func, ∃ t, ∃ k : Kernel, Admitted s w (pgSu t) Off.SU_SEG_CFG ∧ (segOf s t (segSel s t)).valid = true ∧ (tileOf
      s t).kernel = some k ∧ segSel s t ∈ k.segs ∧ ranBefore s t = true) ∧
    (∃ s : State, ∃ w : Func, ∃ t, ∃ k : Kernel, Admitted s w (pgSu t) Off.SU_SEG_CFG ∧ (segOf s t (segSel s t)).valid = true ∧ (tileOf
      s t).kernel = some k ∧ segSel s t ∈ k.segs ∧ ranBefore s t = false) ∧
    (∃ s : State, ∃ t, ∃ n, tileLive s t = true ∧ (segOf s t n).zeroing = true ∧ (∀ w ∈ (tileOf s t).waits, stateFree w = true)) ∧
    (∃ s : State, ∃ t, ∃ n, ∃ o : StateOp, ∃ i : Issue, ∃ k : Kernel, tileLive s t = true ∧ (segOf s t n).zeroing = true ∧ (tileOf s
      t).waits = [.state o i] ∧ (tileOf s t).kernel = some k ∧ (∀ q ∈ o.segs, (segOf s t q.seg).zeroing = true → q.seg = n) ∧ (∀ q ∈
      o.segs, MayPut s t k ((segOf s t q.seg).channels * o.tokens) q.y)) ∧
    (∃ s : State, ∃ w : Func, ∃ t, ∃ m, ∃ i : Nat, m < 4 ∧ i < 128 ∧ Admitted s w (pgSu t) (image m i) ∧ slotLocked s t (4 + m) = false
      ∧ ranBefore s t = false) ∧
    (∃ s : State, ∃ w : Func, ∃ t, ∃ m, ∃ i : Nat, m < 4 ∧ i < 128 ∧ Admitted s w (pgSu t) (image m i) ∧ slotLocked s t (4 + m) = false
      ∧ ranBefore s t = false) ∧
    (∃ s : State, ∃ w : Func, ∃ t, ∃ m, ∃ i : Nat, m < 4 ∧ i < 128 ∧ Admitted s w (pgSu t) (image m i) ∧ slotLocked s t (4 + m) = true)
      ∧
    (∃ s : State, ∃ w : Func, ∃ t, Admitted s w (pgSu t) Off.SU_TBL_CTRL ∧ ranBefore s t = false) ∧
    (∃ s : State, ∃ w : Func, ∃ t, ∃ n, ∃ v, n < 16 ∧ Admitted s w (pgVe t) (adj n) ∧ inLimits s t n v) ∧
    (∃ s : State, ∃ w : Func, ∃ t, ∃ n, ∃ v, n < 16 ∧ Admitted s w (pgVe t) (adj n) ∧ (¬ inLimits s t n v)) := by
  refine ⟨⟨tile2 { TileSt.empty with kernel := none, segs := [(0, { segment false with cfg := 0 })] }, .pf, 2, 0x401, ?_⟩,
    ⟨tile2 { TileSt.empty with kernel := none, segs := [(0, segment false)] }, .pf, 2, 0x401, ?_⟩, ⟨tile2 TileSt.empty, .pf, 2, 0,
    ?_⟩, ⟨tile2 { TileSt.empty with kernel := none, segs := [(0, segment false)] }, .pf, 2, ⟨by decide +kernel, by decide +kernel,
    by decide +kernel⟩, by decide +kernel, fun _ h => nomatch h.symm.trans (show _ = none by decide +kernel)⟩,
    ⟨atBeat 1 (tile2 { TileSt.empty with kernel := some { kernel5 with segs := [0] }, segs := [(0, segment false)] }), .pf, 2,
    { kernel5 with segs := [0] }, ?_⟩,
    ⟨tile2 { TileSt.empty with kernel := some { kernel5 with segs := [0] }, segs := [(0, segment false)] }, .pf, 2,
    { kernel5 with segs := [0] }, ?_⟩, ⟨stepping true, 2, 255, ?_⟩,
    ⟨tile2 { TileSt.empty with kernel := some kernel5, segs := [(255, segment true)], waits := [.state ⟨[segStep], 1⟩ issue] }, 2,
    255, ⟨[segStep], 1⟩, issue, kernel5, by decide +kernel, by decide +kernel, rfl, rfl, by decide +kernel,
    (by intro q h; cases List.mem_singleton.mp h; exact (show 256 * 8 + _ ≤ 8192 by decide +kernel))⟩, ⟨withRegs [(pgSu 2, Off.CTRL,
    5)] up, .pf, 2, 0, 0, ?_⟩, ⟨withRegs [(pgSu 2, Off.CTRL, 5)] up, .pf, 2, 3, 127, ?_⟩, ⟨withRegs [(pgSu 2, Off.CTRL, 5), (pgSu 2,
    Off.SU_TBL_STATUS, 0x8000)] up, .pf, 2, 3, 127, ?_⟩, ⟨withRegs [(pgSu 2, Off.CTRL, 5)] up, .pf, 2, ?_⟩, ⟨withRegs [(pgVe 2,
    Off.CTRL, 5), (pgVe 2, Off.VE_QP_ADAPT + 8 * 15, 0x120000)] up, .pf, 2, 15, 2, ?_⟩, ⟨withRegs [(pgVe 2, Off.CTRL, 5), (pgVe 2,
    Off.VE_QP_ADAPT + 8 * 15, 0x120000)] up, .pf, 2, 15, 3, ?_⟩⟩ <;>
    first
    | decide +kernel
    | (simp only [Admitted, Readable, DealDue, Issues, Dispatches, MayPut, reduceCtorEq, LaneFn.table.injEq, forall_eq', false_imp_iff, ne_eq,
        not_false_eq_true, implies_true]; done)
    | (simp only [Admitted, Readable, DealDue, Issues, Dispatches, MayPut, reduceCtorEq, LaneFn.table.injEq, forall_eq', false_imp_iff, ne_eq,
        not_false_eq_true, implies_true]; decide +kernel)

theorem test_hyps_Kitties :
    let asks (s : State) (who : Requester) (h : Home) : Prop := kittyLive s (mdOf s h) = true ∧ sliced s who = false ∧ writesDue s h = false
    let fills (s : State) (n k : Nat) (l : KLine) : Prop :=
      kittyLive s n = true ∧ k < 16384 ∧ (kittyOf s n).find? (fun l => l.line == k && l.locked) = some l ∧
        (l.shared = false → sliced s (.tag l.tenant) = false)
    let writes (s : State) (t : Nat) (w : WriteBack) : Prop :=
      (tileOf s t).writes.find? (fun w => !w.merged) = some w ∧ kittyLive s (mdOf s w.home) = true ∧ sliced s w.who = false ∧
        writeTurn s t w = true
    let tag (s : State) (who : Requester) (h : Home) : Nat × Bool := fillTag s (mdOf s h) h (reqTenant s who)
    let room (s : State) (who : Requester) (h : Home) : Prop :=
      (kittyOf s (mdOf s h)).length < 16384 ∧ ((kittyOf s (mdOf s h)).filter fun l => l.tenant == (tag s who h).1).length <
        fld s (pgKitty (mdOf s h)) (Off.KITTY_QUOTA + 4 * (tag s who h).1) 0 15
    let full (s : State) (who : Requester) (h : Home) : Prop :=
      fld s (pgKitty (mdOf s h)) (Off.KITTY_QUOTA + 4 * (tag s who h).1) 0 15 ≤
          ((kittyOf s (mdOf s h)).filter fun l => l.tenant == (tag s who h).1).length ∧
        ∀ l ∈ kittyOf s (mdOf s h), l.tenant = (tag s who h).1 → l.locked = true
    let served (s : State) (b : Bypass) : State := { s with mem := { s.mem with bypass := s.mem.bypass.eraseP fun x => x == b } }
    let patrols (s : State) (n : Nat) : Prop :=
      pagePresent s.part (pgMc n) = true ∧ pageOn s (pgMc n) = true ∧ fld s (pgMc n) Off.MC_SCRUB 0 16 ≠ 0
    (∃ s : State, ∃ who : Requester, ∃ h : Home, ∃ l : KLine, asks s who h ∧ memAllows s who h false = true ∧ (kittyOf s (mdOf s
      h)).find? (lineServes h (reqTenant s who)) = some l ∧ l.locked = false) ∧
    (∃ s : State, ∃ who : Requester, ∃ h : Home, asks s who h ∧ memAllows s who h false = true ∧ (kittyOf s (mdOf s h)).find?
      (lineServes h (reqTenant s who)) = none ∧ room s who h) ∧
    (∃ s : State, ∃ who : Requester, ∃ h : Home, asks s who h ∧ memAdmits s who h = true ∧ memAllows s who h false = false) ∧
    (∃ s : State, ∃ who : Requester, ∃ h : Home, kittyLive s (mdOf s h) = true ∧ (sliced s who = true ∨ writesDue s h = true)) ∧
    (∃ s : State, ∃ h : Home, kittyLive s (mdOf s h) = false) ∧
    (∃ s : State, ∃ who : Requester, ∃ h : Home, ∃ c, asks s who h ∧ memAllows s who h false = true ∧ (kittyOf s (mdOf s h)).find?
      (lineServes h (reqTenant s who)) = none ∧ full s who h ∧ h.t4 = some c) ∧
    (∃ s : State, ∃ n, ∃ k, ∃ host : List Byte, ∃ b : Bypass, ∃ bs : List Byte, kittyLive s n = true ∧ 16384 ≤ k ∧ (s.mem.bypass.filter
      fun b => b.md == n)[k - 16384]? = some b ∧ b.write = none ∧ (homeRead none b.home host (served s b)).1 = some bs) ∧
    (∃ s : State, ∃ n, ∃ k, ∃ host : List Byte, ∃ l : KLine, ∃ bs : List Byte, fills s n k l ∧ (homeRead none l.home host s).1 = some
      bs) ∧
    (∃ s : State, ∃ n, ∃ k, ∃ host : List Byte, ∃ l : KLine, fills s n k l ∧ (homeRead none l.home host s).1 = none) ∧
    (∃ s : State, ∃ t, ∃ w : WriteBack, ∃ l : KLine, writes s t w ∧ memAllows s w.who w.home true = true ∧ (kittyOf s (mdOf s
      w.home)).find? (lineServes w.home (reqTenant s w.who)) = some l ∧ l.locked = false) ∧
    (∃ s : State, ∃ t, ∃ w : WriteBack, writes s t w ∧ memAdmits s w.who w.home = true ∧ memAllows s w.who w.home true = false) ∧
    (∃ s : State, ∃ t, ∃ w : WriteBack, (tileOf s t).writes.find? (fun w => !w.merged) = some w ∧ kittyLive s (mdOf s w.home) = false) ∧
    (∃ s : State, ∃ n, patrols s n) ∧
    (∃ s : State, ∃ n, flag s (pgKitty n) Off.KITTY_CMD 31 = true) := by
  refine ⟨⟨kitty [kline false], .ctx 5, ⟨none, 0⟩, kline false, ?_⟩, ⟨withRegs [(pgKitty 0, Off.KITTY_QUOTA + 4, 16384)] (kitty []),
    .ctx 5, ⟨none, 0⟩, ?_⟩, ⟨tenantUp 0x33, .ctx 5, ⟨none, 0⟩, ?_⟩, ⟨withRegs [(pgMb, Off.MB_FD_CTRL, 0x401)] (tenantUp 0x33), .ctx 5,
    ⟨none, 0⟩, ?_⟩, ⟨ante, ⟨none, 0⟩, ?_⟩, ⟨withRegs [(pgKitty 1, Off.KITTY_QUOTA + 4, 0)] (kitty []), .ctx 5, ⟨some 5, 0⟩, 5, ?_⟩,
    ⟨{ up with mem := { up.mem with bypass := [⟨0, ⟨none, 0⟩, .ctx 5, 0, none⟩] } }, 0, 16384, [], ⟨0, ⟨none, 0⟩, .ctx 5, 0, none⟩, _,
    by decide +kernel, by decide +kernel, by decide +kernel, by decide +kernel, Option.eq_some_of_isSome (by decide +kernel)⟩,
    ⟨kitty [kline true], 0, 3, [], kline true, _, ⟨by decide +kernel, by decide +kernel, by decide +kernel⟩,
    Option.eq_some_of_isSome (by decide +kernel)⟩,
    ⟨{ kitty [kline true] with mem := { (kitty [kline true]).mem with poison := [0] } }, 0, 3, [], kline true, ?_⟩,
    ⟨writing (kitty [kline false]) none false, 2, ⟨⟨none, 0⟩, .tag 1, 0, [7], none, false, false, 0⟩, kline false, ?_⟩,
    ⟨writing (tenantUp 0x33) none false, 2, ⟨⟨none, 0⟩, .tag 1, 0, [7], none, false, false, 0⟩, ?_⟩,
    ⟨writing { tenantUp 0x33 with pwr := ante.pwr } none false, 2, ⟨⟨none, 0⟩, .tag 1, 0, [7], none, false, false, 0⟩, ?_⟩,
    ⟨withRegs [(pgMc 0, Off.MC_SCRUB, 1)] up, 0, ?_⟩, ⟨withRegs [(pgKitty 0, Off.KITTY_CMD, 2 ^ 31)] up, 0, ?_⟩⟩ <;>
    first
    | decide +kernel
    | (simp only [Admitted, Readable, DealDue, Issues, Dispatches, MayPut, reduceCtorEq, LaneFn.table.injEq, forall_eq', false_imp_iff, ne_eq,
        not_false_eq_true, implies_true]; done)
    | (simp only [Admitted, Readable, DealDue, Issues, Dispatches, MayPut, reduceCtorEq, LaneFn.table.injEq, forall_eq', false_imp_iff, ne_eq,
        not_false_eq_true, implies_true]; decide +kernel)

theorem test_hyps_KittyCommandsAndRegions :
    let ready (s : State) (w : Func) (n : Nat) : Prop :=
      Admitted s w (pgKitty n) Off.KITTY_CMD ∧ flag s (pgKitty n) Off.KITTY_CMD 31 = false ∧ enabled s (pgKitty n) = true
    let open_ (s : State) (w : Func) (tenant : Nat) : Prop := w = .pf → tdiHeld s (tenant % 16) = false
    let attr (k : Nat) : Nat := Off.MEMENC_REGION_ATTR + 16 * k
    let word (s : State) (k o : Nat) : Word :=
      match s.mem.held.find? fun e => e.1 == pageBase (pgMemenc 0) + 0x200 + 16 * k + o with
      | some e => e.2
      | none => rd s (pgMemenc 0) (0x200 + 16 * k + o)
    let attrOf (w : Func) (v : Word) : Word :=
      putField (v &&& 0x00FF7FFF) 31 1 (ofBool (w == .rot && fieldOf v 0 3 != 0))
    let region (s : State) (w : Func) (k : Nat) (v : Word) : Region := regionOfWords (word s k 0) (word s k 4) (attrOf w v)
    (∃ s : State, ∃ w : Func, ∃ n, ready s w n) ∧
    (∃ s : State, ∃ w : Func, ∃ n, ∃ tenant, ready s w n ∧ open_ s w tenant) ∧
    (∃ s : State, ∃ w : Func, ∃ n, ∃ tenant, ready s w n ∧ open_ s w tenant) ∧
    (∃ s : State, ∃ n, ∃ tenant, Admitted s .pf (pgKitty n) Off.KITTY_CMD ∧ tdiHeld s (tenant % 16) = true) ∧
    (∃ s : State, ∃ k, ∃ v, k < 64 ∧ Admitted s .rot (pgMemenc 0) (attr k) ∧ (3 < fieldOf v 0 3 ∨ regionOk s .rot k (region s .rot k v)
      = false)) ∧
    (∃ s : State, ∃ k, ∃ v, k < 64 ∧ Admitted s .rot (pgMemenc 0) (attr k) ∧ regionOk s .rot k (region s .rot k v) = true) ∧
    (∃ s : State, ∃ k, ∃ v, k < 64 ∧ Admitted s .pf (pgMemenc 0) (attr k) ∧ regionOk s .pf k (region s .pf k v) = true ∧ (∀ t, tdiHeld s
      t = false)) ∧
    (∃ s : State, ∃ k, ∃ v, k < 64 ∧ Admitted s .pf (pgMemenc 0) (attr k) ∧ regionOk s .pf k (region s .pf k v) = false ∧ (∀ t, tdiHeld
      s t = false)) ∧
    (∃ s : State, s.mem.pend.takeWhile (regionDue s) = []) ∧
    (∃ s : State, ∃ e : RegionPend, s.mem.pend.takeWhile (regionDue s) = [e] ∧ e.entry < 64) := by
  refine ⟨⟨withRegs [(pgKitty 0, Off.CTRL, 1)] up, .pf, 0, ?_⟩, ⟨withRegs [(pgKitty 0, Off.CTRL, 1)] up, .pf, 0, 15, ?_⟩,
    ⟨withRegs [(pgKitty 0, Off.CTRL, 1)] up, .pf, 0, 15, ?_⟩, ⟨withRegs [(pgMb, Off.MB_TDI_STATE, 4)] up, 0, 1, ?_⟩, ⟨up, 63, 4, ?_⟩,
    ⟨up, 63, 3, ?_⟩, ⟨withRegs [(pgMemenc 0, Off.MEMENC_REGION_SIZE,
    1)] ({ up with mem := { up.mem with keys := [(9, ⟨1, 1, 0, []⟩)] } }), 0, 0x9780C, by decide +kernel, ⟨by decide +kernel,
    by decide +kernel, by decide +kernel⟩, by decide +kernel, held_none (by decide +kernel)⟩, ⟨withRegs [(pgMemenc 0,
    Off.MEMENC_REGION_SIZE, 1)] up, 0, 0x780C, by decide +kernel, ⟨by decide +kernel, by decide +kernel, by decide +kernel⟩,
    by decide +kernel, held_none (by decide +kernel)⟩, ⟨up, ?_⟩, ⟨{ up with mem := { up.mem with pend := [⟨0, 63, 0, 1, 0x780C⟩] } },
    ⟨0, 63, 0, 1, 0x780C⟩, ?_⟩⟩ <;>
    first
    | decide +kernel
    | (simp only [Admitted, Readable, DealDue, Issues, Dispatches, MayPut, reduceCtorEq, LaneFn.table.injEq, forall_eq', false_imp_iff, ne_eq,
        not_false_eq_true, implies_true]; done)
    | (simp only [Admitted, Readable, DealDue, Issues, Dispatches, MayPut, reduceCtorEq, LaneFn.table.injEq, forall_eq', false_imp_iff, ne_eq,
        not_false_eq_true, implies_true]; decide +kernel)

theorem test_hyps_Pool :
    let arrives (s : State) (q id : Nat) (ans : HostData) (x : Xfer) (t : Nat) (bs : List Byte) : Prop :=
      xferOf s q id = some x ∧ x.sent = false ∧ poolXfer s q x = true ∧ (descOf x.desc).space ≠ 3 ∧ hhMode s ≠ 2 ∧
        fdGrants s (ctxTenant s (queueCtx q)) = true ∧ (xferFetch q x ans s).cause = 0 ∧ (xferFetch q x ans s).data = bs ∧
        t = (queueOf s q).epIndex ∧ tileLive s t = true ∧ admits s t (queueCtx q) = true
    let home (q : Nat) (x : Xfer) : Home := if (descOf x.desc).space = 0 then ⟨none, x.addr⟩ else ⟨some (queueCtx q), x.addr⟩
    let tenant (s : State) (q : Nat) : Nat := ctxTenant s (queueCtx q)
    let limit (s : State) (t : Nat) : Nat := fld s (pgTsp t) Off.TSP_POOL_CFG 16 16 * 64
    let over_ (s : State) (t : Nat) (l : PoolLine) : Bool := l.st == 2 && decide (l.filled + limit s t ≤ s.tt.beats)
    let ready (s : State) (w : Func) (t : Nat) : Prop :=
      Admitted s w (pgTsp t) Off.TSP_POOL_CMD ∧ flag s (pgTsp t) Off.TSP_POOL_CMD 31 = false
    (∃ s : State, ∃ q, ∃ id, ∃ ans : HostData, ∃ x : Xfer, ∃ t, ∃ bs : List Byte, ∃ n, arrives s q id ans x t bs ∧ poolFind s t (home q
      x) (tenant s q) = none ∧ poolNext s t (home q x) (tenant s q) = none ∧ chooseLine s t = some (n, none)) ∧
    (∃ s : State, ∃ q, ∃ id, ∃ ans : HostData, ∃ x : Xfer, ∃ t, ∃ bs : List Byte, arrives s q id ans x t bs ∧ poolFind s t (home q x)
      (tenant s q) = none ∧ poolNext s t (home q x) (tenant s q) = none ∧ chooseLine s t = none) ∧
    (∃ s : State, ∃ q, ∃ id, ∃ ans : HostData, ∃ x : Xfer, ∃ t, ∃ bs : List Byte, ∃ l : PoolLine, arrives s q id ans x t bs ∧ poolFind s
      t (home q x) (tenant s q) = none ∧ poolNext s t (home q x) (tenant s q) = some l) ∧
    (∃ s : State, ∃ t, tileLive s t = true ∧ limit s t ≠ 0 ∧ (∃ l ∈ poolLines s t, over_ s t l = true)) ∧
    (∃ s : State, ∃ t, ∃ w : WriteBack, ∃ n, ∃ l : PoolLine, (tileOf s t).writes.find? (fun w => w.merged) = some w ∧ w.line = some n ∧
      (poolLines s t).find? (fun l => l.line == n && l.st == 5) = some l ∧ l.next = none ∧ w.failed = false) ∧
    (∃ s : State, ∃ t, ∃ w : WriteBack, ∃ n, ∃ l : PoolLine, ∃ x : PoolFill, (tileOf s t).writes.find? (fun w => w.merged) = some w ∧
      w.line = some n ∧ (poolLines s t).find? (fun l => l.line == n && l.st == 5) = some l ∧ l.next = some x ∧ w.failed = false) ∧
    (∃ s : State, ∃ t, ∃ w : WriteBack, ∃ i : Issue, ∃ segs : List Nat, ∃ k : Kernel, (tileOf s t).writes.find? (fun w => w.merged) =
      some w ∧ w.line = none ∧ w.failed = true ∧ (tileOf s t).kernel = some k ∧ w.who = .ctx k.launch.ctx ∧ .acks i segs ∈ (tileOf s
      t).waits) ∧
    (∃ s : State, ∃ t, ∃ w : WriteBack, ∃ i : Issue, ∃ segs : List Nat, ∃ k : Kernel, (tileOf s t).writes = [w] ∧ w.merged = true ∧
      w.line = none ∧ w.failed = false ∧ (tileOf s t).kernel = some k ∧ (tileOf s t).waits = [.acks i segs]) ∧
    (∃ s : State, ∃ t, ∃ off, ∃ v : Word, ∃ rest : List (Nat × Word), (tileOf s t).poolChange = (off, v) :: rest ∧ 0x100 ≤ off ∧ off <
      0x180 ∧ tileLive s t = true ∧ (∀ l ∈ poolLines s t, l.st = 5 → entryHas ((tileRegions s t).getD ((off - 0x100) / 8) (0, 0)) l.line
      = false)) ∧
    (∃ s : State, ∃ w : Func, ∃ t, ready s w t) ∧
    (∃ s : State, ∃ w : Func, ∃ t, ready s w t) ∧
    (∃ s : State, ∃ w : Func, ∃ t, ready s w t) ∧
    (∃ s : State, ∃ w : Func, ∃ t, ∃ tenant, ready s w t ∧ (w = .pf → tdiHeld s (tenant % 16) = false)) := by
  refine ⟨⟨withRegs [(pgTsp 2, Off.TSP_REGION_BASE, 0x1001), (pgTsp 2, Off.TSP_REGION_CFG, 0x2005)] (filling 0x20), 1280, 0,
    .bytes [], xfer 0x20, 2, _, 1, ⟨by decide +kernel, by decide +kernel, by decide +kernel, by decide +kernel, by decide +kernel,
    by decide +kernel, by decide +kernel, rfl, by decide +kernel, by decide +kernel, by decide +kernel⟩, by decide +kernel,
    by decide +kernel, by decide +kernel⟩, ⟨filling 0x20, 1280, 0, .bytes [], xfer 0x20, 2, _, ⟨by decide +kernel, by decide +kernel,
    by decide +kernel, by decide +kernel, by decide +kernel, by decide +kernel, by decide +kernel, rfl, by decide +kernel,
    by decide +kernel, by decide +kernel⟩, by decide +kernel, by decide +kernel, by decide +kernel⟩,
    ⟨updTile 2 (fun x => { x with pool := [{ poolLine 5 with next := some fill0 }] }) (filling 0x20), 1280, 0, .bytes [], xfer 0x20,
    2, _, { poolLine 5 with next := some fill0 }, ⟨by decide +kernel, by decide +kernel, by decide +kernel, by decide +kernel,
    by decide +kernel, by decide +kernel, by decide +kernel, rfl, by decide +kernel, by decide +kernel, by decide +kernel⟩,
    by decide +kernel, by decide +kernel⟩, ⟨withRegs [(pgTsp 2, Off.TSP_POOL_CFG,
    0x10000)] (atBeat 64 (tile2 { TileSt.empty with pool := [poolLine 2] })), 2, ?_⟩,
    ⟨writing (tile2 { TileSt.empty with pool := [poolLine 5] }) (some 1) true, 2, ⟨⟨none, 0⟩, .tag 1, 0, [7], some 1, true, false, 0⟩,
    1, poolLine 5, ?_⟩, ⟨writing (tile2 { TileSt.empty with pool := [{ poolLine 5 with next := some fill0 }] }) (some 1) true, 2,
    ⟨⟨none, 0⟩, .tag 1, 0, [7], some 1, true, false, 0⟩, 1, { poolLine 5 with next := some fill0 }, fill0, ?_⟩,
    ⟨tile2 { TileSt.empty with kernel := some kernel5, writes := [⟨⟨none, 0⟩, .ctx 5, 0, [7], none, true, true, 0⟩], waits := [.acks issue []] },
    2, ⟨⟨none, 0⟩, .ctx 5, 0, [7], none, true, true, 0⟩, issue, [], kernel5, ?_⟩,
    ⟨tile2 { TileSt.empty with kernel := some kernel5, writes := [⟨⟨none, 0⟩, .tag 1, 0, [7], none, true, false, 0⟩], waits := [.acks issue []] },
    2, ⟨⟨none, 0⟩, .tag 1, 0, [7], none, true, false, 0⟩, issue, [], kernel5, ?_⟩,
    ⟨tile2 { TileSt.empty with poolChange := [(0x100, 0)] }, 2, 0x100, 0, [], ?_⟩, ⟨up, .pf, 2, ?_⟩, ⟨up, .pf, 2, ?_⟩, ⟨up, .mgmt, 2,
    ?_⟩, ⟨up, .pf, 2, 5, ?_⟩⟩ <;>
    first
    | decide +kernel
    | (simp only [Admitted, Readable, DealDue, Issues, Dispatches, MayPut, reduceCtorEq, LaneFn.table.injEq, forall_eq', false_imp_iff, ne_eq,
        not_false_eq_true, implies_true]; done)
    | (simp only [Admitted, Readable, DealDue, Issues, Dispatches, MayPut, reduceCtorEq, LaneFn.table.injEq, forall_eq', false_imp_iff, ne_eq,
        not_false_eq_true, implies_true]; decide +kernel)

theorem test_hyps_Doorbells :
    let mine (s : State) (w : Func) (q : Nat) : Prop := ∀ n, w = .vf n → ctxTenant s (queueCtx q) = n
    let rings (s : State) (w : Func) (q : Nat) : Prop :=
      q < 2 ^ 18 ∧ senderLink s w = .ok ∧ deviceFatal s = false ∧ bootRunning s = true ∧ mine s w q ∧
        (pageOn s (pgQe (queueMd s q)) = true ∨ (queueOf s q).state = 5 ∧ s.pwr.dom.getD (5 + queueMd s q) 0 ∈ [1, 3]) ∧ hhMode s ≠ 2 ∧
        ctxExists s (queueCtx q) = true ∧ flag s (pgCtx (queueCtx q)) Off.CTRL 0 = true
    let calm (s : State) (q : Nat) : Prop := (queueOf s q).stopping = false ∧ quiesced s (queuePage s q (queueOf s q)) = false
    let base (s : State) (q : Nat) : Nat := (queueOf s q).db.getD 0 0 + 2 ^ 32 * (queueOf s q).db.getD 1 0
    (∃ s : State, ∃ w : Func, ∃ q, ∃ space, rings s w q ∧ calm s q ∧ (queueOf s q).state = 0 ∧ base s q % 32 = 0 ∧ space < 2) ∧
    (∃ s : State, ∃ w : Func, ∃ q, rings s w q ∧ (queueOf s q).state ≠ 0 ∧ (queueOf s q).state ≠ 5) ∧
    (∃ s : State, ∃ w : Func, ∃ q, rings s w q ∧ (queueOf s q).awake.state ≠ 0 ∧ (queueOf s q).awake.state ≠ 4) ∧
    (∃ s : State, ∃ w : Func, ∃ q, rings s w q ∧ ((queueOf s q).state = 0 ∨ (queueOf s q).state = 4)) ∧
    (∃ s : State, ∃ w : Func, ∃ q, rings s w q ∧ calm s q ∧ (queueOf s q).trump = true ∧ (queueOf s q).state = 2) ∧
    (∃ s : State, ∃ w : Func, ∃ q, rings s w q ∧ calm s q ∧ (queueOf s q).trump = true ∧ (queueOf s q).state = 1 ∧ (queueOf s q).rearm =
      none ∧ (queueOf s q).finished = false) ∧
    (∃ s : State, ∃ w : Func, ∃ q, ∃ k, rings s w q ∧ fieldOf (queueOf s q).ctrl 18 4 ≠ 0 ∧ k ∈ groupQueues s (queueCtx q) (fieldOf
      (queueOf s q).ctrl 18 4) ∧ (∀ j ∈ groupQueues s (queueCtx q) (fieldOf (queueOf s q).ctrl 18 4), calm s j ∧ (queueOf s j).trump =
      true ∧ (queueOf s j).state = 2)) ∧
    (∃ s : State, ∃ w : Func, ∃ q, rings s w q ∧ (queueOf s q).trump = false ∧ (queueOf s q).state ≠ 5) ∧
    (∃ s : State, ∃ w : Func, ∃ q, rings s w q ∧ calm s q ∧ (queueOf s q).state = 3 ∧ (queueOf s q).pri = none ∧ (queueOf s q).finished
      = false) ∧
    (∃ s : State, ∃ w : Func, ∃ q, rings s w q ∧ (queueOf s q).state ≠ 5 ∧ (queueOf s q).flight = []) ∧
    (∃ s : State, ∃ w : Func, ∃ q, rings s w q ∧ (queueOf s q).state = 5) ∧
    (∃ s : State, ∃ w : Func, ∃ q, rings s w q ∧ (queueOf s q).state ≠ 5 ∧ (queueOf s q).flight ≠ []) := by
  refine ⟨⟨ringing Queue.idle, .pf, 1280, 0, ⟨by decide +kernel, by decide +kernel, by decide +kernel, by decide +kernel, nofun,
    .inl (by decide +kernel), by decide +kernel, by decide +kernel, by decide +kernel⟩, ⟨by decide +kernel, by decide +kernel⟩,
    by decide +kernel, by decide +kernel, by decide +kernel⟩, ⟨ringing { Queue.idle with ctrl := 0x7801 }, .pf, 1280,
    ⟨by decide +kernel, by decide +kernel, by decide +kernel, by decide +kernel, nofun, .inl (by decide +kernel), by decide +kernel,
    by decide +kernel, by decide +kernel⟩, by decide +kernel, by decide +kernel⟩, ⟨ringing { Queue.idle with ctrl := 0x7801 }, .pf,
    1280, ⟨by decide +kernel, by decide +kernel, by decide +kernel, by decide +kernel, nofun, .inl (by decide +kernel),
    by decide +kernel, by decide +kernel, by decide +kernel⟩, by decide +kernel, by decide +kernel⟩, ⟨ringing Queue.idle, .pf, 1280,
    ⟨by decide +kernel, by decide +kernel, by decide +kernel, by decide +kernel, nofun, .inl (by decide +kernel), by decide +kernel,
    by decide +kernel, by decide +kernel⟩, .inl (by decide +kernel)⟩, ⟨ringing { Queue.idle with ctrl := 0x7812 }, .pf, 1280,
    ⟨by decide +kernel, by decide +kernel, by decide +kernel, by decide +kernel, nofun, .inl (by decide +kernel), by decide +kernel,
    by decide +kernel, by decide +kernel⟩, ⟨by decide +kernel, by decide +kernel⟩, by decide +kernel, by decide +kernel⟩,
    ⟨ringing { Queue.idle with ctrl := 0x7811 }, .pf, 1280, ⟨by decide +kernel, by decide +kernel, by decide +kernel,
    by decide +kernel, nofun, .inl (by decide +kernel), by decide +kernel, by decide +kernel, by decide +kernel⟩, ⟨by decide +kernel,
    by decide +kernel⟩, by decide +kernel, by decide +kernel, by decide +kernel, by decide +kernel⟩,
    ⟨ringing { Queue.idle with ctrl := 0x47812 }, .pf, 1280, 1280, ⟨by decide +kernel, by decide +kernel, by decide +kernel,
    by decide +kernel, nofun, .inl (by decide +kernel), by decide +kernel, by decide +kernel, by decide +kernel⟩, by decide +kernel,
    by decide +kernel, by decide +kernel⟩, ⟨ringing Queue.idle, .pf, 1280, ⟨by decide +kernel, by decide +kernel, by decide +kernel,
    by decide +kernel, nofun, .inl (by decide +kernel), by decide +kernel, by decide +kernel, by decide +kernel⟩, by decide +kernel,
    by decide +kernel⟩, ⟨ringing { Queue.idle with ctrl := 0x7803, cause := 6 }, .pf, 1280, ⟨by decide +kernel, by decide +kernel,
    by decide +kernel, by decide +kernel, nofun, .inl (by decide +kernel), by decide +kernel, by decide +kernel, by decide +kernel⟩,
    ⟨by decide +kernel, by decide +kernel⟩, by decide +kernel, by decide +kernel, by decide +kernel⟩, ⟨ringing Queue.idle, .pf, 1280,
    ⟨by decide +kernel, by decide +kernel, by decide +kernel, by decide +kernel, nofun, .inl (by decide +kernel), by decide +kernel,
    by decide +kernel, by decide +kernel⟩, by decide +kernel⟩, ⟨ringing { Queue.idle with ctrl := 0x7805 }, .pf, 1280,
    ⟨by decide +kernel, by decide +kernel, by decide +kernel, by decide +kernel, nofun, .inl (by decide +kernel), by decide +kernel,
    by decide +kernel, by decide +kernel⟩, by decide +kernel⟩, ⟨ringing { Queue.idle with ctrl := 0x7801, flight := [xfer 0] }, .pf,
    1280, ⟨by decide +kernel, by decide +kernel, by decide +kernel, by decide +kernel, nofun, .inl (by decide +kernel),
    by decide +kernel, by decide +kernel, by decide +kernel⟩, by decide +kernel⟩⟩ <;>
    first
    | decide +kernel
    | (simp only [Admitted, Readable, DealDue, Issues, Dispatches, MayPut, reduceCtorEq, LaneFn.table.injEq, forall_eq', false_imp_iff, ne_eq,
        not_false_eq_true, implies_true]; done)
    | (simp only [Admitted, Readable, DealDue, Issues, Dispatches, MayPut, reduceCtorEq, LaneFn.table.injEq, forall_eq', false_imp_iff, ne_eq,
        not_false_eq_true, implies_true]; decide +kernel)

theorem test_hyps_Transfers :
    let stands (s : State) (q : Nat) (d : Desc) : Prop := ∃ bs, (queueOf s q).desc = some bs ∧ d = descOf bs
    let mayGo (s : State) (q : Nat) : Prop :=
      queueRuns s q = true ∧ fdGrants s (ctxTenant s (queueCtx q)) = true ∧ (queueOf s q).finished = false ∧ (queueOf s q).launch = none ∧ segmentOpen s q (queueOf s q) = true
    let granted (s : State) (q : Nat) : Bool :=
      ((slotGrant (slotNote (queueMd s q) s) (queueMd s q)).map (·.1)) == some q
    let flies (s : State) (q id : Nat) (x : Xfer) : Prop :=
      xferOf s q id = some x ∧ x.sent = false ∧ hhMode s ≠ 2 ∧ fdGrants s (ctxTenant s (queueCtx q)) = true
    let words (r : Queue) (entry : List Byte) (flags p0 : Nat) : List Nat :=
      let e := if bitAt flags 1 then entry.take 8 ++ leBytes 8 (resetMask r.marks p0).1 ++ entry.drop 16 else entry
      (List.range 8).map fun i => ofLeBytes ((e.drop (4 * i)).take 4)
    let bound (s : State) (q md : Nat) (fifo : List Launch) (share : Nat) : Prop :=
      md = queueMd s q ∧ creditsUsed s md fifo < share / Nat.max 1 s.part.stackCount
    (∃ s : State, ∃ q, ∃ d : Desc, mayGo s q ∧ stands s q d ∧ d.space = 0 ∧ (queueOf s q).isPut = false ∧ mayIssue s q d = true ∧
      granted s q = true) ∧
    (∃ s : State, ∃ q, ∃ d : Desc, mayGo s q ∧ stands s q d ∧ d.space = 0 ∧ (queueOf s q).isPut = false ∧ mayIssue s q d = true ∧
      granted s q = false) ∧
    (∃ s : State, ∃ q, ∃ d : Desc, mayGo s q ∧ stands s q d ∧ d.space = 1 ∧ (queueOf s q).isPut = false ∧ mayIssue s q d = true ∧
      granted s q = true ∧ hostOpen s (ctxTenant s (queueCtx q)) = true ∧ (queueOf s q).xlat = true) ∧
    (∃ s : State, ∃ q, ∃ d : Desc, mayGo s q ∧ stands s q d ∧ d.space = 1 ∧ mayIssue s q d = true ∧ (queueOf s q).isPut = false ∧
      hostOpen s (ctxTenant s (queueCtx q)) = false) ∧
    (∃ s : State, ∃ q, ∃ list : List Byte, ∃ bs : List Byte, mayGo s q ∧ (queueOf s q).desc = none ∧ (queueOf s q).available (queueOf s
      q).head = true ∧ fieldOf (queueOf s q).ctrl 22 2 = 0 ∧ (listRead q (queueOf s q).cursor 32 list s).1 = .ok bs ∧ (descOf bs).kind =
      2 ∧ descCause (listRead q (queueOf s q).cursor 32 list s).2 q (queueOf s q) (descOf bs) = 0) ∧
    (∃ s : State, ∃ q, ∃ list : List Byte, mayGo s q ∧ (queueOf s q).desc = none ∧ (queueOf s q).available (queueOf s q).head = true ∧
      fieldOf (queueOf s q).ctrl 22 2 = 1 ∧ hostOpen s (ctxTenant s (queueCtx q)) = true ∧ list.length < 32) ∧
    (∃ s : State, ∃ q, ∃ id, ∃ x : Xfer, ∃ bs : List Byte, ∃ t, flies s q id x ∧ (queueOf s q).isPut = false ∧ (queueOf s q).epType = 1
      ∧ (queueOf s q).epIndex = t ∧ (descOf x.desc).space = 0 ∧ (descOf x.desc).tier = 0 ∧ (memFetch (.ctx (queueCtx q)) (pageDomain
      (queuePage s q (queueOf s q))) ⟨none, x.addr⟩ none s).1 = .tile bs ∧ tileLive s t = true ∧ admits s t (queueCtx q) = true ∧
      xposeSlot s t q = none ∧ (queueOf s q).xpose = [] ∧ sramOk s (openRegions s t) (queueCtx q) true x.dest bs.length = true) ∧
    (∃ s : State, ∃ q, ∃ id, ∃ x : Xfer, flies s q id x ∧ (queueOf s q).isPut = true ∧ (queueOf s q).state = 1 ∧ (descOf x.desc).space =
      1 ∧ (descOf x.desc).codec = 0 ∧ hostOpen s (ctxTenant s (queueCtx q)) = true ∧ (∀ e ∈ s.host.sends, e.1 ≠ ctxTenant s (queueCtx
      q))) ∧
    (∃ s : State, ∃ q, ∃ id, ∃ x : Xfer, flies s q id x ∧ hostBound s q x = true ∧ hostOpen s (ctxTenant s (queueCtx q)) = false) ∧
    (∃ s : State, ∃ q, ∃ id, ∃ x : Xfer, flies s q id x ∧ (queueOf s q).isPut = false ∧ poolXfer s q x = false ∧ (descOf x.desc).space =
      1 ∧ (queueOf s q).state ≠ 4 ∧ (queueOf s q).stopping = false) ∧
    (∃ s : State, ∃ q, ∃ id, ∃ x : Xfer, ∃ c : CmdSt, xferOf s q id = some x ∧ x.sent = false ∧ (queueOf s q).isPut = false ∧ (descOf
      x.desc).space = 1 ∧ (queueOf s q).state ≠ 4 ∧ (queueOf s q).stopping = false ∧ (cmdsOf s (pgQe (queueMd s q))).find? (fun c =>
      c.id == xferId q id) = some c ∧ elapsed s c.accept 50000000 = true) ∧
    (∃ s : State, ∃ q, ∃ entry : List Byte, ∃ flags, ∃ p0, ∃ k, (queueOf s q).launch = some (entry, flags, p0) ∧ (queueOf s q).epType =
      1 ∧ (queueOf s q).epIndex = k ∧ queueRuns s q = true ∧ (∀ x ∈ (queueOf s q).flight, x.seg ≠ (queueOf s q).segment) ∧ (queueOf s
      q).scaleReady = true ∧ bound s q (queueMd s q) (tileOf s k).fifo 8 ∧ (tileOf s k).fifo.length < 16 ∧ admits s (pageDomain (pgMx
      k)) (queueCtx q) = true ∧ Launch.ctx ⟨words (queueOf s q) entry flags p0, some q, beatNo s⟩ = queueCtx q ∧ launchOk s ⟨words
      (queueOf s q) entry flags p0, some q, beatNo s⟩ = true ∧ fdOwnsTile s k (queueCtx q) = true ∧ k ≠ 0xFF) ∧
    (∃ s : State, ∃ q, ∃ t, ∃ x : TileSt, s.tiles.find? (fun e => e.2.ends.contains q) = some (t, x) ∧ (queueOf s q).ended < (queueOf s
      q).sent) := by
  refine ⟨⟨going (queueWith (some (descB 0))) (tenantUp 0x33), 1280, descOf (descB 0), ⟨by decide +kernel, by decide +kernel,
    by decide +kernel, by decide +kernel, by decide +kernel⟩, ⟨descB 0, by decide +kernel, rfl⟩, by decide +kernel, by decide +kernel,
    by decide +kernel, by decide +kernel⟩, ⟨withRegs [(pgQe 1, Off.CTRL, 1), (pgQe 1, Off.QE_TENANT_SLOTS + 4,
    64)] { tenantUp 0x33 with queues := [(1280, queueWith (some (descB 0))), (1281, queueWith (some (descB 0)))] }, 1281,
    descOf (descB 0), ⟨by decide +kernel, by decide +kernel, by decide +kernel, by decide +kernel, by decide +kernel⟩, ⟨descB 0,
    by decide +kernel, rfl⟩, by decide +kernel, by decide +kernel, by decide +kernel, by decide +kernel⟩,
    ⟨going { queueWith (some (descB 0x800)) with xlat := true } covered1, 1280, descOf (descB 0x800), ⟨by decide +kernel,
    by decide +kernel, by decide +kernel, by decide +kernel, by decide +kernel⟩, ⟨descB 0x800, by decide +kernel, rfl⟩,
    by decide +kernel, by decide +kernel, by decide +kernel, by decide +kernel, by decide +kernel, by decide +kernel⟩,
    ⟨going (queueWith (some (descB 0x800))) (tenantUp 0x33), 1280, descOf (descB 0x800), ⟨by decide +kernel, by decide +kernel,
    by decide +kernel, by decide +kernel, by decide +kernel⟩, ⟨descB 0x800, by decide +kernel, rfl⟩, by decide +kernel,
    by decide +kernel, by decide +kernel, by decide +kernel⟩,
    ⟨going (queueWith none) (kitty [{ kline false with data := descB 0x4000 }]), 1280, [], descB 0x4000, ⟨by decide +kernel,
    by decide +kernel, by decide +kernel, by decide +kernel, by decide +kernel⟩, by decide +kernel, by decide +kernel,
    by decide +kernel, by rfl, by decide +kernel, by decide +kernel⟩, ⟨going { queueWith none with ctrl := 0x407801 } covered1, 1280,
    [], ?_⟩, ⟨withRegs [(pgTsp 2, Off.TSP_REGION_BASE, 0x1000), (pgTsp 2, Off.TSP_REGION_CFG,
    5)] (flying 0x7801 0 (kitty [{ kline false with data := [7] }])), 1280, 0, xfer 0, [7], 2, ?_⟩, ⟨flying 0x7821 0x800 covered1,
    1280, 0, xfer 0x800, ?_⟩, ⟨flying 0x7821 0x800 (tenantUp 0x33), 1280, 0, xfer 0x800, ?_⟩, ⟨flying 0x7801 0x800 (tenantUp 0x33),
    1280, 0, xfer 0x800, ?_⟩, ⟨late, 1280, 0, xfer 0x800, ⟨83886080, 0, 0⟩, ?_⟩,
    ⟨going { queueWith none with launch := some (leBytes 8 0x500000000 ++ List.replicate 24 0, 0x2000, 0) } (tenantUp 0x33), 1280,
    leBytes 8 0x500000000 ++ List.replicate 24 0, 0x2000, 0, 2, ?_⟩,
    ⟨withQueue (tile2 { TileSt.empty with ends := [1280] }) { Queue.idle with sent := 1 }, 1280, 2,
    { TileSt.empty with ends := [1280] }, ?_⟩⟩ <;>
    first
    | decide +kernel
    | (simp only [Admitted, Readable, DealDue, Issues, Dispatches, MayPut, reduceCtorEq, LaneFn.table.injEq, forall_eq', false_imp_iff, ne_eq,
        not_false_eq_true, implies_true]; done)
    | (simp only [Admitted, Readable, DealDue, Issues, Dispatches, MayPut, reduceCtorEq, LaneFn.table.injEq, forall_eq', false_imp_iff, ne_eq,
        not_false_eq_true, implies_true]; decide +kernel)

theorem test_hyps_Translations :
    let calm (s : State) (q : Nat) : Prop := (queueOf s q).stopping = false ∧ quiesced s (queuePage s q (queueOf s q)) = false
    let tenant (s : State) (q : Nat) : Nat := ctxTenant s (queueCtx q)
    let asks (s : State) (q : Nat) (bs : List Byte) : Prop :=
      (queueOf s q).desc = some bs ∧ (queueOf s q).state = 1 ∧ (descOf bs).space = 1 ∧ (queueOf s q).xlat = false ∧ calm s q ∧
        hostOpen s (tenant s q) = true
    let waits (s : State) (q : Nat) : Prop := (queueOf s q).state = 3 ∧ (∃ due, (queueOf s q).pri = some due ∧ s.tt.beats ≤ due) ∧ calm s q ∧ (queueOf s q).finished = false
    (∃ s : State, ∃ q, ∃ bs : List Byte, asks s q bs) ∧
    (∃ s : State, ∃ q, ∃ bs : List Byte, asks s q bs) ∧
    (∃ s : State, ∃ q, waits s q ∧ bitOf (queueOf s q).ctrl 11 = true) ∧
    (∃ s : State, ∃ q, waits s q ∧ bitOf (queueOf s q).ctrl 11 = false) ∧
    (∃ s : State, ∃ q, ∃ code, waits s q ∧ code ≠ 0) ∧
    (∃ s : State, ∃ q, ∃ due, (queueOf s q).state = 3 ∧ (queueOf s q).pri = some due ∧ due < s.tt.beats) ∧
    (∃ s : State, ∃ q, ∃ due, (queueOf s q).state = 5 ∧ (queueOf s q).before = 3 ∧ (queueOf s q).pri = some due ∧ s.tt.beats ≤ due ∧
      (queueOf s q).stopping = false ∧ quiesced s (queuePage s q (queueOf s q)) = true ∧ bitOf (queueOf s q).ctrl 11 = true) ∧
    (∃ s : State, ∃ q, ∃ due, (queueOf s q).state = 3 ∧ (queueOf s q).pri = some due ∧ due ≤ s.tt.beats) ∧
    (∃ s : State, ∃ fn, ∃ pasid : Option Nat, ∃ a, ∃ n, hostLink s (if fn = 0 then .pf else .vf fn) ≠ .unsupported ∧ (∀ e ∈ s.queues, ∀
      x ∈ e.2.flight, usesRange s fn pasid a n e.1 (descOf x.desc) x.addr x.len = false)) := by
  refine ⟨⟨going (queueWith (some (descB 0x800))) covered1, 1280, descB 0x800, ?_⟩, ⟨going (queueWith (some (descB 0x800))) covered1,
    1280, descB 0x800, ?_⟩, ⟨withQueue (tenantUp 0x33) { Queue.idle with ctrl := 0x7803, pri := some 0 }, 1280, ?_⟩,
    ⟨withQueue (tenantUp 0x33) { Queue.idle with ctrl := 0x7003, pri := some 0 }, 1280, ?_⟩,
    ⟨withQueue (tenantUp 0x33) { Queue.idle with ctrl := 0x7803, pri := some 0 }, 1280, 1, ?_⟩,
    ⟨atBeat 1 (withQueue (tenantUp 0x33) { Queue.idle with ctrl := 0x7803, pri := some 0 }), 1280, 0, ?_⟩, ⟨withRegs [(pgPower,
    Off.PWR_STATE,
    0xD4)] (withQueue (tenantUp 0x33) { Queue.idle with ctrl := 0x7805, before := 3, endpoint := 0x102, pri := some 0 }), 1280, 0,
    ?_⟩, ⟨withQueue (tenantUp 0x33) { Queue.idle with ctrl := 0x7803, pri := some 0 }, 1280, 0, ?_⟩, ⟨flying 0x7801 0 (tenantUp 0x33),
    1, none, 0, 4096, ?_⟩⟩ <;>
    first
    | decide +kernel
    | (simp only [Admitted, Readable, DealDue, Issues, Dispatches, MayPut, reduceCtorEq, LaneFn.table.injEq, forall_eq', false_imp_iff, ne_eq,
        not_false_eq_true, implies_true]; done)
    | (simp only [Admitted, Readable, DealDue, Issues, Dispatches, MayPut, reduceCtorEq, LaneFn.table.injEq, forall_eq', false_imp_iff, ne_eq,
        not_false_eq_true, implies_true]; decide +kernel)

theorem test_hyps_Puts :
    let calm (s : State) (q : Nat) : Prop := (queueOf s q).stopping = false ∧ quiesced s (queuePage s q (queueOf s q)) = false
    let room (s : State) (q : Nat) (d : Desc) : Nat := d.total - ((queueOf s q).offset + (queueOf s q).acc.length)
    let part_ (s : State) (q : Nat) (d : Desc) (it : PutItem) : Nat :=
      Nat.min (d.piece (queueOf s q) (queueOf s q).offset - (queueOf s q).acc.length) it.bytes.length
    let takes (s : State) (src : PutSource) (it : PutItem) (d : Desc) : Prop :=
      putItem s src = some it ∧ it.bytes ≠ [] ∧ putAdmits s src it.queue it.owner = true ∧ putOpen s it.queue = true ∧
        queueRuns s it.queue = true ∧ (queueOf s it.queue).accDone = false ∧ (∃ bs, (queueOf s it.queue).desc = some bs ∧ d = descOf bs) ∧
        (it.whole = true → it.bytes.length ≤ room s it.queue d) ∧ otherFrame (queueOf s it.queue) d it = false
    let mayCast (s : State) (q : Nat) (d : Desc) : Prop :=
      queueRuns s q = true ∧ fdGrants s (ctxTenant s (queueCtx q)) = true ∧ (queueOf s q).isPut = true ∧ (queueOf s q).mcast = true ∧ (queueOf s q).epType = 1 ∧
        (queueOf s q).finished = false ∧ (∃ bs, (queueOf s q).desc = some bs ∧ d = descOf bs) ∧ ∀ e ∈ s.queues, e.2.mc = []
    let ctr (s : State) (q : Nat) (d : Desc) : Nat := d.position (queueOf s q) % 64
    let cells (s : State) (q : Nat) (d : Desc) : Home :=
      if d.space = 0 then ⟨none, d.at (queueOf s q) (queueOf s q).offset⟩
      else ⟨some (queueCtx q), d.at (queueOf s q) (queueOf s q).offset⟩
    let stored (s : State) (q : Nat) (d : Desc) (data : List Byte) : MemAns × State :=
      memStore (.ctx (queueCtx q)) (pageDomain (queuePage s q (queueOf s q))) (cells s q d) 0 data s
    let to_ (s : State) (q : Nat) : List Nat := (tilesOf (queueOf s q).subs).filter fun t => !bitAt (queueOf s q).fold t
    (∃ s : State, ∃ src : PutSource, ∃ it : PutItem, putItem s src = some it ∧ it.bytes ≠ [] ∧ putAdmits s src it.queue it.owner =
      false) ∧
    (∃ s : State, ∃ src : PutSource, ∃ it : PutItem, ∃ d : Desc, takes s src it d) ∧
    (∃ s : State, ∃ src : PutSource, ∃ it : PutItem, ∃ d : Desc, ∃ bs : List Byte, putItem s src = some it ∧ it.bytes ≠ [] ∧ putAdmits s
      src it.queue it.owner = true ∧ putOpen s it.queue = true ∧ queueRuns s it.queue = true ∧ (queueOf s it.queue).accDone = false ∧
      (queueOf s it.queue).desc = some bs ∧ d = descOf bs ∧ otherFrame (queueOf s it.queue) d it = true) ∧
    (∃ s : State, ∃ t, ∃ it : PutItem, ∃ d : Desc, ∃ x : Nat × Nat × List Byte, ∃ rest : List (Nat × Nat × List Byte), takes s
      (.tileRecord t 0) it d ∧ (tileOf s t).comps = x :: rest ∧ it.bytes = x.2.2 ∧ it.queue = x.1 ∧ part_ s it.queue d it =
      it.bytes.length) ∧
    (∃ s : State, ∃ q, ∃ data : List Byte, ∃ d : Desc, mayCast s q d ∧ data.length = 4096 ∧ (∀ t ∈ tilesOf (queueOf s q).subs, haloOwner
      s t (ctr s q d) (queueCtx q) = true) ∧ (gotMem (stored s q d data)).cause = 0 ∧ to_ s q ≠ []) ∧
    (∃ s : State, ∃ q, ∃ data : List Byte, ∃ d : Desc, mayCast s q d ∧ data.length = 4096 ∧ (∃ t ∈ tilesOf (queueOf s q).subs, haloOwner
      s t (ctr s q d) (queueCtx q) = false)) ∧
    (∃ s : State, ∃ q, ∃ t, ∃ m : McTile, ∃ n, (queueOf s q).mc = [m] ∧ (tileOf s t).waits = [] ∧ m.unsent = [] ∧ m.unacked = [t] ∧
      tileLive s t = true ∧ admits s t (queueCtx q) = true ∧ poolFind s t m.home (ctxTenant s (queueCtx q)) = none ∧ poolNext s t m.home
      (ctxTenant s (queueCtx q)) = none ∧ chooseLine s t = some (n, none)) ∧
    (∃ s : State, ∃ q, ∃ m : McTile, ∃ rest : List McTile, ∃ b, (queueOf s q).mc = m :: rest ∧ m.waitFrom = some b ∧ b + (queueOf s
      q).skew ≤ s.tt.beats ∧ m.unsent ≠ [] ∧ calm s q ∧ (queueOf s q).finished = false) := by
  refine ⟨⟨tenantUp 0x33, .mgmt 1280 [7], ⟨1280, none, false, [7], none, true⟩, rfl, by decide +kernel, by decide +kernel⟩,
    ⟨putting 0x800 (tenantUp 0x33), .mgmt 1280 [7], ⟨1280, none, false, [7], none, true⟩, descOf (descB 0), ⟨rfl, by decide +kernel,
    by decide +kernel, by decide +kernel, by decide +kernel, by decide +kernel, ⟨descB 0, by decide +kernel, rfl⟩, by decide +kernel,
    by decide +kernel⟩⟩,
    ⟨going { queueWith (some (descB 0x100)) with ctrl := 0x7821, endpoint := 0x30F, acc := [7], accFrame := some 1 } camLine,
    .csiLine 3 3, _, descOf (descB 0x100), descB 0x100, Option.eq_some_of_isSome (by decide +kernel), by decide +kernel,
    by decide +kernel, by decide +kernel, by decide +kernel, by decide +kernel, by decide +kernel, rfl, by decide +kernel⟩, ⟨recorded,
    2, ⟨1280, some 5, true, [7], none, false⟩, descOf (descB 0), (1280, 5, [7]), [],
    ⟨congrArg (Option.map fun x : Nat × Nat × List Byte => (⟨x.1, some x.2.1, true, x.2.2, none,
    false⟩ : PutItem)) (show nextRecord recorded (.tileRecord 2 0) (kindRecords (tileOf recorded 2) 0) = some (1280, 5,
    [7]) from by decide +kernel), by decide +kernel, by decide +kernel, by decide +kernel, by decide +kernel, by decide +kernel,
    ⟨descB 0, by decide +kernel, rfl⟩, by decide +kernel, by decide +kernel⟩, by decide +kernel, rfl, rfl, by decide +kernel⟩,
    ⟨casting 0x80000005, 1280, List.replicate 4096 0, descOf (descB 0), ⟨by decide +kernel, by decide +kernel, by decide +kernel,
    by decide +kernel, by decide +kernel, by decide +kernel, ⟨descB 0, by decide +kernel, rfl⟩, by decide +kernel⟩,
    List.length_replicate .., by decide +kernel, by decide +kernel, by decide +kernel⟩, ⟨casting 0, 1280, List.replicate 4096 0,
    descOf (descB 0), ⟨by decide +kernel, by decide +kernel, by decide +kernel, by decide +kernel, by decide +kernel,
    by decide +kernel, ⟨descB 0, by decide +kernel, rfl⟩, by decide +kernel⟩, List.length_replicate .., by decide +kernel⟩,
    ⟨withRegs [(pgTsp 2, Off.TSP_REGION_BASE, 0x1001), (pgTsp 2, Off.TSP_REGION_CFG,
    0x2005)] (withQueue (tenantUp 0x33) { Queue.idle with mc := [mcTile [] [2]] }), 1280, 2, mcTile [] [2], 1, ?_⟩,
    ⟨atBeat 64 (withQueue (tenantUp 0x33) { Queue.idle with mc := [mcTile [2] []] }), 1280, mcTile [2] [], [], 0, ?_⟩⟩ <;>
    first
    | decide +kernel
    | (simp only [Admitted, Readable, DealDue, Issues, Dispatches, MayPut, reduceCtorEq, LaneFn.table.injEq, forall_eq', false_imp_iff, ne_eq,
        not_false_eq_true, implies_true]; done)
    | (simp only [Admitted, Readable, DealDue, Issues, Dispatches, MayPut, reduceCtorEq, LaneFn.table.injEq, forall_eq', false_imp_iff, ne_eq,
        not_false_eq_true, implies_true]; decide +kernel)

theorem test_hyps_FunctionsAndLink :
    let up (s : State) : Prop := s.boot.phase = .up ∧ s.host.linkUp = true ∧ 2 ≤ pwrState s
    (∃ s : State, ∃ t, 1 ≤ t ∧ t ≤ 15 ∧ tenantExists s t = true ∧ s.boot.phase = .up) ∧
    (∃ s : State, s.boot.phase = .up) ∧
    (∃ s : State, ∃ fn, s.boot.phase = .up ∧ tenantExists s fn = true ∧ fn ∉ s.host.d3) ∧
    (∃ s : State, ∃ fn, fn ∈ s.host.d3) ∧
    (∃ s : State, s.boot.phase = .training ∨ s.boot.phase = .waitPg ∧ s.host.linkUp = true) ∧
    (∃ s : State, ∃ fn, up s ∧ tenantExists s fn = false) ∧
    (∃ s : State, s.boot.phase = .up ∧ s.host.linkUp = true ∧ pwrState s ≤ 1) ∧
    (∃ s : State, ∃ n, up s ∧ s.host.vfEnable = false ∧ n ≤ 15) ∧
    (∃ s : State, up s ∧ flag s pgMb Off.MB_READY 4 = true) ∧
    (∃ s : State, up s) ∧
    (∃ s : State, ∃ fn, up s ∧ tenantExists s fn = true) ∧
    (∃ s : State, ∃ fn, up s ∧ tenantExists s fn = true) ∧
    (∃ s : State, ∃ fn, up s ∧ tenantExists s fn = true) ∧
    (∃ s : State, up s) ∧
    (∃ s : State, up s) ∧
    (∃ s : State, up s) ∧
    (∃ s : State, ∃ n, up s ∧ 1 ≤ n ∧ n ≤ 16 ∧ (ideOf s n).secure = false) ∧
    (∃ s : State, ∃ fn, ∃ v, hostLink s (fnOf fn) = .ok ∧ v < vectorsOf fn ∧ fn ∈ s.host.msixEn ∧ fn ∉ s.host.fnMask) ∧
    (∃ s : State, ∃ fn, ∃ v, hostLink s (fnOf fn) = .ok ∧ v < vectorsOf fn) ∧
    (∃ s : State, ∃ fn, hostLink s (fnOf fn) = .unsupported) ∧
    (∃ s : State, ∃ fn, hostLink s (fnOf fn) = .waits) ∧
    (∃ s : State, ∃ fn, up s ∧ tenantExists s fn = true ∧ fn ∈ s.host.msixEn) ∧
    (∃ s : State, ∃ fn, up s ∧ tenantExists s fn = true) ∧
    (∃ s : State, s.host.linkUp = true ∧ pageOn s pgPcie = true) := by
  refine ⟨⟨tenantUp 0x33, 1, ?_⟩, ⟨up, ?_⟩, ⟨up, 0, ?_⟩, ⟨{ up with host := { up.host with d3 := [0] } }, 0, ?_⟩,
    ⟨{ up with boot := { up.boot with phase := .training } }, ?_⟩, ⟨up, 5, ?_⟩, ⟨powered 1, ?_⟩, ⟨up, 15, ?_⟩, ⟨withRegs [(pgMb,
    Off.MB_READY, 0x1F)] up, ?_⟩, ⟨up, ?_⟩, ⟨up, 0, ?_⟩, ⟨tenantUp 0x33, 4, ?_⟩, ⟨tenantUp 0x33, 4, ?_⟩, ⟨up, ?_⟩, ⟨up, ?_⟩, ⟨up, ?_⟩,
    ⟨up, 16, ?_⟩, ⟨{ up with host := { up.host with msixEn := [0] } }, 0, 2047, ?_⟩, ⟨up, 0, 2047, ?_⟩, ⟨State.reset, 0, ?_⟩, ⟨ante,
    0, ?_⟩, ⟨{ up with host := { up.host with msixEn := [0] } }, 0, ?_⟩, ⟨up, 0, ?_⟩, ⟨up, ?_⟩⟩ <;>
    first
    | decide +kernel
    | (simp only [Admitted, Readable, DealDue, Issues, Dispatches, MayPut, reduceCtorEq, LaneFn.table.injEq, forall_eq', false_imp_iff, ne_eq,
        not_false_eq_true, implies_true]; done)
    | (simp only [Admitted, Readable, DealDue, Issues, Dispatches, MayPut, reduceCtorEq, LaneFn.table.injEq, forall_eq', false_imp_iff, ne_eq,
        not_false_eq_true, implies_true]; decide +kernel)

theorem test_hyps_Contexts :
    let asked (s : State) (w : Func) (c : Nat) : Prop :=
      c < 1024 ∧ Admitted s w (pgCtx c) Off.CTX_CMD ∧ (∀ n, w ≠ .vf n) ∧ flag s (pgCtx c) Off.CTX_CMD 31 = false ∧
        (w = .pf → ctxExists s c = true → tdiHeld s (ctxTenant s c) = false)
    (∃ s : State, ∃ w : Func, ∃ c, asked s w c ∧ createCheck s w c = 0) ∧
    (∃ s : State, ∃ w : Func, ∃ c, asked s w c ∧ createCheck s w c ≠ 0 ∧ (w = .pf → tdiHeld s (fld s (pgCtx c) Off.CTX_CFG 0 4) =
      false)) ∧
    (∃ s : State, ∃ w : Func, ∃ c, ∃ slot, ∃ k : Deck, asked s w c ∧ slot < 16 ∧ ctxState s c = 1 ∧ modelDeck s slot = some k ∧ (∀ e ∈
      s.host.placed, e % 16 ≠ slot)) ∧
    (∃ s : State, ∃ w : Func, ∃ c, ∃ slot, ∃ k : Deck, asked s w c ∧ slot < 16 ∧ ctxState s c = 1 ∧ modelDeck s slot = some k ∧
      s.host.placed.find? (fun e => e % 16 == slot) = some slot ∧ raiseDeck (placementOf k.bytes) = false ∧ fdOn s = false) ∧
    (∃ s : State, ∃ w : Func, ∃ c, ∃ slot, ∃ k : Deck, ∃ r, asked s w c ∧ slot < 16 ∧ ctxState s c = 1 ∧ modelDeck s slot = some k ∧
      s.host.placed.find? (fun e => e % 16 == slot) = some (slot + 16 * r) ∧ r ≠ 0) ∧
    (∃ s : State, ∃ w : Func, ∃ c, ∃ slot, asked s w c ∧ slot < 16 ∧ ctxState s c ≠ 1) ∧
    (∃ s : State, ∃ w : Func, ∃ c, ∃ slot, asked s w c ∧ slot < 16 ∧ ctxState s c = 1 ∧ modelDeck s slot = none) ∧
    (∃ s : State, ∃ slot, ∃ k : Deck, ∃ c, slot < 16 ∧ serviceRuns s = true ∧ modelDeck s slot = some k ∧ (∀ e ∈ s.host.placed, e % 16 ≠
      slot) ∧ c ∈ boundTo s slot ∧ ctxState s c = 2 ∧ raiseDeck (placementOf k.bytes) = false ∧ fdOn s = false ∧ placementCheck s
      k.bytes ≠ 4) ∧
    (∃ s : State, ∃ w : Func, ∃ c, asked s w c ∧ ctxState s c = 3 ∧ ctxQuiet s c = true) ∧
    (∃ s : State, ∃ w : Func, ∃ c, asked s w c ∧ ctxState s c = 3 ∧ ctxQuiet s c = false) ∧
    (∃ s : State, ∃ w : Func, ∃ c, asked s w c ∧ ctxState s c ≠ 3) ∧
    (∃ s : State, ∃ w : Func, ∃ c, asked s w c ∧ (ctxState s c = 1 ∨ ctxState s c = 2 ∨ ctxState s c = 3)) ∧
    (∃ s : State, ∃ w : Func, ∃ c, asked s w c ∧ (ctxState s c = 1 ∨ ctxState s c = 2 ∨ ctxState s c = 3)) ∧
    (∃ s : State, ∃ w : Func, ∃ c, asked s w c ∧ (ctxState s c = 1 ∨ ctxState s c = 2 ∨ ctxState s c = 3)) ∧
    (∃ s : State, ∃ w : Func, ∃ c, asked s w c ∧ (ctxState s c = 0 ∨ 4 ≤ ctxState s c)) ∧
    (∃ s : State, ∃ w : Func, ∃ c, asked s w c ∧ (ctxState s c = 0 ∨ 4 ≤ ctxState s c)) ∧
    (∃ s : State, ∃ w : Nat, ∃ c, c < 1024 ∧ Admitted s (.vf w) (pgCtx c) Off.CTX_CMD) ∧
    (∃ s : State, ∃ c, ctxExists s c = true ∧ ctxState s c = 4 ∧ ctxQuiet s c = true) := by
  refine ⟨⟨up, .pf, 1023, ⟨by decide +kernel, ⟨by decide +kernel, by decide +kernel⟩, nofun, by decide +kernel, by decide +kernel⟩,
    by decide +kernel⟩, ⟨tenantUp 0x33, .pf, 5, ⟨by decide +kernel, ⟨by decide +kernel, by decide +kernel⟩, nofun, by decide +kernel,
    by decide +kernel⟩, by decide +kernel, by decide +kernel⟩, ⟨decked 1 [], .pf, 5, 3, modelDeck3, ⟨by decide +kernel,
    ⟨by decide +kernel, by decide +kernel⟩, nofun, by decide +kernel, by decide +kernel⟩, by decide +kernel, by decide +kernel,
    by decide +kernel, by decide +kernel⟩, ⟨placing 1 [3], .pf, 5, 3, placedDeck, ⟨by decide +kernel, ⟨by decide +kernel,
    by decide +kernel⟩, nofun, by decide +kernel, by decide +kernel⟩, by decide +kernel, by decide +kernel, rfl, by decide +kernel,
    by decide +kernel, by decide +kernel⟩, ⟨decked 1 [19], .mgmt, 5, 3, modelDeck3, 1, ⟨by decide +kernel, ⟨by decide +kernel,
    by decide +kernel⟩, nofun, by decide +kernel, by decide +kernel⟩, by decide +kernel, by decide +kernel, by decide +kernel,
    by decide +kernel, by decide +kernel⟩, ⟨tenantUp 0x33, .pf, 5, 15, ⟨by decide +kernel, ⟨by decide +kernel, by decide +kernel⟩,
    nofun, by decide +kernel, by decide +kernel⟩, by decide +kernel, by decide +kernel⟩, ⟨tenantUp 1, .pf, 5, 15, ⟨by decide +kernel,
    ⟨by decide +kernel, by decide +kernel⟩, nofun, by decide +kernel, by decide +kernel⟩, by decide +kernel, by decide +kernel,
    by decide +kernel⟩, ⟨placing 0x32 [], 3, placedDeck, 5, by decide +kernel, by decide +kernel, rfl, by decide +kernel,
    by decide +kernel, by decide +kernel, by decide +kernel, by decide +kernel, by decide +kernel⟩, ⟨tenantUp 0x33, .pf, 5,
    ⟨by decide +kernel, ⟨by decide +kernel, by decide +kernel⟩, nofun, by decide +kernel, by decide +kernel⟩, by decide +kernel,
    by decide +kernel⟩, ⟨withQueue (tenantUp 0x33) { Queue.idle with ctrl := 0x7801 }, .pf, 5, ⟨by decide +kernel, ⟨by decide +kernel,
    by decide +kernel⟩, nofun, by decide +kernel, by decide +kernel⟩, by decide +kernel, by decide +kernel⟩, ⟨tenantUp 1, .pf, 5,
    ⟨by decide +kernel, ⟨by decide +kernel, by decide +kernel⟩, nofun, by decide +kernel, by decide +kernel⟩, by decide +kernel⟩,
    ⟨tenantUp 1, .pf, 5, ⟨by decide +kernel, ⟨by decide +kernel, by decide +kernel⟩, nofun, by decide +kernel, by decide +kernel⟩,
    by decide +kernel⟩, ⟨tenantUp 0x32, .pf, 5, ⟨by decide +kernel, ⟨by decide +kernel, by decide +kernel⟩, nofun, by decide +kernel,
    by decide +kernel⟩, by decide +kernel⟩, ⟨tenantUp 0x33, .pf, 5, ⟨by decide +kernel, ⟨by decide +kernel, by decide +kernel⟩, nofun,
    by decide +kernel, by decide +kernel⟩, by decide +kernel⟩, ⟨up, .pf, 1023, ⟨by decide +kernel, ⟨by decide +kernel,
    by decide +kernel⟩, nofun, by decide +kernel, by decide +kernel⟩, by decide +kernel⟩, ⟨tenantUp 4, .pf, 5, ⟨by decide +kernel,
    ⟨by decide +kernel, by decide +kernel⟩, nofun, by decide +kernel, by decide +kernel⟩, by decide +kernel⟩, ⟨tenantUp 0x33, 1, 5,
    ?_⟩, ⟨tenantUp 4, 5, ?_⟩⟩ <;>
    first
    | decide +kernel
    | (simp only [Admitted, Readable, DealDue, Issues, Dispatches, MayPut, reduceCtorEq, LaneFn.table.injEq, forall_eq', false_imp_iff, ne_eq,
        not_false_eq_true, implies_true]; done)
    | (simp only [Admitted, Readable, DealDue, Issues, Dispatches, MayPut, reduceCtorEq, LaneFn.table.injEq, forall_eq', false_imp_iff, ne_eq,
        not_false_eq_true, implies_true]; decide +kernel)

theorem test_hyps_ServiceCells :
    let size (k : Nat) : Prop := 4 ≤ k ∧ k ≤ 12
    let tail (s : State) (c : Nat) : Nat := (rd s (pgCtx c) Off.SVC_D2H_TAIL).toNat
    let used (s : State) (c : Nat) : Nat := ringUsed (tail s c) (rd s (pgCtx c) Off.SVC_D2H_HEAD).toNat
    let ready (s : State) (c : Nat) (xs : List Cell) : Prop :=
      serviceCtx s (ctxTenant s c) = some c ∧ holdOf s (ctxTenant s c) = ⟨[], 0⟩ ∧ hostOpen s (ctxTenant s c) = true ∧
        flag s (pgCtx c) Off.SVC_RING_CFG 0 = true ∧ used s c + xs.length ≤ d2hSize s c
    let field (x : List Byte) (a n : Nat) : Nat := ofLeBytes ((x.drop a).take n)
    let ack (s : State) (t : Nat) (x : List Byte) : Cell :=
      { kind := 0x204, flags := 0, code := h2dCheck t x, corr := field x 8 4, tt := 64 * beatNo s, payload := x.take 2 ++ (x.drop 4).take 4 }
    let answers (s : State) (t : Nat) (x : List Byte) : List Cell :=
      let version := statusCell s 1 (((deckOf s 2).map fun d => deckVersion d.bytes).getD 0) 0 (field x 8 4)
      let power := statusCell s 2 (pwrState s) (rd s pgPower Off.PWR_WAKE_CAUSE).toNat (field x 8 4)
      (if h2dCheck t x = 0 ∧ field x 0 2 = 0x104 then version :: (if t = 0 then [power] else []) else []) ++
        (if h2dCheck t x ≠ 0 ∨ bitAt (field x 2 1) 2 = true then [ack s t x] else [])
    (∃ s : State, ∃ w : Func, ∃ c, ∃ v : Word, Admitted s w (pgCtx c) Off.SVC_RING_CFG ∧ isService s c = true ∧ flag s (pgCtx c)
      Off.SVC_RING_CFG 0 = true ∧ bitOf v 0 = false) ∧
    (∃ s : State, ∃ w : Func, ∃ c, ∃ v : Word, Admitted s w (pgCtx c) Off.SVC_RING_CFG ∧ isService s c = true ∧ ((flag s (pgCtx c)
      Off.SVC_RING_CFG 0 = true ∧ bitOf v 0 = true) ∨ (flag s (pgCtx c) Off.SVC_RING_CFG 0 = false ∧ ¬ (size (fieldOf v 4 4) ∧ size
      (fieldOf v 8 4))))) ∧
    (∃ s : State, ∃ w : Func, ∃ c, ∃ v : Word, Admitted s w (pgCtx c) Off.SVC_RING_CFG ∧ isService s c = true ∧ ((flag s (pgCtx c)
      Off.SVC_RING_CFG 0 = true ∧ bitOf v 0 = true) ∨ (flag s (pgCtx c) Off.SVC_RING_CFG 0 = false ∧ ¬ (size (fieldOf v 4 4) ∧ size
      (fieldOf v 8 4))))) ∧
    (∃ s : State, ∃ w : Func, ∃ c, ∃ v : Word, ∃ off, ∃ i : Instr, (off, i) ∈ [(Off.SVC_RING_CFG, Instr.svcRingEnable w c v),
      (Off.SVC_H2D_TAIL, .h2dTailWrite w c v), (Off.SVC_D2H_HEAD, .d2hHeadWrite w c v)] ∧ Admitted s w (pgCtx c) off ∧ isService s c =
      false) ∧
    (∃ s : State, ∃ w : Func, ∃ c, ∃ v : Word, ∃ off, ∃ i : Instr, (off, i) ∈ [(Off.SVC_RING_CFG, Instr.svcRingEnable w c v),
      (Off.SVC_H2D_TAIL, .h2dTailWrite w c v), (Off.SVC_D2H_HEAD, .d2hHeadWrite w c v)] ∧ Admitted s w (pgCtx c) off ∧ isService s c =
      false) ∧
    (∃ s : State, ∃ w : Func, ∃ c, ∃ v : Word, ∃ off, ∃ i : Instr, (off, i) ∈ [(Off.SVC_RING_CFG, Instr.svcRingEnable w c v),
      (Off.SVC_H2D_TAIL, .h2dTailWrite w c v), (Off.SVC_D2H_HEAD, .d2hHeadWrite w c v)] ∧ Admitted s w (pgCtx c) off ∧ isService s c =
      false) ∧
    (∃ s : State, ∃ w : Func, ∃ c, Admitted s w (pgCtx c) Off.SVC_H2D_TAIL ∧ isService s c = true) ∧
    (∃ s : State, ∃ w : Func, ∃ c, Admitted s w (pgCtx c) Off.SVC_D2H_HEAD ∧ isService s c = true) ∧
    (∃ s : State, ∃ c, ∃ bs : List Byte, ∃ kind, ∃ i : Instr, (kind, i) ∈ [(0x101, Instr.applianceEvent c bs), (0x102, .confirm c bs),
      (0x103, .say c bs), (0x104, .query c bs)] ∧ h2dMay s c = true ∧ (field ((bs ++ List.replicate 64 0).take 64) 0 2 = kind ∨ h2dLen
      (field ((bs ++ List.replicate 64 0).take 64) 0 2) = none) ∧ ready s c (answers s (ctxTenant s c) ((bs ++ List.replicate 64 0).take
      64))) ∧
    (∃ s : State, ∃ c, ∃ bs : List Byte, ∃ kind, ∃ i : Instr, (kind, i) ∈ [(0x101, Instr.applianceEvent c bs), (0x102, .confirm c bs),
      (0x103, .say c bs), (0x104, .query c bs)] ∧ h2dMay s c = true ∧ (field ((bs ++ List.replicate 64 0).take 64) 0 2 = kind ∨ h2dLen
      (field ((bs ++ List.replicate 64 0).take 64) 0 2) = none) ∧ ready s c (answers s (ctxTenant s c) ((bs ++ List.replicate 64 0).take
      64))) ∧
    (∃ s : State, ∃ c, ∃ bs : List Byte, ∃ kind, ∃ i : Instr, (kind, i) ∈ [(0x101, Instr.applianceEvent c bs), (0x102, .confirm c bs),
      (0x103, .say c bs), (0x104, .query c bs)] ∧ h2dMay s c = true ∧ (field ((bs ++ List.replicate 64 0).take 64) 0 2 = kind ∨ h2dLen
      (field ((bs ++ List.replicate 64 0).take 64) 0 2) = none) ∧ ready s c (answers s (ctxTenant s c) ((bs ++ List.replicate 64 0).take
      64))) ∧
    (∃ s : State, ∃ c, ∃ bs : List Byte, ∃ kind, ∃ i : Instr, (kind, i) ∈ [(0x101, Instr.applianceEvent c bs), (0x102, .confirm c bs),
      (0x103, .say c bs), (0x104, .query c bs)] ∧ h2dMay s c = true ∧ (field ((bs ++ List.replicate 64 0).take 64) 0 2 = kind ∨ h2dLen
      (field ((bs ++ List.replicate 64 0).take 64) 0 2) = none) ∧ ready s c (answers s (ctxTenant s c) ((bs ++ List.replicate 64 0).take
      64))) ∧
    (∃ s : State, serviceRuns s = true) ∧
    (∃ s : State, ∃ t, ∃ code, serviceRuns s = true ∧ 1 ≤ code ∧ code ≤ 7 ∧ statusOpen t code = true) ∧
    (∃ s : State, ∃ code, serviceRuns s = true ∧ 1 ≤ code ∧ code ≤ 6) ∧
    (∃ s : State, ∃ code, ∃ c, serviceRuns s = true ∧ 1 ≤ code ∧ code ≤ 6 ∧ serviceCtx s 0 = some c ∧ 64 ≤ (holdOf s 0).cells.length) :=
      by
  refine ⟨⟨serving [(pgCtx 5, Off.SVC_RING_CFG, 0x441)], .pf, 5, 0, ?_⟩, ⟨serving [(pgCtx 5, Off.SVC_RING_CFG, 0x441)], .pf, 5, 0x441,
    ?_⟩, ⟨serving [], .pf, 5, 0x431, ?_⟩, ⟨tenantUp 0x33, .pf, 5, 0, Off.SVC_RING_CFG, .svcRingEnable .pf 5 0, ?_⟩, ⟨tenantUp 0x33,
    .pf, 5, 0, Off.SVC_H2D_TAIL, .h2dTailWrite .pf 5 0, ?_⟩, ⟨tenantUp 0x33, .pf, 5, 0, Off.SVC_D2H_HEAD, .d2hHeadWrite .pf 5 0, ?_⟩,
    ⟨serving [(pgCtx 5, Off.SVC_RING_CFG, 0x441)], .pf, 5, ?_⟩, ⟨serving [(pgCtx 5, Off.SVC_RING_CFG, 0x441)], .pf, 5, ?_⟩,
    ⟨serving [(pgCtx 5, Off.SVC_RING_CFG, 0x441), (pgCtx 5, Off.SVC_H2D_TAIL, 1)], 5, [1, 1], 0x101, .applianceEvent 5 [1, 1], ?_⟩,
    ⟨serving [(pgCtx 5, Off.SVC_RING_CFG, 0x441), (pgCtx 5, Off.SVC_H2D_TAIL, 1)], 5, [2, 1], 0x102, .confirm 5 [2, 1], ?_⟩,
    ⟨serving [(pgCtx 5, Off.SVC_RING_CFG, 0x441), (pgCtx 5, Off.SVC_H2D_TAIL, 1)], 5, [3, 1], 0x103, .say 5 [3, 1], ?_⟩,
    ⟨serving [(pgCtx 5, Off.SVC_RING_CFG, 0x441), (pgCtx 5, Off.SVC_H2D_TAIL, 1)], 5, [4, 1], 0x104, .query 5 [4, 1], ?_⟩, ⟨up, ?_⟩,
    ⟨up, 1, 6, ?_⟩, ⟨up, 6, ?_⟩, ⟨held, 6, 5, ?_⟩⟩ <;>
    first
    | decide +kernel
    | (simp only [Admitted, Readable, DealDue, Issues, Dispatches, MayPut, reduceCtorEq, LaneFn.table.injEq, forall_eq', false_imp_iff, ne_eq,
        not_false_eq_true, implies_true]; done)
    | (simp only [Admitted, Readable, DealDue, Issues, Dispatches, MayPut, reduceCtorEq, LaneFn.table.injEq, forall_eq', false_imp_iff, ne_eq,
        not_false_eq_true, implies_true]; decide +kernel)

theorem test_hyps_Attestation :
    let ready (s : State) (fn stage : Nat) : Prop := doeReady s fn = true ∧ bootRunning s = true ∧ stage ≤ spdmStage s fn
    let chain (s : State) : List Byte := certChain s
    (∃ s : State, ∃ fn, doeReady s fn = true) ∧
    (∃ s : State, ∃ fn, doeReady s fn = true ∧ bootRunning s = false) ∧
    (∃ s : State, ∃ fn, ready s fn 0) ∧
    (∃ s : State, ∃ fn, ready s fn 1) ∧
    (∃ s : State, ∃ fn, ready s fn 2) ∧
    (∃ s : State, ∃ fn, ready s fn 2) ∧
    (∃ s : State, ∃ fn, ready s fn 3) ∧
    (∃ s : State, ∃ fn, ∃ off, ready s fn 3 ∧ off ≤ (chain s).length) ∧
    (∃ s : State, ∃ fn, ∃ slot, ∃ off, ready s fn 3 ∧ (slot ≠ 0 ∨ (chain s).length < off)) ∧
    (∃ s : State, ∃ fn, ∃ slot, ∃ off, ready s fn 3 ∧ (slot ≠ 0 ∨ (chain s).length < off)) ∧
    (∃ s : State, ∃ fn, ready s fn 3) ∧
    (∃ s : State, ∃ fn, ∃ slot, ready s fn 3 ∧ slot ≠ 0) ∧
    (∃ s : State, ∃ fn, ∃ index, ∃ blocks : List (Nat × List Byte), ready s fn 3 ∧ measured s index = some blocks) ∧
    (∃ s : State, ∃ fn, ∃ index, ∃ blocks : List (Nat × List Byte), ready s fn 3 ∧ measured s index = some blocks) ∧
    (∃ s : State, ∃ fn, ∃ index, ∃ blocks : List (Nat × List Byte), ready s fn 3 ∧ measured s index = some blocks) ∧
    (∃ s : State, ∃ fn, ∃ index, ready s fn 3 ∧ 24 < index ∧ index ≠ 0xFF) ∧
    (∃ s : State, ∃ fn, ∃ index, ready s fn 3 ∧ 24 < index ∧ index ≠ 0xFF) ∧
    (∃ s : State, ∃ fn, ∃ need, ∃ i : Instr, ∃ slot, ∃ off, ∃ len, ∃ index, ∃ id, ∃ all, ∃ signed, ∃ offers, (need, i) ∈ [(1,
      Instr.getCapabilities fn), (2, .negotiateAlgorithms fn offers), (3, .getDigests fn), (3, .getCertificate fn slot off len), (3,
      .challenge fn slot all), (3, .getMeasurements fn index signed), (3, .keyExchange fn slot id)] ∧ ready s fn 0 ∧ spdmStage s fn <
      need) ∧
    (∃ s : State, ∃ fn, ∃ need, ∃ i : Instr, ∃ slot, ∃ off, ∃ len, ∃ index, ∃ id, ∃ all, ∃ signed, ∃ offers, (need, i) ∈ [(1,
      Instr.getCapabilities fn), (2, .negotiateAlgorithms fn offers), (3, .getDigests fn), (3, .getCertificate fn slot off len), (3,
      .challenge fn slot all), (3, .getMeasurements fn index signed), (3, .keyExchange fn slot id)] ∧ ready s fn 0 ∧ spdmStage s fn <
      need) ∧
    (∃ s : State, ∃ fn, ∃ need, ∃ i : Instr, ∃ slot, ∃ off, ∃ len, ∃ index, ∃ id, ∃ all, ∃ signed, ∃ offers, (need, i) ∈ [(1,
      Instr.getCapabilities fn), (2, .negotiateAlgorithms fn offers), (3, .getDigests fn), (3, .getCertificate fn slot off len), (3,
      .challenge fn slot all), (3, .getMeasurements fn index signed), (3, .keyExchange fn slot id)] ∧ ready s fn 0 ∧ spdmStage s fn <
      need) := by
  refine ⟨⟨up, 0, ?_⟩, ⟨withRegs [(pgMb, Off.MB_READY, 3)] up, 0, ?_⟩, ⟨up, 0, ?_⟩, ⟨staged 1 [], 0, ?_⟩, ⟨staged 2 [], 0, ?_⟩,
    ⟨staged 2 [], 0, ?_⟩, ⟨staged 3 [], 0, ?_⟩, ⟨staged 3 [], 0, 0, ⟨by decide +kernel, by decide +kernel, by decide +kernel⟩,
    Nat.zero_le _⟩, ⟨staged 3 [], 0, 1, 0, ⟨by decide +kernel, by decide +kernel, by decide +kernel⟩, .inl (by decide)⟩, ⟨staged 3 [],
    0, 0, (certChain (staged 3 [])).length + 1, ⟨by decide +kernel, by decide +kernel, by decide +kernel⟩, .inr (Nat.lt_succ_self _)⟩,
    ⟨staged 3 [], 0, ?_⟩, ⟨staged 3 [], 0, 7, ?_⟩, ⟨staged 3 [], 0, 0, [], ⟨by decide +kernel, by decide +kernel, by decide +kernel⟩,
    rfl⟩, ⟨staged 3 [], 0, 24, _, ⟨by decide +kernel, by decide +kernel, by decide +kernel⟩, rfl⟩, ⟨staged 3 [], 0, 0xFF, _,
    ⟨by decide +kernel, by decide +kernel, by decide +kernel⟩, rfl⟩, ⟨staged 3 [], 0, 25, ?_⟩, ⟨staged 3 [], 0, 254, ?_⟩, ⟨up, 0, 1,
    .getCapabilities 0, 0, 0, 0, 0, 0, false, false, false, ?_⟩, ⟨staged 1 [], 0, 2, .negotiateAlgorithms 0 false, 0, 0, 0, 0, 0,
    false, false, false, ?_⟩, ⟨staged 2 [], 0, 3, .getDigests 0, 0, 0, 0, 0, 0, false, false, false, ?_⟩⟩ <;>
    first
    | decide +kernel
    | (simp only [Admitted, Readable, DealDue, Issues, Dispatches, MayPut, reduceCtorEq, LaneFn.table.injEq, forall_eq', false_imp_iff, ne_eq,
        not_false_eq_true, implies_true]; done)
    | (simp only [Admitted, Readable, DealDue, Issues, Dispatches, MayPut, reduceCtorEq, LaneFn.table.injEq, forall_eq', false_imp_iff, ne_eq,
        not_false_eq_true, implies_true]; decide +kernel)

theorem test_hyps_Sessions :
    let ready (s : State) (fn : Nat) : Prop := doeReady s fn = true ∧ bootRunning s = true
    let used (s : State) (fn id : Nat) : Prop := ∃ x ∈ s.sec.sessions, x.fn = fn ∧ x.id = id
    (∃ s : State, ∃ fn, ∃ id, ready s fn ∧ 3 ≤ spdmStage s fn ∧ (¬ used s fn id) ∧ (sessionsOf s fn).length < 2) ∧
    (∃ s : State, ∃ fn, ∃ id, ready s fn ∧ 3 ≤ spdmStage s fn ∧ (¬ used s fn id) ∧ 2 ≤ (sessionsOf s fn).length) ∧
    (∃ s : State, ∃ fn, ∃ slot, ∃ id, ready s fn ∧ 3 ≤ spdmStage s fn ∧ (slot ≠ 0 ∨ used s fn id)) ∧
    (∃ s : State, ∃ fn, ∃ slot, ∃ id, ready s fn ∧ 3 ≤ spdmStage s fn ∧ (slot ≠ 0 ∨ used s fn id)) ∧
    (∃ s : State, ∃ fn, ∃ id, ∃ x : Session, ready s fn ∧ x ∈ s.sec.sessions ∧ x.fn = fn ∧ x.id = id ∧ x.open_ = false) ∧
    (∃ s : State, ∃ fn, ∃ id, ready s fn ∧ (∀ x ∈ s.sec.sessions, x.fn = fn → x.id = id → x.open_ = true)) ∧
    (∃ s : State, ∃ fn, ∃ id, ready s fn ∧ (∀ x ∈ s.sec.sessions, x.fn = fn → x.id = id → x.open_ = true)) ∧
    (∃ s : State, ∃ fn, ∃ id, ready s fn ∧ inSession s fn id = true) ∧
    (∃ s : State, ∃ fn, ∃ id, ready s fn ∧ inSession s fn id = true) ∧
    (∃ s : State, ∃ fn, ∃ id, ready s fn ∧ inSession s fn id = true) ∧
    (∃ s : State, ∃ fn, ∃ id, ready s fn ∧ inSession s fn id = false) ∧
    (∃ s : State, ∃ fn, ∃ id, ∃ x : Session, x ∈ s.sec.sessions ∧ x.fn = fn ∧ x.id = id ∧ x.last + 120000000000 ≤ tnow s) := by
  refine ⟨⟨staged 3 [], 0, 7, ?_⟩, ⟨staged 3 [⟨0, 1, true, 0⟩, ⟨0, 2, true, 0⟩], 0, 7, ?_⟩, ⟨staged 3 [], 0, 1, 7, ?_⟩, ⟨staged 3 [⟨0,
    7, true, 0⟩], 0, 0, 7, ?_⟩, ⟨staged 3 [⟨0, 7, false, 0⟩], 0, 7, ⟨0, 7, false, 0⟩, ?_⟩, ⟨up, 0, 7, ?_⟩, ⟨staged 3 [⟨0, 7, true,
    0⟩], 0, 7, ?_⟩, ⟨staged 3 [⟨0, 7, true, 0⟩], 0, 7, ?_⟩, ⟨staged 3 [⟨0, 7, true, 0⟩], 0, 7, ?_⟩, ⟨staged 3 [⟨0, 7, true, 0⟩], 0, 7,
    ?_⟩, ⟨up, 0, 7, ?_⟩, ⟨atBeat 1875000000 (staged 3 [⟨0, 7, true, 0⟩]), 0, 7, ⟨0, 7, true, 0⟩, ?_⟩⟩ <;>
    first
    | decide +kernel
    | (simp only [Admitted, Readable, DealDue, Issues, Dispatches, MayPut, reduceCtorEq, LaneFn.table.injEq, forall_eq', false_imp_iff, ne_eq,
        not_false_eq_true, implies_true]; done)
    | (simp only [Admitted, Readable, DealDue, Issues, Dispatches, MayPut, reduceCtorEq, LaneFn.table.injEq, forall_eq', false_imp_iff, ne_eq,
        not_false_eq_true, implies_true]; decide +kernel)

theorem test_hyps_IdeStreams :
    let asked (s : State) (id stream set dir : Nat) : Prop :=
      doeReady s 0 = true ∧ bootRunning s = true ∧ inSession s 0 id = true ∧ stream ≤ 16 ∧ set < 2 ∧ dir < 2
    (∃ s : State, ∃ id, asked s id 0 0 0) ∧
    (∃ s : State, ∃ id, ∃ stream, ∃ set, ∃ dir, asked s id stream set dir ∧ 2 * set + dir ∉ (ideOf s stream).active) ∧
    (∃ s : State, ∃ id, ∃ stream, ∃ set, ∃ dir, asked s id stream set dir ∧ 2 * set + dir ∈ (ideOf s stream).active) ∧
    (∃ s : State, ∃ id, ∃ stream, ∃ set, ∃ dir, asked s id stream set dir ∧ 2 * set + dir ∈ (ideOf s stream).keys) ∧
    (∃ s : State, ∃ id, ∃ stream, ∃ set, ∃ dir, asked s id stream set dir) ∧
    (∃ s : State, ∃ stream, (ideOf s stream).secure = true ∧ s.boot.phase = .up) := by
  refine ⟨⟨staged 3 [⟨0, 7, true, 0⟩], 7, ?_⟩, ⟨staged 3 [⟨0, 7, true, 0⟩], 7, 16, 1, 1, ?_⟩, ⟨ided 16 ⟨[3], [3], false, false, 0, 0⟩,
    7, 16, 1, 1, ?_⟩, ⟨ided 16 ⟨[3], [], false, false, 0, 0⟩, 7, 16, 1, 1, ?_⟩, ⟨ided 0 ⟨[0, 1], [0, 1], true, false, 0, 0⟩, 7, 0, 0,
    0, ?_⟩, ⟨ided 0 ⟨[0, 1], [0, 1], true, false, 0, 0⟩, 0, ?_⟩⟩ <;>
    first
    | decide +kernel
    | (simp only [Admitted, Readable, DealDue, Issues, Dispatches, MayPut, reduceCtorEq, LaneFn.table.injEq, forall_eq', false_imp_iff, ne_eq,
        not_false_eq_true, implies_true]; done)
    | (simp only [Admitted, Readable, DealDue, Issues, Dispatches, MayPut, reduceCtorEq, LaneFn.table.injEq, forall_eq', false_imp_iff, ne_eq,
        not_false_eq_true, implies_true]; decide +kernel)

theorem test_hyps_Interfaces :
    let asked (s : State) (t id : Nat) : Prop :=
      1 ≤ t ∧ t ≤ 15 ∧ doeReady s t = true ∧ bootRunning s = true ∧ inSession s t id = true
    let quietCtxs (s : State) (t : Nat) : Prop := ∀ c ∈ tenantCtxs s t, ctxState s c ≠ 2 ∧ ctxState s c ≠ 4
    (∃ s : State, ∃ t, ∃ id, asked s t id) ∧
    (∃ s : State, ∃ t, ∃ id, asked s t id) ∧
    (∃ s : State, ∃ t, ∃ id, asked s t id) ∧
    (∃ s : State, ∃ t, ∃ id, asked s t id ∧ tdiHeld s t = true) ∧
    (∃ s : State, ∃ t, ∃ id, asked s t id ∧ tdiHeld s t = false) ∧
    (∃ s : State, ∃ t, ∃ id, ∃ n, asked s t id ∧ teeStream s t = some n ∧ tdiState s t = 0 ∧ quietCtxs s t) ∧
    (∃ s : State, ∃ t, ∃ id, asked s t id ∧ (teeStream s t = none ∨ tdiState s t ≠ 0 ∨ ¬ quietCtxs s t)) ∧
    (∃ s : State, ∃ t, ∃ id, asked s t id ∧ (teeStream s t = none ∨ tdiState s t ≠ 0 ∨ ¬ quietCtxs s t)) ∧
    (∃ s : State, ∃ t, ∃ id, asked s t id ∧ (teeStream s t = none ∨ tdiState s t ≠ 0 ∨ ¬ quietCtxs s t)) ∧
    (∃ s : State, ∃ t, ∃ id, asked s t id ∧ tdiState s t = 1) ∧
    (∃ s : State, ∃ t, ∃ id, asked s t id ∧ tdiState s t ≠ 1) ∧
    (∃ s : State, ∃ t, ∃ id, asked s t id ∧ tdiState s t ≠ 0 ∧ tenantCtxs s t = []) ∧
    (∃ s : State, ∃ t, ∃ id, asked s t id ∧ tdiState s t ≠ 0 ∧ tenantCtxs s t ≠ []) ∧
    (∃ s : State, ∃ t, ∃ id, asked s t id ∧ tdiState s t = 0) ∧
    (∃ s : State, doeReady s 0 = true ∧ bootRunning s = true) := by
  refine ⟨⟨tdi 0 3 [], 1, 7, ?_⟩, ⟨tdi 0 3 [], 1, 7, ?_⟩, ⟨tdi 0 3 [], 1, 7, ?_⟩, ⟨tdi 2 3 [], 1, 7, ?_⟩, ⟨tdi 3 3 [], 1, 7, ?_⟩,
    ⟨tdi 0 3 [(1, tee1)], 1, 7, 1, ?_⟩, ⟨tdi 0 3 [], 1, 7, ?_⟩, ⟨tdi 1 3 [(1, tee1)], 1, 7, ?_⟩, ⟨tdi 0 2 [(1, tee1)], 1, 7, ?_⟩,
    ⟨tdi 1 3 [], 1, 7, ?_⟩, ⟨tdi 2 3 [], 1, 7, ?_⟩, ⟨{ tdi 2 3 [] with host := { (tdi 2 3 []).host with ctxs := [] } }, 1, 7, ?_⟩,
    ⟨tdi 2 3 [], 1, 7, ?_⟩, ⟨tdi 0 3 [], 1, 7, ?_⟩, ⟨up, ?_⟩⟩ <;>
    first
    | decide +kernel
    | (simp only [Admitted, Readable, DealDue, Issues, Dispatches, MayPut, reduceCtorEq, LaneFn.table.injEq, forall_eq', false_imp_iff, ne_eq,
        not_false_eq_true, implies_true]; done)
    | (simp only [Admitted, Readable, DealDue, Issues, Dispatches, MayPut, reduceCtorEq, LaneFn.table.injEq, forall_eq', false_imp_iff, ne_eq,
        not_false_eq_true, implies_true]; decide +kernel)

theorem test_hyps_KeysAndGrants :
    let asked (s : State) (t id : Nat) : Prop := doeReady s t = true ∧ bootRunning s = true ∧ inSession s t id = true
    let padded (key : List Byte) : List Byte := (key ++ List.replicate 64 0).take 64
    let cmd (s : State) : Prop :=
      Admitted s .pf pgMb Off.MB_KEY_CMD ∧ deviceFatal s = false ∧ flag s pgMb Off.MB_KEY_CMD 31 = false ∧ flag s pgMb Off.CTRL 0 = true
    let grant (k : Nat) : Nat := Off.MB_EXPERT_PF + 4 * k
    (∃ s : State, ∃ t, ∃ id, ∃ k, ∃ kind, ∃ reserved, ∃ key : List Byte, asked s t id ∧ deliverStatus s t k kind (padded key) reserved =
      0) ∧
    (∃ s : State, ∃ t, ∃ id, ∃ k, ∃ kind, ∃ reserved, ∃ key : List Byte, asked s t id ∧ deliverStatus s t k kind (padded key) reserved ≠
      0) ∧
    (∃ s : State, ∃ t, ∃ id, ∃ k, ∃ kind, ∃ reserved, ∃ key : List Byte, asked s t id ∧ deliverStatus s t k kind (padded key) reserved ≠
      0) ∧
    (∃ s : State, ∃ t, ∃ id, ∃ k, asked s t id ∧ keyAssigned s k t = true ∧ keyNamed s k = false) ∧
    (∃ s : State, ∃ t, ∃ id, ∃ k, ∃ reserved, asked s t id ∧ (reserved = true ∨ keyAssigned s k t = false ∨ keyNamed s k = true)) ∧
    (∃ s : State, ∃ t, ∃ id, ∃ k, ∃ reserved, asked s t id ∧ (reserved = true ∨ keyAssigned s k t = false ∨ keyNamed s k = true)) ∧
    (∃ s : State, ∃ t, ∃ id, ∃ k, ∃ reserved, asked s t id ∧ (reserved = true ∨ keyAssigned s k t = false ∨ keyNamed s k = true)) ∧
    (∃ s : State, ∃ t, ∃ id, asked s t id) ∧
    (∃ s : State, ∃ k, ∃ t, ∃ kind, cmd s ∧ k < 256 ∧ t < 16 ∧ kind < 2 ∧ keyCheck s 1 k t = 0) ∧
    (∃ s : State, ∃ k, cmd s ∧ k < 256 ∧ keyCheck s 2 k 0 = 0) ∧
    (∃ s : State, ∃ k, ∃ t, ∃ kind, ∃ op, ∃ i : Instr, k < 256 ∧ t < 16 ∧ kind < 2 ∧ (op, i) ∈ [(1, Instr.assign .pf k t kind), (2,
      .retire .pf k)] ∧ cmd s ∧ keyCheck s op k (if op = 1 then t else 0) ≠ 0) ∧
    (∃ s : State, ∃ k, ∃ t, ∃ kind, ∃ op, ∃ i : Instr, k < 256 ∧ t < 16 ∧ kind < 2 ∧ (op, i) ∈ [(1, Instr.assign .pf k t kind), (2,
      .retire .pf k)] ∧ cmd s ∧ keyCheck s op k (if op = 1 then t else 0) ≠ 0) ∧
    (∃ s : State, Admitted s .pf pgMb Off.MB_KEY_CMD ∧ deviceFatal s = false ∧ flag s pgMb Off.MB_KEY_CMD 31 = true) ∧
    (∃ s : State, Admitted s .pf pgMb Off.MB_KEY_CMD ∧ deviceFatal s = false ∧ flag s pgMb Off.MB_KEY_CMD 31 = false ∧ flag s pgMb
      Off.CTRL 0 = false) ∧
    (∃ s : State, ∃ k, (keyOf s k).st = 3) ∧
    (∃ s : State, ∃ k, k < 4 ∧ Admitted s .pf pgMb (grant k)) ∧
    (∃ s : State, Admitted s .pf pgMb Off.MB_EXPERT_VF) ∧
    (∃ s : State, Admitted s .pf pgMb Off.MB_RING_POLICY) ∧
    (∃ s : State, ∃ v : Word, Admitted s .pf pgMb Off.MB_FD_CTRL ∧ 64 ≤ fieldOf v 4 12 ∧ fieldOf v 16 12 < fieldOf v 4 12 ∧ (bitOf v 0 =
      true → fdOn s = true ∨ anyContext s = false)) ∧
    (∃ s : State, ∃ v : Word, Admitted s .pf pgMb Off.MB_FD_CTRL ∧ 64 ≤ fieldOf v 4 12 ∧ fieldOf v 16 12 < fieldOf v 4 12 ∧ (bitOf v 0 =
      true → fdOn s = true ∨ anyContext s = false)) ∧
    (∃ s : State, ∃ v : Word, Admitted s .pf pgMb Off.MB_FD_CTRL ∧ (fieldOf v 4 12 < 64 ∨ fieldOf v 4 12 ≤ fieldOf v 16 12 ∨ (bitOf v 0
      = true ∧ fdOn s = false ∧ anyContext s = true))) ∧
    (∃ s : State, ∃ v : Word, Admitted s .pf pgMb Off.MB_FD_CTRL ∧ (fieldOf v 4 12 < 64 ∨ fieldOf v 4 12 ≤ fieldOf v 16 12 ∨ (bitOf v 0
      = true ∧ fdOn s = false ∧ anyContext s = true))) ∧
    (∃ s : State, ∃ v : Word, Admitted s .pf pgMb Off.MB_FD_CTRL ∧ (fieldOf v 4 12 < 64 ∨ fieldOf v 4 12 ≤ fieldOf v 16 12 ∨ (bitOf v 0
      = true ∧ fdOn s = false ∧ anyContext s = true))) ∧
    (∃ s : State, ∃ k, ∃ t, ∃ kind, ∃ v : Word, ∃ off, ∃ i : Instr, (off, i) ∈ [(Off.MB_KEY_CMD, Instr.assign .mgmt k t kind),
      (Off.MB_KEY_CMD, .retire .mgmt k), (Off.MB_EXPERT_VF, .expertGrantWrite .mgmt 4 v), (Off.MB_RING_POLICY, .deny .mgmt v),
      (Off.MB_FD_CTRL, .fixedDealEnable .mgmt v)] ∧ Admitted s .mgmt pgMb off) ∧
    (∃ s : State, ∃ k, ∃ t, ∃ kind, ∃ v : Word, ∃ off, ∃ i : Instr, (off, i) ∈ [(Off.MB_KEY_CMD, Instr.assign .mgmt k t kind),
      (Off.MB_KEY_CMD, .retire .mgmt k), (Off.MB_EXPERT_VF, .expertGrantWrite .mgmt 4 v), (Off.MB_RING_POLICY, .deny .mgmt v),
      (Off.MB_FD_CTRL, .fixedDealEnable .mgmt v)] ∧ Admitted s .mgmt pgMb off) ∧
    (∃ s : State, ∃ k, ∃ t, ∃ kind, ∃ v : Word, ∃ off, ∃ i : Instr, (off, i) ∈ [(Off.MB_KEY_CMD, Instr.assign .mgmt k t kind),
      (Off.MB_KEY_CMD, .retire .mgmt k), (Off.MB_EXPERT_VF, .expertGrantWrite .mgmt 4 v), (Off.MB_RING_POLICY, .deny .mgmt v),
      (Off.MB_FD_CTRL, .fixedDealEnable .mgmt v)] ∧ Admitted s .mgmt pgMb off) ∧
    (∃ s : State, ∃ k, ∃ t, ∃ kind, ∃ v : Word, ∃ off, ∃ i : Instr, (off, i) ∈ [(Off.MB_KEY_CMD, Instr.assign .mgmt k t kind),
      (Off.MB_KEY_CMD, .retire .mgmt k), (Off.MB_EXPERT_VF, .expertGrantWrite .mgmt 4 v), (Off.MB_RING_POLICY, .deny .mgmt v),
      (Off.MB_FD_CTRL, .fixedDealEnable .mgmt v)] ∧ Admitted s .mgmt pgMb off) ∧
    (∃ s : State, ∃ k, ∃ t, ∃ kind, ∃ v : Word, ∃ off, ∃ i : Instr, (off, i) ∈ [(Off.MB_KEY_CMD, Instr.assign .mgmt k t kind),
      (Off.MB_KEY_CMD, .retire .mgmt k), (Off.MB_EXPERT_VF, .expertGrantWrite .mgmt 4 v), (Off.MB_RING_POLICY, .deny .mgmt v),
      (Off.MB_FD_CTRL, .fixedDealEnable .mgmt v)] ∧ Admitted s .mgmt pgMb off) := by
  refine ⟨⟨keyed ⟨1, 0, 1, []⟩, 0, 7, 9, 1, false, [7], ?_⟩, ⟨keyed ⟨1, 0, 1, []⟩, 0, 7, 9, 1, true, [7], ?_⟩, ⟨keyed ⟨1, 0, 1, []⟩,
    0, 7, 8, 1, false, [7], ?_⟩, ⟨keyed ⟨1, 0, 1, []⟩, 0, 7, 9, ?_⟩, ⟨keyed ⟨1, 0, 1, []⟩, 0, 7, 9, true, ?_⟩, ⟨keyed ⟨1, 0, 1, []⟩,
    0, 7, 8, false, ?_⟩, ⟨withRegs [(pgFab 0, Off.TBL_KEY, 9)] (keyed ⟨1, 0, 1, []⟩), 0, 7, 9, false, ?_⟩, ⟨keyed ⟨1, 0, 1, []⟩, 0, 7,
    ?_⟩, ⟨up, 255, 0, 1, ?_⟩, ⟨keyed ⟨1, 0, 1, []⟩, 9, ?_⟩, ⟨up, 0, 0, 0, 1, .assign .pf 0 0 0, ?_⟩, ⟨up, 0, 0, 0, 2, .retire .pf 0,
    ?_⟩, ⟨withRegs [(pgMb, Off.MB_KEY_CMD, 2 ^ 31)] up, ?_⟩, ⟨withRegs [(pgMb, Off.CTRL, 0)] up, ?_⟩, ⟨keyed ⟨3, 0, 1, []⟩, 9, ?_⟩,
    ⟨up, 3, ?_⟩, ⟨up, ?_⟩, ⟨up, ?_⟩, ⟨up, 0x401, ?_⟩, ⟨tenantUp 0x33, 0x3F0400, ?_⟩, ⟨up, 0x3F0, ?_⟩, ⟨up, 0x400400, ?_⟩,
    ⟨tenantUp 0x33, 0x401, ?_⟩, ⟨up, 9, 0, 0, 0, Off.MB_KEY_CMD, .assign .mgmt 9 0 0, ?_⟩, ⟨up, 9, 0, 0, 0, Off.MB_KEY_CMD,
    .retire .mgmt 9, ?_⟩, ⟨up, 9, 0, 0, 0, Off.MB_EXPERT_VF, .expertGrantWrite .mgmt 4 0, ?_⟩, ⟨up, 9, 0, 0, 0, Off.MB_RING_POLICY,
    .deny .mgmt 0, ?_⟩, ⟨up, 9, 0, 0, 0, Off.MB_FD_CTRL, .fixedDealEnable .mgmt 0, ?_⟩⟩ <;>
    first
    | decide +kernel
    | (simp only [Admitted, Readable, DealDue, Issues, Dispatches, MayPut, reduceCtorEq, LaneFn.table.injEq, forall_eq', false_imp_iff, ne_eq,
        not_false_eq_true, implies_true]; done)
    | (simp only [Admitted, Readable, DealDue, Issues, Dispatches, MayPut, reduceCtorEq, LaneFn.table.injEq, forall_eq', false_imp_iff, ne_eq,
        not_false_eq_true, implies_true]; decide +kernel)

theorem test_hyps_TableFrames :
    let port (f : Frame) : Page := pgFab (f.port % 2)
    let key (f : Frame) : Nat := 4 * frameSrc f + frameCls f
    let seq (f : Frame) : Nat := numAt f.header 0xC 4
    let arrives (s : State) (f : Frame) : Prop :=
      pageOn s (port f) = true ∧ enabled s (port f) = true ∧ flag s (port f) Off.FAB_STATUS 0 = true ∧ hhMode s ≠ 2 ∧
        s.hh.injecting = false ∧ f.pause = false
    let whole (s : State) (f : Frame) : Prop :=
      arrives s f ∧ f.fcsOk = true ∧ macKey s (frameSlot s 0) = true ∧ flag s (pgFab 0) Off.TBL_SEAT 16 = true
    let good (s : State) (f : Frame) : Prop :=
      whole s f ∧ frameSecure s f = true ∧ frameForeign s f = false ∧ seq f ∉ sget [] s.tbl.recent (key f)
    let taken (s : State) (f : Frame) (type : Nat) : Prop :=
      good s f ∧ frameType f = type ∧ (bitAt (numAt f.header 4 2) 15 = true ∨ numAt f.header 4 2 % 512 = mySeat s)
    let matching (s : State) (a b : Nat) : Bool := a == b || decide (natDist a b < matchTicks s)
    let speech (f : Frame) : Nat := numAt f.payload 0 8
    let dealing (s : State) : Prop := tblJoined s = true ∧ dealer s = some (mySeat s)
    (∃ s : State, ∃ f : Frame, pageOn s (port f) = true ∧ enabled s (port f) = true ∧ flag s (port f) Off.FAB_STATUS 0 = true ∧ hhMode s
      ≠ 2 ∧ s.hh.injecting = false ∧ f.pause = true) ∧
    (∃ s : State, ∃ f : Frame, arrives s f ∧ f.fcsOk = false) ∧
    (∃ s : State, ∃ f : Frame, whole s f ∧ frameSecure s f = false) ∧
    (∃ s : State, ∃ f : Frame, whole s f ∧ frameSecure s f = true ∧ frameForeign s f = true) ∧
    (∃ s : State, ∃ f : Frame, whole s f ∧ frameSecure s f = true ∧ frameForeign s f = false ∧ seq f ∈ sget [] s.tbl.recent (key f)) ∧
    (∃ s : State, ∃ f : Frame, taken s f 1 ∧ frameSrc f ≠ mySeat s) ∧
    (∃ s : State, ∃ f : Frame, taken s f 1 ∧ frameSrc f = mySeat s ∧ numAt f.payload 0 16 < s.part.serial) ∧
    (∃ s : State, ∃ f : Frame, taken s f 1 ∧ frameSrc f = mySeat s ∧ s.part.serial ≤ numAt f.payload 0 16) ∧
    (∃ s : State, ∃ f : Frame, taken s f 2 ∧ frameSrc f ≠ mySeat s) ∧
    (∃ s : State, ∃ f : Frame, taken s f 0x10 ∧ dealing s ∧ roundFor s (speech f) = none) ∧
    (∃ s : State, ∃ f : Frame, ∃ r : Round, taken s f 0x10 ∧ dealing s ∧ roundFor s (speech f) = some r ∧ beatTime s < r.stop) ∧
    (∃ s : State, ∃ f : Frame, ∃ r : Round, taken s f 0x10 ∧ dealing s ∧ roundFor s (speech f) = some r ∧ r.stop ≤ beatTime s) ∧
    (∃ s : State, ∃ f : Frame, taken s f 0x11 ∧ (∀ a ∈ s.tbl.awards, matching s a.1 (speech f) = true → frameSrc f ≤ a.2)) ∧
    (∃ s : State, ∃ f : Frame, taken s f 0x11 ∧ (∃ a ∈ s.tbl.awards, matching s a.1 (speech f) = true ∧ a.2 < frameSrc f)) := by
  refine ⟨⟨tabled up, { tframe 1 6 (List.replicate 20 0) with pause := true }, ?_⟩, ⟨tabled up,
    { tframe 1 6 (List.replicate 20 0) with fcsOk := false }, ?_⟩, ⟨tabled up,
    { tframe 1 6 (List.replicate 20 0) with icvOk := false }, ?_⟩, ⟨tabled up, tframe 80 6 (List.replicate 20 0), ?_⟩,
    ⟨withTbl (tabled up) { TblSt.empty with recent := [(25, [7])] }, tframe 1 6 (List.replicate 20 0), ?_⟩, ⟨tabled up,
    tframe 1 6 (List.replicate 20 0), ?_⟩, ⟨tabled (upOn { Part.reference with serial := 9 }), tframe 1 5 (List.replicate 20 0), ?_⟩,
    ⟨tabled up, tframe 1 5 (List.replicate 20 0), ?_⟩, ⟨tabled up, tframe 2 6 (List.replicate 20 0), ?_⟩, ⟨tabled up,
    tframe 0x10 6 (List.replicate 20 0), ?_⟩, ⟨withTbl (tabled up) { TblSt.empty with rounds := [round0 64] },
    tframe 0x10 6 (List.replicate 20 0), round0 64, ?_⟩, ⟨withTbl (tabled up) { TblSt.empty with rounds := [round0 0] },
    tframe 0x10 6 (List.replicate 20 0), round0 0, ?_⟩, ⟨withTbl (tabled up) { TblSt.empty with awards := [(0, 6)] },
    tframe 0x11 6 (List.replicate 20 0), ?_⟩, ⟨withTbl (tabled up) { TblSt.empty with awards := [(0, 5)] },
    tframe 0x11 6 (List.replicate 20 0), ?_⟩⟩ <;>
    first
    | decide +kernel
    | (simp only [Admitted, Readable, DealDue, Issues, Dispatches, MayPut, reduceCtorEq, LaneFn.table.injEq, forall_eq', false_imp_iff, ne_eq,
        not_false_eq_true, implies_true]; done)
    | (simp only [Admitted, Readable, DealDue, Issues, Dispatches, MayPut, reduceCtorEq, LaneFn.table.injEq, forall_eq', false_imp_iff, ne_eq,
        not_false_eq_true, implies_true]; decide +kernel)

theorem test_hyps_FetchesAndLending :
    let port (f : Frame) : Page := pgFab (f.port % 2)
    let seq (f : Frame) : Nat := numAt f.header 0xC 4
    let taken (s : State) (f : Frame) (type : Nat) : Prop :=
      pageOn s (port f) = true ∧ enabled s (port f) = true ∧ flag s (port f) Off.FAB_STATUS 0 = true ∧ hhMode s ≠ 2 ∧
        s.hh.injecting = false ∧ f.pause = false ∧ f.fcsOk = true ∧ macKey s (frameSlot s 0) = true ∧
        flag s (pgFab 0) Off.TBL_SEAT 16 = true ∧ frameSecure s f = true ∧ frameForeign s f = false ∧
        seq f ∉ sget [] s.tbl.recent (4 * frameSrc f + frameCls f) ∧ frameType f = type ∧
        (bitAt (numAt f.header 4 2) 15 = true ∨ numAt f.header 4 2 % 512 = mySeat s)
    let addr (f : Frame) : Nat := numAt f.payload 0 8 % 2 ^ 48
    let tenant (f : Frame) : Nat := numAt f.payload 8 1
    let home (f : Frame) : Home := ⟨none, addr f / 4096 * 4096⟩
    let idle (s : State) : Prop :=
      svcOn s = false ∨ rd s (pgFab 0) Off.TBL_SVC_TX_HEAD = rd s (pgFab 0) Off.TBL_SVC_TX_TAIL
    let session (f : Frame) : Nat := numAt f.payload 0 4
    (∃ s : State, ∃ f : Frame, taken s f 0x20 ∧ (tblMember s (frameSrc f) = false ∨ (keyOf s f.slot).tenant ≠ tenant f)) ∧
    (∃ s : State, ∃ f : Frame, taken s f 0x20 ∧ (tblMember s (frameSrc f) = false ∨ (keyOf s f.slot).tenant ≠ tenant f)) ∧
    (∃ s : State, ∃ f : Frame, taken s f 0x20 ∧ tblMember s (frameSrc f) = true ∧ (keyOf s f.slot).tenant = tenant f ∧ exported s (addr
      f) (tenant f) = false) ∧
    (∃ s : State, ∃ f : Frame, ∃ l : KLine, taken s f 0x20 ∧ tblMember s (frameSrc f) = true ∧ (keyOf s f.slot).tenant = tenant f ∧
      exported s (addr f) (tenant f) = true ∧ kittyLive s (mdOf s (home f)) = true ∧ fdGrants s (tenant f) = true ∧ memAllows s (.table
      (tenant f)) (home f) false = true ∧ (kittyOf s (mdOf s (home f))).find? (lineServes (home f) (tenant f)) = some l ∧ l.locked =
      false) ∧
    (∃ s : State, ∃ f : Frame, ∃ g : Fetch, ∃ q, ∃ x : Xfer, taken s f 0x21 ∧ fetchFor s f = some g ∧ g.queue = some q ∧ xferOf s q
      g.xfer = some x) ∧
    (∃ s : State, ∃ f : Frame, ∃ g : Fetch, ∃ q, ∃ x : Xfer, taken s f 0x22 ∧ idle s ∧ fetchFor s f = some g ∧ g.queue = some q ∧ xferOf
      s q g.xfer = some x) ∧
    (∃ s : State, ∃ corr, ∃ g : Fetch, ∃ q, ∃ x : Xfer, s.tbl.fetches.find? (fun g => g.corr == corr && elapsed s g.start g.ticks) =
      some g ∧ g.again = false ∧ g.queue = some q ∧ xferOf s q g.xfer = some x) ∧
    (∃ s : State, ∃ corr, ∃ g : Fetch, ∃ q, ∃ x : Xfer, s.tbl.fetches.find? (fun g => g.corr == corr && elapsed s g.start g.ticks) =
      some g ∧ g.again = true ∧ idle s ∧ g.queue = some q ∧ xferOf s q g.xfer = some x) ∧
    (∃ s : State, ∃ f : Frame, ∃ type, ∃ i : Instr, (type, i) ∈ [(0x30, Instr.lendReq f), (0x31, .lendOffer f), (0x32, .lendAccept f),
      (0x33, .lendData f), (0x34, .lendEnd f), (0x40, .service f)] ∧ taken s f type ∧ idle s) ∧
    (∃ s : State, ∃ f : Frame, ∃ type, ∃ i : Instr, (type, i) ∈ [(0x30, Instr.lendReq f), (0x31, .lendOffer f), (0x32, .lendAccept f),
      (0x33, .lendData f), (0x34, .lendEnd f), (0x40, .service f)] ∧ taken s f type ∧ idle s) ∧
    (∃ s : State, ∃ f : Frame, ∃ type, ∃ i : Instr, (type, i) ∈ [(0x30, Instr.lendReq f), (0x31, .lendOffer f), (0x32, .lendAccept f),
      (0x33, .lendData f), (0x34, .lendEnd f), (0x40, .service f)] ∧ taken s f type ∧ idle s) ∧
    (∃ s : State, ∃ f : Frame, ∃ type, ∃ i : Instr, (type, i) ∈ [(0x30, Instr.lendReq f), (0x31, .lendOffer f), (0x32, .lendAccept f),
      (0x33, .lendData f), (0x34, .lendEnd f), (0x40, .service f)] ∧ taken s f type ∧ idle s) ∧
    (∃ s : State, ∃ f : Frame, ∃ type, ∃ i : Instr, (type, i) ∈ [(0x30, Instr.lendReq f), (0x31, .lendOffer f), (0x32, .lendAccept f),
      (0x33, .lendData f), (0x34, .lendEnd f), (0x40, .service f)] ∧ taken s f type ∧ idle s) ∧
    (∃ s : State, ∃ f : Frame, ∃ type, ∃ i : Instr, (type, i) ∈ [(0x30, Instr.lendReq f), (0x31, .lendOffer f), (0x32, .lendAccept f),
      (0x33, .lendData f), (0x34, .lendEnd f), (0x40, .service f)] ∧ taken s f type ∧ idle s) ∧
    (∃ s : State, ∃ f : Frame, taken s f 0x30 ∧ idle s) ∧
    (∃ s : State, ∃ f : Frame, taken s f 0x31 ∧ idle s) ∧
    (∃ s : State, ∃ f : Frame, ∃ l : Lend, taken s f 0x32 ∧ idle s ∧ lendOf s true (frameSrc f) (session f) = some l) ∧
    (∃ s : State, ∃ f : Frame, taken s f 0x32 ∧ idle s ∧ lendOf s true (frameSrc f) (session f) = none) ∧
    (∃ s : State, ∃ f : Frame, taken s f 0x34 ∧ idle s) ∧
    (∃ s : State, ∃ f : Frame, ∃ type, ∃ i : Instr, (type, i) ∈ [(0x33, Instr.lendData f), (0x40, .service f)] ∧ taken s f type ∧ idle
      s) ∧
    (∃ s : State, ∃ f : Frame, ∃ type, ∃ i : Instr, (type, i) ∈ [(0x33, Instr.lendData f), (0x40, .service f)] ∧ taken s f type ∧ idle
      s) := by
  refine ⟨⟨tabled up, tframe 0x20 7 (List.replicate 20 0), ?_⟩, ⟨tabled up, tframe 0x20 6 (leBytes 8 0 ++ [1] ++ List.replicate 7 0),
    ?_⟩, ⟨tabled up, tframe 0x20 6 (List.replicate 20 0), ?_⟩, ⟨exporting, tframe 0x20 6 (List.replicate 20 0),
    { kline false with tenant := 0 }, ?_⟩, ⟨fetching false, tframe 0x21 6 (List.replicate 20 0), fetch0 false, 1280, xfer 0, ?_⟩,
    ⟨fetching false, tframe 0x22 6 (List.replicate 20 0), fetch0 false, 1280, xfer 0, ?_⟩, ⟨fetching false, 3, fetch0 false, 1280,
    xfer 0, ?_⟩, ⟨fetching true, 3, fetch0 true, 1280, xfer 0, ?_⟩, ⟨tabled up, tframe 0x30 6 (List.replicate 20 0), 0x30,
    .lendReq (tframe 0x30 6 (List.replicate 20 0)), ?_⟩, ⟨tabled up, tframe 0x31 6 (List.replicate 20 0), 0x31,
    .lendOffer (tframe 0x31 6 (List.replicate 20 0)), ?_⟩, ⟨tabled up, tframe 0x32 6 (List.replicate 20 0), 0x32,
    .lendAccept (tframe 0x32 6 (List.replicate 20 0)), ?_⟩, ⟨tabled up, tframe 0x33 6 (List.replicate 20 0), 0x33,
    .lendData (tframe 0x33 6 (List.replicate 20 0)), ?_⟩, ⟨tabled up, tframe 0x34 6 (List.replicate 20 0), 0x34,
    .lendEnd (tframe 0x34 6 (List.replicate 20 0)), ?_⟩, ⟨tabled up, tframe 0x40 6 (List.replicate 20 0), 0x40,
    .service (tframe 0x40 6 (List.replicate 20 0)), ?_⟩, ⟨tabled up, tframe 0x30 6 (List.replicate 20 0), ?_⟩, ⟨tabled up,
    tframe 0x31 6 (List.replicate 20 0), ?_⟩, ⟨withTbl (tabled up) { TblSt.empty with lends := [⟨6, 0, true, false, 0, 0, []⟩] },
    tframe 0x32 6 (List.replicate 20 0), ⟨6, 0, true, false, 0, 0, []⟩, ?_⟩, ⟨tabled up, tframe 0x32 6 (List.replicate 20 0), ?_⟩,
    ⟨tabled up, tframe 0x34 6 (List.replicate 20 0), ?_⟩, ⟨tabled up, tframe 0x33 6 (List.replicate 20 0), 0x33,
    .lendData (tframe 0x33 6 (List.replicate 20 0)), ?_⟩, ⟨tabled up, tframe 0x40 6 (List.replicate 20 0), 0x40,
    .service (tframe 0x40 6 (List.replicate 20 0)), ?_⟩⟩ <;>
    first
    | decide +kernel
    | (simp only [Admitted, Readable, DealDue, Issues, Dispatches, MayPut, reduceCtorEq, LaneFn.table.injEq, forall_eq', false_imp_iff, ne_eq,
        not_false_eq_true, implies_true]; done)
    | (simp only [Admitted, Readable, DealDue, Issues, Dispatches, MayPut, reduceCtorEq, LaneFn.table.injEq, forall_eq', false_imp_iff, ne_eq,
        not_false_eq_true, implies_true]; decide +kernel)

theorem test_hyps_TableEvents :
    let helloDue (s : State) : Prop :=
      let period := msTicks (fld s (pgFab 0) Off.TBL_TIMING 0 10)
      (beatTime s + period - 1) / period * period < beatTime s + 64 ∧ s.tbl.helloAt ≠ some (beatNo s)
    let live (s : State) : Prop := portLive s 0 0 = true ∧ portLive s 1 0 = true ∧ hhMode s ≠ 2
    (∃ s : State, tblJoined s = true ∧ helloDue s ∧ live s) ∧
    (∃ s : State, ∃ d, d < 512 ∧ pageOn s (pgFab 0) = true ∧ tblMember s d = true ∧ d ≠ mySeat s ∧ portHeard s 0 d = false ∧ portHeard s
      1 d = false) ∧
    (∃ s : State, ∃ r : Round, tblJoined s = true ∧ dealer s = some (mySeat s) ∧ s.tbl.rounds.find? (fun r => r.award.isNone && decide
      (r.stop ≤ beatTime s)) = some r) ∧
    (∃ s : State, ∃ b : Nat × Nat × Nat, s.tbl.bids.find? (fun b => elapsed s b.2.1 (msTicks (fld s (pgFab 0) Off.TBL_BID 8 8))) = some
      b ∧ pageOn s (pgFab 0) = true) ∧
    (∃ s : State, ∃ w : Func, ∃ v : Word, Admitted s w (pgFab 0) Off.TBL_SEAT ∧ flag s (pgFab 0) Off.TBL_SEAT 16 = false ∧ bitOf v 16 =
      true ∧ svcOn s = false) ∧
    (∃ s : State, ∃ w : Func, ∃ v : Word, Admitted s w (pgFab 0) Off.TBL_SEAT ∧ flag s (pgFab 0) Off.TBL_SEAT 16 = true ∧ bitOf v 16 =
      false ∧ live s ∧ tblDup s = false) ∧
    (∃ s : State, ∃ w : Func, ∃ v : Word, Admitted s w (pgFab 0) Off.TBL_SEAT ∧ flag s (pgFab 0) Off.TBL_SEAT 16 = true ∧ bitOf v 16 =
      true ∧ fieldOf v 0 9 ≠ mySeat s) ∧
    (∃ s : State, ∃ w : Func, Admitted s w (pgFab 0) Off.TBL_SVC_TX_TAIL) ∧
    (∃ s : State, ∃ port, gptpLive s port = true) ∧
    (∃ s : State, flag s (pgFab 0) Off.TBL_SYNC 1 = false ∨ syncDue s = false) ∧
    (∃ s : State, flag s (pgFab 0) Off.TBL_SYNC 1 = false ∨ syncDue s = false) ∧
    (∃ s : State, flag s (pgFab 0) Off.TBL_SYNC 1 = true ∧ syncDue s = true ∧ gptpLive s 0 = true ∧ gptpLive s 1 = true) ∧
    (∃ s : State, ∃ port, gptpLive s port = true) ∧
    (∃ s : State, ∃ port, gptpLive s port = true) ∧
    (∃ s : State, ∃ port, ∃ up : Bool, port < 2 ∧ pageOn s (pgFab port) = true ∧ (up = true → enabled s (pgFab port) = true)) ∧
    (∃ s : State, ∃ port, ∃ up : Bool, port < 2 ∧ pageOn s (pgFab port) = true ∧ (up = true → enabled s (pgFab port) = true)) := by
  refine ⟨⟨tabled up, by decide +kernel, ⟨by decide +kernel, by decide +kernel⟩, ⟨by decide +kernel, by decide +kernel,
    by decide +kernel⟩⟩, ⟨tabled up, 6, ?_⟩, ⟨withTbl (tabled up) { TblSt.empty with rounds := [round0 0] }, round0 0, ?_⟩,
    ⟨atBeat 4000000 (withTbl (tabled up) { TblSt.empty with bids := [(0, 0, 0)] }), (0, 0, 0), ?_⟩, ⟨up, .pf, 0x10005, ?_⟩,
    ⟨tabled up, .pf, 0, ?_⟩, ⟨tabled up, .pf, 0x10006, ?_⟩, ⟨up, .pf, ?_⟩, ⟨tabled up, 1, ?_⟩, ⟨tabled up, ?_⟩, ⟨withRegs [(pgFab 0,
    Off.TBL_SYNC, 2)] (withTbl (tabled up) { TblSt.empty with syncAt := some 0 }), ?_⟩, ⟨withRegs [(pgFab 0, Off.TBL_SYNC,
    2)] (tabled up), ?_⟩, ⟨tabled up, 1, ?_⟩, ⟨tabled up, 1, ?_⟩, ⟨tabled up, 1, true, ?_⟩, ⟨up, 1, false, ?_⟩⟩ <;>
    first
    | decide +kernel
    | (simp only [Admitted, Readable, DealDue, Issues, Dispatches, MayPut, reduceCtorEq, LaneFn.table.injEq, forall_eq', false_imp_iff, ne_eq,
        not_false_eq_true, implies_true]; done)
    | (simp only [Admitted, Readable, DealDue, Issues, Dispatches, MayPut, reduceCtorEq, LaneFn.table.injEq, forall_eq', false_imp_iff, ne_eq,
        not_false_eq_true, implies_true]; decide +kernel)

theorem test_hyps_Collector :
    let tail (s : State) : Nat := (rd s pgFc Off.FC_RING_TAIL).toNat
    let head (s : State) : Nat := (rd s pgFc Off.FC_RING_HEAD).toNat
    let size (v : Word) : Prop := 4 ≤ fieldOf v 8 4 ∧ fieldOf v 8 4 ≤ 12
    let due (s : State) : Prop :=
      pageOn s pgFc = true ∧ flag s pgFc Off.FC_WDOG 31 = true ∧ elapsed s s.fc.wdogStart (msTicks (fld s pgFc Off.FC_WDOG 0 16)) = true
    let delivers (s : State) (r : FaultRec) (rest : List FaultRec) : Prop :=
      s.fc.buffer = r :: rest ∧ pageOn s pgFc = true ∧ flag s pgFc Off.FC_CFG 0 = true ∧
        ringUsed (tail s) (head s) < 2 ^ fld s pgFc Off.FC_CFG 8 4 ∧ hostOpen s 0 = true
    (∃ s : State, ∃ r : FaultRec, ∃ rest : List FaultRec, delivers s r rest) ∧
    (∃ s : State, ∃ w : Func, ∃ v : Word, Admitted s w pgFc Off.FC_CFG ∧ size v ∧ (flag s pgFc Off.FC_CFG 0 = true → fieldOf v 8 4 = fld
      s pgFc Off.FC_CFG 8 4)) ∧
    (∃ s : State, ∃ w : Func, ∃ v : Word, Admitted s w pgFc Off.FC_CFG ∧ size v ∧ (flag s pgFc Off.FC_CFG 0 = true → fieldOf v 8 4 = fld
      s pgFc Off.FC_CFG 8 4)) ∧
    (∃ s : State, ∃ w : Func, ∃ v : Word, Admitted s w pgFc Off.FC_CFG ∧ (¬ size v ∨ (flag s pgFc Off.FC_CFG 0 = true ∧ fieldOf v 8 4 ≠
      fld s pgFc Off.FC_CFG 8 4))) ∧
    (∃ s : State, ∃ w : Func, ∃ v : Word, Admitted s w pgFc Off.FC_CFG ∧ (¬ size v ∨ (flag s pgFc Off.FC_CFG 0 = true ∧ fieldOf v 8 4 ≠
      fld s pgFc Off.FC_CFG 8 4))) ∧
    (∃ s : State, ∃ w : Func, ∃ v : Word, Admitted s w pgFc Off.FC_CFG ∧ (¬ size v ∨ (flag s pgFc Off.FC_CFG 0 = true ∧ fieldOf v 8 4 ≠
      fld s pgFc Off.FC_CFG 8 4))) ∧
    (∃ s : State, ∃ w : Func, ∃ v : Word, Admitted s w pgFc Off.FC_RING_HEAD ∧ head s ≤ v.toNat ∧ v.toNat ≤ tail s ∧ v.toNat < head s +
      2 ^ 31) ∧
    (∃ s : State, ∃ w : Func, ∃ v : Word, Admitted s w pgFc Off.FC_RING_HEAD ∧ head s ≤ tail s ∧ (v.toNat < head s ∨ tail s < v.toNat))
      ∧
    (∃ s : State, ∃ w : Func, ∃ v : Word, Admitted s w pgFc Off.FC_RING_HEAD ∧ head s ≤ tail s ∧ (v.toNat < head s ∨ tail s < v.toNat))
      ∧
    (∃ s : State, Admitted s .mgmt pgFc Off.FC_WDOG_KICK) ∧
    (∃ s : State, ∃ w : Func, Admitted s w pgFc Off.FC_WDOG_KICK ∧ w ≠ .mgmt) ∧
    (∃ s : State, due s ∧ (∀ b, s.fc.wdogLast = some b → elapsed s b 10000000000 = true)) ∧
    (∃ s : State, ∃ b, due s ∧ s.fc.wdogLast = some b ∧ elapsed s b 10000000000 = false ∧ deviceFatal s = false) := by
  refine ⟨⟨withRegs [(pgFc, Off.FC_CFG, 0x401), (pgMb, Off.MB_IDE_COVER, 1)] { up with fc := { up.fc with buffer := [rec0] } }, rec0,
    [], ?_⟩, ⟨up, .pf, 0x401, ?_⟩, ⟨withRegs [(pgFc, Off.FC_CFG, 0xC01)] up, .pf, 0xC00, ?_⟩, ⟨up, .pf, 0x301, ?_⟩, ⟨up, .pf, 0xD01,
    ?_⟩, ⟨withRegs [(pgFc, Off.FC_CFG, 0xC01)] up, .pf, 0xB01, ?_⟩, ⟨withRegs [(pgFc, Off.FC_RING_TAIL, 5), (pgFc, Off.FC_RING_HEAD,
    2)] up, .pf, 5, ?_⟩, ⟨withRegs [(pgFc, Off.FC_RING_TAIL, 5), (pgFc, Off.FC_RING_HEAD, 2)] up, .pf, 1, ?_⟩, ⟨withRegs [(pgFc,
    Off.FC_RING_TAIL, 5), (pgFc, Off.FC_RING_HEAD, 2)] up, .pf, 6, ?_⟩, ⟨up, ?_⟩, ⟨up, .pf, ?_⟩, ⟨dogged none, ⟨by decide +kernel,
    by decide +kernel, by decide +kernel⟩, fun _ h => nomatch h.symm.trans (show _ = none by decide +kernel)⟩, ⟨dogged (some 0), 0,
    ?_⟩⟩ <;>
    first
    | decide +kernel
    | (simp only [Admitted, Readable, DealDue, Issues, Dispatches, MayPut, reduceCtorEq, LaneFn.table.injEq, forall_eq', false_imp_iff, ne_eq,
        not_false_eq_true, implies_true]; done)
    | (simp only [Admitted, Readable, DealDue, Issues, Dispatches, MayPut, reduceCtorEq, LaneFn.table.injEq, forall_eq', false_imp_iff, ne_eq,
        not_false_eq_true, implies_true]; decide +kernel)

theorem test_hyps_HandHistory :
    let modes (w : Func) : List (Nat × Instr) := [(0, .off w), (1, .record w), (2, .replay w)]
    let may (s : State) : Prop := s.host.ctxs = [] ∧ (∀ e ∈ s.fc.fences, phaseOf s e.1 = 0) ∧ hhMode s = 1
    let start (s : State) (host : List Byte) : Nat := skipStretch s host (hhHead s)
    let first (s : State) (host : List Byte) : HistRec × Nat := recordAt s host (start s host)
    let injects (s : State) (host : List Byte) : Prop :=
      hhMode s = 2 ∧ domOn s 3 = true ∧ replayStops s host (start s host) = false ∧ (first s host).1.tt ≤ 64 * beatNo s
    (∃ s : State, ∃ w : Func, ∃ m, ∃ i : Instr, (m, i) ∈ modes w ∧ Admitted s w pgHh Off.HH_CTRL) ∧
    (∃ s : State, ∃ w : Func, ∃ m, ∃ i : Instr, (m, i) ∈ modes w ∧ Admitted s w pgHh Off.HH_CTRL) ∧
    (∃ s : State, ∃ w : Func, ∃ m, ∃ i : Instr, (m, i) ∈ modes w ∧ Admitted s w pgHh Off.HH_CTRL) ∧
    (∃ s : State, ∃ w : Func, Admitted s w pgHh Off.HH_CTRL ∧ may s ∧ domOn s 3 = true) ∧
    (∃ s : State, ∃ w : Func, Admitted s w pgHh Off.HH_CTRL ∧ (¬ may s)) ∧
    (∃ s : State, ∃ w : Func, Admitted s w pgHh Off.HH_CTRL ∧ (¬ may s)) ∧
    (∃ s : State, ∃ b, s.hh.ckptAt = some b ∧ b + 4096 ≤ s.tt.beats ∧ domOn s 3 = true) ∧
    (∃ s : State, ∃ v : Word, Admitted s .mgmt pgHh Off.HH_MARK ∧ ctxExists s (fieldOf v 0 10) = true ∧ hhMode s = 1 ∧ domOn s 3 = true
      ∧ captured s 72 + 32 ≤ 16384) ∧
    (∃ s : State, ∃ w : Func, ∃ v : Word, Admitted s w pgHh Off.HH_MARK ∧ (w ≠ .mgmt ∨ ctxExists s (fieldOf v 0 10) = false)) ∧
    (∃ s : State, ∃ w : Func, ∃ v : Word, Admitted s w pgHh Off.HH_MARK ∧ (w ≠ .mgmt ∨ ctxExists s (fieldOf v 0 10) = false)) ∧
    (∃ s : State, ∃ host : List Byte, injects s host) ∧
    (∃ s : State, ∃ host : List Byte, hhMode s = 2 ∧ domOn s 3 = true ∧ replayStops s host (start s host) = true) := by
  refine ⟨⟨up, .pf, 0, .off .pf, ?_⟩, ⟨up, .pf, 1, .record .pf, ?_⟩, ⟨up, .mgmt, 2, .replay .mgmt, ?_⟩, ⟨recording up, .pf, ?_⟩, ⟨up,
    .pf, ?_⟩, ⟨recording (tenantUp 0x33), .pf, ?_⟩, ⟨atBeat 4096 { up with hh := { up.hh with ckptAt := some 0 } }, 0, ?_⟩,
    ⟨recording (tenantUp 0x33), 5, ?_⟩, ⟨tenantUp 0x33, .pf, 5, ?_⟩, ⟨up, .mgmt, 5, ?_⟩, ⟨replaying 16,
    leBytes 8 0 ++ [2] ++ List.replicate 7 0, ?_⟩, ⟨replaying 0, [], ?_⟩⟩ <;>
    first
    | decide +kernel
    | (simp only [Admitted, Readable, DealDue, Issues, Dispatches, MayPut, reduceCtorEq, LaneFn.table.injEq, forall_eq', false_imp_iff, ne_eq,
        not_false_eq_true, implies_true]; done)
    | (simp only [Admitted, Readable, DealDue, Issues, Dispatches, MayPut, reduceCtorEq, LaneFn.table.injEq, forall_eq', false_imp_iff, ne_eq,
        not_false_eq_true, implies_true]; decide +kernel)

end Sys2Proof.Tests
end

section
/-! # Table Time and deals: the rules that the proofs use

Fields of a masked register word, what an operation may change in the register file (`RegsBut`), what an admitted write does, and what a run of
counters leaves. -/
namespace Sys2Proof.Machine

/-! ## Bits and fields of a word -/

/-- A bit of a register is the bit of its word. -/
theorem bitOf_eq_getLsbD (v : Word) (b : Nat) : bitOf v b = v.getLsbD b := by
  rw [BitVec.getLsbD, Nat.testBit_eq_decide_div_mod_eq]
  unfold bitOf bitAt bitsAt
  rw [pow_one, beq_eq_decide]

/-- A field of a masked word is the field, masked. -/
theorem fieldOf_and (v m : Word) (lo w : Nat) : fieldOf (v &&& m) lo w = fieldOf v lo w &&& fieldOf m lo w := by
  unfold fieldOf bitsAt
  rw [BitVec.toNat_and, ← Nat.shiftRight_eq_div_pow, ← Nat.shiftRight_eq_div_pow, ← Nat.shiftRight_eq_div_pow,
    Nat.shiftRight_and_distrib, Nat.and_mod_two_pow]

/-- A mask of ones keeps a field. -/
theorem fieldOf_and_ones {v m : Word} {lo w : Nat} (h : fieldOf m lo w = 2 ^ w - 1) : fieldOf (v &&& m) lo w = fieldOf v lo w := by
  rw [fieldOf_and, h, Nat.and_two_pow_sub_one_eq_mod]
  exact Nat.mod_eq_of_lt (bitsAt_lt ..)

/-- A mask of zeros clears a field. -/
theorem fieldOf_and_zeros {v m : Word} {lo w : Nat} (h : fieldOf m lo w = 0) : fieldOf (v &&& m) lo w = 0 := by
  rw [fieldOf_and, h, Nat.and_zero]

theorem ofBool_lt (b : Bool) : ofBool b < 2 := by cases b <;> decide

theorem ofBool_beq_one (b : Bool) : (ofBool b == 1) = b := by cases b <;> rfl

theorem satNat_lt (n : Nat) : satNat 0xFFFFFFFF n < 2 ^ 32 := by
  unfold satNat; split <;> omega

/-- The word of DEAL_CTRL as a number. -/
theorem dealWord_toNat (arm cancel late : Bool) (action period : Nat) :
    (dealWord arm cancel late action period).toNat =
      ofBool arm + 2 * ofBool cancel + 4 * ofBool late + 16 * (action % 16) + 256 * (period % 2 ^ 24) := by
  have := ofBool_lt arm
  have := ofBool_lt cancel
  have := ofBool_lt late
  unfold dealWord
  rw [BitVec.toNat_ofNat, Nat.mod_eq_of_lt (by omega)]

section
variable (arm cancel late : Bool) (action period : Nat)

theorem bitOf_dealWord_arm : bitOf (dealWord arm cancel late action period) 0 = arm := by
  have : bitsAt (dealWord arm cancel late action period).toNat 0 1 = ofBool arm := by
    have := ofBool_lt arm
    rw [dealWord_toNat]; unfold bitsAt; omega
  unfold bitOf bitAt; rw [this, ofBool_beq_one]

theorem bitOf_dealWord_late : bitOf (dealWord arm cancel late action period) 2 = late := by
  have : bitsAt (dealWord arm cancel late action period).toNat 2 1 = ofBool late := by
    have := ofBool_lt arm
    have := ofBool_lt cancel
    have := ofBool_lt late
    rw [dealWord_toNat]; unfold bitsAt; omega
  unfold bitOf bitAt; rw [this, ofBool_beq_one]

theorem fieldOf_dealWord_action : fieldOf (dealWord arm cancel late action period) 4 4 = action % 16 := by
  have := ofBool_lt arm
  have := ofBool_lt cancel
  have := ofBool_lt late
  unfold fieldOf bitsAt; rw [dealWord_toNat]; omega

theorem fieldOf_dealWord_period : fieldOf (dealWord arm cancel late action period) 8 24 = period % 2 ^ 24 := by
  have := ofBool_lt arm
  have := ofBool_lt cancel
  have := ofBool_lt late
  unfold fieldOf bitsAt; rw [dealWord_toNat]; omega

end

/-! ## Registers outside a list -/

theorem RegsBut.refl (l : List Nat) (s : State) : RegsBut l s s := fun _ _ => rfl

/-- Where the register file and the part are the same, every register is. -/
theorem RegsBut.of_regs {l : List Nat} {s t : State} (hp : t.part = s.part) (hr : t.regs = s.regs) : RegsBut l s t :=
  fun a _ => reg_of_regs hp hr a

theorem RegsBut.trans {l : List Nat} {s t u : State} (h : RegsBut l s t) (h' : RegsBut l t u) : RegsBut l s u :=
  fun a ha => (h' a ha).trans (h a ha)

theorem RegsBut.mono {l m : List Nat} {s t : State} (h : RegsBut l s t) (hlm : ∀ a ∈ l, a ∈ m) : RegsBut m s t :=
  fun a ha => h a fun hl => ha (hlm a hl)

section
variable {l : List Nat} {s t : State} {p : Page} {off : Nat} (h : RegsBut l s t)
include h

theorem RegsBut.wr (v : Word) (m : pageBase p + off ∈ l) : RegsBut l s (wr p off v t) :=
  h.trans fun _ ha => reg_wr_ne v fun e => ha (e ▸ m)

theorem RegsBut.setFlag (b : Nat) (v : Bool) (m : pageBase p + off ∈ l) : RegsBut l s (setFlag p off b v t) := h.wr _ m

theorem RegsBut.bump (k : Nat) (m : pageBase p + off ∈ l) : RegsBut l s (bump p off k t) :=
  h.trans fun _ ha => reg_bump_ne k fun e => ha (e ▸ m)

theorem RegsBut.emit (o : Out) : RegsBut l s (emit o t) := h

theorem RegsBut.raise (b : Nat) (m : pageBase p + Off.EVT_RAW ∈ l) : RegsBut l s (raise p b t) :=
  h.trans fun _ ha => reg_raise_ne fun e => ha (e ▸ m)

end

/-- What a bumped counter shows. -/
theorem counted_bump (p : Page) (off k : Nat) (s : State) : Counted p off k s (bump p off k s) := by
  unfold Counted
  rw [rd_bump_same, BitVec.toNat_ofNat, Nat.mod_eq_of_lt (satNat_lt _)]

/-- An event does not touch the page's other events. -/
theorem flag_raise_ne {s : State} (p : Page) {b c : Nat} (hb : b < 32) (e : c ≠ b) :
    flag (raise p b s) p Off.EVT_RAW c = flag s p Off.EVT_RAW c := by
  unfold raise
  split
  · exact flag_setFlag_ne (s := s) p true hb e
  · rfl

theorem three_le_classEvtTop (c : PageClass) : 3 ≤ classEvtTop c := by cases c <;> decide

theorem three_le_evtTop (p : Page) : 3 ≤ evtTop p := by
  unfold evtTop
  split
  · omega
  · exact three_le_classEvtTop p.cls

/-- The three deal events are implemented on every page (R86). -/
theorem flag_raise_deal {s : State} (p : Page) {b : Nat} (hb : b ≤ 3) : flag (raise p b s) p Off.EVT_RAW b = true :=
  flag_raise_same p b (hb.trans (three_le_evtTop p)) (by omega)

/-! ## After a capture -/

namespace Captured
variable {s u : State} (h : Captured s u)
include h

theorem tt_eq : u.tt = s.tt := (congrArg State.tt h.rest).trans rfl
theorem deals_eq : u.head.deals = s.head.deals := congrArg (·.head.deals) h.rest
theorem mgmt_eq : u.head.mgmt = s.head.mgmt := congrArg (·.head.mgmt) h.rest
theorem host_eq : u.host = s.host := (congrArg State.host h.rest).trans rfl

theorem beatNo_eq : beatNo u = beatNo s := by unfold beatNo tnow; rw [h.tt_eq]

/-- HH_CNT_LOST is at another offset than any register that is named by one. -/
theorem rd_eq {p : Page} {off : Nat} (hoff : off < 0x1000) (hne : off ≠ Off.HH_CNT_LOST) : rd u p off = rd s p off :=
  h.regs _ (addr_ne hoff (by decide) hne)

theorem flag_eq {p : Page} {off : Nat} (b : Nat) (hoff : off < 0x1000) (hne : off ≠ Off.HH_CNT_LOST) : flag u p off b = flag s p off b :=
  flag_congr (h.rd_eq hoff hne)

theorem dealAt_eq (p : Page) : dealAt u p = dealAt s p := by
  unfold dealAt rd64
  rw [h.rd_eq (by decide) (by decide), h.rd_eq (by decide) (by decide)]

/-- What is changed after the capture adds HH_CNT_LOST to what has changed since before it. -/
theorem regsBut {l : List Nat} {t : State} (ht : RegsBut l u t) (m : hhLost ∈ l) : RegsBut l s t :=
  RegsBut.trans (fun a ha => h.regs a fun e => ha (e ▸ m)) ht

end Captured

/-! ## Admitted writes -/

/-- The state in which the management cores' writes of the beat are a given list. -/
def withMgmt (l : List Nat) (s : State) : State := { s with head := { s.head with mgmt := l } }

section
variable (l : List Nat) (s : State)

@[simp] theorem withMgmt_tt : (withMgmt l s).tt = s.tt := rfl
@[simp] theorem withMgmt_deals : (withMgmt l s).head.deals = s.head.deals := rfl
@[simp] theorem rd_withMgmt (p : Page) (off : Nat) : rd (withMgmt l s) p off = rd s p off := rfl
@[simp] theorem fld_withMgmt (p : Page) (off lo w : Nat) : fld (withMgmt l s) p off lo w = fld s p off lo w := rfl
@[simp] theorem flag_withMgmt (p : Page) (off b : Nat) : flag (withMgmt l s) p off b = flag s p off b := rfl
theorem RegsBut.withMgmt {m : List Nat} {s t : State} (h : RegsBut m s t) : RegsBut m s (withMgmt l t) := h

end

/-- An admitted write is captured and takes effect, and may be noted as one of the management cores. -/
theorem access_of_admitted {s : State} {w : Func} {p : Page} {off : Nat} (h : Admitted s w p off) (v : Word) (k : State → State) :
    ∃ u l, Captured s u ∧ access w p off v k s = withMgmt l (k u) := by
  have hu := captured_recordWrite w p off v s
  refine ⟨recordWrite w p off v s, ?_⟩
  rw [access_admitted h]
  by_cases hw : w = .mgmt
  · subst hw
    obtain ⟨l, e⟩ := applied_mgmt p off k (recordWrite .mgmt p off v s)
    exact ⟨l, hu, e⟩
  · have e := applied_eq (s := recordWrite w p off v s) hw (fun hh => by rw [hu.mgmt_eq]; exact h.2.2 hh) k
    exact ⟨(k (recordWrite w p off v s)).head.mgmt, hu, e⟩

/-- A command that is an admitted write: what its effect gives in every captured state, the command gives. -/
theorem runs_of_access {i : Instr} {s : State} {w : Func} {p : Page} {off : Nat} {v : Word} {k : State → State} {P : State → Prop}
    (hi : exec i s = .next (access w p off v k s)) (h : Admitted s w p off)
    (hP : ∀ u l, Captured s u → P (withMgmt l (k u))) : Runs i s P := by
  obtain ⟨u, l, hu, e⟩ := access_of_admitted h v k
  exact ⟨_, by rw [hi, e], hP u l hu⟩

end Sys2Proof.Machine
end

section
/-! # Loads, steps, reads and the rate of Table Time; the front of the queue -/
namespace Sys2Proof.Machine

/-- Settles O1, by the two cases of the queue. -/
theorem stepRunsFront : Obligations.StepRunsFront := by
  unfold Obligations.StepRunsFront
  constructor
  · intro c l s h
    simp only [step, h]
  · intro s h
    simp only [step, h]

/-! ## TT_RATE_ADJ (R64) -/

/-- The clamped value fits the register. -/
theorem toInt_ofInt_clampInt (x : Int) :
    (BitVec.ofInt 32 (clampInt (-rateLimit) rateLimit x)).toInt = max (-274877907) (min 274877907 x) := by
  have hc : clampInt (-rateLimit) rateLimit x = max (-274877907) (min 274877907 x) := by
    unfold clampInt rateLimit; split
    · omega
    · split <;> omega
  rw [hc, BitVec.toInt_ofInt, Int.bmod_eq_of_le (by omega) (by omega)]

/-- TT_RATE_ADJ as the write leaves it, before the event of a clamped one and the capture. -/
def rateSet (v : Word) (s : State) : State := wr pgTT Off.TT_RATE_ADJ (BitVec.ofInt 32 (clampInt (-rateLimit) rateLimit v.toInt)) s

/-- A value in range is not clamped. -/
theorem ttRate_in_range {v : Word} {s : State} (h : clampInt (-rateLimit) rateLimit v.toInt = v.toInt) :
    Captured (rateSet v s) (ttRate v s) := by
  unfold ttRate
  dsimp only
  rw [if_pos h]
  exact captured_hhCapture ..

/-- A value out of range sets RATE_CLAMPED and counts. -/
theorem ttRate_out_of_range {v : Word} {s : State} (h : clampInt (-rateLimit) rateLimit v.toInt ≠ v.toInt) :
    Captured (bump pgTT Off.TT_CNT_CLAMPS 1 (raise pgTT Evt.TT_RATE_CLAMPED (rateSet v s))) (ttRate v s) := by
  unfold ttRate
  dsimp only
  rw [if_neg h]
  exact captured_hhCapture ..

theorem rd_ttRate (v : Word) (s : State) :
    rd (ttRate v s) pgTT Off.TT_RATE_ADJ = BitVec.ofInt 32 (clampInt (-rateLimit) rateLimit v.toInt) := by
  have hset : rd (rateSet v s) pgTT Off.TT_RATE_ADJ = BitVec.ofInt 32 (clampInt (-rateLimit) rateLimit v.toInt) := rd_wr_same ..
  by_cases h : clampInt (-rateLimit) rateLimit v.toInt = v.toInt
  · rw [(ttRate_in_range h).rd_eq (by decide) (by decide), hset]
  · rw [(ttRate_out_of_range h).rd_eq (by decide) (by decide), ← hset]
    exact (reg_bump_ne 1 (by decide)).trans (reg_raise_ne (by decide))

/-- RATE_CLAMPED is set by a write out of range. -/
theorem flag_ttRate_clamped {v : Word} {s : State} (h : clampInt (-rateLimit) rateLimit v.toInt ≠ v.toInt) :
    flag (ttRate v s) pgTT Off.EVT_RAW Evt.TT_RATE_CLAMPED = true := by
  rw [(ttRate_out_of_range h).flag_eq _ (by decide) (by decide), flag_congr (reg_bump_ne 1 (by decide))]
  exact flag_raise_same _ _ (by decide) (by decide)

theorem regsBut_ttRate_in_range {v : Word} {s : State} (h : clampInt (-rateLimit) rateLimit v.toInt = v.toInt) :
    RegsBut [pageBase pgTT + Off.TT_RATE_ADJ, hhLost] s (ttRate v s) :=
  ((RegsBut.refl _ s).wr _ (.head _)).trans ((ttRate_in_range h).regsBut (.refl _ _) (.tail _ (.head _)))

theorem regsBut_ttRate (v : Word) (s : State) :
    RegsBut [pageBase pgTT + Off.TT_RATE_ADJ, pageBase pgTT + Off.EVT_RAW, pageBase pgTT + Off.TT_CNT_CLAMPS, hhLost] s (ttRate v s) := by
  by_cases h : clampInt (-rateLimit) rateLimit v.toInt = v.toInt
  · exact (regsBut_ttRate_in_range h).mono (List.cons_subset_cons _ (List.subset_cons_of_subset _ (List.subset_cons_self _ _)))
  · exact ((((RegsBut.refl _ s).wr _ (.head _)).raise _ (.tail _ (.head _))).bump 1 (.tail _ (.tail _ (.head _)))).trans
      ((ttRate_out_of_range h).regsBut (.refl _ _) (.tail _ (.tail _ (.tail _ (.head _)))))

/-- Settles O13: the effect of the admitted write is that of `ttRate`, clamped or not. -/
theorem rateClamped : Obligations.RateClamped := by
  unfold Obligations.RateClamped
  intro s w v h
  refine runs_of_access rfl h fun u l hu => ⟨?_, fun hv => ?_, fun h1 h2 => ?_, ?_⟩
  · rw [rd_withMgmt, rd_ttRate, toInt_ofInt_clampInt]
  · rw [flag_withMgmt]
    apply flag_ttRate_clamped
    unfold clampInt rateLimit
    split
    · omega
    · split <;> omega
  · refine hu.regsBut (RegsBut.withMgmt _ (regsBut_ttRate_in_range ?_)) (.tail _ (.head _))
    unfold clampInt rateLimit
    rw [if_neg (by omega), if_neg (by omega)]
  · exact hu.regsBut (RegsBut.withMgmt _ (regsBut_ttRate v u)) (.tail _ (.tail _ (.tail _ (.head _))))

/-! ## TT_CTRL, TT_NOW_LO and TT_RELAX (R62, R65, R41) -/

/-- The value that TT_LOAD names, with its low six bits 0. -/
def loadValue (s : State) : Nat := rd64 s pgTT Off.TT_LOAD_LO Off.TT_LOAD_HI / 64 * 64

theorem Captured.loadValue_eq {s u : State} (h : Captured s u) : loadValue u = loadValue s := by
  unfold loadValue rd64
  rw [h.rd_eq (by decide) (by decide), h.rd_eq (by decide) (by decide)]

/-- A load or a step that waits for the next boundary. -/
def waitChange (isLoad : Bool) (s : State) : State := { s with tt := { s.tt with pend := s.tt.pend ++ [(isLoad, loadValue s)] } }

/-- A load is taken while nothing disciplines Table Time and no context exists. -/
theorem ttCtrl_load {s : State} (w : Func) (disc : Bool) (hd : flag s pgTT Off.TT_CTRL 2 = false) (hc : anyContext s = false) :
    ttCtrl w true false disc s = setFlag pgTT Off.TT_CTRL 2 disc (waitChange true s) := by
  unfold ttCtrl
  simp only [hd, hc]
  rfl

/-- What waits after a change of Table Time that is taken, and what it leaves. -/
theorem waitChange_taken {s u : State} (hu : Captured s u) (l : List Nat) (isLoad disc : Bool) :
    let t := withMgmt l (setFlag pgTT Off.TT_CTRL 2 disc (waitChange isLoad u))
    t.tt = { s.tt with pend := s.tt.pend ++ [(isLoad, loadValue s)] } ∧ flag t pgTT Off.TT_CTRL 2 = disc ∧
      RegsBut [pageBase pgTT + Off.TT_CTRL, hhLost] s t := by
  refine ⟨?_, ?_, hu.regsBut ?_ (.tail _ (.head _))⟩
  · show { u.tt with pend := u.tt.pend ++ [(isLoad, loadValue u)] } = _
    rw [hu.tt_eq, hu.loadValue_eq]
  · rw [flag_withMgmt]
    exact flag_setFlag_same _ _ _ _ (by decide)
  · exact RegsBut.withMgmt l ((RegsBut.of_regs (t := waitChange isLoad u) rfl rfl).setFlag 2 disc (.head _))

theorem emit_out (o : Out) (s : State) : (emit o s).out = s.out ++ [o] := rfl

/-- The timestamp of the present beat that a read of TT_NOW_LO draws, and the state in which its halves are latched. -/
def ttLatched (s : State) : Nat × State :=
  let f := fresh s
  let t := 64 * beatNo s + f.1 % 64
  (t % 2 ^ 32, f.2 |> wr pgTT Off.TT_NOW_LO (BitVec.ofNat 32 t) |> wr pgTT Off.TT_NOW_HI (BitVec.ofNat 32 (t / 2 ^ 32)))

theorem ttLatched_value (s : State) : (ttLatched s).1 = (64 * beatNo s + (fresh s).1 % 64) % 2 ^ 32 := rfl

theorem ttLatched_out (s : State) : (ttLatched s).2.out = s.out := by
  unfold ttLatched
  rw [wr_out, wr_out]
  rfl

/-- The PF and the management cores read the page's registers while its power and its beat number allow it. -/
theorem execTtNowRead_eq {s : State} {w : Func} (hw : w = .pf ∨ w = .mgmt) (hl : senderLink s w = .ok) (hd : domOn s 0 = true)
    (hh : heldWhole s (pagePower pgTT) 0 = true) :
    execTtNowRead w s = emit (.readData w (pageBase pgTT + Off.TT_NOW_LO) (ttLatched s).1) (ttLatched s).2 := by
  have hhid : hiddenFrom s w pgTT = false := by obtain rfl | rfl := hw <;> rfl
  have hpres : pagePresent s.part pgTT = true := rfl
  have hglob : isGlobal pgTT = true := rfl
  have hkeep : keeperReg pgTT Off.TT_NOW_LO = true := rfl
  unfold execTtNowRead readAccess
  simp only [hl, hpres, hhid, hglob, hkeep, hd, hh, Bool.not_true, Bool.and_false, if_true]
  rfl

/-- Bits of a register that a plain write replaces. -/
theorem bitOf_plainWrite {s : State} {p : Page} {off b : Nat} {r : RegRow} {v : Word} (hr : regRow p off = some r)
    (hrw : (BitVec.ofNat 32 r.rw).getLsbD b = true) (hw1c : r.w1c = 0) : bitOf (rd (plainWrite p off v s) p off) b = bitOf v b := by
  have hb : b < 32 := BitVec.lt_of_getLsbD hrw
  unfold plainWrite
  rw [hr]
  dsimp only
  rw [rd_wr_same, bitOf_eq_getLsbD, bitOf_eq_getLsbD, hw1c, BitVec.and_zero, BitVec.getLsbD_and, BitVec.getLsbD_or, BitVec.getLsbD_and,
    BitVec.getLsbD_and, BitVec.getLsbD_not, BitVec.getLsbD_not, hrw]
  simp [hb]

theorem regsBut_plainWrite (p : Page) (off : Nat) (v : Word) (s : State) : RegsBut [pageBase p + off] s (plainWrite p off v s) := by
  unfold plainWrite
  split
  · exact .refl _ s
  · exact (RegsBut.refl _ s).wr _ (.head _)

theorem plainWrite_tt (p : Page) (off : Nat) (v : Word) (s : State) : (plainWrite p off v s).tt = s.tt := by
  unfold plainWrite; split <;> rfl

/-- TT_RELAX holds a bit for every island of R34. -/
theorem relax_row {k : Nat} (hk : k < 4) :
    ∃ r, regRow pgTT (Off.TT_RELAX + 4 * k) = some r ∧ r.w1c = 0 ∧
      ∀ b, b < 32 → islandUsed (32 * k + b) = true → (BitVec.ofNat 32 r.rw).getLsbD b = true := by
  match k, hk with
  | 0, _ => exact ⟨⟨0x800, 2, 0x4, 0x0, 0xFFFFFFFF, 0x0⟩, by decide, rfl, by decide⟩
  | 1, _ => exact ⟨⟨0x800, 2, 0x4, 0x0, 0xFFFFFFFF, 0x0⟩, by decide, rfl, by decide⟩
  | 2, _ => exact ⟨⟨0x808, 1, 0x4, 0x0, 0x37FF3F, 0x0⟩, by decide, rfl, by decide⟩
  | 3, _ => exact ⟨⟨0x80C, 1, 0x4, 0x0, 0x0, 0x0⟩, by decide, rfl, by decide⟩

/-- Settles O12: a change of Table Time waits, a read latches, and a relax bit reaches its register alone. -/
theorem timeChanged : Obligations.TimeChanged := by
  unfold Obligations.TimeChanged
  refine ⟨fun s w disc h hd hc => ?_, fun s w disc h => ?_, fun s w hw hl hd hh => ?_, fun s w k v hk h => ?_⟩
  case refine_1 =>
    refine runs_of_access rfl h fun u l hu => ?_
    have hd' : flag u pgTT Off.TT_CTRL 2 = false := (hu.flag_eq 2 (by decide) (by decide)).trans hd
    have hc' : anyContext u = false := by unfold anyContext; rw [hu.host_eq]; exact hc
    rw [ttCtrl_load w disc hd' hc']
    exact waitChange_taken hu l true disc
  case refine_2 => exact runs_of_access rfl h fun u l hu => waitChange_taken hu l false disc
  case refine_3 =>
    refine ⟨_, congrArg Host.Outcome.next (execTtNowRead_eq hw hl hd hh), (fresh s).1 % 64, Nat.mod_lt _ (by decide), ?_, ?_, ?_⟩
    · rw [emit_out, ttLatched_out, ttLatched_value]
    · exact (rd_emit ..).trans (rd_wr_same ..)
    · exact (((RegsBut.of_regs (t := (fresh s).2) rfl rfl).wr _ (.head _)).wr _ (.tail _ (.head _))).emit _
  case refine_4 =>
    have hoff : Off.TT_RELAX + 4 * (k % 4) = Off.TT_RELAX + 4 * k := by rw [Nat.mod_eq_of_lt hk]
    refine runs_of_access (k := plainWrite pgTT (Off.TT_RELAX + 4 * k) v) (v := v)
      (congrArg Host.Outcome.next (by unfold execRelaxMaskWrite; rw [hoff])) h fun u l hu => ⟨fun b hb hi => ?_, ?_, ?_⟩
    · obtain ⟨r, hr, hw1c, hrw⟩ := relax_row hk
      exact bitOf_plainWrite hr (hrw b hb hi) hw1c
    · rw [withMgmt_tt, plainWrite_tt, hu.tt_eq]
    · exact hu.regsBut (RegsBut.withMgmt _ ((regsBut_plainWrite _ _ v u).mono (List.cons_subset_cons _ (List.nil_subset _)))) (.tail _ (.head _))

end Sys2Proof.Machine
end

section
/-! # An armed deal on a page past the register map

A part is plain data, so its count of memory stacks is any number, while the map of R592 has pages for two. The third stack's HBM page
passes the access path and has reset domain 74 by `pageDomain`, but its address decodes to no page, so `accessError` records domain 0xFF. -/
namespace Sys2Proof.Machine

/-- The HBM page of a third memory stack: fitted where a part counts three, and outside the register map. -/
def thirdHbm : Page := ⟨.hbm, 2⟩

/-- A part with three memory stacks, its boot over and a deal armed on the third stack's HBM page. -/
def thirdHbmArmed : State :=
  let r := State.ofPart { Part.reference with stackCount := 3 }
  { r with
    regs := [(pageBase pgMb + Off.MB_READY, 4), (pageBase thirdHbm + Off.DEAL_CTRL, 1)]
    tt := { r.tt with joined := [] } }

theorem admitted_thirdHbmArmed : Admitted thirdHbmArmed .mgmt thirdHbm Off.DEAL_CTRL := by
  unfold Admitted; decide +kernel

/-- The record of the ignored write names no reset domain. -/
theorem dealArm_thirdHbm_recorded :
    Recorded 1 5 1 0xFF (execDealArm .mgmt thirdHbm false 0 0 thirdHbmArmed) := by
  unfold Recorded; decide +kernel

/-- Refutes O15: `thirdHbmArmed` meets the hypotheses of the second clause, and DEAL_ARM by the management cores is ignored there with a record
of domain 0xFF, where the clause asks for `pageDomain thirdHbm` = 74. -/
theorem not_armedDealLocked : ¬ Obligations.ArmedDealLocked := by
  unfold Obligations.ArmedDealLocked
  rintro ⟨-, harm, -⟩
  obtain ⟨t, ht, -, hrec, -⟩ :=
    harm thirdHbmArmed .mgmt thirdHbm false 0 0 (fun _ => Func.noConfusion) admitted_thirdHbmArmed (by decide +kernel)
  obtain rfl : execDealArm .mgmt thirdHbm false 0 0 thirdHbmArmed = t := Host.Outcome.next.inj ht
  have hdomain : some (1, 5, 1, 0xFF) = some (1, 5, 1, pageDomain thirdHbm) := dealArm_thirdHbm_recorded.symm.trans hrec
  exact absurd hdomain (by decide)

end Sys2Proof.Machine
end

section
/-! # Deals: arming, cancelling, launching, missing (R43–R50, R77), and counter snapshots (R46) -/
namespace Sys2Proof.Machine

/-! ## Registers at other offsets, and the deal list -/

/-- A write leaves every register at another offset, of any page. -/
theorem rd_wr_off_ne {s : State} {p q : Page} {off off' : Nat} (v : Word) (h : off < 0x1000) (h' : off' < 0x1000) (e : off' ≠ off) :
    rd (wr p off v s) q off' = rd s q off' := reg_wr_ne v (addr_ne h' h e)

theorem dealAt_wr_ctrl (p : Page) (v : Word) (s : State) : dealAt (wr p Off.DEAL_CTRL v s) p = dealAt s p := by
  unfold dealAt rd64
  rw [rd_wr_off_ne v (by decide) (by decide) (by decide), rd_wr_off_ne v (by decide) (by decide) (by decide)]

theorem beatNo_wr (p : Page) (off : Nat) (v : Word) (s : State) : beatNo (wr p off v s) = beatNo s := by
  unfold beatNo tnow; rw [wr_tt]

theorem mem_insertBy {α : Type} {key : α → Nat} {x y : α} {l : List α} : y ∈ insertBy key x l ↔ y = x ∨ y ∈ l := by
  induction l with
  | nil => simp [insertBy]
  | cons z r ih =>
    unfold insertBy
    split
    · simp
    · simp only [List.mem_cons, ih]; tauto

theorem dealOf_raise (p q : Page) (b : Nat) (s : State) : dealOf (raise p b s) q = dealOf s q := by
  unfold raise; split <;> rfl

theorem deals_raise (p : Page) (b : Nat) (s : State) : (raise p b s).head.deals = s.head.deals := by
  unfold raise; split <;> rfl

/-- An armed deal is in the list. -/
theorem mem_of_dealOf {s : State} {p : Page} {d : DealSt} (h : dealOf s p = some d) : ∃ e ∈ s.head.deals, e.1 = pageBase p ∧ e.2 = d := by
  unfold dealOf at h
  obtain ⟨e, he, hd⟩ := Option.map_eq_some_iff.mp h
  exact ⟨e, List.mem_of_find?_eq_some he, by simpa using List.find?_some he, hd⟩

/-! ## The end of a deal -/

theorem flag_dealEnd (p : Page) (s : State) : flag (dealEnd p s) p Off.DEAL_CTRL 0 = false :=
  flag_setFlag_same p Off.DEAL_CTRL 0 false (by decide)

theorem dealOf_dealEnd (p : Page) (s : State) : dealOf (dealEnd p s) p = none := by
  unfold dealOf dealEnd
  simp only [setFlag_head, Option.map_eq_none_iff, List.find?_eq_none, List.mem_filter]
  rintro e ⟨-, he⟩
  simpa using he

theorem regsBut_dealEnd {l : List Nat} (p : Page) (s : State) (m : pageBase p + Off.DEAL_CTRL ∈ l) : RegsBut l s (dealEnd p s) :=
  (RegsBut.of_regs rfl rfl).setFlag 0 false m

theorem rd_dealEnd_ne {p q : Page} {off : Nat} (s : State) (h : off < 0x1000) (e : off ≠ Off.DEAL_CTRL) : rd (dealEnd p s) q off = rd s q off :=
  reg_setFlag_ne 0 false (addr_ne h (by decide) e)

/-- Whether a page starts commands rests on the power state, on its CTRL and on its fence. -/
theorem dealEnabled_dealEnd (p : Page) (s : State) : dealEnabled (dealEnd p s) p = dealEnabled s p := by
  have hrd (q : Page) {off : Nat} (h : off < 0x1000) (e : off ≠ Off.DEAL_CTRL) : rd (dealEnd p s) q off = rd s q off := rd_dealEnd_ne s h e
  have hphase (d : Nat) : phaseOf (dealEnd p s) d = phaseOf s d := by
    unfold phaseOf fld
    split
    · rw [hrd _ (by decide) (by decide)]
    · rfl
  have hlevel (st d : Nat) : domLevel (dealEnd p s) st d = domLevel s st d := by
    have hcfg : flag (dealEnd p s) pgPower Off.PWR_ANTE_CFG 0 = flag s pgPower Off.PWR_ANTE_CFG 0 := flag_congr (hrd _ (by decide) (by decide))
    unfold domLevel; rw [hcfg]; rfl
  have hphaseP : pwrPhase (dealEnd p s) = pwrPhase s := fld_congr (hrd _ (by decide) (by decide))
  have htarget : pwrTarget (dealEnd p s) = pwrTarget s := fld_congr (hrd _ (by decide) (by decide))
  have hctrl : flag (dealEnd p s) p Off.CTRL 0 = flag s p Off.CTRL 0 := flag_congr (hrd _ (by decide) (by decide))
  unfold dealEnabled quiesced fenced
  rw [hctrl, hphaseP, htarget, hlevel, hphase]

/-! ## Writes of DEAL_CTRL (R43, R47–R49) -/

/-- Is a deal late as it is armed (R48)? -/
def armedLate (s : State) (p : Page) : Bool := decide (ceilDiv (dealAt s p) 64 ≤ beatNo s)

/-- A deal is armed by a word of DEAL_CTRL. -/
def armDeal (p : Page) (v : Word) (s : State) : State :=
  let t := wr p Off.DEAL_CTRL (v &&& 0xFFFFFFF4) s
  { t with head := { t.head with deals := insertBy Prod.fst (pageBase p, ⟨0, beatNo s + ofBool (armedLate s p)⟩) t.head.deals } }
    |> setFlag p Off.DEAL_CTRL 0 true

section
variable {s : State} {w : Func} {p : Page} {v : Word}

theorem dealCtrl_cancels (hf : flag s p Off.DEAL_CTRL 0 = true) (hc : bitOf v 1 = true) : dealCtrl w p v s = dealEnd p s := by
  unfold dealCtrl; rw [if_pos hf, if_pos hc]

theorem dealCtrl_arms (hf : flag s p Off.DEAL_CTRL 0 = false) (ha : bitOf v 0 = true)
    (hl : ¬ (armedLate s p = true ∧ fieldOf v 8 24 = 0 ∧ bitOf v 2 = true)) : dealCtrl w p v s = armDeal p v s := by
  unfold dealCtrl
  dsimp only
  rw [if_neg (by rw [hf]; decide), if_neg (by rw [ha]; decide), if_neg, dealAt_wr_ctrl]
  · rfl
  · rw [dealAt_wr_ctrl, beatNo_wr]
    simpa [armedLate, and_assoc] using hl

/-- A one-shot deal that is late as it is armed, and to be discarded then, is missed (R48). -/
theorem dealCtrl_misses (hf : flag s p Off.DEAL_CTRL 0 = false) (ha : bitOf v 0 = true) (hl : armedLate s p = true)
    (hp : fieldOf v 8 24 = 0) (hd : bitOf v 2 = true) : dealCtrl w p v s = raise p 2 (wr p Off.DEAL_CTRL (v &&& 0xFFFFFFF4) s) := by
  unfold dealCtrl
  dsimp only
  rw [if_neg (by rw [hf]; decide), if_neg (by rw [ha]; decide), if_pos]
  rw [dealAt_wr_ctrl, beatNo_wr, hp, hd]
  simpa [armedLate] using hl

/-- The fields of an armed deal's DEAL_CTRL above ARM are the written ones. -/
theorem fld_armDeal {lo n : Nat} (h : 0 < lo) : fld (armDeal p v s) p Off.DEAL_CTRL lo n = fieldOf (v &&& 0xFFFFFFF4) lo n := by
  refine (fld_setFlag_above p true (by decide) h).trans ?_
  show fieldOf (rd (wr p Off.DEAL_CTRL (v &&& 0xFFFFFFF4) s) p Off.DEAL_CTRL) lo n = _
  rw [rd_wr_same]

theorem flag_armDeal : flag (armDeal p v s) p Off.DEAL_CTRL 0 = true := flag_setFlag_same p Off.DEAL_CTRL 0 true (by decide)

theorem mem_armDeal : (pageBase p, ⟨0, beatNo s + ofBool (armedLate s p)⟩) ∈ (armDeal p v s).head.deals := mem_insertBy.mpr (.inl rfl)

theorem regsBut_armDeal {l : List Nat} (m : pageBase p + Off.DEAL_CTRL ∈ l) : RegsBut l s (armDeal p v s) :=
  ((RegsBut.refl l s).wr (v &&& 0xFFFFFFF4) m).trans ((RegsBut.of_regs rfl rfl).setFlag 0 true m)

end

/-- A function that is no VF writes what it writes. -/
theorem unlessVf_eq {w : Func} (hw : ∀ n, w ≠ .vf n) (k : State → State) (s : State) : unlessVf w k s = k s := by
  cases w with
  | vf n => exact absurd rfl (hw n)
  | pf => rfl
  | mgmt => rfl
  | rot => rfl

theorem Captured.armedLate_eq {s u : State} (h : Captured s u) (p : Page) : armedLate u p = armedLate s p := by
  unfold armedLate; rw [h.dealAt_eq, h.beatNo_eq]

/-! ## Launches (R44, R45, R48, R50) -/

/-- The events of a launch (R44). -/
def launchEvents (p : Page) (late : Bool) (s : State) : State :=
  let s := raise p 0 s
  if late then raise p 1 s else s

section
variable (p : Page) (late : Bool) (s : State)

theorem flag_launchEvents_fired : flag (launchEvents p late s) p Off.EVT_RAW 0 = true := by
  unfold launchEvents; dsimp only
  split
  · rw [flag_raise_ne p (by decide) (by decide)]
    exact flag_raise_deal p (by decide)
  · exact flag_raise_deal p (by decide)

theorem flag_launchEvents_late : flag (launchEvents p late s) p Off.EVT_RAW 1 = (flag s p Off.EVT_RAW 1 || late) := by
  unfold launchEvents; dsimp only
  cases late with
  | true => rw [if_pos rfl, flag_raise_deal p (by decide), Bool.or_true]
  | false => rw [if_neg (by decide), flag_raise_ne p (by decide) (by decide), Bool.or_false]

theorem dealOf_launchEvents : dealOf (launchEvents p late s) p = dealOf s p := by
  unfold launchEvents; dsimp only
  split <;> simp only [dealOf_raise]

theorem deals_launchEvents : (launchEvents p late s).head.deals = s.head.deals := by
  unfold launchEvents; dsimp only
  split <;> simp only [deals_raise]

theorem regsBut_launchEvents {l : List Nat} (m : evtOf p ∈ l) : RegsBut l s (launchEvents p late s) := by
  unfold launchEvents; dsimp only
  split
  · exact ((RegsBut.refl l s).raise 0 m).raise 1 m
  · exact (RegsBut.refl l s).raise 0 m

/-- The events leave every register at another offset. -/
theorem rd_launchEvents_ne {off : Nat} (h : off < 0x1000) (e : off ≠ Off.EVT_RAW) : rd (launchEvents p late s) p off = rd s p off :=
  regsBut_launchEvents p late s (l := [evtOf p]) (.head _) _ (by
    rw [List.mem_singleton]; exact addr_ne h (by decide) e)

theorem dealFire_none : dealFire p 0 late s = launchEvents p late s := by
  unfold dealFire dealAction
  rfl

theorem dealFire_snapshot : dealFire p 1 late s = counterSnapshot p (launchEvents p late s) := by
  unfold dealFire dealAction
  rfl

end

/-- A deal's slot goes on to a target. -/
def moveDeal (p : Page) (d : DealSt) (s : State) : State :=
  { s with head := { s.head with deals := s.head.deals.map fun e => if e.1 = pageBase p then (e.1, d) else e } }

theorem regsBut_moveDeal (l : List Nat) (p : Page) (d : DealSt) (s : State) : RegsBut l s (moveDeal p d s) := .of_regs rfl rfl

theorem mem_moveDeal {s : State} {p : Page} {d : DealSt} (d' : DealSt) (h : dealOf s p = some d) :
    (pageBase p, d') ∈ (moveDeal p d' s).head.deals := by
  obtain ⟨e, he, hb, -⟩ := mem_of_dealOf h
  exact List.mem_map.mpr ⟨e, he, by rw [if_pos hb, hb]⟩

/-- A deal that may launch in the present beat, with an action of its own only where the page starts commands (R46, R77). -/
def DealReady (s : State) (p : Page) (d : DealSt) (action : Nat) : Prop :=
  dealOf s p = some d ∧ fld s p Off.DEAL_CTRL 4 4 = action ∧ dealPower s p action = true ∧ d.able ≤ beatNo s ∧
    (dealEnabled s p = true ∨ action = 1)

section
variable {s : State} {p : Page} {d : DealSt} {action : Nat} (h : DealReady s p d action)
include h

theorem DealReady.not_held {t : State} (ht : dealEnabled t p = dealEnabled s p) : (!dealEnabled t p && action != 1) = false := by
  rw [ht]
  obtain he | rfl := h.2.2.2.2
  · rw [he]; rfl
  · exact Bool.and_false _

/-- A one-shot deal whose time has come ends: it is missed where it is late and to be discarded, else it fires. -/
theorem dealEval_oneShot (h0 : fld s p Off.DEAL_CTRL 8 24 = 0) (ht : dealAt s p ≤ commitTime s) :
    dealEval p s = if dealLate s (dealAt s p) && flag s p Off.DEAL_CTRL 2 then raise p 2 (dealEnd p s)
      else dealFire p action (dealLate s (dealAt s p)) (dealEnd p s) := by
  have hon := h.not_held (dealEnabled_dealEnd p s)
  obtain ⟨hd, ha, hp, hb, -⟩ := h
  have hable : decide (beatNo s < d.able) = false := decide_eq_false (by omega)
  unfold dealEval
  simp only [hd, ha, hp, hable, h0, hon, Nat.not_lt.mpr ht, Bool.not_true, Bool.or_false, Nat.mul_zero, if_true, if_false, Bool.false_eq_true]
  rfl

/-- A periodic deal whose next target has come and that discards nothing skips what lies before the latest target that is due, and serves
that one. -/
theorem dealEval_periodic (h0 : 0 < 4 * fld s p Off.DEAL_CTRL 8 24) (hdis : flag s p Off.DEAL_CTRL 2 = false)
    (ht : dealAt s p + d.k * (4 * fld s p Off.DEAL_CTRL 8 24) ≤ commitTime s) :
    let period := 4 * fld s p Off.DEAL_CTRL 8 24
    let j := (commitTime s - dealAt s p) / period
    dealEval p s = dealFire p action (dealLate s (dealAt s p + j * period)) (dealSkip p (j - d.k) (moveDeal p { d with k := j + 1 } s)) := by
  intro period j
  have hon := h.not_held (t := moveDeal p { d with k := j + 1 } s) rfl
  obtain ⟨hd, ha, hp, hb, -⟩ := h
  have hable : decide (beatNo s < d.able) = false := decide_eq_false (by omega)
  unfold dealEval
  rw [hd]
  dsimp only
  rw [ha, hp, hable, hdis, if_neg (by decide), if_neg (by omega), if_neg (by omega), Bool.and_false, Bool.or_false, if_neg]
  · rfl
  · exact fun h => Bool.false_ne_true (hon.symm.trans h)

end

/-! ## Skipped targets (R50) -/

theorem toNat_satNat_zero (v : Word) : satNat 0xFFFFFFFF (v.toNat + 0) = v.toNat := by
  have := v.isLt
  unfold satNat; rw [if_neg (by omega)]; rfl

theorem rd_dealSkip (p : Page) (n : Nat) (s : State) :
    (rd (dealSkip p n s) p Off.DEAL_SKIPPED).toNat = satNat 0xFFFFFFFF ((rd s p Off.DEAL_SKIPPED).toNat + n) := by
  unfold dealSkip
  split
  · next h => rw [h, toNat_satNat_zero]
  · exact (congrArg BitVec.toNat (reg_raise_ne (addr_ne (by decide) (by decide) (by decide)))).trans (counted_bump p Off.DEAL_SKIPPED n s)

theorem deals_dealSkip (p : Page) (n : Nat) (s : State) : (dealSkip p n s).head.deals = s.head.deals := by
  unfold dealSkip
  split
  · rfl
  · exact deals_raise ..

theorem regsBut_dealSkip {l : List Nat} (p : Page) (n : Nat) (s : State) (m : pageBase p + Off.DEAL_SKIPPED ∈ l) (m' : evtOf p ∈ l) :
    RegsBut l s (dealSkip p n s) := by
  unfold dealSkip
  split
  · exact .refl l s
  · exact ((RegsBut.refl l s).bump n m).raise 2 m'

/-! ## Counter snapshots (R46) -/

/-- Copies of n registers of a page to others of it that lie above every one of them. -/
theorem copyRegs {p : Page} {base : Nat} (hbase : 0x100 ≤ base) (s : State) (n : Nat) (hn : n ≤ 32) :
    let t := (List.range n).foldl (fun s k => wr p (base + 4 * k) (rd s p (0x80 + 4 * k)) s) s
    (∀ k, k < n → rd t p (base + 4 * k) = rd s p (0x80 + 4 * k)) ∧
      ∀ a, (∀ k, k < n → a ≠ pageBase p + (base + 4 * k)) → reg t a = reg s a := by
  induction n with
  | zero => exact ⟨fun k hk => absurd hk (Nat.not_lt_zero k), fun _ _ => rfl⟩
  | succ n ih =>
    obtain ⟨hcopy, hrest⟩ := ih (by omega)
    rw [List.range_succ, List.foldl_append]
    refine ⟨fun k hk => ?_, fun a ha => ?_⟩
    · by_cases e : k = n
      · subst e
        exact (rd_wr_same ..).trans (hrest _ fun j hj => by omega)
      · exact (reg_wr_ne _ (by omega)).trans (hcopy k (by omega))
    · exact (reg_wr_ne _ (ha n (by omega))).trans (hrest a fun k hk => ha k (by omega))

theorem snapshotAt_ge {p : Page} {base : Nat} (h : snapshotAt p = some base) : 0x100 ≤ base ∧ base + 4 * 32 ≤ 0x1000 := by
  unfold snapshotAt at h
  split at h <;> cases h <;> decide

section
variable {p : Page} {base : Nat} (h : snapshotAt p = some base) (s : State)
include h

theorem rd_counterSnapshot {k : Nat} (hk : k < 32) : rd (counterSnapshot p s) p (base + 4 * k) = rd s p (0x80 + 4 * k) := by
  unfold counterSnapshot; rw [h]
  exact (copyRegs (snapshotAt_ge h).1 s 32 le_rfl).1 k hk

theorem reg_counterSnapshot {a : Nat} (ha : ∀ k, k < 32 → a ≠ pageBase p + (base + 4 * k)) : reg (counterSnapshot p s) a = reg s a := by
  unfold counterSnapshot; rw [h]
  exact (copyRegs (snapshotAt_ge h).1 s 32 le_rfl).2 a ha

end

theorem dealOf_counterSnapshot (p : Page) (s : State) : dealOf (counterSnapshot p s) p = dealOf s p := by
  have e : (counterSnapshot p s).head = s.head := (keeps_counterSnapshot (N := 0x2) rfl p s (Keeps.refl _ s)).same .head rfl
  unfold dealOf; rw [e]

/-! ## The clauses of the statement -/

section
variable {s : State} {w : Func} {p : Page} {d : DealSt}

/-- DEAL_ARM arms a deal that is not armed, with the fields written. -/
theorem runs_dealArm (hw : ∀ n, w ≠ .vf n) (h : Admitted s w p Off.DEAL_CTRL) (hf : flag s p Off.DEAL_CTRL 0 = false) {disc : Bool}
    {action period : Nat} (ha : action < 16) (hper : period < 2 ^ 24) (hl : ¬ (armedLate s p = true ∧ period = 0 ∧ disc = true)) :
    Runs (.dealArm w p disc action period) s fun t =>
      flag t p Off.DEAL_CTRL 0 = true ∧ flag t p Off.DEAL_CTRL 2 = disc ∧ fld t p Off.DEAL_CTRL 4 4 = action ∧
        fld t p Off.DEAL_CTRL 8 24 = period ∧ (pageBase p, ⟨0, beatNo s + ofBool (armedLate s p)⟩) ∈ t.head.deals ∧
        RegsBut [pageBase p + Off.DEAL_CTRL, hhLost] s t := by
  refine runs_of_access rfl h fun u l hu => ?_
  have hf' : flag u p Off.DEAL_CTRL 0 = false := (hu.flag_eq 0 (by decide) (by decide)).trans hf
  have hl' : ¬ (armedLate u p = true ∧ fieldOf (dealWord true false disc action period) 8 24 = 0 ∧
      bitOf (dealWord true false disc action period) 2 = true) := by
    rw [hu.armedLate_eq, fieldOf_dealWord_period, Nat.mod_eq_of_lt hper, bitOf_dealWord_late]
    exact hl
  rw [unlessVf_eq hw, dealCtrl_arms hf' (bitOf_dealWord_arm ..) hl', flag_withMgmt, flag_withMgmt, fld_withMgmt, fld_withMgmt,
    withMgmt_deals]
  have hfld {lo n : Nat} (hlo : 0 < lo) (hm : fieldOf 0xFFFFFFF4 lo n = 2 ^ n - 1) :
      fld (armDeal p (dealWord true false disc action period) u) p Off.DEAL_CTRL lo n =
        fieldOf (dealWord true false disc action period) lo n := (fld_armDeal hlo).trans (fieldOf_and_ones hm)
  refine ⟨flag_armDeal, ?_, ?_, ?_, ?_, hu.regsBut (RegsBut.withMgmt l (regsBut_armDeal (.head _))) (.tail _ (.head _))⟩
  · unfold flag
    rw [hfld (by decide) (by decide)]
    exact bitOf_dealWord_late ..
  · rw [hfld (by decide) (by decide), fieldOf_dealWord_action, Nat.mod_eq_of_lt ha]
  · rw [hfld (by decide) (by decide), fieldOf_dealWord_period, Nat.mod_eq_of_lt hper]
  · rw [← hu.beatNo_eq, ← hu.armedLate_eq]
    exact mem_armDeal

/-- DEAL_ARM of a late one-shot deal that is to be discarded misses it (R48). -/
theorem runs_dealArm_missed (hw : ∀ n, w ≠ .vf n) (h : Admitted s w p Off.DEAL_CTRL) (hf : flag s p Off.DEAL_CTRL 0 = false)
    (hl : armedLate s p = true) (action : Nat) : Runs (.dealArm w p true action 0) s fun t =>
      flag t p Off.DEAL_CTRL 0 = false ∧ flag t p Off.EVT_RAW 2 = true ∧ t.head.deals = s.head.deals ∧
        RegsBut [pageBase p + Off.DEAL_CTRL, evtOf p, hhLost] s t := by
  refine runs_of_access rfl h fun u l hu => ?_
  have hf' : flag u p Off.DEAL_CTRL 0 = false := (hu.flag_eq 0 (by decide) (by decide)).trans hf
  rw [unlessVf_eq hw, dealCtrl_misses hf' (bitOf_dealWord_arm ..) ((hu.armedLate_eq p).trans hl)
    (fieldOf_dealWord_period ..) (bitOf_dealWord_late ..), flag_withMgmt, flag_withMgmt, withMgmt_deals]
  refine ⟨?_, flag_raise_deal p (by decide), ?_,
    hu.regsBut (RegsBut.withMgmt l (((RegsBut.refl _ u).wr _ (.head _)).raise 2 (.tail _ (.head _)))) (.tail _ (.tail _ (.head _)))⟩
  · rw [flag_congr (reg_raise_ne (addr_ne (by decide) (by decide) (by decide)))]
    unfold flag fld
    rw [rd_wr_same, fieldOf_and_zeros (by decide)]; rfl
  · rw [deals_raise, wr_head, hu.deals_eq]

/-- CANCEL ends an armed deal (R49). -/
theorem runs_cancel (hw : ∀ n, w ≠ .vf n) (h : Admitted s w p Off.DEAL_CTRL) (hf : flag s p Off.DEAL_CTRL 0 = true) :
    Runs (.cancel w p) s fun t =>
      flag t p Off.DEAL_CTRL 0 = false ∧ dealOf t p = none ∧ RegsBut [pageBase p + Off.DEAL_CTRL, hhLost] s t := by
  refine runs_of_access rfl h fun u l hu => ?_
  have hf' : flag u p Off.DEAL_CTRL 0 = true := (hu.flag_eq 0 (by decide) (by decide)).trans hf
  rw [unlessVf_eq hw, dealCtrl_cancels hf' (by decide)]
  exact ⟨flag_dealEnd p u, dealOf_dealEnd p u, hu.regsBut (RegsBut.withMgmt l (regsBut_dealEnd p u (.head _))) (.tail _ (.head _))⟩

/-- A VF's write of DEAL_CTRL is captured and has no effect (R455). -/
theorem runs_deal_vf {n : Nat} (h : Admitted s (.vf n) p Off.DEAL_CTRL) {disc : Bool} {action period : Nat} :
    ∀ i ∈ [Instr.dealArm (.vf n) p disc action period, .cancel (.vf n) p], Runs i s fun t =>
      t.head.deals = s.head.deals ∧ RegsBut [hhLost] s t := by
  have hP (u : State) (l : List Nat) (hu : Captured s u) :
      (withMgmt l u).head.deals = s.head.deals ∧ RegsBut [hhLost] s (withMgmt l u) :=
    ⟨hu.deals_eq, hu.regsBut (RegsBut.withMgmt l (.refl _ u)) (.head _)⟩
  intro i hi
  obtain rfl | rfl : i = .dealArm (.vf n) p disc action period ∨ i = .cancel (.vf n) p := by simpa using hi
  · exact runs_of_access rfl h hP
  · exact runs_of_access rfl h hP

/-- A one-shot deal that is not both late and to be discarded fires (R44, R45). -/
theorem dealEval_fires {action : Nat} (h : DealReady s p d action) (h0 : fld s p Off.DEAL_CTRL 8 24 = 0) (ht : dealAt s p ≤ commitTime s)
    (hdis : flag s p Off.DEAL_CTRL 2 = true → dealLate s (dealAt s p) = false) :
    dealEval p s = dealFire p action (dealLate s (dealAt s p)) (dealEnd p s) := by
  rw [dealEval_oneShot h h0 ht, if_neg]
  rw [Bool.and_eq_true]
  rintro ⟨hlate, hf⟩
  rw [hdis hf] at hlate
  exact Bool.false_ne_true hlate

theorem runs_dealLaunch_oneShot (h : DealReady s p d 0) (h0 : fld s p Off.DEAL_CTRL 8 24 = 0) (ht : dealAt s p ≤ commitTime s)
    (hdis : flag s p Off.DEAL_CTRL 2 = true → dealLate s (dealAt s p) = false) : Runs (.dealLaunch p) s fun t =>
      flag t p Off.EVT_RAW 0 = true ∧ flag t p Off.EVT_RAW 1 = (flag s p Off.EVT_RAW 1 || dealLate s (dealAt s p)) ∧
        flag t p Off.DEAL_CTRL 0 = false ∧ dealOf t p = none ∧ RegsBut [pageBase p + Off.DEAL_CTRL, evtOf p] s t := by
  have e := dealEval_fires h h0 ht hdis
  rw [dealFire_none] at e
  refine ⟨_, congrArg Host.Outcome.next e, flag_launchEvents_fired .., ?_, ?_, ?_, ?_⟩
  · rw [flag_launchEvents_late, flag_congr (rd_dealEnd_ne s (by decide) (by decide))]
  · exact (flag_congr (rd_launchEvents_ne _ _ _ (by decide) (by decide))).trans (flag_dealEnd p s)
  · rw [dealOf_launchEvents, dealOf_dealEnd]
  · exact (regsBut_dealEnd p s (.head _)).trans (regsBut_launchEvents _ _ _ (.tail _ (.head _)))

/-- A late one-shot deal that is to be discarded is missed (R48). -/
theorem runs_dealLaunch_missed {action : Nat} (h : DealReady s p d action) (h0 : fld s p Off.DEAL_CTRL 8 24 = 0)
    (ht : dealAt s p ≤ commitTime s) (hdis : flag s p Off.DEAL_CTRL 2 = true) (hlate : dealLate s (dealAt s p) = true) :
    Runs (.dealLaunch p) s fun t =>
      flag t p Off.EVT_RAW 2 = true ∧ flag t p Off.EVT_RAW 0 = flag s p Off.EVT_RAW 0 ∧ flag t p Off.DEAL_CTRL 0 = false ∧
        dealOf t p = none ∧ RegsBut [pageBase p + Off.DEAL_CTRL, evtOf p] s t := by
  have e := dealEval_oneShot h h0 ht
  rw [hlate, hdis, Bool.and_true, if_pos rfl] at e
  refine ⟨_, congrArg Host.Outcome.next e, flag_raise_deal p (by decide), ?_, ?_, ?_, ?_⟩
  · rw [flag_raise_ne p (by decide) (by decide), flag_congr (rd_dealEnd_ne s (by decide) (by decide))]
  · exact (flag_congr (reg_raise_ne (addr_ne (by decide) (by decide) (by decide)))).trans (flag_dealEnd p s)
  · rw [dealOf_raise, dealOf_dealEnd]
  · exact (regsBut_dealEnd p s (.head _)).raise 2 (.tail _ (.head _))

/-- A periodic deal serves the latest target that is due and counts those it skips (R50). -/
theorem runs_dealLaunch_periodic (h : DealReady s p d 0) (h0 : 0 < 4 * fld s p Off.DEAL_CTRL 8 24)
    (hdis : flag s p Off.DEAL_CTRL 2 = false) (ht : dealAt s p + d.k * (4 * fld s p Off.DEAL_CTRL 8 24) ≤ commitTime s) :
    let j := (commitTime s - dealAt s p) / (4 * fld s p Off.DEAL_CTRL 8 24)
    Runs (.dealLaunch p) s fun t =>
      flag t p Off.EVT_RAW 0 = true ∧ (pageBase p, { d with k := j + 1 }) ∈ t.head.deals ∧
        (rd t p Off.DEAL_SKIPPED).toNat = satNat 0xFFFFFFFF ((rd s p Off.DEAL_SKIPPED).toNat + (j - d.k)) ∧
        RegsBut [pageBase p + Off.DEAL_SKIPPED, evtOf p] s t := by
  intro j
  have e := dealEval_periodic h h0 hdis ht
  dsimp only at e
  rw [dealFire_none] at e
  refine ⟨_, congrArg Host.Outcome.next e, flag_launchEvents_fired .., ?_, ?_, ?_⟩
  · rw [deals_launchEvents, deals_dealSkip]
    exact mem_moveDeal _ h.1
  · rw [rd_launchEvents_ne _ _ _ (by decide) (by decide), rd_dealSkip]
    rfl
  · exact ((regsBut_moveDeal _ p _ s).trans (regsBut_dealSkip p _ _ (.head _) (.tail _ (.head _)))).trans
      (regsBut_launchEvents p _ _ (.tail _ (.head _)))

/-- The launch of a one-shot deal with ACTION 0x1 copies the page's counters (R46). -/
theorem runs_counterSnapshot {base : Nat} (h : DealReady s p d 1) (hsnap : snapshotAt p = some base)
    (h0 : fld s p Off.DEAL_CTRL 8 24 = 0) (ht : dealAt s p ≤ commitTime s)
    (hdis : flag s p Off.DEAL_CTRL 2 = true → dealLate s (dealAt s p) = false) : Runs (.counterSnapshot p) s fun t =>
      flag t p Off.DEAL_CTRL 0 = false ∧ dealOf t p = none ∧ (∀ k, k < 32 → rd t p (base + 4 * k) = rd s p (0x80 + 4 * k)) ∧
        flag t p Off.EVT_RAW 0 = true ∧
        RegsBut ((pageBase p + Off.DEAL_CTRL) :: evtOf p :: (List.range 32).map fun k => pageBase p + (base + 4 * k)) s t := by
  have e := dealEval_fires h h0 ht hdis
  rw [dealFire_snapshot] at e
  have hexec : execCounterSnapshot p s = dealEval p s := by unfold execCounterSnapshot dealOn; rw [if_pos h.2.1]
  obtain ⟨hlo, hhi⟩ := snapshotAt_ge hsnap
  have hkept {off : Nat} (hoff : off < 0x100) (t : State) : rd (counterSnapshot p t) p off = rd t p off :=
    reg_counterSnapshot hsnap t fun k hk => by omega
  refine ⟨_, congrArg Host.Outcome.next (hexec.trans e), ?_, ?_, fun k hk => ?_, ?_, fun a hna => ?_⟩
  · rw [flag_congr (hkept (by decide) _), flag_congr (rd_launchEvents_ne _ _ _ (by decide) (by decide)), flag_dealEnd]
  · rw [dealOf_counterSnapshot, dealOf_launchEvents, dealOf_dealEnd]
  · rw [rd_counterSnapshot hsnap _ hk, rd_launchEvents_ne (off := 0x80 + 4 * k) _ _ _ (by omega) (by unfold Off.EVT_RAW; omega),
      rd_dealEnd_ne (off := 0x80 + 4 * k) _ (by omega) (by unfold Off.DEAL_CTRL; omega)]
  · rw [flag_congr (hkept (by decide) _), flag_launchEvents_fired]
  · rw [List.mem_cons, List.mem_cons, not_or, not_or] at hna
    obtain ⟨hctl, hevt, hcopies⟩ := hna
    calc reg (counterSnapshot p _) a = reg (launchEvents p _ (dealEnd p s)) a :=
          reg_counterSnapshot hsnap _ fun k hk hk' => hcopies (List.mem_map.mpr ⟨k, List.mem_range.mpr hk, hk'.symm⟩)
      _ = reg (dealEnd p s) a := regsBut_launchEvents p _ _ (l := [evtOf p]) (.head _) a (by rwa [List.mem_singleton])
      _ = reg s a := regsBut_dealEnd p s (l := [pageBase p + Off.DEAL_CTRL]) (.head _) a (by rwa [List.mem_singleton])

end

/-- Settles O14: each write of DEAL_CTRL is one case of `dealCtrl`, each launch one of `dealEval`. -/
theorem deals : Obligations.Deals := by
  unfold Obligations.Deals
  intro late ctl evt due
  exact ⟨fun _ _ _ _ _ _ hw h hf ha hper hl => runs_dealArm hw h hf ha hper hl,
    fun _ _ _ action hw h hf hl => runs_dealArm_missed hw h hf hl action,
    fun _ _ _ hw h hf => runs_cancel hw h hf, fun _ _ _ _ _ _ h => runs_deal_vf h, fun _ _ _ h h0 ht hdis => runs_dealLaunch_oneShot h h0 ht hdis,
    fun _ _ _ h h0 ht hdis hlate => runs_dealLaunch_missed h h0 ht hdis hlate, fun _ _ _ h h0 hdis ht => runs_dealLaunch_periodic h h0 hdis ht,
    fun _ _ _ _ h hsnap h0 ht hdis => runs_counterSnapshot h hsnap h0 ht hdis⟩

end Sys2Proof.Machine
end

section
/-! # The beat: what runs before and after the boundary leaves Table Time

`Still T s` says that state s stands at the time T, that nothing waits for the link and that no register-initialisation list is left. What ends
and begins a beat keeps it; an operation that leaves Table Time, the boot state and the host interface keeps it by its `keeps_` lemma. -/
namespace Sys2Proof.Machine

/-- State s has the count, the beat pulses, what waits for a boundary and what has committed of a time, and nothing that a beat takes up again. -/
structure Still (T : TimeSt) (s : State) : Prop where
  now : s.tt.now = T.now
  beats : s.tt.beats = T.beats
  run : s.tt.run = T.run
  realigned : s.tt.realigned = T.realigned
  pend : s.tt.pend = T.pend
  commits : s.tt.commits = T.commits
  waiting : s.host.waiting = []
  regInit : s.boot.regInit = []

/-- The mask of every part but Table Time, the boot state and the host interface. -/
abbrev offTime : Nat := 0x3fff6b

variable {T : TimeSt} {s t : State}

theorem leavesTime {M : Nat} (e : M ||| offTime = offTime) : Within M offTime := e

theorem still_of_keeps (k : Keeps offTime s t) (h : Still T s) : Still T t := by
  have htt : t.tt = s.tt := k.same .tt rfl
  have hboot : t.boot = s.boot := k.same .boot rfl
  have hhost : t.host = s.host := k.same .host rfl
  constructor <;> simp only [htt, hboot, hhost, h.now, h.beats, h.run, h.realigned, h.pend, h.commits, h.waiting, h.regInit]

theorem still_ite {c : Prop} [Decidable c] {u v : State} (hu : Still T u) (hv : Still T v) : Still T (if c then u else v) := by
  split <;> assumption

theorem still_foldl {β : Type} {f : State → β → State} (hf : ∀ u b, Still T u → Still T (f u b)) (l : List β) (h : Still T s) :
    Still T (l.foldl f s) := by
  induction l generalizing s with
  | nil => exact h
  | cons b r ih => exact ih (hf s b h)

theorem still_setFld (p : Page) (off lo w x : Nat) (h : Still T s) : Still T (setFld p off lo w x s) := { h with }
theorem still_setFlag (p : Page) (off b : Nat) (v : Bool) (h : Still T s) : Still T (setFlag p off b v s) := { h with }
theorem still_wr (p : Page) (off : Nat) (v : Word) (h : Still T s) : Still T (wr p off v s) := { h with }
theorem still_bump (p : Page) (off k : Nat) (h : Still T s) : Still T (bump p off k s) := { h with }
theorem still_tbl (x : TblSt) (h : Still T s) : Still T { s with tbl := x } := { h with }
theorem still_emit (o : Out) (h : Still T s) : Still T (emit o s) := { h with }
theorem still_raise (p : Page) (b : Nat) (h : Still T s) : Still T (raise p b s) :=
  still_of_keeps (keeps_raise (leavesTime rfl) p b s (.refl offTime s)) h
theorem still_hhCapture (kind island unit : Nat) (payload : List Byte) (h : Still T s) : Still T (hhCapture kind island unit payload s) :=
  still_of_keeps (keeps_hhCapture (leavesTime rfl) kind island unit payload s (.refl offTime s)) h

/-! ## The end of a beat -/

theorem still_lateMark (src dst sent : Nat) (h : Still T s) : Still T (lateMark src dst sent s) :=
  still_hhCapture _ _ _ _ (still_bump _ _ _ (still_raise _ _ { h with }))

theorem still_postCommit (t : Nat) (p : HaloPost) (h : Still T s) : Still T (postCommit t p s) := by
  unfold postCommit
  extract_lets late u
  have hu : Still T u := by
    refine still_of_keeps ?_ h
    apply keeps_haloCommit (leavesTime rfl); apply keeps_flitsPass (leavesTime rfl); apply keeps_updTile (leavesTime rfl)
    · exact Keeps.refl offTime s
    · exact fun _ hx => hx
  exact still_ite (still_lateMark _ _ _ hu) hu

theorem still_postsEnd (h : Still T s) : Still T (postsEnd s) := by
  refine still_foldl (fun u t hu => ?_) _ h
  have hposts := still_foldl (fun v p hv => still_postCommit t p hv)
    ((tileOf u t).posts.filter fun p => t / 16 == p.target / 16 && decide (p.due ≤ beatNo u)) hu
  exact { hposts with }

theorem still_raiseVector (fn v : Nat) (h : Still T s) : Still T (raiseVector fn v s) :=
  still_ite h (still_ite (still_ite h { h with }) { h with })

theorem still_signalPage (base : Nat) (h : Still T s) : Still T (signalPage base s) := by
  unfold signalPage
  refine still_ite h ?_
  extract_lets u
  have hu : Still T u := still_ite (still_raiseVector _ _ h) h
  exact still_ite (still_emit _ hu) hu

theorem still_endOfBeatSignals (h : Still T s) : Still T (endOfBeatSignals s) := by
  have hsent := still_foldl (fun u b hu => still_signalPage b hu)
    (((eventPages s).filter fun b => maskAt s b != 0).filter fun b => !s.head.mPrev.contains b || s.head.written.contains b) h
  exact { hsent with }

/-- Messages that carry a tag do nothing at their receivers. -/
theorem applyMsgs_tags (l : List Commit) (hl : ∀ c ∈ l, ∃ n, c.payload = .tag n) (s : State) : l.foldl applyMsg s = s := by
  induction l generalizing s with
  | nil => rfl
  | cons c r ih =>
    obtain ⟨n, hn⟩ := hl c (.head _)
    have hc : applyMsg s c = s := by unfold applyMsg; rw [hn]
    rw [List.foldl_cons, hc]
    exact ih (fun c hc => hl c (.tail _ hc)) s

theorem still_applyCommits (hl : ∀ c ∈ T.commits, ∃ n, c.payload = .tag n) (h : Still T s) :
    Still { T with commits := [] } (applyCommits s) := by
  unfold applyCommits
  rw [applyMsgs_tags _ (by rw [h.commits]; exact hl)]
  exact { h with commits := rfl }

/-- The end of a beat applies what has committed and leaves the time. -/
theorem still_endBeat (hl : ∀ c ∈ T.commits, ∃ n, c.payload = .tag n) (h : Still T s) : Still { T with commits := [] } (endBeat s) := by
  unfold endBeat
  extract_lets u v
  have hu : Still { T with commits := [] } u := by
    refine still_of_keeps ?_ (still_applyCommits hl (still_postsEnd h))
    apply keeps_recordTime (leavesTime rfl); apply keeps_countBeat (leavesTime rfl); apply keeps_slotNotes (leavesTime rfl)
    apply keeps_pwrAgain (leavesTime rfl); apply keeps_readsEnd (leavesTime rfl); apply keeps_grantsEnd (leavesTime rfl)
    apply keeps_csiTimeouts (leavesTime rfl); apply keeps_latchesEnd (leavesTime rfl); apply keeps_pointsEnd (leavesTime rfl)
    exact Keeps.refl offTime _
  exact still_endOfBeatSignals (still_ite (still_of_keeps (keeps_hhFlush (leavesTime rfl) u (.refl offTime u)) hu) hu)

/-! ## Power domains -/

theorem still_relax (m : Nat) (h : Still T s) : Still T { s with tt := { s.tt with relax := m } } := { h with }

theorem still_applyRelax (h : Still T s) : Still T (applyRelax s) :=
  still_ite h (still_hhCapture _ _ _ _ (still_relax _ h))

theorem still_setDom (d x : Nat) (h : Still T s) : Still T (setDom d x s) := { h with }

theorem still_trainLink (die edge : Nat) (h : Still T s) : Still T (trainLink die edge s) := by
  unfold trainLink
  extract_lets p x good u v
  have hu : Still T u := still_setFld _ _ _ _ _ (still_setFld _ _ _ _ _ h)
  have hv : Still T v := still_ite hu (still_raise _ _ hu)
  exact still_ite { hv with } hv

theorem still_domainOn (d : Nat) (h : Still T s) : Still T (domainOn d s) := by
  unfold domainOn
  extract_lets u
  have hu : Still T u := still_setDom d 2 h
  have hstack : Still T (trainStack (d - 5) u) := still_of_keeps (keeps_trainStack (leavesTime rfl) _ u (.refl offTime u)) hu
  exact still_ite hu (still_ite (still_setFlag _ _ _ _ hstack) (still_ite (still_foldl (fun v e hv => still_trainLink _ e hv) _ hu) hu))

theorem still_contentsLost (d level : Nat) (h : Still T s) : Still T (contentsLost d level s) :=
  still_ite (still_ite h { h with })
    (still_ite (still_foldl (fun u t hu => still_ite hu (still_of_keeps (keeps_tileLost (leavesTime rfl) t u (.refl offTime u)) hu)) _ h) h)

theorem still_regionsLost (p : Page) (h : Still T s) : Still T (regionsLost p s) := still_ite { h with } h

theorem still_pagePowerOff (p : Page) (h : Still T s) : Still T (pagePowerOff p s) := by
  unfold pagePowerOff
  extract_lets keep _ u _ v
  have hu : Still T u := by
    unfold u
    split
    · exact h
    · exact h
    · exact { h with }
    · exact still_of_keeps (keeps_blockClear (leavesTime rfl) p s (.refl offTime s)) h
  have hv : Still T v := { hu with }
  have hclear : Still T (clearPage p keep v) := still_of_keeps (keeps_clearPage (leavesTime rfl) p keep v (.refl offTime v)) hv
  apply still_regionsLost
  split
  · exact hclear
  · exact still_of_keeps (keeps_dropHead (leavesTime rfl) p _ (.refl offTime _)) hclear

theorem still_domainOff (d : Nat) (h : Still T s) : Still T (domainOff d s) := by
  unfold domainOff
  extract_lets u v
  have hu : Still T u := still_foldl (fun w p hw => still_pagePowerOff p hw) _ h
  have hv : Still T v := still_of_keeps (keeps_sensorsOff (leavesTime rfl) d u (.refl offTime u)) hu
  exact still_ite (still_of_keeps (keeps_dropBypass (leavesTime rfl) _ _ (keeps_setKitty (leavesTime rfl) _ _ _ (.refl offTime v))) hv) hv

theorem still_domainTo (d level : Nat) (h : Still T s) : Still T (domainTo d level s) :=
  still_ite h (still_ite (still_domainOn d h) (still_setDom _ _ (still_contentsLost _ _ (still_ite (still_domainOff d h) h))))

theorem still_hostSend (fn : Nat) (o : Out) (h : Still T s) : Still T (hostSend fn o s) := still_ite (still_emit o h) { h with }

theorem still_slotStore (a : Home) (e : List Byte × Bool) (h : Still T s) : Still T (slotStore a e s) := by
  unfold slotStore
  extract_lets n bytes u v
  have hu : Still T u := still_bump _ _ _ (still_bump _ _ _ h)
  have hv : Still T v := still_ite (still_bump _ _ _ hu) hu
  split
  · exact still_hostSend _ _ hv
  · exact { hv with }

theorem still_slotWrite (a : Home) (data : List Byte) (h : Still T s) : Still T (slotWrite a data s) := still_slotStore _ _ h

theorem still_kittySave (n : Nat) (h : Still T s) : Still T (kittySave n s) := still_foldl (fun _ l hu => still_slotWrite l.home l.data hu) _ h

theorem still_switchBegin (d level : Nat) (h : Still T s) : Still T (switchBegin d level s) :=
  still_ite (still_setDom _ _ h) (still_setDom _ _ (still_domainOff d (still_ite (still_kittySave _ h) h)))

theorem still_switchTick (h : Still T s) : Still T (switchTick s) := by
  unfold switchTick
  split
  · exact h
  · split
    · exact still_domainTo _ _ h
    · split
      · exact still_ite h (still_switchBegin _ _ h)
      · split
        · exact still_switchBegin _ _ h
        · exact { h with }

/-! ## Soft resets -/

theorem still_softReset (p : Page) (h : Still T s) : Still T (softReset p s) := by
  unfold softReset
  extract_lets eff keep deny u
  have hu : Still T u := by
    apply still_regionsLost
    refine still_of_keeps ?_ h
    apply keeps_linkReset (leavesTime rfl); apply keeps_clockReset (leavesTime rfl); apply keeps_dropHead (leavesTime rfl)
    apply keeps_clearCounters (leavesTime rfl); apply keeps_clearPage (leavesTime rfl); apply keeps_blockClear (leavesTime rfl)
    exact Keeps.refl offTime s
  exact still_ite (still_setFlag _ _ _ _ hu) hu

theorem still_softResets (h : Still T s) : Still T (softResets s) := by
  unfold softResets
  extract_lets bases
  refine still_foldl (fun u b hu => ?_) _ { h with }
  split
  · exact still_ite (still_softReset _ hu) hu
  · exact hu

/-! ## Wake events and deals -/

theorem still_setPwrTarget (n : Nat) (h : Still T s) : Still T (setPwrTarget n s) := still_setFld _ _ _ _ _ h
theorem still_setPwrPhase (n : Nat) (h : Still T s) : Still T (setPwrPhase n s) := still_setFld _ _ _ _ _ h

theorem still_railsOn (h : Still T s) : Still T (railsOn s) := { h with }

theorem still_startClimb (target : Nat) (h : Still T s) : Still T (startClimb target s) := by
  unfold startClimb
  extract_lets u _ v
  have hu : Still T u := still_setPwrPhase _ (still_setPwrTarget _ h)
  clear_value u
  have hv : Still T v := { hu with }
  refine still_ite ?_ (still_ite (still_ite (still_setPwrPhase _ { hv with }) (still_setPwrPhase _ (still_setFld _ _ _ _ _ hv)))
    (still_ite { hv with } hv))
  have hlock : Still T { v with tt := { v.tt with locking := true } } := { hv with }
  exact still_ite (still_railsOn hlock)
    (still_of_keeps (keeps_regSwitchTo (leavesTime rfl) true _ (.refl offTime _)) hlock)

theorem still_wakeActs (target : Nat) (h : Still T s) : Still T (wakeActs target s) := by
  unfold wakeActs
  extract_lets up
  have hup (u : State) (hu : Still T u) : Still T (up u) := still_ite (still_startClimb target hu) hu
  have hend : Still T (endPwrCmd 8 s) := still_of_keeps (keeps_endPwrCmd (leavesTime rfl) 8 s (.refl offTime s)) h
  split
  · exact hup s h
  · exact still_ite (hup _ hend) h
  · exact still_ite (hup _ hend) h
  · exact { h with }
  · exact still_ite (still_setPwrTarget _ h) h

theorem still_wakeFirst (target : Nat) (c : PwrCmdSt) (h : Still T s) : Still T (wakeFirst target c s) :=
  still_ite (still_ite (still_wakeActs _ (still_of_keeps (keeps_takeBack (leavesTime rfl) c s (.refl offTime s)) h)) (still_wakeActs _ h))
    (still_ite (still_setFld _ _ _ _ _ (still_wakeActs _ h)) (still_wakeActs _ h))

theorem still_wakeRecord (idx : Nat) (h : Still T s) : Still T (wakeRecord idx s) :=
  still_of_keeps (keeps_wakeRecord (leavesTime rfl) idx s (.refl offTime s)) h

theorem still_wakeEvent (idx : Nat) (h : Still T s) : Still T (wakeEvent idx s) := by
  have hr := still_wakeRecord idx h
  unfold wakeEvent
  refine still_ite ?_ h
  split
  · exact still_ite (still_wakeFirst _ _ hr) (still_wakeActs _ hr)
  · exact still_wakeActs _ hr

/-- Fold keeps Table Time and what waits for the link; no list of a deck is left. -/
theorem still_keeperOnly (h : Still T s) : Still T (keeperOnly s) := by
  unfold keeperOnly
  extract_lets r mine pf _ _ u
  have hu : Still T u := { h with regInit := rfl }
  exact still_ite (still_setFlag _ _ _ _ hu) hu

theorem still_sendPme (h : Still T s) : Still T (sendPme s) := { h with }

theorem still_foldExit (h : Still T s) : Still T (foldExit s) := by
  have hk := still_keeperOnly h
  unfold foldExit
  extract_lets byHost u _ _ v
  have hv : Still T v := { hk with }
  exact still_ite hv (still_sendPme hv)

theorem still_anyWake (idx : Nat) (h : Still T s) : Still T (anyWake idx s) :=
  still_ite (still_ite (still_foldExit (still_wakeRecord idx h)) h) (still_wakeEvent idx h)

theorem still_dealAction (p : Page) (action : Nat) (h : Still T s) : Still T (dealAction p action s).2 := by
  have hs := Keeps.refl offTime s
  unfold dealAction
  split
  · exact h
  · exact still_of_keeps (keeps_counterSnapshot (leavesTime rfl) _ _ hs) h
  · exact still_anyWake 5 h
  · exact still_of_keeps (keeps_resyncGroup (leavesTime rfl) _ _ hs) h
  · exact still_of_keeps (keeps_bankRequest (leavesTime rfl) _ _ hs) h
  · exact still_of_keeps (keeps_voStart (leavesTime rfl) _ _ hs) h
  · exact still_of_keeps (keeps_voStop (leavesTime rfl) _ _ hs) h
  · exact still_of_keeps (keeps_csiFsync (leavesTime rfl) _ _ hs) h
  · exact still_of_keeps (keeps_csiGate (leavesTime rfl) _ _ _ hs) h
  · exact still_of_keeps (keeps_csiGate (leavesTime rfl) _ _ _ hs) h
  · exact still_of_keeps (keeps_dealLaunch (leavesTime rfl) _ _ hs) h
  · exact still_of_keeps (keeps_dealJob (leavesTime rfl) _ _ hs) h
  · exact h

theorem still_dealFire (p : Page) (action : Nat) (late : Bool) (h : Still T s) : Still T (dealFire p action late s) := by
  unfold dealFire
  extract_lets u v r
  have hv : Still T v := still_ite (still_raise _ _ (still_raise _ _ h)) (still_raise _ _ h)
  have hr : Still T r.2 := still_dealAction p action hv
  exact still_ite (still_raise _ _ hr) hr

theorem still_dealEnd (p : Page) (h : Still T s) : Still T (dealEnd p s) := { h with }

theorem still_dealSkip (p : Page) (n : Nat) (h : Still T s) : Still T (dealSkip p n s) :=
  still_ite h (still_raise _ _ (still_bump _ _ _ h))

theorem still_dealEval (p : Page) (h : Still T s) : Still T (dealEval p s) := by
  unfold dealEval
  split
  · exact h
  · next d _ =>
    have he := still_dealEnd p h
    refine still_ite h (still_ite ?_ ?_)
    · exact still_ite h (still_ite (still_raise _ _ he) (still_ite (still_raise _ _ he) (still_dealFire _ _ _ he)))
    · have hm (k : Nat) : Still T (moveDeal p { d with k := k } s) := { h with }
      exact still_ite h (still_ite (still_dealSkip _ _ (hm _)) (still_dealFire _ _ _ (still_dealSkip _ _ (hm _))))

theorem still_dealsDue (h : Still T s) : Still T (dealsDue s) := still_foldl (fun _ p hu => still_dealEval p hu) _ h

/-! ## The mailbox, cells, bids, and what waits for the host -/

theorem still_mbPost (h : Still T s) : Still T (mbPost s) := by
  have hburn (op : Nat) (u : State) (hu : Still T u) : Still T (burnEnd op u) := by
    unfold burnEnd
    split
    · exact still_ite { hu with } hu
    · exact hu
  unfold mbPost
  split
  · exact h
  · next c _ =>
    refine still_ite h (still_raise _ _ (still_setFlag _ _ _ _ ?_))
    exact still_of_keeps (keeps_mbShow (leavesTime rfl) c _ (.refl offTime _)) (hburn c.op _ { h with })

theorem still_setHold (n : Nat) (x : HoldSt) (h : Still T s) : Still T (setHold n x s) := { h with }

theorem still_flushCells (t c n : Nat) (h : Still T s) : Still T (flushCells t c n s) := by
  induction n generalizing s with
  | zero => exact h
  | succ n ih =>
    unfold flushCells
    extract_lets x y u
    have hu : Still T u := still_setHold _ _ h
    split
    · exact hu
    · exact still_ite (ih (still_of_keeps (keeps_sendCell (leavesTime rfl) _ _ _ (.refl offTime _)) (still_setHold _ _ hu))) hu

theorem still_flushHold (t : Nat) (h : Still T s) : Still T (flushHold t s) := by
  unfold flushHold
  split
  · exact h
  · exact still_flushCells _ _ _ h

theorem still_urgentWake (h : Still T s) : Still T (urgentWake s) :=
  still_ite (still_ite (still_sendPme h) h) (still_ite (still_emit _ h) h)

theorem still_postCell (t : Nat) (x : Cell) (h : Still T s) : Still T (postCell t x s) := by
  unfold postCell
  split
  · exact h
  · extract_lets y u
    have hu : Still T u := still_setHold _ _ h
    exact still_ite { h with } (still_flushHold _ (still_ite (still_urgentWake hu) hu))

theorem still_serviceEvent (code a0 a1 : Nat) (h : Still T s) : Still T (serviceEvent code a0 a1 s) :=
  still_ite (still_postCell _ _ h) h

theorem still_evictLine (n : Nat) (l : KLine) (h : Still T s) : Still T (evictLine n l s) := by
  unfold evictLine
  extract_lets u
  have hu : Still T u := still_ite (still_bump _ _ _ (still_slotWrite _ _ h)) h
  exact still_bump _ _ _ (still_of_keeps (keeps_dropLines (leavesTime rfl) _ _ _ (.refl offTime _)) hu)

theorem still_takeLine (n tenant : Nat) (h : Still T s) : Still T (takeLine n tenant s).2 := by
  unfold takeLine
  extract_lets ls used evict
  have hevict (o : Option KLine) (u : State) (hu : Still T u) : Still T (evict o u).2 := by
    unfold evict
    split
    · exact hu
    · exact still_evictLine _ _ hu
  split
  · split
    · exact h
    · exact hevict _ _ h
  · split
    · exact h
    · exact hevict (some _) _ (still_bump (pgKitty n) Off.KITTY_CNT_QUOTA_EVICT 1 h)

theorem still_storeAsk (c dom : Nat) (a : Home) (t off : Nat) (data : List Byte) (h : Still T s) :
    Still T (storeAsk c dom a t off data s).2 := by
  unfold storeAsk
  extract_lets n r
  have hr : Still T r.2 := still_takeLine _ _ h
  split
  · exact still_hostSend _ _ (still_of_keeps (keeps_kittyBypass (leavesTime rfl) _ _ (keeps_holdBypass (leavesTime rfl) _ _ (.refl offTime _))) hr)
  · exact still_hostSend _ _ (still_of_keeps (keeps_addLine (leavesTime rfl) _ _ _ (.refl offTime _)) hr)

theorem still_storeFresh (a : Home) (t off : Nat) (whole : Bool) (data : List Byte) (h : Still T s) :
    Still T (storeFresh a t off whole data s).2 := by
  unfold storeFresh
  extract_lets +onlyGivenNames n old
  have hold : Still T old.2 := by
    unfold old
    split
    · exact h
    · exact still_of_keeps (keeps_homeRead (leavesTime rfl) _ _ _ _ (.refl offTime s)) h
  split
  · exact still_of_keeps (keeps_kittyPoison (leavesTime rfl) _ _ (.refl offTime _)) hold
  · extract_lets +onlyGivenNames new tag r
    have hr : Still T r.2 := still_takeLine _ _ hold
    split
    · exact still_slotWrite _ _ (still_of_keeps (keeps_kittyBypass (leavesTime rfl) _ _ (.refl offTime _)) hr)
    · exact still_of_keeps (keeps_addLine (leavesTime rfl) _ _ _ (.refl offTime _)) hr

theorem still_memStore (who : Requester) (dom : Nat) (a : Home) (off : Nat) (data : List Byte) (h : Still T s) :
    Still T (memStore who dom a off data s).2 := by
  have hs := Keeps.refl offTime s
  unfold memStore
  extract_lets n t whole
  split
  · exact still_of_keeps (keeps_memDenied (leavesTime rfl) _ _ _ hs) h
  · split
    · next l _ _ _ =>
      extract_lets u
      have hu : Still T u := by
        refine still_of_keeps ?_ h
        apply keeps_noteSlot (leavesTime rfl)
        apply keeps_ite
        · apply keeps_fillServe (leavesTime rfl)
          exact hs
        · exact hs
      split
      · exact still_of_keeps (keeps_updLine (leavesTime rfl) _ _ _ _ (.refl offTime u)) hu
      · exact still_storeFresh _ _ _ _ _ hu
    · split
      · exact h
      · exact still_of_keeps (keeps_updLine (leavesTime rfl) _ _ _ _ hs) h
    · exact still_storeFresh _ _ _ _ _ (still_of_keeps (keeps_noteSlot (leavesTime rfl) _ _ hs) h)
    · split
      · exact still_storeFresh _ _ _ _ _ h
      · exact still_storeAsk _ _ _ _ _ _ h

theorem still_storeBytes (who : Requester) (dom : Nat) (t4 : Option Nat) (n a : Nat) (bs : List Byte) (h : Still T s) :
    Still T (storeBytes who dom t4 n a bs s).state := by
  induction n generalizing a bs s with
  | zero => exact h
  | succ n ih =>
    unfold storeBytes
    split
    · exact h
    · extract_lets k g
      have hg : Still T g.state := by
        refine still_of_keeps ?_ (still_memStore who dom ⟨t4, a / 4096 * 4096⟩ (a % 4096) (bs.take k) h)
        unfold g
        apply keeps_gotMem (leavesTime rfl)
        exact Keeps.refl offTime _
      split
      · exact hg
      · exact ih _ _ hg

theorem still_svcDeliver (port : Nat) (header payload : List Byte) (h : Still T s) : Still T (svcDeliver port header payload s) :=
  still_ite h (still_ite (still_bump _ _ _ h) (still_wr _ _ _ (still_storeBytes _ _ _ _ _ _ h)))

theorem still_awardCommit (port src : Nat) (header payload : List Byte) (h : Still T s) : Still T (awardCommit port src header payload s) := by
  unfold awardCommit
  extract_lets +onlyGivenNames speech winner near beaten
  refine still_ite h ?_
  extract_lets +onlyGivenNames mine _ u v
  have hu : Still T u := still_tbl _ h
  have hv : Still T v := still_raise _ _ (still_svcDeliver _ _ _ (still_setFld _ _ _ _ _ hu))
  clear_value v mine
  split
  · exact still_wakeEvent 6 hv
  · split
    · exact hv
    · exact still_ite (still_serviceEvent _ _ _ hv) (still_serviceEvent _ _ _ hv)

theorem still_bidCommit (src : Nat) (payload : List Byte) (h : Still T s) : Still T (bidCommit src payload s) := by
  unfold bidCommit
  extract_lets +onlyGivenNames speech old _ u bid
  have hu : Still T u := still_tbl _ h
  clear_value u
  split
  · exact still_tbl _ hu
  · next r _ =>
    refine still_ite (still_tbl _ hu) ?_
    extract_lets +onlyGivenNames v
    have hv : Still T v := still_bump _ _ _ hu
    split
    · exact still_ite (still_awardCommit _ _ _ _ hv) (still_of_keeps (keeps_sendFrame (leavesTime rfl) _ _ _ _ _ _ _ _ (.refl offTime v)) hv)
    · exact still_tbl _ hv

theorem still_bidsCommit (h : Still T s) : Still T (bidsCommit s) := still_foldl (fun _ x hu => still_bidCommit _ x hu) _ { h with }

/-- With no list left the management cores have nothing to write. -/
theorem still_applyRegInit (h : Still T s) : Still T (applyRegInit s) := by
  unfold applyRegInit
  refine still_ite h ?_
  rw [h.regInit]
  exact { h with regInit := rfl }

theorem still_linksLost (h : Still T s) : Still T (linksLost s) :=
  still_foldl (fun u e hu => still_ite (still_of_keeps (keeps_linkLost (leavesTime rfl) e.1 e.2 u (.refl offTime u)) hu) hu) _ { h with }

theorem still_hostSends (h : Still T s) : Still T (hostSends s) := still_foldl (fun _ e hu => still_emit e.2 hu) _ { h with }

theorem still_regionsAgain (h : Still T s) : Still T (regionsAgain s) :=
  still_ite (still_foldl (fun u k hu => still_of_keeps (keeps_addRegions (leavesTime rfl) k u (.refl offTime u)) hu) _ { h with }) h

theorem still_flushHolds (h : Still T s) : Still T (flushHolds s) := still_foldl (fun _ e hu => still_flushHold e.1 hu) _ h

/-- Where nothing waits, nothing goes on. -/
theorem still_resumeReqs (h : Still T s) : Still T (resumeReqs s) := by
  unfold resumeReqs
  refine still_ite h ?_
  rw [h.waiting]
  exact { h with waiting := rfl }

/-! ## The boundary -/

/-- The start of a beat leaves the time that the boundary made. -/
theorem still_startBeat (h : Still T s) : Still T (startBeat s) := by
  have hresets := still_softResets (still_switchTick (still_applyRelax h))
  have hdeals := still_dealsDue (still_of_keeps (keeps_fencesDrain (leavesTime rfl) _ (.refl offTime _)) hresets)
  have hinit := still_applyRegInit (still_bidsCommit (still_mbPost hdeals))
  have hrecord := still_of_keeps (keeps_resumeRecord (leavesTime rfl) _ (.refl offTime _)) hinit
  have hupdate := still_of_keeps (keeps_regUpdate (leavesTime rfl) _ (.refl offTime _)) hrecord
  have hclock := still_of_keeps (keeps_clockFalls (leavesTime rfl) _ (.refl offTime _)) hupdate
  have hregions := still_regionsAgain (still_hostSends (still_linksLost hclock))
  have hqueues := still_of_keeps (keeps_settleQueues (leavesTime rfl) (fun _ => true) _ (.refl offTime _)) hregions
  exact still_resumeReqs (still_flushHolds hqueues)

/-- Where Table Time stands at a boundary before a load or a step (R31, R60; log 59). -/
def boundaryOf (T : TimeSt) : Nat := Nat.min (if T.realigned then ceilDiv T.now 64 * 64 else (T.now / 64 + 1) * 64) lastBeat

/-- The time at a boundary before what waits for it is applied. -/
def timeAtBoundary (T : TimeSt) : TimeSt :=
  { T with now := boundaryOf T, beats := T.beats + 1, realigned := false, commits := [], pend := [] }

/-- A load or a step changes the count alone, of what `Still` names. -/
theorem still_applyChange (e : Bool × Nat) (h : Still T s) : Still { T with now := (applyChange s e).tt.now } (applyChange s e) := by
  unfold applyChange
  split
  · exact { h with now := rfl }
  · have hf : Still T (fresh s).2 := { h with }
    extract_lets f past u n
    have hu : Still T u := still_ite hf h
    have hn : Still { T with now := n } { u with tt := { u.tt with now := n } } := { hu with now := rfl }
    have hr := still_bump pgTT Off.TT_CNT_STEPS 1 (still_raise pgTT Evt.TT_STEP_APPLIED hn)
    exact { hr with now := rfl }

end Sys2Proof.Machine
end

section
/-! # The beat pulse (R31, R60)

The boundary moves Table Time, then what waits is applied; what the beat does besides leaves the time (`still_endBeat`, `still_startBeat`). -/
namespace Sys2Proof.Machine

variable {T : TimeSt} {s : State}

/-- The state at a boundary, before the load or step that waits is applied. -/
def atBoundary (s : State) : State :=
  { s with
    tt := { timeAtBoundary s.tt with firstDue := boundaryOf s.tt / 64 }
    head := { s.head with sets := [], counts := [], asks := [] } }

/-- The state at a boundary with every load and step that waited applied. -/
def afterChanges (s : State) : State := s.tt.pend.foldl applyChange (atBoundary s)

theorem advanceTime_eq (s : State) :
    advanceTime s = if beatNo (afterChanges s) = beatNo s + 1 then afterChanges s
      else { afterChanges s with tt := { (afterChanges s).tt with jump := some ((afterChanges s).tt.beats, beatNo s) } } := rfl

theorem boundaryOf_le (T : TimeSt) : boundaryOf T ≤ lastBeat := Nat.min_le_right ..

theorem Still.now_eq {n : Nat} (h : Still { T with now := n } s) : s.tt.now = n := h.now

/-! ## What waits for the boundary -/

/-- A load moves the count to its value. -/
theorem now_applyChange_load (v : Nat) (s : State) : (applyChange s (true, v)).tt.now = v % 2 ^ 64 := rfl

/-- A step within the range of the count adds to it. -/
theorem now_applyChange_step {v : Nat} {s : State} (h : s.tt.now + v ≤ lastBeat) : (applyChange s (false, v)).tt.now = s.tt.now + v := by
  have hpast : decide (lastBeat < s.tt.now + v) = false := decide_eq_false (by omega)
  unfold applyChange
  simp only [hpast, Bool.false_eq_true, if_false, bump_tt, raise_tt]

/-- A step past the range of the count never moves it backward (log 59). -/
theorem now_applyChange_past {v : Nat} {s : State} (h : lastBeat < s.tt.now + v) (hs : s.tt.now ≤ lastBeat) :
    s.tt.now ≤ (applyChange s (false, v)).tt.now ∧ (applyChange s (false, v)).tt.now ≤ lastBeat := by
  have hpast : decide (lastBeat < s.tt.now + v) = true := decide_eq_true h
  have hnow : (applyChange s (false, v)).tt.now = s.tt.now + 64 * ((fresh s).1 % ((lastBeat - s.tt.now) / 64 + 1)) := by
    unfold applyChange
    simp only [hpast, if_true]
    rfl
  have hmod := Nat.mod_lt (fresh s).1 (show 0 < (lastBeat - s.tt.now) / 64 + 1 by omega)
  rw [hnow]
  omega

theorem still_applyChanges (l : List (Bool × Nat)) (h : Still T s) :
    Still { T with now := (l.foldl applyChange s).tt.now } (l.foldl applyChange s) := by
  induction l generalizing s T with
  | nil => exact { h with now := rfl }
  | cons e r ih => exact ih (T := { T with now := (applyChange s e).tt.now }) (still_applyChange e h)

/-! ## The pulse -/

section
variable (h : Still { T with commits := [] } s)
include h

theorem now_atBoundary : (atBoundary s).tt.now = boundaryOf T := by
  show boundaryOf s.tt = boundaryOf T
  unfold boundaryOf
  rw [h.now, h.realigned]

theorem still_atBoundary : Still (timeAtBoundary T) (atBoundary s) where
  now := now_atBoundary h
  beats := congrArg (· + 1) h.beats
  run := h.run
  realigned := rfl
  pend := rfl
  commits := rfl
  waiting := h.waiting
  regInit := h.regInit

/-- The boundary makes the beat's time: the count is what the loads and steps make of it. -/
theorem still_advanceTime : Still { timeAtBoundary T with now := (afterChanges s).tt.now } (advanceTime s) := by
  have hafter := still_applyChanges s.tt.pend (still_atBoundary h)
  rw [advanceTime_eq]
  exact still_ite hafter { hafter with }

/-- With nothing that waits, the count stands at the boundary. -/
theorem now_afterChanges_nil (hp : T.pend = []) : (afterChanges s).tt.now = boundaryOf T := by
  unfold afterChanges
  rw [h.pend, hp]
  exact now_atBoundary h

theorem now_afterChanges_load {v : Nat} (hp : T.pend = [(true, v)]) : (afterChanges s).tt.now = v % 2 ^ 64 := by
  unfold afterChanges
  rw [h.pend, hp]
  exact now_applyChange_load v _

theorem now_afterChanges_step {v : Nat} (hp : T.pend = [(false, v)]) (hv : boundaryOf T + v ≤ lastBeat) :
    (afterChanges s).tt.now = boundaryOf T + v := by
  unfold afterChanges
  rw [h.pend, hp, ← now_atBoundary h]
  exact now_applyChange_step (now_atBoundary h ▸ hv)

theorem now_afterChanges_past {v : Nat} (hp : T.pend = [(false, v)]) (hv : lastBeat < boundaryOf T + v) :
    boundaryOf T ≤ (afterChanges s).tt.now ∧ (afterChanges s).tt.now ≤ lastBeat := by
  unfold afterChanges
  rw [h.pend, hp, ← now_atBoundary h]
  exact now_applyChange_past (now_atBoundary h ▸ hv) (now_atBoundary h ▸ boundaryOf_le T)

end

theorem exec_beat (s : State) : exec .beat s = .next (execBeat s) := rfl

theorem execBeat_running (hrun : s.tt.run = true) : execBeat s = startBeat (advanceTime (endBeat s)) := by
  unfold execBeat
  rw [if_pos hrun]

theorem execBeat_stopped (hrun : s.tt.run = false) : execBeat s = s := by
  unfold execBeat
  rw [if_neg (by rw [hrun]; exact Bool.false_ne_true)]

/-- A beat pulse while Table Time runs: the next boundary, or the load or step that waits for it (R31, R60; log 59). -/
theorem runs_beat (hrun : s.tt.run = true) (hinit : s.boot.regInit = []) (hwait : s.host.waiting = [])
    (htags : ∀ c ∈ s.tt.commits, ∃ n, c.payload = .tag n) : Runs .beat s fun t =>
      t.tt.beats = s.tt.beats + 1 ∧ t.tt.run = true ∧ t.tt.pend = [] ∧ t.tt.commits = [] ∧ t.tt.realigned = false ∧
        (s.tt.pend = [] → t.tt.now = boundaryOf s.tt) ∧ (∀ v, s.tt.pend = [(true, v)] → t.tt.now = v % 2 ^ 64) ∧
        (∀ v, s.tt.pend = [(false, v)] → boundaryOf s.tt + v ≤ lastBeat → t.tt.now = boundaryOf s.tt + v) ∧
        ∀ v, s.tt.pend = [(false, v)] → lastBeat < boundaryOf s.tt + v → boundaryOf s.tt ≤ t.tt.now ∧ t.tt.now ≤ lastBeat := by
  have hend : Still { s.tt with commits := [] } (endBeat s) := still_endBeat htags ⟨rfl, rfl, rfl, rfl, rfl, rfl, hwait, hinit⟩
  have hstart := still_startBeat (still_advanceTime (T := s.tt) hend)
  have hexec : exec .beat s = .next (startBeat (advanceTime (endBeat s))) := by rw [exec_beat, execBeat_running hrun]
  generalize startBeat (advanceTime (endBeat s)) = t at hstart hexec
  refine ⟨t, hexec, hstart.beats, hstart.run.trans hrun, hstart.pend, hstart.commits, hstart.realigned, ?_, ?_, ?_, ?_⟩ <;>
    rw [hstart.now_eq]
  · exact now_afterChanges_nil hend
  · exact fun _ => now_afterChanges_load hend
  · exact fun _ => now_afterChanges_step hend
  · exact fun _ => now_afterChanges_past hend

end Sys2Proof.Machine
end

section
/-! # Crossings (R34, R38): a message commits at its receiver, in order -/
namespace Sys2Proof.Machine

variable {s t : State} {l : List Nat}

/-! ## Counters and nothing else -/

/-- t is s after counts into the registers of a list. -/
structure CountedIn (l : List Nat) (s t : State) : Prop where
  rest : t = { s with regs := t.regs, head := { s.head with counts := t.head.counts } }
  regs : RegsBut l s t

theorem CountedIn.refl (l : List Nat) (s : State) : CountedIn l s s := ⟨rfl, .refl l s⟩

theorem CountedIn.bump (h : CountedIn l s t) {p : Page} {off : Nat} (k : Nat) (m : pageBase p + off ∈ l) : CountedIn l s (bump p off k t) where
  rest := by rw [h.rest]; rfl
  regs := h.regs.bump k m

theorem CountedIn.foldl_bump {β : Type} {page : β → Page} {off k : Nat} {bs : List β} (h : CountedIn l s t)
    (hl : ∀ b ∈ bs, pageBase (page b) + off ∈ l) : CountedIn l s (bs.foldl (fun u b => Machine.bump (page b) off k u) t) := by
  induction bs generalizing t with
  | nil => exact h
  | cons b r ih => exact ih (h.bump k (hl b (.head r))) fun c hc => hl c (.tail b hc)

/-- A passage counts flits at its links and routers. -/
theorem countedIn_flitsPass (a b n : Nat) (s : State) : CountedIn (flitRegs a b) s (flitsPass a b n s) := by
  refine CountedIn.foldl_bump (CountedIn.foldl_bump (page := id) (.refl _ s) fun p hp => ?_) fun d hd => ?_
  · exact List.mem_append_left _ (List.mem_map_of_mem hp)
  · exact List.mem_append_right _ (List.mem_map_of_mem hd)

theorem dieRoute_self (a : Nat) : dieRoute a a = [] := if_pos rfl

/-- Within a compute die one router sees the passage. -/
theorem flitsPass_self {a : Nat} (ha : a < 4) (n : Nat) (s : State) : flitsPass a a n s = bump ⟨.mesh, a⟩ Off.NOC_CNT_FLITS n s := by
  unfold flitsPass dieLinks
  have hfilter : [a].filter (fun d => decide (d < 4)) = [a] := List.filter_cons_of_pos (decide_eq_true ha)
  simp only [dieRoute_self, List.zip_nil_right, List.flatMap_nil, List.foldl_nil, hfilter, List.foldl_cons]

/-! ## The order of commits -/

theorem pairwise_insertBy {α : Type} {key : α → Nat} {x : α} {l : List α} (h : l.Pairwise fun a b => key a ≤ key b) :
    (insertBy key x l).Pairwise fun a b => key a ≤ key b := by
  induction l with
  | nil => exact List.pairwise_singleton _ x
  | cons y r ih =>
    obtain ⟨hy, hr⟩ := List.pairwise_cons.mp h
    unfold insertBy
    split
    · next hxy =>
      refine List.pairwise_cons.mpr ⟨fun z hz => ?_, h⟩
      rcases List.mem_cons.mp hz with rfl | hz
      · exact hxy.le
      · exact hxy.le.trans (hy z hz)
    · next hxy =>
      refine List.pairwise_cons.mpr ⟨fun z hz => ?_, ih hr⟩
      rcases mem_insertBy.mp hz with rfl | hz
      · exact Nat.le_of_not_lt hxy
      · exact hy z hz

/-- A message that commits in an order enters the beat's commits there, and its flits are counted; nothing else changes. -/
structure Taken (c : Commit) (s t : State) : Prop where
  rest : t = { s with regs := t.regs, head := { s.head with counts := t.head.counts }, tt := { s.tt with commits := t.tt.commits } }
  regs : RegsBut (flitRegs (islandDie c.src) (islandDie c.dst)) s t
  counted : islandDie c.src = islandDie c.dst → islandDie c.src < 4 → Counted ⟨.mesh, islandDie c.src⟩ Off.NOC_CNT_FLITS 1 s t
  mem : ∀ d, d ∈ t.tt.commits ↔ d = c ∨ d ∈ s.tt.commits
  order : s.tt.commits.Pairwise (fun a b => a.order ≤ b.order) → t.tt.commits.Pairwise fun a b => a.order ≤ b.order

theorem taken_countFlits (c : Commit) (s : State) : Taken c s (countFlits c.src c.dst (commitMsg c s)) := by
  have h := countedIn_flitsPass (islandDie c.src) (islandDie c.dst) 1 (commitMsg c s)
  have hcommits : (countFlits c.src c.dst (commitMsg c s)).tt.commits = insertBy Commit.order c s.tt.commits :=
    (congrArg (·.tt.commits) h.rest).trans rfl
  refine ⟨h.rest.trans ?_, h.regs, fun hdie hlt => ?_, fun d => ?_, fun hs => ?_⟩
  · rw [hcommits]; rfl
  · unfold countFlits
    rw [← hdie, flitsPass_self hlt]
    exact counted_bump ..
  · rw [hcommits]; exact mem_insertBy
  · rw [hcommits]; exact pairwise_insertBy hs

/-! ## The commit of a message -/

/-- The message of a crossing is one that this send beat's holders of the time exchange. -/
structure Crosses (s : State) (src dst stamp : Nat) : Prop where
  usedSrc : islandUsed src = true
  usedDst : islandUsed dst = true
  run : s.tt.run = true
  holdsDst : holdsNumber s dst 0 = true
  holdsSrc : holdsNumber s src (pulsesSince s (sendBeat s stamp)) = true

theorem crosses_of {src dst stamp : Nat} (h : islandUsed src = true ∧ islandUsed dst = true ∧ s.tt.run = true ∧ holdsNumber s dst 0 = true ∧
    holdsNumber s src (pulsesSince s (sendBeat s stamp)) = true) : Crosses s src dst stamp := by
  obtain ⟨hsrc, hdst, hrun, hholdsDst, hholdsSrc⟩ := h
  exact ⟨hsrc, hdst, hrun, hholdsDst, hholdsSrc⟩

section
variable {src dst stamp : Nat} (h : Crosses s src dst stamp)
include h

/-- What a crossing that is exchanged does turns on its due beat and on what the receiver accepts. -/
theorem execCrossingCommit_of_crosses (payload : Payload) : execCrossingCommit src dst stamp payload s =
    if s.tt.firstDue ≤ sendBeat s stamp + crossingBeats src dst ∧ sendBeat s stamp + crossingBeats src dst ≤ beatNo s then
      countFlits src dst (commitMsg ⟨src, dst, (sendBeat s stamp + crossingBeats src dst) * 128 + src, payload, false⟩ s)
    else if relaxed s dst && inTime s src dst (sendBeat s stamp) then countFlits src dst (commitMsg ⟨src, dst, afterAllDue, payload, false⟩ s)
    else s := by
  unfold execCrossingCommit
  dsimp only
  rw [if_neg]
  rw [h.usedSrc, h.usedDst, h.run, h.holdsDst, h.holdsSrc]
  decide

/-- Due in this beat, it commits in the order of its beat and its sender (R34). -/
theorem runs_crossingCommit_onTime (payload : Payload)
    (hdue : s.tt.firstDue ≤ sendBeat s stamp + crossingBeats src dst ∧ sendBeat s stamp + crossingBeats src dst ≤ beatNo s) :
    Runs (.crossingCommit src dst stamp payload) s
      (Taken ⟨src, dst, (sendBeat s stamp + crossingBeats src dst) * 128 + src, payload, false⟩ s) := by
  refine ⟨_, congrArg Host.Outcome.next ((execCrossingCommit_of_crosses h payload).trans (if_pos hdue)), ?_⟩
  exact taken_countFlits _ s

/-- At a relaxed receiver it commits on arrival, after all that is due (R38). -/
theorem runs_crossingCommit_relaxed (payload : Payload)
    (hdue : ¬ (s.tt.firstDue ≤ sendBeat s stamp + crossingBeats src dst ∧ sendBeat s stamp + crossingBeats src dst ≤ beatNo s))
    (hrel : relaxed s dst = true) (hin : inTime s src dst (sendBeat s stamp) = true) :
    Runs (.crossingCommit src dst stamp payload) s (Taken ⟨src, dst, afterAllDue, payload, false⟩ s) := by
  refine ⟨_, congrArg Host.Outcome.next ((execCrossingCommit_of_crosses h payload).trans ((if_neg hdue).trans (if_pos ?_))), ?_⟩
  · rw [hrel, hin]; rfl
  · exact taken_countFlits _ s

/-- One that has been discarded never commits. -/
theorem exec_crossingCommit_discarded (payload : Payload)
    (hdue : ¬ (s.tt.firstDue ≤ sendBeat s stamp + crossingBeats src dst ∧ sendBeat s stamp + crossingBeats src dst ≤ beatNo s))
    (hin : inTime s src dst (sendBeat s stamp) = false) : exec (.crossingCommit src dst stamp payload) s = .next s := by
  refine congrArg Host.Outcome.next ((execCrossingCommit_of_crosses h payload).trans ((if_neg hdue).trans (if_neg ?_)))
  rw [hin, Bool.and_false]
  exact Bool.false_ne_true

end

end Sys2Proof.Machine
end

section
/-! # Late commits and the RTC (R35, R58, R59) -/
namespace Sys2Proof.Machine

variable {s : State}

/-! ## A late commit -/

/-- What a late commit notes, before its record of the hand's history. -/
def lateNoted (s : State) : State :=
  bump pgTT Off.TT_CNT_LATE_COMMIT 1 (raise pgTT Evt.TT_LATE_COMMIT { s with tt := { s.tt with latched := true } })

theorem captured_lateMark (src dst sent : Nat) (s : State) : Captured (lateNoted s) (lateMark src dst sent s) := captured_hhCapture ..

theorem tt_lateMark (src dst sent : Nat) (s : State) : (lateMark src dst sent s).tt = { s.tt with latched := true } := by
  rw [(captured_lateMark src dst sent s).tt_eq]
  unfold lateNoted
  rw [bump_tt, raise_tt]

theorem replayable_lateMark (src dst sent : Nat) (s : State) : replayable (lateMark src dst sent s) = false := by
  unfold replayable
  rw [tt_lateMark]
  rfl

theorem flag_lateMark (src dst sent : Nat) (s : State) : flag (lateMark src dst sent s) pgTT Off.EVT_RAW Evt.TT_LATE_COMMIT = true := by
  rw [(captured_lateMark src dst sent s).flag_eq _ (by decide) (by decide)]
  unfold lateNoted
  rw [flag_congr (reg_bump_ne 1 (by decide))]
  exact flag_raise_same _ _ (by decide) (by decide)

theorem counted_lateMark (src dst sent : Nat) (s : State) : Counted pgTT Off.TT_CNT_LATE_COMMIT 1 s (lateMark src dst sent s) := by
  have hraise : rd (raise pgTT Evt.TT_LATE_COMMIT { s with tt := { s.tt with latched := true } }) pgTT Off.TT_CNT_LATE_COMMIT =
      rd s pgTT Off.TT_CNT_LATE_COMMIT := reg_raise_ne (by decide)
  unfold Counted
  rw [(captured_lateMark src dst sent s).rd_eq (by decide) (by decide)]
  exact (counted_bump ..).trans (by rw [hraise])

theorem regsBut_lateNoted {l : List Nat} (s : State) (he : pageBase pgTT + Off.EVT_RAW ∈ l) (hc : pageBase pgTT + Off.TT_CNT_LATE_COMMIT ∈ l) :
    RegsBut l s (lateNoted s) :=
  (RegsBut.raise (t := { s with tt := { s.tt with latched := true } }) (.of_regs rfl rfl) _ he).bump 1 hc

theorem regsBut_lateMark (src dst sent : Nat) (l : List Nat) (s : State) :
    RegsBut ((pageBase pgTT + Off.EVT_RAW) :: (pageBase pgTT + Off.TT_CNT_LATE_COMMIT) :: hhLost :: l) s (lateMark src dst sent s) :=
  (regsBut_lateNoted s (.head _) (.tail _ (.head _))).trans
    ((captured_lateMark src dst sent s).regsBut (.refl _ _) (.tail _ (.tail _ (.head _))))

/-- The pages of the links and the routers lie above Table Time's page. -/
theorem le_of_mem_flitRegs {a b x : Nat} (h : x ∈ flitRegs a b) : 0x400000 ≤ x := by
  rcases List.mem_append.mp h with h | h
  · obtain ⟨p, hp, rfl⟩ := List.mem_map.mp h
    obtain ⟨k, -, hk⟩ := List.mem_flatMap.mp hp
    have hlink (n : Nat) : 0x400000 ≤ pageBase ⟨.dieLink, n⟩ := by simp only [pageBase, cdBase]; omega
    have hclass : p.cls = .dieLink := by
      rcases List.mem_append.mp hk with hk | hk <;>
        obtain ⟨e, -, rfl⟩ := Option.map_eq_some_iff.mp (Option.mem_toList.mp hk) <;> rfl
    obtain ⟨c, n⟩ := p
    obtain rfl : c = .dieLink := hclass
    exact (hlink n).trans (Nat.le_add_right ..)
  · obtain ⟨d, -, rfl⟩ := List.mem_map.mp h
    simp only [pageBase, cdBase]
    omega

/-- A message that is late past its due beat commits after all, by its sender and send beat, with its event, its counter and the loss of
REPLAYABLE (R35). -/
theorem runs_lateCommit {src dst stamp : Nat} (h : Crosses s src dst stamp) (payload : Payload) (hdie : islandDie src ≠ islandDie dst)
    (hrel : relaxed s dst = false) (hlate : sendBeat s stamp + crossingBeats src dst < beatNo s) (hin : beatNo s ≤ sendBeat s stamp + 192) :
    Runs (.lateCommit src dst stamp payload) s fun t =>
      (⟨src, dst, 2 ^ 80 + src * 2 ^ 64 + sendBeat s stamp, payload, true⟩ : Commit) ∈ t.tt.commits ∧ replayable t = false ∧
        flag t pgTT Off.EVT_RAW Evt.TT_LATE_COMMIT = true ∧ Counted pgTT Off.TT_CNT_LATE_COMMIT 1 s t ∧
        RegsBut ((pageBase pgTT + Off.EVT_RAW) :: (pageBase pgTT + Off.TT_CNT_LATE_COMMIT) :: hhLost ::
          flitRegs (islandDie src) (islandDie dst)) s t := by
  have hexec : execLateCommit src dst stamp payload s = lateMark src dst (sendBeat s stamp)
      (countFlits src dst (commitMsg ⟨src, dst, lateOrder src (sendBeat s stamp), payload, true⟩ s)) := by
    have hne : (islandDie src != islandDie dst) = true := bne_iff_ne.mpr hdie
    have hintime : inTime s src dst (sendBeat s stamp) = true := by
      unfold inTime
      rw [if_neg hdie]
      exact decide_eq_true hin
    unfold execLateCommit
    dsimp only
    rw [h.usedSrc, h.usedDst, h.run, h.holdsDst, h.holdsSrc, hne, hrel, decide_eq_true hlate, hintime]
    rfl
  have htaken := taken_countFlits ⟨src, dst, lateOrder src (sendBeat s stamp), payload, true⟩ s
  generalize countFlits src dst _ = u at hexec htaken
  refine ⟨_, congrArg Host.Outcome.next hexec, ?_, replayable_lateMark .., flag_lateMark .., ?_, ?_⟩
  · rw [tt_lateMark]
    exact (htaken.mem _).mpr (.inl rfl)
  · have hrd : rd u pgTT Off.TT_CNT_LATE_COMMIT = rd s pgTT Off.TT_CNT_LATE_COMMIT :=
      htaken.regs _ fun hm => absurd (le_of_mem_flitRegs hm) (by decide)
    exact (counted_lateMark ..).trans (by rw [hrd])
  · exact (htaken.regs.mono fun x hx => .tail _ (.tail _ (.tail _ hx))).trans (regsBut_lateMark _ _ _ _ u)

end Sys2Proof.Machine
end

section
/-! # The RTC and the realignment (R58, R59) -/
namespace Sys2Proof.Machine

variable {s t : State}

/-! ## What the domains' levels depend on -/

/-- The parts of the state that the power domains' levels depend on. -/
structure LevelsAgree (s t : State) : Prop where
  part : t.part = s.part
  boot : t.boot = s.boot
  pwr : t.pwr = s.pwr
  run : t.tt.run = s.tt.run
  regs : ∀ off, rd t pgPower off = rd s pgPower off

section
variable (h : LevelsAgree s t)
include h

theorem LevelsAgree.fld_eq (off lo w : Nat) : fld t pgPower off lo w = fld s pgPower off lo w := fld_congr (h.regs off)
theorem LevelsAgree.flag_eq (off b : Nat) : flag t pgPower off b = flag s pgPower off b := flag_congr (h.regs off)

theorem LevelsAgree.domFitted_eq (d : Nat) : domFitted t d = domFitted s d := by unfold domFitted; rw [h.part]

theorem LevelsAgree.domLevel_eq (st : Nat) : domLevel t st = domLevel s st := by
  funext d
  unfold domLevel raiseMd raiseCd
  rw [h.domFitted_eq, h.pwr, h.flag_eq]

theorem LevelsAgree.pwrState_eq : pwrState t = pwrState s := h.fld_eq ..

theorem LevelsAgree.awake_eq : awake t = awake s := by unfold awake; rw [h.boot]

theorem LevelsAgree.restoreLevel_eq : restoreLevel t = restoreLevel s := by
  funext d
  unfold restoreLevel
  rw [h.domFitted_eq, h.pwrState_eq, h.domLevel_eq]

theorem LevelsAgree.stepTo_eq : stepTo t = stepTo s := by
  have hclimb : climbReady t = climbReady s := by unfold climbReady; rw [h.pwrState_eq, h.run, h.boot, h.pwr, h.flag_eq]
  have hphase : pwrPhase t = pwrPhase s := h.fld_eq ..
  unfold stepTo
  rw [h.awake_eq, hphase, h.pwrState_eq, hclimb]

theorem LevelsAgree.levelsDue_eq : levelsDue t = levelsDue s := by
  have hrestoring : restoring t = restoring s := h.flag_eq ..
  unfold levelsDue
  simp only [h.stepTo_eq, h.awake_eq, h.pwrState_eq, hrestoring, h.restoreLevel_eq, h.pwr, h.domLevel_eq]

end

/-! ## An edge of the RTC (R58) -/

/-- With nothing to switch and no deal armed, an edge moves the RTC and does nothing else. -/
theorem execRtcEdge_eq (hrun : s.tt.run = false) (hdom : domOn s 0 = true) (hlevels : levelsDue (rtcStep s) = none)
    (hdeals : (rtcStep s).head.deals = []) : execRtcEdge s = rtcStep s := by
  have hswitch : switchTick (rtcStep s) = rtcStep s := by unfold switchTick; rw [hlevels]
  unfold execRtcEdge
  rw [hrun, hdom, hswitch]
  unfold dealsDue
  rw [hdeals]
  rfl

/-- One edge's increment and what is left of a tick, in 1/64 ticks. -/
def rtcAdvance (s : State) : Int := rtcIncrement s + (s.tt.frac : Int)

theorem rtcStep_keeping (hrun : s.tt.run = false) (hdom : domOn s 0 = true) (hkeep : s.tt.keeping = true) : rtcStep s = { s with
    head := { s.head with sets := [], counts := [] }
    tt := { s.tt with
      kept := Nat.min (s.tt.kept + (rtcAdvance s / 64).toNat) lastTick, frac := (rtcAdvance s % 64).toNat, edge := s.tt.kept } } := by
  unfold rtcStep
  rw [hrun, hdom, hkeep]
  rfl

/-- The RTC has taken the main counter over, less than an edge late (log 58). -/
def rtcStarted (s : State) : State :=
  { (fresh s).2 with
    tt := { s.tt with keeping := true, kept := Nat.min (s.tt.now + (fresh s).1 % 30518) lastTick, frac := 0, edge := s.tt.now } }

theorem reg_rtcStarted (s : State) (a : Nat) : reg (rtcStarted s) a = reg s a := reg_of_regs rfl rfl a

theorem kept_rtcStarted (h : s.tt.now + 30518 < 2 ^ 64) : ∃ d < 30518, (rtcStarted s).tt.kept = s.tt.now + d := by
  have hlate : (fresh s).1 % 30518 < 30518 := Nat.mod_lt _ (by omega)
  exact ⟨_, hlate, Nat.min_eq_left (by unfold lastTick; omega)⟩

/-- The first edge sets TT_STATUS bit 1. -/
theorem rtcStep_starting (hrun : s.tt.run = false) (hdom : domOn s 0 = true) (hkeep : s.tt.keeping = false) :
    rtcStep s = setFlag pgTT Off.TT_STATUS 1 true (rtcStarted s) := by
  unfold rtcStep
  rw [hrun, hdom, hkeep]
  rfl

theorem signed_eight_bounds (n : Nat) : -128 ≤ signed 8 n ∧ signed 8 n ≤ 127 := by
  unfold signed
  split <;> omega

/-- The advance is less than 40,000 ticks, and more than none. -/
theorem rtcAdvance_bounds (hfrac : s.tt.frac < 64) : 0 ≤ rtcAdvance s ∧ rtcAdvance s < 64 * 40000 := by
  have := signed_eight_bounds (fld s pgTT Off.TT_RTC_TRIM 0 8)
  unfold rtcAdvance rtcIncrement
  omega

/-- The RTC keeps time: it advances by its increment, in 1/64 ticks. -/
theorem runs_rtcEdge_keeping (hrun : s.tt.run = false) (hdom : domOn s 0 = true) (hkeep : s.tt.keeping = true) (hfrac : s.tt.frac < 64)
    (hkept : s.tt.kept + 40000 < 2 ^ 64) (hdeals : s.head.deals = []) (hlevels : levelsDue s = none) :
    Runs .rtcEdge s fun t =>
      t.tt.frac < 64 ∧
        (64 * t.tt.kept + t.tt.frac : Int) = 64 * s.tt.kept + s.tt.frac + 30517 * 64 + 37 + signed 8 (fld s pgTT Off.TT_RTC_TRIM 0 8) ∧
        RegsBut [] s t := by
  have hstep := rtcStep_keeping hrun hdom hkeep
  have hagree : LevelsAgree s (rtcStep s) := by rw [hstep]; exact ⟨rfl, rfl, rfl, rfl, fun _ => rfl⟩
  have hexec := execRtcEdge_eq hrun hdom (hagree.levelsDue_eq.trans hlevels) (by rw [hstep]; exact hdeals)
  obtain ⟨hpos, hlt⟩ := rtcAdvance_bounds hfrac
  have hmin : Nat.min (s.tt.kept + (rtcAdvance s / 64).toNat) lastTick = s.tt.kept + (rtcAdvance s / 64).toNat :=
    Nat.min_eq_left (by unfold lastTick; omega)
  have hadvance : rtcAdvance s = s.tt.frac + 30517 * 64 + 37 + signed 8 (fld s pgTT Off.TT_RTC_TRIM 0 8) := by
    unfold rtcAdvance rtcIncrement; omega
  rw [hmin] at hstep
  refine ⟨rtcStep s, congrArg Host.Outcome.next hexec, ?_, ?_, ?_⟩ <;> rw [hstep]
  · show (rtcAdvance s % 64).toNat < 64
    omega
  · show 64 * ((s.tt.kept + (rtcAdvance s / 64).toNat : Nat) : Int) + ((rtcAdvance s % 64).toNat : Int) = _
    omega
  · exact fun _ _ => rfl

/-- The power page lies above TT_STATUS. -/
theorem power_addr_ne_status (off : Nat) : pageBase pgPower + off ≠ pageBase pgTT + Off.TT_STATUS := by
  simp only [pageBase, pgPower, pgTT, Off.TT_STATUS]
  omega

/-- The RTC begins to keep time from the main counter. -/
theorem runs_rtcEdge_starting (hrun : s.tt.run = false) (hdom : domOn s 0 = true) (hkeep : s.tt.keeping = false)
    (hnow : s.tt.now + 30518 < 2 ^ 64) (hdeals : s.head.deals = []) (hlevels : levelsDue s = none) :
    Runs .rtcEdge s fun t =>
      t.tt.keeping = true ∧ t.tt.frac = 0 ∧ (∃ d < 30518, t.tt.kept = s.tt.now + d) ∧ flag t pgTT Off.TT_STATUS 1 = true ∧
        RegsBut [pageBase pgTT + Off.TT_STATUS] s t := by
  have hstep := rtcStep_starting hrun hdom hkeep
  have hagree : LevelsAgree s (rtcStep s) := by
    rw [hstep]
    refine ⟨?_, ?_, ?_, ?_, fun off => (reg_setFlag_ne 1 true (power_addr_ne_status off)).trans (reg_rtcStarted s _)⟩
    · rw [setFlag_part]; rfl
    · rw [setFlag_boot]; rfl
    · rw [setFlag_pwr]; rfl
    · rw [setFlag_tt]; rfl
  have hexec := execRtcEdge_eq hrun hdom (hagree.levelsDue_eq.trans hlevels) (by rw [hstep, setFlag_head]; exact hdeals)
  have hregs : RegsBut [pageBase pgTT + Off.TT_STATUS] s (rtcStarted s) := fun a _ => reg_rtcStarted s a
  rw [hstep] at hexec
  refine ⟨_, congrArg Host.Outcome.next hexec, ?_, ?_, ?_, flag_setFlag_same _ _ _ _ (by decide), hregs.setFlag 1 true (.head _)⟩ <;>
    rw [setFlag_tt]
  · rfl
  · rfl
  · exact kept_rtcStarted hnow

/-! ## Measurement and realignment -/

theorem wr_rest (p : Page) (off : Nat) (v : Word) (s : State) : wr p off v s = { s with regs := (wr p off v s).regs } := rfl

/-- TT_RTC_MEAS shows a measurement. -/
theorem runs_rtcMeasurement (ticks : Nat) (hrun : s.tt.run = true) : Runs (.rtcMeasurement ticks) s fun t =>
    rd t pgTT Off.TT_RTC_MEAS = BitVec.ofNat 32 ticks ∧ t = { s with regs := t.regs } ∧ RegsBut [pageBase pgTT + Off.TT_RTC_MEAS] s t := by
  have hexec : execRtcMeasurement ticks s = wr pgTT Off.TT_RTC_MEAS (BitVec.ofNat 32 ticks) s := by unfold execRtcMeasurement; rw [if_pos hrun]
  refine ⟨_, congrArg Host.Outcome.next hexec, rd_wr_same .., wr_rest .., (RegsBut.refl _ s).wr _ (.head _)⟩

/-- The RTC's count comes back into the main counter, which runs again (R59). -/
def realigned (s : State) : State :=
  { s with tt := { s.tt with now := s.tt.kept, frac := 0, keeping := false, run := true, realigned := true, locking := false } }

theorem runs_anteRealign (hkeep : s.tt.keeping = true) (hrun : s.tt.run = false) (hlock : s.tt.locking = true) :
    Runs .anteRealign s fun t =>
      t.tt = (realigned s).tt ∧ flag t pgTT Off.TT_STATUS 0 = true ∧ flag t pgTT Off.TT_STATUS 1 = false ∧
        flag t pgTT Off.EVT_RAW Evt.TT_ANTE_REALIGN = true ∧
        RegsBut [pageBase pgTT + Off.TT_STATUS, pageBase pgTT + Off.EVT_RAW] s t := by
  have hexec : execAnteRealign s =
      raise pgTT Evt.TT_ANTE_REALIGN (setFlag pgTT Off.TT_STATUS 1 false (setFlag pgTT Off.TT_STATUS 0 true (realigned s))) := by
    unfold execAnteRealign
    rw [hkeep, hrun, hlock]
    rfl
  have hstatus (u : State) (b : Nat) : flag (raise pgTT Evt.TT_ANTE_REALIGN u) pgTT Off.TT_STATUS b = flag u pgTT Off.TT_STATUS b :=
    flag_congr (reg_raise_ne (by decide))
  refine ⟨_, congrArg Host.Outcome.next hexec, ?_, ?_, ?_, ?_, ?_⟩
  · rw [raise_tt]; rfl
  · rw [hstatus, flag_setFlag_ne _ _ (by decide) (by decide)]
    exact flag_setFlag_same _ _ _ _ (by decide)
  · rw [hstatus]
    exact flag_setFlag_same _ _ _ _ (by decide)
  · exact flag_raise_same _ _ (by decide) (by decide)
  · have hs : RegsBut [pageBase pgTT + Off.TT_STATUS, pageBase pgTT + Off.EVT_RAW] s (realigned s) := .of_regs rfl rfl
    exact ((hs.setFlag 0 true (.head _)).setFlag 1 false (.head _)).raise _ (.tail _ (.head _))

/-! ## The obligation -/

/-- Settles O11: a beat by `Still`, which what ends and begins a beat keeps; a crossing by its due beat and what its receiver accepts. -/
theorem timeKept : Obligations.TimeKept := by
  unfold Obligations.TimeKept
  refine ⟨fun s => runs_beat, fun s hrun => ?_, ?_, ?_, ?_, ?_, fun s => runs_rtcEdge_keeping, fun s => runs_rtcEdge_starting,
    fun s => runs_rtcMeasurement, fun s => runs_anteRealign⟩
  · rw [exec_beat, execBeat_stopped hrun]
  · intro s src dst stamp payload h hdue
    obtain ⟨t, hexec, ht⟩ := runs_crossingCommit_onTime (crosses_of h) payload hdue
    exact ⟨t, hexec, ht.rest, ht.regs, ht.counted, ht.mem, ht.order⟩
  · intro s src dst stamp payload h hdue hrel hin
    obtain ⟨t, hexec, ht⟩ := runs_crossingCommit_relaxed (crosses_of h) payload hdue hrel hin
    exact ⟨t, hexec, ht.rest, ht.regs, ht.counted, ht.mem, ht.order⟩
  · intro s src dst stamp payload h hdue hin
    exact exec_crossingCommit_discarded (crosses_of h) payload hdue hin
  · intro s src dst stamp payload h hdie hrel hlate hin
    exact runs_lateCommit (crosses_of h) payload hdie hrel hlate hin

end Sys2Proof.Machine
end

section
/-! # Every command answers a next state and keeps the parts of the state that are not listed for it -/
namespace Sys2Proof.Machine

/-- Every part that a mask names stands in a list. -/
def covers (l : List Comp) (M : Nat) : Bool := Comp.all.all fun c => l.contains c || !M.testBit c.bit

theorem Comp.mem_all (c : Comp) : c ∈ Comp.all := by cases c <;> decide

/-- A part outside a list that covers a mask is none that the mask names. -/
theorem testBit_of_covers {l : List Comp} {M : Nat} (h : covers l M = true) {c : Comp} (hc : c ∉ l) : M.testBit c.bit = false := by
  have hbit := List.all_eq_true.mp h c c.mem_all
  simpa [hc] using hbit

/-- A command answers what its meaning gives, and keeps the parts outside the mask that its meaning keeps. -/
theorem keepsExec {i : Instr} {s t : State} {M : Nat} (hi : exec i s = .next t) (hk : ∀ {N : Nat}, Within M N → Keeps N s t)
    (hc : covers (touches i) M = true) : ∃ t M, exec i s = .next t ∧ Keeps M s t ∧ covers (touches i) M = true :=
  ⟨t, M, hi, hk (Nat.or_self M), hc⟩

/-- Each command has the meaning of its own that it names, and the parts which that meaning may change are among those listed for it. -/
theorem keeps_exec (i : Instr) (s : State) : ∃ t M, exec i s = .next t ∧ Keeps M s t ∧ covers (touches i) M = true := by
  cases i with
  | wholeDeviceReset powerOn => exact keepsExec rfl (fun hN => keeps_execWholeDeviceReset hN powerOn s (.refl _ s)) rfl
  | powerGoodRise r => exact keepsExec rfl (fun hN => keeps_execPowerGoodRise hN r s (.refl _ s)) rfl
  | perstDeassert => exact keepsExec rfl (fun hN => keeps_execPerstDeassert hN s (.refl _ s)) rfl
  | linkTrained width speed laneFail => exact keepsExec rfl (fun hN => keeps_execLinkTrained hN width speed laneFail s (.refl _ s)) rfl
  | powerGoodFailure r => exact keepsExec rfl (fun hN => keeps_execPowerGoodFailure hN r s (.refl _ s)) rfl
  | diesReady => exact keepsExec rfl (fun hN => keeps_execDiesReady hN s (.refl _ s)) rfl
  | serviceReady => exact keepsExec rfl (fun hN => keeps_execServiceReady hN s (.refl _ s)) rfl
  | deckBegin w => exact keepsExec rfl (fun hN => keeps_execDeckBegin hN w s (.refl _ s)) rfl
  | stagingWrite off data => exact keepsExec rfl (fun hN => keeps_execStagingWrite hN off data s (.refl _ s)) rfl
  | deckChunk w h => exact keepsExec rfl (fun hN => keeps_execDeckChunk hN w h s (.refl _ s)) rfl
  | deckDma w h list => exact keepsExec rfl (fun hN => keeps_execDeckDma hN w h list s (.refl _ s)) rfl
  | deckDmaCompletion h ans => exact keepsExec rfl (fun hN => keeps_execDeckDmaCompletion hN h ans s (.refl _ s)) rfl
  | deckFinish w h => exact keepsExec rfl (fun hN => keeps_execDeckFinish hN w h s (.refl _ s)) rfl
  | deckAbort w h => exact keepsExec rfl (fun hN => keeps_execDeckAbort hN w h s (.refl _ s)) rfl
  | svnCommit w => exact keepsExec rfl (fun hN => keeps_execSvnCommit hN w s (.refl _ s)) rfl
  | modelUnload w => exact keepsExec rfl (fun hN => keeps_execModelUnload hN w s (.refl _ s)) rfl
  | restoreDone => exact keepsExec rfl (fun hN => keeps_execRestoreDone hN s (.refl _ s)) rfl
  | beat => exact keepsExec rfl (fun hN => keeps_execBeat hN s (.refl _ s)) rfl
  | crossingCommit src dst stamp payload =>
    exact keepsExec rfl (fun hN => keeps_execCrossingCommit hN src dst stamp payload s (.refl _ s)) rfl
  | lateCommit src dst stamp payload => exact keepsExec rfl (fun hN => keeps_execLateCommit hN src dst stamp payload s (.refl _ s)) rfl
  | rtcEdge => exact keepsExec rfl (fun hN => keeps_execRtcEdge hN s (.refl _ s)) rfl
  | rtcMeasurement ticks => exact keepsExec rfl (fun hN => keeps_execRtcMeasurement hN ticks s (.refl _ s)) rfl
  | anteRealign => exact keepsExec rfl (fun hN => keeps_execAnteRealign hN s (.refl _ s)) rfl
  | load w disciplined => exact keepsExec rfl (fun hN => keeps_execLoad hN w disciplined s (.refl _ s)) rfl
  | step w disciplined => exact keepsExec rfl (fun hN => keeps_execStep hN w disciplined s (.refl _ s)) rfl
  | rateAdjustment w v => exact keepsExec rfl (fun hN => keeps_execRateAdjustment hN w v s (.refl _ s)) rfl
  | ttNowRead w => exact keepsExec rfl (fun hN => keeps_execTtNowRead hN w s (.refl _ s)) rfl
  | relaxMaskWrite w k v => exact keepsExec rfl (fun hN => keeps_execRelaxMaskWrite hN w k v s (.refl _ s)) rfl
  | dealArm w p latePolicy action period =>
    exact keepsExec rfl (fun hN => keeps_execDealArm hN w p latePolicy action period s (.refl _ s)) rfl
  | cancel w p => exact keepsExec rfl (fun hN => keeps_execCancel hN w p s (.refl _ s)) rfl
  | dealLaunch p => exact keepsExec rfl (fun hN => keeps_execDealLaunch hN p s (.refl _ s)) rfl
  | counterSnapshot p => exact keepsExec rfl (fun hN => keeps_execCounterSnapshot hN p s (.refl _ s)) rfl
  | enable w p on => exact keepsExec rfl (fun hN => keeps_execEnable hN w p on s (.refl _ s)) rfl
  | softReset w p => exact keepsExec rfl (fun hN => keeps_execSoftReset hN w p s (.refl _ s)) rfl
  | expert w p => exact keepsExec rfl (fun hN => keeps_execExpert hN w p s (.refl _ s)) rfl
  | expertClear w p => exact keepsExec rfl (fun hN => keeps_execExpertClear hN w p s (.refl _ s)) rfl
  | cntClear w p => exact keepsExec rfl (fun hN => keeps_execCntClear hN w p s (.refl _ s)) rfl
  | evtRawWrite w p v => exact keepsExec rfl (fun hN => keeps_execEvtRawWrite hN w p v s (.refl _ s)) rfl
  | evtForce w p v => exact keepsExec rfl (fun hN => keeps_execEvtForce hN w p v s (.refl _ s)) rfl
  | evtEnWrite w p v => exact keepsExec rfl (fun hN => keeps_execEvtEnWrite hN w p v s (.refl _ s)) rfl
  | evtRouteWrite w p v => exact keepsExec rfl (fun hN => keeps_execEvtRouteWrite hN w p v s (.refl _ s)) rfl
  | fence w p drain => exact keepsExec rfl (fun hN => keeps_execFence hN w p drain s (.refl _ s)) rfl
  | release w p drain => exact keepsExec rfl (fun hN => keeps_execRelease hN w p drain s (.refl _ s)) rfl
  | cmdTimeout p id => exact keepsExec rfl (fun hN => keeps_execCmdTimeout hN p id s (.refl _ s)) rfl
  | registerWrite w a vs list => exact keepsExec rfl (fun hN => keeps_execRegisterWrite hN w a vs list s (.refl _ s)) rfl
  | misalignedAccess w write a => exact keepsExec rfl (fun hN => keeps_execMisalignedAccess hN w write a s (.refl _ s)) rfl
  | pwrCmdGo w target => exact keepsExec rfl (fun hN => keeps_execPwrCmdGo hN w target s (.refl _ s)) rfl
  | holdEnd => exact keepsExec rfl (fun hN => keeps_execHoldEnd hN s (.refl _ s)) rfl
  | holdExpired => exact keepsExec rfl (fun hN => keeps_execHoldExpired hN s (.refl _ s)) rfl
  | quiesceEnd => exact keepsExec rfl (fun hN => keeps_execQuiesceEnd hN s (.refl _ s)) rfl
  | quiesceTimeout => exact keepsExec rfl (fun hN => keeps_execQuiesceTimeout hN s (.refl _ s)) rfl
  | descendStepEnd => exact keepsExec rfl (fun hN => keeps_execDescendStepEnd hN s (.refl _ s)) rfl
  | wakeIn => exact keepsExec rfl (fun hN => keeps_execWakeIn hN s (.refl _ s)) rfl
  | host => exact keepsExec rfl (fun hN => keeps_execHost hN s (.refl _ s)) rfl
  | hostReq w target => exact keepsExec rfl (fun hN => keeps_execHostReq hN w target s (.refl _ s)) rfl
  | wake => exact keepsExec rfl (fun hN => keeps_execWake hN s (.refl _ s)) rfl
  | climbStepEnd => exact keepsExec rfl (fun hN => keeps_execClimbStepEnd hN s (.refl _ s)) rfl
  | dutyWindowStart => exact keepsExec rfl (fun hN => keeps_execDutyWindowStart hN s (.refl _ s)) rfl
  | dutyWindowEnd => exact keepsExec rfl (fun hN => keeps_execDutyWindowEnd hN s (.refl _ s)) rfl
  | brownOutReset => exact keepsExec rfl (fun hN => keeps_execBrownOutReset hN s (.refl _ s)) rfl
  | regulatorModeSwitched => exact keepsExec rfl (fun hN => keeps_execRegulatorModeSwitched hN s (.refl _ s)) rfl
  | audioBlockEnd g formed pcm => exact keepsExec rfl (fun hN => keeps_execAudioBlockEnd hN g formed pcm s (.refl _ s)) rfl
  | resync g => exact keepsExec rfl (fun hN => keeps_execResync hN g s (.refl _ s)) rfl
  | resyncDone g => exact keepsExec rfl (fun hN => keeps_execResyncDone hN g s (.refl _ s)) rfl
  | bankSwitch g => exact keepsExec rfl (fun hN => keeps_execBankSwitch hN g s (.refl _ s)) rfl
  | switch w g => exact keepsExec rfl (fun hN => keeps_execSwitch hN w g s (.refl _ s)) rfl
  | callEngineBlock vs => exact keepsExec rfl (fun hN => keeps_execCallEngineBlock hN vs s (.refl _ s)) rfl
  | signOff => exact keepsExec rfl (fun hN => keeps_execSignOff hN s (.refl _ s)) rfl
  | ceRestart w => exact keepsExec rfl (fun hN => keeps_execCeRestart hN w s (.refl _ s)) rfl
  | modelRestarted => exact keepsExec rfl (fun hN => keeps_execModelRestarted hN s (.refl _ s)) rfl
  | ringEnable w on => exact keepsExec rfl (fun hN => keeps_execRingEnable hN w on s (.refl _ s)) rfl
  | relock w enable => exact keepsExec rfl (fun hN => keeps_execRelock hN w enable s (.refl _ s)) rfl
  | unlockLimitExpiry => exact keepsExec rfl (fun hN => keeps_execUnlockLimitExpiry hN s (.refl _ s)) rfl
  | releasePortRead tenant addr => exact keepsExec rfl (fun hN => keeps_execReleasePortRead hN tenant addr s (.refl _ s)) rfl
  | voStart port => exact keepsExec rfl (fun hN => keeps_execVoStart hN port s (.refl _ s)) rfl
  | voStop port => exact keepsExec rfl (fun hN => keeps_execVoStop hN port s (.refl _ s)) rfl
  | voFrame p t => exact keepsExec rfl (fun hN => keeps_execVoFrame hN p t s (.refl _ s)) rfl
  | hsBurst r ok => exact keepsExec rfl (fun hN => keeps_execHsBurst hN r ok s (.refl _ s)) rfl
  | deskew r => exact keepsExec rfl (fun hN => keeps_execDeskew hN r s (.refl _ s)) rfl
  | frameStart r vc ecc no sofTt => exact keepsExec rfl (fun hN => keeps_execFrameStart hN r vc ecc no sofTt s (.refl _ s)) rfl
  | frameEnd r vc ecc eofTt => exact keepsExec rfl (fun hN => keeps_execFrameEnd hN r vc ecc eofTt s (.refl _ s)) rfl
  | lineStart r vc ecc line => exact keepsExec rfl (fun hN => keeps_execLineStart hN r vc ecc line s (.refl _ s)) rfl
  | lineEnd r vc ecc => exact keepsExec rfl (fun hN => keeps_execLineEnd hN r vc ecc s (.refl _ s)) rfl
  | longPacket r vc dt ecc crcOk payload =>
    exact keepsExec rfl (fun hN => keeps_execLongPacket hN r vc dt ecc crcOk payload s (.refl _ s)) rfl
  | genericShortPacket r vc ecc => exact keepsExec rfl (fun hN => keeps_execGenericShortPacket hN r vc ecc s (.refl _ s)) rfl
  | frameTimeout r k => exact keepsExec rfl (fun hN => keeps_execFrameTimeout hN r k s (.refl _ s)) rfl
  | frameDescriptor r k => exact keepsExec rfl (fun hN => keeps_execFrameDescriptor hN r k s (.refl _ s)) rfl
  | fsync r => exact keepsExec rfl (fun hN => keeps_execFsync hN r s (.refl _ s)) rfl
  | captureStart r => exact keepsExec rfl (fun hN => keeps_execCaptureStart hN r s (.refl _ s)) rfl
  | captureStop r => exact keepsExec rfl (fun hN => keeps_execCaptureStop hN r s (.refl _ s)) rfl
  | vcErrRead w r vc => exact keepsExec rfl (fun hN => keeps_execVcErrRead hN w r vc s (.refl _ s)) rfl
  | sliceStart n => exact keepsExec rfl (fun hN => keeps_execSliceStart hN n s (.refl _ s)) rfl
  | sliceEnd n => exact keepsExec rfl (fun hN => keeps_execSliceEnd hN n s (.refl _ s)) rfl
  | ispTblDataAccess w n v => exact keepsExec rfl (fun hN => keeps_execIspTblDataAccess hN w n v s (.refl _ s)) rfl
  | ispXtblDataAccess w n v => exact keepsExec rfl (fun hN => keeps_execIspXtblDataAccess hN w n v s (.refl _ s)) rfl
  | launchPush w t v => exact keepsExec rfl (fun hN => keeps_execLaunchPush hN w t v s (.refl _ s)) rfl
  | launch t => exact keepsExec rfl (fun hN => keeps_execLaunch hN t s (.refl _ s)) rfl
  | kernelStart t => exact keepsExec rfl (fun hN => keeps_execKernelStart hN t s (.refl _ s)) rfl
  | kernelEnd t pc undefined => exact keepsExec rfl (fun hN => keeps_execKernelEnd hN t pc undefined s (.refl _ s)) rfl
  | matrixInstruction t iss o => exact keepsExec rfl (fun hN => keeps_execMatrixInstruction hN t iss o s (.refl _ s)) rfl
  | vectorOperation t iss o => exact keepsExec rfl (fun hN => keeps_execVectorOperation hN t iss o s (.refl _ s)) rfl
  | requantise t iss o => exact keepsExec rfl (fun hN => keeps_execRequantise hN t iss o s (.refl _ s)) rfl
  | quantise t iss o => exact keepsExec rfl (fun hN => keeps_execQuantise hN t iss o s (.refl _ s)) rfl
  | stateInstruction t iss o => exact keepsExec rfl (fun hN => keeps_execStateInstruction hN t iss o s (.refl _ s)) rfl
  | windowInstruction t iss o => exact keepsExec rfl (fun hN => keeps_execWindowInstruction hN t iss o s (.refl _ s)) rfl
  | set t iss n v => exact keepsExec rfl (fun hN => keeps_execSet hN t iss n v s (.refl _ s)) rfl
  | post t iss u n v => exact keepsExec rfl (fun hN => keeps_execPost hN t iss u n v s (.refl _ s)) rfl
  | wait t iss n v => exact keepsExec rfl (fun hN => keeps_execWait hN t iss n v s (.refl _ s)) rfl
  | haloPostCommit t => exact keepsExec rfl (fun hN => keeps_execHaloPostCommit hN t s (.refl _ s)) rfl
  | remoteRead t u iss walk reg => exact keepsExec rfl (fun hN => keeps_execRemoteRead hN t u iss walk reg s (.refl _ s)) rfl
  | remoteWrite t u iss walk reg => exact keepsExec rfl (fun hN => keeps_execRemoteWrite hN t u iss walk reg s (.refl _ s)) rfl
  | clockRequest w noc k v => exact keepsExec rfl (fun hN => keeps_execClockRequest hN w noc k v s (.refl _ s)) rfl
  | clockChange noc k => exact keepsExec rfl (fun hN => keeps_execClockChange hN noc k s (.refl _ s)) rfl
  | flitCrcFailure die edge m nth => exact keepsExec rfl (fun hN => keeps_execFlitCrcFailure hN die edge m nth s (.refl _ s)) rfl
  | flitDiscard die edge => exact keepsExec rfl (fun hN => keeps_execFlitDiscard hN die edge s (.refl _ s)) rfl
  | eccError site corrected bits => exact keepsExec rfl (fun hN => keeps_execEccError hN site corrected bits s (.refl _ s)) rfl
  | stemJobPush w d v => exact keepsExec rfl (fun hN => keeps_execStemJobPush hN w d v s (.refl _ s)) rfl
  | job d => exact keepsExec rfl (fun hN => keeps_execJob hN d s (.refl _ s)) rfl
  | stemJobStart d => exact keepsExec rfl (fun hN => keeps_execStemJobStart hN d s (.refl _ s)) rfl
  | stemLineCommit n o => exact keepsExec rfl (fun hN => keeps_execStemLineCommit hN n o s (.refl _ s)) rfl
  | stemJobEnd d => exact keepsExec rfl (fun hN => keeps_execStemJobEnd hN d s (.refl _ s)) rfl
  | segmentAllocate w t v => exact keepsExec rfl (fun hN => keeps_execSegmentAllocate hN w t v s (.refl _ s)) rfl
  | segmentRelease w t v => exact keepsExec rfl (fun hN => keeps_execSegmentRelease hN w t v s (.refl _ s)) rfl
  | zeroDone t n => exact keepsExec rfl (fun hN => keeps_execZeroDone hN t n s (.refl _ s)) rfl
  | suTblWrite w t m iss v => exact keepsExec rfl (fun hN => keeps_execSuTblWrite hN w t m iss v s (.refl _ s)) rfl
  | commit w t v => exact keepsExec rfl (fun hN => keeps_execCommit hN w t v s (.refl _ s)) rfl
  | veQpAdjWrite w t n v => exact keepsExec rfl (fun hN => keeps_execVeQpAdjWrite hN w t n v s (.refl _ s)) rfl
  | kittyLookup who dom h => exact keepsExec rfl (fun hN => keeps_execKittyLookup hN who dom h s (.refl _ s)) rfl
  | kittyFillComplete n k host => exact keepsExec rfl (fun hN => keeps_execKittyFillComplete hN n k host s (.refl _ s)) rfl
  | writeBack t => exact keepsExec rfl (fun hN => keeps_execWriteBack hN t s (.refl _ s)) rfl
  | flushAll w n => exact keepsExec rfl (fun hN => keeps_execFlushAll hN w n s (.refl _ s)) rfl
  | flushTenant w n tenant => exact keepsExec rfl (fun hN => keeps_execFlushTenant hN w n tenant s (.refl _ s)) rfl
  | discardTenant w n tenant => exact keepsExec rfl (fun hN => keeps_execDiscardTenant hN w n tenant s (.refl _ s)) rfl
  | patrolScrub n bad => exact keepsExec rfl (fun hN => keeps_execPatrolScrub hN n bad s (.refl _ s)) rfl
  | regionWrite w k v => exact keepsExec rfl (fun hN => keeps_execRegionWrite hN w k v s (.refl _ s)) rfl
  | regionEffect => exact keepsExec rfl (fun hN => keeps_execRegionEffect hN s (.refl _ s)) rfl
  | poolFill q id ans => exact keepsExec rfl (fun hN => keeps_execPoolFill hN q id ans s (.refl _ s)) rfl
  | holdExpiry t => exact keepsExec rfl (fun hN => keeps_execHoldExpiry hN t s (.refl _ s)) rfl
  | writeBackAck t => exact keepsExec rfl (fun hN => keeps_execWriteBackAck hN t s (.refl _ s)) rfl
  | poolFlushDone t => exact keepsExec rfl (fun hN => keeps_execPoolFlushDone hN t s (.refl _ s)) rfl
  | unpinContext w t ctx => exact keepsExec rfl (fun hN => keeps_execUnpinContext hN w t ctx s (.refl _ s)) rfl
  | unpinAll w t => exact keepsExec rfl (fun hN => keeps_execUnpinAll hN w t s (.refl _ s)) rfl
  | flush w t => exact keepsExec rfl (fun hN => keeps_execFlush hN w t s (.refl _ s)) rfl
  | invalidateTenant w t tenant => exact keepsExec rfl (fun hN => keeps_execInvalidateTenant hN w t tenant s (.refl _ s)) rfl
  | arm w q listSpace => exact keepsExec rfl (fun hN => keeps_execArm hN w q listSpace s (.refl _ s)) rfl
  | append w q => exact keepsExec rfl (fun hN => keeps_execAppend hN w q s (.refl _ s)) rfl
  | rearm w q group => exact keepsExec rfl (fun hN => keeps_execRearm hN w q group s (.refl _ s)) rfl
  | resume w q => exact keepsExec rfl (fun hN => keeps_execResume hN w q s (.refl _ s)) rfl
  | stop w q => exact keepsExec rfl (fun hN => keeps_execStop hN w q s (.refl _ s)) rfl
  | transferIssue q list => exact keepsExec rfl (fun hN => keeps_execTransferIssue hN q list s (.refl _ s)) rfl
  | transferComplete q id ans => exact keepsExec rfl (fun hN => keeps_execTransferComplete hN q id ans s (.refl _ s)) rfl
  | queueLaunchSend q => exact keepsExec rfl (fun hN => keeps_execQueueLaunchSend hN q s (.refl _ s)) rfl
  | endNotification q => exact keepsExec rfl (fun hN => keeps_execEndNotification hN q s (.refl _ s)) rfl
  | atsTranslation q granted => exact keepsExec rfl (fun hN => keeps_execAtsTranslation hN q granted s (.refl _ s)) rfl
  | pageRequestResponse q code => exact keepsExec rfl (fun hN => keeps_execPageRequestResponse hN q code s (.refl _ s)) rfl
  | priTimeout q => exact keepsExec rfl (fun hN => keeps_execPriTimeout hN q s (.refl _ s)) rfl
  | putDelivery src list => exact keepsExec rfl (fun hN => keeps_execPutDelivery hN src list s (.refl _ s)) rfl
  | multicastPut q data list => exact keepsExec rfl (fun hN => keeps_execMulticastPut hN q data list s (.refl _ s)) rfl
  | multicastAck q t => exact keepsExec rfl (fun hN => keeps_execMulticastAck hN q t s (.refl _ s)) rfl
  | fold q => exact keepsExec rfl (fun hN => keeps_execFold hN q s (.refl _ s)) rfl
  | pfFlr => exact keepsExec rfl (fun hN => keeps_execPfFlr hN s (.refl _ s)) rfl
  | vfFlr t => exact keepsExec rfl (fun hN => keeps_execVfFlr hN t s (.refl _ s)) rfl
  | flrTimeout c => exact keepsExec rfl (fun hN => keeps_execFlrTimeout hN c s (.refl _ s)) rfl
  | d3hotEntry fn => exact keepsExec rfl (fun hN => keeps_execD3hotEntry hN fn s (.refl _ s)) rfl
  | msixUnmask fn vector mask => exact keepsExec rfl (fun hN => keeps_execMsixUnmask hN fn vector mask s (.refl _ s)) rfl
  | invalidateRequest fn pasid a n => exact keepsExec rfl (fun hN => keeps_execInvalidateRequest hN fn pasid a n s (.refl _ s)) rfl
  | create w c => exact keepsExec rfl (fun hN => keeps_execCreate hN w c s (.refl _ s)) rfl
  | bind w c slot => exact keepsExec rfl (fun hN => keeps_execBind hN w c slot s (.refl _ s)) rfl
  | bindComplete slot => exact keepsExec rfl (fun hN => keeps_execBindComplete hN slot s (.refl _ s)) rfl
  | unbind w c => exact keepsExec rfl (fun hN => keeps_execUnbind hN w c s (.refl _ s)) rfl
  | destroy w c => exact keepsExec rfl (fun hN => keeps_execDestroy hN w c s (.refl _ s)) rfl
  | destroyComplete c => exact keepsExec rfl (fun hN => keeps_execDestroyComplete hN c s (.refl _ s)) rfl
  | svcRingEnable w c v => exact keepsExec rfl (fun hN => keeps_execSvcRingEnable hN w c v s (.refl _ s)) rfl
  | h2dTailWrite w c v => exact keepsExec rfl (fun hN => keeps_execH2dTailWrite hN w c v s (.refl _ s)) rfl
  | applianceEvent c cell => exact keepsExec rfl (fun hN => keeps_execApplianceEvent hN c cell s (.refl _ s)) rfl
  | confirm c cell => exact keepsExec rfl (fun hN => keeps_execConfirm hN c cell s (.refl _ s)) rfl
  | say c cell => exact keepsExec rfl (fun hN => keeps_execSay hN c cell s (.refl _ s)) rfl
  | query c cell => exact keepsExec rfl (fun hN => keeps_execQuery hN c cell s (.refl _ s)) rfl
  | d2hHeadWrite w c v => exact keepsExec rfl (fun hN => keeps_execD2hHeadWrite hN w c v s (.refl _ s)) rfl
  | intent t urgent reply corr id verb target confidence seat params =>
    exact keepsExec rfl (fun hN => keeps_execIntent hN t urgent reply corr id verb target confidence seat params s (.refl _ s)) rfl
  | status t code a0 a1 urgent => exact keepsExec rfl (fun hN => keeps_execStatus hN t code a0 a1 urgent s (.refl _ s)) rfl
  | event code a0 a1 urgent => exact keepsExec rfl (fun hN => keeps_execEvent hN code a0 a1 urgent s (.refl _ s)) rfl
  | doeDiscovery fn => exact keepsExec rfl (fun hN => keeps_execDoeDiscovery hN fn s (.refl _ s)) rfl
  | getVersion fn => exact keepsExec rfl (fun hN => keeps_execGetVersion hN fn s (.refl _ s)) rfl
  | getCapabilities fn => exact keepsExec rfl (fun hN => keeps_execGetCapabilities hN fn s (.refl _ s)) rfl
  | negotiateAlgorithms fn offers => exact keepsExec rfl (fun hN => keeps_execNegotiateAlgorithms hN fn offers s (.refl _ s)) rfl
  | getDigests fn => exact keepsExec rfl (fun hN => keeps_execGetDigests hN fn s (.refl _ s)) rfl
  | getCertificate fn slot off len => exact keepsExec rfl (fun hN => keeps_execGetCertificate hN fn slot off len s (.refl _ s)) rfl
  | challenge fn slot all => exact keepsExec rfl (fun hN => keeps_execChallenge hN fn slot all s (.refl _ s)) rfl
  | getMeasurements fn index signed => exact keepsExec rfl (fun hN => keeps_execGetMeasurements hN fn index signed s (.refl _ s)) rfl
  | keyExchange fn slot id => exact keepsExec rfl (fun hN => keeps_execKeyExchange hN fn slot id s (.refl _ s)) rfl
  | finish fn id => exact keepsExec rfl (fun hN => keeps_execFinish hN fn id s (.refl _ s)) rfl
  | heartbeat fn id => exact keepsExec rfl (fun hN => keeps_execHeartbeat hN fn id s (.refl _ s)) rfl
  | keyUpdate fn id => exact keepsExec rfl (fun hN => keeps_execKeyUpdate hN fn id s (.refl _ s)) rfl
  | endSession fn id => exact keepsExec rfl (fun hN => keeps_execEndSession hN fn id s (.refl _ s)) rfl
  | sessionTimeout fn id => exact keepsExec rfl (fun hN => keeps_execSessionTimeout hN fn id s (.refl _ s)) rfl
  | ideKmQuery id => exact keepsExec rfl (fun hN => keeps_execIdeKmQuery hN id s (.refl _ s)) rfl
  | keyProg id stream set dir => exact keepsExec rfl (fun hN => keeps_execKeyProg hN id stream set dir s (.refl _ s)) rfl
  | kSetGo id stream set dir => exact keepsExec rfl (fun hN => keeps_execKSetGo hN id stream set dir s (.refl _ s)) rfl
  | kSetStop id stream set dir => exact keepsExec rfl (fun hN => keeps_execKSetStop hN id stream set dir s (.refl _ s)) rfl
  | integrityFailure stream => exact keepsExec rfl (fun hN => keeps_execIntegrityFailure hN stream s (.refl _ s)) rfl
  | getTdispVersion t id => exact keepsExec rfl (fun hN => keeps_execGetTdispVersion hN t id s (.refl _ s)) rfl
  | getTdispCapabilities t id => exact keepsExec rfl (fun hN => keeps_execGetTdispCapabilities hN t id s (.refl _ s)) rfl
  | lockInterfaceRequest t id => exact keepsExec rfl (fun hN => keeps_execLockInterfaceRequest hN t id s (.refl _ s)) rfl
  | getDeviceInterfaceReport t id => exact keepsExec rfl (fun hN => keeps_execGetDeviceInterfaceReport hN t id s (.refl _ s)) rfl
  | getDeviceInterfaceState t id => exact keepsExec rfl (fun hN => keeps_execGetDeviceInterfaceState hN t id s (.refl _ s)) rfl
  | startInterfaceRequest t id => exact keepsExec rfl (fun hN => keeps_execStartInterfaceRequest hN t id s (.refl _ s)) rfl
  | stopInterfaceRequest t id => exact keepsExec rfl (fun hN => keeps_execStopInterfaceRequest hN t id s (.refl _ s)) rfl
  | keyDeliver t id k kind reserved key =>
    exact keepsExec rfl (fun hN => keeps_execKeyDeliver hN t id k kind reserved key s (.refl _ s)) rfl
  | keyErase t id k reserved => exact keepsExec rfl (fun hN => keeps_execKeyErase hN t id k reserved s (.refl _ s)) rfl
  | slotQuery t id => exact keepsExec rfl (fun hN => keeps_execSlotQuery hN t id s (.refl _ s)) rfl
  | assign w k t kind => exact keepsExec rfl (fun hN => keeps_execAssign hN w k t kind s (.refl _ s)) rfl
  | retire w k => exact keepsExec rfl (fun hN => keeps_execRetire hN w k s (.refl _ s)) rfl
  | erasureConfirmed k => exact keepsExec rfl (fun hN => keeps_execErasureConfirmed hN k s (.refl _ s)) rfl
  | expertGrantWrite w k v => exact keepsExec rfl (fun hN => keeps_execExpertGrantWrite hN w k v s (.refl _ s)) rfl
  | deny w v => exact keepsExec rfl (fun hN => keeps_execDeny hN w v s (.refl _ s)) rfl
  | fixedDealEnable w v => exact keepsExec rfl (fun hN => keeps_execFixedDealEnable hN w v s (.refl _ s)) rfl
  | hello f => exact keepsExec rfl (fun hN => keeps_execHello hN f s (.refl _ s)) rfl
  | leave f => exact keepsExec rfl (fun hN => keeps_execLeave hN f s (.refl _ s)) rfl
  | bid f => exact keepsExec rfl (fun hN => keeps_execBid hN f s (.refl _ s)) rfl
  | award f => exact keepsExec rfl (fun hN => keeps_execAward hN f s (.refl _ s)) rfl
  | fetchReq f => exact keepsExec rfl (fun hN => keeps_execFetchReq hN f s (.refl _ s)) rfl
  | fetchData f => exact keepsExec rfl (fun hN => keeps_execFetchData hN f s (.refl _ s)) rfl
  | fetchErr f => exact keepsExec rfl (fun hN => keeps_execFetchErr hN f s (.refl _ s)) rfl
  | lendReq f => exact keepsExec rfl (fun hN => keeps_execLendReq hN f s (.refl _ s)) rfl
  | lendOffer f => exact keepsExec rfl (fun hN => keeps_execLendOffer hN f s (.refl _ s)) rfl
  | lendAccept f => exact keepsExec rfl (fun hN => keeps_execLendAccept hN f s (.refl _ s)) rfl
  | lendData f => exact keepsExec rfl (fun hN => keeps_execLendData hN f s (.refl _ s)) rfl
  | lendEnd f => exact keepsExec rfl (fun hN => keeps_execLendEnd hN f s (.refl _ s)) rfl
  | service f => exact keepsExec rfl (fun hN => keeps_execService hN f s (.refl _ s)) rfl
  | helloTimer free => exact keepsExec rfl (fun hN => keeps_execHelloTimer hN free s (.refl _ s)) rfl
  | membershipTimeout d => exact keepsExec rfl (fun hN => keeps_execMembershipTimeout hN d s (.refl _ s)) rfl
  | roundDecision => exact keepsExec rfl (fun hN => keeps_execRoundDecision hN s (.refl _ s)) rfl
  | awardTimeout => exact keepsExec rfl (fun hN => keeps_execAwardTimeout hN s (.refl _ s)) rfl
  | fetchTimeout corr => exact keepsExec rfl (fun hN => keeps_execFetchTimeout hN corr s (.refl _ s)) rfl
  | join w v => exact keepsExec rfl (fun hN => keeps_execJoin hN w v s (.refl _ s)) rfl
  | svcTxTailWrite w v entries => exact keepsExec rfl (fun hN => keeps_execSvcTxTailWrite hN w v entries s (.refl _ s)) rfl
  | sync port => exact keepsExec rfl (fun hN => keeps_execSync hN port s (.refl _ s)) rfl
  | linkChange port up fec => exact keepsExec rfl (fun hN => keeps_execLinkChange hN port up fec s (.refl _ s)) rfl
  | drainEnd d => exact keepsExec rfl (fun hN => keeps_execDrainEnd hN d s (.refl _ s)) rfl
  | revokeEnd d => exact keepsExec rfl (fun hN => keeps_execRevokeEnd hN d s (.refl _ s)) rfl
  | resetEnd d => exact keepsExec rfl (fun hN => keeps_execResetEnd hN d s (.refl _ s)) rfl
  | reinstalled t => exact keepsExec rfl (fun hN => keeps_execReinstalled hN t s (.refl _ s)) rfl
  | recordDelivery => exact keepsExec rfl (fun hN => keeps_execRecordDelivery hN s (.refl _ s)) rfl
  | ringEn w v => exact keepsExec rfl (fun hN => keeps_execRingEn hN w v s (.refl _ s)) rfl
  | fcRingHeadWrite w v => exact keepsExec rfl (fun hN => keeps_execFcRingHeadWrite hN w v s (.refl _ s)) rfl
  | watchdogKick w v => exact keepsExec rfl (fun hN => keeps_execWatchdogKick hN w v s (.refl _ s)) rfl
  | watchdogFire => exact keepsExec rfl (fun hN => keeps_execWatchdogFire hN s (.refl _ s)) rfl
  | record w => exact keepsExec rfl (fun hN => keeps_execRecord hN w s (.refl _ s)) rfl
  | replay w => exact keepsExec rfl (fun hN => keeps_execReplay hN w s (.refl _ s)) rfl
  | off w => exact keepsExec rfl (fun hN => keeps_execOff hN w s (.refl _ s)) rfl
  | checkpoint w => exact keepsExec rfl (fun hN => keeps_execCheckpoint hN w s (.refl _ s)) rfl
  | checkpointComplete => exact keepsExec rfl (fun hN => keeps_execCheckpointComplete hN s (.refl _ s)) rfl
  | hhMark w v => exact keepsExec rfl (fun hN => keeps_execHhMark hN w v s (.refl _ s)) rfl
  | replayInject host => exact keepsExec rfl (fun hN => keeps_execReplayInject hN host s (.refl _ s)) rfl
  | replayDone host => exact keepsExec rfl (fun hN => keeps_execReplayDone hN host s (.refl _ s)) rfl
  | throttleDecision p => exact keepsExec rfl (fun hN => keeps_execThrottleDecision hN p s (.refl _ s)) rfl
  | tempSensorUpdate k value => exact keepsExec rfl (fun hN => keeps_execTempSensorUpdate hN k value s (.refl _ s)) rfl
  | tripShutdown => exact keepsExec rfl (fun hN => keeps_execTripShutdown hN s (.refl _ s)) rfl
  | avsRetry die => exact keepsExec rfl (fun hN => keeps_execAvsRetry hN die s (.refl _ s)) rfl
  | configurationRequest x => exact keepsExec rfl (fun hN => keeps_execConfigurationRequest hN x s (.refl _ s)) rfl
  | returnToD0 fn => exact keepsExec rfl (fun hN => keeps_execReturnToD0 hN fn s (.refl _ s)) rfl
  | completionTimeout q id => exact keepsExec rfl (fun hN => keeps_execCompletionTimeout hN q id s (.refl _ s)) rfl
  | fsyncPulseEnd r => exact keepsExec rfl (fun hN => keeps_execFsyncPulseEnd hN r s (.refl _ s)) rfl
  | syncInterval => exact keepsExec rfl (fun hN => keeps_execSyncInterval hN s (.refl _ s)) rfl
  | peerDelayMeasurement port m sent => exact keepsExec rfl (fun hN => keeps_execPeerDelayMeasurement hN port m sent s (.refl _ s)) rfl
  | retrain width speed laneFail => exact keepsExec rfl (fun hN => keeps_execRetrain hN width speed laneFail s (.refl _ s)) rfl
  | powerLoss => exact keepsExec rfl (fun hN => keeps_execPowerLoss hN s (.refl _ s)) rfl
  | kittyCmdDone n => exact keepsExec rfl (fun hN => keeps_execKittyCmdDone hN n s (.refl _ s)) rfl
  | addressGeneratorAccess t iss target host o =>
    exact keepsExec rfl (fun hN => keeps_execAddressGeneratorAccess hN t iss target host o s (.refl _ s)) rfl
  | linkUp r up => exact keepsExec rfl (fun hN => keeps_execLinkUp hN r up s (.refl _ s)) rfl

/-- Settles O5: what the meaning of each command keeps (Sys2Proof/Laws/Keeps.lean) covers what is listed for it. -/
theorem commandsTouch : Obligations.CommandsTouch := by
  unfold Obligations.CommandsTouch
  intro i s
  obtain ⟨t, M, ht, hk, hc⟩ := keeps_exec i s
  exact ⟨t, ht, hk.base.queue, fun c hl => hk.same c (testBit_of_covers hc hl)⟩

end Sys2Proof.Machine
end

section
/-! # Writes of the event registers (R87–R89) -/
namespace Sys2Proof.Machine

/-! ## Bits of registers -/

theorem bitAt_eq_testBit (n b : Nat) : bitAt n b = n.testBit b := by
  rw [Nat.testBit_eq_decide_div_mod_eq]
  unfold bitAt bitsAt
  rw [pow_one, beq_eq_decide]

/-- A flag of a register is the bit of its word. -/
theorem flag_eq_getLsbD (s : State) (p : Page) (off b : Nat) : flag s p off b = (rd s p off).getLsbD b := bitOf_eq_getLsbD ..

theorem flag_wr_same {s : State} (p : Page) (off b : Nat) (v : Word) : flag (wr p off v s) p off b = v.getLsbD b := by
  rw [flag_eq_getLsbD, rd_wr_same]

theorem evtTop_lt (p : Page) : evtTop p < 32 := by
  unfold evtTop
  split
  · decide
  · cases p.cls <;> decide

/-! ## The note of a write of EVT_RAW or EVT_EN -/

section
variable (p q : Page) (s : State)

@[simp] theorem rd_noteWritten (off : Nat) : rd (noteWritten p s) q off = rd s q off := by unfold noteWritten; split <;> rfl

theorem mem_noteWritten : pageBase p ∈ (noteWritten p s).head.written := by
  unfold noteWritten
  split
  · next h => exact List.contains_iff_mem.mp h
  · exact List.mem_append_right _ (.head _)

theorem RegsBut.noteWritten {l : List Nat} {t : State} (h : RegsBut l s t) : RegsBut l s (noteWritten p t) :=
  fun a ha => (by unfold Machine.noteWritten; split <;> rfl : reg (Machine.noteWritten p t) a = reg t a).trans (h a ha)

@[simp] theorem withMgmt_written (l : List Nat) : (withMgmt l s).head.written = s.head.written := rfl

end

theorem Captured.sets_eq {s u : State} (h : Captured s u) : u.head.sets = s.head.sets := congrArg (·.head.sets) h.rest

/-! ## EVT_RAW, EVT_FORCE -/

/-- A write of EVT_RAW clears what is written 1 and was not set in this beat. -/
theorem flag_evtRawWrite (p : Page) (v : Word) (s : State) {b : Nat} (hb : b < 32) :
    flag (evtRawWrite p v s) p Off.EVT_RAW b =
      (flag s p Off.EVT_RAW b && !(bitOf v b && !bitAt (sget 0 s.head.sets (pageBase p) % 2 ^ 32) b)) := by
  unfold evtRawWrite
  dsimp only
  rw [flag_eq_getLsbD, rd_noteWritten, ← flag_eq_getLsbD, flag_wr_same, flag_eq_getLsbD, bitOf_eq_getLsbD, bitAt_eq_testBit,
    Nat.testBit_mod_two_pow]
  have hsets : (BitVec.ofNat 32 (sget 0 s.head.sets (pageBase p))).getLsbD b = (sget 0 s.head.sets (pageBase p)).testBit b := by
    rw [BitVec.getLsbD_ofNat, decide_eq_true hb, Bool.true_and]
  rw [BitVec.getLsbD_and, BitVec.getLsbD_not, BitVec.getLsbD_and, BitVec.getLsbD_not, hsets, decide_eq_true hb]
  simp only [Bool.true_and]

theorem regsBut_evtRawWrite (p : Page) (v : Word) (s : State) : RegsBut [pageBase p + Off.EVT_RAW] s (evtRawWrite p v s) :=
  ((RegsBut.refl _ s).wr _ (.head _)).noteWritten p s

/-- EVT_FORCE raises an event for each bit of a list of numbers that is written 1. -/
theorem flag_force (p : Page) (v : Word) {b : Nat} (l : List Nat) (hl : ∀ c ∈ l, c < 32) (hb : b < 32) (s : State) :
    flag (l.foldl (fun s c => if bitOf v c then raise p c s else s) s) p Off.EVT_RAW b =
      (flag s p Off.EVT_RAW b || (decide (b ∈ l) && bitOf v b && decide (b ≤ evtTop p))) := by
  induction l generalizing s with
  | nil => simp
  | cons c r ih =>
    rw [List.foldl_cons, ih fun d hd => hl d (.tail _ hd)]
    have hstep : flag (if bitOf v c then raise p c s else s) p Off.EVT_RAW b =
        (flag s p Off.EVT_RAW b || (decide (b = c) && bitOf v b && decide (b ≤ evtTop p))) := by
      by_cases e : b = c
      · subst e
        cases hv : bitOf v b with
        | false => simp
        | true =>
          by_cases ht : b ≤ evtTop p
          · simp [ht, flag_raise_same p b ht hb]
          · simp [ht, raise]
      · cases bitOf v c with
        | false => simp [e]
        | true => simp [e, flag_raise_ne p (hl c (.head _)) e]
    rw [hstep, Bool.eq_iff_iff]
    simp only [Bool.or_eq_true, Bool.and_eq_true, decide_eq_true_eq, List.mem_cons]
    tauto

theorem flag_evtForceWrite (p : Page) (v : Word) (s : State) {b : Nat} (hb : b < 32) :
    flag (evtForceWrite p v s) p Off.EVT_RAW b = (flag s p Off.EVT_RAW b || (bitOf v b && decide (b ≤ evtTop p))) := by
  unfold evtForceWrite
  rw [flag_force p v _ (fun c hc => List.mem_range.mp hc) hb]
  simp [hb]

theorem regsBut_evtForceWrite (p : Page) (v : Word) (s : State) : RegsBut [pageBase p + Off.EVT_RAW] s (evtForceWrite p v s) := by
  unfold evtForceWrite
  generalize List.range 32 = l
  induction l generalizing s with
  | nil => exact .refl _ s
  | cons c r ih =>
    refine RegsBut.trans ?_ (ih _)
    show RegsBut _ s (if bitOf v c then raise p c s else s)
    split
    · exact (RegsBut.refl _ s).raise c (.head _)
    · exact .refl _ s

/-! ## EVT_ROUTE -/

theorem Captured.vfOwned_eq {s u : State} (h : Captured s u) (p : Page) : vfOwned u p = vfOwned s p := by
  unfold vfOwned ctxExists ctxTenant ctxOf fld
  rw [h.rd_eq (by decide) (by decide), h.host_eq]

/-- The fields of EVT_ROUTE's word: vector, tenant, enables. -/
theorem fields_route {v t e : Nat} (hv : v < 2 ^ 11) (ht : t < 2 ^ 4) (he : e < 2 ^ 2) :
    let x : Word := BitVec.ofNat 32 (v + 2 ^ 16 * t + 2 ^ 20 * e)
    fieldOf x 0 11 = v ∧ fieldOf x 16 4 = t ∧ fieldOf x 20 2 = e := by
  intro x
  have hx : x.toNat = v + 2 ^ 16 * t + 2 ^ 20 * e := Nat.mod_eq_of_lt (by omega)
  unfold fieldOf bitsAt
  rw [hx]
  omega

/-- EVT_ROUTE takes a vector of the tenant that it names. -/
theorem evtRouteWrite_taken {s : State} {p : Page} {v : Word} (w : Func) (howned : vfOwned s p = false)
    (htenant : p.cls ≠ .context → fieldOf v 16 4 = 0) (hvector : fieldOf v 0 11 < vectorsOf (fieldOf v 16 4)) :
    evtRouteWrite w p v s =
      wr p Off.EVT_ROUTE (BitVec.ofNat 32 (fieldOf v 0 11 + 2 ^ 16 * fieldOf v 16 4 + 2 ^ 20 * fieldOf v 20 2)) s := by
  unfold evtRouteWrite
  simp only [howned, Bool.false_eq_true, if_false]
  rw [if_neg]
  rintro (⟨ht, hc⟩ | hlt)
  · exact ht (htenant hc)
  · exact absurd hvector (Nat.not_lt.mpr hlt)

/-- Settles O17: each write is admitted, and its effect on its register is that of the lemma for the register. -/
theorem eventWrites : Obligations.EventWrites := by
  unfold Obligations.EventWrites
  refine ⟨fun s w p v h => ?raw, fun s n p v h => ?forceVf, fun s w p v hw h => ?force, fun s w p v h => ?en,
    fun s w p v h howned htenant hvector => ?route⟩
  case raw =>
    refine runs_of_access rfl h fun u l hu => ⟨fun b hb => ?_, mem_noteWritten p _, ?_⟩
    · rw [flag_withMgmt, flag_evtRawWrite p v u hb, hu.sets_eq, hu.flag_eq b (by decide) (by decide)]
    · exact hu.regsBut (RegsBut.withMgmt l ((regsBut_evtRawWrite p v u).mono (by simp))) (by simp)
  case forceVf =>
    exact runs_of_access rfl h fun u l hu => hu.regsBut (RegsBut.withMgmt l (.refl _ u)) (.head _)
  case force =>
    refine runs_of_access (k := evtForceWrite p v) (v := v) ?_ h fun u l hu => ⟨fun b hb => ?_, ?_⟩
    · cases w with
      | vf n => exact absurd rfl (hw n)
      | pf => rfl
      | mgmt => rfl
      | rot => rfl
    · rw [flag_withMgmt, flag_evtForceWrite p v u hb, hu.flag_eq b (by decide) (by decide)]
    · exact hu.regsBut (RegsBut.withMgmt l ((regsBut_evtForceWrite p v u).mono (by simp))) (by simp)
  case en =>
    refine runs_of_access rfl h fun u l hu => ⟨?_, mem_noteWritten p _, ?_⟩
    · rw [rd_withMgmt]
      exact (rd_noteWritten ..).trans (rd_wr_same ..)
    · exact hu.regsBut (RegsBut.withMgmt l (((RegsBut.refl _ u).wr _ (.head _)).noteWritten p u)) (by simp)
  case route =>
    have hlt (lo w : Nat) : fieldOf v lo w < 2 ^ w := bitsAt_lt ..
    obtain ⟨hvec, hten, hen⟩ := fields_route (hlt 0 11) (hlt 16 4) (hlt 20 2)
    refine runs_of_access rfl h fun u l hu => ?_
    rw [evtRouteWrite_taken w ((hu.vfOwned_eq p).trans howned) htenant hvector]
    refine ⟨?_, ?_, ?_, hu.regsBut (RegsBut.withMgmt l ((RegsBut.refl _ u).wr _ (.head _))) (by simp)⟩
    all_goals rw [fld_withMgmt]; unfold fld; rw [rd_wr_same]; assumption

end Sys2Proof.Machine
end

section
/-! # Accesses that are discarded (R13, R89, R90) -/
namespace Sys2Proof.Machine

/-- Both branches leave the registers outside a list. -/
theorem RegsBut.ite {l : List Nat} {s t u : State} {c : Prop} [Decidable c] (ht : RegsBut l s t) (hu : RegsBut l s u) :
    RegsBut l s (if c then t else u) := by
  split
  · exact ht
  · exact hu

/-! ## What the taking of a fault record does (R531, R534) -/

section
variable (r : FaultRec) (s : State)

/-- The newest record is the one that has been taken, with its time and number. -/
theorem head_formRec : (formRec r s).fc.history.head? = some { r with tt := tnow s, seq := s.fc.seq } := by
  unfold formRec
  dsimp only
  rw [apply_ite State.fc]
  simp only [raise_fc, bump_fc, ite_self]
  rfl

theorem regsBut_formRec : RegsBut recordRegs s (formRec r s) := by
  have hrec (t : State) (ht : RegsBut recordRegs s t) :
      RegsBut recordRegs s (t |> bump pgFc Off.FC_CNT_RECORDS 1 |> raise pgFc Evt.FC_RECORD) :=
    (ht.bump 1 (.head _)).raise _ (.tail _ (.tail _ (.head _)))
  unfold formRec
  dsimp only
  refine RegsBut.ite (RegsBut.raise (RegsBut.bump (hrec _ ?_) 1 (.tail _ (.head _))) _ (.tail _ (.tail _ (.head _)))) (hrec _ ?_) <;>
    exact .of_regs rfl rfl

theorem formRec_host : (formRec r s).host = s.host := (keeps_formRec (N := 0x4a) rfl r s (.refl _ s)).same .host rfl
theorem formRec_out : (formRec r s).out = s.out := (keeps_formRec (N := 0x4a) rfl r s (.refl _ s)).same .out rfl

end

/-! ## An access error: a count and a record (R90) -/

/-- The record of an access error at an address of the PF's. -/
def accessRec (kind : Nat) (w : Func) (a : Nat) : FaultRec :=
  mkRec 1 kind 1 (((pageOf a).map fun p => pageDomain p.1).getD 0xFF) (funcTenant w) (((pageOf a).map fun p => pageIsland p.1).getD 72)
    0xFFFF a (funcCode w)

/-- The record of an access error at an address that stands for none of the PF's. -/
def strayRec (kind : Nat) (w : Func) (a : Nat) : FaultRec :=
  mkRec 1 kind 1 0xFF (funcTenant w) (if w = .mgmt then 78 else 72) 0xFFFF a (funcCode w)

/-- The fault collector counts an access error and takes its record. -/
def accessNoted (r : FaultRec) (s : State) : State := formRec r (bump pgFc Off.FC_CNT_ACCESS 1 s)

theorem accessError_eq (kind : Nat) (w : Func) (a : Nat) (s : State) : accessError kind w a s = accessNoted (accessRec kind w a) s := by
  unfold accessError accessNoted accessRec
  cases pageOf a <;> rfl

theorem strayError_eq (kind : Nat) (w : Func) (a : Nat) (s : State) : strayError kind w a s = accessNoted (strayRec kind w a) s := rfl

section
variable (r : FaultRec) (s : State)

theorem head_accessNoted : (accessNoted r s).fc.history.head? = some { r with tt := tnow s, seq := s.fc.seq } := head_formRec ..

theorem counted_accessNoted : Counted pgFc Off.FC_CNT_ACCESS 1 s (accessNoted r s) := by
  have hrd : rd (accessNoted r s) pgFc Off.FC_CNT_ACCESS = rd (bump pgFc Off.FC_CNT_ACCESS 1 s) pgFc Off.FC_CNT_ACCESS :=
    regsBut_formRec _ _ _ (by decide)
  exact (congrArg BitVec.toNat hrd).trans (counted_bump ..)

theorem regsBut_accessNoted : RegsBut ((pageBase pgFc + Off.FC_CNT_ACCESS) :: recordRegs) s (accessNoted r s) :=
  ((RegsBut.refl _ s).bump 1 (.head _)).trans ((regsBut_formRec _ _).mono fun _ => .tail _)

theorem accessNoted_out : (accessNoted r s).out = s.out := formRec_out ..
theorem accessNoted_host : (accessNoted r s).host = s.host := formRec_host ..

end

/-- What is counted after a capture is counted since before it. -/
theorem Captured.counted {s u t : State} {p : Page} {off k : Nat} (h : Captured s u) (hoff : off < 0x1000) (hne : off ≠ Off.HH_CNT_LOST)
    (hc : Counted p off k u t) : Counted p off k s t := by
  unfold Counted at hc ⊢
  rw [hc, h.rd_eq hoff hne]

theorem Captured.out_eq {s u : State} (h : Captured s u) : u.out = s.out := (congrArg State.out h.rest).trans rfl

/-- A write that a page discards is counted and recorded, once it has been captured. -/
theorem access_error {s : State} {w : Func} {p : Page} {off kind : Nat} (h : reach s w p off = .error kind)
    (hs : suppressed s w p = false) (v : Word) (k : State → State) :
    ∃ u, Captured s u ∧ access w p off v k s = accessNoted (accessRec kind w (pageBase p + off)) u := by
  refine ⟨if seen (.error kind) then recordWrite w p off v s else s, ?_, ?_⟩
  · split
    · exact captured_recordWrite ..
    · exact .refl s
  · unfold access accessWith
    simp only [h, hs, reduceCtorEq, false_and, if_false, Bool.and_false, Bool.false_eq_true, ← accessError_eq]

section
variable {s : State} {w : Func} {p : Page} {off : Nat} (v : Word) (k : State → State)

theorem access_unsupported (h : reach s w p off = .unsupported) : access w p off v k s = emit (.unsupported w) s := by
  unfold access accessWith
  simp [h, seen]

theorem access_ignored (h : reach s w p off = .ignored) : access w p off v k s = s := by
  unfold access accessWith
  simp [h, seen]

theorem access_waits (h : reach s w p off = .waits) : access w p off v k s = hold (.page w p off v []) s := by
  unfold access accessWith
  simp [h, seen]

end

/-! ## Misaligned accesses (R13) -/

/-- The record of a misaligned access. -/
def misalignedRec (s : State) (w : Func) (a : Nat) : FaultRec :=
  ((pfAddr s w a).map (accessRec 1 w)).getD (strayRec 1 w a)

theorem misaligned_eq (s : State) (w : Func) (write : Bool) (a : Nat) :
    misaligned w write a s =
      if write then accessNoted (misalignedRec s w a) s else emit (.readData w a 0) (accessNoted (misalignedRec s w a) s) := by
  unfold misaligned misalignedRec
  cases pfAddr s w a with
  | none => rfl
  | some b => simp only [accessError_eq, Option.map_some, Option.getD_some]

theorem misalignedRec_fields (s : State) (w : Func) (a : Nat) :
    let r := misalignedRec s w a
    (r.source, r.code, r.severity, r.domain) = (1, 1, 1, misalignedAt s w a) ∧
      (r.source, r.code, r.severity, r.addr, r.detail, r.tenant) = (1, 1, 1, (pfAddr s w a).getD a, funcCode w, funcTenant w) := by
  unfold misalignedRec misalignedAt
  cases pfAddr s w a <;> exact ⟨rfl, rfl⟩

theorem linked_ok {s : State} {w : Func} (h : senderLink s w = .ok) (r : HostReq) (k : State → State) : linked w r k s = k s := by
  unfold linked; rw [h]

/-- The misaligned access of a function that may make it. -/
theorem exec_misaligned {s : State} {w : Func} (h : senderLink s w = .ok) (write : Bool) (a : Nat) :
    exec (.misalignedAccess w write a) s =
      .next (if write then accessNoted (misalignedRec s w a) s else emit (.readData w a 0) (accessNoted (misalignedRec s w a) s)) := by
  rw [← misaligned_eq]
  exact congrArg Host.Outcome.next (linked_ok h ..)

/-- Settles O19: each outcome of the access path that is not `ok` has its own lemma or is read off the path. -/
theorem discardedAccesses : Obligations.DiscardedAccesses := by
  unfold Obligations.DiscardedAccesses
  refine ⟨fun s w p v kind h hs => ?error, fun s w p v h => ⟨_, rfl, ?_⟩, fun s w p v h => ⟨_, rfl, ?_⟩, fun s w p v h => ⟨_, rfl, ?_⟩,
    fun s w write a h => ?misaligned, fun s w write a h => ⟨_, rfl, ?_⟩⟩
  case error =>
    obtain ⟨u, hu, e⟩ := access_error h hs v (evtEnWrite p v)
    refine ⟨_, congrArg Host.Outcome.next e, ?_, ?_, ?_, ?_⟩
    · exact hu.counted (by decide) (by decide) (counted_accessNoted ..)
    · exact congrArg _ (head_accessNoted ..)
    · rw [accessNoted_out, hu.out_eq]
    · exact hu.regsBut ((regsBut_accessNoted _ u).mono fun _ => .tail _) (.head _)
  case misaligned =>
    obtain ⟨-, hrec⟩ := misalignedRec_fields s w a
    refine ⟨_, exec_misaligned h write a, ?_⟩
    cases write with
    | true => exact ⟨counted_accessNoted .., (congrArg _ (head_accessNoted ..)).trans (congrArg some hrec), by simp [accessNoted_out],
        accessNoted_host .., regsBut_accessNoted _ _⟩
    | false => exact ⟨counted_accessNoted .., (congrArg _ (head_accessNoted ..)).trans (congrArg some hrec),
        congrArg (· ++ _) (accessNoted_out ..), accessNoted_host .., (regsBut_accessNoted _ _).emit _⟩
  · exact access_unsupported v _ h
  · exact access_ignored v _ h
  · exact access_waits v _ h
  · unfold execMisalignedAccess linked
    rw [h]
    rfl

end Sys2Proof.Machine
end

section
/-! # Writes of CTRL (R76–R84) -/
namespace Sys2Proof.Machine

/-! ## What an admitted write leaves beside the registers -/

/-- An admitted write takes effect on the state in which it has been captured; one of the management cores is noted for the beat. -/
theorem access_recorded {s : State} {w : Func} {p : Page} {off : Nat} (h : Admitted s w p off) (v : Word) (k : State → State) :
    ∃ l, (w = .mgmt → pageBase p + off ∈ l) ∧ access w p off v k s = withMgmt l (k (recordWrite w p off v s)) := by
  rw [access_admitted h]
  by_cases hw : w = .mgmt
  · subst hw
    unfold applied
    rw [if_pos rfl]
    dsimp only
    split
    · next hm => exact ⟨_, fun _ => List.contains_iff_mem.mp hm, rfl⟩
    · exact ⟨_, fun _ => List.mem_append_right _ (.head _), rfl⟩
  · have hmgmt := (captured_recordWrite w p off v s).mgmt_eq
    exact ⟨_, fun e => absurd e hw, applied_eq hw (fun hh => by rw [hmgmt]; exact h.2.2 hh) k⟩

/-- A command that is an admitted write: what its effect gives in the state with its record, the command gives. -/
theorem runs_of_recorded {i : Instr} {s : State} {w : Func} {p : Page} {off : Nat} {v : Word} {k : State → State} {P : State → Prop}
    (hi : exec i s = .next (access w p off v k s)) (h : Admitted s w p off)
    (hP : ∀ l, (w = .mgmt → pageBase p + off ∈ l) → P (withMgmt l (k (recordWrite w p off v s)))) : Runs i s P := by
  obtain ⟨l, hl, e⟩ := access_recorded h v k
  exact ⟨_, by rw [hi, e], hP l hl⟩

/-- The addresses of the hand-history page are those of no other class. -/
theorem pageBase_ne_hh {p : Page} (h : p.cls ≠ .handHistory) {a b : Nat} (ha : a < 0x1000) (hb : b < 0x1000) :
    pageBase p + a ≠ pageBase pgHh + b := by
  have hhh : pageBase pgHh = 0x5000 := rfl
  have hp : pageBase p ≤ 0x4000 ∨ 0x100000 ≤ pageBase p := by
    obtain ⟨c, n⟩ := p
    cases c <;> simp only [pageBase, tileBase, cdBase, mdBase, ne_eq, not_true] at h ⊢ <;> (try split) <;> omega
  omega

theorem sget_sset_ne {α : Type} [DecidableEq α] {d : α} {l : List (Nat × α)} {a b : Nat} (h : b ≠ a) (x : α) :
    sget d (sset d l a x) b = sget d l b := by
  unfold sset
  split
  · rw [sget_sdel, if_neg h]
  · rw [sget_sput, if_neg h]

theorem counts_hhLose (s : State) : (hhLose s).head.counts = sset 0 s.head.counts hhLost (sget 0 s.head.counts hhLost + 1) := rfl

/-- Capturing an input counts in HH_CNT_LOST at most. -/
theorem count_hhInput {a : Nat} (ha : a ≠ hhLost) (kind flags island unit : Nat) (payload : List Byte) (s : State) :
    sget 0 (hhInput kind flags island unit payload s).head.counts a = sget 0 s.head.counts a := by
  have hone (r : HistRec) (s : State) : sget 0 (hhCapture1 r s).head.counts a = sget 0 s.head.counts a := by
    unfold hhCapture1
    split
    · rw [counts_hhLose, sget_sset_ne ha]
    · rfl
  unfold hhInput
  split
  · next hrec =>
    clear hrec
    generalize hhSplit _ _ _ _ _ _ _ _ = l
    induction l generalizing s with
    | nil => rfl
    | cons r l ih => exact (ih (hhCapture1 r s)).trans (hone r s)
  · rfl

theorem count_recordWrite (w : Func) (p : Page) {off off' : Nat} (h : off' < 0x1000) (v : Word) (s : State) :
    sget 0 (recordWrite w p off v s).head.counts (pageBase p + off') = sget 0 s.head.counts (pageBase p + off') := by
  unfold recordWrite
  split
  · rfl
  · next hp => exact count_hhInput (pageBase_ne_hh (fun e => hp (.inl e)) h (by decide)) ..

namespace Captured
variable {s u : State} (h : Captured s u)
include h

theorem part_eq : u.part = s.part := (congrArg State.part h.rest).trans rfl
theorem boot_eq : u.boot = s.boot := (congrArg State.boot h.rest).trans rfl
theorem au_eq : u.au = s.au := (congrArg State.au h.rest).trans rfl
theorem ce_eq : u.ce = s.ce := (congrArg State.ce h.rest).trans rfl
theorem queues_eq : u.queues = s.queues := (congrArg State.queues h.rest).trans rfl
theorem resetting_eq : u.head.resetting = s.head.resetting := congrArg (·.head.resetting) h.rest
theorem busy_eq (p : Page) : busy u p = busy s p := (congrArg (fun t => busy t p) h.rest).trans rfl
theorem regsBut_hhLost : RegsBut [hhLost] s u := h.regsBut (.refl _ u) (.head _)
theorem fld_eq {p : Page} {off : Nat} (lo n : Nat) (hoff : off < 0x1000) (hne : off ≠ Off.HH_CNT_LOST) : fld u p off lo n = fld s p off lo n :=
  fld_congr (h.rd_eq hoff hne)

theorem phaseOf_eq (d : Nat) : phaseOf u d = phaseOf s d := by
  unfold phaseOf
  split
  · exact h.fld_eq 0 3 (by decide) (by decide)
  · rfl

end Captured

/-! ## The word of CTRL -/

/-- The word of CTRL with its bits ENABLE, SOFT_RESET, EXPERT and CNT_CLEAR. -/
def ctrlBits (e r x c : Bool) : Word := BitVec.ofNat 32 (ofBool e + 2 * ofBool r + 4 * ofBool x + 8 * ofBool c)

theorem bitOf_ctrlBits (e r x c : Bool) :
    bitOf (ctrlBits e r x c) 0 = e ∧ bitOf (ctrlBits e r x c) 1 = r ∧ bitOf (ctrlBits e r x c) 2 = x ∧
      bitOf (ctrlBits e r x c) 3 = c := by
  cases e <;> cases r <;> cases x <;> cases c <;> decide

/-- The word of a command that writes CTRL: the bits that it leaves are as they stand. -/
theorem ctrlWord_eq (s : State) (p : Page) {other : Nat} {e x e' r x' c : Bool}
    (h : other + ofBool (e && flag s p Off.CTRL 0) + 4 * ofBool (x && flag s p Off.CTRL 2) =
      ofBool e' + 2 * ofBool r + 4 * ofBool x' + 8 * ofBool c) :
    ctrlWord s p e x other = ctrlBits e' r x' c := by
  have hand (b f : Bool) : (if b then f else false) = (b && f) := by cases b <;> rfl
  unfold ctrlWord ctrlBits
  rw [hand, hand]
  exact congrArg (BitVec.ofNat 32) (by omega)

/-! ## ENABLE -/

/-- CTRL with its bit ENABLE written as it stands. -/
def resaved (p : Page) (s : State) : State := setFlag p Off.CTRL 0 (flag s p Off.CTRL 0) s

/-- A register in which a bit is written as it stands keeps its value. -/
theorem putField_bit_self (v : Word) (b : Nat) : putField v b 1 (ofBool (bitOf v b)) = v := by
  have hbit : ofBool (bitOf v b) = bitsAt v.toNat b 1 := by
    unfold bitOf bitAt
    have : bitsAt v.toNat b 1 < 2 := bitsAt_lt ..
    generalize bitsAt v.toNat b 1 = x at *
    interval_cases x <;> rfl
  unfold putField putAt
  rw [hbit, Nat.mod_eq_of_lt (bitsAt_lt ..), Nat.sub_add_cancel, BitVec.ofNat_toNat, BitVec.setWidth_eq]
  calc bitsAt v.toNat b 1 * 2 ^ b ≤ v.toNat / 2 ^ b * 2 ^ b := Nat.mul_le_mul_right _ (Nat.mod_le _ _)
    _ ≤ v.toNat := Nat.div_mul_le_self _ _

theorem reg_resaved (p : Page) (s : State) (a : Nat) : reg (resaved p s) a = reg s a := by
  unfold resaved setFlag setFld Machine.wr
  rw [reg_setReg]
  split
  · next e => subst e; exact putField_bit_self (rd s p Off.CTRL) 0
  · rfl

theorem regsBut_resaved (l : List Nat) (p : Page) (s : State) : RegsBut l s (resaved p s) := fun a _ => reg_resaved p s a

/-- The Call engine has no block to start on: it does not run, has one under way, or none is written. -/
def CeIdle (s : State) : Prop := s.ce.running = false ∨ busy s pgCe = true ∨ s.au.consume = s.au.writeIdx

theorem ceAccept_idle {s : State} (h : CeIdle s) : ceAccept s = s := by
  unfold ceAccept
  rw [if_neg]
  rcases h with h | h | h <;> simp [h]

/-- A write of CTRL that leaves ENABLE as it stands starts and stops nothing. -/
theorem enableWrite_same {s : State} {p : Page} (h : p.cls = .callEngine → flag s p Off.CTRL 0 = true → CeIdle s) :
    enableWrite p (flag s p Off.CTRL 0) s = resaved p s := by
  have hce : (if (decide (p.cls = .callEngine) && flag s p Off.CTRL 0) = true then ceAccept (resaved p s) else resaved p s) = resaved p s := by
    split
    · next hc =>
      rw [Bool.and_eq_true, decide_eq_true_eq] at hc
      exact ceAccept_idle (h hc.1 hc.2)
    · rfl
  unfold enableWrite
  cases hf : flag s p Off.CTRL 0 <;> simp_all [resaved]

/-- The register that enabling a page changes beside CTRL: WD_HOT of the detectors of a capture group. -/
def enableRegs (p : Page) : List Nat :=
  if p.cls = .pdmIn ∨ p.cls = .beamformer then [pageBase (pgBf p.idx) + Off.WD_HOT] else []

theorem ctrl_not_mem_enableRegs (p : Page) : pageBase p + Off.CTRL ∉ enableRegs p := by
  unfold enableRegs
  split
  · rw [List.mem_singleton]
    exact addr_ne (by decide) (by decide) (by decide)
  · exact List.not_mem_nil

theorem settleQueues_nil {s : State} (h : s.queues = []) (f : Nat → Bool) : settleQueues f s = s := by
  unfold settleQueues; rw [h]; rfl

/-- A write of ENABLE while no queue stands: CTRL takes the bit, and the detectors of a capture group may start again. -/
theorem regsBut_enableWrite {s : State} {p : Page} {on : Bool} (hidle : p.cls = .callEngine → on = true → CeIdle s)
    (hq : on = flag s p Off.CTRL 0 ∨ s.queues = []) : RegsBut (enableRegs p) (setFlag p Off.CTRL 0 on s) (enableWrite p on s) := by
  unfold enableWrite
  extract_lets was s1 x s2 s3 s4 s5
  have h2 : RegsBut (enableRegs p) s1 s2 ∧ s2.queues = s.queues ∧ (CeIdle s → CeIdle s2) := by
    unfold s2; split <;> exact ⟨.of_regs rfl rfl, rfl, id⟩
  have h3 : s3 = s2 := by
    unfold s3
    split
    · next hc =>
      rw [Bool.and_eq_true, decide_eq_true_eq] at hc
      exact ceAccept_idle (h2.2.2 (hidle hc.1 hc.2))
    · rfl
  have h4 : RegsBut (enableRegs p) s1 s4 ∧ s4.queues = s.queues := by
    unfold s4; rw [h3]; split <;> exact ⟨h2.1, h2.2.1⟩
  have h5 : RegsBut (enableRegs p) s1 s5 ∧ s5.queues = s.queues := by
    unfold s5
    split
    · next hc =>
      refine ⟨RegsBut.wr (p := pgBf p.idx) (off := Off.WD_HOT) (t := { s4 with au := _ }) h4.1 0 ?_, h4.2⟩
      unfold enableRegs
      rw [if_pos hc.1]
      exact .head _
    · exact h4
  split
  · exact h5.1
  · next hne => rw [settleQueues_nil (h5.2.trans (hq.resolve_left hne))]; exact h5.1

/-! ## EXPERT -/

/-- The state with a list of the beat's requests to set CTRL.EXPERT. -/
def withAsks (l : List ExpertAsk) (s : State) : State := { s with head := { s.head with asks := l } }

/-- A write of CTRL that leaves EXPERT as it stands, not by another function than the one that has unlocked the page. -/
theorem expertWrite_same {s : State} {w : Func} {p : Page} (h : flag s p Off.CTRL 2 = true → fld s p Off.CTRL 4 5 = funcCode w) :
    ∃ l, expertWrite w p (flag s p Off.CTRL 2) s = withAsks l s := by
  unfold expertWrite
  cases hf : flag s p Off.CTRL 2 with
  | false => exact ⟨s.head.asks, by simp [withAsks]⟩
  | true => exact ⟨_, by simp [h hf, expertAsk]; rfl⟩

/-- The Call engine's model is not sound any more once its page has been unlocked (R166). -/
def ceUnlocked (p : Page) (s : State) : State := if p.cls = .callEngine then { s with ce := { s.ce with clean := false } } else s

theorem reg_ceUnlocked (p : Page) (s : State) (a : Nat) : reg (ceUnlocked p s) a = reg s a := by
  unfold ceUnlocked; split <;> rfl

theorem reg_expertAsk (p : Page) (w : Func) (granted : Bool) (s : State) (a : Nat) : reg (expertAsk p w granted s) a = reg s a := rfl

/-- EXPERT is granted on a page that nobody has unlocked. -/
theorem expertWrite_granted {s : State} {w : Func} {p : Page} (hf : flag s p Off.CTRL 2 = false) (hg : expertGrant s w p = true) :
    expertWrite w p true s =
      ceUnlocked p (expertAsk p w true (setFld p Off.CTRL 4 5 (funcCode w) (setFlag p Off.CTRL 2 true s))) := by
  unfold expertWrite
  simp only [hf, hg]
  rfl

/-- The holder of an unlock releases it. -/
theorem expertWrite_released {s : State} {w : Func} {p : Page} (hf : flag s p Off.CTRL 2 = true) (hh : fld s p Off.CTRL 4 5 = funcCode w) :
    expertWrite w p false s =
      if p.cls = .power then regUpdate (Machine.wr pgPower Off.AON_REG_MANUAL 2 (setFlag p Off.CTRL 2 false s))
      else setFlag p Off.CTRL 2 false s := by
  unfold expertWrite
  simp [hf, hh]

/-- The registers that decide a grant are neither CTRL nor HH_CNT_LOST. -/
theorem expertGrant_congr {s t : State} (hp : t.part = s.part) (hh : t.host = s.host) (hb : t.boot = s.boot)
    (hr : RegsBut [hhLost] s t) (w : Func) (p : Page) : expertGrant t w p = expertGrant s w p := by
  have hrd (q : Page) (off : Nat) (h1 : off < 0x1000) (h2 : off ≠ Off.HH_CNT_LOST) : rd t q off = rd s q off :=
    hr _ (by rw [List.mem_singleton]; exact addr_ne h1 (by decide) h2)
  have hclass : Off.MB_EXPERT_PF + 4 * (classCode p.cls / 32) < 0x1000 ∧ Off.MB_EXPERT_PF + 4 * (classCode p.cls / 32) ≠ Off.HH_CNT_LOST := by
    cases p.cls <;> decide
  unfold expertGrant pfGrant anyTdiHeld tdiHeld tdiState vfOwned vfReaches ctxExists ctxTenant ctxOf expertMask deckOf flag fld
  rw [hp, hh, hb, hrd pgMb _ hclass.1 hclass.2, hrd (pgCtx p.idx) _ (by decide) (by decide), hrd pgMb Off.MB_EXPERT_VF (by decide) (by decide),
    hrd pgMb Off.MB_TDI_STATE (by decide) (by decide)]

theorem regsBut_regUpdate {l : List Nat} (s : State) (m : pageBase pgPower + Off.AON_REG_STATUS ∈ l) : RegsBut l s (regUpdate s) := by
  unfold regUpdate
  refine RegsBut.ite (.refl l s) ?_
  exact RegsBut.setFlag (t := { s with pwr := _ }) (.of_regs rfl rfl) 1 true m

/-! ## CNT_CLEAR -/

/-- What a cleared counter of a page shows: what has been counted in the beat. -/
def countLeft (p : Page) (off : Nat) (s : State) : Word := BitVec.ofNat 32 (satNat 0xFFFFFFFF (sget 0 s.head.counts (pageBase p + off)))

/-- Counters of a page are cleared. -/
def clearAll (p : Page) (l : List Nat) (s : State) : State := l.foldl (fun s off => Machine.wr p off (countLeft p off s) s) s

theorem regsBut_clearAll (p : Page) (l : List Nat) (s : State) : RegsBut (l.map (pageBase p + ·)) s (clearAll p l s) := by
  induction l generalizing s with
  | nil => exact .refl _ s
  | cons c r ih => exact ((RegsBut.refl _ s).wr _ (.head _)).trans ((ih _).mono fun _ => .tail _)

theorem rd_clearAll {p : Page} {l : List Nat} {off : Nat} (h : off ∈ l) (s : State) : rd (clearAll p l s) p off = countLeft p off s := by
  induction l generalizing s with
  | nil => exact absurd h List.not_mem_nil
  | cons c r ih =>
    by_cases hr : off ∈ r
    · exact ih hr _
    · obtain rfl : off = c := (List.mem_cons.mp h).resolve_right hr
      refine (regsBut_clearAll p r _ _ fun hm => hr ?_).trans (rd_wr_same ..)
      obtain ⟨x, hx, e⟩ := List.mem_map.mp hm
      exact (Nat.add_left_cancel e) ▸ hx

/-- DEAL_SKIPPED and the counters of a page's head. -/
def counterOffs : List Nat := Off.DEAL_SKIPPED :: (List.range 32).map fun k => 0x80 + 4 * k

theorem clearCounters_eq (p : Page) (s : State) : clearCounters p s = clearAll p counterOffs s := rfl

/-! ## SOFT_RESET -/

section
variable (p : Page) (s : State)

theorem flag_resetRequest : flag (resetRequest p s) p Off.CTRL 1 = (flag s p Off.CTRL 1 || !s.head.resetting.contains (pageBase p)) := by
  unfold resetRequest
  cases h : s.head.resetting.contains (pageBase p) with
  | true => simp
  | false =>
    rw [if_neg Bool.false_ne_true, Bool.not_false, Bool.or_true]
    exact flag_setFlag_same _ _ _ _ (by decide)

theorem mem_resetRequest : pageBase p ∈ (resetRequest p s).head.resetting := by
  unfold resetRequest
  split
  · next h => exact List.contains_iff_mem.mp h
  · exact List.mem_append_right _ (.head _)

theorem regsBut_resetRequest : RegsBut [pageBase p + Off.CTRL] s (resetRequest p s) := by
  unfold resetRequest
  exact RegsBut.ite (.refl _ s) (RegsBut.setFlag (t := { s with head := _ }) (.of_regs rfl rfl) 1 true (.head _))

end

/-! ## A write of CTRL outside a fence -/

section
variable {s : State} {w : Func} {p : Page} (hopen : phaseOf s (pageDomain p) = 0)
include hopen

theorem ctrlWrite_vf (n : Nat) (e r x c : Bool) : ctrlWrite (.vf n) p (ctrlBits e r x c) s = expertWrite (.vf n) p x s := by
  obtain ⟨-, -, hx, -⟩ := bitOf_ctrlBits e r x c
  unfold ctrlWrite
  simp only [hopen, hx, ne_eq, not_true, if_false]

theorem ctrlWrite_open (hw : ∀ n, w ≠ .vf n) (e r x c : Bool) :
    ctrlWrite w p (ctrlBits e r x c) s =
      let t := expertWrite w p x (enableWrite p e s)
      let t := if c then clearCounters p t else t
      if !r then t else if busy t p then accessError 0xA w (pageBase p + Off.CTRL) t else resetRequest p t := by
  obtain ⟨he, hr, hx, hc⟩ := bitOf_ctrlBits e r x c
  unfold ctrlWrite
  simp only [hopen, he, hr, hx, hc, ne_eq, not_true, if_false]

/-- A write that leaves ENABLE is one of EXPERT, whoever writes. -/
theorem ctrlWrite_expert (hidle : p.cls = .callEngine → flag s p Off.CTRL 0 = true → CeIdle s) (x : Bool) :
    ∃ t, (t = s ∨ t = resaved p s) ∧ ctrlWrite w p (ctrlBits (flag s p Off.CTRL 0) false x false) s = expertWrite w p x t := by
  cases w with
  | vf n => exact ⟨s, .inl rfl, ctrlWrite_vf hopen n ..⟩
  | _ =>
    refine ⟨resaved p s, .inr rfl, ?_⟩
    rw [ctrlWrite_open hopen (fun n => by simp), enableWrite_same hidle]
    rfl

end

section
variable {s : State} {w : Func} {p : Page} (h : Admitted s w p Off.CTRL) (hopen : phaseOf s (pageDomain p) = 0)
  (hidle : p.cls = .callEngine → flag s p Off.CTRL 0 = true → CeIdle s)
  (hfree : flag s p Off.CTRL 2 = true → fld s p Off.CTRL 4 5 = funcCode w) (hw : ∀ n, w ≠ .vf n)

theorem Captured.ceIdle {s u : State} (h : Captured s u) (hi : CeIdle s) : CeIdle u := by
  unfold CeIdle at hi ⊢
  rw [h.ce_eq, h.busy_eq, h.au_eq]
  exact hi

include hopen

section
include hfree hw hidle

/-- A write of CTRL by the holder, or of an unlocked page, that leaves ENABLE and EXPERT. -/
theorem ctrlWrite_rest {u : State} (hu : Captured s u) (r c : Bool) :
    ∃ t, RegsBut [] u t ∧ t.head = { u.head with asks := t.head.asks } ∧
      ctrlWrite w p (ctrlBits (flag s p Off.CTRL 0) r (flag s p Off.CTRL 2) c) u =
        let t := if c then clearCounters p t else t
        if !r then t else if busy t p then accessError 0xA w (pageBase p + Off.CTRL) t else resetRequest p t := by
  have hbit (b : Nat) : flag u p Off.CTRL b = flag s p Off.CTRL b := hu.flag_eq b (by decide) (by decide)
  have hbit' (b : Nat) : flag (resaved p u) p Off.CTRL b = flag s p Off.CTRL b := (flag_congr (reg_resaved ..)).trans (hbit b)
  have hby : fld (resaved p u) p Off.CTRL 4 5 = fld s p Off.CTRL 4 5 :=
    (fld_congr (reg_resaved ..)).trans (hu.fld_eq 4 5 (by decide) (by decide))
  obtain ⟨asks, hasks⟩ := expertWrite_same (s := resaved p u) (w := w) (p := p) (by rwa [hbit', hby])
  have hsame := enableWrite_same (s := u) (p := p) (fun hc ho => hu.ceIdle (hidle hc ((hbit 0).symm.trans ho)))
  refine ⟨withAsks asks (resaved p u), regsBut_resaved [] p u, rfl, ?_⟩
  rw [ctrlWrite_open ((hu.phaseOf_eq _).trans hopen) hw, ← hbit 0, hsame, ← hbit' 2, hasks]

end

section
include hidle

/-- A write of CTRL that leaves ENABLE is one of EXPERT, in a state with the same registers. -/
theorem ctrlWrite_leaves {u : State} (hu : Captured s u) (x : Bool) :
    ∃ t, RegsBut [] u t ∧ t = { u with regs := t.regs } ∧
      ctrlWrite w p (ctrlBits (flag s p Off.CTRL 0) false x false) u = expertWrite w p x t := by
  have hbit : flag u p Off.CTRL 0 = flag s p Off.CTRL 0 := hu.flag_eq 0 (by decide) (by decide)
  obtain ⟨t, ht, e⟩ := ctrlWrite_expert (w := w) ((hu.phaseOf_eq _).trans hopen) (fun hc ho => hu.ceIdle (hidle hc (hbit.symm.trans ho))) x
  rw [hbit] at e
  rcases ht with rfl | rfl
  · exact ⟨t, .refl _ t, rfl, e⟩
  · exact ⟨_, regsBut_resaved [] p u, rfl, e⟩

end

include h

section
include hfree hw

theorem runs_enable {on : Bool} (hidle : p.cls = .callEngine → on = true → CeIdle s) (hq : on = flag s p Off.CTRL 0 ∨ s.queues = []) :
    Runs (.enable w p on) s fun t => flag t p Off.CTRL 0 = on ∧ (∀ b, 0 < b → b < 32 → flag t p Off.CTRL b = flag s p Off.CTRL b) ∧
      RegsBut (enableRegs p ++ [pageBase p + Off.CTRL, hhLost]) s t := by
  have hword : ctrlWord s p false true (ofBool on) = ctrlBits on false (flag s p Off.CTRL 2) false := ctrlWord_eq s p (by simp [ofBool])
  refine runs_of_access (k := ctrlWrite w p _) rfl h fun u l hu => ?_
  have hbit (b : Nat) : flag u p Off.CTRL b = flag s p Off.CTRL b := hu.flag_eq b (by decide) (by decide)
  have hregs := regsBut_enableWrite (s := u) (p := p) (on := on) (fun hc ho => hu.ceIdle (hidle hc ho)) (by rwa [hbit, hu.queues_eq])
  have hctrl := hregs _ (ctrl_not_mem_enableRegs p)
  have hx : flag (enableWrite p on u) p Off.CTRL 2 = flag s p Off.CTRL 2 :=
    (flag_congr hctrl).trans ((flag_setFlag_ne p on (by decide) (by decide)).trans (hbit 2))
  have hby : fld (enableWrite p on u) p Off.CTRL 4 5 = fld s p Off.CTRL 4 5 :=
    (fld_congr hctrl).trans ((fld_setFlag_above p on (by decide) (by decide)).trans (hu.fld_eq 4 5 (by decide) (by decide)))
  obtain ⟨asks, hasks⟩ := expertWrite_same (s := enableWrite p on u) (w := w) (p := p) (by rwa [hx, hby])
  have ht : ctrlWrite w p (ctrlWord s p false true (ofBool on)) u = withAsks asks (enableWrite p on u) := by
    rw [hword, ctrlWrite_open ((hu.phaseOf_eq _).trans hopen) hw, ← hx, hasks]
    rfl
  rw [ht]
  refine ⟨(flag_congr hctrl).trans (flag_setFlag_same _ _ _ _ (by decide)), fun b h0 hb => ?_, ?_⟩
  · exact (flag_congr hctrl).trans ((flag_setFlag_ne p on (by decide) (by omega)).trans (hbit b))
  · have hset : RegsBut (enableRegs p ++ [pageBase p + Off.CTRL, hhLost]) u (setFlag p Off.CTRL 0 on u) :=
      (RegsBut.refl _ u).setFlag 0 on (by simp)
    exact hu.regsBut (hset.trans (hregs.mono fun _ => List.mem_append_left _)) (by simp)

include hidle

theorem runs_softReset (hbusy : busy s p = false) : Runs (.softReset w p) s fun t =>
    flag t p Off.CTRL 1 = (flag s p Off.CTRL 1 || !s.head.resetting.contains (pageBase p)) ∧ pageBase p ∈ t.head.resetting ∧
      RegsBut [pageBase p + Off.CTRL, hhLost] s t := by
  have hword : ctrlWord s p true true 2 = ctrlBits (flag s p Off.CTRL 0) true (flag s p Off.CTRL 2) false :=
    ctrlWord_eq s p (by simp [ofBool]; omega)
  refine runs_of_access (k := ctrlWrite w p _) rfl h fun u l hu => ?_
  obtain ⟨t, hregs, hhead, ht⟩ := ctrlWrite_rest hopen hidle hfree hw hu true false
  have hbusyt : busy t p = false := by
    have : cmdsOf t p = cmdsOf u p := by unfold cmdsOf; rw [hhead]
    unfold busy at hbusy ⊢
    rw [this]
    exact (hu.busy_eq p).trans hbusy
  rw [hword, ht]
  simp only [hbusyt, Bool.not_true, Bool.false_eq_true, if_false]
  refine ⟨?_, mem_resetRequest p t, ?_⟩
  · have hres : t.head.resetting = s.head.resetting := (congrArg HeadSt.resetting hhead).trans hu.resetting_eq
    rw [flag_withMgmt, flag_resetRequest, hres, flag_congr (hregs _ List.not_mem_nil), hu.flag_eq 1 (by decide) (by decide)]
  · refine hu.regsBut (RegsBut.withMgmt l ((hregs.mono fun _ hm => absurd hm List.not_mem_nil).trans ?_)) (by simp)
    exact (regsBut_resetRequest p t).mono (by simp)

theorem runs_cntClear : Runs (.cntClear w p) s fun t =>
    (∀ off ∈ counterOffs, rd t p off = countLeft p off s) ∧
      RegsBut (counterOffs.map (pageBase p + ·) ++ [pageBase p + Off.CTRL, hhLost]) s t := by
  have hword : ctrlWord s p true true 8 = ctrlBits (flag s p Off.CTRL 0) false (flag s p Off.CTRL 2) true :=
    ctrlWord_eq s p (by simp [ofBool]; omega)
  refine runs_of_recorded (k := ctrlWrite w p _) rfl h fun l _ => ?_
  have hu := captured_recordWrite w p Off.CTRL (ctrlWord s p true true 8) s
  rw [hword] at hu ⊢
  obtain ⟨t, hregs, hhead, ht⟩ := ctrlWrite_rest hopen hidle hfree hw hu false true
  rw [ht]
  simp only [if_true, Bool.not_false, clearCounters_eq]
  refine ⟨fun off hoff => ?_, ?_⟩
  · have hsmall : off < 0x1000 := by
      have : ∀ x ∈ counterOffs, x < 0x1000 := by decide
      exact this off hoff
    rw [rd_withMgmt, rd_clearAll hoff]
    unfold countLeft
    rw [hhead]
    exact congrArg (fun n => BitVec.ofNat 32 (satNat _ n)) (count_recordWrite w p hsmall _ s)
  · refine hu.regsBut (RegsBut.withMgmt l ((hregs.mono fun _ hm => absurd hm List.not_mem_nil).trans ?_)) (by simp)
    exact (regsBut_clearAll p counterOffs t).mono fun _ => List.mem_append_left _

end

include hidle

theorem runs_expert (hf : flag s p Off.CTRL 2 = false) (hg : expertGrant s w p = true) : Runs (.expert w p) s fun t =>
    flag t p Off.CTRL 2 = true ∧ fld t p Off.CTRL 4 5 = funcCode w % 32 ∧ RegsBut [pageBase p + Off.CTRL, hhLost] s t := by
  have hword : ctrlWord s p true false 4 = ctrlBits (flag s p Off.CTRL 0) false true false := ctrlWord_eq s p (by simp [ofBool]; omega)
  refine runs_of_access (k := ctrlWrite w p _) rfl h fun u l hu => ?_
  obtain ⟨t, hregs, hrest, ht⟩ := ctrlWrite_leaves (w := w) hopen hidle hu true
  have hf' : flag t p Off.CTRL 2 = false := (flag_congr (hregs _ List.not_mem_nil)).trans ((hu.flag_eq 2 (by decide) (by decide)).trans hf)
  have hg' : expertGrant t w p = true := by
    rw [expertGrant_congr ((congrArg State.part hrest).trans hu.part_eq) ((congrArg State.host hrest).trans hu.host_eq)
      ((congrArg State.boot hrest).trans hu.boot_eq) (hu.regsBut (hregs.mono fun _ hm => absurd hm List.not_mem_nil) (.head _)), hg]
  rw [hword, ht, expertWrite_granted hf' hg']
  have hread (a : Nat) : reg (ceUnlocked p (expertAsk p w true (setFld p Off.CTRL 4 5 (funcCode w) (setFlag p Off.CTRL 2 true t)))) a =
      reg (setFld p Off.CTRL 4 5 (funcCode w) (setFlag p Off.CTRL 2 true t)) a := (reg_ceUnlocked ..).trans (reg_expertAsk ..)
  have hwritten : RegsBut [pageBase p + Off.CTRL, hhLost] t (setFld p Off.CTRL 4 5 (funcCode w) (setFlag p Off.CTRL 2 true t)) :=
    RegsBut.wr (p := p) (off := Off.CTRL) ((RegsBut.refl _ t).setFlag 2 true (.head _)) _ (.head _)
  have hset : RegsBut [pageBase p + Off.CTRL, hhLost] t (ceUnlocked p (expertAsk p w true
      (setFld p Off.CTRL 4 5 (funcCode w) (setFlag p Off.CTRL 2 true t)))) := fun a ha => (hread a).trans (hwritten a ha)
  refine ⟨?_, ?_, hu.regsBut (RegsBut.withMgmt l ((hregs.mono fun _ hm => absurd hm List.not_mem_nil).trans hset)) (by simp)⟩
  · rw [flag_withMgmt, flag_congr (hread _), flag_setFld_below p _ (by decide) (by decide), flag_setFlag_same _ _ _ _ (by decide)]
  · rw [fld_withMgmt, fld_congr (hread _)]
    exact fld_setFld_same _ _ _ _ _ (by decide)

theorem runs_expertClear (hf : flag s p Off.CTRL 2 = true) (hh : fld s p Off.CTRL 4 5 = funcCode w) : Runs (.expertClear w p) s fun t =>
    flag t p Off.CTRL 2 = false ∧ (p.cls = .power → rd t p Off.AON_REG_MANUAL = 2) ∧
      RegsBut (if p.cls = .power then (pageBase pgPower + Off.AON_REG_MANUAL) :: (pageBase pgPower + Off.AON_REG_STATUS) ::
        [pageBase p + Off.CTRL, hhLost] else [pageBase p + Off.CTRL, hhLost]) s t := by
  have hword : ctrlWord s p true false 0 = ctrlBits (flag s p Off.CTRL 0) false false false := ctrlWord_eq s p (by simp [ofBool])
  refine runs_of_access (k := ctrlWrite w p _) rfl h fun u l hu => ?_
  obtain ⟨t, hregs, -, ht⟩ := ctrlWrite_leaves (w := w) hopen hidle hu false
  have hf' : flag t p Off.CTRL 2 = true := (flag_congr (hregs _ List.not_mem_nil)).trans ((hu.flag_eq 2 (by decide) (by decide)).trans hf)
  have hh' : fld t p Off.CTRL 4 5 = funcCode w :=
    (fld_congr (hregs _ List.not_mem_nil)).trans ((hu.fld_eq 4 5 (by decide) (by decide)).trans hh)
  have hset (m : List Nat) (hm : pageBase p + Off.CTRL ∈ m) : RegsBut m u (setFlag p Off.CTRL 2 false t) :=
    RegsBut.setFlag (hregs.mono fun _ hm => absurd hm List.not_mem_nil) 2 false hm
  have hclear : flag (setFlag p Off.CTRL 2 false t) p Off.CTRL 2 = false := flag_setFlag_same _ _ _ _ (by decide)
  rw [hword, ht, expertWrite_released hf' hh']
  by_cases hp : p.cls = .power
  · have hbase : pageBase p = pageBase pgPower := by unfold pageBase; rw [hp]; rfl
    have hupd (m : List Nat) (hm : pageBase pgPower + Off.AON_REG_STATUS ∈ m) :=
      regsBut_regUpdate (wr pgPower Off.AON_REG_MANUAL 2 (setFlag p Off.CTRL 2 false t)) hm
    rw [if_pos hp, if_pos hp]
    have hlist : RegsBut ((pageBase pgPower + Off.AON_REG_MANUAL) :: (pageBase pgPower + Off.AON_REG_STATUS) ::
        [pageBase p + Off.CTRL, hhLost]) u (regUpdate (wr pgPower Off.AON_REG_MANUAL 2 (setFlag p Off.CTRL 2 false t))) :=
      (RegsBut.wr (p := pgPower) (off := Off.AON_REG_MANUAL) (hset _ (.tail _ (.tail _ (.head _)))) 2 (.head _)).trans
        (hupd _ (.tail _ (.head _)))
    refine ⟨?_, fun _ => ?_, hu.regsBut (RegsBut.withMgmt l hlist) (.tail _ (.tail _ (.tail _ (.head _))))⟩
    · rw [flag_withMgmt, flag_congr (hupd _ (.head []) _ (by rw [hbase]; decide)), flag_congr (reg_wr_ne 2 (by rw [hbase]; decide)), hclear]
    · rw [rd_withMgmt]
      have hrd := hupd _ (.head []) (pageBase p + Off.AON_REG_MANUAL) (by rw [hbase]; decide)
      exact hrd.trans (by rw [hbase]; exact rd_wr_same ..)
  · rw [if_neg hp, if_neg hp]
    exact ⟨hclear, fun e => absurd e hp, hu.regsBut (RegsBut.withMgmt l (hset _ (.head _))) (by simp)⟩

end

/-- Settles O16: outside a fence a write of CTRL is the writes of its bits, one after the other. -/
theorem controlWrites : Obligations.ControlWrites := by
  unfold Obligations.ControlWrites
  intro base still own ctl skip
  refine ⟨fun s w p on ⟨⟨h, hopen⟩, hw, hfree⟩ hidle hq => ?enable, fun s w p ⟨⟨h, hopen⟩, hw, hfree⟩ hidle hbusy => ?softReset,
    fun s w p ⟨h, hopen⟩ hidle hf hg => ?expert, fun s w p ⟨h, hopen⟩ hidle hf hh => ?expertClear,
    fun s w p ⟨⟨h, hopen⟩, hw, hfree⟩ hidle => ?cntClear⟩
  case enable =>
    obtain ⟨t, ht, hon, hrest, hregs⟩ := runs_enable h hopen hfree hw hidle hq
    refine ⟨t, ht, hon, hrest, hregs.mono fun a ha => ?_⟩
    unfold enableRegs at ha
    split at ha <;> simpa [ctl, *] using ha
  case softReset => exact runs_softReset h hopen hidle hfree hw hbusy
  case expert => exact runs_expert h hopen hidle hf hg
  case expertClear =>
    obtain ⟨t, ht, hoff, hman, hregs⟩ := runs_expertClear h hopen hidle hf hh
    exact ⟨t, ht, hoff, fun hc _ => hman hc, hregs⟩
  case cntClear =>
    obtain ⟨t, ht, hcnt, hregs⟩ := runs_cntClear h hopen hidle hfree hw
    refine ⟨t, ht, fun k hk => hcnt _ ?_, hcnt _ (.head _), hregs.mono ?_⟩
    · exact .tail _ (List.mem_map.mpr ⟨k, List.mem_range.mpr hk, rfl⟩)
    · intro a ha
      simpa [counterOffs, ctl, Function.comp_def, or_assoc] using ha

end Sys2Proof.Machine
end

section
/-! # Fences and commands that run over their timeout (R79, R80, R86, R543) -/
namespace Sys2Proof.Machine

/-! ## What ending work and settling queues leave of a fence's registers -/

/-- Every FENCE_CTRL and FENCE_STATUS is as it was, and no event that was raised is cleared. -/
structure FenceKept (s t : State) : Prop where
  rd_eq : ∀ p, ∀ off ∈ [Off.FENCE_CTRL, Off.FENCE_STATUS], rd t p off = rd s p off
  raised : ∀ p b, Raised p b s → Raised p b t

namespace FenceKept
variable {s t u : State}

theorem refl (s : State) : FenceKept s s := ⟨fun _ _ _ => rfl, fun _ _ => id⟩

theorem trans (h : FenceKept s t) (h' : FenceKept t u) : FenceKept s u :=
  ⟨fun p off m => (h'.rd_eq p off m).trans (h.rd_eq p off m), fun p b hb => h'.raised p b (h.raised p b hb)⟩

/-- A state with the same register file. -/
theorem of_regs (hp : t.part = s.part) (hr : t.regs = s.regs) : FenceKept s t :=
  ⟨fun _ _ _ => reg_of_regs hp hr _, fun _ _ hb => (flag_congr (reg_of_regs hp hr _)).trans hb⟩

theorem ite {c : Prop} [Decidable c] (ht : FenceKept s t) (hu : FenceKept s u) : FenceKept s (if c then t else u) := by
  split
  · exact ht
  · exact hu

theorem foldl {β : Type} {f : State → β → State} (hf : ∀ s b, FenceKept s (f s b)) (l : List β) (s : State) :
    FenceKept s (l.foldl f s) := by
  induction l generalizing s with
  | nil => exact .refl s
  | cons b r ih => exact (hf s b).trans (ih _)

theorem fld_eq (h : FenceKept s t) (p : Page) {off : Nat} (m : off ∈ [Off.FENCE_CTRL, Off.FENCE_STATUS]) (lo w : Nat) :
    fld t p off lo w = fld s p off lo w := fld_congr (h.rd_eq p off m)

theorem flag_eq (h : FenceKept s t) (p : Page) {off : Nat} (m : off ∈ [Off.FENCE_CTRL, Off.FENCE_STATUS]) (b : Nat) :
    flag t p off b = flag s p off b := flag_congr (h.rd_eq p off m)

theorem phaseOf_eq (h : FenceKept s t) (d : Nat) : phaseOf t d = phaseOf s d := by
  unfold phaseOf
  split
  · exact h.fld_eq _ (.tail _ (.head _)) 0 3
  · rfl

section
variable (h : FenceKept s t)
include h

theorem wr {p : Page} {off : Nat} (v : Word) (ho : off < 0x1000) (hne : off ∉ [Off.FENCE_CTRL, Off.FENCE_STATUS, Off.EVT_RAW]) :
    FenceKept s (wr p off v t) := by
  refine h.trans ⟨fun q off' m => ?_, fun q b hb => ?_⟩
  · refine rd_wr_off_ne v ho (by revert m; revert off'; decide) fun e => hne (e ▸ ?_)
    exact List.mem_append_left [Off.EVT_RAW] m
  · exact (flag_congr (rd_wr_off_ne v ho (by decide) fun e => hne (e ▸ .tail _ (.tail _ (.head _))))).trans hb

theorem setFlag {p : Page} {off : Nat} (b : Nat) (v : Bool) (ho : off < 0x1000)
    (hne : off ∉ [Off.FENCE_CTRL, Off.FENCE_STATUS, Off.EVT_RAW]) : FenceKept s (setFlag p off b v t) := h.wr _ ho hne

theorem bump {p : Page} {off : Nat} (k : Nat) (ho : off < 0x1000) (hne : off ∉ [Off.FENCE_CTRL, Off.FENCE_STATUS, Off.EVT_RAW]) :
    FenceKept s (bump p off k t) := (h.wr _ ho hne).trans (.of_regs rfl rfl)

theorem raise (p : Page) {b : Nat} (hb : b < 32) : FenceKept s (raise p b t) := by
  refine h.trans ⟨fun q off m => reg_raise_ne (addr_ne ?_ (by decide) ?_), fun q c hc => ?_⟩
  · revert m; revert off; decide
  · revert m; revert off; decide
  · by_cases e : pageBase q + Off.EVT_RAW = pageBase p + Off.EVT_RAW
    · unfold Raised flag fld rd at *
      rw [e] at hc ⊢
      exact flag_raise_mono p b c hb hc
    · exact (flag_congr (reg_raise_ne e)).trans hc

end
end FenceKept

theorem fenceKept_updTile (t : Nat) (f : TileSt → TileSt) (s : State) : FenceKept s (updTile t f s) := .of_regs rfl rfl
theorem fenceKept_updStem (d : Nat) (f : StemSt → StemSt) (s : State) : FenceKept s (updStem d f s) := .of_regs rfl rfl
theorem fenceKept_setCsi (r : Nat) (c : CsiSt) (s : State) : FenceKept s (setCsi r c s) := .of_regs rfl rfl
theorem fenceKept_setIsp (n : Nat) (x : IspSt) (s : State) : FenceKept s (setIsp n x s) := .of_regs rfl rfl
theorem fenceKept_stemRelease (l : Launch) (s : State) : FenceKept s (stemRelease l s) := .ite (.refl s) (fenceKept_setIsp ..)
theorem fenceKept_endCmd (p : Page) (id : Nat) (s : State) : FenceKept s (endCmd p id s) := .of_regs rfl rfl
theorem fenceKept_endAllCmds (p : Page) (s : State) : FenceKept s (endAllCmds p s) := .of_regs rfl rfl

theorem fenceKept_formRec (r : FaultRec) (s : State) : FenceKept s (formRec r s) := by
  have hrec (t : State) (ht : FenceKept s t) :
      FenceKept s (t |> bump pgFc Off.FC_CNT_RECORDS 1 |> raise pgFc Evt.FC_RECORD) :=
    (ht.bump 1 (by decide) (by decide)).raise _ (by decide)
  unfold formRec
  dsimp only
  refine .ite (((hrec _ ?_).bump 1 (by decide) (by decide)).raise _ (by decide)) (hrec _ ?_) <;> exact .of_regs rfl rfl

theorem fenceKept_holdRecord (t kind queue ctx : Nat) (bs : List Byte) (s : State) : FenceKept s (holdRecord t kind queue ctx bs s) := by
  have hlost : FenceKept s (bump (pgTsp t) Off.TSP_CNT_RECORD_LOST 1 s) := (FenceKept.refl s).bump 1 (by decide) (by decide)
  exact .ite (.ite ((hlost.bump 1 (by decide) (by decide)).raise _ (by decide)) hlost) (fenceKept_updTile ..)

theorem fenceKept_breakSegment (t n : Nat) (s : State) : FenceKept s (breakSegment t n s) :=
  .ite (((fenceKept_updTile ..).bump 1 (by decide) (by decide)).raise _ (by decide)) (.refl s)

theorem fenceKept_clearKernel (t : Nat) (k : Kernel) (s : State) : FenceKept s (clearKernel t k s) := by
  unfold clearKernel
  extract_lets u due v
  have hu : FenceKept s u := .foldl (fun u n => fenceKept_breakSegment t n u) _ s
  have hv : FenceKept s v := hu.trans (fenceKept_updTile ..)
  have hdue : FenceKept v (due.foldl (fun s n => dropSegment t n s) v) := .foldl (fun u _ => fenceKept_updTile t _ u) _ v
  exact ((hv.trans hdue).trans (fenceKept_endCmd ..)).setFlag 8 false (by decide) (by decide)

theorem fenceKept_tokensOut (t : Nat) (k : Kernel) (s : State) : FenceKept s (tokensOut t k s) := by
  unfold tokensOut
  extract_lets sat
  refine .foldl (fun u x => ?_) _ s
  exact (fenceKept_holdRecord t 2 x.1 k.launch.ctx (tokenBytes u sat x.2) u).trans (.of_regs rfl rfl)

theorem fenceKept_finishKernel (t status pc : Nat) (s : State) (h0 : status ≠ 0) : FenceKept s (finishKernel t status pc s) := by
  unfold finishKernel
  split
  · exact .refl s
  · next k _ =>
    extract_lets l r u v w
    have hr : FenceKept s r := by unfold r; rw [if_neg h0]; exact .refl s
    have hu : FenceKept s u := ((hr.trans (fenceKept_clearKernel t k r)).trans (fenceKept_tokensOut t k _)).bump 1 (by decide) (by decide)
    have hv : FenceKept s v := .ite (hu.trans (fenceKept_holdRecord ..)) hu
    have hw : FenceKept s w := .ite (hv.raise _ (by decide)) hv
    exact .ite (((hw.raise _ (by decide)).bump 1 (by decide) (by decide)).trans (fenceKept_formRec ..))
      (.ite (hw.trans (fenceKept_formRec ..)) hw)

theorem fenceKept_abortEntry (d tag queue : Nat) (l : Launch) (named : Bool) (s : State) :
    FenceKept s (abortEntry d tag queue l named s) := by
  have hheld (bs : List Byte) : FenceKept s (if d < 64 then holdRecord d 0 queue l.ctx bs (fresh s).2
      else updStem (d - 68) (fun x => { x with comps := x.comps ++ [(queue, l.ctx, bs)] }) (fresh s).2) := by
    refine .ite (.trans ?_ (fenceKept_holdRecord ..)) ?_ <;> exact .of_regs rfl rfl
  unfold abortEntry
  extract_lets f bs t
  have ht : FenceKept s t := .ite (.refl s) (hheld bs)
  exact .ite ht (ht.trans (fenceKept_formRec ..))

theorem fenceKept_abortEntries (d : Nat) (tag queue : Launch → Nat) (ls : List Launch) (seen : List Nat) (s : State) :
    FenceKept s (abortEntries d tag queue ls seen s) := by
  induction ls generalizing seen s with
  | nil => exact .refl s
  | cons l r ih => exact (fenceKept_abortEntry ..).trans (ih _ _)

theorem fenceKept_finishJob (d : Nat) (s : State) : FenceKept s (finishJob d 3 s) := by
  unfold finishJob
  split
  · exact .refl s
  · extract_lets l p u v w
    have hu : FenceKept s u := (((fenceKept_updStem ..).trans (fenceKept_endCmd p 0 _)).setFlag 8 false (by decide) (by decide)).bump 1
      (by decide) (by decide)
    have hv : FenceKept s v := .ite (hu.trans (fenceKept_updStem ..)) hu
    have hw : FenceKept s w := .ite (hv.raise _ (by decide)) hv
    exact hw.trans (fenceKept_formRec ..)

theorem fenceKept_endWork (d : Nat) (s : State) : FenceKept s (endWork d s) := by
  unfold endWork
  split
  · exact ((fenceKept_finishKernel d 3 _ s (by decide)).trans (fenceKept_updTile ..)).trans (fenceKept_abortEntries ..)
  · split
    · extract_lets seen held u v fifo
      have hu : FenceKept s u := fenceKept_finishJob ..
      have hv : FenceKept s v := by
        unfold v
        cases held with
        | some l => exact hu.trans (fenceKept_stemRelease ..)
        | none => exact hu
      exact (hv.trans (fenceKept_updStem ..)).trans (fenceKept_abortEntries ..)
    · split
      · exact (fenceKept_setCsi ..).trans (fenceKept_endAllCmds ..)
      · exact (fenceKept_setIsp ..).trans (fenceKept_endAllCmds ..)
      · exact fenceKept_endAllCmds ..
      · exact .refl s

theorem fenceKept_setQueue (q : Nat) (r : Queue) (s : State) : FenceKept s (setQueue q r s) := .of_regs rfl rfl

theorem fenceKept_completeBlocks (q : Nat) (bs : List (Nat × Nat)) (s : State) : FenceKept s (completeBlocks q bs s) := by
  induction bs generalizing s with
  | nil => exact fenceKept_setQueue ..
  | cons x rest ih =>
    obtain ⟨b, f⟩ := x
    have hevent (u : State) : FenceKept u (queueEvent q u) := by
      have hoff : Off.CTX_QEVT + 4 * (q % 256 / 32) < 0x1000 := by unfold Off.CTX_QEVT; omega
      have hne : Off.CTX_QEVT + 4 * (q % 256 / 32) ∉ [Off.FENCE_CTRL, Off.FENCE_STATUS, Off.EVT_RAW] := by
        simp only [Off.CTX_QEVT, Off.FENCE_CTRL, Off.FENCE_STATUS, Off.EVT_RAW, List.mem_cons, List.not_mem_nil, or_false]
        omega
      exact ((FenceKept.refl u).setFlag (q % 256 % 32) true hoff hne).raise _ (by decide)
    unfold completeBlocks
    extract_lets r ends u v w
    have hu : FenceKept s u := fenceKept_setQueue ..
    have hv : FenceKept s v := .ite (hu.trans (.ite (fenceKept_setQueue ..) (.refl u))) hu
    have hw : FenceKept s w := .ite (hv.trans (hevent v)) hv
    exact .ite (fenceKept_setQueue ..) (hw.trans (ih w))

theorem fenceKept_sendPri (q : Nat) (s : State) : FenceKept s (sendPri q s) := by
  have hemit (o : Out) (u : State) : FenceKept u (emit o u) := .of_regs rfl rfl
  refine .ite (.trans (.bump (.bump ?_ 1 (by decide) (by decide)) 1 (by decide) (by decide)) (hemit ..)) (.refl s)
  exact fenceKept_setQueue ..

theorem fenceKept_settleQueue (q : Nat) (s : State) : FenceKept s (settleQueue q s) := by
  unfold settleQueue
  extract_lets u r still r' x v w r'' p
  have hu : FenceKept s u := fenceKept_completeBlocks ..
  have hset (x : Queue) : FenceKept s (setQueue q x u) := hu.trans (fenceKept_setQueue ..)
  have hv : FenceKept s v := by
    refine .ite (.ite ?_ (.ite (hset _) hu)) hu
    cases r'.rearm with
    | some x => exact hset _
    | none => exact hset _
  have hw : FenceKept s w := hv.trans (fenceKept_sendPri ..)
  have hset' (x : Queue) : FenceKept s (setQueue q x w) := hw.trans (fenceKept_setQueue ..)
  exact .ite (.ite (hset _) hu) (.ite (hset' _) (.ite (hset' _) hw))

theorem fenceKept_settleQueues (p : Nat → Bool) (s : State) : FenceKept s (settleQueues p s) :=
  .foldl (fun u (e : Nat × Queue) => fenceKept_settleQueue e.1 u) _ s

/-! ## The root pages of the reset domains (R538) -/

theorem domainRoot_none {d : Nat} (h : 93 ≤ d) : domainRoot d = none := by
  unfold domainRoot
  repeat' rw [if_neg (by omega)]

/-- A domain is that of its root page, which the register map has at the page's address. -/
theorem root_found {d : Nat} {r : Page} (h : domainRoot d = some r) : pageDomain r = d ∧ pageOf (pageBase r) = some (r, 0) := by
  have hall : ∀ e < 93, ∀ q ∈ domainRoot e, pageDomain q = e ∧ pageOf (pageBase q) = some (q, 0) := by decide +kernel
  refine hall d ?_ r h
  by_contra hd
  rw [domainRoot_none (by omega)] at h
  exact absurd h (by simp)

/-- Root pages of two domains stand at two addresses. -/
theorem root_ne {d e : Nat} {r q : Page} (hr : domainRoot d = some r) (hq : domainRoot e = some q) (hne : e ≠ d) :
    pageBase q ≠ pageBase r := by
  intro hb
  obtain ⟨hd, hpr⟩ := root_found hr
  obtain ⟨he, hpq⟩ := root_found hq
  rw [hb, hpr] at hpq
  obtain rfl : r = q := congrArg Prod.fst (Option.some.inj hpq)
  exact hne (he.symm.trans hd)

section
variable {s : State} {d e : Nat} {r : Page}

theorem phaseOf_root (hr : domainRoot d = some r) : phaseOf s d = fld s r Off.FENCE_STATUS 0 3 := by
  unfold phaseOf; rw [hr]

/-- A write of one domain's FENCE_STATUS leaves the phases of the others. -/
theorem phaseOf_wr_status (hr : domainRoot d = some r) (v : Word) (hne : e ≠ d) : phaseOf (wr r Off.FENCE_STATUS v s) e = phaseOf s e := by
  unfold phaseOf
  split
  · next q hq => exact fld_congr (reg_wr_ne v fun h => root_ne hr hq hne (by omega))
  · rfl

theorem phaseOf_setPhase_ne (n : Nat) (hne : e ≠ d) : phaseOf (setPhase d n s) e = phaseOf s e := by
  unfold setPhase
  split
  · next r hr => exact phaseOf_wr_status hr _ hne
  · rfl

theorem phaseOf_setPhase_same (hr : domainRoot d = some r) (n : Nat) : phaseOf (setPhase d n s) d = n % 8 := by
  rw [phaseOf_root hr]
  unfold setPhase
  rw [hr]
  exact fld_setFld_same _ _ _ _ _ (by decide)

/-- The cause bits of FENCE_STATUS stand above its phase. -/
theorem phaseOf_setFlag_status (hr : domainRoot d = some r) {b : Nat} (h3 : 3 ≤ b) (h32 : b < 32) (v : Bool) (e : Nat) :
    phaseOf (setFlag r Off.FENCE_STATUS b v s) e = phaseOf s e := by
  by_cases hne : e = d
  · subst hne
    rw [phaseOf_root hr, phaseOf_root hr]
    exact fld_setFlag_below r v h32 (by omega)
  · exact phaseOf_wr_status hr _ hne

theorem flag_setPhase (hr : domainRoot d = some r) (n : Nat) {b : Nat} (h3 : 3 ≤ b) :
    flag (setPhase d n s) r Off.FENCE_STATUS b = flag s r Off.FENCE_STATUS b := by
  unfold setPhase
  rw [hr]
  exact flag_setFld_above r n (by decide) h3

end

/-! ## What a cause does to a domain (R80) -/

/-- What the causes of fences leave: FENCE_CTRL is as it was, no event and no cause that stands is cleared, and a domain's phase is its old
one or 1. -/
structure CausesOnly (s t : State) : Prop where
  ctrl_eq : ∀ p, rd t p Off.FENCE_CTRL = rd s p Off.FENCE_CTRL
  raised : ∀ p b, Raised p b s → Raised p b t
  cause : ∀ p b, 3 ≤ b → flag s p Off.FENCE_STATUS b = true → flag t p Off.FENCE_STATUS b = true
  phase : ∀ e, phaseOf t e = phaseOf s e ∨ phaseOf t e = 1

namespace CausesOnly
variable {s t u : State}

theorem trans (h : CausesOnly s t) (h' : CausesOnly t u) : CausesOnly s u where
  ctrl_eq p := (h'.ctrl_eq p).trans (h.ctrl_eq p)
  raised p b hb := h'.raised p b (h.raised p b hb)
  cause p b h3 hb := h'.cause p b h3 (h.cause p b h3 hb)
  phase e := (h'.phase e).elim (fun e' => (h.phase e).imp e'.trans e'.trans) .inr

theorem of_kept (h : FenceKept s t) : CausesOnly s t where
  ctrl_eq p := h.rd_eq p _ (.head _)
  raised := h.raised
  cause p b _ hb := (h.flag_eq p (.tail _ (.head _)) b).trans hb
  phase e := .inl (h.phaseOf_eq e)

theorem refl (s : State) : CausesOnly s s := .of_kept (.refl s)

theorem foldl {β : Type} {f : State → β → State} (hf : ∀ s b, CausesOnly s (f s b)) (l : List β) (s : State) :
    CausesOnly s (l.foldl f s) := by
  induction l generalizing s with
  | nil => exact .refl s
  | cons b r ih => exact (hf s b).trans (ih _)

/-- A domain in phase 1 stays there. -/
theorem phase_one (h : CausesOnly s t) {e : Nat} (h1 : phaseOf s e = 1) : phaseOf t e = 1 := (h.phase e).elim (·.trans h1) id

end CausesOnly

section
variable {s : State} {d c : Nat} {r : Page} (hr : domainRoot d = some r)
include hr

/-- A write of FENCE_STATUS that clears no cause and leaves the phase or makes it 1. -/
theorem causesOnly_wr {t : State} {v : Word} (ht : t = wr r Off.FENCE_STATUS v s)
    (hcause : ∀ b, 3 ≤ b → flag s r Off.FENCE_STATUS b = true → flag t r Off.FENCE_STATUS b = true)
    (hphase : phaseOf t d = phaseOf s d ∨ phaseOf t d = 1) : CausesOnly s t where
  ctrl_eq p := by rw [ht]; exact rd_wr_off_ne v (by decide) (by decide) (by decide)
  raised p b hb := by
    rw [ht]
    exact (flag_congr (rd_wr_off_ne v (by decide) (by decide) (by decide))).trans hb
  cause p b h3 hb := by
    by_cases e : pageBase p = pageBase r
    · unfold flag fld rd at *
      rw [e] at hb ⊢
      exact hcause b h3 hb
    · rw [ht]
      exact (flag_congr (reg_wr_ne v fun h => e (by omega))).trans hb
  phase e := by
    by_cases hne : e = d
    · exact hne ▸ hphase
    · exact .inl (by rw [ht]; exact phaseOf_wr_status hr v hne)

theorem causesOnly_setCause (h3 : 3 ≤ c) (h32 : c < 32) : CausesOnly s (setFlag r Off.FENCE_STATUS c true s) := by
  refine causesOnly_wr hr rfl (fun b _ hb => ?_) (.inl (phaseOf_setFlag_status hr h3 h32 true d))
  by_cases e : b = c
  · rw [e]; exact flag_setFlag_same r Off.FENCE_STATUS c true h32
  · exact (flag_setFlag_ne r true h32 e).trans hb

theorem causesOnly_setPhase : CausesOnly s (setPhase d 1 s) := by
  have hwr : setPhase d 1 s = wr r Off.FENCE_STATUS (putField (rd s r Off.FENCE_STATUS) 0 3 1) s := by
    unfold setPhase; rw [hr]; rfl
  exact causesOnly_wr hr hwr (fun b h3 hb => (flag_setPhase hr 1 h3).trans hb) (.inr (phaseOf_setPhase_same hr 1))

end

theorem phaseOf_withMgmt (l : List Nat) (s : State) (e : Nat) : phaseOf (withMgmt l s) e = phaseOf s e := rfl

theorem phaseOf_updFence (d : Nat) (f : FenceSt → FenceSt) (s : State) (e : Nat) : phaseOf (updFence d f s) e = phaseOf s e := rfl

theorem fenceKept_updFence (d : Nat) (f : FenceSt → FenceSt) (s : State) : FenceKept s (updFence d f s) := .of_regs rfl rfl

/-- The start of a fence, after its count and its record among the fences. -/
theorem fenceStart_eq (d c : Nat) (cascade : Option Nat) (s : State) :
    ∃ u, FenceKept s u ∧
      fenceStart d c cascade s = (setPhase d 1 u |> fenceRecord d 1 2 |> raise pgFc Evt.FC_FENCE |> endWork d) :=
  ⟨_, (FenceKept.ite (.refl s) ((FenceKept.refl s).bump 1 (by decide) (by decide))).trans (fenceKept_updFence ..), rfl⟩

/-- A fence begins: its phase becomes 1 and its event is raised. -/
theorem fenceStart_begins (d c : Nat) (cascade : Option Nat) (s : State) :
    ∃ u, FenceKept s u ∧ FenceKept (setPhase d 1 u) (fenceStart d c cascade s) ∧
      Raised pgFc Evt.FC_FENCE (fenceStart d c cascade s) := by
  obtain ⟨u, hu, ht⟩ := fenceStart_eq d c cascade s
  refine ⟨u, hu, ?_, ?_⟩
  · rw [ht]; exact ((fenceKept_formRec ..).raise _ (by decide)).trans (fenceKept_endWork ..)
  · rw [ht]; exact (fenceKept_endWork ..).raised _ _ (flag_raise_same _ _ (by decide) (by decide))

section
variable {s : State} {d c : Nat} {r : Page} (hr : domainRoot d = some r)
include hr

theorem fenceStart_causesOnly (cascade : Option Nat) : CausesOnly s (fenceStart d c cascade s) := by
  obtain ⟨u, hu, ht, -⟩ := fenceStart_begins d c cascade s
  exact ((CausesOnly.of_kept hu).trans (causesOnly_setPhase hr)).trans (.of_kept ht)

theorem phaseOf_fenceStart_same (cascade : Option Nat) : phaseOf (fenceStart d c cascade s) d = 1 := by
  obtain ⟨u, -, ht, -⟩ := fenceStart_begins d c cascade s
  rw [ht.phaseOf_eq, phaseOf_setPhase_same hr]

end

theorem phaseOf_fenceStart_ne {s : State} {d c e : Nat} (cascade : Option Nat) (hne : e ≠ d) :
    phaseOf (fenceStart d c cascade s) e = phaseOf s e := by
  obtain ⟨u, hu, ht, -⟩ := fenceStart_begins d c cascade s
  rw [ht.phaseOf_eq, phaseOf_setPhase_ne 1 hne, hu.phaseOf_eq]

/-- A cause reaches a live domain: what it leaves before a fence begins. -/
def causeNoted (d c : Nat) (r : Page) (s : State) : State :=
  setFlag r Off.FENCE_STATUS c true (if phaseOf s d = 5 ∧ c = 3 then replayHang d s else s)

theorem fenceKept_replayHang (d : Nat) (s : State) : FenceKept s (replayHang d s) := .ite (fenceKept_updFence ..) (.refl s)

section
variable {s : State} {d c : Nat} {r : Page} (cascade : Option Nat)

theorem causeHere_eq (hr : domainRoot d = some r) :
    causeHere d c cascade s =
      if !domainLive s d then (false, s)
      else if phaseOf s d != 0 && c == 4 && cascade.isNone && !joins s d then (false, s)
      else if phaseOf (causeNoted d c r s) d = 0 ∨ phaseOf (causeNoted d c r s) d = 5 then
        (true, fenceStart d c cascade (causeNoted d c r s))
      else if reran (causeNoted d c r s) d then
        (false, updFence d (fun f => { f with rerun := f.rerun ++ [c] }) (causeNoted d c r s))
      else (false, causeNoted d c r s) := by
  unfold causeHere; rw [hr]; rfl

/-- A cause is none for the domain, or it is noted, and then a fence begins where none runs or one is held. -/
theorem causeHere_cases (hr : domainRoot d = some r) :
    (causeHere d c cascade s).2 = s ∨
      (causeHere d c cascade s).2 = fenceStart d c cascade (causeNoted d c r s) ∨
      FenceKept (causeNoted d c r s) (causeHere d c cascade s).2 := by
  rw [causeHere_eq cascade hr]
  split
  · exact .inl rfl
  · split
    · exact .inl rfl
    · split
      · exact .inr (.inl rfl)
      · split
        · exact .inr (.inr (.of_regs rfl rfl))
        · exact .inr (.inr (.refl _))

theorem causeNoted_kept (d c : Nat) (r : Page) (s : State) :
    ∃ u, FenceKept s u ∧ causeNoted d c r s = setFlag r Off.FENCE_STATUS c true u :=
  ⟨_, .ite (fenceKept_replayHang d s) (.refl s), rfl⟩

variable (h3 : 3 ≤ c) (h32 : c < 32)
include h3 h32

theorem causesOnly_causeNoted (hr : domainRoot d = some r) : CausesOnly s (causeNoted d c r s) := by
  obtain ⟨u, hu, hn⟩ := causeNoted_kept d c r s
  exact hn ▸ (CausesOnly.of_kept hu).trans (causesOnly_setCause hr h3 h32)

theorem phaseOf_causeNoted (hr : domainRoot d = some r) (e : Nat) : phaseOf (causeNoted d c r s) e = phaseOf s e := by
  obtain ⟨u, hu, hn⟩ := causeNoted_kept d c r s
  rw [hn, phaseOf_setFlag_status hr h3 h32, hu.phaseOf_eq]

theorem causesOnly_causeHere : CausesOnly s (causeHere d c cascade s).2 := by
  cases hr : domainRoot d with
  | none => unfold causeHere; rw [hr]; exact .refl s
  | some r =>
    have hnoted : CausesOnly s (causeNoted d c r s) := causesOnly_causeNoted h3 h32 hr
    rcases causeHere_cases (s := s) cascade hr with h | h | h
    · rw [h]; exact .refl s
    · rw [h]; exact hnoted.trans (fenceStart_causesOnly hr cascade)
    · exact hnoted.trans (.of_kept h)

theorem phaseOf_causeHere_ne {e : Nat} (hne : e ≠ d) : phaseOf (causeHere d c cascade s).2 e = phaseOf s e := by
  cases hr : domainRoot d with
  | none => unfold causeHere; rw [hr]
  | some r =>
    have hnoted := phaseOf_causeNoted (s := s) h3 h32 hr e
    rcases causeHere_cases (s := s) cascade hr with h | h | h
    · rw [h]
    · rw [h, phaseOf_fenceStart_ne cascade hne, hnoted]
    · rw [h.phaseOf_eq, hnoted]

/-- A cause of a live domain, not fenced, or in phase 1 where the cause is no FENCE: the fence runs, with its cause. -/
theorem causeHere_begins (hr : domainRoot d = some r) (hlive : domainLive s d = true)
    (hphase : phaseOf s d = 0 ∨ phaseOf s d = 1 ∧ c ≠ 4) :
    phaseOf (causeHere d c cascade s).2 d = 1 ∧ flag (causeHere d c cascade s).2 r Off.FENCE_STATUS c = true := by
  have hnoted := phaseOf_causeNoted (s := s) h3 h32 hr d
  have hcause : flag (causeNoted d c r s) r Off.FENCE_STATUS c = true := flag_setFlag_same r _ c true h32
  have htaken : (phaseOf s d != 0 && c == 4 && cascade.isNone && !joins s d) = false := by
    rcases hphase with h | ⟨-, h⟩ <;> simp [h]
  rw [causeHere_eq cascade hr, hlive, htaken, hnoted]
  rcases hphase with h | ⟨h, -⟩
  · rw [h]
    exact ⟨phaseOf_fenceStart_same hr cascade, (fenceStart_causesOnly hr cascade).cause r c h3 hcause⟩
  · rw [h]
    simp only [Bool.not_true, Bool.false_eq_true, if_false, OfNat.one_ne_ofNat, one_ne_zero, or_self]
    split
    · exact ⟨by rw [phaseOf_updFence, hnoted, h], hcause⟩
    · exact ⟨hnoted.trans h, hcause⟩

end

/-! ## A cause and the domains that it takes with it -/

theorem domainLive_causeHere (d c : Nat) (cascade : Option Nat) (s : State) (e : Nat) :
    domainLive (causeHere d c cascade s).2 e = domainLive s e := by
  have hkeeps := keeps_causeHere (N := 0x21e04a) rfl d c cascade s (.refl _ s)
  unfold domainLive pageOn domOn
  rw [hkeeps.same .part rfl, hkeeps.same .pwr rfl]

theorem domainLive_causeAt (d c : Nat) (s : State) (e : Nat) : domainLive (causeAt d c s) e = domainLive s e := by
  have hkeeps := keeps_causeAt (N := 0x21e04a) rfl d c s (.refl _ s)
  unfold domainLive pageOn domOn
  rw [hkeeps.same .part rfl, hkeeps.same .pwr rfl]

section
variable {s : State} {d c : Nat} (h3 : 3 ≤ c) (h32 : c < 32)
include h3 h32

/-- The causes of the cascade follow the domain's own. -/
theorem causesOnly_cascade (l : List Nat) : CausesOnly s (l.foldl (fun s e => (causeHere e c (some d) s).2) s) :=
  .foldl (fun _ _ => causesOnly_causeHere _ h3 h32) l s

theorem causeAt_after : CausesOnly (causeHere d c none s).2 (causeAt d c s) := by
  unfold causeAt
  dsimp only
  split
  · exact causesOnly_cascade h3 h32 _
  · exact .refl _

theorem causesOnly_causeAt : CausesOnly s (causeAt d c s) := (causesOnly_causeHere none h3 h32).trans (causeAt_after h3 h32)

theorem causeAt_begins {r : Page} (hr : domainRoot d = some r) (hlive : domainLive s d = true)
    (hphase : phaseOf s d = 0 ∨ phaseOf s d = 1 ∧ c ≠ 4) :
    phaseOf (causeAt d c s) d = 1 ∧ flag (causeAt d c s) r Off.FENCE_STATUS c = true := by
  obtain ⟨h1, hcause⟩ := causeHere_begins none h3 h32 hr hlive hphase
  exact ⟨(causeAt_after h3 h32).phase_one h1, (causeAt_after h3 h32).cause r c h3 hcause⟩

theorem phaseOf_causeAt_ne {e : Nat} (hne : e ≠ d) (hcas : e ∉ cascadeOf d) : phaseOf (causeAt d c s) e = phaseOf s e := by
  have hfold (l : List Nat) (hl : e ∉ l) (u : State) :
      phaseOf (l.foldl (fun s x => (causeHere x c (some d) s).2) u) e = phaseOf u e := by
    induction l generalizing u with
    | nil => rfl
    | cons x l ih =>
      obtain ⟨hx, hl⟩ := List.ne_and_not_mem_of_not_mem_cons hl
      exact (ih hl _).trans (phaseOf_causeHere_ne _ h3 h32 hx)
  have hhere := phaseOf_causeHere_ne (s := s) none h3 h32 hne
  unfold causeAt
  dsimp only
  split
  · rw [hfold _ hcas, hhere]
  · exact hhere

end

/-- The fence that a FENCE begins raises its event. -/
theorem raised_causeAt {s : State} {d : Nat} {r : Page} (hr : domainRoot d = some r) (hlive : domainLive s d = true)
    (h0 : phaseOf s d = 0) : Raised pgFc Evt.FC_FENCE (causeAt d 4 s) := by
  refine (causeAt_after (by decide) (by decide)).raised _ _ ?_
  have hnoted := (phaseOf_causeNoted (s := s) (c := 4) (by decide) (by decide) hr d).trans h0
  obtain ⟨-, -, -, hraised⟩ := fenceStart_begins d 4 none (causeNoted d 4 r s)
  rw [causeHere_eq none hr, hlive, h0, hnoted]
  exact hraised

/-- A timeout's cause at a list of domains: each that is live and not fenced is in phase 1, with its cause. -/
theorem timeouts_begin (l : List Nat) {s : State} {d : Nat} {r : Page} (hr : domainRoot d = some r) (hd : d ∈ l)
    (hlive : domainLive s d = true) (hphase : phaseOf s d = 0 ∨ phaseOf s d = 1) :
    phaseOf (l.foldl (fun s d => causeAt d 3 s) s) d = 1 ∧
      flag (l.foldl (fun s d => causeAt d 3 s) s) r Off.FENCE_STATUS 3 = true := by
  have hone (u : State) (x : Nat) : CausesOnly u (causeAt x 3 u) := causesOnly_causeAt (by decide) (by decide)
  induction l generalizing s with
  | nil => exact absurd hd List.not_mem_nil
  | cons x l ih =>
    rw [List.foldl_cons]
    by_cases e : d = x
    · subst e
      obtain ⟨h1, hcause⟩ := causeAt_begins (c := 3) (by decide) (by decide) hr hlive (hphase.imp id fun h => ⟨h, by decide⟩)
      have hrest : CausesOnly (causeAt d 3 s) (l.foldl (fun s d => causeAt d 3 s) (causeAt d 3 s)) := .foldl hone l _
      exact ⟨hrest.phase_one h1, hrest.cause r 3 (by decide) hcause⟩
    · refine ih ((List.mem_cons.mp hd).resolve_left e) ((domainLive_causeAt ..).trans hlive) ?_
      rcases (hone s x).phase d with h | h
      · exact hphase.imp h.trans h.trans
      · exact .inr h

/-! ## FENCE and RELEASE (R79, R543) -/

/-- The word of a FENCE or RELEASE: the two bits of its request and the field of the drain. -/
theorem fenceWord_fields {b x : Nat} (hb : b < 4) (hx : x < 65536) :
    bitOf (BitVec.ofNat 32 (b + 256 * x)) 0 = bitAt b 0 ∧ bitOf (BitVec.ofNat 32 (b + 256 * x)) 1 = bitAt b 1 ∧
      fieldOf (BitVec.ofNat 32 (b + 256 * x)) 8 16 = x := by
  have hv : (BitVec.ofNat 32 (b + 256 * x)).toNat = b + 256 * x := by rw [BitVec.toNat_ofNat]; omega
  unfold bitOf fieldOf bitAt bitsAt
  rw [hv]
  refine ⟨congrArg (· == 1) ?_, congrArg (· == 1) ?_, ?_⟩ <;> omega

/-- A page that takes an access is fitted and supplied. -/
theorem supplied_of_reach {s : State} {w : Func} {p : Page} {off : Nat} (h : reach s w p off = .ok) :
    pagePresent s.part p = true ∧ (if keeperReg p off then domOn s 0 else pageOn s p) = true := by
  unfold reach at h
  dsimp only at h
  split at h
  · next hl => exact absurd h hl
  · split at h
    · cases h
    · next hp =>
      split at h
      · cases h
      · split at h
        · cases h
        · refine ⟨by simpa using (not_or.mp (mt (Bool.or_eq_true ..).mpr hp)).1, ?_⟩
          by_contra hoff
          rw [if_pos (by simpa using hoff)] at h
          cases h

section
variable {s : State} {w : Func} {p : Page} (hw : w = .pf ∨ w = .mgmt) (hroot : domainRoot (pageDomain p) = some p)
  (h : Admitted s w p Off.FENCE_CTRL)

include hroot h in
theorem domainLive_of_admitted : domainLive s (pageDomain p) = true := by
  have hkeeper : keeperReg p Off.FENCE_CTRL = false := by
    obtain ⟨c, n⟩ := p
    cases c
    case tableTime => exact absurd hroot (by simp [pageDomain, domainRoot])
    case power => exact absurd hroot (by simp [pageDomain, domainRoot])
    all_goals rfl
  obtain ⟨hp, hon⟩ := supplied_of_reach h.1
  rw [hkeeper] at hon
  unfold domainLive
  rw [hroot]
  exact Bool.and_eq_true_iff.mpr ⟨hp, hon⟩

include hw hroot in
/-- FENCE_CTRL with its bit FENCE, in a domain that is open: the drain field is kept and the cause taken. -/
theorem fenceCtrlWrite_fence {u : State} {x : Nat} (hx : x < 65536) (h0 : phaseOf u (pageDomain p) = 0) :
    fenceCtrlWrite w p (BitVec.ofNat 32 (1 + 256 * x)) u = causeAt (pageDomain p) 4 (setFld p Off.FENCE_CTRL 8 16 x u) := by
  obtain ⟨hfence, hrelease, hdrain⟩ := fenceWord_fields (b := 1) (by decide) hx
  have hfunc : (w == .pf || w == .mgmt) = true := by rcases hw with rfl | rfl <;> rfl
  unfold fenceCtrlWrite isRoot
  simp only [hroot, hfunc, hfence, hrelease, hdrain, h0, bitAt, bitsAt]
  simp

include hw hroot in
/-- FENCE_CTRL with its bit RELEASE: the drain field is kept and the domain released. -/
theorem fenceCtrlWrite_release {u : State} {x : Nat} (hx : x < 65536) :
    fenceCtrlWrite w p (BitVec.ofNat 32 (2 + 256 * x)) u = release w (pageDomain p) (setFld p Off.FENCE_CTRL 8 16 x u) := by
  obtain ⟨hfence, hrelease, hdrain⟩ := fenceWord_fields (b := 2) (by decide) hx
  have hfunc : (w == .pf || w == .mgmt) = true := by rcases hw with rfl | rfl <;> rfl
  unfold fenceCtrlWrite isRoot
  simp only [hroot, hfunc, hfence, hrelease, hdrain, bitAt, bitsAt]
  simp

/-- A write of FENCE_CTRL leaves every phase. -/
theorem phaseOf_setFld_ctrl (u : State) (lo n x e : Nat) : phaseOf (setFld p Off.FENCE_CTRL lo n x u) e = phaseOf u e := by
  unfold phaseOf
  split
  · exact fld_congr (rd_wr_off_ne _ (by decide) (by decide) (by decide))
  · rfl

include hw hroot h in
theorem runs_fence (drain : Nat) (h0 : phaseOf s (pageDomain p) = 0) : Runs (.fence w p drain) s fun t =>
    phaseOf t (pageDomain p) = 1 ∧ flag t p Off.FENCE_STATUS 4 = true ∧ fld t p Off.FENCE_CTRL 8 16 = drain % 65536 ∧
      Raised pgFc Evt.FC_FENCE t ∧ ∀ e, e ≠ pageDomain p → e ∉ cascadeOf (pageDomain p) → phaseOf t e = phaseOf s e := by
  have hx : drain % 65536 < 65536 := Nat.mod_lt _ (by decide)
  refine runs_of_access rfl h fun u l hu => ?_
  rw [fenceCtrlWrite_fence hw hroot hx ((hu.phaseOf_eq _).trans h0)]
  set v := setFld p Off.FENCE_CTRL 8 16 (drain % 65536) u with hv
  have hphase (e : Nat) : phaseOf v e = phaseOf s e := (phaseOf_setFld_ctrl u 8 16 _ e).trans (hu.phaseOf_eq e)
  have hlive : domainLive v (pageDomain p) = true := by
    rw [← domainLive_of_admitted hroot h]
    exact (congrArg (fun t => domainLive t (pageDomain p)) hu.rest).trans rfl
  have h0v := (hphase _).trans h0
  obtain ⟨h1, hcause⟩ := causeAt_begins (c := 4) (by decide) (by decide) hroot hlive (.inl h0v)
  refine ⟨h1, hcause, ?_, raised_causeAt hroot hlive h0v, fun e hne hcas => ?_⟩
  · have hdrain : fld v p Off.FENCE_CTRL 8 16 = drain % 65536 := (fld_setFld_same p _ 8 16 _ (by decide)).trans (Nat.mod_mod _ _)
    exact (fld_congr ((causesOnly_causeAt (by decide) (by decide)).ctrl_eq p)).trans hdrain
  · exact (phaseOf_causeAt_ne (by decide) (by decide) hne hcas).trans (hphase e)

end

/-- The fault collector forgets the fence of a domain. -/
def forgetFence (d : Nat) (s : State) : State := { s with fc := { s.fc with fences := s.fc.fences.filter fun e => e.1 != d } }

/-- A domain is not fenced any more: its phase and causes are cleared, its fence is forgotten, and no replay waits for it. -/
def unfenced (d : Nat) (r : Page) (s : State) : State :=
  let s := forgetFence d (wr r Off.FENCE_STATUS 0 s)
  if fld s pgFc Off.FC_REPLAY 16 8 = d then setFlag pgFc Off.FC_REPLAY 31 false s else s

theorem fenceKept_fenceRecord (d code severity : Nat) (s : State) : FenceKept s (fenceRecord d code severity s) := fenceKept_formRec ..

theorem recorded_fenceRecord (d code severity : Nat) (s : State) : Recorded 8 code severity d (fenceRecord d code severity s) := by
  unfold Recorded fenceRecord
  rw [head_formRec]
  rfl

theorem fenceRecord_queues (d code severity : Nat) (s : State) : (fenceRecord d code severity s).queues = s.queues :=
  (keeps_formRec (N := 0x4a) rfl _ s (.refl _ s)).same .queues rfl

theorem fences_formRec (r : FaultRec) (s : State) : (formRec r s).fc.fences = s.fc.fences := by
  unfold formRec
  dsimp only
  rw [apply_ite State.fc]
  simp only [raise_fc, bump_fc, ite_self]

section
variable {s : State} {d : Nat} {r : Page}

/-- A release in phase 5, where no fence of a cascade is open before it. -/
theorem release_held (hr : domainRoot d = some r) (h5 : phaseOf s d = 5)
    (hcas : ∀ n, (fenceOf s d).cascade = some n → phaseOf s n = 0) (w : Func) :
    release w d s = settleQueues (fun _ => true) (fenceRecord d 0 3 (unfenced d r s)) := by
  have hreran : reran s d = false := by unfold reran; rw [h5]; rfl
  unfold release
  rw [hr]
  simp only [hreran, Bool.false_eq_true, if_false, h5, ne_eq, not_true, false_and]
  cases hc : (fenceOf s d).cascade with
  | none => rfl
  | some n => simp only [hcas n hc]; rfl

theorem unfenced_queues (d : Nat) (r : Page) (s : State) : (unfenced d r s).queues = s.queues := by
  have hforgotten : (forgetFence d (wr r Off.FENCE_STATUS 0 s)).queues = s.queues := wr_queues s r Off.FENCE_STATUS 0
  unfold unfenced
  dsimp only
  rw [apply_ite State.queues, setFlag_queues, hforgotten, ite_self]

theorem unfenced_fences (d : Nat) (r : Page) (s : State) : ∀ e ∈ (unfenced d r s).fc.fences, e.1 ≠ d := by
  have hfences : (unfenced d r s).fc.fences = s.fc.fences.filter fun e => e.1 != d := by
    unfold unfenced
    dsimp only
    split <;> rfl
  intro e he
  rw [hfences] at he
  simpa using (List.mem_filter.mp he).2

theorem fenceKept_forgetFence (d : Nat) (s : State) : FenceKept s (forgetFence d s) := .of_regs rfl rfl

theorem fenceKept_unfenced (d : Nat) (r : Page) (s : State) : FenceKept (wr r Off.FENCE_STATUS 0 s) (unfenced d r s) :=
  .ite ((fenceKept_forgetFence ..).setFlag 31 false (by decide) (by decide)) (fenceKept_forgetFence ..)

/-- The phases after the release: the domain is open, the others are as they were. -/
theorem phaseOf_unfenced (hr : domainRoot d = some r) (e : Nat) :
    phaseOf (settleQueues (fun _ => true) (fenceRecord d 0 3 (unfenced d r s))) e = if e = d then 0 else phaseOf s e := by
  have hkept := ((fenceKept_unfenced d r s).trans (fenceKept_fenceRecord d 0 3 _)).trans (fenceKept_settleQueues (fun _ => true) _)
  refine (hkept.phaseOf_eq e).trans ?_
  split
  · next he =>
    rw [he, phaseOf_root hr]
    unfold fld
    rw [rd_wr_same]
    rfl
  · next he => exact phaseOf_wr_status hr 0 he

end

section
variable {s : State} {w : Func} {p : Page} (hw : w = .pf ∨ w = .mgmt) (hroot : domainRoot (pageDomain p) = some p)
  (h : Admitted s w p Off.FENCE_CTRL)
include hw hroot h

theorem runs_release (drain : Nat) (h5 : phaseOf s (pageDomain p) = 5)
    (hcas : ∀ n, (fenceOf s (pageDomain p)).cascade = some n → phaseOf s n = 0) : Runs (.release w p drain) s fun t =>
      phaseOf t (pageDomain p) = 0 ∧ (∀ e ∈ t.fc.fences, e.1 ≠ pageDomain p) ∧ (s.queues = [] → Recorded 8 0 3 (pageDomain p) t) ∧
        ∀ e, e ≠ pageDomain p → phaseOf t e = phaseOf s e := by
  have hx : drain % 65536 < 65536 := Nat.mod_lt _ (by decide)
  refine runs_of_access rfl h fun u l hu => ?_
  rw [fenceCtrlWrite_release hw hroot hx]
  set v := setFld p Off.FENCE_CTRL 8 16 (drain % 65536) u with hv
  have hphase (e : Nat) : phaseOf v e = phaseOf s e := (phaseOf_setFld_ctrl u 8 16 _ e).trans (hu.phaseOf_eq e)
  have hfence : fenceOf v (pageDomain p) = fenceOf s (pageDomain p) :=
    (congrArg (fun t => fenceOf t (pageDomain p)) hu.rest).trans rfl
  have hqueues : v.queues = s.queues := hu.queues_eq
  rw [release_held hroot ((hphase _).trans h5) fun n hn => (hphase n).trans (hcas n (hfence ▸ hn))]
  generalize v = v at *
  have hopen (e : Nat) := phaseOf_unfenced (s := v) hroot e
  refine ⟨by rw [phaseOf_withMgmt, hopen, if_pos rfl], fun e he => ?_, fun hq => ?_,
    fun e hne => by rw [phaseOf_withMgmt, hopen, if_neg hne, hphase]⟩
  · have hfc : (settleQueues (fun _ => true) (fenceRecord (pageDomain p) 0 3 (unfenced (pageDomain p) p v))).fc =
        (fenceRecord (pageDomain p) 0 3 (unfenced (pageDomain p) p v)).fc :=
      (keeps_settleQueues (N := 0x14000a) rfl _ _ (.refl _ _)).same .fc rfl
    refine unfenced_fences (pageDomain p) p v e ?_
    rw [← fences_formRec]
    exact hfc ▸ he
  · have hnil : (fenceRecord (pageDomain p) 0 3 (unfenced (pageDomain p) p v)).queues = [] := by
      rw [fenceRecord_queues, unfenced_queues, hqueues, hq]
    rw [settleQueues_nil hnil]
    exact recorded_fenceRecord ..

end

/-! ## A command that runs over its timeout (R80, R86) -/

/-- A page's outstanding commands replaced by a list. -/
def withCmds (p : Page) (l : List CmdSt) (s : State) : State :=
  { s with head := { s.head with cmds := sset [] s.head.cmds (pageBase p) l } }

/-- The state in which a timeout's fences begin: the command's timer is spent, the event raised and the record taken. -/
def timedOut (p : Page) (l : List CmdSt) (r : FaultRec) (s : State) : State := formRec r (raise p 3 (withCmds p l s))

section
variable {s : State} (p : Page) (l : List CmdSt) (r : FaultRec)

theorem fenceKept_timedOut : FenceKept s (timedOut p l r s) := by
  have hcmds : FenceKept s (withCmds p l s) := .of_regs rfl rfl
  exact (hcmds.raise p (by decide)).trans (fenceKept_formRec ..)

theorem raised_timedOut : Raised p 3 (timedOut p l r s) := (fenceKept_formRec ..).raised p 3 (flag_raise_deal p le_rfl)

theorem keeps_timedOut : Keeps 0x4a (withCmds p l s) (timedOut p l r s) :=
  keeps_formRec (N := 0x4a) rfl r _ (keeps_raise (N := 0x4a) rfl p 3 _ (.refl _ _))

theorem domainLive_timedOut (d : Nat) : domainLive (timedOut p l r s) d = domainLive s d := by
  have hkeeps := keeps_timedOut (s := s) p l r
  unfold domainLive pageOn domOn
  rw [hkeeps.same .part rfl, hkeeps.same .pwr rfl]
  rfl

theorem workDomains_timedOut (c : Nat) : workDomains (timedOut p l r s) c = workDomains s c := by
  have hkeeps := keeps_timedOut (s := s) p l r
  unfold workDomains
  rw [hkeeps.same .part rfl, hkeeps.same .tiles rfl, hkeeps.same .stems rfl, hkeeps.same .queues rfl]
  rfl

end

/-- The domains that a command of a page fences when it runs over its timeout. -/
def timeoutDomains (s : State) (p : Page) : List Nat := if p.cls = .context then workDomains s p.idx else [pageDomain p]

/-- A command that is due: its timeout fences the domains of its page or of its context's work, one after the other. -/
theorem execCmdTimeout_due {s : State} {p : Page} {id : Nat} {c : CmdSt} (hp : pagePresent s.part p = true) (hon : pageOn s p = true)
    (htime : hasTimeout p = true) (hc : c ∈ cmdsOf s p) (hid : c.id = id) (hticks : c.ticks ≠ 0)
    (hdue : elapsed s c.accept c.ticks = true) :
    ∃ l r, execCmdTimeout p id s = (timeoutDomains s p).foldl (fun s d => causeAt d 3 s) (timedOut p l r s) := by
  have hany : (cmdsOf s p).any (fun c => c.id == id && c.ticks != 0 && elapsed s c.accept c.ticks) = true :=
    List.any_eq_true.mpr ⟨c, hc, by simp [hid, hticks, hdue]⟩
  have hguard : ¬(!(pagePresent s.part p && pageOn s p && hasTimeout p &&
      (cmdsOf s p).any fun c => c.id == id && c.ticks != 0 && elapsed s c.accept c.ticks)) = true := by
    simp only [hp, hon, htime, hany, Bool.and_self, Bool.not_true, Bool.false_eq_true, not_false_eq_true]
  obtain ⟨l, r, ht⟩ : ∃ l r, execCmdTimeout p id s =
      if p.cls = .context then (workDomains (timedOut p l r s) p.idx).foldl (fun s d => causeAt d 3 s) (timedOut p l r s)
      else causeAt (pageDomain p) 3 (timedOut p l r s) := ⟨_, _, if_neg hguard⟩
  refine ⟨l, r, ht.trans ?_⟩
  rw [workDomains_timedOut]
  unfold timeoutDomains
  split <;> rfl

theorem runs_cmdTimeout {s : State} {p : Page} {id : Nat} {c : CmdSt} (hp : pagePresent s.part p = true) (hon : pageOn s p = true)
    (htime : hasTimeout p = true) (hc : c ∈ cmdsOf s p) (hid : c.id = id) (hticks : c.ticks ≠ 0)
    (hdue : elapsed s c.accept c.ticks = true) : Runs (.cmdTimeout p id) s fun t =>
      Raised p 3 t ∧ ∀ d ∈ timeoutDomains s p, domainLive s d = true → phaseOf s d = 0 →
        phaseOf t d = 1 ∧ ∀ r, domainRoot d = some r → flag t r Off.FENCE_STATUS 3 = true := by
  obtain ⟨l, r, ht⟩ := execCmdTimeout_due hp hon htime hc hid hticks hdue
  refine ⟨_, congrArg Host.Outcome.next ht, ?_, fun d hd hlive h0 => ?_⟩
  · have hall : CausesOnly (timedOut p l r s) ((timeoutDomains s p).foldl (fun s d => causeAt d 3 s) (timedOut p l r s)) :=
      .foldl (fun _ _ => causesOnly_causeAt (by decide) (by decide)) _ _
    exact hall.raised p 3 (raised_timedOut p l r)
  · have hlive' := (domainLive_timedOut p l r d).trans hlive
    have h0' := ((fenceKept_timedOut p l r).phaseOf_eq d).trans h0
    obtain ⟨q, hq⟩ : ∃ q, domainRoot d = some q := by
      unfold domainLive at hlive
      cases hr : domainRoot d with
      | none => rw [hr] at hlive; cases hlive
      | some q => exact ⟨q, rfl⟩
    obtain ⟨h1, hcause⟩ := timeouts_begin _ hq hd hlive' (.inl h0')
    refine ⟨h1, fun q' hq' => ?_⟩
    obtain rfl : q = q' := Option.some.inj (hq.symm.trans hq')
    exact hcause

end Sys2Proof.Machine
end

section
/-! # Register writes by address (R89) -/
namespace Sys2Proof.Machine

/-! ## The register map: the address of a page's register is that of its page and offset -/

theorem iodPage_base {die k : Nat} {p : Page} (hdie : die < 2) (h : iodPage die k = some p) :
    pageBase p = 0x100000 * (die + 1) + 0x1000 * k ∧ p.cls ≠ .context := by
  unfold iodPage at h
  split at h
  · next h0 =>
    subst h0
    split at h <;> cases h <;> exact ⟨rfl, by decide⟩
  · next h1 =>
    obtain rfl : die = 1 := by omega
    split at h <;> cases h <;> exact ⟨rfl, by decide⟩

theorem pageOf_address {a off : Nat} {p : Page} (h : pageOf a = some (p, off)) :
    pageBase p + off = a ∧ a < 0x02000000 ∧ (p.cls ≠ .context → off < 0x1000) := by
  unfold pageOf at h
  dsimp only at h
  split at h
  · generalize hk : a / 0x1000 = k at h
    have hlt : k < 6 := by omega
    interval_cases k <;> cases h <;> exact ⟨by simp only [pageBase]; omega, by omega, fun _ => Nat.mod_lt _ (by decide)⟩
  · split at h
    · next hiod =>
      obtain ⟨q, hq, hp⟩ := Option.map_eq_some_iff.mp h
      cases hp
      obtain ⟨hbase, -⟩ := iodPage_base (by omega) hq
      exact ⟨by omega, by omega, fun _ => Nat.mod_lt _ (by decide)⟩
    · split at h
      · split at h
        · generalize hk : a % 0x100000 / 0x1000 % 4 = k at h
          have hlt : k < 4 := by omega
          interval_cases k <;> cases h <;>
            exact ⟨by simp only [pageBase, tileBase, cdBase]; omega, by omega, fun _ => Nat.mod_lt _ (by decide)⟩
        · split at h <;> cases h <;>
            exact ⟨by simp only [pageBase, cdBase]; omega, by omega, fun _ => Nat.mod_lt _ (by decide)⟩
      · split at h
        · split at h <;> cases h <;> exact ⟨by simp only [pageBase, mdBase]; omega, by omega, fun _ => Nat.mod_lt _ (by decide)⟩
        · split at h
          · cases h
            exact ⟨by simp only [pageBase]; omega, by omega, fun hc => absurd rfl hc⟩
          · cases h

/-! ## A word, a pair of words, another width -/

section
variable {w : Func} {a : Nat} (vs : List Word) (list : List Byte) (s : State)

theorem exec_registerWrite_words (h : widthOk s w a vs.length = true) :
    exec (.registerWrite w a vs list) s = .next (wordsWrite w list vs a s) := congrArg Host.Outcome.next (if_pos h)

theorem exec_registerWrite_misaligned (h : widthOk s w a vs.length = false) :
    exec (.registerWrite w a vs list) s = exec (.misalignedAccess w true a) s :=
  congrArg Host.Outcome.next (if_neg (Bool.eq_false_iff.mp h))

theorem exec_registerWrite_word (v : Word) (ha : a % 4 = 0) : exec (.registerWrite w a [v] list) s = .next (wordWrite w a v list s) :=
  exec_registerWrite_words [v] list s (by unfold widthOk; simp [ha])

theorem exec_registerWrite_pair (v v' : Word) (ha : a % 8 = 0) :
    exec (.registerWrite w a [v, v'] list) s = .next (wordWrite w (a + 4) v' list (wordWrite w a v list s)) :=
  exec_registerWrite_words [v, v'] list s (by unfold widthOk; simp [ha])

end

section
variable {w : Func} (hvf : ∀ n, w ≠ .vf n) {a off : Nat} {p : Page} (hpage : pageOf a = some (p, off))
include hvf hpage

/-- A word written at an address of the map, by a function that sees the PF's addresses, goes to the page's register. -/
theorem wordWrite_page (v : Word) (list : List Byte) (s : State) :
    wordWrite w a v list s =
      accessWith (if p.cls = .mailbox ∧ off = Off.MB_CMD then list else []) w p off v (regWrite w p off v list) s := by
  obtain ⟨-, ha, -⟩ := pageOf_address hpage
  have haddr : pfAddr s w a = some a := by
    cases w with
    | vf n => exact absurd rfl (hvf n)
    | _ => rfl
  unfold wordWrite
  rw [haddr]
  dsimp only
  rw [if_neg (by omega), hpage]

theorem exec_registerWrite_evtEn {v : Word} {list : List Byte} {s : State} (he : off = Off.EVT_EN) :
    exec (.registerWrite w a [v] list) s = exec (.evtEnWrite w p v) s := by
  obtain ⟨hbase, -, -⟩ := pageOf_address hpage
  have hmod := pageBase_mod p
  subst he
  rw [exec_registerWrite_word list s v (by unfold Off.EVT_EN at hbase; omega), wordWrite_page hvf hpage, if_neg fun h => absurd h.2 (by decide)]
  refine congrArg Host.Outcome.next ?_
  cases w with
  | vf n => exact absurd rfl (hvf n)
  | _ => rfl

end

/-! ## The pages whose registers have no condition of their own -/

section
variable {p : Page} (hcls : p.cls ∈ [.pcie, .mgmtCores, .lowSpeed, .dieLink, .hbm, .meld])
include hcls

theorem regWrite_plain {off : Nat} (hoff : 0x100 ≤ off) (w : Func) (v : Word) (list : List Byte) (s : State) :
    regWrite w p off v list s = plainWrite p off v s := by
  obtain ⟨c, n⟩ := p
  unfold regWrite
  dsimp only
  rw [if_neg (by omega), if_neg (by omega)]
  simp only [List.mem_cons, List.not_mem_nil, or_false] at hcls
  rcases hcls with rfl | rfl | rfl | rfl | rfl | rfl <;> rfl

/-- Such a page is none of those that have another rule. -/
theorem plain_cls : p.cls ≠ .context ∧ p.cls ≠ .mailbox ∧ p.cls ≠ .handHistory := by
  simp only [List.mem_cons, List.not_mem_nil, or_false] at hcls
  rcases hcls with h | h | h | h | h | h <;> rw [h] <;> decide

end

theorem rd_plainWrite {p : Page} {off : Nat} {r : RegRow} (hr : regRow p off = some r) (v : Word) (s : State) :
    rd (plainWrite p off v s) p off =
      ((rd s p off &&& ~~~ BitVec.ofNat 32 r.rw) ||| (v &&& BitVec.ofNat 32 r.rw)) &&& ~~~ (v &&& BitVec.ofNat 32 r.w1c) := by
  unfold plainWrite
  rw [hr]
  exact rd_wr_same ..

section
variable {s : State} {w : Func} {a off : Nat} {v : Word} {list : List Byte} {p : Page} {r : RegRow} (ha : a % 4 = 0)
  (hpage : pageOf a = some (p, off)) (hoff : 0x100 ≤ off) (hcls : p.cls ∈ [.pcie, .mgmtCores, .lowSpeed, .dieLink, .hbm, .meld])

include ha hpage hoff hcls in
/-- A word written to such a page is a plain write of its register. -/
theorem exec_registerWrite_plain (hvf : ∀ n, w ≠ .vf n) :
    exec (.registerWrite w a [v] list) s = .next (access w p off v (plainWrite p off v) s) := by
  obtain ⟨-, hmb, -⟩ := plain_cls hcls
  rw [exec_registerWrite_word list s v ha, wordWrite_page hvf hpage, if_neg fun h => hmb h.1,
    funext (regWrite_plain hcls hoff w v list)]
  rfl

include hpage hcls in
/-- The address of such a register is not that of HH_CNT_LOST. -/
theorem plain_ne_hhLost : a ≠ hhLost := by
  obtain ⟨hbase, -, hlt⟩ := pageOf_address hpage
  obtain ⟨hctx, -, hhh⟩ := plain_cls hcls
  rw [← hbase]
  exact pageBase_ne_hh hhh (hlt hctx) (by decide)

include ha hpage hoff hcls in
theorem runs_registerWrite (hvf : ∀ n, w ≠ .vf n) (hr : regRow p off = some r) (h : Admitted s w p off) :
    Runs (.registerWrite w a [v] list) s fun t =>
      reg t a = ((reg s a &&& ~~~ BitVec.ofNat 32 r.rw) ||| (v &&& BitVec.ofNat 32 r.rw)) &&& ~~~ (v &&& BitVec.ofNat 32 r.w1c) ∧
        RegsBut [a, hhLost] s t ∧ (w = .mgmt → a ∈ t.head.mgmt) := by
  obtain ⟨hbase, -, -⟩ := pageOf_address hpage
  have hne := plain_ne_hhLost hpage hcls
  refine runs_of_recorded (exec_registerWrite_plain ha hpage hoff hcls hvf) h fun l hl => ?_
  have hu := captured_recordWrite w p off v s
  have hread := rd_plainWrite hr v (recordWrite w p off v s)
  have hregs := regsBut_plainWrite p off v (recordWrite w p off v s)
  unfold rd at hread
  rw [hbase] at hread hregs hl
  rw [hu.regs a hne] at hread
  exact ⟨hread, hu.regsBut (RegsBut.withMgmt l (hregs.mono fun _ => List.mem_append_left [hhLost])) (.tail _ (.head _)), hl⟩

end

/-! ## A register that the management cores have written in the beat (R86) -/

/-- What stands under a mask stays. -/
theorem and_or_mask (x y m : Word) : ((x &&& ~~~ m) ||| (y &&& m)) &&& m = y &&& m := by
  refine BitVec.eq_of_getLsbD_eq fun i hi => ?_
  simp only [BitVec.getLsbD_and, BitVec.getLsbD_or, BitVec.getLsbD_not, hi]
  cases m.getLsbD i <;> simp

section
variable {s : State} {a off : Nat} {v : Word} {list : List Byte} {p : Page} {r : RegRow} (ha : a % 4 = 0)
  (hpage : pageOf a = some (p, off)) (hreach : reach s .pf p off = .ok) (hmgmt : a ∈ s.head.mgmt)
include ha hpage hreach hmgmt

theorem runs_registerWrite_stands (hoff : 0x100 ≤ off) (hcls : p.cls ∈ [.pcie, .mgmtCores, .lowSpeed, .dieLink, .hbm, .meld])
    (hr : regRow p off = some r) (hsup : suppressed s .pf p = false) (hrw : BitVec.ofNat 32 r.rw ≠ 0#32) :
    Runs (.registerWrite .pf a [v] list) s fun t =>
      reg t a &&& BitVec.ofNat 32 r.rw = reg s a &&& BitVec.ofNat 32 r.rw ∧ RegsBut [a, hhLost] s t := by
  obtain ⟨hbase, -, -⟩ := pageOf_address hpage
  have hne := plain_ne_hhLost hpage hcls
  have hstand : standBits p off = BitVec.ofNat 32 r.rw := by
    unfold standBits
    rw [if_neg (by omega), hr]
    rfl
  have hturn : outOfTurn s .pf p off = false := by
    unfold outOfTurn
    rw [hstand, Bool.and_eq_false_iff]
    exact .inr (beq_eq_false_iff_ne.mpr hrw)
  set u := recordWrite .pf p off v s with hudef
  have hu : Captured s u := captured_recordWrite .pf p off v s
  have haccess : access .pf p off v (plainWrite p off v) s =
      wr p off ((rd (plainWrite p off v u) p off &&& ~~~ BitVec.ofNat 32 r.rw) ||| (rd u p off &&& BitVec.ofNat 32 r.rw))
        (plainWrite p off v u) := by
    unfold access accessWith
    simp only [hreach, hturn, hsup, Bool.false_eq_true, and_false, if_false, Bool.and_false]
    show applied .pf p off (plainWrite p off v) u = _
    unfold applied
    rw [if_neg (by decide), hu.mgmt_eq, hbase, List.contains_iff_mem.mpr hmgmt, hstand]
    rfl
  refine ⟨_, (exec_registerWrite_plain ha hpage hoff hcls fun _ => Func.noConfusion).trans (congrArg Host.Outcome.next haccess), ?_, ?_⟩
  · have hread : rd u p off = reg s a := by unfold rd; rw [hbase, hu.regs a hne]
    rw [← hbase]
    refine (congrArg (· &&& _) (rd_wr_same ..)).trans ((and_or_mask ..).trans ?_)
    rw [hread, hbase]
  · refine hu.regsBut ?_ (.tail _ (.head _))
    have hregs := regsBut_plainWrite p off v u
    rw [hbase] at hregs
    exact RegsBut.wr (hregs.mono fun _ => List.mem_append_left [hhLost]) _ (hbase ▸ .head _)

/-- Where no bit can stand, the write is held for the next beat. -/
theorem runs_registerWrite_held (hstand : standBits p off = 0#32) (hmb : p.cls = .mailbox → off ≠ Off.MB_CMD) :
    Runs (.registerWrite .pf a [v] list) s fun t =>
      t = { s with host := { s.host with waiting := s.host.waiting ++ [.page .pf p off v []] } } := by
  obtain ⟨hbase, -, -⟩ := pageOf_address hpage
  have hturn : outOfTurn s .pf p off = true := by
    unfold outOfTurn
    rw [hbase, List.contains_iff_mem.mpr hmgmt, hstand]
    rfl
  refine ⟨_, exec_registerWrite_word list s v ha, ?_⟩
  rw [wordWrite_page (fun _ => Func.noConfusion) hpage, if_neg fun h => hmb h.1 h.2]
  unfold accessWith
  simp only [hreach, hturn, and_self, if_true]
  rfl

end

/-! ## Misaligned accesses (R13) -/

theorem agreeBut_of_keeps {s t : State} {M : Nat} {l : List Comp} (hk : Keeps M s t) (hc : covers l M = true) : AgreeBut l s t :=
  fun c hl => hk.same c (testBit_of_covers hc hl)

theorem keeps_accessNoted {N : Nat} (hN : Within 0x4a N) (r : FaultRec) (s : State) : Keeps N s (accessNoted r s) :=
  keeps_formRec hN r _ (keeps_bump (hN.via rfl) _ _ 1 s (.refl _ s))

section
variable {s : State} {w : Func}

theorem recorded_misaligned (a : Nat) : Recorded 1 1 1 (misalignedAt s w a) (accessNoted (misalignedRec s w a) s) := by
  obtain ⟨hrec, -⟩ := misalignedRec_fields s w a
  unfold Recorded
  rw [head_accessNoted]
  exact congrArg some hrec

theorem runs_misaligned_write (h : senderLink s w = .ok) (a : Nat) : Runs (.misalignedAccess w true a) s fun t =>
    t.out = s.out ∧ Counted pgFc Off.FC_CNT_ACCESS 1 s t ∧ Recorded 1 1 1 (misalignedAt s w a) t ∧
      AgreeBut [.regs, .head, .fc] s t ∧ RegsBut ((pageBase pgFc + Off.FC_CNT_ACCESS) :: recordRegs) s t :=
  ⟨_, exec_misaligned h true a, accessNoted_out .., counted_accessNoted .., recorded_misaligned a,
    agreeBut_of_keeps (keeps_accessNoted (N := 0x4a) rfl ..) rfl, regsBut_accessNoted _ _⟩

theorem runs_misaligned_read (h : senderLink s w = .ok) (a : Nat) : Runs (.misalignedAccess w false a) s fun t =>
    t.out = s.out ++ [.readData w a 0] ∧ Counted pgFc Off.FC_CNT_ACCESS 1 s t ∧ Recorded 1 1 1 (misalignedAt s w a) t ∧
      AgreeBut [.regs, .head, .fc, .out] s t ∧ RegsBut ((pageBase pgFc + Off.FC_CNT_ACCESS) :: recordRegs) s t := by
  refine ⟨_, exec_misaligned h false a, congrArg (· ++ _) (accessNoted_out ..), counted_accessNoted .., recorded_misaligned a, ?_,
    (regsBut_accessNoted _ _).emit _⟩
  exact agreeBut_of_keeps (keeps_emit (N := 0x10004a) rfl _ _ (keeps_accessNoted (N := 0x10004a) rfl ..)) rfl

end

/-- Settles O18: each clause is a lemma about its command. -/
theorem fencesAndWrites : Obligations.FencesAndWrites := by
  unfold Obligations.FencesAndWrites
  intro status
  refine ⟨?word, ?stands, ?held, ?evtEn, ?pair, ?width, ?misalignedWrite, ?misalignedRead, ?fence, ?release, ?timeout⟩
  case word => exact fun s w a v list p off r hvf ha hpage hoff hcls hr h => runs_registerWrite ha hpage hoff hcls hvf hr h
  case stands =>
    exact fun s a v list p off r ha hpage hoff hcls hr hreach hsup hmgmt hrw =>
      runs_registerWrite_stands ha hpage hreach hmgmt hoff hcls hr hsup hrw
  case held =>
    exact fun s a v list p off ha hpage hoff hreach hmgmt hstand hmb => runs_registerWrite_held ha hpage hreach hmgmt hstand hmb
  case evtEn => exact fun s w a v list p hvf hpage => exec_registerWrite_evtEn hvf hpage rfl
  case pair =>
    intro s w a v v' list ha
    exact ⟨_, exec_registerWrite_word list s v (by omega),
      (exec_registerWrite_pair list s v v' ha).trans (exec_registerWrite_word list _ v' (by omega)).symm⟩
  case width => exact fun s w a vs list h => exec_registerWrite_misaligned vs list s h
  case misalignedWrite => exact fun s w a h => runs_misaligned_write h a
  case misalignedRead => exact fun s w a h => runs_misaligned_read h a
  case fence => exact fun s w p drain hw h hroot h0 => runs_fence hw hroot h drain h0
  case release => exact fun s w p drain hw h hroot h5 hcas => runs_release hw hroot h drain h5 hcas
  case timeout => exact fun s p id c hp hon htime hc hid hticks hdue => runs_cmdTimeout hp hon htime hc hid hticks hdue

end Sys2Proof.Machine
end

section
/-! # Fuses, and what a reset leaves (R92, R108, R109, R580) -/
namespace Sys2Proof.Machine

/-- Settles O4: every command burns fuses only (`keeps_exec`), and a step runs one command or none. -/
theorem fusesOnlyBurn : Obligations.FusesOnlyBurn := by
  unfold Obligations.FusesOnlyBurn
  intro s t h
  cases hp : s.pending with
  | nil =>
    obtain rfl : s = t := Host.Outcome.next.inj ((stepRunsFront.2 s hp).symm.trans h)
    exact Part.burnt_refl s.part
  | cons c l =>
    obtain ⟨u, M, hu, hk, -⟩ := keeps_exec c { s with pending := l }
    obtain rfl : u = t := Host.Outcome.next.inj (hu.symm.trans ((stepRunsFront.1 c l s hp).symm.trans h))
    exact hk.base.fuses

/-! ## The state after reset -/

theorem canonical_ofPart (q : Part) : (State.ofPart q).Canonical := by
  refine ⟨rfl, rfl, rfl, rfl, fun _ he => absurd he List.not_mem_nil, ?_⟩
  exact ⟨rfl, rfl, rfl, rfl, rfl, rfl, rfl, rfl, rfl, rfl, rfl, fun _ he => absurd he List.not_mem_nil⟩

/-- Settles O2: the register file and the memories list nothing, so every register and byte reads its reset value. -/
theorem resetLeaves : Obligations.ResetLeaves := by
  unfold Obligations.ResetLeaves
  exact ⟨canonical_ofPart _, fun _ => rfl, rfl, rfl, rfl, rfl, rfl, rfl, rfl, fun _ => rfl⟩

/-! ## Elements of a list -/

/-- An element of a list after a change of one of its elements. -/
theorem getD_updNth_ne {α : Type} (f : α → α) (d : α) {l : List α} {i j : Nat} (h : j ≠ i) :
    (updNth f l i).getD j d = l.getD j d := by
  induction l generalizing i j with
  | nil => rfl
  | cons x r ih =>
    cases i with
    | zero =>
      cases j with
      | zero => exact absurd rfl h
      | succ j => rfl
    | succ i =>
      cases j with
      | zero => rfl
      | succ j => exact ih (by omega)

theorem getD_updNth_same {α : Type} (f : α → α) (d : α) {l : List α} {i : Nat} (h : i < l.length) :
    (updNth f l i).getD i d = f (l.getD i d) := by
  induction l generalizing i with
  | nil => exact absurd h (Nat.not_lt_zero i)
  | cons x r ih =>
    cases i with
    | zero => rfl
    | succ i => exact ih (Nat.lt_of_succ_lt_succ h)

/-- Fuses burnt below a count do not show once every fuse below it counts as burnt. -/
theorem or_and_or_self (x m r : Nat) : (x ||| (m &&& r)) ||| m = x ||| m := by
  refine Nat.eq_of_testBit_eq fun i => ?_
  simp only [Nat.testBit_or, Nat.testBit_and]
  cases m.testBit i <;> simp

/-! ## A burn that is cut -/

theorem burnCut_none {s : State} (h : s.boot.burn = none) : burnCut s = s := by
  unfold burnCut; rw [h]

theorem burnCut_some {s : State} {k n : Nat} (h : s.boot.burn = some (k, n)) : burnCut s =
    { (fresh s).2 with part := { s.part with arb := updNth (fun o => o ||| (fusesTo n &&& (fresh s).1)) s.part.arb k } } := by
  unfold burnCut; rw [h]

/-- A burn of a counter beyond the fuse bank changes none. -/
theorem updNth_of_length_le {α : Type} (f : α → α) {l : List α} {i : Nat} (h : l.length ≤ i) : updNth f l i = l := by
  induction l generalizing i with
  | nil => rfl
  | cons x r ih =>
    cases i with
    | zero => exact absurd h (Nat.not_succ_le_zero _)
    | succ i => exact congrArg (x :: ·) (ih (Nat.le_of_succ_le_succ h))

/-- What a cut burn leaves (R109). -/
theorem fusesCut_burnCut (s : State) : FusesCut s (burnCut s) := by
  refine ⟨(keeps_burnCut (Nat.or_self _) s (.refl _ s)).base.fuses, fun h => ?_, fun k n h => ?_⟩
  · rw [burnCut_none h]; exact ⟨rfl, rfl⟩
  · rw [burnCut_some h]
    refine ⟨?_, fun j hj => getD_updNth_ne _ _ hj⟩
    rcases Nat.lt_or_ge k s.part.arb.length with hk | hk
    · exact (congrArg (· ||| fusesTo n) (getD_updNth_same _ _ hk)).trans (or_and_or_self ..)
    · exact congrArg (fun l : List Nat => l.getD k 0 ||| fusesTo n) (updNth_of_length_le _ hk)

theorem burnCut_boot (s : State) : (burnCut s).boot = s.boot := by unfold burnCut; split <;> rfl
theorem burnCut_out (s : State) : (burnCut s).out = s.out := by unfold burnCut; split <;> rfl
theorem burnCut_pending (s : State) : (burnCut s).pending = s.pending := by unfold burnCut; split <;> rfl

/-- A reset of the whole device leaves the fuses as the cut burn does, and what lies outside the device. -/
theorem wholeReset_burnCut (s : State) : wholeReset (burnCut s) =
    { State.ofPart (burnCut s).part with out := s.out, freeIdx := (burnCut s).freeIdx, pending := s.pending } := by
  unfold wholeReset
  rw [burnCut_out, burnCut_pending]

/-- Settles O6: each of them is a whole reset of what `burnCut` leaves. -/
theorem deviceResets : Obligations.DeviceResets := by
  unfold Obligations.DeviceResets
  refine ⟨fun s => ?powerOn, fun s h => ?perst, fun s => ?loss⟩
  case powerOn => exact ⟨wholeReset (burnCut s), rfl, wholeReset_burnCut s, fusesCut_burnCut s⟩
  case perst =>
    refine ⟨execWholeDeviceReset false s, rfl, ?_⟩
    unfold execWholeDeviceReset
    rw [if_neg Bool.false_ne_true, if_neg h, wholeReset_burnCut]
    exact ⟨rfl, fusesCut_burnCut s, rfl⟩
  case loss =>
    refine ⟨execPowerLoss s, rfl, fusesCut_burnCut s, fun _ => rfl, rfl, rfl, fun d => ?_, rfl, rfl, rfl, rfl, rfl, rfl, burnCut_pending s⟩
    exact congrArg (· == 2) (List.getElem?_getD_replicate_default_eq ..)

end Sys2Proof.Machine
end

section
/-! # Deck streams: a result that waits while the mailbox is free

The statement's clause about a scatter list that cannot be read does not ask that no result of another handle waits to be posted. -/
namespace Sys2Proof.Machine

/-- A handle that DECK_BEGIN has opened for the DMA path. -/
def idleHandle : DeckHandle := ⟨true, 0x3000, [], false, [], false, ⟨[], []⟩⟩

/-- A device whose boot is over, with handle 0 open for the DMA path and arguments for a scatter list of one entry, that holds a result of
handle 1 which no command of the mailbox page runs for. -/
def strayResult : State :=
  let r := State.ofPart Part.reference
  { r with
    regs := [(pageBase pgMb + Off.MB_READY, 4), (pageBase pgMb + Off.MB_ARG + 8, 1)]
    tt := { r.tt with joined := [] }
    boot := { r.boot with handles := [(0, idleHandle)], cmd := some ⟨1, 1, 0, 0xFF, 1⟩ } }

theorem admitted_strayResult : Admitted strayResult .mgmt pgMb Off.MB_CMD := by
  unfold Admitted; decide +kernel

/-- The result of the refused deck is not posted: the one of handle 1 stays. -/
theorem deckDma_strayResult_cmd : (execDeckDma .mgmt 0 [] strayResult).boot.cmd = some ⟨1, 1, 0, 0xFF, 1⟩ := by
  decide +kernel

/-- Refutes O9: in `strayResult`, DECK_DMA of a list that cannot be read leaves the result of handle 1, where the fifth clause asks for that of
DECK_DMA with DMA_FAULT. The state meets the hypotheses, which do not ask that no result waits while the mailbox is free. -/
theorem not_deckStreams : ¬ Obligations.DeckStreams := by
  unfold Obligations.DeckStreams
  rintro ⟨-, -, -, -, hdma, -⟩
  obtain ⟨t, ht, -, -, hcmd⟩ := hdma strayResult .mgmt 0 idleHandle []
    ⟨admitted_strayResult, by decide +kernel, by decide +kernel, by decide +kernel⟩ (by decide +kernel) (by decide +kernel) rfl rfl rfl
    (by decide +kernel) (by decide +kernel) (by decide +kernel)
  obtain rfl : execDeckDma .mgmt 0 [] strayResult = t := Host.Outcome.next.inj ht
  rw [deckDma_strayResult_cmd] at hcmd
  exact absurd hcmd (by decide)

end Sys2Proof.Machine
end

section
/-! # Commands of the mailbox (R110) -/
namespace Sys2Proof.Machine

/-- The word of MB_CMD with an operation, a handle and GO. -/
def cmdWord (op h : Nat) : Word := BitVec.ofNat 32 (op + 256 * (h % 4) + 2 ^ 31)

/-- Every operation has a number below 8, and a handle is one of four. -/
theorem cmdWord_cases {op : Nat} (h : Nat) (hop : op < 8) {Q : Word → Prop}
    (hQ : ∀ a < 8, ∀ b < 4, Q (BitVec.ofNat 32 (a + 256 * b + 2 ^ 31))) : Q (cmdWord op h) :=
  hQ op hop (h % 4) (Nat.mod_lt _ (by decide))

theorem bitOf_cmdWord_go {op : Nat} (h : Nat) (hop : op < 8) : bitOf (cmdWord op h) 31 = true :=
  cmdWord_cases (Q := fun v => bitOf v 31 = true) h hop (by decide)

theorem cmdWord_and_written {op : Nat} (h : Nat) (hop : op < 8) : cmdWord op h &&& 0x800003FF = cmdWord op h :=
  cmdWord_cases (Q := fun v => v &&& 0x800003FF = v) h hop (by decide)

theorem bitOf_cmdWord_stopped {op : Nat} (h : Nat) (hop : op < 8) : bitOf (cmdWord op h &&& 0x3FF) 31 = false :=
  cmdWord_cases (Q := fun v => bitOf (v &&& 0x3FF) 31 = false) h hop (by decide)

theorem fieldOf_cmdWord_op {op : Nat} (h : Nat) (hop : op < 8) : fieldOf (cmdWord op h) 0 8 = op := by
  have key : ∀ a < 8, ∀ b < 4, fieldOf (BitVec.ofNat 32 (a + 256 * b + 2 ^ 31)) 0 8 = a := by decide
  exact key op hop (h % 4) (Nat.mod_lt _ (by decide))

theorem fieldOf_cmdWord_handle {op : Nat} (h : Nat) (hop : op < 8) : fieldOf (cmdWord op h) 8 2 = h % 4 := by
  have key : ∀ a < 8, ∀ b < 4, fieldOf (BitVec.ofNat 32 (a + 256 * b + 2 ^ 31)) 8 2 = b := by decide
  exact key op hop (h % 4) (Nat.mod_lt _ (by decide))

/-- State u is s after a write of MB_CMD has been captured and the register holds v. -/
structure Begun (v : Word) (s u : State) : Prop where
  rest : u = { s with regs := u.regs, hh := u.hh, head := { s.head with counts := u.head.counts } }
  regs : RegsBut [pageBase pgMb + Off.MB_CMD, hhLost] s u
  cmd : rd u pgMb Off.MB_CMD = v

/-- What a register write after a capture leaves. -/
theorem Captured.wr_rest {s u : State} (h : Captured s u) (p : Page) (off : Nat) (v : Word) :
    wr p off v u = { s with regs := (wr p off v u).regs, hh := (wr p off v u).hh,
                            head := { s.head with counts := (wr p off v u).head.counts } } :=
  congrArg (fun x : State => { x with regs := (wr p off v u).regs }) h.rest

theorem begun_wr {s u : State} (h : Captured s u) (v : Word) : Begun v s (wr pgMb Off.MB_CMD v u) where
  rest := h.wr_rest pgMb Off.MB_CMD v
  regs := h.regsBut ((RegsBut.refl _ u).wr v (.head _)) (.tail _ (.head _))
  cmd := rd_wr_same ..

theorem mbBusy_withMgmt (l : List Nat) (s : State) : mbBusy (withMgmt l s) = mbBusy s := rfl
theorem withMgmt_boot (l : List Nat) (s : State) : (withMgmt l s).boot = s.boot := rfl

namespace Begun
variable {v : Word} {s u : State} (h : Begun v s u)
include h

theorem part_eq : u.part = s.part := (congrArg State.part h.rest).trans rfl
theorem boot_eq : u.boot = s.boot := (congrArg State.boot h.rest).trans rfl
theorem host_eq : u.host = s.host := (congrArg State.host h.rest).trans rfl
theorem mem_eq : u.mem = s.mem := (congrArg State.mem h.rest).trans rfl

/-- The registers at other offsets than that of MB_CMD and HH_CNT_LOST are as they were. -/
theorem rd_eq (p : Page) {off : Nat} (hoff : off < 0x1000) (hcmd : off ≠ Off.MB_CMD) (hlost : off ≠ Off.HH_CNT_LOST) :
    rd u p off = rd s p off := by
  refine h.regs _ fun hm => ?_
  rcases List.mem_cons.mp hm with e | hm
  · exact addr_ne hoff (by decide) hcmd e
  · exact addr_ne hoff (by decide) hlost (List.mem_singleton.mp hm)

theorem flag_eq (p : Page) {off : Nat} (b : Nat) (hoff : off < 0x1000) (hcmd : off ≠ Off.MB_CMD) (hlost : off ≠ Off.HH_CNT_LOST) :
    flag u p off b = flag s p off b := flag_congr (h.rd_eq p hoff hcmd hlost)

theorem mbBusy_eq : mbBusy u = bitOf v 31 := congrArg (bitOf · 31) h.cmd

theorem mbArg_zero : mbArg u 0 = mbArg s 0 := congrArg BitVec.toNat (h.rd_eq pgMb (by decide) (by decide) (by decide))

theorem handleOf_eq (k : Nat) : handleOf u k = handleOf s k := by unfold handleOf; rw [h.boot_eq]

theorem modelDeck_eq (k : Nat) : modelDeck u k = modelDeck s k := by unfold modelDeck; rw [h.boot_eq]

theorem boundTo_eq (k : Nat) : boundTo u k = boundTo s k := by
  have hst (c lo w : Nat) : fld u (pgCtx c) Off.CTX_STATUS lo w = fld s (pgCtx c) Off.CTX_STATUS lo w :=
    fld_congr (h.rd_eq (pgCtx c) (by decide) (by decide) (by decide))
  unfold boundTo
  simp only [hst, h.host_eq]

theorem regionAt_eq {k : Nat} (hk : k < 64) : regionAt u k = regionAt s k := by
  unfold regionAt Off.MEMENC_REGION_BASE Off.MEMENC_REGION_SIZE Off.MEMENC_REGION_ATTR
  have hlost : Off.HH_CNT_LOST = 0x88 := rfl
  have hcmd : Off.MB_CMD = 0x104 := rfl
  rw [h.rd_eq _ (by omega) (by omega) (by omega), h.rd_eq _ (by omega) (by omega) (by omega),
    h.rd_eq _ (by omega) (by omega) (by omega)]

theorem freeEntries_eq : freeEntries u = freeEntries s := by
  unfold freeEntries
  refine List.filter_congr fun k hk => ?_
  rw [h.regionAt_eq (List.mem_range.mp hk), h.mem_eq]

end Begun

/-- An admitted write comes in its turn. -/
theorem outOfTurn_of_admitted {s : State} {w : Func} {p : Page} {off : Nat} (h : Admitted s w p off) : outOfTurn s w p off = false := by
  unfold outOfTurn
  cases hw : isHost w with
  | false => rfl
  | true => rw [h.2.2 hw]; rfl

/-- What host memory holds at a scatter list plays no part in how an admitted write takes effect. -/
theorem accessWith_of_admitted {s : State} {w : Func} {p : Page} {off : Nat} (h : Admitted s w p off) (list : List Byte) (v : Word)
    (k : State → State) : accessWith list w p off v k s = access w p off v k s := by
  unfold access accessWith
  simp only [h.1, outOfTurn_of_admitted h, Bool.false_eq_true, and_false, if_false]

/-- The mailbox takes a command of a function: its write of MB_CMD is admitted, the device is not in the fatal state, and no command runs. -/
def MailFree (s : State) (w : Func) : Prop := Admitted s w pgMb Off.MB_CMD ∧ deviceFatal s = false ∧ mbBusy s = false

theorem Captured.mbBusy_eq {s u : State} (h : Captured s u) : mbBusy u = mbBusy s := h.flag_eq 31 (by decide) (by decide)
theorem Captured.deviceFatal_eq {s u : State} (h : Captured s u) : deviceFatal u = deviceFatal s := h.flag_eq 0 (by decide) (by decide)

section
variable {i : Instr} {s : State} {w : Func} {op h : Nat} {list : List Byte} {P : State → Prop}

/-- A command of the mailbox is a write of MB_CMD. -/
theorem runs_of_mbCommand (hi : exec i s = .next (mbCommand w op h list s)) (hf : MailFree s w)
    (hP : ∀ u l, Captured s u → P (withMgmt l (mbCmdWrite (cmdWord op h) list u))) : Runs i s P :=
  runs_of_access (v := cmdWord op h) (hi.trans (congrArg Host.Outcome.next (accessWith_of_admitted hf.1 list _ _))) hf.1 hP

/-- What a command of the mailbox gives in every state in which it has begun, it gives. -/
theorem runs_mbRun (hi : exec i s = .next (mbCommand w op h list s)) (hf : MailFree s w) (hen : flag s pgMb Off.CTRL 0 = true)
    (hop : op < 8) (hP : ∀ u l, Begun (cmdWord op h) s u → P (withMgmt l (mbRun op (h % 4) list u))) : Runs i s P := by
  refine runs_of_mbCommand hi hf fun u l hu => ?_
  have hen' : flag u pgMb Off.CTRL 0 = true := (hu.flag_eq 0 (by decide) (by decide)).trans hen
  have hrun : mbCmdWrite (cmdWord op h) list u = mbRun op (h % 4) list (wr pgMb Off.MB_CMD (cmdWord op h) u) := by
    unfold mbCmdWrite
    rw [hu.deviceFatal_eq, hf.2.1, hu.mbBusy_eq, hf.2.2]
    simp only [bitOf_cmdWord_go h hop, hen', Bool.and_self, if_true, Bool.false_eq_true, if_false, cmdWord_and_written h hop,
      fieldOf_cmdWord_op h hop, fieldOf_cmdWord_handle h hop]
  rw [hrun]
  exact hP _ l (begun_wr hu _)

/-- A page that is not enabled takes the fields of MB_CMD and starts nothing (R77). -/
theorem runs_mbCommand_disabled (hi : exec i s = .next (mbCommand w op h list s)) (hf : MailFree s w) (hen : flag s pgMb Off.CTRL 0 = false)
    (hop : op < 8) : Runs i s fun t => t.boot = s.boot ∧ mbBusy t = false ∧ RegsBut [pageBase pgMb + Off.MB_CMD, hhLost] s t := by
  refine runs_of_mbCommand hi hf fun u l hu => ?_
  have hen' : flag u pgMb Off.CTRL 0 = false := (hu.flag_eq 0 (by decide) (by decide)).trans hen
  have hstop : mbCmdWrite (cmdWord op h) list u = wr pgMb Off.MB_CMD (cmdWord op h &&& 0x3FF) u := by
    unfold mbCmdWrite
    rw [hu.deviceFatal_eq, hf.2.1, hu.mbBusy_eq, hf.2.2]
    simp only [hen', Bool.and_false, Bool.false_eq_true, if_false]
  rw [hstop]
  have hb := begun_wr hu (cmdWord op h &&& 0x3FF)
  refine ⟨(withMgmt_boot ..).trans hb.boot_eq, ?_, RegsBut.withMgmt l hb.regs⟩
  exact (mbBusy_withMgmt ..).trans (hb.mbBusy_eq.trans (bitOf_cmdWord_stopped h hop))

end

end Sys2Proof.Machine
end

section
/-! # Handles of decks, and what leaves the decks (R116, R117) -/
namespace Sys2Proof.Machine

/-! ## Handles -/

/-- The handles but one. -/
def handlesBut (h : Nat) (s : State) : List (Nat × DeckHandle) := s.boot.handles.filter fun e => e.1 != h

theorem handlesBut_congr {s t : State} (e : t.boot = s.boot) (h : Nat) : handlesBut h t = handlesBut h s := by unfold handlesBut; rw [e]

theorem handles_dropHandle (h : Nat) (s : State) : (dropHandle h s).boot.handles = handlesBut h s := rfl

/-- A handle that has been closed is not open. -/
theorem handleOf_closed {s t : State} {h : Nat} (ht : t.boot.handles = handlesBut h s) : handleOf t h = none := by
  unfold handleOf
  rw [ht, Option.map_eq_none_iff, List.find?_eq_none]
  intro e he heq
  obtain ⟨-, hne⟩ := List.mem_filter.mp he
  rw [bne, heq] at hne
  exact absurd hne (by decide)

/-- Closing a handle leaves the others. -/
theorem handleOf_others {s t : State} {h : Nat} (ht : t.boot.handles = handlesBut h s) (k : Nat) (hk : k ≠ h) : handleOf t k = handleOf s k := by
  unfold handleOf
  rw [ht, handlesBut, List.find?_filter]
  refine congrArg (Option.map Prod.snd) (congrArg (List.find? · s.boot.handles) (funext fun e => ?_))
  by_cases he : e.1 = k <;> simp [he, hk]

/-! ## What leaves the decks and the handles -/

/-- The installed decks and the open handles are given ones. -/
structure Stock (D : List Deck) (H : List (Nat × DeckHandle)) (s : State) : Prop where
  decks : s.boot.decks = D
  handles : s.boot.handles = H

/-- The mask of every part but the boot state. -/
abbrev offBoot : Nat := 0x3fffef

theorem leavesBoot {M : Nat} (e : M ||| offBoot = offBoot) : Within M offBoot := e

theorem boot_of_keeps {s t : State} (k : Keeps offBoot s t) : t.boot = s.boot := k.same .boot rfl

variable {D : List Deck} {H : List (Nat × DeckHandle)} {s t : State}

theorem Stock.of_boot (h : Stock D H s) (e : t.boot = s.boot) : Stock D H t := ⟨e ▸ h.decks, e ▸ h.handles⟩

theorem Stock.of_keeps (h : Stock D H s) (k : Keeps offBoot s t) : Stock D H t := h.of_boot (boot_of_keeps k)

theorem stock_ite {c : Prop} [Decidable c] {u v : State} (hu : Stock D H u) (hv : Stock D H v) : Stock D H (if c then u else v) := by
  split <;> assumption

theorem stock_setReady (b : Nat) (v : Bool) (h : Stock D H s) : Stock D H (setReady b v s) :=
  h.of_keeps (keeps_setReady (leavesBoot rfl) b v s (.refl _ s))

theorem stock_railsOn (h : Stock D H s) : Stock D H (railsOn s) := ⟨h.decks, h.handles⟩

theorem stock_startClimb (target : Nat) (h : Stock D H s) : Stock D H (startClimb target s) := by
  unfold startClimb
  extract_lets u _ v
  have hv : Stock D H v := ⟨h.decks, h.handles⟩
  clear_value v
  have hlock : Stock D H { v with tt := { v.tt with locking := true } } := ⟨hv.decks, hv.handles⟩
  refine stock_ite (stock_ite (stock_railsOn hlock) ⟨hlock.decks, hlock.handles⟩) (stock_ite (stock_ite ?_ ?_) (stock_ite ?_ hv))
  · exact ⟨hv.decks, hv.handles⟩
  · exact ⟨hv.decks, hv.handles⟩
  · exact ⟨hv.decks, hv.handles⟩

theorem stock_reloadEnd (h : Stock D H s) : Stock D H (reloadEnd s) := by
  unfold reloadEnd
  extract_lets u v
  have hv : Stock D H v := stock_setReady 7 false ⟨h.decks, h.handles⟩
  exact stock_ite h (stock_ite (stock_startClimb _ hv) hv)

theorem stock_serviceStart (deck : List Byte) (h : Stock D H s) : Stock D H (serviceStart deck s) := by
  unfold serviceStart
  extract_lets f on
  refine Stock.of_keeps ?_ (keeps_ceRestart (leavesBoot rfl) _ (keeps_setReady (leavesBoot rfl) 4 true _ (keeps_wr (leavesBoot rfl) _ _ _ _
    (keeps_setFlag (leavesBoot rfl) _ _ _ _ _ (.refl _ _)))))
  exact ⟨h.decks, h.handles⟩

theorem stock_addRegions (k : Deck) (h : Stock D H s) : Stock D H (addRegions k s) :=
  h.of_keeps (keeps_addRegions (leavesBoot rfl) k s (.refl _ s))

theorem stock_deckChanged (h : Stock D H s) : Stock D H (deckChanged s) :=
  h.of_keeps (keeps_deckChanged (leavesBoot rfl) s (.refl _ s))

/-! ## DECK_ABORT (R117) -/

theorem handles_mbAnswer (c : MbCmd) (s : State) : (mbAnswer c s).boot.handles = s.boot.handles := by
  unfold mbAnswer
  split
  · rfl
  · split
    · split <;> rfl
    · split
      · rfl
      · exact congrArg BootSt.handles (boot_of_keeps (keeps_mbShow (leavesBoot rfl) c s (.refl _ s)))

/-- A refused deck closes its handle (R116). -/
theorem handles_deckRefuse {h : Nat} {x : DeckHandle} (hx : handleOf s h = some x) (op : Nat) (b : Bad) :
    (deckRefuse op h b s).boot.handles = handlesBut h s := by
  unfold deckRefuse
  rw [hx]
  dsimp -zeta only
  extract_lets _ done u v
  have hwipe : (done.foldl (fun s y => wipeSect x.units x.bytes y s) s).boot = s.boot := by
    refine boot_of_keeps (Keeps.foldl (fun t y ht => ?_) (.refl _ s))
    exact keeps_wipeSect (leavesBoot rfl) x.units x.bytes y t ht
  have hu : u.boot.handles = handlesBut h s := by
    refine (congrArg BootSt.handles (boot_of_keeps ?_)).trans ((handles_dropHandle h _).trans (handlesBut_congr hwipe h))
    exact keeps_formRec (leavesBoot rfl) _ _ (keeps_bump (leavesBoot rfl) _ _ _ _ (keeps_raise (leavesBoot rfl) _ _ _ (.refl _ _)))
  have hv : v.boot = u.boot := boot_of_keeps (keeps_ite (keeps_setReady (leavesBoot rfl) 6 true u (.refl _ u)) (.refl _ u))
  exact (handles_mbAnswer _ v).trans ((congrArg BootSt.handles hv).trans hu)

end Sys2Proof.Machine
end

section
/-! # Aborting, unloading and installing a deck, burning a counter (R108, R111, R115, R117, R118) -/
namespace Sys2Proof.Machine

variable {D : List Deck} {H : List (Nat × DeckHandle)} {s : State} {w : Func} {h : Nat}

theorem stock_mbEnd (op k code sect detail : Nat) (hs : Stock D H s) : Stock D H (mbEnd op k code sect detail s) := ⟨hs.decks, hs.handles⟩

theorem cmd_mbEnd (op k code sect detail : Nat) (s : State) : (mbEnd op k code sect detail s).boot.cmd = some ⟨op, k, code, sect, detail⟩ := rfl

/-! ## DECK_ABORT (R117) -/

theorem mbRun_abort {x : DeckHandle} (list : List Byte) (hx : handleOf s h = some x) :
    mbRun 5 h list s = deckRefuse 5 h (0x15, 0xFF, 0) s := by
  show (if (handleOf s h).isSome then _ else _) = _
  rw [hx]
  rfl

theorem runs_deckAbort {x : DeckHandle} (hf : MailFree s w) (hen : flag s pgMb Off.CTRL 0 = true) (h4 : h < 4) (hx : handleOf s h = some x) :
    Runs (.deckAbort w h) s fun t => handleOf t h = none ∧ ∀ k, k ≠ h → handleOf t k = handleOf s k := by
  refine runs_mbRun rfl hf hen (by decide) fun u l hu => ?_
  have hxu : handleOf u h = some x := (hu.handleOf_eq h).trans hx
  have hclosed : (withMgmt l (deckRefuse 5 h (0x15, 0xFF, 0) u)).boot.handles = handlesBut h s :=
    (handles_deckRefuse hxu 5 _).trans (handlesBut_congr hu.boot_eq h)
  rw [Nat.mod_eq_of_lt h4, mbRun_abort [] hxu]
  exact ⟨handleOf_closed hclosed, handleOf_others hclosed⟩

/-! ## SVN_COMMIT (R108, R109) -/

/-- The burn of a counter up to a count is under way, and the command's result waits. -/
def burnBegun (k n : Nat) (s : State) : State := mbEnd 6 0 0 0xFF 0 { s with boot := { s.boot with burn := some (k, n) } }

/-- SVN_COMMIT burns up to the lowest SVN of the decks under the counter. -/
theorem svnCommit_eq {d : Deck} {ds : List Deck} (hready : flag s pgMb Off.MB_READY 2 = true) (hk : mbArg s 0 < 16)
    (hd : (s.boot.decks.filter fun d => deckArb d.bytes == mbArg s 0) = d :: ds) :
    svnCommit s = burnBegun (mbArg s 0) (Nat.min 64 ((ds.map fun d => deckSvn d.bytes).foldl Nat.min (deckSvn d.bytes))) s := by
  have hk' : decide (16 ≤ mbArg s 0) = false := decide_eq_false (by omega)
  unfold svnCommit
  simp only [hready, hk', hd, Bool.not_true, Bool.or_self, Bool.false_eq_true, if_false, List.map_cons]
  rfl

theorem runs_svnCommit {d : Deck} {ds : List Deck} (hf : MailFree s w) (hen : flag s pgMb Off.CTRL 0 = true)
    (hready : flag s pgMb Off.MB_READY 2 = true) (hk : mbArg s 0 < 16)
    (hd : (s.boot.decks.filter fun d => deckArb d.bytes == mbArg s 0) = d :: ds) : Runs (.svnCommit w) s fun t =>
      t.boot.burn = some (mbArg s 0, Nat.min 64 ((ds.map fun d => deckSvn d.bytes).foldl Nat.min (deckSvn d.bytes))) ∧
        t.part = s.part ∧ t.boot.cmd = some ⟨6, 0, 0, 0xFF, 0⟩ ∧ RegsBut [pageBase pgMb + Off.MB_CMD, hhLost] s t := by
  refine runs_mbRun rfl hf hen (by decide) fun u l hu => ?_
  have hready' : flag u pgMb Off.MB_READY 2 = true := (hu.flag_eq pgMb 2 (by decide) (by decide) (by decide)).trans hready
  have hrun : mbRun 6 (0 % 4) [] u = burnBegun _ _ u :=
    svnCommit_eq hready' (hu.mbArg_zero.symm ▸ hk) (by rw [hu.boot_eq, hu.mbArg_zero]; exact hd)
  rw [hrun, hu.mbArg_zero]
  exact ⟨rfl, hu.part_eq, rfl, hu.regs⟩

/-! ## MODEL_UNLOAD (R118) -/

/-- The installed decks without the one of a model slot. -/
def decksBut (slot : Nat) (s : State) : List Deck := s.boot.decks.filter fun e => !(e.kind == 3 && e.slot == slot)

theorem modelDeck_unloaded {t : State} {slot : Nat} (ht : t.boot.decks = decksBut slot s) : modelDeck t slot = none := by
  unfold modelDeck
  rw [ht, List.find?_eq_none]
  intro d hd hslot
  obtain ⟨-, hne⟩ := List.mem_filter.mp hd
  rw [hslot] at hne
  exact absurd hne (by decide)

theorem mem_decksBut {d : Deck} {slot : Nat} (hd : d ∈ s.boot.decks) : (d.kind = 3 ∧ d.slot = slot) ∨ d ∈ decksBut slot s := by
  by_cases h : d.kind = 3 ∧ d.slot = slot
  · exact .inl h
  · refine .inr (List.mem_filter.mpr ⟨hd, ?_⟩)
    simpa only [Bool.not_eq_true', Bool.and_eq_false_iff, beq_eq_false_iff_ne, ← Decidable.not_and_iff_not_or_not] using h

/-- A model deck to which nothing is bound leaves its slot, and the result waits. -/
theorem modelUnload_stock {k : Deck} (hready : flag s pgMb Off.MB_READY 2 = true) (hslot : mbArg s 0 < 16)
    (hk : modelDeck s (mbArg s 0) = some k) (hbound : boundTo s (mbArg s 0) = []) :
    (modelUnload s).boot.decks = decksBut (mbArg s 0) s ∧ (modelUnload s).boot.cmd = some ⟨7, 0, 0, 0xFF, 0⟩ := by
  have hslot' : decide (16 ≤ mbArg s 0) = false := decide_eq_false (by omega)
  unfold modelUnload
  simp only [hready, hslot', hk, hbound, Bool.not_true, Bool.or_self, Bool.false_eq_true, if_false, List.any_nil, List.foldl_nil]
  refine ⟨(stock_mbEnd (H := s.boot.handles) 7 0 0 0xFF 0 (stock_reloadEnd (stock_deckChanged (stock_setReady _ false ?_)))).decks, cmd_mbEnd ..⟩
  refine Stock.of_keeps ?_ (keeps_lockTables (leavesBoot rfl) _ _ _ (keeps_dropEntries (leavesBoot rfl) _ _
    (keeps_dropRegions (leavesBoot rfl) k _ (.refl _ _))))
  exact ⟨rfl, rfl⟩

theorem runs_modelUnload {k : Deck} (hf : MailFree s w) (hen : flag s pgMb Off.CTRL 0 = true) (hready : flag s pgMb Off.MB_READY 2 = true)
    (hslot : mbArg s 0 < 16) (hk : modelDeck s (mbArg s 0) = some k) (hbound : boundTo s (mbArg s 0) = []) :
    Runs (.modelUnload w) s fun t =>
      modelDeck t (mbArg s 0) = none ∧ (∀ d ∈ s.boot.decks, (d.kind = 3 ∧ d.slot = mbArg s 0) ∨ d ∈ t.boot.decks) ∧
        t.boot.cmd = some ⟨7, 0, 0, 0xFF, 0⟩ := by
  refine runs_mbRun rfl hf hen (by decide) fun u l hu => ?_
  have hready' : flag u pgMb Off.MB_READY 2 = true := (hu.flag_eq pgMb 2 (by decide) (by decide) (by decide)).trans hready
  obtain ⟨hdecks, hcmd⟩ := modelUnload_stock (s := u) (k := k) hready' (hu.mbArg_zero.symm ▸ hslot)
    (by rw [hu.modelDeck_eq, hu.mbArg_zero]; exact hk) (by rw [hu.boundTo_eq, hu.mbArg_zero]; exact hbound)
  have hdecks' : (withMgmt l (modelUnload u)).boot.decks = decksBut (mbArg s 0) s := by
    rw [withMgmt_boot, hdecks, hu.mbArg_zero, decksBut, hu.boot_eq, decksBut]
  refine ⟨modelDeck_unloaded hdecks', fun d hd => ?_, hcmd⟩
  show _ ∨ d ∈ (withMgmt l (modelUnload u)).boot.decks
  rw [hdecks']
  exact mem_decksBut hd

/-! ## DECK_FINISH (R111, R115) -/

/-- The deck that a handle installs. -/
def deckOfHandle (slot : Nat) (x : DeckHandle) : Deck := ⟨deckKind x.bytes, if deckKind x.bytes = 3 then slot else 0, x.bytes, x.units⟩

/-- An installation adds the deck and closes its handle. -/
theorem stock_deckInstall (slot : Nat) (x : DeckHandle) :
    deckOfHandle slot x ∈ (deckInstall h slot x s).boot.decks ∧ (deckInstall h slot x s).boot.handles = handlesBut h s := by
  unfold deckInstall
  extract_lets kind again k others _ u a b c v
  have hu : Stock (others ++ [k]) (handlesBut h s) u := ⟨by rw [bump_boot]; rfl, by rw [bump_boot]; rfl⟩
  have ha : Stock (others ++ [k]) (handlesBut h s) a := stock_ite hu (stock_addRegions _ hu)
  have hb : Stock (others ++ [k]) (handlesBut h s) b := stock_ite (stock_setReady _ _ ha) ha
  have hc : Stock (others ++ [k]) (handlesBut h s) c := hb.of_keeps (keeps_dropEntries (leavesBoot rfl) slot b (.refl _ b))
  have hv : Stock (others ++ [k]) (handlesBut h s) v := by
    unfold v
    clear_value c b a u kind
    split
    · exact stock_setReady _ _ (stock_setReady _ _ (stock_setReady _ _ (hu.of_keeps (keeps_diceLayer (leavesBoot rfl) _ _ (.refl _ _)))))
    · exact stock_ite hu (stock_serviceStart _ (stock_addRegions _ hu))
    · refine hc.of_keeps (keeps_lockTables (leavesBoot rfl) _ _ _ (Keeps.foldl (fun t y ht => ?_) (.refl _ c)))
      exact keeps_addEntry (leavesBoot rfl) slot y t ht
  have hend := stock_reloadEnd (stock_deckChanged hv)
  exact ⟨by rw [hend.decks]; exact List.mem_append_right _ (.head _), hend.handles⟩

/-- A complete deck whose slot and regions are free is installed, and the result waits (R115). -/
theorem deckFinish_eq {x : DeckHandle} (hx : handleOf s h = some x) (hall : x.total ≤ x.bytes.length) (hr : s.boot.reload = [])
    (hslot : deckKind x.bytes = 3 → mbArg s 0 < 16 ∧ modelDeck s (mbArg s 0) = none)
    (hroom : (unitRuns x.units.main).length + (unitRuns x.units.restore).length ≤ (freeEntries s).length) :
    deckFinish h s = mbEnd 4 h 0 0xFF (if deckKind x.bytes = 3 then mbArg s 0 else 0) (deckInstall h (mbArg s 0) x s) := by
  have hwant : s.boot.reload.contains (deckKind x.bytes, if deckKind x.bytes = 3 then mbArg s 0 else 0) = false := by rw [hr]; rfl
  have hlow : ¬(deckKind x.bytes = 3 ∧ 16 ≤ mbArg s 0) := fun e => absurd (hslot e.1).1 (Nat.not_lt.mpr e.2)
  have htaken : ¬(deckKind x.bytes = 3 ∧ (modelDeck s (mbArg s 0)).isSome = true ∧ (!false) = true) := fun e => by
    rw [(hslot e.1).2] at e
    exact absurd e.2.1 (by decide)
  unfold deckFinish
  rw [hx]
  dsimp only
  rw [hwant, if_neg (Nat.not_lt.mpr hall), if_neg hlow, if_neg htaken, if_neg (by simp), if_neg fun e => Nat.not_lt.mpr hroom e.2]

theorem runs_deckFinish {x : DeckHandle} (hf : MailFree s w) (hen : flag s pgMb Off.CTRL 0 = true) (h4 : h < 4) (hx : handleOf s h = some x)
    (hall : x.total ≤ x.bytes.length) (hr : s.boot.reload = [])
    (hslot : deckKind x.bytes = 3 → mbArg s 0 < 16 ∧ modelDeck s (mbArg s 0) = none)
    (hroom : (unitRuns x.units.main).length + (unitRuns x.units.restore).length ≤ (freeEntries s).length) :
    Runs (.deckFinish w h) s fun t =>
      deckOfHandle (mbArg s 0) x ∈ t.boot.decks ∧ handleOf t h = none ∧ (∀ k, k ≠ h → handleOf t k = handleOf s k) ∧
        (t.boot.cmd.map fun r => (r.op, r.handle, r.code)) = some (4, h, 0) := by
  refine runs_mbRun rfl hf hen (by decide) fun u l hu => ?_
  obtain ⟨hmem, hhandles⟩ := stock_deckInstall (s := u) (h := h) (mbArg s 0) x
  have hrun : mbRun 4 (h % 4) [] u = mbEnd 4 h 0 0xFF (if deckKind x.bytes = 3 then mbArg s 0 else 0) (deckInstall h (mbArg s 0) x u) := by
    rw [Nat.mod_eq_of_lt h4, ← hu.mbArg_zero]
    refine deckFinish_eq ((hu.handleOf_eq h).trans hx) hall (by rw [hu.boot_eq]; exact hr) (fun hkind => ?_)
      (by rw [hu.freeEntries_eq]; exact hroom)
    rw [hu.mbArg_zero, hu.modelDeck_eq]
    exact hslot hkind
  rw [hrun]
  have hclosed := hhandles.trans (handlesBut_congr hu.boot_eq h)
  exact ⟨hmem, handleOf_closed hclosed, handleOf_others hclosed, rfl⟩

end Sys2Proof.Machine
end

section
/-! # Registers below the tiles' pages -/
namespace Sys2Proof.Machine

/-- Every register below the compute dies' pages is as it was (R592). -/
def LowKept (s t : State) : Prop := ∀ a, a < cdBase 0 → reg t a = reg s a

/-- The mask of every part but the fuses and the register file. -/
abbrev offRegs : Nat := 0x3ffffc

theorem leavesRegs {M : Nat} (e : M ||| offRegs = offRegs) : Within M offRegs := e

theorem cdBase_le_tileBase (t : Nat) : cdBase 0 ≤ tileBase t := by unfold tileBase cdBase; omega

theorem cdBase_le_pgSu (t : Nat) : cdBase 0 ≤ pageBase (pgSu t) := Nat.le_add_right_of_le (cdBase_le_tileBase t)
theorem cdBase_le_pgTsp (t : Nat) : cdBase 0 ≤ pageBase (pgTsp t) := Nat.le_add_right_of_le (cdBase_le_tileBase t)

variable {s t u : State}

theorem LowKept.refl (s : State) : LowKept s s := fun _ _ => rfl

theorem LowKept.trans (h : LowKept s t) (h' : LowKept t u) : LowKept s u := fun a ha => (h' a ha).trans (h a ha)

theorem LowKept.of_keeps (h : LowKept s t) (k : Keeps offRegs t u) : LowKept s u :=
  h.trans fun a _ => reg_of_regs (k.same .part rfl) (k.same .regs rfl) a

theorem LowKept.wr (h : LowKept s t) {p : Page} (hp : cdBase 0 ≤ pageBase p) (off : Nat) (v : Word) : LowKept s (wr p off v t) :=
  h.trans fun _ ha => reg_wr_ne v (by omega)

theorem LowKept.setFlag (h : LowKept s t) {p : Page} (hp : cdBase 0 ≤ pageBase p) (off b : Nat) (v : Bool) : LowKept s (setFlag p off b v t) :=
  h.wr hp _ _

theorem LowKept.ite {c : Prop} [Decidable c] (h : LowKept s t) (h' : LowKept s u) : LowKept s (if c then t else u) := by
  split <;> assumption

theorem LowKept.foldl {β : Type} {f : State → β → State} (hf : ∀ t b, LowKept s t → LowKept s (f t b)) (l : List β) (h : LowKept s t) :
    LowKept s (l.foldl f t) := by
  induction l generalizing t with
  | nil => exact h
  | cons b r ih => exact ih (hf t b h)

theorem LowKept.fld_eq (h : LowKept s t) {p : Page} {off : Nat} (hp : pageBase p + off < cdBase 0) (lo w : Nat) :
    fld t p off lo w = fld s p off lo w := fld_congr (h _ hp)

/-! ## Restoring a deck (R119, R128) -/

theorem lowKept_pwlStore (n first : Nat) (bs : List Byte) (h : LowKept s t) : LowKept s (pwlStore n first bs t) := by
  refine LowKept.foldl (fun u i hu => LowKept.ite hu (LowKept.foldl (fun v j hv => hv.wr (cdBase_le_pgSu n) _ _) _ ?_)) _ h
  exact hu.setFlag (cdBase_le_pgSu n) _ _ _

theorem lowKept_placeContent (units : DeckUnits) (deck : List Byte) (x : Sect) (bs : List Byte) (h : LowKept s t) :
    LowKept s (placeContent units deck x bs t) := by
  unfold placeContent
  split
  · exact h.of_keeps (keeps_callWrite (leavesRegs rfl) _ _ t (.refl _ t))
  · exact h.of_keeps (keeps_sramWrite (leavesRegs rfl) _ _ _ t (.refl _ t))
  · exact h.of_keeps (keeps_sramWrite (leavesRegs rfl) _ _ _ t (.refl _ t))
  · exact h.of_keeps (keeps_sramWrite (leavesRegs rfl) _ _ _ t (.refl _ t))
  · exact lowKept_pwlStore _ _ _ h
  · exact h.of_keeps (keeps_writeSlots (leavesRegs rfl) _ _ t (.refl _ t))
  · exact h.of_keeps (keeps_writeSlots (leavesRegs rfl) _ _ t (.refl _ t))
  · exact h

theorem lowKept_addEntry (slot : Nat) (x : Sect) (h : LowKept s t) : LowKept s (addEntry slot x t) := by
  unfold addEntry
  extract_lets base size
  split
  · exact h
  · exact (h.wr (cdBase_le_pgTsp _) _ _).wr (cdBase_le_pgTsp _) _ _

theorem lowKept_dropEntries (slot : Nat) (h : LowKept s t) : LowKept s (dropEntries slot t) := by
  refine LowKept.foldl (fun u n hu => LowKept.foldl (fun v k hv => LowKept.ite ?_ hv) _ hu) _ h
  have hmark : LowKept s { v with fc := { v.fc with marked := v.fc.marked.filter fun m => m != (n, k) } } := hv
  exact (hmark.wr (cdBase_le_pgTsp n) _ _).wr (cdBase_le_pgTsp n) _ _

theorem lowKept_lockTables (deck : List Byte) (on : Bool) (h : LowKept s t) : LowKept s (lockTables deck on t) := by
  refine LowKept.foldl (fun u x hu => LowKept.foldl (fun v i hv => ?_) _ hu) _ h
  exact (hv.setFlag (cdBase_le_pgSu _) _ _ _).setFlag (cdBase_le_pgSu _) _ _ _

theorem lowKept_restoreDeck (k : Deck) (h : LowKept s t) : LowKept s (restoreDeck k t) := by
  unfold restoreDeck
  refine LowKept.ite h (LowKept.ite h ?_)
  extract_lets u v
  have hu : LowKept s u := by
    refine LowKept.foldl (fun v x hv => ?_) _ h
    split
    · exact lowKept_placeContent _ _ _ _ hv
    · exact hv
  refine LowKept.ite ?_ hu
  exact lowKept_lockTables _ _ (LowKept.foldl (fun v y hv => lowKept_addEntry _ _ hv) _ (lowKept_dropEntries _ hu))

end Sys2Proof.Machine
end

section
/-! # The end of the restore (R119, R128) -/
namespace Sys2Proof.Machine

variable {s t u : State}

/-- A bit of MB_READY changes that register and the mailbox page's EVT_RAW alone. -/
theorem regsBut_setReady (b : Nat) (v : Bool) (s : State) :
    RegsBut [pageBase pgMb + Off.MB_READY, pageBase pgMb + Off.EVT_RAW] s (setReady b v s) := by
  unfold setReady
  split
  · exact .refl _ s
  · exact ((RegsBut.refl _ s).setFlag b v (.head _)).raise _ (.tail _ (.head _))

/-- The state with every deck restored, or marked for a reload. -/
def decksRestored (s : State) : State := (s.boot.decks.filter fun k => k.kind != 1).foldl (fun s k => restoreDeck k s) s

/-- RESTORING reads 0 and the event is set. -/
def restoreEnds (s : State) : State := raise pgPower Evt.PWR_RESTORE_DONE (setFld pgPower Off.PWR_STATE 9 1 0 s)

/-- The restore of tile SRAM is no longer owed, or a reload is needed. -/
def restoreOwes (s : State) : State := if s.boot.reload.isEmpty then { s with pwr := { s.pwr with owed := false } } else setReady 7 true s

/-- The domains go back to the levels of the state. -/
def settles (s : State) : State := { s with pwr := { s.pwr with settling := true } }

theorem lowKept_decksRestored (s : State) : LowKept s (decksRestored s) :=
  LowKept.foldl (fun _ k ht => lowKept_restoreDeck k ht) _ (.refl s)

theorem regsBut_restoreOwes (s : State) :
    RegsBut [pageBase pgMb + Off.MB_READY, pageBase pgMb + Off.EVT_RAW] s (restoreOwes s) := by
  unfold restoreOwes
  split
  · exact .of_regs rfl rfl
  · exact regsBut_setReady 7 true s

/-- The registers of the power page are no mailbox registers. -/
theorem rd_restoreOwes (off : Nat) (hoff : off < 0x1000) (s : State) : rd (restoreOwes s) pgPower off = rd s pgPower off := by
  refine regsBut_restoreOwes s _ ?_
  have hbase : pageBase pgPower = 0x2000 := rfl
  have hready : pageBase pgMb + Off.MB_READY = 0x3100 := rfl
  have hraw : pageBase pgMb + Off.EVT_RAW = 0x3010 := rfl
  rw [hready, hraw]
  simp only [List.mem_cons, List.not_mem_nil, or_false]
  omega

theorem fld_restoreEnds_below {lo w : Nat} (h : lo + w ≤ 9) (s : State) :
    fld (restoreEnds s) pgPower Off.PWR_STATE lo w = fld s pgPower Off.PWR_STATE lo w :=
  (fld_congr (reg_raise_ne (by decide))).trans (fld_setFld_below _ _ (by decide) h)

theorem flag_restoreEnds (s : State) : flag (restoreEnds s) pgPower Off.PWR_STATE 9 = false := by
  have h : fld (restoreEnds s) pgPower Off.PWR_STATE 9 1 = 0 :=
    (fld_congr (reg_raise_ne (by decide))).trans (fld_setFld_same _ _ _ _ _ (by decide))
  unfold flag
  rw [h]
  rfl

/-- What becomes of PWR_STATE, but for RESTORING, at the end of a restore. -/
theorem fld_settles {lo w : Nat} (h : lo + w ≤ 9) (s : State) :
    fld (settles (restoreOwes (restoreEnds (decksRestored s)))) pgPower Off.PWR_STATE lo w = fld s pgPower Off.PWR_STATE lo w :=
  calc fld (restoreOwes (restoreEnds (decksRestored s))) pgPower Off.PWR_STATE lo w
    _ = fld (restoreEnds (decksRestored s)) pgPower Off.PWR_STATE lo w := fld_congr (rd_restoreOwes _ (by decide) _)
    _ = fld (decksRestored s) pgPower Off.PWR_STATE lo w := fld_restoreEnds_below h _
    _ = fld s pgPower Off.PWR_STATE lo w := (lowKept_decksRestored s).fld_eq (by decide) lo w

/-- A restore that ends while no climb waits for it leaves the state to settle. -/
theorem execRestoreDone_eq (hr : flag s pgPower Off.PWR_STATE 9 = true) (hst : 2 ≤ pwrState s) (hph : pwrPhase s = 0)
    (hdom : domainsAt s (restoreLevel s) = true) : execRestoreDone s = settles (restoreOwes (restoreEnds (decksRestored s))) := by
  have hcond : (restoring s && decide (2 ≤ pwrState s) && domainsAt s (restoreLevel s)) = true := by
    rw [decide_eq_true hst, hdom, restoring, hr]
    rfl
  have hphase : ¬pwrPhase (settles (restoreOwes (restoreEnds (decksRestored s)))) = 5 := by
    rw [pwrPhase, fld_settles (by decide)]
    exact fun e => absurd (hph.symm.trans e) (by decide)
  unfold execRestoreDone
  rw [hcond]
  exact if_neg hphase

theorem runs_restoreDone (hr : flag s pgPower Off.PWR_STATE 9 = true) (hst : 2 ≤ pwrState s) (hph : pwrPhase s = 0)
    (hdom : domainsAt s (restoreLevel s) = true) : Runs .restoreDone s fun t =>
      t.pwr.settling = true ∧ flag t pgPower Off.PWR_STATE 9 = false ∧ flag t pgPower Off.EVT_RAW Evt.PWR_RESTORE_DONE = true ∧
        pwrState t = pwrState s := by
  refine ⟨_, congrArg Host.Outcome.next (execRestoreDone_eq hr hst hph hdom), rfl, ?_, ?_, fld_settles (by decide) s⟩
  · exact (flag_congr (rd_restoreOwes _ (by decide) _)).trans (flag_restoreEnds _)
  · exact (flag_congr (rd_restoreOwes _ (by decide) _)).trans (flag_raise_same _ _ (by decide) (by decide))

end Sys2Proof.Machine
end

section
/-! # The armed deals

What a beat does before its deals are evaluated arms none and ends none, but for the soft resets and the domains that go off: for each
operation `<operation>_deals` says so. -/
namespace Sys2Proof.Machine

variable {s t : State}

/-- The mask of every part but the heads of the pages. -/
abbrev offHead : Nat := 0x3ffff7

theorem leavesHead {M : Nat} (e : M ||| offHead = offHead) : Within M offHead := e

theorem deals_of_keeps (k : Keeps offHead s t) : t.head.deals = s.head.deals := by rw [k.same .head rfl]

@[simp] theorem deals_ite {c : Prop} [Decidable c] {u v : State} :
    (if c then u else v).head.deals = if c then u.head.deals else v.head.deals := apply_ite (·.head.deals) c u v

@[simp] theorem deals_foldl {β : Type} {f : State → β → State} (hf : ∀ u b, (f u b).head.deals = u.head.deals) (l : List β) (s : State) :
    (l.foldl f s).head.deals = s.head.deals := by
  induction l generalizing s with
  | nil => rfl
  | cons b r ih => exact (ih _).trans (hf s b)

theorem deals_foldl_snd {β γ : Type} {f : γ × State → β → γ × State} (hf : ∀ u b, (f u b).2.head.deals = u.2.head.deals) (l : List β)
    (r : γ × State) : (l.foldl f r).2.head.deals = r.2.head.deals := by
  induction l generalizing r with
  | nil => rfl
  | cons b l ih => exact (ih _).trans (hf r b)

variable (s)

/-! ### What leaves the heads of the pages -/

@[simp] theorem clearCounters_deals (p : Page) : (clearCounters p s).head.deals = s.head.deals :=
  deals_of_keeps (keeps_clearCounters (leavesHead rfl) _ s (.refl _ s))
@[simp] theorem fresh_deals : (fresh s).2.head.deals = s.head.deals :=
  deals_of_keeps (keeps_fresh (leavesHead rfl) s (.refl _ s))
@[simp] theorem hostSend_deals (fn : Nat) (o : Out) : (hostSend fn o s).head.deals = s.head.deals :=
  deals_of_keeps (keeps_hostSend (leavesHead rfl) _ _ s (.refl _ s))
@[simp] theorem signalPage_deals (base : Nat) : (signalPage base s).head.deals = s.head.deals :=
  deals_of_keeps (keeps_signalPage (leavesHead rfl) _ s (.refl _ s))
@[simp] theorem wr64_deals (p : Page) (lo hi v : Nat) : (wr64 p lo hi v s).head.deals = s.head.deals :=
  deals_of_keeps (keeps_wr64 (leavesHead rfl) _ _ _ _ s (.refl _ s))
@[simp] theorem setPwrTarget_deals (n : Nat) : (setPwrTarget n s).head.deals = s.head.deals :=
  deals_of_keeps (keeps_setPwrTarget (leavesHead rfl) _ s (.refl _ s))
@[simp] theorem setPwrPhase_deals (n : Nat) : (setPwrPhase n s).head.deals = s.head.deals :=
  deals_of_keeps (keeps_setPwrPhase (leavesHead rfl) _ s (.refl _ s))
@[simp] theorem trainStack_deals (n : Nat) : (trainStack n s).head.deals = s.head.deals :=
  deals_of_keeps (keeps_trainStack (leavesHead rfl) _ s (.refl _ s))
@[simp] theorem ringRenew_deals : (ringRenew s).head.deals = s.head.deals :=
  deals_of_keeps (keeps_ringRenew (leavesHead rfl) s (.refl _ s))
@[simp] theorem setVo_deals (p : Nat) (v : VoSt) : (setVo p v s).head.deals = s.head.deals :=
  deals_of_keeps (keeps_setVo (leavesHead rfl) _ _ s (.refl _ s))
@[simp] theorem updNewest_deals (n i : Nat) (g : IspFrame → IspFrame) : (updNewest n i g s).head.deals = s.head.deals :=
  deals_of_keeps (keeps_updNewest (leavesHead rfl) _ _ _ s (.refl _ s))
@[simp] theorem ispCutAt_deals (n i c : Nat) : (ispCutAt n i c s).head.deals = s.head.deals :=
  deals_of_keeps (keeps_ispCutAt (leavesHead rfl) _ _ _ s (.refl _ s))
@[simp] theorem latchesEnd_deals : (latchesEnd s).head.deals = s.head.deals :=
  deals_of_keeps (keeps_latchesEnd (leavesHead rfl) s (.refl _ s))
@[simp] theorem updFrameOf_deals (r k : Nat) (f : CsiFrame → CsiFrame) : (updFrameOf r k f s).head.deals = s.head.deals :=
  deals_of_keeps (keeps_updFrameOf (leavesHead rfl) _ _ _ s (.refl _ s))
@[simp] theorem dropBypass_deals (n : Nat) : (dropBypass n s).head.deals = s.head.deals :=
  deals_of_keeps (keeps_dropBypass (leavesHead rfl) _ s (.refl _ s))
@[simp] theorem markActive_deals (t u : Nat) : (markActive t u s).head.deals = s.head.deals :=
  deals_of_keeps (keeps_markActive (leavesHead rfl) _ _ s (.refl _ s))
@[simp] theorem sramWrite_deals (t a : Nat) (bs : List Byte) : (sramWrite t a bs s).head.deals = s.head.deals :=
  deals_of_keeps (keeps_sramWrite (leavesHead rfl) _ _ _ s (.refl _ s))
@[simp] theorem portRead_deals (t port a n : Nat) : (portRead t port a n s).head.deals = s.head.deals :=
  deals_of_keeps (keeps_portRead (leavesHead rfl) _ _ _ _ s (.refl _ s))
@[simp] theorem setLanes_deals (t base : Nat) (vs : List Nat) : (setLanes t base vs s).head.deals = s.head.deals :=
  deals_of_keeps (keeps_setLanes (leavesHead rfl) _ _ _ s (.refl _ s))
@[simp] theorem dropSegment_deals (t n : Nat) : (dropSegment t n s).head.deals = s.head.deals :=
  deals_of_keeps (keeps_dropSegment (leavesHead rfl) _ _ s (.refl _ s))
@[simp] theorem signalTokens_deals (t : Nat) (i : Issue) : (signalTokens t i s).head.deals = s.head.deals :=
  deals_of_keeps (keeps_signalTokens (leavesHead rfl) _ _ s (.refl _ s))
@[simp] theorem updKernel_deals (t : Nat) (f : Kernel → Kernel) : (updKernel t f s).head.deals = s.head.deals :=
  deals_of_keeps (keeps_updKernel (leavesHead rfl) _ _ s (.refl _ s))
@[simp] theorem railSet_deals (noc : Bool) (k was : Nat) : (railSet noc k was s).head.deals = s.head.deals :=
  deals_of_keeps (keeps_railSet (leavesHead rfl) _ _ _ s (.refl _ s))
@[simp] theorem updPoolLine_deals (t n : Nat) (f : PoolLine → PoolLine) : (updPoolLine t n f s).head.deals = s.head.deals :=
  deals_of_keeps (keeps_updPoolLine (leavesHead rfl) _ _ _ s (.refl _ s))
@[simp] theorem haloPostTo_deals (t u n v c : Nat) : (haloPostTo t u n v c s).head.deals = s.head.deals :=
  deals_of_keeps (keeps_haloPostTo (leavesHead rfl) _ _ _ _ _ s (.refl _ s))
@[simp] theorem suClear_deals (t : Nat) : (suClear t s).head.deals = s.head.deals :=
  deals_of_keeps (keeps_suClear (leavesHead rfl) _ s (.refl _ s))
@[simp] theorem stemRelease_deals (l : Launch) : (stemRelease l s).head.deals = s.head.deals :=
  deals_of_keeps (keeps_stemRelease (leavesHead rfl) _ s (.refl _ s))
@[simp] theorem scaleSegment_deals (q : Nat) (r : Queue) : (scaleSegment q r s).head.deals = s.head.deals :=
  deals_of_keeps (keeps_scaleSegment (leavesHead rfl) _ _ s (.refl _ s))
@[simp] theorem clearPage_deals (p : Page) (keep : Nat → Bool) : (clearPage p keep s).head.deals = s.head.deals :=
  deals_of_keeps (keeps_clearPage (leavesHead rfl) _ _ s (.refl _ s))
@[simp] theorem linkReset_deals (p : Page) : (linkReset p s).head.deals = s.head.deals :=
  deals_of_keeps (keeps_linkReset (leavesHead rfl) _ s (.refl _ s))
@[simp] theorem regionsLost_deals (p : Page) : (regionsLost p s).head.deals = s.head.deals :=
  deals_of_keeps (keeps_regionsLost (leavesHead rfl) _ s (.refl _ s))
@[simp] theorem sensorsOff_deals (d : Nat) : (sensorsOff d s).head.deals = s.head.deals :=
  deals_of_keeps (keeps_sensorsOff (leavesHead rfl) _ s (.refl _ s))
@[simp] theorem contentsLost_deals (d level : Nat) : (contentsLost d level s).head.deals = s.head.deals :=
  deals_of_keeps (keeps_contentsLost (leavesHead rfl) _ _ s (.refl _ s))
@[simp] theorem updFence_deals (d : Nat) (f : FenceSt → FenceSt) : (updFence d f s).head.deals = s.head.deals :=
  deals_of_keeps (keeps_updFence (leavesHead rfl) _ _ s (.refl _ s))
@[simp] theorem setPhase_deals (d n : Nat) : (setPhase d n s).head.deals = s.head.deals :=
  deals_of_keeps (keeps_setPhase (leavesHead rfl) _ _ s (.refl _ s))
@[simp] theorem slotNotes_deals : (slotNotes s).head.deals = s.head.deals :=
  deals_of_keeps (keeps_slotNotes (leavesHead rfl) s (.refl _ s))

/-! ### Counters, events, records and commands -/

@[simp] theorem noteCount_deals (a k : Nat) : (noteCount a k s).head.deals = s.head.deals := rfl

@[simp] theorem bump_deals (p : Page) (off k : Nat) : (bump p off k s).head.deals = s.head.deals :=
  (noteCount_deals ..).trans (congrArg (·.deals) (wr_head ..))

@[simp] theorem noteSet_deals (a b : Nat) : (noteSet a b s).head.deals = s.head.deals := rfl
@[simp] theorem raise_deals (p : Page) (b : Nat) : (raise p b s).head.deals = s.head.deals := deals_raise p b s
@[simp] theorem formRec_deals (r : FaultRec) : (formRec r s).head.deals = s.head.deals := by simp [formRec]
@[simp] theorem endCmd_deals (p : Page) (id : Nat) : (endCmd p id s).head.deals = s.head.deals := rfl
@[simp] theorem endAllCmds_deals (p : Page) : (endAllCmds p s).head.deals = s.head.deals := rfl
@[simp] theorem endOfBeatSignals_deals : (endOfBeatSignals s).head.deals = s.head.deals := by simp [endOfBeatSignals]

/-! ### The recorder of the hand history -/

@[simp] theorem hhLose_deals : (hhLose s).head.deals = s.head.deals := by simp [hhLose]
@[simp] theorem hhCapture1_deals (r : HistRec) : (hhCapture1 r s).head.deals = s.head.deals := by simp [hhCapture1]

@[simp] theorem hhInput_deals (kind flags island unit : Nat) (payload : List Byte) :
    (hhInput kind flags island unit payload s).head.deals = s.head.deals := by
  simp [hhInput]

@[simp] theorem hhCapture_deals (kind island unit : Nat) (payload : List Byte) :
    (hhCapture kind island unit payload s).head.deals = s.head.deals := by
  simp [hhCapture]

@[simp] theorem ringDenied_deals : (ringDenied s).head.deals = s.head.deals := by simp [ringDenied]
@[simp] theorem ringBytes_deals (bs : List Byte) : (ringBytes bs s).head.deals = s.head.deals := by simp [ringBytes]
@[simp] theorem hhPut_deals (r : HistRec) : (hhPut r s).head.deals = s.head.deals := by simp [hhPut]
@[simp] theorem hhGap_deals (lost tt : Nat) : (hhGap lost tt s).head.deals = s.head.deals := by simp [hhGap]
@[simp] theorem hhWrite_deals (r : HistRec) : (hhWrite r s).head.deals = s.head.deals := by simp [hhWrite]
@[simp] theorem hhFlush_deals : (hhFlush s).head.deals = s.head.deals := by simp [hhFlush]

/-! ### Flits and late messages -/

@[simp] theorem flitsPass_deals (a b n : Nat) : (flitsPass a b n s).head.deals = s.head.deals := by simp [flitsPass]
@[simp] theorem lateMark_deals (src dst sent : Nat) : (lateMark src dst sent s).head.deals = s.head.deals := by simp [lateMark]
@[simp] theorem applyRelax_deals : (applyRelax s).head.deals = s.head.deals := by simp [applyRelax]

/-! ### Domains that come on, results of power commands -/

@[simp] theorem trainLink_deals (die edge : Nat) : (trainLink die edge s).head.deals = s.head.deals := by
  unfold trainLink
  extract_lets p x good u v
  have hu : u.head.deals = s.head.deals := congrArg (·.deals) ((setFld_head ..).trans (setFld_head ..))
  have hv : v.head.deals = u.head.deals := by simp only [v, deals_ite, raise_deals, ite_self]
  clear_value u v
  rw [deals_ite, hv, hu, ite_self]

@[simp] theorem trainLinks_deals (die : Nat) : (trainLinks die s).head.deals = s.head.deals := by simp [trainLinks]
@[simp] theorem domainOn_deals (d : Nat) : (domainOn d s).head.deals = s.head.deals := by simp [domainOn]

@[simp] theorem postPwrResult_deals (code : Nat) : (postPwrResult code s).head.deals = s.head.deals := by
  unfold postPwrResult
  rw [raise_deals, setFlag_head, wr_head]

/-! ### The audio ring and the Call engine -/

@[simp] theorem ringZeroise_deals (p : RingBlk → Bool) : (ringZeroise p s).head.deals = s.head.deals := by simp [ringZeroise]
@[simp] theorem ringUnlock_deals (start : Nat) : (ringUnlock start s).head.deals = s.head.deals := by simp [ringUnlock]
@[simp] theorem ringSigned_deals (g : SignSt) : (ringSigned g s).head.deals = s.head.deals := by simp [ringSigned]

@[simp] theorem ringRelock_deals : (ringRelock s).head.deals = s.head.deals := by
  unfold ringRelock
  (repeat' split) <;> simp

@[simp] theorem ringStop_deals : (ringStop s).head.deals = s.head.deals := by simp [ringStop]
@[simp] theorem ceWipe_deals : (ceWipe s).head.deals = s.head.deals := by simp [ceWipe]
@[simp] theorem ceRestart_deals : (ceRestart s).head.deals = s.head.deals := by simp [ceRestart]

/-! ### The release port -/

@[simp] theorem releaseRead_deals (tenant : Option Nat) (island addr : Nat) :
    (releaseRead tenant island addr s).2.head.deals = s.head.deals := by
  unfold releaseRead
  split
  · rfl
  · split
    · simp
    · split <;> simp

@[simp] theorem releaseAnswer_deals (tenant : Option Nat) (addr : Nat) : (releaseAnswer tenant addr s).head.deals = s.head.deals := by
  simp [releaseAnswer]

@[simp] theorem readsEnd_deals : (readsEnd s).head.deals = s.head.deals := by simp [readsEnd]

/-! ### The image pipelines -/

@[simp] theorem outDrop_deals (n : Nat) (f : IspFrame) (q : OutFrame) : (outDrop n f q s).2.head.deals = s.head.deals := by simp [outDrop]

@[simp] theorem outEmit_deals (n : Nat) (f : IspFrame) (q : OutFrame) (segs : List (Nat × List Byte)) :
    (outEmit n f q segs s).2.head.deals = s.head.deals := by
  unfold outEmit
  dsimp only
  (repeat' split) <;> simp

theorem outStep_deals (n : Nat) (f : IspFrame) (q : OutFrame) (s : State) (r : OutFrame × State) (hr : outStep n f q s = some r) :
    r.2.head.deals = s.head.deals := by
  unfold outStep at hr
  extract_lets g reach r1 e1 u1 px r2 e2 u2 at hr
  have h1 : e1.2.head.deals = s.head.deals := by simp [e1]
  have h2 : e2.2.head.deals = s.head.deals := by simp [e2]
  clear_value u1 u2 e1 e2
  split at hr
  · cases hr
  · split at hr
    · obtain rfl := Option.some.inj hr
      split <;> simp [h1]
    · split at hr
      · obtain rfl := Option.some.inj hr
        split <;> exact h2
      · cases hr

@[simp] theorem outRun_deals (n : Nat) (f : IspFrame) (k : Nat) (q : OutFrame) (s : State) :
    (outRun n f k q s).2.head.deals = s.head.deals := by
  induction k generalizing q s with
  | zero => rfl
  | succ k ih =>
    unfold outRun
    split
    · rfl
    · next hr => exact (ih ..).trans (outStep_deals n f q s _ hr)

@[simp] theorem outsRun_deals (n : Nat) (f : IspFrame) : (outsRun n f s).2.head.deals = s.head.deals :=
  deals_foldl_snd (fun _ _ => by simp) _ _

@[simp] theorem outFinish_deals (n : Nat) (f : IspFrame) (s : State) (q : OutFrame) : (outFinish n f s q).head.deals = s.head.deals := by
  simp [outFinish]

@[simp] theorem frameSettle_deals (n : Nat) (f : IspFrame) : (frameSettle n f s).head.deals = s.head.deals := by simp [frameSettle]
@[simp] theorem ispSettle_deals (n : Nat) : (ispSettle n s).head.deals = s.head.deals := by simp [ispSettle]
@[simp] theorem statWrite_deals (n : Nat) (f : IspFrame) : (statWrite n f s).head.deals = s.head.deals := by simp [statWrite]

@[simp] theorem ispFinish_deals (n i : Nat) : (ispFinish n i s).head.deals = s.head.deals := by
  unfold ispFinish
  split <;> simp

@[simp] theorem ispLine_deals (n i : Nat) (ps : List (List Nat)) : (ispLine n i ps s).2.head.deals = s.head.deals := by
  unfold ispLine
  (repeat' split) <;> simp

@[simp] theorem ispClose_deals (n i flags : Nat) : (ispClose n i flags s).head.deals = s.head.deals := by simp [ispClose]

@[simp] theorem sliceGrant_deals (n : Nat) : (sliceGrant n s).head.deals = s.head.deals := by
  unfold sliceGrant
  dsimp only
  (repeat' split) <;> simp

@[simp] theorem grantsEnd_deals : (grantsEnd s).head.deals = s.head.deals := by simp [grantsEnd]

/-! ### The camera receivers -/

@[simp] theorem csiRecordLine_deals (r k : Nat) (f : CsiFrame) (line : Nat) (ps : List (List Nat)) :
    (csiRecordLine r k f line ps s).head.deals = s.head.deals := by
  unfold csiRecordLine
  split <;> simp

@[simp] theorem csiRecordFrame_deals (r k : Nat) (f : CsiFrame) : (csiRecordFrame r k f s).head.deals = s.head.deals := by
  simp [csiRecordFrame]

@[simp] theorem csiDeliver_deals (r k line : Nat) (ps : List (List Nat)) : (csiDeliver r k line ps s).head.deals = s.head.deals := by
  unfold csiDeliver
  split <;> simp

@[simp] theorem csiPad_deals (r k stop n : Nat) (s : State) : (csiPad r k stop n s).2.head.deals = s.head.deals := by
  induction n generalizing s with
  | zero => rfl
  | succ n ih =>
    unfold csiPad
    split
    · rfl
    · dsimp only
      split
      · rfl
      · split <;> simp [ih]

@[simp] theorem csiClose_deals (r k eofTt : Nat) : (csiClose r k eofTt s).head.deals = s.head.deals := by
  unfold csiClose
  dsimp only
  (repeat' split) <;> simp

@[simp] theorem csiTimeout_deals (r k : Nat) : (csiTimeout r k s).head.deals = s.head.deals := by simp [csiTimeout]
@[simp] theorem csiTimeouts_deals : (csiTimeouts s).head.deals = s.head.deals := by simp [csiTimeouts]

/-! ### Home slots -/

@[simp] theorem slotStore_deals (h : Home) (e : List Byte × Bool) : (slotStore h e s).head.deals = s.head.deals := by
  unfold slotStore
  dsimp only
  split <;> simp

@[simp] theorem slotWrite_deals (h : Home) (data : List Byte) : (slotWrite h data s).head.deals = s.head.deals := by simp [slotWrite]

/-! ### Kernels -/

@[simp] theorem holdRecord_deals (t kind queue ctx : Nat) (bs : List Byte) :
    (holdRecord t kind queue ctx bs s).head.deals = s.head.deals := by
  simp [holdRecord]

@[simp] theorem changeAdj_deals (t n c : Nat) (old new : Int) (reason : Nat) :
    (changeAdj t n c old new reason s).head.deals = s.head.deals := by
  simp [changeAdj]

@[simp] theorem adaptPoint_deals (t c : Nat) (q : QpRun) (high : Bool) : (adaptPoint t c q high s).head.deals = s.head.deals := by
  simp [adaptPoint]

@[simp] theorem closeStep_deals (t c : Nat) (q : QpRun) : (closeStep t c q s).head.deals = s.head.deals := by simp [closeStep]
@[simp] theorem breakSegment_deals (t n : Nat) : (breakSegment t n s).head.deals = s.head.deals := by simp [breakSegment]
@[simp] theorem clearKernel_deals (t : Nat) (k : Kernel) : (clearKernel t k s).head.deals = s.head.deals := by simp [clearKernel]
@[simp] theorem closeSteps_deals (t c : Nat) (qs : List QpRun) : (closeSteps t c qs s).head.deals = s.head.deals := by simp [closeSteps]

@[simp] theorem pointsEnd_deals : (pointsEnd s).head.deals = s.head.deals := by
  refine deals_foldl (fun u t => ?_) _ _
  dsimp only
  split
  · split <;> simp
  · simp

@[simp] theorem tokensOut_deals (t : Nat) (k : Kernel) : (tokensOut t k s).head.deals = s.head.deals := by simp [tokensOut]

@[simp] theorem finishKernel_deals (t status pc : Nat) : (finishKernel t status pc s).head.deals = s.head.deals := by
  unfold finishKernel
  split <;> simp

@[simp] theorem regionFault_deals (t pc : Nat) : (regionFault t pc s).head.deals = s.head.deals := by simp [regionFault]
@[simp] theorem ranEnd_deals (t u : Nat) (i : Issue) (r : Ran) : (ranEnd t u i r).head.deals = r.state.head.deals := by simp [ranEnd]

@[simp] theorem readRecord_deals (t a : Nat) : (readRecord t a s).2.head.deals = s.head.deals := by
  unfold readRecord
  dsimp only
  (repeat' split) <;> simp

@[simp] theorem clockSet_deals (noc : Bool) (k eff : Nat) (throttled : Bool) :
    (clockSet noc k eff throttled s).head.deals = s.head.deals := by
  simp [clockSet]

@[simp] theorem sendWriteBack_deals (t : Nat) (l : PoolLine) (line : Option Nat) :
    (sendWriteBack t l line s).head.deals = s.head.deals := by
  simp [sendWriteBack]

@[simp] theorem haloDrop_deals (t : Nat) : (haloDrop t s).head.deals = s.head.deals := by simp [haloDrop]

@[simp] theorem haloResume_deals (t : Nat) : (haloResume t s).head.deals = s.head.deals :=
  (deals_foldl (fun u w => by split <;> simp) _ _).trans (by simp)

@[simp] theorem haloAdd_deals (p : HaloPost) : (haloAdd p s).head.deals = s.head.deals := by simp [haloAdd]
@[simp] theorem countLanes_deals (t sats nans : Nat) : (countLanes t sats nans s).head.deals = s.head.deals := by simp [countLanes]

@[simp] theorem quantThrough_deals (t point : Nat) (fmt : Elem) (g : Nat) (float : Bool) (words : List Nat) (k : Kernel) :
    (quantThrough t point fmt g float words k s).2.head.deals = s.head.deals := by
  simp [quantThrough]

/-! ### Windows and posts -/

@[simp] theorem winExps_deals (t : Nat) (o : WindowOp) (d : Win) : (winExps t o d s).2.head.deals = s.head.deals := by
  unfold winExps
  split
  · rfl
  · exact deals_foldl_snd (fun _ _ => by simp) _ _

@[simp] theorem winPorts_deals (t : Nat) (o : WindowOp) (d : Win) (oy : Nat) : (winPorts t o d oy s).head.deals = s.head.deals := by
  refine (deals_foldl (fun u iy => ?_) _ _).trans (by simp)
  split
  · rfl
  · dsimp only
    split <;> simp

@[simp] theorem winCount_deals (t : Nat) (d : Win) (sats nans oy : Nat) : (winCount t d sats nans oy s).head.deals = s.head.deals := by
  simp [winCount]

@[simp] theorem winRecords_deals (t : Nat) (o : WindowOp) (d : Win) : (winRecords t o d s).2.head.deals = s.head.deals :=
  deals_foldl_snd (fun _ _ => by simp) _ _

@[simp] theorem winPut_deals (t : Nat) (o : WindowOp) (d : Win) (k : Kernel) (oy : Nat) (vs : List Nat) :
    (winPut t o d k oy vs s).head.deals = s.head.deals := by
  unfold winPut
  (repeat' split) <;> simp

@[simp] theorem winRows_deals (t : Nat) (i : Issue) (o : WindowOp) (bs : List Byte) (es : List Int) (k : Kernel) (n oy : Nat) (s : State) :
    (winRows t i o bs es k n oy s).state.head.deals = s.head.deals := by
  induction n generalizing oy s with
  | zero => rfl
  | succ n ih =>
    unfold winRows
    dsimp only
    split
    · rfl
    · split
      · rfl
      · split
        · simp
        · split
          · rfl
          · simp [ih]

@[simp] theorem windowResume_deals (t : Nat) : (windowResume t s).head.deals = s.head.deals :=
  deals_foldl (fun u w => by split <;> simp) _ _

@[simp] theorem haloCommit_deals (p : HaloPost) : (haloCommit p s).head.deals = s.head.deals := by simp [haloCommit]
@[simp] theorem postCommit_deals (t : Nat) (p : HaloPost) : (postCommit t p s).head.deals = s.head.deals := by simp [postCommit]
@[simp] theorem postsEnd_deals : (postsEnd s).head.deals = s.head.deals := by simp [postsEnd]

/-! ### Queues -/

@[simp] theorem queueEvent_deals (q : Nat) : (queueEvent q s).head.deals = s.head.deals := by simp [queueEvent]

@[simp] theorem completeBlocks_deals (q : Nat) (l : List (Nat × Nat)) (s : State) : (completeBlocks q l s).head.deals = s.head.deals := by
  induction l generalizing s with
  | nil => rfl
  | cons e l ih =>
    unfold completeBlocks
    dsimp only
    split
    · rfl
    · simp [ih]

@[simp] theorem sendPri_deals (q : Nat) : (sendPri q s).head.deals = s.head.deals := by simp [sendPri]

@[simp] theorem settleQueue_deals (q : Nat) : (settleQueue q s).head.deals = s.head.deals := by
  unfold settleQueue
  dsimp only
  (repeat' split) <;> simp

@[simp] theorem settleQueues_deals (p : Nat → Bool) : (settleQueues p s).head.deals = s.head.deals := by simp [settleQueues]

/-! ### What a reset clears -/

@[simp] theorem clearArray_deals (t : Nat) : (clearArray t s).head.deals = s.head.deals := by
  unfold clearArray
  split <;> simp

@[simp] theorem blockClear_deals (p : Page) : (blockClear p s).head.deals = s.head.deals := by
  unfold blockClear
  dsimp only
  (repeat' split) <;> simp

@[simp] theorem clockReset_deals (p : Page) (eff : Nat) : (clockReset p eff s).head.deals = s.head.deals := by
  unfold clockReset
  split <;> simp

/-! ### Power commands -/

@[simp] theorem quiesceBegin_deals : (quiesceBegin s).head.deals = s.head.deals := by simp [quiesceBegin]

@[simp] theorem pwrCmd_deals (mgmt : Bool) (T : Nat) : (pwrCmd mgmt T s).head.deals = s.head.deals := by
  unfold pwrCmd
  extract_lets code cmd _ u _ v
  have hu : u.head.deals = s.head.deals := congrArg (·.deals) (setFld_head ..)
  have hv : v.head.deals = u.head.deals :=
    ((setPwrPhase_deals ..).trans (setPwrTarget_deals ..)).trans (congrArg (·.deals) (setFlag_head ..))
  clear_value u v
  rw [deals_ite, deals_ite, deals_ite, postPwrResult_deals, quiesceBegin_deals, bump_deals, bump_deals, bump_deals, raise_deals, hv, hu,
    ite_self, ite_self, ite_self]

@[simp] theorem pwrAgain_deals : (pwrAgain s).head.deals = s.head.deals := by
  unfold pwrAgain
  split
  · rw [deals_ite, pwrCmd_deals, setFlag_head, ite_self]
  · rfl

@[simp] theorem kittySave_deals (n : Nat) : (kittySave n s).head.deals = s.head.deals := by simp [kittySave]

/-! ### Fences -/

@[simp] theorem drainStart_deals (d : Nat) : (drainStart d s).head.deals = s.head.deals := by simp [drainStart]

/-! ### The beat -/

@[simp] theorem bankStalls_deals (t : Nat) : (bankStalls t s).head.deals = s.head.deals := by simp [bankStalls]

@[simp] theorem meshStalls_deals (d : Nat) (s : State) : (meshStalls d s).head.deals = s.head.deals := by
  unfold meshStalls
  split
  · rfl
  · exact deals_foldl (fun _ _ => (bump_deals ..).trans (fresh_deals _)) _ _

@[simp] theorem tileBeat_deals (t : Nat) : (tileBeat t s).head.deals = s.head.deals := by simp [tileBeat]

@[simp] theorem stemBeat_deals (d : Nat) : (stemBeat d s).head.deals = s.head.deals := by
  unfold stemBeat
  split <;> simp

@[simp] theorem engineBeat_deals (n : Nat) : (engineBeat n s).head.deals = s.head.deals := by simp [engineBeat]

@[simp] theorem sliceBeat_deals (n : Nat) : (sliceBeat n s).head.deals = s.head.deals := by
  unfold sliceBeat
  split <;> simp

@[simp] theorem countBeat_deals : (countBeat s).head.deals = s.head.deals := by
  unfold countBeat
  extract_lets u v w
  have hu : u.head.deals = s.head.deals := by simp [u]
  have hv : v.head.deals = u.head.deals := by simp [v]
  have hw : w.head.deals = v.head.deals := by simp [w]
  clear_value u v w
  simp [hu, hv, hw]

@[simp] theorem recordTime_deals : (recordTime s).head.deals = s.head.deals := by simp [recordTime]
@[simp] theorem applyChange_deals (s : State) (e : Bool × Nat) : (applyChange s e).head.deals = s.head.deals := by simp [applyChange]
@[simp] theorem advanceTime_deals : (advanceTime s).head.deals = s.head.deals := by simp [advanceTime]
@[simp] theorem fencesDrain_deals : (fencesDrain s).head.deals = s.head.deals := by simp [fencesDrain]

end Sys2Proof.Machine
end

section
/-! # The beat that completes the burn of SVN_COMMIT (R108, R109)

`MailAt` says where the fuses, the mailbox's result and the burn stand; up to the posting of the result it stays with no deal armed
(`Dealless`), since the launch of a wake deal in Fold would drop the command. -/
namespace Sys2Proof.Machine

/-! ## The fuses, the mailbox's result and the burn -/

/-- The fuses, the result that waits at the mailbox and the burn under way are given ones. -/
structure MailAt (P : Part) (c : Option MbCmd) (b : Option (Nat × Nat)) (s : State) : Prop where
  part : s.part = P
  cmd : s.boot.cmd = c
  burn : s.boot.burn = b

/-- The mask of every part but the fuses and the boot state. -/
abbrev offMail : Nat := 0x3fffee

theorem leavesMail {M : Nat} (e : M ||| offMail = offMail) : Within M offMail := e

variable {P : Part} {c : Option MbCmd} {b : Option (Nat × Nat)} {s t : State}

theorem MailAt.of_keeps (h : MailAt P c b s) (k : Keeps offMail s t) : MailAt P c b t := by
  have hpart : t.part = s.part := k.same .part rfl
  have hboot : t.boot = s.boot := k.same .boot rfl
  exact ⟨hpart.trans h.part, hboot ▸ h.cmd, hboot ▸ h.burn⟩

theorem mail_ite {x : Prop} [Decidable x] {u v : State} (hu : MailAt P c b u) (hv : MailAt P c b v) : MailAt P c b (if x then u else v) := by
  split <;> assumption

theorem mail_foldl {β : Type} {f : State → β → State} (hf : ∀ u x, MailAt P c b u → MailAt P c b (f u x)) (l : List β)
    (h : MailAt P c b s) : MailAt P c b (l.foldl f s) := by
  induction l generalizing s with
  | nil => exact h
  | cons x r ih => exact ih (hf s x h)

theorem mail_setFlag (p : Page) (off n : Nat) (v : Bool) (h : MailAt P c b s) : MailAt P c b (setFlag p off n v s) := { h with }
theorem mail_setFld (p : Page) (off lo w x : Nat) (h : MailAt P c b s) : MailAt P c b (setFld p off lo w x s) := { h with }
theorem mail_bump (p : Page) (off k : Nat) (h : MailAt P c b s) : MailAt P c b (bump p off k s) := { h with }
theorem mail_setPwrTarget (n : Nat) (h : MailAt P c b s) : MailAt P c b (setPwrTarget n s) := mail_setFld _ _ _ _ _ h
theorem mail_setPwrPhase (n : Nat) (h : MailAt P c b s) : MailAt P c b (setPwrPhase n s) := mail_setFld _ _ _ _ _ h
theorem mail_tbl (x : TblSt) (h : MailAt P c b s) : MailAt P c b { s with tbl := x } := { h with }
theorem mail_setDom (d x : Nat) (h : MailAt P c b s) : MailAt P c b (setDom d x s) := { h with }
theorem mail_raise (p : Page) (n : Nat) (h : MailAt P c b s) : MailAt P c b (raise p n s) :=
  h.of_keeps (keeps_raise (leavesMail rfl) p n s (.refl _ s))

theorem mail_trainLink (die edge : Nat) (h : MailAt P c b s) : MailAt P c b (trainLink die edge s) := by
  unfold trainLink
  extract_lets p x good u v
  have hu : MailAt P c b u := mail_setFld _ _ _ _ _ (mail_setFld _ _ _ _ _ h)
  have hv : MailAt P c b v := mail_ite hu (mail_raise _ _ hu)
  clear_value v
  exact mail_ite { hv with } hv

theorem mail_domainOn (d : Nat) (h : MailAt P c b s) : MailAt P c b (domainOn d s) := by
  unfold domainOn
  extract_lets u
  have hu : MailAt P c b u := mail_setDom d 2 h
  have hstack : MailAt P c b (trainStack (d - 5) u) := hu.of_keeps (keeps_trainStack (leavesMail rfl) _ u (.refl _ u))
  exact mail_ite hu (mail_ite (mail_setFlag _ _ _ _ hstack) (mail_ite (mail_foldl (fun v e hv => mail_trainLink _ e hv) _ hu) hu))

theorem mail_contentsLost (d level : Nat) (h : MailAt P c b s) : MailAt P c b (contentsLost d level s) :=
  mail_ite (mail_ite h { h with })
    (mail_ite (mail_foldl (fun u t hu => mail_ite hu (hu.of_keeps (keeps_tileLost (leavesMail rfl) t u (.refl _ u)))) _ h) h)

theorem mail_regionsLost (p : Page) (h : MailAt P c b s) : MailAt P c b (regionsLost p s) := mail_ite { h with } h

theorem mail_startClimb (target : Nat) (h : MailAt P c b s) : MailAt P c b (startClimb target s) := by
  unfold startClimb
  extract_lets u _ v
  have hu : MailAt P c b u := mail_setPwrPhase _ (mail_setPwrTarget _ h)
  clear_value u
  have hv : MailAt P c b v := { hu with }
  clear_value v
  have hlock : MailAt P c b { v with tt := { v.tt with locking := true } } := { hv with }
  refine mail_ite (mail_ite { hlock with } ?_)
    (mail_ite (mail_ite (mail_setPwrPhase _ { hv with }) (mail_setPwrPhase _ (mail_setFld _ _ _ _ _ hv))) (mail_ite { hv with } hv))
  exact hlock.of_keeps (keeps_regSwitchTo (leavesMail rfl) true _ (.refl _ _))

/-! ## No deal is armed -/

/-- Besides, no deal is armed. -/
structure Dealless (P : Part) (c : Option MbCmd) (b : Option (Nat × Nat)) (s : State) : Prop extends MailAt P c b s where
  deals : s.head.deals = []

theorem Dealless.step (h : Dealless P c b s) (hm : MailAt P c b t) (hd : t.head.deals = s.head.deals) : Dealless P c b t :=
  ⟨hm, hd.trans h.deals⟩

theorem Dealless.of_keeps (h : Dealless P c b s) (k : Keeps offMail s t) (hd : t.head.deals = s.head.deals) : Dealless P c b t :=
  h.step (h.toMailAt.of_keeps k) hd

theorem dealless_ite {x : Prop} [Decidable x] {u v : State} (hu : Dealless P c b u) (hv : Dealless P c b v) :
    Dealless P c b (if x then u else v) := by
  split <;> assumption

theorem dealless_foldl {β : Type} {f : State → β → State} (hf : ∀ u x, Dealless P c b u → Dealless P c b (f u x)) (l : List β)
    (h : Dealless P c b s) : Dealless P c b (l.foldl f s) := by
  induction l generalizing s with
  | nil => exact h
  | cons x r ih => exact ih (hf s x h)

theorem dealless_dropHead (p : Page) (h : Dealless P c b s) : Dealless P c b (dropHead p s) where
  toMailAt := h.toMailAt.of_keeps (keeps_dropHead (leavesMail rfl) p s (.refl _ s))
  deals := by
    show s.head.deals.filter _ = []
    rw [h.deals]
    rfl

theorem dealless_regionsLost (p : Page) (h : Dealless P c b s) : Dealless P c b (regionsLost p s) :=
  h.step (mail_regionsLost p h.toMailAt) (regionsLost_deals ..)

theorem dealless_blockClear (p : Page) (h : Dealless P c b s) : Dealless P c b (blockClear p s) :=
  h.of_keeps (keeps_blockClear (leavesMail rfl) p s (.refl _ s)) (blockClear_deals ..)

theorem dealless_clearPage (p : Page) (keep : Nat → Bool) (h : Dealless P c b s) : Dealless P c b (clearPage p keep s) :=
  h.of_keeps (keeps_clearPage (leavesMail rfl) p keep s (.refl _ s)) (clearPage_deals ..)

theorem dealless_setDom (d x : Nat) (h : Dealless P c b s) : Dealless P c b (setDom d x s) := { h with }

theorem dealless_pagePowerOff (p : Page) (h : Dealless P c b s) : Dealless P c b (pagePowerOff p s) := by
  unfold pagePowerOff
  extract_lets keep _ u _ v
  have hu : Dealless P c b u := by
    unfold u
    split
    · exact h
    · exact h
    · exact { h with }
    · exact dealless_blockClear p h
  have hv : Dealless P c b v := { hu with }
  have hclear : Dealless P c b (clearPage p keep v) := dealless_clearPage p keep hv
  apply dealless_regionsLost
  split
  · exact hclear
  · exact dealless_dropHead p hclear

theorem dealless_domainOff (d : Nat) (h : Dealless P c b s) : Dealless P c b (domainOff d s) := by
  unfold domainOff
  extract_lets u v
  have hu : Dealless P c b u := dealless_foldl (fun w p hw => dealless_pagePowerOff p hw) _ h
  have hv : Dealless P c b v := hu.of_keeps (keeps_sensorsOff (leavesMail rfl) d u (.refl _ u)) (sensorsOff_deals ..)
  refine dealless_ite (hv.of_keeps ?_ ?_) hv
  · exact keeps_dropBypass (leavesMail rfl) _ _ (keeps_setKitty (leavesMail rfl) _ _ _ (.refl _ v))
  · exact (dropBypass_deals ..).trans (congrArg (·.deals) (setKitty_head ..))

theorem dealless_domainTo (d level : Nat) (h : Dealless P c b s) : Dealless P c b (domainTo d level s) := by
  unfold domainTo
  extract_lets now u
  have hu : Dealless P c b u := dealless_ite (dealless_domainOff d h) h
  exact dealless_ite h (dealless_ite (h.step (mail_domainOn d h.toMailAt) (domainOn_deals ..))
    (dealless_setDom _ _ (hu.step (mail_contentsLost d level hu.toMailAt) (contentsLost_deals ..))))

theorem dealless_switchBegin (d level : Nat) (h : Dealless P c b s) : Dealless P c b (switchBegin d level s) :=
  dealless_ite (dealless_setDom _ _ h) (dealless_setDom _ _ (dealless_domainOff d
    (dealless_ite (h.of_keeps (keeps_kittySave (leavesMail rfl) _ s (.refl _ s)) (kittySave_deals ..)) h)))

theorem dealless_switchTick (h : Dealless P c b s) : Dealless P c b (switchTick s) := by
  unfold switchTick
  split
  · exact h
  · split
    · exact dealless_domainTo _ _ h
    · split
      · exact dealless_ite h (dealless_switchBegin _ _ h)
      · split
        · exact dealless_switchBegin _ _ h
        · exact { h with }

theorem dealless_softReset (p : Page) (h : Dealless P c b s) : Dealless P c b (softReset p s) := by
  unfold softReset
  extract_lets eff keep deny u
  have hu : Dealless P c b u := by
    have hclear := dealless_clearPage p keep (dealless_blockClear p h)
    have hcount := hclear.of_keeps (keeps_clearCounters (leavesMail rfl) p _ (.refl _ _)) (clearCounters_deals ..)
    have hclock := (dealless_dropHead p hcount).of_keeps (keeps_clockReset (leavesMail rfl) p eff _ (.refl _ _)) (clockReset_deals ..)
    exact dealless_regionsLost p (hclock.of_keeps (keeps_linkReset (leavesMail rfl) p _ (.refl _ _)) (linkReset_deals ..))
  exact dealless_ite (hu.step (mail_setFlag _ _ _ _ hu.toMailAt) (congrArg (·.deals) (setFlag_head ..))) hu

theorem dealless_softResets (h : Dealless P c b s) : Dealless P c b (softResets s) := by
  unfold softResets
  extract_lets bases
  refine dealless_foldl (fun u b hu => ?_) _ { h with }
  split
  · exact dealless_ite (dealless_softReset _ hu) hu
  · exact hu

/-! ## The beat up to the mailbox's result -/

/-- With nothing committed, no message is applied. -/
theorem applyCommits_of_none (h : s.tt.commits = []) : applyCommits s = { s with tt := { s.tt with commits := [] } } := by
  unfold applyCommits
  rw [h]
  rfl

theorem dealsDue_of_none (h : s.head.deals = []) : dealsDue s = s := by
  unfold dealsDue
  rw [h]
  rfl

theorem dealless_endBeat (hc : (postsEnd s).tt.commits = []) (h : Dealless P c b s) : Dealless P c b (endBeat s) := by
  unfold endBeat
  extract_lets u v
  have hposts : Dealless P c b (postsEnd s) := h.of_keeps (keeps_postsEnd (leavesMail rfl) s (.refl _ s)) (postsEnd_deals s)
  have happlied : Dealless P c b (applyCommits (postsEnd s)) := by
    rw [applyCommits_of_none hc]
    exact { hposts with }
  have hu : Dealless P c b u := by
    refine happlied.of_keeps ?_ (by simp [u])
    apply keeps_recordTime (leavesMail rfl); apply keeps_countBeat (leavesMail rfl); apply keeps_slotNotes (leavesMail rfl)
    apply keeps_pwrAgain (leavesMail rfl); apply keeps_readsEnd (leavesMail rfl); apply keeps_grantsEnd (leavesMail rfl)
    apply keeps_csiTimeouts (leavesMail rfl); apply keeps_latchesEnd (leavesMail rfl); apply keeps_pointsEnd (leavesMail rfl)
    exact Keeps.refl offMail _
  have hv : Dealless P c b v := dealless_ite (hu.of_keeps (keeps_hhFlush (leavesMail rfl) u (.refl _ u)) (hhFlush_deals u)) hu
  exact hv.of_keeps (keeps_endOfBeatSignals (leavesMail rfl) v (.refl _ v)) (endOfBeatSignals_deals v)

/-- What a beat does before it posts the mailbox's result. -/
def beforePost (s : State) : State := s |> applyRelax |> switchTick |> softResets |> fencesDrain |> dealsDue

theorem mail_beforePost (h : Dealless P c b s) : MailAt P c b (beforePost s) := by
  have hrelax := h.of_keeps (keeps_applyRelax (leavesMail rfl) s (.refl _ s)) (applyRelax_deals s)
  have hresets := dealless_softResets (dealless_switchTick hrelax)
  have hdrain := hresets.of_keeps (keeps_fencesDrain (leavesMail rfl) _ (.refl _ _)) (fencesDrain_deals _)
  unfold beforePost
  rw [dealsDue_of_none hdrain.deals]
  exact hdrain.toMailAt

/-! ## The result of SVN_COMMIT (R108, R109) -/

/-- The fuses with a counter burnt up to a count. -/
def countBurnt (k n : Nat) (P : Part) : Part := { P with arb := updNth (fun o => o ||| fusesTo n) P.arb k }

/-- The burn is complete when its result is posted. -/
theorem mail_mbPost {k n d : Nat} (h : MailAt P (some ⟨6, 0, 0, 0xFF, d⟩) (some (k, n)) s) :
    MailAt (countBurnt k n P) none none (mbPost s) := by
  unfold mbPost
  rw [h.cmd]
  dsimp -zeta only
  rw [if_neg (fun e => absurd e.1 (by decide))]
  refine mail_raise _ _ (mail_setFlag _ _ _ _ (MailAt.of_keeps ?_ (keeps_mbShow (leavesMail rfl) _ _ (.refl _ _))))
  unfold burnEnd
  dsimp -zeta only
  rw [h.burn]
  exact ⟨congrArg (countBurnt k n) h.part, rfl, rfl⟩

/-! ## The beat from the mailbox's result on -/

theorem mail_wakeActs (target : Nat) (h : MailAt P c b s) : MailAt P c b (wakeActs target s) := by
  unfold wakeActs
  extract_lets up
  have hup (u : State) (hu : MailAt P c b u) : MailAt P c b (up u) := mail_ite (mail_startClimb target hu) hu
  have hend : MailAt P c b (endPwrCmd 8 s) := h.of_keeps (keeps_endPwrCmd (leavesMail rfl) 8 s (.refl _ s))
  split
  · exact hup s h
  · exact mail_ite (hup _ hend) h
  · exact mail_ite (hup _ hend) h
  · exact { h with }
  · exact mail_ite (mail_setPwrTarget _ h) h

theorem mail_wakeFirst (target : Nat) (x : PwrCmdSt) (h : MailAt P c b s) : MailAt P c b (wakeFirst target x s) := by
  have hacts := mail_wakeActs target h
  exact mail_ite (mail_ite (mail_wakeActs _ (h.of_keeps (keeps_takeBack (leavesMail rfl) x s (.refl _ s)))) hacts)
    (mail_ite (mail_setFld _ _ _ _ _ hacts) hacts)

theorem mail_wakeEvent (idx : Nat) (h : MailAt P c b s) : MailAt P c b (wakeEvent idx s) := by
  have hr : MailAt P c b (wakeRecord idx s) := h.of_keeps (keeps_wakeRecord (leavesMail rfl) idx s (.refl _ s))
  unfold wakeEvent
  refine mail_ite ?_ h
  split
  · exact mail_ite (mail_wakeFirst _ _ hr) (mail_wakeActs _ hr)
  · exact mail_wakeActs _ hr

theorem mail_serviceEvent (code a0 a1 : Nat) (h : MailAt P c b s) : MailAt P c b (serviceEvent code a0 a1 s) :=
  h.of_keeps (keeps_serviceEvent (leavesMail rfl) code a0 a1 s (.refl _ s))

theorem mail_svcDeliver (port : Nat) (header payload : List Byte) (h : MailAt P c b s) : MailAt P c b (svcDeliver port header payload s) :=
  h.of_keeps (keeps_svcDeliver (leavesMail rfl) port header payload s (.refl _ s))

theorem mail_awardCommit (port src : Nat) (header payload : List Byte) (h : MailAt P c b s) :
    MailAt P c b (awardCommit port src header payload s) := by
  unfold awardCommit
  extract_lets +onlyGivenNames speech winner near beaten
  refine mail_ite h ?_
  extract_lets +onlyGivenNames mine _ u v
  have hu : MailAt P c b u := mail_tbl _ h
  have hv : MailAt P c b v := mail_raise _ _ (mail_svcDeliver _ _ _ (mail_setFld _ _ _ _ _ hu))
  clear_value v mine
  split
  · exact mail_wakeEvent 6 hv
  · split
    · exact hv
    · exact mail_ite (mail_serviceEvent _ _ _ hv) (mail_serviceEvent _ _ _ hv)

theorem mail_bidCommit (src : Nat) (payload : List Byte) (h : MailAt P c b s) : MailAt P c b (bidCommit src payload s) := by
  unfold bidCommit
  extract_lets +onlyGivenNames speech old _ u bid
  have hu : MailAt P c b u := mail_tbl _ h
  clear_value u
  split
  · exact mail_tbl _ hu
  · refine mail_ite (mail_tbl _ hu) ?_
    extract_lets +onlyGivenNames v
    have hv : MailAt P c b v := mail_bump _ _ _ hu
    split
    · exact mail_ite (mail_awardCommit _ _ _ _ hv) (hv.of_keeps (keeps_sendFrame (leavesMail rfl) _ _ _ _ _ _ _ _ (.refl _ v)))
    · exact mail_tbl _ hv

theorem mail_bidsCommit (h : MailAt P c b s) : MailAt P c b (bidsCommit s) := mail_foldl (fun _ x hu => mail_bidCommit _ x hu) _ { h with }

theorem mail_applyRegInit (hr : s.boot.regInit = []) (h : MailAt P c b s) : MailAt P c b (applyRegInit s) := by
  unfold applyRegInit
  refine mail_ite h ?_
  rw [hr]
  exact { h with }

theorem mail_linksLost (h : MailAt P c b s) : MailAt P c b (linksLost s) :=
  mail_foldl (fun u e hu => mail_ite (hu.of_keeps (keeps_linkLost (leavesMail rfl) e.1 e.2 u (.refl _ u))) hu) _ { h with }

theorem mail_regionsAgain (h : MailAt P c b s) : MailAt P c b (regionsAgain s) :=
  mail_ite (mail_foldl (fun u k hu => hu.of_keeps (keeps_addRegions (leavesMail rfl) k u (.refl _ u))) _ { h with }) h

theorem mail_resumeReqs (hw : s.host.waiting = []) (h : MailAt P c b s) : MailAt P c b (resumeReqs s) := by
  unfold resumeReqs
  refine mail_ite h ?_
  rw [hw]
  exact { h with }

/-- What a beat does from the mailbox's result on. -/
def fromPost (s : State) : State :=
  s |> mbPost |> bidsCommit |> applyRegInit |> resumeRecord |> regUpdate |> clockFalls |> linksLost |> hostSends |> regionsAgain
    |> settleQueues (fun _ => true) |> flushHolds |> resumeReqs

theorem startBeat_eq (s : State) : startBeat s = fromPost (beforePost s) := rfl

theorem still_beforePost {T : TimeSt} (h : Still T s) : Still T (beforePost s) :=
  still_dealsDue (still_of_keeps (keeps_fencesDrain (leavesTime rfl) _ (.refl offTime _))
    (still_softResets (still_switchTick (still_applyRelax h))))

theorem mail_fromPost {T : TimeSt} {k n d : Nat} (hstill : Still T s) (h : MailAt P (some ⟨6, 0, 0, 0xFF, d⟩) (some (k, n)) s) :
    MailAt (countBurnt k n P) none none (fromPost s) := by
  have hbids := still_bidsCommit (still_mbPost hstill)
  have hrecord := still_of_keeps (keeps_resumeRecord (leavesTime rfl) _ (.refl offTime _)) (still_applyRegInit hbids)
  have hupdate := still_of_keeps (keeps_regUpdate (leavesTime rfl) _ (.refl offTime _)) hrecord
  have hclock := still_of_keeps (keeps_clockFalls (leavesTime rfl) _ (.refl offTime _)) hupdate
  have hregions := still_regionsAgain (still_hostSends (still_linksLost hclock))
  have hqueues := still_of_keeps (keeps_settleQueues (leavesTime rfl) (fun _ => true) _ (.refl offTime _)) hregions
  refine mail_resumeReqs (still_flushHolds hqueues).waiting ?_
  have hinit := mail_applyRegInit hbids.regInit (mail_bidsCommit (mail_mbPost h))
  have hlinks := mail_linksLost (hinit.of_keeps
    (keeps_clockFalls (leavesMail rfl) _ (keeps_regUpdate (leavesMail rfl) _ (keeps_resumeRecord (leavesMail rfl) _ (.refl _ _)))))
  have hsends := hlinks.of_keeps (keeps_hostSends (leavesMail rfl) _ (.refl _ _))
  exact (mail_regionsAgain hsends).of_keeps
    (keeps_flushHolds (leavesMail rfl) _ (keeps_settleQueues (leavesMail rfl) _ _ (.refl _ _)))

/-! ## The beat that ends SVN_COMMIT -/

theorem mail_execBeat {k n d : Nat} (hrun : s.tt.run = true) (hinit : s.boot.regInit = []) (hcommits : s.tt.commits = [])
    (hwait : s.host.waiting = []) (h : Dealless P (some ⟨6, 0, 0, 0xFF, d⟩) (some (k, n)) s) :
    MailAt (countBurnt k n P) none none (execBeat s) := by
  have hstill : Still s.tt s := ⟨rfl, rfl, rfl, rfl, rfl, rfl, hwait, hinit⟩
  have hend := still_endBeat (by rw [hcommits]; exact fun _ hc => absurd hc (List.not_mem_nil)) hstill
  have hdend := dealless_endBeat ((still_postsEnd hstill).commits.trans hcommits) h
  have hdtime := hdend.of_keeps (keeps_advanceTime (leavesMail rfl) _ (.refl _ _)) (advanceTime_deals _)
  rw [execBeat_running hrun, startBeat_eq]
  exact mail_fromPost (still_beforePost (still_advanceTime hend)) (mail_beforePost hdtime)

/-- The beat that posts the result of SVN_COMMIT completes its burn. -/
theorem runs_beat_burn {k n d : Nat} (hrun : s.tt.run = true) (hcmd : s.boot.cmd = some ⟨6, 0, 0, 0xFF, d⟩)
    (hburn : s.boot.burn = some (k, n)) (hinit : s.boot.regInit = []) (hcommits : s.tt.commits = []) (hdeals : s.head.deals = [])
    (hwait : s.host.waiting = []) (hk : k < s.part.arb.length) : Runs .beat s fun t =>
      t.part = { s.part with arb := t.part.arb } ∧ t.part.arb.getD k 0 = (s.part.arb.getD k 0 ||| fusesTo n) ∧
        (∀ j, j ≠ k → t.part.arb.getD j 0 = s.part.arb.getD j 0) ∧ t.boot.cmd = none ∧ t.boot.burn = none := by
  have hmail := mail_execBeat hrun hinit hcommits hwait ⟨⟨rfl, hcmd, hburn⟩, hdeals⟩
  refine ⟨execBeat s, exec_beat s, ?_, ?_, fun j hj => ?_, hmail.cmd, hmail.burn⟩ <;> rw [hmail.part]
  · rfl
  · exact getD_updNth_same _ _ hk
  · exact getD_updNth_ne _ _ hj

/-! ## Decks end -/

/-- Settles O10, a clause for each command that ends a deck or a counter's burn, for the beat that posts the burn's result, and for the end
of the restore. -/
theorem decksEnd : Obligations.DecksEnd := by
  unfold Obligations.DecksEnd
  intro free others
  have free_enabled {s : State} {w : Func} (hf : free s w) : MailFree s w ∧ flag s pgMb Off.CTRL 0 = true := by
    obtain ⟨hadm, hfatal, hbusy, hen⟩ := hf
    exact ⟨⟨hadm, hfatal, hbusy⟩, hen⟩
  refine ⟨fun s w h x hf h4 hx hall hr hslot hroom => ?_, fun s w h x hf h4 hx => ?_, fun s w d ds hf hready hk hd => ?_,
    fun s k n d hrun hcmd hburn hinit hcommits hdeals hwait hk => runs_beat_burn hrun hcmd hburn hinit hcommits hdeals hwait hk,
    fun s w k hf hready hslot hk hbound => ?_, fun s w h list hadm hfatal hbusy hen i hi => ?_,
    fun s hr hst _ hph hdom => runs_restoreDone hr hst hph hdom⟩
  · obtain ⟨hm, hen⟩ := free_enabled hf
    exact runs_deckFinish hm hen h4 hx hall hr hslot hroom
  · obtain ⟨hm, hen⟩ := free_enabled hf
    exact runs_deckAbort hm hen h4 hx
  · obtain ⟨hm, hen⟩ := free_enabled hf
    exact runs_svnCommit hm hen hready hk hd
  · obtain ⟨hm, hen⟩ := free_enabled hf
    exact runs_modelUnload hm hen hready hslot hk hbound
  · have hm : MailFree s w := ⟨hadm, hfatal, hbusy⟩
    simp only [List.mem_cons, List.not_mem_nil, or_false] at hi
    rcases hi with rfl | rfl | rfl | rfl | rfl | rfl | rfl <;> exact runs_mbCommand_disabled rfl hm hen (by decide)

end Sys2Proof.Machine
end

section
/-! # The power page: its registers, and the fields of PWR_STATE (R135) -/
namespace Sys2Proof.Machine

/-! ## What leaves the power page's registers -/

/-- The registers of the power page outside a list of offsets are as they were, and none of its events is cleared but HOLD_STARTED, which a
command that is taken back withdraws (R134). -/
structure PowerKept (l : List Nat) (s t : State) : Prop where
  rd_eq : ∀ off, off < 0x1000 → off ≠ Off.EVT_RAW → off ∉ l → rd t pgPower off = rd s pgPower off
  raised : ∀ b, b ≠ Evt.PWR_HOLD_STARTED → Raised pgPower b s → Raised pgPower b t

/-- No page of another class lies at the power page's address (R592). -/
theorem pageBase_ne_power {p : Page} (h : p.cls ≠ .power) {a b : Nat} (ha : a < 0x1000) (hb : b < 0x1000) :
    pageBase pgPower + a ≠ pageBase p + b := by
  have hpower : pageBase pgPower = 0x2000 := rfl
  have hp : pageBase p ≤ 0x1000 ∨ 0x3000 ≤ pageBase p := by
    obtain ⟨c, n⟩ := p
    cases c <;> simp only [pageBase, tileBase, cdBase, mdBase, ne_eq, not_true] at h ⊢ <;> (try split) <;> omega
  omega

theorem Captured.pwr_eq {s u : State} (h : Captured s u) : u.pwr = s.pwr := (congrArg State.pwr h.rest).trans rfl

namespace PowerKept
variable {l m : List Nat} {s t u : State}

theorem refl (l : List Nat) (s : State) : PowerKept l s s := ⟨fun _ _ _ _ => rfl, fun _ _ => id⟩

theorem trans (h : PowerKept l s t) (h' : PowerKept l t u) : PowerKept l s u :=
  ⟨fun off ho he hl => (h'.rd_eq off ho he hl).trans (h.rd_eq off ho he hl), fun b hb hr => h'.raised b hb (h.raised b hb hr)⟩

theorem mono (h : PowerKept l s t) (hlm : ∀ a ∈ l, a ∈ m) : PowerKept m s t :=
  ⟨fun off ho he hm => h.rd_eq off ho he fun hl => hm (hlm off hl), h.raised⟩

/-- A state with the same register file. -/
theorem of_regs (hp : t.part = s.part) (hr : t.regs = s.regs) : PowerKept l s t :=
  ⟨fun _ _ _ _ => reg_of_regs hp hr _, fun _ _ hb => (flag_congr (reg_of_regs hp hr _)).trans hb⟩

theorem ite {c : Prop} [Decidable c] (ht : PowerKept l s t) (hu : PowerKept l s u) : PowerKept l s (if c then t else u) := by
  split
  · exact ht
  · exact hu

theorem foldl {β : Type} {f : State → β → State} (hf : ∀ s b, PowerKept l s (f s b)) (bs : List β) (s : State) :
    PowerKept l s (bs.foldl f s) := by
  induction bs generalizing s with
  | nil => exact .refl l s
  | cons b r ih => exact (hf s b).trans (ih _)

section
variable (h : PowerKept l s t)
include h

theorem fld_eq {off : Nat} (lo w : Nat) (ho : off < 0x1000) (he : off ≠ Off.EVT_RAW) (hl : off ∉ l) :
    fld t pgPower off lo w = fld s pgPower off lo w := fld_congr (h.rd_eq off ho he hl)

theorem flag_eq {off : Nat} (b : Nat) (ho : off < 0x1000) (he : off ≠ Off.EVT_RAW) (hl : off ∉ l) :
    flag t pgPower off b = flag s pgPower off b := flag_congr (h.rd_eq off ho he hl)

theorem pwrState_eq (hl : Off.PWR_STATE ∉ l) : pwrState t = pwrState s := h.fld_eq 0 3 (by decide) (by decide) hl
theorem pwrTarget_eq (hl : Off.PWR_STATE ∉ l) : pwrTarget t = pwrTarget s := h.fld_eq 3 3 (by decide) (by decide) hl
theorem pwrPhase_eq (hl : Off.PWR_STATE ∉ l) : pwrPhase t = pwrPhase s := h.fld_eq 6 3 (by decide) (by decide) hl
theorem restoring_eq (hl : Off.PWR_STATE ∉ l) : restoring t = restoring s := h.flag_eq 9 (by decide) (by decide) hl

/-- A write of a listed register of the power page. -/
theorem own {off : Nat} (v : Word) (he : off ≠ Off.EVT_RAW) (hm : off ∈ l) : PowerKept l s (wr pgPower off v t) :=
  h.trans ⟨fun _ _ _ hl => reg_wr_ne v fun e => hl (Nat.add_left_cancel e ▸ hm),
    fun _ _ hb => (flag_congr (reg_wr_ne v fun e => he (Nat.add_left_cancel e).symm)).trans hb⟩

theorem ownFld {off : Nat} (lo w x : Nat) (he : off ≠ Off.EVT_RAW) (hm : off ∈ l) : PowerKept l s (setFld pgPower off lo w x t) := h.own _ he hm
theorem ownFlag {off : Nat} (b : Nat) (v : Bool) (he : off ≠ Off.EVT_RAW) (hm : off ∈ l) : PowerKept l s (setFlag pgPower off b v t) :=
  h.own _ he hm
theorem ownBump {off : Nat} (k : Nat) (he : off ≠ Off.EVT_RAW) (hm : off ∈ l) : PowerKept l s (bump pgPower off k t) :=
  (h.own _ he hm).trans (.of_regs rfl rfl)

/-- A write of a register of another page. -/
theorem wr {p : Page} {off : Nat} (v : Word) (hp : p.cls ≠ .power) (ho : off < 0x1000) : PowerKept l s (wr p off v t) :=
  h.trans ⟨fun _ ho' _ _ => reg_wr_ne v (pageBase_ne_power hp ho' ho),
    fun _ _ hb => (flag_congr (reg_wr_ne v (pageBase_ne_power hp (by decide) ho))).trans hb⟩

theorem setFld {p : Page} {off : Nat} (lo w x : Nat) (hp : p.cls ≠ .power) (ho : off < 0x1000) : PowerKept l s (setFld p off lo w x t) :=
  h.wr _ hp ho
theorem setFlag {p : Page} {off : Nat} (b : Nat) (v : Bool) (hp : p.cls ≠ .power) (ho : off < 0x1000) : PowerKept l s (setFlag p off b v t) :=
  h.wr _ hp ho
theorem bump {p : Page} {off : Nat} (k : Nat) (hp : p.cls ≠ .power) (ho : off < 0x1000) : PowerKept l s (bump p off k t) :=
  (h.wr _ hp ho).trans (.of_regs rfl rfl)

theorem emit (o : Out) : PowerKept l s (emit o t) := h.trans (.of_regs rfl rfl)

theorem withPwr (x : PowerSt) : PowerKept l s { t with pwr := x } := h.trans (.of_regs rfl rfl)
theorem withTt (x : TimeSt) : PowerKept l s { t with tt := x } := h.trans (.of_regs rfl rfl)
theorem withBoot (x : BootSt) : PowerKept l s { t with boot := x } := h.trans (.of_regs rfl rfl)
theorem withCe (x : CallSt) : PowerKept l s { t with ce := x } := h.trans (.of_regs rfl rfl)
theorem withHead (x : HeadSt) : PowerKept l s { t with head := x } := h.trans (.of_regs rfl rfl)

theorem raise (p : Page) {b : Nat} (hb : b < 32) : PowerKept l s (raise p b t) := by
  refine h.trans ⟨fun off ho he _ => reg_raise_ne (addr_ne ho (by decide) he), fun c _ hc => ?_⟩
  by_cases e : pageBase pgPower + Off.EVT_RAW = pageBase p + Off.EVT_RAW
  · unfold Raised flag fld rd at *
    rw [e] at hc ⊢
    exact flag_raise_mono p b c hb hc
  · exact (flag_congr (reg_raise_ne e)).trans hc

end

/-- A change of a few registers, none of them a listed one's or EVT_RAW. -/
theorem of_captured (h : Captured s t) : PowerKept l s t :=
  ⟨fun _ ho _ _ => h.regs _ (pageBase_ne_power (p := pgHh) (by decide) ho (by decide)),
    fun _ _ hb => (h.flag_eq _ (by decide) (by decide)).trans hb⟩

end PowerKept

/-! ## The fields of PWR_STATE -/

section
variable (n : Nat) (s : State)

@[simp] theorem pwrState_setPwrState : pwrState (setPwrState n s) = n % 8 := fld_setFld_same _ _ _ _ _ (by decide)
@[simp] theorem pwrTarget_setPwrState : pwrTarget (setPwrState n s) = pwrTarget s := fld_setFld_above _ _ (by decide) (by decide)
@[simp] theorem pwrPhase_setPwrState : pwrPhase (setPwrState n s) = pwrPhase s := fld_setFld_above _ _ (by decide) (by decide)
@[simp] theorem pwrState_setPwrTarget : pwrState (setPwrTarget n s) = pwrState s := fld_setFld_below _ _ (by decide) (by decide)
@[simp] theorem pwrTarget_setPwrTarget : pwrTarget (setPwrTarget n s) = n % 8 := fld_setFld_same _ _ _ _ _ (by decide)
@[simp] theorem pwrPhase_setPwrTarget : pwrPhase (setPwrTarget n s) = pwrPhase s := fld_setFld_above _ _ (by decide) (by decide)
@[simp] theorem pwrState_setPwrPhase : pwrState (setPwrPhase n s) = pwrState s := fld_setFld_below _ _ (by decide) (by decide)
@[simp] theorem pwrTarget_setPwrPhase : pwrTarget (setPwrPhase n s) = pwrTarget s := fld_setFld_below _ _ (by decide) (by decide)
@[simp] theorem pwrPhase_setPwrPhase : pwrPhase (setPwrPhase n s) = n % 8 := fld_setFld_same _ _ _ _ _ (by decide)
@[simp] theorem restoring_setPwrTarget : restoring (setPwrTarget n s) = restoring s := flag_setFld_above _ _ (by decide) (by decide)
@[simp] theorem restoring_setPwrPhase : restoring (setPwrPhase n s) = restoring s := flag_setFld_above _ _ (by decide) (by decide)

theorem pwrState_lt : pwrState s < 8 := bitsAt_lt ..

theorem powerKept_setPwrState : PowerKept [Off.PWR_STATE] s (setPwrState n s) := (PowerKept.refl _ s).ownFld _ _ _ (by decide) (.head _)
theorem powerKept_setPwrTarget : PowerKept [Off.PWR_STATE] s (setPwrTarget n s) := (PowerKept.refl _ s).ownFld _ _ _ (by decide) (.head _)
theorem powerKept_setPwrPhase : PowerKept [Off.PWR_STATE] s (setPwrPhase n s) := (PowerKept.refl _ s).ownFld _ _ _ (by decide) (.head _)

end

/-! ## Operations of other blocks -/

theorem powerKept_setQueue (q : Nat) (r : Queue) (s : State) : PowerKept [] s (setQueue q r s) := .of_regs rfl rfl

theorem powerKept_completeBlocks (q : Nat) (bs : List (Nat × Nat)) (s : State) : PowerKept [] s (completeBlocks q bs s) := by
  induction bs generalizing s with
  | nil => exact powerKept_setQueue ..
  | cons x rest ih =>
    obtain ⟨b, f⟩ := x
    have hevent (u : State) : PowerKept [] u (queueEvent q u) :=
      ((PowerKept.refl [] u).setFlag _ true (show PageClass.context ≠ .power by decide) (by unfold Off.CTX_QEVT; omega)).raise _ (by decide)
    unfold completeBlocks
    extract_lets r ends u v w
    have hu : PowerKept [] s u := powerKept_setQueue ..
    have hv : PowerKept [] s v := .ite (hu.trans (.ite (powerKept_setQueue ..) (.refl [] u))) hu
    have hw : PowerKept [] s w := .ite (hv.trans (hevent v)) hv
    exact .ite (powerKept_setQueue ..) (hw.trans (ih w))

theorem powerKept_sendPri (q : Nat) (s : State) : PowerKept [] s (sendPri q s) :=
  .ite ((((powerKept_setQueue ..).bump 1 (show PageClass.queueEngine ≠ .power by decide) (by decide)).bump 1 (by decide) (by decide)).emit _)
    (.refl [] s)

theorem powerKept_settleQueue (q : Nat) (s : State) : PowerKept [] s (settleQueue q s) := by
  unfold settleQueue
  extract_lets u r still r' x v w r'' p
  have hu : PowerKept [] s u := powerKept_completeBlocks ..
  have hset (x : Queue) : PowerKept [] s (setQueue q x u) := hu.trans (powerKept_setQueue ..)
  have hv : PowerKept [] s v := by
    refine .ite (.ite ?_ (.ite (hset _) hu)) hu
    cases r'.rearm with
    | some x => exact hset _
    | none => exact hset _
  have hw : PowerKept [] s w := hv.trans (powerKept_sendPri ..)
  have hset' (x : Queue) : PowerKept [] s (setQueue q x w) := hw.trans (powerKept_setQueue ..)
  exact .ite (.ite (hset _) hu) (.ite (hset' _) (.ite (hset' _) hw))

theorem powerKept_settleQueues (p : Nat → Bool) (s : State) : PowerKept [] s (settleQueues p s) :=
  .foldl (fun u (e : Nat × Queue) => powerKept_settleQueue e.1 u) _ s

/-- A clock's page is a tile's or a mesh's. -/
theorem clkPage_cls (noc : Bool) (k : Nat) : (clkPage noc k).cls ≠ .power := by cases noc <;> nofun

theorem powerKept_railSet (noc : Bool) (k was : Nat) (s : State) : PowerKept [] s (railSet noc k was s) := by
  unfold railSet
  extract_lets die
  exact .ite (.refl [] s) ((PowerKept.refl [] s).emit _)

/-- A clock's pending change is listed, or no longer. -/
def clkListed (noc : Bool) (k : Nat) (s : State) : State :=
  let rest := s.pwr.clkPend.filter fun e => e.1 != clkKey noc k
  { s with pwr := { s.pwr with
      clkPend := if clkWant s noc k != fld s (clkPage noc k) (clkReg noc) 8 6 then rest ++ [(clkKey noc k, s.tt.beats)] else rest } }

/-- What a clock shows: its pending change, its rail and, for a tile's, two status bits. -/
theorem clkShow_eq (noc : Bool) (k : Nat) (s : State) : ∃ was x y,
    clkShow noc k s = if noc then railSet noc k was (clkListed noc k s)
      else setFlag (clkPage noc k) Off.TILE_CLK 15 y (setFlag (clkPage noc k) Off.TILE_CLK 14 x (railSet noc k was (clkListed noc k s))) :=
  ⟨_, _, _, rfl⟩

theorem powerKept_clkShow (noc : Bool) (k : Nat) (s : State) : PowerKept [] s (clkShow noc k s) := by
  obtain ⟨was, x, y, e⟩ := clkShow_eq noc k s
  have hrail : PowerKept [] s (railSet noc k was (clkListed noc k s)) :=
    PowerKept.trans (t := clkListed noc k s) (.of_regs rfl rfl) (powerKept_railSet noc k was _)
  rw [e]
  exact .ite hrail ((hrail.setFlag 14 x (clkPage_cls noc k) (by decide)).setFlag 15 y (clkPage_cls noc k) (by decide))

theorem powerKept_capShow (noc : Bool) (k : Nat) (s : State) : PowerKept [] s (capShow noc s k) := .ite (.refl [] s) (powerKept_clkShow noc k s)

/-- The registers of the power page that a change of the clock cap changes. -/
def capRegs : List Nat := [Off.PWR_THROTTLE, Off.PWR_CNT_THROTTLE_DOWN, Off.PWR_CNT_THROTTLE_UP]

theorem powerKept_setCap (cap : Nat) (s : State) : PowerKept capRegs s (setCap cap s) := by
  have hshow (noc : Bool) (l : List Nat) (u : State) : PowerKept capRegs u (l.foldl (capShow noc) u) :=
    .foldl (fun v k => (powerKept_capShow noc k v).mono (by simp)) l u
  unfold setCap
  extract_lets old u
  refine .ite (.refl _ s) (.trans (.trans ?_ (hshow false _ u)) (hshow true _ _))
  have hcap : PowerKept capRegs s (s |> setFld pgPower Off.PWR_THROTTLE 0 6 cap |> setFlag pgPower Off.PWR_THROTTLE 6 (decide (cap < 44))
      |> raise pgPower Evt.PWR_THROTTLE) :=
    ((((PowerKept.refl _ s).ownFld 0 6 cap (by decide) (.head _)).ownFlag 6 _ (by decide) (.head _)).raise _ (by decide))
  unfold u
  split
  · exact hcap.ownBump 1 (by decide) (.tail _ (.head _))
  · exact hcap.ownBump 1 (by decide) (.tail _ (.tail _ (.head _)))

theorem powerKept_regSwitchTo (hp : Bool) (s : State) : PowerKept [Off.AON_REG_STATUS] s (regSwitchTo hp s) := by
  have hpwr : PowerKept [Off.AON_REG_STATUS] s { s with pwr := { s.pwr with regSwitch := some hp, heldLoad := s.pwr.heldLoad || hp } } :=
    .of_regs rfl rfl
  exact hpwr.ownFlag 1 true (by decide) (.head _)

theorem powerKept_regUpdate (s : State) : PowerKept [Off.AON_REG_STATUS] s (regUpdate s) := .ite (.refl _ s) (powerKept_regSwitchTo _ s)

/-! ## The domains' states and the latched wake target -/

/-- The states of the domains and the wake target that a descent has latched. -/
def domsLatched (s : State) : List Nat × Option Nat := (s.pwr.dom, s.pwr.latched)

section
variable (s : State)

theorem domsLatched_ite {c : Prop} [Decidable c] {t u : State} (ht : domsLatched t = domsLatched s) (hu : domsLatched u = domsLatched s) :
    domsLatched (if c then t else u) = domsLatched s := by
  split
  · exact ht
  · exact hu

theorem domsLatched_foldl {β : Type} {f : State → β → State} (hf : ∀ s b, domsLatched (f s b) = domsLatched s) (bs : List β) :
    domsLatched (bs.foldl f s) = domsLatched s := by
  induction bs generalizing s with
  | nil => rfl
  | cons b r ih => exact (ih _).trans (hf s b)

theorem domsLatched_of_pwr {t u : State} (h : u.pwr = t.pwr) : domsLatched u = domsLatched t := by unfold domsLatched; rw [h]

theorem domsLatched_regSwitchTo (hp : Bool) : domsLatched (regSwitchTo hp s) = domsLatched s := by
  unfold domsLatched regSwitchTo
  rw [setFlag_pwr]

theorem domsLatched_regUpdate : domsLatched (regUpdate s) = domsLatched s :=
  domsLatched_ite s rfl (domsLatched_regSwitchTo s _)

theorem domsLatched_capShow (noc : Bool) (k : Nat) : domsLatched (capShow noc s k) = domsLatched s := by
  have hrail (was : Nat) (u : State) : domsLatched (railSet noc k was u) = domsLatched u := by
    unfold railSet
    extract_lets die
    exact domsLatched_ite u rfl rfl
  obtain ⟨was, x, y, e⟩ := clkShow_eq noc k s
  have hu : domsLatched (railSet noc k was (clkListed noc k s)) = domsLatched s := hrail was (clkListed noc k s)
  have hflags : domsLatched (setFlag (clkPage noc k) Off.TILE_CLK 15 y (setFlag (clkPage noc k) Off.TILE_CLK 14 x
      (railSet noc k was (clkListed noc k s)))) = domsLatched s :=
    (domsLatched_of_pwr ((setFlag_pwr ..).trans (setFlag_pwr ..))).trans hu
  unfold capShow
  rw [e]
  exact domsLatched_ite s rfl (domsLatched_ite s hu hflags)

theorem domsLatched_setCap (cap : Nat) : domsLatched (setCap cap s) = domsLatched s := by
  have hshow (noc : Bool) (l : List Nat) (u : State) : domsLatched (l.foldl (capShow noc) u) = domsLatched u :=
    domsLatched_foldl u (fun v k => domsLatched_capShow v noc k) l
  unfold setCap
  extract_lets old u
  have hu : domsLatched u = domsLatched s :=
    domsLatched_of_pwr ((bump_pwr ..).trans ((raise_pwr ..).trans ((setFlag_pwr ..).trans (setFld_pwr ..))))
  exact domsLatched_ite s rfl ((hshow true _ _).trans ((hshow false _ u).trans hu))

end

/-! ## Power commands end (R130, R135) -/

/-- A power command has ended with a code. -/
def PwrDone (code : Nat) (t : State) : Prop :=
  fld t pgPower Off.PWR_RESULT 0 4 = code ∧ flag t pgPower Off.PWR_CMD 31 = false ∧ Raised pgPower Evt.PWR_CMD_DONE t

theorem PwrDone.kept {code : Nat} {l : List Nat} {s t : State} (h : PwrDone code s) (k : PowerKept l s t) (hres : Off.PWR_RESULT ∉ l)
    (hcmd : Off.PWR_CMD ∉ l) : PwrDone code t := by
  obtain ⟨hcode, hgo, hdone⟩ := h
  exact ⟨(k.fld_eq 0 4 (by decide) (by decide) hres).trans hcode, (k.flag_eq 31 (by decide) (by decide) hcmd).trans hgo,
    k.raised _ (by decide) hdone⟩

/-- The low four bits of the word that PWR_RESULT takes. -/
theorem fieldOf_resultWord {code : Nat} (h : code < 16) (a b c : Nat) :
    fieldOf (BitVec.ofNat 32 (code + 16 * a + 128 * b + 1024 * c)) 0 4 = code := by
  unfold fieldOf bitsAt
  rw [BitVec.toNat_ofNat]
  omega

section
variable (code : Nat) (s : State)

theorem pwrDone_postPwrResult {code : Nat} (h : code < 16) (s : State) : PwrDone code (postPwrResult code s) := by
  refine ⟨?_, ?_, flag_raise_same _ _ (by decide) (by decide)⟩
  · rw [postPwrResult, fld_congr (reg_raise_ne (by decide)), fld_congr (reg_setFlag_ne _ _ (by decide)), fld, rd_wr_same]
    exact fieldOf_resultWord h ..
  · rw [postPwrResult, flag_congr (reg_raise_ne (by decide))]
    exact flag_setFlag_same _ _ _ _ (by decide)

theorem powerKept_postPwrResult : PowerKept [Off.PWR_RESULT, Off.PWR_CMD] s (postPwrResult code s) :=
  (((PowerKept.refl _ s).own _ (by decide) (.head _)).ownFlag 31 false (by decide) (.tail _ (.head _))).raise _ (by decide)

theorem regsBut_postPwrResult : RegsBut [pageBase pgPower + Off.PWR_RESULT, pageBase pgPower + Off.PWR_CMD, evtOf pgPower] s (postPwrResult code s) :=
  (((RegsBut.refl _ s).wr _ (.head _)).setFlag 31 false (.tail _ (.head _))).raise _ (.tail _ (.tail _ (.head _)))

@[simp] theorem pwrState_postPwrResult : pwrState (postPwrResult code s) = pwrState s := (powerKept_postPwrResult code s).pwrState_eq (by decide)

/-- The registers of the power page that the end of a command changes. -/
def cmdEndRegs : List Nat := [Off.PWR_STATE, Off.PWR_RESULT, Off.PWR_CMD]

theorem powerKept_endPwrCmd : PowerKept cmdEndRegs s (endPwrCmd code s) :=
  (((powerKept_postPwrResult code s).mono (by decide)).ownFld _ _ _ (by decide) (.head _)).ownFld _ _ _ (by decide) (.head _)

theorem pwrDone_endPwrCmd {code : Nat} (h : code < 16) (s : State) : PwrDone code (endPwrCmd code s) :=
  ((pwrDone_postPwrResult h s).kept (powerKept_setPwrPhase 0 _) (by decide) (by decide)).kept (powerKept_setPwrTarget _ _) (by decide) (by decide)

@[simp] theorem pwrState_endPwrCmd : pwrState (endPwrCmd code s) = pwrState s := by simp [endPwrCmd]
@[simp] theorem pwrPhase_endPwrCmd : pwrPhase (endPwrCmd code s) = 0 := by simp [endPwrCmd]
@[simp] theorem pwrTarget_endPwrCmd : pwrTarget (endPwrCmd code s) = pwrState s := by
  simp [endPwrCmd, Nat.mod_eq_of_lt (pwrState_lt s)]
@[simp] theorem restoring_endPwrCmd : restoring (endPwrCmd code s) = restoring s := by
  simp [endPwrCmd, (powerKept_postPwrResult code s).restoring_eq (by decide)]
/-- The end of a command changes registers and the heads of the pages. -/
theorem endPwrCmd_same (c : Comp) (h : Nat.testBit 0xa c.bit = false) : c.agrees s (endPwrCmd code s) :=
  (keeps_endPwrCmd (N := 0xa) rfl code s (.refl _ s)).same c h

@[simp] theorem endPwrCmd_pwr : (endPwrCmd code s).pwr = s.pwr := endPwrCmd_same code s .pwr rfl
@[simp] theorem endPwrCmd_tt : (endPwrCmd code s).tt = s.tt := endPwrCmd_same code s .tt rfl

end

end Sys2Proof.Machine
end

section
/-! # Climbs, and the record of a wake event (R124–R126, R134, R135) -/
namespace Sys2Proof.Machine

/-! ## The start of a climb (R125, R126) -/

section
variable (T : Nat) (s : State)

/-- The target and the phase of a climb that begins. -/
def climbTo (T : Nat) (s : State) : State := setPwrPhase 1 (setPwrTarget (if s.pwr.stalled then Nat.max T (pwrTarget s) else T) s)

/-- A climb begins, whatever the state it begins in. -/
def climbSet (T : Nat) (s : State) : State :=
  { climbTo T s with pwr := { s.pwr with start := s.tt.beats, stalled := false } }

/-- The PLL of SYS_XTAL locks. -/
def pllLocks (s : State) : State := { s with tt := { s.tt with locking := true } }

/-- What a climb from Ante begins with: the rails ramp, or the regulator switches to HP first (R147). -/
def anteClimb (T : Nat) (s : State) : State :=
  if regReady s then railsOn (pllLocks (climbSet T s)) else regSwitchTo true (pllLocks (climbSet T s))

theorem powerKept_climbTo : PowerKept [Off.PWR_STATE] s (climbTo T s) := (powerKept_setPwrTarget _ s).trans (powerKept_setPwrPhase 1 _)

theorem climbSet_kept : PowerKept [] (climbTo T s) (climbSet T s) := (PowerKept.refl [] (climbTo T s)).withPwr _

theorem powerKept_climbSet : PowerKept [Off.PWR_STATE] s (climbSet T s) := (powerKept_climbTo T s).trans ((climbSet_kept T s).mono (by simp))

@[simp] theorem pwrState_climbSet : pwrState (climbSet T s) = pwrState s := by
  rw [(climbSet_kept T s).pwrState_eq (by decide)]
  simp [climbTo]

@[simp] theorem pwrPhase_climbSet : pwrPhase (climbSet T s) = 1 := by
  rw [(climbSet_kept T s).pwrPhase_eq (by decide)]
  simp [climbTo]

@[simp] theorem restoring_climbSet : restoring (climbSet T s) = restoring s := by
  rw [(climbSet_kept T s).restoring_eq (by decide)]
  simp [climbTo]

theorem pwrTarget_climbSet {T : Nat} {s : State} (hT : T < 8) (h : s.pwr.stalled = false) : pwrTarget (climbSet T s) = T := by
  rw [(climbSet_kept T s).pwrTarget_eq (by decide)]
  simp [climbTo, h, Nat.mod_eq_of_lt hT]

/-- The state of the regulator is the same. -/
theorem regReady_of_kept {l : List Nat} {s t : State} (k : PowerKept l s t) (hm : Off.AON_REG_MANUAL ∉ l) (hs : Off.AON_REG_STATUS ∉ l)
    (hr : t.pwr.regSwitch = s.pwr.regSwitch) : regReady t = regReady s := by
  unfold regReady
  rw [k.flag_eq 0 (by decide) (by decide) hm, k.flag_eq 0 (by decide) (by decide) hs, hr]

/-- A climb from Call waits for the driver (R128). -/
def stallOn (s : State) : State := { s with pwr := { s.pwr with stalled := true } }

/-- The step to Raise takes the pair that PWR_RAISE_SEL holds (R135). -/
def raiseTaken (s : State) : State :=
  if pwrState s = 2 then { s with pwr := { s.pwr with raise := fld s pgPower Off.PWR_RAISE_SEL 0 3 } } else s

theorem powerKept_stallOn : PowerKept [] s (stallOn s) := (PowerKept.refl [] s).withPwr _

theorem powerKept_raiseTaken : PowerKept [] s (raiseTaken s) := .ite ((PowerKept.refl [] s).withPwr _) (.refl [] s)

/-- How a climb begins, by the state that it begins in. -/
theorem startClimb_cases :
    (pwrState s = 1 ∧ startClimb T s = anteClimb T s) ∨
    (pwrState s = 2 ∧ s.pwr.owed = true ∧
      (startClimb T s = setPwrPhase 0 (stallOn (climbSet T s)) ∨ startClimb T s = setPwrPhase 5 (restoreBegin (climbSet T s)))) ∨
    (pwrState s ≠ 1 ∧ ¬(pwrState s = 2 ∧ s.pwr.owed = true) ∧ startClimb T s = raiseTaken (climbSet T s)) := by
  have e : startClimb T s =
      if pwrState (climbSet T s) = 1 then
        if regReady (pllLocks (climbSet T s)) then railsOn (pllLocks (climbSet T s)) else regSwitchTo true (pllLocks (climbSet T s))
      else if pwrState (climbSet T s) = 2 ∧ s.pwr.owed then
        if restoreNeeded (climbSet T s) then setPwrPhase 0 (stallOn (climbSet T s)) else setPwrPhase 5 (restoreBegin (climbSet T s))
      else raiseTaken (climbSet T s) := rfl
  have hready : regReady (pllLocks (climbSet T s)) = regReady s :=
    regReady_of_kept ((powerKept_climbSet T s).withTt _) (by decide) (by decide) rfl
  rw [pwrState_climbSet, hready] at e
  by_cases h1 : pwrState s = 1
  · exact .inl ⟨h1, e.trans (if_pos h1)⟩
  rw [if_neg h1] at e
  by_cases h2 : pwrState s = 2 ∧ s.pwr.owed = true
  · rw [if_pos h2] at e
    refine .inr (.inl ⟨h2.1, h2.2, ?_⟩)
    by_cases hn : restoreNeeded (climbSet T s) = true
    · exact .inl (e.trans (if_pos hn))
    · exact .inr (e.trans (if_neg hn))
  · exact .inr (.inr ⟨h1, h2, e.trans (if_neg h2)⟩)

/-- The registers of the power page that the start of a climb changes. -/
def climbRegs : List Nat := [Off.PWR_STATE, Off.AON_REG_STATUS]

theorem powerKept_anteClimb : PowerKept climbRegs s (anteClimb T s) := by
  have hset : PowerKept climbRegs s (pllLocks (climbSet T s)) := ((powerKept_climbSet T s).mono (by decide)).withTt _
  exact .ite (hset.withBoot _) (hset.trans ((powerKept_regSwitchTo true _).mono (by decide)))

theorem powerKept_startClimb : PowerKept climbRegs s (startClimb T s) := by
  have hset : PowerKept climbRegs s (climbSet T s) := (powerKept_climbSet T s).mono (by decide)
  rcases startClimb_cases T s with ⟨-, e⟩ | ⟨-, -, e | e⟩ | ⟨-, -, e⟩ <;> rw [e]
  · exact powerKept_anteClimb T s
  · exact (hset.trans ((powerKept_stallOn _).mono (by simp))).trans ((powerKept_setPwrPhase 0 _).mono (by decide))
  · exact (hset.ownFld _ _ _ (by decide) (.head _)).ownFld _ _ _ (by decide) (.head _)
  · exact hset.trans ((powerKept_raiseTaken _).mono (by simp))

/-- What a climb from Ante leaves of PWR_STATE. -/
theorem anteClimb_kept : PowerKept [Off.AON_REG_STATUS] (climbSet T s) (anteClimb T s) := by
  have hlocks : PowerKept [Off.AON_REG_STATUS] (climbSet T s) (pllLocks (climbSet T s)) := (PowerKept.refl _ _).withTt _
  exact .ite (hlocks.withBoot _) (hlocks.trans (powerKept_regSwitchTo true _))

/-- What a restore leaves of PWR_STATE's lower fields. -/
theorem fld_restoreBegin {lo w : Nat} (h : lo + w ≤ 9) : fld (restoreBegin s) pgPower Off.PWR_STATE lo w = fld s pgPower Off.PWR_STATE lo w :=
  fld_setFld_below _ _ (by omega) (by omega)

@[simp] theorem pwrState_startClimb : pwrState (startClimb T s) = pwrState s := by
  rcases startClimb_cases T s with ⟨-, e⟩ | ⟨-, -, e | e⟩ | ⟨-, -, e⟩ <;> rw [e]
  · rw [(anteClimb_kept T s).pwrState_eq (by decide), pwrState_climbSet]
  · rw [pwrState_setPwrPhase, (powerKept_stallOn _).pwrState_eq (by decide), pwrState_climbSet]
  · exact (pwrState_setPwrPhase ..).trans ((fld_restoreBegin _ (by decide)).trans (pwrState_climbSet T s))
  · rw [(powerKept_raiseTaken _).pwrState_eq (by decide), pwrState_climbSet]

theorem climbSet_pwr : (climbSet T s).pwr = { s.pwr with start := s.tt.beats, stalled := false } := by simp only [climbSet]

theorem domsLatched_climbSet : domsLatched (climbSet T s) = domsLatched s := by unfold domsLatched; rw [climbSet_pwr]

theorem domsLatched_startClimb : domsLatched (startClimb T s) = domsLatched s := by
  rw [← domsLatched_climbSet T s]
  rcases startClimb_cases T s with ⟨-, e⟩ | ⟨-, -, e | e⟩ | ⟨-, -, e⟩ <;> rw [e]
  · exact domsLatched_ite _ (domsLatched_of_pwr (by simp only [railsOn, pllLocks]))
      ((domsLatched_regSwitchTo _ true).trans (domsLatched_of_pwr (by simp only [pllLocks])))
  · exact (domsLatched_of_pwr (setFld_pwr ..)).trans (by simp only [domsLatched, stallOn])
  · exact domsLatched_of_pwr ((setFld_pwr ..).trans (setFld_pwr ..))
  · exact domsLatched_ite _ (by simp only [domsLatched]) rfl

theorem climbSet_tt : (climbSet T s).tt = s.tt := by simp only [climbSet, climbTo, setPwrPhase, setPwrTarget, setFld_tt]

theorem startClimb_run : (startClimb T s).tt.run = s.tt.run := by
  rw [← climbSet_tt T s]
  rcases startClimb_cases T s with ⟨-, e⟩ | ⟨-, -, e | e⟩ | ⟨-, -, e⟩ <;> rw [e]
  · unfold anteClimb
    split <;> rfl
  · rfl
  · rfl
  · unfold raiseTaken
    split <;> rfl

/-- A climb from Ante begins no restore. -/
theorem restoring_startClimb {T : Nat} {s : State} (h : pwrState s = 1) : restoring (startClimb T s) = restoring s := by
  rcases startClimb_cases T s with ⟨-, e⟩ | ⟨h2, -, -⟩ | ⟨h1, -, -⟩
  · rw [e]
    exact ((anteClimb_kept T s).restoring_eq (by decide)).trans (restoring_climbSet T s)
  · omega
  · omega

end

/-! ## What a wake event brings about (R125, R134) -/

/-- What a counted event with a target leaves of a device that was steady: the state, and below the target a climb to it, which from Ante
begins with the PLL and the rails, or with the regulator's switch to HP; from Call a restore that is owed comes first. -/
def Climbs (T : Nat) (s t : State) : Prop :=
  pwrState t = pwrState s ∧ (pwrPhase s = 0 → T ≤ pwrState s → pwrPhase t = 0) ∧
    (pwrPhase s = 0 → pwrState s < T → T ≤ 4 → s.pwr.stalled = false → pwrTarget t = T ∧
      (¬ (pwrState s = 2 ∧ s.pwr.owed = true) → pwrPhase t = 1) ∧ (pwrState s = 1 → t.tt.locking = true ∧
        (regReady s = true → t.boot.vrMain = true ∧ t.boot.vrMem = true) ∧
          (regReady s = false → t.pwr.regSwitch = some true ∧ t.boot.vrMain = s.boot.vrMain)))

/-- A device that is not steady keeps its state. -/
theorem Climbs.of_busy {T : Nat} {s t : State} (hphase : pwrPhase s ≠ 0) (h : pwrState t = pwrState s) : Climbs T s t :=
  ⟨h, fun h0 => absurd h0 hphase, fun h0 => absurd h0 hphase⟩

/-- A change of registers of the power page other than PWR_STATE. -/
theorem Climbs.kept {T : Nat} {l : List Nat} {s t u : State} (h : Climbs T s t) (k : PowerKept l t u) (hl : Off.PWR_STATE ∉ l)
    (htt : u.tt = t.tt) (hboot : u.boot = t.boot) (hpwr : u.pwr = t.pwr) : Climbs T s u := by
  unfold Climbs
  rw [k.pwrState_eq hl, k.pwrPhase_eq hl, k.pwrTarget_eq hl, htt, hboot, hpwr]
  exact h

/-- State u stands as state s does, for a climb. -/
structure StandsAs (s u : State) : Prop where
  state : pwrState u = pwrState s
  phase : pwrPhase u = pwrPhase s
  stalled : u.pwr.stalled = s.pwr.stalled
  owed : u.pwr.owed = s.pwr.owed
  ready : regReady u = regReady s
  vrMain : u.boot.vrMain = s.boot.vrMain

theorem StandsAs.of_kept {l : List Nat} {s u : State} (k : PowerKept l s u)
    (hl : ∀ off ∈ [Off.PWR_STATE, Off.AON_REG_MANUAL, Off.AON_REG_STATUS], off ∉ l) {w : Option WakeSnap}
    (hpwr : u.pwr = { s.pwr with woke := w }) (hboot : u.boot = s.boot) : StandsAs s u where
  state := k.pwrState_eq (hl _ (.head _))
  phase := k.pwrPhase_eq (hl _ (.head _))
  stalled := by rw [hpwr]
  owed := by rw [hpwr]
  ready := regReady_of_kept k (hl _ (.tail _ (.head _))) (hl _ (.tail _ (.tail _ (.head _)))) (by rw [hpwr])
  vrMain := by rw [hboot]

theorem Climbs.of_standsAs {T : Nat} {s u t : State} (h : StandsAs s u) (hc : Climbs T u t) : Climbs T s t := by
  unfold Climbs at hc
  rw [h.state, h.phase, h.stalled, h.owed, h.ready, h.vrMain] at hc
  exact hc

theorem climbs_startClimb {T : Nat} {s : State} (hT : T < 8) (hbelow : pwrState s < T) : Climbs T s (startClimb T s) := by
  refine ⟨pwrState_startClimb T s, fun _ hle => absurd hle (Nat.not_le.mpr hbelow), fun _ _ _ hst => ?_⟩
  have htarget := pwrTarget_climbSet hT hst
  rcases startClimb_cases T s with ⟨h1, e⟩ | ⟨h2, howed, e | e⟩ | ⟨h1, hno, e⟩ <;> rw [e]
  · refine ⟨((anteClimb_kept T s).pwrTarget_eq (by decide)).trans htarget,
      fun _ => ((anteClimb_kept T s).pwrPhase_eq (by decide)).trans (pwrPhase_climbSet T s), fun _ => ?_⟩
    unfold anteClimb
    cases regReady s with
    | true => exact ⟨rfl, fun _ => ⟨rfl, rfl⟩, fun hr => absurd hr (by decide)⟩
    | false => exact ⟨rfl, fun hr => absurd hr (by decide), fun _ => ⟨rfl, rfl⟩⟩
  · refine ⟨?_, fun hno => absurd ⟨h2, howed⟩ hno, fun h1 => by omega⟩
    rw [pwrTarget_setPwrPhase, (powerKept_stallOn _).pwrTarget_eq (by decide), htarget]
  · refine ⟨?_, fun hno => absurd ⟨h2, howed⟩ hno, fun h1 => by omega⟩
    exact (pwrTarget_setPwrPhase ..).trans ((fld_restoreBegin _ (by decide)).trans htarget)
  · have hraise := powerKept_raiseTaken (climbSet T s)
    exact ⟨(hraise.pwrTarget_eq (by decide)).trans htarget, fun _ => (hraise.pwrPhase_eq (by decide)).trans (pwrPhase_climbSet T s),
      fun h => absurd h h1⟩

/-- A climb to a state above the present one begins. -/
def climbUp (T : Nat) (s : State) : State := if pwrState s < T && decide (T ≤ 4) then startClimb T s else s

section
variable (T : Nat) (s : State)

theorem pwrState_climbUp : pwrState (climbUp T s) = pwrState s := by
  unfold climbUp
  split
  · exact pwrState_startClimb T s
  · rfl

theorem powerKept_climbUp : PowerKept climbRegs s (climbUp T s) := .ite (powerKept_startClimb T s) (.refl _ s)

/-- What a counted event does, by the phase of the device. -/
theorem wakeActs_cases :
    (pwrPhase s = 0 ∧ wakeActs T s = climbUp T s) ∨
    (pwrPhase s ≠ 0 ∧ (wakeActs T s = climbUp T (endPwrCmd 8 s) ∨ wakeActs T s = s ∨
      (∃ x, wakeActs T s = { s with pwr := { s.pwr with latched := x, anyLatched := true } }) ∨ wakeActs T s = setPwrTarget T s)) := by
  unfold wakeActs
  dsimp only
  split
  · next h => exact .inl ⟨h, rfl⟩
  · next h =>
    refine .inr ⟨by omega, ?_⟩
    split
    · exact .inl rfl
    · exact .inr (.inl rfl)
  · next h =>
    refine .inr ⟨by omega, ?_⟩
    split
    · exact .inl rfl
    · exact .inr (.inl rfl)
  · next h => exact .inr ⟨by omega, .inr (.inr (.inl ⟨_, rfl⟩))⟩
  · next h0 _ _ _ =>
    refine .inr ⟨h0, ?_⟩
    split
    · exact .inr (.inr (.inr rfl))
    · exact .inr (.inl rfl)

/-- The registers of the power page that a wake event changes beyond its record. -/
def wakeActRegs : List Nat := [Off.PWR_STATE, Off.AON_REG_STATUS, Off.PWR_RESULT, Off.PWR_CMD, Off.PWR_CNT_HOLDS]

theorem powerKept_wakeActs : PowerKept wakeActRegs s (wakeActs T s) := by
  rcases wakeActs_cases T s with ⟨-, e⟩ | ⟨-, e | e | ⟨x, e⟩ | e⟩ <;> rw [e]
  · exact (powerKept_climbUp T s).mono (by decide)
  · exact ((powerKept_endPwrCmd 8 s).mono (by decide)).trans ((powerKept_climbUp T _).mono (by decide))
  · exact .refl _ s
  · exact .of_regs rfl rfl
  · exact (powerKept_setPwrTarget T s).mono (by decide)

@[simp] theorem pwrState_wakeActs : pwrState (wakeActs T s) = pwrState s := by
  rcases wakeActs_cases T s with ⟨-, e⟩ | ⟨-, e | e | ⟨x, e⟩ | e⟩ <;> rw [e]
  · exact pwrState_climbUp T s
  · exact (pwrState_climbUp T _).trans (pwrState_endPwrCmd 8 s)
  · rfl
  · exact pwrState_setPwrTarget T s

theorem climbs_wakeActs {T : Nat} (hT : T < 8) (s : State) : Climbs T s (wakeActs T s) := by
  rcases wakeActs_cases T s with ⟨h0, e⟩ | ⟨hphase, -⟩
  · rw [e]
    unfold climbUp
    split
    · next h =>
      rw [Bool.and_eq_true, decide_eq_true_eq] at h
      exact climbs_startClimb hT h.1
    · next h =>
      refine ⟨rfl, fun _ _ => h0, fun _ hlt hle => absurd ?_ h⟩
      rw [decide_eq_true hlt, decide_eq_true hle]
      rfl
  · exact .of_busy hphase (pwrState_wakeActs T s)

/-- HOLD_STARTED is withdrawn with the command that set it. -/
theorem PowerKept.withdraw {l : List Nat} {s t : State} (h : PowerKept l s t) (v : Bool) :
    PowerKept l s (Machine.setFlag pgPower Off.EVT_RAW Evt.PWR_HOLD_STARTED v t) :=
  h.trans ⟨fun off _ he _ => reg_setFlag_ne _ _ fun e => he (Nat.add_left_cancel e),
    fun _ hb hr => (flag_setFlag_ne pgPower v (by decide) hb).trans hr⟩

variable (c : PwrCmdSt)

/-- The count and the event of a hold, as they stood before the command that began it. -/
def holdBack (c : PwrCmdSt) (s : State) : State :=
  let a := pageBase pgPower + Off.PWR_CNT_HOLDS
  let u := wr pgPower Off.PWR_CNT_HOLDS (rd s pgPower Off.PWR_CNT_HOLDS - 1) s
  setFlag pgPower Off.EVT_RAW Evt.PWR_HOLD_STARTED c.held
    { u with head := { s.head with counts := sset 0 s.head.counts a (sget 0 s.head.counts a - 1) } }

/-- A command that is taken back is to run again. -/
def runsAgain (c : PwrCmdSt) (s : State) : State := { s with pwr := { s.pwr with cmd := some { c with again := true } } }

theorem takeBack_eq : takeBack c s =
    let u := if pwrPhase s = 2 then holdBack c s else s
    setPwrTarget (pwrState u) (setPwrPhase 0 (runsAgain c u)) := rfl

theorem powerKept_runsAgain : PowerKept [] s (runsAgain c s) := (PowerKept.refl [] s).withPwr _

theorem powerKept_holdBack : PowerKept [Off.PWR_CNT_HOLDS] s (holdBack c s) :=
  (((PowerKept.refl _ s).own _ (by decide) (.head _)).withHead _).withdraw c.held

/-- What a command that is taken back leaves, up to PWR_STATE. -/
theorem powerKept_heldBack : PowerKept [Off.PWR_CNT_HOLDS] s (if pwrPhase s = 2 then holdBack c s else s) :=
  .ite (powerKept_holdBack s c) (.refl _ s)

theorem powerKept_takeBack : PowerKept wakeActRegs s (takeBack c s) :=
  ((((powerKept_heldBack s c).mono (by decide)).trans ((powerKept_runsAgain _ c).mono (by simp))).trans
    ((powerKept_setPwrPhase 0 _).mono (by decide))).trans ((powerKept_setPwrTarget _ _).mono (by decide))

theorem pwrState_takeBack : pwrState (takeBack c s) = pwrState s := by
  rw [takeBack_eq]
  dsimp only
  rw [pwrState_setPwrTarget, pwrState_setPwrPhase, (powerKept_runsAgain _ c).pwrState_eq (by decide),
    (powerKept_heldBack s c).pwrState_eq (by decide)]

theorem powerKept_wakeFirst : PowerKept wakeActRegs s (wakeFirst T c s) := by
  have hacts := powerKept_wakeActs T s
  exact .ite (.ite ((powerKept_takeBack s c).trans (powerKept_wakeActs T _)) hacts) (.ite (hacts.ownFld _ _ _ (by decide) (by decide)) hacts)

theorem climbs_wakeFirst {T : Nat} (hT : T < 8) (s : State) : Climbs T s (wakeFirst T c s) := by
  have hacts := climbs_wakeActs hT s
  unfold wakeFirst
  dsimp only
  split
  · split
    · next hph => exact .of_busy (by omega) ((pwrState_wakeActs T _).trans (pwrState_takeBack s c))
    · exact hacts
  · split
    · refine hacts.kept (l := [Off.PWR_RESULT]) ?_ (by decide) (setFld_tt ..) (setFld_boot ..) (setFld_pwr ..)
      exact (PowerKept.refl _ _).ownFld _ _ _ (by decide) (.head _)
    · exact hacts

end

/-! ## The record of a wake event (R125) -/

/-- A wake event has been recorded: its bit, the state it met, itself as the latest, its time, its count and the page's event. -/
def Woken (idx : Nat) (s t : State) : Prop :=
  flag t pgPower Off.PWR_WAKE_CAUSE idx = true ∧ fld t pgPower Off.PWR_WAKE_CAUSE 9 3 = pwrState s ∧
    fld t pgPower Off.PWR_WAKE_CAUSE 12 4 = idx ∧
    rd64 t pgPower Off.PWR_WAKE_TT_LO Off.PWR_WAKE_TT_HI = commitTime s % 2 ^ 64 ∧
    Counted pgPower Off.PWR_CNT_WAKES 1 s t ∧ Raised pgPower Evt.PWR_WAKE t

/-- The registers that a wake event's record changes. -/
def wakeRecRegs : List Nat := [Off.PWR_WAKE_CAUSE, Off.PWR_WAKE_TT_LO, Off.PWR_WAKE_TT_HI, Off.PWR_CNT_WAKES]

theorem Woken.kept {idx : Nat} {l : List Nat} {s t u : State} (h : Woken idx s t) (k : PowerKept l t u) (hl : ∀ off ∈ wakeRecRegs, off ∉ l) :
    Woken idx s u := by
  have hcause := k.rd_eq Off.PWR_WAKE_CAUSE (by decide) (by decide) (hl _ (.head _))
  have hlo := k.rd_eq Off.PWR_WAKE_TT_LO (by decide) (by decide) (hl _ (.tail _ (.head _)))
  have hhi := k.rd_eq Off.PWR_WAKE_TT_HI (by decide) (by decide) (hl _ (.tail _ (.tail _ (.head _))))
  have hcnt := k.rd_eq Off.PWR_CNT_WAKES (by decide) (by decide) (hl _ (.tail _ (.tail _ (.tail _ (.head _)))))
  obtain ⟨hbit, hstate, hlatest, htime, hcount, hev⟩ := h
  refine ⟨(flag_congr hcause).trans hbit, (fld_congr hcause).trans hstate, (fld_congr hcause).trans hlatest, ?_, ?_, k.raised _ (by decide) hev⟩
  · unfold rd64 at *; rw [hlo, hhi, htime]
  · unfold Counted at *; rw [hcnt, hcount]

/-- A record on a state that stands as another. -/
theorem Woken.of_eq {idx : Nat} {s u t : State} (h : Woken idx u t) (hstate : pwrState u = pwrState s) (htt : u.tt = s.tt)
    (hcnt : rd u pgPower Off.PWR_CNT_WAKES = rd s pgPower Off.PWR_CNT_WAKES) : Woken idx s t := by
  have htime : commitTime u = commitTime s := by unfold commitTime beatNo tnow; rw [htt]
  unfold Woken Counted at *
  rwa [hstate, htime, hcnt] at h

/-- A LO/HI pair of registers holds a number below 2^64. -/
theorem rd64_wr64 {s : State} {p : Page} {lo hi : Nat} (h : hi ≠ lo) (v : Nat) : rd64 (wr64 p lo hi v s) p lo hi = v % 2 ^ 64 := by
  have hlo : rd (wr64 p lo hi v s) p lo = BitVec.ofNat 32 v := (reg_wr_ne _ (by omega)).trans (rd_wr_same ..)
  have hhi : rd (wr64 p lo hi v s) p hi = BitVec.ofNat 32 (v / 2 ^ 32) := rd_wr_same ..
  unfold rd64
  rw [hlo, hhi, BitVec.toNat_ofNat, BitVec.toNat_ofNat]
  omega

section
variable (idx : Nat) (s : State)

/-- PWR_WAKE_CAUSE with an event. -/
def causeWord (idx : Nat) (s : State) : Word :=
  putField (putField (putField (rd s pgPower Off.PWR_WAKE_CAUSE) 9 3 (pwrState s)) 12 4 idx) idx 1 1

theorem causeWord_eq :
    BitVec.ofNat 32 (putAt (putAt (putAt (rd s pgPower Off.PWR_WAKE_CAUSE).toNat 9 3 (pwrState s)) 12 4 idx) idx 1 1) = causeWord idx s := by
  have e : causeWord idx s = BitVec.ofNat 32 (putAt
      (putField (putField (rd s pgPower Off.PWR_WAKE_CAUSE) 9 3 (pwrState s)) 12 4 idx).toNat idx 1 1) := rfl
  rw [e, putField_toNat (by decide), putField_toNat (by decide)]

theorem causeWord_fields {idx : Nat} (h : idx < 9) (s : State) :
    bitOf (causeWord idx s) idx = true ∧ fieldOf (causeWord idx s) 9 3 = pwrState s ∧ fieldOf (causeWord idx s) 12 4 = idx := by
  have hstate := pwrState_lt s
  unfold causeWord
  refine ⟨?_, ?_, ?_⟩
  · exact beq_iff_eq.mpr (fieldOf_putField_same (by omega))
  · rw [fieldOf_putField_above (by omega) (by omega), fieldOf_putField_below (by decide) (by decide), fieldOf_putField_same (by decide)]
    exact Nat.mod_eq_of_lt hstate
  · rw [fieldOf_putField_above (by omega) (by omega), fieldOf_putField_same (by decide)]
    omega

/-- The keeper's part of a wake event's record. -/
def wakeNoted (idx : Nat) (s : State) : State :=
  let u := wakeKeep s
  wr pgPower Off.PWR_WAKE_CAUSE (causeWord idx s) u |> wr64 pgPower Off.PWR_WAKE_TT_LO Off.PWR_WAKE_TT_HI (commitTime s)

theorem wakeKeep_eq : wakeKeep s = { s with pwr := { s.pwr with woke := (wakeKeep s).pwr.woke } } := by
  unfold wakeKeep
  split <;> rfl

theorem powerKept_wakeKeep : PowerKept [] s (wakeKeep s) := .ite (.refl [] s) ((PowerKept.refl [] s).withPwr _)

theorem wakeNoted_wakeKeep : wakeNoted idx s =
    wr64 pgPower Off.PWR_WAKE_TT_LO Off.PWR_WAKE_TT_HI (commitTime (wakeKeep s))
      (wr pgPower Off.PWR_WAKE_CAUSE (causeWord idx (wakeKeep s)) (wakeKeep s)) := by
  have htime : commitTime (wakeKeep s) = commitTime s := by rw [wakeKeep_eq]; rfl
  have hcause : causeWord idx (wakeKeep s) = causeWord idx s := by
    unfold causeWord
    rw [(powerKept_wakeKeep s).pwrState_eq (by decide), (powerKept_wakeKeep s).rd_eq _ (by decide) (by decide) (by decide)]
  rw [htime, hcause]
  rfl

theorem domOn_wakeNoted (d : Nat) : domOn (wakeNoted idx s) d = domOn s d := by
  have hkeep : (wakeKeep s).pwr.dom = s.pwr.dom := by rw [wakeKeep_eq]
  unfold domOn wakeNoted wr64
  rw [wr_pwr, wr_pwr, wr_pwr, hkeep]

theorem wakeRecord_eq : wakeRecord idx s =
    if domOn s 1 then raise pgPower Evt.PWR_WAKE (bump pgPower Off.PWR_CNT_WAKES 1 (wakeNoted idx s)) else wakeNoted idx s := by
  unfold wakeRecord
  extract_lets u cause v
  have hv : v = wakeNoted idx s := by
    rw [wakeNoted_wakeKeep, ← causeWord_eq]
  rw [hv, domOn_wakeNoted]

theorem powerKept_wakeNoted : PowerKept wakeRecRegs s (wakeNoted idx s) := by
  have hkeep : PowerKept wakeRecRegs s (wakeKeep s) := by rw [wakeKeep_eq]; exact .of_regs rfl rfl
  exact ((hkeep.own _ (by decide) (by decide)).own _ (by decide) (by decide)).own _ (by decide) (by decide)

/-- What the keeper's record shows. -/
theorem wakeNoted_shows {idx : Nat} (h : idx < 9) (s : State) :
    flag (wakeNoted idx s) pgPower Off.PWR_WAKE_CAUSE idx = true ∧ fld (wakeNoted idx s) pgPower Off.PWR_WAKE_CAUSE 9 3 = pwrState s ∧
      fld (wakeNoted idx s) pgPower Off.PWR_WAKE_CAUSE 12 4 = idx ∧
      rd64 (wakeNoted idx s) pgPower Off.PWR_WAKE_TT_LO Off.PWR_WAKE_TT_HI = commitTime s % 2 ^ 64 := by
  have hcause : rd (wakeNoted idx s) pgPower Off.PWR_WAKE_CAUSE = causeWord idx s :=
    (reg_wr_ne _ (by decide)).trans ((reg_wr_ne _ (by decide)).trans (rd_wr_same ..))
  obtain ⟨hbit, hstate, hlatest⟩ := causeWord_fields h s
  unfold flag fld
  rw [hcause]
  exact ⟨hbit, hstate, hlatest, rd64_wr64 (by decide) _⟩

theorem powerKept_wakeRecord : PowerKept wakeRecRegs s (wakeRecord idx s) := by
  have hnoted := powerKept_wakeNoted idx s
  rw [wakeRecord_eq]
  exact .ite ((hnoted.ownBump 1 (by decide) (by decide)).raise _ (by decide)) hnoted

theorem woken_wakeRecord {idx : Nat} (h : idx < 9) {s : State} (hd : domOn s 1 = true) : Woken idx s (wakeRecord idx s) := by
  have hnoted := powerKept_wakeNoted idx s
  have hkept : PowerKept [Off.PWR_CNT_WAKES] (wakeNoted idx s) (wakeRecord idx s) := by
    rw [wakeRecord_eq, if_pos hd]
    exact ((PowerKept.refl _ _).ownBump 1 (by decide) (.head _)).raise _ (by decide)
  have hcause := hkept.rd_eq Off.PWR_WAKE_CAUSE (by decide) (by decide) (by decide)
  obtain ⟨hbit, hstate, hlatest, htime⟩ := wakeNoted_shows h s
  refine ⟨(flag_congr hcause).trans hbit, (fld_congr hcause).trans hstate, (fld_congr hcause).trans hlatest, ?_, ?_, ?_⟩
  · unfold rd64
    rw [hkept.rd_eq Off.PWR_WAKE_TT_LO (by decide) (by decide) (by decide), hkept.rd_eq Off.PWR_WAKE_TT_HI (by decide) (by decide) (by decide)]
    exact htime
  · have hcnt : rd (wakeNoted idx s) pgPower Off.PWR_CNT_WAKES = rd s pgPower Off.PWR_CNT_WAKES :=
      (reg_wr_ne _ (by decide)).trans ((reg_wr_ne _ (by decide)).trans ((reg_wr_ne _ (by decide)).trans (by rw [wakeKeep_eq]; rfl)))
    have hraise : rd (wakeRecord idx s) pgPower Off.PWR_CNT_WAKES =
        rd (bump pgPower Off.PWR_CNT_WAKES 1 (wakeNoted idx s)) pgPower Off.PWR_CNT_WAKES := by
      rw [wakeRecord_eq, if_pos hd]
      exact reg_raise_ne (by decide)
    unfold Counted
    rw [hraise, ← hcnt]
    exact counted_bump ..
  · rw [wakeRecord_eq, if_pos hd]
    exact flag_raise_same _ _ (by decide) (by decide)

/-- The mask of a wake event's record: the registers, the heads and the power controller. -/
theorem wakeRecord_same (c : Comp) (h : Nat.testBit 0x2a c.bit = false) : c.agrees s (wakeRecord idx s) :=
  (keeps_wakeRecord (N := 0x2a) rfl idx s (.refl _ s)).same c h

theorem wakeRecord_pwr : (wakeRecord idx s).pwr = { s.pwr with woke := (wakeKeep s).pwr.woke } := by
  have hkeep : (wakeKeep s).pwr = { s.pwr with woke := (wakeKeep s).pwr.woke } := congrArg State.pwr (wakeKeep_eq s)
  rw [wakeRecord_eq, ← hkeep]
  split <;> simp [wakeNoted, wr64]

theorem standsAs_wakeRecord : StandsAs s (wakeRecord idx s) :=
  .of_kept (powerKept_wakeRecord idx s) (by decide) (wakeRecord_pwr idx s) (wakeRecord_same idx s .boot rfl)

/-! ## A wake event outside Fold -/

theorem wakeTarget_lt : wakeTarget s idx < 8 := by
  unfold wakeTarget
  split
  · decide
  · split
    · exact bitsAt_lt ..
    · exact bitsAt_lt ..

/-- A wake event that counts is recorded, and acts as it does after a power command of its beat or without one. -/
theorem wakeEvent_cases {idx : Nat} {s : State} (ha : awake s = true) (hc : wakeCounts idx (pwrState s) = true) :
    wakeEvent idx s = wakeActs (wakeTarget s idx) (wakeRecord idx s) ∨
      ∃ c, wakeEvent idx s = wakeFirst (wakeTarget s idx) c (wakeRecord idx s) := by
  have hcounts : (awake s && wakeCounts idx (pwrState s)) = true := by rw [ha, hc]; rfl
  unfold wakeEvent
  rw [if_pos hcounts]
  dsimp only
  split
  · split
    · exact .inr ⟨_, rfl⟩
    · exact .inl rfl
  · exact .inl rfl

/-- An event that does not count leaves the device as it is. -/
theorem wakeEvent_idle {idx : Nat} {s : State} (h : ¬(awake s = true ∧ wakeCounts idx (pwrState s) = true)) : wakeEvent idx s = s := by
  unfold wakeEvent
  rw [if_neg]
  rwa [Bool.and_eq_true]

theorem powerKept_wakeEvent : PowerKept (wakeActRegs ++ wakeRecRegs) s (wakeEvent idx s) := by
  have hrec : PowerKept (wakeActRegs ++ wakeRecRegs) s (wakeRecord idx s) := (powerKept_wakeRecord idx s).mono (by decide)
  by_cases hw : awake s = true ∧ wakeCounts idx (pwrState s) = true
  · rcases wakeEvent_cases hw.1 hw.2 with e | ⟨c, e⟩ <;> rw [e]
    · exact hrec.trans ((powerKept_wakeActs _ _).mono (by decide))
    · exact hrec.trans ((powerKept_wakeFirst _ _ c).mono (by decide))
  · rw [wakeEvent_idle hw]
    exact .refl _ s

theorem woken_wakeEvent {idx : Nat} (h : idx < 9) {s : State} (ha : awake s = true) (hc : wakeCounts idx (pwrState s) = true)
    (hd : domOn s 1 = true) : Woken idx s (wakeEvent idx s) := by
  rcases wakeEvent_cases ha hc with e | ⟨c, e⟩ <;> rw [e]
  · exact (woken_wakeRecord h hd).kept (powerKept_wakeActs _ _) (by decide)
  · exact (woken_wakeRecord h hd).kept (powerKept_wakeFirst _ _ c) (by decide)

theorem climbs_wakeEvent {idx : Nat} {s : State} (ha : awake s = true) (hc : wakeCounts idx (pwrState s) = true) :
    Climbs (wakeTarget s idx) s (wakeEvent idx s) := by
  refine .of_standsAs (standsAs_wakeRecord idx s) ?_
  rcases wakeEvent_cases ha hc with e | ⟨c, e⟩ <;> rw [e]
  · exact climbs_wakeActs (wakeTarget_lt idx s) _
  · exact climbs_wakeFirst c (wakeTarget_lt idx s) _

end

end Sys2Proof.Machine
end

section
/-! # Wake events and the steps of a climb (R124–R126, R135, R137, R142) -/
namespace Sys2Proof.Machine

/-! ## A wake event in a device that is not in Fold -/

/-- The registers that the record and the effect of a wake event rest on. -/
def wakeBasis : List Nat := [Off.PWR_STATE, Off.AON_REG_MANUAL, Off.AON_REG_STATUS, Off.PWR_CNT_WAKES]

theorem anyWake_on {idx : Nat} {s : State} (hd : domOn s 1 = true) : anyWake idx s = wakeEvent idx s :=
  if_neg fun h => Bool.false_ne_true (h.2.symm.trans hd)

/-- A wake event that commits in a state that stands as s does is recorded, and acts, as in s. -/
theorem wake_on {idx : Nat} {l : List Nat} {s u : State} (hidx : idx < 9) (ha : awake s = true) (hd : domOn s 1 = true)
    (hc : wakeCounts idx (pwrState s) = true) (k : PowerKept l s u) (hl : ∀ off ∈ wakeBasis, off ∉ l) (hpwr : u.pwr = s.pwr)
    (hboot : u.boot = s.boot) (htt : u.tt = s.tt) :
    Woken idx s (anyWake idx u) ∧ Climbs (wakeTarget u idx) s (anyWake idx u) := by
  have hstate := k.pwrState_eq (hl _ (.head _))
  have ha' : awake u = true := by unfold awake; rw [hboot]; exact ha
  have hd' : domOn u 1 = true := by unfold domOn; rw [hpwr]; exact hd
  rw [← hstate] at hc
  rw [anyWake_on hd']
  refine ⟨(woken_wakeEvent hidx ha' hc hd').of_eq hstate htt ?_, .of_standsAs ?_ (climbs_wakeEvent ha' hc)⟩
  · exact k.rd_eq _ (by decide) (by decide) (hl _ (by decide))
  · refine .of_kept (w := s.pwr.woke) k (fun off ho => hl off ?_) hpwr hboot
    exact (show ∀ a ∈ [Off.PWR_STATE, Off.AON_REG_MANUAL, Off.AON_REG_STATUS], a ∈ wakeBasis by decide) off ho

/-- What a state without the management cores' writes shows of a wake event, it shows with them. -/
theorem Woken.withMgmt {idx : Nat} {s t : State} (h : Woken idx s t) (l : List Nat) : Woken idx s (withMgmt l t) :=
  h.kept ((PowerKept.refl [] t).withHead _) (by decide)

theorem Climbs.withMgmt {T : Nat} {s t : State} (h : Climbs T s t) (l : List Nat) : Climbs T s (withMgmt l t) :=
  h.kept ((PowerKept.refl [] t).withHead _) (by decide) rfl rfl rfl

/-! ## HOST_REQ: a write of PWR_WAKE_REQ with GO (R135) -/

/-- The word of PWR_WAKE_REQ with GO holds its target. -/
theorem goWord_fields : ∀ T < 8, bitOf (BitVec.ofNat 32 (T % 8 + 2 ^ 31)) 31 = true ∧ fieldOf (BitVec.ofNat 32 (T % 8 + 2 ^ 31)) 0 3 = T := by
  decide

theorem wakeReq_go {T : Nat} (hT : T < 8) (s : State) :
    wakeReq (BitVec.ofNat 32 (T % 8 + 2 ^ 31)) s = wakeEvent 7 (setFld pgPower Off.PWR_WAKE_REQ 0 3 T s) := by
  obtain ⟨hgo, htarget⟩ := goWord_fields T hT
  unfold wakeReq
  rw [hgo, htarget]
  rfl

theorem runs_hostReq {s : State} {w : Func} {T : Nat} (ha : awake s = true) (hd : domOn s 1 = true)
    (hadm : Admitted s w pgPower Off.PWR_WAKE_REQ) (hT : T < 8) (hstate : 2 ≤ pwrState s) :
    Runs (.hostReq w T) s fun t => Woken 7 s t ∧ Climbs T s t ∧ fld t pgPower Off.PWR_WAKE_REQ 0 3 = T := by
  refine runs_of_access (v := BitVec.ofNat 32 (T % 8 + 2 ^ 31)) (k := wakeReq (BitVec.ofNat 32 (T % 8 + 2 ^ 31))) rfl hadm fun u l hu => ?_
  rw [wakeReq_go hT]
  have hasked : fld (setFld pgPower Off.PWR_WAKE_REQ 0 3 T u) pgPower Off.PWR_WAKE_REQ 0 3 = T :=
    (fld_setFld_same _ _ _ _ _ (by decide)).trans (Nat.mod_eq_of_lt hT)
  have hkept : PowerKept [Off.PWR_WAKE_REQ] s (setFld pgPower Off.PWR_WAKE_REQ 0 3 T u) :=
    (PowerKept.of_captured hu).ownFld 0 3 T (by decide) (.head _)
  have hd' : domOn (setFld pgPower Off.PWR_WAKE_REQ 0 3 T u) 1 = true := by
    unfold domOn
    rw [setFld_pwr, hu.pwr_eq]
    exact hd
  have hwake := wake_on (idx := 7) (by decide) ha hd (decide_eq_true hstate) hkept (by decide)
    ((setFld_pwr ..).trans hu.pwr_eq) ((setFld_boot ..).trans hu.boot_eq) ((setFld_tt ..).trans hu.tt_eq)
  rw [anyWake_on hd', show wakeTarget _ 7 = T from hasked] at hwake
  refine ⟨hwake.1.withMgmt l, hwake.2.withMgmt l, ?_⟩
  exact ((powerKept_wakeEvent 7 _).fld_eq 0 3 (by decide) (by decide) (by decide)).trans hasked

/-! ## WAKE: the power page's deal (R46, R124) -/

/-- The power page's deal with ACTION 0x2 ends and wakes the device. -/
theorem execWake_eq {s : State} {d : DealSt} (h : DealDue s pgPower d 2) : execWake s = anyWake 5 (raise pgPower 0 (dealEnd pgPower s)) := by
  obtain ⟨hdeal, haction, honce, hpower, hen, hable, htime, hlate⟩ := h
  have hready : DealReady s pgPower d 2 := ⟨hdeal, haction, hpower, hable, .inl hen⟩
  have e := dealEval_fires hready honce htime fun _ => hlate
  rw [hlate] at e
  exact (if_pos haction).trans e

theorem powerKept_dealEnd (s : State) : PowerKept [Off.DEAL_CTRL] s (dealEnd pgPower s) := by
  unfold dealEnd
  exact (PowerKept.withHead (.refl _ s) _).ownFlag 0 false (by decide) (.head _)

theorem runs_wake {s : State} {d : DealSt} (h : DealDue s pgPower d 2) (ha : awake s = true) (hd : domOn s 1 = true) :
    Runs .wake s fun t => Woken 5 s t ∧ Climbs (fld s pgPower Off.PWR_WAKE_MAP (3 * 5) 3) s t ∧ Raised pgPower 0 t ∧
      flag t pgPower Off.DEAL_CTRL 0 = false := by
  have hkept : PowerKept [Off.DEAL_CTRL] s (raise pgPower 0 (dealEnd pgPower s)) := (powerKept_dealEnd s).raise _ (by decide)
  have hpwr : (raise pgPower 0 (dealEnd pgPower s)).pwr = s.pwr := (raise_pwr ..).trans rfl
  have hd' : domOn (raise pgPower 0 (dealEnd pgPower s)) 1 = true := by unfold domOn; rw [hpwr]; exact hd
  have hev := powerKept_wakeEvent 5 (raise pgPower 0 (dealEnd pgPower s))
  have hwake := wake_on (idx := 5) (by decide) ha hd rfl hkept (by decide) hpwr ((raise_boot ..).trans rfl) ((raise_tt ..).trans rfl)
  have hmap : wakeTarget (raise pgPower 0 (dealEnd pgPower s)) 5 = fld s pgPower Off.PWR_WAKE_MAP (3 * 5) 3 :=
    hkept.fld_eq _ _ (by decide) (by decide) (by decide)
  rw [hmap] at hwake
  refine ⟨_, congrArg Host.Outcome.next (execWake_eq h), hwake.1, hwake.2, ?_, ?_⟩
  · rw [anyWake_on hd']
    exact hev.raised 0 (by decide) (flag_raise_same _ _ (by decide) (by decide))
  · rw [anyWake_on hd', hev.flag_eq 0 (by decide) (by decide) (by decide), flag_congr (reg_raise_ne (by decide))]
    exact flag_dealEnd pgPower s

/-! ## Fold exits (R142) -/

section
variable (s : State)

theorem keeperOnly_part : (keeperOnly s).part = s.part := by unfold keeperOnly; split <;> simp only [setFlag_part] <;> rfl
theorem keeperOnly_tt : (keeperOnly s).tt = s.tt := by unfold keeperOnly; split <;> simp only [setFlag_tt]
theorem keeperOnly_boot : (keeperOnly s).boot = (State.ofPart s.part).boot := by unfold keeperOnly; split <;> simp only [setFlag_boot]
theorem keeperOnly_pwr : (keeperOnly s).pwr = (State.ofPart s.part).pwr := by unfold keeperOnly; split <;> simp only [setFlag_pwr]
theorem keeperOnly_out : (keeperOnly s).out = s.out := by unfold keeperOnly; split <;> simp only [setFlag_out]
theorem keeperOnly_hbm : (keeperOnly s).hbm = [] := by unfold keeperOnly; split <;> simp only [setFlag_hbm] <;> rfl
theorem keeperOnly_queues : (keeperOnly s).queues = [] := by unfold keeperOnly; split <;> simp only [setFlag_queues] <;> rfl
theorem keeperOnly_ctxs : (keeperOnly s).host.ctxs = [] := by unfold keeperOnly; split <;> simp only [setFlag_host] <;> rfl

end

/-- The device has left Fold: the boot ROM waits for power good, the PLL locks, and every domain but the keeper is at its reset state. -/
def LeavesFold (s t : State) : Prop :=
  t.boot = { (State.ofPart s.part).boot with phase := .waitPg } ∧
    t.tt = { s.tt with locking := true, joined := (rangeFrom 1 14).map fun d => (d, s.tt.beats) } ∧
    t.pwr = (State.ofPart s.part).pwr ∧ t.host.ctxs = [] ∧ t.queues = []

/-- The device as it leaves Fold. -/
def foldLeft (s : State) : State :=
  let t := keeperOnly s
  { t with tt := { t.tt with locking := true, joined := (rangeFrom 1 14).map fun d => (d, s.tt.beats) }
           boot := { t.boot with phase := .waitPg } }

theorem foldExit_eq (s : State) :
    foldExit s = if fld s pgPower Off.PWR_WAKE_CAUSE 12 4 == 4 then foldLeft s else sendPme (foldLeft s) := rfl

theorem leavesFold_foldLeft {s u : State} (hpart : u.part = s.part) (htt : u.tt = s.tt) : LeavesFold s (foldLeft u) := by
  refine ⟨?_, ?_, (keeperOnly_pwr u).trans (by rw [hpart]), keeperOnly_ctxs u, keeperOnly_queues u⟩
  · unfold foldLeft
    dsimp only
    rw [keeperOnly_boot, hpart]
  · unfold foldLeft
    dsimp only
    rw [keeperOnly_tt, htt]

/-- A wake event in Fold is recorded, and the device leaves Fold. -/
theorem anyWake_fold {idx : Nat} {s : State} (ha : awake s = true) (h0 : pwrState s = 0) (hd : domOn s 1 = false)
    (hc : wakeCounts idx 0 = true) : anyWake idx s = foldExit (wakeNoted idx s) := by
  have hrec : wakeRecord idx s = wakeNoted idx s := by
    rw [wakeRecord_eq, hd]
    rfl
  unfold anyWake
  rw [if_pos ⟨h0, hd⟩, ha, hc, hrec]
  rfl

theorem wakeNoted_same (idx : Nat) (s : State) :
    (wakeNoted idx s).part = s.part ∧ (wakeNoted idx s).tt = s.tt ∧ (wakeNoted idx s).out = s.out := by
  have hkeep := wakeKeep_eq s
  unfold wakeNoted wr64
  simp only [wr_part, wr_tt, wr_out]
  rw [hkeep]
  exact ⟨rfl, rfl, rfl⟩

/-- A wake event in Fold sends PM_PME, unless the host causes it. -/
theorem foldExit_wakeNoted {idx : Nat} (h : idx < 9) (s : State) :
    foldExit (wakeNoted idx s) = if idx == 4 then foldLeft (wakeNoted idx s) else sendPme (foldLeft (wakeNoted idx s)) := by
  obtain ⟨-, -, hlatest, -⟩ := wakeNoted_shows h s
  rw [foldExit_eq, hlatest]

theorem leavesFold_wakeNoted (idx : Nat) (s : State) :
    LeavesFold s (foldLeft (wakeNoted idx s)) ∧ (foldLeft (wakeNoted idx s)).out = s.out := by
  obtain ⟨hpart, htt, hout⟩ := wakeNoted_same idx s
  exact ⟨leavesFold_foldLeft hpart htt, (keeperOnly_out _).trans hout⟩

section
variable {s : State} (ha : awake s = true) (h0 : pwrState s = 0) (hd : domOn s 1 = false)
include ha h0 hd

theorem runs_wakeIn_fold : Runs .wakeIn s fun t => LeavesFold s t ∧ t.out = s.out ++ [.pmPme] ∧ t.host.pmeStatus = true := by
  have e : anyWake 3 s = sendPme (foldLeft (wakeNoted 3 s)) := (anyWake_fold ha h0 hd rfl).trans (foldExit_wakeNoted (by decide) s)
  obtain ⟨hleaves, hout⟩ := leavesFold_wakeNoted 3 s
  exact ⟨_, congrArg Host.Outcome.next e, hleaves, congrArg (· ++ [Out.pmPme]) hout, rfl⟩

theorem runs_host_fold : Runs .host s fun t => LeavesFold s t ∧ t.out = s.out := by
  have e : anyWake 4 s = foldLeft (wakeNoted 4 s) := (anyWake_fold ha h0 hd rfl).trans (foldExit_wakeNoted (by decide) s)
  exact ⟨_, congrArg Host.Outcome.next e, leavesFold_wakeNoted 4 s⟩

end

/-! ## The end of a step of a climb (R126, R144) -/

section
variable (s : State)

theorem powerKept_ceRestart : PowerKept [] s (ceRestart s) := by
  have hwipe (u : State) : PowerKept [] u (ceWipe u) := by
    unfold ceWipe
    extract_lets _ v
    have hv : PowerKept [] u v :=
      .ite (.refl [] u) (((PowerKept.refl [] u).withCe _).bump _ (show PageClass.mailbox ≠ .power by decide) (by decide))
    exact .setFlag (hv.withCe _) 0 false (show PageClass.callEngine ≠ .power by decide) (by decide)
  exact .ite ((PowerKept.refl [] s).withCe _) (PowerKept.trans (t := endAllCmds pgCe s) (.of_regs rfl rfl) (hwipe _))

/-- Call as it is reached, before a restore of the decks begins. -/
def callBegun (s : State) : State :=
  let byHost := fld s pgPower Off.PWR_WAKE_CAUSE 12 4 == 4
  let s := { s with head := { s.head with mPrev := s.head.mPrev.filter fun b => b != pageBase pgPower }
                    pwr := { s.pwr with dutyOn := false, dutyWindow := false, dutyHit := false } }
  let s := if (deckOf s 2).isSome then ceRestart (setFlag pgCe Off.CTRL 0 true s) else s
  (if byHost then s else emit .clkreq s) |> emit (.ltr 50)

theorem callReached_eq : callReached s =
    let u := callBegun s
    if !flag u pgPower Off.PWR_ANTE_CFG 2 || restoreNeeded u then u else restoreBegin u := rfl

theorem powerKept_callBegun : PowerKept [] s (callBegun s) := by
  unfold callBegun
  extract_lets byHost _ _ u v
  have hu : PowerKept [] s u := .of_regs rfl rfl
  have hv : PowerKept [] s v :=
    .ite ((hu.setFlag 0 true (show PageClass.callEngine ≠ .power by decide) (by decide)).trans (powerKept_ceRestart _)) hu
  exact .emit (.ite hv (hv.emit _)) _

theorem powerKept_callReached : PowerKept [Off.PWR_STATE] s (callReached s) := by
  have hbegun : PowerKept [Off.PWR_STATE] s (callBegun s) := (powerKept_callBegun s).mono (by simp)
  exact .ite hbegun (hbegun.ownFld _ _ _ (by decide) (.head _))

/-- What Call leaves of PWR_STATE as it is reached. -/
theorem fld_callReached {lo w : Nat} (h : lo + w ≤ 9) : fld (callReached s) pgPower Off.PWR_STATE lo w = fld s pgPower Off.PWR_STATE lo w := by
  have hbegun : fld (callBegun s) pgPower Off.PWR_STATE lo w = fld s pgPower Off.PWR_STATE lo w :=
    (powerKept_callBegun s).fld_eq lo w (by decide) (by decide) (by decide)
  rw [callReached_eq]
  dsimp only
  split
  · exact hbegun
  · exact (fld_restoreBegin _ h).trans hbegun

theorem domsLatched_callReached : domsLatched (callReached s) = domsLatched s := by
  have hce (u : State) : domsLatched (ceRestart u) = domsLatched u :=
    domsLatched_of_pwr ((keeps_ceRestart (N := 0x100a) rfl u (.refl _ u)).same .pwr rfl)
  have hbegun : domsLatched (callBegun s) = domsLatched s := by
    unfold callBegun
    extract_lets byHost _ _ u v
    have hv : domsLatched v = domsLatched s := domsLatched_ite s ((hce _).trans ((domsLatched_of_pwr (setFlag_pwr ..)).trans rfl)) rfl
    exact domsLatched_ite s hv hv
  exact domsLatched_ite s hbegun ((domsLatched_of_pwr (setFld_pwr ..)).trans hbegun)

theorem powerKept_climbOn : PowerKept climbRegs s (climbOn s) :=
  .ite ((powerKept_setPwrPhase 0 s).mono (by decide)) (powerKept_startClimb _ s)

theorem pwrState_climbOn : pwrState (climbOn s) = pwrState s := by
  unfold climbOn
  split
  · exact pwrState_setPwrPhase 0 s
  · exact pwrState_startClimb _ s

/-- A climb that has reached its target is over. -/
theorem pwrPhase_climbOn {s : State} (h : pwrState s = pwrTarget s) : pwrPhase (climbOn s) = 0 := by
  unfold climbOn
  rw [if_pos h]
  exact pwrPhase_setPwrPhase 0 s

theorem domsLatched_climbOn : domsLatched (climbOn s) = domsLatched s :=
  domsLatched_ite s (domsLatched_of_pwr (setFld_pwr ..)) (domsLatched_startClimb _ s)

/-- Each domain stands at a level. -/
theorem domainsAt_getD {s : State} {level : Nat → Nat} (h : domainsAt s level = true) {d : Nat} (hd : d < 15) : s.pwr.dom.getD d 0 = level d :=
  beq_iff_eq.mp (List.all_eq_true.mp h d (List.mem_range.mpr hd))

/-- A step has ended in a state, which the event tells. -/
def stepDone (n : Nat) (s : State) : State := s |> setPwrState n |> raise pgPower Evt.PWR_STATE_CHANGED

/-- The event of a step leaves PWR_STATE alone. -/
theorem stepDone_kept (n : Nat) : PowerKept [] (setPwrState n s) (stepDone n s) := (PowerKept.refl [] _).raise _ (by decide)

theorem pwrState_stepDone {n : Nat} (h : n < 8) (s : State) : pwrState (stepDone n s) = n := by
  rw [(stepDone_kept s n).pwrState_eq (by decide), pwrState_setPwrState, Nat.mod_eq_of_lt h]

theorem pwrTarget_stepDone (n : Nat) : pwrTarget (stepDone n s) = pwrTarget s := by
  rw [(stepDone_kept s n).pwrTarget_eq (by decide), pwrTarget_setPwrState]

theorem pwrPhase_stepDone (n : Nat) : pwrPhase (stepDone n s) = pwrPhase s := by
  rw [(stepDone_kept s n).pwrPhase_eq (by decide), pwrPhase_setPwrState]

theorem raised_stepDone (n : Nat) : Raised pgPower Evt.PWR_STATE_CHANGED (stepDone n s) := flag_raise_same _ _ (by decide) (by decide)

theorem domsLatched_stepDone (n : Nat) : domsLatched (stepDone n s) = domsLatched s :=
  domsLatched_of_pwr ((raise_pwr ..).trans (setFld_pwr ..))

/-- A step of a climb has ended in a state. -/
def climbStepped (n : Nat) (s : State) : State := if n = 2 then callReached (stepDone n s) else stepDone n s

theorem powerKept_climbStepped (n : Nat) : PowerKept [Off.PWR_STATE] (stepDone n s) (climbStepped n s) := .ite (powerKept_callReached _) (.refl _ _)

theorem fld_climbStepped (n : Nat) {lo w : Nat} (h : lo + w ≤ 9) :
    fld (climbStepped n s) pgPower Off.PWR_STATE lo w = fld (stepDone n s) pgPower Off.PWR_STATE lo w := by
  unfold climbStepped
  split
  · exact fld_callReached _ h
  · rfl

theorem domsLatched_climbStepped (n : Nat) : domsLatched (climbStepped n s) = domsLatched s :=
  domsLatched_ite s ((domsLatched_callReached _).trans (domsLatched_stepDone s n)) (domsLatched_stepDone s n)

end

theorem execClimbStepEnd_eq {s : State} (hphase : pwrPhase s = 1) (h4 : pwrState s < 4) (hready : climbReady s = true)
    (hdoms : domainsAt s (domLevel s (pwrState s + 1)) = true) :
    execClimbStepEnd s = settleQueues (fun _ => true) (climbOn (climbStepped (pwrState s + 1) s)) := by
  unfold execClimbStepEnd
  rw [if_neg]
  · rfl
  · rw [hready, hdoms]
    rintro (h | h | h | h)
    · exact h hphase
    · omega
    · exact Bool.false_ne_true h.symm
    · exact Bool.false_ne_true h.symm

theorem runs_climbStepEnd {s : State} (hphase : pwrPhase s = 1) (h4 : pwrState s < 4) (hready : climbReady s = true)
    (hdoms : domainsAt s (domLevel s (pwrState s + 1)) = true) : Runs .climbStepEnd s fun t =>
      pwrState t = pwrState s + 1 ∧ Raised pgPower Evt.PWR_STATE_CHANGED t ∧ (pwrTarget s = pwrState s + 1 → pwrPhase t = 0) ∧
        ∀ d, d < 15 → t.pwr.dom.getD d 0 = domLevel s (pwrState s + 1) d := by
  generalize hn : pwrState s + 1 = n at hdoms
  have e := execClimbStepEnd_eq hphase h4 hready (hn ▸ hdoms)
  rw [hn] at e
  have hstate : pwrState (climbStepped n s) = n := (fld_climbStepped s n (by decide)).trans (pwrState_stepDone (by omega) s)
  have htarget : pwrTarget (climbStepped n s) = pwrTarget s := (fld_climbStepped s n (by decide)).trans (pwrTarget_stepDone s n)
  have hset := powerKept_settleQueues (fun _ => true) (climbOn (climbStepped n s))
  have hpwr : (settleQueues (fun _ => true) (climbOn (climbStepped n s))).pwr = (climbOn (climbStepped n s)).pwr :=
    (keeps_settleQueues (N := 0x14000a) rfl _ _ (.refl _ _)).same .pwr rfl
  have hdl : domsLatched (climbOn (climbStepped n s)) = domsLatched s := (domsLatched_climbOn _).trans (domsLatched_climbStepped s n)
  refine ⟨_, congrArg Host.Outcome.next e, ?_, ?_, fun ht => ?_, fun d hd => ?_⟩
  · rw [hset.pwrState_eq (by decide), pwrState_climbOn, hstate]
  · exact hset.raised _ (by decide) ((powerKept_climbOn _).raised _ (by decide)
      ((powerKept_climbStepped s n).raised _ (by decide) (raised_stepDone s n)))
  · rw [hset.pwrPhase_eq (by decide), pwrPhase_climbOn (by rw [hstate, htarget, ht])]
  · have hdom : (climbOn (climbStepped n s)).pwr.dom = s.pwr.dom := congrArg Prod.fst hdl
    rw [hpwr, hdom]
    exact domainsAt_getD hdoms hd

/-- Settles O22: a counted event is recorded and acts on a state that stands as before it; in Fold the keeper's state alone goes on; a step
of a climb ends in the domains' state. -/
theorem wakes : Obligations.Wakes := by
  unfold Obligations.Wakes
  refine ⟨fun s h => ?_, fun s ha h0 hd => runs_wakeIn_fold ha h0 hd, fun s h h1 => ?_, fun s ha h0 hd => runs_host_fold ha h0 hd,
    fun s w T h hadm hT h2 => runs_hostReq h.1 h.2 hadm hT h2, fun s d hdue h => runs_wake hdue h.1 h.2,
    fun s hphase _ h4 hready hdoms => runs_climbStepEnd hphase h4 hready hdoms⟩
  · exact ⟨_, rfl, wake_on (idx := 3) (by decide) h.1 h.2 rfl (.refl [] s) (by decide) rfl rfl rfl⟩
  · exact ⟨_, rfl, wake_on (idx := 4) (by decide) h.1 h.2 (decide_eq_true h1) (.refl [] s) (by decide) rfl rfl rfl⟩

end Sys2Proof.Machine
end

section
/-! # What leaves the pages from 0x100000 on, and what stops as Call is left (R131, R169, R557) -/
namespace Sys2Proof.Machine

/-! ## Registers that lie elsewhere -/

theorem RegsBut.foldl {l : List Nat} {β : Type} {f : State → β → State} (hf : ∀ s b, RegsBut l s (f s b)) (bs : List β) (s : State) :
    RegsBut l s (bs.foldl f s) := by
  induction bs generalizing s with
  | nil => exact .refl l s
  | cons b r ih => exact (hf s b).trans (ih _)

theorem RegsBut.withAu {l : List Nat} {s t : State} (h : RegsBut l s t) (x : AudioSt) : RegsBut l s { t with au := x } := h.trans (.of_regs rfl rfl)
theorem RegsBut.withHh {l : List Nat} {s t : State} (h : RegsBut l s t) (x : HistSt) : RegsBut l s { t with hh := x } := h.trans (.of_regs rfl rfl)
theorem RegsBut.withHbm {l : List Nat} {s t : State} (h : RegsBut l s t) (x : List Host.Cell) : RegsBut l s { t with hbm := x } :=
  h.trans (.of_regs rfl rfl)

/-- Registers that lie outside the power page. -/
theorem PowerKept.of_regsBut {l : List Nat} {s t : State} (h : RegsBut l s t) (hl : ∀ a ∈ l, a < 0x2000 ∨ 0x3000 ≤ a) : PowerKept [] s t := by
  have hrd : ∀ off, off < 0x1000 → reg t (pageBase pgPower + off) = reg s (pageBase pgPower + off) := fun off ho => by
    refine h _ fun hm => ?_
    have hpower : pageBase pgPower = 0x2000 := rfl
    have := hl _ hm
    omega
  exact ⟨fun off ho _ _ => hrd off ho, fun _ _ hb => (flag_congr (hrd _ (by decide))).trans hb⟩

/-- Every register from 0x100000 on is as it was. -/
def UpperKept (s t : State) : Prop := ∀ a, 0x100000 ≤ a → reg t a = reg s a

theorem RegsBut.upperKept {l : List Nat} {s t : State} (h : RegsBut l s t) (hl : ∀ a ∈ l, a < 0x100000) : UpperKept s t :=
  fun a ha => h a fun hm => absurd (hl a hm) (by omega)

namespace UpperKept
variable {s t : State} (h : UpperKept s t)
include h

theorem rd_bf (g off : Nat) : rd t (pgBf g) off = rd s (pgBf g) off :=
  h _ (Nat.le_add_right_of_le (show 0x100000 ≤ 0x109000 + 0x100000 * g by omega))
theorem rd_ain (g off : Nat) : rd t (pgAin g) off = rd s (pgAin g) off :=
  h _ (Nat.le_add_right_of_le (show 0x100000 ≤ 0x108000 + 0x100000 * g by omega))
theorem rd_ring (off : Nat) : rd t pgRing off = rd s pgRing off := h _ (Nat.le_add_right_of_le (show 0x100000 ≤ 0x10A000 by omega))

theorem beamOn_eq (g k : Nat) : beamOn t g k = beamOn s g k := by
  unfold beamOn flag fld
  dsimp only
  rw [h.rd_bf]

theorem channelOn_eq (g c : Nat) (pdm : Word) : channelOn t g c pdm = channelOn s g c pdm := by
  unfold channelOn flag fld
  dsimp only
  rw [h.rd_ain, h.rd_ain]

/-- Whether a beam is hot rests on the beamformers' pages and on the domains' power. -/
theorem anyBeamHot_eq (hdom : t.pwr.dom = s.pwr.dom) : anyBeamHot t = anyBeamHot s := by
  simp only [anyBeamHot, groupHot, h.beamOn_eq, pageOn, domOn, flag, fld, h.rd_bf, hdom]

end UpperKept

/-! ## The table's frame, the ring, and what hand history holds (R169, R505, R557) -/

/-- The registers that a group frame changes. -/
def frameRegs : List Nat := [pageBase (pgFab 0) + Off.FAB_CNT_TX_FRAMES, pageBase (pgFab 1) + Off.FAB_CNT_TX_FRAMES]

/-- The registers that a relock of the ring changes, a sign-off of the same beat included. -/
def relockRegs : List Nat :=
  [pageBase pgRing + Off.RING_STATUS, pageBase pgRing + Off.RING_CNT_ZEROISED, pageBase pgRing + Off.RING_RELEASE_IDX,
    pageBase pgRing + Off.RING_CNT_UNLOCKS, evtOf pgRing, pageBase pgMb + Off.MB_CNT_SIGNOFF_REFUSED]

/-- The registers that the writing of hand history's ring changes. -/
def historyRegs : List Nat :=
  [hhLost, pageBase pgHh + Off.HH_TAIL_LO, pageBase pgHh + Off.HH_TAIL_HI, pageBase pgHh + Off.HH_CNT_KIB, pageBase pgHh + Off.HH_HEAD_LO,
    pageBase pgHh + Off.HH_HEAD_HI, pageBase pgHh + Off.HH_LAST_CKPT_LO, pageBase pgHh + Off.HH_LAST_CKPT_HI,
    pageBase pgHh + Off.HH_CNT_RECORDS, pageBase pgHh + Off.HH_STATUS, pageBase pgHh + Off.HH_CNT_GAPS, evtOf pgHh,
    pageBase (pgMemenc 0) + Off.MEMENC_CNT_DENIED]

theorem regsBut_sendFrame (type dst cls corr tenant : Nat) (payload : List Byte) (s : State) :
    RegsBut frameRegs s (sendFrame type dst true cls corr tenant payload s) := by
  have hsend (p : Nat) (hp : pageBase (pgFab p) + Off.FAB_CNT_TX_FRAMES ∈ frameRegs) (bytes : List Byte) (u : State) :
      RegsBut frameRegs u (portSend p tenant none cls bytes u) := .ite (.bump (.emit (.refl _ u) _) 1 hp) (.refl _ u)
  unfold sendFrame
  extract_lets bytes _ u
  have hu : RegsBut frameRegs s u := .of_regs rfl rfl
  refine .ite (.refl _ s) ?_
  rw [if_pos rfl]
  exact (hu.trans (hsend 0 (by decide) bytes u)).trans (hsend 1 (by decide) bytes _)

theorem regsBut_ringZeroise (p : RingBlk → Bool) (s : State) : RegsBut relockRegs s (ringZeroise p s) :=
  ((RegsBut.refl _ s).withAu _).bump _ (by decide)

theorem regsBut_ringUnlock (start : Nat) (s : State) : RegsBut relockRegs s (ringUnlock start s) := by
  unfold ringUnlock
  extract_lets lead age first count u
  have hu : RegsBut relockRegs s u := (regsBut_ringZeroise _ s).withAu _
  exact ((((hu.withAu _).wr _ (by decide)).setFlag 0 false (by decide)).raise _ (by decide)).bump 1 (by decide)

theorem regsBut_ringSigned (g : SignSt) (s : State) : RegsBut relockRegs s (ringSigned g s) :=
  .ite (.bump (.refl _ s) 1 (by decide)) (regsBut_ringUnlock g.start s)

theorem regsBut_ringRelock (s : State) : RegsBut relockRegs s (ringRelock s) := by
  unfold ringRelock
  extract_lets t
  have ht : RegsBut relockRegs s t := .raise (.setFlag (.refl _ s) 0 true (by decide)) _ (by decide)
  refine .ite (.refl _ s) ?_
  split
  · exact .ite ht (.ite (.refl _ s) (ht.trans (regsBut_ringSigned _ t)))
  · exact ht

/-- With no sign-off in the beat a relocked ring is locked. -/
theorem ringLocked_ringRelock {s : State} (h : s.au.signed = none) : ringLocked (ringRelock s) = true := by
  unfold ringRelock
  by_cases hl : ringLocked s = true
  · rw [if_pos hl]
    exact hl
  · rw [if_neg hl, h]
    exact (flag_congr (reg_raise_ne (by decide))).trans (flag_setFlag_same _ _ _ _ (by decide))

theorem regsBut_wr64 {l : List Nat} {s t : State} {p : Page} {lo hi : Nat} (h : RegsBut l s t) (v : Nat) (mlo : pageBase p + lo ∈ l)
    (mhi : pageBase p + hi ∈ l) : RegsBut l s (wr64 p lo hi v t) := (h.wr _ mlo).wr _ mhi

theorem regsBut_ringBytes (bs : List Byte) (s : State) : RegsBut historyRegs s (ringBytes bs s) := by
  unfold ringBytes
  extract_lets at_ u total v
  have hu : RegsBut historyRegs s u := .ite (.emit (.refl _ s) _) (.ite ((RegsBut.refl _ s).withHbm _) (.bump (.refl _ s) 1 (by decide)))
  have hv : RegsBut historyRegs s v := regsBut_wr64 hu _ (by decide) (by decide)
  exact (hv.withHh _).bump _ (by decide)

theorem regsBut_hhLose (s : State) : RegsBut historyRegs s (hhLose s) := (captured_hhLose s).regsBut_hhLost.mono (by decide)

theorem regsBut_hhPut (r : HistRec) (s : State) : RegsBut historyRegs s (hhPut r s) := by
  unfold hhPut
  extract_lets size rest stretch free fits m _ u v _ w x
  have hu : RegsBut historyRegs s u := .ite (.refl _ s) (regsBut_wr64 ((RegsBut.refl _ s).withHh _) _ (by decide) (by decide))
  have hv : RegsBut historyRegs s v := .ite hu (hu.trans (regsBut_ringBytes _ u))
  have hw : RegsBut historyRegs s w := .ite (regsBut_wr64 (hv.withHh _) _ (by decide) (by decide)) hv
  have hx : RegsBut historyRegs s x := hw.trans (regsBut_ringBytes _ w)
  exact .ite (regsBut_hhLose s) ((hx.withHh _).bump 1 (by decide))

theorem regsBut_hhGap (lost tt : Nat) (s : State) : RegsBut historyRegs s (hhGap lost tt s) :=
  (((regsBut_hhPut _ s).raise _ (by decide)).setFlag 0 false (by decide)).bump 1 (by decide)

theorem regsBut_hhWrite (r : HistRec) (s : State) : RegsBut historyRegs s (hhWrite r s) := by
  unfold hhWrite
  extract_lets t
  have ht : RegsBut historyRegs s t := regsBut_hhGap _ _ s
  exact .ite (regsBut_hhPut r s) (.ite (regsBut_hhLose s) ((ht.withHh _).trans (regsBut_hhPut r _)))

theorem regsBut_hhFlush (s : State) : RegsBut historyRegs s (hhFlush s) :=
  .ite (.refl _ s) (((RegsBut.refl _ s).withHh _).trans (.foldl (fun u r => regsBut_hhWrite r u) _ _))

/-! ## The step from Call to Ante begins -/

/-- The registers that change as the step to Ante begins. -/
def stepRegs : List Nat := frameRegs ++ relockRegs ++ historyRegs

/-- The seat leaves the table, and the ring relocks. -/
def callLeft (s : State) : State := ringRelock (sendFrame 0x02 0 true 1 0 0 [] s)

/-- Hand history records the start of the step and writes what it holds. -/
def historyClosed (s : State) : State := setFlag pgHh Off.HH_STATUS 2 true (hhFlush (hhCapture 5 72 0 [] s))

theorem stepBegin_eq (s : State) : stepBegin s =
    if pwrPhase s = 4 ∧ pwrState s = 2 then (if hhMode (callLeft s) = 1 then historyClosed (callLeft s) else callLeft s) else s := rfl

/-- Only the step from Call begins with anything. -/
theorem stepBegin_idle {s : State} (h : pwrState s ≠ 2) : stepBegin s = s := if_neg fun h' => h h'.2

theorem regsBut_callLeft (s : State) : RegsBut (frameRegs ++ relockRegs) s (callLeft s) :=
  ((regsBut_sendFrame _ _ _ _ _ _ s).mono (by decide)).trans ((regsBut_ringRelock _).mono (by decide))

theorem regsBut_historyClosed (s : State) : RegsBut historyRegs s (historyClosed s) :=
  (((captured_hhCapture _ _ _ _ s).regsBut_hhLost.mono (by decide)).trans (regsBut_hhFlush _)).setFlag 2 true (by decide)

theorem powerKept_stepBegin (s : State) : PowerKept [] s (stepBegin s) := by
  have hleft : RegsBut stepRegs s (callLeft s) := (regsBut_callLeft s).mono (by decide)
  rw [stepBegin_eq]
  exact .of_regsBut (.ite (.ite (hleft.trans ((regsBut_historyClosed _).mono (by decide))) hleft) (.refl _ s)) (by decide)

section
variable {s : State} (hphase : pwrPhase s = 4) (hstate : pwrState s = 2)
include hphase hstate

theorem ringLocked_stepBegin (h : s.au.signed = none) : ringLocked (stepBegin s) = true := by
  have hsigned : (sendFrame 0x02 0 true 1 0 0 [] s).au = s.au := (keeps_sendFrame (N := 0x10040a) rfl _ _ _ _ _ _ _ s (.refl _ s)).same .au rfl
  have hleft : ringLocked (callLeft s) = true := ringLocked_ringRelock (by rw [hsigned]; exact h)
  rw [stepBegin_eq, if_pos ⟨hphase, hstate⟩]
  split
  · exact (flag_congr (regsBut_historyClosed _ _ (by decide))).trans hleft
  · exact hleft

theorem history_stepBegin (h : hhMode s = 1) : flag (stepBegin s) pgHh Off.HH_STATUS 2 = true := by
  have hmode : hhMode (callLeft s) = 1 := (fld_congr (regsBut_callLeft s _ (by decide))).trans h
  rw [stepBegin_eq, if_pos ⟨hphase, hstate⟩, if_pos hmode]
  exact flag_setFlag_same _ _ _ _ (by decide)

end

end Sys2Proof.Machine
end

section
/-! # Power commands and descents (R129–R133, R141) -/
namespace Sys2Proof.Machine

/-! ## The check of a command (R130) -/

theorem Captured.upperKept {s u : State} (h : Captured s u) : UpperKept s u := h.regsBut_hhLost.upperKept (by decide)

theorem Captured.pwrCheck_eq {s u : State} (h : Captured s u) (mgmt : Bool) (T : Nat) : pwrCheck u mgmt T = pwrCheck s mgmt T := by
  have hphase : pwrPhase u = pwrPhase s := h.fld_eq 6 3 (by decide) (by decide)
  have hstate : pwrState u = pwrState s := h.fld_eq 0 3 (by decide) (by decide)
  have hgrant (b : Nat) : flag u pgPower Off.PWR_GRANT b = flag s pgPower Off.PWR_GRANT b := h.flag_eq b (by decide) (by decide)
  have hante : flag u pgPower Off.PWR_ANTE_CFG 1 = flag s pgPower Off.PWR_ANTE_CFG 1 := h.flag_eq 1 (by decide) (by decide)
  have hctx : anyContext u = anyContext s := by unfold anyContext; rw [h.host_eq]
  have hduty : dutyOk u = dutyOk s := by unfold dutyOk; simp only [h.fld_eq (p := pgPower) (off := Off.PWR_DUTY) _ _ (by decide) (by decide)]
  unfold pwrCheck
  rw [hphase, hstate, hgrant, hante, hctx, hduty, h.host_eq]

theorem pwrCheck_lt (s : State) (mgmt : Bool) (T : Nat) : pwrCheck s mgmt T < 16 := by
  unfold pwrCheck
  (repeat' split) <;> decide

theorem withMgmt_pwr (l : List Nat) (s : State) : (withMgmt l s).pwr = s.pwr := rfl

/-! ## Quiesce begins (R132) -/

section
variable (s : State)

/-- The limit of the phase that begins runs from now on. -/
def limitFromNow (s : State) : State := { s with pwr := { s.pwr with start := s.tt.beats } }

theorem quiesceBegin_eq : quiesceBegin s = settleQueues (fun _ => true) (setPwrPhase 3 (limitFromNow s)) := rfl

theorem powerKept_limitFromNow : PowerKept [] s (limitFromNow s) := (PowerKept.refl [] s).withPwr _

theorem powerKept_quiesceBegin : PowerKept [Off.PWR_STATE] s (quiesceBegin s) :=
  (((powerKept_limitFromNow s).mono (by simp)).trans (powerKept_setPwrPhase 3 _)).trans ((powerKept_settleQueues _ _).mono (by simp))

theorem fieldsOf_quiesceBegin : pwrState (quiesceBegin s) = pwrState s ∧ pwrTarget (quiesceBegin s) = pwrTarget s ∧
    pwrPhase (quiesceBegin s) = 3 := by
  have hset := powerKept_settleQueues (fun _ => true) (setPwrPhase 3 (limitFromNow s))
  have hlimit := powerKept_limitFromNow s
  rw [quiesceBegin_eq, hset.pwrState_eq (by decide), hset.pwrTarget_eq (by decide), hset.pwrPhase_eq (by decide), pwrState_setPwrPhase,
    pwrTarget_setPwrPhase, pwrPhase_setPwrPhase, hlimit.pwrState_eq (by decide), hlimit.pwrTarget_eq (by decide)]
  exact ⟨rfl, rfl, rfl⟩

theorem settleQueues_pwr (p : Nat → Bool) : (settleQueues p s).pwr = s.pwr := (keeps_settleQueues (N := 0x14000a) rfl p s (.refl _ s)).same .pwr rfl

theorem quiesceBegin_pwr : (quiesceBegin s).pwr = { s.pwr with start := s.tt.beats } :=
  (settleQueues_pwr ..).trans (setFld_pwr ..)

end

/-! ## PWR_CMD with GO (R129–R131) -/

/-- A power command has been accepted with a target. -/
def Accepted (T : Nat) (t : State) : Prop :=
  pwrTarget t = T ∧ flag t pgPower Off.PWR_CMD 31 = true ∧ fld t pgPower Off.PWR_CMD 0 3 = T

/-- The page keeps a command's field, and the controller who gave it and in what state. -/
def cmdNoted (mgmt : Bool) (T : Nat) (s : State) : State :=
  let cmd : PwrCmdSt := { beat := s.tt.beats, mgmt, target := T, ran := pwrCheck s mgmt T == 0
                          held := flag s pgPower Off.EVT_RAW Evt.PWR_HOLD_STARTED, again := false }
  { s with pwr := { s.pwr with cmdFrom := pwrState s, byMgmt := mgmt, cmd := some cmd } } |> setFld pgPower Off.PWR_CMD 0 3 T

/-- GO reads 1, and nothing is left of the command before. -/
def cmdGoes (s : State) : State :=
  { s with pwr := { s.pwr with start := s.tt.beats, latched := none, anyLatched := false, stalled := false } }
    |> setFlag pgPower Off.PWR_CMD 31 true

/-- A command that passes its check begins in the hold. -/
def cmdBegun (T : Nat) (s : State) : State := setPwrPhase 2 (setPwrTarget T (cmdGoes s))

/-- A command as it has begun. -/
def cmdHeld (mgmt : Bool) (T : Nat) (s : State) : State := cmdBegun T (cmdNoted mgmt T s)

section
variable (mgmt : Bool) (T : Nat) (s : State)

theorem pwrCmd_eq {mgmt : Bool} {T : Nat} {s : State} (h : flag s pgPower Off.PWR_CMD 31 = false) : pwrCmd mgmt T s =
    if pwrCheck s mgmt T ≠ 0 then postPwrResult (pwrCheck s mgmt T) (bump pgPower Off.PWR_CNT_CMD_REFUSED 1 (cmdNoted mgmt T s))
    else if !anyBeamHot (cmdHeld mgmt T s) || fld (cmdHeld mgmt T s) pgPower Off.PWR_HOLD 0 16 == 0 then quiesceBegin (cmdHeld mgmt T s)
    else bump pgPower Off.PWR_CNT_HOLDS 1 (raise pgPower Evt.PWR_HOLD_STARTED (cmdHeld mgmt T s)) := by
  unfold pwrCmd
  rw [if_neg (by rw [h]; decide)]
  rfl

theorem regsBut_cmdNoted : RegsBut [pageBase pgPower + Off.PWR_CMD] s (cmdNoted mgmt T s) := by
  have hpwr (x : PowerSt) : RegsBut [pageBase pgPower + Off.PWR_CMD] s { s with pwr := x } := .of_regs rfl rfl
  exact (hpwr _).wr _ (.head _)

theorem powerKept_cmdNoted : PowerKept [Off.PWR_CMD] s (cmdNoted mgmt T s) :=
  ((PowerKept.refl _ s).withPwr _).ownFld 0 3 T (by decide) (.head _)

theorem fld_cmdNoted : fld (cmdNoted mgmt T s) pgPower Off.PWR_CMD 0 3 = T % 8 := fld_setFld_same _ _ _ _ _ (by decide)

theorem regsBut_cmdBegun : RegsBut [pageBase pgPower + Off.PWR_CMD, pageBase pgPower + Off.PWR_STATE] s (cmdBegun T s) := by
  have hpwr (x : PowerSt) : RegsBut [pageBase pgPower + Off.PWR_CMD, pageBase pgPower + Off.PWR_STATE] s { s with pwr := x } := .of_regs rfl rfl
  exact (((hpwr _).setFlag 31 true (.head _)).wr _ (.tail _ (.head _))).wr _ (.tail _ (.head _))

theorem powerKept_cmdGoes : PowerKept [Off.PWR_CMD] s (cmdGoes s) :=
  ((PowerKept.refl _ s).withPwr _).ownFlag 31 true (by decide) (.head _)

theorem cmdGoes_kept : PowerKept [Off.PWR_STATE] (cmdGoes s) (cmdBegun T s) := (powerKept_setPwrTarget T _).trans (powerKept_setPwrPhase 2 _)

/-- A command begins with its target, in phase 2, in the state that it came in. -/
theorem fieldsOf_cmdBegun {T : Nat} (hT : T < 8) (s : State) :
    pwrState (cmdBegun T s) = pwrState s ∧ pwrTarget (cmdBegun T s) = T ∧ pwrPhase (cmdBegun T s) = 2 := by
  have hgoes := (powerKept_cmdGoes s).pwrState_eq (by decide)
  unfold cmdBegun
  refine ⟨?_, ?_, pwrPhase_setPwrPhase 2 _⟩
  · rw [pwrState_setPwrPhase, pwrState_setPwrTarget, hgoes]
  · rw [pwrTarget_setPwrPhase, pwrTarget_setPwrTarget, Nat.mod_eq_of_lt hT]

/-- A command as it has begun: its field, GO and the fields of PWR_STATE. -/
theorem accepted_cmdHeld {T : Nat} (hT : T < 8) (mgmt : Bool) (s : State) : Accepted T (cmdHeld mgmt T s) := by
  have hkept := cmdGoes_kept T (cmdNoted mgmt T s)
  have hgo : flag (cmdGoes (cmdNoted mgmt T s)) pgPower Off.PWR_CMD 31 = true := flag_setFlag_same _ _ _ _ (by decide)
  have hfld : fld (cmdGoes (cmdNoted mgmt T s)) pgPower Off.PWR_CMD 0 3 = fld (cmdNoted mgmt T s) pgPower Off.PWR_CMD 0 3 := by
    have hpwr (x : PowerSt) : PowerKept [] (cmdNoted mgmt T s) { cmdNoted mgmt T s with pwr := x } := (PowerKept.refl _ _).withPwr _
    exact (fld_setFlag_below _ _ (by decide) (by decide)).trans ((hpwr _).fld_eq 0 3 (by decide) (by decide) (by decide))
  refine ⟨(fieldsOf_cmdBegun hT _).2.1, (hkept.flag_eq 31 (by decide) (by decide) (by decide)).trans hgo, ?_⟩
  exact (hkept.fld_eq 0 3 (by decide) (by decide) (by decide)).trans (hfld.trans ((fld_cmdNoted mgmt T s).trans (Nat.mod_eq_of_lt hT)))

theorem Accepted.kept {T : Nat} {l : List Nat} {s t : State} (h : Accepted T s) (htarget : pwrTarget t = pwrTarget s) (k : PowerKept l s t)
    (hl : Off.PWR_CMD ∉ l) : Accepted T t := by
  unfold Accepted
  rw [htarget, k.flag_eq 31 (by decide) (by decide) hl, k.fld_eq 0 3 (by decide) (by decide) hl]
  exact h

theorem powerKept_cmdHeld : PowerKept [Off.PWR_CMD, Off.PWR_STATE] s (cmdHeld mgmt T s) :=
  (((powerKept_cmdNoted mgmt T s).mono (by decide)).trans ((powerKept_cmdGoes _).mono (by decide))).trans ((cmdGoes_kept T _).mono (by decide))

theorem regsBut_cmdHeld : RegsBut [pageBase pgPower + Off.PWR_CMD, pageBase pgPower + Off.PWR_STATE] s (cmdHeld mgmt T s) :=
  ((regsBut_cmdNoted mgmt T s).mono (by decide)).trans (regsBut_cmdBegun T _)

theorem pwrState_cmdHeld {T : Nat} (hT : T < 8) (mgmt : Bool) (s : State) : pwrState (cmdHeld mgmt T s) = pwrState s :=
  (fieldsOf_cmdBegun hT _).1.trans ((powerKept_cmdNoted mgmt T s).pwrState_eq (by decide))

theorem cmdNoted_tt : (cmdNoted mgmt T s).tt = s.tt := setFld_tt ..

theorem cmdNoted_dom : (cmdNoted mgmt T s).pwr.dom = s.pwr.dom := by unfold cmdNoted; rw [setFld_pwr]

theorem cmdGoes_tt : (cmdGoes s).tt = s.tt := setFlag_tt ..

theorem cmdGoes_pwr : (cmdGoes s).pwr = { s.pwr with start := s.tt.beats, latched := none, anyLatched := false, stalled := false } :=
  setFlag_pwr ..

theorem cmdBegun_tt : (cmdBegun T s).tt = s.tt := (setFld_tt ..).trans ((setFld_tt ..).trans (cmdGoes_tt s))

theorem cmdBegun_pwr : (cmdBegun T s).pwr = { s.pwr with start := s.tt.beats, latched := none, anyLatched := false, stalled := false } :=
  (setFld_pwr ..).trans ((setFld_pwr ..).trans (cmdGoes_pwr s))

theorem cmdHeld_tt : (cmdHeld mgmt T s).tt = s.tt := (cmdBegun_tt T _).trans (cmdNoted_tt mgmt T s)

theorem cmdHeld_start : (cmdHeld mgmt T s).pwr.start = s.tt.beats := by
  rw [cmdHeld, cmdBegun_pwr, cmdNoted_tt]

theorem cmdHeld_dom : (cmdHeld mgmt T s).pwr.dom = s.pwr.dom := by
  rw [cmdHeld, cmdBegun_pwr, cmdNoted_dom]

/-- A beam is hot, and the limit of a hold stands, after a command has begun as before it. -/
theorem holds_cmdHeld : (!anyBeamHot (cmdHeld mgmt T s) || fld (cmdHeld mgmt T s) pgPower Off.PWR_HOLD 0 16 == 0) =
    (!anyBeamHot s || fld s pgPower Off.PWR_HOLD 0 16 == 0) := by
  rw [((regsBut_cmdHeld mgmt T s).upperKept (by decide)).anyBeamHot_eq (cmdHeld_dom mgmt T s),
    (powerKept_cmdHeld mgmt T s).fld_eq 0 16 (by decide) (by decide) (by decide)]

end

section
variable {s : State} {w : Func} {T : Nat} {P : State → Prop} (hadm : Admitted s w pgPower Off.PWR_CMD)
  (hidle : flag s pgPower Off.PWR_CMD 31 = false) (hT : T < 8)
include hadm hidle hT

/-- What a command gives in every captured state, a write of PWR_CMD with GO gives. -/
theorem runs_pwrCmdGo (hen : flag s pgPower Off.CTRL 0 = true)
    (hP : ∀ u l, Captured s u → flag u pgPower Off.PWR_CMD 31 = false → P (withMgmt l (pwrCmd (w == .mgmt) T u))) :
    Runs (.pwrCmdGo w T) s P := by
  refine runs_of_access (v := BitVec.ofNat 32 (T % 8 + 2 ^ 31)) (k := pwrCmdWrite w (BitVec.ofNat 32 (T % 8 + 2 ^ 31))) rfl hadm fun u l hu => ?_
  obtain ⟨hgo, htarget⟩ := goWord_fields T hT
  have hen' : flag u pgPower Off.CTRL 0 = true := (hu.flag_eq 0 (by decide) (by decide)).trans hen
  have e : pwrCmdWrite w (BitVec.ofNat 32 (T % 8 + 2 ^ 31)) u = pwrCmd (w == .mgmt) T u := by
    unfold pwrCmdWrite
    rw [hgo, hen', htarget, if_pos (by decide)]
  rw [e]
  exact hP u l hu ((hu.flag_eq 31 (by decide) (by decide)).trans hidle)

/-- A page that is not enabled takes the target alone (R77). -/
theorem runs_pwrCmdGo_disabled (hen : flag s pgPower Off.CTRL 0 = false) : Runs (.pwrCmdGo w T) s fun t =>
    fld t pgPower Off.PWR_CMD 0 3 = T ∧ t.pwr = s.pwr ∧ RegsBut [pageBase pgPower + Off.PWR_CMD, hhLost] s t := by
  refine runs_of_access (v := BitVec.ofNat 32 (T % 8 + 2 ^ 31)) (k := pwrCmdWrite w (BitVec.ofNat 32 (T % 8 + 2 ^ 31))) rfl hadm fun u l hu => ?_
  obtain ⟨hgo, htarget⟩ := goWord_fields T hT
  have hen' : flag u pgPower Off.CTRL 0 = false := (hu.flag_eq 0 (by decide) (by decide)).trans hen
  have hidle' : flag u pgPower Off.PWR_CMD 31 = false := (hu.flag_eq 31 (by decide) (by decide)).trans hidle
  have e : pwrCmdWrite w (BitVec.ofNat 32 (T % 8 + 2 ^ 31)) u = setFld pgPower Off.PWR_CMD 0 3 T u := by
    unfold pwrCmdWrite
    rw [hgo, hen', htarget, hidle', if_neg (by decide), if_neg (by decide)]
  rw [e]
  refine ⟨?_, (withMgmt_pwr ..).trans ((setFld_pwr ..).trans hu.pwr_eq), hu.regsBut (RegsBut.withMgmt _ ?_) (.tail _ (.head _))⟩
  · rw [fld_withMgmt]
    exact (fld_setFld_same _ _ _ _ _ (by decide)).trans (Nat.mod_eq_of_lt hT)
  · exact (RegsBut.refl _ u).wr _ (.head _)

variable (hen : flag s pgPower Off.CTRL 0 = true)
include hen

theorem runs_pwrCmdGo_refused (hcode : pwrCheck s (w == .mgmt) T ≠ 0) : Runs (.pwrCmdGo w T) s fun t =>
    PwrDone (pwrCheck s (w == .mgmt) T) t ∧ Counted pgPower Off.PWR_CNT_CMD_REFUSED 1 s t ∧
      RegsBut [pageBase pgPower + Off.PWR_CMD, pageBase pgPower + Off.PWR_RESULT, pageBase pgPower + Off.PWR_CNT_CMD_REFUSED, evtOf pgPower,
        hhLost] s t := by
  refine runs_pwrCmdGo hadm hidle hT hen fun u l hu hidle' => ?_
  rw [pwrCmd_eq hidle', hu.pwrCheck_eq, if_pos hcode]
  have hnoted := regsBut_cmdNoted (w == .mgmt) T u
  have hpost := powerKept_postPwrResult (pwrCheck s (w == .mgmt) T) (bump pgPower Off.PWR_CNT_CMD_REFUSED 1 (cmdNoted (w == .mgmt) T u))
  have hcnt : rd (cmdNoted (w == .mgmt) T u) pgPower Off.PWR_CNT_CMD_REFUSED = rd u pgPower Off.PWR_CNT_CMD_REFUSED := hnoted _ (by decide)
  refine ⟨(pwrDone_postPwrResult (pwrCheck_lt ..) _).kept ((PowerKept.refl [] _).withHead _) (by decide) (by decide), ?_, ?_⟩
  · refine hu.counted (by decide) (by decide) ?_
    unfold Counted
    rw [rd_withMgmt, hpost.rd_eq _ (by decide) (by decide) (by decide), ← hcnt]
    exact counted_bump ..
  · refine hu.regsBut (RegsBut.withMgmt _ ?_) (by decide)
    exact ((hnoted.mono (by decide)).bump 1 (by decide)).trans ((regsBut_postPwrResult _ _).mono (by decide))

variable (hcode : pwrCheck s (w == .mgmt) T = 0)
include hcode

theorem runs_pwrCmdGo_quiesces (hcold : anyBeamHot s = false ∨ fld s pgPower Off.PWR_HOLD 0 16 = 0) : Runs (.pwrCmdGo w T) s fun t =>
    Accepted T t ∧ pwrPhase t = 3 ∧ pwrState t = pwrState s ∧ t.pwr.start = s.tt.beats := by
  refine runs_pwrCmdGo hadm hidle hT hen fun u l hu hidle' => ?_
  have hcold' : (!anyBeamHot u || fld u pgPower Off.PWR_HOLD 0 16 == 0) = true := by
    rw [hu.upperKept.anyBeamHot_eq (by rw [hu.pwr_eq]), hu.fld_eq 0 16 (by decide) (by decide)]
    rcases hcold with h | h <;> rw [h]
    · rfl
    · exact Bool.or_true _
  rw [pwrCmd_eq hidle', hu.pwrCheck_eq, if_neg (not_not_intro hcode), holds_cmdHeld, if_pos hcold']
  obtain ⟨hstate, htarget, hphase⟩ := fieldsOf_quiesceBegin (cmdHeld (w == .mgmt) T u)
  have hmgmt : PowerKept [] (quiesceBegin (cmdHeld (w == .mgmt) T u)) (withMgmt l (quiesceBegin (cmdHeld (w == .mgmt) T u))) :=
    (PowerKept.refl [] _).withHead _
  have hacc : Accepted T (quiesceBegin (cmdHeld (w == .mgmt) T u)) :=
    (accepted_cmdHeld hT (w == .mgmt) u).kept htarget (powerKept_quiesceBegin _) (by decide)
  refine ⟨hacc.kept (hmgmt.pwrTarget_eq (by decide)) hmgmt (by decide), (hmgmt.pwrPhase_eq (by decide)).trans hphase, ?_, ?_⟩
  · rw [hmgmt.pwrState_eq (by decide), hstate, pwrState_cmdHeld hT]
    exact hu.fld_eq 0 3 (by decide) (by decide)
  · have hpwr : (withMgmt l (quiesceBegin (cmdHeld (w == .mgmt) T u))).pwr.start = (cmdHeld (w == .mgmt) T u).tt.beats :=
      congrArg PowerSt.start (quiesceBegin_pwr _)
    rw [hpwr, cmdHeld_tt, hu.tt_eq]

theorem runs_pwrCmdGo_holds (hhot : anyBeamHot s = true) (hlimit : fld s pgPower Off.PWR_HOLD 0 16 ≠ 0) : Runs (.pwrCmdGo w T) s fun t =>
    Accepted T t ∧ pwrPhase t = 2 ∧ t.pwr.start = s.tt.beats ∧ Raised pgPower Evt.PWR_HOLD_STARTED t ∧
      Counted pgPower Off.PWR_CNT_HOLDS 1 s t ∧
      RegsBut [pageBase pgPower + Off.PWR_CMD, pageBase pgPower + Off.PWR_STATE, pageBase pgPower + Off.PWR_CNT_HOLDS, evtOf pgPower, hhLost]
        s t := by
  refine runs_pwrCmdGo hadm hidle hT hen fun u l hu hidle' => ?_
  have hhot' : (!anyBeamHot u || fld u pgPower Off.PWR_HOLD 0 16 == 0) = false := by
    rw [hu.upperKept.anyBeamHot_eq (by rw [hu.pwr_eq]), hu.fld_eq 0 16 (by decide) (by decide), hhot, beq_false_of_ne hlimit]
    rfl
  rw [pwrCmd_eq hidle', hu.pwrCheck_eq, if_neg (not_not_intro hcode), holds_cmdHeld, hhot', if_neg Bool.false_ne_true]
  generalize hv : cmdHeld (w == .mgmt) T u = v
  have hshown : PowerKept [Off.PWR_CNT_HOLDS] v (withMgmt l (bump pgPower Off.PWR_CNT_HOLDS 1 (raise pgPower Evt.PWR_HOLD_STARTED v))) :=
    (((PowerKept.refl _ v).raise _ (by decide)).ownBump 1 (by decide) (.head _)).withHead _
  have hacc : Accepted T v := hv ▸ accepted_cmdHeld hT (w == .mgmt) u
  have hphase : pwrPhase v = 2 := hv ▸ (fieldsOf_cmdBegun hT _).2.2
  have hregs := hv ▸ regsBut_cmdHeld (w == Func.mgmt) T u
  refine ⟨hacc.kept (hshown.pwrTarget_eq (by decide)) hshown (by decide), (hshown.pwrPhase_eq (by decide)).trans hphase, ?_, ?_, ?_, ?_⟩
  · have hpwr : (withMgmt l (bump pgPower Off.PWR_CNT_HOLDS 1 (raise pgPower Evt.PWR_HOLD_STARTED v))).pwr = v.pwr :=
      (withMgmt_pwr ..).trans ((bump_pwr ..).trans (raise_pwr ..))
    rw [hpwr, ← hv, cmdHeld_start, hu.tt_eq]
  · unfold Raised
    rw [flag_withMgmt]
    exact (flag_congr (reg_bump_ne 1 (by decide))).trans (flag_raise_same _ _ (by decide) (by decide))
  · have hcnt : rd (raise pgPower Evt.PWR_HOLD_STARTED v) pgPower Off.PWR_CNT_HOLDS = rd u pgPower Off.PWR_CNT_HOLDS :=
      (reg_raise_ne (by decide)).trans (hregs _ (by decide))
    refine hu.counted (by decide) (by decide) ?_
    unfold Counted
    rw [rd_withMgmt, ← hcnt]
    exact counted_bump ..
  · exact hu.regsBut (RegsBut.withMgmt _ (((hregs.mono (by decide)).raise _ (by decide)).bump 1 (by decide))) (by decide)

end

end Sys2Proof.Machine
end

section
/-! # The end of the hold, of quiesce and of the steps of a descent (R131–R133, R141) -/
namespace Sys2Proof.Machine

/-! ## The hold and quiesce end (R131, R132) -/

section
variable {s : State}

theorem runs_holdEnd (hphase : pwrPhase s = 2) (hcold : anyBeamHot s = false) : Runs .holdEnd s fun t =>
    pwrPhase t = 3 ∧ pwrTarget t = pwrTarget s ∧ t.pwr = { s.pwr with start := s.tt.beats } := by
  have e : execHoldEnd s = quiesceBegin s := if_pos (by rw [hphase, hcold]; rfl)
  obtain ⟨-, htarget, h3⟩ := fieldsOf_quiesceBegin s
  exact ⟨_, congrArg Host.Outcome.next e, h3, htarget, quiesceBegin_pwr s⟩

theorem runs_holdExpired (hphase : pwrPhase s = 2) (hhot : anyBeamHot s = true)
    (hlimit : elapsed s s.pwr.start (fld s pgPower Off.PWR_HOLD 0 16 * 1000000) = true) : Runs .holdExpired s fun t =>
      pwrPhase t = 3 ∧ pwrTarget t = pwrTarget s ∧ Raised pgPower Evt.PWR_HOLD_EXPIRED t ∧ Counted pgPower Off.PWR_CNT_HOLD_EXPIRED 1 s t := by
  have e : execHoldExpired s = quiesceBegin (bump pgPower Off.PWR_CNT_HOLD_EXPIRED 1 (raise pgPower Evt.PWR_HOLD_EXPIRED s)) :=
    if_pos (by rw [hphase, hhot, hlimit]; rfl)
  generalize hu : bump pgPower Off.PWR_CNT_HOLD_EXPIRED 1 (raise pgPower Evt.PWR_HOLD_EXPIRED s) = u at e
  have hkept : PowerKept [Off.PWR_CNT_HOLD_EXPIRED] s u := hu ▸ ((PowerKept.refl _ s).raise _ (by decide)).ownBump 1 (by decide) (.head _)
  have hraised : Raised pgPower Evt.PWR_HOLD_EXPIRED u :=
    hu ▸ (flag_congr (reg_bump_ne 1 (by decide))).trans (flag_raise_same _ _ (by decide) (by decide))
  have hcnt : Counted pgPower Off.PWR_CNT_HOLD_EXPIRED 1 s u := by
    have hrd : rd (raise pgPower Evt.PWR_HOLD_EXPIRED s) pgPower Off.PWR_CNT_HOLD_EXPIRED = rd s pgPower Off.PWR_CNT_HOLD_EXPIRED :=
      reg_raise_ne (by decide)
    unfold Counted
    rw [← hu, ← hrd]
    exact counted_bump ..
  obtain ⟨-, htarget, h3⟩ := fieldsOf_quiesceBegin u
  have hquiesce := powerKept_quiesceBegin u
  refine ⟨_, congrArg Host.Outcome.next e, h3, htarget.trans (hkept.pwrTarget_eq (by decide)), hquiesce.raised _ (by decide) hraised, ?_⟩
  unfold Counted
  rw [hquiesce.rd_eq _ (by decide) (by decide) (by decide)]
  exact hcnt

theorem runs_quiesceEnd (hphase : pwrPhase s = 3) (hquiet : quiet s = true) (hbeat : cmdBeat s = false) : Runs .quiesceEnd s fun t =>
    pwrPhase t = 4 ∧ pwrTarget t = pwrTarget s ∧ pwrState t = pwrState s ∧
      (pwrState s ≠ 2 → RegsBut [pageBase pgPower + Off.PWR_STATE] s t) ∧ (pwrState s = 2 → s.au.signed = none → ringLocked t = true) ∧
      (pwrState s = 2 → hhMode s = 1 → flag t pgHh Off.HH_STATUS 2 = true) := by
  have e : execQuiesceEnd s = stepBegin (setPwrPhase 4 s) := if_pos (by rw [hphase, hquiet, hbeat]; rfl)
  have hset : RegsBut [pageBase pgPower + Off.PWR_STATE] s (setPwrPhase 4 s) := (RegsBut.refl _ s).wr _ (.head _)
  have h4 : pwrPhase (setPwrPhase 4 s) = 4 := pwrPhase_setPwrPhase 4 s
  have hstate : pwrState (setPwrPhase 4 s) = pwrState s := pwrState_setPwrPhase 4 s
  have hau : (setPwrPhase 4 s).au = s.au := setFld_au ..
  have hstep := powerKept_stepBegin (setPwrPhase 4 s)
  refine ⟨_, congrArg Host.Outcome.next e, (hstep.pwrPhase_eq (by decide)).trans h4, ?_, (hstep.pwrState_eq (by decide)).trans hstate,
    fun h2 => ?_, fun h2 hsigned => ?_, fun h2 hmode => ?_⟩
  · exact (hstep.pwrTarget_eq (by decide)).trans (pwrTarget_setPwrPhase 4 s)
  · rw [stepBegin_idle (by rw [hstate]; exact h2)]
    exact hset
  · exact ringLocked_stepBegin h4 (hstate.trans h2) (by rw [hau]; exact hsigned)
  · exact history_stepBegin h4 (hstate.trans h2) ((fld_congr (hset _ (by decide))).trans hmode)

theorem runs_quiesceTimeout (hphase : pwrPhase s = 3) (hbusy : quiet s = false)
    (hlimit : s.pwr.start + fld s pgPower Off.PWR_QUIESCE 0 24 ≤ s.tt.beats) : Runs .quiesceTimeout s fun t =>
      PwrDone 9 t ∧ pwrPhase t = 0 ∧ pwrTarget t = pwrState s ∧ pwrState t = pwrState s := by
  have e : execQuiesceTimeout s = settleQueues (fun _ => true) (endPwrCmd 9 s) := if_pos (by rw [hphase, hbusy, decide_eq_true hlimit]; rfl)
  have hset := powerKept_settleQueues (fun _ => true) (endPwrCmd 9 s)
  refine ⟨_, congrArg Host.Outcome.next e, (pwrDone_endPwrCmd (by decide) s).kept hset (by decide) (by decide), ?_, ?_, ?_⟩
  · exact (hset.pwrPhase_eq (by decide)).trans (pwrPhase_endPwrCmd 9 s)
  · exact (hset.pwrTarget_eq (by decide)).trans (pwrTarget_endPwrCmd 9 s)
  · exact (hset.pwrState_eq (by decide)).trans (pwrState_endPwrCmd 9 s)

end

/-! ## Ante is reached (R58, R133) -/

section
variable (s : State)

/-- The beat has stopped, the main supplies fall, and the duty cycle and the restore that is owed are noted. -/
def anteNoted (s : State) : State :=
  let keep := flag s pgPower Off.PWR_ANTE_CFG 0
  let duty := flag s pgPower Off.PWR_ANTE_CFG 1
  { s with
    tt := { s.tt with run := false, realigned := false, locking := false, commits := [] }
    boot := { s.boot with vrMain := false, mainPg := false, vrMem := keep, memPg := keep && s.boot.memPg }
    pwr := { s.pwr with owed := true, dutyOn := duty, dutyWindow := false, dutyHit := false, dutyAt := tnow s } }

/-- Table Time shows that the beat has stopped, and no restore is under way. -/
def anteShown (s : State) : State := setFld pgPower Off.PWR_STATE 9 1 0 (setFlag pgTT Off.TT_STATUS 0 false (anteNoted s))

theorem anteEnter_eq : anteEnter s = regUpdate (detAnte (setCap 44 (anteShown s))) := rfl

theorem powerKept_anteNoted : PowerKept [] s (anteNoted s) := .of_regs rfl rfl

theorem powerKept_anteShown : PowerKept [Off.PWR_STATE] s (anteShown s) :=
  PowerKept.ownFld (PowerKept.setFlag ((powerKept_anteNoted s).mono (by simp)) 0 false (show PageClass.tableTime ≠ .power by decide) (by decide))
    9 1 0 (by decide) (.head _)

/-- What Ante leaves of PWR_STATE's lower fields. -/
theorem fld_anteShown {lo w : Nat} (h : lo + w ≤ 9) : fld (anteShown s) pgPower Off.PWR_STATE lo w = fld s pgPower Off.PWR_STATE lo w := by
  have hshown : PowerKept [] s (setFlag pgTT Off.TT_STATUS 0 false (anteNoted s)) :=
    (powerKept_anteNoted s).setFlag 0 false (show PageClass.tableTime ≠ .power by decide) (by decide)
  exact (fld_setFld_below _ _ (by decide) h).trans (hshown.fld_eq lo w (by decide) (by decide) (by decide))

theorem restoring_anteShown : restoring (anteShown s) = false :=
  beq_eq_false_iff_ne.mpr (by rw [anteShown, fld_setFld_same _ _ _ _ _ (by decide)]; decide)

theorem powerKept_detAnte : PowerKept [] s (detAnte s) := .of_regs rfl rfl

/-- The registers of the power page that change after PWR_STATE as Ante is reached. -/
def anteRegs : List Nat := Off.AON_REG_STATUS :: capRegs

theorem anteEnter_kept : PowerKept anteRegs (anteShown s) (anteEnter s) :=
  (((powerKept_setCap 44 _).mono (by decide)).trans ((powerKept_detAnte _).mono (by simp))).trans ((powerKept_regUpdate _).mono (by decide))

theorem powerKept_anteEnter : PowerKept (Off.PWR_STATE :: anteRegs) s (anteEnter s) :=
  ((powerKept_anteShown s).mono (by decide)).trans ((anteEnter_kept s).mono (by decide))

theorem fld_anteEnter {lo w : Nat} (h : lo + w ≤ 9) : fld (anteEnter s) pgPower Off.PWR_STATE lo w = fld s pgPower Off.PWR_STATE lo w :=
  ((anteEnter_kept s).fld_eq lo w (by decide) (by decide) (by decide)).trans (fld_anteShown s h)

theorem restoring_anteEnter : restoring (anteEnter s) = false :=
  ((anteEnter_kept s).restoring_eq (by decide)).trans (restoring_anteShown s)

theorem anteEnter_run : (anteEnter s).tt.run = false := by
  have hreg : (anteEnter s).tt = (detAnte (setCap 44 (anteShown s))).tt := (keeps_regUpdate (N := 0x22) rfl _ (.refl _ _)).same .tt rfl
  have hcap : (setCap 44 (anteShown s)).tt = (anteShown s).tt := (keeps_setCap (N := 0x10002a) rfl 44 _ (.refl _ _)).same .tt rfl
  have hshown : (anteShown s).tt = (anteNoted s).tt := (setFld_tt ..).trans (setFlag_tt ..)
  rw [hreg, show (detAnte (setCap 44 (anteShown s))).tt = (setCap 44 (anteShown s)).tt from rfl, hcap, hshown]
  rfl

theorem domsLatched_anteEnter : domsLatched (anteEnter s) = domsLatched s := by
  have hshown : domsLatched (anteShown s) = domsLatched (anteNoted s) := domsLatched_of_pwr ((setFld_pwr ..).trans (setFlag_pwr ..))
  rw [anteEnter_eq, domsLatched_regUpdate, show domsLatched (detAnte (setCap 44 (anteShown s))) = domsLatched (setCap 44 (anteShown s)) from rfl,
    domsLatched_setCap, hshown]
  rfl

/-! ## The end of a step of a descent (R133, R144) -/

/-- A step of a descent has ended in a state: at Ante the beat stops, and the latency of Ante is reported. -/
def descended (n : Nat) (s : State) : State := if n = 1 then emit (.ltr 2100) (anteEnter (stepDone n s)) else stepDone n s

theorem descended_kept (n : Nat) : PowerKept (Off.PWR_STATE :: anteRegs) (stepDone n s) (descended n s) :=
  .ite ((powerKept_anteEnter _).emit _) (.refl _ _)

theorem fld_descended (n : Nat) {lo w : Nat} (h : lo + w ≤ 9) :
    fld (descended n s) pgPower Off.PWR_STATE lo w = fld (stepDone n s) pgPower Off.PWR_STATE lo w := by
  unfold descended
  split
  · exact (((PowerKept.refl [] (anteEnter (stepDone n s))).emit _).fld_eq lo w (by decide) (by decide) (by decide)).trans (fld_anteEnter _ h)
  · rfl

theorem domsLatched_descended (n : Nat) : domsLatched (descended n s) = domsLatched s := by
  refine domsLatched_ite s ?_ (domsLatched_stepDone s n)
  exact (domsLatched_anteEnter (stepDone n s)).trans (domsLatched_stepDone s n)

/-- What has been told, and stopped, at Ante. -/
theorem descended_ante : (descended 1 s).tt.run = false ∧ restoring (descended 1 s) = false ∧ Out.ltr 2100 ∈ (descended 1 s).out := by
  refine ⟨anteEnter_run _, ?_, List.mem_append_right _ (.head _)⟩
  exact (((PowerKept.refl [] (anteEnter (stepDone 1 s))).emit _).restoring_eq (by decide)).trans (restoring_anteEnter _)

/-- The end of a descent, by the wake target that has been latched. -/
theorem descendEnd_cases :
    descendEnd s = endPwrCmd 0 s ∨ ∃ T, s.pwr.latched = some T ∧ descendEnd s = startClimb T (endPwrCmd 0 s) := by
  unfold descendEnd
  dsimp only
  split
  · next T hT =>
    split
    · exact .inr ⟨T, hT, rfl⟩
    · exact .inl rfl
  · exact .inl rfl

theorem descendEnd_of_not_latched {s : State} (h : s.pwr.latched = none) : descendEnd s = endPwrCmd 0 s := by
  unfold descendEnd
  rw [h]

/-- The registers of the power page that the end of a descent changes. -/
theorem descendEnd_kept : PowerKept [Off.PWR_STATE, Off.AON_REG_STATUS, Off.PWR_RESULT, Off.PWR_CMD] s (descendEnd s) := by
  have hend : PowerKept [Off.PWR_STATE, Off.AON_REG_STATUS, Off.PWR_RESULT, Off.PWR_CMD] s (endPwrCmd 0 s) :=
    (powerKept_endPwrCmd 0 s).mono (by decide)
  rcases descendEnd_cases s with e | ⟨T, -, e⟩ <;> rw [e]
  · exact hend
  · exact hend.trans ((powerKept_startClimb T _).mono (by decide))

theorem pwrState_descendEnd : pwrState (descendEnd s) = pwrState s := by
  rcases descendEnd_cases s with e | ⟨T, -, e⟩ <;> rw [e]
  · exact pwrState_endPwrCmd 0 s
  · exact (pwrState_startClimb T _).trans (pwrState_endPwrCmd 0 s)

theorem descendEnd_run : (descendEnd s).tt.run = s.tt.run := by
  rcases descendEnd_cases s with e | ⟨T, -, e⟩ <;> rw [e]
  · rw [endPwrCmd_tt]
  · rw [startClimb_run, endPwrCmd_tt]

theorem restoring_descendEnd {s : State} (h : pwrState s = 1) : restoring (descendEnd s) = restoring s := by
  rcases descendEnd_cases s with e | ⟨T, -, e⟩ <;> rw [e]
  · exact restoring_endPwrCmd 0 s
  · exact (restoring_startClimb ((pwrState_endPwrCmd 0 s).trans h)).trans (restoring_endPwrCmd 0 s)

theorem descendEnd_out : (descendEnd s).out = s.out := (keeps_descendEnd (N := 0x3e) rfl s (.refl _ s)).same .out rfl

end

/-- A step of a descent that has ended, and did not lead to Fold. -/
def descentGoesOn (n target : Nat) (u : State) : State := if n = target then descendEnd u else stepBegin u

theorem execDescendStepEnd_eq {s : State} {n : Nat} (hphase : pwrPhase s = 4) (hn : pwrState s = n + 1) (h0 : n ≠ 0)
    (htt : n = 1 → s.tt.pend = [] ∧ s.tt.commits = []) (hdoms : domainsAt s (domLevel s n) = true) :
    execDescendStepEnd s = descentGoesOn n (pwrTarget s) (descended n s) := by
  have hnext : pwrState s - 1 = n := by omega
  have hguard : ¬((n = 1 ∧ (!(s.tt.pend.isEmpty && s.tt.commits.isEmpty)) = true) ∨ domainsAt s (domLevel s n) = false) := by
    rintro (⟨h1, hw⟩ | h)
    · rw [(htt h1).1, (htt h1).2] at hw
      exact absurd hw (by decide)
    · exact Bool.false_ne_true (h.symm.trans hdoms)
  unfold execDescendStepEnd
  rw [if_neg (not_not_intro hphase)]
  dsimp only
  rw [hnext, if_neg hguard, if_neg h0]
  rfl

section
variable {s : State} {n : Nat} (hn : pwrState s = n + 1)
include hn

theorem pwrState_descended : pwrState (descended n s) = n :=
  (fld_descended s n (by decide)).trans (pwrState_stepDone (by have := pwrState_lt s; omega) s)

/-- What stands after a step, whether the descent has ended or goes on. -/
theorem descentGoesOn_stands (target : Nat) :
    pwrState (descentGoesOn n target (descended n s)) = n ∧ Raised pgPower Evt.PWR_STATE_CHANGED (descentGoesOn n target (descended n s)) := by
  have hstate := pwrState_descended hn
  have hraised : Raised pgPower Evt.PWR_STATE_CHANGED (descended n s) := (descended_kept s n).raised _ (by decide) (raised_stepDone s n)
  unfold descentGoesOn
  split
  · exact ⟨(pwrState_descendEnd _).trans hstate, (descendEnd_kept _).raised _ (by decide) hraised⟩
  · exact ⟨((powerKept_stepBegin _).pwrState_eq (by decide)).trans hstate, (powerKept_stepBegin _).raised _ (by decide) hraised⟩

/-- Ante as it is reached, whether the descent has ended or goes on to Fold. -/
theorem descentGoesOn_ante (h1 : n = 1) (target : Nat) :
    (descentGoesOn n target (descended n s)).tt.run = false ∧ restoring (descentGoesOn n target (descended n s)) = false ∧
      Out.ltr 2100 ∈ (descentGoesOn n target (descended n s)).out := by
  have hstate := pwrState_descended hn
  subst h1
  obtain ⟨hrun, hrestoring, hout⟩ := descended_ante s
  unfold descentGoesOn
  split
  · exact ⟨(descendEnd_run _).trans hrun, (restoring_descendEnd hstate).trans hrestoring, (descendEnd_out _).symm ▸ hout⟩
  · rw [stepBegin_idle (by rw [hstate]; decide)]
    exact ⟨hrun, hrestoring, hout⟩

end

/-- With no wake target latched a step leaves the domains where it has brought them. -/
theorem descentGoesOn_dom {s : State} (n target : Nat) (hlatched : s.pwr.latched = none) :
    (descentGoesOn n target (descended n s)).pwr.dom = s.pwr.dom := by
  have hdl := domsLatched_descended s n
  have hnone : (descended n s).pwr.latched = none := (congrArg Prod.snd hdl).trans hlatched
  unfold descentGoesOn
  split
  · rw [descendEnd_of_not_latched hnone, endPwrCmd_pwr]
    exact congrArg Prod.fst hdl
  · have hstep : (stepBegin (descended n s)).pwr = (descended n s).pwr := (keeps_stepBegin (N := 0x180d0a) rfl _ (.refl _ _)).same .pwr rfl
    rw [hstep]
    exact congrArg Prod.fst hdl

/-- A descent that has reached its target with no wake target latched ends the command. -/
theorem descentGoesOn_ends {s : State} (n : Nat) (hlatched : s.pwr.latched = none) :
    PwrDone 0 (descentGoesOn n n (descended n s)) ∧ pwrPhase (descentGoesOn n n (descended n s)) = 0 := by
  have hnone : (descended n s).pwr.latched = none := (congrArg Prod.snd (domsLatched_descended s n)).trans hlatched
  rw [descentGoesOn, if_pos rfl, descendEnd_of_not_latched hnone]
  exact ⟨pwrDone_endPwrCmd (by decide) _, pwrPhase_endPwrCmd 0 _⟩

/-- A descent that has not reached its target goes on. -/
theorem pwrPhase_descentGoesOn {s : State} {n target : Nat} (h : target ≠ n) : pwrPhase (descentGoesOn n target (descended n s)) = pwrPhase s := by
  rw [descentGoesOn, if_neg h.symm, (powerKept_stepBegin _).pwrPhase_eq (by decide)]
  exact (fld_descended s n (by decide)).trans (pwrPhase_stepDone s n)

theorem runs_descendStepEnd {s : State} (hphase : pwrPhase s = 4) (h2 : 2 ≤ pwrState s)
    (htt : pwrState s = 2 → s.tt.pend = [] ∧ s.tt.commits = []) (hdoms : domainsAt s (domLevel s (pwrState s - 1)) = true) :
    Runs .descendStepEnd s fun t =>
      pwrState t = pwrState s - 1 ∧ Raised pgPower Evt.PWR_STATE_CHANGED t ∧
        (s.pwr.latched = none → ∀ d, d < 15 → t.pwr.dom.getD d 0 = domLevel s (pwrState s - 1) d) ∧
        (pwrState s = 2 → t.tt.run = false ∧ restoring t = false ∧ Out.ltr 2100 ∈ t.out) ∧
        (pwrTarget s = pwrState s - 1 → s.pwr.latched = none → PwrDone 0 t ∧ pwrPhase t = 0) ∧
        (pwrTarget s ≠ pwrState s - 1 → pwrPhase t = 4) := by
  generalize hpred : pwrState s - 1 = n at hdoms
  have hn : pwrState s = n + 1 := by omega
  have e := execDescendStepEnd_eq hphase hn (by omega) (fun h1 => htt (by omega)) hdoms
  obtain ⟨hstate, hraised⟩ := descentGoesOn_stands hn (pwrTarget s)
  refine ⟨_, congrArg Host.Outcome.next e, hstate, hraised, fun hl d hd => ?_, fun hs => descentGoesOn_ante hn (by omega) _, fun ht hl => ?_,
    fun ht => (pwrPhase_descentGoesOn ht).trans hphase⟩
  · rw [descentGoesOn_dom n _ hl]
    exact domainsAt_getD hdoms hd
  · rw [ht]
    exact descentGoesOn_ends n hl

/-! ## Fold is entered (R141) -/

theorem execDescendStepEnd_fold {s : State} (hphase : pwrPhase s = 4) (hstate : pwrState s = 1) (hany : s.pwr.anyLatched = false)
    (hdoms : domainsAt s (domLevel s 0) = true) : execDescendStepEnd s = foldEnter s := by
  have hguard : ¬((0 = 1 ∧ (!(s.tt.pend.isEmpty && s.tt.commits.isEmpty)) = true) ∨ domainsAt s (domLevel s 0) = false) := by
    rintro (⟨h1, -⟩ | h)
    · exact absurd h1 (by decide)
    · exact Bool.false_ne_true (h.symm.trans hdoms)
  unfold execDescendStepEnd
  rw [if_neg (not_not_intro hphase)]
  dsimp only
  rw [hstate, Nat.sub_self, if_neg hguard, if_pos rfl, hany, if_neg Bool.false_ne_true]

/-- The keeper's state with every other domain Off and both enables low. -/
def folded (s : State) : State :=
  let t := keeperOnly s
  { t with pwr := { t.pwr with dom := 2 :: List.replicate 14 0 }
           boot := { t.boot with phase := .up, vrMain := false, vrMem := false } }

theorem foldEnter_eq (s : State) : foldEnter s = wr pgPower Off.PWR_STATE 0 (folded s) := rfl

theorem folded_decks (s : State) : (folded s).boot.decks = [] := congrArg BootSt.decks (keeperOnly_boot s)

theorem runs_descendStepEnd_fold {s : State} (hphase : pwrPhase s = 4) (hstate : pwrState s = 1) (hany : s.pwr.anyLatched = false)
    (hdoms : domainsAt s (domLevel s 0) = true) : Runs .descendStepEnd s fun t =>
      pwrState t = 0 ∧ t.pwr.dom = 2 :: List.replicate 14 0 ∧ t.boot.vrMain = false ∧ t.boot.vrMem = false ∧ t.tt = s.tt ∧
        t.part = s.part ∧ t.hbm = [] ∧ t.queues = [] ∧ t.host.ctxs = [] ∧ t.boot.decks = [] := by
  refine ⟨_, congrArg Host.Outcome.next ((execDescendStepEnd_fold hphase hstate hany hdoms).trans (foldEnter_eq s)), ?_⟩
  dsimp only
  rw [wr_pwr, wr_boot, wr_tt, wr_part, wr_hbm, wr_queues, wr_host]
  refine ⟨?_, rfl, rfl, rfl, keeperOnly_tt s, keeperOnly_part s, keeperOnly_hbm s, keeperOnly_queues s, keeperOnly_ctxs s, folded_decks s⟩
  rw [pwrState, fld, rd_wr_same]
  rfl

/-- Settles O21: what a captured write of PWR_CMD gives by its check and the beams' heat, what the phases' ends give, and a step of a descent by
the state it leads to. -/
theorem powerCommands : Obligations.PowerCommands := by
  unfold Obligations.PowerCommands
  exact ⟨fun s w T h hT hcode hcold => runs_pwrCmdGo_quiesces h.1 h.2.1 hT h.2.2 hcode hcold,
    fun s w T h hT hcode hhot hlimit => runs_pwrCmdGo_holds h.1 h.2.1 hT h.2.2 hcode hhot hlimit,
    fun s w T h hT hcode => runs_pwrCmdGo_refused h.1 h.2.1 hT h.2.2 hcode,
    fun s w T hadm hidle hen hT => runs_pwrCmdGo_disabled hadm hidle hT hen,
    fun s hphase hcold => runs_holdEnd hphase hcold, fun s hphase hhot hlimit => runs_holdExpired hphase hhot hlimit,
    fun s hphase hquiet hbeat => runs_quiesceEnd hphase hquiet hbeat, fun s hphase hbusy hlimit => runs_quiesceTimeout hphase hbusy hlimit,
    fun s hphase h2 _ htt hdoms => runs_descendStepEnd hphase h2 htt hdoms,
    fun s hphase hstate hany hdoms => runs_descendStepEnd_fold hphase hstate hany hdoms⟩

end Sys2Proof.Machine
end

section
/-! # Duty windows, the regulator's mode and brown-out (R139, R146–R148) -/
namespace Sys2Proof.Machine

/-! ## Duty windows (R139, R140) -/

theorem regUpdate_pwr (s : State) : ∃ x y, (regUpdate s).pwr = { s.pwr with regSwitch := x, heldLoad := y } := by
  unfold regUpdate
  split
  · exact ⟨_, _, rfl⟩
  · exact ⟨_, _, setFlag_pwr ..⟩

section
variable {s : State}

theorem runs_dutyWindowStart (hstate : pwrState s = 1) (hon : s.pwr.dutyOn = true) (hwin : s.pwr.dutyWindow = false)
    (hhit : s.pwr.dutyHit = false) (hdue : dutyDue s = true) : Runs .dutyWindowStart s fun t =>
      t.pwr = { s.pwr with dutyWindow := true, dutyAt := tnow s } ∧ Counted pgPower Off.PWR_CNT_DUTY_WINDOWS 1 s t ∧
        RegsBut [pageBase pgPower + Off.PWR_CNT_DUTY_WINDOWS] s t := by
  have e : execDutyWindowStart s =
      bump pgPower Off.PWR_CNT_DUTY_WINDOWS 1 { s with pwr := { s.pwr with dutyWindow := true, dutyAt := tnow s } } :=
    if_pos (by rw [hstate, hon, hwin, hhit, hdue]; rfl)
  exact ⟨_, congrArg Host.Outcome.next e, bump_pwr .., counted_bump .., RegsBut.bump (.of_regs rfl rfl) 1 (.head _)⟩

theorem runs_dutyWindowEnd (hwin : s.pwr.dutyWindow = true) (hend : s.pwr.dutyAt + dutyTicks s 21 4 + dutyTicks s 11 10 ≤ tnow s) :
    Runs .dutyWindowEnd s fun t => t.pwr.dutyWindow = false ∧ RegsBut [pageBase pgPower + Off.AON_REG_STATUS] s t := by
  have e : execDutyWindowEnd s = regUpdate { s with pwr := { s.pwr with dutyWindow := false } } :=
    if_pos (by rw [hwin, decide_eq_true hend]; rfl)
  obtain ⟨x, y, hpwr⟩ := regUpdate_pwr { s with pwr := { s.pwr with dutyWindow := false } }
  refine ⟨_, congrArg Host.Outcome.next e, by rw [hpwr], ?_⟩
  exact RegsBut.trans (t := { s with pwr := { s.pwr with dutyWindow := false } }) (.of_regs rfl rfl) (regsBut_regUpdate _ (.head _))

theorem exec_dutyWindowEnd_early (h : tnow s < s.pwr.dutyAt + dutyTicks s 21 4 + dutyTicks s 11 10) : exec .dutyWindowEnd s = .next s := by
  have e : execDutyWindowEnd s = s := by
    refine if_neg fun hw => ?_
    rw [Bool.and_eq_true, decide_eq_true_eq] at hw
    omega
  exact congrArg Host.Outcome.next e

end

/-! ## The regulator's mode (R146, R147) -/

/-- The mode that the regulator is to be in rests on its own setting, on the power state and on what listens. -/
theorem regWant_eq {l : List Nat} {s t : State} (h : UpperKept s t) (k : PowerKept l s t) (hm : Off.AON_REG_MANUAL ∉ l) (hs : Off.PWR_STATE ∉ l)
    (hon : t.pwr.dutyOn = s.pwr.dutyOn) (hhit : t.pwr.dutyHit = s.pwr.dutyHit) : regWant t = regWant s := by
  have hlisten : (fun c => channelOn t 0 c (rd t (pgAin 0) Off.AIN_PDM_EN)) = fun c => channelOn s 0 c (rd s (pgAin 0) Off.AIN_PDM_EN) :=
    funext fun c => by rw [h.channelOn_eq, h.rd_ain]
  have hbeams : (fun k => beamOn t 0 k) = fun k => beamOn s 0 k := funext (h.beamOn_eq 0)
  have hring : fld t pgRing Off.RING_CFG 0 6 = fld s pgRing Off.RING_CFG 0 6 := fld_congr (h.rd_ring _)
  unfold regWant
  rw [k.flag_eq 0 (by decide) (by decide) hm, k.flag_eq 1 (by decide) (by decide) hm, k.pwrState_eq hs, k.pwrPhase_eq hs, hon, hhit, hlisten,
    hbeams, hring]

/-- A switch of the regulator changes one bit of AON_REG_STATUS. -/
theorem flag_regUpdate {s : State} {b : Nat} (h : b ≠ 1) :
    flag (regUpdate s) pgPower Off.AON_REG_STATUS b = flag s pgPower Off.AON_REG_STATUS b := by
  unfold regUpdate
  split
  · rfl
  · exact flag_setFlag_ne _ true (by decide) h

/-- The regulator has taken a mode, and the loads that waited for it go on. -/
def regTaken (hp : Bool) (s : State) : State :=
  let s := if hp && pwrState s == 1 && pwrPhase s == 1 then railsOn s else s
  { s with pwr := { s.pwr with regSwitch := none, heldLoad := false } }

/-- The mode shows. -/
def regShown (hp : Bool) (s : State) : State :=
  regTaken hp s |> setFlag pgPower Off.AON_REG_STATUS 0 hp |> setFlag pgPower Off.AON_REG_STATUS 1 false

section
variable (hp : Bool) (s : State)

theorem regTaken_rest : ∃ b, regTaken hp s = { s with boot := b, pwr := { s.pwr with regSwitch := none, heldLoad := false } } := by
  unfold regTaken
  dsimp only
  split
  · exact ⟨_, rfl⟩
  · exact ⟨s.boot, rfl⟩

theorem regTaken_boot {hp : Bool} {s : State} (h : hp = true) (hstate : pwrState s = 1) (hphase : pwrPhase s = 1) :
    (regTaken hp s).boot = { s.boot with vrMain := true, vrMem := true } := by
  unfold regTaken
  rw [h, hstate, hphase]
  rfl

theorem regsBut_regTaken (l : List Nat) : RegsBut l s (regTaken hp s) := by
  obtain ⟨b, e⟩ := regTaken_rest hp s
  rw [e]
  exact .of_regs rfl rfl

theorem regsBut_regShown : RegsBut [pageBase pgPower + Off.AON_REG_STATUS] s (regShown hp s) :=
  ((regsBut_regTaken hp s _).setFlag 0 hp (.head _)).setFlag 1 false (.head _)

theorem powerKept_regShown : PowerKept [Off.AON_REG_STATUS] s (regShown hp s) := by
  have htaken : PowerKept [Off.AON_REG_STATUS] s (regTaken hp s) := by
    obtain ⟨b, e⟩ := regTaken_rest hp s
    rw [e]
    exact .of_regs rfl rfl
  exact (htaken.ownFlag 0 hp (by decide) (.head _)).ownFlag 1 false (by decide) (.head _)

theorem regShown_pwr : (regShown hp s).pwr = { s.pwr with regSwitch := none, heldLoad := false } := by
  obtain ⟨b, e⟩ := regTaken_rest hp s
  unfold regShown
  rw [setFlag_pwr, setFlag_pwr, e]

theorem flags_regShown : flag (regShown hp s) pgPower Off.AON_REG_STATUS 0 = hp ∧ flag (regShown hp s) pgPower Off.AON_REG_STATUS 1 = false :=
  ⟨(flag_setFlag_ne _ false (by decide) (by decide)).trans (flag_setFlag_same _ _ _ _ (by decide)), flag_setFlag_same _ _ _ _ (by decide)⟩

theorem regWant_regShown : regWant (regShown hp s) = regWant s :=
  regWant_eq ((regsBut_regShown hp s).upperKept (by decide)) (powerKept_regShown hp s) (by decide) (by decide)
    (by rw [regShown_pwr]) (by rw [regShown_pwr])

theorem regUpdate_boot : (regUpdate s).boot = s.boot := (keeps_regUpdate (N := 0x22) rfl s (.refl _ s)).same .boot rfl

/-- A regulator that stands in the mode it is to be in stays. -/
theorem regUpdate_stays {s : State} (h : regWant s = flag s pgPower Off.AON_REG_STATUS 0) : regUpdate s = s := by
  unfold regUpdate
  rw [h, decide_eq_true rfl, Bool.or_true, if_pos rfl]

/-- A regulator that does not switch and does not stand in the mode it is to be in starts to switch. -/
theorem regUpdate_switches {s : State} (hd : domOn s 1 = true) (hsw : s.pwr.regSwitch = none)
    (h : regWant s ≠ flag s pgPower Off.AON_REG_STATUS 0) : regUpdate s = regSwitchTo (regWant s) s := by
  unfold regUpdate
  rw [hd, hsw, decide_eq_false h]
  rfl

theorem runs_regulatorModeSwitched {s : State} {hp : Bool} (hd : domOn s 1 = true) (hsw : s.pwr.regSwitch = some hp) :
    Runs .regulatorModeSwitched s fun t =>
      flag t pgPower Off.AON_REG_STATUS 0 = hp ∧ RegsBut [pageBase pgPower + Off.AON_REG_STATUS] s t ∧
        (hp = true → pwrState s = 1 → pwrPhase s = 1 → t.boot.vrMain = true ∧ t.boot.vrMem = true) ∧
        (regWant s = hp → t.pwr = { s.pwr with regSwitch := none, heldLoad := false } ∧ flag t pgPower Off.AON_REG_STATUS 1 = false) ∧
        (regWant s ≠ hp → t.pwr.regSwitch = some (regWant s) ∧ flag t pgPower Off.AON_REG_STATUS 1 = true) := by
  have e : execRegulatorModeSwitched s = regUpdate (regShown hp s) := by
    unfold execRegulatorModeSwitched
    rw [hsw]
    rfl
  obtain ⟨hmode, hbit⟩ := flags_regShown hp s
  have hwant := regWant_regShown hp s
  have hpwr := regShown_pwr hp s
  have hd' : domOn (regShown hp s) 1 = true := by unfold domOn; rw [hpwr]; exact hd
  refine ⟨_, congrArg Host.Outcome.next e, (flag_regUpdate (by decide)).trans hmode,
    (regsBut_regShown hp s).trans (regsBut_regUpdate _ (.head _)), fun h hstate hphase => ?_, fun h => ?_, fun h => ?_⟩
  · have hboot : (regShown hp s).boot = (regTaken hp s).boot := (setFlag_boot ..).trans (setFlag_boot ..)
    rw [regUpdate_boot, hboot, regTaken_boot h hstate hphase]
    exact ⟨rfl, rfl⟩
  · rw [regUpdate_stays (by rw [hwant, hmode, h])]
    exact ⟨hpwr, hbit⟩
  · rw [regUpdate_switches hd' (by rw [hpwr]) (by rw [hwant, hmode]; exact h), hwant]
    exact ⟨congrArg PowerSt.regSwitch (setFlag_pwr ..), flag_setFlag_same _ _ _ _ (by decide)⟩

end

end Sys2Proof.Machine
end

section
/-! # A brown-out of the always-on domain (R148) -/
namespace Sys2Proof.Machine

/-! ## What a wake event leaves of the upper pages and of the regulator's mode -/

/-- Every register from 0x100000 on is as it was, and of AON_REG_STATUS every bit but SWITCHING. -/
structure ModeKept (s t : State) : Prop where
  upper : UpperKept s t
  mode : ∀ b, b ≠ 1 → flag t pgPower Off.AON_REG_STATUS b = flag s pgPower Off.AON_REG_STATUS b

namespace ModeKept
variable {s t u : State}

theorem refl (s : State) : ModeKept s s := ⟨fun _ _ => rfl, fun _ _ => rfl⟩

theorem trans (h : ModeKept s t) (h' : ModeKept t u) : ModeKept s u :=
  ⟨fun a ha => (h'.upper a ha).trans (h.upper a ha), fun b hb => (h'.mode b hb).trans (h.mode b hb)⟩

theorem of_regs (hp : t.part = s.part) (hr : t.regs = s.regs) : ModeKept s t :=
  ⟨fun a _ => reg_of_regs hp hr a, fun _ _ => flag_congr (reg_of_regs hp hr _)⟩

/-- A change of listed registers, all of them below the upper pages and none of them AON_REG_STATUS. -/
theorem of_regsBut {l : List Nat} (h : RegsBut l s t) (hl : ∀ a ∈ l, a < 0x100000) (hm : pageBase pgPower + Off.AON_REG_STATUS ∉ l) :
    ModeKept s t := ⟨h.upperKept hl, fun _ _ => flag_congr (h _ hm)⟩

theorem ite {c : Prop} [Decidable c] (ht : ModeKept s t) (hu : ModeKept s u) : ModeKept s (if c then t else u) := by
  split
  · exact ht
  · exact hu

theorem withPwr (h : ModeKept s t) (x : PowerSt) : ModeKept s { t with pwr := x } := h.trans (.of_regs rfl rfl)
theorem withTt (h : ModeKept s t) (x : TimeSt) : ModeKept s { t with tt := x } := h.trans (.of_regs rfl rfl)
theorem withBoot (h : ModeKept s t) (x : BootSt) : ModeKept s { t with boot := x } := h.trans (.of_regs rfl rfl)

end ModeKept

section
variable (T : Nat) (s : State)

theorem modeKept_regSwitchTo (hp : Bool) : ModeKept s (regSwitchTo hp s) := by
  have hpwr : RegsBut [pageBase pgPower + Off.AON_REG_STATUS] s
      { s with pwr := { s.pwr with regSwitch := some hp, heldLoad := s.pwr.heldLoad || hp } } :=
    .of_regs rfl rfl
  have hregs : RegsBut [pageBase pgPower + Off.AON_REG_STATUS] s (regSwitchTo hp s) := hpwr.setFlag 1 true (.head _)
  exact ⟨hregs.upperKept (by decide), fun _ hb => flag_setFlag_ne _ true (by decide) hb⟩

/-- A write of a register of the power page other than AON_REG_STATUS. -/
theorem ModeKept.wr {s t : State} (h : ModeKept s t) {off : Nat} (v : Word) (ho : off < 0x1000) (he : Off.AON_REG_STATUS ≠ off) :
    ModeKept s (wr pgPower off v t) := by
  refine h.trans ⟨fun a ha => reg_wr_ne v ?_, fun _ _ => flag_congr (reg_wr_ne v (addr_ne (by decide) ho he))⟩
  have hpower : pageBase pgPower = 0x2000 := rfl
  omega

theorem ModeKept.raise {s t : State} (h : ModeKept s t) (b : Nat) : ModeKept s (raise pgPower b t) := by
  refine h.trans ⟨fun a ha => reg_raise_ne ?_, fun _ _ => flag_congr (reg_raise_ne (by decide))⟩
  have hevt : pageBase pgPower + Off.EVT_RAW = 0x2010 := rfl
  omega

theorem ModeKept.bump {s t : State} (h : ModeKept s t) {off : Nat} (k : Nat) (ho : off < 0x1000) (he : Off.AON_REG_STATUS ≠ off) :
    ModeKept s (bump pgPower off k t) := (h.wr _ ho he).trans (.of_regs rfl rfl)

theorem modeKept_climbSet : ModeKept s (climbSet T s) :=
  ModeKept.withPwr (t := climbTo T s) (((ModeKept.refl s).wr _ (by decide) (by decide)).wr _ (by decide) (by decide)) _

theorem modeKept_anteClimb : ModeKept s (anteClimb T s) := by
  have hlocks : ModeKept s (pllLocks (climbSet T s)) := (modeKept_climbSet T s).withTt _
  exact .ite (hlocks.withBoot _) (hlocks.trans (modeKept_regSwitchTo _ true))

theorem modeKept_startClimb : ModeKept s (startClimb T s) := by
  have hset := modeKept_climbSet T s
  rcases startClimb_cases T s with ⟨-, e⟩ | ⟨-, -, e | e⟩ | ⟨-, -, e⟩ <;> rw [e]
  · exact modeKept_anteClimb T s
  · exact ModeKept.wr (hset.withPwr _) _ (by decide) (by decide)
  · exact (hset.wr _ (by decide) (by decide)).wr _ (by decide) (by decide)
  · exact .ite (hset.withPwr _) hset

theorem modeKept_climbUp : ModeKept s (climbUp T s) := .ite (modeKept_startClimb T s) (.refl s)

theorem modeKept_endPwrCmd (code : Nat) : ModeKept s (endPwrCmd code s) :=
  (((((ModeKept.refl s).wr _ (by decide) (by decide)).wr _ (by decide) (by decide)).raise _).wr _ (by decide) (by decide)).wr _
    (by decide) (by decide)

theorem modeKept_wakeActs : ModeKept s (wakeActs T s) := by
  rcases wakeActs_cases T s with ⟨-, e⟩ | ⟨-, e | e | ⟨x, e⟩ | e⟩ <;> rw [e]
  · exact modeKept_climbUp T s
  · exact (modeKept_endPwrCmd s 8).trans (modeKept_climbUp T _)
  · exact .refl s
  · exact (ModeKept.refl s).withPwr _
  · exact (ModeKept.refl s).wr _ (by decide) (by decide)

theorem modeKept_wakeRecord (idx : Nat) : ModeKept s (wakeRecord idx s) := by
  have hkeep : ModeKept s (wakeKeep s) := .ite (.refl s) ((ModeKept.refl s).withPwr _)
  have hnoted : ModeKept s (wakeNoted idx s) :=
    ((hkeep.wr _ (by decide) (by decide)).wr _ (by decide) (by decide)).wr _ (by decide) (by decide)
  rw [wakeRecord_eq]
  exact .ite ((hnoted.bump 1 (by decide) (by decide)).raise _) hnoted

/-- A wake event with no command in its beat. -/
theorem modeKept_wakeEvent (idx : Nat) {s : State} (h : s.pwr.cmd = none) : ModeKept s (wakeEvent idx s) := by
  unfold wakeEvent
  rw [h]
  exact .ite ((modeKept_wakeRecord s idx).trans (modeKept_wakeActs _ _)) (.refl s)

end

/-! ## Pages that return to reset (R91) -/

/-- What a list holds under a key, of the entries whose keys meet a test. -/
theorem sget_filter {α : Type} (d : α) (f : Nat → Bool) (l : List (Nat × α)) (a : Nat) :
    sget d (l.filter fun e => f e.1) a = if f a then sget d l a else d := by
  induction l with
  | nil => simp [sget]
  | cons e r ih =>
    obtain ⟨k, v⟩ := e
    by_cases hk : f k = true <;> by_cases ha : a = k <;> simp_all [sget]

/-- Does a page that returns to reset leave the register at an address? -/
def clearLeaves (p : Page) (keep : Nat → Bool) (a : Nat) : Bool :=
  !(decide (pageBase p ≤ a) && decide (a < pageBase p + pageSpan p)) || keep (a - pageBase p)

theorem reg_clearPage (p : Page) (keep : Nat → Bool) (s : State) (a : Nat) :
    reg (clearPage p keep s) a = if clearLeaves p keep a then reg s a else resetVal s.part a :=
  sget_filter _ (clearLeaves p keep) s.regs a

/-- A page that returns to reset leaves the registers of the other pages. -/
theorem reg_clearPage_outside {p : Page} {a : Nat} (h : a < pageBase p ∨ pageBase p + pageSpan p ≤ a) (keep : Nat → Bool) (s : State) :
    reg (clearPage p keep s) a = reg s a := by
  rw [reg_clearPage, if_pos]
  rcases h with h | h
  · simp [clearLeaves, Nat.not_le.mpr h]
  · simp [clearLeaves, Nat.not_lt.mpr h]

/-- A page that returns to reset leaves the registers that are excepted. -/
theorem rd_clearPage_kept {keep : Nat → Bool} {off : Nat} (h : keep off = true) (p : Page) (s : State) :
    rd (clearPage p keep s) p off = rd s p off := by
  unfold rd
  rw [reg_clearPage, if_pos]
  simp [clearLeaves, h]

/-- The other registers of a page that returns to reset read their reset values. -/
theorem rd_clearPage_reset {p : Page} {keep : Nat → Bool} {off : Nat} (h : off < pageSpan p) (hk : keep off = false) (s : State) :
    rd (clearPage p keep s) p off = resetVal s.part (pageBase p + off) := by
  unfold rd
  rw [reg_clearPage, if_neg]
  simp [clearLeaves, h, hk]

theorem upperKept_clearPower (keep : Nat → Bool) (s : State) : UpperKept s (clearPage pgPower keep s) :=
  fun _ ha => reg_clearPage_outside (.inr (Nat.le_trans (show pageBase pgPower + pageSpan pgPower ≤ 0x100000 by decide) ha)) keep s

theorem powerKept_clearPage {p : Page} (h : 0x3000 ≤ pageBase p) (keep : Nat → Bool) (s : State) : PowerKept [] s (clearPage p keep s) := by
  have hrd (off : Nat) (ho : off < 0x1000) : reg (clearPage p keep s) (pageBase pgPower + off) = reg s (pageBase pgPower + off) := by
    have hpower : pageBase pgPower = 0x2000 := rfl
    exact reg_clearPage_outside (.inl (by omega)) keep s
  exact ⟨fun off ho _ _ => hrd off ho, fun _ _ hb => (flag_congr (hrd _ (by decide))).trans hb⟩

/-! ## The pages of the ring's group lose their power (R91, R169) -/

/-- The fences that stand at a page go with it. -/
def fencesLost (p : Page) (s : State) : State := { s with fc := { s.fc with fences := s.fc.fences.filter fun e => domainRoot e.1 != some p } }

/-- The pages of the always-on domain that lose their state in a brown-out, but for the power page. -/
def aonPages : List Page := [pgRing, pgAin 0, pgBf 0]

theorem pagePowerOff_aon {p : Page} (h : p ∈ aonPages) (s : State) :
    pagePowerOff p s = dropHead p (clearPage p (powerKeeps p) (fencesLost p (blockClear p s))) := by
  simp only [aonPages, List.mem_cons, List.not_mem_nil, or_false] at h
  rcases h with rfl | rfl | rfl <;> rfl

theorem aonPages_base {p : Page} (h : p ∈ aonPages) : 0x100000 ≤ pageBase p := (show ∀ p ∈ aonPages, 0x100000 ≤ pageBase p by decide) p h

/-- What the blocks of these pages clear, of registers. -/
theorem regsBut_blockClear_aon {p : Page} (h : p ∈ aonPages) (s : State) : RegsBut relockRegs s (blockClear p s) := by
  simp only [aonPages, List.mem_cons, List.not_mem_nil, or_false] at h
  rcases h with rfl | rfl | rfl
  · exact (regsBut_ringZeroise _ s).trans (regsBut_ringRelock _)
  · exact (RegsBut.refl _ s).withAu _
  · exact (RegsBut.refl _ s).withAu _

theorem blockClear_aon_boot {p : Page} (h : p ∈ aonPages) (s : State) : (blockClear p s).boot = s.boot := by
  simp only [aonPages, List.mem_cons, List.not_mem_nil, or_false] at h
  rcases h with rfl | rfl | rfl
  · exact ((keeps_ringRelock (N := 0x80a) rfl _ (.refl _ _)).same .boot rfl).trans rfl
  · rfl
  · rfl

/-- What these pages' loss of power leaves. -/
theorem pagePowerOff_aon_leaves {p : Page} (h : p ∈ aonPages) (s : State) :
    PowerKept [] s (pagePowerOff p s) ∧ (pagePowerOff p s).boot = s.boot ∧ (pagePowerOff p s).pwr = s.pwr := by
  have hpwr : (pagePowerOff p s).pwr = s.pwr := (keeps_pagePowerOff (N := 0x13fd5a) rfl p s (.refl _ s)).same .pwr rfl
  refine ⟨?_, ?_, hpwr⟩
  · have hblock : PowerKept [] s (blockClear p s) := .of_regsBut (regsBut_blockClear_aon h s) (by decide)
    have hfences : PowerKept [] s (fencesLost p (blockClear p s)) := hblock.trans (.of_regs rfl rfl)
    rw [pagePowerOff_aon h]
    exact (hfences.trans (powerKept_clearPage (Nat.le_trans (by decide) (aonPages_base h)) _ _)).withHead _
  · rw [pagePowerOff_aon h]
    exact blockClear_aon_boot h s

/-! ## The ring after a brown-out -/

theorem ring_ringZeroise (p : RingBlk → Bool) (s : State) : (ringZeroise p s).au.ring = s.au.ring.filter fun b => !p b := by simp [ringZeroise]

theorem ring_ringSigned {s : State} (g : SignSt) (h : s.au.ring = []) : (ringSigned g s).au.ring = [] := by
  unfold ringSigned
  split
  · rw [bump_au]
    exact h
  · simp [ringUnlock, ringRenew, ring_ringZeroise, h]

/-- A relock holds no block that was not held. -/
theorem ring_ringRelock {s : State} (h : s.au.ring = []) : (ringRelock s).au.ring = [] := by
  unfold ringRelock
  extract_lets t
  have ht : t.au.ring = [] := by
    unfold t
    rw [raise_au, setFlag_au]
    exact h
  split
  · exact h
  · split
    · split
      · exact ht
      · split
        · exact h
        · exact ring_ringSigned _ ht
    · exact ht

theorem ring_ringStop (s : State) : (ringStop s).au.ring = [] :=
  ring_ringRelock ((ring_ringZeroise _ s).trans (List.filter_eq_nil_iff.mpr fun _ _ => by decide))

theorem resetVal_ringStatus (q : Part) : resetVal q (pageBase pgRing + Off.RING_STATUS) = 1#32 := by
  have hpage : pageOf (pageBase pgRing + Off.RING_STATUS) = some (pgRing, Off.RING_STATUS) := by decide
  unfold resetVal
  rw [hpage]
  rfl

theorem resetVal_brownOuts (q : Part) : resetVal q (pageBase pgPower + Off.PWR_CNT_BROWN_OUT) = 0#32 := by
  have hpage : pageOf (pageBase pgPower + Off.PWR_CNT_BROWN_OUT) = some (pgPower, Off.PWR_CNT_BROWN_OUT) := by decide
  unfold resetVal
  rw [hpage]
  rfl

theorem clearPage_pwr (p : Page) (keep : Nat → Bool) (s : State) : (clearPage p keep s).pwr = s.pwr := rfl
theorem clearPage_boot (p : Page) (keep : Nat → Bool) (s : State) : (clearPage p keep s).boot = s.boot := rfl
theorem clearPage_au (p : Page) (keep : Nat → Bool) (s : State) : (clearPage p keep s).au = s.au := rfl
theorem rd_dropHead (p q : Page) (off : Nat) (s : State) : rd (dropHead p s) q off = rd s q off := rfl

/-- The ring's page that loses its power shows the ring locked, and empty. -/
theorem ring_lost (s : State) : (pagePowerOff pgRing s).au.ring = [] ∧ rd (pagePowerOff pgRing s) pgRing Off.RING_STATUS = 1#32 := by
  have hmem : pgRing ∈ aonPages := .head _
  have hclear (u : State) : rd (clearPage pgRing (powerKeeps pgRing) u) pgRing Off.RING_STATUS = 1#32 :=
    (rd_clearPage_reset (by decide) rfl u).trans (resetVal_ringStatus u.part)
  rw [pagePowerOff_aon hmem]
  exact ⟨ring_ringStop s, (rd_dropHead ..).trans (hclear _)⟩

/-- A capture page that loses its power leaves the ring and its page. -/
theorem ring_stays {p : Page} (h : p ∈ [pgAin 0, pgBf 0]) (s : State) :
    (pagePowerOff p s).au.ring = s.au.ring ∧ rd (pagePowerOff p s) pgRing Off.RING_STATUS = rd s pgRing Off.RING_STATUS := by
  have hbelow : ∀ q ∈ [pgAin 0, pgBf 0], pageBase q + pageSpan q ≤ pageBase pgRing + Off.RING_STATUS := by decide
  have hblock : (blockClear p s).au.ring = s.au.ring ∧ reg (blockClear p s) (pageBase pgRing + Off.RING_STATUS) = rd s pgRing Off.RING_STATUS := by
    simp only [List.mem_cons, List.not_mem_nil, or_false] at h
    rcases h with rfl | rfl <;> exact ⟨rfl, reg_of_regs rfl rfl _⟩
  rw [pagePowerOff_aon (.tail _ h)]
  exact ⟨hblock.1, (reg_clearPage_outside (.inr (hbelow p h)) _ _).trans hblock.2⟩

/-! ## The brown-out -/

section
variable (s : State)

/-- The always-on domain without its power but for the power page; no command of the beat is left. -/
def aonLost (s : State) : State := aonPages.foldl (fun s p => pagePowerOff p s) { s with pwr := { s.pwr with cmd := none } }

/-- What the power page keeps in a brown-out. -/
def brownKeeps (off : Nat) : Bool := keeperReg pgPower off || showsState pgPower off

/-- The always-on domain's registers are at reset. -/
def aonReset (s : State) : State := clearPage pgPower brownKeeps (aonLost s)

/-- The brown-out shows. -/
def brownShown (s : State) : State :=
  aonReset s |> wr pgPower Off.AON_REG_STATUS 1 |> setFlag pgPower Off.AON_REG_STATUS 2 true
    |> raise pgPower Evt.PWR_BROWN_OUT |> bump pgPower Off.PWR_CNT_BROWN_OUT 1

theorem execBrownOutReset_eq {s : State} (ha : awake s = true) (hd : domOn s 1 = true) : execBrownOutReset s = wakeEvent 8 (brownShown s) := by
  unfold execBrownOutReset
  rw [ha, hd]
  rfl

theorem aonLost_leaves : PowerKept [] s (aonLost s) ∧ (aonLost s).boot = s.boot ∧ (aonLost s).pwr = { s.pwr with cmd := none } := by
  have hleaves (p : Page) (h : p ∈ aonPages) (u : State) (hu : PowerKept [] s u ∧ u.boot = s.boot ∧ u.pwr = { s.pwr with cmd := none }) :
      PowerKept [] s (pagePowerOff p u) ∧ (pagePowerOff p u).boot = s.boot ∧ (pagePowerOff p u).pwr = { s.pwr with cmd := none } := by
    obtain ⟨hk, hboot, hpwr⟩ := pagePowerOff_aon_leaves h u
    exact ⟨hu.1.trans hk, hboot.trans hu.2.1, hpwr.trans hu.2.2⟩
  have hring := hleaves pgRing (by decide) { s with pwr := { s.pwr with cmd := none } } ⟨(PowerKept.refl [] s).withPwr _, rfl, rfl⟩
  exact hleaves (pgBf 0) (by decide) _ (hleaves (pgAin 0) (by decide) _ hring)

theorem aonLost_ring : (aonLost s).au.ring = [] ∧ rd (aonLost s) pgRing Off.RING_STATUS = 1#32 := by
  obtain ⟨hring, hstatus⟩ := ring_lost { s with pwr := { s.pwr with cmd := none } }
  obtain ⟨hain, hainStatus⟩ := ring_stays (p := pgAin 0) (by decide) (pagePowerOff pgRing { s with pwr := { s.pwr with cmd := none } })
  obtain ⟨hbf, hbfStatus⟩ := ring_stays (p := pgBf 0) (by decide)
    (pagePowerOff (pgAin 0) (pagePowerOff pgRing { s with pwr := { s.pwr with cmd := none } }))
  exact ⟨hbf.trans (hain.trans hring), hbfStatus.trans (hainStatus.trans hstatus)⟩

/-- From the reset of the domain on, a brown-out changes two registers of the power page. -/
theorem brownShown_kept : PowerKept [Off.AON_REG_STATUS, Off.PWR_CNT_BROWN_OUT] (aonReset s) (brownShown s) :=
  ((((PowerKept.refl _ _).own _ (by decide) (.head _)).ownFlag 2 true (by decide) (.head _)).raise _ (by decide)).ownBump 1 (by decide)
    (.tail _ (.head _))

theorem pwrState_brownShown : pwrState (brownShown s) = pwrState s := by
  have hreset : pwrState (aonReset s) = pwrState (aonLost s) := by
    unfold pwrState fld aonReset
    rw [rd_clearPage_kept (by decide)]
  rw [(brownShown_kept s).pwrState_eq (by decide), hreset, (aonLost_leaves s).1.pwrState_eq (by decide)]

theorem brownShown_pwr : (brownShown s).pwr = { s.pwr with cmd := none } := by
  unfold brownShown
  rw [bump_pwr, raise_pwr, setFlag_pwr, wr_pwr, aonReset, clearPage_pwr]
  exact (aonLost_leaves s).2.2

theorem brownShown_boot : (brownShown s).boot = s.boot := by
  unfold brownShown
  rw [bump_boot, raise_boot, setFlag_boot, wr_boot, aonReset, clearPage_boot]
  exact (aonLost_leaves s).2.1

theorem brownShown_ring : (brownShown s).au.ring = [] ∧ ringLocked (brownShown s) = true := by
  have hregs : RegsBut [pageBase pgPower + Off.AON_REG_STATUS, pageBase pgPower + Off.PWR_CNT_BROWN_OUT, evtOf pgPower] (aonReset s) (brownShown s) :=
    ((((RegsBut.refl _ _).wr _ (.head _)).setFlag 2 true (.head _)).raise _ (by decide)).bump 1 (by decide)
  have hstatus : rd (brownShown s) pgRing Off.RING_STATUS = 1#32 :=
    ((hregs.upperKept (by decide)).rd_ring _).trans (((upperKept_clearPower _ _).rd_ring _).trans (aonLost_ring s).2)
  refine ⟨?_, ?_⟩
  · unfold brownShown
    rw [bump_au, raise_au, setFlag_au, wr_au, aonReset, clearPage_au]
    exact (aonLost_ring s).1
  · unfold ringLocked flag fld
    rw [hstatus]
    decide

/-- The regulator is in HP and the brown-out is told and counted. -/
theorem brownShown_shows : flag (brownShown s) pgPower Off.AON_REG_STATUS 0 = true ∧ flag (brownShown s) pgPower Off.AON_REG_STATUS 2 = true ∧
    Raised pgPower Evt.PWR_BROWN_OUT (brownShown s) ∧ rd (brownShown s) pgPower Off.PWR_CNT_BROWN_OUT = 1 := by
  have hmode (b : Nat) : flag (brownShown s) pgPower Off.AON_REG_STATUS b =
      flag (setFlag pgPower Off.AON_REG_STATUS 2 true (wr pgPower Off.AON_REG_STATUS 1 (aonReset s))) pgPower Off.AON_REG_STATUS b :=
    (flag_congr (reg_bump_ne 1 (by decide))).trans (flag_congr (reg_raise_ne (by decide)))
  have hcnt : rd (aonReset s) pgPower Off.PWR_CNT_BROWN_OUT = 0#32 :=
    (rd_clearPage_reset (by decide) (by decide) _).trans (resetVal_brownOuts _)
  refine ⟨?_, ?_, ?_, ?_⟩
  · rw [hmode, flag_setFlag_ne _ _ (by decide) (by decide), flag, fld, rd_wr_same]
    decide
  · rw [hmode]
    exact flag_setFlag_same _ _ _ _ (by decide)
  · exact (flag_congr (reg_bump_ne 1 (by decide))).trans (flag_raise_same _ _ (by decide) (by decide))
  · rw [brownShown, rd_bump_same, show rd (raise pgPower Evt.PWR_BROWN_OUT _) pgPower Off.PWR_CNT_BROWN_OUT = 0#32 from
      (reg_raise_ne (by decide)).trans ((reg_setFlag_ne _ _ (by decide)).trans ((reg_wr_ne _ (by decide)).trans hcnt))]
    decide

end

theorem runs_brownOutReset {s : State} (ha : awake s = true) (hd : domOn s 1 = true) : Runs .brownOutReset s fun t =>
    t.au.ring = [] ∧ ringLocked t = true ∧ flag t pgPower Off.AON_REG_STATUS 0 = true ∧ flag t pgPower Off.AON_REG_STATUS 2 = true ∧
      Raised pgPower Evt.PWR_BROWN_OUT t ∧ rd t pgPower Off.PWR_CNT_BROWN_OUT = 1 ∧
      (1 ≤ pwrState s → flag t pgPower Off.PWR_WAKE_CAUSE 8 = true) := by
  obtain ⟨hring, hlocked⟩ := brownShown_ring s
  obtain ⟨hmode, hseen, hraised, hcnt⟩ := brownShown_shows s
  have hpwr := brownShown_pwr s
  have hframe : ModeKept (brownShown s) (wakeEvent 8 (brownShown s)) := modeKept_wakeEvent 8 (by rw [hpwr])
  have hkept := powerKept_wakeEvent 8 (brownShown s)
  have hau : (wakeEvent 8 (brownShown s)).au = (brownShown s).au := (keeps_wakeEvent (N := 0x3e) rfl 8 _ (.refl _ _)).same .au rfl
  refine ⟨_, congrArg Host.Outcome.next (execBrownOutReset_eq ha hd), by rw [hau]; exact hring, ?_, (hframe.mode 0 (by decide)).trans hmode,
    (hframe.mode 2 (by decide)).trans hseen, hkept.raised _ (by decide) hraised, (hkept.rd_eq _ (by decide) (by decide) (by decide)).trans hcnt,
    fun h1 => ?_⟩
  · exact (flag_congr (hframe.upper.rd_ring _)).trans hlocked
  · have ha' : awake (brownShown s) = true := by unfold awake; rw [brownShown_boot]; exact ha
    have hd' : domOn (brownShown s) 1 = true := by unfold domOn; rw [hpwr]; exact hd
    have hcounts : wakeCounts 8 (pwrState (brownShown s)) = true := by rw [pwrState_brownShown]; exact decide_eq_true h1
    exact (woken_wakeEvent (by decide) ha' hcounts hd').1

/-- Settles O23: a duty window and the regulator's switch by their own equations; a brown-out by what the loss of power of each page leaves
and what its wake event keeps. -/
theorem alwaysOn : Obligations.AlwaysOn := by
  unfold Obligations.AlwaysOn
  exact ⟨fun s hstate hon hwin hhit hdue => runs_dutyWindowStart hstate hon hwin hhit hdue, fun s hwin hend => runs_dutyWindowEnd hwin hend,
    fun s h => exec_dutyWindowEnd_early h, fun s hp hd hsw => runs_regulatorModeSwitched hd hsw, fun s ha hd => runs_brownOutReset ha hd⟩

end Sys2Proof.Machine
end

section
/-! # Launches of deals with an action of the block (R44–R46), and voice out (R174–R178) -/
namespace Sys2Proof.Machine

/-! ## A due deal launches -/

/-- A page's due deal has ended, and its launch is told (R44). -/
def launched (p : Page) (s : State) : State := raise p 0 (dealEnd p s)

section
variable (p : Page) (s : State)

@[simp] theorem launched_au : (launched p s).au = s.au := (raise_au ..).trans rfl
@[simp] theorem launched_tt : (launched p s).tt = s.tt := (raise_tt ..).trans rfl

theorem raised_launched : Raised p 0 (launched p s) := flag_raise_deal p (by decide)

theorem regsBut_launched : RegsBut (dealRegs p) s (launched p s) := (regsBut_dealEnd p s (.head _)).raise 0 (.tail _ (.head _))

end

theorem dealOn_due {s : State} {p : Page} {d : DealSt} {action : Nat} (h : DealDue s p d action) :
    dealOn p action s = dealFire p action false (dealEnd p s) := by
  obtain ⟨hdeal, haction, honce, hpower, hen, hable, htime, hlate⟩ := h
  have hready : DealReady s p d action := ⟨hdeal, haction, hpower, hable, .inl hen⟩
  have e := dealEval_fires hready honce htime fun _ => hlate
  rw [hlate] at e
  exact (if_pos haction).trans e

/-! ## A port's part of the state -/

theorem voOf_of_au {s t : State} (h : t.au = s.au) (p : Nat) : voOf t p = voOf s p := by unfold voOf; rw [h]

section
variable (p : Nat) (v : VoSt) (s : State)

@[simp] theorem voOf_setVo : voOf (setVo p v s) p = v := by
  unfold voOf setVo
  split <;> rfl

@[simp] theorem reg_setVo (a : Nat) : reg (setVo p v s) a = reg s a := by unfold setVo; split <;> rfl
@[simp] theorem setVo_out : (setVo p v s).out = s.out := by unfold setVo; split <;> rfl

theorem setVo_self : setVo p (voOf s p) s = s := by
  unfold setVo voOf
  split <;> rfl

@[simp] theorem rd_setVo (q : Page) (off : Nat) : rd (setVo p v s) q off = rd s q off := reg_setVo ..

@[simp] theorem voOf_setFlag (q : Page) (off b : Nat) (x : Bool) : voOf (setFlag q off b x s) p = voOf s p := voOf_of_au rfl p
@[simp] theorem voOf_wr64 (q : Page) (lo hi x : Nat) : voOf (wr64 q lo hi x s) p = voOf s p := voOf_of_au rfl p
@[simp] theorem voOf_bump (q : Page) (off k : Nat) : voOf (bump q off k s) p = voOf s p := voOf_of_au rfl p
@[simp] theorem voOf_emit (o : Out) : voOf (emit o s) p = voOf s p := voOf_of_au rfl p
@[simp] theorem voOf_raise (q : Page) (b : Nat) : voOf (raise q b s) p = voOf s p := voOf_of_au (raise_au ..) p

end

theorem regsBut_setVo {l : List Nat} {p : Nat} {v : VoSt} {s : State} : RegsBut l s (setVo p v s) := fun a _ => reg_setVo p v s a

/-- An event of a page stays while other registers change. -/
theorem Raised.of_reg {p : Page} {b : Nat} {s t : State} (h : Raised p b s) (e : reg t (evtOf p) = reg s (evtOf p)) : Raised p b t :=
  (flag_congr e).trans h

/-- Each event of a voice-out page is implemented (R86). -/
theorem raised_raise {p b : Nat} (hb : b ≤ 7) {s : State} : Raised (pgVo p) b (raise (pgVo p) b s) :=
  flag_raise_same _ _ hb (by omega)

/-! ## START and STOP (R176) -/

section
variable {s : State} {p : Nat} {d : DealSt}

theorem runs_voStart (h : DealDue s (pgVo p) d 2) : Runs (.voStart p) s fun t =>
    flag t (pgVo p) Off.VO_STATE 0 = true ∧
      voOf t p = { voOf s p with launches := (voOf s p).launches ++ [(beatNo s, true)] } ∧ Raised (pgVo p) 0 t ∧
      RegsBut ((pageBase (pgVo p) + Off.VO_STATE) :: dealRegs (pgVo p)) s t := by
  have hvo : voOf (launched (pgVo p) s) p = voOf s p := voOf_of_au (launched_au ..) p
  have hbeat : beatNo (launched (pgVo p) s) = beatNo s := by unfold beatNo tnow; rw [launched_tt]
  have hregs : RegsBut ((pageBase (pgVo p) + Off.VO_STATE) :: dealRegs (pgVo p)) s (launched (pgVo p) s) :=
    (regsBut_launched _ _).mono fun _ => List.mem_cons_of_mem _
  have e : execVoStart p s = voStart p (launched (pgVo p) s) := dealOn_due h
  refine ⟨_, congrArg Host.Outcome.next e, flag_setFlag_same _ _ _ _ (by decide), ?_, ?_,
    (hregs.trans regsBut_setVo).setFlag 0 true (.head _)⟩
  · rw [voStart, voOf_setFlag, voOf_setVo, hvo, hbeat]
  · exact (raised_launched _ s).of_reg ((reg_setFlag_ne _ _ (addr_ne (by decide) (by decide) (by decide))).trans (reg_setVo ..))

theorem runs_voStop (h : DealDue s (pgVo p) d 3) : Runs (.voStop p) s fun t =>
    voOf t p = { voOf s p with launches := (voOf s p).launches ++ [(beatNo s, false)] } ∧ Raised (pgVo p) 0 t ∧
      RegsBut (dealRegs (pgVo p)) s t := by
  have hvo : voOf (launched (pgVo p) s) p = voOf s p := voOf_of_au (launched_au ..) p
  have hbeat : beatNo (launched (pgVo p) s) = beatNo s := by unfold beatNo tnow; rw [launched_tt]
  have e : execVoStop p s = voStop p (launched (pgVo p) s) := dealOn_due h
  refine ⟨_, congrArg Host.Outcome.next e, ?_, (raised_launched _ s).of_reg (reg_setVo ..), (regsBut_launched _ _).trans regsBut_setVo⟩
  rw [voStop, voOf_setVo, hvo, hbeat]

end

/-! ## What a frame's launches and its source A leave -/

/-- The registers of a port that a START or STOP taking effect and source A may change. -/
def playRegs (p : Nat) : List Nat :=
  [pageBase (pgVo p) + Off.VO_STATE, pageBase (pgVo p) + Off.VO_START_TT_LO, pageBase (pgVo p) + Off.VO_START_TT_HI,
    pageBase (pgVo p) + Off.VO_CNT_UNDERRUN, evtOf (pgVo p)]

/-- Nothing has left the block, source B is as it was, and of the registers only those that show port p's play have changed. -/
structure SideKept (p : Nat) (s t : State) : Prop where
  regs : RegsBut (playRegs p) s t
  out : t.out = s.out
  fifoB : (voOf t p).fifoB = (voOf s p).fifoB

namespace SideKept
variable {p : Nat} {s t u : State}

theorem refl (p : Nat) (s : State) : SideKept p s s := ⟨.refl _ s, rfl, rfl⟩

theorem trans (h : SideKept p s t) (h' : SideKept p t u) : SideKept p s u :=
  ⟨h.regs.trans h'.regs, h'.out.trans h.out, h'.fifoB.trans h.fifoB⟩

theorem foldl {β : Type} {f : State → β → State} (hf : ∀ s b, SideKept p s (f s b)) (l : List β) (s : State) :
    SideKept p s (l.foldl f s) := by
  induction l generalizing s with
  | nil => exact .refl p s
  | cons b r ih => exact (hf s b).trans (ih _)

section
variable (h : SideKept p s t)
include h

theorem setVo {v : VoSt} (hv : v.fifoB = (voOf t p).fifoB) : SideKept p s (setVo p v t) :=
  h.trans ⟨regsBut_setVo, setVo_out .., by rw [voOf_setVo, hv]⟩

theorem setFlag (x : Bool) : SideKept p s (setFlag (pgVo p) Off.VO_STATE 0 x t) :=
  h.trans ⟨(RegsBut.refl _ t).setFlag 0 x (.head _), rfl, rfl⟩

theorem startTime (now : Nat) : SideKept p s (wr64 (pgVo p) Off.VO_START_TT_LO Off.VO_START_TT_HI now t) :=
  h.trans ⟨((RegsBut.refl _ t).wr _ (.tail _ (.head _))).wr _ (.tail _ (.tail _ (.head _))), rfl, rfl⟩

theorem underrun : SideKept p s (bump (pgVo p) Off.VO_CNT_UNDERRUN 1 t) :=
  h.trans ⟨(RegsBut.refl _ t).bump 1 (.tail _ (.tail _ (.tail _ (.head _)))), rfl, rfl⟩

theorem raise (b : Nat) : SideKept p s (raise (pgVo p) b t) :=
  h.trans ⟨(RegsBut.refl _ t).raise b (.tail _ (.tail _ (.tail _ (.tail _ (.head _))))), raise_out .., by rw [voOf_raise]⟩

/-- A register of the port that is none of those that show its play. -/
theorem rd_eq {off : Nat}
    (hne : off ∉ [Off.VO_STATE, Off.VO_START_TT_LO, Off.VO_START_TT_HI, Off.VO_CNT_UNDERRUN, Off.EVT_RAW]) :
    rd t (pgVo p) off = rd s (pgVo p) off := by
  refine h.regs _ fun hm => hne ?_
  simp only [playRegs, evtOf, List.mem_cons, Nat.add_left_cancel_iff, List.not_mem_nil] at hm ⊢
  exact hm

/-- The slots, the attenuations and the mute rest on VO_CFG and VO_GAIN. -/
theorem mixFrame_eq (a b : List Int) : mixFrame t p a b = mixFrame s p a b := by
  unfold mixFrame flag fld
  rw [h.rd_eq (off := Off.VO_CFG) (by decide), h.rd_eq (off := Off.VO_GAIN) (by decide)]

end

end SideKept

section
variable (p now : Nat) (s : State)

theorem sideKept_voBegin : SideKept p s (voBegin p now s) := ((((SideKept.refl p s).setVo (by rfl)).setFlag true).startTime now).raise _

theorem sideKept_voEnd : SideKept p s (voEnd p s) := ((SideKept.refl p s).setVo (by rfl)).setFlag _

theorem sideKept_voEdges : SideKept p s (voEdges p now s) := by
  unfold voEdges
  refine ((SideKept.refl p s).setVo (by rfl)).trans (.foldl (fun u e => ?_) _ _)
  split
  · exact sideKept_voBegin p now u
  · exact sideKept_voEnd p u

end

/-! ## Source A (R176, R177) -/

/-- Source A's stream has ended: play ends with it. -/
def drained (p : Nat) (s : State) : State :=
  setFlag (pgVo p) Off.VO_STATE 0 false s |> raise (pgVo p) Evt.VO_DRAINED

/-- Source A has no frame: an underrun is counted, and told if the frame before was none. -/
def underrun (p : Nat) (s : State) : State :=
  let u := setVo p { voOf s p with dry := true } s |> bump (pgVo p) Off.VO_CNT_UNDERRUN 1
  if (voOf s p).dry then u else raise (pgVo p) Evt.VO_UNDERRUN u

section
variable {p : Nat} {s : State}

theorem voSourceA_silent (h : (voOf s p).sounding = false) : voSourceA p s = ([], s) := by
  unfold voSourceA
  simp only [h, Bool.not_false, if_true]

theorem voSourceA_over (h : (voOf s p).sounding = true) (ha : (voOf s p).fifoA = []) (hl : (voOf s p).lastA = true) :
    voSourceA p s = ([], drained p (setVo p { voOf s p with sounding := false, lastA := false } s)) := by
  unfold voSourceA drained
  simp only [h, ha, hl, Bool.not_true, Bool.false_eq_true, if_false, if_true]

theorem voSourceA_empty (h : (voOf s p).sounding = true) (ha : (voOf s p).fifoA = []) (hl : (voOf s p).lastA = false) :
    voSourceA p s = ([], underrun p s) := by
  unfold voSourceA underrun
  simp only [h, ha, hl, Bool.not_true, Bool.false_eq_true, if_false]

theorem voSourceA_last {a : List Int} (h : (voOf s p).sounding = true) (ha : (voOf s p).fifoA = [a]) (hl : (voOf s p).lastA = true) :
    voSourceA p s = (a, drained p (setVo p { voOf s p with fifoA := [], sounding := false, lastA := false, dry := false } s)) := by
  unfold voSourceA drained
  simp only [h, ha, hl, Bool.not_true, Bool.false_eq_true, if_false, List.isEmpty_nil, Bool.and_self, if_true]

theorem voSourceA_next {a : List Int} {rest : List (List Int)} (h : (voOf s p).sounding = true) (ha : (voOf s p).fifoA = a :: rest)
    (hl : rest ≠ [] ∨ (voOf s p).lastA = false) : voSourceA p s = (a, setVo p { voOf s p with fifoA := rest, dry := false } s) := by
  have hmore : (rest.isEmpty && (voOf s p).lastA) = false := by
    rcases hl with hr | hr
    · rw [List.isEmpty_eq_false_iff.mpr hr, Bool.false_and]
    · rw [hr, Bool.and_false]
  unfold voSourceA
  simp only [h, ha, hmore, Bool.not_true, Bool.false_eq_true, if_false]

/-- What source A can do in a frame: nothing while it does not sound, the end of its stream, an underrun, or its next frame. -/
theorem voSourceA_cases (p : Nat) (s : State) : voSourceA p s = ([], s) ∨
    (∃ a v, v.fifoB = (voOf s p).fifoB ∧ voSourceA p s = (a, drained p (setVo p v s))) ∨ voSourceA p s = ([], underrun p s) ∨
      ∃ a v, v.fifoB = (voOf s p).fifoB ∧ voSourceA p s = (a, setVo p v s) := by
  cases h : (voOf s p).sounding with
  | false => exact .inl (voSourceA_silent h)
  | true =>
    match ha : (voOf s p).fifoA, hl : (voOf s p).lastA with
    | [], true => exact .inr (.inl ⟨_, { voOf s p with sounding := false, lastA := false }, rfl, voSourceA_over h ha hl⟩)
    | [], false => exact .inr (.inr (.inl (voSourceA_empty h ha hl)))
    | [_], true =>
      exact .inr (.inl ⟨_, { voOf s p with fifoA := [], sounding := false, lastA := false, dry := false }, rfl, voSourceA_last h ha hl⟩)
    | _ :: rest, false =>
      exact .inr (.inr (.inr ⟨_, { voOf s p with fifoA := rest, dry := false }, rfl, voSourceA_next h ha (.inr hl)⟩))
    | _ :: x :: rest, true =>
      exact .inr (.inr (.inr ⟨_, { voOf s p with fifoA := x :: rest, dry := false }, rfl, voSourceA_next h ha (.inl (List.cons_ne_nil _ _))⟩))

end

section
variable (p : Nat) (s : State)

theorem sideKept_drained : SideKept p s (drained p s) := ((SideKept.refl p s).setFlag false).raise _

theorem sideKept_underrun : SideKept p s (underrun p s) := by
  have hu := ((SideKept.refl p s).setVo (v := { voOf s p with dry := true }) rfl).underrun
  unfold underrun
  split
  · exact hu
  · exact hu.raise _

theorem sideKept_voSourceA : SideKept p s (voSourceA p s).2 := by
  rcases voSourceA_cases p s with e | ⟨a, v, hv, e⟩ | e | ⟨a, v, hv, e⟩ <;> rw [e]
  · exact .refl p s
  · exact ((SideKept.refl p s).setVo hv).trans (sideKept_drained ..)
  · exact sideKept_underrun p s
  · exact (SideKept.refl p s).setVo hv

/-- The registers that source A may change: of the port's play, not the start time. -/
def sourceRegs (p : Nat) : List Nat := [pageBase (pgVo p) + Off.VO_STATE, pageBase (pgVo p) + Off.VO_CNT_UNDERRUN, evtOf (pgVo p)]

theorem regsBut_voSourceA : RegsBut (sourceRegs p) s (voSourceA p s).2 := by
  have hset (v : VoSt) : RegsBut (sourceRegs p) s (setVo p v s) := regsBut_setVo
  rcases voSourceA_cases p s with e | ⟨a, v, -, e⟩ | e | ⟨a, v, -, e⟩ <;> rw [e]
  · exact .refl _ s
  · exact ((hset v).setFlag 0 false (.head _)).raise _ (.tail _ (.tail _ (.head _)))
  · have hu := (hset { voOf s p with dry := true }).bump (p := pgVo p) (off := Off.VO_CNT_UNDERRUN) 1 (.tail _ (.head _))
    exact .ite hu (hu.raise _ (.tail _ (.tail _ (.head _))))
  · exact hset v

theorem raised_voSourceA {b : Nat} (h : Raised (pgVo p) b s) : Raised (pgVo p) b (voSourceA p s).2 := by
  have hset (v : VoSt) : Raised (pgVo p) b (setVo p v s) := h.of_reg (reg_setVo ..)
  rcases voSourceA_cases p s with e | ⟨a, v, -, e⟩ | e | ⟨a, v, -, e⟩ <;> rw [e]
  · exact h
  · exact flag_raise_mono _ _ _ (by decide) ((hset v).of_reg (reg_setFlag_ne _ _ (addr_ne (by decide) (by decide) (by decide))))
  · have hu := (hset { voOf s p with dry := true }).of_reg
      (reg_bump_ne (p := pgVo p) (off := Off.VO_CNT_UNDERRUN) 1 (addr_ne (by decide) (by decide) (by decide)))
    unfold underrun
    split
    · exact hu
    · exact flag_raise_mono _ _ _ (by decide) hu
  · exact hset v

end

/-! ## A frame (R174–R178) -/

/-- A frame of port p leaves with a frame of source A and the next of source B, and counts. -/
def frameOut (p : Nat) (a : List Int) (s : State) : State :=
  let out := mixFrame s p a ((voOf s p).fifoB.headD [])
  setVo p { voOf s p with fifoB := (voOf s p).fifoB.drop 1, played := out } s |> bump (pgVo p) Off.VO_CNT_FRAMES 1 |> emit (.voFrame p out)

theorem execVoFrame_eq {s : State} {p : Nat} (hp : p < 2) (hen : enabled s (pgVo p) = true) (now : Nat) :
    execVoFrame p now s = frameOut p (voSourceA p (voEdges p now s)).1 (voSourceA p (voEdges p now s)).2 := by
  unfold execVoFrame
  rw [if_neg (by rw [hen, decide_eq_false (by omega)]; decide)]
  rfl

theorem runs_voFrame {s : State} {p now : Nat} {P : State → Prop} (hp : p < 2) (hen : enabled s (pgVo p) = true)
    (hP : P (frameOut p (voSourceA p (voEdges p now s)).1 (voSourceA p (voEdges p now s)).2)) : Runs (.voFrame p now) s P :=
  ⟨_, congrArg Host.Outcome.next (execVoFrame_eq hp hen now), hP⟩

section
variable (p : Nat) (a : List Int) (s : State)

theorem voOf_frameOut : voOf (frameOut p a s) p =
    { voOf s p with fifoB := (voOf s p).fifoB.drop 1, played := mixFrame s p a ((voOf s p).fifoB.headD []) } := by
  rw [frameOut, voOf_emit, voOf_bump, voOf_setVo]

theorem frameOut_out : (frameOut p a s).out = s.out ++ [.voFrame p (voOf (frameOut p a s) p).played] := by
  rw [voOf_frameOut, frameOut, emit_out, bump_out, setVo_out]

theorem regsBut_frameOut : RegsBut [pageBase (pgVo p) + Off.VO_CNT_FRAMES] s (frameOut p a s) :=
  (regsBut_setVo.bump 1 (.head _)).emit _

theorem counted_frameOut : Counted (pgVo p) Off.VO_CNT_FRAMES 1 s (frameOut p a s) := by
  have h := counted_bump (pgVo p) Off.VO_CNT_FRAMES 1
    (setVo p { voOf s p with fifoB := (voOf s p).fifoB.drop 1, played := mixFrame s p a ((voOf s p).fifoB.headD []) } s)
  unfold Counted at h ⊢
  rw [rd_setVo] at h
  rw [frameOut, rd_emit, h]

end

/-- A frame leaves the sum of source A's frame and the next of source B at their attenuations (R175). -/
def Sent (p : Nat) (a : List Int) (s t : State) : Prop :=
  t.out = s.out ++ [.voFrame p (mixFrame s p a ((voOf s p).fifoB.headD []))] ∧ Counted (pgVo p) Off.VO_CNT_FRAMES 1 s t ∧
    (voOf t p).fifoB = (voOf s p).fifoB.drop 1

theorem SideKept.counted {p : Nat} {s u : State} (h : SideKept p s u) (a : List Int) :
    Counted (pgVo p) Off.VO_CNT_FRAMES 1 s (frameOut p a u) := by
  unfold Counted
  rw [← h.rd_eq (off := Off.VO_CNT_FRAMES) (by decide)]
  exact counted_frameOut p a u

theorem SideKept.sent {p : Nat} {s u : State} (h : SideKept p s u) (a : List Int) : Sent p a s (frameOut p a u) := by
  refine ⟨?_, h.counted a, ?_⟩
  · rw [frameOut_out, voOf_frameOut, h.out, h.fifoB, h.mixFrame_eq]
  · rw [voOf_frameOut, h.fifoB]

/-- What a frame leaves of the registers that source A has changed. -/
theorem raised_frameOut {p : Nat} {b : Nat} {s : State} (h : Raised (pgVo p) b s) (a : List Int) : Raised (pgVo p) b (frameOut p a s) :=
  h.of_reg (regsBut_frameOut p a s _ fun hm => absurd (List.mem_singleton.mp hm) (addr_ne (by decide) (by decide) (by decide)))

theorem flag_frameOut {p off b : Nat} (ho : off < 0x1000) (hne : off ≠ Off.VO_CNT_FRAMES) (a : List Int) (s : State) :
    flag (frameOut p a s) (pgVo p) off b = flag s (pgVo p) off b :=
  flag_congr (regsBut_frameOut p a s _ fun hm => absurd (List.mem_singleton.mp hm) (addr_ne ho (by decide) hne))

/-! ## Frames without a launch -/

theorem voEdges_idle {s : State} {p now : Nat} (h : ∀ e ∈ (voOf s p).launches, frameDue e.1 now = false) : voEdges p now s = s := by
  have hdue : ((voOf s p).launches.filter fun e => frameDue e.1 now) = [] := List.filter_eq_nil_iff.mpr fun e he => by rw [h e he]; decide
  have hrest : ((voOf s p).launches.filter fun e => !frameDue e.1 now) = (voOf s p).launches :=
    List.filter_eq_self.mpr fun e he => by rw [h e he]; rfl
  unfold voEdges
  dsimp only
  rw [hdue, hrest]
  exact setVo_self p s

section
variable {s : State} {p now : Nat} (hp : p < 2) (hen : enabled s (pgVo p) = true)
  (hidle : ∀ e ∈ (voOf s p).launches, frameDue e.1 now = false)
include hp hen hidle

/-- A frame in which no START or STOP takes effect leaves as source A stands. -/
theorem runs_voFrame_idle {P : State → Prop} (hP : P (frameOut p (voSourceA p s).1 (voSourceA p s).2)) : Runs (.voFrame p now) s P := by
  refine runs_voFrame hp hen ?_
  rw [voEdges_idle hidle]
  exact hP

theorem runs_voFrame_silent (h : (voOf s p).sounding = false) : Runs (.voFrame p now) s fun t =>
    Sent p [] s t ∧ RegsBut [pageBase (pgVo p) + Off.VO_CNT_FRAMES] s t := by
  refine runs_voFrame_idle hp hen hidle ?_
  rw [voSourceA_silent h]
  exact ⟨(SideKept.refl p s).sent [], regsBut_frameOut _ _ _⟩

theorem runs_voFrame_next {a : List Int} {rest : List (List Int)} (h : (voOf s p).sounding = true) (ha : (voOf s p).fifoA = a :: rest)
    (hl : rest ≠ [] ∨ (voOf s p).lastA = false) : Runs (.voFrame p now) s fun t =>
      Sent p a s t ∧ (voOf t p).fifoA = rest ∧ RegsBut [pageBase (pgVo p) + Off.VO_CNT_FRAMES] s t := by
  refine runs_voFrame_idle hp hen hidle ?_
  rw [voSourceA_next h ha hl]
  refine ⟨((SideKept.refl p s).setVo (by rfl)).sent a, ?_, regsBut_setVo.trans (regsBut_frameOut _ _ _)⟩
  rw [voOf_frameOut, voOf_setVo]

theorem runs_voFrame_last {a : List Int} (h : (voOf s p).sounding = true) (ha : (voOf s p).fifoA = [a]) (hl : (voOf s p).lastA = true) :
    Runs (.voFrame p now) s fun t => Sent p a s t ∧ (voOf t p).sounding = false ∧ flag t (pgVo p) Off.VO_STATE 0 = false ∧
      Raised (pgVo p) Evt.VO_DRAINED t := by
  refine runs_voFrame_idle hp hen hidle ?_
  rw [voSourceA_last h ha hl]
  refine ⟨(((SideKept.refl p s).setVo (v := { voOf s p with fifoA := [], sounding := false, lastA := false, dry := false }) rfl).trans
    (sideKept_drained ..)).sent a, ?_, ?_, raised_frameOut (raised_raise (by decide)) a⟩
  · rw [voOf_frameOut, drained, voOf_raise, voOf_setFlag, voOf_setVo]
  · rw [flag_frameOut (by decide) (by decide), drained, flag_congr (reg_raise_ne (addr_ne (by decide) (by decide) (by decide)))]
    exact flag_setFlag_same _ _ _ _ (by decide)

theorem runs_voFrame_underrun (h : (voOf s p).sounding = true) (ha : (voOf s p).fifoA = []) (hl : (voOf s p).lastA = false) :
    Runs (.voFrame p now) s fun t => Sent p [] s t ∧ Counted (pgVo p) Off.VO_CNT_UNDERRUN 1 s t ∧
      ((voOf s p).dry = false → Raised (pgVo p) Evt.VO_UNDERRUN t) := by
  refine runs_voFrame_idle hp hen hidle ?_
  rw [voSourceA_empty h ha hl]
  refine ⟨(sideKept_underrun p s).sent [], ?_, fun hdry => raised_frameOut ?_ []⟩
  · have hframe := regsBut_frameOut p [] (underrun p s) (pageBase (pgVo p) + Off.VO_CNT_UNDERRUN)
      fun hm => absurd (List.mem_singleton.mp hm) (addr_ne (by decide) (by decide) (by decide))
    have hcount : rd (underrun p s) (pgVo p) Off.VO_CNT_UNDERRUN =
        rd (bump (pgVo p) Off.VO_CNT_UNDERRUN 1 (setVo p { voOf s p with dry := true } s)) (pgVo p) Off.VO_CNT_UNDERRUN := by
      unfold underrun
      split
      · rfl
      · exact reg_raise_ne (addr_ne (by decide) (by decide) (by decide))
    have h := counted_bump (pgVo p) Off.VO_CNT_UNDERRUN 1 (setVo p { voOf s p with dry := true } s)
    unfold Counted at h ⊢
    rw [rd_setVo] at h
    rw [rd_congr hframe, hcount, h]
  · unfold underrun
    rw [hdry]
    exact raised_raise (by decide)

end

/-! ## Frames in which a START or a STOP takes effect (R176) -/

/-- Play has been told to begin, in the frame at a time. -/
def Started (p now : Nat) (t : State) : Prop :=
  Raised (pgVo p) Evt.VO_STARTED t ∧ rd64 t (pgVo p) Off.VO_START_TT_LO Off.VO_START_TT_HI = now % 2 ^ 64

/-- A change that leaves the start time and clears no event. -/
theorem Started.kept {p now : Nat} {l : List Nat} {s t : State} (h : Started p now s) (hr : RegsBut l s t)
    (hlo : pageBase (pgVo p) + Off.VO_START_TT_LO ∉ l) (hhi : pageBase (pgVo p) + Off.VO_START_TT_HI ∉ l)
    (he : Raised (pgVo p) Evt.VO_STARTED s → Raised (pgVo p) Evt.VO_STARTED t) : Started p now t := by
  refine ⟨he h.1, ?_⟩
  rw [← h.2]
  unfold rd64
  rw [rd_congr (hr _ hlo), rd_congr (hr _ hhi)]

theorem started_voBegin (p now : Nat) (s : State) : Started p now (voBegin p now s) := by
  have hev {off : Nat} (ho : off < 0x1000) (hne : off ≠ Off.EVT_RAW) (u : State) :
      rd (raise (pgVo p) Evt.VO_STARTED u) (pgVo p) off = rd u (pgVo p) off := reg_raise_ne (addr_ne ho (by decide) hne)
  refine ⟨raised_raise (by decide), ?_⟩
  unfold voBegin rd64
  rw [hev (by decide) (by decide), hev (by decide) (by decide)]
  exact rd64_wr64 (by decide) now

theorem started_voEnd {p now : Nat} {s : State} (h : Started p now s) : Started p now (voEnd p s) := by
  have hregs : RegsBut [pageBase (pgVo p) + Off.VO_STATE] s (voEnd p s) := regsBut_setVo.setFlag 0 _ (.head _)
  have hother {off : Nat} (ho : off < 0x1000) (hne : off ≠ Off.VO_STATE) : pageBase (pgVo p) + off ∉ [pageBase (pgVo p) + Off.VO_STATE] :=
    fun hm => absurd (List.mem_singleton.mp hm) (addr_ne ho (by decide) hne)
  exact h.kept hregs (hother (by decide) (by decide)) (hother (by decide) (by decide))
    fun he => he.of_reg (hregs _ (hother (by decide) (by decide)))

/-- Of the launches that take effect in a frame, a START begins play, and none after it takes the start back. -/
theorem started_edges {p now : Nat} (l : List (Nat × Bool)) {s : State} (h : Started p now s ∨ ∃ e ∈ l, e.2 = true) :
    Started p now (l.foldl (fun s e => if e.2 then voBegin p now s else voEnd p s) s) := by
  induction l generalizing s with
  | nil => exact h.resolve_right (by simp)
  | cons e rest ih =>
    refine ih ?_
    dsimp only
    cases he : e.2 with
    | true =>
      rw [if_pos rfl]
      exact .inl (started_voBegin p now s)
    | false =>
      rw [if_neg (by decide)]
      rcases h with h | ⟨x, hx, htrue⟩
      · exact .inl (started_voEnd h)
      · rcases List.mem_cons.mp hx with rfl | hx
        · exact absurd htrue (by rw [he]; decide)
        · exact .inr ⟨x, hx, htrue⟩

theorem started_voEdges {s : State} {p now b : Nat} (h : (b, true) ∈ (voOf s p).launches) (hdue : 64 * b + 500 ≤ now) :
    Started p now (voEdges p now s) :=
  started_edges _ (.inr ⟨(b, true), List.mem_filter.mpr ⟨h, decide_eq_true hdue⟩, rfl⟩)

theorem started_voSourceA {p now : Nat} {s : State} (h : Started p now s) : Started p now (voSourceA p s).2 := by
  have hother {off : Nat} (hne : off ∉ [Off.VO_STATE, Off.VO_CNT_UNDERRUN, Off.EVT_RAW]) :
      pageBase (pgVo p) + off ∉ sourceRegs p := fun hm => hne <| by
    simp only [sourceRegs, evtOf, List.mem_cons, Nat.add_left_cancel_iff, List.not_mem_nil] at hm ⊢
    exact hm
  exact h.kept (regsBut_voSourceA p s) (hother (by decide)) (hother (by decide)) (raised_voSourceA p s)

theorem started_frameOut {p now : Nat} {s : State} (h : Started p now s) (a : List Int) : Started p now (frameOut p a s) := by
  have hother {off : Nat} (ho : off < 0x1000) (hne : off ≠ Off.VO_CNT_FRAMES) :
      pageBase (pgVo p) + off ∉ [pageBase (pgVo p) + Off.VO_CNT_FRAMES] :=
    fun hm => absurd (List.mem_singleton.mp hm) (addr_ne ho (by decide) hne)
  exact h.kept (regsBut_frameOut p a s) (hother (by decide) (by decide)) (hother (by decide) (by decide)) fun he => raised_frameOut he a

section
variable {s : State} {p now b : Nat} (hp : p < 2) (hen : enabled s (pgVo p) = true) (hdue : 64 * b + 500 ≤ now)
include hp hen hdue

theorem runs_voFrame_start (hl : (b, true) ∈ (voOf s p).launches) (hnow : now < 2 ^ 64) : Runs (.voFrame p now) s fun t =>
    Raised (pgVo p) Evt.VO_STARTED t ∧ rd64 t (pgVo p) Off.VO_START_TT_LO Off.VO_START_TT_HI = now := by
  refine runs_voFrame hp hen ?_
  obtain ⟨hraised, htime⟩ := started_frameOut (started_voSourceA (started_voEdges hl hdue)) (voSourceA p (voEdges p now s)).1
  exact ⟨hraised, htime.trans (Nat.mod_eq_of_lt hnow)⟩

/-- A lone STOP that takes effect flushes source A, and the frame is source B's. -/
theorem runs_voFrame_stop (hl : (voOf s p).launches = [(b, false)]) : Runs (.voFrame p now) s fun t =>
    Sent p [] s t ∧ (voOf t p).fifoA = [] ∧ (voOf t p).sounding = false ∧ (voOf t p).launches = [] ∧
      flag t (pgVo p) Off.VO_STATE 0 = false := by
  have hframe : frameDue b now = true := decide_eq_true hdue
  have hedges : voEdges p now s = voEnd p (setVo p { voOf s p with launches := [] } s) := by
    unfold voEdges
    simp only [hl, hframe, List.filter_cons, List.filter_nil, if_true, Bool.not_true, Bool.false_eq_true, if_false, List.foldl_cons,
      List.foldl_nil]
  have hend : voOf (voEdges p now s) p =
      { voOf s p with launches := [], sounding := false, fifoA := [], partA := [], lastA := false } := by
    rw [hedges, voEnd, voOf_setFlag, voOf_setVo, voOf_setVo]
  have hstate : flag (voEdges p now s) (pgVo p) Off.VO_STATE 0 = false := by
    rw [hedges, voEnd, voOf_setVo]
    exact flag_setFlag_same _ _ _ _ (by decide)
  refine runs_voFrame hp hen ?_
  rw [voSourceA_silent (s := voEdges p now s) (by rw [hend])]
  refine ⟨(sideKept_voEdges p now s).sent [], ?_, ?_, ?_, ?_⟩
  · rw [voOf_frameOut, hend]
  · rw [voOf_frameOut, hend]
  · rw [voOf_frameOut, hend]
  · rw [flag_frameOut (by decide) (by decide)]
    exact hstate

end

/-- Settles O28: a frame is what the due launches leave, then what source A does, then what both sources add up to. -/
theorem voiceOut : Obligations.VoiceOut := by
  unfold Obligations.VoiceOut
  intro cnt runs sent
  exact ⟨fun _ _ _ _ h => runs_voStart h, fun _ _ _ _ h => runs_voStop h,
    fun _ _ _ ⟨hp, hen, hidle⟩ h => runs_voFrame_silent hp hen hidle h,
    fun _ _ _ _ _ ⟨hp, hen, hidle⟩ h ha hl => runs_voFrame_next hp hen hidle h ha hl,
    fun _ _ _ _ ⟨hp, hen, hidle⟩ h ha hl => runs_voFrame_last hp hen hidle h ha hl,
    fun _ _ _ ⟨hp, hen, hidle⟩ h ha hl => runs_voFrame_underrun hp hen hidle h ha hl,
    fun _ _ _ _ hp hen hl hdue hnow => runs_voFrame_start hp hen hdue hl hnow,
    fun _ _ _ _ hp hen hl hdue => runs_voFrame_stop hp hen hdue hl⟩

/-! ## The echo reference (R178) -/

/-- What a frame does before it leaves, it leaves to port p as it was. -/
theorem sideKept_voFrame (p now : Nat) (s : State) : SideKept p s (voSourceA p (voEdges p now s)).2 :=
  (sideKept_voEdges p now s).trans (sideKept_voSourceA ..)

/-- A muted frame is zero in each slot (R175). -/
theorem mixFrame_muted {s : State} {p : Nat} (h : bitOf (rd s (pgVo p) Off.VO_GAIN) 16 = true) (a b : List Int) :
    ∀ x ∈ mixFrame s p a b, x = 0 := by
  unfold mixFrame
  simp only [h, if_true, List.mem_map]
  rintro x ⟨-, -, rfl⟩
  rfl

/-- Settles O29: what leaves the pin is what the port notes as played, whatever the launches and source A do before it. -/
theorem echoReference : Obligations.EchoReference := by
  unfold Obligations.EchoReference
  refine ⟨fun s now hen => runs_voFrame (by decide) hen ⟨?_, (sideKept_voFrame 0 now s).counted _⟩,
    fun s now hen hmute => runs_voFrame (by decide) hen ?_, fun s now hen => ?_⟩
  · rw [frameOut_out, (sideKept_voFrame 0 now s).out]
  · rw [voOf_frameOut]
    refine mixFrame_muted ?_ _ _
    rw [(sideKept_voFrame 0 now s).rd_eq (by decide)]
    exact hmute
  · refine congrArg Host.Outcome.next (if_pos ?_)
    rw [hen]
    rfl

end Sys2Proof.Machine
end

section
/-! # The pre-roll ring: enable, relock, the unlock limit, the release port (R167–R169, R173) -/
namespace Sys2Proof.Machine

@[simp] theorem withMgmt_au (l : List Nat) (s : State) : (withMgmt l s).au = s.au := rfl
@[simp] theorem ringLocked_withMgmt (l : List Nat) (s : State) : ringLocked (withMgmt l s) = ringLocked s := rfl

/-! ## The lock (R169) -/

/-- No sign-off of the present beat comes after a relock (R173). -/
def Unsigned (s : State) : Prop := ∀ g, s.au.signed = some g → g.beat ≠ s.tt.beats ∨ s.tt.run = false

theorem Unsigned.of_eq {s t : State} (h : Unsigned s) (hau : t.au.signed = s.au.signed) (htt : t.tt = s.tt) : Unsigned t := by
  unfold Unsigned
  rw [hau, htt]
  exact h

theorem Captured.unsigned {s u : State} (hu : Captured s u) (h : Unsigned s) : Unsigned u := h.of_eq (by rw [hu.au_eq]) hu.tt_eq

theorem Captured.ringLocked_eq {s u : State} (hu : Captured s u) : ringLocked u = ringLocked s := hu.flag_eq 0 (by decide) (by decide)

/-- The registers of the lock. -/
def lockRegs : List Nat := [pageBase pgRing + Off.RING_STATUS, evtOf pgRing]

/-- From s to t the ring has locked, and nothing else has changed; where it was unlocked, this is told. -/
structure Relocks (s t : State) : Prop where
  locked : ringLocked t = true
  au : t.au = s.au
  told : ringLocked s = false → Raised pgRing Evt.RING_RELOCKED t
  regs : RegsBut lockRegs s t

/-- An unlocked ring locks, and tells it. -/
def lockTold (s : State) : State := setFlag pgRing Off.RING_STATUS 0 true s |> raise pgRing Evt.RING_RELOCKED

theorem relocks_lockTold (s : State) : Relocks s (lockTold s) where
  locked := (flag_congr (reg_raise_ne (by decide))).trans (flag_setFlag_same _ _ _ _ (by decide))
  au := (raise_au ..).trans (setFlag_au ..)
  told _ := flag_raise_same _ _ (by decide) (by decide)
  regs := ((RegsBut.refl _ s).setFlag 0 true (.head _)).raise _ (.tail _ (.head _))

theorem ringRelock_locked {s : State} (h : ringLocked s = true) : ringRelock s = s := if_pos h

theorem ringRelock_unlocked {s : State} (h : ringLocked s = false) (hu : Unsigned s) : ringRelock s = lockTold s := by
  unfold ringRelock
  rw [h, if_neg (by decide)]
  dsimp only
  split
  · next g hg => exact if_pos (hu g hg)
  · rfl

/-- A sign-off of the beat comes after its relock and unlocks the ring again (R173). -/
theorem ringRelock_signed {s : State} {g : SignSt} (hr : s.tt.run = true) (hg : s.au.signed = some g) (hb : g.beat = s.tt.beats)
    (hl : g.locked = true) : ringRelock s = s := by
  unfold ringRelock
  rw [hg]
  dsimp only
  rw [if_pos hl, if_neg (c := g.beat ≠ s.tt.beats ∨ s.tt.run = false) (by rw [hb, hr]; simp), ite_self]

theorem relocks_ringRelock {s : State} (hu : Unsigned s) : Relocks s (ringRelock s) := by
  cases h : ringLocked s with
  | true =>
    rw [ringRelock_locked h]
    exact ⟨h, rfl, fun hf => absurd (h.symm.trans hf) (by decide), .refl _ s⟩
  | false =>
    rw [ringRelock_unlocked h hu]
    exact relocks_lockTold s

theorem Relocks.withMgmt {s t : State} (h : Relocks s t) (l : List Nat) : Relocks s (withMgmt l t) := ⟨h.locked, h.au, h.told, h.regs⟩

/-- What the lock leaves. -/
theorem Relocks.rd_eq {s t : State} (h : Relocks s t) {off : Nat} (hne : pageBase pgRing + off ∉ lockRegs) :
    rd t pgRing off = rd s pgRing off := h.regs _ hne

/-! ## RING_CTRL (R169) -/

/-- RING_CTRL.ENABLE is set or cleared. -/
def ringOn (on : Bool) (s : State) : State := setFlag pgRing Off.RING_CTRL 0 on s

/-- Every held block is zeroised, and counted. -/
def ringEmptied (s : State) : State := ringZeroise (fun _ => true) s

section
variable (on : Bool) (s : State)

theorem flag_ringOn : flag (ringOn on s) pgRing Off.RING_CTRL 0 = on := flag_setFlag_same _ _ _ _ (by decide)

theorem ringLocked_ringOn : ringLocked (ringOn on s) = ringLocked s := flag_congr (reg_setFlag_ne 0 on (by decide))

theorem regsBut_ringOn {l : List Nat} (m : pageBase pgRing + Off.RING_CTRL ∈ l) : RegsBut l s (ringOn on s) := (RegsBut.refl _ s).setFlag 0 on m

theorem ringOn_au : (ringOn on s).au = s.au := setFlag_au ..
theorem ringOn_tt : (ringOn on s).tt = s.tt := setFlag_tt ..

theorem ringEmptied_eq :
    ringEmptied s = bump pgRing Off.RING_CNT_ZEROISED s.au.ring.length { s with au := { s.au with ring := [] } } := by
  unfold ringEmptied ringZeroise
  simp only [List.filter_true, Bool.not_true, List.filter_false]

theorem ringEmptied_au : (ringEmptied s).au = { s.au with ring := [] } := by rw [ringEmptied_eq, bump_au]
theorem ringEmptied_tt : (ringEmptied s).tt = s.tt := by rw [ringEmptied_eq, bump_tt]

theorem counted_ringEmptied : Counted pgRing Off.RING_CNT_ZEROISED s.au.ring.length s (ringEmptied s) := by
  rw [ringEmptied_eq]
  exact counted_bump pgRing Off.RING_CNT_ZEROISED s.au.ring.length { s with au := { s.au with ring := [] } }

theorem regsBut_ringEmptied {l : List Nat} (m : pageBase pgRing + Off.RING_CNT_ZEROISED ∈ l) : RegsBut l s (ringEmptied s) := by
  rw [ringEmptied_eq]
  exact RegsBut.bump (t := { s with au := { s.au with ring := [] } }) (.of_regs rfl rfl) _ m

end

/-- The ring as RING_CTRL.ENABLE is cleared, before it locks. -/
def ringOff (s : State) : State := ringEmptied (ringOn false s)

theorem unsigned_ringOn {s : State} (on : Bool) (h : Unsigned s) : Unsigned (ringOn on s) :=
  h.of_eq (by rw [ringOn_au]) (ringOn_tt on s)

theorem ringOff_au (s : State) : (ringOff s).au = { s.au with ring := [] } := by rw [ringOff, ringEmptied_au, ringOn_au]

theorem unsigned_ringOff {s : State} (h : Unsigned s) : Unsigned (ringOff s) :=
  h.of_eq (by rw [ringOff_au]) (by rw [ringOff, ringEmptied_tt, ringOn_tt])

theorem ringLocked_ringOff (s : State) : ringLocked (ringOff s) = ringLocked s :=
  (flag_congr (regsBut_ringEmptied _ (.head []) _ (by decide))).trans (ringLocked_ringOn false s)

theorem flag_ringOff (s : State) : flag (ringOff s) pgRing Off.RING_CTRL 0 = false :=
  (flag_congr (regsBut_ringEmptied _ (.head []) _ (by decide))).trans (flag_ringOn false s)

theorem ringCtrl_enable (s : State) : ringCtrl true false s = ringOn true s := rfl
theorem ringCtrl_relock (s : State) : ringCtrl true true s = ringRelock (ringOn true s) := rfl
theorem ringCtrl_disable (s : State) : ringCtrl false false s = ringRelock (ringOff s) := rfl
theorem ringCtrl_disable_relock (s : State) : ringCtrl false true s = ringRelock (ringRelock (ringOff s)) := rfl

theorem Captured.relocks_ringOn {s u t : State} (hu : Captured s u) (h : Relocks (ringOn true u) t) :
    flag t pgRing Off.RING_CTRL 0 = true ∧ t.au = s.au ∧ ringLocked t = true ∧
      (ringLocked s = false → Raised pgRing Evt.RING_RELOCKED t) ∧
      RegsBut ((pageBase pgRing + Off.RING_CTRL) :: hhLost :: lockRegs) s t := by
  refine ⟨(flag_congr (h.rd_eq (by decide))).trans (flag_ringOn true u), h.au.trans ((ringOn_au ..).trans hu.au_eq), h.locked, fun hf => h.told ?_,
    hu.regsBut ((regsBut_ringOn true u (.head _)).trans (h.regs.mono fun _ hm => .tail _ (.tail _ hm))) (.tail _ (.head _))⟩
  rw [ringLocked_ringOn, hu.ringLocked_eq, hf]

theorem Captured.relocks_ringOff {s u t : State} (hu : Captured s u) (h : Relocks (ringOff u) t) :
    flag t pgRing Off.RING_CTRL 0 = false ∧ t.au = { s.au with ring := [] } ∧ ringLocked t = true ∧
      Counted pgRing Off.RING_CNT_ZEROISED s.au.ring.length s t ∧
      (ringLocked s = false → Raised pgRing Evt.RING_RELOCKED t) ∧
      RegsBut ((pageBase pgRing + Off.RING_CTRL) :: hhLost :: (pageBase pgRing + Off.RING_CNT_ZEROISED) :: lockRegs) s t := by
  have hcount : Counted pgRing Off.RING_CNT_ZEROISED s.au.ring.length u t := by
    have hz := counted_ringEmptied (ringOn false u)
    rw [ringOn_au, hu.au_eq] at hz
    unfold Counted at hz ⊢
    rw [h.rd_eq (by decide), ringOff, hz, rd_congr (regsBut_ringOn false u (.head []) _ (by decide))]
  refine ⟨(flag_congr (h.rd_eq (by decide))).trans (flag_ringOff u), ?_, h.locked, hu.counted (by decide) (by decide) hcount,
    fun hf => h.told ?_, hu.regsBut ?_ (.tail _ (.head _))⟩
  · rw [h.au, ringOff_au, hu.au_eq]
  · rw [ringLocked_ringOff, hu.ringLocked_eq, hf]
  · exact ((regsBut_ringOn false u (.head _)).trans (regsBut_ringEmptied _ (.tail _ (.tail _ (.head _))))).trans
      (h.regs.mono fun _ hm => .tail _ (.tail _ (.tail _ hm)))

section
variable {s : State} {w : Func} (h : Admitted s w pgRing Off.RING_CTRL)
include h

theorem runs_ringEnable_on : Runs (.ringEnable w true) s fun t =>
    flag t pgRing Off.RING_CTRL 0 = true ∧ t.au = s.au ∧ RegsBut [pageBase pgRing + Off.RING_CTRL, hhLost] s t := by
  refine runs_of_access (k := ringCtrl true false) rfl h fun u l hu => ?_
  rw [ringCtrl_enable, flag_withMgmt, withMgmt_au]
  exact ⟨flag_ringOn true u, (ringOn_au true u).trans hu.au_eq,
    hu.regsBut (RegsBut.withMgmt l (regsBut_ringOn true u (.head _))) (.tail _ (.head _))⟩

theorem runs_ringEnable_off (hs : Unsigned s) : Runs (.ringEnable w false) s fun t =>
    flag t pgRing Off.RING_CTRL 0 = false ∧ t.au = { s.au with ring := [] } ∧ ringLocked t = true ∧
      Counted pgRing Off.RING_CNT_ZEROISED s.au.ring.length s t ∧
      (ringLocked s = false → Raised pgRing Evt.RING_RELOCKED t) ∧
      RegsBut ((pageBase pgRing + Off.RING_CTRL) :: hhLost :: (pageBase pgRing + Off.RING_CNT_ZEROISED) :: lockRegs) s t := by
  refine runs_of_access (k := ringCtrl false false) rfl h fun u l hu => ?_
  rw [ringCtrl_disable]
  exact hu.relocks_ringOff ((relocks_ringRelock (unsigned_ringOff (hu.unsigned hs))).withMgmt l)

theorem runs_relock_signed {g : SignSt} (hopen : ringLocked s = false) (hr : s.tt.run = true) (hg : s.au.signed = some g)
    (hb : g.beat = s.tt.beats) (hl : g.locked = true) : Runs (.relock w true) s fun t =>
      ringLocked t = false ∧ t.au = s.au ∧ RegsBut [pageBase pgRing + Off.RING_CTRL, hhLost] s t := by
  refine runs_of_access (k := ringCtrl true true) rfl h fun u l hu => ?_
  have e : ringRelock (ringOn true u) = ringOn true u :=
    ringRelock_signed (by rw [ringOn_tt, hu.tt_eq, hr]) (by rw [ringOn_au, hu.au_eq, hg]) (by rw [ringOn_tt, hu.tt_eq, hb]) hl
  rw [ringCtrl_relock, e, ringLocked_withMgmt, withMgmt_au]
  exact ⟨(ringLocked_ringOn true u).trans (hu.ringLocked_eq.trans hopen), (ringOn_au true u).trans hu.au_eq,
    hu.regsBut (RegsBut.withMgmt l (regsBut_ringOn true u (.head _))) (.tail _ (.head _))⟩

theorem runs_relock_on (hs : Unsigned s) : Runs (.relock w true) s fun t =>
    flag t pgRing Off.RING_CTRL 0 = true ∧ t.au = s.au ∧ ringLocked t = true ∧
      (ringLocked s = false → Raised pgRing Evt.RING_RELOCKED t) ∧
      RegsBut ((pageBase pgRing + Off.RING_CTRL) :: hhLost :: lockRegs) s t := by
  refine runs_of_access (k := ringCtrl true true) rfl h fun u l hu => ?_
  rw [ringCtrl_relock]
  exact hu.relocks_ringOn ((relocks_ringRelock (unsigned_ringOn true (hu.unsigned hs))).withMgmt l)

theorem runs_relock_off (hs : Unsigned s) : Runs (.relock w false) s fun t =>
    flag t pgRing Off.RING_CTRL 0 = false ∧ t.au.ring = [] ∧ ringLocked t = true := by
  refine runs_of_access (k := ringCtrl false true) rfl h fun u l hu => ?_
  have hstop := relocks_ringRelock (unsigned_ringOff (hu.unsigned hs))
  rw [ringCtrl_disable_relock, ringRelock_locked hstop.locked]
  obtain ⟨hoff, hau, hlocked, -⟩ := hu.relocks_ringOff (hstop.withMgmt l)
  exact ⟨hoff, congrArg AudioSt.ring hau, hlocked⟩

end

/-- UNLOCK_LIMIT_EXPIRY (R169). -/
theorem runs_unlockLimitExpiry {s : State} (hopen : ringLocked s = false) (hs : Unsigned s)
    (hlimit : s.au.unlockTt + fld s pgRing Off.RING_RELEASE 16 16 * 1000000000 ≤ s.au.endTt) : Runs .unlockLimitExpiry s fun t =>
      ringLocked t = true ∧ t.au = s.au ∧ Raised pgRing Evt.RING_RELOCKED t ∧ RegsBut lockRegs s t := by
  have hr := relocks_ringRelock hs
  have e : execUnlockLimitExpiry s = ringRelock s := if_pos (by rw [hopen, decide_eq_true hlimit]; rfl)
  exact ⟨_, congrArg Host.Outcome.next e, hr.locked, hr.au, hr.told hopen, hr.regs⟩

/-! ## The release port (R168, R173) -/

/-- What a read gives: at the end of the beat, and at once while the beat is stopped. -/
def Answers (s : State) (tenant : Option Nat) (addr : Nat) (P : State → Prop) : Prop :=
  P (releaseAnswer tenant addr s) ∧ (s.tt.run = false → Runs (.releasePortRead tenant addr) s P)

/-- The slot of a block that is not held: a header with NOT_HELD, of which the other fields are free, and zeros. -/
def notHeldSlot (i x y : Nat) : List Byte := leBytes 4 i ++ leBytes 2 0x40 ++ leBytes 2 x ++ leBytes 8 y ++ List.replicate 4080 0

theorem length_leBytes (n v : Nat) : (leBytes n v).length = n := by
  induction n generalizing v with
  | zero => rfl
  | succ n ih => rw [leBytes, List.length_cons, ih]

theorem length_notHeldSlot (i x y : Nat) : (notHeldSlot i x y).length = 4096 := by
  unfold notHeldSlot
  simp only [List.length_append, length_leBytes, List.length_replicate]

theorem notHeldSlot_flags (i x y : Nat) : ((notHeldSlot i x y).drop 4).take 2 = leBytes 2 0x40 := by
  unfold notHeldSlot
  simp only [List.append_assoc]
  rw [List.drop_left' (length_leBytes 4 i), List.take_left' (length_leBytes 2 0x40)]

section
variable {s : State} {tenant : Option Nat} {addr : Nat}

theorem Answers.of_answer {P : State → Prop} (h : P (releaseAnswer tenant addr s)) : Answers s tenant addr P :=
  ⟨h, fun hrun => ⟨_, congrArg Host.Outcome.next (if_neg (by rw [hrun]; decide)), h⟩⟩

theorem releaseAnswer_locked (hear : mayHear s tenant = true) (hl : ringLocked s = true) :
    releaseAnswer tenant addr s = emit (.released none) (bump pgRing Off.RING_CNT_LOCKED_READS 1 s) := by
  unfold releaseAnswer releaseRead
  simp only [hear, hl, Bool.not_true, Bool.false_eq_true, if_false, if_true]

/-- A slot that a queue reads is captured for replay (R24, R558). -/
theorem releaseAnswer_block {b : RingBlk} (hear : mayHear s tenant = true) (hl : ringLocked s = false) (hb : releasedBlock s addr = some b) :
    ∃ u, Captured s u ∧ releaseAnswer tenant addr s = emit (.released (some (slotBytes b))) u := by
  unfold releaseAnswer releaseRead
  simp only [hear, hl, hb, Bool.not_true, Bool.false_eq_true, if_false]
  refine ⟨_, ?_, rfl⟩
  split
  · exact .refl s
  · exact captured_hhCapture ..

theorem releaseAnswer_notHeld (hear : mayHear s tenant = true) (hl : ringLocked s = false) (hb : releasedBlock s addr = none) :
    ∃ i x y, releaseAnswer tenant addr s = emit (.released (some (notHeldSlot i x y))) (fresh s).2 := by
  unfold releaseAnswer releaseRead
  simp only [hear, hl, hb, Bool.not_true, Bool.false_eq_true, if_false]
  exact ⟨_, _, _, rfl⟩

theorem answers_block {b : RingBlk} (hear : mayHear s tenant = true) (hl : ringLocked s = false) (hb : releasedBlock s addr = some b) :
    Answers s tenant addr fun t => t.out = s.out ++ [.released (some (slotBytes b))] ∧ t.au = s.au ∧ RegsBut [hhLost] s t := by
  obtain ⟨u, hu, e⟩ := releaseAnswer_block hear hl hb
  refine .of_answer ?_
  rw [e]
  exact ⟨by rw [emit_out, hu.out_eq], hu.au_eq, hu.regsBut_hhLost.emit _⟩

theorem answers_notHeld (hear : mayHear s tenant = true) (hl : ringLocked s = false) (hb : releasedBlock s addr = none) :
    Answers s tenant addr fun t =>
      (∃ bs, t.out = s.out ++ [.released (some bs)] ∧ bs.length = 4096 ∧ (bs.drop 4).take 2 = leBytes 2 0x40) ∧ RegsBut [] s t := by
  obtain ⟨i, x, y, e⟩ := releaseAnswer_notHeld hear hl hb
  refine .of_answer ?_
  rw [e]
  refine ⟨⟨notHeldSlot i x y, emit_out .., length_notHeldSlot i x y, notHeldSlot_flags i x y⟩, RegsBut.emit ?_ _⟩
  exact .of_regs rfl rfl

theorem answers_locked (hear : mayHear s tenant = true) (hl : ringLocked s = true) :
    Answers s tenant addr fun t => t.out = s.out ++ [.released none] ∧ Counted pgRing Off.RING_CNT_LOCKED_READS 1 s t ∧
      RegsBut [pageBase pgRing + Off.RING_CNT_LOCKED_READS] s t := by
  refine .of_answer ?_
  rw [releaseAnswer_locked hear hl]
  refine ⟨by rw [emit_out, bump_out], ?_, ((RegsBut.refl _ s).bump 1 (.head _)).emit _⟩
  have h := counted_bump pgRing Off.RING_CNT_LOCKED_READS 1 s
  unfold Counted at h ⊢
  rw [rd_emit, h]

theorem runs_releasePortRead_waits (hrun : s.tt.run = true) : Runs (.releasePortRead tenant addr) s fun t =>
    t = { s with au := { s.au with asked := s.au.asked ++ [(tenant, addr)] } } := ⟨_, congrArg Host.Outcome.next (if_pos hrun), rfl⟩

/-- The reads of a beat are answered in their order. -/
theorem readsEnd_cons {rest : List (Option Nat × Nat)} (h : s.au.asked = (tenant, addr) :: rest) : readsEnd s =
    rest.foldl (fun s e => releaseAnswer e.1 e.2 s) (releaseAnswer tenant addr { s with au := { s.au with asked := [] } }) := by
  unfold readsEnd
  rw [h, List.foldl_cons]

end

/-- Settles O27: a relock locks a ring that no sign-off of its beat unlocks again, and a read is one of the cases of `releaseRead`. -/
theorem ring : Obligations.Ring := by
  unfold Obligations.Ring
  intro ctrl alone lock answers
  exact ⟨fun _ _ h => runs_ringEnable_on h, fun _ _ h hs => runs_ringEnable_off h hs,
    fun _ _ _ h hopen hr hg hb hl => runs_relock_signed h hopen hr hg hb hl, fun _ _ h hs => runs_relock_on h hs,
    fun _ _ h hs => runs_relock_off h hs, fun _ hopen hs hlimit => runs_unlockLimitExpiry hopen hs hlimit,
    fun _ _ _ _ hear hl hb => answers_block hear hl hb, fun _ _ _ hear hl hb => answers_notHeld hear hl hb,
    fun _ _ _ hrun => runs_releasePortRead_waits hrun, fun _ _ _ _ h => readsEnd_cons h, fun _ _ _ hear hl => answers_locked hear hl⟩

end Sys2Proof.Machine
end

section
/-! # Input groups and beamformers: RESYNC and bank switches (R156, R159) -/
namespace Sys2Proof.Machine

theorem mem_sput_self {α : Type} (l : List (Nat × α)) (a : Nat) (x : α) : (a, x) ∈ sput l a x := by
  induction l with
  | nil => exact .head _
  | cons e rest ih =>
    unfold sput
    split
    · exact .head _
    · split
      · exact .head _
      · exact .tail _ ih

/-! ## RESYNC (R156) -/

/-- RESYNC of a group in the acoustic front end's state: the refill begins, the block under way is interrupted, the detectors start again. -/
def resynced (g : Nat) (s : State) : AudioSt :=
  { s.au with refill := sput s.au.refill g (tnow s), interrupted := sset 0 s.au.interrupted g 2,
              det := s.au.det.filter fun e => e.1 / 16 != g }

theorem resyncGroup_eq (g : Nat) (s : State) :
    resyncGroup g s = bump (pgAin g) Off.AIN_CNT_RESYNC 1 (wr (pgBf g) Off.WD_HOT 0 { s with au := resynced g s }) := rfl

section
variable {s : State} {g : Nat}

theorem runs_resync {d : DealSt} (h : DealDue s (pgAin g) d 2) : Runs (.resync g) s fun t =>
    (g, tnow s) ∈ t.au.refill ∧ sget 0 t.au.interrupted g = 2 ∧ t.au.hist = s.au.hist ∧ (∀ e ∈ t.au.det, e.1 / 16 ≠ g) ∧
      rd t (pgBf g) Off.WD_HOT = 0 ∧ Counted (pgAin g) Off.AIN_CNT_RESYNC 1 s t ∧ Raised (pgAin g) 0 t ∧
      RegsBut ((pageBase (pgAin g) + Off.AIN_CNT_RESYNC) :: (pageBase (pgBf g) + Off.WD_HOT) :: dealRegs (pgAin g)) s t := by
  have e : execResync g s = resyncGroup g (launched (pgAin g) s) := dealOn_due h
  have hnow : tnow (launched (pgAin g) s) = tnow s := by unfold tnow; rw [launched_tt]
  have hau : (execResync g s).au = resynced g (launched (pgAin g) s) := by rw [e, resyncGroup_eq, bump_au, wr_au]
  have hregs : RegsBut ((pageBase (pgAin g) + Off.AIN_CNT_RESYNC) :: (pageBase (pgBf g) + Off.WD_HOT) :: dealRegs (pgAin g)) s
      (launched (pgAin g) s) := (regsBut_launched _ _).mono fun _ hm => .tail _ (.tail _ hm)
  have hreset : RegsBut [pageBase (pgBf g) + Off.WD_HOT] (launched (pgAin g) s)
      (wr (pgBf g) Off.WD_HOT 0 { launched (pgAin g) s with au := resynced g (launched (pgAin g) s) }) :=
    RegsBut.wr (t := { launched (pgAin g) s with au := resynced g (launched (pgAin g) s) }) (.of_regs rfl rfl) 0 (.head _)
  refine ⟨execResync g s, rfl, ?_, ?_, ?_, ?_, ?_, ?_, ?_, ?_⟩
  · rw [hau, ← hnow]
    exact mem_sput_self ..
  · rw [hau]
    exact (sget_sset 0 _ g g 2).trans (if_pos rfl)
  · rw [hau, resynced, launched_au]
  · rw [hau]
    intro x hx
    exact bne_iff_ne.mp (List.mem_filter.mp hx).2
  · rw [e, resyncGroup_eq, rd_congr (reg_bump_ne 1 (addr_ne (by decide) (by decide) (by decide))), rd_wr_same]
  · have hcount := counted_bump (pgAin g) Off.AIN_CNT_RESYNC 1
      (wr (pgBf g) Off.WD_HOT 0 { launched (pgAin g) s with au := resynced g (launched (pgAin g) s) })
    have hother : pageBase (pgAin g) + Off.AIN_CNT_RESYNC ∉ dealRegs (pgAin g) := by
      simp only [dealRegs, evtOf, List.mem_cons, Nat.add_left_cancel_iff, List.not_mem_nil]
      decide
    have hhot : pageBase (pgAin g) + Off.AIN_CNT_RESYNC ∉ [pageBase (pgBf g) + Off.WD_HOT] :=
      fun hm => absurd (List.mem_singleton.mp hm) (addr_ne (by decide) (by decide) (by decide))
    unfold Counted at hcount ⊢
    rw [rd_congr (hreset _ hhot), rd_congr (regsBut_launched _ s _ hother)] at hcount
    rw [e, resyncGroup_eq, hcount]
  · rw [e, resyncGroup_eq]
    refine (raised_launched (pgAin g) s).of_reg ((reg_bump_ne 1 (addr_ne (by decide) (by decide) (by decide))).trans (hreset _ ?_))
    exact fun hm => absurd (List.mem_singleton.mp hm) (addr_ne (by decide) (by decide) (by decide))
  · rw [e, resyncGroup_eq]
    exact (hregs.trans (hreset.mono fun _ hm => .tail _ (List.mem_singleton.mp hm ▸ .head _))).bump 1 (.head _)

/-- RESYNC_DONE: the filters have refilled, twice the group delay after the RESYNC. -/
theorem runs_resyncDone {e : Nat × Nat} (he : (s.au.refill.find? fun e => e.1 == g) = some e)
    (hover : tnow s < e.2 ∨ e.2 + 2 * groupDelay s g ≤ tnow s) : Runs (.resyncDone g) s fun t =>
      (∀ x ∈ t.au.refill, x.1 ≠ g) ∧ Raised (pgAin g) Evt.AIN_RESYNC_DONE t ∧ RegsBut [evtOf (pgAin g)] s t := by
  have hexec : execResyncDone g s =
      raise (pgAin g) Evt.AIN_RESYNC_DONE { s with au := { s.au with refill := s.au.refill.filter fun e => e.1 != g } } := by
    unfold execResyncDone
    rw [he]
    exact if_neg (by omega)
  refine ⟨execResyncDone g s, rfl, ?_, ?_, ?_⟩
  · rw [hexec, raise_au]
    exact fun x hx => bne_iff_ne.mp (List.mem_filter.mp hx).2
  · rw [hexec]
    exact flag_raise_same _ _ (show 5 ≤ 5 by decide) (by decide)
  · rw [hexec]
    exact RegsBut.raise (t := { s with au := _ }) (.of_regs rfl rfl) _ (.head _)

/-! ## Requests of a bank switch (R159) -/

theorem bankRequest_au (g : Nat) (s : State) : (bankRequest g s).au = { s.au with bankPend := g :: s.au.bankPend.filter (· != g) } := by
  rw [bankRequest, setFlag_au]

theorem mem_bankRequest (g : Nat) (s : State) : g ∈ (bankRequest g s).au.bankPend := by
  rw [bankRequest_au]
  exact .head _

theorem flag_bankRequest (g : Nat) (s : State) : flag (bankRequest g s) (pgBf g) Off.BF_BANK 1 = true :=
  flag_setFlag_same _ _ _ _ (by decide)

theorem fld_bankRequest (g : Nat) (s : State) : fld (bankRequest g s) (pgBf g) Off.BF_BANK 0 1 = fld s (pgBf g) Off.BF_BANK 0 1 :=
  fld_setFlag_below _ _ (by decide) (by decide)

theorem regsBut_bankRequest (g : Nat) (s : State) : RegsBut [pageBase (pgBf g) + Off.BF_BANK] s (bankRequest g s) :=
  RegsBut.setFlag (t := { s with au := _ }) (.of_regs rfl rfl) 1 true (.head _)

theorem runs_bankSwitch {d : DealSt} (h : DealDue s (pgBf g) d 2) : Runs (.bankSwitch g) s fun t =>
    g ∈ t.au.bankPend ∧ flag t (pgBf g) Off.BF_BANK 1 = true ∧ Raised (pgBf g) 0 t ∧
      RegsBut ((pageBase (pgBf g) + Off.BF_BANK) :: dealRegs (pgBf g)) s t := by
  have e : execBankSwitch g s = bankRequest g (launched (pgBf g) s) := dealOn_due h
  have hregs := regsBut_bankRequest g (launched (pgBf g) s)
  refine ⟨_, congrArg Host.Outcome.next e, mem_bankRequest .., flag_bankRequest .., (raised_launched _ s).of_reg (hregs _ fun hm => ?_), ?_⟩
  · exact absurd (List.mem_singleton.mp hm) (addr_ne (by decide) (by decide) (by decide))
  · exact ((regsBut_launched _ s).mono fun _ => .tail _).trans (hregs.mono fun _ hm => List.mem_singleton.mp hm ▸ .head _)

theorem runs_switch {w : Func} (h : Admitted s w (pgBf g) Off.BF_BANK) : Runs (.switch w g) s fun t =>
    g ∈ t.au.bankPend ∧ flag t (pgBf g) Off.BF_BANK 1 = true ∧
      fld t (pgBf g) Off.BF_BANK 0 1 = fld s (pgBf g) Off.BF_BANK 0 1 ∧ RegsBut [pageBase (pgBf g) + Off.BF_BANK, hhLost] s t := by
  refine runs_of_access (k := bankRequest g) rfl h fun u l hu => ?_
  rw [withMgmt_au, flag_withMgmt, fld_withMgmt]
  exact ⟨mem_bankRequest g u, flag_bankRequest g u, (fld_bankRequest g u).trans (hu.fld_eq 0 1 (by decide) (by decide)),
    hu.regsBut (RegsBut.withMgmt l ((regsBut_bankRequest g u).mono fun _ hm => List.mem_singleton.mp hm ▸ .head _)) (.tail _ (.head _))⟩

end

end Sys2Proof.Machine
end

section
/-! # The end of an acoustic block: what its stages leave (R153–R164, R170–R173, R179) -/
namespace Sys2Proof.Machine

/-! ## A wake event leaves the upper pages -/

section
variable (T : Nat) (c : PwrCmdSt) (s : State)

theorem ModeKept.withHead {s t : State} (h : ModeKept s t) (x : HeadSt) : ModeKept s { t with head := x } := h.trans (.of_regs rfl rfl)

theorem modeKept_takeBack : ModeKept s (takeBack c s) := by
  have hback : ModeKept s (holdBack c s) := (((ModeKept.refl s).wr _ (by decide) (by decide)).withHead _).wr _ (by decide) (by decide)
  have hheld : ModeKept s (if pwrPhase s = 2 then holdBack c s else s) := .ite hback (.refl s)
  rw [takeBack_eq]
  exact ((hheld.withPwr _).wr _ (by decide) (by decide)).wr _ (by decide) (by decide)

theorem modeKept_wakeFirst : ModeKept s (wakeFirst T c s) := by
  have hacts := modeKept_wakeActs T s
  exact .ite (.ite ((modeKept_takeBack c s).trans (modeKept_wakeActs T _)) hacts) (.ite (hacts.wr _ (by decide) (by decide)) hacts)

theorem upperKept_wakeEvent (idx : Nat) : UpperKept s (wakeEvent idx s) := by
  have hrec := modeKept_wakeRecord s idx
  by_cases hw : awake s = true ∧ wakeCounts idx (pwrState s) = true
  · rcases wakeEvent_cases hw.1 hw.2 with e | ⟨c, e⟩ <;> rw [e]
    · exact (hrec.trans (modeKept_wakeActs _ _)).upper
    · exact (hrec.trans (modeKept_wakeFirst _ c _)).upper
  · rw [wakeEvent_idle hw]
    exact fun _ _ => rfl

end

/-! ## Registers that the stages of a block's end leave -/

/-- What a block's end shows of a group and of the ring, and what the ring's capacity rests on. -/
def blockRegs : List Nat :=
  [pageBase (pgAin 0) + Off.AIN_CNT_CLIP, pageBase (pgAin 1) + Off.AIN_CNT_CLIP, pageBase (pgAin 0) + Off.AIN_CFG,
    pageBase (pgBf 0) + Off.BF_BANK, pageBase (pgBf 1) + Off.BF_BANK, pageBase (pgBf 0) + Off.BF_CNT_BANK_SWITCHES,
    pageBase (pgBf 1) + Off.BF_CNT_BANK_SWITCHES, pageBase pgRing + Off.RING_CFG, pageBase pgRing + Off.RING_RAW_SEL,
    pageBase pgRing + Off.RING_CNT_BLOCKS]

theorem clip_mem : ∀ g < 2, pageBase (pgAin g) + Off.AIN_CNT_CLIP ∈ blockRegs := by decide
theorem bank_mem : ∀ g < 2, pageBase (pgBf g) + Off.BF_BANK ∈ blockRegs := by decide
theorem switches_mem : ∀ g < 2, pageBase (pgBf g) + Off.BF_CNT_BANK_SWITCHES ∈ blockRegs := by decide

/-- An event of a page stays when an event is raised, of the page or of another. -/
theorem Raised.raise {p : Page} {b : Nat} {s : State} (h : Raised p b s) (q : Page) {c : Nat} (hc : c < 32) : Raised p b (raise q c s) := by
  by_cases e : evtOf p = evtOf q
  · unfold Raised flag fld rd at *
    rw [show pageBase p + Off.EVT_RAW = pageBase q + Off.EVT_RAW from e] at h ⊢
    exact flag_raise_mono q c b hc h
  · exact h.of_reg (reg_raise_ne e)

/-- From s to t the listed registers have kept their values, and no event of an input group is cleared. -/
structure BlockKept (s t : State) : Prop where
  regs : ∀ a ∈ blockRegs, reg t a = reg s a
  raised : ∀ g b, Raised (pgAin g) b s → Raised (pgAin g) b t

namespace BlockKept
variable {s t u : State}

theorem refl (s : State) : BlockKept s s := ⟨fun _ _ => rfl, fun _ _ h => h⟩

theorem trans (h : BlockKept s t) (h' : BlockKept t u) : BlockKept s u :=
  ⟨fun a ha => (h'.regs a ha).trans (h.regs a ha), fun g b hr => h'.raised g b (h.raised g b hr)⟩

/-- A state with the same register file. -/
theorem of_regs (hp : t.part = s.part) (hr : t.regs = s.regs) : BlockKept s t :=
  ⟨fun a _ => reg_of_regs hp hr a, fun _ _ h => h.of_reg (reg_of_regs hp hr _)⟩

theorem of_upper (h : UpperKept s t) : BlockKept s t :=
  ⟨fun a ha => h a ((show ∀ a ∈ blockRegs, 0x100000 ≤ a by decide) a ha), fun g _ hr => hr.of_reg (h.rd_ain g Off.EVT_RAW)⟩

theorem ite {c : Prop} [Decidable c] (ht : BlockKept s t) (hu : BlockKept s u) : BlockKept s (if c then t else u) := by
  split
  · exact ht
  · exact hu

theorem foldl {β : Type} {f : State → β → State} {l : List β} (hf : ∀ b ∈ l, ∀ s, BlockKept s (f s b)) (s : State) :
    BlockKept s (l.foldl f s) := by
  induction l generalizing s with
  | nil => exact .refl s
  | cons b r ih => exact (hf b (.head _) s).trans (ih (fun c hc => hf c (.tail _ hc)) _)

section
variable (h : BlockKept s t)
include h

theorem wr {p : Page} {off : Nat} (v : Word) (ho : off < 0x1000) (he : off ≠ Off.EVT_RAW) (hm : pageBase p + off ∉ blockRegs) :
    BlockKept s (wr p off v t) :=
  h.trans ⟨fun a ha => reg_wr_ne v fun e => hm (e ▸ ha), fun _ _ hr => hr.of_reg (reg_wr_ne v (addr_ne (by decide) ho he.symm))⟩

theorem bump {p : Page} {off : Nat} (k : Nat) (ho : off < 0x1000) (he : off ≠ Off.EVT_RAW) (hm : pageBase p + off ∉ blockRegs) :
    BlockKept s (bump p off k t) := (h.wr _ ho he hm).trans (.of_regs rfl rfl)

theorem raise (p : Page) {b : Nat} (hb : b < 32) : BlockKept s (raise p b t) := by
  refine h.trans ⟨fun a ha => reg_raise_ne fun e => ?_, fun _ _ hr => hr.raise p hb⟩
  have hoff := (show ∀ a ∈ blockRegs, a % 0x1000 ≠ Off.EVT_RAW by decide) a ha
  have hbase := pageBase_mod p
  have hevt : Off.EVT_RAW = 0x10 := rfl
  omega

end

end BlockKept

/-! ## The detectors (R160, R161) -/

theorem wdState_not_mem : ∀ g < 2, ∀ k < 16, pageBase (pgBf g) + (Off.WD_STATE + 4 * k) ∉ blockRegs := by decide
theorem wdHot_not_mem : ∀ g < 2, pageBase (pgBf g) + Off.WD_HOT ∉ blockRegs := by decide
theorem hits_not_mem : ∀ g < 2, pageBase (pgBf g) + Off.WD_CNT_HITS ∉ blockRegs := by decide
theorem blocks_not_mem : ∀ g < 2, pageBase (pgBf g) + Off.WD_CNT_BLOCKS ∉ blockRegs := by decide

/-- From s to t the acoustic front end has kept all but its detectors. -/
def DetOnly (s t : State) : Prop := t.au = { s.au with det := t.au.det }

theorem DetOnly.refl (s : State) : DetOnly s s := rfl

theorem DetOnly.trans {s t u : State} (h : DetOnly s t) (h' : DetOnly t u) : DetOnly s u := by
  unfold DetOnly at *
  rw [h', h]

theorem DetOnly.of_au {s t : State} (h : t.au = s.au) : DetOnly s t := by unfold DetOnly; rw [h]

theorem DetOnly.foldl {β : Type} {f : State → β → State} (hf : ∀ s b, DetOnly s (f s b)) (l : List β) (s : State) :
    DetOnly s (l.foldl f s) := by
  induction l generalizing s with
  | nil => exact .refl s
  | cons b r ih => exact (hf s b).trans (ih _)

section
variable {g : Nat} (hg : g < 2)
include hg

theorem blockKept_detShow {k : Nat} (hk : k < 16) (d : DetSt) (s : State) : BlockKept s (detShow g k d s) :=
  ((BlockKept.refl s).wr _ (by unfold Off.WD_STATE; omega) (by unfold Off.WD_STATE Off.EVT_RAW; omega) (wdState_not_mem g hg k hk)).wr _
    (by decide) (by decide) (wdHot_not_mem g hg)

theorem blockKept_detHit (s : State) : BlockKept s (detHit g s) := by
  have hwake (u : State) : BlockKept u (wakeEvent 0 u) := .of_upper (upperKept_wakeEvent u 0)
  have hmode (u : State) : BlockKept u (regUpdate u) :=
    .of_upper ((regsBut_regUpdate (l := [pageBase pgPower + Off.AON_REG_STATUS]) u (.head _)).upperKept (by decide))
  unfold detHit
  extract_lets u v w
  have hu : BlockKept s u := ((BlockKept.refl s).raise _ (by decide)).bump 1 (by decide) (by decide) (hits_not_mem g hg)
  have hv : BlockKept u w := by
    have hpwr (x : PowerSt) : BlockKept u { u with pwr := x } := .of_regs rfl rfl
    exact .ite (((hpwr _).bump 1 (by decide) (by decide) (by decide)).trans (hmode _)) (.refl u)
  exact .ite ((hu.trans hv).trans (hwake w)) hu

theorem blockKept_detUpdate (signal : Nat → List Int) (s : State) : BlockKept s (detUpdate g signal s) := by
  unfold detUpdate
  extract_lets was beams rise u v w
  have hu : BlockKept s u := by
    refine .foldl (fun k hk t => ?_) s
    have hk : k < 16 := List.mem_range.mp (List.mem_filter.mp hk).1
    have hset (d : DetSt) : BlockKept t (detShow g k d (setDet (16 * g + k) d t)) :=
      BlockKept.trans (t := setDet (16 * g + k) d t) (.of_regs rfl rfl) (blockKept_detShow hg hk d _)
    exact .ite ((hset _).trans (blockKept_detHit hg _)) (hset _)
  have hv : BlockKept s v := hu.bump 1 (by decide) (by decide) (blocks_not_mem g hg)
  have hw : BlockKept s w := .ite (hv.raise _ (by decide)) hv
  exact .ite (hw.raise _ (by decide)) hw

end

theorem detHit_au (g : Nat) (s : State) : (detHit g s).au = s.au := (keeps_detHit (N := 0x3e) rfl g s (.refl _ s)).same .au rfl

theorem detOnly_detUpdate (g : Nat) (signal : Nat → List Int) (s : State) : DetOnly s (detUpdate g signal s) := by
  unfold detUpdate
  extract_lets was beams rise u v w
  have hu : DetOnly s u := by
    refine .foldl (fun t k => ?_) _ s
    have hset (d : DetSt) : DetOnly t (detShow g k d (setDet (16 * g + k) d t)) := rfl
    dsimp only
    split
    · exact (hset _).trans (.of_au (detHit_au ..))
    · exact hset _
  have hv : DetOnly s v := hu.trans (.of_au (bump_au ..))
  have hw : DetOnly s w := by
    unfold w
    split
    · exact hv.trans (.of_au (raise_au ..))
    · exact hv
  split
  · exact hw.trans (.of_au (raise_au ..))
  · exact hw

/-! ## The canceller (R179) -/

/-- No more bits of a 16-bit field are 1 than it has. -/
theorem popcount_le (k : Nat) {v : Nat} (hv : v < 2 ^ 16) : popcount k v ≤ 16 := by
  unfold popcount
  have hsub : ((List.range k).filter fun i => bitAt v i) ⊆ List.range 16 := fun i hi => by
    have hbit := (List.mem_filter.mp hi).2
    rw [bitAt_eq_testBit] at hbit
    refine List.mem_range.mpr (Nat.lt_of_not_le fun h => ?_)
    rw [Nat.testBit_lt_two_pow (lt_of_lt_of_le hv (Nat.pow_le_pow_right (by decide) h))] at hbit
    exact Bool.false_ne_true hbit
  simpa only [List.length_range] using ((List.nodup_range.filter _).subperm hsub).length_le

theorem erle_not_mem : ∀ slot ≤ 16, pageBase (pgVo 0) + (Off.AEC_ERLE + 4 * slot) ∉ blockRegs := by decide

theorem blockKept_aecTrack {slot : Nat} (hslot : slot ≤ 16) (k : Nat) (input output : List Int) (s : State) :
    BlockKept s (aecTrack k slot input output s) := by
  unfold aecTrack
  extract_lets f u d overs
  have hf : BlockKept s f.2 := .of_regs rfl rfl
  have hu : BlockKept s u :=
    hf.wr _ (by unfold Off.AEC_ERLE; omega) (by unfold Off.AEC_ERLE Off.EVT_RAW; omega) (erle_not_mem slot hslot)
  have hset (x : DetSt) : BlockKept s (setDet k x u) := hu.trans (.of_regs rfl rfl)
  exact .ite (((hset _).bump 1 (by decide) (by decide) (by decide)).raise _ (by decide)) (hset _)

theorem detOnly_aecTrack (k slot : Nat) (input output : List Int) (s : State) : DetOnly s (aecTrack k slot input output s) := by
  unfold aecTrack
  extract_lets f u d overs
  have hset (x : DetSt) : DetOnly s (setDet k x u) := rfl
  split
  · exact (hset _).trans (.of_au ((raise_au ..).trans (bump_au ..)))
  · exact hset _

/-! ## The samples are taken (R153) -/

/-- Counting list by list counts the whole. -/
theorem foldl_add_filter_length {α : Type} (p : α → Bool) (l : List (List α)) (n : Nat) :
    l.foldl (fun n xs => n + (xs.filter p).length) n = n + (l.flatten.filter p).length := by
  induction l generalizing n with
  | nil => rfl
  | cons x rest ih => rw [List.foldl_cons, ih, List.flatten_cons, List.filter_append, List.length_append, Nat.add_assoc]

/-- How many samples of a block of a group are clipped. -/
def clipped (s : State) (g formed : Nat) (pcm : List (List Int)) : Nat :=
  (((List.range 32).flatMap fun c => channelRaw s g c formed pcm).filter fun x => satBits 24 x != x).length

/-- The group's clipped samples are counted, and told where there are any. -/
def clipsTold (g n : Nat) (s : State) : State :=
  let u := bump (pgAin g) Off.AIN_CNT_CLIP n s
  if n = 0 then u else raise (pgAin g) Evt.AIN_CLIP u

theorem captureBlock_eq (g formed : Nat) (pcm : List (List Int)) (s : State) : ∃ hist line,
    (captureBlock g formed pcm s).2 = clipsTold g (clipped s g formed pcm) { s with au := { s.au with hist := hist, line := line } } := by
  have hclips : ((List.range 32).map fun c => channelRaw s g c formed pcm).foldl
      (fun n xs => n + (xs.filter fun x => satBits 24 x != x).length) 0 = clipped s g formed pcm := by
    rw [foldl_add_filter_length, Nat.zero_add, clipped, List.flatMap_def]
  unfold captureBlock
  dsimp only
  rw [hclips]
  exact ⟨_, _, rfl⟩

/-- A group's block of samples has been taken, with the free values that the canceller may use. -/
def blockTaken (g formed : Nat) (pcm : List (List Int)) (s : State) : State :=
  let u := (captureBlock g formed pcm s).2
  { u with freeIdx := u.freeIdx + 32 }

section
variable (g formed : Nat) (pcm : List (List Int)) (s : State)

theorem regsBut_blockTaken : RegsBut [pageBase (pgAin g) + Off.AIN_CNT_CLIP, evtOf (pgAin g)] s (blockTaken g formed pcm s) := by
  obtain ⟨hist, line, e⟩ := captureBlock_eq g formed pcm s
  have hau : RegsBut [pageBase (pgAin g) + Off.AIN_CNT_CLIP, evtOf (pgAin g)] s { s with au := { s.au with hist := hist, line := line } } :=
    .of_regs rfl rfl
  have hcount := hau.bump (p := pgAin g) (off := Off.AIN_CNT_CLIP) (clipped s g formed pcm) (.head _)
  have htaken : RegsBut [pageBase (pgAin g) + Off.AIN_CNT_CLIP, evtOf (pgAin g)] s (captureBlock g formed pcm s).2 := by
    rw [e]
    exact .ite hcount (hcount.raise _ (.tail _ (.head _)))
  exact htaken

theorem blockTaken_au : ∃ hist line, (blockTaken g formed pcm s).au = { s.au with hist := hist, line := line } := by
  obtain ⟨hist, line, e⟩ := captureBlock_eq g formed pcm s
  have hau : (captureBlock g formed pcm s).2.au = { s.au with hist := hist, line := line } := by
    rw [e]
    unfold clipsTold
    dsimp only
    split
    · rw [bump_au]
    · rw [raise_au, bump_au]
  exact ⟨hist, line, hau⟩

theorem blockTaken_tt : (blockTaken g formed pcm s).tt = s.tt :=
  (keeps_captureBlock (N := 0x80a) rfl g formed pcm s (.refl _ s)).same .tt rfl

theorem counted_blockTaken : Counted (pgAin g) Off.AIN_CNT_CLIP (clipped s g formed pcm) s (blockTaken g formed pcm s) := by
  obtain ⟨hist, line, e⟩ := captureBlock_eq g formed pcm s
  have hcount := counted_bump (pgAin g) Off.AIN_CNT_CLIP (clipped s g formed pcm) { s with au := { s.au with hist := hist, line := line } }
  have htold : rd (captureBlock g formed pcm s).2 (pgAin g) Off.AIN_CNT_CLIP =
      rd (bump (pgAin g) Off.AIN_CNT_CLIP (clipped s g formed pcm) { s with au := { s.au with hist := hist, line := line } }) (pgAin g)
        Off.AIN_CNT_CLIP := by
    rw [e]
    unfold clipsTold
    dsimp only
    split
    · rfl
    · exact reg_raise_ne (addr_ne (by decide) (by decide) (by decide))
  unfold Counted at hcount ⊢
  rw [← htold] at hcount
  exact hcount

theorem raised_blockTaken (h : clipped s g formed pcm ≠ 0) : Raised (pgAin g) Evt.AIN_CLIP (blockTaken g formed pcm s) := by
  obtain ⟨hist, line, e⟩ := captureBlock_eq g formed pcm s
  have htold : Raised (pgAin g) Evt.AIN_CLIP (captureBlock g formed pcm s).2 := by
    rw [e]
    unfold clipsTold
    dsimp only
    rw [if_neg h]
    exact flag_raise_same _ _ (show 4 ≤ 5 by decide) (by decide)
  exact htold

end

/-! ## The block is stored (R163, R168) -/

/-- A list of blocks ends with one that meets a condition. -/
def EndsWith (P : RingBlk → Prop) (l : List RingBlk) : Prop := ∃ l' b, l = l' ++ [b] ∧ P b

namespace EndsWith
variable {P : RingBlk → Prop} {l : List RingBlk}

theorem getLast (h : EndsWith P l) : ∃ b, l.getLast? = some b ∧ P b := by
  obtain ⟨l', b, rfl, hb⟩ := h
  exact ⟨b, List.getLast?_concat, hb⟩

theorem map (h : EndsWith P l) {f : RingBlk → RingBlk} (hf : ∀ b, P b → P (f b)) : EndsWith P (l.map f) := by
  obtain ⟨l', b, rfl, hb⟩ := h
  exact ⟨l'.map f, f b, by rw [List.map_append, List.map_cons, List.map_nil], hf b hb⟩

theorem filter (h : EndsWith P l) {f : RingBlk → Bool} (hf : ∀ b, P b → f b = true) : EndsWith P (l.filter f) := by
  obtain ⟨l', b, rfl, hb⟩ := h
  exact ⟨l'.filter f, b, by rw [List.filter_append, List.filter_cons_of_pos (hf b hb), List.filter_nil], hb⟩

end EndsWith

/-- Of a list that has grown by a block, the newest n hold that block. -/
theorem endsWith_newest {P : RingBlk → Prop} {l : List RingBlk} {b : RingBlk} {n : Nat} (hn : 1 ≤ n) (hb : P b) :
    EndsWith P ((l ++ [b]).drop ((l ++ [b]).length - n)) := by
  refine ⟨l.drop ((l ++ [b]).length - n), b, List.drop_append_of_le_length ?_, hb⟩
  rw [List.length_append, List.length_singleton]
  omega

theorem length_newest {α : Type} (l : List α) (n : Nat) : (l.drop (l.length - n)).length ≤ n := by
  rw [List.length_drop]
  omega

/-- A block with this index, this number of tracks and this time. -/
def RingBlk.Has (idx tracks time : Nat) (b : RingBlk) : Prop := b.idx = idx ∧ b.tracks = tracks ∧ b.time = time

/-- A block has been written into the ring, over the late planes of the one before. -/
def blockRung (flags time : Nat) (planes : List (List Int)) (late : List (Nat × Nat × List Int)) (s : State) : State :=
  let u := ringStore flags time planes (lateWrite s)
  { u with au := { u.au with late := late } }

section
variable (flags time : Nat) (planes : List (List Int)) (late : List (Nat × Nat × List Int)) (s : State)

theorem regsBut_blockRung : RegsBut [pageBase pgRing + Off.RING_CNT_BLOCKS] s (blockRung flags time planes late s) := by
  unfold blockRung ringStore
  extract_lets b held first v u
  have hv : RegsBut [pageBase pgRing + Off.RING_CNT_BLOCKS] s { lateWrite s with au := v } := .of_regs rfl rfl
  exact hv.bump 1 (.head _)

theorem counted_blockRung : Counted pgRing Off.RING_CNT_BLOCKS 1 s (blockRung flags time planes late s) := by
  unfold blockRung ringStore
  extract_lets b held first v u
  exact counted_bump pgRing Off.RING_CNT_BLOCKS 1 { lateWrite s with au := v }

theorem blockRung_ring : ∃ l b, b.Has s.au.writeIdx planes.length time ∧
    (blockRung flags time planes late s).au.ring = (l ++ [b]).drop ((l ++ [b]).length - ringCap s) :=
  ⟨_, _, ⟨rfl, rfl, rfl⟩, rfl⟩

theorem blockRung_au : ∃ ring relTime, (blockRung flags time planes late s).au =
    { s.au with ring := ring, writeIdx := (s.au.writeIdx + 1) % 2 ^ 32, relTime := relTime, late := late } := ⟨_, _, rfl⟩

end

section
variable (flags time : Nat) (planes : List (List Int)) (s : State)

theorem regsBut_liveStore (l : List Nat) : RegsBut l s (liveStore flags time planes s) := .of_regs rfl rfl

theorem liveStore_au : ∃ live, (liveStore flags time planes s).au = { s.au with live := live, liveIdx := (s.au.liveIdx + 1) % 2 ^ 32 } :=
  ⟨_, rfl⟩

theorem liveStore_live : ∃ l b, b.Has s.au.liveIdx planes.length time ∧
    (liveStore flags time planes s).au.live = (l ++ [b]).drop ((l ++ [b]).length - 64) := ⟨_, _, ⟨rfl, rfl, rfl⟩, rfl⟩

end

/-- The block goes into the ring while it records group 0, or into group 1's live blocks while beams of it are named (R163, R168). -/
def blockStored (g flags time : Nat) (planes live : List (List Int)) (late : List (Nat × Nat × List Int)) (s : State) : State :=
  if g == 0 && flag s pgRing Off.RING_CTRL 0 then blockRung flags time planes late s
  else if g = 1 ∧ flag s (pgBf g) Off.CTRL 0 = true ∧ fld s (pgBf 1) Off.BF_LIVE 0 16 ≠ 0 then liveStore flags time live s
  else s

/-! ## Detectors, canceller and HOT of a block -/

/-- The detectors and the canceller take the block, and its record takes HOT (R160, R168, R179). -/
def blockHeard (g : Nat) (detects : Bool) (signal : Nat → List Int) (aec : List Nat) (raw clean : Nat → List Int) (s : State) : State :=
  let u := if detects then detUpdate g signal s else s
  markHot g (if domOn u 3 then aec.foldl (fun s k => aecTrack k (erleSlot s k) (raw k) (clean k) s) u else u)

/-- The latest block's record takes HOT. -/
def hotMarked (i : Nat) (b : RingBlk) : RingBlk := if b.idx = i ∧ bitAt b.flags 4 = false then { b with flags := b.flags + 16 } else b

theorem hotMarked_has {idx tracks time : Nat} (i : Nat) (b : RingBlk) (h : b.Has idx tracks time) : (hotMarked i b).Has idx tracks time := by
  unfold hotMarked
  split
  · exact h
  · exact h

/-- A list of blocks is as it was, or one of them has taken HOT. -/
def Marked (l l' : List RingBlk) : Prop := l' = l ∨ ∃ i, l' = l.map (hotMarked i)

theorem Marked.endsWith {l l' : List RingBlk} (h : Marked l l') {idx tracks time : Nat} (he : EndsWith (RingBlk.Has idx tracks time) l) :
    EndsWith (RingBlk.Has idx tracks time) l' := by
  rcases h with rfl | ⟨i, rfl⟩
  · exact he
  · exact he.map (hotMarked_has i)

theorem Marked.length_eq {l l' : List RingBlk} (h : Marked l l') : l'.length = l.length := by
  rcases h with rfl | ⟨i, rfl⟩
  · rfl
  · exact List.length_map ..

theorem markHot_au (g : Nat) (s : State) : ∃ ring live, (markHot g s).au = { s.au with ring := ring, live := live } ∧
    Marked s.au.ring ring ∧ Marked s.au.live live ∧ (g ≠ 0 → ring = s.au.ring) := by
  unfold markHot
  dsimp only
  split
  · exact ⟨_, _, rfl, .inl rfl, .inl rfl, fun _ => rfl⟩
  · split
    · next hg => exact ⟨_, _, rfl, .inr ⟨_, rfl⟩, .inl rfl, fun h => absurd hg h⟩
    · exact ⟨_, _, rfl, .inl rfl, .inr ⟨_, rfl⟩, fun _ => rfl⟩

theorem blockKept_markHot (g : Nat) (s : State) : BlockKept s (markHot g s) := by
  unfold markHot
  dsimp only
  split
  · exact .refl s
  · split <;> exact .of_regs rfl rfl

/-! ## The horizon, the consume pointer and the Call engine's read (R170–R172) -/

theorem blockKept_ringZeroise (p : RingBlk → Bool) (s : State) : BlockKept s (ringZeroise p s) := by
  have hau : BlockKept s { s with au := { s.au with ring := s.au.ring.filter fun b => !p b } } := .of_regs rfl rfl
  exact hau.bump _ (by decide) (by decide) (by decide)

theorem blockKept_releaseHeld (s : State) : BlockKept s (releaseHeld s) := by
  unfold releaseHeld
  dsimp only
  refine .ite (.refl s) ?_
  have hau : BlockKept s { s with au := { s.au with relTime := s.au.ring.head?.map (·.time) } } := .of_regs rfl rfl
  exact hau.wr _ (by decide) (by decide) (by decide)

theorem blockKept_ringHorizon (s : State) : BlockKept s (ringHorizon s) := by
  unfold ringHorizon
  dsimp only
  exact .ite (blockKept_ringZeroise _ s) (.ite ((blockKept_ringZeroise _ s).trans (blockKept_releaseHeld _)) (.refl s))

theorem blockKept_ringAdvance (s : State) : BlockKept s (ringAdvance s) := by
  unfold ringAdvance
  dsimp only
  split
  · exact .refl s
  · split <;> exact .of_regs rfl rfl

/-- How far behind the block being written the ring keeps its blocks while locked (R170). -/
def horizon (s : State) : Nat := Nat.min (Nat.max 1 (fld s pgRing Off.RING_TIMING 0 16 / 4)) (ringCap s)

/-- Horizon zeroisation takes the blocks behind the horizon, or none. -/
theorem ringHorizon_au (s : State) : (ringHorizon s).au = s.au ∨ ∃ relTime, (ringHorizon s).au =
    { s.au with ring := s.au.ring.filter fun b => !decide (horizon s < ringAge s b.idx), relTime := relTime } := by
  have hzero : (ringZeroise (fun b => decide (horizon s < ringAge s b.idx)) s).au =
      { s.au with ring := s.au.ring.filter fun b => !decide (horizon s < ringAge s b.idx) } := by rw [ringZeroise, bump_au]
  have hheld (u : State) : ∃ relTime, (releaseHeld u).au = { u.au with relTime := relTime } := by
    unfold releaseHeld
    dsimp only
    split
    · exact ⟨_, rfl⟩
    · exact ⟨_, wr_au ..⟩
  unfold ringHorizon
  dsimp only
  split
  · exact .inr ⟨s.au.relTime, hzero⟩
  · split
    · obtain ⟨relTime, e⟩ := hheld (ringZeroise (fun b => decide (horizon s < ringAge s b.idx)) s)
      rw [hzero] at e
      exact .inr ⟨relTime, e⟩
    · exact .inl rfl

theorem ringAdvance_au (s : State) : ∃ consume, (ringAdvance s).au = { s.au with consume := consume } := by
  unfold ringAdvance
  dsimp only
  split
  · exact ⟨_, rfl⟩
  · split <;> exact ⟨_, rfl⟩

theorem blockKept_ceSkip (s : State) : BlockKept s (ceSkip s) := by
  unfold ceSkip
  extract_lets o missing
  refine .ite (.refl s) ?_
  have hau : BlockKept s { s with au := { s.au with consume := o } } := .of_regs rfl rfl
  exact (hau.raise _ (by decide)).bump _ (by decide) (by decide) (by decide)

theorem blockKept_ceAccept (s : State) : BlockKept s (ceAccept s) := by
  unfold ceAccept
  extract_lets u late v
  have hu : BlockKept s u := blockKept_ceSkip s
  have hv : BlockKept s v := hu.trans (.of_regs rfl rfl)
  exact .ite (.ite hu (.ite ((hv.raise _ (by decide)).bump 1 (by decide) (by decide) (by decide)) hv)) (.refl s)

theorem ceSkip_au (s : State) : ∃ consume, (ceSkip s).au = { s.au with consume := consume } := by
  unfold ceSkip
  dsimp only
  split
  · exact ⟨_, rfl⟩
  · exact ⟨_, (bump_au ..).trans (raise_au ..)⟩

theorem ceAccept_au (s : State) : ∃ consume, (ceAccept s).au = { s.au with consume := consume } := by
  unfold ceAccept
  dsimp only
  split
  · split
    · exact ceSkip_au s
    · split
      · obtain ⟨consume, e⟩ := ceSkip_au s
        exact ⟨consume, by rw [bump_au, raise_au, startCmd_au, e]⟩
      · obtain ⟨consume, e⟩ := ceSkip_au s
        exact ⟨consume, by rw [startCmd_au, e]⟩
  · exact ⟨_, rfl⟩

end Sys2Proof.Machine
end

section
/-! # The end of an acoustic block (R153, R156, R159, R160, R163, R168) -/
namespace Sys2Proof.Machine

/-! ## The stages of a block's end, in their order (R173) -/

/-- The ring's horizon and pointer have moved on with a recorded block, the group's passing state is left, and the Call engine reads. -/
def blockEnded (g : Nat) (records : Bool) (s : State) : State :=
  let u := blockOver g (if records then ringAdvance (ringHorizon s) else s)
  if records then ceAccept u else u

theorem execAudioBlockEnd_eq {s : State} {g formed : Nat} {pcm : List (List Int)} (hg : g < 2) (hl : groupListens s g = true)
    (hs : settling s g formed = false) : ∃ flags planes live late detects signal aec raw clean,
      let u := blockTaken g formed pcm s
      planes.length = (ringTracks u).length ∧
        execAudioBlockEnd g formed pcm s =
          bankBoundary g (blockEnded g (g == 0 && flag u pgRing Off.RING_CTRL 0)
            (blockHeard g detects signal aec raw clean (blockStored g flags (sampleTime u g formed) planes live late u))) := by
  have hruns : (!groupListens s g || decide (1 < g) || settling s g formed) = false := by
    rw [hl, hs, decide_eq_false (by omega)]
    rfl
  unfold execAudioBlockEnd
  rw [hruns, if_neg (by decide)]
  exact ⟨_, _, _, _, _, _, _, _, _, List.length_map .., rfl⟩

/-! ## What the ring's capacity and a sample's time rest on -/

section
variable {s t : State}

theorem blockLen_congr {g : Nat} (h : reg t (pageBase (pgAin g) + Off.AIN_CFG) = reg s (pageBase (pgAin g) + Off.AIN_CFG)) :
    blockLen t g = blockLen s g := by
  unfold blockLen
  rw [flag_congr h]

theorem ringTracks_congr (hc : reg t (pageBase pgRing + Off.RING_CFG) = reg s (pageBase pgRing + Off.RING_CFG))
    (hr : reg t (pageBase pgRing + Off.RING_RAW_SEL) = reg s (pageBase pgRing + Off.RING_RAW_SEL)) : ringTracks t = ringTracks s := by
  unfold ringTracks
  rw [rd_congr hc, fld_congr hr, fld_congr hr]

theorem ringCap_congr (hc : reg t (pageBase pgRing + Off.RING_CFG) = reg s (pageBase pgRing + Off.RING_CFG))
    (hr : reg t (pageBase pgRing + Off.RING_RAW_SEL) = reg s (pageBase pgRing + Off.RING_RAW_SEL))
    (hl : reg t (pageBase (pgAin 0) + Off.AIN_CFG) = reg s (pageBase (pgAin 0) + Off.AIN_CFG)) : ringCap t = ringCap s := by
  have hsize : ringBlockSize t = ringBlockSize s := by
    unfold ringBlockSize
    rw [ringTracks_congr hc hr, blockLen_congr hl]
  unfold ringCap
  rw [hsize, fld_congr hc]

theorem BlockKept.ringCap_eq (h : BlockKept s t) : ringCap t = ringCap s :=
  ringCap_congr (h.regs _ (by decide)) (h.regs _ (by decide)) (h.regs _ (by decide))

theorem sampleTime_congr {g : Nat} (ht : t.tt = s.tt) (hc : reg t (pageBase (pgAin g) + Off.AIN_CFG) = reg s (pageBase (pgAin g) + Off.AIN_CFG))
    (hr : reg t (pageBase pgTT + Off.TT_RTC_TRIM) = reg s (pageBase pgTT + Off.TT_RTC_TRIM)) (formed : Nat) :
    sampleTime t g formed = sampleTime s g formed := by
  unfold sampleTime rtcAt rtcIncrement groupDelay
  rw [ht, fld_congr hr, blockLen_congr hc]

end

section
variable (g formed : Nat) (pcm : List (List Int)) (s : State)

/-- Taking the samples leaves every register but the count of clipped samples and the group's events. -/
theorem reg_blockTaken (p : Page) {off : Nat} (ho : off < 0x1000) (hc : off ≠ Off.AIN_CNT_CLIP) (he : off ≠ Off.EVT_RAW) :
    reg (blockTaken g formed pcm s) (pageBase p + off) = reg s (pageBase p + off) := by
  refine regsBut_blockTaken g formed pcm s _ ?_
  simp only [List.mem_cons, List.not_mem_nil, or_false, not_or]
  exact ⟨addr_ne ho (by decide) hc, addr_ne ho (by decide) he⟩

end

/-! ## What the stages after the block's write leave -/

/-- The held blocks are all kept, or those up to an age, the newest among them while the ring has a capacity (R170). -/
def Trimmed (s : State) (l l' : List RingBlk) : Prop :=
  l' = l ∨ ∃ h, (1 ≤ ringCap s → 1 ≤ h) ∧ l' = l.filter fun b => !decide (h < ringAge s b.idx)

/-- From s, where a block of group g has been written, to t its later stages have left what shows of the group and of that block. -/
structure BlockPassed (g : Nat) (s t : State) : Prop where
  kept : BlockKept s t
  bankPend : t.au.bankPend = s.au.bankPend
  interrupted : t.au.interrupted = sset 0 s.au.interrupted g (sget 0 s.au.interrupted g - 1)
  writeIdx : t.au.writeIdx = s.au.writeIdx
  liveIdx : t.au.liveIdx = s.au.liveIdx
  live : Marked s.au.live t.au.live
  ring : ∃ l, Marked s.au.ring l ∧ Trimmed s l t.au.ring
  other : g ≠ 0 → t.au.ring = s.au.ring

theorem erleSlot_le (s : State) (k : Nat) : erleSlot s k ≤ 16 := popcount_le k (bitsAt_lt ..)

section
variable {g : Nat} (hg : g < 2) (detects : Bool) (signal : Nat → List Int) (aec : List Nat) (raw clean : Nat → List Int) (s : State)

include hg in
theorem blockKept_blockHeard : BlockKept s (blockHeard g detects signal aec raw clean s) := by
  unfold blockHeard
  extract_lets u
  have hu : BlockKept s u := .ite (blockKept_detUpdate hg signal s) (.refl s)
  have haec : BlockKept u (aec.foldl (fun s k => aecTrack k (erleSlot s k) (raw k) (clean k) s) u) :=
    .foldl (fun k _ t => blockKept_aecTrack (erleSlot_le t k) k (raw k) (clean k) t) u
  exact (hu.trans (.ite haec (.refl u))).trans (blockKept_markHot g _)

theorem blockHeard_au : ∃ det ring live, (blockHeard g detects signal aec raw clean s).au = { s.au with det := det, ring := ring, live := live } ∧
    Marked s.au.ring ring ∧ Marked s.au.live live ∧ (g ≠ 0 → ring = s.au.ring) := by
  unfold blockHeard
  extract_lets u
  have hu : DetOnly s u := by
    unfold u
    split
    · exact detOnly_detUpdate g signal s
    · exact .refl s
  have hv : DetOnly s (if domOn u 3 then aec.foldl (fun s k => aecTrack k (erleSlot s k) (raw k) (clean k) s) u else u) := by
    split
    · exact hu.trans (.foldl (fun t k => detOnly_aecTrack k (erleSlot t k) (raw k) (clean k) t) aec u)
    · exact hu
  generalize (if domOn u 3 then aec.foldl (fun s k => aecTrack k (erleSlot s k) (raw k) (clean k) s) u else u) = v at hv
  obtain ⟨ring, live, e, hring, hlive, hother⟩ := markHot_au g v
  unfold DetOnly at hv
  rw [hv] at e hring hlive hother
  exact ⟨v.au.det, ring, live, e, hring, hlive, hother⟩

end

/-! ## The horizon, the pointer and the Call engine's read of a recorded block -/

theorem one_le_horizon {s : State} (h : 1 ≤ ringCap s) : 1 ≤ horizon s := Nat.le_min.mpr ⟨Nat.le_max_left .., h⟩

section
variable (g : Nat) (records : Bool) (s : State)

theorem blockKept_blockEnded : BlockKept s (blockEnded g records s) := by
  unfold blockEnded
  extract_lets u
  have hu : BlockKept s u :=
    (BlockKept.ite ((blockKept_ringHorizon s).trans (blockKept_ringAdvance _)) (.refl s)).trans (.of_regs rfl rfl)
  exact .ite (hu.trans (blockKept_ceAccept u)) hu

/-- The ring's horizon and pointer have moved on: the blocks that the horizon leaves. -/
theorem horizonPassed_au : ∃ ring relTime consume, (ringAdvance (ringHorizon s)).au =
    { s.au with ring := ring, relTime := relTime, consume := consume } ∧ Trimmed s s.au.ring ring := by
  obtain ⟨consume, e⟩ := ringAdvance_au (ringHorizon s)
  rcases ringHorizon_au s with h | ⟨relTime, h⟩
  · exact ⟨s.au.ring, s.au.relTime, consume, by rw [e, h], .inl rfl⟩
  · exact ⟨_, relTime, consume, by rw [e, h], .inr ⟨horizon s, one_le_horizon, rfl⟩⟩

theorem blockOver_au : ∃ line older aec endTt, (blockOver g s).au =
    { s.au with interrupted := sset 0 s.au.interrupted g (sget 0 s.au.interrupted g - 1), line := line, older := older, aec := aec,
                endTt := endTt } := ⟨_, _, _, _, rfl⟩

theorem blockEnded_au : ∃ ring relTime consume line older aec endTt, (blockEnded g records s).au =
    { s.au with ring := ring, relTime := relTime, consume := consume, line := line, older := older, aec := aec, endTt := endTt,
                interrupted := sset 0 s.au.interrupted g (sget 0 s.au.interrupted g - 1) } ∧
      Trimmed s s.au.ring ring ∧ (records = false → ring = s.au.ring) := by
  cases records with
  | false =>
    obtain ⟨line, older, aec, endTt, e⟩ := blockOver_au g s
    refine ⟨s.au.ring, s.au.relTime, s.au.consume, line, older, aec, endTt, ?_, .inl rfl, fun _ => rfl⟩
    simp only [blockEnded, Bool.false_eq_true, if_false, e]
  | true =>
    obtain ⟨ring, relTime, pointer, eh, htrim⟩ := horizonPassed_au s
    obtain ⟨line, older, aec, endTt, eo⟩ := blockOver_au g (ringAdvance (ringHorizon s))
    obtain ⟨consume, ea⟩ := ceAccept_au (blockOver g (ringAdvance (ringHorizon s)))
    refine ⟨ring, relTime, consume, line, older, aec, endTt, ?_, htrim, fun h => absurd h (by decide)⟩
    simp only [blockEnded, if_true, ea, eo, eh]

end

theorem trimmed_congr {s t : State} (hc : ringCap t = ringCap s) (hw : t.au.writeIdx = s.au.writeIdx) {l l' : List RingBlk}
    (h : Trimmed t l l') : Trimmed s l l' := by
  unfold Trimmed ringAge at *
  rwa [hc, hw] at h

/-- The stages after a block's write, from the detectors to the Call engine's read. -/
theorem blockPassed {g : Nat} (hg : g < 2) {records : Bool} (hr : g ≠ 0 → records = false) (detects : Bool) (signal : Nat → List Int)
    (aec : List Nat) (raw clean : Nat → List Int) (s : State) :
    BlockPassed g s (blockEnded g records (blockHeard g detects signal aec raw clean s)) := by
  have hkept := blockKept_blockHeard hg detects signal aec raw clean s
  obtain ⟨det, ring, live, e, hring, hlive, hother⟩ := blockHeard_au (g := g) detects signal aec raw clean s
  generalize blockHeard g detects signal aec raw clean s = t at hkept e
  obtain ⟨ring', relTime, consume, line, older, aec', endTt, e', htrim, hsame⟩ := blockEnded_au g records t
  have hend := blockKept_blockEnded g records t
  generalize blockEnded g records t = x at e' hend
  replace htrim := trimmed_congr hkept.ringCap_eq (by rw [e]) htrim
  rw [e] at e' htrim hsame
  exact {
    kept := hkept.trans hend
    bankPend := by rw [e']
    interrupted := by rw [e']
    writeIdx := by rw [e']
    liveIdx := by rw [e']
    live := by rw [e']; exact hlive
    ring := ⟨ring, hring, by rw [e']; exact htrim⟩
    other := fun h => by rw [e']; exact (hsame (hr h)).trans (hother h) }

/-- A counter that is the same before and after shows the same count. -/
theorem Counted.congr {p : Page} {off k : Nat} {s s' t t' : State} (h : Counted p off k s t)
    (hs : reg s (pageBase p + off) = reg s' (pageBase p + off)) (ht : reg t' (pageBase p + off) = reg t (pageBase p + off)) :
    Counted p off k s' t' := by
  unfold Counted at *
  rwa [rd_congr hs, ← rd_congr ht] at h

/-! ## What the block's write leaves, and the block it writes -/

/-- A block of group g written from s with this index, time and number of tracks is the newest of a list of at most so many. -/
def NewestOf (idx tracks time most : Nat) (l : List RingBlk) : Prop := EndsWith (RingBlk.Has idx tracks time) l ∧ l.length ≤ most

theorem Marked.newestOf {idx tracks time most : Nat} {l l' : List RingBlk} (h : Marked l l') (hl : NewestOf idx tracks time most l) :
    NewestOf idx tracks time most l' := ⟨h.endsWith hl.1, h.length_eq ▸ hl.2⟩

/-- The horizon leaves the newest block. -/
theorem Trimmed.newestOf {s : State} {idx tracks time most : Nat} {l l' : List RingBlk} (h : Trimmed s l l') (hcap : 1 ≤ ringCap s)
    (hidx : idx < 2 ^ 32) (hw : s.au.writeIdx = (idx + 1) % 2 ^ 32) (hl : NewestOf idx tracks time most l) :
    NewestOf idx tracks time most l' := by
  rcases h with rfl | ⟨n, hn, rfl⟩
  · exact hl
  · refine ⟨hl.1.filter fun b hb => ?_, (List.length_filter_le ..).trans hl.2⟩
    have hage : ringAge s b.idx = 1 := by
      unfold ringAge
      rw [hb.1, hw]
      omega
    rw [hage, decide_eq_false (Nat.not_lt.mpr (hn hcap))]
    rfl

section
variable (g flags time : Nat) (planes live : List (List Int)) (late : List (Nat × Nat × List Int)) (s : State)

theorem regsBut_blockStored : RegsBut [pageBase pgRing + Off.RING_CNT_BLOCKS] s (blockStored g flags time planes live late s) := by
  unfold blockStored
  exact .ite (regsBut_blockRung flags time planes late s) (.ite (regsBut_liveStore flags time live s _) (.refl _ s))

/-- The group's pending bank switch and its interrupted block are as they were. -/
theorem blockStored_group : (blockStored g flags time planes live late s).au.bankPend = s.au.bankPend ∧
    (blockStored g flags time planes live late s).au.interrupted = s.au.interrupted := by
  unfold blockStored
  split
  · obtain ⟨ring, relTime, e⟩ := blockRung_au flags time planes late s
    rw [e]
    exact ⟨rfl, rfl⟩
  · split
    · obtain ⟨l, e⟩ := liveStore_au flags time live s
      rw [e]
      exact ⟨rfl, rfl⟩
    · exact ⟨rfl, rfl⟩

theorem blockStored_ring (h : flag s pgRing Off.RING_CTRL 0 = true) :
    blockStored 0 flags time planes live late s = blockRung flags time planes late s := if_pos (by rw [h]; rfl)

theorem blockStored_live (hc : flag s (pgBf 1) Off.CTRL 0 = true) (hm : fld s (pgBf 1) Off.BF_LIVE 0 16 ≠ 0) :
    blockStored 1 flags time planes live late s = liveStore flags time live s :=
  (if_neg Bool.false_ne_true).trans (if_pos ⟨rfl, hc, hm⟩)

theorem ringCap_blockRung : ringCap (blockRung flags time planes late s) = ringCap s := by
  have hregs := regsBut_blockRung flags time planes late s
  exact ringCap_congr (hregs _ (by decide)) (hregs _ (by decide)) (hregs _ (by decide))

theorem newestOf_blockRung (hcap : 1 ≤ ringCap s) :
    NewestOf s.au.writeIdx planes.length time (ringCap s) (blockRung flags time planes late s).au.ring := by
  obtain ⟨l, b, hb, e⟩ := blockRung_ring flags time planes late s
  rw [e]
  exact ⟨endsWith_newest hcap hb, length_newest ..⟩

theorem newestOf_liveStore : NewestOf s.au.liveIdx planes.length time 64 (liveStore flags time planes s).au.live := by
  obtain ⟨l, b, hb, e⟩ := liveStore_live flags time planes s
  rw [e]
  exact ⟨endsWith_newest (by decide) hb, length_newest ..⟩

end

/-! ## The pending bank switch (R159) -/

section
variable (g : Nat) (s : State)

/-- BF_BANK shows the other bank, and no switch pending. -/
def bankShown (g : Nat) (s : State) : State :=
  setFlag (pgBf g) Off.BF_BANK 1 false (setFld (pgBf g) Off.BF_BANK 0 1 (1 - fld s (pgBf g) Off.BF_BANK 0 1)
    { s with au := { s.au with bankPend := s.au.bankPend.filter (· != g) } })

/-- A pending bank switch has taken effect. -/
def bankSwitched (g : Nat) (s : State) : State :=
  bump (pgBf g) Off.BF_CNT_BANK_SWITCHES 1 (raise (pgBf g) Evt.BF_BANK_SWITCHED (bankShown g s))

theorem bankBoundary_pending (h : g ∈ s.au.bankPend) : bankBoundary g s = bankSwitched g s := if_pos (List.contains_iff_mem.mpr h)

theorem bankBoundary_none (h : g ∉ s.au.bankPend) : bankBoundary g s = s := if_neg fun hc => h (List.contains_iff_mem.mp hc)

theorem bankSwitched_au : (bankSwitched g s).au = { s.au with bankPend := s.au.bankPend.filter (· != g) } := by
  rw [bankSwitched, bump_au, raise_au, bankShown, setFlag_au, setFld_au]

theorem not_mem_bankBoundary : g ∉ (bankBoundary g s).au.bankPend := by
  by_cases h : g ∈ s.au.bankPend
  · rw [bankBoundary_pending g s h, bankSwitched_au]
    exact fun hm => absurd rfl (bne_iff_ne.mp (List.mem_filter.mp hm).2)
  · rwa [bankBoundary_none g s h]

/-- The switch is all that it changes of the acoustic front end. -/
theorem bankBoundary_au : ∃ pend, (bankBoundary g s).au = { s.au with bankPend := pend } := by
  by_cases h : g ∈ s.au.bankPend
  · exact ⟨_, by rw [bankBoundary_pending g s h, bankSwitched_au]⟩
  · exact ⟨s.au.bankPend, by rw [bankBoundary_none g s h]⟩

theorem regsBut_bankShown {l : List Nat} (m : pageBase (pgBf g) + Off.BF_BANK ∈ l) : RegsBut l s (bankShown g s) := by
  have hau : RegsBut l s { s with au := { s.au with bankPend := s.au.bankPend.filter (· != g) } } := .of_regs rfl rfl
  exact (hau.wr _ m).setFlag 1 false m

theorem regsBut_bankBoundary :
    RegsBut [pageBase (pgBf g) + Off.BF_BANK, evtOf (pgBf g), pageBase (pgBf g) + Off.BF_CNT_BANK_SWITCHES] s (bankBoundary g s) :=
  .ite (((regsBut_bankShown g s (.head _)).raise _ (.tail _ (.head _))).bump 1 (.tail _ (.tail _ (.head _)))) (.refl _ s)

theorem reg_bankSwitched_bank :
    reg (bankSwitched g s) (pageBase (pgBf g) + Off.BF_BANK) = reg (bankShown g s) (pageBase (pgBf g) + Off.BF_BANK) :=
  (reg_bump_ne 1 (addr_ne (by decide) (by decide) (by decide))).trans (reg_raise_ne (addr_ne (by decide) (by decide) (by decide)))

theorem fld_bankSwitched : fld (bankSwitched g s) (pgBf g) Off.BF_BANK 0 1 = 1 - fld s (pgBf g) Off.BF_BANK 0 1 := by
  rw [fld_congr (reg_bankSwitched_bank g s), bankShown, fld_setFlag_below _ _ (by decide) (by decide),
    fld_setFld_same _ _ _ _ _ (by decide)]
  omega

theorem flag_bankSwitched : flag (bankSwitched g s) (pgBf g) Off.BF_BANK 1 = false := by
  rw [flag_congr (reg_bankSwitched_bank g s), bankShown, flag_setFlag_same _ _ _ _ (by decide)]

theorem raised_bankSwitched : Raised (pgBf g) Evt.BF_BANK_SWITCHED (bankSwitched g s) := by
  have hraised : Raised (pgBf g) Evt.BF_BANK_SWITCHED (raise (pgBf g) Evt.BF_BANK_SWITCHED (bankShown g s)) :=
    flag_raise_same _ _ (show 7 ≤ 7 by decide) (by decide)
  exact hraised.of_reg (reg_bump_ne 1 (addr_ne (by decide) (by decide) (by decide)))

theorem counted_bankSwitched : Counted (pgBf g) Off.BF_CNT_BANK_SWITCHES 1 s (bankSwitched g s) := by
  have hcount := counted_bump (pgBf g) Off.BF_CNT_BANK_SWITCHES 1 (raise (pgBf g) Evt.BF_BANK_SWITCHED (bankShown g s))
  have hbefore : RegsBut [pageBase (pgBf g) + Off.BF_BANK, evtOf (pgBf g)] s (raise (pgBf g) Evt.BF_BANK_SWITCHED (bankShown g s)) :=
    (regsBut_bankShown g s (.head _)).raise _ (.tail _ (.head _))
  refine hcount.congr (hbefore _ fun hm => ?_) rfl
  rcases List.mem_cons.mp hm with e | hm
  · exact absurd e (addr_ne (by decide) (by decide) (by decide))
  · exact absurd (List.mem_singleton.mp hm) (addr_ne (by decide) (by decide) (by decide))

/-- The events of a page stay. -/
theorem Raised.bankBoundary {p : Page} {b : Nat} {s : State} (h : Raised p b s) (g : Nat) : Raised p b (bankBoundary g s) := by
  by_cases hg : g ∈ s.au.bankPend
  · rw [bankBoundary_pending g s hg]
    have hshown : Raised p b (bankShown g s) :=
      h.of_reg (regsBut_bankShown g s (.head _) _ fun hm => absurd (List.mem_singleton.mp hm) (addr_ne (by decide) (by decide) (by decide)))
    exact (hshown.raise (pgBf g) (by decide)).of_reg (reg_bump_ne 1 (addr_ne (by decide) (by decide) (by decide)))
  · rwa [bankBoundary_none g s hg]

end

/-! ## A block's end as a whole (O25) -/

theorem clip_ne_blocks : ∀ g < 2, pageBase (pgAin g) + Off.AIN_CNT_CLIP ≠ pageBase pgRing + Off.RING_CNT_BLOCKS := by decide

/-- AUDIO_BLOCK_END of a group that listens and whose samples are not discarded: the samples are taken, the block is written where it is
recorded, the later stages pass, and a pending bank switch takes effect. -/
theorem audioBlockEnd_stages {s : State} {g formed : Nat} (pcm : List (List Int)) (hg : g < 2) (hl : groupListens s g = true)
    (hs : settling s g formed = false) : ∃ flags planes live late x, planes.length = (ringTracks s).length ∧
      execAudioBlockEnd g formed pcm s = bankBoundary g x ∧
        BlockPassed g (blockStored g flags (sampleTime s g formed) planes live late (blockTaken g formed pcm s)) x := by
  obtain ⟨flags, planes, live, late, detects, signal, aec, raw, clean, hplanes, e⟩ := execAudioBlockEnd_eq (pcm := pcm) hg hl hs
  have htime : sampleTime (blockTaken g formed pcm s) g formed = sampleTime s g formed :=
    sampleTime_congr (blockTaken_tt g formed pcm s) (reg_blockTaken _ _ _ _ _ (by decide) (by decide) (by decide))
      (reg_blockTaken _ _ _ _ _ (by decide) (by decide) (by decide)) formed
  have htracks : ringTracks (blockTaken g formed pcm s) = ringTracks s :=
    ringTracks_congr (reg_blockTaken _ _ _ _ _ (by decide) (by decide) (by decide))
      (reg_blockTaken _ _ _ _ _ (by decide) (by decide) (by decide))
  rw [htime] at e
  rw [htracks] at hplanes
  refine ⟨flags, planes, live, late, _, hplanes, e, blockPassed hg (fun h => ?_) detects signal aec raw clean _⟩
  rw [beq_false_of_ne h, Bool.false_and]

section
variable {s x : State} {g formed flags time : Nat} {pcm planes live : List (List Int)} {late : List (Nat × Nat × List Int)}
  (h : BlockPassed g (blockStored g flags time planes live late (blockTaken g formed pcm s)) x)
include h

theorem BlockPassed.reg_eq {a : Nat} (ha : a ∈ blockRegs) (hne : a ≠ pageBase pgRing + Off.RING_CNT_BLOCKS) :
    reg x a = reg (blockTaken g formed pcm s) a :=
  (h.kept.regs a ha).trans (regsBut_blockStored _ _ _ _ _ _ _ a fun hm => hne (List.mem_singleton.mp hm))

theorem BlockPassed.bankPend_eq : x.au.bankPend = s.au.bankPend := by
  obtain ⟨hist, line, e⟩ := blockTaken_au g formed pcm s
  rw [h.bankPend, (blockStored_group ..).1, e]

theorem BlockPassed.interrupted_eq : x.au.interrupted = sset 0 s.au.interrupted g (sget 0 s.au.interrupted g - 1) := by
  obtain ⟨hist, line, e⟩ := blockTaken_au g formed pcm s
  rw [h.interrupted, (blockStored_group ..).2, e]

/-- The group's clipped samples are counted. -/
theorem BlockPassed.counted_clip (hg : g < 2) : Counted (pgAin g) Off.AIN_CNT_CLIP (clipped s g formed pcm) s x :=
  (counted_blockTaken g formed pcm s).congr rfl (h.reg_eq (clip_mem g hg) (clip_ne_blocks g hg))

theorem BlockPassed.raised_clip (hc : clipped s g formed pcm ≠ 0) : Raised (pgAin g) Evt.AIN_CLIP x := by
  refine h.kept.raised g _ ((raised_blockTaken g formed pcm s hc).of_reg (regsBut_blockStored _ _ _ _ _ _ _ _ fun hm => ?_))
  exact absurd (List.mem_singleton.mp hm) (addr_ne (by decide) (by decide) (by decide))

/-- The bank and the count of switches are as they were before the block's end. -/
theorem BlockPassed.reg_bank (hg : g < 2) : reg x (pageBase (pgBf g) + Off.BF_BANK) = reg s (pageBase (pgBf g) + Off.BF_BANK) ∧
    reg x (pageBase (pgBf g) + Off.BF_CNT_BANK_SWITCHES) = reg s (pageBase (pgBf g) + Off.BF_CNT_BANK_SWITCHES) :=
  ⟨(h.reg_eq (bank_mem g hg) (addr_ne (by decide) (by decide) (by decide))).trans
      (reg_blockTaken _ _ _ _ _ (by decide) (by decide) (by decide)),
    (h.reg_eq (switches_mem g hg) (addr_ne (by decide) (by decide) (by decide))).trans
      (reg_blockTaken _ _ _ _ _ (by decide) (by decide) (by decide))⟩

end

section
variable {s x : State} {formed flags time : Nat} {pcm planes live : List (List Int)} {late : List (Nat × Nat × List Int)}

section
variable (h : BlockPassed 0 (blockStored 0 flags time planes live late (blockTaken 0 formed pcm s)) x)
  (hrec : flag s pgRing Off.RING_CTRL 0 = true)
include h hrec

/-- With recording on, the block has been written into the ring. -/
theorem BlockPassed.rung : BlockPassed 0 (blockRung flags time planes late (blockTaken 0 formed pcm s)) x := by
  have hflag := (flag_congr (b := 0) (reg_blockTaken 0 formed pcm s pgRing (off := Off.RING_CTRL) (by decide) (by decide) (by decide))).trans hrec
  rwa [blockStored_ring _ _ _ _ _ _ hflag] at h

theorem BlockPassed.writeIdx_ring : x.au.writeIdx = (s.au.writeIdx + 1) % 2 ^ 32 := by
  obtain ⟨hist, line, hu⟩ := blockTaken_au 0 formed pcm s
  obtain ⟨ring, relTime, hv⟩ := blockRung_au flags time planes late (blockTaken 0 formed pcm s)
  rw [(h.rung hrec).writeIdx, hv, hu]

theorem BlockPassed.counted_ring : Counted pgRing Off.RING_CNT_BLOCKS 1 s x :=
  (counted_blockRung flags time planes late (blockTaken 0 formed pcm s)).congr
    (regsBut_blockTaken 0 formed pcm s _ (by decide)) ((h.rung hrec).kept.regs _ (by decide))

/-- The block is the ring's newest, the horizon notwithstanding. -/
theorem BlockPassed.ring_newest (hidx : s.au.writeIdx < 2 ^ 32) (hcap : 1 ≤ ringCap s) :
    NewestOf s.au.writeIdx planes.length time (ringCap s) x.au.ring := by
  obtain ⟨hist, line, hu⟩ := blockTaken_au 0 formed pcm s
  obtain ⟨ring, relTime, hv⟩ := blockRung_au flags time planes late (blockTaken 0 formed pcm s)
  have hcapTaken : ringCap (blockTaken 0 formed pcm s) = ringCap s :=
    ringCap_congr (reg_blockTaken _ _ _ _ _ (by decide) (by decide) (by decide))
      (reg_blockTaken _ _ _ _ _ (by decide) (by decide) (by decide)) (reg_blockTaken _ _ _ _ _ (by decide) (by decide) (by decide))
  have hcapRung := (ringCap_blockRung flags time planes late (blockTaken 0 formed pcm s)).trans hcapTaken
  have hnew := newestOf_blockRung flags time planes late (blockTaken 0 formed pcm s) (hcap.trans_eq hcapTaken.symm)
  rw [hcapTaken, hu] at hnew
  obtain ⟨l, hmark, htrim⟩ := (h.rung hrec).ring
  exact htrim.newestOf (hcap.trans_eq hcapRung.symm) hidx (by rw [hv, hu]) (hmark.newestOf hnew)

end

/-- With beams of group 1 named, the block is the newest of its live blocks. -/
theorem BlockPassed.live_newest (h : BlockPassed 1 (blockStored 1 flags time planes live late (blockTaken 1 formed pcm s)) x)
    (hrun : flag s (pgBf 1) Off.CTRL 0 = true) (hmask : fld s (pgBf 1) Off.BF_LIVE 0 16 ≠ 0) :
    x.au.liveIdx = (s.au.liveIdx + 1) % 2 ^ 32 ∧ x.au.ring = s.au.ring ∧ NewestOf s.au.liveIdx live.length time 64 x.au.live := by
  obtain ⟨hist, line, hu⟩ := blockTaken_au 1 formed pcm s
  obtain ⟨blocks, hv⟩ := liveStore_au flags time live (blockTaken 1 formed pcm s)
  have hnew := newestOf_liveStore flags time live (blockTaken 1 formed pcm s)
  have hctrl : flag (blockTaken 1 formed pcm s) (pgBf 1) Off.CTRL 0 = true :=
    (flag_congr (reg_blockTaken _ _ _ _ _ (by decide) (by decide) (by decide))).trans hrun
  have hbeams : fld (blockTaken 1 formed pcm s) (pgBf 1) Off.BF_LIVE 0 16 ≠ 0 := by
    rwa [fld_congr (reg_blockTaken _ _ _ _ _ (by decide) (by decide) (by decide))]
  rw [blockStored_live _ _ _ _ _ _ hctrl hbeams] at h
  refine ⟨by rw [h.liveIdx, hv, hu], by rw [h.other (by decide), hv, hu], h.live.newestOf ?_⟩
  rwa [hu] at hnew

end

/-- A register of another offset than the switch's is as before the pending switch. -/
theorem reg_bankBoundary {g : Nat} {p : Page} {off : Nat} (s : State) (ho : off < 0x1000) (hb : off ≠ Off.BF_BANK) (he : off ≠ Off.EVT_RAW)
    (hc : off ≠ Off.BF_CNT_BANK_SWITCHES) : reg (bankBoundary g s) (pageBase p + off) = reg s (pageBase p + off) := by
  refine regsBut_bankBoundary g s _ ?_
  simp only [List.mem_cons, List.not_mem_nil, or_false, not_or]
  exact ⟨addr_ne ho (by decide) hb, addr_ne ho (by decide) he, addr_ne ho (by decide) hc⟩

section
variable {s : State} {formed : Nat} (pcm : List (List Int))

/-- What a block's end shows of its group. -/
theorem runs_audioBlockEnd {g : Nat} (hg : g < 2) (hl : groupListens s g = true) (hs : settling s g formed = false) :
    Runs (.audioBlockEnd g formed pcm) s fun t =>
      Counted (pgAin g) Off.AIN_CNT_CLIP (clipped s g formed pcm) s t ∧ (clipped s g formed pcm ≠ 0 → Raised (pgAin g) Evt.AIN_CLIP t) ∧
        g ∉ t.au.bankPend ∧ sget 0 t.au.interrupted g = sget 0 s.au.interrupted g - 1 ∧
        (g ∈ s.au.bankPend → fld t (pgBf g) Off.BF_BANK 0 1 = 1 - fld s (pgBf g) Off.BF_BANK 0 1 ∧
          flag t (pgBf g) Off.BF_BANK 1 = false ∧ Raised (pgBf g) Evt.BF_BANK_SWITCHED t ∧
          Counted (pgBf g) Off.BF_CNT_BANK_SWITCHES 1 s t) := by
  obtain ⟨flags, planes, live, late, x, -, e, hx⟩ := audioBlockEnd_stages pcm hg hl hs
  obtain ⟨pend, hau⟩ := bankBoundary_au g x
  refine ⟨bankBoundary g x, congrArg Host.Outcome.next e, ?_, fun hc => (hx.raised_clip hc).bankBoundary g, not_mem_bankBoundary g x, ?_, ?_⟩
  · exact (hx.counted_clip hg).congr rfl (reg_bankBoundary x (by decide) (by decide) (by decide) (by decide))
  · rw [hau]
    dsimp only
    rw [hx.interrupted_eq]
    exact (sget_sset 0 _ g g _).trans (if_pos rfl)
  · intro hp
    obtain ⟨hbank, hcount⟩ := hx.reg_bank hg
    rw [bankBoundary_pending g x (hx.bankPend_eq ▸ hp)]
    exact ⟨(fld_bankSwitched g x).trans (by rw [fld_congr hbank]), flag_bankSwitched g x, raised_bankSwitched g x,
      (counted_bankSwitched g x).congr hcount rfl⟩

/-- The ring takes the block. -/
theorem runs_audioBlockEnd_ring (hl : groupListens s 0 = true) (hs : settling s 0 formed = false)
    (hrec : flag s pgRing Off.RING_CTRL 0 = true) (hidx : s.au.writeIdx < 2 ^ 32) (hcap : 1 ≤ ringCap s) :
    Runs (.audioBlockEnd 0 formed pcm) s fun t =>
      t.au.writeIdx = (s.au.writeIdx + 1) % 2 ^ 32 ∧ Counted pgRing Off.RING_CNT_BLOCKS 1 s t ∧ t.au.ring.length ≤ ringCap s ∧
        ∃ b, t.au.ring.getLast? = some b ∧ b.idx = s.au.writeIdx ∧ b.tracks = (ringTracks s).length ∧ b.time = sampleTime s 0 formed := by
  obtain ⟨flags, planes, live, late, x, hplanes, e, hx⟩ := audioBlockEnd_stages pcm (by decide) hl hs
  obtain ⟨pend, hau⟩ := bankBoundary_au 0 x
  obtain ⟨hnew, hlen⟩ := hx.ring_newest hrec hidx hcap
  obtain ⟨b, hb, hat, htracks, htime⟩ := hnew.getLast
  refine ⟨bankBoundary 0 x, congrArg Host.Outcome.next e, ?_, ?_, ?_, b, ?_, hat, htracks.trans hplanes, htime⟩
  · rw [hau]
    exact hx.writeIdx_ring hrec
  · exact (hx.counted_ring hrec).congr rfl (reg_bankBoundary x (by decide) (by decide) (by decide) (by decide))
  · rw [hau]
    exact hlen
  · rw [hau]
    exact hb

/-- Group 1's live blocks take the block. -/
theorem runs_audioBlockEnd_live (hl : groupListens s 1 = true) (hs : settling s 1 formed = false)
    (hrun : flag s (pgBf 1) Off.CTRL 0 = true) (hmask : fld s (pgBf 1) Off.BF_LIVE 0 16 ≠ 0) :
    Runs (.audioBlockEnd 1 formed pcm) s fun t =>
      t.au.liveIdx = (s.au.liveIdx + 1) % 2 ^ 32 ∧ t.au.live.length ≤ 64 ∧ t.au.ring = s.au.ring ∧
        ∃ b, t.au.live.getLast? = some b ∧ b.idx = s.au.liveIdx ∧ b.time = sampleTime s 1 formed := by
  obtain ⟨flags, planes, live, late, x, -, e, hx⟩ := audioBlockEnd_stages pcm (by decide) hl hs
  obtain ⟨pend, hau⟩ := bankBoundary_au 1 x
  obtain ⟨hnext, hring, hnew, hlen⟩ := hx.live_newest hrun hmask
  obtain ⟨b, hb, hat, -, htime⟩ := hnew.getLast
  refine ⟨bankBoundary 1 x, congrArg Host.Outcome.next e, ?_, ?_, ?_, b, ?_, hat, htime⟩
  · rw [hau]
    exact hnext
  · rw [hau]
    exact hlen
  · rw [hau]
    exact hring
  · rw [hau]
    exact hb

/-- What the microphones deliver while they settle is discarded (R139). -/
theorem exec_audioBlockEnd_settling {g : Nat} (hs : settling s g formed = true) : exec (.audioBlockEnd g formed pcm) s = .next s := by
  have hskip : (!groupListens s g || decide (1 < g) || settling s g formed) = true := by rw [hs, Bool.or_true]
  exact congrArg Host.Outcome.next (if_pos hskip)

end

/-- Settles O25: a block's end by its stages, and RESYNC and the bank switch from their deals and their register. -/
theorem acoustic : Obligations.Acoustic := by
  unfold Obligations.Acoustic
  intro clips heard
  refine ⟨?_, ?_, ?_, ?_, ?_, ?_, ?_, ?_⟩
  · rintro s g formed pcm hg ⟨hl, hs⟩
    exact runs_audioBlockEnd pcm hg hl hs
  · rintro s formed pcm ⟨hl, hs⟩ hrec hidx hcap
    exact runs_audioBlockEnd_ring pcm hl hs hrec hidx hcap
  · rintro s formed pcm ⟨hl, hs⟩ hrun hmask
    exact runs_audioBlockEnd_live pcm hl hs hrun hmask
  · exact fun s formed pcm _ hs => exec_audioBlockEnd_settling pcm hs
  · exact fun s g d _ h => runs_resync h
  · exact fun s g e _ he hover => runs_resyncDone he hover
  · exact fun s g d _ h => runs_bankSwitch h
  · exact fun s w g _ h => runs_switch h

end Sys2Proof.Machine
end

section
/-! # What the image pipelines leave of the receivers (R204–R206, R220–R222) -/
namespace Sys2Proof.Machine

/-! ## Registers of a pipeline that its frames and lines change -/

/-- The offsets of a pipeline's registers that the opening of a frame, its lines and its end change: events and counters. -/
def pipeOffs : List Nat :=
  [Off.EVT_RAW, Off.ISP_CNT_FRAMES, Off.ISP_CNT_CUT, Off.ISP_CNT_OUT_DROP, Off.ISP_CNT_FILL_LINES, Off.ISP_CNT_STAT_LOST,
    Off.ISP_CNT_DESC_LOST, Off.ISP_CNT_CFG_REFUSED, Off.ISP_CNT_SAT]

/-- The registers that they change, and the one that a capture changes. -/
def pipeRegs (n : Nat) : List Nat := hhLost :: pipeOffs.map (pageBase (pgIsp n) + ·)

theorem pipe_mem {n off : Nat} (h : off ∈ pipeOffs) : pageBase (pgIsp n) + off ∈ pipeRegs n := .tail _ (List.mem_map_of_mem h)

theorem pipe_evt_mem (n : Nat) : evtOf (pgIsp n) ∈ pipeRegs n := pipe_mem (by decide)

theorem RegsBut.setIsp {l : List Nat} {s t : State} (h : RegsBut l s t) (n : Nat) (x : IspSt) : RegsBut l s (setIsp n x t) :=
  h.trans (.of_regs rfl rfl)

theorem RegsBut.captured {l : List Nat} {s t u : State} (h : RegsBut l s t) (hu : Captured t u) (m : hhLost ∈ l) : RegsBut l s u :=
  h.trans (hu.regsBut (.refl l u) m)

section
variable {n : Nat} (f : IspFrame) (q : OutFrame) (s : State)

theorem regsBut_outDrop : RegsBut (pipeRegs n) s (outDrop n f q s).2 :=
  (((RegsBut.refl _ s).setIsp _ _).bump 1 (pipe_mem (by decide))).raise _ (pipe_evt_mem n)

theorem regsBut_outEmit (segs : List (Nat × List Byte)) : RegsBut (pipeRegs n) s (outEmit n f q segs s).2 := by
  unfold outEmit
  dsimp only
  split
  · exact .refl _ s
  · split
    · exact regsBut_outDrop f q s
    · split
      · exact ((RegsBut.refl _ s).setIsp _ _).captured (captured_hhCapture ..) (.head _)
      · exact (RegsBut.refl _ s).setIsp _ _

theorem regsBut_outStep {r : OutFrame × State} (h : outStep n f q s = some r) : RegsBut (pipeRegs n) s r.2 := by
  unfold outStep at h
  dsimp only at h
  split at h
  · cases h
  · split at h
    · obtain rfl := Option.some.inj h
      split
      · exact regsBut_outEmit f q s _
      · exact (regsBut_outEmit f q s _).bump 1 (pipe_mem (by decide))
    · split at h
      · obtain rfl := Option.some.inj h
        split
        all_goals exact ((RegsBut.refl _ s).bump _ (pipe_mem (by decide))).trans (regsBut_outEmit f q _ _)
      · cases h

theorem regsBut_outRun (k : Nat) : RegsBut (pipeRegs n) s (outRun n f k q s).2 := by
  induction k generalizing q s with
  | zero => exact .refl _ s
  | succ k ih =>
    unfold outRun
    split
    · exact .refl _ s
    · next h => exact (regsBut_outStep f q s h).trans (ih _ _)

theorem regsBut_outsRun : RegsBut (pipeRegs n) s (outsRun n f s).2 := by
  have hfold (qs : List OutFrame) (a : List OutFrame × State) :
      RegsBut (pipeRegs n) a.2 (qs.foldl (fun a q => (a.1 ++ [(outRun n f 4097 q a.2).1], (outRun n f 4097 q a.2).2)) a).2 := by
    induction qs generalizing a with
    | nil => exact .refl _ _
    | cons q qs ih => exact (regsBut_outRun f q a.2 4097).trans (ih _)
  exact hfold f.outs ([], s)

theorem regsBut_outFinish : RegsBut (pipeRegs n) s (outFinish n f s q) := by
  unfold outFinish
  dsimp only
  split
  · split
    · exact ((RegsBut.refl _ s).bump 1 (pipe_mem (by decide))).raise _ (pipe_evt_mem n)
    · exact ((RegsBut.refl _ s).setIsp _ _).raise _ (pipe_evt_mem n)
  · exact .refl _ s

theorem regsBut_frameSettle : RegsBut (pipeRegs n) s (frameSettle n f s) := by
  have hfinish := RegsBut.foldl (fun u q => regsBut_outFinish (n := n) f q u) (f.outs.filter fun q => !outWaits s n q) s
  unfold frameSettle
  dsimp only
  exact .ite (hfinish.trans (.of_regs rfl rfl)) (hfinish.trans (.of_regs rfl rfl))

theorem regsBut_ispSettle : RegsBut (pipeRegs n) s (ispSettle n s) := RegsBut.foldl (fun u f => regsBut_frameSettle f u) _ s

theorem regsBut_statWrite : RegsBut (pipeRegs n) s (statWrite n f s) := by
  unfold statWrite
  dsimp only
  split
  · exact .refl _ s
  · split
    · exact (RegsBut.refl _ s).bump 1 (pipe_mem (by decide))
    · exact ((RegsBut.refl _ s).setIsp _ _).raise _ (pipe_evt_mem n)

theorem regsBut_ispFinish (i : Nat) : RegsBut (pipeRegs n) s (ispFinish n i s) := by
  unfold ispFinish
  split
  · exact .refl _ s
  · exact .ite (((((regsBut_outsRun _ s).trans (regsBut_statWrite _ _)).setIsp _ _).bump 1 (pipe_mem (by decide))).trans
      (regsBut_ispSettle _)) (.refl _ s)

end

/-! ## Frames and lines that receivers bring -/

/-- What a pipeline does with a frame or a line of a receiver leaves the receivers, the time and the power, and of the registers all but those
of the pipeline. -/
structure Piped (n : Nat) (s t : State) : Prop where
  csi : t.csi = s.csi
  part : t.part = s.part
  tt : t.tt = s.tt
  pwr : t.pwr = s.pwr
  regs : RegsBut (pipeRegs n) s t

/-- The parts of the state that a pipeline changes: registers, the heads of the pages, the recorder, the pipelines. -/
abbrev pipeMask : Nat := 0x410a

theorem Piped.of_keeps {n : Nat} {s t : State} (k : Keeps pipeMask s t) (h : RegsBut (pipeRegs n) s t) : Piped n s t :=
  ⟨k.same .csi rfl, k.same .part rfl, k.same .tt rfl, k.same .pwr rfl, h⟩

section
variable (n i : Nat) (s : State)

theorem piped_ispOpen (port dt frameNo sofTt seq width height : Nat) :
    Piped n s (ispOpen n i port dt frameNo sofTt seq width height s).2 := by
  refine .of_keeps (keeps_ispOpen (N := pipeMask) rfl _ _ _ _ _ _ _ _ _ _ (.refl _ s)) ?_
  unfold ispOpen
  dsimp only
  split
  · exact .refl _ s
  · have hdeep {u : State} (c : Bool) (h : RegsBut (pipeRegs n) s u) :
        RegsBut (pipeRegs n) s (if c then u else refuse (pgIsp n) Off.ISP_CNT_CFG_REFUSED u) := .ite h (h.bump 1 (pipe_mem (by decide)))
    refine hdeep _ (RegsBut.trans (.of_regs rfl rfl) (RegsBut.foldl (fun u q => ?_) _ _))
    exact .ite ((regsBut_outDrop _ q u).setIsp _ _) (.refl _ u)

theorem piped_ispLine (ps : List (List Nat)) : Piped n s (ispLine n i ps s).2 := by
  refine .of_keeps (keeps_ispLine (N := pipeMask) rfl _ _ _ _ (.refl _ s)) ?_
  unfold ispLine
  split
  · exact .refl _ s
  · split
    · exact .refl _ s
    · split
      · exact (((RegsBut.refl _ s).setIsp _ _).raise _ (pipe_evt_mem n)).bump 1 (pipe_mem (by decide))
      · exact (RegsBut.refl _ s).setIsp _ _

theorem piped_ispClose (flags : Nat) : Piped n s (ispClose n i flags s) :=
  .of_keeps (keeps_ispClose (N := pipeMask) rfl _ _ _ _ (.refl _ s)) (((RegsBut.refl _ s).setIsp _ _).trans (regsBut_ispFinish _ i))

end

end Sys2Proof.Machine
end

section
/-! # The slots of a receiver, and what work on one of them leaves (R184, R186) -/
namespace Sys2Proof.Machine

/-! ## Slots -/

section
variable (r : Nat) (s : State)

@[simp] theorem csiOf_setCsi (c : CsiSt) : csiOf (setCsi r c s) r = c := (sget_sset ..).trans (if_pos rfl)

@[simp] theorem csiSlot_wr (k : Nat) (p : Page) (off : Nat) (v : Word) : csiSlot (wr p off v s) r k = csiSlot s r k := rfl
@[simp] theorem csiSlot_setFld (k : Nat) (p : Page) (off lo w x : Nat) : csiSlot (setFld p off lo w x s) r k = csiSlot s r k := rfl
@[simp] theorem csiSlot_bump (k : Nat) (p : Page) (off n : Nat) : csiSlot (bump p off n s) r k = csiSlot s r k := rfl
@[simp] theorem csiSlot_startCmd (k : Nat) (p : Page) (id : Nat) : csiSlot (startCmd p id s) r k = csiSlot s r k := rfl
@[simp] theorem csiSlot_endCmd (k : Nat) (p : Page) (id : Nat) : csiSlot (endCmd p id s) r k = csiSlot s r k := rfl

theorem csiOf_of_csi {s t : State} (h : t.csi = s.csi) (r : Nat) : csiOf t r = csiOf s r := by unfold csiOf; rw [h]

theorem csiSlot_of_csi {s t : State} (h : t.csi = s.csi) (r k : Nat) : csiSlot t r k = csiSlot s r k := by
  unfold csiSlot; rw [csiOf_of_csi h]

@[simp] theorem csiOf_raise (p : Page) (b : Nat) : csiOf (raise p b s) r = csiOf s r := csiOf_of_csi (raise_csi ..) r
@[simp] theorem csiSlot_raise (k : Nat) (p : Page) (b : Nat) : csiSlot (raise p b s) r k = csiSlot s r k := csiSlot_of_csi (raise_csi ..) r k

end

theorem csiOf_updSlot (r k : Nat) (f : CsiSlot → CsiSlot) (s : State) : csiOf (updSlot r k f s) r =
    { csiOf s r with slots := (List.range 4).map fun j => if j = k then f (csiSlot s r j) else csiSlot s r j } := csiOf_setCsi ..

theorem csiSlot_updSlot {r k j : Nat} (hj : j < 4) (f : CsiSlot → CsiSlot) (s : State) :
    csiSlot (updSlot r k f s) r j = if j = k then f (csiSlot s r j) else csiSlot s r j := by
  unfold csiSlot
  rw [csiOf_updSlot, List.getD_eq_getElem?_getD, List.getElem?_map, List.getElem?_range hj]
  rfl

section
variable {r k j : Nat}

theorem csiSlot_updSlot_same (hk : k < 4) (f : CsiSlot → CsiSlot) (s : State) : csiSlot (updSlot r k f s) r k = f (csiSlot s r k) :=
  (csiSlot_updSlot hk f s).trans (if_pos rfl)

theorem csiSlot_updSlot_ne (hj : j < 4) (hne : j ≠ k) (f : CsiSlot → CsiSlot) (s : State) : csiSlot (updSlot r k f s) r j = csiSlot s r j :=
  (csiSlot_updSlot hj f s).trans (if_neg hne)

theorem csiSlot_updFrameOf_same (hk : k < 4) (f : CsiFrame → CsiFrame) (s : State) :
    csiSlot (updFrameOf r k f s) r k = { csiSlot s r k with frame := (csiSlot s r k).frame.map f } := csiSlot_updSlot_same hk _ s

theorem csiSlot_updFrameOf_ne (hj : j < 4) (hne : j ≠ k) (f : CsiFrame → CsiFrame) (s : State) :
    csiSlot (updFrameOf r k f s) r j = csiSlot s r j := csiSlot_updSlot_ne hj hne _ s

end

/-! ## Registers of a receiver, its pipeline and the recorder -/

/-- The registers that a receiver's work changes: of its own page at the offsets given, of its pipeline, and HH_CNT_LOST. -/
def intakeRegs (r : Nat) (offs : List Nat) : List Nat := pipeRegs (r / 4) ++ offs.map (pageBase (pgCsi r) + ·)

theorem intake_mem {r off : Nat} {offs : List Nat} (h : off ∈ offs) : pageBase (pgCsi r) + off ∈ intakeRegs r offs :=
  List.mem_append_right _ (List.mem_map_of_mem h)

/-- The page of a receiver is not that of its pipeline. -/
theorem csi_ne_isp (r : Nat) {a b : Nat} (ha : a < 0x1000) (hb : b < 0x1000) :
    pageBase (pgCsi r) + a ≠ pageBase (pgIsp (r / 4)) + b := by
  have hcsi : pageBase (pgCsi r) = if r < 4 then 0x104000 + 0x1000 * r else 0x204000 + 0x1000 * (r - 4) := rfl
  have hisp : pageBase (pgIsp (r / 4)) = 0x102000 + 0x100000 * (r / 4) := rfl
  rw [hcsi, hisp]
  split <;> omega

theorem pipeOffs_lt : ∀ off ∈ pipeOffs, off < 0x1000 := by decide

theorem csi_not_mem {r off : Nat} {offs : List Nat} (ho : off < 0x1000) (h : off ∉ offs) : pageBase (pgCsi r) + off ∉ intakeRegs r offs := by
  intro hm
  rcases List.mem_append.mp hm with hm | hm
  · rcases List.mem_cons.mp hm with e | hm
    · exact pageBase_ne_hh (p := pgCsi r) nofun ho (by decide) e
    · obtain ⟨b, hb, e⟩ := List.mem_map.mp hm
      exact csi_ne_isp r ho (pipeOffs_lt b hb) e.symm
  · obtain ⟨b, hb, e⟩ := List.mem_map.mp hm
    exact h (Nat.add_left_cancel e ▸ hb)

/-- A register of any page is another one where its offset is none of those. -/
theorem intake_not_mem {r off : Nat} {p : Page} {offs : List Nat} (ho : off < 0x1000) (hl : ∀ o ∈ offs, o < 0x1000)
    (h : off ∉ Off.HH_CNT_LOST :: (pipeOffs ++ offs)) : pageBase p + off ∉ intakeRegs r offs := by
  intro hm
  rcases List.mem_append.mp hm with hm | hm
  · rcases List.mem_cons.mp hm with e | hm
    · exact addr_ne ho (by decide) (fun e => h (e ▸ .head _)) e
    · obtain ⟨b, hb, e⟩ := List.mem_map.mp hm
      exact addr_ne (pipeOffs_lt b hb) ho (fun e => h (e ▸ .tail _ (List.mem_append_left _ hb))) e
  · obtain ⟨b, hb, e⟩ := List.mem_map.mp hm
    exact addr_ne (hl b hb) ho (fun e => h (e ▸ .tail _ (List.mem_append_right _ hb))) e

/-- From s to t receiver r has worked: parts, time and power are as they were, and so is every register but those of `intakeRegs`. -/
structure Calm (offs : List Nat) (r : Nat) (s t : State) : Prop where
  part : t.part = s.part
  tt : t.tt = s.tt
  pwr : t.pwr = s.pwr
  regs : RegsBut (intakeRegs r offs) s t

namespace Calm
variable {offs offs' : List Nat} {r : Nat} {s t u : State}

theorem refl (offs : List Nat) (r : Nat) (s : State) : Calm offs r s s := ⟨rfl, rfl, rfl, .refl _ s⟩

theorem trans (h : Calm offs r s t) (h' : Calm offs r t u) : Calm offs r s u :=
  ⟨h'.part.trans h.part, h'.tt.trans h.tt, h'.pwr.trans h.pwr, h.regs.trans h'.regs⟩

theorem mono (h : Calm offs r s t) (hm : ∀ o ∈ offs, o ∈ offs') : Calm offs' r s t := by
  refine ⟨h.part, h.tt, h.pwr, h.regs.mono fun a ha => ?_⟩
  rcases List.mem_append.mp ha with ha | ha
  · exact List.mem_append_left _ ha
  · obtain ⟨o, ho, rfl⟩ := List.mem_map.mp ha
    exact intake_mem (hm o ho)

theorem beatNo_eq (h : Calm offs r s t) : beatNo t = beatNo s := by unfold beatNo tnow; rw [h.tt]

theorem reg_eq (h : Calm offs r s t) {off : Nat} (ho : off < 0x1000) (hne : off ∉ offs) :
    reg t (pageBase (pgCsi r) + off) = reg s (pageBase (pgCsi r) + off) := h.regs _ (csi_not_mem ho hne)

/-- The offsets of the registers that tell whether a page starts commands (R77, R132, R539). -/
def enableOffs : List Nat := [Off.CTRL, Off.PWR_STATE, Off.PWR_ANTE_CFG, Off.FENCE_STATUS]

/-- Whether a page starts commands stays. -/
theorem enabled_eq (h : Calm offs r s t) (hl : ∀ o ∈ offs, o < 0x1000) (hne : ∀ o ∈ enableOffs, o ∉ offs) (p : Page) :
    enabled t p = enabled s p := by
  have hreg (q : Page) {off : Nat} (m : off ∈ enableOffs) : reg t (pageBase q + off) = reg s (pageBase q + off) := by
    have hother : ∀ o ∈ enableOffs, o < 0x1000 ∧ o ≠ Off.HH_CNT_LOST ∧ o ∉ pipeOffs := by decide
    obtain ⟨ho, hhh, hpipe⟩ := hother off m
    refine h.regs _ (intake_not_mem ho hl fun hm => ?_)
    rcases List.mem_cons.mp hm with e | hm
    · exact hhh e
    · exact (List.mem_append.mp hm).elim hpipe (hne off m)
  have hctrl : flag t p Off.CTRL 0 = flag s p Off.CTRL 0 := flag_congr (hreg p (by decide))
  have hphase : pwrPhase t = pwrPhase s := fld_congr (hreg pgPower (by decide))
  have htarget : pwrTarget t = pwrTarget s := fld_congr (hreg pgPower (by decide))
  have hante : flag t pgPower Off.PWR_ANTE_CFG 0 = flag s pgPower Off.PWR_ANTE_CFG 0 := flag_congr (hreg pgPower (by decide))
  have hfence : phaseOf t (pageDomain p) = phaseOf s (pageDomain p) := by
    unfold phaseOf
    split
    · exact fld_congr (hreg _ (by decide))
    · rfl
  have hlevel (st d : Nat) : domLevel t st d = domLevel s st d := by
    unfold domLevel domFitted raiseCd raiseMd
    rw [h.part, h.pwr, hante]
  unfold enabled quiesced fenced pageOn domOn
  rw [h.part, h.pwr, hctrl, hphase, htarget, hlevel, hfence]

end Calm

/-! ## Work on one slot -/

/-- The counters of a receiver that the work on a slot changes. -/
def slotCounts : List Nat :=
  [Off.CSI_CNT_FRAMES, Off.CSI_CNT_SHORT_LINE, Off.CSI_CNT_LONG_LINE, Off.CSI_CNT_SHORT_FRAME, Off.CSI_CNT_LONG_FRAME, Off.CSI_CNT_NO_FE,
    Off.CSI_CNT_OVERFLOW_CUT, Off.CSI_CNT_QUEUE_DROP, Off.CSI_CNT_ORPHAN, Off.CSI_CNT_GATED]

/-- The offsets of the registers that work on any slot changes, and of the one that shows the latest closed frame of slot k. -/
def sharedOffs : List Nat := Off.EVT_RAW :: Off.STATUS :: slotCounts
def slotOffs (k : Nat) : List Nat := (Off.CSI_LAST + 4 * k) :: sharedOffs

/-- From s to t receiver r has worked on slot k: the other slots, and their bits of STATUS, are as they were, and events stay raised. -/
structure Work (r k : Nat) (s t : State) : Prop extends Calm (slotOffs k) r s t where
  status : ∀ j, j ≠ k → j < 4 → flag t (pgCsi r) Off.STATUS (8 + j) = flag s (pgCsi r) Off.STATUS (8 + j)
  others : ∀ j, j ≠ k → j < 4 → csiSlot t r j = csiSlot s r j
  raised : ∀ b, Raised (pgCsi r) b s → Raised (pgCsi r) b t

namespace Work
variable {r k : Nat} {s t u : State}

theorem refl (r k : Nat) (s : State) : Work r k s s := ⟨.refl _ r s, fun _ _ _ => rfl, fun _ _ _ => rfl, fun _ => id⟩

theorem trans (h : Work r k s t) (h' : Work r k t u) : Work r k s u :=
  ⟨h.toCalm.trans h'.toCalm, fun j hj h4 => (h'.status j hj h4).trans (h.status j hj h4),
    fun j hj h4 => (h'.others j hj h4).trans (h.others j hj h4), fun b hb => h'.raised b (h.raised b hb)⟩

/-- What leaves STATUS, the events that are raised, and the other slots. -/
theorem of_calm (h : Calm (slotOffs k) r s t) (hs : rd t (pgCsi r) Off.STATUS = rd s (pgCsi r) Off.STATUS)
    (hr : ∀ b, Raised (pgCsi r) b s → Raised (pgCsi r) b t) (hc : ∀ j, j ≠ k → j < 4 → csiSlot t r j = csiSlot s r j) : Work r k s t :=
  ⟨h, fun _ _ _ => flag_congr hs, hc, hr⟩

theorem ite {c : Prop} [Decidable c] (ht : Work r k s t) (hu : Work r k s u) : Work r k s (if c then t else u) := by
  split
  · exact ht
  · exact hu

end Work

section
variable (r k : Nat) (s : State)

theorem work_updSlot (f : CsiSlot → CsiSlot) : Work r k s (updSlot r k f s) :=
  .of_calm ⟨rfl, rfl, rfl, .of_regs rfl rfl⟩ rfl (fun _ => id) fun _ hj h4 => csiSlot_updSlot_ne h4 hj f s

theorem work_updFrameOf (f : CsiFrame → CsiFrame) : Work r k s (updFrameOf r k f s) := work_updSlot r k s _

theorem work_bump {off : Nat} (n : Nat) (h : off ∈ slotCounts) : Work r k s (bump (pgCsi r) off n s) := by
  have hoff : ∀ o ∈ slotCounts, o < 0x1000 ∧ Off.STATUS ≠ o ∧ Off.EVT_RAW ≠ o := by decide
  obtain ⟨ho, hne, hevt⟩ := hoff off h
  exact .of_calm ⟨rfl, rfl, rfl, (RegsBut.refl _ s).bump n (intake_mem (.tail _ (.tail _ (.tail _ h))))⟩
    (reg_bump_ne n (addr_ne (by decide) ho hne)) (fun _ hb => hb.of_reg (reg_bump_ne n (addr_ne (by decide) ho hevt))) fun _ _ _ => rfl

theorem work_raise {b : Nat} (hb : b < 32) : Work r k s (raise (pgCsi r) b s) :=
  .of_calm ⟨raise_part .., raise_tt .., raise_pwr .., (RegsBut.refl _ s).raise b (intake_mem (.tail _ (.head _)))⟩
    (reg_raise_ne (addr_ne (by decide) (by decide) (by decide))) (fun _ h => h.raise _ hb) fun j _ _ => csiSlot_raise r s j ..

theorem work_startCmd (id : Nat) : Work r k s (startCmd (pgCsi r) id s) := .of_calm ⟨rfl, rfl, rfl, .of_regs rfl rfl⟩ rfl (fun _ h => h) fun _ _ _ => rfl

theorem work_last (hk : k < 4) (v : Word) : Work r k s (wr (pgCsi r) (Off.CSI_LAST + 4 * k) v s) :=
  .of_calm ⟨rfl, rfl, rfl, (RegsBut.refl _ s).wr v (intake_mem (.head _))⟩
    (reg_wr_ne v (addr_ne (by decide) (show 0x160 + 4 * k < 0x1000 by omega) (show 0x00C ≠ 0x160 + 4 * k by omega)))
    (fun _ hb => hb.of_reg (reg_wr_ne v
      (addr_ne (by decide) (show 0x160 + 4 * k < 0x1000 by omega) (show 0x010 ≠ 0x160 + 4 * k by omega)))) fun _ _ _ => rfl

theorem work_status (hk : k < 4) (x : Nat) : Work r k s (setFld (pgCsi r) Off.STATUS (8 + k) 1 x s) where
  toCalm := ⟨rfl, rfl, rfl, (RegsBut.refl _ s).wr _ (intake_mem (.tail _ (.tail _ (.head _))))⟩
  status j hj h4 := by
    rcases Nat.lt_or_gt_of_ne hj with h | h
    · exact flag_setFld_below _ x (by omega) (by omega)
    · exact flag_setFld_above _ x (by omega) (by omega)
  others _ _ _ := rfl
  raised _ hb := hb.of_reg (reg_setFld_ne _ _ _ (addr_ne (by decide) (by decide) (by decide)))

theorem work_piped {t : State} (h : Piped (r / 4) s t) : Work r k s t := by
  have hreg {off : Nat} (ho : off < 0x1000) : reg t (pageBase (pgCsi r) + off) = reg s (pageBase (pgCsi r) + off) :=
    h.regs _ fun hm => csi_not_mem (offs := []) ho List.not_mem_nil (List.mem_append_left _ hm)
  exact .of_calm ⟨h.part, h.tt, h.pwr, h.regs.mono fun _ => List.mem_append_left _⟩ (hreg (by decide))
    (fun _ hb => hb.of_reg (hreg (by decide))) fun j _ _ => csiSlot_of_csi h.csi r j

end

/-- A capture for the recorder leaves the receivers. -/
theorem Captured.csi_eq {s u : State} (h : Captured s u) : u.csi = s.csi := (congrArg State.csi h.rest).trans rfl

/-- To the receivers, a capture is as the work of a pipeline. -/
theorem Captured.piped {s u : State} (h : Captured s u) (n : Nat) : Piped n s u :=
  ⟨h.csi_eq, h.part_eq, h.tt_eq, h.pwr_eq, h.regsBut (.refl _ u) (.head _)⟩

end Sys2Proof.Machine
end

section
/-! # Lines and pad lines of a receiver's open frame (R187–R194) -/
namespace Sys2Proof.Machine

/-! ## What delivery changes in a frame -/

theorem bitAt_flag_same (b : Nat) (f : CsiFrame) : bitAt (CsiFrame.flag b f).flags b = true := by
  unfold CsiFrame.flag bitAt
  rw [bitsAt_putAt_same]
  rfl

/-- A mark leaves the marks that a frame has. -/
theorem bitAt_flag_mono (b : Nat) {f : CsiFrame} {c : Nat} (h : bitAt f.flags c = true) : bitAt (CsiFrame.flag b f).flags c = true := by
  rcases Nat.lt_trichotomy c b with hc | rfl | hc
  · unfold CsiFrame.flag bitAt
    rw [bitsAt_putAt_below (by omega)]
    exact h
  · exact bitAt_flag_same c f
  · unfold CsiFrame.flag bitAt
    rw [bitsAt_putAt_above (by omega)]
    exact h

/-- Frame g is frame f after lines or pad lines have gone downstream, or have been cut (R189, R190, R193, R194). -/
structure Delivered (f g : CsiFrame) : Prop where
  same : g = { f with flags := g.flags, cutLine := g.cutLine, next := g.next, padded := g.padded }
  flags : ∀ b, bitAt f.flags b = true → bitAt g.flags b = true

theorem Delivered.refl (f : CsiFrame) : Delivered f f := ⟨rfl, fun _ => id⟩

theorem Delivered.trans {f g h : CsiFrame} (a : Delivered f g) (b : Delivered g h) : Delivered f h :=
  ⟨b.same.trans (by rw [a.same]), fun c hc => b.flags c (a.flags c hc)⟩

/-- A cut, with its mark. -/
theorem delivered_cut (b c : Nat) (f : CsiFrame) : Delivered f { CsiFrame.flag b f with cutLine := c } := ⟨rfl, fun _ => bitAt_flag_mono b⟩

/-- The frame that a slot has open has been delivered on, and lines have gone to its FIFO. -/
def SlotFed (x y : CsiSlot) : Prop :=
  ∃ m fifo, (∀ f, Delivered f (m f)) ∧ y = { x with frame := x.frame.map m, fifo }

theorem SlotFed.refl (x : CsiSlot) : SlotFed x x := ⟨id, x.fifo, .refl, by rw [Option.map_id]; rfl⟩

theorem SlotFed.trans {x y z : CsiSlot} (h : SlotFed x y) (h' : SlotFed y z) : SlotFed x z := by
  obtain ⟨m, fifo, hm, rfl⟩ := h
  obtain ⟨m', fifo', hm', rfl⟩ := h'
  exact ⟨m' ∘ m, fifo', fun f => (hm f).trans (hm' _), by rw [Option.map_map]⟩

/-- From s to t lines of slot k of receiver r have been delivered. -/
structure LineWork (r k : Nat) (s t : State) : Prop extends Work r k s t where
  status_eq : rd t (pgCsi r) Off.STATUS = rd s (pgCsi r) Off.STATUS
  slot : SlotFed (csiSlot s r k) (csiSlot t r k)

namespace LineWork
variable {r k : Nat} {s t u : State}

theorem refl (r k : Nat) (s : State) : LineWork r k s s := ⟨.refl r k s, rfl, .refl _⟩

theorem trans (h : LineWork r k s t) (h' : LineWork r k t u) : LineWork r k s u :=
  ⟨h.toWork.trans h'.toWork, h'.status_eq.trans h.status_eq, h.slot.trans h'.slot⟩

/-- Work that leaves the slot as well. -/
theorem quiet (h : Work r k s t) (hs : rd t (pgCsi r) Off.STATUS = rd s (pgCsi r) Off.STATUS) (hc : csiSlot t r k = csiSlot s r k) :
    LineWork r k s t := ⟨h, hs, hc ▸ .refl _⟩

section
variable (h : LineWork r k s t)
include h

theorem updFrameOf (hk : k < 4) {m : CsiFrame → CsiFrame} (hm : ∀ f, Delivered f (m f)) : LineWork r k s (updFrameOf r k m t) :=
  h.trans ⟨work_updFrameOf r k t m, rfl, m, (csiSlot t r k).fifo, hm, csiSlot_updFrameOf_same hk m t⟩

theorem fifo (hk : k < 4) (l : List (Nat × List Byte)) : LineWork r k s (updSlot r k (fun x => { x with fifo := x.fifo ++ l }) t) :=
  h.trans ⟨work_updSlot r k t _, rfl, id, (csiSlot t r k).fifo ++ l, .refl, by rw [csiSlot_updSlot_same hk, Option.map_id]; rfl⟩

theorem bump {off : Nat} (n : Nat) (hoff : off ∈ slotCounts) : LineWork r k s (bump (pgCsi r) off n t) := by
  have hother : ∀ o ∈ slotCounts, o < 0x1000 ∧ Off.STATUS ≠ o := by decide
  exact h.trans (quiet (work_bump r k t n hoff) (reg_bump_ne n (addr_ne (by decide) (hother off hoff).1 (hother off hoff).2)) rfl)

theorem raise {b : Nat} (hb : b < 32) : LineWork r k s (raise (pgCsi r) b t) :=
  h.trans (quiet (work_raise r k t hb) (reg_raise_ne (addr_ne (by decide) (by decide) (by decide))) (csiSlot_raise ..))

theorem piped (hp : Piped (r / 4) t u) : LineWork r k s u :=
  h.trans (quiet (work_piped r k t hp)
    (hp.regs _ fun hm => csi_not_mem (offs := []) (by decide) List.not_mem_nil (List.mem_append_left _ hm)) (csiSlot_of_csi hp.csi r k))

end
end LineWork

/-! ## Delivery (R187, R193, R194) -/

theorem Captured.ite {s t u : State} {c : Prop} [Decidable c] (ht : Captured s t) (hu : Captured s u) : Captured s (if c then t else u) := by
  split
  · exact ht
  · exact hu

theorem captured_csiRecordLine (r k : Nat) (f : CsiFrame) (line : Nat) (ps : List (List Nat)) (s : State) :
    Captured s (csiRecordLine r k f line ps s) := by
  unfold csiRecordLine
  split
  · exact captured_hhInput ..
  · exact .ite (captured_hhInput ..) (.refl s)
  · exact .refl s

theorem captured_csiRecordFrame (r k : Nat) (f : CsiFrame) (s : State) : Captured s (csiRecordFrame r k f s) := by
  unfold csiRecordFrame
  split
  · exact .refl s
  · exact captured_hhCapture ..

section
variable {r k : Nat} (hk : k < 4)
include hk

theorem lineWork_csiDeliver (line : Nat) (ps : List (List Nat)) (s : State) : LineWork r k s (csiDeliver r k line ps s) := by
  have hrefl := LineWork.refl r k s
  unfold csiDeliver
  split
  · exact hrefl
  · next f _ =>
    split
    · exact hrefl
    · split
      · dsimp only
        split
        · exact (hrefl.updFrameOf hk fun f => delivered_cut _ line f).bump 1 (by decide)
        · exact (hrefl.fifo hk _).piped ((captured_csiRecordLine ..).piped _)
      · have hline := hrefl.piped (piped_ispLine (r / 4) (slotInput r k) s ps)
        dsimp only
        split
        · exact ((hline.updFrameOf hk fun f => delivered_cut _ line f).bump 1 (by decide)).raise (by decide)
        · exact hline.piped ((captured_csiRecordLine ..).piped _)

theorem lineWork_csiPad (stop n : Nat) (s : State) : LineWork r k s (csiPad r k stop n s).2 := by
  induction n generalizing s with
  | zero => exact .refl r k s
  | succ n ih =>
    unfold csiPad
    split
    · exact .refl r k s
    · split
      · exact .refl r k s
      · next f _ _ =>
        have hline := lineWork_csiDeliver (r := r) hk f.next (padLine (cfgDt f.cfg) (cfgPad f.cfg) f.width) s
        have hnext := hline.updFrameOf hk (m := fun f => { f with next := f.next + 1, padded := f.padded + 1 }) fun _ => ⟨rfl, fun _ => id⟩
        dsimp only
        split
        · exact hline
        · exact hnext.trans (ih _)

/-- A line of a queue stream for which the FIFO has room waits there (R194). -/
theorem csiDeliver_queue {f : CsiFrame} {line : Nat} {ps : List (List Nat)} {s : State} (hf : (csiSlot s r k).frame = some f)
    (hcut : f.cutLine = 0xFFFF) (hq : cfgQueue f.cfg = true)
    (hroom : fifoBytes ((csiSlot s r k).fifo ++ [(f.id, packLine (cfgDt f.cfg) ps)]) ≤ 65536) :
    csiSlot (csiDeliver r k line ps s) r k =
      { csiSlot s r k with fifo := (csiSlot s r k).fifo ++ [(f.id, packLine (cfgDt f.cfg) ps)] } := by
  have e : csiDeliver r k line ps s = csiRecordLine r k f line ps
      (updSlot r k (fun t => { t with fifo := t.fifo ++ [(f.id, packLine (cfgDt f.cfg) ps)] }) s) := by
    unfold csiDeliver
    rw [hf]
    dsimp only
    rw [if_neg (by rw [hcut]; decide), if_pos hq, if_neg (by omega)]
  rw [e, csiSlot_of_csi (captured_csiRecordLine ..).csi_eq, csiSlot_updSlot_same hk]

end

end Sys2Proof.Machine
end

section
/-! # Frames of a receiver open and close (R186, R190, R191, R197, R198) -/
namespace Sys2Proof.Machine

/-! ## A frame closes (R190, R198) -/

/-- A slot whose frame f has closed: f waits for its descriptor. -/
def CsiSlot.shut (f : CsiFrame) (x : CsiSlot) : CsiSlot := { x with frame := none, closing := x.closing ++ [f] }

/-- The frame f of slot k closes: it waits for its descriptor, is counted and shown, and is recorded. -/
def csiShut (r k : Nat) (f : CsiFrame) (s : State) : State :=
  updSlot r k (CsiSlot.shut f) s |> bump (pgCsi r) Off.CSI_CNT_FRAMES 1
    |> wr (pgCsi r) (Off.CSI_LAST + 4 * k) (BitVec.ofNat 32 (f.frameNo + 65536 * (f.flags % 65536)))
    |> setFld (pgCsi r) Off.STATUS (8 + k) 1 0 |> csiRecordFrame r k f

/-- Frame g is frame f, closed at a time after its missing lines have been padded. -/
structure ClosedAt (eofTt : Nat) (f g : CsiFrame) : Prop where
  frameNo : g.frameNo = f.frameNo
  seq : g.seq = f.seq
  closed : g.closed = true
  eofTt : g.eofTt = eofTt
  flags : ∀ b, bitAt f.flags b = true → bitAt g.flags b = true

/-- The low half of CSI_LAST. -/
theorem fieldOf_last (n m : Nat) : fieldOf (BitVec.ofNat 32 (n + 65536 * m)) 0 16 = n % 65536 := by
  unfold fieldOf bitsAt
  rw [BitVec.toNat_ofNat]
  omega

section
variable {r k : Nat} (hk : k < 4)
include hk

theorem work_csiShut (f : CsiFrame) (s : State) : Work r k s (csiShut r k f s) :=
  ((((work_updSlot r k s (CsiSlot.shut f)).trans (work_bump r k _ 1 (by decide))).trans (work_last r k _ hk _)).trans
    (work_status r k _ hk 0)).trans (work_piped r k _ ((captured_csiRecordFrame ..).piped _))

theorem csiSlot_csiShut (f : CsiFrame) (s : State) : csiSlot (csiShut r k f s) r k = CsiSlot.shut f (csiSlot s r k) := by
  unfold csiShut
  rw [csiSlot_of_csi (captured_csiRecordFrame ..).csi_eq, csiSlot_setFld, csiSlot_wr, csiSlot_bump, csiSlot_updSlot_same hk]

theorem csiShut_status (f : CsiFrame) (s : State) : flag (csiShut r k f s) (pgCsi r) Off.STATUS (8 + k) = false := by
  refine ((captured_csiRecordFrame ..).flag_eq (8 + k) (by decide) (by decide)).trans ?_
  unfold flag
  rw [fld_setFld_same _ _ _ _ _ (by omega)]
  rfl

theorem csiShut_last (f : CsiFrame) (s : State) : fld (csiShut r k f s) (pgCsi r) (Off.CSI_LAST + 4 * k) 0 16 = f.frameNo % 65536 := by
  have hoff : Off.CSI_LAST + 4 * k = 0x160 + 4 * k := rfl
  refine ((captured_csiRecordFrame ..).fld_eq 0 16 (by omega) (show 0x160 + 4 * k ≠ 0x088 by omega)).trans ?_
  rw [fld_congr (reg_setFld_ne _ _ _ (addr_ne (by omega) (by decide) (show 0x160 + 4 * k ≠ 0x00C by omega)))]
  unfold fld
  rw [rd_wr_same, fieldOf_last]

/-- A close pads the frame's missing lines, then shuts it and tells the pipeline. -/
theorem csiClose_eq {f : CsiFrame} {s : State} (eofTt : Nat) (hf : (csiSlot s r k).frame = some f) :
    ∃ u g fifo, Work r k s u ∧ ClosedAt eofTt f g ∧ csiSlot u r k = { csiSlot s r k with frame := some g, fifo } ∧
      csiClose r k eofTt s = if cfgQueue g.cfg then csiShut r k g u else ispClose (r / 4) (slotInput r k) g.flags (csiShut r k g u) := by
  have hpad : LineWork r k s (if (csiPad r k f.height f.height s).1 = 0 then (csiPad r k f.height f.height s).2
      else updFrameOf r k (CsiFrame.flag flShortFrame) (csiPad r k f.height f.height s).2 |> bump (pgCsi r) Off.CSI_CNT_SHORT_FRAME 1) := by
    have hlines := lineWork_csiPad (r := r) hk f.height f.height s
    split
    · exact hlines
    · exact (hlines.updFrameOf hk fun f => ⟨rfl, fun _ => bitAt_flag_mono _⟩).bump 1 (by decide)
  unfold csiClose
  rw [hf]
  dsimp only
  generalize (if (csiPad r k f.height f.height s).1 = 0 then _ else _) = v at hpad ⊢
  obtain ⟨m, fifo, hm, hslot⟩ := hpad.slot
  have hu : csiSlot (updFrameOf r k (fun f => { f with eofTt, closed := true }) v) r k =
      { csiSlot s r k with frame := some { m f with eofTt, closed := true }, fifo } := by
    rw [csiSlot_updFrameOf_same hk, hslot, hf]
    rfl
  refine ⟨_, { m f with eofTt, closed := true }, fifo, hpad.toWork.trans (work_updFrameOf r k v _),
    ⟨(congrArg CsiFrame.frameNo (hm f).same :), (congrArg CsiFrame.seq (hm f).same :), rfl, rfl, (hm f).flags⟩, hu, ?_⟩
  rw [hu]
  rfl

theorem work_csiClose (eofTt : Nat) (s : State) : Work r k s (csiClose r k eofTt s) := by
  cases hf : (csiSlot s r k).frame with
  | none =>
    unfold csiClose
    rw [hf]
    exact .refl r k s
  | some f =>
    obtain ⟨u, g, fifo, hu, -, -, e⟩ := csiClose_eq hk eofTt hf
    have hshut := hu.trans (work_csiShut hk g u)
    rw [e]
    exact .ite hshut (hshut.trans (work_piped r k _ (piped_ispClose ..)))

/-- What a close of a slot's open frame leaves. -/
theorem csiClose_closes {f : CsiFrame} {s : State} (eofTt : Nat) (hf : (csiSlot s r k).frame = some f) :
    (∃ g fifo, ClosedAt eofTt f g ∧ csiSlot (csiClose r k eofTt s) r k = CsiSlot.shut g { csiSlot s r k with fifo }) ∧
      flag (csiClose r k eofTt s) (pgCsi r) Off.STATUS (8 + k) = false ∧
      fld (csiClose r k eofTt s) (pgCsi r) (Off.CSI_LAST + 4 * k) 0 16 = f.frameNo % 65536 := by
  obtain ⟨u, g, fifo, -, hg, hu, e⟩ := csiClose_eq hk eofTt hf
  have hshut : csiSlot (csiShut r k g u) r k = CsiSlot.shut g { csiSlot s r k with fifo } := by rw [csiSlot_csiShut hk, hu]; rfl
  have hlast : fld (csiShut r k g u) (pgCsi r) (Off.CSI_LAST + 4 * k) 0 16 = f.frameNo % 65536 := by rw [csiShut_last hk, hg.frameNo]
  have hstatus := csiShut_status (r := r) hk g u
  rw [e]
  split
  · exact ⟨⟨g, fifo, hg, hshut⟩, hstatus, hlast⟩
  · have hp := piped_ispClose (r / 4) (slotInput r k) (csiShut r k g u) g.flags
    have hreg {off : Nat} (ho : off < 0x1000) := hp.regs (pageBase (pgCsi r) + off) fun hm =>
      csi_not_mem (offs := []) ho List.not_mem_nil (List.mem_append_left _ hm)
    exact ⟨⟨g, fifo, hg, (csiSlot_of_csi hp.csi r k).trans hshut⟩, (flag_congr (hreg (by decide))).trans hstatus,
      (fld_congr (hreg (show 0x160 + 4 * k < 0x1000 by omega))).trans hlast⟩

end

/-! ## A frame opens (R186, R190, R197) -/

/-- The frame that opens on a slot, as its registers and the Frame Start give it. -/
def csiFirst (r k no sofTt : Nat) (s : State) : CsiFrame :=
  let reg1 (off : Nat) : Word := rd s (pgCsi r) (off + 0x10 * k)
  { id := (csiSlot s r k).count, cfg := reg1 Off.CSI_STREAM_CFG, geom := reg1 Off.CSI_STREAM_GEOM, queue := reg1 Off.CSI_STREAM_QUEUE
    descq := reg1 Off.CSI_STREAM_DESCQ, frameNo := no % 65536, sofTt, eofTt := 0
    fsyncTt := ((csiOf s r).fsyncs.find? fun b => decide (b ≤ sofTt)).getD 0, opened := pulsesAt s (sofTt / 64)
    limit := (rd s (pgCsi r) Off.CSI_FRAME_TIMEOUT).toNat, seq := (csiSlot s r k).seq, linesRx := 0, padded := 0, short := 0, long := 0
    eccCorr := 0, eccAll := 0, crc := 0, flags := 0, cutLine := 0xFFFF, extra := 0, next := 0, announced := none, due := false
    closed := false }

/-- A slot on which frame f opens. -/
def CsiSlot.begun (f : CsiFrame) (x : CsiSlot) : CsiSlot :=
  { x with cfg := f.cfg, frame := some f, count := f.id + 1, seq := (f.seq + 1) % 2 ^ 32, gated := false }

/-- A frame f opens on slot k: it is shown as open and recorded. -/
def csiBegin (r k : Nat) (f : CsiFrame) (s : State) : State :=
  updSlot r k (CsiSlot.begun f) s |> startCmd (pgCsi r) (4 * f.id + k) |> setFld (pgCsi r) Off.STATUS (8 + k) 1 1
    |> csiRecordFrame r k f

section
variable {r k : Nat} (hk : k < 4)
include hk

theorem work_csiBegin (f : CsiFrame) (s : State) : Work r k s (csiBegin r k f s) :=
  (((work_updSlot r k s (CsiSlot.begun f)).trans (work_startCmd r k _ _)).trans (work_status r k _ hk 1)).trans
    (work_piped r k _ ((captured_csiRecordFrame ..).piped _))

theorem csiSlot_csiBegin (f : CsiFrame) (s : State) : csiSlot (csiBegin r k f s) r k = CsiSlot.begun f (csiSlot s r k) := by
  unfold csiBegin
  rw [csiSlot_of_csi (captured_csiRecordFrame ..).csi_eq, csiSlot_setFld, csiSlot_startCmd, csiSlot_updSlot_same hk]

theorem csiBegin_status (f : CsiFrame) (s : State) : flag (csiBegin r k f s) (pgCsi r) Off.STATUS (8 + k) = true := by
  refine ((captured_csiRecordFrame ..).flag_eq (8 + k) (by decide) (by decide)).trans ?_
  unfold flag
  rw [fld_setFld_same _ _ _ _ _ (by omega)]
  rfl

end

/-- What follows the opening of frame f: a halted queue cuts it at its first line, and so does a pipeline that does not take it (R194, R204). -/
def csiTaken (r k : Nat) (f : CsiFrame) (s : State) : State :=
  if cfgQueue f.cfg then
    if queueHalted s (.csiLine r k) (fieldOf f.queue 0 18) then
      updFrameOf r k (fun f => { CsiFrame.flag flQueueDrop f with cutLine := 0 }) s |> bump (pgCsi r) Off.CSI_CNT_QUEUE_DROP 1
    else s
  else
    let e := ispOpen (slotPipe r) (slotInput r k) r (cfgDt f.cfg) f.frameNo f.sofTt f.seq f.width f.height s
    if e.1 then e.2
    else
      updFrameOf r k (fun f => { CsiFrame.flag flOverflow f with cutLine := 0 }) e.2
        |> bump (pgCsi r) Off.CSI_CNT_OVERFLOW_CUT 1 |> raise (pgCsi r) Evt.CSI_OVERFLOW_CUT

theorem csiOpen_eq (r k no sofTt : Nat) (s : State) :
    csiOpen r k no sofTt s = csiTaken r k (csiFirst r k no sofTt s) (csiBegin r k (csiFirst r k no sofTt s) s) := rfl

section
variable {r k : Nat} (hk : k < 4)
include hk

theorem lineWork_csiTaken (f : CsiFrame) (s : State) : LineWork r k s (csiTaken r k f s) := by
  have hrefl := LineWork.refl r k s
  unfold csiTaken
  split
  · split
    · exact (hrefl.updFrameOf hk fun f => delivered_cut _ 0 f).bump 1 (by decide)
    · exact hrefl
  · have hopen := hrefl.piped (piped_ispOpen (r / 4) (slotInput r k) s r (cfgDt f.cfg) f.frameNo f.sofTt f.seq f.width f.height)
    dsimp only
    split
    · exact hopen
    · exact ((hopen.updFrameOf hk fun f => delivered_cut _ 0 f).bump 1 (by decide)).raise (by decide)

/-- What such a cut changes in a frame is its marks and the line of the cut. -/
theorem csiSlot_csiTaken (f : CsiFrame) (s : State) : ∃ m : CsiFrame → CsiFrame,
    (∀ f, m f = { f with flags := (m f).flags, cutLine := (m f).cutLine }) ∧
      csiSlot (csiTaken r k f s) r k = { csiSlot s r k with frame := (csiSlot s r k).frame.map m } := by
  have hsame {u : State} (h : csiSlot u r k = csiSlot s r k) : ∃ m : CsiFrame → CsiFrame,
      (∀ f, m f = { f with flags := (m f).flags, cutLine := (m f).cutLine }) ∧
        csiSlot u r k = { csiSlot s r k with frame := (csiSlot s r k).frame.map m } := ⟨id, fun _ => rfl, by rw [Option.map_id, h]; rfl⟩
  have hopen := piped_ispOpen (slotPipe r) (slotInput r k) s r (cfgDt f.cfg) f.frameNo f.sofTt f.seq f.width f.height
  unfold csiTaken
  dsimp only
  split
  · split
    · exact ⟨fun f => { CsiFrame.flag flQueueDrop f with cutLine := 0 }, fun _ => rfl, csiSlot_updFrameOf_same hk _ s⟩
    · exact hsame rfl
  · split
    · exact hsame (csiSlot_of_csi hopen.csi r k)
    · refine ⟨fun f => { CsiFrame.flag flOverflow f with cutLine := 0 }, fun _ => rfl, ?_⟩
      rw [csiSlot_raise, csiSlot_bump, csiSlot_updFrameOf_same hk, csiSlot_of_csi hopen.csi]

theorem work_csiOpen (no sofTt : Nat) (s : State) : Work r k s (csiOpen r k no sofTt s) := by
  rw [csiOpen_eq]
  exact (work_csiBegin hk _ s).trans (lineWork_csiTaken hk _ _).toWork

/-- What the opening of a frame leaves: the frame may have been cut at its first line. -/
theorem csiOpen_opens (no sofTt : Nat) (s : State) :
    (∃ g, g = { csiFirst r k no sofTt s with flags := g.flags, cutLine := g.cutLine } ∧
      csiSlot (csiOpen r k no sofTt s) r k = { CsiSlot.begun (csiFirst r k no sofTt s) (csiSlot s r k) with frame := some g }) ∧
      flag (csiOpen r k no sofTt s) (pgCsi r) Off.STATUS (8 + k) = true := by
  have h := lineWork_csiTaken (r := r) hk (csiFirst r k no sofTt s) (csiBegin r k (csiFirst r k no sofTt s) s)
  obtain ⟨m, hm, hslot⟩ := csiSlot_csiTaken (r := r) hk (csiFirst r k no sofTt s) (csiBegin r k (csiFirst r k no sofTt s) s)
  rw [csiOpen_eq]
  refine ⟨⟨m (csiFirst r k no sofTt s), hm _, ?_⟩, (flag_congr h.status_eq).trans (csiBegin_status hk _ s)⟩
  rw [hslot, csiSlot_csiBegin hk]
  rfl

end

end Sys2Proof.Machine
end

section
/-! # The headers of packets (R182, R184, R185) -/
namespace Sys2Proof.Machine

/-! ## Frames with a mark -/

/-- What marks, and counts of lines with faults, change in a frame. -/
def MarkedAs (f g : CsiFrame) : Prop :=
  g = { f with flags := g.flags, crc := g.crc, short := g.short, long := g.long, eccCorr := g.eccCorr, eccAll := g.eccAll }

theorem MarkedAs.trans {f g h : CsiFrame} (a : MarkedAs f g) (b : MarkedAs g h) : MarkedAs f h := by
  unfold MarkedAs at a b ⊢
  exact Eq.trans b (by rw [a])

/-- A slot whose open frame has been marked. -/
def SlotMarked (x y : CsiSlot) : Prop := ∃ m, (∀ f, MarkedAs f (m f)) ∧ y = { x with frame := x.frame.map m }

theorem SlotMarked.refl (x : CsiSlot) : SlotMarked x x := ⟨id, fun _ => rfl, by rw [Option.map_id]; rfl⟩

theorem SlotMarked.trans {x y z : CsiSlot} (h : SlotMarked x y) (h' : SlotMarked y z) : SlotMarked x z := by
  obtain ⟨m, hm, rfl⟩ := h
  obtain ⟨m', hm', rfl⟩ := h'
  exact ⟨m' ∘ m, fun f => (hm f).trans (hm' _), by rw [Option.map_map]⟩

theorem SlotMarked.of_eq {x y : CsiSlot} (h : y = x) : SlotMarked x y := h ▸ .refl x

theorem slotMarked_updFrameOf {r j k : Nat} (hj : j < 4) {m : CsiFrame → CsiFrame} (hm : ∀ f, MarkedAs f (m f)) (s : State) :
    SlotMarked (csiSlot s r j) (csiSlot (updFrameOf r k m s) r j) := by
  by_cases e : j = k
  · subst e
    exact ⟨m, hm, csiSlot_updFrameOf_same hj m s⟩
  · exact .of_eq (csiSlot_updFrameOf_ne hj e m s)

/-- What a slot takes its packets by stays under a mark. -/
theorem SlotMarked.slotCfg_eq {s u : State} {r k : Nat} (h : SlotMarked (csiSlot s r k) (csiSlot u r k)) : slotCfg u r k = slotCfg s r k := by
  obtain ⟨m, hm, e⟩ := h
  unfold slotCfg
  rw [e]
  cases (csiSlot s r k).frame with
  | none => rfl
  | some f => exact (congrArg CsiFrame.cfg (hm f) :)

section
variable (r : Nat) (m : CsiFrame → CsiFrame) (l : List Nat) (s : State)

theorem burst_updFrameOf (k : Nat) : (csiOf (updFrameOf r k m s) r).burst = (csiOf s r).burst := by
  unfold updFrameOf
  rw [csiOf_updSlot]

theorem burst_foldl_updFrameOf : (csiOf (l.foldl (fun s k => updFrameOf r k m s) s) r).burst = (csiOf s r).burst := by
  induction l generalizing s with
  | nil => rfl
  | cons k l ih => exact (ih _).trans (burst_updFrameOf r m s k)

theorem reg_foldl_updFrameOf (a : Nat) : reg (l.foldl (fun s k => updFrameOf r k m s) s) a = reg s a := by
  induction l generalizing s with
  | nil => rfl
  | cons k l ih => exact ih (updFrameOf r k m s)

end

/-! ## A header that can be used -/

/-- The mark of a corrected header. -/
def eccMark (f : CsiFrame) : CsiFrame := { CsiFrame.flag flEccCorr f with eccCorr := f.eccCorr + 1, eccAll := f.eccAll + 1 }

theorem marked_eccMark (f : CsiFrame) : MarkedAs f (eccMark f) := rfl

/-- The offset of the counts of a virtual channel. -/
def vcOff (vc : Nat) : Nat := Off.CSI_VC_ERR + 4 * (vc % 16)

theorem vcOff_bounds (vc : Nat) : 0x180 ≤ vcOff vc ∧ vcOff vc < 0x1C0 := by
  have : vcOff vc = 0x180 + 4 * (vc % 16) := rfl
  omega

section
variable (r vc lo : Nat) (s : State)

theorem avkCount_part : (avkCount r vc lo s).part = s.part := by unfold avkCount; dsimp only; split <;> rfl
theorem avkCount_tt : (avkCount r vc lo s).tt = s.tt := by unfold avkCount; dsimp only; split <;> rfl
theorem avkCount_pwr : (avkCount r vc lo s).pwr = s.pwr := by unfold avkCount; dsimp only; split <;> rfl
theorem avkCount_csi : (avkCount r vc lo s).csi = s.csi := by unfold avkCount; dsimp only; split <;> rfl

theorem reg_avkCount {a : Nat} (h : a ≠ pageBase (pgCsi r) + vcOff vc) : reg (avkCount r vc lo s) a = reg s a := by
  unfold avkCount
  dsimp only
  split
  · exact reg_setFld_ne _ _ _ h
  · rfl

end

/-- The registers that a header changes: the counts of errors of the receiver, and of its virtual channel. -/
def headOffs (vc : Nat) : List Nat := [Off.CSI_CNT_ECC_CORR, vcOff vc]

/-- The header of a packet has been taken: frames may have been marked as corrected. -/
structure Heard (r vc : Nat) (s u : State) : Prop extends Calm (headOffs vc) r s u where
  burst : (csiOf u r).burst = (csiOf s r).burst
  slots : ∀ j, j < 4 → SlotMarked (csiSlot s r j) (csiSlot u r j)

/-- A corrected header is counted, and marked in the frames of the slots given (R185). -/
def csiCorrected (r vc : Nat) (l : List Nat) (s : State) : State :=
  l.foldl (fun s j => updFrameOf r j eccMark s) (avkCount r vc 0 (bump (pgCsi r) Off.CSI_CNT_ECC_CORR 1 s))

section
variable (r vc : Nat) (l : List Nat) (s : State)

theorem heard_refl : Heard r vc s s := ⟨.refl _ r s, rfl, fun _ _ => .refl _⟩

theorem Heard.mark {r vc : Nat} {s u : State} (h : Heard r vc s u) (l : List Nat) :
    Heard r vc s (l.foldl (fun s j => updFrameOf r j eccMark s) u) := by
  induction l generalizing u with
  | nil => exact h
  | cons j l ih =>
    refine ih ⟨h.toCalm.trans ⟨rfl, rfl, rfl, .of_regs rfl rfl⟩, ?_, fun i hi => (h.slots i hi).trans (slotMarked_updFrameOf hi marked_eccMark u)⟩
    exact (burst_updFrameOf r eccMark u j).trans h.burst

theorem heard_counted : Heard r vc s (avkCount r vc 0 (bump (pgCsi r) Off.CSI_CNT_ECC_CORR 1 s)) where
  part := avkCount_part ..
  tt := avkCount_tt ..
  pwr := avkCount_pwr ..
  regs a ha := (reg_avkCount (a := a) r vc 0 _ fun e => ha (e ▸ intake_mem (off := vcOff vc) (.tail _ (.head _)))).trans
    (reg_bump_ne 1 fun e => ha (e ▸ intake_mem (off := Off.CSI_CNT_ECC_CORR) (.head _)))
  burst := congrArg CsiSt.burst (csiOf_of_csi (avkCount_csi ..) r)
  slots j _ := .of_eq (csiSlot_of_csi (avkCount_csi ..) r j)

theorem heard_csiCorrected : Heard r vc s (csiCorrected r vc l s) := (heard_counted r vc s).mark l

theorem reg_csiCorrected (a : Nat) :
    reg (csiCorrected r vc l s) a = reg (avkCount r vc 0 (bump (pgCsi r) Off.CSI_CNT_ECC_CORR 1 s)) a :=
  reg_foldl_updFrameOf r eccMark l _ a

theorem counted_csiCorrected : Counted (pgCsi r) Off.CSI_CNT_ECC_CORR 1 s (csiCorrected r vc l s) := by
  have hbounds := vcOff_bounds vc
  refine (counted_bump (pgCsi r) Off.CSI_CNT_ECC_CORR 1 s).congr rfl ((reg_csiCorrected ..).trans (reg_avkCount _ _ _ _ ?_))
  exact addr_ne (by decide) (by omega) (show 0x084 ≠ vcOff vc by omega)

theorem regsBut_csiCorrected :
    RegsBut [pageBase (pgCsi r) + Off.CSI_CNT_ECC_CORR, pageBase (pgCsi r) + vcOff vc] s (csiCorrected r vc l s) := fun _ ha =>
  (reg_csiCorrected ..).trans <| (reg_avkCount r vc 0 _ fun e => ha (e ▸ .tail _ (.head _))).trans (reg_bump_ne 1 fun e => ha (e ▸ .head _))

end

section
variable {s : State} {r : Nat} (hlive : csiLive s r = true) (hburst : (csiOf s r).burst = true) (vc : Nat)
  (slots : State → List Nat) (k : State → State)
include hlive hburst

theorem csiPacket_clean : csiPacket r vc .clean slots k s = k s := by
  unfold csiPacket
  rw [hlive, hburst]
  rfl

theorem csiPacket_corrected : csiPacket r vc .corrected slots k s =
    k (csiCorrected r vc (slots (avkCount r vc 0 (bump (pgCsi r) Off.CSI_CNT_ECC_CORR 1 s))) s) := by
  unfold csiPacket
  rw [hlive, hburst]
  rfl

/-- A packet whose header can be used takes effect, after its header has been counted and marked. -/
theorem csiPacket_taken {ecc : Ecc} (hecc : ∀ v, ecc ≠ .bad v) : ∃ u, Heard r vc s u ∧ csiPacket r vc ecc slots k s = k u := by
  cases ecc with
  | clean => exact ⟨s, heard_refl r vc s, csiPacket_clean hlive hburst vc slots k⟩
  | corrected => exact ⟨_, heard_csiCorrected .., csiPacket_corrected hlive hburst vc slots k⟩
  | bad v => exact absurd rfl (hecc v)

end

/-- The slots that packets of a channel concern stay. -/
theorem Heard.vcSlots_eq {r vc : Nat} {s u : State} (h : Heard r vc s u) (c : Nat) : vcSlots u r c = vcSlots s r c := by
  unfold vcSlots
  refine List.filter_congr fun k hk => ?_
  rw [(h.slots k (List.mem_range.mp hk)).slotCfg_eq]

/-! ## Every open frame of a receiver -/

theorem csiSlot_foldl_updFrameOf {r j : Nat} (hj : j < 4) (m : CsiFrame → CsiFrame) {l : List Nat} (hl : l.Nodup) (s : State) :
    csiSlot (l.foldl (fun s k => updFrameOf r k m s) s) r j =
      if j ∈ l then { csiSlot s r j with frame := (csiSlot s r j).frame.map m } else csiSlot s r j := by
  induction l generalizing s with
  | nil => rfl
  | cons k l ih =>
    obtain ⟨hk, hl⟩ := List.nodup_cons.mp hl
    rw [List.foldl_cons, ih hl]
    by_cases e : j = k
    · subst e
      rw [if_neg hk, if_pos (.head _), csiSlot_updFrameOf_same hj]
    · rw [csiSlot_updFrameOf_ne hj e]
      simp only [List.mem_cons, e, false_or]

section
variable (r : Nat) (m : CsiFrame → CsiFrame) (s : State)

theorem csiSlot_updOpen {j : Nat} (hj : j < 4) :
    csiSlot (updOpen r m s) r j = { csiSlot s r j with frame := (csiSlot s r j).frame.map m } :=
  (csiSlot_foldl_updFrameOf hj m List.nodup_range s).trans (if_pos (List.mem_range.mpr hj))

theorem reg_updOpen (a : Nat) : reg (updOpen r m s) a = reg s a :=
  reg_foldl_updFrameOf r m _ s a

theorem burst_updOpen : (csiOf (updOpen r m s) r).burst = (csiOf s r).burst := burst_foldl_updFrameOf r m _ s

end

/-! ## A burst that ends in error (R182, R185) -/

/-- The burst ends: what is left of it is discarded, every open frame is marked, a counter counts and an event tells it. -/
def csiBroken (r off b : Nat) (m : CsiFrame → CsiFrame) (s : State) : State :=
  setCsi r { csiOf s r with burst := false } s |> updOpen r m |> bump (pgCsi r) off 1 |> raise (pgCsi r) b

section
variable (r : Nat) {off b : Nat} (m : CsiFrame → CsiFrame) (s : State)

theorem csiBroken_burst : (csiOf (csiBroken r off b m s) r).burst = false := by
  have e : csiOf (csiBroken r off b m s) r = csiOf (updOpen r m (setCsi r { csiOf s r with burst := false } s)) r := csiOf_raise ..
  rw [e, burst_updOpen, csiOf_setCsi]

theorem csiBroken_frame {k : Nat} (hk : k < 4) : (csiSlot (csiBroken r off b m s) r k).frame = (csiSlot s r k).frame.map m := by
  have hquiet : csiSlot (setCsi r { csiOf s r with burst := false } s) r k = csiSlot s r k := by unfold csiSlot; rw [csiOf_setCsi]
  have e : csiSlot (csiBroken r off b m s) r k = csiSlot (updOpen r m (setCsi r { csiOf s r with burst := false } s)) r k := csiSlot_raise ..
  rw [e, csiSlot_updOpen r m _ hk, hquiet]

theorem counted_csiBroken (ho : off < 0x1000) (hne : off ≠ Off.EVT_RAW) : Counted (pgCsi r) off 1 s (csiBroken r off b m s) :=
  (counted_bump (pgCsi r) off 1 (updOpen r m (setCsi r { csiOf s r with burst := false } s))).congr (reg_updOpen ..)
    (reg_raise_ne (addr_ne ho (by decide) hne))

theorem raised_csiBroken (hb : b ≤ 11) : Raised (pgCsi r) b (csiBroken r off b m s) := flag_raise_same _ _ hb (by omega)

theorem regsBut_csiBroken : RegsBut [pageBase (pgCsi r) + off, evtOf (pgCsi r)] s (csiBroken r off b m s) := by
  have hmarked : RegsBut [pageBase (pgCsi r) + off, evtOf (pgCsi r)] s (updOpen r m (setCsi r { csiOf s r with burst := false } s)) :=
    fun a _ => reg_updOpen r m _ a
  exact (hmarked.bump 1 (.head _)).raise b (.tail _ (.head _))

end

/-- What an uncorrectable header leaves. -/
structure HeaderLost (r vc : Nat) (s t : State) : Prop where
  burst : (csiOf t r).burst = false
  counted : Counted (pgCsi r) Off.CSI_CNT_ECC_UNCORR 1 s t
  raised : Raised (pgCsi r) Evt.CSI_ECC_UNCORR t
  frames : ∀ k, k < 4 → ((csiSlot t r k).frame.map fun f => (f.frameNo, f.eccAll, f.next)) =
    (csiSlot s r k).frame.map fun f => (f.frameNo, f.eccAll + 1, f.next)
  regs : RegsBut [pageBase (pgCsi r) + Off.CSI_CNT_ECC_UNCORR, evtOf (pgCsi r), pageBase (pgCsi r) + vcOff vc] s t

/-- The mark of an uncorrectable header. -/
def lostMark (f : CsiFrame) : CsiFrame := { CsiFrame.flag flEccUncorr f with eccAll := f.eccAll + 1 }

/-- An uncorrectable header ends the burst, and is counted for the virtual channel v. -/
def csiLost (r v : Nat) (s : State) : State := avkCount r v 0 (csiBroken r Off.CSI_CNT_ECC_UNCORR Evt.CSI_ECC_UNCORR lostMark s)

theorem csiPacket_bad {s : State} {r : Nat} (hlive : csiLive s r = true) (hburst : (csiOf s r).burst = true) (vc : Nat) (v : Option Nat)
    (slots : State → List Nat) (k : State → State) : csiPacket r vc (.bad v) slots k s = csiLost r (v.getD 0) s := by
  unfold csiPacket
  rw [hlive, hburst]
  rfl

theorem headerLost_csiLost (r v : Nat) (s : State) : HeaderLost r v s (csiLost r v s) := by
  have hbounds := vcOff_bounds v
  have hcsi := avkCount_csi r v 0 (csiBroken r Off.CSI_CNT_ECC_UNCORR Evt.CSI_ECC_UNCORR lostMark s)
  unfold csiLost
  refine ⟨?_, ?_, ?_, fun k hk => ?_, fun a ha => ?_⟩
  · rw [csiOf_of_csi hcsi, csiBroken_burst]
  · exact (counted_csiBroken r lostMark s (by decide) (by decide)).congr rfl
      (reg_avkCount _ _ _ _ (addr_ne (by decide) (by omega) (show 0x088 ≠ vcOff v by omega)))
  · exact (raised_csiBroken r lostMark s (by decide)).of_reg
      (reg_avkCount _ _ _ _ (addr_ne (by decide) (by omega) (show 0x010 ≠ vcOff v by omega)))
  · rw [csiSlot_of_csi hcsi, csiBroken_frame r lostMark s hk, Option.map_map]
    rfl
  · refine (reg_avkCount _ _ _ _ fun e => ha (e ▸ .tail _ (.tail _ (.head _)))).trans (regsBut_csiBroken r lostMark s a fun hm => ha ?_)
    exact List.mem_append_left [_] hm

/-! ## Work on the slots of a packet -/

/-- From s to t receiver r has worked on slots other than k. -/
structure Aside (r k : Nat) (s t : State) : Prop
    extends Calm (sharedOffs ++ ((List.range 4).filter (· != k)).map (Off.CSI_LAST + 4 * ·)) r s t where
  status : flag t (pgCsi r) Off.STATUS (8 + k) = flag s (pgCsi r) Off.STATUS (8 + k)
  slot : csiSlot t r k = csiSlot s r k

theorem Aside.refl (r k : Nat) (s : State) : Aside r k s s := ⟨.refl _ r s, rfl, rfl⟩

theorem Aside.trans {r k : Nat} {s t u : State} (h : Aside r k s t) (h' : Aside r k t u) : Aside r k s u :=
  ⟨h.toCalm.trans h'.toCalm, h'.status.trans h.status, h'.slot.trans h.slot⟩

theorem Work.aside {r j k : Nat} {s t : State} (h : Work r j s t) (hj : j < 4) (hk : k < 4) (hne : k ≠ j) : Aside r k s t := by
  refine ⟨h.toCalm.mono fun o ho => ?_, h.status k hne hk, h.others k hne hk⟩
  rcases List.mem_cons.mp ho with rfl | ho
  · refine List.mem_append_right _ (List.mem_map_of_mem (List.mem_filter.mpr ⟨List.mem_range.mpr hj, bne_iff_ne.mpr hne.symm⟩))
  · exact List.mem_append_left _ ho

/-- Where each step of a fold over slots works on its slot, slot k sees its own step alone. -/
theorem foldl_work {r k : Nat} {f : State → Nat → State} (hf : ∀ u, ∀ j < 4, Work r j u (f u j)) {l : List Nat} (hnodup : l.Nodup)
    (hlt : ∀ j ∈ l, j < 4) (hk : k ∈ l) (s : State) : ∃ u, Aside r k s u ∧ Aside r k (f u k) (l.foldl f s) := by
  have hother (l' : List Nat) (hlt' : ∀ j ∈ l', j < 4) (hn : k ∉ l') (s : State) : Aside r k s (l'.foldl f s) := by
    induction l' generalizing s with
    | nil => exact .refl r k s
    | cons j l' ih =>
      have hj := (hf s j (hlt' j (.head _))).aside (hlt' j (.head _)) (hlt k hk) (List.ne_of_not_mem_cons hn)
      exact hj.trans (ih (fun i hi => hlt' i (.tail _ hi)) (List.not_mem_of_not_mem_cons hn) _)
  obtain ⟨l₁, l₂, rfl⟩ := List.append_of_mem hk
  have hnot := List.nodup_middle.mp hnodup
  obtain ⟨hk', -⟩ := List.nodup_cons.mp hnot
  rw [List.foldl_append, List.foldl_cons]
  exact ⟨_, hother l₁ (fun i hi => hlt i (List.mem_append_left _ hi)) (fun hm => hk' (List.mem_append_left _ hm)) s,
    hother l₂ (fun i hi => hlt i (List.mem_append_right _ (.tail _ hi))) (fun hm => hk' (List.mem_append_right _ hm)) _⟩

end Sys2Proof.Machine
end

section
/-! # Frame Start and Frame End (R186, R190, R191, R197) -/
namespace Sys2Proof.Machine

/-! ## A Frame Start at one slot -/

/-- The frame that a Frame Start finds open is marked NO_FE, counted, and closed at the present boundary. -/
def csiLeft (r k : Nat) (s : State) : State :=
  if (csiSlot s r k).frame.isSome then
    updFrameOf r k (CsiFrame.flag flNoFe) s |> bump (pgCsi r) Off.CSI_CNT_NO_FE 1 |> csiClose r k (64 * beatNo s)
  else s

/-- After a slot's registers c have taken effect, a frame opens on it where they name the channel, the page is enabled and the gate open. -/
def csiStart (r k vc no sofTt : Nat) (corr : Bool) (c : Word) (s : State) : State :=
  if !(cfgEn c && cfgVc c == vc) || !enabled s (pgCsi r) then s
  else if !flag s (pgCsi r) Off.CSI_GATE 0 then
    updSlot r k (fun t => { t with gated := true }) s |> bump (pgCsi r) Off.CSI_CNT_GATED 1
  else if corr then updFrameOf r k eccMark (csiOpen r k no sofTt s) else csiOpen r k no sofTt s

/-- A slot's registers take effect after a Frame Start has closed the frame left open. -/
def csiReady (r k : Nat) (s : State) : State :=
  updSlot r k (fun t => { t with cfg := rd (csiLeft r k s) (pgCsi r) (Off.CSI_STREAM_CFG + 0x10 * k) }) (csiLeft r k s)

theorem csiFrameStart_eq (r k vc no sofTt : Nat) (corr : Bool) (s : State) : csiFrameStart r k vc no sofTt corr s =
    csiStart r k vc no sofTt corr (rd (csiLeft r k s) (pgCsi r) (Off.CSI_STREAM_CFG + 0x10 * k)) (csiReady r k s) := rfl

section
variable {r k : Nat} (hk : k < 4)
include hk

theorem work_csiLeft (s : State) : Work r k s (csiLeft r k s) :=
  .ite (((work_updFrameOf r k s _).trans (work_bump r k _ 1 (by decide))).trans (work_csiClose hk _ _)) (.refl r k s)

theorem work_csiReady (s : State) : Work r k s (csiReady r k s) := (work_csiLeft hk s).trans (work_updSlot r k _ _)

theorem work_csiStart (vc no sofTt : Nat) (corr : Bool) (c : Word) (s : State) : Work r k s (csiStart r k vc no sofTt corr c s) := by
  have hopen := work_csiOpen (r := r) hk no sofTt s
  exact .ite (.refl r k s) (.ite ((work_updSlot r k s _).trans (work_bump r k _ 1 (by decide)))
    (.ite (hopen.trans (work_updFrameOf r k _ _)) hopen))

theorem work_csiFrameStart (vc no sofTt : Nat) (corr : Bool) (s : State) : Work r k s (csiFrameStart r k vc no sofTt corr s) := by
  rw [csiFrameStart_eq]
  exact (work_csiReady hk s).trans (work_csiStart hk ..)

/-- The frame left open has closed with NO_FE. -/
theorem csiLeft_closes {f : CsiFrame} {s : State} (hf : (csiSlot s r k).frame = some f) : ∃ g fifo,
    ClosedAt (64 * beatNo s) (CsiFrame.flag flNoFe f) g ∧ csiSlot (csiLeft r k s) r k = CsiSlot.shut g { csiSlot s r k with fifo } := by
  have hmark : csiSlot (bump (pgCsi r) Off.CSI_CNT_NO_FE 1 (updFrameOf r k (CsiFrame.flag flNoFe) s)) r k =
      { csiSlot s r k with frame := some (CsiFrame.flag flNoFe f) } := by
    rw [csiSlot_bump, csiSlot_updFrameOf_same hk, hf]
    rfl
  obtain ⟨⟨g, fifo, hg, hslot⟩, -⟩ := csiClose_closes hk (64 * beatNo s) (congrArg CsiSlot.frame hmark)
  refine ⟨g, fifo, hg, ?_⟩
  unfold csiLeft
  rw [if_pos (by rw [hf]; rfl), hslot, hmark]
  rfl

/-- What the slot has counted stays until a frame opens. -/
theorem csiReady_seq (s : State) : (csiSlot (csiReady r k s) r k).seq = (csiSlot s r k).seq := by
  unfold csiReady
  rw [csiSlot_updSlot_same hk]
  cases hf : (csiSlot s r k).frame with
  | none =>
    unfold csiLeft
    rw [if_neg (by rw [hf]; decide)]
  | some f =>
    obtain ⟨g, fifo, -, hslot⟩ := csiLeft_closes hk hf
    rw [hslot]
    rfl

/-- The opening of a frame leaves the frames that wait for their descriptors. -/
theorem csiStart_closing (vc no sofTt : Nat) (corr : Bool) (c : Word) (s : State) :
    (csiSlot (csiStart r k vc no sofTt corr c s) r k).closing = (csiSlot s r k).closing := by
  obtain ⟨⟨g, -, hslot⟩, -⟩ := csiOpen_opens (r := r) hk no sofTt s
  have hopen : (csiSlot (csiOpen r k no sofTt s) r k).closing = (csiSlot s r k).closing := by rw [hslot]; rfl
  unfold csiStart
  split
  · rfl
  · split
    · rw [csiSlot_bump, csiSlot_updSlot_same hk]
    · split
      · rw [csiSlot_updFrameOf_same hk]
        exact hopen
      · exact hopen

theorem csiFrameStart_closes {f : CsiFrame} {s : State} (vc no sofTt : Nat) (corr : Bool) (hf : (csiSlot s r k).frame = some f) :
    ∃ g ∈ (csiSlot (csiFrameStart r k vc no sofTt corr s) r k).closing, ClosedAt (64 * beatNo s) (CsiFrame.flag flNoFe f) g := by
  obtain ⟨g, fifo, hg, hslot⟩ := csiLeft_closes hk hf
  refine ⟨g, ?_, hg⟩
  rw [csiFrameStart_eq, csiStart_closing hk]
  unfold csiReady
  rw [csiSlot_updSlot_same hk, hslot]
  exact List.mem_append_right _ (.head _)

end

/-- A frame that opens on slot k has the Frame Start's number and time, and the slot's registers as they are in s (R186, R190). -/
structure FrameBegun (r k no sofTt : Nat) (s : State) (f : CsiFrame) : Prop where
  frameNo : f.frameNo = no % 65536
  sofTt : f.sofTt = sofTt
  cfg : f.cfg = rd s (pgCsi r) (Off.CSI_STREAM_CFG + 0x10 * k)
  next : f.next = 0
  geom : f.geom = rd s (pgCsi r) (Off.CSI_STREAM_GEOM + 0x10 * k)

/-- A frame that has opened from s to t on slot k. -/
structure SlotBegun (r k no sofTt : Nat) (s t : State) : Prop where
  seq : (csiSlot t r k).seq = ((csiSlot s r k).seq + 1) % 2 ^ 32
  status : flag t (pgCsi r) Off.STATUS (8 + k) = true
  frame : ∃ f, (csiSlot t r k).frame = some f ∧ FrameBegun r k no sofTt s f

section
variable {r k : Nat} (hk : k < 4)
include hk

theorem csiOpen_begins (no sofTt : Nat) (s : State) : SlotBegun r k no sofTt s (csiOpen r k no sofTt s) := by
  obtain ⟨⟨g, hg, hslot⟩, hstatus⟩ := csiOpen_opens (r := r) hk no sofTt s
  refine ⟨by rw [hslot]; rfl, hstatus, g, by rw [hslot], ?_⟩
  exact ⟨by rw [hg]; rfl, by rw [hg]; rfl, by rw [hg]; rfl, by rw [hg]; rfl, by rw [hg]; rfl⟩

/-- A mark on a frame that has just opened. -/
theorem SlotBegun.mark {no sofTt : Nat} {s t : State} (h : SlotBegun r k no sofTt s t) :
    SlotBegun r k no sofTt s (updFrameOf r k eccMark t) := by
  obtain ⟨hseq, hstatus, f, hf, hbegun⟩ := h
  have hslot := csiSlot_updFrameOf_same (r := r) hk eccMark t
  refine ⟨by rw [hslot]; exact hseq, hstatus, eccMark f, by rw [hslot, hf]; rfl, ?_⟩
  exact ⟨hbegun.frameNo, hbegun.sofTt, hbegun.cfg, hbegun.next, hbegun.geom⟩

theorem csiStart_begins {vc : Nat} {c : Word} {s : State} (no sofTt : Nat) (corr : Bool) (hen : cfgEn c = true) (hvc : cfgVc c = vc)
    (hon : enabled s (pgCsi r) = true) (hgate : flag s (pgCsi r) Off.CSI_GATE 0 = true) :
    SlotBegun r k no sofTt s (csiStart r k vc no sofTt corr c s) := by
  have hopen := csiOpen_begins (r := r) hk no sofTt s
  unfold csiStart
  rw [if_neg (by rw [hen, hvc, hon]; simp), if_neg (by rw [hgate]; decide)]
  split
  · exact hopen.mark hk
  · exact hopen

end

/-! ## The registers that a packet leaves -/

/-- The offsets of a receiver's registers that a packet of a channel may change. -/
def packetOffs (vc : Nat) : List Nat := headOffs vc ++ (sharedOffs ++ (List.range 4).map (Off.CSI_LAST + 4 * ·))

/-- The offsets of the other registers. -/
def ApartOff (off : Nat) : Prop :=
  off < 0x1000 ∧ off ≠ Off.STATUS ∧ off ≠ Off.EVT_RAW ∧ (off < 0x80 ∨ 0xC4 ≤ off) ∧ (off < 0x160 ∨ 0x1C0 ≤ off)

theorem packet_not_mem {vc off : Nat} (h : ApartOff off) : off ∉ packetOffs vc := by
  obtain ⟨-, hstatus, hevt, hcount, hshown⟩ := h
  have hvc := vcOff_bounds vc
  have hshared : ∀ o ∈ sharedOffs, o = Off.STATUS ∨ o = Off.EVT_RAW ∨ (0x80 ≤ o ∧ o < 0xC4) := by decide
  have hlast : ∀ o ∈ (List.range 4).map (Off.CSI_LAST + 4 * ·), 0x160 ≤ o ∧ o < 0x1C0 := by decide
  intro hm
  rcases List.mem_append.mp hm with hm | hm
  · rcases List.mem_cons.mp hm with rfl | hm
    · rcases hcount with h | h <;> exact absurd h (by decide)
    · have := List.mem_singleton.mp hm
      omega
  · rcases List.mem_append.mp hm with hm | hm
    · rcases hshared off hm with h | h | h
      · exact hstatus h
      · exact hevt h
      · omega
    · have := hlast off hm
      omega

theorem packetOffs_lt {vc off : Nat} (h : off ∈ packetOffs vc) : off < 0x1000 := by
  have hvc := vcOff_bounds vc
  have hshared : ∀ o ∈ sharedOffs ++ (List.range 4).map (Off.CSI_LAST + 4 * ·), o < 0x1000 := by decide
  rcases List.mem_append.mp h with hm | hm
  · rcases List.mem_cons.mp hm with rfl | hm
    · decide
    · have := List.mem_singleton.mp hm
      omega
  · exact hshared off hm

section
variable {r vc k : Nat} {s t u : State}

theorem Calm.rd_eq (h : Calm (packetOffs vc) r s t) {off : Nat} (ho : ApartOff off) : rd t (pgCsi r) off = rd s (pgCsi r) off :=
  h.reg_eq ho.1 (packet_not_mem ho)

theorem Calm.packet_enabled (h : Calm (packetOffs vc) r s t) (p : Page) : enabled t p = enabled s p :=
  h.enabled_eq (fun _ => packetOffs_lt) (fun o ho => packet_not_mem (by revert o; unfold ApartOff; decide)) p

theorem Heard.packet (h : Heard r vc s u) : Calm (packetOffs vc) r s u := h.toCalm.mono fun _ => List.mem_append_left _

theorem Work.packet (h : Work r k s t) (hk : k < 4) (vc : Nat) : Calm (packetOffs vc) r s t := by
  refine h.toCalm.mono fun o ho => List.mem_append_right _ ?_
  rcases List.mem_cons.mp ho with rfl | ho
  · exact List.mem_append_right _ (List.mem_map_of_mem (List.mem_range.mpr hk))
  · exact List.mem_append_left _ ho

theorem Aside.packet (h : Aside r k s t) (vc : Nat) : Calm (packetOffs vc) r s t := by
  refine h.toCalm.mono fun o ho => List.mem_append_right _ ?_
  rcases List.mem_append.mp ho with ho | ho
  · exact List.mem_append_left _ ho
  · obtain ⟨j, hj, rfl⟩ := List.mem_map.mp ho
    exact List.mem_append_right _ (List.mem_map_of_mem (List.mem_of_mem_filter hj))

/-- The offsets of a slot's registers of a stream. -/
theorem stream_apart {base : Nat} (hb : base = Off.CSI_STREAM_CFG ∨ base = Off.CSI_STREAM_GEOM) (hk : k < 4) : ApartOff (base + 0x10 * k) := by
  have hcfg : Off.CSI_STREAM_CFG = 0x110 := rfl
  have hgeom : Off.CSI_STREAM_GEOM = 0x114 := rfl
  have hstatus : Off.STATUS = 0x00C := rfl
  have hevt : Off.EVT_RAW = 0x010 := rfl
  unfold ApartOff
  rcases hb with rfl | rfl <;> omega

/-- CSI_LAST of a slot stays while other slots are worked on. -/
theorem Aside.last_eq (h : Aside r k s t) (hk : k < 4) : rd t (pgCsi r) (Off.CSI_LAST + 4 * k) = rd s (pgCsi r) (Off.CSI_LAST + 4 * k) := by
  have hlast : Off.CSI_LAST = 0x160 := rfl
  have hshared : ∀ o ∈ sharedOffs, o < 0x160 := by decide
  refine h.reg_eq (by omega) fun hm => ?_
  rcases List.mem_append.mp hm with hm | hm
  · have := hshared _ hm
    omega
  · obtain ⟨j, hj, e⟩ := List.mem_map.mp hm
    have hne := bne_iff_ne.mp (List.mem_filter.mp hj).2
    omega

end

theorem csiFrameStart_begins {r k vc : Nat} {s : State} (hk : k < 4) (no sofTt : Nat) (corr : Bool)
    (hen : cfgEn (rd s (pgCsi r) (Off.CSI_STREAM_CFG + 0x10 * k)) = true)
    (hvc : cfgVc (rd s (pgCsi r) (Off.CSI_STREAM_CFG + 0x10 * k)) = vc) (hon : enabled s (pgCsi r) = true)
    (hgate : flag s (pgCsi r) Off.CSI_GATE 0 = true) : SlotBegun r k no sofTt s (csiFrameStart r k vc no sofTt corr s) := by
  have hleft := (work_csiLeft (r := r) hk s).packet hk vc
  have hready := (work_csiReady (r := r) hk s).packet hk vc
  have hcfg := hleft.rd_eq (stream_apart (.inl rfl) hk)
  have hgate' : ApartOff Off.CSI_GATE := by unfold ApartOff; decide
  rw [csiFrameStart_eq, hcfg]
  obtain ⟨hseq, hstatus, f, hf, hbegun⟩ := csiStart_begins hk no sofTt corr hen hvc ((hready.packet_enabled _).trans hon)
    ((flag_congr (hready.rd_eq hgate')).trans hgate)
  refine ⟨by rw [hseq, csiReady_seq hk], hstatus, f, hf, hbegun.frameNo, hbegun.sofTt, ?_, hbegun.next, ?_⟩
  · rw [hbegun.cfg, hready.rd_eq (stream_apart (.inl rfl) hk)]
  · rw [hbegun.geom, hready.rd_eq (stream_apart (.inr rfl) hk)]

/-! ## Packets that concern slots one by one -/

/-- A packet that can be used comes to each slot that it concerns after its header has been taken and other slots have been worked on; then
other slots follow. -/
theorem csiPacket_slot {s : State} {r vc k : Nat} {ecc : Ecc} (hlive : csiLive s r = true) (hburst : (csiOf s r).burst = true)
    (hecc : ∀ v, ecc ≠ .bad v) (slots : State → List Nat) {l : State → List Nat} {f : State → Nat → State}
    (hf : ∀ u, ∀ j < 4, Work r j u (f u j)) (hl : ∀ u, Heard r vc s u → l u = l s) (hnodup : (l s).Nodup) (hlt : ∀ j ∈ l s, j < 4)
    (hk : k ∈ l s) : ∃ u, Calm (packetOffs vc) r s u ∧ SlotMarked (csiSlot s r k) (csiSlot u r k) ∧
      Aside r k (f u k) (csiPacket r vc ecc slots (fun s => (l s).foldl f s) s) := by
  obtain ⟨v, hv, e⟩ := csiPacket_taken hlive hburst vc slots (fun s => (l s).foldl f s) hecc
  obtain ⟨u, hu, hafter⟩ := foldl_work hf hnodup hlt hk v
  refine ⟨u, hv.packet.trans (hu.packet vc), hu.slot ▸ hv.slots k (hlt k hk), ?_⟩
  rw [e, hl v hv]
  exact hafter

theorem nodup_slots (p : Nat → Bool) : ((List.range 4).filter p).Nodup := List.nodup_range.filter p

theorem lt_of_mem_slots {p : Nat → Bool} : ∀ j ∈ (List.range 4).filter p, j < 4 := fun _ hj => List.mem_range.mp (List.mem_of_mem_filter hj)

section
variable {s : State} {r vc k : Nat} {ecc : Ecc} (hlive : csiLive s r = true) (hburst : (csiOf s r).burst = true)
  (hecc : ∀ v, ecc ≠ .bad v)
include hlive hburst hecc

/-- A Frame Start comes to each slot whose registers, or whose open frame, have its channel. -/
theorem execFrameStart_slot (no now : Nat) (hmem : k ∈ fsSlots s r vc) :
    ∃ u, Calm (packetOffs vc) r s u ∧ SlotMarked (csiSlot s r k) (csiSlot u r k) ∧
      Aside r k (csiFrameStart r k vc no now (ecc == .corrected) u) (execFrameStart r vc ecc no now s) := by
  refine csiPacket_slot hlive hburst hecc _ (fun u j hj => work_csiFrameStart hj ..) (fun u hu => ?_) (nodup_slots _) lt_of_mem_slots hmem
  unfold fsSlots
  refine List.filter_congr fun j hj => ?_
  have hj := List.mem_range.mp hj
  rw [(hu.slots j hj).slotCfg_eq, hu.packet.rd_eq (stream_apart (.inl rfl) hj)]

/-- R190: the frame on each slot of a Frame Start's channel. -/
theorem execFrameStart_begins (hk : k < 4) (no now : Nat) (hen : cfgEn (rd s (pgCsi r) (Off.CSI_STREAM_CFG + 0x10 * k)) = true)
    (hvc : cfgVc (rd s (pgCsi r) (Off.CSI_STREAM_CFG + 0x10 * k)) = vc) (hon : enabled s (pgCsi r) = true)
    (hgate : flag s (pgCsi r) Off.CSI_GATE 0 = true) : SlotBegun r k no now s (execFrameStart r vc ecc no now s) := by
  have hmem : k ∈ fsSlots s r vc := List.mem_filter.mpr ⟨List.mem_range.mpr hk, by simp [hen, hvc]⟩
  obtain ⟨u, hu, ⟨m, -, hslot⟩, hafter⟩ := execFrameStart_slot hlive hburst hecc no now hmem
  have hcfg := hu.rd_eq (stream_apart (.inl rfl) hk)
  have hgeom := hu.rd_eq (stream_apart (.inr rfl) hk)
  have hgate' : ApartOff Off.CSI_GATE := by unfold ApartOff; decide
  obtain ⟨hseq, hstatus, f, hf, hbegun⟩ := csiFrameStart_begins (vc := vc) hk no now (ecc == .corrected) (by rw [hcfg]; exact hen) (by rw [hcfg]; exact hvc)
    ((hu.packet_enabled _).trans hon) ((flag_congr (hu.rd_eq hgate')).trans hgate)
  refine ⟨?_, hafter.status.trans hstatus, f, by rw [hafter.slot, hf], hbegun.frameNo, hbegun.sofTt, hbegun.cfg.trans hcfg, hbegun.next,
    hbegun.geom.trans hgeom⟩
  rw [hafter.slot, hseq, hslot]

/-- The frame left open on a slot of a Frame Start's channel (R190). -/
theorem execFrameStart_closes (hk : k < 4) (no now : Nat) {f : CsiFrame} (hf : (csiSlot s r k).frame = some f) (hen : cfgEn f.cfg = true)
    (hvc : cfgVc f.cfg = vc) : ∃ g ∈ (csiSlot (execFrameStart r vc ecc no now s) r k).closing,
      g.frameNo = f.frameNo ∧ g.seq = f.seq ∧ g.closed = true ∧ g.eofTt = 64 * beatNo s ∧ bitAt g.flags flNoFe = true := by
  have hcfg : slotCfg s r k = f.cfg := by unfold slotCfg; rw [hf]
  have hmem : k ∈ fsSlots s r vc := List.mem_filter.mpr ⟨List.mem_range.mpr hk, by simp [hcfg, hen, hvc]⟩
  obtain ⟨u, hu, ⟨m, hm, hslot⟩, hafter⟩ := execFrameStart_slot hlive hburst hecc no now hmem
  have hmf : (csiSlot u r k).frame = some (m f) := by rw [hslot, hf]; rfl
  obtain ⟨g, hg, hclosed⟩ := csiFrameStart_closes hk vc no now (ecc == .corrected) hmf
  refine ⟨g, hafter.slot ▸ hg, hclosed.frameNo.trans ?_, hclosed.seq.trans ?_, hclosed.closed, ?_, hclosed.flags _ (bitAt_flag_same _ _)⟩
  · exact (congrArg CsiFrame.frameNo (hm f) :)
  · exact (congrArg CsiFrame.seq (hm f) :)
  · rw [hclosed.eofTt, hu.beatNo_eq]

end

/-! ## A Frame End at one slot -/

/-- An open frame closes; else one that was turned away at the gate is over, or the packet is an orphan (R191, R197). -/
def csiFrameEnd (r k eofTt : Nat) (s : State) : State :=
  if (csiSlot s r k).frame.isSome then csiClose r k eofTt s
  else if (csiSlot s r k).gated then updSlot r k (fun t => { t with gated := false }) s
  else bump (pgCsi r) Off.CSI_CNT_ORPHAN 1 s

theorem work_csiFrameEnd {r k : Nat} (hk : k < 4) (eofTt : Nat) (s : State) : Work r k s (csiFrameEnd r k eofTt s) :=
  .ite (work_csiClose hk eofTt s) (.ite (work_updSlot r k s _) (work_bump r k s 1 (by decide)))

/-- The frame of a Frame End's channel has closed on slot k from s to t (R190, R198). -/
structure SlotEnded (r k eofTt : Nat) (f : CsiFrame) (s t : State) : Prop where
  frame : (csiSlot t r k).frame = none
  status : flag t (pgCsi r) Off.STATUS (8 + k) = false
  last : fld t (pgCsi r) (Off.CSI_LAST + 4 * k) 0 16 = f.frameNo % 65536
  closing : ∃ g, (csiSlot t r k).closing = (csiSlot s r k).closing ++ [g] ∧ g.frameNo = f.frameNo ∧ g.closed = true ∧ g.eofTt = eofTt

theorem csiClose_ends {r k : Nat} {f : CsiFrame} {s : State} (hk : k < 4) (eofTt : Nat) (hf : (csiSlot s r k).frame = some f) :
    SlotEnded r k eofTt f s (csiClose r k eofTt s) := by
  obtain ⟨⟨g, fifo, hg, hslot⟩, hstatus, hlast⟩ := csiClose_closes hk eofTt hf
  exact ⟨by rw [hslot]; rfl, hstatus, hlast, g, by rw [hslot]; rfl, hg.frameNo, hg.closed, hg.eofTt⟩

/-- A Frame End closes the open frame of each slot of its channel. -/
theorem execFrameEnd_ends {s : State} {r vc k : Nat} {ecc : Ecc} (hlive : csiLive s r = true) (hburst : (csiOf s r).burst = true)
    (hecc : ∀ v, ecc ≠ .bad v) (hk : k < 4) (now : Nat) {f : CsiFrame} (hf : (csiSlot s r k).frame = some f) (hen : cfgEn f.cfg = true)
    (hvc : cfgVc f.cfg = vc) : SlotEnded r k now f s (execFrameEnd r vc ecc now s) := by
  have hcfg : slotCfg s r k = f.cfg := by unfold slotCfg; rw [hf]
  have hmem : k ∈ vcSlots s r vc := List.mem_filter.mpr ⟨List.mem_range.mpr hk, by simp [hcfg, hen, hvc]⟩
  obtain ⟨u, -, ⟨m, hm, hslot⟩, hafter⟩ := csiPacket_slot (f := fun s k => csiFrameEnd r k now s) (l := fun s => vcSlots s r vc)
    hlive hburst hecc (fun s => vcSlots s r vc) (fun u j hj => work_csiFrameEnd hj now u) (fun u hu => hu.vcSlots_eq vc) (nodup_slots _)
    lt_of_mem_slots hmem
  have hmf : (csiSlot u r k).frame = some (m f) := by rw [hslot, hf]; rfl
  have hclose : csiFrameEnd r k now u = csiClose r k now u := if_pos (by rw [hmf]; rfl)
  rw [hclose] at hafter
  obtain ⟨hframe, hstatus, hlast, g, hg, hgno, hclosed, heof⟩ := csiClose_ends hk now hmf
  have hno : (m f).frameNo = f.frameNo := (congrArg CsiFrame.frameNo (hm f) :)
  refine ⟨(congrArg CsiSlot.frame hafter.slot).trans hframe, hafter.status.trans hstatus, ?_, g, ?_, hgno.trans hno, hclosed, heof⟩
  · exact (fld_congr (hafter.last_eq hk)).trans (hlast.trans (by rw [hno]))
  · exact (congrArg CsiSlot.closing hafter.slot).trans (hg.trans (by rw [hslot]))

/-! ## Bursts, deskew and the clock lane (R182, R201) -/

section
variable {s : State} {r : Nat} (hlive : csiLive s r = true)
include hlive

theorem execHsBurst_waits (ok : Bool) (hwait : (flag s (pgCsi r) Off.CSI_CFG 16 && !flag s (pgCsi r) Off.STATUS 13) = true) :
    execHsBurst r ok s = setCsi r { csiOf s r with burst := false } s := by
  unfold execHsBurst
  rw [hlive, if_neg (by decide), if_pos hwait]

theorem execHsBurst_begins (hwait : (flag s (pgCsi r) Off.CSI_CFG 16 && !flag s (pgCsi r) Off.STATUS 13) = false) :
    execHsBurst r true s = setCsi r { csiOf s r with burst := true } s := by
  unfold execHsBurst
  rw [hlive, hwait]
  rfl

theorem execHsBurst_faulty (hwait : (flag s (pgCsi r) Off.CSI_CFG 16 && !flag s (pgCsi r) Off.STATUS 13) = false) :
    execHsBurst r false s = csiBroken r Off.CSI_CNT_PHY_ERR Evt.CSI_PHY_ERR (CsiFrame.flag flPhyErr) s := by
  unfold execHsBurst
  rw [hlive, hwait]
  rfl

theorem execDeskew_live : execDeskew r s = setFlag (pgCsi r) Off.STATUS 13 true s := if_pos hlive
theorem execLinkUp_live (up : Bool) : execLinkUp r up s = setFlag (pgCsi r) Off.STATUS 12 up s := if_pos hlive

end

/-- A packet with an uncorrectable header, whatever its kind. -/
theorem exec_badHeader {s : State} {r vc no now line dt : Nat} {crcOk : Bool} {bs : List Byte} {v : Option Nat} {i : Instr}
    (hlive : csiLive s r = true) (hburst : (csiOf s r).burst = true)
    (hi : i ∈ [.frameStart r vc (.bad v) no now, .frameEnd r vc (.bad v) now, .lineStart r vc (.bad v) line, .lineEnd r vc (.bad v),
      .genericShortPacket r vc (.bad v), .longPacket r vc dt (.bad v) crcOk bs]) : exec i s = .next (csiLost r (v.getD 0) s) := by
  have hbad {slots : State → List Nat} {k : State → State} := csiPacket_bad hlive hburst vc v slots k
  simp only [List.mem_cons, List.not_mem_nil, or_false] at hi
  rcases hi with rfl | rfl | rfl | rfl | rfl | rfl
  · simp only [exec, doFrameStart, execFrameStart, hbad]
  · simp only [exec, doFrameEnd, execFrameEnd, hbad]
  · simp only [exec, doLineStart, execLineStart, hbad]
  · simp only [exec, doLineEnd, execLineEnd, hbad]
  · simp only [exec, doGenericShortPacket, execGenericShortPacket, hbad]
  · simp only [exec, doLongPacket, execLongPacket, hbad]

/-- Settles O30: the header of a packet first, then its effect slot by slot, where a slot sees the work of its own step alone. -/
theorem frames : Obligations.Frames := by
  unfold Obligations.Frames
  intro live takes cfg waits counter
  refine ⟨?_, ?_, ?_, ?_, ?_, ?_, ?_, ?_, ?_⟩
  · intro s r ok hlive hwait
    exact ⟨_, congrArg Host.Outcome.next (execHsBurst_waits hlive ok hwait), csiOf_setCsi .., .of_regs rfl rfl⟩
  · intro s r hlive hwait
    exact ⟨_, congrArg Host.Outcome.next (execHsBurst_begins hlive hwait), csiOf_setCsi .., .of_regs rfl rfl⟩
  · intro s r hlive hwait
    exact ⟨_, congrArg Host.Outcome.next (execHsBurst_faulty hlive hwait), csiBroken_burst .., fun k hk => csiBroken_frame _ _ _ hk,
      counted_csiBroken _ _ _ (by decide) (by decide), raised_csiBroken _ _ _ (by decide), regsBut_csiBroken _ _ _⟩
  · intro s r hlive
    exact ⟨_, congrArg Host.Outcome.next (execDeskew_live hlive), flag_setFlag_same _ _ _ _ (by decide),
      (RegsBut.refl _ s).setFlag 13 true (.head _)⟩
  · intro s r up hlive
    exact ⟨_, congrArg Host.Outcome.next (execLinkUp_live hlive up), flag_setFlag_same _ _ _ _ (by decide),
      (RegsBut.refl _ s).setFlag 12 up (.head _)⟩
  · rintro s r vc no now line dt crcOk bs v ⟨hlive, hburst⟩ i hi
    obtain ⟨hb, hc, hr, hf, hregs⟩ := headerLost_csiLost r (v.getD 0) s
    exact ⟨_, exec_badHeader hlive hburst hi, hb, hc, hr, hf, hregs⟩
  · rintro s r vc ecc no now k ⟨hlive, hburst⟩ hecc hk hen hvc hon hgate
    obtain ⟨hseq, hstatus, f, hf, hno, hsof, hcfg, hnext, hgeom⟩ := execFrameStart_begins hlive hburst hecc hk no now hen hvc hon hgate
    exact ⟨_, rfl, hseq, hstatus, f, hf, hno, hsof, hcfg, hnext, hgeom⟩
  · rintro s r vc ecc no now k f ⟨hlive, hburst⟩ hecc hk hf hen hvc
    exact ⟨_, rfl, execFrameStart_closes hlive hburst hecc hk no now hf hen hvc⟩
  · rintro s r vc ecc now k f ⟨hlive, hburst⟩ hecc hk hf hen hvc
    have hended := execFrameEnd_ends hlive hburst hecc hk now hf hen hvc
    exact ⟨_, rfl, hended.frame, hended.status, hended.last, hended.closing⟩

end Sys2Proof.Machine
end

section
/-! # Line Starts, generic packets and long packets (R184, R185, R187, R189) -/
namespace Sys2Proof.Machine

/-! ## A Line Start at one slot -/

/-- The open frame of a slot learns the number of its next line; without one the packet is an orphan, unless the gate turned its frame away. -/
def csiLineStart (r line k : Nat) (s : State) : State :=
  if (csiSlot s r k).frame.isSome then updFrameOf r k (fun f => { f with announced := some (line % 65536) }) s
  else if (csiSlot s r k).gated then s
  else bump (pgCsi r) Off.CSI_CNT_ORPHAN 1 s

theorem work_csiLineStart (r line k : Nat) (s : State) : Work r k s (csiLineStart r line k s) :=
  .ite (work_updFrameOf r k s _) (.ite (.refl r k s) (work_bump r k s 1 (by decide)))

/-- The slots of a channel whose lines carry numbers, and those that take a data type. -/
def numberedSlots (r vc : Nat) (s : State) : List Nat := (vcSlots s r vc).filter fun k => cfgLineNo (slotCfg s r k)
def typedSlots (r vc dt : Nat) (s : State) : List Nat := (vcSlots s r vc).filter fun k => cfgDt (slotCfg s r k) == dt

/-- A choice among a channel's slots by their registers stays while a header is taken. -/
theorem Heard.filter_slotCfg {r vc : Nat} {s u : State} (h : Heard r vc s u) (p : Word → Bool) :
    (vcSlots u r vc).filter (fun k => p (slotCfg u r k)) = (vcSlots s r vc).filter fun k => p (slotCfg s r k) := by
  rw [h.vcSlots_eq]
  refine List.filter_congr fun k hk => ?_
  rw [(h.slots k (lt_of_mem_slots k hk)).slotCfg_eq]

/-- A slot of the channel with an open frame is among those chosen by the frame's registers. -/
theorem mem_filter_slotCfg {s : State} {r vc k : Nat} {f : CsiFrame} {p : Word → Bool} (hk : k < 4) (hf : (csiSlot s r k).frame = some f)
    (hen : cfgEn f.cfg = true) (hvc : cfgVc f.cfg = vc) (hp : p f.cfg = true) :
    k ∈ (vcSlots s r vc).filter fun k => p (slotCfg s r k) := by
  have hcfg : slotCfg s r k = f.cfg := by unfold slotCfg; rw [hf]
  have hmem : k ∈ vcSlots s r vc := List.mem_filter.mpr ⟨List.mem_range.mpr hk, by simp [hcfg, hen, hvc]⟩
  exact List.mem_filter.mpr ⟨hmem, by rw [hcfg]; exact hp⟩

theorem execLineStart_announces {s : State} {r vc k : Nat} {ecc : Ecc} (hlive : csiLive s r = true) (hburst : (csiOf s r).burst = true)
    (hecc : ∀ v, ecc ≠ .bad v) (hk : k < 4) (line : Nat) {f : CsiFrame} (hf : (csiSlot s r k).frame = some f) (hen : cfgEn f.cfg = true)
    (hvc : cfgVc f.cfg = vc) (hno : cfgLineNo f.cfg = true) :
    (csiSlot (execLineStart r vc ecc line s) r k).frame.map (·.announced) = some (some (line % 65536)) := by
  obtain ⟨u, -, ⟨m, -, hslot⟩, hafter⟩ := csiPacket_slot (f := fun s k => csiLineStart r line k s) (l := numberedSlots r vc) hlive hburst hecc
    (numberedSlots r vc) (fun u j _ => work_csiLineStart r line j u) (fun u hu => hu.filter_slotCfg cfgLineNo) ((nodup_slots _).filter _)
    (fun j hj => lt_of_mem_slots j (List.mem_of_mem_filter hj)) (mem_filter_slotCfg hk hf hen hvc hno)
  have hmf : (csiSlot u r k).frame = some (m f) := by rw [hslot, hf]; rfl
  have hmark : csiLineStart r line k u = updFrameOf r k (fun f => { f with announced := some (line % 65536) }) u :=
    if_pos (by rw [hmf]; rfl)
  have hend : (csiSlot (execLineStart r vc ecc line s) r k).frame = some { m f with announced := some (line % 65536) } := by
    refine (congrArg CsiSlot.frame hafter.slot).trans ?_
    rw [hmark, csiSlot_updFrameOf_same hk, hmf]
    rfl
  rw [hend]
  rfl

/-! ## Generic short packets -/

/-- A header changes no register below those of the channels but its own counter. -/
theorem head_not_mem {vc off : Nat} (ho : off < 0x180) (hne : off ≠ Off.CSI_CNT_ECC_CORR) : off ∉ headOffs vc := by
  have hbounds := vcOff_bounds vc
  unfold headOffs
  rw [List.mem_cons, List.mem_singleton]
  omega

theorem execGenericShortPacket_counts {s : State} {r : Nat} {ecc : Ecc} (hlive : csiLive s r = true) (hburst : (csiOf s r).burst = true)
    (hecc : ∀ v, ecc ≠ .bad v) (vc : Nat) : Counted (pgCsi r) Off.CSI_CNT_GENERIC 1 s (execGenericShortPacket r vc ecc s) ∧
      (csiOf (execGenericShortPacket r vc ecc s) r).burst = true := by
  obtain ⟨u, hu, e⟩ := csiPacket_taken hlive hburst vc (fun s => vcSlots s r vc) (bump (pgCsi r) Off.CSI_CNT_GENERIC 1) hecc
  have e' : execGenericShortPacket r vc ecc s = bump (pgCsi r) Off.CSI_CNT_GENERIC 1 u := e
  rw [e']
  exact ⟨(counted_bump ..).congr (hu.reg_eq (by decide) (head_not_mem (by decide) (by decide))) rfl, hu.burst.trans hburst⟩

/-! ## The payload's check (R185) -/

theorem raised_csi {r b : Nat} (hb : b ≤ 11) {s : State} : Raised (pgCsi r) b (raise (pgCsi r) b s) := flag_raise_same _ _ hb (by omega)

/-- A payload whose CRC does not match is counted, and for its channel. -/
def csiChecked (r vc : Nat) (crcOk : Bool) (s : State) : State :=
  if crcOk then s else s |> bump (pgCsi r) Off.CSI_CNT_CRC 1 |> raise (pgCsi r) Evt.CSI_CRC |> avkCount r vc 16

section
variable (r vc : Nat) (crcOk : Bool) (s : State)

theorem csiSlot_csiChecked (k : Nat) : csiSlot (csiChecked r vc crcOk s) r k = csiSlot s r k := by
  unfold csiChecked
  split
  · rfl
  · rw [csiSlot_of_csi (avkCount_csi ..), csiSlot_raise, csiSlot_bump]

theorem reg_csiChecked {off : Nat} (ho : off < 0x180) (hcrc : off ≠ Off.CSI_CNT_CRC) (hevt : off ≠ Off.EVT_RAW) :
    reg (csiChecked r vc crcOk s) (pageBase (pgCsi r) + off) = reg s (pageBase (pgCsi r) + off) := by
  have hbounds := vcOff_bounds vc
  unfold csiChecked
  split
  · rfl
  · rw [reg_avkCount _ _ _ _ (addr_ne (by omega) (by omega) (by omega)), reg_raise_ne (addr_ne (by omega) (by decide) hevt),
      reg_bump_ne 1 (addr_ne (by omega) (by decide) hcrc)]

theorem csiChecked_counts (h : crcOk = false) :
    Counted (pgCsi r) Off.CSI_CNT_CRC 1 s (csiChecked r vc crcOk s) ∧ Raised (pgCsi r) Evt.CSI_CRC (csiChecked r vc crcOk s) := by
  have hbounds := vcOff_bounds vc
  have hraised : Raised (pgCsi r) Evt.CSI_CRC (raise (pgCsi r) Evt.CSI_CRC (bump (pgCsi r) Off.CSI_CNT_CRC 1 s)) :=
    raised_csi (by decide)
  have hapart {off : Nat} (ho : off < 0x180) (t : State) :
      reg (avkCount r vc 16 t) (pageBase (pgCsi r) + off) = reg t (pageBase (pgCsi r) + off) :=
    reg_avkCount _ _ _ _ (addr_ne (by omega) (by omega) (by omega))
  subst h
  refine ⟨(counted_bump ..).congr rfl ?_, hraised.of_reg (hapart (by decide) _)⟩
  exact (hapart (by decide) _).trans (reg_raise_ne (addr_ne (by decide) (by decide) (by decide)))

theorem typedSlots_csiChecked (dt : Nat) : typedSlots r vc dt (csiChecked r vc crcOk s) = typedSlots r vc dt s := by
  have hcfg (k : Nat) : slotCfg (csiChecked r vc crcOk s) r k = slotCfg s r k := by unfold slotCfg; rw [csiSlot_csiChecked]
  unfold typedSlots vcSlots
  simp only [hcfg]

end

/-! ## Where a long packet goes (R184, R191) -/

/-- A packet of pixels goes to the first slot that takes it, or matches none. -/
def csiPixels (r vc dt : Nat) (crcOk : Bool) (payload : List Byte) (s : State) : State :=
  match typedSlots r vc dt s with
  | [] => s |> bump (pgCsi r) Off.CSI_CNT_UNMATCHED 1 |> raise (pgCsi r) Evt.CSI_UNMATCHED
  | k :: _ =>
    if (csiSlot s r k).frame.isSome then csiLine r k crcOk payload s
    else if (csiSlot s r k).gated then s
    else bump (pgCsi r) Off.CSI_CNT_ORPHAN 1 s

section
variable {s : State} {r vc dt : Nat} {ecc : Ecc} (hlive : csiLive s r = true) (hburst : (csiOf s r).burst = true)
  (hecc : ∀ v, ecc ≠ .bad v) (crcOk : Bool) (payload : List Byte)
include hlive hburst hecc

/-- A long packet: its header, its payload's check, then its pixels. -/
theorem execLongPacket_taken : ∃ u, Heard r vc s u ∧ typedSlots r vc dt (csiChecked r vc crcOk u) = typedSlots r vc dt s ∧
    execLongPacket r vc dt ecc crcOk payload s = csiPixels r vc dt crcOk payload (csiChecked r vc crcOk u) := by
  obtain ⟨u, hu, e⟩ := csiPacket_taken hlive hburst vc (typedSlots r vc dt)
    (fun s => csiPixels r vc dt crcOk payload (csiChecked r vc crcOk s)) hecc
  exact ⟨u, hu, (typedSlots_csiChecked ..).trans (hu.filter_slotCfg fun c => cfgDt c == dt), e⟩

end

/-- A long packet that no slot takes (R191). -/
theorem execLongPacket_unmatched {s : State} {r vc dt : Nat} {ecc : Ecc} (hlive : csiLive s r = true) (hburst : (csiOf s r).burst = true)
    (hecc : ∀ v, ecc ≠ .bad v) (crcOk : Bool) (payload : List Byte) (hnone : typedSlots r vc dt s = []) :
    Counted (pgCsi r) Off.CSI_CNT_UNMATCHED 1 s (execLongPacket r vc dt ecc crcOk payload s) ∧
      Raised (pgCsi r) Evt.CSI_UNMATCHED (execLongPacket r vc dt ecc crcOk payload s) ∧
      (crcOk = false → Counted (pgCsi r) Off.CSI_CNT_CRC 1 s (execLongPacket r vc dt ecc crcOk payload s) ∧
        Raised (pgCsi r) Evt.CSI_CRC (execLongPacket r vc dt ecc crcOk payload s)) := by
  obtain ⟨u, hu, hslots, e⟩ := execLongPacket_taken (dt := dt) hlive hburst hecc crcOk payload
  have e' : execLongPacket r vc dt ecc crcOk payload s =
      raise (pgCsi r) Evt.CSI_UNMATCHED (bump (pgCsi r) Off.CSI_CNT_UNMATCHED 1 (csiChecked r vc crcOk u)) := by
    rw [e]
    unfold csiPixels
    rw [hslots, hnone]
  have hevt {off : Nat} (ho : off < 0x1000) (hne : off ≠ Off.EVT_RAW) (t : State) :
      reg (raise (pgCsi r) Evt.CSI_UNMATCHED t) (pageBase (pgCsi r) + off) = reg t (pageBase (pgCsi r) + off) :=
    reg_raise_ne (addr_ne ho (by decide) hne)
  rw [e']
  refine ⟨(counted_bump ..).congr ?_ (hevt (by decide) (by decide) _), raised_csi (by decide), fun hcrc => ?_⟩
  · rw [reg_csiChecked _ _ _ _ (by decide) (by decide) (by decide), hu.reg_eq (by decide) (head_not_mem (by decide) (by decide))]
  · obtain ⟨hcount, hraised⟩ := csiChecked_counts r vc crcOk u hcrc
    have hbump {off : Nat} (ho : off < 0x1000) (hne : off ≠ Off.CSI_CNT_UNMATCHED) (t : State) :
        reg (bump (pgCsi r) Off.CSI_CNT_UNMATCHED 1 t) (pageBase (pgCsi r) + off) = reg t (pageBase (pgCsi r) + off) :=
      reg_bump_ne 1 (addr_ne ho (by decide) hne)
    refine ⟨hcount.congr (hu.reg_eq (by decide) (head_not_mem (by decide) (by decide))) ?_, ?_⟩
    · rw [hevt (by decide) (by decide), hbump (by decide) (by decide)]
    · exact (hraised.of_reg (hbump (by decide) (by decide) _)).raise _ (by decide)

end Sys2Proof.Machine
end

section
/-! # The next line of an open frame (R187, R189) -/
namespace Sys2Proof.Machine

/-! ## A line before its delivery -/

/-- The line's announcement is used up, and a payload whose CRC does not match is marked (R185, R189). -/
def lineChecked (r k : Nat) (crcOk : Bool) (s : State) : State :=
  let s := updFrameOf r k (fun f => { f with announced := none }) s
  if crcOk then s else updFrameOf r k (fun f => { CsiFrame.flag flCrc f with crc := f.crc + 1 }) s

/-- The line is received. -/
def lineTaken (r k : Nat) (crcOk : Bool) (s : State) : State :=
  updFrameOf r k (fun f => { f with linesRx := f.linesRx + 1 }) (lineChecked r k crcOk s)

/-- A line of frame f whose n bytes are not whole pixel groups is marked. -/
def linePart (r k : Nat) (f : CsiFrame) (n : Nat) (s : State) : State :=
  if n % (dtGroup (cfgDt f.cfg)).1 = 0 then s else updFrameOf r k (CsiFrame.flag flPartial) s

/-- A line of frame f of n bytes and m pixels is marked where they are not whole groups, and where the frame has another width. -/
def lineMarked (r k : Nat) (f : CsiFrame) (n m : Nat) (s : State) : State :=
  let s := linePart r k f n s
  if m < f.width then
    updFrameOf r k (fun f => { CsiFrame.flag flShortLine f with short := f.short + 1 }) s |> bump (pgCsi r) Off.CSI_CNT_SHORT_LINE 1
  else if f.width < m then
    updFrameOf r k (fun f => { CsiFrame.flag flLongLine f with long := f.long + 1 }) s |> bump (pgCsi r) Off.CSI_CNT_LONG_LINE 1
  else s

/-- The pixels of a line as the frame takes them: as many as it is wide (R187). -/
def csiFitted (f : CsiFrame) (payload : List Byte) : List (List Nat) :=
  fitLine (cfgDt f.cfg) (cfgPad f.cfg) f.width (unpackLine (cfgDt f.cfg) payload)

theorem csiPad_none {r k stop : Nat} {f : CsiFrame} {s : State} (hf : (csiSlot s r k).frame = some f) (h : stop ≤ f.next) (n : Nat) :
    csiPad r k stop n s = (0, s) := by
  cases n with
  | zero => rfl
  | succ n =>
    unfold csiPad
    rw [hf]
    exact if_pos (by simp [h])

/-- A mark survives the count of a received line. -/
theorem MarkedAs.received {f g : CsiFrame} (h : MarkedAs f g) :
    MarkedAs { f with linesRx := f.linesRx + 1 } { g with linesRx := g.linesRx + 1 } :=
  (congrArg (fun g : CsiFrame => { g with linesRx := g.linesRx + 1 }) h :)

section
variable {r k : Nat} (hk : k < 4)
include hk

theorem csiSlot_updFrameOf_some {f : CsiFrame} {s : State} (hf : (csiSlot s r k).frame = some f) (m : CsiFrame → CsiFrame) :
    csiSlot (updFrameOf r k m s) r k = { csiSlot s r k with frame := some (m f) } := by
  rw [csiSlot_updFrameOf_same hk, hf]
  rfl

theorem slotMarked_ite {c : Prop} [Decidable c] {m : CsiFrame → CsiFrame} (hm : ∀ f, MarkedAs f (m f)) (s : State) :
    SlotMarked (csiSlot s r k) (csiSlot (if c then s else updFrameOf r k m s) r k) := by
  split
  · exact .refl _
  · exact slotMarked_updFrameOf hk hm s

theorem lineChecked_frame {f : CsiFrame} {s : State} (crcOk : Bool) (hf : (csiSlot s r k).frame = some f) : ∃ g,
    MarkedAs { f with announced := none } g ∧ csiSlot (lineChecked r k crcOk s) r k = { csiSlot s r k with frame := some g } := by
  obtain ⟨m, hm, hslot⟩ := slotMarked_ite (r := r) hk (c := crcOk = true) (m := fun f => { CsiFrame.flag flCrc f with crc := f.crc + 1 })
    (fun _ => rfl) (updFrameOf r k (fun f => { f with announced := none }) s)
  rw [csiSlot_updFrameOf_some hk hf] at hslot
  exact ⟨m { f with announced := none }, hm _, hslot⟩

theorem lineTaken_frame {f : CsiFrame} {s : State} (crcOk : Bool) (hf : (csiSlot s r k).frame = some f) : ∃ g,
    MarkedAs { f with announced := none, linesRx := f.linesRx + 1 } g ∧
      csiSlot (lineTaken r k crcOk s) r k = { csiSlot s r k with frame := some g } := by
  obtain ⟨g, hg, hslot⟩ := lineChecked_frame hk crcOk hf
  refine ⟨_, hg.received, ?_⟩
  unfold lineTaken
  rw [csiSlot_updFrameOf_some hk (congrArg CsiSlot.frame hslot), hslot]

theorem slotMarked_linePart (f : CsiFrame) (n : Nat) (s : State) : SlotMarked (csiSlot s r k) (csiSlot (linePart r k f n s) r k) :=
  slotMarked_ite hk (fun f => (rfl : MarkedAs f (CsiFrame.flag flPartial f))) s

theorem slotMarked_lineMarked (f : CsiFrame) (n m : Nat) (s : State) :
    SlotMarked (csiSlot s r k) (csiSlot (lineMarked r k f n m s) r k) := by
  unfold lineMarked
  refine (slotMarked_linePart hk f n s).trans ?_
  dsimp only
  split
  · exact slotMarked_updFrameOf hk (fun f => (rfl : MarkedAs f { CsiFrame.flag flShortLine f with short := f.short + 1 })) _
  · split
    · exact slotMarked_updFrameOf hk (fun f => (rfl : MarkedAs f { CsiFrame.flag flLongLine f with long := f.long + 1 })) _
    · exact .refl _

end

theorem work_lineTaken (r k : Nat) (crcOk : Bool) (s : State) : Work r k s (lineTaken r k crcOk s) := by
  have hnone := work_updFrameOf r k s fun f => { f with announced := none }
  exact (Work.ite hnone (hnone.trans (work_updFrameOf r k _ _))).trans (work_updFrameOf r k _ _)

theorem work_lineMarked (r k : Nat) (f : CsiFrame) (n m : Nat) (s : State) : Work r k s (lineMarked r k f n m s) := by
  have hpart : Work r k s (linePart r k f n s) := .ite (.refl r k s) (work_updFrameOf r k s _)
  refine hpart.trans (.ite ?_ (.ite ?_ (.refl r k _)))
  · exact (work_updFrameOf r k _ _).trans (work_bump r k _ 1 (by decide))
  · exact (work_updFrameOf r k _ _).trans (work_bump r k _ 1 (by decide))

/-! ## The next line -/

/-- Frame f waits for its next line, and that line comes: it is not cut, has lines left, and no other line is announced. -/
structure NextLine (f : CsiFrame) : Prop where
  cut : f.cutLine = 0xFFFF
  next : f.next < f.height
  announced : f.announced = none ∨ f.announced = some (f.next + 1)

theorem NextLine.marked {f g : CsiFrame} (h : NextLine f) (hg : MarkedAs f g) : NextLine g := by
  unfold MarkedAs at hg
  rw [hg]
  exact ⟨h.cut, h.next, h.announced⟩

section
variable {r k : Nat} {f : CsiFrame} {s : State} (hk : k < 4) (hf : (csiSlot s r k).frame = some f) (hline : NextLine f)
include hk hf hline

theorem csiLine_eq (crcOk : Bool) (payload : List Byte) : csiLine r k crcOk payload s =
    updFrameOf r k (fun g => { g with next := f.next + 1 }) (csiDeliver r k f.next (csiFitted f payload)
      (lineMarked r k f payload.length (unpackLine (cfgDt f.cfg) payload).length (lineTaken r k crcOk s))) := by
  obtain ⟨hcut, hnext, hann⟩ := hline
  have hidx : f.announced.getD (f.next + 1) = f.next + 1 := by rcases hann with h | h <;> rw [h] <;> rfl
  obtain ⟨g, hg, hslot⟩ := lineChecked_frame hk crcOk hf
  have hgf : (csiSlot (lineChecked r k crcOk s) r k).frame = some g := congrArg CsiSlot.frame hslot
  have hgnext : g.next = f.next := (congrArg CsiFrame.next hg :)
  have hgcut : g.cutLine = f.cutLine := (congrArg CsiFrame.cutLine hg :)
  have hpad : csiPad r k (f.next + 1 - 1) f.height (lineChecked r k crcOk s) = (0, lineChecked r k crcOk s) := csiPad_none hgf (by omega) _
  unfold lineChecked at hpad hgf
  unfold csiLine
  rw [hf]
  dsimp only at hpad hgf ⊢
  rw [hidx, if_neg (by rw [hcut]; decide), if_neg (by omega), if_neg (by omega), hpad]
  dsimp only
  rw [hgf, Option.map_some, Option.getD_some, hgcut, if_neg (by rw [hcut]; decide)]
  rfl

/-- The next line leaves the frame as it takes the line, to be delivered: then the frame moves on. -/
theorem csiLine_next (crcOk : Bool) (payload : List Byte) : ∃ w g, Work r k s w ∧
    MarkedAs { f with announced := none, linesRx := f.linesRx + 1 } g ∧ csiSlot w r k = { csiSlot s r k with frame := some g } ∧
    csiLine r k crcOk payload s =
      updFrameOf r k (fun g => { g with next := f.next + 1 }) (csiDeliver r k f.next (csiFitted f payload) w) := by
  obtain ⟨g, hg, hslot⟩ := lineTaken_frame hk crcOk hf
  obtain ⟨m, hm, hmarked⟩ := slotMarked_lineMarked (r := r) hk f payload.length (unpackLine (cfgDt f.cfg) payload).length
    (lineTaken r k crcOk s)
  refine ⟨_, m g, (work_lineTaken r k crcOk s).trans (work_lineMarked r k f ..), hg.trans (hm g), ?_, csiLine_eq hk hf hline crcOk payload⟩
  rw [hmarked, hslot]
  rfl

/-- The frame after its next line (R187, R189). -/
structure LineGone (f g : CsiFrame) : Prop where
  next : g.next = f.next + 1
  linesRx : g.linesRx = f.linesRx + 1
  announced : g.announced = none
  frameNo : g.frameNo = f.frameNo

theorem csiLine_goes (crcOk : Bool) (payload : List Byte) : Work r k s (csiLine r k crcOk payload s) ∧
    ∃ g, (csiSlot (csiLine r k crcOk payload s) r k).frame = some g ∧ LineGone f g := by
  obtain ⟨w, g, hw, hg, hslot, e⟩ := csiLine_next hk hf hline crcOk payload
  have hdeliver := lineWork_csiDeliver (r := r) hk f.next (csiFitted f payload) w
  obtain ⟨m, fifo, hm, hfed⟩ := hdeliver.slot
  have hmg : (csiSlot (csiDeliver r k f.next (csiFitted f payload) w) r k).frame = some (m g) := by rw [hfed, hslot]; rfl
  rw [e]
  refine ⟨(hw.trans hdeliver.toWork).trans (work_updFrameOf r k _ _), { m g with next := f.next + 1 }, ?_, ?_⟩
  · rw [csiSlot_updFrameOf_some hk hmg]
  · have hsame := (hm g).same
    exact ⟨rfl, (congrArg CsiFrame.linesRx hsame :).trans (congrArg CsiFrame.linesRx hg :),
      (congrArg CsiFrame.announced hsame :).trans (congrArg CsiFrame.announced hg :),
      (congrArg CsiFrame.frameNo hsame :).trans (congrArg CsiFrame.frameNo hg :)⟩

/-- The line goes to the queue of a queue stream, where it has room (R194). -/
theorem csiLine_queue (crcOk : Bool) (payload : List Byte) (hq : cfgQueue f.cfg = true)
    (hroom : fifoBytes ((csiSlot s r k).fifo ++ [(f.id, packLine (cfgDt f.cfg) (csiFitted f payload))]) ≤ 65536) :
    (csiSlot (csiLine r k crcOk payload s) r k).fifo = (csiSlot s r k).fifo ++ [(f.id, packLine (cfgDt f.cfg) (csiFitted f payload))] := by
  obtain ⟨w, g, -, hg, hslot, e⟩ := csiLine_next hk hf hline crcOk payload
  have hcfg : g.cfg = f.cfg := (congrArg CsiFrame.cfg hg :)
  have hid : g.id = f.id := (congrArg CsiFrame.id hg :)
  have hcut : g.cutLine = 0xFFFF := (congrArg CsiFrame.cutLine hg :).trans hline.cut
  have hfifo : (csiSlot w r k).fifo = (csiSlot s r k).fifo := by rw [hslot]
  have hdeliver := csiDeliver_queue (line := f.next) hk (congrArg CsiSlot.frame hslot) hcut (by rw [hcfg]; exact hq)
    (by rw [hfifo, hid, hcfg]; exact hroom)
  rw [e, csiSlot_updFrameOf_same hk, hdeliver, hfifo, hid, hcfg]

end

/-! ## A long packet that brings the next line -/

section
variable {s : State} {r vc dt k : Nat} {ecc : Ecc} {f : CsiFrame} (hlive : csiLive s r = true) (hburst : (csiOf s r).burst = true)
  (hecc : ∀ v, ecc ≠ .bad v) (hk : k < 4) (hf : (csiSlot s r k).frame = some f) (hfirst : (typedSlots r vc dt s).head? = some k)
include hlive hburst hecc hk hf hfirst

/-- The packet's line comes to the slot that takes it, after its header and its check. -/
theorem execLongPacket_line (crcOk : Bool) (payload : List Byte) : ∃ (u : State) (m : CsiFrame → CsiFrame), Heard r vc s u ∧ (∀ f, MarkedAs f (m f)) ∧
    csiSlot (csiChecked r vc crcOk u) r k = { csiSlot s r k with frame := some (m f) } ∧
    execLongPacket r vc dt ecc crcOk payload s = csiLine r k crcOk payload (csiChecked r vc crcOk u) := by
  obtain ⟨u, hu, hslots, e⟩ := execLongPacket_taken (dt := dt) hlive hburst hecc crcOk payload
  obtain ⟨m, hm, hslot⟩ := hu.slots k hk
  obtain ⟨l, hl⟩ := List.head?_eq_some_iff.mp hfirst
  have hmf : csiSlot (csiChecked r vc crcOk u) r k = { csiSlot s r k with frame := some (m f) } := by
    rw [csiSlot_csiChecked, hslot, hf]
    rfl
  refine ⟨u, m, hu, hm, hmf, ?_⟩
  rw [e]
  unfold csiPixels
  rw [hslots, hl]
  exact if_pos (by rw [hmf]; rfl)

variable (hline : NextLine f)
include hline

theorem execLongPacket_next (crcOk : Bool) (payload : List Byte) :
    (crcOk = false → Counted (pgCsi r) Off.CSI_CNT_CRC 1 s (execLongPacket r vc dt ecc crcOk payload s)) ∧
      ∃ g, (csiSlot (execLongPacket r vc dt ecc crcOk payload s) r k).frame = some g ∧ LineGone f g := by
  obtain ⟨u, m, hu, hm, hslot, e⟩ := execLongPacket_line hlive hburst hecc hk hf hfirst crcOk payload
  obtain ⟨hwork, g, hg, hgone⟩ := csiLine_goes hk (congrArg CsiSlot.frame hslot) (hline.marked (hm f)) crcOk payload
  have hmark := hm f
  rw [e]
  refine ⟨fun hcrc => ?_, g, hg, ?_⟩
  · have hcount := (csiChecked_counts r vc crcOk u hcrc).1
    have hoff : Off.CSI_CNT_CRC = 0x08C := rfl
    have hlast : Off.CSI_LAST = 0x160 := rfl
    have hnot : Off.CSI_CNT_CRC ∉ slotOffs k := by
      refine fun hmem => ?_
      rcases List.mem_cons.mp hmem with h | h
      · omega
      · exact absurd h (by decide)
    exact hcount.congr (hu.reg_eq (by decide) (head_not_mem (by decide) (by decide))) (hwork.reg_eq (by decide) hnot)
  · exact ⟨hgone.next.trans (congrArg (CsiFrame.next · + 1) hmark :), hgone.linesRx.trans (congrArg (CsiFrame.linesRx · + 1) hmark :),
      hgone.announced, hgone.frameNo.trans (congrArg CsiFrame.frameNo hmark :)⟩

theorem execLongPacket_queue (crcOk : Bool) (payload : List Byte) (hq : cfgQueue f.cfg = true)
    (hroom : fifoBytes ((csiSlot s r k).fifo ++ [(f.id, packLine (cfgDt f.cfg) (csiFitted f payload))]) ≤ 65536) :
    (csiSlot (execLongPacket r vc dt ecc crcOk payload s) r k).fifo =
      (csiSlot s r k).fifo ++ [(f.id, packLine (cfgDt f.cfg) (csiFitted f payload))] := by
  obtain ⟨u, m, -, hm, hslot, e⟩ := execLongPacket_line hlive hburst hecc hk hf hfirst crcOk payload
  have hcfg : (m f).cfg = f.cfg := (congrArg CsiFrame.cfg (hm f) :)
  have hfit : ((m f).id, packLine (cfgDt (m f).cfg) (csiFitted (m f) payload)) = (f.id, packLine (cfgDt f.cfg) (csiFitted f payload)) :=
    (congrArg (fun g : CsiFrame => (g.id, packLine (cfgDt g.cfg) (csiFitted g payload))) (hm f) :)
  have hqueue := csiLine_queue hk (congrArg CsiSlot.frame hslot) (hline.marked (hm f)) crcOk payload (by rw [hcfg]; exact hq)
    (by rw [hslot, hfit]; exact hroom)
  rw [e, hqueue, hslot, hfit]

end

/-- Settles O31: a packet's header and check leave what its slot's frame takes lines by, and a next line is delivered as it is marked. -/
theorem lines : Obligations.Lines := by
  unfold Obligations.Lines
  intro takes opens inLine first
  refine ⟨?_, ?_, ?_, ?_, ?_, ?_, ?_⟩
  · rintro s r vc ecc line k f ⟨hlive, hburst, hecc⟩ ⟨hk, hf, hen, hvc⟩ hno
    exact ⟨_, rfl, execLineStart_announces hlive hburst hecc hk line hf hen hvc hno⟩
  · rintro s r vc ⟨hlive, hburst, -⟩
    exact ⟨_, congrArg Host.Outcome.next (csiPacket_clean hlive hburst ..), rfl⟩
  · rintro s r vc ⟨hlive, hburst, -⟩
    refine ⟨_, congrArg Host.Outcome.next (csiPacket_corrected hlive hburst vc (fun s => vcSlots s r vc) fun s => s), ?_, ?_, ?_⟩
    · exact counted_csiCorrected ..
    · exact (heard_csiCorrected ..).burst.trans hburst
    · exact regsBut_csiCorrected _ _ _ _
  · rintro s r vc ecc ⟨hlive, hburst, hecc⟩
    exact ⟨_, rfl, execGenericShortPacket_counts hlive hburst hecc vc⟩
  · rintro s r vc dt ecc crcOk bs ⟨hlive, hburst, hecc⟩ hnone
    exact ⟨_, rfl, execLongPacket_unmatched hlive hburst hecc crcOk bs (List.head?_eq_none_iff.mp (Option.eq_none_iff_forall_ne_some.mpr hnone))⟩
  · rintro s r vc dt ecc crcOk bs k f ⟨hlive, hburst, hecc⟩ ⟨hk, hf, -, -⟩ hfirst hcut hnext hann
    obtain ⟨hcount, g, hg, hgone⟩ := execLongPacket_next hlive hburst hecc hk hf hfirst ⟨hcut, hnext, hann⟩ crcOk bs
    exact ⟨_, rfl, hcount, g, hg, hgone.next, hgone.linesRx, hgone.announced, hgone.frameNo⟩
  · rintro s r vc dt ecc crcOk bs k f ⟨hlive, hburst, hecc⟩ ⟨hk, hf, -, -⟩ hfirst hcut hnext hann hq hroom
    exact ⟨_, rfl, execLongPacket_queue hlive hburst hecc hk hf hfirst ⟨hcut, hnext, hann⟩ crcOk bs hq hroom⟩

end Sys2Proof.Machine
end

section
/-! # Receivers over time (R190, R192, R195, R196, R198) -/
namespace Sys2Proof.Machine

/-! ## A frame that lasts too long (R190, R192) -/

theorem execFrameTimeout_due {s : State} {r k : Nat} {f : CsiFrame} (hf : (csiSlot s r k).frame = some f) (hlive : csiLive s r = true)
    (hlimit : f.limit ≠ 0) (hlong : elapsed s f.opened (f.sofTt % 64 + f.limit) = true) :
    execFrameTimeout r k s = updFrameOf r k (fun f => { f with due := true }) s := by
  unfold execFrameTimeout
  rw [hf]
  exact if_pos (by simp [hlive, hlimit, hlong])

/-- A due frame is marked, counted and told; then it closes. -/
def timeoutMarked (r k : Nat) (s : State) : State :=
  updFrameOf r k (CsiFrame.flag flTimeout) s |> bump (pgCsi r) Off.CSI_CNT_TIMEOUT 1 |> raise (pgCsi r) Evt.CSI_TIMEOUT

section
variable {s : State} {r k : Nat} {f : CsiFrame} (hf : (csiSlot s r k).frame = some f)

include hf

theorem csiTimeout_due (hdue : f.due = true) :
    csiTimeout r k s = csiClose r k (64 * beatNo s) (timeoutMarked r k s) := by
  unfold csiTimeout
  rw [hf]
  exact if_pos hdue

variable (hk : k < 4)
include hk

theorem csiSlot_timeoutMarked : csiSlot (timeoutMarked r k s) r k = { csiSlot s r k with frame := some (CsiFrame.flag flTimeout f) } := by
  unfold timeoutMarked
  rw [csiSlot_raise, csiSlot_bump, csiSlot_updFrameOf_some hk hf]

variable (hdue : f.due = true)
include hdue

theorem csiTimeout_tells : Counted (pgCsi r) Off.CSI_CNT_TIMEOUT 1 s (csiTimeout r k s) ∧
    Raised (pgCsi r) Evt.CSI_TIMEOUT (csiTimeout r k s) := by
  have hclose := work_csiClose (r := r) hk (64 * beatNo s) (timeoutMarked r k s)
  have hoff : Off.CSI_CNT_TIMEOUT = 0x0A4 := rfl
  have hlast : Off.CSI_LAST = 0x160 := rfl
  have hnot : Off.CSI_CNT_TIMEOUT ∉ slotOffs k := fun hm => by
    rcases List.mem_cons.mp hm with h | h
    · omega
    · exact absurd h (by decide)
  rw [csiTimeout_due hf hdue]
  refine ⟨(counted_bump ..).congr rfl ((hclose.reg_eq (by decide) hnot).trans ?_), hclose.raised _ (raised_csi (by decide))⟩
  exact reg_raise_ne (addr_ne (by decide) (by decide) (by decide))

theorem csiTimeout_closes : (csiSlot (csiTimeout r k s) r k).frame = none ∧
    ∃ g, (csiSlot (csiTimeout r k s) r k).closing = (csiSlot s r k).closing ++ [g] ∧ g.frameNo = f.frameNo ∧
      bitAt g.flags flTimeout = true ∧ g.eofTt = 64 * beatNo s := by
  have hmarked := csiSlot_timeoutMarked hf hk
  obtain ⟨⟨g, fifo, hg, hslot⟩, -, -⟩ := csiClose_closes hk (64 * beatNo s) (congrArg CsiSlot.frame hmarked)
  rw [csiTimeout_due hf hdue, hslot, hmarked]
  exact ⟨rfl, g, rfl, hg.frameNo, hg.flags _ (bitAt_flag_same _ _), hg.eofTt⟩

end

/-! ## The descriptor of a closed frame (R190, R198) -/

/-- The oldest closed frame of a slot, f, is done: it leaves the frames that wait, and is told, apart if it has marks. -/
def frameDone (r k : Nat) (f : CsiFrame) (rest : List CsiFrame) (s : State) : State :=
  let s := updSlot r k (fun t => { t with closing := rest }) s |> endCmd (pgCsi r) (4 * f.id + k) |> raise (pgCsi r) Evt.CSI_FRAME_DONE
  if f.flags = 0 then s else raise (pgCsi r) Evt.CSI_FRAME_FLAGGED s

/-- Its descriptor waits for the queue that it names, if that has room. -/
def frameDescribed (r k : Nat) (f : CsiFrame) (s : State) : State :=
  if !bitOf f.descq 31 then s
  else if 16 ≤ (csiSlot s r k).descs.length then bump (pgCsi r) Off.CSI_CNT_DESC_LOST 1 s
  else updSlot r k (fun t => { t with descs := t.descs ++ [(fieldOf f.descq 0 18, frameDesc r k (flag s (pgCsi r) Off.CSI_CFG 17) f)] }) s

section
variable {s : State} {r k : Nat} {f : CsiFrame} {rest : List CsiFrame}

theorem execFrameDescriptor_eq (hp : pagePresent s.part (pgCsi r) = true) (hon : pageOn s (pgCsi r) = true)
    (hclosing : (csiSlot s r k).closing = f :: rest) (hwait : linesWait (csiSlot s r k) f = false) :
    execFrameDescriptor r k s = frameDescribed r k f (frameDone r k f rest s) := by
  unfold execFrameDescriptor
  rw [hp, hon, hclosing]
  dsimp only
  rw [hwait]
  rfl

theorem frameDone_raises (r k : Nat) (f : CsiFrame) (rest : List CsiFrame) (s : State) :
    Raised (pgCsi r) Evt.CSI_FRAME_DONE (frameDone r k f rest s) ∧
      (f.flags ≠ 0 → Raised (pgCsi r) Evt.CSI_FRAME_FLAGGED (frameDone r k f rest s)) := by
  unfold frameDone
  dsimp only
  split
  · next h => exact ⟨raised_csi (by decide), fun hne => absurd h hne⟩
  · exact ⟨(raised_csi (by decide)).raise _ (by decide), fun _ => raised_csi (by decide)⟩

theorem frameDone_cfg (r k : Nat) (f : CsiFrame) (rest : List CsiFrame) (s : State) :
    flag (frameDone r k f rest s) (pgCsi r) Off.CSI_CFG 17 = flag s (pgCsi r) Off.CSI_CFG 17 := by
  have hraise (b : Nat) (u : State) : flag (raise (pgCsi r) b u) (pgCsi r) Off.CSI_CFG 17 = flag u (pgCsi r) Off.CSI_CFG 17 :=
    flag_congr (reg_raise_ne (addr_ne (by decide) (by decide) (by decide)))
  unfold frameDone
  dsimp only
  split
  · rw [hraise]
    rfl
  · rw [hraise, hraise]
    rfl

section
variable (hk : k < 4)
include hk

theorem csiSlot_frameDone (f : CsiFrame) (rest : List CsiFrame) (s : State) :
    csiSlot (frameDone r k f rest s) r k = { csiSlot s r k with closing := rest } := by
  unfold frameDone
  dsimp only
  split
  · rw [csiSlot_raise, csiSlot_endCmd, csiSlot_updSlot_same hk]
  · rw [csiSlot_raise, csiSlot_raise, csiSlot_endCmd, csiSlot_updSlot_same hk]

theorem frameDescribed_keeps (f : CsiFrame) (s : State) :
    (csiSlot (frameDescribed r k f s) r k).closing = (csiSlot s r k).closing ∧
      reg (frameDescribed r k f s) (evtOf (pgCsi r)) = reg s (evtOf (pgCsi r)) := by
  unfold frameDescribed
  split
  · exact ⟨rfl, rfl⟩
  · split
    · exact ⟨rfl, reg_bump_ne 1 (addr_ne (by decide) (by decide) (by decide))⟩
    · exact ⟨by rw [csiSlot_updSlot_same hk], rfl⟩

theorem frameDescribed_queues (hq : bitOf f.descq 31 = true) (hroom : (csiSlot s r k).descs.length < 16) :
    (csiSlot (frameDescribed r k f s) r k).descs =
      (csiSlot s r k).descs ++ [(fieldOf f.descq 0 18, frameDesc r k (flag s (pgCsi r) Off.CSI_CFG 17) f)] := by
  unfold frameDescribed
  rw [hq, if_neg (by decide), if_neg (by omega), csiSlot_updSlot_same hk]

end

end

/-! ## FSYNC (R196, R201) -/

section
variable {s : State} {r : Nat}

theorem fsyncLevel_on (hon : pageOn s (pgCsi r) = true) :
    fsyncLevel s r = ((csiOf s r).fsyncHigh != flag s (pgCsi r) Off.CSI_FSYNC 12) := if_pos hon

theorem csiOf_fsyncEdge (was : Bool) : csiOf (fsyncEdge r was s) r = csiOf s r := by unfold fsyncEdge; split <;> rfl

theorem reg_fsyncEdge (was : Bool) (a : Nat) : reg (fsyncEdge r was s) a = reg s a := by unfold fsyncEdge; split <;> rfl

theorem fsyncEdge_out (was : Bool) :
    (fsyncEdge r was s).out = s.out ++ if fsyncLevel s r = was then [] else [.fsyncPin r (fsyncLevel s r)] := by
  unfold fsyncEdge
  split
  · exact (List.append_nil _).symm
  · rfl

/-- The pin after a launch: at its active level, with an edge if it was idle. -/
theorem csiFsync_out (hon : pageOn s (pgCsi r) = true) : (csiFsync r s).out =
    s.out ++ if (csiOf s r).fsyncHigh then [] else [.fsyncPin r (!flag s (pgCsi r) Off.CSI_FSYNC 12)] := by
  let u := bump (pgCsi r) Off.CSI_CNT_FSYNC 1 (setCsi r { csiOf s r with
    fsyncs := (64 * beatNo s :: (csiOf s r).fsyncs).take 64, fsyncAt := s.tt.beats, fsyncHigh := true } s)
  have hcsi : (csiOf u r).fsyncHigh = true := congrArg CsiSt.fsyncHigh (csiOf_setCsi ..)
  have hpol : flag u (pgCsi r) Off.CSI_FSYNC 12 = flag s (pgCsi r) Off.CSI_FSYNC 12 :=
    flag_congr (reg_bump_ne 1 (addr_ne (by decide) (by decide) (by decide)))
  have hlevel : fsyncLevel u r = !flag s (pgCsi r) Off.CSI_FSYNC 12 := by
    rw [fsyncLevel_on (show pageOn u (pgCsi r) = true from hon), hcsi, hpol, Bool.true_bne]
  have e : (csiFsync r s).out = u.out ++ if fsyncLevel u r = fsyncLevel s r then [] else [.fsyncPin r (fsyncLevel u r)] := fsyncEdge_out _
  rw [e, hlevel, fsyncLevel_on hon]
  show s.out ++ _ = _
  cases (csiOf s r).fsyncHigh <;> simp

theorem csiOf_csiFsync (r : Nat) (s : State) : csiOf (csiFsync r s) r = { csiOf s r with
    fsyncs := (64 * beatNo s :: (csiOf s r).fsyncs).take 64, fsyncAt := s.tt.beats, fsyncHigh := true } :=
  (csiOf_fsyncEdge _).trans (csiOf_setCsi ..)

theorem counted_csiFsync (r : Nat) (s : State) : Counted (pgCsi r) Off.CSI_CNT_FSYNC 1 s (csiFsync r s) :=
  (counted_bump ..).congr rfl (reg_fsyncEdge ..)

theorem regsBut_csiFsync (r : Nat) (s : State) : RegsBut [pageBase (pgCsi r) + Off.CSI_CNT_FSYNC] s (csiFsync r s) := fun _ ha =>
  (reg_fsyncEdge ..).trans (reg_bump_ne 1 fun e => ha (e ▸ .head _))

/-- The pin at the end of a pulse: back at its idle level. -/
theorem execFsyncPulseEnd_eq (hon : pageOn s (pgCsi r) = true) (hhigh : (csiOf s r).fsyncHigh = true)
    (hend : elapsed s (csiOf s r).fsyncAt (fld s (pgCsi r) Off.CSI_FSYNC 0 12 * 1000) = true) :
    execFsyncPulseEnd r s = emit (.fsyncPin r (flag s (pgCsi r) Off.CSI_FSYNC 12)) (setCsi r { csiOf s r with fsyncHigh := false } s) := by
  let u := setCsi r { csiOf s r with fsyncHigh := false } s
  have hwas : fsyncLevel s r = !flag s (pgCsi r) Off.CSI_FSYNC 12 := by rw [fsyncLevel_on hon, hhigh, Bool.true_bne]
  have hnow : fsyncLevel u r = flag s (pgCsi r) Off.CSI_FSYNC 12 := by
    have hcsi : (csiOf u r).fsyncHigh = false := congrArg CsiSt.fsyncHigh (csiOf_setCsi ..)
    rw [fsyncLevel_on (show pageOn u (pgCsi r) = true from hon), hcsi, Bool.false_bne]
    rfl
  have e : execFsyncPulseEnd r s = fsyncEdge r (fsyncLevel s r) u := by
    unfold execFsyncPulseEnd
    dsimp only
    rw [hhigh, hend]
    rfl
  rw [e]
  unfold fsyncEdge
  rw [hwas, hnow, if_neg (by cases flag s (pgCsi r) Off.CSI_FSYNC 12 <;> decide)]

end

/-! ## Deals of a receiver (R196) -/

section
variable (p : Page) (s : State)

@[simp] theorem launched_csi : (launched p s).csi = s.csi := (raise_csi ..).trans rfl
@[simp] theorem launched_out : (launched p s).out = s.out := (raise_out ..).trans rfl
@[simp] theorem launched_pwr : (launched p s).pwr = s.pwr := (raise_pwr ..).trans rfl

theorem pageOn_launched (q : Page) : pageOn (launched p s) q = pageOn s q := by unfold pageOn domOn; rw [launched_pwr]

/-- A register of the page that a launch leaves. -/
theorem reg_launched {off : Nat} (ho : off < 0x1000) (hctrl : off ≠ Off.DEAL_CTRL) (hevt : off ≠ Off.EVT_RAW) :
    reg (launched p s) (pageBase p + off) = reg s (pageBase p + off) := by
  refine regsBut_launched p s _ fun hm => ?_
  rcases List.mem_cons.mp hm with h | h
  · exact addr_ne ho (by decide) hctrl h
  · exact addr_ne ho (by decide) hevt (List.mem_singleton.mp h)

end

/-- A receiver whose deal is due is powered. -/
theorem DealDue.pageOn_csi {s : State} {r action : Nat} {d : DealSt} (h : DealDue s (pgCsi r) d action) : pageOn s (pgCsi r) = true := by
  obtain ⟨-, -, -, hpower, -⟩ := h
  unfold dealPower at hpower
  simp only [Bool.and_eq_true] at hpower
  exact hpower.1.1.2

section
variable {s : State} {r : Nat} {d : DealSt}

theorem runs_fsync (h : DealDue s (pgCsi r) d 2) : Runs (.fsync r) s fun t =>
    csiOf t r = { csiOf s r with
        fsyncs := (64 * beatNo s :: (csiOf s r).fsyncs).take 64, fsyncAt := s.tt.beats, fsyncHigh := true } ∧
      Counted (pgCsi r) Off.CSI_CNT_FSYNC 1 s t ∧ Raised (pgCsi r) 0 t ∧
      t.out = s.out ++ (if (csiOf s r).fsyncHigh then [] else [.fsyncPin r (!flag s (pgCsi r) Off.CSI_FSYNC 12)]) ∧
      RegsBut ((pageBase (pgCsi r) + Off.CSI_CNT_FSYNC) :: dealRegs (pgCsi r)) s t := by
  have hcsi : csiOf (launched (pgCsi r) s) r = csiOf s r := csiOf_of_csi (launched_csi ..) r
  have hbeat : beatNo (launched (pgCsi r) s) = beatNo s := by unfold beatNo tnow; rw [launched_tt]
  have hpol : flag (launched (pgCsi r) s) (pgCsi r) Off.CSI_FSYNC 12 = flag s (pgCsi r) Off.CSI_FSYNC 12 :=
    flag_congr (reg_launched _ _ (by decide) (by decide) (by decide))
  have hregs := regsBut_csiFsync r (launched (pgCsi r) s)
  have e : execFsync r s = csiFsync r (launched (pgCsi r) s) := dealOn_due h
  refine ⟨_, congrArg Host.Outcome.next e, ?_, ?_, ?_, ?_, ?_⟩
  · rw [csiOf_csiFsync, hcsi, hbeat, launched_tt]
  · exact (counted_csiFsync r _).congr (reg_launched _ _ (by decide) (by decide) (by decide)) rfl
  · refine (raised_launched _ s).of_reg (hregs _ fun hm => ?_)
    exact addr_ne (by decide) (by decide) (by decide) (List.mem_singleton.mp hm)
  · rw [csiFsync_out ((pageOn_launched ..).trans h.pageOn_csi), hcsi, hpol, launched_out]
  · exact ((regsBut_launched _ s).mono fun _ => List.mem_cons_of_mem _).trans
      (hregs.mono fun _ hm => List.mem_cons.mpr (.inl (List.mem_singleton.mp hm)))

/-- The gate after a deal. -/
theorem csiGate_launched (r : Nat) (isOpen : Bool) (s : State) :
    flag (csiGate r isOpen (launched (pgCsi r) s)) (pgCsi r) Off.CSI_GATE 0 = isOpen ∧
      Raised (pgCsi r) 0 (csiGate r isOpen (launched (pgCsi r) s)) ∧
      RegsBut ((pageBase (pgCsi r) + Off.CSI_GATE) :: dealRegs (pgCsi r)) s (csiGate r isOpen (launched (pgCsi r) s)) :=
  ⟨flag_setFlag_same _ _ _ _ (by decide),
    (raised_launched _ s).of_reg (reg_setFlag_ne _ _ (addr_ne (by decide) (by decide) (by decide))),
    ((regsBut_launched _ s).mono fun _ => List.mem_cons_of_mem _).setFlag 0 isOpen (.head _)⟩

theorem execCaptureStart_due (h : DealDue s (pgCsi r) d 3) : execCaptureStart r s = csiGate r true (launched (pgCsi r) s) := dealOn_due h
theorem execCaptureStop_due (h : DealDue s (pgCsi r) d 4) : execCaptureStop r s = csiGate r false (launched (pgCsi r) s) := dealOn_due h

end

/-! ## Reads of the error counts (R195, R201) -/

/-- A read of a register that the function reaches answers at once. -/
theorem readAccess_readable {s : State} {w : Func} {p : Page} {off : Nat} (h : Readable s w p off) (k : State → Nat × State) :
    readAccess w p off k s = emit (.readData w (pageBase p + off) (k s).1) (k s).2 := by
  obtain ⟨hlink, hhid, hpres, hboot, hon, hheld⟩ := h
  have hanswers : (!bootRunning s && !isGlobal p) = false := by rcases hboot with h | h <;> rw [h] <;> simp
  unfold readAccess
  rw [hlink, hhid, hpres, hon, hheld, hanswers]
  rfl

theorem vcErr_eq (s : State) (r off : Nat) :
    vcErr s r off = if flag s (pgCsi r) Off.CSI_CFG 17 then (reg s (pageBase (pgCsi r) + off)).toNat else 0 := rfl

theorem execVcErrRead_readable {s : State} {w : Func} {r vc : Nat} (h : Readable s w (pgCsi r) (vcOff vc)) :
    execVcErrRead w r vc s =
      emit (.readData w (pageBase (pgCsi r) + vcOff vc) (vcErr s r (vcOff vc))) (wr (pgCsi r) (vcOff vc) 0 s) :=
  readAccess_readable h fun s => (vcErr s r (vcOff vc), wr (pgCsi r) (vcOff vc) 0 s)

/-- Settles O32: a close keeps the event and the count that a timeout gave, and each deal acts on what its launch leaves. -/
theorem capture : Obligations.Capture := by
  unfold Obligations.Capture
  intro reads pulse
  refine ⟨?_, ?_, ?_, ?_, ?_, ?_, ?_, ?_⟩
  · intro s r k f hk hf hlive hlimit hlong
    exact ⟨_, congrArg Host.Outcome.next (execFrameTimeout_due hf hlive hlimit hlong), csiSlot_updFrameOf_some hk hf _,
      fun j hj hne => csiSlot_updFrameOf_ne hj hne _ s, .of_regs rfl rfl⟩
  · intro s r k f hk hf hdue
    obtain ⟨hcount, hraised⟩ := csiTimeout_tells hf hk hdue
    exact ⟨hcount, hraised, csiTimeout_closes hf hk hdue⟩
  · intro s r k f rest hk hp hon hclosing hwait
    obtain ⟨hdone, hflagged⟩ := frameDone_raises r k f rest s
    obtain ⟨hkeep, hevt⟩ := frameDescribed_keeps (r := r) hk f (frameDone r k f rest s)
    have hslot := csiSlot_frameDone (r := r) hk f rest s
    refine ⟨_, congrArg Host.Outcome.next (execFrameDescriptor_eq hp hon hclosing hwait), ?_, hdone.of_reg hevt,
      fun hne => (hflagged hne).of_reg hevt, fun hq hroom => ?_⟩
    · rw [hkeep, hslot]
    · rw [frameDescribed_queues hk hq (by rw [hslot]; exact hroom), hslot, frameDone_cfg]
  · exact fun s r d h => runs_fsync h
  · intro s r hon hhigh hend
    exact ⟨_, congrArg Host.Outcome.next (execFsyncPulseEnd_eq hon hhigh hend), csiOf_setCsi .., rfl, .of_regs rfl rfl⟩
  · intro s r d h
    exact ⟨_, congrArg Host.Outcome.next (execCaptureStart_due h), csiGate_launched r true s⟩
  · intro s r d h
    exact ⟨_, congrArg Host.Outcome.next (execCaptureStop_due h), csiGate_launched r false s⟩
  · intro s w r vc h
    have hclear : rd (wr (pgCsi r) (vcOff vc) 0 s) (pgCsi r) (vcOff vc) = 0 := rd_wr_same ..
    refine ⟨_, congrArg Host.Outcome.next (execVcErrRead_readable h), ?_, hclear, (RegsBut.refl _ s).wr 0 (.head _)⟩
    rw [emit_out, vcErr_eq]
    rfl

end Sys2Proof.Machine
end
